-- ==== Sys2Proof/Word.lean ====
section
/-! DEFINITION. The word types of the Clatopen block and their plainest arithmetic (spec 00_scope.md R4). -/

namespace Sys2Proof

/-- A byte of memory. -/
abbrev Byte := BitVec 8

/-- A 32-bit word: an FP32 value, a vector lane, a tally counter. -/
abbrev W32 := BitVec 32

/-- A 64-bit word: a scalar register, a register of the window, a word of a structure (R4). -/
abbrev W64 := BitVec 64

end Sys2Proof
end

