-- ==== Sys2Proof/Machine/Params.lean ====
section
/-! DEFINITION. What a command may carry: the operand types of Syntax.lean. Numbers of things of which the spec fixes the count are
Fin types; bits that the spec numbers are bit vectors. -/

namespace Sys2Proof

/-- The asynchronous units of a rod (03 Table 3.1). -/
inductive AUnit where
  | matrix | vector | carry | remote
deriving DecidableEq, Repr

/-- An operation of the beam: its remote operations are the only way Penub reaches memory (01 R12). -/
structure BeamOp where
  addr : BitVec 56
  len : Nat
  op : Nat            -- atomics: 2 AADD, 3 AMAX, 4 ACAS, 5 AXCHG (R82)
  width : Nat
  b : W64
  c : W64
  data : List Byte    -- PUT
deriving DecidableEq, Repr

/-- Who made a remote operation that arrives at its target in this block. -/
inductive Requester where
  | rod (l : Fin 512) (tag : Nat)       -- the rod's outstanding operation of that tag
  | peer (port : Fin 8)                 -- the oldest request flit accepted on that port
  | beam (op : BeamOp)
deriving DecidableEq, Repr

/-- One header flit with the bytes of its data flits (14 Table 14.4). -/
structure Flit where
  w0 : W64
  w1 : W64
  w2 : W64
  w3 : W64
  data : List Byte
deriving DecidableEq, Repr

/-- One 32-byte slot of a frame: a header flit, or 32 bytes of data (14 R305, R308). -/
structure LSlot where
  w0 : W64
  w1 : W64
  w2 : W64
  w3 : W64
deriving DecidableEq, Repr

/-- A group as its receiver meets it: what its checks of the received bits find, its link flit's fields, and its traffic slots, opened
where the link is authenticated; slots beyond those listed hold IDLE flits (14 R305, R310, R311, Table 14.3). -/
structure Group where
  nak : Bool
  seq : BitVec 20
  ack : BitVec 20
  fecOk : Bool
  crcOk : Bool
  tagOk : Bool
  reqCredits : Nat
  rspCredits : Nat
  ctrlCredits : Nat
  slots : List LSlot
deriving DecidableEq, Repr

/-- The identity that a partner reports in its CTRL exchange (14 R315, R316, R318). -/
structure PartnerId where
  boardId : W64
  pos : Fin 8
  shelf : Bool
  size : Nat          -- a shelf's usable capacity
  epoch : BitVec 32   -- Memory epoch
deriving DecidableEq, Repr

/-- A host attach message as it arrives: its eight header words and the bytes of its data beats (15 Table 15.1). -/
structure Msg where
  hdr : List W64
  data : List Byte
deriving DecidableEq, Repr

/-- A credit class of the host attach port (15 R328). -/
inductive CreditClass where
  | posted | nonposted
deriving DecidableEq, Repr

/-- The forms of a bad beat (19 R418). -/
inductive BeatForm where
  | dataWithoutHeader | headerWhileOwed | withoutCredit (beats : Nat)
deriving DecidableEq, Repr

/-- Model structures (01 Table 1.3); `other` is one that the table does not name. -/
inductive ModelKind where
  | dense | moe | encoder | crossEncoder | other
deriving DecidableEq, Repr

inductive NormKind where
  | rms | layer | other
deriving DecidableEq, Repr

inductive ActKind where
  | siluGated | geluGated | gelu | other
deriving DecidableEq, Repr

inductive PosKind where
  | rotary | learned | other
deriving DecidableEq, Repr

inductive PoolKind where
  | none | mean | firstToken | lastToken | other
deriving DecidableEq, Repr

/-- The model manifest: the items of Tables 1.3 and 1.4 with what else the spec says it records (R152 banks, R213 block size, R220
end of turn). The spec gives it no bit format (log entry 9). -/
structure ModelManifest where
  kind : ModelKind
  layers : Nat
  d : Nat
  ffn : Nat
  qHeads : Nat
  kvHeads : Nat
  headDim : Nat
  experts : Nat
  sharedExperts : Nat
  expertsPerRow : Nat
  norm : NormKind
  act : ActKind
  position : PosKind
  pooling : PoolKind
  vocab : Nat
  context : Nat
  params : Nat
  weightBits : Nat
  modelId0 : W64
  modelId1 : W64
  banks : List Nat            -- bank width b of projections 0 to 6, 0 for none
  bankFormats : BitVec 4 × BitVec 4 -- weight formats of BV and BU (Table 2.2)
  kvBase : BitVec 52          -- first KV block (partition range)
  kvCount : Nat
  kvBytes : Nat               -- 64 KiB aligned size of a KV block
  program : List W64          -- the layer program image
deriving DecidableEq, Repr

/-- A shard as read from its source: its 64-byte header, ciphertext and tag; or the error response the read drew (13 R291, R295). -/
inductive ShardRead where
  | error (response : Nat)
  | bytes (header : List W64) (cipher : List Byte) (tag : List Byte)
deriving DecidableEq, Repr

/-- Where an ECC error lies (17 R370 to R373). -/
inductive ErrLoc where
  | hbm (offset : Nat)                       -- a granule of physical HBM
  | bead (phys : Nat) (offset : Nat)         -- a granule of a physical rod's bead memory
  | imem (phys : Nat) (addr : Nat)           -- an instruction word fetched for issue
  | rodUnit (phys : Nat)                     -- matrix residue mismatch, register file or unit queue parity
deriving DecidableEq, Repr

/-- Why a lane fails (14 R312). -/
inductive LaneCause where
  | threshold | signal | laser
deriving DecidableEq, Repr

/-- Fixed-function contexts (17 R373). -/
inductive FixedUnit where
  | sequencer | sampler
deriving DecidableEq, Repr

/-- The four laser commands that carry a value differ only in Value (14 Table 14.2). -/
structure LaserReply where
  op : BitVec 4
  status : BitVec 4
  value : BitVec 16
deriving DecidableEq, Repr

/-- Who wrote a register (18 R396, 21 R449): a tenant through the host attach port, or the management port. -/
inductive RegSource where
  | tenant (t : Fin 64)
  | mgmt
deriving DecidableEq, Repr

/-- Whose SPDM mailbox (16 R354). -/
inductive SpdmWho where
  | tenant (t : Fin 64)
  | mgmt
deriving DecidableEq, Repr

/-- A hot-set change that Penub's policy makes (08 R191). -/
inductive HotChange where
  | insert (row : Nat) (slot : Nat) (content : List Byte)
  | evict (row : Nat)
deriving DecidableEq, Repr

/-- What WS_FUSE programs (20 R443): the TST_DONE fuse, the repair fuse that retires a physical rod, or bits of another row. -/
inductive FuseWrite where
  | tstDone
  | retire (phys : Nat)
  | row (n : Nat) (value : BitVec 32)
deriving DecidableEq, Repr

/-- A pattern of the stack test engines (20 R445). -/
inductive HbmPattern where
  | walkingOnes | checkerboard | addressInData | prbs31 | marchCminus
deriving DecidableEq, Repr

end Sys2Proof
end

