-- ==== Sys2Proof/Syntax.lean ====
section
/-! DEFINITION. The commands of the Clatopen block: one constructor per row of spec/opcode_table.json, in the table's order. The
table gives no operands; the operands are the model's (log entry 8). `l` is a logical rod, `p` a partition, `t` a tenant, `q` a queue,
`i` a submission entry of the queue's fetched batch or a Slate entry, `e` of submit the free entry that Penub takes, `v` the 64 bits written to a register. -/

namespace Sys2Proof

inductive Instr where
  -- rod instructions (chapters 04 and 05)
  | nop (l : Fin 512)
  | srRd (l : Fin 512)
  | srWr (l : Fin 512)
  | brk (l : Fin 512)
  | br (l : Fin 512)
  | bl (l : Fin 512)
  | jr (l : Fin 512)
  | jlr (l : Fin 512)
  | integerOp (l : Fin 512)
  | integerImmediateOp (l : Fin 512)
  | cmp (l : Fin 512)
  | cmpi (l : Fin 512)
  | pred (l : Fin 512)
  | fp32ScalarOp (l : Fin 512)
  | ld (l : Fin 512)
  | st (l : Fin 512)
  | wait (l : Fin 512)
  | waitRelease (l : Fin 512)
  | tadd (l : Fin 512)
  | tileTake (l : Fin 512)
  | tileSteal (l : Fin 512)
  | stealWalkEnd (l : Fin 512)
  | tilePut (l : Fin 512)
  | vectorOp (l : Fin 512)
  | vld (l : Fin 512)
  | vst (l : Fin 512)
  | vcvtTo (l : Fin 512)
  | vcvtSc (l : Fin 512)
  | vcvtFrom (l : Fin 512)
  | accRd (l : Fin 512)
  | accWr (l : Fin 512)
  | accClr (l : Fin 512)
  | mma (l : Fin 512)
  | mmaLatched (l : Fin 512)
  | carryMap (l : Fin 512)
  | carryMix (l : Fin 512)
  | carryDown (l : Fin 512)
  | carryUp (l : Fin 512)
  | carryAdd (l : Fin 512)
  | get (l : Fin 512)
  | put (l : Fin 512)
  | aadd (l : Fin 512)
  | amax (l : Fin 512)
  | acas (l : Fin 512)
  | axchg (l : Fin 512)
  | taddR (l : Fin 512)
  | fenceL (l : Fin 512)
  | fenceB (l : Fin 512)
  | fenceP (l : Fin 512)
  | fenceH (l : Fin 512)
  | fenceComplete (l : Fin 512)
  | gather (l : Fin 512)
  | gatherComplete (l : Fin 512) (tag : Nat)
  | streamArm (l : Fin 512)
  | samplePut (l : Fin 512)
  | samplePutEmpty (l : Fin 512)
  | asyncComplete (l : Fin 512) (u : AUnit)
  | rodException (l : Fin 512)
  -- remote operations at their target (chapter 06)
  | remoteGetArrive (src : Requester)
  | remotePutArrive (src : Requester)
  | remoteAtomicArrive (src : Requester)
  | tallyAddArrive (src : Requester)
  | remoteResponse (l : Fin 512) (tag response : Nat)
  | remoteTimeout (l : Fin 512) (tag : Nat)
  -- partitions, steps, Sampler (chapters 10 and 11)
  | create (p : Fin 16)
  | start (p : Fin 16)
  | release (p : Fin 16)
  | releaseWithReplay (p : Fin 16)
  | partitionReset (p : Fin 16)
  | partitionResetEnd (p : Fin 16)
  | delete (p : Fin 16)
  | buildStart (p : Fin 16)
  | buildEnd (p : Fin 16)
  | stepSeal (p : Fin 16)
  | launchStaggerEnd (p : Fin 16) (group : Fin 8)
  | samplePutCopy (l : Fin 512) (tag : Nat)
  | samplerChoose (p : Fin 16)
  | journalComplete (p : Fin 16)
  | stepTimeout (p : Fin 16)
  -- requests and adapters (chapters 07, 09, 15)
  | submit (t : Fin 64) (q : Fin 8) (i : Nat) (e : Fin 32768)
  | pause (t : Fin 64) (q : Fin 8) (i : Nat)
  | park (t : Fin 64) (q : Fin 8) (i : Nat)
  | resume (t : Fin 64) (q : Fin 8) (i : Nat)
  | resumeComplete (i : Fin 32768)
  | cancel (t : Fin 64) (q : Fin 8) (i : Nat)
  | adapterInstall (t : Fin 64) (q : Fin 8) (i : Nat)
  | adapterReplace (t : Fin 64) (q : Fin 8) (i : Nat)
  | adapterRemove (t : Fin 64) (q : Fin 8) (i : Nat)
  -- weight loading (chapter 13)
  | load (t : Fin 64) (q : Fin 8) (i : Nat) (model : ModelManifest) (manifest : List W64)
  | shardVerify (p : Fin 16) (k : Nat) (r : ShardRead)
  | loadComplete (p : Fin 16)
  -- the Slate's own steps, staged tables (chapters 07, 08, 09, 11)
  | slateSweep
  | slateFree (i : Fin 32768)
  | packComplete (i : Fin 32768)
  | carDirStageApply (p : Fin 16)
  | directoryApply (p : Fin 16)
  | gthTblStageApply
  | tableApply
  | gthTblRelease (v : W64)
  | seqProfStageApply (p : Fin 16)
  | profileApply (p : Fin 16)
  | gthRowwrite (v : W64)
  | rowWriteFlip
  | lookupReply (e : Fin 32)
  | hotSetRefresh (tbl : Fin 1024) (changes : List HotChange)
  | shardMigration (tbl : Fin 1024) (bucket : Nat) (owner : Fin 8) (offset : BitVec 48) (newMap : BitVec 52)
  -- replicas (chapter 14)
  | replicaGrant (tbl : Fin 1024) (row : BitVec 32) (sharer : Fin 8)
  | replicaInvalidate (tbl : Fin 1024) (row : BitVec 32)
  | invalReceive (port : Fin 8)
  | invalReplyReceive (port : Fin 8)
  | invalRetry (tbl : Fin 1024) (row : BitVec 32) (sharer : Fin 8)
  | grantReceive (port : Fin 8)
  | evict (home : Fin 8) (tbl : Fin 1024) (row : BitVec 32)
  | evictReceive (port : Fin 8)
  -- memory tiers (chapter 12)
  | map (k : Nat)
  | unmap (k : Nat)
  | promote (k : Nat)
  | promoteComplete (p : Fin 16) (page : BitVec 52)
  | demote (k : Nat)
  | demoteComplete (p : Fin 16) (page : BitVec 52)
  | demoteWaitExpire (p : Fin 16) (page : BitVec 52)
  | ref (k : Nat)
  | unref (k : Nat)
  | frameRelease (k : Nat)
  | tierCmdTail (v : W64)
  | streamAccept (l : Fin 512) (tag : Nat)
  | extentComplete (p : Fin 16) (slot : Nat) (e : Nat)
  | extentFail (p : Fin 16) (slot : Nat) (e : Nat) (response : Nat)
  | scrubCheck (p : Fin 16) (k : Nat)
  | scrubMismatch (p : Fin 16) (k : Nat)
  | refetchComplete (p : Fin 16) (r : ShardRead)
  | refetchLimitExpire (p : Fin 16)
  | imbalanceWindow (bytes : List Nat)
  -- the fabric (chapter 14)
  | groupReceive (port : Fin 8) (g : Group)
  | nakReceive (port : Fin 8) (ack : BitVec 20)
  | laneWindow (port : Fin 8) (counts : List Nat)
  | laneFail (port : Fin 8) (lane : Fin 36) (cause : LaneCause)
  | laneSwapReceive (port : Fin 8) (lane : Fin 32) (spare : Fin 36)
  | laneSwapComplete (port : Fin 8)
  | probeLightSeen (port : Fin 8)
  | lightLost (port : Fin 8)
  | frameLock (port : Fin 8)
  | identityReceive (port : Fin 8) (id : PartnerId)
  | spdmSessionComplete (port : Fin 8) (ok : Bool) (identity : List Byte)
  | peerPresent (port : Fin 8)
  | linkDown (port : Fin 8)
  | verifiedGroupSilence (port : Fin 8)
  | ctrlLeaveReceive (port : Fin 8)
  | portHoldDarkEnd (port : Fin 8)
  | keyUpdate (port : Fin 8)
  | keySwitchReceive (port : Fin 8) (boundary : BitVec 20)
  | syncTimer
  | syncReq (port : Fin 8)
  | syncRsp (port : Fin 8)
  | ident (port : Fin 8) (source : Fin 36) (reply : LaserReply)
  | status (port : Fin 8) (source : Fin 36) (reply : LaserReply)
  | setPower (port : Fin 8) (source : Fin 36) (value : BitVec 16) (reply : LaserReply)
  | light (port : Fin 8) (source : Fin 36) (lit : Bool) (reply : LaserReply)
  | readPower (port : Fin 8) (source : Fin 36) (reply : LaserReply)
  | readTemp (port : Fin 8) (source : Fin 36) (reply : LaserReply)
  | laserReplyTimeout (port : Fin 8) (source : Fin 36)
  | laserFaultEdge (port : Fin 8)
  -- host attach and tenants (chapter 15)
  | writeInbound (ch : Fin 4) (m : Msg)
  | tallyInbound (ch : Fin 4) (m : Msg)
  | readInbound (ch : Fin 4) (m : Msg)
  | cplInbound (ch : Fin 4) (m : Msg)
  | cplDataInbound (ch : Fin 4) (m : Msg)
  | attach (ch : Fin 4) (t : Fin 64)
  | detach (ch : Fin 4) (t : Fin 64)
  | reset (ch : Fin 4) (t : Fin 64)
  | badBeat (ch : Fin 4) (form : BeatForm)
  | creditReturn (ch : Fin 4) (cls : CreditClass)
  | writeOutbound (ch : Fin 4)
  | readOutbound (ch : Fin 4)
  | hapTimeoutExpire (ch : Fin 4) (tag : BitVec 16)
  | tenSqTail (t : Fin 64) (q : Fin 8) (v : W64)
  | sqFetch (t : Fin 64) (q : Fin 8)
  | cqPost (t : Fin 64) (q : Fin 8)
  | tenCqHead (t : Fin 64) (q : Fin 8) (v : W64)
  | tenSqCfg (t : Fin 64) (q : Fin 8) (v : W64)
  | tenCqCfg (t : Fin 64) (q : Fin 8) (v : W64)
  | tenInDone (t : Fin 64) (v : W64)
  | tenInFree (t : Fin 64) (v : W64)
  | tenOringCfg (t : Fin 64) (r : Fin 1024) (v : W64)
  | tenOringHead (t : Fin 64) (r : Fin 1024) (v : W64)
  | vectorFire (t : Fin 64) (vec : Fin 16)
  | tenVecMask (t : Fin 64) (v : W64)
  | tenReset (t : Fin 64) (v : W64)
  | tenantResetEnd (t : Fin 64)
  | tenMark (t : Fin 64) (v : W64)
  | tenSpdmGo (t : Fin 64) (v : W64)
  | secSpdmGo (v : W64)
  | spdmResponse (who : SpdmWho)
  | hapLoopCtrl (v : W64)
  | loopbackWrite (ch : Fin 4) (m : Msg)
  | presentRise
  | presentFall
  -- security (chapter 16)
  | secDbgChal
  | secDbgToken (w : Fin 12) (v : W64)
  | secLock (v : W64)
  | pwrLock (v : W64)
  | secPartOwner (p : Fin 16) (w : Fin 6) (v : W64)
  -- faults and recovery (chapter 17)
  | correctableError (loc : ErrLoc)
  | uncorrectableError (loc : ErrLoc)
  | patrol (granule : Nat)
  | channelFailing (stack : Fin 16) (ch : Fin 31)
  | channelCopyEnd (stack : Fin 16)
  | channelLost (stack : Fin 16) (ch : Fin 31)
  | slateUe (i : Fin 32768) (word : Fin 8)
  | fixedFunctionUe (p : Fin 16) (u : FixedUnit)
  | spareSubstitution (l : Fin 512)
  | rodCeLimit (l : Fin 512)
  | peerWaitExpire (pos : Fin 8)
  | lockstepMismatch (pair : Bool)
  | heartbeatExpire (pair : Bool)
  | beamFailover
  | fallbackFreeze
  | haltAssert (ch : Bool)
  | haltDiscrepancy
  | haltRelease (ch : Bool)
  | fltHaltN (v : W64)
  | discrepancyClear
  | fieldRotation (phys : Fin 544)
  | rotationTestEnd (phys : Fin 544) (pass : Bool)
  | sramCeLimit (phys : Fin 544) (element : Nat)
  | fltEvtPend (v : W64)
  -- debug (chapter 18)
  | dbgSnapCtrl (v : W64)
  | dbgFreeze (v : W64)
  | dbgWfgCapture (v : W64)
  | wfgSecondCapture (p : Fin 16)
  | dbgRodAccess (v : W64)
  | dbgMark (v : W64)
  | triggerFire (n : Fin 4)
  | dbgTrigFire (n : Fin 4)
  | triggerFreeze (n : Fin 4)
  | traceLoss (port : Bool)
  | dbgHist (n : Fin 8) (v : W64)
  | histogramSample (n : Fin 8)
  | counterWrite (off : BitVec 24) (v : W64)
  -- reset, power, thermal (chapter 19)
  | powerOn
  | rstNAssert
  | rstNRelease
  | rstGlitch
  | pgLost (mask : BitVec 4)
  | cold
  | warm
  | thermalSample (temps : List Int) (watts : Nat) (alert vrhot : Bool)
  | thermtrip
  | vrhot
  | thermAlert
  | clockStep
  | governorTick (filler : Bool)
  | groupRelease (p : Fin 16)
  -- start-up (chapter 20)
  | clocks (boardPos : Fin 8)
  | sram (repairable : Bool)
  | keys
  | hbm (trained : List Bool)
  | image
  | beamImgAddr (v : W64)
  | beamImgData (v : W64)
  | beamImgGo (v : W64)
  | auth
  | beam (pairA pairB : Bool)
  | rods (failing : List Nat)
  | links
  | sync
  | host
  | ready
  | failed
  | managementRequest (wr : Bool) (addr : BitVec 24) (data : W64)
  -- test access (chapter 20)
  | wsBypass (jtag : Bool)
  | wsExtest (jtag : Bool) (cells : List Bool)
  | wsIntest (jtag : Bool) (cells : List Bool)
  | wsScan (jtag : Bool) (data : List Bool)
  | wsLbist (jtag : Bool) (list : List Nat)
  | wsMbist (jtag : Bool) (list : List Nat)
  | wsFuse (jtag : Bool) (w : FuseWrite)
  | wsHbm (jtag : Bool) (stack : Fin 16)
  | wsIjtag (jtag : Bool)
  | idcode
  | samplePreload (cells : List Bool)
  | bypass
  | tstHbmCtrl (stack : Fin 16) (phys : Fin 32) (pat : HbmPattern) (first count : Nat)
  | fabPrbsCtrl (port : Fin 8) (v : W64)
  | registerWrite (src : RegSource) (off : BitVec 24) (v : W64)
  -- rows the table adds at its end
  | adapterImageVerified (t : Fin 64) (k : Nat) (addr : BitVec 52) (r : ShardRead)
  | rowWriteHoldExpire (tbl : Fin 1024) (row : Nat)
  | replicateRow (tbl : Fin 1024) (row : BitVec 32) (sharer : Fin 8)
  | debugTokenVerified
  | powerGoodStable
  | testLogicReset
deriving DecidableEq, Repr

end Sys2Proof
end

