-- ==== Sys2Proof/Decode.lean ====
section
/-! DEFINITION. No row of spec/opcode_table.json gives a word of bits for its command, so no word spells one. The instruction words
of a rod (spec 04) are data of the block; RodOp.decode in Machine/RodDecode.lean reads them. -/

namespace Sys2Proof

/-- The command a word spells by the table's bits: none, since no row gives bits. -/
def decodeTableWord (_nbits _w : Nat) : Option Instr := none

end Sys2Proof
end

