-- ==== Sys2Proof/Config.lean ====
section
/-! DEFINITION. What the spec leaves open, as constants without a body: free values (log entry 5), and the named cryptographic
standards and fused secrets that the spec does not define (log entry 10). No proof can rest on a value of any of them. -/

namespace Sys2Proof.Config

/-- Where the replica of a row lies in the replica area of a sharer, as an offset of its HBM space: sharer, table, row (14 R319). -/
opaque replicaPlace : Nat → Nat → Nat → BitVec 48

/-- The n-th free value: a result the spec leaves undefined, or a value drawn at random. -/
opaque freeWord : Nat → W64

/-- The sign bit S of the NaN to which an FP32 lane converts in an FP8 format (02 Table 2.3). -/
opaque nanSign : W32 → Bool

/-- What a fused or board-given constant reads as: 0 the silicon stepping, 1 the least firmware version, 16 + k the cx_vid code of
PWR_VF k, 64 the certificate store's length in bytes, 4096 + r the SRAM repair
elements of physical rod r unused at delivery (21 Tables 21.2 to 21.4). -/
opaque fuse : Nat → W64

/-- The fused minimum security version of Penub images, which SEC_FW_MIN_SVN reports (20 R438). -/
def firmwareSvn : W64 := fuse 1

/-- Word `n` of the certificate store (16 R353). -/
opaque certWord : Nat → W64

/-- SHA-384 of a byte string (16 R355, 13 R289). -/
opaque sha384 : List Byte → List Byte

/-- Whether an ECDSA P-384 SHA-384 signature verifies: public key, message, signature (13 R289, 16 R357, R367, 20 R438). -/
opaque ecdsaVerify : List Byte → List Byte → List Byte → Bool

/-- AES-256-GCM sealing: key, IV, associated data, plaintext; the ciphertext and the 16-byte tag (16 R361, R362). -/
opaque gcmSeal : List Byte → List Byte → List Byte → List Byte → List Byte × List Byte

/-- AES-256-GCM opening: key, IV, associated data, ciphertext, tag; nothing where the tag does not verify (13 R294, 16 R363). -/
opaque gcmOpen : List Byte → List Byte → List Byte → List Byte → List Byte → Option (List Byte)

/-- A partition's ECDH key pair from the fused secret: lifecycle code, partition, nonce; private and public part (16 Table 16.1). -/
opaque partitionKey : Nat → Nat → List Byte → List Byte × List Byte

/-- The identity public key of a lifecycle state (16 Table 16.1, R353). -/
opaque identityKey : Nat → List Byte

/-- Where the ring of commit records of a partition holds the record of a step, within a direct part: the spec places the ring in the
direct region and no closer (12 R284, 17 R374). -/
opaque stepJournal : Nat → Nat → BitVec 26

/-- Unwrapping of a wrapped key record (16 R358): partition private key, record bytes, base model identifier; nothing on a tag
failure or a point off the curve. -/
opaque unwrapKey : List Byte → List Byte → W64 → W64 → Option (List Byte)

/-- The next SPDM message of the requester of a link's session, given the responses so far and its random bytes (14 R315). -/
opaque spdmRequest : List (List Byte) → List Byte → List Byte

/-- Whether an SPDM session key schedule gives this key: session number, direction (16 R361). -/
opaque linkKey : Nat → Nat → List Byte

/-- The SPDM responder's answer to the last of the requests of a link or a mailbox, given those before it, the values of the
measurement blocks in index order, whether it came on a link, where the link-only messages are accepted, and its random bytes (16 R354
to R356). -/
opaque spdmRespond : List (List Byte) → List (List Byte) → Bool → List Byte → List Byte

/-- The boot ROM's contents (16 Table 16.2, index 1). -/
opaque bootRom : List Byte

/-- The fused digest of the Penub image key (20 R438), and the Miostad debug public key (16 R367). -/
opaque imageKey : List Byte
opaque debugKey : List Byte

end Sys2Proof.Config
end

