-- ==== Sys2Proof/Machine/Store.lean ====
section
/-! DEFINITION. Sparse plain-data stores in one canonical form: memories, register files, tables of state keyed by number.
Keys rise strictly and no listed entry equals the default, so that equal contents are equal data. -/

namespace Sys2Proof.Machine

/-- A sparse table: (key, value) pairs, keys strictly rising, no value equal to the default the reader names. -/
abbrev Sparse (α : Type) := List (Nat × α)

/-- What a sparse table holds at a key; an unlisted key reads as the default `d`. -/
def Sparse.get {α : Type} (d : α) : Sparse α → Nat → α
  | [], _ => d
  | (k', v) :: r, k => if k = k' then v else Sparse.get d r k

/-- Drop a key from a table. -/
def Sparse.erase {α : Type} : Sparse α → Nat → Sparse α
  | [], _ => []
  | (k', v) :: r, k => if k = k' then Sparse.erase r k else (k', v) :: Sparse.erase r k

/-- Put an entry at its place in the rising order (the key is not listed). -/
def Sparse.insert {α : Type} : Sparse α → Nat → α → Sparse α
  | [], k, v => [(k, v)]
  | (k', v') :: r, k, v =>
    if k < k' then (k, v) :: (k', v') :: r else (k', v') :: Sparse.insert r k v

/-- Write one key. Writing the default removes the entry, so the canonical form is kept. -/
def Sparse.put {α : Type} [DecidableEq α] (d : α) (m : Sparse α) (k : Nat) (v : α) : Sparse α :=
  if v = d then Sparse.erase m k else Sparse.insert (Sparse.erase m k) k v

/-- Return every key of `[lo, hi)` to the default. -/
def Sparse.clear {α : Type} (m : Sparse α) (lo hi : Nat) : Sparse α :=
  m.filter (fun e => !(decide (lo ≤ e.1) && decide (e.1 < hi)))

/-- Every listed key is above `lo` (`lo = none`: any) and keys rise strictly, with no default value listed. -/
def Sparse.wfFrom {α : Type} [DecidableEq α] (d : α) : Option Nat → Sparse α → Bool
  | _, [] => true
  | lo, (k, v) :: r =>
    (match lo with | none => true | some l => decide (l < k)) && !(decide (v = d)) && Sparse.wfFrom d (some k) r

/-- The canonical form of a sparse table. -/
def Sparse.wf {α : Type} [DecidableEq α] (d : α) (m : Sparse α) : Bool := Sparse.wfFrom d none m

/-- The keys listed in `[lo, hi)`. -/
def Sparse.keysIn {α : Type} (m : Sparse α) (lo hi : Nat) : List Nat :=
  (m.filter (fun e => decide (lo ≤ e.1) && decide (e.1 < hi))).map (fun e => e.1)

/-- A byte memory. An unlisted address reads as zero (log entry 2). -/
abbrev Memory := Sparse Byte

/-- The canonical form of a memory. -/
def Memory.wf (m : Memory) : Bool := Sparse.wf (0 : Byte) m

/-- Read one byte. -/
def Memory.read1 (m : Memory) (a : Nat) : Byte := Sparse.get 0 m a

/-- Write one byte. -/
def Memory.write1 (m : Memory) (a : Nat) (v : Byte) : Memory := Sparse.put 0 m a v

/-- Read `n` bytes from `a` upwards. -/
def Memory.readN (m : Memory) (a : Nat) : Nat → List Byte
  | 0 => []
  | n + 1 => m.read1 a :: Memory.readN m (a + 1) n

/-- Write a run of bytes from `a` upwards. -/
def Memory.writeN (m : Memory) (a : Nat) : List Byte → Memory
  | [] => m
  | b :: r => Memory.writeN (m.write1 a b) (a + 1) r

/-- Little-endian value of a byte list (R4). -/
def leNat : List Byte → Nat
  | [] => 0
  | b :: r => b.toNat + 256 * leNat r

/-- The low `n` bytes of a number, little-endian (R4). -/
def leBytes : Nat → Nat → List Byte
  | 0, _ => []
  | n + 1, v => BitVec.ofNat 8 v :: leBytes n (v / 256)

/-- Read a little-endian 64-bit word. -/
def Memory.read64 (m : Memory) (a : Nat) : W64 := BitVec.ofNat 64 (leNat (m.readN a 8))

/-- Write a little-endian 64-bit word. -/
def Memory.write64 (m : Memory) (a : Nat) (v : W64) : Memory := m.writeN a (leBytes 8 v.toNat)

/-- Read a little-endian 32-bit word. -/
def Memory.read32 (m : Memory) (a : Nat) : W32 := BitVec.ofNat 32 (leNat (m.readN a 4))

/-- Write a little-endian 32-bit word. -/
def Memory.write32 (m : Memory) (a : Nat) (v : W32) : Memory := m.writeN a (leBytes 4 v.toNat)

/-- Read `n` consecutive 64-bit words. -/
def Memory.readWords (m : Memory) (a : Nat) : Nat → List W64
  | 0 => []
  | n + 1 => m.read64 a :: Memory.readWords m (a + 8) n

/-- Write consecutive 64-bit words. -/
def Memory.writeWords (m : Memory) (a : Nat) : List W64 → Memory
  | [] => m
  | w :: r => Memory.writeWords (m.write64 a w) (a + 8) r

/-- Write zeros to `[lo, hi)`. -/
def Memory.zero (m : Memory) (lo hi : Nat) : Memory := Sparse.clear m lo hi

/-- Bits `[lo, lo+n)` of a word as a number (R4: bit 0 is the least significant). -/
def bits {w : Nat} (x : BitVec w) (hi lo : Nat) : Nat := (x.toNat / 2 ^ lo) % 2 ^ (hi + 1 - lo)

/-- One bit of a word. -/
def bit {w : Nat} (x : BitVec w) (i : Nat) : Bool := x.getLsbD i

/-- A word with field `[hi:lo]` set to the low bits of `v`, every other bit kept. -/
def setBits (x : W64) (hi lo v : Nat) : W64 :=
  let m := 2 ^ (hi + 1 - lo)
  BitVec.ofNat 64 (x.toNat - (x.toNat / 2 ^ lo % m) * 2 ^ lo + (v % m) * 2 ^ lo)

/-- A 64-bit word from a number. -/
def w64 (n : Nat) : W64 := BitVec.ofNat 64 n

/-- A Boolean as a bit. -/
def b2n (b : Bool) : Nat := if b then 1 else 0

/-- The bits `[w-1:0]` of a number read as a signed number. -/
def signedOf (w n : Nat) : Int :=
  let m := n % 2 ^ w
  if 2 * m ≥ 2 ^ w then (m : Int) - (2 ^ w : Nat) else (m : Int)

/-- The low 64 bits of an integer. -/
def w64i (i : Int) : W64 := BitVec.ofInt 64 i

/-- The i-th element of a list, or a default. -/
def nth {α : Type} (d : α) : List α → Nat → α
  | [], _ => d
  | x :: _, 0 => x
  | _ :: r, n + 1 => nth d r n

/-- A list with its i-th element replaced (unchanged where there is none). -/
def setNth {α : Type} : List α → Nat → α → List α
  | [], _, _ => []
  | _ :: r, 0, v => v :: r
  | x :: r, n + 1, v => x :: setNth r n v

/-- A byte string with other bytes put at a place of it, zeros between where it is shorter. -/
def putAt (l : List Byte) (k : Nat) (bs : List Byte) : List Byte :=
  (l ++ List.replicate (k - l.length) 0).take k ++ bs ++ l.drop (k + bs.length)

/-- Integer division rounded up. -/
def ceilDiv (a b : Nat) : Nat := (a + b - 1) / b

end Sys2Proof.Machine
end

