-- ==== Sys2Proof/Machine/Float.lean ====
section
/-! DEFINITION. Number formats and FP32 arithmetic, defined down to the rounding points (spec 02_arithmetic.md R20 to R40).
A finite value is held exactly as sign, magnitude and power of two; every operation is computed exactly and rounded once. -/

namespace Sys2Proof.Machine

/-- A number before rounding: a NaN, an infinity, or (−1)^neg × m × 2^e exactly. -/
inductive FVal where
  | nan
  | inf (neg : Bool)
  | fin (neg : Bool) (m : Nat) (e : Int)
deriving DecidableEq, Repr

/-- How a format encodes infinities and NaN (Table 2.1). -/
inductive FSpecial where
  | none      -- FP4 and FP6: every code is finite
  | nanOnly   -- E4M3: S.1111.111 is NaN, no infinity
  | ieee      -- E5M2, BF16, FP32
deriving DecidableEq, Repr

/-- A floating-point format of Table 2.1: exponent bits, mantissa bits, bias and special values. -/
structure FFmt where
  eb : Nat
  mb : Nat
  bias : Nat
  special : FSpecial
deriving DecidableEq, Repr

def fmtE2M1 : FFmt := ⟨2, 1, 1, .none⟩
def fmtE2M3 : FFmt := ⟨2, 3, 1, .none⟩
def fmtE3M2 : FFmt := ⟨3, 2, 3, .none⟩
def fmtE4M3 : FFmt := ⟨4, 3, 7, .nanOnly⟩
def fmtE5M2 : FFmt := ⟨5, 2, 15, .ieee⟩
def fmtBF16 : FFmt := ⟨8, 7, 127, .ieee⟩
def fmtFP32 : FFmt := ⟨8, 23, 127, .ieee⟩

/-- The largest finite magnitude code of a format (Table 2.1). -/
def FFmt.maxCode (f : FFmt) : Nat :=
  match f.special with
  | .none => 2 ^ (f.eb + f.mb) - 1
  | .nanOnly => 2 ^ (f.eb + f.mb) - 2
  | .ieee => (2 ^ f.eb - 1) * 2 ^ f.mb - 1

/-- The value of a code (Table 2.1; an exponent field of zero encodes subnormals, R21). -/
def FFmt.decode (f : FFmt) (code : Nat) : FVal :=
  let man := code % 2 ^ f.mb
  let ex := code / 2 ^ f.mb % 2 ^ f.eb
  let neg := decide (code / 2 ^ (f.mb + f.eb) % 2 = 1)
  let top := decide (ex = 2 ^ f.eb - 1)
  match f.special, top, decide (man = 0), decide (man = 2 ^ f.mb - 1) with
  | .ieee, true, true, _ => .inf neg
  | .ieee, true, false, _ => .nan
  | .nanOnly, true, _, true => .nan
  | _, _, _, _ =>
    if ex = 0 then .fin neg man (1 - (f.bias : Int) - f.mb)
    else .fin neg (2 ^ f.mb + man) ((ex : Int) - f.bias - f.mb)

/-- `n / 2^s` rounded to nearest, ties to even (R33). -/
def rneShift (n s : Nat) : Nat :=
  let q := n / 2 ^ s
  let r := n % 2 ^ s
  if 2 * r > 2 ^ s || (decide (2 * r = 2 ^ s) && decide (q % 2 = 1)) then q + 1 else q

/-- The magnitude code of m × 2^e rounded to nearest even; above `maxCode` the value overflows (R21, R33). -/
def FFmt.magCode (f : FFmt) (m : Nat) (e : Int) : Nat :=
  if m = 0 then 0 else
  let q : Int := 1 - (f.bias : Int) - f.mb
  let u : Int := max ((m.log2 : Int) + e - f.mb) q
  let n := if e ≥ u then m * 2 ^ (e - u).toNat else rneShift m (u - e).toNat
  (u - q).toNat * 2 ^ f.mb + n

/-- The sign bit of a format placed above its magnitude. -/
def FFmt.signed (f : FFmt) (neg : Bool) (mag : Nat) : Nat := b2n neg * 2 ^ (f.eb + f.mb) + mag

/-- Canonical quiet NaN (R22). -/
def qnan : W32 := 0x7FC00000#32

/-- Round an exact value to FP32 with round-to-nearest-even (R30, R33). -/
def f32Round : FVal → W32
  | .nan => qnan
  | .inf neg => BitVec.ofNat 32 (b2n neg * 2 ^ 31 + 0x7F800000)
  | .fin neg m e =>
    let c := fmtFP32.magCode m e
    BitVec.ofNat 32 (b2n neg * 2 ^ 31 + (if c > fmtFP32.maxCode then 0x7F800000 else c))

/-- The value of an FP32 word. -/
def f32Val (x : W32) : FVal := fmtFP32.decode x.toNat

def f32IsNan (x : W32) : Bool := match f32Val x with | .nan => true | _ => false
def f32IsFinite (x : W32) : Bool := match f32Val x with | .fin _ _ _ => true | _ => false

/-- The signed magnitude of a finite value at exponent `e0` (e0 at or below its own). -/
def FVal.scaled (neg : Bool) (m : Nat) (e e0 : Int) : Int :=
  let v : Int := (m * 2 ^ (e - e0).toNat : Nat)
  if neg then -v else v

/-- Exact sum; an exact zero sum is +0 but for two negative zeros (round-to-nearest). -/
def FVal.add : FVal → FVal → FVal
  | .nan, _ => .nan
  | _, .nan => .nan
  | .inf a, .inf b => if a = b then .inf a else .nan
  | .inf a, _ => .inf a
  | _, .inf b => .inf b
  | .fin n1 m1 e1, .fin n2 m2 e2 =>
    let e0 := min e1 e2
    let s := FVal.scaled n1 m1 e1 e0 + FVal.scaled n2 m2 e2 e0
    if s = 0 then .fin (n1 && n2 && decide (m1 = 0) && decide (m2 = 0)) 0 e0
    else .fin (decide (s < 0)) s.natAbs e0

/-- Exact product. -/
def FVal.mul : FVal → FVal → FVal
  | .nan, _ => .nan
  | _, .nan => .nan
  | .inf a, .inf b => .inf (a != b)
  | .inf a, .fin n m _ => if m = 0 then .nan else .inf (a != n)
  | .fin n m _, .inf b => if m = 0 then .nan else .inf (n != b)
  | .fin n1 m1 e1, .fin n2 m2 e2 => .fin (n1 != n2) (m1 * m2) (e1 + e2)

def FVal.neg : FVal → FVal
  | .nan => .nan
  | .inf a => .inf (!a)
  | .fin n m e => .fin (!n) m e

/-- Times a power of two. -/
def FVal.scale2 (k : Int) : FVal → FVal
  | .fin n m e => .fin n m (e + k)
  | v => v

/-- FP32 addition, rounded once (R30). -/
def fadd (a b : W32) : W32 := f32Round ((f32Val a).add (f32Val b))
def fsub (a b : W32) : W32 := f32Round ((f32Val a).add (f32Val b).neg)
def fmul (a b : W32) : W32 := f32Round ((f32Val a).mul (f32Val b))
/-- Fused multiply-add, rounded once (R30). -/
def ffma (a b c : W32) : W32 := f32Round (((f32Val a).mul (f32Val b)).add (f32Val c))

/-- Integer square root, bit by bit from bit `k` down. -/
def isqrtGo (n : Nat) : Nat → Nat → Nat
  | 0, r => r
  | k + 1, r => let t := r + 2 ^ k
    isqrtGo n k (if t * t ≤ n then t else r)

def isqrt (n : Nat) : Nat := isqrtGo n (n.log2 / 2 + 1) 0

/-- Quotient of two finite non-zero magnitudes to at least 64 bits, its last bit sticky. -/
def quotSticky (m1 m2 : Nat) (e : Int) : Nat × Int :=
  let k := 66 + m2.log2
  let n := m1 * 2 ^ k
  (2 * (n / m2) + b2n (decide (n % m2 ≠ 0)), e - k - 1)

/-- FP32 division (R30, R102). -/
def fdiv (a b : W32) : W32 :=
  match f32Val a, f32Val b with
  | .nan, _ => qnan
  | _, .nan => qnan
  | .inf _, .inf _ => qnan
  | .inf x, .fin y _ _ => f32Round (.inf (x != y))
  | .fin x _ _, .inf y => f32Round (.fin (x != y) 0 0)
  | .fin n1 m1 e1, .fin n2 m2 e2 =>
    if m2 = 0 then (if m1 = 0 then qnan else f32Round (.inf (n1 != n2)))
    else if m1 = 0 then f32Round (.fin (n1 != n2) 0 0)
    else let (m, e) := quotSticky m1 m2 (e1 - e2)
      f32Round (.fin (n1 != n2) m e)

/-- FP32 square root (R30, R102). -/
def fsqrt (a : W32) : W32 :=
  match f32Val a with
  | .nan => qnan
  | .inf neg => if neg then qnan else a
  | .fin neg m e =>
    if m = 0 then a else if neg then qnan else
    let odd := e % 2 = 1
    let m' := (if odd then 2 * m else m) * 2 ^ 128
    let e' := (if odd then e - 1 else e) / 2
    let s := isqrt m'
    f32Round (.fin false (2 * s + b2n (decide (s * s ≠ m'))) (e' - 65))

/-- FP32 total comparison key of a finite or infinite value: order of magnitudes with sign, zeros equal. -/
def f32Key (x : W32) : Int :=
  let mag : Int := (x.toNat % 2 ^ 31 : Nat)
  if bit x 31 then -mag else mag

/-- Ordered comparisons (R30, R95): false when either operand is NaN; +0 equals −0. -/
def feq (a b : W32) : Bool := !f32IsNan a && !f32IsNan b && decide (f32Key a = f32Key b)
def flt (a b : W32) : Bool := !f32IsNan a && !f32IsNan b && decide (f32Key a < f32Key b)
def fle (a b : W32) : Bool := !f32IsNan a && !f32IsNan b && decide (f32Key a ≤ f32Key b)
def fun_ (a b : W32) : Bool := f32IsNan a || f32IsNan b

/-- minimumNumber (R30): a NaN operand is ignored; −0 ranks below +0. -/
def fmin (a b : W32) : W32 :=
  match f32IsNan a, f32IsNan b with
  | true, true => qnan
  | true, false => b
  | false, true => a
  | false, false =>
    if f32Key a < f32Key b then a else if f32Key b < f32Key a then b
    else if bit a 31 then a else b

/-- maximumNumber (R30): a NaN operand is ignored; +0 ranks above −0. -/
def fmax (a b : W32) : W32 :=
  match f32IsNan a, f32IsNan b with
  | true, true => qnan
  | true, false => b
  | false, true => a
  | false, false =>
    if f32Key a < f32Key b then b else if f32Key b < f32Key a then a
    else if bit a 31 then b else a

def fneg (a : W32) : W32 := a ^^^ 0x80000000#32
def fabs (a : W32) : W32 := a &&& 0x7FFFFFFF#32

/-- An integer as FP32, rounded to nearest even. -/
def f32OfInt (i : Int) : W32 := f32Round (.fin (decide (i < 0)) i.natAbs 0)

/-- A finite magnitude rounded to nearest even to an integer. -/
def rneInt (neg : Bool) (m : Nat) (e : Int) : Int :=
  let v : Nat := if e ≥ 0 then m * 2 ^ e.toNat else rneShift m (-e).toNat
  if neg then -(v : Int) else v

/-- The sticky arithmetic flags an operation raises (R35, R37). -/
structure AFlags where
  saturated : Bool
  invalid : Bool
deriving DecidableEq, Repr

def AFlags.none : AFlags := ⟨false, false⟩
def AFlags.or (a b : AFlags) : AFlags := ⟨a.saturated || b.saturated, a.invalid || b.invalid⟩

/-- FP32 to an integer of the range [lo, hi], with its flags (R37). -/
def f32ToInt (lo hi : Int) (x : W32) : Int × AFlags :=
  match f32Val x with
  | .nan => (0, ⟨false, true⟩)
  | .inf neg => (if neg then lo else hi, ⟨false, true⟩)
  | .fin neg m e =>
    let v := rneInt neg m e
    if v < lo then (lo, ⟨true, false⟩) else if v > hi then (hi, ⟨true, false⟩) else (v, AFlags.none)

/-- Pairwise tree over the values in index order: pairs first, then pairs of those sums (R28, R32). -/
def treeLevel {α : Type} (op : α → α → α) : List α → List α
  | a :: b :: r => op a b :: treeLevel op r
  | l => l

/-- `k` levels of the pairwise tree. -/
def treeLevels {α : Type} (op : α → α → α) : Nat → List α → List α
  | 0, l => l
  | k + 1, l => treeLevels op k (treeLevel op l)

/-- The pairwise tree over 2^k terms, missing terms given by `pad`. -/
def treeOf {α : Type} (op : α → α → α) (pad : α) (k : Nat) (l : List α) : α :=
  let l' := l ++ List.replicate (2 ^ k - l.length) pad
  (treeLevels op k l').headD pad

/-- Smallest k with n ≤ 2^k. -/
def ceilLog2 (n : Nat) : Nat := if n ≤ 1 then 0 else (n - 1).log2 + 1

/-- FP32 pairwise sum over the next power of two of terms, padded with +0.0 (R151, R256). -/
def ftree (l : List W32) : W32 := treeOf fadd 0#32 (ceilLog2 l.length) l

/-- Element formats of storage (Table 5.3 codes 0x2 to 0xB). -/
inductive Elt where
  | bf16 | e4m3 | e5m2 | int8 | mxfp4 | mxfp6e2m3 | mxfp6e3m2 | mxfp8e4m3 | mxfp8e5m2 | mxint8
deriving DecidableEq, Repr

/-- Table 5.3. -/
def Elt.ofCode : Nat → Option Elt
  | 0x2 => some .bf16 | 0x3 => some .e4m3 | 0x4 => some .e5m2 | 0x5 => some .int8 | 0x6 => some .mxfp4
  | 0x7 => some .mxfp6e2m3 | 0x8 => some .mxfp6e3m2 | 0x9 => some .mxfp8e4m3 | 0xA => some .mxfp8e5m2
  | 0xB => some .mxint8 | _ => none

/-- Width of one element in bits (Table 2.1). -/
def Elt.bitsOf : Elt → Nat
  | .bf16 => 16 | .mxfp4 => 4 | .mxfp6e2m3 => 6 | .mxfp6e3m2 => 6 | _ => 8

def Elt.isMx : Elt → Bool
  | .mxfp4 => true | .mxfp6e2m3 => true | .mxfp6e3m2 => true | .mxfp8e4m3 => true | .mxfp8e5m2 => true
  | .mxint8 => true | _ => false

/-- The floating-point format of an element type; the integer types have none. -/
def Elt.fmt : Elt → Option FFmt
  | .bf16 => some fmtBF16 | .e4m3 => some fmtE4M3 | .e5m2 => some fmtE5M2 | .mxfp4 => some fmtE2M1
  | .mxfp6e2m3 => some fmtE2M3 | .mxfp6e3m2 => some fmtE3M2 | .mxfp8e4m3 => some fmtE4M3
  | .mxfp8e5m2 => some fmtE5M2 | .int8 => none | .mxint8 => none

/-- Largest binade exponent of an MX element format (R34). -/
def Elt.emax : Elt → Int
  | .mxfp4 => 2 | .mxfp6e2m3 => 2 | .mxfp6e3m2 => 4 | .mxfp8e4m3 => 8 | .mxfp8e5m2 => 15 | _ => 0

/-- The value of one element code (Table 2.1, R35: as an input 0x80 reads −128, or −2.0 in MXINT8). -/
def Elt.val (t : Elt) (code : Nat) : FVal :=
  match t.fmt with
  | some f => f.decode code
  | none =>
    let i := signedOf 8 code
    .fin (decide (i < 0)) i.natAbs (if t = .mxint8 then -6 else 0)

/-- The value of a block scale byte; 0xFF is the NaN scale (R23). -/
def scaleExp (e : Nat) : Option Int := if e = 0xFF then none else some ((e : Int) - 127)

/-- An element times its block scale (R23). -/
def Elt.scaledVal (t : Elt) (code scale : Nat) : FVal :=
  match scaleExp scale with
  | none => .nan
  | some k => (t.val code).scale2 k

/-- Convert one exact value to an element code with its flags (R33, R35, Table 2.3). `mx` elements raise no SATURATED. -/
def Elt.conv (t : Elt) (v : FVal) : Nat × AFlags :=
  match t.fmt with
  | some f =>
    match v with
    | .nan =>
      (match t with
       | .bf16 => (0x7FC0, AFlags.none)
       | .e5m2 => (0x7F, AFlags.none)
       | .mxfp8e5m2 => (0x7F, AFlags.none)
       | .e4m3 => (0x7F, AFlags.none)
       | .mxfp8e4m3 => (0x7F, AFlags.none)
       | _ => (0, ⟨false, true⟩))
    | .inf neg =>
      (match t with
       | .bf16 => (f.signed neg (f.maxCode + 1), AFlags.none)
       | .e5m2 => (f.signed neg (f.maxCode + 1), AFlags.none)
       | .mxfp8e5m2 => (f.signed neg (f.maxCode + 1), AFlags.none)
       | .e4m3 => (f.signed neg 0x7F, ⟨false, true⟩)
       | .mxfp8e4m3 => (f.signed neg 0x7F, ⟨false, true⟩)
       | _ => (0, ⟨false, true⟩))
    | .fin neg m e =>
      let c := f.magCode m e
      if c > f.maxCode then
        (match t with
         | .bf16 => (f.signed neg (f.maxCode + 1), AFlags.none)
         | _ => (f.signed neg f.maxCode, ⟨!t.isMx, false⟩))
      else (f.signed neg c, AFlags.none)
  | none =>
    match v with
    | .nan => (0, ⟨false, true⟩)
    | .inf _ => (0, ⟨false, true⟩)
    | .fin neg m e =>
      let i := rneInt neg m (if t = .mxint8 then e + 6 else e)
      let s := !t.isMx
      if i > 127 then (127, ⟨s, false⟩) else if i < -127 then (129, ⟨s, false⟩)
      else ((i % 256).toNat, AFlags.none)

/-- One lane to an element, divided by 2^k. Where Table 2.3 gives an FP8 element NaN it states no sign S: a free value of the lane
(log entry 104). -/
def Elt.convLane (t : Elt) (k : Int) (x : W32) : Nat × AFlags :=
  let r := t.conv ((f32Val x).scale2 (-k))
  let e4 := t == .e4m3 || t == .mxfp8e4m3
  let fp8 := e4 || t == .e5m2 || t == .mxfp8e5m2
  if (fp8 && f32IsNan x) || (e4 && !f32IsFinite x) then (0x7F + 128 * b2n (Config.nanSign x), r.2) else r

/-- The scale exponent of a block of 32 FP32 values (R34 steps 1 and 2). -/
def mxScaleExp (t : Elt) (block : List W32) : Int :=
  let amax := block.foldl (fun a x => if f32IsFinite x then max a (x.toNat % 2 ^ 31) else a) 0
  if amax = 0 then -127 else
    match fmtFP32.decode amax with
    | .fin _ m e => max (-127) (min 127 ((m.log2 : Int) + e - t.emax))
    | _ => -127

/-- Whether a block takes the scale 0xFF: FP4 and FP6 blocks that hold an infinity or a NaN (Table 2.3). -/
def mxScaleNan (t : Elt) (block : List W32) : Bool :=
  (match t with | .mxfp4 => true | .mxfp6e2m3 => true | .mxfp6e3m2 => true | _ => false)
    && block.any (fun x => !f32IsFinite x)

/-- The scale code of a block (R34 step 3). -/
def mxScaleCode (t : Elt) (block : List W32) : Nat :=
  if mxScaleNan t block then 0xFF else (mxScaleExp t block + 127).toNat

/-- The element codes of a block, each divided by the block's scale, with the flags raised (R34 step 4, R35). -/
def mxBlockCodes (t : Elt) (block : List W32) : List Nat × AFlags :=
  if mxScaleNan t block then (block.map (fun _ => 0), ⟨false, true⟩) else
  let k := mxScaleExp t block
  let r := block.map (t.convLane k)
  (r.map (·.1), r.foldl (fun a x => a.or x.2) AFlags.none)

/-- Little-endian packing of element codes of `w` bits each (R24): as one number. -/
def packNat (w : Nat) : List Nat → Nat
  | [] => 0
  | c :: r => c % 2 ^ w + 2 ^ w * packNat w r

/-- Element `j` of a little-endian packed number (R24). -/
def unpackNat (w : Nat) (n j : Nat) : Nat := n / 2 ^ (w * j) % 2 ^ w

end Sys2Proof.Machine
end

