-- ==== Sys2Proof/Machine/Elem.lean ====
section
/-! DEFINITION. The non-basic vector functions of 05_isa_reference.md R103: the FP32 value nearest to the exact result.
Each is evaluated in fixed point with 640 fraction bits and rounded once; that 640 bits decide every rounding is UNVERIFIED
(log entry 6). -/

namespace Sys2Proof.Machine

/-- Fraction bits of the fixed-point evaluation. -/
def elemF : Nat := 640

/-- One in fixed point. -/
def fxOne : Nat := 2 ^ elemF

/-- Fixed-point product, rounded down. -/
def fxMul (a b : Nat) : Nat := a * b / fxOne

/-- Σ t·(num/den)^n / n! style series: the term times x, divided by n, until it is zero (structural on fuel). -/
def expSeries (x : Nat) : Nat → Nat → Nat → Nat → Nat
  | 0, _, _, acc => acc
  | k + 1, n, t, acc =>
    let t' := fxMul t x / n
    if t' = 0 then acc else expSeries x k (n + 1) t' (acc + t')

/-- e^x for a fixed-point x in [0, 1). -/
def fxExpSmall (x : Nat) : Nat := expSeries x 400 1 fxOne fxOne

/-- Σ x^(2n+1)/(2n+1): the atanh series. -/
def atanhSeries (x2 : Nat) : Nat → Nat → Nat → Nat → Nat
  | 0, _, _, acc => acc
  | k + 1, n, t, acc =>
    let t' := fxMul t x2
    if t' = 0 then acc else atanhSeries x2 k (n + 2) t' (acc + t' / n)

/-- atanh of a fixed-point x in [0, 1/2]. -/
def fxAtanh (x : Nat) : Nat := atanhSeries (fxMul x x) 700 3 x x

/-- ln 2 = 2 atanh(1/3). -/
def fxLn2 : Nat := 2 * fxAtanh (fxOne / 3)

/-- Σ (−1)^n x^(2n+1)/(2n+1) for x = 1/d: the arctangent series. -/
def atanSeries (d2 : Nat) : Nat → Nat → Nat → Int → Bool → Int
  | 0, _, _, acc, _ => acc
  | k + 1, n, t, acc, neg =>
    let t' := t / d2
    if t' = 0 then acc else
      atanSeries d2 k (n + 2) t' (if neg then acc - (t' / n : Nat) else acc + (t' / n : Nat)) (!neg)

def fxAtanInv (d : Nat) : Int := atanSeries (d * d) 700 3 (fxOne / d) (fxOne / d : Nat) true

/-- π by Machin's formula. -/
def fxPi : Nat := (16 * fxAtanInv 5 - 4 * fxAtanInv 239).toNat

/-- A non-negative dyadic m·2^e in fixed point, rounded down. -/
def fxOfDyadic (m : Nat) (e : Int) : Nat :=
  let k : Int := e + elemF
  if k ≥ 0 then m * 2 ^ k.toNat else m / 2 ^ (-k).toNat

/-- e^x for a fixed-point x ≥ 0, as (fraction in [1, 2), power of two). -/
def fxExpPos (x : Nat) : Nat × Int :=
  let n := x / fxLn2
  (fxExpSmall (x - n * fxLn2), n)

/-- e^(−x) for a fixed-point x ≥ 0, as (fraction, power of two). -/
def fxExpNeg (x : Nat) : Nat × Int :=
  let n := x / fxLn2 + 1
  (fxExpSmall (n * fxLn2 - x), -(n : Int))

/-- e^(−x) in plain fixed point. -/
def fxExpNegPlain (x : Nat) : Nat :=
  let (f, k) := fxExpNeg x
  f / 2 ^ (-k).toNat

/-- An inexact positive value (fraction bits `elemF`, power k) rounded to FP32 with a sticky last bit. -/
def fxRound (neg : Bool) (f : Nat) (k : Int) : W32 := f32Round (.fin neg (2 * f + 1) (k - elemF - 1))

def f32One : W32 := 0x3F800000#32

/-- x ≥ n for a finite magnitude. -/
def magGe (m : Nat) (e : Int) (n : Nat) : Bool :=
  if e ≥ 0 then decide (n ≤ m * 2 ^ e.toNat) else decide (n * 2 ^ (-e).toNat ≤ m)

/-- VEXP (R103, Table 5.5). -/
def fexp (x : W32) : W32 :=
  match f32Val x with
  | .nan => qnan
  | .inf neg => if neg then 0#32 else x
  | .fin neg m e =>
    if m = 0 then f32One
    else if magGe m e 128 then (if neg then 0#32 else f32Round (.inf false))
    else
      let a := fxOfDyadic m e
      let (f, k) := if neg then fxExpNeg a else fxExpPos a
      fxRound false f k

/-- VLOG (R103, Table 5.5). -/
def flog (x : W32) : W32 :=
  match f32Val x with
  | .nan => qnan
  | .inf neg => if neg then qnan else x
  | .fin neg m e =>
    if m = 0 then f32Round (.inf true) else if neg then qnan
    else if x = f32One then 0#32 else
      let n : Int := (m.log2 : Int) + e
      let f := m * 2 ^ elemF / 2 ^ m.log2        -- in [1, 2)
      let r : Int := 2 * (fxAtanh ((f - fxOne) * fxOne / (f + fxOne)) : Nat)
      let v : Int := n * (fxLn2 : Nat) + r
      fxRound (decide (v < 0)) v.natAbs 0

/-- VRCP (R103, Table 5.5): exact quotient. -/
def frcp (x : W32) : W32 := fdiv f32One x

/-- VRSQRT (R103, Table 5.5). -/
def frsqrt (x : W32) : W32 :=
  match f32Val x with
  | .nan => qnan
  | .inf neg => if neg then qnan else 0#32
  | .fin neg m e =>
    if m = 0 then f32Round (.inf neg) else if neg then qnan else
      let odd := e % 2 = 1
      let m' := if odd then 2 * m else m
      let e' := (if odd then e - 1 else e) / 2
      let n := 2 ^ (2 * (100 + m'.log2))
      let s := isqrt (n / m')
      f32Round (.fin false (2 * s + b2n (decide (s * s * m' ≠ n))) (-e' - (100 + (m'.log2 : Int)) - 1))

/-- VTANH (R103, Table 5.5). -/
def ftanh (x : W32) : W32 :=
  match f32Val x with
  | .nan => qnan
  | .inf neg => if neg then fneg f32One else f32One
  | .fin neg m e =>
    if m = 0 then x
    else if magGe m e 32 then (if neg then fneg f32One else f32One)
    else
      let t := fxExpNegPlain (2 * fxOfDyadic m e)
      fxRound neg ((fxOne - t) * fxOne / (fxOne + t)) 0

/-- The sigmoid of a finite non-zero x below 256 in magnitude, in fixed point. -/
def fxSigm (neg : Bool) (m : Nat) (e : Int) : Nat :=
  let t := fxExpNegPlain (fxOfDyadic m e)
  (if neg then t else fxOne) * fxOne / (fxOne + t)

/-- VSIGM (R103, Table 5.5). -/
def fsigm (x : W32) : W32 :=
  match f32Val x with
  | .nan => qnan
  | .inf neg => if neg then 0#32 else f32One
  | .fin neg m e =>
    if m = 0 then 0x3F000000#32
    else if magGe m e 256 then (if neg then 0#32 else f32One)
    else fxRound false (fxSigm neg m e) 0

/-- VSILU (R103, Table 5.5). -/
def fsilu (x : W32) : W32 :=
  match f32Val x with
  | .nan => qnan
  | .inf neg => if neg then 0x80000000#32 else x
  | .fin neg m e =>
    if m = 0 then x
    else if magGe m e 256 then (if neg then 0x80000000#32 else x)
    else fxRound neg (fxSigm neg m e * m) e

/-- Σ x^(2n+1)/(2n+1)!!: the series of Φ(x) − ½ over φ(x). -/
def phiSeries (x2 : Nat) : Nat → Nat → Nat → Nat → Nat
  | 0, _, _, acc => acc
  | k + 1, n, t, acc =>
    let t' := fxMul t x2 / n
    if t' = 0 then acc else phiSeries x2 k (n + 2) t' (acc + t')

/-- Φ of a finite x below 16 in magnitude, in fixed point. -/
def fxPhi (neg : Bool) (m : Nat) (e : Int) : Nat :=
  let a := fxOfDyadic m e
  let x2 := fxMul a a
  let dens := fxExpNegPlain (x2 / 2) * fxOne / isqrt (2 * fxPi * fxOne)
  let half := fxMul dens (phiSeries x2 1600 3 a a)
  if neg then fxOne / 2 - half else fxOne / 2 + half

/-- VGELU (R103, Table 5.5). -/
def fgelu (x : W32) : W32 :=
  match f32Val x with
  | .nan => qnan
  | .inf neg => if neg then 0x80000000#32 else x
  | .fin neg m e =>
    if m = 0 then x
    else if magGe m e 16 then (if neg then 0x80000000#32 else x)
    else fxRound neg (fxPhi neg m e * m) e

end Sys2Proof.Machine
end

