-- ==== Sys2Proof/Machine/Hash.lean ====
section
/-! DEFINITION. SipHash-2-4 (named by spec 08_tables_and_gather.md R175, 09_slate.md R214, 12_memory_tiers.md R283,
17_faults_and_recovery.md R374; the function itself is the published one, PRESUMED, log entry 7) and Philox-4x32-10
(11_sampler.md R257, given there in full). -/

namespace Sys2Proof.Machine

/-- The four words of a SipHash state. -/
structure SipState where
  v0 : W64
  v1 : W64
  v2 : W64
  v3 : W64
deriving DecidableEq, Repr

/-- One SipRound. -/
def sipRound (s : SipState) : SipState :=
  let v0 := s.v0 + s.v1
  let v1 := (s.v1.rotateLeft 13) ^^^ v0
  let v0 := v0.rotateLeft 32
  let v2 := s.v2 + s.v3
  let v3 := (s.v3.rotateLeft 16) ^^^ v2
  let v0 := v0 + v3
  let v3 := (v3.rotateLeft 21) ^^^ v0
  let v2 := v2 + v1
  let v1 := (v1.rotateLeft 17) ^^^ v2
  let v2 := v2.rotateLeft 32
  ⟨v0, v1, v2, v3⟩

/-- Absorb one message word: two rounds. -/
def sipWord (s : SipState) (m : W64) : SipState :=
  let s := sipRound (sipRound { s with v3 := s.v3 ^^^ m })
  { s with v0 := s.v0 ^^^ m }

/-- The message as 64-bit words, the last one carrying the length in its top byte (structural on fuel). -/
def sipWords (len : Nat) : Nat → List Byte → List W64
  | 0, _ => []
  | k + 1, l =>
    if l.length < 8 then [BitVec.ofNat 64 (leNat l + 2 ^ 56 * (len % 256))]
    else BitVec.ofNat 64 (leNat (l.take 8)) :: sipWords len k (l.drop 8)

/-- SipHash-2-4 of a byte string under a 128-bit key (k0 its bytes 0–7, k1 its bytes 8–15). -/
def sipHash (k0 k1 : W64) (msg : List Byte) : W64 :=
  let s : SipState := ⟨k0 ^^^ 0x736F6D6570736575#64, k1 ^^^ 0x646F72616E646F6D#64,
    k0 ^^^ 0x6C7967656E657261#64, k1 ^^^ 0x7465646279746573#64⟩
  let s := (sipWords msg.length (msg.length / 8 + 1) msg).foldl sipWord s
  let s := { s with v2 := s.v2 ^^^ 0xFF#64 }
  let s := sipRound (sipRound (sipRound (sipRound s)))
  s.v0 ^^^ s.v1 ^^^ s.v2 ^^^ s.v3

/-- One byte into a CRC-32 register (IEEE 802.3, reflected; PRESUMED as published, log entry 7). -/
def crcByte (c : W32) (b : Byte) : W32 :=
  (List.range 8).foldl (fun c _ => if c.getLsbD 0 then (c >>> 1) ^^^ 0xEDB88320#32 else c >>> 1) (c ^^^ b.setWidth 32)
/-- IEEE 802.3 CRC-32 of a byte string (14 Table 14.3). -/
def crc32 (bs : List Byte) : W32 := ~~~(bs.foldl crcByte 0xFFFFFFFF#32)

/-- The four words and the two key words of a Philox round. -/
structure Philox where
  x0 : W32
  x1 : W32
  x2 : W32
  x3 : W32
  k0 : W32
  k1 : W32
deriving DecidableEq, Repr

/-- One round of R257. -/
def philoxRound (p : Philox) : Philox :=
  let a := 0xD2511F53 * p.x0.toNat
  let b := 0xCD9E8D57 * p.x2.toNat
  { x0 := BitVec.ofNat 32 (b / 2 ^ 32) ^^^ p.x1 ^^^ p.k0
    x1 := BitVec.ofNat 32 b
    x2 := BitVec.ofNat 32 (a / 2 ^ 32) ^^^ p.x3 ^^^ p.k1
    x3 := BitVec.ofNat 32 a
    k0 := p.k0 + 0x9E3779B9#32
    k1 := p.k1 + 0xBB67AE85#32 }

def philoxRounds : Nat → Philox → Philox
  | 0, p => p
  | n + 1, p => philoxRounds n (philoxRound p)

/-- The word x0 of the draw for a seed (Slate word 3) and a token position (R257). -/
def philoxX0 (seed : W64) (position : Nat) : W32 :=
  (philoxRounds 10 ⟨BitVec.ofNat 32 position, 0, 0, 0, seed.truncate 32, (seed >>> 32).truncate 32⟩).x0

end Sys2Proof.Machine
end

