-- ==== Sys2Proof/Machine/RegMap.lean ====
section
/-! DEFINITION. The register map (21_registers.md, Tables 21.1 to 21.18): which register lies at which offset of the window, its
fields, their access codes, ranges and reset values. -/

namespace Sys2Proof.Machine

/-- A configuration of Table 0.1. -/
inductive Design where
  | cx128 | cx256 | cx512
deriving DecidableEq, Repr

/-- The access codes of Table 0.3 that the map uses. -/
inductive Acc where
  | rw | ro | wo | w1c | w1s | rwl
deriving DecidableEq, Repr

/-- One field of a register: its bits, access, reset value and the range a write must respect (R450). -/
structure RField where
  hi : Nat
  lo : Nat
  acc : Acc
  rst : Nat
  min : Nat
  max : Nat
deriving DecidableEq, Repr

/-- The registers of chapter 21 by name. Names with a digit are further words of one register. -/
inductive RegName where
  | idConfig | idRods | idMem | idLanes | idSpares | idFrames | idSpareMap
  | beamImgAddr | beamImgData | beamImgGo | beamStatus
  | rstCtrl | rstStatus | rstHoldTime | rstGlitchCount | rstBootPhase | rstBootCause
  | clkTime | clkRod | clkPllLock
  | pwrPgStatus | pwrLock | pwrSlewLimit | pwrLimit | pwrThermWarn | pwrThermTrip | pwrTempMax | pwrTrip | pwrVf
  | secLifecycle | secLock | secFwMinSvn | secDbgScope | secDbgChal | secDbgStatus | secSealBase | secLoadStageMax
  | secLoadRetry | secScrubPeriod | secScrubRate | secRefetchLimit | secScrubStatus | secDbgToken | secSpdmCtrl
  | secCertLen | secSpdm | secCert | secLoadStatus | secLoadStatus1 | secPartOwner | secPartOwnerBound
  | fltLogBase | fltLogSize | fltLogWcount | fltLogRcount | fltBeamWdog | fltStepWdog | fltReplayMax | fltPeerWait
  | fltRodCeLimit | fltChUeLimit | fltChCeLimit | fltSramCeLimit | fltRetTally | fltRetReckon | fltRetLane | fltRetSram
  | fltRetireStatus | fltHaltN | fltHaltStatus | fltFatal | fltEvtPend | fltEvtMask | fltJrnlPart | fltReplayGroup
  | fltIntrMax | fltChMap
  | dbgSnapCtrl | dbgSnapStatus | dbgTraceCtrl | dbgTraceBase | dbgTraceSize | dbgTraceRate | dbgTraceWptr | dbgTraceLost
  | dbgSyncInterval | dbgMark | dbgFreeze | dbgWfgCapture | dbgWfgBase | dbgWfgSize | dbgWfgWcount | dbgRodAccess
  | dbgRodData | dbgTrig | dbgTrig1 | dbgTrig2 | dbgHist | dbgMarkRod | dbgRodExc | dbgRodExc1 | dbgRodExc2
  | counter | dbgSnap
  | seqPartCtrl | seqPartFrames | seqPartKind | seqPartHbm | seqPartBw | seqPartVocab | seqLaunchBase | seqLaunchCount
  | seqDescBase | seqBudgetBase | seqBudgetCount | seqProfBase | seqSctxBase | seqStepMax | seqStepMargin | seqDecMax
  | seqPromptMax | seqChunkMin | seqEst | seqOldestOpen | seqBarrier | seqStepend | seqProfStage | seqProfStageCtl
  | sltCtrlRange | sltCtrlSub | sltPfxKey | sltPfxScope | sltPfxBase | sltPfxOrder | sltPlistBase
  | sltHistBase | sltHistBase2 | sltQuota | sltSide | sltMirror
  | tierCmdBase | tierCmdSize | tierCmdTail | tierCmdHead | tierDemoteWait | tierDirectSize | tierDirectBase | tierHbmIl
  | tierImbalMin | tierImbalStatus | tierPtRoot | tierPool | tierPoolList | tierPoolSize | tierPoolCount | wstStatus
  | gthSampleShift | gthHotPeriod | gthMigRatio | gthMigWindow | gthReplShare | gthSampleBase | gthSampleSize
  | gthSampleWcount | gthSampleRcount | gthRowwrite | gthRowwrite1 | gthRowwrite2 | gthTblStage | gthTblStageCtl
  | gthTblStageFirst | gthTblRelease | gthInboxA | gthInboxB | gthInboxCfg | gthInboxCounter | gthInboxRound
  | gthInboxEnable | carDirBase | carPlainLimit | carDirStage | carDirStageCtl | carDirStageFirst | gthTbl
  | fabPos | fabBoardId | fabPortCtrl | fabProbePwr | fabLanePwr | fabLaneThresh | fabSyncPeriod | fabDiscWait
  | fabTimeStatus | fabShelfSize | fabLaneMap | fabTsTxAdj | fabTsRxAdj | fabPrbsCtrl | fabPrbsLock | fabPeer
  | fabPeerId | fabExport | fabExportSize | fabExportCtl
  | hapChanEn | hapTimeout | hapLoopCtrl | hapErrLog | hapErrHeader | hapHome | hapPriv | tenCapsPriv | hapInBase
  | hapInSlot | hapInCount | hapPrioMin | hapBudgetLo | hapBudgetHi | hapAdpLo | hapAdpHi
  | tenState | tenReset | tenResetStatus | tenCaps | tenInDone | tenInFree | tenMark | tenSqBase | tenSqCfg | tenSqTail
  | tenSqStatus | tenCqBase | tenCqCfg | tenCqHead | tenVecCfg | tenVecMask | tenSpdmCtrl | tenSpdm | tenOringBase
  | tenOringCfg | tenOringTailaddr | tenOringHead
deriving DecidableEq, Repr

/-- A row of the map: a register, its first offset, the strides and counts of its arrays (outermost first) and its fields. -/
structure RRow where
  name : RegName
  base : Nat
  dims : List (Nat × Nat)
  fields : List RField
deriving DecidableEq, Repr

def rwF (hi lo rst : Nat) : RField := ⟨hi, lo, .rw, rst, 0, 2 ^ (hi + 1 - lo) - 1⟩
def rwR (hi lo rst min max : Nat) : RField := ⟨hi, lo, .rw, rst, min, max⟩
def rwlR (hi lo rst min max : Nat) : RField := ⟨hi, lo, .rwl, rst, min, max⟩
def roF (hi lo rst : Nat) : RField := ⟨hi, lo, .ro, rst, 0, 2 ^ (hi + 1 - lo) - 1⟩
def woF (hi lo : Nat) : RField := ⟨hi, lo, .wo, 0, 0, 2 ^ (hi + 1 - lo) - 1⟩
def w1cF (hi lo : Nat) : RField := ⟨hi, lo, .w1c, 0, 0, 2 ^ (hi + 1 - lo) - 1⟩
def w1sF (hi lo : Nat) : RField := ⟨hi, lo, .w1s, 0, 0, 2 ^ (hi + 1 - lo) - 1⟩

/-- Table 21.2. -/
def rowsIdentity : List RRow := [
  ⟨.idConfig, 0x0, [], [roF 15 8 0, roF 7 0 3]⟩,
  ⟨.idRods, 0x8, [], [roF 47 40 8, roF 39 32 24, roF 25 16 128, roF 9 0 384]⟩,
  ⟨.idMem, 0x10, [], [roF 21 16 1, roF 13 8 32, roF 4 0 16]⟩,
  ⟨.idLanes, 0x18, [], [roF 19 16 8, roF 11 8 4, roF 5 0 32]⟩,
  ⟨.idSpares, 0x20, [], [roF 32 32 0, roF 31 16 0, roF 15 8 0, roF 7 0 0]⟩,
  ⟨.idFrames, 0x28, [], [roF 63 0 0]⟩,
  ⟨.idSpareMap, 0x400, [(8, 128)], [roF 57 48 0, roF 41 32 0, roF 25 16 0, roF 9 0 0]⟩,
  ⟨.beamImgAddr, 0x1000, [], [rwF 23 0 0]⟩,
  ⟨.beamImgData, 0x1008, [], [woF 63 0]⟩,
  ⟨.beamImgGo, 0x1010, [], [woF 0 0]⟩,
  ⟨.beamStatus, 0x1018, [], [roF 2 2 0, roF 1 1 0, roF 0 0 0]⟩]

/-- Table 21.3. -/
def rowsPower : List RRow := [
  ⟨.rstCtrl, 0x10000, [], [woF 1 1, woF 0 0]⟩,
  ⟨.rstStatus, 0x10008, [], [roF 15 8 1, roF 3 0 1]⟩,
  ⟨.rstHoldTime, 0x10010, [], [roF 47 0 0]⟩,
  ⟨.rstGlitchCount, 0x10018, [], [roF 15 0 0]⟩,
  ⟨.rstBootPhase, 0x10020, [], [roF 3 0 0]⟩,
  ⟨.rstBootCause, 0x10028, [], [roF 3 0 0]⟩,
  ⟨.clkTime, 0x10100, [], [roF 63 0 0]⟩,
  ⟨.clkRod, 0x10108, [], [roF 4 0 0]⟩,
  ⟨.clkPllLock, 0x10110, [], [roF 18 0 0]⟩,
  ⟨.pwrPgStatus, 0x10200, [], [w1cF 11 8, roF 3 0 0]⟩,
  ⟨.pwrLock, 0x10208, [], [w1sF 0 0]⟩,
  ⟨.pwrSlewLimit, 0x10210, [], [rwlR 8 0 300 50 300]⟩,
  ⟨.pwrLimit, 0x10218, [], [rwlR 11 0 2300 500 2300]⟩,
  ⟨.pwrThermWarn, 0x10220, [], [rwR 6 0 95 60 105]⟩,
  ⟨.pwrThermTrip, 0x10228, [], [rwlR 6 0 115 100 125]⟩,
  ⟨.pwrTempMax, 0x10230, [], [roF 22 16 0, roF 15 0 0]⟩,
  ⟨.pwrTrip, 0x10238, [], [roF 0 0 0]⟩,
  ⟨.pwrVf, 0x10280, [(8, 11)], [roF 6 0 0]⟩]

/-- Table 21.4. -/
def rowsSecurity : List RRow := [
  ⟨.secLifecycle, 0x20000, [], [roF 7 0 0]⟩,
  ⟨.secLock, 0x20008, [], [w1sF 0 0]⟩,
  ⟨.secFwMinSvn, 0x20010, [], [roF 7 0 0]⟩,
  ⟨.secDbgScope, 0x20018, [], [rwlR 3 0 0 0 15]⟩,
  ⟨.secDbgChal, 0x20020, [(8, 4)], [roF 63 0 0]⟩,
  ⟨.secDbgStatus, 0x20040, [], [roF 1 0 0]⟩,
  ⟨.secSealBase, 0x20048, [], [rwlR 39 0 0 0 (2 ^ 40 - 1)]⟩,
  ⟨.secLoadStageMax, 0x20050, [], [rwlR 12 0 64 1 4096]⟩,
  ⟨.secLoadRetry, 0x20058, [], [rwlR 3 0 3 0 15]⟩,
  ⟨.secScrubPeriod, 0x20060, [], [rwlR 16 0 600 1 86400]⟩,
  ⟨.secScrubRate, 0x20068, [], [rwlR 4 0 4 1 25]⟩,
  ⟨.secRefetchLimit, 0x20070, [], [rwlR 9 0 10 1 600]⟩,
  ⟨.secScrubStatus, 0x20078, [], [roF 63 32 0, w1cF 8 8, roF 3 0 0]⟩,
  ⟨.secDbgToken, 0x20100, [(8, 12)], [woF 63 0]⟩,
  ⟨.secSpdmCtrl, 0x20200, [], [roF 44 32 0, roF 17 17 0, w1sF 16 16, rwR 12 0 0 1 4096]⟩,
  ⟨.secCertLen, 0x20208, [], [roF 12 0 0]⟩,
  ⟨.secSpdm, 0x21000, [(8, 512)], [rwF 63 0 0]⟩,
  ⟨.secCert, 0x22000, [(8, 512)], [roF 63 0 0]⟩,
  ⟨.secLoadStatus, 0x24000, [(0x100, 16)], [roF 63 32 0, roF 11 8 0, roF 1 0 0]⟩,
  ⟨.secLoadStatus1, 0x24008, [(0x100, 16)], [roF 63 32 0, roF 20 0 0]⟩,
  ⟨.secPartOwner, 0x24040, [(0x100, 16), (8, 6)], [rwF 63 0 0]⟩,
  ⟨.secPartOwnerBound, 0x24070, [(0x100, 16)], [roF 0 0 0]⟩]

/-- Table 21.7. -/
def rowsFaults : List RRow := [
  ⟨.fltLogBase, 0x30000, [], [rwF 39 0 0]⟩,
  ⟨.fltLogSize, 0x30008, [], [rwR 4 0 10 8 20]⟩,
  ⟨.fltLogWcount, 0x30010, [], [roF 63 0 0]⟩,
  ⟨.fltLogRcount, 0x30018, [], [rwF 63 0 0]⟩,
  ⟨.fltBeamWdog, 0x30020, [], [rwR 9 0 50 1 1000]⟩,
  ⟨.fltStepWdog, 0x30028, [], [rwR 19 0 10000 100 1000000]⟩,
  ⟨.fltReplayMax, 0x30030, [], [rwR 3 0 3 1 15]⟩,
  ⟨.fltPeerWait, 0x30038, [], [rwR 13 0 100 1 10000]⟩,
  ⟨.fltRodCeLimit, 0x30040, [], [rwF 15 0 1024]⟩,
  ⟨.fltChUeLimit, 0x30048, [], [rwR 7 0 16 1 255]⟩,
  ⟨.fltChCeLimit, 0x30050, [], [rwF 23 0 65536]⟩,
  ⟨.fltSramCeLimit, 0x30058, [], [rwF 15 0 256]⟩,
  ⟨.fltRetTally, 0x30060, [], [rwF 7 0 6]⟩,
  ⟨.fltRetReckon, 0x30068, [], [rwF 7 0 2]⟩,
  ⟨.fltRetLane, 0x30070, [], [rwF 2 0 1]⟩,
  ⟨.fltRetSram, 0x30078, [], [rwF 3 0 2]⟩,
  ⟨.fltRetireStatus, 0x30080, [], [roF 6 0 0]⟩,
  ⟨.fltHaltN, 0x30100, [], [rwR 15 0 1000 1 65535]⟩,
  ⟨.fltHaltStatus, 0x30108, [], [roF 31 16 0, w1cF 3 3, roF 2 2 0, roF 1 1 0, roF 0 0 0]⟩,
  ⟨.fltFatal, 0x30110, [], [w1cF 63 63, roF 15 8 0, roF 7 0 0]⟩,
  ⟨.fltEvtPend, 0x30118, [], [w1cF 14 0]⟩,
  ⟨.fltEvtMask, 0x30120, [], [rwF 14 0 0]⟩,
  ⟨.fltJrnlPart, 0x31000, [(0x40, 16)], [rwF 3 0 0]⟩,
  ⟨.fltReplayGroup, 0x31008, [(0x40, 16)], [rwF 7 0 0]⟩,
  ⟨.fltIntrMax, 0x31010, [(0x40, 16)], [rwF 31 0 0]⟩,
  ⟨.fltChMap, 0x32000, [(0x100, 16), (8, 31)], [roF 4 0 0]⟩]

/-- A counter (Table 21.8). -/
def cntFields : List RField := [roF 63 63 0, rwF 47 0 0]

/-- Table 21.9. -/
def rowsDebug : List RRow := [
  ⟨.dbgSnapCtrl, 0x40000, [], [woF 7 6, woF 5 0]⟩,
  ⟨.dbgSnapStatus, 0x40008, [], [roF 1 1 0, roF 0 0 0]⟩,
  ⟨.dbgTraceCtrl, 0x40010, [], [rwF 6 6 0, rwF 5 4 0, rwF 3 0 0]⟩,
  ⟨.dbgTraceBase, 0x40018, [], [rwF 39 0 0]⟩,
  ⟨.dbgTraceSize, 0x40020, [], [rwF 39 0 0]⟩,
  ⟨.dbgTraceRate, 0x40028, [], [rwR 6 0 10 1 80]⟩,
  ⟨.dbgTraceWptr, 0x40030, [], [roF 63 0 0]⟩,
  ⟨.dbgTraceLost, 0x40038, [], [rwF 31 0 0]⟩,
  ⟨.dbgSyncInterval, 0x40040, [], [rwR 15 0 1024 16 65535]⟩,
  ⟨.dbgMark, 0x40048, [], [woF 31 0]⟩,
  ⟨.dbgFreeze, 0x40050, [], [w1sF 0 0]⟩,
  ⟨.dbgWfgCapture, 0x40058, [], [woF 7 7, woF 3 0]⟩,
  ⟨.dbgWfgBase, 0x40060, [], [rwF 39 0 0]⟩,
  ⟨.dbgWfgSize, 0x40068, [], [rwF 39 0 0]⟩,
  ⟨.dbgWfgWcount, 0x40070, [], [roF 63 0 0]⟩,
  ⟨.dbgRodAccess, 0x40080, [], [w1sF 63 63, rwF 62 62 0, rwF 61 53 0, rwF 52 48 0, rwF 21 0 0]⟩,
  ⟨.dbgRodData, 0x40088, [], [rwF 63 0 0]⟩,
  ⟨.dbgTrig, 0x40100, [(0x20, 4)], [rwF 63 63 0, rwF 62 60 0, rwF 59 57 0, rwF 55 52 0, rwF 47 32 0]⟩,
  ⟨.dbgTrig1, 0x40108, [(0x20, 4)], [rwF 63 32 0, rwF 31 0 0]⟩,
  ⟨.dbgTrig2, 0x40110, [(0x20, 4)], [w1sF 0 0]⟩,
  ⟨.dbgHist, 0x40200, [(8, 8)],
    [rwF 63 63 0, rwF 62 62 0, rwF 59 56 0, rwF 51 40 0, rwF 36 32 0, rwR 31 0 1 1 (2 ^ 32 - 1)]⟩,
  ⟨.dbgMarkRod, 0x40400, [(8, 16)], [roF 31 0 0]⟩,
  ⟨.dbgRodExc, 0x44000, [(32, 512)], [roF 8 0 0]⟩,
  ⟨.dbgRodExc1, 0x44008, [(32, 512)], [roF 16 0 0]⟩,
  ⟨.dbgRodExc2, 0x44010, [(32, 512)], [roF 63 0 0]⟩]

/-- Tables 21.10 and 21.11, the table counters and the tenant counters of Table 21.18. -/
def rowsCounters : List RRow := [
  ⟨.counter, 0x48000, [(8, 12)], cntFields⟩, ⟨.counter, 0x48080, [(8, 7)], cntFields⟩,
  ⟨.counter, 0x48100, [(8, 3)], cntFields⟩, ⟨.counter, 0x48140, [(8, 2)], cntFields⟩,
  ⟨.counter, 0x48180, [], cntFields⟩, ⟨.counter, 0x481C0, [(8, 6)], cntFields⟩,
  ⟨.counter, 0x48800, [(0x80, 16), (8, 7)], cntFields⟩,
  ⟨.counter, 0x49000, [(0x200, 8), (8, 44)], cntFields⟩,
  ⟨.counter, 0x4A000, [(0x40, 32), (8, 2)], cntFields⟩,
  ⟨.counter, 0x4A800, [(0x20, 4), (8, 2)], cntFields⟩,
  ⟨.counter, 0x4A900, [(0x10, 16), (8, 2)], cntFields⟩,
  ⟨.counter, 0x4B000, [(0x80, 8), (8, 16)], cntFields⟩,
  ⟨.counter, 0x4C000, [(8, 544)], cntFields⟩,
  ⟨.counter, 0x4E000, [(0x100, 16), (8, 32)], cntFields⟩,
  ⟨.counter, 0x50000, [(0x1000, 16), (8, 7)], cntFields⟩,
  ⟨.counter, 0x50040, [(0x1000, 16), (8, 4)], cntFields⟩,
  ⟨.counter, 0x50080, [(0x1000, 16), (8, 6)], cntFields⟩,
  ⟨.counter, 0x500C0, [(0x1000, 16), (8, 4)], cntFields⟩,
  ⟨.counter, 0x50100, [(0x1000, 16), (8, 3)], cntFields⟩,
  ⟨.counter, 0x50140, [(0x1000, 16), (8, 7)], cntFields⟩,
  ⟨.counter, 0x50180, [(0x1000, 16), (8, 18)], cntFields⟩,
  ⟨.counter, 0x60000, [(0x20, 1024), (8, 3)], cntFields⟩,
  ⟨.dbgSnap, 0x70000, [(8, 8192)], [roF 63 0 0]⟩,
  ⟨.counter, 0x802000, [(0x10000, 64), (8, 6)], cntFields⟩,
  ⟨.counter, 0x802040, [(0x10000, 64), (8, 4)], cntFields⟩,
  ⟨.counter, 0x802080, [(0x10000, 64), (8, 6)], cntFields⟩,
  ⟨.counter, 0x8020C0, [(0x10000, 64), (8, 2)], cntFields⟩,
  ⟨.counter, 0x8020E0, [(0x10000, 64), (8, 3)], cntFields⟩,
  ⟨.counter, 0x802100, [(0x10000, 64), (8, 2)], cntFields⟩]

/-- Tables 21.12 and 21.13. -/
def rowsSequencer : List RRow :=
  let P := [(0x1000, 16)]
  [⟨.seqPartCtrl, 0x80000, P, [roF 23 16 0, roF 15 12 0, roF 10 8 0, woF 2 0]⟩,
  ⟨.seqPartFrames, 0x80008, P, [rwF 63 0 0]⟩,
  ⟨.seqPartKind, 0x80010, P, [rwF 0 0 0]⟩,
  ⟨.seqPartHbm, 0x80018, P, [rwF 18 0 0]⟩,
  ⟨.seqPartBw, 0x80020, P, [rwR 7 0 1 1 255]⟩,
  ⟨.seqPartVocab, 0x80028, P, [rwF 49 32 0, rwR 18 0 0 1 262144]⟩,
  ⟨.seqLaunchBase, 0x80030, P, [rwF 51 0 0]⟩,
  ⟨.seqLaunchCount, 0x80038, P, [rwR 12 0 0 1 4096]⟩,
  ⟨.seqDescBase, 0x80040, P, [rwF 51 0 0]⟩,
  ⟨.seqBudgetBase, 0x80048, P, [rwF 51 0 0]⟩,
  ⟨.seqBudgetCount, 0x80050, P, [rwR 16 0 0 0 65536]⟩,
  ⟨.seqProfBase, 0x80058, P, [rwF 51 0 0]⟩,
  ⟨.seqSctxBase, 0x80060, P, [rwF 51 0 0]⟩,
  ⟨.seqStepMax, 0x80068, P, [rwF 31 0 250000]⟩,
  ⟨.seqStepMargin, 0x80070, P, [rwF 31 0 2000]⟩,
  ⟨.seqDecMax, 0x80078, P, [rwR 13 0 8192 1 8192]⟩,
  ⟨.seqPromptMax, 0x80080, P, [rwR 15 0 32768 16 32768]⟩,
  ⟨.seqChunkMin, 0x80088, P, [rwR 15 0 64 16 32768]⟩,
  ⟨.seqEst, 0x80090, [(0x1000, 16), (8, 8)], [rwF 31 0 0]⟩,
  ⟨.seqOldestOpen, 0x800D0, P, [roF 63 0 0]⟩,
  ⟨.seqBarrier, 0x80100, P, [roF 31 0 0]⟩,
  ⟨.seqStepend, 0x80108, P, [roF 31 0 0]⟩,
  ⟨.seqProfStage, 0x80200, [(0x1000, 16), (8, 8)], [rwF 63 0 0]⟩,
  ⟨.seqProfStageCtl, 0x80240, P, [w1sF 63 63, rwF 12 0 0]⟩,
  ⟨.sltCtrlRange, 0x80280, P, [rwF 49 32 0, rwF 17 0 0]⟩,
  ⟨.sltCtrlSub, 0x80288, P, [rwF 17 0 0]⟩,
  ⟨.sltPfxKey, 0x80290, [(0x1000, 16), (8, 2)], [woF 63 0]⟩,
  ⟨.sltPfxScope, 0x802A0, P, [rwF 0 0 1]⟩,
  ⟨.sltPfxBase, 0x802A8, P, [rwF 51 0 0]⟩,
  ⟨.sltPfxOrder, 0x802B0, P, [rwR 4 0 12 12 22]⟩,
  ⟨.sltPlistBase, 0x802B8, P, [rwF 51 0 0]⟩,
  ⟨.sltHistBase, 0x90000, [], [rwF 39 0 0]⟩,
  ⟨.sltHistBase2, 0x90008, [], [rwF 39 0 0]⟩,
  ⟨.sltQuota, 0x90100, [(8, 64)], [rwF 15 0 0]⟩,
  ⟨.sltSide, 0x94000, [(8, 2048)], [roF 63 0 0]⟩,
  ⟨.sltMirror, 0x100000, [(8, 262144)], [roF 63 0 0]⟩]

/-- Table 21.14. -/
def rowsTier : List RRow := [
  ⟨.tierCmdBase, 0x400000, [], [rwF 39 0 0]⟩,
  ⟨.tierCmdSize, 0x400008, [], [rwR 4 0 4 4 16]⟩,
  ⟨.tierCmdTail, 0x400010, [], [rwF 31 0 0]⟩,
  ⟨.tierCmdHead, 0x400018, [], [roF 31 0 0]⟩,
  ⟨.tierDemoteWait, 0x400020, [], [rwR 9 0 100 1 1000]⟩,
  ⟨.tierDirectSize, 0x400028, [], [rwR 4 0 1 1 16]⟩,
  ⟨.tierDirectBase, 0x400030, [], [roF 39 0 0]⟩,
  ⟨.tierHbmIl, 0x400038, [], [roF 39 0 0]⟩,
  ⟨.tierImbalMin, 0x400040, [], [rwF 15 0 512]⟩,
  ⟨.tierImbalStatus, 0x400048, [], [roF 63 32 0, w1cF 4 4, roF 3 0 0]⟩,
  ⟨.tierPtRoot, 0x400100, [(8, 16)], [rwF 39 0 0]⟩,
  ⟨.tierPool, 0x400200, [(0x20, 8)], [rwR 63 60 0 0 4, rwF 58 56 0, rwF 53 48 0]⟩,
  ⟨.tierPoolList, 0x400208, [(0x20, 8)], [rwF 39 0 0]⟩,
  ⟨.tierPoolSize, 0x400210, [(0x20, 8)], [rwR 4 0 4 4 20]⟩,
  ⟨.tierPoolCount, 0x400218, [(0x20, 8)], [roF 63 32 0, rwF 31 0 0]⟩,
  ⟨.wstStatus, 0x400300, [(8, 16)], [roF 6 0 0]⟩]

/-- Table 21.15. -/
def rowsGather : List RRow := [
  ⟨.gthSampleShift, 0x500000, [], [rwR 4 0 6 0 16]⟩,
  ⟨.gthHotPeriod, 0x500008, [], [rwR 13 0 100 10 10000]⟩,
  ⟨.gthMigRatio, 0x500010, [], [rwR 15 0 120 101 1000]⟩,
  ⟨.gthMigWindow, 0x500018, [], [rwR 15 0 10 1 3600]⟩,
  ⟨.gthReplShare, 0x500020, [], [rwF 15 0 655]⟩,
  ⟨.gthSampleBase, 0x500028, [], [rwF 39 0 0]⟩,
  ⟨.gthSampleSize, 0x500030, [], [rwR 4 0 16 8 24]⟩,
  ⟨.gthSampleWcount, 0x500038, [], [roF 63 0 0]⟩,
  ⟨.gthSampleRcount, 0x500040, [], [rwF 63 0 0]⟩,
  ⟨.gthRowwrite, 0x500100, [], [rwF 51 0 0]⟩,
  ⟨.gthRowwrite1, 0x500108, [], [rwF 39 0 0]⟩,
  ⟨.gthRowwrite2, 0x500110, [], [w1sF 63 63, roF 62 62 0, rwF 9 0 0]⟩,
  ⟨.gthTblStage, 0x500200, [(8, 16)], [rwF 63 0 0]⟩,
  ⟨.gthTblStageCtl, 0x500280, [], [w1sF 63 63, roF 62 60 0, rwF 9 0 0]⟩,
  ⟨.gthTblStageFirst, 0x500288, [], [roF 63 0 0]⟩,
  ⟨.gthTblRelease, 0x500290, [], [w1sF 63 63, rwF 9 0 0]⟩,
  ⟨.gthInboxA, 0x501000, [(0x40, 32)], [rwF 39 0 0]⟩,
  ⟨.gthInboxB, 0x501008, [(0x40, 32)], [rwF 39 0 0]⟩,
  ⟨.gthInboxCfg, 0x501010, [(0x40, 32)], [rwF 51 48 0, rwR 42 32 0 1 1024, rwF 22 0 0]⟩,
  ⟨.gthInboxCounter, 0x501018, [(0x40, 32)], [roF 31 0 0]⟩,
  ⟨.gthInboxRound, 0x501020, [(0x40, 32)], [roF 31 0 0]⟩,
  ⟨.gthInboxEnable, 0x501028, [(0x40, 32)], [rwF 0 0 0]⟩,
  ⟨.carDirBase, 0x502000, [(8, 16)], [rwF 51 0 0]⟩,
  ⟨.carPlainLimit, 0x502080, [(8, 16)], [rwR 12 0 4096 0 4096]⟩,
  ⟨.carDirStage, 0x502100, [(0x80, 16), (8, 8)], [rwF 63 0 0]⟩,
  ⟨.carDirStageCtl, 0x502140, [(0x80, 16)], [w1sF 63 63, roF 62 60 0, rwF 32 32 0, rwF 23 0 0]⟩,
  ⟨.carDirStageFirst, 0x502148, [(0x80, 16)], [roF 63 0 0]⟩,
  ⟨.gthTbl, 0x510000, [(0x80, 1024), (8, 16)], [roF 63 0 0]⟩]

/-- Table 21.16. The lane map is 8 words per port, the identity 6 words per peer. −300 and 200 are two's complement in 16 bits. -/
def rowsFabric : List RRow := [
  ⟨.fabPos, 0x600000, [], [roF 2 0 0]⟩,
  ⟨.fabBoardId, 0x600008, [], [rwF 63 0 0]⟩,
  ⟨.fabPortCtrl, 0x600010, [], [rwF 7 0 0xFF]⟩,
  ⟨.fabProbePwr, 0x600018, [], [rwF 15 0 (65536 - 300)]⟩,
  ⟨.fabLanePwr, 0x600020, [], [rwF 15 0 200]⟩,
  ⟨.fabLaneThresh, 0x600028, [], [rwF 15 0 4096]⟩,
  ⟨.fabSyncPeriod, 0x600030, [], [rwR 13 0 100 10 10000]⟩,
  ⟨.fabDiscWait, 0x600038, [], [rwR 9 0 50 1 1000]⟩,
  ⟨.fabTimeStatus, 0x600040, [], [roF 63 32 0, roF 3 1 0, roF 0 0 0]⟩,
  ⟨.fabShelfSize, 0x600048, [], [roF 44 0 0]⟩,
  ⟨.fabLaneMap, 0x600100, [(0x40, 8), (8, 8)], [roF 63 0 0]⟩,
  ⟨.fabTsTxAdj, 0x600300, [(0x20, 8)], [rwF 31 0 0]⟩,
  ⟨.fabTsRxAdj, 0x600308, [(0x20, 8)], [rwF 31 0 0]⟩,
  ⟨.fabPrbsCtrl, 0x600310, [(0x20, 8)], [rwF 63 63 0, rwF 62 62 0, rwF 61 61 0, rwF 35 0 0]⟩,
  ⟨.fabPrbsLock, 0x600318, [(0x20, 8)], [roF 35 0 0]⟩,
  ⟨.fabPeer, 0x600400, [(0x40, 8)], [roF 63 32 0, roF 31 16 0, roF 8 8 0, roF 6 4 0, roF 2 0 0]⟩,
  ⟨.fabPeerId, 0x600408, [(0x40, 8), (8, 6)], [roF 63 0 0]⟩,
  ⟨.fabExport, 0x600800, [(0x20, 64)], [rwF 47 0 0]⟩,
  ⟨.fabExportSize, 0x600808, [(0x20, 64)], [rwF 47 0 0]⟩,
  ⟨.fabExportCtl, 0x600810, [(0x20, 64)], [rwF 31 16 0, rwR 13 12 0 0 2, rwF 11 8 0, rwF 7 0 0]⟩]

/-- Table 21.17. HAP_HOME resets to t mod 4 (see regReset). -/
def rowsHost : List RRow :=
  let T := [(0x80, 64)]
  [⟨.hapChanEn, 0x700000, [], [rwF 3 0 0xF]⟩,
  ⟨.hapTimeout, 0x700008, [], [rwR 9 0 50 1 1000]⟩,
  ⟨.hapLoopCtrl, 0x700010, [], [rwF 3 0 0]⟩,
  ⟨.hapErrLog, 0x700018, [], [w1cF 0 0]⟩,
  ⟨.hapErrHeader, 0x700040, [(8, 8)], [roF 63 0 0]⟩,
  ⟨.hapHome, 0x700100, [(8, 64)], [rwF 1 0 0]⟩,
  ⟨.hapPriv, 0x701000, T, [rwF 0 0 0]⟩,
  ⟨.tenCapsPriv, 0x701008, T, [rwF 3 0 0]⟩,
  ⟨.hapInBase, 0x701010, T, [rwF 39 0 0]⟩,
  ⟨.hapInSlot, 0x701018, T, [rwR 4 0 12 12 20]⟩,
  ⟨.hapInCount, 0x701020, T, [rwR 16 0 0 0 65536]⟩,
  ⟨.hapPrioMin, 0x701028, T, [rwF 2 0 7]⟩,
  ⟨.hapBudgetLo, 0x701030, T, [rwF 15 0 0]⟩,
  ⟨.hapBudgetHi, 0x701038, T, [rwF 15 0 0]⟩,
  ⟨.hapAdpLo, 0x701040, T, [rwF 23 0 0]⟩,
  ⟨.hapAdpHi, 0x701048, T, [rwF 23 0 0]⟩]

/-- Table 21.18. -/
def rowsTenant : List RRow :=
  let T := [(0x10000, 64)]
  let Q := [(0x10000, 64), (0x20, 8)]
  let R := [(0x10000, 64), (0x20, 1024)]
  [⟨.tenState, 0x800000, T, [roF 1 0 0]⟩,
  ⟨.tenReset, 0x800008, T, [w1sF 0 0]⟩,
  ⟨.tenResetStatus, 0x800010, T, [roF 1 0 0]⟩,
  ⟨.tenCaps, 0x800018, T, [roF 3 0 0]⟩,
  ⟨.tenInDone, 0x800020, T, [woF 15 0]⟩,
  ⟨.tenInFree, 0x800028, T, [woF 15 0]⟩,
  ⟨.tenMark, 0x800030, T, [woF 31 0]⟩,
  ⟨.tenSqBase, 0x800100, Q, [rwF 46 0 0]⟩,
  ⟨.tenSqCfg, 0x800108, Q, [rwF 18 16 0, rwR 12 8 4 4 16, rwF 0 0 0]⟩,
  ⟨.tenSqTail, 0x800110, Q, [rwF 15 0 0]⟩,
  ⟨.tenSqStatus, 0x800118, Q, [roF 16 16 0, roF 15 0 0]⟩,
  ⟨.tenCqBase, 0x800200, Q, [rwF 46 0 0]⟩,
  ⟨.tenCqCfg, 0x800208, Q, [rwF 20 20 0, rwF 19 16 0, rwR 12 8 4 4 16, rwF 0 0 0]⟩,
  ⟨.tenCqHead, 0x800210, Q, [rwF 15 0 0]⟩,
  ⟨.tenVecCfg, 0x800300, [(0x10000, 64), (8, 16)], [rwF 31 16 0, rwR 7 0 1 1 255]⟩,
  ⟨.tenVecMask, 0x800380, T, [rwF 15 0 0xFFFF]⟩,
  ⟨.tenSpdmCtrl, 0x800800, T, [roF 44 32 0, roF 17 17 0, w1sF 16 16, rwR 12 0 0 1 4096]⟩,
  ⟨.tenSpdm, 0x801000, [(0x10000, 64), (8, 512)], [rwF 63 0 0]⟩,
  ⟨.tenOringBase, 0x808000, R, [rwF 46 0 0]⟩,
  ⟨.tenOringCfg, 0x808008, R, [rwF 20 20 0, rwF 19 16 0, rwR 12 8 8 8 20, rwF 0 0 0]⟩,
  ⟨.tenOringTailaddr, 0x808010, R, [rwF 46 0 0]⟩,
  ⟨.tenOringHead, 0x808018, R, [rwF 63 0 0]⟩]

/-- The rows of one page of Table 21.1. -/
def pageRows (off : Nat) : List RRow :=
  if off < 0x10000 then rowsIdentity else if off < 0x20000 then rowsPower else if off < 0x30000 then rowsSecurity
  else if off < 0x40000 then rowsFaults else if off < 0x80000 then rowsDebug ++ rowsCounters
  else if off < 0x400000 then rowsSequencer else if off < 0x500000 then rowsTier else if off < 0x600000 then rowsGather
  else if off < 0x700000 then rowsFabric else if off < 0x800000 then rowsHost else rowsTenant ++ rowsCounters

/-- The array indices with which `off`, counted from a row's first offset, meets an element, outermost first. -/
def dimIdx : List (Nat × Nat) → Nat → Option (List Nat)
  | [], off => if off = 0 then some [] else none
  | (st, n) :: r, off =>
    if off / st < n then (dimIdx r (off % st)).map (fun l => off / st :: l) else none

/-- A register found at an offset: its row and its indices. -/
structure RHit where
  row : RRow
  idx : List Nat
deriving DecidableEq, Repr

def findRow : List RRow → Nat → Option RHit
  | [], _ => none
  | r :: rs, off =>
    if off < r.base then findRow rs off
    else match dimIdx r.dims (off - r.base) with
      | some ix => some ⟨r, ix⟩
      | none => findRow rs off

/-- The register at an 8-byte aligned offset; a reserved offset has none (R448). -/
def regAt (off : Nat) : Option RHit := findRow (pageRows off) off

/-- Maximum block power in watts (Table 22.5). -/
def Design.maxPower : Design → Nat | .cx128 => 700 | .cx256 => 1250 | .cx512 => 2300

/-- A word with each field at its reset value. -/
def resetOf : List RField → Nat
  | [] => 0
  | f :: r => f.rst * 2 ^ f.lo + resetOf r

/-- The reset value of the register at an offset (zero in reserved offsets). HAP_HOME resets to t mod 4; KIND of TIER_POOL0 is 1;
PWR_LIMIT to the configuration's maximum block power (22 R466, Table 22.5); the stored copies of the identity registers are those of
CX512 (R454), their views those of the configuration. -/
def regReset (d : Design) (off : Nat) : W64 :=
  match regAt off with
  | none => 0
  | some h =>
    match h.row.name, h.idx with
    | .hapHome, [t] => w64 (t % 4)
    | .tierPool, [0] => w64 (2 ^ 60)
    | .pwrLimit, _ => w64 d.maxPower
    | _, _ => w64 (resetOf h.row.fields)

end Sys2Proof.Machine
end

