-- ==== Sys2Proof/Machine/RodDecode.lean ====
section
/-! DEFINITION. Instruction words of a rod (spec 04_isa_encoding.md): RodOp.decode reads a 64-bit word into its operation or refuses
it as illegal (R88). Register numbers are read out here once; the meanings never see a raw word. -/

namespace Sys2Proof.Machine

/-- Operations of format Q that are atomics (R82). -/
inductive AtomOp where
  | add | max | cas | xchg
deriving DecidableEq, Repr

/-- What a rod's instruction word asks for. `cnt` is the completion counter it names, if any (R77). -/
inductive RodOp where
  | nop
  | srRd (d idx : Nat)
  | srWr (a idx : Nat)
  | brk
  | br (off : Int)
  | bl (d : Nat) (off : Int)
  | jr (a : Nat)
  | jlr (d a : Nat)
  | int (f d a b c sh : Nat)
  | intImm (major d a : Nat) (imm : Nat)
  | cmp (f d a b : Nat)
  | cmpi (f d a : Nat) (imm : Int)
  | pred (f d a b : Nat)
  | fp (f d a b c : Nat)
  | ld (width d a : Nat) (off : Int)
  | st (width a b : Nat) (off : Int)
  | wait (cond c : Nat) (imm : Int)
  | tadd (c : Nat) (imm : Int)
  | take (d p : Nat)
  | steal (d p : Nat)
  | put (a b p : Nat)
  | vec (f d a b c ty : Nat) (cnt : Option Nat)
  | vld (d a : Nat) (off : Int) (cnt : Option Nat)
  | vst (a b : Nat) (off : Int) (cnt : Option Nat)
  | acc (f d a t row : Nat) (cnt : Option Nat)
  | mma (t pair ws as a b : Nat) (latched zero : Bool) (cnt : Option Nat)
  | carry (f t a b : Nat) (cnt : Option Nat)
  | rget (a b len : Nat) (cnt : Option Nat)
  | rput (a b len : Nat) (cnt : Option Nat)
  | atom (op : AtomOp) (width d a b c : Nat) (cnt : Option Nat)
  | taddR (a : Nat) (inc : Int) (cnt : Option Nat)
  | fence (scope : Nat) (cnt : Option Nat)
  | gather (a b : Nat) (cnt : Option Nat)
  | streamArm (a : Nat) (cnt : Option Nat)
  | samplePut (a b : Nat) (cnt : Option Nat)
  | sampleEmpty (cnt : Option Nat)
deriving DecidableEq, Repr

/-- An instruction: the predicate that guards it and its operation. -/
structure RodInstr where
  pred : Nat
  op : RodOp
deriving DecidableEq, Repr

/-- The fields common to every word (R68) and its low 40 bits. -/
structure Fields where
  d : Nat
  a : Nat
  b : Nat
  lo : Nat

/-- The low bits `[hi:lo]` of the format bits. -/
def Fields.bits (f : Fields) (hi lo : Nat) : Nat := f.lo / 2 ^ lo % 2 ^ (hi + 1 - lo)

/-- The completion field of formats V, X, C, Q and G and of VLD and VST (R77): outer none is an illegal field. -/
def Fields.cnt (f : Fields) : Option (Option Nat) :=
  let n := f.bits 38 35
  if f.bits 39 39 = 1 then (if n ≥ 14 then none else some (some n)) else (if n = 0 then some none else none)

/-- An operation if its reserved fields are all zero. -/
def okIf (c : Bool) (o : RodOp) : Option RodOp := if c then some o else none

/-- Format A's function, source C, shift amount and reserved bits. -/
def Fields.fn (f : Fields) : Nat := f.bits 39 32
def Fields.c5 (f : Fields) : Nat := f.bits 31 27
def Fields.sh (f : Fields) : Nat := f.bits 26 21

/-- Functions of major 0x08 that read source B (Table 5.1). -/
def intTwo (fn : Nat) : Bool :=
  [0x00, 0x01, 0x02, 0x03, 0x04, 0x08, 0x09, 0x0A, 0x0B, 0x10, 0x11, 0x12, 0x18, 0x19, 0x1A, 0x1B].contains fn

/-- Integer functions (Table 5.1). -/
def decInt (f : Fields) : Option RodOp :=
  let z (x : Nat) : Bool := decide (x = 0)
  let o := RodOp.int f.fn f.d f.a f.b f.c5 f.sh
  let r := z (f.bits 20 0)
  if intTwo f.fn then okIf (r && z f.c5 && z f.sh) o
  else if f.fn = 0x05 then okIf (r && z f.sh) o
  else if f.fn = 0x14 || f.fn = 0x15 || f.fn = 0x16 then okIf (r && z f.c5 && z f.b) o
  else if f.fn = 0x1C || f.fn = 0x1D then okIf (r && z f.c5 && z f.sh && z f.b) o
  else none

/-- FP32 scalar functions (Table 5.2). -/
def decFp (f : Fields) : Option RodOp :=
  let z (x : Nat) : Bool := decide (x = 0)
  let o := RodOp.fp f.fn f.d f.a f.b f.c5
  let r := z (f.bits 26 0)
  if [0x00, 0x01, 0x02, 0x04, 0x05].contains f.fn then okIf (r && z f.c5) o
  else if f.fn = 0x03 then okIf r o
  else if [0x06, 0x07, 0x10, 0x11, 0x12, 0x13].contains f.fn then okIf (r && z f.c5 && z f.b) o
  else none

/-- What a vector function admits (Table 5.4): element type codes; whether it reads B and C; none for a reserved function. -/
structure VShape where
  types : List Nat     -- empty: the type field is reserved
  useB : Bool
  useC : Bool
  sFile : Bool         -- VRSUM and the like write s[d]; irrelevant to legality

def vshape (fn : Nat) : Option VShape :=
  if [0x00, 0x01, 0x02, 0x06, 0x07, 0x18, 0x19, 0x1A].contains fn then some ⟨[0, 1], true, false, false⟩
  else if fn = 0x03 then some ⟨[0], true, true, false⟩
  else if fn = 0x04 || fn = 0x1B then some ⟨[0], true, false, false⟩
  else if fn = 0x05 then some ⟨[0], false, false, false⟩
  else if fn = 0x08 || fn = 0x09 then some ⟨[0, 1], false, false, false⟩
  else if [0x10, 0x11, 0x12, 0x13, 0x14, 0x15, 0x16].contains fn then some ⟨[], true, false, false⟩
  else if fn = 0x1C then some ⟨[], true, true, false⟩
  else if [0x20, 0x21, 0x22, 0x23, 0x24, 0x25, 0x26, 0x27].contains fn then some ⟨[0], false, false, false⟩
  else if fn = 0x30 || fn = 0x31 || fn = 0x32 then some ⟨[0, 1], false, false, true⟩
  else if fn = 0x38 || fn = 0x3B then some ⟨[], false, false, false⟩
  else if fn = 0x39 then some ⟨[], true, false, true⟩
  else if fn = 0x3C || fn = 0x3D || fn = 0x3E then some ⟨[], true, false, false⟩
  else if fn = 0x40 then some ⟨[2, 3, 4, 5, 6, 7, 8, 9, 0xA, 0xB], false, false, false⟩
  else if fn = 0x41 then some ⟨[6, 7, 8, 9, 0xA, 0xB], false, false, false⟩
  else if fn = 0x42 then some ⟨[2, 3, 4, 5, 6, 7, 8, 9, 0xA, 0xB], false, true, false⟩
  else if fn = 0x43 || fn = 0x44 then some ⟨[], false, false, false⟩
  else none

/-- Vector functions (Table 5.4). VIOTA reads no source. VCVT.FROM of a type without scales reserves source C (R106). -/
def decVec (f : Fields) : Option RodOp :=
  let z (x : Nat) : Bool := decide (x = 0)
  let fn := f.bits 34 27
  let c := f.bits 26 22
  let ty := f.bits 21 18
  match f.cnt, vshape fn with
  | some cnt, some sh =>
    let tyOk := if sh.types.isEmpty then z ty else sh.types.contains ty
    let cOk := if fn = 0x42 && decide (ty < 6) then z c else (sh.useC || z c)
    let aOk := if fn = 0x3B then z f.a else true
    okIf (z (f.bits 17 0) && tyOk && cOk && aOk && (sh.useB || z f.b)) (.vec fn f.d f.a f.b c ty cnt)
  | _, _ => none

/-- Accumulator moves (R108). -/
def decAcc (f : Fields) : Option RodOp :=
  let z (x : Nat) : Bool := decide (x = 0)
  let fn := f.bits 34 27
  let row := f.bits 14 11
  match f.cnt with
  | none => none
  | some cnt =>
    let o := RodOp.acc fn f.d f.a (f.bits 17 15) row cnt
    let r := z (f.bits 26 18) && z (f.bits 10 0) && z f.b
    if fn = 0 then okIf (r && z f.a) o
    else if fn = 1 then okIf (r && z f.d) o
    else if fn = 2 then okIf (r && z f.a && z f.d && z row) o
    else none

/-- The subtypes of an operand pair (Table 4.5): how many weight and activation codes it has; none for a reserved pair. -/
def pairSubs (pair : Nat) : Option (Nat × Nat) :=
  if pair = 0 then some (1, 3) else if pair = 1 then some (2, 3) else if pair = 2 then some (2, 2)
  else if pair = 3 then some (1, 1) else if pair = 4 then some (2, 2) else if pair = 5 then some (1, 1)
  else if pair = 6 then some (1, 1) else none

/-- MMA (R81). -/
def decMma (f : Fields) : Option RodOp :=
  let lat := decide (f.bits 27 27 = 1)
  match f.cnt, pairSubs (f.bits 31 28) with
  | some cnt, some (nw, na) =>
    okIf (decide (f.bits 25 24 < nw) && decide (f.bits 23 22 < na) && decide (f.bits 21 0 = 0) && decide (f.d = 0)
        && (!lat || decide (f.a = 0)))
      (.mma (f.bits 34 32) (f.bits 31 28) (f.bits 25 24) (f.bits 23 22) f.a f.b lat (decide (f.bits 26 26 = 1)) cnt)
  | _, _ => none

/-- CARRY (Table 5.6). -/
def decCarry (f : Fields) : Option RodOp :=
  let z (x : Nat) : Bool := decide (x = 0)
  let fn := f.bits 34 29
  let t := f.bits 28 26
  match f.cnt with
  | none => none
  | some cnt =>
    let o := RodOp.carry fn t f.a f.b cnt
    let r := z (f.bits 25 0) && z f.d
    if fn = 0 then okIf (r && z t && z f.b) o
    else if fn = 1 || fn = 2 then okIf (r && z t) o
    else if fn = 3 then okIf r o
    else if fn = 4 then okIf (r && z f.b) o
    else none

/-- Widths each atomic admits (R82). -/
def atomWidth (op w : Nat) : Bool :=
  if op = 2 then decide (w ≤ 3) else if op = 3 then decide (w ≤ 4) else decide (w ≤ 4) && !decide (w = 2)

/-- Format Q (R82, Table 5.7). -/
def decQ (f : Fields) : Option RodOp :=
  let z (x : Nat) : Bool := decide (x = 0)
  let op := f.bits 34 31
  let w := f.bits 30 28
  let c := f.bits 27 23
  let len := f.bits 22 0
  match f.cnt with
  | none => none
  | some cnt =>
    if op = 0 || op = 1 then
      okIf (z w && z c && z f.d && decide (1 ≤ len) && decide (len ≤ 4194304))
        (if op = 0 then .rget f.a f.b len cnt else .rput f.a f.b len cnt)
    else if op = 2 then okIf (atomWidth op w && z c && z len) (.atom .add w f.d f.a f.b 0 cnt)
    else if op = 3 then okIf (atomWidth op w && z c && z len) (.atom .max w f.d f.a f.b 0 cnt)
    else if op = 4 then okIf (atomWidth op w && z len) (.atom .cas w f.d f.a f.b c cnt)
    else if op = 5 then okIf (atomWidth op w && z c && z len) (.atom .xchg w f.d f.a f.b 0 cnt)
    else if op = 6 then okIf (z w && z c && z f.d && z f.b) (.taddR f.a (signedOf 23 len) cnt)
    else if op = 7 then okIf (decide (w ≤ 3) && z c && z f.d && z f.a && z f.b && z len) (.fence w cnt)
    else none

/-- Format G (R83). -/
def decG (major : Nat) (f : Fields) : Option RodOp :=
  let z (x : Nat) : Bool := decide (x = 0)
  let sub := f.bits 34 32
  let r := z (f.bits 31 0) && z f.d
  match f.cnt with
  | none => none
  | some cnt =>
    if major = 0x34 then okIf (r && z sub) (.gather f.a f.b cnt)
    else if major = 0x35 then okIf (r && z sub && z f.b) (.streamArm f.a cnt)
    else if sub = 0 then okIf r (.samplePut f.a f.b cnt)
    else if sub = 1 then okIf (r && z f.a && z f.b) (.sampleEmpty cnt)
    else none

/-- Special registers by index (Table 4.3): whether it exists, and whether it may be written. -/
def sprExists (i : Nat) : Bool :=
  decide (i ≤ 5) || (decide (8 ≤ i) && decide (i ≤ 0xB)) || i == 0x10 || i == 0x11 || (decide (0x20 ≤ i) && decide (i ≤ 0x2F))

/-- Format S (R84). -/
def decS (f : Fields) : Option RodOp :=
  let z (x : Nat) : Bool := decide (x = 0)
  let idx := f.bits 31 24
  let r := z (f.bits 23 0) && z f.b
  if f.fn = 0 then okIf (r && z idx && z f.d && z f.a) .nop
  else if f.fn = 1 then okIf (r && z f.a && sprExists idx) (.srRd f.d idx)
  else if f.fn = 2 then okIf (r && z f.d && idx == 8) (.srWr f.a idx)
  else if f.fn = 3 then okIf (r && z idx && z f.d && z f.a) .brk
  else none

/-- Formats L (R78): LD, ST, VLD and VST. -/
def decL (major : Nat) (f : Fields) : Option RodOp :=
  let w := f.bits 34 32
  let off := signedOf 32 (f.bits 31 0)
  if major = 0x14 then okIf (decide (f.bits 39 35 = 0) && decide (w ≤ 6) && decide (f.b = 0)) (.ld w f.d f.a off)
  else if major = 0x15 then okIf (decide (f.bits 39 35 = 0) && decide (w ≤ 3) && decide (f.d = 0)) (.st w f.a f.b off)
  else match f.cnt with
    | none => none
    | some cnt =>
      if major = 0x21 then okIf (decide (w = 7) && decide (f.b = 0)) (.vld f.d f.a off cnt)
      else okIf (decide (w = 7) && decide (f.d = 0)) (.vst f.a f.b off cnt)

/-- Formats T and K (R79, R80). -/
def decT (major : Nat) (f : Fields) : Option RodOp :=
  let z (x : Nat) : Bool := decide (x = 0)
  let c := f.bits 39 36
  let cond := f.bits 35 34
  let imm := signedOf 32 (f.bits 31 0)
  let r := z f.d && z f.a && z f.b && z (f.bits 33 32)
  if major = 0x18 then okIf (r && decide (cond ≤ 1)) (.wait cond c imm)
  else okIf (r && z cond) (.tadd c imm)

def decK (f : Fields) : Option RodOp :=
  let p := f.bits 39 37
  let fn := f.bits 36 32
  let r := decide (f.bits 31 0 = 0) && decide (p ≠ 0)
  let even := decide (f.d % 2 = 0) && decide (f.d ≠ 0)
  if fn = 0 then okIf (r && even && decide (f.a = 0) && decide (f.b = 0)) (.take f.d p)
  else if fn = 1 then okIf (r && even && decide (f.a = 0) && decide (f.b = 0)) (.steal f.d p)
  else if fn = 2 then okIf (r && decide (f.d = 0)) (.put f.a f.b p)
  else none

/-- CMP and PRED: the destination names p1 to p7 (R85). -/
def decCmpPred (major : Nat) (f : Fields) : Option RodOp :=
  let r := decide (f.bits 31 0 = 0) && decide (1 ≤ f.d) && decide (f.d ≤ 7)
  if major = 0x11 then okIf (r && decide (f.fn ≤ 9)) (.cmp f.fn f.d f.a f.b)
  else okIf (r && decide (f.fn ≤ 3) && decide (f.a ≤ 7) && decide (f.b ≤ 7)) (.pred f.fn f.d f.a f.b)

/-- Branches (R85). -/
def decBranch (major : Nat) (f : Fields) : Option RodOp :=
  let off := signedOf 40 f.lo
  if major = 0x02 then okIf (decide (f.d = 0) && decide (f.a = 0) && decide (f.b = 0)) (.br off)
  else if major = 0x03 then okIf (decide (f.a = 0) && decide (f.b = 0)) (.bl f.d off)
  else
    let r := decide (f.bits 31 0 = 0) && decide (f.b = 0)
    if f.fn = 0 then okIf (r && decide (f.d = 0)) (.jr f.a)
    else if f.fn = 1 then okIf r (.jlr f.d f.a) else none

/-- Immediate forms (R86). -/
def decImm (major : Nat) (f : Fields) : Option RodOp :=
  let o := RodOp.intImm major f.d f.a f.lo
  if major = 0x0D then okIf (decide (f.a = 0) && decide (f.b = 0)) o
  else if major = 0x0E then okIf (decide (f.b = 0) && decide (f.bits 39 24 = 0)) o
  else okIf (decide (f.b = 0)) o

/-- The operation of a word by its major opcode (Table 4.6); a reserved or illegal code gives none. -/
def decMajor (m : Nat) (f : Fields) : Option RodOp :=
  if m = 0x01 then decS f
  else if m = 0x02 || m = 0x03 || m = 0x04 then decBranch m f
  else if m = 0x08 then decInt f
  else if 0x09 ≤ m ∧ m ≤ 0x0E then decImm m f
  else if m = 0x0F then
    okIf (decide (f.bits 39 36 ≤ 5) && decide (1 ≤ f.d) && decide (f.d ≤ 7) && decide (f.b = 0))
      (.cmpi (f.bits 39 36) f.d f.a (signedOf 36 (f.bits 35 0)))
  else if m = 0x10 then decFp f
  else if m = 0x11 || m = 0x12 then decCmpPred m f
  else if m = 0x14 || m = 0x15 || m = 0x21 || m = 0x22 then decL m f
  else if m = 0x18 || m = 0x19 then decT m f
  else if m = 0x1C then decK f
  else if m = 0x20 then decVec f
  else if m = 0x23 then decAcc f
  else if m = 0x28 then decMma f
  else if m = 0x2C then decCarry f
  else if m = 0x30 then decQ f
  else if m = 0x34 || m = 0x35 || m = 0x36 then decG m f
  else none

/-- The instruction a word encodes; none is an illegal word (R88). -/
def RodInstr.decode (w : W64) : Option RodInstr :=
  let f : Fields := ⟨bits w 54 50, bits w 49 45, bits w 44 40, w.toNat % 2 ^ 40⟩
  (decMajor (bits w 63 58) f).map (fun o => ⟨bits w 57 55, o⟩)

end Sys2Proof.Machine
end

