-- ==== Sys2Proof/Machine/State.lean ====
section
/-! DEFINITION. The state of the Clatopen block as plain data: every register, memory, queue, table and mode that the spec names. -/

namespace Sys2Proof.Machine

/-! ### Rods (spec 03, 04, 05) -/

/-- An instruction in the queue of a local asynchronous unit (matrix, vector, carry), which has not completed (R41, R42): the
instruction with its place in issue order, its program address and word, its completion counter, whether it was suppressed (R75) and
whether the unit has started it; the bead byte ranges it wrote, and, until it starts, those that others have written since it was
issued (R123). -/
structure AEntry where
  op : RodOp
  ord : Nat
  pc : W64
  word : W64
  cnt : Option Nat
  supp : Bool
  started : Bool
  writes : List (Nat × Nat)
  clash : List (Nat × Nat)
deriving DecidableEq, Repr

/-- What a remote-memory instruction does (R82, R83). -/
inductive RemKind where
  | get | put | atom (op : AtomOp) (width : Nat) | taddR | gather | stream | sample | sampleEmpty | suppressed
deriving DecidableEq, Repr

/-- An outstanding operation of a rod's remote-memory unit (R129 to R144). `ord` is its place in issue order. `done` holds the
target's answer once it has performed the operation: a response code of Table 6.3, or 0. -/
structure RemOp where
  tag : Nat
  ord : Nat
  pc : Nat
  word : W64
  kind : RemKind
  cnt : Option Nat
  dest : Nat              -- s[d] of an atomic
  addr : Nat              -- 56-bit block physical address
  bead : Nat
  len : Nat
  b : W64                 -- operand or compare value; increment of TADD.R; row count of SAMPLE.PUT
  c : W64                 -- new value of ACAS
  data : List Byte        -- PUT: the source bytes; GET: the bytes read at the target
  poison : List (Nat × Nat)  -- ranges within data that came from poisoned granules
  done : Option Nat
  old : W64
  clash : List (Nat × Nat)  -- ranges of its bead destination that another unit wrote meanwhile, unordered (R123)
  spans : List (Nat × Nat)  -- ranges of bead memory it has still to read or write (R43)
  scope : Nat             -- where its form 0 access was performed: the least tier it met, 0 until then (R137)
  taken : Bool            -- GATHER: its engine's descriptor queue has taken it (08 R182)
deriving DecidableEq, Repr

/-- An entry of a tile queue (Table 3.3). -/
structure TileEntry where
  phase : Nat
  first : Nat
  count : Nat
  arg : W64
deriving DecidableEq, Repr

/-- What holds a rod's issue. -/
inductive IssueState where
  | run
  | waiting (cond c : Nat) (imm : Int)        -- WAIT (R119)
  | fencing (scope : Nat) (cnt : Option Nat) (tags : List Nat)   -- FENCE, with the older operations in its scope (R137)
  | stealing (d p : Nat) (ring : List Nat)    -- TILE.STEAL, with the rods marked non-empty when the walk began (R60)
deriving DecidableEq, Repr

/-- An exception an instruction raised (R89, R90): cause, program address, word, place in issue order, and for REMOTE the response
and the address concerned. -/
structure Raised where
  cause : Nat
  pc : Nat
  word : W64
  ord : Nat
  resp : Nat
  addr : Nat
deriving DecidableEq, Repr

/-- The weight latch (R48): operand pair, weight and activation subtypes, and the latched weight bytes. -/
structure Latch where
  pair : Nat
  ws : Nat
  as : Nat
  bytes : List Byte
deriving DecidableEq, Repr

/-- One physical rod. -/
structure Rod where
  s : Sparse W64                -- s1 to s31; s0 is never listed
  v : Sparse W32                -- key 64 × register + lane
  t : Sparse W32                -- key 1024 × accumulator + 64 × row + column
  p : BitVec 8                  -- p1 to p7; bit 0 unused (p0 reads 1)
  c : Sparse W32                -- tally counters c0 to c15
  pc : W64
  imgLen : Nat                  -- instructions of the loaded image
  issue : IssueState
  ord : Nat                     -- instructions issued so far
  raised : List Raised          -- exceptions raised since the last partition reset, oldest report first
  reported : Bool               -- the record below is written and the Sequencer told (R90)
  astat : BitVec 2
  ecause : BitVec 9
  epc : BitVec 17
  eword : W64
  latch : Option Latch
  rowMap : List W64             -- words of the map record in force; empty: no adapter in any row (R111)
  mq : List AEntry
  vq : List AEntry
  cq : List AEntry
  rem : List RemOp
  nextTag : Nat
  queue : List TileEntry
  stores : List (Nat × Nat)     -- ranges its stores have written since the last fence (R123)
  lastTest : W64                -- board time of the last rotation test (R444)
  stalled : Bool                -- its WAIT in progress has been counted as stalled on a stream (12 R282)
deriving DecidableEq, Repr

/-- A rod after a partition reset and program load (R70, R72): every register zero. -/
def Rod.init : Rod :=
  ⟨[], [], [], 0, [], 0, 0, .run, 0, [], false, 0, 0, 0, 0, none, [], [], [], [], [], 0, [], [], 0, false⟩

/-! ### Steps of a partition (spec 10, 11) -/

/-- A row of a batch descriptor (Table 10.4), with its row slot array entry and the adapter and generation it runs under. -/
structure Row where
  kind : Nat              -- 0 decode, 1 prompt, 2 void
  sample : Bool
  pos : Nat
  idx : Nat               -- Slate index
  tok : Nat
  root : Nat              -- page list root, bits [51:16] of its address
  pages : Nat
  slot : Nat              -- slot table index, 0xFFFF for none
deriving DecidableEq, Repr

/-- A slot of the slot table (07 R162) in words, with what the Sequencer needs of its adapter. -/
structure SlotEnt where
  words : List W64
  adapter : Nat
  basis : Bool
deriving DecidableEq, Repr

/-- A batch descriptor (Table 10.3): built, or sealed. -/
structure Desc where
  step : Nat
  nDec : Nat
  rows : List Row
  slots : List SlotEnt
  est : Nat
  target : Nat
  prompts : Nat           -- requests with prompt rows
  blocks : List Nat       -- partition range addresses of the KV blocks its rows name
  check : W64             -- SipHash-2-4 under FLT_JRNL_KEY of the sealed bytes (R374), 0 before the seal
deriving DecidableEq, Repr

/-- A candidate record the Sampler copied (Table 11.1): kind, row, start, and its entries (kind 0: logit and token in one word). -/
structure CandRec where
  kind : Nat
  row : Nat
  start : Nat
  entries : List W64
deriving DecidableEq, Repr

/-- What the Sampler found for one row: the entry of the commit record (Table 17.3) and its PASS payload. -/
structure JEntry where
  outcome : Nat           -- 0 token continues, 1 token ends, 2 PASS result, 3 ended without token
  idx : Nat
  pos : Nat
  tok : Nat
  status : Nat
  payload : List W32
deriving DecidableEq, Repr

/-- A commit record (Table 17.2): the step, the descriptor check and the entries. -/
structure JRecord where
  step : Nat
  check : W64
  entries : List JEntry
deriving DecidableEq, Repr

/-- One copy of a commit record in the step journal: the HBM offset at which it lies, and the record written (17 R374, R375). -/
structure JCopy where
  at_ : Nat
  record : JRecord
deriving DecidableEq, Repr

/-- States of a partition (Table 10.2). -/
inductive PState where
  | off | loading | running | held | resetting
deriving DecidableEq, Repr

/-- Steps of a partition's cycle that are open: nothing, a build in progress, a build that has ended and waits for its seal. -/
inductive BuildState where
  | idle
  | building (d : Desc)
  | built (d : Desc)
deriving DecidableEq, Repr

/-- States of a load (13 R292). -/
inductive LoadState where
  | idle | loading | done | failed
deriving DecidableEq, Repr

/-- A shard entry of the loaded manifest (13 Table 13.2), in words, with how often it restarted, whether its pages are mapped and its
bytes under way, whether it verified, and when it was last checked. -/
structure Shard where
  words : List W64
  tries : Nat
  begun : Bool
  ok : Bool
  lastCheck : W64
deriving DecidableEq, Repr

/-- One load of a partition: the manifests, the keys unwrapped for it, the shards and the command that started it (13). -/
structure Load where
  state : LoadState
  tenant : Nat
  queue : Nat
  cmd : Nat
  model : Option ModelManifest
  version : Nat
  windowBase : Nat         -- window offset of the shard manifest's shards
  shards : List Shard
  keys : List (Nat × List Byte)   -- the partition's entries of the key store (16 R359)
  staged : List Nat        -- pages mapped for the load
  ownerTenant : Nat
  bad : Option (Nat × Nat × Nat)  -- a demotion of the load that failed: command status, cause and shard of SEC_LOAD_STATUS (13 R295)
deriving DecidableEq, Repr

/-- An extent of an accepted stream descriptor that has not completed (12 Table 12.9). -/
structure Extent where
  e : Nat
  rod : Nat               -- logical rod
  cnt : Nat
  src : Nat
  len : Nat
  dst : Nat
  failed : Bool           -- a read of its source drew an error: it never completes (12 R281)
deriving DecidableEq, Repr

/-- An accepted stream descriptor (12 R278). -/
structure Stream where
  id : Nat
  layer : Nat
  extents : List Extent
deriving DecidableEq, Repr

/-- An adapter command under way: the tenant's command, waiting for its image (07 R166, R167). -/
structure AdapterCmd where
  op : Nat                -- 8 install, 9 replace, 10 remove
  tenant : Nat
  queue : Nat
  cmd : Nat
  part : Nat
  id : Nat
  shared : Bool
  off : Nat
  len : Nat
  key : Nat
  silent : Bool           -- its tenant has been reset: it completes nothing
deriving DecidableEq, Repr

/-- One partition's context. -/
structure Part where
  st : PState
  hold : Nat              -- SEQ_PART_CTRL.HOLD
  refusal : Nat           -- SEQ_PART_CTRL.REFUSAL
  haltHeld : Bool         -- RUNNING when halt took effect (R390)
  nonce : Nat             -- which free words are its creation nonce (16 Table 16.1)
  pfxKey0 : W64
  pfxKey1 : W64
  step : Nat              -- number of the next step to be launched
  opened : Option Desc    -- launched and not committed
  build : BuildState
  boundary : W64          -- board time of the last boundary
  ended : Bool            -- the open step's computation has ended (R65)
  recs : List CandRec     -- candidate records of the open step
  recEntries : Nat
  recBytes : Nat
  record : Option JRecord -- written by SAMPLER_CHOOSE, both copies not yet complete
  jrnlA : Option JCopy    -- the journal's two copies of the last record
  jrnlB : Option JCopy
  tries : Nat             -- replays attempted of the open step
  faultResp : Nat         -- response behind the fault that holds the partition
  faultCause : Nat        -- Table 4.8 code behind the hold, 0 for none
  faultAt : Option W64    -- board time at which the holding fault was detected (R391)
  wdog : W64              -- board time at which the open step began, less time in halt
  kvFree : List Nat       -- free KV blocks by partition range address
  kvAll : Nat             -- KV blocks given to the free list
  kvLater : List Nat      -- released blocks that a sealed or open step still names (R232)
  t1 : Nat                -- bytes of tier 1 frames its pages hold (R270)
  hand : Nat              -- clock hand over the prefix buckets (R216)
  groups : List Nat       -- frame groups that the stagger of the launch holds from starting (R246)
  starts : List Nat       -- frame groups that a group release holds from starting (19 R425)
  startAt : W64           -- board time at which that release let the last group start
  load : Load
  streams : List Stream
  nextStream : Nat
  peerWait : Option (Nat × W64)   -- peer awaited before a replay, since when (R381)
  refetch : Option (Nat × W64)    -- shard under re-fetch after a mismatch, since when (13 R299)
  refetchTries : Nat
  refetchNext : List Nat  -- shards with a mismatch that wait for the re-fetch in progress
  plistMapped : List Nat  -- Slate entries whose page list page is mapped (R213)
  owned : Bool            -- the partition was reset because of a tenant's DETACH
  atBarrier : List Nat    -- rods that have arrived at the phase barrier, and at the step end (R65)
  atEnd : List Nat
  cycle0 : Nat            -- rod cycles run when the partition was created or last reset (Table 4.3)
  dirLost : List Nat      -- adapter ids whose loss Penub has still to stage as ABSENT (17 Table 17.4)
  measured : List Byte    -- what its measurement covers, as of its last completed create, load, deletion or reset (16 R356)
  images : List (Nat × Nat × Nat) -- superseded and removed images: address, bytes, first step built without them (07 R168)
deriving DecidableEq, Repr

def Load.init : Load := ⟨.idle, 0, 0, 0, none, 0, 0, [], [], [], 0, none⟩

/-- A partition at reset: OFF, with nothing. -/
def Part.init : Part :=
  ⟨.off, 0, 0, false, 0, 0, 0, 0, none, .idle, 0, false, [], 0, 0, none, none, none, 0, 0, 0, none, 0, [], 0, [], 0, 0, [], [], 0,
   Load.init, [], 0, none, none, 0, [], [], false, [], [], 0, [], [], []⟩

/-! ### The Slate (spec 09) -/

/-- A pause, park, resume or cancel that waits for the boundary, with the command that asked for it. -/
structure CtlCmd where
  op : Nat                -- 2 pause, 3 park, 4 resume, 5 cancel (Table 15.6)
  ttl : Nat
  tenant : Nat
  queue : Nat
  cmd : Nat
deriving DecidableEq, Repr

/-- A Slate entry: its eight words (Table 9.1), its side bits (Table 9.2), the queue and command of its submission, and the marks
that the Sequencer and the Sampler keep of it. -/
structure Slot where
  w0 : W64
  w1 : W64
  w2 : W64
  w3 : W64
  w4 : W64
  w5 : W64
  w6 : W64
  w7 : W64
  waitPred : Bool
  inputOpen : Bool
  packing : Bool
  resuming : Bool
  queue : Nat
  cmd : Nat
  ctl : List CtlCmd       -- commands waiting for the boundary, oldest first
  late : Bool             -- R244
  deferred : Bool         -- deferred at the previous build (R240)
  ttftMiss : Bool         -- first-token miss counted (R241)
  fresh : Bool            -- the next commit is not compared (R242)
  read : Bool             -- its segments have been read in (R208)
  next : Nat              -- first prompt position not yet in a sealed or built step
  reserved : Nat          -- ring entries reserved (R345)
  chainKeys : List W64    -- prefix keys of the blocks its chain covers, block 0 first (R214)
  chainOn : Bool          -- the chain still extends (R214)
  chainAdp : Nat          -- adapter and generation of the chain's seed
  chainGen : Nat
  lost : Bool             -- KV blocks lost: re-prefill at the boundary
  status : Nat            -- status its FINAL completion carries (RETIRED)
  resp : Nat
  posted : Bool           -- its FINAL completion is posted or discarded
  ended : Nat             -- ending by rule that waits for the boundary: status + 1, 0 for none
  packed : Option (List Nat)   -- the tokens of its passage segment, once the packer has written it (R201)
  predOk : Bool           -- the predecessor has retired with OK: WAIT_PRED clears at the next boundary
deriving DecidableEq, Repr

/-- A FREE entry: all eight words zero. -/
def Slot.init : Slot :=
  ⟨0, 0, 0, 0, 0, 0, 0, 0, false, false, false, false, 0, 0, [], false, false, false, false, false, 0, 0, [], false, 0, 0,
   false, 0, 0, false, 0, none, false⟩

/-! ### Memory tiers (spec 12) -/

/-- A Tier mover command (Table 12.4): its four words; for one that the Sequencer issued for a request's blocks, the Slate index and the
identity of the request (R270). -/
structure TierCmd where
  w0 : W64
  w1 : W64
  w2 : W64
  w3 : W64
  slate : Option (Nat × W64)
deriving DecidableEq, Repr

/-- A promotion or demotion in progress (R272, R275). -/
structure Move where
  cmd : TierCmd
  demote : Bool
  part : Nat
  page : Nat
  large : Bool
  pool : Nat
  frame : Nat
  copied : Option W64     -- board time at which the copy ended
  hit : Bool              -- a write has reached the page (Table 12.7)
deriving DecidableEq, Repr

/-- A frame on its way back to its pool (R276): not before the given board time. -/
structure Releasing where
  pool : Nat
  frame : Nat
  since : W64
deriving DecidableEq, Repr

/-- The Tier mover, and the interleave in force. -/
structure Tier where
  queue : List TierCmd
  moves : List Move
  refs : Sparse Nat       -- reference counts, key 2^52 × partition + page
  pools : Sparse (List Nat)   -- free frames by pool
  releasing : List Releasing
  origin : Sparse Nat     -- 1 + the pool of a frame in use, by HBM offset or block physical address
  runs : Sparse Nat       -- consecutive windows in which a stack was over (R286)
  carve : Nat × Nat       -- what is left of the pool 0 frame that tables are cut from: next byte, end
  directGib : Nat         -- TIER_DIRECT_SIZE in force (R284)
  ilKey : Nat             -- which free words are a_k and b_k (R283)
  window : W64            -- board time at which the last window of the imbalance monitor ended (R286)
deriving DecidableEq, Repr

/-! ### Host attach and tenants (spec 15) -/

/-- A completion entry waiting to be posted (Table 15.8), without Phase and Post time. -/
structure Completion where
  status : Nat
  cmd : Nat
  kind : Nat              -- 0 FINAL, 1 ADMITTED, 2 INFORMATIONAL, 3 COMMAND
  queue : Nat
  idx : Nat
  time : W64
  gen : Nat
  prompt : Nat
  resp : Nat
  misses : Nat
  resv : Bool             -- a place of the queue is reserved for it (R343)
deriving DecidableEq, Repr

/-- A submission entry that the block has fetched: its index in the queue, its eight words, what became of it (nothing yet; done or
refused; admitted at a Slate index), the board time at which that was, and whether it has been counted as held back (R220). -/
structure SubEntry where
  index : Nat
  words : List W64
  res : Option (Option Nat)
  time : W64
  full : Bool
deriving DecidableEq, Repr

/-- A submission queue, in running counts since it was enabled (R337, R338, R341). -/
structure SubQueue where
  tail : Nat              -- entries made visible
  rd : Nat                -- entries a READ has been issued for
  base : Nat              -- entries of the batches that are done
  ends : List Nat         -- where the batches not yet fetched end: one for each doorbell
  cur : List SubEntry     -- entries fetched of the batch under fetch
  batches : List (List SubEntry)   -- batches fetched and not done, oldest first
  reading : Bool          -- a READ is outstanding or waits
  epoch : Nat             -- times the queue was enabled or abandoned
deriving DecidableEq, Repr

/-- A completion queue: running counts written and returned, places reserved, completions waiting in order. -/
structure CplQueue where
  wr : Nat
  head : Nat
  reserved : Nat
  waiting : List Completion
deriving DecidableEq, Repr

/-- An output ring: running tail count and entries reserved (R344, R345). -/
structure OutRing where
  tail : W64
  reserved : Nat
deriving DecidableEq, Repr

/-- An interrupt vector: pending events and the board time of the oldest (R346). -/
structure Vec where
  pending : Nat
  oldest : W64
deriving DecidableEq, Repr

/-- An SPDM mailbox (16 R354): whether a request is unanswered, and the requests it has taken since reset, oldest first. -/
structure Mailbox where
  busy : Bool
  taken : List (List Byte)
deriving DecidableEq, Repr

inductive TState where
  | detached | attached | resetting
deriving DecidableEq, Repr

/-- One tenant context. -/
structure Tenant where
  st : TState
  endDetached : Bool      -- the reset in progress ends DETACHED
  attachAfter : Bool      -- an ATTACH waits for the reset's end (R348)
  byDetach : Bool         -- the reset came from DETACH
  buffers : Sparse Nat    -- 0 FREE, 1 OPEN, 2 READY, 3 BOUND
  sq : Sparse SubQueue
  cq : Sparse CplQueue
  rings : Sparse OutRing
  vecs : Sparse Vec
  spdm : Mailbox
  adapters : List AdapterCmd
deriving DecidableEq, Repr

def SubQueue.init : SubQueue := ⟨0, 0, 0, [], [], [], false, 0⟩
def CplQueue.init : CplQueue := ⟨0, 0, 0, []⟩
def OutRing.init : OutRing := ⟨0, 0⟩
def Vec.init : Vec := ⟨0, 0⟩
def Mailbox.init : Mailbox := ⟨false, []⟩
def Tenant.init : Tenant := ⟨.detached, false, false, false, [], [], [], [], [], Mailbox.init, []⟩

/-- An outbound READ without its answer yet (R327, R328, R338): its tag, channel, tenant and range, the data so far; the queue, count of
entries and epoch it fetches submission entries for, or the operation of a unit it serves (12 R262). -/
structure OutRead where
  tag : Nat
  ch : Nat
  tenant : Nat
  off : Nat
  len : Nat
  got : List Byte
  q : Nat
  first : Nat
  count : Nat
  epoch : Nat
  unit : Option Nat
deriving DecidableEq, Repr

/-- A message that waits to leave on a channel. -/
structure OutMsg where
  hdr : List W64
  data : List Byte
deriving DecidableEq, Repr

/-- One host attach channel: credits the block has granted inbound, credits it holds outbound, and what waits. -/
structure Chan where
  inPosted : Nat
  inNon : Nat
  outPosted : Nat
  outNon : Nat
  posted : List OutMsg
  reads : List OutRead      -- READs waiting to be sent
  nextTag : Nat
  answers : List OutMsg     -- answers to inbound READs that a halt holds back (R390)
deriving DecidableEq, Repr

/-- A channel before cx_present rises: no credits on either side (R417). -/
def Chan.init : Chan := ⟨0, 0, 0, 0, [], [], 0, []⟩

/-! ### The fabric (spec 14) -/

/-- How far a port's bring-up has come (R304, R315). -/
inductive Train where
  | dark          -- lasers off
  | probing       -- lanes 0 and 1 at probe power
  | full          -- every lane lit; lane lock under way
  | locked        -- frame lock; CTRL exchange under way
  | identified    -- identity received; SPDM session under way
  | authed        -- session complete, keys switched; PRESENT awaited
  | up            -- the entry is PRESENT
  | held          -- the partner's position is PRESENT on another port (R316)
deriving DecidableEq, Repr

/-- A group the port has sent and keeps for replay (R310): sequence, the transmit count and key session it went out under, the traffic
slots that hold flits, and the Ack and the credits of its link flit. -/
structure SentGroup where
  seq : Nat
  count : Nat
  session : Nat
  slots : List LSlot
  ack : Nat
  creds : Nat × Nat × Nat
deriving DecidableEq, Repr

/-- A request of a peer, accepted and waiting to be performed, with the board time at which it arrived and its slot in the group. -/
structure PeerReq where
  flit : Flit
  src : Nat
  time : W64
  slot : Nat
deriving DecidableEq, Repr

/-- One optical port. Lane maps are by logical lane: the physical lane that carries it (FAB_LANE_MAP). -/
structure Port where
  train : Train
  lasEn : Bool
  rxMap : List Nat
  txMap : List Nat
  rxBad : List Nat          -- failed or unusable physical receive lanes
  txBad : List Nat
  swaps : List (Nat × Nat)  -- lane swaps asked of the partner and not yet confirmed: lane, spare
  partner : Option PartnerId
  session : Nat             -- SPDM session and key update in force, sending; 0 before authentication
  rxSession : Nat
  rxSwitch : Option Nat     -- group boundary at which the receiver's new key applies; it holds both keys meanwhile (R361)
  switchAt : Option Nat     -- group boundary a CTRL key-switch message named
  txSeq : Nat               -- next sequence to send
  txCount : Nat             -- transmit count under the key in force
  rxExpect : Nat            -- next sequence expected
  rxCount : Nat
  gap : Bool                -- a NAK has been sent for the present gap
  failSeq : Nat             -- the group last discarded, and how often in a row
  failRun : Nat
  tagFail : Option Nat      -- the group whose tag failed once
  credReq : Nat             -- flits the port may send on each channel
  credRsp : Nat
  credCtrl : Nat
  sent : List SentGroup     -- last 1,024 groups
  waiting : List Flit       -- flits without a credit yet
  inbox : List PeerReq      -- requests accepted
  upFails : List W64        -- board times at which the link failed to come up
  darkUntil : Option W64
  sources : Sparse Nat      -- laser sources: 1 lit, +2 fault
  lastTreq : Option W64     -- t1 of a SYNC_REQ without its response
  spoiled : Bool            -- a replay met the exchange (R322)
  mirror : Option (Nat × Nat) -- transmit lane mirrored onto a spare, the receiver's confirm awaited (R312)
  rx : Option (Flit × Nat × Nat) -- header whose data flits are still to come, with how many and its slot (R308)
  owed : Nat × Nat × Nat    -- credits to be returned to the partner, REQ, RSP and CTRL (R307)
  asked : List (Nat × Nat)  -- side-band commands without a reply yet: operation, source (R303)
  spdm : List (List Byte)   -- SPDM messages received since the identity exchange, oldest first (R315)
deriving DecidableEq, Repr

def Port.init : Port :=
  ⟨.dark, false, List.range 32, List.range 32, [], [], [], none, 0, 0, none, none, 0, 0, 0, 0, false, 0, 0, none,
   4096, 4096, 256, [], [], [], [], none, [], none, false, none, none, (0, 0, 0), [], []⟩

/-- A peer table entry (Table 14.7). State: 0 ABSENT, 1 TRAINING, 2 AUTHENTICATING, 3 PRESENT, 4 HELD_DOWN, 5 REFUSED. -/
structure Peer where
  st : Nat
  port : Nat
  shelf : Bool
  incarnation : Nat
  identity : List Byte
  epoch : Nat
deriving DecidableEq, Repr

def Peer.init : Peer := ⟨0, 0, false, 0, [], 0⟩

/-- A replica directory entry at the home of a row (R319): the epoch of each sharer's grant and of the last invalidate, the
sharers whose reply is awaited with how often INVAL was sent, and whether a release waits for it. -/
structure ReplicaDir where
  table : Nat
  row : Nat
  ver : Nat                 -- version of the table it serves
  epoch : Nat
  mask : List Nat
  grants : Sparse Nat
  invals : Sparse Nat
  await : List (Nat × Nat)
  puts : List Nat           -- sharers whose row PUT has completed and whose GRANT is still to be sent
deriving DecidableEq, Repr

/-- A replica this block holds as a sharer. -/
structure Replica where
  home : Nat
  table : Nat
  row : Nat
  ver : Nat
  epoch : Nat
deriving DecidableEq, Repr

/-- What an operation of a unit of the block beyond the block is for. -/
inductive UnitUse where
  | move (p page : Nat)                 -- the copy of a promotion or demotion (12 R272)
  | fill (cmd : TierCmd) (frame : Nat)  -- MAP's zeros in a lower frame (12 R272)
  | rod (ph ord off : Nat)              -- a part of a rod's GET that lies in a lower page (12 R267)
  | gather (ph ord : Nat)               -- rows of a GATHER (08 R184)
  | pack (i : Nat)                      -- passage rows and token arrays of a request's pack (08 R201)
  | extent (p id e : Nat)               -- the source of a stream extent (12 R281)
  | reply (engine pos counter : Nat)    -- the rows of a lookup reply (08 R187)
  | copy (table row ver sharer : Nat)   -- a row's PUT into a sharer's replica area (R319)
  | bucket (table bucket : Nat)         -- a migrating bucket (08 R192)
  | note                                -- its answer changes nothing in the block
deriving DecidableEq, Repr

/-- An operation that a unit of the block performs beyond the block (12 R262, R269; R309): its flit tag, flit operation (1 GET, 2 PUT,
3 to 6 atomics, 7 tally add), address and length, what actually travels (whole 4,096-byte sectors where they are sealed), bytes or pieces
not yet answered, the bytes read, the first status that was not OK, its answer, and when it was sent. -/
structure UnitOp where
  tag : Nat
  use : UnitUse
  op : Nat
  addr : Nat
  len : Nat
  at_ : Nat
  span : Nat
  sealed : Bool
  left : Nat
  data : List Byte
  status : Nat
  resp : Option Nat
  since : W64
deriving DecidableEq, Repr

/-- The fabric unit. -/
structure Fabric where
  pos : Nat
  ports : Sparse Port
  peers : Sparse Peer
  dir : List ReplicaDir
  replicas : List Replica
  lastEpochs : Sparse Nat    -- Memory epoch last recorded of each position (R317)
  seen : List Nat            -- positions whose epoch was ever recorded
  synced : Bool
  created : Bool             -- a partition has been created since cold reset (R323)
  slewing : Int              -- offset still to be slewed, in 10^-5 ns
  rate : Int                 -- how far board time is steered off time_clk, in parts per million, within ±500 (R323)
  frac : Int                 -- what steering has gained and board time has not shown yet, in 10^-5 ns
  ops : List UnitOp          -- operations of the block's units beyond the block without a settled answer
  nextOp : Nat
  refused : Sparse Nat       -- cause of the last FAB_REFUSED event by port: 1 to 4, the cases of R316 in order
deriving DecidableEq, Repr

def Fabric.init : Fabric := ⟨0, [], [], [], [], [], [], false, false, 0, 0, 0, [], 0, []⟩

/-! ### Tables and gather engines (spec 08) -/

/-- A queued row write (08 R194). -/
structure RowWrite where
  table : Nat
  row : Nat
  src : Nat
deriving DecidableEq, Repr

/-- A lookup reply whose PUT has completed and whose tally add is still to be sent (R187): engine, requester's position and counter. -/
structure LookupReply where
  engine : Nat
  pos : Nat
  counter : Nat
deriving DecidableEq, Repr

/-- The gather engines and the block's tables. -/
structure Gather where
  tables : Sparse (List W64)      -- descriptors in force, 16 words
  prev : Sparse (List W64)        -- previous versions kept until their release (R188, R195)
  rowq : List RowWrite
  holds : Sparse W64              -- key 2^40 × table + row: board time of the last flip (R194)
  lookups : Sparse Nat            -- lookups of each engine, for the sample (R189)
  packing : List Nat              -- Slate entries the packer has
  replies : List LookupReply      -- lookup replies whose tally add is still to be sent
  stale : Sparse Nat              -- inbox slots of another round that each engine has met (06 R146)
  freed : Sparse W64              -- key 2^24 × table + hot slot: 1 + board time of its eviction (R191)
  moved : List (Nat × Nat × Nat)  -- buckets migrated away: table, bucket, old HBM offset (14 R320)
deriving DecidableEq, Repr

/-! ### Security, faults, debug, power, test (spec 16 to 20) -/

/-- The Security engine. -/
structure Security where
  lifecycle : Nat                 -- 0x00 test part, 0x01 PRODUCTION, 0x02 DEBUG
  tstDone : Bool                  -- the TST_DONE fuse is blown
  nonce : Option Nat              -- which free words are the debug nonce last drawn
  token : List W64                -- SEC_DBG_TOKEN words written so far, word 0 first
  verifying : Bool
  bad : Nat                       -- invalid tokens since cold reset
  sealKey : Nat                   -- which free words are the seal key
  sealCount : Nat                 -- the 96-bit seal counter
  seals : Sparse Nat              -- the record of each sealed sector (R362), by block physical address / 4096: its seal counter value
  sealTags : Sparse (List Byte)   -- and its tag
  jrnlKey : Nat                   -- which free words are FLT_JRNL_KEY
  spdm : Mailbox                  -- the management port's mailbox
  image : List Byte               -- SHA-384 of the Penub image authenticated (measurement 2)
deriving DecidableEq, Repr

/-- Faults, spares and recovery. -/
structure Faults where
  spareMap : Sparse Nat           -- 1 + physical rod of a logical rod that the map moved; unlisted: the rod's place at delivery
  retired : List Nat              -- physical rods retired or failing their self-test
  untested : List Nat             -- spares in self-test, or used since their last complete test (R382)
  noFrames : List Nat             -- unavailable logical frames (R383)
  noCreate : Bool                 -- every create command refused (R386)
  fuseRecs : List (Nat × Nat × Nat) -- the field fuse bank (20 R441): kind 1 rod retired (physical rod, 0), 2 channel remapped
                                  -- (stack, channel), 3 SRAM repair (physical rod, element)
  kept : List (Nat × Nat × Nat)   -- records kept only until the next reset, the bank being full (R441)
  pendingRods : List Nat          -- physical rods to retire at their partition's next boundary
  haltSince : W64                 -- board time at which halt took effect
  repairs : List (Nat × Nat)      -- SRAM repairs scheduled since the last reset: physical rod, element (R394)
  chMap : List (Nat × Nat)        -- logical channels moved to the spare: 32 × stack + channel, physical channel
  spareUsed : List Nat            -- stacks whose spare channel is used
  copying : List (Nat × Nat)      -- stacks copying a failing channel into the spare: stack, logical channel
  lostCh : List (Nat × Nat)       -- lost channels: stack, logical channel
  hbmClean : Sparse Bool          -- granules of a lost channel rewritten since
  masterB : Bool                  -- pair B is master
  failedOver : Bool
  standby : Bool                  -- a standby pair follows the journal
  stopped : List Bool             -- stopped pairs (false A, true B)
  frozen : Bool                   -- the Fallback sequencer has frozen the block
  beam : Option (List (Nat × List W64)) -- the beam journal since phase BEAM initialised it, oldest first: what an entry is (0 admission,
                                  -- 1 command, 2 policy change) and its words (R387)
  poisonWr : Sparse Nat           -- writes that met poison, by 1024 × partition (16: none) + target (06 R142)
deriving DecidableEq, Repr

/-- The latched debug state of a rod (R410): logical rod; issue state: 0 running, 1 WAIT, 2 queue-full stall, 3 steal walk, 4 exception,
5 idle (the codes are the model's); of a WAIT its condition, counter, target and the counter's value; the address of the instruction that
holds issue; queue depths of the matrix, vector and carry units; remote operations outstanding, and class and address of the oldest. -/
structure RodDebug where
  rod : Nat
  issue : Nat
  wait : Option (Nat × Nat × Int × W32)
  pc : W64
  depths : List Nat
  remote : Nat
  oldest : Option (Nat × Nat)
deriving DecidableEq, Repr

/-- One latched wait-for graph (R410): partition, step, time, and edges of six numbers each (Table 18.3): waiter, waited, reason,
detail, needed, current. -/
structure WfgCapture where
  part : Nat
  step : Nat
  time : W64
  edges : List (List Nat)
  rods : List RodDebug
  barrier : List Nat              -- rods that have arrived at the phase barrier, and at the step end
  stepEnd : List Nat
  extents : List (Nat × Nat × Nat) -- uncompleted extents: descriptor slot, rod, counter
  gathers : List (Nat × Nat)      -- outstanding gathers: rod, place in issue order
deriving DecidableEq, Repr

/-- Debug and trace. -/
structure Debug where
  frozen : Bool                   -- debug freeze in force (R407)
  snap : Sparse W64               -- the shadow view, by offset from 0x0007_0000
  lostRing : Nat                  -- packets lost at the HBM ring's FIFO, not yet told in a LOSS packet
  lostPort : Nat
  stopped : Bool                  -- a trigger has stopped the trace (R405)
  post : Option Nat               -- packets left until a trigger stops the trace
  freezing : List (Nat × W64 × Nat) -- triggers whose freeze waits: trigger, since when, packets left
  due : List Nat                  -- triggers whose condition has held and that have not fired since
  capture : Option WfgCapture
deriving DecidableEq, Repr

/-- Power, clocks, resets, thermal. -/
structure Power where
  freq : Nat                      -- rod clock in 100 MHz
  vid : Nat                       -- cx_vid
  vidGoal : Nat                   -- the code that cx_vid moves towards, by at most 4 in 1 µs (R424)
  vidAt : W64                     -- board time of its last change
  raising : Option (Nat × W64)    -- the frequency a step up goes to, and when cx_vid was raised for it (R424)
  pg : BitVec 4                   -- synchronised power-good levels
  rstN : Bool                     -- cx_rst_n recognised as asserted
  heldSince : W64
  present : Bool                  -- cx_present
  thermAlert : Bool               -- cx_therm_alert_n low
  vrhot : Bool                    -- cx_vrhot_n low
  coolSince : Option W64          -- since when every sensor is 3 °C or more below the warning (R426)
  warned : Bool                   -- the throttle in progress has raised THERMAL
  thermtrip : Bool                -- cx_thermtrip
  lastStep : Option W64           -- board time of the last clock step
  filler : Bool                   -- filler runs (R425)
  warm : Bool                     -- the last block-wide reset was a warm reset
  unlock : Bool                   -- it came from a debug token
  authRetried : Bool              -- AUTH has failed once (R440)
  syncs : Nat                     -- exchanges completed since cold reset (R439)
  phaseAt : W64                   -- board time at which the start-up phase in progress began
  cycles : Nat                    -- rod clock cycles run
deriving DecidableEq, Repr

/-- Test access (20 R443). -/
structure Test where
  ir : Nat                        -- TAP instruction register
  wir : Nat                       -- wrapper instruction register
  cells : List Bool               -- boundary cells
  scan : List Bool                -- what the last scan moved in
  fuses : Sparse W32              -- fuse rows programmed through WS_FUSE, by row
  nextTally : Bool                -- class next in turn
deriving DecidableEq, Repr

/-- A frame as it leaves (14 R305): marker, index, and the bytes of its 20 slots. -/
structure LFrame where
  marker : BitVec 18
  index : BitVec 2
  slots : List Byte
deriving DecidableEq, Repr

/-- What leaves the block at its ports, newest last. -/
inductive Output where
  | host (ch : Nat) (hdr : List W64) (data : List Byte)     -- an outbound host attach message
  | group (port : Nat) (frames : List LFrame)                -- a group on an optical port (new or replayed)
  | nak (port ack : Nat)
  | ctrl (port : Nat) (what arg : Nat)                       -- a CTRL message: 1 lane swap, 2 swap confirm, 3 key switch, 4 leave
  | laser (port : Nat) (cmd : BitVec 32)                     -- a side-band command
  | trace (w0 w1 : W64)                                      -- a packet on the trace port
  | mgmt (data : W64) (err : Bool)                           -- a management port response
  | tdo (jtag : Bool) (data : List Bool)
deriving DecidableEq, Repr

/-- Reasons a step could stop with a fault. The block itself never stops: a fault of the spec is a status, a held partition or an
event in State. No meaning raises one; a step that stops here would be safe. -/
inductive Fault where
  /-- Raised by no meaning; a step that stopped here would be safe. -/
  | none
deriving DecidableEq, Repr

/-- Reasons a step refuses its command. -/
inductive Refusal where
  /-- Raised by an arm of exec whose command has no meaning yet; safe. -/
  | notModelled (mnemonic : String)
deriving DecidableEq, Repr

/-- The whole block. `free` counts the free values taken so far (log entry 5): it is the model's own field. -/
structure State where
  pending : List Instr
  free : Nat
  design : Design
  time : W64                      -- board time in ns
  regs : Sparse W64               -- the register window, by offset; unlisted: the reset value
  hbm : Memory                    -- physical HBM
  bead : Memory                   -- 2^22 × physical rod + offset
  imem : Memory                   -- 2^17 × physical rod + program address
  ext : Memory                    -- tier 2 and 3 frames, by block physical address of classes 011, 100, 101
  boot : Memory                   -- the boot area (20 R436)
  hbmPoison : Sparse Bool         -- poisoned 32-byte granules, by offset / 32
  beadPoison : Sparse Bool        -- poisoned 8-byte granules, by (2^22 × physical rod + offset) / 8
  rods : Sparse Rod               -- by physical rod
  parts : Sparse Part
  slate : Sparse Slot
  tenants : Sparse Tenant
  chans : Sparse Chan
  reads : List OutRead
  tier : Tier
  gth : Gather
  fab : Fabric
  sec : Security
  flt : Faults
  dbg : Debug
  pwr : Power
  tst : Test
  out : List Output
deriving DecidableEq, Repr

def Tier.init : Tier := ⟨[], [], [], [], [], [], [], (0, 0), 1, 0, 0⟩
def Gather.init : Gather := ⟨[], [], [], [], [], [], [], [], [], []⟩
/-- A part whose TST_DONE fuse is blown, in PRODUCTION. -/
def Security.init : Security := ⟨1, true, none, [], false, 0, 0, 0, [], [], 0, Mailbox.init, []⟩
/-- No spare used, no rod retired, no record in the fuse bank: the block as delivered (log entry 1). -/
def Faults.init : Faults := ⟨[], [], [], [], false, [], [], [], 0, [], [], [], [], [], [], false, false, false, [], false, none, []⟩
def Debug.init : Debug := ⟨false, [], 0, 0, false, none, [], [], none⟩
/-- Held at 2.0 GHz with cx_rst_n asserted and no power-good input seen. -/
def Power.init : Power :=
  ⟨20, 0, 0, 0, none, 0, true, 0, false, false, false, none, false, false, none, false, false, false, false, 0, 0, 0⟩
def Test.init : Test := ⟨0x0C, 0, [], [], [], true⟩

/-- The machine right after power-on detection: a cold reset, held until cx_rst_n is released (Table 19.4; RST_STATUS reads HELD with
cause power-on, Table 21.3). Registers are at their reset values; what the spec gives no reset value is as log entry 1 says. -/
def State.reset : State where
  pending := []
  free := 0
  design := .cx512
  time := 0
  regs := []
  hbm := []
  bead := []
  imem := []
  ext := []
  boot := []
  hbmPoison := []
  beadPoison := []
  rods := []
  parts := []
  slate := []
  tenants := []
  chans := []
  reads := []
  tier := Tier.init
  gth := Gather.init
  fab := Fabric.init
  sec := Security.init
  flt := Faults.init
  dbg := Debug.init
  pwr := Power.init
  tst := Test.init
  out := []

end Sys2Proof.Machine
end

