-- ==== Sys2Proof/Machine/Ops.lean ====
section
/-! DEFINITION. Named operations over the state that every family shares: registers, counters, events, fault records, free values,
memories with poison, rods and partitions, translation of the partition range. -/

namespace Sys2Proof.Machine

/-! ### Accessors -/

def State.rod (s : State) (ph : Nat) : Rod := Sparse.get Rod.init s.rods ph
def State.setRod (s : State) (ph : Nat) (r : Rod) : State := { s with rods := Sparse.put Rod.init s.rods ph r }
def State.part (s : State) (p : Nat) : Part := Sparse.get Part.init s.parts p
def State.setPart (s : State) (p : Nat) (x : Part) : State := { s with parts := Sparse.put Part.init s.parts p x }
def State.slot (s : State) (i : Nat) : Slot := Sparse.get Slot.init s.slate i
def State.setSlot (s : State) (i : Nat) (x : Slot) : State := { s with slate := Sparse.put Slot.init s.slate i x }
def State.ten (s : State) (t : Nat) : Tenant := Sparse.get Tenant.init s.tenants t
def State.setTen (s : State) (t : Nat) (x : Tenant) : State := { s with tenants := Sparse.put Tenant.init s.tenants t x }
def State.chan (s : State) (c : Nat) : Chan := Sparse.get Chan.init s.chans c
def State.setChan (s : State) (c : Nat) (x : Chan) : State := { s with chans := Sparse.put Chan.init s.chans c x }
def State.port (s : State) (p : Nat) : Port := Sparse.get Port.init s.fab.ports p
def State.setPort (s : State) (p : Nat) (x : Port) : State :=
  { s with fab := { s.fab with ports := Sparse.put Port.init s.fab.ports p x } }
def State.peer (s : State) (k : Nat) : Peer := Sparse.get Peer.init s.fab.peers k
def State.setPeer (s : State) (k : Nat) (x : Peer) : State :=
  { s with fab := { s.fab with peers := Sparse.put Peer.init s.fab.peers k x } }
def State.send (s : State) (o : Output) : State := { s with out := s.out ++ [o] }

/-- Change one field of a partition, rod, slot or tenant through a function. -/
def State.onPart (s : State) (p : Nat) (f : Part → Part) : State := s.setPart p (f (s.part p))
def State.onRod (s : State) (ph : Nat) (f : Rod → Rod) : State := s.setRod ph (f (s.rod ph))
def State.onSlot (s : State) (i : Nat) (f : Slot → Slot) : State := s.setSlot i (f (s.slot i))
def State.onTen (s : State) (t : Nat) (f : Tenant → Tenant) : State := s.setTen t (f (s.ten t))
def State.onPort (s : State) (p : Nat) (f : Port → Port) : State := s.setPort p (f (s.port p))

/-- Do something for each element of a list. -/
def State.forEach {α : Type} (l : List α) (f : α → State → State) (s : State) : State := l.foldl (fun s a => f a s) s

/-! ### Registers -/

/-- The stored value of a register (its reset value where nothing has changed it). -/
def State.rd (s : State) (off : Nat) : W64 := Sparse.get (regReset s.design off) s.regs off
/-- Store a register's value. -/
def State.setReg (s : State) (off : Nat) (v : W64) : State := { s with regs := Sparse.put (regReset s.design off) s.regs off v }
/-- A field of a register as a number. -/
def State.rf (s : State) (off hi lo : Nat) : Nat := bits (s.rd off) hi lo
/-- Store one field of a register. -/
def State.setRf (s : State) (off hi lo v : Nat) : State := s.setReg off (setBits (s.rd off) hi lo v)

/-- Bases of the partition contexts, tenant pages and privileged tenant settings (R459, R460, Table 21.17). -/
def pReg (p off : Nat) : Nat := 0x80000 + 0x1000 * p + off
def tReg (t off : Nat) : Nat := 0x800000 + 0x10000 * t + off
def hReg (t off : Nat) : Nat := 0x701000 + 0x80 * t + off

/-! ### Counters (18 R395, Tables 21.10 and 21.11) -/

def cntBlk (k : Nat) : Nat := 0x48000 + 8 * k
def cntStack (st k : Nat) : Nat := 0x48800 + 0x80 * st + 8 * k
def cntPort (p k : Nat) : Nat := 0x49000 + 0x200 * p + 8 * k
def cntPart (p k : Nat) : Nat := 0x50000 + 0x1000 * p + 8 * k
def cntTen (t k : Nat) : Nat := 0x802000 + 0x10000 * t + 8 * k
def cntTbl (t k : Nat) : Nat := 0x60000 + 0x20 * t + 8 * k

/-- An increment of k reaches a counter: (v + k) mod 2^48, and the sticky overflow bit where v + k reaches 2^48 (R395). -/
def counterAdd (c : W64) (k : Nat) : W64 :=
  let v := c.toNat % 2 ^ 48 + k
  let o := bit c 63 || decide (v ≥ 2 ^ 48)
  w64 (v % 2 ^ 48 + b2n o * 2 ^ 63)

def State.bump (s : State) (off k : Nat) : State := if k = 0 then s else s.setReg off (counterAdd (s.rd off) k)

/-- A write met a poisoned granule and covered only a part of it: CNT_FLT_POISONWR, and the event at its target (0 HBM, 1 + a physical
rod) and for its requester's partition (16 where it has none) (06 R142). -/
def State.countPoison (s : State) (part target : Nat) : State :=
  let s1 := s.bump (cntBlk 8) 1
  let k := 1024 * part + target
  { s1 with flt := { s1.flt with poisonWr := Sparse.put 0 s1.flt.poisonWr k (Sparse.get 0 s1.flt.poisonWr k + 1) } }

/-! ### Free values (log entry 5) -/

/-- The next free value; the counter of free values advances. -/
def State.draw (s : State) : W64 × State := (Config.freeWord s.free, { s with free := s.free + 1 })

/-- `n` free values at once: the index of the first. -/
def State.drawMany (s : State) (n : Nat) : Nat × State := (s.free, { s with free := s.free + n })

/-- The bytes of `n` free words from index `i`. -/
def freeBytes (i : Nat) : Nat → List Byte
  | 0 => []
  | n + 1 => leBytes 8 (Config.freeWord i).toNat ++ freeBytes (i + 1) n

/-! ### Events (19 R433, Table 21.6) -/

/-- An event is raised: its bit of FLT_EVT_PEND sets. -/
def State.event (s : State) (n : Nat) : State := s.setReg 0x30118 (s.rd 0x30118 ||| w64 (2 ^ n))

/-! ### Triggers and histogram engines (18 R400, R405) -/

def trigReg (n off : Nat) : Nat := 0x40100 + 0x20 * n + off

/-- The condition of the given kind holds for every enabled trigger that `sel` picks: it is due to fire. -/
def State.trigger (s : State) (kind : Nat) (sel : Nat → Bool) : State :=
  let l := (List.range 4).filter (fun n => bit (s.rd (trigReg n 0)) 63 && s.rf (trigReg n 0) 62 60 == kind && sel n)
  { s with dbg := { s.dbg with due := s.dbg.due ++ l } }

/-- The bucket of a sample: log mode, or linear mode of width w (R400). -/
def histBucket (cfg : W64) (v : Nat) : Nat :=
  if bit cfg 62 then (if v = 0 then 0 else min 15 (v.log2 + 1)) else min 15 (v / max 1 (bits cfg 31 0))

/-- One sample reaches a histogram engine. -/
def State.histAdd (s : State) (n v : Nat) : State :=
  s.bump (0x4B000 + 0x80 * n + 8 * histBucket (s.rd (0x40200 + 8 * n)) v) 1

/-- An event source of Table 18.1 gives a sample to every enabled engine that selects it and its instance. -/
def State.histEvent (s : State) (src inst v : Nat) : State :=
  ((List.range 8).filter (fun n =>
    bit (s.rd (0x40200 + 8 * n)) 63 && s.rf (0x40200 + 8 * n) 59 56 == src && s.rf (0x40200 + 8 * n) 51 40 == inst)).foldl
    (fun s n => s.histAdd n v) s

/-! ### The running block -/

/-- The block serves: no block-wide reset, no debug freeze, no Fallback freeze. -/
def State.live (s : State) : Bool := decide (s.rf 0x10008 3 0 = 0) && !s.dbg.frozen && !s.flt.frozen
/-- Halt is in effect (FLT_HALT_STATUS.HALTED, R389). -/
def State.halted (s : State) : Bool := bit (s.rd 0x30108) 0
/-- Partitions are stopped: by halt, or as a halt stops them by a thermal trip (19 R427). -/
def State.stalled (s : State) : Bool := s.halted || s.pwr.thermtrip

/-- The master pair of the beam runs: otherwise new commands wait in their queues until the standby pair has taken over (R14). -/
def State.masterUp (s : State) : Bool := !s.flt.stopped.contains s.flt.masterB

/-- An action of Penub's is entered in the beam journal before it is acted on (17 R387): 0 an admission, 1 a command, 2 a policy change. An
action and its completion are one step of the model, so that after a failover nothing is left to re-execute (log entry 51). -/
def State.journal (s : State) (kind : Nat) (ws : List W64) : State :=
  { s with flt := { s.flt with beam := s.flt.beam.map (· ++ [(kind, ws)]) } }

/-! ### Configuration quantities (Table 0.1) -/

def Design.tally : Design → Nat | .cx128 => 96 | .cx256 => 192 | .cx512 => 384
def Design.reckon : Design → Nat | .cx128 => 32 | .cx256 => 64 | .cx512 => 128
def Design.spareTally : Design → Nat | .cx128 => 3 | .cx256 => 9 | .cx512 => 24
def Design.spareReckon : Design → Nat | .cx128 => 1 | .cx256 => 3 | .cx512 => 8
def Design.stacks : Design → Nat | .cx128 => 4 | .cx256 => 8 | .cx512 => 16
def Design.spareLanes : Design → Nat | .cx128 => 2 | .cx256 => 3 | .cx512 => 4
def Design.code : Design → Nat | .cx128 => 1 | .cx256 => 2 | .cx512 => 3
def Design.rods (d : Design) : Nat := d.tally + d.reckon
def Design.physTally (d : Design) : Nat := d.tally + d.spareTally
def Design.physRods (d : Design) : Nat := d.physTally + d.reckon + d.spareReckon
/-- Usable HBM in bytes: 48 GB per stack, 31 of 32 channels (Table 0.1, Table 1.5). -/
def Design.hbmCap (d : Design) : Nat := d.stacks * 46500000000

/-- Whether a logical rod is a Reckon rod. -/
def State.isReckon (s : State) (l : Nat) : Bool := decide (s.design.tally ≤ l)

/-- The physical rod of a logical rod: the spare map (R9, R441). -/
def State.phys (s : State) (l : Nat) : Nat :=
  match Sparse.get 0 s.flt.spareMap l with
  | 0 => if l < s.design.tally then l else s.design.physTally + (l - s.design.tally)
  | n + 1 => n

/-- Whether a logical frame is in a mask. -/
def frameIn (mask : W64) (l : Nat) : Bool := bit mask (l / 8)

/-- The logical rods of a frame mask, ascending (R55, R221). -/
def State.rodsOf (s : State) (p : Nat) : List Nat :=
  let m := s.rd (pReg p 8)
  (List.range s.design.rods).filter (frameIn m)

/-- The partition that holds a logical rod: the one not OFF whose frames include it. -/
def State.partOf (s : State) (l : Nat) : Option Nat :=
  (List.range 16).find? (fun p => decide ((s.part p).st ≠ .off) && frameIn (s.rd (pReg p 8)) l)

/-! ### HBM placement (12 R283, R284) and poison (17 R372, R386) -/

/-- The integers of 1..n-1 coprime with n, ascending. -/
def coprimes (n : Nat) : List Nat := (List.range n).filter (fun i => decide (0 < i) && decide (Nat.gcd i n = 1))

/-- Granules of a group: 31 logical channels of every stack, 496 on CX512 (R283). Smaller configurations take their own stack count
in every place where R283 and R284 write that of CX512 (R1; log entry 109). -/
def Design.group (d : Design) : Nat := 31 * d.stacks

/-- TIER_DIRECT_BASE: a group's bytes times the whole groups in the usable capacity less the direct parts (R283). -/
def State.directBase (s : State) : Nat :=
  (s.design.hbmCap - s.design.stacks * s.tier.directGib * 2 ^ 30) / (s.design.group * 1024) * (s.design.group * 1024)

/-- Stack and logical channel of a physical HBM offset (R283, R284). -/
def State.hbmPlace (s : State) (o : Nat) : Nat × Nat :=
  let base := s.directBase
  if o < base then
    let n := s.design.group
    let g := o / 1024
    let grp := g / n
    let l := coprimes n
    let a := nth 1 l ((Config.freeWord s.tier.ilKey).toNat % 2 ^ 32 % l.length)
    let b := (sipHash (Config.freeWord (s.tier.ilKey + 1)) (Config.freeWord (s.tier.ilKey + 2)) (leBytes 8 grp)).toNat % n
    let x := (a * (g % n) + b) % n
    (x % s.design.stacks, x / s.design.stacks)
  else
    let d := s.tier.directGib * 2 ^ 30
    ((o - base) / d % s.design.stacks, (o - base) % d / 1024 % 31)

/-- Whether a 32-byte granule of HBM reads as poisoned: marked, or on a lost channel and not rewritten since (R386). -/
def State.hbmBad (s : State) (g : Nat) : Bool :=
  Sparse.get false s.hbmPoison g ||
    (!s.flt.lostCh.isEmpty && s.flt.lostCh.contains (s.hbmPlace (32 * g)) && !Sparse.get false s.flt.hbmClean g)

/-- The granules of `size` bytes that a byte range touches. -/
def granules (size off len : Nat) : List Nat :=
  if len = 0 then [] else (List.range ((off + len - 1) / size + 1 - off / size)).map (fun k => off / size + k)

/-- Whether a byte range covers a whole granule. -/
def covers (size off len g : Nat) : Bool := decide (off ≤ size * g) && decide (size * (g + 1) ≤ off + len)

def State.hbmRangeBad (s : State) (off len : Nat) : Bool := (granules 32 off len).any s.hbmBad
def State.beadBad (s : State) (g : Nat) : Bool := Sparse.get false s.beadPoison g
def State.beadRangeBad (s : State) (ph off len : Nat) : Bool :=
  (granules 8 (2 ^ 22 * ph + off) len).any s.beadBad

/-- Whether a write of these bytes meets a poisoned granule that it covers only in part (R372). -/
def State.hbmWriteMeets (s : State) (off len : Nat) : Bool :=
  (granules 32 off len).any (fun g => s.hbmBad g && !covers 32 off len g)
def State.beadWriteMeets (s : State) (ph off len : Nat) : Bool :=
  (granules 8 (2 ^ 22 * ph + off) len).any (fun g => s.beadBad g && !covers 8 (2 ^ 22 * ph + off) len g)

/-- Write bytes to physical HBM: a fully covered granule is cleaned, a partly covered poisoned one stays poisoned (R372). -/
def State.hbmWrite (s : State) (off : Nat) (bs : List Byte) : State :=
  let full := (granules 32 off bs.length).filter (covers 32 off bs.length)
  { s with
    hbm := s.hbm.writeN off bs
    hbmPoison := full.foldl (fun m g => Sparse.put false m g false) s.hbmPoison
    flt := if s.flt.lostCh.isEmpty then s.flt else
      { s.flt with hbmClean := full.foldl (fun m g => Sparse.put false m g true) s.flt.hbmClean } }

/-- Write bytes to a physical rod's bead memory (R53, R372). -/
def State.beadWrite (s : State) (ph off : Nat) (bs : List Byte) : State :=
  let a := 2 ^ 22 * ph + off
  let full := (granules 8 a bs.length).filter (covers 8 a bs.length)
  { s with
    bead := s.bead.writeN a bs
    beadPoison := full.foldl (fun m g => Sparse.put false m g false) s.beadPoison }

def State.hbmRead (s : State) (off len : Nat) : List Byte := s.hbm.readN off len
def State.beadRead (s : State) (ph off len : Nat) : List Byte := s.bead.readN (2 ^ 22 * ph + off) len
def State.hbmWord (s : State) (off : Nat) : W64 := s.hbm.read64 off
def State.hbmWrite64 (s : State) (off : Nat) (v : W64) : State := s.hbmWrite off (leBytes 8 v.toNat)

/-- Mark granules poisoned (R143, R372). -/
def State.poisonHbm (s : State) (g : Nat) : State :=
  { s with hbmPoison := Sparse.put false s.hbmPoison g true }
def State.poisonBead (s : State) (g : Nat) : State :=
  { s with beadPoison := Sparse.put false s.beadPoison g true }

/-- Zero a physical rod's bead memory, and clear its marks. -/
def State.beadZero (s : State) (ph : Nat) : State :=
  { s with bead := s.bead.zero (2 ^ 22 * ph) (2 ^ 22 * (ph + 1)),
           beadPoison := Sparse.clear s.beadPoison (2 ^ 19 * ph) (2 ^ 19 * (ph + 1)) }

/-- Zero a physical rod's instruction memory. -/
def State.imemZero (s : State) (ph : Nat) : State :=
  { s with imem := s.imem.zero (2 ^ 17 * ph) (2 ^ 17 * (ph + 1)) }

/-! ### Fault records (17 R370, 21 R455) -/

/-- One detection: a 32-byte record into the FLT_LOG ring, or CNT_FLT_LOGLOST where the ring is full; FAULT_RECORD is raised. -/
def State.faultRecord (s : State) (cls cause resp part unit addr step : Nat) : State :=
  let w := s.rd 0x30010
  let size := s.rf 0x30008 4 0
  if (w - s.rd 0x30018).toNat = 2 ^ size then s.bump (cntBlk 11) 1
  else
    let base := (s.rd 0x30000).toNat + 32 * (w.toNat % 2 ^ size)
    let w0 := cls * 2 ^ 60 + cause % 256 * 2 ^ 52 + resp % 16 * 2 ^ 48 + part % 16 * 2 ^ 44 + unit % 4096 * 2 ^ 32
    let bs := leBytes 8 w0 ++ leBytes 8 (addr % 2 ^ 56) ++ leBytes 8 step ++ leBytes 8 s.time.toNat
    (((s.hbmWrite base bs).setReg 0x30010 (w + 1)).event 14).trigger 0 (fun n => s.rf (trigReg n 0) 55 52 == cls)

/-- The open step's number, or 0 (fault records name it). -/
def State.openStep (s : State) (p : Nat) : Nat := match (s.part p).opened with | some d => d.step | none => 0

/-- A fault holds a partition that runs, or that only halt holds: HELD with the given cause; the detection is timed (R391). -/
def State.holdPart (s : State) (p hold cause resp : Nat) : State :=
  let x := s.part p
  if x.st = .running || (x.st = .held && x.haltHeld) then
    s.setPart p { x with st := .held, hold := hold, haltHeld := false, faultCause := cause, faultResp := resp, faultAt := some s.time }
  else s

/-! ### The partition range (12 R264 to R266) -/

/-- What a translation finds. -/
inductive Xlat where
  | unmapped
  | malformed
  | page (entry : W64) (at_ : Nat) (base : Nat) (size : Nat)   -- entry, where it lies in HBM, page address and size
deriving DecidableEq, Repr

/-- Whether a page entry obeys R265 and R266: reserved bits zero, its tier and target legal, frame aligned and within capacity. -/
def State.pageOk (s : State) (e : W64) (large : Bool) : Bool :=
  let tier := bits e 61 60
  let tgt := bits e 55 50
  let frame := bits e 49 16 * 65536
  let size := if large then 2 ^ 21 else 2 ^ 16
  decide (bits e 15 0 = 0) && decide (bits e 58 58 = b2n large) && decide (frame % size = 0) &&
  (if tier = 1 then decide (tgt = 0) && decide (frame + size ≤ s.design.hbmCap)
   else if tier = 2 then
     decide (tgt % 4 = 0) &&
       (if tgt / 32 = 1 then decide (tgt / 4 % 8 = s.fab.pos) && decide (frame + size ≤ (s.rd 0x600048).toNat)
        else decide (tgt / 4 % 8 ≠ s.fab.pos) && decide (frame + size ≤ 2 ^ 48))
   else if tier = 3 then decide (frame + size ≤ 2 ^ 47)
   else false)

/-- Index of a partition range address at a table level (Table 12.2), and the entries' table sizes in bytes. -/
def levelIndex (lvl addr : Nat) : Nat :=
  match lvl with
  | 3 => addr / 2 ^ 43 % 512 | 2 => addr / 2 ^ 32 % 2048 | 1 => addr / 2 ^ 21 % 2048 | _ => addr / 2 ^ 16 % 32
def tableSize (lvl : Nat) : Nat := match lvl with | 3 => 4096 | 2 => 16384 | 1 => 16384 | _ => 256

/-- Walk the tables from level `lvl` at `tbl` (fuel: levels left). -/
def State.walk (s : State) (addr tbl : Nat) : Nat → Xlat
  | 0 => .malformed
  | lvl + 1 =>
    let at_ := tbl + 8 * levelIndex lvl addr
    let e := s.hbmWord at_
    let ty := bits e 63 62
    if ty = 0 then .unmapped
    else if ty = 1 then
      if lvl = 0 || bits e 61 40 ≠ 0 || bits e 7 0 ≠ 0 then .malformed
      else
        let nxt := bits e 39 8 * 256
        if nxt % tableSize (lvl - 1) ≠ 0 || nxt + tableSize (lvl - 1) > s.design.hbmCap then .malformed
        else s.walk addr nxt lvl
    else if ty = 2 then
      if lvl = 1 then (if s.pageOk e true then .page e at_ (addr / 2 ^ 21 * 2 ^ 21) (2 ^ 21) else .malformed)
      else if lvl = 0 then (if s.pageOk e false then .page e at_ (addr / 2 ^ 16 * 2 ^ 16) (2 ^ 16) else .malformed)
      else .malformed
    else .malformed

/-- Translate an address of partition p's range. -/
def State.xlat (s : State) (p addr : Nat) : Xlat := s.walk addr (s.rd (0x400100 + 8 * p)).toNat 4

def entryTier (e : W64) : Nat := bits e 61 60
def entryFrame (e : W64) : Nat := bits e 49 16 * 65536
def entryWritable (e : W64) : Bool := bit e 57
def entryMoving (e : W64) : Bool := bit e 56
def entryPinned (e : W64) : Bool := bit e 59

/-- Key of the reference count of a page (12 R273). -/
def pageKey (p page : Nat) : Nat := 2 ^ 52 * p + page

/-- Block physical address of a tier 2 or 3 frame byte: the key of `ext`. -/
def extAddr (e : W64) (off : Nat) : Nat :=
  let tgt := bits e 55 50
  let f := entryFrame e + off
  if entryTier e = 3 then 3 * 2 ^ 53 + tgt * 2 ^ 47 + f
  else if tgt / 32 = 1 then 5 * 2 ^ 53 + f
  else 4 * 2 ^ 53 + (tgt / 4 % 8) * 2 ^ 50 + f

/-- A GET or PUT form 0 range cut into the spans that lie in one 64 KiB page each (fuel: spans). -/
def spans (addr len : Nat) : Nat → List (Nat × Nat)
  | 0 => []
  | k + 1 =>
    if len = 0 then [] else
    let n := min len (65536 - addr % 65536)
    (addr, n) :: spans (addr + n) (len - n) k

def pageSpans (addr len : Nat) : List (Nat × Nat) := spans addr len (len / 65536 + 2)

/-- The response that translating a span draws: 0, or a code of Table 6.3 (R126, R267); `w` for a PUT or atomic. -/
def State.spanResp (s : State) (p : Nat) (w : Bool) (sp : Nat × Nat) : Nat :=
  match s.xlat p sp.1 with
  | .unmapped => 1
  | .malformed => 1
  | .page e _ _ _ =>
    if w && entryTier e ≠ 1 then 3 else if w && !entryWritable e then 2 else 0

/-- First non-zero response of a list of spans. -/
def State.rangeResp (s : State) (p : Nat) (w : Bool) (l : List (Nat × Nat)) : Nat :=
  l.foldl (fun r sp => if r = 0 then s.spanResp p w sp else r) 0

/-- Count an access that met a malformed entry (CNT_TIER_BADPTE, R266). -/
def State.countBad (s : State) (p : Nat) (l : List (Nat × Nat)) : State :=
  s.bump (cntPart p 40) (b2n (l.any (fun sp => decide (s.xlat p sp.1 = .malformed))))

/-- Physical HBM offset of a tier 1 address; none where the page is unmapped, malformed or lower. -/
def State.tier1 (s : State) (p addr : Nat) : Option Nat :=
  match s.xlat p addr with
  | .page e _ b _ => if entryTier e = 1 then some (entryFrame e + (addr - b)) else none
  | _ => none

/-- Read bytes of one span of the partition range, in whatever tier it lies (R267). -/
def State.spanRead (s : State) (p : Nat) (sp : Nat × Nat) : List Byte :=
  match s.xlat p sp.1 with
  | .page e _ b _ =>
    if entryTier e = 1 then s.hbmRead (entryFrame e + (sp.1 - b)) sp.2
    else s.ext.readN (extAddr e (sp.1 - b)) sp.2
  | _ => List.replicate sp.2 0

/-- Whether any HBM granule of a span is poisoned. -/
def State.spanBad (s : State) (p : Nat) (sp : Nat × Nat) : Bool :=
  match s.xlat p sp.1 with
  | .page e _ b _ => if entryTier e = 1 then s.hbmRangeBad (entryFrame e + (sp.1 - b)) sp.2 else false
  | _ => false

/-- Read bytes of the partition range by a unit; none where a page is unmapped or malformed. -/
def State.rangeRead (s : State) (p addr len : Nat) : Option (List Byte) :=
  let l := pageSpans addr len
  if s.rangeResp p false l = 0 then some (l.flatMap (s.spanRead p)) else none

def State.rangeRead64 (s : State) (p addr : Nat) : Option W64 := (s.rangeRead p addr 8).map (fun b => w64 (leNat b))

/-- Write bytes of one span that lies in tier 1. -/
def State.spanWrite (s : State) (p addr : Nat) (bs : List Byte) : State :=
  match s.tier1 p addr with
  | some o => s.hbmWrite o bs
  | none => s

/-- Write bytes span by span. -/
def State.spansWrite (s : State) (p : Nat) : List (Nat × Nat) → List Byte → State
  | [], _ => s
  | sp :: r, bs => State.spansWrite (s.spanWrite p sp.1 (bs.take sp.2)) p r (bs.drop sp.2)

/-- A write has reached these bytes: a demotion of their page will not complete (Table 12.7). -/
def State.markDemotes (s : State) (p addr len : Nat) : State :=
  { s with tier := { s.tier with moves := s.tier.moves.map (fun m =>
      if m.demote && m.part == p && decide (addr < m.page + (if m.large then 2 ^ 21 else 2 ^ 16)) && decide (m.page < addr + len)
      then { m with hit := true } else m) } }

/-- Write bytes of the partition range by a unit: every page must be a writable tier 1 page (R262, R267); otherwise nothing is written,
and a malformed entry is counted (R266). -/
def State.rangeWrite (s : State) (p addr : Nat) (bs : List Byte) : State :=
  let l := pageSpans addr bs.length
  if s.rangeResp p true l = 0 then (s.spansWrite p l bs).markDemotes p addr bs.length else s.countBad p l

def State.rangeWrite64 (s : State) (p addr : Nat) (v : W64) : State := s.rangeWrite p addr (leBytes 8 v.toNat)

/-! ### Tally counters (04 R71) -/

def Rod.cnt (r : Rod) (c : Nat) : W32 := Sparse.get 0 r.c c
def Rod.addCnt (r : Rod) (c : Nat) (k : W32) : Rod := { r with c := Sparse.put 0 r.c c (r.cnt c + k) }

/-- Add to a counter of a physical rod. -/
def State.addCnt (s : State) (ph c : Nat) (k : Int) : State := s.onRod ph (fun r => r.addCnt c (BitVec.ofInt 32 k))

end Sys2Proof.Machine
end

