-- ==== Sys2Proof/Machine/Flags.lean ====
section
/-! DEFINITION. Every flag a rod has: the sticky arithmetic flags of SPR_ASTAT (R35 to R37, R107), and the mask and predicate results
of comparisons (R95, R101). -/

namespace Sys2Proof.Machine

/-- Flags a conversion raises are added to the sticky bits of SPR_ASTAT: bit 1 INVALID, bit 0 SATURATED. -/
def Rod.addFlags (r : Rod) (f : AFlags) : Rod :=
  { r with astat := r.astat ||| BitVec.ofNat 2 (2 * b2n f.invalid + b2n f.saturated) }

/-- CMP's condition between two scalar operands (R85, R95). The FP32 conditions take bits [31:0] (R92). -/
def cmpHolds (f : Nat) (a b : W64) : Bool :=
  let fa := a.setWidth 32
  let fb := b.setWidth 32
  match f with
  | 0 => decide (a = b)
  | 1 => decide (a ≠ b)
  | 2 => a.slt b
  | 3 => !a.slt b
  | 4 => a.ult b
  | 5 => !a.ult b
  | 6 => feq fa fb
  | 7 => flt fa fb
  | 8 => fle fa fb
  | _ => fun_ fa fb

/-- PRED's operation (R85, R95). -/
def predOp (f : Nat) (a b : Bool) : Bool :=
  match f with | 0 => a && b | 1 => a || b | 2 => xor a b | _ => a && !b

/-- WAIT's condition on a counter read as a signed 32-bit value (R80, R119). -/
def waitHolds (cond : Nat) (v : W32) (imm : Int) : Bool :=
  if cond = 0 then decide (imm ≤ v.toInt) else decide (v.toInt = imm)

end Sys2Proof.Machine
end

