-- ==== Sys2Proof/Machine/Operands.lean ====
section
/-! DEFINITION. The operand forms of a rod's instructions: its register files (R70), effective addresses and their checks (R78),
the asynchronous queues, and the issue of one instruction (R41 to R44, R74, R75, R88 to R91). -/

namespace Sys2Proof.Machine

/-! ### Register files -/

/-- s0 reads as zero (R70). -/
def Rod.sget (r : Rod) (n : Nat) : W64 := if n = 0 then 0 else Sparse.get 0 r.s n
/-- A write to s0 is discarded (R70). -/
def Rod.sset (r : Rod) (n : Nat) (v : W64) : Rod := if n = 0 then r else { r with s := Sparse.put 0 r.s n v }
/-- p0 reads as 1 (R70). -/
def Rod.pget (r : Rod) (n : Nat) : Bool := decide (n = 0) || bit r.p n
/-- p0 is never a destination. -/
def Rod.pset (r : Rod) (n : Nat) (v : Bool) : Rod :=
  if n = 0 then r else
  { r with p := if v then r.p ||| BitVec.ofNat 8 (2 ^ n) else r.p &&& ~~~ BitVec.ofNat 8 (2 ^ n) }
def Rod.vlane (r : Rod) (n lane : Nat) : W32 := Sparse.get 0 r.v (64 * n + lane)
def Rod.vget (r : Rod) (n : Nat) : List W32 := (List.range 64).map (r.vlane n)
/-- Write consecutive keys of a table of 32-bit values. -/
def putRun (m : Sparse W32) (k : Nat) : List W32 → Sparse W32
  | [] => m
  | v :: r => putRun (Sparse.put 0 m k v) (k + 1) r
def Rod.vset (r : Rod) (n : Nat) (l : List W32) : Rod := { r with v := putRun r.v (64 * n) (l.take 64) }
/-- The 64 columns of one accumulator row (R50). -/
def Rod.tget (r : Rod) (t row : Nat) : List W32 := (List.range 64).map (fun c => Sparse.get 0 r.t (1024 * t + 64 * row + c))
def Rod.tset (r : Rod) (t row : Nat) (l : List W32) : Rod := { r with t := putRun r.t (1024 * t + 64 * row) (l.take 64) }
def Rod.tclear (r : Rod) (t : Nat) : Rod := { r with t := Sparse.clear r.t (1024 * t) (1024 * (t + 1)) }

/-- The 256-byte image of a vector register (R99). -/
def vbytes (l : List W32) : List Byte := l.flatMap (fun x => leBytes 4 x.toNat)
/-- 32-bit lanes of a byte string. -/
def lanesOf : Nat → List Byte → List W32
  | 0, _ => []
  | n + 1, bs => BitVec.ofNat 32 (leNat (bs.take 4)) :: lanesOf n (bs.drop 4)

/-! ### Exceptions (R89 to R91) -/

/-- One instruction at its issue: logical and physical rod, partition, program address, word, place in issue order, instruction. -/
structure Ctx where
  l : Nat
  ph : Nat
  p : Nat
  pc : W64
  word : W64
  ord : Nat
  op : RodOp
  clash : List (Nat × Nat)   -- ranges of bead memory that others wrote while it waited in its unit's queue (R123)
deriving DecidableEq, Repr

/-- A unit discards the instructions of its queue that it has not started (R90). -/
def discardWaiting (q : List AEntry) : List AEntry := q.filter (·.started)

/-- A rod raises an exception: it issues nothing further, and its units discard what they have not started. The record is written when
the rod reports (ROD_EXCEPTION); one raised after that sets MULTIPLE and records nothing else (R90). -/
def Rod.raise (r : Rod) (e : Raised) : Rod :=
  if r.reported then { r with ecause := r.ecause ||| 0x100 }
  else { r with
    raised := r.raised ++ [e], mq := discardWaiting r.mq, vq := discardWaiting r.vq, cq := discardWaiting r.cq,
    rem := r.rem.filter (fun o => o.kind != .suppressed && o.taken) }

/-- An instruction raises an exception at its issue; the program address stays on it. -/
def State.raise (s : State) (c : Ctx) (cause : Nat) : State :=
  s.onRod c.ph (fun r => { (r.raise ⟨cause, c.pc.toNat % 2 ^ 17, c.word, c.ord, 0, 0⟩) with pc := c.pc })

/-- An instruction raises an exception as its unit executes it, after its issue (R89). -/
def State.unitRaise (s : State) (c : Ctx) (cause : Nat) : State :=
  s.onRod c.ph (fun r => r.raise ⟨cause, c.pc.toNat % 2 ^ 17, c.word, c.ord, 0, 0⟩)

/-! ### Bead accesses -/

/-- Source A plus the sign-extended offset, modulo 2^64 (R78). -/
def effAddr (a : W64) (off : Int) : Nat := (a + w64i off).toNat

/-- The checks of R78 in their order: BEAD_RANGE, MISALIGNED, PROTECTION (stores); 0 where all pass. -/
def beadCheck (addr size align : Nat) (store : Bool) : Nat :=
  if addr + size > 0x400000 then 0x06 else if addr % align ≠ 0 then 0x03
  else if store && decide (addr + size > 0x3F0000) then 0x05 else 0

/-- Whether two byte ranges overlap. -/
def overlap (a alen b blen : Nat) : Bool := decide (a < b + blen) && decide (b < a + alen)

/-- Byte ranges of bead memory that other units of the rod have written in instructions that are not ordered against a write by `u`
(none: the scalar pipeline): those of instructions started and not complete, and the stores since the last fence (R43, R123). -/
def Rod.openWrites (r : Rod) (u : Option AUnit) : List (Nat × Nat) :=
  (if u = some .matrix then [] else r.mq.flatMap (·.writes)) ++
  (if u = some .vector then [] else r.vq.flatMap (·.writes)) ++
  (if u = some .carry then [] else r.cq.flatMap (·.writes)) ++
  (if u = none then [] else r.stores)

/-- The bytes a write leaves where another unit's unordered write reached the same 8-byte word: one of the two, which one is a free
choice for each word (R123). -/
def State.mixWords (s : State) (ph : Nat) (clash : List (Nat × Nat)) (off : Nat) : List Byte → Nat → List Byte
  | [], _ => []
  | b :: r, i =>
    let g := (off + i) / 8
    let hit := clash.any (fun c => overlap c.1 c.2 (8 * g) 8)
    let keep := hit && bit (Config.freeWord s.free) (g % 64)
    (if keep then s.bead.read1 (2 ^ 22 * ph + off + i) else b) :: State.mixWords s ph clash off r (i + 1)

/-- An instruction that waits in another unit's queue notes a write that passes it (R123). -/
def noteWaiting (w : Nat × Nat) (q : List AEntry) : List AEntry :=
  q.map (fun e => if e.started then e else { e with clash := e.clash ++ [w] })

/-- The operations of the remote-memory unit that will write the same bytes, and the instructions that wait in the queues of the units
other than `u`, note a write that is not ordered against theirs (R123); a store is kept until the next fence. -/
def Rod.noteWrite (r : Rod) (u : Option AUnit) (w : Nat × Nat) : Rod :=
  { r with
    rem := r.rem.map (fun o =>
      if (o.kind == .get || o.kind == .gather) && o.spans.any (fun x => overlap x.1 x.2 w.1 w.2) then { o with clash := o.clash ++ [w] } else o)
    mq := if u = some .matrix then r.mq else noteWaiting w r.mq
    vq := if u = some .vector then r.vq else noteWaiting w r.vq
    cq := if u = some .carry then r.cq else noteWaiting w r.cq
    stores := if u = none && !r.stores.contains w then r.stores ++ [w] else r.stores }

/-- Bytes reach bead memory from a unit of the rod: poison as R372 says (CNT_FLT_POISONWR), and where a write in `cl` reached the same
word unordered, one of the two stands (R123). -/
def State.unorderedWrite (s : State) (p ph off : Nat) (bs : List Byte) (cl : List (Nat × Nat)) : State :=
  let s1 := if s.beadWriteMeets ph off bs.length then s.countPoison p (1 + ph) else s
  if cl.any (fun x => overlap x.1 x.2 off bs.length) then
    { s1.beadWrite ph off (s.mixWords ph cl off bs 0) with free := s.free + 1 }
  else s1.beadWrite ph off bs

/-- A unit of the rod writes bead memory in the instruction `c`. -/
def State.unitWrite (s : State) (c : Ctx) (off : Nat) (bs : List Byte) (u : Option AUnit) : State :=
  (s.unorderedWrite c.p c.ph off bs (c.clash ++ (s.rod c.ph).openWrites u)).onRod c.ph (fun r => r.noteWrite u (off, bs.length))

/-! ### Queues -/

def Rod.queueOf (r : Rod) : AUnit → List AEntry
  | .matrix => r.mq | .vector => r.vq | .carry => r.cq | .remote => []
def Rod.setQueue (r : Rod) (u : AUnit) (q : List AEntry) : Rod :=
  match u with
  | .matrix => { r with mq := q } | .vector => { r with vq := q } | .carry => { r with cq := q } | .remote => r

/-- Queue depth (Table 3.1). -/
def depth : AUnit → Nat | .matrix => 8 | .vector => 16 | .carry => 8 | .remote => 16

/-- Whether a unit's queue is full (R41): instructions issued and not completed. -/
def Rod.full (r : Rod) (u : AUnit) : Bool :=
  match u with
  | .remote => decide (depth .remote ≤ r.rem.length)
  | _ => decide (depth u ≤ (r.queueOf u).length)

/-- An instruction enters its unit's queue. -/
def State.enqueue (s : State) (ph : Nat) (u : AUnit) (e : AEntry) : State :=
  s.onRod ph (fun r => r.setQueue u (r.queueOf u ++ [e]))

/-- A unit has started the instruction `c` and done what it does: it stands at the head of the queue, with the ranges it wrote. -/
def State.begun (s : State) (c : Ctx) (u : AUnit) (cnt : Option Nat) (w : List (Nat × Nat)) : State :=
  s.onRod c.ph (fun r => r.setQueue u (⟨c.op, c.ord, c.pc, c.word, cnt, false, true, w, []⟩ :: r.queueOf u))

/-- An operation enters the remote-memory unit. -/
def State.enqueueRem (s : State) (ph : Nat) (o : RemOp) : State :=
  s.onRod ph (fun r => { r with rem := r.rem ++ [{ o with tag := r.nextTag }], nextTag := r.nextTag + 1 })

/-! ### What an operation uses -/

/-- The scalar registers an operation reads or writes. -/
def RodOp.sRegs : RodOp → List Nat
  | .srRd d _ => [d] | .srWr a _ => [a] | .bl d _ => [d] | .jr a => [a] | .jlr d a => [d, a]
  | .int _ d a b c _ => [d, a, b, c] | .intImm _ d a _ => [d, a] | .cmp _ _ a b => [a, b] | .cmpi _ _ a _ => [a]
  | .fp _ d a b c => [d, a, b, c] | .ld _ d a _ => [d, a] | .st _ a b _ => [a, b]
  | .take d _ => [d, d + 1] | .steal d _ => [d, d + 1] | .put a b _ => [a, b]
  | .vec f d a b _ _ _ =>
    if f = 0x30 || f = 0x31 || f = 0x32 then [d] else if f = 0x38 then [a] else if f = 0x39 then [d, b]
    else if f = 0x3D || f = 0x3E then [b] else []
  | .vld _ a _ _ => [a] | .vst a _ _ _ => [a]
  | .mma _ _ _ _ a b _ _ _ => [a, b] | .carry _ _ a b _ => [a, b]
  | .rget a b _ _ => [a, b] | .rput a b _ _ => [a, b] | .atom _ _ d a b c _ => [d, a, b, c]
  | .taddR a _ _ => [a] | .gather a b _ => [a, b] | .streamArm a _ => [a] | .samplePut a b _ => [a, b]
  | _ => []

/-- The asynchronous unit an operation goes to (Table 4.6), with its completion counter. -/
def RodOp.unit : RodOp → Option (AUnit × Option Nat)
  | .vec _ _ _ _ _ _ c => some (.vector, c) | .vld _ _ _ c => some (.vector, c) | .vst _ _ _ c => some (.vector, c)
  | .acc _ _ _ _ _ c => some (.vector, c) | .mma _ _ _ _ _ _ _ _ c => some (.matrix, c) | .carry _ _ _ _ c => some (.carry, c)
  | .rget _ _ _ c => some (.remote, c) | .rput _ _ _ c => some (.remote, c) | .atom _ _ _ _ _ _ c => some (.remote, c)
  | .taddR _ _ c => some (.remote, c) | .fence _ c => some (.remote, c) | .gather _ _ c => some (.remote, c)
  | .streamArm _ c => some (.remote, c) | .samplePut _ _ c => some (.remote, c) | .sampleEmpty c => some (.remote, c)
  | _ => none

/-- The registers of the four files, each file by numbers of its own (R43): scalar 0 to 31, vector from 100, accumulators from 200,
predicates from 300. What an operation reads and what it writes; s0 and p0 are constants and wait for nothing. -/
def RodOp.writesRegs : RodOp → List Nat
  | .srRd d _ => [d] | .bl d _ => [d] | .jlr d _ => [d] | .int _ d _ _ _ _ => [d] | .intImm _ d _ _ => [d]
  | .fp _ d _ _ _ => [d] | .ld _ d _ _ => [d] | .cmp _ d _ _ => [300 + d] | .cmpi _ d _ _ => [300 + d] | .pred _ d _ _ => [300 + d]
  | .take d p => [d, d + 1, 300 + p] | .steal d p => [d, d + 1, 300 + p] | .put _ _ p => [300 + p]
  | .vec f d _ _ _ _ _ => if f = 0x30 || f = 0x31 || f = 0x32 || f = 0x39 then [d] else [100 + d]
  | .vld d _ _ _ => [100 + d]
  | .acc f d _ t _ _ => if f = 0 then [100 + d] else [200 + t]
  | .mma t _ _ _ _ _ _ _ _ => [200 + t] | .carry f t _ _ _ => if f = 3 || f = 4 then [200 + t] else []
  | .atom _ _ d _ _ _ _ => [d]
  | _ => []
def RodOp.readsRegs : RodOp → List Nat
  | .vec f _ a b c _ _ =>
    if f = 0x38 then [a] else if f = 0x3B then [] else if f = 0x39 || f = 0x3D || f = 0x3E then [100 + a, b]
    else if f = 0x03 || f = 0x1C then [100 + a, 100 + b, 100 + c]
    else if f = 0x42 then [100 + a, 100 + c]
    else if f = 0x05 || f = 0x08 || f = 0x09 || decide (0x20 ≤ f ∧ f ≤ 0x32) || decide (0x40 ≤ f) then [100 + a]
    else [100 + a, 100 + b]
  | .vst a b _ _ => [a, 100 + b]
  | .acc f _ a t _ _ => if f = 0 then [200 + t] else if f = 1 then [100 + a] else []
  | .mma t _ _ _ a b _ _ _ => [a, b, 200 + t] | .carry f t a b _ => if f = 3 || f = 4 then [a, b, 200 + t] else [a, b]
  | .pred _ _ a b => [300 + a, 300 + b]
  | o => o.sRegs
def RodOp.usesRegs (o : RodOp) : List Nat := (o.writesRegs ++ o.readsRegs).filter (fun n => decide (n ≠ 0) && decide (n ≠ 300))

/-- The registers that an instruction in a unit's queue still has to write, or still has to read (R43). -/
def AEntry.owes (e : AEntry) : List Nat := if e.supp then [] else if e.started then e.op.writesRegs else e.op.usesRegs

/-- Whether an instruction in one of these queues, older than `ord`, holds back one that uses these registers. -/
def heldBy (q : List AEntry) (ord : Nat) (regs : List Nat) : Bool :=
  q.any (fun e => decide (e.ord < ord) && e.owes.any (fun n => regs.contains n))

/-- Registers that an outstanding atomic has still to write (R43, R114). -/
def Rod.pendingRegs (r : Rod) : List Nat := (r.rem.filter (fun o => decide (o.dest ≠ 0))).map (·.dest)

/-- The queues of the local units but for `u`. -/
def Rod.otherQueues (r : Rod) (u : AUnit) : List AEntry :=
  (if u = .matrix then [] else r.mq) ++ (if u = .vector then [] else r.vq) ++ (if u = .carry then [] else r.cq)

/-- Whether an instruction that can set SATURATED or INVALID has not completed: SR.RD and SR.WR of SPR_ASTAT wait for it (R73). -/
def Rod.flagsOpen (r : Rod) : Bool :=
  r.vq.any (fun e => !e.supp && (match e.op with | .vec f _ _ _ _ _ _ => f == 0x40 || f == 0x44 | _ => false))

/-- Whether an older operation of the remote-memory unit has still to write bead bytes that this one reads as it issues: the source of
a PUT, the descriptor of a GATHER. A unit's own accesses take effect in its program order (R43). -/
def Rod.sourceOpen (r : Rod) (o : RodOp) : Bool :=
  let hit (a len : Nat) : Bool := r.rem.any (fun x => x.kind != .sample && x.spans.any (fun y => overlap y.1 y.2 a len))
  match o with
  | .rput _ b len _ => hit (r.sget b).toNat len
  | .gather a _ _ => hit (r.sget a).toNat 64
  | _ => false

/-- Whether the issue of the rod's next instruction waits for older ones: for a register that an outstanding atomic has still to write,
and, unless the instruction itself goes to a local unit's queue and waits there, for one that a queued instruction has still to write
or to read; for flags; for bead bytes (R43, R73). -/
def Rod.issueWaits (r : Rod) (o : RodOp) : Bool :=
  o.usesRegs.any (fun n => r.pendingRegs.contains n) ||
  (match o.unit with
   | some (.remote, _) => heldBy (r.mq ++ r.vq ++ r.cq) r.ord o.usesRegs
   | some _ => false
   | none => heldBy (r.mq ++ r.vq ++ r.cq) r.ord o.usesRegs) ||
  (match o with | .srRd _ i => i == 0x08 && r.flagsOpen | .srWr _ i => i == 0x08 && r.flagsOpen | _ => false) ||
  r.sourceOpen o

/-! ### Issue -/

/-- Whether logical rod l may issue now: its partition RUNNING (hence no halt, no hold), no exception raised, nothing held. -/
def State.canIssue (s : State) (l : Nat) : Option Ctx :=
  match s.partOf l with
  | none => none
  | some p =>
    let ph := s.phys l
    let r := s.rod ph
    if s.live && decide ((s.part p).st = .running) && r.raised.isEmpty && !r.reported && decide (r.issue = .run) then
      some ⟨l, ph, p, r.pc, 0, r.ord, .nop, []⟩
    else none

/-- The word at the rod's program address; none outside the loaded image (R54). -/
def State.fetch (s : State) (c : Ctx) : Option W64 :=
  let r := s.rod c.ph
  if c.pc.toNat % 8 = 0 && decide (c.pc.toNat / 8 < r.imgLen) then some (s.imem.read64 (2 ^ 17 * c.ph + c.pc.toNat)) else none

/-- Move past an instruction: pc + 8, one more issued. -/
def State.advance (s : State) (c : Ctx) : State := s.onRod c.ph (fun r => { r with pc := c.pc + 8, ord := c.ord + 1 })

/-- A suppressed asynchronous instruction still enters its unit's queue (R75). -/
def State.suppress (s : State) (c : Ctx) : State :=
  match c.op.unit with
  | none => s
  | some (.remote, cnt) =>
    s.enqueueRem c.ph ⟨0, c.ord, c.pc.toNat, c.word, .suppressed, cnt, 0, 0, 0, 0, 0, 0, [], [], none, 0, [], [], 0, true⟩
  | some (u, cnt) => s.enqueue c.ph u ⟨c.op, c.ord, c.pc, c.word, cnt, true, false, [], []⟩

/-- Groups of eight frames of a partition in ascending logical frame order: the group of a logical rod (R246). -/
def State.groupOf (s : State) (p l : Nat) : Nat :=
  let m := s.rd (pReg p 8)
  ((List.range (l / 8)).filter (fun f => bit m f)).length / 8

/-- Whether the current-slew governor holds the unit of an instruction: matrix and vector units of a held group (R246, R425). -/
def State.slewHeld (s : State) (c : Ctx) (o : RodOp) : Bool :=
  match o.unit with
  | some (.matrix, _) => ((s.part c.p).groups ++ (s.part c.p).starts).contains (s.groupOf c.p c.l)
  | some (.vector, _) => ((s.part c.p).groups ++ (s.part c.p).starts).contains (s.groupOf c.p c.l)
  | _ => false

/-- Issue the next instruction of logical rod l, if it is one that `sel` names: fetch, decode, predicate, queue room and register
tracking, then `act` on the state past the instruction. A word outside the image raises FETCH, an illegal one ILLEGAL. Where the
rod cannot issue, or its next instruction is another one, nothing happens (log entry 3). -/
def State.issue (s : State) (l : Nat) (sel : RodOp → Bool) (act : Ctx → State → State) : State :=
  match s.canIssue l with
  | none => s
  | some c0 =>
    match s.fetch c0 with
    | none => s.raise c0 0x02
    | some w =>
      match RodInstr.decode w with
      | none => s.raise { c0 with word := w } 0x01
      | some i =>
        let c := { c0 with word := w, op := i.op }
        let r := s.rod c.ph
        let room := match i.op.unit with | some (u, _) => !r.full u | none => true
        if !(sel i.op && room && !r.issueWaits i.op) then s
        else if r.pget i.pred then act c (s.advance c)
        else (s.advance c).suppress c

/-- Whether a local unit can start the instruction `c` now, with its queue empty before it: the governor does not hold the unit, and no
older instruction of another unit has still to write or to read a register it uses (R42, R43, R246). -/
def State.canStart (s : State) (c : Ctx) (u : AUnit) : Bool :=
  !s.slewHeld c c.op && !heldBy ((s.rod c.ph).otherQueues u) c.ord c.op.usesRegs

/-- Issue an instruction of a local unit: its unit starts it at once where it can, and then `act` is what it does; otherwise it waits in
the unit's queue (log entry 4). -/
def State.issueUnit (s : State) (l : Nat) (sel : RodOp → Bool) (act : Ctx → State → State) : State :=
  s.issue l sel (fun c s =>
    match c.op.unit with
    | some (u, cnt) =>
      if ((s.rod c.ph).queueOf u).isEmpty && s.canStart c u then act c s
      else s.enqueue c.ph u ⟨c.op, c.ord, c.pc, c.word, cnt, false, false, [], []⟩
    | none => s)

end Sys2Proof.Machine
end

