-- ==== Sys2Proof/Machine/RodScalar.lean ====
section
/-! DEFINITION. Scalar rod instructions (spec 05): system, branches, integer, compare, predicate, FP32, loads, stores, waits. -/

namespace Sys2Proof.Machine

/-- What every meaning answers. -/
abbrev Res := Host.Outcome State Fault Refusal

/-- Write a scalar register of the issuing rod. -/
def State.setS (s : State) (c : Ctx) (d : Nat) (v : W64) : State := s.onRod c.ph (fun r => r.sset d v)
def State.s_ (s : State) (c : Ctx) (n : Nat) : W64 := (s.rod c.ph).sget n

/-- NOP does nothing (R122). -/
def execNop (l : Fin 512) (s : State) : Res :=
  .next (s.issue l (fun o => o == .nop) (fun _ s => s))

/-- The value of a special register (Table 4.3). SPR_CYCLE counts the rod clock's cycles since the partition was created or last reset;
they pass with board time (log entry 11). -/
def State.sprRead (s : State) (c : Ctx) (i : Nat) : W64 :=
  let r := s.rod c.ph
  if i = 0x00 then w64 c.l else if i = 0x01 then w64 (c.l / 8) else if i = 0x02 then w64 c.p
  else if i = 0x03 then w64 (b2n (s.isReckon c.l)) else if i = 0x04 then w64 c.ph
  else if i = 0x05 then w64 (s.rodsOf c.p).length else if i = 0x08 then w64 r.astat.toNat
  else if i = 0x09 then w64 r.ecause.toNat else if i = 0x0A then w64 r.epc.toNat else if i = 0x0B then r.eword
  else if i = 0x10 then w64 (s.pwr.cycles - (s.part c.p).cycle0) else if i = 0x11 then s.time
  else w64 (r.cnt (i - 0x20)).toNat

/-- SR.RD (R72, R73, R84). -/
def execSrRd (l : Fin 512) (s : State) : Res :=
  .next (s.issue l (fun o => match o with | .srRd _ _ => true | _ => false) (fun c s =>
    match c.op with
    | .srRd d i => s.setS c d (s.sprRead c i)
    | _ => s))

/-- SR.WR of SPR_ASTAT writes bits [1:0] (R122). -/
def execSrWr (l : Fin 512) (s : State) : Res :=
  .next (s.issue l (fun o => match o with | .srWr _ _ => true | _ => false) (fun c s =>
    match c.op with
    | .srWr a _ => s.onRod c.ph (fun r => { r with astat := (r.sget a).setWidth 2 })
    | _ => s))

/-- BREAK raises the BREAK exception (R122). -/
def execBreak (l : Fin 512) (s : State) : Res :=
  .next (s.issue l (fun o => o == .brk) (fun c s => s.raise c 0x09))

/-- A taken branch: FETCH where the target is misaligned or outside the image (R85). -/
def State.jump (s : State) (c : Ctx) (target : W64) (link : Nat) : State :=
  if target.toNat % 8 = 0 && decide (target.toNat / 8 < (s.rod c.ph).imgLen) then
    (s.setS c link (c.pc + 8)).onRod c.ph (fun r => { r with pc := target })
  else s.raise c 0x02

/-- BR (R85, R98): the branch's program address plus 8 × offset. -/
def execBr (l : Fin 512) (s : State) : Res :=
  .next (s.issue l (fun o => match o with | .br _ => true | _ => false) (fun c s =>
    match c.op with
    | .br off => s.jump c (c.pc + w64i (8 * off)) 0
    | _ => s))

/-- BL also writes the link. -/
def execBl (l : Fin 512) (s : State) : Res :=
  .next (s.issue l (fun o => match o with | .bl _ _ => true | _ => false) (fun c s =>
    match c.op with
    | .bl d off => s.jump c (c.pc + w64i (8 * off)) d
    | _ => s))

/-- JR jumps to the full 64-bit value of s[a] (R98). -/
def execJr (l : Fin 512) (s : State) : Res :=
  .next (s.issue l (fun o => match o with | .jr _ => true | _ => false) (fun c s =>
    match c.op with
    | .jr a => s.jump c (s.s_ c a) 0
    | _ => s))

/-- JLR does the same and writes the link. -/
def execJlr (l : Fin 512) (s : State) : Res :=
  .next (s.issue l (fun o => match o with | .jlr _ _ => true | _ => false) (fun c s =>
    match c.op with
    | .jlr d a => s.jump c (s.s_ c a) d
    | _ => s))

/-- Leading zero bits of a 64-bit value. -/
def clz64 (a : W64) : Nat := if a = 0 then 64 else 63 - a.toNat.log2

/-- One bits of a 64-bit value. -/
def popc64 (a : W64) : Nat := ((List.range 64).filter (fun i => bit a i)).length

/-- Table 5.1. -/
def intOp (f : Nat) (a b c : W64) (sh : Nat) : W64 :=
  let n := b.toNat % 64
  match f with
  | 0x00 => a + b
  | 0x01 => a - b
  | 0x02 => a * b
  | 0x03 => w64 (a.toNat * b.toNat / 2 ^ 64)
  | 0x04 => w64i (a.toInt * b.toInt / 2 ^ 64)
  | 0x05 => a * b + c
  | 0x08 => a &&& b
  | 0x09 => a ||| b
  | 0x0A => a ^^^ b
  | 0x0B => a &&& ~~~b
  | 0x10 => a <<< n
  | 0x11 => a >>> n
  | 0x12 => a.sshiftRight n
  | 0x14 => a <<< sh
  | 0x15 => a >>> sh
  | 0x16 => a.sshiftRight sh
  | 0x18 => if b.slt a then b else a
  | 0x19 => if a.slt b then b else a
  | 0x1A => if b.ult a then b else a
  | 0x1B => if a.ult b then b else a
  | 0x1C => w64 (clz64 a)
  | _ => w64 (popc64 a)

/-- Integer operations of major 0x08 (R94). -/
def execIntegerOp (l : Fin 512) (s : State) : Res :=
  .next (s.issue l (fun o => match o with | .int _ _ _ _ _ _ => true | _ => false) (fun c s =>
    match c.op with
    | .int f d a b x sh => s.setS c d (intOp f (s.s_ c a) (s.s_ c b) (s.s_ c x) sh)
    | _ => s))

/-- ADDI, ANDI, ORI, XORI, MOVI, MOVHI with their extensions (R86, R94). -/
def immOp (major : Nat) (a : W64) (imm : Nat) : W64 :=
  let sx := w64i (signedOf 40 imm)
  let zx := w64 imm
  match major with
  | 0x09 => a + sx
  | 0x0A => a &&& zx
  | 0x0B => a ||| zx
  | 0x0C => a ^^^ zx
  | 0x0D => sx
  | _ => (a &&& 0xFFFFFFFFFF#64) ||| w64 (imm % 2 ^ 24 * 2 ^ 40)

def execIntegerImmediateOp (l : Fin 512) (s : State) : Res :=
  .next (s.issue l (fun o => match o with | .intImm _ _ _ _ => true | _ => false) (fun c s =>
    match c.op with
    | .intImm m d a imm => s.setS c d (immOp m (s.s_ c a) imm)
    | _ => s))

/-- CMP writes a predicate (R95). -/
def execCmp (l : Fin 512) (s : State) : Res :=
  .next (s.issue l (fun o => match o with | .cmp _ _ _ _ => true | _ => false) (fun c s =>
    match c.op with
    | .cmp f d a b => s.onRod c.ph (fun r => r.pset d (cmpHolds f (r.sget a) (r.sget b)))
    | _ => s))

/-- CMPI compares with its sign-extended immediate (R95). -/
def execCmpi (l : Fin 512) (s : State) : Res :=
  .next (s.issue l (fun o => match o with | .cmpi _ _ _ _ => true | _ => false) (fun c s =>
    match c.op with
    | .cmpi f d a imm => s.onRod c.ph (fun r => r.pset d (cmpHolds f (r.sget a) (w64i imm)))
    | _ => s))

/-- PRED combines predicates (R95). -/
def execPred (l : Fin 512) (s : State) : Res :=
  .next (s.issue l (fun o => match o with | .pred _ _ _ _ => true | _ => false) (fun c s =>
    match c.op with
    | .pred f d a b => s.onRod c.ph (fun r => r.pset d (predOp f (r.pget a) (r.pget b)))
    | _ => s))

/-- Table 5.2: the result and the flags. -/
def fpOp (f : Nat) (a b c : W64) : W64 × AFlags :=
  let x := a.setWidth 32
  let y := b.setWidth 32
  let z := c.setWidth 32
  let r (v : W32) : W64 × AFlags := (v.setWidth 64, AFlags.none)
  match f with
  | 0x00 => r (fadd x y)
  | 0x01 => r (fsub x y)
  | 0x02 => r (fmul x y)
  | 0x03 => r (ffma x y z)
  | 0x04 => r (fmin x y)
  | 0x05 => r (fmax x y)
  | 0x06 => r (fneg x)
  | 0x07 => r (fabs x)
  | 0x10 => r (f32OfInt a.toInt)
  | 0x11 => r (f32OfInt (a.toNat : Int))
  | 0x12 => let v := f32ToInt (-(2 ^ 63)) (2 ^ 63 - 1) x; (w64i v.1, v.2)
  | _ => let v := f32ToInt 0 (2 ^ 64 - 1) x; (w64i v.1, v.2)

/-- FP32 scalar operations and conversions (R96, R107). -/
def execFp32ScalarOp (l : Fin 512) (s : State) : Res :=
  .next (s.issue l (fun o => match o with | .fp _ _ _ _ _ => true | _ => false) (fun c s =>
    match c.op with
    | .fp f d a b x =>
      let v := fpOp f (s.s_ c a) (s.s_ c b) (s.s_ c x)
      s.onRod c.ph (fun r => (r.sset d v.1).addFlags v.2)
    | _ => s))

/-- The bytes of an LD extended by its width code (R78). -/
def ldExtend (w : Nat) (bs : List Byte) : W64 :=
  let n := leNat bs
  match w with
  | 4 => w64i (signedOf 8 n) | 5 => w64i (signedOf 16 n) | 6 => w64i (signedOf 32 n) | _ => w64 n

/-- Bytes moved by a scalar access of a width code. -/
def accSize (w : Nat) : Nat := match w with | 0 => 1 | 1 => 2 | 2 => 4 | 3 => 8 | 4 => 1 | 5 => 2 | _ => 4

/-- LD (R97): the checks of R78, then POISON, then the load. -/
def execLd (l : Fin 512) (s : State) : Res :=
  .next (s.issue l (fun o => match o with | .ld _ _ _ _ => true | _ => false) (fun c s =>
    match c.op with
    | .ld w d a off =>
      let n := accSize w
      let addr := effAddr (s.s_ c a) off
      let e := beadCheck addr n n false
      if e ≠ 0 then s.raise c e
      else if s.beadRangeBad c.ph addr n then s.raise c 0x08
      else s.setS c d (ldExtend w (s.beadRead c.ph addr n))
    | _ => s))

/-- ST (R97): the checks of R78, PROTECTION included, then the store. -/
def execSt (l : Fin 512) (s : State) : Res :=
  .next (s.issue l (fun o => match o with | .st _ _ _ _ => true | _ => false) (fun c s =>
    match c.op with
    | .st w a b off =>
      let n := accSize w
      let addr := effAddr (s.s_ c a) off
      let e := beadCheck addr n n true
      if e ≠ 0 then s.raise c e else s.unitWrite c addr (leBytes n (s.s_ c b).toNat) none
    | _ => s))

/-- Whether an accepted, uncompleted extent for this logical rod names counter `n` (12 R282). -/
def State.streamNames (s : State) (p l n : Nat) : Bool :=
  (s.part p).streams.any (fun d => d.extents.any (fun e => decide (e.rod = l) && decide (e.cnt = n)))

/-- WAIT (R119): holds issue until its condition holds. A wait on a stream's counter that stalls is counted (12 R282). -/
def execWait (l : Fin 512) (s : State) : Res :=
  .next (s.issue l (fun o => match o with | .wait _ _ _ => true | _ => false) (fun c s =>
    match c.op with
    | .wait cond n imm =>
      if waitHolds cond ((s.rod c.ph).cnt n) imm then s
      else
        let s1 := s.onRod c.ph (fun r => { r with issue := .waiting cond n imm, stalled := s.streamNames c.p c.l n })
        if s.streamNames c.p c.l n then s1.bump (cntPart c.p 49) 1 else s1
    | _ => s))

/-- The counter satisfies a WAIT: issue resumes (R119). -/
def execWaitRelease (l : Fin 512) (s : State) : Res :=
  let ph := s.phys l
  let r := s.rod ph
  .next (match r.issue with
    | .waiting cond n imm =>
      if waitHolds cond (r.cnt n) imm && s.live then s.setRod ph { r with issue := .run } else s
    | _ => s)

/-- TADD adds its immediate to a counter (R120). -/
def execTadd (l : Fin 512) (s : State) : Res :=
  .next (s.issue l (fun o => match o with | .tadd _ _ => true | _ => false) (fun c s =>
    match c.op with
    | .tadd n imm => s.addCnt c.ph n imm
    | _ => s))

/-! ### Tile queues (R56 to R60, R79, R121) -/

/-- The word a returned tile writes: phase, index and zero (R79). The index field has 24 bits: the tile of an entry whose First and
Count reach past 2^24 has its index modulo 2^24 (DESIGN CHOICE, log entry 112; the spec states none). -/
def tileWord (phase idx : Nat) : W64 := w64 (phase * 2 ^ 48 + idx % 2 ^ 24 * 2 ^ 24)

/-- Hand a tile to a rod: its registers and predicate. -/
def Rod.giveTile (r : Rod) (d p : Nat) (e : TileEntry) (idx : Nat) : Rod :=
  ((r.sset d (tileWord e.phase idx)).sset (d + 1) e.arg).pset p true

/-- TILE.TAKE: the lowest tile of the head entry of the rod's own queue (R58). -/
def Rod.takeTile (r : Rod) (d p : Nat) : Rod :=
  match r.queue with
  | [] => r.pset p false
  | e :: q =>
    let q' := if e.count ≤ 1 then q else { e with first := e.first + 1, count := e.count - 1 } :: q
    ({ r with queue := q' }).giveTile d p e e.first

def execTileTake (l : Fin 512) (s : State) : Res :=
  .next (s.issue l (fun o => match o with | .take _ _ => true | _ => false) (fun c s =>
    match c.op with
    | .take d p => s.onRod c.ph (fun r => r.takeTile d p)
    | _ => s))

/-- TILE.PUT appends one entry to the rod's own queue; count 0 or a full queue clears the predicate (R57). -/
def Rod.putTile (r : Rod) (w0 w1 : W64) (p : Nat) : Rod :=
  if bits w0 23 0 = 0 || decide (64 ≤ r.queue.length) then r.pset p false
  else ({ r with queue := r.queue ++ [TileEntry.mk (bits w0 63 48) (bits w0 47 24) (bits w0 23 0) w1] }).pset p true

def execTilePut (l : Fin 512) (s : State) : Res :=
  .next (s.issue l (fun o => match o with | .put _ _ _ => true | _ => false) (fun c s =>
    match c.op with
    | .put a b p => s.onRod c.ph (fun r => r.putTile (r.sget a) (r.sget b) p)
    | _ => s))

/-- A list turned so that it starts at place i. -/
def rotate {α : Type} (l : List α) (i : Nat) : List α := l.drop i ++ l.take i

/-- The steal ring of logical rod l in partition p (R59). -/
def State.stealRing (s : State) (p l : Nat) : List Nat :=
  let rs := s.rodsOf p
  let tally := rs.filter (fun x => !s.isReckon x)
  let reckon := rs.filter s.isReckon
  let others (cls : List Nat) : List Nat := cls.filter (fun x => decide (l < x)) ++ cls.filter (fun x => decide (x < l))
  if s.isReckon l then others reckon
  else others tally ++ (if reckon.isEmpty then [] else
    rotate reckon ((tally.filter (fun x => decide (x < l))).length % reckon.length))

/-- TILE.STEAL begins its walk: the rods of the ring that the occupancy bitmap marks non-empty (R60). -/
def execTileSteal (l : Fin 512) (s : State) : Res :=
  .next (s.issue l (fun o => match o with | .steal _ _ => true | _ => false) (fun c s =>
    match c.op with
    | .steal d p =>
      let ring := (s.stealRing c.p c.l).filter (fun x => !(s.rod (s.phys x)).queue.isEmpty)
      s.onRod c.ph (fun r => { r with issue := .stealing d p ring })
    | _ => s))

/-- Take the highest tile of the tail entry of a queue (R59): the tile's entry and index, and the queue left. -/
def stealTail (q : List TileEntry) : Option (TileEntry × Nat × List TileEntry) :=
  match q.getLast? with
  | none => none
  | some e =>
    let rest := q.dropLast
    some (e, e.first + e.count - 1, if e.count ≤ 1 then rest else rest ++ [{ e with count := e.count - 1 }])

/-- The walk ends at the first probed queue that yields a tile, or with none (R59, R60). -/
def execStealWalkEnd (l : Fin 512) (s : State) : Res :=
  let ph := s.phys l
  let r := s.rod ph
  .next (match r.issue with
    | .stealing d p ring =>
      let r1 := { r with issue := .run }
      (match ring.find? (fun x => !(s.rod (s.phys x)).queue.isEmpty) with
       | none => s.setRod ph (r1.pset p false)
       | some x =>
         match stealTail (s.rod (s.phys x)).queue with
         | none => s.setRod ph (r1.pset p false)
         | some (e, idx, q) =>
           (s.onRod (s.phys x) (fun v => { v with queue := q })).setRod ph (r1.giveTile d p e idx))
    | _ => s)

end Sys2Proof.Machine
end

