-- ==== Sys2Proof/Machine/RodVector.lean ====
section
/-! DEFINITION. Vector instructions, conversions and accumulator moves of a rod (spec 05 R99 to R108). Each takes
effect where its unit starts it (RodUnits.lean) and stays in the unit's queue until ASYNC_COMPLETE. -/

namespace Sys2Proof.Machine

/-- Lane-wise functions of one, two or three operands (Table 5.4); `ty` 1 is INT32. -/
def laneOp (f ty : Nat) (a b c : W32) : W32 :=
  let i := decide (ty = 1)
  let mask (x : Bool) : W32 := if x then 0xFFFFFFFF#32 else 0
  match f with
  | 0x00 => if i then a + b else fadd a b
  | 0x01 => if i then a - b else fsub a b
  | 0x02 => if i then a * b else fmul a b
  | 0x03 => ffma a b c
  | 0x04 => fdiv a b
  | 0x05 => fsqrt a
  | 0x06 => if i then (if b.slt a then b else a) else fmin a b
  | 0x07 => if i then (if a.slt b then b else a) else fmax a b
  | 0x08 => if i then 0 - a else fneg a
  | 0x09 => if i then (if a.slt 0 then 0 - a else a) else fabs a
  | 0x10 => a &&& b
  | 0x11 => a ||| b
  | 0x12 => a ^^^ b
  | 0x13 => a &&& ~~~b
  | 0x14 => a <<< (b.toNat % 32)
  | 0x15 => a >>> (b.toNat % 32)
  | 0x16 => a.sshiftRight (b.toNat % 32)
  | 0x18 => mask (if i then decide (a = b) else feq a b)
  | 0x19 => mask (if i then a.slt b else flt a b)
  | 0x1A => mask (if i then !b.slt a else fle a b)
  | 0x1B => mask (fun_ a b)
  | 0x1C => if c = 0 then b else a
  | 0x20 => fexp a
  | 0x21 => flog a
  | 0x22 => frcp a
  | 0x23 => frsqrt a
  | 0x24 => ftanh a
  | 0x25 => fsigm a
  | 0x26 => fsilu a
  | 0x27 => fgelu a
  | _ => f32OfInt a.toInt

/-- Lane-wise over three vectors. -/
def lanes3 (g : W32 → W32 → W32 → W32) : List W32 → List W32 → List W32 → List W32
  | a :: r, b :: q, c :: p => g a b c :: lanes3 g r q p
  | _, _, _ => []

/-- VRSUM, VRMAX, VRMIN: the six-level pairwise tree (R32, R104). Only the INT32 sum is sign-extended (R92). A NaN lane is ignored by
maximumNumber and minimumNumber; an FP32 sum with a NaN lane is NaN (DEDUCED, log entry 110). -/
def reduceOp (f ty : Nat) (l : List W32) : W64 :=
  let i := decide (ty = 1)
  let smin (a b : W32) : W32 := if b.slt a then b else a
  let smax (a b : W32) : W32 := if a.slt b then b else a
  let op : W32 → W32 → W32 :=
    if f = 0x30 then (if i then (· + ·) else fadd)
    else if f = 0x31 then (if i then smax else fmax) else (if i then smin else fmin)
  let v := (treeLevels op 6 l).headD 0
  if i && decide (f = 0x30) then w64i v.toInt else v.setWidth 64

/-- Shift a byte image up (towards higher bytes) or down, filling with zeros (VSHLB, VSHRB). -/
def shiftBytes (up : Bool) (k : Nat) (bs : List Byte) : List Byte :=
  if up then (List.replicate k 0 ++ bs).take 256 else bs.drop k ++ List.replicate k 0

/-- VCVT.TO: the 64 lanes converted and packed from byte 0 (R105), with the flags (R107). -/
def cvtTo (t : Elt) (l : List W32) : List W32 × AFlags :=
  let r : List Nat × AFlags :=
    if t.isMx then
      let b0 := mxBlockCodes t (l.take 32)
      let b1 := mxBlockCodes t (l.drop 32)
      (b0.1 ++ b1.1, b0.2.or b1.2)
    else
      let cs := l.map (t.convLane 0)
      (cs.map (·.1), cs.foldl (fun a x => a.or x.2) AFlags.none)
  (lanesOf 64 (leBytes 256 (packNat t.bitsOf r.1)), r.2)

/-- VCVT.SC: the two block scale codes in bytes 0 and 1 (R105). -/
def cvtSc (t : Elt) (l : List W32) : List W32 :=
  lanesOf 64 (leBytes 256 (mxScaleCode t (l.take 32) + 256 * mxScaleCode t (l.drop 32)))

/-- VCVT.FROM: packed elements to FP32 lanes, MX types under the scale codes of v[c] bytes 0 and 1 (R106). -/
def cvtFrom (t : Elt) (packed scales : List W32) : List W32 :=
  let n := leNat (vbytes packed)
  let sc (lane : Nat) : Nat := (scales.headD 0).toNat / (if lane < 32 then 1 else 256) % 256
  (List.range 64).map (fun lane =>
    let code := unpackNat t.bitsOf n lane
    f32Round (if t.isMx then t.scaledVal code (sc lane) else t.val code))

/-- VCVT.I32.F32 of all lanes with the flags (R37). -/
def cvtI32 (l : List W32) : List W32 × AFlags :=
  let r := l.map (f32ToInt (-(2 ^ 31)) (2 ^ 31 - 1))
  (r.map (fun x => BitVec.ofInt 32 x.1), r.foldl (fun a x => a.or x.2) AFlags.none)

/-- One function of major 0x20 on a rod (Table 5.4). -/
def Rod.vecFn (r : Rod) (f d a b c ty : Nat) : Rod :=
  let va := r.vget a
  if f = 0x30 || f = 0x31 || f = 0x32 then r.sset d (reduceOp f ty va)
  else if f = 0x38 then r.vset d (List.replicate 64 ((r.sget a).setWidth 32))
  else if f = 0x39 then r.sset d ((r.vlane a ((r.sget b).toNat % 64)).setWidth 64)
  else if f = 0x3B then r.vset d ((List.range 64).map (BitVec.ofNat 32))
  else if f = 0x3C then r.vset d ((r.vget b).map (fun m => r.vlane a (m.toNat % 64)))
  else if f = 0x3D then r.vset d (lanesOf 64 (shiftBytes true ((r.sget b).toNat % 256) (vbytes va)))
  else if f = 0x3E then r.vset d (lanesOf 64 (shiftBytes false ((r.sget b).toNat % 256) (vbytes va)))
  else if f = 0x44 then let v := cvtI32 va; (r.vset d v.1).addFlags v.2
  else r.vset d (lanes3 (laneOp f ty) va (r.vget b) (r.vget c))

/-- An instruction of a local unit has been performed: it stays at the head of the unit's queue until it completes. -/
def State.vdone (s : State) (c : Ctx) (w : List (Nat × Nat)) : State :=
  match c.op.unit with
  | some (u, cnt) => s.begun c u cnt w
  | none => s

def isCvt (f : Nat) : Bool := f == 0x40 || f == 0x41 || f == 0x42

/-- The vector functions of major 0x20 but for VCVT.TO, VCVT.SC and VCVT.FROM (R101 to R104). -/
def State.vecOp (s : State) (c : Ctx) : State :=
  match c.op with
  | .vec f d a b x ty _ => (s.onRod c.ph (fun r => r.vecFn f d a b x ty)).vdone c []
  | _ => s

def execVectorOp (l : Fin 512) (s : State) : Res :=
  .next (s.issueUnit l (fun o => match o with | .vec f _ _ _ _ _ _ => !isCvt f | _ => false) (fun c s => s.vecOp c))

/-- VLD fills v[d] from 256 bytes (R99). -/
def State.vldOp (s : State) (c : Ctx) : State :=
  match c.op with
  | .vld d a off _ =>
    let addr := effAddr (s.s_ c a) off
    let e := beadCheck addr 256 32 false
    if e ≠ 0 then s.unitRaise c e
    else if s.beadRangeBad c.ph addr 256 then s.unitRaise c 0x08
    else (s.onRod c.ph (fun r => r.vset d (lanesOf 64 (s.beadRead c.ph addr 256)))).vdone c []
  | _ => s

def execVld (l : Fin 512) (s : State) : Res :=
  .next (s.issueUnit l (fun o => match o with | .vld _ _ _ _ => true | _ => false) (fun c s => s.vldOp c))

/-- VST writes v[b] to 256 bytes (R99). -/
def State.vstOp (s : State) (c : Ctx) : State :=
  match c.op with
  | .vst a b off _ =>
    let addr := effAddr (s.s_ c a) off
    let e := beadCheck addr 256 32 true
    if e ≠ 0 then s.unitRaise c e
    else (s.unitWrite c addr (vbytes ((s.rod c.ph).vget b)) (some .vector)).vdone c [(addr, 256)]
  | _ => s

def execVst (l : Fin 512) (s : State) : Res :=
  .next (s.issueUnit l (fun o => match o with | .vst _ _ _ _ => true | _ => false) (fun c s => s.vstOp c))

/-- VCVT.TO (R105, R107). -/
def State.vcvtToOp (s : State) (c : Ctx) : State :=
  match c.op with
  | .vec _ d a _ _ ty _ =>
    (match Elt.ofCode ty with
     | some t => (s.onRod c.ph (fun r => let v := cvtTo t (r.vget a); (r.vset d v.1).addFlags v.2)).vdone c []
     | none => s)
  | _ => s

def execVcvtTo (l : Fin 512) (s : State) : Res :=
  .next (s.issueUnit l (fun o => match o with | .vec f _ _ _ _ _ _ => f == 0x40 | _ => false) (fun c s => s.vcvtToOp c))

/-- VCVT.SC (R105). -/
def State.vcvtScOp (s : State) (c : Ctx) : State :=
  match c.op with
  | .vec _ d a _ _ ty _ =>
    (match Elt.ofCode ty with
     | some t => (s.onRod c.ph (fun r => r.vset d (cvtSc t (r.vget a)))).vdone c []
     | none => s)
  | _ => s

def execVcvtSc (l : Fin 512) (s : State) : Res :=
  .next (s.issueUnit l (fun o => match o with | .vec f _ _ _ _ _ _ => f == 0x41 | _ => false) (fun c s => s.vcvtScOp c))

/-- VCVT.FROM raises no flag (R106). -/
def State.vcvtFromOp (s : State) (c : Ctx) : State :=
  match c.op with
  | .vec _ d a _ x ty _ =>
    (match Elt.ofCode ty with
     | some t => (s.onRod c.ph (fun r => r.vset d (cvtFrom t (r.vget a) (r.vget x)))).vdone c []
     | none => s)
  | _ => s

def execVcvtFrom (l : Fin 512) (s : State) : Res :=
  .next (s.issueUnit l (fun o => match o with | .vec f _ _ _ _ _ _ => f == 0x42 | _ => false) (fun c s => s.vcvtFromOp c))

/-- ACC.RD: row m of the accumulator to v[d]; ACC.WR: v[a] into row m; ACC.CLR: all 16 rows to +0.0 (R108). -/
def State.accOp (s : State) (c : Ctx) : State :=
  match c.op with
  | .acc f d a t row _ =>
    (s.onRod c.ph (fun r =>
      if f = 0 then r.vset d (r.tget t row) else if f = 1 then r.tset t row (r.vget a) else r.tclear t)).vdone c []
  | _ => s

def isAcc (n : Nat) (o : RodOp) : Bool := match o with | .acc f _ _ _ _ _ => f == n | _ => false

def execAccRd (l : Fin 512) (s : State) : Res := .next (s.issueUnit l (isAcc 0) (fun c s => s.accOp c))
def execAccWr (l : Fin 512) (s : State) : Res := .next (s.issueUnit l (isAcc 1) (fun c s => s.accOp c))
def execAccClr (l : Fin 512) (s : State) : Res := .next (s.issueUnit l (isAcc 2) (fun c s => s.accOp c))

end Sys2Proof.Machine
end

