-- ==== Sys2Proof/Machine/RodMatrix.lean ====
section
/-! DEFINITION. The matrix unit (spec 02 R25 to R29, 03 R46 to R49, 05 R109): MMA in its ordinary and its latched-weight form. -/

namespace Sys2Proof.Machine

/-- Weight and activation element types of an operand pair (Table 4.5). -/
def pairW (pair ws : Nat) : Elt :=
  match pair, ws with
  | 0, _ => .mxfp4 | 1, 0 => .mxfp6e2m3 | 1, _ => .mxfp6e3m2 | 2, 0 => .mxfp8e4m3 | 2, _ => .mxfp8e5m2
  | 3, _ => .mxint8 | 4, 0 => .e4m3 | 4, _ => .e5m2 | 5, _ => .int8 | _, _ => .bf16
def pairA (pair as : Nat) : Elt :=
  match pair, as with
  | 0, 0 => .mxint8 | 0, 1 => .mxfp8e4m3 | 0, _ => .mxfp8e5m2 | 1, 0 => .mxint8 | 1, 1 => .mxfp8e4m3 | 1, _ => .mxfp8e5m2
  | 2, 0 => .mxfp8e4m3 | 2, _ => .mxfp8e5m2 | 3, _ => .mxint8 | 4, 0 => .e4m3 | 4, _ => .e5m2 | 5, _ => .int8 | _, _ => .bf16

/-- Reduction group depth (Table 2.2). -/
def pairDepth (pair : Nat) : Nat := if pair = 6 then 32 else 256

/-- Bytes of an operand of `lines` columns or rows: elements, then 8 scale bytes per line for MX types (R47). -/
def lineBytes (t : Elt) (dep : Nat) : Nat := dep * t.bitsOf / 8
def operandBytes (t : Elt) (dep lines : Nat) : Nat := lines * lineBytes t dep + if t.isMx then 8 * lines else 0

/-- Elements of one line, and its 8 scale codes (0x7F, the scale 1, for plain types). -/
structure Line where
  codes : List Nat
  scales : List Nat

/-- Cut a packed number into `n` codes of `w` bits. -/
def unpackList (w : Nat) (v : Nat) : Nat → List Nat
  | 0 => []
  | n + 1 => v % 2 ^ w :: unpackList w (v / 2 ^ w) n

/-- Lines of an operand's bytes. -/
def linesOf (t : Elt) (dep n : Nat) (bs : List Byte) : List Line :=
  let lb := lineBytes t dep
  (List.range n).map (fun k =>
    ⟨unpackList t.bitsOf (leNat ((bs.drop (lb * k)).take lb)) dep,
     if t.isMx then ((bs.drop (lb * n + 8 * k)).take 8).map BitVec.toNat else List.replicate 8 0x7F⟩)

/-- Exact sum of products of two code lists (R26 step 1). -/
def dotExact (tw ta : Elt) : List Nat → List Nat → Option FVal → Option FVal
  | w :: r, a :: q, acc =>
    let p := (tw.val w).mul (ta.val a)
    dotExact tw ta r q (some (match acc with | none => p | some x => x.add p))
  | _, _, acc => acc

/-- Block value v_b (R26 step 2, R27). -/
def blockVal (tw ta : Elt) (w a : List Nat) (ew ea : Nat) : W32 :=
  match scaleExp ew, scaleExp ea with
  | some kw, some ka => f32Round (((dotExact tw ta w a none).getD (.fin false 0 0)).scale2 (kw + ka))
  | _, _ => qnan

/-- Block values of a reduction group. -/
def blockVals (tw ta : Elt) (w a : Line) : List W32 :=
  (List.range 8).map (fun b =>
    blockVal tw ta ((w.codes.drop (32 * b)).take 32) ((a.codes.drop (32 * b)).take 32) (nth 0 w.scales b) (nth 0 a.scales b))

/-- The integer sum of the products of two lists of INT8 codes (R28). -/
def dotInt : List Nat → List Nat → Int
  | w :: r, a :: q => signedOf 8 w * signedOf 8 a + dotInt r q
  | _, _ => 0

/-- Group value of one output element (R26 step 3, R28). -/
def groupVal (tw ta : Elt) (w a : Line) : W32 :=
  match tw with
  | .int8 => f32OfInt (dotInt w.codes a.codes)
  | .bf16 =>
    (treeLevels fadd 5 ((List.zip w.codes a.codes).map (fun p => f32Round ((tw.val p.1).mul (ta.val p.2))))).headD 0
  | _ => (treeLevels fadd 3 (blockVals tw ta w a)).headD 0

/-- The output tile: 16 rows of 64 columns, each t + g rounded once (R26 step 4, R46). -/
def mmaTile (tw ta : Elt) (ws as : List Line) (old : Nat → List W32) (zero : Bool) : List (List W32) :=
  (List.range 16).map (fun row =>
    let a := nth ⟨[], []⟩ as row
    (List.range 64).map (fun col =>
      fadd (if zero then 0 else nth 0 (old row) col) (groupVal tw ta (nth ⟨[], []⟩ ws col) a)))

/-- Write 16 rows of an accumulator. -/
def Rod.tsetRows (r : Rod) (t : Nat) : Nat → List (List W32) → Rod
  | _, [] => r
  | k, row :: q => (r.tset t k row).tsetRows t (k + 1) q

/-- The checks of R109 in their order. -/
def State.mmaCheck (s : State) (c : Ctx) (pair ws as wa aa : Nat) (lat : Bool) : Nat :=
  let dep := pairDepth pair
  let nw := operandBytes (pairW pair ws) dep 64
  let na := operandBytes (pairA pair as) dep 16
  if (!lat && decide (wa + nw > 0x400000)) || decide (aa + na > 0x400000) then 0x06
  else if (!lat && decide (wa % 1024 ≠ 0)) || decide (aa % 1024 ≠ 0) then 0x03
  else if lat && (match (s.rod c.ph).latch with
      | some x => !(decide (x.pair = pair) && decide (x.ws = ws) && decide (x.as = as)) | none => true) then 0x04
  else if (!lat && s.beadRangeBad c.ph wa nw) || s.beadRangeBad c.ph aa na then 0x08
  else 0

/-- MMA, either form: operands, output tile, latch (R48, R109). -/
def State.mma (s : State) (c : Ctx) : State :=
  match c.op with
  | .mma t pair ws as a b lat zero _ =>
    let wa := (s.s_ c a).toNat
    let aa := (s.s_ c b).toNat
    let e := s.mmaCheck c pair ws as wa aa lat
    if e ≠ 0 then s.unitRaise c e else
    let dep := pairDepth pair
    let tw := pairW pair ws
    let ta := pairA pair as
    let wb := if lat then (match (s.rod c.ph).latch with | some x => x.bytes | none => [])
      else s.beadRead c.ph wa (operandBytes tw dep 64)
    let ab := s.beadRead c.ph aa (operandBytes ta dep 16)
    let tile := mmaTile tw ta (linesOf tw dep 64 wb) (linesOf ta dep 16 ab) ((s.rod c.ph).tget t) zero
    let s1 := s.onRod c.ph (fun r => { (r.tsetRows t 0 tile) with latch := if lat then r.latch else some ⟨pair, ws, as, wb⟩ })
    s1.vdone c []
  | _ => s

/-- MMA.* in the ordinary form. -/
def execMma (l : Fin 512) (s : State) : Res :=
  .next (s.issueUnit l (fun o => match o with | .mma _ _ _ _ _ _ lat _ _ => !lat | _ => false) (fun c s => s.mma c))

/-- MMA.*.L, the latched-weight form (R81). -/
def execMmaLatched (l : Fin 512) (s : State) : Res :=
  .next (s.issueUnit l (fun o => match o with | .mma _ _ _ _ _ _ lat _ _ => lat | _ => false) (fun c s => s.mma c))

end Sys2Proof.Machine
end

