-- ==== Sys2Proof/Machine/RodCarry.lean ====
section
/-! DEFINITION. The carry unit (spec 05 R111, R112, 07 R150 to R160): the row map, the classes of rows, and the five functions. -/

namespace Sys2Proof.Machine

/-- Word `n` of the row map in force; zero where no map is in force ("no adapter" in every row, R111). The spec names no bank or output
width then: they read zero, so that CARRY.MIX writes no operand and CARRY.UP has no column to lie beyond (DESIGN CHOICE, log entry
111). -/
def Rod.mapWord (r : Rod) (n : Nat) : W64 := nth 0 r.rowMap n

/-- Fields of the map record (Table 7.4). -/
def mapB (w : List W64) : Nat := bits (nth 0 w 0) 47 32
def mapIn (w : List W64) : Nat := bits (nth 0 w 0) 31 16
def mapOut (w : List W64) : Nat := bits (nth 0 w 0) 15 0
def mapXT (w : List W64) : Nat := bits (nth 0 w 1) 55 52
def mapUT (w : List W64) : Nat := bits (nth 0 w 1) 51 48
def mapStride (w : List W64) : Nat := bits (nth 0 w 1) 47 32
def mapSpan (w : List W64) : Nat := bits (nth 0 w 1) 31 16
def mapOrder (w : List W64) : Nat := bits (nth 0 w 1) 15 8
/-- Reduction groups G of the projection's input, and the power of two N that holds them (R153). -/
def groupsOf (w : List W64) : Nat := ceilDiv (64 * mapIn w) 256
def groupsPow (w : List W64) : Nat := 2 ^ ceilLog2 (groupsOf w)

/-- Whether a row entry is mapped, and its block address. -/
def entMapped (e : W64) : Bool := bit e 63
def entAddr (e : W64) : Nat := bits e 21 0

/-- Every rule of Table 7.4 but those of block addresses (R156). -/
def mapOk (w : List W64) : Bool :=
  decide (bits (nth 0 w 0) 63 48 = 0) && decide (bits (nth 0 w 1) 63 56 = 0) && decide (bits (nth 0 w 1) 7 0 = 0) &&
  (w.drop 2).all (fun e => decide (bits e 62 56 = 0) && decide (bits e 31 22 = 0)) &&
  [0, 64, 128, 256, 512].contains (mapB w) &&
  decide (1 ≤ mapIn w) && decide (mapIn w ≤ 1024) && decide (1 ≤ mapOut w) && decide (mapOut w ≤ 1024) &&
  decide (9 ≤ mapXT w) && decide (mapXT w ≤ 11) && decide (9 ≤ mapUT w) && decide (mapUT w ≤ 11) &&
  decide (5 ≤ mapStride w) && decide (mapOrder w ≤ 8) && decide (2 ^ mapOrder w ≤ groupsPow w) &&
  decide (mapSpan w % 2 ^ mapOrder w = 0)

/-- The carry status record (R160): add to its word `n`. -/
def carryStatus (n : Nat) : Nat := 0x3F0100 + 8 * n
def State.carryPut (s : State) (ph n : Nat) (v : W64) : State := s.beadWrite ph (carryStatus n) (leBytes 8 v.toNat)
def State.carryAdd (s : State) (ph n k : Nat) : State :=
  if k = 0 then s else s.carryPut ph n (w64 (leNat (s.beadRead ph (carryStatus n) 8)) + w64 k)

/-- Class of a row (R157). -/
inductive RowClass where
  | basis | plain | bare | malformed
deriving DecidableEq, Repr

/-- Fields of a coefficient block header (Table 7.3). -/
def hdB (h : List W64) : Nat := bits (nth 0 h 0) 63 48
def hdRank (h : List W64) : Nat := bits (nth 0 h 0) 47 32
def hdForm (h : List W64) : Nat := bits (nth 0 h 0) 31 24
def hdFmt (h : List W64) : Nat := bits (nth 0 h 0) 23 16
def hdScaleB (h : List W64) : Nat := bits (nth 0 h 0) 15 8
def hdScaleA (h : List W64) : Nat := bits (nth 0 h 0) 7 0
def hdAlpha (h : List W64) : W32 := (nth 0 h 1).setWidth 32
def hdOut (h : List W64) : Nat := bits (nth 0 h 2) 31 16
def hdIn (h : List W64) : Nat := bits (nth 0 h 2) 15 0

/-- Reserved fields zero, a format code of Table 7.3, unused scales zero. -/
def hdClean (h : List W64) : Bool :=
  decide (bits (nth 0 h 1) 63 32 = 0) && decide (bits (nth 0 h 2) 63 32 = 0) && decide (bits (nth 0 h 3) 63 24 = 0) &&
  decide (hdFmt h ≤ 1) && (hdFmt h == 0 || (hdScaleA h == 0 && hdScaleB h == 0))

def rankOk (form r : Nat) : Bool := decide (4 ≤ r) && decide (r % 4 = 0) && decide (r ≤ if form = 1 then 64 else 256)

/-- The class of a row from its map entry and its block's header (R157). -/
def rowClass (w : List W64) (e : W64) (h : List W64) : RowClass :=
  if !entMapped e || h.all (fun x => x == 0) then .bare
  else if hdForm h == 1 && hdB h == mapB w && rankOk 1 (hdRank h) && hdClean h then .basis
  else if hdForm h == 2 && hdIn h == mapIn w && hdOut h == mapOut w && rankOk 2 (hdRank h) && hdClean h then .plain
  else .malformed

/-- Element size in bytes of a header's format. -/
def hdSize (h : List W64) : Nat := if hdFmt h = 0 then 1 else 2

/-- Size of a coefficient block (R154). -/
def blockSize (w h : List W64) : Nat :=
  if hdForm h = 1 then 32 + 2 * hdRank h * hdB h * hdSize h
  else 32 + hdRank h * (256 * ceilDiv (64 * mapIn w) 256 + 64 * mapOut w) * hdSize h

/-- A row of the tile as a carry function meets it. -/
structure CRow where
  m : Nat
  cls : RowClass
  blk : Nat
  hdr : List W64

/-- The 16 rows, classified (R157). -/
def State.carryRows (s : State) (ph : Nat) : List CRow :=
  let w := (s.rod ph).rowMap
  (List.range 16).map (fun m =>
    let e := nth 0 w (m + 2)
    let h := if entMapped e then s.bead.readWords (2 ^ 22 * ph + entAddr e) 4 else []
    ⟨m, rowClass w e h, entAddr e, h⟩)

/-- Element `idx` of a block as a decoded coefficient c(·), under the given scale byte (07, "Arithmetic of the two forms"). -/
def State.coef (s : State) (ph : Nat) (r : CRow) (scale idx : Nat) : W32 :=
  let a := 2 ^ 22 * ph + r.blk + 32
  if hdFmt r.hdr = 0 then f32Round (Elt.scaledVal .e4m3 (s.bead.read1 (a + idx)).toNat scale)
  else BitVec.ofNat 32 (leNat (s.bead.readN (a + 2 * idx) 2) * 65536)

/-- FP32 value at a bead offset. -/
def State.bead32 (s : State) (ph off : Nat) : W32 := s.bead.read32 (2 ^ 22 * ph + off)

/-- Sum of products over the tree T (R151). -/
def treeDot (n : Nat) (f g : Nat → W32) : W32 := ftree ((List.range n).map (fun i => fmul (f i) (g i)))

/-- Steps 2 and 3 of R151 for one basis row: u from z. -/
def State.mixRow (s : State) (ph : Nat) (r : CRow) (b zAddr : Nat) : List W32 :=
  let rank := hdRank r.hdr
  let z := (List.range b).map (fun j => s.bead32 ph (zAddr + 4 * j))
  let w := (List.range rank).map (fun i =>
    treeDot b (fun j => s.coef ph r (hdScaleA r.hdr) (i * b + j)) (fun j => nth 0 z j))
  (List.range b).map (fun j =>
    treeDot rank (fun i => s.coef ph r (hdScaleB r.hdr) (rank * b + i * b + j)) (fun i => nth 0 w i))

/-- Blocks of 32 of a list. -/
def blocks32 : Nat → List W32 → List (List W32)
  | 0, _ => []
  | n + 1, l => l.take 32 :: blocks32 n (l.drop 32)

/-- û of a row: its element bytes and its scale bytes, b of them and b ÷ 32 (step 4 of R151). -/
def uHat (t : Elt) (b : Nat) (u : List W32) : List Nat × List Nat :=
  let bs := blocks32 (b / 32) u
  (bs.flatMap (fun x => (mxBlockCodes t x).1), bs.map (mxScaleCode t))

/-- Number of û operands (R152, R158). -/
def mixOperands (b : Nat) : Nat := if b = 0 then 0 else if b < 256 then 256 / b else b / 256

/-- Row image of û operand k: 256 elements and 8 scales (R152, R158). -/
def mixRowOperand (b k : Nat) (u : List Nat × List Nat) : List Nat × List Nat :=
  if b < 256 then
    (List.replicate (k * b) 0 ++ u.1 ++ List.replicate (256 - k * b - b) 0,
     List.replicate (k * b / 32) 0 ++ u.2 ++ List.replicate (8 - k * b / 32 - b / 32) 0)
  else ((u.1.drop (256 * k)).take 256, (u.2.drop (8 * k)).take 8)

/-- The bytes of û operand k from its 16 rows. -/
def mixOperand (b k : Nat) (rows : List (List Nat × List Nat)) : List Byte :=
  let rs := rows.map (mixRowOperand b k)
  (rs.flatMap (·.1) ++ rs.flatMap (·.2)).map (BitVec.ofNat 8)

/-- x̂_k of row m from the operand at `x` (R153): zero at or beyond d_in. -/
def State.xhat (s : State) (ph : Nat) (w : List W64) (x m k j : Nat) : W32 :=
  if 256 * k + j ≥ 64 * mapIn w then 0 else
  match Elt.ofCode (mapXT w) with
  | none => 0
  | some t =>
    f32Round (t.scaledVal (s.bead.read1 (2 ^ 22 * ph + x + 256 * m + j)).toNat
      (s.bead.read1 (2 ^ 22 * ph + x + 4096 + 8 * m + j / 32)).toNat)

/-- CARRY.DOWN's values of one plain row over the span (R153 steps 1 and 2, R158). -/
def State.downRow (s : State) (ph : Nat) (w : List W64) (r : CRow) (xa : Nat) : List W32 :=
  let k0 := mapSpan w
  let din := 256 * groupsOf w
  (List.range (hdRank r.hdr)).map (fun i =>
    ftree ((List.range (2 ^ mapOrder w)).map (fun q =>
      let k := k0 + q
      if k ≥ groupsOf w then 0 else
      treeDot 256 (fun j => s.coef ph r (hdScaleA r.hdr) (i * din + 256 * k + j))
        (fun j => s.xhat ph w (xa + 1024 * mapStride w * q) r.m k j))))

/-- t_c of a plain row (R153 step 3). -/
def State.upVal (s : State) (ph : Nat) (w : List W64) (r : CRow) (ha c : Nat) : W32 :=
  let rank := hdRank r.hdr
  let u0 := rank * (256 * groupsOf w)
  treeDot rank (fun i => s.coef ph r (hdScaleB r.hdr) (u0 + c * rank + i)) (fun i => s.bead32 ph (ha + 1024 * r.m + 4 * i))

/-- Bytes of bead memory a carry function reads: operands, headers of mapped rows, blocks of the rows it acts on. A block counts whole
where the function uses one of its two matrices (DESIGN CHOICE, log entry 111). -/
def carryReads (w : List W64) (rows : List CRow) (act : RowClass) (ops : List (Nat × Nat)) : List (Nat × Nat) :=
  ops ++ (rows.filter (fun r => r.hdr ≠ [])).map (fun r => (r.blk, 32)) ++
    (rows.filter (fun r => r.cls = act)).map (fun r => (r.blk, blockSize w r.hdr))

/-- The checks of a carry function in the order of R78 and R109: BEAD_RANGE, MISALIGNED, PROTECTION, POISON. A range of no bytes
stands for an address operand that moves none: at or above 4 MiB it draws BEAD_RANGE too (R89). -/
def State.carryCheck (s : State) (ph : Nat) (reads writes : List (Nat × Nat)) (misaligned : Bool) : Nat :=
  if (reads ++ writes).any (fun x => decide (x.1 + x.2 > 0x400000) || decide (x.1 ≥ 0x400000)) then 0x06
  else if misaligned then 0x03
  else if writes.any (fun x => decide (x.2 ≠ 0) && decide (x.1 + x.2 > 0x3F0000)) then 0x05
  else if reads.any (fun x => s.beadRangeBad ph x.1 x.2) then 0x08
  else 0

/-- What every carry function but CARRY.MAP counts: malformed rows, and rows acted on in word `n` of the status record. -/
def State.carryCount (s : State) (c : Ctx) (rows : List CRow) (act : RowClass) (n : Nat) : State :=
  let bad := (rows.filter (fun r => r.cls = .malformed)).length
  let k := (rows.filter (fun r => r.cls = act)).length
  let s1 := (s.carryAdd c.ph 0 bad).bump (cntPart c.p 9) bad
  if n = 0 then s1 else s1.carryAdd c.ph n k

/-- Each row in turn. -/
def State.eachRow (rows : List CRow) (f : CRow → State → State) (s : State) : State := rows.foldl (fun s r => f r s) s

/-- Change row m of accumulator t through a function of the column. -/
def State.accRow (s : State) (ph t m : Nat) (f : Nat → W32 → W32) : State :=
  s.onRod ph (fun r => r.tset t m ((List.range 64).map (fun c => f c (nth 0 (r.tget t m) c))))

/-- CARRY.MAP (R155, R156). -/
def State.carryMap (s : State) (c : Ctx) (a : Nat) : State :=
  let e := s.carryCheck c.ph [(a, 144)] [] (decide (a % 32 ≠ 0))
  if e ≠ 0 then s.unitRaise c e else
  let w := s.bead.readWords (2 ^ 22 * c.ph + a) 18
  let mapped := (w.drop 2).filter entMapped
  if mapped.any (fun x => decide (entAddr x + 32 > 0x400000)) then s.unitRaise c 0x06
  else if mapped.any (fun x => decide (entAddr x % 32 ≠ 0)) then s.unitRaise c 0x03
  else if mapOk w then (s.onRod c.ph (fun r => { r with rowMap := w })).vdone c []
  else
    let s1 := s.onRod c.ph (fun r => { r with rowMap := [] })
    (((s1.carryAdd c.ph 1 1).carryPut c.ph 2 (w64 a)).bump (cntPart c.p 8) 1).vdone c []

/-- CARRY.MIX (R158). -/
def State.carryMix (s : State) (c : Ctx) (a b : Nat) : State :=
  let w := (s.rod c.ph).rowMap
  let rows := s.carryRows c.ph
  let bw := mapB w
  let n := mixOperands bw
  let writes := (List.range n).map (fun k => (b + 0x1400 * k, 4224))
  let e := s.carryCheck c.ph (carryReads w rows .basis [(a, 64 * bw)]) ((b, 0) :: writes) (decide (a % 32 ≠ 0) || decide (b % 1024 ≠ 0))
  if e ≠ 0 then s.unitRaise c e else
  match Elt.ofCode (mapUT w) with
  | none => (s.carryCount c rows .basis 3).vdone c writes
  | some t =>
    let us := rows.map (fun r =>
      if r.cls = .basis then uHat t bw (s.mixRow c.ph r bw (a + 4 * bw * r.m))
      else (List.replicate bw 0, List.replicate (bw / 32) 0))
    let s1 := (List.range n).foldl (fun s k => s.unitWrite c (b + 0x1400 * k) (mixOperand bw k us) (some .carry)) s
    (s1.carryCount c rows .basis 3).vdone c writes

/-- CARRY.DOWN (R158). -/
def State.carryDown (s : State) (c : Ctx) (a b : Nat) : State :=
  let w := (s.rod c.ph).rowMap
  let rows := s.carryRows c.ph
  let live := (List.range (2 ^ mapOrder w)).filter (fun q => decide (mapSpan w + q < groupsOf w))
  let ops := live.map (fun q => (a + 1024 * mapStride w * q, 4224))
  let e := s.carryCheck c.ph (carryReads w rows .plain ((a, 0) :: ops)) [(b, 16384)] (decide (a % 32 ≠ 0) || decide (b % 32 ≠ 0))
  if e ≠ 0 then s.unitRaise c e else
  let out := rows.flatMap (fun r =>
    let v := if r.cls = .plain then s.downRow c.ph w r a else []
    (v ++ List.replicate (256 - v.length) (0 : W32)).flatMap (fun (x : W32) => leBytes 4 x.toNat))
  ((s.unitWrite c b out (some .carry)).carryCount c rows .plain 4).vdone c [(b, 16384)]

/-- CARRY.UP (R112, R158). -/
def State.carryUp (s : State) (c : Ctx) (t a b : Nat) : State :=
  let w := (s.rod c.ph).rowMap
  let rows := s.carryRows c.ph
  let mis := decide (a % 32 ≠ 0) || decide (b % 64 ≠ 0) || (!w.isEmpty && decide (64 * mapOut w ≤ b))
  let e := s.carryCheck c.ph (carryReads w rows .plain [(a, 16384)]) [] mis
  if e ≠ 0 then s.unitRaise c e else
  let s1 := s.eachRow (rows.filter (fun r => r.cls = .plain)) (fun r s' =>
    s'.accRow c.ph t r.m (fun col y => ffma (hdAlpha r.hdr) (s.upVal c.ph w r a (b + col)) y))
  (s1.carryCount c rows .plain 5).vdone c []

/-- CARRY.ADD (R158): step 6 of R151 for basis rows. -/
def State.carryAddRows (s : State) (c : Ctx) (t a : Nat) : State :=
  let w := (s.rod c.ph).rowMap
  let rows := s.carryRows c.ph
  let e := s.carryCheck c.ph ([(a, 4096)] ++ (rows.filter (fun r => r.hdr ≠ [])).map (fun r => (r.blk, 32))) []
    (decide (a % 32 ≠ 0))
  if e ≠ 0 then s.unitRaise c e else
  let s1 := s.eachRow (rows.filter (fun r => r.cls = .basis && !w.isEmpty)) (fun r s' =>
    s'.accRow c.ph t r.m (fun col y => ffma (hdAlpha r.hdr) (s.bead32 c.ph (a + 256 * r.m + 4 * col)) y))
  (s1.carryCount c rows .basis 0).vdone c []

/-- The five carry functions by code (Table 5.6). -/
def State.carryFn (s : State) (c : Ctx) : State :=
  match c.op with
  | .carry f t a b _ =>
    let x := (s.s_ c a).toNat
    let y := (s.s_ c b).toNat
    if f = 0 then s.carryMap c x else if f = 1 then s.carryMix c x y else if f = 2 then s.carryDown c x y
    else if f = 3 then s.carryUp c t x y else s.carryAddRows c t x
  | _ => s

def isCarry (n : Nat) (o : RodOp) : Bool := match o with | .carry f _ _ _ _ => f == n | _ => false

def execCarryMap (l : Fin 512) (s : State) : Res := .next (s.issueUnit l (isCarry 0) (fun c s => s.carryFn c))
def execCarryMix (l : Fin 512) (s : State) : Res := .next (s.issueUnit l (isCarry 1) (fun c s => s.carryFn c))
def execCarryDown (l : Fin 512) (s : State) : Res := .next (s.issueUnit l (isCarry 2) (fun c s => s.carryFn c))
def execCarryUp (l : Fin 512) (s : State) : Res := .next (s.issueUnit l (isCarry 3) (fun c s => s.carryFn c))
def execCarryAdd (l : Fin 512) (s : State) : Res := .next (s.issueUnit l (isCarry 4) (fun c s => s.carryFn c))

end Sys2Proof.Machine
end

