-- ==== Sys2Proof/Machine/RodUnits.lean ====
section
/-! DEFINITION. The queues of a rod's local asynchronous units: what an instruction does when its unit starts it, the start of those
that wait, completion (spec 03 R41 to R44, 04 R75, R90). -/

namespace Sys2Proof.Machine

/-- What a unit does with the instruction `c`. -/
def State.runOp (s : State) (c : Ctx) : State :=
  match c.op with
  | .vec f _ _ _ _ _ _ =>
    if f = 0x40 then s.vcvtToOp c else if f = 0x41 then s.vcvtScOp c else if f = 0x42 then s.vcvtFromOp c else s.vecOp c
  | .vld _ _ _ _ => s.vldOp c
  | .vst _ _ _ _ => s.vstOp c
  | .acc _ _ _ _ _ _ => s.accOp c
  | .mma _ _ _ _ _ _ _ _ _ => s.mma c
  | .carry _ _ _ _ _ => s.carryFn c
  | _ => s

/-- The unit's oldest instruction starts where it waits and nothing holds it: the rod has raised nothing, its partition runs, the
governor does not hold the unit, no older instruction of another unit owes a register it uses. -/
def State.startHead (s : State) (l : Nat) (u : AUnit) : State :=
  let ph := s.phys l
  let r := s.rod ph
  match r.queueOf u, s.partOf l with
  | e :: q, some p =>
    let c : Ctx := ⟨l, ph, p, e.pc, e.word, e.ord, e.op, e.clash⟩
    if !e.started && !e.supp && r.raised.isEmpty && !r.reported && decide ((s.part p).st = .running) && s.canStart c u then
      (s.onRod ph (fun r => r.setQueue u q)).runOp c
    else s
  | _, _ => s

/-- The local units of a rod start what they can. -/
def State.startUnits (s : State) (l : Nat) : State := ((s.startHead l .matrix).startHead l .vector).startHead l .carry

/-- The local units of every rod of a partition start what they can. -/
def State.startPart (s : State) (p : Nat) : State := s.forEach (s.rodsOf p) (fun l s => s.startUnits l)

/-- The oldest instruction of a local unit completes, if it has been started: its counter counts (R44). A suppressed one counts the same
way, after the older ones of its unit (R75). -/
def Rod.popUnit (r : Rod) (u : AUnit) : Rod :=
  match r.queueOf u with
  | [] => r
  | e :: q =>
    if !e.started && !e.supp then r else
    let r1 := r.setQueue u q
    match e.cnt with | some n => r1.addCnt n 1 | none => r1

/-- Whether an older instruction of the remote-memory unit that names the same counter has not completed (R75). -/
def Rod.olderSame (r : Rod) (o : RemOp) : Bool :=
  r.rem.any (fun x => decide (x.ord < o.ord) && decide (o.cnt ≠ none) && decide (x.cnt = o.cnt))

/-- The oldest suppressed instruction of the remote-memory unit that no older one of its counter holds back counts (R75). -/
def Rod.popSuppressed (r : Rod) : Rod :=
  match r.rem.find? (fun o => o.kind == .suppressed && !r.olderSame o) with
  | none => r
  | some o =>
    let r1 := { r with rem := r.rem.filter (fun x => decide (x.tag ≠ o.tag)) }
    match o.cnt with | some n => r1.addCnt n 1 | none => r1

/-- ASYNC_COMPLETE. Instructions already started run to completion whatever holds the partition (R90); what waited behind starts. -/
def execAsyncComplete (l : Fin 512) (u : AUnit) (s : State) : Res :=
  .next (if s.live then
      (s.onRod (s.phys l) (fun r => if u = .remote then r.popSuppressed else r.popUnit u)).startUnits l
    else s)

end Sys2Proof.Machine
end

