-- ==== Sys2Proof/Machine/Link.lean ====
section
/-! DEFINITION. Sending over an optical port (spec 14 R305 to R310): header flits, credits, groups, the replay store. -/

namespace Sys2Proof

open Sys2Proof.Machine

/-- Fields of a header flit (Table 14.4). -/
def Flit.op (f : Flit) : Nat := bits f.w0 63 58
def Flit.source (f : Flit) : Nat := bits f.w0 57 55
def Flit.part (f : Flit) : Nat := bits f.w0 54 51
def Flit.tag (f : Flit) : Nat := bits f.w0 50 35
def Flit.len (f : Flit) : Nat := bits f.w0 34 23 + 1
def Flit.width (f : Flit) : Nat := bits f.w0 22 20
def Flit.status (f : Flit) : Nat := bits f.w0 19 16
def Flit.nData (f : Flit) : Nat := bits f.w0 15 8
def Flit.addr (f : Flit) : Nat := bits f.w1 49 0
def Flit.opnd (f : Flit) : W64 := f.w2
/-- Flits that a header takes with its data. -/
def Flit.size (f : Flit) : Nat := 1 + f.nData

end Sys2Proof

namespace Sys2Proof.Machine

/-- A header flit with its data. -/
def mkFlit (op src part tag len width status addr : Nat) (w2 w3 : W64) (data : List Byte) : Flit :=
  ⟨w64 (op % 64 * 2 ^ 58 + src % 8 * 2 ^ 55 + part % 16 * 2 ^ 51 + tag % 65536 * 2 ^ 35 + (len - 1) % 4096 * 2 ^ 23 +
      width % 8 * 2 ^ 20 + status % 16 * 2 ^ 16 + ceilDiv data.length 32 % 256 * 2 ^ 8),
   w64 (addr % 2 ^ 50), w2, w3, data⟩

/-- The three channels (R307). -/
inductive LChan where
  | req | rsp | ctrl
deriving DecidableEq, Repr

/-- Channel of a flit operation (Table 14.5); none for a reserved one. -/
def opChan (op : Nat) : Option LChan :=
  if (1 ≤ op ∧ op ≤ 7) ∨ op = 0x10 ∨ op = 0x13 ∨ op = 0x14 then some .req
  else if op = 8 ∨ op = 9 ∨ op = 0xA ∨ op = 0x11 ∨ op = 0x12 then some .rsp
  else if op = 0 ∨ op = 0x18 ∨ op = 0x19 ∨ op = 0x20 ∨ op = 0x21 then some .ctrl
  else none

def flitChan (f : Flit) : LChan := (opChan f.op).getD .ctrl

def Port.credits (x : Port) : LChan → Nat
  | .req => x.credReq | .rsp => x.credRsp | .ctrl => x.credCtrl
def Port.spend (x : Port) (c : LChan) (n : Nat) : Port :=
  match c with
  | .req => { x with credReq := x.credReq - n }
  | .rsp => { x with credRsp := x.credRsp - n }
  | .ctrl => { x with credCtrl := x.credCtrl - n }

/-- Whether a link passes flits at all: from frame lock on; before authentication only CTRL and SPDM (R306). -/
def Port.passes (x : Port) (c : LChan) : Bool :=
  match x.train with
  | .up => true
  | .authed => true
  | .locked => decide (c = .ctrl)
  | .identified => decide (c = .ctrl)
  | _ => false

/-! ### Groups (R305, R306, R361) -/

/-- 32 bytes as a slot, and a slot's bytes. -/
def slotOf (bs : List Byte) : LSlot :=
  let w (k : Nat) : W64 := w64 (leNat ((bs.drop (8 * k)).take 8))
  ⟨w 0, w 1, w 2, w 3⟩
def LSlot.bytes (x : LSlot) : List Byte := [x.w0, x.w1, x.w2, x.w3].flatMap (fun w => leBytes 8 w.toNat)

/-- A header flit and its data flits, in the traffic slots they take; zeros fill the last data flit. -/
def flitSlots (f : Flit) : List LSlot :=
  ⟨f.w0, f.w1, f.w2, f.w3⟩ :: (List.range f.nData).map (fun k => slotOf ((f.data.drop (32 * k)).take 32))

/-- Cut slots at the 79 traffic slots of a group (fuel: groups): a boundary may fall between a header and its data (R308). -/
def cutGroups (l : List LSlot) : Nat → List (List LSlot)
  | 0 => []
  | k + 1 => if l.length ≤ 79 then [l] else l.take 79 :: cutGroups (l.drop 79) k

/-- The position a port reaches, if its entry names the port. -/
def State.posOf (s : State) (p : Nat) : Option Nat :=
  (List.range 8).find? (fun k => decide (1 ≤ (s.peer k).st) && decide ((s.peer k).st ≤ 4) && decide ((s.peer k).port = p))

/-- The direction identifier of what a port sends: receiver's and sender's position; a shelf takes 0xFF (R361). -/
def State.direction (s : State) (p : Nat) : Nat :=
  let dest := match s.posOf p with | some k => if (s.peer k).shelf then 0xFF else k | none => 0xFF
  dest * 2 ^ 8 + s.fab.pos

/-- Word 0 of a link flit (Table 14.3). -/
def linkWord0 (g : SentGroup) : W64 := w64 (g.seq % 2 ^ 20 * 2 ^ 40 + g.ack % 2 ^ 20 * 2 ^ 20)

/-- The traffic slots of a group as they are transmitted, with the tag: IDLE flits fill it up; from authentication on it is encrypted
under the direction's key of its session, with its transmit count and the direction as IV and word 0 as additional data. -/
def State.groupBody (s : State) (p : Nat) (g : SentGroup) : List Byte × List Byte :=
  let plain := (g.slots ++ List.replicate (79 - g.slots.length) (LSlot.mk 0 0 0 0)).flatMap LSlot.bytes
  if g.session = 0 then (plain, List.replicate 16 0)
  else Config.gcmSeal (Config.linkKey g.session (s.direction p)) (leBytes 8 g.count ++ leBytes 4 (s.direction p))
    (leBytes 8 (linkWord0 g).toNat) plain

/-- The four frames of a group: traffic slots 0 to 78, and the link flit with its CRC in slot 79 (R305). -/
def State.frames (s : State) (p : Nat) (g : SentGroup) : List LFrame :=
  let b := s.groupBody p g
  let low := g.creds.1 * 2 ^ 20 + g.creds.2.1 * 2 ^ 8 + g.creds.2.2
  let w0 := leBytes 8 (linkWord0 g).toNat
  let crc := crc32 (b.1 ++ w0 ++ leBytes 4 low)
  let all := b.1 ++ w0 ++ leBytes 8 (crc.toNat * 2 ^ 32 + low) ++ b.2
  (List.range 4).map (fun k => ⟨0x2D35C, BitVec.ofNat 2 k, (all.drop (640 * k)).take 640⟩)

/-- One group leaves a port with these traffic slots: its link flit acknowledges the last group verified and returns the credits owed;
sequence, transmit count and key are kept for replay (R305 to R307, R310). A key switch takes effect at its group (R361). -/
def State.sendSlots (s : State) (p : Nat) (l : List LSlot) : State :=
  let x := s.port p
  let sw := match x.switchAt with | some b => decide (b = x.txSeq) | none => false
  let x1 := if sw then { x with session := x.session + 1, txCount := 0, switchAt := none } else x
  let c := (min x1.owed.1 4095, min x1.owed.2.1 4095, min x1.owed.2.2 255)
  let g : SentGroup := ⟨x1.txSeq, x1.txCount, x1.session, l, (x1.rxExpect + 2 ^ 20 - 1) % 2 ^ 20, c⟩
  let x2 := { x1 with txSeq := (x1.txSeq + 1) % 2 ^ 20, txCount := x1.txCount + 1,
                      owed := (x1.owed.1 - c.1, x1.owed.2.1 - c.2.1, x1.owed.2.2 - c.2.2),
                      sent := (x1.sent ++ [g]).drop (x1.sent.length + 1 - 1024) }
  (s.setPort p x2).send (.group p (s.frames p g))

/-- A flit and its data leave a port, in as many groups as they take. -/
def State.sendGroup (s : State) (p : Nat) (f : Flit) : State :=
  (s.onPort p (fun x => x.spend (flitChan f) f.size)).forEach (cutGroups (flitSlots f) 3) (fun l s => s.sendSlots p l)

/-- A group of IDLE flits only, which returns the credits owed (R307). -/
def State.idleGroup (s : State) (p : Nat) : State :=
  let x := s.port p
  if x.owed = (0, 0, 0) || !x.passes .ctrl then s else s.sendSlots p []

/-- Send a flit, or let it wait for credits behind the flits of its channel that wait already (R307). -/
def State.linkSend (s : State) (p : Nat) (f : Flit) : State :=
  let x := s.port p
  if !x.passes (flitChan f) then s
  else if x.waiting.any (fun g => decide ((flitChan g) = (flitChan f))) || decide (x.credits (flitChan f) < f.size) then
    s.setPort p { x with waiting := x.waiting ++ [f] }
  else s.sendGroup p f

/-- Send what waits and now has credits, in order within each channel (fuel: flits waiting). -/
def State.drain (s : State) (p : Nat) : List Flit → State
  | [] => s
  | f :: r =>
    let x := s.port p
    if x.waiting.any (fun g => decide ((flitChan g) = (flitChan f))) || decide (x.credits (flitChan f) < f.size) then
      State.drain (s.setPort p { x with waiting := x.waiting ++ [f] }) p r
    else State.drain (s.sendGroup p f) p r
def State.drainWaiting (s : State) (p : Nat) : State :=
  let w := (s.port p).waiting
  (s.onPort p (fun x => { x with waiting := [] })).drain p w

/-- Whether a position is PRESENT. -/
def State.present (s : State) (k : Nat) : Bool := decide ((s.peer k).st = 3)

/-- A CTRL message: Operand carries its kind (1 lane swap, 2 swap confirmed, 3 key switch, 4 leave, 5
the identity), Operand 2 its argument (DESIGN CHOICE, log entry 131). -/
def State.ctrlSend (s : State) (p what arg : Nat) : State :=
  (s.linkSend p (mkFlit 0x20 s.fab.pos 0 0 1 0 0 0 (w64 what) (w64 arg) [])).send (.ctrl p what arg)

end Sys2Proof.Machine
end

