-- ==== Sys2Proof/Machine/RodRemote.lean ====
section
/-! DEFINITION. The remote-memory unit of a rod (spec 05 R113 to R115, 06 R129 to R144): issue, completion, timeout and fences; and
the report of a rod's exception (04 R89 to R91). What the operations do at their targets is in Remote.lean. -/

namespace Sys2Proof.Machine

/-! ### Addresses (R124, R125) -/

def adClass (a : Nat) : Nat := a / 2 ^ 53 % 8
def adPeer (a : Nat) : Nat := a / 2 ^ 50 % 8
def adSpace (a : Nat) : Nat := a / 2 ^ 48 % 4
def adForm1 (a : Nat) : Bool := decide (a / 2 ^ 52 % 2 = 1)
def adRange (a : Nat) : Nat := a % 2 ^ 52

/-- Operand size in bytes of an atomic width code (R82). -/
def atomSize (w : Nat) : Nat := if w = 1 || w = 4 then 8 else 4

/-- Flit operation code of an operation (Table 14.5). -/
def RemKind.flitOp : RemKind → Nat
  | .get => 1 | .put => 2 | .atom .add _ => 3 | .atom .max _ => 4 | .atom .cas _ => 5 | .atom .xchg _ => 6 | .taddR => 7
  | _ => 1
def RemKind.width : RemKind → Nat | .atom _ w => w | _ => 0

/-- The block's flit tag of a rod's operation; tags of engines and of the beam have bit 15 set. -/
def flitTag (l tag : Nat) : Nat := l + 512 * (tag % 64)

/-- The pieces of at most 4,096 bytes that one operation crosses a link in (R309): offset and length. -/
def pieces (len : Nat) : List (Nat × Nat) :=
  (List.range (ceilDiv len 4096)).map (fun k => (4096 * k, min 4096 (len - 4096 * k)))

/-- The flits of an operation to a peer. -/
def State.opFlits (s : State) (l p : Nat) (o : RemOp) : List Flit :=
  let mk (off n : Nat) (data : List Byte) : Flit :=
    mkFlit o.kind.flitOp s.fab.pos p (flitTag l o.tag) n o.kind.width 0 (o.addr % 2 ^ 50 + off) o.b o.c data
  match o.kind with
  | .get => (pieces o.len).map (fun x => mk x.1 x.2 [])
  | .put => (pieces o.len).map (fun x => mk x.1 x.2 ((o.data.drop x.1).take x.2))
  | _ => [mk 0 1 []]

/-- What a rod's operation to a class beyond the block draws before it leaves (R124 to R127, R144): nothing for a local class;
otherwise a response, or none where its flits go to the peer. -/
def State.classResp (s : State) (a len : Nat) : Option Nat :=
  let c := adClass a
  if c = 4 then
    let k := adPeer a
    if decide (2 ≤ adSpace a) || (adSpace a == 1 && decide (a / 2 ^ 32 % 2 ^ 16 ≠ 0)) || decide (k = s.fab.pos)
        || (adSpace a == 0 && decide (a % 2 ^ 48 + len > 2 ^ 48)) then some 1
    else if !s.present k || (s.peer k).shelf then some 5 else none
  else if c = 5 then
    some (if a / 2 ^ 45 % 2 ^ 8 ≠ 0 || decide (a % 2 ^ 45 + len > (if s.rd 0x600048 = 0 then 2 ^ 45 else (s.rd 0x600048).toNat)) then 1 else 2)
  else if c = 3 then some (if a % 2 ^ 47 + len > 2 ^ 47 then 1 else 2)
  else if 6 ≤ c then some 1
  else none

/-- A rod's operation enters its remote-memory unit; towards a peer its flits are sent (R309). -/
def State.remIssue (s : State) (c : Ctx) (o : RemOp) : State :=
  let r := s.rod c.ph
  let o1 := { o with tag := r.nextTag, done := s.classResp o.addr o.len }
  let s1 := s.enqueueRem c.ph o1
  if adClass o.addr = 4 && o1.done.isNone then
    s1.forEach (s.opFlits c.l c.p o1) (fun f s => s.linkSend (s.peer (adPeer o.addr)).port f) else s1

/-- An operation with the fields every kind shares. -/
def mkRem (c : Ctx) (kind : RemKind) (cnt : Option Nat) (addr len : Nat) : RemOp :=
  ⟨0, c.ord, c.pc.toNat % 2 ^ 17, c.word, kind, cnt, 0, addr % 2 ^ 56, 0, len, 0, 0, [], [], none, 0, [], [], 0, true⟩

/-- GET (R113, R115). -/
def execGet (l : Fin 512) (s : State) : Res :=
  .next (s.issue l (fun o => match o with | .rget _ _ _ _ => true | _ => false) (fun c s =>
    match c.op with
    | .rget a b len cnt =>
      let bead := (s.s_ c b).toNat
      if bead + len > 0x400000 then s.raise c 0x06
      else if bead + len > 0x3F0000 then s.raise c 0x05
      else s.remIssue c { mkRem c .get cnt (s.s_ c a).toNat len with bead := bead, spans := [(bead, len)] }
    | _ => s))

/-- PUT reads its source bytes as it leaves (R115, R137). -/
def execPut (l : Fin 512) (s : State) : Res :=
  .next (s.issue l (fun o => match o with | .rput _ _ _ _ => true | _ => false) (fun c s =>
    match c.op with
    | .rput a b len cnt =>
      let bead := (s.s_ c b).toNat
      if bead + len > 0x400000 then s.raise c 0x06
      else if s.beadRangeBad c.ph bead len then s.raise c 0x08
      else s.remIssue c { mkRem c .put cnt (s.s_ c a).toNat len with bead := bead, data := s.beadRead c.ph bead len }
    | _ => s))

/-- The four atomics (R114): MISALIGNED where the address is not aligned to the operand. -/
def State.atomIssue (s : State) (c : Ctx) : State :=
  match c.op with
  | .atom op w d a b x cnt =>
    let addr := (s.s_ c a).toNat
    if addr % atomSize w ≠ 0 then s.raise c 0x03
    else s.remIssue c { mkRem c (.atom op w) cnt addr (atomSize w) with dest := d, b := s.s_ c b, c := s.s_ c x }
  | _ => s

def isAtom (k : AtomOp) (o : RodOp) : Bool := match o with | .atom op _ _ _ _ _ _ => op == k | _ => false

def execAadd (l : Fin 512) (s : State) : Res := .next (s.issue l (isAtom .add) (fun c s => s.atomIssue c))
def execAmax (l : Fin 512) (s : State) : Res := .next (s.issue l (isAtom .max) (fun c s => s.atomIssue c))
def execAcas (l : Fin 512) (s : State) : Res := .next (s.issue l (isAtom .cas) (fun c s => s.atomIssue c))
def execAxchg (l : Fin 512) (s : State) : Res := .next (s.issue l (isAtom .xchg) (fun c s => s.atomIssue c))

/-- TADD.R (R120). -/
def execTaddR (l : Fin 512) (s : State) : Res :=
  .next (s.issue l (fun o => match o with | .taddR _ _ _ => true | _ => false) (fun c s =>
    match c.op with
    | .taddR a inc cnt => s.remIssue c { mkRem c .taddR cnt (s.s_ c a).toNat 4 with b := w64i inc }
    | _ => s))

/-! ### Fences (R137) -/

/-- The scope that first covers an operation: 1 block, 2 board, 3 host. A form 0 access is covered by where it was performed, and by no
scope as long as it has not been. -/
def RemOp.scopeOf (o : RemOp) : Nat :=
  let c := adClass o.addr
  if c = 1 && !adForm1 o.addr then o.scope else if c = 4 || c = 5 then 2 else if c = 3 then 3 else 1

/-- Whether an operation holds a fence of this scope: it accesses bead memory until it completes, or its target is in scope. A PUT has
read its source by then. -/
def RemOp.holdsFence (o : RemOp) (scope : Nat) : Bool :=
  match o.kind with
  | .suppressed => false
  | .sampleEmpty => false
  | .get => true
  | .gather => true
  | .sample => true
  | .stream => decide (1 ≤ scope)
  | _ => decide (1 ≤ scope) && decide (o.scopeOf ≤ scope)

/-- A FENCE holds the issue of every younger instruction. -/
def State.fence (s : State) (c : Ctx) : State :=
  match c.op with
  | .fence scope cnt =>
    s.onRod c.ph (fun r => { r with issue := .fencing scope cnt (r.rem.map (·.tag)) })
  | _ => s

def isFence (k : Nat) (o : RodOp) : Bool := match o with | .fence sc _ => sc == k | _ => false

def execFenceL (l : Fin 512) (s : State) : Res := .next (s.issue l (isFence 0) (fun c s => s.fence c))
def execFenceB (l : Fin 512) (s : State) : Res := .next (s.issue l (isFence 1) (fun c s => s.fence c))
def execFenceP (l : Fin 512) (s : State) : Res := .next (s.issue l (isFence 2) (fun c s => s.fence c))
def execFenceH (l : Fin 512) (s : State) : Res := .next (s.issue l (isFence 3) (fun c s => s.fence c))

/-- A counter named by an instruction counts. -/
def Rod.countOpt (r : Rod) : Option Nat → Rod
  | some n => r.addCnt n 1
  | none => r

/-- FENCE_COMPLETE: the local units have drained and no operation that held the fence is outstanding. -/
def execFenceComplete (l : Fin 512) (s : State) : Res :=
  let ph := s.phys l
  let r := s.rod ph
  .next (match r.issue with
    | .fencing scope cnt tags =>
      if s.live && r.mq.isEmpty && r.vq.isEmpty && r.cq.isEmpty && !(r.rem.any (fun o => tags.contains o.tag && o.holdsFence scope)) then
        s.setRod ph (({ r with issue := .run, stores := [] }).countOpt cnt)
      else s
    | _ => s)

/-! ### Completion (R134, R141 to R144) -/

/-- An operation leaves the remote-memory unit. -/
def Rod.dropRem (r : Rod) (tag : Nat) : Rod := { r with rem := r.rem.filter (fun o => decide (o.tag ≠ tag)) }

/-- A fatal response: the rod raises REMOTE with the response and the address (R142). -/
def State.remFail (s : State) (ph : Nat) (o : RemOp) (resp : Nat) : State :=
  s.onRod ph (fun r => (r.dropRem o.tag).raise ⟨0x07, o.pc, o.word, o.ord, resp, o.addr⟩)

/-- GET data and its marks reach bead memory (R143); words another unit wrote unordered are free (R123). -/
def State.deliver (s : State) (p ph : Nat) (o : RemOp) : State :=
  (s.unorderedWrite p ph o.bead o.data (o.clash ++ (s.rod ph).openWrites (some .remote))).forEach o.poison (fun x s =>
    s.forEach (granules 8 (2 ^ 22 * ph + o.bead + x.1) x.2) (fun g s => s.poisonBead g))

/-- The old value an atomic writes to s[d] (R114). -/
def oldValue (w : Nat) (v : W64) : W64 :=
  if w = 0 then w64i (v.setWidth 32).toInt else if w = 2 || w = 3 then (v.setWidth 32).setWidth 64 else v

/-- Whether an older operation of the unit has still to read or write bead bytes that this one touches: a unit's own accesses take
effect in its program order (R43). -/
def Rod.olderTouches (r : Rod) (o : RemOp) : Bool :=
  r.rem.any (fun x => decide (x.ord < o.ord) && x.spans.any (fun y => o.spans.any (fun z => overlap y.1 y.2 z.1 z.2)))

/-- REMOTE_RESPONSE: an operation that has been answered, with that response, completes or fails with it (R134, R141, R143). -/
def execRemoteResponse (l : Fin 512) (tag response : Nat) (s : State) : Res :=
  let ph := s.phys l
  let r := s.rod ph
  .next (match r.rem.find? (fun o => decide (o.tag = tag)) with
    | none => s
    | some o =>
      match o.done with
      | none => s
      | some d =>
        if !s.live || response ≠ d then s else
        match o.kind with
        | .get =>
          if r.olderTouches o then s
          else if d = 0 || d = 4 then
            (s.deliver ((s.partOf l).getD 16) ph o).onRod ph (fun r => (r.dropRem tag).countOpt o.cnt)
          else s.remFail ph o d
        | .put => if d = 0 || d = 4 then s.onRod ph (fun r => (r.dropRem tag).countOpt o.cnt) else s.remFail ph o d
        | .atom _ w =>
          if d = 0 then s.onRod ph (fun r => ((r.dropRem tag).sset o.dest (oldValue w o.old)).countOpt o.cnt)
          else s.remFail ph o d
        | .taddR => if d = 0 then s.onRod ph (fun r => (r.dropRem tag).countOpt o.cnt) else s.remFail ph o d
        | _ => s)

/-- Kinds that are performed at the target of their address. -/
def RemKind.toTarget : RemKind → Bool
  | .get => true | .put => true | .atom _ _ => true | .taddR => true | _ => false

/-- REMOTE_TIMEOUT: an operation without a response is abandoned with TIMEOUT (R144); what a GATHER, a STREAM.ARM or a hand-off gives its
unit draws no response of its own. The timers stop in halt (R390). -/
def execRemoteTimeout (l : Fin 512) (tag : Nat) (s : State) : Res :=
  let ph := s.phys l
  .next (match (s.rod ph).rem.find? (fun o => decide (o.tag = tag)) with
    | none => s
    | some o => if s.live && !s.stalled && o.kind.toTarget then s.remFail ph o 0x06 else s)

/-! ### Reporting an exception (R89 to R91, Table 17.1) -/

/-- The oldest of the exceptions raised. -/
def oldestRaised : List Raised → Option Raised
  | [] => none
  | e :: r => some (r.foldl (fun a b => if b.ord < a.ord then b else a) e)

/-- Causes of class Program (Table 4.8), and responses that repeat on re-execution (R142). -/
def programCause (cause resp : Nat) : Bool :=
  if cause = 0x07 then decide (1 ≤ resp) && decide (resp ≤ 3) || decide (resp = 7)
  else cause != 0x08 && cause != 0x0A

/-- The fault class of an exception and the counter of Table 17.1: 1 program, 2 rod hardware, 3 instruction memory (a MACHINE that
carries the mark 16), 4 remote, 6 uncorrectable. A REMOTE with the response POISONED (an atomic) counts with the remote class, of which
Table 17.1 names no row for it (DESIGN CHOICE, log entry 114). -/
def faultClass (cause resp : Nat) : Nat :=
  if programCause cause resp then 1 else if cause = 0x0A then (if resp = 16 then 3 else 2) else if cause = 0x07 then 4 else 6
def faultCounter (cls : Nat) : Nat :=
  if cls = 1 then 0 else if cls = 2 then 1 else if cls = 3 then 2 else if cls = 4 then 3 else 4

/-- The peer table entry of the local shelf, or of this block where none is a shelf. -/
def State.shelfIndex (s : State) : Nat := ((List.range 8).find? (fun k => (s.peer k).shelf)).getD s.fab.pos

/-- The peer, or the shelf, that a block physical address of a partition reaches. -/
def State.peerAt (s : State) (p a : Nat) : Nat :=
  if adClass a = 4 then adPeer a
  else match s.xlat p (adRange a) with
    | .page e _ _ _ => if bits e 55 50 / 32 = 1 then s.shelfIndex else bits e 55 50 / 4 % 8
    | _ => s.shelfIndex

/-- A held partition awaits the peer whose absence it met (R381). -/
def State.awaitPeer (s : State) (p resp a : Nat) : State :=
  if resp = 5 && (s.part p).peerWait.isNone && decide ((s.part p).st = .held) then
    s.onPart p (fun x => { x with peerWait := some (s.peerAt p a, s.time) })
  else s

/-- The exception an unissuable word would raise: FETCH outside the image, ILLEGAL for an illegal word (R54, R88). -/
def State.tryIssue (s : State) (l : Nat) : State := s.issue l (fun _ => false) (fun _ s => s)

/-- ROD_EXCEPTION: the record is written, the partition is HELD, the fault is logged (R90, R91, R370). -/
def execRodException (l : Fin 512) (s : State) : Res :=
  let s0 := s.tryIssue l
  let ph := s0.phys l
  let r := s0.rod ph
  .next (match oldestRaised r.raised, r.reported with
    | some e, false =>
      let multi := decide (1 < r.raised.length)
      let s1 := s0.setRod ph { r with
        reported := true, ecause := BitVec.ofNat 9 (b2n multi * 256 + e.cause), epc := BitVec.ofNat 17 e.pc, eword := e.word }
      let cls := faultClass e.cause e.resp
      let p := (s0.partOf l).getD 0
      let s2 := (s1.faultRecord cls e.cause e.resp p ph e.addr (s1.openStep p)).bump (cntBlk (faultCounter cls)) 1
      let s3 := if e.cause = 0x09 then (if s2.sec.lifecycle = 2 then s2.event 13 else s2).trigger 1 (fun _ => true) else s2
      (s3.holdPart p 1 e.cause e.resp).awaitPeer p e.resp e.addr
    | _, _ => s0)

end Sys2Proof.Machine
end

