-- ==== Sys2Proof/Machine/RodHandoff.lean ====
section
/-! DEFINITION. The instructions of a rod's remote-memory unit that hand work to a block unit: GATHER, STREAM.ARM and the two forms of
SAMPLE.PUT (spec 05 R116 to R118, 08 R178, R179). -/

namespace Sys2Proof.Machine

/-! ### The gather descriptor (08 Table 8.2), as a list of its words -/

def gdMode (d : List W64) : Nat := bits (nth 0 d 0) 63 60
def gdWide (d : List W64) : Bool := bit (nth 0 d 0) 59
def gdHasTenants (d : List W64) : Bool := bit (nth 0 d 0) 58
def gdTenant (d : List W64) : Nat := bits (nth 0 d 0) 57 52
def gdTable (d : List W64) : Nat := bits (nth 0 d 0) 41 32
def gdCount (d : List W64) : Nat := bits (nth 0 d 0) 12 0
def gdBitmap (d : List W64) : Nat := bits (nth 0 d 1) 53 32
def gdList (d : List W64) : Nat := bits (nth 0 d 1) 21 0
def gdTenants (d : List W64) : Nat := bits (nth 0 d 2) 53 32
def gdStride (d : List W64) : Nat := bits (nth 0 d 2) 21 0
def gdRow (d : List W64) : Nat := bits (nth 0 d 3) 15 0
def gdWidth (d : List W64) : Nat := if gdWide d then 8 else 4
/-- Every reserved field is zero. -/
def gdClean (d : List W64) : Bool :=
  decide (bits (nth 0 d 0) 51 42 = 0) && decide (bits (nth 0 d 0) 31 13 = 0) && decide (bits (nth 0 d 1) 63 54 = 0) &&
    decide (bits (nth 0 d 1) 31 22 = 0) && decide (bits (nth 0 d 2) 63 54 = 0) && decide (bits (nth 0 d 2) 31 22 = 0) &&
    decide (bits (nth 0 d 3) 63 16 = 0) && (d.drop 4).all (· == 0)

/-! ### Table descriptors in force (08 Table 8.1) -/

def State.tbl (s : State) (t : Nat) : List W64 := Sparse.get [] s.gth.tables t
def tblKind (d : List W64) : Nat := bits (nth 0 d 0) 63 60
def tblType (d : List W64) : Nat := bits (nth 0 d 0) 59 56
def tblReplaceable (d : List W64) : Bool := bit (nth 0 d 0) 55
def tblHot (d : List W64) : Bool := bit (nth 0 d 0) 54
def tblSharded (d : List W64) : Bool := bit (nth 0 d 0) 53
def tblPart (d : List W64) : Nat := bits (nth 0 d 0) 51 48
def tblVersion (d : List W64) : Nat := bits (nth 0 d 0) 47 32
def tblRow (d : List W64) : Nat := bits (nth 0 d 0) 31 16 * 32
def tblCount (d : List W64) : Nat := bits (nth 0 d 1) 39 0
def tblBase (d : List W64) : Nat := bits (nth 0 d 2) 51 0
def tblSecond (d : List W64) : Nat := bits (nth 0 d 3) 51 0
def tblM (d : List W64) : Nat := bits (nth 0 d 4) 63 32

/-- The row size a gather delivers. -/
def gdSize (d t : List W64) : Nat := if gdMode d = 1 then gdRow d * 32 else tblRow t

/-- The exception a gather raises at the rod: BEAD_RANGE, PROTECTION, MISALIGNED, POISON, or none (R116, R179 steps 1 and 2). -/
def State.gatherTrap (s : State) (ph a dest : Nat) (d t : List W64) : Nat :=
  let n := gdCount d
  let bm := 8 * ceilDiv n 64
  let ends := [a + 64, dest + (n - 1) * gdStride d + gdSize d t, gdList d + n * gdWidth d, gdBitmap d + bm] ++
    (if gdHasTenants d then [gdTenants d + n] else [])
  if ends.any (fun e => decide (e > 0x400000)) || decide (dest ≥ 0x400000) then 0x06
  else if decide (dest ≥ 0x3F0000) || decide (gdBitmap d + bm > 0x3F0000) || decide (gdList d + n * gdWidth d > 0x3F0000) ||
      (gdHasTenants d && decide (gdTenants d + n > 0x3F0000)) then 0x05
  else if a % 32 ≠ 0 || gdList d % gdWidth d ≠ 0 || gdBitmap d % 8 ≠ 0 || dest % 32 ≠ 0 then 0x03
  else if s.beadRangeBad ph a 64 || s.beadRangeBad ph (gdList d) (n * gdWidth d) ||
      (gdHasTenants d && s.beadRangeBad ph (gdTenants d) n) then 0x08
  else 0

/-- The response a gather draws: ACCESS or ADDRESS, or none (R179 steps 3 and 4). -/
def gatherResp (p dest : Nat) (d t : List W64) : Nat :=
  let k := tblKind t
  if tblPart t ≠ p || k = 0 then 2
  else if !gdClean d || !((gdMode d == 0 && 1 ≤ k && k ≤ 3) || (gdMode d == 1 && k == 4 && gdWide d)) ||
      gdCount d = 0 || gdCount d > 4096 ||
      (if gdMode d = 1 then gdRow d = 0 || gdRow d > 32768 else gdRow d ≠ 0) ||
      gdStride d % 32 ≠ 0 || gdStride d < gdSize d t || dest + (gdCount d - 1) * gdStride d + gdSize d t > 0x3F0000 then 1
  else 0

/-- The bead ranges a gather reads and writes after its descriptor: the index list, the tenant list, the rows and the bitmap. -/
def gatherSpans (dest : Nat) (d t : List W64) : List (Nat × Nat) :=
  let n := gdCount d
  [(gdList d, n * gdWidth d), (dest, (n - 1) * gdStride d + gdSize d t), (gdBitmap d, 8 * ceilDiv n 64)] ++
    (if gdHasTenants d then [(gdTenants d, n)] else [])

/-- The gather engine of a logical rod, and the descriptors in its queue (R182, Table 8.4). -/
def engineOf (l : Nat) : Nat := l / 16
def RemOp.inEngine (o : RemOp) : Bool := o.kind == .gather && o.taken && o.done.isNone
def State.engineLoad (s : State) (e : Nat) : Nat :=
  ((List.range 16).map (fun k => ((s.rod (s.phys (16 * e + k))).rem.filter (·.inEngine)).length)).foldl (· + ·) 0

/-- The engine takes the first descriptor that waits for room: of its rods in order, the oldest (DESIGN CHOICE, log
entry 113). -/
def State.engineTake (s : State) (e : Nat) : State :=
  if 64 ≤ s.engineLoad e then s else
  match ((List.range 16).map (fun k => s.phys (16 * e + k))).find? (fun ph => (s.rod ph).rem.any (fun o => !o.taken)) with
  | none => s
  | some ph => s.onRod ph (fun r =>
      match r.rem.find? (fun o => !o.taken) with
      | none => r
      | some o => { r with rem := r.rem.map (fun x => if x.tag = o.tag then { x with taken := true } else x) })

/-- GATHER. -/
def execGather (l : Fin 512) (s : State) : Res :=
  .next (s.issue l (fun o => match o with | .gather _ _ _ => true | _ => false) (fun c s =>
    match c.op with
    | .gather a b cnt =>
      let at_ := (s.s_ c a).toNat
      let dest := (s.s_ c b).toNat
      if at_ + 64 > 0x400000 then s.raise c 0x06 else
      let d := s.bead.readWords (2 ^ 22 * c.ph + at_) 8
      let t := s.tbl (gdTable d)
      let trap := s.gatherTrap c.ph at_ dest d t
      if trap ≠ 0 then s.raise c trap
      else
        let resp := gatherResp c.p dest d t
        s.enqueueRem c.ph { mkRem c .gather cnt at_ 64 with
          bead := dest, data := d.flatMap (fun w => leBytes 8 w.toNat), spans := gatherSpans dest d t,
          taken := resp ≠ 0 || decide (s.engineLoad (engineOf c.l) < 64), done := if resp = 0 then none else some resp }
    | _ => s))

/-- STREAM.ARM: the descriptor's address goes to the Weight streamer (R117). -/
def execStreamArm (l : Fin 512) (s : State) : Res :=
  .next (s.issue l (fun o => match o with | .streamArm _ _ => true | _ => false) (fun c s =>
    match c.op with
    | .streamArm a cnt => s.enqueueRem c.ph (mkRem c .stream cnt (s.s_ c a).toNat 16)
    | _ => s))

/-- SAMPLE.PUT, sub-operation 0: a row count of zero acts as the empty hand-off (R118). -/
def execSamplePut (l : Fin 512) (s : State) : Res :=
  .next (s.issue l (fun o => match o with | .samplePut _ _ _ => true | _ => false) (fun c s =>
    match c.op with
    | .samplePut a b cnt =>
      let at_ := (s.s_ c a).toNat
      if s.s_ c b = 0 then s.enqueueRem c.ph (mkRem c .sampleEmpty cnt 0 0)
      else if at_ ≥ 0x400000 then s.raise c 0x06
      else s.enqueueRem c.ph { mkRem c .sample cnt at_ 0 with bead := at_, b := s.s_ c b, spans := [(at_, 0x400000 - at_)] }
    | _ => s))

/-- SAMPLE.PUT, sub-operation 1: the empty hand-off (R118). -/
def execSamplePutEmpty (l : Fin 512) (s : State) : Res :=
  .next (s.issue l (fun o => match o with | .sampleEmpty _ => true | _ => false) (fun c s =>
    match c.op with
    | .sampleEmpty cnt => s.enqueueRem c.ph (mkRem c .sampleEmpty cnt 0 0)
    | _ => s))

end Sys2Proof.Machine
end

