-- ==== Sys2Proof/Machine/HostBase.lean ====
section
/-! DEFINITION. What the block sends a tenant: outbound messages (15 R326 to R331), interrupt events (R346), completions (R342, R343);
and the fields of a Slate entry (09 Table 9.1). -/

namespace Sys2Proof.Machine

/-! ### Slate fields -/

def Slot.state (x : Slot) : Nat := bits x.w0 63 60
def Slot.kind (x : Slot) : Nat := bits x.w0 59 56
def Slot.part (x : Slot) : Nat := bits x.w0 55 52
def Slot.tenant (x : Slot) : Nat := bits x.w0 51 46
def Slot.prio (x : Slot) : Nat := bits x.w0 45 43
def Slot.strict (x : Slot) : Bool := bit x.w0 42
def Slot.allowCtrl (x : Slot) : Bool := bit x.w0 41
def Slot.keepCache (x : Slot) : Bool := bit x.w0 40
def Slot.adapter (x : Slot) : Nat := bits x.w0 39 16
def Slot.group (x : Slot) : Nat := bits x.w0 15 0
def Slot.prompt (x : Slot) : Nat := bits x.w1 63 47
def Slot.generated (x : Slot) : Nat := bits x.w1 46 30
def Slot.maxNew (x : Slot) : Nat := bits x.w1 29 13
def Slot.profile (x : Slot) : Nat := bits x.w1 12 0
def Slot.root (x : Slot) : Nat := bits x.w2 63 28
def Slot.pages (x : Slot) : Nat := bits x.w2 27 11
def Slot.firstDeadline (x : Slot) : Nat := bits x.w4 63 32
def Slot.target (x : Slot) : Nat := bits x.w4 31 16
def Slot.misses (x : Slot) : Nat := bits x.w4 15 0
def Slot.ring (x : Slot) : Nat := bits x.w7 63 48
def Slot.succ (x : Slot) : Nat := bits x.w7 47 32
def Slot.ttl (x : Slot) : Nat := bits x.w7 31 16
def Slot.buffer (x : Slot) : Nat := bits x.w7 15 0
def Slot.setState (x : Slot) (n : Nat) : Slot := { x with w0 := setBits x.w0 63 60 n }
def Slot.setPages (x : Slot) (n : Nat) : Slot := { x with w2 := setBits x.w2 27 11 n }

/-- Neither FREE nor RETIRED. -/
def Slot.active (x : Slot) : Bool := decide (x.state ≠ 0) && decide (x.state ≠ 7)

/-- The occupied Slate entries, ascending. -/
def State.entries (s : State) : List Nat := (s.slate.filter (fun e => decide (e.2.state ≠ 0))).map (·.1)
/-- Those of one partition, and of one tenant. -/
def State.entriesOf (s : State) (p : Nat) : List Nat := s.entries.filter (fun i => decide ((s.slot i).part = p))
def State.entriesOfTenant (s : State) (t : Nat) : List Nat := s.entries.filter (fun i => decide ((s.slot i).tenant = t))

/-! ### Outbound messages -/

/-- The home channel of a tenant (R331). -/
def State.home (s : State) (t : Nat) : Nat := s.rf (0x700100 + 8 * t) 1 0

/-- A header beat (Table 15.1). -/
def mkHdr (ty t tag len status space off : Nat) (operand : W64) : List W64 :=
  [w64 (ty % 16 * 2 ^ 60 + t % 64 * 2 ^ 54 + tag % 65536 * 2 ^ 32 + len % 4096 * 2 ^ 20 + status % 16 * 2 ^ 16),
   w64 (space % 4 * 2 ^ 62 + off % 2 ^ 47), operand, 0, 0, 0, 0, 0]

/-- The data beats of a range: its bytes in the 64-byte spans that hold them, zero elsewhere. -/
def beatsOf (off : Nat) (bs : List Byte) : List Byte :=
  let b := List.replicate (off % 64) 0 ++ bs
  b ++ List.replicate (ceilDiv b.length 64 * 64 - b.length) 0

/-- The bytes of a message's range within its data beats (R326). -/
def rangeOf (off len : Nat) (data : List Byte) : List Byte := (data.drop (off % 64)).take len

/-- A posted message waits to leave on its tenant's home channel. -/
def State.postMsg (s : State) (t : Nat) (m : OutMsg) : State :=
  let c := s.home t
  s.setChan c { s.chan c with posted := (s.chan c).posted ++ [m] }

/-- A range cut at the 4 KiB boundaries (R327). -/
def cut4k (off : Nat) (bs : List Byte) : Nat → List (Nat × List Byte)
  | 0 => []
  | k + 1 =>
    if bs.isEmpty then [] else
    let n := 4096 - off % 4096
    (off, bs.take n) :: cut4k (off + n) (bs.drop n) k

/-- Write bytes into a tenant's window. -/
def State.hostWrite (s : State) (t off : Nat) (bs : List Byte) : State :=
  s.forEach (cut4k off bs (bs.length / 4096 + 2)) (fun x s =>
    s.postMsg t ⟨mkHdr 1 t 0 (x.2.length - 1) 0 0 x.1 0, beatsOf x.1 x.2⟩)

/-! ### Interrupt vectors (R346) -/

/-- One event is added to a vector. -/
def State.vecEvent (s : State) (t v : Nat) : State :=
  s.onTen t (fun x =>
    let e := Sparse.get Vec.init x.vecs v
    let e1 : Vec := ⟨e.pending + 1, if e.pending = 0 then s.time else e.oldest⟩
    { x with vecs := Sparse.put Vec.init x.vecs v e1 })

/-! ### Completions -/

def State.cq (s : State) (t q : Nat) : CplQueue := Sparse.get CplQueue.init (s.ten t).cq q
def State.setCq (s : State) (t q : Nat) (x : CplQueue) : State :=
  s.onTen t (fun y => { y with cq := Sparse.put CplQueue.init y.cq q x })
def State.sq (s : State) (t q : Nat) : SubQueue := Sparse.get SubQueue.init (s.ten t).sq q
def State.setSq (s : State) (t q : Nat) (x : SubQueue) : State :=
  s.onTen t (fun y => { y with sq := Sparse.put SubQueue.init y.sq q x })

def sqReg (t q off : Nat) : Nat := tReg t (0x100 + 0x20 * q + off)
def cqReg (t q off : Nat) : Nat := tReg t (0x200 + 0x20 * q + off)
def ringReg (t r off : Nat) : Nat := tReg t (0x8000 + 0x20 * r + off)

def State.sqOn (s : State) (t q : Nat) : Bool := bit (s.rd (sqReg t q 8)) 0
def State.sqSize (s : State) (t q : Nat) : Nat := 2 ^ s.rf (sqReg t q 8) 12 8
/-- The completion queue of a submission queue (R337). -/
def State.cqOf (s : State) (t q : Nat) : Nat := s.rf (sqReg t q 8) 18 16
def State.cqOn (s : State) (t q : Nat) : Bool := bit (s.rd (cqReg t q 8)) 0
def State.cqSize (s : State) (t q : Nat) : Nat := 2 ^ s.rf (cqReg t q 8) 12 8

/-- Places of a completion queue neither written and unreturned nor reserved (R343). -/
def State.cqFree (s : State) (t q : Nat) : Nat :=
  let c := s.cq t q
  if s.cqOn t q then s.cqSize t q - (c.wr - c.head) - c.reserved else 0

/-- A completion entry that names request `i` (Table 15.8), or none. -/
def State.mkCompletion (s : State) (kind status q cmd : Nat) (req : Option Nat) (resp : Nat) (resv : Bool) : Completion :=
  match req with
  | none => ⟨status, cmd, kind, q, 0, 0, 0, 0, resp, 0, resv⟩
  | some i =>
    let x := s.slot i
    ⟨status, cmd, kind, q, i, x.w5, x.generated, x.prompt, resp, x.misses, resv⟩

/-- A completion waits to be posted in the completion queue of a submission queue; one of a tenant that is not ATTACHED is discarded
(R347). -/
def State.complete (s : State) (t q : Nat) (c : Completion) : State :=
  if (s.ten t).st = .attached then
    let cq := s.cqOf t q
    let x := s.cq t cq
    s.setCq t cq { x with waiting := x.waiting ++ [c] }
  else s

/-- The COMMAND completion of an entry: it uses the place its fetch reserved. -/
def State.commandDone (s : State) (t q cmd status : Nat) (req : Option Nat) : State :=
  s.complete t q (s.mkCompletion 3 status q cmd req 0 true)

/-- An INFORMATIONAL completion of a request; without room it is dropped and counted (R343). -/
def State.inform (s : State) (i status : Nat) : State :=
  let x := s.slot i
  let t := x.tenant
  let cq := s.cqOf t x.queue
  if s.cqFree t cq = 0 then s.bump (cntTen t 2) 1
  else
    let c := s.cq t cq
    (s.setCq t cq { c with reserved := c.reserved + 1 }).complete t x.queue (s.mkCompletion 2 status x.queue x.cmd (some i) 0 true)

/-- The FINAL completion of a request (R342); it is posted when its queue has room. -/
def State.final (s : State) (i status resp : Nat) : State :=
  let x := s.slot i
  if (s.ten x.tenant).st = .attached then
    s.complete x.tenant x.queue (s.mkCompletion 0 status x.queue x.cmd (some i) resp false)
  else s.onSlot i (fun x => { x with posted := true })

/-! ### Measurements (16 R355, R356) -/

/-- `n` bytes of the window from an 8-byte aligned offset. -/
def State.regBytes (s : State) (off n : Nat) : List Byte :=
  ((List.range (ceilDiv n 8)).flatMap (fun k => leBytes 8 (s.rd (off + 8 * k)).toNat)).take n

/-- What a partition's measurement covers: its state, base model identifier, model version, the digest of its layer program (zero without a
loaded model), owner key digest, partition public key (Table 16.2; this order and the byte forms are the model's, log entry 130). -/
def State.partBytes (s : State) (p : Nat) : List Byte :=
  let x := s.part p
  let st := match x.st with | .off => 0 | .loading => 1 | .running => 2 | .held => 3 | .resetting => 4
  let m := match x.load.state, x.load.model with
    | .done, some m => leBytes 8 m.modelId0.toNat ++ leBytes 8 m.modelId1.toNat ++ leBytes 4 x.load.version ++
        Config.sha384 (m.program.flatMap (fun w => leBytes 8 w.toNat))
    | _, _ => List.replicate 68 0
  leBytes 1 st ++ m ++ s.regBytes (0x24040 + 0x100 * p) 48 ++ (Config.partitionKey s.sec.lifecycle p (freeBytes x.nonce 4)).2

/-- A create, load, deletion or reset of a partition has completed: its measurement reflects the partition from now on. -/
def State.measurePart (s : State) (p : Nat) : State := s.onPart p (fun x => { x with measured := s.partBytes p })

/-- The measured bytes of a partition: during a load, identifier, version and program digest read as zero. -/
def State.partMeasured (s : State) (p : Nat) : List Byte :=
  let x := s.part p
  let bs := if x.measured.isEmpty then s.partBytes p else x.measured
  if x.load.state = .loading then bs.take 1 ++ List.replicate 68 0 ++ bs.drop 69 else bs

/-- The values of the measurement blocks of Table 16.2, in index order: digests, and for index 3 the raw lifecycle byte. -/
def State.measurements (s : State) : List (List Byte) :=
  [Config.sha384 Config.bootRom, s.sec.image, leBytes 1 s.sec.lifecycle,
    Config.sha384 ([0x20018, 0x20048, 0x20050, 0x20058, 0x20060, 0x20068, 0x20070].flatMap (fun k => leBytes 8 (s.rd k).toNat))] ++
    (List.range 16).map (fun p => Config.sha384 (s.partMeasured p))

end Sys2Proof.Machine
end

