-- ==== Sys2Proof/Machine/UnitOps.lean ====
section
/-! DEFINITION. Operations of the block's units beyond the block (12 R262, R269, 14 R309, R318): the Tier mover's, the gather engines',
the Weight streamer's, the beam's, and the parts of a rod's GET that lie in lower pages. To a peer or the shelf they go as flits, to a
tenant's window as host attach messages; sectors of shelf and tier 3 frames travel sealed (16 R362, R363). -/

namespace Sys2Proof.Machine

/-- Whether the local shelf is PRESENT (14 R318). -/
def State.shelfUp (s : State) : Bool := (List.range 8).any (fun k => s.present k && (s.peer k).shelf)

/-- The response that reading a lower frame draws (06 Table 6.3): PEER_ABSENT where its peer or shelf is not PRESENT, ACCESS where its
tenant is not ATTACHED (15 R331), otherwise none. -/
def State.lowerResp (s : State) (e : W64) : Nat :=
  let tgt := bits e 55 50
  if entryTier e = 3 then (if (s.ten tgt).st = .attached then 0 else 2)
  else if tgt / 32 = 1 then (if s.shelfUp then 0 else 5)
  else if s.present (tgt / 4 % 8) then 0 else 5

/-! ### Sealed sectors (16 R362, R363) -/

/-- Whether the frames at an address are sealed: the shelf's and those in tenant windows. -/
def sealedAt (a : Nat) : Bool := decide (adClass a = 5) || decide (adClass a = 3)

/-- The additional data of a sector: 0x80 or the tenant, and its offset. -/
def sealAad (a : Nat) : List Byte :=
  leBytes 8 (if adClass a = 5 then 0x80 * 2 ^ 56 + a % 2 ^ 45 else a / 2 ^ 47 % 64 * 2 ^ 56 + a % 2 ^ 47)

/-- Seal the sectors of a range from its start (fuel: sectors): each takes the next value of the seal counter, and its record the value
and the tag. -/
def State.sealSectors (s : State) (a : Nat) (bs : List Byte) : Nat → List Byte × State
  | 0 => ([], s)
  | k + 1 =>
    let n := (s.sec.sealCount + 1) % 2 ^ 96
    let x := Config.gcmSeal (freeBytes s.sec.sealKey 4) (leBytes 12 n) (sealAad a) (bs.take 4096)
    let s1 := { s with sec := { s.sec with
      sealCount := n, seals := Sparse.put 0 s.sec.seals (a / 4096) n, sealTags := Sparse.put [] s.sec.sealTags (a / 4096) x.2 } }
    let r := s1.sealSectors (a + 4096) (bs.drop 4096) k
    (x.1 ++ r.1, r.2)

/-- Open the sectors of a range (fuel: sectors); none where a tag fails. -/
def State.openSectors (s : State) (a : Nat) (bs : List Byte) : Nat → Option (List Byte)
  | 0 => some []
  | k + 1 =>
    match Config.gcmOpen (freeBytes s.sec.sealKey 4) (leBytes 12 (Sparse.get 0 s.sec.seals (a / 4096))) (sealAad a) (bs.take 4096)
        (Sparse.get [] s.sec.sealTags (a / 4096)), s.openSectors (a + 4096) (bs.drop 4096) k with
    | some x, some r => some (x ++ r)
    | _, _ => none

/-! ### The operations in flight -/

def State.onOps (s : State) (f : List UnitOp → List UnitOp) : State := { s with fab := { s.fab with ops := f s.fab.ops } }
/-- The operations for a use, and none of them any more: their responses find nothing. -/
def State.opsOf (s : State) (u : UnitUse) : List UnitOp := s.fab.ops.filter (fun o => o.use == u)
def State.dropOps (s : State) (u : UnitUse) : State := s.onOps (fun l => l.filter (fun o => o.use != u))

/-- The port through which a class 0b100 or 0b101 address is reached, where its peer or the shelf is PRESENT. -/
def State.unitPort (s : State) (a : Nat) : Option Nat :=
  if adClass a = 4 then (if s.present (adPeer a) && !(s.peer (adPeer a)).shelf then some (s.peer (adPeer a)).port else none)
  else if s.shelfUp then some (s.peer s.shelfIndex).port else none

/-- An operation ends where every part of it is answered: what a sealed read brought is opened, and draws INTEGRITY where a tag fails
(16 R363). -/
def State.endOp (s : State) (o : UnitOp) : State :=
  let put (o : UnitOp) (s : State) : State := s.onOps (fun l => l.map (fun x => if x.tag = o.tag then o else x))
  if o.left ≠ 0 then put o s
  else if o.op = 1 && o.sealed && (o.status = 0 || o.status = 4) then
    match s.openSectors o.at_ o.data (o.span / 4096) with
    | some bs => put { o with data := (bs.drop (o.addr - o.at_)).take o.len, resp := some o.status } s
    | none => ((put { o with data := [], resp := some 8 } s).bump (cntBlk 21) 1).event 6
  else put { o with resp := some o.status } s

/-- A unit's operation leaves the block: for partition `p`, of a flit operation, with its data and operands. One whose peer or shelf is
not PRESENT is answered PEER_ABSENT, one to a tenant that is not ATTACHED ACCESS (06 R144, 15 R331); a WRITE is posted, so it is
answered as it is sent. -/
def State.unitOp (s : State) (u : UnitUse) (p op a len : Nat) (data : List Byte) (sealed : Bool) (width : Nat) (b c : W64) : State :=
  let lo := if sealed then a / 4096 * 4096 else a
  let n := if sealed then ceilDiv (a + len) 4096 * 4096 - lo else len
  let ps := pieces (max 1 n)
  let o : UnitOp := ⟨0x8000 + s.fab.nextOp % 0x8000, u, op, a, len, lo, n, sealed, if op = 1 then n else ps.length,
    if op = 1 then List.replicate n 0 else [], 0, none, s.time⟩
  let add (r : Option Nat) (s : State) : State :=
    { s with fab := { s.fab with ops := s.fab.ops ++ [{ o with resp := r }], nextOp := s.fab.nextOp + 1 } }
  if adClass a = 3 then
    let t := a / 2 ^ 47 % 64
    if (s.ten t).st ≠ .attached then add (some 2) s
    else if op = 1 then
      let h := s.home t
      add none (s.setChan h { s.chan h with
        reads := (s.chan h).reads ++ (cut4k (lo % 2 ^ 47) (List.replicate n 0) (n / 4096 + 2)).map (fun x =>
          (⟨0, h, t, x.1, x.2.length, [], 8, 0, 0, 0, some o.tag⟩ : OutRead)) })
    else
      let d := if sealed then s.sealSectors lo data (n / 4096) else (data, s)
      add (some 0) (d.2.hostWrite t (lo % 2 ^ 47) d.1)
  else if adClass a = 4 || adClass a = 5 then
    match s.unitPort a with
    | none => add (some 5) s
    | some port =>
      let d := if sealed && op = 2 then s.sealSectors lo data (n / 4096) else (data, s)
      (add none d.2).forEach ps (fun x s => s.linkSend port
        (mkFlit op s.fab.pos p o.tag x.2 width 0 (lo % 2 ^ 50 + x.1) b c ((d.1.drop x.1).take x.2)))
  else add (some 1) s

/-- Ask for ranges that no operation of this use has asked for yet. -/
def State.askFor (s : State) (u : UnitUse) (p : Nat) (l : List (Nat × Nat)) : State :=
  s.forEach l.eraseDups (fun x s =>
    if (s.opsOf u).any (fun o => o.addr == x.1 && o.len == x.2) then s else s.unitOp u p 1 x.1 x.2 [] (sealedAt x.1) 0 0 0)

/-- What a fetched range gave: the response, and the bytes; none while it is not answered. -/
def fetched (l : List UnitOp) (a n : Nat) : Option (Nat × List Byte) :=
  (l.find? (fun o => o.addr == a && o.len == n)).bind (fun o => o.resp.map (fun r => (r, o.data)))

/-! ### Answers -/

/-- A response of the link: data at the place that its Address names, a piece done, or an error that ends the operation. -/
def UnitOp.take (o : UnitOp) (f : Flit) : UnitOp :=
  if f.status ≠ 0 && f.status ≠ 4 then { o with left := 0, status := f.status }
  else if o.op = 1 then
    if f.op = 9 then
      let k := f.addr - o.at_ % 2 ^ 50
      let bs := f.data.take (min f.len (o.span - k))
      { o with data := putAt o.data k bs, left := o.left - bs.length, status := if f.status = 4 then 4 else o.status }
    else if f.status = 4 then { o with left := 0, status := 4 } else o
  else { o with left := o.left - 1 }

/-- A response finds the unit's operation that went to that position under its tag. -/
def State.unitResponse (s : State) (src : Nat) (f : Flit) : State :=
  match s.fab.ops.find? (fun o => o.tag == f.tag && o.resp.isNone &&
      ((adClass o.addr == 4 && adPeer o.addr == src) || (adClass o.addr == 5 && (s.peer src).shelf))) with
  | none => s
  | some o => s.endOp (o.take f)

/-- Bytes of a READ reach the operation it serves, or the response that ended the READ. -/
def State.unitRead (s : State) (tag off : Nat) (r : Nat) (bs : List Byte) : State :=
  match s.fab.ops.find? (fun o => o.tag == tag && o.resp.isNone) with
  | none => s
  | some o =>
    if r ≠ 0 then s.endOp { o with left := 0, status := r }
    else s.endOp { o with data := putAt o.data (off - o.at_ % 2 ^ 47) bs, left := o.left - bs.length }

/-- Unanswered operations that a condition picks end with a response. -/
def State.opsFail (s : State) (sel : UnitOp → Bool) (resp : Nat) : State :=
  s.onOps (fun l => l.map (fun o => if o.resp.isNone && sel o then { o with resp := some resp } else o))

/-- Operations to a peer or the shelf without an answer 20 µs after they were sent take TIMEOUT; the timers stop in halt (06 R144,
17 R390). -/
def State.opsExpire (s : State) : State :=
  if s.stalled then s
  else s.opsFail (fun o => decide (4 ≤ adClass o.addr) && decide (o.since.toNat + 20000 ≤ s.time.toNat)) 6

/-- The parts of rods' GETs that have been answered reach their operations; the last answers the GET (06 R129, R143). -/
def State.settleRods (s : State) : State :=
  s.forEach (s.fab.ops.filter (fun o => o.resp.isSome)) (fun x s =>
    match x.use, x.resp with
    | .rod ph ord off, some r =>
      let s1 := s.onOps (fun l => l.filter (fun o => o.tag != x.tag))
      let last := !(s1.fab.ops.any (fun o => match o.use with | .rod h t _ => h == ph && t == ord | _ => false))
      s1.onRod ph (fun y => { y with rem := y.rem.map (fun o =>
        if o.ord = ord && o.done.isNone then
          if r ≠ 0 && r ≠ 4 then { o with done := some r }
          else { o with
            data := putAt o.data off x.data, poison := if r = 4 then o.poison ++ [(off, x.len)] else o.poison,
            done := if last then some 0 else none }
        else o) })
    | _, _ => s)

/-- Answers that change nothing are dropped. -/
def State.settleNotes (s : State) : State := s.onOps (fun l => l.filter (fun o => o.use != .note || o.resp.isNone))

end Sys2Proof.Machine
end

