-- ==== Sys2Proof/Machine/Tier.lean ====
section
/-! DEFINITION. The Tier mover (12 R262 to R276) and the imbalance monitor (R286). -/

namespace Sys2Proof.Machine

/-! ### Pools and frames (R270, R276) -/

def poolReg (n off : Nat) : Nat := 0x400200 + 0x20 * n + off
/-- Location kind of a pool: 0 off, 1 local HBM, 2 peer HBM, 3 shelf, 4 tenant window; pool 0 is always local (Table 21.14). -/
def State.poolKind (s : State) (n : Nat) : Nat := if n = 0 then 1 else s.rf (poolReg n 0) 63 60
def State.poolFrames (s : State) (n : Nat) : List Nat := Sparse.get [] s.tier.pools n
def State.setPool (s : State) (n : Nat) (l : List Nat) : State :=
  { s with tier := { s.tier with pools := Sparse.put [] s.tier.pools n l } }

/-- Tier of a pool's frames. -/
def poolTier (kind : Nat) : Nat := if kind = 1 then 1 else if kind = 4 then 3 else 2
/-- The Target field of a page in a pool's frame (Table 12.3). -/
def State.poolTarget (s : State) (n : Nat) : Nat :=
  match s.poolKind n with
  | 2 => s.rf (poolReg n 0) 58 56 * 4
  | 3 => 32 + s.fab.pos * 4
  | 4 => s.rf (poolReg n 0) 53 48
  | _ => 0

/-- Draw the first free frame of a pool that is aligned to the page size. -/
def State.drawFrame (s : State) (pool size : Nat) : Option (Nat × State) :=
  let l := s.poolFrames pool
  if s.poolKind pool = 0 then none else
  match l.find? (fun f => decide (f % size = 0)) with
  | none => none
  | some f => some (f, s.setPool pool (l.erase f))

/-- A frame goes back to its pool. -/
def State.returnFrame (s : State) (pool frame : Nat) : State := s.setPool pool (s.poolFrames pool ++ [frame])

/-- Key of a frame in use: its HBM offset, or its block physical address below tier 1. -/
def frameKey (e : W64) : Nat := if entryTier e = 1 then entryFrame e else extAddr e 0
def State.setOrigin (s : State) (key v : Nat) : State :=
  { s with tier := { s.tier with origin := Sparse.put 0 s.tier.origin key v } }

/-- A frame that an entry named waits before it returns to its pool (R276). -/
def State.releaseFrame (s : State) (e : W64) : State :=
  let k := frameKey e
  let o := Sparse.get 0 s.tier.origin k
  let s1 := s.setOrigin k 0
  if o = 0 then s1
  else { s1 with tier := { s1.tier with releasing := s1.tier.releasing ++ [⟨o - 1, entryFrame e, s.time⟩] } }

/-- FRAME_RELEASE: the k-th frame on its way back returns to its pool, no sooner than 25 µs after the entry change (R276). -/
def execFrameRelease (k : Nat) (s : State) : Res :=
  .next (match s.tier.releasing[k]? with
    | none => s
    | some r =>
      if s.live && decide (r.since.toNat + 25000 ≤ s.time.toNat) then
        { s with tier := { s.tier with releasing := s.tier.releasing.eraseIdx k } }.returnFrame r.pool r.frame
      else s)

/-! ### Filling -/

/-- Zero a range of physical HBM, clearing its poison. -/
def State.hbmZero (s : State) (off len : Nat) : State :=
  let g := if s.flt.lostCh.isEmpty then [] else granules 32 off len
  { s with
    hbm := s.hbm.zero off (off + len)
    hbmPoison := Sparse.clear s.hbmPoison (off / 32) ((off + len) / 32)
    flt := { s.flt with hbmClean := g.foldl (fun m g => Sparse.put false m g true) s.flt.hbmClean } }

/-! ### Page table entries (R264, R265) -/

/-- A page entry. -/
def pageEntry (tier pinned large writable moving target frame : Nat) : W64 :=
  w64 (2 * 2 ^ 62 + tier % 4 * 2 ^ 60 + pinned * 2 ^ 59 + large * 2 ^ 58 + writable * 2 ^ 57 + moving * 2 ^ 56 +
    target % 64 * 2 ^ 50 + frame % 2 ^ 50)

def pageSize (large : Bool) : Nat := if large then 2 ^ 21 else 2 ^ 16
def entryLarge (e : W64) : Bool := bit e 58

/-- A table of a level, aligned to its size, cut from a pool 0 frame and zeroed (R264). -/
def State.newTable (s : State) (lvl : Nat) : Option (Nat × State) :=
  let sz := tableSize lvl
  let a := ceilDiv s.tier.carve.1 sz * sz
  if a + sz ≤ s.tier.carve.2 then
    some (a, { s.hbmZero a sz with tier := { s.tier with carve := (a + sz, s.tier.carve.2) } })
  else
    match s.drawFrame 0 65536 with
    | none => none
    | some (f, s1) => some (f, { s1.hbmZero f sz with tier := { s1.tier with carve := (f + sz, f + 65536) } })

/-- Where the page entry of an address lies at a target level, with tables allocated on the way; none where no table can be had or an
entry on the way is no table (fuel: levels left). -/
def State.ensure (s : State) (addr tbl target : Nat) : Nat → Option (Nat × State)
  | 0 => none
  | lvl + 1 =>
    let at_ := tbl + 8 * levelIndex lvl addr
    let e := s.hbmWord at_
    if lvl = target then some (at_, s)
    else if bits e 63 62 = 1 then s.ensure addr (bits e 39 8 * 256) target lvl
    else if bits e 63 62 = 0 then
      match s.newTable (lvl - 1) with
      | none => none
      | some (a, s1) => (s1.hbmWrite64 at_ (w64 (2 ^ 62 + a))).ensure addr a target lvl
    else none

def State.ptRoot (s : State) (p : Nat) : Nat := (s.rd (0x400100 + 8 * p)).toNat
def State.addT1 (s : State) (p : Nat) (d : Int) : State := s.onPart p (fun x => { x with t1 := (x.t1 + d).toNat })
/-- Whether the partition's share of tier 1 takes so many bytes more (R270). -/
def State.t1Room (s : State) (p n : Nat) : Bool := decide ((s.part p).t1 + n ≤ s.rf (pReg p 0x18) 18 0 * 2 ^ 21)

/-- The entry that MAP writes for a frame of a pool. -/
def State.poolEntry (s : State) (pool f : Nat) (large pin wr : Bool) : W64 :=
  pageEntry (poolTier (s.poolKind pool)) (b2n pin) (b2n large) (b2n wr) 0 (s.poolTarget pool) f

/-- MAP (Table 12.5) of a page in a frame of local HBM: status and state. -/
def State.tierMap (s : State) (p page : Nat) (large : Bool) (pool : Nat) (pin wr : Bool) : Nat × State :=
  let sz := pageSize large
  match s.xlat p page with
  | .page _ _ _ _ => (6, s)
  | _ =>
    if !s.t1Room p sz then (3, s) else
    match s.drawFrame pool sz with
    | none => (3, s)
    | some (f, s1) =>
      match s1.ensure page (s1.ptRoot p) (b2n large) 4 with
      | none => (3, s)
      | some (at_, s2) =>
        if s2.hbmWord at_ ≠ 0 then (6, s)
        else (0, (((s2.hbmZero f sz).hbmWrite64 at_ (s.poolEntry pool f large pin wr)).setOrigin f (pool + 1)).addT1 p sz)

/-! ### Commands (R271 to R275) -/

def TierCmd.op (c : TierCmd) : Nat := bits c.w0 63 60
def TierCmd.large (c : TierCmd) : Bool := bit c.w0 59
def TierCmd.pool (c : TierCmd) : Nat := bits c.w0 58 56
def TierCmd.part (c : TierCmd) : Nat := bits c.w0 55 52
def TierCmd.page (c : TierCmd) : Nat := bits c.w0 51 0
def TierCmd.unpin (c : TierCmd) : Bool := bit c.w1 2
def TierCmd.pin (c : TierCmd) : Bool := bit c.w1 1
def TierCmd.writable (c : TierCmd) : Bool := bit c.w1 0
/-- Reserved fields zero, page aligned, and Pool zero where the operation has none (Table 12.4). -/
def TierCmd.formed (c : TierCmd) : Bool :=
  decide (bits c.w1 63 3 = 0) && decide (bits c.w2 63 56 = 0) && decide (bits c.w2 2 0 = 0) && decide (bits c.w3 63 32 = 0) &&
    decide (c.page % pageSize c.large = 0) && (decide (c.op = 1) || decide (c.op = 3) || decide (c.op = 4) || decide (c.pool = 0))
/-- Two commands concern pages that overlap. -/
def TierCmd.meets (c : TierCmd) (p page size : Nat) : Bool :=
  decide (c.part = p) && decide (c.page < page + size) && decide (page < c.page + pageSize c.large)

/-- A unit's aligned 8-byte write to a block physical address (06 Table 6.1): bead memory, the partition range or HBM, a tenant's
window, a peer or the shelf. A non-zero reserved field draws ADDRESS, so nothing is written (R124); so does the register window, into which
the Tier mover writes nothing (DESIGN CHOICE, log entry 116). -/
def State.unitPut8 (s : State) (p addr : Nat) (v : W64) : State :=
  let bs := leBytes 8 v.toNat
  match addr / 2 ^ 53 % 8 with
  | 0 => if addr / 2 ^ 32 % 2 ^ 21 = 0 && addr / 2 ^ 22 % 2 = 0 && decide (addr / 2 ^ 23 % 512 < s.design.rods)
      then s.beadWrite (s.phys (addr / 2 ^ 23 % 512)) (addr % 2 ^ 22) bs else s
  | 1 => if addr / 2 ^ 52 % 2 = 0 then s.rangeWrite p (addr % 2 ^ 52) bs
      else if addr / 2 ^ 40 % 2 ^ 12 = 0 && decide (addr % 2 ^ 40 + 8 ≤ s.design.hbmCap) then s.hbmWrite (addr % 2 ^ 40) bs else s
  | 3 => (s.unitOp .note p 2 addr 8 bs false 0 0 0).settleNotes
  | 4 => (s.unitOp .note p 2 addr 8 bs false 0 0 0).settleNotes
  | 5 => (s.unitOp .note p 2 addr 8 bs false 0 0 0).settleNotes
  | _ => s

/-- A demotion of a load that ends without space, or with its pool's peer gone, fails the load (13 R295). -/
def State.demoteLost (s : State) (c : TierCmd) (status : Nat) : State :=
  let ld := (s.part c.part).load
  let gone := s.poolKind c.pool == 2 && !s.present (s.rf (poolReg c.pool 0) 58 56)
  if ld.state = .loading && ld.staged.contains c.page && (gone || status == 3) then
    s.onPart c.part (fun x => { x with load := { x.load with bad := some (if gone then (6, 0xA, c.page) else (0x0B, 5, c.page)) } })
  else s

/-- The reply of a command (R271). A PROMOTE of a resuming request that fails costs the request its blocks (R272). -/
def State.tierReply (s : State) (c : TierCmd) (status : Nat) : State :=
  let s1 := if bits c.w2 55 0 = 0 then s
    else s.unitPut8 c.part (bits c.w2 55 0) (w64 (status * 2 ^ 56 + bits c.w3 31 0))
  match c.slate with
  | some (i, id) =>
    if c.op = 3 && (status == 3 || status == 7) && (s1.slot i).resuming && (s1.slot i).w5 == id then
      s1.onSlot i (fun x => { x with lost := true })
    else s1
  | none => if c.op = 4 && status ≠ 0 then s1.demoteLost c status else s1

def State.refOf (s : State) (p page : Nat) : Nat := Sparse.get 0 s.tier.refs (pageKey p page)
def State.setRef (s : State) (p page n : Nat) : State :=
  { s with tier := { s.tier with refs := Sparse.put 0 s.tier.refs (pageKey p page) n } }

/-- The pages that a range of the partition range touches: their base addresses. -/
def State.pagesOf (s : State) (p addr len : Nat) : List Nat :=
  ((pageSpans addr len).map (fun sp => match s.xlat p sp.1 with | .page _ _ b _ => b | _ => sp.1 / 65536 * 65536)).eraseDups

/-- One reference more, or less, on every page of a range (R273); a count stays within its 32 bits. -/
def State.refRange (s : State) (p addr len : Nat) (up : Bool) : State :=
  s.forEach (s.pagesOf p addr len) (fun b s =>
    let n := s.refOf p b
    s.setRef p b (if up then min (n + 1) (2 ^ 32 - 1) else n - 1))

/-- The move in progress of a page. -/
def State.moveOf (s : State) (p page size : Nat) : Option Move :=
  s.tier.moves.find? (fun m => m.cmd.meets p page size)
def State.dropMove (s : State) (m : Move) : State := { s with tier := { s.tier with moves := s.tier.moves.erase m } }

/-- Rewrite a mapped page's entry in place. -/
def State.setEntry (s : State) (p page : Nat) (f : W64 → W64) : State :=
  match s.xlat p page with
  | .page e at_ _ _ => s.hbmWrite64 at_ (f e)
  | _ => s

/-- A demotion aborts: Moving clears, its lower frame returns at once, DEMOTE replies (Table 12.7, R275). -/
def State.abortDemote (s : State) (m : Move) (status : Nat) : State :=
  let s1 := ((s.dropMove m).dropOps (.move m.part m.page)).setEntry m.part m.page (fun e => setBits e 56 56 0)
  (((s1.returnFrame m.pool m.frame).bump (cntPart m.part 43) (b2n (status == 1)))).tierReply m.cmd status

/-- A write that reaches a page being demoted aborts the demotion (Table 12.7). -/
def State.writeMeetsDemote (s : State) (p addr len : Nat) : State :=
  s.forEach (s.tier.moves.filter (fun m => m.demote && m.cmd.meets p addr len)) (fun m s => s.abortDemote m 1)

/-- Demotions that a unit's write has met abort (Table 12.7). -/
def State.settleDemotes (s : State) : State :=
  s.forEach (s.tier.moves.filter (fun m => m.demote && m.hit)) (fun m s => s.abortDemote m 1)

/-- MAP of a page in a frame below tier 1: the frame is filled with zeros beyond the block first. A pool whose peer, shelf or tenant is
not there gives no frame, so it replies NO_SPACE (DESIGN CHOICE, log entry 117). -/
def State.tierMapLower (s : State) (c : TierCmd) : State :=
  let sz := pageSize c.large
  match s.xlat c.part c.page with
  | .page _ _ _ _ => s.tierReply c 6
  | _ =>
    match s.drawFrame c.pool sz with
    | none => s.tierReply c 3
    | some (f, s1) =>
      let e := s.poolEntry c.pool f c.large c.pin c.writable
      if s.lowerResp e ≠ 0 then s.tierReply c 3 else
      match s1.ensure c.page (s1.ptRoot c.part) (b2n c.large) 4 with
      | none => s.tierReply c 3
      | some (at_, s2) =>
        if s2.hbmWord at_ ≠ 0 then s.tierReply c 6
        else s2.unitOp (.fill c f) c.part 2 (extAddr e 0) sz (List.replicate sz 0) (sealedAt (extAddr e 0)) 0 0 0

/-- A filled frame's entry is written, and MAP replies; one that could not be filled returns, and MAP replies NO_SPACE (log entry 117). -/
def State.fillDone (s : State) (c : TierCmd) (f resp : Nat) : State :=
  if resp ≠ 0 then (s.returnFrame c.pool f).tierReply c 3 else
  match s.ensure c.page (s.ptRoot c.part) (b2n c.large) 4 with
  | none => (s.returnFrame c.pool f).tierReply c 3
  | some (at_, s1) =>
    let e := s.poolEntry c.pool f c.large c.pin c.writable
    (({ s1.hbmWrite64 at_ e with ext := s1.ext.zero (extAddr e 0) (extAddr e 0 + pageSize c.large) }).setOrigin (frameKey e)
      (c.pool + 1)).tierReply c 0

/-- Fills that have been answered complete their MAP. -/
def State.settleFills (s : State) : State :=
  s.forEach s.fab.ops (fun o s =>
    match o.use, o.resp with
    | .fill c f, some r => (s.dropOps o.use).fillDone c f r
    | _, _ => s)

/-- PROMOTE (Table 12.5) of a command taken from the queue: the copy of the lower frame begins. -/
def State.tierPromote (s : State) (c : TierCmd) : State :=
  if c.pool ≠ 0 then s.tierReply c 8 else
  match s.xlat c.part c.page with
  | .unmapped => s.tierReply c 5
  | .malformed => s.tierReply c 8
  | .page e _ _ sz =>
    if entryLarge e != c.large then s.tierReply c 8
    else if entryTier e = 1 then
      let s1 := match s.moveOf c.part c.page sz with
        | some m => if m.demote then s.abortDemote m 1 else s
        | none => s
      (if c.pin then s1.setEntry c.part c.page (fun e => setBits e 59 59 1) else s1).tierReply c 0
    else if !s.t1Room c.part sz then s.tierReply c 3
    else match s.drawFrame 0 sz with
      | none => s.tierReply c 3
      | some (f, s1) =>
        ({ s1.addT1 c.part sz with
            tier := { s1.tier with moves := s1.tier.moves ++ [⟨c, false, c.part, c.page, c.large, 0, f, none, false⟩] } } : State).unitOp
          (.move c.part c.page) c.part 1 (extAddr e 0) sz [] (sealedAt (extAddr e 0)) 0 0 0

/-- DEMOTE (Table 12.5): Moving is set and the copy begins, unless its source is poisoned. A pool whose peer, shelf or tenant is not there
gives no frame (log entry 117). -/
def State.tierDemote (s : State) (c : TierCmd) : State :=
  if c.pool = 0 || s.poolKind c.pool == 1 then s.tierReply c 8 else
  match s.xlat c.part c.page with
  | .unmapped => s.tierReply c 5
  | .malformed => s.tierReply c 8
  | .page e _ _ sz =>
    if entryLarge e != c.large then s.tierReply c 8
    else if entryTier e ≠ 1 then s.tierReply c 0
    else if entryPinned e && !c.unpin then s.tierReply c 4
    else match s.drawFrame c.pool sz with
      | none => s.tierReply c 3
      | some (f, s1) =>
        let a := extAddr (s.poolEntry c.pool f c.large false false) 0
        if s.lowerResp (s.poolEntry c.pool f c.large false false) ≠ 0 then s.tierReply c 3 else
        let s2 := { s1.setEntry c.part c.page (fun e => setBits e 56 56 1) with
          tier := { s1.tier with moves := s1.tier.moves ++ [⟨c, true, c.part, c.page, c.large, c.pool, f, none, false⟩] } }
        if s.hbmRangeBad (entryFrame e) sz then s2
        else s2.unitOp (.move c.part c.page) c.part 2 a sz (s.hbmRead (entryFrame e) sz) (sealedAt a) 0 0 0

/-- UNMAP (Table 12.5). -/
def State.tierUnmap (s : State) (c : TierCmd) : State :=
  match s.xlat c.part c.page with
  | .unmapped => s.tierReply c 5
  | .malformed => s.tierReply c 8
  | .page e at_ b sz =>
    if entryLarge e != c.large then s.tierReply c 8
    else if s.refOf c.part b ≠ 0 then s.tierReply c 2
    else
      let s1 := (s.hbmWrite64 at_ 0).releaseFrame e
      (if entryTier e = 1 then s1.addT1 c.part (-(sz : Int)) else s1).tierReply c 0

/-- REF and UNREF. -/
def State.tierRef (s : State) (c : TierCmd) (up : Bool) : State :=
  match s.xlat c.part c.page with
  | .unmapped => s.tierReply c 5
  | .malformed => s.tierReply c 8
  | .page e _ b _ =>
    let n := s.refOf c.part b
    if entryLarge e != c.large then s.tierReply c 8
    else if up then (if n = 2 ^ 32 - 1 then s.tierReply c 2 else (s.setRef c.part b (n + 1)).tierReply c 0)
    else (if n = 0 then s.tierReply c 8 else (s.setRef c.part b (n - 1)).tierReply c 0)

/-- Take the k-th queued command, where it is of that operation and its lane lets it act (R274): no older queued command and no move
on an overlapping page, but that a PROMOTE meets a demotion and REF and UNREF never wait. -/
def State.takeCmd (s : State) (op k : Nat) : Option (TierCmd × State) :=
  match s.tier.queue[k]? with
  | none => none
  | some c =>
    let size := pageSize c.large
    let older := (s.tier.queue.take k).any (fun d => d.meets c.part c.page size)
    let moving := (match s.moveOf c.part c.page size with | some m => !(op == 3 && m.demote) | none => false) ||
      s.fab.ops.any (fun o => match o.use with | .fill d _ => d.meets c.part c.page size | _ => false)
    if !s.live || c.op ≠ op || (op < 5 && (older || moving)) then none
    else some (c, { s with tier := { s.tier with queue := s.tier.queue.eraseIdx k } })

/-- Act on a taken command; one that breaks its format replies INVALID (Table 12.6). -/
def State.cmdRow (s : State) (op k : Nat) (f : TierCmd → State → State) : State :=
  match s.takeCmd op k with
  | none => s
  | some (c, s1) => if c.formed then f c s1 else s1.tierReply c 8

/-- MAP. -/
def execMap (k : Nat) (s : State) : Res :=
  .next (s.cmdRow 1 k (fun c s =>
    if 2 ≤ s.poolKind c.pool then (s.tierMapLower c).settleFills else
    let r := s.tierMap c.part c.page c.large c.pool c.pin c.writable
    r.2.tierReply c r.1))
/-- UNMAP. -/
def execUnmap (k : Nat) (s : State) : Res := .next (s.cmdRow 2 k (fun c s => s.tierUnmap c))
/-- PROMOTE. -/
def execPromote (k : Nat) (s : State) : Res := .next (s.cmdRow 3 k (fun c s => s.tierPromote c))
/-- DEMOTE. -/
def execDemote (k : Nat) (s : State) : Res := .next (s.cmdRow 4 k (fun c s => s.tierDemote c))
/-- REF. -/
def execRef (k : Nat) (s : State) : Res := .next (s.cmdRow 5 k (fun c s => s.tierRef c true))
/-- UNREF. -/
def execUnref (k : Nat) (s : State) : Res := .next (s.cmdRow 6 k (fun c s => s.tierRef c false))

/-- The move of a page that a completion names. -/
def State.moveAt (s : State) (p page : Nat) (demote : Bool) : Option Move :=
  s.tier.moves.find? (fun m => m.part == p && m.page == page && m.demote == demote)

/-- What a page's copy beyond the block was answered: none while it is under way. -/
def State.moveResp (s : State) (p page : Nat) : Option (Nat × List Byte) :=
  ((s.opsOf (.move p page)).head?).bind (fun o => o.resp.map (fun r => (r, o.data)))

/-- PROMOTE_COMPLETE: the copy has ended, and the entry switches to tier 1; a source read that drew an error replies SOURCE_FAILED
(Tables 12.5 and 12.6). -/
def execPromoteComplete (p : Fin 16) (page : BitVec 52) (s : State) : Res :=
  .next (match s.moveAt p page.toNat false, s.moveResp p page.toNat with
    | some m, some (r, bs) =>
      if !s.live then s else
      let sz := pageSize m.large
      match s.xlat p m.page with
      | .page e at_ _ _ =>
        let s0 := (s.dropMove m).dropOps (.move p page.toNat)
        if r ≠ 0 then ((s0.returnFrame 0 m.frame).addT1 p (-(sz : Int))).tierReply m.cmd 7
        else
          let e' := pageEntry 1 (b2n (entryPinned e || m.cmd.pin)) (b2n m.large) (b2n (entryWritable e)) 0 0 m.frame
          let s1 := ((s0.hbmWrite m.frame bs).hbmWrite64 at_ e').releaseFrame e
          (((s1.setOrigin m.frame 1).bump (cntPart p 41) 1).bump (cntPart p 44) sz).tierReply m.cmd 0
      | _ => s
    | _, _ => s)

/-- The copy of a demotion has ended: its time is kept and its bytes are counted into the lower tier, once (R275, R276). -/
def State.demoteCopied (s : State) (m : Move) : State :=
  if m.copied.isSome then s
  else ({ s with tier := { s.tier with moves := s.tier.moves.map (fun x => if x = m then { x with copied := some s.time } else x) } } : State).bump
    (cntPart m.part (43 + poolTier (s.poolKind m.pool))) (pageSize m.large)

/-- DEMOTE_COMPLETE: the copy has ended. A poisoned source replies SOURCE_FAILED (17 R372), as does a frame that could not be written
(DESIGN CHOICE, log entry 117); a write that met the page cancels it (Table 12.7); while the page is referenced the demotion waits;
otherwise the entry takes the lower tier (R275). -/
def execDemoteComplete (p : Fin 16) (page : BitVec 52) (s : State) : Res :=
  .next (match s.moveAt p page.toNat true with
    | none => s
    | some m =>
      if !s.live then s
      else if m.hit then s.abortDemote m 1
      else if (s.opsOf (.move p page.toNat)).isEmpty then s.abortDemote m 7
      else
        let sz := pageSize m.large
        match s.xlat p m.page, s.moveResp p page.toNat with
        | .page e at_ b _, some (r, _) =>
          if r ≠ 0 then s.abortDemote m 7 else
          let s0 := s.demoteCopied m
          if s.refOf p b ≠ 0 then s0
          else
            let e' := pageEntry (poolTier (s.poolKind m.pool)) (b2n (entryPinned e && !m.cmd.unpin)) (b2n m.large)
              (b2n (entryWritable e)) 0 (s.poolTarget m.pool) m.frame
            let s1 := s0.dropOps (.move p page.toNat)
            let s2 := { s1 with
              tier := { s1.tier with moves := s1.tier.moves.filter (fun x => !(x.demote && x.part == p.val && x.page == page.toNat)) }
              ext := s.ext.writeN (extAddr e' 0) (s.hbmRead (entryFrame e) sz) }
            let s3 := ((s2.hbmWrite64 at_ e').releaseFrame e).setOrigin (frameKey e') (m.pool + 1)
            ((s3.addT1 p (-(sz : Int))).bump (cntPart p 42) 1).tierReply m.cmd 0
        | _, _ => s)

/-- DEMOTE_WAIT_EXPIRE: the count did not fall to 0 within TIER_DEMOTE_WAIT after the copy ended (R275). -/
def execDemoteWaitExpire (p : Fin 16) (page : BitVec 52) (s : State) : Res :=
  .next (match s.moveAt p page.toNat true with
    | none => s
    | some m =>
      match m.copied with
      | some t0 =>
        if s.live && decide (t0.toNat + 1000 * s.rf 0x400020 9 0 ≤ s.time.toNat) then s.abortDemote m (if m.hit then 1 else 2) else s
      | none => s)

/-! ### The command ring (R271) -/

/-- Read `n` commands of the ring from running count `i`. A reserved operation replies INVALID at once. -/
def State.fetchCmds (s : State) (i : Nat) : Nat → State
  | 0 => s
  | n + 1 =>
    let a := (s.rd 0x400000).toNat + 32 * (i % 2 ^ s.rf 0x400008 4 0)
    let c : TierCmd := ⟨s.hbmWord a, s.hbmWord (a + 8), s.hbmWord (a + 16), s.hbmWord (a + 24), none⟩
    let s1 := if 1 ≤ c.op ∧ c.op ≤ 6 then { s with tier := { s.tier with queue := s.tier.queue ++ [c] } } else s.tierReply c 8
    s1.fetchCmds (i + 1) n

/-- Take what the ring holds up to TIER_CMD_TAIL. -/
def State.takeRing (s : State) : State :=
  let head := s.rf 0x400018 31 0
  let tail := s.rf 0x400010 31 0
  let n := min ((tail + 2 ^ 32 - head) % 2 ^ 32) (2 ^ s.rf 0x400008 4 0)
  (s.fetchCmds head n).setReg 0x400018 (w64 tail)

/-- TIER_CMD_TAIL: Penub has written commands to the ring. -/
def execTierCmdTail (v : W64) (s : State) : Res :=
  .next (if s.live then (s.setReg 0x400010 (v &&& 0xFFFFFFFF)).takeRing else s)

/-- The Sequencer issues a command for a request's block (R270, R271). -/
def State.moverIssue (s : State) (i op p page pool : Nat) (large pin unpin : Bool) : State :=
  let w0 := op * 2 ^ 60 + b2n large * 2 ^ 59 + pool * 2 ^ 56 + p * 2 ^ 52 + page
  { s with tier := { s.tier with queue := s.tier.queue ++ [⟨w64 w0, w64 (b2n unpin * 4 + b2n pin * 2), 0, 0, some (i, (s.slot i).w5)⟩] } }

/-- The pool that a park demotes to: the lowest numbered lower pool with a free frame (the spec names none). -/
def State.lowerPool (s : State) : Nat :=
  ((List.range 8).find? (fun n => decide (2 ≤ s.poolKind n) && !(s.poolFrames n).isEmpty)).getD
    (((List.range 8).find? (fun n => decide (2 ≤ s.poolKind n))).getD 1)

/-! ### The imbalance monitor (R286) -/

/-- IMBALANCE_WINDOW: the bytes that each stack served in a window of 1 ms of board time; a window ends no sooner than 1 ms after the one
before it. -/
def execImbalanceWindow (bytes : List Nat) (s : State) : Res :=
  let n := s.design.stacks
  let total := (bytes.take n).foldl (· + ·) 0
  let isOver (k : Nat) : Bool := decide (2 * n * nth 0 bytes k > 3 * total)
  let run (k : Nat) : Nat := if total < s.rf 0x400040 15 0 * 10 ^ 6 then 0 else if isOver k then Sparse.get 0 s.tier.runs k + 1 else 0
  let runs := (List.range n).foldl (fun m k => Sparse.put 0 m k (run k)) s.tier.runs
  let s1 := { s with tier := { s.tier with runs := runs, window := s.time } }
  let top := (List.range n).foldl (fun m k => max m (run k)) 0
  let s2 := s1.setRf 0x400048 63 32 top
  .next (if !s.live || decide (s.time.toNat < s.tier.window.toNat + 10 ^ 6) then s else
    s2.forEach ((List.range n).filter (fun k => run k == 1001)) (fun k s =>
      ((s.setRf 0x400048 3 0 k).setRf 0x400048 4 4 1 |>.bump (cntStack k 0) 1).event 4))

end Sys2Proof.Machine
end

