-- ==== Sys2Proof/Machine/Slate.lean ====
section
/-! DEFINITION. The Slate: KV blocks and the prefix index (09 R212 to R216), retirement (R207 to R209, R219, R220), pausing, parking
and resuming (R217, R218), the Slate's own steps. -/

namespace Sys2Proof.Machine

/-! ### Token history (R212), kept in two copies -/

def State.histAddr (s : State) (copy i k : Nat) : Nat := (s.rd (0x90000 + 8 * copy)).toNat + 524288 * i + 4 * k
/-- Entry k of the history of Slate entry i. -/
def State.hist (s : State) (i k : Nat) : W32 := s.hbm.read32 (s.histAddr 0 i k)
def State.histTok (s : State) (i k : Nat) : Nat := bits (s.hist i k) 17 0
def State.histPut (s : State) (i k : Nat) (w : W32) : State :=
  (s.hbmWrite (s.histAddr 0 i k) (leBytes 4 w.toNat)).hbmWrite (s.histAddr 1 i k) (leBytes 4 w.toNat)

/-- Tokens whose KV a request needs before its next token: its prompt, and on a re-prefill the tokens it has generated. -/
def Slot.span (x : Slot) : Nat := x.prompt + x.generated

/-! ### Page lists and blocks (R213) -/

def Slot.plist (x : Slot) (n : Nat) : Nat := x.root * 65536 + 8 * n
def State.blockEntry (s : State) (i n : Nat) : W64 :=
  let x := s.slot i
  (s.rangeRead64 x.part (x.plist n)).getD 0
def State.setBlockEntry (s : State) (i n : Nat) (e : W64) : State :=
  let x := s.slot i
  s.rangeWrite64 x.part (x.plist n) e
def blockShared (e : W64) : Bool := bit e 63
def blockAddr (e : W64) : Nat := bits e 51 16 * 65536
def blockFill (e : W64) : Nat := bits e 6 0
def mkBlock (shared : Bool) (addr fill : Nat) : W64 := w64 (b2n shared * 2 ^ 63 + addr / 65536 % 2 ^ 36 * 65536 + fill % 128)

/-- Bytes of a KV block: the model manifest fixes them. -/
def State.kvBytes (s : State) (p : Nat) : Nat := match (s.part p).load.model with | some m => m.kvBytes | none => 65536

/-- A block returns to the free list, once no sealed or open step names it (R232). -/
def State.freeBlock (s : State) (p a : Nat) : State :=
  s.onPart p (fun x =>
    match x.opened with
    | some d => if d.blocks.contains a then { x with kvLater := x.kvLater ++ [a] } else { x with kvFree := x.kvFree ++ [a] }
    | none => { x with kvFree := x.kvFree ++ [a] })

/-- At a commit the blocks that were still named return. -/
def State.freeLater (s : State) (p : Nat) : State :=
  s.onPart p (fun x => { x with kvFree := x.kvFree ++ x.kvLater, kvLater := [] })

/-! ### The prefix index (R214 to R216) -/

/-- Seed of a chain (R214). -/
def State.pfxSeed (s : State) (p adp gen t : Nat) : W64 :=
  let ten := bit (s.rd (pReg p 0x2A0)) 0
  w64 (adp % 2 ^ 24 * 2 ^ 40 + gen % 2 ^ 32 * 256 + b2n ten * 64 + (if ten then t % 64 else 0))

/-- Key of block n of request i, after the key of the block before it. -/
def State.pfxKeyOf (s : State) (p i n : Nat) (prev : W64) : W64 :=
  let x := s.part p
  sipHash x.pfxKey0 x.pfxKey1 (leBytes 8 prev.toNat ++
    (List.range 64).flatMap (fun k => leBytes 4 (s.histTok i (64 * n + k))))

/-- The key that extends a request's chain by one block. -/
def State.nextKey (s : State) (i : Nat) : W64 :=
  let x := s.slot i
  let prev := match x.chainKeys.getLast? with | some k => k | none => s.pfxSeed x.part x.chainAdp x.chainGen x.tenant
  s.pfxKeyOf x.part i x.chainKeys.length prev

/-- The eight entries of a key's bucket. -/
def State.pfxSlots (s : State) (p : Nat) (key : W64) : List Nat :=
  let b := (s.rd (pReg p 0x2A8)).toNat + 256 * (key.toNat % 2 ^ s.rf (pReg p 0x2B0) 4 0)
  (List.range 8).map (fun k => b + 32 * k)
def State.pfxWord (s : State) (p a w : Nat) : W64 := (s.rangeRead64 p (a + 8 * w)).getD 0
def State.pfxValid (s : State) (p a : Nat) : Bool := bit (s.pfxWord p a 1) 63
def State.pfxCount (s : State) (p a : Nat) : Nat := bits (s.pfxWord p a 2) 63 32
def State.pfxSetCount (s : State) (p a n : Nat) : State := s.rangeWrite64 p (a + 16) (w64 (n * 2 ^ 32))

/-- A hit: all 64 bits of the key match (R215). -/
def State.pfxFind (s : State) (p : Nat) (key : W64) : Option Nat :=
  (s.pfxSlots p key).find? (fun a => s.pfxValid p a && s.pfxWord p a 0 == key)
/-- The entry of a key that holds a given block. -/
def State.pfxHolds (s : State) (p : Nat) (key : W64) (blk : Nat) : Option Nat :=
  (s.pfxSlots p key).find? (fun a => s.pfxValid p a && s.pfxWord p a 0 == key && blockAddr (s.pfxWord p a 1) == blk)
/-- Of entries with count 0, the one with the oldest last use. -/
def State.pfxOldest (s : State) (p : Nat) (l : List Nat) : Option Nat :=
  (l.filter (fun a => s.pfxValid p a && s.pfxCount p a == 0)).foldl (fun m a =>
    match m with
    | none => some a
    | some b => if s.pfxWord p a 3 < s.pfxWord p b 3 then some a else some b) none

/-- Evict an entry: its block returns to the free list. -/
def State.pfxEvict (s : State) (p a : Nat) : State :=
  (s.rangeWrite p (a + 8) (leBytes 8 0)).freeBlock p (blockAddr (s.pfxWord p a 1))

/-- Insert a block with count 1 (R216); whether it was inserted. -/
def State.pfxInsert (s : State) (p : Nat) (key : W64) (blk : Nat) : Bool × State :=
  let slots := s.pfxSlots p key
  let put (s : State) (a : Nat) : State :=
    s.rangeWrite p a (leBytes 8 key.toNat ++ leBytes 8 (2 ^ 63 + blk) ++ leBytes 8 (2 ^ 32) ++ leBytes 8 s.time.toNat)
  if (s.rangeRead p (slots.headD 0) 256).isNone then (false, s)
  else match slots.find? (fun a => !s.pfxValid p a) with
    | some a => (true, put s a)
    | none =>
      match s.pfxOldest p slots with
      | some a => (true, put (s.pfxEvict p a) a)
      | none => (false, s.bump (cntPart p 33) 1)

/-- One reference less on the entry that holds a shared block. -/
def State.pfxDrop (s : State) (p : Nat) (key : W64) (blk : Nat) : State :=
  match s.pfxHolds p key blk with
  | some a => s.pfxSetCount p a (s.pfxCount p a - 1)
  | none => s

/-- Whether a page of a block lies below tier 1, is in movement, or awaits a command of the Tier mover: a demoted block that has been
released is mapped afresh before it is given out again (R218). -/
def State.blockAway (s : State) (p a : Nat) : Bool :=
  (s.pagesOf p a (s.kvBytes p)).any (fun b =>
    (match s.xlat p b with | .page e _ _ _ => decide (entryTier e ≠ 1) || entryMoving e | _ => false) ||
      s.tier.queue.any (fun c => c.meets p b 65536))

/-- The first block of the free list that lies in tier 1. -/
def State.kvReady (s : State) (p : Nat) : Option Nat := (s.part p).kvFree.find? (fun a => !s.blockAway p a)

/-- Where the free list is empty, the clock hand over the buckets evicts count-0 entries until a block is free (R216; fuel: buckets to
visit, each holding eight entries). -/
def State.kvEvict (s : State) (p : Nat) : Nat → State
  | 0 => s
  | n + 1 =>
    let h := (s.part p).hand
    let s1 := s.onPart p (fun x => { x with hand := (h + 1) % 2 ^ s.rf (pReg p 0x2B0) 4 0 })
    match s.pfxOldest p (s.pfxSlots p (w64 h)) with
    | some a => let s2 := s1.pfxEvict p a; if (s2.kvReady p).isSome then s2 else s2.kvEvict p n
    | none => s1.kvEvict p n
def State.kvTake (s : State) (p : Nat) : Option (Nat × State) :=
  let s1 := if (s.kvReady p).isNone then s.kvEvict p (8 * 2 ^ s.rf (pReg p 0x2B0) 4 0) else s
  match s1.kvReady p with
  | none => none
  | some a => some (a, s1.onPart p (fun x => { x with kvFree := x.kvFree.erase a }))

/-- Positions of a request whose KV committed steps have written: all but its newest token's. -/
def Slot.written (x : Slot) : Nat := if x.generated = 0 then x.next else x.span - 1

/-- KEEP_CACHE (R216): full private blocks are inserted as prompt blocks are, along the chain (fuel: blocks). -/
def State.keepBlocks (s : State) (i n : Nat) : Nat → State
  | 0 => s
  | k + 1 =>
    let x := s.slot i
    let e := s.blockEntry i n
    if n ≥ x.pages || !x.chainOn || blockFill e ≠ 64 || 64 * (n + 1) > x.written then s
    else
      let s1 := if n < x.chainKeys.length then s else s.onSlot i (fun y => { y with chainKeys := y.chainKeys ++ [s.nextKey i] })
      if blockShared e then s1.keepBlocks i (n + 1) k
      else
        let r := s1.pfxInsert x.part (nth 0 (s1.slot i).chainKeys n) (blockAddr e)
        (if r.1 then r.2.setBlockEntry i n (mkBlock true (blockAddr e) 64) else r.2).keepBlocks i (n + 1) k

/-- The pages of a released block that have been demoted, or are about to be, are unmapped and mapped afresh, pinned and writable, in
tier 1: the releases that follow a re-prefill or the end of a parked request (R218, 12 R270). -/
def State.recallBlock (s : State) (p a : Nat) : State :=
  s.forEach (s.pagesOf p a (s.kvBytes p)) (fun b s =>
    match s.xlat p b with
    | .page e _ _ _ =>
      let away := decide (entryTier e ≠ 1) || entryMoving e || s.tier.queue.any (fun c => c.op == 4 && c.meets p b 65536)
      if away then
        let w (op f : Nat) : TierCmd :=
          ⟨w64 (op * 2 ^ 60 + b2n (entryLarge e) * 2 ^ 59 + p * 2 ^ 52 + b), w64 f, 0, 0, none⟩
        { s with tier := { s.tier with queue := s.tier.queue ++ [w 2 0, w 1 3] } }
      else s
    | _ => s)

/-- Release (R216): a shared block loses a reference, a private one returns to the free list; Page count becomes 0. -/
def State.kvRelease (s : State) (i : Nat) (keep : Bool) : State :=
  let x := s.slot i
  let s1 := if keep then s.keepBlocks i 0 (x.pages + 1) else s
  let s2 := s1.forEach (List.range x.pages) (fun n s =>
    let e := s.blockEntry i n
    if blockShared e then s.pfxDrop x.part (nth 0 (s.slot i).chainKeys n) (blockAddr e)
    else (s.recallBlock x.part (blockAddr e)).freeBlock x.part (blockAddr e))
  s2.onSlot i (fun x => { x.setPages 0 with chainKeys := [] })

/-! ### Retirement -/

/-- Whether a partition has neither a step open nor a build in progress (R217). -/
def State.idle (s : State) (p : Nat) : Bool :=
  let x := s.part p
  decide (x.opened = none) && (match x.build with | .idle => true | _ => false)

/-- Whether a launched step holds rows of a request. -/
def State.inLaunched (s : State) (i : Nat) : Bool :=
  match (s.part (s.slot i).part).opened with
  | some d => d.rows.any (fun r => decide (r.idx = i) && decide (r.kind ≠ 2))
  | none => false

/-- Whether a launched or built descriptor holds rows of an entry. -/
def State.inStep (s : State) (i : Nat) : Bool :=
  let x := s.part (s.slot i).part
  let names (d : Desc) : Bool := d.rows.any (fun r => decide (r.idx = i) && decide (r.kind ≠ 2))
  (match x.opened with | some d => names d | none => false) ||
    (match x.build with | .building d => names d | .built d => names d | .idle => false)

/-- The predecessor has retired with OK: WAIT_PRED clears at the partition's next boundary, at once where it is idle (R205, R217). -/
def State.predDone (s : State) (k : Nat) : State :=
  if s.idle (s.slot k).part then s.onSlot k (fun x => { x with waitPred := false })
  else s.onSlot k (fun x => { x with predOk := true })

/-- A request retires with a status; on any but OK its successor retires with it, and so on (R207; fuel: entries). -/
def State.retireFrom (s : State) (i status resp : Nat) : Nat → State
  | 0 => s
  | n + 1 =>
    let x := s.slot i
    if !x.active then s else
    let s1 := s.kvRelease i (x.keepCache && status == 0)
    let s2 := s1.onSlot i (fun y => { y.setState 7 with
      status := status, resp := resp, ctl := [], packing := false, resuming := false, predOk := false, ended := 0, lost := false })
    let s3 := { s2 with gth := { s2.gth with packing := s2.gth.packing.filter (· != i) } }
    let s4 := s3.forEach x.ctl (fun c s => s.commandDone c.tenant c.queue c.cmd 0 (some i))
    let s5 := s4.final i status resp
    if x.succ = 0xFFFF then s5
    else if status = 0 then s5.predDone x.succ
    else s5.retireFrom x.succ status resp n

def State.retire (s : State) (i status resp : Nat) : State := s.retireFrom i status resp (s.slate.length + 1)

/-- A request ends at its partition's next boundary with a status; one that is CANCELLING ends with CANCELLED only (Table 9.5). -/
def State.endLater (s : State) (i status : Nat) : State :=
  s.onSlot i (fun x => if x.ended = 0 && x.state ≠ 6 then { x with ended := status + 1 } else x)

/-- A request loses its KV blocks and re-prefills from its token history (Table 9.3). -/
def State.rePrefill (s : State) (i : Nat) : State :=
  (s.kvRelease i false).onSlot i (fun x => { x.setState 1 with next := 0, fresh := true, lost := false, resuming := false })

/-! ### Pausing, parking, resuming (R217) -/

/-- The pages that lie wholly within a request's private blocks. -/
def State.privatePages (s : State) (i : Nat) : List Nat :=
  let x := s.slot i
  let kb := s.kvBytes x.part
  (List.range x.pages).flatMap (fun n =>
    let e := s.blockEntry i n
    if blockShared e then []
    else (s.pagesOf x.part (blockAddr e) kb).filter (fun b =>
      match s.xlat x.part b with
      | .page _ _ b sz => decide (blockAddr e ≤ b) && decide (b + sz ≤ blockAddr e + kb)
      | _ => false))

def State.pageLarge (s : State) (p b : Nat) : Bool := match s.xlat p b with | .page e _ _ _ => entryLarge e | _ => false

/-- The state a resumed request takes (Table 9.3). -/
def Slot.resumed (x : Slot) : Slot := { x.setState (if x.generated > 0 then 3 else 1) with fresh := true, resuming := false }

/-- A resume that reaches a PARKED entry sets RESUMING, and its blocks are promoted. -/
def State.startResume (s : State) (i : Nat) : State :=
  let x := s.slot i
  (s.onSlot i (fun x => { x with resuming := true })).forEach (s.privatePages i) (fun b s =>
    s.moverIssue i 3 x.part b 0 (s.pageLarge x.part b) true false)

/-- A waiting command takes effect at the boundary (R217, R236). -/
def State.applyCtl (s : State) (i : Nat) (c : CtlCmd) : State :=
  let x := s.slot i
  let live := x.state = 1 ∨ x.state = 2 ∨ x.state = 3
  let s1 :=
    if c.op = 2 then (if live then s.setSlot i (x.setState 4) else s)
    else if c.op = 3 then
      (if live ∨ x.state = 4 then
        let y := { x.setState 5 with w6 := s.time, w7 := if c.ttl = 0 then x.w7 else setBits x.w7 31 16 c.ttl }
        (s.setSlot i y).forEach (s.privatePages i) (fun b s =>
          s.moverIssue i 4 x.part b s.lowerPool (s.pageLarge x.part b) false true)
       else s)
    else if x.state = 4 then (if x.lost then s.rePrefill i else s.setSlot i x.resumed)
    else if x.state = 5 && !x.resuming then s.startResume i
    else s
  s1.commandDone c.tenant c.queue c.cmd 0 (some i)

/-- What waits for a partition's boundary takes effect (R205, R208, R217, R225). A request with rows in a step that is still open, as at
the end of a build that seals nothing, ends or re-prefills only after the commit. -/
def State.applyBoundary (s : State) (p : Nat) : State :=
  s.forEach (s.entriesOf p) (fun i s =>
    let x := s.slot i
    let s1 := s.onSlot i (fun x => { x with ctl := [], waitPred := x.waitPred && !x.predOk, predOk := false })
    let s2 := s1.forEach x.ctl (fun c s => s.applyCtl i c)
    if s2.inLaunched i then s2
    else if x.ended ≠ 0 then s2.retire i (x.ended - 1) x.resp
    else if (s2.slot i).lost && decide (1 ≤ (s2.slot i).state) && decide ((s2.slot i).state ≤ 3) then s2.rePrefill i
    else s2)

/-- A pause, park or resume reaches a request of the tenant (R217). -/
def State.ctlReach (s : State) (i : Nat) (c : CtlCmd) : State :=
  let x := s.slot i
  let ok := s.commandDone c.tenant c.queue c.cmd 0 (some i)
  if c.op = 3 && c.ttl = 0 && x.ttl = 0 && x.active && x.state ≠ 5 && x.state ≠ 6 then
    s.commandDone c.tenant c.queue c.cmd 0x0B (some i)
  else if !x.active || x.state = 6 then ok
  else if c.op = 2 && (x.state = 4 || x.state = 5) then ok
  else if c.op = 3 && x.state = 5 then ok
  else if c.op = 4 && x.state ≠ 4 && x.state ≠ 5 then ok
  else if c.op = 4 && x.state = 5 then (if x.resuming then ok else (s.startResume i).commandDone c.tenant c.queue c.cmd 0 (some i))
  else if s.idle x.part then s.applyCtl i c
  else s.onSlot i (fun x => { x with ctl := x.ctl ++ [c] })

/-- A cancel reaches a request (Table 9.5). -/
def State.cancel (s : State) (i : Nat) : State :=
  let x := s.slot i
  if !x.active || x.state = 6 then s
  else if s.inLaunched i then s.onSlot i (fun x => { x.setState 6 with ended := 0 })
  else s.retire i 1 0

/-! ### The Slate's own steps -/

/-- RESUME_COMPLETE: every block of the page list is in tier 1, or a block could not be promoted (Table 9.3). -/
def execResumeComplete (i : Fin 32768) (s : State) : Res :=
  let x := s.slot i
  let kb := s.kvBytes x.part
  let here (n : Nat) : Bool := (s.pagesOf x.part (blockAddr (s.blockEntry i n)) kb).all (fun b =>
    match s.xlat x.part b with | .page e _ _ _ => decide (entryTier e = 1) && !entryMoving e | _ => false)
  .next (if s.live && x.state = 5 && x.resuming then
      (if x.lost then s.rePrefill i
       else if (List.range x.pages).all here then s.onSlot i Slot.resumed else s)
    else s)

/-- SLATE_SWEEP: parked requests whose time to live has run out retire (R218). -/
def execSlateSweep (s : State) : Res :=
  .next (if !s.live then s else
    s.forEach (s.entries.filter (fun i => decide ((s.slot i).state = 5))) (fun i s =>
      let x := s.slot i
      if x.state = 5 && !x.resuming && decide (x.w6.toNat + x.ttl * 100000000 ≤ s.time.toNat) then
        (s.bump (cntTen x.tenant 10) 1).retire i 5 0 else s))

/-- The entries of a tenant that name an input buffer. -/
def State.namersOf (s : State) (t b : Nat) : List Nat :=
  (s.entriesOfTenant t).filter (fun i => decide ((s.slot i).buffer = b))
def State.bufState (s : State) (t b : Nat) : Nat := Sparse.get 0 (s.ten t).buffers b
def State.setBuf (s : State) (t b n : Nat) : State :=
  s.onTen t (fun x => { x with buffers := Sparse.put 0 x.buffers b n })

/-- SLATE_FREE: a retired entry becomes FREE, and its input buffer when no other entry names it (R208, R336). -/
def execSlateFree (i : Fin 32768) (s : State) : Res :=
  let x := s.slot i
  .next (if s.live && x.state = 7 && x.posted && !s.inStep i && !s.entries.any (fun k => decide ((s.slot k).succ = i.val)) then
      let s1 := s.setSlot i Slot.init
      if (s1.namersOf x.tenant x.buffer).isEmpty then s1.setBuf x.tenant x.buffer 0 else s1
    else s)

end Sys2Proof.Machine
end

