-- ==== Sys2Proof/Machine/Gather.lean ====
section
/-! DEFINITION. The gather engines (08_tables_and_gather.md): rows, drops, GATHER, owner-batched lookups, row writes, staged tables, and
the prompt packer. -/

namespace Sys2Proof.Machine

/-! ### Reading one row -/

/-- What fetching a row gives: its bytes with the elements that saturated, and whether this block served it as a shard's owner; ranges
beyond the block that must be read first; or a drop with its reason (Table 8.3). -/
inductive RowGot where
  | row (bytes : List Byte) (sat : Nat) (owner : Bool)
  | need (l : List (Nat × Nat))
  | drop (reason : Nat)
deriving DecidableEq, Repr

/-- The operations that have read beyond the block for a gather or a pack; none where a unit reads at once. -/
abbrev Got := Option (List UnitOp)

/-- Drop reason of a response that a row read drew: POISONED, ADDRESS, and ABSENT for PEER_ABSENT, TIMEOUT and INTEGRITY; ACCESS, which
Table 8.3 does not name, counts as ABSENT (DESIGN CHOICE, log entry 118). -/
def dropOf (r : Nat) : Nat := if r = 4 then 4 else if r = 1 then 3 else 5

/-- Bytes beyond the block as a row: read already, or needed. -/
def gotBytes (l : List UnitOp) (a n : Nat) : RowGot :=
  match fetched l a n with
  | none => .need [(a, n)]
  | some (0, bs) => .row bs 0 false
  | some (r, _) => .drop (dropOf r)

/-- Two parts of a row, in order. -/
def RowGot.append : RowGot → RowGot → RowGot
  | .need a, .need b => .need (a ++ b)
  | .need a, _ => .need a
  | _, .need b => .need b
  | .drop a, _ => .drop a
  | _, .drop b => .drop b
  | .row a m o, .row b n q => .row (a ++ b) (m + n) (o || q)

/-- One span of a partition's range: tier 1 bytes, or those of a lower frame. -/
def State.rowSpan (s : State) (p : Nat) (g : Got) (sp : Nat × Nat) : RowGot :=
  match s.xlat p sp.1 with
  | .page e _ b _ =>
    if entryTier e = 1 then (if s.spanBad p sp then .drop 4 else .row (s.spanRead p sp) 0 false)
    else match g with
      | some l => gotBytes l (extAddr e (sp.1 - b)) sp.2
      | none => if s.lowerResp e ≠ 0 then .drop 5 else .row (s.spanRead p sp) 0 false
  | _ => .drop 3

/-- Read a span of a partition's range for a row: an unmapped or malformed page drops it before anything is read. -/
def State.readRow (s : State) (p : Nat) (g : Got) (addr len : Nat) : RowGot :=
  let l := pageSpans (addr % 2 ^ 52) len
  if addr + len > 2 ^ 52 || l.any (fun sp => match s.xlat p sp.1 with | .page _ _ _ _ => false | _ => true) then .drop 3
  else l.foldl (fun r sp => r.append (s.rowSpan p g sp)) (.row [] 0 false)

/-- H of R175: SipHash-2-4 under the table's key over the index as 8 bytes. -/
def tblHash (d : List W64) (i : Nat) : W64 := sipHash (nth 0 d 6) (nth 0 d 7) (leBytes 8 i)

/-- Probe the hot index (R190): the slot of a row (fuel: entries left). -/
def State.hotProbe (s : State) (p : Nat) (d : List W64) (row at_ : Nat) : Nat → Option Nat
  | 0 => none
  | k + 1 =>
    let h := bits (nth 0 d 10) 63 59
    match s.rangeRead64 p (bits (nth 0 d 8) 51 0 + 8 * (at_ % 2 ^ h)) with
    | none => none
    | some e =>
      if e = 0 then none
      else if bits e 63 24 = row + 1 then some (bits e 23 0)
      else s.hotProbe p d row (at_ + 1) k
def State.hotSlot (s : State) (d : List W64) (row : Nat) : Option Nat :=
  if tblHot d then s.hotProbe (tblPart d) d row (tblHash d row).toNat 8 else none

/-- The copy of a replaceable row that is live (R193). -/
def State.liveCopy (s : State) (d : List W64) (j : Nat) : Option Bool :=
  (s.rangeRead (tblPart d) (bits (nth 0 d 11) 51 0 + j / 8) 1).map (fun b => bit (nth 0 b 0) (j % 8))

/-- The shard map's entry of a row's bucket (R183): owner and offset; one with a non-zero reserved field is rejected (R5). -/
def State.shardOf (s : State) (d : List W64) (j : Nat) : Option (Nat × Nat) :=
  (s.rangeRead64 (tblPart d) (bits (nth 0 d 5) 51 0 + 8 * (j / 4096))).bind (fun e =>
    if bits e 60 48 = 0 then some (bits e 63 61, bits e 47 0) else none)

/-- Element-wise product of two rows in a composed table (R176): each element rounded once to the element type. -/
def composeRows (ty : Nat) (a b : List Byte) : List Byte × Nat :=
  let x := leNat a
  let y := leNat b
  match Elt.ofCode ty with
  | none =>
    let w (n e : Nat) : W32 := BitVec.ofNat 32 (unpackNat 32 n e)
    ((List.range (a.length / 4)).flatMap (fun e => leBytes 4 (fmul (w x e) (w y e)).toNat), 0)
  | some t =>
    let w := t.bitsOf
    let n := a.length * 8 / w
    let rs := (List.range n).map (fun e => t.conv ((t.val (unpackNat w x e)).mul (t.val (unpackNat w y e))))
    (leBytes a.length (packNat w (rs.map (·.1))), if ty = 3 then (rs.filter (fun r => r.2.saturated)).length else 0)

/-- The block physical address of an offset of a peer's HBM (06 Table 6.1). -/
def peerHbm (pos off : Nat) : Nat := 4 * 2 ^ 53 + pos * 2 ^ 50 + off % 2 ^ 48

/-- Read row j of a direct or hashed table, through the hot set, the shard map or the selector: of a sharded table from the block's own
HBM, its replica, or the owner's HBM. `own` reads the block's own HBM only (R184, R187, R190, R193). -/
def State.readIndexed (s : State) (g : Got) (t : Nat) (d : List W64) (j : Nat) (own : Bool) : RowGot :=
  let p := tblPart d
  let sz := tblRow d
  match s.hotSlot d j with
  | some k => s.readRow p g (bits (nth 0 d 9) 51 0 + k * sz) sz
  | none =>
    if tblSharded d then
      match s.shardOf d j with
      | none => .drop 3
      | some (o, off) =>
        let a := off + j % 4096 * sz
        let here (a : Nat) (owner : Bool) : RowGot :=
          if a + sz > s.design.hbmCap then .drop 3 else if s.hbmRangeBad a sz then .drop 4 else .row (s.hbmRead a sz) 0 owner
        if o = s.fab.pos then here a true
        else if own then .drop 3
        else if s.fab.replicas.any (fun r => r.table == t && r.row == j && r.ver == tblVersion d) then
          here (Config.replicaPlace s.fab.pos t j).toNat false
        else gotBytes (g.getD []) (peerHbm o a) sz
    else if tblReplaceable d then
      match s.liveCopy d j with
      | none => .drop 3
      | some b => s.readRow p g (tblBase d + (if b then tblCount d + j else j) * sz) sz
    else s.readRow p g (tblBase d + j * sz) sz

/-- What an index of a list names (R174 to R177): a row, or a drop. -/
def State.lookup (s : State) (g : Got) (t : Nat) (d : List W64) (i width : Nat) (own : Bool) : RowGot :=
  if i = 2 ^ (8 * width) - 1 then .drop 2
  else match tblKind d with
    | 1 => if i < tblCount d then s.readIndexed g t d i own else .drop 1
    | 2 => s.readIndexed g t d ((tblHash d i).toNat * tblCount d / 2 ^ 64) own
    | 3 =>
      if i < tblCount d then
        let p := tblPart d
        let sz := tblRow d
        match s.readRow p g (tblBase d + i / tblM d * sz) sz, s.readRow p g (tblSecond d + i % tblM d * sz) sz with
        | .row a _ _, .row b _ _ => let r := composeRows (tblType d) a b; .row r.1 r.2 false
        | x, y => x.append y
      else .drop 1
    | _ => .drop 3

/-- An addressed lookup (R177). -/
def State.lookupAddr (s : State) (g : Got) (d : List W64) (a sz : Nat) : RowGot :=
  if a = 0 || a = 2 ^ 64 - 1 then .drop 2
  else if a % 32 ≠ 0 || a < tblBase d || a + sz > tblBase d + tblSecond d then .drop 3
  else s.readRow (tblPart d) g a sz

/-- A drop is counted three times (R181). -/
def State.countDrop (s : State) (t p tenant reason : Nat) : State :=
  ((s.bump (cntTbl t 0) 1).bump (cntTen (tenant % 64) 16) 1).bump (cntPart p (15 + reason)) 1

/-- One of the lookups an engine serves is sampled every 2^k (R189); the record's fields are placed as the model's own choice. -/
def State.sample (s : State) (e t row tenant : Nat) : State :=
  let n := Sparse.get 0 s.gth.lookups e + 1
  let s1 := { s with gth := { s.gth with lookups := Sparse.put 0 s.gth.lookups e n } }
  if n % 2 ^ s.rf 0x500000 4 0 ≠ 0 then s1
  else
    let w := s.rd 0x500038
    let size := 2 ^ s.rf 0x500030 4 0
    if (w - s.rd 0x500040).toNat ≥ size then s1.bump (cntBlk 48) 1
    else
      let bs := leBytes 8 (t * 2 ^ 54 + tenant % 64 * 2 ^ 48 + row % 2 ^ 40) ++ leBytes 8 (s.time.toNat % 2 ^ 32)
      (s1.hbmWrite ((s.rd 0x500028).toNat + 16 * (w.toNat % size)) bs).setReg 0x500038 (w + 1)

/-- One index's row with all that is counted for it: its bytes, or none where it is dropped. A lookup in an addressed table is sampled
too; which number its record holds as the row the spec does not say, so that is a free value (R189). -/
def State.serveIndex (s : State) (e t p tenant : Nat) (d : List W64) (g : RowGot) (row : Nat) : Option (List Byte) × State :=
  let s1 := if tblKind d = 4 then s.draw.2.sample e t s.draw.1.toNat tenant else s.sample e t row tenant
  match g with
  | .row bs sat owner => (some bs, (s1.bump (cntTbl t 1) sat).bump (cntTbl t 2) (b2n owner))
  | .need _ => (none, s1)
  | .drop x => (none, s1.countDrop t p tenant x)

/-- The row number an index names, for the sample. -/
def rowNumber (d : List W64) (i : Nat) : Nat := if tblKind d = 2 then (tblHash d i).toNat * tblCount d / 2 ^ 64 else i

/-! ### GATHER at its engine (R180 to R182) -/

/-- Index j of a gather's list, its tenant, and what it names. -/
def State.gatherOne (s : State) (got : Got) (ph : Nat) (d t : List W64) (j : Nat) : Nat × Nat × RowGot :=
  let w := gdWidth d
  let i := leNat (s.beadRead ph (gdList d + w * j) w)
  let tenant := if gdHasTenants d then leNat (s.beadRead ph (gdTenants d + j) 1) % 64 else gdTenant d
  (i, tenant, if gdMode d = 1 then s.lookupAddr got t i (gdSize d t) else s.lookup got (gdTable d) t i w false)

/-- The ranges beyond the block that a gather has still to read. -/
def State.gatherNeeds (s : State) (got : Got) (ph : Nat) (d t : List W64) : List (Nat × Nat) :=
  (List.range (gdCount d)).flatMap (fun j => match (s.gatherOne got ph d t j).2.2 with | .need l => l | _ => [])

/-- Deliver rows j, j+1, …; the bits of the rows delivered (fuel: rows left). Words that another unit wrote unordered are free (R123):
`cl` are their ranges. -/
def State.gatherRows (s : State) (got : Got) (l ph p dest : Nat) (cl : List (Nat × Nat)) (d t : List W64) (j : Nat) :
    Nat → List Bool × State
  | 0 => ([], s)
  | k + 1 =>
    let x := s.gatherOne got ph d t j
    let r := s.serveIndex (engineOf l) (gdTable d) p x.2.1 t x.2.2 (rowNumber t x.1)
    let bs := match r.1 with | some b => b | none => List.replicate (gdSize d t) 0
    let rest := (r.2.unorderedWrite p ph (dest + j * gdStride d) bs cl).gatherRows got l ph p dest cl d t (j + 1) k
    (r.1.isSome :: rest.1, rest.2)

/-- Bits as whole bytes, bit j in bit j mod 8 of byte j div 8. -/
def bitmapBytes (n : Nat) (l : List Bool) : List Byte :=
  (List.range n).map (fun k => BitVec.ofNat 8 ((List.range 8).foldl (fun a j => a + b2n (nth false l (8 * k + j)) * 2 ^ j) 0))

/-- GATHER_COMPLETE: every row and the validity bitmap are visible, or the gather drew a response (R116, R179, R180). Where rows lie
beyond the block, the engine first asks for them, and completes once they are all answered (R184). The engine then takes the next
descriptor that waits for it (R182). -/
def execGatherComplete (l : Fin 512) (tag : Nat) (s : State) : Res :=
  let ph := s.phys l
  .next (match (s.rod ph).rem.find? (fun o => o.tag == tag && o.kind == .gather) with
    | none => s
    | some o =>
      if !s.live || (s.rod ph).olderTouches o then s
      else if !o.taken then s.engineTake (engineOf l) else
      match o.done with
      | some resp => s.remFail ph o resp
      | none =>
        let p := (s.partOf l).getD 0
        let u : UnitUse := .gather ph o.ord
        let ops := s.opsOf u
        let ws := (List.range 8).map (fun k => w64 (leNat ((o.data.drop (8 * k)).take 8)))
        let t := s.tbl (gdTable ws)
        let needs := s.gatherNeeds (some ops) ph ws t
        if !needs.isEmpty then (if ops.any (fun x => x.resp.isNone) then s else s.askFor u p needs)
        else
          let cl := o.clash ++ (s.rod ph).openWrites (some .remote)
          let r := s.gatherRows (some ops) l ph p o.bead cl ws t 0 (gdCount ws)
          let nb := 8 * ceilDiv (gdCount ws) 64
          (((r.2.unorderedWrite p ph (gdBitmap ws) (bitmapBytes nb r.1) cl).onRod ph (fun r => (r.dropRem tag).countOpt o.cnt)).dropOps
            u).engineTake (engineOf l))

/-! ### Owner-batched lookups (R185 to R188) -/

/-- The descriptor of a version of a table that the block holds. -/
def State.tblVersioned (s : State) (t ver : Nat) : Option (List W64) :=
  let d := s.tbl t
  let e := Sparse.get [] s.gth.prev t
  if tblKind d ≠ 0 && tblVersion d = ver then some d else if tblKind e ≠ 0 && tblVersion e = ver then some e else none

/-- Look up the indices of a slot in order: rows packed at stride S, and their bits (fuel: indices left). -/
def State.slotRows (s : State) (e t tenant : Nat) (d : Option (List W64)) (sz w : Nat) (idx : List Byte) : Nat →
    List Byte × List Bool × State
  | 0 => ([], [], s)
  | k + 1 =>
    let i := leNat (idx.take w)
    let dd := d.getD (s.tbl t)
    let g := match d with | none => .drop 6 | some d => s.lookup none t d i w true
    let r := s.serveIndex e t (tblPart dd) tenant dd g (rowNumber dd i)
    let rest := r.2.slotRows e t tenant d sz w (idx.drop w) k
    ((match r.1 with | some b => b | none => List.replicate sz 0) ++ rest.1, r.1.isSome :: rest.2.1, rest.2.2)

/-- PUT an engine's bytes to a place of this block in the layout of class 0b100; a non-zero reserved field draws ADDRESS, and nothing is
written (06 R124). -/
def State.enginePut (s : State) (at_ : Nat) (bs : List Byte) : State :=
  if at_ / 2 ^ 48 % 4 = 0 then (if at_ % 2 ^ 48 + bs.length ≤ s.design.hbmCap then s.hbmWrite (at_ % 2 ^ 48) bs else s)
  else if at_ / 2 ^ 48 % 4 = 1 && at_ / 2 ^ 32 % 2 ^ 16 = 0 && decide (at_ / 2 ^ 23 % 512 < s.design.rods) &&
      decide (at_ % 2 ^ 22 + bs.length ≤ 0x3F0000) && at_ / 2 ^ 22 % 2 = 0 then
    s.beadWrite (s.phys (at_ / 2 ^ 23 % 512)) (at_ % 2 ^ 22) bs
  else s

/-- Replies whose PUT has been answered: OK makes the tally add due; after an error response the requester is not told (DESIGN CHOICE,
log entry 119). -/
def State.settleReplies (s : State) : State :=
  s.forEach s.fab.ops (fun o s =>
    match o.use, o.resp with
    | .reply e pos c, some r =>
      let s1 := s.onOps (fun l => l.filter (fun x => x.tag != o.tag))
      if r = 0 then { s1 with gth := { s1.gth with replies := s1.gth.replies ++ [⟨e, pos, c⟩] } } else s1
    | _, _ => s)

/-- Whether a slot holds a whole lookup: its header, as many indices as it counts, at most 4,096, reserved fields zero (R186, R5). -/
def State.slotOk (s : State) (a size : Nat) : Bool :=
  let h0 := s.hbmWord a
  let w0 := s.hbmWord (a + 16)
  decide (bits h0 31 0 + 16 ≤ size) && bits (s.hbmWord (a + 8)) 51 0 == 0 &&
    decide (32 + bits w0 12 0 * (if bit w0 31 then 8 else 4) ≤ bits h0 31 0) && decide (bits w0 12 0 ≤ 4096) &&
    bits w0 30 13 == 0 && bits (s.hbmWord (a + 24)) 63 50 == 0 && bits (s.hbmWord (a + 32)) 63 50 == 0 && s.hbmWord (a + 40) == 0

/-- Serve one slot of an inbox (R187): header at `a` of HBM. A slot of another round is counted as stale (06 R146); one that does not hold
a whole lookup is rejected (R5). -/
def State.serveSlot (s : State) (e p round a size : Nat) : State :=
  if bits (s.hbmWord a) 63 32 ≠ round then
    { s with gth := { s.gth with stale := Sparse.put 0 s.gth.stale e (Sparse.get 0 s.gth.stale e + 1) } }
  else if !s.slotOk a size then s
  else
    let w0 := s.hbmWord (a + 16)
    let t := bits w0 41 32
    let n := bits w0 12 0
    let w := if bit w0 31 then 8 else 4
    let ver := s.tblVersioned t (bits w0 63 48)
    let sz := tblRow (ver.getD (s.tbl t))
    let r := s.slotRows e t (bits w0 47 42) ver sz w (s.hbmRead (a + 48) (n * w)) n
    let bm := bitmapBytes (8 * ceilDiv n 64) r.2.1
    let pos := bits (s.hbmWord (a + 8)) 63 61
    let pad := ceilDiv (n * sz) 8 * 8 - n * sz
    let bs := r.1 ++ List.replicate pad 0 ++ bm
    let at_ := bits (s.hbmWord (a + 24)) 49 0
    let c := bits (s.hbmWord (a + 32)) 49 0
    let due (s : State) : State := { s with gth := { s.gth with replies := s.gth.replies ++ [⟨e, pos, c⟩] } }
    if n = 0 then due r.2.2
    else if pos = s.fab.pos then due (r.2.2.enginePut at_ bs)
    else (r.2.2.unitOp (.reply e pos c) p 2 (4 * 2 ^ 53 + pos * 2 ^ 50 + at_) bs.length bs false 0 0 0).settleReplies

def inboxReg (e off : Nat) : Nat := 0x501000 + 0x40 * e + off

/-- An inbox counter that has reached its senders: the engine serves every slot of the round (R185). -/
def State.inboxServe (s : State) (e : Nat) : State :=
  let n := s.rf (inboxReg e 0x10) 42 32
  let cnt := s.rf (inboxReg e 0x18) 31 0
  if !bit (s.rd (inboxReg e 0x28)) 0 || n = 0 || cnt < n then s
  else
    let round := s.rf (inboxReg e 0x20) 31 0
    let base := (s.rd (inboxReg e (if round % 2 = 0 then 0 else 8))).toNat
    let size := s.rf (inboxReg e 0x10) 22 0
    let p := s.rf (inboxReg e 0x10) 51 48
    let s1 := (s.setReg (inboxReg e 0x18) (w64 (cnt - n))).forEach (List.range n) (fun k s => s.serveSlot e p round (base + k * size) size)
    s1.setReg (inboxReg e 0x20) (w64 ((round + 1) % 2 ^ 32))

/-- LOOKUP_REPLY: the reply's PUT has completed, and the tally add of 1 goes to the requester's counter, in rods space (R186, R187). -/
def execLookupReply (e : Fin 32) (s : State) : Res :=
  .next (match s.gth.replies.find? (fun r => r.engine == e.val) with
    | none => s
    | some r =>
      if !s.live then s else
      let s1 := { s with gth := { s.gth with replies := s.gth.replies.erase r } }
      if r.pos = s.fab.pos then
        (if r.counter / 2 ^ 32 = 2 ^ 16 && r.counter / 2 ^ 22 % 2 = 1 && decide (r.counter / 2 ^ 23 % 512 < s.design.rods) &&
            r.counter % 4 = 0 && decide (r.counter % 2 ^ 22 / 4 < 14) then
          s1.addCnt (s.phys (r.counter / 2 ^ 23 % 512)) (r.counter % 2 ^ 22 / 4) 1 else s1)
      else (s1.unitOp .note (s.rf (inboxReg e 0x10) 51 48) 7 (4 * 2 ^ 53 + r.pos * 2 ^ 50 + r.counter) 4 [] false 0 1 0).settleNotes)

/-! ### Row writes (R194) -/

def rowKey (t row : Nat) : Nat := 2 ^ 40 * t + row

/-- GTH_ROWWRITE: GO queues the write, unless 64 are queued. -/
def execGthRowwrite (v : W64) (s : State) : Res :=
  .next (if !s.live then s else
    let s1 := s.setRf 0x500110 9 0 (bits v 9 0)
    if bit v 63 && s.gth.rowq.length < 64 then
      { s1 with gth := { s1.gth with rowq := s1.gth.rowq ++ [⟨bits v 9 0, s.rf 0x500108 39 0, s.rf 0x500100 51 0⟩] } }
    else s1)

/-- ROW_WRITE_FLIP: the first queued write whose row is not held goes to the copy that is not live, and the selector bit flips. A write
that names no row of a replaceable table, or whose source cannot be read, leaves the queue without effect. -/
def execRowWriteFlip (s : State) : Res :=
  .next (match s.gth.rowq.find? (fun q => Sparse.get 0 s.gth.holds (rowKey q.table q.row) == 0) with
    | none => s
    | some q =>
      if !s.live then s else
      let d := s.tbl q.table
      let p := tblPart d
      let s1 := { s with gth := { s.gth with rowq := s.gth.rowq.erase q } }
      match s.rangeRead p q.src (tblRow d), s.liveCopy d q.row with
      | some bs, some b =>
        if tblReplaceable d && q.row < tblCount d then
          let s2 := s1.rangeWrite p (tblBase d + (if b then q.row else tblCount d + q.row) * tblRow d) bs
          let a := bits (nth 0 d 11) 51 0 + q.row / 8
          let old := nth 0 ((s.rangeRead p a 1).getD [0]) 0
          let s3 := s2.rangeWrite p a [old ^^^ BitVec.ofNat 8 (2 ^ (q.row % 8))]
          { s3 with gth := { s3.gth with holds := Sparse.put 0 s3.gth.holds (rowKey q.table q.row) (s.time + 1) } }
        else s1
      | _, _ => s1)

/-- ROW_WRITE_HOLD_EXPIRE: 25 µs after a flip the row takes its next write. -/
def execRowWriteHoldExpire (tbl : Fin 1024) (row : Nat) (s : State) : Res :=
  let t0 := Sparse.get 0 s.gth.holds (rowKey tbl row)
  .next (if s.live && t0 ≠ 0 && t0.toNat + 24999 ≤ s.time.toNat then
    { s with gth := { s.gth with holds := Sparse.put 0 s.gth.holds (rowKey tbl row) 0 } } else s)

/-! ### Staged tables (R173, R195, R453) -/

/-- A base lies in a pinned tier 1 page. -/
def State.pinnedT1 (s : State) (p a : Nat) : Bool :=
  match s.xlat p a with | .page e _ _ _ => entryTier e == 1 && entryPinned e | _ => false

/-- Every rule that a staged descriptor must meet (R173). -/
def State.tblAccepts (s : State) (d : List W64) : Bool :=
  let w (n : Nat) : W64 := nth 0 d n
  let k := tblKind d
  let p := tblPart d
  let z (c : Bool) (x : Nat) : Bool := c || decide (x = 0)
  let al (x : Nat) : Bool := decide (x % 65536 = 0)
  decide (1 ≤ k) && decide (k ≤ 4) &&
  (!tblReplaceable d || ((k == 1 || k == 2) && !tblHot d && !tblSharded d && s.pinnedT1 p (tblBase d) &&
    s.pinnedT1 p (bits (w 11) 51 0))) &&
  (!(tblHot d || tblSharded d) || k == 1 || k == 2) &&
  (if k = 3 then (tblType d == 0 || tblType d == 2 || tblType d == 3) && tblM d ≠ 0 && tblSecond d ≠ 0
   else tblType d == 0 && tblM d == 0) &&
  (if k = 4 then bits (w 0) 31 16 = 0 && tblCount d = 0 && tblSecond d ≠ 0 && tblSecond d % 65536 = 0
   else 1 ≤ bits (w 0) 31 16 && bits (w 0) 31 16 ≤ 32768 && 1 ≤ tblCount d) &&
  z (k == 3 || k == 4) (tblSecond d) && z (tblSharded d) (bits (w 5) 51 0) &&
  al (tblBase d) && (k == 4 || al (tblSecond d)) && al (bits (w 5) 51 0) &&
  (!tblHot d || (al (bits (w 8) 51 0) && al (bits (w 9) 51 0) && 10 ≤ bits (w 10) 63 59 && bits (w 10) 63 59 ≤ 24)) &&
  (!tblReplaceable d || al (bits (w 11) 51 0)) &&
  bits (w 0) 52 52 == 0 && bits (w 0) 15 0 == 0 && bits (w 1) 63 40 == 0 && bits (w 2) 63 52 == 0 && bits (w 3) 63 52 == 0 &&
  bits (w 4) 31 0 == 0 && bits (w 5) 63 52 == 0 && bits (w 8) 63 52 == 0 && bits (w 9) 63 52 == 0 && bits (w 10) 58 0 == 0 &&
  bits (w 11) 63 52 == 0 && (d.drop 12).all (· == 0)

def State.tblStaged (s : State) : List W64 := (List.range 16).map (fun k => s.rd (0x500200 + 8 * k))

/-- Apply or reject the staged image; the first step built with it is the next one (R195). -/
def State.applyTable (s : State) : State :=
  let d := s.tblStaged
  let t := s.rf 0x500280 9 0
  let p := tblPart d
  if !bit (s.rd 0x500280) 63 then s
  else
    let ok := s.tblAccepts d
    let old := s.tbl t
    let s1 := if ok then
        { s with gth := { s.gth with
            tables := Sparse.put [] s.gth.tables t d
            prev := Sparse.put [] s.gth.prev t (if tblSharded old then old else []) } }
      else s
    ((s1.setRf 0x500280 62 60 (if ok then 1 else 2)).setRf 0x500280 63 63 0).setReg 0x500288 (w64 (s.part p).step)

/-- GTH_TBL_STAGE_APPLY: Penub sets the apply bit. -/
def execGthTblStageApply (s : State) : Res := .next (if s.live then s.setRf 0x500280 63 63 1 else s)

/-- TABLE_APPLY: where the owning partition has no step pending; otherwise its next step boundary, the seal, applies the image (R195). -/
def execTableApply (s : State) : Res :=
  .next (if s.live && s.idle (tblPart s.tblStaged) then s.applyTable else s)

/-! ### Penub's care of hot rows (R191, R192) -/

/-- Where an index entry of a row goes: its own entry, or the first empty one of the probe (fuel: entries left). -/
def State.hotPlace (s : State) (p : Nat) (d : List W64) (row at_ : Nat) : Nat → Option Nat
  | 0 => none
  | k + 1 =>
    let a := bits (nth 0 d 8) 51 0 + 8 * (at_ % 2 ^ bits (nth 0 d 10) 63 59)
    match s.rangeRead64 p a with
    | none => none
    | some e => if e = 0 || bits e 63 24 = row + 1 then some a else s.hotPlace p d row (at_ + 1) k

/-- One change of a hot set: the slot is written before its index entry, and not within 25 µs of the eviction that freed it (R191). -/
def State.hotChange (s : State) (t : Nat) (d : List W64) : HotChange → State
  | .insert row slot content =>
    let p := tblPart d
    let t0 := (Sparse.get 0 s.gth.freed (2 ^ 24 * t + slot % 2 ^ 24)).toNat
    match s.hotPlace p d row (tblHash d row).toNat 8 with
    | some a =>
      if t0 ≠ 0 && decide (s.time.toNat < t0 + 24999) then s else
      (s.rangeWrite p (bits (nth 0 d 9) 51 0 + slot * tblRow d) (content.take (tblRow d))).rangeWrite64 p a
        (w64 ((row + 1) * 2 ^ 24 + slot % 2 ^ 24))
    | none => s
  | .evict row =>
    let p := tblPart d
    match s.hotPlace p d row (tblHash d row).toNat 8 with
    | some a =>
      match s.rangeRead64 p a with
      | some e =>
        if e = 0 then s else
        { s.rangeWrite64 p a 0 with gth := { s.gth with freed := Sparse.put 0 s.gth.freed (2 ^ 24 * t + bits e 23 0) (s.time + 1) } }
      | none => s
    | none => s

/-- HOT_SET_REFRESH. -/
def execHotSetRefresh (tbl : Fin 1024) (changes : List HotChange) (s : State) : Res :=
  let d := s.tbl tbl
  .next (if s.live && tblHot d then (s.journal 2 [w64 tbl]).forEach changes (fun c s => s.hotChange tbl d c) else s)

/-- Whether a range of HBM still holds a bucket's old place: one migrated away with a replica of its rows that has not been withdrawn
(14 R320). -/
def State.oldPlace (s : State) (at_ len : Nat) : Bool :=
  s.gth.moved.any (fun m => overlap m.2.2 (4096 * tblRow (s.tbl m.1)) at_ len &&
    s.fab.dir.any (fun e => e.table == m.1 && e.row / 4096 == m.2.1 && (!e.mask.isEmpty || !e.await.isEmpty || !e.puts.isEmpty)))

/-- The copy of a migrating bucket: this block PUTs it to its new owner, or GETs it as its new owner; between two others it has no part in
it. -/
def State.bucketCopy (s : State) (t bucket p o off owner offset sz : Nat) : State :=
  if o = s.fab.pos then
    (if owner = s.fab.pos then s.hbmWrite offset (s.hbmRead off sz)
     else s.unitOp (.bucket t bucket) p 2 (peerHbm owner offset) sz (s.hbmRead off sz) false 0 0 0)
  else if owner = s.fab.pos then s.unitOp (.bucket t bucket) p 1 (peerHbm o off) sz [] false 0 0 0
  else s

/-- The changed shard map is written at a new place and the new version of the table staged (R192, R195). -/
def State.stageBucket (s : State) (t bucket owner offset newMap : Nat) (d : List W64) (m : List Byte) : State :=
  let entry := leBytes 8 (owner * 2 ^ 61 + offset)
  let s2 := s.rangeWrite (tblPart d) newMap (m.take (8 * bucket) ++ entry ++ m.drop (8 * bucket + 8))
  let d' := setNth (setNth d 0 (setBits (nth 0 d 0) 47 32 ((tblVersion d + 1) % 2 ^ 16))) 5 (w64 newMap)
  let s3 := s2.forEach (List.range 16) (fun k s => s.setReg (0x500200 + 8 * k) (nth 0 d' k))
  (s3.setRf 0x500280 9 0 t).setRf 0x500280 63 63 1

/-- SHARD_MIGRATION: the bucket is copied; once the copy has been answered OK, the command given again stages the new version, where the
staging registers are free (R192, R195). A place that a bucket has left is not used while a replica of its rows stands (14 R320). -/
def execShardMigration (tbl : Fin 1024) (bucket : Nat) (owner : Fin 8) (offset : BitVec 48) (newMap : BitVec 52) (s : State) : Res :=
  let d := s.tbl tbl
  let p := tblPart d
  let sz := tblRow d * 4096
  let n := 8 * ceilDiv (tblCount d) 4096
  let u : UnitUse := .bucket tbl bucket
  .next (match s.shardOf d (4096 * bucket), s.rangeRead p (bits (nth 0 d 5) 51 0) n with
    | some (o, off), some m =>
      if !(s.live && tblSharded d && decide (8 * bucket < n) && !bit (s.rd 0x500280) 63) ||
        (owner.val = s.fab.pos && s.oldPlace offset.toNat sz) then s else
      let done (s : State) : State :=
        let s1 := if o = s.fab.pos && owner.val ≠ s.fab.pos then
          { s with gth := { s.gth with moved := s.gth.moved ++ [(tbl.val, bucket, off)] } } else s
        (s1.journal 2 [w64 tbl, w64 bucket, w64 owner]).stageBucket tbl bucket owner offset.toNat newMap.toNat d m
      match s.opsOf u with
      | [] =>
        let s1 := s.bucketCopy tbl bucket p o off owner offset.toNat sz
        if (s1.opsOf u).isEmpty then done s1 else s1
      | x :: _ =>
        match x.resp with
        | none => s
        | some r =>
          if r ≠ 0 then s.dropOps u
          else done (if x.op = 1 then (s.dropOps u).hbmWrite offset.toNat x.data else s.dropOps u)
    | _, _ => s)

/-! ### Input segments (09 R211) and the prompt packer (08 R198 to R202) -/

/-- A segment: provenance, content, HBM offset of its content, length. -/
structure Seg where
  prov : Nat
  content : Nat
  at_ : Nat
  len : Nat
deriving DecidableEq, Repr

/-- Where an input buffer lies and its size. -/
def State.bufAt (s : State) (t b : Nat) : Nat × Nat :=
  let sz := 2 ^ s.rf (hReg t 0x18) 4 0
  ((s.rd (hReg t 0x10)).toNat + b * sz, sz)

/-- The segments of a buffer in order, up to its end segment; none where the buffer breaks Table 9.4 or has no end (fuel: segments). -/
def State.segsFrom (s : State) (a stop : Nat) : Nat → Option (List Seg)
  | 0 => none
  | k + 1 =>
    if a + 8 > stop then none else
    let h := s.hbmWord a
    let prov := bits h 63 62
    let c := bits h 61 60
    let n := bits h 16 0
    if bits h 59 17 ≠ 0 || prov = 3 || c = 2 then none
    else if c = 3 then (if n = 0 then some [] else none)
    else
      let size := if c = 0 then ceilDiv (4 * n) 8 * 8 else 64 + 16 * bits (s.hbmWord (a + 16)) 31 16
      if (c = 0 && n = 0) || (c = 1 && n ≠ 0) || (c = 1 && prov ≠ 2) then none
      else (s.segsFrom (a + 8 + size) stop k).map (fun r => ⟨prov, c, a + 8, n⟩ :: r)
def State.segs (s : State) (i : Nat) : Option (List Seg) :=
  let x := s.slot i
  let b := s.bufAt x.tenant x.buffer
  s.segsFrom b.1 (b.1 + b.2) (b.2 / 8)
/-- The pack segment of a request's buffer. -/
def State.packSeg (s : State) (i : Nat) : Option Seg := (s.segs i).bind (fun l => l.find? (fun g => g.content == 1))

/-- Whether a pack record of partition `p` keeps Table 8.7, its passage table being a passage store of the partition, and its candidates
Table 8.8 (R197, R199, R5). -/
def State.packOk (s : State) (t p a : Nat) : Bool :=
  let w (n : Nat) : W64 := s.hbmWord (a + 8 * n)
  let d := s.tbl (bits (w 1) 9 0)
  bits (w 0) 60 50 == 0 && decide (1 ≤ bits (w 0) 31 0) && decide (bits (w 0) 31 0 ≤ 131072) && bits (w 1) 63 48 == 0 &&
    decide (1 ≤ bits (w 1) 47 32) && decide (bits (w 1) 47 32 ≤ 64) && decide (1 ≤ bits (w 1) 31 16) &&
    decide (bits (w 1) 31 16 ≤ 1024) && bits (w 1) 15 10 == 0 && bits (w 2) 63 52 == 0 && bits (w 2) 2 0 == 0 &&
    bits (w 3) 63 40 == 0 && (List.range 4).all (fun k => w (4 + k) == 0) &&
    (!bit (w 0) 63 || bit (s.rd (hReg t 8)) 1) && tblKind d == 1 && tblPart d == p && tblRow d == 32 &&
    (List.range (bits (w 1) 31 16)).all (fun k => bits (w (8 + 2 * k)) 62 40 == 0 && bits (w (9 + 2 * k)) 63 32 == 0)

/-- A candidate: position, passage, score. -/
structure Cand where
  pos : Nat
  passage : Nat
  score : W32
deriving DecidableEq, Repr

/-- Insert a candidate by score, highest first; equal scores keep list order (R200). -/
def candInsert (c : Cand) : List Cand → List Cand
  | [] => [c]
  | d :: r => if f32Key d.score < f32Key c.score then c :: d :: r else d :: candInsert c r

/-- Whether a candidate's bit of the bitmap admits it; none where the byte must be read from beyond the block first (R200). -/
def State.bitmapAdmits (s : State) (g : Got) (p a pid : Nat) : Option Bool :=
  if pid ≥ bits (s.hbmWord (a + 24)) 39 0 then some false
  else match s.readRow p g (bits (s.hbmWord (a + 16)) 51 0 + pid / 8) 1 with
    | .row b _ _ => some (bit (nth 0 b 0) (pid % 8))
    | .need _ => none
    | .drop _ => some false

/-- The ranges beyond the block that the bitmap's bytes lie in and that have not been read. -/
def State.bitmapNeeds (s : State) (g : Got) (p a : Nat) : List (Nat × Nat) :=
  if !bit (s.hbmWord a) 63 then [] else
  (List.range (bits (s.hbmWord (a + 8)) 31 16)).flatMap (fun k =>
    let pid := bits (s.hbmWord (a + 64 + 16 * k)) 39 0
    match s.readRow p g (bits (s.hbmWord (a + 16)) 51 0 + pid / 8) 1 with
    | .need l => if pid < bits (s.hbmWord (a + 24)) 39 0 then l else []
    | _ => [])

/-- The candidates of a record that R200 keeps, ranked, with the removals counted (fuel: candidates left). -/
def State.packCands (s : State) (g : Got) (t p a k : Nat) (acc : List Cand) : Nat → List Cand × State
  | 0 => (acc, s)
  | n + 1 =>
    let e0 := s.hbmWord (a + 64 + 16 * k)
    let score : W32 := (s.hbmWord (a + 72 + 16 * k)).setWidth 32
    let pid := bits e0 39 0
    let bad := bit (s.hbmWord a) 63 && s.bitmapAdmits g p a pid != some true
    if bit e0 63 then (s.bump (cntTen t 17) 1).packCands g t p a (k + 1) acc n
    else if f32IsNan score then (s.bump (cntTen t 18) 1).packCands g t p a (k + 1) acc n
    else if bad then (s.bump (cntTen t 19) 1).packCands g t p a (k + 1) acc n
    else s.packCands g t p a (k + 1) (candInsert ⟨k, pid, score⟩ acc) n

/-- What fetching a passage gives: its tokens, ranges to be read first, or a drop reason. -/
inductive PassGot where
  | toks (l : List Nat)
  | need (l : List (Nat × Nat))
  | drop (reason : Nat)
deriving DecidableEq, Repr

/-- A passage's row, then its token array (R197). -/
def State.passage (s : State) (g : Got) (p tbl pid : Nat) : PassGot :=
  let d := s.tbl tbl
  if tblKind d ≠ 1 || tblPart d ≠ p || tblRow d ≠ 32 then .drop 3 else
  match s.lookup g tbl d pid 8 false with
  | .drop r => .drop r
  | .need l => .need l
  | .row b _ _ =>
    let w0 := leNat (b.take 8)
    let w1 := leNat ((b.drop 8).take 8)
    if w0 ≥ 2 ^ 52 || w0 % 32 ≠ 0 || w1 = 0 || w1 > 4096 || leNat (b.drop 16) ≠ 0 then .drop 3
    else match s.readRow p g w0 (4 * w1) with
      | .row tb _ _ =>
        let toks := (List.range w1).map (fun k => leNat ((tb.drop (4 * k)).take 4))
        if toks.all (fun t => decide (t < 2 ^ 18)) then .toks toks else .drop 3
      | .drop r => .drop r
      | .need l => .need l

/-- Append passages in rank order while the budget allows (R201): the tokens, the passages packed, and the ranges that must be read from
beyond the block before the pack can go on. -/
def State.packFill (s : State) (g : Got) (e t p tbl want budget : Nat) (sep : Option Nat) :
    List Cand → List Nat → Nat → List Nat × Nat × List (Nat × Nat) × State
  | [], acc, n => (acc, n, [], s)
  | c :: r, acc, n =>
    if n ≥ want then (acc, n, [], s) else
    let s1 := s.sample e tbl c.passage t
    match s.passage g p tbl c.passage with
    | .need l => (acc, n, l, s)
    | .drop x => (s1.countDrop tbl p t x).packFill g e t p tbl want budget sep r acc n
    | .toks toks =>
      let add := (match sep with | some k => if n = 0 then [] else [k] | none => []) ++ toks
      if acc.length + add.length > budget then (s1.bump (cntTen t 20) 1).packFill g e t p tbl want budget sep r acc n
      else s1.packFill g e t p tbl want budget sep r (acc ++ add) (n + 1)

/-- The Sequencer hands a request's pack record to engine p mod 32 (R198). -/
def State.packStart (s : State) (i : Nat) : State :=
  { (s.dropOps (.pack i)).onSlot i (fun x => { x with packing := true }) with gth := { s.gth with packing := s.gth.packing ++ [i] } }

/-- The pack of a request has ended with these tokens: the passage segment is written and PACKING clears (R201, R202). -/
def State.packed (s : State) (i : Nat) (toks : List Nat) : State :=
  ({ s with gth := { s.gth with packing := s.gth.packing.filter (· != i) } }.dropOps (.pack i)).onSlot i (fun x =>
    { x with packing := false, packed := some toks })

/-- PACK_COMPLETE: the packer ranks, fetches and packs, writes the passage segment and clears PACKING (R200 to R202). Where bytes lie
beyond the block it asks for them, and goes on once they are answered. -/
def execPackComplete (i : Fin 32768) (s : State) : Res :=
  .next (if !(s.live && s.gth.packing.contains i.val) then s else
    match s.packSeg i with
    | none => s
    | some g =>
      let t := (s.slot i).tenant
      let p := (s.slot i).part
      let ops := s.opsOf (.pack i)
      let r0 := s.hbmWord g.at_
      let r1 := s.hbmWord (g.at_ + 8)
      if ops.any (fun x => x.resp.isNone) then s else
      let bm := s.bitmapNeeds (some ops) p g.at_
      if !bm.isEmpty then s.askFor (.pack i) p bm else
      let c := s.packCands (some ops) t p g.at_ 0 [] (bits r1 31 16)
      let sep := if bit r0 61 then some (bits r0 49 32) else none
      let f := c.2.packFill (some ops) (p % 32) t p (bits r1 9 0) (bits r1 47 32) (bits r0 31 0) sep c.1 [] 0
      if !f.2.2.1.isEmpty then s.askFor (.pack i) p f.2.2.1 else
      let s2 := f.2.2.2.packed i f.1
      if f.2.1 < bits r1 47 32 then
        let s3 := s2.bump (cntTen t 21) 1
        if bit r0 62 then s3.endLater i 0x0C else s3.inform i 0x0C
      else s2)

end Sys2Proof.Machine
end

