-- ==== Sys2Proof/Machine/Directory.lean ====
section
/-! DEFINITION. The adapter directory (07_adapters.md R164, R165, Tables 7.7 and 7.8) and the staged writes of directory entries and
Sampler profiles (21_registers.md R453, 11 R251). -/

namespace Sys2Proof.Machine

/-- The 64-bit words of a byte run. -/
def wordsOf : Nat → List Byte → List W64
  | 0, _ => []
  | n + 1, l => w64 (leNat (l.take 8)) :: wordsOf n (l.drop 8)

def bytesOf (ws : List W64) : List Byte := ws.flatMap (fun w => leBytes 8 w.toNat)

def dirReg (p off : Nat) : Nat := 0x502100 + 0x80 * p + off

/-- Where the first-level entry of an id lies. -/
def State.dirFirstAt (s : State) (p id : Nat) : Nat := (s.rd (0x502000 + 8 * p)).toNat + 8 * (id / 4096)

/-- Where the second-level entry of an id lies; none where its first-level entry is not valid or cannot be read. -/
def State.dirAt (s : State) (p id : Nat) : Option Nat :=
  match s.rangeRead64 p (s.dirFirstAt p id) with
  | none => none
  | some e => if bit e 63 then some (bits e 51 0 + 64 * (id % 4096)) else none

/-- The second-level entry of an id, in words; none where it cannot be read. -/
def State.dirEntry (s : State) (p id : Nat) : Option (List W64) :=
  match s.dirAt p id with
  | none => none
  | some a => (s.rangeRead p a 64).map (wordsOf 8)

def deState (e : List W64) : Nat := bits (nth 0 e 0) 63 60
def deForm (e : List W64) : Nat := bits (nth 0 e 0) 59 56
def deId (e : List W64) : Nat := bits (nth 0 e 1) 63 40
def deShared (e : List W64) : Bool := bit (nth 0 e 1) 39
def deMask (e : List W64) : Nat := bits (nth 0 e 1) 38 32
def deImage (e : List W64) : Nat := bits (nth 0 e 2) 51 0
def deGen (e : List W64) : Nat := bits (nth 0 e 3) 63 32
def deBlocks (e : List W64) : Nat := bits (nth 0 e 3) 31 16
def deStride (e : List W64) : Nat := bits (nth 0 e 3) 15 0
def deOwner (e : List W64) : Nat := bits (nth 0 e 4) 5 0

/-- A second-level entry, and a first-level one, has no reserved code and no non-zero reserved field (R5, Table 7.7). -/
def deClean (e : List W64) : Bool :=
  decide (deState e ≤ 2) && bits (nth 0 e 0) 51 48 == 0 && bits (nth 0 e 0) 15 0 == 0 && bits (nth 0 e 2) 63 52 == 0 &&
    bits (nth 0 e 4) 63 6 == 0 && nth 0 e 6 == 0 && nth 0 e 7 == 0
def firstClean (w : W64) : Bool := bits w 62 52 == 0

/-- What resolving an adapter id gives (Table 7.8). -/
inductive Resolved where
  | noAdapter
  | slot (entry : List W64)
  | loading
  | absent
  | invalid
deriving DecidableEq, Repr

/-- Resolve an adapter id for a tenant of a partition (R165). An entry with a non-zero reserved field is rejected with
INVALID_DESCRIPTOR (R5), which only a request that sees the entry learns (DESIGN CHOICE, log entry 120). -/
def State.resolve (s : State) (p id t : Nat) : Resolved :=
  if id = 0 then .noAdapter else
  match s.dirEntry p id with
  | none => .absent
  | some e =>
    if deId e ≠ id || !(deOwner e == t || deShared e) then .absent
    else if !deClean e || !firstClean ((s.rangeRead64 p (s.dirFirstAt p id)).getD 0) then .invalid
    else if deState e = 2 then .slot e
    else if deState e = 1 then .loading
    else .absent

/-- The slot table entry of a READY adapter (Table 7.6). -/
def slotWords (e : List W64) : List W64 :=
  let w0 := nth 0 e 0
  [w64 (deId e * 2 ^ 40 + bits w0 59 56 * 2 ^ 36 + bits w0 55 52 * 2 ^ 32 + bits w0 47 32 * 2 ^ 16 + bits w0 31 16),
   w64 (deImage e),
   w64 (deMask e * 2 ^ 32 + bits (nth 0 e 1) 31 0),
   w64 (deGen e * 2 ^ 32 + deBlocks e * 2 ^ 16 + deStride e)]

/-- SEQ_OLDEST_OPEN: the oldest step launched and not committed, or the next to be launched (10 R227). -/
def State.oldestOpen (s : State) (p : Nat) : Nat := match (s.part p).opened with | some d => d.step | none => (s.part p).step

/-- The image of a READY entry that a write supersedes or removes, kept until every step built before has committed (R168). -/
def State.supersede (s : State) (p first : Nat) (old img : List W64) : State :=
  let gone := deState old == 2 && (deState img != 2 || deImage img != deImage old)
  s.onPart p (fun x => { x with images := x.images.filter (fun m => decide (s.oldestOpen p < m.2.2)) ++
    (if gone then [(deImage old, 256 + deBlocks old * (32 * deStride old), first)] else []) })

/-- Whether a range of the partition range holds an image that an uncommitted step may still name (R168). -/
def State.imageKept (s : State) (p a len : Nat) : Bool :=
  (s.part p).images.any (fun m => decide (s.oldestOpen p < m.2.2) && overlap m.1 m.2.1 a len)

/-- The staged image is applied as one action, or dropped where the entry it writes cannot be reached, or where it has a non-zero reserved
field (R5); FIRST takes the number of the first step built with it (R164). -/
def State.applyDir (s : State) (p : Nat) : State :=
  if !bit (s.rd (dirReg p 0x40)) 63 then s
  else
    let id := s.rf (dirReg p 0x40) 23 0
    let level1 := bit (s.rd (dirReg p 0x40)) 32
    let img := (List.range 8).map (fun k => s.rd (dirReg p (8 * k)))
    let target := if level1 then some (s.dirFirstAt p id, bytesOf (img.take 1)) else (s.dirAt p id).map (fun a => (a, bytesOf img))
    let clean := if level1 then firstClean (nth 0 img 0) else deClean img
    let x := s.part p
    let first := x.step + (match x.build with | .idle => 0 | _ => 1)
    let put := match target with
      | none => none
      | some (a, b) =>
        if clean && (s.tier1 p a).isSome then
          let s1 := s.rangeWrite p a b
          some (if level1 then s1 else s1.supersede p first ((s.dirEntry p id).getD []) img)
        else none
    (((put.getD s).setRf (dirReg p 0x40) 62 60 (if put.isSome then 1 else 2)).setRf (dirReg p 0x40) 63 63 0).setReg (dirReg p 0x48)
      (w64 first)

/-- Stage an entry by Penub's own hand: image, id, level 0 and APPLY, where no staged write is pending. -/
def State.stageDir (s : State) (p id : Nat) (img : List W64) : State :=
  let s1 := s.forEach (List.range 8) (fun k s => s.setReg (dirReg p (8 * k)) (nth 0 img k))
  s1.setReg (dirReg p 0x40) (w64 (2 ^ 63 + id % 2 ^ 24))

/-- Whether a staged directory write waits. -/
def State.dirBusy (s : State) (p : Nat) : Bool := bit (s.rd (dirReg p 0x40)) 63

/-- Where the staging registers are free, Penub stages the next lost adapter as ABSENT (17 Table 17.4, R167). -/
def State.dirNext (s : State) (p : Nat) : State :=
  match (s.part p).dirLost with
  | [] => s
  | id :: r => if s.dirBusy p then s else (s.onPart p (fun x => { x with dirLost := r })).stageDir p id (List.replicate 8 0)

/-- CAR_DIR_STAGE_APPLY: Penub sets the apply bit. -/
def execCarDirStageApply (p : Fin 16) (s : State) : Res :=
  .next (if s.live then s.setRf (dirReg p 0x40) 63 63 1 else s)

/-- DIRECTORY_APPLY: where no build of the partition is to come, within 1 µs; otherwise the next build applies the write (R164). -/
def execDirectoryApply (p : Fin 16) (s : State) : Res :=
  .next (if s.live && (s.idle p || (s.part p).st ≠ .running) then (s.applyDir p).dirNext p else s)

/-- SEQ_PROF_STAGE_APPLY: Penub sets the apply bit. -/
def execSeqProfStageApply (p : Fin 16) (s : State) : Res :=
  .next (if s.live then s.setRf (pReg p 0x240) 63 63 1 else s)

/-- PROFILE_APPLY: the Sampler writes the staged profile when it is not handling a step of the partition (R251). -/
def execProfileApply (p : Fin 16) (s : State) : Res :=
  let x := s.part p
  .next (if s.live && bit (s.rd (pReg p 0x240)) 63 && !(x.opened.isSome && x.ended) then
      let img := (List.range 8).map (fun k => s.rd (pReg p (0x200 + 8 * k)))
      (s.rangeWrite p ((s.rd (pReg p 0x58)).toNat + 64 * s.rf (pReg p 0x240) 12 0) (bytesOf img)).setRf (pReg p 0x240) 63 63 0
    else s)

end Sys2Proof.Machine
end

