-- ==== Sys2Proof/Machine/Build.lean ====
section
/-! DEFINITION. The build of a step: read-in (09_slate.md R211, R212), adapter resolution (07 R163, R165), budgets (10 R238 to R240),
prefix lookup and KV supply (09 R215, R216, 10 R232), decode and prompt selection (10 R228 to R231), the descriptor (10 R233 to R236). -/

namespace Sys2Proof.Machine

/-! ### Read-in (R212) -/

/-- Words of a token segment, with whether each field is legal: ids below 2^18, padding zero. -/
def State.segWords (s : State) (g : Seg) : Option (List Nat) :=
  let l := (List.range g.len).map (fun k => (s.hbm.read32 (g.at_ + 4 * k)).toNat)
  let pad := if g.len % 2 = 1 then s.hbm.read32 (g.at_ + 4 * g.len) == 0 else true
  if pad && l.all (fun t => decide (t < 2 ^ 18)) then some l else none

/-- The tokens of a request's segments in order, with the provenance of each; none where a field is reserved. A cross-encoder's PASS
request reads its query from the user segments only. -/
def State.segTokens (s : State) (cap cross : Bool) (packed : List Nat) : List Seg → Option (List (Nat × Nat))
  | [] => some []
  | g :: r =>
    let own := if g.content = 1 then (if cross then some [] else some packed) else s.segWords g
    let prov := if cap then g.prov else 2
    match own, s.segTokens cap cross packed r with
    | some a, some b => some (if cross && prov != 2 then b else a.map (fun t => (prov, t)) ++ b)
    | _, _ => none

/-- Whether a token lies in the partition's control range (SLT_CTRL_RANGE). -/
def State.ctrlToken (s : State) (p t : Nat) : Bool :=
  decide (s.rf (pReg p 0x280) 17 0 ≤ t) && decide (t ≤ s.rf (pReg p 0x280) 49 32)

def State.modelKind (s : State) (p : Nat) : Option ModelKind := (s.part p).load.model.map (·.kind)
def State.modelD (s : State) (p : Nat) : Nat := match (s.part p).load.model with | some m => m.d | none => 0

/-- The segments become the token history. -/
def State.takeTokens (s : State) (i : Nat) (gs : List Seg) : State :=
  let x := s.slot i
  let t := x.tenant
  let cap := bit (s.rd (hReg t 8)) 0
  match s.segTokens cap (s.modelKind x.part == some .crossEncoder) (x.packed.getD []) gs with
  | none => s.endLater i 0x0B
  | some toks =>
    if toks.any (fun a => decide (a.2 ≥ s.rf (pReg x.part 0x28) 18 0)) then s.endLater i 0x0B
    else
      let down := if cap then 0 else (gs.filter (fun g => g.content == 0 && g.prov != 2)).length
      let hit (a : Nat × Nat) : Bool := a.1 == 2 && s.ctrlToken x.part a.2
      let s1 := (s.bump (cntTen t 8) down).bump (cntTen t 9) (toks.filter hit).length
      if toks.length > 131071 then s1.endLater i 0x04
      else if toks.isEmpty then s1.endLater i 0x0B
      else
        let w (a : Nat × Nat) : W32 :=
          BitVec.ofNat 32 (a.1 * 2 ^ 18 + (if hit a then s.rf (pReg x.part 0x288) 17 0 else a.2))
        (s1.forEach (List.range toks.length) (fun k s => s.histPut i k (w (nth (0, 0) toks k)))).onSlot i (fun y =>
          { y with w1 := setBits y.w1 63 47 toks.length, read := true })

/-- Read-in of an eligible request; a pack record goes to the packer first (R198, R199). -/
def State.readIn (s : State) (i : Nat) : State :=
  let x := s.slot i
  match s.segs i with
  | none => s.endLater i 0x0B
  | some gs =>
    let packs := gs.filter (fun g => g.content == 1)
    let cross := s.modelKind x.part == some .crossEncoder
    match packs with
    | [] => if cross then s.endLater i 0x0B else s.takeTokens i gs
    | [g] =>
      if !s.packOk x.tenant x.part g.at_ then s.endLater i 0x0B
      else if !cross && x.packed.isNone then s.packStart i
      else s.takeTokens i gs
    | _ => s.endLater i 0x0B

/-- Eligible for selection (R206); one that ends at the boundary is not. -/
def Slot.eligible (x : Slot) : Bool :=
  decide (1 ≤ x.state) && decide (x.state ≤ 3) && !x.waitPred && !x.inputOpen && !x.packing && !x.resuming && !x.lost && x.ended == 0

/-! ### Budgets (R238 to R240) -/

/-- What a budget group allows. -/
inductive Budget where
  | unlimited
  | unreadable
  | balance (at_ : Nat) (bal : Int) (dec prompt : Nat)
deriving DecidableEq, Repr

/-- The budget of a group. An entry with a non-zero reserved field is rejected (R5): it counts as one that cannot be read (DESIGN CHOICE,
log entry 121). -/
def State.budget (s : State) (p g : Nat) : Budget :=
  if g = 0 || g ≥ s.rf (pReg p 0x50) 16 0 then .unlimited
  else
    let a := (s.rd (pReg p 0x48)).toNat + 32 * g
    match s.rangeRead p a 32 with
    | none => .unreadable
    | some b =>
      let w := wordsOf 4 b
      if bits (nth 0 w 2) 31 1 ≠ 0 then .unreadable
      else if bit (nth 0 w 2) 0 then .balance a (nth 0 w 0).toInt (bits (nth 0 w 1) 63 48) (bits (nth 0 w 1) 47 32) else .unlimited

/-- Refill of a group that the build meets first (R239). -/
def State.refill (s : State) (p g : Nat) : State :=
  match s.budget p g with
  | .balance a bal _ _ =>
    let w := wordsOf 4 ((s.rangeRead p a 32).getD [])
    let add := bits (nth 0 w 1) 31 0 * (s.time.toNat - (nth 0 w 3).toNat) / 1000000
    let b := min ((bits (nth 0 w 2) 63 32 : Nat) : Int) (bal + add)
    (s.rangeWrite64 p a (w64i b)).rangeWrite64 p (a + 24) s.time
  | _ => s

def Budget.covers (b : Budget) (cost : Nat → Nat → Nat) : Bool :=
  match b with
  | .unlimited => true
  | .unreadable => false
  | .balance _ bal d pr => decide ((cost d pr : Int) ≤ bal)

def State.charge (s : State) (p g : Nat) (cost : Nat → Nat → Nat) : State :=
  match s.budget p g with
  | .balance a bal d pr => s.rangeWrite64 p a (w64i (bal - cost d pr))
  | _ => s

/-! ### The build under way -/

/-- What a build has chosen so far: decode and prompt rows, the runs of rows of each slot (slot, first row, rows), the slots, the budget
groups met, the requests deferred at the build before, B of R230, the smallest between-token target in ns, the requests with prompt
rows, and the requests with rows. -/
structure Bld where
  dec : List Row
  pro : List Row
  runs : List (Nat × Nat × Nat)
  slots : List SlotEnt
  met : List Nat
  was : List Nat
  blocks : Nat
  tgt : Option Nat
  prompts : Nat
  reqs : List Nat
deriving DecidableEq, Repr

def tilesOf (first n : Nat) : List Nat := if n = 0 then [] else (List.range ((first + n - 1) / 16 + 1 - first / 16)).map (· + first / 16)

/-- Tiles that hold a row of a slot. -/
def slotTiles (runs : List (Nat × Nat × Nat)) (k : Nat) : Nat :=
  ((runs.filter (fun r => r.1 == k)).flatMap (fun r => tilesOf r.2.1 r.2.2)).eraseDups.length

def sat32 (n : Nat) : Nat := min n (2 ^ 32 - 1)

/-- t_est of R230. -/
def State.estimate (s : State) (p D P B : Nat) (runs : List (Nat × Nat × Nat)) (slots : List SlotEnt) : Nat :=
  let e (j : Nat) : Nat := s.rf (pReg p (0x90 + 8 * j)) 31 0
  let tiles (basis : Bool) : Nat :=
    ((List.range slots.length).filter (fun k => (nth ⟨[], 0, false⟩ slots k).basis == basis)).foldl (fun n k => n + slotTiles runs k) 0
  let M := sat32 (e 0 + e 1 * B + e 2 * tiles true + e 3 * tiles false)
  let ct := sat32 (e 4 * D)
  let ca := sat32 (e 5 * D + e 6 * P)
  sat32 (e 7 + max M (max ct ca))

/-- The slot of an adapter in the step, assigned where it has none yet (R162, R163). -/
def State.slotFor (s : State) (p : Nat) (slots : List SlotEnt) (e : List W64) : Option (Nat × List SlotEnt) :=
  match slots.findIdx? (fun z => z.adapter == deId e) with
  | some k => some (k, slots)
  | none =>
    let basis := decide (deForm e = 1)
    if slots.length = 4096 then none
    else if !basis && decide ((slots.filter (fun z => !z.basis)).length ≥ s.rf (0x502080 + 8 * p) 12 0) then none
    else some (slots.length, slots ++ [⟨slotWords e, deId e, basis⟩])

/-- A request's adapter in this build: its slot, the slots with it, adapter and generation, and whether its rows run base-only. -/
structure Pick where
  slot : Nat
  slots : List SlotEnt
  adp : Nat
  gen : Nat
  base : Bool
deriving DecidableEq, Repr

/-- Resolve a request's adapter (Table 7.8), counting where it is left out. -/
def State.pick (s : State) (p i : Nat) (slots : List SlotEnt) : State × Option Pick :=
  let x := s.slot i
  match s.resolve p x.adapter x.tenant with
  | .noAdapter => (s, some ⟨0xFFFF, slots, 0, 0, false⟩)
  | .slot e =>
    match s.slotFor p slots e with
    | none => (s.bump (cntPart p 10) 1, none)
    | some (k, sl) => (s, some ⟨k, sl, deId e, deGen e, false⟩)
  | .loading => (s.bump (cntPart p 11) 1, none)
  | .invalid => (s.endLater i 0x0B, none)
  | .absent =>
    if x.strict then ((s.bump (cntTen x.tenant 25) 1).endLater i 0x02, none)
    else (s, some ⟨0xFFFF, slots, 0, 0, true⟩)

/-- A selected request's chain no longer extends once it resolves differently (R214). -/
def State.chainStep (s : State) (i : Nat) (k : Pick) : State :=
  (s.onSlot i (fun x => { x with chainOn := x.chainOn && x.chainAdp == k.adp && x.chainGen == k.gen })).bump
    (cntTen (s.slot i).tenant 24) (b2n k.base)

/-! ### Output rings (15 R344, R345) -/

def State.ring (s : State) (t r : Nat) : OutRing := Sparse.get OutRing.init (s.ten t).rings r
def State.setRing (s : State) (t r : Nat) (o : OutRing) : State :=
  s.onTen t (fun x => { x with rings := Sparse.put OutRing.init x.rings r o })
def State.ringSize (s : State) (t r : Nat) : Nat := 2 ^ s.rf (ringReg t r 8) 12 8
def State.ringOn (s : State) (t r : Nat) : Bool := bit (s.rd (ringReg t r 8)) 0
/-- Entries a ring can still take beyond all reserved space. -/
def State.ringRoom (s : State) (t r : Nat) : Nat :=
  if s.ringOn t r then s.ringSize t r - (s.ring t r).reserved - ((s.ring t r).tail - s.rd (ringReg t r 0x18)).toNat else 0

/-- Candidates of a request's pack record. -/
def State.candidates (s : State) (i : Nat) : Nat :=
  match s.packSeg i with | some g => bits (s.hbmWord (g.at_ + 8)) 31 16 | none => 0
/-- Ring entries of a request's result. -/
def State.ringNeed (s : State) (i : Nat) : Nat :=
  let x := s.slot i
  if x.kind = 0 then 1
  else if s.modelKind x.part = some .crossEncoder then s.candidates i
  else 1 + ceilDiv (s.modelD x.part) 4

def State.reserve (s : State) (i n : Nat) : State :=
  let x := s.slot i
  let o := s.ring x.tenant x.ring
  (s.setRing x.tenant x.ring { o with reserved := o.reserved + n }).onSlot i (fun x => { x with reserved := x.reserved + n })
/-- Give back what a request has reserved. -/
def State.unreserve (s : State) (i : Nat) : State :=
  let x := s.slot i
  let o := s.ring x.tenant x.ring
  (s.setRing x.tenant x.ring { o with reserved := o.reserved - x.reserved }).onSlot i (fun x => { x with reserved := 0 })

/-! ### KV supply (R232) and prefix lookup (R216) -/

/-- Allocate blocks until the page list covers positions below `upto`, or no block can be had (fuel: blocks). -/
def State.supply (s : State) (i upto : Nat) : Nat → State
  | 0 => s
  | n + 1 =>
    let x := s.slot i
    if 64 * x.pages ≥ upto || x.pages ≥ 2048 then s else
    match s.kvTake x.part with
    | none => s
    | some (a, s1) =>
      ((s1.setBlockEntry i x.pages (mkBlock false a 1)).onSlot i (fun x => x.setPages (x.pages + 1))).supply i upto n

/-- Raise the fill of the blocks that positions `lo` to `hi` − 1 write (R213). -/
def State.setFills (s : State) (i lo hi : Nat) : State :=
  s.forEach ((List.range ((hi + 63) / 64 - lo / 64)).map (· + lo / 64)) (fun n s =>
    let e := s.blockEntry i n
    if blockShared e then s else s.setBlockEntry i n (mkBlock false (blockAddr e) (max (blockFill e) (min 64 (hi - 64 * n)))))

/-- The hits of a request's full prompt blocks, in order up to the first miss: key and entry address (fuel: blocks). -/
def State.pfxHits (s : State) (i n : Nat) (prev : W64) : Nat → List (W64 × Nat)
  | 0 => []
  | k + 1 =>
    let x := s.slot i
    if n ≥ (x.prompt - 1) / 64 then [] else
    let key := s.pfxKeyOf x.part i n prev
    match s.pfxFind x.part key with
    | none => []
    | some a => (key, a) :: s.pfxHits i (n + 1) key k

/-- Take the hits: counts, last use, page list, chain. -/
def State.takeHits (s : State) (i : Nat) (l : List (W64 × Nat)) : State :=
  let p := (s.slot i).part
  let s1 := s.forEach (List.range l.length) (fun n s =>
    let a := (nth (0, 0) l n).2
    let s2 := s.setBlockEntry i n (mkBlock true (blockAddr (s.pfxWord p a 1)) 64)
    (s2.pfxSetCount p a (s.pfxCount p a + 1)).rangeWrite64 p (a + 24) s.time)
  (s1.onSlot i (fun x => { x.setPages l.length with chainKeys := l.map (·.1) })).bump (cntPart p 32) l.length

/-! ### Decode selection (R228, R229) -/

/-- Whether the open step will produce a token of a request. -/
def State.producing (s : State) (i : Nat) : Bool :=
  match (s.part (s.slot i).part).opened with
  | some d => d.rows.any (fun r => r.idx == i && r.kind != 2 && r.sample)
  | none => false

/-- Whether a request's first-token deadline has passed with no token yet (R241, R244). -/
def State.overdue (s : State) (i : Nat) : Bool :=
  let x := s.slot i
  x.generated == 0 && x.firstDeadline != 0 && decide (x.w5.toNat + 1000 * x.firstDeadline < s.time.toNat)

/-- Sort keys are compared in order; a lower key comes first. -/
def keyLt : List Nat → List Nat → Bool
  | [], _ => false
  | _, [] => false
  | a :: r, b :: q => if a < b then true else if b < a then false else keyLt r q

def insertKey (k : List Nat) (i : Nat) : List (List Nat × Nat) → List (List Nat × Nat)
  | [] => [(k, i)]
  | e :: r => if keyLt k e.1 then (k, i) :: e :: r else e :: insertKey k i r
/-- Order indices by key. -/
def orderBy (key : Nat → List Nat) (l : List Nat) : List Nat :=
  ((l.foldl (fun acc i => insertKey (key i) i acc) []).map (·.2))

/-- Decode order: class, late mark, between-token deadline, index. -/
def State.decodeKey (s : State) (i : Nat) : List Nat :=
  let x := s.slot i
  let last := if x.generated = 0 then (s.part x.part).boundary.toNat else x.w6.toNat
  [x.prio, b2n (!(x.late || s.overdue i)), b2n (x.target == 0), if x.target = 0 then 0 else last + 1000 * x.target, i]
/-- Prompt order: first-token deadline, class, index. -/
def State.promptKey (s : State) (i : Nat) : List Nat :=
  let x := s.slot i
  [b2n (x.firstDeadline == 0), if x.firstDeadline = 0 then 0 else x.w5.toNat + 1000 * x.firstDeadline, x.prio, i]

/-- A deferred request: counted; told once (R240). -/
def State.defer (s : State) (p i : Nat) (was : List Nat) : State :=
  let s1 := (s.bump (cntPart p 3) 1).onSlot i (fun x => { x with deferred := true })
  if was.contains i then s1 else s1.inform i 0x0F

/-- The refill of a request's group, where the build meets it first. -/
def State.meet (s : State) (p : Nat) (b : Bld) (g : Nat) : State × Bld :=
  if b.met.contains g then (s, b) else (s.refill p g, { b with met := b.met ++ [g] })

/-- Decode rows in decode order. -/
def State.buildDec (s : State) (p : Nat) (b : Bld) : List Nat → State × Bld
  | [] => (s, b)
  | i :: r =>
    if b.dec.length ≥ s.rf (pReg p 0x78) 13 0 then (s.bump (cntPart p 2) (r.length + 1), b) else
    let x := s.slot i
    let g := x.group
    let out (s : State) (b : Bld) : State × Bld := s.buildDec p b r
    match s.pick p i b.slots with
    | (s1, none) => out s1 b
    | (s1, some k) =>
      let m := s1.meet p b g
      let s2 := m.1
      let b := m.2
      if s2.ringRoom x.tenant x.ring < 1 then out (s2.bump (cntTen x.tenant 3) 1) b
      else if !(s2.budget p g).covers (fun d _ => d) then out (s2.defer p i b.was) b
      else
        let prod := s2.producing i
        let q := x.span - 1 + b2n prod
        let runs := b.runs ++ [(k.slot, b.dec.length, 1)]
        let B := b.blocks + (q + 64) / 64
        if !b.dec.isEmpty && decide (s2.estimate p (b.dec.length + 1) 0 B runs k.slots > s2.rf (pReg p 0x68) 31 0) then
          (s2.bump (cntPart p 2) (r.length + 1), b)
        else
          let s3 := s2.supply i (q + 1) 2049
          if 64 * (s3.slot i).pages ≤ q then out (s2.bump (cntPart p 34) 1) b
          else
            let s4 := ((((s3.setFills i q (q + 1)).chainStep i k).charge p g (fun d _ => d)).reserve i 1)
            let y := s4.slot i
            let row : Row := ⟨0, true, q, i, if prod then 0 else s4.histTok i q, y.root, y.pages, k.slot⟩
            let tgt := if x.target = 0 then b.tgt else some (match b.tgt with | none => 1000 * x.target | some t => min t (1000 * x.target))
            s4.buildDec p { b with dec := b.dec ++ [row], runs := runs, slots := k.slots, blocks := B, tgt := tgt,
                                   reqs := b.reqs ++ [i] } r

/-! ### Prompt fill (R231) -/

/-- The admissible chunk lengths, longest first. -/
def chunks (rem min : Nat) (whole : Bool) : List Nat :=
  rem :: (if whole then [] else
    ((List.range ((rem - 1) / 16 + 1)).map (fun k => 16 * ((rem - 1) / 16 - k))).filter (fun c => decide (c ≥ min) && decide (c > 0)))

/-- One request's chunk: a trial; `go = false` ends the fill. -/
def State.promptOne (s : State) (p i target first : Nat) (b : Bld) : Bool × State × Bld :=
  let x := s.slot i
  let g := x.group
  match s.pick p i b.slots with
  | (s1, none) => (true, s1, b)
  | (s1, some k) =>
    let pass := x.kind != 0
    let fresh := x.next == 0 && x.pages == 0 && !pass
    let hits := if fresh then s1.pfxHits i 0 (s1.pfxSeed p k.adp k.gen x.tenant) 2048 else []
    let start := if fresh then 64 * hits.length else x.next
    let rem := x.span - start
    let P := b.pro.length
    let row0 := 16 * ceilDiv b.dec.length 16 + P
    let cs := chunks rem (s.rf (pReg p 0x88) 15 0) pass
    let est (c : Nat) : Nat :=
      s1.estimate p b.dec.length (P + c) (b.blocks + ceilDiv (start + c) 64) (b.runs ++ [(k.slot, row0, c)]) k.slots
    let fits (c : Nat) : Bool :=
      (pass || decide (P + c ≤ s.rf (pReg p 0x80) 15 0)) && decide (P + c ≤ 32768) && decide (est c ≤ target)
    let alone := pass && decide (first = 0) && P == 0 && !fits rem && decide (rem ≤ 32768)
    match (if alone then some rem else cs.find? fits) with
    | none => (false, s1, b)
    | some c1 =>
      let room := decide (s1.ringNeed i ≤ s1.ringRoom x.tenant x.ring)
      let s2 := if c1 = rem && !room then s1.bump (cntTen x.tenant 3) 1 else s1
      match cs.find? (fun c => decide (c ≤ c1) && (room || decide (c ≠ rem))) with
      | none => (true, s2, b)
      | some c2 =>
        let m := s2.meet p b g
        let s3 := m.1
        let b := m.2
        match cs.find? (fun c => decide (c ≤ c2) && (s3.budget p g).covers (fun _ pr => c * pr)) with
        | none => (true, s3.defer p i b.was, b)
        | some c3 =>
          let s4 := if fresh then
              (s3.takeHits i hits).onSlot i (fun y => { y with chainOn := true, chainAdp := k.adp, chainGen := k.gen })
            else s3
          let s5 := if pass then s4 else s4.supply i (start + c3) 2049
          match cs.find? (fun c => decide (c ≤ c3) && (pass || decide (start + c ≤ 64 * (s5.slot i).pages))) with
          | none => (true, s3.bump (cntPart p 34) 1, b)
          | some c =>
            let s6 := if pass then s5 else s5.setFills i start (start + c)
            let s7 := (s6.chainStep i k).charge p g (fun _ pr => c * pr)
            let ends := decide (start + c = x.span)
            let s8 := (if ends then s7.reserve i (s7.ringNeed i) else s7).onSlot i (fun y =>
              { y.setState 2 with next := start + c })
            let y := s8.slot i
            let rows := (List.range c).map (fun j =>
              (⟨1, ends && decide (j + 1 = c), start + j, i, s8.histTok i (start + j), y.root, y.pages, k.slot⟩ : Row))
            (!alone, s8, { b with pro := b.pro ++ rows, runs := b.runs ++ [(k.slot, row0, c)], slots := k.slots,
                                  blocks := b.blocks + ceilDiv (start + c) 64, prompts := b.prompts + 1, reqs := b.reqs ++ [i] })

/-- Prompt chunks in prompt order. -/
def State.buildPrompt (s : State) (p target first : Nat) (b : Bld) : List Nat → State × Bld
  | [] => (s, b)
  | i :: r =>
    match s.promptOne p i target first b with
    | (true, s1, b1) => s1.buildPrompt p target (first + 1) b1 r
    | (false, s1, b1) => (s1, b1)

/-! ### The descriptor (R233 to R235) -/

def voidRow : Row := ⟨2, false, 0, 0, 0, 0, 0, 0xFFFF⟩
def Row.void (r : Row) : Row := { r with kind := 2, tok := 0, root := 0, pages := 0, slot := 0xFFFF }
def Row.words (r : Row) : List W64 :=
  [w64 (r.kind * 2 ^ 62 + b2n r.sample * 2 ^ 61 + r.pos % 2 ^ 17 * 2 ^ 41 + r.idx % 2 ^ 15 * 2 ^ 26 + r.tok % 2 ^ 18),
   w64 (r.root % 2 ^ 36 * 2 ^ 28 + r.pages % 2 ^ 17 * 2 ^ 11)]

/-- Zero bytes up to the next multiple of 64. -/
def pad64 (n : Nat) : List Byte := List.replicate (ceilDiv n 64 * 64 - n) 0

/-- Prompt rows of a descriptor, as the header counts them. -/
def Desc.nPrompt (d : Desc) : Nat := d.rows.length - 16 * ceilDiv d.nDec 16

/-- The bytes of a descriptor. -/
def Desc.bytes (d : Desc) (p : Nat) : List Byte :=
  let n := d.rows.length
  let a0 := 128 + 16 * n
  let arr := ceilDiv a0 64 * 64
  let t0 := arr + 2 * n
  let tbl := ceilDiv t0 64 * 64
  bytesOf [w64 d.step,
    w64 (d.nDec * 2 ^ 48 + d.nPrompt % 2 ^ 24 * 2 ^ 24 + p * 2 ^ 20 + d.slots.length % 2 ^ 13),
    w64 (d.prompts * 2 ^ 32 + (d.rows.filter (fun r => r.kind == 2)).length), w64 (arr * 2 ^ 32 + tbl),
    w64 (d.est * 2 ^ 32 + d.target), 0, 0, 0, 0, 0, 0, 0, 0, 0, 0, 0] ++
  d.rows.flatMap (fun r => bytesOf r.words) ++ pad64 a0 ++
  d.rows.flatMap (fun r => leBytes 2 r.slot) ++ pad64 t0 ++ d.slots.flatMap (fun e => bytesOf e.words)

/-- Where the descriptor of a step lies. -/
def State.descAt (s : State) (p step : Nat) : Nat := (s.rd (pReg p 0x40)).toNat + step % 2 * 2 ^ 20
def State.writeDesc (s : State) (p : Nat) (d : Desc) : State := s.rangeWrite p (s.descAt p d.step) (d.bytes p)

/-- The KV blocks that the page lists of requests name. -/
def State.blocksOf (s : State) (l : List Nat) : List Nat :=
  (l.flatMap (fun i => (List.range (s.slot i).pages).map (fun n => blockAddr (s.blockEntry i n)))).eraseDups

/-- Choose the rows of the next step (the stages of "Building a step"). -/
def State.chooseRows (s : State) (p : Nat) : State × Desc :=
  let cands := (s.entriesOf p).filter (fun i => (s.slot i).eligible && (s.slot i).read)
  let decs := orderBy s.decodeKey (cands.filter (fun i => (s.slot i).state == 3 || ((s.slot i).kind == 0 && s.producing i)))
  let b0 : Bld := ⟨[], [], [], [], [], cands.filter (fun i => (s.slot i).deferred), 0, none, 0, []⟩
  let s1 := s.forEach (s.entriesOf p) (fun i s => s.onSlot i (fun x => { x with deferred := false }))
  let d1 := s1.buildDec p b0 decs
  let max := s.rf (pReg p 0x68) 31 0
  let target := (match d1.2.tgt with | none => max | some t => min max t) - s.rf (pReg p 0x70) 31 0
  let pros := orderBy s.promptKey (cands.filter (fun i =>
    ((s.slot i).state == 1 || (s.slot i).state == 2) && decide ((s.slot i).next < (s.slot i).span)))
  let d2 := d1.1.buildPrompt p target 0 d1.2 pros
  let b := d2.2
  let D := b.dec.length
  let rows := b.dec ++ List.replicate (16 * ceilDiv D 16 - D) voidRow ++ b.pro
  (d2.1, ⟨(s.part p).step, D, rows, b.slots, s.estimate p D b.pro.length b.blocks b.runs b.slots, target, b.prompts,
    d2.1.blocksOf b.reqs, 0⟩)

/-- BUILD_START (R225): the staged directory write, read-in, selection. -/
def execBuildStart (p : Fin 16) (s : State) : Res :=
  let x := s.part p
  .next (if s.live && !s.stalled && x.st = .running && x.build = .idle then
      let s2 := (s.applyDir p).dirNext p
      let s3 := s2.forEach ((s2.entriesOf p).filter (fun i =>
        (s2.slot i).state == 1 && (s2.slot i).eligible && !(s2.slot i).read)) (fun i s => s.readIn i)
      let r := s3.chooseRows p
      r.1.onPart p (fun y => { y with build := .building r.2 })
    else s)

/-- BUILD_END: the descriptor is written; a build without a row seals nothing, and what waits for the boundary takes effect (R225). -/
def execBuildEnd (p : Fin 16) (s : State) : Res :=
  .next (match (s.part p).build with
    | .building d =>
      if !s.live then s
      else if d.rows.isEmpty then (s.onPart p (fun y => { y with build := .idle })).applyBoundary p
      else (s.writeDesc p d).onPart p (fun y => { y with build := .built d })
    | _ => s)

end Sys2Proof.Machine
end

