-- ==== Sys2Proof/Machine/Queue.lean ====
section
/-! DEFINITION. Submission entries once fetched (15_host_attach.md R339, R341): batches, chains of by-command-id references, and the
entry of a queue that Penub takes next. -/

namespace Sys2Proof.Machine

def SubEntry.word (e : SubEntry) (n : Nat) : W64 := nth 0 e.words n
def SubEntry.op (e : SubEntry) : Nat := bits (e.word 0) 63 56
def SubEntry.id (e : SubEntry) : Nat := bits (e.word 0) 47 32
def SubEntry.byId (e : SubEntry) : Bool := bit (e.word 0) 31
def SubEntry.succ (e : SubEntry) : Nat := bits (e.word 5) 47 32
def SubEntry.isSubmit (e : SubEntry) : Bool := e.op == 1
def SubEntry.pending (e : SubEntry) : Bool := e.res == none

/-- The SUBMIT that a by-command-id reference names: the first of the batch with that id. -/
def refTarget (b : List SubEntry) (e : SubEntry) : Option SubEntry :=
  if e.byId then b.find? (fun u => u.isSubmit && u.id == e.succ) else none

/-- Whether an earlier SUBMIT of the batch names the same entry. -/
def namedBefore (e u : SubEntry) : List SubEntry → Bool
  | [] => false
  | x :: r => if x.index = e.index then false else (x.isSubmit && x.byId && x.succ == u.id) || namedBefore e u r

/-- Whether a SUBMIT's reference, or one further down its chain, is bad (R341); a chain longer than the batch is a cycle (fuel). -/
def chainBad (b : List SubEntry) (e : SubEntry) : Nat → Bool
  | 0 => true
  | n + 1 =>
    if !e.byId then e.succ != 0xFFFF
    else match refTarget b e with
      | none => true
      | some u => u.res == some none || namedBefore e u b || chainBad b u n

/-- The deepest pending successor of an entry (fuel). -/
def deepest (b : List SubEntry) (e : SubEntry) : Nat → SubEntry
  | 0 => e
  | n + 1 =>
    match refTarget b e with
    | some u => if u.pending then deepest b u n else e
    | none => e

/-- The entry of a batch that Penub takes next: queue order, but a named successor before the entry that names it (R341). -/
def batchFront (b : List SubEntry) : Option SubEntry :=
  match b.find? (·.pending) with
  | none => none
  | some e => if e.isSubmit && !chainBad b e (b.length + 1) then some (deepest b e b.length) else some e

/-- Opcodes of Table 15.6. -/
def opDefined (n : Nat) : Bool := (1 ≤ n && n ≤ 5) || (8 ≤ n && n ≤ 10) || n == 12

def markDone (b : List SubEntry) (i : Nat) (r : Option Nat) (time : W64) : List SubEntry :=
  b.map (fun e => if e.index = i then { e with res := some r, time := time } else e)

/-- Entries of reserved opcodes complete with INVALID_DESCRIPTOR (R339), and done batches leave, as far as the front goes (fuel). -/
def State.settle (s : State) (t q : Nat) : Nat → State
  | 0 => s
  | n + 1 =>
    let x := s.sq t q
    match x.batches with
    | [] => s
    | b :: r =>
      match batchFront b with
      | none => (s.setSq t q { x with batches := r, base := x.base + b.length }).settle t q n
      | some e =>
        if opDefined e.op then s
        else ((s.setSq t q { x with batches := markDone b e.index none s.time :: r }).commandDone t q e.id 0x0B none).settle t q n

/-- Settle with fuel for every entry the queue holds. -/
def State.settleQ (s : State) (t q : Nat) : State :=
  let x := s.sq t q
  s.settle t q (x.batches.length + (x.batches.flatMap id).length + 1)

/-- The entry at the front of a queue of an ATTACHED tenant, if it is entry `i` and has the opcode; none while the beam fails over (R14). -/
def State.takeEntry (s : State) (t q i op : Nat) : Option (SubEntry × List SubEntry) :=
  if !(s.live && s.masterUp && decide ((s.ten t).st = .attached)) then none else
  match (s.sq t q).batches with
  | [] => none
  | b :: _ =>
    match batchFront b with
    | some e => if e.index = i && e.op = op then some (e, b) else none
    | none => none

/-- The entry is done: `r` is the Slate index where it was admitted. Its words are in the beam journal (17 R387). -/
def State.entryDone (s : State) (t q i : Nat) (r : Option Nat) : State :=
  let x := s.sq t q
  match x.batches with
  | [] => s
  | b :: l =>
    let ws := match b.find? (fun e => e.index == i) with | some e => e.words | none => []
    ((s.journal (if r.isSome then 0 else 1) ws).setSq t q { x with batches := markDone b i r s.time :: l }).settleQ t q

/-- A command entry that ends here and now: one COMMAND completion. -/
def State.entryEnds (s : State) (t q : Nat) (e : SubEntry) (status : Nat) : State :=
  (s.commandDone t q e.id status none).entryDone t q e.index none

/-- Take entry `i` of a queue for a command row, where it is at the front and has the opcode. -/
def State.withEntry (s : State) (t q i op : Nat) (f : SubEntry → State → State) : State :=
  match s.takeEntry t q i op with
  | none => s
  | some (e, _) => f e s

/-- Words `from` to 7 zero, and word 0's reserved bits (R5); `by` allows the by-command-id bit. -/
def SubEntry.clean (e : SubEntry) (frm : Nat) (by_ : Bool) : Bool :=
  bits (e.word 0) 55 48 == 0 && bits (e.word 0) 30 0 == 0 && (by_ || !e.byId) &&
    ((List.range (8 - frm)).all (fun k => e.word (frm + k) == 0))

end Sys2Proof.Machine
end

