-- ==== Sys2Proof/Machine/PartBase.lean ====
section
/-! DEFINITION. What partition resets, releases, deletions, replays and loads share: page references of steps and streams, clearing a
partition, unmapping its pages, loading a layer program, deadline misses, the launch of a step (03 R61 to R65, 10 R222, R237, R246,
R241, 17 R377). -/

namespace Sys2Proof.Machine

/-- References on the KV blocks of a step (12 R273), taken at the seal and dropped at its end. -/
def State.refBlocks (s : State) (p : Nat) (d : Desc) (up : Bool) : State :=
  s.forEach d.blocks (fun b s => s.refRange p b (s.kvBytes p) up)

/-- The Weight streamer abandons a partition's descriptors: their page references drop (R377). -/
def State.dropStreams (s : State) (p : Nat) : State :=
  let l := (s.part p).streams.flatMap (·.extents)
  (s.forEach l (fun e s => s.refRange p e.src e.len false)).onPart p (fun x => { x with streams := [] })

/-- Penub issues UNMAP for pages of a partition (12 Table 12.5): the mover takes each at once where nothing older concerns the page and no
reference holds it; otherwise the command waits in its lane (R274). -/
def State.unmapPages (s : State) (p : Nat) (l : List Nat) : State :=
  s.forEach l (fun b s =>
    match s.xlat p b with
    | .page e _ pb sz =>
      let c : TierCmd := ⟨w64 (2 * 2 ^ 60 + b2n (entryLarge e) * 2 ^ 59 + p * 2 ^ 52 + pb), 0, 0, 0, none⟩
      if (s.moveOf p pb sz).isSome || s.tier.queue.any (fun d => d.meets p pb sz) || s.refOf p pb != 0 then
        { s with tier := { s.tier with queue := s.tier.queue ++ [c] } }
      else s.tierUnmap c
    | _ => s)

/-- What a rod's instructions have under way beyond the block finds nothing any more. -/
def State.dropRodOps (s : State) (ph : Nat) : State :=
  s.onOps (fun l => l.filter (fun o => match o.use with | .rod h _ _ => h != ph | .gather h _ => h != ph | _ => true))

/-- Write an image into a rod's instruction memory, the rest zero; every register is zero after it (R70). -/
def State.loadRod (s : State) (ph : Nat) (prog : List W64) : State :=
  let s1 := s.imemZero ph
  let s2 := { s1 with imem := s1.imem.writeWords (2 ^ 17 * ph) prog }
  (s2.dropRodOps ph).onRod ph (fun r => { Rod.init with imgLen := prog.length, lastTest := r.lastTest })

/-- A rod after a partition reset: registers, queue, latch and row map as Rod.init; the image stays (R70, R222). -/
def State.resetRod (s : State) (ph : Nat) : State :=
  (s.dropRodOps ph).onRod ph (fun r => { Rod.init with imgLen := r.imgLen, lastTest := r.lastTest })

/-- Adapter commands under way for a partition complete with PARTITION_RESET, and their keys go (16 R360). -/
def State.endAdapters (s : State) (p : Nat) : State :=
  s.forEach (List.range 64) (fun t s =>
    let l := (s.ten t).adapters.filter (fun a => a.part == p)
    let s1 := s.forEach (l.filter (fun a => !a.silent)) (fun a s => s.commandDone a.tenant a.queue a.cmd 0x0A none)
    if l.isEmpty then s1 else s1.onTen t (fun x => { x with adapters := x.adapters.filter (fun a => a.part != p) }))

/-- The reset of a partition (R222): requests retire, the open step and the descriptor go, rods clear and their SPR_CYCLE starts anew
(Table 4.3). A re-fetch in progress goes on (13 R299). -/
def State.clearPart (s : State) (p status resp : Nat) : State :=
  let x := s.part p
  let s1 := match x.opened with | some d => s.refBlocks p d false | none => s
  let s2 := s1.dropStreams p
  let s3 := s2.onPart p (fun x => { x with
    opened := none, build := .idle, ended := false, recs := [], recEntries := 0, recBytes := 0, record := none, tries := 0,
    faultResp := 0, faultCause := 0, faultAt := none, hold := 0, haltHeld := false, groups := [], starts := [],
    peerWait := none, atBarrier := [], atEnd := [], cycle0 := s.pwr.cycles })
  let s4 := s3.forEach (s3.entriesOf p) (fun i s => (s.unreserve i).retire i status resp)
  let s5 := (s4.freeLater p).endAdapters p
  let s6 := s5.forEach (s5.rodsOf p) (fun l s => s.resetRod (s.phys l))
  (s6.setReg (pReg p 0x100) 0).setReg (pReg p 0x108) 0

/-- Partition reset, whole: RESETTING with everything cleared. -/
def State.resetPart (s : State) (p status resp : Nat) : State :=
  (s.clearPart p status resp).onPart p (fun x => { x with st := .resetting })

/-! ### Deadline misses (R241, R243) -/

/-- Count a miss: of the first token, or between tokens. -/
def State.miss (s : State) (i : Nat) (first : Bool) : State :=
  let x := s.slot i
  let k := b2n (!first)
  ((s.onSlot i (fun x => { x with w4 := setBits x.w4 15 0 (min 0xFFFF (x.misses + 1)) })).bump (cntTen x.tenant (28 + k)) 1).bump
    (cntPart x.part (4 + k)) 1

/-- First-token misses at a boundary or commit of a partition, each counted once. -/
def State.firstMisses (s : State) (p : Nat) : State :=
  s.forEach (s.entriesOf p) (fun i s =>
    if (s.slot i).active && s.overdue i && !(s.slot i).ttftMiss then (s.miss i true).onSlot i (fun x => { x with ttftMiss := true }) else s)

/-! ### The launch table (R237) -/

/-- The entries of the launch table, each in four words. -/
def State.launchTable (s : State) (p : Nat) : Option (List (List W64)) :=
  (s.rangeRead p (s.rd (pReg p 0x30)).toNat (32 * s.rf (pReg p 0x38) 12 0)).map (fun b =>
    (List.range (s.rf (pReg p 0x38) 12 0)).map (fun k => wordsOf 4 (b.drop (32 * k))))

def leMode (e : List W64) : Nat := bits (nth 0 e 0) 63 62
def leRod (e : List W64) : Nat := bits (nth 0 e 0) 56 48
def leFirst (e : List W64) : Nat := bits (nth 0 e 0) 47 24
def leCount (e : List W64) : Nat := bits (nth 0 e 0) 23 0

/-- The rods over which a mode splits. -/
def State.splitRods (s : State) (p mode : Nat) : List Nat :=
  let all := s.rodsOf p
  let l := all.filter (fun r => s.isReckon r == decide (mode = 2))
  if l.isEmpty then all else l

/-- The tiles of an entry that a rod receives, for D decode and P prompt rows. -/
def State.launchShare (s : State) (p D P l : Nat) (e : List W64) : List TileEntry :=
  if leMode e = 0 then (if leRod e = l then [⟨0, leFirst e, leCount e, nth 0 e 1⟩] else [])
  else
    let T := leCount e * ceilDiv (if leMode e = 1 then D else P) 16
    let rods := s.splitRods p (leMode e)
    match rods.findIdx? (· == l) with
    | none => []
    | some k =>
      let a := k * T / rods.length
      let b := (k + 1) * T / rods.length
      if a = b then [] else [⟨0, leFirst e + a, b - a, nth 0 e 1⟩]

/-- Whether the launch table is one that Penub does not refuse. -/
def State.launchOk (s : State) (p : Nat) : Bool :=
  match s.launchTable p with
  | none => false
  | some tbl =>
    let rods := s.rodsOf p
    !tbl.isEmpty &&
    tbl.all (fun e => decide (leMode e ≠ 3) && bits (nth 0 e 0) 61 57 == 0 && nth 0 e 2 == 0 && nth 0 e 3 == 0 &&
      (if leMode e = 0 then rods.contains (leRod e) && decide (leCount e ≠ 0) else leRod e == 0)) &&
    rods.all (fun l => decide ((tbl.filter (fun e =>
      if leMode e = 0 then leRod e == l else (s.splitRods p (leMode e)).contains l)).length ≤ 64))

/-! ### The launch (R63, R246) -/

/-- The launch record (Table 3.4). -/
def State.launchRecord (s : State) (p : Nat) (d : Desc) : List Byte :=
  bytesOf [w64 d.step, w64 (2 ^ 53 + s.descAt p d.step), w64 (d.nDec * 2 ^ 48 + d.nPrompt % 2 ^ 24 * 2 ^ 24 + p * 2 ^ 20), s.time,
    0, 0, 0, 0]

/-- Interruption measured at the first launch after a recovery (17 R391). -/
def State.measure (s : State) (p : Nat) : State :=
  match (s.part p).faultAt with
  | none => s
  | some t0 =>
    let n := s.time.toNat - t0.toNat
    let off := 0x31010 + 0x40 * p
    (s.setReg off (w64 (max (s.rf off 31 0) (min n (2 ^ 32 - 1))))).onPart p (fun x => { x with faultAt := none })

/-- Launch a sealed descriptor: launch records, status records cleared, phase 0 entries, latches and row maps emptied, then c15 + 1 on
every rod; the governor's stagger begins. -/
def State.launch (s : State) (p : Nat) (d : Desc) : State :=
  let tbl := (s.launchTable p).getD []
  let D := d.nDec
  let P := d.nPrompt
  let rods := s.rodsOf p
  let rec_ := s.launchRecord p d
  let stale := rods.foldl (fun n l => n + (s.rod (s.phys l)).queue.length) 0
  let s1 := s.forEach rods (fun l s =>
    let ph := s.phys l
    let s2 := ((s.beadWrite ph 0x3F0000 rec_).beadWrite ph 0x3F0100 (List.replicate 64 0)).beadWrite ph 0x3F0200 (List.replicate 64 0)
    s2.onRod ph (fun r => { r.addCnt 15 1 with queue := tbl.flatMap (s.launchShare p D P l), latch := none, rowMap := [] }))
  let g := ceilDiv (rods.length / 8) 8
  (((s1.bump (cntPart p 0) stale).bump (cntPart p 6) (15 * (g - 1))).measure p).onPart p (fun x => { x with
    opened := some d, ended := false, recs := [], recEntries := 0, recBytes := 0, boundary := s.time, wdog := s.time,
    groups := (List.range (g - 1)).map (· + 1) })

end Sys2Proof.Machine
end

