-- ==== Sys2Proof/Machine/Spares.lean ====
section
/-! DEFINITION. Spares and their use (17_faults_and_recovery.md R382, R383, R393, R394; 20 R441): the field fuse bank, usable spares,
the RETIRE advisory, the spare map. -/

namespace Sys2Proof.Machine

/-! ### The field fuse bank (20 R441) -/

/-- RETIRE is raised once for each class (R393). -/
def State.advise (s : State) (cls : Nat) : State :=
  if bit (s.rd 0x30080) cls then s
  else ((s.setReg 0x30080 (s.rd 0x30080 ||| w64 (2 ^ cls))).bump (cntBlk 10) 1).event 1

/-- Penub writes a record; a full bank keeps it only until the next reset, and is counted. -/
def State.fuseRecord (s : State) (r : Nat × Nat × Nat) : State :=
  if s.flt.fuseRecs.length < 1024 then { s with flt := { s.flt with fuseRecs := s.flt.fuseRecs ++ [r] } }
  else (({ s with flt := { s.flt with kept := s.flt.kept ++ [r] } }).bump (cntBlk 41) 1).advise 6

/-- Physical rods that a list of records retires. -/
def recRods (l : List (Nat × Nat × Nat)) : List Nat := (l.filter (fun r => r.1 == 1)).map (·.2.1)
/-- Channels that a list of records remaps: 32 × stack + channel, onto the spare, physical channel 31. -/
def recChans (l : List (Nat × Nat × Nat)) : List (Nat × Nat) := (l.filter (fun r => r.1 == 2)).map (fun r => (32 * r.2.1 + r.2.2, 31))

/-! ### Usable spares (R9, R382) -/

/-- Physical rods of a class, ascending. -/
def Design.classRods (d : Design) (reckon : Bool) : List Nat :=
  (List.range d.physRods).filter (fun n => decide (d.physTally ≤ n) == reckon)

/-- Whether a physical rod serves a logical rod. -/
def State.mapped (s : State) (n : Nat) : Bool := (List.range s.design.rods).any (fun l => s.phys l == n)

/-- Usable spares of a class, ascending: not retired, not in use, not in a test that they have yet to pass. -/
def State.spares (s : State) (reckon : Bool) : List Nat :=
  (s.design.classRods reckon).filter (fun n => !s.flt.retired.contains n && !s.flt.untested.contains n && !s.mapped n)

/-- SRAM repair elements of a physical rod that no record has used; a delivered rod has 4 to 24 (20 R443). -/
def State.sramLeft (s : State) (ph : Nat) : Nat :=
  min 24 (max 4 (Config.fuse (4096 + ph)).toNat) -
    ((s.flt.fuseRecs ++ s.flt.kept).filter (fun r => r.1 == 3 && r.2.1 == ph)).length

/-- Spare lanes left in a port's directions. -/
def State.laneSpares (s : State) (p : Nat) : Nat × Nat :=
  let x := s.port p
  let l := List.range (32 + s.design.spareLanes)
  ((l.filter (fun n => !x.rxMap.contains n && !x.rxBad.contains n && !x.swaps.any (fun w => w.2 == n))).length,
   (l.filter (fun n => !x.txMap.contains n && !x.txBad.contains n)).length)

/-- The advisories of Table 17.7 whose threshold is reached. -/
def State.adviseRods (s : State) : State :=
  let s1 := if (s.spares false).length ≤ s.rf 0x30060 7 0 then s.advise 0 else s
  if (s1.spares true).length ≤ s1.rf 0x30068 7 0 then s1.advise 1 else s1
def State.adviseLanes (s : State) (p : Nat) : State :=
  let n := s.laneSpares p
  if (s.port p).train = .up && decide (min n.1 n.2 ≤ s.rf 0x30070 2 0) then s.advise 3 else s
def State.adviseSram (s : State) (ph : Nat) : State := if s.sramLeft ph < s.rf 0x30078 3 0 then s.advise 4 else s

/-! ### Retiring and substituting -/

/-- A physical rod is retired. -/
def State.retireRod (s : State) (ph : Nat) : State :=
  if s.flt.retired.contains ph then s
  else ({ s with flt := { s.flt with retired := s.flt.retired ++ [ph], untested := s.flt.untested.filter (· != ph) } }).fuseRecord (1, ph, 0)

/-- Write the spare map entry of a logical rod. -/
def State.mapRod (s : State) (l n : Nat) : State :=
  { s with flt := { s.flt with spareMap := Sparse.put 0 s.flt.spareMap l (n + 1) } }

/-- A frame becomes unavailable (R383). -/
def State.loseFrame (s : State) (l : Nat) : State :=
  if s.flt.noFrames.contains (l / 8) then s else { s with flt := { s.flt with noFrames := s.flt.noFrames ++ [l / 8] } }

/-- The rods of a class in the order of phase RODS: each logical rod with the physical rod it gets, or none (R441). -/
def pairRods : List Nat → List Nat → List (Nat × Option Nat)
  | [], _ => []
  | l :: r, [] => (l, none) :: pairRods r []
  | l :: r, n :: ns => (l, some n) :: pairRods r ns

/-- The spare map of phase RODS. A logical rod that gets none has no physical rod: its frame is unavailable. -/
def State.buildMap (s : State) : State :=
  let good (c : Bool) : List Nat := (s.design.classRods c).filter (fun n => !s.flt.retired.contains n)
  let logical (c : Bool) : List Nat := (List.range s.design.rods).filter (fun l => s.isReckon l == c)
  let l := pairRods (logical false) (good false) ++ pairRods (logical true) (good true)
  let s1 := { s with flt := { s.flt with spareMap := [], noFrames := [], untested := [] } }
  s1.forEach l (fun x s => match x.2 with
    | some n => if s.phys x.1 = n then s else s.mapRod x.1 n
    | none => (s.mapRod x.1 (s.design.physRods + x.1)).loseFrame x.1)

/-- Write a partition's layer program image into a physical rod and clear its memory and registers (R382 steps 3, 4). -/
def State.dressRod (s : State) (p ph : Nat) : State :=
  let prog := match (s.part p).load.model with | some m => m.program | none => []
  (s.beadZero ph).loadRod ph prog

/-- Substitute the lowest usable spare for a logical rod's retired physical rod; where there is none its frame becomes unavailable and
its partition is reset (R382, R383). -/
def State.substitute (s : State) (l : Nat) : State :=
  match s.spares (s.isReckon l), s.partOf l with
  | n :: _, some p => ((s.mapRod l n).dressRod p n).adviseRods
  | n :: _, none => (s.mapRod l n).adviseRods
  | [], some p => ((s.loseFrame l).resetPart p 0x0A 0).adviseRods
  | [], none => (s.loseFrame l).adviseRods

/-- A physical rod is retired and its logical rod, if it has one, gets a spare; no replay. -/
def State.withdraw (s : State) (ph : Nat) : State :=
  let s1 := s.retireRod ph
  match (List.range s.design.rods).find? (fun l => s.phys l == ph) with
  | some l => s1.substitute l
  | none => s1.adviseRods

/-- The rods of a partition that wait for its boundary to be retired (R382, R394). -/
def State.boundaryRods (s : State) (p : Nat) : State :=
  let l := s.flt.pendingRods.filter (fun n => (s.rodsOf p).any (fun k => s.phys k == n))
  if l.isEmpty then s
  else ({ s with flt := { s.flt with pendingRods := s.flt.pendingRods.filter (fun n => !l.contains n) } }).forEach l (fun n s => s.withdraw n)

/-- A rod is to be retired: at its partition's next boundary where a step is open, else at once. -/
def State.retireLater (s : State) (ph : Nat) : State :=
  let open_ := match ((List.range s.design.rods).find? (fun l => s.phys l == ph)).bind s.partOf with
    | some p => (s.part p).opened.isSome
    | none => false
  if s.flt.retired.contains ph || s.flt.pendingRods.contains ph then s
  else if open_ then { s with flt := { s.flt with pendingRods := s.flt.pendingRods ++ [ph] } }
  else s.withdraw ph

end Sys2Proof.Machine
end

