-- ==== Sys2Proof/Machine/Load.lean ====
section
/-! DEFINITION. Loading, scrubbing and re-fetching a partition's model (13_weight_loading.md R287 to R299, 16_security.md R357 to R359,
01 R17), and adapter images (07 R166 to R169, 16 R360). -/

namespace Sys2Proof.Machine

/-! ### The model manifest (Tables 1.3 and 1.4) -/

/-- Whether a model manifest stays within R17. Table 1.4 bounds the parameters at 8-bit and at 4-bit weights only: a width below 4 takes the
bound of 4 bits, every other that of 8 (DESIGN CHOICE, log entry 122). -/
def manifestOk (m : ModelManifest) : Bool :=
  let dec := m.kind == .dense || m.kind == .moe
  m.kind != .other && m.norm != .other && decide (m.context ≤ 131072) &&
  decide (1 ≤ m.layers) && decide (m.layers ≤ 256) && decide (1024 ≤ m.d) && decide (m.d ≤ 16384) && m.d % 256 == 0 &&
  decide (m.ffn ≤ 65536) && m.ffn % 256 == 0 && decide (1 ≤ m.qHeads) && decide (m.qHeads ≤ 128) &&
  decide (1 ≤ m.kvHeads) && m.qHeads % m.kvHeads == 0 && (m.headDim == 64 || m.headDim == 128 || m.headDim == 256) &&
  (if m.kind = .moe then decide (2 ≤ m.experts) && decide (m.experts ≤ 256) && decide (m.sharedExperts ≤ 2) &&
      decide (1 ≤ m.expertsPerRow) && decide (m.expertsPerRow ≤ 8) else true) &&
  m.act != .other && (m.position == .rotary || (m.position == .learned && !dec)) &&
  (if m.kind = .encoder then m.pooling == .mean || m.pooling == .firstToken || m.pooling == .lastToken else true) &&
  decide (1 ≤ m.vocab) && decide (m.vocab ≤ 262144) &&
  decide (m.params ≤ (if m.weightBits ≤ 4 then 20 * 10 ^ 12 else 10 * 10 ^ 12)) &&
  (List.range 7).all (fun k => [0, 64, 128, 256, 512].contains (nth 0 m.banks k))

/-! ### The shard manifest (Tables 13.1 and 13.2, 16 R357) -/

def shId (e : List W64) : Nat := bits (nth 0 e 2) 63 32
def shBlock (e : List W64) : Nat := bits (nth 0 e 0) 63 61
def shClass (e : List W64) : Nat := bits (nth 0 e 0) 60 58
def shLarge (e : List W64) : Bool := bit (nth 0 e 0) 57
def shDest (e : List W64) : Nat := bits (nth 0 e 0) 51 0
/-- Plaintext bytes. -/
def shBytes (e : List W64) : Nat := bits (nth 0 e 2) 31 16 * 65536
def shKey (e : List W64) : Nat := bits (nth 0 e 3) 63 32
def shDigest (e : List W64) : List Byte := bytesOf ((e.drop 4).take 6)
/-- Base addresses of a shard's pages. -/
def shPages (e : List W64) : List Nat :=
  let sz := pageSize (shLarge e)
  (List.range (shBytes e / sz)).map (fun k => shDest e + k * sz)

/-- An entry keeps Table 13.2. -/
def shOk (e : List W64) : Bool :=
  bits (nth 0 e 0) 56 52 == 0 && bits (nth 0 e 1) 63 47 == 0 && bits (nth 0 e 3) 31 0 == 0 && nth 0 e 10 == 0 && nth 0 e 11 == 0 &&
  decide (shClass e ≤ 4) && shDest e % pageSize (shLarge e) == 0 && bits (nth 0 e 1) 5 0 == 0 &&
  decide (65536 ≤ shBytes e) && decide (shBytes e ≤ 16384 * 65536) && shBytes e % pageSize (shLarge e) == 0

/-- Whether two spans share a page. -/
def spansMeet (a b : List W64) : Bool := decide (shDest a < shDest b + shBytes b) && decide (shDest b < shDest a + shBytes a)

/-- No entry meets one of the rest, nor repeats an id. -/
def entriesDistinct : List (List W64) → Bool
  | [] => true
  | e :: r => r.all (fun f => !spansMeet e f && shId e != shId f) && entriesDistinct r

def chunked (k : Nat) : Nat → List W64 → List (List W64)
  | 0, _ => []
  | n + 1, l => l.take k :: chunked k n (l.drop k)

/-- The parts of a shard manifest as read: header, entries, signature block, key records. -/
structure Manifest where
  header : List W64
  entries : List (List W64)
  sig : List W64
  keys : List (List W64)
deriving DecidableEq, Repr

def parseManifest (l : List W64) : Option Manifest :=
  let n := bits (nth 0 l 4) 31 0
  let k := bits (nth 0 l (40 + 12 * n)) 31 0
  if l.length < 41 + 12 * n || l.length < 41 + 12 * n + 21 * k then none
  else some ⟨l.take 16, chunked 12 n (l.drop 16), (l.drop (16 + 12 * n)).take 24, chunked 21 k (l.drop (41 + 12 * n))⟩

/-- The header keeps Table 13.1 and names the model. -/
def headerOk (h : List W64) (id0 id1 : W64) : Bool :=
  bits (nth 0 h 0) 63 32 == 0x4D4E4653 && bits (nth 0 h 0) 31 16 == 1 && bits (nth 0 h 0) 15 0 == 0 &&
  nth 0 h 1 == id0 && nth 0 h 2 == id1 && decide (1 ≤ bits (nth 0 h 3) 63 32) && bits (nth 0 h 3) 23 0 == 0 &&
  bits (nth 0 h 4) 63 32 == 0 && decide (1 ≤ bits (nth 0 h 4) 31 0) && decide (bits (nth 0 h 4) 31 0 ≤ 1048576) &&
  (List.range 5).all (fun k => nth 0 h (11 + k) == 0)

/-- A wrapped key record keeps Table 16.3. -/
def recordOk (r : List W64) : Bool := bits (nth 0 r 0) 63 32 == 0x574B4559 && bits (nth 0 r 14) 31 0 == 0
def recordId (r : List W64) : Nat := bits (nth 0 r 0) 31 0

/-- Unwrap a record under the partition key (16 R358, Table 16.1). -/
def State.unwrap (s : State) (p : Nat) (r : List W64) (id0 id1 : W64) : Option (List Byte) :=
  if !recordOk r then none else
  Config.unwrapKey (Config.partitionKey s.sec.lifecycle p (freeBytes (s.part p).nonce 4)).1 (bytesOf r) id0 id1

/-- Unwrap every record; a failure fails all. -/
def State.unwrapAll (s : State) (p : Nat) (id0 id1 : W64) : List (List W64) → Option (List (Nat × List Byte))
  | [] => some []
  | r :: l =>
    match s.unwrap p r id0 id1, s.unwrapAll p id0 id1 l with
    | some k, some ks => some ((recordId r, k) :: ks)
    | _, _ => none

/-! ### Load state and status -/

def loadReg (p : Nat) : Nat := 0x24000 + 0x100 * p
def ownerReg (p k : Nat) : Nat := loadReg p + 0x40 + 8 * k

/-- SEC_LOAD_STATUS: state, cause, failing shard. -/
def State.loadStatus (s : State) (p st cause shard : Nat) : State :=
  ((s.setRf (loadReg p) 1 0 st).setRf (loadReg p) 11 8 cause).setRf (loadReg p + 8) 63 32 shard

/-- A load fails (R295): its pages unmap, its keys go, SEC_LOAD_STATUS reads FAILED, the command completes. -/
def State.loadFail (s : State) (p status cause shard : Nat) : State :=
  let x := s.part p
  let s1 := s.unmapPages p x.load.staged
  let s2 := s1.onPart p (fun x => { x with load := { Load.init with state := .failed }, refetch := none, refetchNext := [] })
  (s2.loadStatus p 3 cause shard).commandDone x.load.tenant x.load.queue x.load.cmd status none

/-- A refused manifest: nothing is mapped. -/
def State.loadRefuse (s : State) (p t q : Nat) (e : SubEntry) (status cause : Nat) : State :=
  (((s.onPart p (fun x => { x with load := { Load.init with state := .failed } })).loadStatus p 3 cause 0)).entryEnds t q e status

/-- The owner's key binds at the first load and must match afterwards (R357). -/
def State.ownerOk (s : State) (p : Nat) (digest : List Byte) : Bool :=
  !bit (s.rd (loadReg p + 0x70)) 0 || (List.range 6).all (fun k => s.rd (ownerReg p k) == nth 0 (wordsOf 6 digest) k)
def State.bindOwner (s : State) (p : Nat) (digest : List Byte) : State :=
  (s.forEach (List.range 6) (fun k s => s.setReg (ownerReg p k) (nth 0 (wordsOf 6 digest) k))).setReg (loadReg p + 0x70) 1

/-! ### Shards: window and placement (R293, R296) -/

/-- MAP every page of a shard; the first status that is no success, or 0 (R293). -/
def State.mapShard (s : State) (p : Nat) (e : List W64) : List Nat → Nat × State
  | [] => (0, s)
  | a :: r =>
    if (s.part p).load.staged.contains a then s.mapShard p e r else
    match s.tierMap p a (shLarge e) 0 (shClass e == 0) false with
    | (0, s1) => (s1.onPart p (fun x => { x with load := { x.load with staged := x.load.staged ++ [a] } })).mapShard p e r
    | (st, s1) => (st, s1)

/-- Tier 1 bytes of shards of classes 2 to 4, mapped and not yet demoted. -/
def State.stagedBytes (s : State) (p : Nat) : Nat :=
  (s.part p).load.shards.foldl (fun n sh =>
    if shClass sh.words ≥ 2 then
      n + ((shPages sh.words).filter (fun a => (s.tier1 p a).isSome)).length * pageSize (shLarge sh.words)
    else n) 0

def Load.setShard (l : Load) (k : Nat) (x : Shard) : Load := { l with shards := setNth l.shards k x }

/-- The shard that is fetched next: the lowest destination of those not begun. -/
def Load.nextShard (l : Load) : Option (Nat × Shard) :=
  (List.range l.shards.length).foldl (fun m k =>
    match l.shards[k]? with
    | none => m
    | some x =>
      if x.begun then m else
      match m with
      | some (_, y) => if shDest x.words < shDest y.words then some (k, x) else m
      | none => some (k, x)) none

/-- Whether a load may begin one more shard: fewer than four are in flight, the staging limit takes its pages, and no command of the Tier
mover concerns them still (R293). -/
def State.mayBegin (s : State) (p : Nat) (x : Shard) : Bool :=
  let ld := (s.part p).load
  decide ((ld.shards.filter (fun y => y.begun && !y.ok)).length < 4) &&
    (decide (shClass x.words < 2) || decide (s.stagedBytes p + shBytes x.words ≤ s.rf 0x20050 12 0 * 2 ^ 21)) &&
    !s.tier.queue.any (fun c => c.meets p (shDest x.words) (shBytes x.words))

/-- Begin the shards that the window takes, in ascending address order: their pages are mapped; a MAP that finds no room fails the load
(R293, R295; fuel: shards). -/
def State.startShards (s : State) (p : Nat) : Nat → State
  | 0 => s
  | n + 1 =>
    match (s.part p).load.nextShard with
    | none => s
    | some (k, x) =>
      if (s.part p).load.state ≠ .loading || !s.mayBegin p x then s else
      match s.mapShard p x.words (shPages x.words) with
      | (0, s1) => (s1.onPart p (fun y => { y with load := y.load.setShard k { x with begun := true } })).startShards p n
      | (_, s1) => s1.loadFail p 0x0B 5 (shId x.words)

/-- Check the manifests and begin the load (R289, R290, R357 to R359). The signature and the digest are tried first: where they fail too, the
status is INTEGRITY_FAIL; the owner's key is bound once nothing else can refuse the manifest. -/
def State.startLoad (s : State) (p t q : Nat) (e : SubEntry) (m : ModelManifest) (l : List W64) : State :=
  if !manifestOk m then s.loadRefuse p t q e 0x0B 8 else
  match parseManifest l with
  | none => s.loadRefuse p t q e 0x0B 8
  | some f =>
    let body := bytesOf f.entries.flatten
    let pub := bytesOf (f.sig.take 12)
    let own := Config.sha384 pub
    let mine := f.entries.filter (fun x => shBlock x == s.fab.pos)
    let held := (List.range 16).foldl (fun n k => n + (s.part k).load.keys.length) 0
    let ids := f.keys.map recordId
    if Config.sha384 body ≠ bytesOf ((f.header.drop 5).take 6) ||
        !Config.ecdsaVerify pub (bytesOf f.header ++ body) (bytesOf (f.sig.drop 12)) then s.loadRefuse p t q e 0x07 8
    else if !s.ownerOk p own then s.loadRefuse p t q e 0x07 9
    else if !(headerOk f.header m.modelId0 m.modelId1 && f.entries.all shOk && entriesDistinct f.entries &&
        mine.all (fun x => bit (nth 0 f.header 3) (24 + shBlock x))) then s.loadRefuse p t q e 0x0B 8
    else if f.keys.isEmpty || decide (f.keys.length > 4096) || decide (held + f.keys.length > 16384) || !f.keys.all recordOk then
      s.loadRefuse p t q e 0x0B 9
    else match s.unwrapAll p m.modelId0 m.modelId1 f.keys with
      | none => s.loadRefuse p t q e 0x07 9
      | some ks =>
        if ids.eraseDups.length ≠ ids.length then s.loadRefuse p t q e 0x07 9
        else if !f.entries.all (fun x => ks.any (fun k => k.1 == shKey x)) then s.loadRefuse p t q e 0x0B 9
        else
          let ld : Load := ⟨.loading, t, q, e.id, some m, bits (nth 0 f.header 3) 63 32, 0,
            mine.map (fun x => ⟨x, 0, false, false, 0⟩), ks, [], t, none⟩
          let s2 := ((s.bindOwner p own).onPart p (fun x => { x with load := ld })).loadStatus p 1 0 0
          (((s2.setRf (loadReg p) 63 32 ld.version).setRf (loadReg p + 8) 20 0 0).entryDone t q e.index none).startShards p mine.length

/-- LOAD. -/
def execLoad (t : Fin 64) (q : Fin 8) (i : Nat) (model : ModelManifest) (manifest : List W64) (s : State) : Res :=
  .next (s.withEntry t q i 0x0C (fun e s =>
    let p := bits (e.word 1) 63 60
    let x := s.part p
    if !(e.clean 5 false && bits (e.word 1) 59 0 == 0 && bits (e.word 2) 63 47 == 0 && bits (e.word 3) 63 47 == 0) ||
        !bit (s.rd (hReg t 8)) 2 || x.st ≠ .loading || !(x.load.state = .idle || x.load.state = .failed) then s.entryEnds t q e 0x0B
    else s.startLoad p t q e model manifest))

/-! ### Shards (R291, R293, R294) -/

/-- Additional authenticated data of a shard. -/
def shardAad (hdr : List W64) (id0 id1 : W64) (version : Nat) : List Byte :=
  bytesOf hdr ++ bytesOf [id0, id1] ++ leBytes 4 version

def shardHeaderOk (h : List W64) (id len : Nat) : Bool :=
  h.length == 8 && bits (nth 0 h 0) 63 32 == 0x53485244 && bits (nth 0 h 0) 31 0 == id && bits (nth 0 h 2) 31 0 == 0 &&
  bits (nth 0 h 3) 63 16 == 0 && bits (nth 0 h 3) 15 0 == len && (List.range 4).all (fun k => nth 0 h (4 + k) == 0)

def shardIv (h : List W64) : List Byte := bytesOf [nth 0 h 1] ++ leBytes 4 (bits (nth 0 h 2) 63 32)

/-- What checking an encrypted shard finds: its plaintext, or a cause of SEC_LOAD_STATUS. The ciphertext has the length of the entry, the tag
16 bytes (R291). -/
def openShard (key : List Byte) (h : List W64) (cipher tag aad digest : List Byte) (id len : Nat) : Except Nat (List Byte) :=
  if !shardHeaderOk h id len || decide (cipher.length ≠ 65536 * len) || decide (tag.length ≠ 16) then .error 3 else
  match Config.gcmOpen key (shardIv h) aad cipher tag with
  | none => .error 1
  | some pt => if Config.sha384 pt = digest then .ok pt else .error 2

/-- The pool a placement class demotes to: of that kind the one with most free frames, the lowest number on a tie (R296). -/
def State.classPool (s : State) (cls t : Nat) : Option Nat :=
  let ok (n : Nat) : Bool := match cls with
    | 2 => s.poolKind n == 2
    | 3 => s.poolKind n == 3
    | _ => s.poolKind n == 4 && s.rf (poolReg n 0) 53 48 == t
  (List.range 8).foldl (fun m n =>
    if !ok n then m else match m with
      | none => some n
      | some k => if (s.poolFrames k).length < (s.poolFrames n).length then some n else m) none

/-- Penub's own command to the Tier mover. -/
def State.penubTier (s : State) (op p page pool : Nat) (large pin unpin : Bool) : State :=
  let w0 := op * 2 ^ 60 + b2n large * 2 ^ 59 + pool * 2 ^ 56 + p * 2 ^ 52 + page
  { s with tier := { s.tier with queue := s.tier.queue ++ [⟨w64 w0, w64 (b2n unpin * 4 + b2n pin * 2), 0, 0, none⟩] } }

/-- A shard's plaintext goes into the tier 1 frames that its page entries name, by form 1 addresses: whatever their Writable bit says
(R293, R294). -/
def State.ingress (s : State) (p : Nat) (e : List W64) (pt : List Byte) : State :=
  let sz := pageSize (shLarge e)
  s.forEach (List.range (shBytes e / sz)) (fun k s =>
    match s.tier1 p (shDest e + k * sz) with
    | some o => s.hbmWrite o ((pt.drop (k * sz)).take sz)
    | none => s)

/-- DEMOTE is issued for every page of a shard of class 2 to 4; without a pool of its class the load has no space (R293, R295). -/
def State.demoteShard (s : State) (p : Nat) (e : List W64) : Option State :=
  if shClass e < 2 then some s else
  (s.classPool (shClass e) (s.part p).load.tenant).map (fun pool =>
    s.forEach (shPages e) (fun a s => s.penubTier 4 p a pool (shLarge e) false true))

/-- A verified shard lands in its frames; classes 2 to 4 are then demoted, and the window moves on. -/
def State.placeShard (s : State) (p k : Nat) (x : Shard) (pt : List Byte) : State :=
  let e := x.words
  let s1 := (s.ingress p e pt).onPart p (fun y =>
    { y with load := y.load.setShard k { x with ok := true, lastCheck := s.time } })
  let s2 := s1.setRf (loadReg p + 8) 20 0 ((s1.part p).load.shards.filter (·.ok)).length
  match s2.demoteShard p e with
  | none => s2.loadFail p 0x0B 5 (shId e)
  | some s3 => s3.startShards p (s.part p).load.shards.length

/-- The shard that holds a page. -/
def State.shardAt (s : State) (p page : Nat) : Nat :=
  match (s.part p).load.shards.find? (fun x => decide (shDest x.words ≤ page) && decide (page < shDest x.words + shBytes x.words)) with
  | some x => shId x.words
  | none => 0

/-- A load one of whose demotions has failed fails at once; otherwise its window moves on (R293, R295). -/
def State.loadStep (s : State) (p : Nat) : State :=
  if (s.part p).load.state ≠ .loading then s else
  match (s.part p).load.bad with
  | some (st, cause, page) => s.loadFail p st cause (s.shardAt p page)
  | none => s.startShards p (s.part p).load.shards.length

/-- SHARD_VERIFY: the last byte of shard k, in flight, has landed, or its source drew an error response (R293, Table 13.5). -/
def execShardVerify (p : Fin 16) (k : Nat) (r : ShardRead) (s : State) : Res :=
  .next (if !s.live then s else
    let s := s.loadStep p
    let ld := (s.part p).load
    match ld.model, ld.shards[k]? with
    | some m, some x =>
      let e := x.words
      if ld.state ≠ .loading || !x.begun || x.ok then s
      else match r with
        | .error _ =>
          if x.tries + 1 > s.rf 0x20058 3 0 then s.loadFail p 0x0B 4 (shId e)
          else s.onPart p (fun y => { y with load := y.load.setShard k { x with tries := x.tries + 1 } })
        | .bytes h c tag =>
          let key := ((ld.keys.find? (fun z => z.1 == shKey e)).map (·.2)).getD []
          match openShard key h c tag (shardAad h m.modelId0 m.modelId1 ld.version) (shDigest e) (shId e) (shBytes e / 65536) with
          | .error 3 => s.loadFail p 0x0B 3 (shId e)
          | .error n => (s.bump (cntBlk 20) 1).loadFail p 0x07 n (shId e)
          | .ok pt => s.placeShard p k x pt
    | _, _ => s)

/-- Whether every page of a shard lies where its class puts it. -/
def State.placed (s : State) (p : Nat) (e : List W64) : Bool :=
  shClass e < 2 || (shPages e).all (fun a => match s.xlat p a with | .page x _ _ _ => decide (entryTier x ≠ 1) | _ => false)
/-- Whether a demotion of a page is still to come. -/
def State.demoting (s : State) (p : Nat) (e : List W64) : Bool :=
  s.tier.queue.any (fun c => c.op == 4 && c.meets p (shDest e) (shBytes e)) ||
    s.tier.moves.any (fun m => m.demote && m.cmd.meets p (shDest e) (shBytes e))

/-- LOAD_COMPLETE: every shard verified and placed (R295). A page whose demotion ended otherwise than by lack of space or of its peer is
demoted again (DESIGN CHOICE, log entry 124). -/
def execLoadComplete (p : Fin 16) (s : State) : Res :=
  .next (if !s.live then s else
    let s := s.loadStep p
    let ld := (s.part p).load
    match ld.model with
    | none => s
    | some m =>
      if ld.state ≠ .loading || !ld.shards.all (·.ok) then s
      else match ld.shards.find? (fun x => !s.placed p x.words) with
        | some x =>
          if s.demoting p x.words then s else (s.demoteShard p x.words).getD (s.loadFail p 0x0B 5 (shId x.words))
        | none =>
          let s1 := s.forEach (s.rodsOf p) (fun l s => s.loadRod (s.phys l) m.program)
          let s2 := s1.onPart p (fun x => { x with
            load := { x.load with state := .done },
            kvFree := (List.range m.kvCount).map (fun k => m.kvBase.toNat + k * m.kvBytes), kvAll := m.kvCount })
          ((s2.loadStatus p 2 0 0).measurePart p).commandDone ld.tenant ld.queue ld.cmd 0 none)

/-! ### Scrubbing (R297 to R299) -/

/-- The digest of a loaded shard as its pages read now; none where a page is gone. -/
def State.shardDigest (s : State) (p : Nat) (e : List W64) : Option (List Byte) :=
  (s.rangeRead p (shDest e) (shBytes e)).map Config.sha384

/-- Whether a shard is the one to be checked next: verified, of a load that has not failed, and none of the block's verified shards has
waited longer since its last check (R297). -/
def State.scrubTurn (s : State) (p : Nat) (x : Shard) : Bool :=
  let loaded (p : Nat) : Bool := (s.part p).load.state == .loading || (s.part p).load.state == .done
  x.ok && loaded p && (List.range 16).all (fun k => !loaded k ||
    (s.part k).load.shards.all (fun y => !y.ok || decide (x.lastCheck ≤ y.lastCheck)))

/-- The counts of one check. -/
def State.scrubCount (s : State) (p k : Nat) (x : Shard) : State :=
  let late := decide (x.lastCheck.toNat + s.rf 0x20060 16 0 * 10 ^ 9 < s.time.toNat)
  (((s.bump (cntBlk 16) (b2n late)).bump (cntBlk 17) 1).bump (cntBlk 18) (shBytes x.words)).onPart p (fun y =>
    { y with load := y.load.setShard k { x with lastCheck := s.time } })

/-- SCRUB_CHECK: shard k reads as its entry says. -/
def execScrubCheck (p : Fin 16) (k : Nat) (s : State) : Res :=
  .next (match (s.part p).load.shards[k]? with
    | none => s
    | some x =>
      if s.live && s.scrubTurn p x && s.shardDigest p x.words == some (shDigest x.words) then s.scrubCount p k x else s)

/-- The lower pages of the shard under re-fetch are promoted to pool 0 (R299). -/
def State.promoteShard (s : State) (p : Nat) : State :=
  match (s.part p).refetch with
  | none => s
  | some (k, _) =>
    match (s.part p).load.shards[k]? with
    | none => s
    | some x => s.forEach (shPages x.words) (fun a s =>
        if (s.tier1 p a).isSome then s else s.penubTier 3 p a 0 (shLarge x.words) false false)

/-- A partition with a re-fetch that runs no step is held for it, where it runs, and the shard's pages are promoted (R299). -/
def State.holdRefetch (s : State) (p : Nat) : State :=
  (if (s.part p).st = .running then s.onPart p (fun y => { y with st := .held, hold := 6 }) else s).promoteShard p

/-- The re-fetch of a shard begins, at the partition's next boundary where a step is open; one that meets another in progress waits for it. -/
def State.startRefetch (s : State) (p k : Nat) : State :=
  match (s.part p).refetch with
  | some (j, _) =>
    if j = k || (s.part p).refetchNext.contains k then s else s.onPart p (fun y => { y with refetchNext := y.refetchNext ++ [k] })
  | none =>
    let s1 := s.onPart p (fun y => { y with refetch := some (k, s.time), refetchTries := 0 })
    if s1.idle p || (s1.part p).st ≠ .running then s1.holdRefetch p else s1

/-- SCRUB_MISMATCH: it does not; the partition is held at its next boundary, and the shard fetched again. -/
def execScrubMismatch (p : Fin 16) (k : Nat) (s : State) : Res :=
  .next (match (s.part p).load.shards[k]? with
    | none => s
    | some x =>
      match s.shardDigest p x.words with
      | none => s
      | some d =>
        if s.live && s.scrubTurn p x && d != shDigest x.words then
          (((s.scrubCount p k x).bump (cntBlk 19) 1).setReg 0x20078 (w64 (shId x.words * 2 ^ 32 + 256 + p))).startRefetch p k
        else s)

/-- The end of a re-fetch that fails: requests retire with INTEGRITY_FAIL, the partition resets, its model unmaps (R299); a load still in
progress fails with the same status. -/
def State.refetchFail (s : State) (p k : Nat) : State :=
  if (s.part p).load.state = .loading then
    s.loadFail p 0x07 2 (match (s.part p).load.shards[k]? with | some x => shId x.words | none => 0) else
  let s1 := s.clearPart p 0x07 0
  let s2 := s1.unmapPages p (s.part p).load.staged
  ((s2.onPart p (fun x => { x with
    st := .loading, load := Load.init, kvFree := [], kvAll := 0, refetch := none, refetchNext := [] })).loadStatus p 0 0 0).measurePart p

/-- The re-fetch of shard k has ended: the next one waiting begins, or the partition that was held for it is released. -/
def State.refetchNextShard (s : State) (p : Nat) : State :=
  match (s.part p).refetchNext with
  | k :: r => (s.onPart p (fun y => { y with refetch := some (k, s.time), refetchTries := 0, refetchNext := r })).promoteShard p
  | [] => s.onPart p (fun y =>
      { y with refetch := none, st := if y.hold = 6 then .running else y.st, hold := if y.hold = 6 then 0 else y.hold })

/-- REFETCH_COMPLETE: the shard fetched again, its pages promoted, verifies: it is written, its pages go back to their class, and a partition
held for it is released; one held for a fault as well waits for its release with replay (17 Table 17.4). One that does not verify counts as a
mismatch on arrival. -/
def execRefetchComplete (p : Fin 16) (r : ShardRead) (s : State) : Res :=
  let x := s.part p
  .next (match x.refetch, x.load.model, r with
    | some (k, _), some m, .bytes h c tag =>
      match x.load.shards[k]? with
      | none => s
      | some sh =>
        let e := sh.words
        let key := ((x.load.keys.find? (fun z => z.1 == shKey e)).map (·.2)).getD []
        let here := (shPages e).all (fun a => (s.tier1 p a).isSome && (s.moveOf p a (pageSize (shLarge e))).isNone)
        if !s.live || !(x.st = .held || x.st = .loading) || (s.ten x.load.tenant).st ≠ .attached || !here then s
        else match openShard key h c tag (shardAad h m.modelId0 m.modelId1 x.load.version) (shDigest e) (shId e) (shBytes e / 65536) with
          | .error n => (s.bump (cntBlk 20) (b2n (n != 3))).onPart p (fun y => { y with refetchTries := y.refetchTries + 1 })
          | .ok pt =>
            let s1 := (s.ingress p e pt).onPart p (fun y => { y with load := y.load.setShard k { sh with lastCheck := s.time } })
            ((s1.demoteShard p e).getD s1).refetchNextShard p
    | _, _, _ => s)

/-- REFETCH_LIMIT_EXPIRE: the re-fetch has not verified within SEC_REFETCH_LIMIT, or its tenant has left. -/
def execRefetchLimitExpire (p : Fin 16) (s : State) : Res :=
  .next (match (s.part p).refetch with
    | none => s
    | some (k, t0) =>
      if s.live && (decide (t0.toNat + s.rf 0x20070 9 0 * 10 ^ 9 ≤ s.time.toNat) || (s.ten (s.part p).load.tenant).st ≠ .attached)
      then s.refetchFail p k else s)

/-! ### Adapters (07 R166 to R169, 15 Table 15.6, 16 R360) -/

/-- The checks common to the adapter commands: format, range of ids, partition in use. -/
def State.adapterOk (s : State) (t : Nat) (e : SubEntry) (remove : Bool) : Bool :=
  let id := bits (e.word 1) 23 0
  let lo := s.rf (hReg t 0x40) 23 0
  let hi := s.rf (hReg t 0x48) 23 0
  e.clean (if remove then 2 else 5) false && bits (e.word 1) 59 25 == 0 &&
  (remove || (bits (e.word 2) 63 47 == 0 && bits (e.word 3) 63 32 == 0 && bits (e.word 4) 63 32 == 0)) &&
  decide (id ≠ 0) && decide (lo ≤ id) && decide (id ≤ hi) && (s.part (bits (e.word 1) 63 60)).st != .off

def SubEntry.adapterCmd (e : SubEntry) (t q : Nat) : AdapterCmd :=
  ⟨e.op, t, q, e.id, bits (e.word 1) 63 60, bits (e.word 1) 23 0, bit (e.word 1) 24, bits (e.word 2) 46 0, bits (e.word 3) 31 0,
   bits (e.word 4) 31 0, false⟩

def State.addAdapter (s : State) (t q : Nat) (e : SubEntry) : State :=
  (s.onTen t (fun x => { x with adapters := x.adapters ++ [e.adapterCmd t q] })).entryDone t q e.index none

/-- Whether an entry is READY and owned by the tenant. -/
def State.ownsReady (s : State) (p id t : Nat) : Bool :=
  match s.dirEntry p id with
  | some d => deId d == id && deState d == 2 && deOwner d == t
  | none => false

/-- ADAPTER_INSTALL: the entry is staged LOADING; a later row brings the image (R166). -/
def execAdapterInstall (t : Fin 64) (q : Fin 8) (i : Nat) (s : State) : Res :=
  .next (s.withEntry t q i 8 (fun e s =>
    let p := bits (e.word 1) 63 60
    let id := bits (e.word 1) 23 0
    let taken := match s.dirEntry p id with | some d => deId d == id && (deState d == 1 || deState d == 2) | none => false
    if !s.adapterOk t e false || (bit (e.word 1) 24 && !bit (s.rd (hReg t 8)) 3) || taken then s.entryEnds t q e 0x0B
    else if s.dirBusy p then s
    else
      let img := [w64 (2 ^ 60), w64 (id * 2 ^ 40 + b2n (bit (e.word 1) 24) * 2 ^ 39), 0, 0, w64 t, 0, 0, 0]
      (s.stageDir p id img).addAdapter t q e))

/-- ADAPTER_REPLACE: the new image is awaited while the entry stays READY (R167). -/
def execAdapterReplace (t : Fin 64) (q : Fin 8) (i : Nat) (s : State) : Res :=
  .next (s.withEntry t q i 9 (fun e s =>
    if !s.adapterOk t e false then s.entryEnds t q e 0x0B
    else if !s.ownsReady (bits (e.word 1) 63 60) (bits (e.word 1) 23 0) t then s.entryEnds t q e 0x02
    else s.addAdapter t q e))

/-- ADAPTER_REMOVE: the entry is staged ABSENT (R167). -/
def execAdapterRemove (t : Fin 64) (q : Fin 8) (i : Nat) (s : State) : Res :=
  .next (s.withEntry t q i 10 (fun e s =>
    let p := bits (e.word 1) 63 60
    let id := bits (e.word 1) 23 0
    if !s.adapterOk t e true then s.entryEnds t q e 0x0B
    else if !s.ownsReady p id t then s.entryEnds t q e 0x02
    else if s.dirBusy p then s
    else (s.stageDir p id (List.replicate 8 0)).entryEnds t q e 0))

/-- Bytes of a coefficient element. -/
def eltBytes (fmt : Nat) : Nat := if fmt = 1 then 2 else 1

/-- Fields of an adapter image header (Table 7.9), by word. -/
def aiForm (h : List W64) : Nat := bits (nth 0 h 1) 63 60
def aiFormat (h : List W64) : Nat := bits (nth 0 h 1) 59 56
def aiRank (h : List W64) : Nat := bits (nth 0 h 1) 47 32
def aiBank (h : List W64) : Nat := bits (nth 0 h 1) 31 16
def aiLayers (h : List W64) : Nat := bits (nth 0 h 1) 15 0
def aiMask (h : List W64) : Nat := bits (nth 0 h 2) 38 32
def aiBlocks (h : List W64) : Nat := bits (nth 0 h 3) 31 16
def aiStride (h : List W64) : Nat := 32 * bits (nth 0 h 3) 15 0

/-- Projections of a mask, ascending. -/
def maskList (m : Nat) : List Nat := (List.range 7).filter (fun k => m / 2 ^ k % 2 = 1)

/-- Size of a block by its own header. -/
def coefSize (h : List W64) (b : List W64) : Nat :=
  let e := eltBytes (aiFormat h)
  if aiForm h = 1 then 32 + 2 * aiRank h * aiBank h * e
  else 32 + aiRank h * (ceilDiv (64 * bits (nth 0 b 2) 15 0) 256 * 256 + 64 * bits (nth 0 b 2) 31 16) * e

/-- Input and output width of a projection of Table 7.2, divided by 64 (Table 7.3), as the model's widths give them (DEDUCED, log entry
125). -/
def projWidths (m : ModelManifest) (proj : Nat) : Nat × Nat :=
  let q := m.qHeads * m.headDim
  let kv := m.kvHeads * m.headDim
  match proj with
  | 0 => (m.d / 64, q / 64)
  | 1 => (m.d / 64, kv / 64)
  | 2 => (m.d / 64, kv / 64)
  | 3 => (q / 64, m.d / 64)
  | 6 => (m.ffn / 64, m.d / 64)
  | _ => (m.d / 64, m.ffn / 64)

/-- A block header agrees with the image header, its layer and its projection; a plain block's widths are those of the projection. -/
def blockOk (m : ModelManifest) (h b : List W64) (layer proj : Nat) : Bool :=
  let w0 := nth 0 b 0
  bits w0 63 48 == aiBank h && bits w0 47 32 == aiRank h && bits w0 31 24 == aiForm h && bits w0 23 16 == aiFormat h &&
  (if aiFormat h = 1 then bits w0 15 0 == 0 else bits w0 15 8 != 0xFF && bits w0 7 0 != 0xFF) &&
  bits (nth 0 b 1) 63 32 == 0 && bits (nth 0 b 1) 31 0 == bits (nth 0 h 2) 31 0 && bits (nth 0 b 2) 63 32 == 0 &&
  (if aiForm h = 1 then bits (nth 0 b 2) 31 0 == 0
   else bits (nth 0 b 2) 31 16 == (projWidths m proj).2 && bits (nth 0 b 2) 15 0 == (projWidths m proj).1) &&
  bits (nth 0 b 3) 63 24 == 0 && bits (nth 0 b 3) 23 16 == proj && bits (nth 0 b 3) 15 0 == layer &&
  decide (coefSize h b ≤ aiStride h)

/-- An image is one that Penub accepts (R169): everything but its digest. -/
def adapterImageOk (m : ModelManifest) (img : List Byte) : Bool :=
  let h := wordsOf 32 img
  let projs := maskList (aiMask h)
  let n := projs.length
  let exp := bits (nth 0 h 2) 30 23
  let blk (k : Nat) : List W64 := wordsOf 4 (img.drop (256 + k * aiStride h))
  let sizes := (List.range (aiBlocks h)).map (fun k => coefSize h (blk k))
  bits (nth 0 h 0) 31 0 == 0x44415843 && bits (nth 0 h 0) 47 32 == 1 && bits (nth 0 h 0) 63 48 == 0 && bits (nth 0 h 1) 55 48 == 0 &&
  bits (nth 0 h 2) 63 39 == 0 && bits (nth 0 h 3) 63 32 == 0 && (List.range 20).all (fun k => nth 0 h (12 + k) == 0) &&
  decide (aiFormat h ≤ 1) && decide (4 ≤ aiRank h) && aiRank h % 4 == 0 &&
  (if aiForm h = 1 then decide (aiRank h ≤ 64) && [64, 128, 256, 512].contains (aiBank h) &&
      projs.all (fun k => nth 0 m.banks k == aiBank h)
   else aiForm h == 2 && decide (aiRank h ≤ 256) && aiBank h == 0) &&
  nth 0 h 4 == m.modelId0 && nth 0 h 5 == m.modelId1 && decide (n ≠ 0) && aiLayers h == m.layers &&
  aiBlocks h == m.layers * n && decide (aiStride h ≤ 524288) && aiStride h == ceilDiv (sizes.foldl max 0) 32 * 32 &&
  exp != 0xFF && decide (img.length ≥ 256 + aiBlocks h * aiStride h) &&
  (List.range (aiBlocks h)).all (fun k => blockOk m h (blk k) (k / n) (nth 0 projs (k % n)))

/-- The directory entry of a verified image. -/
def readyEntry (h : List W64) (id gen owner addr : Nat) (shared : Bool) (time : W64) : List W64 :=
  [w64 (2 * 2 ^ 60 + aiForm h * 2 ^ 56 + aiFormat h * 2 ^ 52 + aiRank h * 2 ^ 32 + aiBank h * 2 ^ 16),
   w64 (id * 2 ^ 40 + b2n shared * 2 ^ 39 + aiMask h * 2 ^ 32 + bits (nth 0 h 2) 31 0), w64 addr,
   w64 (gen * 2 ^ 32 + aiBlocks h * 2 ^ 16 + aiStride h / 32), w64 owner, time, 0, 0]

/-- An adapter command ends. -/
def State.endAdapter (s : State) (t k : Nat) (a : AdapterCmd) (status : Nat) : State :=
  let s1 := s.onTen t (fun x => { x with adapters := x.adapters.eraseIdx k })
  if a.silent then s1 else s1.commandDone t a.queue a.cmd status none

/-- It fails: an install's entry is staged ABSENT, a replaced one stays (R166, R167). -/
def State.failAdapter (s : State) (t k : Nat) (a : AdapterCmd) (status : Nat) : State :=
  (if a.op = 8 then s.stageDir a.part a.id (List.replicate 8 0) else s).endAdapter t k a status

/-- An image is written into tier 1 or tier 2 pages of the partition range (R166); none where a page is neither. -/
def State.imageWrite (s : State) (p addr : Nat) (bs : List Byte) : Option State :=
  let l := pageSpans addr bs.length
  let tierAt (a : Nat) : Nat := match s.xlat p a with | .page e _ _ _ => entryTier e | _ => 0
  if !l.all (fun sp => tierAt sp.1 == 1 || tierAt sp.1 == 2) then none else
  some ((s.forEach l (fun sp s =>
    let b := (bs.drop (sp.1 - addr)).take sp.2
    match s.xlat p sp.1 with
    | .page e _ base _ =>
      let a := extAddr e (sp.1 - base)
      if entryTier e = 1 then s.hbmWrite (entryFrame e + (sp.1 - base)) b
      else ({ s with ext := s.ext.writeN a b } : State).unitOp .note p 2 a b.length b (sealedAt a) 0 0 0
    | _ => s)).settleNotes.markDemotes p addr bs.length)

/-- Whether an image may lie at an address: 64 KiB aligned, apart from the image it replaces and from those that an uncommitted step may
still name (R167, R168). -/
def State.imagePlace (s : State) (p addr len : Nat) (old : List W64) : Bool :=
  addr % 65536 == 0 && !s.imageKept p addr len &&
    !(deState old == 2 && overlap (deImage old) (256 + deBlocks old * (32 * deStride old)) addr len)

/-- ADAPTER_IMAGE_VERIFIED: the image of the tenant's k-th adapter command has landed; Penub has mapped pages for it at `addr`. The
wrapped key record is the first 168 bytes of the source, then the shard (R360). Pages that hold no image fail the command. -/
def execAdapterImageVerified (t : Fin 64) (k : Nat) (addr : BitVec 52) (r : ShardRead) (s : State) : Res :=
  .next (match (s.ten t).adapters[k]? with
    | none => s
    | some a =>
      let p := a.part
      if !s.live || s.dirBusy p then s else
      match r, (s.part p).load.model with
      | .bytes hdr c tag, some m =>
        let rec_ := hdr.take 21
        let h := hdr.drop 21
        let len := c.length / 65536
        if !recordOk rec_ then s.failAdapter t k a 0x0B
        else if recordId rec_ ≠ a.key then s.failAdapter t k a 0x07
        else match s.unwrap p rec_ m.modelId0 m.modelId1 with
          | none => s.failAdapter t k a 0x07
          | some key =>
            if !shardHeaderOk h 0 len || c.length % 65536 ≠ 0 || tag.length ≠ 16 then s.failAdapter t k a 0x0B
            else match Config.gcmOpen key (shardIv h) (shardAad h m.modelId0 m.modelId1 (s.part p).load.version) c tag with
              | none => s.failAdapter t k a 0x07
              | some pt =>
                let ih := wordsOf 32 pt
                let body := (pt.take (256 + aiBlocks ih * aiStride ih)).drop 256
                if !adapterImageOk m pt then s.failAdapter t k a 0x0B
                else if Config.sha384 body ≠ bytesOf ((ih.drop 6).take 6) then s.failAdapter t k a 0x07
                else
                  let old := match s.dirEntry p a.id with | some d => d | none => []
                  let gen := if a.op = 8 then 0 else (deGen old + 1) % 2 ^ 32
                  let shared := if a.op = 8 then a.shared else deShared old
                  if !s.imagePlace p addr.toNat pt.length old then s else
                  match s.imageWrite p addr.toNat pt with
                  | none => s.failAdapter t k a 0x0B
                  | some s1 =>
                    ((s1.journal 2 [w64 p, w64 a.id, addr.setWidth 64]).stageDir p a.id
                      (readyEntry ih a.id gen t addr.toNat shared s.time)).endAdapter t k a 0
      | .bytes _ _ _, none => s.failAdapter t k a 0x0B
      | .error _, _ => s.failAdapter t k a 0x0B)

end Sys2Proof.Machine
end

