-- ==== Sys2Proof/Machine/Sequencer.lean ====
section
/-! DEFINITION. Partition commands (10_sequencer.md R221, R222, Table 10.2; 17 R377 to R381; 20 R442), the seal and launch of a step
(10 R225, R227, R236, R246). -/

namespace Sys2Proof.Machine

/-! ### Partition commands -/

/-- Phase READY of start-up (Table 20.1). -/
def State.ready (s : State) : Bool := decide (s.rf 0x10020 3 0 = 0xC)

/-- A refused command changes no state; REFUSAL says why. -/
def State.refuse (s : State) (p why : Nat) : State := s.onPart p (fun x => { x with refusal := why })

/-- Frames that the configuration has. -/
def State.frameMask (s : State) : Nat := 2 ^ (s.design.rods / 8) - 1

/-- Zero a partition's counters (18 R398). -/
def State.clearPartCounters (s : State) (p : Nat) : State :=
  { s with regs := Sparse.clear s.regs (cntPart p 0) (cntPart p 0 + 0x1000) }

/-- CREATE: OFF to LOADING. The nonce and the prefix key are drawn, the frames' memories zeroed (R222, 09 R214, 16 R364); pages that are still
mapped keep their place in the share (12 R270). -/
def execCreate (p : Fin 16) (s : State) : Res :=
  let mask := (s.rd (pReg p 8)).toNat
  .next (if !s.live then s
    else if (s.part p).st ≠ .off || !s.ready || s.flt.noCreate then s.refuse p 5
    else if mask = 0 || mask > s.frameMask ||
        (List.range 16).any (fun k => k != p.val && (s.part k).st != .off && (s.rd (pReg k 8) &&& s.rd (pReg p 8)) != 0) then s.refuse p 4
    else
      let d := s.drawMany 6
      let s1 := d.2.forEach (d.2.rodsOf p) (fun l s =>
        let ph := s.phys l
        (((s.beadZero ph).imemZero ph).resetRod ph).onRod ph (fun r => { r with imgLen := 0 }))
      let s2 := s1.setPart p { Part.init with
        st := .loading, nonce := d.1, pfxKey0 := Config.freeWord (d.1 + 4), pfxKey1 := Config.freeWord (d.1 + 5),
        t1 := (s.part p).t1, cycle0 := s.pwr.cycles }
      let s3 := (((s2.clearPartCounters p).loadStatus p 0 0 0).journal 1 [1, w64 p]).measurePart p
      { s3 with fab := { s3.fab with created := true } })

/-- START: Penub's checks, then RUNNING with every rod at program address 0 (R222, R292, 03 R469). Halt in effect makes it wait. -/
def execStart (p : Fin 16) (s : State) : Res :=
  let x := s.part p
  let pinned := (x.load.shards.filter (fun e => shClass e.words == 0)).foldl (fun n e => n + shBytes e.words) 0
  .next (if !s.live || s.stalled then s
    else if x.st ≠ .loading then s.refuse p 5
    else if x.load.state ≠ .done then s.refuse p 1
    else if !s.launchOk p then s.refuse p 2
    else if pinned > s.rf (pReg p 0x18) 18 0 * 2 ^ 21 then s.refuse p 3
    else if s.flt.noFrames.any (fun f => bit (s.rd (pReg p 8)) f) then s.refuse p 4
    else
      ((s.journal 1 [2, w64 p]).forEach (s.rodsOf p) (fun l s =>
        s.onRod (s.phys l) (fun r => { r with pc := 0, issue := .run }))).onPart p (fun y => { y with
          st := .running, refusal := 0, hold := 0, boundary := s.time }))

/-- A partition in DEBUG that a BREAK has held leaves HELD only by a reset (18 R409). -/
def State.breakHeld (s : State) (p : Nat) : Bool := s.sec.lifecycle == 2 && (s.part p).faultCause == 0x09

/-- Rods held by a report may issue again. -/
def State.unreport (s : State) (p : Nat) : State :=
  s.forEach (s.rodsOf p) (fun l s => s.onRod (s.phys l) (fun r => { r with raised := [], reported := false }))

/-- RELEASE: each rod resumes where its issue was held (03 R469), and its units start what waits in their queues. -/
def execRelease (p : Fin 16) (s : State) : Res :=
  .next (if !s.live || s.stalled then s
    else if (s.part p).st ≠ .held || s.breakHeld p then s.refuse p 5
    else (((s.journal 1 [3, w64 p]).unreport p).onPart p (fun y => { y with
      st := .running, refusal := 0, hold := 0, haltHeld := false, faultCause := 0, faultResp := 0 })).startPart p)

/-! ### Replay (17 R376 to R381) -/

/-- The requests with rows in a descriptor. -/
def Desc.requests (d : Desc) : List Nat := ((d.rows.filter (fun r => r.kind != 2)).map (·.idx)).eraseDups

/-- SipHash-2-4 under FLT_JRNL_KEY. -/
def State.jrnlHash (s : State) (b : List Byte) : W64 :=
  sipHash (Config.freeWord s.sec.jrnlKey) (Config.freeWord (s.sec.jrnlKey + 1)) b

/-! #### The step journal (R374 to R376, 12 R284) -/

/-- Where payloads lie in a record, in 32-byte units from its start; 0 for an entry without one (Table 17.3). -/
def payAt (at_ : Nat) : List JEntry → List Nat
  | [] => []
  | e :: r => (if e.payload.isEmpty then 0 else at_) :: payAt (at_ + ceilDiv e.payload.length 8) r

/-- 32-byte units of a record before its payloads. -/
def JRecord.head (r : JRecord) : Nat := 1 + ceilDiv r.entries.length 2

/-- Bytes of a whole record. -/
def JRecord.size (r : JRecord) : Nat := 32 * r.entries.foldl (fun n e => n + ceilDiv e.payload.length 8) r.head

/-- Words 0 to 2 of the header, and the entries (Tables 17.2 and 17.3). -/
def JRecord.header (r : JRecord) (p : Nat) : List W64 :=
  [w64 (2 ^ 60 + p % 16 * 2 ^ 48 + r.entries.length % 65536 * 2 ^ 32 + r.size), w64 r.step, r.check]
def JEntry.words (e : JEntry) (pay : Nat) : List W64 :=
  [w64 (e.outcome % 16 * 2 ^ 60 + e.idx % 32768 * 2 ^ 45 + e.pos % 2 ^ 17 * 2 ^ 28 + e.tok % 2 ^ 18), w64 (e.status % 256 * 2 ^ 56 + pay)]
def JRecord.entryBytes (r : JRecord) : List Byte :=
  bytesOf ((r.entries.zip (payAt r.head r.entries)).flatMap (fun e => e.1.words e.2))
def JEntry.payBytes (e : JEntry) : List Byte := e.payload.flatMap (fun x => leBytes 4 x.toNat)

/-- What the record check covers of a record that lies in memory: words 0 to 2, every entry, every payload (Table 17.2). -/
def JRecord.covered (r : JRecord) (bs : List Byte) : List Byte :=
  bs.take 24 ++ (bs.drop 32).take (16 * r.entries.length) ++
    (r.entries.zip (payAt r.head r.entries)).flatMap (fun e => (bs.drop (32 * e.2)).take (4 * e.1.payload.length))

/-- The bytes of a record, with its record check in word 3. -/
def State.recordBytes (s : State) (p : Nat) (r : JRecord) : List Byte :=
  let pad (l : List Byte) : List Byte := l ++ List.replicate (ceilDiv l.length 32 * 32 - l.length) 0
  let body := pad r.entryBytes ++ r.entries.flatMap (fun e => pad e.payBytes)
  let bs (c : W64) : List Byte := bytesOf (r.header p) ++ bytesOf [c] ++ body
  bs (s.jrnlHash (r.covered (bs 0)))

/-- Where a copy of the record of a partition's step lies: in the direct part that FLT_JRNL_PART names, and in the one half the stacks further (12 R284,
Table 21.5; smaller configurations: log entry 109). -/
def State.jrnlAt (s : State) (p step : Nat) (second : Bool) : Nat :=
  let n := s.design.stacks
  let k := (s.rf (0x31000 + 0x40 * p) 3 0 + (if second then n / 2 else 0)) % n
  s.directBase + k * (s.tier.directGib * 2 ^ 30) + (Config.stepJournal p step).toNat / 64 * 64

/-- Write both copies of a record. -/
def State.jrnlWrite (s : State) (p : Nat) (r : JRecord) : State :=
  let bs := s.recordBytes p r
  ((s.hbmWrite (s.jrnlAt p r.step false) bs).hbmWrite (s.jrnlAt p r.step true) bs).onPart p (fun x =>
    { x with jrnlA := some ⟨s.jrnlAt p r.step false, r⟩, jrnlB := some ⟨s.jrnlAt p r.step true, r⟩ })

/-- The record of a copy that passes its record check as it lies in memory. -/
def State.jrnlRead (s : State) (c : Option JCopy) : Option JRecord :=
  match c with
  | none => none
  | some c =>
    let bs := s.hbmRead c.at_ c.record.size
    if !s.hbmRangeBad c.at_ c.record.size && s.jrnlHash (c.record.covered bs) == w64 (leNat ((bs.drop 24).take 8)) then some c.record
    else none

/-- The record that the journal holds: of a copy that passes; the other copy is rewritten where it fails or disagrees. Where neither passes the
record is absent (R376). -/
def State.jrnlFind (s : State) (p : Nat) : Option JRecord × State :=
  let x := s.part p
  match s.jrnlRead x.jrnlA, s.jrnlRead x.jrnlB with
  | some a, some b => if a = b then (some a, s) else (some a, s.jrnlWrite p a)
  | some a, none => (some a, s.jrnlWrite p a)
  | none, some b => (some b, s.jrnlWrite p b)
  | none, none => (none, s)

/-- The journal's record of a step. -/
def State.jrnlOf (s : State) (p step : Nat) : Option JRecord × State :=
  let r := s.jrnlFind p
  (r.1.bind (fun x => if x.step = step then some x else none), r.2)

/-- The sealed descriptor still passes the check of a record of its step, or else the check kept at the seal (R377). -/
def State.descCheck (s : State) (p : Nat) (d : Desc) : Bool :=
  let want := match (s.jrnlOf p d.step).1 with | some r => r.check | none => d.check
  match s.rangeRead p (s.descAt p d.step) (d.bytes p).length with
  | some b => s.jrnlHash b == want
  | none => false

/-- Every remote operation of the partition has completed or timed out. -/
def State.drained (s : State) (p : Nat) : Bool := (s.rodsOf p).all (fun l => (s.rod (s.phys l)).rem.isEmpty)

/-- The image is loaded again into a rod whose instruction memory failed (17 Table 17.1). -/
def State.reloadImages (s : State) (p : Nat) : State :=
  match (s.part p).load.model with
  | none => s
  | some m => s.forEach (s.rodsOf p) (fun l s =>
      if (s.rod (s.phys l)).raised.any (fun e => e.cause == 0x0A && e.resp == 16) then s.loadRod (s.phys l) m.program else s)

/-- Queues emptied, streams abandoned, counters cleared, rods at address 0 (R377). -/
def State.rearm (s : State) (p : Nat) : State :=
  let s1 := ((s.reloadImages p).dropStreams p).forEach (s.rodsOf p) (fun l s => s.onRod (s.phys l) (fun r => { r with
    queue := [], c := [], pc := 0, issue := .run, raised := [], reported := false, mq := [], vq := [], cq := [] }))
  ((s1.setReg (pReg p 0x100) 0).setReg (pReg p 0x108) 0).onPart p (fun x => { x with
    st := .running, hold := 0, haltHeld := false, faultCause := 0, faultResp := 0, refusal := 0, peerWait := none,
    atBarrier := [], atEnd := [], record := none })

/-- Replay one partition's open step; where R379 fails it, its requests retire and the step is discarded. Their completions carry the response
behind the fault (R7). -/
def State.replay (s : State) (p : Nat) : State :=
  let x := s.part p
  match x.opened with
  | none => s
  | some d =>
    let s1 := (s.jrnlFind p).2.rearm p
    if !s.descCheck p d || x.tries ≥ s.rf 0x30030 3 0 then
      let s2 := (s1.refBlocks p d false).onPart p (fun y => { y with opened := none, ended := false, recs := [] })
      let s3 := s2.forEach d.requests (fun i s => (s.unreserve i).retire i 0x0D (x.faultResp % 16))
      (s3.freeLater p).bump (cntBlk 9) 1
    else (s1.onPart p (fun y => { y with tries := y.tries + 1 })).launch p d

/-- The members of a partition's replay group that are not OFF, itself among them (R380). -/
def State.replayGroup (s : State) (p : Nat) : List Nat :=
  let g := s.rf (0x31008 + 0x40 * p) 7 0
  if g = 0 then [p]
  else (List.range 16).filter (fun k => (s.part k).st != .off && s.rf (0x31008 + 0x40 * k) 7 0 == g)

/-- Whether a fault of class Program stands in a partition: behind its hold, or raised by one of its rods while something else held it
(R90, Table 17.1). -/
def State.programFault (s : State) (p : Nat) : Bool :=
  (decide ((s.part p).faultCause ≠ 0) && programCause (s.part p).faultCause (s.part p).faultResp) ||
    (s.rodsOf p).any (fun l => (s.rod (s.phys l)).raised.any (fun e => programCause e.cause e.resp))

/-- RELEASE_WITH_REPLAY: replay the open step of a HELD partition, with its replay group. Not for a program fault, not after a step
timeout; not before its remote operations have ended and the peer that left is back (R377, R381). -/
def State.releaseReplay (s : State) (p : Nat) : State :=
  let x := s.part p
  if !s.live || s.stalled then s
    else if x.st ≠ .held || x.hold = 5 || s.programFault p then s.refuse p 5
    else match x.opened with
      | none => s.refuse p 5
      | some d =>
        let grp := s.replayGroup p
        let same (k : Nat) : Bool := match (s.part k).opened with | some e => e.step == d.step | none => false
        let back := match x.peerWait with | some (k, _) => s.present k | none => true
        if !grp.all same then s.forEach grp (fun k s => s.resetPart k 0x0A ((s.part k).faultResp % 16))
        else if !(back && x.refetch.isNone && grp.all s.drained) then s
        else (s.journal 1 [4, w64 p]).forEach grp (fun k s => s.replay k)
def execReleaseWithReplay (p : Fin 16) (s : State) : Res := .next (s.releaseReplay p)

/-! ### Reset and deletion -/

/-- The status with which a reset retires a partition's requests (Table 17.1). -/
def State.resetStatus (s : State) (p : Nat) : Nat := if (s.part p).faultResp = 3 then 0x0E else 0x0A

/-- PARTITION_RESET: to RESETTING, from RUNNING or HELD. -/
def execPartitionReset (p : Fin 16) (s : State) : Res :=
  let x := s.part p
  .next (if !s.live then s
    else if x.st ≠ .running && x.st ≠ .held then s.refuse p 5
    else ((s.journal 1 [5, w64 p]).resetPart p (s.resetStatus p) (x.faultResp % 16)).onPart p (fun y => { y with refusal := 0 }))

/-- PARTITION_RESET_END: to LOADING. -/
def execPartitionResetEnd (p : Fin 16) (s : State) : Res :=
  .next (if s.live && (s.part p).st = .resetting then
      ((s.onPart p (fun y => { y with st := .loading })).boundaryRods p).measurePart p else s)

/-- Deletion, whole: a load fails, requests retire, the model and the page lists unmap, keys and the owner's binding go. -/
def State.deletePart (s : State) (p : Nat) : State :=
  let s1 := if (s.part p).load.state = .loading then s.loadFail p 0x0A 7 0 else s
  let s2 := s1.clearPart p 0x0A 0
  let x := s2.part p
  let plists := x.plistMapped.map (fun i => (s2.rd (pReg p 0x2B8)).toNat + 65536 * i)
  let s3 := s2.unmapPages p (x.load.staged ++ plists)
  let s4 := s3.forEach (List.range 6) (fun k s => s.setReg (ownerReg p k) 0)
  (((s4.setReg (loadReg p + 0x70) 0).loadStatus p 0 0 0).setPart p { Part.init with t1 := (s4.part p).t1 }).measurePart p

/-- DELETE: from LOADING or HELD to OFF. -/
def execDelete (p : Fin 16) (s : State) : Res :=
  let x := s.part p
  .next (if !s.live then s
    else if x.st ≠ .loading && x.st ≠ .held then s.refuse p 5
    else (s.journal 1 [6, w64 p]).deletePart p)

/-! ### The seal (R225, R236) -/

/-- Turn a request's rows void: its prompt rows come again later, and its ring space returns. -/
def State.voidRequest (s : State) (d : Desc) (i : Nat) : State × Desc :=
  let mine := d.rows.filter (fun r => r.idx == i && r.kind != 2)
  let back := (mine.filter (fun r => r.kind == 1)).foldl (fun m r => min m r.pos) (s.slot i).next
  let rows := d.rows.map (fun r => if r.idx == i && r.kind != 2 then r.void else r)
  let n := if mine.any (·.sample) then s.ringNeed i else 0
  let x := s.slot i
  let o := s.ring x.tenant x.ring
  let s1 := (s.setRing x.tenant x.ring { o with reserved := o.reserved - n }).onSlot i (fun x => { x with
    next := back, reserved := x.reserved - n })
  (s1, { d with rows := rows })

/-- Void the rows of every request that is no longer PREFILL or DECODE. -/
def State.voidLeft (s : State) (d : Desc) : State × Desc :=
  d.requests.foldl (fun a i =>
    let st := (a.1.slot i).state
    if st = 2 || st = 3 then a else a.1.voidRequest a.2 i) (s, d)

/-- STEP_SEAL: what waits for the boundary takes effect, a staged table of the partition among it (08 R195), the descriptor is fixed, its check
kept, and the step launched. A partition that a re-fetch waits to hold is held instead (13 R299). -/
def execStepSeal (p : Fin 16) (s : State) : Res :=
  let x := s.part p
  .next (match x.build with
    | .built d0 =>
      if !s.live || s.stalled || x.st ≠ .running || x.opened.isSome then s
      else if x.refetch.isSome then s.holdRefetch p
      else
        let s0 := if tblPart s.tblStaged = p.val then s.applyTable else s
        let v := (s0.applyBoundary p).voidLeft d0
        let d := { v.2 with check := v.1.jrnlHash (v.2.bytes p), blocks := v.1.blocksOf v.2.requests }
        let s1 := ((v.1.writeDesc p d).refBlocks p d true).onPart p (fun y => { y with
          build := .idle, step := d.step + 1, tries := 0, record := none })
        (s1.launch p d).firstMisses p
    | _ => s)

/-- LAUNCH_STAGGER_END: group g of the partition's frames may start its matrix and vector units, unless a group release holds it still
(R246, 19 R425). -/
def execLaunchStaggerEnd (p : Fin 16) (group : Fin 8) (s : State) : Res :=
  .next (if s.live && !s.stalled && decide ((s.part p).boundary.toNat + 15 * group ≤ s.time.toNat) then
      (s.onPart p (fun y => { y with groups := y.groups.filter (· != group.val) })).startPart p
    else s)

end Sys2Proof.Machine
end

