-- ==== Sys2Proof/Machine/Sampler.lean ====
section
/-! DEFINITION. The Sampler (11_sampler.md R247 to R260) and the commit of a step with its journal (17 R374, R375, R379). -/

namespace Sys2Proof.Machine

/-! ### Hand-off (R247 to R250) -/

/-- A record of a candidate list as it lies in bead memory: its header words, its entries and its padding (Table 11.1). -/
structure RawRec where
  w0 : W64
  w1 : W64
  entries : List W64
  pad : Bool              -- its padding is zero
deriving DecidableEq, Repr

def RawRec.kind (r : RawRec) : Nat := bits r.w0 63 62
def RawRec.row (r : RawRec) : Nat := bits r.w0 58 42
def RawRec.start (r : RawRec) : Nat := bits r.w1 31 0

/-- Lay out `n` records from bead offset `a`; none where they run past the end of bead memory (R118). A list that holds poisoned granules is
copied as its bytes stand and raises nothing: the spec says nothing of it (DESIGN CHOICE, log entry 123). -/
def State.rawRecs (s : State) (ph a : Nat) : Nat → Option (List RawRec)
  | 0 => some []
  | n + 1 =>
    if a + 16 > 0x400000 then none else
    let m := 2 ^ 22 * ph
    let w0 := s.bead.read64 (m + a)
    let w1 := s.bead.read64 (m + a + 8)
    let c := bits w0 41 26
    let k := bits w0 63 62
    let size := if k = 0 then 8 * c else ceilDiv (4 * c) 8 * 8
    if a + 16 + size > 0x400000 then none else
    let es := if k = 0 then s.bead.readWords (m + a + 16) c
      else (List.range c).map (fun j => (s.bead.read32 (m + a + 16 + 4 * j)).setWidth 64)
    let pad := if k ≠ 0 && c % 2 = 1 then s.bead.read32 (m + a + 16 + 4 * c) == 0 else true
    (s.rawRecs ph (a + 16 + size) n).map (fun r => ⟨w0, w1, es, pad⟩ :: r)

/-- Whether the Sampler discards a record as stray (R249). -/
def State.stray (s : State) (p : Nat) (d : Desc) (r : RawRec) : Bool :=
  let n := r.entries.length
  let row := nth voidRow d.rows r.row
  bits r.w0 61 59 != 0 || bits r.w0 25 0 != 0 || bits r.w1 63 32 != 0 || !r.pad || r.kind == 3 ||
  (r.kind == 0 && (decide (n > 64) || r.start != 0 || r.entries.any (fun e => bits e 31 18 != 0))) ||
  (r.kind == 1 && (n == 0 || decide (n > 16384) || decide (r.start + n > s.modelD p))) ||
  (r.kind == 2 && (n == 0 || decide (n > 1024) || decide (r.start + n > s.candidates row.idx))) ||
  decide (r.row ≥ d.rows.length) || row.kind == 2 || !row.sample ||
  !(match s.modelKind p with
    | some .encoder => r.kind == 1
    | some .crossEncoder => r.kind == 2
    | _ => r.kind == 0)

/-- Copy a hand-off: its records join the open step; the status record counts it. -/
def State.takeHandoff (s : State) (p ph : Nat) (d : Desc) (o : RemOp) (l : List RawRec) : State :=
  let bad := l.filter (s.stray p d)
  let good := l.filter (fun r => !s.stray p d r)
  let cand := (l.filter (fun r => r.kind == 0)).foldl (fun n r => n + r.entries.length) 0
  let pay := (l.filter (fun r => r.kind != 0)).foldl (fun n r => n + 4 * r.entries.length) 0
  let a := 2 ^ 22 * ph + 0x3F0200
  let up (k n : Nat) (s : State) : State := s.beadWrite ph (0x3F0200 + 8 * k) (leBytes 8 ((s.bead.read64 (a + 8 * k)).toNat + n))
  let s1 := up 2 bad.length (up 1 l.length (up 0 1 s))
  ((s1.bump (cntPart p 24) bad.length).onPart p (fun x => { x with
    recs := x.recs ++ good.map (fun r => ⟨r.kind, r.row, r.start, r.entries⟩),
    recEntries := x.recEntries + cand, recBytes := x.recBytes + pay })).onRod ph (fun r => (r.dropRem o.tag).countOpt o.cnt)

/-- SAMPLE_PUT_COPY: the Sampler takes the rod's hand-offs in issue order, each after what older instructions of its unit still write there
(R118, R247, 03 R43). -/
def execSamplePutCopy (l : Fin 512) (tag : Nat) (s : State) : Res :=
  let ph := s.phys l
  let x := s.part ((s.partOf l).getD 0)
  .next (match (s.rod ph).rem.find? (fun o => o.kind == .sample || o.kind == .sampleEmpty), s.partOf l with
    | some o, some p =>
      if !s.live || o.tag ≠ tag || (s.rod ph).olderTouches o then s else
      match x.opened with
      | none => s.remFail ph o 1
      | some d =>
        if o.kind = .sampleEmpty then s.takeHandoff p ph d o []
        else if o.b.toNat > 4096 then s.remFail ph o 1
        else match s.rawRecs ph o.bead o.b.toNat with
          | none => s.remFail ph o 1
          | some rs =>
            let cand := (rs.filter (fun r => r.kind == 0)).foldl (fun n r => n + r.entries.length) 0
            let pay := (rs.filter (fun r => r.kind != 0)).foldl (fun n r => n + 4 * r.entries.length) 0
            if x.recEntries + cand > 1048576 || x.recBytes + pay > 4194304 then s.remFail ph o 1
            else s.takeHandoff p ph d o rs
    | _, _ => s)

/-! ### Profiles (R251, R252) and masks (R253) -/

def f32At (w : W64) (hi lo : Nat) : W32 := BitVec.ofNat 32 (bits w hi lo)
def f32In01 (x : W32) : Bool := fle 0 x && fle x 0x3F800000#32

/-- Whether a profile keeps Table 11.2. -/
def profileOk (w : List W64) : Bool :=
  let ctl (k : Nat) : Bool := bits (nth 0 w k) 61 50 == 0 && bits (nth 0 w k) 31 18 == 0
  let temp := f32At (nth 0 w 0) 63 32
  f32IsFinite temp && fle 0 temp && decide (bits (nth 0 w 0) 31 16 ≤ 256) && bits (nth 0 w 0) 15 14 != 3 &&
  bits (nth 0 w 0) 13 0 == 0 && f32In01 (f32At (nth 0 w 1) 63 32) && f32In01 (f32At (nth 0 w 1) 31 0) &&
  f32IsFinite (f32At (nth 0 w 2) 63 32) && flt 0 (f32At (nth 0 w 2) 63 32) && f32IsFinite (f32At (nth 0 w 2) 31 0) &&
  f32IsFinite (f32At (nth 0 w 3) 63 32) && decide (bits (nth 0 w 3) 31 16 ≤ 4096) && bits (nth 0 w 3) 15 0 == 0 &&
  bits (nth 0 w 4) 63 52 == 0 && bits (nth 0 w 4) 2 0 == 0 && ctl 5 && ctl 6 && nth 0 w 7 == 0

/-- A request's profile; none where it cannot be read or breaks its table. -/
def State.profile (s : State) (i : Nat) : Option (List W64) :=
  let x := s.slot i
  match s.rangeRead x.part ((s.rd (pReg x.part 0x58)).toNat + 64 * x.profile) 64 with
  | none => none
  | some b => let w := wordsOf 8 b; if profileOk w then some w else none

def prMode (w : List W64) : Nat := bits (nth 0 w 0) 15 14
def prMask (w : List W64) : Nat := bits (nth 0 w 4) 51 0
/-- The control tokens that a profile allows. -/
def prAllows (w : List W64) (t : Nat) : Bool :=
  [5, 6].any (fun k => (bit (nth 0 w k) 63 && bits (nth 0 w k) 49 32 == t) || (bit (nth 0 w k) 62 && bits (nth 0 w k) 17 0 == t))

def State.sctxAt (s : State) (i : Nat) : Nat := (s.rd (pReg (s.slot i).part 0x60)).toNat + 16 * i

/-- A mask read of the Sampler: none where it draws an error response, POISONED and those of lower tiers included (R253, 06 Table 6.3). -/
def State.maskRead (s : State) (p a n : Nat) : Option (List Byte) :=
  let bad (sp : Nat × Nat) : Bool := match s.xlat p sp.1 with
    | .page e _ _ _ => if entryTier e = 1 then s.spanBad p sp else s.lowerResp e != 0
    | _ => true
  if (pageSpans a n).any bad then none else s.rangeRead p a n
def State.maskRead64 (s : State) (p a : Nat) : Option W64 := (s.maskRead p a 8).map (fun b => w64 (leNat b))

/-- Bitmap address of a state of a state table. -/
def State.maskState (s : State) (p tbl st : Nat) : Option W64 := s.maskRead64 p (tbl + 16 * st)

/-- Find a token in a transition list (fuel: entries left). -/
def State.transition (s : State) (p a t : Nat) : Nat → Option (Option Nat)
  | 0 => some none
  | n + 1 =>
    match s.maskRead64 p a with
    | none => none
    | some e => if bits e 49 32 = t then some (some (bits e 15 0)) else s.transition p (a + 8) t n

/-- The context after a token: state and bitmap address; none where a read draws an error response. -/
def State.nextCtx (s : State) (i t : Nat) (w : List W64) : Option (Nat × Nat) :=
  let p := (s.slot i).part
  match s.maskRead64 p (s.sctxAt i) with
  | none => none
  | some c =>
    match s.maskRead64 p (prMask w + 16 * bits c 15 0 + 8) with
    | none => none
    | some e =>
      match s.transition p (prMask w + 8 * bits e 31 0) t (bits e 47 32) with
      | none => none
      | some r =>
        let st := r.getD (bits e 63 48)
        (s.maskState p (prMask w) st).map (fun b => (st, bits b 51 0))

/-! ### Choosing a token (R254 to R257) -/

/-- A candidate: logit and token. -/
structure Tok where
  l : W32
  t : Nat
deriving DecidableEq, Repr

/-- Whether one logit is below another. -/
def logitBelow (a b : W32) : Bool := flt a b

/-- Whether the mask admits a token; none where its read draws an error response. -/
def State.admitted (s : State) (p mask t : Nat) : Option Bool :=
  if mask = 0 then some true
  else (s.maskRead p (mask + t / 8) 1).map (fun b => bit (nth 0 b 0) (t % 8))

/-- Steps 1 to 4 of R254 on one entry after another; no set on a failed mask read, but what it has counted stands. -/
def State.candSet (s : State) (p mask : Nat) (allow : Nat → Bool) (acc : List Tok) : List W64 → Option (List Tok) × State
  | [] => (some acc, s)
  | e :: r =>
    let t := bits e 17 0
    let l := f32At e 63 32
    if t ≥ s.rf (pReg p 0x28) 18 0 || f32IsNan l then (s.bump (cntPart p 25) 1).candSet p mask allow acc r
    else if l = 0xFF800000#32 then s.candSet p mask allow acc r
    else match s.admitted p mask t with
      | none => (none, s)
      | some false => s.candSet p mask allow acc r
      | some true =>
        if s.ctrlToken p t && !allow t then (s.bump (cntPart p 26) 1).candSet p mask allow acc r
        else
          let acc1 := if acc.any (fun c => c.t == t) then
              acc.map (fun c => if c.t = t && logitBelow c.l l then ⟨l, t⟩ else c)
            else acc ++ [⟨l, t⟩]
          s.candSet p mask allow acc1 r

/-- How often a token stands in the last `win` entries of a request's history. -/
def State.windowCount (s : State) (i win t : Nat) : Nat :=
  let n := (s.slot i).span
  ((List.range (min win n)).filter (fun k => s.histTok i (n - 1 - k) == t)).length

/-- The penalties of R256. -/
def penalise (w : List W64) (c : Nat) (l : W32) : W32 :=
  if c = 0 then l else
  let rep := f32At (nth 0 w 2) 63 32
  let l1 := if flt 0 l then fdiv l rep else fmul l rep
  let l2 := fsub l1 (f32At (nth 0 w 2) 31 0)
  fsub l2 (fmul (f32OfInt c) (f32At (nth 0 w 3) 63 32))

def tokBefore (a b : Tok) : Bool := if f32Key a.l = f32Key b.l then decide (a.t < b.t) else decide (f32Key b.l < f32Key a.l)
def tokInsert (a : Tok) : List Tok → List Tok
  | [] => [a]
  | b :: r => if tokBefore a b then a :: b :: r else b :: tokInsert a r

/-- The first element at which a running FP32 sum meets a bound. -/
def runIdx (ok : W32 → Bool) (acc : W32) (k : Nat) : List W32 → Option Nat
  | [] => none
  | e :: r => let a := fadd acc e; if ok a then some k else runIdx ok a (k + 1) r

/-- u of R257. -/
def drawU (seed : W64) (pos : Nat) : W32 := f32Round (.fin false ((philoxX0 seed pos).toNat / 256) (-24))

/-- The choice among sorted candidates (R256). -/
def chooseTok (w : List W64) (seed : W64) (pos : Nat) (cs : List Tok) : Nat :=
  let cs := cs.take 256
  let temp := f32At (nth 0 w 0) 63 32
  let topk := bits (nth 0 w 0) 31 16
  let topp := f32At (nth 0 w 1) 63 32
  let minp := f32At (nth 0 w 1) 31 0
  let inf := 0x7F800000#32
  let l0 (l : List Tok) : W32 := (nth ⟨0, 0⟩ l 0).l
  let first := (nth ⟨0, 0⟩ cs 0).t
  if feq temp 0 || topk = 1 || l0 cs = inf then first else
  let cs := cs.map (fun c => (⟨fdiv c.l temp, c.t⟩ : Tok))
  if l0 cs = inf then first else
  let cs := if topk > 0 then cs.take topk else cs
  let es := cs.tail.map (fun c => let e := fexp (fsub c.l (l0 cs)); (if f32IsNan e then 0 else e, c.t))
  let all := (0x3F800000#32, first) :: (if flt 0 minp then es.filter (fun e => fle minp e.1) else es)
  let s := ftree (all.map (·.1))
  let kept := if flt 0 topp && flt topp 0x3F800000#32 then
      let limit := fmul topp s
      match runIdx (fun a => fle limit a) 0 0 (all.map (·.1)) with
      | some j => all.take (j + 1)
      | none => all
    else all
  let target := fmul (drawU seed pos) (ftree (kept.map (·.1)))
  match runIdx (fun a => flt target a) 0 0 (kept.map (·.1)) with
  | some k => (nth (0, 0) kept k).2
  | none => (nth (0, 0) kept (kept.length - 1)).2

/-- The entry for a sampled row of a GENERATE request. A token is delivered before the context moves on (R259), so a state table
that cannot be read ends the request with its token (R253). -/
def State.sampleRow (s : State) (p i : Nat) (es : List W64) : JEntry × State :=
  let x := s.slot i
  let pos := x.span
  let ended (st : Nat) : JEntry := ⟨3, i, 0, 0, st, []⟩
  match s.profile i with
  | none => (ended 0x0B, s)
  | some w =>
    let ctx := if prMode w = 0 then some 0 else (s.maskRead64 p (s.sctxAt i + 8)).map (fun c => bits c 51 0)
    match ctx with
    | none => (ended 0x0B, s)
    | some mask =>
      match s.candSet p mask (fun t => x.allowCtrl && prAllows w t) [] es with
      | (none, s1) => (ended 0x0B, s1)
      | (some cs, s1) =>
        let pen := cs.map (fun c => (⟨penalise w (s.windowCount i (bits (nth 0 w 3) 31 16) c.t) c.l, c.t⟩ : Tok))
        let s2 := s1.bump (cntPart p 25) (pen.filter (fun c => f32IsNan c.l)).length
        let left := pen.filter (fun c => !f32IsNan c.l && c.l != 0xFF800000#32)
        if left.isEmpty then (ended 0x03, s2)
        else
          let t := chooseTok w x.w3 pos (left.foldl (fun a c => tokInsert c a) [])
          if prMode w = 2 && (s.nextCtx i t w).isNone then (⟨1, i, pos, t, 0x0B, []⟩, s2)
          else if t = s.rf (pReg p 0x28) 49 32 || x.generated + 1 = x.maxNew then (⟨1, i, pos, t, 0, []⟩, s2)
          else if x.prompt + x.generated + 1 = 131072 then (⟨1, i, pos, t, 0x04, []⟩, s2)
          else (⟨0, i, pos, t, 0, []⟩, s2)

/-! ### PASS results (R258) -/

/-- Element j of a result: the values that records supply for it. -/
def supplied (rs : List CandRec) (j : Nat) : List W32 :=
  (rs.filter (fun r => decide (r.start ≤ j) && decide (j < r.start + r.entries.length))).map (fun r =>
    (nth 0 r.entries (j - r.start)).setWidth 32)

/-- The entry for the last row of a PASS request: a sampled row, so that a profile that breaks Table 11.2 ends the request (R252). -/
def State.passRow (s : State) (p i : Nat) (rs : List CandRec) : JEntry :=
  if (s.profile i).isNone then ⟨3, i, 0, 0, 0x0B, []⟩ else
  let cross := s.modelKind p == some .crossEncoder
  let n := if cross then s.candidates i else s.modelD p
  let vals := (List.range n).map (supplied rs)
  if vals.any (fun v => decide (v.length > 1)) then ⟨3, i, 0, 0, 0x0B, []⟩
  else ⟨2, i, 0, 0, 0, vals.map (fun v => match v with | [] => if cross then 0x7FC00000#32 else 0 | x :: _ => x)⟩

/-! ### The record (17 R374, R379) -/

/-- The entries of a step, row by row. -/
def State.sampleRows (s : State) (p : Nat) (rs : List CandRec) : List Row → Nat → List JEntry × State
  | [], _ => ([], s)
  | r :: l, k =>
    if r.kind = 2 || !r.sample then s.sampleRows p rs l (k + 1)
    else
      let x := s.slot r.idx
      let mine := rs.filter (fun c => c.row == k)
      let e := if !x.active then ((⟨3, r.idx, 0, 0, x.status, []⟩ : JEntry), s)
        else if x.state = 6 then (⟨3, r.idx, 0, 0, if x.ended = 0 then 1 else x.ended - 1, []⟩, s)
        else if x.kind = 0 then s.sampleRow p r.idx (mine.flatMap (·.entries))
        else (s.passRow p r.idx mine, s)
      let rest := e.2.sampleRows p rs l (k + 1)
      (e.1 :: rest.1, rest.2)

/-- A surviving incomplete record of the same step is compared entry by entry; a request whose entries differ retires. -/
def compareRecord (old : Option JRecord) (step : Nat) (l : List JEntry) : List JEntry × Nat :=
  match old with
  | none => (l, 0)
  | some r =>
    if r.step ≠ step then (l, 0) else
    let bad (e : JEntry) : Bool := !r.entries.contains e
    (l.map (fun e => if bad e then ⟨3, e.idx, 0, 0, 0x0D, []⟩ else e), (l.filter bad).length)

/-- SAMPLER_CHOOSE: tokens and results are chosen, and the record goes to the journal (R259 steps 1 and 2). -/
def execSamplerChoose (p : Fin 16) (s : State) : Res :=
  let x := s.part p
  .next (match x.opened with
    | none => s
    | some d =>
      if !s.live || s.stalled || x.st ≠ .running || !x.ended || x.record.isSome then s
      else
        let c := s.sampleRows p x.recs d.rows 0
        let o := c.2.jrnlOf p d.step
        let j := compareRecord o.1 d.step c.1
        let r : JRecord := ⟨d.step, d.check, j.1⟩
        ((o.2.bump (cntBlk 9) j.2).jrnlWrite p r).onPart p (fun y => { y with record := some r }))

/-! ### Output rings (R260, 15 R344) -/

/-- Write entries at a ring's tail; the tail word follows when the commit has written all of its entries. -/
def State.ringPut (s : State) (t r : Nat) (ws : List W64) : State :=
  let o := s.ring t r
  let size := s.ringSize t r
  let base := (s.rd (ringReg t r 0)).toNat
  let at_ := o.tail.toNat % size
  let n := ws.length / 2
  let k := min n (size - at_)
  let s1 := s.hostWrite t (base + 16 * at_) (bytesOf (ws.take (2 * k)))
  let s2 := if k < n then s1.hostWrite t base (bytesOf (ws.drop (2 * k))) else s1
  s2.setRing t r { o with tail := o.tail + w64 n, reserved := o.reserved - n }
def State.ringTail (s : State) (t r : Nat) : State :=
  let c := s.rd (ringReg t r 8)
  let s1 := s.hostWrite t (s.rd (ringReg t r 0x10)).toNat (leBytes 8 (s.ring t r).tail.toNat)
  if bit c 20 then s1.vecEvent t (bits c 19 16) else s1

/-- Four FP32 elements to a data entry. -/
def vecEntries : Nat → List W32 → List W64
  | 0, _ => []
  | k + 1, l =>
    let g (j : Nat) : Nat := (nth (0 : W32) l j).toNat
    w64 (g 0 + g 1 * 2 ^ 32) :: w64 (g 2 + g 3 * 2 ^ 32) :: vecEntries k (l.drop 4)

/-- The ring entries of a result (Table 11.3). -/
def State.resultWords (s : State) (p : Nat) (e : JEntry) : List W64 :=
  if e.outcome < 2 then [w64 (2 ^ 60 + e.idx * 2 ^ 45 + e.pos * 2 ^ 28 + e.tok), s.time]
  else if s.modelKind p = some .crossEncoder then
    (List.range e.payload.length).flatMap (fun j =>
      [w64 (3 * 2 ^ 60 + e.idx * 2 ^ 45 + j * 2 ^ 32 + (nth 0 e.payload j).toNat), s.time])
  else [w64 (2 * 2 ^ 60 + e.idx * 2 ^ 45 + e.payload.length), s.time] ++ vecEntries (ceilDiv e.payload.length 4) e.payload

/-! ### The commit (R259, 09 Table 9.3, R216, R220, 10 R236, R241 to R244) -/

/-- Whether an entry's request still takes its result. -/
def State.takes (s : State) (e : JEntry) : Bool :=
  (s.slot e.idx).active && (s.slot e.idx).state != 6 && decide (e.outcome < 3)

/-- Blocks of prompt tokens that this step completed enter the prefix index (fuel: blocks). -/
def State.insertBlocks (s : State) (i upto : Nat) : Nat → State
  | 0 => s
  | n + 1 =>
    let x := s.slot i
    let k := x.chainKeys.length
    if !x.chainOn || 64 * (k + 1) > x.prompt || 64 * (k + 1) > upto || k ≥ x.pages then s
    else
      let key := s.nextKey i
      let a := blockAddr (s.blockEntry i k)
      let r := s.pfxInsert x.part key a
      let s1 := if r.1 then r.2.setBlockEntry i k (mkBlock true a 64) else r.2
      (s1.onSlot i (fun y => { y with chainKeys := y.chainKeys ++ [key] })).insertBlocks i upto n

/-- A built or building descriptor changes. -/
def State.onBuilt (s : State) (p : Nat) (f : State → Desc → State × Desc) : State :=
  match (s.part p).build with
  | .idle => s
  | .building d => let r := f s d; r.1.onPart p (fun x => { x with build := .building r.2 })
  | .built d => let r := f s d; (r.1.onPart p (fun x => { x with build := .built r.2 })).writeDesc p r.2

/-- A token reaches the next descriptor's decode row (R236). -/
def Desc.setTok (d : Desc) (i t : Nat) : Desc :=
  { d with rows := d.rows.map (fun r => if r.idx == i && r.kind == 0 then { r with tok := t } else r) }

/-- The Sampler context after a committed token (R253). -/
def State.stepCtx (s : State) (i t : Nat) : State :=
  match s.profile i with
  | some w =>
    if prMode w ≠ 2 then s else
    match s.nextCtx i t w with
    | some (st, b) => s.rangeWrite (s.slot i).part (s.sctxAt i) (bytesOf [w64 st, w64 b])
    | none => s
  | none => s

/-- A token is applied: history, Generated count, word 6, next descriptor, context, the between-token check. -/
def State.applyToken (s : State) (i t : Nat) : State :=
  let x := s.slot i
  let again := decide (x.generated ≥ 1) && !x.fresh
  let isLate := x.target != 0 && decide (s.time.toNat - x.w6.toNat > 1000 * x.target)
  let s1 := s.histPut i x.span (BitVec.ofNat 32 (3 * 2 ^ 18 + t))
  let s2 := (s1.stepCtx i t).onSlot i (fun y =>
    { (if y.state = 2 then y.setState 3 else y) with
      w1 := setBits y.w1 46 30 (y.generated + 1), w6 := s.time, fresh := false,
      next := max y.next (y.span + 1), late := if again then isLate else y.late })
  let s3 := if again && isLate then s2.miss i false else s2
  (if again then s3.histEvent 13 x.part ((s.time.toNat - x.w6.toNat) / 1000) else s3).onBuilt x.part (fun s d => (s, d.setTok i t))

/-- Scores go into the candidate entries of the request's buffer (R258). -/
def State.writeScores (s : State) (i : Nat) (l : List W32) : State :=
  match s.packSeg i with
  | none => s
  | some g => s.forEach (List.range l.length) (fun j s => s.hbmWrite64 (g.at_ + 72 + 16 * j) ((nth 0 l j).setWidth 64))

/-- One entry of a complete record is applied (R259 steps 4 and 5). -/
def State.applyEntry (s : State) (p : Nat) (e : JEntry) : State :=
  let x := s.slot e.idx
  if !x.active then s
  else if x.state = 6 then s.retire e.idx (if x.ended = 0 then 1 else x.ended - 1) 0
  else match e.outcome with
    | 0 => s.applyToken e.idx e.tok
    | 1 => (s.applyToken e.idx e.tok).retire e.idx e.status 0
    | 2 => (if s.modelKind p = some .crossEncoder then s.writeScores e.idx e.payload else s).retire e.idx 0 0
    | _ =>
      let s1 := if e.status = 3 then (s.bump (cntTen x.tenant 30) 1).bump (cntPart p 27) 1 else s
      s1.retire e.idx e.status 0

/-- CANCELLING requests of the step that have no sampled row retire at its commit as well. -/
def State.endCancelled (s : State) (d : Desc) : State :=
  s.forEach d.requests (fun i s =>
    let x := s.slot i
    if x.state = 6 then s.retire i (if x.ended = 0 then 1 else x.ended - 1) 0 else s)

/-- What a sampled row had reserved of its ring and did not use returns at its commit. -/
def State.giveBack (s : State) (l : List JEntry) : State :=
  s.forEach l (fun e s =>
    let x := s.slot e.idx
    let n := min x.reserved (s.ringNeed e.idx)
    let o := s.ring x.tenant x.ring
    let s1 := if s.takes e then s else s.setRing x.tenant x.ring { o with reserved := o.reserved - n }
    s1.onSlot e.idx (fun x => { x with reserved := x.reserved - n }))

/-- Write-back of a complete record and the commit of its step. -/
def State.commit (s : State) (p : Nat) (d : Desc) (r : JRecord) : State :=
  let s0 := s.firstMisses p
  let writes := r.entries.filter s0.takes
  let s1 := s0.giveBack r.entries
  let s2 := s1.forEach writes (fun e s => let x := s.slot e.idx; s.ringPut x.tenant x.ring (s.resultWords p e))
  let rings := (writes.map (fun e => ((s0.slot e.idx).tenant, (s0.slot e.idx).ring))).eraseDups
  let s3 := s2.forEach rings (fun k s => s.ringTail k.1 k.2)
  let s4 := s3.forEach d.requests (fun i s =>
    let top := (d.rows.filter (fun x => x.idx == i && x.kind == 1)).foldl (fun m x => max m (x.pos + 1)) 0
    if (s.slot i).active then s.insertBlocks i top 2048 else s)
  let s5 := s4.forEach r.entries (fun e s => s.applyEntry p e)
  let s6 := (s5.endCancelled d).onBuilt p (fun s b => s.voidLeft b)
  let wait := match (s6.part p).build with | .building _ => 1 | _ => 0
  let s7 := ((s6.bump (cntPart p 1) wait).refBlocks p d false).onPart p (fun y => { y with
    opened := none, ended := false, recs := [], recEntries := 0, recBytes := 0, record := none, tries := 0 })
  (s7.freeLater p).histEvent 12 p ((s.time.toNat - (s.part p).boundary.toNat) / 1000)

/-- JOURNAL_COMPLETE: both copies of the record are written (17 R375). -/
def execJournalComplete (p : Fin 16) (s : State) : Res :=
  let x := s.part p
  .next (match x.opened, x.record with
    | some d, some r =>
      if s.live && !s.stalled && x.st = .running && r.step = d.step then (s.commit p d r).boundaryRods p else s
    | _, _ => s)

end Sys2Proof.Machine
end

