-- ==== Sys2Proof/Machine/Submit.lean ====
section
/-! DEFINITION. Admission (15_host_attach.md R340, R341; 09_slate.md R204, R207, R213, R220; 11 R253) and the commands that name a
request (09 R204, R217, R219). -/

namespace Sys2Proof.Machine

/-! ### Checks of a SUBMIT -/

/-- The fields of Table 15.7 that R5 and Table 9.1 bound: reserved fields zero, a defined kind, Max new tokens of the kind. -/
def SubEntry.submitOk (e : SubEntry) : Bool :=
  let kind := bits (e.word 1) 59 56
  let new := bits (e.word 2) 29 13
  e.clean 6 true && bits (e.word 1) 63 60 == 0 && bits (e.word 1) 51 46 == 0 && bits (e.word 2) 63 30 == 0 &&
    bits (e.word 4) 15 0 == 0 && decide (kind ≤ 1) && (if kind = 0 then decide (1 ≤ new) else new == 0)

/-- Slate indices of the requests further down an entry's successor chain, all admitted in its batch (fuel: entries). -/
def chainBelow (b : List SubEntry) (e : SubEntry) : Nat → List Nat
  | 0 => []
  | n + 1 =>
    match refTarget b e with
    | none => []
    | some u => (match u.res with | some (some k) => [k] | _ => []) ++ chainBelow b u n

/-- Ring entries of one complete result of a kind; a score list's length is its own, so one candidate counts (R340, R345). -/
def State.resultSize (s : State) (p kind : Nat) : Nat :=
  if kind = 0 || s.modelKind p == some .crossEncoder then 1 else 1 + ceilDiv (s.modelD p) 4

/-- The checks of R340 but R341's. -/
def State.admissible (s : State) (t : Nat) (b : List SubEntry) (e : SubEntry) : Bool :=
  let w := e.word 1
  let p := bits w 55 52
  let buf := bits (e.word 5) 15 0
  let ring := bits (e.word 5) 63 48
  let st := (s.part p).st
  let kind := bits w 59 56
  e.submitOk && (decide (st = .loading) || decide (st = .running)) && s.rf (pReg p 0x10) 0 0 == kind &&
  decide (s.rf (hReg t 0x28) 2 0 ≤ bits w 45 43) &&
  decide (s.rf (hReg t 0x30) 15 0 ≤ bits w 15 0) && decide (bits w 15 0 ≤ s.rf (hReg t 0x38) 15 0) &&
  decide (buf < s.rf (hReg t 0x20) 16 0) &&
  (s.bufState t buf == 0 || s.bufState t buf == 2 ||
    (s.namersOf t buf).all (fun k => (chainBelow b e b.length).contains k)) &&
  decide (ring < 1024) && s.ringOn t ring && decide (s.resultSize p kind ≤ s.ringSize t ring)

/-- The named successor is still the request that was admitted for the entry: QUEUED, of the tenant, waiting for this predecessor, with the
admission time it got (R207). -/
def State.succOk (s : State) (t : Nat) (b : List SubEntry) (e : SubEntry) : Bool :=
  match refTarget b e with
  | none => true
  | some u =>
    match u.res with
    | some (some k) => (s.slot k).state == 1 && (s.slot k).tenant == t && (s.slot k).waitPred && (s.slot k).w5 == u.time
    | _ => false

/-- Whether a pending SUBMIT of the batch names an entry by a good reference. -/
def awaited (b : List SubEntry) (u : SubEntry) : Bool :=
  b.any (fun x => x.pending && x.isSubmit && x.index != u.index && !chainBad b x (b.length + 1) &&
    (match refTarget b x with | some y => y.index == u.index | none => false))

/-! ### Admission -/

/-- The Slate index that a SUBMIT's successor field becomes. -/
def succIndex (b : List SubEntry) (e : SubEntry) : Nat :=
  match refTarget b e with
  | some u => (match u.res with | some (some k) => k | _ => 0xFFFF)
  | none => 0xFFFF

/-- The page of the page list is mapped, pinned and writable, the first time the entry is admitted into the partition (R213); none
where no frame can be had. -/
def State.mapPlist (s : State) (p i : Nat) : Option State :=
  if (s.part p).plistMapped.contains i then some s else
  let r := s.tierMap p ((s.rd (pReg p 0x2B8)).toNat + 65536 * i) false 0 true true
  if r.1 = 3 then none else some (r.2.onPart p (fun x => { x with plistMapped := x.plistMapped ++ [i] }))

/-- Word 1 of the Sampler context at admission; none where a mask read draws an error response (R253). -/
def State.firstCtx (s : State) (i : Nat) : Option W64 :=
  let p := (s.slot i).part
  match s.profile i with
  | none => some 0
  | some w => if prMode w = 0 then some 0 else if prMode w = 1 then some (w64 (prMask w))
      else (s.maskState p (prMask w) 0).map (fun v => w64 (bits v 51 0))

/-- The entry that admission writes (R204, Table 9.2). -/
def State.newSlot (s : State) (t q i : Nat) (b : List SubEntry) (e : SubEntry) : Slot :=
  let w := e.word 1
  let p := bits w 55 52
  let buf := bits (e.word 5) 15 0
  { Slot.init with
    w0 := setBits (setBits w 63 60 1) 51 46 t
    w1 := e.word 2
    w2 := w64 (((s.rd (pReg p 0x2B8)).toNat + 65536 * i) / 65536 % 2 ^ 36 * 2 ^ 28)
    w3 := e.word 3
    w4 := e.word 4
    w5 := s.time
    w7 := setBits (e.word 5) 47 32 (succIndex b e)
    waitPred := awaited b e
    inputOpen := decide (s.bufState t buf ≤ 1)
    queue := q
    cmd := e.id }

/-- Admission into Slate entry i: the words, the side bits, the buffer's state, the Sampler context, the ADMITTED completion. A request whose
first mask cannot be read ends with INVALID_DESCRIPTOR at its partition's boundary (R253). -/
def State.takeIn (s : State) (t q i : Nat) (b : List SubEntry) (e : SubEntry) : State :=
  let x := s.newSlot t q i b e
  let buf := x.buffer
  let s1 := s.setSlot i x
  let s2 := match s.bufState t buf with | 0 => s1.setBuf t buf 1 | 2 => s1.setBuf t buf 3 | _ => s1
  let s3 := s2.rangeWrite x.part (s2.sctxAt i) (bytesOf [0, (s2.firstCtx i).getD 0])
  let s3 := if (s2.firstCtx i).isNone then s3.endLater i 0x0B else s3
  (s3.complete t q (s3.mkCompletion 1 0 q e.id (some i) 0 true)).entryDone t q e.index (some i)

/-- A refused SUBMIT completes with INVALID_DESCRIPTOR; a successor that it alone named waits for no predecessor. -/
def State.refuseSubmit (s : State) (t q : Nat) (b : List SubEntry) (e : SubEntry) : State :=
  let s1 := match refTarget b e with
    | some u => (match u.res with
      | some (some k) => if namedBefore e u b || (s.slot k).w5 != u.time then s else s.onSlot k (fun x => { x with waitPred := false })
      | _ => s)
    | none => s
  (s1.complete t q (s1.mkCompletion 0 0x0B q e.id none 0 true)).entryDone t q e.index none

/-- An entry that cannot be admitted yet stays, and is counted once (R220). -/
def State.holdBack (s : State) (t q : Nat) (e : SubEntry) : State :=
  if e.full then s else
  let x := s.sq t q
  match x.batches with
  | [] => s
  | b :: l => (s.setSq t q { x with
      batches := b.map (fun y => if y.index = e.index then { y with full := true } else y) :: l }).bump (cntTen t 11) 1

/-- Whether the Slate has no FREE entry, or the tenant holds its quota (R220). -/
def State.slateFull (s : State) (t : Nat) : Bool :=
  decide (s.entries.length ≥ 32768) || decide (s.rf (0x90100 + 8 * t) 15 0 ≤ (s.entriesOfTenant t).length)

/-- SUBMIT: Penub admits the entry into the FREE Slate entry it takes, holds it back, or refuses it. -/
def execSubmit (t : Fin 64) (q : Fin 8) (i : Nat) (e : Fin 32768) (s : State) : Res :=
  .next (match s.takeEntry t q i 1 with
    | none => s
    | some (u, b) =>
      if chainBad b u (b.length + 1) || !s.admissible t b u || !s.succOk t b u then s.refuseSubmit t q b u
      else if s.slateFull t then s.holdBack t q u
      else if (s.slot e).state ≠ 0 then s
      else match s.mapPlist (bits (u.word 1) 55 52) e with
        | none => s.holdBack t q u
        | some s1 => s1.takeIn t q e b u)

/-! ### Commands that name a request -/

/-- The Slate index a command names. -/
def SubEntry.names (e : SubEntry) : Nat := bits (e.word 1) 14 0

/-- Whether a command names a request of the tenant: its admission time is the entry's, and the entry is the tenant's (R204, R339). -/
def State.namesOwn (s : State) (t : Nat) (e : SubEntry) : Bool :=
  let x := s.slot e.names
  x.state != 0 && x.tenant == t && x.w5 == e.word 2

/-- PAUSE, PARK and RESUME: INVALID_DESCRIPTOR on a breach of R5 or a request that is not named right, otherwise R217. -/
def State.ctlEntry (s : State) (t q i op frm : Nat) : State :=
  s.withEntry t q i op (fun e s =>
    let ttl := if op = 3 then bits (e.word 3) 15 0 else 0
    if !e.clean frm false || bits (e.word 1) 63 15 ≠ 0 || (op = 3 && bits (e.word 3) 63 16 ≠ 0) || !s.namesOwn t e then
      s.entryEnds t q e 0x0B
    else (s.ctlReach e.names ⟨op, ttl, t, q, e.id⟩).entryDone t q e.index none)

def execPause (t : Fin 64) (q : Fin 8) (i : Nat) (s : State) : Res := .next (s.ctlEntry t q i 2 3)
def execPark (t : Fin 64) (q : Fin 8) (i : Nat) (s : State) : Res := .next (s.ctlEntry t q i 3 4)
def execResume (t : Fin 64) (q : Fin 8) (i : Nat) (s : State) : Res := .next (s.ctlEntry t q i 4 3)

/-- CANCEL (R219): the command completes OK wherever the request stands. -/
def execCancel (t : Fin 64) (q : Fin 8) (i : Nat) (s : State) : Res :=
  .next (s.withEntry t q i 5 (fun e s =>
    if !e.clean 3 false || bits (e.word 1) 63 15 ≠ 0 || !s.namesOwn t e then s.entryEnds t q e 0x0B
    else ((s.cancel e.names).commandDone t q e.id 0 (some e.names)).entryDone t q e.index none))

end Sys2Proof.Machine
end

