-- ==== Sys2Proof/Machine/HostQueue.lean ====
section
/-! DEFINITION. A tenant's own side of the block (15_host_attach.md R336 to R348, 21 R460): what a write of each register of its page
does, fetching of submission entries, completions, vectors, tenant reset. -/

namespace Sys2Proof.Machine

def State.attached (s : State) (t : Nat) : Bool := decide ((s.ten t).st = .attached)
/-- The host attach port works: the block serves and cx_present is high (19 R415). -/
def State.hapUp (s : State) : Bool := s.live && s.pwr.present
def State.inErr (s : State) (t : Nat) : State := s.bump (cntTen t 0) 1

/-! ### Submission queues (R337, R338, R343) -/

def State.sqError (s : State) (t q : Nat) : Bool := bit (s.rd (sqReg t q 0x18)) 16
def State.setSqError (s : State) (t q : Nat) : State := s.setRf (sqReg t q 0x18) 16 16 1

/-- Entries of a list before the first that is pending. -/
def leadingDone : List SubEntry → Nat
  | [] => 0
  | e :: r => if e.pending then 0 else leadingDone r + 1

/-- The running head: the next entry to fetch. An entry that is read but not taken has not been passed (R340). -/
def State.sqHead (s : State) (t q : Nat) : Nat :=
  let x := s.sq t q
  x.base + (match x.batches with | b :: _ => leadingDone b | [] => 0)

/-- Places of a completion queue come back. -/
def State.unplace (s : State) (t cq n : Nat) : State :=
  let x := s.cq t cq
  s.setCq t cq { x with reserved := x.reserved - n }

/-- What has been read of the batch under fetch becomes a batch. -/
def State.closeBatch (s : State) (t q : Nat) : State :=
  let x := s.sq t q
  if x.cur.isEmpty then s else (s.setSq t q { x with cur := [], batches := x.batches ++ [x.cur] }).settleQ t q

/-- A queue's entries that nothing has taken are abandoned: their places return, and a successor that only an abandoned entry names
waits for no predecessor. -/
def State.abandonSq (s : State) (t q : Nat) : State :=
  let x := s.sq t q
  let l := x.batches.flatMap id ++ x.cur
  let mine := (s.reads.filter (fun r => r.tenant == t && r.q == q && r.epoch == x.epoch)).foldl (fun n r => n + r.count) 0
  let wait := ((s.chan (s.home t)).reads.filter (fun r => r.tenant == t && r.q == q && r.epoch == x.epoch)).foldl
    (fun n r => n + r.count) 0
  let s1 := s.forEach x.batches (fun b s => s.forEach (b.filter (fun e => e.pending && e.isSubmit && !chainBad b e (b.length + 1)))
    (fun e s => match refTarget b e with
      | some u => (match u.res with | some (some k) => s.onSlot k (fun y => { y with waitPred := false }) | _ => s)
      | none => s))
  let s2 := s1.unplace t (s.cqOf t q) ((l.filter (·.pending)).length + mine + wait)
  let c := s2.home t
  let s3 := s2.setChan c { s2.chan c with
    reads := (s2.chan c).reads.filter (fun r => !(r.tenant == t && r.q == q && r.epoch == x.epoch)) }
  s3.setSq t q { SubQueue.init with epoch := x.epoch + 1 }

/-- A queue goes into ERROR: it fetches nothing more; what it has read stands (R338). -/
def State.sqFail (s : State) (t q : Nat) : State :=
  let s1 := s.setSqError t q
  if (s1.sq t q).reading then s1 else s1.closeBatch t q

/-- A write of TEN_SQ_TAIL (R338). -/
def State.ringDoorbell (s : State) (t q v : Nat) : State :=
  let x := s.sq t q
  let size := s.sqSize t q
  if s.sqError t q then s
  else if !s.sqOn t q then s.setReg (sqReg t q 0x10) (w64 v)
  else if v ≥ size then s.sqFail t q
  else
    let d := (v + size - x.tail % size) % size
    if d = 0 then s
    else if x.tail - s.sqHead t q + d ≥ size then s.sqFail t q
    else (s.setSq t q { x with tail := x.tail + d, ends := x.ends ++ [x.tail + d] }).setReg (sqReg t q 0x10) (w64 v)

/-- A write of TEN_SQ_CFG (R337). -/
def State.cfgSq (s : State) (t q : Nat) (v : W64) : State :=
  let v := v &&& 0x71F01#64
  let off := sqReg t q 8
  if s.sqOn t q then
    (if v = setBits (s.rd off) 0 0 0 then (s.abandonSq t q).setReg off v else s.inErr t)
  else if bits v 12 8 < 4 || bits v 12 8 > 16 then s
  else if bit v 0 && !s.cqOn t (bits v 18 16) then s.inErr t
  else if bit v 0 then ((s.setSq t q { SubQueue.init with epoch := (s.sq t q).epoch + 1 }).setReg (sqReg t q 0x10) 0).setReg off v
  else s.setReg off v

/-- How many entries the next READ fetches: of one batch, not past the queue's end or a 4 KiB boundary, with room for each. -/
def State.fetchCount (s : State) (t q : Nat) : Nat :=
  let x := s.sq t q
  match x.ends with
  | [] => 0
  | e :: _ => min (min (e - x.rd) (64 - x.rd % 64)) (min (s.sqSize t q - x.rd % s.sqSize t q) (s.cqFree t (s.cqOf t q)))

/-- SQ_FETCH: a READ of the next entries waits to leave; their places are reserved. Where there is no room and part of a batch has been
read, that part is taken first. -/
def execSqFetch (t : Fin 64) (q : Fin 8) (s : State) : Res :=
  let x := s.sq t q
  let n := s.fetchCount t q
  .next (if !s.hapUp || s.halted || !s.attached t || !s.sqOn t q || s.sqError t q || x.reading || x.ends.isEmpty then s
    else if n = 0 then s.closeBatch t q
    else
      let cq := s.cqOf t q
      let c := s.cq t cq
      let h := s.home t
      let off := (s.rd (sqReg t q 0)).toNat + 64 * (x.rd % s.sqSize t q)
      let s1 := s.setCq t cq { c with reserved := c.reserved + n }
      let s2 := s1.setSq t q { x with reading := true, rd := x.rd + n }
      s2.setChan h { s2.chan h with reads := (s2.chan h).reads ++ [⟨0, h, t, off, 64 * n, [], q, x.rd, n, x.epoch, none⟩] })

/-- The entries of a READ's data. -/
def fetchedEntries (size first : Nat) (data : List Byte) (n : Nat) : List SubEntry :=
  (List.range n).map (fun k => ⟨(first + k) % size, wordsOf 8 (data.drop (64 * k)), none, 0, false⟩)

/-- A fetch ends with its data; a whole batch becomes ready to be taken. -/
def State.fetched (s : State) (r : OutRead) : State :=
  let x := s.sq r.tenant r.q
  if x.epoch ≠ r.epoch then s else
  let es := fetchedEntries (s.sqSize r.tenant r.q) r.first r.got r.count
  let whole := x.ends.headD 0 == x.rd
  let s1 := s.setSq r.tenant r.q { x with cur := x.cur ++ es, reading := false, ends := if whole then x.ends.drop 1 else x.ends }
  if whole || s.sqError r.tenant r.q then s1.closeBatch r.tenant r.q else s1

/-- A fetch ends with an error response: its places return, and the queue fetches nothing more. -/
def State.fetchFailed (s : State) (r : OutRead) : State :=
  let x := s.sq r.tenant r.q
  if x.epoch ≠ r.epoch then s
  else ((s.unplace r.tenant (s.cqOf r.tenant r.q) r.count).setSq r.tenant r.q { x with reading := false }).sqFail r.tenant r.q

/-! ### Completion queues (R342, R343) -/

/-- A completion entry as it is written (Table 15.8). -/
def Completion.words (c : Completion) (phase : Bool) (now : W64) : List W64 :=
  [w64 (b2n phase * 2 ^ 63 + c.status % 256 * 2 ^ 48 + c.cmd % 65536 * 2 ^ 32 + c.kind % 16 * 2 ^ 28 + c.queue % 8 * 2 ^ 25 +
      c.idx % 32768),
   c.time, w64 (c.gen % 2 ^ 17 * 2 ^ 47 + c.prompt % 2 ^ 17 * 2 ^ 30 + c.resp % 16 * 2 ^ 26 + c.misses % 65536), now]

/-- The first waiting completion that can be posted: one with a place reserved, or any where the queue has room. -/
def State.postable (s : State) (t q : Nat) : Option Completion :=
  (s.cq t q).waiting.find? (fun c => c.resv || decide (0 < s.cqFree t q))

/-- CQ_POST: one completion entry is written in ring order. -/
def execCqPost (t : Fin 64) (q : Fin 8) (s : State) : Res :=
  .next (match s.postable t q with
    | none => s
    | some c =>
      if !s.hapUp || !s.attached t || !s.cqOn t q then s else
      let x := s.cq t q
      let size := s.cqSize t q
      let s1 := s.hostWrite t ((s.rd (cqReg t q 0)).toNat + 32 * (x.wr % size))
        (bytesOf (c.words (x.wr / size % 2 == 0) s.time))
      let s2 := s1.setCq t q { x with
        wr := x.wr + 1, waiting := x.waiting.erase c, reserved := if c.resv then x.reserved - 1 else x.reserved }
      let s3 := if bit (s.rd (cqReg t q 8)) 20 then s2.vecEvent t (s.rf (cqReg t q 8) 19 16) else s2
      if c.kind = 0 && (s.slot c.idx).state == 7 && (s.slot c.idx).w5 == c.time then
        s3.onSlot c.idx (fun y => { y with posted := true })
      else s3)

/-- A write of TEN_CQ_HEAD: entries up to the new head index return. -/
def State.returnCq (s : State) (t q v : Nat) : State :=
  let x := s.cq t q
  let size := s.cqSize t q
  let d := (v + size - x.head % size) % size
  if !s.cqOn t q || v ≥ size || x.head + d > x.wr then s
  else (s.setCq t q { x with head := x.head + d }).setReg (cqReg t q 0x10) (w64 v)

/-- Whether an enabled submission queue names a completion queue, or a request of one of its queues lacks its FINAL (R337). -/
def State.cqNeeded (s : State) (t q : Nat) : Bool :=
  (List.range 8).any (fun k => s.sqOn t k && s.cqOf t k == q) ||
    (s.entriesOfTenant t).any (fun i => s.cqOf t (s.slot i).queue == q && !(s.slot i).posted)

/-- A write of TEN_CQ_CFG (R337). -/
def State.cfgCq (s : State) (t q : Nat) (v : W64) : State :=
  let v := v &&& 0x1F1F01#64
  let off := cqReg t q 8
  if s.cqOn t q then
    (if v = setBits (s.rd off) 0 0 0 && !s.cqNeeded t q then s.setReg off v else s.inErr t)
  else if bits v 12 8 < 4 || bits v 12 8 > 16 then s
  else if bit v 0 then ((s.setCq t q { s.cq t q with wr := 0, head := 0 }).setReg (cqReg t q 0x10) 0).setReg off v
  else s.setReg off v

/-! ### Output rings (R344, R460) -/

/-- A write of TEN_ORING_CFG. -/
def State.cfgRing (s : State) (t r : Nat) (v : W64) : State :=
  let v := v &&& 0x1F1F01#64
  let off := ringReg t r 8
  if s.ringOn t r then
    (if v = setBits (s.rd off) 0 0 0 && !(s.entriesOfTenant t).any (fun i => (s.slot i).ring == r) then s.setReg off v
     else s.inErr t)
  else if bits v 12 8 < 8 || bits v 12 8 > 20 then s
  else if bit v 0 then ((s.setRing t r OutRing.init).setReg (ringReg t r 0x18) 0).setReg off v
  else s.setReg off v

/-- A write of TEN_ORING_HEAD: a count above the tail, or more than the size below it, is ignored and counted. -/
def State.returnRing (s : State) (t r : Nat) (v : W64) : State :=
  let tail := (s.ring t r).tail
  if v.toNat ≤ tail.toNat && decide (tail.toNat - v.toNat ≤ s.ringSize t r) then s.setReg (ringReg t r 0x18) v else s.inErr t

/-! ### Input buffers (R336) -/

/-- A write of TEN_IN_DONE. -/
def State.bufDone (s : State) (t b : Nat) : State :=
  if s.bufState t b = 0 && decide (b < s.rf (hReg t 0x20) 16 0) then s.setBuf t b 2
  else if s.bufState t b = 1 then
    (s.setBuf t b 3).forEach (s.namersOf t b) (fun i s => s.onSlot i (fun x => { x with inputOpen := false }))
  else s.inErr t

/-- A write of TEN_IN_FREE. -/
def State.bufFree (s : State) (t b : Nat) : State := if s.bufState t b = 2 then s.setBuf t b 0 else s.inErr t

/-! ### Vectors (R346) -/

def State.vec (s : State) (t v : Nat) : Vec := Sparse.get Vec.init (s.ten t).vecs v

/-- VECTOR_FIRE: unmasked, and at the count or the age of its configuration: INTR leaves after the writes before it. -/
def execVectorFire (t : Fin 64) (vec : Fin 16) (s : State) : Res :=
  let e := s.vec t vec
  let cfg := s.rd (tReg t (0x300 + 8 * vec))
  let due := decide (e.pending ≥ bits cfg 7 0) || decide (e.oldest.toNat + 1000 * bits cfg 31 16 ≤ s.time.toNat)
  .next (if s.hapUp && s.attached t && decide (0 < e.pending) && due && !bit (s.rd (tReg t 0x380)) vec then
      (s.postMsg t ⟨mkHdr 3 t 0 0 0 0 vec 0, []⟩).onTen t (fun x => { x with vecs := Sparse.put Vec.init x.vecs vec Vec.init })
    else s)

/-! ### Tenant reset (R347, R348) -/

/-- A tenant reset starts: queues stop, requests retire at once or at their step's commit, completions are discarded. -/
def State.tenResetStart (s : State) (t : Nat) (byDetach : Bool) : State :=
  let s1 := s.forEach (List.range 8) (fun q s => s.abandonSq t q)
  let s2 := ((s1.forEach (List.range 8) (fun q s => s.setCq t q { s.cq t q with waiting := [], reserved := 0 })).onTen t (fun x => { x with
    st := .resetting, endDetached := byDetach, attachAfter := false, byDetach := byDetach,
    adapters := x.adapters.map (fun a => { a with silent := true }) })).setReg (tReg t 0x10) 1
  s2.forEach (s2.entriesOfTenant t) (fun i s =>
    if (s.slot i).state = 7 then s.onSlot i (fun x => { x with posted := true })
    else if s.inLaunched i then s.onSlot i (fun x => { x.setState 6 with ended := 10 })
    else (s.unreserve i).retire i 9 0)

/-- A write of TEN_RESET. -/
def State.tenResetWrite (s : State) (t : Nat) (v : W64) : State :=
  if bit v 0 && s.attached t then s.tenResetStart t false else s

/-- Whether a rod's outstanding operation goes to a tenant's window. -/
def RemOp.toWindow (o : RemOp) (t : Nat) : Bool := o.addr / 2 ^ 53 % 8 == 3 && o.addr / 2 ^ 47 % 64 == t && o.kind != .suppressed

/-- Every outbound access of the tenant has ended, and every entry of it has left its steps (R347 steps 2 and 4). -/
def State.tenDrained (s : State) (t : Nat) : Bool :=
  !s.reads.any (fun r => r.tenant == t) &&
    (List.range 4).all (fun c => (s.chan c).posted.all (fun m => bits (nth 0 m.hdr 0) 59 54 != t) &&
      (s.chan c).reads.all (fun r => r.tenant != t)) &&
    s.rods.all (fun r => !r.2.rem.any (fun o => o.toWindow t)) && (s.entriesOfTenant t).all (fun i => (s.slot i).state == 7)

/-- Whether a partition has a model page in a tenant's window. -/
def State.modelIn (s : State) (p t : Nat) : Bool :=
  decide ((s.part p).st ≠ .off) && (s.part p).load.staged.any (fun b =>
    match s.xlat p b with | .page e _ _ _ => entryTier e == 3 && bits e 55 50 == t | _ => false)

/-- A reset of a partition that a DETACH causes: it stays LOADING with no model (R347 step 5). -/
def State.loseModel (s : State) (p : Nat) : State :=
  let s1 := s.clearPart p 0x0A 0
  let s2 := s1.unmapPages p (s1.part p).load.staged
  ((s2.onPart p (fun x => { x with st := .loading, owned := true, load := Load.init, refetch := none, refetchNext := [] })).loadStatus p 0 0 0).measurePart p

/-- An ATTACH reaches a tenant (R333, R348). -/
def State.attachTen (s : State) (t : Nat) : State :=
  match (s.ten t).st with
  | .detached => s.onTen t (fun x => { x with st := .attached })
  | .attached => ((s.tenResetStart t false).bump (cntTen t 5) 1).event 10
  | .resetting => s.onTen t (fun x => { x with attachAfter := true })

/-- A DETACH or RESET reaches a tenant. -/
def State.detachTen (s : State) (t : Nat) : State :=
  match (s.ten t).st with
  | .detached => s
  | .attached => s.tenResetStart t true
  | .resetting => s.onTen t (fun x => { x with endDetached := true })

def State.resetTen (s : State) (t : Nat) : State := if s.attached t then s.tenResetStart t false else s

/-- Every register of a tenant page back at its reset value but CNT_HAP_ATTACH; the settings of Table 15.5 lie elsewhere. -/
def State.clearPage (s : State) (t : Nat) : State :=
  let n := s.rd (cntTen t 5)
  ({ s with regs := Sparse.clear s.regs (tReg t 0) (tReg t 0x10000) }).setReg (cntTen t 5) n

/-- The end of a tenant reset (R347 steps 5 to 7). -/
def State.tenResetFinish (s : State) (t : Nat) : State :=
  let x := s.ten t
  let s1 := s.forEach (List.range 16) (fun p s =>
    if (s.part p).load.state = .loading && (s.part p).load.tenant = t then s.loadFail p 9 6 0 else s)
  let s2 := if x.byDetach then s1.forEach (List.range 16) (fun p s => if s.modelIn p t then s.loseModel p else s) else s1
  let s3 := (s2.clearPage t).setTen t { Tenant.init with
    st := if x.endDetached then .detached else .attached, adapters := x.adapters }
  let s4 := s3.setReg (tReg t 0x10) 2
  if x.attachAfter then s4.attachTen t else s4

/-- TENANT_RESET_END: the sequence ends once the tenant's outbound accesses and steps have. -/
def execTenantResetEnd (t : Fin 64) (s : State) : Res :=
  .next (if s.live && decide ((s.ten t).st = .resetting) && s.tenDrained t then s.tenResetFinish t else s)

/-! ### The rows of a tenant's own registers: writes that its messages carry while it is ATTACHED -/

/-- A write that a tenant's page takes. -/
def State.tenWrite (s : State) (t : Nat) (f : State → State) : Res := .next (if s.hapUp && s.attached t then f s else s)

def execTenSqTail (t : Fin 64) (q : Fin 8) (v : W64) (s : State) : Res := s.tenWrite t (fun s => s.ringDoorbell t q (bits v 15 0))
def execTenCqHead (t : Fin 64) (q : Fin 8) (v : W64) (s : State) : Res := s.tenWrite t (fun s => s.returnCq t q (bits v 15 0))
def execTenSqCfg (t : Fin 64) (q : Fin 8) (v : W64) (s : State) : Res := s.tenWrite t (fun s => s.cfgSq t q v)
def execTenCqCfg (t : Fin 64) (q : Fin 8) (v : W64) (s : State) : Res := s.tenWrite t (fun s => s.cfgCq t q v)
def execTenInDone (t : Fin 64) (v : W64) (s : State) : Res := s.tenWrite t (fun s => s.bufDone t (bits v 15 0))
def execTenInFree (t : Fin 64) (v : W64) (s : State) : Res := s.tenWrite t (fun s => s.bufFree t (bits v 15 0))
def execTenOringCfg (t : Fin 64) (r : Fin 1024) (v : W64) (s : State) : Res := s.tenWrite t (fun s => s.cfgRing t r v)
def execTenOringHead (t : Fin 64) (r : Fin 1024) (v : W64) (s : State) : Res := s.tenWrite t (fun s => s.returnRing t r v)
/-- A write of TEN_VEC_MASK; a vector whose condition is met fires in its own time. -/
def State.maskVecs (s : State) (t : Nat) (v : W64) : State := s.setReg (tReg t 0x380) (v &&& 0xFFFF)
def execTenVecMask (t : Fin 64) (v : W64) (s : State) : Res := s.tenWrite t (fun s => s.maskVecs t v)
def execTenReset (t : Fin 64) (v : W64) (s : State) : Res := s.tenWrite t (fun s => s.tenResetWrite t v)

end Sys2Proof.Machine
end

