-- ==== Sys2Proof/Machine/Streamer.lean ====
section
/-! DEFINITION. The Weight streamer (12_memory_tiers.md R277 to R282). -/

namespace Sys2Proof.Machine

def exCounter (x : W64 × W64) : Nat := bits x.1 63 60
def exSource (x : W64 × W64) : Nat := bits x.1 51 0
def exRod (x : W64 × W64) : Nat := bits x.2 63 55
def exLen (x : W64 × W64) : Nat := bits x.2 54 32
def exDest (x : W64 × W64) : Nat := bits x.2 21 0

/-- Whether an extent keeps Table 12.9: reserved bits zero, c0 to c13, aligned, a rod of the partition, a span below the system area. -/
def extentOk (rods : List Nat) (x : W64 × W64) : Bool :=
  bits x.1 59 52 == 0 && bits x.2 31 22 == 0 && decide (exCounter x ≤ 13) && exSource x % 32 == 0 && rods.contains (exRod x) &&
    decide (32 ≤ exLen x) && decide (exLen x ≤ 4194304) && exLen x % 32 == 0 && exDest x % 32 == 0 &&
    decide (exDest x + exLen x ≤ 0x3F0000)

/-- Where a byte of a descriptor lies in HBM, or the response its address draws (R124, R127, R277). -/
def State.streamAt (s : State) (p a : Nat) : Except Nat Nat :=
  if adClass a = 3 || adClass a = 5 || (adClass a = 1 && adForm1 a) then .error 2
  else if adClass a ≠ 1 || a % 16 ≠ 0 then .error 1
  else match s.tier1 p (adRange a) with
    | some o => .ok o
    | none => .error 1

/-- Extent `e` of a descriptor of the partition range (Table 12.9): its two words; none where it lies in no local HBM. A descriptor may
run over several pages. -/
def State.extentWords (s : State) (p a e : Nat) : Option (W64 × W64) :=
  (s.tier1 p (adRange a + 16 + 16 * e)).map (fun o => (s.hbmWord o, s.hbmWord (o + 8)))

/-- The checks of R278 in their order: a response, or the accepted descriptor. -/
def State.streamCheck (s : State) (p a : Nat) : Except Nat Stream :=
  match s.streamAt p a with
  | .error r => .error r
  | .ok o =>
    let w0 := s.hbmWord o
    let n := bits w0 12 0
    if bits w0 51 48 ≠ p then .error 2
    else if bits w0 63 52 ≠ 0 || bits w0 31 13 ≠ 0 || s.hbmWord (o + 8) ≠ 0 || n = 0 || n > 4096 then .error 1
    else
      let xs := (List.range n).map (s.extentWords p a)
      if !xs.all (fun x => match x with | some x => extentOk (s.rodsOf p) x | none => false) then .error 1
      else
        let l := (List.range n).map (fun e => let x := (nth none xs e).getD (0, 0)
          (⟨e, exRod x, exCounter x, exSource x, exLen x, exDest x, false⟩ : Extent))
        if l.any (fun x => s.rangeResp p false (pageSpans x.src x.len) ≠ 0) then .error 1 else .ok ⟨0, bits w0 47 32, l⟩

/-- The spans whose translation a rejected descriptor has met: its own, and those of its sources where they were translated (R266). -/
def State.streamSpans (s : State) (p a : Nat) : List (Nat × Nat) :=
  match s.streamAt p a with
  | .error _ => pageSpans (adRange a) 16
  | .ok o =>
    let n := min 4096 (bits (s.hbmWord o) 12 0)
    pageSpans (adRange a) (16 + 16 * n) ++ (List.range n).flatMap (fun e =>
      match s.extentWords p a e with | some x => pageSpans (exSource x) (exLen x) | none => [])

/-- A descriptor is accepted: references on its pages, and STREAM.ARM completes (R117, R273). A wait already under way that now stalls is
counted, once (R282). -/
def State.acceptStream (s : State) (p ph : Nat) (o : RemOp) (d : Stream) : State :=
  let n := (s.part p).nextStream
  let waits (e : Extent) : Bool := let r := s.rod (s.phys e.rod)
    !r.stalled && (match r.issue with | .waiting _ c _ => c == e.cnt | _ => false)
  let rods := ((d.extents.filter waits).map (·.rod)).eraseDups
  let s0 := (s.bump (cntPart p 49) rods.length).forEach rods (fun l s => s.onRod (s.phys l) (fun r => { r with stalled := true }))
  let s1 := s0.forEach d.extents (fun e s => s.refRange p e.src e.len true)
  (s1.onPart p (fun x => { x with streams := x.streams ++ [{ d with id := n }], nextStream := n + 1 })).onRod ph (fun r =>
    (r.dropRem o.tag).countOpt o.cnt)

/-- STREAM_ACCEPT: the Weight streamer takes the STREAM.ARM, or rejects it; a full context leaves it in its queue (R278). -/
def execStreamAccept (l : Fin 512) (tag : Nat) (s : State) : Res :=
  let ph := s.phys l
  .next (match (s.rod ph).rem.find? (fun o => o.tag == tag), s.partOf l with
    | some o, some p =>
      if !s.live || s.stalled || o.kind ≠ .stream || (s.part p).streams.length ≥ 64 then s
      else match s.streamCheck p o.addr with
        | .error r =>
          let sp := if r = 1 && adClass o.addr = 1 then s.countBad p (s.streamSpans p o.addr) else s
          sp.remFail ph o r
        | .ok d => s.acceptStream p ph o d
    | _, _ => s)

/-- The extent `e` of the partition's descriptor in place `slot`. -/
def State.extentOf (s : State) (p slot e : Nat) : Option (Stream × Extent) :=
  match (s.part p).streams[slot]? with
  | none => none
  | some d => (d.extents.find? (fun x => x.e == e)).map (fun x => (d, x))

/-- An extent leaves its descriptor; a descriptor without extents leaves the context. -/
def State.dropExtent (s : State) (p : Nat) (d : Stream) (e : Nat) : State :=
  let cut (y : Stream) : Stream := if y.id = d.id then { y with extents := y.extents.filter (fun z => z.e != e) } else y
  s.onPart p (fun x => { x with streams := (x.streams.map cut).filter (fun y => !y.extents.isEmpty) })

/-- Tier of the page that holds an address, 1 where it has none. -/
def State.tierOf (s : State) (p a : Nat) : Nat := match s.xlat p a with | .page e _ _ _ => entryTier e | _ => 1

/-- The ranges beyond the block that hold an extent's lower spans: span, address, length. -/
def State.extentLower (s : State) (p : Nat) (x : Extent) : List ((Nat × Nat) × Nat × Nat) :=
  (pageSpans x.src x.len).filterMap (fun sp =>
    match s.xlat p sp.1 with
    | .page e _ b _ => if entryTier e = 1 then none else some (sp, extAddr e (sp.1 - b), sp.2)
    | _ => none)

/-- An extent's bytes, with what its reads beyond the block have brought. -/
def State.extentBytes (s : State) (p : Nat) (x : Extent) (l : List UnitOp) : List Byte :=
  let low := s.extentLower p x
  (pageSpans x.src x.len).flatMap (fun sp =>
    match low.find? (fun y => y.1 == sp) with
    | some y => (match Sys2Proof.Machine.fetched l y.2.1 y.2.2 with | some r => r.2 | none => [])
    | none => s.spanRead p sp)

/-- The response that a span of an extent drew from beyond the block. -/
def State.extentResp (s : State) (p : Nat) (x : Extent) (l : List UnitOp) : Nat :=
  ((s.extentLower p x).filterMap (fun y => (Sys2Proof.Machine.fetched l y.2.1 y.2.2).map (·.1))).foldl (fun r n => if r = 0 || r = 4 then max r n else r) 0

/-- An extent's bytes reach bead memory; granules that poisoned source granules cover are marked (R143, R281). A lower span that was
answered POISONED counts whole (log entry 61). -/
def State.moveExtent (s : State) (p : Nat) (x : Extent) (l : List UnitOp) : State :=
  let ph := s.phys x.rod
  let s1 := s.beadWrite ph x.dst (s.extentBytes p x l)
  let low := s.extentLower p x
  let lowBad (a : Nat) : Bool := low.any (fun y => decide (y.1.1 ≤ a) && decide (a < y.1.1 + y.1.2) &&
    (match Sys2Proof.Machine.fetched l y.2.1 y.2.2 with | some (4, _) => true | _ => false))
  let bad := (List.range (x.len / 32)).filter (fun k => s.spanBad p (x.src + 32 * k, 32) || lowBad (x.src + 32 * k))
  let s2 := s1.forEach bad (fun k s => s.forEach (granules 8 (2 ^ 22 * ph + x.dst + 32 * k) 32) (fun g s => s.poisonBead g))
  let s3 := s2.bump (cntPart p 48) (b2n (!bad.isEmpty))
  s3.forEach (pageSpans x.src x.len) (fun sp t => t.bump (cntPart p (52 + s.tierOf p sp.1)) sp.2)

/-- EXTENT_COMPLETE: every byte is visible at the rod; its counter counts, its page references drop (R279). What lies beyond the block is read
first; an extent one of whose reads drew an error never completes (R281). -/
def execExtentComplete (p : Fin 16) (slot e : Nat) (s : State) : Res :=
  .next (match s.extentOf p slot e with
    | none => s
    | some (d, x) =>
      if !s.live || x.failed then s else
      let u : UnitUse := .extent p d.id e
      let ops := s.opsOf u
      let asks := (s.extentLower p x).filter (fun y => (Sys2Proof.Machine.fetched ops y.2.1 y.2.2).isNone)
      if !asks.isEmpty then (if ops.any (fun o => o.resp.isNone) then s else s.askFor u p (asks.map (·.2)))
      else if s.extentResp p x ops ≠ 0 && s.extentResp p x ops ≠ 4 then s
      else ((((s.moveExtent p x ops).dropOps u).addCnt (s.phys x.rod) x.cnt 1).refRange p x.src x.len false).dropExtent p d e)

/-- EXTENT_FAIL: a read drew PEER_ABSENT, TIMEOUT or INTEGRITY; the extent is marked, never completes, and the partition is held
(R281, R381). -/
def execExtentFail (p : Fin 16) (slot e response : Nat) (s : State) : Res :=
  .next (match s.extentOf p slot e with
    | none => s
    | some (d, x) =>
      if !s.live || x.failed || !(response == 5 || response == 6 || response == 8) then s
      else
        let a := 2 ^ 53 + x.src
        let s0 := s.onPart p (fun y => { y with streams := y.streams.map (fun z =>
          if z.id = d.id then { z with extents := z.extents.map (fun w => if w.e = e then { w with failed := true } else w) } else z) })
        let s1 := ((s0.dropOps (.extent p d.id e)).faultRecord 4 0x07 response p (s.phys x.rod) a (s.openStep p)).bump (cntBlk 3) 1
        (s1.holdPart p 4 0x07 response).awaitPeer p response a)

end Sys2Proof.Machine
end

