-- ==== Sys2Proof/Machine/Loss.lean ====
section
/-! DEFINITION. Recovery by location of lost data (17 Table 17.4): what Penub does for the KV blocks, shards, adapter images and tables
that a set of pages or granules holds. `hit p sp` says whether a span of partition p's range is among the lost. -/

namespace Sys2Proof.Machine

/-- Whether a range of the partition range holds something lost. -/
def anyLost (hit : Nat → Nat × Nat → Bool) (p a len : Nat) : Bool := (pageSpans a len).any (hit p)

/-! ### KV blocks -/

/-- The prefix entries that hold a block (R215). -/
def State.pfxEntriesOf (s : State) (p blk : Nat) : List Nat :=
  let base := (s.rd (pReg p 0x2A8)).toNat
  ((List.range (8 * 2 ^ s.rf (pReg p 0x2B0) 4 0)).map (fun k => base + 32 * k)).filter (fun a =>
    s.pfxValid p a && blockAddr (s.pfxWord p a 1) == blk)

/-- Whether a request's page list names a block. -/
def State.namesBlock (s : State) (i blk : Nat) : Bool :=
  (List.range (s.slot i).pages).any (fun n => blockAddr (s.blockEntry i n) == blk)

/-- A request has lost a KV block: it re-prefills, at its partition's boundary (Table 9.3); a parked one goes to QUEUED for it at once, a
paused one when it resumes. -/
def State.kvLost (s : State) (i : Nat) : State :=
  let x := s.slot i
  if (x.state = 2 || x.state = 3) && s.idle x.part || x.state = 5 then s.rePrefill i
  else if 1 ≤ x.state && x.state ≤ 5 then s.onSlot i (fun x => { x with lost := true })
  else s

/-- A KV block is lost: every request that names it re-prefills, and a shared block leaves the prefix index. -/
def State.blockLost (s : State) (p blk : Nat) : State :=
  let es := s.pfxEntriesOf p blk
  let s1 := s.forEach es (fun a s => s.rangeWrite p (a + 8) (leBytes 8 0))
  let s2 := s1.forEach ((s.entriesOf p).filter (fun i => s.namesBlock i blk)) (fun i s => s.kvLost i)
  if es.isEmpty then s2 else s2.freeBlock p blk

def State.kvLoss (s : State) (hit : Nat → Nat × Nat → Bool) (p : Nat) : State :=
  match (s.part p).load.model with
  | none => s
  | some m =>
    s.forEach (((List.range m.kvCount).map (fun k => m.kvBase.toNat + k * m.kvBytes)).filter (fun b => anyLost hit p b m.kvBytes))
      (fun b s => s.blockLost p b)

/-! ### Shards, adapters, tables of the partition -/

/-- Model or bank pages are lost: each shard is fetched again, as after a scrub mismatch (13 R299). -/
def State.modelLoss (s : State) (hit : Nat → Nat × Nat → Bool) (p : Nat) : State :=
  if (s.part p).load.state ≠ .done && (s.part p).load.state ≠ .loading then s
  else s.forEach (List.range (s.part p).load.shards.length) (fun k s =>
    match (s.part p).load.shards[k]? with
    | some x => if x.ok && anyLost hit p (shDest x.words) (shBytes x.words) then s.startRefetch p k else s
    | none => s)

/-- The ids of a partition's directory whose first-level entry is valid. -/
def State.dirIds (s : State) (p : Nat) : List Nat :=
  ((List.range 4096).filter (fun k => (s.dirAt p (4096 * k)).isSome)).flatMap (fun k => (List.range 4096).map (· + 4096 * k))

/-- An adapter image is lost: Penub stages its entry ABSENT, one entry after another (07 R164, R167). -/
def State.adapterLoss (s : State) (hit : Nat → Nat × Nat → Bool) (p : Nat) : State :=
  let lost := (s.dirIds p).filter (fun id =>
    match s.dirEntry p id with
    | some e => deId e == id && deState e == 2 && anyLost hit p (deImage e) (256 + deBlocks e * (32 * deStride e))
    | none => false)
  (s.onPart p (fun x => { x with dirLost := x.dirLost ++ lost.filter (fun id => !x.dirLost.contains id) })).dirNext p

/-- Whether a descriptor, launch table, profile, budget or directory page of a partition is lost: its ranges, by register. -/
def State.tablesLost (s : State) (hit : Nat → Nat × Nat → Bool) (p : Nat) : Bool :=
  let at_ (off : Nat) : Nat := (s.rd (pReg p off)).toNat
  anyLost hit p (at_ 0x40) (2 ^ 21) || anyLost hit p (at_ 0x30) (32 * s.rf (pReg p 0x38) 12 0) ||
    anyLost hit p (at_ 0x58) (64 * 8192) || anyLost hit p (at_ 0x48) (32 * s.rf (pReg p 0x50) 16 0) ||
    anyLost hit p (s.rd (0x502000 + 8 * p)).toNat 32768 ||
    (List.range 4096).any (fun k => match s.dirAt p (4096 * k) with | some a => anyLost hit p a (64 * 4096) | none => false)

/-- Table 17.4 for one partition. -/
def State.partLoss (s : State) (hit : Nat → Nat × Nat → Bool) (p : Nat) : State :=
  if (s.part p).st = .off then s
  else if s.tablesLost hit p && ((s.part p).st = .running || (s.part p).st = .held) then s.resetPart p 0x0A 0
  else ((s.kvLoss hit p).modelLoss hit p).adapterLoss hit p

/-- Table 17.4 for every partition. -/
def State.loss (s : State) (hit : Nat → Nat × Nat → Bool) : State := s.forEach (List.range 16) (fun p s => s.partLoss hit p)

/-! ### Which spans are lost -/

/-- Spans that reach a granule of physical HBM that satisfies `bad`. -/
def State.hitHbm (s : State) (bad : Nat → Bool) (p : Nat) (sp : Nat × Nat) : Bool :=
  match s.tier1 p sp.1 with
  | some o => (granules 32 o sp.2).any bad
  | none => false

/-- Spans whose page lies in the pool of a peer, or of the shelf where `shelf` (14 R317, 17 R381). -/
def State.hitPeer (s : State) (k : Nat) (shelf : Bool) (p : Nat) (sp : Nat × Nat) : Bool :=
  match s.xlat p sp.1 with
  | .page e _ _ _ =>
    entryTier e == 2 && (if bits e 55 50 / 32 = 1 then shelf else !shelf && bits e 55 50 / 4 % 8 == k)
  | _ => false

/-- Every pool page on a peer, or on the shelf, is lost; a load in progress that has staged pages there fails (13 R295). -/
def State.poolLost (s : State) (k : Nat) : State :=
  let hit := s.hitPeer k (s.peer k).shelf
  (s.forEach (List.range 16) (fun p s =>
    let ld := (s.part p).load
    if ld.state ≠ .loading then s else
    match ld.shards.find? (fun x => x.ok && anyLost hit p (shDest x.words) (shBytes x.words)) with
    | some x => s.loadFail p 0x06 0xA (shId x.words)
    | none => s)).loss hit

/-- The step journal of each partition has lost granules: the other copy serves and rewrites them (Table 17.4, R376). -/
def State.jrnlRepair (s : State) : State := s.forEach (List.range 16) (fun p s => (s.jrnlFind p).2)

/-- A granule of one copy of the token histories is lost: the other copy serves and rewrites it (Table 17.4, 09 R212). -/
def State.histRepair (s : State) (g : Nat) : State :=
  let a := (s.rd 0x90000).toNat
  let b := (s.rd 0x90008).toNat
  let n := 32768 * 524288
  if a ≤ 32 * g && 32 * g < a + n then s.hbmWrite (32 * g) (s.hbmRead (b + (32 * g - a)) 32)
  else if b ≤ 32 * g && 32 * g < b + n then s.hbmWrite (32 * g) (s.hbmRead (a + (32 * g - b)) 32)
  else s

/-- The granules of a channel in the token histories of the requests that lie on it, in either copy (R386). -/
def State.histLost (s : State) (on : Nat → Bool) : List Nat :=
  s.entries.flatMap (fun i => [s.rd 0x90000, s.rd 0x90008].flatMap (fun b =>
    (granules 32 (b.toNat + 524288 * i) (4 * ((s.slot i).prompt + (s.slot i).generated))).filter on))

end Sys2Proof.Machine
end

