-- ==== Sys2Proof/Machine/Fabric.lean ====
section
/-! DEFINITION. The optical fabric (14_exfe_optical_fabric.md R301 to R323): receiving groups, replay, lanes, bring-up, the peer table,
replicas, key updates, board time, the lasers' side-band. -/

namespace Sys2Proof.Machine

/-- The fabric works: the block runs or starts up, and no freeze holds it. -/
def State.fabUp (s : State) : Bool :=
  (s.rf 0x10008 3 0 == 0 || s.rf 0x10008 3 0 == 4) && !s.dbg.frozen && !s.flt.frozen

/-! ### Light (R303, R304) -/

/-- A side-band command word. -/
def laserCmd (op src value : Nat) : BitVec 32 := BitVec.ofNat 32 (op % 16 * 2 ^ 28 + src % 64 * 2 ^ 22 + value % 65536)

/-- A side-band command leaves; its reply is awaited (R303). -/
def State.laserAsk (s : State) (p op n value : Nat) : State :=
  (s.send (.laser p (laserCmd op n value))).onPort p (fun x => { x with asked := x.asked ++ [(op, n)] })

/-- Set the power of the given sources and light them. -/
def State.lightLanes (s : State) (p value : Nat) (l : List Nat) : State :=
  s.forEach l (fun n s =>
    ((s.laserAsk p 3 n value).laserAsk p 4 n 1).onPort p (fun x =>
      { x with sources := Sparse.put 0 x.sources n (Sparse.get 0 x.sources n / 2 * 2 + 1) }))

/-- Darken the given sources while the output enable stays high. -/
def State.darkenLanes (s : State) (p : Nat) (l : List Nat) : State :=
  s.forEach l (fun n s => (s.laserAsk p 4 n 0).onPort p (fun x =>
    { x with sources := Sparse.put 0 x.sources n (Sparse.get 0 x.sources n / 2 * 2) }))

/-- Lanes that a port drives. -/
def State.portLanes (s : State) : List Nat := List.range (32 + s.design.spareLanes)

def State.portEnabled (s : State) (p : Nat) : Bool := bit (s.rd 0x600010) p && !s.flt.frozen

/-- The port's lasers are dark (R304). -/
def State.portDark (s : State) (p : Nat) : State :=
  s.onPort p (fun x => { Port.init with upFails := x.upFails, darkUntil := x.darkUntil })

/-- The port probes: it lights lanes 0 and 1 at probe power, and darkens every other source that is still lit. -/
def State.portProbe (s : State) (p : Nat) : State :=
  let y := s.port p
  let lit := (y.sources.filter (fun x => x.2 % 2 == 1 && decide (2 ≤ x.1))).map (·.1)
  ((s.onPort p (fun x => { Port.init with
    train := .probing, lasEn := true, upFails := x.upFails, asked := if x.lasEn then x.asked else [],
    sources := if x.lasEn then x.sources else [] })).darkenLanes p lit).lightLanes p (s.rf 0x600018 15 0) [0, 1]

/-- A port starts its bring-up again; after three failures within 1 s it stays dark for 1 s (R316). -/
def State.portRestart (s : State) (p : Nat) : State :=
  let x := s.port p
  let failed := match x.train with | .full => true | .locked => true | .identified => true | .authed => true | _ => false
  let fails := (if failed then x.upFails ++ [s.time] else x.upFails).filter (fun t => decide (s.time.toNat < t.toNat + 10 ^ 9))
  if !s.portEnabled p then s.portDark p
  else if fails.length ≥ 3 then
    (s.portDark p).onPort p (fun x => { x with upFails := [], darkUntil := some (s.time + 1000000000) })
  else (s.onPort p (fun x => { x with upFails := fails })).portProbe p

/-! ### Replicas at the home (R319 to R321, 08 R192, R196) -/

def replicaAddr (t row : Nat) : Nat := t % 1024 * 2 ^ 32 + row % 2 ^ 32

/-- A replica message to a board position. -/
def State.replicaSend (s : State) (k op t row epoch : Nat) : State :=
  s.linkSend (s.peer k).port (mkFlit op s.fab.pos 0 0 1 0 0 (replicaAddr t row) (w64 epoch) 0 [])

def State.onFab (s : State) (f : Fabric → Fabric) : State := { s with fab := f s.fab }
def State.onDir (s : State) (sel : ReplicaDir → Bool) (f : ReplicaDir → ReplicaDir) : State :=
  s.onFab (fun x => { x with dir := x.dir.map (fun e => if sel e then f e else e) })

/-- An invalidate round of one directory entry: the epoch rises, and every sharer gets INVAL. -/
def State.invalidate (s : State) (e : ReplicaDir) : State :=
  let ep := (e.epoch + 1) % 2 ^ 32
  let s1 := s.onDir (fun x => x == e) (fun x => { x with
    epoch := ep, await := x.mask.map (fun k => (k, 1)), invals := x.mask.foldl (fun m k => Sparse.put 0 m k ep) x.invals })
  s1.forEach e.mask (fun k s => s.replicaSend k 0x10 e.table e.row ep)

/-- Copies of a table's rows on their way to a sharer, and grants not yet sent, are given up: the sharer serves from none of them, since it
serves from a replica only after its GRANT (R319). -/
def State.dropCopies (s : State) (sel : Nat → Nat → Nat → Bool) : State :=
  (s.onOps (fun l => l.map (fun o => match o.use with
    | .copy t r v _ => if sel t r v then { o with use := .note } else o
    | _ => o))).onDir (fun e => sel e.table e.row e.ver) (fun e => { e with puts := [] })

/-- Whether a version of a table has replicas that stand or whose replies are awaited. -/
def State.replicated (s : State) (t ver : Nat) : Bool :=
  s.fab.dir.any (fun e => e.table == t && e.ver == ver && (!e.mask.isEmpty || !e.await.isEmpty || !e.puts.isEmpty))

/-- The previous version of a table goes, with its replicas (R188, R192). -/
def State.releaseTable (s : State) (t : Nat) : State :=
  let old := Sparse.get [] s.gth.prev t
  let ver := tblVersion old
  { s with
    gth := { s.gth with prev := Sparse.put [] s.gth.prev t [] }
    fab := if tblKind old = 0 then s.fab else { s.fab with
      replicas := s.fab.replicas.filter (fun r => !(r.table == t && r.ver == ver))
      dir := s.fab.dir.filter (fun r => !(r.table == t && r.ver == ver)) } }.setRf 0x500290 63 63 0

/-- A release that waited for replies completes once no replica of the version is left. -/
def State.tryRelease (s : State) : State :=
  let t := s.rf 0x500290 9 0
  if bit (s.rd 0x500290) 63 && !s.replicated t (tblVersion (Sparse.get [] s.gth.prev t)) then s.releaseTable t else s

/-- A write of GTH_TBL_RELEASE: the home withdraws the version's replicas before the release completes (R320). -/
def State.writeRelease (s : State) (v : W64) : State :=
  if bit (s.rd 0x500290) 63 then s
  else
    let t := bits v 9 0
    let s1 := s.setReg 0x500290 (w64 t)
    if !bit v 63 then s1
    else
      let ver := tblVersion (Sparse.get [] s.gth.prev t)
      let s2 := s1.dropCopies (fun t' _ v => t' == t && v == ver)
      let l := s2.fab.dir.filter (fun e => e.table == t && e.ver == ver && e.await.isEmpty)
      ((s2.forEach l (fun e s => s.invalidate e)).setRf 0x500290 63 63 1).tryRelease

def execGthTblRelease (v : W64) (s : State) : Res := .next (if s.live then s.writeRelease v else s)

/-- A sharer's bit clears, and its reply is no longer awaited. -/
def State.clearSharer (s : State) (sel : ReplicaDir → Bool) (k : Nat) : State :=
  (s.onDir sel (fun e => { e with
    mask := e.mask.filter (· != k), await := e.await.filter (fun a => a.1 != k), puts := e.puts.filter (· != k) })).tryRelease

/-- Copies that have been answered: OK makes the GRANT due; after an error response the row has no replica there. -/
def State.settleCopies (s : State) : State :=
  s.forEach s.fab.ops (fun o s =>
    match o.use, o.resp with
    | .copy t r v k, some e =>
      let s1 := s.onOps (fun l => l.filter (fun x => x.tag != o.tag))
      if e ≠ 0 then s1
      else s1.onDir (fun x => x.table == t && x.row == r && x.ver == v) (fun x => { x with puts := x.puts ++ [k] })
    | _, _ => s)

/-- Answers to the block's units beyond the block reach what waits for them; the commands of the moves, rows, packs, extents and buckets
read theirs themselves. -/
def State.settleOps (s : State) : State := s.settleRods.settleFills.settleReplies.settleCopies.settleNotes

/-- REPLICATE_ROW: the home PUTs its row into a sharer's replica area, whose place the spec leaves open (R319 step 1). -/
def execReplicateRow (tbl : Fin 1024) (row : BitVec 32) (sharer : Fin 8) (s : State) : Res :=
  let d := s.tbl tbl
  let r := row.toNat
  let k := sharer.val
  .next (match s.shardOf d r with
    | none => s
    | some (o, off) =>
      let ver := tblVersion d
      let here (e : ReplicaDir) : Bool := e.table == tbl.val && e.row == r && e.ver == ver
      let busy := s.fab.dir.any (fun e => here e && (e.mask.contains k || e.puts.contains k || !e.await.isEmpty)) ||
        !(s.opsOf (.copy tbl r ver k)).isEmpty
      if !s.live || !tblSharded d || o ≠ s.fab.pos || r ≥ tblCount d || k = s.fab.pos || !s.present k || (s.peer k).shelf || busy ||
          (s.fab.dir.length ≥ 1048576 && !s.fab.dir.any here) then s
      else
        let sz := tblRow d
        let top := (s.fab.dir.filter (fun e => e.table == tbl.val && e.row == r)).foldl (fun n e => max n e.epoch) 0
        let s1 := (s.journal 2 [w64 tbl, w64 r, w64 k]).onFab (fun x => { x with
          dir := if x.dir.any here then x.dir else x.dir ++ [⟨tbl, r, ver, top, [], [], [], [], []⟩] })
        (s1.unitOp (.copy tbl r ver k) (tblPart d) 2 (peerHbm k (Config.replicaPlace k tbl r).toNat) sz
          (s.hbmRead (off + r % 4096 * sz) sz) false 0 0 0).settleOps)

/-- REPLICA_GRANT: the copy is complete; GRANT goes out with the new epoch and the sharer bit sets (R319). -/
def execReplicaGrant (tbl : Fin 1024) (row : BitVec 32) (sharer : Fin 8) (s : State) : Res :=
  let k := sharer.val
  .next (match s.fab.dir.find? (fun e => e.table == tbl.val && e.row == row.toNat && e.puts.contains k) with
    | none => s
    | some e =>
      if !s.live then s else
      (s.onDir (fun x => x == e) (fun x => { x with
        epoch := (x.epoch + 1) % 2 ^ 32, mask := x.mask ++ [k], puts := x.puts.filter (· != k),
        grants := Sparse.put 0 x.grants k ((x.epoch + 1) % 2 ^ 32) })).replicaSend k 0x14 tbl row.toNat ((e.epoch + 1) % 2 ^ 32))

/-- REPLICA_INVALIDATE: Penub withdraws a row's replicas (R320). -/
def execReplicaInvalidate (tbl : Fin 1024) (row : BitVec 32) (s : State) : Res :=
  .next (if !s.live then s else
    let s1 := (s.journal 2 [w64 tbl, row.setWidth 64]).dropCopies (fun t r _ => t == tbl.val && r == row.toNat)
    s1.forEach (s1.fab.dir.filter (fun e => e.table == tbl.val && e.row == row.toNat && e.await.isEmpty && !e.mask.isEmpty))
      (fun e s => s.invalidate e))

/-! ### Leaving of a peer (R317) -/

/-- Operations in flight to a position complete with a response: rods' and units' (R317). -/
def State.failOps (s : State) (k resp : Nat) : State :=
  let shelf := (s.peer k).shelf
  ((s.forEach (s.rods.map (·.1)) (fun ph s => s.onRod ph (fun r => { r with
    rem := r.rem.map (fun o => if adClass o.addr == 4 && adPeer o.addr == k && o.done.isNone then { o with done := some resp } else o) }))).opsFail
    (fun o => (adClass o.addr == 4 && adPeer o.addr == k) || (shelf && adClass o.addr == 5)) resp).settleOps

/-- The peer table entry of a partner: its position; a shelf takes the block's own. -/
def State.entryOf (s : State) (id : PartnerId) : Nat := if id.shelf then s.fab.pos else id.pos

/-- The ports whose partner reports position `k` and is held, since the position is PRESENT on another port (R316). -/
def State.heldPorts (s : State) (k : Nat) : List Nat :=
  (List.range 8).filter (fun p => decide ((s.port p).train = .held) && decide (((s.port p).partner.map (fun i => s.entryOf i)) = some k))

/-- An entry becomes ABSENT: operations in flight complete with PEER_ABSENT, replicas from that home drop, its sharer bits clear,
PEER_LEFT is raised. -/
def State.peerGone (s : State) (k : Nat) : State :=
  let s1 := (s.setPeer k { s.peer k with st := 0 }).failOps k 5
  let s2 := s1.onFab (fun x => { x with replicas := x.replicas.filter (fun r => r.home != k) })
  (s2.clearSharer (fun _ => true) k).event 7

/-- A link goes down (R315): its entry becomes ABSENT and bring-up starts again. A partner that was held for the same position then has the
entry HELD_DOWN, the lowest such port, and its link starts again too (R316). -/
def State.linkDown (s : State) (p : Nat) : State :=
  match s.posOf p with
  | none => s.portRestart p
  | some k =>
    let s1 := (s.peerGone k).portRestart p
    match s1.heldPorts k with
    | [] => s1
    | q :: _ => (s1.setPeer k { s1.peer k with st := 4, port := q }).portRestart q

/-- Whether a port is past frame lock. -/
def Port.locked (x : Port) : Bool :=
  match x.train with | .locked => true | .identified => true | .authed => true | .up => true | .held => true | _ => false

/-- Something takes a link down. -/
def State.downIf (s : State) (p : Nat) : State := if s.fabUp && (s.port p).locked then s.linkDown p else s

def execLinkDown (port : Fin 8) (s : State) : Res := .next (s.downIf port)
def execVerifiedGroupSilence (port : Fin 8) (s : State) : Res := .next (s.downIf port)
def execCtrlLeaveReceive (port : Fin 8) (s : State) : Res := .next (s.downIf port)

/-- INVAL_RETRY: INVAL again, up to three times; then the link goes down, which counts as a reply (R320). -/
def execInvalRetry (tbl : Fin 1024) (row : BitVec 32) (sharer : Fin 8) (s : State) : Res :=
  let k := sharer.val
  .next (match s.fab.dir.find? (fun e => e.table == tbl.val && e.row == row.toNat && e.await.any (fun a => a.1 == k)) with
    | none => s
    | some e =>
      let n := ((e.await.find? (fun a => a.1 == k)).map (·.2)).getD 0
      if !s.live then s
      else if n ≤ 3 then
        (s.onDir (fun x => x == e) (fun x => { x with await := x.await.map (fun a => if a.1 = k then (k, n + 1) else a) })).replicaSend k
          0x10 tbl row.toNat e.epoch
      else s.linkDown (s.peer k).port)

/-! ### Receiving (R305 to R311) -/

/-- A header flit keeps Tables 14.4 and 14.5. -/
def flitOk (f : Flit) : Bool :=
  (opChan f.op).isSome && bits f.w0 7 0 == 0 && bits f.w1 63 50 == 0 && decide (f.nData ≤ 128)

/-- Put bytes of GET data at their place, which the response's Address names, and count them; complete a piece of a PUT, take an old value
or an error: what a response does to its operation. A response carries the Address of its own piece (DEDUCED, log entry 115). -/
def RemOp.respond (o : RemOp) (f : Flit) : RemOp :=
  let st := f.status
  match f.op, o.kind with
  | 9, .get =>
    if st ≠ 0 && st ≠ 4 then { o with done := some st }
    else
      let at_ := f.addr - o.addr % 2 ^ 50
      let bs := f.data.take (min f.len (o.len - at_))
      let n := o.b.toNat + bs.length
      { o with data := putAt o.data at_ bs, poison := if st = 4 then o.poison ++ [(at_, bs.length)] else o.poison, b := w64 n,
               done := if o.len ≤ n then some 0 else none }
  | 0xA, .atom _ _ => { o with old := f.w2, done := some st }
  | 8, .put =>
    if st ≠ 0 && st ≠ 4 then { o with done := some st }
    else if o.data.length ≤ 4096 then { o with done := some 0 } else { o with data := o.data.drop 4096 }
  | 8, .taddR => { o with done := some st }
  | 8, _ => if st ≠ 0 then { o with done := some st } else o
  | _, _ => o

/-- A response finds the operation whose tag it returns: a rod's, or a unit's. -/
def State.takeResponse (s : State) (src : Nat) (f : Flit) : State :=
  if f.tag < 0x8000 then
    s.onRod (s.phys (f.tag % 512)) (fun r => { r with rem := r.rem.map (fun o =>
      if o.tag % 64 == f.tag / 512 && adClass o.addr == 4 && adPeer o.addr == src && o.done.isNone then o.respond f else o) })
  else (s.unitResponse src f).settleOps

/-! ### SPDM over a link (R315) -/

/-- Whether the block is the requester of a port's session: it has the lower position, and a shelf is always the responder. -/
def State.requester (s : State) (id : PartnerId) : Bool := id.shelf || decide (s.fab.pos < id.pos.val)

/-- The next SPDM message on a port, where there is one: from the first on the entry is AUTHENTICATING (Table 14.8). -/
def State.spdmSend (s : State) (p : Nat) (id : PartnerId) (resp : Bool) : State :=
  let k := s.entryOf id
  let d := s.drawMany 4
  let l := (s.port p).spdm
  let bs := (if resp then Config.spdmRespond l s.measurements true (freeBytes d.1 4) else Config.spdmRequest l (freeBytes d.1 4)).take 4096
  let s1 := d.2.setPeer k { d.2.peer k with st := 2 }
  if bs.isEmpty then s1 else s1.linkSend p (mkFlit 0x21 s.fab.pos 0 0 1 0 0 0 0 0 bs)

/-- The requester begins the session. -/
def State.spdmBegin (s : State) (p : Nat) : State :=
  match (s.port p).train, (s.port p).partner with
  | .identified, some id => if s.requester id && decide ((s.peer (s.entryOf id)).st = 1) then s.spdmSend p id false else s
  | _, _ => s

/-- SPDM message bytes arrive: the responder answers, the requester goes on. -/
def State.spdmTake (s : State) (p : Nat) (bs : List Byte) : State :=
  match (s.port p).train, (s.port p).partner with
  | .identified, some id => (s.onPort p (fun x => { x with spdm := x.spdm ++ [bs] })).spdmSend p id (!s.requester id)
  | _, _ => s

/-! ### Flits (R306 to R308) -/

/-- A lane's swap is confirmed: the lane moves to the spare that mirrors it, at this group boundary (R312). -/
def State.swapConfirmed (s : State) (p lane spare : Nat) : State :=
  let x := s.port p
  if x.mirror ≠ some (lane, spare) then s
  else ((s.setPort p { x with
    mirror := none, txMap := setNth x.txMap lane spare, txBad := x.txBad ++ [nth 0 x.txMap lane] }).bump (cntPort p 3) 1).adviseLanes p

/-- The places of a flit in the receive buffer of its channel are free again: as many credits are owed to the partner (R307). -/
def Port.owe (x : Port) (f : Flit) : Port :=
  match opChan f.op with
  | some .req => { x with owed := (x.owed.1 + f.size, x.owed.2) }
  | some .rsp => { x with owed := (x.owed.1, x.owed.2.1 + f.size, x.owed.2.2) }
  | some .ctrl => if f.op = 0 then x else { x with owed := (x.owed.1, x.owed.2.1, x.owed.2.2 + f.size) }
  | none => x

/-- One header flit with its data is delivered, or discarded as bad (R308). Requests, replica replies and time flits wait for the
commands that take them, with the time and the slot of their arrival; a request for which the REQ buffer has no room was sent without a
credit and is discarded (DESIGN CHOICE, log entry 126). What is consumed at once is owed to the partner as credits (R307). -/
def State.takeFlit (s : State) (p n : Nat) (f : Flit) : State :=
  let src := (s.posOf p).getD 8
  let owe (s : State) : State := s.onPort p (fun x => x.owe f)
  let held := ((s.port p).inbox.filter (fun r => opChan r.flit.op == some .req)).foldl (fun a r => a + r.flit.size) 0
  if !flitOk f then (owe s).bump (cntPort p 0) 1
  else if (s.port p).session = 0 && f.op ≠ 0x20 && f.op ≠ 0x21 then s
  else if f.op = 8 || f.op = 9 || f.op = 0xA then (owe s).takeResponse src f
  else if f.op = 0x20 then
    (if f.w2 = 2 then (owe s).swapConfirmed p (f.w3.toNat / 64) (f.w3.toNat % 64) else owe s)
  else if f.op = 0x21 then (owe s).spdmTake p f.data
  else if f.op = 0 then s
  else if opChan f.op = some .req then
    (if held + f.size > 4096 then s else s.onPort p (fun x => { x with inbox := x.inbox ++ [⟨f, src, s.time, n⟩] }))
  else (owe s).onPort p (fun x => { x with inbox := x.inbox ++ [⟨f, src, s.time, n⟩] })

/-- Header flits that slots complete, each with its data and the slot of its header, and the one whose data go on in the next group. The
Length of PUT and RSP_DATA says how many of their data bytes count (R308). -/
def joinSlots : Option (Flit × Nat × Nat) → List (LSlot × Nat) → List (Flit × Nat) × Option (Flit × Nat × Nat)
  | rx, [] => ([], rx)
  | none, x :: l =>
    let f : Flit := ⟨x.1.w0, x.1.w1, x.1.w2, x.1.w3, []⟩
    if f.nData = 0 then
      let r := joinSlots none l
      ((f, x.2) :: r.1, r.2)
    else joinSlots (some (f, f.nData, x.2)) l
  | some (f, k, n), x :: l =>
    let g : Flit := { f with data := f.data ++ LSlot.bytes x.1 }
    if k ≤ 1 then
      let r := joinSlots none l
      (({ g with data := if g.op = 2 || g.op = 9 then g.data.take g.len else g.data }, n) :: r.1, r.2)
    else joinSlots (some (g, k - 1, n)) l

def groupFlits (g : Group) (rx : Option (Flit × Nat × Nat)) : List (Flit × Nat) × Option (Flit × Nat × Nat) :=
  joinSlots rx ((g.slots.take 79).zip (List.range 79))

/-- A group is discarded; one NAK for each gap, or for the expected group that failed again (R310). A time exchange meets the replay and is
spoiled (R322). -/
def State.discardGroup (s : State) (p : Nat) (again : Bool) : State :=
  let y := s.port p
  let x := { y with spoiled := y.spoiled || y.lastTreq.isSome }
  let s1 := s.bump (cntPort p 1) 1
  if x.gap && !again then s1.setPort p x
  else (s1.setPort p { x with gap := true }).send (.nak p ((x.rxExpect + 2 ^ 20 - 1) % 2 ^ 20))

/-- The expected group failed: its run of failures counts, and ends the link at 16. -/
def State.failGroup (s : State) (p : Nat) : State :=
  let x := s.port p
  let run := if x.failSeq = x.rxExpect then x.failRun + 1 else 1
  let s1 := s.setPort p { x with failSeq := x.rxExpect, failRun := run }
  if run ≥ 16 then (s1.bump (cntPort p 1) 1).linkDown p else s1.discardGroup p true

/-- A group whose tag fails a second time is discarded too; the operations with a flit in it complete with INTEGRITY, and the link goes
down (R311). -/
def State.tagTwice (s : State) (p : Nat) (g : Group) : State :=
  let src := (s.posOf p).getD 8
  let j := groupFlits g (s.port p).rx
  let l := (j.1.map (·.1) ++ (j.2.map (·.1)).toList).filter (fun f => f.op == 8 || f.op == 9 || f.op == 0xA)
  let s1 := s.forEach l (fun f s =>
    if f.tag < 0x8000 then
      s.onRod (s.phys (f.tag % 512)) (fun r => { r with rem := r.rem.map (fun o =>
        if o.tag % 64 == f.tag / 512 && adClass o.addr == 4 && adPeer o.addr == src && o.done.isNone then { o with done := some 8 } else o) })
    else (s.opsFail (fun o => o.tag == f.tag && ((adClass o.addr == 4 && adPeer o.addr == src) ||
      (adClass o.addr == 5 && (s.peer src).shelf))) 8).settleOps)
  ((s1.bump (cntPort p 1) 1).event 5).linkDown p

/-- The receiver's state after a verified group. -/
def Port.accept (x : Port) (g : Group) : Port :=
  let sw := x.rxSwitch == some x.rxExpect
  { x with
    rxExpect := (x.rxExpect + 1) % 2 ^ 20, rxCount := if sw then 1 else x.rxCount + 1,
    rxSession := if sw then x.rxSession + 1 else x.rxSession, rxSwitch := if sw then none else x.rxSwitch,
    gap := false, failRun := 0, tagFail := none,
    credReq := min 4096 (x.credReq + g.reqCredits), credRsp := min 4096 (x.credRsp + g.rspCredits),
    credCtrl := min 256 (x.credCtrl + g.ctrlCredits) }

/-- Replay from the group after `ack`, in order, with the same sequence numbers, IVs and keys (R306, R310). -/
def State.replayGroups (s : State) (p ack : Nat) : State :=
  let x := s.port p
  let l := x.sent.dropWhile (fun g => g.seq != (ack + 1) % 2 ^ 20)
  (s.setPort p { x with spoiled := x.spoiled || x.lastTreq.isSome }).forEach l (fun g s => s.send (.group p (s.frames p g)))

/-- GROUP_RECEIVE. -/
def execGroupReceive (port : Fin 8) (g : Group) (s : State) : Res :=
  let p := port.val
  let x := s.port p
  .next (if !s.fabUp || !x.locked then s
    else if g.nak then (if g.crcOk && g.fecOk then s.replayGroups p g.ack.toNat else s)
    else if g.seq.toNat ≠ x.rxExpect then s.discardGroup p false
    else if !g.fecOk || !g.crcOk then s.failGroup p
    else if x.session ≠ 0 && !g.tagOk then
      let s1 := s.bump (cntPort p 2) 1
      if x.tagFail = some x.rxExpect then s1.tagTwice p g
      else (s1.setPort p { x with tagFail := some x.rxExpect }).failGroup p
    else
      let j := groupFlits g x.rx
      ((s.setPort p { x.accept g with rx := j.2 }).forEach j.1 (fun f s => s.takeFlit p f.2 f.1)).drainWaiting p)

/-- NAK_RECEIVE. -/
def execNakReceive (port : Fin 8) (ack : BitVec 20) (s : State) : Res :=
  .next (if s.fabUp && (s.port port).locked then s.replayGroups port ack.toNat else s)

/-! ### The commands of the replica messages -/

/-- The oldest flit a port holds that satisfies `sel`, taken from it. -/
def State.takeInbox (s : State) (p : Nat) (sel : Nat → Bool) : Option (PeerReq × State) :=
  ((s.port p).inbox.find? (fun r => sel r.flit.op)).map (fun r =>
    (r, s.onPort p (fun x => { x with inbox := x.inbox.erase r })))

/-- The oldest request, where it has the operation: a port's requests are performed oldest first, also those that R136 leaves without an
order (DESIGN CHOICE, log entry 113). Its place in the REQ buffer is owed to the partner (R307). -/
def State.takeRequest (s : State) (p : Nat) (sel : Nat → Bool) : Option (PeerReq × State) :=
  match (s.port p).inbox.find? (fun r => opChan r.flit.op == some .req) with
  | some r =>
    if sel r.flit.op then
      some (r, s.onPort p (fun x => { x.owe r.flit with inbox := x.inbox.erase r }))
    else none
  | none => none

def repTable (f : Flit) : Nat := bits f.w1 41 32
def repRow (f : Flit) : Nat := bits f.w1 31 0

/-- INVAL_RECEIVE: the sharer drops the replica and answers INVAL_ACK, or NOT_PRESENT (R320). -/
def execInvalReceive (port : Fin 8) (s : State) : Res :=
  .next (match s.takeRequest port (· == 0x10) with
    | none => s
    | some (r, s1) =>
      if !s.live then s else
      let mine (x : Replica) : Bool := x.home == r.src && x.table == repTable r.flit && x.row == repRow r.flit
      let had := s.fab.replicas.any mine
      (s1.onFab (fun x => { x with replicas := x.replicas.filter (fun y => !mine y) })).replicaSend r.src
        (if had then 0x11 else 0x12) (repTable r.flit) (repRow r.flit) r.flit.w2.toNat)

/-- INVAL_REPLY_RECEIVE: the home clears the sharer's bit (R320). -/
def execInvalReplyReceive (port : Fin 8) (s : State) : Res :=
  .next (match s.takeInbox port (fun o => o == 0x11 || o == 0x12) with
    | none => s
    | some (r, s1) =>
      if !s.live then s else
      s1.clearSharer (fun e => e.table == repTable r.flit && e.row == repRow r.flit && e.await.any (fun a => a.1 == r.src)) r.src)

/-- GRANT_RECEIVE: the sharer may serve the replica from now on (R319). -/
def execGrantReceive (port : Fin 8) (s : State) : Res :=
  .next (match s.takeRequest port (· == 0x14) with
    | none => s
    | some (r, s1) =>
      if !s.live then s else
      let t := repTable r.flit
      let keep (y : Replica) : Bool := !(y.home == r.src && y.table == t && y.row == repRow r.flit)
      let new : Replica := ⟨r.src, t, repRow r.flit, tblVersion (s.tbl t), r.flit.w2.toNat⟩
      s1.onFab (fun x => { x with replicas := (x.replicas.filter keep) ++ [new] }))

/-- EVICT: the sharer drops a replica on its own and says so (R321). -/
def execEvict (home : Fin 8) (tbl : Fin 1024) (row : BitVec 32) (s : State) : Res :=
  .next (match s.fab.replicas.find? (fun x => x.home == home.val && x.table == tbl.val && x.row == row.toNat) with
    | none => s
    | some x =>
      if !s.live then s else
      (s.onFab (fun y => { y with replicas := y.replicas.erase x })).replicaSend home 0x13 tbl row.toNat x.epoch)

/-- EVICT_RECEIVE: the home clears the bit only where the epoch is the sharer's grant and newer than its last invalidate (R321). -/
def execEvictReceive (port : Fin 8) (s : State) : Res :=
  .next (match s.takeRequest port (· == 0x13) with
    | none => s
    | some (r, s1) =>
      if !s.live then s else
      let ep := r.flit.w2.toNat
      let good (e : ReplicaDir) : Bool := e.table == repTable r.flit && e.row == repRow r.flit && e.mask.contains r.src &&
        Sparse.get 0 e.grants r.src == ep && decide (Sparse.get 0 e.invals r.src < ep)
      if s.fab.dir.any good then s1.clearSharer good r.src else s1.bump (cntPort port 4) 1)

/-! ### Lanes (R312, R313) -/

/-- Spares a receiver can still choose, lowest first. -/
def State.rxSpares (s : State) (p : Nat) : List Nat :=
  let x := s.port p
  s.portLanes.filter (fun n => !x.rxMap.contains n && !x.rxBad.contains n && !x.swaps.any (fun w => w.2 == n))

/-- A spare under test is claimed: the test stops (20 R446). -/
def State.stopPrbs (s : State) (p n : Nat) : State :=
  let off := 0x600310 + 0x20 * p
  if bit (s.rd off) 63 && bit (s.rd off) n then (s.setRf off 63 63 0).setReg (off + 8) 0 else s

/-- A physical receive lane fails: a swap to the lowest usable spare is asked for, or the link goes down. A spare that fails after a swap
claimed it is replaced by the next one. -/
def State.rxLaneFails (s : State) (p n : Nat) : State :=
  let x := s.port p
  if x.rxBad.contains n || !s.portLanes.contains n then s
  else
    let y := { x with rxBad := x.rxBad ++ [n] }
    let claim (k : Nat) (ask : Bool) (f : Nat → List (Nat × Nat)) : State :=
      match (s.setPort p y).rxSpares p with
      | [] => s.linkDown p
      | sp :: _ =>
        let s1 := (s.setPort p { y with swaps := f sp }).stopPrbs p sp
        if ask then s1.ctrlSend p 1 (k * 64 + sp) else s1
    match x.rxMap.findIdx? (· == n), x.swaps.find? (fun w => w.2 == n) with
    | some k, _ => claim k x.swaps.isEmpty (fun sp => x.swaps ++ [(k, sp)])
    | none, some (k, _) =>
      claim k (decide ((x.swaps.headD (0, 0)).2 = n)) (fun sp => x.swaps.map (fun w => if w.2 = n then (k, sp) else w))
    | none, none => s.setPort p y

/-- LANE_WINDOW: a lane over FAB_LANE_THRESH fails; a spare that shows errors becomes unusable. -/
def execLaneWindow (port : Fin 8) (counts : List Nat) (s : State) : Res :=
  .next ((s.forEach s.portLanes (fun n s =>
    let x := s.port port
    let c := nth 0 counts n
    if !s.fabUp || !x.locked then s
    else if x.rxMap.contains n then (if c > s.rf 0x600028 15 0 then s.rxLaneFails port n else s)
    else if c > 0 then s.rxLaneFails port n else s)).adviseLanes port)

/-- LANE_FAIL: a lane loses signal or symbol lock, exceeds its threshold, or its source reports a fault. -/
def execLaneFail (port : Fin 8) (lane : Fin 36) (cause : LaneCause) (s : State) : Res :=
  .next (if !s.fabUp || !(s.port port).locked then s
    else match cause with
      | .threshold => (s.rxLaneFails port lane).adviseLanes port
      | .signal => (s.rxLaneFails port lane).adviseLanes port
      | .laser => (s.rxLaneFails port lane).adviseLanes port)

/-- LANE_SWAP_COMPLETE: the spare is deskewed; the receiver confirms, and the next swap is asked for. -/
def execLaneSwapComplete (port : Fin 8) (s : State) : Res :=
  let p := port.val
  let x := s.port p
  .next (match x.swaps with
    | [] => s
    | (k, sp) :: r =>
      if !s.fabUp || !x.locked then s else
      let s1 := ((s.setPort p { x with rxMap := setNth x.rxMap k sp, swaps := r }).bump (cntPort p 3) 1).ctrlSend p 2 (k * 64 + sp)
      match r with
      | [] => s1
      | (k2, sp2) :: _ => s1.ctrlSend p 1 (k2 * 64 + sp2))

/-- LANE_SWAP_RECEIVE: the sender mirrors the failing lane onto the spare, until the receiver confirms (R312). -/
def execLaneSwapReceive (port : Fin 8) (lane : Fin 32) (spare : Fin 36) (s : State) : Res :=
  let p := port.val
  let x := s.port p
  .next (if !s.fabUp || !x.locked || !s.portLanes.contains spare || x.txMap.contains spare then s
    else (s.setPort p { x with mirror := some (lane.val, spare.val) }).stopPrbs p spare)

/-! ### Bring-up (R304, R315, R316) -/

/-- PROBE_LIGHT_SEEN: every lane at full power. -/
def execProbeLightSeen (port : Fin 8) (s : State) : Res :=
  .next (if s.fabUp && (s.port port).train = .probing then
      (s.onPort port (fun x => { x with train := .full })).lightLanes port (s.rf 0x600020 15 0) s.portLanes
    else s)

/-- LIGHT_LOST: the port returns to probe power. A link that was up has lost frame lock. -/
def execLightLost (port : Fin 8) (s : State) : Res :=
  .next (if !s.fabUp then s
    else match (s.port port).train with
      | .dark => s
      | .probing => s
      | .full => s.portProbe port
      | _ => s.linkDown port)

/-- FRAME_LOCK: lanes, deskew and frames lock; the identity exchange starts: board identifier, position and kind (a block: 0). -/
def execFrameLock (port : Fin 8) (s : State) : Res :=
  .next (if s.fabUp && (s.port port).train = .full then
      let s1 := s.onPort port (fun x => { x with train := .locked })
      (s1.linkSend port (mkFlit 0x20 s.fab.pos 0 0 1 0 0 (s.fab.pos * 2) (w64 5) (s.rd 0x600008) [])).send
        (.ctrl port 5 (s.rd 0x600008).toNat)
    else s)

/-- A partner is refused: leave, REFUSED where its position is not served by another port, FAB_REFUSED with the cause (R316). -/
def State.refusePartner (s : State) (p k cause : Nat) : State :=
  let s1 := s.ctrlSend p 4 cause
  let s2 := if (s1.peer k).st = 3 && (s1.peer k).port ≠ p then s1 else s1.setPeer k { s1.peer k with st := 5, port := p }
  ((s2.onFab (fun x => { x with refused := Sparse.put 0 x.refused p cause })).event 8).portRestart p

/-- Why a partner is refused by its identity, 0 where it is not: another board, the block's own position, a second shelf (R316). -/
def State.refusal (s : State) (p : Nat) (id : PartnerId) : Nat :=
  let shelfThere := (List.range 8).any (fun j => s.present j && (s.peer j).shelf && (s.peer j).port != p)
  if id.boardId ≠ s.rd 0x600008 then 1 else if !id.shelf && id.pos.val == s.fab.pos then 2 else if id.shelf && shelfThere then 3 else 0

/-- IDENTITY_RECEIVE: the partner is refused; or held, while its position is PRESENT on another port; or its entry is TRAINING and the SPDM
session follows (R315, R316, Table 14.8). -/
def execIdentityReceive (port : Fin 8) (id : PartnerId) (s : State) : Res :=
  let p := port.val
  let k := s.entryOf id
  .next (if !s.fabUp || (s.port p).train ≠ .locked then s
    else if s.refusal p id ≠ 0 then s.refusePartner p k (s.refusal p id)
    else if s.present k && (s.peer k).port ≠ p then s.onPort p (fun x => { x with train := .held, partner := some id })
    else
      let s1 := (s.onPort p (fun x => { x with train := .identified, partner := some id })).setPeer k
        { s.peer k with st := 1, port := p, shelf := id.shelf, epoch := id.epoch.toNat }
      if id.shelf then s1.setReg 0x600048 (w64 (id.size % 2 ^ 45)) else s1)

/-- SPDM_SESSION_COMPLETE: the keys switch, or the partner is refused. -/
def execSpdmSessionComplete (port : Fin 8) (ok : Bool) (identity : List Byte) (s : State) : Res :=
  let p := port.val
  .next (match (s.port p).partner with
    | none => s
    | some id =>
      let k := s.entryOf id
      if !s.fabUp || (s.port p).train ≠ .identified then s
      else if !ok then s.refusePartner p k 4
      else (s.onPort p (fun x => { x with train := .authed, session := 1, rxSession := 1, txCount := 0, rxCount := 0 })).setPeer k
        { s.peer k with identity := identity })

/-- PEER_PRESENT: Penub marks the entry PRESENT; a changed Memory epoch loses every pool page on the peer (R317). -/
def execPeerPresent (port : Fin 8) (s : State) : Res :=
  let p := port.val
  .next (match (s.port p).partner with
    | none => s
    | some id =>
      let k := s.entryOf id
      if !s.fabUp || (s.port p).train ≠ .authed then s
      else
        let e := id.epoch.toNat
        let changed := s.fab.seen.contains k && Sparse.get 0 s.fab.lastEpochs k ≠ e
        let s0 := (s.onPort p (fun x => { x with train := .up })).adviseLanes p
        let s1 := s0.setPeer k
          { s0.peer k with st := 3, epoch := e, incarnation := ((s0.peer k).incarnation + 1) % 65536 }
        let s2 := s1.onFab (fun x => { x with
          lastEpochs := Sparse.put 0 x.lastEpochs k e, seen := if x.seen.contains k then x.seen else x.seen ++ [k] })
        if changed then s2.poolLost k else s2)

/-- PORT_HOLD_DARK_END: a port held dark tries again. -/
def execPortHoldDarkEnd (port : Fin 8) (s : State) : Res :=
  .next (match (s.port port).darkUntil with
    | some t => if s.fabUp && s.portEnabled port && decide (t.toNat ≤ s.time.toNat) then s.portProbe port else s
    | none => s)

/-! ### Keys (16 R361) -/

/-- KEY_UPDATE: a CTRL message names the next group boundary, from which the sender's new key applies. -/
def execKeyUpdate (port : Fin 8) (s : State) : Res :=
  let p := port.val
  .next (if s.fabUp && decide ((s.port p).session ≠ 0) && (s.port p).switchAt.isNone then
      let b := ((s.port p).txSeq + 1) % 2 ^ 20
      (s.ctrlSend p 3 b).onPort p (fun x => { x with switchAt := some b })
    else s)

/-- KEY_SWITCH_RECEIVE: the receiver holds both keys until it has verified a group under the new one. -/
def execKeySwitchReceive (port : Fin 8) (boundary : BitVec 20) (s : State) : Res :=
  .next (if s.fabUp && decide ((s.port port).session ≠ 0) then
      s.onPort port (fun x => { x with rxSwitch := some boundary.toNat }) else s)

/-! ### Board time (R322, R323) -/

/-- The time master: the lowest position among the block and its PRESENT peers. -/
def State.master (s : State) : Nat :=
  (((List.range 8).filter (fun k => s.present k && !(s.peer k).shelf)).foldl min s.fab.pos)

/-- A calibration value in ns. -/
def State.tsAdj (s : State) (p off : Nat) : Int := (signedOf 32 (s.rf (0x600300 + 0x20 * p + off) 31 0)) / 1000
def State.stampTx (s : State) (p : Nat) : W64 := s.time + w64i (s.tsAdj p 0)
/-- The arrival of a flit: the time of its group, with the time that its slot takes (a frame of 5,440 line bits holds 20 slots and passes
at 3,584 Gb/s, Table 14.6; how the slot adjusts is DEDUCED, log entry 127), and the calibration value. -/
def State.stampRx (s : State) (p : Nat) (r : PeerReq) : W64 := r.time + w64 (r.slot * 5440 / (20 * 3584)) + w64i (s.tsAdj p 8)

/-- SYNC_TIMER: SYNC_REQ to the time master. -/
def execSyncTimer (s : State) : Res :=
  let m := s.master
  .next (if !s.fabUp || m = s.fab.pos then s
    else
      let p := (s.peer m).port
      let t1 := s.stampTx p
      (s.onPort p (fun x => { x with lastTreq := some t1, spoiled := false })).linkSend p (mkFlit 0x18 s.fab.pos 0 0 1 0 0 0 t1 0 []))

/-- SYNC_REQ: answered with the arrival and the departure time. -/
def execSyncReq (port : Fin 8) (s : State) : Res :=
  .next (match s.takeInbox port (· == 0x18) with
    | none => s
    | some (r, s1) =>
      if !s.fabUp then s
      else s1.linkSend port (mkFlit 0x19 s.fab.pos 0 r.flit.tag 1 0 0 0 (s.stampRx port r) (s.stampTx port) []))

/-- A synced block steers its rate too: by how much, within the limit, is a free value (R323, log entry 129). -/
def State.steer (s : State) : State :=
  s.draw.2.onFab (fun x => { x with rate := ((s.draw.1.toNat % 1001 : Nat) : Int) - 500 })

/-- An exchange gives an offset: the block steps, or steers, its board time (R323). -/
def State.applyOffset (s : State) (off : Int) : State :=
  let s0 := { s with pwr := { s.pwr with syncs := s.pwr.syncs + 1 } }
  let s1 := (s0.setRf 0x600040 63 32 ((BitVec.ofInt 32 off).toNat)).setRf 0x600040 0 0 1
  if s.fab.synced then
    let s2 := (s1.onFab (fun x => { x with slewing := 100000 * off })).steer
    if off > 1000 || off < -1000 then s2.event 9 else s2
  else if s.fab.created then s1.onFab (fun x => { x with synced := true, slewing := 100000 * off })
  else { s1 with time := s1.time + w64i off, fab := { s1.fab with synced := true } }

/-- SYNC_RSP: the offset is ((t2 − t1) − (t4 − t3)) ÷ 2; an exchange that met a replay or a lost link is discarded. -/
def execSyncRsp (port : Fin 8) (s : State) : Res :=
  .next (match s.takeInbox port (· == 0x19) with
    | none => s
    | some (r, s1) =>
      if !s.fabUp then s else
      let x := s.port port
      let s2 := s1.onPort port (fun x => { x with lastTreq := none, spoiled := false })
      match x.lastTreq with
      | none => s1
      | some t1 =>
        if x.spoiled then s2
        else
          let t4 := s.stampRx port r
          s2.applyOffset ((((r.flit.w2 - t1).toInt) - ((t4 - r.flit.w3).toInt)) / 2))

/-! ### The lasers' side-band (R303, Table 14.2) -/

/-- Whether another physical lane can still take over in the transmit direction. -/
def State.txSpare (s : State) (p : Nat) : Bool :=
  let x := s.port p
  s.portLanes.any (fun n => !x.txMap.contains n && !x.txBad.contains n)

/-- A source that reports a fault is a failed lane of this port's transmit direction; where the lane is active and no usable spare is left,
the link goes down (R303, R313). -/
def State.sourceFault (s : State) (p n : Nat) : State :=
  let new := !(s.port p).txBad.contains n
  let s1 := (s.onPort p (fun x => { x with
    sources := Sparse.put 0 x.sources n (Sparse.get 0 x.sources n % 2 + 2)
    txBad := if new then x.txBad ++ [n] else x.txBad })).adviseLanes p
  if new && (s.port p).locked && (s.port p).txMap.contains n && !s1.txSpare p then s1.linkDown p else s1

/-- One exchange: the command leaves, where the block has not sent it already on its own; a reply that is not OK under the operation asked
counts as module fault. -/
def State.sideBand (s : State) (p op n value : Nat) (r : LaserReply) (f : State → State) : State :=
  if !s.fabUp then s else
  let s1 := if (s.port p).asked.contains (op, n) then s.onPort p (fun x => { x with asked := x.asked.erase (op, n) })
    else s.send (.laser p (laserCmd op n value))
  if r.op.toNat = op && r.status = 0 then f s1
  else if r.status = 1 || r.status = 3 then s1
  else s1.sourceFault p n

def execIdent (port : Fin 8) (source : Fin 36) (reply : LaserReply) (s : State) : Res :=
  .next (s.sideBand port 1 source 0 reply (fun s => s))
/-- STATUS: lit as reported; a fault fails the lane. -/
def execStatus (port : Fin 8) (source : Fin 36) (reply : LaserReply) (s : State) : Res :=
  .next (s.sideBand port 2 source 0 reply (fun s =>
    let s1 := s.onPort port (fun x => { x with
      sources := Sparse.put 0 x.sources source (Sparse.get 0 x.sources source / 2 * 2 + b2n (bit reply.value 0)) })
    if bit reply.value 1 then s1.sourceFault port source else s1))
def execSetPower (port : Fin 8) (source : Fin 36) (value : BitVec 16) (reply : LaserReply) (s : State) : Res :=
  .next (s.sideBand port 3 source value.toNat reply (fun s => s))
/-- LIGHT: the source is lit, or dark. -/
def execLight (port : Fin 8) (source : Fin 36) (lit : Bool) (reply : LaserReply) (s : State) : Res :=
  .next (s.sideBand port 4 source (b2n lit) reply (fun s =>
    s.onPort port (fun x => { x with
      sources := Sparse.put 0 x.sources source (Sparse.get 0 x.sources source / 2 * 2 + b2n lit) })))
def execReadPower (port : Fin 8) (source : Fin 36) (reply : LaserReply) (s : State) : Res :=
  .next (s.sideBand port 5 source 0 reply (fun s => s))
def execReadTemp (port : Fin 8) (source : Fin 36) (reply : LaserReply) (s : State) : Res :=
  .next (s.sideBand port 6 source 0 reply (fun s => s))

/-- LASER_REPLY_TIMEOUT: counts as module fault. -/
def execLaserReplyTimeout (port : Fin 8) (source : Fin 36) (s : State) : Res :=
  .next (if s.fabUp then
      (s.onPort port (fun x => { x with asked := x.asked.eraseP (fun y => y.2 == source.val) })).sourceFault port source
    else s)

/-- LASER_FAULT_EDGE: STATUS goes to every lit source. -/
def execLaserFaultEdge (port : Fin 8) (s : State) : Res :=
  .next (if !s.fabUp then s else
    s.forEach (((s.port port).sources.filter (fun x => x.2 % 2 == 1)).map (·.1)) (fun n s =>
      s.laserAsk port 2 n 0))

end Sys2Proof.Machine
end

