-- ==== Sys2Proof/Machine/Power.lean ====
section
/-! DEFINITION. Resets, power, clocks and thermal limits (19_ports_clocks_power_reset.md R413 to R431; Table 19.4). -/

namespace Sys2Proof.Machine

/-! ### What a block-wide reset clears and keeps (Table 19.4) -/

/-- The always-on registers (R428), but for FLT_FATAL, which a cold reset clears (21 Table 21.7). -/
def alwaysOn (k : Nat) : Bool :=
  decide (0x10000 ≤ k ∧ k < 0x20000) || k == 0x30100 || k == 0x30108 || k == 0x30118 || k == 0x30120

/-- Registers that a warm reset keeps besides: FLT_FATAL, the counters CNT_FLT_ and CNT_SEC_ (18 R398), TIER_DIRECT_SIZE, and the place
and pointers of the trace ring. -/
def warmKept (k : Nat) : Bool :=
  alwaysOn k || k == 0x30110 || k == 0x400028 || decide (0x40018 ≤ k ∧ k < 0x40028) || k == 0x40030 || k == 0x40038 ||
    decide (0x48000 ≤ k ∧ k < 0x48060) || decide (0x48080 ≤ k ∧ k < 0x480B8) || decide (0x4C000 ≤ k ∧ k < 0x4D100) ||
    decide (0x4E000 ≤ k ∧ k < 0x4F000)

/-- RST_STATUS: cause and state. -/
def State.rstStatus (s : State) (cause st : Nat) : State := s.setReg 0x10008 (w64 (cause * 256 + st))
def State.rstState (s : State) : Nat := s.rf 0x10008 3 0
def State.phase (s : State) : Nat := s.rf 0x10020 3 0

/-- The power unit as a reset leaves it: the inputs stay as they are, the rod clock is nominal, the outputs are at their clamps. -/
def Power.afterReset (x : Power) (warm unlock : Bool) : Power :=
  { Power.init with
    pg := x.pg, rstN := x.rstN, heldSince := x.heldSince, thermAlert := x.thermAlert, vrhot := x.vrhot,
    thermtrip := x.thermtrip && warm, warm := warm, unlock := unlock, syncs := if warm then x.syncs else 0 }

/-- The test unit as a reset leaves it: the TAP and the wrapper have resets of their own. -/
def Test.afterReset (x : Test) : Test := { Test.init with ir := x.ir, wir := x.wir, cells := x.cells, scan := x.scan }

/-- The fabric unit as a warm reset leaves it: position and board time's steering stay. -/
def Fabric.afterWarm (x : Fabric) : Fabric :=
  { Fabric.init with
    pos := x.pos, synced := x.synced, created := x.created, slewing := x.slewing, rate := x.rate, frac := x.frac }

/-- A cold reset begins. -/
def State.coldClear (s : State) : State :=
  let recs := s.flt.fuseRecs
  let s1 : State := { State.reset with
    pending := s.pending, free := s.free, design := s.design, time := s.time, out := s.out
    regs := s.regs.filter (fun e => alwaysOn e.1)
    sec := { Security.init with tstDone := s.sec.tstDone, lifecycle := if s.sec.tstDone then 1 else 0 }
    flt := { Faults.init with fuseRecs := recs, retired := recRods recs, noCreate := s.flt.noCreate }
    pwr := s.pwr.afterReset false false
    tst := s.tst.afterReset }
  ((s1.setReg 0x10238 0).setRf 0x10200 11 8 0)

/-- A warm reset begins; one that a debug token starts also zeroes the memories and enters DEBUG (16 R367). -/
def State.warmClear (s : State) (unlock : Bool) : State :=
  { State.reset with
    pending := s.pending, free := s.free, design := s.design, time := s.time, out := s.out
    regs := s.regs.filter (fun e => warmKept e.1)
    hbm := if unlock then [] else s.hbm
    hbmPoison := if unlock then [] else s.hbmPoison
    boot := if unlock then [] else s.boot
    tier := { Tier.init with ilKey := s.tier.ilKey, directGib := s.rf 0x400028 4 0 }
    fab := s.fab.afterWarm
    sec := { Security.init with
      tstDone := s.sec.tstDone, lifecycle := if unlock then 2 else s.sec.lifecycle, bad := s.sec.bad }
    flt := { Faults.init with
      spareMap := s.flt.spareMap, retired := s.flt.retired, noFrames := s.flt.noFrames, noCreate := s.flt.noCreate
      fuseRecs := s.flt.fuseRecs, chMap := s.flt.chMap, spareUsed := s.flt.spareUsed
      lostCh := if unlock then [] else s.flt.lostCh, hbmClean := if unlock then [] else s.flt.hbmClean }
    pwr := s.pwr.afterReset true unlock
    tst := s.tst.afterReset }

/-- RST_STATUS, RST_BOOT_PHASE and RST_BOOT_CAUSE as a reset starts. -/
def State.startReset (s : State) (cause st : Nat) : State := ((s.rstStatus cause st).setReg 0x10020 0).setReg 0x10028 0

/-- A cold reset, held or not. -/
def State.coldReset (s : State) (cause : Nat) (held : Bool) : State :=
  let s1 := s.coldClear.startReset cause (if held then 1 else 2)
  if held then { s1 with pwr := { s1.pwr with heldSince := s.time } } else s1
def State.warmReset (s : State) (cause : Nat) (unlock : Bool) : State := (s.warmClear unlock).startReset cause 3

/-- The start-up sequence begins (R430). -/
def State.startUp (s : State) : State :=
  { (s.setRf 0x10008 3 0 4).setReg 0x10020 1 with pwr := { s.pwr with phaseAt := s.time } }

/-! ### Reset inputs -/

/-- POWER_ON: everything clears but the fuses; board time restarts at 0, not synced. -/
def execPowerOn (s : State) : Res :=
  .next { State.reset with
    pending := s.pending, free := s.free, design := s.design, out := s.out
    sec := { Security.init with tstDone := s.sec.tstDone, lifecycle := if s.sec.tstDone then 1 else 0 }
    flt := { Faults.init with fuseRecs := s.flt.fuseRecs, retired := recRods s.flt.fuseRecs } }

/-- RST_N_ASSERT: recognised; a held cold reset begins, of cause thermal trip where PWR_TRIP is latched. A block held already stays in
the one reset. -/
def execRstNAssert (s : State) : Res :=
  .next (if s.pwr.rstN then s
    else
      let s1 := { s with pwr := { s.pwr with rstN := true, heldSince := s.time } }
      if s.rstState = 1 then s1
      else (s1.coldReset (if bit (s.rd 0x10238) 0 then 4 else 2) true).setReg 0x10010 0)

/-- RST_N_RELEASE: recognised; start-up begins once every power-good input has been high long enough (R422). -/
def execRstNRelease (s : State) : Res :=
  .next (if !s.pwr.rstN then s
    else
      let s1 := { s with pwr := { s.pwr with rstN := false } }
      if s.rstState = 1 && s.pwr.pg = 0xF then s1.startUp else s1)

/-- POWER_GOOD_STABLE: every power-good input has been high for 16 ticks; a held block whose cx_rst_n is released starts up. -/
def execPowerGoodStable (s : State) : Res :=
  let s1 := { s with pwr := { s.pwr with pg := 0xF } }
  .next (if s.rstState = 1 && !s.pwr.rstN then s1.startUp else s1)

/-- RST_GLITCH: ignored and counted; the count saturates (R429). -/
def execRstGlitch (s : State) : Res := .next (s.setReg 0x10018 (w64 (min 0xFFFF ((s.rd 0x10018).toNat + 1))))

/-- PG_LOST: a block that is out of reset records which input fell and starts a cold reset, held until power is good again (R423). -/
def execPgLost (mask : BitVec 4) (s : State) : Res :=
  let s1 := { s with pwr := { s.pwr with pg := s.pwr.pg &&& ~~~mask } }
  .next (if mask = 0 || s.rstState = 1 then s1
    else (s1.coldReset 3 true).setRf 0x10200 11 8 mask.toNat)

/-- A write of RST_CTRL: ignored while a block-wide reset is in progress; COLD only from the management port; COLD goes before WARM. -/
def State.rstCtrl (s : State) (mgmt : Bool) (v : W64) : State :=
  if s.rstState = 1 || s.rstState = 2 || s.rstState = 3 then s
  else if bit v 0 && mgmt then s.coldReset 5 false
  else if bit v 1 then s.warmReset 6 false
  else s

/-- COLD: the cold bit, written at the management port. -/
def execCold (s : State) : Res := .next (s.rstCtrl true 1)
/-- WARM: the warm bit. -/
def execWarm (s : State) : Res := .next (s.rstCtrl false 2)

/-! ### Clocks and thermal limits (R424, R426, R427) -/

/-- The sensors are read and the rod clock runs. -/
def State.powered (s : State) : Bool := (s.rstState == 0 || s.rstState == 4) && !s.dbg.frozen && !s.flt.frozen

/-- cx_vid for a rod clock (the fused table that PWR_VF reports); only codes 20 to 80 are ever driven. -/
def vidFor (freq : Nat) : Nat := max 20 (min 80 (bits (Config.fuse (16 + (freq - 10))) 6 0))

/-- cx_vid moves towards its goal, by at most 4 in any 1 µs; a step up counts its 20 µs from the last move. -/
def Power.vidStep (x : Power) (now : W64) : Power :=
  if x.vid = x.vidGoal || decide (now.toNat < x.vidAt.toNat + 1000) then x
  else { x with
    vid := if x.vid < x.vidGoal then min x.vidGoal (x.vid + 4) else max x.vidGoal (x.vid - 4)
    vidAt := now, raising := x.raising.map (fun r => (r.1, now)) }

/-- The rod clock steps down at once, and the voltage code goes down after it; the first step of a throttle raises THERMAL. -/
def State.stepDown (s : State) (f : Nat) : State :=
  if s.pwr.freq ≤ f then s
  else
    let s1 := { s with pwr := { s.pwr with freq := f, vidGoal := vidFor f, raising := none, lastStep := some s.time, warned := true } }
    if s.pwr.warned then s1 else s1.event 2

/-- A step of a warning: 100 MHz, no lower than 1.0 GHz, every 100 µs. -/
def State.warnStep (s : State) : State :=
  let due := match s.pwr.lastStep with | some t => decide (t.toNat + 100000 ≤ s.time.toNat) || !s.pwr.warned | none => true
  if due && decide (10 < s.pwr.freq) then s.stepDown (s.pwr.freq - 1) else s

/-- The highest rod clock that the regulator admits. -/
def Power.ceiling (x : Power) : Nat := if x.vrhot then 15 else 20

/-- A step up begins: cx_vid is raised, and CLOCK_STEP follows (R424). -/
def State.raiseStep (s : State) : State :=
  let due := match s.pwr.lastStep with | some t => decide (t.toNat + 1000000 ≤ s.time.toNat) | none => true
  if due && s.pwr.raising.isNone && decide (s.pwr.freq < s.pwr.ceiling) then
    { s with pwr := { s.pwr with raising := some (s.pwr.freq + 1, s.time), vidGoal := max s.pwr.vidGoal (vidFor (s.pwr.freq + 1)) } }
  else s

/-- The index and reading of the hottest sensor, the lowest index first. -/
def hottest : List Int → Nat → Nat × Int → Nat × Int
  | [], _, m => m
  | t :: r, i, m => hottest r (i + 1) (if m.2 < t then (i, t) else m)

/-- THERMAL_SAMPLE: readings in 0.1 °C, mean power over 1 ms in W, and the two alert inputs as synchronised (true: low). -/
def execThermalSample (temps : List Int) (watts : Nat) (alert vrhot : Bool) (s : State) : Res :=
  let h := hottest temps 0 (0, temps.headD 0)
  let warnAt : Int := 10 * (s.rf 0x10220 6 0 : Int)
  let s1 := ({ s with pwr := { s.pwr with thermAlert := alert, vrhot := vrhot } }).setReg 0x10230
    (w64 (h.1 % 128 * 65536 + (BitVec.ofInt 16 h.2).toNat))
  let s2 := if vrhot then s1.stepDown 15 else s1
  let cool := if h.2 ≤ warnAt - 30 then (match s.pwr.coolSince with | some t => some t | none => some s.time) else none
  .next (if !s.powered then s
    else if h.2 > warnAt || alert || watts > min (s.rf 0x10218 11 0) s.design.maxPower then ({ s2 with pwr := { s2.pwr with coolSince := none } }).warnStep
    else
      let s3 := { s2 with pwr := { s2.pwr with coolSince := cool } }
      match cool with
      | some t => if t.toNat + 1000000 ≤ s.time.toNat then s3.raiseStep else s3
      | none => s3)

/-- The group release begins: the groups of eight frames of a partition but the first wait for GROUP_RELEASE; what a launch's stagger still
holds ends (R425, 10 R246). -/
def State.holdGroups (s : State) (p : Nat) : State :=
  let g := ceilDiv ((s.rodsOf p).length / 8) 8
  s.onPart p (fun x => { x with groups := [], starts := (List.range (g - 1)).map (· + 1), startAt := s.time })

/-- A throttle is over: the partitions that run start under the group release (R425; when a throttle that lowered the load is over is
DEDUCED, log entry 128). -/
def State.throttleOver (s : State) : State :=
  s.forEach ((List.range 16).filter (fun p => decide ((s.part p).st = .running))) (fun p s => (s.holdGroups p).startPart p)

/-- CLOCK_STEP: 20 µs after the code it needs was reached, the rod clock follows (R424). -/
def execClockStep (s : State) : Res :=
  .next (match s.pwr.raising with
    | some (f, t) =>
      if s.powered && s.pwr.vid == s.pwr.vidGoal && decide (t.toNat + 20000 ≤ s.time.toNat) then
        let s1 := { s with pwr := { s.pwr with
          freq := f, raising := none, lastStep := some s.time, warned := s.pwr.warned && decide (f < 20) } }
        if s.pwr.warned && decide (20 ≤ f) then s1.throttleOver else s1
      else s
    | none => s)

/-- VRHOT: cx_vrhot_n falls. -/
def execVrhot (s : State) : Res :=
  let s1 := { s with pwr := { s.pwr with vrhot := true } }
  .next (if s.powered then s1.stepDown 15 else s1)

/-- THERM_ALERT: cx_therm_alert_n falls. -/
def execThermAlert (s : State) : Res :=
  let s1 := { s with pwr := { s.pwr with thermAlert := true, coolSince := none } }
  .next (if s.powered then s1.warnStep else s1)

/-- Each RUNNING partition becomes HELD, to resume by itself (17 R390). -/
def State.haltParts (s : State) : State :=
  s.forEach (List.range 16) (fun p s =>
    if (s.part p).st = .running then s.onPart p (fun x => { x with st := .held, hold := 2, haltHeld := true }) else s)

/-- THERMTRIP: the hottest reading has reached PWR_THERM_TRIP (R427). -/
def execThermtrip (s : State) : Res :=
  let t := signedOf 16 (s.rf 0x10230 15 0)
  .next (if s.powered && !s.pwr.thermtrip && decide (10 * (s.rf 0x10228 6 0 : Int) ≤ t) then
      ((({ s.haltParts with pwr := { s.pwr with thermtrip := true } }).stepDown 10).setReg 0x10238 1).event 3
    else s)

/-! ### The current-slew governor (R425) -/

/-- GOVERNOR_TICK: whether filler runs in these 10 ns; it changes nothing but its counter. -/
def execGovernorTick (filler : Bool) (s : State) : Res :=
  .next (if s.powered then
      let s1 := { s with pwr := { s.pwr with filler := filler } }
      if filler then s1.bump (cntBlk 32) 10 else s1
    else s)

/-- GROUP_RELEASE: 1.25 µs after the last group, the next group of eight frames starts. -/
def execGroupRelease (p : Fin 16) (s : State) : Res :=
  .next (match (s.part p).starts with
    | [] => s
    | _ :: r =>
      if s.live && !s.stalled && decide ((s.part p).startAt.toNat + 1250 ≤ s.time.toNat) then
        ((s.onPart p (fun x => { x with starts := r, startAt := x.startAt + 1250 })).bump (cntBlk 34) 1250).startPart p
      else s)

end Sys2Proof.Machine
end

