-- ==== Sys2Proof/Machine/Boot.lean ====
section
/-! DEFINITION. The start-up sequence (20_bringup_and_test.md R435 to R442, Table 20.1). -/

namespace Sys2Proof.Machine

/-- A phase is in progress and has not failed. -/
def State.inPhase (s : State) (k : Nat) : Bool := s.rstState == 4 && s.phase == k && s.rd 0x10028 == 0

/-- The next phase starts. -/
def State.enter (s : State) (k : Nat) : State :=
  { s.setReg 0x10020 (w64 k) with pwr := { s.pwr with phaseAt := s.time } }

/-- The phase cannot complete (R440). -/
def State.bootFail (s : State) (cause : Nat) : State := s.setReg 0x10028 (w64 cause)

/-- FLT_FATAL and the FATAL event. -/
def State.fatal (s : State) (cause detail : Nat) : State :=
  (s.setReg 0x30110 (w64 (2 ^ 63 + detail % 256 * 256 + cause))).event 0

/-- CLOCKS: fuses; board position on a cold reset only; the PLLs lock and cx_vid carries the code of the nominal clock. After a COLD or
WARM write this phase begins when the reset itself is over. -/
def execClocks (boardPos : Fin 8) (s : State) : Res :=
  let s0 := if s.rstState = 2 || s.rstState = 3 then s.startUp else s
  .next (if s0.inPhase 1 then
      let s1 := { s0 with pwr := { s0.pwr with
        vid := vidFor s0.pwr.freq, vidGoal := vidFor s0.pwr.freq, vidAt := s.time } }
      (if s0.pwr.warm then s1 else s1.onFab (fun x => { x with pos := boardPos })).enter 2
    else s)

/-- SRAM: repairs are applied, every SRAM is tested and zeroed; a test part stops here (R443). -/
def execSram (repairable : Bool) (s : State) : Res :=
  .next (if !s.inPhase 2 then s
    else if !repairable then s.bootFail 1
    else
      let s1 := { s with
        bead := [], beadPoison := [], imem := [], rods := [], slate := []
        flt := { s.flt with repairs := [], kept := [] } }
      s1.enter (if s.sec.tstDone then 3 else 0xD))

/-- KEYS: the seal key, FLT_JRNL_KEY and, on a cold reset, the interleave keys are drawn (R435). -/
def execKeys (s : State) : Res :=
  .next (if !s.inPhase 3 then s
    else
      let a := s.drawMany 4
      let b := a.2.drawMany 2
      let s1 := { b.2 with sec := { b.2.sec with sealKey := a.1, jrnlKey := b.1 } }
      if s.pwr.warm then s1.enter (if s.pwr.unlock then 5 else 6)
      else
        let c := s1.drawMany 3
        ({ c.2 with tier := { c.2.tier with ilKey := c.1 } }).enter 4)

/-- HBM: every stack of the configuration trains; FLT_CH_MAP comes from the field fuse bank. -/
def execHbm (trained : List Bool) (s : State) : Res :=
  .next (if !s.inPhase 4 then s
    else match (List.range s.design.stacks).find? (fun k => !nth false trained k) with
      | some k => (s.fatal 3 k).bootFail 2
      | none =>
        let m := recChans s.flt.fuseRecs
        ({ s with flt := { s.flt with chMap := m, spareUsed := (m.map (fun (x : Nat × Nat) => x.1 / 32)).eraseDups } }).enter 5)

/-- IMAGE: the boot ROM waits for a Penub image; the writes of BEAM_IMG_ADDR, BEAM_IMG_DATA and BEAM_IMG_GO are what happens. -/
def execImage (s : State) : Res := .next s

/-! ### The Penub image (R436) -/

def State.imgAddr (s : State) (v : W64) : State × Bool :=
  if !s.inPhase 5 then (s, true)
  else if v.toNat ≥ 2 ^ 24 || v.toNat % 8 ≠ 0 then (s, false)
  else (s.setReg 0x1000 v, false)

/-- Eight image bytes at the offset, which advances; a write that would pass 16 MiB is refused. -/
def State.imgData (s : State) (v : W64) : State × Bool :=
  let o := (s.rd 0x1000).toNat
  if !s.inPhase 5 || o + 8 > 2 ^ 24 then (s, true)
  else (({ s with boot := s.boot.write64 o v }).setReg 0x1000 (w64 (o + 8)), false)

def State.imgGo (s : State) (v : W64) : State × Bool :=
  if !s.inPhase 5 then (s, true) else if bit v 0 then (s.enter 6, false) else (s, false)

/-- The management port's response. -/
def State.mgmtReply (x : State × Bool) : State := x.1.send (.mgmt 0 x.2)

def execBeamImgAddr (v : W64) (s : State) : Res := .next (State.mgmtReply (s.imgAddr v))
def execBeamImgData (v : W64) (s : State) : Res := .next (State.mgmtReply (s.imgData v))
def execBeamImgGo (v : W64) (s : State) : Res := .next (State.mgmtReply (s.imgGo v))

/-- The bytes of the image in the boot area: header and code. -/
def State.bootBytes (s : State) (off len : Nat) : List Byte := s.boot.readN off len
def State.imgLen (s : State) : Nat := bits (s.boot.read64 8) 31 0

/-- R438: whether the boot ROM accepts the image. -/
def State.imageOk (s : State) : Bool :=
  let w0 := s.boot.read64 0
  let len := s.imgLen
  let key := s.bootBytes 64 96
  bits w0 63 32 == 0x50454E42 && bits w0 31 16 == 1 && decide (bits (s.boot.read64 8) 63 32 < len) && decide (len ≤ 2 ^ 24 - 256) &&
    decide (bits Config.firmwareSvn 7 0 ≤ bits w0 15 0) && Config.sha384 (s.bootBytes 256 len) == s.bootBytes 16 48 &&
    Config.ecdsaVerify key (s.bootBytes 0 160) (s.bootBytes 160 96) && Config.sha384 key == Config.imageKey

/-- AUTH: the image is verified; the first failure returns to IMAGE, the second stops the sequence (R440). -/
def execAuth (s : State) : Res :=
  .next (if !s.inPhase 6 then s
    else if s.imageOk then
      ({ s with sec := { s.sec with image := Config.sha384 (s.bootBytes 0 (256 + s.imgLen)) } }).enter 7
    else if s.pwr.authRetried then s.bootFail 3
    else ({ s with pwr := { s.pwr with authRetried := true } }).enter 5)

/-- BEAM: the pairs that start; master is the first that does, the other stands by; the beam journal is initialised (R387). -/
def execBeam (pairA pairB : Bool) (s : State) : Res :=
  .next (if !s.inPhase 7 then s
    else if !pairA && !pairB then s.bootFail 4
    else
      let s1 := ({ s with flt := { s.flt with
        masterB := !pairA, standby := pairA && pairB, failedOver := false, beam := some []
        stopped := (if pairA then [] else [false]) ++ (if pairB then [] else [true]) } }).enter 8
      if pairA && pairB then s1 else s1.advise 5)

/-- RODS: rods that fail their self-test are retired, the spare map is built, every rod is zeroed; LINKS then lights the ports. -/
def execRods (failing : List Nat) (s : State) : Res :=
  .next (if !s.inPhase 8 then s
    else
      let s1 := (s.forEach (failing.filter (· < s.design.physRods)) (fun n s => s.retireRod n)).buildMap.adviseRods
      let s2 := { s1 with rods := [], bead := [], beadPoison := [], imem := [] }
      if (List.range (s.design.rods / 8)).all (fun f => s2.flt.noFrames.contains f) then s2.bootFail 5 else s2.enter 9)

/-- Whether an enabled port's partner is PRESENT or REFUSED. -/
def State.portSettled (s : State) (p : Nat) : Bool :=
  !s.portEnabled p || (List.range 8).any (fun k => ((s.peer k).st == 3 || (s.peer k).st == 5) && (s.peer k).port == p)

/-- LINKS: every enabled port is lit; the phase ends when each is settled, or after FAB_DISC_WAIT. -/
def execLinks (s : State) : Res :=
  let lit := s.forEach (List.range 8) (fun p s =>
    if s.portEnabled p && (s.port p).train = .dark && (s.port p).darkUntil.isNone then s.portProbe p else s)
  .next (if !s.inPhase 9 then s
    else if (List.range 8).all s.portSettled || s.pwr.phaseAt.toNat + s.rf 0x600038 9 0 * 1000000 ≤ s.time.toNat then lit.enter 0xA
    else lit)

/-- SYNC: at once where synced, where the block is its own time master or no peer is linked; else after three exchanges (R439). -/
def execSync (s : State) : Res :=
  .next (if s.inPhase 0xA && ((s.pwr.warm && s.fab.synced) || s.master == s.fab.pos || decide (3 ≤ s.pwr.syncs)) then s.enter 0xB else s)

/-- cx_present rises: every tenant is DETACHED, and the block returns its inbound credits on each enabled channel (19 R417). -/
def State.raisePresent (s : State) : State :=
  if s.pwr.present then s
  else
    ({ s with pwr := { s.pwr with present := true } }).forEach (List.range 4) (fun c s =>
      if bit (s.rd 0x700000) c then s.setChan c { Chan.init with inPosted := 512, inNon := 128 } else s.setChan c Chan.init)

/-- HOST. -/
def execHost (s : State) : Res := .next (if s.inPhase 0xB then s.raisePresent.enter 0xC else s)

/-- PRESENT_RISE: the rise itself, within phase HOST. -/
def execPresentRise (s : State) : Res := .next (if s.inPhase 0xB then s.raisePresent else s)

/-- PRESENT_FALL: the block is not serving: cx_present falls first, then the host attach outputs are at their clamps; a message cut off
is never completed (19 R414). -/
def execPresentFall (s : State) : Res :=
  .next (if s.pwr.present && (s.dbg.frozen || s.flt.frozen || (s.rstState != 0 && s.rstState != 4)) then
      ({ s with pwr := { s.pwr with present := false } }).forEach (List.range 4) (fun c s => s.setChan c Chan.init)
    else s)

/-- READY: the block runs, and BOOT_DONE is raised. -/
def execReady (s : State) : Res := .next (if s.inPhase 0xC then (s.setRf 0x10008 3 0 0).event 11 else s)

/-- FAILED: the sequence stops; FATAL is raised, and FLT_FATAL says start-up failed unless a stack did (R440). -/
def execFailed (s : State) : Res :=
  .next (if s.rstState = 4 && s.rd 0x10028 ≠ 0 && s.phase ≠ 0xF then
      (if s.rd 0x10028 = 2 then s.event 0 else s.fatal 4 0).setReg 0x10020 0xF
    else s)

end Sys2Proof.Machine
end

