-- ==== Sys2Proof/Machine/Debug.lean ====
section
/-! DEFINITION. Debug, trace and counters (18_debug_and_counters.md R395 to R411): snapshots, occupancy and histograms, trace packets,
triggers, markers, freeze, rod access, the wait-for graph, the step watchdog. -/

namespace Sys2Proof.Machine

/-! ### Counters and snapshots (R395 to R398) -/

/-- Whether a counter lies at an offset. -/
def isCounter (off : Nat) : Bool := match regAt off with | some h => h.row.name == .counter | none => false

/-- Whether a register describes a unit that the configuration lacks: it reads zero and ignores writes (R2). -/
def State.absentReg (s : State) (h : RHit) (off : Nat) : Bool :=
  match h.row.name, h.idx with
  | .fltChMap, st :: _ => decide (s.design.stacks ≤ st)
  | .dbgRodExc, l :: _ => decide (s.design.rods ≤ l)
  | .dbgRodExc1, l :: _ => decide (s.design.rods ≤ l)
  | .dbgRodExc2, l :: _ => decide (s.design.rods ≤ l)
  | .counter, i :: _ =>
    if 0x48800 ≤ off && off < 0x49000 then decide (s.design.stacks ≤ i)
    else if 0x4C000 ≤ off && off < 0x4E000 then decide (s.design.physRods ≤ i)
    else if 0x4E000 ≤ off && off < 0x4F000 then decide (s.design.stacks ≤ i)
    else if 0x49000 ≤ off && off < 0x4A000 then decide (8 + 32 + s.design.spareLanes ≤ (off - 0x49000) % 0x200 / 8)
    else false
  | _, _ => false

/-- The bits of a register that describe units of the configuration: frames and lanes it lacks have none (R2). -/
def State.presentBits (s : State) (n : RegName) : W64 :=
  match n with
  | .seqPartFrames => w64 (2 ^ (s.design.rods / 8) - 1)
  | .fabPrbsCtrl => w64 (7 * 2 ^ 61 + (2 ^ (32 + s.design.spareLanes) - 1))
  | .fabPrbsLock => w64 (2 ^ (32 + s.design.spareLanes) - 1)
  | _ => BitVec.allOnes 64

/-- Whether the configuration has a counter at an offset. -/
def State.hasCounter (s : State) (off : Nat) : Bool :=
  match regAt off with | some h => h.row.name == .counter && !s.absentReg h off | none => false

/-- COUNTER_WRITE: the value is set, the overflow bit clears (R396). -/
def State.counterSet (s : State) (off : Nat) (v : W64) : State :=
  if s.hasCounter off then s.setReg off (w64 (bits v 47 0)) else s
def execCounterWrite (off : BitVec 24) (v : W64) (s : State) : Res := .next (if s.live then s.counterSet off.toNat v else s)

/-- The counters of a range, copied at a place of the shadow view. -/
def State.copyCounters (s : State) (lo hi at_ : Nat) : Sparse W64 :=
  (s.regs.filter (fun e => decide (lo ≤ e.1 ∧ e.1 < hi) && isCounter e.1)).map (fun e => (e.1 - lo + at_, e.2))

/-- A write of DBG_SNAP_CTRL: the shadow view takes the counters of the scope (R397, 21 R458). -/
def State.snapshot (s : State) (v : W64) : State :=
  let i := bits v 5 0
  let done (m : Sparse W64) : State := ({ s with dbg := { s.dbg with snap := m } }).setReg 0x40008 1
  match bits v 7 6 with
  | 0 => done (s.copyCounters 0x48000 0x50000 0 ++ s.copyCounters 0x60000 0x68000 0x8000)
  | 1 => if i < 16 then done (s.copyCounters (cntPart i 0) (cntPart i 0 + 0x1000) 0) else s
  | 2 => done (s.copyCounters (cntTen i 0) (cntTen i 0 + 0x2000) 0)
  | _ => s
def execDbgSnapCtrl (v : W64) (s : State) : Res := .next (if s.live then s.snapshot v else s)

/-! ### Occupancy and histograms (R399, R400) -/

/-- Sum over a partition's rods. -/
def State.sumRods (s : State) (p : Nat) (f : Rod → Nat) : Nat :=
  if (s.part p).st = .off then 0 else (s.rodsOf p).foldl (fun n l => n + f (s.rod (s.phys l))) 0

/-- Operations beyond the block that a gather engine has outstanding: row reads of its rods' gathers, and a pack's reads (08 R198). -/
def State.engineReads (s : State) (e : Nat) : Nat :=
  (s.fab.ops.filter (fun o => o.resp.isNone && (match o.use with
    | .gather ph _ => match (List.range s.design.rods).find? (fun l => s.phys l == ph) with | some l => engineOf l == e | none => false
    | .pack i => (s.slot i).part % 32 == e
    | _ => false))).length

/-- The occupancy of a source of Table 18.1. HBM commands are performed within a command, so none is queued between two. -/
def State.occupancy (s : State) (src i : Nat) : Nat :=
  match src with
  | 0 => s.sumRods i (fun r => r.queue.length)
  | 1 => s.sumRods i (fun r => r.rem.length)
  | 2 => s.sumRods i (fun r => r.mq.length)
  | 3 => s.engineReads i
  | 4 => (s.part i).streams.length
  | 5 => s.rods.foldl (fun n r => n + (r.2.rem.filter (fun o => o.kind == .sample || o.kind == .sampleEmpty)).length) 0
  | 6 => ((s.entriesOf i).filter (fun k => (s.slot k).eligible)).length
  | 7 => (s.ten i).cq.foldl (fun n c => n + (c.2.wr - c.2.head)) 0
  | 9 => (s.port i).inbox.foldl (fun n r => n + (if opChan r.flit.op = some .req then r.flit.size else 0)) 0
  | 10 => (s.reads.filter (fun r => r.ch == i)).length
  | 11 => (s.tier.queue.filter (fun c => c.w0.toNat / 2 ^ 21 % 16 == i)).length
  | _ => 0

/-- A write of DBG_HISTn: ignored out of range and while the engine is enabled, but for one that only disables it; enabling clears the
buckets (R400). -/
def State.setHist (s : State) (n : Nat) (v : W64) : State :=
  let off := 0x40200 + 8 * n
  let v := v &&& 0xCF0FFF1FFFFFFFFF#64
  if bits v 31 0 = 0 || bits v 36 32 > 20 || bits v 59 56 > 13 then s
  else if bit (s.rd off) 63 then (if v = setBits (s.rd off) 63 63 0 then s.setReg off v else s)
  else if bit v 63 then ({ s with regs := Sparse.clear s.regs (0x4B000 + 0x80 * n) (0x4B080 + 0x80 * n) }).setReg off v
  else s.setReg off v
def execDbgHist (n : Fin 8) (v : W64) (s : State) : Res := .next (if s.live then s.setHist n v else s)

/-- HISTOGRAM_SAMPLE: an enabled engine reads its source; an event source gives its samples at its events. -/
def execHistogramSample (n : Fin 8) (s : State) : Res :=
  let cfg := s.rd (0x40200 + 8 * n.val)
  .next (if s.live && bit cfg 63 && decide (bits cfg 59 56 < 12) then s.histAdd n (s.occupancy (bits cfg 59 56) (bits cfg 51 40)) else s)

/-! ### Trace packets (R402 to R405) -/

/-- One packet into the HBM ring: stop mode counts it as lost once the ring is full, wrap mode overwrites the oldest. -/
def State.ringPacket (s : State) (w0 : W64) : State :=
  let n := (s.rd 0x40020).toNat / 16
  let k := (s.rd 0x40030).toNat
  if n = 0 || (!bit (s.rd 0x40010) 6 && n ≤ k) then s.setReg 0x40038 (w64 (min (2 ^ 32 - 1) ((s.rd 0x40038).toNat + 1)))
  else ((s.hbmWrite64 ((s.rd 0x40018).toNat + 16 * (k % n)) w0).hbmWrite64 ((s.rd 0x40018).toNat + 16 * (k % n) + 8) s.time).setReg
    0x40030 (w64 (k + 1))

/-- A LOSS packet goes first where packets have been lost at the destination (R404). -/
def lossWord (n : Nat) : W64 := w64 (0xE * 2 ^ 60 + 3 * 2 ^ 58 + min n (2 ^ 32 - 1))
def State.toRing (s : State) (w0 : W64) : State :=
  if s.dbg.lostRing = 0 then s.ringPacket w0
  else (({ s with dbg := { s.dbg with lostRing := 0 } }).ringPacket (lossWord s.dbg.lostRing)).ringPacket w0
def State.toPort (s : State) (w0 : W64) : State :=
  if s.dbg.lostPort = 0 then s.send (.trace w0 s.time)
  else (({ s with dbg := { s.dbg with lostPort := 0 } }).send (.trace (lossWord s.dbg.lostPort) s.time)).send (.trace w0 s.time)

/-- The post counts after a packet: the trace stops, and the freezes come nearer (R405). -/
def Debug.packet (d : Debug) : Debug :=
  { d with
    post := (match d.post with | some (k + 2) => some (k + 1) | _ => none)
    stopped := (match d.post with | some k => decide (k ≤ 1) | none => d.stopped)
    freezing := d.freezing.map (fun x => (x.1, x.2.1, x.2.2 - 1)) }

/-- A packet goes to the destinations that DBG_TRACE_CTRL routes to. -/
def State.emitOne (s : State) (w0 : W64) : State :=
  let route := s.rf 0x40010 5 4
  if s.dbg.stopped || route = 0 then s
  else
    let s1 := if bit (w64 route) 0 then s.toRing w0 else s
    let s2 := if bit (w64 route) 1 then s1.toPort w0 else s1
    { s2 with dbg := s2.dbg.packet }

/-- A beam source's SYNC, whose beam address is a free value. -/
def State.beamSync (s : State) (b : Nat) : State := s.draw.2.emitOne (w64 (2 ^ 60 + b * 2 ^ 58 + s.draw.1.toNat % 2 ^ 48))

/-- A packet is emitted; after a LOSS, each beam source that is traced emits a SYNC (R402, R404). -/
def State.emit (s : State) (w0 : W64) : State :=
  let route := w64 (s.rf 0x40010 5 4)
  let lost := !s.dbg.stopped && ((bit route 0 && s.dbg.lostRing != 0) || (bit route 1 && s.dbg.lostPort != 0))
  let s1 := s.emitOne w0
  if lost then s1.forEach ([0, 1].filter (fun b => bit (s.rd 0x40010) b)) (fun b s => s.beamSync b) else s1

/-- A write of DBG_TRACE_CTRL. Each beam source that it starts emits a SYNC. -/
def State.traceCtrl (s : State) (v : W64) : State :=
  let old := s.rd 0x40010
  let v := v &&& 0x7F#64
  let s1 := s.setReg 0x40010 v
  let s2 := if bits v 3 0 ≠ 0 && bits old 3 0 = 0 then { s1 with dbg := { s1.dbg with stopped := false, post := none } } else s1
  s2.forEach [0, 1] (fun b s =>
    if bit v b && (!bit old b || bits old 5 4 = 0) && bits v 5 4 ≠ 0 then
      s.beamSync b
    else s)

/-- TRACE_LOSS: a packet finds its destination's FIFO full (R404). -/
def execTraceLoss (port : Bool) (s : State) : Res :=
  let on := !s.dbg.stopped && bit (s.rd 0x40010) (if port then 5 else 4)
  .next (if !s.live || !on then s
    else if port then { s with dbg := { s.dbg with lostPort := s.dbg.lostPort + 1 } }
    else { s with dbg := { s.dbg with lostRing := s.dbg.lostRing + 1 } })

/-! ### Markers (R406) -/

/-- A marker enters the trace where its source is enabled: origin 0 Penub, 1 rod, 2 tenant; triggers on its value come due. -/
def State.marker (s : State) (origin ten part rod value : Nat) : State :=
  if !bit (s.rd 0x40010) (if origin = 2 then 3 else 2) then s
  else
    (s.emit (w64 (8 * 2 ^ 60 + 2 * 2 ^ 58 + origin * 2 ^ 56 + ten % 64 * 2 ^ 50 + part % 16 * 2 ^ 46 + rod % 512 * 2 ^ 37 +
      value % 2 ^ 32))).trigger 2 (fun n =>
        (w64 (value % 2 ^ 32) &&& w64 (s.rf (trigReg n 8) 31 0)) == (w64 (s.rf (trigReg n 8) 63 32) &&& w64 (s.rf (trigReg n 8) 31 0)))

def execDbgMark (v : W64) (s : State) : Res := .next (if s.live then s.marker 0 0 0 0 (bits v 31 0) else s)
def execTenMark (t : Fin 64) (v : W64) (s : State) : Res := s.tenWrite t (fun s => s.marker 2 t 0 0 (bits v 31 0))

/-! ### Triggers and freeze (R405, R407) -/

/-- A debug freeze takes effect in DEBUG only. -/
def State.freeze (s : State) : State :=
  if s.sec.lifecycle = 2 then { s with dbg := { s.dbg with frozen := true } } else s

/-- A trigger fires: TRIG, then its actions. -/
def State.fire (s : State) (n : Nat) : State :=
  let cfg := s.rd (trigReg n 0)
  let post := bits cfg 47 32
  let s1 := s.emit (w64 (0xF * 2 ^ 60 + 3 * 2 ^ 58 + n))
  let s2 := if bit cfg 57 then { s1 with dbg := { s1.dbg with
    stopped := s1.dbg.stopped || decide (post = 0), post := if post = 0 then none else some post } } else s1
  let s3 := if bit cfg 58 then s2.event 12 else s2
  if bit cfg 59 then { s3 with dbg := { s3.dbg with freezing := s3.dbg.freezing ++ [(n, s.time, post)] } } else s3

/-- TRIGGER_FIRE: the condition has held. Of two due, the lower-numbered trigger fires first. -/
def execTriggerFire (n : Fin 4) (s : State) : Res :=
  .next (if s.live && s.dbg.due.contains n.val && s.dbg.due.all (fun k => decide (n.val ≤ k)) then
      ({ s with dbg := { s.dbg with due := s.dbg.due.erase n } }).fire n
    else s)

/-- A software write of FIRE fires an enabled trigger of that kind. -/
def State.softFire (s : State) (n : Nat) : State :=
  if bit (s.rd (trigReg n 0)) 63 && s.rf (trigReg n 0) 62 60 = 3 then s.fire n else s
def execDbgTrigFire (n : Fin 4) (s : State) : Res := .next (if s.live then s.softFire n else s)

/-- TRIGGER_FREEZE: its post-count packets have been written, or 10 µs have passed. -/
def execTriggerFreeze (n : Fin 4) (s : State) : Res :=
  .next (match s.dbg.freezing.find? (fun x => x.1 == n.val) with
    | none => s
    | some x =>
      if s.live && (x.2.2 = 0 || decide (x.2.1.toNat + 10000 ≤ s.time.toNat)) then
        ({ s with dbg := { s.dbg with freezing := s.dbg.freezing.erase x } }).freeze
      else s)

/-- DBG_FREEZE. -/
def execDbgFreeze (v : W64) (s : State) : Res := .next (if s.live && bit v 0 then s.freeze else s)

/-! ### Rod access in DEBUG (R409) -/

/-- Eight bytes of a rod's state by space and index: bead memory, v and t by byte offset, the others by register index. -/
def State.rodPeek (s : State) (l space i : Nat) : W64 :=
  let ph := s.phys l
  let r := s.rod ph
  let pair (m : Sparse W32) : W64 := w64 ((Sparse.get 0 m (i / 4)).toNat + (Sparse.get 0 m (i / 4 + 1)).toNat * 2 ^ 32)
  match space with
  | 0 => w64 (leNat (s.beadRead ph i 8))
  | 1 => r.sget (i % 32)
  | 2 => pair r.v
  | 3 => s.sprRead ⟨l, ph, (s.partOf l).getD 0, r.pc, 0, 0, .nop, []⟩ i
  | 4 => w64 (b2n (r.pget (i % 8)))
  | 5 => w64 (r.cnt (i % 16)).toNat
  | 6 => pair r.t
  | _ => 0

def State.rodPoke (s : State) (l space i : Nat) (v : W64) : State :=
  let ph := s.phys l
  let pair : List W32 := [v.setWidth 32, (v >>> 32).setWidth 32]
  match space with
  | 0 => s.beadWrite ph i (leBytes 8 v.toNat)
  | 1 => s.onRod ph (fun r => r.sset (i % 32) v)
  | 2 => s.onRod ph (fun r => { r with v := putRun r.v (i / 4) pair })
  | 3 => if i = 8 then s.onRod ph (fun r => { r with astat := v.setWidth 2 }) else s
  | 4 => s.onRod ph (fun r => r.pset (i % 8) (bit v 0))
  | 5 => s.onRod ph (fun r => { r with c := Sparse.put 0 r.c (i % 16) (v.setWidth 32) })
  | 6 => s.onRod ph (fun r => { r with t := putRun r.t (i / 4) pair })
  | _ => s

/-- Indices that name eight bytes of a rod. -/
def rodIndexOk (space i : Nat) : Bool :=
  match space with
  | 0 => decide (i + 8 ≤ 0x400000)
  | 1 => decide (i < 32)
  | 2 => decide (i + 8 ≤ 32 * 256) && i % 8 == 0
  | 3 => decide (i < 0x30)
  | 4 => decide (i < 8)
  | 5 => decide (i < 16)
  | 6 => decide (i + 8 ≤ 8 * 4096) && i % 8 == 0
  | _ => false

/-- A write of DBG_ROD_ACCESS: with GO, eight bytes move to or from DBG_ROD_DATA where the rod's partition is HELD in DEBUG. -/
def State.rodAccess (s : State) (v : W64) : State :=
  let s1 := s.setReg 0x40080 (setBits v 63 63 0 &&& 0x7FFF0000003FFFFF#64)
  let l := bits v 61 53
  let space := bits v 52 48
  let i := bits v 21 0
  let open_ := match s.partOf l with | some p => decide ((s.part p).st = .held) && s.sec.lifecycle == 2 | none => false
  if !bit v 63 || !open_ || !rodIndexOk space i then s1
  else if bit v 62 then s1.rodPoke l space i (s.rd 0x40088)
  else s1.setReg 0x40088 (s.rodPeek l space i)
def execDbgRodAccess (v : W64) (s : State) : Res := .next (if s.live then s.rodAccess v else s)

/-! ### The wait-for graph (R410, R411) -/

def wfRod (l : Nat) : Nat := 2 ^ 28 + l
def wfCounter (l c : Nat) : Nat := 4 * 2 ^ 28 + 16 * l + c
def wfTarget (a : Nat) : Nat := 6 * 2 ^ 28 + a / 2 ^ 28 % 2 ^ 28
def wfNone : Nat := 0xF * 2 ^ 28

/-- A phase barrier or step-end counter that some rods have reached, and others have not. -/
def State.wfArrivals (s : State) (p kind : Nat) (reg : Nat) (here : List Nat) : List (List Nat) :=
  let n := s.rf (pReg p reg) 31 0
  let rods := s.rodsOf p
  if n = 0 || n ≥ rods.length then []
  else (rods.filter (fun l => !here.contains l)).map (fun l => [kind * 2 ^ 28 + p, wfRod l, 2, 0, rods.length, n])

/-- The pending producers of a counter: local asynchronous instructions, remote operations and extents that name it; for a local
instruction the reason code is a free value, as the spec gives none. -/
def State.wfProducers (s : State) (p l c : Nat) : List (List Nat) :=
  let r := s.rod (s.phys l)
  let loc := (r.mq ++ r.vq ++ r.cq).filter (fun e => e.cnt == some c)
  let rem := r.rem.filter (fun o => o.cnt == some c)
  let ext := ((List.range (s.part p).streams.length).filter (fun k =>
    match (s.part p).streams[k]? with | some x => x.extents.any (fun e => e.rod == l && e.cnt == c) | none => false))
  let far := s.rods.flatMap (fun x => x.2.rem.filter (fun o => o.kind == .taddR && adClass o.addr == 0 && o.done.isNone &&
    o.addr / 2 ^ 23 % 2 ^ 9 == l && o.addr / 2 ^ 22 % 2 == 1 && o.addr % 2 ^ 22 / 4 == c))
  let l1 := (if loc.isEmpty then [] else [[wfCounter l c, wfRod l, (Config.freeWord s.free).toNat % 256, 0, 0, 0]]) ++
    rem.map (fun o => [wfCounter l c, wfTarget o.addr, 4, o.addr, 0, 0]) ++
    far.map (fun o => [wfCounter l c, wfTarget o.addr, 4, o.addr, 0, 0]) ++
    ext.map (fun k => [wfCounter l c, 5 * 2 ^ 28 + k, 5, 0, 0, 0])
  if l1.isEmpty then [[wfCounter l c, wfNone, 6, 0, 0, 0]] else l1

/-- The edges of one rod: its WAIT, the producers of the counter it waits on, its oldest remote operation. -/
def State.wfRodEdges (s : State) (p l : Nat) : List (List Nat) :=
  let r := s.rod (s.phys l)
  (match r.issue with
    | .waiting _ c imm =>
      [wfRod l, wfCounter l c, 1, r.pc.toNat, (BitVec.ofInt 32 imm).toNat, (r.cnt c).toNat] :: s.wfProducers p l c
    | _ => []) ++
  (match r.rem with
    | o :: _ => [[wfRod l, wfTarget o.addr, 4, o.addr, 0, 0]]
    | [] => [])

def State.wfEdges (s : State) (p : Nat) : List (List Nat) :=
  s.wfArrivals p 2 0x100 (s.part p).atBarrier ++ s.wfArrivals p 3 0x108 (s.part p).atEnd ++ (s.rodsOf p).flatMap (s.wfRodEdges p)

/-- The latched state of a rod (R410). -/
def State.rodDebug (s : State) (p l : Nat) : RodDebug :=
  let r := s.rod (s.phys l)
  let blocked : Bool := ((RodInstr.decode (s.imem.read64 (2 ^ 17 * s.phys l + r.pc.toNat))).bind (fun i => i.op.unit)).any (fun x => r.full x.1)
  { rod := l
    issue :=
      if !r.raised.isEmpty || r.reported then 4
      else if (s.part p).opened.isNone || (s.part p).atEnd.contains l then 5
      else match r.issue with
        | .waiting _ _ _ => 1
        | .stealing _ _ _ => 3
        | _ => if blocked then 2 else 0
    wait := match r.issue with | .waiting k c imm => some (k, c, imm, r.cnt c) | _ => none
    pc := r.pc, depths := [r.mq.length, r.vq.length, r.cq.length], remote := r.rem.length
    oldest := r.rem.head?.map (fun o => (adClass o.addr, o.addr)) }

/-- The latched state of a partition: its rods, arrivals, uncompleted extents and outstanding gathers, and the graph that they give. -/
def State.wfLatch (s : State) (p : Nat) : WfgCapture :=
  let x := s.part p
  { part := p, step := s.openStep p, time := s.time, edges := s.wfEdges p
    rods := (s.rodsOf p).map (fun l => s.rodDebug p l)
    barrier := x.atBarrier, stepEnd := x.atEnd
    extents := (List.range x.streams.length).flatMap (fun k => match x.streams[k]? with
      | some y => y.extents.map (fun e => (k, e.rod, e.cnt)) | none => [])
    gathers := (s.rodsOf p).flatMap (fun l => ((s.rod (s.phys l)).rem.filter (·.kind == .gather)).map (fun o => (l, o.ord))) }

/-- Latch the debug state of a partition's rods. -/
def State.latchWfg (s : State) (p : Nat) : State :=
  { s with dbg := { s.dbg with capture := some (s.wfLatch p) }, free := s.free + 1 }

def wfFrom (e : List Nat) : Nat := nth 0 e 0
def wfTo (e : List Nat) : Nat := nth 0 e 1

/-- Edges that lead on: those into a node without an outgoing edge go, again and again; what is left holds a cycle. -/
def wfCyclic : List (List Nat) → Nat → List (List Nat)
  | l, 0 => l
  | l, k + 1 => wfCyclic (l.filter (fun e => l.any (fun f => wfFrom f == wfTo e))) k

/-- The verdict over the edges that both captures agree on: 1 cycle, 2 orphan wait, 3 remote sink, 0 none. -/
def wfVerdict (l : List (List Nat)) : Nat :=
  if !(wfCyclic l l.length).isEmpty then 1
  else if l.any (fun e => nth 0 e 2 == 6) then 2
  else if l.any (fun e => wfTo e / 2 ^ 28 == 6) then 3 else 0

/-- Table 18.3. -/
def wfWords (c : WfgCapture) (verdict : Nat) : List W64 :=
  [w64 c.step, w64 (verdict * 2 ^ 60 + c.part * 2 ^ 56 + c.edges.length), c.time, 0] ++
    c.edges.flatMap (fun e => [w64 (nth 0 e 0 * 2 ^ 32 + nth 0 e 1), w64 (nth 0 e 2 % 256 * 2 ^ 56 + nth 0 e 3 % 2 ^ 56),
      w64 (nth 0 e 4 % 2 ^ 32 * 2 ^ 32 + nth 0 e 5 % 2 ^ 32), 0])

/-- The records go into the DBG_WFG ring, 32 bytes at a time. -/
def State.wfWrite (s : State) : List W64 → State
  | a :: b :: c :: d :: r =>
    let size := (s.rd 0x40068).toNat
    let k := (s.rd 0x40070).toNat
    State.wfWrite (if size < 32 then s else
      (s.hbmWrite ((s.rd 0x40060).toNat + k % size) (bytesOf [a, b, c, d])).setReg 0x40070 (w64 (k + 32))) r
  | _ => s

/-- A write of DBG_WFG_CAPTURE. -/
def State.wfCapture (s : State) (v : W64) : State := if bit v 7 then s.latchWfg (bits v 3 0) else s
def execDbgWfgCapture (v : W64) (s : State) : Res := .next (if s.live then s.wfCapture v else s)

/-- WFG_SECOND_CAPTURE: 10 µs after the first, Penub writes the graph with its verdict, and resets a partition that a step timeout
holds (Table 17.1). -/
def execWfgSecondCapture (p : Fin 16) (s : State) : Res :=
  .next (match s.dbg.capture with
    | none => s
    | some c =>
      if !s.live || c.part ≠ p.val || decide (s.time.toNat < c.time.toNat + 10000) then s
      else
        let again := s.wfEdges p
        let s1 := ({ s with dbg := { s.dbg with capture := none }, free := s.free + 1 }).wfWrite
          (wfWords c (wfVerdict (c.edges.filter again.contains)))
        if (s.part p).st = .held && (s.part p).hold = 5 then s1.resetPart p 0x0A 0 else s1)

/-- STEP_TIMEOUT: a launched step has not ended within FLT_STEP_WDOG, time in halt left out (17 Table 17.1). -/
def execStepTimeout (p : Fin 16) (s : State) : Res :=
  let x := s.part p
  .next (if s.live && !s.stalled && decide (x.st = .running) && x.opened.isSome && !x.ended &&
      decide (x.wdog.toNat + 1000 * s.rf 0x30028 19 0 ≤ s.time.toNat) then
      (((s.faultRecord 0xA 0x21 0 p 0 0 (s.openStep p)).bump (cntBlk 7) 1).latchWfg p).holdPart p 5 0x21 0
    else s)

end Sys2Proof.Machine
end

