-- ==== Sys2Proof/Machine/Faults.lean ====
section
/-! DEFINITION. Faults, spares, beam pairs, halt (17_faults_and_recovery.md R370 to R394; 20 R444). -/

namespace Sys2Proof.Machine

/-! ### ECC errors (R370 to R373, R384) -/

/-- The logical rod that a physical rod serves. -/
def State.logicalOf (s : State) (ph : Nat) : Option Nat := (List.range s.design.rods).find? (fun l => s.phys l == ph)

/-- The physical channel of a logical channel: FLT_CH_MAP. -/
def State.physChan (s : State) (st ch : Nat) : Nat :=
  match s.flt.chMap.find? (fun x => x.1 == 32 * st + ch) with | some x => x.2 | none => ch

/-- Class 001, form 1: a block physical address of physical HBM. Class 000: of a rod's bead memory. -/
def hbmAddr (off : Nat) : Nat := 2 ^ 53 + 2 ^ 52 + off % 2 ^ 40
def State.beadAddr (s : State) (ph off : Nat) : Nat :=
  match s.logicalOf ph with | some l => l * 2 ^ 23 + off % 2 ^ 22 | none => 0

/-- The partition of a physical rod, or 0, and whether it has one. -/
def State.partOfPhys (s : State) (ph : Nat) : Option Nat := (s.logicalOf ph).bind s.partOf

/-- The unit of a channel in a fault record. -/
def State.chanUnit (s : State) (x : Nat × Nat) : Nat := 0x400 + 32 * x.1 + s.physChan x.1 x.2

/-- The error's place in a record: partition, unit, address. -/
def State.errPlace (s : State) : ErrLoc → Nat × Nat × Nat
  | .hbm off => (0, s.chanUnit (s.hbmPlace off), hbmAddr (off / 32 * 32))
  | .bead ph off => ((s.partOfPhys ph).getD 0, ph, s.beadAddr ph (off / 8 * 8))
  | .imem ph _ => ((s.partOfPhys ph).getD 0, ph, 0)
  | .rodUnit ph => ((s.partOfPhys ph).getD 0, ph, 0)

/-- A detection with its record. -/
def State.detect (s : State) (cls cause : Nat) (loc : ErrLoc) : State :=
  let x := s.errPlace loc
  let step := match loc with
    | .hbm _ => 0
    | .bead ph _ => ((s.partOfPhys ph).map s.openStep).getD 0
    | .imem ph _ => ((s.partOfPhys ph).map s.openStep).getD 0
    | .rodUnit ph => ((s.partOfPhys ph).map s.openStep).getD 0
  s.faultRecord cls cause 0 x.1 x.2.1 x.2.2 step

/-- CORRECTABLE_ERROR: corrected in place, recorded and counted per channel or per rod. A rod's register file and unit queues have
parity, which corrects nothing. -/
def execCorrectableError (loc : ErrLoc) (s : State) : Res :=
  .next (if !s.powered then s
    else match loc with
      | .hbm off =>
        let x := s.hbmPlace off
        (s.detect 5 0 loc).bump (0x4E000 + 0x100 * x.1 + 8 * s.physChan x.1 x.2) 1
      | .bead ph _ => (s.detect 5 0 loc).bump (0x4C000 + 8 * ph) 1
      | .imem ph _ => (s.detect 5 0 loc).bump (0x4C000 + 8 * ph) 1
      | .rodUnit _ => s)

/-- The instruction in which a fault of a rod's hardware is found: the oldest that waits in a queue of a unit, otherwise the one about to
issue; an instruction already started has its effects and runs to completion (R89, R90, log entry 4). -/
def Rod.faulty (r : Rod) (fetched : W64) : Nat × W64 × Nat :=
  ((r.mq ++ r.vq ++ r.cq).filter (fun e => !e.started && !e.supp)).foldl
    (fun a e => if e.ord < a.2.2 then (e.pc.toNat % 2 ^ 17, e.word, e.ord) else a) (r.pc.toNat % 2 ^ 17, fetched, r.ord)

/-- A rod's hardware fails in an instruction: MACHINE (R371, R89). Mark 16: its instruction memory. -/
def State.machineFault (s : State) (ph resp : Nat) : State :=
  match s.partOfPhys ph with
  | none => s
  | some p =>
    if (s.part p).st ≠ .running then s
    else s.onRod ph (fun r =>
      let w := s.imem.read64 (2 ^ 17 * ph + r.pc.toNat)
      let x := if resp = 16 then (r.pc.toNat % 2 ^ 17, w, r.ord) else r.faulty w
      r.raise ⟨0x0A, x.1, x.2.1, x.2.2, resp, 0⟩)

/-- UNCORRECTABLE_ERROR: HBM: the granule is poisoned and Table 17.4 applies; bead memory: poisoned, and the partition is held for a
replay; an instruction word or a unit of the rod: the rod raises MACHINE. -/
def execUncorrectableError (loc : ErrLoc) (s : State) : Res :=
  .next (if !s.powered then s
    else match loc with
      | .hbm off =>
        let g := off / 32
        let s1 := ((s.detect 6 0 loc).bump (cntBlk 4) 1).poisonHbm g
        ((s1.loss (s.hitHbm (fun k => k == g))).histRepair g).jrnlRepair
      | .bead ph off =>
        let s1 := ((s.detect 6 0 loc).bump (cntBlk 4) 1).poisonBead ((2 ^ 22 * ph + off) / 8)
        match s.partOfPhys ph with
        | some p => s1.holdPart p 4 0x08 0
        | none => s1
      | .imem ph _ => s.machineFault ph 16
      | .rodUnit ph => s.machineFault ph 0)

/-- PATROL: a granule is read; what a patrol finds is a CORRECTABLE_ERROR or an UNCORRECTABLE_ERROR, so a sound or a poisoned granule stays as
it is. -/
def execPatrol (granule : Nat) (s : State) : Res := .next (if s.hbmBad granule then s.poisonHbm granule else s)

/-! ### Channels (R385, R386) -/

/-- CHANNEL_FAILING: the channel is copied into an unused spare while it serves. -/
def execChannelFailing (stack : Fin 16) (ch : Fin 31) (s : State) : Res :=
  .next (if !s.live || decide (s.design.stacks ≤ stack) || s.flt.spareUsed.contains stack.val || s.flt.copying.any (fun x => x.1 == stack.val) ||
      s.flt.lostCh.contains (stack.val, ch.val) then s
    else { s with flt := { s.flt with copying := s.flt.copying ++ [(stack.val, ch.val)] } })

/-- A logical channel moves onto its stack's spare. -/
def State.moveChan (s : State) (st ch : Nat) : State :=
  ({ s with flt := { s.flt with
    chMap := s.flt.chMap ++ [(32 * st + ch, 31)], spareUsed := s.flt.spareUsed ++ [st]
    copying := s.flt.copying.filter (fun x => x.1 != st) } }.fuseRecord (2, st, ch)).advise 2

/-- CHANNEL_COPY_END: FLT_CH_MAP switches. -/
def execChannelCopyEnd (stack : Fin 16) (s : State) : Res :=
  .next (match s.flt.copying.find? (fun x => x.1 == stack.val) with
    | some x => if s.live then s.moveChan x.1 x.2 else s
    | none => s)

/-- A stack that has used its spare loses a channel: FATAL; every partition is reset and deleted, and no create is taken again. -/
def State.deadStack (s : State) (st : Nat) : State :=
  let s1 := (s.fatal 2 st).forEach (List.range 16) (fun p s =>
    if (s.part p).st = .off then s else (s.resetPart p 0x0A 0).deletePart p)
  { s1 with flt := { s1.flt with noCreate := true } }

/-- CHANNEL_LOST: every granule on it reads as poisoned; the logical channel moves to the spare and Table 17.4 applies, or FATAL. -/
def execChannelLost (stack : Fin 16) (ch : Fin 31) (s : State) : Res :=
  let x : Nat × Nat := (stack.val, ch.val)
  .next (if !s.live || decide (s.design.stacks ≤ stack) then s
    else
      let s1 := (s.faultRecord 7 0 0 0 (s.chanUnit x) 0 0).bump (cntBlk 5) 1
      let s2 := { s1 with flt := { s1.flt with
        lostCh := if s1.flt.lostCh.contains x then s1.flt.lostCh else s1.flt.lostCh ++ [x]
        hbmClean := s1.flt.hbmClean.filter (fun g => s.hbmPlace (32 * g.1) != x) } }
      if s.flt.spareUsed.contains stack.val then s2.deadStack stack
      else
        let on (g : Nat) : Bool := s.hbmPlace (32 * g) == x
        (((s2.moveChan stack ch).loss (s.hitHbm on)).forEach (s.histLost on) (fun g s => s.histRepair g)).jrnlRepair)

/-! ### Fixed-function state (R373) -/

/-- SLATE_UE: words 0 and 7 are held twice; any other word costs the request its service, at the partition's next boundary. -/
def execSlateUe (i : Fin 32768) (word : Fin 8) (s : State) : Res :=
  let x := s.slot i
  .next (if !s.live then s
    else
      let s1 := (s.faultRecord 0xB 0 0 x.part 0xC12 0 (s.openStep x.part)).bump (cntBlk 4) 1
      if word = 0 || word = 7 || !x.active then s1 else s1.endLater i 8)

/-- FIXED_FUNCTION_UE: the partition is held, to be replayed without substitution. -/
def execFixedFunctionUe (p : Fin 16) (u : FixedUnit) (s : State) : Res :=
  let unit := match u with | .sequencer => 0xC10 | .sampler => 0xC11
  .next (if !s.live then s
    else ((s.faultRecord 0xB 0 0 p unit 0 (s.openStep p)).bump (cntBlk 4) 1).holdPart p 4 0 0)

/-! ### Rods (R382, R383, R394; 20 R444) -/

/-- SPARE_SUBSTITUTION: the rod has reported MACHINE of its hardware; it is retired, a spare takes its place, and its partition replays. -/
def execSpareSubstitution (l : Fin 512) (s : State) : Res :=
  let ph := s.phys l
  let r := s.rod ph
  .next (match oldestRaised r.raised, s.partOf l with
    | some e, some p =>
      if s.live && r.reported && e.cause == 0x0A && e.resp == 0 && !s.flt.retired.contains ph then
        ((s.retireRod ph).substitute l).releaseReplay p
      else s
    | _, _ => s)

/-- ROD_CE_LIMIT: retired at the partition's next boundary. -/
def execRodCeLimit (l : Fin 512) (s : State) : Res :=
  .next (if s.live && decide (l < s.design.rods) then s.retireLater (s.phys l) else s)

/-- SRAM_CE_LIMIT: a repair for the next reset, or, where no element is left, retirement. -/
def execSramCeLimit (phys : Fin 544) (element : Nat) (s : State) : Res :=
  .next (if !s.live || decide (s.design.physRods ≤ phys) || s.flt.repairs.contains (phys.val, element) then s
    else if s.sramLeft phys = 0 then s.retireLater phys
    else
      ((({ s with flt := { s.flt with repairs := s.flt.repairs ++ [(phys.val, element)] } }).fuseRecord (3, phys, element)).adviseSram phys))

/-- The physical rod of a class that was tested longest ago: in service or spare, not retired, not in test. -/
def State.oldestRod (s : State) (reckon : Bool) : Option Nat :=
  ((s.design.classRods reckon).filter (fun n => !s.flt.retired.contains n && !s.flt.untested.contains n)).foldl (fun m n =>
    match m with
    | none => some n
    | some k => if (s.rod n).lastTest.toNat < (s.rod k).lastTest.toNat then some n else some k) none

/-- A rod's contents move to a spare: image, bead memory with its poison, registers; queue, latch and row map are empty (R444). -/
def State.copyRod (s : State) (p a b : Nat) : State :=
  let prog := match (s.part p).load.model with | some m => m.program | none => []
  let s1 := (s.beadZero b).imemZero b
  let moved : List (Nat × Byte) := (s.bead.filter (fun e => decide (2 ^ 22 * a ≤ e.1 ∧ e.1 < 2 ^ 22 * (a + 1)))).map (fun e => (e.1 - 2 ^ 22 * a, e.2))
  let marks : List Nat := (s.beadPoison.filter (fun e => decide (2 ^ 19 * a ≤ e.1 ∧ e.1 < 2 ^ 19 * (a + 1)))).map (fun e => e.1 - 2 ^ 19 * a)
  let s2 := { s1 with
    imem := s1.imem.writeWords (2 ^ 17 * b) prog
    bead := moved.foldl (fun m (e : Nat × Byte) => m.write1 (2 ^ 22 * b + e.1) e.2) s1.bead
    beadPoison := marks.foldl (fun m g => Sparse.put false m (2 ^ 19 * b + g) true) s1.beadPoison }
  s2.setRod b { s.rod a with queue := [], latch := none, rowMap := [], lastTest := (s.rod b).lastTest }

/-- FIELD_ROTATION: the rod of the class in turn that was tested longest ago goes into test, at its partition's boundary, while at least two
spares are usable; a spare takes its place. How long the hold lasts, at most 25 µs, is a free value. -/
def execFieldRotation (phys : Fin 544) (s : State) : Res :=
  let n := phys.val
  let reckon := !s.tst.nextTally
  let turn (s : State) : State := { s with tst := { s.tst with nextTally := reckon }, flt := { s.flt with untested := s.flt.untested ++ [n] } }
  .next (if !s.live || s.stalled || s.oldestRod reckon ≠ some n then s
    else match s.spares reckon, s.logicalOf n with
      | a :: b :: r, none => if a = n || b = n || r.contains n then turn s else s
      | a :: _ :: _, some l =>
        match s.partOf l with
        | none => turn (s.mapRod l a)
        | some p =>
          if s.idle p && (s.part p).st = .running then
            (turn ((s.copyRod p n a).mapRod l a).draw.2).bump (cntBlk 40) (s.draw.1.toNat % 25001)
          else s
      | _, _ => s)

/-- ROTATION_TEST_END: a rod that passes is a usable spare; one that fails is retired. -/
def execRotationTestEnd (phys : Fin 544) (pass : Bool) (s : State) : Res :=
  let n := phys.val
  .next (if !s.live || !s.flt.untested.contains n then s
    else if pass then
      ({ s with flt := { s.flt with untested := s.flt.untested.filter (· != n) } }).setRod n { Rod.init with lastTest := s.time }
    else (s.retireRod n).adviseRods)

/-! ### Peers (R381) -/

/-- PEER_WAIT_EXPIRE: the peer's pool pages are lost; a replay group that spans blocks cannot replay without it. -/
def execPeerWaitExpire (pos : Fin 8) (s : State) : Res :=
  let k := pos.val
  let late (p : Nat) : Bool := match (s.part p).peerWait with
    | some (j, t) => j == k && decide (t.toNat + 1000000 * s.rf 0x30038 13 0 ≤ s.time.toNat) | none => false
  let l := (List.range 16).filter late
  .next (if !s.live || s.present k || l.isEmpty then s
    else
      let s1 := s.poolLost k
      s1.forEach l (fun p s =>
        if (s.part p).st ≠ .held then s
        else if s.rf (0x31008 + 0x40 * p) 7 0 ≠ 0 then s.forEach (s.replayGroup p) (fun j s => s.resetPart j 6 5)
        else s.onPart p (fun x => { x with peerWait := none })))

/-! ### Beam pairs (R387, R388, R16) -/

/-- A pair is stopped, with its record. The loss of the standby leaves none. -/
def State.stopPair (s : State) (b : Bool) (cause : Nat) : State :=
  if s.flt.stopped.contains b then s
  else
    let s1 := (s.faultRecord 9 cause 0 0 (0xC00 + b2n b) 0 0).bump (cntBlk 6) 1
    let s2 := { s1 with flt := { s1.flt with stopped := s1.flt.stopped ++ [b] } }
    if b = s.flt.masterB then s2 else ({ s2 with flt := { s2.flt with standby := false } }).advise 5

def execLockstepMismatch (pair : Bool) (s : State) : Res := .next (if s.powered then s.stopPair pair 0x22 else s)
def execHeartbeatExpire (pair : Bool) (s : State) : Res := .next (if s.powered then s.stopPair pair 0x23 else s)

/-- BEAM_FAILOVER: the standby becomes master from the journal. Every action in it has its completion, since the model takes an action and
its completion in one step, so none is executed again (log entry 51). -/
def execBeamFailover (s : State) : Res :=
  .next (if s.powered && s.flt.stopped.contains s.flt.masterB && s.flt.standby then
      ({ s with flt := { s.flt with masterB := !s.flt.masterB, standby := false, failedOver := true } }).advise 5
    else s)

/-- FALLBACK_FREEZE: both pairs are lost: every partition is frozen, every port dark, cx_vid at its clamp, FATAL. -/
def execFallbackFreeze (s : State) : Res :=
  .next (if s.powered && s.flt.stopped.contains true && s.flt.stopped.contains false then
      let s1 := s.forEach (List.range 16) (fun p s =>
        if (s.part p).st = .running then s.onPart p (fun x => { x with st := .held, hold := 3 }) else s)
      let s2 := s1.forEach (List.range 8) (fun p s => s.portDark p)
      ({ s2 with flt := { s2.flt with frozen := true }, pwr := { s2.pwr with vid := 0, vidGoal := 0, raising := none } }).fatal 1 0
    else s)

/-! ### Halt (R389, R390) -/

/-- The level bit of a halt channel in FLT_HALT_STATUS: false A, true B. -/
def haltBit (ch : Bool) : Nat := if ch then 2 else 1

/-- HALT_ASSERT: halt takes effect; RUNNING partitions become HELD. -/
def execHaltAssert (ch : Bool) (s : State) : Res :=
  let s1 := s.setRf 0x30108 (haltBit ch) (haltBit ch) 1
  .next (if s.halted then s1
    else ({ (s1.setRf 0x30108 0 0 1) with flt := { s1.flt with haltSince := s.time } }).haltParts)

/-- Release takes effect: each partition that halt held resumes without replay, its step watchdog has lost no time, the governor releases
its groups, and the answers held back leave. A thermal trip holds the partitions still. -/
def State.releaseHalt (s : State) : State :=
  let dt := s.time - s.flt.haltSince
  let s1 := s.setRf 0x30108 0 0 0
  let s2 := s1.forEach (List.range 16) (fun p s =>
    let x := s.part p
    if !x.haltHeld || s.pwr.thermtrip then s
    else
      let s3 := s.setPart p { x with haltHeld := false, wdog := x.wdog + dt }
      if x.st = .held && x.hold = 2 then ((s3.onPart p (fun y => { y with st := .running, hold := 0 })).holdGroups p).startPart p
      else s3)
  s2.forEach (List.range 4) (fun c s =>
    let x := s.chan c
    x.answers.foldl (fun s m => s.send (.host c m.hdr m.data)) (s.setChan c { x with answers := [] }))

/-- Release, where both channels are deasserted and the discrepancy bit is clear. What the Fallback sequencer has frozen stays so (01 R16). -/
def State.tryReleaseHalt (s : State) : State :=
  let w := s.rd 0x30108
  if s.halted && !bit w 1 && !bit w 2 && !bit w 3 then (if s.flt.frozen then s.setRf 0x30108 0 0 0 else s.releaseHalt) else s

/-- HALT_RELEASE: a channel deasserts. -/
def execHaltRelease (ch : Bool) (s : State) : Res := .next (s.setRf 0x30108 (haltBit ch) (haltBit ch) 0).tryReleaseHalt

/-- HALT_DISCREPANCY: the channels have differed for FLT_HALT_N ticks: the bit latches. -/
def execHaltDiscrepancy (s : State) : Res :=
  let w := s.rd 0x30108
  .next (if bit w 1 == bit w 2 then s
    else (s.setRf 0x30108 31 16 (max (bits w 31 16) (s.rf 0x30100 15 0))).setRf 0x30108 3 3 1)

/-- A write of FLT_HALT_N: a running count that already meets the new value latches the bit (R389). -/
def State.setHaltN (s : State) (v : W64) : State :=
  let n := bits v 15 0
  let w := s.rd 0x30108
  if n = 0 then s
  else
    let s1 := s.setReg 0x30100 (w64 n)
    if bit w 1 != bit w 2 && decide (n ≤ bits w 31 16) then s1.setRf 0x30108 3 3 1 else s1
def execFltHaltN (v : W64) (s : State) : Res := .next (s.setHaltN v)

/-- A management-port write of 1 clears the discrepancy bit where the channels agree. -/
def State.clearDiscrepancy (s : State) : State :=
  let w := s.rd 0x30108
  if bit w 1 == bit w 2 then (s.setRf 0x30108 3 3 0).tryReleaseHalt else s
def execDiscrepancyClear (s : State) : Res := .next s.clearDiscrepancy

/-- A write of FLT_EVT_PEND clears the bits written as 1 (19 R433). -/
def State.clearEvents (s : State) (v : W64) : State := s.setReg 0x30118 (s.rd 0x30118 &&& ~~~(v &&& 0x7FFF#64))
def execFltEvtPend (v : W64) (s : State) : Res := .next (s.clearEvents v)

end Sys2Proof.Machine
end

