-- ==== Sys2Proof/Machine/Security.lean ====
section
/-! DEFINITION. The Security engine (16_security.md R353 to R357, R367 to R369; 21 R451): SPDM mailboxes, debug unlock, locks, owner
digests. -/

namespace Sys2Proof.Machine

/-! ### Byte views of registers -/

/-- Bytes over registers; a last word in part keeps its other bytes. -/
def State.setRegBytes (s : State) (off : Nat) (bs : List Byte) : State :=
  s.forEach (List.range (ceilDiv bs.length 8)) (fun k s =>
    let old := leBytes 8 (s.rd (off + 8 * k)).toNat
    let new := (bs.drop (8 * k)).take 8
    s.setReg (off + 8 * k) (w64 (leNat (new ++ old.drop new.length))))

/-! ### SPDM mailboxes (R354 to R356) -/

/-- Control register and first data register of a mailbox. -/
def spdmCtl : SpdmWho → Nat
  | .tenant t => tReg t 0x800
  | .mgmt => 0x20200
def spdmData : SpdmWho → Nat
  | .tenant t => tReg t 0x1000
  | .mgmt => 0x21000

def State.mailbox (s : State) : SpdmWho → Mailbox
  | .tenant t => (s.ten t).spdm
  | .mgmt => s.sec.spdm
def State.setMailbox (s : State) (w : SpdmWho) (m : Mailbox) : State :=
  match w with
  | .tenant t => s.onTen t (fun x => { x with spdm := m })
  | .mgmt => { s with sec := { s.sec with spdm := m } }

/-- A write of a mailbox's control register: REQ_LEN, and GO submits the request; a GO while one is unanswered is dropped, and counted
for a tenant. -/
def State.spdmWrite (s : State) (w : SpdmWho) (v : W64) : State :=
  let n := bits v 12 0
  let m := s.mailbox w
  if n = 0 || n > 4096 then s
  else if bit v 16 && m.busy then (match w with | .tenant t => s.inErr t | .mgmt => s)
  else
    let s1 := s.setRf (spdmCtl w) 12 0 n
    if !bit v 16 then s1
    else (s1.setMailbox w ⟨true, m.taken ++ [s.regBytes (spdmData w) n]⟩).setRf (spdmCtl w) 17 17 1

def execTenSpdmGo (t : Fin 64) (v : W64) (s : State) : Res := s.tenWrite t (fun s => s.spdmWrite (.tenant t) v)
def execSecSpdmGo (v : W64) (s : State) : Res := .next (if s.live then s.spdmWrite .mgmt v else s)

/-- SPDM_RESPONSE: the response replaces the request. -/
def execSpdmResponse (who : SpdmWho) (s : State) : Res :=
  let m := s.mailbox who
  .next (if !s.live || !m.busy then s
    else
      let d := s.drawMany 4
      let bs := (Config.spdmRespond m.taken s.measurements false (freeBytes d.1 4)).take 4096
      (((d.2.setRegBytes (spdmData who) bs).setMailbox who { m with busy := false }).setRf (spdmCtl who) 44 32 bs.length).setRf
        (spdmCtl who) 17 17 0)

/-! ### Debug unlock (R367 to R369) -/

/-- A read of SEC_DBG_CHAL: word 0 draws a nonce; after eight invalid tokens every word is zero. -/
def State.readChal (s : State) (w : Nat) : W64 × State :=
  if s.sec.bad ≥ 8 then (0, s)
  else if w = 0 then
    let d := s.drawMany 4
    (Config.freeWord d.1, { d.2 with sec := { d.2.sec with nonce := some d.1 } })
  else (match s.sec.nonce with | some i => Config.freeWord (i + w) | none => 0, s)

/-- SEC_DBG_CHAL: a management-port read of the first word. -/
def execSecDbgChal (s : State) : Res :=
  .next (if s.live then (s.readChal 0).2.send (.mgmt (s.readChal 0).1 false) else s)

/-- A write of SEC_DBG_TOKEN word w; word 11 submits the token. -/
def State.tokenWrite (s : State) (w : Nat) (v : W64) : State :=
  let l := setNth (s.sec.token ++ List.replicate (12 - s.sec.token.length) 0) w v
  let s1 := { s with sec := { s.sec with token := l, verifying := s.sec.verifying || w == 11 } }
  if s.sec.verifying then s else if w = 11 then s1.setReg 0x20040 1 else s1
def execSecDbgToken (w : Fin 12) (v : W64) (s : State) : Res := .next (if s.live then s.tokenWrite w v else s)

/-- Whether the submitted token is a signature over the nonce, the identity key digest and SEC_DBG_SCOPE. -/
def State.tokenOk (s : State) : Bool :=
  match s.sec.nonce with
  | none => false
  | some i => decide (s.sec.bad < 8) && Config.ecdsaVerify Config.debugKey
      (freeBytes i 4 ++ Config.sha384 (Config.identityKey s.sec.lifecycle) ++ leBytes 8 (s.rd 0x20018).toNat) (bytesOf s.sec.token)

/-- DEBUG_TOKEN_VERIFIED: a valid token starts the unlock warm reset; an invalid one is counted, and the eighth locks out. -/
def execDebugTokenVerified (s : State) : Res :=
  .next (if !s.live || !s.sec.verifying then s
    else if s.tokenOk then s.warmReset 7 true
    else (({ s with sec := { s.sec with verifying := false, bad := s.sec.bad + 1 } }).bump (cntBlk 22) 1).setReg 0x20040
      (if s.sec.bad + 1 ≥ 8 then 3 else 2))

/-! ### Locks and owner digests (21 R451, R357) -/

def State.lockSec (s : State) (v : W64) : State := if bit v 0 then s.setReg 0x20008 1 else s
def execSecLock (v : W64) (s : State) : Res := .next (if s.live then s.lockSec v else s)
/-- PWR_LOCK lies in the always-on page. -/
def State.lockPwr (s : State) (v : W64) : State := if bit v 0 then s.setReg 0x10208 1 else s
def execPwrLock (v : W64) (s : State) : Res := .next (s.lockPwr v)

/-- A preset of SEC_PART_OWNER, while BOUND is 0; its last word binds it. -/
def State.presetOwner (s : State) (p w : Nat) (v : W64) : State :=
  if s.rf (0x24070 + 0x100 * p) 0 0 = 1 then s
  else
    let s1 := s.setReg (0x24040 + 0x100 * p + 8 * w) v
    if w = 5 then s1.setReg (0x24070 + 0x100 * p) 1 else s1
def execSecPartOwner (p : Fin 16) (w : Fin 6) (v : W64) (s : State) : Res := .next (if s.live then s.presetOwner p w v else s)

end Sys2Proof.Machine
end

