-- ==== Sys2Proof/Machine/Test.lean ====
section
/-! DEFINITION. Production and field test (20_bringup_and_test.md R443, R445, R446): the wrapper and TAP instructions, the stacks'
pattern engines, the lanes' PRBS generators and checkers. -/

namespace Sys2Proof.Machine

/-! ### Wrapper and TAP instructions (R443, Table 20.3) -/

/-- Whether an instruction is open: every one on a test part and in DEBUG; after TST_DONE the bypasses, WS_EXTEST, WS_HBM, IDCODE and
SAMPLE/PRELOAD only. -/
def State.instrOpen (s : State) (code : Nat) : Bool :=
  !s.sec.tstDone || s.sec.lifecycle == 2 || [0x00, 0x01, 0x09, 0x0C, 0x0D, 0xFF].contains code

/-- What Capture-IR loads, and the scan of a TAP instruction shifts out: 0b0000_0001, least significant bit first. -/
def captureIr : List Bool := [true, false, false, false, false, false, false, false]

/-- An instruction enters the TAP's or the wrapper's instruction register; one that is not open selects the bypass register. -/
def State.selectInstr (s : State) (jtag : Bool) (code : Nat) : State :=
  if jtag then ({ s with tst := { s.tst with ir := if s.instrOpen code then code else 0xFF } }).send (.tdo true captureIr)
  else { s with tst := { s.tst with wir := if s.instrOpen code then code else 0x00 } }

/-- The low `n` bits of free words. -/
def freeBits (i n : Nat) : List Bool := (List.range n).map (fun k => bit (Config.freeWord (i + k / 64)) (k % 64))

/-- `n` captured bits leave at the serial output. -/
def State.shiftOut (s : State) (jtag : Bool) (n : Nat) : State :=
  let d := s.drawMany (ceilDiv n 64)
  d.2.send (.tdo jtag (freeBits d.1 n))

/-- An instruction runs where it is open. -/
def State.testInstr (s : State) (jtag : Bool) (code : Nat) (f : State → State) : Res :=
  .next (if s.instrOpen code then f (s.selectInstr jtag code) else s.selectInstr jtag code)

def execWsBypass (jtag : Bool) (s : State) : Res := s.testInstr jtag 0x00 (fun s => s)

/-- WS_EXTEST: the cells of the external signals are captured, shifted out and loaded. -/
def execWsExtest (jtag : Bool) (cells : List Bool) (s : State) : Res :=
  s.testInstr jtag 0x01 (fun s => ({ s with tst := { s.tst with cells := cells } }).shiftOut jtag cells.length)

/-- WS_INTEST: the same cells, driving the core. -/
def execWsIntest (jtag : Bool) (cells : List Bool) (s : State) : Res :=
  s.testInstr jtag 0x02 (fun s => ({ s with tst := { s.tst with cells := cells } }).shiftOut jtag cells.length)

/-- WS_SCAN: stimulus in, response out. -/
def execWsScan (jtag : Bool) (data : List Bool) (s : State) : Res :=
  s.testInstr jtag 0x04 (fun s => ({ s with tst := { s.tst with scan := data } }).shiftOut jtag data.length)

/-- WS_LBIST: one result for each chosen rod that the block has. -/
def execWsLbist (jtag : Bool) (list : List Nat) (s : State) : Res :=
  s.testInstr jtag 0x05 (fun s => s.shiftOut jtag (list.filter (fun r => decide (r < s.design.physRods))).length)

/-- WS_MBIST: one result for each chosen memory controller. -/
def execWsMbist (jtag : Bool) (list : List Nat) (s : State) : Res := s.testInstr jtag 0x06 (fun s => s.shiftOut jtag list.length)

/-- What WS_FUSE programs; a fuse never returns to 0. -/
def State.fuseWrite (s : State) : FuseWrite → State
  | .tstDone => { s with sec := { s.sec with tstDone := true, lifecycle := if s.sec.lifecycle = 0 then 1 else s.sec.lifecycle } }
  | .retire ph =>
    { s with flt := { s.flt with
      retired := if s.flt.retired.contains ph then s.flt.retired else s.flt.retired ++ [ph]
      fuseRecs := s.flt.fuseRecs ++ [(1, ph, 0)] } }
  | .row n v => { s with tst := { s.tst with fuses := Sparse.put 0 s.tst.fuses n (Sparse.get 0 s.tst.fuses n ||| v) } }

def execWsFuse (jtag : Bool) (w : FuseWrite) (s : State) : Res := s.testInstr jtag 0x08 (fun s => s.fuseWrite w)

/-- WS_HBM: the serial port forwards to a stack's own; one that the block lacks selects the bypass register. -/
def execWsHbm (jtag : Bool) (stack : Fin 16) (s : State) : Res :=
  if stack.val < s.design.stacks then s.testInstr jtag 0x09 (fun s => s) else s.testInstr jtag 0x00 (fun s => s)

def execWsIjtag (jtag : Bool) (s : State) : Res := s.testInstr jtag 0x0A (fun s => s)

/-- IDCODE: 0x0C51_2A4F leaves at the serial output, least significant bit first. -/
def execIdcode (s : State) : Res :=
  s.testInstr true 0x0C (fun s => s.send (.tdo true ((List.range 32).map (fun k => bit (0x0C512A4F#32) k))))

/-- SAMPLE/PRELOAD: the signals are sampled and the cells loaded. -/
def execSamplePreload (cells : List Bool) (s : State) : Res :=
  s.testInstr true 0x0D (fun s => ({ s with tst := { s.tst with cells := cells } }).shiftOut true cells.length)

def execBypass (s : State) : Res := s.testInstr true 0xFF (fun s => s)

/-- TEST_LOGIC_RESET selects IDCODE. -/
def execTestLogicReset (s : State) : Res := .next { s with tst := { s.tst with ir := 0x0C } }

/-! ### Pattern engines of the stacks (R445) -/

/-- The logical channel that a physical channel carries. -/
def State.chanOn (s : State) (st phys : Nat) : Option Nat := (List.range 31).find? (fun c => s.physChan st c == phys)

/-- The 1 KiB granules of a run that lie on a channel. -/
def State.runGranules (s : State) (st ch first count : Nat) : List Nat :=
  ((List.range count).map (first + ·)).filter (fun g => decide (1024 * (g + 1) ≤ s.design.hbmCap) && s.hbmPlace (1024 * g) == (st, ch))

/-- Contents that a run destroyed: free values. -/
def State.destroy (s : State) (g : Nat) : State :=
  let d := s.drawMany 128
  d.2.hbmWrite (1024 * g) (freeBytes d.1 128)

/-- TST_HBM_CTRL: on a channel in use only while every partition is OFF, and then the contents go; on a spare that is unused at any
time, but not while a copy needs it. The three counters rise by what the run found. -/
def execTstHbmCtrl (stack : Fin 16) (phys : Fin 32) (_pat : HbmPattern) (first count : Nat) (s : State) : Res :=
  let count3 (s : State) : State := s.forEach [1, 2, 3] (fun k s => s.draw.2.bump (cntStack stack k) (s.draw.1.toNat % 2 ^ 48))
  .next (if !s.powered || s.design.stacks ≤ stack.val then s
    else match s.chanOn stack phys with
      | none => if s.flt.copying.any (fun x => x.1 == stack.val) then s else count3 s
      | some c =>
        if (List.range 16).all (fun p => decide ((s.part p).st = .off)) then
          count3 (s.forEach (s.runGranules stack c first count) (fun g s => s.destroy g))
        else s)

/-! ### PRBS on the lanes (R446) -/

/-- Whether a lane may be tested: its port is disabled, or no logical lane of either direction uses it. -/
def State.prbsAllowed (s : State) (p n : Nat) : Bool :=
  !bit (s.rd 0x600010) p || !((s.port p).rxMap.contains n || (s.port p).txMap.contains n)

/-- A write of FAB_PRBS_CTRL: ignored whole where it names a lane that may not be tested. A run's lock and bit errors are what the
lanes show. -/
def State.prbsCtrl (s : State) (p : Nat) (v : W64) : State :=
  let off := 0x600310 + 0x20 * p
  let v := v &&& w64 (7 * 2 ^ 61 + (2 ^ (32 + s.design.spareLanes) - 1))
  let lanes := s.portLanes.filter (bit v)
  if !lanes.all (s.prbsAllowed p) then s
  else
    let s1 := s.setReg off v
    if !bit v 63 then s1.setReg (off + 8) 0
    else
      let d := s1.draw
      (d.2.setReg (off + 8) (d.1 &&& v &&& 0xFFFFFFFFF#64)).forEach lanes (fun n s =>
        s.draw.2.bump (cntPort p (8 + n)) (s.draw.1.toNat % 2 ^ 48))

def execFabPrbsCtrl (port : Fin 8) (v : W64) (s : State) : Res := .next (if s.live then s.prbsCtrl port v else s)

end Sys2Proof.Machine
end

