-- ==== Sys2Proof/Machine/Regs.lean ====
section
/-! DEFINITION. Reads and writes of the register window (21_registers.md R448 to R460, 00 R2, R5, R8; 19 R432): what each register
reads as, which writes are taken, and what a write starts. -/

namespace Sys2Proof.Machine

/-! ### Reads -/

def RField.mask (f : RField) : W64 := w64 ((2 ^ (f.hi + 1 - f.lo) - 1) * 2 ^ f.lo)

def pstCode : PState → Nat | .off => 0 | .loading => 1 | .running => 2 | .held => 3 | .resetting => 4
def tstCode : TState → Nat | .detached => 0 | .attached => 1 | .resetting => 2

/-- SLT_SIDE: four side bits of each of 16 entries. -/
def State.sideWord (s : State) (w : Nat) : Nat :=
  (List.range 16).foldl (fun n k =>
    let x := s.slot (16 * w + k)
    n + (b2n x.waitPred + 2 * b2n x.inputOpen + 4 * b2n x.packing + 8 * b2n x.resuming) * 16 ^ k) 0

/-- Word `k` of a Slate entry. -/
def Slot.word (x : Slot) (k : Nat) : W64 := nth 0 [x.w0, x.w1, x.w2, x.w3, x.w4, x.w5, x.w6, x.w7] k

/-- CLK_PLL_LOCK: the always-on PLL is locked; the others once phase CLOCKS has ended. -/
def State.pllLock (s : State) : Nat :=
  if s.rstState = 0 || (s.rstState = 4 && decide (2 ≤ s.phase)) then 2 ^ (3 + s.design.stacks) - 1 else 4

/-- What a register reads as where it is a view of state held elsewhere; otherwise its stored value. -/
def State.regView (s : State) (h : RHit) (off : Nat) : W64 :=
  match h.row.name, h.idx with
  | .idConfig, _ => w64 (bits (Config.fuse 0) 7 0 * 256 + s.design.code)
  | .idRods, _ => w64 (s.design.spareReckon * 2 ^ 40 + s.design.spareTally * 2 ^ 32 + s.design.reckon * 2 ^ 16 + s.design.tally)
  | .idMem, _ => w64 (2 ^ 16 + 32 * 256 + s.design.stacks)
  | .idLanes, _ => w64 (8 * 2 ^ 16 + s.design.spareLanes * 256 + 32)
  | .idSpares, _ => w64 (b2n s.flt.standby * 2 ^ 32 + (s.flt.spareUsed.foldl (fun n k => n + 2 ^ k) 0) % 2 ^ 16 * 2 ^ 16 +
      (s.spares true).length % 256 * 256 + (s.spares false).length % 256)
  | .idFrames, _ => w64 (((List.range (s.design.rods / 8)).filter (fun f => !s.flt.noFrames.contains f)).foldl (fun n f => n + 2 ^ f) 0)
  | .idSpareMap, [w] => w64 ((List.range 4).foldl (fun n k =>
      n + (if 4 * w + k < s.design.rods then s.phys (4 * w + k) % 1024 else 0) * 2 ^ (16 * k)) 0)
  | .beamStatus, _ => w64 (4 * b2n s.flt.failedOver + 2 * b2n s.flt.standby + b2n s.flt.masterB)
  | .clkTime, _ => s.time
  | .clkRod, _ => w64 s.pwr.freq
  | .clkPllLock, _ => w64 s.pllLock
  | .pwrPgStatus, _ => w64 (s.rf off 11 8 * 256 + s.pwr.pg.toNat)
  | .pwrVf, [k] => w64 (vidFor (10 + k))
  | .secLifecycle, _ => w64 s.sec.lifecycle
  | .secFwMinSvn, _ => w64 (bits Config.firmwareSvn 7 0)
  | .secDbgChal, [w] => (s.readChal w).1
  | .secCertLen, _ => w64 (bits (Config.fuse 64) 12 0)
  | .secCert, [k] => Config.certWord k
  | .fltChMap, [st, c] => w64 (s.physChan st c)
  | .dbgRodExc, [l] => w64 (s.rod (s.phys l)).ecause.toNat
  | .dbgRodExc1, [l] => w64 (s.rod (s.phys l)).epc.toNat
  | .dbgRodExc2, [l] => (s.rod (s.phys l)).eword
  | .dbgSnap, [k] => Sparse.get 0 s.dbg.snap (8 * k)
  | .seqPartCtrl, [p] => w64 ((s.part p).hold * 2 ^ 16 + (s.part p).refusal * 2 ^ 12 + pstCode (s.part p).st * 2 ^ 8)
  | .seqOldestOpen, [p] => w64 (match (s.part p).opened with | some d => d.step | none => (s.part p).step)
  | .sltSide, [w] => w64 (s.sideWord w)
  | .sltMirror, [k] => (s.slot (k / 8)).word (k % 8)
  | .tierDirectBase, _ => w64 s.directBase
  | .tierHbmIl, _ => w64 s.directBase
  | .tierPoolCount, [n] => w64 ((s.poolFrames n).length % 2 ^ 32 * 2 ^ 32 + s.rf off 31 0)
  | .wstStatus, [p] => w64 (s.part p).streams.length
  | .gthRowwrite2, _ => w64 (b2n (decide (64 ≤ s.gth.rowq.length)) * 2 ^ 62 + s.rf off 9 0)
  | .gthTbl, [t, k] => nth 0 (s.tbl t) k
  | .fabPos, _ => w64 s.fab.pos
  | .fabTimeStatus, _ => w64 (s.rf off 63 32 * 2 ^ 32 + s.master * 2 + b2n s.fab.synced)
  | .fabLaneMap, [p, w] => w64 (leNat (((if w < 4 then (s.port p).rxMap.drop (8 * w) else (s.port p).txMap.drop (8 * (w - 4))).take 8).map
      (fun n => BitVec.ofNat 8 n)))
  | .fabPeer, [k] =>
    let x := s.peer k
    w64 (Sparse.get 0 s.fab.lastEpochs k % 2 ^ 32 * 2 ^ 32 + x.incarnation % 2 ^ 16 * 2 ^ 16 + b2n x.shelf * 256 + x.port * 16 + x.st)
  | .fabPeerId, [k, w] => w64 (leNat (((s.peer k).identity.drop (8 * w)).take 8))
  | .tenState, [t] => w64 (tstCode (s.ten t).st)
  | .tenCaps, [t] => w64 (s.rf (hReg t 8) 3 0)
  | .tenSqStatus, [t, q] => w64 (b2n (s.sqError t q) * 2 ^ 16 + s.sqHead t q % s.sqSize t q)
  | _, _ => s.rd off

/-- An 8-byte read of the window: reserved offsets and bits and write-only fields read zero (R5, R8). -/
def State.readReg (s : State) (off : Nat) : W64 × State :=
  match regAt off with
  | none => (0, s)
  | some h =>
    if s.absentReg h off then (0, s)
    else
      let mask := (h.row.fields.filter (fun f => f.acc != .wo)).foldl (fun m f => m ||| f.mask) (0 : W64)
      let s1 := if h.row.name = .secDbgChal && h.idx == [0] then (s.readChal 0).2 else s
      (s.regView h off &&& mask &&& s.presentBits h.row.name, s1)

/-! ### Writes: ranges, alignment, locks and states (R449 to R453, R459) -/

/-- The alignment a register's address or size must have. -/
def State.alignOf (s : State) (n : RegName) (ix : List Nat) : Nat :=
  match n with
  | .fltLogBase => 4096 | .secSealBase => 4096 | .dbgTraceBase => 4096 | .dbgTraceSize => 4096 | .dbgWfgBase => 4096 | .dbgWfgSize => 4096
  | .seqLaunchBase => 65536 | .seqDescBase => 2 ^ 20 | .seqBudgetBase => 65536 | .seqProfBase => 65536 | .seqSctxBase => 65536
  | .seqChunkMin => 16 | .sltPfxBase => 65536 | .sltPlistBase => 65536 | .sltHistBase => 2 ^ 19 | .sltHistBase2 => 2 ^ 19
  | .tierPtRoot => 4096 | .gthInboxCfg => 64 | .carDirBase => 32768
  | .hapInBase => 2 ^ s.rf (hReg (nth 0 ix 0) 0x18) 4 0
  | .tenSqBase => 4096 | .tenCqBase => 4096 | .tenOringBase => 4096 | .tenOringTailaddr => 8
  | _ => 1

def State.partOff (s : State) (p : Nat) : Bool := decide ((s.part p).st = .off)
def State.partIdle (s : State) (p : Nat) : Bool := s.partOff p || decide ((s.part p).st = .loading)
def State.allOff (s : State) : Bool := (List.range 16).all s.partOff
def State.inboxOff (s : State) (e : Nat) : Bool := !bit (s.rd (inboxReg e 0x28)) 0

/-- Whether the state admits a write of a setting: what R459, R221, R334 and the notes under the tables restrict. -/
def State.settable (s : State) (n : RegName) (ix : List Nat) : Bool :=
  let i := nth 0 ix 0
  match n with
  | .seqPartFrames => s.partOff i
  | .seqPartKind => s.partIdle i | .seqPartHbm => s.partIdle i | .seqPartBw => s.partIdle i | .seqPartVocab => s.partIdle i
  | .seqLaunchBase => s.partIdle i | .seqLaunchCount => s.partIdle i | .seqDescBase => s.partIdle i | .seqBudgetBase => s.partIdle i
  | .seqBudgetCount => s.partIdle i | .seqProfBase => s.partIdle i | .seqSctxBase => s.partIdle i
  | .sltCtrlRange => s.partIdle i | .sltCtrlSub => s.partIdle i | .sltPfxScope => s.partIdle i | .sltPfxBase => s.partIdle i
  | .sltPfxOrder => s.partIdle i | .sltPlistBase => s.partIdle i | .carDirBase => s.partIdle i
  | .sltHistBase => s.allOff | .sltHistBase2 => s.allOff | .tierDirectSize => s.allOff
  | .tierPtRoot => s.partOff i | .fltJrnlPart => s.partOff i | .fltReplayGroup => s.partOff i
  | .tierPool => (s.poolFrames i).isEmpty | .tierPoolList => (s.poolFrames i).isEmpty | .tierPoolSize => (s.poolFrames i).isEmpty
  | .gthInboxA => s.inboxOff i | .gthInboxB => s.inboxOff i | .gthInboxCfg => s.inboxOff i
  | .seqProfStage => !bit (s.rd (pReg i 0x240)) 63
  | .gthTblStage => !bit (s.rd 0x500280) 63
  | .carDirStage => !s.dirBusy i
  | .hapHome => decide ((s.ten i).st = .detached)
  | .hapPriv => !s.attached i | .tenCapsPriv => !s.attached i | .hapInBase => !s.attached i | .hapInSlot => !s.attached i
  | .hapInCount => !s.attached i | .hapPrioMin => !s.attached i | .hapBudgetLo => !s.attached i | .hapBudgetHi => !s.attached i
  | .hapAdpLo => !s.attached i | .hapAdpHi => !s.attached i | .sltQuota => !s.attached i
  | .secSpdm => !s.sec.spdm.busy | .tenSpdm => !(s.ten i).spdm.busy
  | _ => true

/-- Whether software writes a field's value: RW, or RWL while its page's lock is clear (R451). -/
def State.takesValue (s : State) (off : Nat) (f : RField) : Bool :=
  match f.acc with
  | .rw => true
  | .rwl => !bit (s.rd (if off < 0x20000 then 0x10208 else 0x20008)) 0
  | _ => false

/-- The value a write leaves in the fields of a register. -/
def State.fieldsAfter (s : State) (off : Nat) (v : W64) (fs : List RField) : W64 :=
  fs.foldl (fun w f =>
    if s.takesValue off f then setBits w f.hi f.lo (bits v f.hi f.lo)
    else match f.acc with
      | .w1c => w &&& ~~~(v &&& f.mask)
      | .w1s => w ||| (v &&& f.mask)
      | _ => w) (s.rd off)

/-- A plain write: ignored whole where a field's value is out of its range (R450). -/
def State.setFields (s : State) (off : Nat) (v : W64) (fs : List RField) : State :=
  if fs.any (fun f => s.takesValue off f && (decide (bits v f.hi f.lo < f.min) || decide (f.max < bits v f.hi f.lo))) then s
  else s.setReg off (s.fieldsAfter off v fs)

/-- The state a meaning leaves. -/
def State.after (s : State) (r : Res) : State := match r with | .next t => t | _ => s

/-! ### Writes that start something -/

/-- A command written to SEQ_PART_CTRL. -/
def State.partCommand (s : State) (p : Fin 16) (cmd : Nat) : State :=
  match cmd with
  | 1 => s.after (execCreate p s)
  | 2 => s.after (execStart p s)
  | 3 => s.after (execRelease p s)
  | 4 => s.after (execReleaseWithReplay p s)
  | 5 => s.after (execPartitionReset p s)
  | 6 => s.after (execDelete p s)
  | _ => s

/-- TIER_POOLn SUPPLIED rises: the mover takes the frames that Penub has written to the pool's ring. -/
def State.poolSupply (s : State) (n : Nat) (v : W64) : State :=
  let size := 2 ^ s.rf (poolReg n 0x10) 4 0
  let old := s.rf (poolReg n 0x18) 31 0
  let new := bits v 31 0
  let k := min ((new + 2 ^ 32 - old) % 2 ^ 32) size
  let base := (s.rd (poolReg n 8)).toNat
  let l := (List.range k).map (fun j => (s.hbmWord (base + 8 * ((old + j) % size))).toNat)
  let s1 := s.setReg (poolReg n 0x18) (w64 new)
  if s.poolKind n = 0 then s1 else s1.setPool n (s.poolFrames n ++ l)

/-- FAB_PORT_CTRL: a port that is disabled goes dark, and its link with it; one that is enabled probes (14 R304). -/
def State.portCtrl (s : State) (v : W64) : State :=
  let old := s.rd 0x600010
  let s1 := s.setReg 0x600010 (v &&& 0xFF#64)
  s1.forEach (List.range 8) (fun p s =>
    if bit old p && !bit v p then s.linkDown p
    else if !bit old p && bit v p && (s.live || decide (9 ≤ s.phase)) then
      ((s.setRf (0x600310 + 0x20 * p) 63 63 0).setReg (0x600318 + 0x20 * p) 0).portProbe p
    else s)

/-- HAP_CHAN_EN: a channel that is enabled while cx_present is high is advertised credits; a disabled one holds none (15 R326). -/
def State.chanCtrl (s : State) (v : W64) : State :=
  let old := s.rd 0x700000
  let s1 := s.setReg 0x700000 (v &&& 0xF#64)
  s1.forEach (List.range 4) (fun c s =>
    if bit old c && !bit v c then s.setChan c { s.chan c with inPosted := 0, inNon := 0 }
    else if !bit old c && bit v c && s.pwr.present then s.setChan c { s.chan c with inPosted := 512, inNon := 128 }
    else s)

/-- HAP_LOOP_CTRL: a channel's bit changes only while every tenant homed on it is DETACHED (20 R447). -/
def State.loopCtrl (s : State) (v : W64) : State :=
  s.forEach (List.range 4) (fun c s =>
    if (List.range 64).all (fun t => s.home t != c || decide ((s.ten t).st = .detached)) then s.setRf 0x700010 c c (b2n (bit v c)) else s)

def execHapLoopCtrl (v : W64) (s : State) : Res := .next (if s.live then s.loopCtrl v else s)

/-- FLT_FATAL: clearing VALID clears the rest. -/
def State.clearFatal (s : State) (v : W64) : State := if bit v 63 then s.setReg 0x30110 0 else s

/-- HAP_ERR_LOG: clearing VALID empties the log. -/
def State.clearErrLog (s : State) (v : W64) : State :=
  if bit v 0 then (s.forEach (List.range 8) (fun k s => s.setReg (0x700040 + 8 * k) 0)).setReg 0x700018 0 else s

/-- SLT_PFX_KEY: replaced only while the partition is LOADING (09 R214). -/
def State.writePfxKey (s : State) (p k : Nat) (v : W64) : State :=
  if (s.part p).st ≠ .loading then s
  else s.onPart p (fun x => if k = 0 then { x with pfxKey0 := v } else { x with pfxKey1 := v })

/-- An image's index register: ignored while APPLY is 1, otherwise written, and its apply bit set where the write sets it (R453). -/
def State.stageCtl (s : State) (off : Nat) (v : W64) (fs : List RField) : State :=
  if bit (s.rd off) 63 then s else s.setFields off v fs

/-- A setting of a queue or ring that is written only while it is disabled (15 R337). -/
def State.queueSetting (s : State) (t : Nat) (on : Bool) (f : State) : State := if on then s.inErr t else f

/-- A write of 8 bytes at an aligned offset. `mgmt` says that it came through the management port. -/
def State.writeReg (s : State) (mgmt : Bool) (off : Nat) (v : W64) : State :=
  match regAt off with
  | none => s
  | some h =>
    let v := v &&& s.presentBits h.row.name
    let ix := h.idx
    let i := nth 0 ix 0
    let j := nth 0 ix 1
    let n := h.row.name
    let plain := if v.toNat % s.alignOf n ix = 0 && s.settable n ix then s.setFields off v h.row.fields else s
    if s.absentReg h off then s
    else match n with
    | .beamImgAddr => if mgmt then (s.imgAddr v).1 else s
    | .beamImgData => if mgmt then (s.imgData v).1 else s
    | .beamImgGo => if mgmt then (s.imgGo v).1 else s
    | .rstCtrl => s.rstCtrl mgmt v
    | .secDbgToken => s.tokenWrite i v
    | .secSpdmCtrl => s.spdmWrite .mgmt v
    | .secPartOwner => s.presetOwner i j v
    | .secLock => s.lockSec v
    | .pwrLock => s.lockPwr v
    | .fltHaltN => s.setHaltN v
    | .fltHaltStatus => if mgmt && bit v 3 then s.clearDiscrepancy else s
    | .fltFatal => s.clearFatal v
    | .fltEvtPend => s.clearEvents v
    | .dbgSnapCtrl => s.snapshot v
    | .dbgTraceCtrl => s.traceCtrl v
    | .dbgMark => s.marker 0 0 0 0 (bits v 31 0)
    | .dbgFreeze => if bit v 0 then s.freeze else s
    | .dbgWfgCapture => s.wfCapture v
    | .dbgRodAccess => s.rodAccess v
    | .dbgTrig2 => if bit v 0 then s.softFire i else s
    | .dbgHist => s.setHist i v
    | .counter => s.counterSet off v
    | .seqPartCtrl => s.partCommand (Fin.ofNat 16 i) (bits v 2 0)
    | .seqProfStageCtl => s.stageCtl off v h.row.fields
    | .sltPfxKey => s.writePfxKey i j v
    | .tierCmdTail => s.after (execTierCmdTail v s)
    | .tierPool => if i = 0 && s.settable n ix then s.setFields off (setBits v 63 60 1) h.row.fields else plain
    | .tierPoolCount => s.poolSupply i v
    | .gthRowwrite2 => s.after (execGthRowwrite v s)
    | .gthTblStageCtl => s.stageCtl off v h.row.fields
    | .gthTblRelease => s.writeRelease v
    | .gthInboxEnable => (s.setFields off v h.row.fields).inboxServe i
    | .carDirStageCtl => s.stageCtl off v h.row.fields
    | .fabPortCtrl => s.portCtrl v
    | .fabPrbsCtrl => s.prbsCtrl i v
    | .hapChanEn => s.chanCtrl v
    | .hapLoopCtrl => s.loopCtrl v
    | .hapErrLog => s.clearErrLog v
    | .tenReset => s.tenResetWrite i v
    | .tenInDone => s.bufDone i (bits v 15 0)
    | .tenInFree => s.bufFree i (bits v 15 0)
    | .tenMark => s.marker 2 i 0 0 (bits v 31 0)
    | .tenSqBase => s.queueSetting i (s.sqOn i j) plain
    | .tenSqCfg => s.cfgSq i j v
    | .tenSqTail => s.ringDoorbell i j (bits v 15 0)
    | .tenCqBase => s.queueSetting i (s.cqOn i j) plain
    | .tenCqCfg => s.cfgCq i j v
    | .tenCqHead => s.returnCq i j (bits v 15 0)
    | .tenVecMask => s.maskVecs i v
    | .tenSpdmCtrl => (if h' : i < 64 then s.spdmWrite (.tenant ⟨i, h'⟩) v else s)
    | .tenOringBase => s.queueSetting i (s.ringOn i j) plain
    | .tenOringCfg => s.cfgRing i j v
    | .tenOringTailaddr => s.queueSetting i (s.ringOn i j) plain
    | .tenOringHead => s.returnRing i j v
    | _ => plain

/-! ### Who may reach a register -/

/-- Whether a tenant reaches an offset: its own page, or below 0x0080_0000 with HAP_PRIV (Table 15.3). -/
def State.reaches (s : State) (t off : Nat) : Bool :=
  if off < 0x800000 then bit (s.rd (hReg t 0)) 0 else decide ((off - 0x800000) / 0x10000 = t)

/-- Whether the management port reaches an offset: the always-on set at any time, the rest outside a reset and a freeze (R432). -/
def State.mgmtReaches (s : State) (off : Nat) : Bool := alwaysOn off || off == 0x30110 || s.powered

/-- REGISTER_WRITE: a write that has reached the window; one that is not 8-byte aligned has no effect, and a tenant's is counted (R449). -/
def execRegisterWrite (src : RegSource) (off : BitVec 24) (v : W64) (s : State) : Res :=
  let o := off.toNat
  .next (match src with
    | .tenant t =>
      if !(s.hapUp && s.attached t) then s
      else if o % 8 ≠ 0 then s.inErr t
      else if s.reaches t o then s.writeReg false o v else s
    | .mgmt => if o % 8 = 0 && s.mgmtReaches o then s.writeReg true o v else s)

/-- Whether a write of the image registers is refused (20 R436). -/
def State.imgErr (s : State) (off : Nat) (v : W64) : Bool :=
  if off = 0x1000 then (s.imgAddr v).2 else if off = 0x1008 then (s.imgData v).2 else if off = 0x1010 then (s.imgGo v).2 else false

/-- MANAGEMENT_REQUEST: one request and its response; an error reads 0 and has no effect (R432). -/
def execManagementRequest (wr : Bool) (addr : BitVec 24) (data : W64) (s : State) : Res :=
  let o := addr.toNat
  .next (if o % 8 ≠ 0 || (regAt o).isNone || !s.mgmtReaches o then s.send (.mgmt 0 true)
    else if wr then (s.writeReg true o data).send (.mgmt 0 (s.imgErr o data))
    else (s.readReg o).2.send (.mgmt (s.readReg o).1 false))

end Sys2Proof.Machine
end

