-- ==== Sys2Proof/Machine/Remote.lean ====
section
/-! DEFINITION. Remote operations at their targets in this block (06_remote_memory.md R124 to R144): where an address leads, who may do
what there, the four kinds of operation, and the answers. -/

namespace Sys2Proof.Machine

/-! ### Targets (R124, R125, Table 6.1) -/

/-- What an address and a length lead to: a rod's bead memory, a counter of a rod, a partition range, physical HBM, a register, a
tenant's window, a peer, the shelf; or an error response. -/
inductive Target where
  | bead (l off : Nat)
  | counter (l c : Nat)
  | range (p addr : Nat)
  | hbm (off : Nat)
  | reg (off : Nat)
  | window (t off : Nat)
  | peer (k : Nat)
  | shelf (off : Nat)
  | bad (resp : Nat)
deriving DecidableEq, Repr

/-- Bits [31:0] of a rods address. -/
def State.rodsTarget (s : State) (a len : Nat) : Target :=
  let l := a / 2 ^ 23 % 512
  let off := a % 2 ^ 22
  if l ≥ s.design.rods then .bad 1
  else if a / 2 ^ 22 % 2 = 1 then (if off % 4 = 0 && off / 4 < 16 && len ≤ 4 then .counter l (off / 4) else .bad 1)
  else if off + len > 2 ^ 22 then .bad 1 else .bead l off

/-- A block physical address, for a requester whose partition range is that of `p`. -/
def State.target (s : State) (p : Option Nat) (a len : Nat) : Target :=
  match adClass a with
  | 0 => if a / 2 ^ 32 % 2 ^ 21 ≠ 0 then .bad 1 else s.rodsTarget (a % 2 ^ 32) len
  | 1 =>
    if adForm1 a then (if a / 2 ^ 40 % 2 ^ 12 ≠ 0 || decide (a % 2 ^ 40 + len > s.design.hbmCap) then .bad 1 else .hbm (a % 2 ^ 40))
    else match p with
      | some p => if adRange a + len > 2 ^ 52 then .bad 1 else .range p (adRange a)
      | none => .bad 1
  | 2 => if a / 2 ^ 24 % 2 ^ 29 ≠ 0 || decide (a % 8 + len > 8) then .bad 1 else .reg (a % 2 ^ 24)
  | 3 => if a % 2 ^ 47 + len > 2 ^ 47 then .bad 1 else .window (a / 2 ^ 47 % 64) (a % 2 ^ 47)
  | 4 => if adPeer a = s.fab.pos || decide (2 ≤ adSpace a) then .bad 1 else .peer (adPeer a)
  | 5 => if a / 2 ^ 45 % 2 ^ 8 ≠ 0 || decide (a % 2 ^ 45 + len > (s.rd 0x600048).toNat) then .bad 1 else .shelf (a % 2 ^ 45)
  | _ => .bad 1

/-! ### Data at a target -/

/-- The poisoned parts of a read of `len` bytes at `off` over granules of `size` bytes, by place in the data. -/
def badParts (size off len : Nat) (bad : Nat → Bool) : List (Nat × Nat) :=
  ((granules size off len).filter bad).map (fun g =>
    let lo := max off (size * g)
    (lo - off, min (off + len) (size * (g + 1)) - lo))

def State.hbmParts (s : State) (off len : Nat) : List (Nat × Nat) := badParts 32 off len s.hbmBad
def State.beadParts (s : State) (ph off len : Nat) : List (Nat × Nat) := badParts 8 (2 ^ 22 * ph + off) len s.beadBad

/-- The poisoned parts of a read of the partition range. -/
def State.rangeParts (s : State) (p addr : Nat) (l : List (Nat × Nat)) : List (Nat × Nat) :=
  l.flatMap (fun sp => match s.tier1 p sp.1 with
    | some o => (s.hbmParts o sp.2).map (fun x => (sp.1 - addr + x.1, x.2))
    | none => [])

/-- A read at a target: its data and poisoned parts, or an error response. -/
def State.readAt (s : State) (t : Target) (len : Nat) : Except Nat (List Byte × List (Nat × Nat)) :=
  match t with
  | .bead l off => .ok (s.beadRead (s.phys l) off len, s.beadParts (s.phys l) off len)
  | .hbm off => .ok (s.hbmRead off len, s.hbmParts off len)
  | .range p addr =>
    let l := pageSpans addr len
    let r := s.rangeResp p false l
    if r ≠ 0 then .error r else .ok (l.flatMap (s.spanRead p), s.rangeParts p addr l)
  | .bad r => .error r
  | _ => .error 2

/-- A write at a target for partition `q`: its response, 4 where it meets a poisoned granule that it covers in part (R142, R372). -/
def State.writeAt (s : State) (q : Nat) (t : Target) (bs : List Byte) : Nat × State :=
  let poisonIf (b : Bool) (k : Nat) (s : State) : Nat × State := if b then (4, s.countPoison q k) else (0, s)
  match t with
  | .bead l off =>
    if off + bs.length > 0x3F0000 then (2, s)
    else
      let ph := s.phys l
      poisonIf (s.beadWriteMeets ph off bs.length) (1 + ph) (s.beadWrite ph off bs)
  | .hbm off => poisonIf (s.hbmWriteMeets off bs.length) 0 (s.hbmWrite off bs)
  | .range p addr =>
    let l := pageSpans addr bs.length
    let r := s.rangeResp p true l
    if r ≠ 0 then (r, s.countBad p l)
    else
      let meets := l.any (fun sp => match s.tier1 p sp.1 with | some o => s.hbmWriteMeets o sp.2 | none => false)
      poisonIf meets 0 ((s.writeMeetsDemote p addr bs.length).spansWrite p l bs)
  | .bad r => (r, s)
  | _ => (2, s)

/-! ### Atomics (R82, R114, R131) -/

/-- The new value that an atomic leaves. Widths: 0 INT32, 1 INT64, 2 FP32, 3 UINT32, 4 UINT64. -/
def atomNew (op : AtomOp) (w : Nat) (old b c : W64) : W64 :=
  let o := old.setWidth 32
  let x := b.setWidth 32
  match op with
  | .add => if w = 1 || w = 4 then old + b else if w = 2 then (fadd o x).setWidth 64 else (o + x).setWidth 64
  | .max =>
    if w = 0 then (if o.slt x then x else o).setWidth 64
    else if w = 1 then (if old.slt b then b else old)
    else if w = 2 then (fmax o x).setWidth 64
    else if w = 3 then (if o.ult x then x else o).setWidth 64
    else if old.ult b then b else old
  | .cas =>
    if atomSize w = 8 then (if old = b then c else old)
    else if o = x then (c.setWidth 32).setWidth 64 else o.setWidth 64
  | .xchg => if atomSize w = 8 then b else x.setWidth 64

/-- The widths an atomic takes (R82). -/
def atomWidthOk (op : AtomOp) (w : Nat) : Bool :=
  match op with
  | .add => decide (w ≤ 3) | .max => decide (w ≤ 4)
  | .cas => w == 0 || w == 1 || w == 3 || w == 4 | .xchg => w == 0 || w == 1 || w == 3 || w == 4

/-- An atomic at a target: its response, the old value, the state after. Poisoned, it has no effect. -/
def State.atomAt (s : State) (q : Nat) (t : Target) (op : AtomOp) (w : Nat) (b c : W64) : Nat × W64 × State :=
  let n := atomSize w
  let legal : Bool := match t with
    | .bead _ off => decide (off + n ≤ 0x3F0000)
    | .hbm _ => true
    | .range _ _ => true
    | _ => false
  match t with
  | .bad r => (r, 0, s)
  | _ =>
    if !legal then (2, 0, s)
    else
      let r : Nat := match t with | .range p addr => s.rangeResp p true (pageSpans addr n) | _ => 0
      if r ≠ 0 then (r, 0, (match t with | .range p addr => s.countBad p (pageSpans addr n) | _ => s))
      else match s.readAt t n with
        | .error e => (e, 0, s)
        | .ok (bs, bad) =>
          if !bad.isEmpty then (4, 0, s)
          else
            let old := w64 (leNat bs)
            (0, old, (s.writeAt q t (leBytes n (atomNew op w old b c).toNat)).2)

/-! ### Tally adds (R65, R132, R185, R406, 21 R452) -/

/-- The tally-target registers. -/
inductive TallyReg where
  | barrier (p : Nat)
  | stepEnd (p : Nat)
  | mark (p : Nat)
  | inbox (e : Nat)
deriving DecidableEq, Repr

/-- The tally-target register at an offset. -/
def tallyReg (off : Nat) : Option TallyReg :=
  if off % 8 ≠ 0 then none
  else match regAt off with
    | none => none
    | some h =>
      match h.row.name, h.idx with
      | .seqBarrier, [p] => some (.barrier p)
      | .seqStepend, [p] => some (.stepEnd p)
      | .dbgMarkRod, [p] => some (.mark p)
      | .gthInboxCounter, [e] => some (.inbox e)
      | _, _ => none

/-- The partition a tally-target register belongs to. -/
def State.tallyPart (s : State) : TallyReg → Nat
  | .barrier p => p
  | .stepEnd p => p
  | .mark p => p
  | .inbox e => s.rf (inboxReg e 0x10) 51 48

/-- The phase barrier is complete: it resets, and c14 of every rod rises. -/
def State.barrierRelease (s : State) (p : Nat) : State :=
  ((s.setReg (pReg p 0x100) 0).onPart p (fun x => { x with atBarrier := [] })).forEach (s.rodsOf p) (fun l s => s.addCnt (s.phys l) 14 1)

/-- The step end is complete: it resets, and the open step passes to the Sampler. -/
def State.stepEnd (s : State) (p : Nat) : State :=
  (s.setReg (pReg p 0x108) 0).onPart p (fun x => { x with atEnd := [], ended := x.opened.isSome })

/-- An increment reaches a tally-target register; `l` is the rod that made it. -/
def State.tallyAdd (s : State) (r : TallyReg) (inc : W32) (l : Option Nat) : State :=
  match r with
  | .barrier p =>
    let v := (s.rd (pReg p 0x100)).setWidth 32 + inc
    let s1 := (s.setReg (pReg p 0x100) (v.setWidth 64)).onPart p (fun x => { x with atBarrier := x.atBarrier ++ l.toList })
    if v.toNat = (s.rodsOf p).length then s1.barrierRelease p else s1
  | .stepEnd p =>
    let v := (s.rd (pReg p 0x108)).setWidth 32 + inc
    let s1 := (s.setReg (pReg p 0x108) (v.setWidth 64)).onPart p (fun x => { x with atEnd := x.atEnd ++ l.toList })
    if v.toNat = (s.rodsOf p).length then s1.stepEnd p else s1
  | .mark p =>
    let v := (s.rd (0x40400 + 8 * p)).setWidth 32 + inc
    (s.setReg (0x40400 + 8 * p) (v.setWidth 64)).marker 1 0 p (l.getD 0) inc.toNat
  | .inbox e =>
    let v := (s.rd (inboxReg e 0x18)).setWidth 32 + inc
    (s.setReg (inboxReg e 0x18) (v.setWidth 64)).inboxServe e

/-! ### Operations of the block's rods -/

/-- What a rod of partition `p` may do at a target, before the target itself answers (Table 6.1, R127). -/
def State.rodPermits (s : State) (p : Nat) (t : Target) : Nat :=
  match t with
  | .bead l _ => if s.partOf l = some p then 0 else 2
  | .range _ _ => 0
  | .bad r => r
  | _ => 2

/-- A rod's operation that has not been performed, and none older of its rod overlaps its range (R135). -/
def State.arriving (s : State) (l tag : Nat) (sel : RemKind → Bool) : Option (Nat × RemOp) :=
  let r := s.rod (s.phys l)
  match s.partOf l, r.rem.find? (fun o => decide (o.tag = tag)) with
  | some p, some o =>
    let older := r.rem.any (fun x => decide (x.ord < o.ord) && x.done.isNone && x.kind.toTarget &&
      adClass x.addr == adClass o.addr && overlap x.addr x.len o.addr o.len)
    if s.live && o.done.isNone && o.scope == 0 && sel o.kind && decide (adClass o.addr < 4) && !older then some (p, o) else none
  | _, _ => none

/-- Where a form 0 access to these spans is performed: the least tier among its pages (R137). -/
def State.spanScope (s : State) (p : Nat) (l : List (Nat × Nat)) : Nat :=
  l.foldl (fun m sp => match s.xlat p sp.1 with | .page e _ _ _ => min m (entryTier e) | _ => min m 1) 3

/-- The spans of a target in the partition range, and those of them in lower frames: place in the data, block physical address, length. -/
def Target.spansOf (t : Target) (len : Nat) : List (Nat × Nat) := match t with | .range _ a => pageSpans a len | _ => []
def State.lowerSpans (s : State) (p : Nat) (l : List (Nat × Nat)) : List (Nat × Nat × Nat) :=
  l.filterMap (fun sp => match s.xlat p sp.1 with
    | .page e _ b _ => if entryTier e = 1 then none else some (sp.1 - (l.headD (0, 0)).1, extAddr e (sp.1 - b), sp.2)
    | _ => none)

/-- The target's answer reaches the operation. -/
def State.answer (s : State) (l tag : Nat) (f : RemOp → RemOp) : State :=
  s.onRod (s.phys l) (fun r => { r with rem := r.rem.map (fun o => if o.tag = tag then f o else o) })

/-- A GET is performed at each page's location; its parts in lower frames leave the block, and their answers complete it (12 R267). -/
def State.rodGet (s : State) (l tag : Nat) : State :=
  match s.arriving l tag (· == .get) with
  | none => s
  | some (p, o) =>
    let t := s.target (some p) o.addr o.len
    let perm := s.rodPermits p t
    if perm ≠ 0 then s.answer l tag (fun o => { o with done := some perm, scope := 1 })
    else match s.readAt t o.len with
      | .error e => (s.answer l tag (fun o => { o with done := some e, scope := 1 })).countBad p (t.spansOf o.len)
      | .ok d =>
        let low := s.lowerSpans p (t.spansOf o.len)
        let s1 := s.answer l tag (fun o => { o with
          done := if low.isEmpty then some 0 else none, data := d.1, poison := d.2, scope := s.spanScope p (t.spansOf o.len) })
        if low.isEmpty then s1 else
        (s1.forEach low (fun x s =>
          s.unitOp (.rod (s.phys l) o.ord x.1) p 1 x.2.1 x.2.2 [] (sealedAt x.2.1) 0 0 0)).settleRods

def State.rodPut (s : State) (l tag : Nat) : State :=
  match s.arriving l tag (· == .put) with
  | none => s
  | some (p, o) =>
    let t := s.target (some p) o.addr o.len
    let perm := s.rodPermits p t
    if perm ≠ 0 then s.answer l tag (fun o => { o with done := some perm, scope := 1 })
    else
      let r := s.writeAt p t o.data
      r.2.answer l tag (fun o => { o with done := some r.1, scope := 1 })

def State.rodAtomic (s : State) (l tag : Nat) : State :=
  match s.arriving l tag (fun k => match k with | .atom _ _ => true | _ => false) with
  | none => s
  | some (p, o) =>
    match o.kind with
    | .atom op w =>
      let t := s.target (some p) o.addr (atomSize w)
      let perm := s.rodPermits p t
      if perm ≠ 0 then s.answer l tag (fun o => { o with done := some perm, scope := 1 })
      else
        let r := s.atomAt p t op w o.b o.c
        r.2.2.answer l tag (fun o => { o with done := some r.1, old := r.2.1, scope := 1 })
    | _ => s

/-- A rod's tally add: counters c0 to c13 of its own partition's rods, and the tally-target registers of its partition. -/
def State.rodTally (s : State) (l tag : Nat) : State :=
  match s.arriving l tag (· == .taddR) with
  | none => s
  | some (p, o) =>
    let inc : W32 := o.b.setWidth 32
    let done (r : Nat) (s : State) : State := s.answer l tag (fun o => { o with done := some r })
    match s.target (some p) o.addr 4 with
    | .counter l2 c =>
      if c ≥ 14 then done (if l2 = l then 2 else 7) s
      else if s.partOf l2 ≠ some p then done 2 s
      else done 0 (s.onRod (s.phys l2) (fun r => r.addCnt c inc))
    | .reg off =>
      match tallyReg off with
      | some r => if s.tallyPart r = p then done 0 (s.tallyAdd r inc (some l)) else done 2 s
      | none => done 2 s
    | .bad r => done r s
    | _ => done 2 s

/-! ### Operations of peers (R128, 14 R308, R309) -/

/-- The export space of a target: 0 HBM, 1 bead memory, 2 counters. -/
def Target.space : Target → Nat | .hbm _ => 0 | .bead _ _ => 1 | .counter _ _ => 2 | _ => 3

/-- Whether some window admits an access in full: its space, its range, the peer, the partition and the kind of access (bit 8 read, 9
write, 10 atomic, 11 tally add). -/
def State.exported (s : State) (sp addr len src part kind : Nat) : Bool :=
  (List.range 64).any (fun w =>
    let base := (s.rd (0x600800 + 0x20 * w)).toNat
    let size := (s.rd (0x600808 + 0x20 * w)).toNat
    let ctl := s.rd (0x600810 + 0x20 * w)
    decide (0 < size) && bits ctl 13 12 == sp && decide (base ≤ addr) && decide (addr + len ≤ base + size) &&
      bit ctl kind && decide (src < 8) && bit ctl src && bit ctl (16 + part))

/-- Where a peer's request leads: an address in HBM space or rods space. -/
def State.peerTarget (s : State) (a len : Nat) : Target :=
  match a / 2 ^ 48 % 4 with
  | 0 => if a % 2 ^ 48 + len > s.design.hbmCap then .bad 1 else .hbm (a % 2 ^ 48)
  | 1 => if a / 2 ^ 32 % 2 ^ 16 ≠ 0 then .bad 1 else s.rodsTarget (a % 2 ^ 32) len
  | _ => .bad 1

/-- The response that the checks draw for a peer's access; 0 where it is admitted. -/
def State.peerCheck (s : State) (r : PeerReq) (len kind : Nat) : Nat :=
  match s.peerTarget r.flit.addr len with
  | .bad e => e
  | t => if s.exported t.space (r.flit.addr % 2 ^ 48) len r.src r.flit.part kind then 0 else 2

/-- A response leaves on the port the request came by, with its tag. -/
def State.peerReply (s : State) (port : Nat) (f : Flit) (op len status : Nat) (w2 : W64) (data : List Byte) : State :=
  s.linkSend port (mkFlit op s.fab.pos f.part f.tag len f.width status f.addr w2 0 data)

/-- The oldest request of a port, where it is of this kind, is performed and answered. -/
def State.peerServe (s : State) (port : Nat) (sel : Nat → Bool) (f : PeerReq → State → State) : State :=
  match s.takeRequest port sel with
  | none => s
  | some (r, s1) => if s.live then f r s1 else s

def State.peerGet (s : State) (port : Nat) : State :=
  s.peerServe port (· == 1) (fun r s =>
    let f := r.flit
    let e := s.peerCheck r f.len 8
    if e ≠ 0 then s.peerReply port f 8 1 e 0 []
    else match s.readAt (s.peerTarget f.addr f.len) f.len with
      | .error e => s.peerReply port f 8 1 e 0 []
      | .ok d => s.peerReply port f 9 f.len (if d.2.isEmpty then 0 else 4) 0 d.1)

def State.peerPut (s : State) (port : Nat) : State :=
  s.peerServe port (· == 2) (fun r s =>
    let f := r.flit
    let e := s.peerCheck r f.len 9
    if e ≠ 0 then s.peerReply port f 8 1 e 0 []
    else
      let x := s.writeAt f.part (s.peerTarget f.addr f.len) (f.data.take f.len)
      x.2.peerReply port f 8 1 x.1 0 [])

def atomOfFlit : Nat → AtomOp | 3 => .add | 4 => .max | 5 => .cas | _ => .xchg

def State.peerAtomic (s : State) (port : Nat) : State :=
  s.peerServe port (fun op => decide (3 ≤ op ∧ op ≤ 6)) (fun r s =>
    let f := r.flit
    let op := atomOfFlit f.op
    let n := atomSize f.width
    let e := if f.addr % n ≠ 0 then 1 else if !atomWidthOk op f.width then 2 else s.peerCheck r n 10
    if e ≠ 0 then s.peerReply port f 8 1 e 0 []
    else
      let x := s.atomAt f.part (s.peerTarget f.addr n) op f.width f.w2 f.w3
      if x.1 ≠ 0 then x.2.2.peerReply port f 8 1 x.1 0 [] else x.2.2.peerReply port f 0xA 1 0 x.2.1 [])

def State.peerTally (s : State) (port : Nat) : State :=
  s.peerServe port (· == 7) (fun r s =>
    let f := r.flit
    match s.peerTarget f.addr 4 with
    | .counter l c =>
      if c ≥ 14 then s.peerReply port f 8 1 7 0 []
      else if s.peerCheck r 4 11 ≠ 0 then s.peerReply port f 8 1 2 0 []
      else (s.onRod (s.phys l) (fun x => x.addCnt c (f.w2.setWidth 32))).peerReply port f 8 1 0 0 []
    | .bad e => s.peerReply port f 8 1 e 0 []
    | _ => s.peerReply port f 8 1 2 0 [])

/-! ### Operations of the beam (R12, R127) -/

/-- An operation of the beam beyond the block: what it learns is Penub's. -/
def State.beamOp (s : State) (op : Nat) (o : BeamOp) (len : Nat) (data : List Byte) : State :=
  (s.unitOp .note 0 op o.addr.toNat len data (decide (adClass o.addr.toNat = 5)) o.width o.b o.c).settleNotes

/-- The beam's reads: a register that a read changes changes; what lies beyond the block is asked for. -/
def State.beamGet (s : State) (o : BeamOp) : State :=
  match s.target none o.addr.toNat o.len with
  | .reg off => (s.readReg (off / 8 * 8)).2
  | .peer _ => s.beamOp 1 o o.len []
  | .window _ _ => s.beamOp 1 o o.len []
  | .shelf _ => s.beamOp 1 o o.len []
  | _ => s

/-- The beam's writes: only the Tier mover writes the shelf (R127). -/
def State.beamPut (s : State) (o : BeamOp) : State :=
  match s.target none o.addr.toNat o.data.length with
  | .reg off => if off % 8 = 0 && o.data.length = 8 then s.writeReg false off (w64 (leNat o.data)) else s
  | .peer _ => s.beamOp 2 o o.data.length o.data
  | .window _ _ => s.beamOp 2 o o.data.length o.data
  | t => (s.writeAt 16 t o.data).2

def State.beamAtomic (s : State) (o : BeamOp) : State :=
  let op := atomOfFlit (o.op + 1)
  let n := atomSize o.width
  match s.target none o.addr.toNat n with
  | .peer _ => s.beamOp (o.op + 1) o 1 []
  | .bead l off => if atomWidthOk op o.width && decide (off % n = 0) then (s.atomAt 16 (.bead l off) op o.width o.b o.c).2.2 else s
  | _ => s

def State.beamTally (s : State) (o : BeamOp) : State :=
  match s.target none o.addr.toNat 4 with
  | .counter l c => if c ≥ 14 then s else s.onRod (s.phys l) (fun r => r.addCnt c (o.b.setWidth 32))
  | .reg off => (match tallyReg off with | some r => s.tallyAdd r (o.b.setWidth 32) none | none => s)
  | .peer _ => s.beamOp 7 o 1 []
  | _ => s

/-! ### The rows -/

/-- REMOTE_GET_ARRIVE: a GET reaches its target, which checks it and returns the data. -/
def execRemoteGetArrive (src : Requester) (s : State) : Res :=
  .next (match src with
    | .rod l tag => s.rodGet l tag
    | .peer port => s.peerGet port
    | .beam o => if s.live then s.beamGet o else s)

/-- REMOTE_PUT_ARRIVE. -/
def execRemotePutArrive (src : Requester) (s : State) : Res :=
  .next (match src with
    | .rod l tag => s.rodPut l tag
    | .peer port => s.peerPut port
    | .beam o => if s.live then s.beamPut o else s)

/-- REMOTE_ATOMIC_ARRIVE: one indivisible step at the target. -/
def execRemoteAtomicArrive (src : Requester) (s : State) : Res :=
  .next (match src with
    | .rod l tag => s.rodAtomic l tag
    | .peer port => s.peerAtomic port
    | .beam o => if s.live then s.beamAtomic o else s)

/-- TALLY_ADD_ARRIVE: the increment is applied modulo 2^32. -/
def execTallyAddArrive (src : Requester) (s : State) : Res :=
  .next (match src with
    | .rod l tag => s.rodTally l tag
    | .peer port => s.peerTally port
    | .beam o => if s.live then s.beamTally o else s)

end Sys2Proof.Machine
end

