-- ==== Sys2Proof/Machine/HostIn.lean ====
section
/-! DEFINITION. The host attach port's messages (15_host_attach.md R326 to R333, 19 R417, R418, 20 R447, 21 R449): beats and credits,
the checks of inbound messages, their effect, events, outbound messages, timeouts, loopback. -/

namespace Sys2Proof

open Sys2Proof.Machine

/-! ### Fields of a message (Table 15.1) -/

def Msg.word (m : Msg) (k : Nat) : W64 := nth 0 m.hdr k
def Msg.type (m : Msg) : Nat := bits (m.word 0) 63 60
def Msg.tenant (m : Msg) : Nat := bits (m.word 0) 59 54
def Msg.tag (m : Msg) : Nat := bits (m.word 0) 47 32
def Msg.len (m : Msg) : Nat := bits (m.word 0) 31 20 + 1
def Msg.status (m : Msg) : Nat := bits (m.word 0) 19 16
def Msg.space (m : Msg) : Nat := bits (m.word 1) 63 62
def Msg.off (m : Msg) : Nat := bits (m.word 1) 46 0

/-- Data beats that the header announces (R326). -/
def Msg.dataBeats (m : Msg) : Nat :=
  if m.type = 1 || m.type = 0xD then ceilDiv (m.off % 64 + m.len) 64 else 0
def Msg.beats (m : Msg) : Nat := 1 + m.dataBeats

/-- The bytes of the message's range. -/
def Msg.bytes (m : Msg) : List Byte := rangeOf m.off m.len m.data

/-- Whether the message obeys Table 15.1: its type, reserved fields, tag, Length, Status, space and operand. -/
def Msg.formed (m : Msg) : Bool :=
  let ty := m.type
  (ty == 1 || ty == 2 || ty == 4 || ty == 8 || ty == 0xC || ty == 0xD) &&
    bits (m.word 0) 53 48 == 0 && bits (m.word 0) 15 0 == 0 && bits (m.word 1) 61 47 == 0 &&
    (List.range 5).all (fun k => m.word (3 + k) == 0) &&
    (ty == 8 || ty == 0xC || ty == 0xD || m.tag == 0) && (ty == 0xC || ty == 0xD || m.status == 0) &&
    (ty == 1 || ty == 8 || ty == 0xD || m.len == 1) && decide (m.space ≤ 1) &&
    (if ty = 2 then m.word 2 == ((m.word 2).setWidth 32).signExtend 64 else m.word 2 == 0)

end Sys2Proof

namespace Sys2Proof.Machine

/-! ### Beats and credits (R328, 19 R418) -/

def State.beatErr (s : State) (n : Nat) : State := s.bump (cntTen 0 0) n

/-- A message whose beats have all arrived under credits, in whole, or what its bad beats count. A channel that is disabled has no
credit, and a completion needs none elsewhere. -/
def State.arrived (s : State) (ch : Nat) (m : Msg) (f : State → State) : Res :=
  let x := s.chan ch
  let credit := if !bit (s.rd 0x700000) ch then 0
    else if m.type = 0xC || m.type = 0xD then m.beats else if m.type = 8 then x.inNon else x.inPosted
  let got := 1 + m.data.length / 64
  .next (if !s.hapUp then s
    else if credit < got then s.beatErr (got - credit)
    else if got < m.beats then s
    else f (s.beatErr (got - m.beats)))

/-! ### Loopback (20 R447) -/

def State.looped (s : State) (ch : Nat) : Bool := bit (s.rd 0x700010) ch

/-- A message that reaches a channel in loopback: a WRITE goes back with the same header and data, another is discarded and counted. -/
def State.loopback (s : State) (ch : Nat) (m : Msg) : State :=
  if m.type = 1 then s.setChan ch { s.chan ch with posted := (s.chan ch).posted ++ [⟨m.hdr, m.data⟩] } else s.inErr m.tenant

/-! ### The inbound checks (R330, Table 15.3) -/

/-- The first rejected header is kept. -/
def State.logHeader (s : State) (m : Msg) : State :=
  if bit (s.rd 0x700018) 0 then s
  else (s.forEach (List.range 8) (fun k s => s.setReg (0x700040 + 8 * k) (m.word k))).setReg 0x700018 1

/-- A posted message that fails a check has no effect and is counted. -/
def State.rejectPosted (s : State) (m : Msg) : State := (s.logHeader m).inErr m.tenant

/-- Whether an offset of the window lies within reach of a tenant; reserved offsets beyond the tenant pages belong to none. -/
def State.inReach (s : State) (t off : Nat) : Bool := decide (0xC00000 ≤ off) || s.reaches t off

def State.inBase (s : State) (t : Nat) : Nat := (s.rd (hReg t 0x10)).toNat
def State.inSlot (s : State) (t : Nat) : Nat := 2 ^ s.rf (hReg t 0x18) 4 0
def State.inCount (s : State) (t : Nat) : Nat := s.rf (hReg t 0x20) 16 0

/-- The response a message draws of Table 15.3, in its order; 0 where every check passes. -/
def State.hostCheck (s : State) (m : Msg) : Nat :=
  let t := m.tenant
  if !s.attached t then 2
  else if m.space = 0 && !s.inReach t m.off then 2
  else if m.space = 1 && decide (s.inCount t * s.inSlot t ≤ m.off) then 1
  else if m.type = 2 && (!bit (s.rd (hReg t 0)) 0 || m.space ≠ 0 || (tallyReg m.off).isNone) then 2
  else if m.type = 1 && m.space = 1 && decide (2 ≤ s.bufState t (m.off / s.inSlot t)) then 2
  else if m.off % 4096 + m.len > 4096 then 1
  else 0

/-- Whether the check that fails is the one of a late write into an input buffer. -/
def State.lateWrite (s : State) (m : Msg) : Bool :=
  s.attached m.tenant && m.type == 1 && m.space == 1 && decide (m.off < s.inCount m.tenant * s.inSlot m.tenant) &&
    decide (2 ≤ s.bufState m.tenant (m.off / s.inSlot m.tenant))

/-- A posted message is performed, and counted where it came by another channel than its tenant's (R331). -/
def State.posted (s : State) (ch : Nat) (m : Msg) (f : State → State) : State :=
  if s.home m.tenant = ch then f s else f (s.bump (cntTen m.tenant 1) 1)

/-- A posted message passes its checks or is rejected. -/
def State.checked (s : State) (ch : Nat) (m : Msg) (f : State → State) : State :=
  if s.lateWrite m then (s.rejectPosted m).bump (cntTen m.tenant 4) 1
  else if s.hostCheck m ≠ 0 then s.rejectPosted m
  else s.posted ch m f

/-! ### WRITE and TALLY -/

/-- Successive 8-byte writes in ascending order (R449). -/
def State.writeRegs (s : State) (off : Nat) (ws : List W64) : State :=
  s.forEach ((List.range ws.length).zip ws) (fun x s => s.writeReg false (off + 8 * x.1) x.2)

/-- A write of the register window or of an input buffer. -/
def State.performWrite (s : State) (m : Msg) : State :=
  let t := m.tenant
  if m.space = 1 then
    let o := s.inBase t + m.off
    let s1 := if s.hbmWriteMeets o m.len then s.countPoison 16 0 else s
    s1.hbmWrite o m.bytes
  else if m.off % 8 ≠ 0 || m.len % 8 ≠ 0 then s.inErr t
  else s.writeRegs m.off (wordsOf (m.len / 8) m.bytes)

/-- WRITE_INBOUND. -/
def execWriteInbound (ch : Fin 4) (m : Msg) (s : State) : Res :=
  s.arrived ch m (fun s =>
    if s.looped ch then s.loopback ch m
    else if !m.formed || m.type ≠ 1 then s
    else s.checked ch m (fun s => s.performWrite m))

/-- TALLY_INBOUND: the increment is added to the tally-target register. -/
def execTallyInbound (ch : Fin 4) (m : Msg) (s : State) : Res :=
  s.arrived ch m (fun s =>
    if s.looped ch then s.loopback ch m
    else if !m.formed || m.type ≠ 2 then s
    else s.checked ch m (fun s =>
      match tallyReg m.off with | some r => s.tallyAdd r ((m.word 2).setWidth 32) none | none => s))

/-! ### READ (R327, R449) -/

/-- An answer leaves at once, or once a halt is released (17 R390). -/
def State.respond (s : State) (ch : Nat) (hdr : List W64) (data : List Byte) : State :=
  if s.halted then s.setChan ch { s.chan ch with answers := (s.chan ch).answers ++ [⟨hdr, data⟩] } else s.send (.host ch hdr data)

def State.respondErr (s : State) (ch : Nat) (m : Msg) (code : Nat) : State :=
  s.respond ch (mkHdr 0xC m.tenant m.tag 0 code 0 0 0) []
def State.respondData (s : State) (ch : Nat) (m : Msg) (bs : List Byte) : State :=
  s.respond ch (mkHdr 0xD m.tenant m.tag (m.len - 1) 0 m.space m.off 0) (beatsOf m.off bs)

/-- Successive 8-byte reads in ascending order. -/
def State.readRegs (s : State) (off : Nat) : Nat → List Byte × State
  | 0 => ([], s)
  | n + 1 =>
    let x := s.readReg off
    let y := State.readRegs x.2 (off + 8) n
    (leBytes 8 x.1.toNat ++ y.1, y.2)

/-- A READ of the register window: whole registers, or 4 bytes of one; any other size or alignment is ADDRESS. -/
def State.readWindow (s : State) (ch : Nat) (m : Msg) : State :=
  if m.off % 8 = 0 && m.len % 8 = 0 then
    let x := s.readRegs m.off (m.len / 8)
    x.2.respondData ch m x.1
  else if m.off % 4 = 0 && m.len = 4 then
    let x := s.readReg (m.off / 8 * 8)
    x.2.respondData ch m (((leBytes 8 x.1.toNat).drop (m.off % 8)).take 4)
  else (s.respondErr ch m 1).inErr m.tenant

/-- READ_INBOUND. -/
def execReadInbound (ch : Fin 4) (m : Msg) (s : State) : Res :=
  s.arrived ch m (fun s =>
    if s.looped ch then s.inErr m.tenant
    else if !m.formed || m.type ≠ 8 then s
    else if s.hostCheck m ≠ 0 then s.respondErr ch m (s.hostCheck m)
    else if m.space = 0 then s.readWindow ch m
    else
      let o := s.inBase m.tenant + m.off
      if s.hbmRangeBad o m.len then s.respondErr ch m 4 else s.respondData ch m (s.hbmRead o m.len))

/-! ### Completions of the block's READs (R327, R332) -/

/-- The READ that a completion names. -/
def State.readOf (s : State) (ch tag t : Nat) : Option OutRead :=
  s.reads.find? (fun r => r.ch == ch && r.tag == tag && r.tenant == t)
def State.dropRead (s : State) (r : OutRead) : State := { s with reads := s.reads.erase r }

/-- A READ ends with an error response, or with all of its data: what it was issued for takes it (R338, 12 R262). -/
def State.readFailed (s : State) (r : OutRead) (resp : Nat) : State :=
  match r.unit with
  | none => (s.dropRead r).fetchFailed r
  | some tag => ((s.dropRead r).unitRead tag r.off resp []).settleOps
def State.readDone (s : State) (r : OutRead) : State :=
  match r.unit with
  | none => s.fetched r
  | some tag => (s.unitRead tag r.off 0 r.got).settleOps

/-- A completion reaches its READ; without one it is discarded. One that breaks Table 15.1 makes the READ take TIMEOUT. -/
def State.completion (s : State) (ch : Nat) (m : Msg) (ty : Nat) (f : OutRead → State → State) : State :=
  if s.looped ch then s.inErr m.tenant
  else if m.type ≠ ty then s
  else match s.readOf ch m.tag m.tenant with
    | none => s
    | some r => if m.formed then f r s else s.readFailed r 6

/-- CPL_INBOUND: an error ends the READ with it; OK before all of its data ends it with ADDRESS and is counted. -/
def execCplInbound (ch : Fin 4) (m : Msg) (s : State) : Res :=
  s.arrived ch m (fun s => s.completion ch m 0xC (fun r s =>
    let s1 := s.readFailed r (if m.status = 0 then 1 else m.status)
    if m.status = 0 then s1.inErr m.tenant else s1))

/-- CPL_DATA_INBOUND: the next contiguous part of the data; the last part ends the READ. -/
def execCplDataInbound (ch : Fin 4) (m : Msg) (s : State) : Res :=
  s.arrived ch m (fun s => s.completion ch m 0xD (fun r s =>
    let r1 : OutRead := { r with got := r.got ++ m.bytes }
    if m.status ≠ 0 || m.off ≠ r.off + r.got.length || decide (r.len < r1.got.length) then s.readFailed r 1
    else if r1.got.length = r.len then (s.dropRead r).readDone r1
    else { s with reads := s.reads.map (fun x => if x = r then r1 else x) }))

/-! ### Events (R333, R347) -/

/-- An EVENT reaches a tenant: it ends loopback on its channel first; by another channel than the tenant's it is counted. -/
def State.eventIn (s : State) (ch t : Nat) (f : State → State) : Res :=
  .next (if !s.hapUp then s
    else if !bit (s.rd 0x700000) ch || (s.chan ch).inPosted = 0 then s.beatErr 1
    else
      let s1 := s.setRf 0x700010 ch ch 0
      f (if s1.home t = ch then s1 else s1.bump (cntTen t 1) 1))

def execAttach (ch : Fin 4) (t : Fin 64) (s : State) : Res := s.eventIn ch t (fun s => s.attachTen t)
def execDetach (ch : Fin 4) (t : Fin 64) (s : State) : Res := s.eventIn ch t (fun s => s.detachTen t)
def execReset (ch : Fin 4) (t : Fin 64) (s : State) : Res := s.eventIn ch t (fun s => s.resetTen t)

/-! ### Bad beats and credits -/

/-- BAD_BEAT: it has no effect and is counted for tenant 0. -/
def execBadBeat (ch : Fin 4) (form : BeatForm) (s : State) : Res :=
  .next (if !s.hapUp then s
    else match ch, form with
      | _, .dataWithoutHeader => s.beatErr 1
      | _, .headerWhileOwed => s.beatErr 1
      | _, .withoutCredit n => s.beatErr n)

/-- CREDIT_RETURN: one beat credit of its class. -/
def execCreditReturn (ch : Fin 4) (cls : CreditClass) (s : State) : Res :=
  let x := s.chan ch
  .next (if !s.hapUp then s
    else match cls with
      | .posted => s.setChan ch { x with outPosted := x.outPosted + 1 }
      | .nonposted => s.setChan ch { x with outNon := x.outNon + 1 })

/-! ### Outbound messages (R328, R329, R331) -/

/-- Whether a channel sends: it is enabled, and no halt is in effect. -/
def State.sends (s : State) (ch : Nat) : Bool := s.hapUp && bit (s.rd 0x700000) ch && !s.halted

/-- WRITE_OUTBOUND: the oldest posted message of the channel leaves under credits for its beats. -/
def execWriteOutbound (ch : Fin 4) (s : State) : Res :=
  let x := s.chan ch
  .next (match x.posted with
    | [] => s
    | m :: r =>
      let n := 1 + m.data.length / 64
      if s.sends ch && decide (n ≤ x.outPosted) then
        (s.setChan ch { x with posted := r, outPosted := x.outPosted - n }).send (.host ch m.hdr m.data)
      else s)

/-- READ_OUTBOUND: the oldest READ of the channel leaves under a credit, after the posted messages of its tenant, with at most 256
outstanding. -/
def execReadOutbound (ch : Fin 4) (s : State) : Res :=
  let x := s.chan ch
  .next (match x.reads with
    | [] => s
    | r :: rest =>
      let before := x.posted.any (fun m => bits (nth 0 m.hdr 0) 59 54 == r.tenant)
      let open_ := (s.reads.filter (fun y => y.ch == ch.val)).length
      if s.sends ch && decide (1 ≤ x.outNon) && !before && decide (open_ < 256) then
        let r1 : OutRead := { r with tag := x.nextTag % 65536, ch := ch }
        let s1 := s.setChan ch { x with reads := rest, outNon := x.outNon - 1, nextTag := (x.nextTag + 1) % 65536 }
        ({ s1 with reads := s1.reads ++ [r1] }).send (.host ch (mkHdr 8 r.tenant r1.tag (r.len - 1) 0 0 r.off 0) [])
      else s)

/-- HAP_TIMEOUT_EXPIRE: a READ without its response takes TIMEOUT; the timers stop in halt (17 R390). -/
def execHapTimeoutExpire (ch : Fin 4) (tag : BitVec 16) (s : State) : Res :=
  .next (match s.reads.find? (fun r => r.ch == ch.val && r.tag == tag.toNat) with
    | none => s
    | some r => if s.hapUp && !s.halted then s.readFailed r 6 else s)

/-- LOOPBACK_WRITE: in loopback an inbound WRITE goes back outbound. -/
def execLoopbackWrite (ch : Fin 4) (m : Msg) (s : State) : Res :=
  s.arrived ch m (fun s => if s.looped ch && m.formed then s.loopback ch m else s)

end Sys2Proof.Machine
end

