-- ==== Sys2Proof/Machine/Dispatch.lean ====
section
/-! DEFINITION. The commands dispatched to their meanings: one arm per row of the table. -/

namespace Sys2Proof.Machine

def exec (i : Instr) (s : State) : Host.Outcome State Fault Refusal :=
  match i with
  | .nop l => Sys2Proof.Machine.execNop l s
  | .srRd l => Sys2Proof.Machine.execSrRd l s
  | .srWr l => Sys2Proof.Machine.execSrWr l s
  | .brk l => Sys2Proof.Machine.execBreak l s
  | .br l => Sys2Proof.Machine.execBr l s
  | .bl l => Sys2Proof.Machine.execBl l s
  | .jr l => Sys2Proof.Machine.execJr l s
  | .jlr l => Sys2Proof.Machine.execJlr l s
  | .integerOp l => Sys2Proof.Machine.execIntegerOp l s
  | .integerImmediateOp l => Sys2Proof.Machine.execIntegerImmediateOp l s
  | .cmp l => Sys2Proof.Machine.execCmp l s
  | .cmpi l => Sys2Proof.Machine.execCmpi l s
  | .pred l => Sys2Proof.Machine.execPred l s
  | .fp32ScalarOp l => Sys2Proof.Machine.execFp32ScalarOp l s
  | .ld l => Sys2Proof.Machine.execLd l s
  | .st l => Sys2Proof.Machine.execSt l s
  | .wait l => Sys2Proof.Machine.execWait l s
  | .waitRelease l => Sys2Proof.Machine.execWaitRelease l s
  | .tadd l => Sys2Proof.Machine.execTadd l s
  | .tileTake l => Sys2Proof.Machine.execTileTake l s
  | .tileSteal l => Sys2Proof.Machine.execTileSteal l s
  | .stealWalkEnd l => Sys2Proof.Machine.execStealWalkEnd l s
  | .tilePut l => Sys2Proof.Machine.execTilePut l s
  | .vectorOp l => Sys2Proof.Machine.execVectorOp l s
  | .vld l => Sys2Proof.Machine.execVld l s
  | .vst l => Sys2Proof.Machine.execVst l s
  | .vcvtTo l => Sys2Proof.Machine.execVcvtTo l s
  | .vcvtSc l => Sys2Proof.Machine.execVcvtSc l s
  | .vcvtFrom l => Sys2Proof.Machine.execVcvtFrom l s
  | .accRd l => Sys2Proof.Machine.execAccRd l s
  | .accWr l => Sys2Proof.Machine.execAccWr l s
  | .accClr l => Sys2Proof.Machine.execAccClr l s
  | .mma l => Sys2Proof.Machine.execMma l s
  | .mmaLatched l => Sys2Proof.Machine.execMmaLatched l s
  | .carryMap l => Sys2Proof.Machine.execCarryMap l s
  | .carryMix l => Sys2Proof.Machine.execCarryMix l s
  | .carryDown l => Sys2Proof.Machine.execCarryDown l s
  | .carryUp l => Sys2Proof.Machine.execCarryUp l s
  | .carryAdd l => Sys2Proof.Machine.execCarryAdd l s
  | .get l => Sys2Proof.Machine.execGet l s
  | .put l => Sys2Proof.Machine.execPut l s
  | .aadd l => Sys2Proof.Machine.execAadd l s
  | .amax l => Sys2Proof.Machine.execAmax l s
  | .acas l => Sys2Proof.Machine.execAcas l s
  | .axchg l => Sys2Proof.Machine.execAxchg l s
  | .taddR l => Sys2Proof.Machine.execTaddR l s
  | .fenceL l => Sys2Proof.Machine.execFenceL l s
  | .fenceB l => Sys2Proof.Machine.execFenceB l s
  | .fenceP l => Sys2Proof.Machine.execFenceP l s
  | .fenceH l => Sys2Proof.Machine.execFenceH l s
  | .fenceComplete l => Sys2Proof.Machine.execFenceComplete l s
  | .gather l => Sys2Proof.Machine.execGather l s
  | .gatherComplete l tag => Sys2Proof.Machine.execGatherComplete l tag s
  | .streamArm l => Sys2Proof.Machine.execStreamArm l s
  | .samplePut l => Sys2Proof.Machine.execSamplePut l s
  | .samplePutEmpty l => Sys2Proof.Machine.execSamplePutEmpty l s
  | .asyncComplete l u => Sys2Proof.Machine.execAsyncComplete l u s
  | .rodException l => Sys2Proof.Machine.execRodException l s
  | .remoteGetArrive src => Sys2Proof.Machine.execRemoteGetArrive src s
  | .remotePutArrive src => Sys2Proof.Machine.execRemotePutArrive src s
  | .remoteAtomicArrive src => Sys2Proof.Machine.execRemoteAtomicArrive src s
  | .tallyAddArrive src => Sys2Proof.Machine.execTallyAddArrive src s
  | .remoteResponse l tag response => Sys2Proof.Machine.execRemoteResponse l tag response s
  | .remoteTimeout l tag => Sys2Proof.Machine.execRemoteTimeout l tag s
  | .create p => Sys2Proof.Machine.execCreate p s
  | .start p => Sys2Proof.Machine.execStart p s
  | .release p => Sys2Proof.Machine.execRelease p s
  | .releaseWithReplay p => Sys2Proof.Machine.execReleaseWithReplay p s
  | .partitionReset p => Sys2Proof.Machine.execPartitionReset p s
  | .partitionResetEnd p => Sys2Proof.Machine.execPartitionResetEnd p s
  | .delete p => Sys2Proof.Machine.execDelete p s
  | .buildStart p => Sys2Proof.Machine.execBuildStart p s
  | .buildEnd p => Sys2Proof.Machine.execBuildEnd p s
  | .stepSeal p => Sys2Proof.Machine.execStepSeal p s
  | .launchStaggerEnd p group => Sys2Proof.Machine.execLaunchStaggerEnd p group s
  | .samplePutCopy l tag => Sys2Proof.Machine.execSamplePutCopy l tag s
  | .samplerChoose p => Sys2Proof.Machine.execSamplerChoose p s
  | .journalComplete p => Sys2Proof.Machine.execJournalComplete p s
  | .stepTimeout p => Sys2Proof.Machine.execStepTimeout p s
  | .submit t q k e => Sys2Proof.Machine.execSubmit t q k e s
  | .pause t q k => Sys2Proof.Machine.execPause t q k s
  | .park t q k => Sys2Proof.Machine.execPark t q k s
  | .resume t q k => Sys2Proof.Machine.execResume t q k s
  | .resumeComplete k => Sys2Proof.Machine.execResumeComplete k s
  | .cancel t q k => Sys2Proof.Machine.execCancel t q k s
  | .adapterInstall t q k => Sys2Proof.Machine.execAdapterInstall t q k s
  | .adapterReplace t q k => Sys2Proof.Machine.execAdapterReplace t q k s
  | .adapterRemove t q k => Sys2Proof.Machine.execAdapterRemove t q k s
  | .load t q k model manifest => Sys2Proof.Machine.execLoad t q k model manifest s
  | .shardVerify p k r => Sys2Proof.Machine.execShardVerify p k r s
  | .loadComplete p => Sys2Proof.Machine.execLoadComplete p s
  | .slateSweep => Sys2Proof.Machine.execSlateSweep s
  | .slateFree k => Sys2Proof.Machine.execSlateFree k s
  | .packComplete k => Sys2Proof.Machine.execPackComplete k s
  | .carDirStageApply p => Sys2Proof.Machine.execCarDirStageApply p s
  | .directoryApply p => Sys2Proof.Machine.execDirectoryApply p s
  | .gthTblStageApply => Sys2Proof.Machine.execGthTblStageApply s
  | .tableApply => Sys2Proof.Machine.execTableApply s
  | .gthTblRelease v => Sys2Proof.Machine.execGthTblRelease v s
  | .seqProfStageApply p => Sys2Proof.Machine.execSeqProfStageApply p s
  | .profileApply p => Sys2Proof.Machine.execProfileApply p s
  | .gthRowwrite v => Sys2Proof.Machine.execGthRowwrite v s
  | .rowWriteFlip => Sys2Proof.Machine.execRowWriteFlip s
  | .lookupReply e => Sys2Proof.Machine.execLookupReply e s
  | .hotSetRefresh tbl changes => Sys2Proof.Machine.execHotSetRefresh tbl changes s
  | .shardMigration tbl bucket owner offset newMap => Sys2Proof.Machine.execShardMigration tbl bucket owner offset newMap s
  | .replicaGrant tbl row sharer => Sys2Proof.Machine.execReplicaGrant tbl row sharer s
  | .replicaInvalidate tbl row => Sys2Proof.Machine.execReplicaInvalidate tbl row s
  | .invalReceive port => Sys2Proof.Machine.execInvalReceive port s
  | .invalReplyReceive port => Sys2Proof.Machine.execInvalReplyReceive port s
  | .invalRetry tbl row sharer => Sys2Proof.Machine.execInvalRetry tbl row sharer s
  | .grantReceive port => Sys2Proof.Machine.execGrantReceive port s
  | .evict home tbl row => Sys2Proof.Machine.execEvict home tbl row s
  | .evictReceive port => Sys2Proof.Machine.execEvictReceive port s
  | .map k => Sys2Proof.Machine.execMap k s
  | .unmap k => Sys2Proof.Machine.execUnmap k s
  | .promote k => Sys2Proof.Machine.execPromote k s
  | .promoteComplete p page => Sys2Proof.Machine.execPromoteComplete p page s
  | .demote k => Sys2Proof.Machine.execDemote k s
  | .demoteComplete p page => Sys2Proof.Machine.execDemoteComplete p page s
  | .demoteWaitExpire p page => Sys2Proof.Machine.execDemoteWaitExpire p page s
  | .ref k => Sys2Proof.Machine.execRef k s
  | .unref k => Sys2Proof.Machine.execUnref k s
  | .frameRelease k => Sys2Proof.Machine.execFrameRelease k s
  | .tierCmdTail v => Sys2Proof.Machine.execTierCmdTail v s
  | .streamAccept l tag => Sys2Proof.Machine.execStreamAccept l tag s
  | .extentComplete p slot e => Sys2Proof.Machine.execExtentComplete p slot e s
  | .extentFail p slot e response => Sys2Proof.Machine.execExtentFail p slot e response s
  | .scrubCheck p k => Sys2Proof.Machine.execScrubCheck p k s
  | .scrubMismatch p k => Sys2Proof.Machine.execScrubMismatch p k s
  | .refetchComplete p r => Sys2Proof.Machine.execRefetchComplete p r s
  | .refetchLimitExpire p => Sys2Proof.Machine.execRefetchLimitExpire p s
  | .imbalanceWindow bytes => Sys2Proof.Machine.execImbalanceWindow bytes s
  | .groupReceive port g => Sys2Proof.Machine.execGroupReceive port g s
  | .nakReceive port ack => Sys2Proof.Machine.execNakReceive port ack s
  | .laneWindow port counts => Sys2Proof.Machine.execLaneWindow port counts s
  | .laneFail port lane cause => Sys2Proof.Machine.execLaneFail port lane cause s
  | .laneSwapReceive port lane spare => Sys2Proof.Machine.execLaneSwapReceive port lane spare s
  | .laneSwapComplete port => Sys2Proof.Machine.execLaneSwapComplete port s
  | .probeLightSeen port => Sys2Proof.Machine.execProbeLightSeen port s
  | .lightLost port => Sys2Proof.Machine.execLightLost port s
  | .frameLock port => Sys2Proof.Machine.execFrameLock port s
  | .identityReceive port id => Sys2Proof.Machine.execIdentityReceive port id s
  | .spdmSessionComplete port ok identity => Sys2Proof.Machine.execSpdmSessionComplete port ok identity s
  | .peerPresent port => Sys2Proof.Machine.execPeerPresent port s
  | .linkDown port => Sys2Proof.Machine.execLinkDown port s
  | .verifiedGroupSilence port => Sys2Proof.Machine.execVerifiedGroupSilence port s
  | .ctrlLeaveReceive port => Sys2Proof.Machine.execCtrlLeaveReceive port s
  | .portHoldDarkEnd port => Sys2Proof.Machine.execPortHoldDarkEnd port s
  | .keyUpdate port => Sys2Proof.Machine.execKeyUpdate port s
  | .keySwitchReceive port boundary => Sys2Proof.Machine.execKeySwitchReceive port boundary s
  | .syncTimer => Sys2Proof.Machine.execSyncTimer s
  | .syncReq port => Sys2Proof.Machine.execSyncReq port s
  | .syncRsp port => Sys2Proof.Machine.execSyncRsp port s
  | .ident port source reply => Sys2Proof.Machine.execIdent port source reply s
  | .status port source reply => Sys2Proof.Machine.execStatus port source reply s
  | .setPower port source value reply => Sys2Proof.Machine.execSetPower port source value reply s
  | .light port source lit reply => Sys2Proof.Machine.execLight port source lit reply s
  | .readPower port source reply => Sys2Proof.Machine.execReadPower port source reply s
  | .readTemp port source reply => Sys2Proof.Machine.execReadTemp port source reply s
  | .laserReplyTimeout port source => Sys2Proof.Machine.execLaserReplyTimeout port source s
  | .laserFaultEdge port => Sys2Proof.Machine.execLaserFaultEdge port s
  | .writeInbound ch m => Sys2Proof.Machine.execWriteInbound ch m s
  | .tallyInbound ch m => Sys2Proof.Machine.execTallyInbound ch m s
  | .readInbound ch m => Sys2Proof.Machine.execReadInbound ch m s
  | .cplInbound ch m => Sys2Proof.Machine.execCplInbound ch m s
  | .cplDataInbound ch m => Sys2Proof.Machine.execCplDataInbound ch m s
  | .attach ch t => Sys2Proof.Machine.execAttach ch t s
  | .detach ch t => Sys2Proof.Machine.execDetach ch t s
  | .reset ch t => Sys2Proof.Machine.execReset ch t s
  | .badBeat ch form => Sys2Proof.Machine.execBadBeat ch form s
  | .creditReturn ch cls => Sys2Proof.Machine.execCreditReturn ch cls s
  | .writeOutbound ch => Sys2Proof.Machine.execWriteOutbound ch s
  | .readOutbound ch => Sys2Proof.Machine.execReadOutbound ch s
  | .hapTimeoutExpire ch tag => Sys2Proof.Machine.execHapTimeoutExpire ch tag s
  | .tenSqTail t q v => Sys2Proof.Machine.execTenSqTail t q v s
  | .sqFetch t q => Sys2Proof.Machine.execSqFetch t q s
  | .cqPost t q => Sys2Proof.Machine.execCqPost t q s
  | .tenCqHead t q v => Sys2Proof.Machine.execTenCqHead t q v s
  | .tenSqCfg t q v => Sys2Proof.Machine.execTenSqCfg t q v s
  | .tenCqCfg t q v => Sys2Proof.Machine.execTenCqCfg t q v s
  | .tenInDone t v => Sys2Proof.Machine.execTenInDone t v s
  | .tenInFree t v => Sys2Proof.Machine.execTenInFree t v s
  | .tenOringCfg t r v => Sys2Proof.Machine.execTenOringCfg t r v s
  | .tenOringHead t r v => Sys2Proof.Machine.execTenOringHead t r v s
  | .vectorFire t vec => Sys2Proof.Machine.execVectorFire t vec s
  | .tenVecMask t v => Sys2Proof.Machine.execTenVecMask t v s
  | .tenReset t v => Sys2Proof.Machine.execTenReset t v s
  | .tenantResetEnd t => Sys2Proof.Machine.execTenantResetEnd t s
  | .tenMark t v => Sys2Proof.Machine.execTenMark t v s
  | .tenSpdmGo t v => Sys2Proof.Machine.execTenSpdmGo t v s
  | .secSpdmGo v => Sys2Proof.Machine.execSecSpdmGo v s
  | .spdmResponse who => Sys2Proof.Machine.execSpdmResponse who s
  | .hapLoopCtrl v => Sys2Proof.Machine.execHapLoopCtrl v s
  | .loopbackWrite ch m => Sys2Proof.Machine.execLoopbackWrite ch m s
  | .presentRise => Sys2Proof.Machine.execPresentRise s
  | .presentFall => Sys2Proof.Machine.execPresentFall s
  | .secDbgChal => Sys2Proof.Machine.execSecDbgChal s
  | .secDbgToken w v => Sys2Proof.Machine.execSecDbgToken w v s
  | .secLock v => Sys2Proof.Machine.execSecLock v s
  | .pwrLock v => Sys2Proof.Machine.execPwrLock v s
  | .secPartOwner p w v => Sys2Proof.Machine.execSecPartOwner p w v s
  | .correctableError loc => Sys2Proof.Machine.execCorrectableError loc s
  | .uncorrectableError loc => Sys2Proof.Machine.execUncorrectableError loc s
  | .patrol granule => Sys2Proof.Machine.execPatrol granule s
  | .channelFailing stack ch => Sys2Proof.Machine.execChannelFailing stack ch s
  | .channelCopyEnd stack => Sys2Proof.Machine.execChannelCopyEnd stack s
  | .channelLost stack ch => Sys2Proof.Machine.execChannelLost stack ch s
  | .slateUe k word => Sys2Proof.Machine.execSlateUe k word s
  | .fixedFunctionUe p u => Sys2Proof.Machine.execFixedFunctionUe p u s
  | .spareSubstitution l => Sys2Proof.Machine.execSpareSubstitution l s
  | .rodCeLimit l => Sys2Proof.Machine.execRodCeLimit l s
  | .peerWaitExpire pos => Sys2Proof.Machine.execPeerWaitExpire pos s
  | .lockstepMismatch pair => Sys2Proof.Machine.execLockstepMismatch pair s
  | .heartbeatExpire pair => Sys2Proof.Machine.execHeartbeatExpire pair s
  | .beamFailover => Sys2Proof.Machine.execBeamFailover s
  | .fallbackFreeze => Sys2Proof.Machine.execFallbackFreeze s
  | .haltAssert ch => Sys2Proof.Machine.execHaltAssert ch s
  | .haltDiscrepancy => Sys2Proof.Machine.execHaltDiscrepancy s
  | .haltRelease ch => Sys2Proof.Machine.execHaltRelease ch s
  | .fltHaltN v => Sys2Proof.Machine.execFltHaltN v s
  | .discrepancyClear => Sys2Proof.Machine.execDiscrepancyClear s
  | .fieldRotation phys => Sys2Proof.Machine.execFieldRotation phys s
  | .rotationTestEnd phys pass => Sys2Proof.Machine.execRotationTestEnd phys pass s
  | .sramCeLimit phys element => Sys2Proof.Machine.execSramCeLimit phys element s
  | .fltEvtPend v => Sys2Proof.Machine.execFltEvtPend v s
  | .dbgSnapCtrl v => Sys2Proof.Machine.execDbgSnapCtrl v s
  | .dbgFreeze v => Sys2Proof.Machine.execDbgFreeze v s
  | .dbgWfgCapture v => Sys2Proof.Machine.execDbgWfgCapture v s
  | .wfgSecondCapture p => Sys2Proof.Machine.execWfgSecondCapture p s
  | .dbgRodAccess v => Sys2Proof.Machine.execDbgRodAccess v s
  | .dbgMark v => Sys2Proof.Machine.execDbgMark v s
  | .triggerFire n => Sys2Proof.Machine.execTriggerFire n s
  | .dbgTrigFire n => Sys2Proof.Machine.execDbgTrigFire n s
  | .triggerFreeze n => Sys2Proof.Machine.execTriggerFreeze n s
  | .traceLoss port => Sys2Proof.Machine.execTraceLoss port s
  | .dbgHist n v => Sys2Proof.Machine.execDbgHist n v s
  | .histogramSample n => Sys2Proof.Machine.execHistogramSample n s
  | .counterWrite off v => Sys2Proof.Machine.execCounterWrite off v s
  | .powerOn => Sys2Proof.Machine.execPowerOn s
  | .rstNAssert => Sys2Proof.Machine.execRstNAssert s
  | .rstNRelease => Sys2Proof.Machine.execRstNRelease s
  | .rstGlitch => Sys2Proof.Machine.execRstGlitch s
  | .pgLost mask => Sys2Proof.Machine.execPgLost mask s
  | .cold => Sys2Proof.Machine.execCold s
  | .warm => Sys2Proof.Machine.execWarm s
  | .thermalSample temps watts alert vrhot => Sys2Proof.Machine.execThermalSample temps watts alert vrhot s
  | .thermtrip => Sys2Proof.Machine.execThermtrip s
  | .vrhot => Sys2Proof.Machine.execVrhot s
  | .thermAlert => Sys2Proof.Machine.execThermAlert s
  | .clockStep => Sys2Proof.Machine.execClockStep s
  | .governorTick filler => Sys2Proof.Machine.execGovernorTick filler s
  | .groupRelease p => Sys2Proof.Machine.execGroupRelease p s
  | .clocks boardPos => Sys2Proof.Machine.execClocks boardPos s
  | .sram repairable => Sys2Proof.Machine.execSram repairable s
  | .keys => Sys2Proof.Machine.execKeys s
  | .hbm trained => Sys2Proof.Machine.execHbm trained s
  | .image => Sys2Proof.Machine.execImage s
  | .beamImgAddr v => Sys2Proof.Machine.execBeamImgAddr v s
  | .beamImgData v => Sys2Proof.Machine.execBeamImgData v s
  | .beamImgGo v => Sys2Proof.Machine.execBeamImgGo v s
  | .auth => Sys2Proof.Machine.execAuth s
  | .beam pairA pairB => Sys2Proof.Machine.execBeam pairA pairB s
  | .rods failing => Sys2Proof.Machine.execRods failing s
  | .links => Sys2Proof.Machine.execLinks s
  | .sync => Sys2Proof.Machine.execSync s
  | .host => Sys2Proof.Machine.execHost s
  | .ready => Sys2Proof.Machine.execReady s
  | .failed => Sys2Proof.Machine.execFailed s
  | .managementRequest wr addr data => Sys2Proof.Machine.execManagementRequest wr addr data s
  | .wsBypass jtag => Sys2Proof.Machine.execWsBypass jtag s
  | .wsExtest jtag cells => Sys2Proof.Machine.execWsExtest jtag cells s
  | .wsIntest jtag cells => Sys2Proof.Machine.execWsIntest jtag cells s
  | .wsScan jtag data => Sys2Proof.Machine.execWsScan jtag data s
  | .wsLbist jtag list => Sys2Proof.Machine.execWsLbist jtag list s
  | .wsMbist jtag list => Sys2Proof.Machine.execWsMbist jtag list s
  | .wsFuse jtag w => Sys2Proof.Machine.execWsFuse jtag w s
  | .wsHbm jtag stack => Sys2Proof.Machine.execWsHbm jtag stack s
  | .wsIjtag jtag => Sys2Proof.Machine.execWsIjtag jtag s
  | .idcode => Sys2Proof.Machine.execIdcode s
  | .samplePreload cells => Sys2Proof.Machine.execSamplePreload cells s
  | .bypass => Sys2Proof.Machine.execBypass s
  | .tstHbmCtrl stack phys pat first count => Sys2Proof.Machine.execTstHbmCtrl stack phys pat first count s
  | .fabPrbsCtrl port v => Sys2Proof.Machine.execFabPrbsCtrl port v s
  | .registerWrite src off v => Sys2Proof.Machine.execRegisterWrite src off v s
  | .adapterImageVerified t k addr r => Sys2Proof.Machine.execAdapterImageVerified t k addr r s
  | .rowWriteHoldExpire tbl row => Sys2Proof.Machine.execRowWriteHoldExpire tbl row s
  | .replicateRow tbl row sharer => Sys2Proof.Machine.execReplicateRow tbl row sharer s
  | .debugTokenVerified => Sys2Proof.Machine.execDebugTokenVerified s
  | .powerGoodStable => Sys2Proof.Machine.execPowerGoodStable s
  | .testLogicReset => Sys2Proof.Machine.execTestLogicReset s

end Sys2Proof.Machine
end

