-- ==== Sys2Proof/Machine/Tick.lean ====
section
/-! DEFINITION. What passes with time alone: one cycle of aon_clk (19 Table 19.2: 100 MHz, 10 ns). -/

namespace Sys2Proof.Machine

/-- The discrepancy counter: consecutive ticks in which the halt channels differ; at FLT_HALT_N the bit latches (17 R389). -/
def State.discrepancyTick (s : State) : State :=
  let w := s.rd 0x30108
  if bit w 1 == bit w 2 then s.setRf 0x30108 31 16 0
  else
    let n := min 0xFFFF (bits w 31 16 + 1)
    let s1 := s.setRf 0x30108 31 16 n
    if n ≥ s.rf 0x30100 15 0 then s1.setRf 0x30108 3 3 1 else s1

/-- What board time gains on time_clk in 10 ns, in 10^-5 ns: the rate steered, and of the offset to be slewed what the limits of 0.9995 and
1.0005 admit (14 R323). -/
def Fabric.gain (x : Fabric) : Int := x.rate + max (-500 - x.rate) (min (500 - x.rate) x.slewing)

/-- Board time is steered in phase and rate: by whole nanoseconds, as steering has gained them. -/
def State.slewTick (s : State) : State :=
  let g := s.fab.gain
  let a := s.fab.frac + g
  { s with time := s.time + w64i (a.tdiv 100000)
           fab := { s.fab with slewing := s.fab.slewing - (g - s.fab.rate), frac := a.tmod 100000 } }

/-- Cycles of the domains in 10 ns: rod_clk, mesh_clk, hap_clk, mem_clk (the last two within the ranges of Table 19.2, as the licensee
and the stacks have them). -/
def hapCycles : Nat := min 20 (max 10 (Config.fuse 2).toNat)
def memCycles : Nat := min 16 (max 8 (Config.fuse 3).toNat)

/-- An occupancy sum and its high-water mark (18 R399). -/
def State.occTick (s : State) (off src inst cycles : Nat) : State :=
  let n := s.occupancy src inst
  if n = 0 then s
  else
    let s1 := s.bump off (n * cycles)
    if n ≤ bits (s1.rd (off + 8)) 47 0 then s1 else s1.setReg (off + 8) (setBits (s1.rd (off + 8)) 47 0 n)

/-- The occupancy counters of a partition: sources 0, 1, 2, 4 and 6. -/
def State.partOccTick (s : State) (p : Nat) : State :=
  s.forEach [(0, 0, 16), (1, 1, s.pwr.freq), (2, 2, s.pwr.freq), (3, 4, 16), (4, 6, 16)] (fun x s =>
    s.occTick (cntPart p (56 + 2 * x.1)) x.2.1 p x.2.2)

/-- Nanoseconds in which a rod of a partition stalls on a stream, charged to the deepest tier with undelivered bytes (12 R282). -/
def State.stallTick (s : State) (p : Nat) : State :=
  let on (l c : Nat) : Bool := match (s.rod (s.phys l)).issue with | .waiting _ n _ => n == c | _ => false
  let es := ((s.part p).streams.flatMap (·.extents)).filter (fun e => on e.rod e.cnt)
  let tier (e : Extent) : Nat := (pageSpans e.src e.len).foldl (fun m sp =>
    match s.xlat p sp.1 with | .page x _ _ _ => max m (entryTier x) | _ => m) 1
  if es.isEmpty then s else s.bump (cntPart p (49 + es.foldl (fun m e => max m (tier e)) 1)) 10

/-- The counters that count time and cycles. Rods, mesh and links stand still in a freeze (18 R407). -/
def State.clockTick (s : State) : State :=
  let run := s.rstState == 0 || s.rstState == 4
  let s1 := if run then (s.bump (cntBlk 59) 1).bump (cntBlk 58) hapCycles else s
  if !s.powered then s1
  else
    let s2 := (({ s1 with pwr := { s1.pwr.vidStep s1.time with cycles := s1.pwr.cycles + s.pwr.freq } }).bump (cntBlk 56) s.pwr.freq).bump (cntBlk 57) 16
    let s3 := if s.pwr.freq < 20 then s2.bump (cntBlk 33) 10 else s2
    let s4 := s3.forEach (List.range s.design.stacks) (fun k s => s.bump (cntStack k 4) memCycles)
    let s5 := s4.forEach (List.range 8) (fun p s =>
      if (s.port p).locked then
        (s.bump (cntPort p 5) (s.time.toNat * 7 / 4 - (s.time.toNat - 10) * 7 / 4)).occTick (cntPort p 6) 9 p 17 else s)
    let s6 := (s5.parts.map (·.1)).foldl (fun s p => (s.partOccTick p).stallTick p) s5
    let s7 := (s6.tenants.map (·.1)).foldl (fun s t => s.occTick (cntTen t 32) 7 t 16) s6
    let s8 := s7.forEach (List.range 4) (fun c s => s.occTick (0x4A800 + 0x20 * c) 10 c hapCycles)
    let s9 := if s8.tier.queue.isEmpty then s8
      else s8.forEach (List.range 16) (fun n s => s.occTick (0x4A900 + 0x10 * n) 11 n 16)
    let s10 := if s9.fab.ops.isEmpty then s9
      else s9.forEach (List.range 32) (fun e s => s.occTick (0x4A000 + 0x40 * e) 3 e 16)
    s10.occTick (cntBlk 60) 5 0 16

/-- RST_HOLD_TIME counts microseconds while the block is held in reset and stops at its top (19 R430). -/
def State.holdTick (s : State) : State :=
  if s.rstState = 1 then s.setReg 0x10010 (w64 (min ((s.time.toNat - s.pwr.heldSince.toNat) / 1000) (2 ^ 48 - 1))) else s

/-- What a link does of its own accord: the requester's first SPDM message, and a group of IDLE flits where credits are owed (14 R307,
R315). -/
def State.linkTick (s : State) : State :=
  if s.fabUp then s.forEach (List.range 8) (fun p s => (s.spdmBegin p).idleGroup p) else s

/-- What the units do of their own accord: operations beyond the block expire, demotions that a write has met abort, loads in progress move
on, lost adapters are staged as ABSENT (06 R144, 12 R275, 13 R293, 17 Table 17.4). -/
def State.unitTick (s : State) : State :=
  if s.live then s.opsExpire.settleOps.settleDemotes.forEach (List.range 16) (fun p s => (s.loadStep p).dirNext p) else s

/-- One cycle of aon_clk: board time advances by 10 ns. -/
def State.tick (s : State) : State :=
  ({ s with time := s.time + 10 }).slewTick.discrepancyTick.holdTick.clockTick.linkTick.unitTick

end Sys2Proof.Machine
end

