-- ==== Sys2Proof/Safety.lean ====
section
/-! DEFINITION. What counts as a safe state of the block, and the terms the statements use: when a rod issues its next instruction. -/

namespace Sys2Proof.Machine

/-- Every memory of the block is in its canonical form (Store.lean). -/
def State.memWf (s : State) : Bool := s.hbm.wf && s.bead.wf && s.imem.wf && s.ext.wf && s.boot.wf

/-- The next instruction of logical rod l where it issues (R41, R43, R73, R74, R75): the rod may issue, its word lies in the image and
decodes, its unit has room, no older instruction makes it wait, and its predicate reads 1. -/
def State.nextOp (s : State) (l : Nat) : Option Ctx :=
  match s.canIssue l with
  | none => none
  | some c0 =>
    match s.fetch c0 with
    | none => none
    | some w =>
      match RodInstr.decode w with
      | none => none
      | some i =>
        let c := { c0 with word := w, op := i.op }
        let r := s.rod c.ph
        let room := match i.op.unit with | some (u, _) => !r.full u | none => true
        if room && !r.issueWaits i.op && r.pget i.pred then some c else none

/-- Whether an instruction that issues is executed at once: one of a local asynchronous unit only where its unit has nothing else to do and
may start it (R41 to R43, R246); the others always. -/
def State.startsNow (s : State) (c : Ctx) : Bool :=
  match c.op.unit with
  | none => true
  | some (.remote, _) => true
  | some (u, _) => ((s.rod c.ph).queueOf u).isEmpty && s.canStart c u

/-- The next instruction of logical rod l where it issues and is executed at once. -/
def State.readyOp (s : State) (l : Nat) : Option Ctx := (s.nextOp l).filter (fun c => s.startsNow c)

/-- The state in which the instruction `c` has raised the exception `k` at its issue (R89, R90): the rod stays on it, holds its record and
issues nothing further; its units have discarded what they had not started; nothing else has changed. -/
def State.raises (s : State) (c : Ctx) (k : Nat) : State :=
  let r := s.rod c.ph
  s.setRod c.ph { r with
    raised := [⟨k, c.pc.toNat % 2 ^ 17, c.word, c.ord, 0, 0⟩], ord := c.ord + 1
    mq := r.mq.filter (·.started), vq := r.vq.filter (·.started), cq := r.cq.filter (·.started)
    rem := r.rem.filter (fun o => o.kind != .suppressed && o.taken) }

/-- The state in which the instruction `c` has raised the exception `k` as its unit executed it (R89, R90): the same, with the program
address past it. -/
def State.unitRaises (s : State) (c : Ctx) (k : Nat) : State :=
  (s.raises c k).setRod c.ph { (s.raises c k).rod c.ph with pc := c.pc + 8 }

/-! ### Terms of the statements -/

/-- The special registers a rod can read, with their values (Table 4.3): index and value for the instruction `c`. -/
def State.sprTable (s : State) (c : Ctx) : List (Nat × W64) :=
  [(0x00, w64 c.l), (0x01, w64 (c.l / 8)), (0x02, w64 c.p), (0x03, if s.design.tally ≤ c.l then 1 else 0), (0x04, w64 c.ph),
   (0x05, w64 (s.rodsOf c.p).length), (0x08, (s.rod c.ph).astat.setWidth 64), (0x09, (s.rod c.ph).ecause.setWidth 64),
   (0x0A, (s.rod c.ph).epc.setWidth 64), (0x0B, (s.rod c.ph).eword), (0x10, w64 (s.pwr.cycles - (s.part c.p).cycle0)), (0x11, s.time)] ++
  (List.range 16).map (fun k => (0x20 + k, ((s.rod c.ph).cnt k).setWidth 64))

/-- A branch that is taken (R85, R98): to an 8-byte aligned target inside the loaded image the rod goes, with the link written; any other
target raises FETCH. -/
def State.branchTo (s : State) (c : Ctx) (target : W64) (link : Nat) : State :=
  if target.toNat % 8 = 0 ∧ target.toNat / 8 < (s.rod c.ph).imgLen then
    s.setRod c.ph { (s.rod c.ph).sset link (c.pc + 8) with pc := target, ord := c.ord + 1 }
  else s.raises c 0x02

/-- The result `v` of an integer function on the operands (Table 5.1); `sh` is the shift-amount field. -/
def IntResult (f : Nat) (a b c : W64) (sh : Nat) (v : W64) : Prop :=
  (f = 0x00 → v.toNat = (a.toNat + b.toNat) % 2 ^ 64) ∧
  (f = 0x01 → (v.toNat + b.toNat) % 2 ^ 64 = a.toNat) ∧
  (f = 0x02 → v.toNat = a.toNat * b.toNat % 2 ^ 64) ∧
  (f = 0x03 → v.toNat = a.toNat * b.toNat / 2 ^ 64) ∧
  (f = 0x04 → v.toInt = a.toInt * b.toInt / 2 ^ 64) ∧
  (f = 0x05 → v.toNat = (a.toNat * b.toNat + c.toNat) % 2 ^ 64) ∧
  (f = 0x08 → ∀ i, v.getLsbD i = (a.getLsbD i && b.getLsbD i)) ∧
  (f = 0x09 → ∀ i, v.getLsbD i = (a.getLsbD i || b.getLsbD i)) ∧
  (f = 0x0A → ∀ i, v.getLsbD i = xor (a.getLsbD i) (b.getLsbD i)) ∧
  (f = 0x0B → ∀ i, v.getLsbD i = (a.getLsbD i && !b.getLsbD i)) ∧
  (f = 0x10 → v.toNat = a.toNat * 2 ^ (b.toNat % 64) % 2 ^ 64) ∧
  (f = 0x11 → v.toNat = a.toNat / 2 ^ (b.toNat % 64)) ∧
  (f = 0x12 → v.toInt = a.toInt / 2 ^ (b.toNat % 64)) ∧
  (f = 0x14 → v.toNat = a.toNat * 2 ^ sh % 2 ^ 64) ∧
  (f = 0x15 → v.toNat = a.toNat / 2 ^ sh) ∧
  (f = 0x16 → v.toInt = a.toInt / 2 ^ sh) ∧
  (f = 0x18 → v.toInt = min a.toInt b.toInt) ∧
  (f = 0x19 → v.toInt = max a.toInt b.toInt) ∧
  (f = 0x1A → v.toNat = min a.toNat b.toNat) ∧
  (f = 0x1B → v.toNat = max a.toNat b.toNat) ∧
  (f = 0x1C → (a = 0 → v.toNat = 64) ∧ (a ≠ 0 → v.toNat ≤ 63 ∧ a.toNat / 2 ^ (63 - v.toNat) = 1)) ∧
  (f = 0x1D → v.toNat = ((List.range 64).filter (fun i => a.getLsbD i)).length)

/-- Whether a condition of CMP holds between two 64-bit operands (R85, R95). The FP32 conditions take the low 32 bits; a NaN operand
makes FEQ, FLT and FLE false and FUN true. -/
def CmpResult (f : Nat) (a b : W64) (v : Bool) : Prop :=
  (f = 0 → (v = true ↔ a = b)) ∧ (f = 1 → (v = true ↔ a ≠ b)) ∧
  (f = 2 → (v = true ↔ a.toInt < b.toInt)) ∧ (f = 3 → (v = true ↔ b.toInt ≤ a.toInt)) ∧
  (f = 4 → (v = true ↔ a.toNat < b.toNat)) ∧ (f = 5 → (v = true ↔ b.toNat ≤ a.toNat)) ∧
  (f32IsNan (a.setWidth 32) = true ∨ f32IsNan (b.setWidth 32) = true → (f = 6 ∨ f = 7 ∨ f = 8 → v = false) ∧ (f = 9 → v = true)) ∧
  (f32IsNan (a.setWidth 32) = false → f32IsNan (b.setWidth 32) = false →
    (f = 6 → (v = true ↔ f32Key (a.setWidth 32) = f32Key (b.setWidth 32))) ∧
    (f = 7 → (v = true ↔ f32Key (a.setWidth 32) < f32Key (b.setWidth 32))) ∧
    (f = 8 → (v = true ↔ f32Key (a.setWidth 32) ≤ f32Key (b.setWidth 32))) ∧ (f = 9 → v = false))

/-- What a load of width code `w` makes of the bytes it reads: zero-extended for codes 0 to 3, sign-extended for 4 to 6 (R78). -/
def LoadResult (w : Nat) (bs : List Byte) (v : W64) : Prop :=
  (w ≤ 3 → v.toNat = leNat bs) ∧
  (w = 4 → v = (BitVec.ofNat 8 (leNat bs)).signExtend 64) ∧ (w = 5 → v = (BitVec.ofNat 16 (leNat bs)).signExtend 64) ∧
  (w = 6 → v = (BitVec.ofNat 32 (leNat bs)).signExtend 64)

/-- The bytes a width code moves (R78). -/
def widthBytes (w : Nat) : Nat := if w = 0 ∨ w = 4 then 1 else if w = 1 ∨ w = 5 then 2 else if w = 3 then 8 else 4

/-- A queue after its tail entry's highest tile is taken. -/
def stolen (q : List TileEntry) (e : TileEntry) : List TileEntry :=
  if e.count ≤ 1 then q else q ++ [{ e with count := e.count - 1 }]

/-- One element of an accumulator: row and column. -/
def Rod.tat (r : Rod) (t row col : Nat) : W32 := Sparse.get 0 r.t (1024 * t + 64 * row + col)

/-- Only the physical rod `ph` differs between two states, and of it only what `same` does not keep: the program address and the place in
issue order move past one instruction. -/
structure OnlyRod (s t : State) (c : Ctx) : Prop where
  state : t = { s with rods := t.rods }
  others : ∀ k, k ≠ c.ph → t.rod k = s.rod k
  pc : (t.rod c.ph).pc = c.pc + 8
  ord : (t.rod c.ph).ord = c.ord + 1

/-- The vector unit has performed an instruction of the rod that writes vector register `d` lane by lane: lane n holds `g n`, every other
vector register, every scalar register, predicate, counter and accumulator is unchanged, the flags `fl` are added, and the instruction
stays in the unit's queue with its completion counter. -/
structure VecWritten (s t : State) (c : Ctx) (d : Nat) (g : Nat → W32) (fl : BitVec 2) (cnt : Option Nat) : Prop where
  only : OnlyRod s t c
  lanes : ∀ n, n < 64 → (t.rod c.ph).vlane d n = g n
  rest : ∀ k n, n < 64 → k ≠ d → (t.rod c.ph).vlane k n = (s.rod c.ph).vlane k n
  same : (t.rod c.ph).s = (s.rod c.ph).s ∧ (t.rod c.ph).p = (s.rod c.ph).p ∧ (t.rod c.ph).c = (s.rod c.ph).c ∧
    (t.rod c.ph).t = (s.rod c.ph).t ∧ (t.rod c.ph).mq = (s.rod c.ph).mq ∧ (t.rod c.ph).cq = (s.rod c.ph).cq
  flags : (t.rod c.ph).astat = (s.rod c.ph).astat ||| fl
  queued : (t.rod c.ph).vq = [⟨c.op, c.ord, c.pc, c.word, cnt, false, true, [], []⟩]

/-- The vector functions that work lane by lane on v[a], v[b] and v[c] (Table 5.4). -/
def laneFns : List Nat :=
  [0x00, 0x01, 0x02, 0x03, 0x04, 0x05, 0x06, 0x07, 0x08, 0x09, 0x10, 0x11, 0x12, 0x13, 0x14, 0x15, 0x16, 0x18, 0x19, 0x1A, 0x1B, 0x1C,
   0x20, 0x21, 0x22, 0x23, 0x24, 0x25, 0x26, 0x27, 0x43]

/-- The accumulator `a` of the rod holds `g m n` at row m and column n; every other accumulator, register, predicate, counter and flag
of the rod is unchanged, and so is every other rod; the instruction stays in the queue of its unit. -/
structure AccWritten (s t : State) (c : Ctx) (a : Nat) (g : Nat → Nat → W32) : Prop where
  only : OnlyRod s t c
  elems : ∀ m n, m < 16 → n < 64 → (t.rod c.ph).tat a m n = g m n
  rest : ∀ k m n, m < 16 → n < 64 → k ≠ a → (t.rod c.ph).tat k m n = (s.rod c.ph).tat k m n
  same : (t.rod c.ph).s = (s.rod c.ph).s ∧ (t.rod c.ph).p = (s.rod c.ph).p ∧ (t.rod c.ph).c = (s.rod c.ph).c ∧
    (t.rod c.ph).v = (s.rod c.ph).v ∧ (t.rod c.ph).astat = (s.rod c.ph).astat ∧ (t.rod c.ph).rowMap = (s.rod c.ph).rowMap
  queued : ∀ u cnt, c.op.unit = some (u, cnt) → (t.rod c.ph).queueOf u = [⟨c.op, c.ord, c.pc, c.word, cnt, false, true, [], []⟩]

/-- A queued instruction but for the writes that have passed it while it waited (R123). -/
def AEntry.noClash (e : AEntry) : AEntry := { e with clash := [] }

/-- The rod `c.ph` of `t` is past the carry instruction `c` and holds it in the carry queue with the writes `w`; its registers, predicates,
counters and the other queues are those of `s`; other rods, and everything outside bead memory, the counters and the free values, are
unchanged; no byte of bead memory outside the carry status record of the rod and the ranges `w` has changed. -/
structure CarryDone (s t : State) (c : Ctx) (cnt : Option Nat) (w : List (Nat × Nat)) : Prop where
  state : t = { s with rods := t.rods, bead := t.bead, beadPoison := t.beadPoison, regs := t.regs, flt := t.flt, free := t.free }
  others : ∀ k, k ≠ c.ph → t.rod k = s.rod k
  pc : (t.rod c.ph).pc = c.pc + 8
  queued : (t.rod c.ph).cq = [⟨c.op, c.ord, c.pc, c.word, cnt, false, true, w, []⟩]
  same : (t.rod c.ph).s = (s.rod c.ph).s ∧ (t.rod c.ph).p = (s.rod c.ph).p ∧ (t.rod c.ph).c = (s.rod c.ph).c ∧
    (t.rod c.ph).v = (s.rod c.ph).v ∧ (t.rod c.ph).astat = (s.rod c.ph).astat ∧ (t.rod c.ph).mq.map AEntry.noClash = (s.rod c.ph).mq.map AEntry.noClash ∧
    (t.rod c.ph).vq.map AEntry.noClash = (s.rod c.ph).vq.map AEntry.noClash
  bytes : ∀ x, (x < 2 ^ 22 * c.ph + 0x3F0100 ∨ 2 ^ 22 * c.ph + 0x3F0140 ≤ x) →
    (∀ r ∈ w, x < 2 ^ 22 * c.ph + r.1 ∨ 2 ^ 22 * c.ph + r.1 + r.2 ≤ x) → t.bead.read1 x = s.bead.read1 x

/-- The operation `o` has entered the remote-memory unit of the rod: its program address is past the instruction `c`, the operation is
the youngest of the unit under the next tag, and nothing else of the rod, no other rod and no memory has changed. Flits leave only
towards a peer (address class 4) that did not refuse the operation. -/
structure RemQueued (s t : State) (c : Ctx) (o : RemOp) : Prop where
  rod : t.rod c.ph = { s.rod c.ph with
    pc := c.pc + 8, ord := c.ord + 1, rem := (s.rod c.ph).rem ++ [{ o with tag := (s.rod c.ph).nextTag }], nextTag := (s.rod c.ph).nextTag + 1 }
  others : ∀ k, k ≠ c.ph → t.rod k = s.rod k
  state : t = { s with rods := t.rods, fab := t.fab, out := t.out }
  inside : adClass o.addr ≠ 4 ∨ o.done ≠ none → t.fab = s.fab ∧ t.out = s.out

/-- An operation as its instruction hands it over: the fields of the instruction and its place, an operand and the address (56 bits). -/
def opOf (c : Ctx) (kind : RemKind) (cnt : Option Nat) (addr len : Nat) : RemOp :=
  { tag := 0, ord := c.ord, pc := c.pc.toNat % 2 ^ 17, word := c.word, kind := kind, cnt := cnt, dest := 0, addr := addr % 2 ^ 56,
    bead := 0, len := len, b := 0, c := 0, data := [], poison := [], done := none, old := 0, clash := [], spans := [], scope := 0, taken := true }

/-- The constructor of an atomic's command. -/
def atomInstr (op : AtomOp) (l : Fin 512) : Instr :=
  match op with | .add => .aadd l | .max => .amax l | .cas => .acas l | .xchg => .axchg l

/-- The constructor of a fence's command by its scope: local units, block, board, host. -/
def fenceInstr (scope : Nat) (l : Fin 512) : Instr :=
  if scope = 0 then .fenceL l else if scope = 1 then .fenceB l else if scope = 2 then .fenceP l else .fenceH l

/-- The command that issues an instruction of a local asynchronous unit. -/
def localCommand (l : Fin 512) : RodOp → Option Instr
  | .vec f _ _ _ _ _ _ => some (if f = 0x40 then .vcvtTo l else if f = 0x41 then .vcvtSc l else if f = 0x42 then .vcvtFrom l else .vectorOp l)
  | .vld _ _ _ _ => some (.vld l)
  | .vst _ _ _ _ => some (.vst l)
  | .acc f _ _ _ _ _ => if f = 0 then some (.accRd l) else if f = 1 then some (.accWr l) else if f = 2 then some (.accClr l) else none
  | .mma _ _ _ _ _ _ lat _ _ => some (if lat then .mmaLatched l else .mma l)
  | .carry f _ _ _ _ =>
    if f = 0 then some (.carryMap l) else if f = 1 then some (.carryMix l) else if f = 2 then some (.carryDown l)
    else if f = 3 then some (.carryUp l) else if f = 4 then some (.carryAdd l) else none
  | _ => none

/-- A refused partition command: SEQ_PART_CTRL.REFUSAL says why, nothing else changes. -/
def State.refused (s : State) (p why : Nat) : State := s.setPart p { s.part p with refusal := why }

/-- The manifests of a LOAD pass every check that Penub makes before a shard is fetched (R289, R290, R357 to R359). -/
def State.manifestAccepted (s : State) (p : Nat) (m : ModelManifest) (l : List W64) : Prop :=
  manifestOk m = true ∧ ∃ f, parseManifest l = some f ∧ headerOk f.header m.modelId0 m.modelId1 = true ∧
    Config.sha384 (bytesOf f.entries.flatten) = bytesOf ((f.header.drop 5).take 6) ∧
    Config.ecdsaVerify (bytesOf (f.sig.take 12)) (bytesOf f.header ++ bytesOf f.entries.flatten) (bytesOf (f.sig.drop 12)) = true ∧
    s.ownerOk p (Config.sha384 (bytesOf (f.sig.take 12))) = true ∧
    (∀ e ∈ f.entries, shOk e = true) ∧ entriesDistinct f.entries = true ∧
    (∀ e ∈ f.entries, shBlock e = s.fab.pos → (nth 0 f.header 3).getLsbD (24 + shBlock e) = true) ∧
    f.keys ≠ [] ∧ f.keys.length ≤ 4096 ∧ (List.range 16).foldl (fun n k => n + (s.part k).load.keys.length) 0 + f.keys.length ≤ 16384 ∧
    ∃ ks, (f.keys.map recordId).eraseDups.length = f.keys.length ∧
      s.unwrapAll p m.modelId0 m.modelId1 f.keys = some ks ∧ ∀ e ∈ f.entries, ∃ k ∈ ks, k.1 = shKey e

/-- What the check of an encrypted shard of a load finds: its plaintext, or a cause (R293). -/
def shardCheck (ld : Load) (m : ModelManifest) (e : List W64) (h : List W64) (c tag : List Byte) : Except Nat (List Byte) :=
  openShard (((ld.keys.find? (fun z => z.1 == shKey e)).map (·.2)).getD []) h c tag
    (shardAad h m.modelId0 m.modelId1 ld.version) (shDigest e) (shId e) (shBytes e / 65536)

/-- A load that has failed, with the cause that SEC_LOAD_STATUS gives (R295). -/
def State.loadFailed (s : State) (p cause : Nat) : Prop :=
  (s.part p).load.state = .failed ∧ (s.part p).load.shards = [] ∧ bits (s.rd (loadReg p)) 1 0 = 3 ∧ bits (s.rd (loadReg p)) 11 8 = cause

/-- What a source brought for an adapter command opens to an image that passes every check of R166, R169 and R360. -/
def State.imageOpens (s : State) (a : AdapterCmd) (m : ModelManifest) (hdr : List W64) (c tag pt : List Byte) : Prop :=
  recordOk (hdr.take 21) = true ∧ recordId (hdr.take 21) = a.key ∧ shardHeaderOk (hdr.drop 21) 0 (c.length / 65536) = true ∧
    c.length % 65536 = 0 ∧ tag.length = 16 ∧ adapterImageOk m pt = true ∧
    (∃ key, s.unwrap a.part (hdr.take 21) m.modelId0 m.modelId1 = some key ∧ Config.gcmOpen key (shardIv (hdr.drop 21))
      (shardAad (hdr.drop 21) m.modelId0 m.modelId1 (s.part a.part).load.version) c tag = some pt) ∧
    Config.sha384 ((pt.take (256 + aiBlocks (wordsOf 32 pt) * aiStride (wordsOf 32 pt))).drop 256) =
      bytesOf (((wordsOf 32 pt).drop 6).take 6)

/-- A port has lost its link: its peer table entry is ABSENT, or HELD_DOWN for a partner that was held on another port, with PEER_LEFT
pending; and where no unit has an operation beyond the block, every operation of a rod in flight to that position has its response,
PEER_ABSENT. -/
def PeerLeft (s t : State) (k : Nat) : Prop :=
  ((t.peer k).st = 0 ∨ (t.peer k).st = 4 ∧ ∃ q, (s.port q).train = .held) ∧ (t.rd 0x30118).getLsbD 7 = true ∧
  (s.fab.ops = [] → ∀ e ∈ s.rods, (t.rod e.1).rem = (s.rod e.1).rem.map (fun o =>
    if adClass o.addr = 4 ∧ adPeer o.addr = k ∧ o.done = none then { o with done := some 5 } else o))

/-- Another lane can still take over from a source that fails, or the link does not need it (R313). -/
abbrev State.linkStays (s : State) (p n : Nat) : Prop :=
  (s.port p).locked = false ∨ n ∈ (s.port p).txBad ∨ n ∉ (s.port p).txMap ∨
    ∃ m, m < 32 + s.design.spareLanes ∧ m ∉ (s.port p).txMap ∧ m ∉ (s.port p).txBad

/-- A side-band command is on its way: it leaves now, or the block had sent it on its own and its reply is no longer awaited (R303). -/
def State.laserWent (s : State) (p op n value : Nat) : State :=
  if (s.port p).asked.contains (op, n) then s.setPort p { s.port p with asked := (s.port p).asked.erase (op, n) }
  else s.send (.laser p (laserCmd op n value))

/-- A message of type `ty` reaches a working, enabled channel whole and under credits, obeys Table 15.1, and the channel is not in loopback. -/
abbrev Arrives (s : State) (ch : Fin 4) (m : Msg) (ty : Nat) : Prop :=
  s.hapUp = true ∧ bit (s.rd 0x700000) ch = true ∧ s.looped ch = false ∧ 1 + m.data.length / 64 = m.beats ∧ m.formed = true ∧ m.type = ty ∧
  (ty = 1 ∨ ty = 2 → m.beats ≤ (s.chan ch).inPosted) ∧ (ty = 8 → m.beats ≤ (s.chan ch).inNon)

/-- The message passes the checks of Table 15.3 that do not depend on its space. -/
abbrev Admitted (s : State) (m : Msg) : Prop := (s.ten m.tenant).st = .attached ∧ m.off % 4096 + m.len ≤ 4096

/-- The message lies in the tenant's input area. -/
abbrev InArea (s : State) (m : Msg) : Prop :=
  m.space = 1 ∧ m.off < (s.rf (hReg m.tenant 0x20) 16 0) * 2 ^ (s.rf (hReg m.tenant 0x18) 4 0)

/-- The address of the message in HBM: HAP_IN_BASE of its tenant and its offset. -/
def State.inAddr (s : State) (m : Msg) : Nat := (s.rd (hReg m.tenant 0x10)).toNat + m.off

/-- A posted message is rejected: nothing but the tenant's error counter and the log of the first rejected header changes. -/
def Rejected (s t : State) (m : Msg) : Prop :=
  t = { s with regs := t.regs } ∧ t.rd (cntTen m.tenant 0) = counterAdd (s.rd (cntTen m.tenant 0)) 1 ∧
  (bit (s.rd 0x700018) 0 = false → bit (t.rd 0x700018) 0 = true ∧ ∀ k, k < 8 → t.rd (0x700040 + 8 * k) = nth 0 m.hdr k) ∧
  (bit (s.rd 0x700018) 0 = true → ∀ k, k < 8 → t.rd (0x700040 + 8 * k) = s.rd (0x700040 + 8 * k))

/-- Command `c` is the k-th in the Tier mover's queue, with the operation `op` and no field out of its format, and its lane lets it act:
of operations 1 to 4, no older queued command, no move and no fill under way concerns its page. -/
abbrev TierReady (s : State) (k op : Nat) (c : TierCmd) : Prop :=
  s.live = true ∧ s.tier.queue[k]? = some c ∧ c.op = op ∧ c.formed = true ∧
  (op < 5 → (∀ d ∈ s.tier.queue.take k, d.meets c.part c.page (pageSize c.large) = false) ∧
    (∀ m ∈ s.tier.moves, m.cmd.meets c.part c.page (pageSize c.large) = false) ∧
    ∀ o ∈ s.fab.ops, ∀ d f, o.use = .fill d f → d.meets c.part c.page (pageSize c.large) = false)

/-- The state with the k-th command off the queue. -/
def State.tierTaken (s : State) (k : Nat) : State := { s with tier := { s.tier with queue := s.tier.queue.eraseIdx k } }

/-- The stack served more than one and a half times its share of the bytes of a window. -/
abbrev overShare (n total : Nat) (bytes : List Nat) (k : Nat) : Prop := 3 * total < 2 * n * nth 0 bytes k

/-- The detection is logged: a record joins the ring and FAULT_RECORD is pending, or, where the ring is full, it is counted as lost. -/
def Logged (s t : State) : Prop :=
  ((s.rd 0x30010 - s.rd 0x30018).toNat ≠ 2 ^ s.rf 0x30008 4 0 → t.rd 0x30010 = s.rd 0x30010 + 1 ∧ (t.rd 0x30118).getLsbD 14 = true) ∧
  ((s.rd 0x30010 - s.rd 0x30018).toNat = 2 ^ s.rf 0x30008 4 0 → t.rd 0x30010 = s.rd 0x30010 ∧
    t.rd (cntBlk 11) = counterAdd (s.rd (cntBlk 11)) 1)

/-- A partition is held with a cause of Table 10.2 and a fault cause. -/
def HeldWith (t : State) (p hold cause : Nat) : Prop :=
  (t.part p).st = .held ∧ (t.part p).hold = hold ∧ (t.part p).faultCause = cause ∧ (t.part p).haltHeld = false

/-- A cold reset has begun: every memory and table is empty and every register but the always-on ones at its reset value; board time,
the queue, the fuses and the retired rods they name stay. -/
def ColdBegun (s t : State) (cause st : Nat) : Prop :=
  t.rf 0x10008 15 8 = cause ∧ t.rf 0x10008 3 0 = st ∧ t.rd 0x10020 = 0 ∧ t.hbm = [] ∧ t.bead = [] ∧ t.imem = [] ∧ t.ext = [] ∧ t.boot = [] ∧
  t.rods = [] ∧ t.parts = [] ∧ t.slate = [] ∧ t.tenants = [] ∧ t.chans = [] ∧ t.reads = [] ∧ t.fab = Fabric.init ∧ t.dbg = Debug.init ∧
  t.time = s.time ∧ t.pending = s.pending ∧ t.free = s.free ∧ t.out = s.out ∧ t.flt.fuseRecs = s.flt.fuseRecs ∧
  t.flt.retired = recRods s.flt.fuseRecs ∧ t.flt.spareMap = [] ∧ t.sec.tstDone = s.sec.tstDone ∧ t.sec.lifecycle ≠ 2 ∧
  t.pwr.present = false ∧ t.pwr.warm = false ∧
  ∀ k, (alwaysOn k = false → t.rd k = regReset s.design k) ∧
    (alwaysOn k = true → k ∉ [0x10008, 0x10010, 0x10020, 0x10028, 0x10200, 0x10238] → t.rd k = s.rd k)

/-- A warm reset has begun: HBM with its poison, the boot area, the spare map and the channel map, the interleave keys, board time with
its synchronisation, and the kept registers stay; the rest clears. -/
def WarmBegun (s t : State) (cause : Nat) : Prop :=
  t.rf 0x10008 15 8 = cause ∧ t.rf 0x10008 3 0 = 3 ∧ t.rd 0x10020 = 0 ∧ t.hbm = s.hbm ∧ t.hbmPoison = s.hbmPoison ∧ t.boot = s.boot ∧
  t.bead = [] ∧ t.imem = [] ∧ t.rods = [] ∧ t.parts = [] ∧ t.slate = [] ∧ t.tenants = [] ∧ t.chans = [] ∧ t.reads = [] ∧
  t.tier.ilKey = s.tier.ilKey ∧ t.fab = s.fab.afterWarm ∧ t.fab.pos = s.fab.pos ∧ t.fab.synced = s.fab.synced ∧
  t.fab.slewing = s.fab.slewing ∧ t.fab.rate = s.fab.rate ∧ t.flt.spareMap = s.flt.spareMap ∧
  t.flt.chMap = s.flt.chMap ∧ t.flt.retired = s.flt.retired ∧ t.flt.fuseRecs = s.flt.fuseRecs ∧ t.time = s.time ∧ t.pending = s.pending ∧
  t.out = s.out ∧ t.sec.lifecycle = s.sec.lifecycle ∧ t.pwr.present = false ∧ t.pwr.warm = true ∧
  ∀ k, (warmKept k = false → t.rd k = regReset s.design k) ∧ (warmKept k = true → k ∉ [0x10008, 0x10020, 0x10028] → t.rd k = s.rd k)

/-- The phase has completed into phase `k`, which begins now. -/
def Entered (s t : State) (k : Nat) : Prop :=
  t.phase = k ∧ t.pwr.phaseAt = s.time ∧ t.rd 0x10028 = 0 ∧ t.rstState = 4

/-- The phase has failed with a cause and stays. -/
def BootFailed (s t : State) (cause : Nat) : Prop := t.rd 0x10028 = w64 cause ∧ t.phase = s.phase

/-- The bucket of a sample under a histogram engine's setting: by powers of two in log mode, else by a width of at least 1. -/
def bucketOf (cfg : W64) (v : Nat) : Nat :=
  if cfg.getLsbD 62 then (if v = 0 then 0 else min 15 (v.log2 + 1)) else min 15 (v / max 1 (bits cfg 31 0))

/-- What no command touches: the configuration, the commands that wait, the TST_DONE fuse once blown; outputs and free values are only
added to. -/
def OnlyAdds (s t : State) : Prop :=
  t.design = s.design ∧ t.pending = s.pending ∧ (s.sec.tstDone = true → t.sec.tstDone = true) ∧ s.free ≤ t.free ∧ s.out <+: t.out

end Sys2Proof.Machine
end

