-- ==== Sys2Proof/Certificates/Slice0/Obligations.lean ====
section
/-! DEFINITION. The statements for the provers. -/

open Sys2Proof Sys2Proof.Machine

/-- For a rod whose next instruction is ready: NOP only moves past itself. SR.RD writes s[d] with the value of the special register as Table 4.3 gives it. SR.WR puts bits [1:0] of s[a] into SPR_ASTAT. BREAK raises its exception with cause 0x09: the rod keeps the record of the instruction (its address and word), stays on it and issues nothing further. None of the four changes anything else. -/
def Obligations.RodSystemInstructions : Prop :=
  ∀ (s : State) (l : Fin 512) (c : Ctx), s.readyOp l = some c →
    (c.op = .nop → exec (.nop l) s = .next (s.advance c)) ∧
    (∀ d i v, c.op = .srRd d i → (i, v) ∈ s.sprTable c →
      exec (.srRd l) s = .next ((s.advance c).onRod c.ph (fun r => r.sset d v))) ∧
    (∀ a i, c.op = .srWr a i →
      exec (.srWr l) s = .next ((s.advance c).onRod c.ph (fun r => { r with astat := (r.sget a).setWidth 2 }))) ∧
    (c.op = .brk → exec (.brk l) s = .next (s.raises c 0x09) ∧ (s.raises c 0x09).canIssue l = none)

/-- For a rod whose next instruction is ready: BR and BL go to the branch's program address plus 8 times the offset, JR and JLR to the full 64-bit value of s[a]. BL and JLR write the link, the branch's program address plus 8, to s[d] (a write of s0 is discarded); BR and JR write no register. Where the target is not 8-byte aligned or lies outside the loaded image, FETCH (0x02) is raised instead and the rod stays on the branch. Nothing else changes. -/
def Obligations.RodBranches : Prop :=
  ∀ (s : State) (l : Fin 512) (c : Ctx), s.readyOp l = some c →
    (∀ off, c.op = .br off → exec (.br l) s = .next (s.branchTo c (c.pc + BitVec.ofInt 64 (8 * off)) 0)) ∧
    (∀ d off, c.op = .bl d off → exec (.bl l) s = .next (s.branchTo c (c.pc + BitVec.ofInt 64 (8 * off)) d)) ∧
    (∀ a, c.op = .jr a → exec (.jr l) s = .next (s.branchTo c ((s.rod c.ph).sget a) 0)) ∧
    (∀ d a, c.op = .jlr d a → exec (.jlr l) s = .next (s.branchTo c ((s.rod c.ph).sget a) d))

/-- For a rod whose next instruction is ready: a major 0x08 instruction writes to s[d] the value that Table 5.1 gives its function on s[a], s[b] and s[c], for every function, with arithmetic modulo 2^64, register shifts by s[b][5:0] and immediate shifts by the shift-amount field; ADDI, ANDI, ORI, XORI, MOVI and MOVHI write s[a] op the immediate, sign-extended from its bit 39 (ADDI, MOVI), zero-extended (ANDI, ORI, XORI), or its low 24 bits placed above the low 40 bits of s[a] (MOVHI). No flag and no exception is raised and nothing but s[d] and the program address changes. An immediate is one of 40 bits, as its field is. -/
def Obligations.RodIntegerOperations : Prop :=
  ∀ (s : State) (l : Fin 512) (c : Ctx), s.readyOp l = some c →
    (∀ f d a b x sh, c.op = .int f d a b x sh →
      ∃ v, exec (.integerOp l) s = .next ((s.advance c).onRod c.ph (fun r => r.sset d v)) ∧
        IntResult f ((s.rod c.ph).sget a) ((s.rod c.ph).sget b) ((s.rod c.ph).sget x) sh v) ∧
    (∀ m d a imm, c.op = .intImm m d a imm → imm < 2 ^ 40 →
      let A := (s.rod c.ph).sget a
      let sx : W64 := (BitVec.ofNat 40 imm).signExtend 64
      let zx : W64 := BitVec.ofNat 64 imm
      ∀ v, (m, v) ∈ [(0x09, A + sx), (0x0A, A &&& zx), (0x0B, A ||| zx), (0x0C, A ^^^ zx), (0x0D, sx),
          (0x0E, (A &&& 0xFFFFFFFFFF#64) ||| BitVec.ofNat 64 (imm % 2 ^ 24 * 2 ^ 40))] →
        exec (.integerImmediateOp l) s = .next ((s.advance c).onRod c.ph (fun r => r.sset d v)))

/-- For a rod whose next instruction is ready: CMP writes p[d] = 1 exactly when its condition holds between s[a] and s[b]: EQ and NE on all 64 bits, LT and GE signed, LTU and GEU unsigned, FEQ, FLT, FLE on the low 32 bits as ordered comparisons of FP32 values (false where an operand is NaN), FUN true exactly where an operand is NaN. CMPI does the same with its sign-extended immediate in place of s[b]. PRED writes p[a] AND, OR, XOR or AND NOT p[b]. Nothing but p[d] and the program address changes. The order of FP32 values is that of the model's key f32Key, in which both zeros are one value (another statement says what the key orders). -/
def Obligations.RodComparesAndPredicates : Prop :=
  ∀ (s : State) (l : Fin 512) (c : Ctx), s.readyOp l = some c →
    (∀ f d a b, c.op = .cmp f d a b → ∃ v, exec (.cmp l) s = .next ((s.advance c).onRod c.ph (fun r => r.pset d v)) ∧
      CmpResult f ((s.rod c.ph).sget a) ((s.rod c.ph).sget b) v) ∧
    (∀ f d a imm, c.op = .cmpi f d a imm → ∃ v, exec (.cmpi l) s = .next ((s.advance c).onRod c.ph (fun r => r.pset d v)) ∧
      CmpResult f ((s.rod c.ph).sget a) (BitVec.ofInt 64 imm) v) ∧
    (∀ f d a b, c.op = .pred f d a b → ∀ v, (f, v) ∈
        [(0, (s.rod c.ph).pget a && (s.rod c.ph).pget b), (1, (s.rod c.ph).pget a || (s.rod c.ph).pget b),
         (2, xor ((s.rod c.ph).pget a) ((s.rod c.ph).pget b)), (3, (s.rod c.ph).pget a && !(s.rod c.ph).pget b)] →
      exec (.pred l) s = .next ((s.advance c).onRod c.ph (fun r => r.pset d v)))

/-- For a rod whose next instruction is a ready LD, with its address s[a] plus offset modulo 2^64 and the bytes its width code moves: an access beyond 4 MiB of bead memory raises BEAD_RANGE (0x06); otherwise a misaligned one raises MISALIGNED (0x03); otherwise one that meets a poisoned granule raises POISON (0x08), and s[d] stays as it is. Otherwise s[d] takes the bytes at the address in little-endian order, zero-extended for width codes 0 to 3 and sign-extended for 4 to 6. Nothing but s[d] and the program address changes. -/
def Obligations.RodLoads : Prop :=
  ∀ (s : State) (l : Fin 512) (c : Ctx) (w d a : Nat) (off : Int), s.readyOp l = some c → c.op = .ld w d a off →
    let at_ := ((s.rod c.ph).sget a + BitVec.ofInt 64 off).toNat
    let n := widthBytes w
    (at_ + n > 2 ^ 22 → exec (.ld l) s = .next (s.raises c 0x06)) ∧
    (at_ + n ≤ 2 ^ 22 → at_ % n ≠ 0 → exec (.ld l) s = .next (s.raises c 0x03)) ∧
    (at_ + n ≤ 2 ^ 22 → at_ % n = 0 → s.beadRangeBad c.ph at_ n = true → exec (.ld l) s = .next (s.raises c 0x08)) ∧
    (at_ + n ≤ 2 ^ 22 → at_ % n = 0 → s.beadRangeBad c.ph at_ n = false →
      ∃ v, exec (.ld l) s = .next ((s.advance c).onRod c.ph (fun r => r.sset d v)) ∧
        LoadResult w (s.bead.readN (2 ^ 22 * c.ph + at_) n) v)

/-- For a rod whose next instruction is a ready ST, with its address s[a] plus offset modulo 2^64: an access beyond 4 MiB raises BEAD_RANGE (0x06); otherwise a misaligned one raises MISALIGNED (0x03); otherwise one that reaches the system area, at 0x3F0000 and above, raises PROTECTION (0x05). Otherwise it completes: if no unit of the rod has an open write that overlaps those bytes, the low bytes of s[b] stand there in little-endian order, and otherwise each of them is the byte stored or the one that stood there (R123); every other byte of every bead memory, all of HBM, instruction memory, and every register of every rod but the program address read as before. -/
def Obligations.RodStores : Prop :=
  ∀ (s : State) (l : Fin 512) (c : Ctx) (w a b : Nat) (off : Int), s.readyOp l = some c → c.op = .st w a b off →
    let at_ := ((s.rod c.ph).sget a + BitVec.ofInt 64 off).toNat
    let n := widthBytes w
    (at_ + n > 2 ^ 22 → exec (.st l) s = .next (s.raises c 0x06)) ∧
    (at_ + n ≤ 2 ^ 22 → at_ % n ≠ 0 → exec (.st l) s = .next (s.raises c 0x03)) ∧
    (at_ + n ≤ 2 ^ 22 → at_ % n = 0 → at_ + n > 0x3F0000 → exec (.st l) s = .next (s.raises c 0x05)) ∧
    (at_ + n ≤ 0x3F0000 → at_ % n = 0 →
      ∃ t, exec (.st l) s = .next t ∧
        ((∀ x ∈ (s.rod c.ph).openWrites none, overlap x.1 x.2 at_ n = false) →
          t.bead.readN (2 ^ 22 * c.ph + at_) n = leBytes n ((s.rod c.ph).sget b).toNat) ∧
        (∀ i, i < n → t.bead.read1 (2 ^ 22 * c.ph + at_ + i) = nth 0 (leBytes n ((s.rod c.ph).sget b).toNat) i ∨
          t.bead.read1 (2 ^ 22 * c.ph + at_ + i) = s.bead.read1 (2 ^ 22 * c.ph + at_ + i)) ∧
        (∀ x, (x < 2 ^ 22 * c.ph + at_ ∨ 2 ^ 22 * c.ph + at_ + n ≤ x) → t.bead.read1 x = s.bead.read1 x) ∧
        t.hbm = s.hbm ∧ t.imem = s.imem ∧ t.ext = s.ext ∧
        (∀ k, (t.rod k).s = (s.rod k).s ∧ (t.rod k).v = (s.rod k).v ∧ (t.rod k).t = (s.rod k).t ∧ (t.rod k).p = (s.rod k).p ∧
          (t.rod k).c = (s.rod k).c ∧ (t.rod k).astat = (s.rod k).astat ∧ (k ≠ c.ph → t.rod k = s.rod k)))

/-- For a rod whose next instruction is ready: FADD, FSUB, FMUL, FMIN, FMAX, FNEG, FABS and FMA write their FP32 result (rounded once, by the functions of Float.lean) zero-extended to s[d] and set no flag, and CVT.F32.S64 and CVT.F32.U64 do the same with the rounded integer. CVT.S64.F32 and CVT.U64.F32 write the integer nearest to the operand (ties to even): a NaN gives 0 and sets INVALID, an infinity the nearer bound and INVALID, a value outside the range the nearer bound and SATURATED, and only these flags are added to SPR_ASTAT. Nothing else changes. -/
def Obligations.RodScalarFloatingPoint : Prop :=
  ∀ (s : State) (l : Fin 512) (c : Ctx) (f d a b x : Nat), s.readyOp l = some c → c.op = .fp f d a b x →
    let A := (s.rod c.ph).sget a
    let A32 := A.setWidth 32
    let B32 := ((s.rod c.ph).sget b).setWidth 32
    let C32 := ((s.rod c.ph).sget x).setWidth 32
    (∀ v : W32, (f, v) ∈ [(0x00, fadd A32 B32), (0x01, fsub A32 B32), (0x02, fmul A32 B32), (0x03, ffma A32 B32 C32),
        (0x04, fmin A32 B32), (0x05, fmax A32 B32), (0x06, fneg A32), (0x07, fabs A32), (0x10, f32OfInt A.toInt),
        (0x11, f32OfInt A.toNat)] →
      exec (.fp32ScalarOp l) s = .next ((s.advance c).onRod c.ph (fun r => r.sset d (v.setWidth 64)))) ∧
    (∀ lo hi, (f, lo, hi) ∈ [(0x12, (-(2 ^ 63) : Int), (2 ^ 63 - 1 : Int)), (0x13, 0, 2 ^ 64 - 1)] →
      (f32Val A32 = .nan → exec (.fp32ScalarOp l) s =
        .next ((s.advance c).onRod c.ph (fun r => { r.sset d 0 with astat := r.astat ||| 2 }))) ∧
      (∀ neg, f32Val A32 = .inf neg → exec (.fp32ScalarOp l) s =
        .next ((s.advance c).onRod c.ph (fun r => { r.sset d (BitVec.ofInt 64 (if neg then lo else hi)) with astat := r.astat ||| 2 }))) ∧
      (∀ neg m e, f32Val A32 = .fin neg m e → (rneInt neg m e < lo ∨ hi < rneInt neg m e) → exec (.fp32ScalarOp l) s =
        .next ((s.advance c).onRod c.ph (fun r =>
          { r.sset d (BitVec.ofInt 64 (if rneInt neg m e < lo then lo else hi)) with astat := r.astat ||| 1 }))) ∧
      (∀ neg m e, f32Val A32 = .fin neg m e → lo ≤ rneInt neg m e → rneInt neg m e ≤ hi → exec (.fp32ScalarOp l) s =
        .next ((s.advance c).onRod c.ph (fun r => r.sset d (BitVec.ofInt 64 (rneInt neg m e))))))

/-- For a rod whose next instruction is ready: a WAIT whose condition holds for the signed value of its counter only moves past itself; otherwise the rod moves past it and holds its issue until WAIT_RELEASE (a wait on a counter that an accepted stream extent of this rod names is counted). The counter is not changed. WAIT_RELEASE of a rod that waits lets it issue again exactly where the condition holds and the block is live, and does nothing otherwise. TADD adds its immediate to the counter modulo 2^32 and changes nothing else, so that adding -1 to 0 leaves the value that reads as -1. -/
def Obligations.RodWaitsAndTallyAdd : Prop :=
  ∀ (s : State) (l : Fin 512) (c : Ctx),
    (s.readyOp l = some c →
      (∀ cond n imm, c.op = .wait cond n imm →
        (waitHolds cond ((s.rod c.ph).cnt n) imm = true → exec (.wait l) s = .next (s.advance c)) ∧
        (waitHolds cond ((s.rod c.ph).cnt n) imm = false →
          let t := (s.advance c).onRod c.ph (fun r => { r with issue := .waiting cond n imm, stalled := s.streamNames c.p c.l n })
          exec (.wait l) s = .next (if s.streamNames c.p c.l n then t.bump (cntPart c.p 49) 1 else t) ∧ t.canIssue l = none)) ∧
      (∀ n imm, c.op = .tadd n imm → ∃ t, exec (.tadd l) s = .next t ∧
        t = (s.advance c).onRod c.ph (fun r => { r with c := (t.rod c.ph).c }) ∧
        ((t.rod c.ph).cnt n).toNat = ((((s.rod c.ph).cnt n).toNat : Int) + imm) % 2 ^ 32 ∧
        ∀ k, k ≠ n → (t.rod c.ph).cnt k = (s.rod c.ph).cnt k)) ∧
    (∀ cond n imm, (s.rod (s.phys l)).issue = .waiting cond n imm →
      exec (.waitRelease l) s = .next (if waitHolds cond ((s.rod (s.phys l)).cnt n) imm && s.live then
        s.setRod (s.phys l) { s.rod (s.phys l) with issue := .run } else s)) ∧
    (∀ (v : W32) (imm : Int), (waitHolds 0 v imm = true ↔ imm ≤ v.toInt) ∧ (waitHolds 1 v imm = true ↔ v.toInt = imm))

/-- For a rod whose next instruction is a ready TILE.TAKE: where the queue holds an entry at its head, the tile returned is that entry's lowest-indexed one: its phase stands in bits [63:48] of s[d] and its index in bits [47:24], with zero below, its argument in s[d+1], the predicate is set, and the queue loses that tile (the entry itself where its count reaches zero). Where the queue is empty, no register changes and the predicate is cleared. Nothing else changes. -/
def Obligations.TileTakeFromOwnQueue : Prop :=
  ∀ (s : State) (l : Fin 512) (c : Ctx) (d p : Nat), s.readyOp l = some c → c.op = .take d p →
    ((s.rod c.ph).queue = [] → exec (.tileTake l) s = .next ((s.advance c).onRod c.ph (fun r => r.pset p false))) ∧
    (∀ e q, (s.rod c.ph).queue = e :: q →
      exec (.tileTake l) s = .next ((s.advance c).onRod c.ph (fun r =>
        ((({ r with queue := if e.count ≤ 1 then q else { e with first := e.first + 1, count := e.count - 1 } :: q } : Rod).sset d
          (BitVec.ofNat 64 (e.phase * 2 ^ 48 + e.first % 2 ^ 24 * 2 ^ 24))).sset (d + 1) e.arg).pset p true)))

/-- For a rod whose next instruction is a ready TILE.PUT of word 0 in s[a] and word 1 in s[b]: where the count, bits [23:0] of word 0, is 0 or the queue holds 64 entries already, the queue is unchanged and the predicate is cleared. Otherwise the entry of phase [63:48], first index [47:24], count [23:0] and argument word 1 stands at the tail of this rod's queue and the predicate is set. No other rod's queue changes, nor anything else of this rod. -/
def Obligations.TilePutToOwnQueue : Prop :=
  ∀ (s : State) (l : Fin 512) (c : Ctx) (a b p : Nat), s.readyOp l = some c → c.op = .put a b p →
    let w0 := (s.rod c.ph).sget a
    let n := w0.toNat % 2 ^ 24
    (n = 0 ∨ 64 ≤ (s.rod c.ph).queue.length →
      exec (.tilePut l) s = .next ((s.advance c).onRod c.ph (fun r => r.pset p false))) ∧
    (n ≠ 0 → (s.rod c.ph).queue.length < 64 →
      exec (.tilePut l) s = .next ((s.advance c).onRod c.ph (fun r => ({ r with queue := r.queue ++
        [⟨w0.toNat / 2 ^ 48 % 2 ^ 16, w0.toNat / 2 ^ 24 % 2 ^ 24, n, (s.rod c.ph).sget b⟩] } : Rod).pset p true))) ∧
    (∀ k t, k ≠ c.ph → exec (.tilePut l) s = .next t → (t.rod k).queue = (s.rod k).queue)

/-- For a rod whose next instruction is a ready TILE.STEAL, the rod moves past it and holds its issue with the rods of its steal ring whose queues are not empty (the occupancy bitmap is exact here). At STEAL_WALK_END of such a rod: where no ring rod's queue holds a tile now, both registers stay and the predicate is cleared; otherwise the first such rod in ring order loses the highest-indexed tile of its tail entry, and the thief receives that tile's phase, index and argument with its predicate set. The thief issues again in both cases, and no other rod changes. -/
def Obligations.TileStealWalk : Prop :=
  ∀ (s : State) (l : Fin 512),
    (∀ c d p, s.readyOp l = some c → c.op = .steal d p →
      exec (.tileSteal l) s = .next ((s.advance c).onRod c.ph (fun r => { r with
        issue := .stealing d p ((s.stealRing c.p c.l).filter (fun x => !(s.rod (s.phys x)).queue.isEmpty)) }))) ∧
    (∀ d p ring, (s.rod (s.phys l)).issue = .stealing d p ring →
      ((∀ x ∈ ring, (s.rod (s.phys x)).queue = []) →
        exec (.stealWalkEnd l) s = .next (s.onRod (s.phys l) (fun r => ({ r with issue := .run } : Rod).pset p false))) ∧
      (∀ pre x post q e, ring = pre ++ x :: post → (∀ y ∈ pre, (s.rod (s.phys y)).queue = []) →
        (s.rod (s.phys x)).queue = q ++ [e] → s.phys x ≠ s.phys l →
        ∃ t, exec (.stealWalkEnd l) s = .next t ∧
          t.rod (s.phys x) = { s.rod (s.phys x) with queue := stolen q e } ∧
          t.rod (s.phys l) = ((({ s.rod (s.phys l) with issue := .run } : Rod).sset d
            (BitVec.ofNat 64 (e.phase * 2 ^ 48 + (e.first + e.count - 1) % 2 ^ 24 * 2 ^ 24))).sset (d + 1) e.arg).pset p true ∧
          t = { s with rods := t.rods } ∧ ∀ k, k ≠ s.phys x → k ≠ s.phys l → t.rod k = s.rod k))

/-- For a rod whose next instruction is ready: a lane-wise function of major 0x20 writes to lane n of v[d] its function of lane n of v[a], v[b] and v[c], for every n below 64; VBCAST writes s[a][31:0] to every lane, VIOTA the lane number, and VPERM lane v[b].n mod 64 of v[a]; VSHLB and VSHRB move the 256 bytes of v[a] up and down by s[b] mod 256 bytes, with zeros entering. No other vector register, scalar register, predicate, counter, accumulator, flag or memory changes, and the instruction stays at the head of the vector unit's queue, with the completion counter it names, until ASYNC_COMPLETE. For INT32 addition, subtraction and the comparisons the function is spelled out. -/
def Obligations.RodVectorLaneOperations : Prop :=
  ∀ (s : State) (l : Fin 512) (c : Ctx) (f d a b x ty : Nat) (cnt : Option Nat), s.readyOp l = some c → c.op = .vec f d a b x ty cnt →
    let A := (s.rod c.ph).vlane a
    let B := (s.rod c.ph).vlane b
    let C := (s.rod c.ph).vlane x
    (f ∈ laneFns → ∃ t, exec (.vectorOp l) s = .next t ∧ VecWritten s t c d (fun n => laneOp f ty (A n) (B n) (C n)) 0 cnt) ∧
    (f = 0x38 → ∃ t, exec (.vectorOp l) s = .next t ∧ VecWritten s t c d (fun _ => ((s.rod c.ph).sget a).setWidth 32) 0 cnt) ∧
    (f = 0x3B → ∃ t, exec (.vectorOp l) s = .next t ∧ VecWritten s t c d (fun n => BitVec.ofNat 32 n) 0 cnt) ∧
    (f = 0x3C → ∃ t, exec (.vectorOp l) s = .next t ∧ VecWritten s t c d (fun n => A ((B n).toNat % 64)) 0 cnt) ∧
    (∀ up, (f, up) ∈ [(0x3D, true), (0x3E, false)] → ∃ t, exec (.vectorOp l) s = .next t ∧
      VecWritten s t c d (nth 0 (lanesOf 64 (shiftBytes up (((s.rod c.ph).sget b).toNat % 256) (vbytes ((s.rod c.ph).vget a))))) 0 cnt) ∧
    (∀ (bs : List Byte) (k j : Nat), bs.length = 256 → k < 256 → j < 256 →
      nth 0 (shiftBytes true k bs) j = (if j < k then 0 else nth 0 bs (j - k)) ∧ nth 0 (shiftBytes false k bs) j = nth 0 bs (j + k)) ∧
    (∀ u v w : W32, laneOp 0x00 1 u v w = u + v ∧ laneOp 0x01 1 u v w = u - v ∧ laneOp 0x02 1 u v w = u * v ∧ laneOp 0x08 1 u v w = -u ∧
      laneOp 0x18 1 u v w = (if u = v then 0xFFFFFFFF else 0) ∧ laneOp 0x19 1 u v w = (if u.toInt < v.toInt then 0xFFFFFFFF else 0) ∧
      laneOp 0x1C 0 u v w = (if w ≠ 0 then u else v))

/-- For a rod whose next instruction is ready: the reductions write the value of the six-level pairwise tree over the 64 lanes of v[a] to s[d] (INT32 sums sign-extended, every other result zero-extended), VGET writes lane s[b] mod 64 zero-extended, and nothing else but the vector unit's queue changes. VCVT.I32.F32, VCVT.TO, VCVT.SC and VCVT.FROM write every lane of v[d] with their conversion of v[a] (and of the scale codes in v[c]); VCVT.I32.F32 and VCVT.TO add exactly the flags of their conversion to SPR_ASTAT, VCVT.SC and VCVT.FROM none. -/
def Obligations.RodVectorReductionsAndConversions : Prop :=
  ∀ (s : State) (l : Fin 512) (c : Ctx) (f d a b x ty : Nat) (cnt : Option Nat), s.readyOp l = some c → c.op = .vec f d a b x ty cnt →
    let r0 := s.rod c.ph
    let queued (t : State) : State := t.onRod c.ph (fun r => { r with vq := [⟨c.op, c.ord, c.pc, c.word, cnt, false, true, [], []⟩] })
    let tree (op : W32 → W32 → W32) : W32 := (treeLevels op 6 (r0.vget a)).headD 0
    (∀ v, (f, ty, v) ∈ [(0x30, 0, (tree fadd).setWidth 64), (0x31, 0, (tree fmax).setWidth 64), (0x32, 0, (tree fmin).setWidth 64),
        (0x30, 1, (tree (· + ·)).signExtend 64), (0x31, 1, (tree (fun p q => if p.slt q then q else p)).setWidth 64),
        (0x32, 1, (tree (fun p q => if q.slt p then q else p)).setWidth 64),
        (0x39, ty, (r0.vlane a ((r0.sget b).toNat % 64)).setWidth 64)] →
      exec (.vectorOp l) s = .next (queued ((s.advance c).onRod c.ph (fun r => r.sset d v)))) ∧
    (f = 0x44 → ∃ t, exec (.vectorOp l) s = .next t ∧
      VecWritten s t c d (nth 0 (cvtI32 (r0.vget a)).1)
        (BitVec.ofNat 2 (2 * b2n (cvtI32 (r0.vget a)).2.invalid + b2n (cvtI32 (r0.vget a)).2.saturated)) cnt) ∧
    (∀ e, Elt.ofCode ty = some e → f = 0x40 → ∃ t, exec (.vcvtTo l) s = .next t ∧
      VecWritten s t c d (nth 0 (cvtTo e (r0.vget a)).1)
        (BitVec.ofNat 2 (2 * b2n (cvtTo e (r0.vget a)).2.invalid + b2n (cvtTo e (r0.vget a)).2.saturated)) cnt) ∧
    (∀ e, Elt.ofCode ty = some e → f = 0x41 → ∃ t, exec (.vcvtSc l) s = .next t ∧
      VecWritten s t c d (nth 0 (cvtSc e (r0.vget a))) 0 cnt) ∧
    (∀ e, Elt.ofCode ty = some e → f = 0x42 → ∃ t, exec (.vcvtFrom l) s = .next t ∧
      VecWritten s t c d (nth 0 (cvtFrom e (r0.vget a) (r0.vget x))) 0 cnt)

/-- For a rod whose next instruction is ready, with the address s[a] plus offset modulo 2^64: a VLD or VST that reaches beyond 4 MiB raises BEAD_RANGE, an otherwise misaligned one (not a multiple of 32) MISALIGNED, a VST into the system area PROTECTION, a VLD that meets a poisoned granule POISON. Otherwise lane n of v[d] takes bytes 4n to 4n+3 of the 256 bytes; VST stores the 256-byte image of v[b] where no other unit has an open write that overlaps it, and no byte outside them nor any register changes. The exceptions are raised as the unit executes the instruction, the program address being past it. ACC.RD writes row m of the accumulator to v[d], ACC.WR writes v[a] to row m, ACC.CLR makes all 16 rows zero; no other register, row or accumulator changes. -/
def Obligations.RodVectorMemoryAndAccumulatorMoves : Prop :=
  ∀ (s : State) (l : Fin 512) (c : Ctx), s.readyOp l = some c →
    (∀ d a off cnt, c.op = .vld d a off cnt →
      let at_ := ((s.rod c.ph).sget a + BitVec.ofInt 64 off).toNat
      (at_ + 256 > 2 ^ 22 → exec (.vld l) s = .next (s.unitRaises c 0x06)) ∧
      (at_ + 256 ≤ 2 ^ 22 → at_ % 32 ≠ 0 → exec (.vld l) s = .next (s.unitRaises c 0x03)) ∧
      (at_ + 256 ≤ 2 ^ 22 → at_ % 32 = 0 → s.beadRangeBad c.ph at_ 256 = true → exec (.vld l) s = .next (s.unitRaises c 0x08)) ∧
      (at_ + 256 ≤ 2 ^ 22 → at_ % 32 = 0 → s.beadRangeBad c.ph at_ 256 = false → ∃ t, exec (.vld l) s = .next t ∧
        VecWritten s t c d (fun n => s.bead.read32 (2 ^ 22 * c.ph + at_ + 4 * n)) 0 cnt)) ∧
    (∀ a b off cnt, c.op = .vst a b off cnt →
      let at_ := ((s.rod c.ph).sget a + BitVec.ofInt 64 off).toNat
      (at_ + 256 > 2 ^ 22 → exec (.vst l) s = .next (s.unitRaises c 0x06)) ∧
      (at_ + 256 ≤ 2 ^ 22 → at_ % 32 ≠ 0 → exec (.vst l) s = .next (s.unitRaises c 0x03)) ∧
      (at_ + 256 ≤ 2 ^ 22 → at_ % 32 = 0 → at_ + 256 > 0x3F0000 → exec (.vst l) s = .next (s.unitRaises c 0x05)) ∧
      (at_ + 256 ≤ 0x3F0000 → at_ % 32 = 0 → ∃ t, exec (.vst l) s = .next t ∧
        ((∀ x ∈ (s.rod c.ph).openWrites (some .vector), overlap x.1 x.2 at_ 256 = false) →
          t.bead.readN (2 ^ 22 * c.ph + at_) 256 = ((s.rod c.ph).vget b).flatMap (fun x => leBytes 4 x.toNat)) ∧
        (∀ x, (x < 2 ^ 22 * c.ph + at_ ∨ 2 ^ 22 * c.ph + at_ + 256 ≤ x) → t.bead.read1 x = s.bead.read1 x) ∧
        t.hbm = s.hbm ∧ t.imem = s.imem ∧ t.ext = s.ext ∧
        (t.rod c.ph).vq = [⟨c.op, c.ord, c.pc, c.word, cnt, false, true, [(at_, 256)], []⟩] ∧
        (∀ k, (t.rod k).s = (s.rod k).s ∧ (t.rod k).v = (s.rod k).v ∧ (t.rod k).t = (s.rod k).t ∧ (t.rod k).p = (s.rod k).p ∧
          (t.rod k).c = (s.rod k).c ∧ (t.rod k).astat = (s.rod k).astat ∧ (k ≠ c.ph → t.rod k = s.rod k)))) ∧
    (∀ f d a acc row cnt, c.op = .acc f d a acc row cnt → row < 16 →
      (f = 0 → ∃ t, exec (.accRd l) s = .next t ∧ VecWritten s t c d (fun n => (s.rod c.ph).tat acc row n) 0 cnt) ∧
      (f = 1 → ∃ t, exec (.accWr l) s = .next t ∧
        AccWritten s t c acc (fun m n => if m = row then (s.rod c.ph).vlane a n else (s.rod c.ph).tat acc m n)) ∧
      (f = 2 → ∃ t, exec (.accClr l) s = .next t ∧ AccWritten s t c acc (fun _ _ => 0)))

/-- For a rod whose next instruction is ready and is an MMA of either form: weights that reach beyond 4 MiB (ordinary form) or activations that do raise BEAD_RANGE; otherwise an operand not on 1,024 bytes raises MISALIGNED; otherwise, in the latched form, a latch without weights of the same pair and types raises LATCH; otherwise an operand with a poisoned granule raises POISON. In every other case element (m, n) of the accumulator becomes the FP32 sum of its old value, or of 0 in the .Z form, and the group value of weight column n and activation row m read from the two operands as the layout of R47 lays them out (the latched form takes the latched weight bytes); the ordinary form latches its weights; no other accumulator, register or rod changes; the instruction stays at the head of the matrix queue. -/
def Obligations.RodMatrixMultiply : Prop :=
  ∀ (s : State) (l : Fin 512) (c : Ctx) (t pair ws as a b : Nat) (lat zero : Bool) (cnt : Option Nat),
    s.readyOp l = some c → c.op = .mma t pair ws as a b lat zero cnt →
    let r := s.rod c.ph
    let wa := (r.sget a).toNat
    let aa := (r.sget b).toNat
    let tw := pairW pair ws
    let ta := pairA pair as
    let dep := if pair = 6 then 32 else 256
    let nw := operandBytes tw dep 64
    let na := operandBytes ta dep 16
    let go := exec (if lat then .mmaLatched l else .mma l) s
    let outside := (lat = false ∧ wa + nw > 2 ^ 22) ∨ aa + na > 2 ^ 22
    let askew := (lat = false ∧ wa % 1024 ≠ 0) ∨ aa % 1024 ≠ 0
    let latched : Prop := ∃ x, r.latch = some x ∧ x.pair = pair ∧ x.ws = ws ∧ x.as = as
    let bad := (lat = false ∧ s.beadRangeBad c.ph wa nw = true) ∨ s.beadRangeBad c.ph aa na = true
    (outside → go = .next (s.unitRaises c 0x06)) ∧
    (¬ outside → askew → go = .next (s.unitRaises c 0x03)) ∧
    (¬ outside → ¬ askew → lat = true → ¬ latched → go = .next (s.unitRaises c 0x04)) ∧
    (¬ outside → ¬ askew → (lat = true → latched) → bad → go = .next (s.unitRaises c 0x08)) ∧
    (¬ outside → ¬ askew → (lat = true → latched) → ¬ bad → ∃ v, go = .next v ∧
      ∃ wb, ((lat = false ∧ wb = s.beadRead c.ph wa nw) ∨ (lat = true ∧ ∃ x, r.latch = some x ∧ wb = x.bytes)) ∧
      AccWritten s v c t (fun m n => fadd (if zero then 0 else r.tat t m n)
        (groupVal tw ta (nth ⟨[], []⟩ (linesOf tw dep 64 wb) n) (nth ⟨[], []⟩ (linesOf ta dep 16 (s.beadRead c.ph aa na)) m))) ∧
      (v.rod c.ph).latch = (if lat then r.latch else some ⟨pair, ws, as, wb⟩) ∧
      (v.rod c.ph).mq = [⟨c.op, c.ord, c.pc, c.word, cnt, false, true, [], []⟩] ∧ (v.rod c.ph).vq = r.vq ∧ (v.rod c.ph).cq = r.cq ∧ (v.rod c.ph).rem = r.rem)

/-- For a rod whose next instruction is ready and is CARRY.MAP with record address s[a]: a record that reaches beyond 4 MiB, or a mapped row entry whose 32-byte header would, raises BEAD_RANGE; a record or a mapped block address that is not a multiple of 32 raises MISALIGNED (the record is checked before the entries), and a record with a poisoned granule POISON; in each of these the row map stays as it was. Otherwise a record that breaks any other rule of Table 7.4 leaves no map in force and adds 1 to CNT_CAR_BADMAP of the partition, and every other record becomes the row map in force, the 18 words as read, with all of bead memory and all counters unchanged. In both cases the instruction completes into the carry queue and the accumulators keep their contents. -/
def Obligations.CarryMapLoads : Prop :=
  ∀ (s : State) (l : Fin 512) (c : Ctx) (t a b : Nat) (cnt : Option Nat), s.readyOp l = some c → c.op = .carry 0 t a b cnt →
    let at_ := ((s.rod c.ph).sget a).toNat
    let w := s.bead.readWords (2 ^ 22 * c.ph + at_) 18
    let mapped := (w.drop 2).filter (fun e => e.getLsbD 63)
    let over_ := ∃ e ∈ mapped, bits e 21 0 + 32 > 2 ^ 22
    let askew := ∃ e ∈ mapped, bits e 21 0 % 32 ≠ 0
    (at_ + 144 > 2 ^ 22 → exec (.carryMap l) s = .next (s.unitRaises c 0x06)) ∧
    (at_ + 144 ≤ 2 ^ 22 → at_ % 32 ≠ 0 → exec (.carryMap l) s = .next (s.unitRaises c 0x03)) ∧
    (at_ + 144 ≤ 2 ^ 22 → at_ % 32 = 0 →
      (s.beadRangeBad c.ph at_ 144 = true → exec (.carryMap l) s = .next (s.unitRaises c 0x08)) ∧
      (s.beadRangeBad c.ph at_ 144 = false →
        (over_ → exec (.carryMap l) s = .next (s.unitRaises c 0x06)) ∧
        (¬ over_ → askew → exec (.carryMap l) s = .next (s.unitRaises c 0x03)) ∧
        (¬ over_ → ¬ askew → ∃ u, exec (.carryMap l) s = .next u ∧ CarryDone s u c cnt [] ∧
          (u.rod c.ph).t = (s.rod c.ph).t ∧
          (mapOk w = true → (u.rod c.ph).rowMap = w ∧ u.bead = s.bead ∧ u.regs = s.regs) ∧
          (mapOk w = false → (u.rod c.ph).rowMap = [] ∧
            u.regs = (s.setReg (cntPart c.p 8) (counterAdd (s.rd (cntPart c.p 8)) 1)).regs))))

/-- For a rod whose next instruction is ready, with the rows of its tile classified by the row map in force and the block headers in bead memory (R157): a CARRY.UP whose checks pass (R109 in the order BEAD_RANGE, MISALIGNED, PROTECTION, POISON; its column offset s[b] a multiple of 64 inside the output width) changes element (m, n) of the named accumulator, for every plain row m, to fma of the header's alpha, the tree sum of row m for column s[b] + n, and the old element; a CARRY.ADD whose checks pass does the same for every basis row with the FP32 value at s[a] + 256 m + 4 n. A row of any other class, and every other accumulator, keeps its elements; the row map stays; where a check fails the rod raises the exception of that check, with the program address past the instruction. -/
def Obligations.CarryAccumulators : Prop :=
  ∀ (s : State) (l : Fin 512) (c : Ctx) (f t a b : Nat) (cnt : Option Nat), s.readyOp l = some c → c.op = .carry f t a b cnt → t < 8 →
    let x := ((s.rod c.ph).sget a).toNat
    let y := ((s.rod c.ph).sget b).toNat
    let w := (s.rod c.ph).rowMap
    let rows := s.carryRows c.ph
    let row := fun m => nth ⟨0, .bare, 0, []⟩ rows m
    (f = 3 →
      let e := s.carryCheck c.ph (carryReads w rows .plain [(x, 16384)]) []
        (decide (x % 32 ≠ 0) || decide (y % 64 ≠ 0) || (!w.isEmpty && decide (64 * mapOut w ≤ y)))
      (e ≠ 0 → exec (.carryUp l) s = .next (s.unitRaises c e)) ∧
      (e = 0 → ∃ u, exec (.carryUp l) s = .next u ∧ CarryDone s u c cnt [] ∧ (u.rod c.ph).rowMap = w ∧
        ∀ k m n, k < 8 → m < 16 → n < 64 → (u.rod c.ph).tat k m n =
          if k = t ∧ (row m).cls = .plain then ffma (hdAlpha (row m).hdr) (s.upVal c.ph w (row m) x (y + n)) ((s.rod c.ph).tat t m n)
          else (s.rod c.ph).tat k m n)) ∧
    (f = 4 →
      let e := s.carryCheck c.ph ([(x, 4096)] ++ (rows.filter (fun r => r.hdr ≠ [])).map (fun r => (r.blk, 32))) [] (decide (x % 32 ≠ 0))
      (e ≠ 0 → exec (.carryAdd l) s = .next (s.unitRaises c e)) ∧
      (e = 0 → ∃ u, exec (.carryAdd l) s = .next u ∧ CarryDone s u c cnt [] ∧ (u.rod c.ph).rowMap = w ∧
        ∀ k m n, k < 8 → m < 16 → n < 64 → (u.rod c.ph).tat k m n =
          if k = t ∧ (row m).cls = .basis then
            ffma (hdAlpha (row m).hdr) (s.bead.read32 (2 ^ 22 * c.ph + (x + 256 * m + 4 * n))) ((s.rod c.ph).tat t m n)
          else (s.rod c.ph).tat k m n))

/-- For a rod whose next instruction is ready: a CARRY.DOWN whose checks pass writes 16 rows of 256 FP32 values to s[b], row m at s[b] + 1,024 m: in a plain row values 0 to r - 1 are the subtree sums of R153 over the span, and every other value is +0.0. A CARRY.MIX whose checks pass, with the record in force keeping the rules of Table 7.4, writes operand k at s[b] + 0x1400 k: the basis rows converted to the u type, all other rows zero elements with scale 0; with bank width 0 it writes nothing. Where no other unit of the rod has an open write that overlaps them, the bytes read back as written; the status record apart, no other byte changes; registers and accumulators keep their contents. Where a check fails the rod raises the exception of that check, with the program address past the instruction. -/
def Obligations.CarryOperandsWritten : Prop :=
  ∀ (s : State) (l : Fin 512) (c : Ctx) (f t a b : Nat) (cnt : Option Nat), s.readyOp l = some c → c.op = .carry f t a b cnt →
    let x := ((s.rod c.ph).sget a).toNat
    let y := ((s.rod c.ph).sget b).toNat
    let w := (s.rod c.ph).rowMap
    let rows := s.carryRows c.ph
    let row := fun m => nth ⟨0, .bare, 0, []⟩ rows m
    (f = 2 →
      let spans := ((List.range (2 ^ mapOrder w)).filter (fun q => decide (mapSpan w + q < groupsOf w))).map (fun q => (x + 1024 * mapStride w * q, 4224))
      let e := s.carryCheck c.ph (carryReads w rows .plain ((x, 0) :: spans)) [(y, 16384)] (decide (x % 32 ≠ 0) || decide (y % 32 ≠ 0))
      (e ≠ 0 → exec (.carryDown l) s = .next (s.unitRaises c e)) ∧
      (e = 0 → ∃ u, exec (.carryDown l) s = .next u ∧ CarryDone s u c cnt [(y, 16384)] ∧ (u.rod c.ph).t = (s.rod c.ph).t ∧ (u.rod c.ph).rowMap = w ∧
        ((∀ o ∈ (s.rod c.ph).openWrites (some .carry), overlap o.1 o.2 y 16384 = false) → ∀ m i, m < 16 → i < 256 →
          u.bead.read32 (2 ^ 22 * c.ph + y + 1024 * m + 4 * i) =
            if (row m).cls = .plain ∧ i < hdRank (row m).hdr then nth 0 (s.downRow c.ph w (row m) x) i else 0))) ∧
    (f = 1 → (w = [] ∨ mapOk w = true) →
      let n := mixOperands (mapB w)
      let outs := (List.range n).map (fun k => (y + 0x1400 * k, 4224))
      let e := s.carryCheck c.ph (carryReads w rows .basis [(x, 64 * mapB w)]) ((y, 0) :: outs) (decide (x % 32 ≠ 0) || decide (y % 1024 ≠ 0))
      (e ≠ 0 → exec (.carryMix l) s = .next (s.unitRaises c e)) ∧
      (e = 0 → ∃ u, exec (.carryMix l) s = .next u ∧ CarryDone s u c cnt outs ∧ (u.rod c.ph).t = (s.rod c.ph).t ∧ (u.rod c.ph).rowMap = w ∧
        ((∀ o ∈ (s.rod c.ph).openWrites (some .carry), ∀ r ∈ outs, overlap o.1 o.2 r.1 r.2 = false) → ∀ τ, Elt.ofCode (mapUT w) = some τ → ∀ k i, k < n → i < 4224 →
          u.bead.read1 (2 ^ 22 * c.ph + (y + 0x1400 * k) + i) = nth 0 (mixOperand (mapB w) k (rows.map (fun r =>
            if r.cls = .basis then uHat τ (mapB w) (s.mixRow c.ph r (mapB w) (x + 4 * mapB w * r.m))
            else (List.replicate (mapB w) 0, List.replicate (mapB w / 32) 0)))) i)))

/-- For a rod whose next instruction is ready: a GET whose bead range reaches beyond 4 MiB raises BEAD_RANGE, one that reaches the system area PROTECTION; a PUT whose bead range reaches beyond 4 MiB raises BEAD_RANGE, one with a poisoned granule in it POISON; an atomic whose address is not aligned to its operand raises MISALIGNED. Otherwise the operation enters the remote-memory unit as its youngest, with the 56-bit address, the length, the operands and the completion counter of the instruction, a PUT with the source bytes as they are at its issue; addresses beyond the block draw their response at once. No register, predicate or memory byte changes, and the program moves past the instruction. -/
def Obligations.RodRemoteOperationsIssue : Prop :=
  ∀ (s : State) (l : Fin 512) (c : Ctx), s.readyOp l = some c →
    let r := s.rod c.ph
    (∀ a b len cnt, c.op = .rget a b len cnt →
      let bead := (r.sget b).toNat
      let at_ := (r.sget a).toNat
      (bead + len > 2 ^ 22 → exec (.get l) s = .next (s.raises c 0x06)) ∧
      (bead + len ≤ 2 ^ 22 → bead + len > 0x3F0000 → exec (.get l) s = .next (s.raises c 0x05)) ∧
      (bead + len ≤ 0x3F0000 → ∃ t, exec (.get l) s = .next t ∧
        RemQueued s t c { opOf c .get cnt at_ len with bead := bead, spans := [(bead, len)], done := s.classResp (at_ % 2 ^ 56) len })) ∧
    (∀ a b len cnt, c.op = .rput a b len cnt →
      let bead := (r.sget b).toNat
      let at_ := (r.sget a).toNat
      (bead + len > 2 ^ 22 → exec (.put l) s = .next (s.raises c 0x06)) ∧
      (bead + len ≤ 2 ^ 22 → s.beadRangeBad c.ph bead len = true → exec (.put l) s = .next (s.raises c 0x08)) ∧
      (bead + len ≤ 2 ^ 22 → s.beadRangeBad c.ph bead len = false → ∃ t, exec (.put l) s = .next t ∧
        RemQueued s t c { opOf c .put cnt at_ len with
          bead := bead, data := s.bead.readN (2 ^ 22 * c.ph + bead) len, done := s.classResp (at_ % 2 ^ 56) len })) ∧
    (∀ op w d a b x cnt, c.op = .atom op w d a b x cnt →
      let at_ := (r.sget a).toNat
      let size := if w = 1 ∨ w = 4 then 8 else 4
      (at_ % size ≠ 0 → exec (atomInstr op l) s = .next (s.raises c 0x03)) ∧
      (at_ % size = 0 → ∃ t, exec (atomInstr op l) s = .next t ∧
        RemQueued s t c { opOf c (.atom op w) cnt at_ size with
          dest := d, b := r.sget b, c := r.sget x, done := s.classResp (at_ % 2 ^ 56) size })) ∧
    (∀ a inc cnt, c.op = .taddR a inc cnt →
      let at_ := (r.sget a).toNat
      ∃ t, exec (.taddR l) s = .next t ∧
        RemQueued s t c { opOf c .taddR cnt at_ 4 with b := BitVec.ofInt 64 inc, done := s.classResp (at_ % 2 ^ 56) 4 })

/-- For a rod whose next instruction is ready: a GATHER whose descriptor lies beyond bead memory raises BEAD_RANGE, and one that the checks of R179 steps 1 and 2 refuse raises their exception; otherwise it enters the remote-memory unit with the 64 descriptor bytes, its destination and the bead ranges it uses, taken by gather engine l / 16 at once where fewer than 64 descriptors are in its queue, with the response of R179 steps 3 and 4 already drawn where they refuse it. A STREAM.ARM enters with the 16-byte descriptor address. A SAMPLE.PUT with a row count of 0 enters as the empty hand-off; one with rows raises BEAD_RANGE where its record lies beyond bead memory and enters with the record address and the count otherwise; sub-operation 1 enters as the empty hand-off. No register and no memory byte changes. -/
def Obligations.RodHandOffsIssue : Prop :=
  ∀ (s : State) (l : Fin 512) (c : Ctx), s.readyOp l = some c →
    let r := s.rod c.ph
    (∀ a b cnt, c.op = .gather a b cnt →
      let at_ := (r.sget a).toNat
      let dest := (r.sget b).toNat
      let d := s.bead.readWords (2 ^ 22 * c.ph + at_) 8
      let trap := s.gatherTrap c.ph at_ dest d (s.tbl (gdTable d))
      let resp := gatherResp c.p dest d (s.tbl (gdTable d))
      (at_ + 64 > 2 ^ 22 → exec (.gather l) s = .next (s.raises c 0x06)) ∧
      (at_ + 64 ≤ 2 ^ 22 → trap ≠ 0 → exec (.gather l) s = .next (s.raises c trap)) ∧
      (at_ + 64 ≤ 2 ^ 22 → trap = 0 → ∃ t, exec (.gather l) s = .next t ∧
        RemQueued s t c { opOf c .gather cnt at_ 64 with
          bead := dest, data := d.flatMap (fun w => leBytes 8 w.toNat), spans := gatherSpans dest d (s.tbl (gdTable d)),
          taken := decide (resp ≠ 0) || decide (s.engineLoad (c.l / 16) < 64), done := if resp = 0 then none else some resp })) ∧
    (∀ a cnt, c.op = .streamArm a cnt → ∃ t, exec (.streamArm l) s = .next t ∧
      RemQueued s t c (opOf c .stream cnt (r.sget a).toNat 16)) ∧
    (∀ a b cnt, c.op = .samplePut a b cnt →
      let at_ := (r.sget a).toNat
      (r.sget b = 0 → ∃ t, exec (.samplePut l) s = .next t ∧ RemQueued s t c (opOf c .sampleEmpty cnt 0 0)) ∧
      (r.sget b ≠ 0 → at_ ≥ 2 ^ 22 → exec (.samplePut l) s = .next (s.raises c 0x06)) ∧
      (r.sget b ≠ 0 → at_ < 2 ^ 22 → ∃ t, exec (.samplePut l) s = .next t ∧
        RemQueued s t c { opOf c .sample cnt at_ 0 with bead := at_, b := r.sget b, spans := [(at_, 0x400000 - at_)] })) ∧
    (∀ cnt, c.op = .sampleEmpty cnt → ∃ t, exec (.samplePutEmpty l) s = .next t ∧ RemQueued s t c (opOf c .sampleEmpty cnt 0 0))

/-- A ready FENCE of any scope moves past itself and holds the issue of its rod with its scope, its counter and the tags of the older operations. FENCE_COMPLETE, where the three local queues are empty and none of those operations is outstanding that its scope covers, lets the rod issue again and counts. A ready instruction of a local unit is executed at once where its unit may start it, and waits at the end of the queue otherwise; the head of a queue starts where nothing holds it. ASYNC_COMPLETE takes the oldest instruction of a local unit, once started or suppressed, or the first suppressed one of the remote unit that no older one of its counter holds back, counts its counter by 1, and starts what can start. A response OK completes a GET (its bytes reach bead memory, unless an older operation still touches them), a PUT, an atomic (s[d] takes the old value) or a TADD.R and counts its counter; GET and PUT also complete on response 4. Any other response raises REMOTE with the response and the address, without counting. A report of another response than that of the operation changes nothing. A REMOTE_TIMEOUT of an operation performed at a target raises REMOTE with response 6 unless halt or a thermal trip stops the timers. Nothing else changes. -/
def Obligations.RodFencesAndCompletions : Prop :=
  (∀ (s : State) (l : Fin 512) (c : Ctx) (k : Nat) (cnt : Option Nat), s.readyOp l = some c → c.op = .fence k cnt → k ≤ 3 →
      exec (fenceInstr k l) s = .next (s.setRod c.ph { s.rod c.ph with
        pc := c.pc + 8, ord := c.ord + 1, issue := .fencing k cnt ((s.rod c.ph).rem.map (·.tag)) })) ∧
    (∀ (s : State) (l : Fin 512) (k : Nat) (cnt : Option Nat) (tags : List Nat),
      let r := s.rod (s.phys l)
      s.live = true → r.issue = .fencing k cnt tags →
      let free := r.mq = [] ∧ r.vq = [] ∧ r.cq = [] ∧ ∀ o ∈ r.rem, o.tag ∈ tags → o.holdsFence k = false
      (free → exec (.fenceComplete l) s = .next (s.setRod (s.phys l) (({ r with issue := .run, stores := [] }).countOpt cnt))) ∧
      (¬ free → exec (.fenceComplete l) s = .next s)) ∧
    (∀ (s : State) (l : Fin 512) (c : Ctx) (i : Instr) (u : AUnit) (cnt : Option Nat),
      s.nextOp l = some c → localCommand l c.op = some i → c.op.unit = some (u, cnt) →
      (s.startsNow c = true → exec i s = .next ((s.advance c).runOp c)) ∧
      (s.startsNow c = false → exec i s = .next ((s.advance c).enqueue c.ph u ⟨c.op, c.ord, c.pc, c.word, cnt, false, false, [], []⟩))) ∧
    (∀ (s : State) (l : Fin 512) (u : AUnit) (e : AEntry) (q : List AEntry),
      let r := s.rod (s.phys l)
      s.live = true → u ≠ .remote → r.queueOf u = e :: q → (e.started = true ∨ e.supp = true) →
      exec (.asyncComplete l u) s = .next ((s.setRod (s.phys l) ((r.setQueue u q).countOpt e.cnt)).startUnits l)) ∧
    (∀ (s : State) (l : Fin 512) (o : RemOp), s.live = true →
      (s.rod (s.phys l)).rem.find? (fun x => x.kind == .suppressed && !(s.rod (s.phys l)).olderSame x) = some o →
      exec (.asyncComplete l .remote) s = .next ((s.setRod (s.phys l) (((s.rod (s.phys l)).dropRem o.tag).countOpt o.cnt)).startUnits l)) ∧
    (∀ (s : State) (l : Nat) (u : AUnit) (e : AEntry) (q : List AEntry) (p : Nat),
      let r := s.rod (s.phys l)
      let c : Ctx := ⟨l, s.phys l, p, e.pc, e.word, e.ord, e.op, e.clash⟩
      r.queueOf u = e :: q → s.partOf l = some p → e.started = false → e.supp = false →
      (r.raised = [] → r.reported = false → (s.part p).st = .running → s.canStart c u = true →
        s.startHead l u = (s.setRod (s.phys l) (r.setQueue u q)).runOp c) ∧
      ((r.raised ≠ [] ∨ r.reported = true ∨ (s.part p).st ≠ .running ∨ s.canStart c u = false) → s.startHead l u = s)) ∧
    (∀ (s : State) (l : Fin 512) (tag d : Nat) (o : RemOp),
      let r := s.rod (s.phys l)
      s.live = true → r.rem.find? (fun x => decide (x.tag = tag)) = some o → o.done = some d →
      let fails := s.setRod (s.phys l) (r.dropRem tag |>.raise ⟨0x07, o.pc, o.word, o.ord, d, o.addr⟩)
      (o.kind = .get → exec (.remoteResponse l tag d) s = .next (
        if r.olderTouches o = true then s
        else if d = 0 ∨ d = 4 then (s.deliver ((s.partOf l).getD 16) (s.phys l) o).onRod (s.phys l) (fun r => (r.dropRem tag).countOpt o.cnt)
        else fails)) ∧
      (o.kind = .put → exec (.remoteResponse l tag d) s = .next (
        if d = 0 ∨ d = 4 then s.setRod (s.phys l) ((r.dropRem tag).countOpt o.cnt) else fails)) ∧
      (o.kind = .taddR → exec (.remoteResponse l tag d) s = .next (
        if d = 0 then s.setRod (s.phys l) ((r.dropRem tag).countOpt o.cnt) else fails)) ∧
      (∀ op w, o.kind = .atom op w → exec (.remoteResponse l tag d) s = .next (
        if d = 0 then s.setRod (s.phys l) (((r.dropRem tag).sset o.dest (oldValue w o.old)).countOpt o.cnt) else fails)) ∧
      (∀ n, n ≠ d → exec (.remoteResponse l tag n) s = .next s)) ∧
    (∀ (s : State) (l : Fin 512) (tag : Nat) (o : RemOp),
      let r := s.rod (s.phys l)
      s.live = true → r.rem.find? (fun x => decide (x.tag = tag)) = some o →
      (o.kind.toTarget = true → s.stalled = false → exec (.remoteTimeout l tag) s = .next (s.setRod (s.phys l)
        ((r.dropRem tag).raise ⟨0x07, o.pc, o.word, o.ord, 6, o.addr⟩))) ∧
      (o.kind.toTarget = false ∨ s.stalled = true → exec (.remoteTimeout l tag) s = .next s))

/-- For a logical rod of a partition with exceptions raised and none reported, where the oldest of them is e: SPR_ECAUSE takes its cause, with bit 8 set exactly where more than one was raised, SPR_EPC its program address and SPR_EWORD its word; a RUNNING partition becomes HELD with hold cause 1 and the exception as its fault; where the fault log has room its write pointer moves by one and the FAULT_RECORD event is pending, and no other rod changes. A rod whose word lies outside the image, or decodes to no instruction, raises FETCH or ILLEGAL first and reports that. A rod with nothing raised and nothing to raise, and one that has reported, change nothing. -/
def Obligations.RodExceptionReport : Prop :=
  ∀ (s : State) (l : Fin 512),
    let ph := s.phys l
    let r := s.rod ph
    (∀ p e, s.partOf l = some p → r.reported = false → oldestRaised r.raised = some e → ∃ t, exec (.rodException l) s = .next t ∧
      t.rod ph = { r with reported := true, ecause := BitVec.ofNat 9 ((if 1 < r.raised.length then 256 else 0) + e.cause),
                          epc := BitVec.ofNat 17 e.pc, eword := e.word } ∧
      (∀ k, k ≠ ph → t.rod k = s.rod k) ∧
      ((s.part p).st = .running → (t.part p).st = .held ∧ (t.part p).hold = 1 ∧ (t.part p).faultCause = e.cause ∧
        (t.part p).faultResp = e.resp ∧ (t.part p).faultAt = some s.time) ∧
      ((s.rd 0x30010 - s.rd 0x30018).toNat ≠ 2 ^ s.rf 0x30008 4 0 →
        t.rd 0x30010 = s.rd 0x30010 + 1 ∧ (t.rd 0x30118).getLsbD 14 = true)) ∧
    (∀ c, s.canIssue l = some c → r.raised = [] → s.fetch c = none →
      exec (.rodException l) s = exec (.rodException l) (s.raise c 0x02)) ∧
    (∀ c w, s.canIssue l = some c → r.raised = [] → s.fetch c = some w → RodInstr.decode w = none →
      exec (.rodException l) s = exec (.rodException l) (s.raise { c with word := w } 0x01)) ∧
    (s.canIssue l = none → (r.raised = [] ∨ r.reported = true) → exec (.rodException l) s = .next s)

/-- An operation of a rod that has arrived and none older of its rod overlaps: a GET of bead memory of a rod of its own partition takes the bytes and the poisoned parts and is answered OK, without any change of memory; a PUT there stores exactly its bytes and is answered OK, or 4 where it meets a granule it covers in part that is poisoned; an atomic there stores the new value and hands back the old one; a tally add raises counter c0 to c13 of a rod of its partition by the increment modulo 2^32. A target in another partition draws ACCESS (2); a counter c14 or c15 of another rod draws 7; a range page that does not permit the access draws its response. A peer's GET or PUT that the export windows do not admit is answered by its response and has no other effect; an admitted GET is answered with its data, an admitted PUT stores its bytes; a peer's tally add draws RESERVED_COUNTER (7) for c14 and c15, ACCESS without a window, and counts otherwise. -/
def Obligations.RemoteOperationsAtTheirTargets : Prop :=
  (∀ (s : State) (l : Fin 512) (tag p k off : Nat) (o : RemOp),
      s.arriving l tag (fun x => x == .get) = some (p, o) → s.target (some p) o.addr o.len = .bead k off →
      exec (.remoteGetArrive (.rod l tag)) s = .next (s.answer l tag (fun x => if s.partOf k = some p then
        { x with done := some 0, data := s.bead.readN (2 ^ 22 * s.phys k + off) o.len, poison := s.beadParts (s.phys k) off o.len, scope := 3 }
        else { x with done := some 2, scope := 1 }))) ∧
    (∀ (s : State) (l : Fin 512) (tag p k off : Nat) (o : RemOp),
      s.arriving l tag (fun x => x == .put) = some (p, o) → s.target (some p) o.addr o.len = .bead k off →
      (s.partOf k ≠ some p → exec (.remotePutArrive (.rod l tag)) s = .next (s.answer l tag (fun x => { x with done := some 2, scope := 1 }))) ∧
      (s.partOf k = some p → off + o.data.length ≤ 0x3F0000 → ∃ t, exec (.remotePutArrive (.rod l tag)) s = .next t ∧
        t.bead = s.bead.writeN (2 ^ 22 * s.phys k + off) o.data ∧ t.hbm = s.hbm ∧
        t.rods = (s.answer l tag (fun x => { x with
          done := some (if s.beadWriteMeets (s.phys k) off o.data.length = true then 4 else 0), scope := 1 })).rods)) ∧
    (∀ (s : State) (l : Fin 512) (tag p q a : Nat) (o : RemOp), s.target (some p) o.addr o.len = .range q a →
      (s.arriving l tag (fun x => x == .get) = some (p, o) → s.rangeResp q false (pageSpans a o.len) ≠ 0 →
        exec (.remoteGetArrive (.rod l tag)) s = .next ((s.answer l tag (fun x => { x with
          done := some (s.rangeResp q false (pageSpans a o.len)), scope := 1 })).countBad p (pageSpans a o.len))) ∧
      (s.arriving l tag (fun x => x == .put) = some (p, o) → s.rangeResp q true (pageSpans a o.data.length) ≠ 0 →
        exec (.remotePutArrive (.rod l tag)) s = .next ((s.countBad q (pageSpans a o.data.length)).answer l tag (fun x => { x with
          done := some (s.rangeResp q true (pageSpans a o.data.length)), scope := 1 })))) ∧
    (∀ (s : State) (l : Fin 512) (tag p k off w : Nat) (op : AtomOp) (o : RemOp),
      s.arriving l tag (fun x => x == .atom op w) = some (p, o) →
      s.target (some p) o.addr (atomSize w) = .bead k off → s.partOf k = some p → off + atomSize w ≤ 0x3F0000 →
      s.beadParts (s.phys k) off (atomSize w) = [] →
      let old := w64 (leNat (s.bead.readN (2 ^ 22 * s.phys k + off) (atomSize w)))
      ∃ t, exec (.remoteAtomicArrive (.rod l tag)) s = .next t ∧
        t.bead = s.bead.writeN (2 ^ 22 * s.phys k + off) (leBytes (atomSize w) (atomNew op w old o.b o.c).toNat) ∧
        t.rods = (s.answer l tag (fun x => { x with done := some 0, old := old, scope := 1 })).rods) ∧
    (∀ (s : State) (l : Fin 512) (tag p k c : Nat) (o : RemOp),
      s.arriving l tag (fun x => x == .taddR) = some (p, o) → s.target (some p) o.addr 4 = .counter k c →
      exec (.tallyAddArrive (.rod l tag)) s = .next (
        if c ≥ 14 then s.answer l tag (fun x => { x with done := some (if k = l then 2 else 7) })
        else if s.partOf k = some p then
          (s.setRod (s.phys k) ((s.rod (s.phys k)).addCnt c (o.b.setWidth 32))).answer l tag (fun x => { x with done := some 0 })
        else s.answer l tag (fun x => { x with done := some 2 }))) ∧
    (∀ (s s1 : State) (port : Fin 8) (r : PeerReq), s.takeRequest port (fun op => op == 1) = some (r, s1) → s.live = true →
      (s1.peerCheck r r.flit.len 8 ≠ 0 →
        exec (.remoteGetArrive (.peer port)) s = .next (s1.peerReply port r.flit 8 1 (s1.peerCheck r r.flit.len 8) 0 [])) ∧
      (s1.peerCheck r r.flit.len 8 = 0 → ∀ data bad, s1.readAt (s1.peerTarget r.flit.addr r.flit.len) r.flit.len = .ok (data, bad) →
        exec (.remoteGetArrive (.peer port)) s = .next (s1.peerReply port r.flit 9 r.flit.len (if bad = [] then 0 else 4) 0 data))) ∧
    (∀ (s s1 : State) (port : Fin 8) (r : PeerReq), s.takeRequest port (fun op => op == 2) = some (r, s1) → s.live = true →
      (s1.peerCheck r r.flit.len 9 ≠ 0 →
        exec (.remotePutArrive (.peer port)) s = .next (s1.peerReply port r.flit 8 1 (s1.peerCheck r r.flit.len 9) 0 [])) ∧
      (s1.peerCheck r r.flit.len 9 = 0 → ∃ code u, s1.writeAt r.flit.part (s1.peerTarget r.flit.addr r.flit.len) (r.flit.data.take r.flit.len) = (code, u) ∧
        exec (.remotePutArrive (.peer port)) s = .next (u.peerReply port r.flit 8 1 code 0 []))) ∧
    (∀ (s s1 : State) (port : Fin 8) (r : PeerReq) (k c : Nat), s.takeRequest port (fun op => op == 7) = some (r, s1) → s.live = true →
      s1.peerTarget r.flit.addr 4 = .counter k c →
      exec (.tallyAddArrive (.peer port)) s = .next (
        if c ≥ 14 then s1.peerReply port r.flit 8 1 7 0 []
        else if s1.exported 2 (r.flit.addr % 2 ^ 48) 4 r.src r.flit.part 11 = true then
          (s1.setRod (s1.phys k) ((s1.rod (s1.phys k)).addCnt c (r.flit.w2.setWidth 32))).peerReply port r.flit 8 1 0 0 []
        else s1.peerReply port r.flit 8 1 2 0 []))

/-- With the block live: CREATE acts only in OFF with the block READY, else it is refused with 5, and with 4 where the frame mask is empty, names frames the block does not have or meets another partition's; it leads to LOADING, with bead memory of the partition's rods zero and their images empty. START acts only in LOADING (5), with the load done (1), a good launch table (2), enough tier 1 (3) and no unusable frame (4), and leads to RUNNING with every rod at address 0. RELEASE acts only in HELD, not after a BREAK in DEBUG, and leads to RUNNING with each rod where it was, and its units start what waits. PARTITION_RESET acts in RUNNING and HELD and leads to RESETTING with nothing open and the registers of its rods at their initial values; its end leads to LOADING. DELETE acts in LOADING and HELD and leads to OFF, with every field of the partition but its tier 1 bytes and its measurement initial. A refused command changes REFUSAL alone; START and RELEASE wait while halt is in effect. -/
def Obligations.PartitionCommands : Prop :=
  (∀ (s : State) (p : Fin 16), s.live = true →
      let mask := (s.rd (pReg p 8)).toNat
      let clash := ∃ k, k < 16 ∧ k ≠ p.val ∧ (s.part k).st ≠ .off ∧ s.rd (pReg k 8) &&& s.rd (pReg p 8) ≠ 0
      (((s.part p).st ≠ .off ∨ s.rf 0x10020 3 0 ≠ 0xC ∨ s.flt.noCreate = true) → exec (.create p) s = .next (s.refused p 5)) ∧
      ((s.part p).st = .off → s.rf 0x10020 3 0 = 0xC → s.flt.noCreate = false →
        (mask = 0 ∨ 2 ^ (s.design.rods / 8) ≤ mask ∨ clash → exec (.create p) s = .next (s.refused p 4)) ∧
        (mask ≠ 0 → mask < 2 ^ (s.design.rods / 8) → ¬ clash → ∃ t, exec (.create p) s = .next t ∧
          (t.part p).st = .loading ∧ (t.part p).opened = none ∧ (t.part p).load = Load.init ∧ t.hbm = s.hbm ∧
          ∀ l ∈ s.rodsOf p, (t.rod (s.phys l)).imgLen = 0 ∧ ∀ x, x < 2 ^ 22 → t.bead.read1 (2 ^ 22 * s.phys l + x) = 0))) ∧
    (∀ (s : State) (p : Fin 16), s.live = true → s.stalled = false →
      let x := s.part p
      let pinned := ((x.load.shards.filter (fun e => shClass e.words == 0)).foldl (fun n e => n + shBytes e.words) 0)
      let dead := ∃ f ∈ s.flt.noFrames, (s.rd (pReg p 8)).getLsbD f = true
      (x.st ≠ .loading → exec (.start p) s = .next (s.refused p 5)) ∧
      (x.st = .loading → x.load.state ≠ .done → exec (.start p) s = .next (s.refused p 1)) ∧
      (x.st = .loading → x.load.state = .done → s.launchOk p = false → exec (.start p) s = .next (s.refused p 2)) ∧
      (x.st = .loading → x.load.state = .done → s.launchOk p = true →
        (pinned > s.rf (pReg p 0x18) 18 0 * 2 ^ 21 → exec (.start p) s = .next (s.refused p 3)) ∧
        (pinned ≤ s.rf (pReg p 0x18) 18 0 * 2 ^ 21 → dead → exec (.start p) s = .next (s.refused p 4)) ∧
        (pinned ≤ s.rf (pReg p 0x18) 18 0 * 2 ^ 21 → ¬ dead → ∃ t, exec (.start p) s = .next t ∧
          t.part p = { x with st := .running, refusal := 0, hold := 0, boundary := s.time } ∧
          (∀ l ∈ s.rodsOf p, (t.rod (s.phys l)).pc = 0 ∧ (t.rod (s.phys l)).issue = .run) ∧ t.bead = s.bead ∧ t.hbm = s.hbm ∧ t.regs = s.regs))) ∧
    (∀ (s : State) (p : Fin 16), s.live = true → s.stalled = false →
      let gone := (s.part p).st ≠ .held ∨ (s.sec.lifecycle = 2 ∧ (s.part p).faultCause = 9)
      (gone → exec (.release p) s = .next (s.refused p 5)) ∧
      (¬ gone → ∃ t : State, exec (.release p) s = .next (t.startPart p) ∧
        t.part p = { s.part p with st := .running, refusal := 0, hold := 0, haltHeld := false, faultCause := 0, faultResp := 0 } ∧
        (∀ l ∈ s.rodsOf p, (t.rod (s.phys l)).raised = [] ∧ (t.rod (s.phys l)).reported = false) ∧
        ∀ k, ∃ e b, t.rod k = { s.rod k with raised := e, reported := b })) ∧
    (∀ (s : State) (p : Fin 16), s.live = true → s.stalled = true →
      exec (.start p) s = .next s ∧ exec (.release p) s = .next s ∧ exec (.releaseWithReplay p) s = .next s) ∧
    (∀ (s : State) (p : Fin 16), s.live = true →
      ((s.part p).st ≠ .running → (s.part p).st ≠ .held → exec (.partitionReset p) s = .next (s.refused p 5)) ∧
      ((s.part p).st = .running ∨ (s.part p).st = .held → ∃ t, exec (.partitionReset p) s = .next t ∧
        (t.part p).st = .resetting ∧ (t.part p).refusal = 0 ∧
        t.rd (pReg p 0x100) = 0 ∧ t.rd (pReg p 0x108) = 0) ∧
      ((s.part p).st = .resetting → s.flt.pendingRods = [] →
        exec (.partitionResetEnd p) s = .next ((s.setPart p { s.part p with st := .loading }).measurePart p)) ∧
      ((s.part p).st ≠ .loading → (s.part p).st ≠ .held → exec (.delete p) s = .next (s.refused p 5)) ∧
      ((s.part p).st = .loading ∨ (s.part p).st = .held → ∃ t n m, exec (.delete p) s = .next t ∧
        t.part p = { Part.init with t1 := n, measured := m } ∧ ∀ k, k < 6 → t.rd (loadReg p + 0x40 + 8 * k) = 0))

/-- With the block live and no halt or thermal trip in effect, BUILD_START in a RUNNING partition that builds nothing chooses the rows of the partition's next step; in any other it changes nothing. BUILD_END writes the descriptor and keeps it as built; a build without a row seals nothing. STEP_SEAL acts only on a built descriptor in a RUNNING partition without an open step: it opens that step, numbers the next one by 1 more, and every rod of the partition finds the launch record at bead offset 0x3F_0000 and an empty latch and row map; a partition that a re-fetch waits to hold is held instead, with hold cause 6, and its shard's pages are promoted. LAUNCH_STAGGER_END lets a frame group go once 15 ns per group have passed since the launch, and the units of its rods start what waits. None of the other three touches a rod's registers or program address. -/
def Obligations.StepBuildSealAndLaunch : Prop :=
  (∀ (s : State) (p : Fin 16),
      ((s.part p).st ≠ .running ∨ (s.part p).build ≠ .idle ∨ s.live = false ∨ s.stalled = true → exec (.buildStart p) s = .next s) ∧
      ((s.part p).st = .running → (s.part p).build = .idle → s.live = true → s.stalled = false →
        ∃ t d, exec (.buildStart p) s = .next t ∧ (t.part p).build = .building d ∧ d.step = (s.part p).step ∧
          t.rods = s.rods ∧ t.bead = s.bead)) ∧
    (∀ (s : State) (p : Fin 16) (d : Desc), s.live = true → (s.part p).build = .building d →
      (d.rows ≠ [] → ∃ u, exec (.buildEnd p) s = .next (u.setPart p { u.part p with build := .built d }) ∧
        u = s.rangeWrite p ((s.rd (pReg p 0x40)).toNat + d.step % 2 * 2 ^ 20) (d.bytes p)) ∧
      (d.rows = [] → exec (.buildEnd p) s = .next ((s.setPart p { s.part p with build := .idle }).applyBoundary p))) ∧
    (∀ (s : State) (p : Fin 16) (d0 : Desc), (s.part p).build = .built d0 →
      (s.live = false ∨ s.stalled = true ∨ (s.part p).st ≠ .running ∨ (s.part p).opened ≠ none → exec (.stepSeal p) s = .next s) ∧
      (s.live = true → s.stalled = false → (s.part p).st = .running → (s.part p).opened = none →
        ((s.part p).refetch ≠ none → exec (.stepSeal p) s = .next ((s.setPart p { s.part p with st := .held, hold := 6 }).promoteShard p)) ∧
        ((s.part p).refetch = none → ∃ t d, exec (.stepSeal p) s = .next t ∧ (t.part p).opened = some d ∧ d.step = d0.step ∧
          (t.part p).build = .idle ∧ (t.part p).step = d0.step + 1 ∧ (t.part p).tries = 0 ∧ (t.part p).boundary = s.time ∧
          ∀ l ∈ s.rodsOf p,
            (t.rod (s.phys l)).latch = none ∧ (t.rod (s.phys l)).rowMap = [] ∧ (t.rod (s.phys l)).pc = (s.rod (s.phys l)).pc ∧
            (t.rod (s.phys l)).s = (s.rod (s.phys l)).s ∧
            t.bead.readN (2 ^ 22 * s.phys l + 0x3F0000) 64 = s.launchRecord p d))) ∧
    (∀ (s : State) (p : Fin 16) (g : Fin 8), s.live = true → s.stalled = false →
      ((s.part p).boundary.toNat + 15 * g ≤ s.time.toNat →
        exec (.launchStaggerEnd p g) s =
          .next ((s.setPart p { s.part p with groups := (s.part p).groups.filter (fun x => x != g.val) }).startPart p)) ∧
      (s.time.toNat < (s.part p).boundary.toNat + 15 * g → exec (.launchStaggerEnd p g) s = .next s))

/-- A rod's oldest hand-off waits for what older remote operations of the rod still write there; then one without records leaves its unit and counts its counter, its carried records unchanged, and the status record of the rod is all that changes in bead memory; a hand-off to a partition with no open step, or of more than 4,096 records, raises REMOTE with response 1. SAMPLER_CHOOSE, once the rods of a RUNNING partition have ended the open step, writes the record of that step, with one entry for every sampled row in row order, and both journal copies in HBM. JOURNAL_COMPLETE of a complete record commits its step: nothing is open, both journal copies stay, and the replay count is 0. STEP_TIMEOUT holds a RUNNING partition whose open step has not ended within FLT_STEP_WDOG, with hold cause 5 and cause 0x21; before that time, and where the computation has ended, it changes nothing. -/
def Obligations.StepEndJournalAndTimeout : Prop :=
  (∀ (s : State) (l : Fin 512) (o : RemOp) (p : Nat) (d : Desc), s.live = true → s.partOf l = some p →
      (s.rod (s.phys l)).rem.find? (fun x => x.kind == .sample || x.kind == .sampleEmpty) = some o →
      ((s.rod (s.phys l)).olderTouches o = true → exec (.samplePutCopy l o.tag) s = .next s) ∧
      ((s.rod (s.phys l)).olderTouches o = false → (s.part p).opened = none ∨ (o.kind = .sample ∧ o.b.toNat > 4096) →
        exec (.samplePutCopy l o.tag) s = .next (s.setRod (s.phys l)
          (((s.rod (s.phys l)).dropRem o.tag).raise ⟨0x07, o.pc, o.word, o.ord, 1, o.addr⟩))) ∧
      ((s.rod (s.phys l)).olderTouches o = false → (s.part p).opened = some d → o.kind = .sampleEmpty → ∃ t, exec (.samplePutCopy l o.tag) s = .next t ∧
        t.rod (s.phys l) = ((s.rod (s.phys l)).dropRem o.tag).countOpt o.cnt ∧ (t.part p).recs = (s.part p).recs ∧
        ∀ x, (x < 2 ^ 22 * s.phys l + 0x3F0200 ∨ 2 ^ 22 * s.phys l + 0x3F0218 ≤ x) → t.bead.read1 x = s.bead.read1 x)) ∧
    (∀ (s : State) (p : Fin 16) (d : Desc), s.live = true → s.stalled = false → (s.part p).st = .running → (s.part p).opened = some d →
      ((s.part p).ended = false ∨ (s.part p).record ≠ none → exec (.samplerChoose p) s = .next s) ∧
      ((s.part p).ended = true → (s.part p).record = none → ∃ t r, exec (.samplerChoose p) s = .next t ∧
        (t.part p).record = some r ∧ (t.part p).jrnlA = some ⟨s.jrnlAt p d.step false, r⟩ ∧
        (t.part p).jrnlB = some ⟨s.jrnlAt p d.step true, r⟩ ∧ (t.part p).opened = some d ∧ r.step = d.step ∧ r.check = d.check ∧
        r.entries.map (·.idx) = (d.rows.filter (fun x => x.kind != 2 && x.sample)).map (·.idx) ∧ t.rods = s.rods ∧ t.bead = s.bead)) ∧
    (∀ (s : State) (p : Fin 16) (d : Desc) (r : JRecord), s.live = true → s.stalled = false → (s.part p).st = .running →
      (s.part p).opened = some d → (s.part p).record = some r → r.step = d.step → s.flt.pendingRods = [] →
      ∃ t, exec (.journalComplete p) s = .next t ∧ (t.part p).opened = none ∧ (t.part p).record = none ∧
        (t.part p).jrnlA = (s.part p).jrnlA ∧ (t.part p).jrnlB = (s.part p).jrnlB ∧ (t.part p).tries = 0 ∧ (t.part p).recs = [] ∧ t.rods = s.rods) ∧
    (∀ (s : State) (p : Fin 16), s.live = true → s.stalled = false → (s.part p).st = .running →
      let late := (s.part p).opened ≠ none ∧ (s.part p).ended = false ∧ (s.part p).wdog.toNat + 1000 * s.rf 0x30028 19 0 ≤ s.time.toNat
      (late → ∃ t, exec (.stepTimeout p) s = .next t ∧ (t.part p).st = .held ∧ (t.part p).hold = 5 ∧ (t.part p).faultCause = 0x21 ∧
        (t.part p).faultAt = some s.time ∧ (t.part p).opened = (s.part p).opened ∧ t.rods = s.rods) ∧
      (¬ late → exec (.stepTimeout p) s = .next s))

/-- With the block live and not halted: a partition that is not HELD, is held by a step timeout, has a program exception behind its hold or raised by one of its rods, or has no open step is refused with 5. A replay group whose members do not all have the same step open is reset. While the awaited peer is absent, a re-fetch is under way, or a rod of the group has an operation outstanding, nothing changes. Otherwise a partition alone in its group, whose sealed descriptor passes its check with tries left, runs again: RUNNING with the same step open, one more try counted, hold and fault cleared, and every rod of it at program address 0 with empty unit queues and no exception. -/
def Obligations.PartitionReplay : Prop :=
  ∀ (s : State) (p : Fin 16), s.live = true → s.stalled = false →
    let x := s.part p
    (x.st ≠ .held ∨ x.hold = 5 ∨ s.programFault p = true ∨ x.opened = none → exec (.releaseWithReplay p) s = .next (s.refused p 5)) ∧
    (∀ d, x.st = .held → x.hold ≠ 5 → s.programFault p = false → x.opened = some d →
      let grp := s.replayGroup p
      let same := fun k => ∃ e, (s.part k).opened = some e ∧ e.step = d.step
      let waits := (∃ k t, x.peerWait = some (k, t) ∧ s.present k = false) ∨ x.refetch ≠ none ∨ ∃ k ∈ grp, s.drained k = false
      ((∃ k ∈ grp, ¬ same k) → exec (.releaseWithReplay p) s = .next (s.forEach grp (fun k u => u.resetPart k 0x0A ((u.part k).faultResp % 16)))) ∧
      ((∀ k ∈ grp, same k) → waits → exec (.releaseWithReplay p) s = .next s) ∧
      (grp = [p.val] → ¬ waits → s.descCheck p d = true → x.tries < s.rf 0x30030 3 0 →
        ∃ t, exec (.releaseWithReplay p) s = .next t ∧ (t.part p).st = .running ∧ (t.part p).opened = some d ∧
          (t.part p).tries = x.tries + 1 ∧ (t.part p).hold = 0 ∧ (t.part p).faultCause = 0 ∧
          ∀ l ∈ s.rodsOf p, (t.rod (s.phys l)).pc = 0 ∧ (t.rod (s.phys l)).issue = .run ∧ (t.rod (s.phys l)).raised = [] ∧
            (t.rod (s.phys l)).reported = false ∧ (t.rod (s.phys l)).mq = [] ∧ (t.rod (s.phys l)).vq = [] ∧ (t.rod (s.phys l)).cq = []))

/-- With the entry at the front of its queue: a SUBMIT that fails a check of R340 or R341 admits nothing; a good one is held back while the Slate is full or the tenant holds its quota, and otherwise enters the FREE entry as QUEUED, with the tenant, the words of the entry and the admission time. PAUSE leads a QUEUED, PREFILL or DECODE request of an idle partition to PAUSED, PARK one of these or a PAUSED one to PARKED with the parking time in word 6, RESUME a PAUSED one to DECODE where it has generated a token and to QUEUED where not; in a partition that is not idle the command waits with the request. A command that names no request of its tenant changes no request. CANCEL leads a request with rows in the launched step to CANCELLING and retires any other active one with status CANCELLED. -/
def Obligations.RequestsAdmittedAndControlled : Prop :=
  (∀ (s : State) (t : Fin 64) (q : Fin 8) (i : Nat) (k : Fin 32768) (e : SubEntry) (b : List SubEntry),
      s.takeEntry t q i 1 = some (e, b) →
      let bad := chainBad b e (b.length + 1) = true ∨ s.admissible t b e = false ∨ s.succOk t b e = false
      (bad → ∃ u, exec (.submit t q i k) s = .next u ∧ ∀ n, (u.slot n).state = (s.slot n).state) ∧
      (¬ bad → s.slateFull t = true → ∃ u, exec (.submit t q i k) s = .next u ∧ u.slate = s.slate) ∧
      (¬ bad → s.slateFull t = false → (s.slot k).state = 0 → ∀ s1, s.mapPlist (bits (e.word 1) 55 52) k = some s1 →
        ∃ u, exec (.submit t q i k) s = .next u ∧ (u.slot k).state = 1 ∧ (u.slot k).tenant = t ∧ (u.slot k).w1 = e.word 2 ∧
          (u.slot k).w3 = e.word 3 ∧ (u.slot k).w4 = e.word 4 ∧ (u.slot k).w5 = s.time ∧
          ∀ n, n ≠ k.val → u.slot n = s.slot n)) ∧
    (∀ (s : State) (t : Fin 64) (q : Fin 8) (i : Nat) (e : SubEntry) (b : List SubEntry), s.takeEntry t q i 2 = some (e, b) →
      let x := s.slot e.names
      let good := e.clean 3 false = true ∧ bits (e.word 1) 63 15 = 0 ∧ s.namesOwn t e = true
      (¬ good → ∃ u, exec (.pause t q i) s = .next u ∧ u.slate = s.slate) ∧
      (good → x.state = 1 ∨ x.state = 2 ∨ x.state = 3 →
        (s.idle x.part = true → ∃ u, exec (.pause t q i) s = .next u ∧ u.slot e.names = x.setState 4) ∧
        (s.idle x.part = false → ∃ u, exec (.pause t q i) s = .next u ∧
          u.slot e.names = { x with ctl := x.ctl ++ [⟨2, 0, t, q, e.id⟩] }))) ∧
    (∀ (s : State) (t : Fin 64) (q : Fin 8) (i : Nat) (e : SubEntry) (b : List SubEntry), s.takeEntry t q i 3 = some (e, b) →
      let x := s.slot e.names
      let ttl := bits (e.word 3) 15 0
      let good := e.clean 4 false = true ∧ bits (e.word 1) 63 15 = 0 ∧ bits (e.word 3) 63 16 = 0 ∧ s.namesOwn t e = true
      (¬ good → ∃ u, exec (.park t q i) s = .next u ∧ u.slate = s.slate) ∧
      (good → x.state = 1 ∨ x.state = 2 ∨ x.state = 3 ∨ x.state = 4 → ttl ≠ 0 ∨ x.ttl ≠ 0 → s.idle x.part = true →
        ∃ u, exec (.park t q i) s = .next u ∧ (u.slot e.names).state = 5 ∧ (u.slot e.names).w6 = s.time ∧
          (ttl ≠ 0 → (u.slot e.names).ttl = ttl))) ∧
    (∀ (s : State) (t : Fin 64) (q : Fin 8) (i : Nat) (e : SubEntry) (b : List SubEntry), s.takeEntry t q i 4 = some (e, b) →
      let x := s.slot e.names
      let good := e.clean 3 false = true ∧ bits (e.word 1) 63 15 = 0 ∧ s.namesOwn t e = true
      (¬ good → ∃ u, exec (.resume t q i) s = .next u ∧ u.slate = s.slate) ∧
      (good → x.state = 4 → x.lost = false → s.idle x.part = true →
        ∃ u, exec (.resume t q i) s = .next u ∧ (u.slot e.names).state = (if x.generated > 0 then 3 else 1))) ∧
    (∀ (s : State) (t : Fin 64) (q : Fin 8) (i : Nat) (e : SubEntry) (b : List SubEntry), s.takeEntry t q i 5 = some (e, b) →
      let x := s.slot e.names
      let good := e.clean 3 false = true ∧ bits (e.word 1) 63 15 = 0 ∧ s.namesOwn t e = true
      (¬ good → ∃ u, exec (.cancel t q i) s = .next u ∧ u.slate = s.slate) ∧
      (good → x.active = true → x.state ≠ 6 →
        (s.inLaunched e.names = true → ∃ u, exec (.cancel t q i) s = .next u ∧ u.slot e.names = { x.setState 6 with ended := 0 }) ∧
        (s.inLaunched e.names = false → ∃ u, exec (.cancel t q i) s = .next u ∧ (u.slot e.names).state = 7 ∧
          (u.slot e.names).status = 1)))

/-- With the block live: a PARKED entry that is resuming, with its cache not lost and every page of its blocks in tier 1 and at rest, takes DECODE where it has generated a token and QUEUED where not. A sweep retires with status 5 every PARKED entry, not resuming, whose time to live has run out. A retired and posted entry that no descriptor and no other entry names becomes FREE with every word zero, and its input buffer with it where no other entry of the tenant names that buffer; any other entry stays. The packer's completion waits for what it has asked of memory beyond the block, asks for what it still needs there, and otherwise keeps the tokens packed, clears PACKING of its entry and takes it from the packer's list. An uncorrectable error in word 0 or 7 of an entry costs nothing; in any other word of an active entry it marks the request to end with status 8 at the boundary, unless it ends already. -/
def Obligations.SlateMaintenance : Prop :=
  (∀ (s : State) (i : Fin 32768), s.live = true →
      let x := s.slot i
      let here := ∀ n, n < x.pages → ∀ b ∈ s.pagesOf x.part (blockAddr (s.blockEntry i n)) (s.kvBytes x.part),
        ∃ e w a z, s.xlat x.part b = .page e w a z ∧ entryTier e = 1 ∧ entryMoving e = false
      (x.state = 5 → x.resuming = true → x.lost = false → here →
        ∃ t, exec (.resumeComplete i) s = .next t ∧ (t.slot i).state = (if x.generated > 0 then 3 else 1) ∧
          (t.slot i).resuming = false ∧ t.hbm = s.hbm) ∧
      (x.state ≠ 5 ∨ x.resuming = false ∨ (x.lost = false ∧ ¬ here) → exec (.resumeComplete i) s = .next s)) ∧
    (∀ (s : State), s.live = true → ∃ t, exec .slateSweep s = .next t ∧
      ∀ i, (s.slot i).state = 5 → (s.slot i).resuming = false → (s.slot i).w6.toNat + (s.slot i).ttl * 100000000 ≤ s.time.toNat →
        (t.slot i).state = 7 ∧ (t.slot i).status = 5) ∧
    (∀ (s : State) (i : Fin 32768), s.live = true →
      let x := s.slot i
      let free := x.state = 7 ∧ x.posted = true ∧ s.inStep i = false ∧ ∀ k ∈ s.entries, (s.slot k).succ ≠ i.val
      (free → ∃ t, exec (.slateFree i) s = .next t ∧ t.slot i = Slot.init ∧ (∀ k, k ≠ i.val → t.slot k = s.slot k) ∧
        ((∀ k ∈ t.entriesOfTenant x.tenant, (t.slot k).buffer ≠ x.buffer) → t.bufState x.tenant x.buffer = 0)) ∧
      (¬ free → exec (.slateFree i) s = .next s)) ∧
    (∀ (s : State) (i : Fin 32768), s.live = true → i.val ∈ s.gth.packing → ∀ g, s.packSeg i = some g →
      let p := (s.slot i).part
      let ops := s.opsOf (.pack i)
      let r0 := s.hbmWord g.at_
      let r1 := s.hbmWord (g.at_ + 8)
      let c := s.packCands (some ops) (s.slot i).tenant p g.at_ 0 [] (bits r1 31 16)
      let f := c.2.packFill (some ops) (p % 32) (s.slot i).tenant p (bits r1 9 0) (bits r1 47 32) (bits r0 31 0)
        (if bit r0 61 then some (bits r0 49 32) else none) c.1 [] 0
      let more := s.bitmapNeeds (some ops) p g.at_ ≠ [] ∨ f.2.2.1 ≠ []
      (ops.any (fun x => x.resp.isNone) = true → exec (.packComplete i) s = .next s) ∧
      (ops.any (fun x => x.resp.isNone) = false → more → ∃ t, exec (.packComplete i) s = .next t ∧ t.slot i = s.slot i) ∧
      (ops.any (fun x => x.resp.isNone) = false → ¬ more → ∃ t, exec (.packComplete i) s = .next t ∧
        (t.slot i).packing = false ∧ (t.slot i).packed = some f.1 ∧ i.val ∉ t.gth.packing)) ∧
    (∀ (s : State) (i : Fin 32768) (w : Fin 8), s.live = true →
      (w = 0 ∨ w = 7 ∨ (s.slot i).active = false → ∃ t, exec (.slateUe i w) s = .next t ∧ t.slate = s.slate) ∧
      (w ≠ 0 → w ≠ 7 → (s.slot i).active = true → ∃ t, exec (.slateUe i w) s = .next t ∧
        t.slot i = { s.slot i with ended := if (s.slot i).ended = 0 then 9 else (s.slot i).ended } ∧
        ∀ k, k ≠ i.val → t.slot k = s.slot k))

/-- A LOAD at the front of its queue for a LOADING partition without a load begins the load where the manifests pass every check, with at most four shards in flight, and is FAILED otherwise, or with cause 5 where a shard in flight finds no room. A shard in flight is marked verified, with the time, where its header, tag and digest pass, unless the load then finds no room; otherwise the load is FAILED with the cause of the check; a source that failed is tried again up to its limit. With every shard verified and placed, LOAD_COMPLETE ends the load DONE, gives the KV blocks to the free list and puts the layer program in every rod. A scrub turn of a shard notes the time where the digest agrees; where it does not, SCRUB_MISMATCH starts a re-fetch or queues one behind another, and an idle RUNNING partition is held with hold cause 6. A re-fetched shard whose pages lie in tier 1 and that verifies ends the re-fetch; the next one begins, or the partition runs where only the re-fetch held it; past SEC_REFETCH_LIMIT the partition goes to LOADING with no load, and a load in progress is FAILED. -/
def Obligations.ModelLoadsAndScrubbing : Prop :=
  (∀ (s : State) (t : Fin 64) (q : Fin 8) (i : Nat) (m : ModelManifest) (l : List W64) (e : SubEntry) (b : List SubEntry),
      s.takeEntry t q i 0x0C = some (e, b) → e.clean 5 false = true → bits (e.word 1) 59 0 = 0 → bits (e.word 2) 63 47 = 0 →
      bits (e.word 3) 63 47 = 0 → (s.rd (hReg t 8)).getLsbD 2 = true →
      let p := bits (e.word 1) 63 60
      (s.part p).st = .loading → ((s.part p).load.state = .idle ∨ (s.part p).load.state = .failed) →
      ∃ u, exec (.load t q i m l) s = .next u ∧ (u.part p).st = .loading ∧
        (s.manifestAccepted p m l → u.loadFailed p 5 ∨ (u.part p).load.state = .loading ∧ (u.part p).load.model = some m ∧
          (∀ x ∈ (u.part p).load.shards, x.ok = false ∧ shBlock x.words = s.fab.pos) ∧
          ((u.part p).load.shards.filter (·.begun)).length ≤ 4) ∧
        (¬ s.manifestAccepted p m l → (u.part p).load.state = .failed)) ∧
    (∀ (s : State) (p : Fin 16) (k : Nat) (m : ModelManifest) (x : Shard), s.live = true →
      let v := s.loadStep p
      let ld := (v.part p).load
      ld.state = .loading → ld.model = some m → ld.shards[k]? = some x → x.begun = true → x.ok = false →
      (∀ (h : List W64) (c tag : List Byte), ∃ u, exec (.shardVerify p k (.bytes h c tag)) s = .next u ∧
        (∀ pt, shardCheck ld m x.words h c tag = .ok pt → u.loadFailed p 5 ∨
          (u.part p).load.shards[k]? = some { x with ok := true, lastCheck := s.time } ∧ (u.part p).load.state = .loading) ∧
        (∀ n, shardCheck ld m x.words h c tag = .error n → u.loadFailed p n)) ∧
      (∀ n, ∃ u, exec (.shardVerify p k (.error n)) s = .next u ∧
        (if x.tries + 1 > v.rf 0x20058 3 0 then u.loadFailed p 4
         else (u.part p).load.shards[k]? = some { x with tries := x.tries + 1 }))) ∧
    (∀ (s : State) (p : Fin 16) (m : ModelManifest), s.live = true →
      let v := s.loadStep p
      (v.part p).load.model = some m → (v.part p).load.state = .loading →
      ((∃ x ∈ (v.part p).load.shards, x.ok = false) → exec (.loadComplete p) s = .next v) ∧
      ((∀ x ∈ (v.part p).load.shards, x.ok = true ∧ v.placed p x.words = true) → ∃ u, exec (.loadComplete p) s = .next u ∧
        (u.part p).load.state = .done ∧ (u.part p).kvAll = m.kvCount ∧
        (u.part p).kvFree = (List.range m.kvCount).map (fun n => m.kvBase.toNat + n * m.kvBytes) ∧
        ∀ l ∈ v.rodsOf p, (u.rod (v.phys l)).imgLen = m.program.length)) ∧
    (∀ (s : State) (p : Fin 16) (k : Nat) (x : Shard) (d : List Byte), s.live = true → (s.part p).load.shards[k]? = some x →
      s.scrubTurn p x = true → s.shardDigest p x.words = some d →
      ∃ u v, exec (.scrubCheck p k) s = .next u ∧ exec (.scrubMismatch p k) s = .next v ∧
        (d = shDigest x.words → (u.part p).load.shards[k]? = some { x with lastCheck := s.time } ∧ v = s) ∧
        (d ≠ shDigest x.words → u = s ∧
          ((s.part p).refetch = none → (v.part p).refetch = some (k, s.time) ∧
            (s.idle p = true → (s.part p).st = .running → (v.part p).st = .held ∧ (v.part p).hold = 6)) ∧
          (∀ j t0, (s.part p).refetch = some (j, t0) → (v.part p).refetch = some (j, t0) ∧ (j ≠ k → k ∈ (v.part p).refetchNext)))) ∧
    (∀ (s : State) (p : Fin 16) (k : Nat) (t0 : W64) (m : ModelManifest) (x : Shard) (h : List W64) (c tag : List Byte), s.live = true →
      (s.part p).refetch = some (k, t0) → (s.part p).load.model = some m → (s.part p).load.shards[k]? = some x →
      (s.part p).st = .held ∨ (s.part p).st = .loading → (s.ten (s.part p).load.tenant).st = .attached →
      let here := ∀ a ∈ shPages x.words, (s.tier1 p a).isSome = true ∧ s.moveOf p a (pageSize (shLarge x.words)) = none
      (¬ here → exec (.refetchComplete p (.bytes h c tag)) s = .next s) ∧
      (here → ∃ u, exec (.refetchComplete p (.bytes h c tag)) s = .next u ∧
        (∀ n, shardCheck (s.part p).load m x.words h c tag = .error n →
          (u.part p).refetch = some (k, t0) ∧ (u.part p).refetchTries = (s.part p).refetchTries + 1 ∧ u.hbm = s.hbm) ∧
        (∀ pt, shardCheck (s.part p).load m x.words h c tag = .ok pt →
          ((s.part p).refetchNext = [] → (u.part p).refetch = none ∧
            (u.part p).st = (if (s.part p).hold = 6 then .running else (s.part p).st)) ∧
          (∀ j r, (s.part p).refetchNext = j :: r → (u.part p).refetch = some (j, s.time) ∧ (u.part p).refetchNext = r ∧
            (u.part p).st = (s.part p).st)))) ∧
    (∀ (s : State) (p : Fin 16) (k : Nat) (t0 : W64), s.live = true → (s.part p).refetch = some (k, t0) →
      (t0.toNat + s.rf 0x20070 9 0 * 10 ^ 9 ≤ s.time.toNat → ∃ u, exec (.refetchLimitExpire p) s = .next u ∧
        (u.part p).refetch = none ∧ ((s.part p).load.state = .loading → u.loadFailed p 2) ∧
        ((s.part p).load.state ≠ .loading → (u.part p).st = .loading ∧ (u.part p).load = Load.init ∧ (u.part p).opened = none)) ∧
      (s.time.toNat < t0.toNat + s.rf 0x20070 9 0 * 10 ^ 9 → (s.ten (s.part p).load.tenant).st = .attached →
        exec (.refetchLimitExpire p) s = .next s))

/-- With the block live: a STREAM.ARM with room in the context is taken where its descriptor passes R278, last among the partition's streams under the next number, and completes; else it raises REMOTE with the response of the check. An extent first reads what lies beyond the block; then it completes: the bytes of its source range at its destination in bead memory, no other byte there changed, 1 more in its counter. One whose read drew an error, or that failed, never completes; one that fails with PEER_ABSENT, TIMEOUT or INTEGRITY is marked and holds the RUNNING partition. A good ADAPTER_INSTALL stages the entry LOADING and a good ADAPTER_REMOVE stages it ABSENT, under the adapter id with APPLY set; a good ADAPTER_REPLACE only awaits its image; an image that passes every check and finds tier 1 or tier 2 pages ends its command with the entry staged READY, a failed source or other pages end it, and one that an open step may still name waits. -/
def Obligations.WeightStreamsAndAdapters : Prop :=
  (∀ (s : State) (l : Fin 512) (tag p : Nat) (o : RemOp), s.live = true → s.stalled = false → s.partOf l = some p →
      (s.rod (s.phys l)).rem.find? (fun x => x.tag == tag) = some o → o.kind = .stream → (s.part p).streams.length < 64 →
      (∀ d, s.streamCheck p o.addr = .ok d → ∃ t, exec (.streamAccept l tag) s = .next t ∧
        (t.part p).streams = (s.part p).streams ++ [{ d with id := (s.part p).nextStream }] ∧
        (t.part p).nextStream = (s.part p).nextStream + 1 ∧ 
        ∃ b, t.rod (s.phys l) = (({ s.rod (s.phys l) with stalled := b }).dropRem o.tag).countOpt o.cnt) ∧
      (∀ r, s.streamCheck p o.addr = .error r → ∃ t, exec (.streamAccept l tag) s = .next t ∧ t.parts = s.parts ∧
        t.rod (s.phys l) = ((s.rod (s.phys l)).dropRem o.tag).raise ⟨0x07, o.pc, o.word, o.ord, r, o.addr⟩)) ∧
    (∀ (s : State) (p : Fin 16) (slot e : Nat) (d : Stream) (x : Extent), s.live = true → s.extentOf p slot e = some (d, x) →
      let ops := s.opsOf (.extent p d.id e)
      let asks := (s.extentLower p x).filter (fun y => (fetched ops y.2.1 y.2.2).isNone)
      let r := s.extentResp p x ops
      (x.failed = true → exec (.extentComplete p slot e) s = .next s) ∧
      (x.failed = false → asks ≠ [] → ∃ t, exec (.extentComplete p slot e) s = .next t ∧ t.parts = s.parts ∧ t.bead = s.bead ∧
        t.rods = s.rods) ∧
      (x.failed = false → asks = [] → r ≠ 0 → r ≠ 4 → exec (.extentComplete p slot e) s = .next s) ∧
      (x.failed = false → asks = [] → r = 0 ∨ r = 4 → ∃ t, exec (.extentComplete p slot e) s = .next t ∧
        t.bead = s.bead.writeN (2 ^ 22 * s.phys x.rod + x.dst) (s.extentBytes p x ops) ∧ t.hbm = s.hbm ∧
        t.rod (s.phys x.rod) = (s.rod (s.phys x.rod)).addCnt x.cnt 1 ∧ ∀ k, k ≠ s.phys x.rod → t.rod k = s.rod k)) ∧
    (∀ (s : State) (p : Fin 16) (slot e resp : Nat) (d : Stream) (x : Extent), s.live = true → s.extentOf p slot e = some (d, x) →
      (x.failed = false → resp = 5 ∨ resp = 6 ∨ resp = 8 → ∃ t, exec (.extentFail p slot e resp) s = .next t ∧
        (t.extentOf p slot e).map (·.2.failed) = some true ∧ ((s.part p).st = .running →
          (t.part p).st = .held ∧ (t.part p).hold = 4 ∧ (t.part p).faultCause = 7 ∧ (t.part p).faultResp = resp)) ∧
      (x.failed = true ∨ (resp ≠ 5 ∧ resp ≠ 6 ∧ resp ≠ 8) → exec (.extentFail p slot e resp) s = .next s)) ∧
    (∀ (s : State) (t : Fin 64) (q : Fin 8) (i : Nat) (e : SubEntry) (b : List SubEntry),
      let p := bits (e.word 1) 63 60
      let id := bits (e.word 1) 23 0
      let staged := fun (u : State) (st : Nat) => u.rd (dirReg p 0x40) = w64 (2 ^ 63 + id) ∧ bits (u.rd (dirReg p 0)) 63 60 = st
      (s.takeEntry t q i 8 = some (e, b) → s.adapterOk t e false = true → (bit (e.word 1) 24 = true → bit (s.rd (hReg t 8)) 3 = true) → s.dirBusy p = false →
        (∀ d, s.dirEntry p id = some d → deId d = id → deState d ≠ 1 ∧ deState d ≠ 2) →
        ∃ u, exec (.adapterInstall t q i) s = .next u ∧ staged u 1 ∧ (u.ten t).adapters = (s.ten t).adapters ++ [e.adapterCmd t q]) ∧
      (s.takeEntry t q i 9 = some (e, b) → s.adapterOk t e false = true → s.ownsReady p id t = true →
        ∃ u, exec (.adapterReplace t q i) s = .next u ∧ (u.ten t).adapters = (s.ten t).adapters ++ [e.adapterCmd t q] ∧ u.regs = s.regs) ∧
      (s.takeEntry t q i 10 = some (e, b) → s.adapterOk t e true = true → s.ownsReady p id t = true → s.dirBusy p = false →
        ∃ u, exec (.adapterRemove t q i) s = .next u ∧ staged u 0 ∧ (u.ten t).adapters = (s.ten t).adapters)) ∧
    (∀ (s : State) (t : Fin 64) (k : Nat) (a : AdapterCmd) (at_ : BitVec 52) (r : ShardRead), s.live = true →
      (s.ten t).adapters[k]? = some a → s.dirBusy a.part = false →
      ∃ u, exec (.adapterImageVerified t k at_ r) s = .next u ∧ u.rods = s.rods ∧
        (u = s ∨ (u.ten t).adapters = (s.ten t).adapters.eraseIdx k) ∧
        (∀ n, r = .error n → (u.ten t).adapters = (s.ten t).adapters.eraseIdx k) ∧
        (∀ m hdr c tag pt, r = .bytes hdr c tag → (s.part a.part).load.model = some m → s.imageOpens a m hdr c tag pt →
          (s.imagePlace a.part at_.toNat pt.length ((s.dirEntry a.part a.id).getD []) = false → u = s) ∧
          (s.imagePlace a.part at_.toNat pt.length ((s.dirEntry a.part a.id).getD []) = true →
            (u.ten t).adapters = (s.ten t).adapters.eraseIdx k ∧
            ∀ v, s.imageWrite a.part at_.toNat pt = some v →
              u.rd (dirReg a.part 0x40) = w64 (2 ^ 63 + a.id % 2 ^ 24) ∧ bits (u.rd (dirReg a.part 0)) 63 60 = 2)))

/-- With the block live: a gather waits for older operations of its unit and then for its engine; one that drew a response raises REMOTE with it; otherwise rows beyond the block are asked for, and when all are here the rows and the validity bitmap are written, bit j of the bitmap set exactly for the rows delivered, the operation leaves its unit, its counter counts, no other rod changes, and the engine takes its next descriptor. A completed lookup reply leaves the engine; one of this block adds 1 to the counter it names. A row write with GO joins the queue while fewer than 64 wait, and only the queue. ROW_WRITE_FLIP takes the first write whose row is not held: of a replaceable table it writes the copy that is not live, then flips the selector bit, then holds the row; the hold ends 25 microseconds later. -/
def Obligations.GatherLookupsAndRowWrites : Prop :=
  (∀ (s : State) (l : Fin 512) (tag : Nat) (o : RemOp), s.live = true →
      (s.rod (s.phys l)).rem.find? (fun x => x.tag == tag && x.kind == .gather) = some o →
      let old := (s.rod (s.phys l)).olderTouches o
      let ops := s.opsOf (.gather (s.phys l) o.ord)
      let ws := (List.range 8).map (fun k => w64 (leNat ((o.data.drop (8 * k)).take 8)))
      let needs := s.gatherNeeds (some ops) (s.phys l) ws (s.tbl (gdTable ws))
      let cl := o.clash ++ (s.rod (s.phys l)).openWrites (some .remote)
      (old = true → exec (.gatherComplete l tag) s = .next s) ∧
      (old = false → o.taken = false → exec (.gatherComplete l tag) s = .next (s.engineTake (engineOf l))) ∧
      (old = false → o.taken = true → ∀ resp, o.done = some resp → exec (.gatherComplete l tag) s = .next (s.setRod (s.phys l)
        (((s.rod (s.phys l)).dropRem o.tag).raise ⟨0x07, o.pc, o.word, o.ord, resp, o.addr⟩))) ∧
      (old = false → o.taken = true → o.done = none → needs ≠ [] → ∃ t, exec (.gatherComplete l tag) s = .next t ∧ t.rods = s.rods ∧
        t.bead = s.bead) ∧
      (old = false → o.taken = true → o.done = none → needs = [] →
        let ok := (s.gatherRows (some ops) l (s.phys l) ((s.partOf l).getD 0) o.bead cl ws (s.tbl (gdTable ws)) 0 (gdCount ws)).1
        ∃ t : State, exec (.gatherComplete l tag) s = .next (t.engineTake (engineOf l)) ∧
          t.rod (s.phys l) = ((s.rod (s.phys l)).dropRem tag).countOpt o.cnt ∧
          (∀ k, k ≠ s.phys l → t.rod k = s.rod k) ∧ ok.length = gdCount ws ∧
          (cl = [] → ∀ k, k < 8 * ceilDiv (gdCount ws) 64 → ∀ j, j < 8 →
            (t.bead.read1 (2 ^ 22 * s.phys l + gdBitmap ws + k)).getLsbD j = nth false ok (8 * k + j)))) ∧
    (∀ (s : State) (e : Fin 32) (r : LookupReply), s.live = true → s.gth.replies.find? (fun x => x.engine == e.val) = some r →
      ∃ t, exec (.lookupReply e) s = .next t ∧ t.gth.replies = s.gth.replies.erase r ∧
        (r.pos ≠ s.fab.pos → t.rods = s.rods) ∧
        ∀ l c, r.pos = s.fab.pos → l < s.design.rods → l < 512 → c < 14 → r.counter = 2 ^ 48 + 2 ^ 23 * l + 2 ^ 22 + 4 * c →
          t.rod (s.phys l) = (s.rod (s.phys l)).addCnt c 1 ∧ ∀ k, k ≠ s.phys l → t.rod k = s.rod k) ∧
    (∀ (s : State) (v : W64), s.live = true → ∃ t, exec (.gthRowwrite v) s = .next t ∧ t.hbm = s.hbm ∧ t.rods = s.rods ∧
      t.rf 0x500110 9 0 = bits v 9 0 ∧
      (v.getLsbD 63 = true → s.gth.rowq.length < 64 →
        t.gth.rowq = s.gth.rowq ++ [⟨bits v 9 0, s.rf 0x500108 39 0, s.rf 0x500100 51 0⟩]) ∧
      (v.getLsbD 63 = false ∨ 64 ≤ s.gth.rowq.length → t.gth.rowq = s.gth.rowq)) ∧
    (∀ (s : State) (w : RowWrite) (bs : List Byte) (b : Bool), s.live = true →
      s.gth.rowq.find? (fun x => Sparse.get 0 s.gth.holds (rowKey x.table x.row) == 0) = some w →
      let d := s.tbl w.table
      s.rangeRead (tblPart d) w.src (tblRow d) = some bs → s.liveCopy d w.row = some b →
      tblReplaceable d = true → w.row < tblCount d → ∃ t, exec .rowWriteFlip s = .next t ∧ t.gth.rowq = s.gth.rowq.erase w ∧
        Sparse.get 0 t.gth.holds (rowKey w.table w.row) = s.time + 1 ∧
        t.hbm = ((s.rangeWrite (tblPart d) (tblBase d + (if b then w.row else tblCount d + w.row) * tblRow d) bs).rangeWrite (tblPart d)
          (bits (nth 0 d 11) 51 0 + w.row / 8)
          [nth 0 ((s.rangeRead (tblPart d) (bits (nth 0 d 11) 51 0 + w.row / 8) 1).getD [0]) 0 ^^^ BitVec.ofNat 8 (2 ^ (w.row % 8))]).hbm) ∧
    (∀ (s : State) (tbl : Fin 1024) (row : Nat), s.live = true →
      let t0 := Sparse.get 0 s.gth.holds (rowKey tbl row)
      (t0 ≠ 0 → t0.toNat + 24999 ≤ s.time.toNat → ∃ t, exec (.rowWriteHoldExpire tbl row) s = .next t ∧
        Sparse.get 0 t.gth.holds (rowKey tbl row) = 0 ∧ t.gth.rowq = s.gth.rowq ∧ t.hbm = s.hbm) ∧
      (s.time.toNat < t0.toNat + 24999 → exec (.rowWriteHoldExpire tbl row) s = .next s))

/-- With the block live: each of the three APPLY rows sets bit 63 of its control register and no other bit of any register. TABLE_APPLY of a staged image for an idle partition puts the image in force with RESULT 1 where it keeps every rule of R173, leaves the table as it was with RESULT 2 where not, and clears APPLY in both cases. DIRECTORY_APPLY does the same for the staged entry, by whether its place can be written, and then stages the next lost adapter. PROFILE_APPLY writes the 64 staged bytes to the profile and clears APPLY, unless the Sampler is handling a step. A HOT_SET_REFRESH changes no register, rod or bead memory; an evicted row's index entry becomes 0 and its slot stays free of rows for 25 microseconds. A SHARD_MIGRATION of a bucket between two other blocks, within this one, or whose copy has been answered OK stages the table with the version raised by 1 and APPLY set; it waits for the answer, and after an error nothing is staged. A release of a table version without replicas forgets it at once. -/
def Obligations.StagedTablesApply : Prop :=
  (∀ (s : State), s.live = true → ∃ t, exec .gthTblStageApply s = .next t ∧ t.rd 0x500280 = s.rd 0x500280 ||| w64 (2 ^ 63) ∧
      (∀ o, o ≠ 0x500280 → t.rd o = s.rd o) ∧ t = { s with regs := t.regs }) ∧
    (∀ (s : State) (p : Fin 16), s.live = true →
      (∃ t, exec (.carDirStageApply p) s = .next t ∧ t.rd (dirReg p 0x40) = s.rd (dirReg p 0x40) ||| w64 (2 ^ 63) ∧
        (∀ o, o ≠ dirReg p 0x40 → t.rd o = s.rd o) ∧ t = { s with regs := t.regs }) ∧
      (∃ t, exec (.seqProfStageApply p) s = .next t ∧ t.rd (pReg p 0x240) = s.rd (pReg p 0x240) ||| w64 (2 ^ 63) ∧
        (∀ o, o ≠ pReg p 0x240 → t.rd o = s.rd o) ∧ t = { s with regs := t.regs })) ∧
    (∀ (s : State), s.live = true → (s.rd 0x500280).getLsbD 63 = true → s.idle (tblPart s.tblStaged) = true →
      let n := s.rf 0x500280 9 0
      ∃ t, exec .tableApply s = .next t ∧ t.tbl n = (if s.tblAccepts s.tblStaged = true then s.tblStaged else s.tbl n) ∧
        (∀ k, k ≠ n → t.tbl k = s.tbl k) ∧ t.rf 0x500280 62 60 = (if s.tblAccepts s.tblStaged = true then 1 else 2) ∧
        (t.rd 0x500280).getLsbD 63 = false) ∧
    (∀ (s : State) (p : Fin 16), s.live = true → (s.rd (dirReg p 0x40)).getLsbD 63 = true →
      (s.idle p = true ∨ (s.part p).st ≠ .running → ∃ t, exec (.directoryApply p) s = .next t ∧ (∀ id r, (s.part p).dirLost = id :: r →
        (t.part p).dirLost = r ∧ t.rd (dirReg p 0x40) = w64 (2 ^ 63 + id % 2 ^ 24)) ∧ ((s.part p).dirLost = [] →
        (t.rd (dirReg p 0x40)).getLsbD 63 = false ∧ (t.rf (dirReg p 0x40) 62 60 = 1 ∨ t.rf (dirReg p 0x40) 62 60 = 2 ∧ t.hbm = s.hbm))) ∧
      (s.idle p = false → (s.part p).st = .running → exec (.directoryApply p) s = .next s)) ∧
    (∀ (s : State) (p : Fin 16), s.live = true → (s.rd (pReg p 0x240)).getLsbD 63 = true →
      ((s.part p).opened = none ∨ (s.part p).ended = false → ∃ t, exec (.profileApply p) s = .next t ∧
        (t.rd (pReg p 0x240)).getLsbD 63 = false ∧
        t.hbm = (s.rangeWrite p ((s.rd (pReg p 0x58)).toNat + 64 * s.rf (pReg p 0x240) 12 0)
          (bytesOf ((List.range 8).map (fun k => s.rd (pReg p (0x200 + 8 * k)))))).hbm) ∧
      ((s.part p).opened ≠ none → (s.part p).ended = true → exec (.profileApply p) s = .next s)) ∧
    (∀ (s : State) (tbl : Fin 1024) (l : List HotChange), s.live = true → tblHot (s.tbl tbl) = true →
      ∃ t, exec (.hotSetRefresh tbl l) s = .next t ∧ t.rods = s.rods ∧ t.bead = s.bead ∧ t.gth = { s.gth with freed := t.gth.freed } ∧
        ∀ row a e, l = [.evict row] → s.hotPlace (tblPart (s.tbl tbl)) (s.tbl tbl) row (tblHash (s.tbl tbl) row).toNat 8 = some a →
          s.rangeRead64 (tblPart (s.tbl tbl)) a = some e → e ≠ 0 → t.hbm = (s.rangeWrite64 (tblPart (s.tbl tbl)) a 0).hbm ∧
            Sparse.get 0 t.gth.freed (2 ^ 24 * tbl.val + bits e 23 0) = s.time + 1) ∧
    (∀ (s : State) (tbl : Fin 1024) (bucket : Nat) (owner : Fin 8) (off : BitVec 48) (map : BitVec 52) (o : Nat × Nat) (m : List Byte),
      let d := s.tbl tbl
      let n := 8 * ceilDiv (tblCount d) 4096
      let u := UnitUse.bucket tbl bucket
      s.live = true → tblSharded d = true → s.shardOf d (4096 * bucket) = some o →
      s.rangeRead (tblPart d) (bits (nth 0 d 5) 51 0) n = some m → 8 * bucket < n → (s.rd 0x500280).getLsbD 63 = false →
      (owner.val = s.fab.pos → s.oldPlace off.toNat (tblRow d * 4096) = false) →
      (∀ x l, s.opsOf u = x :: l → (x.resp = none → exec (.shardMigration tbl bucket owner off map) s = .next s) ∧
        ∀ r, x.resp = some r → r ≠ 0 → exec (.shardMigration tbl bucket owner off map) s = .next (s.dropOps u)) ∧
      ((s.opsOf u = [] ∧ (o.1 = s.fab.pos ↔ owner.val = s.fab.pos)) ∨ (∃ x l, s.opsOf u = x :: l ∧ x.resp = some 0) →
        ∃ t, exec (.shardMigration tbl bucket owner off map) s = .next t ∧ (t.rd 0x500280).getLsbD 63 = true ∧
          t.rf 0x500280 9 0 = tbl ∧ bits (t.rd 0x500200) 47 32 = (tblVersion d + 1) % 2 ^ 16 ∧ t.gth.tables = s.gth.tables)) ∧
    (∀ (s : State) (v : W64), s.live = true → (s.rd 0x500290).getLsbD 63 = false →
      ∃ t, exec (.gthTblRelease v) s = .next t ∧ t.rf 0x500290 9 0 = bits v 9 0 ∧
        (v.getLsbD 63 = false → t.gth = s.gth ∧ t.fab = s.fab) ∧
        (v.getLsbD 63 = true → s.fab.dir = [] → Sparse.get [] t.gth.prev (bits v 9 0) = [] ∧ (t.rd 0x500290).getLsbD 63 = false))

/-- With the block live: REPLICATE_ROW of a row this block owns to a present, unshelved position that holds no copy of it adds a directory entry where there is none and one copy in progress. REPLICA_GRANT of a complete copy raises the epoch by 1 modulo 2^32 and makes the position a sharer. REPLICA_INVALIDATE gives up grants not yet sent, raises the epoch of the row's idle entries with sharers and awaits a reply of every one; INVAL_RETRY sends again and counts, up to three times, and then takes the link down. A received INVAL drops the replica at the sharer and is answered; its answer at the home, INVAL_ACK or NOT_PRESENT, ends the waiting and clears the sharer. A received GRANT records the replica with its epoch. EVICT drops one replica of the sharer; at the home it clears a sharer whose grant has that epoch and no later invalidate, and any other is counted and changes no entry. -/
def Obligations.ReplicaProtocol : Prop :=
  (∀ (s : State) (tbl : Fin 1024) (row : BitVec 32) (k : Fin 8) (off : Nat), s.live = true →
      let d := s.tbl tbl
      s.shardOf d row.toNat = some (s.fab.pos, off) → tblSharded d = true → row.toNat < tblCount d → k.val ≠ s.fab.pos →
      s.present k = true → (s.peer k).shelf = false → s.fab.dir = [] → s.fab.ops = [] →
      ∃ t, exec (.replicateRow tbl row k) s = .next t ∧ t.fab.dir = [⟨tbl, row.toNat, tblVersion d, 0, [], [], [], [], []⟩] ∧
        t.fab.ops.map (fun o => (o.use, o.op, o.addr, o.len, o.resp)) =
          [(UnitUse.copy tbl row.toNat (tblVersion d) k, 2, peerHbm k (Config.replicaPlace k tbl row.toNat).toNat, tblRow d, none)] ∧
        t.hbm = s.hbm ∧ t.rods = s.rods) ∧
    (∀ (s : State) (tbl : Fin 1024) (row : BitVec 32) (k : Fin 8) (e : ReplicaDir), s.live = true →
      s.fab.dir.find? (fun x => x.table == tbl.val && x.row == row.toNat && x.puts.contains k.val) = some e →
      ∃ t, exec (.replicaGrant tbl row k) s = .next t ∧ t.fab.dir = s.fab.dir.map (fun x => if x = e then
        { x with
          epoch := (x.epoch + 1) % 2 ^ 32, mask := x.mask ++ [k.val], puts := x.puts.filter (fun a => a != k.val),
          grants := Sparse.put 0 x.grants k ((x.epoch + 1) % 2 ^ 32) } else x)) ∧
    (∀ (s : State) (tbl : Fin 1024) (row : BitVec 32) (e : ReplicaDir), s.live = true → s.fab.dir = [e] →
      (e.table = tbl.val → e.row = row.toNat → e.await = [] → e.mask ≠ [] → ∃ t d, exec (.replicaInvalidate tbl row) s = .next t ∧
        t.fab.dir = [d] ∧ d.epoch = (e.epoch + 1) % 2 ^ 32 ∧ d.puts = [] ∧ d.await = e.mask.map (fun k => (k, 1)) ∧ d.mask = e.mask) ∧
      (e.table ≠ tbl.val ∨ e.row ≠ row.toNat ∨ e.await ≠ [] ∨ e.mask = [] → ∃ t, exec (.replicaInvalidate tbl row) s = .next t ∧
        t.fab.dir = [if e.table = tbl.val ∧ e.row = row.toNat then { e with puts := [] } else e])) ∧
    (∀ (s : State) (tbl : Fin 1024) (row : BitVec 32) (k : Fin 8) (e : ReplicaDir) (n : Nat), s.live = true →
      s.fab.dir.find? (fun x => x.table == tbl.val && x.row == row.toNat && x.await.any (fun a => a.1 == k.val)) = some e →
      e.await.find? (fun a => a.1 == k.val) = some (k.val, n) →
      (n ≤ 3 → ∃ t, exec (.invalRetry tbl row k) s = .next t ∧ t.fab.dir = s.fab.dir.map (fun x => if x = e then
        { x with await := x.await.map (fun a => if a.1 = k.val then (k.val, n + 1) else a) } else x)) ∧
      (3 < n → exec (.invalRetry tbl row k) s = .next (s.linkDown (s.peer k).port))) ∧
    (∀ (s s1 : State) (port : Fin 8) (r : PeerReq), s.live = true → s.takeRequest port (fun o => o == 0x10) = some (r, s1) →
      ∃ t, exec (.invalReceive port) s = .next t ∧
        t.fab.replicas = s.fab.replicas.filter (fun x => !(x.home == r.src && x.table == repTable r.flit && x.row == repRow r.flit))) ∧
    (∀ (s s1 : State) (port : Fin 8) (r : PeerReq), s.live = true → s.takeInbox port (fun o => o == 0x11 || o == 0x12) = some (r, s1) →
      (s.rd 0x500290).getLsbD 63 = false → ∃ t, exec (.invalReplyReceive port) s = .next t ∧
        t.fab.dir = s.fab.dir.map (fun e => if e.table = repTable r.flit ∧ e.row = repRow r.flit ∧ (∃ a ∈ e.await, a.1 = r.src) then
          { e with mask := e.mask.filter (fun a => a != r.src), await := e.await.filter (fun a => a.1 != r.src), puts := e.puts.filter (fun a => a != r.src) } else e)) ∧
    (∀ (s s1 : State) (port : Fin 8) (r : PeerReq), s.live = true → s.takeRequest port (fun o => o == 0x14) = some (r, s1) →
      ∃ t, exec (.grantReceive port) s = .next t ∧
        (⟨r.src, repTable r.flit, repRow r.flit, tblVersion (s.tbl (repTable r.flit)), r.flit.w2.toNat⟩ : Replica) ∈ t.fab.replicas) ∧
    (∀ (s : State) (home : Fin 8) (tbl : Fin 1024) (row : BitVec 32) (x : Replica), s.live = true →
      s.fab.replicas.find? (fun y => y.home == home.val && y.table == tbl.val && y.row == row.toNat) = some x →
      ∃ t, exec (.evict home tbl row) s = .next t ∧ t.fab.replicas = s.fab.replicas.erase x ∧ t.fab.dir = s.fab.dir) ∧
    (∀ (s s1 : State) (port : Fin 8) (r : PeerReq), s.live = true → s.takeRequest port (fun o => o == 0x13) = some (r, s1) →
      (s.rd 0x500290).getLsbD 63 = false →
      let good := fun e : ReplicaDir => e.table = repTable r.flit ∧ e.row = repRow r.flit ∧ r.src ∈ e.mask ∧
        Sparse.get 0 e.grants r.src = r.flit.w2.toNat ∧ Sparse.get 0 e.invals r.src < r.flit.w2.toNat
      ∃ t, exec (.evictReceive port) s = .next t ∧
        ((∃ e ∈ s.fab.dir, good e) → ∀ e ∈ t.fab.dir, ¬ good e) ∧
        ((∀ e ∈ s.fab.dir, ¬ good e) → t.fab.dir = s.fab.dir ∧ t.rd (cntPort port 4) = counterAdd (s.rd (cntPort port 4)) 1))

/-- On a link past frame lock: a verified group of the expected sequence number moves it on by 1 modulo 2^20 and ends a gap and a run of failures; a group of another number is counted and discarded, and the first one of a gap draws a NAK of the last good number; the sixteenth failure of one group in a row takes the link down. A NAK sends the kept groups after its number again, and changes nothing else. KEY_UPDATE with a session and no switch pending names the next group boundary, KEY_SWITCH_RECEIVE notes the partner's. SYNC_TIMER notes the send time at the port of the time master, and does nothing at the master itself; a SYNC_REQ is answered with arrival and departure time; a SYNC_RSP that met no replay gives an offset that a synchronised block slews, with TIME_STEP where it exceeds 1,000 ns. -/
def Obligations.LinkGroupsKeysAndTime : Prop :=
  (∀ (s : State) (p : Fin 8) (g : Group), s.fabUp = true → (s.port p).locked = true → g.nak = false →
      (g.seq.toNat = (s.port p).rxExpect → g.fecOk = true → g.crcOk = true → (s.port p).session = 0 ∨ g.tagOk = true →
        ∃ t, exec (.groupReceive p g) s = .next t ∧ (t.port p).rxExpect = ((s.port p).rxExpect + 1) % 2 ^ 20 ∧
          (t.port p).gap = false ∧ (t.port p).failRun = 0 ∧ (t.port p).tagFail = none ∧
          (s.fab.ops = [] → t.hbm = s.hbm ∧ t.bead = s.bead)) ∧
      (g.seq.toNat ≠ (s.port p).rxExpect → ∃ t, exec (.groupReceive p g) s = .next t ∧
        t.rd (cntPort p 1) = counterAdd (s.rd (cntPort p 1)) 1 ∧ (t.port p).rxExpect = (s.port p).rxExpect ∧ t.rods = s.rods ∧
        ((s.port p).gap = false → (t.port p).gap = true ∧ t.out = s.out ++ [.nak p (((s.port p).rxExpect + 2 ^ 20 - 1) % 2 ^ 20)]) ∧
        ((s.port p).gap = true → t.out = s.out)) ∧
      (g.seq.toNat = (s.port p).rxExpect → g.fecOk = false ∨ g.crcOk = false →
        let run := if (s.port p).failSeq = (s.port p).rxExpect then (s.port p).failRun + 1 else 1
        (run < 16 → ∃ t, exec (.groupReceive p g) s = .next t ∧ (t.port p).failRun = run ∧ (t.port p).gap = true ∧ t.rods = s.rods) ∧
        (16 ≤ run → ∀ k, s.posOf p = some k → ∃ t, exec (.groupReceive p g) s = .next t ∧ PeerLeft s t k))) ∧
    (∀ (s : State) (p : Fin 8) (ack : BitVec 20), s.fabUp = true → (s.port p).locked = true →
      ∃ t, exec (.nakReceive p ack) s = .next t ∧ t = { s with fab := t.fab, out := t.out } ∧ (t.port p).sent = (s.port p).sent ∧
        t.out = s.out ++ ((s.port p).sent.dropWhile (fun g => g.seq != (ack.toNat + 1) % 2 ^ 20)).map (fun g => Output.group p (s.frames p g))) ∧
    (∀ (s : State) (p : Fin 8), s.fabUp = true → (s.port p).session ≠ 0 →
      ((s.port p).switchAt = none → ∃ t, exec (.keyUpdate p) s = .next t ∧
        (t.port p).switchAt = some (((s.port p).txSeq + 1) % 2 ^ 20) ∧ (t.port p).session = (s.port p).session) ∧
      ((s.port p).switchAt ≠ none → exec (.keyUpdate p) s = .next s) ∧
      (∀ b, exec (.keySwitchReceive p b) s = .next (s.setPort p { s.port p with rxSwitch := some b.toNat }))) ∧
    (∀ (s : State), s.fabUp = true →
      (s.master = s.fab.pos → exec .syncTimer s = .next s) ∧
      (s.master ≠ s.fab.pos → let p := (s.peer s.master).port
        ∃ t, exec .syncTimer s = .next t ∧ (t.port p).lastTreq = some (s.stampTx p) ∧ (t.port p).spoiled = false ∧ t.time = s.time)) ∧
    (∀ (s s1 : State) (p : Fin 8) (r : PeerReq), s.fabUp = true → s.takeInbox p (fun o => o == 0x18) = some (r, s1) →
      exec (.syncReq p) s = .next (s1.linkSend p (mkFlit 0x19 s.fab.pos 0 r.flit.tag 1 0 0 0 (s.stampRx p r) (s.stampTx p) []))) ∧
    (∀ (s s1 : State) (p : Fin 8) (r : PeerReq) (t1 : W64), s.fabUp = true → s.takeInbox p (fun o => o == 0x19) = some (r, s1) →
      (s.port p).lastTreq = some t1 → (s.port p).spoiled = false →
      let off := ((r.flit.w2 - t1).toInt - (s.stampRx p r - r.flit.w3).toInt) / 2
      ∃ t, exec (.syncRsp p) s = .next t ∧ t.fab.synced = true ∧
        (s.fab.synced = true → t.fab.slewing = 100000 * off ∧ t.time = s.time ∧
          (off > 1000 ∨ off < -1000 → (t.rd 0x30118).getLsbD 9 = true) ∧ (off ≤ 1000 → -1000 ≤ off → t.rd 0x30118 = s.rd 0x30118)) ∧
        (s.fab.synced = false → s.fab.created = false → t.time = s.time + BitVec.ofInt 64 off))

/-- With the fabric working: light seen while probing lights every lane; light lost returns a port at full power to probe power and takes a locked link down, and does nothing to a dark or probing port; frame lock starts the identity exchange. A partner of the same board, at another position and not yet served elsewhere, makes its entry TRAINING with its epoch; one of another board is refused, with FAB_REFUSED pending. A session that completes switches to session 1 with counts of 0 and keeps the identity; one that fails refuses the partner. PEER_PRESENT makes an authenticated entry PRESENT under the next incarnation. A link past frame lock that goes down, by silence, by a leave message or by itself, leaves its entry ABSENT or HELD_DOWN, with PEER_LEFT pending and the operations in flight to it answered with PEER_ABSENT. A port held dark probes again once its time has passed. -/
def Obligations.PortBringUpAndLeaving : Prop :=
  (∀ (s : State) (p : Fin 8), s.fabUp = true →
      ((s.port p).train = .probing → ∃ t, exec (.probeLightSeen p) s = .next t ∧ (t.port p).train = .full ∧
        ∀ n, n < 32 + s.design.spareLanes → Sparse.get 0 (t.port p).sources n % 2 = 1) ∧
      ((s.port p).train ≠ .probing → exec (.probeLightSeen p) s = .next s) ∧
      ((s.port p).train = .full → ∃ t, exec (.lightLost p) s = .next t ∧ (t.port p).train = .probing) ∧
      ((s.port p).train = .dark ∨ (s.port p).train = .probing → exec (.lightLost p) s = .next s) ∧
      ((s.port p).train = .full → ∃ t, exec (.frameLock p) s = .next t ∧ (t.port p).train = .locked) ∧
      ((s.port p).train ≠ .full → exec (.frameLock p) s = .next s)) ∧
    (∀ (s : State) (p : Fin 8) (id : PartnerId), s.fabUp = true → (s.port p).train = .locked →
      (id.boardId = s.rd 0x600008 → id.shelf = false → id.pos.val ≠ s.fab.pos → s.present id.pos = false →
        ∃ t, exec (.identityReceive p id) s = .next t ∧ (t.port p).train = .identified ∧ (t.port p).partner = some id ∧
          (t.peer id.pos).st = 1 ∧ (t.peer id.pos).port = p ∧ (t.peer id.pos).epoch = id.epoch.toNat ∧ (t.peer id.pos).shelf = false) ∧
      (id.boardId ≠ s.rd 0x600008 → ∃ t, exec (.identityReceive p id) s = .next t ∧ (t.rd 0x30118).getLsbD 8 = true ∧
        (t.port p).partner = none)) ∧
    (∀ (s : State) (p : Fin 8) (id : PartnerId) (who : List Byte), s.fabUp = true → (s.port p).partner = some id →
      (s.port p).train = .identified →
      (∃ t, exec (.spdmSessionComplete p true who) s = .next t ∧ (t.port p).train = .authed ∧ (t.port p).session = 1 ∧
        (t.port p).rxSession = 1 ∧ (t.port p).txCount = 0 ∧ (t.port p).rxCount = 0 ∧ (t.peer (s.entryOf id)).identity = who) ∧
      (∃ t, exec (.spdmSessionComplete p false who) s = .next t ∧ (t.rd 0x30118).getLsbD 8 = true ∧ (t.port p).session = 0)) ∧
    (∀ (s : State) (p : Fin 8) (id : PartnerId), s.fabUp = true → (s.port p).partner = some id → (s.port p).train = .authed →
      s.fab.seen.contains (s.entryOf id) = false → ∃ t, exec (.peerPresent p) s = .next t ∧ (t.port p).train = .up ∧
        (t.peer (s.entryOf id)).st = 3 ∧ (t.peer (s.entryOf id)).incarnation = ((s.peer (s.entryOf id)).incarnation + 1) % 65536 ∧
        t.fab.seen = s.fab.seen ++ [s.entryOf id]) ∧
    (∀ (s : State) (p : Fin 8) (k : Nat), s.fabUp = true → (s.port p).locked = true → s.posOf p = some k →
      ∃ t, exec (.linkDown p) s = .next t ∧ exec (.verifiedGroupSilence p) s = .next t ∧ exec (.ctrlLeaveReceive p) s = .next t ∧
        PeerLeft s t k ∧ (s.portEnabled p = false → (t.port p).train = .dark)) ∧
    (∀ (s : State) (p : Fin 8) (t0 : W64), s.fabUp = true → (s.port p).darkUntil = some t0 → s.portEnabled p = true →
      (t0.toNat ≤ s.time.toNat → ∃ t, exec (.portHoldDarkEnd p) s = .next t ∧ (t.port p).train = .probing ∧ (t.port p).darkUntil = none) ∧
      (s.time.toNat < t0.toNat → exec (.portHoldDarkEnd p) s = .next s))

/-- On a link past frame lock: a receive lane in use that fails asks for a swap to the lowest usable spare, is bad from then on, and takes the link down where no spare is left; a window over the threshold on one lane in use does the same, one with errors on a spare makes it bad, and one without errors changes no lane. The sender mirrors a lane onto the spare it is asked for, and moves it there when the confirmation arrives; a completed swap moves the receiver's lane, counts and leaves the list. Each side-band operation sends its command word to the source, unless the block has sent it already; a reply that is OK under the operation has the effect of that operation alone, STATUS and LIGHT noting whether the source is lit; any other reply but status 1 or 3, a reply that does not come, or a reported fault marks the source at fault and its transmit lane bad, and takes the link down where it needs another lane and has none. A fault edge sends STATUS to every lit source. -/
def Obligations.LanesAndLasers : Prop :=
  (∀ (s : State) (p : Fin 8) (n : Fin 36) (cause : LaneCause) (k : Nat), s.fabUp = true → (s.port p).locked = true →
      n.val ∉ (s.port p).rxBad → n.val < 32 + s.design.spareLanes → (s.port p).rxMap.findIdx? (fun x => x == n.val) = some k →
      (∀ sp rest, s.rxSpares p = sp :: rest → ∃ t, exec (.laneFail p n cause) s = .next t ∧
        (t.port p).swaps = (s.port p).swaps ++ [(k, sp)] ∧ (t.port p).rxBad = (s.port p).rxBad ++ [n.val] ∧
        (t.port p).rxMap = (s.port p).rxMap) ∧
      (s.rxSpares p = [] → ∀ j, s.posOf p = some j → ∃ t, exec (.laneFail p n cause) s = .next t ∧ PeerLeft s t j)) ∧
    (∀ (s : State) (p : Fin 8) (counts : List Nat), s.fabUp = true → (s.port p).locked = true →
      ((∀ n, nth 0 counts n = 0) → ∃ t, exec (.laneWindow p counts) s = .next t ∧ t.fab = s.fab ∧ t.rods = s.rods) ∧
      (∀ n, (∀ m, m ≠ n → nth 0 counts m = 0) → n < 32 + s.design.spareLanes → n ∉ (s.port p).rxBad →
        (∀ k sp rest, s.rf 0x600028 15 0 < nth 0 counts n → (s.port p).rxMap.findIdx? (fun x => x == n) = some k → s.rxSpares p = sp :: rest →
          ∃ t, exec (.laneWindow p counts) s = .next t ∧ (t.port p).swaps = (s.port p).swaps ++ [(k, sp)] ∧
            (t.port p).rxBad = (s.port p).rxBad ++ [n] ∧ (t.port p).rxMap = (s.port p).rxMap) ∧
        (0 < nth 0 counts n → n ∉ (s.port p).rxMap → (∀ w ∈ (s.port p).swaps, w.2 ≠ n) → ∃ t, exec (.laneWindow p counts) s = .next t ∧
          (t.port p).rxBad = (s.port p).rxBad ++ [n] ∧ (t.port p).swaps = (s.port p).swaps ∧ (t.port p).rxMap = (s.port p).rxMap))) ∧
    (∀ (s : State) (p : Fin 8) (lane : Fin 32) (sp : Fin 36), s.fabUp = true → (s.port p).locked = true →
      sp.val < 32 + s.design.spareLanes → sp.val ∉ (s.port p).txMap → ∃ t, exec (.laneSwapReceive p lane sp) s = .next t ∧
        t.fab = (s.setPort p { s.port p with mirror := some (lane.val, sp.val) }).fab) ∧
    (∀ (s : State) (p : Fin 8) (lane : Fin 32) (sp : Fin 36) (g : Group) (f : Flit) (n : Nat), s.fabUp = true → (s.port p).locked = true →
      g.nak = false → g.seq.toNat = (s.port p).rxExpect → g.fecOk = true → g.crcOk = true → (s.port p).session = 0 ∨ g.tagOk = true →
      groupFlits g (s.port p).rx = ([(f, n)], none) → f.op = 0x20 → flitOk f = true → f.w2 = 2 → f.w3.toNat = 64 * lane.val + sp.val →
      (s.port p).mirror = some (lane.val, sp.val) → ∃ t, exec (.groupReceive p g) s = .next t ∧ (t.port p).mirror = none ∧
        (t.port p).txMap = setNth (s.port p).txMap lane sp.val ∧
        (t.port p).txBad = (s.port p).txBad ++ [nth 0 (s.port p).txMap lane] ∧
        t.rd (cntPort p 3) = counterAdd (s.rd (cntPort p 3)) 1) ∧
    (∀ (s : State) (p : Fin 8) (k sp : Nat) (rest : List (Nat × Nat)), s.fabUp = true → (s.port p).locked = true →
      (s.port p).swaps = (k, sp) :: rest → ∃ t, exec (.laneSwapComplete p) s = .next t ∧
        (t.port p).rxMap = setNth (s.port p).rxMap k sp ∧ (t.port p).swaps = rest ∧
        t.rd (cntPort p 3) = counterAdd (s.rd (cntPort p 3)) 1) ∧
    (∀ (s : State) (p : Fin 8) (n : Fin 36) (v : BitVec 16) (lit : Bool) (r : LaserReply), s.fabUp = true →
      let src := Sparse.get 0 (s.port p).sources n
      let ops : List (Nat × Nat × Instr) := [(1, 0, .ident p n r), (2, 0, .status p n r), (3, v.toNat, .setPower p n v r),
        (4, if lit then 1 else 0, .light p n lit r), (5, 0, .readPower p n r), (6, 0, .readTemp p n r)]
      (∀ x ∈ ops, r.status ≠ 0 ∨ r.op.toNat ≠ x.1 → r.status = 1 ∨ r.status = 3 →
        exec x.2.2 s = .next (s.laserWent p x.1 n x.2.1)) ∧
      (∀ x ∈ ops, r.status ≠ 0 ∨ r.op.toNat ≠ x.1 → r.status ≠ 1 → r.status ≠ 3 → ∃ t, exec x.2.2 s = .next t ∧
        (s.linkStays p n → t.out = (s.laserWent p x.1 n x.2.1).out ∧ Sparse.get 0 (t.port p).sources n = src % 2 + 2 ∧
          n.val ∈ (t.port p).txBad) ∧ (¬ s.linkStays p n → ∀ j, s.posOf p = some j → PeerLeft s t j)) ∧
      (∀ x ∈ ops, r.status = 0 → r.op.toNat = x.1 → x.1 ≠ 2 → x.1 ≠ 4 → exec x.2.2 s = .next (s.laserWent p x.1 n x.2.1)) ∧
      (r.status = 0 → r.op.toNat = 2 → r.value.getLsbD 1 = false → ∃ t, exec (.status p n r) s = .next t ∧
        Sparse.get 0 (t.port p).sources n = src / 2 * 2 + (if r.value.getLsbD 0 then 1 else 0) ∧ (t.port p).txBad = (s.port p).txBad) ∧
      (r.status = 0 → r.op.toNat = 4 → ∃ t, exec (.light p n lit r) s = .next t ∧
        Sparse.get 0 (t.port p).sources n = src / 2 * 2 + (if lit then 1 else 0)) ∧
      (∃ t, exec (.laserReplyTimeout p n) s = .next t ∧
        (s.linkStays p n → Sparse.get 0 (t.port p).sources n = src % 2 + 2 ∧ n.val ∈ (t.port p).txBad ∧ t.out = s.out) ∧
        (¬ s.linkStays p n → ∀ j, s.posOf p = some j → PeerLeft s t j)) ∧
      (let lit := ((s.port p).sources.filter (fun x => x.2 % 2 == 1)).map (fun x => x.1)
       ∃ t, exec (.laserFaultEdge p) s = .next t ∧ t.out = s.out ++ lit.map (fun k => Output.laser p (laserCmd 2 k 0)) ∧
        t.fab = (s.setPort p { s.port p with asked := (s.port p).asked ++ lit.map (fun k => (2, k)) }).fab))

/-- A well-formed WRITE or TALLY that arrives whole, under credits, on an enabled channel of a working port, the home channel of its tenant: from an attached tenant and inside a 4 KiB span, a WRITE of the input area into a buffer that is FREE or OPEN stores the range's bytes at HAP_IN_BASE plus the offset; a WRITE of whole aligned registers within the tenant's reach performs the 8-byte writes in ascending order; a TALLY of a privileged tenant to a tally-target register adds the signed increment. A message of a tenant that is not attached, outside the area, across a 4 KiB boundary, into a buffer that is neither FREE nor OPEN (also counted as late) or from an unprivileged TALLY has no effect but the error count and, where none is kept, its header in the log. A message without credit for its beats, or on a disabled channel, only counts for tenant 0; an ill-formed one is dropped. On a channel in loopback a WRITE is queued outbound with the same header and data. -/
def Obligations.InboundPostedMessages : Prop :=
  (∀ (s : State) (ch : Fin 4) (m : Msg), Arrives s ch m 1 → Admitted s m → s.home m.tenant = ch → InArea s m →
      s.bufState m.tenant (m.off / s.inSlot m.tenant) < 2 →
      exec (.writeInbound ch m) s = .next ((if s.hbmWriteMeets (s.inAddr m) m.len then s.countPoison 16 0 else s).hbmWrite (s.inAddr m) m.bytes)) ∧
    (∀ (s : State) (ch : Fin 4) (m : Msg), Arrives s ch m 1 → Admitted s m → s.home m.tenant = ch → m.space = 0 →
      m.off < 0xC00000 → s.reaches m.tenant m.off = true → m.off % 8 = 0 → m.len % 8 = 0 →
      exec (.writeInbound ch m) s = .next (s.writeRegs m.off (wordsOf (m.len / 8) m.bytes))) ∧
    (∀ (s : State) (ch : Fin 4) (m : Msg) (r : TallyReg), Arrives s ch m 2 → Admitted s m → s.home m.tenant = ch → m.space = 0 →
      m.off < 0xC00000 → s.reaches m.tenant m.off = true → bit (s.rd (hReg m.tenant 0)) 0 = true → tallyReg m.off = some r →
      exec (.tallyInbound ch m) s = .next (s.tallyAdd r ((nth 0 m.hdr 2).setWidth 32) none)) ∧
    (∀ (s : State) (ch : Fin 4) (m : Msg), Arrives s ch m 1 →
      (s.ten m.tenant).st ≠ .attached ∨ (m.space = 1 ∧ ¬InArea s m) ∨ (m.space = 0 ∧ m.off < 0xC00000 ∧ s.reaches m.tenant m.off = false) ∨
        (4096 < m.off % 4096 + m.len ∧ m.space = 0) →
      ∃ t, exec (.writeInbound ch m) s = .next t ∧ Rejected s t m) ∧
    (∀ (s : State) (ch : Fin 4) (m : Msg), Arrives s ch m 2 →
      (s.ten m.tenant).st ≠ .attached ∨ bit (s.rd (hReg m.tenant 0)) 0 = false ∨ m.space = 1 ∨ tallyReg m.off = none →
      ∃ t, exec (.tallyInbound ch m) s = .next t ∧ Rejected s t m) ∧
    (∀ (s : State) (ch : Fin 4) (m : Msg), Arrives s ch m 1 → (s.ten m.tenant).st = .attached → InArea s m →
      2 ≤ s.bufState m.tenant (m.off / s.inSlot m.tenant) → ∃ t, exec (.writeInbound ch m) s = .next t ∧ Rejected s t m ∧
        t.rd (cntTen m.tenant 4) = counterAdd (s.rd (cntTen m.tenant 4)) 1) ∧
    (∀ (s : State) (ch : Fin 4) (m : Msg), s.hapUp = true → m.type = 1 →
      bit (s.rd 0x700000) ch = false ∨ (s.chan ch).inPosted = 0 → ∃ t, exec (.writeInbound ch m) s = .next t ∧ t = { s with regs := t.regs } ∧
        (bit (s.rd 0x700000) ch = false → t.rd (cntTen 0 0) = counterAdd (s.rd (cntTen 0 0)) (1 + m.data.length / 64))) ∧
    (∀ (s : State) (ch : Fin 4) (m : Msg), s.hapUp = true → bit (s.rd 0x700000) ch = true → 1 + m.data.length / 64 = m.beats →
      m.type = 1 → m.beats ≤ (s.chan ch).inPosted →
      (s.looped ch = false → m.formed = false → exec (.writeInbound ch m) s = .next s) ∧
      (s.looped ch = true → m.formed = true →
        let t := s.setChan ch { s.chan ch with posted := (s.chan ch).posted ++ [⟨m.hdr, m.data⟩] }
        exec (.writeInbound ch m) s = .next t ∧ exec (.loopbackWrite ch m) s = .next t))

/-- A READ that arrives whole, under credits, on an enabled channel of a working port draws one answer, at once, or once the halt in effect is released. A READ of a tenant that is not attached is answered ACCESS, one beyond the input area or across a 4 KiB boundary ADDRESS, one that meets poisoned bytes POISONED, one of the input area otherwise its bytes, with the same tag; nothing else changes. A READ of one register gives the value that reading the register gives, with the effect of that read, and a READ of another size or alignment ADDRESS. A completion that no READ of the block waits for is discarded. CPL with an error ends its READ and the submission queue that fetched goes into ERROR; CPL with OK does so too and is counted. CPL_DATA in order extends the READ's data, and its last part ends the READ with the data; data out of order or too long fails the READ. A READ with no response in its time fails likewise, unless a halt stops the timers. A READ of a unit of the block hands the response or the data to that unit's operation. -/
def Obligations.InboundReadsAndCompletions : Prop :=
  (∀ (s : State) (ch : Fin 4) (m : Msg), Arrives s ch m 8 →
      let ans (u : State) (ty st len sp off : Nat) (data : List Byte) : State :=
        if s.halted then u.setChan ch { u.chan ch with answers := (u.chan ch).answers ++ [⟨mkHdr ty m.tenant m.tag len st sp off 0, data⟩] }
        else u.send (.host ch (mkHdr ty m.tenant m.tag len st sp off 0) data)
      ((s.ten m.tenant).st ≠ .attached → exec (.readInbound ch m) s = .next (ans s 0xC 2 0 0 0 [])) ∧
      ((s.ten m.tenant).st = .attached → m.space = 1 → ¬InArea s m → exec (.readInbound ch m) s = .next (ans s 0xC 1 0 0 0 [])) ∧
      ((s.ten m.tenant).st = .attached → InArea s m → 4096 < m.off % 4096 + m.len →
        exec (.readInbound ch m) s = .next (ans s 0xC 1 0 0 0 [])) ∧
      (Admitted s m → InArea s m → s.hbmRangeBad (s.inAddr m) m.len = true → exec (.readInbound ch m) s = .next (ans s 0xC 4 0 0 0 [])) ∧
      (Admitted s m → InArea s m → s.hbmRangeBad (s.inAddr m) m.len = false →
        exec (.readInbound ch m) s = .next (ans s 0xD 0 (m.len - 1) 1 m.off (beatsOf m.off (s.hbmRead (s.inAddr m) m.len)))) ∧
      (Admitted s m → m.space = 0 → m.off < 0xC00000 → s.reaches m.tenant m.off = true → m.off % 8 = 0 → m.len = 8 →
        (s.readReg m.off).2.halted = s.halted →
        exec (.readInbound ch m) s = .next (ans (s.readReg m.off).2 0xD 0 7 0 m.off
          (beatsOf m.off (leBytes 8 (s.readReg m.off).1.toNat)))) ∧
      (Admitted s m → m.space = 0 → m.off < 0xC00000 → s.reaches m.tenant m.off = true → m.off % 4 ≠ 0 →
        exec (.readInbound ch m) s = .next ((ans s 0xC 1 0 0 0 []).inErr m.tenant))) ∧
    (∀ (s : State) (ch : Fin 4) (m : Msg), s.readOf ch m.tag m.tenant = none →
      (Arrives s ch m 0xC → exec (.cplInbound ch m) s = .next s) ∧ (Arrives s ch m 0xD → exec (.cplDataInbound ch m) s = .next s)) ∧
    (∀ (s : State) (ch : Fin 4) (m : Msg) (r : OutRead), s.readOf ch m.tag m.tenant = some r → (s.sq r.tenant r.q).epoch = r.epoch → r.unit = none →
      (Arrives s ch m 0xC → ∃ t, exec (.cplInbound ch m) s = .next t ∧ t.reads = s.reads.erase r ∧ t.sqError r.tenant r.q = true ∧
        (t.sq r.tenant r.q).reading = false ∧ t.hbm = s.hbm ∧ t.rods = s.rods) ∧
      (Arrives s ch m 0xD → m.status = 0 → m.off = r.off + r.got.length →
        (r.got.length + m.bytes.length < r.len → exec (.cplDataInbound ch m) s = .next { s with
          reads := s.reads.map (fun x => if x = r then { r with got := r.got ++ m.bytes } else x) }) ∧
        (r.got.length + m.bytes.length = r.len → exec (.cplDataInbound ch m) s = .next
          (({ s with reads := s.reads.erase r }).fetched { r with got := r.got ++ m.bytes })) ∧
        (r.len < r.got.length + m.bytes.length → ∃ t, exec (.cplDataInbound ch m) s = .next t ∧ t.reads = s.reads.erase r ∧
          t.sqError r.tenant r.q = true)) ∧
      (Arrives s ch m 0xD → m.off ≠ r.off + r.got.length → ∃ t, exec (.cplDataInbound ch m) s = .next t ∧ t.reads = s.reads.erase r ∧
          t.sqError r.tenant r.q = true)) ∧
    (∀ (s : State) (ch : Fin 4) (m : Msg) (r : OutRead) (u : Nat), s.readOf ch m.tag m.tenant = some r → r.unit = some u →
      (Arrives s ch m 0xC → m.status ≠ 0 → exec (.cplInbound ch m) s =
        .next (({ s with reads := s.reads.erase r }).unitRead u r.off m.status []).settleOps) ∧
      (Arrives s ch m 0xD → m.status = 0 → m.off = r.off + r.got.length → r.got.length + m.bytes.length = r.len →
        exec (.cplDataInbound ch m) s = .next (({ s with reads := s.reads.erase r }).unitRead u r.off 0 (r.got ++ m.bytes)).settleOps) ∧
      (s.hapUp = true → s.halted = false → s.reads.find? (fun x => x.ch == ch.val && x.tag == m.tag) = some r →
        exec (.hapTimeoutExpire ch (BitVec.ofNat 16 m.tag)) s =
          .next (({ s with reads := s.reads.erase r }).unitRead u r.off 6 []).settleOps)) ∧
    (∀ (s : State) (ch : Fin 4) (tag : BitVec 16) (r : OutRead),
      s.reads.find? (fun x => x.ch == ch.val && x.tag == tag.toNat) = some r → (s.sq r.tenant r.q).epoch = r.epoch → r.unit = none →
      s.hapUp = true →
      (s.halted = true → exec (.hapTimeoutExpire ch tag) s = .next s) ∧
      (s.halted = false → ∃ t, exec (.hapTimeoutExpire ch tag) s = .next t ∧ t.reads = s.reads.erase r ∧ t.sqError r.tenant r.q = true))

/-- On an enabled channel with a posted credit, the home channel of the tenant: an event ends loopback on the channel, and ATTACH makes a DETACHED tenant ATTACHED; for an ATTACHED one it starts a tenant reset that ends ATTACHED, is counted, and pends TENANT_ATTACH; during a reset it is remembered. DETACH and RESET start the reset of an ATTACHED tenant, one that ends DETACHED for DETACH alone, and neither has an effect on a DETACHED one. A credit returned adds one beat of its class. Bad beats are counted for tenant 0 and change nothing else. The oldest posted message of a channel leaves where the channel sends and holds credits for its header and data beats, and a READ where it holds one credit, fewer than 256 READs of the channel are outstanding and no posted message of its tenant waits before it; otherwise, and during halt, nothing changes. -/
def Obligations.HostEventsCreditsAndOutboundMessages : Prop :=
  (∀ (s : State) (ch : Fin 4) (t : Fin 64), s.hapUp = true → bit (s.rd 0x700000) ch = true → (s.chan ch).inPosted ≠ 0 →
      s.home t = ch →
      let s1 := s.setRf 0x700010 ch ch 0
      ((s.ten t).st = .detached → exec (.attach ch t) s = .next (s1.setTen t { s.ten t with st := .attached }) ∧
        exec (.detach ch t) s = .next s1 ∧ exec (.reset ch t) s = .next s1) ∧
      ((s.ten t).st = .attached →
        (∃ u, exec (.attach ch t) s = .next u ∧ (u.ten t).st = .resetting ∧ (u.ten t).endDetached = false ∧
          (u.rd 0x30118).getLsbD 10 = true ∧ u.rd (tReg t 0x10) = 1) ∧
        (∃ u, exec (.detach ch t) s = .next u ∧ (u.ten t).st = .resetting ∧ (u.ten t).endDetached = true ∧ (u.ten t).byDetach = true ∧
          (∀ q, q < 8 → (u.cq t q).waiting = [] ∧ (u.sq t q).batches = [] ∧ (u.sq t q).ends = [])) ∧
        (∃ u, exec (.reset ch t) s = .next u ∧ (u.ten t).st = .resetting ∧ (u.ten t).endDetached = false ∧ (u.ten t).byDetach = false)) ∧
      ((s.ten t).st = .resetting → exec (.attach ch t) s = .next (s1.setTen t { s.ten t with attachAfter := true }) ∧
        exec (.detach ch t) s = .next (s1.setTen t { s.ten t with endDetached := true }) ∧ exec (.reset ch t) s = .next s1)) ∧
    (∀ (s : State) (ch : Fin 4), s.hapUp = true →
      exec (.creditReturn ch .posted) s = .next (s.setChan ch { s.chan ch with outPosted := (s.chan ch).outPosted + 1 }) ∧
      exec (.creditReturn ch .nonposted) s = .next (s.setChan ch { s.chan ch with outNon := (s.chan ch).outNon + 1 }) ∧
      ∀ n, 0 < n → let c := cntTen 0 0
        exec (.badBeat ch .dataWithoutHeader) s = .next (s.setReg c (counterAdd (s.rd c) 1)) ∧
        exec (.badBeat ch .headerWhileOwed) s = .next (s.setReg c (counterAdd (s.rd c) 1)) ∧
        exec (.badBeat ch (.withoutCredit n)) s = .next (s.setReg c (counterAdd (s.rd c) n))) ∧
    (∀ (s : State) (ch : Fin 4) (m : OutMsg) (rest : List OutMsg), (s.chan ch).posted = m :: rest →
      (s.hapUp = true → bit (s.rd 0x700000) ch = true → s.halted = false → 1 + m.data.length / 64 ≤ (s.chan ch).outPosted →
        exec (.writeOutbound ch) s = .next ((s.setChan ch { s.chan ch with
          posted := rest, outPosted := (s.chan ch).outPosted - (1 + m.data.length / 64) }).send (.host ch m.hdr m.data))) ∧
      (s.halted = true ∨ bit (s.rd 0x700000) ch = false ∨ (s.chan ch).outPosted < 1 + m.data.length / 64 →
        exec (.writeOutbound ch) s = .next s)) ∧
    (∀ (s : State) (ch : Fin 4) (r : OutRead) (rest : List OutRead), (s.chan ch).reads = r :: rest →
      let n := (s.reads.filter (fun y => y.ch == ch.val)).length
      let before := ∃ m ∈ (s.chan ch).posted, bits (nth 0 m.hdr 0) 59 54 = r.tenant
      (s.hapUp = true → bit (s.rd 0x700000) ch = true → s.halted = false → 0 < (s.chan ch).outNon → n < 256 → ¬before →
        ∃ t, exec (.readOutbound ch) s = .next t ∧ (t.chan ch).reads = rest ∧ (t.chan ch).outNon = (s.chan ch).outNon - 1 ∧
          t.reads = s.reads ++ [{ r with tag := (s.chan ch).nextTag % 65536, ch := ch }] ∧
          t.out = s.out ++ [.host ch (mkHdr 8 r.tenant ((s.chan ch).nextTag % 65536) (r.len - 1) 0 0 r.off 0) []]) ∧
      (s.halted = true ∨ (s.chan ch).outNon = 0 ∨ 256 ≤ n ∨ before → exec (.readOutbound ch) s = .next s))

/-- For an attached tenant on a working port: a doorbell below the queue size that passes no entry not yet fetched moves the tail, is read back and makes one batch; one at or beyond the size, or one that would pass such an entry, puts the queue into ERROR and has no other effect there; a doorbell of a queue in ERROR has none. A fetch queues one READ of the entries that fit the batch, the end of the queue, a 4 KiB span and the room in the completion queue, and reserves a place for each; a queue that is disabled, in ERROR, busy reading or without a doorbell fetches nothing. Posting writes one 32-byte entry at the write index with its phase and the post time, adds one event to the vector that the queue names, and nothing is posted where no completion has a place. A head within what has been written moves the head and is read back; any other is ignored. A settings write to an enabled queue is admitted only where it clears the enable bit alone (of a completion queue: and nothing needs it), and otherwise counted; enabling a submission queue whose completion queue is disabled is refused and counted; enabling starts a queue afresh, with tail and head 0. -/
def Obligations.SubmissionAndCompletionQueues : Prop :=
  (∀ (s : State) (t : Fin 64) (q : Fin 8) (v : W64), s.hapUp = true → s.attached t = true →
      let x := s.sq t q
      let n := bits v 15 0
      let d := (n + s.sqSize t q - x.tail % s.sqSize t q) % s.sqSize t q
      (s.sqError t q = true → exec (.tenSqTail t q v) s = .next s) ∧
      (s.sqError t q = false → s.sqOn t q = true →
        (n < s.sqSize t q → d ≠ 0 → x.tail - s.sqHead t q + d < s.sqSize t q →
          ∃ u, exec (.tenSqTail t q v) s = .next u ∧ (u.sq t q).tail = x.tail + d ∧ (u.sq t q).ends = x.ends ++ [x.tail + d] ∧
            (u.sq t q).batches = x.batches ∧ u.rd (sqReg t q 0x10) = w64 n ∧ u.sqError t q = false ∧ u.rods = s.rods ∧ u.hbm = s.hbm) ∧
        (s.sqSize t q ≤ n ∨ (d ≠ 0 ∧ s.sqSize t q ≤ x.tail - s.sqHead t q + d) → x.reading = true →
          exec (.tenSqTail t q v) s = .next (s.setRf (sqReg t q 0x18) 16 16 1)))) ∧
    (∀ (s : State) (t : Fin 64) (q : Fin 8), s.hapUp = true → s.halted = false → s.attached t = true → s.sqOn t q = true →
      s.sqError t q = false → (s.sq t q).reading = false → ∀ e rest, (s.sq t q).ends = e :: rest →
      let x := s.sq t q
      let n := min (min (e - x.rd) (64 - x.rd % 64)) (min (s.sqSize t q - x.rd % s.sqSize t q) (s.cqFree t (s.cqOf t q)))
      n ≠ 0 → ∃ u, exec (.sqFetch t q) s = .next u ∧ (u.sq t q).reading = true ∧ (u.sq t q).rd = x.rd + n ∧ (u.sq t q).ends = x.ends ∧
        (u.cq t (s.cqOf t q)).reserved = (s.cq t (s.cqOf t q)).reserved + n ∧
        (u.chan (s.home t)).reads = (s.chan (s.home t)).reads ++
          [⟨0, s.home t, t, (s.rd (sqReg t q 0)).toNat + 64 * (x.rd % s.sqSize t q), 64 * n, [], q, x.rd, n, x.epoch, none⟩] ∧
        u.out = s.out ∧ u.slate = s.slate) ∧
    (∀ (s : State) (t : Fin 64) (q : Fin 8), s.sqOn t q = false ∨ s.sqError t q = true ∨ (s.sq t q).reading = true ∨ (s.sq t q).ends = [] ∨
      s.halted = true → exec (.sqFetch t q) s = .next s) ∧
    (∀ (s : State) (t : Fin 64) (q : Fin 8), (∀ c ∈ (s.cq t q).waiting, c.resv = false) → s.cqFree t q = 0 → exec (.cqPost t q) s = .next s) ∧
    (∀ (s : State) (t : Fin 64) (q : Fin 8) (c : Completion), s.postable t q = some c → s.hapUp = true → s.attached t = true →
      s.cqOn t q = true → c.kind ≠ 0 → ∃ u, exec (.cqPost t q) s = .next u ∧ (u.cq t q).wr = (s.cq t q).wr + 1 ∧
        (u.cq t q).waiting = (s.cq t q).waiting.erase c ∧ (u.cq t q).head = (s.cq t q).head ∧ u.slate = s.slate ∧
        u.chans = (s.hostWrite t ((s.rd (cqReg t q 0)).toNat + 32 * ((s.cq t q).wr % s.cqSize t q))
          (bytesOf (c.words ((s.cq t q).wr / s.cqSize t q % 2 == 0) s.time))).chans ∧
        (bit (s.rd (cqReg t q 8)) 20 = true → (u.vec t (s.rf (cqReg t q 8) 19 16)).pending = (s.vec t (s.rf (cqReg t q 8) 19 16)).pending + 1) ∧
        (bit (s.rd (cqReg t q 8)) 20 = false → (u.ten t).vecs = (s.ten t).vecs)) ∧
    (∀ (s : State) (t : Fin 64) (q : Fin 8) (v : W64), s.hapUp = true → s.attached t = true →
      let x := s.cq t q
      let n := bits v 15 0
      let d := (n + s.cqSize t q - x.head % s.cqSize t q) % s.cqSize t q
      (s.cqOn t q = true → n < s.cqSize t q → x.head + d ≤ x.wr → ∃ u, exec (.tenCqHead t q v) s = .next u ∧
        (u.cq t q).head = x.head + d ∧ (u.cq t q).wr = x.wr ∧ (u.cq t q).waiting = x.waiting ∧ u.rd (cqReg t q 0x10) = w64 n) ∧
      (s.cqSize t q ≤ n ∨ x.wr < x.head + d → exec (.tenCqHead t q v) s = .next s)) ∧
    (∀ (s : State) (t : Fin 64) (q : Fin 8) (v : W64), s.hapUp = true → s.attached t = true →
      let w := v &&& 0x71F01#64
      let z := v &&& 0x1F1F01#64
      let err := s.bump (cntTen t 0) 1
      (s.sqOn t q = true → w ≠ setBits (s.rd (sqReg t q 8)) 0 0 0 → exec (.tenSqCfg t q v) s = .next err) ∧
      (s.sqOn t q = true → w = setBits (s.rd (sqReg t q 8)) 0 0 0 → ∃ u, exec (.tenSqCfg t q v) s = .next u ∧
        u.rd (sqReg t q 8) = w ∧ (u.sq t q).batches = [] ∧ (u.sq t q).ends = [] ∧ (u.sq t q).cur = []) ∧
      (s.sqOn t q = false → 4 ≤ bits w 12 8 → bits w 12 8 ≤ 16 → bit w 0 = true → s.cqOn t (bits w 18 16) = false →
        exec (.tenSqCfg t q v) s = .next err) ∧
      (s.sqOn t q = false → 4 ≤ bits w 12 8 → bits w 12 8 ≤ 16 → bit w 0 = true → s.cqOn t (bits w 18 16) = true →
        ∃ u, exec (.tenSqCfg t q v) s = .next u ∧ u.rd (sqReg t q 8) = w ∧ u.rd (sqReg t q 0x10) = 0 ∧ (u.sq t q).tail = 0 ∧
          u.rd (sqReg t q 0x18) = s.rd (sqReg t q 0x18)) ∧
      (s.cqOn t q = true → z = setBits (s.rd (cqReg t q 8)) 0 0 0 → s.cqNeeded t q = false →
        exec (.tenCqCfg t q v) s = .next (s.setReg (cqReg t q 8) z)) ∧
      (s.cqOn t q = true → z ≠ setBits (s.rd (cqReg t q 8)) 0 0 0 ∨ s.cqNeeded t q = true → exec (.tenCqCfg t q v) s = .next err) ∧
      (s.cqOn t q = false → 4 ≤ bits z 12 8 → bits z 12 8 ≤ 16 → bit z 0 = true → ∃ u, exec (.tenCqCfg t q v) s = .next u ∧
        u.rd (cqReg t q 8) = z ∧ u.rd (cqReg t q 0x10) = 0 ∧ (u.cq t q).wr = 0 ∧ (u.cq t q).head = 0))

/-- For an attached tenant on a working port: a ring head at most the tail and at most the size below it is stored, any other counted; enabling a disabled ring sets its head to 0, and a write to an enabled ring is admitted only where it clears the enable bit alone and no Slate entry names the ring, else counted. TEN_IN_DONE takes FREE to READY and OPEN to BOUND, clearing INPUT_OPEN of every entry that names the buffer; TEN_IN_FREE takes READY to FREE; in any other state the write is counted alone. TEN_VEC_MASK stores its 16 bits. An unmasked vector with pending events at its count or its age sends INTR behind the writes before it and clears its events; a masked one, or one with no event, does nothing. A write of 1 to TEN_RESET starts the reset of an attached tenant, and 0 does nothing. A reset ends once every outbound access and every entry in a step has ended: every buffer FREE, the tenant's page and counters at reset but CNT_HAP_ATTACH, the adapters kept, TEN_RESET_STATUS DONE, the tenant ATTACHED, or DETACHED where a DETACH asked for it. -/
def Obligations.RingsBuffersVectorsAndTenantReset : Prop :=
  (∀ (s : State) (t : Fin 64) (r : Fin 1024) (v : W64), s.hapUp = true → s.attached t = true →
      let tail := (s.ring t r).tail
      let w := v &&& 0x1F1F01#64
      let err := s.bump (cntTen t 0) 1
      let named := ∃ i ∈ s.entriesOfTenant t, (s.slot i).ring = r.val
      (v.toNat ≤ tail.toNat → tail.toNat - v.toNat ≤ s.ringSize t r →
        exec (.tenOringHead t r v) s = .next (s.setReg (ringReg t r 0x18) v)) ∧
      (tail.toNat < v.toNat ∨ s.ringSize t r < tail.toNat - v.toNat → exec (.tenOringHead t r v) s = .next err) ∧
      (s.ringOn t r = true → w = setBits (s.rd (ringReg t r 8)) 0 0 0 → ¬named →
        exec (.tenOringCfg t r v) s = .next (s.setReg (ringReg t r 8) w)) ∧
      (s.ringOn t r = true → w ≠ setBits (s.rd (ringReg t r 8)) 0 0 0 ∨ named → exec (.tenOringCfg t r v) s = .next err) ∧
      (s.ringOn t r = false → 8 ≤ bits w 12 8 → bits w 12 8 ≤ 20 → bit w 0 = true → ∃ u, exec (.tenOringCfg t r v) s = .next u ∧
        (u.ring t r).tail = 0 ∧ u.rd (ringReg t r 0x18) = 0 ∧ u.rd (ringReg t r 8) = w)) ∧
    (∀ (s : State) (t : Fin 64) (v : W64), s.hapUp = true → s.attached t = true →
      let b := bits v 15 0
      let err := s.bump (cntTen t 0) 1
      (s.bufState t b = 0 → b < s.rf (hReg t 0x20) 16 0 → ∃ u, exec (.tenInDone t v) s = .next u ∧ u.bufState t b = 2 ∧
        u.slate = s.slate ∧ u.regs = s.regs) ∧
      (s.bufState t b = 1 → ∃ u, exec (.tenInDone t v) s = .next u ∧ u.bufState t b = 3 ∧ u.regs = s.regs ∧
        (∀ i ∈ s.namersOf t b, (u.slot i).inputOpen = false) ∧ ∀ i, i ∉ s.namersOf t b → u.slot i = s.slot i) ∧
      (2 ≤ s.bufState t b → exec (.tenInDone t v) s = .next err) ∧
      (s.bufState t b = 2 → ∃ u, exec (.tenInFree t v) s = .next u ∧ u.bufState t b = 0 ∧ u.regs = s.regs) ∧
      (s.bufState t b ≠ 2 → exec (.tenInFree t v) s = .next err) ∧
      exec (.tenVecMask t v) s = .next (s.setReg (tReg t 0x380) (v &&& 0xFFFF)) ∧
      (bit v 0 = false → exec (.tenReset t v) s = .next s) ∧
      (bit v 0 = true → ∃ u, exec (.tenReset t v) s = .next u ∧ (u.ten t).st = .resetting ∧ (u.ten t).endDetached = false ∧
        u.rd (tReg t 0x10) = 1)) ∧
    (∀ (s : State) (t : Fin 64) (k : Fin 16), s.hapUp = true → s.attached t = true →
      let cfg := s.rd (tReg t (0x300 + 8 * k))
      let due := bits cfg 7 0 ≤ (s.vec t k).pending ∨ (s.vec t k).oldest.toNat + 1000 * bits cfg 31 16 ≤ s.time.toNat
      (0 < (s.vec t k).pending → due → bit (s.rd (tReg t 0x380)) k = false → ∃ u, exec (.vectorFire t k) s = .next u ∧
        (u.vec t k).pending = 0 ∧ (u.chan (s.home t)).posted = (s.chan (s.home t)).posted ++ [⟨mkHdr 3 t 0 0 0 0 k 0, []⟩] ∧
        u.regs = s.regs ∧ u.out = s.out) ∧
      ((s.vec t k).pending = 0 ∨ ¬due ∨ bit (s.rd (tReg t 0x380)) k = true → exec (.vectorFire t k) s = .next s)) ∧
    (∀ (s : State) (t : Fin 64), s.live = true → (s.ten t).st = .resetting →
      (s.tenDrained t = false → exec (.tenantResetEnd t) s = .next s) ∧
      (s.tenDrained t = true → (s.ten t).attachAfter = false → (s.ten t).byDetach = false →
        (∀ p, p < 16 → ¬((s.part p).load.state = .loading ∧ (s.part p).load.tenant = t)) →
        ∃ u, exec (.tenantResetEnd t) s = .next u ∧ (u.ten t).st = (if (s.ten t).endDetached then .detached else .attached) ∧
          (∀ b, u.bufState t b = 0) ∧ (u.ten t).adapters = (s.ten t).adapters ∧ u.rd (tReg t 0x10) = 2 ∧
          u.rd (cntTen t 5) = s.rd (cntTen t 5) ∧ u.rd (cntTen t 0) = 0 ∧ u.rd (sqReg t 0 0x18) = 0 ∧
          u.rd (hReg t 0x10) = s.rd (hReg t 0x10) ∧ u.hbm = s.hbm))

/-- A queued command of the right format that its lane lets act leaves the queue. MAP of a mapped page replies MAPPED; beyond the partition's tier 1 share, or with no frame of the size in its pool, NO_SPACE; otherwise it draws a frame, zeroes it, writes an entry of the pool's tier with the Pin and Writable flags and replies DONE; a frame beyond the block is first filled with zeros there. UNMAP, PROMOTE, DEMOTE, REF and UNREF of an unmapped page reply NOT_MAPPED, and INVALID where Large differs from the entry's. UNMAP of a referenced page replies BUSY, otherwise it clears the entry and releases the frame. PROMOTE of a page in tier 1 replies DONE, pinning it where asked, and of a lower page draws a frame and begins to read it. DEMOTE to pool 0 is INVALID, of a lower page DONE, of a pinned page without Unpin PINNED; otherwise it sets Moving, draws a frame and begins to write it, unless the source is poisoned; a frame out of reach is NO_SPACE. REF and UNREF move the count by one, REF at 2^32 - 1 is BUSY and UNREF at 0 INVALID. A tail write takes the ring's commands into the queue in order. A command not at its turn changes nothing. -/
def Obligations.TierMoverCommands : Prop :=
  (∀ (s : State) (k : Nat) (c : TierCmd), TierReady s k 1 c →
      let u := s.tierTaken k
      let sz := pageSize c.large
      let e := fun f => s.poolEntry c.pool f c.large c.pin c.writable
      (∀ e a b n, s.poolKind c.pool ≤ 1 → s.xlat c.part c.page = .page e a b n → exec (.map k) s = .next (u.tierReply c 6)) ∧
      (s.xlat c.part c.page = .unmapped →
        (s.poolKind c.pool = 1 → s.t1Room c.part sz = false → exec (.map k) s = .next (u.tierReply c 3)) ∧
        (s.poolKind c.pool = 0 ∨ (s.poolKind c.pool = 1 ∧ ∀ f ∈ s.poolFrames c.pool, f % sz ≠ 0) → exec (.map k) s = .next (u.tierReply c 3)) ∧
        (s.poolKind c.pool = 1 → s.t1Room c.part sz = true → ∀ f s1 a s2, u.drawFrame c.pool sz = some (f, s1) →
          s1.ensure c.page (s1.ptRoot c.part) (b2n c.large) 4 = some (a, s2) → s2.hbmWord a = 0 →
          ∃ t : State, exec (.map k) s = .next (t.tierReply c 0) ∧ t.hbm = ((s2.hbmZero f sz).hbmWrite64 a (e f)).hbm ∧ t.hbmWord a = e f ∧
            (t.part c.part).t1 = (s2.part c.part).t1 + sz ∧ t.poolFrames c.pool = s2.poolFrames c.pool) ∧
        (2 ≤ s.poolKind c.pool → ∀ f s1, u.drawFrame c.pool sz = some (f, s1) →
          (s.lowerResp (e f) ≠ 0 → exec (.map k) s = .next (u.tierReply c 3).settleFills) ∧
          (∀ a s2, s.lowerResp (e f) = 0 → s1.ensure c.page (s1.ptRoot c.part) (b2n c.large) 4 = some (a, s2) → s2.hbmWord a = 0 →
            exec (.map k) s = .next (s2.unitOp (.fill c f) c.part 2 (extAddr (e f) 0) sz (List.replicate sz 0) (sealedAt (extAddr (e f) 0))
              0 0 0).settleFills)))) ∧
    (∀ (s : State) (k : Nat) (c : TierCmd) (op : Nat) (i : Instr),
      (op, i) ∈ [(2, .unmap k), (3, .promote k), (4, .demote k), (5, .ref k), (6, .unref k)] → TierReady s k op c →
      (op = 3 → c.pool = 0) → (op = 4 → c.pool ≠ 0 ∧ s.poolKind c.pool ≠ 1) →
      (s.xlat c.part c.page = .unmapped → exec i s = .next ((s.tierTaken k).tierReply c 5)) ∧
      (∀ e a b n, s.xlat c.part c.page = .page e a b n → entryLarge e ≠ c.large → exec i s = .next ((s.tierTaken k).tierReply c 8))) ∧
    (∀ (s : State) (k : Nat) (c : TierCmd) (e : W64) (a b n : Nat), s.xlat c.part c.page = .page e a b n → entryLarge e = c.large →
      let u := s.tierTaken k
      (TierReady s k 2 c → s.refOf c.part b ≠ 0 → exec (.unmap k) s = .next (u.tierReply c 2)) ∧
      (TierReady s k 2 c → s.refOf c.part b = 0 → ∃ t : State, exec (.unmap k) s = .next (t.tierReply c 0) ∧ t.hbmWord a = 0 ∧
        t.hbm = (s.hbmWrite64 a 0).hbm ∧ (entryTier e = 1 → (t.part c.part).t1 = (s.part c.part).t1 - n) ∧
        t.tier.releasing = (if Sparse.get 0 s.tier.origin (frameKey e) = 0 then s.tier.releasing else
          s.tier.releasing ++ [⟨Sparse.get 0 s.tier.origin (frameKey e) - 1, entryFrame e, s.time⟩])) ∧
      (TierReady s k 3 c → c.pool = 0 → entryTier e = 1 →
        exec (.promote k) s = .next ((if c.pin then u.hbmWrite64 a (setBits e 59 59 1) else u).tierReply c 0)) ∧
      (TierReady s k 3 c → c.pool = 0 → entryTier e ≠ 1 →
        (s.t1Room c.part n = false ∨ (∀ f ∈ s.poolFrames 0, f % n ≠ 0) → exec (.promote k) s = .next (u.tierReply c 3)) ∧
        (s.t1Room c.part n = true → ∀ f, (s.poolFrames 0).find? (fun f => decide (f % n = 0)) = some f → ∃ t, exec (.promote k) s = .next t ∧
          t.tier.moves = s.tier.moves ++ [⟨c, false, c.part, c.page, c.large, 0, f, none, false⟩] ∧ t.hbm = s.hbm ∧
          t.fab.ops.map (·.use) = s.fab.ops.map (·.use) ++ [UnitUse.move c.part c.page] ∧
          t.poolFrames 0 = (s.poolFrames 0).erase f ∧ (t.part c.part).t1 = (s.part c.part).t1 + n)) ∧
      (TierReady s k 4 c → c.pool ≠ 0 → s.poolKind c.pool ≠ 1 →
        (entryTier e ≠ 1 → exec (.demote k) s = .next (u.tierReply c 0)) ∧
        (entryTier e = 1 → entryPinned e = true → c.unpin = false → exec (.demote k) s = .next (u.tierReply c 4)) ∧
        (entryTier e = 1 → entryPinned e = false ∨ c.unpin = true → s.poolKind c.pool ≠ 0 →
          ∀ f, (s.poolFrames c.pool).find? (fun f => decide (f % n = 0)) = some f →
          let low := s.lowerResp (s.poolEntry c.pool f c.large false false)
          (low ≠ 0 → exec (.demote k) s = .next (u.tierReply c 3)) ∧ (low = 0 → ∃ t, exec (.demote k) s = .next t ∧
          t.tier.moves = s.tier.moves ++ [⟨c, true, c.part, c.page, c.large, c.pool, f, none, false⟩] ∧ t.hbmWord a = setBits e 56 56 1 ∧
          t.poolFrames c.pool = (s.poolFrames c.pool).erase f ∧ (s.hbmRangeBad (entryFrame e) n = false →
            t.fab.ops.map (·.use) = s.fab.ops.map (·.use) ++ [UnitUse.move c.part c.page])))) ∧
      (TierReady s k 4 c → c.pool = 0 → exec (.demote k) s = .next (u.tierReply c 8)) ∧
      (TierReady s k 5 c → exec (.ref k) s = .next (if s.refOf c.part b = 2 ^ 32 - 1 then u.tierReply c 2
        else (u.setRef c.part b (s.refOf c.part b + 1)).tierReply c 0)) ∧
      (TierReady s k 6 c → exec (.unref k) s = .next (if s.refOf c.part b = 0 then u.tierReply c 8
        else (u.setRef c.part b (s.refOf c.part b - 1)).tierReply c 0))) ∧
    (∀ (s : State) (k : Nat), s.tier.queue[k]? = none → ∀ i ∈ [Instr.map k, .unmap k, .promote k, .demote k, .ref k, .unref k],
      exec i s = .next s) ∧
    (∀ (s : State) (v : W64), s.live = true →
      let tail := v &&& 0xFFFFFFFF
      let a := (s.rd 0x400000).toNat + 32 * (s.rf 0x400018 31 0 % 2 ^ s.rf 0x400008 4 0)
      let c : TierCmd := ⟨s.hbmWord a, s.hbmWord (a + 8), s.hbmWord (a + 16), s.hbmWord (a + 24), none⟩
      (tail.toNat = s.rf 0x400018 31 0 → exec (.tierCmdTail v) s = .next ((s.setReg 0x400010 tail).setReg 0x400018 tail)) ∧
      (tail.toNat = (s.rf 0x400018 31 0 + 1) % 2 ^ 32 → 1 ≤ c.op → c.op ≤ 6 → ∃ t, exec (.tierCmdTail v) s = .next t ∧
        t.tier.queue = s.tier.queue ++ [c] ∧ t.rd 0x400018 = tail ∧ t.rd 0x400010 = tail ∧ t.hbm = s.hbm) ∧
      (tail.toNat = (s.rf 0x400018 31 0 + 1) % 2 ^ 32 → c.op = 0 ∨ 6 < c.op → ∃ t, exec (.tierCmdTail v) s = .next t ∧
        t.tier.queue = s.tier.queue ∧ t.hbm = ((s.setReg 0x400010 tail).tierReply c 8).hbm))

/-- A promotion waits for the read of its lower frame and ends with the page's bytes in its new frame, an entry of tier 1 with the pins of page and command, the old frame on its way back, its counts up, and DONE; where the lower frame answers with an error the entry stands, the new frame returns and SOURCE_FAILED is replied. A demotion that a write has met aborts with CANCELLED; one whose source is poisoned or whose lower frame cannot be written aborts with SOURCE_FAILED. One whose page is referenced counts its bytes and waits from the end of its copy, and aborts with BUSY once TIER_DEMOTE_WAIT has passed; one whose page is not referenced writes the bytes to the lower frame and the lower entry, with Moving clear, and replies DONE. An aborted demotion clears Moving, and its lower frame returns at once. A released frame returns to its pool no sooner than 25 us after its entry changed. In the imbalance monitor, a window that ends at least 1 ms after the one before and served enough bytes adds one to the run of each stack over its share and returns the others to 0; a run that reaches 1,001 windows counts and pends IMBALANCE. -/
def Obligations.TierMovesCompleteAndFramesReturn : Prop :=
  (∀ (s : State) (p : Fin 16) (page : BitVec 52) (m : Move) (e : W64) (a b n : Nat), s.live = true →
      s.moveAt p page.toNat false = some m → s.xlat p m.page = .page e a b n →
      let sz := pageSize m.large
      (s.moveResp p page.toNat = none → exec (.promoteComplete p page) s = .next s) ∧
      (∀ bs, s.moveResp p page.toNat = some (0, bs) → ∃ t : State, exec (.promoteComplete p page) s = .next (t.tierReply m.cmd 0) ∧
        t.hbm = ((s.hbmWrite m.frame bs).hbmWrite64 a
          (pageEntry 1 (b2n (entryPinned e || m.cmd.pin)) (b2n m.large) (b2n (entryWritable e)) 0 0 m.frame)).hbm ∧
        t.tier.moves = s.tier.moves.erase m ∧ t.rd (cntPart p 41) = counterAdd (s.rd (cntPart p 41)) 1 ∧
        t.rd (cntPart p 44) = counterAdd (s.rd (cntPart p 44)) sz) ∧
      (∀ r bs, s.moveResp p page.toNat = some (r, bs) → r ≠ 0 → ∃ t : State,
        exec (.promoteComplete p page) s = .next (t.tierReply m.cmd 7) ∧ t.hbm = s.hbm ∧
        t.poolFrames 0 = s.poolFrames 0 ++ [m.frame] ∧ t.tier.moves = s.tier.moves.erase m ∧ (t.part p).t1 = (s.part p).t1 - sz)) ∧
    (∀ (s : State) (p : Fin 16) (page : BitVec 52) (m : Move) (e : W64) (a b n : Nat), s.live = true →
      s.moveAt p page.toNat true = some m → s.xlat m.part m.page = .page e a b n →
      let sz := pageSize m.large
      let lost := s.opsOf (.move p page.toNat) = [] ∨ ∃ r bs, s.moveResp p page.toNat = some (r, bs) ∧ r ≠ 0
      (m.hit = false → s.opsOf (.move p page.toNat) ≠ [] → s.moveResp p page.toNat = none → exec (.demoteComplete p page) s = .next s) ∧
      (∀ bs, m.hit = false → s.moveResp p page.toNat = some (0, bs) → s.refOf p b ≠ 0 → m.copied = none →
        ∃ t, exec (.demoteComplete p page) s = .next t ∧ t = { s with tier := t.tier, regs := t.regs } ∧
        t.tier.moves = s.tier.moves.map (fun x => if x = m then { m with copied := some s.time } else x) ∧
        t.rd (cntPart p (43 + poolTier (s.poolKind m.pool))) =
          counterAdd (s.rd (cntPart p (43 + poolTier (s.poolKind m.pool)))) sz) ∧
      (∀ bs, m.hit = false → s.moveResp p page.toNat = some (0, bs) → s.refOf p b = 0 →
        let e' := pageEntry (poolTier (s.poolKind m.pool)) (b2n (entryPinned e && !m.cmd.unpin)) (b2n m.large) (b2n (entryWritable e)) 0
          (s.poolTarget m.pool) m.frame
        ∃ t : State, exec (.demoteComplete p page) s = .next (t.tierReply m.cmd 0) ∧ t.hbmWord a = e' ∧ entryMoving e' = false ∧
          t.ext = s.ext.writeN (extAddr e' 0) (s.hbmRead (entryFrame e) sz) ∧
          t.tier.moves = s.tier.moves.filter (fun x => !(x.demote && x.part == p.val && x.page == page.toNat)) ∧
          (t.part p).t1 = (s.part p).t1 - sz ∧ t.rd (cntPart p 42) = counterAdd (s.rd (cntPart p 42)) 1) ∧
      (∀ st i, (st = 1 ∧ i = Instr.demoteComplete p page ∧ m.hit = true) ∨
          (st = 7 ∧ i = Instr.demoteComplete p page ∧ m.hit = false ∧ lost) ∨
          (st = (if m.hit then 1 else 2) ∧ i = Instr.demoteWaitExpire p page ∧
            ∃ t0, m.copied = some t0 ∧ t0.toNat + 1000 * s.rf 0x400020 9 0 ≤ s.time.toNat) →
        ∃ t : State, exec i s = .next (t.tierReply m.cmd st) ∧ t.hbmWord a = setBits e 56 56 0 ∧ t.tier.moves = s.tier.moves.erase m ∧
          t.poolFrames m.pool = s.poolFrames m.pool ++ [m.frame] ∧ t.ext = s.ext) ∧
      (∀ t0, m.copied = some t0 → s.time.toNat < t0.toNat + 1000 * s.rf 0x400020 9 0 → exec (.demoteWaitExpire p page) s = .next s) ∧
      (m.copied = none → exec (.demoteWaitExpire p page) s = .next s)) ∧
    (∀ (s : State) (k : Nat) (r : Releasing), s.live = true → s.tier.releasing[k]? = some r →
      (r.since.toNat + 25000 ≤ s.time.toNat → ∃ t, exec (.frameRelease k) s = .next t ∧ t = { s with tier := t.tier } ∧
        t.poolFrames r.pool = s.poolFrames r.pool ++ [r.frame] ∧ t.tier.releasing = s.tier.releasing.eraseIdx k ∧
        ∀ q, q ≠ r.pool → t.poolFrames q = s.poolFrames q) ∧
      (s.time.toNat < r.since.toNat + 25000 → exec (.frameRelease k) s = .next s)) ∧
    (∀ (s : State) (bytes : List Nat), s.live = true →
      (s.time.toNat < s.tier.window.toNat + 10 ^ 6 → exec (.imbalanceWindow bytes) s = .next s) ∧
      (s.tier.window.toNat + 10 ^ 6 ≤ s.time.toNat →
      let n := s.design.stacks
      let total := (bytes.take n).foldl (· + ·) 0
      let enough := s.rf 0x400040 15 0 * 10 ^ 6 ≤ total
      ∃ t, exec (.imbalanceWindow bytes) s = .next t ∧ t.hbm = s.hbm ∧ t.rods = s.rods ∧ t.tier.window = s.time ∧
        (∀ k, k < n → (enough → overShare n total bytes k → Sparse.get 0 t.tier.runs k = Sparse.get 0 s.tier.runs k + 1) ∧
          (¬enough ∨ ¬overShare n total bytes k → Sparse.get 0 t.tier.runs k = 0) ∧
          (enough → overShare n total bytes k → Sparse.get 0 s.tier.runs k = 1000 → (t.rd 0x30118).getLsbD 4 = true)) ∧
        ((∀ k, k < n → Sparse.get 0 s.tier.runs k < 1000) → t.rd 0x30118 = s.rd 0x30118)))

/-- In a powered block a corrected error of HBM, bead memory or an instruction word is logged and counted for its channel or rod, and changes no data beyond the log. An uncorrectable error of HBM is logged and counted, its granule reads as poisoned, and the data on it is recovered by location, history and journal from their second copies; one of bead memory poisons its granule and holds the rod's running partition with cause POISON; one of an instruction word or a rod unit makes a rod of a running partition raise MACHINE. A patrol leaves a sound granule as it is and marks one that reads as poisoned. A failing channel of a stack whose spare is unused and not being filled is copied; at the end of the copy the map switches onto the spare. A lost channel is logged and counted, its granules read as poisoned, and the logical channel moves to the unused spare with its data recovered the same way; a stack without spare takes no create from then on. An error in a Sequencer or Sampler context is logged and holds the running partition. -/
def Obligations.HardwareErrorsAndChannels : Prop :=
  (∀ (s : State) (off : Nat), s.powered = true →
      let x := s.hbmPlace off
      let c := 0x4E000 + 0x100 * x.1 + 8 * s.physChan x.1 x.2
      ∃ t, exec (.correctableError (.hbm off)) s = .next t ∧ Logged s t ∧ t.rd c = counterAdd (s.rd c) 1 ∧ t.bead = s.bead ∧
        t.imem = s.imem ∧ t.rods = s.rods ∧ t.parts = s.parts) ∧
    (∀ (s : State) (ph : Fin 544) (off : Nat), s.powered = true →
      ∀ loc ∈ [ErrLoc.bead ph off, ErrLoc.imem ph off], ∃ t, exec (.correctableError loc) s = .next t ∧ Logged s t ∧
        t.rd (0x4C000 + 8 * ph) = counterAdd (s.rd (0x4C000 + 8 * ph)) 1 ∧ t.bead = s.bead ∧ t.imem = s.imem ∧ t.rods = s.rods) ∧
    (∀ (s : State) (off : Nat), s.powered = true → ∃ u : State, Logged s u ∧ u.rd (cntBlk 4) = counterAdd (s.rd (cntBlk 4)) 1 ∧
      Sparse.get false u.hbmPoison (off / 32) = true ∧ u.parts = s.parts ∧
      exec (.uncorrectableError (.hbm off)) s = .next ((u.loss (s.hitHbm (fun k => k == off / 32))).histRepair (off / 32)).jrnlRepair) ∧
    (∀ (s : State) (ph : Fin 544) (off : Nat), s.powered = true → ∃ t, exec (.uncorrectableError (.bead ph off)) s = .next t ∧ Logged s t ∧
      Sparse.get false t.beadPoison ((2 ^ 22 * ph + off) / 8) = true ∧ t.bead = s.bead ∧
      (∀ p, s.partOfPhys ph = some p → (s.part p).st = .running → HeldWith t p 4 0x08) ∧ (s.partOfPhys ph = none → t.parts = s.parts)) ∧
    (∀ (s : State) (ph : Fin 544) (off p : Nat), s.powered = true → s.partOfPhys ph = some p → (s.part p).st = .running →
      (s.rod ph).reported = false → ∀ loc ∈ [ErrLoc.imem ph off, ErrLoc.rodUnit ph], ∃ t, exec (.uncorrectableError loc) s = .next t ∧
        ∃ r, (t.rod ph).raised = (s.rod ph).raised ++ [r] ∧ r.cause = 0x0A ∧ (t.rod ph).pc = (s.rod ph).pc ∧ (t.rod ph).s = (s.rod ph).s ∧
          t.hbm = s.hbm ∧ t.regs = s.regs) ∧
    (∀ (s : State) (g : Nat), exec (.patrol g) s = .next (if s.hbmBad g then s.poisonHbm g else s)) ∧
    (∀ (s : State) (st : Fin 16) (ch : Fin 31), s.live = true → st.val < s.design.stacks →
      (st.val ∉ s.flt.spareUsed → (∀ c, (st.val, c) ∉ s.flt.copying) → (st.val, ch.val) ∉ s.flt.lostCh →
        exec (.channelFailing st ch) s = .next { s with flt := { s.flt with copying := s.flt.copying ++ [(st.val, ch.val)] } }) ∧
      (st.val ∈ s.flt.spareUsed → exec (.channelFailing st ch) s = .next s) ∧
      (s.flt.copying.find? (fun x => x.1 == st.val) = some (st.val, ch.val) → ∃ t, exec (.channelCopyEnd st) s = .next t ∧
        t.flt.chMap = s.flt.chMap ++ [(32 * st.val + ch.val, 31)] ∧ t.flt.spareUsed = s.flt.spareUsed ++ [st.val] ∧
        (∀ c, (st.val, c) ∉ t.flt.copying) ∧ t.flt.lostCh = s.flt.lostCh ∧ t.hbm = s.hbm ∧ t.hbmPoison = s.hbmPoison ∧ t.parts = s.parts) ∧
      (s.flt.copying.find? (fun x => x.1 == st.val) = none → exec (.channelCopyEnd st) s = .next s) ∧
      (st.val ∉ s.flt.spareUsed → ∃ u : State, Logged s u ∧ u.rd (cntBlk 5) = counterAdd (s.rd (cntBlk 5)) 1 ∧
        (st.val, ch.val) ∈ u.flt.lostCh ∧ u.flt.chMap = s.flt.chMap ++ [(32 * st.val + ch.val, 31)] ∧
        exec (.channelLost st ch) s = .next ((u.loss (s.hitHbm (fun g => s.hbmPlace (32 * g) == (st.val, ch.val)))).forEach
          (s.histLost (fun g => s.hbmPlace (32 * g) == (st.val, ch.val))) (fun g v => v.histRepair g)).jrnlRepair) ∧
      (st.val ∈ s.flt.spareUsed → ∃ t, exec (.channelLost st ch) s = .next t ∧ t.flt.noCreate = true ∧
        ((∀ p, p < 16 → (s.part p).st = .off) → (t.rd 0x30118).getLsbD 0 = true))) ∧
    (∀ (s : State) (p : Fin 16) (u : FixedUnit), s.live = true → ∃ t, exec (.fixedFunctionUe p u) s = .next t ∧ Logged s t ∧
      t.rd (cntBlk 4) = counterAdd (s.rd (cntBlk 4)) 1 ∧ ((s.part p).st = .running → HeldWith t p 4 0) ∧ t.rods = s.rods ∧ t.slate = s.slate)

/-- A rod that has reported MACHINE of its hardware and is not retired is retired, its logical rod gets the lowest usable spare of its class, and its partition is released with replay. A rod over its correctable limit is retired at once, with the spare in its place, or noted for its partition's boundary where a step is open. An instruction memory over its limit uses a repair element while records leave one, and is retired otherwise. A rotation of the rod tested longest ago, with two usable spares and its partition running and idle, puts it under test, moves its registers to the first spare under the logical rod and counts a hold of at most 25,000 ns (a free value). A rod that passes becomes untouched and usable again with its test time; one that fails is retired. A partition that still waits for an absent peer after its time, and replays alone, waits no longer once its lost pages are recovered. A mismatch or a missed heartbeat stops a pair, logged and counted; the standby becomes master of a stopped one; with both stopped every partition is frozen, every port dark, cx_vid 0 and FATAL pending. -/
def Obligations.SparesRotationAndBeamPairs : Prop :=
  (∀ (s : State) (l : Fin 512) (p n : Nat) (rest : List Nat) (e : Raised), s.live = true → l.val < s.design.rods → s.partOf l = some p →
      oldestRaised (s.rod (s.phys l)).raised = some e → e.cause = 0x0A → e.resp = 0 → (s.rod (s.phys l)).reported = true →
      s.phys l ∉ s.flt.retired → s.spares (s.isReckon l) = n :: rest → ∃ u : State, u.flt.retired = s.flt.retired ++ [s.phys l] ∧
        u.phys l = n ∧ (u.rod n).raised = [] ∧ exec (.spareSubstitution l) s = .next (u.releaseReplay p)) ∧
    (∀ (s : State) (l : Fin 512), s.flt.retired.contains (s.phys l) = true ∨ (s.rod (s.phys l)).reported = false →
      exec (.spareSubstitution l) s = .next s) ∧
    (∀ (s : State) (l : Fin 512), s.live = true → l.val < s.design.rods → s.phys l ∉ s.flt.retired → s.phys l ∉ s.flt.pendingRods →
      (∀ p, s.partOfPhys (s.phys l) = some p → (s.part p).opened ≠ none →
        exec (.rodCeLimit l) s = .next { s with flt := { s.flt with pendingRods := s.flt.pendingRods ++ [s.phys l] } }) ∧
      ((∀ p, s.partOfPhys (s.phys l) = some p → (s.part p).opened = none) → s.logicalOf (s.phys l) = some l.val →
        ∀ n rest, s.spares (s.isReckon l) = n :: rest → ∃ t, exec (.rodCeLimit l) s = .next t ∧
          t.flt.retired = s.flt.retired ++ [s.phys l] ∧ t.phys l = n)) ∧
    (∀ (s : State) (ph : Fin 544) (el : Nat), s.live = true → ph.val < s.design.physRods → (ph.val, el) ∉ s.flt.repairs →
      let used := ((s.flt.fuseRecs ++ s.flt.kept).filter (fun r => r.1 == 3 && r.2.1 == ph.val)).length
      (used < 4 → s.flt.fuseRecs.length < 1024 → ∃ t, exec (.sramCeLimit ph el) s = .next t ∧ t.flt.repairs = s.flt.repairs ++ [(ph.val, el)] ∧
        t.flt.fuseRecs = s.flt.fuseRecs ++ [(3, ph.val, el)] ∧ t.flt.retired = s.flt.retired) ∧
      (24 ≤ used → exec (.sramCeLimit ph el) s = .next (s.retireLater ph))) ∧
    (∀ (s : State) (ph : Fin 544) (l p a b : Nat) (rest : List Nat), s.live = true → s.stalled = false →
      s.oldestRod (!s.tst.nextTally) = some ph.val → s.spares (!s.tst.nextTally) = a :: b :: rest → s.logicalOf ph = some l →
      s.partOf l = some p → s.idle p = true → (s.part p).st = .running → ∃ t, exec (.fieldRotation ph) s = .next t ∧ t.phys l = a ∧
        t.flt.untested = s.flt.untested ++ [ph.val] ∧ t.tst.nextTally = (!s.tst.nextTally) ∧ (t.rod a).s = (s.rod ph).s ∧
        (t.rod a).queue = [] ∧ t.free = s.free + 1 ∧ (t.part p).st = .running ∧
        ∃ ns, ns ≤ 25000 ∧ t.rd (cntBlk 40) = (if ns = 0 then s.rd (cntBlk 40) else counterAdd (s.rd (cntBlk 40)) ns)) ∧
    (∀ (s : State) (ph : Fin 544), s.live = true → ph.val ∈ s.flt.untested →
      (exec (.rotationTestEnd ph true) s = .next (({ s with flt := { s.flt with untested := s.flt.untested.filter (· != ph.val) } }).setRod ph
        { Rod.init with lastTest := s.time })) ∧
      (ph.val ∉ s.flt.retired → ∃ t, exec (.rotationTestEnd ph false) s = .next t ∧ t.flt.retired = s.flt.retired ++ [ph.val] ∧
        ph.val ∉ t.flt.untested)) ∧
    (∀ (s : State) (k : Fin 8) (p : Fin 16) (t0 : W64), s.live = true → s.present k = false → (s.part p).peerWait = some (k.val, t0) →
      t0.toNat + 1000000 * s.rf 0x30038 13 0 ≤ s.time.toNat → (∀ q, q < 16 → q ≠ p.val → (s.part q).peerWait = none) →
      ((s.poolLost k).part p).st = .held → (s.poolLost k).rf (0x31008 + 0x40 * p) 7 0 = 0 →
      exec (.peerWaitExpire k) s = .next ((s.poolLost k).onPart p (fun x => { x with peerWait := none }))) ∧
    (∀ (s : State) (k : Fin 8), s.present k = true → exec (.peerWaitExpire k) s = .next s) ∧
    (∀ (s : State) (b : Bool), s.powered = true → ∀ i ∈ [Instr.lockstepMismatch b, .heartbeatExpire b],
      (b ∈ s.flt.stopped → exec i s = .next s) ∧
      (b ∉ s.flt.stopped → ∃ t, exec i s = .next t ∧ Logged s t ∧ t.flt.stopped = s.flt.stopped ++ [b] ∧
        t.rd (cntBlk 6) = counterAdd (s.rd (cntBlk 6)) 1 ∧ t.flt.masterB = s.flt.masterB ∧
        t.flt.standby = (if b = s.flt.masterB then s.flt.standby else false) ∧ t.parts = s.parts)) ∧
    (∀ (s : State), s.powered = true →
      (s.flt.masterB ∈ s.flt.stopped → s.flt.standby = true → ∃ t, exec .beamFailover s = .next t ∧ t.flt.masterB = (!s.flt.masterB) ∧
        t.flt.standby = false ∧ t.parts = s.parts ∧ t.slate = s.slate ∧ (t.rd 0x30080).getLsbD 5 = true) ∧
      (s.flt.masterB ∉ s.flt.stopped ∨ s.flt.standby = false → exec .beamFailover s = .next s) ∧
      (true ∈ s.flt.stopped → false ∈ s.flt.stopped → ∃ t, exec .fallbackFreeze s = .next t ∧ t.flt.frozen = true ∧
        (t.rd 0x30118).getLsbD 0 = true ∧ (∀ p, p < 16 → (s.part p).st = .running → (t.part p).st = .held ∧ (t.part p).hold = 3) ∧
        t.pwr.vid = 0 ∧ (∀ q, q < 8 → (t.port q).train = .dark ∧ (t.port q).lasEn = false)) ∧
      (s.flt.stopped = [] → exec .fallbackFreeze s = .next s))

/-- The first channel that asserts sets its bit and HALTED, notes the time and makes every RUNNING partition HELD by halt; where halt is in effect already, only the bit of the channel sets. A channel that deasserts clears its bit; halt stays while the other channel is asserted or the discrepancy bit is set, and is released otherwise: HALTED clears, every partition that only halt holds runs again with the same open step and its watchdog moved on by the time of the halt, the others stay, its units start what waits, and the answers held back leave; what the Fallback sequencer froze stays so. A discrepancy latches where the channels differ and does nothing where they agree. A write of FLT_HALT_N stores 1 to 65,535 and latches at once where the running count already meets it; 0 is ignored. A clear while the channels differ is ignored; while they agree it clears the bit, and releases a halt whose channels are both deasserted. A write of FLT_EVT_PEND clears the event bits written as 1 and no other. -/
def Obligations.HaltAndEventRegisters : Prop :=
  (∀ (s : State) (ch : Bool), let b := if ch then 2 else 1
      (s.halted = true → exec (.haltAssert ch) s = .next (s.setRf 0x30108 b b 1)) ∧
      (s.halted = false → ∃ t, exec (.haltAssert ch) s = .next t ∧ t.halted = true ∧ (t.rd 0x30108).getLsbD b = true ∧
        t.flt.haltSince = s.time ∧ t.rods = s.rods ∧ t.hbm = s.hbm ∧
        ∀ p, p < 16 → ((s.part p).st = .running → (t.part p).st = .held ∧ (t.part p).hold = 2 ∧ (t.part p).haltHeld = true ∧
            (t.part p).opened = (s.part p).opened) ∧
          ((s.part p).st ≠ .running → t.part p = s.part p))) ∧
    (∀ (s : State) (ch : Bool), let b := if ch then 2 else 1
      (((s.rd 0x30108).getLsbD (3 - b) = true ∨ (s.rd 0x30108).getLsbD 3 = true ∨ s.halted = false) →
        exec (.haltRelease ch) s = .next (s.setRf 0x30108 b b 0)) ∧
      ((s.rd 0x30108).getLsbD (3 - b) = false → (s.rd 0x30108).getLsbD 3 = false → s.halted = true → s.flt.frozen = true →
        exec (.haltRelease ch) s = .next ((s.setRf 0x30108 b b 0).setRf 0x30108 0 0 0)) ∧
      ((s.rd 0x30108).getLsbD (3 - b) = false → (s.rd 0x30108).getLsbD 3 = false → s.halted = true → s.pwr.thermtrip = false →
        s.flt.frozen = false → ∃ t, exec (.haltRelease ch) s = .next t ∧ t.halted = false ∧
          ((∀ e ∈ s.rods, e.2.mq = [] ∧ e.2.vq = [] ∧ e.2.cq = []) → t.rods = s.rods ∧ t.hbm = s.hbm) ∧ (∀ c, c < 4 → (t.chan c).answers = []) ∧
          ∀ p, p < 16 → ((s.part p).haltHeld = true → (s.part p).st = .held → (s.part p).hold = 2 → (t.part p).st = .running ∧
              (t.part p).opened = (s.part p).opened ∧ (t.part p).wdog = (s.part p).wdog + (s.time - s.flt.haltSince)) ∧
            ((s.part p).haltHeld = false → t.part p = s.part p))) ∧
    (∀ (s : State), let w := s.rd 0x30108
      (w.getLsbD 1 = w.getLsbD 2 → exec .haltDiscrepancy s = .next s) ∧
      (w.getLsbD 1 ≠ w.getLsbD 2 → ∃ t, exec .haltDiscrepancy s = .next t ∧ (t.rd 0x30108).getLsbD 3 = true ∧ t = { s with regs := t.regs } ∧
        s.rf 0x30100 15 0 ≤ t.rf 0x30108 31 16 ∧ t.halted = s.halted) ∧
      (w.getLsbD 1 ≠ w.getLsbD 2 → exec .discrepancyClear s = .next s) ∧
      (w.getLsbD 1 = w.getLsbD 2 → w.getLsbD 1 = true ∨ s.halted = false → exec .discrepancyClear s = .next (s.setRf 0x30108 3 3 0)) ∧
      (w.getLsbD 1 = false → w.getLsbD 2 = false → s.halted = true → ∃ t, exec .discrepancyClear s = .next t ∧ t.halted = false ∧
        (t.rd 0x30108).getLsbD 3 = false)) ∧
    (∀ (s : State) (v : W64), let w := s.rd 0x30108
      let n := bits v 15 0
      (n = 0 → exec (.fltHaltN v) s = .next s) ∧
      (n ≠ 0 → w.getLsbD 1 = w.getLsbD 2 ∨ s.rf 0x30108 31 16 < n → exec (.fltHaltN v) s = .next (s.setReg 0x30100 (w64 n))) ∧
      (n ≠ 0 → w.getLsbD 1 ≠ w.getLsbD 2 → n ≤ s.rf 0x30108 31 16 → ∃ t, exec (.fltHaltN v) s = .next t ∧ t.rd 0x30100 = w64 n ∧
        (t.rd 0x30108).getLsbD 3 = true) ∧
      ∃ t, exec (.fltEvtPend v) s = .next t ∧ t = { s with regs := t.regs } ∧ ∀ k, (t.rd 0x30118).getLsbD k =
        ((s.rd 0x30118).getLsbD k && !(v.getLsbD k && decide (k < 15))))

/-- A GO with a length of 1 to 4,096 submits the mailbox's bytes and sets BUSY; while one is unanswered a GO is dropped, counted for a tenant alone; a length of 0 or above 4,096 has no effect. A response clears BUSY, gives its length and leaves the requests taken so far; it is what the SPDM standard makes of them and of the measurements (uninterpreted: the model's choice, log entry 10). A challenge read draws a fresh nonce of free values, and zero after eight invalid tokens. A token word is stored, and word 11 submits the token; while one is verified, writes are ignored. A valid token starts a warm reset that zeroes HBM, bead memory and instruction memory and enters DEBUG; an invalid one, and any with no nonce drawn or after eight failures, is counted and changes nothing else, and the eighth locks out. A lock written as 1 sets. An owner preset is written while the partition's digest is unbound, its last word binds it, and a bound digest is not written. -/
def Obligations.SecurityMailboxesUnlockAndLocks : Prop :=
  (∀ (s : State) (t : Fin 64) (v : W64), s.hapUp = true → s.attached t = true →
      let n := bits v 12 0
      let c := tReg t 0x800
      (n = 0 ∨ 4096 < n → exec (.tenSpdmGo t v) s = .next s) ∧
      (1 ≤ n → n ≤ 4096 → v.getLsbD 16 = true → (s.ten t).spdm.busy = true → exec (.tenSpdmGo t v) s = .next (s.bump (cntTen t 0) 1)) ∧
      (1 ≤ n → n ≤ 4096 → v.getLsbD 16 = true → (s.ten t).spdm.busy = false → ∃ u, exec (.tenSpdmGo t v) s = .next u ∧
        (u.ten t).spdm = ⟨true, (s.ten t).spdm.taken ++ [s.regBytes (tReg t 0x1000) n]⟩ ∧ (u.rd c).getLsbD 17 = true ∧ u.rf c 12 0 = n) ∧
      (1 ≤ n → n ≤ 4096 → v.getLsbD 16 = false → exec (.tenSpdmGo t v) s = .next (s.setRf c 12 0 n))) ∧
    (∀ (s : State) (v : W64), s.live = true →
      let n := bits v 12 0
      (n = 0 ∨ 4096 < n ∨ (v.getLsbD 16 = true ∧ s.sec.spdm.busy = true) → exec (.secSpdmGo v) s = .next s) ∧
      (1 ≤ n → n ≤ 4096 → v.getLsbD 16 = true → s.sec.spdm.busy = false → ∃ u, exec (.secSpdmGo v) s = .next u ∧
        u.sec.spdm = ⟨true, s.sec.spdm.taken ++ [s.regBytes 0x21000 n]⟩ ∧ (u.rd 0x20200).getLsbD 17 = true ∧ u.rf 0x20200 12 0 = n)) ∧
    (∀ (s : State) (who : SpdmWho), s.live = true → ((s.mailbox who).busy = false → exec (.spdmResponse who) s = .next s) ∧
      ((s.mailbox who).busy = true → ∃ u, exec (.spdmResponse who) s = .next u ∧
        u.mailbox who = ⟨false, (s.mailbox who).taken⟩ ∧ u.free = s.free + 4 ∧ (u.rd (spdmCtl who)).getLsbD 17 = false ∧
        u.rf (spdmCtl who) 44 32 =
          ((Config.spdmRespond (s.mailbox who).taken s.measurements false (freeBytes s.free 4)).take 4096).length ∧ u.hbm = s.hbm)) ∧
    (∀ (s : State), s.live = true →
      (8 ≤ s.sec.bad → exec .secDbgChal s = .next (s.send (.mgmt 0 false))) ∧
      (s.sec.bad < 8 → ∃ t, exec .secDbgChal s = .next t ∧ t.sec = { s.sec with nonce := some s.free } ∧ t.free = s.free + 4 ∧
        t.out = s.out ++ [.mgmt (Config.freeWord s.free) false] ∧ t.regs = s.regs)) ∧
    (∀ (s : State) (w : Fin 12) (v : W64), s.live = true →
      (s.sec.verifying = true → exec (.secDbgToken w v) s = .next s) ∧
      (s.sec.verifying = false → ∃ t, exec (.secDbgToken w v) s = .next t ∧ nth 0 t.sec.token w = v ∧
        (∀ k, k < 12 → k ≠ w.val → nth 0 t.sec.token k = nth 0 s.sec.token k) ∧ t.sec.verifying = decide (w.val = 11) ∧
        (w.val = 11 → t.rd 0x20040 = 1))) ∧
    (∀ (s : State), s.live = true →
      (s.sec.verifying = false → exec .debugTokenVerified s = .next s) ∧
      (s.sec.verifying = true → s.sec.nonce = none ∨ 8 ≤ s.sec.bad → s.tokenOk = false) ∧
      (s.sec.verifying = true → if s.tokenOk = true
        then ∃ t, exec .debugTokenVerified s = .next t ∧ t.hbm = [] ∧ t.bead = [] ∧ t.imem = [] ∧ t.sec.lifecycle = 2 ∧ t.rods = [] ∧
          t.rf 0x10008 3 0 = 3 ∧ t.rf 0x10008 15 8 = 7
        else ∃ t, exec .debugTokenVerified s = .next t ∧ t.sec = { s.sec with verifying := false, bad := s.sec.bad + 1 } ∧
          t.rd (cntBlk 22) = counterAdd (s.rd (cntBlk 22)) 1 ∧ t.rd 0x20040 = (if 7 ≤ s.sec.bad then 3 else 2) ∧
          t = { s with sec := t.sec, regs := t.regs })) ∧
    (∀ (s : State) (v : W64),
      exec (.pwrLock v) s = .next (if v.getLsbD 0 then s.setReg 0x10208 1 else s) ∧
      (s.live = true → exec (.secLock v) s = .next (if v.getLsbD 0 then s.setReg 0x20008 1 else s))) ∧
    (∀ (s : State) (p : Fin 16) (w : Fin 6) (v : W64), s.live = true →
      (s.rf (0x24070 + 0x100 * p) 0 0 = 1 → exec (.secPartOwner p w v) s = .next s) ∧
      (s.rf (0x24070 + 0x100 * p) 0 0 = 0 → ∃ t, exec (.secPartOwner p w v) s = .next t ∧ t.rd (0x24040 + 0x100 * p + 8 * w) = v ∧
        t.rd (0x24070 + 0x100 * p) = (if w.val = 5 then 1 else s.rd (0x24070 + 0x100 * p)) ∧ t = { s with regs := t.regs }))

/-- POWER_ON clears everything but the fuses, with board time 0. A recognised assertion of cx_rst_n on a block that is not held begins a held cold reset of cause 2 (4 where PWR_TRIP is latched: a deduced reading); a second recognition of the same level has no effect; its release starts the start-up sequence where every power-good input is high, and so does stable power once cx_rst_n is released. A glitch counts up to 65,535. A lost power-good input of a block out of the held reset begins a held cold reset of cause 3 and is recorded. RST_CTRL's COLD begins a cold reset of cause 5, WARM a warm reset of cause 6, and each is ignored while a block-wide reset is in progress. A cold reset clears every memory, table and register but the always-on ones, and keeps board time and the fuses; a warm reset keeps HBM, the boot area, the maps, the interleave key, board time with its steering and the registers of Table 19.4. -/
def Obligations.ResetsAndWhatTheyKeep : Prop :=
  (∀ s : State, ∃ t, exec .powerOn s = .next t ∧ t.time = 0 ∧ t.fab.synced = false ∧ t.regs = [] ∧ t.hbm = [] ∧ t.bead = [] ∧ t.imem = [] ∧
      t.rods = [] ∧ t.parts = [] ∧ t.slate = [] ∧ t.tenants = [] ∧ t.flt.fuseRecs = s.flt.fuseRecs ∧ t.sec.tstDone = s.sec.tstDone ∧
      t.flt.retired = recRods s.flt.fuseRecs ∧ t.pending = s.pending ∧ t.out = s.out) ∧
    (∀ s : State,
      (s.pwr.rstN = true → exec .rstNAssert s = .next s) ∧
      (s.pwr.rstN = false → s.rstState ≠ 1 → ∃ t, exec .rstNAssert s = .next t ∧ t.pwr.rstN = true ∧ t.rd 0x10010 = 0 ∧
        ColdBegun s t (if (s.rd 0x10238).getLsbD 0 then 4 else 2) 1) ∧
      (s.pwr.rstN = false → s.rstState = 1 → ∃ t, exec .rstNAssert s = .next t ∧ t.pwr.rstN = true ∧ t.regs = s.regs ∧ t.hbm = s.hbm) ∧
      (s.pwr.rstN = false → exec .rstNRelease s = .next s) ∧
      (s.pwr.rstN = true → s.rstState = 1 → s.pwr.pg = 0xF → ∃ t, exec .rstNRelease s = .next t ∧ t.rstState = 4 ∧ t.phase = 1 ∧
        t.pwr.rstN = false) ∧
      (s.pwr.rstN = true → s.rstState ≠ 1 ∨ s.pwr.pg ≠ 0xF → exec .rstNRelease s = .next { s with pwr := { s.pwr with rstN := false } }) ∧
      (s.rstState = 1 → s.pwr.rstN = false → ∃ t, exec .powerGoodStable s = .next t ∧ t.rstState = 4 ∧ t.phase = 1 ∧ t.pwr.pg = 0xF) ∧
      (s.rstState ≠ 1 ∨ s.pwr.rstN = true → exec .powerGoodStable s = .next { s with pwr := { s.pwr with pg := 0xF } }) ∧
      exec .rstGlitch s = .next (s.setReg 0x10018 (w64 (min 0xFFFF ((s.rd 0x10018).toNat + 1))))) ∧
    (∀ (s : State) (m : BitVec 4),
      (m ≠ 0 → s.rstState ≠ 1 → ∃ t, exec (.pgLost m) s = .next t ∧ ColdBegun s t 3 1 ∧ t.rf 0x10200 11 8 = m.toNat ∧
        t.pwr.pg = s.pwr.pg &&& ~~~m) ∧
      (m = 0 ∨ s.rstState = 1 → exec (.pgLost m) s = .next { s with pwr := { s.pwr with pg := s.pwr.pg &&& ~~~m } })) ∧
    (∀ s : State,
      (s.rstState = 1 ∨ s.rstState = 2 ∨ s.rstState = 3 → exec .cold s = .next s ∧ exec .warm s = .next s) ∧
      (s.rstState = 0 ∨ s.rstState = 4 → (∃ t, exec .cold s = .next t ∧ ColdBegun s t 5 2) ∧ ∃ t, exec .warm s = .next t ∧ WarmBegun s t 6))

/-- In a powered block a thermal sample records the hottest of its readings with its sensor and the two alert inputs. Above the warning, under an alert or above the power limit (never over the maximum of the configuration) it steps the clock down by 100 MHz, no lower than 1.0 GHz, where a step is due; otherwise the clock does not fall. A fall of cx_therm_alert_n does the same where a step is due. A fall of cx_vrhot_n brings a clock above 1.5 GHz to 1.5 GHz at once, and leaves a lower one. The first step of a throttle pends THERMAL. A raised code, once cx_vid has reached it, is followed by its clock 20 us later, not sooner; the step that ends a throttle at 2.0 GHz starts every RUNNING partition under the group release. A reading at the trip limit holds every RUNNING partition as a halt does, brings the clock to 1.0 GHz, latches PWR_TRIP and pends THERMTRIP, once. Filler counts 10 ns a tick. Each held group of frames starts 1.25 us after the last, counted, unless a halt or trip stops it. A block that is not powered does not step its clock. -/
def Obligations.ThermalLimitsClocksAndGovernor : Prop :=
  (∀ (s : State) (temps : List Int) (watts : Nat) (alert vrhot : Bool), temps ≠ [] →
      (s.powered = false → exec (.thermalSample temps watts alert vrhot) s = .next s) ∧
      (s.powered = true → ∃ t i m, exec (.thermalSample temps watts alert vrhot) s = .next t ∧ temps[i]? = some m ∧ (∀ x ∈ temps, x ≤ m) ∧
        t.rd 0x10230 = w64 (i % 128 * 65536 + (BitVec.ofInt 16 m).toNat) ∧ t.pwr.thermAlert = alert ∧ t.pwr.vrhot = vrhot ∧
        t.rods = s.rods ∧ t.parts = s.parts ∧
        let hot := m > 10 * (s.rf 0x10220 6 0 : Int) ∨ alert = true ∨ min (s.rf 0x10218 11 0) s.design.maxPower < watts
        (hot → t.pwr.coolSince = none) ∧
        (vrhot = false → hot → s.pwr.lastStep = none → 10 < s.pwr.freq → t.pwr.freq = s.pwr.freq - 1 ∧ t.pwr.warned = true ∧
          t.pwr.vidGoal = vidFor (s.pwr.freq - 1) ∧ t.pwr.vid = s.pwr.vid ∧
          (s.pwr.warned = false → (t.rd 0x30118).getLsbD 2 = true)) ∧
        (vrhot = true → 15 < s.pwr.freq → t.pwr.freq = 15) ∧
        (vrhot = false → ¬hot → t.pwr.freq = s.pwr.freq ∧ t.rd 0x30118 = s.rd 0x30118))) ∧
    (∀ (s : State), s.powered = true →
      (15 < s.pwr.freq → ∃ t, exec .vrhot s = .next t ∧ t.pwr.freq = 15 ∧ t.pwr.vidGoal = vidFor 15 ∧ t.pwr.vid = s.pwr.vid ∧ t.pwr.vrhot = true ∧
        (s.pwr.warned = false → (t.rd 0x30118).getLsbD 2 = true) ∧ t.rods = s.rods) ∧
      (s.pwr.freq ≤ 15 → exec .vrhot s = .next { s with pwr := { s.pwr with vrhot := true } }) ∧
      (10 < s.pwr.freq → s.pwr.lastStep = none → ∃ t, exec .thermAlert s = .next t ∧ t.pwr.freq = s.pwr.freq - 1 ∧ t.pwr.thermAlert = true ∧
        t.pwr.coolSince = none) ∧
      (s.pwr.freq ≤ 10 → exec .thermAlert s = .next { s with pwr := { s.pwr with thermAlert := true, coolSince := none } }) ∧
      (∀ f t0, s.pwr.raising = some (f, t0) →
        (t0.toNat + 20000 ≤ s.time.toNat → s.pwr.vid = s.pwr.vidGoal → ∃ t, exec .clockStep s = .next t ∧ t.pwr.freq = f ∧
          t.pwr.raising = none ∧ t.pwr.lastStep = some s.time ∧ (¬(s.pwr.warned = true ∧ 20 ≤ f) → t = { s with pwr := t.pwr }) ∧
          (s.pwr.warned = true → 20 ≤ f → ∀ p, p < 16 → ((s.part p).st ≠ .running → t.part p = s.part p) ∧
            ((s.part p).st = .running → t.part p = { s.part p with
              groups := [], startAt := s.time
              starts := (List.range (ceilDiv ((s.rodsOf p).length / 8) 8 - 1)).map (· + 1) }))) ∧
        (s.time.toNat < t0.toNat + 20000 ∨ s.pwr.vid ≠ s.pwr.vidGoal → exec .clockStep s = .next s))) ∧
    (∀ (s : State), s.powered = true →
      let hot := 10 * (s.rf 0x10228 6 0 : Int) ≤ signedOf 16 (s.rf 0x10230 15 0)
      (hot → s.pwr.thermtrip = false → ∃ t, exec .thermtrip s = .next t ∧ t.pwr.thermtrip = true ∧ t.pwr.freq = min s.pwr.freq 10 ∧
        t.rd 0x10238 = 1 ∧ (t.rd 0x30118).getLsbD 3 = true ∧ t.rods = s.rods ∧ ∀ p, p < 16 →
          ((s.part p).st = .running → (t.part p).st = .held ∧ (t.part p).haltHeld = true) ∧ ((s.part p).st ≠ .running → t.part p = s.part p)) ∧
      (¬hot ∨ s.pwr.thermtrip = true → exec .thermtrip s = .next s)) ∧
    (∀ (s : State) (b : Bool), (s.powered = false → exec (.governorTick b) s = .next s) ∧
      (s.powered = true → exec (.governorTick b) s = .next (let u := { s with pwr := { s.pwr with filler := b } }
        if b then u.setReg (cntBlk 32) (counterAdd (s.rd (cntBlk 32)) 10) else u))) ∧
    (∀ (s : State) (p : Fin 16), ((s.part p).starts = [] → exec (.groupRelease p) s = .next s) ∧
      ∀ (g : Nat) (r : List Nat), (s.part p).starts = g :: r →
      let due := (s.part p).startAt.toNat + 1250 ≤ s.time.toNat
      (s.live = true → s.stalled = false → due → ∃ t : State, exec (.groupRelease p) s = .next (t.startPart p) ∧
        t.part p = { s.part p with starts := r, startAt := (s.part p).startAt + 1250 } ∧
        t.rd (cntBlk 34) = counterAdd (s.rd (cntBlk 34)) 1250 ∧ t.rods = s.rods) ∧
      (s.stalled = true ∨ ¬due → exec (.groupRelease p) s = .next s))

/-- CLOCKS sets the voltage code and, after a cold reset, the board position, and enters SRAM. SRAM zeroes and enters KEYS, or stops a test part in phase 0xD, or fails with 1. KEYS draws the keys, with the interleave keys on a cold reset, and enters HBM; on a warm reset AUTH, or IMAGE after an unlock. HBM enters IMAGE where every stack trains, and otherwise fails with 2, FATAL pending. IMAGE waits: image writes move the address, store 8 bytes in the boot area and advance, and GO enters AUTH; outside the phase, and beyond 16 MiB, they draw an error. AUTH of an accepted image (standard signatures, uninterpreted) enters BEAM; the first refusal returns to IMAGE and the second fails with 3. BEAM enters RODS with the pairs that start and an empty beam journal, or fails with 4. RODS retires failing rods, zeroes every rod and enters LINKS, or fails with 5. LINKS lights the enabled ports and ends when each is settled or after its wait; SYNC ends where nothing is to be awaited; HOST raises cx_present with the credits of the enabled channels; READY ends the sequence with BOOT_DONE; a failure stops it with FATAL. A phase that is not in progress does nothing. -/
def Obligations.StartUpSequence : Prop :=
  (∀ (s : State) (pos : Fin 8), s.inPhase 1 = true → ∃ t, exec (.clocks pos) s = .next t ∧ Entered s t 2 ∧
      t.fab.pos = (if s.pwr.warm then s.fab.pos else pos.val) ∧ t.pwr.vid = vidFor s.pwr.freq ∧ t.pwr.vidGoal = t.pwr.vid ∧ 20 ≤ t.pwr.vid ∧
      t.pwr.vid ≤ 80) ∧
    (∀ (s : State), s.inPhase 2 = true → (∃ t, exec (.sram true) s = .next t ∧ Entered s t (if s.sec.tstDone then 3 else 0xD) ∧ t.bead = [] ∧
        t.imem = [] ∧ t.rods = [] ∧ t.slate = [] ∧ t.hbm = s.hbm) ∧ ∃ t, exec (.sram false) s = .next t ∧ BootFailed s t 1) ∧
    (∀ (s : State), s.inPhase 3 = true → ∃ t, exec .keys s = .next t ∧ t.sec.sealKey = s.free ∧ t.sec.jrnlKey = s.free + 4 ∧
      (s.pwr.warm = false → Entered s t 4 ∧ t.tier.ilKey = s.free + 6 ∧ t.free = s.free + 9) ∧
      (s.pwr.warm = true → Entered s t (if s.pwr.unlock then 5 else 6) ∧ t.tier.ilKey = s.tier.ilKey ∧ t.free = s.free + 6)) ∧
    (∀ (s : State) (l : List Bool), s.inPhase 4 = true →
      ((∀ k, k < s.design.stacks → nth false l k = true) → ∃ t, exec (.hbm l) s = .next t ∧ Entered s t 5 ∧
        t.flt.chMap = recChans s.flt.fuseRecs) ∧
      ((∃ k, k < s.design.stacks ∧ nth false l k = false) → ∃ t, exec (.hbm l) s = .next t ∧ BootFailed s t 2 ∧
        (t.rd 0x30118).getLsbD 0 = true ∧ (t.rd 0x30110).getLsbD 63 = true)) ∧
    (∀ (s : State) (v : W64), exec .image s = .next s ∧
      (s.inPhase 5 = true →
        (v.toNat < 2 ^ 24 → v.toNat % 8 = 0 → exec (.beamImgAddr v) s = .next ((s.setReg 0x1000 v).send (.mgmt 0 false))) ∧
        ((s.rd 0x1000).toNat + 8 ≤ 2 ^ 24 → ∃ t, exec (.beamImgData v) s = .next t ∧ t.boot = s.boot.write64 (s.rd 0x1000).toNat v ∧
          t.rd 0x1000 = s.rd 0x1000 + 8 ∧ t.out = s.out ++ [.mgmt 0 false]) ∧
        (2 ^ 24 < (s.rd 0x1000).toNat + 8 → exec (.beamImgData v) s = .next (s.send (.mgmt 0 true))) ∧
        (v.getLsbD 0 = true → ∃ t, exec (.beamImgGo v) s = .next t ∧ Entered s t 6 ∧ t.out = s.out ++ [.mgmt 0 false])) ∧
      (s.inPhase 5 = false → ∀ i ∈ [Instr.beamImgAddr v, .beamImgData v, .beamImgGo v], exec i s = .next (s.send (.mgmt 0 true)))) ∧
    (∀ (s : State), s.inPhase 6 = true → ∃ t, exec .auth s = .next t ∧ (s.imageOk = true → Entered s t 7) ∧
      (s.imageOk = false → s.pwr.authRetried = false → Entered s t 5 ∧ t.pwr.authRetried = true) ∧
      (s.imageOk = false → s.pwr.authRetried = true → BootFailed s t 3)) ∧
    (∀ (s : State) (a b : Bool), s.inPhase 7 = true → ∃ t, exec (.beam a b) s = .next t ∧
      ((a || b) = true → Entered s t 8 ∧ t.flt.masterB = (!a) ∧ t.flt.standby = (a && b) ∧
        t.flt.beam = some []) ∧ ((a || b) = false → BootFailed s t 4)) ∧
    (∀ (s : State) (l : List Nat), s.inPhase 8 = true → ∃ t, exec (.rods l) s = .next t ∧ t.rods = [] ∧ t.bead = [] ∧ t.imem = [] ∧
      (∀ n ∈ l, n < s.design.physRods → n ∈ t.flt.retired) ∧
      ((∃ f, f < s.design.rods / 8 ∧ f ∉ t.flt.noFrames) → Entered s t 9) ∧
      ((∀ f, f < s.design.rods / 8 → f ∈ t.flt.noFrames) → BootFailed s t 5)) ∧
    (∀ (s : State), s.inPhase 9 = true → ∃ t, exec .links s = .next t ∧
      (∀ p, p < 8 → s.portEnabled p = true → (s.port p).train = .dark → (s.port p).darkUntil = none → (t.port p).train = .probing) ∧
      ((∀ p, p < 8 → s.portSettled p = true) ∨ s.pwr.phaseAt.toNat + s.rf 0x600038 9 0 * 1000000 ≤ s.time.toNat → t.phase = 0xA) ∧
      ((∃ p, p < 8 ∧ s.portSettled p = false) → s.time.toNat < s.pwr.phaseAt.toNat + s.rf 0x600038 9 0 * 1000000 → t.phase = 9)) ∧
    (∀ (s : State), s.inPhase 0xA = true →
      ((s.pwr.warm = true ∧ s.fab.synced = true) ∨ s.master = s.fab.pos ∨ 3 ≤ s.pwr.syncs → ∃ t, exec .sync s = .next t ∧ Entered s t 0xB) ∧
      ((s.pwr.warm = false ∨ s.fab.synced = false) → s.master ≠ s.fab.pos → s.pwr.syncs < 3 → exec .sync s = .next s)) ∧
    (∀ (s : State), s.inPhase 0xB = true → ∃ t u, exec .host s = .next t ∧ Entered s t 0xC ∧ t.pwr.present = true ∧
      exec .presentRise s = .next u ∧ u.pwr.present = true ∧ u.phase = 0xB ∧ (s.pwr.present = false → ∀ c, c < 4 →
        u.chan c = (if bit (s.rd 0x700000) c then { Chan.init with inPosted := 512, inNon := 128 } else Chan.init))) ∧
    (∀ (s : State), (s.pwr.present = true → s.rstState = 1 ∨ s.rstState = 2 ∨ s.rstState = 3 → ∃ t, exec .presentFall s = .next t ∧
        t.pwr.present = false ∧ ∀ c, c < 4 → t.chan c = Chan.init) ∧
      (s.live = true → exec .presentFall s = .next s) ∧
      (s.inPhase 0xC = true → ∃ t, exec .ready s = .next t ∧ t.rstState = 0 ∧ (t.rd 0x30118).getLsbD 11 = true) ∧
      (s.rstState = 4 → s.rd 0x10028 ≠ 0 → s.phase ≠ 0xF → ∃ t, exec .failed s = .next t ∧ t.phase = 0xF ∧ (t.rd 0x30118).getLsbD 0 = true) ∧
      (s.rd 0x10028 = 0 → exec .failed s = .next s)) ∧
    (∀ (s : State), (s.rstState = 0 ∨ s.rstState = 1) → (∀ (pos : Fin 8), exec (.clocks pos) s = .next s) ∧
      ∀ i ∈ [Instr.sram true, .sram false, .keys, .auth, .beam true true, .links, .sync, .host, .presentRise, .ready, .failed],
        exec i s = .next s)

/-- While the block serves: a write to a counter sets its 48 bits and clears the overflow bit; elsewhere, and at a counter of a unit that the configuration lacks, it has no effect. A snapshot of a partition's scope gives each of its counters in the shadow view and is marked done; a reserved scope has no effect. A histogram setting out of range is ignored, as is one to an enabled engine unless it only disables it; enabling clears the buckets. A sample adds one to the bucket of the source's occupancy. A lost packet is counted for its destination while that is traced. A marker of a source that is on leaves on the trace port with the board time, and triggers on its value come due; after lost packets a LOSS goes before it and a SYNC of each traced beam source after it; one of a source that is off does nothing. The lowest trigger that is due fires: it leaves the due list and pends DEBUG_TRIGGER where its action says so; another waits. A software fire acts only on an enabled trigger of that kind. A debug freeze, at once or by a trigger after its packets or 10 us, takes effect in DEBUG alone. -/
def Obligations.CountersHistogramsTraceAndFreeze : Prop :=
  (∀ (s : State) (off : BitVec 24) (v : W64), s.live = true →
      (s.hasCounter off.toNat = true → exec (.counterWrite off v) s = .next (s.setReg off.toNat (w64 (v.toNat % 2 ^ 48)))) ∧
      (s.hasCounter off.toNat = false → exec (.counterWrite off v) s = .next s) ∧
      (isCounter off.toNat = false → s.hasCounter off.toNat = false) ∧
      ∀ k, k < 16 → s.design.stacks ≤ k → s.hasCounter (0x4E000 + 0x100 * k) = false) ∧
    (∀ (s : State) (v : W64), s.live = true →
      (bits v 7 6 = 1 → bits v 5 0 < 16 → ∃ t, exec (.dbgSnapCtrl v) s = .next t ∧ t.rd 0x40008 = 1 ∧ t.rods = s.rods ∧
        ∀ k, k < 512 → isCounter (cntPart (bits v 5 0) k) = true → Sparse.get 0 t.dbg.snap (8 * k) = s.rd (cntPart (bits v 5 0) k)) ∧
      (bits v 7 6 = 3 ∨ (bits v 7 6 = 1 ∧ 16 ≤ bits v 5 0) → exec (.dbgSnapCtrl v) s = .next s)) ∧
    (∀ (s : State) (n : Fin 8) (v : W64), s.live = true →
      let off := 0x40200 + 8 * n.val
      let w := v &&& 0xCF0FFF1FFFFFFFFF#64
      let fits := bits w 31 0 ≠ 0 ∧ bits w 36 32 ≤ 20 ∧ bits w 59 56 ≤ 13
      (¬fits → exec (.dbgHist n v) s = .next s) ∧
      (fits → (s.rd off).getLsbD 63 = true → exec (.dbgHist n v) s =
        .next (if w = setBits (s.rd off) 63 63 0 then s.setReg off w else s)) ∧
      (fits → (s.rd off).getLsbD 63 = false → w.getLsbD 63 = true → ∃ t, exec (.dbgHist n v) s = .next t ∧ t.rd off = w ∧
        ∀ k, k < 16 → t.rd (0x4B000 + 0x80 * n.val + 8 * k) = 0) ∧
      (fits → (s.rd off).getLsbD 63 = false → w.getLsbD 63 = false → exec (.dbgHist n v) s = .next (s.setReg off w))) ∧
    (∀ (s : State) (n : Fin 8), s.live = true →
      let cfg := s.rd (0x40200 + 8 * n.val)
      let b := 0x4B000 + 0x80 * n.val + 8 * bucketOf cfg (s.occupancy (bits cfg 59 56) (bits cfg 51 40))
      (cfg.getLsbD 63 = true → bits cfg 59 56 < 12 → exec (.histogramSample n) s = .next (s.setReg b (counterAdd (s.rd b) 1))) ∧
      (cfg.getLsbD 63 = false ∨ 12 ≤ bits cfg 59 56 → exec (.histogramSample n) s = .next s)) ∧
    (∀ (s : State) (p : Bool), s.live = true →
      let on := s.dbg.stopped = false ∧ (s.rd 0x40010).getLsbD (if p then 5 else 4) = true
      (on → exec (.traceLoss p) s = .next { s with dbg := if p then { s.dbg with lostPort := s.dbg.lostPort + 1 }
        else { s.dbg with lostRing := s.dbg.lostRing + 1 } }) ∧
      (¬on → exec (.traceLoss p) s = .next s)) ∧
    (∀ (s : State) (t : Fin 64) (v : W64), s.live = true → s.pwr.present = true → s.attached t = true →
      ∀ x ∈ [(Instr.dbgMark v, 2, 0, 0), (.tenMark t v, 3, 2, t.val)],
        ((s.rd 0x40010).getLsbD x.2.1 = false → exec x.1 s = .next s) ∧
        ((s.rd 0x40010).getLsbD x.2.1 = true → s.rf 0x40010 5 4 = 2 → s.dbg.stopped = false → s.dbg.lostPort = 0 →
          ∃ u, exec x.1 s = .next u ∧ u.hbm = s.hbm ∧ u.regs = s.regs ∧ u.out = s.out ++ [.trace
            (w64 (8 * 2 ^ 60 + 2 * 2 ^ 58 + x.2.2.1 * 2 ^ 56 + x.2.2.2 * 2 ^ 50 + bits v 31 0)) s.time] ∧
          ∀ n, n < 4 → (s.rd (trigReg n 0)).getLsbD 63 = true → s.rf (trigReg n 0) 62 60 = 2 →
            s.rf (trigReg n 8) 31 0 = 2 ^ 32 - 1 → s.rf (trigReg n 8) 63 32 = bits v 31 0 → n ∈ u.dbg.due) ∧
        ((s.rd 0x40010).getLsbD x.2.1 = true → s.rf 0x40010 5 4 = 2 → s.dbg.stopped = false → s.dbg.post = none → s.dbg.lostPort ≠ 0 →
          ∃ u l, exec x.1 s = .next u ∧ u.dbg.lostPort = 0 ∧ l.length = ([0, 1].filter (fun b => bit (s.rd 0x40010) b)).length ∧
            u.out = s.out ++ [.trace (lossWord s.dbg.lostPort) s.time, .trace
              (w64 (8 * 2 ^ 60 + 2 * 2 ^ 58 + x.2.2.1 * 2 ^ 56 + x.2.2.2 * 2 ^ 50 + bits v 31 0)) s.time] ++ l ∧
            ∀ y ∈ l, ∃ b a, b < 2 ∧ (s.rd 0x40010).getLsbD b = true ∧ a < 2 ^ 48 ∧ y = .trace (w64 (2 ^ 60 + b * 2 ^ 58 + a)) s.time)) ∧
    (∀ (s : State) (n : Fin 4), s.live = true →
      (n.val ∈ s.dbg.due → (∀ k ∈ s.dbg.due, n.val ≤ k) → ∃ t, exec (.triggerFire n) s = .next t ∧ t.dbg.due = s.dbg.due.erase n.val ∧
        t.rods = s.rods ∧ ((s.rd (trigReg n 0)).getLsbD 58 = true → (t.rd 0x30118).getLsbD 12 = true)) ∧
      (n.val ∉ s.dbg.due ∨ (∃ k ∈ s.dbg.due, k < n.val) → exec (.triggerFire n) s = .next s) ∧
      ((s.rd (trigReg n 0)).getLsbD 63 = true → s.rf (trigReg n 0) 62 60 = 3 → ∃ t, exec (.dbgTrigFire n) s = .next t ∧ t.rods = s.rods ∧
        t.dbg.due = s.dbg.due ∧ ((s.rd (trigReg n 0)).getLsbD 58 = true → (t.rd 0x30118).getLsbD 12 = true)) ∧
      ((s.rd (trigReg n 0)).getLsbD 63 = false ∨ s.rf (trigReg n 0) 62 60 ≠ 3 → exec (.dbgTrigFire n) s = .next s) ∧
      (s.dbg.freezing.find? (fun x => x.1 == n.val) = none → exec (.triggerFreeze n) s = .next s) ∧
      (∀ a b, s.dbg.freezing.find? (fun x => x.1 == n.val) = some (n.val, a, b) →
        (b = 0 ∨ a.toNat + 10000 ≤ s.time.toNat → ∃ t, exec (.triggerFreeze n) s = .next t ∧
          t.dbg.freezing = s.dbg.freezing.erase (n.val, a, b) ∧ (t.dbg.frozen = true ↔ s.sec.lifecycle = 2 ∨ s.dbg.frozen = true)) ∧
        (b ≠ 0 → s.time.toNat < a.toNat + 10000 → exec (.triggerFreeze n) s = .next s))) ∧
    (∀ (s : State) (v : W64), s.live = true → exec (.dbgFreeze v) s =
      .next (if v.getLsbD 0 = true ∧ s.sec.lifecycle = 2 then { s with dbg := { s.dbg with frozen := true } } else s))

/-- A write of DBG_ROD_ACCESS keeps its fields. With GO, for a rod of a HELD partition in DEBUG and an index in range, a read puts the chosen register in DBG_ROD_DATA and changes nothing else, and a write puts DBG_ROD_DATA there and changes no other rod; without GO, out of DEBUG, out of range or for a partition that is not HELD, no rod and no data register changes. A write with its start bit latches, for the named partition, each rod issue state, WAIT, address and depths, the arrivals, the uncompleted extents and the graph, with the open step and the board time; without it nothing happens. The second capture does nothing before 10 us have passed or for another partition; then the capture ends, and a partition that a step timeout holds is reset, while one that runs goes on. -/
def Obligations.RodAccessAndWaitForGraph : Prop :=
  (∀ (s : State) (v : W64) (p : Nat), s.live = true →
      let l := bits v 61 53
      let ph := s.phys l
      let i := bits v 21 0
      let cmd := setBits v 63 63 0 &&& 0x7FFF0000003FFFFF#64
      (v.getLsbD 63 = false ∨ s.sec.lifecycle ≠ 2 ∨ s.partOf l = none ∨ rodIndexOk (bits v 52 48) i = false ∨
          (s.partOf l = some p ∧ (s.part p).st ≠ .held) → exec (.dbgRodAccess v) s = .next (s.setReg 0x40080 cmd)) ∧
      (v.getLsbD 63 = true → s.sec.lifecycle = 2 → s.partOf l = some p → (s.part p).st = .held →
        (v.getLsbD 62 = false → ∀ x ∈ [(1, (s.rod ph).sget i, 32), (4, if (s.rod ph).pget i then 1 else 0, 8),
            (5, ((s.rod ph).cnt i).setWidth 64, 16)], bits v 52 48 = x.1 → i < x.2.2 →
          exec (.dbgRodAccess v) s = .next ((s.setReg 0x40080 cmd).setReg 0x40088 x.2.1)) ∧
        (v.getLsbD 62 = false → bits v 52 48 = 0 → i + 8 ≤ 0x400000 →
          exec (.dbgRodAccess v) s = .next ((s.setReg 0x40080 cmd).setReg 0x40088 (w64 (leNat (s.beadRead ph i 8))))) ∧
        (v.getLsbD 62 = true → bits v 52 48 = 1 → i < 32 → ∃ t, exec (.dbgRodAccess v) s = .next t ∧
          t.rod ph = (s.rod ph).sset i (s.rd 0x40088) ∧ (∀ k, k ≠ ph → t.rod k = s.rod k) ∧ t.bead = s.bead ∧ t.rd 0x40088 = s.rd 0x40088) ∧
        (v.getLsbD 62 = true → bits v 52 48 = 0 → i + 8 ≤ 0x400000 → ∃ t, exec (.dbgRodAccess v) s = .next t ∧
          t.beadRead ph i 8 = leBytes 8 (s.rd 0x40088).toNat ∧ t.rods = s.rods))) ∧
    (∀ (s : State) (v : W64), s.live = true →
      (v.getLsbD 7 = true → ∃ t, exec (.dbgWfgCapture v) s = .next t ∧ t.rods = s.rods ∧ t.parts = s.parts ∧
        t.dbg.capture = some (s.wfLatch (bits v 3 0)) ∧ ∃ c, t.dbg.capture = some c ∧ c.part = bits v 3 0 ∧ c.step = s.openStep (bits v 3 0) ∧
          c.time = s.time ∧ c.edges = s.wfEdges (bits v 3 0) ∧ c.barrier = (s.part (bits v 3 0)).atBarrier ∧
          c.stepEnd = (s.part (bits v 3 0)).atEnd ∧ c.rods.map (·.rod) = s.rodsOf (bits v 3 0) ∧
          (∀ d ∈ c.rods, let x := s.rod (s.phys d.rod)
            d.pc = x.pc ∧ d.depths = [x.mq.length, x.vq.length, x.cq.length] ∧ d.remote = x.rem.length ∧
            (x.raised.isEmpty = false ∨ x.reported = true → d.issue = 4) ∧
            ∀ k n imm, x.issue = .waiting k n imm → d.wait = some (k, n, imm, x.cnt n)) ∧
          ∀ k e, (∃ y, (s.part (bits v 3 0)).streams[k]? = some y ∧ e ∈ y.extents) → (k, e.rod, e.cnt) ∈ c.extents) ∧
      (v.getLsbD 7 = false → exec (.dbgWfgCapture v) s = .next s)) ∧
    (∀ (s : State) (p : Fin 16), s.live = true → (s.dbg.capture = none → exec (.wfgSecondCapture p) s = .next s) ∧
      ∀ c, s.dbg.capture = some c →
        (c.part ≠ p.val ∨ s.time.toNat < c.time.toNat + 10000 → exec (.wfgSecondCapture p) s = .next s) ∧
        (c.part = p.val → c.time.toNat + 10000 ≤ s.time.toNat → ∃ t, exec (.wfgSecondCapture p) s = .next t ∧
          ((s.part p).st ≠ .held ∨ (s.part p).hold ≠ 5 → t.parts = s.parts ∧ t.rods = s.rods ∧ t.dbg.capture = none ∧
            t.rd 0x40070 = (if (s.rd 0x40068).toNat < 32 then s.rd 0x40070 else s.rd 0x40070 + w64 (32 * (c.edges.length + 1)))) ∧
          ((s.part p).st = .held → (s.part p).hold = 5 → (t.part p).st = .resetting)))

/-- On a test part and in DEBUG every instruction is selected and acts: a TAP instruction shifts Capture-IR out first, the boundary instructions load their cells and shift as many bits out, scan keeps its stimulus and shifts the response out, the self-tests shift out one result for each unit chosen (captured bits are free values), WS_FUSE blows TST_DONE, retires a rod with its record, or adds bits to a row. After TST_DONE, outside DEBUG, an instruction that is closed only selects the bypass register, and the bypasses, WS_EXTEST, WS_HBM, IDCODE and SAMPLE/PRELOAD stay open. IDCODE shifts out 0x0C51_2A4F, least significant bit first; TEST_LOGIC_RESET selects IDCODE. In a powered block a run on an unused spare channel, where no copy in its stack needs one, changes nothing but free values and its three counters; one on a used channel does nothing while a partition is not OFF. A PRBS write that names a lane in use is ignored; one that ends a run clears the lock status; one that starts a run is stored, with lock status on the tested lanes alone. -/
def Obligations.TestInstructionsAndPatternEngines : Prop :=
  (∀ (s : State) (j : Bool) (cells : List Bool) (l : List Nat) (w : FuseWrite) (st : Fin 16), s.sec.tstDone = false ∨ s.sec.lifecycle = 2 →
      let sel (code : Nat) : State := if j then ({ s with tst := { s.tst with ir := code } }).send (.tdo true captureIr)
        else { s with tst := { s.tst with wir := code } }
      let cap (b : Bool) : List Output := if b then [.tdo true captureIr] else []
      exec (.wsBypass j) s = .next (sel 0) ∧ exec (.wsIjtag j) s = .next (sel 0x0A) ∧
      exec (.wsHbm j st) s = .next (sel (if st.val < s.design.stacks then 0x09 else 0x00)) ∧
      exec .bypass s = .next (({ s with tst := { s.tst with ir := 0xFF } }).send (.tdo true captureIr)) ∧
      (∀ x ∈ [(Instr.wsExtest j cells, 0x01, j), (.wsIntest j cells, 0x02, j), (.samplePreload cells, 0x0D, true)],
        ∃ t bs, exec x.1 s = .next t ∧ t.tst.cells = cells ∧ t.out = s.out ++ cap x.2.2 ++ [.tdo x.2.2 bs] ∧ bs.length = cells.length ∧
          t.rods = s.rods ∧ t.regs = s.regs ∧ (if x.2.2 then t.tst.ir = x.2.1 else t.tst.wir = x.2.1)) ∧
      (∀ x ∈ [(Instr.wsScan j cells, cells.length, cells), (.wsLbist j l, (l.filter (fun r => decide (r < s.design.physRods))).length, s.tst.scan),
          (.wsMbist j l, l.length, s.tst.scan)],
        ∃ t bs, exec x.1 s = .next t ∧ t.tst.scan = x.2.2 ∧ t.out = s.out ++ cap j ++ [.tdo j bs] ∧ bs.length = x.2.1 ∧ t.rods = s.rods ∧
          t.hbm = s.hbm ∧ t.bead = s.bead) ∧
      ∃ t, exec (.wsFuse j w) s = .next t ∧ t.rods = s.rods ∧ t.regs = s.regs ∧
        (w = .tstDone → t.sec.tstDone = true ∧ t.sec.lifecycle ≠ 0) ∧
        (∀ ph, w = .retire ph → ph ∈ t.flt.retired ∧ t.flt.fuseRecs = s.flt.fuseRecs ++ [(1, ph, 0)]) ∧
        (∀ n v, w = .row n v → Sparse.get 0 t.tst.fuses n = Sparse.get 0 s.tst.fuses n ||| v)) ∧
    (∀ (s : State) (j : Bool) (cells : List Bool) (l : List Nat) (w : FuseWrite) (st : Fin 16), s.sec.tstDone = true → s.sec.lifecycle ≠ 2 →
      (∀ i ∈ [Instr.wsIntest j cells, .wsScan j cells, .wsLbist j l, .wsMbist j l, .wsFuse j w, .wsIjtag j], exec i s =
        .next (if j then ({ s with tst := { s.tst with ir := 0xFF } }).send (.tdo true captureIr) else { s with tst := { s.tst with wir := 0 } })) ∧
      (st.val < s.design.stacks → exec (.wsHbm j st) s =
        .next (if j then ({ s with tst := { s.tst with ir := 0x09 } }).send (.tdo true captureIr) else { s with tst := { s.tst with wir := 0x09 } })) ∧
      ∃ t bs, exec (.wsExtest j cells) s = .next t ∧ t.tst.cells = cells ∧
        t.out = s.out ++ (if j then [.tdo true captureIr] else []) ++ [.tdo j bs] ∧ bs.length = cells.length) ∧
    (∀ (s : State), exec .testLogicReset s = .next { s with tst := { s.tst with ir := 0x0C } } ∧
      captureIr = (List.range 8).map (fun k => decide (k = 0)) ∧
      exec .idcode s = .next (({ s with tst := { s.tst with ir := 0x0C } }.send (.tdo true captureIr)).send
        (.tdo true ((List.range 32).map (fun k => (0x0C512A4F#32).getLsbD k))))) ∧
    (∀ (s : State) (st : Fin 16) (ph : Fin 32) (pat : HbmPattern) (a n : Nat),
      (s.powered = false ∨ s.design.stacks ≤ st.val → exec (.tstHbmCtrl st ph pat a n) s = .next s) ∧
      (s.powered = true → st.val < s.design.stacks → (∀ c, c < 31 → s.physChan st c ≠ ph) →
        (s.flt.copying.any (fun x => x.1 == st.val) = true → exec (.tstHbmCtrl st ph pat a n) s = .next s) ∧
        (s.flt.copying.any (fun x => x.1 == st.val) = false → ∃ t, exec (.tstHbmCtrl st ph pat a n) s = .next t ∧
        t.hbm = s.hbm ∧ t.free = s.free + 3 ∧ t.rods = s.rods ∧ ∀ k ∈ [1, 2, 3], ∃ d, t.rd (cntStack st k) =
          (if d = 0 then s.rd (cntStack st k) else counterAdd (s.rd (cntStack st k)) d))) ∧
      (∀ c p, c < 31 → s.physChan st c = ph → p < 16 → (s.part p).st ≠ .off → exec (.tstHbmCtrl st ph pat a n) s = .next s) ∧
      (∀ c, c < 31 → s.powered = true → st.val < s.design.stacks → s.physChan st c = ph → (∀ p, p < 16 → (s.part p).st = .off) →
        ∃ t, exec (.tstHbmCtrl st ph pat a n) s = .next t ∧ t.rods = s.rods ∧ t.parts = s.parts ∧ t.bead = s.bead)) ∧
    (∀ (s : State) (p : Fin 8) (v : W64), s.live = true →
      let off := 0x600310 + 0x20 * p.val
      let w := v &&& w64 (7 * 2 ^ 61 + (2 ^ (32 + s.design.spareLanes) - 1))
      let lane (n : Nat) : Prop := n < 32 + s.design.spareLanes ∧ w.getLsbD n = true
      let inUse (n : Nat) : Prop := (s.rd 0x600010).getLsbD p.val = true ∧ (n ∈ (s.port p).rxMap ∨ n ∈ (s.port p).txMap)
      ((∃ n, lane n ∧ inUse n) → exec (.fabPrbsCtrl p v) s = .next s) ∧
      ((∀ n, lane n → ¬inUse n) → w.getLsbD 63 = false → exec (.fabPrbsCtrl p v) s = .next ((s.setReg off w).setReg (off + 8) 0)) ∧
      ((∀ n, lane n → ¬inUse n) → w.getLsbD 63 = true → ∃ t, exec (.fabPrbsCtrl p v) s = .next t ∧ t.rd off = w ∧
        (∀ k, (t.rd (off + 8)).getLsbD k = true → lane k) ∧ t.fab = s.fab))

/-- A write at the management port of a misaligned offset or outside its reach, or by a tenant that is not attached or does not reach the aligned offset, has no effect; a misaligned one of an attached tenant is only counted as its error; a reserved offset takes none. A partition mask holds no frame that the configuration lacks. A write within reach is performed. TIER_DEMOTE_WAIT takes a value of 1 to 1,000 and keeps its value otherwise; PWR_LIMIT keeps its value while PWR_LOCK is set and takes 500 to 2,300 while it is clear. A channel's loopback bit takes the written value where every tenant homed on it is DETACHED, and keeps its own otherwise. A management request has one response: an error for a misaligned, reserved or unreachable address, with no effect; the value read, with the effect of the read; or, for a write, what the write does. -/
def Obligations.RegisterWindowAccess : Prop :=
  (∀ (s : State) (off : BitVec 24) (v : W64) (t : Fin 64),
      let o := off.toNat
      (o % 8 ≠ 0 → exec (.registerWrite .mgmt off v) s = .next s ∧
        (s.hapUp = true → s.attached t = true → exec (.registerWrite (.tenant t) off v) s = .next (s.inErr t))) ∧
      (s.hapUp = false ∨ s.attached t = false ∨ (o % 8 = 0 ∧ s.reaches t o = false) →
        exec (.registerWrite (.tenant t) off v) s = .next s) ∧
      (s.mgmtReaches o = false → exec (.registerWrite .mgmt off v) s = .next s) ∧
      (regAt o = none → (o % 8 = 0 → exec (.registerWrite (.tenant t) off v) s = .next s) ∧ exec (.registerWrite .mgmt off v) s = .next s) ∧
      (o % 8 = 0 → s.hapUp = true → s.attached t = true → s.reaches t o = true →
        exec (.registerWrite (.tenant t) off v) s = .next (s.writeReg false o v)) ∧
      (o % 8 = 0 → s.mgmtReaches o = true → exec (.registerWrite .mgmt off v) s = .next (s.writeReg true o v))) ∧
    (∀ (s : State) (p : Nat), p < 16 → ∀ f, s.design.rods / 8 ≤ f → f < 64 → (s.readReg (pReg p 8)).1.getLsbD f = false) ∧
    (∀ (s : State) (v : W64), s.powered = true →
      let d := bits v 9 0
      (1 ≤ d → d ≤ 1000 → exec (.registerWrite .mgmt 0x400020#24 v) s = .next (s.setReg 0x400020 (setBits (s.rd 0x400020) 9 0 d))) ∧
      (d = 0 ∨ 1000 < d → exec (.registerWrite .mgmt 0x400020#24 v) s = .next s) ∧
      let w := bits v 11 0
      ((s.rd 0x10208).getLsbD 0 = false → 500 ≤ w → w ≤ 2300 →
        exec (.registerWrite .mgmt 0x10218#24 v) s = .next (s.setReg 0x10218 (setBits (s.rd 0x10218) 11 0 w))) ∧
      ((s.rd 0x10208).getLsbD 0 = false → w < 500 ∨ 2300 < w → exec (.registerWrite .mgmt 0x10218#24 v) s = .next s) ∧
      ((s.rd 0x10208).getLsbD 0 = true → ∃ t, exec (.registerWrite .mgmt 0x10218#24 v) s = .next t ∧ t = { s with regs := t.regs } ∧
        ∀ k, t.rd k = s.rd k)) ∧
    (∀ (s : State) (v : W64), s.live = true → ∃ t, exec (.hapLoopCtrl v) s = .next t ∧ t = { s with regs := t.regs } ∧ ∀ c, c < 4 →
      ((∀ k, k < 64 → s.home k = c → (s.ten k).st = .detached) → (t.rd 0x700010).getLsbD c = v.getLsbD c) ∧
      ((∃ k, k < 64 ∧ s.home k = c ∧ (s.ten k).st ≠ .detached) → (t.rd 0x700010).getLsbD c = (s.rd 0x700010).getLsbD c)) ∧
    (∀ (s : State) (wr : Bool) (addr : BitVec 24) (v : W64),
      let o := addr.toNat
      (o % 8 ≠ 0 ∨ regAt o = none ∨ s.mgmtReaches o = false → exec (.managementRequest wr addr v) s = .next (s.send (.mgmt 0 true))) ∧
      (o % 8 = 0 → regAt o ≠ none → s.mgmtReaches o = true →
        exec (.managementRequest false addr v) s = .next ((s.readReg o).2.send (.mgmt (s.readReg o).1 false)) ∧
        exec (.managementRequest true addr v) s = .next ((s.writeReg true o v).send (.mgmt 0 (s.imgErr o v))) ∧
        (o ∉ [0x1000, 0x1008, 0x1010] → s.imgErr o v = false)))

/-- For every command and state: a step of a state with the command at the front of its queue is what the command does to the state with the rest of the queue. On an empty queue a step is one cycle of the always-on clock, 10 ns (the model's choice, log entry 11): board time advances by 10 ns where it is neither slewed nor steered, and by 9 to 11 ns where its rate is steered within 500 ppm; queue and configuration stay, outputs are only added, and a block that is neither live nor has its links up keeps outputs, HBM, rods and partitions. -/
def Obligations.StepRunsTheFrontCommand : Prop :=
  (∀ (c : Instr) (rest : List Instr) (s : State), step { s with pending := c :: rest } = exec c { s with pending := rest }) ∧
    (∀ s : State, s.pending = [] → step s = .next s.tick) ∧
    (∀ s : State, s.fab.slewing = 0 → s.fab.rate = 0 → s.fab.frac = 0 → s.tick.time = s.time + 10) ∧
    (∀ s : State, -100000 < s.fab.frac → s.fab.frac < 100000 → -500 ≤ s.fab.rate → s.fab.rate ≤ 500 →
      s.tick.time = s.time + 9 ∨ s.tick.time = s.time + 10 ∨ s.tick.time = s.time + 11) ∧
    (∀ s : State, s.tick.pending = s.pending ∧ s.tick.design = s.design ∧ s.out <+: s.tick.out ∧
      (s.fabUp = false → s.live = false → s.tick.out = s.out ∧ s.tick.hbm = s.hbm ∧ s.tick.rods = s.rods ∧ s.tick.parts = s.parts))

/-- After power-on no command waits, every memory lists nothing and is canonical, no request, partition or tenant is active, board time is 0 and not synced, the block is held in reset with cause power-on, and registers read the reset values of chapter 21, of which some are named: FLT_HALT_N 1,000, TIER_DEMOTE_WAIT 100, HAP_TIMEOUT 50, PWR_LIMIT 2,300, PWR_THERM_WARN 95, and for each tenant its home channel t mod 4 and its vector mask 0xFFFF. What an unlisted byte reads as, 0, is the model's choice (log entry 2). -/
def Obligations.ResetState : Prop :=
  State.reset.pending = [] ∧ State.reset.memWf = true ∧ State.reset.slate = [] ∧ State.reset.time = 0 ∧ State.reset.fab.synced = false ∧
    (∀ a n, State.reset.hbmRead a n = List.replicate n 0) ∧ (∀ p, (State.reset.part p).st = .off) ∧
    (∀ t, (State.reset.ten t).st = .detached) ∧ (∀ ph k, (State.reset.rod ph).sget k = 0) ∧
    State.reset.rf 0x10008 3 0 = 1 ∧ State.reset.rf 0x10008 15 8 = 1 ∧ State.reset.live = false ∧
    State.reset.rd 0x30100 = 1000 ∧ State.reset.rd 0x400020 = 100 ∧ State.reset.rd 0x700008 = 50 ∧ State.reset.rd 0x10218 = 2300 ∧
    State.reset.rd 0x10220 = 95 ∧ (∀ t, t < 64 → State.reset.home t = t % 4) ∧ (∀ t, t < 64 → State.reset.rd (tReg t 0x380) = 0xFFFF)

/-- For every counter and increment k: adding k makes the value (v + k) mod 2^48, bits [62:48] zero, and sets the overflow bit where v + k reaches 2^48; the bit stays set through every increment and a software write clears it. Increments that reach a counter together give what their sum gives. An 8-byte read returns the bit in bit 63, zero in [62:48] and the value in [47:0], and 4 bytes of it are the matching half. -/
def Obligations.CounterIncrements : Prop :=
  (∀ (c : W64) (k : Nat), (counterAdd c k).toNat % 2 ^ 48 = (c.toNat % 2 ^ 48 + k) % 2 ^ 48 ∧ bits (counterAdd c k) 62 48 = 0 ∧
      (2 ^ 48 ≤ c.toNat % 2 ^ 48 + k → (counterAdd c k).getLsbD 63 = true) ∧
      (c.toNat % 2 ^ 48 + k < 2 ^ 48 → (counterAdd c k).getLsbD 63 = c.getLsbD 63) ∧ (c.getLsbD 63 = true → (counterAdd c k).getLsbD 63 = true)) ∧
    (∀ (c : W64) (j k : Nat), counterAdd (counterAdd c j) k = counterAdd c (j + k)) ∧
    (∀ (s : State) (off k : Nat), 0 < k → (s.bump off k).rd off = counterAdd (s.rd off) k ∧ ∀ o, o ≠ off → (s.bump off k).rd o = s.rd o) ∧
    (∀ (s : State) (off : Nat) (v : W64), isCounter off = true → ((s.counterSet off v).rd off).getLsbD 63 = false) ∧
    (∀ (s : State) (off : Nat) (h : RHit), isCounter off = true → regAt off = some h → s.absentReg h off = false →
      ((s.readReg off).1.getLsbD 63 = (s.rd off).getLsbD 63 ∧ bits (s.readReg off).1 62 48 = 0 ∧
        bits (s.readReg off).1 47 0 = bits (s.rd off) 47 0 ∧ (s.readReg off).2 = s)) ∧
    (∀ (s : State) (ch : Nat) (m : Msg), isCounter (m.off / 8 * 8) = true → m.off % 4 = 0 → m.len = 4 →
      s.readWindow ch m = s.respondData ch m (((leBytes 8 (s.readReg (m.off / 8 * 8)).1.toNat).drop (m.off % 8)).take 4))

/-- For every command and every state the command has an effect or none, but it always answers a next state: the block never stops. It leaves the configuration and the commands that wait as they are, never clears the TST_DONE fuse, and only adds to the outputs. That free values are only drawn, never returned, is the model's own (log entry 5). -/
def Obligations.EveryCommandCompletes : Prop :=
  ∀ (c : Instr) (s : State), ∃ t, exec c s = .next t ∧ OnlyAdds s t

/-- HBM, bead memory, instruction memory, the lower tiers and the boot area each stay a list of address and byte pairs with rising addresses and no byte equal to what an unlisted address reads as, through every step of every state in which they are so: equal memories are equal data. -/
def Obligations.EveryStepKeepsMemoryCanonical : Prop :=
  ∀ s t : State, s.memWf = true → step s = .next t → t.memWf = true
end

