-- ==== Sys2Proof/Laws/Store.lean ====
section
/-! SUPPORT. Laws of the sparse tables and of byte memories: a read after a write, what a write leaves alone, and that every
operation keeps the canonical form. -/

namespace Sys2Proof.Machine

variable {α : Type} [DecidableEq α]

/-! ### Reads after writes -/

omit [DecidableEq α] in
theorem Sparse.get_erase (d : α) (m : Sparse α) (k k' : Nat) :
    Sparse.get d (Sparse.erase m k) k' = if k' = k then d else Sparse.get d m k' := by
  induction m with
  | nil => simp [Sparse.erase, Sparse.get]
  | cons e r ih =>
    obtain ⟨a, v⟩ := e
    simp only [Sparse.erase, Sparse.get]
    by_cases ha : k = a <;> by_cases hk : k' = k <;> by_cases hb : k' = a <;> simp_all [Sparse.get]

omit [DecidableEq α] in
theorem Sparse.get_insert (d : α) (m : Sparse α) (k k' : Nat) (v : α) (h : Sparse.get d m k = d ∨ k' ≠ k)
    (hk : ∀ e ∈ m, e.1 ≠ k) : Sparse.get d (Sparse.insert m k v) k' = if k' = k then v else Sparse.get d m k' := by
  induction m with
  | nil => simp [Sparse.insert, Sparse.get]
  | cons e r ih =>
    obtain ⟨a, w⟩ := e
    have ha : a ≠ k := hk (a, w) (by simp)
    have hr : ∀ e ∈ r, e.1 ≠ k := fun e he => hk e (by simp [he])
    simp only [Sparse.insert]
    split
    · simp only [Sparse.get]
    · simp only [Sparse.get]
      by_cases hka : k' = a
      · subst hka
        simp [ha]
      · have h' : Sparse.get d r k = d ∨ k' ≠ k := by
          rcases h with h | h
          · left
            simpa [Sparse.get, Ne.symm ha] using h
          · exact .inr h
        simp [hka, ih h' hr]

omit [DecidableEq α] in
theorem Sparse.not_mem_erase (m : Sparse α) (k : Nat) : ∀ e ∈ Sparse.erase m k, e.1 ≠ k := by
  induction m with
  | nil => simp [Sparse.erase]
  | cons e r ih =>
    obtain ⟨a, v⟩ := e
    simp only [Sparse.erase]
    split
    · exact ih
    · intro e he
      rcases List.mem_cons.mp he with rfl | he
      · exact fun h => by simp_all
      · exact ih e he

/-- What a table holds after one key was written. -/
theorem Sparse.get_put (d : α) (m : Sparse α) (k k' : Nat) (v : α) :
    Sparse.get d (Sparse.put d m k v) k' = if k' = k then v else Sparse.get d m k' := by
  unfold Sparse.put
  split
  · next h => rw [Sparse.get_erase]; split <;> simp [h]
  · rw [Sparse.get_insert d _ k k' v (by left; simp [Sparse.get_erase]) (Sparse.not_mem_erase m k)]
    split
    · rfl
    · next hk => simp [Sparse.get_erase, hk]

@[simp] theorem Sparse.get_put_self (d : α) (m : Sparse α) (k : Nat) (v : α) :
    Sparse.get d (Sparse.put d m k v) k = v := by simp [Sparse.get_put]

/-- Writing one key leaves every other as it is, whatever default the reader names. -/
theorem Sparse.get_put_ne (d e : α) (m : Sparse α) {k k' : Nat} (v : α) (h : k' ≠ k) :
    Sparse.get e (Sparse.put d m k v) k' = Sparse.get e m k' := by
  unfold Sparse.put
  split
  · simp [Sparse.get_erase, h]
  · rw [Sparse.get_insert e _ k k' v (.inr h) (Sparse.not_mem_erase m k)]
    simp [Sparse.get_erase, h]

omit [DecidableEq α] in
/-- What a table holds after a range of keys was cleared. -/
theorem Sparse.get_clear (d : α) (m : Sparse α) (lo hi k : Nat) :
    Sparse.get d (Sparse.clear m lo hi) k = if lo ≤ k ∧ k < hi then d else Sparse.get d m k := by
  induction m with
  | nil => simp [Sparse.clear, Sparse.get]
  | cons e r ih =>
    obtain ⟨a, v⟩ := e
    simp only [Sparse.clear, List.filter] at ih ⊢
    by_cases ha : lo ≤ a ∧ a < hi
    · simp only [ha.1, ha.2, decide_true, Bool.and_self, Bool.not_true, ih, Sparse.get]
      by_cases hk : k = a
      · subst hk; simp [ha]
      · simp [hk]
    · have : (!(decide (lo ≤ a) && decide (a < hi))) = true := by
        simp only [Bool.not_eq_true', Bool.and_eq_false_imp, decide_eq_true_eq, decide_eq_false_iff_not]
        exact fun h1 h2 => ha ⟨h1, h2⟩
      simp only [this, Sparse.get]
      by_cases hk : k = a
      · subst hk; simp [ha]
      · simp only [hk, if_false, ih]

omit [DecidableEq α] in
theorem Sparse.erase_insert (m : Sparse α) (k : Nat) (v : α) (h : ∀ e ∈ m, e.1 ≠ k) :
    Sparse.erase (Sparse.insert m k v) k = m := by
  induction m with
  | nil => simp [Sparse.insert, Sparse.erase]
  | cons e r ih =>
    obtain ⟨a, w⟩ := e
    have ha : a ≠ k := h (a, w) (by simp)
    have he : Sparse.erase r k = r := by
      have hr : ∀ e ∈ r, e.1 ≠ k := fun e he => h e (by simp [he])
      clear ih h
      induction r with
      | nil => rfl
      | cons x y ih =>
        have hx : x.1 ≠ k := hr x (by simp)
        rw [Sparse.erase, if_neg (Ne.symm hx), ih (fun e he => hr e (by simp [he]))]
    simp only [Sparse.insert]
    split
    · simp [Sparse.erase, Ne.symm ha, he]
    · simp [Sparse.erase, Ne.symm ha, ih (fun e he => h e (by simp [he]))]

omit [DecidableEq α] in
theorem Sparse.erase_erase (m : Sparse α) (k : Nat) : Sparse.erase (Sparse.erase m k) k = Sparse.erase m k := by
  induction m with
  | nil => rfl
  | cons e r ih =>
    obtain ⟨a, v⟩ := e
    simp only [Sparse.erase]
    split
    · exact ih
    · simp [Sparse.erase, *]

/-- The last of two writes of one key stands. -/
theorem Sparse.put_put (d : α) (m : Sparse α) (k : Nat) (v w : α) :
    Sparse.put d (Sparse.put d m k v) k w = Sparse.put d m k w := by
  have h : Sparse.erase (Sparse.put d m k v) k = Sparse.erase m k := by
    unfold Sparse.put
    split
    · exact Sparse.erase_erase m k
    · exact Sparse.erase_insert _ k v (Sparse.not_mem_erase m k)
  unfold Sparse.put at h ⊢
  split <;> rw [h]

omit [DecidableEq α] in
@[simp] theorem Sparse.get_nil (d : α) (k : Nat) : Sparse.get d [] k = d := rfl

/-! ### The canonical form -/

theorem Sparse.wfFrom_none {d : α} {lo : Option Nat} {m : Sparse α} (h : Sparse.wfFrom d lo m = true) :
    Sparse.wfFrom d none m = true := by
  cases m with
  | nil => rfl
  | cons e r => simp_all [Sparse.wfFrom]

theorem Sparse.wfFrom_mono {d : α} {a b : Nat} {m : Sparse α} (h : Sparse.wfFrom d (some b) m = true) (hab : a ≤ b) :
    Sparse.wfFrom d (some a) m = true := by
  cases m with
  | nil => rfl
  | cons e r =>
    simp only [Sparse.wfFrom, Bool.and_eq_true, decide_eq_true_eq] at *
    exact ⟨⟨by omega, h.1.2⟩, h.2⟩

theorem Sparse.wfFrom_erase {d : α} (k : Nat) : ∀ {lo : Option Nat} {m : Sparse α},
    Sparse.wfFrom d lo m = true → Sparse.wfFrom d lo (Sparse.erase m k) = true
  | _, [], _ => rfl
  | lo, (a, v) :: r, h => by
    have ih := fun lo => @Sparse.wfFrom_erase d k lo r
    simp only [Sparse.wfFrom, Bool.and_eq_true] at h
    simp only [Sparse.erase]
    split
    · cases lo with
      | none => exact ih _ (Sparse.wfFrom_none h.2)
      | some l => exact ih _ (Sparse.wfFrom_mono h.2 (by have := h.1.1; simp at this; omega))
    · simp only [Sparse.wfFrom, Bool.and_eq_true]
      exact ⟨h.1, ih _ h.2⟩

theorem Sparse.wfFrom_insert {d : α} {k : Nat} {v : α} (hv : v ≠ d) : ∀ {lo : Option Nat} {m : Sparse α},
    Sparse.wfFrom d lo m = true → (∀ l, lo = some l → l < k) → (∀ e ∈ m, e.1 ≠ k) →
    Sparse.wfFrom d lo (Sparse.insert m k v) = true
  | lo, [], _, hl, _ => by
    cases lo <;> simp [Sparse.insert, Sparse.wfFrom, hv, hl]
  | lo, (a, w) :: r, h, hl, hk => by
    have ha : a ≠ k := hk (a, w) (by simp)
    simp only [Sparse.wfFrom, Bool.and_eq_true] at h
    simp only [Sparse.insert]
    split
    · next hka =>
      cases lo <;> simp [Sparse.wfFrom, hv, hl, hka, h.2] <;> simpa using h.1.2
    · simp only [Sparse.wfFrom, Bool.and_eq_true]
      refine ⟨h.1, Sparse.wfFrom_insert hv h.2 (fun l hl' => ?_) (fun e he => hk e (by simp [he]))⟩
      cases hl'
      omega

/-- Writing a key keeps the canonical form. -/
theorem Sparse.put_wf {d : α} {m : Sparse α} (k : Nat) (v : α) (h : Sparse.wf d m = true) :
    Sparse.wf d (Sparse.put d m k v) = true := by
  unfold Sparse.put
  split
  · exact Sparse.wfFrom_erase k h
  · next hv => exact Sparse.wfFrom_insert hv (Sparse.wfFrom_erase k h) (by simp) (Sparse.not_mem_erase m k)

theorem Sparse.wfFrom_filter {d : α} (f : Nat × α → Bool) : ∀ {lo : Option Nat} {m : Sparse α},
    Sparse.wfFrom d lo m = true → Sparse.wfFrom d lo (m.filter f) = true
  | _, [], _ => rfl
  | lo, (a, v) :: r, h => by
    have ih := fun lo => @Sparse.wfFrom_filter d f lo r
    simp only [Sparse.wfFrom, Bool.and_eq_true] at h
    simp only [List.filter]
    split
    · simp only [Sparse.wfFrom, Bool.and_eq_true]
      exact ⟨h.1, ih _ h.2⟩
    · cases lo with
      | none => exact ih _ (Sparse.wfFrom_none h.2)
      | some l => exact ih _ (Sparse.wfFrom_mono h.2 (by have := h.1.1; simp at this; omega))

/-- Clearing a range of keys keeps the canonical form. -/
theorem Sparse.clear_wf {d : α} {m : Sparse α} (lo hi : Nat) (h : Sparse.wf d m = true) :
    Sparse.wf d (Sparse.clear m lo hi) = true := Sparse.wfFrom_filter _ h

/-! ### Memories -/

@[simp] theorem Memory.wf_nil : Memory.wf [] = true := rfl

theorem Memory.write1_wf {m : Memory} (a : Nat) (v : Byte) (h : m.wf = true) : (m.write1 a v).wf = true :=
  Sparse.put_wf a v h

theorem Memory.writeN_wf (bs : List Byte) : ∀ {m : Memory} (a : Nat), m.wf = true → (m.writeN a bs).wf = true := by
  induction bs with
  | nil => exact fun _ h => h
  | cons b r ih => exact fun a h => ih (a + 1) (Memory.write1_wf a b h)

theorem Memory.zero_wf {m : Memory} (lo hi : Nat) (h : m.wf = true) : (m.zero lo hi).wf = true := Sparse.clear_wf lo hi h

theorem Memory.write64_wf {m : Memory} (a : Nat) (v : W64) (h : m.wf = true) : (m.write64 a v).wf = true :=
  Memory.writeN_wf _ a h

theorem Memory.writeWords_wf (ws : List W64) : ∀ {m : Memory} (a : Nat), m.wf = true → (m.writeWords a ws).wf = true := by
  induction ws with
  | nil => exact fun _ h => h
  | cons w r ih => exact fun a h => ih (a + 8) (Memory.write64_wf a w h)

theorem Memory.read1_write1 (m : Memory) (a b : Nat) (v : Byte) :
    (m.write1 a v).read1 b = if b = a then v else m.read1 b := Sparse.get_put 0 m a b v

/-- A write of a run of bytes: every address outside it reads as before. -/
theorem Memory.read1_writeN_out (bs : List Byte) : ∀ (m : Memory) (a b : Nat), b < a ∨ a + bs.length ≤ b →
    (m.writeN a bs).read1 b = m.read1 b := by
  induction bs with
  | nil => intros; rfl
  | cons x r ih =>
    intro m a b h
    simp only [List.length_cons] at h
    rw [Memory.writeN, ih _ _ _ (by omega), Memory.read1_write1, if_neg (by omega)]

/-- A write of a run of bytes: the bytes are there. -/
theorem Memory.readN_writeN (bs : List Byte) : ∀ (m : Memory) (a : Nat), (m.writeN a bs).readN a bs.length = bs := by
  induction bs with
  | nil => intros; rfl
  | cons x r ih =>
    intro m a
    rw [Memory.writeN, List.length_cons, Memory.readN, ih, Memory.read1_writeN_out r _ _ _ (by omega), Memory.read1_write1]
    simp

theorem Memory.read1_zero (m : Memory) (lo hi b : Nat) :
    (m.zero lo hi).read1 b = if lo ≤ b ∧ b < hi then 0 else m.read1 b := Sparse.get_clear 0 m lo hi b

end Sys2Proof.Machine
end

