-- ==== Sys2Proof/Laws/State.lean ====
section
/-! SUPPORT. What each update of one part of the state leaves unchanged, field by field, and what it writes. -/

namespace Sys2Proof.Machine

/-! ### setRod -/

@[simp] theorem State.setRod_pending (s : State) (ph : Nat) (r : Rod) : (s.setRod ph r).pending = s.pending := rfl
@[simp] theorem State.setRod_free (s : State) (ph : Nat) (r : Rod) : (s.setRod ph r).free = s.free := rfl
@[simp] theorem State.setRod_design (s : State) (ph : Nat) (r : Rod) : (s.setRod ph r).design = s.design := rfl
@[simp] theorem State.setRod_time (s : State) (ph : Nat) (r : Rod) : (s.setRod ph r).time = s.time := rfl
@[simp] theorem State.setRod_regs (s : State) (ph : Nat) (r : Rod) : (s.setRod ph r).regs = s.regs := rfl
@[simp] theorem State.setRod_hbm (s : State) (ph : Nat) (r : Rod) : (s.setRod ph r).hbm = s.hbm := rfl
@[simp] theorem State.setRod_bead (s : State) (ph : Nat) (r : Rod) : (s.setRod ph r).bead = s.bead := rfl
@[simp] theorem State.setRod_imem (s : State) (ph : Nat) (r : Rod) : (s.setRod ph r).imem = s.imem := rfl
@[simp] theorem State.setRod_ext (s : State) (ph : Nat) (r : Rod) : (s.setRod ph r).ext = s.ext := rfl
@[simp] theorem State.setRod_boot (s : State) (ph : Nat) (r : Rod) : (s.setRod ph r).boot = s.boot := rfl
@[simp] theorem State.setRod_hbmPoison (s : State) (ph : Nat) (r : Rod) : (s.setRod ph r).hbmPoison = s.hbmPoison := rfl
@[simp] theorem State.setRod_beadPoison (s : State) (ph : Nat) (r : Rod) : (s.setRod ph r).beadPoison = s.beadPoison := rfl
@[simp] theorem State.setRod_parts (s : State) (ph : Nat) (r : Rod) : (s.setRod ph r).parts = s.parts := rfl
@[simp] theorem State.setRod_slate (s : State) (ph : Nat) (r : Rod) : (s.setRod ph r).slate = s.slate := rfl
@[simp] theorem State.setRod_tenants (s : State) (ph : Nat) (r : Rod) : (s.setRod ph r).tenants = s.tenants := rfl
@[simp] theorem State.setRod_chans (s : State) (ph : Nat) (r : Rod) : (s.setRod ph r).chans = s.chans := rfl
@[simp] theorem State.setRod_reads (s : State) (ph : Nat) (r : Rod) : (s.setRod ph r).reads = s.reads := rfl
@[simp] theorem State.setRod_tier (s : State) (ph : Nat) (r : Rod) : (s.setRod ph r).tier = s.tier := rfl
@[simp] theorem State.setRod_gth (s : State) (ph : Nat) (r : Rod) : (s.setRod ph r).gth = s.gth := rfl
@[simp] theorem State.setRod_fab (s : State) (ph : Nat) (r : Rod) : (s.setRod ph r).fab = s.fab := rfl
@[simp] theorem State.setRod_sec (s : State) (ph : Nat) (r : Rod) : (s.setRod ph r).sec = s.sec := rfl
@[simp] theorem State.setRod_flt (s : State) (ph : Nat) (r : Rod) : (s.setRod ph r).flt = s.flt := rfl
@[simp] theorem State.setRod_dbg (s : State) (ph : Nat) (r : Rod) : (s.setRod ph r).dbg = s.dbg := rfl
@[simp] theorem State.setRod_pwr (s : State) (ph : Nat) (r : Rod) : (s.setRod ph r).pwr = s.pwr := rfl
@[simp] theorem State.setRod_tst (s : State) (ph : Nat) (r : Rod) : (s.setRod ph r).tst = s.tst := rfl
@[simp] theorem State.setRod_out (s : State) (ph : Nat) (r : Rod) : (s.setRod ph r).out = s.out := rfl

/-! ### setPart -/

@[simp] theorem State.setPart_pending (s : State) (p : Nat) (x : Part) : (s.setPart p x).pending = s.pending := rfl
@[simp] theorem State.setPart_free (s : State) (p : Nat) (x : Part) : (s.setPart p x).free = s.free := rfl
@[simp] theorem State.setPart_design (s : State) (p : Nat) (x : Part) : (s.setPart p x).design = s.design := rfl
@[simp] theorem State.setPart_time (s : State) (p : Nat) (x : Part) : (s.setPart p x).time = s.time := rfl
@[simp] theorem State.setPart_regs (s : State) (p : Nat) (x : Part) : (s.setPart p x).regs = s.regs := rfl
@[simp] theorem State.setPart_hbm (s : State) (p : Nat) (x : Part) : (s.setPart p x).hbm = s.hbm := rfl
@[simp] theorem State.setPart_bead (s : State) (p : Nat) (x : Part) : (s.setPart p x).bead = s.bead := rfl
@[simp] theorem State.setPart_imem (s : State) (p : Nat) (x : Part) : (s.setPart p x).imem = s.imem := rfl
@[simp] theorem State.setPart_ext (s : State) (p : Nat) (x : Part) : (s.setPart p x).ext = s.ext := rfl
@[simp] theorem State.setPart_boot (s : State) (p : Nat) (x : Part) : (s.setPart p x).boot = s.boot := rfl
@[simp] theorem State.setPart_hbmPoison (s : State) (p : Nat) (x : Part) : (s.setPart p x).hbmPoison = s.hbmPoison := rfl
@[simp] theorem State.setPart_beadPoison (s : State) (p : Nat) (x : Part) : (s.setPart p x).beadPoison = s.beadPoison := rfl
@[simp] theorem State.setPart_rods (s : State) (p : Nat) (x : Part) : (s.setPart p x).rods = s.rods := rfl
@[simp] theorem State.setPart_slate (s : State) (p : Nat) (x : Part) : (s.setPart p x).slate = s.slate := rfl
@[simp] theorem State.setPart_tenants (s : State) (p : Nat) (x : Part) : (s.setPart p x).tenants = s.tenants := rfl
@[simp] theorem State.setPart_chans (s : State) (p : Nat) (x : Part) : (s.setPart p x).chans = s.chans := rfl
@[simp] theorem State.setPart_reads (s : State) (p : Nat) (x : Part) : (s.setPart p x).reads = s.reads := rfl
@[simp] theorem State.setPart_tier (s : State) (p : Nat) (x : Part) : (s.setPart p x).tier = s.tier := rfl
@[simp] theorem State.setPart_gth (s : State) (p : Nat) (x : Part) : (s.setPart p x).gth = s.gth := rfl
@[simp] theorem State.setPart_fab (s : State) (p : Nat) (x : Part) : (s.setPart p x).fab = s.fab := rfl
@[simp] theorem State.setPart_sec (s : State) (p : Nat) (x : Part) : (s.setPart p x).sec = s.sec := rfl
@[simp] theorem State.setPart_flt (s : State) (p : Nat) (x : Part) : (s.setPart p x).flt = s.flt := rfl
@[simp] theorem State.setPart_dbg (s : State) (p : Nat) (x : Part) : (s.setPart p x).dbg = s.dbg := rfl
@[simp] theorem State.setPart_pwr (s : State) (p : Nat) (x : Part) : (s.setPart p x).pwr = s.pwr := rfl
@[simp] theorem State.setPart_tst (s : State) (p : Nat) (x : Part) : (s.setPart p x).tst = s.tst := rfl
@[simp] theorem State.setPart_out (s : State) (p : Nat) (x : Part) : (s.setPart p x).out = s.out := rfl

/-! ### setSlot -/

@[simp] theorem State.setSlot_pending (s : State) (i : Nat) (x : Slot) : (s.setSlot i x).pending = s.pending := rfl
@[simp] theorem State.setSlot_free (s : State) (i : Nat) (x : Slot) : (s.setSlot i x).free = s.free := rfl
@[simp] theorem State.setSlot_design (s : State) (i : Nat) (x : Slot) : (s.setSlot i x).design = s.design := rfl
@[simp] theorem State.setSlot_time (s : State) (i : Nat) (x : Slot) : (s.setSlot i x).time = s.time := rfl
@[simp] theorem State.setSlot_regs (s : State) (i : Nat) (x : Slot) : (s.setSlot i x).regs = s.regs := rfl
@[simp] theorem State.setSlot_hbm (s : State) (i : Nat) (x : Slot) : (s.setSlot i x).hbm = s.hbm := rfl
@[simp] theorem State.setSlot_bead (s : State) (i : Nat) (x : Slot) : (s.setSlot i x).bead = s.bead := rfl
@[simp] theorem State.setSlot_imem (s : State) (i : Nat) (x : Slot) : (s.setSlot i x).imem = s.imem := rfl
@[simp] theorem State.setSlot_ext (s : State) (i : Nat) (x : Slot) : (s.setSlot i x).ext = s.ext := rfl
@[simp] theorem State.setSlot_boot (s : State) (i : Nat) (x : Slot) : (s.setSlot i x).boot = s.boot := rfl
@[simp] theorem State.setSlot_hbmPoison (s : State) (i : Nat) (x : Slot) : (s.setSlot i x).hbmPoison = s.hbmPoison := rfl
@[simp] theorem State.setSlot_beadPoison (s : State) (i : Nat) (x : Slot) : (s.setSlot i x).beadPoison = s.beadPoison := rfl
@[simp] theorem State.setSlot_rods (s : State) (i : Nat) (x : Slot) : (s.setSlot i x).rods = s.rods := rfl
@[simp] theorem State.setSlot_parts (s : State) (i : Nat) (x : Slot) : (s.setSlot i x).parts = s.parts := rfl
@[simp] theorem State.setSlot_tenants (s : State) (i : Nat) (x : Slot) : (s.setSlot i x).tenants = s.tenants := rfl
@[simp] theorem State.setSlot_chans (s : State) (i : Nat) (x : Slot) : (s.setSlot i x).chans = s.chans := rfl
@[simp] theorem State.setSlot_reads (s : State) (i : Nat) (x : Slot) : (s.setSlot i x).reads = s.reads := rfl
@[simp] theorem State.setSlot_tier (s : State) (i : Nat) (x : Slot) : (s.setSlot i x).tier = s.tier := rfl
@[simp] theorem State.setSlot_gth (s : State) (i : Nat) (x : Slot) : (s.setSlot i x).gth = s.gth := rfl
@[simp] theorem State.setSlot_fab (s : State) (i : Nat) (x : Slot) : (s.setSlot i x).fab = s.fab := rfl
@[simp] theorem State.setSlot_sec (s : State) (i : Nat) (x : Slot) : (s.setSlot i x).sec = s.sec := rfl
@[simp] theorem State.setSlot_flt (s : State) (i : Nat) (x : Slot) : (s.setSlot i x).flt = s.flt := rfl
@[simp] theorem State.setSlot_dbg (s : State) (i : Nat) (x : Slot) : (s.setSlot i x).dbg = s.dbg := rfl
@[simp] theorem State.setSlot_pwr (s : State) (i : Nat) (x : Slot) : (s.setSlot i x).pwr = s.pwr := rfl
@[simp] theorem State.setSlot_tst (s : State) (i : Nat) (x : Slot) : (s.setSlot i x).tst = s.tst := rfl
@[simp] theorem State.setSlot_out (s : State) (i : Nat) (x : Slot) : (s.setSlot i x).out = s.out := rfl

/-! ### setTen -/

@[simp] theorem State.setTen_pending (s : State) (t : Nat) (x : Tenant) : (s.setTen t x).pending = s.pending := rfl
@[simp] theorem State.setTen_free (s : State) (t : Nat) (x : Tenant) : (s.setTen t x).free = s.free := rfl
@[simp] theorem State.setTen_design (s : State) (t : Nat) (x : Tenant) : (s.setTen t x).design = s.design := rfl
@[simp] theorem State.setTen_time (s : State) (t : Nat) (x : Tenant) : (s.setTen t x).time = s.time := rfl
@[simp] theorem State.setTen_regs (s : State) (t : Nat) (x : Tenant) : (s.setTen t x).regs = s.regs := rfl
@[simp] theorem State.setTen_hbm (s : State) (t : Nat) (x : Tenant) : (s.setTen t x).hbm = s.hbm := rfl
@[simp] theorem State.setTen_bead (s : State) (t : Nat) (x : Tenant) : (s.setTen t x).bead = s.bead := rfl
@[simp] theorem State.setTen_imem (s : State) (t : Nat) (x : Tenant) : (s.setTen t x).imem = s.imem := rfl
@[simp] theorem State.setTen_ext (s : State) (t : Nat) (x : Tenant) : (s.setTen t x).ext = s.ext := rfl
@[simp] theorem State.setTen_boot (s : State) (t : Nat) (x : Tenant) : (s.setTen t x).boot = s.boot := rfl
@[simp] theorem State.setTen_hbmPoison (s : State) (t : Nat) (x : Tenant) : (s.setTen t x).hbmPoison = s.hbmPoison := rfl
@[simp] theorem State.setTen_beadPoison (s : State) (t : Nat) (x : Tenant) : (s.setTen t x).beadPoison = s.beadPoison := rfl
@[simp] theorem State.setTen_rods (s : State) (t : Nat) (x : Tenant) : (s.setTen t x).rods = s.rods := rfl
@[simp] theorem State.setTen_parts (s : State) (t : Nat) (x : Tenant) : (s.setTen t x).parts = s.parts := rfl
@[simp] theorem State.setTen_slate (s : State) (t : Nat) (x : Tenant) : (s.setTen t x).slate = s.slate := rfl
@[simp] theorem State.setTen_chans (s : State) (t : Nat) (x : Tenant) : (s.setTen t x).chans = s.chans := rfl
@[simp] theorem State.setTen_reads (s : State) (t : Nat) (x : Tenant) : (s.setTen t x).reads = s.reads := rfl
@[simp] theorem State.setTen_tier (s : State) (t : Nat) (x : Tenant) : (s.setTen t x).tier = s.tier := rfl
@[simp] theorem State.setTen_gth (s : State) (t : Nat) (x : Tenant) : (s.setTen t x).gth = s.gth := rfl
@[simp] theorem State.setTen_fab (s : State) (t : Nat) (x : Tenant) : (s.setTen t x).fab = s.fab := rfl
@[simp] theorem State.setTen_sec (s : State) (t : Nat) (x : Tenant) : (s.setTen t x).sec = s.sec := rfl
@[simp] theorem State.setTen_flt (s : State) (t : Nat) (x : Tenant) : (s.setTen t x).flt = s.flt := rfl
@[simp] theorem State.setTen_dbg (s : State) (t : Nat) (x : Tenant) : (s.setTen t x).dbg = s.dbg := rfl
@[simp] theorem State.setTen_pwr (s : State) (t : Nat) (x : Tenant) : (s.setTen t x).pwr = s.pwr := rfl
@[simp] theorem State.setTen_tst (s : State) (t : Nat) (x : Tenant) : (s.setTen t x).tst = s.tst := rfl
@[simp] theorem State.setTen_out (s : State) (t : Nat) (x : Tenant) : (s.setTen t x).out = s.out := rfl

/-! ### setChan -/

@[simp] theorem State.setChan_pending (s : State) (c : Nat) (x : Chan) : (s.setChan c x).pending = s.pending := rfl
@[simp] theorem State.setChan_free (s : State) (c : Nat) (x : Chan) : (s.setChan c x).free = s.free := rfl
@[simp] theorem State.setChan_design (s : State) (c : Nat) (x : Chan) : (s.setChan c x).design = s.design := rfl
@[simp] theorem State.setChan_time (s : State) (c : Nat) (x : Chan) : (s.setChan c x).time = s.time := rfl
@[simp] theorem State.setChan_regs (s : State) (c : Nat) (x : Chan) : (s.setChan c x).regs = s.regs := rfl
@[simp] theorem State.setChan_hbm (s : State) (c : Nat) (x : Chan) : (s.setChan c x).hbm = s.hbm := rfl
@[simp] theorem State.setChan_bead (s : State) (c : Nat) (x : Chan) : (s.setChan c x).bead = s.bead := rfl
@[simp] theorem State.setChan_imem (s : State) (c : Nat) (x : Chan) : (s.setChan c x).imem = s.imem := rfl
@[simp] theorem State.setChan_ext (s : State) (c : Nat) (x : Chan) : (s.setChan c x).ext = s.ext := rfl
@[simp] theorem State.setChan_boot (s : State) (c : Nat) (x : Chan) : (s.setChan c x).boot = s.boot := rfl
@[simp] theorem State.setChan_hbmPoison (s : State) (c : Nat) (x : Chan) : (s.setChan c x).hbmPoison = s.hbmPoison := rfl
@[simp] theorem State.setChan_beadPoison (s : State) (c : Nat) (x : Chan) : (s.setChan c x).beadPoison = s.beadPoison := rfl
@[simp] theorem State.setChan_rods (s : State) (c : Nat) (x : Chan) : (s.setChan c x).rods = s.rods := rfl
@[simp] theorem State.setChan_parts (s : State) (c : Nat) (x : Chan) : (s.setChan c x).parts = s.parts := rfl
@[simp] theorem State.setChan_slate (s : State) (c : Nat) (x : Chan) : (s.setChan c x).slate = s.slate := rfl
@[simp] theorem State.setChan_tenants (s : State) (c : Nat) (x : Chan) : (s.setChan c x).tenants = s.tenants := rfl
@[simp] theorem State.setChan_reads (s : State) (c : Nat) (x : Chan) : (s.setChan c x).reads = s.reads := rfl
@[simp] theorem State.setChan_tier (s : State) (c : Nat) (x : Chan) : (s.setChan c x).tier = s.tier := rfl
@[simp] theorem State.setChan_gth (s : State) (c : Nat) (x : Chan) : (s.setChan c x).gth = s.gth := rfl
@[simp] theorem State.setChan_fab (s : State) (c : Nat) (x : Chan) : (s.setChan c x).fab = s.fab := rfl
@[simp] theorem State.setChan_sec (s : State) (c : Nat) (x : Chan) : (s.setChan c x).sec = s.sec := rfl
@[simp] theorem State.setChan_flt (s : State) (c : Nat) (x : Chan) : (s.setChan c x).flt = s.flt := rfl
@[simp] theorem State.setChan_dbg (s : State) (c : Nat) (x : Chan) : (s.setChan c x).dbg = s.dbg := rfl
@[simp] theorem State.setChan_pwr (s : State) (c : Nat) (x : Chan) : (s.setChan c x).pwr = s.pwr := rfl
@[simp] theorem State.setChan_tst (s : State) (c : Nat) (x : Chan) : (s.setChan c x).tst = s.tst := rfl
@[simp] theorem State.setChan_out (s : State) (c : Nat) (x : Chan) : (s.setChan c x).out = s.out := rfl

/-! ### setPort -/

@[simp] theorem State.setPort_pending (s : State) (p : Nat) (x : Port) : (s.setPort p x).pending = s.pending := rfl
@[simp] theorem State.setPort_free (s : State) (p : Nat) (x : Port) : (s.setPort p x).free = s.free := rfl
@[simp] theorem State.setPort_design (s : State) (p : Nat) (x : Port) : (s.setPort p x).design = s.design := rfl
@[simp] theorem State.setPort_time (s : State) (p : Nat) (x : Port) : (s.setPort p x).time = s.time := rfl
@[simp] theorem State.setPort_regs (s : State) (p : Nat) (x : Port) : (s.setPort p x).regs = s.regs := rfl
@[simp] theorem State.setPort_hbm (s : State) (p : Nat) (x : Port) : (s.setPort p x).hbm = s.hbm := rfl
@[simp] theorem State.setPort_bead (s : State) (p : Nat) (x : Port) : (s.setPort p x).bead = s.bead := rfl
@[simp] theorem State.setPort_imem (s : State) (p : Nat) (x : Port) : (s.setPort p x).imem = s.imem := rfl
@[simp] theorem State.setPort_ext (s : State) (p : Nat) (x : Port) : (s.setPort p x).ext = s.ext := rfl
@[simp] theorem State.setPort_boot (s : State) (p : Nat) (x : Port) : (s.setPort p x).boot = s.boot := rfl
@[simp] theorem State.setPort_hbmPoison (s : State) (p : Nat) (x : Port) : (s.setPort p x).hbmPoison = s.hbmPoison := rfl
@[simp] theorem State.setPort_beadPoison (s : State) (p : Nat) (x : Port) : (s.setPort p x).beadPoison = s.beadPoison := rfl
@[simp] theorem State.setPort_rods (s : State) (p : Nat) (x : Port) : (s.setPort p x).rods = s.rods := rfl
@[simp] theorem State.setPort_parts (s : State) (p : Nat) (x : Port) : (s.setPort p x).parts = s.parts := rfl
@[simp] theorem State.setPort_slate (s : State) (p : Nat) (x : Port) : (s.setPort p x).slate = s.slate := rfl
@[simp] theorem State.setPort_tenants (s : State) (p : Nat) (x : Port) : (s.setPort p x).tenants = s.tenants := rfl
@[simp] theorem State.setPort_chans (s : State) (p : Nat) (x : Port) : (s.setPort p x).chans = s.chans := rfl
@[simp] theorem State.setPort_reads (s : State) (p : Nat) (x : Port) : (s.setPort p x).reads = s.reads := rfl
@[simp] theorem State.setPort_tier (s : State) (p : Nat) (x : Port) : (s.setPort p x).tier = s.tier := rfl
@[simp] theorem State.setPort_gth (s : State) (p : Nat) (x : Port) : (s.setPort p x).gth = s.gth := rfl
@[simp] theorem State.setPort_sec (s : State) (p : Nat) (x : Port) : (s.setPort p x).sec = s.sec := rfl
@[simp] theorem State.setPort_flt (s : State) (p : Nat) (x : Port) : (s.setPort p x).flt = s.flt := rfl
@[simp] theorem State.setPort_dbg (s : State) (p : Nat) (x : Port) : (s.setPort p x).dbg = s.dbg := rfl
@[simp] theorem State.setPort_pwr (s : State) (p : Nat) (x : Port) : (s.setPort p x).pwr = s.pwr := rfl
@[simp] theorem State.setPort_tst (s : State) (p : Nat) (x : Port) : (s.setPort p x).tst = s.tst := rfl
@[simp] theorem State.setPort_out (s : State) (p : Nat) (x : Port) : (s.setPort p x).out = s.out := rfl

/-! ### setPeer -/

@[simp] theorem State.setPeer_pending (s : State) (k : Nat) (x : Peer) : (s.setPeer k x).pending = s.pending := rfl
@[simp] theorem State.setPeer_free (s : State) (k : Nat) (x : Peer) : (s.setPeer k x).free = s.free := rfl
@[simp] theorem State.setPeer_design (s : State) (k : Nat) (x : Peer) : (s.setPeer k x).design = s.design := rfl
@[simp] theorem State.setPeer_time (s : State) (k : Nat) (x : Peer) : (s.setPeer k x).time = s.time := rfl
@[simp] theorem State.setPeer_regs (s : State) (k : Nat) (x : Peer) : (s.setPeer k x).regs = s.regs := rfl
@[simp] theorem State.setPeer_hbm (s : State) (k : Nat) (x : Peer) : (s.setPeer k x).hbm = s.hbm := rfl
@[simp] theorem State.setPeer_bead (s : State) (k : Nat) (x : Peer) : (s.setPeer k x).bead = s.bead := rfl
@[simp] theorem State.setPeer_imem (s : State) (k : Nat) (x : Peer) : (s.setPeer k x).imem = s.imem := rfl
@[simp] theorem State.setPeer_ext (s : State) (k : Nat) (x : Peer) : (s.setPeer k x).ext = s.ext := rfl
@[simp] theorem State.setPeer_boot (s : State) (k : Nat) (x : Peer) : (s.setPeer k x).boot = s.boot := rfl
@[simp] theorem State.setPeer_hbmPoison (s : State) (k : Nat) (x : Peer) : (s.setPeer k x).hbmPoison = s.hbmPoison := rfl
@[simp] theorem State.setPeer_beadPoison (s : State) (k : Nat) (x : Peer) : (s.setPeer k x).beadPoison = s.beadPoison := rfl
@[simp] theorem State.setPeer_rods (s : State) (k : Nat) (x : Peer) : (s.setPeer k x).rods = s.rods := rfl
@[simp] theorem State.setPeer_parts (s : State) (k : Nat) (x : Peer) : (s.setPeer k x).parts = s.parts := rfl
@[simp] theorem State.setPeer_slate (s : State) (k : Nat) (x : Peer) : (s.setPeer k x).slate = s.slate := rfl
@[simp] theorem State.setPeer_tenants (s : State) (k : Nat) (x : Peer) : (s.setPeer k x).tenants = s.tenants := rfl
@[simp] theorem State.setPeer_chans (s : State) (k : Nat) (x : Peer) : (s.setPeer k x).chans = s.chans := rfl
@[simp] theorem State.setPeer_reads (s : State) (k : Nat) (x : Peer) : (s.setPeer k x).reads = s.reads := rfl
@[simp] theorem State.setPeer_tier (s : State) (k : Nat) (x : Peer) : (s.setPeer k x).tier = s.tier := rfl
@[simp] theorem State.setPeer_gth (s : State) (k : Nat) (x : Peer) : (s.setPeer k x).gth = s.gth := rfl
@[simp] theorem State.setPeer_sec (s : State) (k : Nat) (x : Peer) : (s.setPeer k x).sec = s.sec := rfl
@[simp] theorem State.setPeer_flt (s : State) (k : Nat) (x : Peer) : (s.setPeer k x).flt = s.flt := rfl
@[simp] theorem State.setPeer_dbg (s : State) (k : Nat) (x : Peer) : (s.setPeer k x).dbg = s.dbg := rfl
@[simp] theorem State.setPeer_pwr (s : State) (k : Nat) (x : Peer) : (s.setPeer k x).pwr = s.pwr := rfl
@[simp] theorem State.setPeer_tst (s : State) (k : Nat) (x : Peer) : (s.setPeer k x).tst = s.tst := rfl
@[simp] theorem State.setPeer_out (s : State) (k : Nat) (x : Peer) : (s.setPeer k x).out = s.out := rfl

/-! ### setReg -/

@[simp] theorem State.setReg_pending (s : State) (off : Nat) (v : W64) : (s.setReg off v).pending = s.pending := rfl
@[simp] theorem State.setReg_free (s : State) (off : Nat) (v : W64) : (s.setReg off v).free = s.free := rfl
@[simp] theorem State.setReg_design (s : State) (off : Nat) (v : W64) : (s.setReg off v).design = s.design := rfl
@[simp] theorem State.setReg_time (s : State) (off : Nat) (v : W64) : (s.setReg off v).time = s.time := rfl
@[simp] theorem State.setReg_hbm (s : State) (off : Nat) (v : W64) : (s.setReg off v).hbm = s.hbm := rfl
@[simp] theorem State.setReg_bead (s : State) (off : Nat) (v : W64) : (s.setReg off v).bead = s.bead := rfl
@[simp] theorem State.setReg_imem (s : State) (off : Nat) (v : W64) : (s.setReg off v).imem = s.imem := rfl
@[simp] theorem State.setReg_ext (s : State) (off : Nat) (v : W64) : (s.setReg off v).ext = s.ext := rfl
@[simp] theorem State.setReg_boot (s : State) (off : Nat) (v : W64) : (s.setReg off v).boot = s.boot := rfl
@[simp] theorem State.setReg_hbmPoison (s : State) (off : Nat) (v : W64) : (s.setReg off v).hbmPoison = s.hbmPoison := rfl
@[simp] theorem State.setReg_beadPoison (s : State) (off : Nat) (v : W64) : (s.setReg off v).beadPoison = s.beadPoison := rfl
@[simp] theorem State.setReg_rods (s : State) (off : Nat) (v : W64) : (s.setReg off v).rods = s.rods := rfl
@[simp] theorem State.setReg_parts (s : State) (off : Nat) (v : W64) : (s.setReg off v).parts = s.parts := rfl
@[simp] theorem State.setReg_slate (s : State) (off : Nat) (v : W64) : (s.setReg off v).slate = s.slate := rfl
@[simp] theorem State.setReg_tenants (s : State) (off : Nat) (v : W64) : (s.setReg off v).tenants = s.tenants := rfl
@[simp] theorem State.setReg_chans (s : State) (off : Nat) (v : W64) : (s.setReg off v).chans = s.chans := rfl
@[simp] theorem State.setReg_reads (s : State) (off : Nat) (v : W64) : (s.setReg off v).reads = s.reads := rfl
@[simp] theorem State.setReg_tier (s : State) (off : Nat) (v : W64) : (s.setReg off v).tier = s.tier := rfl
@[simp] theorem State.setReg_gth (s : State) (off : Nat) (v : W64) : (s.setReg off v).gth = s.gth := rfl
@[simp] theorem State.setReg_fab (s : State) (off : Nat) (v : W64) : (s.setReg off v).fab = s.fab := rfl
@[simp] theorem State.setReg_sec (s : State) (off : Nat) (v : W64) : (s.setReg off v).sec = s.sec := rfl
@[simp] theorem State.setReg_flt (s : State) (off : Nat) (v : W64) : (s.setReg off v).flt = s.flt := rfl
@[simp] theorem State.setReg_dbg (s : State) (off : Nat) (v : W64) : (s.setReg off v).dbg = s.dbg := rfl
@[simp] theorem State.setReg_pwr (s : State) (off : Nat) (v : W64) : (s.setReg off v).pwr = s.pwr := rfl
@[simp] theorem State.setReg_tst (s : State) (off : Nat) (v : W64) : (s.setReg off v).tst = s.tst := rfl
@[simp] theorem State.setReg_out (s : State) (off : Nat) (v : W64) : (s.setReg off v).out = s.out := rfl

/-! ### send -/

@[simp] theorem State.send_pending (s : State) (o : Output) : (s.send o).pending = s.pending := rfl
@[simp] theorem State.send_free (s : State) (o : Output) : (s.send o).free = s.free := rfl
@[simp] theorem State.send_design (s : State) (o : Output) : (s.send o).design = s.design := rfl
@[simp] theorem State.send_time (s : State) (o : Output) : (s.send o).time = s.time := rfl
@[simp] theorem State.send_regs (s : State) (o : Output) : (s.send o).regs = s.regs := rfl
@[simp] theorem State.send_hbm (s : State) (o : Output) : (s.send o).hbm = s.hbm := rfl
@[simp] theorem State.send_bead (s : State) (o : Output) : (s.send o).bead = s.bead := rfl
@[simp] theorem State.send_imem (s : State) (o : Output) : (s.send o).imem = s.imem := rfl
@[simp] theorem State.send_ext (s : State) (o : Output) : (s.send o).ext = s.ext := rfl
@[simp] theorem State.send_boot (s : State) (o : Output) : (s.send o).boot = s.boot := rfl
@[simp] theorem State.send_hbmPoison (s : State) (o : Output) : (s.send o).hbmPoison = s.hbmPoison := rfl
@[simp] theorem State.send_beadPoison (s : State) (o : Output) : (s.send o).beadPoison = s.beadPoison := rfl
@[simp] theorem State.send_rods (s : State) (o : Output) : (s.send o).rods = s.rods := rfl
@[simp] theorem State.send_parts (s : State) (o : Output) : (s.send o).parts = s.parts := rfl
@[simp] theorem State.send_slate (s : State) (o : Output) : (s.send o).slate = s.slate := rfl
@[simp] theorem State.send_tenants (s : State) (o : Output) : (s.send o).tenants = s.tenants := rfl
@[simp] theorem State.send_chans (s : State) (o : Output) : (s.send o).chans = s.chans := rfl
@[simp] theorem State.send_reads (s : State) (o : Output) : (s.send o).reads = s.reads := rfl
@[simp] theorem State.send_tier (s : State) (o : Output) : (s.send o).tier = s.tier := rfl
@[simp] theorem State.send_gth (s : State) (o : Output) : (s.send o).gth = s.gth := rfl
@[simp] theorem State.send_fab (s : State) (o : Output) : (s.send o).fab = s.fab := rfl
@[simp] theorem State.send_sec (s : State) (o : Output) : (s.send o).sec = s.sec := rfl
@[simp] theorem State.send_flt (s : State) (o : Output) : (s.send o).flt = s.flt := rfl
@[simp] theorem State.send_dbg (s : State) (o : Output) : (s.send o).dbg = s.dbg := rfl
@[simp] theorem State.send_pwr (s : State) (o : Output) : (s.send o).pwr = s.pwr := rfl
@[simp] theorem State.send_tst (s : State) (o : Output) : (s.send o).tst = s.tst := rfl

/-! ### What the updates write -/

@[simp] theorem State.rod_setRod (s : State) (k : Nat) (x : Rod) : (s.setRod k x).rod k = x := Sparse.get_put_self _ _ _ _
theorem State.rod_setRod_ne (s : State) {k j : Nat} (x : Rod) (h : j ≠ k) : (s.setRod k x).rod j = s.rod j := Sparse.get_put_ne _ _ _ _ h
@[simp] theorem State.part_setPart (s : State) (k : Nat) (x : Part) : (s.setPart k x).part k = x := Sparse.get_put_self _ _ _ _
theorem State.part_setPart_ne (s : State) {k j : Nat} (x : Part) (h : j ≠ k) : (s.setPart k x).part j = s.part j := Sparse.get_put_ne _ _ _ _ h
@[simp] theorem State.slot_setSlot (s : State) (k : Nat) (x : Slot) : (s.setSlot k x).slot k = x := Sparse.get_put_self _ _ _ _
theorem State.slot_setSlot_ne (s : State) {k j : Nat} (x : Slot) (h : j ≠ k) : (s.setSlot k x).slot j = s.slot j := Sparse.get_put_ne _ _ _ _ h
@[simp] theorem State.ten_setTen (s : State) (k : Nat) (x : Tenant) : (s.setTen k x).ten k = x := Sparse.get_put_self _ _ _ _
theorem State.ten_setTen_ne (s : State) {k j : Nat} (x : Tenant) (h : j ≠ k) : (s.setTen k x).ten j = s.ten j := Sparse.get_put_ne _ _ _ _ h
@[simp] theorem State.chan_setChan (s : State) (k : Nat) (x : Chan) : (s.setChan k x).chan k = x := Sparse.get_put_self _ _ _ _
theorem State.chan_setChan_ne (s : State) {k j : Nat} (x : Chan) (h : j ≠ k) : (s.setChan k x).chan j = s.chan j := Sparse.get_put_ne _ _ _ _ h
@[simp] theorem State.port_setPort (s : State) (k : Nat) (x : Port) : (s.setPort k x).port k = x := Sparse.get_put_self _ _ _ _
theorem State.port_setPort_ne (s : State) {k j : Nat} (x : Port) (h : j ≠ k) : (s.setPort k x).port j = s.port j := Sparse.get_put_ne _ _ _ _ h
@[simp] theorem State.peer_setPeer (s : State) (k : Nat) (x : Peer) : (s.setPeer k x).peer k = x := Sparse.get_put_self _ _ _ _
theorem State.peer_setPeer_ne (s : State) {k j : Nat} (x : Peer) (h : j ≠ k) : (s.setPeer k x).peer j = s.peer j := Sparse.get_put_ne _ _ _ _ h

@[simp] theorem State.rd_setReg (s : State) (o : Nat) (v : W64) : (s.setReg o v).rd o = v := Sparse.get_put_self _ _ _ _
theorem State.rd_setReg_ne (s : State) {o o' : Nat} (v : W64) (h : o' ≠ o) : (s.setReg o v).rd o' = s.rd o' :=
  Sparse.get_put_ne _ _ _ _ h

@[simp] theorem State.setRod_setRod (s : State) (k : Nat) (x y : Rod) : (s.setRod k x).setRod k y = s.setRod k y := by
  simp [State.setRod, Sparse.put_put]
@[simp] theorem State.setPart_setPart (s : State) (k : Nat) (x y : Part) : (s.setPart k x).setPart k y = s.setPart k y := by
  simp [State.setPart, Sparse.put_put]
@[simp] theorem State.setSlot_setSlot (s : State) (k : Nat) (x y : Slot) : (s.setSlot k x).setSlot k y = s.setSlot k y := by
  simp [State.setSlot, Sparse.put_put]
@[simp] theorem State.setTen_setTen (s : State) (k : Nat) (x y : Tenant) : (s.setTen k x).setTen k y = s.setTen k y := by
  simp [State.setTen, Sparse.put_put]
@[simp] theorem State.setChan_setChan (s : State) (k : Nat) (x y : Chan) : (s.setChan k x).setChan k y = s.setChan k y := by
  simp [State.setChan, Sparse.put_put]
@[simp] theorem State.setPort_setPort (s : State) (k : Nat) (x y : Port) : (s.setPort k x).setPort k y = s.setPort k y := by
  simp [State.setPort, Sparse.put_put]
@[simp] theorem State.setPeer_setPeer (s : State) (k : Nat) (x y : Peer) : (s.setPeer k x).setPeer k y = s.setPeer k y := by
  simp [State.setPeer, Sparse.put_put]
@[simp] theorem State.setReg_setReg (s : State) (o : Nat) (v w : W64) : (s.setReg o v).setReg o w = s.setReg o w := by
  simp [State.setReg, Sparse.put_put]

/-! ### Reads through an update of another part -/

@[simp] theorem State.setRod_part (s : State) (ph : Nat) (r : Rod) (j : Nat) : (s.setRod ph r).part j = s.part j := rfl
@[simp] theorem State.setRod_slot (s : State) (ph : Nat) (r : Rod) (j : Nat) : (s.setRod ph r).slot j = s.slot j := rfl
@[simp] theorem State.setRod_ten (s : State) (ph : Nat) (r : Rod) (j : Nat) : (s.setRod ph r).ten j = s.ten j := rfl
@[simp] theorem State.setRod_chan (s : State) (ph : Nat) (r : Rod) (j : Nat) : (s.setRod ph r).chan j = s.chan j := rfl
@[simp] theorem State.setRod_port (s : State) (ph : Nat) (r : Rod) (j : Nat) : (s.setRod ph r).port j = s.port j := rfl
@[simp] theorem State.setRod_peer (s : State) (ph : Nat) (r : Rod) (j : Nat) : (s.setRod ph r).peer j = s.peer j := rfl
@[simp] theorem State.setRod_rd (s : State) (ph : Nat) (r : Rod) (j : Nat) : (s.setRod ph r).rd j = s.rd j := rfl
@[simp] theorem State.setPart_rod (s : State) (p : Nat) (x : Part) (j : Nat) : (s.setPart p x).rod j = s.rod j := rfl
@[simp] theorem State.setPart_slot (s : State) (p : Nat) (x : Part) (j : Nat) : (s.setPart p x).slot j = s.slot j := rfl
@[simp] theorem State.setPart_ten (s : State) (p : Nat) (x : Part) (j : Nat) : (s.setPart p x).ten j = s.ten j := rfl
@[simp] theorem State.setPart_chan (s : State) (p : Nat) (x : Part) (j : Nat) : (s.setPart p x).chan j = s.chan j := rfl
@[simp] theorem State.setPart_port (s : State) (p : Nat) (x : Part) (j : Nat) : (s.setPart p x).port j = s.port j := rfl
@[simp] theorem State.setPart_peer (s : State) (p : Nat) (x : Part) (j : Nat) : (s.setPart p x).peer j = s.peer j := rfl
@[simp] theorem State.setPart_rd (s : State) (p : Nat) (x : Part) (j : Nat) : (s.setPart p x).rd j = s.rd j := rfl
@[simp] theorem State.setSlot_rod (s : State) (i : Nat) (x : Slot) (j : Nat) : (s.setSlot i x).rod j = s.rod j := rfl
@[simp] theorem State.setSlot_part (s : State) (i : Nat) (x : Slot) (j : Nat) : (s.setSlot i x).part j = s.part j := rfl
@[simp] theorem State.setSlot_ten (s : State) (i : Nat) (x : Slot) (j : Nat) : (s.setSlot i x).ten j = s.ten j := rfl
@[simp] theorem State.setSlot_chan (s : State) (i : Nat) (x : Slot) (j : Nat) : (s.setSlot i x).chan j = s.chan j := rfl
@[simp] theorem State.setSlot_port (s : State) (i : Nat) (x : Slot) (j : Nat) : (s.setSlot i x).port j = s.port j := rfl
@[simp] theorem State.setSlot_peer (s : State) (i : Nat) (x : Slot) (j : Nat) : (s.setSlot i x).peer j = s.peer j := rfl
@[simp] theorem State.setSlot_rd (s : State) (i : Nat) (x : Slot) (j : Nat) : (s.setSlot i x).rd j = s.rd j := rfl
@[simp] theorem State.setTen_rod (s : State) (t : Nat) (x : Tenant) (j : Nat) : (s.setTen t x).rod j = s.rod j := rfl
@[simp] theorem State.setTen_part (s : State) (t : Nat) (x : Tenant) (j : Nat) : (s.setTen t x).part j = s.part j := rfl
@[simp] theorem State.setTen_slot (s : State) (t : Nat) (x : Tenant) (j : Nat) : (s.setTen t x).slot j = s.slot j := rfl
@[simp] theorem State.setTen_chan (s : State) (t : Nat) (x : Tenant) (j : Nat) : (s.setTen t x).chan j = s.chan j := rfl
@[simp] theorem State.setTen_port (s : State) (t : Nat) (x : Tenant) (j : Nat) : (s.setTen t x).port j = s.port j := rfl
@[simp] theorem State.setTen_peer (s : State) (t : Nat) (x : Tenant) (j : Nat) : (s.setTen t x).peer j = s.peer j := rfl
@[simp] theorem State.setTen_rd (s : State) (t : Nat) (x : Tenant) (j : Nat) : (s.setTen t x).rd j = s.rd j := rfl
@[simp] theorem State.setChan_rod (s : State) (c : Nat) (x : Chan) (j : Nat) : (s.setChan c x).rod j = s.rod j := rfl
@[simp] theorem State.setChan_part (s : State) (c : Nat) (x : Chan) (j : Nat) : (s.setChan c x).part j = s.part j := rfl
@[simp] theorem State.setChan_slot (s : State) (c : Nat) (x : Chan) (j : Nat) : (s.setChan c x).slot j = s.slot j := rfl
@[simp] theorem State.setChan_ten (s : State) (c : Nat) (x : Chan) (j : Nat) : (s.setChan c x).ten j = s.ten j := rfl
@[simp] theorem State.setChan_port (s : State) (c : Nat) (x : Chan) (j : Nat) : (s.setChan c x).port j = s.port j := rfl
@[simp] theorem State.setChan_peer (s : State) (c : Nat) (x : Chan) (j : Nat) : (s.setChan c x).peer j = s.peer j := rfl
@[simp] theorem State.setChan_rd (s : State) (c : Nat) (x : Chan) (j : Nat) : (s.setChan c x).rd j = s.rd j := rfl
@[simp] theorem State.setPort_rod (s : State) (p : Nat) (x : Port) (j : Nat) : (s.setPort p x).rod j = s.rod j := rfl
@[simp] theorem State.setPort_part (s : State) (p : Nat) (x : Port) (j : Nat) : (s.setPort p x).part j = s.part j := rfl
@[simp] theorem State.setPort_slot (s : State) (p : Nat) (x : Port) (j : Nat) : (s.setPort p x).slot j = s.slot j := rfl
@[simp] theorem State.setPort_ten (s : State) (p : Nat) (x : Port) (j : Nat) : (s.setPort p x).ten j = s.ten j := rfl
@[simp] theorem State.setPort_chan (s : State) (p : Nat) (x : Port) (j : Nat) : (s.setPort p x).chan j = s.chan j := rfl
@[simp] theorem State.setPort_peer (s : State) (p : Nat) (x : Port) (j : Nat) : (s.setPort p x).peer j = s.peer j := rfl
@[simp] theorem State.setPort_rd (s : State) (p : Nat) (x : Port) (j : Nat) : (s.setPort p x).rd j = s.rd j := rfl
@[simp] theorem State.setPeer_rod (s : State) (k : Nat) (x : Peer) (j : Nat) : (s.setPeer k x).rod j = s.rod j := rfl
@[simp] theorem State.setPeer_part (s : State) (k : Nat) (x : Peer) (j : Nat) : (s.setPeer k x).part j = s.part j := rfl
@[simp] theorem State.setPeer_slot (s : State) (k : Nat) (x : Peer) (j : Nat) : (s.setPeer k x).slot j = s.slot j := rfl
@[simp] theorem State.setPeer_ten (s : State) (k : Nat) (x : Peer) (j : Nat) : (s.setPeer k x).ten j = s.ten j := rfl
@[simp] theorem State.setPeer_chan (s : State) (k : Nat) (x : Peer) (j : Nat) : (s.setPeer k x).chan j = s.chan j := rfl
@[simp] theorem State.setPeer_port (s : State) (k : Nat) (x : Peer) (j : Nat) : (s.setPeer k x).port j = s.port j := rfl
@[simp] theorem State.setPeer_rd (s : State) (k : Nat) (x : Peer) (j : Nat) : (s.setPeer k x).rd j = s.rd j := rfl
@[simp] theorem State.setReg_rod (s : State) (off : Nat) (v : W64) (j : Nat) : (s.setReg off v).rod j = s.rod j := rfl
@[simp] theorem State.setReg_part (s : State) (off : Nat) (v : W64) (j : Nat) : (s.setReg off v).part j = s.part j := rfl
@[simp] theorem State.setReg_slot (s : State) (off : Nat) (v : W64) (j : Nat) : (s.setReg off v).slot j = s.slot j := rfl
@[simp] theorem State.setReg_ten (s : State) (off : Nat) (v : W64) (j : Nat) : (s.setReg off v).ten j = s.ten j := rfl
@[simp] theorem State.setReg_chan (s : State) (off : Nat) (v : W64) (j : Nat) : (s.setReg off v).chan j = s.chan j := rfl
@[simp] theorem State.setReg_port (s : State) (off : Nat) (v : W64) (j : Nat) : (s.setReg off v).port j = s.port j := rfl
@[simp] theorem State.setReg_peer (s : State) (off : Nat) (v : W64) (j : Nat) : (s.setReg off v).peer j = s.peer j := rfl
@[simp] theorem State.send_rod (s : State) (o : Output) (j : Nat) : (s.send o).rod j = s.rod j := rfl
@[simp] theorem State.send_part (s : State) (o : Output) (j : Nat) : (s.send o).part j = s.part j := rfl
@[simp] theorem State.send_slot (s : State) (o : Output) (j : Nat) : (s.send o).slot j = s.slot j := rfl
@[simp] theorem State.send_ten (s : State) (o : Output) (j : Nat) : (s.send o).ten j = s.ten j := rfl
@[simp] theorem State.send_chan (s : State) (o : Output) (j : Nat) : (s.send o).chan j = s.chan j := rfl
@[simp] theorem State.send_port (s : State) (o : Output) (j : Nat) : (s.send o).port j = s.port j := rfl
@[simp] theorem State.send_peer (s : State) (o : Output) (j : Nat) : (s.send o).peer j = s.peer j := rfl
@[simp] theorem State.send_rd (s : State) (o : Output) (j : Nat) : (s.send o).rd j = s.rd j := rfl

end Sys2Proof.Machine
end

