-- ==== Sys2Proof/Laws/Issue.lean ====
section
/-! SUPPORT. The issue of one rod instruction: everything it can do. -/

namespace Sys2Proof.Machine

/-- What an instruction that issues shows: word, decoding, room, no wait, and a predicate that reads 1. -/
theorem State.nextOp_some {s : State} {l : Nat} {c : Ctx} (h : s.nextOp l = some c) :
    ∃ c0 w i, s.canIssue l = some c0 ∧ s.fetch c0 = some w ∧ RodInstr.decode w = some i ∧ c = { c0 with word := w, op := i.op } ∧
      (match i.op.unit with | some (u, _) => !(s.rod c.ph).full u | none => true) = true ∧ (s.rod c.ph).issueWaits i.op = false ∧
      (s.rod c.ph).pget i.pred = true := by
  unfold State.nextOp at h
  split at h
  · cases h
  · next c0 h0 =>
    split at h
    · cases h
    · next w hw =>
      split at h
      · cases h
      · next i hi =>
        dsimp only at h
        rw [Option.ite_none_right_eq_some] at h
        obtain ⟨hc, he⟩ := h
        cases he
        simp only [Bool.and_eq_true, Bool.not_eq_true'] at hc
        exact ⟨c0, w, i, h0, hw, hi, rfl, hc.1.1, hc.1.2, hc.2⟩

/-- An instruction that issues acts on the state past it. -/
theorem State.issue_next {s : State} {l : Nat} {c : Ctx} {sel : RodOp → Bool} {act : Ctx → State → State}
    (h : s.nextOp l = some c) (hs : sel c.op = true) : s.issue l sel act = act c (s.advance c) := by
  obtain ⟨c0, w, i, h0, hw, hi, rfl, hr, hf, hp⟩ := State.nextOp_some h
  unfold State.issue
  simp only [h0, hw, hi]
  dsimp only at hs hr hf hp ⊢
  refine (if_neg fun k => ?_).trans (if_pos hp)
  exact Bool.noConfusion (k.symm.trans (congrArg not (Bool.and_eq_true_iff.mpr ⟨Bool.and_eq_true_iff.mpr ⟨hs, hr⟩, congrArg not hf⟩)))

/-- An instruction that is ready issues, and its unit starts it. -/
theorem State.readyOp_next {s : State} {l : Nat} {c : Ctx} (h : s.readyOp l = some c) : s.nextOp l = some c ∧ s.startsNow c = true := by
  unfold State.readyOp at h
  rw [Option.filter_eq_some_iff] at h
  exact h

theorem State.issue_ready {s : State} {l : Nat} {c : Ctx} {sel : RodOp → Bool} {act : Ctx → State → State}
    (h : s.readyOp l = some c) (hs : sel c.op = true) : s.issue l sel act = act c (s.advance c) :=
  State.issue_next (State.readyOp_next h).1 hs

theorem adv_queueOf (s : State) (c : Ctx) (u : AUnit) : ((s.advance c).rod c.ph).queueOf u = (s.rod c.ph).queueOf u := by
  cases u <;> simp [State.advance, State.onRod, Rod.queueOf]

theorem adv_otherQueues (s : State) (c : Ctx) (u : AUnit) : ((s.advance c).rod c.ph).otherQueues u = (s.rod c.ph).otherQueues u := by
  simp [State.advance, State.onRod, Rod.otherQueues]

theorem adv_canStart (s : State) (c : Ctx) (u : AUnit) : (s.advance c).canStart c u = s.canStart c u := by
  unfold State.canStart
  rw [adv_otherQueues]
  rfl

/-- An instruction of a local unit that is ready acts on the state past it. -/
theorem State.issueUnit_ready {s : State} {l : Nat} {c : Ctx} {sel : RodOp → Bool} {act : Ctx → State → State} {u : AUnit} {k : Option Nat}
    (h : s.readyOp l = some c) (hs : sel c.op = true) (hu : c.op.unit = some (u, k)) (hr : u ≠ .remote) :
    s.issueUnit l sel act = act c (s.advance c) := by
  unfold State.issueUnit
  rw [State.issue_ready h hs]
  have hn := (State.readyOp_next h).2
  unfold State.startsNow at hn
  rw [hu] at hn ⊢
  dsimp only
  rw [adv_queueOf, adv_canStart]
  cases u
  all_goals first | exact absurd rfl hr | exact if_pos hn

/-- One that its unit cannot start waits at the end of the unit's queue. -/
theorem State.issueUnit_waits {s : State} {l : Nat} {c : Ctx} {sel : RodOp → Bool} {act : Ctx → State → State} {u : AUnit} {k : Option Nat}
    (h : s.nextOp l = some c) (hs : sel c.op = true) (hu : c.op.unit = some (u, k)) (hw : s.startsNow c = false) :
    s.issueUnit l sel act = (s.advance c).enqueue c.ph u ⟨c.op, c.ord, c.pc, c.word, k, false, false, [], []⟩ := by
  unfold State.issueUnit
  rw [State.issue_next h hs]
  unfold State.startsNow at hw
  rw [hu] at hw ⊢
  dsimp only
  rw [adv_queueOf, adv_canStart]
  cases u
  all_goals first | exact Bool.noConfusion hw | exact if_neg (fun e => Bool.noConfusion (e.symm.trans hw))

/-- What a rod that may issue shows of itself. -/
theorem State.canIssue_some {s : State} {l : Nat} {c : Ctx} (h : s.canIssue l = some c) :
    c.l = l ∧ c.ph = s.phys l ∧ s.partOf l = some c.p ∧ c.pc = (s.rod c.ph).pc ∧ c.ord = (s.rod c.ph).ord ∧ s.live = true ∧
    (s.part c.p).st = .running ∧ (s.rod c.ph).raised = [] ∧ (s.rod c.ph).reported = false ∧ (s.rod c.ph).issue = .run := by
  unfold State.canIssue at h
  split at h
  · cases h
  · next p hp =>
    dsimp only at h
    rw [Option.ite_none_right_eq_some] at h
    obtain ⟨hc, he⟩ := h
    cases he
    simp only [Bool.and_eq_true, decide_eq_true_eq, Bool.not_eq_true', List.isEmpty_iff] at hc
    exact ⟨rfl, rfl, hp, rfl, rfl, hc.1.1.1.1, hc.1.1.1.2, hc.1.1.2, hc.1.2, hc.2⟩

/-- What an instruction that issues shows of its rod. -/
theorem State.nextOp_rod {s : State} {l : Nat} {c : Ctx} (h : s.nextOp l = some c) :
    c.l = l ∧ c.ph = s.phys l ∧ s.partOf l = some c.p ∧ c.pc = (s.rod c.ph).pc ∧ c.ord = (s.rod c.ph).ord ∧ s.live = true ∧
    (s.part c.p).st = .running ∧ (s.rod c.ph).raised = [] ∧ (s.rod c.ph).reported = false ∧ (s.rod c.ph).issue = .run := by
  obtain ⟨c0, w, i, h0, _, _, rfl, _, _, _⟩ := State.nextOp_some h
  obtain ⟨e1, e2, e3, e4⟩ := State.canIssue_some h0
  exact ⟨e1, e2, e3, e4⟩

theorem State.canIssue_clash {s : State} {l : Nat} {c : Ctx} (h : s.canIssue l = some c) : c.clash = [] := by
  unfold State.canIssue at h
  split at h
  · cases h
  · dsimp only at h
    rw [Option.ite_none_right_eq_some] at h
    cases h.2
    rfl

/-- Nothing has reached the destination of an instruction that only now issues. -/
theorem State.readyOp_clash {s : State} {l : Nat} {c : Ctx} (h : s.readyOp l = some c) : c.clash = [] := by
  obtain ⟨c0, w, i, h0, _, _, rfl, _, _, _⟩ := State.nextOp_some (State.readyOp_next h).1
  exact (State.canIssue_clash h0 : c0.clash = [])

theorem State.readyOp_some {s : State} {l : Nat} {c : Ctx} (h : s.readyOp l = some c) :
    c.l = l ∧ c.ph = s.phys l ∧ s.partOf l = some c.p ∧ c.pc = (s.rod c.ph).pc ∧ c.ord = (s.rod c.ph).ord ∧ s.live = true ∧
    (s.part c.p).st = .running ∧ (s.rod c.ph).raised = [] ∧ (s.rod c.ph).reported = false ∧ (s.rod c.ph).issue = .run :=
  State.nextOp_rod (State.readyOp_next h).1

/-- The exception of an instruction at its issue. -/
theorem State.raise_advance {s : State} {l : Nat} {c : Ctx} (h : s.readyOp l = some c) (k : Nat) :
    (s.advance c).raise c k = s.raises c k := by
  obtain ⟨_, _, _, hpc, _, _, _, hr, hq, _⟩ := State.readyOp_some h
  simp only [State.raise, State.advance, State.onRod, State.raises, State.rod_setRod, State.setRod_setRod, Rod.raise, hq, hr]
  simp [hpc, discardWaiting]

/-- The exception of an instruction as its unit executes it. -/
theorem State.unitRaise_advance {s : State} {l : Nat} {c : Ctx} (h : s.readyOp l = some c) (k : Nat) :
    (s.advance c).unitRaise c k = s.unitRaises c k := by
  obtain ⟨_, _, _, hpc, _, _, _, hr, hq, _⟩ := State.readyOp_some h
  simp only [State.unitRaise, State.advance, State.onRod, State.unitRaises, State.raises, State.rod_setRod, State.setRod_setRod, Rod.raise, hq, hr]
  simp [discardWaiting]

theorem State.raises_canIssue {s : State} {l : Nat} {c : Ctx} (h : s.readyOp l = some c) (k : Nat) :
    (s.raises c k).canIssue l = none := by
  obtain ⟨_, hph, hp, _⟩ := State.readyOp_some h
  have hp' : (s.raises c k).partOf l = some c.p := hp
  have hph' : (s.raises c k).phys l = c.ph := hph.symm
  have hr : ((s.raises c k).rod c.ph).raised.isEmpty = false := by simp [State.raises]
  unfold State.canIssue
  simp only [hp', hph', hr]
  simp

/-- A rod that may not issue does nothing. -/
theorem State.issue_none {s : State} {l : Nat} {sel : RodOp → Bool} {act : Ctx → State → State} (h : s.canIssue l = none) :
    s.issue l sel act = s := by unfold State.issue; simp [h]

end Sys2Proof.Machine
end

