-- ==== Sys2Proof/Laws/Rods.lean ====
section
/-! SUPPORT. Reads of a rod's register files after writes of them. -/

namespace Sys2Proof.Machine

theorem nth_nil {α : Type} (d : α) (n : Nat) : nth d [] n = d := by cases n <;> rfl

theorem nth_map {α β : Type} (d : α) (e : β) (f : α → β) : ∀ (l : List α) (n : Nat), n < l.length → nth e (l.map f) n = f (nth d l n)
  | [], _, h => absurd h (Nat.not_lt_zero _)
  | _ :: _, 0, _ => rfl
  | _ :: r, n + 1, h => nth_map d e f r n (Nat.lt_of_succ_lt_succ h)

theorem nth_range' (d : Nat) : ∀ (k n s : Nat), n < k → nth d (List.range' s k) n = s + n
  | 0, _, _, h => absurd h (Nat.not_lt_zero _)
  | k + 1, 0, s, _ => rfl
  | k + 1, n + 1, s, h => by
    rw [List.range'_succ, nth, nth_range' d k n (s + 1) (Nat.lt_of_succ_lt_succ h)]; omega

theorem nth_range (d k n : Nat) (h : n < k) : nth d (List.range k) n = n := by
  rw [List.range_eq_range', nth_range' d k n 0 h]; omega

/-- The n-th element of a tabulated list. -/
theorem nth_tab {β : Type} (e : β) (f : Nat → β) (k n : Nat) (h : n < k) : nth e ((List.range k).map f) n = f n := by
  rw [nth_map 0 e f _ _ (by simpa using h), nth_range 0 k n h]

/-- What a table holds after a run of keys was written. -/
theorem putRun_get : ∀ (l : List W32) (m : Sparse W32) (k j : Nat),
    Sparse.get 0 (putRun m k l) j = if k ≤ j ∧ j < k + l.length then nth 0 l (j - k) else Sparse.get 0 m j
  | [], m, k, j => by
    have : ¬ (k ≤ j ∧ j < k + 0) := by omega
    simp only [putRun, List.length_nil, if_neg this]
  | v :: r, m, k, j => by
    rw [putRun, putRun_get r, Sparse.get_put]
    simp only [List.length_cons]
    by_cases h1 : j = k
    · subst h1
      rw [if_neg (by omega), if_pos rfl, if_pos (by omega), Nat.sub_self, nth]
    · by_cases h2 : k + 1 ≤ j ∧ j < k + 1 + r.length
      · rw [if_pos h2, if_pos (by omega), show j - k = (j - (k + 1)) + 1 by omega, nth]
      · rw [if_neg h2, if_neg h1, if_neg (by omega)]

/-- A lane after a vector register was written. -/
theorem Rod.vlane_vset (r : Rod) (d k n : Nat) (l : List W32) (hl : l.length = 64) (hn : n < 64) :
    (r.vset d l).vlane k n = if k = d then nth 0 l n else r.vlane k n := by
  unfold Rod.vset Rod.vlane
  dsimp only
  rw [putRun_get, List.take_of_length_le (by omega), hl]
  by_cases h : k = d
  · subst h
    rw [if_pos (by omega), if_pos rfl, Nat.add_sub_cancel_left]
  · rw [if_neg (by omega), if_neg h]

theorem Rod.tat_tset (r : Rod) (t row k m col : Nat) (l : List W32) (hl : l.length = 64) (hr : row < 16) (hm : m < 16) (hc : col < 64) :
    (r.tset t row l).tat k m col = if k = t ∧ m = row then nth 0 l col else r.tat k m col := by
  unfold Rod.tset Rod.tat
  dsimp only
  rw [putRun_get, List.take_of_length_le (by omega), hl]
  by_cases h : k = t ∧ m = row
  · obtain ⟨rfl, rfl⟩ := h
    rw [if_pos (by omega), if_pos ⟨rfl, rfl⟩, Nat.add_sub_cancel_left]
  · rw [if_neg (by omega), if_neg h]

theorem Rod.tat_tsetRows (t k m col : Nat) (hm : m < 16) (hc : col < 64) : ∀ (rows : List (List W32)) (r : Rod) (j : Nat),
    (∀ l ∈ rows, l.length = 64) → j + rows.length ≤ 16 →
    (r.tsetRows t j rows).tat k m col =
      if k = t ∧ j ≤ m ∧ m < j + rows.length then nth 0 (nth [] rows (m - j)) col else r.tat k m col
  | [], r, j, _, _ => by
    have : ¬ (k = t ∧ j ≤ m ∧ m < j + 0) := by omega
    simp only [Rod.tsetRows, List.length_nil, if_neg this]
  | l :: q, r, j, hl, hj => by
    simp only [List.length_cons] at hj ⊢
    rw [Rod.tsetRows, Rod.tat_tsetRows t k m col hm hc q _ _ (fun x hx => hl x (by simp [hx])) (by omega),
      Rod.tat_tset _ _ _ _ _ _ _ (hl l (by simp)) (by omega) hm hc]
    by_cases h1 : k = t ∧ j + 1 ≤ m ∧ m < j + 1 + q.length
    · rw [if_pos h1, if_pos (by omega), show m - j = (m - (j + 1)) + 1 by omega, nth]
    · rw [if_neg h1]
      by_cases h2 : k = t ∧ m = j
      · obtain ⟨rfl, rfl⟩ := h2
        rw [if_pos ⟨rfl, rfl⟩, if_pos (by omega), Nat.sub_self, nth]
      · rw [if_neg h2, if_neg (by omega)]

theorem Rod.tat_tclear (r : Rod) (t k m col : Nat) (hm : m < 16) (hc : col < 64) :
    (r.tclear t).tat k m col = if k = t then 0 else r.tat k m col := by
  unfold Rod.tclear Rod.tat
  dsimp only
  rw [Sparse.get_clear]
  by_cases h : k = t
  · subst h; rw [if_pos (by omega), if_pos rfl]
  · rw [if_neg (by omega), if_neg h]

theorem lanes3_nth (g : W32 → W32 → W32 → W32) : ∀ (a b c : List W32) (n : Nat), a.length = b.length → b.length = c.length →
    n < a.length → nth 0 (lanes3 g a b c) n = g (nth 0 a n) (nth 0 b n) (nth 0 c n)
  | [], _, _, _, _, _, h => absurd h (Nat.not_lt_zero _)
  | _ :: _, _ :: _, _ :: _, 0, _, _, _ => rfl
  | _ :: a, _ :: b, _ :: c, n + 1, h1, h2, h => lanes3_nth g a b c n (Nat.succ.inj h1) (Nat.succ.inj h2) (Nat.lt_of_succ_lt_succ h)
  | _ :: _, [], _, _, h, _, _ => nomatch h
  | _ :: _, _ :: _, [], _, _, h, _ => nomatch h

theorem lanes3_length (g : W32 → W32 → W32 → W32) : ∀ (a b c : List W32), a.length = b.length → b.length = c.length →
    (lanes3 g a b c).length = a.length
  | [], [], _, _, _ => rfl
  | [], _ :: _, _, h, _ => nomatch h
  | _ :: a, _ :: b, _ :: c, h1, h2 => by simp [lanes3, lanes3_length g a b c (Nat.succ.inj h1) (Nat.succ.inj h2)]
  | _ :: _, [], _, h, _ => nomatch h
  | _ :: _, _ :: _, [], _, h => nomatch h

@[simp] theorem Rod.vget_length (r : Rod) (n : Nat) : (r.vget n).length = 64 := by simp [Rod.vget]
theorem Rod.vget_nth (r : Rod) (k n : Nat) (h : n < 64) : nth 0 (r.vget k) n = r.vlane k n := nth_tab 0 _ 64 n h
@[simp] theorem Rod.tget_length (r : Rod) (t m : Nat) : (r.tget t m).length = 64 := by simp [Rod.tget]
theorem Rod.tget_nth (r : Rod) (t m n : Nat) (h : n < 64) : nth 0 (r.tget t m) n = r.tat t m n := nth_tab 0 _ 64 n h

theorem lanesOf_length : ∀ (n : Nat) (bs : List Byte), (lanesOf n bs).length = n
  | 0, _ => rfl
  | n + 1, bs => by simp [lanesOf, lanesOf_length n]

theorem lanesOf_nth : ∀ (k n : Nat) (bs : List Byte), n < k →
    nth 0 (lanesOf k bs) n = BitVec.ofNat 32 (leNat ((bs.drop (4 * n)).take 4))
  | 0, _, _, h => absurd h (Nat.not_lt_zero _)
  | k + 1, 0, bs, _ => by simp [lanesOf, nth]
  | k + 1, n + 1, bs, h => by
    rw [lanesOf, nth, lanesOf_nth k n _ (Nat.lt_of_succ_lt_succ h), List.drop_drop]
    congr 4; omega

end Sys2Proof.Machine
end

