-- ==== Sys2Proof/Laws/Writes.lean ====
section
/-! SUPPORT. What the operations that write memory change: each says once which bytes and which parts of the state. -/

namespace Sys2Proof.Machine

/-! ### Bead memory and HBM -/

@[simp] theorem State.beadWrite_pending (s : State) (ph off : Nat) (bs : List Byte) : (s.beadWrite ph off bs).pending = s.pending := rfl
@[simp] theorem State.beadWrite_free (s : State) (ph off : Nat) (bs : List Byte) : (s.beadWrite ph off bs).free = s.free := rfl
@[simp] theorem State.beadWrite_design (s : State) (ph off : Nat) (bs : List Byte) : (s.beadWrite ph off bs).design = s.design := rfl
@[simp] theorem State.beadWrite_time (s : State) (ph off : Nat) (bs : List Byte) : (s.beadWrite ph off bs).time = s.time := rfl
@[simp] theorem State.beadWrite_regs (s : State) (ph off : Nat) (bs : List Byte) : (s.beadWrite ph off bs).regs = s.regs := rfl
@[simp] theorem State.beadWrite_hbm (s : State) (ph off : Nat) (bs : List Byte) : (s.beadWrite ph off bs).hbm = s.hbm := rfl
@[simp] theorem State.beadWrite_bead (s : State) (ph off : Nat) (bs : List Byte) : (s.beadWrite ph off bs).bead = s.bead.writeN (2 ^ 22 * ph + off) bs := rfl
@[simp] theorem State.beadWrite_imem (s : State) (ph off : Nat) (bs : List Byte) : (s.beadWrite ph off bs).imem = s.imem := rfl
@[simp] theorem State.beadWrite_ext (s : State) (ph off : Nat) (bs : List Byte) : (s.beadWrite ph off bs).ext = s.ext := rfl
@[simp] theorem State.beadWrite_boot (s : State) (ph off : Nat) (bs : List Byte) : (s.beadWrite ph off bs).boot = s.boot := rfl
@[simp] theorem State.beadWrite_hbmPoison (s : State) (ph off : Nat) (bs : List Byte) : (s.beadWrite ph off bs).hbmPoison = s.hbmPoison := rfl
@[simp] theorem State.beadWrite_rods (s : State) (ph off : Nat) (bs : List Byte) : (s.beadWrite ph off bs).rods = s.rods := rfl
@[simp] theorem State.beadWrite_parts (s : State) (ph off : Nat) (bs : List Byte) : (s.beadWrite ph off bs).parts = s.parts := rfl
@[simp] theorem State.beadWrite_slate (s : State) (ph off : Nat) (bs : List Byte) : (s.beadWrite ph off bs).slate = s.slate := rfl
@[simp] theorem State.beadWrite_tenants (s : State) (ph off : Nat) (bs : List Byte) : (s.beadWrite ph off bs).tenants = s.tenants := rfl
@[simp] theorem State.beadWrite_chans (s : State) (ph off : Nat) (bs : List Byte) : (s.beadWrite ph off bs).chans = s.chans := rfl
@[simp] theorem State.beadWrite_reads (s : State) (ph off : Nat) (bs : List Byte) : (s.beadWrite ph off bs).reads = s.reads := rfl
@[simp] theorem State.beadWrite_tier (s : State) (ph off : Nat) (bs : List Byte) : (s.beadWrite ph off bs).tier = s.tier := rfl
@[simp] theorem State.beadWrite_gth (s : State) (ph off : Nat) (bs : List Byte) : (s.beadWrite ph off bs).gth = s.gth := rfl
@[simp] theorem State.beadWrite_fab (s : State) (ph off : Nat) (bs : List Byte) : (s.beadWrite ph off bs).fab = s.fab := rfl
@[simp] theorem State.beadWrite_sec (s : State) (ph off : Nat) (bs : List Byte) : (s.beadWrite ph off bs).sec = s.sec := rfl
@[simp] theorem State.beadWrite_flt (s : State) (ph off : Nat) (bs : List Byte) : (s.beadWrite ph off bs).flt = s.flt := rfl
@[simp] theorem State.beadWrite_dbg (s : State) (ph off : Nat) (bs : List Byte) : (s.beadWrite ph off bs).dbg = s.dbg := rfl
@[simp] theorem State.beadWrite_pwr (s : State) (ph off : Nat) (bs : List Byte) : (s.beadWrite ph off bs).pwr = s.pwr := rfl
@[simp] theorem State.beadWrite_tst (s : State) (ph off : Nat) (bs : List Byte) : (s.beadWrite ph off bs).tst = s.tst := rfl
@[simp] theorem State.beadWrite_out (s : State) (ph off : Nat) (bs : List Byte) : (s.beadWrite ph off bs).out = s.out := rfl
@[simp] theorem State.beadWrite_rod (s : State) (ph off : Nat) (bs : List Byte) (k : Nat) : (s.beadWrite ph off bs).rod k = s.rod k := rfl
@[simp] theorem State.hbmWrite_pending (s : State) (off : Nat) (bs : List Byte) : (s.hbmWrite off bs).pending = s.pending := rfl
@[simp] theorem State.hbmWrite_free (s : State) (off : Nat) (bs : List Byte) : (s.hbmWrite off bs).free = s.free := rfl
@[simp] theorem State.hbmWrite_design (s : State) (off : Nat) (bs : List Byte) : (s.hbmWrite off bs).design = s.design := rfl
@[simp] theorem State.hbmWrite_time (s : State) (off : Nat) (bs : List Byte) : (s.hbmWrite off bs).time = s.time := rfl
@[simp] theorem State.hbmWrite_regs (s : State) (off : Nat) (bs : List Byte) : (s.hbmWrite off bs).regs = s.regs := rfl
@[simp] theorem State.hbmWrite_hbm (s : State) (off : Nat) (bs : List Byte) : (s.hbmWrite off bs).hbm = s.hbm.writeN off bs := rfl
@[simp] theorem State.hbmWrite_bead (s : State) (off : Nat) (bs : List Byte) : (s.hbmWrite off bs).bead = s.bead := rfl
@[simp] theorem State.hbmWrite_imem (s : State) (off : Nat) (bs : List Byte) : (s.hbmWrite off bs).imem = s.imem := rfl
@[simp] theorem State.hbmWrite_ext (s : State) (off : Nat) (bs : List Byte) : (s.hbmWrite off bs).ext = s.ext := rfl
@[simp] theorem State.hbmWrite_boot (s : State) (off : Nat) (bs : List Byte) : (s.hbmWrite off bs).boot = s.boot := rfl
@[simp] theorem State.hbmWrite_beadPoison (s : State) (off : Nat) (bs : List Byte) : (s.hbmWrite off bs).beadPoison = s.beadPoison := rfl
@[simp] theorem State.hbmWrite_rods (s : State) (off : Nat) (bs : List Byte) : (s.hbmWrite off bs).rods = s.rods := rfl
@[simp] theorem State.hbmWrite_parts (s : State) (off : Nat) (bs : List Byte) : (s.hbmWrite off bs).parts = s.parts := rfl
@[simp] theorem State.hbmWrite_slate (s : State) (off : Nat) (bs : List Byte) : (s.hbmWrite off bs).slate = s.slate := rfl
@[simp] theorem State.hbmWrite_tenants (s : State) (off : Nat) (bs : List Byte) : (s.hbmWrite off bs).tenants = s.tenants := rfl
@[simp] theorem State.hbmWrite_chans (s : State) (off : Nat) (bs : List Byte) : (s.hbmWrite off bs).chans = s.chans := rfl
@[simp] theorem State.hbmWrite_reads (s : State) (off : Nat) (bs : List Byte) : (s.hbmWrite off bs).reads = s.reads := rfl
@[simp] theorem State.hbmWrite_tier (s : State) (off : Nat) (bs : List Byte) : (s.hbmWrite off bs).tier = s.tier := rfl
@[simp] theorem State.hbmWrite_gth (s : State) (off : Nat) (bs : List Byte) : (s.hbmWrite off bs).gth = s.gth := rfl
@[simp] theorem State.hbmWrite_fab (s : State) (off : Nat) (bs : List Byte) : (s.hbmWrite off bs).fab = s.fab := rfl
@[simp] theorem State.hbmWrite_sec (s : State) (off : Nat) (bs : List Byte) : (s.hbmWrite off bs).sec = s.sec := rfl
@[simp] theorem State.hbmWrite_dbg (s : State) (off : Nat) (bs : List Byte) : (s.hbmWrite off bs).dbg = s.dbg := rfl
@[simp] theorem State.hbmWrite_pwr (s : State) (off : Nat) (bs : List Byte) : (s.hbmWrite off bs).pwr = s.pwr := rfl
@[simp] theorem State.hbmWrite_tst (s : State) (off : Nat) (bs : List Byte) : (s.hbmWrite off bs).tst = s.tst := rfl
@[simp] theorem State.hbmWrite_out (s : State) (off : Nat) (bs : List Byte) : (s.hbmWrite off bs).out = s.out := rfl

/-! ### A unit's own writes -/

theorem State.mixWords_length (s : State) (ph : Nat) (cl : List (Nat × Nat)) (off : Nat) :
    ∀ (bs : List Byte) (i : Nat), (s.mixWords ph cl off bs i).length = bs.length
  | [], _ => rfl
  | _ :: r, i => by simp [State.mixWords, State.mixWords_length s ph cl off r (i + 1)]

/-- Each byte it leaves is the one stored or the one that stood there. -/
theorem State.mixWords_get (s : State) (ph : Nat) (cl : List (Nat × Nat)) (off : Nat) :
    ∀ (bs : List Byte) (i k : Nat), k < bs.length →
      (s.mixWords ph cl off bs i)[k]? = bs[k]? ∨ (s.mixWords ph cl off bs i)[k]? = some (s.bead.read1 (2 ^ 22 * ph + off + i + k))
  | b :: r, i, 0, _ => by
    simp only [State.mixWords, List.getElem?_cons_zero, Nat.add_zero]
    split
    · exact .inr rfl
    · exact .inl rfl
  | b :: r, i, k + 1, h => by
    have := State.mixWords_get s ph cl off r (i + 1) k (Nat.lt_of_succ_lt_succ h)
    rw [show 2 ^ 22 * ph + off + i + (k + 1) = 2 ^ 22 * ph + off + (i + 1) + k by omega]
    exact this

/-- An increment changes one counter. -/
theorem State.bump_spec (s : State) (o n : Nat) : ∃ regs, s.bump o n = { s with regs := regs } := by
  unfold State.bump
  split
  · exact ⟨s.regs, rfl⟩
  · exact ⟨_, rfl⟩

/-- A write counted as having met poison changes counters only. -/
theorem State.countPoison_spec (s : State) (p k : Nat) : ∃ regs w, s.countPoison p k = { s with regs := regs, flt := { s.flt with poisonWr := w } } := by
  obtain ⟨regs, h⟩ := State.bump_spec s (cntBlk 8) 1
  exact ⟨regs, _, by unfold State.countPoison; rw [h]⟩

/-- What bytes that reach bead memory from a unit leave: a write of as many bytes, the bytes themselves where nothing unordered has reached
them, and counters. -/
theorem State.unorderedWrite_spec (s : State) (p ph off : Nat) (bs : List Byte) (cl : List (Nat × Nat)) :
    ∃ regs flt free bs', s.unorderedWrite p ph off bs cl = ({ s with regs := regs, flt := flt, free := free } : State).beadWrite ph off bs' ∧
      bs'.length = bs.length ∧ (cl.any (fun x => overlap x.1 x.2 off bs.length) = false → bs' = bs ∧ free = s.free) ∧
      ∀ k, k < bs.length → bs'[k]? = bs[k]? ∨ bs'[k]? = some (s.bead.read1 (2 ^ 22 * ph + off + k)) := by
  have h1 : ∃ regs flt, (if s.beadWriteMeets ph off bs.length then s.countPoison p (1 + ph) else s) = { s with regs := regs, flt := flt } := by
    split
    · obtain ⟨regs, _, e⟩ := State.countPoison_spec s p (1 + ph)
      exact ⟨regs, _, e⟩
    · exact ⟨s.regs, s.flt, rfl⟩
  obtain ⟨regs, flt, h⟩ := h1
  unfold State.unorderedWrite
  rw [h]
  dsimp only
  split
  · next hc => exact ⟨regs, flt, s.free + 1, _, rfl, State.mixWords_length _ _ _ _ _ _, fun k => Bool.noConfusion (k.symm.trans hc),
      fun k hk => State.mixWords_get s ph cl off bs 0 k hk⟩
  · exact ⟨regs, flt, s.free, bs, rfl, rfl, fun _ => ⟨rfl, rfl⟩, fun _ _ => .inl rfl⟩

/-- What a rod unit's own write of bead memory is: such a write, noted by the rod. -/
theorem State.unitWrite_spec (s : State) (c : Ctx) (off : Nat) (bs : List Byte) (u : Option AUnit) :
    ∃ regs flt free bs', s.unitWrite c off bs u =
        (({ s with regs := regs, flt := flt, free := free } : State).beadWrite c.ph off bs').onRod c.ph (fun r => r.noteWrite u (off, bs.length)) ∧
      bs'.length = bs.length ∧
      ((c.clash ++ (s.rod c.ph).openWrites u).any (fun x => overlap x.1 x.2 off bs.length) = false → bs' = bs ∧ free = s.free) ∧
      ∀ k, k < bs.length → bs'[k]? = bs[k]? ∨ bs'[k]? = some (s.bead.read1 (2 ^ 22 * c.ph + off + k)) := by
  obtain ⟨regs, flt, free, bs', h, hl, hn⟩ := State.unorderedWrite_spec s c.p c.ph off bs (c.clash ++ (s.rod c.ph).openWrites u)
  exact ⟨regs, flt, free, bs', by unfold State.unitWrite; rw [h], hl, hn⟩

end Sys2Proof.Machine
end

