-- ==== Sys2Proof/Laws/Claims.lean ====
section
/-! SUPPORT. Lemmas about the operations that the statements speak of: results of the integer and compare functions, loads, stores,
tile queues, lanes, issue of remote operations. -/

set_option linter.unusedVariables false
set_option linter.unusedSimpArgs false

namespace Sys2Proof.Machine

theorem jump_ready {s : State} {l : Nat} {c : Ctx} (h : s.readyOp l = some c) (t : W64) (k : Nat) :
    (s.advance c).jump c t k = s.branchTo c t k := by
  unfold State.jump State.branchTo
  have hi : ((s.advance c).rod c.ph).imgLen = (s.rod c.ph).imgLen := by simp [State.advance, State.onRod]
  simp only [hi, Bool.and_eq_true, decide_eq_true_eq]
  split
  · simp only [State.setS, State.advance, State.onRod, State.rod_setRod, State.setRod_setRod, Rod.sset]
    by_cases hk : k = 0 <;> simp [hk]
  · exact State.raise_advance h 2

theorem popc_le (a : W64) : popc64 a < 2 ^ 64 := by
  unfold popc64
  have := List.length_filter_le (fun i => bit a i) (List.range 64)
  simp at this; omega

theorem toInt_mulh (a b : W64) : (BitVec.ofInt 64 (a.toInt * b.toInt / 2 ^ 64)).toInt = a.toInt * b.toInt / 2 ^ 64 := by
  have ha := BitVec.toInt_lt (x := a); have ha' := BitVec.le_toInt a
  have hb := BitVec.toInt_lt (x := b); have hb' := BitVec.le_toInt b
  rw [BitVec.toInt_ofInt]
  norm_num at ha ha' hb hb'
  have A : |a.toInt| ≤ 2 ^ 63 := abs_le.mpr ⟨by norm_num; omega, by norm_num; omega⟩
  have B : |b.toInt| ≤ 2 ^ 63 := abs_le.mpr ⟨by norm_num; omega, by norm_num; omega⟩
  have AB : |a.toInt * b.toInt| ≤ 2 ^ 63 * 2 ^ 63 := by
    rw [abs_mul]; exact mul_le_mul A B (abs_nonneg _) (by norm_num)
  have h1 : a.toInt * b.toInt ≤ 2 ^ 126 := by have := (abs_le.mp AB).2; norm_num at *; omega
  have h2 : -(2 ^ 126) ≤ a.toInt * b.toInt := by have := (abs_le.mp AB).1; norm_num at *; omega
  have e : (2:Int) ^ 126 = 2 ^ 62 * 2 ^ 64 := by norm_num
  apply Int.bmod_eq_of_le
  · norm_num at *; omega
  · norm_num at *; omega

theorem intOp_result (f : Nat) (a b c : W64) (sh : Nat) : IntResult f a b c sh (intOp f a b c sh) := by
  refine ⟨?_,?_,?_,?_,?_,?_,?_,?_,?_,?_,?_,?_,?_,?_,?_,?_,?_,?_,?_,?_,?_,?_⟩ <;> (rintro rfl; simp only [intOp])
  · exact BitVec.toNat_add a b
  · rw [BitVec.toNat_sub]; have := a.isLt; have := b.isLt; omega
  · exact BitVec.toNat_mul a b
  · simp only [w64, BitVec.toNat_ofNat]
    apply Nat.mod_eq_of_lt
    have ha := a.isLt; have hb := b.isLt
    apply Nat.div_lt_of_lt_mul
    calc a.toNat * b.toNat < 2 ^ 64 * 2 ^ 64 := Nat.mul_lt_mul'' ha hb
      _ = _ := rfl
  · exact toInt_mulh a b
  · simp [BitVec.toNat_add, BitVec.toNat_mul]
  · intro i; simp
  · intro i; simp
  · intro i; simp
  · intro i
    by_cases hi : i < 64
    · simp [hi]
    · simp [hi, BitVec.getLsbD_of_ge a i (by omega)]
  · simp [BitVec.toNat_shiftLeft, Nat.shiftLeft_eq]
  · simp [BitVec.toNat_ushiftRight, Nat.shiftRight_eq_div_pow]
  · simp [BitVec.toInt_sshiftRight, Int.shiftRight_eq_div_pow]
  · simp [BitVec.toNat_shiftLeft, Nat.shiftLeft_eq]
  · simp [BitVec.toNat_ushiftRight, Nat.shiftRight_eq_div_pow]
  · simp [BitVec.toInt_sshiftRight, Int.shiftRight_eq_div_pow]
  · simp only [BitVec.slt]; split <;> simp_all <;> omega
  · simp only [BitVec.slt]; split <;> simp_all <;> omega
  · simp only [BitVec.ult]; split <;> simp_all <;> omega
  · simp only [BitVec.ult]; split <;> simp_all <;> omega
  · refine ⟨by rintro rfl; rfl, fun h => ?_⟩
    have h0 : a.toNat ≠ 0 := fun k => h (by apply BitVec.eq_of_toNat_eq; simpa using k)
    have hl : a.toNat.log2 < 64 := (Nat.log2_lt h0).mpr a.isLt
    have e : (w64 (clz64 a)).toNat = 63 - a.toNat.log2 := by
      simp only [clz64, h, if_false, w64, BitVec.toNat_ofNat]; omega
    rw [e]
    refine ⟨by omega, ?_⟩
    rw [show 63 - (63 - a.toNat.log2) = a.toNat.log2 by omega]
    have h1 := Nat.log2_self_le h0
    have h2 := Nat.lt_log2_self (n := a.toNat)
    apply Nat.div_eq_of_lt_le <;> omega
  · simp only [w64, BitVec.toNat_ofNat]
    rw [Nat.mod_eq_of_lt (popc_le a)]; rfl

theorem cmp_result (f : Nat) (a b : W64) : CmpResult f a b (cmpHolds f a b) := by
  refine ⟨?_, ?_, ?_, ?_, ?_, ?_, ?_, ?_⟩
  · rintro rfl; simp [cmpHolds]
  · rintro rfl; simp [cmpHolds]
  · rintro rfl; simp [cmpHolds, BitVec.slt]
  · rintro rfl; simp [cmpHolds, BitVec.slt]
  · rintro rfl; simp [cmpHolds, BitVec.ult]
  · rintro rfl; simp [cmpHolds, BitVec.ult]
  · intro h
    refine ⟨?_, ?_⟩
    · rintro (rfl | rfl | rfl) <;> simp only [cmpHolds, feq, flt, fle] <;> rcases h with h | h <;> simp [h]
    · rintro rfl; simp only [cmpHolds, fun_]; rcases h with h | h <;> simp [h]
  · intro h1 h2
    refine ⟨?_, ?_, ?_, ?_⟩ <;> (rintro rfl; simp [cmpHolds, feq, flt, fle, fun_, h1, h2])

theorem leNat_lt : ∀ (bs : List Byte), leNat bs < 2 ^ (8 * bs.length)
  | [] => by simp [leNat]
  | b :: r => by
    have := leNat_lt r; have := b.isLt
    simp only [leNat, List.length_cons, Nat.mul_add, pow_add]; norm_num at *; omega

theorem readN_length (m : Memory) : ∀ (n a : Nat), (m.readN a n).length = n
  | 0, _ => rfl
  | n + 1, a => by simp [Memory.readN, readN_length m n]

theorem signExt (k n : Nat) (hk : 0 < k): w64i (signedOf k n) = (BitVec.ofNat k n).signExtend 64 := by
  simp only [w64i, signedOf, BitVec.signExtend]
  congr 1
  rw [BitVec.toInt_eq_toNat_cond]
  simp only [BitVec.toNat_ofNat]
  split <;> split <;> omega

theorem load_result (w : Nat) (bs : List Byte) (hb : bs.length ≤ 8) : LoadResult w bs (ldExtend w bs) := by
  have hl := leNat_lt bs
  have : leNat bs < 2 ^ 64 := lt_of_lt_of_le hl (Nat.pow_le_pow_right (by norm_num) (by omega))
  refine ⟨?_, ?_, ?_, ?_⟩
  · intro hw
    have : ldExtend w bs = w64 (leNat bs) := by unfold ldExtend; rcases w with _ | _ | _ | _ | w <;> first | rfl | omega
    rw [this, w64, BitVec.toNat_ofNat]; omega
  · rintro rfl; exact signExt 8 _ (by norm_num)
  · rintro rfl; exact signExt 16 _ (by norm_num)
  · rintro rfl; exact signExt 32 _ (by norm_num)

theorem acc_size (w : Nat) : accSize w = widthBytes w := by
  unfold accSize widthBytes
  rcases w with _ | _ | _ | _ | _ | _ | w <;> simp

theorem width_le (w : Nat) : 1 ≤ widthBytes w ∧ widthBytes w ≤ 8 := by unfold widthBytes; split <;> [skip; split <;> [skip; split]] <;> omega

theorem leBytes_length : ∀ (n v : Nat), (leBytes n v).length = n
  | 0, _ => rfl
  | n + 1, v => by simp [leBytes, leBytes_length n]

/-- Where an instruction of a local unit is ready, its unit's queue is empty. -/
theorem ready_empty {s : State} {l : Nat} {c : Ctx} {u : AUnit} {k : Option Nat} (h : s.readyOp l = some c) (hu : c.op.unit = some (u, k))
    (hr : u ≠ .remote) : (s.rod c.ph).queueOf u = [] := by
  have hn := (State.readyOp_next h).2
  unfold State.startsNow at hn
  rw [hu] at hn
  cases u
  all_goals first | exact absurd rfl hr | exact List.isEmpty_iff.mp (Bool.and_eq_true_iff.mp hn).1

theorem vec_written {s : State} {l : Nat} {c : Ctx} {cnt : Option Nat} (h : s.readyOp l = some c) (hu : c.op.unit = some (.vector, cnt)) (d : Nat)
    (v : List W32) (fl : BitVec 2) (hl : v.length = 64) (f : Rod → Rod)
    (hf : f ((s.advance c).rod c.ph) = { ((s.advance c).rod c.ph).vset d v with astat := ((s.advance c).rod c.ph).astat ||| fl }) :
    VecWritten s (((s.advance c).onRod c.ph f).vdone c []) c d (fun n => nth 0 v n) fl cnt := by
  have hq : (s.rod c.ph).vq = [] := ready_empty h hu (by decide)
  have hd : ((s.advance c).onRod c.ph f).vdone c [] = ((s.advance c).onRod c.ph f).begun c .vector cnt [] := by
    unfold State.vdone; rw [hu]
  rw [hd]
  have ha : (s.advance c).rod c.ph = { s.rod c.ph with pc := c.pc + 8, ord := c.ord + 1 } := by simp [State.advance, State.onRod]
  have hr : (((s.advance c).onRod c.ph f).begun c .vector cnt []).rod c.ph =
      { ({ ((s.advance c).rod c.ph).vset d v with astat := ((s.advance c).rod c.ph).astat ||| fl } : Rod) with
        vq := [⟨c.op, c.ord, c.pc, c.word, cnt, false, true, [], []⟩] } := by
    simp only [State.begun, State.onRod, State.rod_setRod]
    simp only [State.onRod] at hf
    rw [hf]
    simp only [Rod.queueOf, Rod.setQueue, Rod.vset]
    simp only [State.onRod] at ha
    rw [ha]
    simp only [hq]
  refine ⟨⟨rfl, ?_, ?_, ?_⟩, ?_, ?_, ?_, ?_, ?_⟩
  · intro k hk
    simp [State.begun, State.onRod, State.rod_setRod_ne, hk, State.advance]
  · rw [hr, ha]; rfl
  · rw [hr, ha]; rfl
  · intro n hn
    rw [hr, show ∀ (r : Rod) x y, ({ ({ r with astat := x } : Rod) with vq := y } : Rod).vlane d n = r.vlane d n from fun _ _ _ => rfl,
      Rod.vlane_vset _ _ _ _ _ hl hn, if_pos rfl]
  · intro k n hn hk
    rw [hr, show ∀ (r : Rod) x y, ({ ({ r with astat := x } : Rod) with vq := y } : Rod).vlane k n = r.vlane k n from fun _ _ _ => rfl,
      Rod.vlane_vset _ _ _ _ _ hl hn, if_neg hk, ha]; rfl
  · rw [hr, ha]; exact ⟨rfl, rfl, rfl, rfl, rfl, rfl⟩
  · rw [hr, ha]
  · rw [hr]

theorem VecWritten.congr {s t : State} {c : Ctx} {d : Nat} {g g' : Nat → W32} {fl : BitVec 2} {cnt : Option Nat} (h : VecWritten s t c d g fl cnt)
    (e : ∀ n, n < 64 → g n = g' n) : VecWritten s t c d g' fl cnt :=
  ⟨h.only, fun n hn => by rw [h.lanes n hn, e n hn], h.rest, h.same, h.flags, h.queued⟩

theorem noflag (r : Rod) (d : Nat) (l : List W32) : r.vset d l = { r.vset d l with astat := r.astat ||| 0 } := by simp [Rod.vset]

theorem adv_vlane (s : State) (c : Ctx) (k n : Nat) : ((s.advance c).rod c.ph).vlane k n = (s.rod c.ph).vlane k n := by
  simp [State.advance, State.onRod, Rod.vlane]

theorem adv_sget (s : State) (c : Ctx) (k : Nat) : ((s.advance c).rod c.ph).sget k = (s.rod c.ph).sget k := by
  simp [State.advance, State.onRod, Rod.sget]

theorem adv_tat (s : State) (c : Ctx) (k n m : Nat) : ((s.advance c).rod c.ph).tat k n m = (s.rod c.ph).tat k n m := by
  simp [State.advance, State.onRod, Rod.tat]

theorem adv_rod (s : State) (c : Ctx) : (s.advance c).rod c.ph = { s.rod c.ph with pc := c.pc + 8, ord := c.ord + 1 } := by simp [State.advance, State.onRod]

theorem adv_rod_ne (s : State) (c : Ctx) (k : Nat) (h : k ≠ c.ph) : (s.advance c).rod k = s.rod k := by simp [State.advance, State.onRod, State.rod_setRod_ne, h]

theorem adv_bead (s : State) (c : Ctx) : (s.advance c).bead = s.bead := rfl

theorem readN_sub : ∀ (n : Nat) (m : Memory) (a j k : Nat), j + k ≤ n → ((m.readN a n).drop j).take k = m.readN (a + j) k
  | n, m, a, 0, k, h => by
    induction k generalizing n a with
    | zero => simp [Memory.readN]
    | succ k ih =>
      cases n with
      | zero => omega
      | succ n => simp only [List.drop_zero, Memory.readN, List.take_succ_cons] at ih ⊢; rw [ih n (a+1) (by omega)]; rfl
  | 0, m, a, j + 1, k, h => by omega
  | n + 1, m, a, j + 1, k, h => by
    rw [Memory.readN, List.drop_succ_cons, readN_sub n m (a + 1) j k (by omega)]; congr 1; omega

theorem acc_written {s : State} {l : Nat} {c : Ctx} {u : AUnit} {cnt : Option Nat} (h : s.readyOp l = some c) (hu : c.op.unit = some (u, cnt))
    (hr : u ≠ .remote) (a : Nat) (g : Nat → Nat → W32) (f : Rod → Rod)
    (h1 : ∀ m n, m < 16 → n < 64 → (f ((s.advance c).rod c.ph)).tat a m n = g m n)
    (h2 : ∀ k m n, m < 16 → n < 64 → k ≠ a → (f ((s.advance c).rod c.ph)).tat k m n = ((s.advance c).rod c.ph).tat k m n)
    (h3 : let r := (s.advance c).rod c.ph; let q := f r; q.s = r.s ∧ q.p = r.p ∧ q.c = r.c ∧ q.v = r.v ∧ q.astat = r.astat ∧ q.rowMap = r.rowMap ∧ q.pc = r.pc ∧ q.ord = r.ord)
    (h4 : (f ((s.advance c).rod c.ph)).queueOf u = ((s.advance c).rod c.ph).queueOf u) :
    AccWritten s (((s.advance c).onRod c.ph f).vdone c []) c a g := by
  have hd : ((s.advance c).onRod c.ph f).vdone c [] = ((s.advance c).onRod c.ph f).begun c u cnt [] := by unfold State.vdone; rw [hu]
  rw [hd]
  have E : (((s.advance c).onRod c.ph f).begun c u cnt []).rod c.ph =
      (f ((s.advance c).rod c.ph)).setQueue u (⟨c.op, c.ord, c.pc, c.word, cnt, false, true, [], []⟩ :: (f ((s.advance c).rod c.ph)).queueOf u) := by
    simp only [State.begun, State.onRod, State.rod_setRod]
  have hq : (f ((s.advance c).rod c.ph)).queueOf u = [] := by rw [h4, adv_queueOf]; exact ready_empty h hu hr
  have hx : ∀ (r : Rod) q, (r.setQueue u q).queueOf u = q := fun r q => by cases u <;> first | rfl | exact absurd rfl hr
  have ht : ∀ (r : Rod) q k m n, (r.setQueue u q).tat k m n = r.tat k m n := fun r q k m n => by cases u <;> rfl
  have hs : ∀ (r : Rod) q, (r.setQueue u q).s = r.s ∧ (r.setQueue u q).p = r.p ∧ (r.setQueue u q).c = r.c ∧ (r.setQueue u q).v = r.v ∧
      (r.setQueue u q).astat = r.astat ∧ (r.setQueue u q).rowMap = r.rowMap ∧ (r.setQueue u q).pc = r.pc ∧ (r.setQueue u q).ord = r.ord :=
    fun r q => by cases u <;> exact ⟨rfl, rfl, rfl, rfl, rfl, rfl, rfl, rfl⟩
  obtain ⟨e1, e2, e3, e4, e5, e6, e7, e8⟩ := hs (f ((s.advance c).rod c.ph)) (⟨c.op, c.ord, c.pc, c.word, cnt, false, true, [], []⟩ :: (f ((s.advance c).rod c.ph)).queueOf u)
  obtain ⟨g1, g2, g3, g4, g5, g6, g7, g8⟩ := h3
  refine ⟨⟨rfl, ?_, ?_, ?_⟩, ?_, ?_, ?_, ?_⟩
  · intro k hk
    simp [State.begun, State.onRod, State.rod_setRod_ne, hk, State.advance]
  · rw [E, e7, g7, adv_rod]
  · rw [E, e8, g8, adv_rod]
  · intro m n hm hn; rw [E, ht]; exact h1 m n hm hn
  · intro k m n hm hn hk; rw [E, ht, h2 k m n hm hn hk]; exact adv_tat _ _ _ _ _
  · rw [E, e1, e2, e3, e4, e5, e6, g1, g2, g3, g4, g5, g6, adv_rod]; exact ⟨rfl, rfl, rfl, rfl, rfl, rfl⟩
  · intro v k hv
    rw [hu] at hv
    cases hv
    rw [E, hx, hq]

theorem tsetRows_same (t : Nat) : ∀ (rows : List (List W32)) (x : Rod) j, ∃ T, x.tsetRows t j rows = { x with t := T } := by
  intro rows
  induction rows with
  | nil => intro x j; exact ⟨x.t, rfl⟩
  | cons q rows ih => intro x j; obtain ⟨T, hT⟩ := ih (x.tset t j q) (j + 1); exact ⟨T, by rw [Rod.tsetRows, hT]; rfl⟩

theorem mmaTile_length (tw ta W A old z) : (mmaTile tw ta W A old z).length = 16 := by simp [mmaTile]

theorem mmaTile_row (tw ta W A old z) : ∀ row ∈ mmaTile tw ta W A old z, row.length = 64 := by
  intro row hrow
  simp only [mmaTile, List.mem_map] at hrow
  obtain ⟨_, _, rfl⟩ := hrow
  simp

theorem mma_exec {s : State} {l : Fin 512} {c : Ctx} {t pair ws as a b : Nat} {lat zero : Bool} {cnt : Option Nat}
    (h : s.readyOp l = some c) (ho : c.op = .mma t pair ws as a b lat zero cnt) :
    exec (if lat then .mmaLatched l else .mma l) s = .next (if s.mmaCheck c pair ws as ((s.rod c.ph).sget a).toNat ((s.rod c.ph).sget b).toNat lat ≠ 0 then
      s.unitRaises c (s.mmaCheck c pair ws as ((s.rod c.ph).sget a).toNat ((s.rod c.ph).sget b).toNat lat) else
    (((s.advance c).onRod c.ph (fun r' => { (r'.tsetRows t 0 (mmaTile (pairW pair ws) (pairA pair as) (linesOf (pairW pair ws) (pairDepth pair) 64
      (if lat then (match (s.rod c.ph).latch with | some x => x.bytes | none => []) else s.beadRead c.ph ((s.rod c.ph).sget a).toNat (operandBytes (pairW pair ws) (pairDepth pair) 64)))
      (linesOf (pairA pair as) (pairDepth pair) 16 (s.beadRead c.ph ((s.rod c.ph).sget b).toNat (operandBytes (pairA pair as) (pairDepth pair) 16))) ((s.advance c).rod c.ph |>.tget t) zero))
      with latch := if lat then r'.latch else some ⟨pair, ws, as, s.beadRead c.ph ((s.rod c.ph).sget a).toNat (operandBytes (pairW pair ws) (pairDepth pair) 64)⟩ })).vdone c [])) := by
  have hs : ∀ a, (s.advance c).s_ c a = (s.rod c.ph).sget a := by simp [State.s_, State.advance, State.onRod, Rod.sget]
  have hb : ∀ x y, (s.advance c).beadRangeBad c.ph x y = s.beadRangeBad c.ph x y := fun _ _ => rfl
  have hl : ((s.advance c).rod c.ph).latch = (s.rod c.ph).latch := by rw [adv_rod]
  have hu : c.op.unit = some (.matrix, cnt) := by rw [ho]; rfl
  have hm : ∀ wa aa, (s.advance c).mmaCheck c pair ws as wa aa lat = s.mmaCheck c pair ws as wa aa lat := by
    intro wa aa
    unfold State.mmaCheck
    simp only [hb, hl]
  cases lat
  · simp only [exec, execMma, Bool.false_eq_true, if_false]
    rw [State.issueUnit_ready h (by simp [ho]) hu (by decide)]
    simp only [State.mma, ho, hs, State.unitRaise_advance h]
    rw [hm]
    rfl
  · simp only [exec, execMmaLatched, if_true]
    rw [State.issueUnit_ready h (by simp [ho]) hu (by decide)]
    simp only [State.mma, ho, hs, State.unitRaise_advance h, hl]
    rw [hm]
    rfl

theorem tsetRows_all (t : Nat) (rows : List (List W32)) (r : Rod) (j : Nat) : let q := r.tsetRows t j rows; q.s = r.s ∧ q.p = r.p ∧ q.c = r.c ∧ q.v = r.v ∧ q.astat = r.astat ∧ q.rowMap = r.rowMap ∧ q.pc = r.pc ∧ q.ord = r.ord ∧
   q.mq = r.mq ∧ q.vq = r.vq ∧ q.cq = r.cq ∧ q.rem = r.rem := by
  obtain ⟨T, hT⟩ := tsetRows_same t rows r j
  rw [hT]
  exact ⟨rfl, rfl, rfl, rfl, rfl, rfl, rfl, rfl, rfl, rfl, rfl, rfl⟩

/-- What leaves on a link changes the fabric unit and the outputs only. -/
theorem sendSlots_frame (s : State) (p : Nat) (l : List LSlot) : ∃ F O, s.sendSlots p l = { s with fab := F, out := O } := ⟨_, _, rfl⟩

/-- A run of steps that each change the fabric unit and the outputs only changes nothing else. -/
theorem forEach_frame {α : Type} (f : α → State → State) (hf : ∀ a s, ∃ F O, f a s = { s with fab := F, out := O }) :
    ∀ (l : List α) (s : State), ∃ F O, s.forEach l f = { s with fab := F, out := O }
  | [], s => ⟨s.fab, s.out, rfl⟩
  | a :: l, s => by
    obtain ⟨F, O, h⟩ := hf a s
    obtain ⟨F', O', h'⟩ := forEach_frame f hf l (f a s)
    have e : s.forEach (a :: l) f = (f a s).forEach l f := rfl
    exact ⟨F', O', by rw [e, h', h]⟩

theorem linkSend_frame (s : State) (p : Nat) (f : Flit) : ∃ F O, s.linkSend p f = { s with fab := F, out := O } := by
  unfold State.linkSend State.sendGroup
  dsimp only
  split
  · exact ⟨s.fab, s.out, rfl⟩
  · split
    · exact ⟨_, s.out, rfl⟩
    · obtain ⟨F, O, h⟩ := forEach_frame (fun (l : List LSlot) (s : State) => s.sendSlots p l) (fun l s => sendSlots_frame s p l)
        (cutGroups (flitSlots f) 3) (s.onPort p (fun x => x.spend (flitChan f) f.size))
      exact ⟨F, O, h⟩

theorem rq_of {s t t0 : State} {c : Ctx} {o : RemOp} (h : ∃ F O, t = { t0 with fab := F, out := O }) (ht : t0 = (s.advance c).setRod c.ph { s.rod c.ph with
    pc := c.pc + 8, ord := c.ord + 1, rem := (s.rod c.ph).rem ++ [{ o with tag := (s.rod c.ph).nextTag }], nextTag := (s.rod c.ph).nextTag + 1 })
    (hc : ¬ (adClass o.addr ≠ 4 ∨ o.done ≠ none)) : RemQueued s t c o := by
  obtain ⟨F, O, rfl⟩ := h
  subst ht
  refine ⟨?_, ?_, rfl, fun q => absurd q hc⟩
  · exact State.rod_setRod _ _ _
  · intro k hk; exact (State.rod_setRod_ne _ _ hk).trans (adv_rod_ne _ _ _ hk)

theorem rem_queued {s : State} (c : Ctx) (o : RemOp) : RemQueued s ((s.advance c).remIssue c o) c { o with done := s.classResp o.addr o.len } := by
  have hd : (s.advance c).classResp o.addr o.len = s.classResp o.addr o.len := rfl
  have hq : ∀ q, (s.advance c).enqueueRem c.ph q = (s.advance c).setRod c.ph { s.rod c.ph with pc := c.pc + 8, ord := c.ord + 1, rem := (s.rod c.ph).rem ++ [{ q with tag := (s.rod c.ph).nextTag }], nextTag := (s.rod c.ph).nextTag + 1 } := by
    intro q; simp only [State.enqueueRem, State.onRod, adv_rod]
  have hn : ((s.advance c).rod c.ph).nextTag = (s.rod c.ph).nextTag := by rw [adv_rod]
  unfold State.remIssue
  dsimp only
  simp only [hd, hq, hn]
  split
  · next hc =>
    refine rq_of (forEach_frame (fun f s => s.linkSend (s.peer (adPeer o.addr)).port f) (fun f s => linkSend_frame s _ f) _ _) rfl ?_
    simp only [Bool.and_eq_true, decide_eq_true_eq, Option.isNone_iff_eq_none] at hc
    simp [hc.1, hc.2]
  · refine ⟨?_, ?_, rfl, fun _ => ⟨rfl, rfl⟩⟩
    · exact State.rod_setRod _ _ _
    · intro k hk; exact (State.rod_setRod_ne _ _ hk).trans (adv_rod_ne _ _ _ hk)

theorem rem_enqueued {s : State} (c : Ctx) (o : RemOp) : RemQueued s ((s.advance c).enqueueRem c.ph o) c o := by
  have hq : (s.advance c).enqueueRem c.ph o = (s.advance c).setRod c.ph { s.rod c.ph with pc := c.pc + 8, ord := c.ord + 1, rem := (s.rod c.ph).rem ++ [{ o with tag := (s.rod c.ph).nextTag }], nextTag := (s.rod c.ph).nextTag + 1 } := by
    simp only [State.enqueueRem, State.onRod, adv_rod]
  rw [hq]
  refine ⟨?_, ?_, rfl, fun _ => ⟨rfl, rfl⟩⟩
  · exact State.rod_setRod _ _ _
  · intro k hk; exact (State.rod_setRod_ne _ _ hk).trans (adv_rod_ne _ _ _ hk)

end Sys2Proof.Machine
end

