-- ==== Sys2Proof/Laws/Keeps.lean ====
section
/-! SUPPORT. What every operation of the block keeps, as one relation between the state before and the state after: the configuration,
the waiting commands, the canonical form of the memories, the blown TST_DONE fuse, the count of free values and what has left the
block. The files Keeps… of this folder prove it of each operation. -/

namespace Sys2Proof.Machine

/-- What every command keeps: `s0` before, `s` after. -/
structure Keeps (s0 s : State) : Prop where
  design : s.design = s0.design
  pending : s.pending = s0.pending
  mem : s0.memWf = true → s.memWf = true
  tst : s0.sec.tstDone = true → s.sec.tstDone = true
  free : s0.free ≤ s.free
  out : s0.out <+: s.out

/-- The same where a state stands beside an answer, or there may be none. -/
def Keeps2 {α : Type} (s0 : State) (x : α × State) : Prop := Keeps s0 x.2
def Keeps1 {α : Type} (s0 : State) (x : State × α) : Prop := Keeps s0 x.1
def Keeps22 {α β : Type} (s0 : State) (x : α × β × State) : Prop := Keeps s0 x.2.2
def Keeps21 {α β : Type} (s0 : State) (x : α × State × β) : Prop := Keeps s0 x.2.1
def KeepsO {α : Type} (s0 : State) (o : Option (α × State)) : Prop := ∀ x, o = some x → Keeps s0 x.2
def KeepsOS (s0 : State) (o : Option State) : Prop := ∀ x, o = some x → Keeps s0 x
def KeepsR (s0 : State) (o : Res) : Prop := ∀ t, o = .next t → Keeps s0 t

theorem Keeps.refl (s : State) : Keeps s s := ⟨rfl, rfl, id, id, Nat.le_refl _, List.prefix_refl _⟩

theorem KeepsR.next {s0 s : State} (h : Keeps s0 s) : KeepsR s0 (.next s) := fun _ e => by cases e; exact h

theorem Keeps.ite {s0 : State} {a b : State} {c : Prop} [Decidable c] (ha : Keeps s0 a) (hb : Keeps s0 b) :
    Keeps s0 (if c then a else b) := by split <;> assumption
theorem Keeps2.ite {α : Type} {s0 : State} {a b : α × State} {c : Prop} [Decidable c] (ha : Keeps2 s0 a) (hb : Keeps2 s0 b) :
    Keeps2 s0 (if c then a else b) := by split <;> assumption
theorem Keeps1.ite {α : Type} {s0 : State} {a b : State × α} {c : Prop} [Decidable c] (ha : Keeps1 s0 a) (hb : Keeps1 s0 b) :
    Keeps1 s0 (if c then a else b) := by split <;> assumption
theorem Keeps22.ite {α β : Type} {s0 : State} {a b : α × β × State} {c : Prop} [Decidable c] (ha : Keeps22 s0 a) (hb : Keeps22 s0 b) :
    Keeps22 s0 (if c then a else b) := by split <;> assumption
theorem Keeps21.ite {α β : Type} {s0 : State} {a b : α × State × β} {c : Prop} [Decidable c] (ha : Keeps21 s0 a) (hb : Keeps21 s0 b) :
    Keeps21 s0 (if c then a else b) := by split <;> assumption
theorem KeepsO.ite {α : Type} {s0 : State} {a b : Option (α × State)} {c : Prop} [Decidable c] (ha : KeepsO s0 a) (hb : KeepsO s0 b) :
    KeepsO s0 (if c then a else b) := by split <;> assumption
theorem KeepsOS.ite {s0 : State} {a b : Option State} {c : Prop} [Decidable c] (ha : KeepsOS s0 a) (hb : KeepsOS s0 b) :
    KeepsOS s0 (if c then a else b) := by split <;> assumption
theorem KeepsR.ite {s0 : State} {a b : Res} {c : Prop} [Decidable c] (ha : KeepsR s0 a) (hb : KeepsR s0 b) :
    KeepsR s0 (if c then a else b) := by split <;> assumption

theorem Keeps2.mk {α : Type} {s0 s : State} {a : α} (h : Keeps s0 s) : Keeps2 s0 (a, s) := h
theorem Keeps1.mk {α : Type} {s0 s : State} {a : α} (h : Keeps s0 s) : Keeps1 s0 (s, a) := h
theorem Keeps22.mk {α β : Type} {s0 : State} {a : α} {x : β × State} (h : Keeps2 s0 x) : Keeps22 s0 (a, x) := h
theorem Keeps21.mk {α β : Type} {s0 : State} {a : α} {x : State × β} (h : Keeps1 s0 x) : Keeps21 s0 (a, x) := h
theorem KeepsO.none {α : Type} {s0 : State} : KeepsO s0 (.none : Option (α × State)) := fun _ e => nomatch e
theorem KeepsO.some {α : Type} {s0 : State} {x : α × State} (h : Keeps2 s0 x) : KeepsO s0 (.some x) := fun _ e => by cases e; exact h
theorem KeepsOS.none {s0 : State} : KeepsOS s0 (.none : Option State) := fun _ e => nomatch e
theorem KeepsOS.some {s0 s : State} (h : Keeps s0 s) : KeepsOS s0 (.some s) := fun _ e => by cases e; exact h
theorem Keeps2.elim {α : Type} {s0 s : State} {a : α} {x : α × State} (e : x = (a, s)) (h : Keeps2 s0 x) : Keeps s0 s := by subst e; exact h
theorem Keeps1.elim {α : Type} {s0 s : State} {a : α} {x : State × α} (e : x = (s, a)) (h : Keeps1 s0 x) : Keeps s0 s := by subst e; exact h
theorem Keeps22.elim {α β : Type} {s0 s : State} {a : α} {b : β} {x : α × β × State} (e : x = (a, b, s)) (h : Keeps22 s0 x) :
    Keeps s0 s := by subst e; exact h
theorem Keeps21.elim {α β : Type} {s0 s : State} {a : α} {b : β} {x : α × State × β} (e : x = (a, s, b)) (h : Keeps21 s0 x) :
    Keeps s0 s := by subst e; exact h
theorem KeepsO.elim {α : Type} {s0 s : State} {a : α} {x : Option (α × State)} (e : x = .some (a, s)) (h : KeepsO s0 x) :
    Keeps s0 s := h _ e
theorem KeepsOS.elim {s0 s : State} {x : Option State} (e : x = .some s) (h : KeepsOS s0 x) : Keeps s0 s := h _ e
theorem KeepsR.elim {s0 s : State} {x : Res} (e : x = .next s) (h : KeepsR s0 x) : Keeps s0 s := h _ e
theorem Keeps.getD {s0 s : State} {x : Option State} (hx : KeepsOS s0 x) (h : Keeps s0 s) : Keeps s0 (x.getD s) := by
  cases x with
  | none => exact h
  | some y => exact hx _ rfl

theorem Keeps.gen {s0 s : State} {time regs free hbm bead imem ext boot hbmPoison beadPoison rods parts slate tenants chans reads tier gth fab sec flt dbg pwr tst out}
    (h : Keeps s0 s) (hf : s.free ≤ free) (hm : s.memWf = true → (Memory.wf hbm && Memory.wf bead && Memory.wf imem && Memory.wf ext && Memory.wf boot) = true)
    (ht : s.sec.tstDone = true → sec.tstDone = true) (ho : s.out <+: out) :
    Keeps s0 (State.mk s.pending free s.design time regs hbm bead imem ext boot hbmPoison beadPoison rods parts slate tenants chans reads tier gth fab sec flt dbg pwr tst out) :=
  ⟨h.design, h.pending, fun k => hm (h.mem k), fun k => ht (h.tst k), Nat.le_trans h.free hf, h.out.trans ho⟩

theorem Keeps.upd {s0 s : State} {time regs hbmPoison beadPoison rods parts slate tenants chans reads tier gth fab flt dbg pwr tst}
    (h : Keeps s0 s) :
    Keeps s0 (State.mk s.pending s.free s.design time regs s.hbm s.bead s.imem s.ext s.boot hbmPoison beadPoison rods parts slate tenants chans reads tier gth fab s.sec flt dbg pwr tst s.out) :=
  Keeps.gen h (Nat.le_refl _) id id (List.prefix_refl _)

theorem Keeps2.foldl {α β : Type} {s0 : State} {f : β × State → α → β × State} (hf : ∀ s a, Keeps2 s0 s → Keeps2 s0 (f s a)) (l : List α) :
    ∀ {s : β × State}, Keeps2 s0 s → Keeps2 s0 (l.foldl f s) := by
  induction l with
  | nil => exact id
  | cons a r ih => exact fun h => ih (hf _ a h)

theorem Keeps1.foldl {α β : Type} {s0 : State} {f : State × β → α → State × β} (hf : ∀ s a, Keeps1 s0 s → Keeps1 s0 (f s a)) (l : List α) :
    ∀ {s : State × β}, Keeps1 s0 s → Keeps1 s0 (l.foldl f s) := by
  induction l with
  | nil => exact id
  | cons a r ih => exact fun h => ih (hf _ a h)

theorem Keeps.foldl {α : Type} {s0 : State} {f : State → α → State} (hf : ∀ s a, Keeps s0 s → Keeps s0 (f s a)) (l : List α) :
    ∀ {s : State}, Keeps s0 s → Keeps s0 (l.foldl f s) := by
  induction l with
  | nil => exact id
  | cons a r ih => exact fun h => ih (hf _ a h)

theorem State.forEach_keeps {α : Type} {s0 s : State} {l : List α} {f : α → State → State}
    (hf : ∀ a s, Keeps s0 s → Keeps s0 (f a s)) (h : Keeps s0 s) : Keeps s0 (State.forEach l f s) :=
  Keeps.foldl (fun s a => hf a s) l h

theorem hbmMem {s : State} {m : Memory} (k : s.hbm.wf = true → m.wf = true) (h : s.memWf = true) :
    (m.wf && s.bead.wf && s.imem.wf && s.ext.wf && s.boot.wf) = true := by
  simp_all [State.memWf]
theorem beadMem {s : State} {m : Memory} (k : s.bead.wf = true → m.wf = true) (h : s.memWf = true) :
    (s.hbm.wf && m.wf && s.imem.wf && s.ext.wf && s.boot.wf) = true := by
  simp_all [State.memWf]
theorem imemMem {s : State} {m : Memory} (k : s.imem.wf = true → m.wf = true) (h : s.memWf = true) :
    (s.hbm.wf && s.bead.wf && m.wf && s.ext.wf && s.boot.wf) = true := by
  simp_all [State.memWf]
theorem extMem {s : State} {m : Memory} (k : s.ext.wf = true → m.wf = true) (h : s.memWf = true) :
    (s.hbm.wf && s.bead.wf && s.imem.wf && m.wf && s.boot.wf) = true := by
  simp_all [State.memWf]
theorem bootMem {s : State} {m : Memory} (k : s.boot.wf = true → m.wf = true) (h : s.memWf = true) :
    (s.hbm.wf && s.bead.wf && s.imem.wf && s.ext.wf && m.wf) = true := by
  simp_all [State.memWf]
/-- Bead and instruction memory cleared whole. -/
theorem resetMem {s : State} (h : s.memWf = true) :
    (s.hbm.wf && Memory.wf [] && Memory.wf [] && s.ext.wf && s.boot.wf) = true := by
  simp_all [State.memWf]
theorem Memory.foldWrite_wf (a : Nat) (l : List (Nat × Byte)) : ∀ (m : Memory), m.wf = true →
    Memory.wf (l.foldl (fun m e => m.write1 (a + e.1) e.2) m) = true := by
  induction l with
  | nil => exact fun _ h => h
  | cons e r ih => exact fun m h => ih _ (Memory.write1_wf _ _ h)

end Sys2Proof.Machine
end

