-- ==== Sys2Proof/Laws/KeepsRods.lean ====
section
/-! SUPPORT. What each operation keeps (Keeps.lean): shared operations and rods. -/

namespace Sys2Proof.Machine

theorem State.setSlot_keeps {s0 : State} {s : State} {i : Nat} {x : Slot} (h_s : Keeps s0 s) :
    Keeps s0 (State.setSlot s i x) := by
  unfold State.setSlot
  exact Keeps.upd h_s

theorem State.onSlot_keeps {s0 : State} {s : State} {i : Nat} {f : Slot → Slot} (h_s : Keeps s0 s) :
    Keeps s0 (State.onSlot s i f) := by
  unfold State.onSlot
  exact (State.setSlot_keeps h_s)

theorem State.setTen_keeps {s0 : State} {s : State} {t : Nat} {x : Tenant} (h_s : Keeps s0 s) :
    Keeps s0 (State.setTen s t x) := by
  unfold State.setTen
  exact Keeps.upd h_s

theorem State.onTen_keeps {s0 : State} {s : State} {t : Nat} {f : Tenant → Tenant} (h_s : Keeps s0 s) :
    Keeps s0 (State.onTen s t f) := by
  unfold State.onTen
  exact (State.setTen_keeps h_s)

theorem State.setChan_keeps {s0 : State} {s : State} {c : Nat} {x : Chan} (h_s : Keeps s0 s) :
    Keeps s0 (State.setChan s c x) := by
  unfold State.setChan
  exact Keeps.upd h_s

theorem State.hbmWrite_keeps {s0 : State} {s : State} {off : Nat} {bs : List Byte} (h_s : Keeps s0 s) :
    Keeps s0 (State.hbmWrite s off bs) := by
  unfold State.hbmWrite
  extract_lets -useContext -merge -underBinder x0 x1
  exact Keeps.gen h_s (Nat.le_refl _) (hbmMem (Memory.writeN_wf _ _)) id (List.prefix_refl _)

theorem State.hbmWrite64_keeps {s0 : State} {s : State} {off : Nat} {v : W64} (h_s : Keeps s0 s) :
    Keeps s0 (State.hbmWrite64 s off v) := by
  unfold State.hbmWrite64
  exact (State.hbmWrite_keeps h_s)

theorem State.beadWrite_keeps {s0 : State} {s : State} {ph : Nat} {off : Nat} {bs : List Byte} (h_s : Keeps s0 s) :
    Keeps s0 (State.beadWrite s ph off bs) := by
  unfold State.beadWrite
  extract_lets -useContext -merge -underBinder x0 x1
  exact Keeps.gen h_s (Nat.le_refl _) (beadMem (Memory.writeN_wf _ _)) id (List.prefix_refl _)

theorem State.markDemotes_keeps {s0 : State} {s : State} {p : Nat} {addr : Nat} {len : Nat} (h_s : Keeps s0 s) :
    Keeps s0 (State.markDemotes s p addr len) := by
  unfold State.markDemotes
  exact Keeps.upd h_s

theorem State.spanWrite_keeps {s0 : State} {s : State} {p : Nat} {addr : Nat} {bs : List Byte} (h_s : Keeps s0 s) :
    Keeps s0 (State.spanWrite s p addr bs) := by
  unfold State.spanWrite
  split
  · exact (State.hbmWrite_keeps h_s)
  · exact h_s

theorem State.spansWrite_keeps {s0 : State} {s : State} {p : Nat} {u2 : List (Nat × Nat)} {u3 : List Byte} (h_s : Keeps s0 s) :
    Keeps s0 (State.spansWrite s p u2 u3) := by
  induction u2 generalizing s p u3 with
  | nil =>
    rw [State.spansWrite.eq_1]
    exact h_s
  | cons a r ih =>
    rw [State.spansWrite.eq_2]
    exact (by apply ih; exact (State.spanWrite_keeps h_s))

theorem State.setReg_keeps {s0 : State} {s : State} {off : Nat} {v : W64} (h_s : Keeps s0 s) :
    Keeps s0 (State.setReg s off v) := by
  unfold State.setReg
  exact Keeps.upd h_s

theorem State.bump_keeps {s0 : State} {s : State} {off : Nat} {k : Nat} (h_s : Keeps s0 s) :
    Keeps s0 (State.bump s off k) := by
  unfold State.bump
  refine Keeps.ite ?_ ?_
  · exact h_s
  · exact (State.setReg_keeps h_s)

theorem State.countBad_keeps {s0 : State} {s : State} {p : Nat} {l : List (Nat × Nat)} (h_s : Keeps s0 s) :
    Keeps s0 (State.countBad s p l) := by
  unfold State.countBad
  exact (State.bump_keeps h_s)

theorem State.rangeWrite_keeps {s0 : State} {s : State} {p : Nat} {addr : Nat} {bs : List Byte} (h_s : Keeps s0 s) :
    Keeps s0 (State.rangeWrite s p addr bs) := by
  unfold State.rangeWrite
  extract_lets -useContext -merge -underBinder x0
  refine Keeps.ite ?_ ?_
  · exact (State.markDemotes_keeps (State.spansWrite_keeps h_s))
  · exact (State.countBad_keeps h_s)

theorem State.setPort_keeps {s0 : State} {s : State} {p : Nat} {x : Port} (h_s : Keeps s0 s) :
    Keeps s0 (State.setPort s p x) := by
  unfold State.setPort
  exact Keeps.upd h_s

theorem State.onPort_keeps {s0 : State} {s : State} {p : Nat} {f : Port → Port} (h_s : Keeps s0 s) :
    Keeps s0 (State.onPort s p f) := by
  unfold State.onPort
  exact (State.setPort_keeps h_s)

theorem State.send_keeps {s0 : State} {s : State} {o : Output} (h_s : Keeps s0 s) :
    Keeps s0 (State.send s o) := by
  unfold State.send
  exact Keeps.gen h_s (Nat.le_refl _) id id (List.prefix_append _ _)

theorem State.sendSlots_keeps {s0 : State} {s : State} {p : Nat} {l : List LSlot} (h_s : Keeps s0 s) :
    Keeps s0 (State.sendSlots s p l) := by
  unfold State.sendSlots
  extract_lets -useContext -merge -underBinder x0 x1 x2 x3 x4 x5
  exact (State.send_keeps (State.setPort_keeps h_s))

theorem State.sendGroup_keeps {s0 : State} {s : State} {p : Nat} {f : Flit} (h_s : Keeps s0 s) :
    Keeps s0 (State.sendGroup s p f) := by
  unfold State.sendGroup
  refine State.forEach_keeps (fun _ _ h0 => ?_) (State.onPort_keeps h_s)
  exact (State.sendSlots_keeps h0)

theorem State.linkSend_keeps {s0 : State} {s : State} {p : Nat} {f : Flit} (h_s : Keeps s0 s) :
    Keeps s0 (State.linkSend s p f) := by
  unfold State.linkSend
  extract_lets -useContext -merge -underBinder x0
  refine Keeps.ite ?_ ?_
  · exact h_s
  · refine Keeps.ite ?_ ?_
    · exact (State.setPort_keeps h_s)
    · exact (State.sendGroup_keeps h_s)

theorem State.setPart_keeps {s0 : State} {s : State} {p : Nat} {x : Part} (h_s : Keeps s0 s) :
    Keeps s0 (State.setPart s p x) := by
  unfold State.setPart
  exact Keeps.upd h_s

theorem State.onPart_keeps {s0 : State} {s : State} {p : Nat} {f : Part → Part} (h_s : Keeps s0 s) :
    Keeps s0 (State.onPart s p f) := by
  unfold State.onPart
  exact (State.setPart_keeps h_s)

theorem State.setRod_keeps {s0 : State} {s : State} {ph : Nat} {r : Rod} (h_s : Keeps s0 s) :
    Keeps s0 (State.setRod s ph r) := by
  unfold State.setRod
  exact Keeps.upd h_s

theorem State.onRod_keeps {s0 : State} {s : State} {ph : Nat} {f : Rod → Rod} (h_s : Keeps s0 s) :
    Keeps s0 (State.onRod s ph f) := by
  unfold State.onRod
  exact (State.setRod_keeps h_s)

theorem State.begun_keeps {s0 : State} {s : State} {c : Ctx} {u : AUnit} {cnt : Option Nat} {w : List (Nat × Nat)} (h_s : Keeps s0 s) :
    Keeps s0 (State.begun s c u cnt w) := by
  unfold State.begun
  exact (State.onRod_keeps h_s)

theorem State.vdone_keeps {s0 : State} {s : State} {c : Ctx} {w : List (Nat × Nat)} (h_s : Keeps s0 s) :
    Keeps s0 (State.vdone s c w) := by
  unfold State.vdone
  split
  · exact (State.begun_keeps h_s)
  · exact h_s

theorem State.accOp_keeps {s0 : State} {s : State} {c : Ctx} (h_s : Keeps s0 s) :
    Keeps s0 (State.accOp s c) := by
  unfold State.accOp
  split
  · exact (State.vdone_keeps (State.onRod_keeps h_s))
  · exact h_s

theorem State.accRow_keeps {s0 : State} {s : State} {ph : Nat} {t : Nat} {m : Nat} {f : Nat → W32 → W32} (h_s : Keeps s0 s) :
    Keeps s0 (State.accRow s ph t m f) := by
  unfold State.accRow
  exact (State.onRod_keeps h_s)

theorem State.journal_keeps {s0 : State} {s : State} {kind : Nat} {ws : List W64} (h_s : Keeps s0 s) :
    Keeps s0 (State.journal s kind ws) := by
  unfold State.journal
  exact Keeps.upd h_s

theorem State.addCnt_keeps {s0 : State} {s : State} {ph : Nat} {c : Nat} {k : Int} (h_s : Keeps s0 s) :
    Keeps s0 (State.addCnt s ph c k) := by
  unfold State.addCnt
  exact (State.onRod_keeps h_s)

theorem State.advance_keeps {s0 : State} {s : State} {c : Ctx} (h_s : Keeps s0 s) :
    Keeps s0 (State.advance s c) := by
  unfold State.advance
  exact (State.onRod_keeps h_s)

theorem State.event_keeps {s0 : State} {s : State} {n : Nat} (h_s : Keeps s0 s) :
    Keeps s0 (State.event s n) := by
  unfold State.event
  exact (State.setReg_keeps h_s)

theorem State.rangeWrite64_keeps {s0 : State} {s : State} {p : Nat} {addr : Nat} {v : W64} (h_s : Keeps s0 s) :
    Keeps s0 (State.rangeWrite64 s p addr v) := by
  unfold State.rangeWrite64
  exact (State.rangeWrite_keeps h_s)

theorem State.setRf_keeps {s0 : State} {s : State} {off : Nat} {hi : Nat} {lo : Nat} {v : Nat} (h_s : Keeps s0 s) :
    Keeps s0 (State.setRf s off hi lo v) := by
  unfold State.setRf
  exact (State.setReg_keeps h_s)

theorem State.histAdd_keeps {s0 : State} {s : State} {n : Nat} {v : Nat} (h_s : Keeps s0 s) :
    Keeps s0 (State.histAdd s n v) := by
  unfold State.histAdd
  exact (State.bump_keeps h_s)

theorem State.histEvent_keeps {s0 : State} {s : State} {src : Nat} {inst : Nat} {v : Nat} (h_s : Keeps s0 s) :
    Keeps s0 (State.histEvent s src inst v) := by
  unfold State.histEvent
  refine Keeps.foldl (fun _ _ h0 => ?_) _ h_s
  exact (State.histAdd_keeps h0)

theorem State.draw_keeps {s0 : State} {s : State} (h_s : Keeps s0 s) :
    Keeps2 s0 (State.draw s) := by
  unfold State.draw
  refine Keeps2.mk ?_
  exact Keeps.gen h_s (Nat.le_add_right _ _) id id (List.prefix_refl _)

theorem State.countPoison_keeps {s0 : State} {s : State} {part : Nat} {target : Nat} (h_s : Keeps s0 s) :
    Keeps s0 (State.countPoison s part target) := by
  unfold State.countPoison
  extract_lets -useContext -merge -underBinder x0 x1 x2
  have h3 : Keeps s0 x0 := (State.bump_keeps h_s)
  clear_value x0
  exact Keeps.upd h3

theorem State.raise_keeps {s0 : State} {s : State} {c : Ctx} {cause : Nat} (h_s : Keeps s0 s) :
    Keeps s0 (State.raise s c cause) := by
  unfold State.raise
  exact (State.onRod_keeps h_s)

theorem State.enqueueRem_keeps {s0 : State} {s : State} {ph : Nat} {o : RemOp} (h_s : Keeps s0 s) :
    Keeps s0 (State.enqueueRem s ph o) := by
  unfold State.enqueueRem
  exact (State.onRod_keeps h_s)

theorem State.remIssue_keeps {s0 : State} {s : State} {c : Ctx} {o : RemOp} (h_s : Keeps s0 s) :
    Keeps s0 (State.remIssue s c o) := by
  unfold State.remIssue
  extract_lets -useContext -merge -underBinder x0 x1 x2
  have h3 : Keeps s0 x2 := (State.enqueueRem_keeps h_s)
  clear_value x2
  refine Keeps.ite ?_ ?_
  · refine State.forEach_keeps (fun _ _ h4 => ?_) h3
    exact (State.linkSend_keeps h4)
  · exact h3

theorem State.atomIssue_keeps {s0 : State} {s : State} {c : Ctx} (h_s : Keeps s0 s) :
    Keeps s0 (State.atomIssue s c) := by
  unfold State.atomIssue
  split
  · extract_lets -useContext -merge -underBinder x0 x1
    refine Keeps.ite ?_ ?_
    · exact (State.raise_keeps h_s)
    · exact (State.remIssue_keeps h_s)
  · exact h_s

theorem State.awaitPeer_keeps {s0 : State} {s : State} {p : Nat} {resp : Nat} {a : Nat} (h_s : Keeps s0 s) :
    Keeps s0 (State.awaitPeer s p resp a) := by
  unfold State.awaitPeer
  refine Keeps.ite ?_ ?_
  · exact (State.onPart_keeps h_s)
  · exact h_s

theorem State.beadZero_keeps {s0 : State} {s : State} {ph : Nat} (h_s : Keeps s0 s) :
    Keeps s0 (State.beadZero s ph) := by
  unfold State.beadZero
  exact Keeps.gen h_s (Nat.le_refl _) (beadMem (Memory.zero_wf _ _)) id (List.prefix_refl _)

theorem State.drawMany_keeps {s0 : State} {s : State} {n : Nat} (h_s : Keeps s0 s) :
    Keeps2 s0 (State.drawMany s n) := by
  unfold State.drawMany
  refine Keeps2.mk ?_
  exact Keeps.gen h_s (Nat.le_add_right _ _) id id (List.prefix_refl _)

theorem State.vcvtToOp_keeps {s0 : State} {s : State} {c : Ctx} (h_s : Keeps s0 s) :
    Keeps s0 (State.vcvtToOp s c) := by
  unfold State.vcvtToOp
  split
  · split
    · exact (State.vdone_keeps (State.onRod_keeps h_s))
    · exact h_s
  · exact h_s

theorem State.vcvtScOp_keeps {s0 : State} {s : State} {c : Ctx} (h_s : Keeps s0 s) :
    Keeps s0 (State.vcvtScOp s c) := by
  unfold State.vcvtScOp
  split
  · split
    · exact (State.vdone_keeps (State.onRod_keeps h_s))
    · exact h_s
  · exact h_s

theorem State.vcvtFromOp_keeps {s0 : State} {s : State} {c : Ctx} (h_s : Keeps s0 s) :
    Keeps s0 (State.vcvtFromOp s c) := by
  unfold State.vcvtFromOp
  split
  · split
    · exact (State.vdone_keeps (State.onRod_keeps h_s))
    · exact h_s
  · exact h_s

theorem State.vecOp_keeps {s0 : State} {s : State} {c : Ctx} (h_s : Keeps s0 s) :
    Keeps s0 (State.vecOp s c) := by
  unfold State.vecOp
  split
  · exact (State.vdone_keeps (State.onRod_keeps h_s))
  · exact h_s

theorem State.unitRaise_keeps {s0 : State} {s : State} {c : Ctx} {cause : Nat} (h_s : Keeps s0 s) :
    Keeps s0 (State.unitRaise s c cause) := by
  unfold State.unitRaise
  exact (State.onRod_keeps h_s)

theorem State.vldOp_keeps {s0 : State} {s : State} {c : Ctx} (h_s : Keeps s0 s) :
    Keeps s0 (State.vldOp s c) := by
  unfold State.vldOp
  split
  · extract_lets -useContext -merge -underBinder x0 x1
    refine Keeps.ite ?_ ?_
    · exact (State.unitRaise_keeps h_s)
    · refine Keeps.ite ?_ ?_
      · exact (State.unitRaise_keeps h_s)
      · exact (State.vdone_keeps (State.onRod_keeps h_s))
  · exact h_s

theorem State.unorderedWrite_keeps {s0 : State} {s : State} {p : Nat} {ph : Nat} {off : Nat} {bs : List Byte} {cl : List (Nat × Nat)} (h_s : Keeps s0 s) :
    Keeps s0 (State.unorderedWrite s p ph off bs cl) := by
  have h1 : Keeps s0 (if s.beadWriteMeets ph off bs.length then s.countPoison p (1 + ph) else s) :=
    Keeps.ite (State.countPoison_keeps h_s) h_s
  have hf : (if s.beadWriteMeets ph off bs.length then s.countPoison p (1 + ph) else s).free = s.free := by
    split
    · obtain ⟨_, _, e⟩ := State.countPoison_spec s p (1 + ph)
      rw [e]
    · rfl
  unfold State.unorderedWrite
  extract_lets s1
  refine Keeps.ite ?_ (State.beadWrite_keeps h1)
  exact Keeps.gen (State.beadWrite_keeps (s := s1) h1) (by rw [show (s1.beadWrite ph off _).free = s.free from hf]; exact Nat.le_succ _) id id (List.prefix_refl _)

theorem State.unitWrite_keeps {s0 : State} {s : State} {c : Ctx} {off : Nat} {bs : List Byte} {u : Option AUnit} (h_s : Keeps s0 s) :
    Keeps s0 (State.unitWrite s c off bs u) := by
  unfold State.unitWrite
  exact (State.onRod_keeps (State.unorderedWrite_keeps h_s))

theorem State.vstOp_keeps {s0 : State} {s : State} {c : Ctx} (h_s : Keeps s0 s) :
    Keeps s0 (State.vstOp s c) := by
  unfold State.vstOp
  split
  · extract_lets -useContext -merge -underBinder x0 x1
    refine Keeps.ite ?_ ?_
    · exact (State.unitRaise_keeps h_s)
    · exact (State.vdone_keeps (State.unitWrite_keeps h_s))
  · exact h_s

theorem State.mma_keeps {s0 : State} {s : State} {c : Ctx} (h_s : Keeps s0 s) :
    Keeps s0 (State.mma s c) := by
  unfold State.mma
  split
  · extract_lets -useContext -merge -underBinder x0 x1 x2 x3 x4 x5 x6 x7 x8 x9
    have h10 : Keeps s0 x9 := (State.onRod_keeps h_s)
    clear_value x9
    refine Keeps.ite ?_ ?_
    · exact (State.unitRaise_keeps h_s)
    · exact (State.vdone_keeps h10)
  · exact h_s

theorem State.carryPut_keeps {s0 : State} {s : State} {ph : Nat} {n : Nat} {v : W64} (h_s : Keeps s0 s) :
    Keeps s0 (State.carryPut s ph n v) := by
  unfold State.carryPut
  exact (State.beadWrite_keeps h_s)

theorem State.carryAdd_keeps {s0 : State} {s : State} {ph : Nat} {n : Nat} {k : Nat} (h_s : Keeps s0 s) :
    Keeps s0 (State.carryAdd s ph n k) := by
  unfold State.carryAdd
  refine Keeps.ite ?_ ?_
  · exact h_s
  · exact (State.carryPut_keeps h_s)

theorem State.carryMap_keeps {s0 : State} {s : State} {c : Ctx} {a : Nat} (h_s : Keeps s0 s) :
    Keeps s0 (State.carryMap s c a) := by
  unfold State.carryMap
  extract_lets -useContext -merge -underBinder x0 x1 x2 x3
  have h4 : Keeps s0 x3 := (State.onRod_keeps h_s)
  clear_value x3
  refine Keeps.ite ?_ ?_
  · exact (State.unitRaise_keeps h_s)
  · refine Keeps.ite ?_ ?_
    · exact (State.unitRaise_keeps h_s)
    · refine Keeps.ite ?_ ?_
      · exact (State.unitRaise_keeps h_s)
      · refine Keeps.ite ?_ ?_
        · exact (State.vdone_keeps (State.onRod_keeps h_s))
        · exact (State.vdone_keeps (State.bump_keeps (State.carryPut_keeps (State.carryAdd_keeps h4))))

theorem State.carryCount_keeps {s0 : State} {s : State} {c : Ctx} {rows : List CRow} {act : RowClass} {n : Nat} (h_s : Keeps s0 s) :
    Keeps s0 (State.carryCount s c rows act n) := by
  unfold State.carryCount
  extract_lets -useContext -merge -underBinder x0 x1 x2
  have h3 : Keeps s0 x2 := (State.bump_keeps (State.carryAdd_keeps h_s))
  clear_value x2
  refine Keeps.ite ?_ ?_
  · exact h3
  · exact (State.carryAdd_keeps h3)

theorem State.carryMix_keeps {s0 : State} {s : State} {c : Ctx} {a : Nat} {b : Nat} (h_s : Keeps s0 s) :
    Keeps s0 (State.carryMix s c a b) := by
  unfold State.carryMix
  extract_lets -useContext -merge -underBinder x0 x1 x2 x3 x4 x5
  refine Keeps.ite ?_ ?_
  · exact (State.unitRaise_keeps h_s)
  · split
    · exact (State.vdone_keeps (State.carryCount_keeps h_s))
    · extract_lets -useContext -merge -underBinder x6 x7
      have h8 : Keeps s0 x7 := by
        unfold x7
        refine Keeps.foldl (fun _ _ h9 => ?_) _ h_s
        exact (State.unitWrite_keeps h9)
      clear_value x7
      exact (State.vdone_keeps (State.carryCount_keeps h8))

theorem State.carryDown_keeps {s0 : State} {s : State} {c : Ctx} {a : Nat} {b : Nat} (h_s : Keeps s0 s) :
    Keeps s0 (State.carryDown s c a b) := by
  unfold State.carryDown
  extract_lets -useContext -merge -underBinder x0 x1 x2 x3 x4 x5
  refine Keeps.ite ?_ ?_
  · exact (State.unitRaise_keeps h_s)
  · exact (State.vdone_keeps (State.carryCount_keeps (State.unitWrite_keeps h_s)))

theorem State.eachRow_keeps {s0 : State} {rows : List CRow} {f : CRow → State → State} {s : State} (h_f : ∀ (a0 : CRow) (a1 : State), Keeps s0 a1 → Keeps s0 (f a0 a1)) (h_s : Keeps s0 s) :
    Keeps s0 (State.eachRow rows f s) := by
  unfold State.eachRow
  refine Keeps.foldl (fun _ _ h0 => ?_) _ h_s
  exact (h_f _ _ h0)

theorem State.carryUp_keeps {s0 : State} {s : State} {c : Ctx} {t : Nat} {a : Nat} {b : Nat} (h_s : Keeps s0 s) :
    Keeps s0 (State.carryUp s c t a b) := by
  unfold State.carryUp
  extract_lets -useContext -merge -underBinder x0 x1 x2 x3 x4
  have h5 : Keeps s0 x4 := by
    unfold x4
    exact State.eachRow_keeps (fun _ _ h6 => (State.accRow_keeps h6)) h_s
  clear_value x4
  refine Keeps.ite ?_ ?_
  · exact (State.unitRaise_keeps h_s)
  · exact (State.vdone_keeps (State.carryCount_keeps h5))

theorem State.carryAddRows_keeps {s0 : State} {s : State} {c : Ctx} {t : Nat} {a : Nat} (h_s : Keeps s0 s) :
    Keeps s0 (State.carryAddRows s c t a) := by
  unfold State.carryAddRows
  extract_lets -useContext -merge -underBinder x0 x1 x2 x3
  have h4 : Keeps s0 x3 := by
    unfold x3
    exact State.eachRow_keeps (fun _ _ h5 => (State.accRow_keeps h5)) h_s
  clear_value x3
  refine Keeps.ite ?_ ?_
  · exact (State.unitRaise_keeps h_s)
  · exact (State.vdone_keeps (State.carryCount_keeps h4))

theorem State.carryFn_keeps {s0 : State} {s : State} {c : Ctx} (h_s : Keeps s0 s) :
    Keeps s0 (State.carryFn s c) := by
  unfold State.carryFn
  split
  · extract_lets -useContext -merge -underBinder x0 x1
    refine Keeps.ite ?_ ?_
    · exact (State.carryMap_keeps h_s)
    · refine Keeps.ite ?_ ?_
      · exact (State.carryMix_keeps h_s)
      · refine Keeps.ite ?_ ?_
        · exact (State.carryDown_keeps h_s)
        · refine Keeps.ite ?_ ?_
          · exact (State.carryUp_keeps h_s)
          · exact (State.carryAddRows_keeps h_s)
  · exact h_s

theorem State.runOp_keeps {s0 : State} {s : State} {c : Ctx} (h_s : Keeps s0 s) :
    Keeps s0 (State.runOp s c) := by
  unfold State.runOp
  split
  · refine Keeps.ite ?_ ?_
    · exact (State.vcvtToOp_keeps h_s)
    · refine Keeps.ite ?_ ?_
      · exact (State.vcvtScOp_keeps h_s)
      · refine Keeps.ite ?_ ?_
        · exact (State.vcvtFromOp_keeps h_s)
        · exact (State.vecOp_keeps h_s)
  · exact (State.vldOp_keeps h_s)
  · exact (State.vstOp_keeps h_s)
  · exact (State.accOp_keeps h_s)
  · exact (State.mma_keeps h_s)
  · exact (State.carryFn_keeps h_s)
  · exact h_s

theorem State.startHead_keeps {s0 : State} {s : State} {l : Nat} {u : AUnit} (h_s : Keeps s0 s) :
    Keeps s0 (State.startHead s l u) := by
  unfold State.startHead
  extract_lets -useContext -merge -underBinder x0 x1
  split
  · extract_lets -useContext -merge -underBinder x2
    refine Keeps.ite ?_ ?_
    · exact (State.runOp_keeps (State.onRod_keeps h_s))
    · exact h_s
  · exact h_s

theorem State.startUnits_keeps {s0 : State} {s : State} {l : Nat} (h_s : Keeps s0 s) :
    Keeps s0 (State.startUnits s l) := by
  unfold State.startUnits
  exact (State.startHead_keeps (State.startHead_keeps (State.startHead_keeps h_s)))

theorem State.startPart_keeps {s0 : State} {s : State} {p : Nat} (h_s : Keeps s0 s) :
    Keeps s0 (State.startPart s p) := by
  unfold State.startPart
  refine State.forEach_keeps (fun _ _ h0 => ?_) h_s
  exact (State.startUnits_keeps h0)

theorem State.trigger_keeps {s0 : State} {s : State} {kind : Nat} {sel : Nat → Bool} (h_s : Keeps s0 s) :
    Keeps s0 (State.trigger s kind sel) := by
  unfold State.trigger
  extract_lets -useContext -merge -underBinder x0 x1
  exact Keeps.upd h_s

theorem State.imemZero_keeps {s0 : State} {s : State} {ph : Nat} (h_s : Keeps s0 s) :
    Keeps s0 (State.imemZero s ph) := by
  unfold State.imemZero
  exact Keeps.gen h_s (Nat.le_refl _) (imemMem (Memory.zero_wf _ _)) id (List.prefix_refl _)

theorem State.setPeer_keeps {s0 : State} {s : State} {k : Nat} {x : Peer} (h_s : Keeps s0 s) :
    Keeps s0 (State.setPeer s k x) := by
  unfold State.setPeer
  exact Keeps.upd h_s

theorem State.ctrlSend_keeps {s0 : State} {s : State} {p : Nat} {what : Nat} {arg : Nat} (h_s : Keeps s0 s) :
    Keeps s0 (State.ctrlSend s p what arg) := by
  unfold State.ctrlSend
  exact (State.send_keeps (State.linkSend_keeps h_s))

theorem State.poisonBead_keeps {s0 : State} {s : State} {g : Nat} (h_s : Keeps s0 s) :
    Keeps s0 (State.poisonBead s g) := by
  unfold State.poisonBead
  exact Keeps.upd h_s

theorem State.deliver_keeps {s0 : State} {s : State} {p : Nat} {ph : Nat} {o : RemOp} (h_s : Keeps s0 s) :
    Keeps s0 (State.deliver s p ph o) := by
  unfold State.deliver
  refine State.forEach_keeps (fun _ _ h0 => ?_) (State.unorderedWrite_keeps h_s)
  refine State.forEach_keeps (fun _ _ h1 => ?_) h0
  exact (State.poisonBead_keeps h1)

theorem State.faultRecord_keeps {s0 : State} {s : State} {cls : Nat} {cause : Nat} {resp : Nat} {part : Nat} {unit : Nat} {addr : Nat} {step : Nat} (h_s : Keeps s0 s) :
    Keeps s0 (State.faultRecord s cls cause resp part unit addr step) := by
  unfold State.faultRecord
  extract_lets -useContext -merge -underBinder x0 x1 x2 x3 x4
  refine Keeps.ite ?_ ?_
  · exact (State.bump_keeps h_s)
  · exact (State.trigger_keeps (State.event_keeps (State.setReg_keeps (State.hbmWrite_keeps h_s))))

theorem State.drain_keeps {s0 : State} {s : State} {p : Nat} {u2 : List Flit} (h_s : Keeps s0 s) :
    Keeps s0 (State.drain s p u2) := by
  induction u2 generalizing s p with
  | nil =>
    rw [State.drain.eq_1]
    exact h_s
  | cons a r ih =>
    rw [State.drain.eq_2]
    refine Keeps.ite ?_ ?_
    · exact (by apply ih; exact (State.setPort_keeps h_s))
    · exact (by apply ih; exact (State.sendGroup_keeps h_s))

theorem State.drainWaiting_keeps {s0 : State} {s : State} {p : Nat} (h_s : Keeps s0 s) :
    Keeps s0 (State.drainWaiting s p) := by
  unfold State.drainWaiting
  extract_lets -useContext -merge -underBinder x0
  exact (State.drain_keeps (State.onPort_keeps h_s))

theorem State.enqueue_keeps {s0 : State} {s : State} {ph : Nat} {u : AUnit} {e : AEntry} (h_s : Keeps s0 s) :
    Keeps s0 (State.enqueue s ph u e) := by
  unfold State.enqueue
  exact (State.onRod_keeps h_s)

theorem State.fence_keeps {s0 : State} {s : State} {c : Ctx} (h_s : Keeps s0 s) :
    Keeps s0 (State.fence s c) := by
  unfold State.fence
  split
  · exact (State.onRod_keeps h_s)
  · exact h_s

theorem State.holdPart_keeps {s0 : State} {s : State} {p : Nat} {hold : Nat} {cause : Nat} {resp : Nat} (h_s : Keeps s0 s) :
    Keeps s0 (State.holdPart s p hold cause resp) := by
  unfold State.holdPart
  extract_lets -useContext -merge -underBinder x0
  refine Keeps.ite ?_ ?_
  · exact (State.setPart_keeps h_s)
  · exact h_s

theorem State.idleGroup_keeps {s0 : State} {s : State} {p : Nat} (h_s : Keeps s0 s) :
    Keeps s0 (State.idleGroup s p) := by
  unfold State.idleGroup
  extract_lets -useContext -merge -underBinder x0
  refine Keeps.ite ?_ ?_
  · exact h_s
  · exact (State.sendSlots_keeps h_s)

theorem State.suppress_keeps {s0 : State} {s : State} {c : Ctx} (h_s : Keeps s0 s) :
    Keeps s0 (State.suppress s c) := by
  unfold State.suppress
  split
  · exact h_s
  · exact (State.enqueueRem_keeps h_s)
  · exact (State.enqueue_keeps h_s)

theorem State.issue_keeps {s0 : State} {s : State} {l : Nat} {sel : RodOp → Bool} {act : Ctx → State → State} (h_s : Keeps s0 s) (h_act : ∀ (a0 : Ctx) (a1 : State), Keeps s0 a1 → Keeps s0 (act a0 a1)) :
    Keeps s0 (State.issue s l sel act) := by
  unfold State.issue
  split
  · exact h_s
  · split
    · exact (State.raise_keeps h_s)
    · split
      · exact (State.raise_keeps h_s)
      · extract_lets -useContext -merge -underBinder x0 x1 x2
        refine Keeps.ite ?_ ?_
        · exact h_s
        · refine Keeps.ite ?_ ?_
          · exact (h_act _ _ (State.advance_keeps h_s))
          · exact (State.suppress_keeps (State.advance_keeps h_s))

theorem State.issueUnit_keeps {s0 : State} {s : State} {l : Nat} {sel : RodOp → Bool} {act : Ctx → State → State} (h_s : Keeps s0 s) (h_act : ∀ (a0 : Ctx) (a1 : State), Keeps s0 a1 → Keeps s0 (act a0 a1)) :
    Keeps s0 (State.issueUnit s l sel act) := by
  unfold State.issueUnit
  refine State.issue_keeps h_s (fun _ _ h0 => ?_)
  split
  · refine Keeps.ite ?_ ?_
    · exact (h_act _ _ h0)
    · exact (State.enqueue_keeps h0)
  · exact h0

theorem State.setS_keeps {s0 : State} {s : State} {c : Ctx} {d : Nat} {v : W64} (h_s : Keeps s0 s) :
    Keeps s0 (State.setS s c d v) := by
  unfold State.setS
  exact (State.onRod_keeps h_s)

theorem State.jump_keeps {s0 : State} {s : State} {c : Ctx} {target : W64} {link : Nat} (h_s : Keeps s0 s) :
    Keeps s0 (State.jump s c target link) := by
  unfold State.jump
  refine Keeps.ite ?_ ?_
  · exact (State.onRod_keeps (State.setS_keeps h_s))
  · exact (State.raise_keeps h_s)

theorem State.poisonHbm_keeps {s0 : State} {s : State} {g : Nat} (h_s : Keeps s0 s) :
    Keeps s0 (State.poisonHbm s g) := by
  unfold State.poisonHbm
  exact Keeps.upd h_s

theorem State.remFail_keeps {s0 : State} {s : State} {ph : Nat} {o : RemOp} {resp : Nat} (h_s : Keeps s0 s) :
    Keeps s0 (State.remFail s ph o resp) := by
  unfold State.remFail
  exact (State.onRod_keeps h_s)

theorem State.tryIssue_keeps {s0 : State} {s : State} {l : Nat} (h_s : Keeps s0 s) :
    Keeps s0 (State.tryIssue s l) := by
  unfold State.tryIssue
  exact State.issue_keeps h_s (fun _ _ h0 => h0)

theorem execNop_keeps {s0 : State} {l : Fin 512} {s : State} (h_s : Keeps s0 s) :
    KeepsR s0 (execNop l s) := by
  unfold execNop
  refine KeepsR.next ?_
  exact State.issue_keeps h_s (fun _ _ h0 => h0)

theorem execSrRd_keeps {s0 : State} {l : Fin 512} {s : State} (h_s : Keeps s0 s) :
    KeepsR s0 (execSrRd l s) := by
  unfold execSrRd
  refine KeepsR.next ?_
  refine State.issue_keeps h_s (fun _ _ h0 => ?_)
  split
  · exact (State.setS_keeps h0)
  · exact h0

theorem execSrWr_keeps {s0 : State} {l : Fin 512} {s : State} (h_s : Keeps s0 s) :
    KeepsR s0 (execSrWr l s) := by
  unfold execSrWr
  refine KeepsR.next ?_
  refine State.issue_keeps h_s (fun _ _ h0 => ?_)
  split
  · exact (State.onRod_keeps h0)
  · exact h0

theorem execBreak_keeps {s0 : State} {l : Fin 512} {s : State} (h_s : Keeps s0 s) :
    KeepsR s0 (execBreak l s) := by
  unfold execBreak
  refine KeepsR.next ?_
  exact State.issue_keeps h_s (fun _ _ h0 => (State.raise_keeps h0))

theorem execBr_keeps {s0 : State} {l : Fin 512} {s : State} (h_s : Keeps s0 s) :
    KeepsR s0 (execBr l s) := by
  unfold execBr
  refine KeepsR.next ?_
  refine State.issue_keeps h_s (fun _ _ h0 => ?_)
  split
  · exact (State.jump_keeps h0)
  · exact h0

theorem execBl_keeps {s0 : State} {l : Fin 512} {s : State} (h_s : Keeps s0 s) :
    KeepsR s0 (execBl l s) := by
  unfold execBl
  refine KeepsR.next ?_
  refine State.issue_keeps h_s (fun _ _ h0 => ?_)
  split
  · exact (State.jump_keeps h0)
  · exact h0

theorem execJr_keeps {s0 : State} {l : Fin 512} {s : State} (h_s : Keeps s0 s) :
    KeepsR s0 (execJr l s) := by
  unfold execJr
  refine KeepsR.next ?_
  refine State.issue_keeps h_s (fun _ _ h0 => ?_)
  split
  · exact (State.jump_keeps h0)
  · exact h0

theorem execJlr_keeps {s0 : State} {l : Fin 512} {s : State} (h_s : Keeps s0 s) :
    KeepsR s0 (execJlr l s) := by
  unfold execJlr
  refine KeepsR.next ?_
  refine State.issue_keeps h_s (fun _ _ h0 => ?_)
  split
  · exact (State.jump_keeps h0)
  · exact h0

theorem execIntegerOp_keeps {s0 : State} {l : Fin 512} {s : State} (h_s : Keeps s0 s) :
    KeepsR s0 (execIntegerOp l s) := by
  unfold execIntegerOp
  refine KeepsR.next ?_
  refine State.issue_keeps h_s (fun _ _ h0 => ?_)
  split
  · exact (State.setS_keeps h0)
  · exact h0

theorem execIntegerImmediateOp_keeps {s0 : State} {l : Fin 512} {s : State} (h_s : Keeps s0 s) :
    KeepsR s0 (execIntegerImmediateOp l s) := by
  unfold execIntegerImmediateOp
  refine KeepsR.next ?_
  refine State.issue_keeps h_s (fun _ _ h0 => ?_)
  split
  · exact (State.setS_keeps h0)
  · exact h0

theorem execCmp_keeps {s0 : State} {l : Fin 512} {s : State} (h_s : Keeps s0 s) :
    KeepsR s0 (execCmp l s) := by
  unfold execCmp
  refine KeepsR.next ?_
  refine State.issue_keeps h_s (fun _ _ h0 => ?_)
  split
  · exact (State.onRod_keeps h0)
  · exact h0

theorem execCmpi_keeps {s0 : State} {l : Fin 512} {s : State} (h_s : Keeps s0 s) :
    KeepsR s0 (execCmpi l s) := by
  unfold execCmpi
  refine KeepsR.next ?_
  refine State.issue_keeps h_s (fun _ _ h0 => ?_)
  split
  · exact (State.onRod_keeps h0)
  · exact h0

theorem execPred_keeps {s0 : State} {l : Fin 512} {s : State} (h_s : Keeps s0 s) :
    KeepsR s0 (execPred l s) := by
  unfold execPred
  refine KeepsR.next ?_
  refine State.issue_keeps h_s (fun _ _ h0 => ?_)
  split
  · exact (State.onRod_keeps h0)
  · exact h0

theorem execFp32ScalarOp_keeps {s0 : State} {l : Fin 512} {s : State} (h_s : Keeps s0 s) :
    KeepsR s0 (execFp32ScalarOp l s) := by
  unfold execFp32ScalarOp
  refine KeepsR.next ?_
  refine State.issue_keeps h_s (fun _ _ h0 => ?_)
  split
  · extract_lets -useContext -merge -underBinder x1
    exact (State.onRod_keeps h0)
  · exact h0

theorem execLd_keeps {s0 : State} {l : Fin 512} {s : State} (h_s : Keeps s0 s) :
    KeepsR s0 (execLd l s) := by
  unfold execLd
  refine KeepsR.next ?_
  refine State.issue_keeps h_s (fun _ _ h0 => ?_)
  split
  · extract_lets -useContext -merge -underBinder x1 x2 x3
    refine Keeps.ite ?_ ?_
    · exact (State.raise_keeps h0)
    · refine Keeps.ite ?_ ?_
      · exact (State.raise_keeps h0)
      · exact (State.setS_keeps h0)
  · exact h0

theorem execSt_keeps {s0 : State} {l : Fin 512} {s : State} (h_s : Keeps s0 s) :
    KeepsR s0 (execSt l s) := by
  unfold execSt
  refine KeepsR.next ?_
  refine State.issue_keeps h_s (fun _ _ h0 => ?_)
  split
  · extract_lets -useContext -merge -underBinder x1 x2 x3
    refine Keeps.ite ?_ ?_
    · exact (State.raise_keeps h0)
    · exact (State.unitWrite_keeps h0)
  · exact h0

theorem execWait_keeps {s0 : State} {l : Fin 512} {s : State} (h_s : Keeps s0 s) :
    KeepsR s0 (execWait l s) := by
  unfold execWait
  refine KeepsR.next ?_
  refine State.issue_keeps h_s (fun _ _ h0 => ?_)
  split
  · refine Keeps.ite ?_ ?_
    · exact h0
    · extract_lets -useContext -merge -underBinder x1
      have h2 : Keeps s0 x1 := (State.onRod_keeps h0)
      clear_value x1
      refine Keeps.ite ?_ ?_
      · exact (State.bump_keeps h2)
      · exact h2
  · exact h0

theorem execWaitRelease_keeps {s0 : State} {l : Fin 512} {s : State} (h_s : Keeps s0 s) :
    KeepsR s0 (execWaitRelease l s) := by
  unfold execWaitRelease
  extract_lets -useContext -merge -underBinder x0 x1
  refine KeepsR.next ?_
  split
  · refine Keeps.ite ?_ ?_
    · exact (State.setRod_keeps h_s)
    · exact h_s
  · exact h_s

theorem execTadd_keeps {s0 : State} {l : Fin 512} {s : State} (h_s : Keeps s0 s) :
    KeepsR s0 (execTadd l s) := by
  unfold execTadd
  refine KeepsR.next ?_
  refine State.issue_keeps h_s (fun _ _ h0 => ?_)
  split
  · exact (State.addCnt_keeps h0)
  · exact h0

theorem execTileTake_keeps {s0 : State} {l : Fin 512} {s : State} (h_s : Keeps s0 s) :
    KeepsR s0 (execTileTake l s) := by
  unfold execTileTake
  refine KeepsR.next ?_
  refine State.issue_keeps h_s (fun _ _ h0 => ?_)
  split
  · exact (State.onRod_keeps h0)
  · exact h0

theorem execTileSteal_keeps {s0 : State} {l : Fin 512} {s : State} (h_s : Keeps s0 s) :
    KeepsR s0 (execTileSteal l s) := by
  unfold execTileSteal
  refine KeepsR.next ?_
  refine State.issue_keeps h_s (fun _ _ h0 => ?_)
  split
  · extract_lets -useContext -merge -underBinder x1
    exact (State.onRod_keeps h0)
  · exact h0

theorem execStealWalkEnd_keeps {s0 : State} {l : Fin 512} {s : State} (h_s : Keeps s0 s) :
    KeepsR s0 (execStealWalkEnd l s) := by
  unfold execStealWalkEnd
  extract_lets -useContext -merge -underBinder x0 x1
  refine KeepsR.next ?_
  split
  · extract_lets -useContext -merge -underBinder x2
    split
    · exact (State.setRod_keeps h_s)
    · split
      · exact (State.setRod_keeps h_s)
      · exact (State.setRod_keeps (State.onRod_keeps h_s))
  · exact h_s

theorem execTilePut_keeps {s0 : State} {l : Fin 512} {s : State} (h_s : Keeps s0 s) :
    KeepsR s0 (execTilePut l s) := by
  unfold execTilePut
  refine KeepsR.next ?_
  refine State.issue_keeps h_s (fun _ _ h0 => ?_)
  split
  · exact (State.onRod_keeps h0)
  · exact h0

theorem execVectorOp_keeps {s0 : State} {l : Fin 512} {s : State} (h_s : Keeps s0 s) :
    KeepsR s0 (execVectorOp l s) := by
  unfold execVectorOp
  refine KeepsR.next ?_
  exact State.issueUnit_keeps h_s (fun _ _ h0 => (State.vecOp_keeps h0))

theorem execVld_keeps {s0 : State} {l : Fin 512} {s : State} (h_s : Keeps s0 s) :
    KeepsR s0 (execVld l s) := by
  unfold execVld
  refine KeepsR.next ?_
  exact State.issueUnit_keeps h_s (fun _ _ h0 => (State.vldOp_keeps h0))

theorem execVst_keeps {s0 : State} {l : Fin 512} {s : State} (h_s : Keeps s0 s) :
    KeepsR s0 (execVst l s) := by
  unfold execVst
  refine KeepsR.next ?_
  exact State.issueUnit_keeps h_s (fun _ _ h0 => (State.vstOp_keeps h0))

theorem execVcvtTo_keeps {s0 : State} {l : Fin 512} {s : State} (h_s : Keeps s0 s) :
    KeepsR s0 (execVcvtTo l s) := by
  unfold execVcvtTo
  refine KeepsR.next ?_
  exact State.issueUnit_keeps h_s (fun _ _ h0 => (State.vcvtToOp_keeps h0))

theorem execVcvtSc_keeps {s0 : State} {l : Fin 512} {s : State} (h_s : Keeps s0 s) :
    KeepsR s0 (execVcvtSc l s) := by
  unfold execVcvtSc
  refine KeepsR.next ?_
  exact State.issueUnit_keeps h_s (fun _ _ h0 => (State.vcvtScOp_keeps h0))

theorem execVcvtFrom_keeps {s0 : State} {l : Fin 512} {s : State} (h_s : Keeps s0 s) :
    KeepsR s0 (execVcvtFrom l s) := by
  unfold execVcvtFrom
  refine KeepsR.next ?_
  exact State.issueUnit_keeps h_s (fun _ _ h0 => (State.vcvtFromOp_keeps h0))

theorem execAccRd_keeps {s0 : State} {l : Fin 512} {s : State} (h_s : Keeps s0 s) :
    KeepsR s0 (execAccRd l s) := by
  unfold execAccRd
  refine KeepsR.next ?_
  exact State.issueUnit_keeps h_s (fun _ _ h0 => (State.accOp_keeps h0))

theorem execAccWr_keeps {s0 : State} {l : Fin 512} {s : State} (h_s : Keeps s0 s) :
    KeepsR s0 (execAccWr l s) := by
  unfold execAccWr
  refine KeepsR.next ?_
  exact State.issueUnit_keeps h_s (fun _ _ h0 => (State.accOp_keeps h0))

theorem execAccClr_keeps {s0 : State} {l : Fin 512} {s : State} (h_s : Keeps s0 s) :
    KeepsR s0 (execAccClr l s) := by
  unfold execAccClr
  refine KeepsR.next ?_
  exact State.issueUnit_keeps h_s (fun _ _ h0 => (State.accOp_keeps h0))

theorem execMma_keeps {s0 : State} {l : Fin 512} {s : State} (h_s : Keeps s0 s) :
    KeepsR s0 (execMma l s) := by
  unfold execMma
  refine KeepsR.next ?_
  exact State.issueUnit_keeps h_s (fun _ _ h0 => (State.mma_keeps h0))

theorem execMmaLatched_keeps {s0 : State} {l : Fin 512} {s : State} (h_s : Keeps s0 s) :
    KeepsR s0 (execMmaLatched l s) := by
  unfold execMmaLatched
  refine KeepsR.next ?_
  exact State.issueUnit_keeps h_s (fun _ _ h0 => (State.mma_keeps h0))

theorem execCarryMap_keeps {s0 : State} {l : Fin 512} {s : State} (h_s : Keeps s0 s) :
    KeepsR s0 (execCarryMap l s) := by
  unfold execCarryMap
  refine KeepsR.next ?_
  exact State.issueUnit_keeps h_s (fun _ _ h0 => (State.carryFn_keeps h0))

theorem execCarryMix_keeps {s0 : State} {l : Fin 512} {s : State} (h_s : Keeps s0 s) :
    KeepsR s0 (execCarryMix l s) := by
  unfold execCarryMix
  refine KeepsR.next ?_
  exact State.issueUnit_keeps h_s (fun _ _ h0 => (State.carryFn_keeps h0))

theorem execCarryDown_keeps {s0 : State} {l : Fin 512} {s : State} (h_s : Keeps s0 s) :
    KeepsR s0 (execCarryDown l s) := by
  unfold execCarryDown
  refine KeepsR.next ?_
  exact State.issueUnit_keeps h_s (fun _ _ h0 => (State.carryFn_keeps h0))

theorem execCarryUp_keeps {s0 : State} {l : Fin 512} {s : State} (h_s : Keeps s0 s) :
    KeepsR s0 (execCarryUp l s) := by
  unfold execCarryUp
  refine KeepsR.next ?_
  exact State.issueUnit_keeps h_s (fun _ _ h0 => (State.carryFn_keeps h0))

theorem execCarryAdd_keeps {s0 : State} {l : Fin 512} {s : State} (h_s : Keeps s0 s) :
    KeepsR s0 (execCarryAdd l s) := by
  unfold execCarryAdd
  refine KeepsR.next ?_
  exact State.issueUnit_keeps h_s (fun _ _ h0 => (State.carryFn_keeps h0))

theorem execGet_keeps {s0 : State} {l : Fin 512} {s : State} (h_s : Keeps s0 s) :
    KeepsR s0 (execGet l s) := by
  unfold execGet
  refine KeepsR.next ?_
  refine State.issue_keeps h_s (fun _ _ h0 => ?_)
  split
  · extract_lets -useContext -merge -underBinder x1 x2
    refine Keeps.ite ?_ ?_
    · exact (State.raise_keeps h0)
    · refine Keeps.ite ?_ ?_
      · exact (State.raise_keeps h0)
      · exact (State.remIssue_keeps h0)
  · exact h0

theorem execPut_keeps {s0 : State} {l : Fin 512} {s : State} (h_s : Keeps s0 s) :
    KeepsR s0 (execPut l s) := by
  unfold execPut
  refine KeepsR.next ?_
  refine State.issue_keeps h_s (fun _ _ h0 => ?_)
  split
  · extract_lets -useContext -merge -underBinder x1 x2
    refine Keeps.ite ?_ ?_
    · exact (State.raise_keeps h0)
    · refine Keeps.ite ?_ ?_
      · exact (State.raise_keeps h0)
      · exact (State.remIssue_keeps h0)
  · exact h0

theorem execAadd_keeps {s0 : State} {l : Fin 512} {s : State} (h_s : Keeps s0 s) :
    KeepsR s0 (execAadd l s) := by
  unfold execAadd
  refine KeepsR.next ?_
  exact State.issue_keeps h_s (fun _ _ h0 => (State.atomIssue_keeps h0))

theorem execAmax_keeps {s0 : State} {l : Fin 512} {s : State} (h_s : Keeps s0 s) :
    KeepsR s0 (execAmax l s) := by
  unfold execAmax
  refine KeepsR.next ?_
  exact State.issue_keeps h_s (fun _ _ h0 => (State.atomIssue_keeps h0))

theorem execAcas_keeps {s0 : State} {l : Fin 512} {s : State} (h_s : Keeps s0 s) :
    KeepsR s0 (execAcas l s) := by
  unfold execAcas
  refine KeepsR.next ?_
  exact State.issue_keeps h_s (fun _ _ h0 => (State.atomIssue_keeps h0))

theorem execAxchg_keeps {s0 : State} {l : Fin 512} {s : State} (h_s : Keeps s0 s) :
    KeepsR s0 (execAxchg l s) := by
  unfold execAxchg
  refine KeepsR.next ?_
  exact State.issue_keeps h_s (fun _ _ h0 => (State.atomIssue_keeps h0))

theorem execTaddR_keeps {s0 : State} {l : Fin 512} {s : State} (h_s : Keeps s0 s) :
    KeepsR s0 (execTaddR l s) := by
  unfold execTaddR
  refine KeepsR.next ?_
  refine State.issue_keeps h_s (fun _ _ h0 => ?_)
  split
  · exact (State.remIssue_keeps h0)
  · exact h0

theorem execFenceL_keeps {s0 : State} {l : Fin 512} {s : State} (h_s : Keeps s0 s) :
    KeepsR s0 (execFenceL l s) := by
  unfold execFenceL
  refine KeepsR.next ?_
  exact State.issue_keeps h_s (fun _ _ h0 => (State.fence_keeps h0))

theorem execFenceB_keeps {s0 : State} {l : Fin 512} {s : State} (h_s : Keeps s0 s) :
    KeepsR s0 (execFenceB l s) := by
  unfold execFenceB
  refine KeepsR.next ?_
  exact State.issue_keeps h_s (fun _ _ h0 => (State.fence_keeps h0))

theorem execFenceP_keeps {s0 : State} {l : Fin 512} {s : State} (h_s : Keeps s0 s) :
    KeepsR s0 (execFenceP l s) := by
  unfold execFenceP
  refine KeepsR.next ?_
  exact State.issue_keeps h_s (fun _ _ h0 => (State.fence_keeps h0))

theorem execFenceH_keeps {s0 : State} {l : Fin 512} {s : State} (h_s : Keeps s0 s) :
    KeepsR s0 (execFenceH l s) := by
  unfold execFenceH
  refine KeepsR.next ?_
  exact State.issue_keeps h_s (fun _ _ h0 => (State.fence_keeps h0))

theorem execFenceComplete_keeps {s0 : State} {l : Fin 512} {s : State} (h_s : Keeps s0 s) :
    KeepsR s0 (execFenceComplete l s) := by
  unfold execFenceComplete
  extract_lets -useContext -merge -underBinder x0 x1
  refine KeepsR.next ?_
  split
  · refine Keeps.ite ?_ ?_
    · exact (State.setRod_keeps h_s)
    · exact h_s
  · exact h_s

theorem execAsyncComplete_keeps {s0 : State} {l : Fin 512} {u : AUnit} {s : State} (h_s : Keeps s0 s) :
    KeepsR s0 (execAsyncComplete l u s) := by
  unfold execAsyncComplete
  refine KeepsR.next ?_
  refine Keeps.ite ?_ ?_
  · exact (State.startUnits_keeps (State.onRod_keeps h_s))
  · exact h_s

theorem execRodException_keeps {s0 : State} {l : Fin 512} {s : State} (h_s : Keeps s0 s) :
    KeepsR s0 (execRodException l s) := by
  unfold execRodException
  extract_lets -useContext -merge -underBinder x0 x1 x2
  have h3 : Keeps s0 x0 := (State.tryIssue_keeps h_s)
  clear_value x0
  refine KeepsR.next ?_
  split
  · extract_lets -useContext -merge -underBinder x4 x5 x6 x7 x8 x9
    have h10 : Keeps s0 x5 := (State.setRod_keeps h3)
    clear_value x5
    have h11 : Keeps s0 x8 := (State.bump_keeps (State.faultRecord_keeps h10))
    clear_value x8
    have h12 : Keeps s0 x9 := by
      unfold x9
      refine Keeps.ite ?_ ?_
      · refine State.trigger_keeps ?_
        refine Keeps.ite ?_ ?_
        · exact (State.event_keeps h11)
        · exact h11
      · exact h11
    clear_value x9
    exact (State.awaitPeer_keeps (State.holdPart_keeps h12))
  · exact h3

theorem execRemoteResponse_keeps {s0 : State} {l : Fin 512} {tag response : Nat} {s : State} (h_s : Keeps s0 s) :
    KeepsR s0 (execRemoteResponse l tag response s) := by
  unfold execRemoteResponse
  extract_lets -useContext -merge -underBinder x0 x1
  refine KeepsR.next ?_
  split
  · exact h_s
  · split
    · exact h_s
    · refine Keeps.ite ?_ ?_
      · exact h_s
      · split
        · refine Keeps.ite ?_ ?_
          · exact h_s
          · refine Keeps.ite ?_ ?_
            · exact (State.onRod_keeps (State.deliver_keeps h_s))
            · exact (State.remFail_keeps h_s)
        · refine Keeps.ite ?_ ?_
          · exact (State.onRod_keeps h_s)
          · exact (State.remFail_keeps h_s)
        · refine Keeps.ite ?_ ?_
          · exact (State.onRod_keeps h_s)
          · exact (State.remFail_keeps h_s)
        · refine Keeps.ite ?_ ?_
          · exact (State.onRod_keeps h_s)
          · exact (State.remFail_keeps h_s)
        · exact h_s

theorem execRemoteTimeout_keeps {s0 : State} {l : Fin 512} {tag : Nat} {s : State} (h_s : Keeps s0 s) :
    KeepsR s0 (execRemoteTimeout l tag s) := by
  unfold execRemoteTimeout
  extract_lets -useContext -merge -underBinder x0
  refine KeepsR.next ?_
  split
  · exact h_s
  · refine Keeps.ite ?_ ?_
    · exact (State.remFail_keeps h_s)
    · exact h_s

end Sys2Proof.Machine
end

