-- ==== Sys2Proof/Laws/KeepsMemory.lean ====
section
/-! SUPPORT. What each operation keeps (Keeps.lean): tiers, the Slate, gather engines and tables. -/

namespace Sys2Proof.Machine

theorem State.setCq_keeps {s0 : State} {s : State} {t : Nat} {q : Nat} {x : CplQueue} (h_s : Keeps s0 s) :
    Keeps s0 (State.setCq s t q x) := by
  unfold State.setCq
  exact (State.onTen_keeps h_s)

theorem State.setSq_keeps {s0 : State} {s : State} {t : Nat} {q : Nat} {x : SubQueue} (h_s : Keeps s0 s) :
    Keeps s0 (State.setSq s t q x) := by
  unfold State.setSq
  exact (State.onTen_keeps h_s)

theorem State.setEntry_keeps {s0 : State} {s : State} {p : Nat} {page : Nat} {f : W64 → W64} (h_s : Keeps s0 s) :
    Keeps s0 (State.setEntry s p page f) := by
  unfold State.setEntry
  split
  · exact (State.hbmWrite64_keeps h_s)
  · exact h_s

theorem State.onOps_keeps {s0 : State} {s : State} {f : List UnitOp → List UnitOp} (h_s : Keeps s0 s) :
    Keeps s0 (State.onOps s f) := by
  unfold State.onOps
  exact Keeps.upd h_s

theorem State.dropOps_keeps {s0 : State} {s : State} {u : UnitUse} (h_s : Keeps s0 s) :
    Keeps s0 (State.dropOps s u) := by
  unfold State.dropOps
  exact (State.onOps_keeps h_s)

theorem State.dropMove_keeps {s0 : State} {s : State} {m : Move} (h_s : Keeps s0 s) :
    Keeps s0 (State.dropMove s m) := by
  unfold State.dropMove
  exact Keeps.upd h_s

theorem State.settleNotes_keeps {s0 : State} {s : State} (h_s : Keeps s0 s) :
    Keeps s0 (State.settleNotes s) := by
  unfold State.settleNotes
  exact (State.onOps_keeps h_s)

theorem State.sealSectors_keeps {s0 : State} {s : State} {a : Nat} {bs : List Byte} {u3 : Nat} (h_s : Keeps s0 s) :
    Keeps2 s0 (State.sealSectors s a bs u3) := by
  induction u3 generalizing s a bs with
  | zero =>
    rw [State.sealSectors.eq_1]
    refine Keeps2.mk ?_
    exact h_s
  | succ n ih =>
    rw [State.sealSectors.eq_2]
    refine Keeps2.mk ?_
    apply ih
    exact Keeps.gen h_s (Nat.le_refl _) id id (List.prefix_refl _)

theorem State.postMsg_keeps {s0 : State} {s : State} {t : Nat} {m : OutMsg} (h_s : Keeps s0 s) :
    Keeps s0 (State.postMsg s t m) := by
  unfold State.postMsg
  extract_lets -useContext -merge -underBinder x0 x1
  exact (State.setChan_keeps h_s)

theorem State.hostWrite_keeps {s0 : State} {s : State} {t : Nat} {off : Nat} {bs : List Byte} (h_s : Keeps s0 s) :
    Keeps s0 (State.hostWrite s t off bs) := by
  unfold State.hostWrite
  refine State.forEach_keeps (fun _ _ h0 => ?_) h_s
  exact (State.postMsg_keeps h0)

theorem State.unitOp_keeps {s0 : State} {s : State} {u : UnitUse} {p : Nat} {op : Nat} {a : Nat} {len : Nat} {data : List Byte} {sealed : Bool} {width : Nat} {b : W64} {c : W64} (h_s : Keeps s0 s) :
    Keeps s0 (State.unitOp s u p op a len data sealed width b c) := by
  unfold State.unitOp
  extract_lets -useContext -merge -underBinder x0 x1 x2 x3 x4 x5 x6 x7 x8
  have h9 : ∀ (a0 : Option Nat) (a1 : State), Keeps s0 a1 → Keeps s0 (x4 a0 a1) := by
    unfold x4
    refine fun _ _ h10 => ?_
    exact Keeps.upd h10
  clear_value x4
  have h11 : Keeps2 s0 x8 := by
    unfold x8
    refine Keeps2.ite ?_ ?_
    · exact (State.sealSectors_keeps h_s)
    · refine Keeps2.mk ?_
      exact h_s
  clear_value x8
  refine Keeps.ite ?_ ?_
  · refine Keeps.ite ?_ ?_
    · exact (h9 _ _ h_s)
    · refine Keeps.ite ?_ ?_
      · exact (h9 _ _ (State.setChan_keeps h_s))
      · exact (h9 _ _ (State.hostWrite_keeps h11))
  · refine Keeps.ite ?_ ?_
    · split
      · exact (h9 _ _ h_s)
      · extract_lets -useContext -merge -underBinder x12
        have h13 : Keeps2 s0 x12 := by
          unfold x12
          refine Keeps2.ite ?_ ?_
          · exact (State.sealSectors_keeps h_s)
          · refine Keeps2.mk ?_
            exact h_s
        clear_value x12
        refine State.forEach_keeps (fun _ _ h14 => ?_) (h9 _ _ h13)
        exact (State.linkSend_keeps h14)
    · exact (h9 _ _ h_s)

theorem State.unitPut8_keeps {s0 : State} {s : State} {p : Nat} {addr : Nat} {v : W64} (h_s : Keeps s0 s) :
    Keeps s0 (State.unitPut8 s p addr v) := by
  unfold State.unitPut8
  extract_lets -useContext -merge -underBinder x0
  split
  · refine Keeps.ite ?_ ?_
    · exact (State.beadWrite_keeps h_s)
    · exact h_s
  · refine Keeps.ite ?_ ?_
    · exact (State.rangeWrite_keeps h_s)
    · refine Keeps.ite ?_ ?_
      · exact (State.hbmWrite_keeps h_s)
      · exact h_s
  · exact (State.settleNotes_keeps (State.unitOp_keeps h_s))
  · exact (State.settleNotes_keeps (State.unitOp_keeps h_s))
  · exact (State.settleNotes_keeps (State.unitOp_keeps h_s))
  · exact h_s

theorem State.demoteLost_keeps {s0 : State} {s : State} {c : TierCmd} {status : Nat} (h_s : Keeps s0 s) :
    Keeps s0 (State.demoteLost s c status) := by
  unfold State.demoteLost
  extract_lets -useContext -merge -underBinder x0 x1
  refine Keeps.ite ?_ ?_
  · exact (State.onPart_keeps h_s)
  · exact h_s

theorem State.tierReply_keeps {s0 : State} {s : State} {c : TierCmd} {status : Nat} (h_s : Keeps s0 s) :
    Keeps s0 (State.tierReply s c status) := by
  unfold State.tierReply
  extract_lets -useContext -merge -underBinder x0
  have h1 : Keeps s0 x0 := by
    unfold x0
    refine Keeps.ite ?_ ?_
    · exact h_s
    · exact (State.unitPut8_keeps h_s)
  clear_value x0
  split
  · refine Keeps.ite ?_ ?_
    · exact (State.onSlot_keeps h1)
    · exact h1
  · refine Keeps.ite ?_ ?_
    · exact (State.demoteLost_keeps h1)
    · exact h1

theorem State.setPool_keeps {s0 : State} {s : State} {n : Nat} {l : List Nat} (h_s : Keeps s0 s) :
    Keeps s0 (State.setPool s n l) := by
  unfold State.setPool
  exact Keeps.upd h_s

theorem State.returnFrame_keeps {s0 : State} {s : State} {pool : Nat} {frame : Nat} (h_s : Keeps s0 s) :
    Keeps s0 (State.returnFrame s pool frame) := by
  unfold State.returnFrame
  exact (State.setPool_keeps h_s)

theorem State.abortDemote_keeps {s0 : State} {s : State} {m : Move} {status : Nat} (h_s : Keeps s0 s) :
    Keeps s0 (State.abortDemote s m status) := by
  unfold State.abortDemote
  extract_lets -useContext -merge -underBinder x0
  have h1 : Keeps s0 x0 := (State.setEntry_keeps (State.dropOps_keeps (State.dropMove_keeps h_s)))
  clear_value x0
  exact (State.tierReply_keeps (State.bump_keeps (State.returnFrame_keeps h1)))

theorem State.setRef_keeps {s0 : State} {s : State} {p : Nat} {page : Nat} {n : Nat} (h_s : Keeps s0 s) :
    Keeps s0 (State.setRef s p page n) := by
  unfold State.setRef
  exact Keeps.upd h_s

theorem State.refRange_keeps {s0 : State} {s : State} {p : Nat} {addr : Nat} {len : Nat} {up : Bool} (h_s : Keeps s0 s) :
    Keeps s0 (State.refRange s p addr len up) := by
  unfold State.refRange
  refine State.forEach_keeps (fun _ _ h0 => ?_) h_s
  extract_lets -useContext -merge -underBinder x1
  exact (State.setRef_keeps h0)

theorem State.stageDir_keeps {s0 : State} {s : State} {p : Nat} {id : Nat} {img : List W64} (h_s : Keeps s0 s) :
    Keeps s0 (State.stageDir s p id img) := by
  unfold State.stageDir
  extract_lets -useContext -merge -underBinder x0
  have h1 : Keeps s0 x0 := by
    unfold x0
    refine State.forEach_keeps (fun _ _ h2 => ?_) h_s
    exact (State.setReg_keeps h2)
  clear_value x0
  exact (State.setReg_keeps h1)

theorem State.dirNext_keeps {s0 : State} {s : State} {p : Nat} (h_s : Keeps s0 s) :
    Keeps s0 (State.dirNext s p) := by
  unfold State.dirNext
  split
  · exact h_s
  · refine Keeps.ite ?_ ?_
    · exact h_s
    · exact (State.stageDir_keeps (State.onPart_keeps h_s))

theorem State.complete_keeps {s0 : State} {s : State} {t : Nat} {q : Nat} {c : Completion} (h_s : Keeps s0 s) :
    Keeps s0 (State.complete s t q c) := by
  unfold State.complete
  refine Keeps.ite ?_ ?_
  · extract_lets -useContext -merge -underBinder x0 x1
    exact (State.setCq_keeps h_s)
  · exact h_s

theorem State.commandDone_keeps {s0 : State} {s : State} {t : Nat} {q : Nat} {cmd : Nat} {status : Nat} {req : Option Nat} (h_s : Keeps s0 s) :
    Keeps s0 (State.commandDone s t q cmd status req) := by
  unfold State.commandDone
  exact (State.complete_keeps h_s)

theorem State.addT1_keeps {s0 : State} {s : State} {p : Nat} {d : Int} (h_s : Keeps s0 s) :
    Keeps s0 (State.addT1 s p d) := by
  unfold State.addT1
  exact (State.onPart_keeps h_s)

theorem State.moverIssue_keeps {s0 : State} {s : State} {i : Nat} {op : Nat} {p : Nat} {page : Nat} {pool : Nat} {large : Bool} {pin : Bool} {unpin : Bool} (h_s : Keeps s0 s) :
    Keeps s0 (State.moverIssue s i op p page pool large pin unpin) := by
  unfold State.moverIssue
  extract_lets -useContext -merge -underBinder x0 x1
  exact Keeps.upd h_s

theorem State.freeBlock_keeps {s0 : State} {s : State} {p : Nat} {a : Nat} (h_s : Keeps s0 s) :
    Keeps s0 (State.freeBlock s p a) := by
  unfold State.freeBlock
  exact (State.onPart_keeps h_s)

theorem State.pfxEvict_keeps {s0 : State} {s : State} {p : Nat} {a : Nat} (h_s : Keeps s0 s) :
    Keeps s0 (State.pfxEvict s p a) := by
  unfold State.pfxEvict
  exact (State.freeBlock_keeps (State.rangeWrite_keeps h_s))

theorem State.pfxInsert_keeps {s0 : State} {s : State} {p : Nat} {key : W64} {blk : Nat} (h_s : Keeps s0 s) :
    Keeps2 s0 (State.pfxInsert s p key blk) := by
  unfold State.pfxInsert
  extract_lets -useContext -merge -underBinder x0 x1
  have h2 : ∀ (a0 : State) (a1 : Nat), Keeps s0 a0 → Keeps s0 (x1 a0 a1) := by
    unfold x1
    refine fun _ _ h3 => ?_
    exact (State.rangeWrite_keeps h3)
  clear_value x1
  refine Keeps2.ite ?_ ?_
  · refine Keeps2.mk ?_
    exact h_s
  · split
    · refine Keeps2.mk ?_
      exact (h2 _ _ h_s)
    · split
      · refine Keeps2.mk ?_
        exact (h2 _ _ (State.pfxEvict_keeps h_s))
      · refine Keeps2.mk ?_
        exact (State.bump_keeps h_s)

theorem State.setBlockEntry_keeps {s0 : State} {s : State} {i : Nat} {n : Nat} {e : W64} (h_s : Keeps s0 s) :
    Keeps s0 (State.setBlockEntry s i n e) := by
  unfold State.setBlockEntry
  extract_lets -useContext -merge -underBinder x0
  exact (State.rangeWrite64_keeps h_s)

theorem State.keepBlocks_keeps {s0 : State} {s : State} {i : Nat} {n : Nat} {u3 : Nat} (h_s : Keeps s0 s) :
    Keeps s0 (State.keepBlocks s i n u3) := by
  induction u3 generalizing s i n with
  | zero =>
    rw [State.keepBlocks.eq_1]
    exact h_s
  | succ n ih =>
    rw [State.keepBlocks.eq_2]
    refine Keeps.ite ?_ ?_
    · exact h_s
    · extract_lets -useContext -merge -underBinder x0 x1
      have h2 : Keeps s0 x0 := by
        unfold x0
        refine Keeps.ite ?_ ?_
        · exact h_s
        · exact (State.onSlot_keeps h_s)
      clear_value x0
      have h3 : Keeps2 s0 x1 := (State.pfxInsert_keeps h2)
      clear_value x1
      refine Keeps.ite ?_ ?_
      · exact (by apply ih; exact h2)
      · apply ih
        refine Keeps.ite ?_ ?_
        · exact (State.setBlockEntry_keeps h3)
        · exact h3

theorem State.pfxSetCount_keeps {s0 : State} {s : State} {p : Nat} {a : Nat} {n : Nat} (h_s : Keeps s0 s) :
    Keeps s0 (State.pfxSetCount s p a n) := by
  unfold State.pfxSetCount
  exact (State.rangeWrite64_keeps h_s)

theorem State.pfxDrop_keeps {s0 : State} {s : State} {p : Nat} {key : W64} {blk : Nat} (h_s : Keeps s0 s) :
    Keeps s0 (State.pfxDrop s p key blk) := by
  unfold State.pfxDrop
  split
  · exact (State.pfxSetCount_keeps h_s)
  · exact h_s

theorem State.recallBlock_keeps {s0 : State} {s : State} {p : Nat} {a : Nat} (h_s : Keeps s0 s) :
    Keeps s0 (State.recallBlock s p a) := by
  unfold State.recallBlock
  refine State.forEach_keeps (fun _ _ h0 => ?_) h_s
  split
  · extract_lets -useContext -merge -underBinder x1 x2 x3
    refine Keeps.ite ?_ ?_
    · exact Keeps.upd h0
    · exact h0
  · exact h0

theorem State.kvRelease_keeps {s0 : State} {s : State} {i : Nat} {keep : Bool} (h_s : Keeps s0 s) :
    Keeps s0 (State.kvRelease s i keep) := by
  unfold State.kvRelease
  extract_lets -useContext -merge -underBinder x0 x1 x2
  have h3 : Keeps s0 x1 := by
    unfold x1
    refine Keeps.ite ?_ ?_
    · exact (State.keepBlocks_keeps h_s)
    · exact h_s
  clear_value x1
  have h4 : Keeps s0 x2 := by
    unfold x2
    refine State.forEach_keeps (fun _ _ h5 => ?_) h3
    extract_lets -useContext -merge -underBinder x6
    refine Keeps.ite ?_ ?_
    · exact (State.pfxDrop_keeps h5)
    · exact (State.freeBlock_keeps (State.recallBlock_keeps h5))
  clear_value x2
  exact (State.onSlot_keeps h4)

theorem State.rePrefill_keeps {s0 : State} {s : State} {i : Nat} (h_s : Keeps s0 s) :
    Keeps s0 (State.rePrefill s i) := by
  unfold State.rePrefill
  exact (State.onSlot_keeps (State.kvRelease_keeps h_s))

theorem State.startResume_keeps {s0 : State} {s : State} {i : Nat} (h_s : Keeps s0 s) :
    Keeps s0 (State.startResume s i) := by
  unfold State.startResume
  extract_lets -useContext -merge -underBinder x0
  refine State.forEach_keeps (fun _ _ h1 => ?_) (State.onSlot_keeps h_s)
  exact (State.moverIssue_keeps h1)

theorem State.applyCtl_keeps {s0 : State} {s : State} {i : Nat} {c : CtlCmd} (h_s : Keeps s0 s) :
    Keeps s0 (State.applyCtl s i c) := by
  unfold State.applyCtl
  extract_lets -useContext -merge -underBinder x0 x1 x2 x3 x4
  have h5 : Keeps s0 x4 := by
    unfold x4
    refine Keeps.ite ?_ ?_
    · refine Keeps.ite ?_ ?_
      · exact (State.setSlot_keeps h_s)
      · exact h_s
    · refine Keeps.ite ?_ ?_
      · refine Keeps.ite ?_ ?_
        · refine State.forEach_keeps (fun _ _ h6 => ?_) (State.setSlot_keeps h_s)
          exact (State.moverIssue_keeps h6)
        · exact h_s
      · refine Keeps.ite ?_ ?_
        · refine Keeps.ite ?_ ?_
          · exact (State.rePrefill_keeps h_s)
          · exact (State.setSlot_keeps h_s)
        · refine Keeps.ite ?_ ?_
          · exact (State.startResume_keeps h_s)
          · exact h_s
  clear_value x4
  exact (State.commandDone_keeps h5)

theorem State.final_keeps {s0 : State} {s : State} {i : Nat} {status : Nat} {resp : Nat} (h_s : Keeps s0 s) :
    Keeps s0 (State.final s i status resp) := by
  unfold State.final
  extract_lets -useContext -merge -underBinder x0
  refine Keeps.ite ?_ ?_
  · exact (State.complete_keeps h_s)
  · exact (State.onSlot_keeps h_s)

theorem State.predDone_keeps {s0 : State} {s : State} {k : Nat} (h_s : Keeps s0 s) :
    Keeps s0 (State.predDone s k) := by
  unfold State.predDone
  refine Keeps.ite ?_ ?_
  · exact (State.onSlot_keeps h_s)
  · exact (State.onSlot_keeps h_s)

theorem State.retireFrom_keeps {s0 : State} {s : State} {i : Nat} {status : Nat} {resp : Nat} {u4 : Nat} (h_s : Keeps s0 s) :
    Keeps s0 (State.retireFrom s i status resp u4) := by
  induction u4 generalizing s i status resp with
  | zero =>
    rw [State.retireFrom.eq_1]
    exact h_s
  | succ n ih =>
    rw [State.retireFrom.eq_2]
    refine Keeps.ite ?_ ?_
    · exact h_s
    · extract_lets -useContext -merge -underBinder x0 x1 x2 x3 x4 x5
      have h6 : Keeps s0 x0 := (State.kvRelease_keeps h_s)
      clear_value x0
      have h7 : Keeps s0 x1 := (State.onSlot_keeps h6)
      clear_value x1
      have h8 : Keeps s0 x3 := by
        unfold x3
        exact Keeps.upd h7
      clear_value x3
      have h9 : Keeps s0 x4 := by
        unfold x4
        refine State.forEach_keeps (fun _ _ h10 => ?_) h8
        exact (State.commandDone_keeps h10)
      clear_value x4
      have h11 : Keeps s0 x5 := (State.final_keeps h9)
      clear_value x5
      refine Keeps.ite ?_ ?_
      · exact h11
      · refine Keeps.ite ?_ ?_
        · exact (State.predDone_keeps h11)
        · exact (by apply ih; exact h11)

theorem State.retire_keeps {s0 : State} {s : State} {i : Nat} {status : Nat} {resp : Nat} (h_s : Keeps s0 s) :
    Keeps s0 (State.retire s i status resp) := by
  unfold State.retire
  exact (State.retireFrom_keeps h_s)

theorem State.applyBoundary_keeps {s0 : State} {s : State} {p : Nat} (h_s : Keeps s0 s) :
    Keeps s0 (State.applyBoundary s p) := by
  unfold State.applyBoundary
  refine State.forEach_keeps (fun _ _ h0 => ?_) h_s
  extract_lets -useContext -merge -underBinder x1 x2 x3
  have h4 : Keeps s0 x2 := (State.onSlot_keeps h0)
  clear_value x2
  have h5 : Keeps s0 x3 := by
    unfold x3
    refine State.forEach_keeps (fun _ _ h6 => ?_) h4
    exact (State.applyCtl_keeps h6)
  clear_value x3
  refine Keeps.ite ?_ ?_
  · exact h5
  · refine Keeps.ite ?_ ?_
    · exact (State.retire_keeps h5)
    · refine Keeps.ite ?_ ?_
      · exact (State.rePrefill_keeps h5)
      · exact h5

theorem State.supersede_keeps {s0 : State} {s : State} {p : Nat} {first : Nat} {old : List W64} {img : List W64} (h_s : Keeps s0 s) :
    Keeps s0 (State.supersede s p first old img) := by
  unfold State.supersede
  extract_lets -useContext -merge -underBinder x0
  exact (State.onPart_keeps h_s)

theorem State.applyDir_keeps {s0 : State} {s : State} {p : Nat} (h_s : Keeps s0 s) :
    Keeps s0 (State.applyDir s p) := by
  unfold State.applyDir
  refine Keeps.ite ?_ ?_
  · exact h_s
  · extract_lets -useContext -merge -underBinder x0 x1 x2 x3 x4 x5 x6 x7
    clear_value x3
    have h8 : KeepsOS s0 x7 := by
      unfold x7
      split
      · exact KeepsOS.none
      · refine KeepsOS.ite ?_ ?_
        · extract_lets -useContext -merge -underBinder x9
          have h10 : Keeps s0 x9 := (State.rangeWrite_keeps h_s)
          clear_value x9
          refine KeepsOS.some ?_
          refine Keeps.ite ?_ ?_
          · exact h10
          · exact (State.supersede_keeps h10)
        · exact KeepsOS.none
    clear_value x7
    refine State.setReg_keeps ?_
    refine State.setRf_keeps ?_
    refine State.setRf_keeps ?_
    refine Keeps.getD ?_ ?_
    · exact h8
    · exact h_s

theorem State.histPut_keeps {s0 : State} {s : State} {i : Nat} {k : Nat} {w : W32} (h_s : Keeps s0 s) :
    Keeps s0 (State.histPut s i k w) := by
  unfold State.histPut
  exact (State.hbmWrite_keeps (State.hbmWrite_keeps h_s))

theorem State.applyTable_keeps {s0 : State} {s : State} (h_s : Keeps s0 s) :
    Keeps s0 (State.applyTable s) := by
  unfold State.applyTable
  extract_lets -useContext -merge -underBinder x0 x1 x2 x3 x4 x5 x6
  have h7 : Keeps s0 x6 := by
    unfold x6
    refine Keeps.ite ?_ ?_
    · exact Keeps.upd h_s
    · exact h_s
  clear_value x6
  refine Keeps.ite ?_ ?_
  · exact h_s
  · exact (State.setReg_keeps (State.setRf_keeps (State.setRf_keeps h7)))

theorem State.askFor_keeps {s0 : State} {s : State} {u : UnitUse} {p : Nat} {l : List (Nat × Nat)} (h_s : Keeps s0 s) :
    Keeps s0 (State.askFor s u p l) := by
  unfold State.askFor
  refine State.forEach_keeps (fun _ _ h0 => ?_) h_s
  refine Keeps.ite ?_ ?_
  · exact h0
  · exact (State.unitOp_keeps h0)

theorem State.writeMeetsDemote_keeps {s0 : State} {s : State} {p : Nat} {addr : Nat} {len : Nat} (h_s : Keeps s0 s) :
    Keeps s0 (State.writeMeetsDemote s p addr len) := by
  unfold State.writeMeetsDemote
  refine State.forEach_keeps (fun _ _ h0 => ?_) h_s
  exact (State.abortDemote_keeps h0)

theorem State.measurePart_keeps {s0 : State} {s : State} {p : Nat} (h_s : Keeps s0 s) :
    Keeps s0 (State.measurePart s p) := by
  unfold State.measurePart
  exact (State.onPart_keeps h_s)

theorem State.freeLater_keeps {s0 : State} {s : State} {p : Nat} (h_s : Keeps s0 s) :
    Keeps s0 (State.freeLater s p) := by
  unfold State.freeLater
  exact (State.onPart_keeps h_s)

theorem State.setOrigin_keeps {s0 : State} {s : State} {key : Nat} {v : Nat} (h_s : Keeps s0 s) :
    Keeps s0 (State.setOrigin s key v) := by
  unfold State.setOrigin
  exact Keeps.upd h_s

theorem State.releaseFrame_keeps {s0 : State} {s : State} {e : W64} (h_s : Keeps s0 s) :
    Keeps s0 (State.releaseFrame s e) := by
  unfold State.releaseFrame
  extract_lets -useContext -merge -underBinder x0 x1 x2 x3
  have h4 : Keeps s0 x2 := (State.setOrigin_keeps h_s)
  clear_value x2
  refine Keeps.ite ?_ ?_
  · exact h4
  · exact Keeps.upd h4

theorem State.tierUnmap_keeps {s0 : State} {s : State} {c : TierCmd} (h_s : Keeps s0 s) :
    Keeps s0 (State.tierUnmap s c) := by
  unfold State.tierUnmap
  split
  · exact (State.tierReply_keeps h_s)
  · exact (State.tierReply_keeps h_s)
  · refine Keeps.ite ?_ ?_
    · exact (State.tierReply_keeps h_s)
    · refine Keeps.ite ?_ ?_
      · exact (State.tierReply_keeps h_s)
      · extract_lets -useContext -merge -underBinder x0
        have h1 : Keeps s0 x0 := (State.releaseFrame_keeps (State.hbmWrite64_keeps h_s))
        clear_value x0
        refine State.tierReply_keeps ?_
        refine Keeps.ite ?_ ?_
        · exact (State.addT1_keeps h1)
        · exact h1

theorem State.fetchCmds_keeps {s0 : State} {s : State} {i : Nat} {u2 : Nat} (h_s : Keeps s0 s) :
    Keeps s0 (State.fetchCmds s i u2) := by
  induction u2 generalizing s i with
  | zero =>
    rw [State.fetchCmds.eq_1]
    exact h_s
  | succ n ih =>
    rw [State.fetchCmds.eq_2]
    apply ih
    refine Keeps.ite ?_ ?_
    · exact Keeps.upd h_s
    · exact (State.tierReply_keeps h_s)

theorem State.takeRing_keeps {s0 : State} {s : State} (h_s : Keeps s0 s) :
    Keeps s0 (State.takeRing s) := by
  unfold State.takeRing
  extract_lets -useContext -merge -underBinder x0 x1 x2
  exact (State.setReg_keeps (State.fetchCmds_keeps h_s))

theorem execTierCmdTail_keeps {s0 : State} {v : W64} {s : State} (h_s : Keeps s0 s) :
    KeepsR s0 (execTierCmdTail v s) := by
  unfold execTierCmdTail
  refine KeepsR.next ?_
  refine Keeps.ite ?_ ?_
  · exact (State.takeRing_keeps (State.setReg_keeps h_s))
  · exact h_s

theorem execGthRowwrite_keeps {s0 : State} {v : W64} {s : State} (h_s : Keeps s0 s) :
    KeepsR s0 (execGthRowwrite v s) := by
  unfold execGthRowwrite
  refine KeepsR.next ?_
  refine Keeps.ite ?_ ?_
  · exact h_s
  · extract_lets -useContext -merge -underBinder x0 x1
    have h2 : Keeps s0 x0 := (State.setRf_keeps h_s)
    clear_value x0
    refine Keeps.ite ?_ ?_
    · exact Keeps.upd h2
    · exact h2

theorem State.sample_keeps {s0 : State} {s : State} {e : Nat} {t : Nat} {row : Nat} {tenant : Nat} (h_s : Keeps s0 s) :
    Keeps s0 (State.sample s e t row tenant) := by
  unfold State.sample
  extract_lets -useContext -merge -underBinder x0 x1 x2 x3 x4 x5
  have h6 : Keeps s0 x2 := by
    unfold x2
    exact Keeps.upd h_s
  clear_value x2
  refine Keeps.ite ?_ ?_
  · exact h6
  · refine Keeps.ite ?_ ?_
    · exact (State.bump_keeps h6)
    · exact (State.setReg_keeps (State.hbmWrite_keeps h6))

theorem State.countDrop_keeps {s0 : State} {s : State} {t : Nat} {p : Nat} {tenant : Nat} {reason : Nat} (h_s : Keeps s0 s) :
    Keeps s0 (State.countDrop s t p tenant reason) := by
  unfold State.countDrop
  exact (State.bump_keeps (State.bump_keeps (State.bump_keeps h_s)))

theorem State.serveIndex_keeps {s0 : State} {s : State} {e : Nat} {t : Nat} {p : Nat} {tenant : Nat} {d : List W64} {g : RowGot} {row : Nat} (h_s : Keeps s0 s) :
    Keeps2 s0 (State.serveIndex s e t p tenant d g row) := by
  unfold State.serveIndex
  extract_lets -useContext -merge -underBinder x0
  have h1 : Keeps s0 x0 := by
    unfold x0
    refine Keeps.ite ?_ ?_
    · exact (State.sample_keeps (State.draw_keeps h_s))
    · exact (State.sample_keeps h_s)
  clear_value x0
  split
  · refine Keeps2.mk ?_
    exact (State.bump_keeps (State.bump_keeps h1))
  · refine Keeps2.mk ?_
    exact h1
  · refine Keeps2.mk ?_
    exact (State.countDrop_keeps h1)

theorem State.slotRows_keeps {s0 : State} {s : State} {e t tenant : Nat} {d : Option (List W64)} {sz w : Nat} {idx : List Byte} {k : Nat}
    (h_s : Keeps s0 s) : Keeps22 s0 (State.slotRows s e t tenant d sz w idx k) := by
  induction k generalizing s idx with
  | zero => exact h_s
  | succ k ih => exact ih (State.serveIndex_keeps h_s)

theorem State.enginePut_keeps {s0 : State} {s : State} {at_ : Nat} {bs : List Byte} (h_s : Keeps s0 s) :
    Keeps s0 (State.enginePut s at_ bs) := by
  unfold State.enginePut
  refine Keeps.ite ?_ ?_
  · refine Keeps.ite ?_ ?_
    · exact (State.hbmWrite_keeps h_s)
    · exact h_s
  · refine Keeps.ite ?_ ?_
    · exact (State.beadWrite_keeps h_s)
    · exact h_s

theorem State.settleReplies_keeps {s0 : State} {s : State} (h_s : Keeps s0 s) :
    Keeps s0 (State.settleReplies s) := by
  unfold State.settleReplies
  refine State.forEach_keeps (fun _ _ h0 => ?_) h_s
  split
  · extract_lets -useContext -merge -underBinder x1 x2
    have h3 : Keeps s0 x1 := (State.onOps_keeps h0)
    clear_value x1
    refine Keeps.ite ?_ ?_
    · exact Keeps.upd h3
    · exact h3
  · exact h0

theorem State.serveSlot_keeps {s0 : State} {s : State} {e : Nat} {p : Nat} {round : Nat} {a : Nat} {size : Nat} (h_s : Keeps s0 s) :
    Keeps s0 (State.serveSlot s e p round a size) := by
  unfold State.serveSlot
  refine Keeps.ite ?_ ?_
  · exact Keeps.upd h_s
  · refine Keeps.ite ?_ ?_
    · exact h_s
    · extract_lets -useContext -merge -underBinder x0 x1 x2 x3 x4 x5 x6 x7 x8 x9 x10 x11 x12 x13
      have h14 : Keeps22 s0 x6 := (State.slotRows_keeps h_s)
      clear_value x6
      have h15 : ∀ (a0 : State), Keeps s0 a0 → Keeps s0 (x13 a0) := by
        unfold x13
        refine fun _ h16 => ?_
        exact Keeps.upd h16
      clear_value x13
      refine Keeps.ite ?_ ?_
      · exact (h15 _ h14)
      · refine Keeps.ite ?_ ?_
        · exact (h15 _ (State.enginePut_keeps h14))
        · exact (State.settleReplies_keeps (State.unitOp_keeps h14))

theorem State.inboxServe_keeps {s0 : State} {s : State} {e : Nat} (h_s : Keeps s0 s) :
    Keeps s0 (State.inboxServe s e) := by
  unfold State.inboxServe
  extract_lets -useContext -merge -underBinder x0 x1 x2 x3 x4 x5 x6
  have h7 : Keeps s0 x6 := by
    unfold x6
    refine State.forEach_keeps (fun _ _ h8 => ?_) (State.setReg_keeps h_s)
    exact (State.serveSlot_keeps h8)
  clear_value x6
  refine Keeps.ite ?_ ?_
  · exact h_s
  · exact (State.setReg_keeps h7)

theorem State.hbmZero_keeps {s0 : State} {s : State} {off : Nat} {len : Nat} (h_s : Keeps s0 s) :
    Keeps s0 (State.hbmZero s off len) := by
  unfold State.hbmZero
  extract_lets -useContext -merge -underBinder x0 x1
  exact Keeps.gen h_s (Nat.le_refl _) (hbmMem (Memory.zero_wf _ _)) id (List.prefix_refl _)

theorem State.drawFrame_keeps {s0 : State} {s : State} {pool : Nat} {size : Nat} (h_s : Keeps s0 s) :
    KeepsO s0 (State.drawFrame s pool size) := by
  unfold State.drawFrame
  extract_lets -useContext -merge -underBinder x0
  refine KeepsO.ite ?_ ?_
  · exact KeepsO.none
  · split
    · exact KeepsO.none
    · refine KeepsO.some ?_
      refine Keeps2.mk ?_
      exact (State.setPool_keeps h_s)

theorem State.newTable_keeps {s0 : State} {s : State} {lvl : Nat} (h_s : Keeps s0 s) :
    KeepsO s0 (State.newTable s lvl) := by
  unfold State.newTable
  extract_lets -useContext -merge -underBinder x0 x1 x2 x3
  have h4 : Keeps s0 x2 := (State.hbmZero_keeps h_s)
  clear_value x2
  refine KeepsO.ite ?_ ?_
  · refine KeepsO.some ?_
    refine Keeps2.mk ?_
    exact Keeps.upd h4
  · split
    · exact KeepsO.none
    · rename_i v5 v6 e7
      have h8 := KeepsO.elim e7 (State.drawFrame_keeps h_s)
      refine KeepsO.some ?_
      refine Keeps2.mk ?_
      extract_lets -useContext -merge -underBinder x9 x10
      have h11 : Keeps s0 x9 := (State.hbmZero_keeps h8)
      clear_value x9
      exact Keeps.upd h11

theorem State.ensure_keeps {s0 : State} {s : State} {addr : Nat} {tbl : Nat} {target : Nat} {u4 : Nat} (h_s : Keeps s0 s) :
    KeepsO s0 (State.ensure s addr tbl target u4) := by
  induction u4 generalizing s addr tbl target with
  | zero =>
    rw [State.ensure.eq_1]
    exact KeepsO.none
  | succ n ih =>
    rw [State.ensure.eq_2]
    refine KeepsO.ite ?_ ?_
    · refine KeepsO.some ?_
      refine Keeps2.mk ?_
      exact h_s
    · refine KeepsO.ite ?_ ?_
      · exact (by apply ih; exact h_s)
      · refine KeepsO.ite ?_ ?_
        · split
          · exact KeepsO.none
          · rename_i v0 v1 e2
            have h3 := KeepsO.elim e2 (State.newTable_keeps h_s)
            exact (by apply ih; exact (State.hbmWrite64_keeps h3))
        · exact KeepsO.none

theorem State.fillDone_keeps {s0 : State} {s : State} {c : TierCmd} {f : Nat} {resp : Nat} (h_s : Keeps s0 s) :
    Keeps s0 (State.fillDone s c f resp) := by
  unfold State.fillDone
  refine Keeps.ite ?_ ?_
  · exact (State.tierReply_keeps (State.returnFrame_keeps h_s))
  · split
    · exact (State.tierReply_keeps (State.returnFrame_keeps h_s))
    · rename_i v0 v1 e2
      have h3 := KeepsO.elim e2 (State.ensure_keeps h_s)
      extract_lets -useContext -merge -underBinder x4 x5
      have h6 : Keeps s0 x5 := (State.hbmWrite64_keeps h3)
      have hx : x5.ext = v1.ext := State.hbmWrite_ext _ _ _
      clear_value x5
      refine State.tierReply_keeps ?_
      refine State.setOrigin_keeps ?_
      exact Keeps.gen h6 (Nat.le_refl _) (extMem (fun h => Memory.zero_wf _ _ (hx ▸ h))) id (List.prefix_refl _)

theorem State.settleFills_keeps {s0 : State} {s : State} (h_s : Keeps s0 s) :
    Keeps s0 (State.settleFills s) := by
  unfold State.settleFills
  refine State.forEach_keeps (fun _ _ h0 => ?_) h_s
  split
  · exact (State.fillDone_keeps (State.dropOps_keeps h0))
  · exact h0

theorem State.settleRods_keeps {s0 : State} {s : State} (h_s : Keeps s0 s) :
    Keeps s0 (State.settleRods s) := by
  unfold State.settleRods
  refine State.forEach_keeps (fun _ _ h0 => ?_) h_s
  split
  · extract_lets -useContext -merge -underBinder x1 x2
    have h3 : Keeps s0 x1 := (State.onOps_keeps h0)
    clear_value x1
    exact (State.onRod_keeps h3)
  · exact h0

theorem State.opsFail_keeps {s0 : State} {s : State} {sel : UnitOp → Bool} {resp : Nat} (h_s : Keeps s0 s) :
    Keeps s0 (State.opsFail s sel resp) := by
  unfold State.opsFail
  exact (State.onOps_keeps h_s)

theorem State.setBuf_keeps {s0 : State} {s : State} {t : Nat} {b : Nat} {n : Nat} (h_s : Keeps s0 s) :
    Keeps s0 (State.setBuf s t b n) := by
  unfold State.setBuf
  exact (State.onTen_keeps h_s)

theorem State.bucketCopy_keeps {s0 : State} {s : State} {t : Nat} {bucket : Nat} {p : Nat} {o : Nat} {off : Nat} {owner : Nat} {offset : Nat} {sz : Nat} (h_s : Keeps s0 s) :
    Keeps s0 (State.bucketCopy s t bucket p o off owner offset sz) := by
  unfold State.bucketCopy
  refine Keeps.ite ?_ ?_
  · refine Keeps.ite ?_ ?_
    · exact (State.hbmWrite_keeps h_s)
    · exact (State.unitOp_keeps h_s)
  · refine Keeps.ite ?_ ?_
    · exact (State.unitOp_keeps h_s)
    · exact h_s

theorem State.endLater_keeps {s0 : State} {s : State} {i : Nat} {status : Nat} (h_s : Keeps s0 s) :
    Keeps s0 (State.endLater s i status) := by
  unfold State.endLater
  exact (State.onSlot_keeps h_s)

theorem State.kvEvict_keeps {s0 : State} {s : State} {p : Nat} {u2 : Nat} (h_s : Keeps s0 s) :
    Keeps s0 (State.kvEvict s p u2) := by
  induction u2 generalizing s p with
  | zero =>
    rw [State.kvEvict.eq_1]
    exact h_s
  | succ n ih =>
    rw [State.kvEvict.eq_2]
    split
    · extract_lets -useContext -merge -underBinder x0
      have h1 : Keeps s0 x0 := (State.pfxEvict_keeps (State.onPart_keeps h_s))
      clear_value x0
      refine Keeps.ite ?_ ?_
      · exact h1
      · exact (by apply ih; exact h1)
    · exact (by apply ih; exact (State.onPart_keeps h_s))

theorem State.kvTake_keeps {s0 : State} {s : State} {p : Nat} (h_s : Keeps s0 s) :
    KeepsO s0 (State.kvTake s p) := by
  unfold State.kvTake
  extract_lets -useContext -merge -underBinder x0
  have h1 : Keeps s0 x0 := by
    unfold x0
    refine Keeps.ite ?_ ?_
    · exact (State.kvEvict_keeps h_s)
    · exact h_s
  clear_value x0
  split
  · exact KeepsO.none
  · refine KeepsO.some ?_
    refine Keeps2.mk ?_
    exact (State.onPart_keeps h1)

theorem State.inform_keeps {s0 : State} {s : State} {i : Nat} {status : Nat} (h_s : Keeps s0 s) :
    Keeps s0 (State.inform s i status) := by
  unfold State.inform
  extract_lets -useContext -merge -underBinder x0 x1 x2 x3
  refine Keeps.ite ?_ ?_
  · exact (State.bump_keeps h_s)
  · exact (State.complete_keeps (State.setCq_keeps h_s))

theorem State.cancel_keeps {s0 : State} {s : State} {i : Nat} (h_s : Keeps s0 s) :
    Keeps s0 (State.cancel s i) := by
  unfold State.cancel
  extract_lets -useContext -merge -underBinder x0
  refine Keeps.ite ?_ ?_
  · exact h_s
  · refine Keeps.ite ?_ ?_
    · exact (State.onSlot_keeps h_s)
    · exact (State.retire_keeps h_s)

theorem State.takeCmd_keeps {s0 : State} {s : State} {op : Nat} {k : Nat} (h_s : Keeps s0 s) :
    KeepsO s0 (State.takeCmd s op k) := by
  unfold State.takeCmd
  split
  · exact KeepsO.none
  · extract_lets -useContext -merge -underBinder x0 x1 x2 x3
    refine KeepsO.ite ?_ ?_
    · exact KeepsO.none
    · refine KeepsO.some ?_
      refine Keeps2.mk ?_
      exact Keeps.upd h_s

theorem State.cmdRow_keeps {s0 : State} {s : State} {op : Nat} {k : Nat} {f : TierCmd → State → State} (h_s : Keeps s0 s) (h_f : ∀ (a0 : TierCmd) (a1 : State), Keeps s0 a1 → Keeps s0 (f a0 a1)) :
    Keeps s0 (State.cmdRow s op k f) := by
  unfold State.cmdRow
  split
  · exact h_s
  · rename_i v0 v1 e2
    have h3 := KeepsO.elim e2 (State.takeCmd_keeps h_s)
    refine Keeps.ite ?_ ?_
    · exact (h_f _ _ h3)
    · exact (State.tierReply_keeps h3)

theorem State.vecEvent_keeps {s0 : State} {s : State} {t : Nat} {v : Nat} (h_s : Keeps s0 s) :
    Keeps s0 (State.vecEvent s t v) := by
  unfold State.vecEvent
  exact (State.onTen_keeps h_s)

theorem State.endOp_keeps {s0 : State} {s : State} {o : UnitOp} (h_s : Keeps s0 s) :
    Keeps s0 (State.endOp s o) := by
  unfold State.endOp
  extract_lets -useContext -merge -underBinder x0
  have h1 : ∀ (a0 : UnitOp) (a1 : State), Keeps s0 a1 → Keeps s0 (x0 a0 a1) := by
    unfold x0
    refine fun _ _ h2 => ?_
    exact (State.onOps_keeps h2)
  clear_value x0
  refine Keeps.ite ?_ ?_
  · exact (h1 _ _ h_s)
  · refine Keeps.ite ?_ ?_
    · split
      · exact (h1 _ _ h_s)
      · exact (State.event_keeps (State.bump_keeps (h1 _ _ h_s)))
    · exact (h1 _ _ h_s)

theorem State.unitRead_keeps {s0 : State} {s : State} {tag : Nat} {off : Nat} {r : Nat} {bs : List Byte} (h_s : Keeps s0 s) :
    Keeps s0 (State.unitRead s tag off r bs) := by
  unfold State.unitRead
  split
  · exact h_s
  · refine Keeps.ite ?_ ?_
    · exact (State.endOp_keeps h_s)
    · exact (State.endOp_keeps h_s)

theorem State.ctlReach_keeps {s0 : State} {s : State} {i : Nat} {c : CtlCmd} (h_s : Keeps s0 s) :
    Keeps s0 (State.ctlReach s i c) := by
  unfold State.ctlReach
  extract_lets -useContext -merge -underBinder x0 x1
  have h2 : Keeps s0 x1 := (State.commandDone_keeps h_s)
  clear_value x1
  refine Keeps.ite ?_ ?_
  · exact (State.commandDone_keeps h_s)
  · refine Keeps.ite ?_ ?_
    · exact h2
    · refine Keeps.ite ?_ ?_
      · exact h2
      · refine Keeps.ite ?_ ?_
        · exact h2
        · refine Keeps.ite ?_ ?_
          · exact h2
          · refine Keeps.ite ?_ ?_
            · refine Keeps.ite ?_ ?_
              · exact h2
              · exact (State.commandDone_keeps (State.startResume_keeps h_s))
            · refine Keeps.ite ?_ ?_
              · exact (State.applyCtl_keeps h_s)
              · exact (State.onSlot_keeps h_s)

theorem State.demoteCopied_keeps {s0 : State} {s : State} {m : Move} (h_s : Keeps s0 s) :
    Keeps s0 (State.demoteCopied s m) := by
  unfold State.demoteCopied
  refine Keeps.ite ?_ ?_
  · exact h_s
  · refine State.bump_keeps ?_
    exact Keeps.upd h_s

theorem State.engineTake_keeps {s0 : State} {s : State} {e : Nat} (h_s : Keeps s0 s) :
    Keeps s0 (State.engineTake s e) := by
  unfold State.engineTake
  refine Keeps.ite ?_ ?_
  · exact h_s
  · split
    · exact h_s
    · exact (State.onRod_keeps h_s)

theorem State.gatherRows_keeps {s0 : State} {s : State} {got : Got} {l : Nat} {ph : Nat} {p : Nat} {dest : Nat} {cl : List (Nat × Nat)} {d : List W64} {t : List W64} {j : Nat} {u10 : Nat} (h_s : Keeps s0 s) :
    Keeps2 s0 (State.gatherRows s got l ph p dest cl d t j u10) := by
  induction u10 generalizing s got l ph p dest cl d t j with
  | zero =>
    rw [State.gatherRows.eq_1]
    refine Keeps2.mk ?_
    exact h_s
  | succ n ih =>
    rw [State.gatherRows.eq_2]
    refine Keeps2.mk ?_
    exact (by apply ih; exact (State.unorderedWrite_keeps (State.serveIndex_keeps h_s)))

theorem State.hotChange_keeps {s0 : State} {s : State} {t : Nat} {d : List W64} {u3 : HotChange} (h_s : Keeps s0 s) :
    Keeps s0 (State.hotChange s t d u3) := by
  unfold State.hotChange
  split
  · extract_lets -useContext -merge -underBinder x0 x1
    split
    · refine Keeps.ite ?_ ?_
      · exact h_s
      · exact (State.rangeWrite64_keeps (State.rangeWrite_keeps h_s))
    · exact h_s
  · extract_lets -useContext -merge -underBinder x2
    split
    · split
      · refine Keeps.ite ?_ ?_
        · exact h_s
        · extract_lets -useContext -merge -underBinder x3 x4
          have h5 : Keeps s0 x3 := (State.rangeWrite64_keeps h_s)
          clear_value x3
          exact Keeps.upd h5
      · exact h_s
    · exact h_s

theorem State.tierMap_keeps {s0 : State} {s : State} {p : Nat} {page : Nat} {large : Bool} {pool : Nat} {pin : Bool} {wr : Bool} (h_s : Keeps s0 s) :
    Keeps2 s0 (State.tierMap s p page large pool pin wr) := by
  unfold State.tierMap
  extract_lets -useContext -merge -underBinder x0
  split
  · refine Keeps2.mk ?_
    exact h_s
  · refine Keeps2.ite ?_ ?_
    · refine Keeps2.mk ?_
      exact h_s
    · split
      · refine Keeps2.mk ?_
        exact h_s
      · rename_i v1 v2 e3
        have h4 := KeepsO.elim e3 (State.drawFrame_keeps h_s)
        split
        · refine Keeps2.mk ?_
          exact h_s
        · rename_i v5 v6 e7
          have h8 := KeepsO.elim e7 (State.ensure_keeps h4)
          refine Keeps2.ite ?_ ?_
          · refine Keeps2.mk ?_
            exact h_s
          · refine Keeps2.mk ?_
            exact (State.addT1_keeps (State.setOrigin_keeps (State.hbmWrite64_keeps (State.hbmZero_keeps h8))))

theorem State.opsExpire_keeps {s0 : State} {s : State} (h_s : Keeps s0 s) :
    Keeps s0 (State.opsExpire s) := by
  unfold State.opsExpire
  refine Keeps.ite ?_ ?_
  · exact h_s
  · exact (State.opsFail_keeps h_s)

theorem State.packCands_keeps {s0 : State} {s : State} {g : Got} {t : Nat} {p : Nat} {a : Nat} {k : Nat} {acc : List Cand} {u7 : Nat} (h_s : Keeps s0 s) :
    Keeps2 s0 (State.packCands s g t p a k acc u7) := by
  induction u7 generalizing s g t p a k acc with
  | zero =>
    rw [State.packCands.eq_1]
    refine Keeps2.mk ?_
    exact h_s
  | succ n ih =>
    rw [State.packCands.eq_2]
    refine Keeps2.ite ?_ ?_
    · exact (by apply ih; exact (State.bump_keeps h_s))
    · refine Keeps2.ite ?_ ?_
      · exact (by apply ih; exact (State.bump_keeps h_s))
      · refine Keeps2.ite ?_ ?_
        · exact (by apply ih; exact (State.bump_keeps h_s))
        · exact (by apply ih; exact h_s)

theorem State.packFill_keeps {s0 : State} {s : State} {g : Got} {e t p tbl want budget : Nat} {sep : Option Nat} {l : List Cand} {acc : List Nat} {n : Nat}
    (h_s : Keeps s0 s) : Keeps22 s0 (State.packFill s g e t p tbl want budget sep l acc n).2 := by
  induction l generalizing s acc n with
  | nil => exact h_s
  | cons c r ih =>
    unfold State.packFill
    split
    · exact h_s
    · extract_lets s1
      have h1 : Keeps s0 s1 := State.sample_keeps h_s
      clear_value s1
      split
      · exact h_s
      · exact ih (State.countDrop_keeps h1)
      · extract_lets add
        split
        · exact ih (State.bump_keeps h1)
        · exact ih h1

theorem State.packStart_keeps {s0 : State} {s : State} {i : Nat} (h_s : Keeps s0 s) :
    Keeps s0 (State.packStart s i) := by
  unfold State.packStart
  extract_lets -useContext -merge -underBinder x0 x1
  have h2 : Keeps s0 x0 := (State.onSlot_keeps (State.dropOps_keeps h_s))
  clear_value x0
  exact Keeps.upd h2

theorem State.packed_keeps {s0 : State} {s : State} {i : Nat} {toks : List Nat} (h_s : Keeps s0 s) :
    Keeps s0 (State.packed s i toks) := by
  unfold State.packed
  refine State.onSlot_keeps ?_
  refine State.dropOps_keeps ?_
  exact Keeps.upd h_s

theorem State.settleDemotes_keeps {s0 : State} {s : State} (h_s : Keeps s0 s) :
    Keeps s0 (State.settleDemotes s) := by
  unfold State.settleDemotes
  refine State.forEach_keeps (fun _ _ h0 => ?_) h_s
  exact (State.abortDemote_keeps h0)

theorem State.stageBucket_keeps {s0 : State} {s : State} {t : Nat} {bucket : Nat} {owner : Nat} {offset : Nat} {newMap : Nat} {d : List W64} {m : List Byte} (h_s : Keeps s0 s) :
    Keeps s0 (State.stageBucket s t bucket owner offset newMap d m) := by
  unfold State.stageBucket
  extract_lets -useContext -merge -underBinder x0 x1 x2 x3
  have h4 : Keeps s0 x1 := (State.rangeWrite_keeps h_s)
  clear_value x1
  have h5 : Keeps s0 x3 := by
    unfold x3
    refine State.forEach_keeps (fun _ _ h6 => ?_) h4
    exact (State.setReg_keeps h6)
  clear_value x3
  exact (State.setRf_keeps (State.setRf_keeps h5))

theorem State.unitResponse_keeps {s0 : State} {s : State} {src : Nat} {f : Flit} (h_s : Keeps s0 s) :
    Keeps s0 (State.unitResponse s src f) := by
  unfold State.unitResponse
  split
  · exact h_s
  · exact (State.endOp_keeps h_s)

theorem State.tierDemote_keeps {s0 : State} {s : State} {c : TierCmd} (h_s : Keeps s0 s) :
    Keeps s0 (State.tierDemote s c) := by
  unfold State.tierDemote
  refine Keeps.ite ?_ ?_
  · exact (State.tierReply_keeps h_s)
  · split
    · exact (State.tierReply_keeps h_s)
    · exact (State.tierReply_keeps h_s)
    · refine Keeps.ite ?_ ?_
      · exact (State.tierReply_keeps h_s)
      · refine Keeps.ite ?_ ?_
        · exact (State.tierReply_keeps h_s)
        · refine Keeps.ite ?_ ?_
          · exact (State.tierReply_keeps h_s)
          · split
            · exact (State.tierReply_keeps h_s)
            · rename_i v0 v1 e2
              have h3 := KeepsO.elim e2 (State.drawFrame_keeps h_s)
              extract_lets -useContext -merge -underBinder x4 x5 x6 x7
              have h8 : Keeps s0 x5 := (State.setEntry_keeps h3)
              clear_value x5
              have h9 : Keeps s0 x7 := by
                unfold x7
                exact Keeps.upd h8
              clear_value x7
              refine Keeps.ite ?_ ?_
              · exact (State.tierReply_keeps h_s)
              · refine Keeps.ite ?_ ?_
                · exact h9
                · exact (State.unitOp_keeps h9)

theorem State.tierMapLower_keeps {s0 : State} {s : State} {c : TierCmd} (h_s : Keeps s0 s) :
    Keeps s0 (State.tierMapLower s c) := by
  unfold State.tierMapLower
  extract_lets -useContext -merge -underBinder x0
  split
  · exact (State.tierReply_keeps h_s)
  · split
    · exact (State.tierReply_keeps h_s)
    · rename_i v1 v2 e3
      have h4 := KeepsO.elim e3 (State.drawFrame_keeps h_s)
      extract_lets -useContext -merge -underBinder x5
      refine Keeps.ite ?_ ?_
      · exact (State.tierReply_keeps h_s)
      · split
        · exact (State.tierReply_keeps h_s)
        · rename_i v6 v7 e8
          have h9 := KeepsO.elim e8 (State.ensure_keeps h4)
          refine Keeps.ite ?_ ?_
          · exact (State.tierReply_keeps h_s)
          · exact (State.unitOp_keeps h9)

theorem State.tierPromote_keeps {s0 : State} {s : State} {c : TierCmd} (h_s : Keeps s0 s) :
    Keeps s0 (State.tierPromote s c) := by
  unfold State.tierPromote
  refine Keeps.ite ?_ ?_
  · exact (State.tierReply_keeps h_s)
  · split
    · exact (State.tierReply_keeps h_s)
    · exact (State.tierReply_keeps h_s)
    · refine Keeps.ite ?_ ?_
      · exact (State.tierReply_keeps h_s)
      · refine Keeps.ite ?_ ?_
        · extract_lets -useContext -merge -underBinder x0
          have h1 : Keeps s0 x0 := by
            unfold x0
            split
            · refine Keeps.ite ?_ ?_
              · exact (State.abortDemote_keeps h_s)
              · exact h_s
            · exact h_s
          clear_value x0
          refine State.tierReply_keeps ?_
          refine Keeps.ite ?_ ?_
          · exact (State.setEntry_keeps h1)
          · exact h1
        · refine Keeps.ite ?_ ?_
          · exact (State.tierReply_keeps h_s)
          · split
            · exact (State.tierReply_keeps h_s)
            · rename_i v2 v3 e4
              have h5 := KeepsO.elim e4 (State.drawFrame_keeps h_s)
              refine State.unitOp_keeps ?_
              extract_lets -useContext -merge -underBinder x6 x7
              have h8 : Keeps s0 x6 := (State.addT1_keeps h5)
              clear_value x6
              exact Keeps.upd h8

theorem State.tierRef_keeps {s0 : State} {s : State} {c : TierCmd} {up : Bool} (h_s : Keeps s0 s) :
    Keeps s0 (State.tierRef s c up) := by
  unfold State.tierRef
  split
  · exact (State.tierReply_keeps h_s)
  · exact (State.tierReply_keeps h_s)
  · extract_lets -useContext -merge -underBinder x0
    refine Keeps.ite ?_ ?_
    · exact (State.tierReply_keeps h_s)
    · refine Keeps.ite ?_ ?_
      · refine Keeps.ite ?_ ?_
        · exact (State.tierReply_keeps h_s)
        · exact (State.tierReply_keeps (State.setRef_keeps h_s))
      · refine Keeps.ite ?_ ?_
        · exact (State.tierReply_keeps h_s)
        · exact (State.tierReply_keeps (State.setRef_keeps h_s))

theorem execGather_keeps {s0 : State} {l : Fin 512} {s : State} (h_s : Keeps s0 s) :
    KeepsR s0 (execGather l s) := by
  unfold execGather
  refine KeepsR.next ?_
  refine State.issue_keeps h_s (fun _ _ h0 => ?_)
  split
  · extract_lets -useContext -merge -underBinder x1 x2 x3 x4 x5 x6 x7
    refine Keeps.ite ?_ ?_
    · exact (State.raise_keeps h0)
    · refine Keeps.ite ?_ ?_
      · exact (State.raise_keeps h0)
      · exact (State.enqueueRem_keeps h0)
  · exact h0

theorem execGatherComplete_keeps {s0 : State} {l : Fin 512} {tag : Nat} {s : State} (h_s : Keeps s0 s) :
    KeepsR s0 (execGatherComplete l tag s) := by
  unfold execGatherComplete
  extract_lets -useContext -merge -underBinder x0
  refine KeepsR.next ?_
  split
  · exact h_s
  · refine Keeps.ite ?_ ?_
    · exact h_s
    · refine Keeps.ite ?_ ?_
      · exact (State.engineTake_keeps h_s)
      · split
        · exact (State.remFail_keeps h_s)
        · extract_lets -useContext -merge -underBinder x1 x2 x3 x4 x5 x6 x7 x8 x9
          have h10 : Keeps2 s0 x8 := (State.gatherRows_keeps h_s)
          clear_value x8
          refine Keeps.ite ?_ ?_
          · refine Keeps.ite ?_ ?_
            · exact h_s
            · exact (State.askFor_keeps h_s)
          · exact (State.engineTake_keeps (State.dropOps_keeps (State.onRod_keeps (State.unorderedWrite_keeps h10))))

theorem execStreamArm_keeps {s0 : State} {l : Fin 512} {s : State} (h_s : Keeps s0 s) :
    KeepsR s0 (execStreamArm l s) := by
  unfold execStreamArm
  refine KeepsR.next ?_
  refine State.issue_keeps h_s (fun _ _ h0 => ?_)
  split
  · exact (State.enqueueRem_keeps h0)
  · exact h0

theorem execSamplePut_keeps {s0 : State} {l : Fin 512} {s : State} (h_s : Keeps s0 s) :
    KeepsR s0 (execSamplePut l s) := by
  unfold execSamplePut
  refine KeepsR.next ?_
  refine State.issue_keeps h_s (fun _ _ h0 => ?_)
  split
  · extract_lets -useContext -merge -underBinder x1 x2
    refine Keeps.ite ?_ ?_
    · exact (State.enqueueRem_keeps h0)
    · refine Keeps.ite ?_ ?_
      · exact (State.raise_keeps h0)
      · exact (State.enqueueRem_keeps h0)
  · exact h0

theorem execSamplePutEmpty_keeps {s0 : State} {l : Fin 512} {s : State} (h_s : Keeps s0 s) :
    KeepsR s0 (execSamplePutEmpty l s) := by
  unfold execSamplePutEmpty
  refine KeepsR.next ?_
  refine State.issue_keeps h_s (fun _ _ h0 => ?_)
  split
  · exact (State.enqueueRem_keeps h0)
  · exact h0

theorem execResumeComplete_keeps {s0 : State} {i : Fin 32768} {s : State} (h_s : Keeps s0 s) :
    KeepsR s0 (execResumeComplete i s) := by
  unfold execResumeComplete
  extract_lets -useContext -merge -underBinder x0 x1 x2
  refine KeepsR.next ?_
  refine Keeps.ite ?_ ?_
  · refine Keeps.ite ?_ ?_
    · exact (State.rePrefill_keeps h_s)
    · refine Keeps.ite ?_ ?_
      · exact (State.onSlot_keeps h_s)
      · exact h_s
  · exact h_s

theorem execSlateSweep_keeps {s0 : State} {s : State} (h_s : Keeps s0 s) :
    KeepsR s0 (execSlateSweep s) := by
  unfold execSlateSweep
  refine KeepsR.next ?_
  refine Keeps.ite ?_ ?_
  · exact h_s
  · refine State.forEach_keeps (fun _ _ h0 => ?_) h_s
    extract_lets -useContext -merge -underBinder x1
    refine Keeps.ite ?_ ?_
    · exact (State.retire_keeps (State.bump_keeps h0))
    · exact h0

theorem execSlateFree_keeps {s0 : State} {i : Fin 32768} {s : State} (h_s : Keeps s0 s) :
    KeepsR s0 (execSlateFree i s) := by
  unfold execSlateFree
  extract_lets -useContext -merge -underBinder x0 x1
  have h2 : Keeps s0 x1 := (State.setSlot_keeps h_s)
  clear_value x1
  refine KeepsR.next ?_
  refine Keeps.ite ?_ ?_
  · refine Keeps.ite ?_ ?_
    · exact (State.setBuf_keeps h2)
    · exact h2
  · exact h_s

theorem execPackComplete_keeps {s0 : State} {i : Fin 32768} {s : State} (h_s : Keeps s0 s) :
    KeepsR s0 (execPackComplete i s) := by
  unfold execPackComplete
  refine KeepsR.next ?_
  refine Keeps.ite ?_ ?_
  · exact h_s
  · split
    · exact h_s
    · extract_lets -useContext -merge -underBinder x0 x1 x2 x3 x4 x5 x6 x7 x8 x9 x10
      have h11 : Keeps2 s0 x6 := (State.packCands_keeps h_s)
      clear_value x6
      have h12 : Keeps22 s0 x8.2 := (State.packFill_keeps h11)
      clear_value x8
      have h13 : Keeps s0 x9 := (State.packed_keeps h12)
      clear_value x9
      have h14 : Keeps s0 x10 := (State.bump_keeps h13)
      clear_value x10
      refine Keeps.ite ?_ ?_
      · exact h_s
      · refine Keeps.ite ?_ ?_
        · exact (State.askFor_keeps h_s)
        · refine Keeps.ite ?_ ?_
          · exact (State.askFor_keeps h_s)
          · refine Keeps.ite ?_ ?_
            · refine Keeps.ite ?_ ?_
              · exact (State.endLater_keeps h14)
              · exact (State.inform_keeps h14)
            · exact h13

theorem execCarDirStageApply_keeps {s0 : State} {p : Fin 16} {s : State} (h_s : Keeps s0 s) :
    KeepsR s0 (execCarDirStageApply p s) := by
  unfold execCarDirStageApply
  refine KeepsR.next ?_
  refine Keeps.ite ?_ ?_
  · exact (State.setRf_keeps h_s)
  · exact h_s

theorem execDirectoryApply_keeps {s0 : State} {p : Fin 16} {s : State} (h_s : Keeps s0 s) :
    KeepsR s0 (execDirectoryApply p s) := by
  unfold execDirectoryApply
  refine KeepsR.next ?_
  refine Keeps.ite ?_ ?_
  · exact (State.dirNext_keeps (State.applyDir_keeps h_s))
  · exact h_s

theorem execGthTblStageApply_keeps {s0 : State} {s : State} (h_s : Keeps s0 s) :
    KeepsR s0 (execGthTblStageApply s) := by
  unfold execGthTblStageApply
  refine KeepsR.next ?_
  refine Keeps.ite ?_ ?_
  · exact (State.setRf_keeps h_s)
  · exact h_s

theorem execTableApply_keeps {s0 : State} {s : State} (h_s : Keeps s0 s) :
    KeepsR s0 (execTableApply s) := by
  unfold execTableApply
  refine KeepsR.next ?_
  refine Keeps.ite ?_ ?_
  · exact (State.applyTable_keeps h_s)
  · exact h_s

theorem execSeqProfStageApply_keeps {s0 : State} {p : Fin 16} {s : State} (h_s : Keeps s0 s) :
    KeepsR s0 (execSeqProfStageApply p s) := by
  unfold execSeqProfStageApply
  refine KeepsR.next ?_
  refine Keeps.ite ?_ ?_
  · exact (State.setRf_keeps h_s)
  · exact h_s

theorem execProfileApply_keeps {s0 : State} {p : Fin 16} {s : State} (h_s : Keeps s0 s) :
    KeepsR s0 (execProfileApply p s) := by
  unfold execProfileApply
  extract_lets -useContext -merge -underBinder x0 x1
  refine KeepsR.next ?_
  refine Keeps.ite ?_ ?_
  · exact (State.setRf_keeps (State.rangeWrite_keeps h_s))
  · exact h_s

theorem execRowWriteFlip_keeps {s0 : State} {s : State} (h_s : Keeps s0 s) :
    KeepsR s0 (execRowWriteFlip s) := by
  unfold execRowWriteFlip
  refine KeepsR.next ?_
  split
  · exact h_s
  · refine Keeps.ite ?_ ?_
    · exact h_s
    · extract_lets -useContext -merge -underBinder x0 x1 x2 x3
      have h4 : Keeps s0 x3 := by
        unfold x3
        exact Keeps.upd h_s
      clear_value x3
      split
      · refine Keeps.ite ?_ ?_
        · extract_lets -useContext -merge -underBinder x5 x6 x7 x8 x9
          have h10 : Keeps s0 x5 := (State.rangeWrite_keeps h4)
          clear_value x5
          have h11 : Keeps s0 x8 := (State.rangeWrite_keeps h10)
          clear_value x8
          exact Keeps.upd h11
        · exact h4
      · exact h4

theorem execLookupReply_keeps {s0 : State} {e : Fin 32} {s : State} (h_s : Keeps s0 s) :
    KeepsR s0 (execLookupReply e s) := by
  unfold execLookupReply
  refine KeepsR.next ?_
  split
  · exact h_s
  · refine Keeps.ite ?_ ?_
    · exact h_s
    · extract_lets -useContext -merge -underBinder x0 x1
      have h2 : Keeps s0 x1 := by
        unfold x1
        exact Keeps.upd h_s
      clear_value x1
      refine Keeps.ite ?_ ?_
      · refine Keeps.ite ?_ ?_
        · exact (State.addCnt_keeps h2)
        · exact h2
      · exact (State.settleNotes_keeps (State.unitOp_keeps h2))

theorem execHotSetRefresh_keeps {s0 : State} {tbl : Fin 1024} {changes : List HotChange} {s : State} (h_s : Keeps s0 s) :
    KeepsR s0 (execHotSetRefresh tbl changes s) := by
  unfold execHotSetRefresh
  extract_lets -useContext -merge -underBinder x0
  refine KeepsR.next ?_
  refine Keeps.ite ?_ ?_
  · refine State.forEach_keeps (fun _ _ h1 => ?_) (State.journal_keeps h_s)
    exact (State.hotChange_keeps h1)
  · exact h_s

theorem execShardMigration_keeps {s0 : State} {tbl : Fin 1024} {bucket : Nat} {owner : Fin 8} {offset : BitVec 48} {newMap : BitVec 52} {s : State} (h_s : Keeps s0 s) :
    KeepsR s0 (execShardMigration tbl bucket owner offset newMap s) := by
  unfold execShardMigration
  extract_lets -useContext -merge -underBinder x0 x1 x2 x3 x4
  refine KeepsR.next ?_
  split
  · refine Keeps.ite ?_ ?_
    · exact h_s
    · extract_lets -useContext -merge -underBinder x5
      have h6 : ∀ (a0 : State), Keeps s0 a0 → Keeps s0 (x5 a0) := by
        unfold x5
        refine fun _ h7 => ?_
        extract_lets -useContext -merge -underBinder x8 x9
        have h10 : Keeps s0 x9 := by
          unfold x9
          refine Keeps.ite ?_ ?_
          · exact Keeps.upd h7
          · exact h7
        clear_value x9
        exact (State.stageBucket_keeps (State.journal_keeps h10))
      clear_value x5
      split
      · extract_lets -useContext -merge -underBinder x11
        have h12 : Keeps s0 x11 := (State.bucketCopy_keeps h_s)
        clear_value x11
        refine Keeps.ite ?_ ?_
        · exact (h6 _ h12)
        · exact h12
      · split
        · exact h_s
        · refine Keeps.ite ?_ ?_
          · exact (State.dropOps_keeps h_s)
          · refine h6 _ ?_
            · refine Keeps.ite ?_ ?_
              · exact (State.hbmWrite_keeps (State.dropOps_keeps h_s))
              · exact (State.dropOps_keeps h_s)
  · exact h_s

theorem execMap_keeps {s0 : State} {k : Nat} {s : State} (h_s : Keeps s0 s) :
    KeepsR s0 (execMap k s) := by
  unfold execMap
  refine KeepsR.next ?_
  refine State.cmdRow_keeps h_s (fun _ _ h0 => ?_)
  refine Keeps.ite ?_ ?_
  · exact (State.settleFills_keeps (State.tierMapLower_keeps h0))
  · extract_lets -useContext -merge -underBinder x1
    have h2 : Keeps2 s0 x1 := (State.tierMap_keeps h0)
    clear_value x1
    exact (State.tierReply_keeps h2)

theorem execUnmap_keeps {s0 : State} {k : Nat} {s : State} (h_s : Keeps s0 s) :
    KeepsR s0 (execUnmap k s) := by
  unfold execUnmap
  refine KeepsR.next ?_
  exact State.cmdRow_keeps h_s (fun _ _ h0 => (State.tierUnmap_keeps h0))

theorem execPromote_keeps {s0 : State} {k : Nat} {s : State} (h_s : Keeps s0 s) :
    KeepsR s0 (execPromote k s) := by
  unfold execPromote
  refine KeepsR.next ?_
  exact State.cmdRow_keeps h_s (fun _ _ h0 => (State.tierPromote_keeps h0))

theorem execPromoteComplete_keeps {s0 : State} {p : Fin 16} {page : BitVec 52} {s : State} (h_s : Keeps s0 s) :
    KeepsR s0 (execPromoteComplete p page s) := by
  unfold execPromoteComplete
  refine KeepsR.next ?_
  split
  · refine Keeps.ite ?_ ?_
    · exact h_s
    · extract_lets -useContext -merge -underBinder x0
      split
      · extract_lets -useContext -merge -underBinder x1 x2 x3
        have h4 : Keeps s0 x1 := (State.dropOps_keeps (State.dropMove_keeps h_s))
        clear_value x1
        have h5 : Keeps s0 x3 := (State.releaseFrame_keeps (State.hbmWrite64_keeps (State.hbmWrite_keeps h4)))
        clear_value x3
        refine Keeps.ite ?_ ?_
        · exact (State.tierReply_keeps (State.addT1_keeps (State.returnFrame_keeps h4)))
        · exact (State.tierReply_keeps (State.bump_keeps (State.bump_keeps (State.setOrigin_keeps h5))))
      · exact h_s
  · exact h_s

theorem execDemote_keeps {s0 : State} {k : Nat} {s : State} (h_s : Keeps s0 s) :
    KeepsR s0 (execDemote k s) := by
  unfold execDemote
  refine KeepsR.next ?_
  exact State.cmdRow_keeps h_s (fun _ _ h0 => (State.tierDemote_keeps h0))

theorem State.demoteCopied_ext (s : State) (m : Move) : (s.demoteCopied m).ext = s.ext := by
  unfold State.demoteCopied
  split
  · rfl
  · obtain ⟨_, e⟩ := State.bump_spec { s with tier := { s.tier with moves := s.tier.moves.map (fun x => if x = m then { x with copied := some s.time } else x) } }
      (cntPart m.part (43 + poolTier (s.poolKind m.pool))) (pageSize m.large)
    rw [e]

theorem execDemoteComplete_keeps {s0 : State} {p : Fin 16} {page : BitVec 52} {s : State} (h_s : Keeps s0 s) :
    KeepsR s0 (execDemoteComplete p page s) := by
  unfold execDemoteComplete
  refine KeepsR.next ?_
  split
  · exact h_s
  · refine Keeps.ite ?_ ?_
    · exact h_s
    · refine Keeps.ite ?_ ?_
      · exact (State.abortDemote_keeps h_s)
      · refine Keeps.ite ?_ ?_
        · exact (State.abortDemote_keeps h_s)
        · extract_lets -useContext -merge -underBinder x0
          split
          · refine Keeps.ite ?_ ?_
            · exact (State.abortDemote_keeps h_s)
            · extract_lets -useContext -merge -underBinder x1 x2 x3 x4 x5 x6
              have h7 : Keeps s0 x1 := (State.demoteCopied_keeps h_s)
              have hx : x3.ext = s.ext := (show x3.ext = x1.ext from rfl).trans (State.demoteCopied_ext s _)
              clear_value x1
              have h8 : Keeps s0 x3 := (State.dropOps_keeps h7)
              clear_value x3
              have h9 : Keeps s0 x5 := by
                unfold x5
                exact Keeps.gen h8 (Nat.le_refl _) (extMem (fun h => Memory.writeN_wf _ _ (hx ▸ h))) id (List.prefix_refl _)
              clear_value x5
              have h10 : Keeps s0 x6 := (State.setOrigin_keeps (State.releaseFrame_keeps (State.hbmWrite64_keeps h9)))
              clear_value x6
              refine Keeps.ite ?_ ?_
              · exact h7
              · exact (State.tierReply_keeps (State.bump_keeps (State.addT1_keeps h10)))
          · exact h_s

theorem execDemoteWaitExpire_keeps {s0 : State} {p : Fin 16} {page : BitVec 52} {s : State} (h_s : Keeps s0 s) :
    KeepsR s0 (execDemoteWaitExpire p page s) := by
  unfold execDemoteWaitExpire
  refine KeepsR.next ?_
  split
  · exact h_s
  · split
    · refine Keeps.ite ?_ ?_
      · exact (State.abortDemote_keeps h_s)
      · exact h_s
    · exact h_s

theorem execRef_keeps {s0 : State} {k : Nat} {s : State} (h_s : Keeps s0 s) :
    KeepsR s0 (execRef k s) := by
  unfold execRef
  refine KeepsR.next ?_
  exact State.cmdRow_keeps h_s (fun _ _ h0 => (State.tierRef_keeps h0))

theorem execUnref_keeps {s0 : State} {k : Nat} {s : State} (h_s : Keeps s0 s) :
    KeepsR s0 (execUnref k s) := by
  unfold execUnref
  refine KeepsR.next ?_
  exact State.cmdRow_keeps h_s (fun _ _ h0 => (State.tierRef_keeps h0))

theorem execFrameRelease_keeps {s0 : State} {k : Nat} {s : State} (h_s : Keeps s0 s) :
    KeepsR s0 (execFrameRelease k s) := by
  unfold execFrameRelease
  refine KeepsR.next ?_
  split
  · exact h_s
  · refine Keeps.ite ?_ ?_
    · refine State.returnFrame_keeps ?_
      exact Keeps.upd h_s
    · exact h_s

theorem execImbalanceWindow_keeps {s0 : State} {bytes : List Nat} {s : State} (h_s : Keeps s0 s) :
    KeepsR s0 (execImbalanceWindow bytes s) := by
  unfold execImbalanceWindow
  extract_lets -useContext -merge -underBinder x0 x1 x2 x3 x4 x5 x6 x7 x8
  have h9 : Keeps s0 x6 := by
    unfold x6
    exact Keeps.upd h_s
  clear_value x6
  have h10 : Keeps s0 x8 := (State.setRf_keeps h9)
  clear_value x8
  refine KeepsR.next ?_
  refine Keeps.ite ?_ ?_
  · exact h_s
  · refine State.forEach_keeps (fun _ _ h11 => ?_) h10
    exact (State.event_keeps (State.bump_keeps (State.setRf_keeps (State.setRf_keeps h11))))

theorem execRowWriteHoldExpire_keeps {s0 : State} {tbl : Fin 1024} {row : Nat} {s : State} (h_s : Keeps s0 s) :
    KeepsR s0 (execRowWriteHoldExpire tbl row s) := by
  unfold execRowWriteHoldExpire
  extract_lets -useContext -merge -underBinder x0 x1
  refine KeepsR.next ?_
  refine Keeps.ite ?_ ?_
  · exact Keeps.upd h_s
  · exact h_s

end Sys2Proof.Machine
end

