-- ==== Sys2Proof/Laws/KeepsSteps.lean ====
section
/-! SUPPORT. What each operation keeps (Keeps.lean): steps, partitions, loads and the Sampler. -/

namespace Sys2Proof.Machine

theorem State.settle_keeps {s0 : State} {s : State} {t : Nat} {q : Nat} {u3 : Nat} (h_s : Keeps s0 s) :
    Keeps s0 (State.settle s t q u3) := by
  induction u3 generalizing s t q with
  | zero =>
    rw [State.settle.eq_1]
    exact h_s
  | succ n ih =>
    rw [State.settle.eq_2]
    split
    · exact h_s
    · split
      · exact (by apply ih; exact (State.setSq_keeps h_s))
      · refine Keeps.ite ?_ ?_
        · exact h_s
        · exact (by apply ih; exact (State.commandDone_keeps (State.setSq_keeps h_s)))

theorem State.settleQ_keeps {s0 : State} {s : State} {t : Nat} {q : Nat} (h_s : Keeps s0 s) :
    Keeps s0 (State.settleQ s t q) := by
  unfold State.settleQ
  extract_lets -useContext -merge -underBinder x0
  exact (State.settle_keeps h_s)

theorem State.entryDone_keeps {s0 : State} {s : State} {t : Nat} {q : Nat} {i : Nat} {r : Option Nat} (h_s : Keeps s0 s) :
    Keeps s0 (State.entryDone s t q i r) := by
  unfold State.entryDone
  extract_lets -useContext -merge -underBinder x0
  split
  · exact h_s
  · extract_lets -useContext -merge -underBinder x1
    exact (State.settleQ_keeps (State.setSq_keeps (State.journal_keeps h_s)))

theorem State.addAdapter_keeps {s0 : State} {s : State} {t : Nat} {q : Nat} {e : SubEntry} (h_s : Keeps s0 s) :
    Keeps s0 (State.addAdapter s t q e) := by
  unfold State.addAdapter
  exact (State.entryDone_keeps (State.onTen_keeps h_s))

theorem State.advise_keeps {s0 : State} {s : State} {cls : Nat} (h_s : Keeps s0 s) :
    Keeps s0 (State.advise s cls) := by
  unfold State.advise
  refine Keeps.ite ?_ ?_
  · exact h_s
  · exact (State.event_keeps (State.bump_keeps (State.setReg_keeps h_s)))

theorem State.adviseLanes_keeps {s0 : State} {s : State} {p : Nat} (h_s : Keeps s0 s) :
    Keeps s0 (State.adviseLanes s p) := by
  unfold State.adviseLanes
  extract_lets -useContext -merge -underBinder x0
  refine Keeps.ite ?_ ?_
  · exact (State.advise_keeps h_s)
  · exact h_s

theorem State.adviseRods_keeps {s0 : State} {s : State} (h_s : Keeps s0 s) :
    Keeps s0 (State.adviseRods s) := by
  unfold State.adviseRods
  extract_lets -useContext -merge -underBinder x0
  have h1 : Keeps s0 x0 := by
    unfold x0
    refine Keeps.ite ?_ ?_
    · exact (State.advise_keeps h_s)
    · exact h_s
  clear_value x0
  refine Keeps.ite ?_ ?_
  · exact (State.advise_keeps h1)
  · exact h1

theorem State.adviseSram_keeps {s0 : State} {s : State} {ph : Nat} (h_s : Keeps s0 s) :
    Keeps s0 (State.adviseSram s ph) := by
  unfold State.adviseSram
  refine Keeps.ite ?_ ?_
  · exact (State.advise_keeps h_s)
  · exact h_s

theorem State.stepCtx_keeps {s0 : State} {s : State} {i : Nat} {t : Nat} (h_s : Keeps s0 s) :
    Keeps s0 (State.stepCtx s i t) := by
  unfold State.stepCtx
  split
  · refine Keeps.ite ?_ ?_
    · exact h_s
    · split
      · exact (State.rangeWrite_keeps h_s)
      · exact h_s
  · exact h_s

theorem State.miss_keeps {s0 : State} {s : State} {i : Nat} {first : Bool} (h_s : Keeps s0 s) :
    Keeps s0 (State.miss s i first) := by
  unfold State.miss
  extract_lets -useContext -merge -underBinder x0 x1
  exact (State.bump_keeps (State.bump_keeps (State.onSlot_keeps h_s)))

theorem State.writeDesc_keeps {s0 : State} {s : State} {p : Nat} {d : Desc} (h_s : Keeps s0 s) :
    Keeps s0 (State.writeDesc s p d) := by
  unfold State.writeDesc
  exact (State.rangeWrite_keeps h_s)

theorem State.onBuilt_keeps {s0 : State} {s : State} {p : Nat} {f : State → Desc → State × Desc} (h_s : Keeps s0 s) (h_f : ∀ (a0 : State) (a1 : Desc), Keeps s0 a0 → Keeps1 s0 (f a0 a1)) :
    Keeps s0 (State.onBuilt s p f) := by
  unfold State.onBuilt
  split
  · exact h_s
  · extract_lets -useContext -merge -underBinder x0
    have h1 : Keeps1 s0 x0 := (h_f _ _ h_s)
    clear_value x0
    exact (State.onPart_keeps h1)
  · extract_lets -useContext -merge -underBinder x2
    have h3 : Keeps1 s0 x2 := (h_f _ _ h_s)
    clear_value x2
    exact (State.writeDesc_keeps (State.onPart_keeps h3))

theorem State.applyToken_keeps {s0 : State} {s : State} {i : Nat} {t : Nat} (h_s : Keeps s0 s) :
    Keeps s0 (State.applyToken s i t) := by
  unfold State.applyToken
  extract_lets -useContext -merge -underBinder x0 x1 x2 x3 x4 x5
  have h6 : Keeps s0 x3 := (State.histPut_keeps h_s)
  clear_value x3
  have h7 : Keeps s0 x4 := (State.onSlot_keeps (State.stepCtx_keeps h6))
  clear_value x4
  have h8 : Keeps s0 x5 := by
    unfold x5
    refine Keeps.ite ?_ ?_
    · exact (State.miss_keeps h7)
    · exact h7
  clear_value x5
  refine State.onBuilt_keeps ?_ (fun _ _ h9 => ?_)
  · refine Keeps.ite ?_ ?_
    · exact (State.histEvent_keeps h8)
    · exact h8
  · refine Keeps1.mk ?_
    exact h9

theorem State.writeScores_keeps {s0 : State} {s : State} {i : Nat} {l : List W32} (h_s : Keeps s0 s) :
    Keeps s0 (State.writeScores s i l) := by
  unfold State.writeScores
  split
  · exact h_s
  · refine State.forEach_keeps (fun _ _ h0 => ?_) h_s
    exact (State.hbmWrite64_keeps h0)

theorem State.applyEntry_keeps {s0 : State} {s : State} {p : Nat} {e : JEntry} (h_s : Keeps s0 s) :
    Keeps s0 (State.applyEntry s p e) := by
  unfold State.applyEntry
  extract_lets -useContext -merge -underBinder x0
  refine Keeps.ite ?_ ?_
  · exact h_s
  · refine Keeps.ite ?_ ?_
    · exact (State.retire_keeps h_s)
    · split
      · exact (State.applyToken_keeps h_s)
      · exact (State.retire_keeps (State.applyToken_keeps h_s))
      · refine State.retire_keeps ?_
        refine Keeps.ite ?_ ?_
        · exact (State.writeScores_keeps h_s)
        · exact h_s
      · extract_lets -useContext -merge -underBinder x1
        have h2 : Keeps s0 x1 := by
          unfold x1
          refine Keeps.ite ?_ ?_
          · exact (State.bump_keeps (State.bump_keeps h_s))
          · exact h_s
        clear_value x1
        exact (State.retire_keeps h2)

theorem State.setRing_keeps {s0 : State} {s : State} {t : Nat} {r : Nat} {o : OutRing} (h_s : Keeps s0 s) :
    Keeps s0 (State.setRing s t r o) := by
  unfold State.setRing
  exact (State.onTen_keeps h_s)

theorem State.unreserve_keeps {s0 : State} {s : State} {i : Nat} (h_s : Keeps s0 s) :
    Keeps s0 (State.unreserve s i) := by
  unfold State.unreserve
  extract_lets -useContext -merge -underBinder x0 x1
  exact (State.onSlot_keeps (State.setRing_keeps h_s))

theorem State.dropRodOps_keeps {s0 : State} {s : State} {ph : Nat} (h_s : Keeps s0 s) :
    Keeps s0 (State.dropRodOps s ph) := by
  unfold State.dropRodOps
  exact (State.onOps_keeps h_s)

theorem State.resetRod_keeps {s0 : State} {s : State} {ph : Nat} (h_s : Keeps s0 s) :
    Keeps s0 (State.resetRod s ph) := by
  unfold State.resetRod
  exact (State.onRod_keeps (State.dropRodOps_keeps h_s))

theorem State.loadStatus_keeps {s0 : State} {s : State} {p : Nat} {st : Nat} {cause : Nat} {shard : Nat} (h_s : Keeps s0 s) :
    Keeps s0 (State.loadStatus s p st cause shard) := by
  unfold State.loadStatus
  exact (State.setRf_keeps (State.setRf_keeps (State.setRf_keeps h_s)))

theorem State.clearPartCounters_keeps {s0 : State} {s : State} {p : Nat} (h_s : Keeps s0 s) :
    Keeps s0 (State.clearPartCounters s p) := by
  unfold State.clearPartCounters
  exact Keeps.upd h_s

theorem State.refuse_keeps {s0 : State} {s : State} {p : Nat} {why : Nat} (h_s : Keeps s0 s) :
    Keeps s0 (State.refuse s p why) := by
  unfold State.refuse
  exact (State.onPart_keeps h_s)

theorem execCreate_keeps {s0 : State} {p : Fin 16} {s : State} (h_s : Keeps s0 s) :
    KeepsR s0 (execCreate p s) := by
  unfold execCreate
  extract_lets -useContext -merge -underBinder x0 x1 x2 x3 x4 x5 x6
  have h7 : Keeps2 s0 x1 := (State.drawMany_keeps h_s)
  clear_value x1
  have h8 : Keeps s0 x2 := by
    unfold x2
    refine State.forEach_keeps (fun _ _ h9 => ?_) h7
    extract_lets -useContext -merge -underBinder x10
    exact (State.onRod_keeps (State.resetRod_keeps (State.imemZero_keeps (State.beadZero_keeps h9))))
  clear_value x2
  have h11 : Keeps s0 x4 := (State.setPart_keeps h8)
  clear_value x4
  have h12 : Keeps s0 x5 := (State.measurePart_keeps (State.journal_keeps (State.loadStatus_keeps (State.clearPartCounters_keeps h11))))
  clear_value x5
  refine KeepsR.next ?_
  refine Keeps.ite ?_ ?_
  · exact h_s
  · refine Keeps.ite ?_ ?_
    · exact (State.refuse_keeps h_s)
    · refine Keeps.ite ?_ ?_
      · exact (State.refuse_keeps h_s)
      · exact Keeps.upd h12

theorem execStart_keeps {s0 : State} {p : Fin 16} {s : State} (h_s : Keeps s0 s) :
    KeepsR s0 (execStart p s) := by
  unfold execStart
  extract_lets -useContext -merge -underBinder x0 x1
  refine KeepsR.next ?_
  refine Keeps.ite ?_ ?_
  · exact h_s
  · refine Keeps.ite ?_ ?_
    · exact (State.refuse_keeps h_s)
    · refine Keeps.ite ?_ ?_
      · exact (State.refuse_keeps h_s)
      · refine Keeps.ite ?_ ?_
        · exact (State.refuse_keeps h_s)
        · refine Keeps.ite ?_ ?_
          · exact (State.refuse_keeps h_s)
          · refine Keeps.ite ?_ ?_
            · exact (State.refuse_keeps h_s)
            · refine State.onPart_keeps ?_
              refine State.forEach_keeps (fun _ _ h2 => ?_) (State.journal_keeps h_s)
              exact (State.onRod_keeps h2)

theorem State.unreport_keeps {s0 : State} {s : State} {p : Nat} (h_s : Keeps s0 s) :
    Keeps s0 (State.unreport s p) := by
  unfold State.unreport
  refine State.forEach_keeps (fun _ _ h0 => ?_) h_s
  exact (State.onRod_keeps h0)

theorem execRelease_keeps {s0 : State} {p : Fin 16} {s : State} (h_s : Keeps s0 s) :
    KeepsR s0 (execRelease p s) := by
  unfold execRelease
  refine KeepsR.next ?_
  refine Keeps.ite ?_ ?_
  · exact h_s
  · refine Keeps.ite ?_ ?_
    · exact (State.refuse_keeps h_s)
    · exact (State.startPart_keeps (State.onPart_keeps (State.unreport_keeps (State.journal_keeps h_s))))

theorem State.refBlocks_keeps {s0 : State} {s : State} {p : Nat} {d : Desc} {up : Bool} (h_s : Keeps s0 s) :
    Keeps s0 (State.refBlocks s p d up) := by
  unfold State.refBlocks
  refine State.forEach_keeps (fun _ _ h0 => ?_) h_s
  exact (State.refRange_keeps h0)

theorem State.dropStreams_keeps {s0 : State} {s : State} {p : Nat} (h_s : Keeps s0 s) :
    Keeps s0 (State.dropStreams s p) := by
  unfold State.dropStreams
  extract_lets -useContext -merge -underBinder x0
  refine State.onPart_keeps ?_
  refine State.forEach_keeps (fun _ _ h1 => ?_) h_s
  exact (State.refRange_keeps h1)

theorem State.endAdapters_keeps {s0 : State} {s : State} {p : Nat} (h_s : Keeps s0 s) :
    Keeps s0 (State.endAdapters s p) := by
  unfold State.endAdapters
  refine State.forEach_keeps (fun _ _ h0 => ?_) h_s
  extract_lets -useContext -merge -underBinder x1 x2
  have h3 : Keeps s0 x2 := by
    unfold x2
    refine State.forEach_keeps (fun _ _ h4 => ?_) h0
    exact (State.commandDone_keeps h4)
  clear_value x2
  refine Keeps.ite ?_ ?_
  · exact h3
  · exact (State.onTen_keeps h3)

theorem State.clearPart_keeps {s0 : State} {s : State} {p : Nat} {status : Nat} {resp : Nat} (h_s : Keeps s0 s) :
    Keeps s0 (State.clearPart s p status resp) := by
  unfold State.clearPart
  extract_lets -useContext -merge -underBinder x0 x1 x2 x3 x4 x5 x6
  have h7 : Keeps s0 x1 := by
    unfold x1
    split
    · exact (State.refBlocks_keeps h_s)
    · exact h_s
  clear_value x1
  have h8 : Keeps s0 x2 := (State.dropStreams_keeps h7)
  clear_value x2
  have h9 : Keeps s0 x3 := (State.onPart_keeps h8)
  clear_value x3
  have h10 : Keeps s0 x4 := by
    unfold x4
    refine State.forEach_keeps (fun _ _ h11 => ?_) h9
    exact (State.retire_keeps (State.unreserve_keeps h11))
  clear_value x4
  have h12 : Keeps s0 x5 := (State.endAdapters_keeps (State.freeLater_keeps h10))
  clear_value x5
  have h13 : Keeps s0 x6 := by
    unfold x6
    refine State.forEach_keeps (fun _ _ h14 => ?_) h12
    exact (State.resetRod_keeps h14)
  clear_value x6
  exact (State.setReg_keeps (State.setReg_keeps h13))

theorem State.resetPart_keeps {s0 : State} {s : State} {p : Nat} {status : Nat} {resp : Nat} (h_s : Keeps s0 s) :
    Keeps s0 (State.resetPart s p status resp) := by
  unfold State.resetPart
  exact (State.onPart_keeps (State.clearPart_keeps h_s))

theorem State.loadRod_keeps {s0 : State} {s : State} {ph : Nat} {prog : List W64} (h_s : Keeps s0 s) :
    Keeps s0 (State.loadRod s ph prog) := by
  unfold State.loadRod
  extract_lets -useContext -merge -underBinder x0 x1
  have h2 : Keeps s0 x0 := (State.imemZero_keeps h_s)
  clear_value x0
  have h3 : Keeps s0 x1 := by
    unfold x1
    exact Keeps.gen h2 (Nat.le_refl _) (imemMem (Memory.writeWords_wf _ _)) id (List.prefix_refl _)
  clear_value x1
  exact (State.onRod_keeps (State.dropRodOps_keeps h3))

theorem State.reloadImages_keeps {s0 : State} {s : State} {p : Nat} (h_s : Keeps s0 s) :
    Keeps s0 (State.reloadImages s p) := by
  unfold State.reloadImages
  split
  · exact h_s
  · refine State.forEach_keeps (fun _ _ h0 => ?_) h_s
    refine Keeps.ite ?_ ?_
    · exact (State.loadRod_keeps h0)
    · exact h0

theorem State.rearm_keeps {s0 : State} {s : State} {p : Nat} (h_s : Keeps s0 s) :
    Keeps s0 (State.rearm s p) := by
  unfold State.rearm
  extract_lets -useContext -merge -underBinder x0
  have h1 : Keeps s0 x0 := by
    unfold x0
    refine State.forEach_keeps (fun _ _ h2 => ?_) (State.dropStreams_keeps (State.reloadImages_keeps h_s))
    exact (State.onRod_keeps h2)
  clear_value x0
  exact (State.onPart_keeps (State.setReg_keeps (State.setReg_keeps h1)))

theorem State.jrnlWrite_keeps {s0 : State} {s : State} {p : Nat} {r : JRecord} (h_s : Keeps s0 s) :
    Keeps s0 (State.jrnlWrite s p r) := by
  unfold State.jrnlWrite
  extract_lets -useContext -merge -underBinder x0
  exact (State.onPart_keeps (State.hbmWrite_keeps (State.hbmWrite_keeps h_s)))

theorem State.jrnlFind_keeps {s0 : State} {s : State} {p : Nat} (h_s : Keeps s0 s) :
    Keeps2 s0 (State.jrnlFind s p) := by
  unfold State.jrnlFind
  extract_lets -useContext -merge -underBinder x0
  split
  · refine Keeps2.ite ?_ ?_
    · refine Keeps2.mk ?_
      exact h_s
    · refine Keeps2.mk ?_
      exact (State.jrnlWrite_keeps h_s)
  · refine Keeps2.mk ?_
    exact (State.jrnlWrite_keeps h_s)
  · refine Keeps2.mk ?_
    exact (State.jrnlWrite_keeps h_s)
  · refine Keeps2.mk ?_
    exact h_s

theorem State.measure_keeps {s0 : State} {s : State} {p : Nat} (h_s : Keeps s0 s) :
    Keeps s0 (State.measure s p) := by
  unfold State.measure
  split
  · exact h_s
  · extract_lets -useContext -merge -underBinder x0 x1
    exact (State.onPart_keeps (State.setReg_keeps h_s))

theorem State.launch_keeps {s0 : State} {s : State} {p : Nat} {d : Desc} (h_s : Keeps s0 s) :
    Keeps s0 (State.launch s p d) := by
  unfold State.launch
  extract_lets -useContext -merge -underBinder x0 x1 x2 x3 x4 x5 x6 x7
  have h8 : Keeps s0 x6 := by
    unfold x6
    refine State.forEach_keeps (fun _ _ h9 => ?_) h_s
    extract_lets -useContext -merge -underBinder x10 x11
    have h12 : Keeps s0 x11 := (State.beadWrite_keeps (State.beadWrite_keeps (State.beadWrite_keeps h9)))
    clear_value x11
    exact (State.onRod_keeps h12)
  clear_value x6
  exact (State.onPart_keeps (State.measure_keeps (State.bump_keeps (State.bump_keeps h8))))

theorem State.replay_keeps {s0 : State} {s : State} {p : Nat} (h_s : Keeps s0 s) :
    Keeps s0 (State.replay s p) := by
  unfold State.replay
  extract_lets -useContext -merge -underBinder x0
  split
  · exact h_s
  · extract_lets -useContext -merge -underBinder x1 x2 x3
    have h4 : Keeps s0 x1 := (State.rearm_keeps (State.jrnlFind_keeps h_s))
    clear_value x1
    have h5 : Keeps s0 x2 := (State.onPart_keeps (State.refBlocks_keeps h4))
    clear_value x2
    have h6 : Keeps s0 x3 := by
      unfold x3
      refine State.forEach_keeps (fun _ _ h7 => ?_) h5
      exact (State.retire_keeps (State.unreserve_keeps h7))
    clear_value x3
    refine Keeps.ite ?_ ?_
    · exact (State.bump_keeps (State.freeLater_keeps h6))
    · exact (State.launch_keeps (State.onPart_keeps h4))

theorem State.releaseReplay_keeps {s0 : State} {s : State} {p : Nat} (h_s : Keeps s0 s) :
    Keeps s0 (State.releaseReplay s p) := by
  unfold State.releaseReplay
  extract_lets -useContext -merge -underBinder x0
  refine Keeps.ite ?_ ?_
  · exact h_s
  · refine Keeps.ite ?_ ?_
    · exact (State.refuse_keeps h_s)
    · split
      · exact (State.refuse_keeps h_s)
      · extract_lets -useContext -merge -underBinder x1 x2 x3
        refine Keeps.ite ?_ ?_
        · refine State.forEach_keeps (fun _ _ h4 => ?_) h_s
          exact (State.resetPart_keeps h4)
        · refine Keeps.ite ?_ ?_
          · exact h_s
          · refine State.forEach_keeps (fun _ _ h5 => ?_) (State.journal_keeps h_s)
            exact (State.replay_keeps h5)

theorem execReleaseWithReplay_keeps {s0 : State} {p : Fin 16} {s : State} (h_s : Keeps s0 s) :
    KeepsR s0 (execReleaseWithReplay p s) := by
  unfold execReleaseWithReplay
  exact KeepsR.next (State.releaseReplay_keeps h_s)

theorem execPartitionReset_keeps {s0 : State} {p : Fin 16} {s : State} (h_s : Keeps s0 s) :
    KeepsR s0 (execPartitionReset p s) := by
  unfold execPartitionReset
  extract_lets -useContext -merge -underBinder x0
  refine KeepsR.next ?_
  refine Keeps.ite ?_ ?_
  · exact h_s
  · refine Keeps.ite ?_ ?_
    · exact (State.refuse_keeps h_s)
    · exact (State.onPart_keeps (State.resetPart_keeps (State.journal_keeps h_s)))

theorem State.unmapPages_keeps {s0 : State} {s : State} {p : Nat} {l : List Nat} (h_s : Keeps s0 s) :
    Keeps s0 (State.unmapPages s p l) := by
  unfold State.unmapPages
  refine State.forEach_keeps (fun _ _ h0 => ?_) h_s
  split
  · extract_lets -useContext -merge -underBinder x1 x2
    refine Keeps.ite ?_ ?_
    · exact Keeps.upd h0
    · exact (State.tierUnmap_keeps h0)
  · exact h0

theorem State.loadFail_keeps {s0 : State} {s : State} {p : Nat} {status : Nat} {cause : Nat} {shard : Nat} (h_s : Keeps s0 s) :
    Keeps s0 (State.loadFail s p status cause shard) := by
  unfold State.loadFail
  extract_lets -useContext -merge -underBinder x0 x1 x2
  have h3 : Keeps s0 x1 := (State.unmapPages_keeps h_s)
  clear_value x1
  have h4 : Keeps s0 x2 := (State.onPart_keeps h3)
  clear_value x2
  exact (State.commandDone_keeps (State.loadStatus_keeps h4))

theorem State.deletePart_keeps {s0 : State} {s : State} {p : Nat} (h_s : Keeps s0 s) :
    Keeps s0 (State.deletePart s p) := by
  unfold State.deletePart
  extract_lets -useContext -merge -underBinder x0 x1 x2 x3 x4 x5 x6
  have h7 : Keeps s0 x0 := by
    unfold x0
    refine Keeps.ite ?_ ?_
    · exact (State.loadFail_keeps h_s)
    · exact h_s
  clear_value x0
  have h8 : Keeps s0 x1 := (State.clearPart_keeps h7)
  clear_value x1
  have h9 : Keeps s0 x4 := (State.unmapPages_keeps h8)
  clear_value x4
  have h10 : Keeps s0 x5 := by
    unfold x5
    refine State.forEach_keeps (fun _ _ h11 => ?_) h9
    exact (State.setReg_keeps h11)
  clear_value x5
  exact (State.measurePart_keeps (State.setPart_keeps (State.loadStatus_keeps (State.setReg_keeps h10))))

theorem execDelete_keeps {s0 : State} {p : Fin 16} {s : State} (h_s : Keeps s0 s) :
    KeepsR s0 (execDelete p s) := by
  unfold execDelete
  extract_lets -useContext -merge -underBinder x0
  refine KeepsR.next ?_
  refine Keeps.ite ?_ ?_
  · exact h_s
  · refine Keeps.ite ?_ ?_
    · exact (State.refuse_keeps h_s)
    · exact (State.deletePart_keeps (State.journal_keeps h_s))

theorem State.bindOwner_keeps {s0 : State} {s : State} {p : Nat} {digest : List Byte} (h_s : Keeps s0 s) :
    Keeps s0 (State.bindOwner s p digest) := by
  unfold State.bindOwner
  refine State.setReg_keeps ?_
  refine State.forEach_keeps (fun _ _ h0 => ?_) h_s
  exact (State.setReg_keeps h0)

theorem State.fuseRecord_keeps {s0 : State} {s : State} {r : Nat × Nat × Nat} (h_s : Keeps s0 s) :
    Keeps s0 (State.fuseRecord s r) := by
  unfold State.fuseRecord
  refine Keeps.ite ?_ ?_
  · exact Keeps.upd h_s
  · refine State.advise_keeps ?_
    refine State.bump_keeps ?_
    exact Keeps.upd h_s

theorem State.retireRod_keeps {s0 : State} {s : State} {ph : Nat} (h_s : Keeps s0 s) :
    Keeps s0 (State.retireRod s ph) := by
  unfold State.retireRod
  refine Keeps.ite ?_ ?_
  · exact h_s
  · refine State.fuseRecord_keeps ?_
    exact Keeps.upd h_s

theorem State.dressRod_keeps {s0 : State} {s : State} {p : Nat} {ph : Nat} (h_s : Keeps s0 s) :
    Keeps s0 (State.dressRod s p ph) := by
  unfold State.dressRod
  extract_lets -useContext -merge -underBinder x0
  exact (State.loadRod_keeps (State.beadZero_keeps h_s))

theorem State.mapRod_keeps {s0 : State} {s : State} {l : Nat} {n : Nat} (h_s : Keeps s0 s) :
    Keeps s0 (State.mapRod s l n) := by
  unfold State.mapRod
  exact Keeps.upd h_s

theorem State.loseFrame_keeps {s0 : State} {s : State} {l : Nat} (h_s : Keeps s0 s) :
    Keeps s0 (State.loseFrame s l) := by
  unfold State.loseFrame
  refine Keeps.ite ?_ ?_
  · exact h_s
  · exact Keeps.upd h_s

theorem State.substitute_keeps {s0 : State} {s : State} {l : Nat} (h_s : Keeps s0 s) :
    Keeps s0 (State.substitute s l) := by
  unfold State.substitute
  split
  · exact (State.adviseRods_keeps (State.dressRod_keeps (State.mapRod_keeps h_s)))
  · exact (State.adviseRods_keeps (State.mapRod_keeps h_s))
  · exact (State.adviseRods_keeps (State.resetPart_keeps (State.loseFrame_keeps h_s)))
  · exact (State.adviseRods_keeps (State.loseFrame_keeps h_s))

theorem State.withdraw_keeps {s0 : State} {s : State} {ph : Nat} (h_s : Keeps s0 s) :
    Keeps s0 (State.withdraw s ph) := by
  unfold State.withdraw
  extract_lets -useContext -merge -underBinder x0
  have h1 : Keeps s0 x0 := (State.retireRod_keeps h_s)
  clear_value x0
  split
  · exact (State.substitute_keeps h1)
  · exact (State.adviseRods_keeps h1)

theorem State.boundaryRods_keeps {s0 : State} {s : State} {p : Nat} (h_s : Keeps s0 s) :
    Keeps s0 (State.boundaryRods s p) := by
  unfold State.boundaryRods
  extract_lets -useContext -merge -underBinder x0 x1
  refine Keeps.ite ?_ ?_
  · exact h_s
  · refine State.forEach_keeps (fun _ _ h2 => ?_) ?_
    · exact (State.withdraw_keeps h2)
    · exact Keeps.upd h_s

theorem State.pick_keeps {s0 : State} {s : State} {p : Nat} {i : Nat} {slots : List SlotEnt} (h_s : Keeps s0 s) :
    Keeps1 s0 (State.pick s p i slots) := by
  unfold State.pick
  extract_lets -useContext -merge -underBinder x0
  split
  · refine Keeps1.mk ?_
    exact h_s
  · split
    · refine Keeps1.mk ?_
      exact (State.bump_keeps h_s)
    · refine Keeps1.mk ?_
      exact h_s
  · refine Keeps1.mk ?_
    exact (State.bump_keeps h_s)
  · refine Keeps1.mk ?_
    exact (State.endLater_keeps h_s)
  · refine Keeps1.ite ?_ ?_
    · refine Keeps1.mk ?_
      exact (State.endLater_keeps (State.bump_keeps h_s))
    · refine Keeps1.mk ?_
      exact h_s

theorem State.refill_keeps {s0 : State} {s : State} {p : Nat} {g : Nat} (h_s : Keeps s0 s) :
    Keeps s0 (State.refill s p g) := by
  unfold State.refill
  split
  · extract_lets -useContext -merge -underBinder x0 x1 x2
    exact (State.rangeWrite64_keeps (State.rangeWrite64_keeps h_s))
  · exact h_s

theorem State.meet_keeps {s0 : State} {s : State} {p : Nat} {b : Bld} {g : Nat} (h_s : Keeps s0 s) :
    Keeps1 s0 (State.meet s p b g) := by
  unfold State.meet
  refine Keeps1.ite ?_ ?_
  · refine Keeps1.mk ?_
    exact h_s
  · refine Keeps1.mk ?_
    exact (State.refill_keeps h_s)

theorem State.supply_keeps {s0 : State} {s : State} {i : Nat} {upto : Nat} {u3 : Nat} (h_s : Keeps s0 s) :
    Keeps s0 (State.supply s i upto u3) := by
  induction u3 generalizing s i upto with
  | zero =>
    rw [State.supply.eq_1]
    exact h_s
  | succ n ih =>
    rw [State.supply.eq_2]
    refine Keeps.ite ?_ ?_
    · exact h_s
    · split
      · exact h_s
      · rename_i v0 v1 e2
        have h3 := KeepsO.elim e2 (State.kvTake_keeps h_s)
        exact (by apply ih; exact (State.onSlot_keeps (State.setBlockEntry_keeps h3)))

theorem State.reserve_keeps {s0 : State} {s : State} {i : Nat} {n : Nat} (h_s : Keeps s0 s) :
    Keeps s0 (State.reserve s i n) := by
  unfold State.reserve
  extract_lets -useContext -merge -underBinder x0 x1
  exact (State.onSlot_keeps (State.setRing_keeps h_s))

theorem State.charge_keeps {s0 : State} {s : State} {p : Nat} {g : Nat} {cost : Nat → Nat → Nat} (h_s : Keeps s0 s) :
    Keeps s0 (State.charge s p g cost) := by
  unfold State.charge
  split
  · exact (State.rangeWrite64_keeps h_s)
  · exact h_s

theorem State.chainStep_keeps {s0 : State} {s : State} {i : Nat} {k : Pick} (h_s : Keeps s0 s) :
    Keeps s0 (State.chainStep s i k) := by
  unfold State.chainStep
  exact (State.bump_keeps (State.onSlot_keeps h_s))

theorem State.setFills_keeps {s0 : State} {s : State} {i : Nat} {lo : Nat} {hi : Nat} (h_s : Keeps s0 s) :
    Keeps s0 (State.setFills s i lo hi) := by
  unfold State.setFills
  refine State.forEach_keeps (fun _ _ h0 => ?_) h_s
  extract_lets -useContext -merge -underBinder x1
  refine Keeps.ite ?_ ?_
  · exact h0
  · exact (State.setBlockEntry_keeps h0)

theorem State.defer_keeps {s0 : State} {s : State} {p : Nat} {i : Nat} {was : List Nat} (h_s : Keeps s0 s) :
    Keeps s0 (State.defer s p i was) := by
  unfold State.defer
  extract_lets -useContext -merge -underBinder x0
  have h1 : Keeps s0 x0 := (State.onSlot_keeps (State.bump_keeps h_s))
  clear_value x0
  refine Keeps.ite ?_ ?_
  · exact h1
  · exact (State.inform_keeps h1)

theorem State.buildDec_keeps {s0 : State} {s : State} {p : Nat} {b : Bld} {u3 : List Nat} (h_s : Keeps s0 s) :
    Keeps1 s0 (State.buildDec s p b u3) := by
  induction u3 generalizing s p b with
  | nil =>
    rw [State.buildDec.eq_1]
    refine Keeps1.mk ?_
    exact h_s
  | cons a r ih =>
    rw [State.buildDec.eq_2]
    refine Keeps1.ite ?_ ?_
    · refine Keeps1.mk ?_
      exact (State.bump_keeps h_s)
    · extract_lets -useContext -merge -underBinder x0 x1 x2
      have h3 : ∀ (a0 : State) (a1 : Bld), Keeps s0 a0 → Keeps1 s0 (x2 a0 a1) := by
        unfold x2
        refine fun _ _ h4 => ?_
        exact (by apply ih; exact h4)
      clear_value x2
      split
      · rename_i v5 e6
        have h7 := Keeps1.elim e6 (State.pick_keeps h_s)
        exact (h3 _ _ h7)
      · rename_i v8 v9 e10
        have h11 := Keeps1.elim e10 (State.pick_keeps h_s)
        extract_lets -useContext -merge -underBinder x12 x13 x14 x15 x16 x17 x18 x19 x20 x21 x22 x23
        have h24 : Keeps1 s0 x12 := (State.meet_keeps h11)
        clear_value x12
        have h25 : Keeps s0 x13 := h24
        clear_value x13
        have h26 : Keeps s0 x19 := (State.supply_keeps h25)
        clear_value x19
        have h27 : Keeps s0 x20 := (State.reserve_keeps (State.charge_keeps (State.chainStep_keeps (State.setFills_keeps h26))))
        clear_value x20
        refine Keeps1.ite ?_ ?_
        · exact (h3 _ _ (State.bump_keeps h25))
        · refine Keeps1.ite ?_ ?_
          · exact (h3 _ _ (State.defer_keeps h25))
          · refine Keeps1.ite ?_ ?_
            · refine Keeps1.mk ?_
              exact (State.bump_keeps h25)
            · refine Keeps1.ite ?_ ?_
              · exact (h3 _ _ (State.bump_keeps h25))
              · exact (by apply ih; exact h27)

theorem State.buildMap_keeps {s0 : State} {s : State} (h_s : Keeps s0 s) :
    Keeps s0 (State.buildMap s) := by
  unfold State.buildMap
  extract_lets -useContext -merge -underBinder x0 x1 x2 x3 x4
  have h5 : Keeps s0 x4 := by
    unfold x4
    exact Keeps.upd h_s
  clear_value x4
  refine State.forEach_keeps (fun _ _ h6 => ?_) h5
  split
  · refine Keeps.ite ?_ ?_
    · exact h6
    · exact (State.mapRod_keeps h6)
  · exact (State.loseFrame_keeps (State.mapRod_keeps h6))

theorem State.takeHits_keeps {s0 : State} {s : State} {i : Nat} {l : List (W64 × Nat)} (h_s : Keeps s0 s) :
    Keeps s0 (State.takeHits s i l) := by
  unfold State.takeHits
  extract_lets -useContext -merge -underBinder x0 x1
  have h2 : Keeps s0 x1 := by
    unfold x1
    refine State.forEach_keeps (fun _ _ h3 => ?_) h_s
    extract_lets -useContext -merge -underBinder x4 x5
    have h6 : Keeps s0 x5 := (State.setBlockEntry_keeps h3)
    clear_value x5
    exact (State.rangeWrite64_keeps (State.pfxSetCount_keeps h6))
  clear_value x1
  exact (State.bump_keeps (State.onSlot_keeps h2))

theorem State.promptOne_keeps {s0 : State} {s : State} {p : Nat} {i : Nat} {target : Nat} {first : Nat} {b : Bld} (h_s : Keeps s0 s) :
    Keeps21 s0 (State.promptOne s p i target first b) := by
  unfold State.promptOne
  extract_lets -useContext -merge -underBinder x0 x1
  split
  · rename_i v2 e3
    have h4 := Keeps1.elim e3 (State.pick_keeps h_s)
    refine Keeps21.mk ?_
    refine Keeps1.mk ?_
    exact h4
  · rename_i v5 v6 e7
    have h8 := Keeps1.elim e7 (State.pick_keeps h_s)
    extract_lets -useContext -merge -underBinder x9 x10 x11 x12 x13 x14 x15 x16 x17 x18 x19
    split
    · refine Keeps21.mk ?_
      refine Keeps1.mk ?_
      exact h8
    · extract_lets -useContext -merge -underBinder x20 x21
      have h22 : Keeps s0 x21 := by
        unfold x21
        refine Keeps.ite ?_ ?_
        · exact (State.bump_keeps h8)
        · exact h8
      clear_value x21
      split
      · refine Keeps21.mk ?_
        refine Keeps1.mk ?_
        exact h22
      · extract_lets -useContext -merge -underBinder x23 x24 x25
        have h26 : Keeps1 s0 x23 := (State.meet_keeps h22)
        clear_value x23
        have h27 : Keeps s0 x24 := h26
        clear_value x24
        split
        · refine Keeps21.mk ?_
          refine Keeps1.mk ?_
          exact (State.defer_keeps h27)
        · extract_lets -useContext -merge -underBinder x28 x29
          have h30 : Keeps s0 x28 := by
            unfold x28
            refine Keeps.ite ?_ ?_
            · exact (State.onSlot_keeps (State.takeHits_keeps h27))
            · exact h27
          clear_value x28
          have h31 : Keeps s0 x29 := by
            unfold x29
            refine Keeps.ite ?_ ?_
            · exact h30
            · exact (State.supply_keeps h30)
          clear_value x29
          split
          · refine Keeps21.mk ?_
            refine Keeps1.mk ?_
            exact (State.bump_keeps h27)
          · extract_lets -useContext -merge -underBinder x32 x33 x34 x35 x36 x37
            have h38 : Keeps s0 x32 := by
              unfold x32
              refine Keeps.ite ?_ ?_
              · exact h31
              · exact (State.setFills_keeps h31)
            clear_value x32
            have h39 : Keeps s0 x33 := (State.charge_keeps (State.chainStep_keeps h38))
            clear_value x33
            have h40 : Keeps s0 x35 := by
              unfold x35
              refine State.onSlot_keeps ?_
              refine Keeps.ite ?_ ?_
              · exact (State.reserve_keeps h39)
              · exact h39
            clear_value x35
            refine Keeps21.mk ?_
            refine Keeps1.mk ?_
            exact h40

theorem State.buildPrompt_keeps {s0 : State} {s : State} {p : Nat} {target : Nat} {first : Nat} {b : Bld} {u5 : List Nat} (h_s : Keeps s0 s) :
    Keeps1 s0 (State.buildPrompt s p target first b u5) := by
  induction u5 generalizing s p target first b with
  | nil =>
    rw [State.buildPrompt.eq_1]
    refine Keeps1.mk ?_
    exact h_s
  | cons a r ih =>
    rw [State.buildPrompt.eq_2]
    split
    · rename_i v0 v1 e2
      have h3 := Keeps21.elim e2 (State.promptOne_keeps h_s)
      exact (by apply ih; exact h3)
    · rename_i v4 v5 e6
      have h7 := Keeps21.elim e6 (State.promptOne_keeps h_s)
      refine Keeps1.mk ?_
      exact h7

theorem State.candSet_keeps {s0 : State} {s : State} {p : Nat} {mask : Nat} {allow : Nat → Bool} {acc : List Tok} {u5 : List W64} (h_s : Keeps s0 s) :
    Keeps2 s0 (State.candSet s p mask allow acc u5) := by
  induction u5 generalizing s p mask allow acc with
  | nil =>
    rw [State.candSet.eq_1]
    refine Keeps2.mk ?_
    exact h_s
  | cons a r ih =>
    rw [State.candSet.eq_2]
    refine Keeps2.ite ?_ ?_
    · exact (by apply ih; exact (State.bump_keeps h_s))
    · refine Keeps2.ite ?_ ?_
      · exact (by apply ih; exact h_s)
      · split
        · refine Keeps2.mk ?_
          exact h_s
        · exact (by apply ih; exact h_s)
        · refine Keeps2.ite ?_ ?_
          · exact (by apply ih; exact (State.bump_keeps h_s))
          · extract_lets -useContext -merge -underBinder x0
            exact (by apply ih; exact h_s)

theorem State.chooseRows_keeps {s0 : State} {s : State} {p : Nat} (h_s : Keeps s0 s) :
    Keeps1 s0 (State.chooseRows s p) := by
  unfold State.chooseRows
  extract_lets -useContext -merge -underBinder x0 x1 x2 x3 x4 x5 x6 x7 x8 x9 x10 x11
  have h12 : Keeps s0 x3 := by
    unfold x3
    refine State.forEach_keeps (fun _ _ h13 => ?_) h_s
    exact (State.onSlot_keeps h13)
  clear_value x3
  have h14 : Keeps1 s0 x4 := (State.buildDec_keeps h12)
  clear_value x4
  have h15 : Keeps1 s0 x8 := (State.buildPrompt_keeps h14)
  clear_value x8
  refine Keeps1.mk ?_
  exact h15

theorem State.firstMisses_keeps {s0 : State} {s : State} {p : Nat} (h_s : Keeps s0 s) :
    Keeps s0 (State.firstMisses s p) := by
  unfold State.firstMisses
  refine State.forEach_keeps (fun _ _ h0 => ?_) h_s
  refine Keeps.ite ?_ ?_
  · exact (State.onSlot_keeps (State.miss_keeps h0))
  · exact h0

theorem State.giveBack_keeps {s0 : State} {s : State} {l : List JEntry} (h_s : Keeps s0 s) :
    Keeps s0 (State.giveBack s l) := by
  unfold State.giveBack
  refine State.forEach_keeps (fun _ _ h0 => ?_) h_s
  extract_lets -useContext -merge -underBinder x1 x2 x3 x4
  have h5 : Keeps s0 x4 := by
    unfold x4
    refine Keeps.ite ?_ ?_
    · exact h0
    · exact (State.setRing_keeps h0)
  clear_value x4
  exact (State.onSlot_keeps h5)

theorem State.ringPut_keeps {s0 : State} {s : State} {t : Nat} {r : Nat} {ws : List W64} (h_s : Keeps s0 s) :
    Keeps s0 (State.ringPut s t r ws) := by
  unfold State.ringPut
  extract_lets -useContext -merge -underBinder x0 x1 x2 x3 x4 x5 x6 x7
  have h8 : Keeps s0 x6 := (State.hostWrite_keeps h_s)
  clear_value x6
  have h9 : Keeps s0 x7 := by
    unfold x7
    refine Keeps.ite ?_ ?_
    · exact (State.hostWrite_keeps h8)
    · exact h8
  clear_value x7
  exact (State.setRing_keeps h9)

theorem State.ringTail_keeps {s0 : State} {s : State} {t : Nat} {r : Nat} (h_s : Keeps s0 s) :
    Keeps s0 (State.ringTail s t r) := by
  unfold State.ringTail
  extract_lets -useContext -merge -underBinder x0 x1
  have h2 : Keeps s0 x1 := (State.hostWrite_keeps h_s)
  clear_value x1
  refine Keeps.ite ?_ ?_
  · exact (State.vecEvent_keeps h2)
  · exact h2

theorem State.insertBlocks_keeps {s0 : State} {s : State} {i : Nat} {upto : Nat} {u3 : Nat} (h_s : Keeps s0 s) :
    Keeps s0 (State.insertBlocks s i upto u3) := by
  induction u3 generalizing s i upto with
  | zero =>
    rw [State.insertBlocks.eq_1]
    exact h_s
  | succ n ih =>
    rw [State.insertBlocks.eq_2]
    refine Keeps.ite ?_ ?_
    · exact h_s
    · extract_lets -useContext -merge -underBinder x0 x1 x2 x3
      have h4 : Keeps2 s0 x2 := (State.pfxInsert_keeps h_s)
      clear_value x2
      have h5 : Keeps s0 x3 := by
        unfold x3
        refine Keeps.ite ?_ ?_
        · exact (State.setBlockEntry_keeps h4)
        · exact h4
      clear_value x3
      exact (by apply ih; exact (State.onSlot_keeps h5))

theorem State.endCancelled_keeps {s0 : State} {s : State} {d : Desc} (h_s : Keeps s0 s) :
    Keeps s0 (State.endCancelled s d) := by
  unfold State.endCancelled
  refine State.forEach_keeps (fun _ _ h0 => ?_) h_s
  extract_lets -useContext -merge -underBinder x1
  refine Keeps.ite ?_ ?_
  · exact (State.retire_keeps h0)
  · exact h0

theorem State.voidRequest_keeps {s0 : State} {s : State} {d : Desc} {i : Nat} (h_s : Keeps s0 s) :
    Keeps1 s0 (State.voidRequest s d i) := by
  unfold State.voidRequest
  extract_lets -useContext -merge -underBinder x0 x1 x2 x3 x4 x5 x6
  have h7 : Keeps s0 x6 := (State.onSlot_keeps (State.setRing_keeps h_s))
  clear_value x6
  refine Keeps1.mk ?_
  exact h7

theorem State.voidLeft_keeps {s0 : State} {s : State} {d : Desc} (h_s : Keeps s0 s) :
    Keeps1 s0 (State.voidLeft s d) := by
  unfold State.voidLeft
  refine Keeps1.foldl (fun _ _ h0 => ?_) _ ?_
  · extract_lets -useContext -merge -underBinder x1
    refine Keeps1.ite ?_ ?_
    · exact h0
    · exact (State.voidRequest_keeps h0)
  · refine Keeps1.mk ?_
    exact h_s

theorem State.commit_keeps {s0 : State} {s : State} {p : Nat} {d : Desc} {r : JRecord} (h_s : Keeps s0 s) :
    Keeps s0 (State.commit s p d r) := by
  unfold State.commit
  extract_lets -useContext -merge -underBinder x0 x1 x2 x3 x4 x5 x6 x7 x8 x9 x10
  have h11 : Keeps s0 x0 := (State.firstMisses_keeps h_s)
  clear_value x0
  have h12 : Keeps s0 x2 := (State.giveBack_keeps h11)
  clear_value x2
  have h13 : Keeps s0 x3 := by
    unfold x3
    refine State.forEach_keeps (fun _ _ h14 => ?_) h12
    extract_lets -useContext -merge -underBinder x15
    exact (State.ringPut_keeps h14)
  clear_value x3
  have h16 : Keeps s0 x5 := by
    unfold x5
    refine State.forEach_keeps (fun _ _ h17 => ?_) h13
    exact (State.ringTail_keeps h17)
  clear_value x5
  have h18 : Keeps s0 x6 := by
    unfold x6
    refine State.forEach_keeps (fun _ _ h19 => ?_) h16
    extract_lets -useContext -merge -underBinder x20
    refine Keeps.ite ?_ ?_
    · exact (State.insertBlocks_keeps h19)
    · exact h19
  clear_value x6
  have h21 : Keeps s0 x7 := by
    unfold x7
    refine State.forEach_keeps (fun _ _ h22 => ?_) h18
    exact (State.applyEntry_keeps h22)
  clear_value x7
  have h23 : Keeps s0 x8 := by
    unfold x8
    exact State.onBuilt_keeps (State.endCancelled_keeps h21) (fun _ _ h24 => (State.voidLeft_keeps h24))
  clear_value x8
  have h25 : Keeps s0 x10 := (State.onPart_keeps (State.refBlocks_keeps (State.bump_keeps h23)))
  clear_value x10
  exact (State.histEvent_keeps (State.freeLater_keeps h25))

theorem State.withEntry_keeps {s0 : State} {s : State} {t : Nat} {q : Nat} {i : Nat} {op : Nat} {f : SubEntry → State → State} (h_s : Keeps s0 s) (h_f : ∀ (a0 : SubEntry) (a1 : State), Keeps s0 a1 → Keeps s0 (f a0 a1)) :
    Keeps s0 (State.withEntry s t q i op f) := by
  unfold State.withEntry
  split
  · exact h_s
  · exact (h_f _ _ h_s)

theorem State.entryEnds_keeps {s0 : State} {s : State} {t : Nat} {q : Nat} {e : SubEntry} {status : Nat} (h_s : Keeps s0 s) :
    Keeps s0 (State.entryEnds s t q e status) := by
  unfold State.entryEnds
  exact (State.entryDone_keeps (State.commandDone_keeps h_s))

theorem State.penubTier_keeps {s0 : State} {s : State} {op : Nat} {p : Nat} {page : Nat} {pool : Nat} {large : Bool} {pin : Bool} {unpin : Bool} (h_s : Keeps s0 s) :
    Keeps s0 (State.penubTier s op p page pool large pin unpin) := by
  unfold State.penubTier
  extract_lets -useContext -merge -underBinder x0 x1
  exact Keeps.upd h_s

theorem State.demoteShard_keeps {s0 : State} {s : State} {p : Nat} {e : List W64} (h_s : Keeps s0 s) :
    KeepsOS s0 (State.demoteShard s p e) := by
  unfold State.demoteShard
  refine KeepsOS.ite (KeepsOS.some h_s) fun x hx => ?_
  obtain ⟨r, _, rfl⟩ := Option.map_eq_some_iff.mp hx
  exact State.forEach_keeps (fun _ _ h => State.penubTier_keeps h) h_s

theorem State.endAdapter_keeps {s0 : State} {s : State} {t : Nat} {k : Nat} {a : AdapterCmd} {status : Nat} (h_s : Keeps s0 s) :
    Keeps s0 (State.endAdapter s t k a status) := by
  unfold State.endAdapter
  extract_lets -useContext -merge -underBinder x0
  have h1 : Keeps s0 x0 := (State.onTen_keeps h_s)
  clear_value x0
  refine Keeps.ite ?_ ?_
  · exact h1
  · exact (State.commandDone_keeps h1)

theorem State.failAdapter_keeps {s0 : State} {s : State} {t : Nat} {k : Nat} {a : AdapterCmd} {status : Nat} (h_s : Keeps s0 s) :
    Keeps s0 (State.failAdapter s t k a status) := by
  unfold State.failAdapter
  refine State.endAdapter_keeps ?_
  refine Keeps.ite ?_ ?_
  · exact (State.stageDir_keeps h_s)
  · exact h_s

theorem State.promoteShard_keeps {s0 : State} {s : State} {p : Nat} (h_s : Keeps s0 s) :
    Keeps s0 (State.promoteShard s p) := by
  unfold State.promoteShard
  split
  · exact h_s
  · split
    · exact h_s
    · refine State.forEach_keeps (fun _ _ h0 => ?_) h_s
      refine Keeps.ite ?_ ?_
      · exact h0
      · exact (State.penubTier_keeps h0)

theorem State.holdRefetch_keeps {s0 : State} {s : State} {p : Nat} (h_s : Keeps s0 s) :
    Keeps s0 (State.holdRefetch s p) := by
  unfold State.holdRefetch
  refine State.promoteShard_keeps ?_
  refine Keeps.ite ?_ ?_
  · exact (State.onPart_keeps h_s)
  · exact h_s

theorem State.imageWrite_keeps {s0 : State} {s : State} {p : Nat} {addr : Nat} {bs : List Byte} (h_s : Keeps s0 s) :
    KeepsOS s0 (State.imageWrite s p addr bs) := by
  unfold State.imageWrite
  extract_lets -useContext -merge -underBinder x0 x1
  refine KeepsOS.ite ?_ ?_
  · exact KeepsOS.none
  · refine KeepsOS.some ?_
    refine State.markDemotes_keeps ?_
    refine State.settleNotes_keeps ?_
    refine State.forEach_keeps (fun _ _ h2 => ?_) h_s
    extract_lets -useContext -merge -underBinder x3
    split
    · extract_lets -useContext -merge -underBinder x4
      refine Keeps.ite ?_ ?_
      · exact (State.hbmWrite_keeps h2)
      · refine State.unitOp_keeps ?_
        exact Keeps.gen h2 (Nat.le_refl _) (extMem (Memory.writeN_wf _ _)) id (List.prefix_refl _)
    · exact h2

theorem State.ingress_keeps {s0 : State} {s : State} {p : Nat} {e : List W64} {pt : List Byte} (h_s : Keeps s0 s) :
    Keeps s0 (State.ingress s p e pt) := by
  unfold State.ingress
  extract_lets -useContext -merge -underBinder x0
  refine State.forEach_keeps (fun _ _ h1 => ?_) h_s
  split
  · exact (State.hbmWrite_keeps h1)
  · exact h1

theorem State.jrnlOf_keeps {s0 : State} {s : State} {p : Nat} {step : Nat} (h_s : Keeps s0 s) :
    Keeps2 s0 (State.jrnlOf s p step) := by
  unfold State.jrnlOf
  extract_lets -useContext -merge -underBinder x0
  have h1 : Keeps2 s0 x0 := (State.jrnlFind_keeps h_s)
  clear_value x0
  refine Keeps2.mk ?_
  exact h1

theorem State.loadRefuse_keeps {s0 : State} {s : State} {p : Nat} {t : Nat} {q : Nat} {e : SubEntry} {status : Nat} {cause : Nat} (h_s : Keeps s0 s) :
    Keeps s0 (State.loadRefuse s p t q e status cause) := by
  unfold State.loadRefuse
  exact (State.entryEnds_keeps (State.loadStatus_keeps (State.onPart_keeps h_s)))

theorem State.mapShard_keeps {s0 : State} {s : State} {p : Nat} {e : List W64} {u3 : List Nat} (h_s : Keeps s0 s) :
    Keeps2 s0 (State.mapShard s p e u3) := by
  induction u3 generalizing s p e with
  | nil =>
    rw [State.mapShard.eq_1]
    refine Keeps2.mk ?_
    exact h_s
  | cons a r ih =>
    rw [State.mapShard.eq_2]
    refine Keeps2.ite ?_ ?_
    · exact (by apply ih; exact h_s)
    · split
      · rename_i v0 e1
        have h2 := Keeps2.elim e1 (State.tierMap_keeps h_s)
        exact (by apply ih; exact (State.onPart_keeps h2))
      · rename_i v3 v4 e5
        have h6 := Keeps2.elim e5 (State.tierMap_keeps h_s)
        refine Keeps2.mk ?_
        exact h6

theorem State.startShards_keeps {s0 : State} {s : State} {p : Nat} {u2 : Nat} (h_s : Keeps s0 s) :
    Keeps s0 (State.startShards s p u2) := by
  induction u2 generalizing s p with
  | zero =>
    rw [State.startShards.eq_1]
    exact h_s
  | succ n ih =>
    rw [State.startShards.eq_2]
    split
    · exact h_s
    · refine Keeps.ite ?_ ?_
      · exact h_s
      · split
        · rename_i v0 e1
          have h2 := Keeps2.elim e1 (State.mapShard_keeps h_s)
          exact (by apply ih; exact (State.onPart_keeps h2))
        · rename_i v3 v4 e5
          have h6 := Keeps2.elim e5 (State.mapShard_keeps h_s)
          exact (State.loadFail_keeps h6)

theorem State.loadStep_keeps {s0 : State} {s : State} {p : Nat} (h_s : Keeps s0 s) :
    Keeps s0 (State.loadStep s p) := by
  unfold State.loadStep
  refine Keeps.ite ?_ ?_
  · exact h_s
  · split
    · exact (State.loadFail_keeps h_s)
    · exact (State.startShards_keeps h_s)

theorem State.startRefetch_keeps {s0 : State} {s : State} {p : Nat} {k : Nat} (h_s : Keeps s0 s) :
    Keeps s0 (State.startRefetch s p k) := by
  unfold State.startRefetch
  split
  · refine Keeps.ite ?_ ?_
    · exact h_s
    · exact (State.onPart_keeps h_s)
  · extract_lets -useContext -merge -underBinder x0
    have h1 : Keeps s0 x0 := (State.onPart_keeps h_s)
    clear_value x0
    refine Keeps.ite ?_ ?_
    · exact (State.holdRefetch_keeps h1)
    · exact h1

theorem State.placeShard_keeps {s0 : State} {s : State} {p : Nat} {k : Nat} {x : Shard} {pt : List Byte} (h_s : Keeps s0 s) :
    Keeps s0 (State.placeShard s p k x pt) := by
  unfold State.placeShard
  extract_lets -useContext -merge -underBinder x0 x1 x2
  have h3 : Keeps s0 x1 := (State.onPart_keeps (State.ingress_keeps h_s))
  clear_value x1
  have h4 : Keeps s0 x2 := (State.setRf_keeps h3)
  clear_value x2
  split
  · exact (State.loadFail_keeps h4)
  · rename_i v5 e6
    have h7 := KeepsOS.elim e6 (State.demoteShard_keeps h4)
    exact (State.startShards_keeps h7)

theorem State.takeTokens_keeps {s0 : State} {s : State} {i : Nat} {gs : List Seg} (h_s : Keeps s0 s) :
    Keeps s0 (State.takeTokens s i gs) := by
  unfold State.takeTokens
  extract_lets -useContext -merge -underBinder x0 x1 x2
  split
  · exact (State.endLater_keeps h_s)
  · refine Keeps.ite ?_ ?_
    · exact (State.endLater_keeps h_s)
    · extract_lets -useContext -merge -underBinder x3 x4 x5 x6
      have h7 : Keeps s0 x5 := (State.bump_keeps (State.bump_keeps h_s))
      clear_value x5
      refine Keeps.ite ?_ ?_
      · exact (State.endLater_keeps h7)
      · refine Keeps.ite ?_ ?_
        · exact (State.endLater_keeps h7)
        · refine State.onSlot_keeps ?_
          refine State.forEach_keeps (fun _ _ h8 => ?_) h7
          exact (State.histPut_keeps h8)

theorem State.readIn_keeps {s0 : State} {s : State} {i : Nat} (h_s : Keeps s0 s) :
    Keeps s0 (State.readIn s i) := by
  unfold State.readIn
  extract_lets -useContext -merge -underBinder x0
  split
  · exact (State.endLater_keeps h_s)
  · extract_lets -useContext -merge -underBinder x1 x2
    clear_value x1
    split
    · refine Keeps.ite ?_ ?_
      · exact (State.endLater_keeps h_s)
      · exact (State.takeTokens_keeps h_s)
    · refine Keeps.ite ?_ ?_
      · exact (State.endLater_keeps h_s)
      · refine Keeps.ite ?_ ?_
        · exact (State.packStart_keeps h_s)
        · exact (State.takeTokens_keeps h_s)
    · exact (State.endLater_keeps h_s)

theorem State.refetchFail_keeps {s0 : State} {s : State} {p : Nat} {k : Nat} (h_s : Keeps s0 s) :
    Keeps s0 (State.refetchFail s p k) := by
  unfold State.refetchFail
  refine Keeps.ite ?_ ?_
  · exact (State.loadFail_keeps h_s)
  · extract_lets -useContext -merge -underBinder x0 x1
    have h2 : Keeps s0 x0 := (State.clearPart_keeps h_s)
    clear_value x0
    have h3 : Keeps s0 x1 := (State.unmapPages_keeps h2)
    clear_value x1
    exact (State.measurePart_keeps (State.loadStatus_keeps (State.onPart_keeps h3)))

theorem State.refetchNextShard_keeps {s0 : State} {s : State} {p : Nat} (h_s : Keeps s0 s) :
    Keeps s0 (State.refetchNextShard s p) := by
  unfold State.refetchNextShard
  split
  · exact (State.promoteShard_keeps (State.onPart_keeps h_s))
  · exact (State.onPart_keeps h_s)

theorem State.retireLater_keeps {s0 : State} {s : State} {ph : Nat} (h_s : Keeps s0 s) :
    Keeps s0 (State.retireLater s ph) := by
  unfold State.retireLater
  extract_lets -useContext -merge -underBinder x0 x1
  refine Keeps.ite ?_ ?_
  · exact h_s
  · refine Keeps.ite ?_ ?_
    · exact Keeps.upd h_s
    · exact (State.withdraw_keeps h_s)

theorem State.sampleRow_keeps {s0 : State} {s : State} {p : Nat} {i : Nat} {es : List W64} (h_s : Keeps s0 s) :
    Keeps2 s0 (State.sampleRow s p i es) := by
  unfold State.sampleRow
  extract_lets -useContext -merge -underBinder x0 x1 x2
  split
  · refine Keeps2.mk ?_
    exact h_s
  · extract_lets -useContext -merge -underBinder x3
    clear_value x3
    split
    · refine Keeps2.mk ?_
      exact h_s
    · split
      · rename_i v4 e5
        have h6 := Keeps2.elim e5 (State.candSet_keeps h_s)
        refine Keeps2.mk ?_
        exact h6
      · rename_i v7 v8 e9
        have h10 := Keeps2.elim e9 (State.candSet_keeps h_s)
        extract_lets -useContext -merge -underBinder x11 x12 x13 x14
        have h15 : Keeps s0 x12 := (State.bump_keeps h10)
        clear_value x12
        refine Keeps2.ite ?_ ?_
        · refine Keeps2.mk ?_
          exact h15
        · refine Keeps2.ite ?_ ?_
          · refine Keeps2.mk ?_
            exact h15
          · refine Keeps2.ite ?_ ?_
            · refine Keeps2.mk ?_
              exact h15
            · refine Keeps2.ite ?_ ?_
              · refine Keeps2.mk ?_
                exact h15
              · refine Keeps2.mk ?_
                exact h15

theorem State.sampleRows_keeps {s0 : State} {s : State} {p : Nat} {rs : List CandRec} {u3 : List Row} {u4 : Nat} (h_s : Keeps s0 s) :
    Keeps2 s0 (State.sampleRows s p rs u3 u4) := by
  induction u3 generalizing s p rs u4 with
  | nil =>
    rw [State.sampleRows.eq_1]
    refine Keeps2.mk ?_
    exact h_s
  | cons a r ih =>
    rw [State.sampleRows.eq_2]
    refine Keeps2.ite ?_ ?_
    · exact (by apply ih; exact h_s)
    · extract_lets -useContext -merge -underBinder x0 x1 x2 x3
      have h4 : Keeps2 s0 x2 := by
        unfold x2
        refine Keeps2.ite ?_ ?_
        · refine Keeps2.mk ?_
          exact h_s
        · refine Keeps2.ite ?_ ?_
          · refine Keeps2.mk ?_
            exact h_s
          · refine Keeps2.ite ?_ ?_
            · exact (State.sampleRow_keeps h_s)
            · refine Keeps2.mk ?_
              exact h_s
      clear_value x2
      have h5 : Keeps2 s0 x3 := (by apply ih; exact h4)
      clear_value x3
      refine Keeps2.mk ?_
      exact h5

theorem State.scrubCount_keeps {s0 : State} {s : State} {p : Nat} {k : Nat} {x : Shard} (h_s : Keeps s0 s) :
    Keeps s0 (State.scrubCount s p k x) := by
  unfold State.scrubCount
  extract_lets -useContext -merge -underBinder x0
  exact (State.onPart_keeps (State.bump_keeps (State.bump_keeps (State.bump_keeps h_s))))

theorem State.startLoad_keeps {s0 : State} {s : State} {p : Nat} {t : Nat} {q : Nat} {e : SubEntry} {m : ModelManifest} {l : List W64} (h_s : Keeps s0 s) :
    Keeps s0 (State.startLoad s p t q e m l) := by
  unfold State.startLoad
  refine Keeps.ite ?_ ?_
  · exact (State.loadRefuse_keeps h_s)
  · split
    · exact (State.loadRefuse_keeps h_s)
    · extract_lets -useContext -merge -underBinder x0 x1 x2 x3 x4 x5
      refine Keeps.ite ?_ ?_
      · exact (State.loadRefuse_keeps h_s)
      · refine Keeps.ite ?_ ?_
        · exact (State.loadRefuse_keeps h_s)
        · refine Keeps.ite ?_ ?_
          · exact (State.loadRefuse_keeps h_s)
          · refine Keeps.ite ?_ ?_
            · exact (State.loadRefuse_keeps h_s)
            · split
              · exact (State.loadRefuse_keeps h_s)
              · refine Keeps.ite ?_ ?_
                · exact (State.loadRefuse_keeps h_s)
                · refine Keeps.ite ?_ ?_
                  · exact (State.loadRefuse_keeps h_s)
                  · extract_lets -useContext -merge -underBinder x6 x7
                    have h8 : Keeps s0 x7 := (State.loadStatus_keeps (State.onPart_keeps (State.bindOwner_keeps h_s)))
                    clear_value x7
                    exact (State.startShards_keeps (State.entryDone_keeps (State.setRf_keeps (State.setRf_keeps h8))))

theorem State.takeHandoff_keeps {s0 : State} {s : State} {p : Nat} {ph : Nat} {d : Desc} {o : RemOp} {l : List RawRec} (h_s : Keeps s0 s) :
    Keeps s0 (State.takeHandoff s p ph d o l) := by
  unfold State.takeHandoff
  extract_lets -useContext -merge -underBinder x0 x1 x2 x3 x4 x5 x6
  have h7 : ∀ (a0 : Nat) (a1 : Nat) (a2 : State), Keeps s0 a2 → Keeps s0 (x5 a0 a1 a2) := by
    unfold x5
    refine fun _ _ _ h8 => ?_
    exact (State.beadWrite_keeps h8)
  clear_value x5
  have h9 : Keeps s0 x6 := (h7 _ _ _ (h7 _ _ _ (h7 _ _ _ h_s)))
  clear_value x6
  exact (State.onRod_keeps (State.onPart_keeps (State.bump_keeps h9)))

theorem execPartitionResetEnd_keeps {s0 : State} {p : Fin 16} {s : State} (h_s : Keeps s0 s) :
    KeepsR s0 (execPartitionResetEnd p s) := by
  unfold execPartitionResetEnd
  refine KeepsR.next ?_
  refine Keeps.ite ?_ ?_
  · exact (State.measurePart_keeps (State.boundaryRods_keeps (State.onPart_keeps h_s)))
  · exact h_s

theorem execBuildStart_keeps {s0 : State} {p : Fin 16} {s : State} (h_s : Keeps s0 s) :
    KeepsR s0 (execBuildStart p s) := by
  unfold execBuildStart
  extract_lets -useContext -merge -underBinder x0 x1 x2 x3
  have h4 : Keeps s0 x1 := (State.dirNext_keeps (State.applyDir_keeps h_s))
  clear_value x1
  have h5 : Keeps s0 x2 := by
    unfold x2
    refine State.forEach_keeps (fun _ _ h6 => ?_) h4
    exact (State.readIn_keeps h6)
  clear_value x2
  have h7 : Keeps1 s0 x3 := (State.chooseRows_keeps h5)
  clear_value x3
  refine KeepsR.next ?_
  refine Keeps.ite ?_ ?_
  · exact (State.onPart_keeps h7)
  · exact h_s

theorem execBuildEnd_keeps {s0 : State} {p : Fin 16} {s : State} (h_s : Keeps s0 s) :
    KeepsR s0 (execBuildEnd p s) := by
  unfold execBuildEnd
  refine KeepsR.next ?_
  split
  · refine Keeps.ite ?_ ?_
    · exact h_s
    · refine Keeps.ite ?_ ?_
      · exact (State.applyBoundary_keeps (State.onPart_keeps h_s))
      · exact (State.onPart_keeps (State.writeDesc_keeps h_s))
  · exact h_s

theorem execStepSeal_keeps {s0 : State} {p : Fin 16} {s : State} (h_s : Keeps s0 s) :
    KeepsR s0 (execStepSeal p s) := by
  unfold execStepSeal
  extract_lets -useContext -merge -underBinder x0
  refine KeepsR.next ?_
  split
  · refine Keeps.ite ?_ ?_
    · exact h_s
    · refine Keeps.ite ?_ ?_
      · exact (State.holdRefetch_keeps h_s)
      · extract_lets -useContext -merge -underBinder x1 x2 x3 x4 x5
        have h6 : Keeps s0 x1 := by
          unfold x1
          refine Keeps.ite ?_ ?_
          · exact (State.applyTable_keeps h_s)
          · exact h_s
        clear_value x1
        have h7 : Keeps1 s0 x2 := (State.voidLeft_keeps (State.applyBoundary_keeps h6))
        clear_value x2
        have h8 : Keeps s0 x5 := (State.onPart_keeps (State.refBlocks_keeps (State.writeDesc_keeps h7)))
        clear_value x5
        exact (State.firstMisses_keeps (State.launch_keeps h8))
  · exact h_s

theorem execLaunchStaggerEnd_keeps {s0 : State} {p : Fin 16} {group : Fin 8} {s : State} (h_s : Keeps s0 s) :
    KeepsR s0 (execLaunchStaggerEnd p group s) := by
  unfold execLaunchStaggerEnd
  refine KeepsR.next ?_
  refine Keeps.ite ?_ ?_
  · exact (State.startPart_keeps (State.onPart_keeps h_s))
  · exact h_s

theorem execSamplePutCopy_keeps {s0 : State} {l : Fin 512} {tag : Nat} {s : State} (h_s : Keeps s0 s) :
    KeepsR s0 (execSamplePutCopy l tag s) := by
  unfold execSamplePutCopy
  extract_lets -useContext -merge -underBinder x0 x1
  refine KeepsR.next ?_
  split
  · refine Keeps.ite ?_ ?_
    · exact h_s
    · split
      · exact (State.remFail_keeps h_s)
      · refine Keeps.ite ?_ ?_
        · exact (State.takeHandoff_keeps h_s)
        · refine Keeps.ite ?_ ?_
          · exact (State.remFail_keeps h_s)
          · split
            · exact (State.remFail_keeps h_s)
            · extract_lets -useContext -merge -underBinder x2 x3
              refine Keeps.ite ?_ ?_
              · exact (State.remFail_keeps h_s)
              · exact (State.takeHandoff_keeps h_s)
  · exact h_s

theorem execSamplerChoose_keeps {s0 : State} {p : Fin 16} {s : State} (h_s : Keeps s0 s) :
    KeepsR s0 (execSamplerChoose p s) := by
  unfold execSamplerChoose
  extract_lets -useContext -merge -underBinder x0
  refine KeepsR.next ?_
  split
  · exact h_s
  · refine Keeps.ite ?_ ?_
    · exact h_s
    · extract_lets -useContext -merge -underBinder x1 x2 x3 x4
      have h5 : Keeps2 s0 x1 := (State.sampleRows_keeps h_s)
      clear_value x1
      have h6 : Keeps2 s0 x2 := (State.jrnlOf_keeps h5)
      clear_value x2
      exact (State.onPart_keeps (State.jrnlWrite_keeps (State.bump_keeps h6)))

theorem execJournalComplete_keeps {s0 : State} {p : Fin 16} {s : State} (h_s : Keeps s0 s) :
    KeepsR s0 (execJournalComplete p s) := by
  unfold execJournalComplete
  extract_lets -useContext -merge -underBinder x0
  refine KeepsR.next ?_
  split
  · refine Keeps.ite ?_ ?_
    · exact (State.boundaryRods_keeps (State.commit_keeps h_s))
    · exact h_s
  · exact h_s

theorem execAdapterInstall_keeps {s0 : State} {t : Fin 64} {q : Fin 8} {i : Nat} {s : State} (h_s : Keeps s0 s) :
    KeepsR s0 (execAdapterInstall t q i s) := by
  unfold execAdapterInstall
  refine KeepsR.next ?_
  refine State.withEntry_keeps h_s (fun _ _ h0 => ?_)
  extract_lets -useContext -merge -underBinder x1 x2 x3 x4
  refine Keeps.ite ?_ ?_
  · exact (State.entryEnds_keeps h0)
  · refine Keeps.ite ?_ ?_
    · exact h0
    · exact (State.addAdapter_keeps (State.stageDir_keeps h0))

theorem execAdapterReplace_keeps {s0 : State} {t : Fin 64} {q : Fin 8} {i : Nat} {s : State} (h_s : Keeps s0 s) :
    KeepsR s0 (execAdapterReplace t q i s) := by
  unfold execAdapterReplace
  refine KeepsR.next ?_
  refine State.withEntry_keeps h_s (fun _ _ h0 => ?_)
  refine Keeps.ite ?_ ?_
  · exact (State.entryEnds_keeps h0)
  · refine Keeps.ite ?_ ?_
    · exact (State.entryEnds_keeps h0)
    · exact (State.addAdapter_keeps h0)

theorem execAdapterRemove_keeps {s0 : State} {t : Fin 64} {q : Fin 8} {i : Nat} {s : State} (h_s : Keeps s0 s) :
    KeepsR s0 (execAdapterRemove t q i s) := by
  unfold execAdapterRemove
  refine KeepsR.next ?_
  refine State.withEntry_keeps h_s (fun _ _ h0 => ?_)
  extract_lets -useContext -merge -underBinder x1 x2
  refine Keeps.ite ?_ ?_
  · exact (State.entryEnds_keeps h0)
  · refine Keeps.ite ?_ ?_
    · exact (State.entryEnds_keeps h0)
    · refine Keeps.ite ?_ ?_
      · exact h0
      · exact (State.entryEnds_keeps (State.stageDir_keeps h0))

theorem execLoad_keeps {s0 : State} {t : Fin 64} {q : Fin 8} {i : Nat} {model : ModelManifest} {manifest : List W64} {s : State} (h_s : Keeps s0 s) :
    KeepsR s0 (execLoad t q i model manifest s) := by
  unfold execLoad
  refine KeepsR.next ?_
  refine State.withEntry_keeps h_s (fun _ _ h0 => ?_)
  extract_lets -useContext -merge -underBinder x1 x2
  refine Keeps.ite ?_ ?_
  · exact (State.entryEnds_keeps h0)
  · exact (State.startLoad_keeps h0)

theorem execShardVerify_keeps {s0 : State} {p : Fin 16} {k : Nat} {r : ShardRead} {s : State} (h_s : Keeps s0 s) :
    KeepsR s0 (execShardVerify p k r s) := by
  unfold execShardVerify
  refine KeepsR.next ?_
  refine Keeps.ite ?_ ?_
  · exact h_s
  · extract_lets -useContext -merge -underBinder x0 x1
    have h2 : Keeps s0 x0 := (State.loadStep_keeps h_s)
    clear_value x0
    split
    · extract_lets -useContext -merge -underBinder x3
      refine Keeps.ite ?_ ?_
      · exact h2
      · split
        · refine Keeps.ite ?_ ?_
          · exact (State.loadFail_keeps h2)
          · exact (State.onPart_keeps h2)
        · extract_lets -useContext -merge -underBinder x4
          split
          · exact (State.loadFail_keeps h2)
          · exact (State.loadFail_keeps (State.bump_keeps h2))
          · exact (State.placeShard_keeps h2)
    · exact h2

theorem execLoadComplete_keeps {s0 : State} {p : Fin 16} {s : State} (h_s : Keeps s0 s) :
    KeepsR s0 (execLoadComplete p s) := by
  unfold execLoadComplete
  refine KeepsR.next ?_
  refine Keeps.ite ?_ ?_
  · exact h_s
  · extract_lets -useContext -merge -underBinder x0 x1
    have h2 : Keeps s0 x0 := (State.loadStep_keeps h_s)
    clear_value x0
    split
    · exact h2
    · refine Keeps.ite ?_ ?_
      · exact h2
      · split
        · refine Keeps.ite ?_ ?_
          · exact h2
          · refine Keeps.getD ?_ ?_
            · exact (State.demoteShard_keeps h2)
            · exact (State.loadFail_keeps h2)
        · extract_lets -useContext -merge -underBinder x3 x4
          have h5 : Keeps s0 x3 := by
            unfold x3
            refine State.forEach_keeps (fun _ _ h6 => ?_) h2
            exact (State.loadRod_keeps h6)
          clear_value x3
          have h7 : Keeps s0 x4 := (State.onPart_keeps h5)
          clear_value x4
          exact (State.commandDone_keeps (State.measurePart_keeps (State.loadStatus_keeps h7)))

theorem execScrubCheck_keeps {s0 : State} {p : Fin 16} {k : Nat} {s : State} (h_s : Keeps s0 s) :
    KeepsR s0 (execScrubCheck p k s) := by
  unfold execScrubCheck
  refine KeepsR.next ?_
  split
  · exact h_s
  · refine Keeps.ite ?_ ?_
    · exact (State.scrubCount_keeps h_s)
    · exact h_s

theorem execScrubMismatch_keeps {s0 : State} {p : Fin 16} {k : Nat} {s : State} (h_s : Keeps s0 s) :
    KeepsR s0 (execScrubMismatch p k s) := by
  unfold execScrubMismatch
  refine KeepsR.next ?_
  split
  · exact h_s
  · split
    · exact h_s
    · refine Keeps.ite ?_ ?_
      · exact (State.startRefetch_keeps (State.setReg_keeps (State.bump_keeps (State.scrubCount_keeps h_s))))
      · exact h_s

theorem execRefetchComplete_keeps {s0 : State} {p : Fin 16} {r : ShardRead} {s : State} (h_s : Keeps s0 s) :
    KeepsR s0 (execRefetchComplete p r s) := by
  unfold execRefetchComplete
  extract_lets -useContext -merge -underBinder x0
  refine KeepsR.next ?_
  split
  · split
    · exact h_s
    · extract_lets -useContext -merge -underBinder x1 x2 x3
      refine Keeps.ite ?_ ?_
      · exact h_s
      · split
        · exact (State.onPart_keeps (State.bump_keeps h_s))
        · extract_lets -useContext -merge -underBinder x4
          have h5 : Keeps s0 x4 := (State.onPart_keeps (State.ingress_keeps h_s))
          clear_value x4
          refine State.refetchNextShard_keeps ?_
          refine Keeps.getD ?_ ?_
          · exact (State.demoteShard_keeps h5)
          · exact h5
  · exact h_s

theorem execRefetchLimitExpire_keeps {s0 : State} {p : Fin 16} {s : State} (h_s : Keeps s0 s) :
    KeepsR s0 (execRefetchLimitExpire p s) := by
  unfold execRefetchLimitExpire
  refine KeepsR.next ?_
  split
  · exact h_s
  · refine Keeps.ite ?_ ?_
    · exact (State.refetchFail_keeps h_s)
    · exact h_s

theorem execAdapterImageVerified_keeps {s0 : State} {t : Fin 64} {k : Nat} {addr : BitVec 52} {r : ShardRead} {s : State} (h_s : Keeps s0 s) :
    KeepsR s0 (execAdapterImageVerified t k addr r s) := by
  unfold execAdapterImageVerified
  refine KeepsR.next ?_
  split
  · exact h_s
  · extract_lets -useContext -merge -underBinder x0
    refine Keeps.ite ?_ ?_
    · exact h_s
    · split
      · extract_lets -useContext -merge -underBinder x1 x2 x3
        refine Keeps.ite ?_ ?_
        · exact (State.failAdapter_keeps h_s)
        · refine Keeps.ite ?_ ?_
          · exact (State.failAdapter_keeps h_s)
          · split
            · exact (State.failAdapter_keeps h_s)
            · refine Keeps.ite ?_ ?_
              · exact (State.failAdapter_keeps h_s)
              · split
                · exact (State.failAdapter_keeps h_s)
                · extract_lets -useContext -merge -underBinder x4 x5 x6 x7 x8
                  refine Keeps.ite ?_ ?_
                  · exact (State.failAdapter_keeps h_s)
                  · refine Keeps.ite ?_ ?_
                    · exact (State.failAdapter_keeps h_s)
                    · refine Keeps.ite ?_ ?_
                      · exact h_s
                      · split
                        · exact (State.failAdapter_keeps h_s)
                        · rename_i v9 e10
                          have h11 := KeepsOS.elim e10 (State.imageWrite_keeps h_s)
                          exact (State.endAdapter_keeps (State.stageDir_keeps (State.journal_keeps h11)))
      · exact (State.failAdapter_keeps h_s)
      · exact (State.failAdapter_keeps h_s)

end Sys2Proof.Machine
end

