-- ==== Sys2Proof/Laws/KeepsHost.lean ====
section
/-! SUPPORT. What each operation keeps (Keeps.lean): requests, host queues, streamers and the loss of units. -/

namespace Sys2Proof.Machine

theorem State.unplace_keeps {s0 : State} {s : State} {t : Nat} {cq : Nat} {n : Nat} (h_s : Keeps s0 s) :
    Keeps s0 (State.unplace s t cq n) := by
  unfold State.unplace
  extract_lets -useContext -merge -underBinder x0
  exact (State.setCq_keeps h_s)

theorem State.abandonSq_keeps {s0 : State} {s : State} {t : Nat} {q : Nat} (h_s : Keeps s0 s) :
    Keeps s0 (State.abandonSq s t q) := by
  unfold State.abandonSq
  extract_lets -useContext -merge -underBinder x0 x1 x2 x3 x4 x5 x6 x7 x8 x9
  have h10 : Keeps s0 x4 := by
    unfold x4
    refine State.forEach_keeps (fun _ _ h11 => ?_) h_s
    refine State.forEach_keeps (fun _ _ h12 => ?_) h11
    split
    · split
      · exact (State.onSlot_keeps h12)
      · exact h12
    · exact h12
  clear_value x4
  have h13 : Keeps s0 x5 := (State.unplace_keeps h10)
  clear_value x5
  have h14 : Keeps s0 x8 := (State.setChan_keeps h13)
  clear_value x8
  exact (State.setSq_keeps h14)

theorem State.acceptStream_keeps {s0 : State} {s : State} {p : Nat} {ph : Nat} {o : RemOp} {d : Stream} (h_s : Keeps s0 s) :
    Keeps s0 (State.acceptStream s p ph o d) := by
  unfold State.acceptStream
  extract_lets -useContext -merge -underBinder x0 x1 x2 x3 x4
  have h5 : Keeps s0 x3 := by
    unfold x3
    refine State.forEach_keeps (fun _ _ h6 => ?_) (State.bump_keeps h_s)
    exact (State.onRod_keeps h6)
  clear_value x3
  have h7 : Keeps s0 x4 := by
    unfold x4
    refine State.forEach_keeps (fun _ _ h8 => ?_) h5
    exact (State.refRange_keeps h8)
  clear_value x4
  exact (State.onRod_keeps (State.onPart_keeps h7))

theorem State.adapterLoss_keeps {s0 : State} {s : State} {hit : Nat → Nat × Nat → Bool} {p : Nat} (h_s : Keeps s0 s) :
    Keeps s0 (State.adapterLoss s hit p) := by
  unfold State.adapterLoss
  extract_lets -useContext -merge -underBinder x0
  exact (State.dirNext_keeps (State.onPart_keeps h_s))

theorem State.tenResetStart_keeps {s0 : State} {s : State} {t : Nat} {byDetach : Bool} (h_s : Keeps s0 s) :
    Keeps s0 (State.tenResetStart s t byDetach) := by
  unfold State.tenResetStart
  extract_lets -useContext -merge -underBinder x0 x1
  have h2 : Keeps s0 x0 := by
    unfold x0
    refine State.forEach_keeps (fun _ _ h3 => ?_) h_s
    exact (State.abandonSq_keeps h3)
  clear_value x0
  have h4 : Keeps s0 x1 := by
    unfold x1
    refine State.setReg_keeps ?_
    refine State.onTen_keeps ?_
    refine State.forEach_keeps (fun _ _ h5 => ?_) h2
    exact (State.setCq_keeps h5)
  clear_value x1
  refine State.forEach_keeps (fun _ _ h6 => ?_) h4
  refine Keeps.ite ?_ ?_
  · exact (State.onSlot_keeps h6)
  · refine Keeps.ite ?_ ?_
    · exact (State.onSlot_keeps h6)
    · exact (State.retire_keeps (State.unreserve_keeps h6))

theorem State.attachTen_keeps {s0 : State} {s : State} {t : Nat} (h_s : Keeps s0 s) :
    Keeps s0 (State.attachTen s t) := by
  unfold State.attachTen
  split
  · exact (State.onTen_keeps h_s)
  · exact (State.event_keeps (State.bump_keeps (State.tenResetStart_keeps h_s)))
  · exact (State.onTen_keeps h_s)

theorem State.inErr_keeps {s0 : State} {s : State} {t : Nat} (h_s : Keeps s0 s) :
    Keeps s0 (State.inErr s t) := by
  unfold State.inErr
  exact (State.bump_keeps h_s)

theorem State.tenResetWrite_keeps {s0 : State} {s : State} {t : Nat} {v : W64} (h_s : Keeps s0 s) :
    Keeps s0 (State.tenResetWrite s t v) := by
  unfold State.tenResetWrite
  refine Keeps.ite ?_ ?_
  · exact (State.tenResetStart_keeps h_s)
  · exact h_s

theorem State.bufDone_keeps {s0 : State} {s : State} {t : Nat} {b : Nat} (h_s : Keeps s0 s) :
    Keeps s0 (State.bufDone s t b) := by
  unfold State.bufDone
  refine Keeps.ite ?_ ?_
  · exact (State.setBuf_keeps h_s)
  · refine Keeps.ite ?_ ?_
    · refine State.forEach_keeps (fun _ _ h0 => ?_) (State.setBuf_keeps h_s)
      exact (State.onSlot_keeps h0)
    · exact (State.inErr_keeps h_s)

theorem State.bufFree_keeps {s0 : State} {s : State} {t : Nat} {b : Nat} (h_s : Keeps s0 s) :
    Keeps s0 (State.bufFree s t b) := by
  unfold State.bufFree
  refine Keeps.ite ?_ ?_
  · exact (State.setBuf_keeps h_s)
  · exact (State.inErr_keeps h_s)

theorem State.cfgSq_keeps {s0 : State} {s : State} {t : Nat} {q : Nat} {v : W64} (h_s : Keeps s0 s) :
    Keeps s0 (State.cfgSq s t q v) := by
  unfold State.cfgSq
  extract_lets -useContext -merge -underBinder x0 x1 x2
  refine Keeps.ite ?_ ?_
  · refine Keeps.ite ?_ ?_
    · exact (State.setReg_keeps (State.abandonSq_keeps h_s))
    · exact (State.inErr_keeps h_s)
  · refine Keeps.ite ?_ ?_
    · exact h_s
    · refine Keeps.ite ?_ ?_
      · exact (State.inErr_keeps h_s)
      · refine Keeps.ite ?_ ?_
        · exact (State.setReg_keeps (State.setReg_keeps (State.setSq_keeps h_s)))
        · exact (State.setReg_keeps h_s)

theorem State.setSqError_keeps {s0 : State} {s : State} {t : Nat} {q : Nat} (h_s : Keeps s0 s) :
    Keeps s0 (State.setSqError s t q) := by
  unfold State.setSqError
  exact (State.setRf_keeps h_s)

theorem State.closeBatch_keeps {s0 : State} {s : State} {t : Nat} {q : Nat} (h_s : Keeps s0 s) :
    Keeps s0 (State.closeBatch s t q) := by
  unfold State.closeBatch
  extract_lets -useContext -merge -underBinder x0
  refine Keeps.ite ?_ ?_
  · exact h_s
  · exact (State.settleQ_keeps (State.setSq_keeps h_s))

theorem State.sqFail_keeps {s0 : State} {s : State} {t : Nat} {q : Nat} (h_s : Keeps s0 s) :
    Keeps s0 (State.sqFail s t q) := by
  unfold State.sqFail
  extract_lets -useContext -merge -underBinder x0
  have h1 : Keeps s0 x0 := (State.setSqError_keeps h_s)
  clear_value x0
  refine Keeps.ite ?_ ?_
  · exact h1
  · exact (State.closeBatch_keeps h1)

theorem State.ringDoorbell_keeps {s0 : State} {s : State} {t : Nat} {q : Nat} {v : Nat} (h_s : Keeps s0 s) :
    Keeps s0 (State.ringDoorbell s t q v) := by
  unfold State.ringDoorbell
  extract_lets -useContext -merge -underBinder x0 x1 x2
  refine Keeps.ite ?_ ?_
  · exact h_s
  · refine Keeps.ite ?_ ?_
    · exact (State.setReg_keeps h_s)
    · refine Keeps.ite ?_ ?_
      · exact (State.sqFail_keeps h_s)
      · refine Keeps.ite ?_ ?_
        · exact h_s
        · refine Keeps.ite ?_ ?_
          · exact (State.sqFail_keeps h_s)
          · exact (State.setReg_keeps (State.setSq_keeps h_s))

theorem State.cfgCq_keeps {s0 : State} {s : State} {t : Nat} {q : Nat} {v : W64} (h_s : Keeps s0 s) :
    Keeps s0 (State.cfgCq s t q v) := by
  unfold State.cfgCq
  extract_lets -useContext -merge -underBinder x0 x1 x2
  refine Keeps.ite ?_ ?_
  · refine Keeps.ite ?_ ?_
    · exact (State.setReg_keeps h_s)
    · exact (State.inErr_keeps h_s)
  · refine Keeps.ite ?_ ?_
    · exact h_s
    · refine Keeps.ite ?_ ?_
      · exact (State.setReg_keeps (State.setReg_keeps (State.setCq_keeps h_s)))
      · exact (State.setReg_keeps h_s)

theorem State.returnCq_keeps {s0 : State} {s : State} {t : Nat} {q : Nat} {v : Nat} (h_s : Keeps s0 s) :
    Keeps s0 (State.returnCq s t q v) := by
  unfold State.returnCq
  extract_lets -useContext -merge -underBinder x0 x1 x2
  refine Keeps.ite ?_ ?_
  · exact h_s
  · exact (State.setReg_keeps (State.setCq_keeps h_s))

theorem State.maskVecs_keeps {s0 : State} {s : State} {t : Nat} {v : W64} (h_s : Keeps s0 s) :
    Keeps s0 (State.maskVecs s t v) := by
  unfold State.maskVecs
  exact (State.setReg_keeps h_s)

theorem State.cfgRing_keeps {s0 : State} {s : State} {t : Nat} {r : Nat} {v : W64} (h_s : Keeps s0 s) :
    Keeps s0 (State.cfgRing s t r v) := by
  unfold State.cfgRing
  extract_lets -useContext -merge -underBinder x0 x1
  refine Keeps.ite ?_ ?_
  · refine Keeps.ite ?_ ?_
    · exact (State.setReg_keeps h_s)
    · exact (State.inErr_keeps h_s)
  · refine Keeps.ite ?_ ?_
    · exact h_s
    · refine Keeps.ite ?_ ?_
      · exact (State.setReg_keeps (State.setReg_keeps (State.setRing_keeps h_s)))
      · exact (State.setReg_keeps h_s)

theorem State.returnRing_keeps {s0 : State} {s : State} {t : Nat} {r : Nat} {v : W64} (h_s : Keeps s0 s) :
    Keeps s0 (State.returnRing s t r v) := by
  unfold State.returnRing
  extract_lets -useContext -merge -underBinder x0
  refine Keeps.ite ?_ ?_
  · exact (State.setReg_keeps h_s)
  · exact (State.inErr_keeps h_s)

theorem State.kvLost_keeps {s0 : State} {s : State} {i : Nat} (h_s : Keeps s0 s) :
    Keeps s0 (State.kvLost s i) := by
  unfold State.kvLost
  extract_lets -useContext -merge -underBinder x0
  refine Keeps.ite ?_ ?_
  · exact (State.rePrefill_keeps h_s)
  · refine Keeps.ite ?_ ?_
    · exact (State.onSlot_keeps h_s)
    · exact h_s

theorem State.blockLost_keeps {s0 : State} {s : State} {p : Nat} {blk : Nat} (h_s : Keeps s0 s) :
    Keeps s0 (State.blockLost s p blk) := by
  unfold State.blockLost
  extract_lets -useContext -merge -underBinder x0 x1 x2
  have h3 : Keeps s0 x1 := by
    unfold x1
    refine State.forEach_keeps (fun _ _ h4 => ?_) h_s
    exact (State.rangeWrite_keeps h4)
  clear_value x1
  have h5 : Keeps s0 x2 := by
    unfold x2
    refine State.forEach_keeps (fun _ _ h6 => ?_) h3
    exact (State.kvLost_keeps h6)
  clear_value x2
  refine Keeps.ite ?_ ?_
  · exact h5
  · exact (State.freeBlock_keeps h5)

theorem State.clearPage_keeps {s0 : State} {s : State} {t : Nat} (h_s : Keeps s0 s) :
    Keeps s0 (State.clearPage s t) := by
  unfold State.clearPage
  extract_lets -useContext -merge -underBinder x0
  refine State.setReg_keeps ?_
  exact Keeps.upd h_s

theorem State.fetchFailed_keeps {s0 : State} {s : State} {r : OutRead} (h_s : Keeps s0 s) :
    Keeps s0 (State.fetchFailed s r) := by
  unfold State.fetchFailed
  extract_lets -useContext -merge -underBinder x0
  refine Keeps.ite ?_ ?_
  · exact h_s
  · exact (State.sqFail_keeps (State.setSq_keeps (State.unplace_keeps h_s)))

theorem State.ctlEntry_keeps {s0 : State} {s : State} {t : Nat} {q : Nat} {i : Nat} {op : Nat} {frm : Nat} (h_s : Keeps s0 s) :
    Keeps s0 (State.ctlEntry s t q i op frm) := by
  unfold State.ctlEntry
  refine State.withEntry_keeps h_s (fun _ _ h0 => ?_)
  extract_lets -useContext -merge -underBinder x1
  refine Keeps.ite ?_ ?_
  · exact (State.entryEnds_keeps h0)
  · exact (State.entryDone_keeps (State.ctlReach_keeps h0))

theorem State.detachTen_keeps {s0 : State} {s : State} {t : Nat} (h_s : Keeps s0 s) :
    Keeps s0 (State.detachTen s t) := by
  unfold State.detachTen
  split
  · exact h_s
  · exact (State.tenResetStart_keeps h_s)
  · exact (State.onTen_keeps h_s)

theorem State.dropExtent_keeps {s0 : State} {s : State} {p : Nat} {d : Stream} {e : Nat} (h_s : Keeps s0 s) :
    Keeps s0 (State.dropExtent s p d e) := by
  unfold State.dropExtent
  extract_lets -useContext -merge -underBinder x0
  exact (State.onPart_keeps h_s)

theorem State.fetched_keeps {s0 : State} {s : State} {r : OutRead} (h_s : Keeps s0 s) :
    Keeps s0 (State.fetched s r) := by
  unfold State.fetched
  extract_lets -useContext -merge -underBinder x0 x1 x2 x3
  have h4 : Keeps s0 x3 := (State.setSq_keeps h_s)
  clear_value x3
  refine Keeps.ite ?_ ?_
  · exact h_s
  · refine Keeps.ite ?_ ?_
    · exact (State.closeBatch_keeps h4)
    · exact h4

theorem State.histRepair_keeps {s0 : State} {s : State} {g : Nat} (h_s : Keeps s0 s) :
    Keeps s0 (State.histRepair s g) := by
  unfold State.histRepair
  extract_lets -useContext -merge -underBinder x0 x1 x2
  refine Keeps.ite ?_ ?_
  · exact (State.hbmWrite_keeps h_s)
  · refine Keeps.ite ?_ ?_
    · exact (State.hbmWrite_keeps h_s)
    · exact h_s

theorem State.holdBack_keeps {s0 : State} {s : State} {t : Nat} {q : Nat} {e : SubEntry} (h_s : Keeps s0 s) :
    Keeps s0 (State.holdBack s t q e) := by
  unfold State.holdBack
  refine Keeps.ite ?_ ?_
  · exact h_s
  · extract_lets -useContext -merge -underBinder x0
    split
    · exact h_s
    · exact (State.bump_keeps (State.setSq_keeps h_s))

theorem State.jrnlRepair_keeps {s0 : State} {s : State} (h_s : Keeps s0 s) :
    Keeps s0 (State.jrnlRepair s) := by
  unfold State.jrnlRepair
  refine State.forEach_keeps (fun _ _ h0 => ?_) h_s
  exact (State.jrnlFind_keeps h0)

theorem State.kvLoss_keeps {s0 : State} {s : State} {hit : Nat → Nat × Nat → Bool} {p : Nat} (h_s : Keeps s0 s) :
    Keeps s0 (State.kvLoss s hit p) := by
  unfold State.kvLoss
  split
  · exact h_s
  · refine State.forEach_keeps (fun _ _ h0 => ?_) h_s
    exact (State.blockLost_keeps h0)

theorem State.loseModel_keeps {s0 : State} {s : State} {p : Nat} (h_s : Keeps s0 s) :
    Keeps s0 (State.loseModel s p) := by
  unfold State.loseModel
  extract_lets -useContext -merge -underBinder x0 x1
  have h2 : Keeps s0 x0 := (State.clearPart_keeps h_s)
  clear_value x0
  have h3 : Keeps s0 x1 := (State.unmapPages_keeps h2)
  clear_value x1
  exact (State.measurePart_keeps (State.loadStatus_keeps (State.onPart_keeps h3)))

theorem State.modelLoss_keeps {s0 : State} {s : State} {hit : Nat → Nat × Nat → Bool} {p : Nat} (h_s : Keeps s0 s) :
    Keeps s0 (State.modelLoss s hit p) := by
  unfold State.modelLoss
  refine Keeps.ite ?_ ?_
  · exact h_s
  · refine State.forEach_keeps (fun _ _ h0 => ?_) h_s
    split
    · refine Keeps.ite ?_ ?_
      · exact (State.startRefetch_keeps h0)
      · exact h0
    · exact h0

theorem State.partLoss_keeps {s0 : State} {s : State} {hit : Nat → Nat × Nat → Bool} {p : Nat} (h_s : Keeps s0 s) :
    Keeps s0 (State.partLoss s hit p) := by
  unfold State.partLoss
  refine Keeps.ite ?_ ?_
  · exact h_s
  · refine Keeps.ite ?_ ?_
    · exact (State.resetPart_keeps h_s)
    · exact (State.adapterLoss_keeps (State.modelLoss_keeps (State.kvLoss_keeps h_s)))

theorem State.loss_keeps {s0 : State} {s : State} {hit : Nat → Nat × Nat → Bool} (h_s : Keeps s0 s) :
    Keeps s0 (State.loss s hit) := by
  unfold State.loss
  refine State.forEach_keeps (fun _ _ h0 => ?_) h_s
  exact (State.partLoss_keeps h0)

theorem State.mapPlist_keeps {s0 : State} {s : State} {p : Nat} {i : Nat} (h_s : Keeps s0 s) :
    KeepsOS s0 (State.mapPlist s p i) := by
  unfold State.mapPlist
  refine KeepsOS.ite ?_ ?_
  · refine KeepsOS.some ?_
    exact h_s
  · extract_lets -useContext -merge -underBinder x0
    have h1 : Keeps2 s0 x0 := (State.tierMap_keeps h_s)
    clear_value x0
    refine KeepsOS.ite ?_ ?_
    · exact KeepsOS.none
    · refine KeepsOS.some ?_
      exact (State.onPart_keeps h1)

theorem State.moveExtent_keeps {s0 : State} {s : State} {p : Nat} {x : Extent} {l : List UnitOp} (h_s : Keeps s0 s) :
    Keeps s0 (State.moveExtent s p x l) := by
  unfold State.moveExtent
  extract_lets -useContext -merge -underBinder x0 x1 x2 x3 x4 x5 x6
  have h7 : Keeps s0 x1 := (State.beadWrite_keeps h_s)
  clear_value x1
  have h8 : Keeps s0 x5 := by
    unfold x5
    refine State.forEach_keeps (fun _ _ h9 => ?_) h7
    refine State.forEach_keeps (fun _ _ h10 => ?_) h9
    exact (State.poisonBead_keeps h10)
  clear_value x5
  have h11 : Keeps s0 x6 := (State.bump_keeps h8)
  clear_value x6
  refine State.forEach_keeps (fun _ _ h12 => ?_) h11
  exact (State.bump_keeps h12)

theorem State.poolLost_keeps {s0 : State} {s : State} {k : Nat} (h_s : Keeps s0 s) :
    Keeps s0 (State.poolLost s k) := by
  unfold State.poolLost
  extract_lets -useContext -merge -underBinder x0
  refine State.loss_keeps ?_
  refine State.forEach_keeps (fun _ _ h1 => ?_) h_s
  extract_lets -useContext -merge -underBinder x2
  refine Keeps.ite ?_ ?_
  · exact h1
  · split
    · exact (State.loadFail_keeps h1)
    · exact h1

theorem State.refuseSubmit_keeps {s0 : State} {s : State} {t : Nat} {q : Nat} {b : List SubEntry} {e : SubEntry} (h_s : Keeps s0 s) :
    Keeps s0 (State.refuseSubmit s t q b e) := by
  unfold State.refuseSubmit
  extract_lets -useContext -merge -underBinder x0
  have h1 : Keeps s0 x0 := by
    unfold x0
    split
    · split
      · refine Keeps.ite ?_ ?_
        · exact h_s
        · exact (State.onSlot_keeps h_s)
      · exact h_s
    · exact h_s
  clear_value x0
  exact (State.entryDone_keeps (State.complete_keeps h1))

theorem State.resetTen_keeps {s0 : State} {s : State} {t : Nat} (h_s : Keeps s0 s) :
    Keeps s0 (State.resetTen s t) := by
  unfold State.resetTen
  refine Keeps.ite ?_ ?_
  · exact (State.tenResetStart_keeps h_s)
  · exact h_s

theorem State.takeIn_keeps {s0 : State} {s : State} {t : Nat} {q : Nat} {i : Nat} {b : List SubEntry} {e : SubEntry} (h_s : Keeps s0 s) :
    Keeps s0 (State.takeIn s t q i b e) := by
  unfold State.takeIn
  extract_lets -useContext -merge -underBinder x0 x1 x2 x3 x4 x5
  have h6 : Keeps s0 x2 := (State.setSlot_keeps h_s)
  clear_value x2
  have h7 : Keeps s0 x3 := by
    unfold x3
    split
    · exact (State.setBuf_keeps h6)
    · exact (State.setBuf_keeps h6)
    · exact h6
  clear_value x3
  have h8 : Keeps s0 x4 := (State.rangeWrite_keeps h7)
  clear_value x4
  have h9 : Keeps s0 x5 := by
    unfold x5
    refine Keeps.ite ?_ ?_
    · exact (State.endLater_keeps h8)
    · exact h8
  clear_value x5
  exact (State.entryDone_keeps (State.complete_keeps h9))

theorem State.tenResetFinish_keeps {s0 : State} {s : State} {t : Nat} (h_s : Keeps s0 s) :
    Keeps s0 (State.tenResetFinish s t) := by
  unfold State.tenResetFinish
  extract_lets -useContext -merge -underBinder x0 x1 x2 x3 x4 x5
  have h6 : Keeps s0 x1 := by
    unfold x1
    refine State.forEach_keeps (fun _ _ h7 => ?_) h_s
    refine Keeps.ite ?_ ?_
    · exact (State.loadFail_keeps h7)
    · exact h7
  clear_value x1
  have h8 : Keeps s0 x2 := by
    unfold x2
    refine Keeps.ite ?_ ?_
    · refine State.forEach_keeps (fun _ _ h9 => ?_) h6
      refine Keeps.ite ?_ ?_
      · exact (State.loseModel_keeps h9)
      · exact h9
    · exact h6
  clear_value x2
  have h10 : Keeps s0 x4 := (State.setTen_keeps (State.clearPage_keeps h8))
  clear_value x4
  have h11 : Keeps s0 x5 := (State.setReg_keeps h10)
  clear_value x5
  refine Keeps.ite ?_ ?_
  · exact (State.attachTen_keeps h11)
  · exact h11

theorem State.tenWrite_keeps {s0 : State} {s : State} {t : Nat} {f : State → State} (h_s : Keeps s0 s) (h_f : ∀ (a0 : State), Keeps s0 a0 → Keeps s0 (f a0)) :
    KeepsR s0 (State.tenWrite s t f) := by
  unfold State.tenWrite
  refine KeepsR.next ?_
  refine Keeps.ite ?_ ?_
  · exact (h_f _ h_s)
  · exact h_s

theorem execSubmit_keeps {s0 : State} {t : Fin 64} {q : Fin 8} {i : Nat} {e : Fin 32768} {s : State} (h_s : Keeps s0 s) :
    KeepsR s0 (execSubmit t q i e s) := by
  unfold execSubmit
  refine KeepsR.next ?_
  split
  · exact h_s
  · refine Keeps.ite ?_ ?_
    · exact (State.refuseSubmit_keeps h_s)
    · refine Keeps.ite ?_ ?_
      · exact (State.holdBack_keeps h_s)
      · refine Keeps.ite ?_ ?_
        · exact h_s
        · split
          · exact (State.holdBack_keeps h_s)
          · rename_i v0 e1
            have h2 := KeepsOS.elim e1 (State.mapPlist_keeps h_s)
            exact (State.takeIn_keeps h2)

theorem execPause_keeps {s0 : State} {t : Fin 64} {q : Fin 8} {i : Nat} {s : State} (h_s : Keeps s0 s) :
    KeepsR s0 (execPause t q i s) := by
  unfold execPause
  exact KeepsR.next (State.ctlEntry_keeps h_s)

theorem execPark_keeps {s0 : State} {t : Fin 64} {q : Fin 8} {i : Nat} {s : State} (h_s : Keeps s0 s) :
    KeepsR s0 (execPark t q i s) := by
  unfold execPark
  exact KeepsR.next (State.ctlEntry_keeps h_s)

theorem execResume_keeps {s0 : State} {t : Fin 64} {q : Fin 8} {i : Nat} {s : State} (h_s : Keeps s0 s) :
    KeepsR s0 (execResume t q i s) := by
  unfold execResume
  exact KeepsR.next (State.ctlEntry_keeps h_s)

theorem execCancel_keeps {s0 : State} {t : Fin 64} {q : Fin 8} {i : Nat} {s : State} (h_s : Keeps s0 s) :
    KeepsR s0 (execCancel t q i s) := by
  unfold execCancel
  refine KeepsR.next ?_
  refine State.withEntry_keeps h_s (fun _ _ h0 => ?_)
  refine Keeps.ite ?_ ?_
  · exact (State.entryEnds_keeps h0)
  · exact (State.entryDone_keeps (State.commandDone_keeps (State.cancel_keeps h0)))

theorem execStreamAccept_keeps {s0 : State} {l : Fin 512} {tag : Nat} {s : State} (h_s : Keeps s0 s) :
    KeepsR s0 (execStreamAccept l tag s) := by
  unfold execStreamAccept
  extract_lets -useContext -merge -underBinder x0
  refine KeepsR.next ?_
  split
  · refine Keeps.ite ?_ ?_
    · exact h_s
    · split
      · extract_lets -useContext -merge -underBinder x1
        have h2 : Keeps s0 x1 := by
          unfold x1
          refine Keeps.ite ?_ ?_
          · exact (State.countBad_keeps h_s)
          · exact h_s
        clear_value x1
        exact (State.remFail_keeps h2)
      · exact (State.acceptStream_keeps h_s)
  · exact h_s

theorem execExtentComplete_keeps {s0 : State} {p : Fin 16} {slot : Nat} {e : Nat} {s : State} (h_s : Keeps s0 s) :
    KeepsR s0 (execExtentComplete p slot e s) := by
  unfold execExtentComplete
  refine KeepsR.next ?_
  split
  · exact h_s
  · refine Keeps.ite ?_ ?_
    · exact h_s
    · extract_lets -useContext -merge -underBinder x0 x1 x2
      refine Keeps.ite ?_ ?_
      · refine Keeps.ite ?_ ?_
        · exact h_s
        · exact (State.askFor_keeps h_s)
      · refine Keeps.ite ?_ ?_
        · exact h_s
        · exact (State.dropExtent_keeps (State.refRange_keeps (State.addCnt_keeps (State.dropOps_keeps (State.moveExtent_keeps h_s)))))

theorem execExtentFail_keeps {s0 : State} {p : Fin 16} {slot : Nat} {e : Nat} {response : Nat} {s : State} (h_s : Keeps s0 s) :
    KeepsR s0 (execExtentFail p slot e response s) := by
  unfold execExtentFail
  refine KeepsR.next ?_
  split
  · exact h_s
  · refine Keeps.ite ?_ ?_
    · exact h_s
    · extract_lets -useContext -merge -underBinder x0 x1 x2
      have h3 : Keeps s0 x1 := (State.onPart_keeps h_s)
      clear_value x1
      have h4 : Keeps s0 x2 := (State.bump_keeps (State.faultRecord_keeps (State.dropOps_keeps h3)))
      clear_value x2
      exact (State.awaitPeer_keeps (State.holdPart_keeps h4))

theorem execTenSqTail_keeps {s0 : State} {t : Fin 64} {q : Fin 8} {v : W64} {s : State} (h_s : Keeps s0 s) :
    KeepsR s0 (execTenSqTail t q v s) := by
  unfold execTenSqTail
  exact State.tenWrite_keeps h_s (fun _ h0 => (State.ringDoorbell_keeps h0))

theorem execSqFetch_keeps {s0 : State} {t : Fin 64} {q : Fin 8} {s : State} (h_s : Keeps s0 s) :
    KeepsR s0 (execSqFetch t q s) := by
  unfold execSqFetch
  extract_lets -useContext -merge -underBinder x0 x1 x2 x3 x4 x5 x6 x7 x8
  have h9 : Keeps s0 x6 := (State.setCq_keeps h_s)
  clear_value x6
  have h10 : Keeps s0 x7 := (State.setSq_keeps h9)
  clear_value x7
  refine KeepsR.next ?_
  refine Keeps.ite ?_ ?_
  · exact h_s
  · refine Keeps.ite ?_ ?_
    · exact (State.closeBatch_keeps h_s)
    · exact (State.setChan_keeps h10)

theorem execCqPost_keeps {s0 : State} {t : Fin 64} {q : Fin 8} {s : State} (h_s : Keeps s0 s) :
    KeepsR s0 (execCqPost t q s) := by
  unfold execCqPost
  refine KeepsR.next ?_
  split
  · exact h_s
  · refine Keeps.ite ?_ ?_
    · exact h_s
    · extract_lets -useContext -merge -underBinder x0 x1 x2 x3 x4
      have h5 : Keeps s0 x2 := (State.hostWrite_keeps h_s)
      clear_value x2
      have h6 : Keeps s0 x3 := (State.setCq_keeps h5)
      clear_value x3
      have h7 : Keeps s0 x4 := by
        unfold x4
        refine Keeps.ite ?_ ?_
        · exact (State.vecEvent_keeps h6)
        · exact h6
      clear_value x4
      refine Keeps.ite ?_ ?_
      · exact (State.onSlot_keeps h7)
      · exact h7

theorem execTenCqHead_keeps {s0 : State} {t : Fin 64} {q : Fin 8} {v : W64} {s : State} (h_s : Keeps s0 s) :
    KeepsR s0 (execTenCqHead t q v s) := by
  unfold execTenCqHead
  exact State.tenWrite_keeps h_s (fun _ h0 => (State.returnCq_keeps h0))

theorem execTenSqCfg_keeps {s0 : State} {t : Fin 64} {q : Fin 8} {v : W64} {s : State} (h_s : Keeps s0 s) :
    KeepsR s0 (execTenSqCfg t q v s) := by
  unfold execTenSqCfg
  exact State.tenWrite_keeps h_s (fun _ h0 => (State.cfgSq_keeps h0))

theorem execTenCqCfg_keeps {s0 : State} {t : Fin 64} {q : Fin 8} {v : W64} {s : State} (h_s : Keeps s0 s) :
    KeepsR s0 (execTenCqCfg t q v s) := by
  unfold execTenCqCfg
  exact State.tenWrite_keeps h_s (fun _ h0 => (State.cfgCq_keeps h0))

theorem execTenInDone_keeps {s0 : State} {t : Fin 64} {v : W64} {s : State} (h_s : Keeps s0 s) :
    KeepsR s0 (execTenInDone t v s) := by
  unfold execTenInDone
  exact State.tenWrite_keeps h_s (fun _ h0 => (State.bufDone_keeps h0))

theorem execTenInFree_keeps {s0 : State} {t : Fin 64} {v : W64} {s : State} (h_s : Keeps s0 s) :
    KeepsR s0 (execTenInFree t v s) := by
  unfold execTenInFree
  exact State.tenWrite_keeps h_s (fun _ h0 => (State.bufFree_keeps h0))

theorem execTenOringCfg_keeps {s0 : State} {t : Fin 64} {r : Fin 1024} {v : W64} {s : State} (h_s : Keeps s0 s) :
    KeepsR s0 (execTenOringCfg t r v s) := by
  unfold execTenOringCfg
  exact State.tenWrite_keeps h_s (fun _ h0 => (State.cfgRing_keeps h0))

theorem execTenOringHead_keeps {s0 : State} {t : Fin 64} {r : Fin 1024} {v : W64} {s : State} (h_s : Keeps s0 s) :
    KeepsR s0 (execTenOringHead t r v s) := by
  unfold execTenOringHead
  exact State.tenWrite_keeps h_s (fun _ h0 => (State.returnRing_keeps h0))

theorem execVectorFire_keeps {s0 : State} {t : Fin 64} {vec : Fin 16} {s : State} (h_s : Keeps s0 s) :
    KeepsR s0 (execVectorFire t vec s) := by
  unfold execVectorFire
  extract_lets -useContext -merge -underBinder x0 x1 x2
  refine KeepsR.next ?_
  refine Keeps.ite ?_ ?_
  · exact (State.onTen_keeps (State.postMsg_keeps h_s))
  · exact h_s

theorem execTenVecMask_keeps {s0 : State} {t : Fin 64} {v : W64} {s : State} (h_s : Keeps s0 s) :
    KeepsR s0 (execTenVecMask t v s) := by
  unfold execTenVecMask
  exact State.tenWrite_keeps h_s (fun _ h0 => (State.maskVecs_keeps h0))

theorem execTenReset_keeps {s0 : State} {t : Fin 64} {v : W64} {s : State} (h_s : Keeps s0 s) :
    KeepsR s0 (execTenReset t v s) := by
  unfold execTenReset
  exact State.tenWrite_keeps h_s (fun _ h0 => (State.tenResetWrite_keeps h0))

theorem execTenantResetEnd_keeps {s0 : State} {t : Fin 64} {s : State} (h_s : Keeps s0 s) :
    KeepsR s0 (execTenantResetEnd t s) := by
  unfold execTenantResetEnd
  refine KeepsR.next ?_
  refine Keeps.ite ?_ ?_
  · exact (State.tenResetFinish_keeps h_s)
  · exact h_s

end Sys2Proof.Machine
end

