-- ==== Sys2Proof/Laws/KeepsFabric.lean ====
section
/-! SUPPORT. What each operation keeps (Keeps.lean): the fabric, power and start-up. -/

namespace Sys2Proof.Machine

theorem State.onFab_keeps {s0 : State} {s : State} {f : Fabric → Fabric} (h_s : Keeps s0 s) :
    Keeps s0 (State.onFab s f) := by
  unfold State.onFab
  exact Keeps.upd h_s

theorem State.steer_keeps {s0 : State} {s : State} (h_s : Keeps s0 s) :
    Keeps s0 (State.steer s) := by
  unfold State.steer
  exact (State.onFab_keeps (State.draw_keeps h_s))

theorem State.applyOffset_keeps {s0 : State} {s : State} {off : Int} (h_s : Keeps s0 s) :
    Keeps s0 (State.applyOffset s off) := by
  unfold State.applyOffset
  extract_lets -useContext -merge -underBinder x0 x1 x2 x3 x4
  have h5 : Keeps s0 x1 := by
    unfold x1
    exact Keeps.upd h_s
  clear_value x1
  have h6 : Keeps s0 x2 := (State.setRf_keeps (State.setRf_keeps h5))
  clear_value x2
  have h7 : Keeps s0 x3 := (State.steer_keeps (State.onFab_keeps h6))
  clear_value x3
  refine Keeps.ite ?_ ?_
  · refine Keeps.ite ?_ ?_
    · exact (State.event_keeps h7)
    · exact h7
  · refine Keeps.ite ?_ ?_
    · exact (State.onFab_keeps h6)
    · exact Keeps.upd h6

theorem State.imgAddr_keeps {s0 : State} {s : State} {v : W64} (h_s : Keeps s0 s) :
    Keeps1 s0 (State.imgAddr s v) := by
  unfold State.imgAddr
  refine Keeps1.ite ?_ ?_
  · refine Keeps1.mk ?_
    exact h_s
  · refine Keeps1.ite ?_ ?_
    · refine Keeps1.mk ?_
      exact h_s
    · refine Keeps1.mk ?_
      exact (State.setReg_keeps h_s)

theorem State.imgData_keeps {s0 : State} {s : State} {v : W64} (h_s : Keeps s0 s) :
    Keeps1 s0 (State.imgData s v) := by
  unfold State.imgData
  refine Keeps1.ite (Keeps1.mk h_s) (Keeps1.mk (State.setReg_keeps ?_))
  exact Keeps.gen h_s (Nat.le_refl _) (bootMem (Memory.write64_wf _ _)) id (List.prefix_refl _)

theorem State.enter_keeps {s0 : State} {s : State} {k : Nat} (h_s : Keeps s0 s) :
    Keeps s0 (State.enter s k) := by
  unfold State.enter
  extract_lets -useContext -merge -underBinder x0 x1
  have h2 : Keeps s0 x0 := (State.setReg_keeps h_s)
  clear_value x0
  exact Keeps.upd h2

theorem State.imgGo_keeps {s0 : State} {s : State} {v : W64} (h_s : Keeps s0 s) :
    Keeps1 s0 (State.imgGo s v) := by
  unfold State.imgGo
  refine Keeps1.ite ?_ ?_
  · refine Keeps1.mk ?_
    exact h_s
  · refine Keeps1.ite ?_ ?_
    · refine Keeps1.mk ?_
      exact (State.enter_keeps h_s)
    · refine Keeps1.mk ?_
      exact h_s

theorem State.rstStatus_keeps {s0 : State} {s : State} {cause : Nat} {st : Nat} (h_s : Keeps s0 s) :
    Keeps s0 (State.rstStatus s cause st) := by
  unfold State.rstStatus
  exact (State.setReg_keeps h_s)

theorem State.startReset_keeps {s0 : State} {s : State} {cause : Nat} {st : Nat} (h_s : Keeps s0 s) :
    Keeps s0 (State.startReset s cause st) := by
  unfold State.startReset
  exact (State.setReg_keeps (State.setReg_keeps (State.rstStatus_keeps h_s)))

theorem State.coldClear_keeps {s0 : State} {s : State} (h_s : Keeps s0 s) :
    Keeps s0 (State.coldClear s) :=
  State.setRf_keeps (State.setReg_keeps (Keeps.gen h_s (Nat.le_refl _) (fun _ => rfl) id (List.prefix_refl _)))

theorem State.coldReset_keeps {s0 : State} {s : State} {cause : Nat} {held : Bool} (h_s : Keeps s0 s) :
    Keeps s0 (State.coldReset s cause held) := by
  unfold State.coldReset
  extract_lets -useContext -merge -underBinder x0 x1
  have h2 : Keeps s0 x0 := (State.startReset_keeps (State.coldClear_keeps h_s))
  clear_value x0
  refine Keeps.ite ?_ ?_
  · exact Keeps.upd h2
  · exact h2

theorem State.warmClear_keeps {s0 : State} {s : State} {unlock : Bool} (h_s : Keeps s0 s) :
    Keeps s0 (State.warmClear s unlock) := by
  refine Keeps.gen h_s (Nat.le_refl _) (fun h => ?_) id (List.prefix_refl _)
  cases unlock <;> simp_all [State.memWf, State.reset]

theorem State.warmReset_keeps {s0 : State} {s : State} {cause : Nat} {unlock : Bool} (h_s : Keeps s0 s) :
    Keeps s0 (State.warmReset s cause unlock) := by
  unfold State.warmReset
  exact (State.startReset_keeps (State.warmClear_keeps h_s))

theorem State.rstCtrl_keeps {s0 : State} {s : State} {mgmt : Bool} {v : W64} (h_s : Keeps s0 s) :
    Keeps s0 (State.rstCtrl s mgmt v) := by
  unfold State.rstCtrl
  refine Keeps.ite ?_ ?_
  · exact h_s
  · refine Keeps.ite ?_ ?_
    · exact (State.coldReset_keeps h_s)
    · refine Keeps.ite ?_ ?_
      · exact (State.warmReset_keeps h_s)
      · exact h_s

theorem State.holdGroups_keeps {s0 : State} {s : State} {p : Nat} (h_s : Keeps s0 s) :
    Keeps s0 (State.holdGroups s p) := by
  unfold State.holdGroups
  extract_lets -useContext -merge -underBinder x0
  exact (State.onPart_keeps h_s)

theorem State.onDir_keeps {s0 : State} {s : State} {sel : ReplicaDir → Bool} {f : ReplicaDir → ReplicaDir} (h_s : Keeps s0 s) :
    Keeps s0 (State.onDir s sel f) := by
  unfold State.onDir
  exact (State.onFab_keeps h_s)

theorem State.dropCopies_keeps {s0 : State} {s : State} {sel : Nat → Nat → Nat → Bool} (h_s : Keeps s0 s) :
    Keeps s0 (State.dropCopies s sel) := by
  unfold State.dropCopies
  exact (State.onDir_keeps (State.onOps_keeps h_s))

theorem State.releaseTable_keeps {s0 : State} {s : State} {t : Nat} (h_s : Keeps s0 s) :
    Keeps s0 (State.releaseTable s t) := by
  unfold State.releaseTable
  extract_lets -useContext -merge -underBinder x0 x1 x2 x3
  refine State.setRf_keeps ?_
  exact Keeps.upd h_s

theorem State.tryRelease_keeps {s0 : State} {s : State} (h_s : Keeps s0 s) :
    Keeps s0 (State.tryRelease s) := by
  unfold State.tryRelease
  extract_lets -useContext -merge -underBinder x0
  refine Keeps.ite ?_ ?_
  · exact (State.releaseTable_keeps h_s)
  · exact h_s

theorem State.replicaSend_keeps {s0 : State} {s : State} {k : Nat} {op : Nat} {t : Nat} {row : Nat} {epoch : Nat} (h_s : Keeps s0 s) :
    Keeps s0 (State.replicaSend s k op t row epoch) := by
  unfold State.replicaSend
  exact (State.linkSend_keeps h_s)

theorem State.invalidate_keeps {s0 : State} {s : State} {e : ReplicaDir} (h_s : Keeps s0 s) :
    Keeps s0 (State.invalidate s e) := by
  unfold State.invalidate
  extract_lets -useContext -merge -underBinder x0 x1
  have h2 : Keeps s0 x1 := (State.onDir_keeps h_s)
  clear_value x1
  refine State.forEach_keeps (fun _ _ h3 => ?_) h2
  exact (State.replicaSend_keeps h3)

theorem State.writeRelease_keeps {s0 : State} {s : State} {v : W64} (h_s : Keeps s0 s) :
    Keeps s0 (State.writeRelease s v) := by
  unfold State.writeRelease
  refine Keeps.ite ?_ ?_
  · exact h_s
  · extract_lets -useContext -merge -underBinder x0 x1 x2 x3 x4
    have h5 : Keeps s0 x1 := (State.setReg_keeps h_s)
    clear_value x1
    have h6 : Keeps s0 x3 := (State.dropCopies_keeps h5)
    clear_value x3
    refine Keeps.ite ?_ ?_
    · exact h5
    · refine State.tryRelease_keeps ?_
      refine State.setRf_keeps ?_
      refine State.forEach_keeps (fun _ _ h7 => ?_) h6
      exact (State.invalidate_keeps h7)

theorem State.portDark_keeps {s0 : State} {s : State} {p : Nat} (h_s : Keeps s0 s) :
    Keeps s0 (State.portDark s p) := by
  unfold State.portDark
  exact (State.onPort_keeps h_s)

theorem State.laserAsk_keeps {s0 : State} {s : State} {p : Nat} {op : Nat} {n : Nat} {value : Nat} (h_s : Keeps s0 s) :
    Keeps s0 (State.laserAsk s p op n value) := by
  unfold State.laserAsk
  exact (State.onPort_keeps (State.send_keeps h_s))

theorem State.lightLanes_keeps {s0 : State} {s : State} {p : Nat} {value : Nat} {l : List Nat} (h_s : Keeps s0 s) :
    Keeps s0 (State.lightLanes s p value l) := by
  unfold State.lightLanes
  refine State.forEach_keeps (fun _ _ h0 => ?_) h_s
  exact (State.onPort_keeps (State.laserAsk_keeps (State.laserAsk_keeps h0)))

theorem State.darkenLanes_keeps {s0 : State} {s : State} {p : Nat} {l : List Nat} (h_s : Keeps s0 s) :
    Keeps s0 (State.darkenLanes s p l) := by
  unfold State.darkenLanes
  refine State.forEach_keeps (fun _ _ h0 => ?_) h_s
  exact (State.onPort_keeps (State.laserAsk_keeps h0))

theorem State.portProbe_keeps {s0 : State} {s : State} {p : Nat} (h_s : Keeps s0 s) :
    Keeps s0 (State.portProbe s p) := by
  unfold State.portProbe
  extract_lets -useContext -merge -underBinder x0 x1
  exact (State.lightLanes_keeps (State.darkenLanes_keeps (State.onPort_keeps h_s)))

theorem State.portRestart_keeps {s0 : State} {s : State} {p : Nat} (h_s : Keeps s0 s) :
    Keeps s0 (State.portRestart s p) := by
  unfold State.portRestart
  extract_lets -useContext -merge -underBinder x0 x1 x2
  refine Keeps.ite ?_ ?_
  · exact (State.portDark_keeps h_s)
  · refine Keeps.ite ?_ ?_
    · exact (State.onPort_keeps (State.portDark_keeps h_s))
    · exact (State.portProbe_keeps (State.onPort_keeps h_s))

theorem State.settleCopies_keeps {s0 : State} {s : State} (h_s : Keeps s0 s) :
    Keeps s0 (State.settleCopies s) := by
  unfold State.settleCopies
  refine State.forEach_keeps (fun _ _ h0 => ?_) h_s
  split
  · extract_lets -useContext -merge -underBinder x1
    have h2 : Keeps s0 x1 := (State.onOps_keeps h0)
    clear_value x1
    refine Keeps.ite ?_ ?_
    · exact h2
    · exact (State.onDir_keeps h2)
  · exact h0

theorem State.settleOps_keeps {s0 : State} {s : State} (h_s : Keeps s0 s) :
    Keeps s0 (State.settleOps s) := by
  unfold State.settleOps
  exact (State.settleNotes_keeps (State.settleCopies_keeps (State.settleReplies_keeps (State.settleFills_keeps (State.settleRods_keeps h_s)))))

theorem State.failOps_keeps {s0 : State} {s : State} {k : Nat} {resp : Nat} (h_s : Keeps s0 s) :
    Keeps s0 (State.failOps s k resp) := by
  unfold State.failOps
  extract_lets -useContext -merge -underBinder x0
  refine State.settleOps_keeps ?_
  refine State.opsFail_keeps ?_
  refine State.forEach_keeps (fun _ _ h1 => ?_) h_s
  exact (State.onRod_keeps h1)

theorem State.clearSharer_keeps {s0 : State} {s : State} {sel : ReplicaDir → Bool} {k : Nat} (h_s : Keeps s0 s) :
    Keeps s0 (State.clearSharer s sel k) := by
  unfold State.clearSharer
  exact (State.tryRelease_keeps (State.onDir_keeps h_s))

theorem State.peerGone_keeps {s0 : State} {s : State} {k : Nat} (h_s : Keeps s0 s) :
    Keeps s0 (State.peerGone s k) := by
  unfold State.peerGone
  extract_lets -useContext -merge -underBinder x0 x1 x2
  have h3 : Keeps s0 x1 := (State.failOps_keeps (State.setPeer_keeps h_s))
  clear_value x1
  have h4 : Keeps s0 x2 := (State.onFab_keeps h3)
  clear_value x2
  exact (State.event_keeps (State.clearSharer_keeps h4))

theorem State.linkDown_keeps {s0 : State} {s : State} {p : Nat} (h_s : Keeps s0 s) :
    Keeps s0 (State.linkDown s p) := by
  unfold State.linkDown
  split
  · exact (State.portRestart_keeps h_s)
  · extract_lets -useContext -merge -underBinder x0
    have h1 : Keeps s0 x0 := (State.portRestart_keeps (State.peerGone_keeps h_s))
    clear_value x0
    split
    · exact h1
    · exact (State.portRestart_keeps (State.setPeer_keeps h1))

theorem State.bootFail_keeps {s0 : State} {s : State} {cause : Nat} (h_s : Keeps s0 s) :
    Keeps s0 (State.bootFail s cause) := by
  unfold State.bootFail
  exact (State.setReg_keeps h_s)

theorem State.fatal_keeps {s0 : State} {s : State} {cause : Nat} {detail : Nat} (h_s : Keeps s0 s) :
    Keeps s0 (State.fatal s cause detail) := by
  unfold State.fatal
  exact (State.event_keeps (State.setReg_keeps h_s))

theorem State.discardGroup_keeps {s0 : State} {s : State} {p : Nat} {again : Bool} (h_s : Keeps s0 s) :
    Keeps s0 (State.discardGroup s p again) := by
  unfold State.discardGroup
  extract_lets -useContext -merge -underBinder x0 x1 x2
  have h3 : Keeps s0 x2 := (State.bump_keeps h_s)
  clear_value x2
  refine Keeps.ite ?_ ?_
  · exact (State.setPort_keeps h3)
  · exact (State.send_keeps (State.setPort_keeps h3))

theorem State.downIf_keeps {s0 : State} {s : State} {p : Nat} (h_s : Keeps s0 s) :
    Keeps s0 (State.downIf s p) := by
  unfold State.downIf
  refine Keeps.ite ?_ ?_
  · exact (State.linkDown_keeps h_s)
  · exact h_s

theorem State.failGroup_keeps {s0 : State} {s : State} {p : Nat} (h_s : Keeps s0 s) :
    Keeps s0 (State.failGroup s p) := by
  unfold State.failGroup
  extract_lets -useContext -merge -underBinder x0 x1 x2
  have h3 : Keeps s0 x2 := (State.setPort_keeps h_s)
  clear_value x2
  refine Keeps.ite ?_ ?_
  · exact (State.linkDown_keeps (State.bump_keeps h3))
  · exact (State.discardGroup_keeps h3)

theorem State.haltParts_keeps {s0 : State} {s : State} (h_s : Keeps s0 s) :
    Keeps s0 (State.haltParts s) := by
  unfold State.haltParts
  refine State.forEach_keeps (fun _ _ h0 => ?_) h_s
  refine Keeps.ite ?_ ?_
  · exact (State.onPart_keeps h0)
  · exact h0

theorem State.spdmSend_keeps {s0 : State} {s : State} {p : Nat} {id : PartnerId} {resp : Bool} (h_s : Keeps s0 s) :
    Keeps s0 (State.spdmSend s p id resp) := by
  unfold State.spdmSend
  extract_lets -useContext -merge -underBinder x0 x1 x2 x3 x4 x5
  have h6 : Keeps2 s0 x1 := (State.drawMany_keeps h_s)
  clear_value x1
  have h7 : Keeps s0 x5 := (State.setPeer_keeps h6)
  clear_value x5
  refine Keeps.ite ?_ ?_
  · exact h7
  · exact (State.linkSend_keeps h7)

theorem State.spdmBegin_keeps {s0 : State} {s : State} {p : Nat} (h_s : Keeps s0 s) :
    Keeps s0 (State.spdmBegin s p) := by
  unfold State.spdmBegin
  split
  · refine Keeps.ite ?_ ?_
    · exact (State.spdmSend_keeps h_s)
    · exact h_s
  · exact h_s

theorem State.mgmtReply_keeps {s0 : State} {x : State × Bool} (h_x : Keeps1 s0 x) :
    Keeps s0 (State.mgmtReply x) := by
  unfold State.mgmtReply
  exact (State.send_keeps h_x)

theorem State.takeRequest_keeps {s0 : State} {s : State} {p : Nat} {sel : Nat → Bool} (h_s : Keeps s0 s) :
    KeepsO s0 (State.takeRequest s p sel) := by
  unfold State.takeRequest
  split
  · refine KeepsO.ite ?_ ?_
    · refine KeepsO.some ?_
      refine Keeps2.mk ?_
      exact (State.onPort_keeps h_s)
    · exact KeepsO.none
  · exact KeepsO.none

theorem State.raisePresent_keeps {s0 : State} {s : State} (h_s : Keeps s0 s) :
    Keeps s0 (State.raisePresent s) := by
  unfold State.raisePresent
  refine Keeps.ite ?_ ?_
  · exact h_s
  · refine State.forEach_keeps (fun _ _ h0 => ?_) ?_
    · refine Keeps.ite ?_ ?_
      · exact (State.setChan_keeps h0)
      · exact (State.setChan_keeps h0)
    · exact Keeps.upd h_s

theorem State.raiseStep_keeps {s0 : State} {s : State} (h_s : Keeps s0 s) :
    Keeps s0 (State.raiseStep s) := by
  unfold State.raiseStep
  extract_lets -useContext -merge -underBinder x0 x1
  refine Keeps.ite ?_ ?_
  · exact Keeps.upd h_s
  · exact h_s

theorem State.refusePartner_keeps {s0 : State} {s : State} {p : Nat} {k : Nat} {cause : Nat} (h_s : Keeps s0 s) :
    Keeps s0 (State.refusePartner s p k cause) := by
  unfold State.refusePartner
  extract_lets -useContext -merge -underBinder x0 x1 x2
  have h3 : Keeps s0 x0 := (State.ctrlSend_keeps h_s)
  clear_value x0
  have h4 : Keeps s0 x2 := by
    unfold x2
    refine Keeps.ite ?_ ?_
    · exact h3
    · exact (State.setPeer_keeps h3)
  clear_value x2
  exact (State.portRestart_keeps (State.event_keeps (State.onFab_keeps h4)))

theorem State.replayGroups_keeps {s0 : State} {s : State} {p : Nat} {ack : Nat} (h_s : Keeps s0 s) :
    Keeps s0 (State.replayGroups s p ack) := by
  unfold State.replayGroups
  extract_lets -useContext -merge -underBinder x0 x1
  refine State.forEach_keeps (fun _ _ h2 => ?_) (State.setPort_keeps h_s)
  exact (State.send_keeps h2)

theorem State.stopPrbs_keeps {s0 : State} {s : State} {p : Nat} {n : Nat} (h_s : Keeps s0 s) :
    Keeps s0 (State.stopPrbs s p n) := by
  unfold State.stopPrbs
  extract_lets -useContext -merge -underBinder x0
  refine Keeps.ite ?_ ?_
  · exact (State.setReg_keeps (State.setRf_keeps h_s))
  · exact h_s

theorem State.rxLaneFails_keeps {s0 : State} {s : State} {p : Nat} {n : Nat} (h_s : Keeps s0 s) :
    Keeps s0 (State.rxLaneFails s p n) := by
  unfold State.rxLaneFails
  extract_lets -useContext -merge -underBinder x0 x1 x2
  have h3 : ∀ (a0 : Nat) (a1 : Bool) (a2 : Nat → List (Nat × Nat)), Keeps s0 (x2 a0 a1 a2) := by
    unfold x2
    refine fun _ _ _ => ?_
    split
    · exact (State.linkDown_keeps h_s)
    · extract_lets -useContext -merge -underBinder x4
      have h5 : Keeps s0 x4 := (State.stopPrbs_keeps (State.setPort_keeps h_s))
      clear_value x4
      refine Keeps.ite ?_ ?_
      · exact (State.ctrlSend_keeps h5)
      · exact h5
  clear_value x2
  refine Keeps.ite ?_ ?_
  · exact h_s
  · split
    · exact (h3 _ _ _)
    · exact (h3 _ _ _)
    · exact (State.setPort_keeps h_s)

theorem State.sourceFault_keeps {s0 : State} {s : State} {p : Nat} {n : Nat} (h_s : Keeps s0 s) :
    Keeps s0 (State.sourceFault s p n) := by
  unfold State.sourceFault
  extract_lets -useContext -merge -underBinder x0 x1
  have h2 : Keeps s0 x1 := (State.adviseLanes_keeps (State.onPort_keeps h_s))
  clear_value x1
  refine Keeps.ite ?_ ?_
  · exact (State.linkDown_keeps h2)
  · exact h2

theorem State.sideBand_keeps {s0 : State} {s : State} {p : Nat} {op : Nat} {n : Nat} {value : Nat} {r : LaserReply} {f : State → State} (h_s : Keeps s0 s) (h_f : ∀ (a0 : State), Keeps s0 a0 → Keeps s0 (f a0)) :
    Keeps s0 (State.sideBand s p op n value r f) := by
  unfold State.sideBand
  refine Keeps.ite ?_ ?_
  · exact h_s
  · extract_lets -useContext -merge -underBinder x0
    have h1 : Keeps s0 x0 := by
      unfold x0
      refine Keeps.ite ?_ ?_
      · exact (State.onPort_keeps h_s)
      · exact (State.send_keeps h_s)
    clear_value x0
    refine Keeps.ite ?_ ?_
    · exact (h_f _ h1)
    · refine Keeps.ite ?_ ?_
      · exact h1
      · exact (State.sourceFault_keeps h1)

theorem State.spdmTake_keeps {s0 : State} {s : State} {p : Nat} {bs : List Byte} (h_s : Keeps s0 s) :
    Keeps s0 (State.spdmTake s p bs) := by
  unfold State.spdmTake
  split
  · exact (State.spdmSend_keeps (State.onPort_keeps h_s))
  · exact h_s

theorem State.startUp_keeps {s0 : State} {s : State} (h_s : Keeps s0 s) :
    Keeps s0 (State.startUp s) := by
  unfold State.startUp
  extract_lets -useContext -merge -underBinder x0 x1
  have h2 : Keeps s0 x0 := (State.setReg_keeps (State.setRf_keeps h_s))
  clear_value x0
  exact Keeps.upd h2

theorem State.stepDown_keeps {s0 : State} {s : State} {f : Nat} (h_s : Keeps s0 s) :
    Keeps s0 (State.stepDown s f) := by
  unfold State.stepDown
  refine Keeps.ite ?_ ?_
  · exact h_s
  · extract_lets -useContext -merge -underBinder x0 x1
    have h2 : Keeps s0 x1 := by
      unfold x1
      exact Keeps.upd h_s
    clear_value x1
    refine Keeps.ite ?_ ?_
    · exact h2
    · exact (State.event_keeps h2)

theorem State.swapConfirmed_keeps {s0 : State} {s : State} {p : Nat} {lane : Nat} {spare : Nat} (h_s : Keeps s0 s) :
    Keeps s0 (State.swapConfirmed s p lane spare) := by
  unfold State.swapConfirmed
  extract_lets -useContext -merge -underBinder x0
  refine Keeps.ite ?_ ?_
  · exact h_s
  · exact (State.adviseLanes_keeps (State.bump_keeps (State.setPort_keeps h_s)))

theorem State.tagTwice_keeps {s0 : State} {s : State} {p : Nat} {g : Group} (h_s : Keeps s0 s) :
    Keeps s0 (State.tagTwice s p g) := by
  unfold State.tagTwice
  extract_lets -useContext -merge -underBinder x0 x1 x2 x3
  have h4 : Keeps s0 x3 := by
    unfold x3
    refine State.forEach_keeps (fun _ _ h5 => ?_) h_s
    refine Keeps.ite ?_ ?_
    · exact (State.onRod_keeps h5)
    · exact (State.settleOps_keeps (State.opsFail_keeps h5))
  clear_value x3
  exact (State.linkDown_keeps (State.event_keeps (State.bump_keeps h4)))

theorem State.takeResponse_keeps {s0 : State} {s : State} {src : Nat} {f : Flit} (h_s : Keeps s0 s) :
    Keeps s0 (State.takeResponse s src f) := by
  unfold State.takeResponse
  refine Keeps.ite ?_ ?_
  · exact (State.onRod_keeps h_s)
  · exact (State.settleOps_keeps (State.unitResponse_keeps h_s))

theorem State.takeFlit_keeps {s0 : State} {s : State} {p : Nat} {n : Nat} {f : Flit} (h_s : Keeps s0 s) :
    Keeps s0 (State.takeFlit s p n f) := by
  unfold State.takeFlit
  extract_lets -useContext -merge -underBinder x0 x1 x2
  have h3 : ∀ (a0 : State), Keeps s0 a0 → Keeps s0 (x1 a0) := by
    unfold x1
    refine fun _ h4 => ?_
    exact (State.onPort_keeps h4)
  clear_value x1
  refine Keeps.ite ?_ ?_
  · exact (State.bump_keeps (h3 _ h_s))
  · refine Keeps.ite ?_ ?_
    · exact h_s
    · refine Keeps.ite ?_ ?_
      · exact (State.takeResponse_keeps (h3 _ h_s))
      · refine Keeps.ite ?_ ?_
        · refine Keeps.ite ?_ ?_
          · exact (State.swapConfirmed_keeps (h3 _ h_s))
          · exact (h3 _ h_s)
        · refine Keeps.ite ?_ ?_
          · exact (State.spdmTake_keeps (h3 _ h_s))
          · refine Keeps.ite ?_ ?_
            · exact h_s
            · refine Keeps.ite ?_ ?_
              · refine Keeps.ite ?_ ?_
                · exact h_s
                · exact (State.onPort_keeps h_s)
              · exact (State.onPort_keeps (h3 _ h_s))

theorem State.takeInbox_keeps {s0 : State} {s : State} {p : Nat} {sel : Nat → Bool} (h_s : Keeps s0 s) :
    KeepsO s0 (State.takeInbox s p sel) := by
  unfold State.takeInbox
  intro x hx
  obtain ⟨r, _, rfl⟩ := Option.map_eq_some_iff.mp hx
  dsimp only
  exact State.onPort_keeps h_s

theorem State.throttleOver_keeps {s0 : State} {s : State} (h_s : Keeps s0 s) :
    Keeps s0 (State.throttleOver s) := by
  unfold State.throttleOver
  refine State.forEach_keeps (fun _ _ h0 => ?_) h_s
  exact (State.startPart_keeps (State.holdGroups_keeps h0))

theorem State.warnStep_keeps {s0 : State} {s : State} (h_s : Keeps s0 s) :
    Keeps s0 (State.warnStep s) := by
  unfold State.warnStep
  extract_lets -useContext -merge -underBinder x0
  refine Keeps.ite ?_ ?_
  · exact (State.stepDown_keeps h_s)
  · exact h_s

theorem execGthTblRelease_keeps {s0 : State} {v : W64} {s : State} (h_s : Keeps s0 s) :
    KeepsR s0 (execGthTblRelease v s) := by
  unfold execGthTblRelease
  refine KeepsR.next ?_
  refine Keeps.ite ?_ ?_
  · exact (State.writeRelease_keeps h_s)
  · exact h_s

theorem execReplicaGrant_keeps {s0 : State} {tbl : Fin 1024} {row : BitVec 32} {sharer : Fin 8} {s : State} (h_s : Keeps s0 s) :
    KeepsR s0 (execReplicaGrant tbl row sharer s) := by
  unfold execReplicaGrant
  extract_lets -useContext -merge -underBinder x0
  refine KeepsR.next ?_
  split
  · exact h_s
  · refine Keeps.ite ?_ ?_
    · exact h_s
    · exact (State.replicaSend_keeps (State.onDir_keeps h_s))

theorem execReplicaInvalidate_keeps {s0 : State} {tbl : Fin 1024} {row : BitVec 32} {s : State} (h_s : Keeps s0 s) :
    KeepsR s0 (execReplicaInvalidate tbl row s) := by
  unfold execReplicaInvalidate
  refine KeepsR.next ?_
  refine Keeps.ite ?_ ?_
  · exact h_s
  · extract_lets -useContext -merge -underBinder x0
    have h1 : Keeps s0 x0 := (State.dropCopies_keeps (State.journal_keeps h_s))
    clear_value x0
    refine State.forEach_keeps (fun _ _ h2 => ?_) h1
    exact (State.invalidate_keeps h2)

theorem execInvalReceive_keeps {s0 : State} {port : Fin 8} {s : State} (h_s : Keeps s0 s) :
    KeepsR s0 (execInvalReceive port s) := by
  unfold execInvalReceive
  refine KeepsR.next ?_
  split
  · exact h_s
  · rename_i v0 v1 e2
    have h3 := KeepsO.elim e2 (State.takeRequest_keeps h_s)
    refine Keeps.ite ?_ ?_
    · exact h_s
    · extract_lets -useContext -merge -underBinder x4 x5
      exact (State.replicaSend_keeps (State.onFab_keeps h3))

theorem execInvalReplyReceive_keeps {s0 : State} {port : Fin 8} {s : State} (h_s : Keeps s0 s) :
    KeepsR s0 (execInvalReplyReceive port s) := by
  unfold execInvalReplyReceive
  refine KeepsR.next ?_
  split
  · exact h_s
  · rename_i v0 v1 e2
    have h3 := KeepsO.elim e2 (State.takeInbox_keeps h_s)
    refine Keeps.ite ?_ ?_
    · exact h_s
    · exact (State.clearSharer_keeps h3)

theorem execInvalRetry_keeps {s0 : State} {tbl : Fin 1024} {row : BitVec 32} {sharer : Fin 8} {s : State} (h_s : Keeps s0 s) :
    KeepsR s0 (execInvalRetry tbl row sharer s) := by
  unfold execInvalRetry
  extract_lets -useContext -merge -underBinder x0
  refine KeepsR.next ?_
  split
  · exact h_s
  · extract_lets -useContext -merge -underBinder x1
    refine Keeps.ite ?_ ?_
    · exact h_s
    · refine Keeps.ite ?_ ?_
      · exact (State.replicaSend_keeps (State.onDir_keeps h_s))
      · exact (State.linkDown_keeps h_s)

theorem execGrantReceive_keeps {s0 : State} {port : Fin 8} {s : State} (h_s : Keeps s0 s) :
    KeepsR s0 (execGrantReceive port s) := by
  unfold execGrantReceive
  refine KeepsR.next ?_
  split
  · exact h_s
  · rename_i v0 v1 e2
    have h3 := KeepsO.elim e2 (State.takeRequest_keeps h_s)
    refine Keeps.ite ?_ ?_
    · exact h_s
    · extract_lets -useContext -merge -underBinder x4 x5 x6
      exact (State.onFab_keeps h3)

theorem execEvict_keeps {s0 : State} {home : Fin 8} {tbl : Fin 1024} {row : BitVec 32} {s : State} (h_s : Keeps s0 s) :
    KeepsR s0 (execEvict home tbl row s) := by
  unfold execEvict
  refine KeepsR.next ?_
  split
  · exact h_s
  · refine Keeps.ite ?_ ?_
    · exact h_s
    · exact (State.replicaSend_keeps (State.onFab_keeps h_s))

theorem execEvictReceive_keeps {s0 : State} {port : Fin 8} {s : State} (h_s : Keeps s0 s) :
    KeepsR s0 (execEvictReceive port s) := by
  unfold execEvictReceive
  refine KeepsR.next ?_
  split
  · exact h_s
  · rename_i v0 v1 e2
    have h3 := KeepsO.elim e2 (State.takeRequest_keeps h_s)
    refine Keeps.ite ?_ ?_
    · exact h_s
    · extract_lets -useContext -merge -underBinder x4 x5
      refine Keeps.ite ?_ ?_
      · exact (State.clearSharer_keeps h3)
      · exact (State.bump_keeps h3)

theorem execGroupReceive_keeps {s0 : State} {port : Fin 8} {g : Group} {s : State} (h_s : Keeps s0 s) :
    KeepsR s0 (execGroupReceive port g s) := by
  unfold execGroupReceive
  extract_lets -useContext -merge -underBinder x0 x1 x2 x3 x4
  have h5 : Keeps s0 x2 := (State.bump_keeps h_s)
  clear_value x2
  refine KeepsR.next ?_
  refine Keeps.ite ?_ ?_
  · exact h_s
  · refine Keeps.ite ?_ ?_
    · refine Keeps.ite ?_ ?_
      · exact (State.replayGroups_keeps h_s)
      · exact h_s
    · refine Keeps.ite ?_ ?_
      · exact (State.discardGroup_keeps h_s)
      · refine Keeps.ite ?_ ?_
        · exact (State.failGroup_keeps h_s)
        · refine Keeps.ite ?_ ?_
          · refine Keeps.ite ?_ ?_
            · exact (State.tagTwice_keeps h5)
            · exact (State.failGroup_keeps (State.setPort_keeps h5))
          · refine State.drainWaiting_keeps ?_
            refine State.forEach_keeps (fun _ _ h6 => ?_) (State.setPort_keeps h_s)
            exact (State.takeFlit_keeps h6)

theorem execNakReceive_keeps {s0 : State} {port : Fin 8} {ack : BitVec 20} {s : State} (h_s : Keeps s0 s) :
    KeepsR s0 (execNakReceive port ack s) := by
  unfold execNakReceive
  refine KeepsR.next ?_
  refine Keeps.ite ?_ ?_
  · exact (State.replayGroups_keeps h_s)
  · exact h_s

theorem execLaneWindow_keeps {s0 : State} {port : Fin 8} {counts : List Nat} {s : State} (h_s : Keeps s0 s) :
    KeepsR s0 (execLaneWindow port counts s) := by
  unfold execLaneWindow
  refine KeepsR.next ?_
  refine State.adviseLanes_keeps ?_
  refine State.forEach_keeps (fun _ _ h0 => ?_) h_s
  extract_lets -useContext -merge -underBinder x1 x2
  refine Keeps.ite ?_ ?_
  · exact h0
  · refine Keeps.ite ?_ ?_
    · refine Keeps.ite ?_ ?_
      · exact (State.rxLaneFails_keeps h0)
      · exact h0
    · refine Keeps.ite ?_ ?_
      · exact (State.rxLaneFails_keeps h0)
      · exact h0

theorem execLaneFail_keeps {s0 : State} {port : Fin 8} {lane : Fin 36} {cause : LaneCause} {s : State} (h_s : Keeps s0 s) :
    KeepsR s0 (execLaneFail port lane cause s) := by
  unfold execLaneFail
  refine KeepsR.next ?_
  refine Keeps.ite ?_ ?_
  · exact h_s
  · split
    · exact (State.adviseLanes_keeps (State.rxLaneFails_keeps h_s))
    · exact (State.adviseLanes_keeps (State.rxLaneFails_keeps h_s))
    · exact (State.adviseLanes_keeps (State.rxLaneFails_keeps h_s))

theorem execLaneSwapReceive_keeps {s0 : State} {port : Fin 8} {lane : Fin 32} {spare : Fin 36} {s : State} (h_s : Keeps s0 s) :
    KeepsR s0 (execLaneSwapReceive port lane spare s) := by
  unfold execLaneSwapReceive
  extract_lets -useContext -merge -underBinder x0 x1
  refine KeepsR.next ?_
  refine Keeps.ite ?_ ?_
  · exact h_s
  · exact (State.stopPrbs_keeps (State.setPort_keeps h_s))

theorem execLaneSwapComplete_keeps {s0 : State} {port : Fin 8} {s : State} (h_s : Keeps s0 s) :
    KeepsR s0 (execLaneSwapComplete port s) := by
  unfold execLaneSwapComplete
  extract_lets -useContext -merge -underBinder x0 x1
  refine KeepsR.next ?_
  split
  · exact h_s
  · refine Keeps.ite ?_ ?_
    · exact h_s
    · extract_lets -useContext -merge -underBinder x2
      have h3 : Keeps s0 x2 := (State.ctrlSend_keeps (State.bump_keeps (State.setPort_keeps h_s)))
      clear_value x2
      split
      · exact h3
      · exact (State.ctrlSend_keeps h3)

theorem execProbeLightSeen_keeps {s0 : State} {port : Fin 8} {s : State} (h_s : Keeps s0 s) :
    KeepsR s0 (execProbeLightSeen port s) := by
  unfold execProbeLightSeen
  refine KeepsR.next ?_
  refine Keeps.ite ?_ ?_
  · exact (State.lightLanes_keeps (State.onPort_keeps h_s))
  · exact h_s

theorem execLightLost_keeps {s0 : State} {port : Fin 8} {s : State} (h_s : Keeps s0 s) :
    KeepsR s0 (execLightLost port s) := by
  unfold execLightLost
  refine KeepsR.next ?_
  refine Keeps.ite ?_ ?_
  · exact h_s
  · split
    · exact h_s
    · exact h_s
    · exact (State.portProbe_keeps h_s)
    · exact (State.linkDown_keeps h_s)

theorem execFrameLock_keeps {s0 : State} {port : Fin 8} {s : State} (h_s : Keeps s0 s) :
    KeepsR s0 (execFrameLock port s) := by
  unfold execFrameLock
  refine KeepsR.next ?_
  refine Keeps.ite ?_ ?_
  · extract_lets -useContext -merge -underBinder x0
    have h1 : Keeps s0 x0 := (State.onPort_keeps h_s)
    clear_value x0
    exact (State.send_keeps (State.linkSend_keeps h1))
  · exact h_s

theorem execIdentityReceive_keeps {s0 : State} {port : Fin 8} {id : PartnerId} {s : State} (h_s : Keeps s0 s) :
    KeepsR s0 (execIdentityReceive port id s) := by
  unfold execIdentityReceive
  extract_lets -useContext -merge -underBinder x0 x1 x2 x3
  have h4 : Keeps s0 x3 := (State.setPeer_keeps (State.onPort_keeps h_s))
  clear_value x3
  refine KeepsR.next ?_
  refine Keeps.ite ?_ ?_
  · exact h_s
  · refine Keeps.ite ?_ ?_
    · exact (State.refusePartner_keeps h_s)
    · refine Keeps.ite ?_ ?_
      · exact (State.onPort_keeps h_s)
      · refine Keeps.ite ?_ ?_
        · exact (State.setReg_keeps h4)
        · exact h4

theorem execSpdmSessionComplete_keeps {s0 : State} {port : Fin 8} {ok : Bool} {identity : List Byte} {s : State} (h_s : Keeps s0 s) :
    KeepsR s0 (execSpdmSessionComplete port ok identity s) := by
  unfold execSpdmSessionComplete
  extract_lets -useContext -merge -underBinder x0
  refine KeepsR.next ?_
  split
  · exact h_s
  · extract_lets -useContext -merge -underBinder x1 x2
    refine Keeps.ite ?_ ?_
    · exact h_s
    · refine Keeps.ite ?_ ?_
      · exact (State.refusePartner_keeps h_s)
      · exact (State.setPeer_keeps (State.onPort_keeps h_s))

theorem execPeerPresent_keeps {s0 : State} {port : Fin 8} {s : State} (h_s : Keeps s0 s) :
    KeepsR s0 (execPeerPresent port s) := by
  unfold execPeerPresent
  extract_lets -useContext -merge -underBinder x0
  refine KeepsR.next ?_
  split
  · exact h_s
  · extract_lets -useContext -merge -underBinder x1 x2 x3 x4 x5 x6 x7
    have h8 : Keeps s0 x4 := (State.adviseLanes_keeps (State.onPort_keeps h_s))
    clear_value x4
    have h9 : Keeps s0 x6 := (State.setPeer_keeps h8)
    clear_value x6
    have h10 : Keeps s0 x7 := (State.onFab_keeps h9)
    clear_value x7
    refine Keeps.ite ?_ ?_
    · exact h_s
    · refine Keeps.ite ?_ ?_
      · exact (State.poolLost_keeps h10)
      · exact h10

theorem execLinkDown_keeps {s0 : State} {port : Fin 8} {s : State} (h_s : Keeps s0 s) :
    KeepsR s0 (execLinkDown port s) := by
  unfold execLinkDown
  exact KeepsR.next (State.downIf_keeps h_s)

theorem execVerifiedGroupSilence_keeps {s0 : State} {port : Fin 8} {s : State} (h_s : Keeps s0 s) :
    KeepsR s0 (execVerifiedGroupSilence port s) := by
  unfold execVerifiedGroupSilence
  exact KeepsR.next (State.downIf_keeps h_s)

theorem execCtrlLeaveReceive_keeps {s0 : State} {port : Fin 8} {s : State} (h_s : Keeps s0 s) :
    KeepsR s0 (execCtrlLeaveReceive port s) := by
  unfold execCtrlLeaveReceive
  exact KeepsR.next (State.downIf_keeps h_s)

theorem execPortHoldDarkEnd_keeps {s0 : State} {port : Fin 8} {s : State} (h_s : Keeps s0 s) :
    KeepsR s0 (execPortHoldDarkEnd port s) := by
  unfold execPortHoldDarkEnd
  refine KeepsR.next ?_
  split
  · refine Keeps.ite ?_ ?_
    · exact (State.portProbe_keeps h_s)
    · exact h_s
  · exact h_s

theorem execKeyUpdate_keeps {s0 : State} {port : Fin 8} {s : State} (h_s : Keeps s0 s) :
    KeepsR s0 (execKeyUpdate port s) := by
  unfold execKeyUpdate
  extract_lets -useContext -merge -underBinder x0 x1
  refine KeepsR.next ?_
  refine Keeps.ite ?_ ?_
  · exact (State.onPort_keeps (State.ctrlSend_keeps h_s))
  · exact h_s

theorem execKeySwitchReceive_keeps {s0 : State} {port : Fin 8} {boundary : BitVec 20} {s : State} (h_s : Keeps s0 s) :
    KeepsR s0 (execKeySwitchReceive port boundary s) := by
  unfold execKeySwitchReceive
  refine KeepsR.next ?_
  refine Keeps.ite ?_ ?_
  · exact (State.onPort_keeps h_s)
  · exact h_s

theorem execSyncTimer_keeps {s0 : State} {s : State} (h_s : Keeps s0 s) :
    KeepsR s0 (execSyncTimer s) := by
  unfold execSyncTimer
  extract_lets -useContext -merge -underBinder x0 x1 x2
  refine KeepsR.next ?_
  refine Keeps.ite ?_ ?_
  · exact h_s
  · exact (State.linkSend_keeps (State.onPort_keeps h_s))

theorem execSyncReq_keeps {s0 : State} {port : Fin 8} {s : State} (h_s : Keeps s0 s) :
    KeepsR s0 (execSyncReq port s) := by
  unfold execSyncReq
  refine KeepsR.next ?_
  split
  · exact h_s
  · rename_i v0 v1 e2
    have h3 := KeepsO.elim e2 (State.takeInbox_keeps h_s)
    refine Keeps.ite ?_ ?_
    · exact h_s
    · exact (State.linkSend_keeps h3)

theorem execSyncRsp_keeps {s0 : State} {port : Fin 8} {s : State} (h_s : Keeps s0 s) :
    KeepsR s0 (execSyncRsp port s) := by
  unfold execSyncRsp
  refine KeepsR.next ?_
  split
  · exact h_s
  · rename_i v0 v1 e2
    have h3 := KeepsO.elim e2 (State.takeInbox_keeps h_s)
    refine Keeps.ite ?_ ?_
    · exact h_s
    · extract_lets -useContext -merge -underBinder x4 x5
      have h6 : Keeps s0 x5 := (State.onPort_keeps h3)
      clear_value x5
      split
      · exact h3
      · refine Keeps.ite ?_ ?_
        · exact h6
        · extract_lets -useContext -merge -underBinder x7
          exact (State.applyOffset_keeps h6)

theorem execIdent_keeps {s0 : State} {port : Fin 8} {source : Fin 36} {reply : LaserReply} {s : State} (h_s : Keeps s0 s) :
    KeepsR s0 (execIdent port source reply s) := by
  unfold execIdent
  refine KeepsR.next ?_
  exact State.sideBand_keeps h_s (fun _ h0 => h0)

theorem execStatus_keeps {s0 : State} {port : Fin 8} {source : Fin 36} {reply : LaserReply} {s : State} (h_s : Keeps s0 s) :
    KeepsR s0 (execStatus port source reply s) := by
  unfold execStatus
  refine KeepsR.next ?_
  refine State.sideBand_keeps h_s (fun _ h0 => ?_)
  extract_lets -useContext -merge -underBinder x1
  have h2 : Keeps s0 x1 := (State.onPort_keeps h0)
  clear_value x1
  refine Keeps.ite ?_ ?_
  · exact (State.sourceFault_keeps h2)
  · exact h2

theorem execSetPower_keeps {s0 : State} {port : Fin 8} {source : Fin 36} {value : BitVec 16} {reply : LaserReply} {s : State} (h_s : Keeps s0 s) :
    KeepsR s0 (execSetPower port source value reply s) := by
  unfold execSetPower
  refine KeepsR.next ?_
  exact State.sideBand_keeps h_s (fun _ h0 => h0)

theorem execLight_keeps {s0 : State} {port : Fin 8} {source : Fin 36} {lit : Bool} {reply : LaserReply} {s : State} (h_s : Keeps s0 s) :
    KeepsR s0 (execLight port source lit reply s) := by
  unfold execLight
  refine KeepsR.next ?_
  exact State.sideBand_keeps h_s (fun _ h0 => (State.onPort_keeps h0))

theorem execReadPower_keeps {s0 : State} {port : Fin 8} {source : Fin 36} {reply : LaserReply} {s : State} (h_s : Keeps s0 s) :
    KeepsR s0 (execReadPower port source reply s) := by
  unfold execReadPower
  refine KeepsR.next ?_
  exact State.sideBand_keeps h_s (fun _ h0 => h0)

theorem execReadTemp_keeps {s0 : State} {port : Fin 8} {source : Fin 36} {reply : LaserReply} {s : State} (h_s : Keeps s0 s) :
    KeepsR s0 (execReadTemp port source reply s) := by
  unfold execReadTemp
  refine KeepsR.next ?_
  exact State.sideBand_keeps h_s (fun _ h0 => h0)

theorem execLaserReplyTimeout_keeps {s0 : State} {port : Fin 8} {source : Fin 36} {s : State} (h_s : Keeps s0 s) :
    KeepsR s0 (execLaserReplyTimeout port source s) := by
  unfold execLaserReplyTimeout
  refine KeepsR.next ?_
  refine Keeps.ite ?_ ?_
  · exact (State.sourceFault_keeps (State.onPort_keeps h_s))
  · exact h_s

theorem execLaserFaultEdge_keeps {s0 : State} {port : Fin 8} {s : State} (h_s : Keeps s0 s) :
    KeepsR s0 (execLaserFaultEdge port s) := by
  unfold execLaserFaultEdge
  refine KeepsR.next ?_
  refine Keeps.ite ?_ ?_
  · exact h_s
  · refine State.forEach_keeps (fun _ _ h0 => ?_) h_s
    exact (State.laserAsk_keeps h0)

theorem execPresentRise_keeps {s0 : State} {s : State} (h_s : Keeps s0 s) :
    KeepsR s0 (execPresentRise s) := by
  unfold execPresentRise
  refine KeepsR.next ?_
  refine Keeps.ite ?_ ?_
  · exact (State.raisePresent_keeps h_s)
  · exact h_s

theorem execPresentFall_keeps {s0 : State} {s : State} (h_s : Keeps s0 s) :
    KeepsR s0 (execPresentFall s) := by
  unfold execPresentFall
  refine KeepsR.next ?_
  refine Keeps.ite ?_ ?_
  · refine State.forEach_keeps (fun _ _ h0 => ?_) ?_
    · exact (State.setChan_keeps h0)
    · exact Keeps.upd h_s
  · exact h_s

theorem execPowerOn_keeps {s0 : State} {s : State} (h_s : Keeps s0 s) :
    KeepsR s0 (execPowerOn s) :=
  KeepsR.next (Keeps.gen h_s (Nat.le_refl _) (fun _ => rfl) id (List.prefix_refl _))

theorem execRstNAssert_keeps {s0 : State} {s : State} (h_s : Keeps s0 s) :
    KeepsR s0 (execRstNAssert s) := by
  unfold execRstNAssert
  refine KeepsR.next ?_
  refine Keeps.ite ?_ ?_
  · exact h_s
  · extract_lets -useContext -merge -underBinder x0 x1
    have h2 : Keeps s0 x1 := by
      unfold x1
      exact Keeps.upd h_s
    clear_value x1
    refine Keeps.ite ?_ ?_
    · exact h2
    · exact (State.setReg_keeps (State.coldReset_keeps h2))

theorem execRstNRelease_keeps {s0 : State} {s : State} (h_s : Keeps s0 s) :
    KeepsR s0 (execRstNRelease s) := by
  unfold execRstNRelease
  refine KeepsR.next ?_
  refine Keeps.ite ?_ ?_
  · exact h_s
  · extract_lets -useContext -merge -underBinder x0 x1
    have h2 : Keeps s0 x1 := by
      unfold x1
      exact Keeps.upd h_s
    clear_value x1
    refine Keeps.ite ?_ ?_
    · exact (State.startUp_keeps h2)
    · exact h2

theorem execRstGlitch_keeps {s0 : State} {s : State} (h_s : Keeps s0 s) :
    KeepsR s0 (execRstGlitch s) := by
  unfold execRstGlitch
  exact KeepsR.next (State.setReg_keeps h_s)

theorem execPgLost_keeps {s0 : State} {mask : BitVec 4} {s : State} (h_s : Keeps s0 s) :
    KeepsR s0 (execPgLost mask s) := by
  unfold execPgLost
  extract_lets -useContext -merge -underBinder x0 x1
  have h2 : Keeps s0 x1 := by
    unfold x1
    exact Keeps.upd h_s
  clear_value x1
  refine KeepsR.next ?_
  refine Keeps.ite ?_ ?_
  · exact h2
  · exact (State.setRf_keeps (State.coldReset_keeps h2))

theorem execCold_keeps {s0 : State} {s : State} (h_s : Keeps s0 s) :
    KeepsR s0 (execCold s) := by
  unfold execCold
  exact KeepsR.next (State.rstCtrl_keeps h_s)

theorem execWarm_keeps {s0 : State} {s : State} (h_s : Keeps s0 s) :
    KeepsR s0 (execWarm s) := by
  unfold execWarm
  exact KeepsR.next (State.rstCtrl_keeps h_s)

theorem execThermalSample_keeps {s0 : State} {temps : List Int} {watts : Nat} {alert : Bool} {vrhot : Bool} {s : State} (h_s : Keeps s0 s) :
    KeepsR s0 (execThermalSample temps watts alert vrhot s) := by
  unfold execThermalSample
  extract_lets -useContext -merge -underBinder x0 x1 x2 x3 x4 x5 x6 x7 x8
  clear_value x5
  have h9 : Keeps s0 x3 := by
    unfold x3
    refine State.setReg_keeps ?_
    exact Keeps.upd h_s
  clear_value x3
  have h10 : Keeps s0 x4 := by
    unfold x4
    refine Keeps.ite ?_ ?_
    · exact (State.stepDown_keeps h9)
    · exact h9
  clear_value x4
  have h11 : Keeps s0 x8 := by
    unfold x8
    exact Keeps.upd h10
  clear_value x8
  refine KeepsR.next ?_
  refine Keeps.ite ?_ ?_
  · exact h_s
  · refine Keeps.ite ?_ ?_
    · refine State.warnStep_keeps ?_
      exact Keeps.upd h10
    · split
      · refine Keeps.ite ?_ ?_
        · exact (State.raiseStep_keeps h11)
        · exact h11
      · exact h11

theorem execThermtrip_keeps {s0 : State} {s : State} (h_s : Keeps s0 s) :
    KeepsR s0 (execThermtrip s) := by
  unfold execThermtrip
  extract_lets -useContext -merge -underBinder x0 x1 x2
  have h3 : Keeps s0 x1 := (State.haltParts_keeps h_s)
  clear_value x1
  refine KeepsR.next ?_
  refine Keeps.ite ?_ ?_
  · refine State.event_keeps ?_
    refine State.setReg_keeps ?_
    refine State.stepDown_keeps ?_
    exact Keeps.upd h3
  · exact h_s

theorem execVrhot_keeps {s0 : State} {s : State} (h_s : Keeps s0 s) :
    KeepsR s0 (execVrhot s) := by
  unfold execVrhot
  extract_lets -useContext -merge -underBinder x0 x1
  have h2 : Keeps s0 x1 := by
    unfold x1
    exact Keeps.upd h_s
  clear_value x1
  refine KeepsR.next ?_
  refine Keeps.ite ?_ ?_
  · exact (State.stepDown_keeps h2)
  · exact h2

theorem execThermAlert_keeps {s0 : State} {s : State} (h_s : Keeps s0 s) :
    KeepsR s0 (execThermAlert s) := by
  unfold execThermAlert
  extract_lets -useContext -merge -underBinder x0 x1
  have h2 : Keeps s0 x1 := by
    unfold x1
    exact Keeps.upd h_s
  clear_value x1
  refine KeepsR.next ?_
  refine Keeps.ite ?_ ?_
  · exact (State.warnStep_keeps h2)
  · exact h2

theorem execClockStep_keeps {s0 : State} {s : State} (h_s : Keeps s0 s) :
    KeepsR s0 (execClockStep s) := by
  unfold execClockStep
  refine KeepsR.next ?_
  split
  · refine Keeps.ite ?_ ?_
    · extract_lets -useContext -merge -underBinder x0 x1
      have h2 : Keeps s0 x1 := by
        unfold x1
        exact Keeps.upd h_s
      clear_value x1
      refine Keeps.ite ?_ ?_
      · exact (State.throttleOver_keeps h2)
      · exact h2
    · exact h_s
  · exact h_s

theorem execGovernorTick_keeps {s0 : State} {filler : Bool} {s : State} (h_s : Keeps s0 s) :
    KeepsR s0 (execGovernorTick filler s) := by
  unfold execGovernorTick
  refine KeepsR.next ?_
  refine Keeps.ite ?_ ?_
  · extract_lets -useContext -merge -underBinder x0 x1
    have h2 : Keeps s0 x1 := by
      unfold x1
      exact Keeps.upd h_s
    clear_value x1
    refine Keeps.ite ?_ ?_
    · exact (State.bump_keeps h2)
    · exact h2
  · exact h_s

theorem execGroupRelease_keeps {s0 : State} {p : Fin 16} {s : State} (h_s : Keeps s0 s) :
    KeepsR s0 (execGroupRelease p s) := by
  unfold execGroupRelease
  refine KeepsR.next ?_
  split
  · exact h_s
  · refine Keeps.ite ?_ ?_
    · exact (State.startPart_keeps (State.bump_keeps (State.onPart_keeps h_s)))
    · exact h_s

theorem execClocks_keeps {s0 : State} {boardPos : Fin 8} {s : State} (h_s : Keeps s0 s) :
    KeepsR s0 (execClocks boardPos s) := by
  unfold execClocks
  extract_lets -useContext -merge -underBinder x0 x1 x2
  have h3 : Keeps s0 x0 := by
    unfold x0
    refine Keeps.ite ?_ ?_
    · exact (State.startUp_keeps h_s)
    · exact h_s
  clear_value x0
  have h4 : Keeps s0 x2 := by
    unfold x2
    exact Keeps.upd h3
  clear_value x2
  refine KeepsR.next ?_
  refine Keeps.ite ?_ ?_
  · refine State.enter_keeps ?_
    refine Keeps.ite ?_ ?_
    · exact h4
    · exact (State.onFab_keeps h4)
  · exact h_s

theorem execSram_keeps {s0 : State} {repairable : Bool} {s : State} (h_s : Keeps s0 s) :
    KeepsR s0 (execSram repairable s) := by
  unfold execSram
  refine KeepsR.next ?_
  refine Keeps.ite ?_ ?_
  · exact h_s
  · refine Keeps.ite ?_ ?_
    · exact (State.bootFail_keeps h_s)
    · extract_lets -useContext -merge -underBinder x0 x1
      have h2 : Keeps s0 x1 := by
        unfold x1
        exact Keeps.gen h_s (Nat.le_refl _) resetMem id (List.prefix_refl _)
      clear_value x1
      exact (State.enter_keeps h2)

theorem execKeys_keeps {s0 : State} {s : State} (h_s : Keeps s0 s) :
    KeepsR s0 (execKeys s) := by
  unfold execKeys
  refine KeepsR.next (Keeps.ite h_s ?_)
  have h1 : Keeps s0 ((s.drawMany 4).2.drawMany 2).2 := State.drawMany_keeps (State.drawMany_keeps h_s)
  have h2 (i j : Nat) : Keeps s0 { ((s.drawMany 4).2.drawMany 2).2 with
      sec := { ((s.drawMany 4).2.drawMany 2).2.sec with sealKey := i, jrnlKey := j } } :=
    Keeps.gen h1 (Nat.le_refl _) id id (List.prefix_refl _)
  refine Keeps.ite (State.enter_keeps (h2 _ _)) (State.enter_keeps ?_)
  exact Keeps.upd (State.drawMany_keeps (h2 _ _))

theorem execHbm_keeps {s0 : State} {trained : List Bool} {s : State} (h_s : Keeps s0 s) :
    KeepsR s0 (execHbm trained s) := by
  unfold execHbm
  refine KeepsR.next ?_
  refine Keeps.ite ?_ ?_
  · exact h_s
  · split
    · exact (State.bootFail_keeps (State.fatal_keeps h_s))
    · extract_lets -useContext -merge -underBinder x0 x1
      refine State.enter_keeps ?_
      exact Keeps.upd h_s

theorem execImage_keeps {s0 : State} {s : State} (h_s : Keeps s0 s) :
    KeepsR s0 (execImage s) := by
  unfold execImage
  exact KeepsR.next h_s

theorem execBeamImgAddr_keeps {s0 : State} {v : W64} {s : State} (h_s : Keeps s0 s) :
    KeepsR s0 (execBeamImgAddr v s) := by
  unfold execBeamImgAddr
  exact KeepsR.next (State.mgmtReply_keeps (State.imgAddr_keeps h_s))

theorem execBeamImgData_keeps {s0 : State} {v : W64} {s : State} (h_s : Keeps s0 s) :
    KeepsR s0 (execBeamImgData v s) := by
  unfold execBeamImgData
  exact KeepsR.next (State.mgmtReply_keeps (State.imgData_keeps h_s))

theorem execBeamImgGo_keeps {s0 : State} {v : W64} {s : State} (h_s : Keeps s0 s) :
    KeepsR s0 (execBeamImgGo v s) := by
  unfold execBeamImgGo
  exact KeepsR.next (State.mgmtReply_keeps (State.imgGo_keeps h_s))

theorem execAuth_keeps {s0 : State} {s : State} (h_s : Keeps s0 s) :
    KeepsR s0 (execAuth s) := by
  unfold execAuth
  refine KeepsR.next ?_
  refine Keeps.ite ?_ ?_
  · exact h_s
  · refine Keeps.ite ?_ ?_
    · refine State.enter_keeps ?_
      exact Keeps.gen h_s (Nat.le_refl _) id id (List.prefix_refl _)
    · refine Keeps.ite ?_ ?_
      · exact (State.bootFail_keeps h_s)
      · refine State.enter_keeps ?_
        exact Keeps.upd h_s

theorem execBeam_keeps {s0 : State} {pairA : Bool} {pairB : Bool} {s : State} (h_s : Keeps s0 s) :
    KeepsR s0 (execBeam pairA pairB s) := by
  unfold execBeam
  refine KeepsR.next ?_
  refine Keeps.ite ?_ ?_
  · exact h_s
  · refine Keeps.ite ?_ ?_
    · exact (State.bootFail_keeps h_s)
    · extract_lets -useContext -merge -underBinder x0 x1
      have h2 : Keeps s0 x1 := by
        unfold x1
        refine State.enter_keeps ?_
        exact Keeps.upd h_s
      clear_value x1
      refine Keeps.ite ?_ ?_
      · exact h2
      · exact (State.advise_keeps h2)

theorem execRods_keeps {s0 : State} {failing : List Nat} {s : State} (h_s : Keeps s0 s) :
    KeepsR s0 (execRods failing s) := by
  unfold execRods
  refine KeepsR.next ?_
  refine Keeps.ite ?_ ?_
  · exact h_s
  · extract_lets -useContext -merge -underBinder x0 x1
    have h2 : Keeps s0 x0 := by
      unfold x0
      refine State.adviseRods_keeps ?_
      refine State.buildMap_keeps ?_
      refine State.forEach_keeps (fun _ _ h3 => ?_) h_s
      exact (State.retireRod_keeps h3)
    clear_value x0
    have h4 : Keeps s0 x1 := by
      unfold x1
      exact Keeps.gen h2 (Nat.le_refl _) resetMem id (List.prefix_refl _)
    clear_value x1
    refine Keeps.ite ?_ ?_
    · exact (State.bootFail_keeps h4)
    · exact (State.enter_keeps h4)

theorem execLinks_keeps {s0 : State} {s : State} (h_s : Keeps s0 s) :
    KeepsR s0 (execLinks s) := by
  unfold execLinks
  extract_lets -useContext -merge -underBinder x0
  have h1 : Keeps s0 x0 := by
    unfold x0
    refine State.forEach_keeps (fun _ _ h2 => ?_) h_s
    refine Keeps.ite ?_ ?_
    · exact (State.portProbe_keeps h2)
    · exact h2
  clear_value x0
  refine KeepsR.next ?_
  refine Keeps.ite ?_ ?_
  · exact h_s
  · refine Keeps.ite ?_ ?_
    · exact (State.enter_keeps h1)
    · exact h1

theorem execSync_keeps {s0 : State} {s : State} (h_s : Keeps s0 s) :
    KeepsR s0 (execSync s) := by
  unfold execSync
  refine KeepsR.next ?_
  refine Keeps.ite ?_ ?_
  · exact (State.enter_keeps h_s)
  · exact h_s

theorem execHost_keeps {s0 : State} {s : State} (h_s : Keeps s0 s) :
    KeepsR s0 (execHost s) := by
  unfold execHost
  refine KeepsR.next ?_
  refine Keeps.ite ?_ ?_
  · exact (State.enter_keeps (State.raisePresent_keeps h_s))
  · exact h_s

theorem execReady_keeps {s0 : State} {s : State} (h_s : Keeps s0 s) :
    KeepsR s0 (execReady s) := by
  unfold execReady
  refine KeepsR.next ?_
  refine Keeps.ite ?_ ?_
  · exact (State.event_keeps (State.setRf_keeps h_s))
  · exact h_s

theorem execFailed_keeps {s0 : State} {s : State} (h_s : Keeps s0 s) :
    KeepsR s0 (execFailed s) := by
  unfold execFailed
  refine KeepsR.next ?_
  refine Keeps.ite ?_ ?_
  · refine State.setReg_keeps ?_
    refine Keeps.ite ?_ ?_
    · exact (State.event_keeps h_s)
    · exact (State.fatal_keeps h_s)
  · exact h_s

theorem execReplicateRow_keeps {s0 : State} {tbl : Fin 1024} {row : BitVec 32} {sharer : Fin 8} {s : State} (h_s : Keeps s0 s) :
    KeepsR s0 (execReplicateRow tbl row sharer s) := by
  unfold execReplicateRow
  extract_lets -useContext -merge -underBinder x0 x1 x2
  refine KeepsR.next ?_
  split
  · exact h_s
  · extract_lets -useContext -merge -underBinder x3 x4 x5 x6 x7 x8
    have h9 : Keeps s0 x8 := (State.onFab_keeps (State.journal_keeps h_s))
    clear_value x8
    refine Keeps.ite ?_ ?_
    · exact h_s
    · exact (State.settleOps_keeps (State.unitOp_keeps h9))

theorem execPowerGoodStable_keeps {s0 : State} {s : State} (h_s : Keeps s0 s) :
    KeepsR s0 (execPowerGoodStable s) := by
  unfold execPowerGoodStable
  extract_lets -useContext -merge -underBinder x0 x1
  have h2 : Keeps s0 x1 := by
    unfold x1
    exact Keeps.upd h_s
  clear_value x1
  refine KeepsR.next ?_
  refine Keeps.ite ?_ ?_
  · exact (State.startUp_keeps h2)
  · exact h2

end Sys2Proof.Machine
end

