-- ==== Sys2Proof/Laws/KeepsDebug.lean ====
section
/-! SUPPORT. What each operation keeps (Keeps.lean): debug, faults, security and test access. -/

namespace Sys2Proof.Machine

theorem State.readChal_keeps {s0 : State} {s : State} {w : Nat} (h_s : Keeps s0 s) :
    Keeps2 s0 (State.readChal s w) := by
  unfold State.readChal
  refine Keeps2.ite (Keeps2.mk h_s) (Keeps2.ite (Keeps2.mk ?_) (Keeps2.mk h_s))
  exact Keeps.gen (s := (s.drawMany 4).2) (State.drawMany_keeps h_s) (Nat.le_refl _) id id (List.prefix_refl _)

theorem State.tokenWrite_keeps {s0 : State} {s : State} {w : Nat} {v : W64} (h_s : Keeps s0 s) :
    Keeps s0 (State.tokenWrite s w v) := by
  unfold State.tokenWrite
  extract_lets -useContext -merge -underBinder x0 x1 x2
  have h3 : Keeps s0 x2 := by
    unfold x2
    exact Keeps.gen h_s (Nat.le_refl _) id id (List.prefix_refl _)
  clear_value x2
  refine Keeps.ite ?_ ?_
  · exact h_s
  · refine Keeps.ite ?_ ?_
    · exact (State.setReg_keeps h3)
    · exact h3

theorem State.setMailbox_keeps {s0 : State} {s : State} {w : SpdmWho} {m : Mailbox} (h_s : Keeps s0 s) :
    Keeps s0 (State.setMailbox s w m) := by
  unfold State.setMailbox
  split
  · exact (State.onTen_keeps h_s)
  · exact Keeps.gen h_s (Nat.le_refl _) id id (List.prefix_refl _)

theorem State.spdmWrite_keeps {s0 : State} {s : State} {w : SpdmWho} {v : W64} (h_s : Keeps s0 s) :
    Keeps s0 (State.spdmWrite s w v) := by
  unfold State.spdmWrite
  extract_lets -useContext -merge -underBinder x0 x1 x2
  have h3 : Keeps s0 x2 := (State.setRf_keeps h_s)
  clear_value x2
  refine Keeps.ite ?_ ?_
  · exact h_s
  · refine Keeps.ite ?_ ?_
    · split
      · exact (State.inErr_keeps h_s)
      · exact h_s
    · refine Keeps.ite ?_ ?_
      · exact h3
      · exact (State.setRf_keeps (State.setMailbox_keeps h3))

theorem State.presetOwner_keeps {s0 : State} {s : State} {p : Nat} {w : Nat} {v : W64} (h_s : Keeps s0 s) :
    Keeps s0 (State.presetOwner s p w v) := by
  unfold State.presetOwner
  refine Keeps.ite ?_ ?_
  · exact h_s
  · extract_lets -useContext -merge -underBinder x0
    have h1 : Keeps s0 x0 := (State.setReg_keeps h_s)
    clear_value x0
    refine Keeps.ite ?_ ?_
    · exact (State.setReg_keeps h1)
    · exact h1

theorem State.lockSec_keeps {s0 : State} {s : State} {v : W64} (h_s : Keeps s0 s) :
    Keeps s0 (State.lockSec s v) := by
  unfold State.lockSec
  refine Keeps.ite ?_ ?_
  · exact (State.setReg_keeps h_s)
  · exact h_s

theorem State.lockPwr_keeps {s0 : State} {s : State} {v : W64} (h_s : Keeps s0 s) :
    Keeps s0 (State.lockPwr s v) := by
  unfold State.lockPwr
  refine Keeps.ite ?_ ?_
  · exact (State.setReg_keeps h_s)
  · exact h_s

theorem State.setHaltN_keeps {s0 : State} {s : State} {v : W64} (h_s : Keeps s0 s) :
    Keeps s0 (State.setHaltN s v) := by
  unfold State.setHaltN
  extract_lets -useContext -merge -underBinder x0 x1 x2
  have h3 : Keeps s0 x2 := (State.setReg_keeps h_s)
  clear_value x2
  refine Keeps.ite ?_ ?_
  · exact h_s
  · refine Keeps.ite ?_ ?_
    · exact (State.setRf_keeps h3)
    · exact h3

theorem State.releaseHalt_keeps {s0 : State} {s : State} (h_s : Keeps s0 s) :
    Keeps s0 (State.releaseHalt s) := by
  unfold State.releaseHalt
  extract_lets -useContext -merge -underBinder x0 x1 x2
  have h3 : Keeps s0 x1 := (State.setRf_keeps h_s)
  clear_value x1
  have h4 : Keeps s0 x2 := by
    unfold x2
    refine State.forEach_keeps (fun _ _ h5 => ?_) h3
    extract_lets -useContext -merge -underBinder x6 x7
    have h8 : Keeps s0 x7 := (State.setPart_keeps h5)
    clear_value x7
    refine Keeps.ite ?_ ?_
    · exact h5
    · refine Keeps.ite ?_ ?_
      · exact (State.startPart_keeps (State.holdGroups_keeps (State.onPart_keeps h8)))
      · exact h8
  clear_value x2
  refine State.forEach_keeps (fun _ _ h9 => ?_) h4
  extract_lets -useContext -merge -underBinder x10
  refine Keeps.foldl (fun _ _ h11 => ?_) _ (State.setChan_keeps h9)
  exact (State.send_keeps h11)

theorem State.tryReleaseHalt_keeps {s0 : State} {s : State} (h_s : Keeps s0 s) :
    Keeps s0 (State.tryReleaseHalt s) := by
  unfold State.tryReleaseHalt
  extract_lets -useContext -merge -underBinder x0
  refine Keeps.ite ?_ ?_
  · refine Keeps.ite ?_ ?_
    · exact (State.setRf_keeps h_s)
    · exact (State.releaseHalt_keeps h_s)
  · exact h_s

theorem State.clearDiscrepancy_keeps {s0 : State} {s : State} (h_s : Keeps s0 s) :
    Keeps s0 (State.clearDiscrepancy s) := by
  unfold State.clearDiscrepancy
  extract_lets -useContext -merge -underBinder x0
  refine Keeps.ite ?_ ?_
  · exact (State.tryReleaseHalt_keeps (State.setRf_keeps h_s))
  · exact h_s

theorem State.clearEvents_keeps {s0 : State} {s : State} {v : W64} (h_s : Keeps s0 s) :
    Keeps s0 (State.clearEvents s v) := by
  unfold State.clearEvents
  exact (State.setReg_keeps h_s)

theorem State.snapshot_keeps {s0 : State} {s : State} {v : W64} (h_s : Keeps s0 s) :
    Keeps s0 (State.snapshot s v) := by
  unfold State.snapshot
  extract_lets -useContext -merge -underBinder x0 x1
  have h2 : ∀ (a0 : Sparse W64), Keeps s0 (x1 a0) := by
    unfold x1
    refine fun _ => ?_
    refine State.setReg_keeps ?_
    exact Keeps.upd h_s
  clear_value x1
  split
  · exact (h2 _)
  · refine Keeps.ite ?_ ?_
    · exact (h2 _)
    · exact h_s
  · exact (h2 _)
  · exact h_s

theorem State.ringPacket_keeps {s0 : State} {s : State} {w0 : W64} (h_s : Keeps s0 s) :
    Keeps s0 (State.ringPacket s w0) := by
  unfold State.ringPacket
  extract_lets -useContext -merge -underBinder x0 x1
  refine Keeps.ite ?_ ?_
  · exact (State.setReg_keeps h_s)
  · exact (State.setReg_keeps (State.hbmWrite64_keeps (State.hbmWrite64_keeps h_s)))

theorem State.toRing_keeps {s0 : State} {s : State} {w0 : W64} (h_s : Keeps s0 s) :
    Keeps s0 (State.toRing s w0) := by
  unfold State.toRing
  refine Keeps.ite ?_ ?_
  · exact (State.ringPacket_keeps h_s)
  · refine State.ringPacket_keeps ?_
    refine State.ringPacket_keeps ?_
    exact Keeps.upd h_s

theorem State.toPort_keeps {s0 : State} {s : State} {w0 : W64} (h_s : Keeps s0 s) :
    Keeps s0 (State.toPort s w0) := by
  unfold State.toPort
  refine Keeps.ite ?_ ?_
  · exact (State.send_keeps h_s)
  · refine State.send_keeps ?_
    refine State.send_keeps ?_
    exact Keeps.upd h_s

theorem State.emitOne_keeps {s0 : State} {s : State} {w0 : W64} (h_s : Keeps s0 s) :
    Keeps s0 (State.emitOne s w0) := by
  unfold State.emitOne
  extract_lets -useContext -merge -underBinder x0 x1 x2
  have h3 : Keeps s0 x1 := by
    unfold x1
    refine Keeps.ite ?_ ?_
    · exact (State.toRing_keeps h_s)
    · exact h_s
  clear_value x1
  have h4 : Keeps s0 x2 := by
    unfold x2
    refine Keeps.ite ?_ ?_
    · exact (State.toPort_keeps h3)
    · exact h3
  clear_value x2
  refine Keeps.ite ?_ ?_
  · exact h_s
  · exact Keeps.upd h4

theorem State.beamSync_keeps {s0 : State} {s : State} {b : Nat} (h_s : Keeps s0 s) :
    Keeps s0 (State.beamSync s b) := by
  unfold State.beamSync
  exact (State.emitOne_keeps (State.draw_keeps h_s))

theorem State.traceCtrl_keeps {s0 : State} {s : State} {v : W64} (h_s : Keeps s0 s) :
    Keeps s0 (State.traceCtrl s v) := by
  unfold State.traceCtrl
  extract_lets -useContext -merge -underBinder x0 x1 x2 x3 x4
  have h5 : Keeps s0 x2 := (State.setReg_keeps h_s)
  clear_value x2
  have h6 : Keeps s0 x4 := by
    unfold x4
    refine Keeps.ite ?_ ?_
    · exact Keeps.upd h5
    · exact h5
  clear_value x4
  refine State.forEach_keeps (fun _ _ h7 => ?_) h6
  refine Keeps.ite ?_ ?_
  · exact (State.beamSync_keeps h7)
  · exact h7

theorem State.emit_keeps {s0 : State} {s : State} {w0 : W64} (h_s : Keeps s0 s) :
    Keeps s0 (State.emit s w0) := by
  unfold State.emit
  extract_lets -useContext -merge -underBinder x0 x1 x2
  have h3 : Keeps s0 x2 := (State.emitOne_keeps h_s)
  clear_value x2
  refine Keeps.ite ?_ ?_
  · refine State.forEach_keeps (fun _ _ h4 => ?_) h3
    exact (State.beamSync_keeps h4)
  · exact h3

theorem State.marker_keeps {s0 : State} {s : State} {origin : Nat} {ten : Nat} {part : Nat} {rod : Nat} {value : Nat} (h_s : Keeps s0 s) :
    Keeps s0 (State.marker s origin ten part rod value) := by
  unfold State.marker
  refine Keeps.ite ?_ ?_
  · exact h_s
  · exact (State.trigger_keeps (State.emit_keeps h_s))

theorem State.freeze_keeps {s0 : State} {s : State} (h_s : Keeps s0 s) :
    Keeps s0 (State.freeze s) := by
  unfold State.freeze
  refine Keeps.ite ?_ ?_
  · exact Keeps.upd h_s
  · exact h_s

theorem State.latchWfg_keeps {s0 : State} {s : State} {p : Nat} (h_s : Keeps s0 s) :
    Keeps s0 (State.latchWfg s p) := by
  unfold State.latchWfg
  exact Keeps.gen h_s (Nat.le_add_right _ _) id id (List.prefix_refl _)

theorem State.wfCapture_keeps {s0 : State} {s : State} {v : W64} (h_s : Keeps s0 s) :
    Keeps s0 (State.wfCapture s v) := by
  unfold State.wfCapture
  refine Keeps.ite ?_ ?_
  · exact (State.latchWfg_keeps h_s)
  · exact h_s

theorem State.rodPoke_keeps {s0 : State} {s : State} {l : Nat} {space : Nat} {i : Nat} {v : W64} (h_s : Keeps s0 s) :
    Keeps s0 (State.rodPoke s l space i v) := by
  unfold State.rodPoke
  extract_lets -useContext -merge -underBinder x0 x1
  split
  · exact (State.beadWrite_keeps h_s)
  · exact (State.onRod_keeps h_s)
  · exact (State.onRod_keeps h_s)
  · refine Keeps.ite ?_ ?_
    · exact (State.onRod_keeps h_s)
    · exact h_s
  · exact (State.onRod_keeps h_s)
  · exact (State.onRod_keeps h_s)
  · exact (State.onRod_keeps h_s)
  · exact h_s

theorem State.rodAccess_keeps {s0 : State} {s : State} {v : W64} (h_s : Keeps s0 s) :
    Keeps s0 (State.rodAccess s v) := by
  unfold State.rodAccess
  extract_lets -useContext -merge -underBinder x0 x1 x2 x3 x4
  have h5 : Keeps s0 x0 := (State.setReg_keeps h_s)
  clear_value x0
  refine Keeps.ite ?_ ?_
  · exact h5
  · refine Keeps.ite ?_ ?_
    · exact (State.rodPoke_keeps h5)
    · exact (State.setReg_keeps h5)

theorem State.fire_keeps {s0 : State} {s : State} {n : Nat} (h_s : Keeps s0 s) :
    Keeps s0 (State.fire s n) := by
  unfold State.fire
  extract_lets -useContext -merge -underBinder x0 x1 x2 x3 x4 x5 x6
  have h7 : Keeps s0 x2 := (State.emit_keeps h_s)
  clear_value x2
  have h8 : Keeps s0 x4 := by
    unfold x4
    refine Keeps.ite ?_ ?_
    · exact Keeps.upd h7
    · exact h7
  clear_value x4
  have h9 : Keeps s0 x5 := by
    unfold x5
    refine Keeps.ite ?_ ?_
    · exact (State.event_keeps h8)
    · exact h8
  clear_value x5
  refine Keeps.ite ?_ ?_
  · exact Keeps.upd h9
  · exact h9

theorem State.softFire_keeps {s0 : State} {s : State} {n : Nat} (h_s : Keeps s0 s) :
    Keeps s0 (State.softFire s n) := by
  unfold State.softFire
  refine Keeps.ite ?_ ?_
  · exact (State.fire_keeps h_s)
  · exact h_s

theorem State.setHist_keeps {s0 : State} {s : State} {n : Nat} {v : W64} (h_s : Keeps s0 s) :
    Keeps s0 (State.setHist s n v) := by
  unfold State.setHist
  extract_lets -useContext -merge -underBinder x0 x1
  refine Keeps.ite ?_ ?_
  · exact h_s
  · refine Keeps.ite ?_ ?_
    · refine Keeps.ite ?_ ?_
      · exact (State.setReg_keeps h_s)
      · exact h_s
    · refine Keeps.ite ?_ ?_
      · refine State.setReg_keeps ?_
        exact Keeps.upd h_s
      · exact (State.setReg_keeps h_s)

theorem State.counterSet_keeps {s0 : State} {s : State} {off : Nat} {v : W64} (h_s : Keeps s0 s) :
    Keeps s0 (State.counterSet s off v) := by
  unfold State.counterSet
  refine Keeps.ite ?_ ?_
  · exact (State.setReg_keeps h_s)
  · exact h_s

theorem State.prbsCtrl_keeps {s0 : State} {s : State} {p : Nat} {v : W64} (h_s : Keeps s0 s) :
    Keeps s0 (State.prbsCtrl s p v) := by
  unfold State.prbsCtrl
  extract_lets -useContext -merge -underBinder x0 x1 x2 x3 x4
  have h5 : Keeps s0 x3 := (State.setReg_keeps h_s)
  clear_value x3
  have h6 : Keeps2 s0 x4 := (State.draw_keeps h5)
  clear_value x4
  refine Keeps.ite ?_ ?_
  · exact h_s
  · refine Keeps.ite ?_ ?_
    · exact (State.setReg_keeps h5)
    · refine State.forEach_keeps (fun _ _ h7 => ?_) (State.setReg_keeps h6)
      exact (State.bump_keeps (State.draw_keeps h7))

theorem State.copyRod_keeps {s0 : State} {s : State} {p : Nat} {a : Nat} {b : Nat} (h_s : Keeps s0 s) :
    Keeps s0 (State.copyRod s p a b) := by
  refine State.setRod_keeps ?_
  refine Keeps.gen (s := (s.beadZero b).imemZero b) (State.imemZero_keeps (State.beadZero_keeps h_s)) (Nat.le_refl _) (fun h => ?_) id
    (List.prefix_refl _)
  simp only [State.memWf, Bool.and_eq_true] at h ⊢
  exact ⟨⟨⟨⟨h.1.1.1.1, Memory.foldWrite_wf _ _ _ h.1.1.1.2⟩, Memory.writeWords_wf _ _ h.1.1.2⟩, h.1.2⟩, h.2⟩

theorem State.deadStack_keeps {s0 : State} {s : State} {st : Nat} (h_s : Keeps s0 s) :
    Keeps s0 (State.deadStack s st) := by
  unfold State.deadStack
  extract_lets -useContext -merge -underBinder x0 x1
  have h2 : Keeps s0 x0 := by
    unfold x0
    refine State.forEach_keeps (fun _ _ h3 => ?_) (State.fatal_keeps h_s)
    refine Keeps.ite ?_ ?_
    · exact h3
    · exact (State.deletePart_keeps (State.resetPart_keeps h3))
  clear_value x0
  exact Keeps.upd h2

theorem State.destroy_keeps {s0 : State} {s : State} {g : Nat} (h_s : Keeps s0 s) :
    Keeps s0 (State.destroy s g) := by
  unfold State.destroy
  extract_lets -useContext -merge -underBinder x0
  have h1 : Keeps2 s0 x0 := (State.drawMany_keeps h_s)
  clear_value x0
  exact (State.hbmWrite_keeps h1)

theorem State.detect_keeps {s0 : State} {s : State} {cls : Nat} {cause : Nat} {loc : ErrLoc} (h_s : Keeps s0 s) :
    Keeps s0 (State.detect s cls cause loc) := by
  unfold State.detect
  extract_lets -useContext -merge -underBinder x0 x1
  exact (State.faultRecord_keeps h_s)

theorem State.fuseWrite_keeps {s0 : State} {s : State} {u1 : FuseWrite} (h_s : Keeps s0 s) :
    Keeps s0 (State.fuseWrite s u1) := by
  unfold State.fuseWrite
  split
  · exact Keeps.gen h_s (Nat.le_refl _) id (fun _ => rfl) (List.prefix_refl _)
  · exact Keeps.upd h_s
  · exact Keeps.upd h_s

theorem State.machineFault_keeps {s0 : State} {s : State} {ph : Nat} {resp : Nat} (h_s : Keeps s0 s) :
    Keeps s0 (State.machineFault s ph resp) := by
  unfold State.machineFault
  split
  · exact h_s
  · refine Keeps.ite ?_ ?_
    · exact h_s
    · exact (State.onRod_keeps h_s)

theorem State.moveChan_keeps {s0 : State} {s : State} {st : Nat} {ch : Nat} (h_s : Keeps s0 s) :
    Keeps s0 (State.moveChan s st ch) := by
  unfold State.moveChan
  refine State.advise_keeps ?_
  refine State.fuseRecord_keeps ?_
  exact Keeps.upd h_s

theorem State.selectInstr_keeps {s0 : State} {s : State} {jtag : Bool} {code : Nat} (h_s : Keeps s0 s) :
    Keeps s0 (State.selectInstr s jtag code) := by
  unfold State.selectInstr
  refine Keeps.ite ?_ ?_
  · refine State.send_keeps ?_
    exact Keeps.upd h_s
  · exact Keeps.upd h_s

theorem State.setRegBytes_keeps {s0 : State} {s : State} {off : Nat} {bs : List Byte} (h_s : Keeps s0 s) :
    Keeps s0 (State.setRegBytes s off bs) := by
  unfold State.setRegBytes
  refine State.forEach_keeps (fun _ _ h0 => ?_) h_s
  extract_lets -useContext -merge -underBinder x1 x2
  exact (State.setReg_keeps h0)

theorem State.shiftOut_keeps {s0 : State} {s : State} {jtag : Bool} {n : Nat} (h_s : Keeps s0 s) :
    Keeps s0 (State.shiftOut s jtag n) := by
  unfold State.shiftOut
  extract_lets -useContext -merge -underBinder x0
  have h1 : Keeps2 s0 x0 := (State.drawMany_keeps h_s)
  clear_value x0
  exact (State.send_keeps h1)

theorem State.stopPair_keeps {s0 : State} {s : State} {b : Bool} {cause : Nat} (h_s : Keeps s0 s) :
    Keeps s0 (State.stopPair s b cause) := by
  unfold State.stopPair
  refine Keeps.ite ?_ ?_
  · exact h_s
  · extract_lets -useContext -merge -underBinder x0 x1 x2 x3
    have h4 : Keeps s0 x0 := (State.bump_keeps (State.faultRecord_keeps h_s))
    clear_value x0
    have h5 : Keeps s0 x2 := by
      unfold x2
      exact Keeps.upd h4
    clear_value x2
    refine Keeps.ite ?_ ?_
    · exact h5
    · refine State.advise_keeps ?_
      exact Keeps.upd h5

theorem State.testInstr_keeps {s0 : State} {s : State} {jtag : Bool} {code : Nat} {f : State → State} (h_s : Keeps s0 s) (h_f : ∀ (a0 : State), Keeps s0 a0 → Keeps s0 (f a0)) :
    KeepsR s0 (State.testInstr s jtag code f) := by
  unfold State.testInstr
  refine KeepsR.next ?_
  refine Keeps.ite ?_ ?_
  · exact (h_f _ (State.selectInstr_keeps h_s))
  · exact (State.selectInstr_keeps h_s)

theorem State.wfWrite_keeps {s0 : State} : ∀ {l : List W64} {s : State}, Keeps s0 s → Keeps s0 (State.wfWrite s l)
  | _ :: _ :: _ :: _ :: r, _, h => State.wfWrite_keeps (l := r) (Keeps.ite h (State.setReg_keeps (State.hbmWrite_keeps h)))
  | [], _, h | [_], _, h | [_, _], _, h | [_, _, _], _, h => h

theorem execStepTimeout_keeps {s0 : State} {p : Fin 16} {s : State} (h_s : Keeps s0 s) :
    KeepsR s0 (execStepTimeout p s) := by
  unfold execStepTimeout
  extract_lets -useContext -merge -underBinder x0
  refine KeepsR.next ?_
  refine Keeps.ite ?_ ?_
  · exact (State.holdPart_keeps (State.latchWfg_keeps (State.bump_keeps (State.faultRecord_keeps h_s))))
  · exact h_s

theorem execTenMark_keeps {s0 : State} {t : Fin 64} {v : W64} {s : State} (h_s : Keeps s0 s) :
    KeepsR s0 (execTenMark t v s) := by
  unfold execTenMark
  exact State.tenWrite_keeps h_s (fun _ h0 => (State.marker_keeps h0))

theorem execTenSpdmGo_keeps {s0 : State} {t : Fin 64} {v : W64} {s : State} (h_s : Keeps s0 s) :
    KeepsR s0 (execTenSpdmGo t v s) := by
  unfold execTenSpdmGo
  exact State.tenWrite_keeps h_s (fun _ h0 => (State.spdmWrite_keeps h0))

theorem execSecSpdmGo_keeps {s0 : State} {v : W64} {s : State} (h_s : Keeps s0 s) :
    KeepsR s0 (execSecSpdmGo v s) := by
  unfold execSecSpdmGo
  refine KeepsR.next ?_
  refine Keeps.ite ?_ ?_
  · exact (State.spdmWrite_keeps h_s)
  · exact h_s

theorem execSpdmResponse_keeps {s0 : State} {who : SpdmWho} {s : State} (h_s : Keeps s0 s) :
    KeepsR s0 (execSpdmResponse who s) := by
  unfold execSpdmResponse
  extract_lets -useContext -merge -underBinder x0 x1 x2
  have h3 : Keeps2 s0 x1 := (State.drawMany_keeps h_s)
  clear_value x1
  refine KeepsR.next ?_
  refine Keeps.ite ?_ ?_
  · exact h_s
  · exact (State.setRf_keeps (State.setRf_keeps (State.setMailbox_keeps (State.setRegBytes_keeps h3))))

theorem execSecDbgChal_keeps {s0 : State} {s : State} (h_s : Keeps s0 s) :
    KeepsR s0 (execSecDbgChal s) := by
  unfold execSecDbgChal
  refine KeepsR.next ?_
  refine Keeps.ite ?_ ?_
  · exact (State.send_keeps (State.readChal_keeps h_s))
  · exact h_s

theorem execSecDbgToken_keeps {s0 : State} {w : Fin 12} {v : W64} {s : State} (h_s : Keeps s0 s) :
    KeepsR s0 (execSecDbgToken w v s) := by
  unfold execSecDbgToken
  refine KeepsR.next ?_
  refine Keeps.ite ?_ ?_
  · exact (State.tokenWrite_keeps h_s)
  · exact h_s

theorem execSecLock_keeps {s0 : State} {v : W64} {s : State} (h_s : Keeps s0 s) :
    KeepsR s0 (execSecLock v s) := by
  unfold execSecLock
  refine KeepsR.next ?_
  refine Keeps.ite ?_ ?_
  · exact (State.lockSec_keeps h_s)
  · exact h_s

theorem execPwrLock_keeps {s0 : State} {v : W64} {s : State} (h_s : Keeps s0 s) :
    KeepsR s0 (execPwrLock v s) := by
  unfold execPwrLock
  exact KeepsR.next (State.lockPwr_keeps h_s)

theorem execSecPartOwner_keeps {s0 : State} {p : Fin 16} {w : Fin 6} {v : W64} {s : State} (h_s : Keeps s0 s) :
    KeepsR s0 (execSecPartOwner p w v s) := by
  unfold execSecPartOwner
  refine KeepsR.next ?_
  refine Keeps.ite ?_ ?_
  · exact (State.presetOwner_keeps h_s)
  · exact h_s

theorem execCorrectableError_keeps {s0 : State} {loc : ErrLoc} {s : State} (h_s : Keeps s0 s) :
    KeepsR s0 (execCorrectableError loc s) := by
  unfold execCorrectableError
  refine KeepsR.next ?_
  refine Keeps.ite ?_ ?_
  · exact h_s
  · split
    · extract_lets -useContext -merge -underBinder x0
      exact (State.bump_keeps (State.detect_keeps h_s))
    · exact (State.bump_keeps (State.detect_keeps h_s))
    · exact (State.bump_keeps (State.detect_keeps h_s))
    · exact h_s

theorem execUncorrectableError_keeps {s0 : State} {loc : ErrLoc} {s : State} (h_s : Keeps s0 s) :
    KeepsR s0 (execUncorrectableError loc s) := by
  unfold execUncorrectableError
  refine KeepsR.next ?_
  refine Keeps.ite ?_ ?_
  · exact h_s
  · split
    · extract_lets -useContext -merge -underBinder x0 x1
      have h2 : Keeps s0 x1 := (State.poisonHbm_keeps (State.bump_keeps (State.detect_keeps h_s)))
      clear_value x1
      exact (State.jrnlRepair_keeps (State.histRepair_keeps (State.loss_keeps h2)))
    · extract_lets -useContext -merge -underBinder x3
      have h4 : Keeps s0 x3 := (State.poisonBead_keeps (State.bump_keeps (State.detect_keeps h_s)))
      clear_value x3
      split
      · exact (State.holdPart_keeps h4)
      · exact h4
    · exact (State.machineFault_keeps h_s)
    · exact (State.machineFault_keeps h_s)

theorem execPatrol_keeps {s0 : State} {granule : Nat} {s : State} (h_s : Keeps s0 s) :
    KeepsR s0 (execPatrol granule s) := by
  unfold execPatrol
  refine KeepsR.next ?_
  refine Keeps.ite ?_ ?_
  · exact (State.poisonHbm_keeps h_s)
  · exact h_s

theorem execChannelFailing_keeps {s0 : State} {stack : Fin 16} {ch : Fin 31} {s : State} (h_s : Keeps s0 s) :
    KeepsR s0 (execChannelFailing stack ch s) := by
  unfold execChannelFailing
  refine KeepsR.next ?_
  refine Keeps.ite ?_ ?_
  · exact h_s
  · exact Keeps.upd h_s

theorem execChannelCopyEnd_keeps {s0 : State} {stack : Fin 16} {s : State} (h_s : Keeps s0 s) :
    KeepsR s0 (execChannelCopyEnd stack s) := by
  unfold execChannelCopyEnd
  refine KeepsR.next ?_
  split
  · refine Keeps.ite ?_ ?_
    · exact (State.moveChan_keeps h_s)
    · exact h_s
  · exact h_s

theorem execChannelLost_keeps {s0 : State} {stack : Fin 16} {ch : Fin 31} {s : State} (h_s : Keeps s0 s) :
    KeepsR s0 (execChannelLost stack ch s) := by
  unfold execChannelLost
  extract_lets -useContext -merge -underBinder x0 x1 x2 x3 x4
  have h5 : Keeps s0 x1 := (State.bump_keeps (State.faultRecord_keeps h_s))
  clear_value x1
  have h6 : Keeps s0 x3 := by
    unfold x3
    exact Keeps.upd h5
  clear_value x3
  refine KeepsR.next ?_
  refine Keeps.ite ?_ ?_
  · exact h_s
  · refine Keeps.ite ?_ ?_
    · exact (State.deadStack_keeps h6)
    · refine State.jrnlRepair_keeps ?_
      refine State.forEach_keeps (fun _ _ h7 => ?_) (State.loss_keeps (State.moveChan_keeps h6))
      exact (State.histRepair_keeps h7)

theorem execSlateUe_keeps {s0 : State} {i : Fin 32768} {word : Fin 8} {s : State} (h_s : Keeps s0 s) :
    KeepsR s0 (execSlateUe i word s) := by
  unfold execSlateUe
  extract_lets -useContext -merge -underBinder x0 x1
  have h2 : Keeps s0 x1 := (State.bump_keeps (State.faultRecord_keeps h_s))
  clear_value x1
  refine KeepsR.next ?_
  refine Keeps.ite ?_ ?_
  · exact h_s
  · refine Keeps.ite ?_ ?_
    · exact h2
    · exact (State.endLater_keeps h2)

theorem execFixedFunctionUe_keeps {s0 : State} {p : Fin 16} {u : FixedUnit} {s : State} (h_s : Keeps s0 s) :
    KeepsR s0 (execFixedFunctionUe p u s) := by
  unfold execFixedFunctionUe
  extract_lets -useContext -merge -underBinder x0
  refine KeepsR.next ?_
  refine Keeps.ite ?_ ?_
  · exact h_s
  · exact (State.holdPart_keeps (State.bump_keeps (State.faultRecord_keeps h_s)))

theorem execSpareSubstitution_keeps {s0 : State} {l : Fin 512} {s : State} (h_s : Keeps s0 s) :
    KeepsR s0 (execSpareSubstitution l s) := by
  unfold execSpareSubstitution
  extract_lets -useContext -merge -underBinder x0 x1
  refine KeepsR.next ?_
  split
  · refine Keeps.ite ?_ ?_
    · exact (State.releaseReplay_keeps (State.substitute_keeps (State.retireRod_keeps h_s)))
    · exact h_s
  · exact h_s

theorem execRodCeLimit_keeps {s0 : State} {l : Fin 512} {s : State} (h_s : Keeps s0 s) :
    KeepsR s0 (execRodCeLimit l s) := by
  unfold execRodCeLimit
  refine KeepsR.next ?_
  refine Keeps.ite ?_ ?_
  · exact (State.retireLater_keeps h_s)
  · exact h_s

theorem execPeerWaitExpire_keeps {s0 : State} {pos : Fin 8} {s : State} (h_s : Keeps s0 s) :
    KeepsR s0 (execPeerWaitExpire pos s) := by
  unfold execPeerWaitExpire
  extract_lets -useContext -merge -underBinder x0 x1 x2 x3
  have h4 : Keeps s0 x3 := (State.poolLost_keeps h_s)
  clear_value x3
  refine KeepsR.next ?_
  refine Keeps.ite ?_ ?_
  · exact h_s
  · refine State.forEach_keeps (fun _ _ h5 => ?_) h4
    refine Keeps.ite ?_ ?_
    · exact h5
    · refine Keeps.ite ?_ ?_
      · refine State.forEach_keeps (fun _ _ h6 => ?_) h5
        exact (State.resetPart_keeps h6)
      · exact (State.onPart_keeps h5)

theorem execLockstepMismatch_keeps {s0 : State} {pair : Bool} {s : State} (h_s : Keeps s0 s) :
    KeepsR s0 (execLockstepMismatch pair s) := by
  unfold execLockstepMismatch
  refine KeepsR.next ?_
  refine Keeps.ite ?_ ?_
  · exact (State.stopPair_keeps h_s)
  · exact h_s

theorem execHeartbeatExpire_keeps {s0 : State} {pair : Bool} {s : State} (h_s : Keeps s0 s) :
    KeepsR s0 (execHeartbeatExpire pair s) := by
  unfold execHeartbeatExpire
  refine KeepsR.next ?_
  refine Keeps.ite ?_ ?_
  · exact (State.stopPair_keeps h_s)
  · exact h_s

theorem execBeamFailover_keeps {s0 : State} {s : State} (h_s : Keeps s0 s) :
    KeepsR s0 (execBeamFailover s) := by
  unfold execBeamFailover
  refine KeepsR.next ?_
  refine Keeps.ite ?_ ?_
  · refine State.advise_keeps ?_
    exact Keeps.upd h_s
  · exact h_s

theorem execFallbackFreeze_keeps {s0 : State} {s : State} (h_s : Keeps s0 s) :
    KeepsR s0 (execFallbackFreeze s) := by
  unfold execFallbackFreeze
  refine KeepsR.next ?_
  refine Keeps.ite ?_ ?_
  · extract_lets -useContext -merge -underBinder x0 x1 x2 x3
    have h4 : Keeps s0 x0 := by
      unfold x0
      refine State.forEach_keeps (fun _ _ h5 => ?_) h_s
      refine Keeps.ite ?_ ?_
      · exact (State.onPart_keeps h5)
      · exact h5
    clear_value x0
    have h6 : Keeps s0 x1 := by
      unfold x1
      refine State.forEach_keeps (fun _ _ h7 => ?_) h4
      exact (State.portDark_keeps h7)
    clear_value x1
    refine State.fatal_keeps ?_
    exact Keeps.upd h6
  · exact h_s

theorem execHaltAssert_keeps {s0 : State} {ch : Bool} {s : State} (h_s : Keeps s0 s) :
    KeepsR s0 (execHaltAssert ch s) := by
  unfold execHaltAssert
  extract_lets -useContext -merge -underBinder x0 x1 x2
  have h3 : Keeps s0 x0 := (State.setRf_keeps h_s)
  clear_value x0
  have h4 : Keeps s0 x1 := (State.setRf_keeps h3)
  clear_value x1
  refine KeepsR.next ?_
  refine Keeps.ite ?_ ?_
  · exact h3
  · refine State.haltParts_keeps ?_
    exact Keeps.upd h4

theorem execHaltDiscrepancy_keeps {s0 : State} {s : State} (h_s : Keeps s0 s) :
    KeepsR s0 (execHaltDiscrepancy s) := by
  unfold execHaltDiscrepancy
  extract_lets -useContext -merge -underBinder x0
  refine KeepsR.next ?_
  refine Keeps.ite ?_ ?_
  · exact h_s
  · exact (State.setRf_keeps (State.setRf_keeps h_s))

theorem execHaltRelease_keeps {s0 : State} {ch : Bool} {s : State} (h_s : Keeps s0 s) :
    KeepsR s0 (execHaltRelease ch s) := by
  unfold execHaltRelease
  exact KeepsR.next (State.tryReleaseHalt_keeps (State.setRf_keeps h_s))

theorem execFltHaltN_keeps {s0 : State} {v : W64} {s : State} (h_s : Keeps s0 s) :
    KeepsR s0 (execFltHaltN v s) := by
  unfold execFltHaltN
  exact KeepsR.next (State.setHaltN_keeps h_s)

theorem execDiscrepancyClear_keeps {s0 : State} {s : State} (h_s : Keeps s0 s) :
    KeepsR s0 (execDiscrepancyClear s) := by
  unfold execDiscrepancyClear
  exact KeepsR.next (State.clearDiscrepancy_keeps h_s)

theorem execFieldRotation_keeps {s0 : State} {phys : Fin 544} {s : State} (h_s : Keeps s0 s) :
    KeepsR s0 (execFieldRotation phys s) := by
  unfold execFieldRotation
  extract_lets -useContext -merge -underBinder x0 x1 x2
  have h3 : ∀ (a0 : State), Keeps s0 a0 → Keeps s0 (x2 a0) := by
    unfold x2
    refine fun _ h4 => ?_
    exact Keeps.upd h4
  clear_value x2
  refine KeepsR.next ?_
  refine Keeps.ite ?_ ?_
  · exact h_s
  · split
    · refine Keeps.ite ?_ ?_
      · exact (h3 _ h_s)
      · exact h_s
    · split
      · exact (h3 _ (State.mapRod_keeps h_s))
      · refine Keeps.ite ?_ ?_
        · exact (State.bump_keeps (h3 _ (State.draw_keeps (State.mapRod_keeps (State.copyRod_keeps h_s)))))
        · exact h_s
    · exact h_s

theorem execRotationTestEnd_keeps {s0 : State} {phys : Fin 544} {pass : Bool} {s : State} (h_s : Keeps s0 s) :
    KeepsR s0 (execRotationTestEnd phys pass s) := by
  unfold execRotationTestEnd
  extract_lets -useContext -merge -underBinder x0 x1 x2
  refine KeepsR.next ?_
  refine Keeps.ite ?_ ?_
  · exact h_s
  · refine Keeps.ite ?_ ?_
    · refine State.setRod_keeps ?_
      exact Keeps.upd h_s
    · exact (State.adviseRods_keeps (State.retireRod_keeps h_s))

theorem execSramCeLimit_keeps {s0 : State} {phys : Fin 544} {element : Nat} {s : State} (h_s : Keeps s0 s) :
    KeepsR s0 (execSramCeLimit phys element s) := by
  unfold execSramCeLimit
  refine KeepsR.next ?_
  refine Keeps.ite ?_ ?_
  · exact h_s
  · refine Keeps.ite ?_ ?_
    · exact (State.retireLater_keeps h_s)
    · refine State.adviseSram_keeps ?_
      refine State.fuseRecord_keeps ?_
      exact Keeps.upd h_s

theorem execFltEvtPend_keeps {s0 : State} {v : W64} {s : State} (h_s : Keeps s0 s) :
    KeepsR s0 (execFltEvtPend v s) := by
  unfold execFltEvtPend
  exact KeepsR.next (State.clearEvents_keeps h_s)

theorem execDbgSnapCtrl_keeps {s0 : State} {v : W64} {s : State} (h_s : Keeps s0 s) :
    KeepsR s0 (execDbgSnapCtrl v s) := by
  unfold execDbgSnapCtrl
  refine KeepsR.next ?_
  refine Keeps.ite ?_ ?_
  · exact (State.snapshot_keeps h_s)
  · exact h_s

theorem execDbgFreeze_keeps {s0 : State} {v : W64} {s : State} (h_s : Keeps s0 s) :
    KeepsR s0 (execDbgFreeze v s) := by
  unfold execDbgFreeze
  refine KeepsR.next ?_
  refine Keeps.ite ?_ ?_
  · exact (State.freeze_keeps h_s)
  · exact h_s

theorem execDbgWfgCapture_keeps {s0 : State} {v : W64} {s : State} (h_s : Keeps s0 s) :
    KeepsR s0 (execDbgWfgCapture v s) := by
  unfold execDbgWfgCapture
  refine KeepsR.next ?_
  refine Keeps.ite ?_ ?_
  · exact (State.wfCapture_keeps h_s)
  · exact h_s

theorem execWfgSecondCapture_keeps {s0 : State} {p : Fin 16} {s : State} (h_s : Keeps s0 s) :
    KeepsR s0 (execWfgSecondCapture p s) := by
  unfold execWfgSecondCapture
  refine KeepsR.next ?_
  split
  · exact h_s
  · refine Keeps.ite ?_ ?_
    · exact h_s
    · extract_lets -useContext -merge -underBinder x0 x1 x2
      have h3 : Keeps s0 x2 := by
        unfold x2
        refine State.wfWrite_keeps ?_
        exact Keeps.gen h_s (Nat.le_add_right _ _) id id (List.prefix_refl _)
      clear_value x2
      refine Keeps.ite ?_ ?_
      · exact (State.resetPart_keeps h3)
      · exact h3

theorem execDbgRodAccess_keeps {s0 : State} {v : W64} {s : State} (h_s : Keeps s0 s) :
    KeepsR s0 (execDbgRodAccess v s) := by
  unfold execDbgRodAccess
  refine KeepsR.next ?_
  refine Keeps.ite ?_ ?_
  · exact (State.rodAccess_keeps h_s)
  · exact h_s

theorem execDbgMark_keeps {s0 : State} {v : W64} {s : State} (h_s : Keeps s0 s) :
    KeepsR s0 (execDbgMark v s) := by
  unfold execDbgMark
  refine KeepsR.next ?_
  refine Keeps.ite ?_ ?_
  · exact (State.marker_keeps h_s)
  · exact h_s

theorem execTriggerFire_keeps {s0 : State} {n : Fin 4} {s : State} (h_s : Keeps s0 s) :
    KeepsR s0 (execTriggerFire n s) := by
  unfold execTriggerFire
  refine KeepsR.next ?_
  refine Keeps.ite ?_ ?_
  · refine State.fire_keeps ?_
    exact Keeps.upd h_s
  · exact h_s

theorem execDbgTrigFire_keeps {s0 : State} {n : Fin 4} {s : State} (h_s : Keeps s0 s) :
    KeepsR s0 (execDbgTrigFire n s) := by
  unfold execDbgTrigFire
  refine KeepsR.next ?_
  refine Keeps.ite ?_ ?_
  · exact (State.softFire_keeps h_s)
  · exact h_s

theorem execTriggerFreeze_keeps {s0 : State} {n : Fin 4} {s : State} (h_s : Keeps s0 s) :
    KeepsR s0 (execTriggerFreeze n s) := by
  unfold execTriggerFreeze
  refine KeepsR.next ?_
  split
  · exact h_s
  · refine Keeps.ite ?_ ?_
    · refine State.freeze_keeps ?_
      exact Keeps.upd h_s
    · exact h_s

theorem execTraceLoss_keeps {s0 : State} {port : Bool} {s : State} (h_s : Keeps s0 s) :
    KeepsR s0 (execTraceLoss port s) := by
  unfold execTraceLoss
  extract_lets -useContext -merge -underBinder x0 x1 x2
  refine KeepsR.next ?_
  refine Keeps.ite ?_ ?_
  · exact h_s
  · refine Keeps.ite ?_ ?_
    · exact Keeps.upd h_s
    · exact Keeps.upd h_s

theorem execDbgHist_keeps {s0 : State} {n : Fin 8} {v : W64} {s : State} (h_s : Keeps s0 s) :
    KeepsR s0 (execDbgHist n v s) := by
  unfold execDbgHist
  refine KeepsR.next ?_
  refine Keeps.ite ?_ ?_
  · exact (State.setHist_keeps h_s)
  · exact h_s

theorem execHistogramSample_keeps {s0 : State} {n : Fin 8} {s : State} (h_s : Keeps s0 s) :
    KeepsR s0 (execHistogramSample n s) := by
  unfold execHistogramSample
  extract_lets -useContext -merge -underBinder x0
  refine KeepsR.next ?_
  refine Keeps.ite ?_ ?_
  · exact (State.histAdd_keeps h_s)
  · exact h_s

theorem execCounterWrite_keeps {s0 : State} {off : BitVec 24} {v : W64} {s : State} (h_s : Keeps s0 s) :
    KeepsR s0 (execCounterWrite off v s) := by
  unfold execCounterWrite
  refine KeepsR.next ?_
  refine Keeps.ite ?_ ?_
  · exact (State.counterSet_keeps h_s)
  · exact h_s

theorem execWsBypass_keeps {s0 : State} {jtag : Bool} {s : State} (h_s : Keeps s0 s) :
    KeepsR s0 (execWsBypass jtag s) := by
  unfold execWsBypass
  exact State.testInstr_keeps h_s (fun _ h0 => h0)

theorem execWsExtest_keeps {s0 : State} {jtag : Bool} {cells : List Bool} {s : State} (h_s : Keeps s0 s) :
    KeepsR s0 (execWsExtest jtag cells s) := by
  unfold execWsExtest
  refine State.testInstr_keeps h_s (fun _ h0 => ?_)
  refine State.shiftOut_keeps ?_
  exact Keeps.upd h0

theorem execWsIntest_keeps {s0 : State} {jtag : Bool} {cells : List Bool} {s : State} (h_s : Keeps s0 s) :
    KeepsR s0 (execWsIntest jtag cells s) := by
  unfold execWsIntest
  refine State.testInstr_keeps h_s (fun _ h0 => ?_)
  refine State.shiftOut_keeps ?_
  exact Keeps.upd h0

theorem execWsScan_keeps {s0 : State} {jtag : Bool} {data : List Bool} {s : State} (h_s : Keeps s0 s) :
    KeepsR s0 (execWsScan jtag data s) := by
  unfold execWsScan
  refine State.testInstr_keeps h_s (fun _ h0 => ?_)
  refine State.shiftOut_keeps ?_
  exact Keeps.upd h0

theorem execWsLbist_keeps {s0 : State} {jtag : Bool} {list : List Nat} {s : State} (h_s : Keeps s0 s) :
    KeepsR s0 (execWsLbist jtag list s) := by
  unfold execWsLbist
  exact State.testInstr_keeps h_s (fun _ h0 => (State.shiftOut_keeps h0))

theorem execWsMbist_keeps {s0 : State} {jtag : Bool} {list : List Nat} {s : State} (h_s : Keeps s0 s) :
    KeepsR s0 (execWsMbist jtag list s) := by
  unfold execWsMbist
  exact State.testInstr_keeps h_s (fun _ h0 => (State.shiftOut_keeps h0))

theorem execWsFuse_keeps {s0 : State} {jtag : Bool} {w : FuseWrite} {s : State} (h_s : Keeps s0 s) :
    KeepsR s0 (execWsFuse jtag w s) := by
  unfold execWsFuse
  exact State.testInstr_keeps h_s (fun _ h0 => (State.fuseWrite_keeps h0))

theorem execWsHbm_keeps {s0 : State} {jtag : Bool} {stack : Fin 16} {s : State} (h_s : Keeps s0 s) :
    KeepsR s0 (execWsHbm jtag stack s) := by
  unfold execWsHbm
  refine KeepsR.ite ?_ ?_
  · exact State.testInstr_keeps h_s (fun _ h0 => h0)
  · exact State.testInstr_keeps h_s (fun _ h1 => h1)

theorem execWsIjtag_keeps {s0 : State} {jtag : Bool} {s : State} (h_s : Keeps s0 s) :
    KeepsR s0 (execWsIjtag jtag s) := by
  unfold execWsIjtag
  exact State.testInstr_keeps h_s (fun _ h0 => h0)

theorem execIdcode_keeps {s0 : State} {s : State} (h_s : Keeps s0 s) :
    KeepsR s0 (execIdcode s) := by
  unfold execIdcode
  exact State.testInstr_keeps h_s (fun _ h0 => (State.send_keeps h0))

theorem execSamplePreload_keeps {s0 : State} {cells : List Bool} {s : State} (h_s : Keeps s0 s) :
    KeepsR s0 (execSamplePreload cells s) := by
  unfold execSamplePreload
  refine State.testInstr_keeps h_s (fun _ h0 => ?_)
  refine State.shiftOut_keeps ?_
  exact Keeps.upd h0

theorem execBypass_keeps {s0 : State} {s : State} (h_s : Keeps s0 s) :
    KeepsR s0 (execBypass s) := by
  unfold execBypass
  exact State.testInstr_keeps h_s (fun _ h0 => h0)

theorem execTstHbmCtrl_keeps {s0 : State} {stack : Fin 16} {phys : Fin 32} {_pat : HbmPattern} {first : Nat} {count : Nat} {s : State} (h_s : Keeps s0 s) :
    KeepsR s0 (execTstHbmCtrl stack phys _pat first count s) := by
  unfold execTstHbmCtrl
  extract_lets -useContext -merge -underBinder x0
  have h1 : ∀ (a0 : State), Keeps s0 a0 → Keeps s0 (x0 a0) := by
    unfold x0
    refine fun _ h2 => ?_
    refine State.forEach_keeps (fun _ _ h3 => ?_) h2
    exact (State.bump_keeps (State.draw_keeps h3))
  clear_value x0
  refine KeepsR.next ?_
  refine Keeps.ite ?_ ?_
  · exact h_s
  · split
    · refine Keeps.ite ?_ ?_
      · exact h_s
      · exact (h1 _ h_s)
    · refine Keeps.ite ?_ ?_
      · refine h1 _ ?_
        · refine State.forEach_keeps (fun _ _ h4 => ?_) h_s
          exact (State.destroy_keeps h4)
      · exact h_s

theorem execFabPrbsCtrl_keeps {s0 : State} {port : Fin 8} {v : W64} {s : State} (h_s : Keeps s0 s) :
    KeepsR s0 (execFabPrbsCtrl port v s) := by
  unfold execFabPrbsCtrl
  refine KeepsR.next ?_
  refine Keeps.ite ?_ ?_
  · exact (State.prbsCtrl_keeps h_s)
  · exact h_s

theorem execDebugTokenVerified_keeps {s0 : State} {s : State} (h_s : Keeps s0 s) :
    KeepsR s0 (execDebugTokenVerified s) := by
  unfold execDebugTokenVerified
  refine KeepsR.next ?_
  refine Keeps.ite ?_ ?_
  · exact h_s
  · refine Keeps.ite ?_ ?_
    · exact (State.warmReset_keeps h_s)
    · refine State.setReg_keeps ?_
      refine State.bump_keeps ?_
      exact Keeps.gen h_s (Nat.le_refl _) id id (List.prefix_refl _)

theorem execTestLogicReset_keeps {s0 : State} {s : State} (h_s : Keeps s0 s) :
    KeepsR s0 (execTestLogicReset s) := by
  unfold execTestLogicReset
  refine KeepsR.next ?_
  exact Keeps.upd h_s

end Sys2Proof.Machine
end

