-- ==== Sys2Proof/Laws/KeepsPorts.lean ====
section
/-! SUPPORT. What each operation keeps (Keeps.lean): register accesses, remote operations at their target, inbound messages and the tick. -/

namespace Sys2Proof.Machine

theorem State.after_keeps {s0 : State} {s : State} {r : Res} (h_s : Keeps s0 s) (h_r : KeepsR s0 r) :
    Keeps s0 (State.after s r) := by
  unfold State.after
  split
  · exact h_r _ rfl
  · exact h_s

theorem State.answer_keeps {s0 : State} {s : State} {l : Nat} {tag : Nat} {f : RemOp → RemOp} (h_s : Keeps s0 s) :
    Keeps s0 (State.answer s l tag f) := by
  unfold State.answer
  exact (State.onRod_keeps h_s)

theorem State.beatErr_keeps {s0 : State} {s : State} {n : Nat} (h_s : Keeps s0 s) :
    Keeps s0 (State.beatErr s n) := by
  unfold State.beatErr
  exact (State.bump_keeps h_s)

theorem State.arrived_keeps {s0 : State} {s : State} {ch : Nat} {m : Msg} {f : State → State} (h_s : Keeps s0 s) (h_f : ∀ (a0 : State), Keeps s0 a0 → Keeps s0 (f a0)) :
    KeepsR s0 (State.arrived s ch m f) := by
  unfold State.arrived
  extract_lets -useContext -merge -underBinder x0 x1 x2
  refine KeepsR.next ?_
  refine Keeps.ite ?_ ?_
  · exact h_s
  · refine Keeps.ite ?_ ?_
    · exact (State.beatErr_keeps h_s)
    · refine Keeps.ite ?_ ?_
      · exact h_s
      · exact (h_f _ (State.beatErr_keeps h_s))

theorem State.writeAt_keeps {s0 : State} {s : State} {q : Nat} {t : Target} {bs : List Byte} (h_s : Keeps s0 s) :
    Keeps2 s0 (State.writeAt s q t bs) := by
  unfold State.writeAt
  extract_lets -useContext -merge -underBinder x0
  have h1 : ∀ (a0 : Bool) (a1 : Nat) (a2 : State), Keeps s0 a2 → Keeps2 s0 (x0 a0 a1 a2) := by
    unfold x0
    refine fun _ _ _ h2 => ?_
    refine Keeps2.ite ?_ ?_
    · refine Keeps2.mk ?_
      exact (State.countPoison_keeps h2)
    · refine Keeps2.mk ?_
      exact h2
  clear_value x0
  split
  · refine Keeps2.ite ?_ ?_
    · refine Keeps2.mk ?_
      exact h_s
    · extract_lets -useContext -merge -underBinder x3
      exact (h1 _ _ _ (State.beadWrite_keeps h_s))
  · exact (h1 _ _ _ (State.hbmWrite_keeps h_s))
  · extract_lets -useContext -merge -underBinder x4 x5 x6
    refine Keeps2.ite ?_ ?_
    · refine Keeps2.mk ?_
      exact (State.countBad_keeps h_s)
    · exact (h1 _ _ _ (State.spansWrite_keeps (State.writeMeetsDemote_keeps h_s)))
  · refine Keeps2.mk ?_
    exact h_s
  · refine Keeps2.mk ?_
    exact h_s

theorem State.atomAt_keeps {s0 : State} {s : State} {q : Nat} {t : Target} {op : AtomOp} {w : Nat} {b : W64} {c : W64} (h_s : Keeps s0 s) :
    Keeps22 s0 (State.atomAt s q t op w b c) := by
  unfold State.atomAt
  extract_lets -useContext -merge -underBinder x0 x1
  split
  · refine Keeps22.mk ?_
    refine Keeps2.mk ?_
    exact h_s
  · refine Keeps22.ite ?_ ?_
    · refine Keeps22.mk ?_
      refine Keeps2.mk ?_
      exact h_s
    · extract_lets -useContext -merge -underBinder x2
      refine Keeps22.ite ?_ ?_
      · refine Keeps22.mk ?_
        refine Keeps2.mk ?_
        split
        · exact (State.countBad_keeps h_s)
        · exact h_s
      · split
        · refine Keeps22.mk ?_
          refine Keeps2.mk ?_
          exact h_s
        · refine Keeps22.ite ?_ ?_
          · refine Keeps22.mk ?_
            refine Keeps2.mk ?_
            exact h_s
          · extract_lets -useContext -merge -underBinder x3
            refine Keeps22.mk ?_
            refine Keeps2.mk ?_
            exact (State.writeAt_keeps h_s)

theorem State.barrierRelease_keeps {s0 : State} {s : State} {p : Nat} (h_s : Keeps s0 s) :
    Keeps s0 (State.barrierRelease s p) := by
  unfold State.barrierRelease
  refine State.forEach_keeps (fun _ _ h0 => ?_) (State.onPart_keeps (State.setReg_keeps h_s))
  exact (State.addCnt_keeps h0)

theorem State.beamOp_keeps {s0 : State} {s : State} {op : Nat} {o : BeamOp} {len : Nat} {data : List Byte} (h_s : Keeps s0 s) :
    Keeps s0 (State.beamOp s op o len data) := by
  unfold State.beamOp
  exact (State.settleNotes_keeps (State.unitOp_keeps h_s))

theorem State.beamAtomic_keeps {s0 : State} {s : State} {o : BeamOp} (h_s : Keeps s0 s) :
    Keeps s0 (State.beamAtomic s o) := by
  unfold State.beamAtomic
  extract_lets -useContext -merge -underBinder x0 x1
  split
  · exact (State.beamOp_keeps h_s)
  · refine Keeps.ite ?_ ?_
    · exact (State.atomAt_keeps h_s)
    · exact h_s
  · exact h_s

theorem State.readReg_keeps {s0 : State} {s : State} {off : Nat} (h_s : Keeps s0 s) :
    Keeps2 s0 (State.readReg s off) := by
  unfold State.readReg
  split
  · refine Keeps2.mk ?_
    exact h_s
  · refine Keeps2.ite ?_ ?_
    · refine Keeps2.mk ?_
      exact h_s
    · extract_lets -useContext -merge -underBinder x0 x1
      have h2 : Keeps s0 x1 := by
        unfold x1
        refine Keeps.ite ?_ ?_
        · exact (State.readChal_keeps h_s)
        · exact h_s
      clear_value x1
      refine Keeps2.mk ?_
      exact h2

theorem State.beamGet_keeps {s0 : State} {s : State} {o : BeamOp} (h_s : Keeps s0 s) :
    Keeps s0 (State.beamGet s o) := by
  unfold State.beamGet
  split
  · exact (State.readReg_keeps h_s)
  · exact (State.beamOp_keeps h_s)
  · exact (State.beamOp_keeps h_s)
  · exact (State.beamOp_keeps h_s)
  · exact h_s

theorem State.setFields_keeps {s0 : State} {s : State} {off : Nat} {v : W64} {fs : List RField} (h_s : Keeps s0 s) :
    Keeps s0 (State.setFields s off v fs) := by
  unfold State.setFields
  refine Keeps.ite ?_ ?_
  · exact h_s
  · exact (State.setReg_keeps h_s)

theorem State.clearFatal_keeps {s0 : State} {s : State} {v : W64} (h_s : Keeps s0 s) :
    Keeps s0 (State.clearFatal s v) := by
  unfold State.clearFatal
  refine Keeps.ite ?_ ?_
  · exact (State.setReg_keeps h_s)
  · exact h_s

theorem State.partCommand_keeps {s0 : State} {s : State} {p : Fin 16} {cmd : Nat} (h_s : Keeps s0 s) :
    Keeps s0 (State.partCommand s p cmd) := by
  unfold State.partCommand
  split
  · exact (State.after_keeps h_s (execCreate_keeps h_s))
  · exact (State.after_keeps h_s (execStart_keeps h_s))
  · exact (State.after_keeps h_s (execRelease_keeps h_s))
  · exact (State.after_keeps h_s (execReleaseWithReplay_keeps h_s))
  · exact (State.after_keeps h_s (execPartitionReset_keeps h_s))
  · exact (State.after_keeps h_s (execDelete_keeps h_s))
  · exact h_s

theorem State.stageCtl_keeps {s0 : State} {s : State} {off : Nat} {v : W64} {fs : List RField} (h_s : Keeps s0 s) :
    Keeps s0 (State.stageCtl s off v fs) := by
  unfold State.stageCtl
  refine Keeps.ite ?_ ?_
  · exact h_s
  · exact (State.setFields_keeps h_s)

theorem State.writePfxKey_keeps {s0 : State} {s : State} {p : Nat} {k : Nat} {v : W64} (h_s : Keeps s0 s) :
    Keeps s0 (State.writePfxKey s p k v) := by
  unfold State.writePfxKey
  refine Keeps.ite ?_ ?_
  · exact h_s
  · exact (State.onPart_keeps h_s)

theorem State.poolSupply_keeps {s0 : State} {s : State} {n : Nat} {v : W64} (h_s : Keeps s0 s) :
    Keeps s0 (State.poolSupply s n v) := by
  unfold State.poolSupply
  extract_lets -useContext -merge -underBinder x0 x1 x2 x3 x4 x5 x6
  have h7 : Keeps s0 x6 := (State.setReg_keeps h_s)
  clear_value x6
  refine Keeps.ite ?_ ?_
  · exact h7
  · exact (State.setPool_keeps h7)

theorem State.portCtrl_keeps {s0 : State} {s : State} {v : W64} (h_s : Keeps s0 s) :
    Keeps s0 (State.portCtrl s v) := by
  unfold State.portCtrl
  extract_lets -useContext -merge -underBinder x0 x1
  have h2 : Keeps s0 x1 := (State.setReg_keeps h_s)
  clear_value x1
  refine State.forEach_keeps (fun _ _ h3 => ?_) h2
  refine Keeps.ite ?_ ?_
  · exact (State.linkDown_keeps h3)
  · refine Keeps.ite ?_ ?_
    · exact (State.portProbe_keeps (State.setReg_keeps (State.setRf_keeps h3)))
    · exact h3

theorem State.chanCtrl_keeps {s0 : State} {s : State} {v : W64} (h_s : Keeps s0 s) :
    Keeps s0 (State.chanCtrl s v) := by
  unfold State.chanCtrl
  extract_lets -useContext -merge -underBinder x0 x1
  have h2 : Keeps s0 x1 := (State.setReg_keeps h_s)
  clear_value x1
  refine State.forEach_keeps (fun _ _ h3 => ?_) h2
  refine Keeps.ite ?_ ?_
  · exact (State.setChan_keeps h3)
  · refine Keeps.ite ?_ ?_
    · exact (State.setChan_keeps h3)
    · exact h3

theorem State.loopCtrl_keeps {s0 : State} {s : State} {v : W64} (h_s : Keeps s0 s) :
    Keeps s0 (State.loopCtrl s v) := by
  unfold State.loopCtrl
  refine State.forEach_keeps (fun _ _ h0 => ?_) h_s
  refine Keeps.ite ?_ ?_
  · exact (State.setRf_keeps h0)
  · exact h0

theorem State.clearErrLog_keeps {s0 : State} {s : State} {v : W64} (h_s : Keeps s0 s) :
    Keeps s0 (State.clearErrLog s v) := by
  unfold State.clearErrLog
  refine Keeps.ite ?_ ?_
  · refine State.setReg_keeps ?_
    refine State.forEach_keeps (fun _ _ h0 => ?_) h_s
    exact (State.setReg_keeps h0)
  · exact h_s

theorem State.queueSetting_keeps {s0 : State} {s : State} {t : Nat} {on : Bool} {f : State} (h_s : Keeps s0 s) (h_f : Keeps s0 f) :
    Keeps s0 (State.queueSetting s t on f) := by
  unfold State.queueSetting
  refine Keeps.ite ?_ ?_
  · exact (State.inErr_keeps h_s)
  · exact h_f

theorem State.writeReg_keeps {s0 : State} {s : State} {mgmt : Bool} {off : Nat} {v : W64} (h_s : Keeps s0 s) :
    Keeps s0 (State.writeReg s mgmt off v) := by
  unfold State.writeReg
  split
  · exact h_s
  · extract_lets -useContext -merge -underBinder x0 x1 x2 x3 x4 x5
    have h6 : Keeps s0 x5 := by
      unfold x5
      refine Keeps.ite ?_ ?_
      · exact (State.setFields_keeps h_s)
      · exact h_s
    clear_value x5
    clear_value x4
    refine Keeps.ite ?_ ?_
    · exact h_s
    · split
      · refine Keeps.ite ?_ ?_
        · exact (State.imgAddr_keeps h_s)
        · exact h_s
      · refine Keeps.ite ?_ ?_
        · exact (State.imgData_keeps h_s)
        · exact h_s
      · refine Keeps.ite ?_ ?_
        · exact (State.imgGo_keeps h_s)
        · exact h_s
      · exact (State.rstCtrl_keeps h_s)
      · exact (State.tokenWrite_keeps h_s)
      · exact (State.spdmWrite_keeps h_s)
      · exact (State.presetOwner_keeps h_s)
      · exact (State.lockSec_keeps h_s)
      · exact (State.lockPwr_keeps h_s)
      · exact (State.setHaltN_keeps h_s)
      · refine Keeps.ite ?_ ?_
        · exact (State.clearDiscrepancy_keeps h_s)
        · exact h_s
      · exact (State.clearFatal_keeps h_s)
      · exact (State.clearEvents_keeps h_s)
      · exact (State.snapshot_keeps h_s)
      · exact (State.traceCtrl_keeps h_s)
      · exact (State.marker_keeps h_s)
      · refine Keeps.ite ?_ ?_
        · exact (State.freeze_keeps h_s)
        · exact h_s
      · exact (State.wfCapture_keeps h_s)
      · exact (State.rodAccess_keeps h_s)
      · refine Keeps.ite ?_ ?_
        · exact (State.softFire_keeps h_s)
        · exact h_s
      · exact (State.setHist_keeps h_s)
      · exact (State.counterSet_keeps h_s)
      · exact (State.partCommand_keeps h_s)
      · exact (State.stageCtl_keeps h_s)
      · exact (State.writePfxKey_keeps h_s)
      · exact (State.after_keeps h_s (execTierCmdTail_keeps h_s))
      · refine Keeps.ite ?_ ?_
        · exact (State.setFields_keeps h_s)
        · exact h6
      · exact (State.poolSupply_keeps h_s)
      · exact (State.after_keeps h_s (execGthRowwrite_keeps h_s))
      · exact (State.stageCtl_keeps h_s)
      · exact (State.writeRelease_keeps h_s)
      · exact (State.inboxServe_keeps (State.setFields_keeps h_s))
      · exact (State.stageCtl_keeps h_s)
      · exact (State.portCtrl_keeps h_s)
      · exact (State.prbsCtrl_keeps h_s)
      · exact (State.chanCtrl_keeps h_s)
      · exact (State.loopCtrl_keeps h_s)
      · exact (State.clearErrLog_keeps h_s)
      · exact (State.tenResetWrite_keeps h_s)
      · exact (State.bufDone_keeps h_s)
      · exact (State.bufFree_keeps h_s)
      · exact (State.marker_keeps h_s)
      · exact (State.queueSetting_keeps h_s h6)
      · exact (State.cfgSq_keeps h_s)
      · exact (State.ringDoorbell_keeps h_s)
      · exact (State.queueSetting_keeps h_s h6)
      · exact (State.cfgCq_keeps h_s)
      · exact (State.returnCq_keeps h_s)
      · exact (State.maskVecs_keeps h_s)
      · split
        · exact (State.spdmWrite_keeps h_s)
        · exact h_s
      · exact (State.queueSetting_keeps h_s h6)
      · exact (State.cfgRing_keeps h_s)
      · exact (State.queueSetting_keeps h_s h6)
      · exact (State.returnRing_keeps h_s)
      · exact h6

theorem State.beamPut_keeps {s0 : State} {s : State} {o : BeamOp} (h_s : Keeps s0 s) :
    Keeps s0 (State.beamPut s o) := by
  unfold State.beamPut
  split
  · refine Keeps.ite ?_ ?_
    · exact (State.writeReg_keeps h_s)
    · exact h_s
  · exact (State.beamOp_keeps h_s)
  · exact (State.beamOp_keeps h_s)
  · exact (State.writeAt_keeps h_s)

theorem State.stepEnd_keeps {s0 : State} {s : State} {p : Nat} (h_s : Keeps s0 s) :
    Keeps s0 (State.stepEnd s p) := by
  unfold State.stepEnd
  exact (State.onPart_keeps (State.setReg_keeps h_s))

theorem State.tallyAdd_keeps {s0 : State} {s : State} {r : TallyReg} {inc : W32} {l : Option Nat} (h_s : Keeps s0 s) :
    Keeps s0 (State.tallyAdd s r inc l) := by
  unfold State.tallyAdd
  split
  · extract_lets -useContext -merge -underBinder x0 x1
    have h2 : Keeps s0 x1 := (State.onPart_keeps (State.setReg_keeps h_s))
    clear_value x1
    refine Keeps.ite ?_ ?_
    · exact (State.barrierRelease_keeps h2)
    · exact h2
  · extract_lets -useContext -merge -underBinder x3 x4
    have h5 : Keeps s0 x4 := (State.onPart_keeps (State.setReg_keeps h_s))
    clear_value x4
    refine Keeps.ite ?_ ?_
    · exact (State.stepEnd_keeps h5)
    · exact h5
  · extract_lets -useContext -merge -underBinder x6
    exact (State.marker_keeps (State.setReg_keeps h_s))
  · extract_lets -useContext -merge -underBinder x7
    exact (State.inboxServe_keeps (State.setReg_keeps h_s))

theorem State.beamTally_keeps {s0 : State} {s : State} {o : BeamOp} (h_s : Keeps s0 s) :
    Keeps s0 (State.beamTally s o) := by
  unfold State.beamTally
  split
  · refine Keeps.ite ?_ ?_
    · exact h_s
    · exact (State.onRod_keeps h_s)
  · split
    · exact (State.tallyAdd_keeps h_s)
    · exact h_s
  · exact (State.beamOp_keeps h_s)
  · exact h_s

theorem State.logHeader_keeps {s0 : State} {s : State} {m : Msg} (h_s : Keeps s0 s) :
    Keeps s0 (State.logHeader s m) := by
  unfold State.logHeader
  refine Keeps.ite ?_ ?_
  · exact h_s
  · refine State.setReg_keeps ?_
    refine State.forEach_keeps (fun _ _ h0 => ?_) h_s
    exact (State.setReg_keeps h0)

theorem State.rejectPosted_keeps {s0 : State} {s : State} {m : Msg} (h_s : Keeps s0 s) :
    Keeps s0 (State.rejectPosted s m) := by
  unfold State.rejectPosted
  exact (State.inErr_keeps (State.logHeader_keeps h_s))

theorem State.posted_keeps {s0 : State} {s : State} {ch : Nat} {m : Msg} {f : State → State} (h_s : Keeps s0 s) (h_f : ∀ (a0 : State), Keeps s0 a0 → Keeps s0 (f a0)) :
    Keeps s0 (State.posted s ch m f) := by
  unfold State.posted
  refine Keeps.ite ?_ ?_
  · exact (h_f _ h_s)
  · exact (h_f _ (State.bump_keeps h_s))

theorem State.checked_keeps {s0 : State} {s : State} {ch : Nat} {m : Msg} {f : State → State} (h_s : Keeps s0 s) (h_f : ∀ (a0 : State), Keeps s0 a0 → Keeps s0 (f a0)) :
    Keeps s0 (State.checked s ch m f) := by
  unfold State.checked
  refine Keeps.ite ?_ ?_
  · exact (State.bump_keeps (State.rejectPosted_keeps h_s))
  · refine Keeps.ite ?_ ?_
    · exact (State.rejectPosted_keeps h_s)
    · exact State.posted_keeps h_s (fun _ h0 => (h_f _ h0))

theorem State.occTick_keeps {s0 : State} {s : State} {off : Nat} {src : Nat} {inst : Nat} {cycles : Nat} (h_s : Keeps s0 s) :
    Keeps s0 (State.occTick s off src inst cycles) := by
  unfold State.occTick
  extract_lets -useContext -merge -underBinder x0 x1
  have h2 : Keeps s0 x1 := (State.bump_keeps h_s)
  clear_value x1
  refine Keeps.ite ?_ ?_
  · exact h_s
  · refine Keeps.ite ?_ ?_
    · exact h2
    · exact (State.setReg_keeps h2)

theorem State.stallTick_keeps {s0 : State} {s : State} {p : Nat} (h_s : Keeps s0 s) :
    Keeps s0 (State.stallTick s p) := by
  unfold State.stallTick
  extract_lets -useContext -merge -underBinder x0 x1 x2
  refine Keeps.ite ?_ ?_
  · exact h_s
  · exact (State.bump_keeps h_s)

theorem State.partOccTick_keeps {s0 : State} {s : State} {p : Nat} (h_s : Keeps s0 s) :
    Keeps s0 (State.partOccTick s p) := by
  unfold State.partOccTick
  refine State.forEach_keeps (fun _ _ h0 => ?_) h_s
  exact (State.occTick_keeps h0)

theorem State.clockTick_keeps {s0 : State} {s : State} (h_s : Keeps s0 s) :
    Keeps s0 (State.clockTick s) := by
  unfold State.clockTick
  extract_lets -useContext -merge -underBinder x0 x1 x2 x3 x4 x5 x6 x7 x8 x9 x10 x11
  have h12 : Keeps s0 x1 := by
    unfold x1
    refine Keeps.ite ?_ ?_
    · exact (State.bump_keeps (State.bump_keeps h_s))
    · exact h_s
  clear_value x1
  have h13 : Keeps s0 x3 := by
    unfold x3
    refine State.bump_keeps ?_
    refine State.bump_keeps ?_
    exact Keeps.upd h12
  clear_value x3
  have h14 : Keeps s0 x4 := by
    unfold x4
    refine Keeps.ite ?_ ?_
    · exact (State.bump_keeps h13)
    · exact h13
  clear_value x4
  have h15 : Keeps s0 x5 := by
    unfold x5
    refine State.forEach_keeps (fun _ _ h16 => ?_) h14
    exact (State.bump_keeps h16)
  clear_value x5
  have h17 : Keeps s0 x6 := by
    unfold x6
    refine State.forEach_keeps (fun _ _ h18 => ?_) h15
    refine Keeps.ite ?_ ?_
    · exact (State.occTick_keeps (State.bump_keeps h18))
    · exact h18
  clear_value x6
  have h19 : Keeps s0 x7 := by
    unfold x7
    refine Keeps.foldl (fun _ _ h20 => ?_) _ h17
    exact (State.stallTick_keeps (State.partOccTick_keeps h20))
  clear_value x7
  have h21 : Keeps s0 x8 := by
    unfold x8
    refine Keeps.foldl (fun _ _ h22 => ?_) _ h19
    exact (State.occTick_keeps h22)
  clear_value x8
  have h23 : Keeps s0 x9 := by
    unfold x9
    refine State.forEach_keeps (fun _ _ h24 => ?_) h21
    exact (State.occTick_keeps h24)
  clear_value x9
  have h25 : Keeps s0 x10 := by
    unfold x10
    refine Keeps.ite ?_ ?_
    · exact h23
    · refine State.forEach_keeps (fun _ _ h26 => ?_) h23
      exact (State.occTick_keeps h26)
  clear_value x10
  have h27 : Keeps s0 x11 := by
    unfold x11
    refine Keeps.ite ?_ ?_
    · exact h25
    · refine State.forEach_keeps (fun _ _ h28 => ?_) h25
      exact (State.occTick_keeps h28)
  clear_value x11
  refine Keeps.ite ?_ ?_
  · exact h12
  · exact (State.occTick_keeps h27)

theorem State.dropRead_keeps {s0 : State} {s : State} {r : OutRead} (h_s : Keeps s0 s) :
    Keeps s0 (State.dropRead s r) := by
  unfold State.dropRead
  exact Keeps.upd h_s

theorem State.readFailed_keeps {s0 : State} {s : State} {r : OutRead} {resp : Nat} (h_s : Keeps s0 s) :
    Keeps s0 (State.readFailed s r resp) := by
  unfold State.readFailed
  split
  · exact (State.fetchFailed_keeps (State.dropRead_keeps h_s))
  · exact (State.settleOps_keeps (State.unitRead_keeps (State.dropRead_keeps h_s)))

theorem State.completion_keeps {s0 : State} {s : State} {ch : Nat} {m : Msg} {ty : Nat} {f : OutRead → State → State} (h_s : Keeps s0 s) (h_f : ∀ (a0 : OutRead) (a1 : State), Keeps s0 a1 → Keeps s0 (f a0 a1)) :
    Keeps s0 (State.completion s ch m ty f) := by
  unfold State.completion
  refine Keeps.ite ?_ ?_
  · exact (State.inErr_keeps h_s)
  · refine Keeps.ite ?_ ?_
    · exact h_s
    · split
      · exact h_s
      · refine Keeps.ite ?_ ?_
        · exact (h_f _ _ h_s)
        · exact (State.readFailed_keeps h_s)

theorem State.discrepancyTick_keeps {s0 : State} {s : State} (h_s : Keeps s0 s) :
    Keeps s0 (State.discrepancyTick s) := by
  unfold State.discrepancyTick
  extract_lets -useContext -merge -underBinder x0 x1 x2
  have h3 : Keeps s0 x2 := (State.setRf_keeps h_s)
  clear_value x2
  refine Keeps.ite ?_ ?_
  · exact (State.setRf_keeps h_s)
  · refine Keeps.ite ?_ ?_
    · exact (State.setRf_keeps h3)
    · exact h3

theorem State.eventIn_keeps {s0 : State} {s : State} {ch : Nat} {t : Nat} {f : State → State} (h_s : Keeps s0 s) (h_f : ∀ (a0 : State), Keeps s0 a0 → Keeps s0 (f a0)) :
    KeepsR s0 (State.eventIn s ch t f) := by
  unfold State.eventIn
  refine KeepsR.next ?_
  refine Keeps.ite ?_ ?_
  · exact h_s
  · refine Keeps.ite ?_ ?_
    · exact (State.beatErr_keeps h_s)
    · extract_lets -useContext -merge -underBinder x0
      have h1 : Keeps s0 x0 := (State.setRf_keeps h_s)
      clear_value x0
      refine h_f _ ?_
      · refine Keeps.ite ?_ ?_
        · exact h1
        · exact (State.bump_keeps h1)

theorem State.holdTick_keeps {s0 : State} {s : State} (h_s : Keeps s0 s) :
    Keeps s0 (State.holdTick s) := by
  unfold State.holdTick
  refine Keeps.ite ?_ ?_
  · exact (State.setReg_keeps h_s)
  · exact h_s

theorem State.linkTick_keeps {s0 : State} {s : State} (h_s : Keeps s0 s) :
    Keeps s0 (State.linkTick s) := by
  unfold State.linkTick
  refine Keeps.ite ?_ ?_
  · refine State.forEach_keeps (fun _ _ h0 => ?_) h_s
    exact (State.idleGroup_keeps (State.spdmBegin_keeps h0))
  · exact h_s

theorem State.loopback_keeps {s0 : State} {s : State} {ch : Nat} {m : Msg} (h_s : Keeps s0 s) :
    Keeps s0 (State.loopback s ch m) := by
  unfold State.loopback
  refine Keeps.ite ?_ ?_
  · exact (State.setChan_keeps h_s)
  · exact (State.inErr_keeps h_s)

theorem State.peerServe_keeps {s0 : State} {s : State} {port : Nat} {sel : Nat → Bool} {f : PeerReq → State → State} (h_s : Keeps s0 s) (h_f : ∀ (a0 : PeerReq) (a1 : State), Keeps s0 a1 → Keeps s0 (f a0 a1)) :
    Keeps s0 (State.peerServe s port sel f) := by
  unfold State.peerServe
  split
  · exact h_s
  · rename_i v0 v1 e2
    have h3 := KeepsO.elim e2 (State.takeRequest_keeps h_s)
    refine Keeps.ite ?_ ?_
    · exact (h_f _ _ h3)
    · exact h_s

theorem State.peerReply_keeps {s0 : State} {s : State} {port : Nat} {f : Flit} {op : Nat} {len : Nat} {status : Nat} {w2 : W64} {data : List Byte} (h_s : Keeps s0 s) :
    Keeps s0 (State.peerReply s port f op len status w2 data) := by
  unfold State.peerReply
  exact (State.linkSend_keeps h_s)

theorem State.peerAtomic_keeps {s0 : State} {s : State} {port : Nat} (h_s : Keeps s0 s) :
    Keeps s0 (State.peerAtomic s port) := by
  unfold State.peerAtomic
  refine State.peerServe_keeps h_s (fun _ _ h0 => ?_)
  extract_lets -useContext -merge -underBinder x1 x2 x3 x4 x5
  have h6 : Keeps22 s0 x5 := (State.atomAt_keeps h0)
  clear_value x5
  refine Keeps.ite ?_ ?_
  · exact (State.peerReply_keeps h0)
  · refine Keeps.ite ?_ ?_
    · exact (State.peerReply_keeps h6)
    · exact (State.peerReply_keeps h6)

theorem State.peerGet_keeps {s0 : State} {s : State} {port : Nat} (h_s : Keeps s0 s) :
    Keeps s0 (State.peerGet s port) := by
  unfold State.peerGet
  refine State.peerServe_keeps h_s (fun _ _ h0 => ?_)
  extract_lets -useContext -merge -underBinder x1 x2
  refine Keeps.ite ?_ ?_
  · exact (State.peerReply_keeps h0)
  · split
    · exact (State.peerReply_keeps h0)
    · exact (State.peerReply_keeps h0)

theorem State.peerPut_keeps {s0 : State} {s : State} {port : Nat} (h_s : Keeps s0 s) :
    Keeps s0 (State.peerPut s port) := by
  unfold State.peerPut
  refine State.peerServe_keeps h_s (fun _ _ h0 => ?_)
  extract_lets -useContext -merge -underBinder x1 x2 x3
  have h4 : Keeps2 s0 x3 := (State.writeAt_keeps h0)
  clear_value x3
  refine Keeps.ite ?_ ?_
  · exact (State.peerReply_keeps h0)
  · exact (State.peerReply_keeps h4)

theorem State.peerTally_keeps {s0 : State} {s : State} {port : Nat} (h_s : Keeps s0 s) :
    Keeps s0 (State.peerTally s port) := by
  unfold State.peerTally
  refine State.peerServe_keeps h_s (fun _ _ h0 => ?_)
  extract_lets -useContext -merge -underBinder x1
  split
  · refine Keeps.ite ?_ ?_
    · exact (State.peerReply_keeps h0)
    · refine Keeps.ite ?_ ?_
      · exact (State.peerReply_keeps h0)
      · exact (State.peerReply_keeps (State.onRod_keeps h0))
  · exact (State.peerReply_keeps h0)
  · exact (State.peerReply_keeps h0)

theorem State.writeRegs_keeps {s0 : State} {s : State} {off : Nat} {ws : List W64} (h_s : Keeps s0 s) :
    Keeps s0 (State.writeRegs s off ws) := by
  unfold State.writeRegs
  refine State.forEach_keeps (fun _ _ h0 => ?_) h_s
  exact (State.writeReg_keeps h0)

theorem State.performWrite_keeps {s0 : State} {s : State} {m : Msg} (h_s : Keeps s0 s) :
    Keeps s0 (State.performWrite s m) := by
  unfold State.performWrite
  extract_lets -useContext -merge -underBinder x0 x1 x2
  have h3 : Keeps s0 x2 := by
    unfold x2
    refine Keeps.ite ?_ ?_
    · exact (State.countPoison_keeps h_s)
    · exact h_s
  clear_value x2
  refine Keeps.ite ?_ ?_
  · exact (State.hbmWrite_keeps h3)
  · refine Keeps.ite ?_ ?_
    · exact (State.inErr_keeps h_s)
    · exact (State.writeRegs_keeps h_s)

theorem State.readDone_keeps {s0 : State} {s : State} {r : OutRead} (h_s : Keeps s0 s) :
    Keeps s0 (State.readDone s r) := by
  unfold State.readDone
  split
  · exact (State.fetched_keeps h_s)
  · exact (State.settleOps_keeps (State.unitRead_keeps h_s))

theorem State.readRegs_keeps {s0 : State} {s : State} {off : Nat} {u2 : Nat} (h_s : Keeps s0 s) :
    Keeps2 s0 (State.readRegs s off u2) := by
  induction u2 generalizing s off with
  | zero =>
    rw [State.readRegs.eq_1]
    refine Keeps2.mk ?_
    exact h_s
  | succ n ih =>
    rw [State.readRegs.eq_2]
    refine Keeps2.mk ?_
    exact (by apply ih; exact (State.readReg_keeps h_s))

theorem State.respond_keeps {s0 : State} {s : State} {ch : Nat} {hdr : List W64} {data : List Byte} (h_s : Keeps s0 s) :
    Keeps s0 (State.respond s ch hdr data) := by
  unfold State.respond
  refine Keeps.ite ?_ ?_
  · exact (State.setChan_keeps h_s)
  · exact (State.send_keeps h_s)

theorem State.respondData_keeps {s0 : State} {s : State} {ch : Nat} {m : Msg} {bs : List Byte} (h_s : Keeps s0 s) :
    Keeps s0 (State.respondData s ch m bs) := by
  unfold State.respondData
  exact (State.respond_keeps h_s)

theorem State.respondErr_keeps {s0 : State} {s : State} {ch : Nat} {m : Msg} {code : Nat} (h_s : Keeps s0 s) :
    Keeps s0 (State.respondErr s ch m code) := by
  unfold State.respondErr
  exact (State.respond_keeps h_s)

theorem State.readWindow_keeps {s0 : State} {s : State} {ch : Nat} {m : Msg} (h_s : Keeps s0 s) :
    Keeps s0 (State.readWindow s ch m) := by
  unfold State.readWindow
  refine Keeps.ite ?_ ?_
  · extract_lets -useContext -merge -underBinder x0
    have h1 : Keeps2 s0 x0 := (State.readRegs_keeps h_s)
    clear_value x0
    exact (State.respondData_keeps h1)
  · refine Keeps.ite ?_ ?_
    · extract_lets -useContext -merge -underBinder x2
      have h3 : Keeps2 s0 x2 := (State.readReg_keeps h_s)
      clear_value x2
      exact (State.respondData_keeps h3)
    · exact (State.inErr_keeps (State.respondErr_keeps h_s))

theorem State.rodAtomic_keeps {s0 : State} {s : State} {l : Nat} {tag : Nat} (h_s : Keeps s0 s) :
    Keeps s0 (State.rodAtomic s l tag) := by
  unfold State.rodAtomic
  split
  · exact h_s
  · split
    · extract_lets -useContext -merge -underBinder x0 x1 x2
      have h3 : Keeps22 s0 x2 := (State.atomAt_keeps h_s)
      clear_value x2
      refine Keeps.ite ?_ ?_
      · exact (State.answer_keeps h_s)
      · exact (State.answer_keeps h3)
    · exact h_s

theorem State.rodGet_keeps {s0 : State} {s : State} {l : Nat} {tag : Nat} (h_s : Keeps s0 s) :
    Keeps s0 (State.rodGet s l tag) := by
  unfold State.rodGet
  split
  · exact h_s
  · extract_lets -useContext -merge -underBinder x0 x1
    refine Keeps.ite ?_ ?_
    · exact (State.answer_keeps h_s)
    · split
      · exact (State.countBad_keeps (State.answer_keeps h_s))
      · extract_lets -useContext -merge -underBinder x2 x3
        have h4 : Keeps s0 x3 := (State.answer_keeps h_s)
        clear_value x3
        refine Keeps.ite ?_ ?_
        · exact h4
        · refine State.settleRods_keeps ?_
          refine State.forEach_keeps (fun _ _ h5 => ?_) h4
          exact (State.unitOp_keeps h5)

theorem State.rodPut_keeps {s0 : State} {s : State} {l : Nat} {tag : Nat} (h_s : Keeps s0 s) :
    Keeps s0 (State.rodPut s l tag) := by
  unfold State.rodPut
  split
  · exact h_s
  · extract_lets -useContext -merge -underBinder x0 x1 x2
    have h3 : Keeps2 s0 x2 := (State.writeAt_keeps h_s)
    clear_value x2
    refine Keeps.ite ?_ ?_
    · exact (State.answer_keeps h_s)
    · exact (State.answer_keeps h3)

theorem State.rodTally_keeps {s0 : State} {s : State} {l : Nat} {tag : Nat} (h_s : Keeps s0 s) :
    Keeps s0 (State.rodTally s l tag) := by
  unfold State.rodTally
  split
  · exact h_s
  · extract_lets -useContext -merge -underBinder x0 x1
    have h2 : ∀ (a0 : Nat) (a1 : State), Keeps s0 a1 → Keeps s0 (x1 a0 a1) := by
      unfold x1
      refine fun _ _ h3 => ?_
      exact (State.answer_keeps h3)
    clear_value x1
    split
    · refine Keeps.ite ?_ ?_
      · exact (h2 _ _ h_s)
      · refine Keeps.ite ?_ ?_
        · exact (h2 _ _ h_s)
        · exact (h2 _ _ (State.onRod_keeps h_s))
    · split
      · refine Keeps.ite ?_ ?_
        · exact (h2 _ _ (State.tallyAdd_keeps h_s))
        · exact (h2 _ _ h_s)
      · exact (h2 _ _ h_s)
    · exact (h2 _ _ h_s)
    · exact (h2 _ _ h_s)

theorem State.slewTick_keeps {s0 : State} {s : State} (h_s : Keeps s0 s) :
    Keeps s0 (State.slewTick s) := by
  unfold State.slewTick
  extract_lets -useContext -merge -underBinder x0 x1 x2
  exact Keeps.upd h_s

theorem State.unitTick_keeps {s0 : State} {s : State} (h_s : Keeps s0 s) :
    Keeps s0 (State.unitTick s) := by
  unfold State.unitTick
  refine Keeps.ite ?_ ?_
  · refine State.forEach_keeps (fun _ _ h0 => ?_) (State.settleDemotes_keeps (State.settleOps_keeps (State.opsExpire_keeps h_s)))
    exact (State.dirNext_keeps (State.loadStep_keeps h0))
  · exact h_s

theorem State.tick_keeps {s0 : State} {s : State} (h_s : Keeps s0 s) :
    Keeps s0 (State.tick s) := by
  unfold State.tick
  refine State.unitTick_keeps ?_
  refine State.linkTick_keeps ?_
  refine State.clockTick_keeps ?_
  refine State.holdTick_keeps ?_
  refine State.discrepancyTick_keeps ?_
  refine State.slewTick_keeps ?_
  exact Keeps.upd h_s

theorem execRemoteGetArrive_keeps {s0 : State} {src : Requester} {s : State} (h_s : Keeps s0 s) :
    KeepsR s0 (execRemoteGetArrive src s) := by
  unfold execRemoteGetArrive
  refine KeepsR.next ?_
  split
  · exact (State.rodGet_keeps h_s)
  · exact (State.peerGet_keeps h_s)
  · refine Keeps.ite ?_ ?_
    · exact (State.beamGet_keeps h_s)
    · exact h_s

theorem execRemotePutArrive_keeps {s0 : State} {src : Requester} {s : State} (h_s : Keeps s0 s) :
    KeepsR s0 (execRemotePutArrive src s) := by
  unfold execRemotePutArrive
  refine KeepsR.next ?_
  split
  · exact (State.rodPut_keeps h_s)
  · exact (State.peerPut_keeps h_s)
  · refine Keeps.ite ?_ ?_
    · exact (State.beamPut_keeps h_s)
    · exact h_s

theorem execRemoteAtomicArrive_keeps {s0 : State} {src : Requester} {s : State} (h_s : Keeps s0 s) :
    KeepsR s0 (execRemoteAtomicArrive src s) := by
  unfold execRemoteAtomicArrive
  refine KeepsR.next ?_
  split
  · exact (State.rodAtomic_keeps h_s)
  · exact (State.peerAtomic_keeps h_s)
  · refine Keeps.ite ?_ ?_
    · exact (State.beamAtomic_keeps h_s)
    · exact h_s

theorem execTallyAddArrive_keeps {s0 : State} {src : Requester} {s : State} (h_s : Keeps s0 s) :
    KeepsR s0 (execTallyAddArrive src s) := by
  unfold execTallyAddArrive
  refine KeepsR.next ?_
  split
  · exact (State.rodTally_keeps h_s)
  · exact (State.peerTally_keeps h_s)
  · refine Keeps.ite ?_ ?_
    · exact (State.beamTally_keeps h_s)
    · exact h_s

theorem execWriteInbound_keeps {s0 : State} {ch : Fin 4} {m : Msg} {s : State} (h_s : Keeps s0 s) :
    KeepsR s0 (execWriteInbound ch m s) := by
  unfold execWriteInbound
  refine State.arrived_keeps h_s (fun _ h0 => ?_)
  refine Keeps.ite ?_ ?_
  · exact (State.loopback_keeps h0)
  · refine Keeps.ite ?_ ?_
    · exact h0
    · exact State.checked_keeps h0 (fun _ h1 => (State.performWrite_keeps h1))

theorem execTallyInbound_keeps {s0 : State} {ch : Fin 4} {m : Msg} {s : State} (h_s : Keeps s0 s) :
    KeepsR s0 (execTallyInbound ch m s) := by
  unfold execTallyInbound
  refine State.arrived_keeps h_s (fun _ h0 => ?_)
  refine Keeps.ite ?_ ?_
  · exact (State.loopback_keeps h0)
  · refine Keeps.ite ?_ ?_
    · exact h0
    · refine State.checked_keeps h0 (fun _ h1 => ?_)
      split
      · exact (State.tallyAdd_keeps h1)
      · exact h1

theorem execReadInbound_keeps {s0 : State} {ch : Fin 4} {m : Msg} {s : State} (h_s : Keeps s0 s) :
    KeepsR s0 (execReadInbound ch m s) := by
  unfold execReadInbound
  refine State.arrived_keeps h_s (fun _ h0 => ?_)
  refine Keeps.ite ?_ ?_
  · exact (State.inErr_keeps h0)
  · refine Keeps.ite ?_ ?_
    · exact h0
    · refine Keeps.ite ?_ ?_
      · exact (State.respondErr_keeps h0)
      · refine Keeps.ite ?_ ?_
        · exact (State.readWindow_keeps h0)
        · extract_lets -useContext -merge -underBinder x1
          refine Keeps.ite ?_ ?_
          · exact (State.respondErr_keeps h0)
          · exact (State.respondData_keeps h0)

theorem execCplInbound_keeps {s0 : State} {ch : Fin 4} {m : Msg} {s : State} (h_s : Keeps s0 s) :
    KeepsR s0 (execCplInbound ch m s) := by
  unfold execCplInbound
  refine State.arrived_keeps h_s (fun _ h0 => ?_)
  refine State.completion_keeps h0 (fun _ _ h1 => ?_)
  extract_lets -useContext -merge -underBinder x2
  have h3 : Keeps s0 x2 := (State.readFailed_keeps h1)
  clear_value x2
  refine Keeps.ite ?_ ?_
  · exact (State.inErr_keeps h3)
  · exact h3

theorem execCplDataInbound_keeps {s0 : State} {ch : Fin 4} {m : Msg} {s : State} (h_s : Keeps s0 s) :
    KeepsR s0 (execCplDataInbound ch m s) := by
  unfold execCplDataInbound
  refine State.arrived_keeps h_s (fun _ h0 => ?_)
  refine State.completion_keeps h0 (fun _ _ h1 => ?_)
  extract_lets -useContext -merge -underBinder x2
  refine Keeps.ite ?_ ?_
  · exact (State.readFailed_keeps h1)
  · refine Keeps.ite ?_ ?_
    · exact (State.readDone_keeps (State.dropRead_keeps h1))
    · exact Keeps.upd h1

theorem execAttach_keeps {s0 : State} {ch : Fin 4} {t : Fin 64} {s : State} (h_s : Keeps s0 s) :
    KeepsR s0 (execAttach ch t s) := by
  unfold execAttach
  exact State.eventIn_keeps h_s (fun _ h0 => (State.attachTen_keeps h0))

theorem execDetach_keeps {s0 : State} {ch : Fin 4} {t : Fin 64} {s : State} (h_s : Keeps s0 s) :
    KeepsR s0 (execDetach ch t s) := by
  unfold execDetach
  exact State.eventIn_keeps h_s (fun _ h0 => (State.detachTen_keeps h0))

theorem execReset_keeps {s0 : State} {ch : Fin 4} {t : Fin 64} {s : State} (h_s : Keeps s0 s) :
    KeepsR s0 (execReset ch t s) := by
  unfold execReset
  exact State.eventIn_keeps h_s (fun _ h0 => (State.resetTen_keeps h0))

theorem execBadBeat_keeps {s0 : State} {ch : Fin 4} {form : BeatForm} {s : State} (h_s : Keeps s0 s) :
    KeepsR s0 (execBadBeat ch form s) := by
  unfold execBadBeat
  refine KeepsR.next ?_
  refine Keeps.ite ?_ ?_
  · exact h_s
  · split
    · exact (State.beatErr_keeps h_s)
    · exact (State.beatErr_keeps h_s)
    · exact (State.beatErr_keeps h_s)

theorem execCreditReturn_keeps {s0 : State} {ch : Fin 4} {cls : CreditClass} {s : State} (h_s : Keeps s0 s) :
    KeepsR s0 (execCreditReturn ch cls s) := by
  unfold execCreditReturn
  extract_lets -useContext -merge -underBinder x0
  refine KeepsR.next ?_
  refine Keeps.ite ?_ ?_
  · exact h_s
  · split
    · exact (State.setChan_keeps h_s)
    · exact (State.setChan_keeps h_s)

theorem execWriteOutbound_keeps {s0 : State} {ch : Fin 4} {s : State} (h_s : Keeps s0 s) :
    KeepsR s0 (execWriteOutbound ch s) := by
  unfold execWriteOutbound
  extract_lets -useContext -merge -underBinder x0
  refine KeepsR.next ?_
  split
  · exact h_s
  · extract_lets -useContext -merge -underBinder x1
    refine Keeps.ite ?_ ?_
    · exact (State.send_keeps (State.setChan_keeps h_s))
    · exact h_s

theorem execReadOutbound_keeps {s0 : State} {ch : Fin 4} {s : State} (h_s : Keeps s0 s) :
    KeepsR s0 (execReadOutbound ch s) := by
  unfold execReadOutbound
  extract_lets -useContext -merge -underBinder x0
  refine KeepsR.next ?_
  split
  · exact h_s
  · extract_lets -useContext -merge -underBinder x1 x2 x3 x4
    have h5 : Keeps s0 x4 := (State.setChan_keeps h_s)
    clear_value x4
    refine Keeps.ite ?_ ?_
    · refine State.send_keeps ?_
      exact Keeps.upd h5
    · exact h_s

theorem execHapTimeoutExpire_keeps {s0 : State} {ch : Fin 4} {tag : BitVec 16} {s : State} (h_s : Keeps s0 s) :
    KeepsR s0 (execHapTimeoutExpire ch tag s) := by
  unfold execHapTimeoutExpire
  refine KeepsR.next ?_
  split
  · exact h_s
  · refine Keeps.ite ?_ ?_
    · exact (State.readFailed_keeps h_s)
    · exact h_s

theorem execHapLoopCtrl_keeps {s0 : State} {v : W64} {s : State} (h_s : Keeps s0 s) :
    KeepsR s0 (execHapLoopCtrl v s) := by
  unfold execHapLoopCtrl
  refine KeepsR.next ?_
  refine Keeps.ite ?_ ?_
  · exact (State.loopCtrl_keeps h_s)
  · exact h_s

theorem execLoopbackWrite_keeps {s0 : State} {ch : Fin 4} {m : Msg} {s : State} (h_s : Keeps s0 s) :
    KeepsR s0 (execLoopbackWrite ch m s) := by
  unfold execLoopbackWrite
  refine State.arrived_keeps h_s (fun _ h0 => ?_)
  refine Keeps.ite ?_ ?_
  · exact (State.loopback_keeps h0)
  · exact h0

theorem execManagementRequest_keeps {s0 : State} {wr : Bool} {addr : BitVec 24} {data : W64} {s : State} (h_s : Keeps s0 s) :
    KeepsR s0 (execManagementRequest wr addr data s) := by
  unfold execManagementRequest
  extract_lets -useContext -merge -underBinder x0
  refine KeepsR.next ?_
  refine Keeps.ite ?_ ?_
  · exact (State.send_keeps h_s)
  · refine Keeps.ite ?_ ?_
    · exact (State.send_keeps (State.writeReg_keeps h_s))
    · exact (State.send_keeps (State.readReg_keeps h_s))

theorem execRegisterWrite_keeps {s0 : State} {src : RegSource} {off : BitVec 24} {v : W64} {s : State} (h_s : Keeps s0 s) :
    KeepsR s0 (execRegisterWrite src off v s) := by
  unfold execRegisterWrite
  extract_lets -useContext -merge -underBinder x0
  refine KeepsR.next ?_
  split
  · refine Keeps.ite ?_ ?_
    · exact h_s
    · refine Keeps.ite ?_ ?_
      · exact (State.inErr_keeps h_s)
      · refine Keeps.ite ?_ ?_
        · exact (State.writeReg_keeps h_s)
        · exact h_s
  · refine Keeps.ite ?_ ?_
    · exact (State.writeReg_keeps h_s)
    · exact h_s

end Sys2Proof.Machine
end

