-- ==== Sys2Proof/WellFormed.lean ====
section
/-! DEFINITION. Which commands are well formed: operands that no type of Params.lean bounds lie in the range the spec gives them. -/

namespace Sys2Proof

/-- A message header beat has eight words and its data beats at most 4,160 bytes (15 Table 15.1). -/
def Msg.wf (m : Msg) : Bool := decide (m.hdr.length = 8) && decide (m.data.length ≤ 4160) && decide (m.data.length % 64 = 0)

/-- An operation of the beam: at most 4 MiB, a PUT with the data of its length (04 R82). -/
def BeamOp.wf (o : BeamOp) : Bool :=
  decide (o.len ≤ 4194304) && decide (o.width ≤ 4) && (o.data.isEmpty || decide (o.data.length = o.len))

def Requester.wf : Requester → Bool
  | .rod _ tag => decide (tag < 2 ^ 64)
  | .peer _ => true
  | .beam o => o.wf

/-- A model manifest names at most seven carry banks and a program of at most 16,384 words (03 R54, 07 R152). -/
def ModelManifest.wf (m : ModelManifest) : Bool := decide (m.banks.length ≤ 7) && decide (m.program.length ≤ 16384)

/-- A shard's header is 64 bytes and its tag 16 (13 Table 13.3). -/
def ShardRead.wf : ShardRead → Bool
  | .error r => decide (1 ≤ r) && decide (r ≤ 8)
  | .bytes h _ t => decide (h.length = 8) && decide (t.length = 16)

/-- A repair fuse names a physical rod of the largest configuration (00 Table 0.1). -/
def FuseWrite.wf : FuseWrite → Bool
  | .tstDone => true
  | .retire p => decide (p < 544)
  | .row n _ => decide (n < 65536)

/-- A location exists on the largest configuration (00 Table 0.1). -/
def ErrLoc.wf : ErrLoc → Bool
  | .hbm o => decide (o < 2 ^ 40)
  | .bead p o => decide (p < 544) && decide (o < 2 ^ 22)
  | .imem p a => decide (p < 544) && decide (a < 2 ^ 17) && decide (a % 8 = 0)
  | .rodUnit p => decide (p < 544)

/-- Rows are 32-bit numbers (08 R174). -/
def HotChange.wf : HotChange → Bool
  | .insert row _ _ => decide (row < 2 ^ 32)
  | .evict row => decide (row < 2 ^ 32)

/-- A well-formed command. -/
def Instr.wf : Instr → Bool
  | .gatherComplete _ tag => decide (tag < 2 ^ 64)
  | .remoteGetArrive src => src.wf
  | .remotePutArrive src => src.wf
  | .remoteAtomicArrive src => src.wf
  | .tallyAddArrive src => src.wf
  | .remoteResponse _ tag response => decide (tag < 2 ^ 64) && decide (response ≤ 8)
  | .remoteTimeout _ tag => decide (tag < 2 ^ 64)
  | .samplePutCopy _ tag => decide (tag < 2 ^ 64)
  | .submit _ _ i _ => decide (i < 65536)
  | .pause _ _ i => decide (i < 65536)
  | .park _ _ i => decide (i < 65536)
  | .resume _ _ i => decide (i < 65536)
  | .cancel _ _ i => decide (i < 65536)
  | .adapterInstall _ _ i => decide (i < 65536)
  | .adapterReplace _ _ i => decide (i < 65536)
  | .adapterRemove _ _ i => decide (i < 65536)
  | .load _ _ i model manifest => decide (i < 65536) && model.wf && decide (manifest.length % 8 = 0)
  | .shardVerify _ k r => decide (k < 65536) && r.wf
  | .hotSetRefresh _ changes => changes.all HotChange.wf
  | .map k => decide (k < 65536)
  | .unmap k => decide (k < 65536)
  | .promote k => decide (k < 65536)
  | .demote k => decide (k < 65536)
  | .ref k => decide (k < 65536)
  | .unref k => decide (k < 65536)
  | .frameRelease k => decide (k < 65536)
  | .streamAccept _ tag => decide (tag < 2 ^ 64)
  | .extentComplete _ slot e => decide (slot < 64) && decide (e < 65536)
  | .extentFail _ slot e response => decide (slot < 64) && decide (e < 65536) && decide (1 ≤ response) && decide (response ≤ 8)
  | .scrubCheck _ k => decide (k < 65536)
  | .scrubMismatch _ k => decide (k < 65536)
  | .refetchComplete _ r => r.wf
  | .imbalanceWindow bytes => decide (bytes.length ≤ 16)
  | .groupReceive _ g => decide (g.slots.length ≤ 79)
  | .laneWindow _ counts => decide (counts.length = 36)
  | .writeInbound _ m => m.wf
  | .tallyInbound _ m => m.wf
  | .readInbound _ m => m.wf
  | .cplInbound _ m => m.wf
  | .cplDataInbound _ m => m.wf
  | .loopbackWrite _ m => m.wf
  | .correctableError loc => loc.wf
  | .uncorrectableError loc => loc.wf
  | .patrol granule => decide (granule < 2 ^ 35)
  | .sramCeLimit _ element => decide (element < 4096)
  | .thermalSample temps _ _ _ => !temps.isEmpty
  | .hbm trained => decide (trained.length ≤ 16)
  | .rods failing => failing.all (fun r => decide (r < 544))
  | .wsLbist _ list => list.all (fun r => decide (r < 544))
  | .wsMbist _ list => list.all (fun r => decide (r < 544))
  | .wsFuse _ w => w.wf
  | .tstHbmCtrl _ _ _ first count => decide (first + count ≤ 2 ^ 30)
  | .adapterImageVerified _ k _ r => decide (k < 65536) && r.wf
  | .rowWriteHoldExpire _ row => decide (row < 2 ^ 32)
  | .nop _ | .srRd _ | .srWr _ | .brk _ | .br _ | .bl _ | .jr _ | .jlr _ | .integerOp _ | .integerImmediateOp _ | .cmp _
  | .cmpi _ | .pred _ | .fp32ScalarOp _ | .ld _ | .st _ | .wait _ | .waitRelease _ | .tadd _ | .tileTake _ | .tileSteal _
  | .stealWalkEnd _ | .tilePut _ | .vectorOp _ | .vld _ | .vst _ | .vcvtTo _ | .vcvtSc _ | .vcvtFrom _ | .accRd _ | .accWr _
  | .accClr _ | .mma _ | .mmaLatched _ | .carryMap _ | .carryMix _ | .carryDown _ | .carryUp _ | .carryAdd _ | .get _ | .put _
  | .aadd _ | .amax _ | .acas _ | .axchg _ | .taddR _ | .fenceL _ | .fenceB _ | .fenceP _ | .fenceH _ | .fenceComplete _
  | .gather _ | .streamArm _ | .samplePut _ | .samplePutEmpty _ | .asyncComplete _ _ | .rodException _ | .create _ | .start _
  | .release _ | .releaseWithReplay _ | .partitionReset _ | .partitionResetEnd _ | .delete _ | .buildStart _ | .buildEnd _
  | .stepSeal _ | .launchStaggerEnd _ _ | .samplerChoose _ | .journalComplete _ | .stepTimeout _ | .resumeComplete _
  | .loadComplete _ | .slateSweep | .slateFree _ | .packComplete _ | .carDirStageApply _ | .directoryApply _
  | .gthTblStageApply | .tableApply | .gthTblRelease _ | .seqProfStageApply _ | .profileApply _ | .gthRowwrite _
  | .rowWriteFlip | .lookupReply _ | .shardMigration _ _ _ _ _ | .replicaGrant _ _ _ | .replicaInvalidate _ _ | .invalReceive _
  | .invalReplyReceive _ | .invalRetry _ _ _ | .grantReceive _ | .evict _ _ _ | .evictReceive _ | .promoteComplete _ _
  | .demoteComplete _ _ | .demoteWaitExpire _ _ | .tierCmdTail _ | .refetchLimitExpire _ | .nakReceive _ _ | .laneFail _ _ _
  | .laneSwapReceive _ _ _ | .laneSwapComplete _ | .probeLightSeen _ | .lightLost _ | .frameLock _ | .identityReceive _ _
  | .spdmSessionComplete _ _ _ | .peerPresent _ | .linkDown _ | .verifiedGroupSilence _ | .ctrlLeaveReceive _
  | .portHoldDarkEnd _ | .keyUpdate _ | .keySwitchReceive _ _ | .syncTimer | .syncReq _ | .syncRsp _ | .ident _ _ _
  | .status _ _ _ | .setPower _ _ _ _ | .light _ _ _ _ | .readPower _ _ _ | .readTemp _ _ _ | .laserReplyTimeout _ _
  | .laserFaultEdge _ | .attach _ _ | .detach _ _ | .reset _ _ | .badBeat _ _ | .creditReturn _ _ | .writeOutbound _
  | .readOutbound _ | .hapTimeoutExpire _ _ | .tenSqTail _ _ _ | .sqFetch _ _ | .cqPost _ _ | .tenCqHead _ _ _
  | .tenSqCfg _ _ _ | .tenCqCfg _ _ _ | .tenInDone _ _ | .tenInFree _ _ | .tenOringCfg _ _ _ | .tenOringHead _ _ _
  | .vectorFire _ _ | .tenVecMask _ _ | .tenReset _ _ | .tenantResetEnd _ | .tenMark _ _ | .tenSpdmGo _ _ | .secSpdmGo _
  | .spdmResponse _ | .hapLoopCtrl _ | .presentRise | .presentFall | .secDbgChal | .secDbgToken _ _ | .secLock _ | .pwrLock _
  | .secPartOwner _ _ _ | .channelFailing _ _ | .channelCopyEnd _ | .channelLost _ _ | .slateUe _ _ | .fixedFunctionUe _ _
  | .spareSubstitution _ | .rodCeLimit _ | .peerWaitExpire _ | .lockstepMismatch _ | .heartbeatExpire _ | .beamFailover
  | .fallbackFreeze | .haltAssert _ | .haltDiscrepancy | .haltRelease _ | .fltHaltN _ | .discrepancyClear | .fieldRotation _
  | .rotationTestEnd _ _ | .fltEvtPend _ | .dbgSnapCtrl _ | .dbgFreeze _ | .dbgWfgCapture _ | .wfgSecondCapture _
  | .dbgRodAccess _ | .dbgMark _ | .triggerFire _ | .dbgTrigFire _ | .triggerFreeze _ | .traceLoss _ | .dbgHist _ _
  | .histogramSample _ | .counterWrite _ _ | .powerOn | .rstNAssert | .rstNRelease | .rstGlitch | .pgLost _ | .cold | .warm
  | .thermtrip | .vrhot | .thermAlert | .clockStep | .governorTick _ | .groupRelease _ | .clocks _ | .sram _ | .keys | .image
  | .beamImgAddr _ | .beamImgData _ | .beamImgGo _ | .auth | .beam _ _ | .links | .sync | .host | .ready | .failed
  | .managementRequest _ _ _ | .wsBypass _ | .wsExtest _ _ | .wsIntest _ _ | .wsScan _ _ | .wsHbm _ _ | .wsIjtag _ | .idcode
  | .samplePreload _ | .bypass | .fabPrbsCtrl _ _ | .registerWrite _ _ _ | .replicateRow _ _ _ | .debugTokenVerified
  | .powerGoodStable | .testLogicReset => true

end Sys2Proof
end

