-- ==== Sys2Proof/Tests/Slice0.lean ====
section
/-! SUPPORT. Tests: the well-formedness checks, worked examples of the spec, single steps, and a witness for each statement that has
hypotheses. -/

open Sys2Proof Sys2Proof.Machine

namespace Sys2Proof.Tests

set_option Elab.async false
set_option linter.unusedVariables false

/-! ### States the tests share -/

/-- A block that serves: out of reset, cx_present high. -/
def serving : State := { State.reset.setReg 0x10008 0 with pwr := { Power.init with present := true } }
/-- Partition 0 runs on frame 0, and rod 0 stands at a word, with some scalar registers. -/
def rodAt (w : W64) (regs : List (Nat × W64)) : State :=
  let s := ({ serving.setReg (pReg 0 8) 1 with imem := Memory.write64 [] 0 w }).setPart 0 { Part.init with st := .running, owned := true }
  s.setRod 0 { Rod.init with imgLen := 16, s := regs }
/-- The instruction that rod 0 issues next. -/
def cx (s : State) : Ctx := (s.readyOp 0).getD ⟨0, 0, 0, 0, 0, 0, .nop, []⟩
/-- The next state of an outcome. -/
def nextOf (o : Host.Outcome State Fault Refusal) : State := match o with | .next t => t | _ => State.reset
/-- An outstanding operation of a rod's remote-memory unit. -/
def remOp (tag : Nat) (kind : RemKind) (addr len : Nat) : RemOp :=
  ⟨tag, tag, 0, 0, kind, some 3, 5, addr, 0x100, len, 9, 0, [], [], none, 0, [], [], 0, false⟩
/-- Page tables that map the first large page of partition 0's range, pinned and writable, at 0x400_0000 of HBM. -/
def pageTables : Memory :=
  Memory.write64 (Memory.write64 (Memory.write64 [] 0x1000 0x4000000000004000) 0x4000 0x4000000000008000) 0x8000 0x9E00000004000000
/-- A block at work: READY, frame 0 with partition 0, its first large page mapped. -/
def ready : State :=
  { (((serving.setReg 0x10020 0xC).setReg (pReg 0 8) 1).setReg 0x400100 0x1000) with hbm := pageTables }
/-- Bytes that are not zero, `n` of them from `base`. -/
def memFill (base n : Nat) : Memory := (List.range n).map (fun k => (base + k, BitVec.ofNat 8 (1 + k * k * 7 % 250)))
/-- A descriptor of one decode row, sealed with the check of its bytes. -/
def desc0 : Desc := ⟨7, 1, [⟨0, true, 3, 4, 5, 0, 1, 0xFFFF⟩], [], 0, 100, 0, [], 0⟩
def sealedDesc : Desc := { desc0 with check := ready.jrnlHash (desc0.bytes 0) }
/-- Partition 0 held by a fault with that descriptor's step open, its bytes in place. -/
def heldOpen : State :=
  ((((ready.setReg 0x30030 3).rangeWrite 0 (ready.descAt 0 7) (desc0.bytes 0)).onRod 0 (fun r => { r with pc := 16 })).setPart 0
    { Part.init with st := .held, hold := 4, opened := some sealedDesc })
/-- Tenant 0 attached with entries fetched in its submission queue 0. -/
def queued (s : State) (l : List (List W64)) : State :=
  s.setTen 0 { Tenant.init with st := .attached, sq := [(0, { SubQueue.init with batches := [(List.range l.length).map (fun k => ⟨k, nth [] l k, none, 0, false⟩)] })] }
/-- The entry at the front of that queue, and its batch. -/
def front (s : State) (op : Nat) : SubEntry × List SubEntry := (s.takeEntry 0 0 0 op).getD (⟨0, [], none, 0, false⟩, [])
/-- Partition 0 running and open to tenant 0: one input buffer, one ring of 16 entries, a quota of 2. -/
def open_ : State :=
  ((((ready.setReg (hReg 0 0x20) 1).setReg (ringReg 0 0 8) 0x401).setReg 0x90100 2).setReg (hReg 0 8) 0xFF).setPart 0
    { Part.init with st := .running, step := 7 }
/-- A small dense model with 4 KV blocks and a program of 2 words. -/
def model0 : ModelManifest :=
  { kind := .dense, layers := 1, d := 1024, ffn := 1024, qHeads := 8, kvHeads := 8, headDim := 64, experts := 0, sharedExperts := 0, expertsPerRow := 0, norm := .rms, act := .siluGated, position := .rotary, pooling := .none, vocab := 100, context := 1024, params := 1000, weightBits := 8, modelId0 := 1, modelId1 := 2, banks := [0, 0, 0, 0, 0, 0, 0], bankFormats := (0, 0), kvBase := 0x100000, kvCount := 4, kvBytes := 65536, program := [0x400000000000000, 0x400000000000000] }
/-- An empty operation of the beam. -/
def beamOp0 : BeamOp := ⟨0, 0, 0, 0, 0, 0, []⟩
/-- A state that several witnesses share. -/
def base1 : State := ((((open_.setReg 0x700000 0xF).setReg (hReg 0 0x10) 0x6000000).setReg (hReg 0 0x18) 13).setTen 0 { Tenant.init with st := .attached }).setChan 0 { Chan.init with inPosted := 8, inNon := 8, outPosted := 8, outNon := 2 }
/-- A state that several witnesses share. -/
def base2 : State := (((((((open_).hbmWrite64 32800 0x4000000000009000).hbmWrite64 36864 0x9200000004A00000).hbmWrite64 36872 0xB200000000020000).hbmWrite64 36880 0x9A00000004A10000).hbmWrite64 36888 0x9300000004A20000).hbmWrite64 36896 0xB804000000030000).setReg (pReg 0 0x18) 8 |>.setReg (poolReg 1 0) 0x4000000000000000
/-- A state that several witnesses share. -/
def base3 : State := (open_.setPart 1 { Part.init with st := .held, hold := 2, haltHeld := true, opened := some desc0, wdog := 10 }).setPart 2 { Part.init with st := .held, hold := 4, haltHeld := true }
/-- A state that several witnesses share. -/
def base4 : State := ((((open_.setReg 0x700000 0xF).setReg (hReg 0 0x10) 0x6000000).setReg (hReg 0 0x18) 13).setTen 0 { Tenant.init with st := .attached , sq := [(0, { SubQueue.init with tail := 1, rd := 1, ends := [1], reading := true })] }).setChan 0 { Chan.init with inPosted := 8, inNon := 8, outPosted := 8, outNon := 2 }
/-- A state that several witnesses share. -/
def base5 : State := ((((((((open_).hbmWrite64 32800 0x4000000000009000).hbmWrite64 36864 0x9200000004A00000).hbmWrite64 36872 0xB200000000020000).hbmWrite64 36880 0x9A00000004A10000).hbmWrite64 36888 0x9300000004A20000).hbmWrite64 36896 0xB804000000030000).setReg (pReg 0 0x18) 0 |>.setReg (poolReg 1 0) 0x4000000000000000).setPart 0 { Part.init with st := .running, t1 := 0 }
/-- A state that several witnesses share. -/
def base6 : State := ((open_.setReg 0x700000 0xF).setReg (hReg 0 0x10) 0x6000000).setReg (hReg 0 0x18) 13
/-- A state that several witnesses share. -/
def base7 : State := (((open_.setReg 0x10018 0x4).setReg 0x10238 0).setReg 0x30100 7).setReg 0x600000 5 |>.setReg 0x10008 4

/-! ### Checks of well-formedness: an ill-formed term for each, refused -/

/-- A message header beat has eight words; its data comes in whole beats, at most 65 of them (15 Table 15.1). -/
theorem test_wf_message :
    Instr.wf (.writeInbound 0 ⟨[0, 0, 0], []⟩) = false ∧
    Instr.wf (.writeInbound 0 ⟨List.replicate 8 0, [1]⟩) = false ∧
    Instr.wf (.cplInbound 0 ⟨List.replicate 8 0, List.replicate 4224 0⟩) = false ∧
    Instr.wf (.writeInbound 0 ⟨List.replicate 8 0, List.replicate 64 0⟩) = true := by decide +kernel

/-- A group has at most 79 traffic slots (14 R305). -/
theorem test_wf_group :
    Instr.wf (.groupReceive 0 ⟨false, 0, 0, true, true, true, 0, 0, 0, List.replicate 80 ⟨0, 0, 0, 0⟩⟩) = false ∧
    Instr.wf (.groupReceive 0 ⟨false, 0, 0, true, true, true, 0, 0, 0, List.replicate 79 ⟨0, 0, 0, 0⟩⟩) = true := by decide +kernel

/-- A beam operation has a length in range, a width code, and as many bytes as its length (04 R82). -/
theorem test_wf_beam :
    BeamOp.wf { beamOp0 with len := 4194305 } = false ∧ BeamOp.wf { beamOp0 with width := 5 } = false ∧
    BeamOp.wf { beamOp0 with len := 2, data := [1] } = false ∧ BeamOp.wf beamOp0 = true ∧
    Instr.wf (.remotePutArrive (.rod 0 (2 ^ 64))) = false := by decide +kernel

/-- A manifest names at most seven banks and 16,384 words of program (03 R54, 07 R152). -/
theorem test_wf_manifest :
    ModelManifest.wf { model0 with banks := List.replicate 8 0 } = false ∧
    ModelManifest.wf { model0 with program := List.replicate 16385 0 } = false ∧ model0.wf = true ∧
    Instr.wf (.load 0 0 0 model0 [1]) = false ∧ Instr.wf (.load 0 0 65536 model0 []) = false := by decide +kernel

/-- What a shard read gives: a response 1 to 8, or eight header words, the bytes and a 16-byte tag (13 Table 13.3). -/
theorem test_wf_shard :
    ShardRead.wf (.error 0) = false ∧ ShardRead.wf (.error 9) = false ∧ ShardRead.wf (.bytes [] [] []) = false ∧
    ShardRead.wf (.bytes (List.replicate 8 0) [] []) = false ∧ ShardRead.wf (.bytes (List.replicate 8 0) [] (List.replicate 16 0)) = true := by
  decide +kernel

/-- Locations, fuses and rows lie in their ranges (00 Table 0.1, 08 R174). -/
theorem test_wf_places :
    ErrLoc.wf (.hbm (2 ^ 40)) = false ∧ ErrLoc.wf (.bead 544 0) = false ∧ ErrLoc.wf (.bead 0 (2 ^ 22)) = false ∧
    ErrLoc.wf (.imem 0 4) = false ∧ ErrLoc.wf (.imem 0 (2 ^ 17)) = false ∧ ErrLoc.wf (.rodUnit 544) = false ∧
    FuseWrite.wf (.retire 544) = false ∧ FuseWrite.wf (.row 65536 0) = false ∧
    HotChange.wf (.insert (2 ^ 32) 0 []) = false ∧ HotChange.wf (.evict (2 ^ 32)) = false := by decide +kernel

/-- Numbers that a command carries beside its types: queue indices, tags, slots, responses, lists. -/
theorem test_wf_numbers :
    ([.gatherComplete 0 (2 ^ 64), .remoteTimeout 0 (2 ^ 64), .samplePutCopy 0 (2 ^ 64), .streamAccept 0 (2 ^ 64), .remoteResponse 0 (2 ^ 64) 0, .remoteResponse 0 0 9,
      .submit 0 0 65536 0, .pause 0 0 65536, .park 0 0 65536, .resume 0 0 65536, .cancel 0 0 65536, .adapterInstall 0 0 65536,
      .adapterReplace 0 0 65536, .adapterRemove 0 0 65536, .shardVerify 0 65536 (.error 1), .map 65536, .unmap 65536, .promote 65536,
      .demote 65536, .ref 65536, .unref 65536, .frameRelease 65536, .extentComplete 0 64 0, .extentComplete 0 0 65536, .extentFail 0 0 0 0,
      .extentFail 0 0 0 9, .scrubCheck 0 65536, .scrubMismatch 0 65536, .imbalanceWindow (List.replicate 17 0), .laneWindow 0 [],
      .patrol (2 ^ 35), .thermalSample [] 0 false false, .rowWriteHoldExpire 0 (2 ^ 32)] : List Instr).all (fun i => !i.wf) = true := by
  decide +kernel

/-- The numbers of the last commands of the table. -/
theorem test_wf_numbers_last :
    Instr.wf (.sramCeLimit 0 4096) = false ∧ Instr.wf (.hbm (List.replicate 17 true)) = false ∧ Instr.wf (.rods [544]) = false ∧
    Instr.wf (.wsLbist true [544]) = false ∧ Instr.wf (.wsMbist false [544]) = false ∧
    Instr.wf (.tstHbmCtrl 0 0 .prbs31 (2 ^ 30) 1) = false ∧ Instr.wf (.adapterImageVerified 0 65536 0 (.error 1)) = false := by decide +kernel

/-! ### Worked examples of the spec -/

/-- 04 "Example: encoding three instructions": the words of MOVI, MOVHI and the two forms of MMA, and the illegal one. -/
theorem test_example_encoding :
    RodInstr.decode 0x3414001234567000 = some ⟨0, .intImm 0x0D 5 0 0x1234567000⟩ ∧
    RodInstr.decode 0x3814A00000008C00 = some ⟨0, .intImm 0x0E 5 5 0x8C00⟩ ∧
    RodInstr.decode 0xA080C79A00000000 = some ⟨1, .mma 2 0 0 0 6 7 false false (some 3)⟩ ∧
    RodInstr.decode 0xA080079A08000000 = some ⟨1, .mma 2 0 0 0 0 7 true false (some 3)⟩ ∧
    RodInstr.decode 0xA080C79A08000000 = none := by decide +kernel

/-- The same example, run: MOVI and MOVHI build 0x008C_0012_3456_7000 in s5. -/
theorem test_example_movi_movhi :
    ((nextOf (exec (.integerImmediateOp 0) (rodAt 0x3414001234567000 []))).rod 0).sget 5 = 0x1234567000 ∧
    ((nextOf (exec (.integerImmediateOp 0) (rodAt 0x3814A00000008C00 [(5, 0x1234567000)]))).rod 0).sget 5 = 0x008C001234567000 := by
  decide +kernel

/-- 02 "Example: one block product": 0x40D2_0000. -/
theorem test_example_block_product :
    blockVal .mxfp4 .mxint8 [0x3, 0xD, 0x7, 0x0] [0x40, 0xE0, 0x03, 0x00] 0x7E 0x81 = 0x40D20000 := by decide +kernel

/-- 02 "Example: why the order is fixed": the tree gives 1, a running sum 0. -/
theorem test_example_tree :
    ftree [0x4B800000, 0x3F800000, 0x3F800000, 0xCB800000, 0, 0, 0, 0] = 0x3F800000 ∧
    fadd (fadd (fadd 0x4B800000 0x3F800000) 0x3F800000) 0xCB800000 = 0 := by decide +kernel

/-- 02, after R34: 7.5 in E2M1, 464 in E4M3 and 128 × 2⁻⁶ in MXINT8 saturate
and raise no flag. -/
theorem test_example_saturation :
    Elt.conv .mxfp4 (f32Val 0x40F00000) = (0x7, ⟨false, false⟩) ∧ Elt.conv .mxfp8e4m3 (f32Val 0x43E80000) = (0x7E, ⟨false, false⟩) ∧
    Elt.conv .mxint8 (f32Val 0x40000000) = (0x7F, ⟨false, false⟩) := by decide +kernel

/-- 05 "Example: requantising one accumulator row": the elements 6A EA 40, the scales 80 00, no flag; and the word of its second step. -/
theorem test_example_requantise :
    let row : List W32 := [0x40533333, 0xBF333333, 0x40000000] ++ List.replicate 61 0
    (cvtTo .mxint8 row).1.take 2 = [0x0040EA6A, 0] ∧ (cvtTo .mxint8 row).2 = ⟨false, false⟩ ∧ (cvtSc .mxint8 row).take 2 = [0x80, 0] ∧
    RodInstr.decode 0x80082002002C0000 = some ⟨0, .vec 0x40 2 1 0 0 0xB none⟩ := by decide +kernel

/-- 08 "Example: composed rows": 1.5 × −0.375 in BF16 is 0xBF10. -/
theorem test_example_composed_rows : composeRows 2 [0xC0, 0x3F] [0xC0, 0xBE] = ([0x10, 0xBF], 0) := by decide +kernel

/-- 11 "Example: choosing one token": with its settings and sorted candidates a draw near 0.75 (seed 5) chooses token 55, and one
below the first candidate's share (seed 0) chooses 101. -/
theorem test_example_choice :
    let w : List W64 := [0x3F00000000040000, 0x3F66666600000000]
    let l : List Tok := [⟨0x40400000, 101⟩, ⟨0x40200000, 55⟩, ⟨0x40000000, 7⟩, ⟨0x3F800000, 900⟩, ⟨0, 12⟩]
    chooseTok w 5 0 l = 55 ∧ chooseTok w 0 0 l = 101 := by decide +kernel

/-- 11, the same example: a presence penalty of 0.5 makes 2.5 into 2.0. -/
theorem test_example_penalty :
    penalise [0, 0, 0x3F8000003F000000, 0] 1 0x40200000 = 0x40000000 := by decide +kernel

/-- 15 "Example: a chained batch": the ADMITTED completion of entry 14. -/
theorem test_example_completion :
    nth 0 (Completion.words ⟨0, 0x0102, 1, 0, 515, 0, 0, 0, 0, 0, false⟩ true 0) 0 = 0x8000010210000203 := by decide +kernel

/-- 21 "Example: reaching three registers": CNT_GTH_SHORT of tenant 5, wrapped and at 3; SEQ_STEPEND of partition 0 by a rod's TADD.R. -/
theorem test_example_registers :
    isCounter 0x8520A8 = true ∧ counterAdd 0xFFFFFFFFFFFE 5 = 0x8000000000000003 ∧ adClass 0x0040000000080108 = 2 := by decide +kernel

/-- 06 "Example: one slot sent to a peer": class and peer of the slot's address and of the counter's. -/
theorem test_example_slot :
    adClass 0x0094000044110000 = 4 ∧ adPeer 0x0094000044110000 = 5 ∧ adClass 0x0095000014400018 = 4 ∧ adPeer 0x0095000014400018 = 5 := by
  decide +kernel

/-! ### Published vectors of the algorithms the spec names -/

/-- SipHash-2-4 under the key 00 … 0F of the bytes 00 … 0E, the vector its authors published. -/
theorem test_siphash : sipHash 0x0706050403020100 0x0F0E0D0C0B0A0908 ((List.range 15).map (BitVec.ofNat 8)) = 0xA129CA6149BE45E5 := by
  decide +kernel

/-- Philox4x32-10 with counter and key zero, the vector its authors published. -/
theorem test_philox : philoxX0 0 0 = 0x6627E8D5 := by decide +kernel

/-! ### Single steps -/

/-- R71: a counter of a rod wraps modulo 2^32. -/
theorem test_tadd_wraps :
    ((nextOf (exec (.tadd 0) ((rodAt 0x6400001000000001 []).onRod 0 (fun r => { r with c := [(1, 0xFFFFFFFF)] })))).rod 0).cnt 1 = 0 := by
  decide +kernel

/-- R94: ADD wraps modulo 2^64; a destination of s0 stays zero. -/
theorem test_add_wraps :
    ((nextOf (exec (.integerOp 0) (rodAt 0x2014660000000000 [(3, 0xFFFFFFFFFFFFFFFF), (6, 2)]))).rod 0).sget 5 = 1 ∧
    ((nextOf (exec (.integerOp 0) (rodAt 0x2000660000000000 [(3, 7), (6, 2)]))).rod 0).sget 0 = 0 := by decide +kernel

/-- R88: the words of all zeros and all ones raise ILLEGAL. -/
theorem test_illegal :
    ((nextOf (exec (.nop 0) (rodAt 0 []))).rod 0).raised.map (·.cause) = [1] ∧
    ((nextOf (exec (.nop 0) (rodAt 0xFFFFFFFFFFFFFFFF []))).rod 0).raised.map (·.cause) = [1] := by decide +kernel

/-- Chapter 20: what the instruction register captures, and the identification code, least significant bit first. -/
theorem test_idcode :
    (nextOf (exec .idcode serving)).out =
      [.tdo true [true, false, false, false, false, false, false, false], .tdo true ((List.range 32).map (fun k => (0x0C512A4F#32).getLsbD k))] := by decide +kernel

/-- A step takes the command at the front; the rest of the queue stays. -/
theorem test_step_queue :
    (nextOf (step { serving with pending := [.idcode, .bypass] })).pending = [.bypass] ∧
    (nextOf (step { serving with pending := [.idcode, .bypass] })).tst.ir = 0x0C := by decide +kernel

/-- R395: a write to a counter clears its overflow bit. -/
theorem test_counter_write :
    (nextOf (exec (.counterWrite 0x48000 5) (serving.setReg 0x48000 0x8000000000000003))).rd 0x48000 = 5 := by decide +kernel

/-- 19: a lost power-good input begins a held reset with cause 3; cold and warm resets by register have causes 5 and 6. -/
theorem test_reset_causes :
    (nextOf (exec (.pgLost 1) serving)).rf 0x10008 15 8 = 3 ∧ (nextOf (exec .cold serving)).rf 0x10008 15 8 = 5 ∧
    (nextOf (exec .warm serving)).rf 0x10008 15 8 = 6 := by decide +kernel

/-- No word spells a command: the table gives no row bits. -/
theorem test_no_table_bits : decodeTableWord 64 0 = none ∧ (serving.withFetchWord 64 0).pending = [] := by decide +kernel

/-! ### Witnesses: for each statement with hypotheses, states and operands that meet them, one for each of its clauses -/

/-- A check that succeeds has a result. -/
theorem exists_ok {α : Type} (x : Except Nat α) (h : (match x with | .ok _ => true | .error _ => false) = true) : ∃ d, x = .ok d :=
  match x, h with | .ok d, _ => ⟨d, rfl⟩
/-- The descriptor of `heldOpen` passes its check. -/
theorem heldOpen_check : heldOpen.descCheck ((0 : Fin 16) : Nat) sealedDesc = true := by
  rw [show ((0 : Fin 16) : Nat) = 0 from rfl]
  have e : heldOpen.rangeRead 0 (heldOpen.descAt 0 sealedDesc.step) (sealedDesc.bytes 0).length = some (desc0.bytes 0) := by decide +kernel
  have a : (heldOpen.part 0).jrnlA = none := by decide +kernel
  have b : (heldOpen.part 0).jrnlB = none := by decide +kernel
  have k : heldOpen.sec.jrnlKey = ready.sec.jrnlKey := by decide +kernel
  have r : heldOpen.jrnlOf 0 sealedDesc.step = (none, heldOpen) := by
    unfold State.jrnlOf State.jrnlFind
    dsimp only
    rw [a, b]
    rfl
  unfold State.descCheck
  rw [r, e]
  simp only [sealedDesc, State.jrnlHash, k, beq_self_eq_true]
/-- The pages of a Slate entry of one page, mapped in tier 1. -/
theorem slate_pages (s : State) (i : Nat) (h : (s.slot i).pages = 1)
    (hp : s.pagesOf (s.slot i).part (blockAddr (s.blockEntry i 0)) (s.kvBytes (s.slot i).part) = [0])
    (hx : (match s.xlat (s.slot i).part 0 with | .page e _ _ _ => decide (entryTier e = 1) && !entryMoving e | _ => false) = true) :
    ∀ n, n < (s.slot i).pages → ∀ b ∈ s.pagesOf (s.slot i).part (blockAddr (s.blockEntry i n)) (s.kvBytes (s.slot i).part),
      ∃ e w a z, s.xlat (s.slot i).part b = .page e w a z ∧ entryTier e = 1 ∧ entryMoving e = false := by
  intro n hn b hb
  obtain rfl : n = 0 := by omega
  rw [hp] at hb
  obtain rfl : b = 0 := by simpa using hb
  split at hx
  · next e w a z hq => exact ⟨e, w, a, z, hq, by simpa using hx⟩
  · cases hx
/-- What `TierReady` asks, where no unit operation is out. -/
theorem tier_ready {s : State} {k op : Nat} {c : TierCmd}
    (h : s.live = true ∧ s.tier.queue[k]? = some c ∧ c.op = op ∧ c.formed = true ∧
      (∀ d ∈ s.tier.queue.take k, d.meets c.part c.page (pageSize c.large) = false) ∧
      (∀ m ∈ s.tier.moves, m.cmd.meets c.part c.page (pageSize c.large) = false) ∧ s.fab.ops = []) : TierReady s k op c :=
  ⟨h.1, h.2.1, h.2.2.1, h.2.2.2.1, fun _ => ⟨h.2.2.2.2.1, h.2.2.2.2.2.1, fun o ho => by
    rw [h.2.2.2.2.2.2] at ho; cases ho⟩⟩
/-- A list with one count that is not zero. -/
theorem only_at {n c : Nat} : ∀ m, m ≠ n → nth 0 (List.replicate n 0 ++ [c]) m = 0 := by
  induction n with
  | zero =>
    intro m hm
    cases m with
    | zero => exact absurd rfl hm
    | succ m => cases m <;> rfl
  | succ n ih =>
    intro m hm
    cases m with
    | zero => rfl
    | succ m => exact ih m (fun h => hm (congrArg Nat.succ h))
/-- No element of a list meets a test. -/
theorem none_in {α : Type} {p : α → Prop} [DecidablePred p] {l : List α} (h : l.all (fun e => !decide (p e)) = true) : ¬∃ e, e ∈ l ∧ p e :=
  fun ⟨e, he, hp⟩ => by simpa [hp] using List.all_eq_true.mp h e he
/-- An element of a list meets a test. -/
theorem some_in {α : Type} {p : α → Prop} [DecidablePred p] {l : List α} (h : l.any (fun e => decide (p e)) = true) : ∃ e, e ∈ l ∧ p e := by
  simpa using h

theorem witness_RodSystemInstructions :
    ((let s : State := rodAt 0x400000300000000 []; let c : Ctx := cx s; (s.readyOp ↑(0 : Fin 512) = some c) ∧ (c.op = RodOp.brk)) ∧
    (let s : State := rodAt 0x400000000000000 []; let c : Ctx := cx s; (s.readyOp ↑(0 : Fin 512) = some c) ∧ (c.op = RodOp.nop)) ∧
    (let s : State := rodAt 0x400400208000000 [(2, 3)]; let c : Ctx := cx s; (s.readyOp ↑(0 : Fin 512) = some c) ∧ (c.op = RodOp.srWr 2 8))) ∧
    (let s : State := rodAt 0x40C000100000000 []; let c : Ctx := cx s; (s.readyOp ↑(0 : Fin 512) = some c) ∧ (c.op = RodOp.srRd 3 0) ∧ ((0, (0 : W64)) ∈ s.sprTable c)) :=
  ⟨by decide +kernel, by decide +kernel⟩

theorem witness_RodBranches :
    ((let s : State := rodAt 0x800000000000002 []; let c : Ctx := cx s; (s.readyOp ↑(0 : Fin 512) = some c) ∧ (c.op = RodOp.br (2 : Int))) ∧
    (let s : State := rodAt 0x1000400000000000 [(2, 8)]; let c : Ctx := cx s; (s.readyOp ↑(0 : Fin 512) = some c) ∧ (c.op = RodOp.jr 2)) ∧
    (let s : State := rodAt 0xC10000000000002 []; let c : Ctx := cx s; (s.readyOp ↑(0 : Fin 512) = some c) ∧ (c.op = RodOp.bl 4 (2 : Int))) ∧
    (let s : State := rodAt 0x1014400100000000 [(2, 9)]; let c : Ctx := cx s; (s.readyOp ↑(0 : Fin 512) = some c) ∧ (c.op = RodOp.jlr 5 2))) :=
  by decide +kernel

theorem witness_RodIntegerOperations :
    ((let s : State := rodAt 0x2014620000000000 [(2, 0xFFFFFFFFFFFFFFF5), (3, 0x8000000000000007), (4, 9)]; let c : Ctx := cx s; (s.readyOp ↑(0 : Fin 512) = some c) ∧ (c.op = RodOp.int 0 5 3 2 0 0)) ∧
    (let s : State := rodAt 0x2814608000000001 [(3, 0x8000000000000007)]; let c : Ctx := cx s; (s.readyOp ↑(0 : Fin 512) = some c) ∧ (c.op = RodOp.intImm 10 5 3 549755813889) ∧ (549755813889 < 2 ^ 40) ∧ ((10, (1 : W64)) ∈ [(9, (s.rod c.ph).sget 3 + BitVec.signExtend 64 (BitVec.ofNat 40 549755813889)), (10, (s.rod c.ph).sget 3 &&& BitVec.ofNat 64 549755813889), (11, (s.rod c.ph).sget 3 ||| BitVec.ofNat 64 549755813889), (12, (s.rod c.ph).sget 3 ^^^ BitVec.ofNat 64 549755813889), (13, BitVec.signExtend 64 (BitVec.ofNat 40 549755813889)), (14, (s.rod c.ph).sget 3 &&& BitVec.ofNat 64 1099511627775 ||| BitVec.ofNat 64 (549755813889 % 2 ^ 24 * 2 ^ 40))]))) :=
  by decide +kernel

theorem witness_RodComparesAndPredicates :
    ((let s : State := rodAt 0x3C08601FFFFFFFFB [(3, 7)]; let c : Ctx := cx s; let imm : Int := -5; (s.readyOp ↑(0 : Fin 512) = some c) ∧ (c.op = RodOp.cmpi 1 2 3 imm)) ∧
    (let s : State := rodAt 0x4408640500000000 [(3, 0x80000000), (4, 0)]; let c : Ctx := cx s; (s.readyOp ↑(0 : Fin 512) = some c) ∧ (c.op = RodOp.cmp 5 2 3 4)) ∧
    (let s : State := (rodAt 0x4808640100000000 []).onRod 0 (fun r => { r with p := 0x08 }); let c : Ctx := cx s; (s.readyOp ↑(0 : Fin 512) = some c) ∧ (c.op = RodOp.pred 1 2 3 4) ∧ ((1, true) ∈ [(0, (s.rod c.ph).pget 3 && (s.rod c.ph).pget 4), (1, (s.rod c.ph).pget 3 || (s.rod c.ph).pget 4), (2, (s.rod c.ph).pget 3 ^^ (s.rod c.ph).pget 4), (3, (s.rod c.ph).pget 3 && !(s.rod c.ph).pget 4)]))) :=
  by decide +kernel

theorem witness_RodLoads :
    ((let s : State := rodAt 0x5014600300000008 [(3, 4194296)]; let c : Ctx := cx s; (s.readyOp ↑(0 : Fin 512) = some c) ∧ (c.op = RodOp.ld 3 5 3 (8 : Int)) ∧ (BitVec.toNat ((s.rod c.ph).sget 3 + BitVec.ofInt 64 (8 : Int)) + widthBytes 3 > 2 ^ 22)) ∧
    (let s : State := rodAt 0x5014600200000008 [(3, 4194289)]; let c : Ctx := cx s; (s.readyOp ↑(0 : Fin 512) = some c) ∧ (c.op = RodOp.ld 2 5 3 (8 : Int)) ∧ (BitVec.toNat ((s.rod c.ph).sget 3 + BitVec.ofInt 64 (8 : Int)) + widthBytes 2 ≤ 2 ^ 22) ∧ (BitVec.toNat ((s.rod c.ph).sget 3 + BitVec.ofInt 64 (8 : Int)) % widthBytes 2 ≠ 0))) ∧
    ((let s : State := rodAt 0x5014600300000008 [(3, 16)]; let c : Ctx := cx s; (s.readyOp ↑(0 : Fin 512) = some c) ∧ (c.op = RodOp.ld 3 5 3 (8 : Int)) ∧ (BitVec.toNat ((s.rod c.ph).sget 3 + BitVec.ofInt 64 (8 : Int)) + widthBytes 3 ≤ 2 ^ 22) ∧ (BitVec.toNat ((s.rod c.ph).sget 3 + BitVec.ofInt 64 (8 : Int)) % widthBytes 3 = 0) ∧ (s.beadRangeBad c.ph (BitVec.toNat ((s.rod c.ph).sget 3 + BitVec.ofInt 64 (8 : Int))) (widthBytes 3) = false)) ∧
    (let s : State := { rodAt 0x5014600300000008 [(3, 0x10)] with beadPoison := [(3, true)] }; let c : Ctx := cx s; (s.readyOp ↑(0 : Fin 512) = some c) ∧ (c.op = RodOp.ld 3 5 3 (8 : Int)) ∧ (BitVec.toNat ((s.rod c.ph).sget 3 + BitVec.ofInt 64 (8 : Int)) + widthBytes 3 ≤ 2 ^ 22) ∧ (BitVec.toNat ((s.rod c.ph).sget 3 + BitVec.ofInt 64 (8 : Int)) % widthBytes 3 = 0) ∧ (s.beadRangeBad c.ph (BitVec.toNat ((s.rod c.ph).sget 3 + BitVec.ofInt 64 (8 : Int))) (widthBytes 3) = true))) :=
  ⟨by decide +kernel, by decide +kernel⟩

theorem witness_RodStores :
    ((let s : State := rodAt 0x5400640200000008 [(3, 4128744), (4, 0x123456789ABCDEF0)]; let c : Ctx := cx s; (s.readyOp ↑(0 : Fin 512) = some c) ∧ (c.op = RodOp.st 2 3 4 (8 : Int)) ∧ (BitVec.toNat ((s.rod c.ph).sget 3 + BitVec.ofInt 64 (8 : Int)) + widthBytes 2 ≤ 4128768) ∧ (BitVec.toNat ((s.rod c.ph).sget 3 + BitVec.ofInt 64 (8 : Int)) % widthBytes 2 = 0) ∧ (1 ≠ c.ph)) ∧
    (let s : State := rodAt 0x5400640200000008 [(3, 4194296), (4, 0x123456789ABCDEF0)]; let c : Ctx := cx s; (s.readyOp ↑(0 : Fin 512) = some c) ∧ (c.op = RodOp.st 2 3 4 (8 : Int)) ∧ (BitVec.toNat ((s.rod c.ph).sget 3 + BitVec.ofInt 64 (8 : Int)) + widthBytes 2 > 2 ^ 22))) ∧
    ((let s : State := rodAt 0x5400640200000008 [(3, 4194289), (4, 0x123456789ABCDEF0)]; let c : Ctx := cx s; (s.readyOp ↑(0 : Fin 512) = some c) ∧ (c.op = RodOp.st 2 3 4 (8 : Int)) ∧ (BitVec.toNat ((s.rod c.ph).sget 3 + BitVec.ofInt 64 (8 : Int)) + widthBytes 2 ≤ 2 ^ 22) ∧ (BitVec.toNat ((s.rod c.ph).sget 3 + BitVec.ofInt 64 (8 : Int)) % widthBytes 2 ≠ 0)) ∧
    (let s : State := rodAt 0x5400640200000008 [(3, 4128760), (4, 0x123456789ABCDEF0)]; let c : Ctx := cx s; (s.readyOp ↑(0 : Fin 512) = some c) ∧ (c.op = RodOp.st 2 3 4 (8 : Int)) ∧ (BitVec.toNat ((s.rod c.ph).sget 3 + BitVec.ofInt 64 (8 : Int)) + widthBytes 2 ≤ 2 ^ 22) ∧ (BitVec.toNat ((s.rod c.ph).sget 3 + BitVec.ofInt 64 (8 : Int)) % widthBytes 2 = 0) ∧ (BitVec.toNat ((s.rod c.ph).sget 3 + BitVec.ofInt 64 (8 : Int)) + widthBytes 2 > 4128768))) ∧
    ((let s : State := rodAt 0x5400640200000008 [(3, 4128744), (4, 0x123456789ABCDEF0)]; let c : Ctx := cx s; (s.readyOp ↑(0 : Fin 512) = some c) ∧ (c.op = RodOp.st 2 3 4 (8 : Int)) ∧ (BitVec.toNat ((s.rod c.ph).sget 3 + BitVec.ofInt 64 (8 : Int)) + widthBytes 2 ≤ 4128768) ∧ (BitVec.toNat ((s.rod c.ph).sget 3 + BitVec.ofInt 64 (8 : Int)) % widthBytes 2 = 0) ∧ (∀ (x : Nat × Nat), x ∈ (s.rod c.ph).openWrites none → overlap x.fst x.snd (BitVec.toNat ((s.rod c.ph).sget 3 + BitVec.ofInt 64 (8 : Int))) (widthBytes 2) = false)) ∧
    (let s : State := rodAt 0x5400640200000008 [(3, 4128744), (4, 0x123456789ABCDEF0)]; let c : Ctx := cx s; (s.readyOp ↑(0 : Fin 512) = some c) ∧ (c.op = RodOp.st 2 3 4 (8 : Int)) ∧ (BitVec.toNat ((s.rod c.ph).sget 3 + BitVec.ofInt 64 (8 : Int)) + widthBytes 2 ≤ 4128768) ∧ (BitVec.toNat ((s.rod c.ph).sget 3 + BitVec.ofInt 64 (8 : Int)) % widthBytes 2 = 0) ∧ (0 < 2 ^ 22 * c.ph + BitVec.toNat ((s.rod c.ph).sget 3 + BitVec.ofInt 64 (8 : Int)) ∨ 2 ^ 22 * c.ph + BitVec.toNat ((s.rod c.ph).sget 3 + BitVec.ofInt 64 (8 : Int)) + widthBytes 2 ≤ 0))) :=
  ⟨by decide +kernel, by decide +kernel, by decide +kernel⟩

theorem witness_RodScalarFloatingPoint :
    ((let s : State := rodAt 0x4014601300000000 [(3, 0x7FC00000), (4, 0x3F800001), (6, 0xBF800000)]; let c : Ctx := cx s; (s.readyOp ↑(0 : Fin 512) = some c) ∧ (c.op = RodOp.fp 19 5 3 0 0) ∧ ((19, (0 : Int), (18446744073709551615 : Int)) ∈ [(18, -(2 : Int) ^ 63, (2 : Int) ^ 63 - (1 : Int)), (19, (0 : Int), (2 : Int) ^ 64 - (1 : Int))]) ∧ (f32Val (BitVec.setWidth 32 ((s.rod c.ph).sget 3)) = FVal.nan)) ∧
    (let s : State := rodAt 0x4014601300000000 [(3, 0xFF800000), (4, 0x3F800001), (6, 0xBF800000)]; let c : Ctx := cx s; (s.readyOp ↑(0 : Fin 512) = some c) ∧ (c.op = RodOp.fp 19 5 3 0 0) ∧ ((19, (0 : Int), (18446744073709551615 : Int)) ∈ [(18, -(2 : Int) ^ 63, (2 : Int) ^ 63 - (1 : Int)), (19, (0 : Int), (2 : Int) ^ 64 - (1 : Int))]) ∧ (f32Val (BitVec.setWidth 32 ((s.rod c.ph).sget 3)) = FVal.inf true))) ∧
    (let s : State := rodAt 0x4014601300000000 [(3, 0xC0400000), (4, 0x3F800001), (6, 0xBF800000)]; let c : Ctx := cx s; let e : Int := -22; (s.readyOp ↑(0 : Fin 512) = some c) ∧ (c.op = RodOp.fp 19 5 3 0 0) ∧ ((19, (0 : Int), (18446744073709551615 : Int)) ∈ [(18, -(2 : Int) ^ 63, (2 : Int) ^ 63 - (1 : Int)), (19, (0 : Int), (2 : Int) ^ 64 - (1 : Int))]) ∧ (f32Val (BitVec.setWidth 32 ((s.rod c.ph).sget 3)) = FVal.fin true 12582912 e) ∧ (rneInt true 12582912 e < (0 : Int) ∨ (18446744073709551615 : Int) < rneInt true 12582912 e)) ∧
    ((let s : State := rodAt 0x4014601300000000 [(3, 0x40000000), (4, 0x3F800001), (6, 0xBF800000)]; let c : Ctx := cx s; let e : Int := -22; (s.readyOp ↑(0 : Fin 512) = some c) ∧ (c.op = RodOp.fp 19 5 3 0 0) ∧ ((19, (0 : Int), (18446744073709551615 : Int)) ∈ [(18, -(2 : Int) ^ 63, (2 : Int) ^ 63 - (1 : Int)), (19, (0 : Int), (2 : Int) ^ 64 - (1 : Int))]) ∧ (f32Val (BitVec.setWidth 32 ((s.rod c.ph).sget 3)) = FVal.fin false 8388608 e) ∧ ((0 : Int) ≤ rneInt false 8388608 e) ∧ (rneInt false 8388608 e ≤ (18446744073709551615 : Int))) ∧
    (let s : State := rodAt 0x4014640330000000 [(3, 0x40000000), (4, 0x3F800001), (6, 0xBF800000)]; let c : Ctx := cx s; let v : W32 := ffma (((s.rod c.ph).sget 3).setWidth 32) (((s.rod c.ph).sget 4).setWidth 32) (((s.rod c.ph).sget 6).setWidth 32); (s.readyOp ↑(0 : Fin 512) = some c) ∧ (c.op = RodOp.fp 3 5 3 4 6) ∧ ((3, v) ∈ [(0, fadd (BitVec.setWidth 32 ((s.rod c.ph).sget 3)) (BitVec.setWidth 32 ((s.rod c.ph).sget 4))), (1, fsub (BitVec.setWidth 32 ((s.rod c.ph).sget 3)) (BitVec.setWidth 32 ((s.rod c.ph).sget 4))), (2, fmul (BitVec.setWidth 32 ((s.rod c.ph).sget 3)) (BitVec.setWidth 32 ((s.rod c.ph).sget 4))), (3, v), (4, fmin (BitVec.setWidth 32 ((s.rod c.ph).sget 3)) (BitVec.setWidth 32 ((s.rod c.ph).sget 4))), (5, fmax (BitVec.setWidth 32 ((s.rod c.ph).sget 3)) (BitVec.setWidth 32 ((s.rod c.ph).sget 4))), (6, fneg (BitVec.setWidth 32 ((s.rod c.ph).sget 3))), (7, fabs (BitVec.setWidth 32 ((s.rod c.ph).sget 3))), (16, f32OfInt (BitVec.toInt ((s.rod c.ph).sget 3))), (17, f32OfInt ↑(BitVec.toNat ((s.rod c.ph).sget 3)))]))) :=
  ⟨by decide +kernel, by decide +kernel, by decide +kernel⟩

theorem witness_RodWaitsAndTallyAdd :
    ((let s : State := (rodAt 0x64000070FFFFFFFD []).onRod 0 (fun r => { r with c := [] }); let c : Ctx := cx s; let imm : Int := -3; (s.readyOp ↑(0 : Fin 512) = some c) ∧ (c.op = RodOp.tadd 7 imm) ∧ (0 ≠ 7)) ∧
    (let s : State := (rodAt 0x60000074FFFFFFFD []).onRod 0 (fun r => { r with c := [(7, 5)] }); let c : Ctx := cx s; let imm : Int := -3; (s.readyOp ↑(0 : Fin 512) = some c) ∧ (c.op = RodOp.wait 1 7 imm) ∧ (waitHolds 1 ((s.rod c.ph).cnt 7) imm = false)) ∧
    (let s : State := (rodAt 0x400000000000000 []).onRod 0 (fun r => { r with issue := .waiting 1 7 (-3), c := [(7, 5)] }); let imm : Int := -3; (s.rod (s.phys ↑(0 : Fin 512))).issue = IssueState.waiting 1 7 imm)) ∧
    (let s : State := (rodAt 0x60000070FFFFFFFD []).onRod 0 (fun r => { r with c := [(7, 5)] }); let c : Ctx := cx s; let imm : Int := -3; (s.readyOp ↑(0 : Fin 512) = some c) ∧ (c.op = RodOp.wait 0 7 imm) ∧ (waitHolds 0 ((s.rod c.ph).cnt 7) imm = true)) :=
  ⟨by decide +kernel, by decide +kernel⟩

theorem witness_TileTakeFromOwnQueue :
    ((let s : State := (rodAt 0x7008002000000000 []).onRod 0 (fun r => { r with queue := [] }); let c : Ctx := cx s; (s.readyOp ↑(0 : Fin 512) = some c) ∧ (c.op = RodOp.take 2 1) ∧ ((s.rod c.ph).queue = [])) ∧
    (let s : State := (rodAt 0x7008002000000000 []).onRod 0 (fun r => { r with queue := [⟨3, 8, 4, 10⟩] }); let c : Ctx := cx s; let e : TileEntry := ⟨3, 8, 4, 10⟩; let q : List TileEntry := []; (s.readyOp ↑(0 : Fin 512) = some c) ∧ (c.op = RodOp.take 2 1) ∧ ((s.rod c.ph).queue = e :: q))) :=
  by decide +kernel

theorem witness_TilePutToOwnQueue :
    (let s : State := (rodAt 0x7000642200000000 [(3, 281475010265088), (4, 77)]).onRod 0 (fun r => { r with queue := [] }); let l : Fin 512 := 0; let c : Ctx := cx s; let t : State := nextOf (exec (.tilePut l) s); (exec (Instr.tilePut (0 : Fin 512)) s = Host.Outcome.next t) ∧ (s.readyOp ↑(0 : Fin 512) = some c) ∧ (c.op = RodOp.put 3 4 1) ∧ (1 ≠ c.ph)) ∧
    ((let s : State := (rodAt 0x7000642200000000 [(3, 281475010265088), (4, 77)]).onRod 0 (fun r => { r with queue := [] }); let c : Ctx := cx s; (s.readyOp ↑(0 : Fin 512) = some c) ∧ (c.op = RodOp.put 3 4 1) ∧ (BitVec.toNat ((s.rod c.ph).sget 3) % 2 ^ 24 = 0 ∨ 64 ≤ (s.rod c.ph).queue.length)) ∧
    (let s : State := (rodAt 0x7000642200000000 [(3, 281475010265091), (4, 77)]).onRod 0 (fun r => { r with queue := List.replicate 63 ⟨3, 8, 4, 10⟩ }); let c : Ctx := cx s; (s.readyOp ↑(0 : Fin 512) = some c) ∧ (c.op = RodOp.put 3 4 1) ∧ (BitVec.toNat ((s.rod c.ph).sget 3) % 2 ^ 24 ≠ 0) ∧ ((s.rod c.ph).queue.length < 64))) :=
  ⟨⟨rfl, by decide +kernel⟩, by decide +kernel⟩

theorem witness_TileStealWalk :
    ((let s : State := ((((rodAt 0x400000000000000 []).onRod 0 (fun r => { r with issue := .stealing 4 1 [2, 3] }))).onRod 3 (fun r => { r with queue := [⟨2, 7, 1, 9⟩] })); let post : List Nat := []; let q : List TileEntry := []; let e : TileEntry := ⟨2, 7, 1, 9⟩; ((s.rod (s.phys ↑(0 : Fin 512))).issue = IssueState.stealing 4 1 (2 :: 3 :: post)) ∧ (2 :: 3 :: post = 2 :: post ++ 3 :: post) ∧ (∀ (y : Nat), y ∈ 2 :: post → (s.rod (s.phys y)).queue = q) ∧ ((s.rod (s.phys 3)).queue = q ++ e :: q) ∧ (s.phys 3 ≠ s.phys ↑(0 : Fin 512)) ∧ (1 ≠ s.phys 3) ∧ (1 ≠ s.phys ↑(0 : Fin 512))) ∧
    (let s : State := rodAt 0x7010002100000000 []; let c : Ctx := cx s; (s.readyOp ↑(0 : Fin 512) = some c) ∧ (c.op = RodOp.steal 4 1))) ∧
    (let s : State := ((((rodAt 0x400000000000000 []).onRod 0 (fun r => { r with issue := .stealing 4 1 [2, 3] }))).onRod 3 (fun r => { r with queue := [] })); let ring : List Nat := [2, 3]; ((s.rod (s.phys ↑(0 : Fin 512))).issue = IssueState.stealing 4 1 ring) ∧ (∀ (x : Nat), x ∈ ring → (s.rod (s.phys x)).queue = [])) :=
  ⟨by decide +kernel, by decide +kernel⟩

theorem witness_RodVectorLaneOperations :
    ((let s : State := (rodAt 0x8014649000000000 [(3, 0x12345678), (4, 70)]).onRod 0 (fun r => { r with v := (List.range 64).map (fun n => (64 * 3 + n, BitVec.ofNat 32 (n * 0x3030301 + 1))) ++ (List.range 64).map (fun n => (64 * 4 + n, BitVec.ofNat 32 (0x3F800000 + n * 0x100000))) ++ [(64 * 6, 1), (64 * 6 + 9, 0x82)] }); let c : Ctx := cx s; let cnt : Option Nat := some 2; (s.readyOp ↑(0 : Fin 512) = some c) ∧ (c.op = RodOp.vec 0 5 3 4 0 0 cnt) ∧ (0 ∈ laneFns) ∧ (0 < 64) ∧ (0 ≠ 5)) ∧
    (let s : State := (rodAt 0x80140091D8000000 [(3, 0x12345678), (4, 70)]).onRod 0 (fun r => { r with v := (List.range 64).map (fun n => (64 * 3 + n, BitVec.ofNat 32 (n * 0x3030301 + 1))) ++ (List.range 64).map (fun n => (64 * 4 + n, BitVec.ofNat 32 (0x3F800000 + n * 0x100000))) ++ [(64 * 6, 1), (64 * 6 + 9, 0x82)] }); let c : Ctx := cx s; let cnt : Option Nat := some 2; (s.readyOp ↑(0 : Fin 512) = some c) ∧ (c.op = RodOp.vec 59 5 0 0 0 0 cnt) ∧ (59 = 59) ∧ (0 < 64) ∧ (0 ≠ 5))) ∧
    ((let s : State := (rodAt 0x80146091C0000000 [(3, 0x12345678), (4, 70)]).onRod 0 (fun r => { r with v := (List.range 64).map (fun n => (64 * 3 + n, BitVec.ofNat 32 (n * 0x3030301 + 1))) ++ (List.range 64).map (fun n => (64 * 4 + n, BitVec.ofNat 32 (0x3F800000 + n * 0x100000))) ++ [(64 * 6, 1), (64 * 6 + 9, 0x82)] }); let c : Ctx := cx s; let cnt : Option Nat := some 2; (s.readyOp ↑(0 : Fin 512) = some c) ∧ (c.op = RodOp.vec 56 5 3 0 0 0 cnt) ∧ (56 = 56) ∧ (0 < 64) ∧ (0 ≠ 5)) ∧
    (let s : State := (rodAt 0x80146491E0000000 [(3, 0x12345678), (4, 70)]).onRod 0 (fun r => { r with v := (List.range 64).map (fun n => (64 * 3 + n, BitVec.ofNat 32 (n * 0x3030301 + 1))) ++ (List.range 64).map (fun n => (64 * 4 + n, BitVec.ofNat 32 (0x3F800000 + n * 0x100000))) ++ [(64 * 6, 1), (64 * 6 + 9, 0x82)] }); let c : Ctx := cx s; let cnt : Option Nat := some 2; (s.readyOp ↑(0 : Fin 512) = some c) ∧ (c.op = RodOp.vec 60 5 3 4 0 0 cnt) ∧ (60 = 60) ∧ (0 < 64) ∧ (0 ≠ 5))) ∧
    (let s : State := (rodAt 0x80146491E8000000 [(3, 0x12345678), (4, 70)]).onRod 0 (fun r => { r with v := (List.range 64).map (fun n => (64 * 3 + n, BitVec.ofNat 32 (n * 0x3030301 + 1))) ++ (List.range 64).map (fun n => (64 * 4 + n, BitVec.ofNat 32 (0x3F800000 + n * 0x100000))) ++ [(64 * 6, 1), (64 * 6 + 9, 0x82)] }); let c : Ctx := cx s; let cnt : Option Nat := some 2; (s.readyOp ↑(0 : Fin 512) = some c) ∧ (c.op = RodOp.vec 61 5 3 4 0 0 cnt) ∧ ((61, true) ∈ [(61, true), (62, false)]) ∧ (0 < 64) ∧ (0 ≠ 5)) ∧
    ((let s : State := (rodAt 0x8014649000000000 [(3, 0x12345678), (4, 70)]).onRod 0 (fun r => { r with v := (List.range 64).map (fun n => (64 * 3 + n, BitVec.ofNat 32 (n * 0x3030301 + 1))) ++ (List.range 64).map (fun n => (64 * 4 + n, BitVec.ofNat 32 (0x3F800000 + n * 0x100000))) ++ [(64 * 6, 1), (64 * 6 + 9, 0x82)] }); let c : Ctx := cx s; let cnt : Option Nat := some 2; let bs : List Byte := List.replicate 256 7; (s.readyOp ↑(0 : Fin 512) = some c) ∧ (c.op = RodOp.vec 0 5 3 4 0 0 cnt) ∧ (bs.length = 256) ∧ (3 < 256) ∧ (0 < 256)) ∧
    (let s : State := (rodAt 0x8014649000000000 [(3, 0x12345678), (4, 70)]).onRod 0 (fun r => { r with v := (List.range 64).map (fun n => (64 * 3 + n, BitVec.ofNat 32 (n * 0x3030301 + 1))) ++ (List.range 64).map (fun n => (64 * 4 + n, BitVec.ofNat 32 (0x3F800000 + n * 0x100000))) ++ [(64 * 6, 1), (64 * 6 + 9, 0x82)] }); let c : Ctx := cx s; let cnt : Option Nat := some 2; (s.readyOp ↑(0 : Fin 512) = some c) ∧ (c.op = RodOp.vec 0 5 3 4 0 0 cnt) ∧ (0 ∈ laneFns) ∧ (3 ≠ c.ph))) ∧
    ((let s : State := (rodAt 0x80140091D8000000 [(3, 0x12345678), (4, 70)]).onRod 0 (fun r => { r with v := (List.range 64).map (fun n => (64 * 3 + n, BitVec.ofNat 32 (n * 0x3030301 + 1))) ++ (List.range 64).map (fun n => (64 * 4 + n, BitVec.ofNat 32 (0x3F800000 + n * 0x100000))) ++ [(64 * 6, 1), (64 * 6 + 9, 0x82)] }); let c : Ctx := cx s; let cnt : Option Nat := some 2; (s.readyOp ↑(0 : Fin 512) = some c) ∧ (c.op = RodOp.vec 59 5 0 0 0 0 cnt) ∧ (59 = 59) ∧ (3 ≠ c.ph)) ∧
    (let s : State := (rodAt 0x80146091C0000000 [(3, 0x12345678), (4, 70)]).onRod 0 (fun r => { r with v := (List.range 64).map (fun n => (64 * 3 + n, BitVec.ofNat 32 (n * 0x3030301 + 1))) ++ (List.range 64).map (fun n => (64 * 4 + n, BitVec.ofNat 32 (0x3F800000 + n * 0x100000))) ++ [(64 * 6, 1), (64 * 6 + 9, 0x82)] }); let c : Ctx := cx s; let cnt : Option Nat := some 2; (s.readyOp ↑(0 : Fin 512) = some c) ∧ (c.op = RodOp.vec 56 5 3 0 0 0 cnt) ∧ (56 = 56) ∧ (3 ≠ c.ph))) ∧
    ((let s : State := (rodAt 0x80146491E0000000 [(3, 0x12345678), (4, 70)]).onRod 0 (fun r => { r with v := (List.range 64).map (fun n => (64 * 3 + n, BitVec.ofNat 32 (n * 0x3030301 + 1))) ++ (List.range 64).map (fun n => (64 * 4 + n, BitVec.ofNat 32 (0x3F800000 + n * 0x100000))) ++ [(64 * 6, 1), (64 * 6 + 9, 0x82)] }); let c : Ctx := cx s; let cnt : Option Nat := some 2; (s.readyOp ↑(0 : Fin 512) = some c) ∧ (c.op = RodOp.vec 60 5 3 4 0 0 cnt) ∧ (60 = 60) ∧ (3 ≠ c.ph)) ∧
    (let s : State := (rodAt 0x80146491E8000000 [(3, 0x12345678), (4, 70)]).onRod 0 (fun r => { r with v := (List.range 64).map (fun n => (64 * 3 + n, BitVec.ofNat 32 (n * 0x3030301 + 1))) ++ (List.range 64).map (fun n => (64 * 4 + n, BitVec.ofNat 32 (0x3F800000 + n * 0x100000))) ++ [(64 * 6, 1), (64 * 6 + 9, 0x82)] }); let c : Ctx := cx s; let cnt : Option Nat := some 2; (s.readyOp ↑(0 : Fin 512) = some c) ∧ (c.op = RodOp.vec 61 5 3 4 0 0 cnt) ∧ ((61, true) ∈ [(61, true), (62, false)]) ∧ (3 ≠ c.ph))) :=
  ⟨by decide +kernel, by decide +kernel, by decide +kernel, by decide +kernel, by decide +kernel, by decide +kernel⟩

theorem witness_RodVectorReductionsAndConversions :
    (let s : State := (rodAt 0x8014600220000000 [(4, 69)]).onRod 0 (fun r => { r with v := (List.range 64).map (fun n => (64 * 3 + n, BitVec.ofNat 32 (n * 0x3030301 + 1))) ++ (List.range 64).map (fun n => (64 * 4 + n, BitVec.ofNat 32 (0x3F800000 + n * 0x100000))) ++ [(64 * 6, 1), (64 * 6 + 9, 0x82)] }); let c : Ctx := cx s; let cnt : Option Nat := none; (s.readyOp ↑(0 : Fin 512) = some c) ∧ (c.op = RodOp.vec 68 5 3 0 0 0 cnt) ∧ (68 = 68) ∧ (3 ≠ c.ph)) ∧
    (let s : State := (rodAt 0x8014600200080000 [(4, 69)]).onRod 0 (fun r => { r with v := (List.range 64).map (fun n => (64 * 3 + n, BitVec.ofNat 32 (n * 0x3030301 + 1))) ++ (List.range 64).map (fun n => (64 * 4 + n, BitVec.ofNat 32 (0x3F800000 + n * 0x100000))) ++ [(64 * 6, 1), (64 * 6 + 9, 0x82)] }); let c : Ctx := cx s; let ty : Nat := 2; let cnt : Option Nat := none; let e : Elt := (Elt.ofCode ty).getD ((Elt.ofCode 2).get rfl); (s.readyOp ↑(0 : Fin 512) = some c) ∧ (c.op = RodOp.vec 64 5 3 0 0 2 cnt) ∧ (Elt.ofCode 2 = some e) ∧ (64 = 64) ∧ (3 ≠ c.ph)) ∧
    (let s : State := (rodAt 0x8014600208180000 [(4, 69)]).onRod 0 (fun r => { r with v := (List.range 64).map (fun n => (64 * 3 + n, BitVec.ofNat 32 (n * 0x3030301 + 1))) ++ (List.range 64).map (fun n => (64 * 4 + n, BitVec.ofNat 32 (0x3F800000 + n * 0x100000))) ++ [(64 * 6, 1), (64 * 6 + 9, 0x82)] }); let c : Ctx := cx s; let ty : Nat := 6; let cnt : Option Nat := none; let e : Elt := (Elt.ofCode ty).getD ((Elt.ofCode 2).get rfl); (s.readyOp ↑(0 : Fin 512) = some c) ∧ (c.op = RodOp.vec 65 5 3 0 0 6 cnt) ∧ (Elt.ofCode 6 = some e) ∧ (65 = 65) ∧ (3 ≠ c.ph)) ∧
    (let s : State := (rodAt 0x8014600210080000 [(4, 69)]).onRod 0 (fun r => { r with v := (List.range 64).map (fun n => (64 * 3 + n, BitVec.ofNat 32 (n * 0x3030301 + 1))) ++ (List.range 64).map (fun n => (64 * 4 + n, BitVec.ofNat 32 (0x3F800000 + n * 0x100000))) ++ [(64 * 6, 1), (64 * 6 + 9, 0x82)] }); let c : Ctx := cx s; let ty : Nat := 2; let cnt : Option Nat := none; let e : Elt := (Elt.ofCode ty).getD ((Elt.ofCode 2).get rfl); (s.readyOp ↑(0 : Fin 512) = some c) ∧ (c.op = RodOp.vec 66 5 3 0 0 2 cnt) ∧ (Elt.ofCode 2 = some e) ∧ (66 = 66) ∧ (3 ≠ c.ph)) ∧
    (let s : State := (rodAt 0x8014600180000000 [(4, 69)]).onRod 0 (fun r => { r with v := (List.range 64).map (fun n => (64 * 3 + n, BitVec.ofNat 32 (n * 0x3030301 + 1))) ++ (List.range 64).map (fun n => (64 * 4 + n, BitVec.ofNat 32 (0x3F800000 + n * 0x100000))) ++ [(64 * 6, 1), (64 * 6 + 9, 0x82)] }); let l : Fin 512 := 0; let c : Ctx := cx s; let d : Nat := 5; let cnt : Option Nat := none; let v : BitVec 64 := ((nextOf (exec (.vectorOp l) s)).rod c.ph).sget d; (s.readyOp ↑(0 : Fin 512) = some c) ∧ (c.op = RodOp.vec 48 5 3 0 0 0 cnt) ∧ ((48, 0, v) ∈ [(48, 0, BitVec.setWidth 64 ((fun op => (treeLevels op 6 ((s.rod c.ph).vget 3)).headD (0 : W32)) fadd)), (49, 0, BitVec.setWidth 64 ((fun op => (treeLevels op 6 ((s.rod c.ph).vget 3)).headD (0 : W32)) fmax)), (50, 0, BitVec.setWidth 64 ((fun op => (treeLevels op 6 ((s.rod c.ph).vget 3)).headD (0 : W32)) fmin)), (48, 1, BitVec.signExtend 64 ((fun op => (treeLevels op 6 ((s.rod c.ph).vget 3)).headD (0 : W32)) fun x1 x2 => x1 + x2)), (49, 1, BitVec.setWidth 64 ((fun op => (treeLevels op 6 ((s.rod c.ph).vget 3)).headD (0 : W32)) fun p q => if BitVec.slt p q = true then q else p)), (50, 1, BitVec.setWidth 64 ((fun op => (treeLevels op 6 ((s.rod c.ph).vget 3)).headD (0 : W32)) fun p q => if BitVec.slt q p = true then q else p)), (57, 0, BitVec.setWidth 64 ((s.rod c.ph).vlane 3 (BitVec.toNat ((s.rod c.ph).sget 0) % 64)))])) :=
  ⟨by decide +kernel, by decide +kernel, by decide +kernel, by decide +kernel, by decide +kernel⟩

theorem witness_RodVectorMemoryAndAccumulatorMoves :
    (let s : State := (rodAt 0x8C14000000011800 []).onRod 0 (fun r => { r with v := (List.range 64).map (fun n => (64 * 3 + n, BitVec.ofNat 32 (n * 0x3030301 + 1))) ++ (List.range 64).map (fun n => (64 * 4 + n, BitVec.ofNat 32 (0x3F800000 + n * 0x100000))) ++ [(64 * 6, 1), (64 * 6 + 9, 0x82)], t := (List.range 128).map (fun n => (1024 * 2 + 64 * 3 + n, BitVec.ofNat 32 (n * 0x3030301 + 1))) ++ [(1024 * 3, 9)] }); let c : Ctx := cx s; let cnt : Option Nat := none; (s.readyOp ↑(0 : Fin 512) = some c) ∧ (c.op = RodOp.acc 0 5 0 2 3 cnt) ∧ (3 < 16) ∧ (0 = 0) ∧ (0 < 64) ∧ (0 ≠ 5)) ∧
    (let s : State := { (rodAt 0x841460A700000020 [(3, 64)]).onRod 0 (fun r => { r with v := (List.range 64).map (fun n => (64 * 3 + n, BitVec.ofNat 32 (n * 0x3030301 + 1))) ++ (List.range 64).map (fun n => (64 * 4 + n, BitVec.ofNat 32 (0x3F800000 + n * 0x100000))) ++ [(64 * 6, 1), (64 * 6 + 9, 0x82)] }) with bead := (List.range 40).foldl (fun m n => Memory.write64 m (8 * n) (BitVec.ofNat 64 (n * 0x123456789ABCDE5))) [] }; let c : Ctx := cx s; let cnt : Option Nat := some 4; (s.readyOp ↑(0 : Fin 512) = some c) ∧ (c.op = RodOp.vld 5 3 (32 : Int) cnt) ∧ (BitVec.toNat ((s.rod c.ph).sget 3 + BitVec.ofInt 64 (32 : Int)) + 256 ≤ 2 ^ 22) ∧ (BitVec.toNat ((s.rod c.ph).sget 3 + BitVec.ofInt 64 (32 : Int)) % 32 = 0) ∧ (s.beadRangeBad c.ph (BitVec.toNat ((s.rod c.ph).sget 3 + BitVec.ofInt 64 (32 : Int))) 256 = false) ∧ (3 ≠ c.ph)) ∧
    (let s : State := (rodAt 0x8C00600008012000 []).onRod 0 (fun r => { r with v := (List.range 64).map (fun n => (64 * 3 + n, BitVec.ofNat 32 (n * 0x3030301 + 1))) ++ (List.range 64).map (fun n => (64 * 4 + n, BitVec.ofNat 32 (0x3F800000 + n * 0x100000))) ++ [(64 * 6, 1), (64 * 6 + 9, 0x82)], t := (List.range 128).map (fun n => (1024 * 2 + 64 * 3 + n, BitVec.ofNat 32 (n * 0x3030301 + 1))) ++ [(1024 * 3, 9)] }); let c : Ctx := cx s; let cnt : Option Nat := none; (s.readyOp ↑(0 : Fin 512) = some c) ∧ (c.op = RodOp.acc 1 0 3 2 4 cnt) ∧ (4 < 16) ∧ (1 = 1) ∧ (0 < 16) ∧ (0 < 64) ∧ (0 ≠ 2)) ∧
    (let s : State := (rodAt 0x8C00000010010000 []).onRod 0 (fun r => { r with v := (List.range 64).map (fun n => (64 * 3 + n, BitVec.ofNat 32 (n * 0x3030301 + 1))) ++ (List.range 64).map (fun n => (64 * 4 + n, BitVec.ofNat 32 (0x3F800000 + n * 0x100000))) ++ [(64 * 6, 1), (64 * 6 + 9, 0x82)], t := (List.range 128).map (fun n => (1024 * 2 + 64 * 3 + n, BitVec.ofNat 32 (n * 0x3030301 + 1))) ++ [(1024 * 3, 9)] }); let c : Ctx := cx s; let cnt : Option Nat := none; (s.readyOp ↑(0 : Fin 512) = some c) ∧ (c.op = RodOp.acc 2 0 0 2 0 cnt) ∧ (0 < 16) ∧ (2 = 2) ∧ (3 < 16) ∧ (0 < 64) ∧ (0 ≠ 2)) ∧
    ((let s : State := { (rodAt 0x880064A700000020 [(3, 64)]).onRod 0 (fun r => { r with v := (List.range 64).map (fun n => (64 * 3 + n, BitVec.ofNat 32 (n * 0x3030301 + 1))) ++ (List.range 64).map (fun n => (64 * 4 + n, BitVec.ofNat 32 (0x3F800000 + n * 0x100000))) ++ [(64 * 6, 1), (64 * 6 + 9, 0x82)] }) with bead := (List.range 40).foldl (fun m n => Memory.write64 m (8 * n) (BitVec.ofNat 64 (n * 0x123456789ABCDE5))) [] }; let c : Ctx := cx s; let cnt : Option Nat := some 4; (s.readyOp ↑(0 : Fin 512) = some c) ∧ (c.op = RodOp.vst 3 4 (32 : Int) cnt) ∧ (BitVec.toNat ((s.rod c.ph).sget 3 + BitVec.ofInt 64 (32 : Int)) + 256 ≤ 4128768) ∧ (BitVec.toNat ((s.rod c.ph).sget 3 + BitVec.ofInt 64 (32 : Int)) % 32 = 0) ∧ (3 ≠ c.ph)) ∧
    (let s : State := { (rodAt 0x841460A700000020 [(3, 4194017)]).onRod 0 (fun r => { r with v := (List.range 64).map (fun n => (64 * 3 + n, BitVec.ofNat 32 (n * 0x3030301 + 1))) ++ (List.range 64).map (fun n => (64 * 4 + n, BitVec.ofNat 32 (0x3F800000 + n * 0x100000))) ++ [(64 * 6, 1), (64 * 6 + 9, 0x82)] }) with bead := (List.range 40).foldl (fun m n => Memory.write64 m (8 * n) (BitVec.ofNat 64 (n * 0x123456789ABCDE5))) [] }; let c : Ctx := cx s; let cnt : Option Nat := some 4; (s.readyOp ↑(0 : Fin 512) = some c) ∧ (c.op = RodOp.vld 5 3 (32 : Int) cnt) ∧ (BitVec.toNat ((s.rod c.ph).sget 3 + BitVec.ofInt 64 (32 : Int)) + 256 > 2 ^ 22))) ∧
    ((let s : State := { (rodAt 0x880064A700000020 [(3, 4194017)]).onRod 0 (fun r => { r with v := (List.range 64).map (fun n => (64 * 3 + n, BitVec.ofNat 32 (n * 0x3030301 + 1))) ++ (List.range 64).map (fun n => (64 * 4 + n, BitVec.ofNat 32 (0x3F800000 + n * 0x100000))) ++ [(64 * 6, 1), (64 * 6 + 9, 0x82)] }) with bead := (List.range 40).foldl (fun m n => Memory.write64 m (8 * n) (BitVec.ofNat 64 (n * 0x123456789ABCDE5))) [] }; let c : Ctx := cx s; let cnt : Option Nat := some 4; (s.readyOp ↑(0 : Fin 512) = some c) ∧ (c.op = RodOp.vst 3 4 (32 : Int) cnt) ∧ (BitVec.toNat ((s.rod c.ph).sget 3 + BitVec.ofInt 64 (32 : Int)) + 256 > 2 ^ 22)) ∧
    (let s : State := (rodAt 0x8C14000000011800 []).onRod 0 (fun r => { r with v := (List.range 64).map (fun n => (64 * 3 + n, BitVec.ofNat 32 (n * 0x3030301 + 1))) ++ (List.range 64).map (fun n => (64 * 4 + n, BitVec.ofNat 32 (0x3F800000 + n * 0x100000))) ++ [(64 * 6, 1), (64 * 6 + 9, 0x82)], t := (List.range 128).map (fun n => (1024 * 2 + 64 * 3 + n, BitVec.ofNat 32 (n * 0x3030301 + 1))) ++ [(1024 * 3, 9)] }); let c : Ctx := cx s; let cnt : Option Nat := none; (s.readyOp ↑(0 : Fin 512) = some c) ∧ (c.op = RodOp.acc 0 5 0 2 3 cnt) ∧ (3 < 16) ∧ (0 = 0) ∧ (2 ≠ c.ph))) ∧
    ((let s : State := (rodAt 0x8C00600008012000 []).onRod 0 (fun r => { r with v := (List.range 64).map (fun n => (64 * 3 + n, BitVec.ofNat 32 (n * 0x3030301 + 1))) ++ (List.range 64).map (fun n => (64 * 4 + n, BitVec.ofNat 32 (0x3F800000 + n * 0x100000))) ++ [(64 * 6, 1), (64 * 6 + 9, 0x82)], t := (List.range 128).map (fun n => (1024 * 2 + 64 * 3 + n, BitVec.ofNat 32 (n * 0x3030301 + 1))) ++ [(1024 * 3, 9)] }); let c : Ctx := cx s; let cnt : Option Nat := none; (s.readyOp ↑(0 : Fin 512) = some c) ∧ (c.op = RodOp.acc 1 0 3 2 4 cnt) ∧ (4 < 16) ∧ (1 = 1) ∧ (2 ≠ c.ph)) ∧
    (let s : State := (rodAt 0x8C00000010010000 []).onRod 0 (fun r => { r with v := (List.range 64).map (fun n => (64 * 3 + n, BitVec.ofNat 32 (n * 0x3030301 + 1))) ++ (List.range 64).map (fun n => (64 * 4 + n, BitVec.ofNat 32 (0x3F800000 + n * 0x100000))) ++ [(64 * 6, 1), (64 * 6 + 9, 0x82)], t := (List.range 128).map (fun n => (1024 * 2 + 64 * 3 + n, BitVec.ofNat 32 (n * 0x3030301 + 1))) ++ [(1024 * 3, 9)] }); let c : Ctx := cx s; let cnt : Option Nat := none; (s.readyOp ↑(0 : Fin 512) = some c) ∧ (c.op = RodOp.acc 2 0 0 2 0 cnt) ∧ (0 < 16) ∧ (2 = 2) ∧ (2 ≠ c.ph))) :=
  ⟨by decide +kernel, by decide +kernel, by decide +kernel, by decide +kernel, by decide +kernel, by decide +kernel, by decide +kernel⟩

theorem witness_RodVectorMemoryAndAccumulatorMoves_part2 :
    ((let s : State := (rodAt 0x880064A700000000 [(3, 0x3EFF20)]).onRod 0 (fun r => { r with v := (List.range 64).map (fun n => (64 * 3 + n, BitVec.ofNat 32 (n * 0x3030301 + 1))) ++ (List.range 64).map (fun n => (64 * 4 + n, BitVec.ofNat 32 (0x3F800000 + n * 0x100000))) ++ [(64 * 6, 1), (64 * 6 + 9, 0x82)] }); let c : Ctx := cx s; let cnt : Option Nat := some 4; (s.readyOp ↑(0 : Fin 512) = some c) ∧ (c.op = RodOp.vst 3 4 (0 : Int) cnt) ∧ (BitVec.toNat ((s.rod c.ph).sget 3 + BitVec.ofInt 64 (0 : Int)) + 256 ≤ 2 ^ 22) ∧ (BitVec.toNat ((s.rod c.ph).sget 3 + BitVec.ofInt 64 (0 : Int)) % 32 = 0) ∧ (BitVec.toNat ((s.rod c.ph).sget 3 + BitVec.ofInt 64 (0 : Int)) + 256 > 4128768)) ∧
    (let s : State := { (rodAt 0x841460A700000020 [(3, 17)]).onRod 0 (fun r => { r with v := (List.range 64).map (fun n => (64 * 3 + n, BitVec.ofNat 32 (n * 0x3030301 + 1))) ++ (List.range 64).map (fun n => (64 * 4 + n, BitVec.ofNat 32 (0x3F800000 + n * 0x100000))) ++ [(64 * 6, 1), (64 * 6 + 9, 0x82)] }) with bead := (List.range 40).foldl (fun m n => Memory.write64 m (8 * n) (BitVec.ofNat 64 (n * 0x123456789ABCDE5))) [] }; let c : Ctx := cx s; let cnt : Option Nat := some 4; (s.readyOp ↑(0 : Fin 512) = some c) ∧ (c.op = RodOp.vld 5 3 (32 : Int) cnt) ∧ (BitVec.toNat ((s.rod c.ph).sget 3 + BitVec.ofInt 64 (32 : Int)) + 256 ≤ 2 ^ 22) ∧ (BitVec.toNat ((s.rod c.ph).sget 3 + BitVec.ofInt 64 (32 : Int)) % 32 ≠ 0))) ∧
    ((let s : State := { (rodAt 0x880064A700000020 [(3, 17)]).onRod 0 (fun r => { r with v := (List.range 64).map (fun n => (64 * 3 + n, BitVec.ofNat 32 (n * 0x3030301 + 1))) ++ (List.range 64).map (fun n => (64 * 4 + n, BitVec.ofNat 32 (0x3F800000 + n * 0x100000))) ++ [(64 * 6, 1), (64 * 6 + 9, 0x82)] }) with bead := (List.range 40).foldl (fun m n => Memory.write64 m (8 * n) (BitVec.ofNat 64 (n * 0x123456789ABCDE5))) [] }; let c : Ctx := cx s; let cnt : Option Nat := some 4; (s.readyOp ↑(0 : Fin 512) = some c) ∧ (c.op = RodOp.vst 3 4 (32 : Int) cnt) ∧ (BitVec.toNat ((s.rod c.ph).sget 3 + BitVec.ofInt 64 (32 : Int)) + 256 ≤ 2 ^ 22) ∧ (BitVec.toNat ((s.rod c.ph).sget 3 + BitVec.ofInt 64 (32 : Int)) % 32 ≠ 0)) ∧
    (let s : State := (rodAt 0x8C00600008012000 []).onRod 0 (fun r => { r with v := (List.range 64).map (fun n => (64 * 3 + n, BitVec.ofNat 32 (n * 0x3030301 + 1))) ++ (List.range 64).map (fun n => (64 * 4 + n, BitVec.ofNat 32 (0x3F800000 + n * 0x100000))) ++ [(64 * 6, 1), (64 * 6 + 9, 0x82)], t := (List.range 128).map (fun n => (1024 * 2 + 64 * 3 + n, BitVec.ofNat 32 (n * 0x3030301 + 1))) ++ [(1024 * 3, 9)] }); let c : Ctx := cx s; let cnt : Option Nat := none; (s.readyOp ↑(0 : Fin 512) = some c) ∧ (c.op = RodOp.acc 1 0 3 2 4 cnt) ∧ (4 < 16) ∧ (1 = 1))) ∧
    ((let s : State := (rodAt 0x8C00000010010000 []).onRod 0 (fun r => { r with v := (List.range 64).map (fun n => (64 * 3 + n, BitVec.ofNat 32 (n * 0x3030301 + 1))) ++ (List.range 64).map (fun n => (64 * 4 + n, BitVec.ofNat 32 (0x3F800000 + n * 0x100000))) ++ [(64 * 6, 1), (64 * 6 + 9, 0x82)], t := (List.range 128).map (fun n => (1024 * 2 + 64 * 3 + n, BitVec.ofNat 32 (n * 0x3030301 + 1))) ++ [(1024 * 3, 9)] }); let c : Ctx := cx s; let cnt : Option Nat := none; (s.readyOp ↑(0 : Fin 512) = some c) ∧ (c.op = RodOp.acc 2 0 0 2 0 cnt) ∧ (0 < 16) ∧ (2 = 2)) ∧
    (let s : State := { (rodAt 0x841460A700000020 [(3, 64)]).onRod 0 (fun r => { r with v := (List.range 64).map (fun n => (64 * 3 + n, BitVec.ofNat 32 (n * 0x3030301 + 1))) ++ (List.range 64).map (fun n => (64 * 4 + n, BitVec.ofNat 32 (0x3F800000 + n * 0x100000))) ++ [(64 * 6, 1), (64 * 6 + 9, 0x82)] }) with bead := (List.range 40).foldl (fun m n => Memory.write64 m (8 * n) (BitVec.ofNat 64 (n * 0x123456789ABCDE5))) [], beadPoison := [(30, true)] }; let c : Ctx := cx s; let cnt : Option Nat := some 4; (s.readyOp ↑(0 : Fin 512) = some c) ∧ (c.op = RodOp.vld 5 3 (32 : Int) cnt) ∧ (BitVec.toNat ((s.rod c.ph).sget 3 + BitVec.ofInt 64 (32 : Int)) + 256 ≤ 2 ^ 22) ∧ (BitVec.toNat ((s.rod c.ph).sget 3 + BitVec.ofInt 64 (32 : Int)) % 32 = 0) ∧ (s.beadRangeBad c.ph (BitVec.toNat ((s.rod c.ph).sget 3 + BitVec.ofInt 64 (32 : Int))) 256 = true))) ∧
    ((let s : State := { (rodAt 0x880064A700000020 [(3, 64)]).onRod 0 (fun r => { r with v := (List.range 64).map (fun n => (64 * 3 + n, BitVec.ofNat 32 (n * 0x3030301 + 1))) ++ (List.range 64).map (fun n => (64 * 4 + n, BitVec.ofNat 32 (0x3F800000 + n * 0x100000))) ++ [(64 * 6, 1), (64 * 6 + 9, 0x82)] }) with bead := (List.range 40).foldl (fun m n => Memory.write64 m (8 * n) (BitVec.ofNat 64 (n * 0x123456789ABCDE5))) [] }; let c : Ctx := cx s; let cnt : Option Nat := some 4; (s.readyOp ↑(0 : Fin 512) = some c) ∧ (c.op = RodOp.vst 3 4 (32 : Int) cnt) ∧ (BitVec.toNat ((s.rod c.ph).sget 3 + BitVec.ofInt 64 (32 : Int)) + 256 ≤ 4128768) ∧ (BitVec.toNat ((s.rod c.ph).sget 3 + BitVec.ofInt 64 (32 : Int)) % 32 = 0) ∧ (∀ (x : Nat × Nat), x ∈ (s.rod c.ph).openWrites (some AUnit.vector) → overlap x.fst x.snd (BitVec.toNat ((s.rod c.ph).sget 3 + BitVec.ofInt 64 (32 : Int))) 256 = false)) ∧
    (let s : State := { (rodAt 0x880064A700000020 [(3, 64)]).onRod 0 (fun r => { r with v := (List.range 64).map (fun n => (64 * 3 + n, BitVec.ofNat 32 (n * 0x3030301 + 1))) ++ (List.range 64).map (fun n => (64 * 4 + n, BitVec.ofNat 32 (0x3F800000 + n * 0x100000))) ++ [(64 * 6, 1), (64 * 6 + 9, 0x82)] }) with bead := (List.range 40).foldl (fun m n => Memory.write64 m (8 * n) (BitVec.ofNat 64 (n * 0x123456789ABCDE5))) [] }; let c : Ctx := cx s; let cnt : Option Nat := some 4; (s.readyOp ↑(0 : Fin 512) = some c) ∧ (c.op = RodOp.vst 3 4 (32 : Int) cnt) ∧ (BitVec.toNat ((s.rod c.ph).sget 3 + BitVec.ofInt 64 (32 : Int)) + 256 ≤ 4128768) ∧ (BitVec.toNat ((s.rod c.ph).sget 3 + BitVec.ofInt 64 (32 : Int)) % 32 = 0) ∧ (0 < 2 ^ 22 * c.ph + BitVec.toNat ((s.rod c.ph).sget 3 + BitVec.ofInt 64 (32 : Int)) ∨ 2 ^ 22 * c.ph + BitVec.toNat ((s.rod c.ph).sget 3 + BitVec.ofInt 64 (32 : Int)) + 256 ≤ 0))) :=
  ⟨by decide +kernel, by decide +kernel, by decide +kernel, by decide +kernel⟩

theorem witness_RodMatrixMultiply :
    (let s : State := { (rodAt 0xA00064AA00000000 [(3, 0), (4, 0x8000)]).onRod 0 (fun r => { r with t := (List.range 128).map (fun n => (1024 * 2 + 64 * 3 + n, BitVec.ofNat 32 (0x3F800000 + n * 0x30301))) }) with bead := memFill 0 2048 ++ memFill 0x8000 2048 }; let c : Ctx := cx s; let cnt : Option Nat := some 5; (s.readyOp ↑(0 : Fin 512) = some c) ∧ (c.op = RodOp.mma 2 0 0 0 3 4 false false cnt) ∧ (¬(false = false ∧ BitVec.toNat ((s.rod c.ph).sget 3) + operandBytes (pairW 0 0) (if 0 = 6 then 32 else 256) 64 > 2 ^ 22 ∨ BitVec.toNat ((s.rod c.ph).sget 4) + operandBytes (pairA 0 0) (if 0 = 6 then 32 else 256) 16 > 2 ^ 22)) ∧ (¬(false = false ∧ BitVec.toNat ((s.rod c.ph).sget 3) % 1024 ≠ 0 ∨ BitVec.toNat ((s.rod c.ph).sget 4) % 1024 ≠ 0)) ∧ (false = true → ∃ x, (s.rod c.ph).latch = some x ∧ x.pair = 0 ∧ x.ws = 0 ∧ x.as = 0) ∧ (¬(false = false ∧ s.beadRangeBad c.ph (BitVec.toNat ((s.rod c.ph).sget 3)) (operandBytes (pairW 0 0) (if 0 = 6 then 32 else 256) 64) = true ∨ s.beadRangeBad c.ph (BitVec.toNat ((s.rod c.ph).sget 4)) (operandBytes (pairA 0 0) (if 0 = 6 then 32 else 256) 16) = true))) ∧
    ((let s : State := { (rodAt 0xA00064AA00000000 [(3, 0), (4, 0x3FFC00)]).onRod 0 (fun r => { r with t := (List.range 128).map (fun n => (1024 * 2 + 64 * 3 + n, BitVec.ofNat 32 (0x3F800000 + n * 0x30301))) }) with bead := memFill 0 2048 ++ memFill 0x8000 2048 }; let c : Ctx := cx s; let cnt : Option Nat := some 5; (s.readyOp ↑(0 : Fin 512) = some c) ∧ (c.op = RodOp.mma 2 0 0 0 3 4 false false cnt) ∧ (false = false ∧ BitVec.toNat ((s.rod c.ph).sget 3) + operandBytes (pairW 0 0) (if 0 = 6 then 32 else 256) 64 > 2 ^ 22 ∨ BitVec.toNat ((s.rod c.ph).sget 4) + operandBytes (pairA 0 0) (if 0 = 6 then 32 else 256) 16 > 2 ^ 22)) ∧
    (let s : State := { (rodAt 0xA00064AA00000000 [(3, 8), (4, 0x8000)]).onRod 0 (fun r => { r with t := (List.range 128).map (fun n => (1024 * 2 + 64 * 3 + n, BitVec.ofNat 32 (0x3F800000 + n * 0x30301))) }) with bead := memFill 0 2048 ++ memFill 0x8000 2048 }; let c : Ctx := cx s; let cnt : Option Nat := some 5; (s.readyOp ↑(0 : Fin 512) = some c) ∧ (c.op = RodOp.mma 2 0 0 0 3 4 false false cnt) ∧ (¬(false = false ∧ BitVec.toNat ((s.rod c.ph).sget 3) + operandBytes (pairW 0 0) (if 0 = 6 then 32 else 256) 64 > 2 ^ 22 ∨ BitVec.toNat ((s.rod c.ph).sget 4) + operandBytes (pairA 0 0) (if 0 = 6 then 32 else 256) 16 > 2 ^ 22)) ∧ (false = false ∧ BitVec.toNat ((s.rod c.ph).sget 3) % 1024 ≠ 0 ∨ BitVec.toNat ((s.rod c.ph).sget 4) % 1024 ≠ 0))) ∧
    (let s : State := { (rodAt 0xA00004AA0C000000 [(3, 0), (4, 0x8000)]).onRod 0 (fun r => { r with t := (List.range 128).map (fun n => (1024 * 2 + 64 * 3 + n, BitVec.ofNat 32 (0x3F800000 + n * 0x30301))), latch := some ⟨7, 0, 0, (List.range 300).map (BitVec.ofNat 8)⟩ }) with bead := memFill 0 2048 ++ memFill 0x8000 2048 }; let c : Ctx := cx s; let cnt : Option Nat := some 5; (s.readyOp ↑(0 : Fin 512) = some c) ∧ (c.op = RodOp.mma 2 0 0 0 0 4 true true cnt) ∧ (¬(true = false ∧ BitVec.toNat ((s.rod c.ph).sget 0) + operandBytes (pairW 0 0) (if 0 = 6 then 32 else 256) 64 > 2 ^ 22 ∨ BitVec.toNat ((s.rod c.ph).sget 4) + operandBytes (pairA 0 0) (if 0 = 6 then 32 else 256) 16 > 2 ^ 22)) ∧ (¬(true = false ∧ BitVec.toNat ((s.rod c.ph).sget 0) % 1024 ≠ 0 ∨ BitVec.toNat ((s.rod c.ph).sget 4) % 1024 ≠ 0)) ∧ (true = true) ∧ (¬∃ x, (s.rod c.ph).latch = some x ∧ x.pair = 0 ∧ x.ws = 0 ∧ x.as = 0)) ∧
    (let s : State := { (rodAt 0xA00064AA00000000 [(3, 0), (4, 0x8000)]).onRod 0 (fun r => { r with t := (List.range 128).map (fun n => (1024 * 2 + 64 * 3 + n, BitVec.ofNat 32 (0x3F800000 + n * 0x30301))) }) with bead := memFill 0 2048 ++ memFill 0x8000 2048, beadPoison := [(4096, true)] }; let c : Ctx := cx s; let cnt : Option Nat := some 5; (s.readyOp ↑(0 : Fin 512) = some c) ∧ (c.op = RodOp.mma 2 0 0 0 3 4 false false cnt) ∧ (¬(false = false ∧ BitVec.toNat ((s.rod c.ph).sget 3) + operandBytes (pairW 0 0) (if 0 = 6 then 32 else 256) 64 > 2 ^ 22 ∨ BitVec.toNat ((s.rod c.ph).sget 4) + operandBytes (pairA 0 0) (if 0 = 6 then 32 else 256) 16 > 2 ^ 22)) ∧ (¬(false = false ∧ BitVec.toNat ((s.rod c.ph).sget 3) % 1024 ≠ 0 ∨ BitVec.toNat ((s.rod c.ph).sget 4) % 1024 ≠ 0)) ∧ (false = true → ∃ x, (s.rod c.ph).latch = some x ∧ x.pair = 0 ∧ x.ws = 0 ∧ x.as = 0) ∧ (false = false ∧ s.beadRangeBad c.ph (BitVec.toNat ((s.rod c.ph).sget 3)) (operandBytes (pairW 0 0) (if 0 = 6 then 32 else 256) 64) = true ∨ s.beadRangeBad c.ph (BitVec.toNat ((s.rod c.ph).sget 4)) (operandBytes (pairA 0 0) (if 0 = 6 then 32 else 256) 16) = true)) :=
  ⟨by decide +kernel, by decide +kernel, by decide +kernel, by decide +kernel⟩

theorem witness_CarryMapLoads :
    (let s : State := { (rodAt 0xB00060A800000000 [(3, 0x400)]).onRod 0 (fun r => { r with t := [(1024 * 2 + 64 * 3 + 1, 0x3F800000), (1024 * 2 + 64 * 5 + 1, 0x40000000), (1024 * 2 + 64 * 4, 0x40400000)] }) with bead := (List.flatten [([(1024, 2), (1026, 4), (1028, 64), (1036, 5), (1038, 153), (1065, 16), (1068, 7), (1071, 128), (1081, 32), (1084, 7), (1087, 128), (1097, 48), (1100, 7), (1103, 128), (4096, 127), (4097, 127), (4099, 1), (4100, 4), (4102, 64), (4106, 128), (4107, 63)] : Memory), ([(8192, 127), (8193, 127), (8195, 2), (8196, 4), (8202, 128), (8203, 63), (8208, 4), (8210, 2)] : Memory), ([(12291, 3), (12292, 4), (12294, 64)] : Memory)]) }; let c : Ctx := cx s; let cnt : Option Nat := some 5; (¬∃ e, e ∈ List.filter (fun e => BitVec.getLsbD e 63) (List.drop 2 (s.bead.readWords (2 ^ 22 * c.ph + BitVec.toNat ((s.rod c.ph).sget 3)) 18)) ∧ bits e 21 0 + 32 > 2 ^ 22) ∧ (¬∃ e, e ∈ List.filter (fun e => BitVec.getLsbD e 63) (List.drop 2 (s.bead.readWords (2 ^ 22 * c.ph + BitVec.toNat ((s.rod c.ph).sget 3)) 18)) ∧ bits e 21 0 % 32 ≠ 0) ∧ (s.readyOp ↑(0 : Fin 512) = some c) ∧ (c.op = RodOp.carry 0 0 3 0 cnt) ∧ (BitVec.toNat ((s.rod c.ph).sget 3) + 144 ≤ 2 ^ 22) ∧ (BitVec.toNat ((s.rod c.ph).sget 3) % 32 = 0) ∧ (s.beadRangeBad c.ph (BitVec.toNat ((s.rod c.ph).sget 3)) 144 = false) ∧ (mapOk (s.bead.readWords (2 ^ 22 * c.ph + BitVec.toNat ((s.rod c.ph).sget 3)) 18) = true)) ∧
    (let s : State := { (rodAt 0xB00060A800000000 [(3, 0x400)]).onRod 0 (fun r => { r with t := [(1024 * 2 + 64 * 3 + 1, 0x3F800000), (1024 * 2 + 64 * 5 + 1, 0x40000000), (1024 * 2 + 64 * 4, 0x40400000)] }) with bead := (List.flatten [([(1024, 2), (1026, 4), (1028, 64), (1030, 1), (1036, 5), (1038, 153), (1065, 16), (1068, 7), (1071, 128), (1081, 32), (1084, 7), (1087, 128), (1097, 48), (1100, 7), (1103, 128), (4096, 127), (4097, 127), (4099, 1), (4100, 4), (4102, 64), (4106, 128), (4107, 63)] : Memory), ([(8192, 127), (8193, 127), (8195, 2), (8196, 4), (8202, 128), (8203, 63), (8208, 4), (8210, 2)] : Memory), ([(12291, 3), (12292, 4), (12294, 64)] : Memory)]) }; let c : Ctx := cx s; let cnt : Option Nat := some 5; (¬∃ e, e ∈ List.filter (fun e => BitVec.getLsbD e 63) (List.drop 2 (s.bead.readWords (2 ^ 22 * c.ph + BitVec.toNat ((s.rod c.ph).sget 3)) 18)) ∧ bits e 21 0 + 32 > 2 ^ 22) ∧ (¬∃ e, e ∈ List.filter (fun e => BitVec.getLsbD e 63) (List.drop 2 (s.bead.readWords (2 ^ 22 * c.ph + BitVec.toNat ((s.rod c.ph).sget 3)) 18)) ∧ bits e 21 0 % 32 ≠ 0) ∧ (s.readyOp ↑(0 : Fin 512) = some c) ∧ (c.op = RodOp.carry 0 0 3 0 cnt) ∧ (BitVec.toNat ((s.rod c.ph).sget 3) + 144 ≤ 2 ^ 22) ∧ (BitVec.toNat ((s.rod c.ph).sget 3) % 32 = 0) ∧ (s.beadRangeBad c.ph (BitVec.toNat ((s.rod c.ph).sget 3)) 144 = false) ∧ (mapOk (s.bead.readWords (2 ^ 22 * c.ph + BitVec.toNat ((s.rod c.ph).sget 3)) 18) = false)) :=
  ⟨⟨none_in (by decide +kernel), none_in (by decide +kernel), by decide +kernel⟩, ⟨none_in (by decide +kernel), none_in (by decide +kernel), by decide +kernel⟩⟩

theorem witness_CarryMapLoads_part2 :
    (let s : State := { (rodAt 0xB00060A800000000 [(3, 0x400)]).onRod 0 (fun r => { r with t := [(1024 * 2 + 64 * 3 + 1, 0x3F800000), (1024 * 2 + 64 * 5 + 1, 0x40000000), (1024 * 2 + 64 * 4, 0x40400000)] }) with bead := (List.flatten [([(1024, 2), (1026, 4), (1028, 64), (1036, 5), (1038, 153), (1040, 240), (1041, 255), (1042, 63), (1044, 7), (1047, 128), (1065, 16), (1068, 7), (1071, 128), (1081, 32), (1084, 7), (1087, 128), (1097, 48), (1100, 7), (1103, 128), (4096, 127), (4097, 127), (4099, 1), (4100, 4), (4102, 64), (4106, 128), (4107, 63)] : Memory), ([(8192, 127), (8193, 127), (8195, 2), (8196, 4), (8202, 128), (8203, 63), (8208, 4), (8210, 2)] : Memory), ([(12291, 3), (12292, 4), (12294, 64)] : Memory)]) }; let c : Ctx := cx s; let cnt : Option Nat := some 5; (∃ e, e ∈ List.filter (fun e => BitVec.getLsbD e 63) (List.drop 2 (s.bead.readWords (2 ^ 22 * c.ph + BitVec.toNat ((s.rod c.ph).sget 3)) 18)) ∧ bits e 21 0 + 32 > 2 ^ 22) ∧ (s.readyOp ↑(0 : Fin 512) = some c) ∧ (c.op = RodOp.carry 0 0 3 0 cnt) ∧ (BitVec.toNat ((s.rod c.ph).sget 3) + 144 ≤ 2 ^ 22) ∧ (BitVec.toNat ((s.rod c.ph).sget 3) % 32 = 0) ∧ (s.beadRangeBad c.ph (BitVec.toNat ((s.rod c.ph).sget 3)) 144 = false)) ∧
    (let s : State := { (rodAt 0xB00060A800000000 [(3, 0x400)]).onRod 0 (fun r => { r with t := [(1024 * 2 + 64 * 3 + 1, 0x3F800000), (1024 * 2 + 64 * 5 + 1, 0x40000000), (1024 * 2 + 64 * 4, 0x40400000)] }) with bead := (List.flatten [([(1024, 2), (1026, 4), (1028, 64), (1036, 5), (1038, 153), (1040, 8), (1041, 16), (1044, 7), (1047, 128), (1065, 16), (1068, 7), (1071, 128), (1081, 32), (1084, 7), (1087, 128), (1097, 48), (1100, 7), (1103, 128), (4096, 127), (4097, 127), (4099, 1), (4100, 4), (4102, 64), (4106, 128), (4107, 63)] : Memory), ([(8192, 127), (8193, 127), (8195, 2), (8196, 4), (8202, 128), (8203, 63), (8208, 4), (8210, 2)] : Memory), ([(12291, 3), (12292, 4), (12294, 64)] : Memory)]) }; let c : Ctx := cx s; let cnt : Option Nat := some 5; (¬∃ e, e ∈ List.filter (fun e => BitVec.getLsbD e 63) (List.drop 2 (s.bead.readWords (2 ^ 22 * c.ph + BitVec.toNat ((s.rod c.ph).sget 3)) 18)) ∧ bits e 21 0 + 32 > 2 ^ 22) ∧ (∃ e, e ∈ List.filter (fun e => BitVec.getLsbD e 63) (List.drop 2 (s.bead.readWords (2 ^ 22 * c.ph + BitVec.toNat ((s.rod c.ph).sget 3)) 18)) ∧ bits e 21 0 % 32 ≠ 0) ∧ (s.readyOp ↑(0 : Fin 512) = some c) ∧ (c.op = RodOp.carry 0 0 3 0 cnt) ∧ (BitVec.toNat ((s.rod c.ph).sget 3) + 144 ≤ 2 ^ 22) ∧ (BitVec.toNat ((s.rod c.ph).sget 3) % 32 = 0) ∧ (s.beadRangeBad c.ph (BitVec.toNat ((s.rod c.ph).sget 3)) 144 = false)) :=
  ⟨⟨some_in (by decide +kernel), by decide +kernel⟩, ⟨none_in (by decide +kernel), some_in (by decide +kernel), by decide +kernel⟩⟩

theorem witness_CarryMapLoads_part3 :
    (let s : State := { (rodAt 0xB00060A800000000 [(3, 0x400)]).onRod 0 (fun r => { r with t := [(1024 * 2 + 64 * 3 + 1, 0x3F800000), (1024 * 2 + 64 * 5 + 1, 0x40000000), (1024 * 2 + 64 * 4, 0x40400000)] }) with bead := (List.flatten [([(1024, 2), (1026, 4), (1028, 64), (1036, 5), (1038, 153), (1065, 16), (1068, 7), (1071, 128), (1081, 32), (1084, 7), (1087, 128), (1097, 48), (1100, 7), (1103, 128), (4096, 127), (4097, 127), (4099, 1), (4100, 4), (4102, 64), (4106, 128), (4107, 63)] : Memory), ([(8192, 127), (8193, 127), (8195, 2), (8196, 4), (8202, 128), (8203, 63), (8208, 4), (8210, 2)] : Memory), ([(12291, 3), (12292, 4), (12294, 64)] : Memory)]) }; let c : Ctx := cx s; let cnt : Option Nat := some 5; (¬∃ e, e ∈ List.filter (fun e => BitVec.getLsbD e 63) (List.drop 2 (s.bead.readWords (2 ^ 22 * c.ph + BitVec.toNat ((s.rod c.ph).sget 3)) 18)) ∧ bits e 21 0 + 32 > 2 ^ 22) ∧ (¬∃ e, e ∈ List.filter (fun e => BitVec.getLsbD e 63) (List.drop 2 (s.bead.readWords (2 ^ 22 * c.ph + BitVec.toNat ((s.rod c.ph).sget 3)) 18)) ∧ bits e 21 0 % 32 ≠ 0) ∧ (s.readyOp ↑(0 : Fin 512) = some c) ∧ (c.op = RodOp.carry 0 0 3 0 cnt) ∧ (BitVec.toNat ((s.rod c.ph).sget 3) + 144 ≤ 2 ^ 22) ∧ (BitVec.toNat ((s.rod c.ph).sget 3) % 32 = 0) ∧ (s.beadRangeBad c.ph (BitVec.toNat ((s.rod c.ph).sget 3)) 144 = false) ∧ (1 ≠ c.ph)) ∧
    (let s : State := { (rodAt 0xB00060A800000000 [(3, 0x400)]).onRod 0 (fun r => { r with t := [(1024 * 2 + 64 * 3 + 1, 0x3F800000), (1024 * 2 + 64 * 5 + 1, 0x40000000), (1024 * 2 + 64 * 4, 0x40400000)] }) with bead := (List.flatten [([(1024, 2), (1026, 4), (1028, 64), (1036, 5), (1038, 153), (1065, 16), (1068, 7), (1071, 128), (1081, 32), (1084, 7), (1087, 128), (1097, 48), (1100, 7), (1103, 128), (4096, 127), (4097, 127), (4099, 1), (4100, 4), (4102, 64), (4106, 128), (4107, 63)] : Memory), ([(8192, 127), (8193, 127), (8195, 2), (8196, 4), (8202, 128), (8203, 63), (8208, 4), (8210, 2)] : Memory), ([(12291, 3), (12292, 4), (12294, 64)] : Memory)]) }; let c : Ctx := cx s; let cnt : Option Nat := some 5; (¬∃ e, e ∈ List.filter (fun e => BitVec.getLsbD e 63) (List.drop 2 (s.bead.readWords (2 ^ 22 * c.ph + BitVec.toNat ((s.rod c.ph).sget 3)) 18)) ∧ bits e 21 0 + 32 > 2 ^ 22) ∧ (¬∃ e, e ∈ List.filter (fun e => BitVec.getLsbD e 63) (List.drop 2 (s.bead.readWords (2 ^ 22 * c.ph + BitVec.toNat ((s.rod c.ph).sget 3)) 18)) ∧ bits e 21 0 % 32 ≠ 0) ∧ (s.readyOp ↑(0 : Fin 512) = some c) ∧ (c.op = RodOp.carry 0 0 3 0 cnt) ∧ (BitVec.toNat ((s.rod c.ph).sget 3) + 144 ≤ 2 ^ 22) ∧ (BitVec.toNat ((s.rod c.ph).sget 3) % 32 = 0) ∧ (s.beadRangeBad c.ph (BitVec.toNat ((s.rod c.ph).sget 3)) 144 = false) ∧ (0 < 2 ^ 22 * c.ph + 4129024 ∨ 2 ^ 22 * c.ph + 4129088 ≤ 0) ∧ (∀ (r : Nat × Nat), r ∈ [] → 0 < 2 ^ 22 * c.ph + r.fst ∨ 2 ^ 22 * c.ph + r.fst + r.snd ≤ 0)) ∧
    ((let s : State := { (rodAt 0xB00060A800000000 [(3, 0x3FFFF0)]).onRod 0 (fun r => { r with t := [(1024 * 2 + 64 * 3 + 1, 0x3F800000), (1024 * 2 + 64 * 5 + 1, 0x40000000), (1024 * 2 + 64 * 4, 0x40400000)] }) with bead := (List.flatten [([(1024, 2), (1026, 4), (1028, 64), (1036, 5), (1038, 153), (1065, 16), (1068, 7), (1071, 128), (1081, 32), (1084, 7), (1087, 128), (1097, 48), (1100, 7), (1103, 128), (4096, 127), (4097, 127), (4099, 1), (4100, 4), (4102, 64), (4106, 128), (4107, 63)] : Memory), ([(8192, 127), (8193, 127), (8195, 2), (8196, 4), (8202, 128), (8203, 63), (8208, 4), (8210, 2)] : Memory), ([(12291, 3), (12292, 4), (12294, 64)] : Memory)]) }; let c : Ctx := cx s; let cnt : Option Nat := some 5; (s.readyOp ↑(0 : Fin 512) = some c) ∧ (c.op = RodOp.carry 0 0 3 0 cnt) ∧ (BitVec.toNat ((s.rod c.ph).sget 3) + 144 > 2 ^ 22)) ∧
    (let s : State := { (rodAt 0xB00060A800000000 [(3, 0x408)]).onRod 0 (fun r => { r with t := [(1024 * 2 + 64 * 3 + 1, 0x3F800000), (1024 * 2 + 64 * 5 + 1, 0x40000000), (1024 * 2 + 64 * 4, 0x40400000)] }) with bead := (List.flatten [([(1024, 2), (1026, 4), (1028, 64), (1036, 5), (1038, 153), (1065, 16), (1068, 7), (1071, 128), (1081, 32), (1084, 7), (1087, 128), (1097, 48), (1100, 7), (1103, 128), (4096, 127), (4097, 127), (4099, 1), (4100, 4), (4102, 64), (4106, 128), (4107, 63)] : Memory), ([(8192, 127), (8193, 127), (8195, 2), (8196, 4), (8202, 128), (8203, 63), (8208, 4), (8210, 2)] : Memory), ([(12291, 3), (12292, 4), (12294, 64)] : Memory)]) }; let c : Ctx := cx s; let cnt : Option Nat := some 5; (s.readyOp ↑(0 : Fin 512) = some c) ∧ (c.op = RodOp.carry 0 0 3 0 cnt) ∧ (BitVec.toNat ((s.rod c.ph).sget 3) + 144 ≤ 2 ^ 22) ∧ (BitVec.toNat ((s.rod c.ph).sget 3) % 32 ≠ 0))) :=
  ⟨⟨none_in (by decide +kernel), none_in (by decide +kernel), by decide +kernel⟩, ⟨none_in (by decide +kernel), none_in (by decide +kernel), by decide +kernel⟩, by decide +kernel⟩

theorem witness_CarryMapLoads_part4 :
    (let s : State := { (rodAt 0xB00060A800000000 [(3, 0x400)]).onRod 0 (fun r => { r with t := [(1024 * 2 + 64 * 3 + 1, 0x3F800000), (1024 * 2 + 64 * 5 + 1, 0x40000000), (1024 * 2 + 64 * 4, 0x40400000)] }) with bead := (List.flatten [([(1024, 2), (1026, 4), (1028, 64), (1036, 5), (1038, 153), (1065, 16), (1068, 7), (1071, 128), (1081, 32), (1084, 7), (1087, 128), (1097, 48), (1100, 7), (1103, 128), (4096, 127), (4097, 127), (4099, 1), (4100, 4), (4102, 64), (4106, 128), (4107, 63)] : Memory), ([(8192, 127), (8193, 127), (8195, 2), (8196, 4), (8202, 128), (8203, 63), (8208, 4), (8210, 2)] : Memory), ([(12291, 3), (12292, 4), (12294, 64)] : Memory)]), beadPoison := [(129, true)] }; let c : Ctx := cx s; let cnt : Option Nat := some 5; (s.readyOp ↑(0 : Fin 512) = some c) ∧ (c.op = RodOp.carry 0 0 3 0 cnt) ∧ (BitVec.toNat ((s.rod c.ph).sget 3) + 144 ≤ 2 ^ 22) ∧ (BitVec.toNat ((s.rod c.ph).sget 3) % 32 = 0) ∧ (s.beadRangeBad c.ph (BitVec.toNat ((s.rod c.ph).sget 3)) 144 = true)) :=
  by decide +kernel

theorem witness_CarryAccumulators :
    (let s : State := { (rodAt 0xB00060A888000000 [(3, 32768), (4, 0)]).onRod 0 (fun r => { r with t := [(1024 * 2 + 64 * 3 + 1, 0x3F800000), (1024 * 2 + 64 * 5 + 1, 0x40000000), (1024 * 2 + 64 * 4, 0x40400000)], rowMap := [0x4000040002, 0x99000500000000, 0x0, 0x0, 0x0, 0x8000000700001000, 0x0, 0x8000000700002000, 0x0, 0x8000000700003000, 0x0, 0x0, 0x0, 0x0, 0x0, 0x0, 0x0, 0x0] }) with bead := (List.flatten [([(1024, 2), (1026, 4), (1028, 64), (1036, 5), (1038, 153), (1065, 16), (1068, 7), (1071, 128), (1081, 32), (1084, 7), (1087, 128), (1097, 48), (1100, 7), (1103, 128), (4096, 127), (4097, 127), (4099, 1), (4100, 4), (4102, 64), (4106, 128), (4107, 63)] : Memory), ([(8192, 127), (8193, 127), (8195, 2), (8196, 4), (8202, 128), (8203, 63), (8208, 4), (8210, 2)] : Memory), ([(12291, 3), (12292, 4), (12294, 64)] : Memory)]) }; let c : Ctx := cx s; let cnt : Option Nat := some 5; (s.readyOp ↑(0 : Fin 512) = some c) ∧ (c.op = RodOp.carry 4 2 3 0 cnt) ∧ (2 < 8) ∧ (4 = 4) ∧ (s.carryCheck c.ph ([(BitVec.toNat ((s.rod c.ph).sget 3), 4096)] ++ List.map (fun r => (r.blk, 32)) (List.filter (fun r => decide (r.hdr ≠ [])) (s.carryRows c.ph))) [] (decide (BitVec.toNat ((s.rod c.ph).sget 3) % 32 ≠ 0)) = 0) ∧ (2 ≠ c.ph)) ∧
    (let s : State := { (rodAt 0xB00064A868000000 [(3, 32768), (4, 0)]).onRod 0 (fun r => { r with t := [(1024 * 2 + 64 * 3 + 1, 0x3F800000), (1024 * 2 + 64 * 5 + 1, 0x40000000), (1024 * 2 + 64 * 4, 0x40400000)], rowMap := [0x4000040002, 0x99000500000000, 0x0, 0x0, 0x0, 0x8000000700001000, 0x0, 0x8000000700002000, 0x0, 0x8000000700003000, 0x0, 0x0, 0x0, 0x0, 0x0, 0x0, 0x0, 0x0] }) with bead := (List.flatten [([(1024, 2), (1026, 4), (1028, 64), (1036, 5), (1038, 153), (1065, 16), (1068, 7), (1071, 128), (1081, 32), (1084, 7), (1087, 128), (1097, 48), (1100, 7), (1103, 128), (4096, 127), (4097, 127), (4099, 1), (4100, 4), (4102, 64), (4106, 128), (4107, 63)] : Memory), ([(8192, 127), (8193, 127), (8195, 2), (8196, 4), (8202, 128), (8203, 63), (8208, 4), (8210, 2)] : Memory), ([(12291, 3), (12292, 4), (12294, 64)] : Memory)]) }; let c : Ctx := cx s; let cnt : Option Nat := some 5; (s.readyOp ↑(0 : Fin 512) = some c) ∧ (c.op = RodOp.carry 3 2 3 4 cnt) ∧ (2 < 8) ∧ (3 = 3) ∧ (s.carryCheck c.ph (carryReads (s.rod c.ph).rowMap (s.carryRows c.ph) RowClass.plain [(BitVec.toNat ((s.rod c.ph).sget 3), 16384)]) [] (decide (BitVec.toNat ((s.rod c.ph).sget 3) % 32 ≠ 0) || decide (BitVec.toNat ((s.rod c.ph).sget 4) % 64 ≠ 0) || !(s.rod c.ph).rowMap.isEmpty && decide (64 * mapOut (s.rod c.ph).rowMap ≤ BitVec.toNat ((s.rod c.ph).sget 4))) = 0) ∧ (2 ≠ c.ph)) ∧
    ((let s : State := { (rodAt 0xB00060A888000000 [(3, 32776), (4, 0)]).onRod 0 (fun r => { r with t := [(1024 * 2 + 64 * 3 + 1, 0x3F800000), (1024 * 2 + 64 * 5 + 1, 0x40000000), (1024 * 2 + 64 * 4, 0x40400000)], rowMap := [0x4000040002, 0x99000500000000, 0x0, 0x0, 0x0, 0x8000000700001000, 0x0, 0x8000000700002000, 0x0, 0x8000000700003000, 0x0, 0x0, 0x0, 0x0, 0x0, 0x0, 0x0, 0x0] }) with bead := (List.flatten [([(1024, 2), (1026, 4), (1028, 64), (1036, 5), (1038, 153), (1065, 16), (1068, 7), (1071, 128), (1081, 32), (1084, 7), (1087, 128), (1097, 48), (1100, 7), (1103, 128), (4096, 127), (4097, 127), (4099, 1), (4100, 4), (4102, 64), (4106, 128), (4107, 63)] : Memory), ([(8192, 127), (8193, 127), (8195, 2), (8196, 4), (8202, 128), (8203, 63), (8208, 4), (8210, 2)] : Memory), ([(12291, 3), (12292, 4), (12294, 64)] : Memory)]) }; let c : Ctx := cx s; let cnt : Option Nat := some 5; (s.readyOp ↑(0 : Fin 512) = some c) ∧ (c.op = RodOp.carry 4 2 3 0 cnt) ∧ (2 < 8) ∧ (4 = 4) ∧ (s.carryCheck c.ph ([(BitVec.toNat ((s.rod c.ph).sget 3), 4096)] ++ List.map (fun r => (r.blk, 32)) (List.filter (fun r => decide (r.hdr ≠ [])) (s.carryRows c.ph))) [] (decide (BitVec.toNat ((s.rod c.ph).sget 3) % 32 ≠ 0)) ≠ 0)) ∧
    (let s : State := { (rodAt 0xB00064A868000000 [(3, 32776), (4, 0)]).onRod 0 (fun r => { r with t := [(1024 * 2 + 64 * 3 + 1, 0x3F800000), (1024 * 2 + 64 * 5 + 1, 0x40000000), (1024 * 2 + 64 * 4, 0x40400000)], rowMap := [0x4000040002, 0x99000500000000, 0x0, 0x0, 0x0, 0x8000000700001000, 0x0, 0x8000000700002000, 0x0, 0x8000000700003000, 0x0, 0x0, 0x0, 0x0, 0x0, 0x0, 0x0, 0x0] }) with bead := (List.flatten [([(1024, 2), (1026, 4), (1028, 64), (1036, 5), (1038, 153), (1065, 16), (1068, 7), (1071, 128), (1081, 32), (1084, 7), (1087, 128), (1097, 48), (1100, 7), (1103, 128), (4096, 127), (4097, 127), (4099, 1), (4100, 4), (4102, 64), (4106, 128), (4107, 63)] : Memory), ([(8192, 127), (8193, 127), (8195, 2), (8196, 4), (8202, 128), (8203, 63), (8208, 4), (8210, 2)] : Memory), ([(12291, 3), (12292, 4), (12294, 64)] : Memory)]) }; let c : Ctx := cx s; let cnt : Option Nat := some 5; (s.readyOp ↑(0 : Fin 512) = some c) ∧ (c.op = RodOp.carry 3 2 3 4 cnt) ∧ (2 < 8) ∧ (3 = 3) ∧ (s.carryCheck c.ph (carryReads (s.rod c.ph).rowMap (s.carryRows c.ph) RowClass.plain [(BitVec.toNat ((s.rod c.ph).sget 3), 16384)]) [] (decide (BitVec.toNat ((s.rod c.ph).sget 3) % 32 ≠ 0) || decide (BitVec.toNat ((s.rod c.ph).sget 4) % 64 ≠ 0) || !(s.rod c.ph).rowMap.isEmpty && decide (64 * mapOut (s.rod c.ph).rowMap ≤ BitVec.toNat ((s.rod c.ph).sget 4))) ≠ 0))) ∧
    (let s : State := { (rodAt 0xB00060A888000000 [(3, 32768), (4, 0)]).onRod 0 (fun r => { r with t := [(1024 * 2 + 64 * 3 + 1, 0x3F800000), (1024 * 2 + 64 * 5 + 1, 0x40000000), (1024 * 2 + 64 * 4, 0x40400000)], rowMap := [0x4000040002, 0x99000500000000, 0x0, 0x0, 0x0, 0x8000000700001000, 0x0, 0x8000000700002000, 0x0, 0x8000000700003000, 0x0, 0x0, 0x0, 0x0, 0x0, 0x0, 0x0, 0x0] }) with bead := (List.flatten [([(1024, 2), (1026, 4), (1028, 64), (1036, 5), (1038, 153), (1065, 16), (1068, 7), (1071, 128), (1081, 32), (1084, 7), (1087, 128), (1097, 48), (1100, 7), (1103, 128), (4096, 127), (4097, 127), (4099, 1), (4100, 4), (4102, 64), (4106, 128), (4107, 63)] : Memory), ([(8192, 127), (8193, 127), (8195, 2), (8196, 4), (8202, 128), (8203, 63), (8208, 4), (8210, 2)] : Memory), ([(12291, 3), (12292, 4), (12294, 64)] : Memory)]) }; let c : Ctx := cx s; let cnt : Option Nat := some 5; (s.readyOp ↑(0 : Fin 512) = some c) ∧ (c.op = RodOp.carry 4 2 3 0 cnt) ∧ (2 < 8) ∧ (4 = 4) ∧ (s.carryCheck c.ph ([(BitVec.toNat ((s.rod c.ph).sget 3), 4096)] ++ List.map (fun r => (r.blk, 32)) (List.filter (fun r => decide (r.hdr ≠ [])) (s.carryRows c.ph))) [] (decide (BitVec.toNat ((s.rod c.ph).sget 3) % 32 ≠ 0)) = 0) ∧ (0 < 8) ∧ (3 < 16) ∧ (1 < 64)) ∧
    (let s : State := { (rodAt 0xB00060A888000000 [(3, 32768), (4, 0)]).onRod 0 (fun r => { r with t := [(1024 * 2 + 64 * 3 + 1, 0x3F800000), (1024 * 2 + 64 * 5 + 1, 0x40000000), (1024 * 2 + 64 * 4, 0x40400000)], rowMap := [0x4000040002, 0x99000500000000, 0x0, 0x0, 0x0, 0x8000000700001000, 0x0, 0x8000000700002000, 0x0, 0x8000000700003000, 0x0, 0x0, 0x0, 0x0, 0x0, 0x0, 0x0, 0x0] }) with bead := (List.flatten [([(1024, 2), (1026, 4), (1028, 64), (1036, 5), (1038, 153), (1065, 16), (1068, 7), (1071, 128), (1081, 32), (1084, 7), (1087, 128), (1097, 48), (1100, 7), (1103, 128), (4096, 127), (4097, 127), (4099, 1), (4100, 4), (4102, 64), (4106, 128), (4107, 63)] : Memory), ([(8192, 127), (8193, 127), (8195, 2), (8196, 4), (8202, 128), (8203, 63), (8208, 4), (8210, 2)] : Memory), ([(12291, 3), (12292, 4), (12294, 64)] : Memory)]) }; let c : Ctx := cx s; let cnt : Option Nat := some 5; (s.readyOp ↑(0 : Fin 512) = some c) ∧ (c.op = RodOp.carry 4 2 3 0 cnt) ∧ (2 < 8) ∧ (4 = 4) ∧ (s.carryCheck c.ph ([(BitVec.toNat ((s.rod c.ph).sget 3), 4096)] ++ List.map (fun r => (r.blk, 32)) (List.filter (fun r => decide (r.hdr ≠ [])) (s.carryRows c.ph))) [] (decide (BitVec.toNat ((s.rod c.ph).sget 3) % 32 ≠ 0)) = 0) ∧ (0 < 2 ^ 22 * c.ph + 4129024 ∨ 2 ^ 22 * c.ph + 4129088 ≤ 0) ∧ (∀ (r : Nat × Nat), r ∈ [] → 0 < 2 ^ 22 * c.ph + r.fst ∨ 2 ^ 22 * c.ph + r.fst + r.snd ≤ 0)) ∧
    (let s : State := { (rodAt 0xB00064A868000000 [(3, 32768), (4, 0)]).onRod 0 (fun r => { r with t := [(1024 * 2 + 64 * 3 + 1, 0x3F800000), (1024 * 2 + 64 * 5 + 1, 0x40000000), (1024 * 2 + 64 * 4, 0x40400000)], rowMap := [0x4000040002, 0x99000500000000, 0x0, 0x0, 0x0, 0x8000000700001000, 0x0, 0x8000000700002000, 0x0, 0x8000000700003000, 0x0, 0x0, 0x0, 0x0, 0x0, 0x0, 0x0, 0x0] }) with bead := (List.flatten [([(1024, 2), (1026, 4), (1028, 64), (1036, 5), (1038, 153), (1065, 16), (1068, 7), (1071, 128), (1081, 32), (1084, 7), (1087, 128), (1097, 48), (1100, 7), (1103, 128), (4096, 127), (4097, 127), (4099, 1), (4100, 4), (4102, 64), (4106, 128), (4107, 63)] : Memory), ([(8192, 127), (8193, 127), (8195, 2), (8196, 4), (8202, 128), (8203, 63), (8208, 4), (8210, 2)] : Memory), ([(12291, 3), (12292, 4), (12294, 64)] : Memory)]) }; let c : Ctx := cx s; let cnt : Option Nat := some 5; (s.readyOp ↑(0 : Fin 512) = some c) ∧ (c.op = RodOp.carry 3 2 3 4 cnt) ∧ (2 < 8) ∧ (3 = 3) ∧ (s.carryCheck c.ph (carryReads (s.rod c.ph).rowMap (s.carryRows c.ph) RowClass.plain [(BitVec.toNat ((s.rod c.ph).sget 3), 16384)]) [] (decide (BitVec.toNat ((s.rod c.ph).sget 3) % 32 ≠ 0) || decide (BitVec.toNat ((s.rod c.ph).sget 4) % 64 ≠ 0) || !(s.rod c.ph).rowMap.isEmpty && decide (64 * mapOut (s.rod c.ph).rowMap ≤ BitVec.toNat ((s.rod c.ph).sget 4))) = 0) ∧ (0 < 8) ∧ (3 < 16) ∧ (1 < 64)) ∧
    (let s : State := { (rodAt 0xB00064A868000000 [(3, 32768), (4, 0)]).onRod 0 (fun r => { r with t := [(1024 * 2 + 64 * 3 + 1, 0x3F800000), (1024 * 2 + 64 * 5 + 1, 0x40000000), (1024 * 2 + 64 * 4, 0x40400000)], rowMap := [0x4000040002, 0x99000500000000, 0x0, 0x0, 0x0, 0x8000000700001000, 0x0, 0x8000000700002000, 0x0, 0x8000000700003000, 0x0, 0x0, 0x0, 0x0, 0x0, 0x0, 0x0, 0x0] }) with bead := (List.flatten [([(1024, 2), (1026, 4), (1028, 64), (1036, 5), (1038, 153), (1065, 16), (1068, 7), (1071, 128), (1081, 32), (1084, 7), (1087, 128), (1097, 48), (1100, 7), (1103, 128), (4096, 127), (4097, 127), (4099, 1), (4100, 4), (4102, 64), (4106, 128), (4107, 63)] : Memory), ([(8192, 127), (8193, 127), (8195, 2), (8196, 4), (8202, 128), (8203, 63), (8208, 4), (8210, 2)] : Memory), ([(12291, 3), (12292, 4), (12294, 64)] : Memory)]) }; let c : Ctx := cx s; let cnt : Option Nat := some 5; (s.readyOp ↑(0 : Fin 512) = some c) ∧ (c.op = RodOp.carry 3 2 3 4 cnt) ∧ (2 < 8) ∧ (3 = 3) ∧ (s.carryCheck c.ph (carryReads (s.rod c.ph).rowMap (s.carryRows c.ph) RowClass.plain [(BitVec.toNat ((s.rod c.ph).sget 3), 16384)]) [] (decide (BitVec.toNat ((s.rod c.ph).sget 3) % 32 ≠ 0) || decide (BitVec.toNat ((s.rod c.ph).sget 4) % 64 ≠ 0) || !(s.rod c.ph).rowMap.isEmpty && decide (64 * mapOut (s.rod c.ph).rowMap ≤ BitVec.toNat ((s.rod c.ph).sget 4))) = 0) ∧ (0 < 2 ^ 22 * c.ph + 4129024 ∨ 2 ^ 22 * c.ph + 4129088 ≤ 0) ∧ (∀ (r : Nat × Nat), r ∈ [] → 0 < 2 ^ 22 * c.ph + r.fst ∨ 2 ^ 22 * c.ph + r.fst + r.snd ≤ 0)) :=
  ⟨by decide +kernel, by decide +kernel, by decide +kernel, by decide +kernel, by decide +kernel, by decide +kernel, by decide +kernel⟩

theorem witness_CarryOperandsWritten :
    (let s : State := { (rodAt 0xB00064A820000000 [(3, 0x8000), (4, 0x10000)]).onRod 0 (fun r => { r with t := [(1024 * 2 + 64 * 3 + 1, 0x3F800000), (1024 * 2 + 64 * 5 + 1, 0x40000000), (1024 * 2 + 64 * 4, 0x40400000)] }) with bead := (List.flatten [([(1024, 2), (1026, 4), (1028, 64), (1036, 5), (1038, 153), (1065, 16), (1068, 7), (1071, 128), (1081, 32), (1084, 7), (1087, 128), (1097, 48), (1100, 7), (1103, 128), (4096, 127), (4097, 127), (4099, 1), (4100, 4), (4102, 64), (4106, 128), (4107, 63)] : Memory), ([(8192, 127), (8193, 127), (8195, 2), (8196, 4), (8202, 128), (8203, 63), (8208, 4), (8210, 2)] : Memory), ([(12291, 3), (12292, 4), (12294, 64)] : Memory)]) }; let c : Ctx := cx s; let cnt : Option Nat := some 5; let k : Nat := 3; (s.readyOp ↑(0 : Fin 512) = some c) ∧ (c.op = RodOp.carry 1 0 3 4 cnt) ∧ (1 = 1) ∧ ((s.rod c.ph).rowMap = [] ∨ mapOk (s.rod c.ph).rowMap = true) ∧ (s.carryCheck c.ph (carryReads (s.rod c.ph).rowMap (s.carryRows c.ph) RowClass.basis [(BitVec.toNat ((s.rod c.ph).sget 3), 64 * mapB (s.rod c.ph).rowMap)]) ((BitVec.toNat ((s.rod c.ph).sget 4), 0) :: List.map (fun k => (BitVec.toNat ((s.rod c.ph).sget 4) + 5120 * k, 4224)) (List.range (mixOperands (mapB (s.rod c.ph).rowMap)))) (decide (BitVec.toNat ((s.rod c.ph).sget 3) % 32 ≠ 0) || decide (BitVec.toNat ((s.rod c.ph).sget 4) % 1024 ≠ 0)) = 0) ∧ (3 ≠ c.ph)) ∧
    ((let s : State := { (rodAt 0xB00064A840000000 [(3, 32768), (4, 65536)]).onRod 0 (fun r => { r with t := [(1024 * 2 + 64 * 3 + 1, 0x3F800000), (1024 * 2 + 64 * 5 + 1, 0x40000000), (1024 * 2 + 64 * 4, 0x40400000)], rowMap := [0x4000040002, 0x99000500000000, 0x0, 0x0, 0x0, 0x8000000700001000, 0x0, 0x8000000700002000, 0x0, 0x8000000700003000, 0x0, 0x0, 0x0, 0x0, 0x0, 0x0, 0x0, 0x0] }) with bead := (List.flatten [([(1024, 2), (1026, 4), (1028, 64), (1036, 5), (1038, 153), (1065, 16), (1068, 7), (1071, 128), (1081, 32), (1084, 7), (1087, 128), (1097, 48), (1100, 7), (1103, 128), (4096, 127), (4097, 127), (4099, 1), (4100, 4), (4102, 64), (4106, 128), (4107, 63)] : Memory), ([(8192, 127), (8193, 127), (8195, 2), (8196, 4), (8202, 128), (8203, 63), (8208, 4), (8210, 2)] : Memory), ([(12291, 3), (12292, 4), (12294, 64)] : Memory)]) }; let c : Ctx := cx s; let cnt : Option Nat := some 5; (s.readyOp ↑(0 : Fin 512) = some c) ∧ (c.op = RodOp.carry 2 0 3 4 cnt) ∧ (2 = 2) ∧ (s.carryCheck c.ph (carryReads (s.rod c.ph).rowMap (s.carryRows c.ph) RowClass.plain ((BitVec.toNat ((s.rod c.ph).sget 3), 0) :: List.map (fun q => (BitVec.toNat ((s.rod c.ph).sget 3) + 1024 * mapStride (s.rod c.ph).rowMap * q, 4224)) (List.filter (fun q => decide (mapSpan (s.rod c.ph).rowMap + q < groupsOf (s.rod c.ph).rowMap)) (List.range (2 ^ mapOrder (s.rod c.ph).rowMap))))) [(BitVec.toNat ((s.rod c.ph).sget 4), 16384)] (decide (BitVec.toNat ((s.rod c.ph).sget 3) % 32 ≠ 0) || decide (BitVec.toNat ((s.rod c.ph).sget 4) % 32 ≠ 0)) = 0) ∧ (3 ≠ c.ph)) ∧
    (let s : State := { (rodAt 0xB00064A820000000 [(3, 32776), (4, 65536)]).onRod 0 (fun r => { r with t := [(1024 * 2 + 64 * 3 + 1, 0x3F800000), (1024 * 2 + 64 * 5 + 1, 0x40000000), (1024 * 2 + 64 * 4, 0x40400000)], rowMap := [0x4000040002, 0x99000500000000, 0x0, 0x0, 0x0, 0x8000000700001000, 0x0, 0x8000000700002000, 0x0, 0x8000000700003000, 0x0, 0x0, 0x0, 0x0, 0x0, 0x0, 0x0, 0x0] }) with bead := (List.flatten [([(1024, 2), (1026, 4), (1028, 64), (1036, 5), (1038, 153), (1065, 16), (1068, 7), (1071, 128), (1081, 32), (1084, 7), (1087, 128), (1097, 48), (1100, 7), (1103, 128), (4096, 127), (4097, 127), (4099, 1), (4100, 4), (4102, 64), (4106, 128), (4107, 63)] : Memory), ([(8192, 127), (8193, 127), (8195, 2), (8196, 4), (8202, 128), (8203, 63), (8208, 4), (8210, 2)] : Memory), ([(12291, 3), (12292, 4), (12294, 64)] : Memory)]) }; let c : Ctx := cx s; let cnt : Option Nat := some 5; (s.readyOp ↑(0 : Fin 512) = some c) ∧ (c.op = RodOp.carry 1 0 3 4 cnt) ∧ (1 = 1) ∧ ((s.rod c.ph).rowMap = [] ∨ mapOk (s.rod c.ph).rowMap = true) ∧ (s.carryCheck c.ph (carryReads (s.rod c.ph).rowMap (s.carryRows c.ph) RowClass.basis [(BitVec.toNat ((s.rod c.ph).sget 3), 64 * mapB (s.rod c.ph).rowMap)]) ((BitVec.toNat ((s.rod c.ph).sget 4), 0) :: List.map (fun k => (BitVec.toNat ((s.rod c.ph).sget 4) + 5120 * k, 4224)) (List.range (mixOperands (mapB (s.rod c.ph).rowMap)))) (decide (BitVec.toNat ((s.rod c.ph).sget 3) % 32 ≠ 0) || decide (BitVec.toNat ((s.rod c.ph).sget 4) % 1024 ≠ 0)) ≠ 0))) ∧
    (let s : State := { (rodAt 0xB00064A840000000 [(3, 32776), (4, 65536)]).onRod 0 (fun r => { r with t := [(1024 * 2 + 64 * 3 + 1, 0x3F800000), (1024 * 2 + 64 * 5 + 1, 0x40000000), (1024 * 2 + 64 * 4, 0x40400000)], rowMap := [0x4000040002, 0x99000500000000, 0x0, 0x0, 0x0, 0x8000000700001000, 0x0, 0x8000000700002000, 0x0, 0x8000000700003000, 0x0, 0x0, 0x0, 0x0, 0x0, 0x0, 0x0, 0x0] }) with bead := (List.flatten [([(1024, 2), (1026, 4), (1028, 64), (1036, 5), (1038, 153), (1065, 16), (1068, 7), (1071, 128), (1081, 32), (1084, 7), (1087, 128), (1097, 48), (1100, 7), (1103, 128), (4096, 127), (4097, 127), (4099, 1), (4100, 4), (4102, 64), (4106, 128), (4107, 63)] : Memory), ([(8192, 127), (8193, 127), (8195, 2), (8196, 4), (8202, 128), (8203, 63), (8208, 4), (8210, 2)] : Memory), ([(12291, 3), (12292, 4), (12294, 64)] : Memory)]) }; let c : Ctx := cx s; let cnt : Option Nat := some 5; (s.readyOp ↑(0 : Fin 512) = some c) ∧ (c.op = RodOp.carry 2 0 3 4 cnt) ∧ (2 = 2) ∧ (s.carryCheck c.ph (carryReads (s.rod c.ph).rowMap (s.carryRows c.ph) RowClass.plain ((BitVec.toNat ((s.rod c.ph).sget 3), 0) :: List.map (fun q => (BitVec.toNat ((s.rod c.ph).sget 3) + 1024 * mapStride (s.rod c.ph).rowMap * q, 4224)) (List.filter (fun q => decide (mapSpan (s.rod c.ph).rowMap + q < groupsOf (s.rod c.ph).rowMap)) (List.range (2 ^ mapOrder (s.rod c.ph).rowMap))))) [(BitVec.toNat ((s.rod c.ph).sget 4), 16384)] (decide (BitVec.toNat ((s.rod c.ph).sget 3) % 32 ≠ 0) || decide (BitVec.toNat ((s.rod c.ph).sget 4) % 32 ≠ 0)) ≠ 0)) ∧
    (let s : State := { (rodAt 0xB00064A820000000 [(3, 0x8000), (4, 0x10000)]).onRod 0 (fun r => { r with t := [(1024 * 2 + 64 * 3 + 1, 0x3F800000), (1024 * 2 + 64 * 5 + 1, 0x40000000), (1024 * 2 + 64 * 4, 0x40400000)] }) with bead := (List.flatten [([(1024, 2), (1026, 4), (1028, 64), (1036, 5), (1038, 153), (1065, 16), (1068, 7), (1071, 128), (1081, 32), (1084, 7), (1087, 128), (1097, 48), (1100, 7), (1103, 128), (4096, 127), (4097, 127), (4099, 1), (4100, 4), (4102, 64), (4106, 128), (4107, 63)] : Memory), ([(8192, 127), (8193, 127), (8195, 2), (8196, 4), (8202, 128), (8203, 63), (8208, 4), (8210, 2)] : Memory), ([(12291, 3), (12292, 4), (12294, 64)] : Memory)]) }; let c : Ctx := cx s; let cnt : Option Nat := some 5; (s.readyOp ↑(0 : Fin 512) = some c) ∧ (c.op = RodOp.carry 1 0 3 4 cnt) ∧ (1 = 1) ∧ ((s.rod c.ph).rowMap = [] ∨ mapOk (s.rod c.ph).rowMap = true) ∧ (s.carryCheck c.ph (carryReads (s.rod c.ph).rowMap (s.carryRows c.ph) RowClass.basis [(BitVec.toNat ((s.rod c.ph).sget 3), 64 * mapB (s.rod c.ph).rowMap)]) ((BitVec.toNat ((s.rod c.ph).sget 4), 0) :: List.map (fun k => (BitVec.toNat ((s.rod c.ph).sget 4) + 5120 * k, 4224)) (List.range (mixOperands (mapB (s.rod c.ph).rowMap)))) (decide (BitVec.toNat ((s.rod c.ph).sget 3) % 32 ≠ 0) || decide (BitVec.toNat ((s.rod c.ph).sget 4) % 1024 ≠ 0)) = 0) ∧ (1024 < 2 ^ 22 * c.ph + 4129024 ∨ 2 ^ 22 * c.ph + 4129088 ≤ 1024) ∧ (∀ (r : Nat × Nat), r ∈ List.map (fun k => (BitVec.toNat ((s.rod c.ph).sget 4) + 5120 * k, 4224)) (List.range (mixOperands (mapB (s.rod c.ph).rowMap))) → 1024 < 2 ^ 22 * c.ph + r.fst ∨ 2 ^ 22 * c.ph + r.fst + r.snd ≤ 1024)) ∧
    (let s : State := { (rodAt 0xB00064A840000000 [(3, 32768), (4, 65536)]).onRod 0 (fun r => { r with t := [(1024 * 2 + 64 * 3 + 1, 0x3F800000), (1024 * 2 + 64 * 5 + 1, 0x40000000), (1024 * 2 + 64 * 4, 0x40400000)], rowMap := [0x4000040002, 0x99000500000000, 0x0, 0x0, 0x0, 0x8000000700001000, 0x0, 0x8000000700002000, 0x0, 0x8000000700003000, 0x0, 0x0, 0x0, 0x0, 0x0, 0x0, 0x0, 0x0] }) with bead := (List.flatten [([(1024, 2), (1026, 4), (1028, 64), (1036, 5), (1038, 153), (1065, 16), (1068, 7), (1071, 128), (1081, 32), (1084, 7), (1087, 128), (1097, 48), (1100, 7), (1103, 128), (4096, 127), (4097, 127), (4099, 1), (4100, 4), (4102, 64), (4106, 128), (4107, 63)] : Memory), ([(8192, 127), (8193, 127), (8195, 2), (8196, 4), (8202, 128), (8203, 63), (8208, 4), (8210, 2)] : Memory), ([(12291, 3), (12292, 4), (12294, 64)] : Memory)]) }; let c : Ctx := cx s; let cnt : Option Nat := some 5; (s.readyOp ↑(0 : Fin 512) = some c) ∧ (c.op = RodOp.carry 2 0 3 4 cnt) ∧ (2 = 2) ∧ (s.carryCheck c.ph (carryReads (s.rod c.ph).rowMap (s.carryRows c.ph) RowClass.plain ((BitVec.toNat ((s.rod c.ph).sget 3), 0) :: List.map (fun q => (BitVec.toNat ((s.rod c.ph).sget 3) + 1024 * mapStride (s.rod c.ph).rowMap * q, 4224)) (List.filter (fun q => decide (mapSpan (s.rod c.ph).rowMap + q < groupsOf (s.rod c.ph).rowMap)) (List.range (2 ^ mapOrder (s.rod c.ph).rowMap))))) [(BitVec.toNat ((s.rod c.ph).sget 4), 16384)] (decide (BitVec.toNat ((s.rod c.ph).sget 3) % 32 ≠ 0) || decide (BitVec.toNat ((s.rod c.ph).sget 4) % 32 ≠ 0)) = 0) ∧ (∀ (o : Nat × Nat), o ∈ (s.rod c.ph).openWrites (some AUnit.carry) → overlap o.fst o.snd (BitVec.toNat ((s.rod c.ph).sget 4)) 16384 = false) ∧ (3 < 16) ∧ (3 < 256)) ∧
    (let s : State := { (rodAt 0xB00064A840000000 [(3, 32768), (4, 65536)]).onRod 0 (fun r => { r with t := [(1024 * 2 + 64 * 3 + 1, 0x3F800000), (1024 * 2 + 64 * 5 + 1, 0x40000000), (1024 * 2 + 64 * 4, 0x40400000)], rowMap := [0x4000040002, 0x99000500000000, 0x0, 0x0, 0x0, 0x8000000700001000, 0x0, 0x8000000700002000, 0x0, 0x8000000700003000, 0x0, 0x0, 0x0, 0x0, 0x0, 0x0, 0x0, 0x0] }) with bead := (List.flatten [([(1024, 2), (1026, 4), (1028, 64), (1036, 5), (1038, 153), (1065, 16), (1068, 7), (1071, 128), (1081, 32), (1084, 7), (1087, 128), (1097, 48), (1100, 7), (1103, 128), (4096, 127), (4097, 127), (4099, 1), (4100, 4), (4102, 64), (4106, 128), (4107, 63)] : Memory), ([(8192, 127), (8193, 127), (8195, 2), (8196, 4), (8202, 128), (8203, 63), (8208, 4), (8210, 2)] : Memory), ([(12291, 3), (12292, 4), (12294, 64)] : Memory)]) }; let c : Ctx := cx s; let cnt : Option Nat := some 5; (s.readyOp ↑(0 : Fin 512) = some c) ∧ (c.op = RodOp.carry 2 0 3 4 cnt) ∧ (2 = 2) ∧ (s.carryCheck c.ph (carryReads (s.rod c.ph).rowMap (s.carryRows c.ph) RowClass.plain ((BitVec.toNat ((s.rod c.ph).sget 3), 0) :: List.map (fun q => (BitVec.toNat ((s.rod c.ph).sget 3) + 1024 * mapStride (s.rod c.ph).rowMap * q, 4224)) (List.filter (fun q => decide (mapSpan (s.rod c.ph).rowMap + q < groupsOf (s.rod c.ph).rowMap)) (List.range (2 ^ mapOrder (s.rod c.ph).rowMap))))) [(BitVec.toNat ((s.rod c.ph).sget 4), 16384)] (decide (BitVec.toNat ((s.rod c.ph).sget 3) % 32 ≠ 0) || decide (BitVec.toNat ((s.rod c.ph).sget 4) % 32 ≠ 0)) = 0) ∧ (1024 < 2 ^ 22 * c.ph + 4129024 ∨ 2 ^ 22 * c.ph + 4129088 ≤ 1024) ∧ (∀ (r : Nat × Nat), r ∈ [(BitVec.toNat ((s.rod c.ph).sget 4), 16384)] → 1024 < 2 ^ 22 * c.ph + r.fst ∨ 2 ^ 22 * c.ph + r.fst + r.snd ≤ 1024)) ∧
    (let s : State := { (rodAt 0xB00064A820000000 [(3, 32768), (4, 65536)]).onRod 0 (fun r => { r with t := [(1024 * 2 + 64 * 3 + 1, 0x3F800000), (1024 * 2 + 64 * 5 + 1, 0x40000000), (1024 * 2 + 64 * 4, 0x40400000)], rowMap := [0x4000040002, 0x99000500000000, 0x0, 0x0, 0x0, 0x8000000700001000, 0x0, 0x8000000700002000, 0x0, 0x8000000700003000, 0x0, 0x0, 0x0, 0x0, 0x0, 0x0, 0x0, 0x0] }) with bead := (List.flatten [([(1024, 2), (1026, 4), (1028, 64), (1036, 5), (1038, 153), (1065, 16), (1068, 7), (1071, 128), (1081, 32), (1084, 7), (1087, 128), (1097, 48), (1100, 7), (1103, 128), (4096, 127), (4097, 127), (4099, 1), (4100, 4), (4102, 64), (4106, 128), (4107, 63)] : Memory), ([(8192, 127), (8193, 127), (8195, 2), (8196, 4), (8202, 128), (8203, 63), (8208, 4), (8210, 2)] : Memory), ([(12291, 3), (12292, 4), (12294, 64)] : Memory)]) }; let c : Ctx := cx s; let cnt : Option Nat := some 5; let τ : Elt := (Elt.ofCode 9).get rfl; let k : Nat := 3; (s.readyOp ↑(0 : Fin 512) = some c) ∧ (c.op = RodOp.carry 1 0 3 4 cnt) ∧ (1 = 1) ∧ ((s.rod c.ph).rowMap = [] ∨ mapOk (s.rod c.ph).rowMap = true) ∧ (s.carryCheck c.ph (carryReads (s.rod c.ph).rowMap (s.carryRows c.ph) RowClass.basis [(BitVec.toNat ((s.rod c.ph).sget 3), 64 * mapB (s.rod c.ph).rowMap)]) ((BitVec.toNat ((s.rod c.ph).sget 4), 0) :: List.map (fun k => (BitVec.toNat ((s.rod c.ph).sget 4) + 5120 * k, 4224)) (List.range (mixOperands (mapB (s.rod c.ph).rowMap)))) (decide (BitVec.toNat ((s.rod c.ph).sget 3) % 32 ≠ 0) || decide (BitVec.toNat ((s.rod c.ph).sget 4) % 1024 ≠ 0)) = 0) ∧ (∀ (o : Nat × Nat), o ∈ (s.rod c.ph).openWrites (some AUnit.carry) → ∀ (r : Nat × Nat), r ∈ List.map (fun k => (BitVec.toNat ((s.rod c.ph).sget 4) + 5120 * k, 4224)) (List.range (mixOperands (mapB (s.rod c.ph).rowMap))) → overlap o.fst o.snd r.fst r.snd = false) ∧ (Elt.ofCode (mapUT (s.rod c.ph).rowMap) = some τ) ∧ (3 < mixOperands (mapB (s.rod c.ph).rowMap)) ∧ (3 < 4224)) :=
  ⟨by decide +kernel, by decide +kernel, by decide +kernel, by decide +kernel, by decide +kernel, by decide +kernel, by decide +kernel⟩

theorem witness_RodRemoteOperationsIssue :
    ((let s : State := { rodAt 0xC0006003007FFFFE [(3, 4096), (4, 77), (6, 78)] with bead := Memory.write64 [] 0x100 0x1122334455667788 }; let c : Ctx := cx s; let inc : Int := -2; let cnt : Option Nat := none; (s.readyOp ↑(0 : Fin 512) = some c) ∧ (c.op = RodOp.taddR 3 inc cnt) ∧ (1 ≠ c.ph)) ∧
    (let s : State := { rodAt 0xC00064A800000014 [(3, 4096), (4, 256)] with bead := Memory.write64 [] 0x100 0x1122334455667788 }; let c : Ctx := cx s; let cnt : Option Nat := some 5; (s.readyOp ↑(0 : Fin 512) = some c) ∧ (c.op = RodOp.rget 3 4 20 cnt) ∧ (BitVec.toNat ((s.rod c.ph).sget 4) + 20 ≤ 4128768) ∧ (1 ≠ c.ph))) ∧
    ((let s : State := { rodAt 0xC00064A880000014 [(3, 4096), (4, 256)] with bead := Memory.write64 [] 0x100 0x1122334455667788 }; let c : Ctx := cx s; let cnt : Option Nat := some 5; (s.readyOp ↑(0 : Fin 512) = some c) ∧ (c.op = RodOp.rput 3 4 20 cnt) ∧ (BitVec.toNat ((s.rod c.ph).sget 4) + 20 ≤ 2 ^ 22) ∧ (s.beadRangeBad c.ph (BitVec.toNat ((s.rod c.ph).sget 4)) 20 = false) ∧ (1 ≠ c.ph)) ∧
    (let s : State := { rodAt 0xC014640100000000 [(3, 4096), (4, 77), (6, 78)] with bead := Memory.write64 [] 0x100 0x1122334455667788 }; let c : Ctx := cx s; let cnt : Option Nat := none; (s.readyOp ↑(0 : Fin 512) = some c) ∧ (c.op = RodOp.atom AtomOp.add 0 5 3 4 0 cnt) ∧ ((BitVec.toNat ((s.rod c.ph).sget 3) % if 0 = 1 ∨ 0 = 4 then 8 else 4) = 0) ∧ (1 ≠ c.ph))) ∧
    ((let s : State := { rodAt 0xC00064A800000014 [(3, 4096), (4, 4194288)] with bead := Memory.write64 [] 0x100 0x1122334455667788 }; let c : Ctx := cx s; let cnt : Option Nat := some 5; (s.readyOp ↑(0 : Fin 512) = some c) ∧ (c.op = RodOp.rget 3 4 20 cnt) ∧ (BitVec.toNat ((s.rod c.ph).sget 4) + 20 > 2 ^ 22)) ∧
    (let s : State := { rodAt 0xC00064A880000014 [(3, 4096), (4, 4194288)] with bead := Memory.write64 [] 0x100 0x1122334455667788 }; let c : Ctx := cx s; let cnt : Option Nat := some 5; (s.readyOp ↑(0 : Fin 512) = some c) ∧ (c.op = RodOp.rput 3 4 20 cnt) ∧ (BitVec.toNat ((s.rod c.ph).sget 4) + 20 > 2 ^ 22))) ∧
    ((let s : State := { rodAt 0xC0006003007FFFFE [(3, 4096), (4, 77), (6, 78)] with bead := Memory.write64 [] 0x100 0x1122334455667788 }; let c : Ctx := cx s; let inc : Int := -2; let cnt : Option Nat := none; (s.readyOp ↑(0 : Fin 512) = some c) ∧ (c.op = RodOp.taddR 3 inc cnt) ∧ (adClass (have __src := opOf c RemKind.taddR cnt (BitVec.toNat ((s.rod c.ph).sget 3)) 4; ({ tag := __src.tag, ord := __src.ord, pc := __src.pc, word := __src.word, kind := __src.kind, cnt := __src.cnt, dest := __src.dest, addr := __src.addr, bead := __src.bead, len := __src.len, b := BitVec.ofInt 64 inc, c := __src.c, data := __src.data, poison := __src.poison, done := s.classResp (BitVec.toNat ((s.rod c.ph).sget 3) % 2 ^ 56) 4, old := __src.old, clash := __src.clash, spans := __src.spans, scope := __src.scope, taken := __src.taken } : RemOp)).addr ≠ 4 ∨ (have __src := opOf c RemKind.taddR cnt (BitVec.toNat ((s.rod c.ph).sget 3)) 4; ({ tag := __src.tag, ord := __src.ord, pc := __src.pc, word := __src.word, kind := __src.kind, cnt := __src.cnt, dest := __src.dest, addr := __src.addr, bead := __src.bead, len := __src.len, b := BitVec.ofInt 64 inc, c := __src.c, data := __src.data, poison := __src.poison, done := s.classResp (BitVec.toNat ((s.rod c.ph).sget 3) % 2 ^ 56) 4, old := __src.old, clash := __src.clash, spans := __src.spans, scope := __src.scope, taken := __src.taken } : RemOp)).done ≠ cnt)) ∧
    (let s : State := { rodAt 0xC00064A800000014 [(3, 4096), (4, 4128760)] with bead := Memory.write64 [] 0x100 0x1122334455667788 }; let c : Ctx := cx s; let cnt : Option Nat := some 5; (s.readyOp ↑(0 : Fin 512) = some c) ∧ (c.op = RodOp.rget 3 4 20 cnt) ∧ (BitVec.toNat ((s.rod c.ph).sget 4) + 20 ≤ 2 ^ 22) ∧ (BitVec.toNat ((s.rod c.ph).sget 4) + 20 > 4128768))) ∧
    ((let s : State := { rodAt 0xC00064A880000014 [(3, 4096), (4, 256)] with bead := Memory.write64 [] 0x100 0x1122334455667788, beadPoison := [(33, true)] }; let c : Ctx := cx s; let cnt : Option Nat := some 5; (s.readyOp ↑(0 : Fin 512) = some c) ∧ (c.op = RodOp.rput 3 4 20 cnt) ∧ (BitVec.toNat ((s.rod c.ph).sget 4) + 20 ≤ 2 ^ 22) ∧ (s.beadRangeBad c.ph (BitVec.toNat ((s.rod c.ph).sget 4)) 20 = true)) ∧
    (let s : State := { rodAt 0xC014640110000000 [(3, 4098), (4, 77), (6, 78)] with bead := Memory.write64 [] 0x100 0x1122334455667788 }; let c : Ctx := cx s; let cnt : Option Nat := none; (s.readyOp ↑(0 : Fin 512) = some c) ∧ (c.op = RodOp.atom AtomOp.add 1 5 3 4 0 cnt) ∧ ((BitVec.toNat ((s.rod c.ph).sget 3) % if 1 = 1 ∨ 1 = 4 then 8 else 4) ≠ 0))) ∧
    (let s : State := { rodAt 0xC00064A800000014 [(3, 4096), (4, 256)] with bead := Memory.write64 [] 0x100 0x1122334455667788 }; let c : Ctx := cx s; let b : Nat := 4; let len : Nat := 20; let cnt : Option Nat := some 5; (s.readyOp ↑(0 : Fin 512) = some c) ∧ (c.op = RodOp.rget 3 4 20 cnt) ∧ (BitVec.toNat ((s.rod c.ph).sget 4) + 20 ≤ 4128768) ∧ (adClass (have __src := opOf c RemKind.get cnt (BitVec.toNat ((s.rod c.ph).sget 3)) 20; ({ tag := __src.tag, ord := __src.ord, pc := __src.pc, word := __src.word, kind := __src.kind, cnt := __src.cnt, dest := __src.dest, addr := __src.addr, bead := BitVec.toNat ((s.rod c.ph).sget 4), len := __src.len, b := __src.b, c := __src.c, data := __src.data, poison := __src.poison, done := s.classResp (BitVec.toNat ((s.rod c.ph).sget 3) % 2 ^ 56) 20, old := __src.old, clash := __src.clash, spans := [(BitVec.toNat ((s.rod c.ph).sget 4), 20)], scope := __src.scope, taken := __src.taken } : RemOp)).addr ≠ 4 ∨ (have __src := opOf c RemKind.get cnt (BitVec.toNat ((s.rod c.ph).sget 3)) 20; ({ tag := __src.tag, ord := __src.ord, pc := __src.pc, word := __src.word, kind := __src.kind, cnt := __src.cnt, dest := __src.dest, addr := __src.addr, bead := BitVec.toNat ((s.rod c.ph).sget 4), len := __src.len, b := __src.b, c := __src.c, data := __src.data, poison := __src.poison, done := s.classResp (BitVec.toNat ((s.rod c.ph).sget 3) % 2 ^ 56) 20, old := __src.old, clash := __src.clash, spans := [(BitVec.toNat ((s.rod c.ph).sget 4), 20)], scope := __src.scope, taken := __src.taken } : RemOp)).done ≠ none)) ∧
    (let s : State := { rodAt 0xC00064A880000014 [(3, 4096), (4, 256)] with bead := Memory.write64 [] 0x100 0x1122334455667788 }; let c : Ctx := cx s; let b : Nat := 4; let len : Nat := 20; let cnt : Option Nat := some 5; (s.readyOp ↑(0 : Fin 512) = some c) ∧ (c.op = RodOp.rput 3 4 20 cnt) ∧ (BitVec.toNat ((s.rod c.ph).sget 4) + 20 ≤ 2 ^ 22) ∧ (s.beadRangeBad c.ph (BitVec.toNat ((s.rod c.ph).sget 4)) 20 = false) ∧ (adClass (have __src := opOf c RemKind.put cnt (BitVec.toNat ((s.rod c.ph).sget 3)) 20; ({ tag := __src.tag, ord := __src.ord, pc := __src.pc, word := __src.word, kind := __src.kind, cnt := __src.cnt, dest := __src.dest, addr := __src.addr, bead := BitVec.toNat ((s.rod c.ph).sget 4), len := __src.len, b := __src.b, c := __src.c, data := s.bead.readN (2 ^ 22 * c.ph + BitVec.toNat ((s.rod c.ph).sget 4)) 20, poison := __src.poison, done := s.classResp (BitVec.toNat ((s.rod c.ph).sget 3) % 2 ^ 56) 20, old := __src.old, clash := __src.clash, spans := __src.spans, scope := __src.scope, taken := __src.taken } : RemOp)).addr ≠ 4 ∨ (have __src := opOf c RemKind.put cnt (BitVec.toNat ((s.rod c.ph).sget 3)) 20; ({ tag := __src.tag, ord := __src.ord, pc := __src.pc, word := __src.word, kind := __src.kind, cnt := __src.cnt, dest := __src.dest, addr := __src.addr, bead := BitVec.toNat ((s.rod c.ph).sget 4), len := __src.len, b := __src.b, c := __src.c, data := s.bead.readN (2 ^ 22 * c.ph + BitVec.toNat ((s.rod c.ph).sget 4)) 20, poison := __src.poison, done := s.classResp (BitVec.toNat ((s.rod c.ph).sget 3) % 2 ^ 56) 20, old := __src.old, clash := __src.clash, spans := __src.spans, scope := __src.scope, taken := __src.taken } : RemOp)).done ≠ none)) :=
  ⟨by decide +kernel, by decide +kernel, by decide +kernel, by decide +kernel, by decide +kernel, by decide +kernel, by decide +kernel⟩

theorem witness_RodRemoteOperationsIssue_part2 :
    (let s : State := { rodAt 0xC014640100000000 [(3, 4096), (4, 77), (6, 78)] with bead := Memory.write64 [] 0x100 0x1122334455667788 }; let c : Ctx := cx s; let b : Nat := 4; let cnt : Option Nat := none; (s.readyOp ↑(0 : Fin 512) = some c) ∧ (c.op = RodOp.atom AtomOp.add 0 5 3 4 0 cnt) ∧ ((BitVec.toNat ((s.rod c.ph).sget 3) % if 0 = 1 ∨ 0 = 4 then 8 else 4) = 0) ∧ (adClass (have __src := opOf c (RemKind.atom AtomOp.add 0) cnt (BitVec.toNat ((s.rod c.ph).sget 3)) (if 0 = 1 ∨ 0 = 4 then 8 else 4); ({ tag := __src.tag, ord := __src.ord, pc := __src.pc, word := __src.word, kind := __src.kind, cnt := __src.cnt, dest := 5, addr := __src.addr, bead := __src.bead, len := __src.len, b := (s.rod c.ph).sget 4, c := (s.rod c.ph).sget 0, data := __src.data, poison := __src.poison, done := s.classResp (BitVec.toNat ((s.rod c.ph).sget 3) % 2 ^ 56) (if 0 = 1 ∨ 0 = 4 then 8 else 4), old := __src.old, clash := __src.clash, spans := __src.spans, scope := __src.scope, taken := __src.taken } : RemOp)).addr ≠ 4 ∨ (have __src := opOf c (RemKind.atom AtomOp.add 0) cnt (BitVec.toNat ((s.rod c.ph).sget 3)) (if 0 = 1 ∨ 0 = 4 then 8 else 4); ({ tag := __src.tag, ord := __src.ord, pc := __src.pc, word := __src.word, kind := __src.kind, cnt := __src.cnt, dest := 5, addr := __src.addr, bead := __src.bead, len := __src.len, b := (s.rod c.ph).sget 4, c := (s.rod c.ph).sget 0, data := __src.data, poison := __src.poison, done := s.classResp (BitVec.toNat ((s.rod c.ph).sget 3) % 2 ^ 56) (if 0 = 1 ∨ 0 = 4 then 8 else 4), old := __src.old, clash := __src.clash, spans := __src.spans, scope := __src.scope, taken := __src.taken } : RemOp)).done ≠ cnt)) :=
  by decide +kernel

theorem witness_RodHandOffsIssue :
    ((let s : State := rodAt 0xD80000A900000000 []; let c : Ctx := cx s; let cnt : Option Nat := some 5; (s.readyOp ↑(0 : Fin 512) = some c) ∧ (c.op = RodOp.sampleEmpty cnt) ∧ (adClass (opOf c RemKind.sampleEmpty cnt 0 0).addr ≠ 4 ∨ (opOf c RemKind.sampleEmpty cnt 0 0).done ≠ none)) ∧
    (let s : State := rodAt 0xD40060A800000000 [(3, 0x410)]; let c : Ctx := cx s; let cnt : Option Nat := some 5; (s.readyOp ↑(0 : Fin 512) = some c) ∧ (c.op = RodOp.streamArm 3 cnt) ∧ (adClass (opOf c RemKind.stream cnt (BitVec.toNat ((s.rod c.ph).sget 3)) 16).addr ≠ 4 ∨ (opOf c RemKind.stream cnt (BitVec.toNat ((s.rod c.ph).sget 3)) 16).done ≠ none))) ∧
    ((let s : State := rodAt 0xD80064A800000000 [(3, 0x400)]; let c : Ctx := cx s; let cnt : Option Nat := some 5; (s.readyOp ↑(0 : Fin 512) = some c) ∧ (c.op = RodOp.samplePut 3 4 cnt) ∧ ((s.rod c.ph).sget 4 = (0 : W64)) ∧ (adClass (opOf c RemKind.sampleEmpty cnt 0 0).addr ≠ 4 ∨ (opOf c RemKind.sampleEmpty cnt 0 0).done ≠ none)) ∧
    (let s : State := rodAt 0xD80064A800000000 [(3, 0x400), (4, 3)]; let c : Ctx := cx s; let cnt : Option Nat := some 5; (s.readyOp ↑(0 : Fin 512) = some c) ∧ (c.op = RodOp.samplePut 3 4 cnt) ∧ ((s.rod c.ph).sget 4 ≠ (0 : W64)) ∧ (BitVec.toNat ((s.rod c.ph).sget 3) < 2 ^ 22) ∧ (1 ≠ c.ph))) ∧
    ((let s : State := { rodAt 0xD00064A800000000 [(3, 0x400), (4, 0x8000)] with bead := ([(1024, 4), (1028, 5), (1033, 16), (1037, 32), (1040, 64)] : Memory), gth := { Gather.init with tables := [(5, [0x1001000000020000])] } }; let c : Ctx := cx s; let cnt : Option Nat := some 5; (s.readyOp ↑(0 : Fin 512) = some c) ∧ (c.op = RodOp.gather 3 4 cnt) ∧ (BitVec.toNat ((s.rod c.ph).sget 3) + 64 ≤ 2 ^ 22) ∧ (s.gatherTrap c.ph (BitVec.toNat ((s.rod c.ph).sget 3)) (BitVec.toNat ((s.rod c.ph).sget 4)) (s.bead.readWords (2 ^ 22 * c.ph + BitVec.toNat ((s.rod c.ph).sget 3)) 8) (s.tbl (gdTable (s.bead.readWords (2 ^ 22 * c.ph + BitVec.toNat ((s.rod c.ph).sget 3)) 8))) = 0) ∧ (1 ≠ c.ph)) ∧
    (let s : State := rodAt 0xD80000A900000000 []; let c : Ctx := cx s; let cnt : Option Nat := some 5; (s.readyOp ↑(0 : Fin 512) = some c) ∧ (c.op = RodOp.sampleEmpty cnt) ∧ (1 ≠ c.ph))) ∧
    ((let s : State := rodAt 0xD40060A800000000 [(3, 0x410)]; let c : Ctx := cx s; let cnt : Option Nat := some 5; (s.readyOp ↑(0 : Fin 512) = some c) ∧ (c.op = RodOp.streamArm 3 cnt) ∧ (1 ≠ c.ph)) ∧
    (let s : State := rodAt 0xD80064A800000000 [(3, 0x400000), (4, 3)]; let c : Ctx := cx s; let cnt : Option Nat := some 5; (s.readyOp ↑(0 : Fin 512) = some c) ∧ (c.op = RodOp.samplePut 3 4 cnt) ∧ ((s.rod c.ph).sget 4 ≠ (0 : W64)) ∧ (BitVec.toNat ((s.rod c.ph).sget 3) ≥ 2 ^ 22))) ∧
    ((let s : State := rodAt 0xD80064A800000000 [(3, 0x400)]; let c : Ctx := cx s; let cnt : Option Nat := some 5; (s.readyOp ↑(0 : Fin 512) = some c) ∧ (c.op = RodOp.samplePut 3 4 cnt) ∧ ((s.rod c.ph).sget 4 = (0 : W64)) ∧ (1 ≠ c.ph)) ∧
    (let s : State := { rodAt 0xD00064A800000000 [(3, 0x3FFFF0), (4, 0x8000)] with bead := ([(1024, 4), (1028, 5), (1033, 16), (1037, 32), (1040, 64)] : Memory), gth := { Gather.init with tables := [(5, [0x1001000000020000])] } }; let c : Ctx := cx s; let cnt : Option Nat := some 5; (s.readyOp ↑(0 : Fin 512) = some c) ∧ (c.op = RodOp.gather 3 4 cnt) ∧ (BitVec.toNat ((s.rod c.ph).sget 3) + 64 > 2 ^ 22))) ∧
    ((let s : State := rodAt 0xD80064A800000000 [(3, 0x400), (4, 3)]; let c : Ctx := cx s; let b : Nat := 4; let cnt : Option Nat := some 5; (s.readyOp ↑(0 : Fin 512) = some c) ∧ (c.op = RodOp.samplePut 3 4 cnt) ∧ ((s.rod c.ph).sget 4 ≠ (0 : W64)) ∧ (BitVec.toNat ((s.rod c.ph).sget 3) < 2 ^ 22) ∧ (adClass (have __src := opOf c RemKind.sample cnt (BitVec.toNat ((s.rod c.ph).sget 3)) 0; ({ tag := __src.tag, ord := __src.ord, pc := __src.pc, word := __src.word, kind := __src.kind, cnt := __src.cnt, dest := __src.dest, addr := __src.addr, bead := BitVec.toNat ((s.rod c.ph).sget 3), len := __src.len, b := (s.rod c.ph).sget 4, c := __src.c, data := __src.data, poison := __src.poison, done := __src.done, old := __src.old, clash := __src.clash, spans := [(BitVec.toNat ((s.rod c.ph).sget 3), 4194304 - BitVec.toNat ((s.rod c.ph).sget 3))], scope := __src.scope, taken := __src.taken } : RemOp)).addr ≠ 4 ∨ (have __src := opOf c RemKind.sample cnt (BitVec.toNat ((s.rod c.ph).sget 3)) 0; ({ tag := __src.tag, ord := __src.ord, pc := __src.pc, word := __src.word, kind := __src.kind, cnt := __src.cnt, dest := __src.dest, addr := __src.addr, bead := BitVec.toNat ((s.rod c.ph).sget 3), len := __src.len, b := (s.rod c.ph).sget 4, c := __src.c, data := __src.data, poison := __src.poison, done := __src.done, old := __src.old, clash := __src.clash, spans := [(BitVec.toNat ((s.rod c.ph).sget 3), 4194304 - BitVec.toNat ((s.rod c.ph).sget 3))], scope := __src.scope, taken := __src.taken } : RemOp)).done ≠ none)) ∧
    (let s : State := { rodAt 0xD00064A800000000 [(3, 0x408), (4, 0x8000)] with bead := ([(1024, 4), (1028, 5), (1033, 16), (1037, 32), (1040, 64)] : Memory), gth := { Gather.init with tables := [(5, [0x1000000000020000])] } }; let c : Ctx := cx s; let cnt : Option Nat := some 5; (s.readyOp ↑(0 : Fin 512) = some c) ∧ (c.op = RodOp.gather 3 4 cnt) ∧ (BitVec.toNat ((s.rod c.ph).sget 3) + 64 ≤ 2 ^ 22) ∧ (s.gatherTrap c.ph (BitVec.toNat ((s.rod c.ph).sget 3)) (BitVec.toNat ((s.rod c.ph).sget 4)) (s.bead.readWords (2 ^ 22 * c.ph + BitVec.toNat ((s.rod c.ph).sget 3)) 8) (s.tbl (gdTable (s.bead.readWords (2 ^ 22 * c.ph + BitVec.toNat ((s.rod c.ph).sget 3)) 8))) ≠ 0))) ∧
    (let s : State := { rodAt 0xD00064A800000000 [(3, 0x400), (4, 0x8000)] with bead := ([(1024, 4), (1028, 5), (1033, 16), (1037, 32), (1040, 64)] : Memory), gth := { Gather.init with tables := [(5, [0x1001000000020000])] } }; let c : Ctx := cx s; let b : Nat := 4; let cnt : Option Nat := some 5; (s.readyOp ↑(0 : Fin 512) = some c) ∧ (c.op = RodOp.gather 3 4 cnt) ∧ (BitVec.toNat ((s.rod c.ph).sget 3) + 64 ≤ 2 ^ 22) ∧ (s.gatherTrap c.ph (BitVec.toNat ((s.rod c.ph).sget 3)) (BitVec.toNat ((s.rod c.ph).sget 4)) (s.bead.readWords (2 ^ 22 * c.ph + BitVec.toNat ((s.rod c.ph).sget 3)) 8) (s.tbl (gdTable (s.bead.readWords (2 ^ 22 * c.ph + BitVec.toNat ((s.rod c.ph).sget 3)) 8))) = 0) ∧ (adClass (have __src := opOf c RemKind.gather cnt (BitVec.toNat ((s.rod c.ph).sget 3)) 64; ({ tag := __src.tag, ord := __src.ord, pc := __src.pc, word := __src.word, kind := __src.kind, cnt := __src.cnt, dest := __src.dest, addr := __src.addr, bead := BitVec.toNat ((s.rod c.ph).sget 4), len := __src.len, b := __src.b, c := __src.c, data := List.flatMap (fun w => leBytes 8 (BitVec.toNat w)) (s.bead.readWords (2 ^ 22 * c.ph + BitVec.toNat ((s.rod c.ph).sget 3)) 8), poison := __src.poison, done := if gatherResp c.p (BitVec.toNat ((s.rod c.ph).sget 4)) (s.bead.readWords (2 ^ 22 * c.ph + BitVec.toNat ((s.rod c.ph).sget 3)) 8) (s.tbl (gdTable (s.bead.readWords (2 ^ 22 * c.ph + BitVec.toNat ((s.rod c.ph).sget 3)) 8))) = 0 then none else some (gatherResp c.p (BitVec.toNat ((s.rod c.ph).sget 4)) (s.bead.readWords (2 ^ 22 * c.ph + BitVec.toNat ((s.rod c.ph).sget 3)) 8) (s.tbl (gdTable (s.bead.readWords (2 ^ 22 * c.ph + BitVec.toNat ((s.rod c.ph).sget 3)) 8)))), old := __src.old, clash := __src.clash, spans := gatherSpans (BitVec.toNat ((s.rod c.ph).sget 4)) (s.bead.readWords (2 ^ 22 * c.ph + BitVec.toNat ((s.rod c.ph).sget 3)) 8) (s.tbl (gdTable (s.bead.readWords (2 ^ 22 * c.ph + BitVec.toNat ((s.rod c.ph).sget 3)) 8))), scope := __src.scope, taken := decide (gatherResp c.p (BitVec.toNat ((s.rod c.ph).sget 4)) (s.bead.readWords (2 ^ 22 * c.ph + BitVec.toNat ((s.rod c.ph).sget 3)) 8) (s.tbl (gdTable (s.bead.readWords (2 ^ 22 * c.ph + BitVec.toNat ((s.rod c.ph).sget 3)) 8))) ≠ 0) || decide (s.engineLoad (c.l / 16) < 64) } : RemOp)).addr ≠ 4 ∨ (have __src := opOf c RemKind.gather cnt (BitVec.toNat ((s.rod c.ph).sget 3)) 64; ({ tag := __src.tag, ord := __src.ord, pc := __src.pc, word := __src.word, kind := __src.kind, cnt := __src.cnt, dest := __src.dest, addr := __src.addr, bead := BitVec.toNat ((s.rod c.ph).sget 4), len := __src.len, b := __src.b, c := __src.c, data := List.flatMap (fun w => leBytes 8 (BitVec.toNat w)) (s.bead.readWords (2 ^ 22 * c.ph + BitVec.toNat ((s.rod c.ph).sget 3)) 8), poison := __src.poison, done := if gatherResp c.p (BitVec.toNat ((s.rod c.ph).sget 4)) (s.bead.readWords (2 ^ 22 * c.ph + BitVec.toNat ((s.rod c.ph).sget 3)) 8) (s.tbl (gdTable (s.bead.readWords (2 ^ 22 * c.ph + BitVec.toNat ((s.rod c.ph).sget 3)) 8))) = 0 then none else some (gatherResp c.p (BitVec.toNat ((s.rod c.ph).sget 4)) (s.bead.readWords (2 ^ 22 * c.ph + BitVec.toNat ((s.rod c.ph).sget 3)) 8) (s.tbl (gdTable (s.bead.readWords (2 ^ 22 * c.ph + BitVec.toNat ((s.rod c.ph).sget 3)) 8)))), old := __src.old, clash := __src.clash, spans := gatherSpans (BitVec.toNat ((s.rod c.ph).sget 4)) (s.bead.readWords (2 ^ 22 * c.ph + BitVec.toNat ((s.rod c.ph).sget 3)) 8) (s.tbl (gdTable (s.bead.readWords (2 ^ 22 * c.ph + BitVec.toNat ((s.rod c.ph).sget 3)) 8))), scope := __src.scope, taken := decide (gatherResp c.p (BitVec.toNat ((s.rod c.ph).sget 4)) (s.bead.readWords (2 ^ 22 * c.ph + BitVec.toNat ((s.rod c.ph).sget 3)) 8) (s.tbl (gdTable (s.bead.readWords (2 ^ 22 * c.ph + BitVec.toNat ((s.rod c.ph).sget 3)) 8))) ≠ 0) || decide (s.engineLoad (c.l / 16) < 64) } : RemOp)).done ≠ none)) :=
  ⟨by decide +kernel, by decide +kernel, by decide +kernel, by decide +kernel, by decide +kernel, by decide +kernel, by decide +kernel⟩

theorem witness_RodFencesAndCompletions :
    ((let s : State := (rodAt 0xC00000AB80000000 []).onRod 0 (fun r => { r with rem := [remOp 1 .put 0x1000 16, remOp 2 .get 0x2000 16, remOp 3 .put (2 ^ 53) 8, { remOp 4 .suppressed 0 0 with cnt := some 3 }], nextTag := 5 }); let c : Ctx := cx s; let cnt : Option Nat := some 5; (s.readyOp ↑(0 : Fin 512) = some c) ∧ (c.op = RodOp.fence 0 cnt) ∧ (0 ≤ 3)) ∧
    (let s : State := (rodAt 0x400000000000000 []).onRod 0 (fun r => { r with issue := .fencing 1 (some 5) [1, 2] }); let cnt : Option Nat := some 5; let tags : List Nat := [1, 2]; (s.live = true) ∧ ((s.rod (s.phys ↑(0 : Fin 512))).issue = IssueState.fencing 1 cnt tags) ∧ ((s.rod (s.phys ↑(0 : Fin 512))).mq = [] ∧ (s.rod (s.phys ↑(0 : Fin 512))).vq = [] ∧ (s.rod (s.phys ↑(0 : Fin 512))).cq = [] ∧ ∀ (o : RemOp), o ∈ (s.rod (s.phys ↑(0 : Fin 512))).rem → o.tag ∈ tags → o.holdsFence 1 = false))) ∧
    (let s : State := (rodAt 0x400000000000000 []).onRod 0 (fun r => { r with issue := .fencing 1 (some 5) [1, 2], mq := [⟨.nop, 0, 0, 0, none, false, true, [], []⟩] }); let cnt : Option Nat := some 5; let tags : List Nat := [1, 2]; (s.live = true) ∧ ((s.rod (s.phys ↑(0 : Fin 512))).issue = IssueState.fencing 1 cnt tags) ∧ (¬((s.rod (s.phys ↑(0 : Fin 512))).mq = [] ∧ (s.rod (s.phys ↑(0 : Fin 512))).vq = [] ∧ (s.rod (s.phys ↑(0 : Fin 512))).cq = [] ∧ ∀ (o : RemOp), o ∈ (s.rod (s.phys ↑(0 : Fin 512))).rem → o.tag ∈ tags → o.holdsFence 1 = false))) ∧
    ((let s : State := rodAt 0xA000C79820000000 [(3, 0x400), (6, 0x8000), (7, 0x9000)]; let c : Ctx := (s.nextOp 0).getD (cx s); let i : Instr := .mma 0; let cnt : Option Nat := some 3; (s.nextOp ↑(0 : Fin 512) = some c) ∧ (localCommand (0 : Fin 512) c.op = some i) ∧ (c.op.unit = some (AUnit.matrix, cnt)) ∧ (s.startsNow c = true)) ∧
    (let s : State := (rodAt 0x8C00000010000000 [(3, 0x400), (6, 0x8000), (7, 0x9000)]).onRod 0 (fun r => { r with vq := [⟨.nop, 0, 0, 0, none, false, true, [], []⟩] }); let c : Ctx := (s.nextOp 0).getD (cx s); let i : Instr := .accClr 0; let cnt : Option Nat := none; (s.nextOp ↑(0 : Fin 512) = some c) ∧ (localCommand (0 : Fin 512) c.op = some i) ∧ (c.op.unit = some (AUnit.vector, cnt)) ∧ (s.startsNow c = false))) ∧
    ((let s : State := (rodAt 0x400000000000000 []).onRod 0 (fun r => { r with cq := [⟨.nop, 0, 0, 0, some 3, true, false, [], []⟩, ⟨.nop, 1, 0, 0, none, false, true, [(0, 4)], []⟩] }); let e : AEntry := ⟨.nop, 0, 0, 0, some 3, true, false, [], []⟩; let q : List AEntry := [⟨.nop, 1, 0, 0, none, false, true, [(0, 4)], []⟩]; (s.live = true) ∧ (AUnit.carry ≠ AUnit.remote) ∧ ((s.rod (s.phys ↑(0 : Fin 512))).queueOf AUnit.carry = e :: q) ∧ (e.started = true ∨ e.supp = true)) ∧
    (let s : State := (rodAt 0x400000000000000 []).onRod 0 (fun r => { r with rem := [{ remOp 4 .suppressed 0 0 with cnt := some 3 }] }); let o : RemOp := { remOp 4 .suppressed 0 0 with cnt := some 3 }; (s.live = true) ∧ (List.find? (fun x => x.kind == RemKind.suppressed && !(s.rod (s.phys ↑(0 : Fin 512))).olderSame x) (s.rod (s.phys ↑(0 : Fin 512))).rem = some o))) ∧
    (let s : State := ((rodAt 0x400000000000000 []).onRod 0 (fun r => { r with vq := [⟨.vec 0x38 5 0 0 0 0 (some 2), 0, 0, 0, some 2, false, false, [], []⟩] })); let l : Nat := 0; let e : AEntry := ⟨.vec 0x38 5 0 0 0 0 (some 2), 0, 0, 0, some 2, false, false, [], []⟩; let q : List AEntry := []; let p : Nat := 0; ((s.rod (s.phys 0)).queueOf AUnit.vector = e :: q) ∧ (s.partOf 0 = some 0) ∧ (e.started = false) ∧ (e.supp = false) ∧ ((s.rod (s.phys 0)).raised = []) ∧ ((s.rod (s.phys 0)).reported = false) ∧ ((s.part 0).st = PState.running) ∧ (s.canStart { l := 0, ph := s.phys 0, p := 0, pc := e.pc, word := e.word, ord := e.ord, op := e.op, clash := e.clash } AUnit.vector = true)) ∧
    ((let s : State := ((rodAt 0x400000000000000 []).onRod 0 (fun r => { r with vq := [⟨.vec 0x38 5 0 0 0 0 (some 2), 0, 0, 0, some 2, false, false, [], []⟩], reported := true })); let l : Nat := 0; let e : AEntry := ⟨.vec 0x38 5 0 0 0 0 (some 2), 0, 0, 0, some 2, false, false, [], []⟩; let q : List AEntry := []; let p : Nat := 0; ((s.rod (s.phys 0)).queueOf AUnit.vector = e :: q) ∧ (s.partOf 0 = some 0) ∧ (e.started = false) ∧ (e.supp = false) ∧ ((s.rod (s.phys 0)).raised ≠ [] ∨ (s.rod (s.phys 0)).reported = true ∨ (s.part 0).st ≠ PState.running ∨ s.canStart { l := 0, ph := s.phys 0, p := 0, pc := e.pc, word := e.word, ord := e.ord, op := e.op, clash := e.clash } AUnit.vector = false)) ∧
    (let s : State := (rodAt 0x400000000000000 []).onRod 0 (fun r => { r with rem := [{ remOp 2 (.get) 0x1000 4 with done := some 0, old := 0xFFFFFFF7, data := [1, 2, 3, 4] }] }); let o : RemOp := { remOp 2 (.get) 0x1000 4 with done := some 0, old := 0xFFFFFFF7, data := [1, 2, 3, 4] }; (s.live = true) ∧ (List.find? (fun x => decide (x.tag = 2)) (s.rod (s.phys ↑(0 : Fin 512))).rem = some o) ∧ (o.done = some 0) ∧ (o.kind = RemKind.get))) ∧
    ((let s : State := (rodAt 0x400000000000000 []).onRod 0 (fun r => { r with rem := [{ remOp 2 (.put) 0x1000 4 with done := some 0, old := 0xFFFFFFF7, data := [1, 2, 3, 4] }] }); let o : RemOp := { remOp 2 (.put) 0x1000 4 with done := some 0, old := 0xFFFFFFF7, data := [1, 2, 3, 4] }; (s.live = true) ∧ (List.find? (fun x => decide (x.tag = 2)) (s.rod (s.phys ↑(0 : Fin 512))).rem = some o) ∧ (o.done = some 0) ∧ (o.kind = RemKind.put)) ∧
    (let s : State := (rodAt 0x400000000000000 []).onRod 0 (fun r => { r with rem := [{ remOp 2 (.taddR) 0x1000 4 with done := some 0, old := 0xFFFFFFF7, data := [1, 2, 3, 4] }] }); let o : RemOp := { remOp 2 (.taddR) 0x1000 4 with done := some 0, old := 0xFFFFFFF7, data := [1, 2, 3, 4] }; (s.live = true) ∧ (List.find? (fun x => decide (x.tag = 2)) (s.rod (s.phys ↑(0 : Fin 512))).rem = some o) ∧ (o.done = some 0) ∧ (o.kind = RemKind.taddR))) :=
  ⟨by decide +kernel, by decide +kernel, by decide +kernel, by decide +kernel, by decide +kernel, by decide +kernel, by decide +kernel⟩

theorem witness_RodFencesAndCompletions_part2 :
    ((let s : State := (rodAt 0x400000000000000 []).onRod 0 (fun r => { r with rem := [{ remOp 2 (.get) 0x1000 4 with done := some 0, old := 0xFFFFFFF7, data := [1, 2, 3, 4] }] }); let d : Nat := 0; let o : RemOp := { remOp 2 (.get) 0x1000 4 with done := some 0, old := 0xFFFFFFF7, data := [1, 2, 3, 4] }; let n : Nat := d + 1; (s.live = true) ∧ (List.find? (fun x => decide (x.tag = 2)) (s.rod (s.phys ↑(0 : Fin 512))).rem = some o) ∧ (o.done = some 0) ∧ (n ≠ 0)) ∧
    (let s : State := (rodAt 0x400000000000000 []).onRod 0 (fun r => { r with rem := [{ remOp 2 (.atom .add 0) 0x1000 4 with done := some 0, old := 0xFFFFFFF7, data := [1, 2, 3, 4] }] }); let o : RemOp := { remOp 2 (.atom .add 0) 0x1000 4 with done := some 0, old := 0xFFFFFFF7, data := [1, 2, 3, 4] }; (s.live = true) ∧ (List.find? (fun x => decide (x.tag = 2)) (s.rod (s.phys ↑(0 : Fin 512))).rem = some o) ∧ (o.done = some 0) ∧ (o.kind = RemKind.atom AtomOp.add 0))) ∧
    ((let s : State := ((rodAt 0x400000000000000 []).onRod 0 (fun r => { r with rem := [remOp 2 .put 0x1000 16] })); let o : RemOp := remOp 2 .put 0x1000 16; (s.live = true) ∧ (List.find? (fun x => decide (x.tag = 2)) (s.rod (s.phys ↑(0 : Fin 512))).rem = some o) ∧ (o.kind.toTarget = true) ∧ (s.stalled = false)) ∧
    (let s : State := ((rodAt 0x400000000000000 []).onRod 0 (fun r => { r with rem := [remOp 2 .gather 0x1000 16] })); let o : RemOp := remOp 2 .gather 0x1000 16; (s.live = true) ∧ (List.find? (fun x => decide (x.tag = 2)) (s.rod (s.phys ↑(0 : Fin 512))).rem = some o) ∧ (o.kind.toTarget = false ∨ s.stalled = true))) :=
  ⟨by decide +kernel, by decide +kernel⟩

theorem witness_RodExceptionReport :
    ((let s : State := ((rodAt 0x400000000000000 []).onRod 0 (fun r => { r with raised := [⟨9, 16, 77, 3, 0, 0⟩] })); let e : Raised := ⟨9, 16, 77, 3, 0, 0⟩; (s.partOf ↑(0 : Fin 512) = some 0) ∧ ((s.rod (s.phys ↑(0 : Fin 512))).reported = false) ∧ (oldestRaised (s.rod (s.phys ↑(0 : Fin 512))).raised = some e) ∧ ((s.part 0).st = PState.running)) ∧
    (let s : State := ((rodAt 0x400000000000000 []).onRod 0 (fun r => { r with raised := [⟨9, 16, 77, 3, 0, 0⟩] })); let e : Raised := ⟨9, 16, 77, 3, 0, 0⟩; (s.partOf ↑(0 : Fin 512) = some 0) ∧ ((s.rod (s.phys ↑(0 : Fin 512))).reported = false) ∧ (oldestRaised (s.rod (s.phys ↑(0 : Fin 512))).raised = some e) ∧ (BitVec.toNat (s.rd 196624 - s.rd 196632) ≠ 2 ^ s.rf 196616 4 0)) ∧
    (let s : State := rodAt 0x400000000000000 []|>.onPart 0 (fun x => { x with st := .held }); (s.canIssue ↑(0 : Fin 512) = none) ∧ ((s.rod (s.phys ↑(0 : Fin 512))).raised = [] ∨ (s.rod (s.phys ↑(0 : Fin 512))).reported = true))) ∧
    ((let s : State := (rodAt 0x400000000000000 []).onRod 0 (fun r => { r with pc := 1024 }); let c : Ctx := (s.canIssue 0).getD (cx s); (s.canIssue ↑(0 : Fin 512) = some c) ∧ ((s.rod (s.phys ↑(0 : Fin 512))).raised = []) ∧ (s.fetch c = none)) ∧
    (let s : State := rodAt 0x0 []; let c : Ctx := (s.canIssue 0).getD (cx s); let w : W64 := s.fetch c |>.getD 0; (s.canIssue ↑(0 : Fin 512) = some c) ∧ ((s.rod (s.phys ↑(0 : Fin 512))).raised = []) ∧ (s.fetch c = some w) ∧ (RodInstr.decode w = none))) ∧
    (let s : State := ((rodAt 0x400000000000000 []).onRod 0 (fun r => { r with raised := [⟨9, 16, 77, 3, 0, 0⟩] })); let e : Raised := ⟨9, 16, 77, 3, 0, 0⟩; (s.partOf ↑(0 : Fin 512) = some 0) ∧ ((s.rod (s.phys ↑(0 : Fin 512))).reported = false) ∧ (oldestRaised (s.rod (s.phys ↑(0 : Fin 512))).raised = some e) ∧ (1 ≠ s.phys ↑(0 : Fin 512))) :=
  ⟨by decide +kernel, by decide +kernel, by decide +kernel⟩

theorem witness_RemoteOperationsAtTheirTargets :
    (let s : State := { serving.setReg 0x600800 0x2000 |>.setReg 0x600808 0x1000 |>.setReg 0x600810 0x00010F04 |>.onPort 3 (fun x => { x with inbox := [⟨mkFlit 1 2 0 9 16 0 0 0x2000 0 0 [1, 2, 3, 4, 5, 6, 7, 8, 9, 10, 11, 12, 13, 14, 15, 16], 2, 0, 0⟩] }) with hbm := [(0x2001, 4)] }; let s1 : State := s.onPort 3 (fun x => { x.owe (⟨mkFlit 1 2 0 9 16 0 0 0x2000 0 0 [1, 2, 3, 4, 5, 6, 7, 8, 9, 10, 11, 12, 13, 14, 15, 16], 2, 0, 0⟩ : PeerReq).flit with inbox := [] }); let r : PeerReq := ⟨mkFlit 1 2 0 9 16 0 0 0x2000 0 0 [1, 2, 3, 4, 5, 6, 7, 8, 9, 10, 11, 12, 13, 14, 15, 16], 2, 0, 0⟩; let data : List Byte := (match s1.readAt (s1.peerTarget r.flit.addr r.flit.len) r.flit.len with | .ok d => d.1 | _ => []); let bad : List (Nat × Nat) := (match s1.readAt (s1.peerTarget r.flit.addr r.flit.len) r.flit.len with | .ok d => d.2 | _ => []); (s1.readAt (s1.peerTarget r.flit.addr r.flit.len) r.flit.len = Except.ok (data, bad)) ∧ ((s.takeRequest ↑(3 : Fin 8) fun op => op == 1) = some (r, s1)) ∧ (s.live = true) ∧ (s1.peerCheck r r.flit.len 8 = 0)) ∧
    ((let s : State := { (rodAt 0x400000000000000 []).onRod 0 (fun r => { r with rem := [remOp 2 .get (2 ^ 23 + 0x40) 4] }) with bead := (2 ^ 22 + 0x40, 5) :: (2 ^ 22 + 0x41, 6) :: [] }; let o : RemOp := remOp 2 .get (2 ^ 23 + 0x40) 4; ((s.arriving ↑(0 : Fin 512) 2 fun x => x == RemKind.get) = some (0, o)) ∧ (s.target (some 0) o.addr o.len = Target.bead 1 64)) ∧
    (let s : State := { (rodAt 0x400000000000000 []).onRod 0 (fun r => { r with rem := [{ remOp 2 .put (2 ^ 23 + 0x40) 4 with data := [1, 2, 3, 4] }] }) with bead := (2 ^ 22 + 0x40, 5) :: (2 ^ 22 + 0x41, 6) :: [] }; let o : RemOp := { remOp 2 .put (2 ^ 23 + 0x40) 4 with data := [1, 2, 3, 4] }; ((s.arriving ↑(0 : Fin 512) 2 fun x => x == RemKind.put) = some (0, o)) ∧ (s.target (some 0) o.addr o.len = Target.bead 1 64) ∧ (s.partOf 1 = some 0) ∧ (64 + o.data.length ≤ 4128768)) ∧
    (let s : State := { (rodAt 0x400000000000000 []).onRod 0 (fun r => { r with rem := [{ remOp 2 .put (20 * 2 ^ 23 + 0x40) 4 with data := [1, 2, 3, 4] }] }) with bead := (2 ^ 22 + 0x40, 5) :: (2 ^ 22 + 0x41, 6) :: [] }; let o : RemOp := { remOp 2 .put (20 * 2 ^ 23 + 0x40) 4 with data := [1, 2, 3, 4] }; ((s.arriving ↑(0 : Fin 512) 2 fun x => x == RemKind.put) = some (0, o)) ∧ (s.target (some 0) o.addr o.len = Target.bead 20 64) ∧ (s.partOf 20 ≠ some 0))) ∧
    ((let s : State := (ready.setPart 0 { Part.init with st := .running }).onRod 0 (fun r => { r with rem := [{ remOp 2 .get (2 ^ 53 + 67108864) 32 with data := List.replicate 32 1 }] }); let o : RemOp := { remOp 2 .get (2 ^ 53 + 67108864) 32 with data := List.replicate 32 1 }; (s.target (some 0) o.addr o.len = Target.range 0 67108864) ∧ ((s.arriving ↑(0 : Fin 512) 2 fun x => x == RemKind.get) = some (0, o)) ∧ (s.rangeResp 0 false (pageSpans 67108864 o.len) ≠ 0)) ∧
    (let s : State := (ready.setPart 0 { Part.init with st := .running }).onRod 0 (fun r => { r with rem := [{ remOp 2 .put (2 ^ 53 + 67108864) 32 with data := List.replicate 32 1 }] }); let o : RemOp := { remOp 2 .put (2 ^ 53 + 67108864) 32 with data := List.replicate 32 1 }; (s.target (some 0) o.addr o.len = Target.range 0 67108864) ∧ ((s.arriving ↑(0 : Fin 512) 2 fun x => x == RemKind.put) = some (0, o)) ∧ (s.rangeResp 0 true (pageSpans 67108864 o.data.length) ≠ 0))) ∧
    ((let s : State := { (rodAt 0x400000000000000 []).onRod 0 (fun r => { r with rem := [remOp 2 (.atom .add 1) (2 ^ 23 + 0x40) 8] }) with bead := (2 ^ 22 + 0x40, 5) :: (2 ^ 22 + 0x41, 6) :: [] }; let o : RemOp := remOp 2 (.atom .add 1) (2 ^ 23 + 0x40) 8; ((s.arriving ↑(0 : Fin 512) 2 fun x => x == RemKind.atom AtomOp.add 1) = some (0, o)) ∧ (s.target (some 0) o.addr (atomSize 1) = Target.bead 1 64) ∧ (s.partOf 1 = some 0) ∧ (64 + atomSize 1 ≤ 4128768) ∧ (s.beadParts (s.phys 1) 64 (atomSize 1) = [])) ∧
    (let s : State := { (rodAt 0x400000000000000 []).onRod 0 (fun r => { r with rem := [remOp 2 .taddR (2 ^ 22 + 4 * 15) 4] }) with bead := (2 ^ 22 + 0x40, 5) :: (2 ^ 22 + 0x41, 6) :: [] }; let o : RemOp := remOp 2 .taddR (2 ^ 22 + 4 * 15) 4; ((s.arriving ↑(0 : Fin 512) 2 fun x => x == RemKind.taddR) = some (0, o)) ∧ (s.target (some 0) o.addr 4 = Target.counter 0 15))) ∧
    ((let s : State := { serving.setReg 0x600800 0x2000 |>.setReg 0x600808 0x1000 |>.setReg 0x600810 0x00010F04 |>.onPort 3 (fun x => { x with inbox := [⟨mkFlit 1 2 0 9 16 0 0 0x9000 0 0 [1, 2, 3, 4, 5, 6, 7, 8, 9, 10, 11, 12, 13, 14, 15, 16], 2, 0, 0⟩] }) with hbm := [(0x2001, 4)] }; let s1 : State := s.onPort 3 (fun x => { x.owe (⟨mkFlit 1 2 0 9 16 0 0 0x9000 0 0 [1, 2, 3, 4, 5, 6, 7, 8, 9, 10, 11, 12, 13, 14, 15, 16], 2, 0, 0⟩ : PeerReq).flit with inbox := [] }); let r : PeerReq := ⟨mkFlit 1 2 0 9 16 0 0 0x9000 0 0 [1, 2, 3, 4, 5, 6, 7, 8, 9, 10, 11, 12, 13, 14, 15, 16], 2, 0, 0⟩; ((s.takeRequest ↑(3 : Fin 8) fun op => op == 1) = some (r, s1)) ∧ (s.live = true) ∧ (s1.peerCheck r r.flit.len 8 ≠ 0)) ∧
    (let s : State := { serving.setReg 0x600800 0x2000 |>.setReg 0x600808 0x1000 |>.setReg 0x600810 0x00010F04 |>.onPort 3 (fun x => { x with inbox := [⟨mkFlit 2 2 0 9 16 0 0 0x2000 0 0 [1, 2, 3, 4, 5, 6, 7, 8, 9, 10, 11, 12, 13, 14, 15, 16], 2, 0, 0⟩] }) with hbm := [(0x2001, 4)] }; let s1 : State := s.onPort 3 (fun x => { x.owe (⟨mkFlit 2 2 0 9 16 0 0 0x2000 0 0 [1, 2, 3, 4, 5, 6, 7, 8, 9, 10, 11, 12, 13, 14, 15, 16], 2, 0, 0⟩ : PeerReq).flit with inbox := [] }); let r : PeerReq := ⟨mkFlit 2 2 0 9 16 0 0 0x2000 0 0 [1, 2, 3, 4, 5, 6, 7, 8, 9, 10, 11, 12, 13, 14, 15, 16], 2, 0, 0⟩; ((s.takeRequest ↑(3 : Fin 8) fun op => op == 2) = some (r, s1)) ∧ (s.live = true) ∧ (s1.peerCheck r r.flit.len 9 = 0))) ∧
    ((let s : State := { serving.setReg 0x600800 0x2000 |>.setReg 0x600808 0x1000 |>.setReg 0x600810 0x00010F04 |>.onPort 3 (fun x => { x with inbox := [⟨mkFlit 2 2 0 9 16 0 0 0x9000 0 0 [1, 2, 3, 4, 5, 6, 7, 8, 9, 10, 11, 12, 13, 14, 15, 16], 2, 0, 0⟩] }) with hbm := [(0x2001, 4)] }; let s1 : State := s.onPort 3 (fun x => { x.owe (⟨mkFlit 2 2 0 9 16 0 0 0x9000 0 0 [1, 2, 3, 4, 5, 6, 7, 8, 9, 10, 11, 12, 13, 14, 15, 16], 2, 0, 0⟩ : PeerReq).flit with inbox := [] }); let r : PeerReq := ⟨mkFlit 2 2 0 9 16 0 0 0x9000 0 0 [1, 2, 3, 4, 5, 6, 7, 8, 9, 10, 11, 12, 13, 14, 15, 16], 2, 0, 0⟩; ((s.takeRequest ↑(3 : Fin 8) fun op => op == 2) = some (r, s1)) ∧ (s.live = true) ∧ (s1.peerCheck r r.flit.len 9 ≠ 0)) ∧
    (let s : State := serving.setReg 0x600800 0 |>.setReg 0x600808 0x1000000 |>.setReg 0x600810 0 |>.onPort 3 (fun x => { x with inbox := [⟨mkFlit 7 2 0 9 4 0 0 281474989293580 5 0 [], 2, 0, 0⟩] }); let s1 : State := s.onPort 3 (fun x => { x.owe (⟨mkFlit 7 2 0 9 4 0 0 281474989293580 5 0 [], 2, 0, 0⟩ : PeerReq).flit with inbox := [] }); let r : PeerReq := ⟨mkFlit 7 2 0 9 4 0 0 281474989293580 5 0 [], 2, 0, 0⟩; ((s.takeRequest ↑(3 : Fin 8) fun op => op == 7) = some (r, s1)) ∧ (s.live = true) ∧ (s1.peerTarget r.flit.addr 4 = Target.counter 1 3))) :=
  ⟨⟨rfl, by decide +kernel⟩, by decide +kernel, by decide +kernel, by decide +kernel, by decide +kernel, by decide +kernel⟩

theorem witness_PartitionCommands :
    (((ready.live = true) ∧ ((ready.part ↑(0 : Fin 16)).st = PState.off) ∧ (ready.rf 65568 3 0 = 12) ∧ (ready.flt.noCreate = false) ∧ (BitVec.toNat (ready.rd (pReg ↑(0 : Fin 16) 8)) ≠ 0) ∧ (BitVec.toNat (ready.rd (pReg ↑(0 : Fin 16) 8)) < 2 ^ (ready.design.rods / 8)) ∧ (¬∃ k, k < 16 ∧ k ≠ ↑(0 : Fin 16) ∧ (ready.part k).st ≠ PState.off ∧ ready.rd (pReg k 8) &&& ready.rd (pReg ↑(0 : Fin 16) 8) ≠ (0 : W64)) ∧ (0 ∈ ready.rodsOf ↑(0 : Fin 16)) ∧ (0 < 2 ^ 22)) ∧
    (let s : State := ready.setReg 0x10020 0; (s.live = true) ∧ ((s.part ↑(0 : Fin 16)).st ≠ PState.off ∨ s.rf 65568 3 0 ≠ 12 ∨ s.flt.noCreate = true))) ∧
    (let s : State := ready.setReg (pReg 0 8) 0; (s.live = true) ∧ ((s.part ↑(0 : Fin 16)).st = PState.off) ∧ (s.rf 65568 3 0 = 12) ∧ (s.flt.noCreate = false) ∧ (BitVec.toNat (s.rd (pReg ↑(0 : Fin 16) 8)) = 0 ∨ 2 ^ (s.design.rods / 8) ≤ BitVec.toNat (s.rd (pReg ↑(0 : Fin 16) 8)) ∨ ∃ k, k < 16 ∧ k ≠ ↑(0 : Fin 16) ∧ (s.part k).st ≠ PState.off ∧ s.rd (pReg k 8) &&& s.rd (pReg ↑(0 : Fin 16) 8) ≠ (0 : W64))) ∧
    ((let s : State := (((ready.setReg (pReg 0 0x38) 1).hbmWrite64 0x4000000 0x4000000000000005)).setPart 0 { Part.init with st := .loading, load := { Load.init with state := .done } }; (s.live = true) ∧ (s.stalled = false) ∧ ((s.part ↑(0 : Fin 16)).st = PState.loading) ∧ ((s.part ↑(0 : Fin 16)).load.state = LoadState.done) ∧ (s.launchOk ↑(0 : Fin 16) = true) ∧ (List.foldl (fun n e => n + shBytes e.words) 0 (List.filter (fun e => shClass e.words == 0) (s.part ↑(0 : Fin 16)).load.shards) ≤ s.rf (pReg ↑(0 : Fin 16) 24) 18 0 * 2 ^ 21) ∧ (¬∃ f, f ∈ s.flt.noFrames ∧ BitVec.getLsbD (s.rd (pReg ↑(0 : Fin 16) 8)) f = true) ∧ (0 ∈ s.rodsOf ↑(0 : Fin 16))) ∧
    ((ready.live = true) ∧ (ready.stalled = false) ∧ ((ready.part ↑(0 : Fin 16)).st ≠ PState.loading))) ∧
    ((let s : State := (ready).setPart 0 { Part.init with st := .loading }; (s.live = true) ∧ (s.stalled = false) ∧ ((s.part ↑(0 : Fin 16)).st = PState.loading) ∧ ((s.part ↑(0 : Fin 16)).load.state ≠ LoadState.done)) ∧
    (let s : State := (ready).setPart 0 { Part.init with st := .loading, load := { Load.init with state := .done } }; (s.live = true) ∧ (s.stalled = false) ∧ ((s.part ↑(0 : Fin 16)).st = PState.loading) ∧ ((s.part ↑(0 : Fin 16)).load.state = LoadState.done) ∧ (s.launchOk ↑(0 : Fin 16) = false))) ∧
    ((let s : State := (((ready.setReg (pReg 0 0x38) 1).hbmWrite64 0x4000000 0x4000000000000005)).setPart 0 { Part.init with st := .loading, load := { Load.init with state := .done, shards := [⟨[0, 0, 0x400000, 0], 0, true, true, 0⟩] } }; (s.live = true) ∧ (s.stalled = false) ∧ ((s.part ↑(0 : Fin 16)).st = PState.loading) ∧ ((s.part ↑(0 : Fin 16)).load.state = LoadState.done) ∧ (s.launchOk ↑(0 : Fin 16) = true) ∧ (List.foldl (fun n e => n + shBytes e.words) 0 (List.filter (fun e => shClass e.words == 0) (s.part ↑(0 : Fin 16)).load.shards) > s.rf (pReg ↑(0 : Fin 16) 24) 18 0 * 2 ^ 21)) ∧
    (let s : State := ({ (((ready.setReg (pReg 0 0x38) 1).hbmWrite64 0x4000000 0x4000000000000005).setReg (pReg 0 0x18) 1) with flt := { Faults.init with noFrames := [0] } }).setPart 0 { Part.init with st := .loading, load := { Load.init with state := .done } }; (s.live = true) ∧ (s.stalled = false) ∧ ((s.part ↑(0 : Fin 16)).st = PState.loading) ∧ ((s.part ↑(0 : Fin 16)).load.state = LoadState.done) ∧ (s.launchOk ↑(0 : Fin 16) = true) ∧ (List.foldl (fun n e => n + shBytes e.words) 0 (List.filter (fun e => shClass e.words == 0) (s.part ↑(0 : Fin 16)).load.shards) ≤ s.rf (pReg ↑(0 : Fin 16) 24) 18 0 * 2 ^ 21) ∧ (∃ f, f ∈ s.flt.noFrames ∧ BitVec.getLsbD (s.rd (pReg ↑(0 : Fin 16) 8)) f = true))) ∧
    (((ready.live = true) ∧ (ready.stalled = false) ∧ ((ready.part ↑(0 : Fin 16)).st ≠ PState.held ∨ ready.sec.lifecycle = 2 ∧ (ready.part ↑(0 : Fin 16)).faultCause = 9)) ∧
    (let s : State := (ready).setPart 0 { Part.init with st := .held, hold := 4, faultCause := 8 }; (s.live = true) ∧ (s.stalled = false) ∧ (¬((s.part ↑(0 : Fin 16)).st ≠ PState.held ∨ s.sec.lifecycle = 2 ∧ (s.part ↑(0 : Fin 16)).faultCause = 9))) ∧
    (let s : State := ready.setReg 0x30108 1; (s.live = true) ∧ (s.stalled = true)) ∧
    (let s : State := (ready.onRod 0 (fun r => { r with s := [(3, 4)] })).setPart 0 { Part.init with st := .held }; (s.live = true) ∧ ((s.part ↑(0 : Fin 16)).st = PState.running ∨ (s.part ↑(0 : Fin 16)).st = PState.held))) ∧
    ((let s : State := (ready.onRod 0 (fun r => { r with s := [(3, 4)] })).setPart 0 { Part.init with st := .resetting }; (s.live = true) ∧ ((s.part ↑(0 : Fin 16)).st = PState.resetting) ∧ (s.flt.pendingRods = [])) ∧
    (let s : State := (ready.onRod 0 (fun r => { r with s := [(3, 4)] })).setPart 0 { Part.init with st := .off }; (s.live = true) ∧ ((s.part ↑(0 : Fin 16)).st ≠ PState.running) ∧ ((s.part ↑(0 : Fin 16)).st ≠ PState.held)) ∧
    (let s : State := (ready.onRod 0 (fun r => { r with s := [(3, 4)] })).setPart 0 { Part.init with st := .off }; (s.live = true) ∧ ((s.part ↑(0 : Fin 16)).st ≠ PState.loading) ∧ ((s.part ↑(0 : Fin 16)).st ≠ PState.held)) ∧
    (let s : State := (ready.onRod 0 (fun r => { r with s := [(3, 4)] })).setPart 0 { Part.init with st := .held }; (s.live = true) ∧ ((s.part ↑(0 : Fin 16)).st = PState.loading ∨ (s.part ↑(0 : Fin 16)).st = PState.held))) :=
  ⟨by decide +kernel, by decide +kernel, by decide +kernel, by decide +kernel, by decide +kernel, by decide +kernel, by decide +kernel⟩

theorem witness_StepBuildSealAndLaunch :
    (((ready.part ↑(0 : Fin 16)).st ≠ PState.running ∨ (ready.part ↑(0 : Fin 16)).build ≠ BuildState.idle ∨ ready.live = false ∨ ready.stalled = true) ∧
    (let s : State := (ready).setPart 0 { Part.init with st := .running, step := 7 }; ((s.part ↑(0 : Fin 16)).st = PState.running) ∧ ((s.part ↑(0 : Fin 16)).build = BuildState.idle) ∧ (s.live = true) ∧ (s.stalled = false)) ∧
    (let s : State := (ready).setPart 0 { Part.init with st := .running, step := 7, build := .building ⟨7, 0, [], [], 0, 100, 0, [], 0⟩ }; let d : Desc := ⟨7, 0, [], [], 0, 100, 0, [], 0⟩; (s.live = true) ∧ ((s.part ↑(0 : Fin 16)).build = BuildState.building d) ∧ (d.rows = [])) ∧
    (let s : State := (ready).setPart 0 { Part.init with st := .running, step := 7, build := .building ⟨7, 1, [⟨0, true, 3, 4, 5, 0, 1, 0xFFFF⟩], [], 0, 100, 0, [], 0⟩ }; let d : Desc := ⟨7, 1, [⟨0, true, 3, 4, 5, 0, 1, 0xFFFF⟩], [], 0, 100, 0, [], 0⟩; (s.live = true) ∧ ((s.part ↑(0 : Fin 16)).build = BuildState.building d) ∧ (d.rows ≠ []))) ∧
    ((let s : State := ((ready.onRod 0 (fun r => { r with s := [(3, 4)], pc := 16, rowMap := [1] }))).setPart 0 { Part.init with step := 7, build := .built ⟨7, 1, [⟨0, true, 3, 4, 5, 0, 1, 0xFFFF⟩], [], 0, 100, 0, [], 0⟩, st := .held }; let d0 : Desc := ⟨7, 1, [⟨0, true, 3, 4, 5, 0, 1, 0xFFFF⟩], [], 0, 100, 0, [], 0⟩; ((s.part ↑(0 : Fin 16)).build = BuildState.built d0) ∧ (s.live = false ∨ s.stalled = true ∨ (s.part ↑(0 : Fin 16)).st ≠ PState.running ∨ (s.part ↑(0 : Fin 16)).opened ≠ none)) ∧
    (let s : State := ((ready.onRod 0 (fun r => { r with s := [(3, 4)], pc := 16, rowMap := [1] }))).setPart 0 { Part.init with step := 7, build := .built ⟨7, 1, [⟨0, true, 3, 4, 5, 0, 1, 0xFFFF⟩], [], 0, 100, 0, [], 0⟩, st := .running, refetch := some (0, 5) }; let d0 : Desc := ⟨7, 1, [⟨0, true, 3, 4, 5, 0, 1, 0xFFFF⟩], [], 0, 100, 0, [], 0⟩; ((s.part ↑(0 : Fin 16)).build = BuildState.built d0) ∧ (s.live = true) ∧ (s.stalled = false) ∧ ((s.part ↑(0 : Fin 16)).st = PState.running) ∧ ((s.part ↑(0 : Fin 16)).opened = none) ∧ ((s.part ↑(0 : Fin 16)).refetch ≠ none))) ∧
    ((let s : State := ((ready.onRod 0 (fun r => { r with s := [(3, 4)], pc := 16, rowMap := [1] }))).setPart 0 { Part.init with step := 7, build := .built ⟨7, 1, [⟨0, true, 3, 4, 5, 0, 1, 0xFFFF⟩], [], 0, 100, 0, [], 0⟩, st := .running }; let d0 : Desc := ⟨7, 1, [⟨0, true, 3, 4, 5, 0, 1, 0xFFFF⟩], [], 0, 100, 0, [], 0⟩; ((s.part ↑(0 : Fin 16)).build = BuildState.built d0) ∧ (s.live = true) ∧ (s.stalled = false) ∧ ((s.part ↑(0 : Fin 16)).st = PState.running) ∧ ((s.part ↑(0 : Fin 16)).opened = none) ∧ ((s.part ↑(0 : Fin 16)).refetch = none)) ∧
    (let s : State := ({ ready with time := 1000 }).setPart 0 { Part.init with st := .running, boundary := 1000, groups := [0, 1, 2, 7] }; (s.live = true) ∧ (s.stalled = false) ∧ (BitVec.toNat s.time < BitVec.toNat (s.part ↑(0 : Fin 16)).boundary + 15 * ↑(2 : Fin 8))) ∧
    (let s : State := ({ ready with time := 1000 }).setPart 0 { Part.init with st := .running, boundary := 1000, groups := [0, 1, 2, 7] }; (s.live = true) ∧ (s.stalled = false) ∧ (BitVec.toNat (s.part ↑(0 : Fin 16)).boundary + 15 * ↑(0 : Fin 8) ≤ BitVec.toNat s.time))) :=
  ⟨by decide +kernel, by decide +kernel, by decide +kernel⟩

theorem witness_StepEndJournalAndTimeout :
    (let s : State := ((ready.onRod 0 (fun r => { r with rem := [remOp 2 .sampleEmpty 0 0] }))).setPart 0 { Part.init with st := .running, opened := some ⟨7, 1, [⟨0, true, 3, 4, 5, 0, 1, 0xFFFF⟩], [], 0, 100, 0, [], 0⟩ }; let o : RemOp := remOp 2 .sampleEmpty 0 0; let d : Desc := ⟨7, 1, [⟨0, true, 3, 4, 5, 0, 1, 0xFFFF⟩], [], 0, 100, 0, [], 0⟩; let x : Nat := 0; (s.live = true) ∧ (s.partOf ↑(0 : Fin 512) = some 0) ∧ (List.find? (fun x => x.kind == RemKind.sample || x.kind == RemKind.sampleEmpty) (s.rod (s.phys ↑(0 : Fin 512))).rem = some o) ∧ ((s.rod (s.phys ↑(0 : Fin 512))).olderTouches o = false) ∧ ((s.part 0).opened = some d) ∧ (o.kind = RemKind.sampleEmpty) ∧ (0 < 2 ^ 22 * s.phys ↑(0 : Fin 512) + 4129280 ∨ 2 ^ 22 * s.phys ↑(0 : Fin 512) + 4129304 ≤ 0)) ∧
    ((let s : State := ((ready.onRod 0 (fun r => { r with rem := [remOp 2 .sampleEmpty 0 0] }))).setPart 0 { Part.init with st := .running }; let o : RemOp := remOp 2 .sampleEmpty 0 0; (s.live = true) ∧ (s.partOf ↑(0 : Fin 512) = some 0) ∧ (List.find? (fun x => x.kind == RemKind.sample || x.kind == RemKind.sampleEmpty) (s.rod (s.phys ↑(0 : Fin 512))).rem = some o) ∧ ((s.rod (s.phys ↑(0 : Fin 512))).olderTouches o = false) ∧ ((s.part 0).opened = none ∨ o.kind = RemKind.sample ∧ BitVec.toNat o.b > 4096)) ∧
    (let s : State := ((ready.onRod 0 (fun r => { r with rem := [{ remOp 1 .get 0x9000 16 with spans := [(0x3F0200, 24)] }, { remOp 2 .sampleEmpty 0 0 with spans := [(0x3F0200, 24)] }] }))).setPart 0 { Part.init with st := .running }; let o : RemOp := { remOp 2 .sampleEmpty 0 0 with spans := [(0x3F0200, 24)] }; (s.live = true) ∧ (s.partOf ↑(0 : Fin 512) = some 0) ∧ (List.find? (fun x => x.kind == RemKind.sample || x.kind == RemKind.sampleEmpty) (s.rod (s.phys ↑(0 : Fin 512))).rem = some o) ∧ ((s.rod (s.phys ↑(0 : Fin 512))).olderTouches o = true))) ∧
    ((let s : State := (ready).setPart 0 { Part.init with st := .running, opened := some ⟨7, 1, [⟨0, true, 3, 4, 5, 0, 1, 0xFFFF⟩], [], 0, 100, 0, [], 0⟩ }; let d : Desc := ⟨7, 1, [⟨0, true, 3, 4, 5, 0, 1, 0xFFFF⟩], [], 0, 100, 0, [], 0⟩; (s.live = true) ∧ (s.stalled = false) ∧ ((s.part ↑(0 : Fin 16)).st = PState.running) ∧ ((s.part ↑(0 : Fin 16)).opened = some d) ∧ ((s.part ↑(0 : Fin 16)).ended = false ∨ (s.part ↑(0 : Fin 16)).record ≠ none)) ∧
    (let s : State := (ready).setPart 0 { Part.init with st := .running, opened := some ⟨7, 1, [⟨0, true, 3, 4, 5, 0, 1, 0xFFFF⟩], [], 0, 100, 0, [], 0⟩, ended := true }; let d : Desc := ⟨7, 1, [⟨0, true, 3, 4, 5, 0, 1, 0xFFFF⟩], [], 0, 100, 0, [], 0⟩; (s.live = true) ∧ (s.stalled = false) ∧ ((s.part ↑(0 : Fin 16)).st = PState.running) ∧ ((s.part ↑(0 : Fin 16)).opened = some d) ∧ ((s.part ↑(0 : Fin 16)).ended = true) ∧ ((s.part ↑(0 : Fin 16)).record = none))) ∧
    (let s : State := (ready.setSlot 4 { Slot.init with w0 := 0x3000000000000000 }).setPart 0 { Part.init with st := .running, opened := some ⟨7, 1, [⟨0, true, 3, 4, 5, 0, 1, 0xFFFF⟩], [], 0, 100, 0, [], 0⟩, ended := true, record := some ⟨7, 0, [⟨0, 4, 3, 9, 0, []⟩]⟩ }; let d : Desc := ⟨7, 1, [⟨0, true, 3, 4, 5, 0, 1, 0xFFFF⟩], [], 0, 100, 0, [], 0⟩; let r : JRecord := ⟨7, 0, [⟨0, 4, 3, 9, 0, []⟩]⟩; (s.live = true) ∧ (s.stalled = false) ∧ ((s.part ↑(0 : Fin 16)).st = PState.running) ∧ ((s.part ↑(0 : Fin 16)).opened = some d) ∧ ((s.part ↑(0 : Fin 16)).record = some r) ∧ (r.step = d.step) ∧ (s.flt.pendingRods = [])) ∧
    ((let s : State := ({ ready with time := 1000000000 }.setReg 0x30028 500).setPart 0 { Part.init with st := .running, opened := some ⟨7, 1, [⟨0, true, 3, 4, 5, 0, 1, 0xFFFF⟩], [], 0, 100, 0, [], 0⟩ }; (s.live = true) ∧ (s.stalled = false) ∧ ((s.part ↑(0 : Fin 16)).st = PState.running) ∧ ((s.part ↑(0 : Fin 16)).opened ≠ none ∧ (s.part ↑(0 : Fin 16)).ended = false ∧ BitVec.toNat (s.part ↑(0 : Fin 16)).wdog + 1000 * s.rf 196648 19 0 ≤ BitVec.toNat s.time)) ∧
    (let s : State := ({ ready with time := 0 }.setReg 0x30028 500).setPart 0 { Part.init with st := .running, opened := some ⟨7, 1, [⟨0, true, 3, 4, 5, 0, 1, 0xFFFF⟩], [], 0, 100, 0, [], 0⟩ }; (s.live = true) ∧ (s.stalled = false) ∧ ((s.part ↑(0 : Fin 16)).st = PState.running) ∧ (¬((s.part ↑(0 : Fin 16)).opened ≠ none ∧ (s.part ↑(0 : Fin 16)).ended = false ∧ BitVec.toNat (s.part ↑(0 : Fin 16)).wdog + 1000 * s.rf 196648 19 0 ≤ BitVec.toNat s.time)))) :=
  ⟨by decide +kernel, by decide +kernel, by decide +kernel, by decide +kernel, by decide +kernel⟩

theorem witness_PartitionReplay :
    (let t : State := nextOf (exec (Instr.releaseWithReplay (0 : Fin 16)) heldOpen); ((heldOpen.part ↑(0 : Fin 16)).opened = some sealedDesc) ∧ (¬((∃ k t, (heldOpen.part ↑(0 : Fin 16)).peerWait = some (k, t) ∧ heldOpen.present k = false) ∨ (heldOpen.part ↑(0 : Fin 16)).refetch ≠ none ∨ ∃ k, k ∈ heldOpen.replayGroup ↑(0 : Fin 16) ∧ heldOpen.drained k = false)) ∧ (heldOpen.descCheck (↑(0 : Fin 16)) sealedDesc = true) ∧ (heldOpen.live = true) ∧ (heldOpen.stalled = false) ∧ ((heldOpen.part ↑(0 : Fin 16)).st = PState.held) ∧ ((heldOpen.part ↑(0 : Fin 16)).hold ≠ 5) ∧ (heldOpen.programFault ↑(0 : Fin 16) = false) ∧ (heldOpen.replayGroup ↑(0 : Fin 16) = [↑(0 : Fin 16)]) ∧ ((heldOpen.part ↑(0 : Fin 16)).tries < heldOpen.rf 196656 3 0) ∧ (0 ∈ heldOpen.rodsOf ↑(0 : Fin 16))) ∧
    (let s : State := (((ready.setReg 0x30030 3).onRod 0 (fun r => { r with s := [(3, 4)], pc := 16, mq := [⟨.nop, 0, 0, 0, none, false, true, [], []⟩], raised := [⟨8, 16, 77, 3, 0, 0⟩] }))).setPart 0 { Part.init with st := .held, hold := 4, opened := some ⟨7, 1, [⟨0, true, 3, 4, 5, 0, 1, 0xFFFF⟩], [], 0, 100, 0, [], 0⟩, refetch := some (1, 5) }; let d : Desc := ⟨7, 1, [⟨0, true, 3, 4, 5, 0, 1, 0xFFFF⟩], [], 0, 100, 0, [], 0⟩; ((∃ k t, (s.part ↑(0 : Fin 16)).peerWait = some (k, t) ∧ s.present k = false) ∨ (s.part ↑(0 : Fin 16)).refetch ≠ none ∨ ∃ k, k ∈ s.replayGroup ↑(0 : Fin 16) ∧ s.drained k = false) ∧ (s.live = true) ∧ (s.stalled = false) ∧ ((s.part ↑(0 : Fin 16)).st = PState.held) ∧ ((s.part ↑(0 : Fin 16)).hold ≠ 5) ∧ (s.programFault ↑(0 : Fin 16) = false) ∧ ((s.part ↑(0 : Fin 16)).opened = some d) ∧ (∀ (k : Nat), k ∈ s.replayGroup ↑(0 : Fin 16) → (fun k => ∃ e, (s.part k).opened = some e ∧ e.step = d.step) k)) ∧
    ((let s : State := (((heldOpen.setPart 0 { Part.init with st := .held, hold := 4, opened := some desc0 }).setReg 0x31008 2).setReg 0x31048 2).setPart 1 { Part.init with st := .running }; (s.live = true) ∧ (s.stalled = false) ∧ ((s.part ↑(0 : Fin 16)).st = PState.held) ∧ ((s.part ↑(0 : Fin 16)).hold ≠ 5) ∧ (s.programFault ↑(0 : Fin 16) = false) ∧ ((s.part ↑(0 : Fin 16)).opened = some desc0) ∧ (∃ k, k ∈ s.replayGroup ↑(0 : Fin 16) ∧ ¬(fun k => ∃ e, (s.part k).opened = some e ∧ e.step = desc0.step) k)) ∧
    (let s : State := (((ready.setReg 0x30030 3).onRod 0 (fun r => { r with s := [(3, 4)], pc := 16, mq := [⟨.nop, 0, 0, 0, none, false, true, [], []⟩], raised := [⟨8, 16, 77, 3, 0, 0⟩] }))).setPart 0 { Part.init with st := .running, opened := some ⟨7, 1, [⟨0, true, 3, 4, 5, 0, 1, 0xFFFF⟩], [], 0, 100, 0, [], 0⟩ }; (s.live = true) ∧ (s.stalled = false) ∧ ((s.part ↑(0 : Fin 16)).st ≠ PState.held ∨ (s.part ↑(0 : Fin 16)).hold = 5 ∨ s.programFault ↑(0 : Fin 16) = true ∨ (s.part ↑(0 : Fin 16)).opened = none))) :=
  ⟨⟨by unfold heldOpen; simp, fun h => h.elim (fun ⟨_, _, h, _⟩ => nomatch ((show (heldOpen.part ((0 : Fin 16) : Nat)).peerWait = none by decide +kernel).symm.trans h)) (fun h => h.elim (fun h => h (by decide +kernel)) (fun h => absurd h (by decide +kernel))), heldOpen_check, by decide +kernel⟩, ⟨Or.inr (Or.inl (by decide +kernel)), by decide +kernel⟩, by decide +kernel⟩

theorem witness_RequestsAdmittedAndControlled :
    ((let s : State := queued (open_) [[0x100000500000000, 0x380000000000, 0x6000, 0x7, 0x90000, 0xFFFF00000000, 0x0, 0x0]]; let k : Fin 32768 := 1; let e : SubEntry := (front s 1).1; let b : List SubEntry := (front s 1).2; let s1 : State := (s.mapPlist 0 k).getD s; (s.takeEntry ↑(0 : Fin 64) ↑(0 : Fin 8) 0 1 = some (e, b)) ∧ (¬(chainBad b e (b.length + 1) = true ∨ s.admissible (↑(0 : Fin 64)) b e = false ∨ s.succOk (↑(0 : Fin 64)) b e = false)) ∧ (s.slateFull ↑(0 : Fin 64) = false) ∧ ((s.slot ↑(1 : Fin 32768)).state = 0) ∧ (s.mapPlist (bits (e.word 1) 55 52) ↑(1 : Fin 32768) = some s1) ∧ (0 ≠ ↑(1 : Fin 32768))) ∧
    (let s : State := queued (open_) [[0x100000500000000, 0x380000000000, 0x0, 0x7, 0x90000, 0xFFFF00000000, 0x0, 0x0]]; let e : SubEntry := (front s 1).1; let b : List SubEntry := (front s 1).2; (s.takeEntry ↑(0 : Fin 64) ↑(0 : Fin 8) 0 1 = some (e, b)) ∧ (chainBad b e (b.length + 1) = true ∨ s.admissible (↑(0 : Fin 64)) b e = false ∨ s.succOk (↑(0 : Fin 64)) b e = false))) ∧
    ((let s : State := queued (open_.setReg 0x90100 0) [[0x100000500000000, 0x380000000000, 0x6000, 0x7, 0x90000, 0xFFFF00000000, 0x0, 0x0]]; let e : SubEntry := (front s 1).1; let b : List SubEntry := (front s 1).2; (s.takeEntry ↑(0 : Fin 64) ↑(0 : Fin 8) 0 1 = some (e, b)) ∧ (¬(chainBad b e (b.length + 1) = true ∨ s.admissible (↑(0 : Fin 64)) b e = false ∨ s.succOk (↑(0 : Fin 64)) b e = false)) ∧ (s.slateFull ↑(0 : Fin 64) = true)) ∧
    (let s : State := queued ((open_).setSlot 4 { Slot.init with w0 := 0x3000000000000000, w1 := 0x0, w5 := 77 }) [[0x200000500000000, 0x4, 0x4E, 0x0, 0x0, 0x0, 0x0, 0x0]]; let e : SubEntry := (front s 2).1; let b : List SubEntry := (front s 2).2; (s.takeEntry ↑(0 : Fin 64) ↑(0 : Fin 8) 0 2 = some (e, b)) ∧ (¬(e.clean 3 false = true ∧ bits (e.word 1) 63 15 = 0 ∧ s.namesOwn (↑(0 : Fin 64)) e = true)))) ∧
    (let s : State := queued ((open_).setSlot 4 { Slot.init with w0 := 0x1000000000000000, w1 := 0x0, w5 := 77 }) [[0x200000500000000, 0x4, 0x4D, 0x0, 0x0, 0x0, 0x0, 0x0]]; let e : SubEntry := (front s 2).1; let b : List SubEntry := (front s 2).2; (s.takeEntry ↑(0 : Fin 64) ↑(0 : Fin 8) 0 2 = some (e, b)) ∧ (e.clean 3 false = true ∧ bits (e.word 1) 63 15 = 0 ∧ s.namesOwn (↑(0 : Fin 64)) e = true) ∧ ((s.slot e.names).state = 1 ∨ (s.slot e.names).state = 2 ∨ (s.slot e.names).state = 3) ∧ (s.idle (s.slot e.names).part = true)) ∧
    (let s : State := queued ((open_.onPart 0 (fun x => { x with opened := some ⟨7, 1, [⟨0, true, 3, 4, 5, 0, 1, 0xFFFF⟩], [], 0, 100, 0, [], 0⟩ })).setSlot 4 { Slot.init with w0 := 0x1000000000000000, w1 := 0x0, w5 := 77 }) [[0x200000500000000, 0x4, 0x4D, 0x0, 0x0, 0x0, 0x0, 0x0]]; let e : SubEntry := (front s 2).1; let b : List SubEntry := (front s 2).2; (s.takeEntry ↑(0 : Fin 64) ↑(0 : Fin 8) 0 2 = some (e, b)) ∧ (e.clean 3 false = true ∧ bits (e.word 1) 63 15 = 0 ∧ s.namesOwn (↑(0 : Fin 64)) e = true) ∧ ((s.slot e.names).state = 1 ∨ (s.slot e.names).state = 2 ∨ (s.slot e.names).state = 3) ∧ (s.idle (s.slot e.names).part = false)) ∧
    (let s : State := queued ((open_).setSlot 4 { Slot.init with w0 := 0x1000000000000000, w1 := 0x0, w5 := 77 }) [[0x300000500000000, 0x4, 0x4D, 0x9, 0x0, 0x0, 0x0, 0x0]]; let e : SubEntry := (front s 3).1; let b : List SubEntry := (front s 3).2; (s.takeEntry ↑(0 : Fin 64) ↑(0 : Fin 8) 0 3 = some (e, b)) ∧ (e.clean 4 false = true ∧ bits (e.word 1) 63 15 = 0 ∧ bits (e.word 3) 63 16 = 0 ∧ s.namesOwn (↑(0 : Fin 64)) e = true) ∧ ((s.slot e.names).state = 1 ∨ (s.slot e.names).state = 2 ∨ (s.slot e.names).state = 3 ∨ (s.slot e.names).state = 4) ∧ (bits (e.word 3) 15 0 ≠ 0 ∨ (s.slot e.names).ttl ≠ 0) ∧ (s.idle (s.slot e.names).part = true) ∧ (bits (e.word 3) 15 0 ≠ 0)) ∧
    ((let s : State := queued ((open_).setSlot 4 { Slot.init with w0 := 0x3000000000000000, w1 := 0x0, w5 := 77 }) [[0x300000500000000, 0x4, 0x4E, 0x0, 0x0, 0x0, 0x0, 0x0]]; let e : SubEntry := (front s 3).1; let b : List SubEntry := (front s 3).2; (s.takeEntry ↑(0 : Fin 64) ↑(0 : Fin 8) 0 3 = some (e, b)) ∧ (¬(e.clean 4 false = true ∧ bits (e.word 1) 63 15 = 0 ∧ bits (e.word 3) 63 16 = 0 ∧ s.namesOwn (↑(0 : Fin 64)) e = true))) ∧
    (let s : State := queued ((open_).setSlot 4 { Slot.init with w0 := 0x1000000000000000, w1 := 0x0, w5 := 77 }) [[0x400000500000000, 0x4, 0x4E, 0x0, 0x0, 0x0, 0x0, 0x0]]; let e : SubEntry := (front s 4).1; let b : List SubEntry := (front s 4).2; (s.takeEntry ↑(0 : Fin 64) ↑(0 : Fin 8) 0 4 = some (e, b)) ∧ (¬(e.clean 3 false = true ∧ bits (e.word 1) 63 15 = 0 ∧ s.namesOwn (↑(0 : Fin 64)) e = true)))) ∧
    (let s : State := queued ((open_).setSlot 4 { Slot.init with w0 := 0x4000000000000000, w1 := 0x0, w5 := 77 }) [[0x400000500000000, 0x4, 0x4D, 0x0, 0x0, 0x0, 0x0, 0x0]]; let e : SubEntry := (front s 4).1; let b : List SubEntry := (front s 4).2; (s.takeEntry ↑(0 : Fin 64) ↑(0 : Fin 8) 0 4 = some (e, b)) ∧ (e.clean 3 false = true ∧ bits (e.word 1) 63 15 = 0 ∧ s.namesOwn (↑(0 : Fin 64)) e = true) ∧ ((s.slot e.names).state = 4) ∧ ((s.slot e.names).lost = false) ∧ (s.idle (s.slot e.names).part = true)) :=
  ⟨by decide +kernel, by decide +kernel, by decide +kernel, by decide +kernel, by decide +kernel, by decide +kernel, by decide +kernel⟩

theorem witness_RequestsAdmittedAndControlled_part2 :
    (let s : State := queued ((open_).setSlot 4 { Slot.init with w0 := 0x3000000000000000, w1 := 0x0, w5 := 77 }) [[0x500000500000000, 0x4, 0x4D, 0x0, 0x0, 0x0, 0x0, 0x0]]; let e : SubEntry := (front s 5).1; let b : List SubEntry := (front s 5).2; (s.takeEntry ↑(0 : Fin 64) ↑(0 : Fin 8) 0 5 = some (e, b)) ∧ (e.clean 3 false = true ∧ bits (e.word 1) 63 15 = 0 ∧ s.namesOwn (↑(0 : Fin 64)) e = true) ∧ ((s.slot e.names).active = true) ∧ ((s.slot e.names).state ≠ 6) ∧ (s.inLaunched e.names = false)) ∧
    (let s : State := queued ((open_).setSlot 4 { Slot.init with w0 := 0x2000000000000000, w1 := 0x0, w5 := 77 }) [[0x500000500000000, 0x4, 0x4E, 0x0, 0x0, 0x0, 0x0, 0x0]]; let e : SubEntry := (front s 5).1; let b : List SubEntry := (front s 5).2; (s.takeEntry ↑(0 : Fin 64) ↑(0 : Fin 8) 0 5 = some (e, b)) ∧ (¬(e.clean 3 false = true ∧ bits (e.word 1) 63 15 = 0 ∧ s.namesOwn (↑(0 : Fin 64)) e = true))) ∧
    (let s : State := queued ((open_.onPart 0 (fun x => { x with opened := some ⟨7, 1, [⟨0, true, 3, 4, 5, 0, 1, 0xFFFF⟩], [], 0, 100, 0, [], 0⟩ })).setSlot 4 { Slot.init with w0 := 0x3000000000000000, w1 := 0x0, w5 := 77 }) [[0x500000500000000, 0x4, 0x4D, 0x0, 0x0, 0x0, 0x0, 0x0]]; let e : SubEntry := (front s 5).1; let b : List SubEntry := (front s 5).2; (s.takeEntry ↑(0 : Fin 64) ↑(0 : Fin 8) 0 5 = some (e, b)) ∧ (e.clean 3 false = true ∧ bits (e.word 1) 63 15 = 0 ∧ s.namesOwn (↑(0 : Fin 64)) e = true) ∧ ((s.slot e.names).active = true) ∧ ((s.slot e.names).state ≠ 6) ∧ (s.inLaunched e.names = true)) :=
  ⟨by decide +kernel, by decide +kernel, by decide +kernel⟩

theorem witness_SlateMaintenance :
    (let s : State := (open_.hbmWrite64 0x4000000 0x100000).setSlot 4 { Slot.init with w0 := 0x5000000000000000, w1 := 0x0, w5 := 77, resuming := true, lost := false, w2 := 0x800 }; (∀ (n : Nat), n < (s.slot ↑(4 : Fin 32768)).pages → ∀ (b : Nat), b ∈ s.pagesOf (s.slot ↑(4 : Fin 32768)).part (blockAddr (s.blockEntry (↑(4 : Fin 32768)) n)) (s.kvBytes (s.slot ↑(4 : Fin 32768)).part) → ∃ e w a z, s.xlat (s.slot ↑(4 : Fin 32768)).part b = Xlat.page e w a z ∧ entryTier e = 1 ∧ entryMoving e = false) ∧ (s.live = true) ∧ ((s.slot ↑(4 : Fin 32768)).state = 5) ∧ ((s.slot ↑(4 : Fin 32768)).resuming = true) ∧ ((s.slot ↑(4 : Fin 32768)).lost = false)) ∧
    (let s : State := (open_.hbmWrite64 0x4000000 0x100000).setSlot 4 { Slot.init with w0 := 0x3000000000000000, w1 := 0x0, w5 := 77, resuming := true, lost := true, w2 := 0x800 }; ((s.slot ↑(4 : Fin 32768)).state ≠ 5 ∨ (s.slot ↑(4 : Fin 32768)).resuming = false ∨ (s.slot ↑(4 : Fin 32768)).lost = false ∧ ¬∀ (n : Nat), n < (s.slot ↑(4 : Fin 32768)).pages → ∀ (b : Nat), b ∈ s.pagesOf (s.slot ↑(4 : Fin 32768)).part (blockAddr (s.blockEntry (↑(4 : Fin 32768)) n)) (s.kvBytes (s.slot ↑(4 : Fin 32768)).part) → ∃ e w a z, s.xlat (s.slot ↑(4 : Fin 32768)).part b = Xlat.page e w a z ∧ entryTier e = 1 ∧ entryMoving e = false) ∧ (s.live = true)) ∧
    ((let s : State := { (open_.setSlot 4 { Slot.init with w0 := 0x5000000000000000, w1 := 0x0, w5 := 77, w6 := 5, w7 := 0x20000 }).setSlot 5 { Slot.init with w0 := 0x3000000000000000, w1 := 0x0, w5 := 77 } with time := 1000000000 }; (s.live = true) ∧ ((s.slot 4).state = 5) ∧ ((s.slot 4).resuming = false) ∧ (BitVec.toNat (s.slot 4).w6 + (s.slot 4).ttl * 100000000 ≤ BitVec.toNat s.time)) ∧
    (let s : State := ((open_.setSlot 4 { Slot.init with w0 := 0x7000000000000000, w1 := 0x0, w5 := 77, posted := true, w7 := 0xFFFF00000001 }).setSlot 5 { Slot.init with w0 := 0x1000000000000000, w1 := 0x0, w5 := 77, w7 := 0xFFFF00000002 }).setBuf 0 1 3; let k : Nat := 5; (s.live = true) ∧ ((s.slot ↑(4 : Fin 32768)).state = 7 ∧ (s.slot ↑(4 : Fin 32768)).posted = true ∧ s.inStep ↑(4 : Fin 32768) = false ∧ ∀ (k : Nat), k ∈ s.entries → (s.slot k).succ ≠ ↑(4 : Fin 32768)) ∧ (5 ≠ ↑(4 : Fin 32768)))) :=
  ⟨⟨slate_pages _ _ (by decide +kernel) (by decide +kernel) (by decide +kernel), by decide +kernel⟩, ⟨Or.inl (by decide +kernel), by decide +kernel⟩, by decide +kernel⟩

theorem witness_SlateMaintenance_part2 :
    ((let s : State := ((open_.setSlot 4 { Slot.init with w0 := 0x7000000000000000, w1 := 0x0, w5 := 77, posted := true, w7 := 0xFFFF00000001 }).setSlot 5 { Slot.init with w0 := 0x1000000000000000, w1 := 0x0, w5 := 77, w7 := 0x400000002 }).setBuf 0 1 3; (s.live = true) ∧ (¬((s.slot ↑(4 : Fin 32768)).state = 7 ∧ (s.slot ↑(4 : Fin 32768)).posted = true ∧ s.inStep ↑(4 : Fin 32768) = false ∧ ∀ (k : Nat), k ∈ s.entries → (s.slot k).succ ≠ ↑(4 : Fin 32768)))) ∧
    (let s : State := ((open_.setSlot 4 { Slot.init with w0 := 0x7000000000000000, w1 := 0x0, w5 := 77, posted := true, w7 := 0xFFFF00000001 }).setSlot 5 { Slot.init with w0 := 0x1000000000000000, w1 := 0x0, w5 := 77, w7 := 0xFFFF00000002 }).setBuf 0 1 3; let t : State := nextOf (exec (Instr.slateFree (4 : Fin 32768)) s); (s.live = true) ∧ ((s.slot ↑(4 : Fin 32768)).state = 7 ∧ (s.slot ↑(4 : Fin 32768)).posted = true ∧ s.inStep ↑(4 : Fin 32768) = false ∧ ∀ (k : Nat), k ∈ s.entries → (s.slot k).succ ≠ ↑(4 : Fin 32768)) ∧ (∀ (k : Nat), k ∈ t.entriesOfTenant (s.slot ↑(4 : Fin 32768)).tenant → (t.slot k).buffer ≠ (s.slot ↑(4 : Fin 32768)).buffer))) ∧
    ((let s : State := { (((open_.setSlot 4 { Slot.init with w0 := 0x1000000000000000, w1 := 0x0, w5 := 77, packing := true }).setReg (hReg 0 0x10) 0x6000000).setReg (hReg 0 0x18) 12) with hbm := Memory.write64 (Memory.write64 pageTables 0x6000000 0x9000000000000000) 0x6000048 0x3000000000000000, gth := { Gather.init with packing := [4] } }; let i : Fin 32768 := 4; let g : Seg := (s.packSeg i).getD ⟨0, 0, 0, 0⟩; (s.live = true) ∧ (↑(4 : Fin 32768) ∈ s.gth.packing) ∧ (s.packSeg ↑(4 : Fin 32768) = some g) ∧ (((s.opsOf (UnitUse.pack ↑(4 : Fin 32768))).any fun x => x.resp.isNone) = false) ∧ (¬(s.bitmapNeeds (some (s.opsOf (UnitUse.pack ↑(4 : Fin 32768)))) (s.slot ↑(4 : Fin 32768)).part g.at_ ≠ [] ∨ ((s.packCands (some (s.opsOf (UnitUse.pack ↑(4 : Fin 32768)))) (s.slot ↑(4 : Fin 32768)).tenant (s.slot ↑(4 : Fin 32768)).part g.at_ 0 [] (bits (s.hbmWord (g.at_ + 8)) 31 16)).snd.packFill (some (s.opsOf (UnitUse.pack ↑(4 : Fin 32768)))) ((s.slot ↑(4 : Fin 32768)).part % 32) (s.slot ↑(4 : Fin 32768)).tenant (s.slot ↑(4 : Fin 32768)).part (bits (s.hbmWord (g.at_ + 8)) 9 0) (bits (s.hbmWord (g.at_ + 8)) 47 32) (bits (s.hbmWord g.at_) 31 0) (if bit (s.hbmWord g.at_) 61 = true then some (bits (s.hbmWord g.at_) 49 32) else none) (s.packCands (some (s.opsOf (UnitUse.pack ↑(4 : Fin 32768)))) (s.slot ↑(4 : Fin 32768)).tenant (s.slot ↑(4 : Fin 32768)).part g.at_ 0 [] (bits (s.hbmWord (g.at_ + 8)) 31 16)).fst [] 0).snd.snd.fst ≠ []))) ∧
    (let s : State := ({ (((open_.setSlot 4 { Slot.init with w0 := 0x1000000000000000, w1 := 0x0, w5 := 77, packing := true }).setReg (hReg 0 0x10) 0x6000000).setReg (hReg 0 0x18) 12) with hbm := Memory.write64 (Memory.write64 pageTables 0x6000000 0x9000000000000000) 0x6000048 0x3000000000000000, gth := { Gather.init with packing := [4] } }).hbmWrite64 32800 0x4000000000009000 |>.hbmWrite64 36872 0xB200000000020000 |>.hbmWrite64 0x6000008 0x8000000000000010 |>.hbmWrite64 0x6000010 0x100010000 |>.hbmWrite64 0x6000018 0x810000 |>.hbmWrite64 0x6000020 64 |>.hbmWrite64 0x6000058 0x3000000000000000 |>.hbmWrite64 0x6000048 0; let i : Fin 32768 := 4; let g : Seg := (s.packSeg i).getD ⟨0, 0, 0, 0⟩; (s.live = true) ∧ (↑(4 : Fin 32768) ∈ s.gth.packing) ∧ (s.packSeg ↑(4 : Fin 32768) = some g) ∧ (((s.opsOf (UnitUse.pack ↑(4 : Fin 32768))).any fun x => x.resp.isNone) = false) ∧ (s.bitmapNeeds (some (s.opsOf (UnitUse.pack ↑(4 : Fin 32768)))) (s.slot ↑(4 : Fin 32768)).part g.at_ ≠ [] ∨ ((s.packCands (some (s.opsOf (UnitUse.pack ↑(4 : Fin 32768)))) (s.slot ↑(4 : Fin 32768)).tenant (s.slot ↑(4 : Fin 32768)).part g.at_ 0 [] (bits (s.hbmWord (g.at_ + 8)) 31 16)).snd.packFill (some (s.opsOf (UnitUse.pack ↑(4 : Fin 32768)))) ((s.slot ↑(4 : Fin 32768)).part % 32) (s.slot ↑(4 : Fin 32768)).tenant (s.slot ↑(4 : Fin 32768)).part (bits (s.hbmWord (g.at_ + 8)) 9 0) (bits (s.hbmWord (g.at_ + 8)) 47 32) (bits (s.hbmWord g.at_) 31 0) (if bit (s.hbmWord g.at_) 61 = true then some (bits (s.hbmWord g.at_) 49 32) else none) (s.packCands (some (s.opsOf (UnitUse.pack ↑(4 : Fin 32768)))) (s.slot ↑(4 : Fin 32768)).tenant (s.slot ↑(4 : Fin 32768)).part g.at_ 0 [] (bits (s.hbmWord (g.at_ + 8)) 31 16)).fst [] 0).snd.snd.fst ≠ []))) ∧
    ((let s : State := { (((open_.setSlot 4 { Slot.init with w0 := 0x1000000000000000, w1 := 0x0, w5 := 77, packing := true }).setReg (hReg 0 0x10) 0x6000000).setReg (hReg 0 0x18) 12) with hbm := Memory.write64 (Memory.write64 pageTables 0x6000000 0x9000000000000000) 0x6000048 0x3000000000000000, gth := { Gather.init with packing := [4] } , fab := { Fabric.init with ops := [⟨0x8000, .pack 4, 1, 27021597764354048, 1, 27021597764354048, 1, false, 1, [], 0, none, 0⟩] } }; let i : Fin 32768 := 4; let g : Seg := (s.packSeg i).getD ⟨0, 0, 0, 0⟩; (s.live = true) ∧ (↑(4 : Fin 32768) ∈ s.gth.packing) ∧ (s.packSeg ↑(4 : Fin 32768) = some g) ∧ (((s.opsOf (UnitUse.pack ↑(4 : Fin 32768))).any fun x => x.resp.isNone) = true)) ∧
    (let s : State := open_.setSlot 4 { Slot.init with w0 := 0x3000000000000000, w1 := 0x0, w5 := 77, ended := 5 }; (s.live = true) ∧ ((3 : Fin 8) ≠ (0 : Fin 8)) ∧ ((3 : Fin 8) ≠ (7 : Fin 8)) ∧ ((s.slot ↑(4 : Fin 32768)).active = true) ∧ (5 ≠ ↑(4 : Fin 32768))) ∧
    (let s : State := open_.setSlot 4 { Slot.init with w0 := 0x0, w1 := 0x0, w5 := 77, ended := 5 }; (s.live = true) ∧ ((0 : Fin 8) = (0 : Fin 8) ∨ (0 : Fin 8) = (7 : Fin 8) ∨ (s.slot ↑(4 : Fin 32768)).active = false))) :=
  ⟨by decide +kernel, by decide +kernel, by decide +kernel⟩

theorem witness_ModelLoadsAndScrubbing :
    (let s : State := open_.setPart 0 { Part.init with st := .loading, load := { Load.init with state := .loading, model := some model0, staged := [0], shards := [⟨[0, 0, 0x00010000, 0, 1, 2, 3, 4, 5, 6, 0, 0], 0, true, false, 0⟩] } }; let h : List W64 := []; let tag : List Byte := []; (shardCheck ((s.loadStep ↑(0 : Fin 16)).part ↑(0 : Fin 16)).load model0 ({ words := (0 : W64) :: (0 : W64) :: (65536 : W64) :: (0 : W64) :: (1 : W64) :: (2 : W64) :: (3 : W64) :: (4 : W64) :: (5 : W64) :: (6 : W64) :: (0 : W64) :: (0 : W64) :: h, tries := 0, begun := true, ok := false, lastCheck := (0 : W64) } : Shard).words h tag tag = Except.error 3) ∧ (s.live = true) ∧ (((s.loadStep ↑(0 : Fin 16)).part ↑(0 : Fin 16)).load.state = LoadState.loading) ∧ (((s.loadStep ↑(0 : Fin 16)).part ↑(0 : Fin 16)).load.model = some model0) ∧ (((s.loadStep ↑(0 : Fin 16)).part ↑(0 : Fin 16)).load.shards[0]? = some ({ words := (0 : W64) :: (0 : W64) :: (65536 : W64) :: (0 : W64) :: (1 : W64) :: (2 : W64) :: (3 : W64) :: (4 : W64) :: (5 : W64) :: (6 : W64) :: (0 : W64) :: (0 : W64) :: h, tries := 0, begun := true, ok := false, lastCheck := (0 : W64) } : Shard)) ∧ (({ words := (0 : W64) :: (0 : W64) :: (65536 : W64) :: (0 : W64) :: (1 : W64) :: (2 : W64) :: (3 : W64) :: (4 : W64) :: (5 : W64) :: (6 : W64) :: (0 : W64) :: (0 : W64) :: h, tries := 0, begun := true, ok := false, lastCheck := (0 : W64) } : Shard).begun = true) ∧ (({ words := (0 : W64) :: (0 : W64) :: (65536 : W64) :: (0 : W64) :: (1 : W64) :: (2 : W64) :: (3 : W64) :: (4 : W64) :: (5 : W64) :: (6 : W64) :: (0 : W64) :: (0 : W64) :: h, tries := 0, begun := true, ok := false, lastCheck := (0 : W64) } : Shard).ok = false)) ∧
    (let s : State := open_.setPart 0 { Part.init with st := .running, load := { Load.init with state := .done, model := some model0, staged := [0], shards := [⟨[0, 0, 0x00010000, 0, 1, 2, 3, 4, 5, 6, 0, 0], 0, true, true, 5⟩] } }; let x : Shard := ⟨[0, 0, 0x00010000, 0, 1, 2, 3, 4, 5, 6, 0, 0], 0, true, true, 5⟩; (∃ d, s.shardDigest (↑(0 : Fin 16)) x.words = some d) ∧ (s.live = true) ∧ ((s.part ↑(0 : Fin 16)).load.shards[0]? = some x) ∧ (s.scrubTurn (↑(0 : Fin 16)) x = true) ∧ ((s.part ↑(0 : Fin 16)).refetch = none) ∧ (s.idle ↑(0 : Fin 16) = true) ∧ ((s.part ↑(0 : Fin 16)).st = PState.running)) ∧
    (let s : State := open_.setPart 0 { Part.init with st := .running, refetch := some (2, 7), load := { Load.init with state := .done, model := some model0, staged := [0], shards := [⟨[0, 0, 0x00010000, 0, 1, 2, 3, 4, 5, 6, 0, 0], 0, true, true, 5⟩] } }; let x : Shard := ⟨[0, 0, 0x00010000, 0, 1, 2, 3, 4, 5, 6, 0, 0], 0, true, true, 5⟩; (∃ d, s.shardDigest (↑(0 : Fin 16)) x.words = some d) ∧ (s.live = true) ∧ ((s.part ↑(0 : Fin 16)).load.shards[0]? = some x) ∧ (s.scrubTurn (↑(0 : Fin 16)) x = true) ∧ ((s.part ↑(0 : Fin 16)).refetch = some (2, (7 : W64))) ∧ (2 ≠ 0)) :=
  ⟨⟨rfl, by decide +kernel⟩, ⟨Option.isSome_iff_exists.mp (by decide +kernel), by decide +kernel⟩, ⟨Option.isSome_iff_exists.mp (by decide +kernel), by decide +kernel⟩⟩

theorem witness_ModelLoadsAndScrubbing_part2 :
    (let s : State := (open_.setPart 0 { Part.init with st := .held, load := { Load.init with state := .done, model := some model0, staged := [0], shards := [⟨[0, 0, 0x00010000, 0, 1, 2, 3, 4, 5, 6, 0, 0], 0, true, true, 5⟩] }, refetch := some (0, 5), refetchNext := [], hold := 6 }).setTen 0 { Tenant.init with st := .attached }; let h : List W64 := []; let tag : List Byte := []; (shardCheck (s.part ↑(0 : Fin 16)).load model0 ({ words := (0 : W64) :: (0 : W64) :: (65536 : W64) :: (0 : W64) :: (1 : W64) :: (2 : W64) :: (3 : W64) :: (4 : W64) :: (5 : W64) :: (6 : W64) :: (0 : W64) :: (0 : W64) :: h, tries := 0, begun := true, ok := true, lastCheck := (5 : W64) } : Shard).words h tag tag = Except.error 3) ∧ (s.live = true) ∧ ((s.part ↑(0 : Fin 16)).refetch = some (0, (5 : W64))) ∧ ((s.part ↑(0 : Fin 16)).load.model = some model0) ∧ ((s.part ↑(0 : Fin 16)).load.shards[0]? = some ({ words := (0 : W64) :: (0 : W64) :: (65536 : W64) :: (0 : W64) :: (1 : W64) :: (2 : W64) :: (3 : W64) :: (4 : W64) :: (5 : W64) :: (6 : W64) :: (0 : W64) :: (0 : W64) :: h, tries := 0, begun := true, ok := true, lastCheck := (5 : W64) } : Shard)) ∧ ((s.part ↑(0 : Fin 16)).st = PState.held ∨ (s.part ↑(0 : Fin 16)).st = PState.loading) ∧ ((s.ten (s.part ↑(0 : Fin 16)).load.tenant).st = TState.attached) ∧ (∀ (a : Nat), a ∈ shPages ({ words := (0 : W64) :: (0 : W64) :: (65536 : W64) :: (0 : W64) :: (1 : W64) :: (2 : W64) :: (3 : W64) :: (4 : W64) :: (5 : W64) :: (6 : W64) :: (0 : W64) :: (0 : W64) :: h, tries := 0, begun := true, ok := true, lastCheck := (5 : W64) } : Shard).words → (s.tier1 (↑(0 : Fin 16)) a).isSome = true ∧ s.moveOf (↑(0 : Fin 16)) a (pageSize (shLarge ({ words := (0 : W64) :: (0 : W64) :: (65536 : W64) :: (0 : W64) :: (1 : W64) :: (2 : W64) :: (3 : W64) :: (4 : W64) :: (5 : W64) :: (6 : W64) :: (0 : W64) :: (0 : W64) :: h, tries := 0, begun := true, ok := true, lastCheck := (5 : W64) } : Shard).words)) = none)) ∧
    (let s : State := queued (open_.setPart 0 { Part.init with st := .loading, load := { Load.init with state := .idle } }) [[0xC00000500000000, 0x0, 0x0, 0x0, 0x0, 0x0, 0x0, 0x0]]; let e : SubEntry := (front s 0x0C).1; let b : List SubEntry := (front s 0x0C).2; (s.takeEntry ↑(0 : Fin 64) ↑(0 : Fin 8) 0 12 = some (e, b)) ∧ (e.clean 5 false = true) ∧ (bits (e.word 1) 59 0 = 0) ∧ (bits (e.word 2) 63 47 = 0) ∧ (bits (e.word 3) 63 47 = 0) ∧ (BitVec.getLsbD (s.rd (hReg ↑(0 : Fin 64) 8)) 2 = true) ∧ ((s.part (bits (e.word 1) 63 60)).st = PState.loading) ∧ ((s.part (bits (e.word 1) 63 60)).load.state = LoadState.idle ∨ (s.part (bits (e.word 1) 63 60)).load.state = LoadState.failed)) ∧
    ((let s : State := open_.setPart 0 { Part.init with st := .loading, load := { Load.init with state := .loading, model := some model0, staged := [0], shards := [⟨[0, 0, 0x00010000, 0, 1, 2, 3, 4, 5, 6, 0, 0], 0, true, true, 0⟩] } }; (s.live = true) ∧ (((s.loadStep ↑(0 : Fin 16)).part ↑(0 : Fin 16)).load.model = some model0) ∧ (((s.loadStep ↑(0 : Fin 16)).part ↑(0 : Fin 16)).load.state = LoadState.loading) ∧ (∀ (x : Shard), x ∈ ((s.loadStep ↑(0 : Fin 16)).part ↑(0 : Fin 16)).load.shards → x.ok = true ∧ (s.loadStep ↑(0 : Fin 16)).placed (↑(0 : Fin 16)) x.words = true)) ∧
    (let s : State := open_.setPart 0 { Part.init with st := .loading, load := { Load.init with state := .loading, model := some model0, staged := [0], shards := [⟨[0, 0, 0x00010000, 0, 1, 2, 3, 4, 5, 6, 0, 0], 0, true, false, 0⟩] } }; (s.live = true) ∧ (((s.loadStep ↑(0 : Fin 16)).part ↑(0 : Fin 16)).load.model = some model0) ∧ (((s.loadStep ↑(0 : Fin 16)).part ↑(0 : Fin 16)).load.state = LoadState.loading) ∧ (∃ x, x ∈ ((s.loadStep ↑(0 : Fin 16)).part ↑(0 : Fin 16)).load.shards ∧ x.ok = false))) ∧
    ((let s : State := (open_.setPart 0 { Part.init with st := .held, load := { Load.init with state := .done, model := some model0, staged := [0], shards := [⟨[0, 0, 0x40010000, 0, 1, 2, 3, 4, 5, 6, 0, 0], 0, true, true, 5⟩] }, refetch := some (0, 5), hold := 6 }).setTen 0 { Tenant.init with st := .attached }; let h : List W64 := []; (s.live = true) ∧ ((s.part ↑(0 : Fin 16)).refetch = some (0, (5 : W64))) ∧ ((s.part ↑(0 : Fin 16)).load.model = some model0) ∧ ((s.part ↑(0 : Fin 16)).load.shards[0]? = some ({ words := (0 : W64) :: (0 : W64) :: (1073807360 : W64) :: (0 : W64) :: (1 : W64) :: (2 : W64) :: (3 : W64) :: (4 : W64) :: (5 : W64) :: (6 : W64) :: (0 : W64) :: (0 : W64) :: h, tries := 0, begun := true, ok := true, lastCheck := (5 : W64) } : Shard)) ∧ ((s.part ↑(0 : Fin 16)).st = PState.held ∨ (s.part ↑(0 : Fin 16)).st = PState.loading) ∧ ((s.ten (s.part ↑(0 : Fin 16)).load.tenant).st = TState.attached) ∧ (¬∀ (a : Nat), a ∈ shPages ({ words := (0 : W64) :: (0 : W64) :: (1073807360 : W64) :: (0 : W64) :: (1 : W64) :: (2 : W64) :: (3 : W64) :: (4 : W64) :: (5 : W64) :: (6 : W64) :: (0 : W64) :: (0 : W64) :: h, tries := 0, begun := true, ok := true, lastCheck := (5 : W64) } : Shard).words → (s.tier1 (↑(0 : Fin 16)) a).isSome = true ∧ s.moveOf (↑(0 : Fin 16)) a (pageSize (shLarge ({ words := (0 : W64) :: (0 : W64) :: (1073807360 : W64) :: (0 : W64) :: (1 : W64) :: (2 : W64) :: (3 : W64) :: (4 : W64) :: (5 : W64) :: (6 : W64) :: (0 : W64) :: (0 : W64) :: h, tries := 0, begun := true, ok := true, lastCheck := (5 : W64) } : Shard).words)) = none)) ∧
    (let s : State := { (open_.setPart 0 { Part.init with st := .loading, load := { Load.init with state := .loading, model := some model0, staged := [0], shards := [⟨[0, 0, 0x00010000, 0, 1, 2, 3, 4, 5, 6, 0, 0], 0, true, true, 5⟩] }, refetch := some (0, 5) }).setTen 0 { Tenant.init with st := .attached } with time := 2000000000000 }; (s.live = true) ∧ ((s.part ↑(0 : Fin 16)).refetch = some (0, (5 : W64))) ∧ (BitVec.toNat (5 : W64) + s.rf 131184 9 0 * 10 ^ 9 ≤ BitVec.toNat s.time) ∧ ((s.part ↑(0 : Fin 16)).load.state = LoadState.loading))) ∧
    ((let s : State := { (open_.setPart 0 { Part.init with st := .held, load := { Load.init with state := .done, model := some model0, staged := [0], shards := [⟨[0, 0, 0x00010000, 0, 1, 2, 3, 4, 5, 6, 0, 0], 0, true, true, 5⟩] }, refetch := some (0, 5) }).setTen 0 { Tenant.init with st := .attached } with time := 2000000000000 }; (s.live = true) ∧ ((s.part ↑(0 : Fin 16)).refetch = some (0, (5 : W64))) ∧ (BitVec.toNat (5 : W64) + s.rf 131184 9 0 * 10 ^ 9 ≤ BitVec.toNat s.time) ∧ ((s.part ↑(0 : Fin 16)).load.state ≠ LoadState.loading)) ∧
    (let s : State := { (open_.setPart 0 { Part.init with st := .held, load := { Load.init with state := .done, model := some model0, staged := [0], shards := [⟨[0, 0, 0x00010000, 0, 1, 2, 3, 4, 5, 6, 0, 0], 0, true, true, 5⟩] }, refetch := some (0, 5) }).setTen 0 { Tenant.init with st := .attached } with time := 0 }; (s.live = true) ∧ ((s.part ↑(0 : Fin 16)).refetch = some (0, (5 : W64))) ∧ (BitVec.toNat s.time < BitVec.toNat (5 : W64) + s.rf 131184 9 0 * 10 ^ 9) ∧ ((s.ten (s.part ↑(0 : Fin 16)).load.tenant).st = TState.attached))) :=
  ⟨⟨rfl, by decide +kernel⟩, by decide +kernel, by decide +kernel, by decide +kernel, by decide +kernel⟩

theorem witness_WeightStreamsAndAdapters :
    (let s : State := ((((open_).hbmWrite64 67174400 0x200000001).hbmWrite64 67174416 0x3000000000100000).hbmWrite64 67174424 0x4000002000).onRod 0 (fun r => { r with rem := [remOp 2 .stream (2 ^ 53 + 0x10000) 16] }); let o : RemOp := remOp 2 .stream (2 ^ 53 + 0x10000) 16; (∃ d, s.streamCheck 0 o.addr = Except.ok d) ∧ (s.live = true) ∧ (s.stalled = false) ∧ (s.partOf ↑(0 : Fin 512) = some 0) ∧ (List.find? (fun x => x.tag == 2) (s.rod (s.phys ↑(0 : Fin 512))).rem = some o) ∧ (o.kind = RemKind.stream) ∧ ((s.part 0).streams.length < 64)) ∧
    (let s : State := ((open_).hbmWrite64 67174400 0x1000000000001).onRod 0 (fun r => { r with rem := [remOp 2 .stream (2 ^ 53 + 0x10000) 16] }); let o : RemOp := remOp 2 .stream (2 ^ 53 + 0x10000) 16; (s.streamCheck 0 o.addr = Except.error 2) ∧ (s.live = true) ∧ (s.stalled = false) ∧ (s.partOf ↑(0 : Fin 512) = some 0) ∧ (List.find? (fun x => x.tag == 2) (s.rod (s.phys ↑(0 : Fin 512))).rem = some o) ∧ (o.kind = RemKind.stream) ∧ ((s.part 0).streams.length < 64)) ∧
    ((let s : State := (((open_).hbmWrite64 68157440 0x1122).hbmWrite64 68157496 0x3344).onPart 0 (fun x => { x with st := .held, streams := [⟨9, 2, [⟨0, 1, 3, 0x100000, 64, 0x2000, false⟩]⟩] }); let x : Extent := ⟨0, 1, 3, 0x100000, 64, 0x2000, false⟩; (s.live = true) ∧ (s.extentOf ↑(0 : Fin 16) 0 0 = some (({ id := 9, layer := 2, extents := [x] } : Stream), x)) ∧ (x.failed = false) ∧ (List.filter (fun y => (fetched (s.opsOf (UnitUse.extent ↑(0 : Fin 16) ({ id := 9, layer := 2, extents := [x] } : Stream).id 0)) y.snd.fst y.snd.snd).isNone) (s.extentLower (↑(0 : Fin 16)) x) = []) ∧ (s.extentResp (↑(0 : Fin 16)) x (s.opsOf (UnitUse.extent ↑(0 : Fin 16) ({ id := 9, layer := 2, extents := [x] } : Stream).id 0)) = 0 ∨ s.extentResp (↑(0 : Fin 16)) x (s.opsOf (UnitUse.extent ↑(0 : Fin 16) ({ id := 9, layer := 2, extents := [x] } : Stream).id 0)) = 4) ∧ (0 ≠ s.phys x.rod)) ∧
    (let s : State := ((((((open_).hbmWrite64 68157440 0x1122).hbmWrite64 68157496 0x3344).onPart 0 (fun x => { x with st := .held, streams := [⟨9, 2, [⟨0, 1, 3, 0x810000, 64, 0x2000, false⟩]⟩] })).hbmWrite64 32800 0x4000000000009000).hbmWrite64 36872 0xB200000000020000); let x : Extent := ⟨0, 1, 3, 0x810000, 64, 0x2000, false⟩; (s.live = true) ∧ (s.extentOf ↑(0 : Fin 16) 0 0 = some (({ id := 9, layer := 2, extents := [x] } : Stream), x)) ∧ (x.failed = false) ∧ (List.filter (fun y => (fetched (s.opsOf (UnitUse.extent ↑(0 : Fin 16) ({ id := 9, layer := 2, extents := [x] } : Stream).id 0)) y.snd.fst y.snd.snd).isNone) (s.extentLower (↑(0 : Fin 16)) x) ≠ []))) ∧
    ((let s : State := ((((((open_).hbmWrite64 68157440 0x1122).hbmWrite64 68157496 0x3344).onPart 0 (fun x => { x with st := .held, streams := [⟨9, 2, [⟨0, 1, 3, 0x100000, 64, 0x2000, true⟩]⟩] })).hbmWrite64 32800 0x4000000000009000).hbmWrite64 36872 0xB200000000020000); let x : Extent := ⟨0, 1, 3, 0x100000, 64, 0x2000, true⟩; (s.live = true) ∧ (s.extentOf ↑(0 : Fin 16) 0 0 = some (({ id := 9, layer := 2, extents := [x] } : Stream), x)) ∧ (x.failed = true)) ∧
    (let s : State := { ((((((open_).hbmWrite64 68157440 0x1122).hbmWrite64 68157496 0x3344).onPart 0 (fun x => { x with st := .held, streams := [⟨9, 2, [⟨0, 1, 3, 0x810000, 64, 0x2000, false⟩]⟩] })).hbmWrite64 32800 0x4000000000009000).hbmWrite64 36872 0xB200000000020000) with fab := { Fabric.init with ops := [⟨0x8000, .extent 0 9 0, 1, 27021597764354048, 64, 27021597764354048, 64, false, 0, (List.range 64).map (fun n => BitVec.ofNat 8 (n + 1)), 0, some 5, 0⟩] } }; let x : Extent := ⟨0, 1, 3, 0x810000, 64, 0x2000, false⟩; (s.live = true) ∧ (s.extentOf ↑(0 : Fin 16) 0 0 = some (({ id := 9, layer := 2, extents := [x] } : Stream), x)) ∧ (x.failed = false) ∧ (List.filter (fun y => (fetched (s.opsOf (UnitUse.extent ↑(0 : Fin 16) ({ id := 9, layer := 2, extents := [x] } : Stream).id 0)) y.snd.fst y.snd.snd).isNone) (s.extentLower (↑(0 : Fin 16)) x) = []) ∧ (s.extentResp (↑(0 : Fin 16)) x (s.opsOf (UnitUse.extent ↑(0 : Fin 16) ({ id := 9, layer := 2, extents := [x] } : Stream).id 0)) ≠ 0) ∧ (s.extentResp (↑(0 : Fin 16)) x (s.opsOf (UnitUse.extent ↑(0 : Fin 16) ({ id := 9, layer := 2, extents := [x] } : Stream).id 0)) ≠ 4))) ∧
    ((let s : State := (((open_).hbmWrite64 68157440 0x1122).hbmWrite64 68157496 0x3344).onPart 0 (fun x => { x with st := .running, streams := [⟨9, 2, [⟨0, 1, 3, 0x100000, 64, 0x2000, false⟩]⟩] }); let x : Extent := ⟨0, 1, 3, 0x100000, 64, 0x2000, false⟩; (s.live = true) ∧ (s.extentOf ↑(0 : Fin 16) 0 0 = some (({ id := 9, layer := 2, extents := [x] } : Stream), x)) ∧ (x.failed = false) ∧ (5 = 5 ∨ 5 = 6 ∨ 5 = 8) ∧ ((s.part ↑(0 : Fin 16)).st = PState.running)) ∧
    (let s : State := (((open_).hbmWrite64 68157440 0x1122).hbmWrite64 68157496 0x3344).onPart 0 (fun x => { x with st := .held, streams := [⟨9, 2, [⟨0, 1, 3, 0x100000, 64, 0x2000, false⟩]⟩] }); let x : Extent := ⟨0, 1, 3, 0x100000, 64, 0x2000, false⟩; (s.live = true) ∧ (s.extentOf ↑(0 : Fin 16) 0 0 = some (({ id := 9, layer := 2, extents := [x] } : Stream), x)) ∧ (x.failed = true ∨ 3 ≠ 5 ∧ 3 ≠ 6 ∧ 3 ≠ 8))) :=
  ⟨⟨exists_ok _ (by decide +kernel), by decide +kernel⟩, ⟨rfl, by decide +kernel⟩, by decide +kernel, by decide +kernel, by decide +kernel⟩

theorem witness_WeightStreamsAndAdapters_part2 :
    ((let s : State := queued ((((((((open_.setReg 0x502000 0x20000).setReg (hReg 0 0x48) 100).setReg (hReg 0 8) 0xFF)).hbmWrite64 67239936 0x8000000000021000).hbmWrite64 67244480 0x2100000000000000).hbmWrite64 67244488 0x70000000000)) [[0xA00000500000000, 0x7, 0x0, 0x0, 0x0, 0x0, 0x0, 0x0]]; let e : SubEntry := (front s 10).1; let b : List SubEntry := (front s 10).2; (s.takeEntry ↑(0 : Fin 64) ↑(0 : Fin 8) 0 10 = some (e, b)) ∧ (s.adapterOk (↑(0 : Fin 64)) e true = true) ∧ (s.ownsReady (bits (e.word 1) 63 60) (bits (e.word 1) 23 0) ↑(0 : Fin 64) = true) ∧ (s.dirBusy (bits (e.word 1) 63 60) = false)) ∧
    (let s : State := queued (((((open_.setReg 0x502000 0x20000).setReg (hReg 0 0x48) 100).setReg (hReg 0 8) 0xFF))) [[0x800000500000000, 0x7, 0x0, 0x0, 0x0, 0x0, 0x0, 0x0]]; let e : SubEntry := (front s 8).1; let b : List SubEntry := (front s 8).2; (s.takeEntry ↑(0 : Fin 64) ↑(0 : Fin 8) 0 8 = some (e, b)) ∧ (s.adapterOk (↑(0 : Fin 64)) e false = true) ∧ (bit (e.word 1) 24 = true → bit (s.rd (hReg ↑(0 : Fin 64) 8)) 3 = true) ∧ (s.dirBusy (bits (e.word 1) 63 60) = false) ∧ (∀ (d : List W64), s.dirEntry (bits (e.word 1) 63 60) (bits (e.word 1) 23 0) = some d → deId d = bits (e.word 1) 23 0 → deState d ≠ 1 ∧ deState d ≠ 2))) ∧
    ((let s : State := queued ((((((((open_.setReg 0x502000 0x20000).setReg (hReg 0 0x48) 100).setReg (hReg 0 8) 0xFF)).hbmWrite64 67239936 0x8000000000021000).hbmWrite64 67244480 0x2100000000000000).hbmWrite64 67244488 0x70000000000)) [[0x900000500000000, 0x7, 0x0, 0x0, 0x0, 0x0, 0x0, 0x0]]; let e : SubEntry := (front s 9).1; let b : List SubEntry := (front s 9).2; (s.takeEntry ↑(0 : Fin 64) ↑(0 : Fin 8) 0 9 = some (e, b)) ∧ (s.adapterOk (↑(0 : Fin 64)) e false = true) ∧ (s.ownsReady (bits (e.word 1) 63 60) (bits (e.word 1) 23 0) ↑(0 : Fin 64) = true)) ∧
    (let s : State := open_.setTen 0 { Tenant.init with st := .attached, adapters := [⟨8, 0, 0, 5, 0, 7, false, 0, 0, 0, false⟩] }; let a : AdapterCmd := ⟨8, 0, 0, 5, 0, 7, false, 0, 0, 0, false⟩; let r : ShardRead := .error 6; (s.live = true) ∧ ((s.ten ↑(0 : Fin 64)).adapters[0]? = some a) ∧ (s.dirBusy a.part = false) ∧ (r = r))) :=
  ⟨by decide +kernel, by decide +kernel⟩

theorem witness_GatherLookupsAndRowWrites :
    ((let s : State := { (((open_).hbmWrite64 32800 0x4000000000009000).hbmWrite64 36872 0xB200000000020000).onRod 0 (fun r => { r with rem := [{ remOp 2 .gather 0x400 64 with bead := 0x8000, data := ([0x500000002, 0x200000001000, 0x40, 0x0, 0x0, 0x0, 0x0, 0x0] : List W64).flatMap (fun w => leBytes 8 w.toNat), done := none, taken := true, spans := [(0x8000, 64)] }] }) with gth := { Gather.init with tables := [(5, [0x1080000000020000, 0x10, 0x810000, 0x50000, 0x0, 0x0])] }, bead := [(0x1000, 1), (0x1004, 2)] }; let o : RemOp := { remOp 2 .gather 0x400 64 with bead := 0x8000, data := ([0x500000002, 0x200000001000, 0x40, 0x0, 0x0, 0x0, 0x0, 0x0] : List W64).flatMap (fun w => leBytes 8 w.toNat), done := none, taken := true, spans := [(0x8000, 64)] }; (s.live = true) ∧ (List.find? (fun x => x.tag == 2 && x.kind == RemKind.gather) (s.rod (s.phys ↑(0 : Fin 512))).rem = some o) ∧ ((s.rod (s.phys ↑(0 : Fin 512))).olderTouches o = false) ∧ (o.taken = true) ∧ (o.done = none) ∧ (s.gatherNeeds (some (s.opsOf (UnitUse.gather (s.phys ↑(0 : Fin 512)) o.ord))) (s.phys ↑(0 : Fin 512)) (List.map (fun k => w64 (leNat (List.take 8 (List.drop (8 * k) o.data)))) (List.range 8)) (s.tbl (gdTable (List.map (fun k => w64 (leNat (List.take 8 (List.drop (8 * k) o.data)))) (List.range 8)))) ≠ [])) ∧
    (let s : State := { (((open_).hbmWrite64 32800 0x4000000000009000).hbmWrite64 36872 0xB200000000020000).onRod 0 (fun r => { r with rem := [{ remOp 2 .gather 0x400 64 with bead := 0x8000, data := ([0x500000002, 0x200000001000, 0x40, 0x0, 0x0, 0x0, 0x0, 0x0] : List W64).flatMap (fun w => leBytes 8 w.toNat), done := none, taken := false, spans := [(0x8000, 64)] }] }) with gth := { Gather.init with tables := [(5, [0x1080000000020000, 0x10, 0x40000, 0x50000, 0x0, 0x0])] }, bead := [(0x1000, 1), (0x1004, 2)] }; let o : RemOp := { remOp 2 .gather 0x400 64 with bead := 0x8000, data := ([0x500000002, 0x200000001000, 0x40, 0x0, 0x0, 0x0, 0x0, 0x0] : List W64).flatMap (fun w => leBytes 8 w.toNat), done := none, taken := false, spans := [(0x8000, 64)] }; (s.live = true) ∧ (List.find? (fun x => x.tag == 2 && x.kind == RemKind.gather) (s.rod (s.phys ↑(0 : Fin 512))).rem = some o) ∧ ((s.rod (s.phys ↑(0 : Fin 512))).olderTouches o = false) ∧ (o.taken = false))) ∧
    ((let s : State := { (((open_).hbmWrite64 32800 0x4000000000009000).hbmWrite64 36872 0xB200000000020000).onRod 0 (fun r => { r with rem := [{ remOp 1 .get 0x9000 16 with spans := [(0x8000, 24)] }, { remOp 2 .gather 0x400 64 with bead := 0x8000, data := ([0x500000002, 0x200000001000, 0x40, 0x0, 0x0, 0x0, 0x0, 0x0] : List W64).flatMap (fun w => leBytes 8 w.toNat), done := none, taken := true, spans := [(0x8000, 64)] }] }) with gth := { Gather.init with tables := [(5, [0x1080000000020000, 0x10, 0x40000, 0x50000, 0x0, 0x0])] }, bead := [(0x1000, 1), (0x1004, 2)] }; let o : RemOp := { remOp 2 .gather 0x400 64 with bead := 0x8000, data := ([0x500000002, 0x200000001000, 0x40, 0x0, 0x0, 0x0, 0x0, 0x0] : List W64).flatMap (fun w => leBytes 8 w.toNat), done := none, taken := true, spans := [(0x8000, 64)] }; (s.live = true) ∧ (List.find? (fun x => x.tag == 2 && x.kind == RemKind.gather) (s.rod (s.phys ↑(0 : Fin 512))).rem = some o) ∧ ((s.rod (s.phys ↑(0 : Fin 512))).olderTouches o = true)) ∧
    (let s : State := { (((open_).hbmWrite64 32800 0x4000000000009000).hbmWrite64 36872 0xB200000000020000).onRod 0 (fun r => { r with rem := [{ remOp 2 .gather 0x400 64 with bead := 0x8000, data := ([0x500000002, 0x200000001000, 0x40, 0x0, 0x0, 0x0, 0x0, 0x0] : List W64).flatMap (fun w => leBytes 8 w.toNat), done := some 2, taken := true, spans := [(0x8000, 64)] }] }) with gth := { Gather.init with tables := [(5, [0x1080000000020000, 0x10, 0x40000, 0x50000, 0x0, 0x0])] }, bead := [(0x1000, 1), (0x1004, 2)] }; let o : RemOp := { remOp 2 .gather 0x400 64 with bead := 0x8000, data := ([0x500000002, 0x200000001000, 0x40, 0x0, 0x0, 0x0, 0x0, 0x0] : List W64).flatMap (fun w => leBytes 8 w.toNat), done := some 2, taken := true, spans := [(0x8000, 64)] }; (s.live = true) ∧ (List.find? (fun x => x.tag == 2 && x.kind == RemKind.gather) (s.rod (s.phys ↑(0 : Fin 512))).rem = some o) ∧ ((s.rod (s.phys ↑(0 : Fin 512))).olderTouches o = false) ∧ (o.taken = true) ∧ (o.done = some 2))) ∧
    ((let s : State := { (((open_).hbmWrite64 32800 0x4000000000009000).hbmWrite64 36872 0xB200000000020000).onRod 0 (fun r => { r with rem := [{ remOp 2 .gather 0x400 64 with bead := 0x8000, data := ([0x500000002, 0x200000001000, 0x40, 0x0, 0x0, 0x0, 0x0, 0x0] : List W64).flatMap (fun w => leBytes 8 w.toNat), done := none, taken := true, spans := [(0x8000, 64)] }] }) with gth := { Gather.init with tables := [(5, [0x1080000000020000, 0x10, 0x40000, 0x50000, 0x0, 0x0])] }, bead := [(0x1000, 1), (0x1004, 2)] }; let o : RemOp := { remOp 2 .gather 0x400 64 with bead := 0x8000, data := ([0x500000002, 0x200000001000, 0x40, 0x0, 0x0, 0x0, 0x0, 0x0] : List W64).flatMap (fun w => leBytes 8 w.toNat), done := none, taken := true, spans := [(0x8000, 64)] }; (s.live = true) ∧ (List.find? (fun x => x.tag == 2 && x.kind == RemKind.gather) (s.rod (s.phys ↑(0 : Fin 512))).rem = some o) ∧ ((s.rod (s.phys ↑(0 : Fin 512))).olderTouches o = false) ∧ (o.taken = true) ∧ (o.done = none) ∧ (s.gatherNeeds (some (s.opsOf (UnitUse.gather (s.phys ↑(0 : Fin 512)) o.ord))) (s.phys ↑(0 : Fin 512)) (List.map (fun k => w64 (leNat (List.take 8 (List.drop (8 * k) o.data)))) (List.range 8)) (s.tbl (gdTable (List.map (fun k => w64 (leNat (List.take 8 (List.drop (8 * k) o.data)))) (List.range 8)))) = [])) ∧
    (let s : State := { open_ with gth := { Gather.init with replies := [⟨3, 5, 16⟩] } }; let r : LookupReply := ⟨3, 5, 16⟩; (s.live = true) ∧ (List.find? (fun x => x.engine == ↑(3 : Fin 32)) s.gth.replies = some r) ∧ (r.pos ≠ s.fab.pos))) ∧
    ((let s : State := { open_ with gth := { Gather.init with replies := [⟨3, 0, 2 ^ 48 + 2 ^ 23 + 2 ^ 22 + 16⟩] } }; let r : LookupReply := ⟨3, 0, 2 ^ 48 + 2 ^ 23 + 2 ^ 22 + 16⟩; (s.live = true) ∧ (List.find? (fun x => x.engine == ↑(3 : Fin 32)) s.gth.replies = some r) ∧ (r.pos = s.fab.pos) ∧ (1 < s.design.rods) ∧ (1 < 512) ∧ (4 < 14) ∧ (r.counter = 2 ^ 48 + 2 ^ 23 * 1 + 2 ^ 22 + 4 * 4) ∧ (0 ≠ s.phys 1)) ∧
    (let s : State := { open_ with gth := { Gather.init with rowq := List.replicate 0 ⟨1, 2, 3⟩ } }; (s.live = true) ∧ (BitVec.getLsbD (5 : W64) 63 = false ∨ 64 ≤ s.gth.rowq.length))) ∧
    ((let s : State := { open_ with gth := { Gather.init with rowq := List.replicate 0 ⟨1, 2, 3⟩ } }; (s.live = true) ∧ (BitVec.getLsbD (9223372036854775813 : W64) 63 = true) ∧ (s.gth.rowq.length < 64)) ∧
    (let s : State := { ((({ open_ with time := 50 }).hbmWrite64 67239936 0x1122334455667788).hbmWrite64 67305472 0x4) with gth := { Gather.init with tables := [(5, [0x1080000000020000, 0x2710, 0x40000, 0x0, 0x0, 0x0, 0x0, 0x0, 0x0, 0x0, 0x0, 0x30000, 0x0, 0x0, 0x0, 0x0])], rowq := [⟨5, 2, 0x20000⟩, ⟨5, 3, 0⟩] } }; let w : RowWrite := ⟨5, 2, 0x20000⟩; let bs : List Byte := (s.rangeRead 0 0x20000 64).getD []; (s.live = true) ∧ (List.find? (fun x => Sparse.get (0 : W64) s.gth.holds (rowKey x.table x.row) == (0 : W64)) s.gth.rowq = some w) ∧ (s.rangeRead (tblPart (s.tbl w.table)) w.src (tblRow (s.tbl w.table)) = some bs) ∧ (s.liveCopy (s.tbl w.table) w.row = some true) ∧ (tblReplaceable (s.tbl w.table) = true) ∧ (w.row < tblCount (s.tbl w.table)))) ∧
    ((let s : State := { { open_ with time := 30000 } with gth := { Gather.init with holds := Sparse.put 0 [] (rowKey 5 2) 100, rowq := [⟨5, 3, 0⟩] } }; (s.live = true) ∧ (Sparse.get (0 : W64) s.gth.holds (rowKey ↑(5 : Fin 1024) 2) ≠ (0 : W64)) ∧ (BitVec.toNat (Sparse.get (0 : W64) s.gth.holds (rowKey ↑(5 : Fin 1024) 2)) + 24999 ≤ BitVec.toNat s.time)) ∧
    (let s : State := { { open_ with time := 20000 } with gth := { Gather.init with holds := Sparse.put 0 [] (rowKey 5 2) 0, rowq := [⟨5, 3, 0⟩] } }; (s.live = true) ∧ (BitVec.toNat s.time < BitVec.toNat (Sparse.get (0 : W64) s.gth.holds (rowKey ↑(5 : Fin 1024) 2)) + 24999))) :=
  ⟨by decide +kernel, by decide +kernel, by decide +kernel, by decide +kernel, by decide +kernel, by decide +kernel⟩

theorem witness_StagedTablesApply :
    (let s : State := { (((open_).hbmWrite64 67239936 0x6000000000009000).hbmWrite64 67239944 0x40000) with gth := { Gather.init with tables := [(5, [0x1020000000020000, 0x2710, 0x40000, 0x0, 0x0, 0x20000, 0x0, 0x0, 0x0, 0x0, 0x0, 0x0, 0x0, 0x0, 0x0, 0x0])] } }; let o : Nat × Nat := (3, 0x9000); let m : List Byte := (s.rangeRead 0 0x20000 24).getD []; (s.opsOf (UnitUse.bucket ↑(5 : Fin 1024) 0) = [] ∧ (o.fst = s.fab.pos ↔ ↑(2 : Fin 8) = s.fab.pos) ∨ ∃ x l, s.opsOf (UnitUse.bucket ↑(5 : Fin 1024) 0) = x :: l ∧ x.resp = some 0) ∧ (s.live = true) ∧ (tblSharded (s.tbl ↑(5 : Fin 1024)) = true) ∧ (s.shardOf (s.tbl ↑(5 : Fin 1024)) (4096 * 0) = some o) ∧ (s.rangeRead (tblPart (s.tbl ↑(5 : Fin 1024))) (bits (nth (0 : BitVec 64) (s.tbl ↑(5 : Fin 1024)) 5) 51 0) (8 * ceilDiv (tblCount (s.tbl ↑(5 : Fin 1024))) 4096) = some m) ∧ (8 * 0 < 8 * ceilDiv (tblCount (s.tbl ↑(5 : Fin 1024))) 4096) ∧ (BitVec.getLsbD (s.rd 5243520) 63 = false) ∧ (↑(2 : Fin 8) = s.fab.pos → s.oldPlace (BitVec.toNat (1048576 : BitVec 48)) (tblRow (s.tbl ↑(5 : Fin 1024)) * 4096) = false)) ∧
    (((open_.live = true) ∧ (0 ≠ 5243520)) ∧
    ((open_.live = true) ∧ (0 ≠ dirReg ↑(3 : Fin 16) 64)) ∧
    ((open_.live = true) ∧ (0 ≠ pReg ↑(3 : Fin 16) 576)) ∧
    (let s : State := (((open_).setReg 0x500200 0x1000000000020000).setReg 0x500280 0x8000000000000005); (s.live = true) ∧ (BitVec.getLsbD (s.rd 5243520) 63 = true) ∧ (s.idle (tblPart s.tblStaged) = true) ∧ (0 ≠ s.rf 5243520 9 0)) ∧
    (let s : State := (((open_))).setReg 0x502000 0x20000 |>.setReg (dirReg 0 0x40) 0x8000000000000007 |>.setReg (dirReg 0 0) 0x1000000000000000; (s.live = true) ∧ (BitVec.getLsbD (s.rd (dirReg ↑(0 : Fin 16) 64)) 63 = true) ∧ (s.idle ↑(0 : Fin 16) = true ∨ (s.part ↑(0 : Fin 16)).st ≠ PState.running) ∧ ((s.part ↑(0 : Fin 16)).dirLost = []))) ∧
    ((let s : State := (((open_)).onPart 0 (fun x => { x with dirLost := [9, 8] })).setReg 0x502000 0x20000 |>.setReg (dirReg 0 0x40) 0x8000000000000007 |>.setReg (dirReg 0 0) 0x1000000000000000; let r : List Nat := [8]; (s.live = true) ∧ (BitVec.getLsbD (s.rd (dirReg ↑(0 : Fin 16) 64)) 63 = true) ∧ (s.idle ↑(0 : Fin 16) = true ∨ (s.part ↑(0 : Fin 16)).st ≠ PState.running) ∧ ((s.part ↑(0 : Fin 16)).dirLost = 9 :: r)) ∧
    (let s : State := (((open_.onPart 0 (fun x => { x with opened := some desc0 })))).setReg 0x502000 0x20000 |>.setReg (dirReg 0 0x40) 0x8000000000000007 |>.setReg (dirReg 0 0) 0x1000000000000000; (s.live = true) ∧ (BitVec.getLsbD (s.rd (dirReg ↑(0 : Fin 16) 64)) 63 = true) ∧ (s.idle ↑(0 : Fin 16) = false) ∧ ((s.part ↑(0 : Fin 16)).st = PState.running)) ∧
    (let s : State := (open_).setReg (pReg 0 0x240) 0x8000000000000003 |>.setReg (pReg 0 0x58) 0x20000 |>.setReg (pReg 0 0x200) 77; (s.live = true) ∧ (BitVec.getLsbD (s.rd (pReg ↑(0 : Fin 16) 576)) 63 = true) ∧ ((s.part ↑(0 : Fin 16)).opened = none ∨ (s.part ↑(0 : Fin 16)).ended = false))) ∧
    ((let s : State := (open_.onPart 0 (fun x => { x with opened := some desc0, ended := true })).setReg (pReg 0 0x240) 0x8000000000000003 |>.setReg (pReg 0 0x58) 0x20000 |>.setReg (pReg 0 0x200) 77; (s.live = true) ∧ (BitVec.getLsbD (s.rd (pReg ↑(0 : Fin 16) 576)) 63 = true) ∧ ((s.part ↑(0 : Fin 16)).opened ≠ none) ∧ ((s.part ↑(0 : Fin 16)).ended = true)) ∧
    (let s : State := { (((((((((open_).hbmWrite64 67239936 0x14000000).hbmWrite64 67239944 0x15000001).hbmWrite64 67239952 0x16000002).hbmWrite64 67239960 0x17000003).hbmWrite64 67239968 0x18000004).hbmWrite64 67239976 0x19000005).hbmWrite64 67239984 0x1A000006).hbmWrite64 67239992 0x1B000007) with gth := { Gather.init with tables := [(5, [0x1040000000020000, 0x2710, 0x40000, 0x0, 0x0, 0x0, 0x0, 0x0, 0x20000, 0x30000, 0x1800000000000000, 0x0, 0x0, 0x0, 0x0, 0x0])] } }; let l : List HotChange := [.evict 21]; let a : Nat := (s.hotPlace 0 (s.tbl 5) 21 (tblHash (s.tbl 5) 21).toNat 8).getD 0; let e : W64 := (s.rangeRead64 0 a).getD 0; (s.live = true) ∧ (tblHot (s.tbl ↑(5 : Fin 1024)) = true) ∧ (l = l) ∧ (s.hotPlace (tblPart (s.tbl ↑(5 : Fin 1024))) (s.tbl ↑(5 : Fin 1024)) 21 (BitVec.toNat (tblHash (s.tbl ↑(5 : Fin 1024)) 21)) 8 = some a) ∧ (s.rangeRead64 (tblPart (s.tbl ↑(5 : Fin 1024))) a = some e) ∧ (e ≠ (0 : W64)))) ∧
    (let s : State := { (((open_).hbmWrite64 67239936 0x6000000000009000).hbmWrite64 67239944 0x40000) with gth := { Gather.init with tables := [(5, [0x1020000000020000, 0x2710, 0x40000, 0x0, 0x0, 0x20000, 0x0, 0x0, 0x0, 0x0, 0x0, 0x0, 0x0, 0x0, 0x0, 0x0])] }, fab := { Fabric.init with ops := [⟨0x8000, .bucket 5 0, 2, 1, 64, 1, 64, false, 0, [], 0, none, 0⟩] } }; let o : Nat × Nat := (3, 0x9000); let m : List Byte := (s.rangeRead 0 0x20000 24).getD []; let x : UnitOp := ⟨0x8000, .bucket 5 0, 2, 1, 64, 1, 64, false, 0, [], 0, none, 0⟩; let l : List UnitOp := []; (s.live = true) ∧ (tblSharded (s.tbl ↑(5 : Fin 1024)) = true) ∧ (s.shardOf (s.tbl ↑(5 : Fin 1024)) (4096 * 0) = some o) ∧ (s.rangeRead (tblPart (s.tbl ↑(5 : Fin 1024))) (bits (nth (0 : BitVec 64) (s.tbl ↑(5 : Fin 1024)) 5) 51 0) (8 * ceilDiv (tblCount (s.tbl ↑(5 : Fin 1024))) 4096) = some m) ∧ (8 * 0 < 8 * ceilDiv (tblCount (s.tbl ↑(5 : Fin 1024))) 4096) ∧ (BitVec.getLsbD (s.rd 5243520) 63 = false) ∧ (↑(2 : Fin 8) = s.fab.pos → s.oldPlace (BitVec.toNat (1048576 : BitVec 48)) (tblRow (s.tbl ↑(5 : Fin 1024)) * 4096) = false) ∧ (s.opsOf (UnitUse.bucket ↑(5 : Fin 1024) 0) = x :: l) ∧ (x.resp = none)) ∧
    (let s : State := { (((open_).hbmWrite64 67239936 0x6000000000009000).hbmWrite64 67239944 0x40000) with gth := { Gather.init with tables := [(5, [0x1020000000020000, 0x2710, 0x40000, 0x0, 0x0, 0x20000, 0x0, 0x0, 0x0, 0x0, 0x0, 0x0, 0x0, 0x0, 0x0, 0x0])] }, fab := { Fabric.init with ops := [⟨0x8000, .bucket 5 0, 2, 1, 64, 1, 64, false, 0, [], 0, some 5, 0⟩] } }; let o : Nat × Nat := (3, 0x9000); let m : List Byte := (s.rangeRead 0 0x20000 24).getD []; let x : UnitOp := ⟨0x8000, .bucket 5 0, 2, 1, 64, 1, 64, false, 0, [], 0, some 5, 0⟩; let l : List UnitOp := []; (s.live = true) ∧ (tblSharded (s.tbl ↑(5 : Fin 1024)) = true) ∧ (s.shardOf (s.tbl ↑(5 : Fin 1024)) (4096 * 0) = some o) ∧ (s.rangeRead (tblPart (s.tbl ↑(5 : Fin 1024))) (bits (nth (0 : BitVec 64) (s.tbl ↑(5 : Fin 1024)) 5) 51 0) (8 * ceilDiv (tblCount (s.tbl ↑(5 : Fin 1024))) 4096) = some m) ∧ (8 * 0 < 8 * ceilDiv (tblCount (s.tbl ↑(5 : Fin 1024))) 4096) ∧ (BitVec.getLsbD (s.rd 5243520) 63 = false) ∧ (↑(2 : Fin 8) = s.fab.pos → s.oldPlace (BitVec.toNat (1048576 : BitVec 48)) (tblRow (s.tbl ↑(5 : Fin 1024)) * 4096) = false) ∧ (s.opsOf (UnitUse.bucket ↑(5 : Fin 1024) 0) = x :: l) ∧ (x.resp = some 5) ∧ (5 ≠ 0)) :=
  ⟨⟨Or.inl (by decide +kernel), by decide +kernel⟩, by decide +kernel, by decide +kernel, by decide +kernel, by decide +kernel, by decide +kernel⟩

theorem witness_StagedTablesApply_part2 :
    ((let s : State := { open_ with gth := { Gather.init with tables := [(5, [0x1020000000020000, 0x2710, 0x40000, 0x0, 0x0, 0x20000, 0x0, 0x0, 0x0, 0x0, 0x0, 0x0, 0x0, 0x0, 0x0, 0x0])], prev := [(5, [0x1020000000020000, 0x2710, 0x40000, 0x0, 0x0, 0x20000, 0x0, 0x0, 0x0, 0x0, 0x0, 0x0, 0x0, 0x0, 0x0, 0x0])] } }; (s.live = true) ∧ (BitVec.getLsbD (s.rd 5243536) 63 = false) ∧ (BitVec.getLsbD (5 : W64) 63 = false)) ∧
    (let s : State := { open_ with gth := { Gather.init with tables := [(5, [0x1020000000020000, 0x2710, 0x40000, 0x0, 0x0, 0x20000, 0x0, 0x0, 0x0, 0x0, 0x0, 0x0, 0x0, 0x0, 0x0, 0x0])], prev := [(5, [0x1020000000020000, 0x2710, 0x40000, 0x0, 0x0, 0x20000, 0x0, 0x0, 0x0, 0x0, 0x0, 0x0, 0x0, 0x0, 0x0, 0x0])] } }; (s.live = true) ∧ (BitVec.getLsbD (s.rd 5243536) 63 = false) ∧ (BitVec.getLsbD (9223372036854775813 : W64) 63 = true) ∧ (s.fab.dir = []))) :=
  by decide +kernel

theorem witness_ReplicaProtocol :
    ((let s : State := { { (((open_).hbmWrite64 67239936 0x6000000000009000).hbmWrite64 67239944 0x40000) with gth := { Gather.init with tables := [(5, [0x1020000000020000, 0x2710, 0x40000, 0x0, 0x0, 0x20000, 0x0, 0x0, 0x0, 0x0, 0x0, 0x0, 0x0, 0x0, 0x0, 0x0])] } } with fab := { Fabric.init with peers := [(2, ⟨3, 3, false, 7, [], 4⟩)], ports := [(3, { Port.init with train := .up, session := 1 })] } }; (s.live = true) ∧ (s.shardOf (s.tbl ↑(5 : Fin 1024)) (BitVec.toNat (4097 : BitVec 32)) = some (s.fab.pos, 262144)) ∧ (tblSharded (s.tbl ↑(5 : Fin 1024)) = true) ∧ (BitVec.toNat (4097 : BitVec 32) < tblCount (s.tbl ↑(5 : Fin 1024))) ∧ (↑(2 : Fin 8) ≠ s.fab.pos) ∧ (s.present ↑(2 : Fin 8) = true) ∧ ((s.peer ↑(2 : Fin 8)).shelf = false) ∧ (s.fab.dir = []) ∧ (s.fab.ops = [])) ∧
    (let s : State := { open_ with fab := { Fabric.init with peers := [(2, ⟨3, 3, false, 7, [], 4⟩)], ports := [(3, { Port.init with train := .up, session := 1 })], dir := [⟨5, 9, 0, 3, [1], [(1, 3)], [], [], [2]⟩] } }; let e : ReplicaDir := ⟨5, 9, 0, 3, [1], [(1, 3)], [], [], [2]⟩; (s.live = true) ∧ (List.find? (fun x => x.table == ↑(5 : Fin 1024) && x.row == BitVec.toNat (9 : BitVec 32) && x.puts.contains ↑(2 : Fin 8)) s.fab.dir = some e))) ∧
    ((let s : State := { open_ with fab := { Fabric.init with peers := [(2, ⟨3, 3, false, 7, [], 4⟩)], ports := [(3, { Port.init with train := .up, session := 1 })], dir := [⟨5, 9, 0, 3, [2], [(2, 3)], [], [], []⟩] } }; let e : ReplicaDir := ⟨5, 9, 0, 3, [2], [(2, 3)], [], [], []⟩; (s.live = true) ∧ (s.fab.dir = [e]) ∧ (e.table ≠ ↑(5 : Fin 1024) ∨ e.row ≠ BitVec.toNat (8 : BitVec 32) ∨ e.await ≠ [] ∨ e.mask = [])) ∧
    (let s : State := { open_ with fab := { Fabric.init with peers := [(2, ⟨3, 3, false, 7, [], 4⟩)], ports := [(3, { Port.init with train := .up, session := 1 })], dir := [⟨5, 9, 0, 3, [2], [(2, 3)], [], [], []⟩] } }; let e : ReplicaDir := ⟨5, 9, 0, 3, [2], [(2, 3)], [], [], []⟩; (s.live = true) ∧ (s.fab.dir = [e]) ∧ (e.table = ↑(5 : Fin 1024)) ∧ (e.row = BitVec.toNat (9 : BitVec 32)) ∧ (e.await = []) ∧ (e.mask ≠ []))) ∧
    ((let s : State := { open_ with fab := { Fabric.init with peers := [(2, ⟨3, 3, false, 7, [], 4⟩)], ports := [(3, { Port.init with train := .up, session := 1 })], dir := [⟨5, 9, 0, 4, [2], [(2, 3)], [(2, 4)], [(2, 1)], []⟩] } }; let e : ReplicaDir := ⟨5, 9, 0, 4, [2], [(2, 3)], [(2, 4)], [(2, 1)], []⟩; (s.live = true) ∧ (List.find? (fun x => x.table == ↑(5 : Fin 1024) && x.row == BitVec.toNat (9 : BitVec 32) && x.await.any fun a => a.fst == ↑(2 : Fin 8)) s.fab.dir = some e) ∧ (List.find? (fun a => a.fst == ↑(2 : Fin 8)) e.await = some (↑(2 : Fin 8), 1)) ∧ (1 ≤ 3)) ∧
    (let s : State := { open_ with fab := { Fabric.init with peers := [(2, ⟨3, 3, false, 7, [], 4⟩)], ports := [(3, { Port.init with train := .up, session := 1 })], dir := [⟨5, 9, 0, 4, [2], [(2, 3)], [(2, 4)], [(2, 4)], []⟩] } }; let e : ReplicaDir := ⟨5, 9, 0, 4, [2], [(2, 3)], [(2, 4)], [(2, 4)], []⟩; (s.live = true) ∧ (List.find? (fun x => x.table == ↑(5 : Fin 1024) && x.row == BitVec.toNat (9 : BitVec 32) && x.await.any fun a => a.fst == ↑(2 : Fin 8)) s.fab.dir = some e) ∧ (List.find? (fun a => a.fst == ↑(2 : Fin 8)) e.await = some (↑(2 : Fin 8), 4)) ∧ (3 < 4))) ∧
    ((let s : State := { open_ with fab := { Fabric.init with peers := [(2, ⟨3, 3, false, 7, [], 4⟩)], ports := [(3, { Port.init with train := .up, session := 1, inbox := [⟨mkFlit 16 2 0 9 1 0 0 (5 * 2 ^ 32 + 9) 0 0 [], 2, 0, 0⟩] })], replicas := [⟨2, 5, 9, 0, 3⟩, ⟨2, 5, 8, 0, 3⟩] } }; let s1 : State := ((s.takeRequest 3 (fun o => o == 0x10)).map (·.2)).getD s; let r : PeerReq := ⟨mkFlit 16 2 0 9 1 0 0 (5 * 2 ^ 32 + 9) 0 0 [], 2, 0, 0⟩; (s.live = true) ∧ ((s.takeRequest ↑(3 : Fin 8) fun o => o == 16) = some (r, s1))) ∧
    (let s : State := { open_ with fab := { Fabric.init with peers := [(2, ⟨3, 3, false, 7, [], 4⟩)], ports := [(3, { Port.init with train := .up, session := 1, inbox := [⟨mkFlit 18 2 0 9 1 0 0 (5 * 2 ^ 32 + 9) 0 0 [], 2, 0, 0⟩] })], dir := [⟨5, 9, 0, 4, [1, 2], [(1, 2), (2, 3)], [(1, 4), (2, 4)], [(1, 1), (2, 1)], []⟩] } }; let s1 : State := (s.onPort 3 (fun x => { x with inbox := [] })); let r : PeerReq := ⟨mkFlit 18 2 0 9 1 0 0 (5 * 2 ^ 32 + 9) 0 0 [], 2, 0, 0⟩; (s.live = true) ∧ ((s.takeInbox ↑(3 : Fin 8) fun o => o == 17 || o == 18) = some (r, s1)) ∧ (BitVec.getLsbD (s.rd 5243536) 63 = false)) ∧
    (let s : State := { { open_ with gth := { Gather.init with tables := [(5, [0x1020000000020000, 0x2710, 0x40000, 0x0, 0x0, 0x20000, 0x0, 0x0, 0x0, 0x0, 0x0, 0x0, 0x0, 0x0, 0x0, 0x0])] } } with fab := { Fabric.init with peers := [(2, ⟨3, 3, false, 7, [], 4⟩)], ports := [(3, { Port.init with train := .up, session := 1, inbox := [⟨mkFlit 20 2 0 9 1 0 0 (5 * 2 ^ 32 + 9) 6 0 [], 2, 0, 0⟩] })] } }; let s1 : State := ((s.takeRequest 3 (fun o => o == 0x14)).map (·.2)).getD s; let r : PeerReq := ⟨mkFlit 20 2 0 9 1 0 0 (5 * 2 ^ 32 + 9) 6 0 [], 2, 0, 0⟩; (s.live = true) ∧ ((s.takeRequest ↑(3 : Fin 8) fun o => o == 20) = some (r, s1)))) ∧
    ((let s : State := { open_ with fab := { Fabric.init with peers := [(2, ⟨3, 3, false, 7, [], 4⟩)], ports := [(3, { Port.init with train := .up, session := 1 })], replicas := [⟨2, 5, 9, 0, 3⟩, ⟨2, 5, 8, 0, 3⟩] } }; let x : Replica := ⟨2, 5, 9, 0, 3⟩; (s.live = true) ∧ (List.find? (fun y => y.home == ↑(2 : Fin 8) && y.table == ↑(5 : Fin 1024) && y.row == BitVec.toNat (9 : BitVec 32)) s.fab.replicas = some x)) ∧
    (let s : State := { open_ with fab := { Fabric.init with peers := [(2, ⟨3, 3, false, 7, [], 4⟩)], ports := [(3, { Port.init with train := .up, session := 1, inbox := [⟨mkFlit 19 2 0 9 1 0 0 (5 * 2 ^ 32 + 9) 2 0 [], 2, 0, 0⟩] })], dir := [⟨5, 9, 0, 3, [2], [(2, 3)], [], [], []⟩] } }; let s1 : State := ((s.takeRequest 3 (fun o => o == 0x13)).map (·.2)).getD s; let r : PeerReq := ⟨mkFlit 19 2 0 9 1 0 0 (5 * 2 ^ 32 + 9) 2 0 [], 2, 0, 0⟩; (s.live = true) ∧ ((s.takeRequest ↑(3 : Fin 8) fun o => o == 19) = some (r, s1)) ∧ (BitVec.getLsbD (s.rd 5243536) 63 = false) ∧ (∀ (e : ReplicaDir), e ∈ s.fab.dir → ¬(fun e => e.table = repTable r.flit ∧ e.row = repRow r.flit ∧ r.src ∈ e.mask ∧ Sparse.get 0 e.grants r.src = BitVec.toNat r.flit.w2 ∧ Sparse.get 0 e.invals r.src < BitVec.toNat r.flit.w2) e))) ∧
    (let s : State := { open_ with fab := { Fabric.init with peers := [(2, ⟨3, 3, false, 7, [], 4⟩)], ports := [(3, { Port.init with train := .up, session := 1, inbox := [⟨mkFlit 19 2 0 9 1 0 0 (5 * 2 ^ 32 + 9) 3 0 [], 2, 0, 0⟩] })], dir := [⟨5, 9, 0, 3, [2], [(2, 3)], [], [], []⟩] } }; let s1 : State := ((s.takeRequest 3 (fun o => o == 0x13)).map (·.2)).getD s; let r : PeerReq := ⟨mkFlit 19 2 0 9 1 0 0 (5 * 2 ^ 32 + 9) 3 0 [], 2, 0, 0⟩; (s.live = true) ∧ ((s.takeRequest ↑(3 : Fin 8) fun o => o == 19) = some (r, s1)) ∧ (BitVec.getLsbD (s.rd 5243536) 63 = false) ∧ (∃ e, e ∈ s.fab.dir ∧ (fun e => e.table = repTable r.flit ∧ e.row = repRow r.flit ∧ r.src ∈ e.mask ∧ Sparse.get 0 e.grants r.src = BitVec.toNat r.flit.w2 ∧ Sparse.get 0 e.invals r.src < BitVec.toNat r.flit.w2) e)) :=
  ⟨by decide +kernel, by decide +kernel, by decide +kernel, by decide +kernel, by decide +kernel, by decide +kernel⟩

theorem witness_LinkGroupsKeysAndTime :
    (let s : State := { open_.onRod 0 (fun r => { r with rem := [remOp 2 .put (2 ^ 55 + 2 * 2 ^ 50) 8] }) with fab := { Fabric.init with peers := [(2, ⟨3, 3, false, 7, [], 4⟩)], ports := [(3, { Port.init with train := .up, session := 1, rxExpect := 7 })] } }; let g : Group := ⟨false, 7, 0, true, true, true, 0, 0, 0, []⟩; (s.fabUp = true) ∧ ((s.port ↑(3 : Fin 8)).locked = true) ∧ (g.nak = false) ∧ (g.seq.toNat = (s.port ↑(3 : Fin 8)).rxExpect) ∧ (g.fecOk = true) ∧ (g.crcOk = true) ∧ ((s.port ↑(3 : Fin 8)).session = 0 ∨ g.tagOk = true) ∧ (s.fab.ops = [])) ∧
    ((let s : State := { open_.onRod 0 (fun r => { r with rem := [remOp 2 .put (2 ^ 55 + 2 * 2 ^ 50) 8] }) with fab := { Fabric.init with peers := [(2, ⟨3, 3, false, 7, [], 4⟩)], ports := [(3, { Port.init with train := .up, session := 1, rxExpect := 7 })] } }; let g : Group := ⟨false, 8, 0, true, true, true, 0, 0, 0, []⟩; (s.fabUp = true) ∧ ((s.port ↑(3 : Fin 8)).locked = true) ∧ (g.nak = false) ∧ (g.seq.toNat ≠ (s.port ↑(3 : Fin 8)).rxExpect) ∧ ((s.port ↑(3 : Fin 8)).gap = false)) ∧
    (let s : State := { open_.onRod 0 (fun r => { r with rem := [remOp 2 .put (2 ^ 55 + 2 * 2 ^ 50) 8] }) with fab := { Fabric.init with peers := [(2, ⟨3, 3, false, 7, [], 4⟩)], ports := [(3, { Port.init with train := .up, session := 1, rxExpect := 7 })] } }; let g : Group := ⟨false, 7, 0, true, false, true, 0, 0, 0, []⟩; (s.fabUp = true) ∧ ((s.port ↑(3 : Fin 8)).locked = true) ∧ (g.nak = false) ∧ (g.seq.toNat = (s.port ↑(3 : Fin 8)).rxExpect) ∧ (g.fecOk = false ∨ g.crcOk = false) ∧ ((if (s.port ↑(3 : Fin 8)).failSeq = (s.port ↑(3 : Fin 8)).rxExpect then (s.port ↑(3 : Fin 8)).failRun + 1 else 1) < 16))) ∧
    (let s : State := { open_.onRod 0 (fun r => { r with rem := [remOp 2 .put (2 ^ 55 + 2 * 2 ^ 50) 8] }) with fab := { Fabric.init with peers := [(2, ⟨3, 3, false, 7, [], 4⟩)], ports := [(3, { Port.init with train := .up, session := 1, rxExpect := 7, failSeq := 7, failRun := 15 })] } }; let g : Group := ⟨false, 7, 0, false, true, true, 0, 0, 0, []⟩; (s.fabUp = true) ∧ ((s.port ↑(3 : Fin 8)).locked = true) ∧ (g.nak = false) ∧ (g.seq.toNat = (s.port ↑(3 : Fin 8)).rxExpect) ∧ (g.fecOk = false ∨ g.crcOk = false) ∧ (16 ≤ if (s.port ↑(3 : Fin 8)).failSeq = (s.port ↑(3 : Fin 8)).rxExpect then (s.port ↑(3 : Fin 8)).failRun + 1 else 1) ∧ (s.posOf ↑(3 : Fin 8) = some 2) ∧ (s.fab.ops = [])) ∧
    ((let s : State := { open_.onRod 0 (fun r => { r with rem := [remOp 2 .put (2 ^ 55 + 2 * 2 ^ 50) 8] }) with fab := { Fabric.init with peers := [(2, ⟨3, 3, false, 7, [], 4⟩)], ports := [(3, { Port.init with train := .up, session := 1, rxExpect := 7, gap := true })] } }; let g : Group := ⟨false, 8, 0, true, true, true, 0, 0, 0, []⟩; (s.fabUp = true) ∧ ((s.port ↑(3 : Fin 8)).locked = true) ∧ (g.nak = false) ∧ (g.seq.toNat ≠ (s.port ↑(3 : Fin 8)).rxExpect) ∧ ((s.port ↑(3 : Fin 8)).gap = true)) ∧
    (let s : State := { open_ with fab := { Fabric.init with peers := [(2, ⟨3, 3, false, 7, [], 4⟩)], ports := [(3, { Port.init with train := .up, session := 1, sent := [⟨1, 1, 1, [], 0, (0, 0, 0)⟩, ⟨2, 2, 1, [], 0, (0, 0, 0)⟩, ⟨3, 3, 1, [], 0, (0, 0, 0)⟩] })] } }; (s.fabUp = true) ∧ ((s.port ↑(3 : Fin 8)).locked = true)) ∧
    (let s : State := { open_ with fab := { Fabric.init with peers := [(2, ⟨3, 3, false, 7, [], 4⟩)], ports := [(3, { Port.init with train := .up, session := 1 })] } }; (s.fabUp = true) ∧ ((s.port ↑(3 : Fin 8)).session ≠ 0) ∧ ((s.port ↑(3 : Fin 8)).switchAt = none))) ∧
    ((let s : State := { open_ with fab := { Fabric.init with peers := [(2, ⟨3, 3, false, 7, [], 4⟩)], ports := [(3, { Port.init with train := .up, session := 1, switchAt := some 5 })] } }; (s.fabUp = true) ∧ ((s.port ↑(3 : Fin 8)).session ≠ 0) ∧ ((s.port ↑(3 : Fin 8)).switchAt ≠ none)) ∧
    (let s : State := { open_ with fab := { Fabric.init with peers := [(2, ⟨3, 3, false, 7, [], 4⟩)], ports := [(3, { Port.init with train := .up, session := 1 })], pos := 5 } }; (s.fabUp = true) ∧ (s.master ≠ s.fab.pos)) ∧
    (let s : State := { open_ with fab := { Fabric.init with peers := [(2, ⟨3, 3, false, 7, [], 4⟩)], ports := [(3, { Port.init with train := .up, session := 1 })] } }; (s.fabUp = true) ∧ (s.master = s.fab.pos)) ∧
    (let s : State := { { open_ with time := 500 } with fab := { Fabric.init with peers := [(2, ⟨3, 3, false, 7, [], 4⟩)], ports := [(3, { Port.init with train := .up, session := 1, inbox := [⟨mkFlit 0x18 2 0 9 1 0 0 0 0 0 [], 2, 0, 0⟩] })] } }; let s1 : State := (s.onPort 3 (fun x => { x with inbox := [] })); let r : PeerReq := ⟨mkFlit 0x18 2 0 9 1 0 0 0 0 0 [], 2, 0, 0⟩; (s.fabUp = true) ∧ ((s.takeInbox ↑(3 : Fin 8) fun o => o == 24) = some (r, s1)))) ∧
    (let s : State := { { open_ with time := 500 } with fab := { Fabric.init with peers := [(2, ⟨3, 3, false, 7, [], 4⟩)], ports := [(3, { Port.init with train := .up, session := 1, inbox := [⟨mkFlit 0x19 2 0 9 1 0 0 0 420 430 [], 2, 480, 2⟩], lastTreq := some 300 })], pos := 5, synced := true } }; let s1 : State := (s.onPort 3 (fun x => { x with inbox := [] })); let r : PeerReq := ⟨mkFlit 0x19 2 0 9 1 0 0 0 420 430 [], 2, 480, 2⟩; (s.fabUp = true) ∧ ((s.takeInbox ↑(3 : Fin 8) fun o => o == 25) = some (r, s1)) ∧ ((s.port ↑(3 : Fin 8)).lastTreq = some (300 : W64)) ∧ ((s.port ↑(3 : Fin 8)).spoiled = false) ∧ (s.fab.synced = true) ∧ ((BitVec.toInt (r.flit.w2 - (300 : W64)) - BitVec.toInt (s.stampRx (↑(3 : Fin 8)) r - r.flit.w3)) / (2 : Int) ≤ (1000 : Int)) ∧ ((-1000 : Int) ≤ (BitVec.toInt (r.flit.w2 - (300 : W64)) - BitVec.toInt (s.stampRx (↑(3 : Fin 8)) r - r.flit.w3)) / (2 : Int))) ∧
    (let s : State := { { open_ with time := 500 } with fab := { Fabric.init with peers := [(2, ⟨3, 3, false, 7, [], 4⟩)], ports := [(3, { Port.init with train := .up, session := 1, inbox := [⟨mkFlit 0x19 2 0 9 1 0 0 0 420 430 [], 2, 480, 2⟩], lastTreq := some 300 })], pos := 5, synced := false } }; let s1 : State := (s.onPort 3 (fun x => { x with inbox := [] })); let r : PeerReq := ⟨mkFlit 0x19 2 0 9 1 0 0 0 420 430 [], 2, 480, 2⟩; (s.fabUp = true) ∧ ((s.takeInbox ↑(3 : Fin 8) fun o => o == 25) = some (r, s1)) ∧ ((s.port ↑(3 : Fin 8)).lastTreq = some (300 : W64)) ∧ ((s.port ↑(3 : Fin 8)).spoiled = false) ∧ (s.fab.synced = false) ∧ (s.fab.created = false)) :=
  ⟨by decide +kernel, by decide +kernel, by decide +kernel, by decide +kernel, by decide +kernel, by decide +kernel, by decide +kernel⟩

theorem witness_LinkGroupsKeysAndTime_part2 :
    (let s : State := { { open_ with time := 500 } with fab := { Fabric.init with peers := [(2, ⟨3, 3, false, 7, [], 4⟩)], ports := [(3, { Port.init with train := .up, session := 1, inbox := [⟨mkFlit 0x19 2 0 9 1 0 0 0 5000 5010 [], 2, 480, 2⟩], lastTreq := some 300 })], pos := 5, synced := true } }; let s1 : State := (s.onPort 3 (fun x => { x with inbox := [] })); let r : PeerReq := ⟨mkFlit 0x19 2 0 9 1 0 0 0 5000 5010 [], 2, 480, 2⟩; (s.fabUp = true) ∧ ((s.takeInbox ↑(3 : Fin 8) fun o => o == 25) = some (r, s1)) ∧ ((s.port ↑(3 : Fin 8)).lastTreq = some (300 : W64)) ∧ ((s.port ↑(3 : Fin 8)).spoiled = false) ∧ (s.fab.synced = true) ∧ ((BitVec.toInt (r.flit.w2 - (300 : W64)) - BitVec.toInt (s.stampRx (↑(3 : Fin 8)) r - r.flit.w3)) / (2 : Int) > (1000 : Int) ∨ (BitVec.toInt (r.flit.w2 - (300 : W64)) - BitVec.toInt (s.stampRx (↑(3 : Fin 8)) r - r.flit.w3)) / (2 : Int) < (-1000 : Int))) :=
  by decide +kernel

theorem witness_PortBringUpAndLeaving :
    ((let s : State := { (open_.setReg 0x600010 0xFF) with fab := { Fabric.init with ports := [(3, { Port.init with train := .full })] } }; (s.fabUp = true) ∧ ((s.port ↑(3 : Fin 8)).train = Train.full)) ∧
    (let s : State := { (open_.setReg 0x600010 0xFF) with fab := { Fabric.init with ports := [(3, { Port.init with train := .probing })] } }; (s.fabUp = true) ∧ ((s.port ↑(3 : Fin 8)).train = Train.probing)) ∧
    (let s : State := { (open_.setReg 0x600010 0xFF) with fab := { Fabric.init with ports := [(3, { Port.init with train := .up })] } }; (s.fabUp = true) ∧ ((s.port ↑(3 : Fin 8)).train ≠ Train.full)) ∧
    (let s : State := { (open_.setReg 0x600010 0xFF) with fab := { Fabric.init with ports := [(3, { Port.init with train := .up })] } }; (s.fabUp = true) ∧ ((s.port ↑(3 : Fin 8)).train ≠ Train.probing)) ∧
    (let s : State := { (open_.setReg 0x600010 0xFF) with fab := { Fabric.init with ports := [(3, { Port.init with train := .dark })] } }; (s.fabUp = true) ∧ ((s.port ↑(3 : Fin 8)).train = Train.dark ∨ (s.port ↑(3 : Fin 8)).train = Train.probing))) ∧
    ((let s : State := { (open_.setReg 0x600010 0xFF) with fab := { Fabric.init with ports := [(3, { Port.init with train := .locked })] } }; let id : PartnerId := ⟨0, 2, false, 0, 7⟩; (s.fabUp = true) ∧ ((s.port ↑(3 : Fin 8)).train = Train.locked) ∧ (id.boardId = s.rd 6291464) ∧ (id.shelf = false) ∧ (↑id.pos ≠ s.fab.pos) ∧ (s.present ↑id.pos = false)) ∧
    (let s : State := { (open_.setReg 0x600010 0xFF) with fab := { Fabric.init with ports := [(3, { Port.init with train := .locked })] } }; let id : PartnerId := ⟨5, 2, false, 0, 7⟩; (s.fabUp = true) ∧ ((s.port ↑(3 : Fin 8)).train = Train.locked) ∧ (id.boardId ≠ s.rd 6291464))) ∧
    ((let s : State := { (open_.setReg 0x600010 0xFF) with fab := { Fabric.init with ports := [(3, { Port.init with train := .identified, partner := some ⟨0, 2, false, 0, 7⟩ })], peers := [(2, ⟨2, 3, false, 5, [], 7⟩)] } }; let id : PartnerId := ⟨0, 2, false, 0, 7⟩; (s.fabUp = true) ∧ ((s.port ↑(3 : Fin 8)).partner = some id) ∧ ((s.port ↑(3 : Fin 8)).train = Train.identified)) ∧
    (let s : State := { (open_.setReg 0x600010 0xFF) with fab := { Fabric.init with ports := [(3, { Port.init with train := .authed, session := 1, rxSession := 1, partner := some ⟨0, 2, false, 0, 7⟩ })], peers := [(2, ⟨2, 3, false, 5, [], 7⟩)] } }; let id : PartnerId := ⟨0, 2, false, 0, 7⟩; (s.fabUp = true) ∧ ((s.port ↑(3 : Fin 8)).partner = some id) ∧ ((s.port ↑(3 : Fin 8)).train = Train.authed) ∧ (s.fab.seen.contains (s.entryOf id) = false)) ∧
    (let s : State := { (open_.setReg 0x600010 0).onRod 0 (fun r => { r with rem := [remOp 2 .put (2 ^ 55 + 2 * 2 ^ 50) 8, remOp 3 .put 0x1000 8] }) with fab := { Fabric.init with peers := [(2, ⟨3, 3, false, 7, [], 4⟩)], ports := [(3, { Port.init with train := .up, session := 1 })] } }; (s.fabUp = true) ∧ ((s.port ↑(3 : Fin 8)).locked = true) ∧ (s.posOf ↑(3 : Fin 8) = some 2) ∧ (s.fab.ops = []))) ∧
    ((let s : State := { (open_.setReg 0x600010 0).onRod 0 (fun r => { r with rem := [remOp 2 .put (2 ^ 55 + 2 * 2 ^ 50) 8, remOp 3 .put 0x1000 8] }) with fab := { Fabric.init with peers := [(2, ⟨3, 3, false, 7, [], 4⟩)], ports := [(3, { Port.init with train := .up, session := 1 })] } }; (s.fabUp = true) ∧ ((s.port ↑(3 : Fin 8)).locked = true) ∧ (s.posOf ↑(3 : Fin 8) = some 2) ∧ (s.portEnabled ↑(3 : Fin 8) = false)) ∧
    (let s : State := { { (open_.setReg 0x600010 0xFF) with time := 500 } with fab := { Fabric.init with ports := [(3, { Port.init with darkUntil := some 100 })] } }; (s.fabUp = true) ∧ ((s.port ↑(3 : Fin 8)).darkUntil = some (100 : W64)) ∧ (s.portEnabled ↑(3 : Fin 8) = true) ∧ (BitVec.toNat (100 : W64) ≤ BitVec.toNat s.time)) ∧
    (let s : State := { { (open_.setReg 0x600010 0xFF) with time := 5 } with fab := { Fabric.init with ports := [(3, { Port.init with darkUntil := some 100 })] } }; (s.fabUp = true) ∧ ((s.port ↑(3 : Fin 8)).darkUntil = some (100 : W64)) ∧ (s.portEnabled ↑(3 : Fin 8) = true) ∧ (BitVec.toNat s.time < BitVec.toNat (100 : W64)))) :=
  ⟨by decide +kernel, by decide +kernel, by decide +kernel, by decide +kernel⟩

theorem witness_LanesAndLasers :
    (let s : State := ({ open_.onRod 0 (fun r => { r with rem := [remOp 2 .put (2 ^ 55 + 2 * 2 ^ 50) 8] }) with fab := { Fabric.init with peers := [(2, ⟨3, 3, false, 7, [], 4⟩)], ports := [(3, { Port.init with train := .up, session := 1, rxBad := [], swaps := [(9, 32)] })] } }).setReg 0x600028 6; let counts : List Nat := List.replicate 33 0 ++ [9]; (∀ (m : Nat), m ≠ 33 → nth 0 counts m = 0) ∧ (s.fabUp = true) ∧ ((s.port ↑(3 : Fin 8)).locked = true) ∧ (33 < 32 + s.design.spareLanes) ∧ (¬33 ∈ (s.port ↑(3 : Fin 8)).rxBad) ∧ (0 < nth 0 counts 33) ∧ (¬33 ∈ (s.port ↑(3 : Fin 8)).rxMap) ∧ (∀ (w : Nat × Nat), w ∈ (s.port ↑(3 : Fin 8)).swaps → w.snd ≠ 33)) ∧
    (let s : State := { open_.onRod 0 (fun r => { r with rem := [remOp 2 .put (2 ^ 55 + 2 * 2 ^ 50) 8] }) with fab := { Fabric.init with peers := [(2, ⟨3, 3, false, 7, [], 4⟩)], ports := [(3, { Port.init with train := .up, session := 1, rxBad := [], swaps := [(9, 32)] })] } }; let counts : List Nat := []; (∀ (n : Nat), nth 0 counts n = 0) ∧ (s.fabUp = true) ∧ ((s.port ↑(3 : Fin 8)).locked = true)) ∧
    (let s : State := ({ open_.onRod 0 (fun r => { r with rem := [remOp 2 .put (2 ^ 55 + 2 * 2 ^ 50) 8] }) with fab := { Fabric.init with peers := [(2, ⟨3, 3, false, 7, [], 4⟩)], ports := [(3, { Port.init with train := .up, session := 1, rxBad := [], swaps := [(9, 32)] })] } }).setReg 0x600028 6; let counts : List Nat := List.replicate 5 0 ++ [9]; let rest : List Nat := [34, 35]; (∀ (m : Nat), m ≠ 5 → nth 0 counts m = 0) ∧ (s.fabUp = true) ∧ ((s.port ↑(3 : Fin 8)).locked = true) ∧ (5 < 32 + s.design.spareLanes) ∧ (¬5 ∈ (s.port ↑(3 : Fin 8)).rxBad) ∧ (s.rf 6291496 15 0 < nth 0 counts 5) ∧ (List.findIdx? (fun x => x == 5) (s.port ↑(3 : Fin 8)).rxMap = some 5) ∧ (s.rxSpares ↑(3 : Fin 8) = 33 :: rest)) ∧
    (let s : State := { open_.onRod 0 (fun r => { r with rem := [remOp 2 .put (2 ^ 55 + 2 * 2 ^ 50) 8] }) with fab := { Fabric.init with peers := [(2, ⟨3, 3, false, 7, [], 4⟩)], ports := [(3, { Port.init with train := .up, session := 1, rxBad := [], swaps := [(9, 32)] })] } }; let rest : List Nat := [34, 35]; (s.fabUp = true) ∧ ((s.port ↑(3 : Fin 8)).locked = true) ∧ (¬↑(5 : Fin 36) ∈ (s.port ↑(3 : Fin 8)).rxBad) ∧ (↑(5 : Fin 36) < 32 + s.design.spareLanes) ∧ (List.findIdx? (fun x => x == ↑(5 : Fin 36)) (s.port ↑(3 : Fin 8)).rxMap = some 5) ∧ (s.rxSpares ↑(3 : Fin 8) = 33 :: rest)) :=
  ⟨⟨only_at, by decide +kernel⟩, ⟨fun n => match n with | 0 => rfl | 1 => rfl | _ + 2 => rfl, by decide +kernel⟩, ⟨only_at, by decide +kernel⟩, by decide +kernel⟩

theorem witness_LanesAndLasers_part2 :
    ((let s : State := { open_.onRod 0 (fun r => { r with rem := [remOp 2 .put (2 ^ 55 + 2 * 2 ^ 50) 8] }) with fab := { Fabric.init with peers := [(2, ⟨3, 3, false, 7, [], 4⟩)], ports := [(3, { Port.init with train := .up, session := 1, rxBad := [33, 34, 35], swaps := [(9, 32)] })] } }; (s.fabUp = true) ∧ ((s.port ↑(3 : Fin 8)).locked = true) ∧ (¬↑(5 : Fin 36) ∈ (s.port ↑(3 : Fin 8)).rxBad) ∧ (↑(5 : Fin 36) < 32 + s.design.spareLanes) ∧ (List.findIdx? (fun x => x == ↑(5 : Fin 36)) (s.port ↑(3 : Fin 8)).rxMap = some 5) ∧ (s.rxSpares ↑(3 : Fin 8) = []) ∧ (s.posOf ↑(3 : Fin 8) = some 2) ∧ (s.fab.ops = [])) ∧
    (let s : State := { open_.onRod 0 (fun r => { r with rem := [remOp 2 .put (2 ^ 55 + 2 * 2 ^ 50) 8] }) with fab := { Fabric.init with peers := [(2, ⟨3, 3, false, 7, [], 4⟩)], ports := [(3, { Port.init with train := .up, session := 1, rxBad := [], swaps := [(9, 32)] })] } }; (s.fabUp = true) ∧ ((s.port ↑(3 : Fin 8)).locked = true) ∧ (↑(33 : Fin 36) < 32 + s.design.spareLanes) ∧ (¬↑(33 : Fin 36) ∈ (s.port ↑(3 : Fin 8)).txMap))) ∧
    (let s : State := { open_ with fab := { Fabric.init with peers := [(2, ⟨3, 3, false, 7, [], 4⟩)], ports := [(3, { Port.init with train := .up, session := 1, rxExpect := 7, mirror := some (4, 33) })] } }; let f : Flit := mkFlit 0x20 2 0 0 1 0 0 0 2 (64 * 4 + 33) []; (s.fabUp = true) ∧ ((s.port ↑(3 : Fin 8)).locked = true) ∧ (({ nak := false, seq := (7 : BitVec 20), ack := (0 : BitVec 20), fecOk := true, crcOk := true, tagOk := true, reqCredits := 0, rspCredits := 0, ctrlCredits := 0, slots := [{ w0 := f.w0, w1 := f.w1, w2 := f.w2, w3 := f.w3 }] } : Group).nak = false) ∧ (({ nak := false, seq := (7 : BitVec 20), ack := (0 : BitVec 20), fecOk := true, crcOk := true, tagOk := true, reqCredits := 0, rspCredits := 0, ctrlCredits := 0, slots := [{ w0 := f.w0, w1 := f.w1, w2 := f.w2, w3 := f.w3 }] } : Group).seq.toNat = (s.port ↑(3 : Fin 8)).rxExpect) ∧ (({ nak := false, seq := (7 : BitVec 20), ack := (0 : BitVec 20), fecOk := true, crcOk := true, tagOk := true, reqCredits := 0, rspCredits := 0, ctrlCredits := 0, slots := [{ w0 := f.w0, w1 := f.w1, w2 := f.w2, w3 := f.w3 }] } : Group).fecOk = true) ∧ (({ nak := false, seq := (7 : BitVec 20), ack := (0 : BitVec 20), fecOk := true, crcOk := true, tagOk := true, reqCredits := 0, rspCredits := 0, ctrlCredits := 0, slots := [{ w0 := f.w0, w1 := f.w1, w2 := f.w2, w3 := f.w3 }] } : Group).crcOk = true) ∧ ((s.port ↑(3 : Fin 8)).session = 0 ∨ ({ nak := false, seq := (7 : BitVec 20), ack := (0 : BitVec 20), fecOk := true, crcOk := true, tagOk := true, reqCredits := 0, rspCredits := 0, ctrlCredits := 0, slots := [{ w0 := f.w0, w1 := f.w1, w2 := f.w2, w3 := f.w3 }] } : Group).tagOk = true) ∧ (groupFlits ({ nak := false, seq := (7 : BitVec 20), ack := (0 : BitVec 20), fecOk := true, crcOk := true, tagOk := true, reqCredits := 0, rspCredits := 0, ctrlCredits := 0, slots := [{ w0 := f.w0, w1 := f.w1, w2 := f.w2, w3 := f.w3 }] } : Group) (s.port ↑(3 : Fin 8)).rx = ([(f, 0)], none)) ∧ (f.op = 32) ∧ (flitOk f = true) ∧ (f.w2 = (2 : W64)) ∧ (BitVec.toNat f.w3 = 64 * ↑(4 : Fin 32) + ↑(33 : Fin 36)) ∧ ((s.port ↑(3 : Fin 8)).mirror = some (↑(4 : Fin 32), ↑(33 : Fin 36)))) ∧
    ((let s : State := { open_.onRod 0 (fun r => { r with rem := [remOp 2 .put (2 ^ 55 + 2 * 2 ^ 50) 8] }) with fab := { Fabric.init with peers := [(2, ⟨3, 3, false, 7, [], 4⟩)], ports := [(3, { Port.init with train := .up, session := 1, rxBad := [], swaps := [(9, 32)] })] } }; let rest : List (Nat × Nat) := []; (s.fabUp = true) ∧ ((s.port ↑(3 : Fin 8)).locked = true) ∧ ((s.port ↑(3 : Fin 8)).swaps = (9, 32) :: rest)) ∧
    (let s : State := { open_ with fab := { Fabric.init with ports := [(3, { Port.init with train := .probing, sources := [(5, 1), (6, 2), (7, 3)] })] } }; let r : LaserReply := ⟨2, 0, 1⟩; (s.fabUp = true) ∧ (r.status ≠ (0 : BitVec 4) ∨ r.op.toNat ≠ (1, 0, Instr.ident (3 : Fin 8) (5 : Fin 36) r).fst) ∧ (r.status ≠ (1 : BitVec 4)) ∧ (r.status ≠ (3 : BitVec 4)) ∧ (s.linkStays ↑(3 : Fin 8) ↑(5 : Fin 36)))) ∧
    ((let s : State := { open_ with fab := { Fabric.init with peers := [(2, ⟨3, 3, false, 7, [], 4⟩)], ports := [(3, { Port.init with train := .up, session := 1, sources := [(5, 1), (6, 2), (7, 3)], txBad := [32, 33, 34, 35] })] } }; let r : LaserReply := ⟨4, 2, 1⟩; (s.fabUp = true) ∧ (r.status ≠ (0 : BitVec 4) ∨ r.op.toNat ≠ (1, 0, Instr.ident (3 : Fin 8) (5 : Fin 36) r).fst) ∧ (r.status ≠ (1 : BitVec 4)) ∧ (r.status ≠ (3 : BitVec 4)) ∧ (¬s.linkStays ↑(3 : Fin 8) ↑(5 : Fin 36)) ∧ (s.posOf ↑(3 : Fin 8) = some 2) ∧ (s.fab.ops = [])) ∧
    (let s : State := { open_ with fab := { Fabric.init with ports := [(3, { Port.init with train := .probing, sources := [(5, 1), (6, 2), (7, 3)] })] } }; let r : LaserReply := ⟨2, 0, 1⟩; (s.fabUp = true) ∧ (r.status = (0 : BitVec 4)) ∧ (r.op.toNat = 2) ∧ (r.value.getLsbD 1 = false))) ∧
    (let s : State := { open_ with fab := { Fabric.init with ports := [(3, { Port.init with train := .probing, sources := [(5, 1), (6, 2), (7, 3)] })] } }; let r : LaserReply := ⟨4, 0, 1⟩; (s.fabUp = true) ∧ (r.status = (0 : BitVec 4)) ∧ (r.op.toNat = 4)) :=
  ⟨by decide +kernel, by decide +kernel, by decide +kernel, by decide +kernel, by decide +kernel⟩

theorem witness_InboundPostedMessages :
    (let s : State := base1; let m : Msg := ⟨mkHdr 1 0 0 19 0 1 16 0, ((List.range 64).map (fun n => BitVec.ofNat 8 (n + 1)))⟩; (Arrives s (0 : Fin 4) m 1) ∧ (Admitted s m) ∧ (s.home m.tenant = ↑(0 : Fin 4)) ∧ (InArea s m) ∧ (s.bufState m.tenant (m.off / s.inSlot m.tenant) < 2)) ∧
    (let s : State := base1; let m : Msg := ⟨mkHdr 1 0 0 15 0 0 8388864 0, ((List.range 64).map (fun n => BitVec.ofNat 8 (n + 1)))⟩; (Arrives s (0 : Fin 4) m 1) ∧ (Admitted s m) ∧ (s.home m.tenant = ↑(0 : Fin 4)) ∧ (m.space = 0) ∧ (m.off < 12582912) ∧ (s.reaches m.tenant m.off = true) ∧ (m.off % 8 = 0) ∧ (m.len % 8 = 0)) ∧
    (let s : State := base1.setReg (hReg 0 0) 1 |>.setReg (pReg 0 0x100) 3; let m : Msg := ⟨mkHdr 2 0 0 0 0 0 524544 4, []⟩; let r : TallyReg := .barrier 0; (Arrives s (0 : Fin 4) m 2) ∧ (Admitted s m) ∧ (s.home m.tenant = ↑(0 : Fin 4)) ∧ (m.space = 0) ∧ (m.off < 12582912) ∧ (s.reaches m.tenant m.off = true) ∧ (bit (s.rd (hReg m.tenant 0)) 0 = true) ∧ (tallyReg m.off = some r)) ∧
    (let s : State := base1 |>.setReg 0x700018 0; let m : Msg := ⟨mkHdr 1 0 0 19 0 1 8208 0, ((List.range 64).map (fun n => BitVec.ofNat 8 (n + 1)))⟩; (Arrives s (0 : Fin 4) m 1) ∧ ((s.ten m.tenant).st ≠ TState.attached ∨ m.space = 1 ∧ ¬InArea s m ∨ m.space = 0 ∧ m.off < 12582912 ∧ s.reaches m.tenant m.off = false ∨ 4096 < m.off % 4096 + m.len ∧ m.space = 0) ∧ (bit (s.rd 7340056) 0 = false) ∧ (0 < 8)) ∧
    ((let s : State := base1 |>.setReg 0x700018 1; let m : Msg := ⟨mkHdr 1 0 0 15 0 0 65552 0, ((List.range 64).map (fun n => BitVec.ofNat 8 (n + 1)))⟩; (Arrives s (0 : Fin 4) m 1) ∧ ((s.ten m.tenant).st ≠ TState.attached ∨ m.space = 1 ∧ ¬InArea s m ∨ m.space = 0 ∧ m.off < 12582912 ∧ s.reaches m.tenant m.off = false ∨ 4096 < m.off % 4096 + m.len ∧ m.space = 0) ∧ (bit (s.rd 7340056) 0 = true) ∧ (0 < 8)) ∧
    (let s : State := base1; let m : Msg := ⟨mkHdr 2 0 0 0 0 0 524544 4, []⟩; (Arrives s (0 : Fin 4) m 2) ∧ ((s.ten m.tenant).st ≠ TState.attached ∨ bit (s.rd (hReg m.tenant 0)) 0 = false ∨ m.space = 1 ∨ tallyReg m.off = none) ∧ (bit (s.rd 7340056) 0 = false) ∧ (0 < 8))) ∧
    ((let s : State := base1 |>.setReg 0x700018 1; let m : Msg := ⟨mkHdr 2 0 0 0 0 0 524544 4, []⟩; (Arrives s (0 : Fin 4) m 2) ∧ ((s.ten m.tenant).st ≠ TState.attached ∨ bit (s.rd (hReg m.tenant 0)) 0 = false ∨ m.space = 1 ∨ tallyReg m.off = none) ∧ (bit (s.rd 7340056) 0 = true) ∧ (0 < 8)) ∧
    (let s : State := ((base6.setTen 0 { Tenant.init with st := .attached , buffers := [(0, 2)] }).setChan 0 { Chan.init with inPosted := 8, inNon := 8, outPosted := 8, outNon := 2 }); let m : Msg := ⟨mkHdr 1 0 0 19 0 1 16 0, ((List.range 64).map (fun n => BitVec.ofNat 8 (n + 1)))⟩; (Arrives s (0 : Fin 4) m 1) ∧ ((s.ten m.tenant).st = TState.attached) ∧ (InArea s m) ∧ (2 ≤ s.bufState m.tenant (m.off / s.inSlot m.tenant)) ∧ (bit (s.rd 7340056) 0 = false) ∧ (0 < 8))) ∧
    ((let s : State := ((base6.setTen 0 { Tenant.init with st := .attached , buffers := [(0, 2)] }).setChan 0 { Chan.init with inPosted := 8, inNon := 8, outPosted := 8, outNon := 2 }) |>.setReg 0x700018 1; let m : Msg := ⟨mkHdr 1 0 0 19 0 1 16 0, ((List.range 64).map (fun n => BitVec.ofNat 8 (n + 1)))⟩; (Arrives s (0 : Fin 4) m 1) ∧ ((s.ten m.tenant).st = TState.attached) ∧ (InArea s m) ∧ (2 ≤ s.bufState m.tenant (m.off / s.inSlot m.tenant)) ∧ (bit (s.rd 7340056) 0 = true) ∧ (0 < 8)) ∧
    (let s : State := base1.setReg 0x700000 0; let m : Msg := ⟨mkHdr 1 0 0 19 0 1 16 0, ((List.range 64).map (fun n => BitVec.ofNat 8 (n + 1)))⟩; (s.hapUp = true) ∧ (m.type = 1) ∧ (bit (s.rd 7340032) ↑(0 : Fin 4) = false ∨ (s.chan ↑(0 : Fin 4)).inPosted = 0) ∧ (bit (s.rd 7340032) ↑(0 : Fin 4) = false))) :=
  ⟨by decide +kernel, by decide +kernel, by decide +kernel, by decide +kernel, by decide +kernel, by decide +kernel, by decide +kernel⟩

theorem witness_InboundPostedMessages_part2 :
    (let s : State := base1.setReg 0x700010 1; let m : Msg := ⟨mkHdr 1 0 0 19 0 1 16 0, ((List.range 64).map (fun n => BitVec.ofNat 8 (n + 1)))⟩; (s.hapUp = true) ∧ (bit (s.rd 7340032) ↑(0 : Fin 4) = true) ∧ (1 + m.data.length / 64 = m.beats) ∧ (m.type = 1) ∧ (m.beats ≤ (s.chan ↑(0 : Fin 4)).inPosted) ∧ (s.looped ↑(0 : Fin 4) = true) ∧ (m.formed = true)) ∧
    (let s : State := base1; let m : Msg := ⟨mkHdr 1 0 5 19 0 1 16 0, ((List.range 64).map (fun n => BitVec.ofNat 8 (n + 1)))⟩; (s.hapUp = true) ∧ (bit (s.rd 7340032) ↑(0 : Fin 4) = true) ∧ (1 + m.data.length / 64 = m.beats) ∧ (m.type = 1) ∧ (m.beats ≤ (s.chan ↑(0 : Fin 4)).inPosted) ∧ (s.looped ↑(0 : Fin 4) = false) ∧ (m.formed = false)) :=
  ⟨by decide +kernel, by decide +kernel⟩

theorem witness_InboundReadsAndCompletions :
    ((let s : State := { base1 with hbm := pageTables ++ [(0x6000010, 4), (0x6000011, 5)] } |>.setTen 0 (Tenant.init); let m : Msg := ⟨mkHdr 8 0 7 19 0 1 16 0, []⟩; (Arrives s (0 : Fin 4) m 8) ∧ ((s.ten m.tenant).st ≠ TState.attached)) ∧
    (let s : State := { base1 with hbm := pageTables ++ [(0x6000010, 4), (0x6000011, 5)] }; let m : Msg := ⟨mkHdr 8 0 7 19 0 1 16 0, []⟩; (Arrives s (0 : Fin 4) m 8) ∧ (Admitted s m) ∧ (InArea s m) ∧ (s.hbmRangeBad (s.inAddr m) m.len = false)) ∧
    (let s : State := { base1 with hbm := pageTables ++ [(0x6000010, 4), (0x6000011, 5)] }; let m : Msg := ⟨mkHdr 8 0 7 19 0 1 8208 0, []⟩; (Arrives s (0 : Fin 4) m 8) ∧ ((s.ten m.tenant).st = TState.attached) ∧ (m.space = 1) ∧ (¬InArea s m))) ∧
    ((let s : State := { base1 with hbm := pageTables ++ [(0x6000010, 4), (0x6000011, 5)] }; let m : Msg := ⟨mkHdr 8 0 7 99 0 1 4080 0, []⟩; (Arrives s (0 : Fin 4) m 8) ∧ ((s.ten m.tenant).st = TState.attached) ∧ (InArea s m) ∧ (4096 < m.off % 4096 + m.len)) ∧
    (let s : State := { ({ base1 with hbm := pageTables ++ [(0x6000010, 4), (0x6000011, 5)] }) with hbmPoison := [(0x300000, true)] }; let m : Msg := ⟨mkHdr 8 0 7 19 0 1 16 0, []⟩; (Arrives s (0 : Fin 4) m 8) ∧ (Admitted s m) ∧ (InArea s m) ∧ (s.hbmRangeBad (s.inAddr m) m.len = true))) ∧
    (let s : State := { base1 with hbm := pageTables ++ [(0x6000010, 4), (0x6000011, 5)] }; let m : Msg := ⟨mkHdr 8 0 7 7 0 0 8388626 0, []⟩; (Arrives s (0 : Fin 4) m 8) ∧ (Admitted s m) ∧ (m.space = 0) ∧ (m.off < 12582912) ∧ (s.reaches m.tenant m.off = true) ∧ (m.off % 4 ≠ 0)) ∧
    ((let s : State := { base1 with hbm := pageTables ++ [(0x6000010, 4), (0x6000011, 5)] }; let m : Msg := ⟨mkHdr 8 0 7 7 0 0 8388624 0, []⟩; (Arrives s (0 : Fin 4) m 8) ∧ (Admitted s m) ∧ (m.space = 0) ∧ (m.off < 12582912) ∧ (s.reaches m.tenant m.off = true) ∧ (m.off % 8 = 0) ∧ (m.len = 8) ∧ ((s.readReg m.off).snd.halted = s.halted)) ∧
    (let s : State := base1; let m : Msg := ⟨mkHdr 12 0 7 0 0 0 0 0, []⟩; (s.readOf (↑(0 : Fin 4)) m.tag m.tenant = none) ∧ (Arrives s (0 : Fin 4) m 12))) ∧
    ((let s : State := base1; let m : Msg := ⟨mkHdr 13 0 7 19 0 1 16 0, ((List.range 64).map (fun n => BitVec.ofNat 8 (n + 1)))⟩; (s.readOf (↑(0 : Fin 4)) m.tag m.tenant = none) ∧ (Arrives s (0 : Fin 4) m 13)) ∧
    (let s : State := { base4.setReg (sqReg 0 0 8) 0x401 with reads := [⟨7, 0, 0, 0x1000, 64, [], 0, 0, 1, 0, none⟩] }; let m : Msg := ⟨mkHdr 12 0 7 0 0 0 0 0, []⟩; let r : OutRead := ⟨7, 0, 0, 0x1000, 64, [], 0, 0, 1, 0, none⟩; (s.readOf (↑(0 : Fin 4)) m.tag m.tenant = some r) ∧ ((s.sq r.tenant r.q).epoch = r.epoch) ∧ (r.unit = none) ∧ (Arrives s (0 : Fin 4) m 12))) ∧
    (let s : State := { base4.setReg (sqReg 0 0 8) 0x401 with reads := [⟨7, 0, 0, 0x1000, 32, [], 0, 0, 1, 0, none⟩] }; let m : Msg := ⟨mkHdr 13 0 7 63 0 1 4096 0, ((List.range 64).map (fun n => BitVec.ofNat 8 (n + 1)))⟩; let r : OutRead := ⟨7, 0, 0, 0x1000, 32, [], 0, 0, 1, 0, none⟩; (s.readOf (↑(0 : Fin 4)) m.tag m.tenant = some r) ∧ ((s.sq r.tenant r.q).epoch = r.epoch) ∧ (r.unit = none) ∧ (Arrives s (0 : Fin 4) m 13) ∧ (m.status = 0) ∧ (m.off = r.off + r.got.length) ∧ (r.len < r.got.length + m.bytes.length)) ∧
    (let s : State := { base4.setReg (sqReg 0 0 8) 0x401 with reads := [⟨7, 0, 0, 0x1000, 128, ((List.range 64).map (fun n => BitVec.ofNat 8 (n + 1))), 0, 0, 1, 0, none⟩] }; let m : Msg := ⟨mkHdr 13 0 7 63 0 1 4096 0, ((List.range 64).map (fun n => BitVec.ofNat 8 (n + 1)))⟩; let r : OutRead := ⟨7, 0, 0, 0x1000, 128, ((List.range 64).map (fun n => BitVec.ofNat 8 (n + 1))), 0, 0, 1, 0, none⟩; (s.readOf (↑(0 : Fin 4)) m.tag m.tenant = some r) ∧ ((s.sq r.tenant r.q).epoch = r.epoch) ∧ (r.unit = none) ∧ (Arrives s (0 : Fin 4) m 13) ∧ (m.off ≠ r.off + r.got.length)) :=
  ⟨by decide +kernel, by decide +kernel, by decide +kernel, by decide +kernel, by decide +kernel, by decide +kernel, by decide +kernel⟩

theorem witness_InboundReadsAndCompletions_part2 :
    (let s : State := { base4.setReg (sqReg 0 0 8) 0x401 with reads := [⟨7, 0, 0, 0x1000, 64, [], 0, 0, 1, 0, none⟩] }; let m : Msg := ⟨mkHdr 13 0 7 63 0 1 4096 0, ((List.range 64).map (fun n => BitVec.ofNat 8 (n + 1)))⟩; let r : OutRead := ⟨7, 0, 0, 0x1000, 64, [], 0, 0, 1, 0, none⟩; (s.readOf (↑(0 : Fin 4)) m.tag m.tenant = some r) ∧ ((s.sq r.tenant r.q).epoch = r.epoch) ∧ (r.unit = none) ∧ (Arrives s (0 : Fin 4) m 13) ∧ (m.status = 0) ∧ (m.off = r.off + r.got.length) ∧ (r.got.length + m.bytes.length = r.len)) ∧
    (let s : State := { base4.setReg (sqReg 0 0 8) 0x401 with reads := [⟨7, 0, 0, 0x1000, 128, [], 0, 0, 1, 0, none⟩] }; let m : Msg := ⟨mkHdr 13 0 7 63 0 1 4096 0, ((List.range 64).map (fun n => BitVec.ofNat 8 (n + 1)))⟩; let r : OutRead := ⟨7, 0, 0, 0x1000, 128, [], 0, 0, 1, 0, none⟩; (s.readOf (↑(0 : Fin 4)) m.tag m.tenant = some r) ∧ ((s.sq r.tenant r.q).epoch = r.epoch) ∧ (r.unit = none) ∧ (Arrives s (0 : Fin 4) m 13) ∧ (m.status = 0) ∧ (m.off = r.off + r.got.length) ∧ (r.got.length + m.bytes.length < r.len)) ∧
    ((let s : State := { base4.setReg (sqReg 0 0 8) 0x401 with reads := [⟨7, 0, 0, 0x1000, 64, [], 0, 0, 1, 0, (some 9)⟩] , fab := { Fabric.init with ops := [⟨9, .note, 1, 0, 64, 0, 64, false, 64, [], 0, none, 0⟩] } }; let m : Msg := ⟨mkHdr 12 0 7 0 2 0 0 0, []⟩; let r : OutRead := ⟨7, 0, 0, 0x1000, 64, [], 0, 0, 1, 0, (some 9)⟩; (s.readOf (↑(0 : Fin 4)) m.tag m.tenant = some r) ∧ (r.unit = some 9) ∧ (Arrives s (0 : Fin 4) m 12) ∧ (m.status ≠ 0)) ∧
    (let s : State := { base4.setReg (sqReg 0 0 8) 0x401 with reads := [⟨7, 0, 0, 0x1000, 64, [], 0, 0, 1, 0, (some 9)⟩] , fab := { Fabric.init with ops := [⟨9, .note, 1, 0, 64, 0, 64, false, 64, [], 0, none, 0⟩] } }; let m : Msg := ⟨mkHdr 12 0 7 0 0 0 0 0, []⟩; let r : OutRead := ⟨7, 0, 0, 0x1000, 64, [], 0, 0, 1, 0, (some 9)⟩; (s.readOf (↑(0 : Fin 4)) m.tag m.tenant = some r) ∧ (r.unit = some 9) ∧ (s.hapUp = true) ∧ (s.halted = false) ∧ (List.find? (fun x => x.ch == ↑(0 : Fin 4) && x.tag == m.tag) s.reads = some r))) ∧
    ((let s : State := { base4.setReg (sqReg 0 0 8) 0x401 with reads := [⟨7, 0, 0, 0x1000, 64, [], 0, 0, 1, 0, (some 9)⟩] , fab := { Fabric.init with ops := [⟨9, .note, 1, 0, 64, 0, 64, false, 64, [], 0, none, 0⟩] } }; let m : Msg := ⟨mkHdr 13 0 7 63 0 1 4096 0, ((List.range 64).map (fun n => BitVec.ofNat 8 (n + 1)))⟩; let r : OutRead := ⟨7, 0, 0, 0x1000, 64, [], 0, 0, 1, 0, (some 9)⟩; (s.readOf (↑(0 : Fin 4)) m.tag m.tenant = some r) ∧ (r.unit = some 9) ∧ (Arrives s (0 : Fin 4) m 13) ∧ (m.status = 0) ∧ (m.off = r.off + r.got.length) ∧ (r.got.length + m.bytes.length = r.len)) ∧
    (let s : State := { base4.setReg (sqReg 0 0 8) 0x401 with reads := [⟨7, 0, 0, 0x1000, 64, [], 0, 0, 1, 0, none⟩] }; let r : OutRead := ⟨7, 0, 0, 0x1000, 64, [], 0, 0, 1, 0, none⟩; (List.find? (fun x => x.ch == ↑(0 : Fin 4) && x.tag == BitVec.toNat (7 : BitVec 16)) s.reads = some r) ∧ ((s.sq r.tenant r.q).epoch = r.epoch) ∧ (r.unit = none) ∧ (s.hapUp = true) ∧ (s.halted = false))) ∧
    (let s : State := { base4.setReg (sqReg 0 0 8) 0x401 with reads := [⟨7, 0, 0, 0x1000, 64, [], 0, 0, 1, 0, none⟩] } |>.setReg 0x30108 1; let r : OutRead := ⟨7, 0, 0, 0x1000, 64, [], 0, 0, 1, 0, none⟩; (List.find? (fun x => x.ch == ↑(0 : Fin 4) && x.tag == BitVec.toNat (7 : BitVec 16)) s.reads = some r) ∧ ((s.sq r.tenant r.q).epoch = r.epoch) ∧ (r.unit = none) ∧ (s.hapUp = true) ∧ (s.halted = true)) :=
  ⟨by decide +kernel, by decide +kernel, by decide +kernel, by decide +kernel, by decide +kernel⟩

theorem witness_HostEventsCreditsAndOutboundMessages :
    ((let s : State := (base1).setTen 0 { Tenant.init with st := .attached, sq := [(0, { SubQueue.init with ends := [3] })], cq := [(0, { CplQueue.init with wr := 4 })] }; (s.hapUp = true) ∧ (bit (s.rd 7340032) ↑(0 : Fin 4) = true) ∧ ((s.chan ↑(0 : Fin 4)).inPosted ≠ 0) ∧ (s.home ↑(0 : Fin 64) = ↑(0 : Fin 4)) ∧ ((s.ten ↑(0 : Fin 64)).st = TState.attached) ∧ (0 < 8)) ∧
    (let s : State := (base1).setTen 0 { Tenant.init with st := .detached, sq := [(0, { SubQueue.init with ends := [3] })], cq := [(0, { CplQueue.init with wr := 4 })] }; (s.hapUp = true) ∧ (bit (s.rd 7340032) ↑(0 : Fin 4) = true) ∧ ((s.chan ↑(0 : Fin 4)).inPosted ≠ 0) ∧ (s.home ↑(0 : Fin 64) = ↑(0 : Fin 4)) ∧ ((s.ten ↑(0 : Fin 64)).st = TState.detached))) ∧
    ((let s : State := (base1).setTen 0 { Tenant.init with st := .resetting, sq := [(0, { SubQueue.init with ends := [3] })], cq := [(0, { CplQueue.init with wr := 4 })] }; (s.hapUp = true) ∧ (bit (s.rd 7340032) ↑(0 : Fin 4) = true) ∧ ((s.chan ↑(0 : Fin 4)).inPosted ≠ 0) ∧ (s.home ↑(0 : Fin 64) = ↑(0 : Fin 4)) ∧ ((s.ten ↑(0 : Fin 64)).st = TState.resetting)) ∧
    (let s : State := base1; (s.hapUp = true) ∧ (0 < 1)) ∧
    (let s : State := (base1).setChan 0 { Chan.init with outPosted := 1, posted := [⟨mkHdr 1 0 0 63 0 1 0 0, (List.range 64).map (BitVec.ofNat 8)⟩] }; let m : OutMsg := ⟨mkHdr 1 0 0 63 0 1 0 0, (List.range 64).map (BitVec.ofNat 8)⟩; let rest : List OutMsg := []; ((s.chan ↑(0 : Fin 4)).posted = m :: rest) ∧ (s.halted = true ∨ bit (s.rd 7340032) ↑(0 : Fin 4) = false ∨ (s.chan ↑(0 : Fin 4)).outPosted < 1 + m.data.length / 64))) ∧
    (let s : State := (base1).setChan 0 { Chan.init with outPosted := 3, posted := [⟨mkHdr 1 0 0 63 0 1 0 0, (List.range 64).map (BitVec.ofNat 8)⟩] }; let m : OutMsg := ⟨mkHdr 1 0 0 63 0 1 0 0, (List.range 64).map (BitVec.ofNat 8)⟩; let rest : List OutMsg := []; ((s.chan ↑(0 : Fin 4)).posted = m :: rest) ∧ (s.hapUp = true) ∧ (bit (s.rd 7340032) ↑(0 : Fin 4) = true) ∧ (s.halted = false) ∧ (1 + m.data.length / 64 ≤ (s.chan ↑(0 : Fin 4)).outPosted)) ∧
    (let s : State := (base1).setChan 0 { Chan.init with outNon := 3, reads := [⟨7, 0, 0, 0x1000, 64, [], 0, 0, 1, 0, none⟩] }; let r : OutRead := ⟨7, 0, 0, 0x1000, 64, [], 0, 0, 1, 0, none⟩; let rest : List OutRead := []; ((s.chan ↑(0 : Fin 4)).reads = r :: rest) ∧ (s.hapUp = true) ∧ (bit (s.rd 7340032) ↑(0 : Fin 4) = true) ∧ (s.halted = false) ∧ (0 < (s.chan ↑(0 : Fin 4)).outNon) ∧ ((List.filter (fun y => y.ch == ↑(0 : Fin 4)) s.reads).length < 256) ∧ (¬∃ m, m ∈ (s.chan ↑(0 : Fin 4)).posted ∧ bits (nth (0 : BitVec 64) m.hdr 0) 59 54 = r.tenant)) ∧
    (let s : State := (base1).setChan 0 { Chan.init with outNon := 0, reads := [⟨7, 0, 0, 0x1000, 64, [], 0, 0, 1, 0, none⟩] }; let r : OutRead := ⟨7, 0, 0, 0x1000, 64, [], 0, 0, 1, 0, none⟩; let rest : List OutRead := []; ((s.chan ↑(0 : Fin 4)).reads = r :: rest) ∧ (s.halted = true ∨ (s.chan ↑(0 : Fin 4)).outNon = 0 ∨ 256 ≤ (List.filter (fun y => y.ch == ↑(0 : Fin 4)) s.reads).length ∨ ∃ m, m ∈ (s.chan ↑(0 : Fin 4)).posted ∧ bits (nth (0 : BitVec 64) m.hdr 0) 59 54 = r.tenant)) :=
  ⟨by decide +kernel, by decide +kernel, by decide +kernel, by decide +kernel, by decide +kernel⟩

theorem witness_SubmissionAndCompletionQueues :
    ((let s : State := (((base1).setTen 0 { Tenant.init with st := .attached, sq := [(0, SubQueue.init)], cq := [(0, CplQueue.init)] }).setReg (sqReg 0 0 8) 0x401 |>.setReg (cqReg 0 0 8) 0x100401); (s.hapUp = true) ∧ (s.attached ↑(0 : Fin 64) = true) ∧ (s.sqError ↑(0 : Fin 64) ↑(0 : Fin 8) = false) ∧ (s.sqOn ↑(0 : Fin 64) ↑(0 : Fin 8) = true) ∧ (bits (3 : W64) 15 0 < s.sqSize ↑(0 : Fin 64) ↑(0 : Fin 8)) ∧ ((bits (3 : W64) 15 0 + s.sqSize ↑(0 : Fin 64) ↑(0 : Fin 8) - (s.sq ↑(0 : Fin 64) ↑(0 : Fin 8)).tail % s.sqSize ↑(0 : Fin 64) ↑(0 : Fin 8)) % s.sqSize ↑(0 : Fin 64) ↑(0 : Fin 8) ≠ 0) ∧ ((s.sq ↑(0 : Fin 64) ↑(0 : Fin 8)).tail - s.sqHead ↑(0 : Fin 64) ↑(0 : Fin 8) + (bits (3 : W64) 15 0 + s.sqSize ↑(0 : Fin 64) ↑(0 : Fin 8) - (s.sq ↑(0 : Fin 64) ↑(0 : Fin 8)).tail % s.sqSize ↑(0 : Fin 64) ↑(0 : Fin 8)) % s.sqSize ↑(0 : Fin 64) ↑(0 : Fin 8) < s.sqSize ↑(0 : Fin 64) ↑(0 : Fin 8))) ∧
    (let s : State := (((base1).setTen 0 { Tenant.init with st := .attached, sq := [(0, SubQueue.init)], cq := [(0, CplQueue.init)] }).setReg (sqReg 0 0 8) 0x401 |>.setReg (cqReg 0 0 8) 0x100401 |>.setReg (sqReg 0 0 0x18) 0x10000); (s.hapUp = true) ∧ (s.attached ↑(0 : Fin 64) = true) ∧ (s.sqError ↑(0 : Fin 64) ↑(0 : Fin 8) = true))) ∧
    (let s : State := (((base1).setTen 0 { Tenant.init with st := .attached, sq := [(0, { SubQueue.init with tail := 5, reading := true })], cq := [(0, CplQueue.init)] }).setReg (sqReg 0 0 8) 0x401 |>.setReg (cqReg 0 0 8) 0x100401); (s.hapUp = true) ∧ (s.attached ↑(0 : Fin 64) = true) ∧ (s.sqError ↑(0 : Fin 64) ↑(0 : Fin 8) = false) ∧ (s.sqOn ↑(0 : Fin 64) ↑(0 : Fin 8) = true) ∧ (s.sqSize ↑(0 : Fin 64) ↑(0 : Fin 8) ≤ bits (3 : W64) 15 0 ∨ (bits (3 : W64) 15 0 + s.sqSize ↑(0 : Fin 64) ↑(0 : Fin 8) - (s.sq ↑(0 : Fin 64) ↑(0 : Fin 8)).tail % s.sqSize ↑(0 : Fin 64) ↑(0 : Fin 8)) % s.sqSize ↑(0 : Fin 64) ↑(0 : Fin 8) ≠ 0 ∧ s.sqSize ↑(0 : Fin 64) ↑(0 : Fin 8) ≤ (s.sq ↑(0 : Fin 64) ↑(0 : Fin 8)).tail - s.sqHead ↑(0 : Fin 64) ↑(0 : Fin 8) + (bits (3 : W64) 15 0 + s.sqSize ↑(0 : Fin 64) ↑(0 : Fin 8) - (s.sq ↑(0 : Fin 64) ↑(0 : Fin 8)).tail % s.sqSize ↑(0 : Fin 64) ↑(0 : Fin 8)) % s.sqSize ↑(0 : Fin 64) ↑(0 : Fin 8)) ∧ ((s.sq ↑(0 : Fin 64) ↑(0 : Fin 8)).reading = true)) ∧
    ((let s : State := (((base1).setTen 0 { Tenant.init with st := .attached, sq := [(0, { SubQueue.init with tail := 5, rd := 1, base := 1, ends := [3, 5] })], cq := [(0, CplQueue.init)] }).setReg (sqReg 0 0 8) 0x401 |>.setReg (cqReg 0 0 8) 0x100401); let rest : List Nat := [5]; (s.hapUp = true) ∧ (s.halted = false) ∧ (s.attached ↑(0 : Fin 64) = true) ∧ (s.sqOn ↑(0 : Fin 64) ↑(0 : Fin 8) = true) ∧ (s.sqError ↑(0 : Fin 64) ↑(0 : Fin 8) = false) ∧ ((s.sq ↑(0 : Fin 64) ↑(0 : Fin 8)).reading = false) ∧ ((s.sq ↑(0 : Fin 64) ↑(0 : Fin 8)).ends = 3 :: rest) ∧ (min (min (3 - (s.sq ↑(0 : Fin 64) ↑(0 : Fin 8)).rd) (64 - (s.sq ↑(0 : Fin 64) ↑(0 : Fin 8)).rd % 64)) (min (s.sqSize ↑(0 : Fin 64) ↑(0 : Fin 8) - (s.sq ↑(0 : Fin 64) ↑(0 : Fin 8)).rd % s.sqSize ↑(0 : Fin 64) ↑(0 : Fin 8)) (s.cqFree (↑(0 : Fin 64)) (s.cqOf ↑(0 : Fin 64) ↑(0 : Fin 8)))) ≠ 0)) ∧
    (let s : State := (((base1).setTen 0 { Tenant.init with st := .attached, sq := [(0, SubQueue.init)], cq := [(0, CplQueue.init)] }).setReg (sqReg 0 0 8) 0x401 |>.setReg (cqReg 0 0 8) 0x100401); s.sqOn ↑(0 : Fin 64) ↑(0 : Fin 8) = false ∨ s.sqError ↑(0 : Fin 64) ↑(0 : Fin 8) = true ∨ (s.sq ↑(0 : Fin 64) ↑(0 : Fin 8)).reading = true ∨ (s.sq ↑(0 : Fin 64) ↑(0 : Fin 8)).ends = [] ∨ s.halted = true) ∧
    (let s : State := (((base1).setTen 0 { Tenant.init with st := .attached, sq := [(0, SubQueue.init)], cq := [(0, { CplQueue.init with wr := 16 })] }).setReg (sqReg 0 0 8) 0x401 |>.setReg (cqReg 0 0 8) 0x100401); (∀ (c : Completion), c ∈ (s.cq ↑(0 : Fin 64) ↑(0 : Fin 8)).waiting → c.resv = false) ∧ (s.cqFree ↑(0 : Fin 64) ↑(0 : Fin 8) = 0))) ∧
    ((let s : State := (((base1).setTen 0 { Tenant.init with st := .attached, sq := [(0, SubQueue.init)], cq := [(0, { CplQueue.init with wr := 17, head := 3, reserved := 1, waiting := [⟨0, 5, 3, 0, 0, 0, 0, 0, 0, 0, true⟩] })] }).setReg (sqReg 0 0 8) 0x401 |>.setReg (cqReg 0 0 8) 0x100401 |>.setReg (cqReg 0 0 8) 0x401); let c : Completion := ⟨0, 5, 3, 0, 0, 0, 0, 0, 0, 0, true⟩; (s.postable ↑(0 : Fin 64) ↑(0 : Fin 8) = some c) ∧ (s.hapUp = true) ∧ (s.attached ↑(0 : Fin 64) = true) ∧ (s.cqOn ↑(0 : Fin 64) ↑(0 : Fin 8) = true) ∧ (c.kind ≠ 0) ∧ (bit (s.rd (cqReg ↑(0 : Fin 64) ↑(0 : Fin 8) 8)) 20 = false)) ∧
    (let s : State := (((base1).setTen 0 { Tenant.init with st := .attached, sq := [(0, SubQueue.init)], cq := [(0, { CplQueue.init with wr := 17, head := 3, reserved := 1, waiting := [⟨0, 5, 3, 0, 0, 0, 0, 0, 0, 0, true⟩] })] }).setReg (sqReg 0 0 8) 0x401 |>.setReg (cqReg 0 0 8) 0x100401 |>.setReg (cqReg 0 0 8) 0x100401); let c : Completion := ⟨0, 5, 3, 0, 0, 0, 0, 0, 0, 0, true⟩; (s.postable ↑(0 : Fin 64) ↑(0 : Fin 8) = some c) ∧ (s.hapUp = true) ∧ (s.attached ↑(0 : Fin 64) = true) ∧ (s.cqOn ↑(0 : Fin 64) ↑(0 : Fin 8) = true) ∧ (c.kind ≠ 0) ∧ (bit (s.rd (cqReg ↑(0 : Fin 64) ↑(0 : Fin 8) 8)) 20 = true))) ∧
    ((let s : State := (((base1).setTen 0 { Tenant.init with st := .attached, sq := [(0, SubQueue.init)], cq := [(0, { CplQueue.init with wr := 17, head := 3 })] }).setReg (sqReg 0 0 8) 0x401 |>.setReg (cqReg 0 0 8) 0x100401); (s.hapUp = true) ∧ (s.attached ↑(0 : Fin 64) = true) ∧ (s.cqOn ↑(0 : Fin 64) ↑(0 : Fin 8) = true) ∧ (bits (0 : W64) 15 0 < s.cqSize ↑(0 : Fin 64) ↑(0 : Fin 8)) ∧ ((s.cq ↑(0 : Fin 64) ↑(0 : Fin 8)).head + (bits (0 : W64) 15 0 + s.cqSize ↑(0 : Fin 64) ↑(0 : Fin 8) - (s.cq ↑(0 : Fin 64) ↑(0 : Fin 8)).head % s.cqSize ↑(0 : Fin 64) ↑(0 : Fin 8)) % s.cqSize ↑(0 : Fin 64) ↑(0 : Fin 8) ≤ (s.cq ↑(0 : Fin 64) ↑(0 : Fin 8)).wr)) ∧
    (let s : State := (((base1).setTen 0 { Tenant.init with st := .attached, sq := [(0, SubQueue.init)], cq := [(0, { CplQueue.init with wr := 17, head := 3 })] }).setReg (sqReg 0 0 8) 0x401 |>.setReg (cqReg 0 0 8) 0x100401); (s.hapUp = true) ∧ (s.attached ↑(0 : Fin 64) = true) ∧ (s.cqSize ↑(0 : Fin 64) ↑(0 : Fin 8) ≤ bits (2 : W64) 15 0 ∨ (s.cq ↑(0 : Fin 64) ↑(0 : Fin 8)).wr < (s.cq ↑(0 : Fin 64) ↑(0 : Fin 8)).head + (bits (2 : W64) 15 0 + s.cqSize ↑(0 : Fin 64) ↑(0 : Fin 8) - (s.cq ↑(0 : Fin 64) ↑(0 : Fin 8)).head % s.cqSize ↑(0 : Fin 64) ↑(0 : Fin 8)) % s.cqSize ↑(0 : Fin 64) ↑(0 : Fin 8))) ∧
    (let s : State := (((base1).setTen 0 { Tenant.init with st := .attached, sq := [(0, { SubQueue.init with tail := 3, ends := [3] })], cq := [(0, CplQueue.init)] }).setReg (sqReg 0 0 8) 0x401 |>.setReg (cqReg 0 0 8) 0x100401); (s.hapUp = true) ∧ (s.attached ↑(0 : Fin 64) = true) ∧ (s.sqOn ↑(0 : Fin 64) ↑(0 : Fin 8) = true) ∧ ((1024 : W64) &&& BitVec.ofNat 64 466689 = setBits (s.rd (sqReg ↑(0 : Fin 64) ↑(0 : Fin 8) 8)) 0 0 0))) ∧
    ((let s : State := (((base1).setTen 0 { Tenant.init with st := .attached, sq := [(0, SubQueue.init)], cq := [(0, CplQueue.init)] }).setReg (sqReg 0 0 8) 0x401 |>.setReg (cqReg 0 0 8) 0x100401 |>.setReg (sqReg 0 0 8) 0x400 |>.setReg (cqReg 0 0 8) 0x400); (s.hapUp = true) ∧ (s.attached ↑(0 : Fin 64) = true) ∧ (s.cqOn ↑(0 : Fin 64) ↑(0 : Fin 8) = false) ∧ (4 ≤ bits ((1025 : W64) &&& BitVec.ofNat 64 2039553) 12 8) ∧ (bits ((1025 : W64) &&& BitVec.ofNat 64 2039553) 12 8 ≤ 16) ∧ (bit ((1025 : W64) &&& BitVec.ofNat 64 2039553) 0 = true)) ∧
    (let s : State := (((base1).setTen 0 { Tenant.init with st := .attached, sq := [(0, SubQueue.init)], cq := [(0, CplQueue.init)] }).setReg (sqReg 0 0 8) 0x401 |>.setReg (cqReg 0 0 8) 0x100401 |>.setReg (sqReg 0 0 8) 0x400); (s.hapUp = true) ∧ (s.attached ↑(0 : Fin 64) = true) ∧ (s.sqOn ↑(0 : Fin 64) ↑(0 : Fin 8) = false) ∧ (4 ≤ bits ((1025 : W64) &&& BitVec.ofNat 64 466689) 12 8) ∧ (bits ((1025 : W64) &&& BitVec.ofNat 64 466689) 12 8 ≤ 16) ∧ (bit ((1025 : W64) &&& BitVec.ofNat 64 466689) 0 = true) ∧ (s.cqOn (↑(0 : Fin 64)) (bits ((1025 : W64) &&& BitVec.ofNat 64 466689) 18 16) = true))) ∧
    ((let s : State := (((base1).setTen 0 { Tenant.init with st := .attached, sq := [(0, { SubQueue.init with tail := 3, ends := [3] })], cq := [(0, CplQueue.init)] }).setReg (sqReg 0 0 8) 0x401 |>.setReg (cqReg 0 0 8) 0x100401); (s.hapUp = true) ∧ (s.attached ↑(0 : Fin 64) = true) ∧ (s.sqOn ↑(0 : Fin 64) ↑(0 : Fin 8) = true) ∧ ((1025 : W64) &&& BitVec.ofNat 64 466689 ≠ setBits (s.rd (sqReg ↑(0 : Fin 64) ↑(0 : Fin 8) 8)) 0 0 0)) ∧
    (let s : State := (((base1).setTen 0 { Tenant.init with st := .attached, sq := [(0, SubQueue.init)], cq := [(0, CplQueue.init)] }).setReg (sqReg 0 0 8) 0x401 |>.setReg (cqReg 0 0 8) 0x100401 |>.setReg (sqReg 0 0 8) 0x400); (s.hapUp = true) ∧ (s.attached ↑(0 : Fin 64) = true) ∧ (s.cqOn ↑(0 : Fin 64) ↑(0 : Fin 8) = true) ∧ ((1024 : W64) &&& BitVec.ofNat 64 2039553 ≠ setBits (s.rd (cqReg ↑(0 : Fin 64) ↑(0 : Fin 8) 8)) 0 0 0 ∨ s.cqNeeded ↑(0 : Fin 64) ↑(0 : Fin 8) = true)) ∧
    (let s : State := (((base1).setTen 0 { Tenant.init with st := .attached, sq := [(0, SubQueue.init)], cq := [(0, CplQueue.init)] }).setReg (sqReg 0 0 8) 0x401 |>.setReg (cqReg 0 0 8) 0x100401 |>.setReg (sqReg 0 0 8) 0x400); (s.hapUp = true) ∧ (s.attached ↑(0 : Fin 64) = true) ∧ (s.cqOn ↑(0 : Fin 64) ↑(0 : Fin 8) = true) ∧ ((1049600 : W64) &&& BitVec.ofNat 64 2039553 = setBits (s.rd (cqReg ↑(0 : Fin 64) ↑(0 : Fin 8) 8)) 0 0 0) ∧ (s.cqNeeded ↑(0 : Fin 64) ↑(0 : Fin 8) = false))) :=
  ⟨by decide +kernel, by decide +kernel, by decide +kernel, by decide +kernel, by decide +kernel, by decide +kernel, by decide +kernel⟩

theorem witness_SubmissionAndCompletionQueues_part2 :
    (let s : State := (((base1).setTen 0 { Tenant.init with st := .attached, sq := [(0, SubQueue.init)], cq := [(0, CplQueue.init)] }).setReg (sqReg 0 0 8) 0x401 |>.setReg (cqReg 0 0 8) 0x100401 |>.setReg (sqReg 0 0 8) 0x400 |>.setReg (cqReg 0 0 8) 0x400); (s.hapUp = true) ∧ (s.attached ↑(0 : Fin 64) = true) ∧ (s.sqOn ↑(0 : Fin 64) ↑(0 : Fin 8) = false) ∧ (4 ≤ bits ((1025 : W64) &&& BitVec.ofNat 64 466689) 12 8) ∧ (bits ((1025 : W64) &&& BitVec.ofNat 64 466689) 12 8 ≤ 16) ∧ (bit ((1025 : W64) &&& BitVec.ofNat 64 466689) 0 = true) ∧ (s.cqOn (↑(0 : Fin 64)) (bits ((1025 : W64) &&& BitVec.ofNat 64 466689) 18 16) = false)) :=
  by decide +kernel

theorem witness_RingsBuffersVectorsAndTenantReset :
    ((let s : State := ((((base6.setTen 0 { Tenant.init with st := .attached , rings := [(0, ⟨9, 0⟩)] }).setChan 0 { Chan.init with inPosted := 8, inNon := 8, outPosted := 8, outNon := 2 })).setReg (ringReg 0 0 8) 0x800); (s.hapUp = true) ∧ (s.attached ↑(0 : Fin 64) = true) ∧ (s.ringOn ↑(0 : Fin 64) ↑(0 : Fin 1024) = false) ∧ (8 ≤ bits ((2049 : W64) &&& BitVec.ofNat 64 2039553) 12 8) ∧ (bits ((2049 : W64) &&& BitVec.ofNat 64 2039553) 12 8 ≤ 20) ∧ (bit ((2049 : W64) &&& BitVec.ofNat 64 2039553) 0 = true)) ∧
    (let s : State := ((((base6.setTen 0 { Tenant.init with st := .attached , rings := [(0, ⟨9, 0⟩)] }).setChan 0 { Chan.init with inPosted := 8, inNon := 8, outPosted := 8, outNon := 2 })).setReg (ringReg 0 0 8) 0x800); (s.hapUp = true) ∧ (s.attached ↑(0 : Fin 64) = true) ∧ (BitVec.toNat (5 : W64) ≤ BitVec.toNat (s.ring ↑(0 : Fin 64) ↑(0 : Fin 1024)).tail) ∧ (BitVec.toNat (s.ring ↑(0 : Fin 64) ↑(0 : Fin 1024)).tail - BitVec.toNat (5 : W64) ≤ s.ringSize ↑(0 : Fin 64) ↑(0 : Fin 1024))) ∧
    (let s : State := ((((base6.setTen 0 { Tenant.init with st := .attached , rings := [(0, ⟨9, 0⟩)] }).setChan 0 { Chan.init with inPosted := 8, inNon := 8, outPosted := 8, outNon := 2 })).setReg (ringReg 0 0 8) 0x800); (s.hapUp = true) ∧ (s.attached ↑(0 : Fin 64) = true) ∧ (BitVec.toNat (s.ring ↑(0 : Fin 64) ↑(0 : Fin 1024)).tail < BitVec.toNat (10 : W64) ∨ s.ringSize ↑(0 : Fin 64) ↑(0 : Fin 1024) < BitVec.toNat (s.ring ↑(0 : Fin 64) ↑(0 : Fin 1024)).tail - BitVec.toNat (10 : W64)))) ∧
    ((let s : State := ((((base6.setTen 0 { Tenant.init with st := .attached , rings := [(0, ⟨9, 0⟩)] }).setChan 0 { Chan.init with inPosted := 8, inNon := 8, outPosted := 8, outNon := 2 })).setReg (ringReg 0 0 8) 0x801); (s.hapUp = true) ∧ (s.attached ↑(0 : Fin 64) = true) ∧ (s.ringOn ↑(0 : Fin 64) ↑(0 : Fin 1024) = true) ∧ ((5 : W64) &&& BitVec.ofNat 64 2039553 ≠ setBits (s.rd (ringReg ↑(0 : Fin 64) ↑(0 : Fin 1024) 8)) 0 0 0 ∨ ∃ i, i ∈ s.entriesOfTenant ↑(0 : Fin 64) ∧ (s.slot i).ring = ↑(0 : Fin 1024))) ∧
    (let s : State := ((((base6.setTen 0 { Tenant.init with st := .attached , rings := [(0, ⟨9, 0⟩)] }).setChan 0 { Chan.init with inPosted := 8, inNon := 8, outPosted := 8, outNon := 2 })).setReg (ringReg 0 0 8) 0x801); (s.hapUp = true) ∧ (s.attached ↑(0 : Fin 64) = true) ∧ (s.ringOn ↑(0 : Fin 64) ↑(0 : Fin 1024) = true) ∧ ((2048 : W64) &&& BitVec.ofNat 64 2039553 = setBits (s.rd (ringReg ↑(0 : Fin 64) ↑(0 : Fin 1024) 8)) 0 0 0) ∧ (¬∃ i, i ∈ s.entriesOfTenant ↑(0 : Fin 64) ∧ (s.slot i).ring = ↑(0 : Fin 1024)))) ∧
    ((let s : State := (((base6.setTen 0 { Tenant.init with st := .attached , buffers := [(0, 3)] }).setChan 0 { Chan.init with inPosted := 8, inNon := 8, outPosted := 8, outNon := 2 })).setSlot 4 { Slot.init with w0 := 0x3000000000000000, inputOpen := true }; (s.hapUp = true) ∧ (s.attached ↑(0 : Fin 64) = true) ∧ (bit (1 : W64) 0 = true)) ∧
    (let s : State := (((base6.setTen 0 { Tenant.init with st := .attached , buffers := [(0, 1)] }).setChan 0 { Chan.init with inPosted := 8, inNon := 8, outPosted := 8, outNon := 2 })).setSlot 4 { Slot.init with w0 := 0x3000000000000000, inputOpen := true }; (s.hapUp = true) ∧ (s.attached ↑(0 : Fin 64) = true) ∧ (s.bufState (↑(0 : Fin 64)) (bits (0 : W64) 15 0) = 1) ∧ (4 ∈ s.namersOf (↑(0 : Fin 64)) (bits (0 : W64) 15 0))) ∧
    (let s : State := (((base6.setTen 0 { Tenant.init with st := .attached , buffers := [(0, 0)] }).setChan 0 { Chan.init with inPosted := 8, inNon := 8, outPosted := 8, outNon := 2 })).setSlot 4 { Slot.init with w0 := 0x3000000000000000, inputOpen := true }; (s.hapUp = true) ∧ (s.attached ↑(0 : Fin 64) = true) ∧ (s.bufState (↑(0 : Fin 64)) (bits (0 : W64) 15 0) = 0) ∧ (bits (0 : W64) 15 0 < s.rf (hReg ↑(0 : Fin 64) 32) 16 0))) ∧
    ((let s : State := (((base6.setTen 0 { Tenant.init with st := .attached , buffers := [(0, 2)] }).setChan 0 { Chan.init with inPosted := 8, inNon := 8, outPosted := 8, outNon := 2 })).setSlot 4 { Slot.init with w0 := 0x3000000000000000, inputOpen := true }; (s.hapUp = true) ∧ (s.attached ↑(0 : Fin 64) = true) ∧ (s.bufState (↑(0 : Fin 64)) (bits (0 : W64) 15 0) = 2)) ∧
    (let s : State := (((base6.setTen 0 { Tenant.init with st := .attached , buffers := [(0, 3)] }).setChan 0 { Chan.init with inPosted := 8, inNon := 8, outPosted := 8, outNon := 2 })).setSlot 4 { Slot.init with w0 := 0x3000000000000000, inputOpen := true }; (s.hapUp = true) ∧ (s.attached ↑(0 : Fin 64) = true) ∧ (bit (0 : W64) 0 = false)) ∧
    (let s : State := (((base6.setTen 0 { Tenant.init with st := .attached , buffers := [(0, 3)] }).setChan 0 { Chan.init with inPosted := 8, inNon := 8, outPosted := 8, outNon := 2 })).setSlot 4 { Slot.init with w0 := 0x3000000000000000, inputOpen := true }; (s.hapUp = true) ∧ (s.attached ↑(0 : Fin 64) = true) ∧ (2 ≤ s.bufState (↑(0 : Fin 64)) (bits (0 : W64) 15 0))) ∧
    (let s : State := (((base6.setTen 0 { Tenant.init with st := .attached , buffers := [(0, 3)] }).setChan 0 { Chan.init with inPosted := 8, inNon := 8, outPosted := 8, outNon := 2 })).setSlot 4 { Slot.init with w0 := 0x3000000000000000, inputOpen := true }; (s.hapUp = true) ∧ (s.attached ↑(0 : Fin 64) = true) ∧ (s.bufState (↑(0 : Fin 64)) (bits (0 : W64) 15 0) ≠ 2))) ∧
    ((let s : State := (((base6.setTen 0 { Tenant.init with st := .attached , buffers := [(0, 1)] }).setChan 0 { Chan.init with inPosted := 8, inNon := 8, outPosted := 8, outNon := 2 })).setSlot 4 { Slot.init with w0 := 0x3000000000000000, inputOpen := true }; (s.hapUp = true) ∧ (s.attached ↑(0 : Fin 64) = true) ∧ (s.bufState (↑(0 : Fin 64)) (bits (0 : W64) 15 0) = 1) ∧ (¬5 ∈ s.namersOf (↑(0 : Fin 64)) (bits (0 : W64) 15 0))) ∧
    (let s : State := { ((((base6.setTen 0 { Tenant.init with st := .attached , vecs := [(0, ⟨5, 0⟩)] }).setChan 0 { Chan.init with inPosted := 8, inNon := 8, outPosted := 8, outNon := 2 })).setReg (tReg 0 0x300) 0x320003).setReg (tReg 0 0x380) 0 with time := 0 }; (s.hapUp = true) ∧ (s.attached ↑(0 : Fin 64) = true) ∧ (0 < (s.vec ↑(0 : Fin 64) ↑(0 : Fin 16)).pending) ∧ (bits (s.rd (tReg (↑(0 : Fin 64)) (768 + 8 * ↑(0 : Fin 16)))) 7 0 ≤ (s.vec ↑(0 : Fin 64) ↑(0 : Fin 16)).pending ∨ BitVec.toNat (s.vec ↑(0 : Fin 64) ↑(0 : Fin 16)).oldest + 1000 * bits (s.rd (tReg (↑(0 : Fin 64)) (768 + 8 * ↑(0 : Fin 16)))) 31 16 ≤ BitVec.toNat s.time) ∧ (bit (s.rd (tReg ↑(0 : Fin 64) 896)) ↑(0 : Fin 16) = false)) ∧
    (let s : State := { ((((base6.setTen 0 { Tenant.init with st := .attached , vecs := [(0, ⟨0, 0⟩)] }).setChan 0 { Chan.init with inPosted := 8, inNon := 8, outPosted := 8, outNon := 2 })).setReg (tReg 0 0x300) 0x320003).setReg (tReg 0 0x380) 1 with time := 0 }; (s.hapUp = true) ∧ (s.attached ↑(0 : Fin 64) = true) ∧ ((s.vec ↑(0 : Fin 64) ↑(0 : Fin 16)).pending = 0 ∨ ¬(bits (s.rd (tReg (↑(0 : Fin 64)) (768 + 8 * ↑(0 : Fin 16)))) 7 0 ≤ (s.vec ↑(0 : Fin 64) ↑(0 : Fin 16)).pending ∨ BitVec.toNat (s.vec ↑(0 : Fin 64) ↑(0 : Fin 16)).oldest + 1000 * bits (s.rd (tReg (↑(0 : Fin 64)) (768 + 8 * ↑(0 : Fin 16)))) 31 16 ≤ BitVec.toNat s.time) ∨ bit (s.rd (tReg ↑(0 : Fin 64) 896)) ↑(0 : Fin 16) = true))) ∧
    ((let s : State := (base1).setTen 0 { Tenant.init with st := .resetting, buffers := [(0, 2)] }; (s.live = true) ∧ ((s.ten ↑(0 : Fin 64)).st = TState.resetting) ∧ (s.tenDrained ↑(0 : Fin 64) = true) ∧ ((s.ten ↑(0 : Fin 64)).attachAfter = false) ∧ ((s.ten ↑(0 : Fin 64)).byDetach = false) ∧ (∀ (p : Nat), p < 16 → ¬((s.part p).load.state = LoadState.loading ∧ (s.part p).load.tenant = ↑(0 : Fin 64)))) ∧
    (let s : State := { (base1).setTen 0 { Tenant.init with st := .resetting, buffers := [(0, 2)] } with reads := [⟨7, 0, 0, 0x1000, 64, [], 0, 0, 1, 0, none⟩] }; (s.live = true) ∧ ((s.ten ↑(0 : Fin 64)).st = TState.resetting) ∧ (s.tenDrained ↑(0 : Fin 64) = false))) :=
  ⟨by decide +kernel, by decide +kernel, by decide +kernel, by decide +kernel, by decide +kernel, by decide +kernel⟩

theorem witness_TierMoverCommands :
    (let s : State := { base5.setTen 0 { Tenant.init with st := .attached } with tier := { Tier.init with queue := [⟨0x10000000009F0000, 1, 0x0, 5, none⟩], moves := [], refs := [], pools := [] } }; let c : TierCmd := ⟨0x10000000009F0000, 1, 0x0, 5, none⟩; (TierReady s 0 1 c) ∧ (s.xlat c.part c.page = Xlat.unmapped) ∧ (s.poolKind c.pool = 1) ∧ (s.t1Room c.part (pageSize c.large) = false)) ∧
    (let s : State := { base5.setTen 0 { Tenant.init with st := .attached } with tier := { Tier.init with queue := [⟨0x10000000009F0000, 1, 0x0, 5, none⟩], moves := [], refs := [], pools := [] } }; let c : TierCmd := ⟨0x10000000009F0000, 1, 0x0, 5, none⟩; (TierReady s 0 1 c) ∧ (s.xlat c.part c.page = Xlat.unmapped) ∧ (s.poolKind c.pool = 0 ∨ s.poolKind c.pool = 1 ∧ ∀ (f : Nat), f ∈ s.poolFrames c.pool → f % pageSize c.large ≠ 0)) ∧
    (let s : State := { (base2.setPart 0 { Part.init with st := .running, t1 := 0 }).setTen 0 { Tenant.init with st := .attached } with tier := { Tier.init with queue := [⟨0x1000000000800000, 1, 0x0, 5, none⟩], moves := [], refs := [], pools := [] } }; let c : TierCmd := ⟨0x1000000000800000, 1, 0x0, 5, none⟩; let e : W64 := (match s.xlat c.part c.page with | .page e _ _ _ => e | _ => 0); let a : Nat := (match s.xlat c.part c.page with | .page _ e _ _ => e | _ => 0); let b : Nat := (match s.xlat c.part c.page with | .page _ _ e _ => e | _ => 0); let n : Nat := (match s.xlat c.part c.page with | .page _ _ _ e => e | _ => 0); (TierReady s 0 1 c) ∧ (s.poolKind c.pool ≤ 1) ∧ (s.xlat c.part c.page = Xlat.page e a b n)) :=
  ⟨⟨tier_ready (by decide +kernel), by decide +kernel⟩, ⟨tier_ready (by decide +kernel), by decide +kernel⟩, ⟨tier_ready (by decide +kernel), by decide +kernel⟩⟩

theorem witness_TierMoverCommands_part2 :
    (let s : State := { base2.setPart 0 { Part.init with st := .running, t1 := 0 } with tier := { Tier.init with queue := [⟨0x11000000009F0000, 1, 0x0, 5, none⟩], moves := [], refs := [], pools := [(0, [0x4410000, 0x4400000]), (1, [0x610000])] } }; let k : Nat := 0; let c : TierCmd := ⟨0x11000000009F0000, 1, 0x0, 5, none⟩; let f : Nat := 0x610000; let s1 : State := (match (s.tierTaken k).drawFrame c.pool (pageSize c.large) with | some x => x.2 | none => s); (TierReady s 0 1 c) ∧ (s.xlat c.part c.page = Xlat.unmapped) ∧ (2 ≤ s.poolKind c.pool) ∧ ((s.tierTaken 0).drawFrame c.pool (pageSize c.large) = some (6356992, s1)) ∧ (s.lowerResp ((fun f => s.poolEntry c.pool f c.large c.pin c.writable) 6356992) ≠ 0)) ∧
    (let s : State := { (base2.setPart 0 { Part.init with st := .running, t1 := 0 }).setTen 0 { Tenant.init with st := .attached } with tier := { Tier.init with queue := [⟨0x10000000009F0000, 1, 0x0, 5, none⟩], moves := [], refs := [], pools := [(0, [0x4410000, 0x4400000]), (1, [0x610000])] } }; let k : Nat := 0; let c : TierCmd := ⟨0x10000000009F0000, 1, 0x0, 5, none⟩; let s1 : State := (match (s.tierTaken k).drawFrame c.pool (pageSize c.large) with | some x => x.2 | none => s); let a : Nat := (match (match (s.tierTaken k).drawFrame c.pool (pageSize c.large) with | some x => x.2 | none => s).ensure c.page (s.ptRoot c.part) (b2n c.large) 4 with | some x => x.1 | none => 0); let s2 : State := (match s1.ensure c.page (s1.ptRoot c.part) (b2n c.large) 4 with | some x => x.2 | none => s); (TierReady s 0 1 c) ∧ (s.xlat c.part c.page = Xlat.unmapped) ∧ (s.poolKind c.pool = 1) ∧ (s.t1Room c.part (pageSize c.large) = true) ∧ ((s.tierTaken 0).drawFrame c.pool (pageSize c.large) = some (71368704, s1)) ∧ (s1.ensure c.page (s1.ptRoot c.part) (b2n c.large) 4 = some (a, s2)) ∧ (s2.hbmWord a = (0 : W64))) ∧
    (let s : State := { (base2.setPart 0 { Part.init with st := .running, t1 := 0 }).setTen 0 { Tenant.init with st := .attached } with tier := { Tier.init with queue := [⟨0x11000000009F0000, 1, 0x0, 5, none⟩], moves := [], refs := [], pools := [(0, [0x4410000, 0x4400000]), (1, [0x610000])] } }; let k : Nat := 0; let c : TierCmd := ⟨0x11000000009F0000, 1, 0x0, 5, none⟩; let f : Nat := 0x610000; let s1 : State := (match (s.tierTaken k).drawFrame c.pool (pageSize c.large) with | some x => x.2 | none => s); let a : Nat := (match (match (s.tierTaken k).drawFrame c.pool (pageSize c.large) with | some x => x.2 | none => s).ensure c.page (s.ptRoot c.part) (b2n c.large) 4 with | some x => x.1 | none => 0); let s2 : State := (match s1.ensure c.page (s1.ptRoot c.part) (b2n c.large) 4 with | some x => x.2 | none => s); (TierReady s 0 1 c) ∧ (s.xlat c.part c.page = Xlat.unmapped) ∧ (2 ≤ s.poolKind c.pool) ∧ ((s.tierTaken 0).drawFrame c.pool (pageSize c.large) = some (6356992, s1)) ∧ (s.lowerResp ((fun f => s.poolEntry c.pool f c.large c.pin c.writable) 6356992) = 0) ∧ (s1.ensure c.page (s1.ptRoot c.part) (b2n c.large) 4 = some (a, s2)) ∧ (s2.hbmWord a = (0 : W64))) :=
  ⟨⟨tier_ready (by decide +kernel), by decide +kernel⟩, ⟨tier_ready (by decide +kernel), by decide +kernel⟩, ⟨tier_ready (by decide +kernel), by decide +kernel⟩⟩

theorem witness_TierMoverCommands_part3 :
    (let s : State := { (base2.setPart 0 { Part.init with st := .running, t1 := 0 }).setTen 0 { Tenant.init with st := .attached } with tier := { Tier.init with queue := [⟨0x20000000009F0000, 1, 0x0, 5, none⟩], moves := [], refs := [], pools := [(0, [0x4410000, 0x4400000]), (1, [0x610000])] } }; let c : TierCmd := ⟨0x20000000009F0000, 1, 0x0, 5, none⟩; let i : Instr := .unmap 0; (TierReady s 0 2 c) ∧ ((2, i) ∈ [(2, i), (3, Instr.promote 0), (4, Instr.demote 0), (5, Instr.ref 0), (6, Instr.unref 0)]) ∧ (2 = 3 → c.pool = 0) ∧ (2 = 4 → c.pool ≠ 0 ∧ s.poolKind c.pool ≠ 1) ∧ (s.xlat c.part c.page = Xlat.unmapped)) ∧
    (let s : State := { (base2.setPart 0 { Part.init with st := .running, t1 := 0 }).setTen 0 { Tenant.init with st := .attached } with tier := { Tier.init with queue := [⟨0x2800000000800000, 1, 0x0, 5, none⟩], moves := [], refs := [], pools := [(0, [0x4410000, 0x4400000]), (1, [0x610000])] } }; let c : TierCmd := ⟨0x2800000000800000, 1, 0x0, 5, none⟩; let i : Instr := .unmap 0; let e : W64 := (match s.xlat c.part c.page with | .page e _ _ _ => e | _ => 0); let a : Nat := (match s.xlat c.part c.page with | .page _ e _ _ => e | _ => 0); let b : Nat := (match s.xlat c.part c.page with | .page _ _ e _ => e | _ => 0); let n : Nat := (match s.xlat c.part c.page with | .page _ _ _ e => e | _ => 0); (TierReady s 0 2 c) ∧ ((2, i) ∈ [(2, i), (3, Instr.promote 0), (4, Instr.demote 0), (5, Instr.ref 0), (6, Instr.unref 0)]) ∧ (2 = 3 → c.pool = 0) ∧ (2 = 4 → c.pool ≠ 0 ∧ s.poolKind c.pool ≠ 1) ∧ (s.xlat c.part c.page = Xlat.page e a b n) ∧ (entryLarge e ≠ c.large)) ∧
    (let s : State := { (base2.setPart 0 { Part.init with st := .running, t1 := 0 }).setTen 0 { Tenant.init with st := .attached } with tier := { Tier.init with queue := [⟨0x3000000000810000, 1, 0x0, 5, none⟩], moves := [], refs := [], pools := [(0, [0x4410000, 0x4400000]), (1, [0x610000])], origin := Sparse.put 0 [] 0x4A00000 1 } }; let c : TierCmd := ⟨0x3000000000810000, 1, 0x0, 5, none⟩; let e : W64 := (match s.xlat c.part c.page with | .page e _ _ _ => e | _ => 0); let a : Nat := (match s.xlat c.part c.page with | .page _ e _ _ => e | _ => 0); let b : Nat := (match s.xlat c.part c.page with | .page _ _ e _ => e | _ => 0); let n : Nat := (match s.xlat c.part c.page with | .page _ _ _ e => e | _ => 0); let f : Nat := 0x4410000; (TierReady s 0 3 c) ∧ (s.xlat c.part c.page = Xlat.page e a b n) ∧ (entryLarge e = c.large) ∧ (c.pool = 0) ∧ (entryTier e ≠ 1) ∧ (s.t1Room c.part n = true) ∧ (List.find? (fun f => decide (f % n = 0)) (s.poolFrames 0) = some 71368704)) :=
  ⟨⟨tier_ready (by decide +kernel), by decide +kernel⟩, ⟨tier_ready (by decide +kernel), by decide +kernel⟩, ⟨tier_ready (by decide +kernel), by decide +kernel⟩⟩

theorem witness_TierMoverCommands_part4 :
    (let s : State := { (base2.setPart 0 { Part.init with st := .running, t1 := 0 }).setTen 0 { Tenant.init with st := .attached } with tier := { Tier.init with queue := [⟨0x4100000000800000, 5, 0x0, 5, none⟩], moves := [], refs := [], pools := [(0, [0x4410000, 0x4400000]), (1, [0x610000])], origin := Sparse.put 0 [] 0x4A00000 1 } }; let c : TierCmd := ⟨0x4100000000800000, 5, 0x0, 5, none⟩; let e : W64 := (match s.xlat c.part c.page with | .page e _ _ _ => e | _ => 0); let a : Nat := (match s.xlat c.part c.page with | .page _ e _ _ => e | _ => 0); let b : Nat := (match s.xlat c.part c.page with | .page _ _ e _ => e | _ => 0); let n : Nat := (match s.xlat c.part c.page with | .page _ _ _ e => e | _ => 0); let f : Nat := 0x610000; (TierReady s 0 4 c) ∧ (s.xlat c.part c.page = Xlat.page e a b n) ∧ (entryLarge e = c.large) ∧ (c.pool ≠ 0) ∧ (s.poolKind c.pool ≠ 1) ∧ (entryTier e = 1) ∧ (entryPinned e = false ∨ c.unpin = true) ∧ (s.poolKind c.pool ≠ 0) ∧ (List.find? (fun f => decide (f % n = 0)) (s.poolFrames c.pool) = some 6356992) ∧ (s.lowerResp (s.poolEntry c.pool 6356992 c.large false false) = 0) ∧ (s.hbmRangeBad (entryFrame e) n = false)) ∧
    (let s : State := { (base2.setPart 0 { Part.init with st := .running, t1 := 0 }).setTen 0 { Tenant.init with st := .attached } with tier := { Tier.init with queue := [⟨0x5000000000800000, 1, 0x0, 5, none⟩], moves := [], refs := [], pools := [(0, [0x4410000, 0x4400000]), (1, [0x610000])], origin := Sparse.put 0 [] 0x4A00000 1 } }; let c : TierCmd := ⟨0x5000000000800000, 1, 0x0, 5, none⟩; let e : W64 := (match s.xlat c.part c.page with | .page e _ _ _ => e | _ => 0); let a : Nat := (match s.xlat c.part c.page with | .page _ e _ _ => e | _ => 0); let b : Nat := (match s.xlat c.part c.page with | .page _ _ e _ => e | _ => 0); let n : Nat := (match s.xlat c.part c.page with | .page _ _ _ e => e | _ => 0); (TierReady s 0 5 c) ∧ (s.xlat c.part c.page = Xlat.page e a b n) ∧ (entryLarge e = c.large)) ∧
    (let s : State := { (base2.setPart 0 { Part.init with st := .running, t1 := 0 }).setTen 0 { Tenant.init with st := .attached } with tier := { Tier.init with queue := [⟨0x6000000000800000, 1, 0x0, 5, none⟩], moves := [], refs := [], pools := [(0, [0x4410000, 0x4400000]), (1, [0x610000])], origin := Sparse.put 0 [] 0x4A00000 1 } }; let c : TierCmd := ⟨0x6000000000800000, 1, 0x0, 5, none⟩; let e : W64 := (match s.xlat c.part c.page with | .page e _ _ _ => e | _ => 0); let a : Nat := (match s.xlat c.part c.page with | .page _ e _ _ => e | _ => 0); let b : Nat := (match s.xlat c.part c.page with | .page _ _ e _ => e | _ => 0); let n : Nat := (match s.xlat c.part c.page with | .page _ _ _ e => e | _ => 0); (TierReady s 0 6 c) ∧ (s.xlat c.part c.page = Xlat.page e a b n) ∧ (entryLarge e = c.large)) :=
  ⟨⟨tier_ready (by decide +kernel), by decide +kernel⟩, ⟨tier_ready (by decide +kernel), by decide +kernel⟩, ⟨tier_ready (by decide +kernel), by decide +kernel⟩⟩

theorem witness_TierMoverCommands_part5 :
    (let s : State := { base5.setTen 0 { Tenant.init with st := .attached } with tier := { Tier.init with queue := [⟨0x4000000000800000, 3, 0x0, 5, none⟩], moves := [], refs := [], pools := [(0, [0x4410000, 0x4400000]), (1, [0x610000])], origin := Sparse.put 0 [] 0x4A00000 1 } }; let c : TierCmd := ⟨0x4000000000800000, 3, 0x0, 5, none⟩; let e : W64 := (match s.xlat c.part c.page with | .page e _ _ _ => e | _ => 0); let a : Nat := (match s.xlat c.part c.page with | .page _ e _ _ => e | _ => 0); let b : Nat := (match s.xlat c.part c.page with | .page _ _ e _ => e | _ => 0); let n : Nat := (match s.xlat c.part c.page with | .page _ _ _ e => e | _ => 0); (TierReady s 0 4 c) ∧ (s.xlat c.part c.page = Xlat.page e a b n) ∧ (entryLarge e = c.large) ∧ (c.pool = 0)) ∧
    (let s : State := { (base2.setPart 0 { Part.init with st := .running, t1 := 0 }).setTen 0 { Tenant.init with st := .attached } with tier := { Tier.init with queue := [⟨0x2000000000800000, 1, 0x0, 5, none⟩], moves := [], refs := [], pools := [(0, [0x4410000, 0x4400000]), (1, [0x610000])], origin := Sparse.put 0 [] 0x4A00000 1 } }; let c : TierCmd := ⟨0x2000000000800000, 1, 0x0, 5, none⟩; let e : W64 := (match s.xlat c.part c.page with | .page e _ _ _ => e | _ => 0); let a : Nat := (match s.xlat c.part c.page with | .page _ e _ _ => e | _ => 0); let b : Nat := (match s.xlat c.part c.page with | .page _ _ e _ => e | _ => 0); let n : Nat := (match s.xlat c.part c.page with | .page _ _ _ e => e | _ => 0); (TierReady s 0 2 c) ∧ (s.xlat c.part c.page = Xlat.page e a b n) ∧ (entryLarge e = c.large) ∧ (s.refOf c.part b = 0)) ∧
    (let s : State := { base5.setTen 0 { Tenant.init with st := .attached } with tier := { Tier.init with queue := [⟨0x3000000000800000, 3, 0x0, 5, none⟩], moves := [], refs := [], pools := [(0, [0x4410000, 0x4400000]), (1, [0x610000])], origin := Sparse.put 0 [] 0x4A00000 1 } }; let c : TierCmd := ⟨0x3000000000800000, 3, 0x0, 5, none⟩; let e : W64 := (match s.xlat c.part c.page with | .page e _ _ _ => e | _ => 0); let a : Nat := (match s.xlat c.part c.page with | .page _ e _ _ => e | _ => 0); let b : Nat := (match s.xlat c.part c.page with | .page _ _ e _ => e | _ => 0); let n : Nat := (match s.xlat c.part c.page with | .page _ _ _ e => e | _ => 0); (TierReady s 0 3 c) ∧ (s.xlat c.part c.page = Xlat.page e a b n) ∧ (entryLarge e = c.large) ∧ (c.pool = 0) ∧ (entryTier e = 1)) :=
  ⟨⟨tier_ready (by decide +kernel), by decide +kernel⟩, ⟨tier_ready (by decide +kernel), by decide +kernel⟩, ⟨tier_ready (by decide +kernel), by decide +kernel⟩⟩

theorem witness_TierMoverCommands_part6 :
    (let s : State := { base5.setTen 0 { Tenant.init with st := .attached } with tier := { Tier.init with queue := [⟨0x2000000000800000, 3, 0x0, 5, none⟩], moves := [], refs := Sparse.put 0 [] (pageKey 0 8388608) 3, pools := [(0, [0x4410000, 0x4400000]), (1, [0x610000])], origin := Sparse.put 0 [] 0x4A00000 1 } }; let c : TierCmd := ⟨0x2000000000800000, 3, 0x0, 5, none⟩; let e : W64 := (match s.xlat c.part c.page with | .page e _ _ _ => e | _ => 0); let a : Nat := (match s.xlat c.part c.page with | .page _ e _ _ => e | _ => 0); let b : Nat := (match s.xlat c.part c.page with | .page _ _ e _ => e | _ => 0); let n : Nat := (match s.xlat c.part c.page with | .page _ _ _ e => e | _ => 0); (TierReady s 0 2 c) ∧ (s.xlat c.part c.page = Xlat.page e a b n) ∧ (entryLarge e = c.large) ∧ (s.refOf c.part b ≠ 0)) ∧
    (let s : State := { (base2.setPart 0 { Part.init with st := .running, t1 := 0 }).setTen 0 { Tenant.init with st := .attached } with tier := { Tier.init with queue := [⟨0x4100000000810000, 5, 0x0, 5, none⟩], moves := [], refs := [], pools := [(0, [0x4410000, 0x4400000]), (1, [0x610000])], origin := Sparse.put 0 [] 0x4A00000 1 } }; let c : TierCmd := ⟨0x4100000000810000, 5, 0x0, 5, none⟩; let e : W64 := (match s.xlat c.part c.page with | .page e _ _ _ => e | _ => 0); let a : Nat := (match s.xlat c.part c.page with | .page _ e _ _ => e | _ => 0); let b : Nat := (match s.xlat c.part c.page with | .page _ _ e _ => e | _ => 0); let n : Nat := (match s.xlat c.part c.page with | .page _ _ _ e => e | _ => 0); (TierReady s 0 4 c) ∧ (s.xlat c.part c.page = Xlat.page e a b n) ∧ (entryLarge e = c.large) ∧ (c.pool ≠ 0) ∧ (s.poolKind c.pool ≠ 1) ∧ (entryTier e ≠ 1)) ∧
    (let s : State := { (base2.setPart 0 { Part.init with st := .running, t1 := 0 }).setTen 0 { Tenant.init with st := .attached } with tier := { Tier.init with queue := [⟨0x4100000000820000, 1, 0x0, 5, none⟩], moves := [], refs := [], pools := [(0, [0x4410000, 0x4400000]), (1, [0x610000])], origin := Sparse.put 0 [] 0x4A00000 1 } }; let c : TierCmd := ⟨0x4100000000820000, 1, 0x0, 5, none⟩; let e : W64 := (match s.xlat c.part c.page with | .page e _ _ _ => e | _ => 0); let a : Nat := (match s.xlat c.part c.page with | .page _ e _ _ => e | _ => 0); let b : Nat := (match s.xlat c.part c.page with | .page _ _ e _ => e | _ => 0); let n : Nat := (match s.xlat c.part c.page with | .page _ _ _ e => e | _ => 0); (TierReady s 0 4 c) ∧ (s.xlat c.part c.page = Xlat.page e a b n) ∧ (entryLarge e = c.large) ∧ (c.pool ≠ 0) ∧ (s.poolKind c.pool ≠ 1) ∧ (entryTier e = 1) ∧ (entryPinned e = true) ∧ (c.unpin = false)) :=
  ⟨⟨tier_ready (by decide +kernel), by decide +kernel⟩, ⟨tier_ready (by decide +kernel), by decide +kernel⟩, ⟨tier_ready (by decide +kernel), by decide +kernel⟩⟩

theorem witness_TierMoverCommands_part7 :
    (let s : State := { base5.setTen 0 { Tenant.init with st := .attached } with tier := { Tier.init with queue := [⟨0x3000000000810000, 3, 0x0, 5, none⟩], moves := [], refs := [], pools := [(0, [0x4410000, 0x4400000]), (1, [0x610000])], origin := Sparse.put 0 [] 0x4A00000 1 } }; let c : TierCmd := ⟨0x3000000000810000, 3, 0x0, 5, none⟩; let e : W64 := (match s.xlat c.part c.page with | .page e _ _ _ => e | _ => 0); let a : Nat := (match s.xlat c.part c.page with | .page _ e _ _ => e | _ => 0); let b : Nat := (match s.xlat c.part c.page with | .page _ _ e _ => e | _ => 0); let n : Nat := (match s.xlat c.part c.page with | .page _ _ _ e => e | _ => 0); (TierReady s 0 3 c) ∧ (s.xlat c.part c.page = Xlat.page e a b n) ∧ (entryLarge e = c.large) ∧ (c.pool = 0) ∧ (entryTier e ≠ 1) ∧ (s.t1Room c.part n = false ∨ ∀ (f : Nat), f ∈ s.poolFrames 0 → f % n ≠ 0)) ∧
    (let s : State := { base2.setPart 0 { Part.init with st := .running, t1 := 0 } with tier := { Tier.init with queue := [⟨0x4100000000800000, 1, 0x0, 5, none⟩], moves := [], refs := [], pools := [(0, [0x4410000, 0x4400000]), (1, [0x610000])], origin := Sparse.put 0 [] 0x4A00000 1 } }; let c : TierCmd := ⟨0x4100000000800000, 1, 0x0, 5, none⟩; let e : W64 := (match s.xlat c.part c.page with | .page e _ _ _ => e | _ => 0); let a : Nat := (match s.xlat c.part c.page with | .page _ e _ _ => e | _ => 0); let b : Nat := (match s.xlat c.part c.page with | .page _ _ e _ => e | _ => 0); let n : Nat := (match s.xlat c.part c.page with | .page _ _ _ e => e | _ => 0); let f : Nat := 0x610000; (TierReady s 0 4 c) ∧ (s.xlat c.part c.page = Xlat.page e a b n) ∧ (entryLarge e = c.large) ∧ (c.pool ≠ 0) ∧ (s.poolKind c.pool ≠ 1) ∧ (entryTier e = 1) ∧ (entryPinned e = false ∨ c.unpin = true) ∧ (s.poolKind c.pool ≠ 0) ∧ (List.find? (fun f => decide (f % n = 0)) (s.poolFrames c.pool) = some 6356992) ∧ (s.lowerResp (s.poolEntry c.pool 6356992 c.large false false) ≠ 0)) ∧
    ((let s : State := { (base2.setPart 0 { Part.init with st := .running, t1 := 0 }).setTen 0 { Tenant.init with st := .attached } with tier := { Tier.init with queue := [], moves := [], refs := [], pools := [(0, [0x4410000, 0x4400000]), (1, [0x610000])] } }; s.tier.queue[0]? = none) ∧
    (let s : State := ((((open_).hbmWrite64 131072 0x1000000000030000).hbmWrite64 131080 0x1)).setReg 0x400000 0x20000 |>.setReg 0x400008 6 |>.setReg 0x400018 0; (s.live = true) ∧ (BitVec.toNat ((1 : W64) &&& (4294967295 : W64)) = (s.rf 4194328 31 0 + 1) % 2 ^ 32) ∧ (1 ≤ ({ w0 := s.hbmWord (BitVec.toNat (s.rd 4194304) + 32 * (s.rf 4194328 31 0 % 2 ^ s.rf 4194312 4 0)), w1 := s.hbmWord (BitVec.toNat (s.rd 4194304) + 32 * (s.rf 4194328 31 0 % 2 ^ s.rf 4194312 4 0) + 8), w2 := s.hbmWord (BitVec.toNat (s.rd 4194304) + 32 * (s.rf 4194328 31 0 % 2 ^ s.rf 4194312 4 0) + 16), w3 := s.hbmWord (BitVec.toNat (s.rd 4194304) + 32 * (s.rf 4194328 31 0 % 2 ^ s.rf 4194312 4 0) + 24), slate := none } : TierCmd).op) ∧ (({ w0 := s.hbmWord (BitVec.toNat (s.rd 4194304) + 32 * (s.rf 4194328 31 0 % 2 ^ s.rf 4194312 4 0)), w1 := s.hbmWord (BitVec.toNat (s.rd 4194304) + 32 * (s.rf 4194328 31 0 % 2 ^ s.rf 4194312 4 0) + 8), w2 := s.hbmWord (BitVec.toNat (s.rd 4194304) + 32 * (s.rf 4194328 31 0 % 2 ^ s.rf 4194312 4 0) + 16), w3 := s.hbmWord (BitVec.toNat (s.rd 4194304) + 32 * (s.rf 4194328 31 0 % 2 ^ s.rf 4194312 4 0) + 24), slate := none } : TierCmd).op ≤ 6)) ∧
    (let s : State := ((((open_).hbmWrite64 131072 0x30000).hbmWrite64 131080 0x1)).setReg 0x400000 0x20000 |>.setReg 0x400008 6 |>.setReg 0x400018 0; (s.live = true) ∧ (BitVec.toNat ((1 : W64) &&& (4294967295 : W64)) = (s.rf 4194328 31 0 + 1) % 2 ^ 32) ∧ (({ w0 := s.hbmWord (BitVec.toNat (s.rd 4194304) + 32 * (s.rf 4194328 31 0 % 2 ^ s.rf 4194312 4 0)), w1 := s.hbmWord (BitVec.toNat (s.rd 4194304) + 32 * (s.rf 4194328 31 0 % 2 ^ s.rf 4194312 4 0) + 8), w2 := s.hbmWord (BitVec.toNat (s.rd 4194304) + 32 * (s.rf 4194328 31 0 % 2 ^ s.rf 4194312 4 0) + 16), w3 := s.hbmWord (BitVec.toNat (s.rd 4194304) + 32 * (s.rf 4194328 31 0 % 2 ^ s.rf 4194312 4 0) + 24), slate := none } : TierCmd).op = 0 ∨ 6 < ({ w0 := s.hbmWord (BitVec.toNat (s.rd 4194304) + 32 * (s.rf 4194328 31 0 % 2 ^ s.rf 4194312 4 0)), w1 := s.hbmWord (BitVec.toNat (s.rd 4194304) + 32 * (s.rf 4194328 31 0 % 2 ^ s.rf 4194312 4 0) + 8), w2 := s.hbmWord (BitVec.toNat (s.rd 4194304) + 32 * (s.rf 4194328 31 0 % 2 ^ s.rf 4194312 4 0) + 16), w3 := s.hbmWord (BitVec.toNat (s.rd 4194304) + 32 * (s.rf 4194328 31 0 % 2 ^ s.rf 4194312 4 0) + 24), slate := none } : TierCmd).op)) ∧
    (let s : State := ((((open_).hbmWrite64 131072 0x1000000000030000).hbmWrite64 131080 0x1)).setReg 0x400000 0x20000 |>.setReg 0x400008 6 |>.setReg 0x400018 0; (s.live = true) ∧ (BitVec.toNat ((0 : W64) &&& (4294967295 : W64)) = s.rf 4194328 31 0))) :=
  ⟨⟨tier_ready (by decide +kernel), by decide +kernel⟩, ⟨tier_ready (by decide +kernel), by decide +kernel⟩, by decide +kernel⟩

theorem witness_TierMovesCompleteAndFramesReturn :
    (let s : State := { (base2.setPart 0 { Part.init with st := .running, t1 := 65536 }).setTen 0 { Tenant.init with st := .attached } with tier := { Tier.init with queue := [], moves := [⟨⟨0x4100000000830000, 1, 0x0, 5, none⟩, true, 0, 8585216, false, 1, 6356992, none, true⟩], refs := [], pools := [(1, [])] }, time := 0 }; let m : Move := ⟨⟨0x4100000000830000, 1, 0x0, 5, none⟩, true, 0, 8585216, false, 1, 6356992, none, true⟩; let e : W64 := (match s.xlat 0 m.page with | .page e _ _ _ => e | _ => 0); let a : Nat := (match s.xlat 0 m.page with | .page _ e _ _ => e | _ => 0); let b : Nat := (match s.xlat 0 m.page with | .page _ _ e _ => e | _ => 0); let n : Nat := (match s.xlat 0 m.page with | .page _ _ _ e => e | _ => 0); let i : Instr := .demoteComplete 0 8585216; (1 = 1 ∧ i = i ∧ m.hit = true ∨ 1 = 7 ∧ i = i ∧ m.hit = false ∧ (s.opsOf (UnitUse.move (↑(0 : Fin 16)) (BitVec.toNat (8585216 : BitVec 52))) = [] ∨ ∃ r bs, s.moveResp (↑(0 : Fin 16)) (BitVec.toNat (8585216 : BitVec 52)) = some (r, bs) ∧ r ≠ 0) ∨ (1 = if m.hit = true then 1 else 2) ∧ i = Instr.demoteWaitExpire (0 : Fin 16) (8585216 : BitVec 52) ∧ ∃ t0, m.copied = some t0 ∧ BitVec.toNat t0 + 1000 * s.rf 4194336 9 0 ≤ BitVec.toNat s.time) ∧ (s.live = true) ∧ (s.moveAt (↑(0 : Fin 16)) (BitVec.toNat (8585216 : BitVec 52)) true = some m) ∧ (s.xlat m.part m.page = Xlat.page e a b n)) ∧
    (let s : State := { (base2.setPart 0 { Part.init with st := .running, t1 := 65536 }).setTen 0 { Tenant.init with st := .attached } with tier := { Tier.init with queue := [], moves := [⟨⟨0x3000000000840000, 1, 0x0, 5, none⟩, false, 0, 8650752, false, 0, 71368704, none, false⟩], refs := [], pools := [(0, [0x4400000])] }, fab := { Fabric.init with ops := [⟨0x8000, .move 0 8650752, 1, 27021597764354048, 65536, 27021597764354048, 65536, false, 0, [1, 2, 3], 0, none, 0⟩] } }; let m : Move := ⟨⟨0x3000000000840000, 1, 0x0, 5, none⟩, false, 0, 8650752, false, 0, 71368704, none, false⟩; let e : W64 := (match s.xlat 0 m.page with | .page e _ _ _ => e | _ => 0); let a : Nat := (match s.xlat 0 m.page with | .page _ e _ _ => e | _ => 0); let b : Nat := (match s.xlat 0 m.page with | .page _ _ e _ => e | _ => 0); let n : Nat := (match s.xlat 0 m.page with | .page _ _ _ e => e | _ => 0); (s.live = true) ∧ (s.moveAt (↑(0 : Fin 16)) (BitVec.toNat (8650752 : BitVec 52)) false = some m) ∧ (s.xlat (↑(0 : Fin 16)) m.page = Xlat.page e a b n) ∧ (s.moveResp (↑(0 : Fin 16)) (BitVec.toNat (8650752 : BitVec 52)) = none)) ∧
    (let s : State := { (base2.setPart 0 { Part.init with st := .running, t1 := 65536 }).setTen 0 { Tenant.init with st := .attached } with tier := { Tier.init with queue := [], moves := [⟨⟨0x3000000000810000, 1, 0x0, 5, none⟩, false, 0, 8454144, false, 0, 71368704, none, false⟩], refs := [], pools := [(0, [0x4400000])] }, fab := { Fabric.init with ops := [⟨0x8000, .move 0 8454144, 1, 27021597764354048, 65536, 27021597764354048, 65536, false, 0, [1, 2, 3], 0, some 0, 0⟩] } }; let m : Move := ⟨⟨0x3000000000810000, 1, 0x0, 5, none⟩, false, 0, 8454144, false, 0, 71368704, none, false⟩; let e : W64 := (match s.xlat 0 m.page with | .page e _ _ _ => e | _ => 0); let a : Nat := (match s.xlat 0 m.page with | .page _ e _ _ => e | _ => 0); let b : Nat := (match s.xlat 0 m.page with | .page _ _ e _ => e | _ => 0); let n : Nat := (match s.xlat 0 m.page with | .page _ _ _ e => e | _ => 0); let bs : List Byte := [1, 2, 3]; (s.live = true) ∧ (s.moveAt (↑(0 : Fin 16)) (BitVec.toNat (8454144 : BitVec 52)) false = some m) ∧ (s.xlat (↑(0 : Fin 16)) m.page = Xlat.page e a b n) ∧ (s.moveResp (↑(0 : Fin 16)) (BitVec.toNat (8454144 : BitVec 52)) = some (0, bs))) ∧
    (let s : State := { (base2.setPart 0 { Part.init with st := .running, t1 := 65536 }).setTen 0 { Tenant.init with st := .attached } with tier := { Tier.init with queue := [], moves := [⟨⟨0x3000000000810000, 1, 0x0, 5, none⟩, false, 0, 8454144, false, 0, 71368704, none, false⟩], refs := [], pools := [(0, [0x4400000])] }, fab := { Fabric.init with ops := [⟨0x8000, .move 0 8454144, 1, 27021597764354048, 65536, 27021597764354048, 65536, false, 0, [1, 2, 3], 0, some 6, 0⟩] } }; let m : Move := ⟨⟨0x3000000000810000, 1, 0x0, 5, none⟩, false, 0, 8454144, false, 0, 71368704, none, false⟩; let e : W64 := (match s.xlat 0 m.page with | .page e _ _ _ => e | _ => 0); let a : Nat := (match s.xlat 0 m.page with | .page _ e _ _ => e | _ => 0); let b : Nat := (match s.xlat 0 m.page with | .page _ _ e _ => e | _ => 0); let n : Nat := (match s.xlat 0 m.page with | .page _ _ _ e => e | _ => 0); let bs : List Byte := [1, 2, 3]; (s.live = true) ∧ (s.moveAt (↑(0 : Fin 16)) (BitVec.toNat (8454144 : BitVec 52)) false = some m) ∧ (s.xlat (↑(0 : Fin 16)) m.page = Xlat.page e a b n) ∧ (s.moveResp (↑(0 : Fin 16)) (BitVec.toNat (8454144 : BitVec 52)) = some (6, bs)) ∧ (6 ≠ 0)) ∧
    (let s : State := { (base2.setPart 0 { Part.init with st := .running, t1 := 65536 }).setTen 0 { Tenant.init with st := .attached } with tier := { Tier.init with queue := [], moves := [⟨⟨0x4100000000830000, 1, 0x0, 5, none⟩, true, 0, 8585216, false, 1, 6356992, none, false⟩], refs := Sparse.put 0 [] (pageKey 0 8585216) 3, pools := [(1, [])] }, time := 0, fab := { Fabric.init with ops := [⟨0x8000, .move 0 8585216, 1, 27021597764354048, 65536, 27021597764354048, 65536, false, 0, [1, 2, 3], 0, some 0, 0⟩] } }; let m : Move := ⟨⟨0x4100000000830000, 1, 0x0, 5, none⟩, true, 0, 8585216, false, 1, 6356992, none, false⟩; let e : W64 := (match s.xlat 0 m.page with | .page e _ _ _ => e | _ => 0); let a : Nat := (match s.xlat 0 m.page with | .page _ e _ _ => e | _ => 0); let b : Nat := (match s.xlat 0 m.page with | .page _ _ e _ => e | _ => 0); let n : Nat := (match s.xlat 0 m.page with | .page _ _ _ e => e | _ => 0); let bs : List Byte := [1, 2, 3]; (s.live = true) ∧ (s.moveAt (↑(0 : Fin 16)) (BitVec.toNat (8585216 : BitVec 52)) true = some m) ∧ (s.xlat m.part m.page = Xlat.page e a b n) ∧ (m.hit = false) ∧ (s.moveResp (↑(0 : Fin 16)) (BitVec.toNat (8585216 : BitVec 52)) = some (0, bs)) ∧ (s.refOf (↑(0 : Fin 16)) b ≠ 0) ∧ (m.copied = none)) ∧
    (let s : State := { (base2.setPart 0 { Part.init with st := .running, t1 := 65536 }).setTen 0 { Tenant.init with st := .attached } with tier := { Tier.init with queue := [], moves := [⟨⟨0x4100000000830000, 1, 0x0, 5, none⟩, true, 0, 8585216, false, 1, 6356992, some 5, true⟩], refs := [], pools := [(1, [])] }, time := 0 }; let m : Move := ⟨⟨0x4100000000830000, 1, 0x0, 5, none⟩, true, 0, 8585216, false, 1, 6356992, some 5, true⟩; let e : W64 := (match s.xlat 0 m.page with | .page e _ _ _ => e | _ => 0); let a : Nat := (match s.xlat 0 m.page with | .page _ e _ _ => e | _ => 0); let b : Nat := (match s.xlat 0 m.page with | .page _ _ e _ => e | _ => 0); let n : Nat := (match s.xlat 0 m.page with | .page _ _ _ e => e | _ => 0); (s.live = true) ∧ (s.moveAt (↑(0 : Fin 16)) (BitVec.toNat (8585216 : BitVec 52)) true = some m) ∧ (s.xlat m.part m.page = Xlat.page e a b n) ∧ (m.copied = some (5 : W64)) ∧ (BitVec.toNat s.time < BitVec.toNat (5 : W64) + 1000 * s.rf 4194336 9 0)) :=
  ⟨⟨Or.inl (by decide +kernel), by decide +kernel⟩, by decide +kernel, by decide +kernel, by decide +kernel, by decide +kernel, by decide +kernel⟩

theorem witness_TierMovesCompleteAndFramesReturn_part2 :
    (let s : State := { (base2.setPart 0 { Part.init with st := .running, t1 := 65536 }).setTen 0 { Tenant.init with st := .attached } with tier := { Tier.init with queue := [], moves := [⟨⟨0x4100000000830000, 1, 0x0, 5, none⟩, true, 0, 8585216, false, 1, 6356992, none, false⟩], refs := [], pools := [(1, [])] }, time := 0, fab := { Fabric.init with ops := [⟨0x8000, .move 0 8585216, 1, 27021597764354048, 65536, 27021597764354048, 65536, false, 0, [1, 2, 3], 0, some 0, 0⟩] } }; let m : Move := ⟨⟨0x4100000000830000, 1, 0x0, 5, none⟩, true, 0, 8585216, false, 1, 6356992, none, false⟩; let e : W64 := (match s.xlat 0 m.page with | .page e _ _ _ => e | _ => 0); let a : Nat := (match s.xlat 0 m.page with | .page _ e _ _ => e | _ => 0); let b : Nat := (match s.xlat 0 m.page with | .page _ _ e _ => e | _ => 0); let n : Nat := (match s.xlat 0 m.page with | .page _ _ _ e => e | _ => 0); let bs : List Byte := [1, 2, 3]; (s.live = true) ∧ (s.moveAt (↑(0 : Fin 16)) (BitVec.toNat (8585216 : BitVec 52)) true = some m) ∧ (s.xlat m.part m.page = Xlat.page e a b n) ∧ (m.hit = false) ∧ (s.moveResp (↑(0 : Fin 16)) (BitVec.toNat (8585216 : BitVec 52)) = some (0, bs)) ∧ (s.refOf (↑(0 : Fin 16)) b = 0)) ∧
    (let s : State := { (base2.setPart 0 { Part.init with st := .running, t1 := 65536 }).setTen 0 { Tenant.init with st := .attached } with tier := { Tier.init with queue := [], moves := [⟨⟨0x4100000000830000, 1, 0x0, 5, none⟩, true, 0, 8585216, false, 1, 6356992, none, false⟩], refs := [], pools := [(1, [])] }, time := 0, fab := { Fabric.init with ops := [⟨0x8000, .move 0 8585216, 1, 27021597764354048, 65536, 27021597764354048, 65536, false, 0, [1, 2, 3], 0, none, 0⟩] } }; let m : Move := ⟨⟨0x4100000000830000, 1, 0x0, 5, none⟩, true, 0, 8585216, false, 1, 6356992, none, false⟩; let e : W64 := (match s.xlat 0 m.page with | .page e _ _ _ => e | _ => 0); let a : Nat := (match s.xlat 0 m.page with | .page _ e _ _ => e | _ => 0); let b : Nat := (match s.xlat 0 m.page with | .page _ _ e _ => e | _ => 0); let n : Nat := (match s.xlat 0 m.page with | .page _ _ _ e => e | _ => 0); (s.live = true) ∧ (s.moveAt (↑(0 : Fin 16)) (BitVec.toNat (8585216 : BitVec 52)) true = some m) ∧ (s.xlat m.part m.page = Xlat.page e a b n) ∧ (m.hit = false) ∧ (s.opsOf (UnitUse.move (↑(0 : Fin 16)) (BitVec.toNat (8585216 : BitVec 52))) ≠ []) ∧ (s.moveResp (↑(0 : Fin 16)) (BitVec.toNat (8585216 : BitVec 52)) = none)) ∧
    ((let s : State := { (base2.setPart 0 { Part.init with st := .running, t1 := 0 }).setTen 0 { Tenant.init with st := .attached } with tier := { Tier.init with queue := [], moves := [], refs := [], pools := [(0, [0x4410000, 0x4400000]), (1, [0x610000])], releasing := [⟨1, 0x630000, 100⟩] }, time := 30000 }; let r : Releasing := ⟨1, 0x630000, 100⟩; (s.live = true) ∧ (s.tier.releasing[0]? = some r) ∧ (BitVec.toNat r.since + 25000 ≤ BitVec.toNat s.time) ∧ (0 ≠ r.pool)) ∧
    (let s : State := { (base2.setPart 0 { Part.init with st := .running, t1 := 0 }).setTen 0 { Tenant.init with st := .attached } with tier := { Tier.init with queue := [], moves := [], refs := [], pools := [(0, [0x4410000, 0x4400000]), (1, [0x610000])], releasing := [⟨1, 0x630000, 100⟩] }, time := 10 }; let r : Releasing := ⟨1, 0x630000, 100⟩; (s.live = true) ∧ (s.tier.releasing[0]? = some r) ∧ (BitVec.toNat s.time < BitVec.toNat r.since + 25000)) ∧
    (let s : State := { (base2.setPart 0 { Part.init with st := .running, t1 := 0 }).setTen 0 { Tenant.init with st := .attached } with tier := { Tier.init with queue := [], moves := [], refs := [], pools := [(0, [0x4410000, 0x4400000]), (1, [0x610000])], runs := [] }, time := 2000000 }; (s.live = true) ∧ (BitVec.toNat s.tier.window + 10 ^ 6 ≤ BitVec.toNat s.time) ∧ (∀ (k : Nat), k < s.design.stacks → Sparse.get 0 s.tier.runs k < 1000))) ∧
    ((let s : State := { (base2.setPart 0 { Part.init with st := .running, t1 := 0 }).setTen 0 { Tenant.init with st := .attached } with tier := { Tier.init with queue := [], moves := [], refs := [], pools := [(0, [0x4410000, 0x4400000]), (1, [0x610000])], runs := [(0, 1000), (3, 4)] }, time := 2000000 }; let bytes : List Nat := [100000000000, 5, 6, 7]; (s.live = true) ∧ (BitVec.toNat s.tier.window + 10 ^ 6 ≤ BitVec.toNat s.time) ∧ (0 < s.design.stacks) ∧ (s.rf 4194368 15 0 * 10 ^ 6 ≤ List.foldl (fun x1 x2 => x1 + x2) 0 (List.take s.design.stacks bytes)) ∧ (overShare s.design.stacks (List.foldl (fun x1 x2 => x1 + x2) 0 (List.take s.design.stacks bytes)) bytes 0) ∧ (Sparse.get 0 s.tier.runs 0 = 1000)) ∧
    (let s : State := { (base2.setPart 0 { Part.init with st := .running, t1 := 0 }).setTen 0 { Tenant.init with st := .attached } with tier := { Tier.init with queue := [], moves := [], refs := [], pools := [(0, [0x4410000, 0x4400000]), (1, [0x610000])], runs := [] } }; (s.live = true) ∧ (BitVec.toNat s.time < BitVec.toNat s.tier.window + 10 ^ 6))) ∧
    (let s : State := { (base2.setPart 0 { Part.init with st := .running, t1 := 0 }).setTen 0 { Tenant.init with st := .attached } with tier := { Tier.init with queue := [], moves := [], refs := [], pools := [(0, [0x4410000, 0x4400000]), (1, [0x610000])], runs := [] }, time := 2000000 }; let bytes : List Nat := [1, 2]; (s.live = true) ∧ (BitVec.toNat s.tier.window + 10 ^ 6 ≤ BitVec.toNat s.time) ∧ (0 < s.design.stacks) ∧ (¬s.rf 4194368 15 0 * 10 ^ 6 ≤ List.foldl (fun x1 x2 => x1 + x2) 0 (List.take s.design.stacks bytes) ∨ ¬overShare s.design.stacks (List.foldl (fun x1 x2 => x1 + x2) 0 (List.take s.design.stacks bytes)) bytes 0)) :=
  ⟨by decide +kernel, by decide +kernel, by decide +kernel, by decide +kernel, by decide +kernel⟩

theorem witness_HardwareErrorsAndChannels :
    (let s : State := { (open_) with flt := { Faults.init with spareUsed := [] } }; (∀ (c : Nat), ¬(↑(0 : Fin 16), c) ∈ s.flt.copying) ∧ (s.live = true) ∧ (↑(0 : Fin 16) < s.design.stacks) ∧ (¬↑(0 : Fin 16) ∈ s.flt.spareUsed) ∧ (¬(↑(0 : Fin 16), ↑(0 : Fin 31)) ∈ s.flt.lostCh)) ∧
    (((open_.powered = true) ∧ (BitVec.toNat (open_.rd 196624 - open_.rd 196632) ≠ 2 ^ open_.rf 196616 4 0)) ∧
    (let s : State := ((open_).setReg 0x30010 4).setReg 0x30008 2; (s.powered = true) ∧ (BitVec.toNat (s.rd 196624 - s.rd 196632) = 2 ^ s.rf 196616 4 0)) ∧
    (let ph : Fin 544 := 1; let off : Nat := 0; let loc : ErrLoc := ErrLoc.bead ph off; (open_.powered = true) ∧ (loc ∈ [loc, ErrLoc.imem ↑(1 : Fin 544) 0]) ∧ (BitVec.toNat (open_.rd 196624 - open_.rd 196632) ≠ 2 ^ open_.rf 196616 4 0))) ∧
    ((let s : State := ((open_).setReg 0x30010 4).setReg 0x30008 2; let ph : Fin 544 := 0; let off : Nat := 0; let loc : ErrLoc := ErrLoc.bead ph off; (s.powered = true) ∧ (loc ∈ [loc, ErrLoc.imem ↑(0 : Fin 544) 0]) ∧ (BitVec.toNat (s.rd 196624 - s.rd 196632) = 2 ^ s.rf 196616 4 0)) ∧
    (open_.powered = true) ∧
    ((open_.powered = true) ∧ (open_.partOfPhys ↑(1 : Fin 544) = some 0) ∧ ((open_.part 0).st = PState.running)) ∧
    ((open_.powered = true) ∧ (BitVec.toNat (open_.rd 196624 - open_.rd 196632) ≠ 2 ^ open_.rf 196616 4 0)) ∧
    (let s : State := ((open_).setReg 0x30010 4).setReg 0x30008 2; (s.powered = true) ∧ (BitVec.toNat (s.rd 196624 - s.rd 196632) = 2 ^ s.rf 196616 4 0))) ∧
    (((open_.powered = true) ∧ (open_.partOfPhys ↑(543 : Fin 544) = none)) ∧
    (let ph : Fin 544 := 1; let off : Nat := 0; let loc : ErrLoc := ErrLoc.imem ph off; (open_.powered = true) ∧ (open_.partOfPhys ↑(1 : Fin 544) = some 0) ∧ ((open_.part 0).st = PState.running) ∧ ((open_.rod ↑(1 : Fin 544)).reported = false) ∧ (loc ∈ [loc, ErrLoc.rodUnit ↑(1 : Fin 544)])) ∧
    (let s : State := { (open_) with flt := { Faults.init with copying := [(0, 3)] } }; (s.live = true) ∧ (↑(0 : Fin 16) < s.design.stacks) ∧ (List.find? (fun x => x.fst == ↑(0 : Fin 16)) s.flt.copying = some (↑(0 : Fin 16), ↑(3 : Fin 31))))) ∧
    ((let s : State := { (serving) with flt := { Faults.init with spareUsed := [0] } }; (s.live = true) ∧ (↑(0 : Fin 16) < s.design.stacks) ∧ (↑(0 : Fin 16) ∈ s.flt.spareUsed) ∧ (∀ (p : Nat), p < 16 → (s.part p).st = PState.off)) ∧
    (let s : State := { (open_) with flt := { Faults.init with spareUsed := [] } }; (s.live = true) ∧ (↑(0 : Fin 16) < s.design.stacks) ∧ (List.find? (fun x => x.fst == ↑(0 : Fin 16)) s.flt.copying = none)) ∧
    ((open_.live = true) ∧ ((open_.part ↑(0 : Fin 16)).st = PState.running)) ∧
    ((open_.live = true) ∧ (BitVec.toNat (open_.rd 196624 - open_.rd 196632) ≠ 2 ^ open_.rf 196616 4 0)) ∧
    (let s : State := ((open_).setReg 0x30010 4).setReg 0x30008 2; (s.live = true) ∧ (BitVec.toNat (s.rd 196624 - s.rd 196632) = 2 ^ s.rf 196616 4 0))) :=
  ⟨⟨fun _ h => List.not_mem_nil h, by decide +kernel⟩, by decide +kernel, by decide +kernel, by decide +kernel, by decide +kernel⟩

theorem witness_SparesRotationAndBeamPairs :
    ((let s : State := { ((open_).onRod 0 (fun r => { r with raised := [⟨0x0A, 8, 0, 3, 0, 0⟩], reported := true })) with flt := { Faults.init with retired := [] }, design := .cx128 }; let l : Fin 512 := 0; let n : Nat := (s.spares (s.isReckon l)).headD 0; let rest : List Nat := (s.spares (s.isReckon l)).tail; let e : Raised := ⟨0x0A, 8, 0, 3, 0, 0⟩; (s.live = true) ∧ (↑(0 : Fin 512) < s.design.rods) ∧ (s.partOf ↑(0 : Fin 512) = some 0) ∧ (oldestRaised (s.rod (s.phys ↑(0 : Fin 512))).raised = some e) ∧ (e.cause = 10) ∧ (e.resp = 0) ∧ ((s.rod (s.phys ↑(0 : Fin 512))).reported = true) ∧ (¬s.phys ↑(0 : Fin 512) ∈ s.flt.retired) ∧ (s.spares (s.isReckon ↑(0 : Fin 512)) = n :: rest)) ∧
    (let s : State := { ((open_).onRod 0 (fun r => { r with raised := [⟨0x0A, 8, 0, 3, 0, 0⟩], reported := true })) with flt := { Faults.init with retired := [] }, design := .cx128 }; s.flt.retired.contains (s.phys ↑(3 : Fin 512)) = true ∨ (s.rod (s.phys ↑(3 : Fin 512))).reported = false)) ∧
    (let s : State := { ((open_).onRod 0 (fun r => { r with raised := [⟨0x0A, 8, 0, 3, 0, 0⟩], reported := true })) with flt := { Faults.init with retired := [] }, design := .cx128 }; let l : Fin 512 := 0; let n : Nat := (s.spares (s.isReckon l)).headD 0; let rest : List Nat := (s.spares (s.isReckon l)).tail; (s.live = true) ∧ (↑(0 : Fin 512) < s.design.rods) ∧ (¬s.phys ↑(0 : Fin 512) ∈ s.flt.retired) ∧ (¬s.phys ↑(0 : Fin 512) ∈ s.flt.pendingRods) ∧ (∀ (p : Nat), s.partOfPhys (s.phys ↑(0 : Fin 512)) = some p → (s.part p).opened = none) ∧ (s.logicalOf (s.phys ↑(0 : Fin 512)) = some ↑(0 : Fin 512)) ∧ (s.spares (s.isReckon ↑(0 : Fin 512)) = n :: rest)) ∧
    ((let s : State := { ((open_.onPart 0 (fun x => { x with opened := some desc0 })).onRod 0 (fun r => { r with raised := [⟨0x0A, 8, 0, 3, 0, 0⟩], reported := true })) with flt := { Faults.init with retired := [] }, design := .cx128 }; (s.live = true) ∧ (↑(0 : Fin 512) < s.design.rods) ∧ (¬s.phys ↑(0 : Fin 512) ∈ s.flt.retired) ∧ (¬s.phys ↑(0 : Fin 512) ∈ s.flt.pendingRods) ∧ (s.partOfPhys (s.phys ↑(0 : Fin 512)) = some 0) ∧ ((s.part 0).opened ≠ none)) ∧
    (let s : State := { (open_) with flt := { Faults.init with fuseRecs := [] } }; (s.live = true) ∧ (↑(0 : Fin 544) < s.design.physRods) ∧ (¬(↑(0 : Fin 544), 0) ∈ s.flt.repairs) ∧ ((List.filter (fun r => r.fst == 3 && r.snd.fst == ↑(0 : Fin 544)) (s.flt.fuseRecs ++ s.flt.kept)).length < 4) ∧ (s.flt.fuseRecs.length < 1024))) ∧
    (let s : State := { (open_) with flt := { Faults.init with kept := (List.range 24).map (fun k => (3, 0, k)) } }; (s.live = true) ∧ (↑(0 : Fin 544) < s.design.physRods) ∧ (¬(↑(0 : Fin 544), 0) ∈ s.flt.repairs) ∧ (24 ≤ (List.filter (fun r => r.fst == 3 && r.snd.fst == ↑(0 : Fin 544)) (s.flt.fuseRecs ++ s.flt.kept)).length)) ∧
    (let s : State := { (open_) with tst := { Test.init with nextTally := true }, design := .cx128 }; let ph : Fin 544 := 0; let l : Nat := (s.logicalOf ph).getD 0; let a : Nat := (s.spares (!s.tst.nextTally)).headD 0; let b : Nat := nth 0 (s.spares (!s.tst.nextTally)) 1; let rest : List Nat := (s.spares (!s.tst.nextTally)).drop 2; (s.live = true) ∧ (s.stalled = false) ∧ ((s.oldestRod !s.tst.nextTally) = some ↑(0 : Fin 544)) ∧ ((s.spares !s.tst.nextTally) = a :: b :: rest) ∧ (s.logicalOf ↑(0 : Fin 544) = some l) ∧ (s.partOf l = some 0) ∧ (s.idle 0 = true) ∧ ((s.part 0).st = PState.running)) ∧
    ((let s : State := { (open_) with flt := { Faults.init with untested := [3, 512] } }; (s.live = true) ∧ (↑(3 : Fin 544) ∈ s.flt.untested) ∧ (¬↑(3 : Fin 544) ∈ s.flt.retired)) ∧
    (let s : State := { ((serving.setReg (pReg 0 8) 1).setPart 0 { Part.init with st := .held, hold := 4, peerWait := some (3, 0) }) with time := 5001000000 }; (s.live = true) ∧ (s.present ↑(3 : Fin 8) = false) ∧ ((s.part ↑(0 : Fin 16)).peerWait = some (↑(3 : Fin 8), (0 : W64))) ∧ (BitVec.toNat (0 : W64) + 1000000 * s.rf 196664 13 0 ≤ BitVec.toNat s.time) ∧ (∀ (q : Nat), q < 16 → q ≠ ↑(0 : Fin 16) → (s.part q).peerWait = none) ∧ (((s.poolLost ↑(3 : Fin 8)).part ↑(0 : Fin 16)).st = PState.held) ∧ ((s.poolLost ↑(3 : Fin 8)).rf (200712 + 64 * ↑(0 : Fin 16)) 7 0 = 0)) ∧
    (let s : State := { (open_) with fab := { Fabric.init with peers := [(3, ⟨3, 3, false, 7, [], 4⟩)] } }; s.present ↑(3 : Fin 8) = true)) ∧
    ((let s : State := ((open_).setReg 0x30010 4).setReg 0x30008 2; let b : Bool := false; let i : Instr := .heartbeatExpire b; (s.powered = true) ∧ (i ∈ [Instr.lockstepMismatch false, i]) ∧ (¬false ∈ s.flt.stopped) ∧ (BitVec.toNat (s.rd 196624 - s.rd 196632) = 2 ^ s.rf 196616 4 0)) ∧
    (let s : State := { (open_) with flt := { Faults.init with stopped := [], masterB := true, standby := true } }; let b : Bool := true; let i : Instr := .heartbeatExpire b; (s.powered = true) ∧ (i ∈ [Instr.lockstepMismatch true, i]) ∧ (¬true ∈ s.flt.stopped) ∧ (BitVec.toNat (s.rd 196624 - s.rd 196632) ≠ 2 ^ s.rf 196616 4 0))) :=
  ⟨by decide +kernel, by decide +kernel, by decide +kernel, by decide +kernel, by decide +kernel, by decide +kernel, by decide +kernel⟩

theorem witness_SparesRotationAndBeamPairs_part2 :
    ((let s : State := { (open_) with flt := { Faults.init with stopped := [true], masterB := true, standby := true } }; let b : Bool := true; let i : Instr := .heartbeatExpire b; (s.powered = true) ∧ (i ∈ [Instr.lockstepMismatch true, i]) ∧ (true ∈ s.flt.stopped)) ∧
    (let s : State := { (open_) with flt := { Faults.init with stopped := [true], masterB := true, standby := true } }; (s.powered = true) ∧ (s.flt.masterB ∈ s.flt.stopped) ∧ (s.flt.standby = true)) ∧
    (let s : State := { (open_) with flt := { Faults.init with stopped := [false, true], masterB := true, standby := true } }; (s.powered = true) ∧ (true ∈ s.flt.stopped) ∧ (false ∈ s.flt.stopped))) ∧
    ((let s : State := { (open_) with flt := { Faults.init with stopped := [], masterB := true, standby := true } }; (s.powered = true) ∧ (s.flt.stopped = [])) ∧
    (let s : State := { (open_) with flt := { Faults.init with stopped := [], masterB := true, standby := true } }; (s.powered = true) ∧ (¬s.flt.masterB ∈ s.flt.stopped ∨ s.flt.standby = false))) :=
  ⟨by decide +kernel, by decide +kernel⟩

theorem witness_HaltAndEventRegisters :
    ((let s : State := { (base3.setReg 0x30108 0) with time := 1000, pwr := { Power.init with present := true }, flt := { Faults.init with haltSince := 400 } }; (s.halted = false) ∧ (0 < 16) ∧ ((s.part 0).st = PState.running)) ∧
    (let s : State := { (base3.setReg 0x30108 3) with time := 1000, pwr := { Power.init with present := true }, flt := { Faults.init with haltSince := 400 } }; s.halted = true) ∧
    (let s : State := { (base3.setReg 0x30108 0) with time := 1000, pwr := { Power.init with present := true }, flt := { Faults.init with haltSince := 400 } }; (s.halted = false) ∧ (1 < 16) ∧ ((s.part 1).st ≠ PState.running))) ∧
    (let s : State := { (base3.setReg 0x30108 1) with time := 1000, pwr := { Power.init with present := true }, flt := { Faults.init with haltSince := 400 } }; (BitVec.getLsbD (s.rd 196872) (3 - if true = true then 2 else 1) = false) ∧ (BitVec.getLsbD (s.rd 196872) 3 = false) ∧ (s.halted = true) ∧ (s.pwr.thermtrip = false) ∧ (s.flt.frozen = false) ∧ (1 < 16) ∧ ((s.part 1).haltHeld = true) ∧ ((s.part 1).st = PState.held) ∧ ((s.part 1).hold = 2)) ∧
    ((let s : State := { (base3.setReg 0x30108 1) with time := 1000, pwr := { Power.init with present := true }, flt := { Faults.init with haltSince := 400 } }; (BitVec.getLsbD (s.rd 196872) (3 - if true = true then 2 else 1) = false) ∧ (BitVec.getLsbD (s.rd 196872) 3 = false) ∧ (s.halted = true) ∧ (s.pwr.thermtrip = false) ∧ (s.flt.frozen = false) ∧ (∀ (e : Nat × Rod), e ∈ s.rods → e.snd.mq = [] ∧ e.snd.vq = [] ∧ e.snd.cq = [])) ∧
    (let s : State := { (base3.setReg 0x30108 3) with time := 1000, pwr := { Power.init with present := true }, flt := { Faults.init with haltSince := 400 } }; BitVec.getLsbD (s.rd 196872) (3 - if true = true then 2 else 1) = true ∨ BitVec.getLsbD (s.rd 196872) 3 = true ∨ s.halted = false) ∧
    (let s : State := { (base3.setReg 0x30108 5) with time := 1000, pwr := { Power.init with present := true }, flt := { Faults.init with haltSince := 400, frozen := true } }; (BitVec.getLsbD (s.rd 196872) (3 - if true = true then 2 else 1) = false) ∧ (BitVec.getLsbD (s.rd 196872) 3 = false) ∧ (s.halted = true) ∧ (s.flt.frozen = true))) ∧
    ((let s : State := { (base3.setReg 0x30108 1) with time := 1000, pwr := { Power.init with present := true }, flt := { Faults.init with haltSince := 400 } }; (BitVec.getLsbD (s.rd 196872) (3 - if true = true then 2 else 1) = false) ∧ (BitVec.getLsbD (s.rd 196872) 3 = false) ∧ (s.halted = true) ∧ (s.pwr.thermtrip = false) ∧ (s.flt.frozen = false) ∧ (0 < 16) ∧ ((s.part 0).haltHeld = false)) ∧
    (let s : State := { (base3.setReg 0x30108 4) with time := 1000, pwr := { Power.init with present := true, thermtrip := true }, flt := { Faults.init with haltSince := 400 } }; BitVec.getLsbD (s.rd 196872) 1 ≠ BitVec.getLsbD (s.rd 196872) 2) ∧
    (let s : State := { (base3.setReg 0x30108 1) with time := 1000, pwr := { Power.init with present := true, thermtrip := true }, flt := { Faults.init with haltSince := 400 } }; (BitVec.getLsbD (s.rd 196872) 1 = false) ∧ (BitVec.getLsbD (s.rd 196872) 2 = false) ∧ (s.halted = true))) ∧
    ((let s : State := { (base3.setReg 0x30108 6) with time := 1000, pwr := { Power.init with present := true, thermtrip := true }, flt := { Faults.init with haltSince := 400 } }; (BitVec.getLsbD (s.rd 196872) 1 = BitVec.getLsbD (s.rd 196872) 2) ∧ (BitVec.getLsbD (s.rd 196872) 1 = true ∨ s.halted = false)) ∧
    (let s : State := ({ (base3.setReg 0x30108 65470468) with time := 1000, pwr := { Power.init with present := true, thermtrip := true }, flt := { Faults.init with haltSince := 400 } }).setReg 0x30118 0x7FFF; (bits (500 : W64) 15 0 ≠ 0) ∧ (BitVec.getLsbD (s.rd 196872) 1 ≠ BitVec.getLsbD (s.rd 196872) 2) ∧ (bits (500 : W64) 15 0 ≤ s.rf 196872 31 16)) ∧
    (bits (0 : W64) 15 0 = 0) ∧
    (let s : State := ({ (base3.setReg 0x30108 2) with time := 1000, pwr := { Power.init with present := true, thermtrip := true }, flt := { Faults.init with haltSince := 400 } }).setReg 0x30118 0x7FFF; (bits (500 : W64) 15 0 ≠ 0) ∧ (BitVec.getLsbD (s.rd 196872) 1 = BitVec.getLsbD (s.rd 196872) 2 ∨ s.rf 196872 31 16 < bits (500 : W64) 15 0))) :=
  ⟨by decide +kernel, by decide +kernel, by decide +kernel, by decide +kernel, by decide +kernel⟩

theorem witness_SecurityMailboxesUnlockAndLocks :
    ((let s : State := (open_).setTen 0 { Tenant.init with st := .attached, spdm := ⟨false, [[1]]⟩ }; (s.hapUp = true) ∧ (s.attached ↑(0 : Fin 64) = true) ∧ (1 ≤ bits (65552 : W64) 12 0) ∧ (bits (65552 : W64) 12 0 ≤ 4096) ∧ (BitVec.getLsbD (65552 : W64) 16 = true) ∧ ((s.ten ↑(0 : Fin 64)).spdm.busy = false)) ∧
    (let s : State := (open_).setTen 0 { Tenant.init with st := .attached, spdm := ⟨true, [[1]]⟩ }; (s.hapUp = true) ∧ (s.attached ↑(0 : Fin 64) = true) ∧ (bits (0 : W64) 12 0 = 0 ∨ 4096 < bits (0 : W64) 12 0))) ∧
    ((let s : State := (open_).setTen 0 { Tenant.init with st := .attached, spdm := ⟨true, [[1]]⟩ }; (s.hapUp = true) ∧ (s.attached ↑(0 : Fin 64) = true) ∧ (1 ≤ bits (7 : W64) 12 0) ∧ (bits (7 : W64) 12 0 ≤ 4096) ∧ (BitVec.getLsbD (7 : W64) 16 = false)) ∧
    (let s : State := (open_).setTen 0 { Tenant.init with st := .attached, spdm := ⟨true, [[1]]⟩ }; (s.hapUp = true) ∧ (s.attached ↑(0 : Fin 64) = true) ∧ (1 ≤ bits (65552 : W64) 12 0) ∧ (bits (65552 : W64) 12 0 ≤ 4096) ∧ (BitVec.getLsbD (65552 : W64) 16 = true) ∧ ((s.ten ↑(0 : Fin 64)).spdm.busy = true))) ∧
    ((let s : State := { (open_) with sec := { Security.init with spdm := ⟨false, [[1]]⟩ } }; (s.live = true) ∧ (1 ≤ bits (65537 : W64) 12 0) ∧ (bits (65537 : W64) 12 0 ≤ 4096) ∧ (BitVec.getLsbD (65537 : W64) 16 = true) ∧ (s.sec.spdm.busy = false)) ∧
    (let s : State := { (open_) with sec := { Security.init with spdm := ⟨true, [[1]]⟩ } }; (s.live = true) ∧ (bits (0 : W64) 12 0 = 0 ∨ 4096 < bits (0 : W64) 12 0 ∨ BitVec.getLsbD (0 : W64) 16 = true ∧ s.sec.spdm.busy = true)) ∧
    (let s : State := { ((((open_).setTen 0 { Tenant.init with st := .attached, spdm := ⟨true, [[1]]⟩ }).setReg 0x20200 0x20000).setReg (tReg 0 0x800) 0x20000) with sec := { Security.init with spdm := ⟨true, [[1]]⟩ } }; let who : SpdmWho := .tenant 0; (s.live = true) ∧ ((s.mailbox who).busy = true))) ∧
    ((let s : State := { ((((open_).setTen 0 { Tenant.init with st := .attached, spdm := ⟨false, [[1]]⟩ }).setReg 0x20200 0x20000).setReg (tReg 0 0x800) 0x20000) with sec := { Security.init with spdm := ⟨false, [[1]]⟩ } }; let who : SpdmWho := .tenant 0; (s.live = true) ∧ ((s.mailbox who).busy = false)) ∧
    (let s : State := { ({ open_ with hbm := Memory.write64 [] 0 1, bead := memFill 0 4 }) with sec := { Security.init with bad := 0, verifying := true, nonce := none, token := [1,2,3,4,5,6,7,8,9,10,11,12] } }; (s.live = true) ∧ (s.sec.bad < 8)) ∧
    (let s : State := { ({ open_ with hbm := Memory.write64 [] 0 1, bead := memFill 0 4 }) with sec := { Security.init with bad := 8, verifying := true, nonce := none, token := [1,2,3,4,5,6,7,8,9,10,11,12] } }; (s.live = true) ∧ (8 ≤ s.sec.bad)) ∧
    (let s : State := { ({ open_ with hbm := Memory.write64 [] 0 1, bead := memFill 0 4 }) with sec := { Security.init with bad := 0, verifying := false, nonce := none, token := [1,2,3,4,5,6,7,8,9,10,11,12] } }; (s.live = true) ∧ (s.sec.verifying = false) ∧ (↑(11 : Fin 12) = 11))) ∧
    ((let s : State := { ({ open_ with hbm := Memory.write64 [] 0 1, bead := memFill 0 4 }) with sec := { Security.init with bad := 0, verifying := true, nonce := none, token := [1,2,3,4,5,6,7,8,9,10,11,12] } }; (s.live = true) ∧ (s.sec.verifying = true)) ∧
    (let s : State := { ({ open_ with hbm := Memory.write64 [] 0 1, bead := memFill 0 4 }) with sec := { Security.init with bad := 0, verifying := false, nonce := none, token := [1,2,3,4,5,6,7,8,9,10,11,12] } }; (s.live = true) ∧ (s.sec.verifying = false) ∧ (3 < 12) ∧ (3 ≠ ↑(0 : Fin 12))) ∧
    (let s : State := { ({ open_ with hbm := Memory.write64 [] 0 1, bead := memFill 0 4 }) with sec := { Security.init with bad := 0, verifying := true, nonce := none, token := [1,2,3,4,5,6,7,8,9,10,11,12] } }; (s.live = true) ∧ (s.sec.verifying = true) ∧ (s.sec.nonce = none ∨ 8 ≤ s.sec.bad)) ∧
    (let s : State := { ({ open_ with hbm := Memory.write64 [] 0 1, bead := memFill 0 4 }) with sec := { Security.init with bad := 0, verifying := false, nonce := none, token := [1,2,3,4,5,6,7,8,9,10,11,12] } }; (s.live = true) ∧ (s.sec.verifying = false)) ∧
    (open_.live = true)) ∧
    ((let s : State := (open_).setReg 0x24070 0 |>.setReg 0x24F70 0; (s.live = true) ∧ (s.rf (147568 + 256 * ↑(0 : Fin 16)) 0 0 = 0)) ∧
    (let s : State := (open_).setReg 0x24070 1 |>.setReg 0x24F70 1; (s.live = true) ∧ (s.rf (147568 + 256 * ↑(0 : Fin 16)) 0 0 = 1))) :=
  ⟨by decide +kernel, by decide +kernel, by decide +kernel, by decide +kernel, by decide +kernel, by decide +kernel⟩

theorem witness_ResetsAndWhatTheyKeep :
    ((let s : State := { base7 with flt := { Faults.init with fuseRecs := [(1, 3, 0), (2, 1, 4), (3, 3, 3)], retired := [3], masterB := true, frozen := true }, bead := memFill 0 4, imem := memFill 0 4, time := 77, boot := memFill 0 3, sec := { Security.init with lifecycle := 2 }, pwr := { Power.init with present := true, rstN := false, pg := 0xB } }; (s.pwr.rstN = false) ∧ (s.rstState ≠ 1) ∧ (alwaysOn 0 = false)) ∧
    (let s : State := { ((((open_.setReg 0x10018 0x4).setReg 0x10238 0).setReg 0x30100 7).setReg 0x600000 5 |>.setReg 0x10008 1) with flt := { Faults.init with fuseRecs := [(1, 3, 0), (2, 1, 4), (3, 3, 3)], retired := [3], masterB := true, frozen := false }, bead := memFill 0 4, imem := memFill 0 4, time := 77, boot := memFill 0 3, sec := { Security.init with lifecycle := 2 }, pwr := { Power.init with present := true, rstN := false, pg := 0xB } }; (s.pwr.rstN = false) ∧ (s.rstState = 1)) ∧
    (let s : State := { ((((open_.setReg 0x10018 0x4).setReg 0x10238 0).setReg 0x30100 7).setReg 0x600000 5 |>.setReg 0x10008 1) with flt := { Faults.init with fuseRecs := [(1, 3, 0), (2, 1, 4), (3, 3, 3)], retired := [3], masterB := true, frozen := false }, bead := memFill 0 4, imem := memFill 0 4, time := 77, boot := memFill 0 3, sec := { Security.init with lifecycle := 2 }, pwr := { Power.init with present := true, rstN := true, pg := 0xF } }; (s.pwr.rstN = true) ∧ (s.rstState = 1) ∧ (s.pwr.pg = (15 : BitVec 4))) ∧
    (let s : State := { base7 with flt := { Faults.init with fuseRecs := [(1, 3, 0), (2, 1, 4), (3, 3, 3)], retired := [3], masterB := true, frozen := true }, bead := memFill 0 4, imem := memFill 0 4, time := 77, boot := memFill 0 3, sec := { Security.init with lifecycle := 2 }, pwr := { Power.init with present := true, rstN := true, pg := 0xB } }; s.rstState ≠ 1 ∨ s.pwr.rstN = true) ∧
    (let s : State := { base7 with flt := { Faults.init with fuseRecs := [(1, 3, 0), (2, 1, 4), (3, 3, 3)], retired := [3], masterB := true, frozen := true }, bead := memFill 0 4, imem := memFill 0 4, time := 77, boot := memFill 0 3, sec := { Security.init with lifecycle := 2 }, pwr := { Power.init with present := true, rstN := true, pg := 0xB } }; (s.pwr.rstN = true) ∧ (s.rstState ≠ 1 ∨ s.pwr.pg ≠ (15 : BitVec 4)))) ∧
    ((let s : State := { base7 with flt := { Faults.init with fuseRecs := [(1, 3, 0), (2, 1, 4), (3, 3, 3)], retired := [3], masterB := true, frozen := true }, bead := memFill 0 4, imem := memFill 0 4, time := 77, boot := memFill 0 3, sec := { Security.init with lifecycle := 2 }, pwr := { Power.init with present := true, rstN := false, pg := 0xB } }; (s.pwr.rstN = false) ∧ (s.rstState ≠ 1) ∧ (alwaysOn 65560 = true) ∧ (¬65560 ∈ [65544, 65552, 65568, 65576, 66048, 66104])) ∧
    (let s : State := { ((((open_.setReg 0x10018 0x4).setReg 0x10238 1).setReg 0x30100 7).setReg 0x600000 5 |>.setReg 0x10008 4) with flt := { Faults.init with fuseRecs := [(1, 3, 0), (2, 1, 4), (3, 3, 3)], retired := [3], masterB := true, frozen := true }, bead := memFill 0 4, imem := memFill 0 4, time := 77, boot := memFill 0 3, sec := { Security.init with lifecycle := 2 }, pwr := { Power.init with present := true, rstN := true, pg := 0xF } }; ((1 : BitVec 4) ≠ (0 : BitVec 4)) ∧ (s.rstState ≠ 1) ∧ (alwaysOn 0 = false)) ∧
    (let s : State := { ((((open_.setReg 0x10018 0x4).setReg 0x10238 1).setReg 0x30100 7).setReg 0x600000 5 |>.setReg 0x10008 4) with flt := { Faults.init with fuseRecs := [(1, 3, 0), (2, 1, 4), (3, 3, 3)], retired := [3], masterB := true, frozen := true }, bead := memFill 0 4, imem := memFill 0 4, time := 77, boot := memFill 0 3, sec := { Security.init with lifecycle := 2 }, pwr := { Power.init with present := true, rstN := true, pg := 0xF } }; (0 : BitVec 4) = (0 : BitVec 4) ∨ s.rstState = 1) ∧
    (let s : State := { ((((open_.setReg 0x10018 0x4).setReg 0x10238 1).setReg 0x30100 7).setReg 0x600000 5 |>.setReg 0x10008 4) with flt := { Faults.init with fuseRecs := [(1, 3, 0), (2, 1, 4), (3, 3, 3)], retired := [3], masterB := true, frozen := true }, bead := memFill 0 4, imem := memFill 0 4, time := 77, boot := memFill 0 3, sec := { Security.init with lifecycle := 2 }, pwr := { Power.init with present := true, rstN := true, pg := 0xF } }; ((1 : BitVec 4) ≠ (0 : BitVec 4)) ∧ (s.rstState ≠ 1) ∧ (alwaysOn 65560 = true) ∧ (¬65560 ∈ [65544, 65552, 65568, 65576, 66048, 66104]))) ∧
    ((let s : State := { base7 with flt := { Faults.init with fuseRecs := [(1, 3, 0), (2, 1, 4), (3, 3, 3)], retired := [3], masterB := true, frozen := true }, bead := memFill 0 4, imem := memFill 0 4, time := 77, boot := memFill 0 3, sec := { Security.init with lifecycle := 2 }, pwr := { Power.init with present := true, rstN := true, pg := 0xF } }; (s.rstState = 0 ∨ s.rstState = 4) ∧ (alwaysOn 0 = false)) ∧
    (let s : State := { ((((open_.setReg 0x10018 0x4).setReg 0x10238 0).setReg 0x30100 7).setReg 0x600000 5 |>.setReg 0x10008 1) with flt := { Faults.init with fuseRecs := [(1, 3, 0), (2, 1, 4), (3, 3, 3)], retired := [3], masterB := true, frozen := false }, bead := memFill 0 4, imem := memFill 0 4, time := 77, boot := memFill 0 3, sec := { Security.init with lifecycle := 2 }, pwr := { Power.init with present := true, rstN := true, pg := 0xF } }; s.rstState = 1 ∨ s.rstState = 2 ∨ s.rstState = 3) ∧
    (let s : State := { base7 with flt := { Faults.init with fuseRecs := [(1, 3, 0), (2, 1, 4), (3, 3, 3)], retired := [3], masterB := true, frozen := true }, bead := memFill 0 4, imem := memFill 0 4, time := 77, boot := memFill 0 3, sec := { Security.init with lifecycle := 2 }, pwr := { Power.init with present := true, rstN := true, pg := 0xF } }; (s.rstState = 0 ∨ s.rstState = 4) ∧ (warmKept 0 = false)) ∧
    (let s : State := { base7 with flt := { Faults.init with fuseRecs := [(1, 3, 0), (2, 1, 4), (3, 3, 3)], retired := [3], masterB := true, frozen := true }, bead := memFill 0 4, imem := memFill 0 4, time := 77, boot := memFill 0 3, sec := { Security.init with lifecycle := 2 }, pwr := { Power.init with present := true, rstN := true, pg := 0xF } }; (s.rstState = 0 ∨ s.rstState = 4) ∧ (warmKept 65552 = true) ∧ (¬65552 ∈ [65544, 65568, 65576])) ∧
    (let s : State := { base7 with flt := { Faults.init with fuseRecs := [(1, 3, 0), (2, 1, 4), (3, 3, 3)], retired := [3], masterB := true, frozen := true }, bead := memFill 0 4, imem := memFill 0 4, time := 77, boot := memFill 0 3, sec := { Security.init with lifecycle := 2 }, pwr := { Power.init with present := true, rstN := true, pg := 0xF } }; (s.rstState = 0 ∨ s.rstState = 4) ∧ (alwaysOn 65560 = true) ∧ (¬65560 ∈ [65544, 65552, 65568, 65576, 66048, 66104]))) :=
  ⟨by decide +kernel, by decide +kernel, by decide +kernel⟩

theorem witness_ThermalLimitsClocksAndGovernor :
    ((let s : State := { ((base3.setReg 0x10230 65520).setReg 0x10008 1) with time := 30000, pwr := { Power.init with present := true, freq := 20, lastStep := none, warned := true, raising := some (18, 0), thermtrip := false, coolSince := some 0 } }; let temps : List Int := [951]; (temps ≠ []) ∧ (s.powered = false)) ∧
    (let s : State := { ((base3.setReg 0x10230 65520).setReg 0x10008 0) with time := 30000, pwr := { Power.init with present := true, freq := 20, lastStep := none, warned := true, raising := some (18, 0), thermtrip := false, coolSince := some 0 } }; let temps : List Int := [951]; (temps ≠ []) ∧ (s.powered = true)) ∧
    (let s : State := { (open_) with time := 30000, pwr := { Power.init with present := true, freq := 18, warned := false, raising := some (20, 5), vidGoal := Power.init.vid } }; (s.powered = true) ∧ (15 < s.pwr.freq) ∧ (s.pwr.warned = false))) ∧
    ((let s : State := { (open_) with time := 30000, pwr := { Power.init with present := true, freq := 18, warned := false, raising := some (20, 5), vidGoal := Power.init.vid } }; (s.powered = true) ∧ (s.pwr.raising = some (20, (5 : W64))) ∧ (BitVec.toNat (5 : W64) + 20000 ≤ BitVec.toNat s.time) ∧ (s.pwr.vid = s.pwr.vidGoal) ∧ (¬(s.pwr.warned = true ∧ 20 ≤ 20))) ∧
    (let s : State := { (open_) with time := 30000, pwr := { Power.init with present := true, freq := 18, warned := true, raising := some (20, 5), vidGoal := Power.init.vid } }; (s.powered = true) ∧ (10 < s.pwr.freq) ∧ (s.pwr.lastStep = none)) ∧
    (let s : State := { ((base3.setReg 0x10230 1280).setReg 0x10008 0) with time := 30000, pwr := { Power.init with present := true, freq := 15, lastStep := none, warned := true, raising := some (18, 0), thermtrip := true, coolSince := some 0 } }; (s.powered = true) ∧ (s.pwr.freq ≤ 15))) ∧
    ((let s : State := { ((base3.setReg 0x10230 1280).setReg 0x10008 0) with time := 30000, pwr := { Power.init with present := true, freq := 10, lastStep := none, warned := true, raising := some (18, 0), thermtrip := true, coolSince := some 0 } }; (s.powered = true) ∧ (s.pwr.freq ≤ 10)) ∧
    (let s : State := { (open_) with time := 30000, pwr := { Power.init with present := true, freq := 18, warned := true, raising := some (20, 5), vidGoal := Power.init.vid } }; (s.powered = true) ∧ (s.pwr.raising = some (20, (5 : W64))) ∧ (BitVec.toNat (5 : W64) + 20000 ≤ BitVec.toNat s.time) ∧ (s.pwr.vid = s.pwr.vidGoal) ∧ (s.pwr.warned = true) ∧ (20 ≤ 20) ∧ (0 < 16) ∧ ((s.part 0).st = PState.running))) ∧
    ((let s : State := { (open_) with time := 30000, pwr := { Power.init with present := true, freq := 18, warned := true, raising := some (20, 5), vidGoal := Power.init.vid } }; (s.powered = true) ∧ (s.pwr.raising = some (20, (5 : W64))) ∧ (BitVec.toNat (5 : W64) + 20000 ≤ BitVec.toNat s.time) ∧ (s.pwr.vid = s.pwr.vidGoal) ∧ (s.pwr.warned = true) ∧ (20 ≤ 20) ∧ (1 < 16) ∧ ((s.part 1).st ≠ PState.running)) ∧
    (let s : State := { ((base3.setReg 0x10230 1000).setReg 0x10008 0) with time := 30000, pwr := { Power.init with present := true, freq := 20, lastStep := none, warned := true, raising := some (18, 20000), thermtrip := false, coolSince := some 0 } }; (s.powered = true) ∧ (s.pwr.raising = some (18, (20000 : W64))) ∧ (BitVec.toNat s.time < BitVec.toNat (20000 : W64) + 20000 ∨ s.pwr.vid ≠ s.pwr.vidGoal))) ∧
    ((let s : State := { ((base3.setReg 0x10230 328960).setReg 0x10008 0) with time := 30000, pwr := { Power.init with present := true, freq := 20, lastStep := none, warned := true, raising := some (18, 5), thermtrip := false, coolSince := some 0 } }; (s.powered = true) ∧ ((10 : Int) * ↑(s.rf 66088 6 0) ≤ signedOf 16 (s.rf 66096 15 0)) ∧ (s.pwr.thermtrip = false) ∧ (0 < 16) ∧ ((s.part 0).st = PState.running)) ∧
    (let s : State := { ((base3.setReg 0x10230 1280).setReg 0x10008 0) with time := 30000, pwr := { Power.init with present := true, freq := 20, lastStep := none, warned := true, raising := some (18, 0), thermtrip := true, coolSince := some 0 } }; (s.powered = true) ∧ (¬(10 : Int) * ↑(s.rf 66088 6 0) ≤ signedOf 16 (s.rf 66096 15 0) ∨ s.pwr.thermtrip = true)) ∧
    (let s : State := { ((base3.setReg 0x10230 328960).setReg 0x10008 0) with time := 30000, pwr := { Power.init with present := true, freq := 20, lastStep := none, warned := true, raising := some (18, 5), thermtrip := false, coolSince := some 0 } }; (s.powered = true) ∧ ((10 : Int) * ↑(s.rf 66088 6 0) ≤ signedOf 16 (s.rf 66096 15 0)) ∧ (s.pwr.thermtrip = false) ∧ (1 < 16) ∧ ((s.part 1).st ≠ PState.running))) ∧
    ((let s : State := { ((base3.setReg 0x10230 1280).setReg 0x10008 0) with time := 30000, pwr := { Power.init with present := true, freq := 20, lastStep := none, warned := true, raising := some (18, 0), thermtrip := true, coolSince := some 0 } }; s.powered = true) ∧
    (let s : State := { ((base3.setReg 0x10230 1280).setReg 0x10008 1) with time := 30000, pwr := { Power.init with present := true, freq := 20, lastStep := none, warned := true, raising := some (18, 0), thermtrip := true, coolSince := some 0 } }; s.powered = false) ∧
    (let s : State := { ((open_.onPart 0 (fun x => { x with starts := [], startAt := 1000 })).setReg 0x30108 0) with time := 2000 }; (s.part ↑(0 : Fin 16)).starts = []) ∧
    (let s : State := { ((open_.onPart 0 (fun x => { x with starts := [5], startAt := 1000 })).setReg 0x30108 1) with time := 2000 }; let p : Fin 16 := 0; let r : List Nat := (s.part p).starts.tail; ((s.part ↑(0 : Fin 16)).starts = 5 :: r) ∧ (s.stalled = true ∨ ¬BitVec.toNat (s.part ↑(0 : Fin 16)).startAt + 1250 ≤ BitVec.toNat s.time))) ∧
    (let s : State := { ((open_.onPart 0 (fun x => { x with starts := [5], startAt := 1000 })).setReg 0x30108 0) with time := 3000 }; let p : Fin 16 := 0; let r : List Nat := (s.part p).starts.tail; ((s.part ↑(0 : Fin 16)).starts = 5 :: r) ∧ (s.live = true) ∧ (s.stalled = false) ∧ (BitVec.toNat (s.part ↑(0 : Fin 16)).startAt + 1250 ≤ BitVec.toNat s.time)) :=
  ⟨by decide +kernel, by decide +kernel, by decide +kernel, by decide +kernel, by decide +kernel, by decide +kernel, by decide +kernel⟩

theorem witness_StartUpSequence :
    ((let s : State := { (((open_).setReg 0x10008 4).setReg 0x10020 1).setReg 0x10028 0 with time := 1000000000, pwr := { Power.init with warm := true }, flt := { Faults.init with masterB := false }, fab := { Fabric.init with pos := 2 }, bead := memFill 0 4, imem := memFill 0 4 }; s.inPhase 1 = true) ∧
    (let s : State := { (((open_).setReg 0x10008 4).setReg 0x10020 2).setReg 0x10028 0 with time := 1000000000, pwr := { Power.init with warm := true }, flt := { Faults.init with masterB := false }, fab := { Fabric.init with pos := 2 }, bead := memFill 0 4, imem := memFill 0 4 , sec := { Security.init with tstDone := true } }; s.inPhase 2 = true) ∧
    (let s : State := { (((open_).setReg 0x10008 4).setReg 0x10020 3).setReg 0x10028 0 with time := 1000000000, pwr := { Power.init with warm := true, unlock := true }, flt := { Faults.init with masterB := false }, fab := { Fabric.init with pos := 2 }, bead := memFill 0 4, imem := memFill 0 4 , free := 30 }; (s.inPhase 3 = true) ∧ (s.pwr.warm = true)) ∧
    (let s : State := { (((open_).setReg 0x10008 4).setReg 0x10020 3).setReg 0x10028 0 with time := 1000000000, pwr := { Power.init with warm := false, unlock := true }, flt := { Faults.init with masterB := false }, fab := { Fabric.init with pos := 2 }, bead := memFill 0 4, imem := memFill 0 4 , free := 30 }; (s.inPhase 3 = true) ∧ (s.pwr.warm = false)) ∧
    (let s : State := { (((open_).setReg 0x10008 4).setReg 0x10020 4).setReg 0x10028 0 with time := 1000000000, pwr := { Power.init with warm := true }, flt := { Faults.init with fuseRecs := [(1, 3, 0), (2, 1, 4), (3, 3, 3)] }, fab := { Fabric.init with pos := 2 }, bead := memFill 0 4, imem := memFill 0 4 }; let l : List Bool := List.replicate 16 true; (s.inPhase 4 = true) ∧ (∀ (k : Nat), k < s.design.stacks → nth false l k = true))) ∧
    ((let s : State := { (((open_).setReg 0x10008 4).setReg 0x10020 4).setReg 0x10028 0 with time := 1000000000, pwr := { Power.init with warm := true }, flt := { Faults.init with fuseRecs := [(1, 3, 0), (2, 1, 4), (3, 3, 3)] }, fab := { Fabric.init with pos := 2 }, bead := memFill 0 4, imem := memFill 0 4 }; let l : List Bool := []; (s.inPhase 4 = true) ∧ (∃ k, k < s.design.stacks ∧ nth false l k = false)) ∧
    (let s : State := { (((open_).setReg 0x10008 4).setReg 0x10020 5).setReg 0x10028 0 |>.setReg 0x1000 0 with time := 1000000000, pwr := { Power.init with warm := true }, flt := { Faults.init with masterB := false }, fab := { Fabric.init with pos := 2 }, bead := memFill 0 4, imem := memFill 0 4 }; (s.inPhase 5 = true) ∧ (BitVec.getLsbD (1 : W64) 0 = true)) ∧
    (let s : State := { (((open_).setReg 0x10008 4).setReg 0x10020 5).setReg 0x10028 0 |>.setReg 0x1000 0 with time := 1000000000, pwr := { Power.init with warm := true }, flt := { Faults.init with masterB := false }, fab := { Fabric.init with pos := 2 }, bead := memFill 0 4, imem := memFill 0 4 }; (s.inPhase 5 = true) ∧ (BitVec.toNat (s.rd 4096) + 8 ≤ 2 ^ 24)) ∧
    (let s : State := { (((open_).setReg 0x10008 4).setReg 0x10020 4).setReg 0x10028 0 |>.setReg 0x1000 0 with time := 1000000000, pwr := { Power.init with warm := true }, flt := { Faults.init with masterB := false }, fab := { Fabric.init with pos := 2 }, bead := memFill 0 4, imem := memFill 0 4 }; s.inPhase 5 = false) ∧
    (let s : State := { (((open_).setReg 0x10008 4).setReg 0x10020 5).setReg 0x10028 0 |>.setReg 0x1000 16777216 with time := 1000000000, pwr := { Power.init with warm := true }, flt := { Faults.init with masterB := false }, fab := { Fabric.init with pos := 2 }, bead := memFill 0 4, imem := memFill 0 4 }; (s.inPhase 5 = true) ∧ (2 ^ 24 < BitVec.toNat (s.rd 4096) + 8))) ∧
    ((let s : State := { (((open_).setReg 0x10008 4).setReg 0x10020 5).setReg 0x10028 0 |>.setReg 0x1000 0 with time := 1000000000, pwr := { Power.init with warm := true }, flt := { Faults.init with masterB := false }, fab := { Fabric.init with pos := 2 }, bead := memFill 0 4, imem := memFill 0 4 }; (s.inPhase 5 = true) ∧ (BitVec.toNat (0 : W64) < 2 ^ 24) ∧ (BitVec.toNat (0 : W64) % 8 = 0)) ∧
    (let s : State := { (((open_).setReg 0x10008 4).setReg 0x10020 6).setReg 0x10028 0 with time := 1000000000, pwr := { Power.init with warm := true, authRetried := false }, flt := { Faults.init with masterB := false }, fab := { Fabric.init with pos := 2 }, bead := memFill 0 4, imem := memFill 0 4 }; (s.inPhase 6 = true) ∧ (s.imageOk = false) ∧ (s.pwr.authRetried = false)) ∧
    (let s : State := { (((open_).setReg 0x10008 4).setReg 0x10020 6).setReg 0x10028 0 with time := 1000000000, pwr := { Power.init with warm := true, authRetried := true }, flt := { Faults.init with masterB := false }, fab := { Fabric.init with pos := 2 }, bead := memFill 0 4, imem := memFill 0 4 }; (s.inPhase 6 = true) ∧ (s.imageOk = false) ∧ (s.pwr.authRetried = true)) ∧
    (let s : State := { (((open_).setReg 0x10008 4).setReg 0x10020 7).setReg 0x10028 0 with time := 1000000000, pwr := { Power.init with warm := true }, flt := { Faults.init with masterB := false }, fab := { Fabric.init with pos := 2 }, bead := memFill 0 4, imem := memFill 0 4 }; (s.inPhase 7 = true) ∧ ((true || true) = true))) ∧
    ((let s : State := { (((open_).setReg 0x10008 4).setReg 0x10020 7).setReg 0x10028 0 with time := 1000000000, pwr := { Power.init with warm := true }, flt := { Faults.init with masterB := false }, fab := { Fabric.init with pos := 2 }, bead := memFill 0 4, imem := memFill 0 4 }; (s.inPhase 7 = true) ∧ ((false || false) = false)) ∧
    (let s : State := { (((open_).setReg 0x10008 4).setReg 0x10020 8).setReg 0x10028 0 with time := 1000000000, pwr := { Power.init with warm := true }, flt := { Faults.init with noFrames := [] }, fab := { Fabric.init with pos := 2 }, bead := memFill 0 4, imem := memFill 0 4 , design := .cx128 }; let l : List Nat := []; let t : State := nextOf (exec (Instr.rods l) s); (s.inPhase 8 = true) ∧ (∃ f, f < s.design.rods / 8 ∧ ¬f ∈ t.flt.noFrames)) ∧
    (let s : State := { (((open_).setReg 0x10008 4).setReg 0x10020 8).setReg 0x10028 0 with time := 1000000000, pwr := { Power.init with warm := true }, flt := { Faults.init with noFrames := [] }, fab := { Fabric.init with pos := 2 }, bead := memFill 0 4, imem := memFill 0 4 , design := .cx128 }; let l : List Nat := List.range 132; let t : State := nextOf (exec (Instr.rods l) s); (s.inPhase 8 = true) ∧ (∀ (f : Nat), f < s.design.rods / 8 → f ∈ t.flt.noFrames))) ∧
    ((let s : State := { (((open_).setReg 0x10008 4).setReg 0x10020 8).setReg 0x10028 0 with time := 1000000000, pwr := { Power.init with warm := true }, flt := { Faults.init with noFrames := [] }, fab := { Fabric.init with pos := 2 }, bead := memFill 0 4, imem := memFill 0 4 , design := .cx128 }; let l : List Nat := [3, 3, 600]; (s.inPhase 8 = true) ∧ (3 ∈ l) ∧ (3 < s.design.physRods)) ∧
    (let s : State := { (((open_).setReg 0x10008 4).setReg 0x10020 9).setReg 0x10028 0 |>.setReg 0x600010 3 |>.setReg 0x600038 1000 with time := 1000000000, pwr := { Power.init with warm := true, phaseAt := 0 }, flt := { Faults.init with masterB := false }, fab := { Fabric.init with pos := 2, peers := [] }, bead := memFill 0 4, imem := memFill 0 4 }; (s.inPhase 9 = true) ∧ (0 < 8) ∧ (s.portEnabled 0 = true) ∧ ((s.port 0).train = Train.dark) ∧ ((s.port 0).darkUntil = none)) ∧
    (let s : State := { (((open_).setReg 0x10008 4).setReg 0x10020 9).setReg 0x10028 0 |>.setReg 0x600010 3 |>.setReg 0x600038 1001 with time := 1000000000, pwr := { Power.init with warm := true, phaseAt := 0 }, flt := { Faults.init with masterB := false }, fab := { Fabric.init with pos := 2, peers := [] }, bead := memFill 0 4, imem := memFill 0 4 }; (s.inPhase 9 = true) ∧ (∃ p, p < 8 ∧ s.portSettled p = false) ∧ (BitVec.toNat s.time < BitVec.toNat s.pwr.phaseAt + s.rf 6291512 9 0 * 1000000))) ∧
    ((let s : State := { (((open_).setReg 0x10008 4).setReg 0x10020 9).setReg 0x10028 0 |>.setReg 0x600010 0 |>.setReg 0x600038 1000 with time := 1000000000, pwr := { Power.init with warm := true, phaseAt := 0 }, flt := { Faults.init with masterB := false }, fab := { Fabric.init with pos := 2, peers := [] }, bead := memFill 0 4, imem := memFill 0 4 }; (s.inPhase 9 = true) ∧ ((∀ (p : Nat), p < 8 → s.portSettled p = true) ∨ BitVec.toNat s.pwr.phaseAt + s.rf 6291512 9 0 * 1000000 ≤ BitVec.toNat s.time)) ∧
    (let s : State := { (((open_).setReg 0x10008 4).setReg 0x10020 10).setReg 0x10028 0 with time := 1000000000, pwr := { Power.init with warm := true, syncs := 3 }, flt := { Faults.init with masterB := false }, fab := { Fabric.init with pos := 2, synced := true, peers := [] }, bead := memFill 0 4, imem := memFill 0 4 }; (s.inPhase 10 = true) ∧ (s.pwr.warm = true ∧ s.fab.synced = true ∨ s.master = s.fab.pos ∨ 3 ≤ s.pwr.syncs)) ∧
    (let s : State := { (((open_).setReg 0x10008 4).setReg 0x10020 10).setReg 0x10028 0 with time := 1000000000, pwr := { Power.init with warm := true, syncs := 0 }, flt := { Faults.init with masterB := false }, fab := { Fabric.init with pos := 2, synced := false, peers := [(1, ⟨3, 0, false, 7, [], 4⟩)] }, bead := memFill 0 4, imem := memFill 0 4 }; (s.inPhase 10 = true) ∧ (s.pwr.warm = false ∨ s.fab.synced = false) ∧ (s.master ≠ s.fab.pos) ∧ (s.pwr.syncs < 3)) ∧
    (let s : State := { (((open_).setReg 0x10008 4).setReg 0x10020 11).setReg 0x10028 0 |>.setReg 0x700000 0 with time := 1000000000, pwr := { Power.init with warm := true, present := false }, flt := { Faults.init with masterB := false }, fab := { Fabric.init with pos := 2 }, bead := memFill 0 4, imem := memFill 0 4 }; (s.inPhase 11 = true) ∧ (s.pwr.present = false) ∧ (0 < 4))) ∧
    ((let s : State := { (((open_).setReg 0x10008 4).setReg 0x10020 12).setReg 0x10028 0 with time := 1000000000, pwr := { Power.init with present := true }, flt := { Faults.init with masterB := false }, fab := { Fabric.init with pos := 2 }, bead := memFill 0 4, imem := memFill 0 4 , chans := [(1, { Chan.init with inPosted := 3 })] }; s.inPhase 12 = true) ∧
    (let s : State := { (((open_).setReg 0x10008 4).setReg 0x10020 11).setReg 0x10028 2 with time := 1000000000, pwr := { Power.init with present := true }, flt := { Faults.init with masterB := false }, fab := { Fabric.init with pos := 2 }, bead := memFill 0 4, imem := memFill 0 4 , chans := [(1, { Chan.init with inPosted := 3 })] }; (s.rstState = 4) ∧ (s.rd 65576 ≠ (0 : W64)) ∧ (s.phase ≠ 15)) ∧
    (let s : State := { (((open_).setReg 0x10008 1).setReg 0x10020 12).setReg 0x10028 0 with time := 1000000000, pwr := { Power.init with present := true }, flt := { Faults.init with masterB := false }, fab := { Fabric.init with pos := 2 }, bead := memFill 0 4, imem := memFill 0 4 , chans := [(1, { Chan.init with inPosted := 3 })] }; (s.pwr.present = true) ∧ (s.rstState = 1 ∨ s.rstState = 2 ∨ s.rstState = 3) ∧ (0 < 4)) ∧
    (let s : State := { (((open_).setReg 0x10008 0).setReg 0x10020 11).setReg 0x10028 0 with time := 1000000000, pwr := { Power.init with present := true }, flt := { Faults.init with masterB := false }, fab := { Fabric.init with pos := 2 }, bead := memFill 0 4, imem := memFill 0 4 , chans := [(1, { Chan.init with inPosted := 3 })] }; s.live = true) ∧
    (let s : State := { (((open_).setReg 0x10008 1).setReg 0x10020 12).setReg 0x10028 0 with time := 1000000000, pwr := { Power.init with present := true }, flt := { Faults.init with masterB := false }, fab := { Fabric.init with pos := 2 }, bead := memFill 0 4, imem := memFill 0 4 , chans := [(1, { Chan.init with inPosted := 3 })] }; s.rd 65576 = (0 : W64)) ∧
    (let s : State := { (((open_).setReg 0x10008 1).setReg 0x10020 1).setReg 0x10028 0 with time := 1000000000, pwr := { Power.init with phaseAt := 1000 }, flt := { Faults.init with masterB := false }, fab := { Fabric.init with pos := 2 }, bead := memFill 0 4, imem := memFill 0 4 }; s.rstState = 0 ∨ s.rstState = 1)) :=
  ⟨by decide +kernel, by decide +kernel, by decide +kernel, by decide +kernel, by decide +kernel, by decide +kernel, by decide +kernel⟩

theorem witness_CountersHistogramsTraceAndFreeze :
    ((let s : State := (open_).setReg 524296 0x8000000000000005; (s.live = true) ∧ (isCounter (BitVec.toNat (524296 : BitVec 24)) = false)) ∧
    (let s : State := (open_).setReg 294912 0x8000000000000005; (s.live = true) ∧ (s.hasCounter (BitVec.toNat (294912 : BitVec 24)) = true)) ∧
    (let s : State := (open_).setReg 524296 0x8000000000000005; (s.live = true) ∧ (s.hasCounter (BitVec.toNat (524296 : BitVec 24)) = false)) ∧
    (let s : State := ((open_).setReg (cntPart 0 0) 5).setReg (cntPart 15 3) 0x8000000000000007; (s.live = true) ∧ (bits (64 : W64) 7 6 = 1) ∧ (bits (64 : W64) 5 0 < 16) ∧ (0 < 512) ∧ (isCounter (cntPart (bits (64 : W64) 5 0) 0) = true))) ∧
    ((let s : State := ((open_).setReg (cntPart 0 0) 5).setReg (cntPart 15 3) 0x8000000000000007; (s.live = true) ∧ (bits (80 : W64) 7 6 = 3 ∨ bits (80 : W64) 7 6 = 1 ∧ 16 ≤ bits (80 : W64) 5 0)) ∧
    (let s : State := ((open_).setReg 262712 0x0).setReg 308104 9; (s.live = true) ∧ (bits ((9223372036854775813 : W64) &&& BitVec.ofNat 64 14920424603405778943) 31 0 ≠ 0 ∧ bits ((9223372036854775813 : W64) &&& BitVec.ofNat 64 14920424603405778943) 36 32 ≤ 20 ∧ bits ((9223372036854775813 : W64) &&& BitVec.ofNat 64 14920424603405778943) 59 56 ≤ 13) ∧ (BitVec.getLsbD (s.rd (262656 + 8 * ↑(7 : Fin 8))) 63 = false) ∧ (BitVec.getLsbD ((9223372036854775813 : W64) &&& BitVec.ofNat 64 14920424603405778943) 63 = true) ∧ (0 < 16))) ∧
    ((let s : State := ((open_).setReg 262712 0x0).setReg 308104 9; (s.live = true) ∧ (¬(bits ((0 : W64) &&& BitVec.ofNat 64 14920424603405778943) 31 0 ≠ 0 ∧ bits ((0 : W64) &&& BitVec.ofNat 64 14920424603405778943) 36 32 ≤ 20 ∧ bits ((0 : W64) &&& BitVec.ofNat 64 14920424603405778943) 59 56 ≤ 13))) ∧
    (let s : State := ((open_).setReg 262656 0xC000000000000001).setReg 307208 9; (s.live = true) ∧ (bits ((5 : W64) &&& BitVec.ofNat 64 14920424603405778943) 31 0 ≠ 0 ∧ bits ((5 : W64) &&& BitVec.ofNat 64 14920424603405778943) 36 32 ≤ 20 ∧ bits ((5 : W64) &&& BitVec.ofNat 64 14920424603405778943) 59 56 ≤ 13) ∧ (BitVec.getLsbD (s.rd (262656 + 8 * ↑(0 : Fin 8))) 63 = true))) ∧
    ((let s : State := ((open_).setReg 262712 0x0).setReg 308104 9; (s.live = true) ∧ (bits ((5 : W64) &&& BitVec.ofNat 64 14920424603405778943) 31 0 ≠ 0 ∧ bits ((5 : W64) &&& BitVec.ofNat 64 14920424603405778943) 36 32 ≤ 20 ∧ bits ((5 : W64) &&& BitVec.ofNat 64 14920424603405778943) 59 56 ≤ 13) ∧ (BitVec.getLsbD (s.rd (262656 + 8 * ↑(7 : Fin 8))) 63 = false) ∧ (BitVec.getLsbD ((5 : W64) &&& BitVec.ofNat 64 14920424603405778943) 63 = false)) ∧
    (let s : State := ((open_).setReg 0x40208 0xC000000000000002).setReg 0x4B080 0xFFFFFFFFFFFF; (s.live = true) ∧ (BitVec.getLsbD (s.rd (262656 + 8 * ↑(2 : Fin 8))) 63 = false ∨ 12 ≤ bits (s.rd (262656 + 8 * ↑(2 : Fin 8))) 59 56)) ∧
    (let s : State := ((open_).setReg 0x40208 0xC000000000000002).setReg 0x4B080 0xFFFFFFFFFFFF; (s.live = true) ∧ (BitVec.getLsbD (s.rd (262656 + 8 * ↑(1 : Fin 8))) 63 = true) ∧ (bits (s.rd (262656 + 8 * ↑(1 : Fin 8))) 59 56 < 12))) ∧
    ((let s : State := { ((open_).setReg 0x40010 32) with dbg := { Debug.init with stopped := false } }; (s.live = true) ∧ (s.dbg.stopped = false ∧ BitVec.getLsbD (s.rd 262160) (if true = true then 5 else 4) = true)) ∧
    (let s : State := { ((open_).setReg 0x40010 0) with dbg := { Debug.init with stopped := true } }; (s.live = true) ∧ (¬(s.dbg.stopped = false ∧ BitVec.getLsbD (s.rd 262160) (if true = true then 5 else 4) = true)))) ∧
    (let s : State := { (((((open_).setTen 3 { Tenant.init with st := .attached }).setReg 0x40010 44).setReg (trigReg 0 0) 0xA000000000000000).setReg (trigReg 0 8) 0x00000005FFFFFFFF) with dbg := { Debug.init with due := [] } }; let t : Fin 64 := 3; let v : W64 := 6; let x : Instr × Nat × Nat × Nat := (.tenMark t v, 3, 2, t.val); (s.live = true) ∧ (s.pwr.present = true) ∧ (s.attached ↑(3 : Fin 64) = true) ∧ (x ∈ [(Instr.dbgMark (6 : W64), 2, 0, 0), x]) ∧ (BitVec.getLsbD (s.rd 262160) x.snd.fst = true) ∧ (s.rf 262160 5 4 = 2) ∧ (s.dbg.stopped = false) ∧ (s.dbg.lostPort = 0)) ∧
    (let s : State := { (((open_).setTen 3 { Tenant.init with st := .attached }).setReg 0x40010 36) with dbg := { Debug.init with lostPort := 5 } }; let t : Fin 64 := 3; let v : W64 := 5; let x : Instr × Nat × Nat × Nat := (.tenMark t v, 3, 2, t.val); (s.live = true) ∧ (s.pwr.present = true) ∧ (s.attached ↑(3 : Fin 64) = true) ∧ (x ∈ [(Instr.dbgMark (5 : W64), 2, 0, 0), x]) ∧ (BitVec.getLsbD (s.rd 262160) x.snd.fst = false)) :=
  ⟨by decide +kernel, by decide +kernel, by decide +kernel, by decide +kernel, by decide +kernel, by decide +kernel, by decide +kernel⟩

theorem witness_CountersHistogramsTraceAndFreeze_part2 :
    (let s : State := { (((open_).setTen 3 { Tenant.init with st := .attached }).setReg 0x40010 43) with dbg := { Debug.init with lostPort := 5 } }; let t : Fin 64 := 3; let v : W64 := 5; let x : Instr × Nat × Nat × Nat := (.tenMark t v, 3, 2, t.val); (s.live = true) ∧ (s.pwr.present = true) ∧ (s.attached ↑(3 : Fin 64) = true) ∧ (x ∈ [(Instr.dbgMark (5 : W64), 2, 0, 0), x]) ∧ (BitVec.getLsbD (s.rd 262160) x.snd.fst = true) ∧ (s.rf 262160 5 4 = 2) ∧ (s.dbg.stopped = false) ∧ (s.dbg.post = none) ∧ (s.dbg.lostPort ≠ 0)) ∧
    (let s : State := { (((((open_).setTen 3 { Tenant.init with st := .attached }).setReg 0x40010 44).setReg (trigReg 0 0) 0xA000000000000000).setReg (trigReg 0 8) 0x00000005FFFFFFFF) with dbg := { Debug.init with due := [] } }; let t : Fin 64 := 3; let v : W64 := 5; let x : Instr × Nat × Nat × Nat := (.tenMark t v, 3, 2, t.val); (s.live = true) ∧ (s.pwr.present = true) ∧ (s.attached ↑(3 : Fin 64) = true) ∧ (x ∈ [(Instr.dbgMark (5 : W64), 2, 0, 0), x]) ∧ (BitVec.getLsbD (s.rd 262160) x.snd.fst = true) ∧ (s.rf 262160 5 4 = 2) ∧ (s.dbg.stopped = false) ∧ (s.dbg.lostPort = 0) ∧ (0 < 4) ∧ (BitVec.getLsbD (s.rd (trigReg 0 0)) 63 = true) ∧ (s.rf (trigReg 0 0) 62 60 = 2) ∧ (s.rf (trigReg 0 8) 31 0 = 2 ^ 32 - 1) ∧ (s.rf (trigReg 0 8) 63 32 = bits (5 : W64) 31 0)) ∧
    ((let s : State := { ({ ((open_).setReg (trigReg 0 0) 0xB400000000000000).setReg (trigReg 1 0) 0xB400000000000000 with time := 20005, sec := { Security.init with lifecycle := 1 } }) with dbg := { Debug.init with due := [0], freezing := [] } }; (s.live = true) ∧ (↑(0 : Fin 4) ∈ s.dbg.due) ∧ (∀ (k : Nat), k ∈ s.dbg.due → ↑(0 : Fin 4) ≤ k) ∧ (BitVec.getLsbD (s.rd (trigReg ↑(0 : Fin 4) 0)) 58 = true)) ∧
    (let s : State := { ({ ((open_).setReg (trigReg 0 0) 0xB400000000000000).setReg (trigReg 1 0) 0xB400000000000000 with time := 20005, sec := { Security.init with lifecycle := 1 } }) with dbg := { Debug.init with due := [], freezing := [] } }; (s.live = true) ∧ (BitVec.getLsbD (s.rd (trigReg ↑(0 : Fin 4) 0)) 63 = true) ∧ (s.rf (trigReg ↑(0 : Fin 4) 0) 62 60 = 3) ∧ (BitVec.getLsbD (s.rd (trigReg ↑(0 : Fin 4) 0)) 58 = true)) ∧
    (let s : State := { ({ ((open_).setReg (trigReg 0 0) 0x0).setReg (trigReg 1 0) 0x0 with time := 20005, sec := { Security.init with lifecycle := 1 } }) with dbg := { Debug.init with due := [], freezing := [(0, 5, 3)] } }; (s.live = true) ∧ (List.find? (fun x => x.fst == ↑(0 : Fin 4)) s.dbg.freezing = some (↑(0 : Fin 4), (5 : W64), 3)) ∧ (3 = 0 ∨ BitVec.toNat (5 : W64) + 10000 ≤ BitVec.toNat s.time))) ∧
    ((let s : State := { ({ ((open_).setReg (trigReg 0 0) 0x0).setReg (trigReg 1 0) 0x0 with time := 20005, sec := { Security.init with lifecycle := 2 } }) with dbg := { Debug.init with due := [], freezing := [] } }; (s.live = true) ∧ (List.find? (fun x => x.fst == ↑(0 : Fin 4)) s.dbg.freezing = none)) ∧
    (let s : State := { ({ ((open_).setReg (trigReg 0 0) 0x0).setReg (trigReg 1 0) 0x0 with time := 20005, sec := { Security.init with lifecycle := 2 } }) with dbg := { Debug.init with due := [], freezing := [] } }; (s.live = true) ∧ (¬↑(0 : Fin 4) ∈ s.dbg.due ∨ ∃ k, k ∈ s.dbg.due ∧ k < ↑(0 : Fin 4))) ∧
    (let s : State := { ({ ((open_).setReg (trigReg 0 0) 0x0).setReg (trigReg 1 0) 0x0 with time := 20005, sec := { Security.init with lifecycle := 2 } }) with dbg := { Debug.init with due := [], freezing := [] } }; (s.live = true) ∧ (BitVec.getLsbD (s.rd (trigReg ↑(0 : Fin 4) 0)) 63 = false ∨ s.rf (trigReg ↑(0 : Fin 4) 0) 62 60 ≠ 3)) ∧
    (let s : State := { ({ ((open_).setReg (trigReg 0 0) 0x0).setReg (trigReg 1 0) 0x0 with time := 20005, sec := { Security.init with lifecycle := 2 } }) with dbg := { Debug.init with due := [], freezing := [(0, 20000, 3)] } }; (s.live = true) ∧ (List.find? (fun x => x.fst == ↑(0 : Fin 4)) s.dbg.freezing = some (↑(0 : Fin 4), (20000 : W64), 3)) ∧ (3 ≠ 0) ∧ (BitVec.toNat s.time < BitVec.toNat (20000 : W64) + 10000))) ∧
    (let s : State := { open_ with sec := { Security.init with lifecycle := 0 } }; s.live = true) :=
  ⟨by decide +kernel, by decide +kernel, by decide +kernel, by decide +kernel, by decide +kernel⟩

theorem witness_RodAccessAndWaitForGraph :
    (let s : State := { (((open_).onPart 0 (fun x => { x with st := .held, opened := some desc0 })).setReg 0x40088 0x1122334455667788).onRod 0 (fun r => { r with s := [(1, 7), (5, 9)] }) with sec := { Security.init with lifecycle := 2 } }; (s.live = true) ∧ (BitVec.getLsbD (13835339530258874373 : W64) 63 = true) ∧ (s.sec.lifecycle = 2) ∧ (s.partOf (bits (13835339530258874373 : W64) 61 53) = some 0) ∧ ((s.part 0).st = PState.held) ∧ (BitVec.getLsbD (13835339530258874373 : W64) 62 = true) ∧ (bits (13835339530258874373 : W64) 52 48 = 1) ∧ (bits (13835339530258874373 : W64) 21 0 < 32) ∧ (1 ≠ s.phys (bits (13835339530258874373 : W64) 61 53))) ∧
    (let s : State := { (((open_).onPart 0 (fun x => { x with st := .held, opened := some desc0 })).setReg 0x40088 0x1122334455667788).onRod 0 (fun r => { r with s := [(1, 7), (5, 9)] }) with sec := { Security.init with lifecycle := 2 } }; (s.live = true) ∧ (BitVec.getLsbD (13835058055282163713 : W64) 63 = true) ∧ (s.sec.lifecycle = 2) ∧ (s.partOf (bits (13835058055282163713 : W64) 61 53) = some 0) ∧ ((s.part 0).st = PState.held) ∧ (BitVec.getLsbD (13835058055282163713 : W64) 62 = true) ∧ (bits (13835058055282163713 : W64) 52 48 = 0) ∧ (bits (13835058055282163713 : W64) 21 0 + 8 ≤ 4194304)) ∧
    ((let s : State := { (((open_).onPart 0 (fun x => { x with st := .held, opened := some desc0 })).setReg 0x40088 0x1122334455667788).onRod 0 (fun r => { r with s := [(1, 7), (5, 9)] }) with sec := { Security.init with lifecycle := 2 } }; (s.live = true) ∧ (BitVec.getLsbD (9223372036854775823 : W64) 63 = true) ∧ (s.sec.lifecycle = 2) ∧ (s.partOf (bits (9223372036854775823 : W64) 61 53) = some 0) ∧ ((s.part 0).st = PState.held) ∧ (BitVec.getLsbD (9223372036854775823 : W64) 62 = false) ∧ (bits (9223372036854775823 : W64) 52 48 = 0) ∧ (bits (9223372036854775823 : W64) 21 0 + 8 ≤ 4194304)) ∧
    (let s : State := { (((open_).onPart 0 (fun x => { x with st := .held, opened := some desc0 })).setReg 0x40088 0x1122334455667788).onRod 0 (fun r => { r with s := [(1, 7), (5, 9)] }) with sec := { Security.init with lifecycle := 2 } }; (s.live = true) ∧ (BitVec.getLsbD (0 : W64) 63 = false ∨ s.sec.lifecycle ≠ 2 ∨ s.partOf (bits (0 : W64) 61 53) = none ∨ rodIndexOk (bits (0 : W64) 52 48) (bits (0 : W64) 21 0) = false ∨ s.partOf (bits (0 : W64) 61 53) = some 0 ∧ (s.part 0).st ≠ PState.held)) ∧
    (let s : State := ((open_).onPart 0 (fun x => { x with opened := some desc0, streams := [] })).onRod 0 (fun r => r); (s.live = true) ∧ (BitVec.getLsbD (129 : W64) 7 = true))) ∧
    ((let s : State := ((open_).onPart 0 (fun x => { x with opened := some desc0, streams := [] })).onRod 0 (fun r => r); (s.live = true) ∧ (BitVec.getLsbD (0 : W64) 7 = false)) ∧
    (let s : State := { ({ ((open_).onPart 0 (fun x => { x with st := .held, hold := 4, opened := some desc0 })).setReg 0x40068 0 with time := 20000 }) with dbg := { Debug.init with capture := some ⟨0, 7, 100, [], [], [], [], [], []⟩ } }; let c : WfgCapture := ⟨0, 7, 100, [], [], [], [], [], []⟩; (s.live = true) ∧ (s.dbg.capture = some c) ∧ (c.part = ↑(0 : Fin 16)) ∧ (BitVec.toNat c.time + 10000 ≤ BitVec.toNat s.time) ∧ ((s.part ↑(0 : Fin 16)).st ≠ PState.held ∨ (s.part ↑(0 : Fin 16)).hold ≠ 5)) ∧
    (let s : State := { ({ ((open_).onPart 0 (fun x => { x with st := .held, hold := 4, opened := some desc0 })).setReg 0x40068 0 with time := 20000 }) with dbg := { Debug.init with capture := none } }; (s.live = true) ∧ (s.dbg.capture = none))) ∧
    ((let s : State := { ({ ((open_).onPart 0 (fun x => { x with st := .held, hold := 4, opened := some desc0 })).setReg 0x40068 0 with time := 20000 }) with dbg := { Debug.init with capture := some ⟨0, 7, 100, [], [], [], [], [], []⟩ } }; let c : WfgCapture := ⟨0, 7, 100, [], [], [], [], [], []⟩; (s.live = true) ∧ (s.dbg.capture = some c) ∧ (c.part ≠ ↑(1 : Fin 16) ∨ BitVec.toNat s.time < BitVec.toNat c.time + 10000)) ∧
    (let s : State := { ({ ((open_).onPart 0 (fun x => { x with st := .held, hold := 5, opened := some desc0 })).setReg 0x40068 0 with time := 20000 }) with dbg := { Debug.init with capture := some ⟨0, 7, 100, [], [], [], [], [], []⟩ } }; let c : WfgCapture := ⟨0, 7, 100, [], [], [], [], [], []⟩; (s.live = true) ∧ (s.dbg.capture = some c) ∧ (c.part = ↑(0 : Fin 16)) ∧ (BitVec.toNat c.time + 10000 ≤ BitVec.toNat s.time) ∧ ((s.part ↑(0 : Fin 16)).st = PState.held) ∧ ((s.part ↑(0 : Fin 16)).hold = 5))) :=
  ⟨by decide +kernel, by decide +kernel, by decide +kernel, by decide +kernel, by decide +kernel⟩

theorem witness_TestInstructionsAndPatternEngines :
    (let s : State := ((open_).setReg 0x600010 0).setReg 0x600318 0xFF; (∀ (n : Nat), (fun n => n < 32 + s.design.spareLanes ∧ BitVec.getLsbD ((9223372039002259456 : W64) &&& w64 (7 * 2 ^ 61 + (2 ^ (32 + s.design.spareLanes) - 1))) n = true) n → ¬(fun n => BitVec.getLsbD (s.rd 6291472) ↑(0 : Fin 8) = true ∧ (n ∈ (s.port ↑(0 : Fin 8)).rxMap ∨ n ∈ (s.port ↑(0 : Fin 8)).txMap)) n) ∧ (s.live = true) ∧ (BitVec.getLsbD ((9223372039002259456 : W64) &&& w64 (7 * 2 ^ 61 + (2 ^ (32 + s.design.spareLanes) - 1))) 63 = true)) ∧
    (let s : State := ((open_).setReg 0x600010 1).setReg 0x600318 0xFF; (∃ n, (fun n => n < 32 + s.design.spareLanes ∧ BitVec.getLsbD ((1 : W64) &&& w64 (7 * 2 ^ 61 + (2 ^ (32 + s.design.spareLanes) - 1))) n = true) n ∧ (fun n => BitVec.getLsbD (s.rd 6291472) ↑(0 : Fin 8) = true ∧ (n ∈ (s.port ↑(0 : Fin 8)).rxMap ∨ n ∈ (s.port ↑(0 : Fin 8)).txMap)) n) ∧ (s.live = true)) ∧
    (let s : State := ((open_).setReg 0x600010 1).setReg 0x600318 0xFF; (∀ (n : Nat), (fun n => n < 32 + s.design.spareLanes ∧ BitVec.getLsbD ((1 : W64) &&& w64 (7 * 2 ^ 61 + (2 ^ (32 + s.design.spareLanes) - 1))) n = true) n → ¬(fun n => BitVec.getLsbD (s.rd 6291472) ↑(7 : Fin 8) = true ∧ (n ∈ (s.port ↑(7 : Fin 8)).rxMap ∨ n ∈ (s.port ↑(7 : Fin 8)).txMap)) n) ∧ (s.live = true) ∧ (BitVec.getLsbD ((1 : W64) &&& w64 (7 * 2 ^ 61 + (2 ^ (32 + s.design.spareLanes) - 1))) 63 = false)) :=
  ⟨⟨fun _ _ hu => absurd hu.1 (by decide +kernel), by decide +kernel⟩, ⟨⟨0, by decide +kernel, by decide +kernel⟩, by decide +kernel⟩, ⟨fun _ _ hu => absurd hu.1 (by decide +kernel), by decide +kernel⟩⟩

theorem witness_TestInstructionsAndPatternEngines_part2 :
    ((let s : State := { (open_) with sec := { Security.init with tstDone := true, lifecycle := 2 }, tst := { Test.init with fuses := [(3, 0xF0)] } }; let w : FuseWrite := .retire 3; (s.sec.tstDone = false ∨ s.sec.lifecycle = 2) ∧ (w = w)) ∧
    (let s : State := { (open_) with sec := { Security.init with tstDone := true, lifecycle := 2 }, tst := { Test.init with fuses := [(3, 0xF0)] } }; (s.sec.tstDone = false ∨ s.sec.lifecycle = 2) ∧ (FuseWrite.tstDone = FuseWrite.tstDone)) ∧
    (let s : State := { (open_) with sec := { Security.init with tstDone := true, lifecycle := 2 }, tst := { Test.init with fuses := [(3, 0xF0)] } }; let w : FuseWrite := .row 3 0x0F; (s.sec.tstDone = false ∨ s.sec.lifecycle = 2) ∧ (w = w)) ∧
    (let s : State := { (open_) with sec := { Security.init with tstDone := true, lifecycle := 1 }, tst := { Test.init with fuses := [(3, 0xF0)] } }; (s.sec.tstDone = true) ∧ (s.sec.lifecycle ≠ 2) ∧ (↑(0 : Fin 16) < s.design.stacks))) ∧
    ((let s : State := { (serving) with flt := { Faults.init with chMap := [(5, 31)] } }; (s.powered = true) ∧ (↑(0 : Fin 16) < s.design.stacks) ∧ (∀ (c : Nat), c < 31 → s.physChan (↑(0 : Fin 16)) c ≠ ↑(5 : Fin 32)) ∧ ((s.flt.copying.any fun x => x.fst == ↑(0 : Fin 16)) = false) ∧ (1 ∈ [1, 2, 3])) ∧
    (let s : State := { (serving) with flt := { Faults.init with chMap := [(5, 31)] } }; (5 < 31) ∧ (s.powered = true) ∧ (↑(0 : Fin 16) < s.design.stacks) ∧ (s.physChan ↑(0 : Fin 16) 5 = ↑(31 : Fin 32)) ∧ (∀ (p : Nat), p < 16 → (s.part p).st = PState.off)) ∧
    (State.reset.powered = false ∨ State.reset.design.stacks ≤ ↑(0 : Fin 16))) ∧
    ((let s : State := { ((open_).setReg (cntStack 0 1) 5) with sec := { Security.init with lifecycle := 1 } }; (5 < 31) ∧ (s.physChan ↑(0 : Fin 16) 5 = ↑(5 : Fin 32)) ∧ (0 < 16) ∧ ((s.part 0).st ≠ PState.off)) ∧
    (let s : State := { (serving) with flt := { Faults.init with copying := [(0, 3)] } }; (s.powered = true) ∧ (↑(0 : Fin 16) < s.design.stacks) ∧ (∀ (c : Nat), c < 31 → s.physChan (↑(0 : Fin 16)) c ≠ ↑(31 : Fin 32)) ∧ ((s.flt.copying.any fun x => x.fst == ↑(0 : Fin 16)) = true))) :=
  ⟨by decide +kernel, by decide +kernel, by decide +kernel⟩

theorem witness_RegisterWindowAccess :
    (((regAt (BitVec.toNat (8390664 : BitVec 24)) = none) ∧ (BitVec.toNat (8390664 : BitVec 24) % 8 = 0)) ∧
    (let s : State := (open_).setTen 1 { Tenant.init with st := .attached }; (BitVec.toNat (4 : BitVec 24) % 8 ≠ 0) ∧ (s.hapUp = true) ∧ (s.attached ↑(1 : Fin 64) = true)) ∧
    (let s : State := serving.setReg 0x10008 1; s.mgmtReaches (BitVec.toNat (0 : BitVec 24)) = false) ∧
    (let s : State := (open_).setTen 0 Tenant.init; (BitVec.toNat (0 : BitVec 24) % 8 = 0) ∧ (s.mgmtReaches (BitVec.toNat (0 : BitVec 24)) = true)) ∧
    (let s : State := serving.setReg 0x10008 1; s.hapUp = false ∨ s.attached ↑(1 : Fin 64) = false ∨ BitVec.toNat (0 : BitVec 24) % 8 = 0 ∧ s.reaches (↑(1 : Fin 64)) (BitVec.toNat (0 : BitVec 24)) = false)) ∧
    ((let s : State := (open_).setTen 1 { Tenant.init with st := .attached }; (BitVec.toNat (8455040 : BitVec 24) % 8 = 0) ∧ (s.hapUp = true) ∧ (s.attached ↑(1 : Fin 64) = true) ∧ (s.reaches (↑(1 : Fin 64)) (BitVec.toNat (8455040 : BitVec 24)) = true)) ∧
    (let s : State := { ((open_).setReg (pReg 0 8) 0xFFFFFFFFFFFFFFFF).setReg (pReg 15 8) 0xFFFFFFFFFFFFFFFF with design := .cx128 }; (0 < 16) ∧ (s.design.rods / 8 ≤ 16) ∧ (16 < 64)) ∧
    (let s : State := (open_).setReg 0x10208 1 |>.setReg 0x10218 700; (s.powered = true) ∧ (BitVec.getLsbD (s.rd 66056) 0 = true)) ∧
    (let s : State := (open_).setReg 0x10208 1 |>.setReg 0x10218 700; (s.powered = true) ∧ (bits (0 : W64) 9 0 = 0 ∨ 1000 < bits (0 : W64) 9 0))) ∧
    ((let s : State := (open_).setReg 0x10208 1 |>.setReg 0x10218 700; (s.powered = true) ∧ (1 ≤ bits (1 : W64) 9 0) ∧ (bits (1 : W64) 9 0 ≤ 1000)) ∧
    (let s : State := (open_).setReg 0x10208 0 |>.setReg 0x10218 700; (s.powered = true) ∧ (BitVec.getLsbD (s.rd 66056) 0 = false) ∧ (bits (0 : W64) 11 0 < 500 ∨ 2300 < bits (0 : W64) 11 0)) ∧
    (let s : State := (open_).setReg 0x10208 0 |>.setReg 0x10218 700; (s.powered = true) ∧ (BitVec.getLsbD (s.rd 66056) 0 = false) ∧ (500 ≤ bits (500 : W64) 11 0) ∧ (bits (500 : W64) 11 0 ≤ 2300))) ∧
    ((let s : State := ((open_).setReg 0x700010 0).setTen 1 { Tenant.init with st := .attached }; (s.live = true) ∧ (1 < 4) ∧ (∃ k, k < 64 ∧ s.home k = 1 ∧ (s.ten k).st ≠ TState.detached)) ∧
    (let s : State := ((open_).setReg 0x700010 0).setTen 1 { Tenant.init with st := .attached }; (s.live = true) ∧ (0 < 4) ∧ (∀ (k : Nat), k < 64 → s.home k = 0 → (s.ten k).st = TState.detached)) ∧
    ((BitVec.toNat (0 : BitVec 24) % 8 = 0) ∧ (regAt (BitVec.toNat (0 : BitVec 24)) ≠ none) ∧ (open_.mgmtReaches (BitVec.toNat (0 : BitVec 24)) = true) ∧ (¬BitVec.toNat (0 : BitVec 24) ∈ [4096, 4104, 4112])) ∧
    (BitVec.toNat (4 : BitVec 24) % 8 ≠ 0 ∨ regAt (BitVec.toNat (4 : BitVec 24)) = none ∨ open_.mgmtReaches (BitVec.toNat (4 : BitVec 24)) = false)) :=
  ⟨by decide +kernel, by decide +kernel, by decide +kernel, by decide +kernel⟩

theorem witness_StepRunsTheFrontCommand :
    ((open_.pending = []) ∧
    (let s : State := { (open_) with fab := { Fabric.init with slewing := 0, rate := 0, frac := 0 } }; (s.fab.slewing = (0 : Int)) ∧ (s.fab.rate = (0 : Int)) ∧ (s.fab.frac = (0 : Int))) ∧
    (let s : State := { (open_) with fab := { Fabric.init with slewing := 0, rate := 0, frac := 0 } }; ((-100000 : Int) < s.fab.frac) ∧ (s.fab.frac < (100000 : Int)) ∧ ((-500 : Int) ≤ s.fab.rate) ∧ (s.fab.rate ≤ (500 : Int))) ∧
    ((State.reset.fabUp = false) ∧ (State.reset.live = false))) :=
  by decide +kernel

theorem witness_CounterIncrements :
    ((BitVec.getLsbD (9223372036854775813 : W64) 63 = true) ∧
    (BitVec.toNat (0 : W64) % 2 ^ 48 + 0 < 2 ^ 48) ∧
    (2 ^ 48 ≤ BitVec.toNat (281474976710655 : W64) % 2 ^ 48 + 1) ∧
    ((0 < 1) ∧ (0 ≠ 3)) ∧
    (isCounter 294912 = true) ∧
    (let s : State := (open_).setReg 409344 0x0; let h : RHit := ((regAt 409344).getD ⟨⟨.counter, 0, [], []⟩, []⟩); (isCounter 409344 = true) ∧ (regAt 409344 = some h) ∧ (s.absentReg h 409344 = false))) ∧
    (let m : Msg := ⟨mkHdr 1 0 0 3 0 0 294916 0, []⟩; (isCounter (m.off / 8 * 8) = true) ∧ (m.off % 4 = 0) ∧ (m.len = 4)) :=
  ⟨by decide +kernel, by decide +kernel⟩

theorem witness_EveryStepKeepsMemoryCanonical :
    let s : State := { serving with pending := [.idcode] }
    s.memWf = true ∧ step s = .next (nextOf (step s)) := ⟨by decide +kernel, rfl⟩

end Sys2Proof.Tests
end

section
/-! The two statements of scope (00_scope.md): every command answers a next state and only adds, and every step keeps the memories
canonical. The lemmas of Laws/Keeps… say what each meaning keeps; here they are gathered over the dispatch and the step. -/

namespace Sys2Proof.Machine

/-! ### Every command answers a next state -/

/-- WS_HBM selects its instruction or bypass, in the same way, so it answers on either side of its test. -/
theorem execWsHbm_answers (jtag : Bool) (stack : Fin 16) (s : State) : ∃ t, execWsHbm jtag stack s = .next t := by
  unfold execWsHbm
  split
  · exact ⟨_, rfl⟩
  · exact ⟨_, rfl⟩

/-- No command stops the block: every meaning but that of WS_HBM is written as `.next` of one state, with its conditions inside. -/
theorem exec_answers (c : Instr) (s : State) : ∃ t, exec c s = .next t := by
  cases c
  case wsHbm jtag stack => exact execWsHbm_answers jtag stack s
  all_goals exact ⟨_, rfl⟩

/-! ### Every command keeps what `Keeps` names -/

/-- The dispatch keeps what each of its meanings keeps. -/
theorem exec_keeps {s0 s : State} (h : Keeps s0 s) : (c : Instr) → KeepsR s0 (exec c s)
  | .nop _ => execNop_keeps h
  | .srRd _ => execSrRd_keeps h
  | .srWr _ => execSrWr_keeps h
  | .brk _ => execBreak_keeps h
  | .br _ => execBr_keeps h
  | .bl _ => execBl_keeps h
  | .jr _ => execJr_keeps h
  | .jlr _ => execJlr_keeps h
  | .integerOp _ => execIntegerOp_keeps h
  | .integerImmediateOp _ => execIntegerImmediateOp_keeps h
  | .cmp _ => execCmp_keeps h
  | .cmpi _ => execCmpi_keeps h
  | .pred _ => execPred_keeps h
  | .fp32ScalarOp _ => execFp32ScalarOp_keeps h
  | .ld _ => execLd_keeps h
  | .st _ => execSt_keeps h
  | .wait _ => execWait_keeps h
  | .waitRelease _ => execWaitRelease_keeps h
  | .tadd _ => execTadd_keeps h
  | .tileTake _ => execTileTake_keeps h
  | .tileSteal _ => execTileSteal_keeps h
  | .stealWalkEnd _ => execStealWalkEnd_keeps h
  | .tilePut _ => execTilePut_keeps h
  | .vectorOp _ => execVectorOp_keeps h
  | .vld _ => execVld_keeps h
  | .vst _ => execVst_keeps h
  | .vcvtTo _ => execVcvtTo_keeps h
  | .vcvtSc _ => execVcvtSc_keeps h
  | .vcvtFrom _ => execVcvtFrom_keeps h
  | .accRd _ => execAccRd_keeps h
  | .accWr _ => execAccWr_keeps h
  | .accClr _ => execAccClr_keeps h
  | .mma _ => execMma_keeps h
  | .mmaLatched _ => execMmaLatched_keeps h
  | .carryMap _ => execCarryMap_keeps h
  | .carryMix _ => execCarryMix_keeps h
  | .carryDown _ => execCarryDown_keeps h
  | .carryUp _ => execCarryUp_keeps h
  | .carryAdd _ => execCarryAdd_keeps h
  | .get _ => execGet_keeps h
  | .put _ => execPut_keeps h
  | .aadd _ => execAadd_keeps h
  | .amax _ => execAmax_keeps h
  | .acas _ => execAcas_keeps h
  | .axchg _ => execAxchg_keeps h
  | .taddR _ => execTaddR_keeps h
  | .fenceL _ => execFenceL_keeps h
  | .fenceB _ => execFenceB_keeps h
  | .fenceP _ => execFenceP_keeps h
  | .fenceH _ => execFenceH_keeps h
  | .fenceComplete _ => execFenceComplete_keeps h
  | .gather _ => execGather_keeps h
  | .gatherComplete _ _ => execGatherComplete_keeps h
  | .streamArm _ => execStreamArm_keeps h
  | .samplePut _ => execSamplePut_keeps h
  | .samplePutEmpty _ => execSamplePutEmpty_keeps h
  | .asyncComplete _ _ => execAsyncComplete_keeps h
  | .rodException _ => execRodException_keeps h
  | .remoteGetArrive _ => execRemoteGetArrive_keeps h
  | .remotePutArrive _ => execRemotePutArrive_keeps h
  | .remoteAtomicArrive _ => execRemoteAtomicArrive_keeps h
  | .tallyAddArrive _ => execTallyAddArrive_keeps h
  | .remoteResponse _ _ _ => execRemoteResponse_keeps h
  | .remoteTimeout _ _ => execRemoteTimeout_keeps h
  | .create _ => execCreate_keeps h
  | .start _ => execStart_keeps h
  | .release _ => execRelease_keeps h
  | .releaseWithReplay _ => execReleaseWithReplay_keeps h
  | .partitionReset _ => execPartitionReset_keeps h
  | .partitionResetEnd _ => execPartitionResetEnd_keeps h
  | .delete _ => execDelete_keeps h
  | .buildStart _ => execBuildStart_keeps h
  | .buildEnd _ => execBuildEnd_keeps h
  | .stepSeal _ => execStepSeal_keeps h
  | .launchStaggerEnd _ _ => execLaunchStaggerEnd_keeps h
  | .samplePutCopy _ _ => execSamplePutCopy_keeps h
  | .samplerChoose _ => execSamplerChoose_keeps h
  | .journalComplete _ => execJournalComplete_keeps h
  | .stepTimeout _ => execStepTimeout_keeps h
  | .submit _ _ _ _ => execSubmit_keeps h
  | .pause _ _ _ => execPause_keeps h
  | .park _ _ _ => execPark_keeps h
  | .resume _ _ _ => execResume_keeps h
  | .resumeComplete _ => execResumeComplete_keeps h
  | .cancel _ _ _ => execCancel_keeps h
  | .adapterInstall _ _ _ => execAdapterInstall_keeps h
  | .adapterReplace _ _ _ => execAdapterReplace_keeps h
  | .adapterRemove _ _ _ => execAdapterRemove_keeps h
  | .load _ _ _ _ _ => execLoad_keeps h
  | .shardVerify _ _ _ => execShardVerify_keeps h
  | .loadComplete _ => execLoadComplete_keeps h
  | .slateSweep => execSlateSweep_keeps h
  | .slateFree _ => execSlateFree_keeps h
  | .packComplete _ => execPackComplete_keeps h
  | .carDirStageApply _ => execCarDirStageApply_keeps h
  | .directoryApply _ => execDirectoryApply_keeps h
  | .gthTblStageApply => execGthTblStageApply_keeps h
  | .tableApply => execTableApply_keeps h
  | .gthTblRelease _ => execGthTblRelease_keeps h
  | .seqProfStageApply _ => execSeqProfStageApply_keeps h
  | .profileApply _ => execProfileApply_keeps h
  | .gthRowwrite _ => execGthRowwrite_keeps h
  | .rowWriteFlip => execRowWriteFlip_keeps h
  | .lookupReply _ => execLookupReply_keeps h
  | .hotSetRefresh _ _ => execHotSetRefresh_keeps h
  | .shardMigration _ _ _ _ _ => execShardMigration_keeps h
  | .replicaGrant _ _ _ => execReplicaGrant_keeps h
  | .replicaInvalidate _ _ => execReplicaInvalidate_keeps h
  | .invalReceive _ => execInvalReceive_keeps h
  | .invalReplyReceive _ => execInvalReplyReceive_keeps h
  | .invalRetry _ _ _ => execInvalRetry_keeps h
  | .grantReceive _ => execGrantReceive_keeps h
  | .evict _ _ _ => execEvict_keeps h
  | .evictReceive _ => execEvictReceive_keeps h
  | .map _ => execMap_keeps h
  | .unmap _ => execUnmap_keeps h
  | .promote _ => execPromote_keeps h
  | .promoteComplete _ _ => execPromoteComplete_keeps h
  | .demote _ => execDemote_keeps h
  | .demoteComplete _ _ => execDemoteComplete_keeps h
  | .demoteWaitExpire _ _ => execDemoteWaitExpire_keeps h
  | .ref _ => execRef_keeps h
  | .unref _ => execUnref_keeps h
  | .frameRelease _ => execFrameRelease_keeps h
  | .tierCmdTail _ => execTierCmdTail_keeps h
  | .streamAccept _ _ => execStreamAccept_keeps h
  | .extentComplete _ _ _ => execExtentComplete_keeps h
  | .extentFail _ _ _ _ => execExtentFail_keeps h
  | .scrubCheck _ _ => execScrubCheck_keeps h
  | .scrubMismatch _ _ => execScrubMismatch_keeps h
  | .refetchComplete _ _ => execRefetchComplete_keeps h
  | .refetchLimitExpire _ => execRefetchLimitExpire_keeps h
  | .imbalanceWindow _ => execImbalanceWindow_keeps h
  | .groupReceive _ _ => execGroupReceive_keeps h
  | .nakReceive _ _ => execNakReceive_keeps h
  | .laneWindow _ _ => execLaneWindow_keeps h
  | .laneFail _ _ _ => execLaneFail_keeps h
  | .laneSwapReceive _ _ _ => execLaneSwapReceive_keeps h
  | .laneSwapComplete _ => execLaneSwapComplete_keeps h
  | .probeLightSeen _ => execProbeLightSeen_keeps h
  | .lightLost _ => execLightLost_keeps h
  | .frameLock _ => execFrameLock_keeps h
  | .identityReceive _ _ => execIdentityReceive_keeps h
  | .spdmSessionComplete _ _ _ => execSpdmSessionComplete_keeps h
  | .peerPresent _ => execPeerPresent_keeps h
  | .linkDown _ => execLinkDown_keeps h
  | .verifiedGroupSilence _ => execVerifiedGroupSilence_keeps h
  | .ctrlLeaveReceive _ => execCtrlLeaveReceive_keeps h
  | .portHoldDarkEnd _ => execPortHoldDarkEnd_keeps h
  | .keyUpdate _ => execKeyUpdate_keeps h
  | .keySwitchReceive _ _ => execKeySwitchReceive_keeps h
  | .syncTimer => execSyncTimer_keeps h
  | .syncReq _ => execSyncReq_keeps h
  | .syncRsp _ => execSyncRsp_keeps h
  | .ident _ _ _ => execIdent_keeps h
  | .status _ _ _ => execStatus_keeps h
  | .setPower _ _ _ _ => execSetPower_keeps h
  | .light _ _ _ _ => execLight_keeps h
  | .readPower _ _ _ => execReadPower_keeps h
  | .readTemp _ _ _ => execReadTemp_keeps h
  | .laserReplyTimeout _ _ => execLaserReplyTimeout_keeps h
  | .laserFaultEdge _ => execLaserFaultEdge_keeps h
  | .writeInbound _ _ => execWriteInbound_keeps h
  | .tallyInbound _ _ => execTallyInbound_keeps h
  | .readInbound _ _ => execReadInbound_keeps h
  | .cplInbound _ _ => execCplInbound_keeps h
  | .cplDataInbound _ _ => execCplDataInbound_keeps h
  | .attach _ _ => execAttach_keeps h
  | .detach _ _ => execDetach_keeps h
  | .reset _ _ => execReset_keeps h
  | .badBeat _ _ => execBadBeat_keeps h
  | .creditReturn _ _ => execCreditReturn_keeps h
  | .writeOutbound _ => execWriteOutbound_keeps h
  | .readOutbound _ => execReadOutbound_keeps h
  | .hapTimeoutExpire _ _ => execHapTimeoutExpire_keeps h
  | .tenSqTail _ _ _ => execTenSqTail_keeps h
  | .sqFetch _ _ => execSqFetch_keeps h
  | .cqPost _ _ => execCqPost_keeps h
  | .tenCqHead _ _ _ => execTenCqHead_keeps h
  | .tenSqCfg _ _ _ => execTenSqCfg_keeps h
  | .tenCqCfg _ _ _ => execTenCqCfg_keeps h
  | .tenInDone _ _ => execTenInDone_keeps h
  | .tenInFree _ _ => execTenInFree_keeps h
  | .tenOringCfg _ _ _ => execTenOringCfg_keeps h
  | .tenOringHead _ _ _ => execTenOringHead_keeps h
  | .vectorFire _ _ => execVectorFire_keeps h
  | .tenVecMask _ _ => execTenVecMask_keeps h
  | .tenReset _ _ => execTenReset_keeps h
  | .tenantResetEnd _ => execTenantResetEnd_keeps h
  | .tenMark _ _ => execTenMark_keeps h
  | .tenSpdmGo _ _ => execTenSpdmGo_keeps h
  | .secSpdmGo _ => execSecSpdmGo_keeps h
  | .spdmResponse _ => execSpdmResponse_keeps h
  | .hapLoopCtrl _ => execHapLoopCtrl_keeps h
  | .loopbackWrite _ _ => execLoopbackWrite_keeps h
  | .presentRise => execPresentRise_keeps h
  | .presentFall => execPresentFall_keeps h
  | .secDbgChal => execSecDbgChal_keeps h
  | .secDbgToken _ _ => execSecDbgToken_keeps h
  | .secLock _ => execSecLock_keeps h
  | .pwrLock _ => execPwrLock_keeps h
  | .secPartOwner _ _ _ => execSecPartOwner_keeps h
  | .correctableError _ => execCorrectableError_keeps h
  | .uncorrectableError _ => execUncorrectableError_keeps h
  | .patrol _ => execPatrol_keeps h
  | .channelFailing _ _ => execChannelFailing_keeps h
  | .channelCopyEnd _ => execChannelCopyEnd_keeps h
  | .channelLost _ _ => execChannelLost_keeps h
  | .slateUe _ _ => execSlateUe_keeps h
  | .fixedFunctionUe _ _ => execFixedFunctionUe_keeps h
  | .spareSubstitution _ => execSpareSubstitution_keeps h
  | .rodCeLimit _ => execRodCeLimit_keeps h
  | .peerWaitExpire _ => execPeerWaitExpire_keeps h
  | .lockstepMismatch _ => execLockstepMismatch_keeps h
  | .heartbeatExpire _ => execHeartbeatExpire_keeps h
  | .beamFailover => execBeamFailover_keeps h
  | .fallbackFreeze => execFallbackFreeze_keeps h
  | .haltAssert _ => execHaltAssert_keeps h
  | .haltDiscrepancy => execHaltDiscrepancy_keeps h
  | .haltRelease _ => execHaltRelease_keeps h
  | .fltHaltN _ => execFltHaltN_keeps h
  | .discrepancyClear => execDiscrepancyClear_keeps h
  | .fieldRotation _ => execFieldRotation_keeps h
  | .rotationTestEnd _ _ => execRotationTestEnd_keeps h
  | .sramCeLimit _ _ => execSramCeLimit_keeps h
  | .fltEvtPend _ => execFltEvtPend_keeps h
  | .dbgSnapCtrl _ => execDbgSnapCtrl_keeps h
  | .dbgFreeze _ => execDbgFreeze_keeps h
  | .dbgWfgCapture _ => execDbgWfgCapture_keeps h
  | .wfgSecondCapture _ => execWfgSecondCapture_keeps h
  | .dbgRodAccess _ => execDbgRodAccess_keeps h
  | .dbgMark _ => execDbgMark_keeps h
  | .triggerFire _ => execTriggerFire_keeps h
  | .dbgTrigFire _ => execDbgTrigFire_keeps h
  | .triggerFreeze _ => execTriggerFreeze_keeps h
  | .traceLoss _ => execTraceLoss_keeps h
  | .dbgHist _ _ => execDbgHist_keeps h
  | .histogramSample _ => execHistogramSample_keeps h
  | .counterWrite _ _ => execCounterWrite_keeps h
  | .powerOn => execPowerOn_keeps h
  | .rstNAssert => execRstNAssert_keeps h
  | .rstNRelease => execRstNRelease_keeps h
  | .rstGlitch => execRstGlitch_keeps h
  | .pgLost _ => execPgLost_keeps h
  | .cold => execCold_keeps h
  | .warm => execWarm_keeps h
  | .thermalSample _ _ _ _ => execThermalSample_keeps h
  | .thermtrip => execThermtrip_keeps h
  | .vrhot => execVrhot_keeps h
  | .thermAlert => execThermAlert_keeps h
  | .clockStep => execClockStep_keeps h
  | .governorTick _ => execGovernorTick_keeps h
  | .groupRelease _ => execGroupRelease_keeps h
  | .clocks _ => execClocks_keeps h
  | .sram _ => execSram_keeps h
  | .keys => execKeys_keeps h
  | .hbm _ => execHbm_keeps h
  | .image => execImage_keeps h
  | .beamImgAddr _ => execBeamImgAddr_keeps h
  | .beamImgData _ => execBeamImgData_keeps h
  | .beamImgGo _ => execBeamImgGo_keeps h
  | .auth => execAuth_keeps h
  | .beam _ _ => execBeam_keeps h
  | .rods _ => execRods_keeps h
  | .links => execLinks_keeps h
  | .sync => execSync_keeps h
  | .host => execHost_keeps h
  | .ready => execReady_keeps h
  | .failed => execFailed_keeps h
  | .managementRequest _ _ _ => execManagementRequest_keeps h
  | .wsBypass _ => execWsBypass_keeps h
  | .wsExtest _ _ => execWsExtest_keeps h
  | .wsIntest _ _ => execWsIntest_keeps h
  | .wsScan _ _ => execWsScan_keeps h
  | .wsLbist _ _ => execWsLbist_keeps h
  | .wsMbist _ _ => execWsMbist_keeps h
  | .wsFuse _ _ => execWsFuse_keeps h
  | .wsHbm _ _ => execWsHbm_keeps h
  | .wsIjtag _ => execWsIjtag_keeps h
  | .idcode => execIdcode_keeps h
  | .samplePreload _ => execSamplePreload_keeps h
  | .bypass => execBypass_keeps h
  | .tstHbmCtrl _ _ pat _ _ => execTstHbmCtrl_keeps (_pat := pat) h
  | .fabPrbsCtrl _ _ => execFabPrbsCtrl_keeps h
  | .registerWrite _ _ _ => execRegisterWrite_keeps h
  | .adapterImageVerified _ _ _ _ => execAdapterImageVerified_keeps h
  | .rowWriteHoldExpire _ _ => execRowWriteHoldExpire_keeps h
  | .replicateRow _ _ _ => execReplicateRow_keeps h
  | .debugTokenVerified => execDebugTokenVerified_keeps h
  | .powerGoodStable => execPowerGoodStable_keeps h
  | .testLogicReset => execTestLogicReset_keeps h

/-- What `Keeps` names covers all that `OnlyAdds` asks. -/
theorem Keeps.onlyAdds {s t : State} (h : Keeps s t) : OnlyAdds s t := ⟨h.design, h.pending, h.tst, h.free, h.out⟩

/-- Settles O59: the command's answer is `.next`, and the lemma about its meaning gives the rest. -/
theorem everyCommandCompletes : Obligations.EveryCommandCompletes := by
  intro c s
  obtain ⟨t, ht⟩ := exec_answers c s
  exact ⟨t, ht, (KeepsR.elim ht (exec_keeps (Keeps.refl s) c)).onlyAdds⟩

/-! ### Every step keeps the memories canonical -/

/-- A step keeps what `Keeps` names, counted from the state whose front command has been taken off the queue (on an empty queue, the
state itself). -/
theorem step_keeps {s t : State} (h : step s = .next t) : Keeps { s with pending := s.pending.tail } t := by
  unfold step at h
  split at h
  next hq =>
    cases h
    have hs : { s with pending := s.pending.tail } = s := by rw [hq, List.tail_nil, ← hq]
    rw [hs]
    exact State.tick_keeps (Keeps.refl s)
  next c rest hq =>
    rw [hq, List.tail_cons]
    exact KeepsR.elim h (exec_keeps (Keeps.refl _) c)

/-- Settles O60: taking the front command off the queue leaves the memories alone, and the rest of the step keeps them. -/
theorem everyStepKeepsMemoryCanonical : Obligations.EveryStepKeepsMemoryCanonical := by
  intro s t hs ht
  have hq : State.memWf { s with pending := s.pending.tail } = true := hs
  exact (step_keeps ht).mem hq

end Sys2Proof.Machine
end

section
/-! The statement of the number formats (02_arithmetic.md): MMA in its two forms. First the checks of R109 in their order, then what the
matrix unit leaves where none of them fails. -/

namespace Sys2Proof.Machine

/-! ### The checks -/

section
variable (s : State) (c : Ctx) (pair ws as wa aa : Nat) (lat : Bool)

/-- An operand that the instruction reads from bead memory reaches beyond 4 MiB. -/
def MmaOutside : Prop :=
  (lat = false ∧ wa + operandBytes (pairW pair ws) (pairDepth pair) 64 > 2 ^ 22) ∨
    aa + operandBytes (pairA pair as) (pairDepth pair) 16 > 2 ^ 22

/-- An operand that the instruction reads from bead memory does not begin on 1,024 bytes. -/
def MmaAskew : Prop := (lat = false ∧ wa % 1024 ≠ 0) ∨ aa % 1024 ≠ 0

/-- The weight latch holds weights of this operand pair and these subtypes (R48). -/
def LatchFits (r : Rod) : Prop := ∃ x, r.latch = some x ∧ x.pair = pair ∧ x.ws = ws ∧ x.as = as

/-- An operand that the instruction reads from bead memory meets a poisoned granule. -/
def MmaPoisoned : Prop :=
  (lat = false ∧ s.beadRangeBad c.ph wa (operandBytes (pairW pair ws) (pairDepth pair) 64) = true) ∨
    s.beadRangeBad c.ph aa (operandBytes (pairA pair as) (pairDepth pair) 16) = true

open Classical in
/-- The checks of R109 in their order, as statements: the cause of the first that fails, 0 where none does. -/
theorem mmaCheck_eq : s.mmaCheck c pair ws as wa aa lat =
    if MmaOutside pair ws as wa aa lat then 0x06
    else if MmaAskew wa aa lat then 0x03
    else if lat = true ∧ ¬ LatchFits pair ws as (s.rod c.ph) then 0x04
    else if MmaPoisoned s c pair ws as wa aa lat then 0x08
    else 0 := by
  unfold State.mmaCheck
  refine if_congr (by simp [MmaOutside]) rfl (if_congr (by simp [MmaAskew]) rfl (if_congr ?_ rfl (if_congr (by simp [MmaPoisoned]) rfl rfl)))
  cases hl : (s.rod c.ph).latch with
  | none => simp [LatchFits, hl]
  | some x => simp [LatchFits, hl, imp_iff_not_or, or_assoc]

variable {s c pair ws as wa aa lat}

theorem mmaCheck_of_outside (ho : MmaOutside pair ws as wa aa lat) : s.mmaCheck c pair ws as wa aa lat = 0x06 := by
  rw [mmaCheck_eq, if_pos ho]

theorem mmaCheck_of_askew (ho : ¬ MmaOutside pair ws as wa aa lat) (ha : MmaAskew wa aa lat) :
    s.mmaCheck c pair ws as wa aa lat = 0x03 := by
  rw [mmaCheck_eq, if_neg ho, if_pos ha]

theorem mmaCheck_of_latch_unfit (ho : ¬ MmaOutside pair ws as wa aa lat) (ha : ¬ MmaAskew wa aa lat) (hl : lat = true)
    (hf : ¬ LatchFits pair ws as (s.rod c.ph)) : s.mmaCheck c pair ws as wa aa lat = 0x04 := by
  rw [mmaCheck_eq, if_neg ho, if_neg ha, if_pos ⟨hl, hf⟩]

theorem mmaCheck_of_poisoned (ho : ¬ MmaOutside pair ws as wa aa lat) (ha : ¬ MmaAskew wa aa lat)
    (hf : lat = true → LatchFits pair ws as (s.rod c.ph)) (hp : MmaPoisoned s c pair ws as wa aa lat) :
    s.mmaCheck c pair ws as wa aa lat = 0x08 := by
  rw [mmaCheck_eq, if_neg ho, if_neg ha, if_neg fun k => k.2 (hf k.1), if_pos hp]

theorem mmaCheck_of_sound (ho : ¬ MmaOutside pair ws as wa aa lat) (ha : ¬ MmaAskew wa aa lat)
    (hf : lat = true → LatchFits pair ws as (s.rod c.ph)) (hp : ¬ MmaPoisoned s c pair ws as wa aa lat) :
    s.mmaCheck c pair ws as wa aa lat = 0 := by
  rw [mmaCheck_eq, if_neg ho, if_neg ha, if_neg fun k => k.2 (hf k.1), if_neg hp]

end

/-! ### The tile -/

/-- Element (m, n) of the output tile (R26 step 4). -/
theorem mmaTile_nth (tw ta : Elt) (W A : List Line) (old : Nat → List W32) (zero : Bool) {m n : Nat} (hm : m < 16) (hn : n < 64) :
    nth 0 (nth [] (mmaTile tw ta W A old zero) m) n =
      fadd (if zero then 0 else nth 0 (old m) n) (groupVal tw ta (nth ⟨[], []⟩ W n) (nth ⟨[], []⟩ A m)) := by
  rw [mmaTile, nth_tab [] _ 16 m hm, nth_tab 0 _ 64 n hn]

/-- The rod after an MMA on accumulator `t`: its tile, and the weights `w` latched in the ordinary form. -/
def Rod.mmaDone (r : Rod) (t : Nat) (tile : List (List W32)) (lat : Bool) (w : Latch) : Rod :=
  { r.tsetRows t 0 tile with latch := if lat then r.latch else some w }

/-- An MMA writes its accumulator and the latch, and no other field of the rod. -/
theorem Rod.mmaDone_eq (r : Rod) (t : Nat) (tile : List (List W32)) (lat : Bool) (w : Latch) :
    ∃ T, r.mmaDone t tile lat w = { r with t := T, latch := if lat then r.latch else some w } := by
  obtain ⟨T, hT⟩ := tsetRows_same t tile r 0
  exact ⟨T, by rw [Rod.mmaDone, hT]⟩

/-- The latch is no part of an accumulator. -/
theorem Rod.tat_setLatch (r : Rod) (x : Option Latch) (k m n : Nat) : ({ r with latch := x } : Rod).tat k m n = r.tat k m n := rfl

/-- The accumulators after an MMA: the tile in the one it names, the others as they were. -/
theorem Rod.mmaDone_tat (r : Rod) (t k : Nat) (tw ta : Elt) (W A : List Line) (old : Nat → List W32) (zero lat : Bool) (w : Latch)
    {m n : Nat} (hm : m < 16) (hn : n < 64) :
    (r.mmaDone t (mmaTile tw ta W A old zero) lat w).tat k m n =
      if k = t then nth 0 (nth [] (mmaTile tw ta W A old zero) m) n else r.tat k m n := by
  have hlen := mmaTile_length tw ta W A old zero
  rw [Rod.mmaDone, Rod.tat_setLatch, Rod.tat_tsetRows t k m n hm hn _ r 0 (mmaTile_row tw ta W A old zero) (by rw [hlen]), hlen]
  simp [hm]

/-! ### The instruction -/

/-- The state in which the instruction `c`, an MMA, has begun in the matrix unit. -/
def State.mmaDone (s : State) (c : Ctx) (t : Nat) (tile : List (List W32)) (lat : Bool) (w : Latch) : State :=
  ((s.advance c).onRod c.ph (fun r => r.mmaDone t tile lat w)).vdone c []

section
variable {s : State} {l : Fin 512} {c : Ctx} {t pair ws as a b : Nat} {lat zero : Bool} {cnt : Option Nat}
  (h : s.readyOp l = some c) (ho : c.op = .mma t pair ws as a b lat zero cnt)
include h ho

/-- A check that fails raises its cause. -/
theorem mma_raises {k : Nat} (hk : s.mmaCheck c pair ws as ((s.rod c.ph).sget a).toNat ((s.rod c.ph).sget b).toNat lat = k) (h0 : k ≠ 0) :
    exec (if lat then .mmaLatched l else .mma l) s = .next (s.unitRaises c k) := by
  rw [mma_exec h ho, hk, if_pos h0]

/-- Where every check holds, the weights `wb`, latched ones in the latched form, are multiplied with the activations. -/
theorem mma_multiplies (hk : s.mmaCheck c pair ws as ((s.rod c.ph).sget a).toNat ((s.rod c.ph).sget b).toNat lat = 0)
    {wb : List Byte}
    (hw : (lat = false ∧ wb = s.beadRead c.ph ((s.rod c.ph).sget a).toNat (operandBytes (pairW pair ws) (pairDepth pair) 64)) ∨
      (lat = true ∧ ∃ x, (s.rod c.ph).latch = some x ∧ wb = x.bytes)) :
    exec (if lat then .mmaLatched l else .mma l) s = .next (s.mmaDone c t
      (mmaTile (pairW pair ws) (pairA pair as) (linesOf (pairW pair ws) (pairDepth pair) 64 wb) (linesOf (pairA pair as) (pairDepth pair) 16
        (s.beadRead c.ph ((s.rod c.ph).sget b).toNat (operandBytes (pairA pair as) (pairDepth pair) 16)))
        (((s.advance c).rod c.ph).tget t) zero) lat ⟨pair, ws, as, wb⟩) := by
  rw [mma_exec h ho, hk, if_neg (by simp)]
  obtain ⟨rfl, rfl⟩ | ⟨rfl, x, hx, rfl⟩ := hw
  · rfl
  · simp only [hx]
    rfl

/-- An MMA that has begun: the elements of its accumulator, and nothing else written. -/
theorem mmaDone_accWritten (tw ta : Elt) (W A : List Line) (w : Latch) :
    AccWritten s (s.mmaDone c t (mmaTile tw ta W A (((s.advance c).rod c.ph).tget t) zero) lat w) c t
      (fun m n => fadd (if zero then 0 else (s.rod c.ph).tat t m n) (groupVal tw ta (nth ⟨[], []⟩ W n) (nth ⟨[], []⟩ A m))) := by
  have hu : c.op.unit = some (.matrix, cnt) := by rw [ho]; rfl
  obtain ⟨T, hT⟩ := Rod.mmaDone_eq ((s.advance c).rod c.ph) t (mmaTile tw ta W A (((s.advance c).rod c.ph).tget t) zero) lat w
  refine acc_written h hu (by decide) t _ _ ?_ ?_ ?_ ?_
  · intro m n hm hn
    rw [Rod.mmaDone_tat _ _ _ _ _ _ _ _ _ _ _ hm hn, if_pos rfl, mmaTile_nth _ _ _ _ _ _ hm hn, Rod.tget_nth _ _ _ _ hn, adv_tat]
  · intro k m n hm hn hk
    rw [Rod.mmaDone_tat _ _ _ _ _ _ _ _ _ _ _ hm hn, if_neg hk]
  · dsimp only
    rw [hT]
    exact ⟨rfl, rfl, rfl, rfl, rfl, rfl, rfl, rfl⟩
  · rw [hT]
    rfl

/-- An MMA that has begun: it stands at the head of the matrix queue; the other queues are as they were. -/
theorem mmaDone_latch_and_queues (tile : List (List W32)) (w : Latch) :
    let r := (s.mmaDone c t tile lat w).rod c.ph
    r.latch = (if lat then (s.rod c.ph).latch else some w) ∧ r.mq = [⟨c.op, c.ord, c.pc, c.word, cnt, false, true, [], []⟩] ∧
      r.vq = (s.rod c.ph).vq ∧ r.cq = (s.rod c.ph).cq ∧ r.rem = (s.rod c.ph).rem := by
  have hu : c.op.unit = some (.matrix, cnt) := by rw [ho]; rfl
  have hq : (s.rod c.ph).mq = [] := ready_empty h hu (by decide)
  obtain ⟨T, hT⟩ := Rod.mmaDone_eq ((s.advance c).rod c.ph) t tile lat w
  have hr : (s.mmaDone c t tile lat w).rod c.ph =
      (((s.advance c).rod c.ph).mmaDone t tile lat w).setQueue .matrix
        (⟨c.op, c.ord, c.pc, c.word, cnt, false, true, [], []⟩ :: (((s.advance c).rod c.ph).mmaDone t tile lat w).mq) := by
    simp only [State.mmaDone, State.vdone, hu, State.begun, State.onRod, State.rod_setRod, Rod.queueOf]
  rw [hr, hT, adv_rod]
  exact ⟨rfl, by rw [← hq]; rfl, rfl, rfl, rfl⟩

end

/-- Settles O15: each failing check by its cause; where all hold, the weights are those of bead memory or of the latch. -/
theorem rodMatrixMultiply : Obligations.RodMatrixMultiply := by
  intro s l c t pair ws as a b lat zero cnt h ho
  refine ⟨fun hout => mma_raises h ho (mmaCheck_of_outside hout) (by decide),
    fun hout hask => mma_raises h ho (mmaCheck_of_askew hout hask) (by decide),
    fun hout hask hlat hfit => mma_raises h ho (mmaCheck_of_latch_unfit hout hask hlat hfit) (by decide),
    fun hout hask hfit hbad => mma_raises h ho (mmaCheck_of_poisoned hout hask hfit hbad) (by decide),
    fun hout hask hfit hbad => ?_⟩
  have hk := mmaCheck_of_sound hout hask hfit hbad
  have hw : ∃ wb, (lat = false ∧ wb = s.beadRead c.ph ((s.rod c.ph).sget a).toNat (operandBytes (pairW pair ws) (pairDepth pair) 64)) ∨
      (lat = true ∧ ∃ x, (s.rod c.ph).latch = some x ∧ wb = x.bytes) := by
    cases lat
    case false => exact ⟨_, .inl ⟨rfl, rfl⟩⟩
    case true =>
      obtain ⟨x, hx, _⟩ := hfit rfl
      exact ⟨_, .inr ⟨rfl, x, hx, rfl⟩⟩
  obtain ⟨wb, hw⟩ := hw
  exact ⟨_, mma_multiplies h ho hk hw, wb, hw, mmaDone_accWritten h ho _ _ _ _ _, mmaDone_latch_and_queues h ho _ _⟩

end Sys2Proof.Machine
end

section
/-! The statements of the tile queues (03_rods.md): TILE.TAKE, TILE.PUT, and TILE.STEAL with the end of its walk. First what each does to
one rod and its queue, then the instructions. -/

namespace Sys2Proof.Machine

/-! ### One rod and its queue -/

section
variable {r : Rod} {d p : Nat}

theorem Rod.takeTile_of_empty (hq : r.queue = []) : r.takeTile d p = r.pset p false := by
  simp only [Rod.takeTile, hq]

theorem Rod.takeTile_of_cons {e : TileEntry} {q : List TileEntry} (hq : r.queue = e :: q) :
    r.takeTile d p =
      ({ r with queue := if e.count ≤ 1 then q else { e with first := e.first + 1, count := e.count - 1 } :: q } : Rod).giveTile
        d p e e.first := by
  simp only [Rod.takeTile, hq]

/-- What R57 refuses: a put with count 0, or to a full queue. -/
theorem Rod.putTile_of_refused {w0 w1 : W64} (h : bits w0 23 0 = 0 ∨ 64 ≤ r.queue.length) : r.putTile w0 w1 p = r.pset p false :=
  if_pos (by simpa using h)

theorem Rod.putTile_of_room {w0 w1 : W64} (hn : bits w0 23 0 ≠ 0) (hl : r.queue.length < 64) :
    r.putTile w0 w1 p = ({ r with queue := r.queue ++ [⟨bits w0 63 48, bits w0 47 24, bits w0 23 0, w1⟩] } : Rod).pset p true :=
  if_neg (by simpa using ⟨hn, hl⟩)

end

/-- The count field of Table 3.3. -/
theorem bits_23_0 (w : W64) : bits w 23 0 = w.toNat % 2 ^ 24 := by simp [bits]

/-- The tail entry of a queue gives its highest tile (R59). -/
@[simp] theorem stealTail_concat (q : List TileEntry) (e : TileEntry) :
    stealTail (q ++ [e]) = some (e, e.first + e.count - 1, stolen q e) := by
  simp [stealTail, stolen]

/-! ### One rod of the state -/

/-- Of the function that updates a rod only its value on that rod matters. -/
theorem State.onRod_congr {s : State} {k : Nat} {f g : Rod → Rod} (h : f (s.rod k) = g (s.rod k)) : s.onRod k f = s.onRod k g :=
  congrArg (s.setRod k) h

theorem State.rod_onRod_ne (s : State) {k j : Nat} (f : Rod → Rod) (h : j ≠ k) : (s.onRod k f).rod j = s.rod j :=
  s.rod_setRod_ne _ h

/-- Moving past an instruction leaves every tile queue as it was. -/
theorem adv_tileQueue (s : State) (c : Ctx) (k : Nat) : ((s.advance c).rod k).queue = (s.rod k).queue := by
  by_cases hk : k = c.ph
  · rw [hk, adv_rod]
  · rw [adv_rod_ne s c k hk]

/-! ### TILE.TAKE and TILE.PUT -/

section
variable {s : State} {l : Fin 512} {c : Ctx}

theorem tileTake_exec {d p : Nat} (h : s.readyOp l = some c) (ho : c.op = .take d p) :
    exec (.tileTake l) s = .next ((s.advance c).onRod c.ph (fun r => r.takeTile d p)) := by
  change execTileTake l s = _
  rw [execTileTake, State.issue_ready h (by rw [ho])]
  simp only [ho]

theorem tilePut_exec {a b p : Nat} (h : s.readyOp l = some c) (ho : c.op = .put a b p) :
    exec (.tilePut l) s =
      .next ((s.advance c).onRod c.ph (fun r => r.putTile ((s.rod c.ph).sget a) ((s.rod c.ph).sget b) p)) := by
  change execTilePut l s = _
  rw [execTilePut, State.issue_ready h (by rw [ho])]
  simp only [ho]
  exact congrArg Host.Outcome.next (State.onRod_congr (by rw [adv_sget, adv_sget]))

end

/-- Settles O9: the rod's queue is empty or has a head entry. That the index is returned modulo 2^24 is the model's choice (log entry
112). -/
theorem tileTakeFromOwnQueue : Obligations.TileTakeFromOwnQueue := by
  intro s l c d p h ho
  rw [tileTake_exec h ho]
  refine ⟨fun hq => ?_, fun e q hq => ?_⟩
  all_goals
    rw [← adv_tileQueue s c] at hq
    refine congrArg Host.Outcome.next (State.onRod_congr ?_)
  · exact Rod.takeTile_of_empty hq
  · exact Rod.takeTile_of_cons hq

/-- Settles O10: the put is refused or the queue has room for its entry; in both cases only the issuing rod is written. -/
theorem tilePutToOwnQueue : Obligations.TilePutToOwnQueue := by
  intro s l c a b p h ho w0 n
  have hn : bits w0 23 0 = n := bits_23_0 w0
  have hq := adv_tileQueue s c c.ph
  rw [tilePut_exec h ho]
  refine ⟨fun hr => ?_, fun h0 hl => ?_, fun k t hk ht => ?_⟩
  · exact congrArg Host.Outcome.next (State.onRod_congr (Rod.putTile_of_refused (by rwa [hn, hq])))
  · refine congrArg Host.Outcome.next (State.onRod_congr ?_)
    rw [Rod.putTile_of_room (by rwa [hn]) (by rwa [hq]), hn]
    rfl
  · cases ht
    rw [State.rod_onRod_ne _ _ hk, adv_tileQueue]

/-! ### TILE.STEAL and the end of its walk -/

theorem tileSteal_exec {s : State} {l : Fin 512} {c : Ctx} {d p : Nat} (h : s.readyOp l = some c) (ho : c.op = .steal d p) :
    exec (.tileSteal l) s = .next ((s.advance c).onRod c.ph (fun r => { r with
      issue := .stealing d p ((s.stealRing c.p c.l).filter (fun x => !(s.rod (s.phys x)).queue.isEmpty)) })) := by
  have hring : (s.advance c).stealRing c.p c.l = s.stealRing c.p c.l := rfl
  have hphys : ∀ x, (s.advance c).phys x = s.phys x := fun _ => rfl
  change execTileSteal l s = _
  rw [execTileSteal, State.issue_ready h (by rw [ho])]
  simp only [ho, hring, hphys, adv_tileQueue]

section
variable {s : State} {l : Fin 512} {d p : Nat} {ring : List Nat} (hi : (s.rod (s.phys l)).issue = .stealing d p ring)
include hi

/-- A walk that meets no tile (R60). -/
theorem stealWalkEnd_of_none (hr : ∀ x ∈ ring, (s.rod (s.phys x)).queue = []) :
    exec (.stealWalkEnd l) s = .next (s.onRod (s.phys l) (fun r => ({ r with issue := .run } : Rod).pset p false)) := by
  have hf : ring.find? (fun x => !(s.rod (s.phys x)).queue.isEmpty) = none :=
    List.find?_eq_none.mpr fun x hx => by simp [hr x hx]
  change execStealWalkEnd l s = _
  simp only [execStealWalkEnd, hi, hf]
  rfl

/-- A walk that stops at rod `x`, the first with a tile: its queue loses the tile, which the thief receives. -/
theorem stealWalkEnd_of_first {pre post : List Nat} {x : Nat} {q : List TileEntry} {e : TileEntry} (hs : ring = pre ++ x :: post)
    (hpre : ∀ y ∈ pre, (s.rod (s.phys y)).queue = []) (hx : (s.rod (s.phys x)).queue = q ++ [e]) :
    exec (.stealWalkEnd l) s = .next ((s.onRod (s.phys x) (fun v => { v with queue := stolen q e })).setRod (s.phys l)
      (({ s.rod (s.phys l) with issue := .run } : Rod).giveTile d p e (e.first + e.count - 1))) := by
  have hf : ring.find? (fun x => !(s.rod (s.phys x)).queue.isEmpty) = some x :=
    List.find?_eq_some_iff_append.mpr ⟨by simp [hx], pre, post, hs, fun y hy => by simp [hpre y hy]⟩
  change execStealWalkEnd l s = _
  simp only [execStealWalkEnd, hi, hf, hx, stealTail_concat]

end

/-- Settles O11: the walk meets no tile, or stops at the first rod that has one; victim and thief are two rods, so that neither write
hides the other. That the occupancy bitmap is exact is a deduced reading (log entry 24), the index
modulo 2^24 the model's choice (log entry 112). -/
theorem tileStealWalk : Obligations.TileStealWalk := by
  intro s l
  refine ⟨fun c d p h ho => tileSteal_exec h ho, fun d p ring hi => ⟨stealWalkEnd_of_none hi, ?_⟩⟩
  intro pre x post q e hs hpre hx hne
  refine ⟨_, stealWalkEnd_of_first hi hs hpre hx, ?_, State.rod_setRod _ _ _, rfl, fun k hkx hkl => ?_⟩
  · rw [State.rod_setRod_ne _ _ hne]
    exact State.rod_setRod _ _ _
  · rw [State.rod_setRod_ne _ _ hkl, State.rod_onRod_ne _ _ hkx]

end Sys2Proof.Machine
end

section
/-! The statements of the instruction encoding (04_isa_encoding.md): the system instructions, the branches, and the report of an exception.
First the special registers of Table 4.3, then each instruction, then the report by its parts: the rod's record, the log, the hold. -/

namespace Sys2Proof.Machine

/-! ### Special registers -/

/-- Moving past an instruction changes no special register: neither the program address nor the issue order is one. -/
theorem adv_sprRead (s : State) (c : Ctx) (i : Nat) : (s.advance c).sprRead c i = s.sprRead c i := by
  simp only [State.sprRead, adv_rod]
  rfl

/-- SPR_CNT0 to SPR_CNT15 begin at index 0x20. -/
theorem State.sprRead_cnt (s : State) (c : Ctx) (k : Nat) : s.sprRead c (0x20 + k) = ((s.rod c.ph).cnt k).setWidth 64 := by
  have hne : ∀ i < 0x20, 0x20 + k ≠ i := fun i hi => by omega
  simp [State.sprRead, hne, w64]

/-- Every row of Table 4.3 has the value that the model reads. -/
theorem State.sprRead_of_mem {s : State} {c : Ctx} {i : Nat} {v : W64} (h : (i, v) ∈ s.sprTable c) : s.sprRead c i = v := by
  obtain hrow | hcnt := List.mem_append.mp h
  case inl =>
    simp only [List.mem_cons, Prod.mk.injEq, List.not_mem_nil, or_false] at hrow
    obtain ⟨rfl, rfl⟩ | ⟨rfl, rfl⟩ | ⟨rfl, rfl⟩ | ⟨rfl, rfl⟩ | ⟨rfl, rfl⟩ | ⟨rfl, rfl⟩ | ⟨rfl, rfl⟩ | ⟨rfl, rfl⟩ | ⟨rfl, rfl⟩ |
      ⟨rfl, rfl⟩ | ⟨rfl, rfl⟩ | ⟨rfl, rfl⟩ := hrow
    all_goals simp [State.sprRead, State.isReckon, b2n, w64, apply_ite]
  case inr =>
    obtain ⟨k, -, hk⟩ := List.mem_map.mp hcnt
    cases hk
    exact s.sprRead_cnt c k

/-! ### The system instructions -/

section
variable {s : State} {l : Fin 512} {c : Ctx} (h : s.readyOp l = some c)
include h

theorem nop_exec (ho : c.op = .nop) : exec (.nop l) s = .next (s.advance c) := by
  change execNop l s = _
  rw [execNop, State.issue_ready h (by rw [ho]; rfl)]

theorem srRd_exec {d i : Nat} (ho : c.op = .srRd d i) :
    exec (.srRd l) s = .next ((s.advance c).onRod c.ph (fun r => r.sset d (s.sprRead c i))) := by
  change execSrRd l s = _
  rw [execSrRd, State.issue_ready h (by rw [ho])]
  simp only [ho, adv_sprRead, State.setS]

theorem srWr_exec {a i : Nat} (ho : c.op = .srWr a i) :
    exec (.srWr l) s = .next ((s.advance c).onRod c.ph (fun r => { r with astat := (r.sget a).setWidth 2 })) := by
  change execSrWr l s = _
  rw [execSrWr, State.issue_ready h (by rw [ho])]
  simp only [ho]

theorem brk_exec (ho : c.op = .brk) : exec (.brk l) s = .next (s.raises c 0x09) := by
  change execBreak l s = _
  rw [execBreak, State.issue_ready h (by rw [ho]; rfl), State.raise_advance h]

/-! ### The branches -/

/-- An instruction whose act is a jump is a taken branch (R85). -/
theorem branch_ready {sel : RodOp → Bool} {act : Ctx → State → State} {target : W64} {link : Nat} (hs : sel c.op = true)
    (ha : act c (s.advance c) = (s.advance c).jump c target link) :
    Host.Outcome.next (s.issue l sel act) = (.next (s.branchTo c target link) : Res) := by
  rw [State.issue_ready h hs, ha, jump_ready h]

theorem br_exec {off : Int} (ho : c.op = .br off) :
    exec (.br l) s = .next (s.branchTo c (c.pc + BitVec.ofInt 64 (8 * off)) 0) :=
  branch_ready h (by rw [ho]) (by simp only [ho, w64i])

theorem bl_exec {d : Nat} {off : Int} (ho : c.op = .bl d off) :
    exec (.bl l) s = .next (s.branchTo c (c.pc + BitVec.ofInt 64 (8 * off)) d) :=
  branch_ready h (by rw [ho]) (by simp only [ho, w64i])

theorem jr_exec {a : Nat} (ho : c.op = .jr a) : exec (.jr l) s = .next (s.branchTo c ((s.rod c.ph).sget a) 0) :=
  branch_ready h (by rw [ho]) (by simp only [ho, State.s_, adv_sget])

theorem jlr_exec {d a : Nat} (ho : c.op = .jlr d a) : exec (.jlr l) s = .next (s.branchTo c ((s.rod c.ph).sget a) d) :=
  branch_ready h (by rw [ho]) (by simp only [ho, State.s_, adv_sget])

end

/-- Settles O1: each instruction by its own equation, with Table 4.3 read row by row. That SPR_CYCLE counts the rod clock's cycles
in board time is a deduced reading (log entry 15). -/
theorem rodSystemInstructions : Obligations.RodSystemInstructions := by
  intro s l c h
  refine ⟨nop_exec h, fun d i v ho hv => ?_, fun a i ho => srWr_exec h ho, fun ho => ⟨brk_exec h ho, State.raises_canIssue h 0x09⟩⟩
  rw [srRd_exec h ho, State.sprRead_of_mem hv]

/-- Settles O2: the four forms differ in target and link only. -/
theorem rodBranches : Obligations.RodBranches := by
  intro s l c h
  exact ⟨fun off ho => br_exec h ho, fun d off ho => bl_exec h ho, fun a ho => jr_exec h ho, fun d a ho => jlr_exec h ho⟩

/-! ### The log of an exception -/

/-- Nothing of the rods, of the partitions or of time has changed. -/
structure RodsPartsKept (s t : State) : Prop where
  rods : t.rods = s.rods
  parts : t.parts = s.parts
  time : t.time = s.time

theorem RodsPartsKept.trans {s t u : State} (h : RodsPartsKept s t) (k : RodsPartsKept t u) : RodsPartsKept s u :=
  ⟨k.rods.trans h.rods, k.parts.trans h.parts, k.time.trans h.time⟩

/-- The pending events after one more is raised. -/
theorem State.event_pendingBit (s : State) (n k : Nat) :
    ((s.event n).rd 0x30118).getLsbD k = ((s.rd 0x30118).getLsbD k || (w64 (2 ^ n)).getLsbD k) := by
  rw [State.event, State.rd_setReg, BitVec.getLsbD_or]

@[simp] theorem State.trigger_rd (s : State) (kind : Nat) (sel : Nat → Bool) (o : Nat) : (s.trigger kind sel).rd o = s.rd o := rfl
@[simp] theorem State.hbmWrite_rd (s : State) (off : Nat) (bs : List Byte) (o : Nat) : (s.hbmWrite off bs).rd o = s.rd o := rfl

theorem State.rd_bump_ne (s : State) {o o' : Nat} (n : Nat) (h : o' ≠ o) : (s.bump o n).rd o' = s.rd o' := by
  unfold State.bump
  split
  · rfl
  · exact s.rd_setReg_ne _ h

theorem State.bump_rodsPartsKept (s : State) (o n : Nat) : RodsPartsKept s (s.bump o n) := by
  obtain ⟨regs, hb⟩ := s.bump_spec o n
  rw [hb]
  exact ⟨rfl, rfl, rfl⟩

section
variable (s : State) (cls cause resp part unit addr step : Nat)

theorem State.faultRecord_rodsPartsKept : RodsPartsKept s (s.faultRecord cls cause resp part unit addr step) := by
  unfold State.faultRecord
  dsimp only
  split
  · exact s.bump_rodsPartsKept _ _
  · exact ⟨rfl, rfl, rfl⟩

/-- With room in the fault log: its write pointer moves by one, and FAULT_RECORD is pending (R370). -/
theorem State.faultRecord_of_room (h : (s.rd 0x30010 - s.rd 0x30018).toNat ≠ 2 ^ s.rf 0x30008 4 0) :
    (s.faultRecord cls cause resp part unit addr step).rd 0x30010 = s.rd 0x30010 + 1 ∧
      ((s.faultRecord cls cause resp part unit addr step).rd 0x30118).getLsbD 14 = true := by
  rw [State.faultRecord]
  simp only [if_neg h, State.trigger_rd]
  constructor
  · rw [State.event, State.rd_setReg_ne _ _ (by decide), State.rd_setReg]
  · rw [State.event_pendingBit, show (w64 (2 ^ 14)).getLsbD 14 = true by decide, Bool.or_true]

end

/-- What a BREAK adds to its report: the event DEBUG_BREAK in DEBUG, and the triggers on it (R405, R409). -/
def State.noteBreak (s : State) (cause : Nat) : State :=
  if cause = 0x09 then (if s.sec.lifecycle = 2 then s.event 13 else s).trigger 1 (fun _ => true) else s

theorem State.noteBreak_rodsPartsKept (s : State) (cause : Nat) : RodsPartsKept s (s.noteBreak cause) := by
  unfold State.noteBreak
  split
  · split <;> exact ⟨rfl, rfl, rfl⟩
  · exact ⟨rfl, rfl, rfl⟩

/-- It raises at most an event; those pending stay so. -/
theorem State.noteBreak_regs (s : State) (cause : Nat) :
    (s.noteBreak cause).rd 0x30010 = s.rd 0x30010 ∧
      ∀ k, (s.rd 0x30118).getLsbD k = true → ((s.noteBreak cause).rd 0x30118).getLsbD k = true := by
  unfold State.noteBreak
  split
  · split
    · exact ⟨by rw [State.trigger_rd, State.event, State.rd_setReg_ne _ _ (by decide)],
        fun k hk => by rw [State.trigger_rd, State.event_pendingBit, hk, Bool.true_or]⟩
    · exact ⟨rfl, fun _ hk => hk⟩
  · exact ⟨rfl, fun _ hk => hk⟩

/-- The exception `e` of physical rod `ph` of partition `p` in the fault log and in its counter of Table 17.1. -/
def State.logRaised (s : State) (p ph : Nat) (e : Raised) : State :=
  let cls := faultClass e.cause e.resp
  ((s.faultRecord cls e.cause e.resp p ph e.addr (s.openStep p)).bump (cntBlk (faultCounter cls)) 1).noteBreak e.cause

section
variable (s : State) (p ph : Nat) (e : Raised)

theorem State.logRaised_rodsPartsKept : RodsPartsKept s (s.logRaised p ph e) :=
  (State.faultRecord_rodsPartsKept ..).trans ((State.bump_rodsPartsKept ..).trans (State.noteBreak_rodsPartsKept ..))

theorem State.logRaised_of_room (h : (s.rd 0x30010 - s.rd 0x30018).toNat ≠ 2 ^ s.rf 0x30008 4 0) :
    (s.logRaised p ph e).rd 0x30010 = s.rd 0x30010 + 1 ∧ ((s.logRaised p ph e).rd 0x30118).getLsbD 14 = true := by
  have hcnt : ∀ o < 0x48000, ∀ k, o ≠ cntBlk k := fun o ho k => by unfold cntBlk; omega
  obtain ⟨hptr, hevt⟩ := s.faultRecord_of_room (faultClass e.cause e.resp) e.cause e.resp p ph e.addr (s.openStep p) h
  obtain ⟨hptr', hevt'⟩ := ((s.faultRecord (faultClass e.cause e.resp) e.cause e.resp p ph e.addr (s.openStep p)).bump
    (cntBlk (faultCounter (faultClass e.cause e.resp))) 1).noteBreak_regs e.cause
  rw [State.rd_bump_ne _ _ (hcnt _ (by decide) _)] at hptr' hevt'
  exact ⟨hptr'.trans hptr, hevt' 14 hevt⟩

end

/-! ### The hold of the partition -/

/-- A fault's hold and the wait for an absent peer change partitions only. -/
theorem State.holdPart_frame (s : State) (p hold cause resp : Nat) : ∃ parts, s.holdPart p hold cause resp = { s with parts := parts } := by
  unfold State.holdPart
  dsimp only
  split
  · exact ⟨_, rfl⟩
  · exact ⟨s.parts, rfl⟩

theorem State.awaitPeer_frame (s : State) (p resp a : Nat) : ∃ parts, s.awaitPeer p resp a = { s with parts := parts } := by
  unfold State.awaitPeer
  split
  · exact ⟨_, rfl⟩
  · exact ⟨s.parts, rfl⟩

/-- A running partition that a fault holds (R90, R391). -/
theorem State.holdPart_of_running {s : State} {p : Nat} (hold cause resp : Nat) (h : (s.part p).st = .running) :
    (s.holdPart p hold cause resp).part p = { s.part p with
      st := .held, hold := hold, haltHeld := false, faultCause := cause, faultResp := resp, faultAt := some s.time } := by
  rw [State.holdPart, if_pos (by simp [h]), State.part_setPart]

/-- The wait for an absent peer is one field of the partition (R381). -/
theorem State.awaitPeer_part (s : State) (p resp a : Nat) :
    ∃ w, (s.awaitPeer p resp a).part p = { s.part p with peerWait := w } := by
  unfold State.awaitPeer
  split
  · exact ⟨_, State.part_setPart _ _ _⟩
  · exact ⟨(s.part p).peerWait, rfl⟩

/-! ### ROD_EXCEPTION -/

/-- The rod's record of the exception `e`, the oldest it has raised (R90, R91). -/
def Rod.recorded (r : Rod) (e : Raised) : Rod :=
  { r with reported := true, ecause := BitVec.ofNat 9 ((if 1 < r.raised.length then 256 else 0) + e.cause),
           epc := BitVec.ofNat 17 e.pc, eword := e.word }

/-- The state in which physical rod `ph` of partition `p` has reported the exception `e`. -/
def State.reportRaised (s : State) (p ph : Nat) (e : Raised) : State :=
  (((s.onRod ph (fun r => r.recorded e)).logRaised p ph e).holdPart p 1 e.cause e.resp).awaitPeer p e.resp e.addr

section
variable (s : State) (p ph : Nat) (e : Raised)

/-- After the log only partitions change. -/
theorem State.reportRaised_frame :
    ∃ parts, s.reportRaised p ph e = { (s.onRod ph (fun r => r.recorded e)).logRaised p ph e with parts := parts } := by
  obtain ⟨x, hx⟩ := ((s.onRod ph (fun r => r.recorded e)).logRaised p ph e).holdPart_frame p 1 e.cause e.resp
  obtain ⟨y, hy⟩ := (((s.onRod ph (fun r => r.recorded e)).logRaised p ph e).holdPart p 1 e.cause e.resp).awaitPeer_frame p e.resp e.addr
  exact ⟨y, by rw [State.reportRaised, hy, hx]⟩

/-- Of the rods, a report writes the record of its own only. -/
theorem State.reportRaised_rod (k : Nat) : (s.reportRaised p ph e).rod k = (s.onRod ph (fun r => r.recorded e)).rod k := by
  obtain ⟨parts, ht⟩ := s.reportRaised_frame p ph e
  rw [ht]
  exact congrArg (Sparse.get Rod.init · k) ((s.onRod ph _).logRaised_rodsPartsKept p ph e).rods

theorem State.reportRaised_of_room (h : (s.rd 0x30010 - s.rd 0x30018).toNat ≠ 2 ^ s.rf 0x30008 4 0) :
    (s.reportRaised p ph e).rd 0x30010 = s.rd 0x30010 + 1 ∧ ((s.reportRaised p ph e).rd 0x30118).getLsbD 14 = true := by
  obtain ⟨parts, ht⟩ := s.reportRaised_frame p ph e
  rw [ht]
  exact (s.onRod ph (fun r => r.recorded e)).logRaised_of_room p ph e h

theorem State.reportRaised_of_running (h : (s.part p).st = .running) : ∃ w, (s.reportRaised p ph e).part p = { s.part p with
    st := .held, hold := 1, haltHeld := false, faultCause := e.cause, faultResp := e.resp, faultAt := some s.time, peerWait := w } := by
  have hk := (s.onRod ph (fun r => r.recorded e)).logRaised_rodsPartsKept p ph e
  have hpart : ((s.onRod ph (fun r => r.recorded e)).logRaised p ph e).part p = s.part p := congrArg (Sparse.get Part.init · p) hk.parts
  have htime : ((s.onRod ph (fun r => r.recorded e)).logRaised p ph e).time = s.time := hk.time
  obtain ⟨w, hw⟩ := (((s.onRod ph (fun r => r.recorded e)).logRaised p ph e).holdPart p 1 e.cause e.resp).awaitPeer_part p e.resp e.addr
  exact ⟨w, by rw [State.reportRaised, hw, State.holdPart_of_running _ _ _ (by rw [hpart, h]), hpart, htime]⟩

end

section
variable {s : State} {l : Fin 512}

/-- A rod that may not issue raises nothing more. -/
theorem State.tryIssue_of_blocked (h : s.canIssue l = none) : s.tryIssue l = s := State.issue_none h

/-- What a rod has raised keeps it from issuing (R90). -/
theorem State.canIssue_of_raised (h : (s.rod (s.phys l)).raised ≠ []) : s.canIssue l = none := by
  unfold State.canIssue
  split
  · rfl
  · simp [h]

/-- The cause with bit 8, MULTIPLE, above it. -/
theorem b2n_mul_256 (q : Prop) [Decidable q] : b2n (decide q) * 256 = if q then 256 else 0 := by
  by_cases h : q <;> simp [h, b2n]

/-- A rod that has raised `e`, its oldest, and has not reported reports it. -/
theorem rodException_reports {p : Nat} {e : Raised} (hp : s.partOf l = some p) (hr : (s.rod (s.phys l)).reported = false)
    (he : oldestRaised (s.rod (s.phys l)).raised = some e) : exec (.rodException l) s = .next (s.reportRaised p (s.phys l) e) := by
  have hraised : (s.rod (s.phys l)).raised ≠ [] := fun h0 => by simp [h0, oldestRaised] at he
  change execRodException l s = _
  simp only [execRodException, State.tryIssue_of_blocked (State.canIssue_of_raised hraised), he, hr, hp, Option.getD_some,
    b2n_mul_256]
  rfl

/-- A rod that may not issue and has nothing to report, or has reported, changes nothing. -/
theorem rodException_of_silent (h : s.canIssue l = none)
    (hr : (s.rod (s.phys l)).raised = [] ∨ (s.rod (s.phys l)).reported = true) : exec (.rodException l) s = .next s := by
  change execRodException l s = _
  simp only [execRodException, State.tryIssue_of_blocked h]
  obtain h0 | h1 := hr
  · simp only [h0, oldestRaised]
  · rw [h1]
    cases oldestRaised (s.rod (s.phys l)).raised <;> rfl

/-- The exception of an instruction that cannot issue stops its rod, which then reports it. -/
theorem rodException_raise {c : Ctx} {k : Nat} (h : (s.rod (s.phys l)).reported = false) (hph : c.ph = s.phys l)
    (ht : s.tryIssue l = s.raise c k) : exec (.rodException l) s = exec (.rodException l) (s.raise c k) := by
  have hraised : ((s.raise c k).rod ((s.raise c k).phys l)).raised ≠ [] := by
    change ((s.raise c k).rod (s.phys l)).raised ≠ []
    rw [← hph] at h ⊢
    simp [State.raise, State.onRod, Rod.raise, h]
  change execRodException l s = execRodException l (s.raise c k)
  simp only [execRodException, State.tryIssue_of_blocked (State.canIssue_of_raised hraised), ht]

/-- FETCH, of a program address outside the image (R54). -/
theorem State.tryIssue_of_no_word {c : Ctx} (hc : s.canIssue l = some c) (hw : s.fetch c = none) : s.tryIssue l = s.raise c 0x02 := by
  simp only [State.tryIssue, State.issue, hc, hw]

/-- ILLEGAL, of a word that is no instruction (R88). -/
theorem State.tryIssue_of_illegal {c : Ctx} {w : W64} (hc : s.canIssue l = some c) (hw : s.fetch c = some w)
    (hd : RodInstr.decode w = none) : s.tryIssue l = s.raise { c with word := w } 0x01 := by
  simp only [State.tryIssue, State.issue, hc, hw, hd]

end

/-- Settles O22: a rod with an exception raised may not issue, so that its report is of what it has raised already; one that may issue
first raises what its next word draws, and is then such a rod. -/
theorem rodExceptionReport : Obligations.RodExceptionReport := by
  intro s l ph r
  refine ⟨fun p e hp hr he => ⟨_, rodException_reports hp hr he, ?_, fun k hk => ?_, fun hst => ?_, s.reportRaised_of_room p ph e⟩,
    fun c hc _ hw => ?_, fun c w hc _ hw hd => ?_, rodException_of_silent⟩
  · rw [State.reportRaised_rod]
    exact State.rod_setRod _ _ _
  · rw [State.reportRaised_rod, State.rod_onRod_ne _ _ hk]
  · obtain ⟨w, hw⟩ := s.reportRaised_of_running p ph e hst
    rw [hw]
    exact ⟨rfl, rfl, rfl, rfl, rfl⟩
  all_goals obtain ⟨_, hph, _, _, _, _, _, _, hrep, _⟩ := State.canIssue_some hc
  · exact rodException_raise (hph ▸ hrep) hph (State.tryIssue_of_no_word hc hw)
  · exact rodException_raise (hph ▸ hrep) hph (State.tryIssue_of_illegal hc hw hd)

end Sys2Proof.Machine
end

section
/-! The scalar instructions of the instruction reference (05_isa_reference.md): integer operations, compares and predicates, FP32, loads,
waits. First how an instruction that is ready runs its act; then one equation for each instruction. -/

namespace Sys2Proof.Machine

/-! ### An instruction that is ready -/

section
variable {s : State} {l : Fin 512} {c : Ctx} {sel : RodOp → Bool} {act : Ctx → State → State} {t : State} (h : s.readyOp l = some c)
include h

/-- What a ready instruction leaves is what its act makes of the state past it. -/
theorem next_of_ready (hs : sel c.op = true) (ha : act c (s.advance c) = t) :
    Host.Outcome.next (s.issue l sel act) = (.next t : Res) := by
  rw [State.issue_ready h hs, ha]

/-- The same of an instruction of a local unit. -/
theorem next_of_unit_ready {u : AUnit} {cnt : Option Nat} (hs : sel c.op = true) (hu : c.op.unit = some (u, cnt)) (hr : u ≠ .remote)
    (ha : act c (s.advance c) = t) : Host.Outcome.next (s.issueUnit l sel act) = (.next t : Res) := by
  rw [State.issueUnit_ready h hs hu hr, ha]

end

/-- Moving past an instruction changes no scalar register as its operands read them. -/
@[simp] theorem adv_s_ (s : State) (c : Ctx) (n : Nat) : (s.advance c).s_ c n = (s.rod c.ph).sget n := adv_sget s c n

@[simp] theorem adv_pget (s : State) (c : Ctx) (n : Nat) : ((s.advance c).rod c.ph).pget n = (s.rod c.ph).pget n := by rw [adv_rod]; rfl

@[simp] theorem adv_cnt (s : State) (c : Ctx) (n : Nat) : ((s.advance c).rod c.ph).cnt n = (s.rod c.ph).cnt n := by rw [adv_rod]; rfl

/-! ### Integer operations -/

section
variable {s : State} {l : Fin 512} {c : Ctx} (h : s.readyOp l = some c)
include h

theorem int_exec {f d a b x sh : Nat} (ho : c.op = .int f d a b x sh) :
    exec (.integerOp l) s = .next ((s.advance c).onRod c.ph (fun r => r.sset d
      (intOp f ((s.rod c.ph).sget a) ((s.rod c.ph).sget b) ((s.rod c.ph).sget x) sh))) :=
  next_of_ready h (by rw [ho]) (by simp only [ho, adv_s_, State.setS])

theorem intImm_exec {m d a imm : Nat} (ho : c.op = .intImm m d a imm) :
    exec (.integerImmediateOp l) s = .next ((s.advance c).onRod c.ph (fun r => r.sset d (immOp m ((s.rod c.ph).sget a) imm))) :=
  next_of_ready h (by rw [ho]) (by simp only [ho, adv_s_, State.setS])

/-! ### Compares and predicates -/

theorem cmp_exec {f d a b : Nat} (ho : c.op = .cmp f d a b) :
    exec (.cmp l) s = .next ((s.advance c).onRod c.ph (fun r => r.pset d
      (cmpHolds f ((s.rod c.ph).sget a) ((s.rod c.ph).sget b)))) :=
  next_of_ready h (by rw [ho]) (by
    simp only [ho]
    exact State.onRod_congr (by rw [adv_sget, adv_sget]))

theorem cmpi_exec {f d a : Nat} {imm : Int} (ho : c.op = .cmpi f d a imm) :
    exec (.cmpi l) s = .next ((s.advance c).onRod c.ph (fun r => r.pset d
      (cmpHolds f ((s.rod c.ph).sget a) (BitVec.ofInt 64 imm)))) :=
  next_of_ready h (by rw [ho]) (by
    simp only [ho]
    exact State.onRod_congr (by rw [adv_sget, w64i]))

theorem pred_exec {f d a b : Nat} (ho : c.op = .pred f d a b) :
    exec (.pred l) s = .next ((s.advance c).onRod c.ph (fun r => r.pset d
      (predOp f ((s.rod c.ph).pget a) ((s.rod c.ph).pget b)))) :=
  next_of_ready h (by rw [ho]) (by
    simp only [ho]
    exact State.onRod_congr (by rw [adv_pget, adv_pget]))

/-! ### FP32 -/

theorem fp_exec {f d a b x : Nat} (ho : c.op = .fp f d a b x) :
    exec (.fp32ScalarOp l) s = .next ((s.advance c).onRod c.ph (fun r =>
      (r.sset d (fpOp f ((s.rod c.ph).sget a) ((s.rod c.ph).sget b) ((s.rod c.ph).sget x)).1).addFlags
        (fpOp f ((s.rod c.ph).sget a) ((s.rod c.ph).sget b) ((s.rod c.ph).sget x)).2)) :=
  next_of_ready h (by rw [ho]) (by simp only [ho, adv_s_])

end

/-- Every immediate form has the value that the model computes; its 40-bit field is extended as a bit vector. -/
theorem immOp_of_mem {m imm : Nat} {A v : W64}
    (hv : (m, v) ∈ [(0x09, A + (BitVec.ofNat 40 imm).signExtend 64), (0x0A, A &&& BitVec.ofNat 64 imm), (0x0B, A ||| BitVec.ofNat 64 imm),
      (0x0C, A ^^^ BitVec.ofNat 64 imm), (0x0D, (BitVec.ofNat 40 imm).signExtend 64),
      (0x0E, (A &&& 0xFFFFFFFFFF#64) ||| BitVec.ofNat 64 (imm % 2 ^ 24 * 2 ^ 40))]) : immOp m A imm = v := by
  simp only [List.mem_cons, Prod.mk.injEq, List.not_mem_nil, or_false] at hv
  obtain ⟨rfl, rfl⟩ | ⟨rfl, rfl⟩ | ⟨rfl, rfl⟩ | ⟨rfl, rfl⟩ | ⟨rfl, rfl⟩ | ⟨rfl, rfl⟩ := hv
  all_goals simp only [immOp, signExt 40 imm (by decide), w64]

/-- Settles O3: Table 5.1 and the immediate forms, function by function. -/
theorem rodIntegerOperations : Obligations.RodIntegerOperations := by
  intro s l c h
  refine ⟨fun f d a b x sh ho => ⟨_, int_exec h ho, intOp_result f _ _ _ sh⟩, fun m d a imm ho _ v hv => ?_⟩
  rw [intImm_exec h ho, immOp_of_mem hv]

theorem predOp_of_mem {f : Nat} {p q v : Bool} (hv : (f, v) ∈ [(0, p && q), (1, p || q), (2, xor p q), (3, p && !q)]) :
    predOp f p q = v := by
  simp only [List.mem_cons, Prod.mk.injEq, List.not_mem_nil, or_false] at hv
  obtain ⟨rfl, rfl⟩ | ⟨rfl, rfl⟩ | ⟨rfl, rfl⟩ | ⟨rfl, rfl⟩ := hv
  all_goals rfl

/-- Settles O4: CMPI is CMP with the immediate as its second operand; PRED has its four operations. -/
theorem rodComparesAndPredicates : Obligations.RodComparesAndPredicates := by
  intro s l c h
  refine ⟨fun f d a b ho => ⟨_, cmp_exec h ho, cmp_result f _ _⟩, fun f d a imm ho => ⟨_, cmpi_exec h ho, cmp_result f _ _⟩,
    fun f d a b ho v hv => ?_⟩
  rw [pred_exec h ho, predOp_of_mem hv]

/-! ### FP32 results and flags -/

/-- A write of a scalar register leaves the flags. -/
@[simp] theorem Rod.sset_astat (r : Rod) (d : Nat) (v : W64) : (r.sset d v).astat = r.astat := by
  unfold Rod.sset
  split <;> rfl

@[simp] theorem Rod.addFlags_none (r : Rod) : r.addFlags AFlags.none = r := by
  simp [Rod.addFlags, AFlags.none, b2n]

theorem Rod.addFlags_invalid (r : Rod) : r.addFlags ⟨false, true⟩ = { r with astat := r.astat ||| 2 } := rfl

theorem Rod.addFlags_saturated (r : Rod) : r.addFlags ⟨true, false⟩ = { r with astat := r.astat ||| 1 } := rfl

/-- Table 5.2 but for the conversions to integers: a result, and no flag. -/
theorem fpOp_of_mem {f : Nat} {a b x : W64} {v : W32}
    (hv : (f, v) ∈ [(0x00, fadd (a.setWidth 32) (b.setWidth 32)), (0x01, fsub (a.setWidth 32) (b.setWidth 32)),
      (0x02, fmul (a.setWidth 32) (b.setWidth 32)), (0x03, ffma (a.setWidth 32) (b.setWidth 32) (x.setWidth 32)),
      (0x04, fmin (a.setWidth 32) (b.setWidth 32)), (0x05, fmax (a.setWidth 32) (b.setWidth 32)), (0x06, fneg (a.setWidth 32)),
      (0x07, fabs (a.setWidth 32)), (0x10, f32OfInt a.toInt), (0x11, f32OfInt a.toNat)]) :
    fpOp f a b x = (v.setWidth 64, AFlags.none) := by
  simp only [List.mem_cons, Prod.mk.injEq, List.not_mem_nil, or_false] at hv
  obtain ⟨rfl, rfl⟩ | ⟨rfl, rfl⟩ | ⟨rfl, rfl⟩ | ⟨rfl, rfl⟩ | ⟨rfl, rfl⟩ | ⟨rfl, rfl⟩ | ⟨rfl, rfl⟩ | ⟨rfl, rfl⟩ | ⟨rfl, rfl⟩ |
    ⟨rfl, rfl⟩ := hv
  all_goals rfl

/-- CVT.S64.F32 and CVT.U64.F32: the conversion to the integers of their range. -/
theorem fpOp_toInt {f : Nat} {lo hi : Int} (a b x : W64)
    (hf : (f, lo, hi) ∈ [(0x12, (-(2 ^ 63) : Int), (2 ^ 63 - 1 : Int)), (0x13, 0, 2 ^ 64 - 1)]) :
    fpOp f a b x = (BitVec.ofInt 64 (f32ToInt lo hi (a.setWidth 32)).1, (f32ToInt lo hi (a.setWidth 32)).2) := by
  simp only [List.mem_cons, Prod.mk.injEq, List.not_mem_nil, or_false] at hf
  obtain ⟨rfl, rfl, rfl⟩ | ⟨rfl, rfl, rfl⟩ := hf
  all_goals rfl

theorem cvtToInt_exec {s : State} {l : Fin 512} {c : Ctx} {f d a b x : Nat} {lo hi i : Int} {fl : AFlags}
    (h : s.readyOp l = some c) (ho : c.op = .fp f d a b x) (hf : (f, lo, hi) ∈ [(0x12, (-(2 ^ 63) : Int), (2 ^ 63 - 1 : Int)), (0x13, 0, 2 ^ 64 - 1)])
    (hk : f32ToInt lo hi (((s.rod c.ph).sget a).setWidth 32) = (i, fl)) :
    exec (.fp32ScalarOp l) s = .next ((s.advance c).onRod c.ph (fun r => (r.sset d (BitVec.ofInt 64 i)).addFlags fl)) := by
  rw [fp_exec h ho, fpOp_toInt _ _ _ hf, hk]

section
variable {lo hi : Int} {x : W32}

theorem f32ToInt_nan (h : f32Val x = .nan) : f32ToInt lo hi x = (0, ⟨false, true⟩) := by
  simp only [f32ToInt, h]

theorem f32ToInt_inf {neg : Bool} (h : f32Val x = .inf neg) : f32ToInt lo hi x = (if neg then lo else hi, ⟨false, true⟩) := by
  simp only [f32ToInt, h]

variable {neg : Bool} {m : Nat} {e : Int} (h : f32Val x = .fin neg m e)
include h

theorem f32ToInt_outside (ho : rneInt neg m e < lo ∨ hi < rneInt neg m e) :
    f32ToInt lo hi x = (if rneInt neg m e < lo then lo else hi, ⟨true, false⟩) := by
  simp only [f32ToInt, h]
  by_cases hlo : rneInt neg m e < lo
  · rw [if_pos hlo, if_pos hlo]
  · rw [if_neg hlo, if_neg hlo, if_pos (ho.resolve_left hlo)]

theorem f32ToInt_inside (hlo : lo ≤ rneInt neg m e) (hhi : rneInt neg m e ≤ hi) : f32ToInt lo hi x = (rneInt neg m e, AFlags.none) := by
  simp only [f32ToInt, h]
  rw [if_neg (by omega), if_neg (by omega)]

end

/-- Settles O7: a conversion to an integer meets a NaN, an infinity, or a finite value outside or inside its range; nothing else of Table
5.2 raises a flag. -/
theorem rodScalarFloatingPoint : Obligations.RodScalarFloatingPoint := by
  intro s l c f d a b x h ho A A32 B32 C32
  refine ⟨fun v hv => ?_, fun lo hi hf => ?_⟩
  · rw [fp_exec h ho, fpOp_of_mem hv]
    simp only [Rod.addFlags_none]
  · refine ⟨fun hx => ?_, fun neg hx => ?_, fun neg m e hx hout => ?_, fun neg m e hx hlo hhi => ?_⟩
    · simp only [cvtToInt_exec h ho hf (f32ToInt_nan hx), Rod.addFlags_invalid, Rod.sset_astat]
      rfl
    · simp only [cvtToInt_exec h ho hf (f32ToInt_inf hx), Rod.addFlags_invalid, Rod.sset_astat]
    · simp only [cvtToInt_exec h ho hf (f32ToInt_outside hx hout), Rod.addFlags_saturated, Rod.sset_astat]
    · simp only [cvtToInt_exec h ho hf (f32ToInt_inside hx hlo hhi), Rod.addFlags_none]

/-! ### Waits and TADD -/

section
variable {s : State} {l : Fin 512} {c : Ctx} {n : Nat} {imm : Int}

/-- The state in which the rod has moved past a WAIT that holds its issue. -/
def State.waits (s : State) (c : Ctx) (cond n : Nat) (imm : Int) : State :=
  (s.advance c).onRod c.ph (fun r => { r with issue := .waiting cond n imm, stalled := s.streamNames c.p c.l n })

/-- WAIT, by its condition (R119). -/
theorem wait_exec {cond : Nat} (h : s.readyOp l = some c) (ho : c.op = .wait cond n imm) :
    exec (.wait l) s = .next (if waitHolds cond ((s.rod c.ph).cnt n) imm then s.advance c
      else if s.streamNames c.p c.l n then (s.waits c cond n imm).bump (cntPart c.p 49) 1 else s.waits c cond n imm) :=
  next_of_ready h (by rw [ho]) (by
    simp only [ho, adv_cnt]
    rfl)

/-- A rod that waits issues nothing. -/
theorem State.waits_canIssue {cond : Nat} (h : s.readyOp l = some c) : (s.waits c cond n imm).canIssue l = none := by
  obtain ⟨_, hph, hp, _⟩ := State.readyOp_some h
  have hp' : (s.waits c cond n imm).partOf l = some c.p := hp
  have hph' : (s.waits c cond n imm).phys l = c.ph := hph.symm
  have hi : ((s.waits c cond n imm).rod c.ph).issue = .waiting cond n imm := by simp [State.waits, State.onRod]
  simp [State.canIssue, hp', hph', hi]

theorem waitRelease_exec {cond : Nat} (hi : (s.rod (s.phys l)).issue = .waiting cond n imm) :
    exec (.waitRelease l) s = .next (if waitHolds cond ((s.rod (s.phys l)).cnt n) imm && s.live then
      s.setRod (s.phys l) { s.rod (s.phys l) with issue := .run } else s) := by
  change execWaitRelease l s = _
  simp only [execWaitRelease, hi]

theorem tadd_exec (h : s.readyOp l = some c) (ho : c.op = .tadd n imm) :
    exec (.tadd l) s = .next ((s.advance c).onRod c.ph (fun r => r.addCnt n (BitVec.ofInt 32 imm))) :=
  next_of_ready h (by rw [ho]) (by simp only [ho, State.addCnt])

end

theorem Rod.cnt_addCnt (r : Rod) (n k : Nat) (v : W32) : (r.addCnt n v).cnt k = if k = n then r.cnt n + v else r.cnt k :=
  Sparse.get_put 0 r.c n k _

/-- An addition modulo 2^32 of a signed number. -/
theorem toNat_add_ofInt (v : W32) (i : Int) : ((v + BitVec.ofInt 32 i).toNat : Int) = ((v.toNat : Int) + i) % 2 ^ 32 := by
  rw [BitVec.toNat_add, BitVec.toNat_ofInt]
  push_cast
  omega

/-- Settles O8: the condition of the WAIT holds or the rod waits for it; TADD writes one counter. -/
theorem rodWaitsAndTallyAdd : Obligations.RodWaitsAndTallyAdd := by
  intro s l c
  refine ⟨fun h => ⟨fun cond n imm ho => ?_, fun n imm ho => ?_⟩, fun cond n imm hi => waitRelease_exec hi,
    fun v imm => ⟨by simp [waitHolds], by simp [waitHolds]⟩⟩
  · rw [wait_exec h ho]
    refine ⟨fun hw => ?_, fun hw => ?_⟩
    · rw [hw, if_pos rfl]
    · rw [hw, if_neg (by decide)]
      exact ⟨rfl, State.waits_canIssue h⟩
  · have hr := State.rod_setRod (s.advance c) c.ph (((s.advance c).rod c.ph).addCnt n (BitVec.ofInt 32 imm))
    refine ⟨_, tadd_exec h ho, ?_, ?_, fun k hk => ?_⟩
    all_goals rw [State.onRod, hr]
    · rfl
    · rw [Rod.cnt_addCnt, if_pos rfl, adv_cnt, toNat_add_ofInt]
    · rw [Rod.cnt_addCnt, if_neg hk, adv_cnt]

end Sys2Proof.Machine
end

section
/-! The accesses to bead memory of the instruction reference (05_isa_reference.md): LD and ST, VLD and VST, and the accumulator moves.
First the checks of R78, then what a unit's write leaves, then the instructions. -/

namespace Sys2Proof.Machine

/-! ### The checks of R78 -/

section
variable {addr size align : Nat} {store : Bool}

theorem beadCheck_of_outside (h : addr + size > 2 ^ 22) : beadCheck addr size align store = 0x06 := if_pos h

theorem beadCheck_of_askew (h : addr + size ≤ 2 ^ 22) (ha : addr % align ≠ 0) : beadCheck addr size align store = 0x03 := by
  rw [beadCheck, if_neg (by omega), if_pos ha]

theorem beadCheck_of_protected (h : addr + size ≤ 2 ^ 22) (ha : addr % align = 0) (hp : addr + size > 0x3F0000) :
    beadCheck addr size align true = 0x05 := by
  rw [beadCheck, if_neg (by omega), if_neg (by omega), if_pos (by simpa using hp)]

theorem beadCheck_load (h : addr + size ≤ 2 ^ 22) (ha : addr % align = 0) : beadCheck addr size align false = 0 := by
  rw [beadCheck, if_neg (by omega), if_neg (by omega), if_neg (by simp)]

theorem beadCheck_store (h : addr + size ≤ 0x3F0000) (ha : addr % align = 0) : beadCheck addr size align true = 0 := by
  rw [beadCheck, if_neg (by omega), if_neg (by omega), if_neg (by simpa using h)]

end

/-! ### Reading what was written -/

theorem nth_eq_getD {α : Type} (d : α) : ∀ (l : List α) (i : Nat), nth d l i = l[i]?.getD d
  | [], _ => nth_nil d _
  | _ :: _, 0 => rfl
  | _ :: l, i + 1 => by rw [nth, nth_eq_getD d l i, List.getElem?_cons_succ]

theorem Memory.readN_nth (m : Memory) : ∀ (n a i : Nat), i < n → nth 0 (m.readN a n) i = m.read1 (a + i)
  | 0, _, _, h => absurd h (Nat.not_lt_zero _)
  | _ + 1, _, 0, _ => rfl
  | n + 1, a, i + 1, h => by
    rw [Memory.readN, nth, Memory.readN_nth m n (a + 1) i (Nat.lt_of_succ_lt_succ h), Nat.add_right_comm, Nat.add_assoc]

/-- A write of a run of bytes: each byte is there. -/
theorem Memory.read1_writeN_in (m : Memory) (a : Nat) (bs : List Byte) {i : Nat} (h : i < bs.length) :
    (m.writeN a bs).read1 (a + i) = nth 0 bs i := by
  rw [← Memory.readN_nth _ _ _ _ h, Memory.readN_writeN]

/-! ### What a unit's write leaves -/

/-- The unit `u` of the rod (none: its scalar pipeline) has moved past the instruction `c` and written the bytes `bs` at `off`: they stand
there where no other unit has an open write that overlaps them, and otherwise each is the byte written or the one that stood there (R123);
every other byte and the other memories are as they were, and of the rods only this one's notes of the write have changed. -/
structure UnitWrote (s t : State) (c : Ctx) (off : Nat) (bs : List Byte) (u : Option AUnit) : Prop where
  stands : (∀ x ∈ (s.rod c.ph).openWrites u, overlap x.1 x.2 off bs.length = false) → t.bead.readN (2 ^ 22 * c.ph + off) bs.length = bs
  either : ∀ i, i < bs.length → t.bead.read1 (2 ^ 22 * c.ph + off + i) = nth 0 bs i ∨
    t.bead.read1 (2 ^ 22 * c.ph + off + i) = s.bead.read1 (2 ^ 22 * c.ph + off + i)
  outside : ∀ x, (x < 2 ^ 22 * c.ph + off ∨ 2 ^ 22 * c.ph + off + bs.length ≤ x) → t.bead.read1 x = s.bead.read1 x
  memories : t.hbm = s.hbm ∧ t.imem = s.imem ∧ t.ext = s.ext
  rod : t.rod c.ph = ((s.advance c).rod c.ph).noteWrite u (off, bs.length)
  others : ∀ k, k ≠ c.ph → t.rod k = s.rod k

@[simp] theorem adv_openWrites (s : State) (c : Ctx) (u : Option AUnit) :
    ((s.advance c).rod c.ph).openWrites u = (s.rod c.ph).openWrites u := by
  rw [adv_rod]
  rfl

/-- A ready instruction has met no write in a queue, so that only the open writes of the other units can clash with its own. -/
theorem unitWrite_advance {s : State} {l : Nat} {c : Ctx} (h : s.readyOp l = some c) (off : Nat) (bs : List Byte) (u : Option AUnit) :
    UnitWrote s ((s.advance c).unitWrite c off bs u) c off bs u := by
  obtain ⟨regs, flt, free, bs', ht, hlen, hsame, hbyte⟩ := State.unitWrite_spec (s.advance c) c off bs u
  rw [State.readyOp_clash h, List.nil_append, adv_openWrites] at hsame
  have hb : ((s.advance c).unitWrite c off bs u).bead = s.bead.writeN (2 ^ 22 * c.ph + off) bs' := by rw [ht]; rfl
  refine ⟨fun hno => ?_, fun i hi => ?_, fun x hx => ?_, by rw [ht]; exact ⟨rfl, rfl, rfl⟩, by rw [ht]; exact State.rod_setRod _ _ _,
    fun k hk => ?_⟩
  · obtain ⟨rfl, -⟩ := hsame (List.any_eq_false.mpr fun x hx => by simp [hno x hx])
    rw [hb, Memory.readN_writeN]
  · rw [hb, Memory.read1_writeN_in _ _ _ (hlen ▸ hi), nth_eq_getD, nth_eq_getD]
    obtain hi | hi := hbyte i hi
    · exact .inl (by rw [hi])
    · exact .inr (by rw [hi]; rfl)
  · rw [hb, Memory.read1_writeN_out _ _ _ _ (hlen ▸ hx)]
  · rw [ht, State.rod_onRod_ne _ _ hk]
    exact adv_rod_ne s c k hk

/-- The register files, counters and flags of a rod are as they were. -/
abbrev Rod.RegsKept (r q : Rod) : Prop := q.s = r.s ∧ q.v = r.v ∧ q.t = r.t ∧ q.p = r.p ∧ q.c = r.c ∧ q.astat = r.astat

theorem UnitWrote.regs {s t : State} {c : Ctx} {off : Nat} {bs : List Byte} {u : Option AUnit} (hw : UnitWrote s t c off bs u) (k : Nat) :
    (s.rod k).RegsKept (t.rod k) := by
  by_cases hk : k = c.ph
  · rw [hk, hw.rod, adv_rod]
    exact ⟨rfl, rfl, rfl, rfl, rfl, rfl⟩
  · rw [hw.others k hk]
    exact ⟨rfl, rfl, rfl, rfl, rfl, rfl⟩

/-! ### LD and ST -/

section
variable {s : State} {l : Fin 512} {c : Ctx} {w d a b at_ : Nat} {off : Int} (h : s.readyOp l = some c)
  (ha : ((s.rod c.ph).sget a + BitVec.ofInt 64 off).toNat = at_)
include h ha

/-- LD: the checks of R78, then poison, then the load (R97). -/
theorem ld_exec (ho : c.op = .ld w d a off) :
    exec (.ld l) s = .next (if beadCheck at_ (widthBytes w) (widthBytes w) false ≠ 0 then
        s.raises c (beadCheck at_ (widthBytes w) (widthBytes w) false)
      else if s.beadRangeBad c.ph at_ (widthBytes w) then s.raises c 0x08
      else (s.advance c).onRod c.ph (fun r => r.sset d (ldExtend w (s.bead.readN (2 ^ 22 * c.ph + at_) (widthBytes w))))) :=
  next_of_ready h (by rw [ho]) (by
    subst ha
    simp only [ho, adv_s_, acc_size, State.raise_advance h]
    rfl)

/-- ST: the checks of R78, then the write of the scalar pipeline (R97). -/
theorem st_exec (ho : c.op = .st w a b off) :
    exec (.st l) s = .next (if beadCheck at_ (widthBytes w) (widthBytes w) true ≠ 0 then
        s.raises c (beadCheck at_ (widthBytes w) (widthBytes w) true)
      else (s.advance c).unitWrite c at_ (leBytes (widthBytes w) ((s.rod c.ph).sget b).toNat) none) :=
  next_of_ready h (by rw [ho]) (by
    subst ha
    simp only [ho, adv_s_, acc_size, State.raise_advance h]
    rfl)

end

/-- Settles O5: each failing check by its cause; where all hold, the bytes are extended by their width code. -/
theorem rodLoads : Obligations.RodLoads := by
  intro s l c w d a off h ho at_ n
  rw [ld_exec h rfl ho]
  refine ⟨fun hout => ?_, fun hin hask => ?_, fun hin hal hbad => ?_, fun hin hal hok => ⟨_, ?_, load_result w _ ?_⟩⟩
  · rw [beadCheck_of_outside hout, if_pos (by decide)]
  · rw [beadCheck_of_askew hin hask, if_pos (by decide)]
  · rw [beadCheck_load hin hal, if_neg (by decide), if_pos hbad]
  · rw [beadCheck_load hin hal, if_neg (by decide), hok, if_neg (by decide)]
  · rw [readN_length]
    exact (width_le w).2

/-- Settles O6: each failing check by its cause; where all hold, the scalar pipeline writes the low bytes of s[b], and `UnitWrote` says what
that leaves. -/
theorem rodStores : Obligations.RodStores := by
  intro s l c w a b off h ho at_ n
  rw [st_exec h rfl ho]
  refine ⟨fun hout => ?_, fun hin hask => ?_, fun hin hal hp => ?_, fun hin hal => ?_⟩
  · rw [beadCheck_of_outside hout, if_pos (by decide)]
  · rw [beadCheck_of_askew hin hask, if_pos (by decide)]
  · rw [beadCheck_of_protected hin hal hp, if_pos (by decide)]
  · rw [beadCheck_store hin hal, if_neg (by decide)]
    have hw := unitWrite_advance h at_ (leBytes n ((s.rod c.ph).sget b).toNat) none
    have hregs := hw.regs
    obtain ⟨hstands, heither, hout, ⟨hhbm, himem, hext⟩, -, hothers⟩ := hw
    rw [leBytes_length] at hstands heither hout
    refine ⟨_, rfl, hstands, heither, hout, hhbm, himem, hext, fun k => ?_⟩
    obtain ⟨hs, hv, ht, hp, hc, hf⟩ := hregs k
    exact ⟨hs, hv, ht, hp, hc, hf, hothers k⟩

/-! ### What stays in the vector unit's queue -/

/-- The entry of a started instruction in its unit's queue, with the ranges it wrote. -/
def Ctx.entry (c : Ctx) (cnt : Option Nat) (w : List (Nat × Nat)) : AEntry := ⟨c.op, c.ord, c.pc, c.word, cnt, false, true, w, []⟩

/-- An instruction of the vector unit that has been performed is alone in the unit's queue, where it was empty. -/
theorem State.vdone_of_empty {s : State} {c : Ctx} {cnt : Option Nat} (hu : c.op.unit = some (.vector, cnt)) (hq : (s.rod c.ph).vq = [])
    (w : List (Nat × Nat)) : s.vdone c w = s.onRod c.ph (fun r => { r with vq := [c.entry cnt w] }) := by
  unfold State.vdone
  rw [hu]
  refine State.onRod_congr ?_
  change { s.rod c.ph with vq := c.entry cnt w :: (s.rod c.ph).vq } = _
  rw [hq]

/-! ### VLD and VST -/

section
variable {s : State} {l : Fin 512} {c : Ctx} {d a b at_ : Nat} {off : Int} {cnt : Option Nat} (h : s.readyOp l = some c)
  (ha : ((s.rod c.ph).sget a + BitVec.ofInt 64 off).toNat = at_)
include h ha

/-- VLD: the checks of R78, then poison, then the load of a vector register (R99). -/
theorem vld_exec (ho : c.op = .vld d a off cnt) :
    exec (.vld l) s = .next (if beadCheck at_ 256 32 false ≠ 0 then s.unitRaises c (beadCheck at_ 256 32 false)
      else if s.beadRangeBad c.ph at_ 256 then s.unitRaises c 0x08
      else ((s.advance c).onRod c.ph (fun r => r.vset d (lanesOf 64 (s.bead.readN (2 ^ 22 * c.ph + at_) 256)))).vdone c []) :=
  next_of_unit_ready h (by rw [ho]) (by rw [ho]; rfl) (by decide) (by
    subst ha
    simp only [State.vldOp, ho, adv_s_, State.unitRaise_advance h]
    rfl)

/-- VST: the checks of R78, then the write of the vector unit (R99). -/
theorem vst_exec (ho : c.op = .vst a b off cnt) :
    exec (.vst l) s = .next (if beadCheck at_ 256 32 true ≠ 0 then s.unitRaises c (beadCheck at_ 256 32 true)
      else ((s.advance c).unitWrite c at_ (vbytes (((s.advance c).rod c.ph).vget b)) (some .vector)).vdone c [(at_, 256)]) :=
  next_of_unit_ready h (by rw [ho]) (by rw [ho]; rfl) (by decide) (by
    subst ha
    simp only [State.vstOp, ho, adv_s_, State.unitRaise_advance h]
    rfl)

end

@[simp] theorem adv_vget (s : State) (c : Ctx) (n : Nat) : ((s.advance c).rod c.ph).vget n = (s.rod c.ph).vget n := by rw [adv_rod]; rfl

/-- Lane n of 256 bytes of memory is their n-th word. -/
theorem lanesOf_readN (m : Memory) (a : Nat) {n : Nat} (hn : n < 64) : nth 0 (lanesOf 64 (m.readN a 256)) n = m.read32 (a + 4 * n) := by
  rw [lanesOf_nth 64 n _ hn, readN_sub 256 m a (4 * n) 4 (by omega), Memory.read32]

theorem vbytes_length : ∀ l : List W32, (vbytes l).length = 4 * l.length
  | [] => rfl
  | x :: l => by
    have ih := vbytes_length l
    rw [vbytes] at ih ⊢
    rw [List.flatMap_cons, List.length_append, leBytes_length, ih, List.length_cons]
    omega

/-- What a VST leaves whose checks hold: the write of the vector unit, with its entry in the unit's queue. -/
def State.vstDone (s : State) (c : Ctx) (off : Nat) (bs : List Byte) : State :=
  ((s.advance c).unitWrite c off bs (some .vector)).vdone c [(off, 256)]

theorem State.vstDone_eq {s : State} {l : Nat} {c : Ctx} {cnt : Option Nat} (h : s.readyOp l = some c)
    (hu : c.op.unit = some (.vector, cnt)) (off : Nat) (bs : List Byte) :
    s.vstDone c off bs =
      ((s.advance c).unitWrite c off bs (some .vector)).onRod c.ph (fun r => { r with vq := [c.entry cnt [(off, 256)]] }) := by
  refine State.vdone_of_empty hu ?_ _
  rw [(unitWrite_advance h off bs (some .vector)).rod, adv_rod]
  exact ready_empty h hu (by decide)

/-- The entry in the queue is no register of any rod. -/
theorem State.vstDone_rod {s : State} {l : Nat} {c : Ctx} {cnt : Option Nat} (h : s.readyOp l = some c)
    (hu : c.op.unit = some (.vector, cnt)) (off : Nat) (bs : List Byte) (k : Nat) :
    (s.rod k).RegsKept ((s.vstDone c off bs).rod k) ∧ (k ≠ c.ph → (s.vstDone c off bs).rod k = s.rod k) := by
  have hw := unitWrite_advance h off bs (some .vector)
  rw [State.vstDone_eq h hu]
  by_cases hk : k = c.ph
  · subst hk
    rw [State.onRod, State.rod_setRod]
    exact ⟨hw.regs c.ph, fun hne => absurd rfl hne⟩
  · rw [State.rod_onRod_ne _ _ hk]
    exact ⟨hw.regs k, hw.others k⟩

/-! ### The accumulator moves -/

/-- A write of an accumulator row changes no other file of the rod. -/
theorem Rod.tset_eq (r : Rod) (acc row : Nat) (l : List W32) : ∃ T, r.tset acc row l = { r with t := T } := ⟨_, rfl⟩

theorem Rod.tclear_eq (r : Rod) (acc : Nat) : ∃ T, r.tclear acc = { r with t := T } := ⟨_, rfl⟩

section
variable {s : State} {l : Fin 512} {c : Ctx} {d a acc row : Nat} {cnt : Option Nat} (h : s.readyOp l = some c)
include h

theorem accRd_exec (ho : c.op = .acc 0 d a acc row cnt) :
    exec (.accRd l) s = .next (((s.advance c).onRod c.ph (fun r => r.vset d (r.tget acc row))).vdone c []) :=
  next_of_unit_ready h (by rw [ho]; rfl) (by rw [ho]; rfl) (by decide) (by simp only [State.accOp, ho, if_true])

theorem accWr_exec (ho : c.op = .acc 1 d a acc row cnt) :
    exec (.accWr l) s = .next (((s.advance c).onRod c.ph (fun r => r.tset acc row (r.vget a))).vdone c []) :=
  next_of_unit_ready h (by rw [ho]; rfl) (by rw [ho]; rfl) (by decide) (by simp [State.accOp, ho])

theorem accClr_exec (ho : c.op = .acc 2 d a acc row cnt) :
    exec (.accClr l) s = .next (((s.advance c).onRod c.ph (fun r => r.tclear acc)).vdone c []) :=
  next_of_unit_ready h (by rw [ho]; rfl) (by rw [ho]; rfl) (by decide) (by simp [State.accOp, ho])

/-- ACC.RD leaves the accumulator row in its vector register. -/
theorem accRd_written (hu : c.op.unit = some (.vector, cnt)) :
    VecWritten s (((s.advance c).onRod c.ph (fun r => r.vset d (r.tget acc row))).vdone c []) c d
      (fun n => (s.rod c.ph).tat acc row n) 0 cnt :=
  (vec_written h hu d _ 0 (Rod.tget_length _ acc row) _ (noflag _ d _)).congr fun n hn => by
    rw [Rod.tget_nth _ _ _ _ hn, adv_tat]

/-- ACC.WR leaves the vector register in one row of its accumulator. -/
theorem accWr_written (hu : c.op.unit = some (.vector, cnt)) (hr : row < 16) :
    AccWritten s (((s.advance c).onRod c.ph (fun r => r.tset acc row (r.vget a))).vdone c []) c acc
      (fun m n => if m = row then (s.rod c.ph).vlane a n else (s.rod c.ph).tat acc m n) := by
  obtain ⟨T, hT⟩ := ((s.advance c).rod c.ph).tset_eq acc row (((s.advance c).rod c.ph).vget a)
  refine acc_written h hu (by decide) acc _ _ (fun m n hm hn => ?_) (fun k m n hm hn hk => ?_) ?_ (by rw [hT]; rfl)
  · rw [Rod.tat_tset _ _ _ _ _ _ _ (Rod.vget_length _ a) hr hm hn, Rod.vget_nth _ _ _ hn, adv_vlane, adv_tat]
    simp
  · rw [Rod.tat_tset _ _ _ _ _ _ _ (Rod.vget_length _ a) hr hm hn, if_neg fun hkm => hk hkm.1]
  · dsimp only
    rw [hT]
    exact ⟨rfl, rfl, rfl, rfl, rfl, rfl, rfl, rfl⟩

/-- ACC.CLR leaves zero in every row of its accumulator. -/
theorem accClr_written (hu : c.op.unit = some (.vector, cnt)) :
    AccWritten s (((s.advance c).onRod c.ph (fun r => r.tclear acc)).vdone c []) c acc (fun _ _ => 0) := by
  obtain ⟨T, hT⟩ := ((s.advance c).rod c.ph).tclear_eq acc
  refine acc_written h hu (by decide) acc _ _ (fun m n hm hn => ?_) (fun k m n hm hn hk => ?_) ?_ (by rw [hT]; rfl)
  · rw [Rod.tat_tclear _ _ _ _ _ hm hn, if_pos rfl]
  · rw [Rod.tat_tclear _ _ _ _ _ hm hn, if_neg hk]
  · dsimp only
    rw [hT]
    exact ⟨rfl, rfl, rfl, rfl, rfl, rfl, rfl, rfl⟩

end

/-- Settles O14: VLD and VST by the checks of R78, the accumulator moves by their sub-operation. That the exception is raised as the unit
starts the instruction is a deduced reading (log entry 22). -/
theorem rodVectorMemoryAndAccumulatorMoves : Obligations.RodVectorMemoryAndAccumulatorMoves := by
  intro s l c h
  refine ⟨fun d a off cnt ho => ?vld, fun a b off cnt ho => ?vst, fun f d a acc row cnt ho hr => ?acc⟩
  case vld =>
    intro at_
    have hu : c.op.unit = some (.vector, cnt) := by rw [ho]; rfl
    rw [vld_exec h rfl ho]
    refine ⟨fun hout => ?_, fun hin hask => ?_, fun hin hal hbad => ?_, fun hin hal hok => ?_⟩
    · rw [beadCheck_of_outside hout, if_pos (by decide)]
    · rw [beadCheck_of_askew hin hask, if_pos (by decide)]
    · rw [beadCheck_load hin hal, if_neg (by decide), if_pos hbad]
    · rw [beadCheck_load hin hal, if_neg (by decide), hok, if_neg (by decide)]
      exact ⟨_, rfl, (vec_written h hu d _ 0 (lanesOf_length 64 _) _ (noflag _ d _)).congr fun n hn => lanesOf_readN _ _ hn⟩
  case vst =>
    intro at_
    have hu : c.op.unit = some (.vector, cnt) := by rw [ho]; rfl
    rw [vst_exec h rfl ho]
    refine ⟨fun hout => ?_, fun hin hask => ?_, fun hin hal hp => ?_, fun hin hal => ?_⟩
    · rw [beadCheck_of_outside hout, if_pos (by decide)]
    · rw [beadCheck_of_askew hin hask, if_pos (by decide)]
    · rw [beadCheck_of_protected hin hal hp, if_pos (by decide)]
    · rw [beadCheck_store hin hal, if_neg (by decide), adv_vget]
      have hrod := State.vstDone_rod h hu at_ (vbytes ((s.rod c.ph).vget b))
      obtain ⟨hstands, -, hout, ⟨hhbm, himem, hext⟩, -, -⟩ := unitWrite_advance h at_ (vbytes ((s.rod c.ph).vget b)) (some .vector)
      rw [vbytes_length, Rod.vget_length] at hstands hout
      refine ⟨_, congrArg Host.Outcome.next (State.vstDone_eq h hu _ _), hstands, hout, hhbm, himem, hext,
        congrArg Rod.vq (State.rod_setRod _ _ _), fun k => ?_⟩
      rw [← State.vstDone_eq h hu]
      obtain ⟨⟨hs, hv, ht, hp, hc, hf⟩, hothers⟩ := hrod k
      exact ⟨hs, hv, ht, hp, hc, hf, hothers⟩
  case acc =>
    refine ⟨?_, ?_, ?_⟩
    all_goals
      rintro rfl
      have hu : c.op.unit = some (.vector, cnt) := by rw [ho]; rfl
    · exact ⟨_, accRd_exec h ho, accRd_written h hu⟩
    · exact ⟨_, accWr_exec h ho, accWr_written h hu hr⟩
    · exact ⟨_, accClr_exec h ho, accClr_written h hu⟩

end Sys2Proof.Machine
end

section
/-! The vector functions of the instruction reference (05_isa_reference.md): lane by lane, moves of lanes and bytes, reductions and
conversions. First the byte shifts and what a function writes of a rod, then the instructions. -/

namespace Sys2Proof.Machine

/-! ### Byte shifts -/

/-- A shift up moves byte j - k to byte j, zeros entering below. -/
theorem shiftBytes_up_nth {bs : List Byte} {k j : Nat} (hj : j < 256) :
    nth 0 (shiftBytes true k bs) j = if j < k then 0 else nth 0 bs (j - k) := by
  rw [shiftBytes, if_pos rfl, nth_eq_getD, nth_eq_getD, List.getElem?_take_of_lt hj]
  by_cases hk : j < k
  · rw [if_pos hk, List.getElem?_append_left (by simpa using hk), List.getElem?_replicate_of_lt hk, Option.getD_some]
  · rw [if_neg hk, List.getElem?_append_right (by simpa using hk), List.length_replicate]

/-- A shift down moves byte j + k to byte j, zeros entering above. -/
theorem shiftBytes_down_nth {bs : List Byte} {k : Nat} (j : Nat) : nth 0 (shiftBytes false k bs) j = nth 0 bs (j + k) := by
  rw [shiftBytes, if_neg (by decide), nth_eq_getD, nth_eq_getD]
  by_cases hj : j < (bs.drop k).length
  · rw [List.getElem?_append_left hj, List.getElem?_drop, Nat.add_comm]
  · rw [List.length_drop] at hj
    rw [List.getElem?_append_right (by simpa using hj), List.getElem?_eq_none (l := bs) (by omega), List.getElem?_replicate]
    split <;> rfl

/-! ### What a function writes of a rod -/

section
variable (r : Rod) {f : Nat} (d a b x ty : Nat)

/-- The lane-wise functions are those that the model does not name one by one. -/
theorem Rod.vecFn_lanes (hf : f ∈ laneFns) :
    r.vecFn f d a b x ty = r.vset d (lanes3 (laneOp f ty) (r.vget a) (r.vget b) (r.vget x)) := by
  have hother : ∀ f ∈ laneFns, ∀ k ∈ [0x30, 0x31, 0x32, 0x38, 0x39, 0x3B, 0x3C, 0x3D, 0x3E, 0x44], f ≠ k := by decide
  have hne := hother f hf
  simp only [List.forall_mem_cons] at hne
  obtain ⟨h30, h31, h32, h38, h39, h3B, h3C, h3D, h3E, h44, -⟩ := hne
  simp [Rod.vecFn, h30, h31, h32, h38, h39, h3B, h3C, h3D, h3E, h44]

/-- The shifts of the byte image. -/
theorem Rod.vecFn_shift {up : Bool} (hf : (f, up) ∈ [(0x3D, true), (0x3E, false)]) :
    r.vecFn f d a b x ty = r.vset d (lanesOf 64 (shiftBytes up ((r.sget b).toNat % 256) (vbytes (r.vget a)))) := by
  simp only [List.mem_cons, Prod.mk.injEq, List.not_mem_nil, or_false] at hf
  obtain ⟨rfl, rfl⟩ | ⟨rfl, rfl⟩ := hf
  all_goals rfl

/-- The reductions and VGET write a scalar register: the pairwise tree of R104, or a lane. -/
theorem Rod.vecFn_scalar {v : W64}
    (hv : (f, ty, v) ∈ [(0x30, 0, ((treeLevels fadd 6 (r.vget a)).headD 0).setWidth 64),
      (0x31, 0, ((treeLevels fmax 6 (r.vget a)).headD 0).setWidth 64),
      (0x32, 0, ((treeLevels fmin 6 (r.vget a)).headD 0).setWidth 64),
      (0x30, 1, ((treeLevels (· + ·) 6 (r.vget a)).headD 0).signExtend 64),
      (0x31, 1, ((treeLevels (fun p q => if p.slt q then q else p) 6 (r.vget a)).headD 0).setWidth 64),
      (0x32, 1, ((treeLevels (fun p q => if q.slt p then q else p) 6 (r.vget a)).headD 0).setWidth 64),
      (0x39, ty, (r.vlane a ((r.sget b).toNat % 64)).setWidth 64)]) : r.vecFn f d a b x ty = r.sset d v := by
  simp only [List.mem_cons, Prod.mk.injEq, List.not_mem_nil, or_false] at hv
  obtain ⟨rfl, rfl, rfl⟩ | ⟨rfl, rfl, rfl⟩ | ⟨rfl, rfl, rfl⟩ | ⟨rfl, rfl, rfl⟩ | ⟨rfl, rfl, rfl⟩ | ⟨rfl, rfl, rfl⟩ | ⟨rfl, -, rfl⟩ := hv
  all_goals rfl

end

/-- A write of a scalar register leaves the vector unit's queue. -/
@[simp] theorem Rod.sset_vq (r : Rod) (d : Nat) (v : W64) : (r.sset d v).vq = r.vq := by
  unfold Rod.sset
  split <;> rfl

/-- The flags that a conversion adds, as a vector register is written. -/
theorem Rod.vset_addFlags (r : Rod) (d : Nat) (v : List W32) (f : AFlags) :
    (r.vset d v).addFlags f = { r.vset d v with astat := r.astat ||| BitVec.ofNat 2 (2 * b2n f.invalid + b2n f.saturated) } := rfl

/-- A conversion packs its lanes into 64. -/
@[simp] theorem cvtTo_length (e : Elt) (l : List W32) : (cvtTo e l).1.length = 64 := lanesOf_length 64 _

@[simp] theorem cvtSc_length (e : Elt) (l : List W32) : (cvtSc e l).length = 64 := lanesOf_length 64 _

@[simp] theorem cvtFrom_length (e : Elt) (p q : List W32) : (cvtFrom e p q).length = 64 := by simp [cvtFrom]

@[simp] theorem cvtI32_length (l : List W32) : (cvtI32 l).1.length = l.length := by simp [cvtI32]

/-! ### The instructions -/

section
variable {s : State} {l : Fin 512} {c : Ctx} {f d a b x ty : Nat} {cnt : Option Nat} (h : s.readyOp l = some c)
  (ho : c.op = .vec f d a b x ty cnt)
include h ho

/-- Every function of major 0x20 but the three conversions of packed elements (Table 5.4). -/
theorem vectorOp_exec (hc : isCvt f = false) :
    exec (.vectorOp l) s = .next (((s.advance c).onRod c.ph (fun r => r.vecFn f d a b x ty)).vdone c []) :=
  next_of_unit_ready h (by rw [ho]; simp [hc]) (by rw [ho]; rfl) (by decide) (by simp only [State.vecOp, ho])

/-- A function that writes vector register d, lane by lane. -/
theorem vectorOp_written (hc : isCvt f = false) {v : List W32} {g : Nat → W32} (hl : v.length = 64)
    (hf : ((s.advance c).rod c.ph).vecFn f d a b x ty = ((s.advance c).rod c.ph).vset d v) (hg : ∀ n, n < 64 → nth 0 v n = g n) :
    ∃ t, exec (.vectorOp l) s = .next t ∧ VecWritten s t c d g 0 cnt :=
  ⟨_, vectorOp_exec h ho hc, (vec_written h (by rw [ho]; rfl) d v 0 hl _ (hf.trans (noflag _ d v))).congr hg⟩

/-- A function that writes a scalar register. -/
theorem vectorOp_scalar (hc : isCvt f = false) {v : W64}
    (hf : ((s.advance c).rod c.ph).vecFn f d a b x ty = ((s.advance c).rod c.ph).sset d v) :
    exec (.vectorOp l) s =
      .next (((s.advance c).onRod c.ph (fun r => r.sset d v)).onRod c.ph (fun r => { r with vq := [c.entry cnt []] })) := by
  have hu : c.op.unit = some (.vector, cnt) := by rw [ho]; rfl
  rw [vectorOp_exec h ho hc, State.onRod_congr (g := fun r => r.sset d v) hf, State.vdone_of_empty hu]
  rw [State.onRod, State.rod_setRod, Rod.sset_vq, adv_rod]
  exact ready_empty h hu (by decide)

end

/-! ### The conversions -/

section
variable {s : State} {l : Fin 512} {c : Ctx} {d a b x ty : Nat} {cnt : Option Nat} (h : s.readyOp l = some c)
include h

/-- VCVT.I32.F32 adds the flags of its conversion. -/
theorem vcvtI32_written (ho : c.op = .vec 0x44 d a b x ty cnt) : ∃ t, exec (.vectorOp l) s = .next t ∧
    VecWritten s t c d (nth 0 (cvtI32 ((s.rod c.ph).vget a)).1)
      (BitVec.ofNat 2 (2 * b2n (cvtI32 ((s.rod c.ph).vget a)).2.invalid + b2n (cvtI32 ((s.rod c.ph).vget a)).2.saturated)) cnt := by
  rw [← adv_vget]
  exact ⟨_, vectorOp_exec h ho rfl, vec_written h (by rw [ho]; rfl) d _ _ (by rw [cvtI32_length, Rod.vget_length]) _
    (Rod.vset_addFlags _ d _ _)⟩

variable {e : Elt} (he : Elt.ofCode ty = some e)
include he

theorem vcvtTo_exec (ho : c.op = .vec 0x40 d a b x ty cnt) :
    exec (.vcvtTo l) s = .next (((s.advance c).onRod c.ph
      (fun r => (r.vset d (cvtTo e (r.vget a)).1).addFlags (cvtTo e (r.vget a)).2)).vdone c []) :=
  next_of_unit_ready h (by rw [ho]; rfl) (by rw [ho]; rfl) (by decide) (by simp only [State.vcvtToOp, ho, he])

theorem vcvtSc_exec (ho : c.op = .vec 0x41 d a b x ty cnt) :
    exec (.vcvtSc l) s = .next (((s.advance c).onRod c.ph (fun r => r.vset d (cvtSc e (r.vget a)))).vdone c []) :=
  next_of_unit_ready h (by rw [ho]; rfl) (by rw [ho]; rfl) (by decide) (by simp only [State.vcvtScOp, ho, he])

theorem vcvtFrom_exec (ho : c.op = .vec 0x42 d a b x ty cnt) :
    exec (.vcvtFrom l) s = .next (((s.advance c).onRod c.ph (fun r => r.vset d (cvtFrom e (r.vget a) (r.vget x)))).vdone c []) :=
  next_of_unit_ready h (by rw [ho]; rfl) (by rw [ho]; rfl) (by decide) (by simp only [State.vcvtFromOp, ho, he])

/-- VCVT.TO adds the flags of its conversion. -/
theorem vcvtTo_written (ho : c.op = .vec 0x40 d a b x ty cnt) : ∃ t, exec (.vcvtTo l) s = .next t ∧
    VecWritten s t c d (nth 0 (cvtTo e ((s.rod c.ph).vget a)).1)
      (BitVec.ofNat 2 (2 * b2n (cvtTo e ((s.rod c.ph).vget a)).2.invalid + b2n (cvtTo e ((s.rod c.ph).vget a)).2.saturated)) cnt := by
  rw [← adv_vget]
  exact ⟨_, vcvtTo_exec h he ho, vec_written h (by rw [ho]; rfl) d _ _ (cvtTo_length e _) _ (Rod.vset_addFlags _ d _ _)⟩

theorem vcvtSc_written (ho : c.op = .vec 0x41 d a b x ty cnt) : ∃ t, exec (.vcvtSc l) s = .next t ∧
    VecWritten s t c d (nth 0 (cvtSc e ((s.rod c.ph).vget a))) 0 cnt := by
  rw [← adv_vget]
  exact ⟨_, vcvtSc_exec h he ho, vec_written h (by rw [ho]; rfl) d _ 0 (cvtSc_length e _) _ (noflag _ d _)⟩

theorem vcvtFrom_written (ho : c.op = .vec 0x42 d a b x ty cnt) : ∃ t, exec (.vcvtFrom l) s = .next t ∧
    VecWritten s t c d (nth 0 (cvtFrom e ((s.rod c.ph).vget a) ((s.rod c.ph).vget x))) 0 cnt := by
  rw [← adv_vget s c a, ← adv_vget s c x]
  exact ⟨_, vcvtFrom_exec h he ho, vec_written h (by rw [ho]; rfl) d _ 0 (cvtFrom_length e _ _) _ (noflag _ d _)⟩

end

/-- Settles O12: each function by the lanes it writes; the shifts and the INT32 functions are spelled out. That the instruction takes all of
its effect as its unit starts it is a deduced reading (log entry 4). -/
theorem rodVectorLaneOperations : Obligations.RodVectorLaneOperations := by
  intro s l c f d a b x ty cnt h ho A B C
  refine ⟨fun hf => ?lanes, fun hf => ?vbcast, fun hf => ?viota, fun hf => ?vperm, fun up hf => ?shift,
    fun bs k j _ _ hj => ⟨shiftBytes_up_nth hj, shiftBytes_down_nth j⟩, fun u v w => ?int⟩
  case lanes =>
    have hc : ∀ f ∈ laneFns, isCvt f = false := by decide
    refine vectorOp_written h ho (hc f hf) (by simp [lanes3_length]) (Rod.vecFn_lanes _ d a b x ty hf) fun n hn => ?_
    rw [lanes3_nth _ _ _ _ n (by simp) (by simp) (by simpa using hn)]
    simp only [Rod.vget_nth _ _ n hn, adv_vlane, A, B, C]
  case vbcast =>
    subst hf
    refine vectorOp_written h ho rfl (List.length_replicate ..) rfl fun n hn => ?_
    rw [nth_eq_getD, List.getElem?_replicate_of_lt hn, Option.getD_some, adv_sget]
  case viota =>
    subst hf
    exact vectorOp_written h ho rfl (by simp) rfl fun n hn => nth_tab 0 _ 64 n hn
  case vperm =>
    subst hf
    refine vectorOp_written h ho rfl (by simp) rfl fun n hn => ?_
    rw [nth_map 0 0 _ _ n (by simpa using hn), Rod.vget_nth _ _ n hn, adv_vlane, adv_vlane]
  case shift =>
    have hc : isCvt f = false := by
      simp only [List.mem_cons, Prod.mk.injEq, List.not_mem_nil, or_false] at hf
      obtain ⟨rfl, -⟩ | ⟨rfl, -⟩ := hf
      all_goals rfl
    refine vectorOp_written h ho hc (lanesOf_length 64 _) (Rod.vecFn_shift _ d a b x ty hf) fun n _ => ?_
    rw [adv_sget, adv_vget]
  case int =>
    refine ⟨rfl, rfl, rfl, BitVec.zero_sub u, ?_, ?_, ?_⟩
    · simp [laneOp]
    · simp [laneOp, BitVec.slt]
    · by_cases hw : w = 0
      all_goals simp [laneOp, hw]

/-- Settles O13: the functions that write a scalar register, then the conversions with their flags. That an INT32 VRMAX or VRMIN is
zero-extended (log entry 105) and that an FP32 VRSUM with a NaN lane is NaN (log entry 110) are deduced readings. -/
theorem rodVectorReductionsAndConversions : Obligations.RodVectorReductionsAndConversions := by
  intro s l c f d a b x ty cnt h ho r0 queued tree
  refine ⟨fun v hv => ?_, fun hf => vcvtI32_written h (hf ▸ ho), fun e he hf => vcvtTo_written h he (hf ▸ ho),
    fun e he hf => vcvtSc_written h he (hf ▸ ho), fun e he hf => vcvtFrom_written h he (hf ▸ ho)⟩
  have hc : isCvt f = false := by
    simp only [List.mem_cons, Prod.mk.injEq, List.not_mem_nil, or_false] at hv
    obtain ⟨rfl, -⟩ | ⟨rfl, -⟩ | ⟨rfl, -⟩ | ⟨rfl, -⟩ | ⟨rfl, -⟩ | ⟨rfl, -⟩ | ⟨rfl, -⟩ := hv
    all_goals rfl
  exact vectorOp_scalar h ho hc (Rod.vecFn_scalar _ d a b x ty (by rw [adv_vget, adv_vlane, adv_sget]; exact hv))

end Sys2Proof.Machine
end

section
/-! The issue of the remote-memory instructions of the instruction reference (05_isa_reference.md): GET, PUT, the atomics and TADD.R, then
the hand-offs GATHER, STREAM.ARM and SAMPLE.PUT. Each is an equation for its checks and the operation that enters the unit. -/

namespace Sys2Proof.Machine

/-! ### The operations as they enter the unit -/

section
variable (c : Ctx) (cnt : Option Nat) (at_ bead len : Nat)

def Ctx.getOp : RemOp := { opOf c .get cnt at_ len with bead := bead, spans := [(bead, len)] }

/-- A PUT with its source bytes. -/
def Ctx.putOp (data : List Byte) : RemOp := { opOf c .put cnt at_ len with bead := bead, data := data }

/-- An atomic with its destination register and its operands. -/
def Ctx.atomOp (op : AtomOp) (w d : Nat) (y z : W64) : RemOp := { opOf c (.atom op w) cnt at_ (atomSize w) with dest := d, b := y, c := z }

def Ctx.taddOp (inc : Int) : RemOp := { opOf c .taddR cnt at_ 4 with b := BitVec.ofInt 64 inc }

/-- The hand-off of `rows` candidate rows whose record begins at `at_`. -/
def Ctx.sampleOp (rows : W64) : RemOp := { opOf c .sample cnt at_ 0 with bead := at_, b := rows, spans := [(at_, 0x400000 - at_)] }

/-- A GATHER with the words `d` of its descriptor: its engine takes it where the queue has room or a response is drawn already (R179, R182). -/
def State.gatherOp (s : State) (dest : Nat) (d : List W64) : RemOp :=
  let resp := gatherResp c.p dest d (s.tbl (gdTable d))
  { opOf c .gather cnt at_ 64 with
    bead := dest, data := d.flatMap (fun w => leBytes 8 w.toNat), spans := gatherSpans dest d (s.tbl (gdTable d)),
    taken := decide (resp ≠ 0) || decide (s.engineLoad (c.l / 16) < 64), done := if resp = 0 then none else some resp }

end

theorem atomSize_eq (w : Nat) : atomSize w = if w = 1 ∨ w = 4 then 8 else 4 := by simp [atomSize]

/-- Moving past an instruction leaves the remote-memory unit of every rod, and so the load of every gather engine. -/
@[simp] theorem adv_engineLoad (s : State) (c : Ctx) (e : Nat) : (s.advance c).engineLoad e = s.engineLoad e := by
  have hrem : ∀ k, ((s.advance c).rod k).rem = (s.rod k).rem := fun k => by
    by_cases hk : k = c.ph
    · rw [hk, adv_rod]
    · rw [adv_rod_ne s c k hk]
  simp only [State.engineLoad, hrem]
  rfl

/-! ### GET, PUT, the atomics and TADD.R -/

section
variable {s : State} {l : Fin 512} {c : Ctx} {a b d x len w at_ bead : Nat} {op : AtomOp} {cnt : Option Nat} (h : s.readyOp l = some c)
  (ha : ((s.rod c.ph).sget a).toNat = at_)
include h ha

theorem get_exec (hb : ((s.rod c.ph).sget b).toNat = bead) (ho : c.op = .rget a b len cnt) :
    exec (.get l) s = .next (if bead + len > 2 ^ 22 then s.raises c 0x06 else if bead + len > 0x3F0000 then s.raises c 0x05
      else (s.advance c).remIssue c (c.getOp cnt at_ bead len)) :=
  next_of_ready h (by rw [ho]) (by
    subst ha hb
    simp only [ho, adv_s_, State.raise_advance h]
    rfl)

theorem put_exec (hb : ((s.rod c.ph).sget b).toNat = bead) (ho : c.op = .rput a b len cnt) :
    exec (.put l) s = .next (if bead + len > 2 ^ 22 then s.raises c 0x06 else if s.beadRangeBad c.ph bead len then s.raises c 0x08
      else (s.advance c).remIssue c (c.putOp cnt at_ bead len (s.bead.readN (2 ^ 22 * c.ph + bead) len))) :=
  next_of_ready h (by rw [ho]) (by
    subst ha hb
    simp only [ho, adv_s_, State.raise_advance h]
    rfl)

/-- The four atomics differ in the command that issues them only. -/
theorem atom_exec (ho : c.op = .atom op w d a b x cnt) :
    exec (atomInstr op l) s = .next (if at_ % atomSize w ≠ 0 then s.raises c 0x03
      else (s.advance c).remIssue c (c.atomOp cnt at_ op w d ((s.rod c.ph).sget b) ((s.rod c.ph).sget x))) := by
  have hact : (s.advance c).atomIssue c = if at_ % atomSize w ≠ 0 then s.raises c 0x03
      else (s.advance c).remIssue c (c.atomOp cnt at_ op w d ((s.rod c.ph).sget b) ((s.rod c.ph).sget x)) := by
    subst ha
    simp only [State.atomIssue, ho, adv_s_, State.raise_advance h]
    rfl
  cases op
  all_goals exact next_of_ready h (by rw [ho]; rfl) hact

theorem taddR_exec {inc : Int} (ho : c.op = .taddR a inc cnt) :
    exec (.taddR l) s = .next ((s.advance c).remIssue c (c.taddOp cnt at_ inc)) :=
  next_of_ready h (by rw [ho]) (by
    subst ha
    simp only [ho, adv_s_]
    rfl)

/-! ### GATHER, STREAM.ARM and SAMPLE.PUT -/

theorem gather_exec {d : List W64} (hb : ((s.rod c.ph).sget b).toNat = bead) (hd : s.bead.readWords (2 ^ 22 * c.ph + at_) 8 = d)
    (ho : c.op = .gather a b cnt) :
    exec (.gather l) s = .next (if at_ + 64 > 2 ^ 22 then s.raises c 0x06
      else if s.gatherTrap c.ph at_ bead d (s.tbl (gdTable d)) ≠ 0 then
        s.raises c (s.gatherTrap c.ph at_ bead d (s.tbl (gdTable d)))
      else (s.advance c).enqueueRem c.ph (s.gatherOp c cnt at_ bead d)) :=
  next_of_ready h (by rw [ho]) (by
    subst ha hb hd
    simp only [ho, adv_s_, State.raise_advance h, adv_engineLoad, engineOf]
    rfl)

theorem streamArm_exec (ho : c.op = .streamArm a cnt) :
    exec (.streamArm l) s = .next ((s.advance c).enqueueRem c.ph (opOf c .stream cnt at_ 16)) :=
  next_of_ready h (by rw [ho]) (by
    subst ha
    simp only [ho, adv_s_]
    rfl)

theorem samplePut_exec (ho : c.op = .samplePut a b cnt) :
    exec (.samplePut l) s = .next (if (s.rod c.ph).sget b = 0 then (s.advance c).enqueueRem c.ph (opOf c .sampleEmpty cnt 0 0)
      else if at_ ≥ 2 ^ 22 then s.raises c 0x06
      else (s.advance c).enqueueRem c.ph (c.sampleOp cnt at_ ((s.rod c.ph).sget b))) :=
  next_of_ready h (by rw [ho]) (by
    subst ha
    simp only [ho, adv_s_, State.raise_advance h]
    rfl)

end

theorem samplePutEmpty_exec {s : State} {l : Fin 512} {c : Ctx} {cnt : Option Nat} (h : s.readyOp l = some c) (ho : c.op = .sampleEmpty cnt) :
    exec (.samplePutEmpty l) s = .next ((s.advance c).enqueueRem c.ph (opOf c .sampleEmpty cnt 0 0)) :=
  next_of_ready h (by rw [ho]) (by
    simp only [ho]
    rfl)

/-- Settles O19: each instruction's checks in their order, then the operation that enters the unit. That a PUT takes its source bytes as
it issues is the model's choice, as it is for the descriptor of a GATHER (log entry 34): R115 gives no moment. That ADDRESS comes before
ACCESS is a deduced reading (log entry 18). -/
theorem rodRemoteOperationsIssue : Obligations.RodRemoteOperationsIssue := by
  intro s l c h r
  refine ⟨fun a b len cnt ho => ?get, fun a b len cnt ho => ?put, fun op w d a b x cnt ho => ?atom,
    fun a inc cnt ho => ⟨_, taddR_exec h rfl ho, rem_queued c (c.taddOp cnt _ inc)⟩⟩
  case get =>
    intro bead at_
    rw [get_exec h rfl rfl ho]
    refine ⟨fun hout => ?_, fun hin hsys => ?_, fun hin => ⟨_, ?_, rem_queued c (c.getOp cnt at_ bead len)⟩⟩
    · rw [if_pos hout]
    · rw [if_neg (Nat.not_lt.mpr hin), if_pos hsys]
    · rw [if_neg (Nat.not_lt.mpr (hin.trans (by decide))), if_neg (Nat.not_lt.mpr hin)]
  case put =>
    intro bead at_
    rw [put_exec h rfl rfl ho]
    refine ⟨fun hout => ?_, fun hin hbad => ?_, fun hin hok => ⟨_, ?_, rem_queued c (c.putOp cnt at_ bead len _)⟩⟩
    · rw [if_pos hout]
    · rw [if_neg (Nat.not_lt.mpr hin), if_pos hbad]
    · rw [if_neg (Nat.not_lt.mpr hin), hok, if_neg (by decide)]
  case atom =>
    intro at_ size
    have hsize : atomSize w = size := atomSize_eq w
    rw [atom_exec h rfl ho, ← hsize]
    refine ⟨fun hask => ?_, fun hal => ⟨_, ?_, rem_queued c (c.atomOp cnt at_ op w d (r.sget b) (r.sget x))⟩⟩
    · rw [if_pos hask]
    · rw [if_neg (not_not.mpr hal)]

/-- Settles O20: each hand-off's checks, then the operation that enters the unit. That GATHER takes its descriptor as it issues is the
model's choice (log entry 34). -/
theorem rodHandOffsIssue : Obligations.RodHandOffsIssue := by
  intro s l c h r
  refine ⟨fun a b cnt ho => ?gather, fun a cnt ho => ⟨_, streamArm_exec h rfl ho, rem_enqueued c _⟩, fun a b cnt ho => ?sample,
    fun cnt ho => ⟨_, samplePutEmpty_exec h ho, rem_enqueued c _⟩⟩
  case gather =>
    intro at_ dest d trap resp
    rw [gather_exec h rfl rfl rfl ho]
    refine ⟨fun hout => ?_, fun hin htrap => ?_, fun hin hok => ⟨_, ?_, rem_enqueued c (s.gatherOp c cnt at_ dest d)⟩⟩
    · rw [if_pos hout]
    · rw [if_neg (Nat.not_lt.mpr hin), if_pos htrap]
    · rw [if_neg (Nat.not_lt.mpr hin), if_neg (not_not.mpr hok)]
  case sample =>
    intro at_
    rw [samplePut_exec h rfl ho]
    refine ⟨fun h0 => ⟨_, ?_, rem_enqueued c _⟩, fun h0 hout => ?_,
      fun h0 hin => ⟨_, ?_, rem_enqueued c (c.sampleOp cnt at_ (r.sget b))⟩⟩
    · rw [if_pos h0]
    · rw [if_neg h0, if_pos hout]
    · rw [if_neg h0, if_neg (Nat.not_le.mpr hin)]

end Sys2Proof.Machine
end

section
/-! The fences, the local units' queues, and the answers of remote operations (06_remote_memory.md R137, R141 to R144; 03_rods.md R41 to
R44). First what one rod's queues and operations do, then each command. -/

namespace Sys2Proof.Machine

/-! ### One rod -/

section
variable {r : Rod}

/-- The oldest instruction of a local unit, once started or suppressed, leaves the queue and counts (R44, R75). -/
theorem Rod.popUnit_of_cons {u : AUnit} {e : AEntry} {q : List AEntry} (hq : r.queueOf u = e :: q)
    (he : e.started = true ∨ e.supp = true) : r.popUnit u = (r.setQueue u q).countOpt e.cnt := by
  have hw : (!e.started && !e.supp) = false := by simpa [imp_iff_not_or] using he
  simp only [Rod.popUnit, hq, hw]
  cases e.cnt <;> rfl

/-- The suppressed operation found leaves the remote-memory unit and counts (R75). -/
theorem Rod.popSuppressed_of_find {o : RemOp} (h : r.rem.find? (fun x => x.kind == .suppressed && !r.olderSame x) = some o) :
    r.popSuppressed = (r.dropRem o.tag).countOpt o.cnt := by
  simp only [Rod.popSuppressed, h]
  cases o.cnt <;> rfl

/-- The condition that lets a fence complete (R137). -/
theorem Rod.fence_done_iff {k : Nat} {tags : List Nat} :
    (r.mq.isEmpty && r.vq.isEmpty && r.cq.isEmpty && !(r.rem.any (fun o => tags.contains o.tag && o.holdsFence k))) = true ↔
      r.mq = [] ∧ r.vq = [] ∧ r.cq = [] ∧ ∀ o ∈ r.rem, o.tag ∈ tags → o.holdsFence k = false := by
  simp [and_assoc]

end

/-! ### FENCE -/

/-- The four fences differ in their scope only. -/
theorem exec_fenceInstr {k : Nat} (hk : k ≤ 3) (l : Fin 512) (s : State) :
    exec (fenceInstr k l) s = .next (s.issue l (isFence k) (fun c s => s.fence c)) := by
  obtain rfl | rfl | rfl | rfl : k = 0 ∨ k = 1 ∨ k = 2 ∨ k = 3 := by omega
  all_goals rfl

theorem fence_exec {s : State} {l : Fin 512} {c : Ctx} {k : Nat} {cnt : Option Nat} (h : s.readyOp l = some c) (ho : c.op = .fence k cnt)
    (hk : k ≤ 3) : exec (fenceInstr k l) s = .next (s.setRod c.ph { s.rod c.ph with
      pc := c.pc + 8, ord := c.ord + 1, issue := .fencing k cnt ((s.rod c.ph).rem.map (·.tag)) }) := by
  rw [exec_fenceInstr hk]
  refine next_of_ready h (by simp [ho, isFence]) ?_
  simp only [State.fence, ho, State.onRod, adv_rod]
  exact State.setRod_setRod _ _ _ _

section
variable {s : State} {l : Fin 512} {k : Nat} {cnt : Option Nat} {tags : List Nat}

theorem fenceComplete_exec (hl : s.live = true) (hi : (s.rod (s.phys l)).issue = .fencing k cnt tags) :
    exec (.fenceComplete l) s = .next (if (s.rod (s.phys l)).mq = [] ∧ (s.rod (s.phys l)).vq = [] ∧ (s.rod (s.phys l)).cq = [] ∧
        ∀ o ∈ (s.rod (s.phys l)).rem, o.tag ∈ tags → o.holdsFence k = false then
      s.setRod (s.phys l) (({ s.rod (s.phys l) with issue := .run, stores := [] } : Rod).countOpt cnt) else s) := by
  change execFenceComplete l s = _
  simp only [execFenceComplete, hi, hl, Bool.true_and, Rod.fence_done_iff]

end

/-! ### Instructions of the local units -/

/-- A local unit is not the remote-memory unit. -/
theorem localCommand_unit_ne {l : Fin 512} {o : RodOp} {i : Instr} {u : AUnit} {cnt : Option Nat} (h : localCommand l o = some i)
    (hu : o.unit = some (u, cnt)) : u ≠ .remote := by
  rintro rfl
  cases o
  all_goals simp [localCommand, RodOp.unit] at h hu

/-- The command of a local unit's instruction issues it to its unit, which then does what `State.runOp` says. -/
theorem exec_localCommand {l : Fin 512} {o : RodOp} {i : Instr} (h : localCommand l o = some i) :
    ∃ sel act, (∀ s, exec i s = .next (s.issueUnit l sel act)) ∧ sel o = true ∧
      ∀ (c : Ctx) (s : State), c.op = o → act c s = s.runOp c := by
  cases o
  case vec f _ _ _ _ _ _ =>
    cases h
    obtain rfl | rfl | rfl | ⟨h40, h41, h42⟩ : f = 0x40 ∨ f = 0x41 ∨ f = 0x42 ∨ (f ≠ 0x40 ∧ f ≠ 0x41 ∧ f ≠ 0x42) := by omega
    case inr.inr.inr =>
      rw [if_neg h40, if_neg h41, if_neg h42]
      exact ⟨_, _, fun _ => rfl, by simp [isCvt, h40, h41, h42],
        fun c s hc => by simp only [State.runOp, hc, if_neg h40, if_neg h41, if_neg h42]⟩
    all_goals exact ⟨_, _, fun _ => rfl, rfl, fun c s hc => by cases c; cases hc; rfl⟩
  case acc | carry =>
    simp only [localCommand] at h
    split_ifs at h
    all_goals
      cases h
      subst_vars
      exact ⟨_, _, fun _ => rfl, rfl, fun c s hc => by cases c; cases hc; rfl⟩
  case mma lat _ _ =>
    cases h
    cases lat
    all_goals exact ⟨_, _, fun _ => rfl, rfl, fun c s hc => by cases c; cases hc; rfl⟩
  case vld | vst =>
    cases h
    exact ⟨_, _, fun _ => rfl, rfl, fun c s hc => by cases c; cases hc; rfl⟩
  all_goals cases h

section
variable {s : State} {l : Fin 512} {c : Ctx} {i : Instr} {u : AUnit} {cnt : Option Nat} (h : s.nextOp l = some c)
  (hi : localCommand l c.op = some i) (hu : c.op.unit = some (u, cnt))
include h hi hu

theorem localCommand_starts (hs : s.startsNow c = true) : exec i s = .next ((s.advance c).runOp c) := by
  obtain ⟨sel, act, hexec, hsel, hact⟩ := exec_localCommand hi
  have hready : s.readyOp l = some c := Option.filter_eq_some_iff.mpr ⟨h, hs⟩
  rw [hexec, State.issueUnit_ready hready hsel hu (localCommand_unit_ne hi hu), hact _ _ rfl]

theorem localCommand_waits (hs : s.startsNow c = false) :
    exec i s = .next ((s.advance c).enqueue c.ph u ⟨c.op, c.ord, c.pc, c.word, cnt, false, false, [], []⟩) := by
  obtain ⟨sel, act, hexec, hsel, -⟩ := exec_localCommand hi
  rw [hexec, State.issueUnit_waits h hsel hu hs]

end

section
variable {s : State} {l : Nat} {u : AUnit} {e : AEntry} {q : List AEntry} {p : Nat}

/-- The head of a unit's queue that waits: what lets it start (R42, R43, R246). -/
theorem State.startHead_of_waiting (hq : (s.rod (s.phys l)).queueOf u = e :: q) (hp : s.partOf l = some p) (hs : e.started = false)
    (hn : e.supp = false) :
    s.startHead l u =
      if (s.rod (s.phys l)).raised = [] ∧ (s.rod (s.phys l)).reported = false ∧ (s.part p).st = .running ∧
          s.canStart ⟨l, s.phys l, p, e.pc, e.word, e.ord, e.op, e.clash⟩ u = true then
        (s.setRod (s.phys l) ((s.rod (s.phys l)).setQueue u q)).runOp ⟨l, s.phys l, p, e.pc, e.word, e.ord, e.op, e.clash⟩
      else s := by
  simp only [State.startHead, hq, hp, hs, hn]
  refine if_congr ?_ rfl rfl
  simp [and_assoc]

end

/-! ### ASYNC_COMPLETE -/

section
variable {s : State} {l : Fin 512} (hl : s.live = true)
include hl

theorem asyncComplete_local {u : AUnit} {e : AEntry} {q : List AEntry} (hu : u ≠ .remote) (hq : (s.rod (s.phys l)).queueOf u = e :: q)
    (he : e.started = true ∨ e.supp = true) :
    exec (.asyncComplete l u) s =
      .next ((s.setRod (s.phys l) (((s.rod (s.phys l)).setQueue u q).countOpt e.cnt)).startUnits l) := by
  change execAsyncComplete l u s = _
  simp only [execAsyncComplete, hl, if_true, if_neg hu, State.onRod, Rod.popUnit_of_cons hq he]

theorem asyncComplete_remote {o : RemOp}
    (ho : (s.rod (s.phys l)).rem.find? (fun x => x.kind == .suppressed && !(s.rod (s.phys l)).olderSame x) = some o) :
    exec (.asyncComplete l .remote) s =
      .next ((s.setRod (s.phys l) (((s.rod (s.phys l)).dropRem o.tag).countOpt o.cnt)).startUnits l) := by
  change execAsyncComplete l .remote s = _
  simp only [execAsyncComplete, hl, if_true, State.onRod, Rod.popSuppressed_of_find ho]

end

/-! ### REMOTE_RESPONSE and REMOTE_TIMEOUT -/

section
variable {s : State} {l : Fin 512} {tag d : Nat} {o : RemOp}
  (hf : (s.rod (s.phys l)).rem.find? (fun x => decide (x.tag = tag)) = some o)
include hf

/-- A fatal response to the operation found (R142). -/
theorem State.remFail_of_find (resp : Nat) : s.remFail (s.phys l) o resp =
    s.setRod (s.phys l) (((s.rod (s.phys l)).dropRem tag).raise ⟨0x07, o.pc, o.word, o.ord, resp, o.addr⟩) := by
  have htag : o.tag = tag := by simpa using List.find?_some hf
  rw [← htag]
  rfl

/-- A report of another response than the operation's is none (log entry 3). -/
theorem remoteResponse_other (hd : o.done = some d) {n : Nat} (hn : n ≠ d) : exec (.remoteResponse l tag n) s = .next s := by
  change execRemoteResponse l tag n s = _
  simp only [execRemoteResponse, hf, hd, hn, ne_eq, not_false_eq_true, decide_true, Bool.or_true, if_true]

theorem remoteTimeout_exec (hl : s.live = true) : exec (.remoteTimeout l tag) s = .next (if o.kind.toTarget = true ∧ s.stalled = false then
    s.setRod (s.phys l) (((s.rod (s.phys l)).dropRem tag).raise ⟨0x07, o.pc, o.word, o.ord, 6, o.addr⟩) else s) := by
  change execRemoteTimeout l tag s = _
  simp only [execRemoteTimeout, hf, State.remFail_of_find hf]
  exact congrArg Host.Outcome.next (if_congr (by simp [hl, and_comm]) rfl rfl)

end

section
variable {s : State} {l : Fin 512} {tag d : Nat} {o : RemOp} (hl : s.live = true)
  (hf : (s.rod (s.phys l)).rem.find? (fun x => decide (x.tag = tag)) = some o) (hd : o.done = some d)
include hl hf hd

theorem remoteResponse_get (hk : o.kind = .get) : exec (.remoteResponse l tag d) s = .next (
    if (s.rod (s.phys l)).olderTouches o = true then s
    else if d = 0 ∨ d = 4 then (s.deliver ((s.partOf l).getD 16) (s.phys l) o).onRod (s.phys l) (fun r => (r.dropRem tag).countOpt o.cnt)
    else s.remFail (s.phys l) o d) := by
  change execRemoteResponse l tag d s = _
  simp [execRemoteResponse, hl, hf, hd, hk]

theorem remoteResponse_put (hk : o.kind = .put) : exec (.remoteResponse l tag d) s = .next (
    if d = 0 ∨ d = 4 then s.onRod (s.phys l) (fun r => (r.dropRem tag).countOpt o.cnt) else s.remFail (s.phys l) o d) := by
  change execRemoteResponse l tag d s = _
  simp [execRemoteResponse, hl, hf, hd, hk]

theorem remoteResponse_taddR (hk : o.kind = .taddR) : exec (.remoteResponse l tag d) s = .next (
    if d = 0 then s.onRod (s.phys l) (fun r => (r.dropRem tag).countOpt o.cnt) else s.remFail (s.phys l) o d) := by
  change execRemoteResponse l tag d s = _
  simp [execRemoteResponse, hl, hf, hd, hk]

/-- An atomic's old value reaches its register (R114). -/
theorem remoteResponse_atom {op : AtomOp} {w : Nat} (hk : o.kind = .atom op w) : exec (.remoteResponse l tag d) s = .next (
    if d = 0 then s.onRod (s.phys l) (fun r => ((r.dropRem tag).sset o.dest (oldValue w o.old)).countOpt o.cnt)
    else s.remFail (s.phys l) o d) := by
  change execRemoteResponse l tag d s = _
  simp [execRemoteResponse, hl, hf, hd, hk]

end

/-- Settles O21: each command by its own equation. That a ready instruction of a local unit takes all of its effect as its unit starts it
is a deduced reading (log entry 4). -/
theorem rodFencesAndCompletions : Obligations.RodFencesAndCompletions := by
  refine ⟨fun s l c k cnt => fence_exec, ?fence, fun s l c i u cnt h hi hu => ⟨localCommand_starts h hi hu, localCommand_waits h hi hu⟩,
    fun s l u e q hl => asyncComplete_local hl, fun s l o hl => asyncComplete_remote hl, ?start, ?response, ?timeout⟩
  case fence =>
    intro s l k cnt tags r hl hi free
    rw [fenceComplete_exec hl hi]
    exact ⟨fun h => by rw [if_pos h], fun h => by rw [if_neg h]⟩
  case start =>
    intro s l u e q p r c hq hp hs hn
    rw [State.startHead_of_waiting hq hp hs hn]
    refine ⟨fun hr hrep hst hc => if_pos ⟨hr, hrep, hst, hc⟩, fun h => if_neg ?_⟩
    rintro ⟨hr, hrep, hst, hc⟩
    obtain h | h | h | h := h
    · exact h hr
    · exact Bool.noConfusion (hrep.symm.trans h)
    · exact h hst
    · exact Bool.noConfusion (hc.symm.trans h)
  case response =>
    intro s l tag d o r hl hf hd
    rw [← State.remFail_of_find hf d]
    exact ⟨remoteResponse_get hl hf hd, remoteResponse_put hl hf hd, remoteResponse_taddR hl hf hd, fun op w => remoteResponse_atom hl hf hd,
      fun n => remoteResponse_other hf hd⟩
  case timeout =>
    intro s l tag o r hl hf
    rw [remoteTimeout_exec hf hl]
    exact ⟨fun hk hs => by rw [if_pos ⟨hk, hs⟩], fun h => by rw [if_neg (by simpa [imp_iff_not_or] using h)]⟩

end Sys2Proof.Machine
end

section
/-! Remote operations at their targets (06_remote_memory.md R124 to R142, 14_exfe_fabric.md R309): what a store in bead memory writes, the
operations of the block's rods, and those of peers. -/

namespace Sys2Proof.Machine

/-! ### The operation that arrives -/

section
variable {s : State} {l tag p : Nat} {sel : RemKind → Bool} {o : RemOp}

/-- Which kinds a row takes is a condition of its own on the operation that arrives. -/
theorem State.arriving_filter (s : State) (l tag : Nat) (sel : RemKind → Bool) :
    s.arriving l tag sel = (s.arriving l tag (fun _ => true)).filter (fun x => sel x.2.kind) := by
  unfold State.arriving
  dsimp only
  split
  next p o _ _ =>
    cases hs : sel o.kind
    all_goals
      simp only [Bool.and_true, Bool.and_false, Bool.false_and, Bool.false_eq_true, if_false]
      split
      · simp [Option.filter, hs]
      · rfl
  next => rfl

theorem State.arriving_kind (h : s.arriving l tag sel = some (p, o)) : sel o.kind = true := by
  rw [State.arriving_filter, Option.filter_eq_some_iff] at h
  exact h.2

/-- An operation that arrives at one row arrives at every row that takes its kind. -/
theorem State.arriving_of_kind {sel' : RemKind → Bool} (h : s.arriving l tag sel = some (p, o)) (hk : sel' o.kind = true) :
    s.arriving l tag sel' = some (p, o) := by
  rw [State.arriving_filter, Option.filter_eq_some_iff] at h
  rw [State.arriving_filter, Option.filter_eq_some_iff]
  exact ⟨h.1, hk⟩

end

/-! ### What the target permits -/

section
variable {s : State} {p k : Nat} (off : Nat)

theorem State.rodPermits_bead_own (h : s.partOf k = some p) : s.rodPermits p (.bead k off) = 0 := if_pos h

theorem State.rodPermits_bead_foreign (h : s.partOf k ≠ some p) : s.rodPermits p (.bead k off) = 2 := if_neg h

end

/-! ### A store in bead memory -/

/-- Bytes have been stored in bead memory at `a`: of the rest, HBM, the rods and their places are as they were. -/
structure BeadStored (s t : State) (a : Nat) (bs : List Byte) : Prop where
  bead : t.bead = s.bead.writeN a bs
  hbm : t.hbm = s.hbm
  rods : t.rods = s.rods
  phys : ∀ k, t.phys k = s.phys k

/-- The bytes reach bead memory of a rod below the system area; the response is 4 where a granule covered in part is poisoned (R142). -/
theorem State.writeAt_bead (s : State) (q k off : Nat) (bs : List Byte) (h : off + bs.length ≤ 0x3F0000) :
    ∃ t, s.writeAt q (.bead k off) bs = (if s.beadWriteMeets (s.phys k) off bs.length = true then 4 else 0, t) ∧
      BeadStored s t (2 ^ 22 * s.phys k + off) bs := by
  unfold State.writeAt
  dsimp only
  rw [if_neg (Nat.not_lt.mpr h)]
  split
  · obtain ⟨regs, w, hc⟩ := State.countPoison_spec (s.beadWrite (s.phys k) off bs) q (1 + s.phys k)
    exact ⟨_, rfl, by rw [hc]; exact ⟨rfl, rfl, rfl, fun _ => rfl⟩⟩
  · exact ⟨_, rfl, rfl, rfl, rfl, fun _ => rfl⟩

/-- The answer to the operation is noted in its rod, whatever memory has changed before. -/
theorem BeadStored.answer {s t : State} {a : Nat} {bs : List Byte} (h : BeadStored s t a bs) (l tag : Nat) (f : RemOp → RemOp) :
    (t.answer l tag f).bead = s.bead.writeN a bs ∧ (t.answer l tag f).hbm = s.hbm ∧ (t.answer l tag f).rods = (s.answer l tag f).rods := by
  refine ⟨h.bead, h.hbm, ?_⟩
  simp only [State.answer, State.onRod, State.setRod, State.rod, h.phys, h.rods]

/-- An atomic at clean bead memory below the system area: the old value, and the store of the new one (R114). -/
theorem State.atomAt_bead {s : State} {q k off w : Nat} {op : AtomOp} {b c old : W64} (h : off + atomSize w ≤ 0x3F0000)
    (hbad : s.beadParts (s.phys k) off (atomSize w) = [])
    (hold : w64 (leNat (s.bead.readN (2 ^ 22 * s.phys k + off) (atomSize w))) = old) :
    s.atomAt q (.bead k off) op w b c =
      (0, old, (s.writeAt q (.bead k off) (leBytes (atomSize w) (atomNew op w old b c).toNat)).2) := by
  subst hold
  simp only [State.atomAt, State.readAt, hbad, h]
  rfl

/-! ### Operations of the block's rods -/

section
variable {s : State} {l : Fin 512} {tag p k off : Nat} {o : RemOp}

theorem rodGet_bead (h : s.arriving l tag (fun x => x == .get) = some (p, o)) (ht : s.target (some p) o.addr o.len = .bead k off) :
    s.rodGet l tag = s.answer l tag (fun x => if s.partOf k = some p then
      { x with done := some 0, data := s.bead.readN (2 ^ 22 * s.phys k + off) o.len, poison := s.beadParts (s.phys k) off o.len, scope := 3 }
      else { x with done := some 2, scope := 1 }) := by
  by_cases hp : s.partOf k = some p
  · simp only [State.rodGet, h, ht, State.rodPermits_bead_own off hp, hp, if_true]
    rfl
  · simp only [State.rodGet, h, ht, State.rodPermits_bead_foreign off hp, hp, if_false]
    rfl

theorem rodPut_foreign (h : s.arriving l tag (fun x => x == .put) = some (p, o)) (ht : s.target (some p) o.addr o.len = .bead k off)
    (hp : s.partOf k ≠ some p) : s.rodPut l tag = s.answer l tag (fun x => { x with done := some 2, scope := 1 }) := by
  simp only [State.rodPut, h, ht, State.rodPermits_bead_foreign off hp]
  rfl

/-- A PUT that its target permits is what the store there makes of it. -/
theorem rodPut_permitted {t : Target} (h : s.arriving l tag (fun x => x == .put) = some (p, o)) (ht : s.target (some p) o.addr o.len = t)
    (hp : s.rodPermits p t = 0) : s.rodPut l tag =
      (s.writeAt p t o.data).2.answer l tag (fun x => { x with done := some (s.writeAt p t o.data).1, scope := 1 }) := by
  simp only [State.rodPut, h, ht, hp]
  rfl

theorem rodAtomic_permitted {t : Target} {op : AtomOp} {w : Nat} (h : s.arriving l tag (fun x => x == .atom op w) = some (p, o))
    (ht : s.target (some p) o.addr (atomSize w) = t) (hp : s.rodPermits p t = 0) :
    s.rodAtomic l tag = (s.atomAt p t op w o.b o.c).2.2.answer l tag (fun x => { x with
      done := some (s.atomAt p t op w o.b o.c).1, old := (s.atomAt p t op w o.b o.c).2.1, scope := 1 }) := by
  have hk : o.kind = .atom op w := by simpa using State.arriving_kind h
  rw [State.rodAtomic, State.arriving_of_kind h (by rw [hk])]
  simp only [hk, ht, hp]
  rfl

/-- The pages of a range refuse a GET (R126, R267). -/
theorem rodGet_range {q a : Nat} (h : s.arriving l tag (fun x => x == .get) = some (p, o))
    (ht : s.target (some p) o.addr o.len = .range q a) (hr : s.rangeResp q false (pageSpans a o.len) ≠ 0) :
    s.rodGet l tag = (s.answer l tag (fun x => { x with
      done := some (s.rangeResp q false (pageSpans a o.len)), scope := 1 })).countBad p (pageSpans a o.len) := by
  simp only [State.rodGet, h, ht, State.rodPermits, State.readAt, if_pos hr]
  rfl

theorem State.writeAt_range_refused {q a : Nat} {bs : List Byte} (hr : s.rangeResp q true (pageSpans a bs.length) ≠ 0) :
    s.writeAt p (.range q a) bs = (s.rangeResp q true (pageSpans a bs.length), s.countBad q (pageSpans a bs.length)) := by
  simp only [State.writeAt, if_pos hr]

/-- They refuse a PUT. -/
theorem rodPut_range {q a : Nat} (h : s.arriving l tag (fun x => x == .put) = some (p, o))
    (ht : s.target (some p) o.addr o.len = .range q a) (hr : s.rangeResp q true (pageSpans a o.data.length) ≠ 0) :
    s.rodPut l tag = (s.countBad q (pageSpans a o.data.length)).answer l tag (fun x => { x with
      done := some (s.rangeResp q true (pageSpans a o.data.length)), scope := 1 }) := by
  rw [rodPut_permitted h ht rfl, State.writeAt_range_refused hr]

theorem rodTally_counter {c : Nat} (h : s.arriving l tag (fun x => x == .taddR) = some (p, o))
    (ht : s.target (some p) o.addr 4 = .counter k c) :
    s.rodTally l tag =
      if c ≥ 14 then s.answer l tag (fun x => { x with done := some (if k = l then 2 else 7) })
      else if s.partOf k = some p then
        (s.setRod (s.phys k) ((s.rod (s.phys k)).addCnt c (o.b.setWidth 32))).answer l tag (fun x => { x with done := some 0 })
      else s.answer l tag (fun x => { x with done := some 2 }) := by
  simp only [State.rodTally, h, ht, ne_eq, ite_not]
  rfl

end

/-! ### Operations of peers -/

/-- A counter is admitted by a window of its space (R128). -/
theorem State.peerCheck_counter {s : State} {r : PeerReq} {k c : Nat} (ht : s.peerTarget r.flit.addr 4 = .counter k c) :
    s.peerCheck r 4 11 = 0 ↔ s.exported 2 (r.flit.addr % 2 ^ 48) 4 r.src r.flit.part 11 = true := by
  have hcheck : s.peerCheck r 4 11 = if s.exported 2 (r.flit.addr % 2 ^ 48) 4 r.src r.flit.part 11 then 0 else 2 := by
    simp only [State.peerCheck, ht]
    rfl
  rw [hcheck]
  split
  next hw => exact iff_of_true rfl hw
  next hw => exact iff_of_false (by decide) hw

section
variable {s s1 : State} {port : Fin 8} {r : PeerReq} {sel : Nat → Bool} (h : s.takeRequest port sel = some (r, s1)) (hl : s.live = true)
include h hl

/-- The request taken is performed in the state without it. -/
theorem State.peerServe_taken (f : PeerReq → State → State) : s.peerServe port sel f = f r s1 := by
  simp only [State.peerServe, h, hl, if_true]

end

section
variable {s s1 : State} {port : Fin 8} {r : PeerReq} (hl : s.live = true)
include hl

theorem peerGet_refused (h : s.takeRequest port (fun op => op == 1) = some (r, s1)) (he : s1.peerCheck r r.flit.len 8 ≠ 0) :
    s.peerGet port = s1.peerReply port r.flit 8 1 (s1.peerCheck r r.flit.len 8) 0 [] := by
  rw [State.peerGet, State.peerServe_taken h hl, if_pos he]

theorem peerGet_admitted (h : s.takeRequest port (fun op => op == 1) = some (r, s1)) (he : s1.peerCheck r r.flit.len 8 = 0)
    {data : List Byte} {bad : List (Nat × Nat)} (hd : s1.readAt (s1.peerTarget r.flit.addr r.flit.len) r.flit.len = .ok (data, bad)) :
    s.peerGet port = s1.peerReply port r.flit 9 r.flit.len (if bad = [] then 0 else 4) 0 data := by
  rw [State.peerGet, State.peerServe_taken h hl, if_neg (not_not.mpr he)]
  simp only [hd, List.isEmpty_iff]

theorem peerPut_refused (h : s.takeRequest port (fun op => op == 2) = some (r, s1)) (he : s1.peerCheck r r.flit.len 9 ≠ 0) :
    s.peerPut port = s1.peerReply port r.flit 8 1 (s1.peerCheck r r.flit.len 9) 0 [] := by
  rw [State.peerPut, State.peerServe_taken h hl, if_pos he]

theorem peerPut_admitted (h : s.takeRequest port (fun op => op == 2) = some (r, s1)) (he : s1.peerCheck r r.flit.len 9 = 0) :
    let x := s1.writeAt r.flit.part (s1.peerTarget r.flit.addr r.flit.len) (r.flit.data.take r.flit.len)
    s.peerPut port = x.2.peerReply port r.flit 8 1 x.1 0 [] := by
  rw [State.peerPut, State.peerServe_taken h hl, if_neg (not_not.mpr he)]

theorem peerTally_counter {k c : Nat} (h : s.takeRequest port (fun op => op == 7) = some (r, s1))
    (ht : s1.peerTarget r.flit.addr 4 = .counter k c) :
    s.peerTally port =
      if c ≥ 14 then s1.peerReply port r.flit 8 1 7 0 []
      else if s1.exported 2 (r.flit.addr % 2 ^ 48) 4 r.src r.flit.part 11 = true then
        (s1.setRod (s1.phys k) ((s1.rod (s1.phys k)).addCnt c (r.flit.w2.setWidth 32))).peerReply port r.flit 8 1 0 0 []
      else s1.peerReply port r.flit 8 1 2 0 [] := by
  rw [State.peerTally, State.peerServe_taken h hl]
  simp only [ht, ne_eq, ite_not, State.peerCheck_counter ht]
  rfl

end

/-- Settles O23: what each kind of operation does in bead memory, in a range whose pages refuse it, and at a counter; then what each does
for a peer. That all of an operation is performed in its one arrival is the model's choice (log entry 26). That the checks come in the
order ADDRESS, ACCESS is a deduced reading (log entry 18), and so is that RESERVED_COUNTER comes before them and is drawn by another
rod's c14 and c15 only, the rod's own drawing ACCESS (log entry 31). -/
theorem remoteOperationsAtTheirTargets : Obligations.RemoteOperationsAtTheirTargets := by
  refine ⟨fun s l tag p k off o h ht => congrArg Host.Outcome.next (rodGet_bead h ht), ?put, ?range, ?atom,
    fun s l tag p k c o h ht => congrArg Host.Outcome.next (rodTally_counter h ht), ?peerGet, ?peerPut,
    fun s s1 port r k c h hl ht => congrArg Host.Outcome.next (peerTally_counter hl h ht)⟩
  case put =>
    intro s l tag p k off o h ht
    refine ⟨fun hp => congrArg Host.Outcome.next (rodPut_foreign h ht hp), fun hp hlen => ?_⟩
    obtain ⟨t, hw, hst⟩ := s.writeAt_bead p k off o.data hlen
    refine ⟨_, congrArg Host.Outcome.next (rodPut_permitted h ht (State.rodPermits_bead_own off hp)), ?_⟩
    rw [hw]
    exact hst.answer l tag _
  case range =>
    intro s l tag p q a o ht
    exact ⟨fun h hr => congrArg Host.Outcome.next (rodGet_range h ht hr), fun h hr => congrArg Host.Outcome.next (rodPut_range h ht hr)⟩
  case atom =>
    intro s l tag p k off w op o h ht hp hlen hbad old
    obtain ⟨t, hw, hst⟩ := s.writeAt_bead p k off (leBytes (atomSize w) (atomNew op w old o.b o.c).toNat) (by rwa [leBytes_length])
    refine ⟨_, congrArg Host.Outcome.next (rodAtomic_permitted h ht (State.rodPermits_bead_own off hp)), ?_⟩
    rw [State.atomAt_bead hlen hbad rfl, hw]
    obtain ⟨hbead, -, hrods⟩ := hst.answer l tag (fun x => { x with done := some 0, old := old, scope := 1 })
    exact ⟨hbead, hrods⟩
  case peerGet =>
    intro s s1 port r h hl
    exact ⟨fun he => congrArg Host.Outcome.next (peerGet_refused hl h he),
      fun he data bad hd => congrArg Host.Outcome.next (peerGet_admitted hl h he hd)⟩
  case peerPut =>
    intro s s1 port r h hl
    exact ⟨fun he => congrArg Host.Outcome.next (peerPut_refused hl h he),
      fun he => ⟨_, _, rfl, congrArg Host.Outcome.next (peerPut_admitted hl h he)⟩⟩

end Sys2Proof.Machine
end

section
/-! PROOF. The carry unit (07_adapters.md R150 to R160): the checks of its five functions, and what any act of the unit leaves alone. -/

namespace Sys2Proof.Machine

/-! ### Lists of words and their bytes -/

theorem leNat_leBytes : ∀ n v : Nat, leNat (leBytes n v) = v % 256 ^ n
  | 0, v => (Nat.mod_one v).symm
  | n + 1, v => by
    rw [leBytes, leNat, leNat_leBytes n, BitVec.toNat_ofNat, pow_succ' 256, Nat.mod_mul]

theorem lanesOf_vbytes : ∀ l : List W32, lanesOf l.length (vbytes l) = l
  | [] => rfl
  | x :: l => by
    have hx : BitVec.ofNat 32 (leNat (leBytes 4 x.toNat)) = x := by
      rw [leNat_leBytes, Nat.mod_eq_of_lt (lt_of_lt_of_eq x.isLt (by norm_num)), BitVec.ofNat_toNat, BitVec.setWidth_eq]
    have hl : (leBytes 4 x.toNat).length = 4 := leBytes_length 4 _
    rw [List.length_cons, lanesOf, vbytes, List.flatMap_cons, List.take_left' hl, List.drop_left' hl, hx]
    exact congrArg (x :: ·) (lanesOf_vbytes l)

/-- Word n of a run of words as it stands in memory. -/
theorem Memory.read32_of_vbytes {m : Memory} {a : Nat} {l : List W32} (h : m.readN a (vbytes l).length = vbytes l) {n : Nat}
    (hn : n < l.length) : m.read32 (a + 4 * n) = nth 0 l n := by
  have hlen := vbytes_length l
  have hw := lanesOf_nth l.length n (vbytes l) hn
  rw [lanesOf_vbytes] at hw
  rw [hw, ← h, readN_sub _ _ _ _ _ (by omega), Memory.read32]

/-- Element i of block k where every block has n elements. -/
theorem nth_flatMap {α β : Type} (d : α) (e : β) {f : α → List β} {n i : Nat} (hi : i < n) :
    ∀ (l : List α) (k : Nat), (∀ x ∈ l, (f x).length = n) → k < l.length → nth e (l.flatMap f) (n * k + i) = nth e (f (nth d l k)) i
  | [], _, _, hk => absurd hk (Nat.not_lt_zero _)
  | x :: l, 0, hl, _ => by
    have hx : (f x).length = n := hl x List.mem_cons_self
    rw [List.flatMap_cons, nth, nth_eq_getD, nth_eq_getD, Nat.mul_zero, Nat.zero_add, List.getElem?_append_left (by rwa [hx])]
  | x :: l, k + 1, hl, hk => by
    have hx : (f x).length = n := hl x List.mem_cons_self
    have ih := nth_flatMap d e hi l k (fun y hy => hl y (List.mem_cons_of_mem _ hy)) (Nat.lt_of_succ_lt_succ hk)
    rw [nth, ← ih, List.flatMap_cons, nth_eq_getD, nth_eq_getD, List.getElem?_append_right (by rw [hx, Nat.mul_succ]; omega), hx,
      Nat.mul_succ, show n * k + n + i - n = n * k + i by omega]

theorem length_flatMap_const {α β : Type} {f : α → List β} {n : Nat} : ∀ l : List α, (∀ x ∈ l, (f x).length = n) →
    (l.flatMap f).length = n * l.length
  | [], _ => rfl
  | x :: l, hl => by
    rw [List.flatMap_cons, List.length_append, hl x List.mem_cons_self, List.length_cons, Nat.mul_succ, Nat.add_comm,
      length_flatMap_const l fun y hy => hl y (List.mem_cons_of_mem _ hy)]

/-! ### The rows of the tile -/

/-- Row m as a carry function meets it (R157). -/
def State.carryRow (s : State) (ph m : Nat) : CRow :=
  let e := nth 0 (s.rod ph).rowMap (m + 2)
  let h := if entMapped e then s.bead.readWords (2 ^ 22 * ph + entAddr e) 4 else []
  ⟨m, rowClass (s.rod ph).rowMap e h, entAddr e, h⟩

theorem State.carryRows_eq (s : State) (ph : Nat) : s.carryRows ph = (List.range 16).map (s.carryRow ph) := rfl

theorem State.carryRows_nth (s : State) (ph : Nat) {m : Nat} (hm : m < 16) :
    nth ⟨0, .bare, 0, []⟩ (s.carryRows ph) m = s.carryRow ph m := nth_tab _ (s.carryRow ph) 16 m hm

theorem State.carryRow_of_mem {s : State} {ph : Nat} {x : CRow} (h : x ∈ s.carryRows ph) : x = s.carryRow ph x.m ∧ x.m < 16 := by
  rw [State.carryRows_eq, List.mem_map] at h
  obtain ⟨m, hm, rfl⟩ := h
  exact ⟨rfl, List.mem_range.mp hm⟩

/-- Without a map in force no row has an adapter (R111). -/
theorem State.carryRow_bare {s : State} {ph : Nat} (h : (s.rod ph).rowMap = []) (m : Nat) : (s.carryRow ph m).cls = .bare := by
  have he : entMapped (nth 0 ([] : List W64) (m + 2)) = false := by rw [nth_nil]; rfl
  simp only [State.carryRow, h, rowClass, he]
  rfl

section
variable (s : State) (c : Ctx)

@[simp] theorem adv_rowMap : ((s.advance c).rod c.ph).rowMap = (s.rod c.ph).rowMap := by rw [adv_rod]

@[simp] theorem adv_carryRows : (s.advance c).carryRows c.ph = s.carryRows c.ph := by
  simp only [State.carryRows, adv_rowMap]
  rfl

@[simp] theorem adv_carryCheck (ph : Nat) (reads writes : List (Nat × Nat)) (mis : Bool) :
    (s.advance c).carryCheck ph reads writes mis = s.carryCheck ph reads writes mis := rfl

end

/-! ### The checks -/

/-- Of one operand that is only read: BEAD_RANGE, MISALIGNED, POISON. -/
theorem State.carryCheck_read (s : State) (ph a n : Nat) (hn : 0 < n) (mis : Prop) [Decidable mis] :
    s.carryCheck ph [(a, n)] [] (decide mis) =
      if a + n > 2 ^ 22 then 0x06 else if mis then 0x03 else if s.beadRangeBad ph a n = true then 0x08 else 0 := by
  have hfar : (decide (a + n > 0x400000) || decide (a ≥ 0x400000)) = decide (a + n > 2 ^ 22) := by
    rw [← Bool.decide_or]
    exact decide_eq_decide.mpr (by omega)
  simp only [State.carryCheck, List.append_nil, List.any_cons, List.any_nil, Bool.or_false, hfar, decide_eq_true_eq]
  rfl

/-- What a carry function that passes its checks writes lies below the system area. -/
theorem State.carryCheck_writes {s : State} {ph : Nat} {reads writes : List (Nat × Nat)} {mis : Bool}
    (h : s.carryCheck ph reads writes mis = 0) {x : Nat × Nat} (hx : x ∈ writes) (h0 : x.2 ≠ 0) : x.1 + x.2 ≤ 0x3F0000 := by
  unfold State.carryCheck at h
  by_contra hfar
  have hany : writes.any (fun x => decide (x.2 ≠ 0) && decide (x.1 + x.2 > 0x3F0000)) = true :=
    List.any_eq_true.mpr ⟨x, hx, by simpa using ⟨h0, Nat.lt_of_not_le hfar⟩⟩
  rw [if_pos hany] at h
  split at h
  · exact absurd h (by decide)
  · split at h <;> exact absurd h (by decide)

/-! ### What the acts of the carry unit leave alone -/

/-- Of a rod, the carry unit keeps all but accumulators and row map; other units' queued instructions at most note its writes (R123). -/
structure Rod.CarryKept (r q : Rod) : Prop where
  s : q.s = r.s
  p : q.p = r.p
  c : q.c = r.c
  v : q.v = r.v
  astat : q.astat = r.astat
  pc : q.pc = r.pc
  mq : q.mq.map AEntry.noClash = r.mq.map AEntry.noClash
  vq : q.vq.map AEntry.noClash = r.vq.map AEntry.noClash
  cq : q.cq = r.cq

theorem Rod.CarryKept.trans {r q x : Rod} (h : r.CarryKept q) (k : q.CarryKept x) : r.CarryKept x :=
  ⟨k.s.trans h.s, k.p.trans h.p, k.c.trans h.c, k.v.trans h.v, k.astat.trans h.astat, k.pc.trans h.pc, k.mq.trans h.mq,
    k.vq.trans h.vq, k.cq.trans h.cq⟩

/-- From `s` to `t` the carry unit of rod `ph` has acted, writing no byte but of its status record (R160) and the ranges `w`. -/
structure CarryActed (s t : State) (ph : Nat) (w : List (Nat × Nat)) : Prop where
  state : t = { s with rods := t.rods, bead := t.bead, beadPoison := t.beadPoison, regs := t.regs, flt := t.flt, free := t.free }
  others : ∀ k, k ≠ ph → t.rod k = s.rod k
  rod : (s.rod ph).CarryKept (t.rod ph)
  bytes : ∀ x, (x < 2 ^ 22 * ph + 0x3F0100 ∨ 2 ^ 22 * ph + 0x3F0140 ≤ x) →
    (∀ r ∈ w, x < 2 ^ 22 * ph + r.1 ∨ 2 ^ 22 * ph + r.1 + r.2 ≤ x) → t.bead.read1 x = s.bead.read1 x

section
variable {s t u : State} {ph : Nat} {w w' : List (Nat × Nat)}

theorem CarryActed.refl (s : State) (ph : Nat) (w : List (Nat × Nat)) : CarryActed s s ph w :=
  ⟨rfl, fun _ _ => rfl, ⟨rfl, rfl, rfl, rfl, rfl, rfl, rfl, rfl, rfl⟩, fun _ _ _ => rfl⟩

theorem CarryActed.trans (h : CarryActed s t ph w) (k : CarryActed t u ph w) : CarryActed s u ph w := by
  refine ⟨?_, fun j hj => (k.others j hj).trans (h.others j hj), h.rod.trans k.rod,
    fun x hs hw => (k.bytes x hs hw).trans (h.bytes x hs hw)⟩
  have hu := k.state
  rw [h.state] at hu
  exact hu

theorem CarryActed.mono (h : CarryActed s t ph w) (hw : ∀ r ∈ w, r ∈ w') : CarryActed s t ph w' :=
  ⟨h.state, h.others, h.rod, fun x hs hx => h.bytes x hs fun r hr => hx r (hw r hr)⟩

/-- An act on accumulators or row map only. -/
theorem CarryActed.of_rod {f : Rod → Rod} (hf : (s.rod ph).CarryKept (f (s.rod ph))) : CarryActed s (s.onRod ph f) ph w :=
  ⟨rfl, fun _ hk => State.rod_onRod_ne _ _ hk, by rwa [State.onRod, State.rod_setRod], fun _ _ _ => rfl⟩

end

/-! ### The status record and the counters -/

/-- From `s` to `t` only counters and the carry status record of rod `ph` have changed. -/
structure StatusWritten (s t : State) (ph : Nat) : Prop where
  state : t = { s with bead := t.bead, beadPoison := t.beadPoison, regs := t.regs }
  bytes : ∀ x, (x < 2 ^ 22 * ph + 0x3F0100 ∨ 2 ^ 22 * ph + 0x3F0140 ≤ x) → t.bead.read1 x = s.bead.read1 x

section
variable {s t u : State} {ph : Nat}

theorem StatusWritten.refl (s : State) (ph : Nat) : StatusWritten s s ph := ⟨rfl, fun _ _ => rfl⟩

theorem StatusWritten.trans (h : StatusWritten s t ph) (k : StatusWritten t u ph) : StatusWritten s u ph := by
  refine ⟨?_, fun x hx => (k.bytes x hx).trans (h.bytes x hx)⟩
  have hu := k.state
  rw [h.state] at hu
  exact hu

theorem StatusWritten.rods (h : StatusWritten s t ph) : t.rods = s.rods := by rw [h.state]

theorem StatusWritten.rod (h : StatusWritten s t ph) (k : Nat) : t.rod k = s.rod k := congrArg (Sparse.get Rod.init · k) h.rods

theorem StatusWritten.acted (h : StatusWritten s t ph) (w : List (Nat × Nat)) : CarryActed s t ph w := by
  refine ⟨?_, fun k _ => h.rod k, ?_, fun x hs _ => h.bytes x hs⟩
  · rw [h.state]
  · rw [h.rod]
    exact ⟨rfl, rfl, rfl, rfl, rfl, rfl, rfl, rfl, rfl⟩

/-- The record has eight words. -/
theorem State.carryPut_written (s : State) (ph : Nat) {n : Nat} (hn : n < 8) (v : W64) : StatusWritten s (s.carryPut ph n v) ph := by
  refine ⟨rfl, fun x hx => ?_⟩
  rw [State.carryPut, State.beadWrite_bead, Memory.read1_writeN_out]
  rw [leBytes_length, carryStatus]
  omega

theorem State.carryAdd_written (s : State) (ph : Nat) {n : Nat} (hn : n < 8) (k : Nat) : StatusWritten s (s.carryAdd ph n k) ph := by
  unfold State.carryAdd
  split
  · exact .refl s ph
  · exact s.carryPut_written ph hn _

theorem State.bump_written (s : State) (ph o n : Nat) : StatusWritten s (s.bump o n) ph := by
  obtain ⟨regs, hb⟩ := s.bump_spec o n
  rw [hb]
  exact ⟨rfl, fun _ _ => rfl⟩

theorem State.carryCount_written (s : State) (c : Ctx) (rows : List CRow) (act : RowClass) {n : Nat} (hn : n < 8) :
    StatusWritten s (s.carryCount c rows act n) c.ph := by
  have hbad := (s.carryAdd_written c.ph (n := 0) (by decide) (rows.filter (fun r => r.cls = .malformed)).length).trans
    (State.bump_written _ c.ph (cntPart c.p 9) (rows.filter (fun r => r.cls = .malformed)).length)
  unfold State.carryCount
  dsimp only
  split
  · exact hbad
  · exact hbad.trans (State.carryAdd_written _ c.ph hn _)

end

/-! ### A carry instruction that is ready -/

theorem carry_unit {c : Ctx} {f t a b : Nat} {cnt : Option Nat} (ho : c.op = .carry f t a b cnt) : c.op.unit = some (.carry, cnt) := by
  rw [ho]
  rfl

/-- Standing in the queue changes neither accumulators nor row map nor memory nor counters. -/
theorem State.vdone_carry {u : State} {c : Ctx} {cnt : Option Nat} (hu : c.op.unit = some (.carry, cnt)) (w : List (Nat × Nat)) :
    ((u.vdone c w).rod c.ph).t = (u.rod c.ph).t ∧ ((u.vdone c w).rod c.ph).rowMap = (u.rod c.ph).rowMap ∧
      (u.vdone c w).bead = u.bead ∧ (u.vdone c w).regs = u.regs := by
  unfold State.vdone
  rw [hu]
  dsimp only [State.begun, State.onRod]
  rw [State.rod_setRod]
  exact ⟨rfl, rfl, rfl, rfl⟩

section
variable {s : State} {l : Fin 512} {c : Ctx} {f t a b : Nat} {cnt : Option Nat} (h : s.readyOp l = some c)
  (ho : c.op = .carry f t a b cnt)
include h ho

/-- It is the act of its function on the state past it. -/
theorem carry_ready : Host.Outcome.next (s.issueUnit l (isCarry f) (fun c s => s.carryFn c)) =
    (.next ((s.advance c).carryFn c) : Res) :=
  next_of_unit_ready h (by rw [ho]; exact beq_self_eq_true f) (carry_unit ho) (by decide) rfl

/-- What a carry function that has acted leaves, once it stands in its unit's queue. -/
theorem CarryActed.done {u : State} {w : List (Nat × Nat)} (hu : CarryActed (s.advance c) u c.ph w) : CarryDone s (u.vdone c w) c cnt w := by
  have hd : u.vdone c w = u.onRod c.ph (fun r => { r with cq := c.entry cnt w :: r.cq }) := by
    unfold State.vdone
    rw [carry_unit ho]
    rfl
  have hr : (u.vdone c w).rod c.ph = { u.rod c.ph with cq := c.entry cnt w :: (u.rod c.ph).cq } := by
    rw [hd, State.onRod, State.rod_setRod]
  obtain ⟨hs, hp, hc, hv, ha, hpc, hmq, hvq, hcq⟩ := hu.rod
  have hq : (s.rod c.ph).cq = [] := ready_empty h (carry_unit ho) (by decide)
  rw [adv_rod] at hs hp hc hv ha hpc hmq hvq hcq
  refine ⟨?_, fun k hk => ?_, ?_, ?_, ?_, ?_⟩
  · rw [hd, hu.state]
    rfl
  · rw [hd, State.rod_onRod_ne _ _ hk, hu.others k hk, adv_rod_ne _ _ _ hk]
  · rw [hr]
    exact hpc
  · rw [hr, hcq, hq]
    rfl
  · rw [hr]
    exact ⟨hs, hp, hc, hv, ha, hmq, hvq⟩
  · rw [hd]
    exact hu.bytes

end

end Sys2Proof.Machine
end

section
/-! PROOF. CARRY.MAP: the record that becomes the row map in force, or leaves none (07_adapters.md R155, R156). -/

namespace Sys2Proof.Machine

/-! ### The record and its entries -/

/-- A bad record in the status record and its counter (R156, R160). -/
def State.noteBadMap (s : State) (c : Ctx) (a : Nat) : State :=
  ((s.carryAdd c.ph 1 1).carryPut c.ph 2 (w64 a)).bump (cntPart c.p 8) 1

theorem State.noteBadMap_written (s : State) (c : Ctx) (a : Nat) : StatusWritten s (s.noteBadMap c a) c.ph :=
  ((s.carryAdd_written c.ph (by decide) 1).trans (State.carryPut_written _ c.ph (by decide) _)).trans (State.bump_written _ c.ph _ 1)

theorem State.noteBadMap_regs {s t : State} (c : Ctx) (a : Nat) (hr : t.regs = s.regs) (hd : t.design = s.design) :
    (t.noteBadMap c a).regs = (s.setReg (cntPart c.p 8) (counterAdd (s.rd (cntPart c.p 8)) 1)).regs := by
  have ht : (t.noteBadMap c a).regs = (t.setReg (cntPart c.p 8) (counterAdd (t.rd (cntPart c.p 8)) 1)).regs := rfl
  rw [ht, State.setReg, State.setReg, State.rd, State.rd, hr, hd]

/-- The row map of a rod. -/
def State.setRowMap (s : State) (ph : Nat) (w : List W64) : State := s.onRod ph (fun r => { r with rowMap := w })

@[simp] theorem State.setRowMap_rod (s : State) (ph : Nat) (w : List W64) : (s.setRowMap ph w).rod ph = { s.rod ph with rowMap := w } :=
  State.rod_setRod _ _ _

theorem State.setRowMap_acted (s : State) (ph : Nat) (w : List W64) : CarryActed s (s.setRowMap ph w) ph [] :=
  .of_rod ⟨rfl, rfl, rfl, rfl, rfl, rfl, rfl, rfl, rfl⟩

/-- The words of a record at `a` as row map: in force where they keep Table 7.4, none otherwise (R156). -/
def State.carryMapTake (s : State) (c : Ctx) (a : Nat) (w : List W64) : State :=
  if mapOk w then (s.setRowMap c.ph w).vdone c [] else ((s.setRowMap c.ph []).noteBadMap c a).vdone c []

/-- The checks of the record, then those of its mapped entries. -/
theorem State.carryMap_eq (s : State) (c : Ctx) (a : Nat) :
    let w := s.bead.readWords (2 ^ 22 * c.ph + a) 18
    let mapped := (w.drop 2).filter (fun e => e.getLsbD 63)
    s.carryMap c a =
      if a + 144 > 2 ^ 22 then s.unitRaise c 0x06
      else if a % 32 ≠ 0 then s.unitRaise c 0x03
      else if s.beadRangeBad c.ph a 144 = true then s.unitRaise c 0x08
      else if ∃ e ∈ mapped, bits e 21 0 + 32 > 2 ^ 22 then s.unitRaise c 0x06
      else if ∃ e ∈ mapped, bits e 21 0 % 32 ≠ 0 then s.unitRaise c 0x03
      else s.carryMapTake c a w := by
  dsimp only
  unfold State.carryMap
  rw [State.carryCheck_read _ _ _ _ (by decide)]
  by_cases hout : a + 144 > 2 ^ 22
  · simp only [if_pos hout]
    rfl
  by_cases hask : a % 32 ≠ 0
  · simp only [if_neg hout, if_pos hask]
    rfl
  by_cases hbad : s.beadRangeBad c.ph a 144 = true
  · simp only [if_neg hout, if_neg hask, if_pos hbad]
    rfl
  simp only [if_neg hout, if_neg hask, if_neg hbad, ne_eq, not_true_eq_false, if_false]
  refine if_congr ?_ rfl (if_congr ?_ rfl rfl)
  all_goals
    simp only [List.any_eq_true, decide_eq_true_eq]
    rfl

section
variable {s : State} {l : Fin 512} {c : Ctx} {t a b : Nat} {cnt : Option Nat} (h : s.readyOp l = some c)
  (ho : c.op = .carry 0 t a b cnt)
include h ho

theorem carryMap_exec : exec (.carryMap l) s = .next ((s.advance c).carryMap c ((s.rod c.ph).sget a).toNat) :=
  (carry_ready h ho).trans (congrArg Host.Outcome.next (by simp only [State.carryFn, ho, adv_s_, if_true]))

/-- A record that keeps the rules comes into force. -/
theorem carryMapTake_of_ok (x : Nat) {w : List W64} (hw : mapOk w = true) :
    let u := (s.advance c).carryMapTake c x w
    CarryDone s u c cnt [] ∧ (u.rod c.ph).t = (s.rod c.ph).t ∧ (u.rod c.ph).rowMap = w ∧ u.bead = s.bead ∧ u.regs = s.regs := by
  obtain ⟨ht, hmap, hbead, hregs⟩ := State.vdone_carry (u := (s.advance c).setRowMap c.ph w) (carry_unit ho) []
  rw [State.setRowMap_rod, adv_rod] at ht hmap
  dsimp only
  rw [State.carryMapTake, if_pos hw]
  exact ⟨((s.advance c).setRowMap_acted c.ph w).done h ho, ht, hmap, hbead, hregs⟩

/-- Any other leaves none, and is counted. -/
theorem carryMapTake_of_bad (x : Nat) {w : List W64} (hw : mapOk w = false) :
    let u := (s.advance c).carryMapTake c x w
    CarryDone s u c cnt [] ∧ (u.rod c.ph).t = (s.rod c.ph).t ∧ (u.rod c.ph).rowMap = [] ∧
      u.regs = (s.setReg (cntPart c.p 8) (counterAdd (s.rd (cntPart c.p 8)) 1)).regs := by
  have hnoted := ((s.advance c).setRowMap c.ph []).noteBadMap_written c x
  obtain ⟨ht, hmap, -, hregs⟩ := State.vdone_carry (u := ((s.advance c).setRowMap c.ph []).noteBadMap c x) (carry_unit ho) []
  rw [hnoted.rod, State.setRowMap_rod, adv_rod] at ht hmap
  dsimp only
  rw [State.carryMapTake, if_neg (by rw [hw]; decide)]
  exact ⟨(((s.advance c).setRowMap_acted c.ph []).trans (hnoted.acted [])).done h ho, ht, hmap, hregs.trans (State.noteBadMap_regs c x rfl rfl)⟩

end

/-- Settles O16: each failing check by its cause; a record that passes them is taken as row map or leaves none. That the exception is
raised as the unit starts the instruction is a deduced reading (log entry 4). -/
theorem carryMapLoads : Obligations.CarryMapLoads := by
  intro s l c t a b cnt h ho at_ w mapped over_ askew
  have hw : (s.advance c).bead.readWords (2 ^ 22 * c.ph + at_) 18 = w := rfl
  have hbeads : (s.advance c).beadRangeBad c.ph at_ 144 = s.beadRangeBad c.ph at_ 144 := rfl
  rw [carryMap_exec h ho, State.carryMap_eq, hw, hbeads]
  simp only [State.unitRaise_advance h]
  refine ⟨fun hout => ?_, fun hin hask => ?_, fun hin hal => ⟨fun hbad => ?_, fun hok => ⟨fun hover => ?_, fun hunder hask => ?_,
    fun hunder hal' => ?_⟩⟩⟩
  · rw [if_pos hout]
  · rw [if_neg (by omega), if_pos hask]
  all_goals rw [if_neg (by omega), if_neg (not_not.mpr hal)]
  · rw [if_pos hbad]
  all_goals rw [if_neg (by rw [hok]; decide)]
  · rw [if_pos hover]
  · rw [if_neg hunder, if_pos hask]
  · rw [if_neg hunder, if_neg hal']
    refine ⟨_, rfl, ?_⟩
    cases hm : mapOk w
    case true =>
      obtain ⟨hdone, ht, hforce⟩ := carryMapTake_of_ok h ho at_ hm
      exact ⟨hdone, ht, fun _ => hforce, nofun⟩
    case false =>
      obtain ⟨hdone, ht, hnone⟩ := carryMapTake_of_bad h ho at_ hm
      exact ⟨hdone, ht, nofun, fun _ => hnone⟩

end Sys2Proof.Machine
end

section
/-! PROOF. CARRY.UP and CARRY.ADD: the rows of an accumulator that they change (07_adapters.md R151, R153, R157, R158). -/

namespace Sys2Proof.Machine

/-! ### Rows of an accumulator -/

/-- The rows `l` of accumulator `t`, each element replaced by what `g` makes of it. -/
def Rod.accRows (t : Nat) (g : CRow → Nat → W32 → W32) (l : List CRow) (r : Rod) : Rod :=
  l.foldl (fun r x => r.tset t x.m ((List.range 64).map (fun n => g x n (nth 0 (r.tget t x.m) n)))) r

section
variable (t : Nat) (g : CRow → Nat → W32 → W32)

/-- Only accumulators are written. -/
theorem Rod.accRows_eq : ∀ (l : List CRow) (r : Rod), ∃ T, r.accRows t g l = { r with t := T }
  | [], r => ⟨r.t, rfl⟩
  | x :: l, r => by
    obtain ⟨T, hT⟩ := Rod.accRows_eq l (r.tset t x.m ((List.range 64).map (fun n => g x n (nth 0 (r.tget t x.m) n))))
    exact ⟨T, hT⟩

/-- One element after the first of the rows. -/
theorem Rod.tat_accRow (r : Rod) (x : CRow) (hx : x.m < 16) {k m n : Nat} (hm : m < 16) (hn : n < 64) :
    (r.tset t x.m ((List.range 64).map (fun n => g x n (nth 0 (r.tget t x.m) n)))).tat k m n =
      if k = t ∧ m = x.m then g x n (r.tat t x.m n) else r.tat k m n := by
  rw [Rod.tat_tset _ _ _ _ _ _ _ (by simp) hx hm hn, nth_tab 0 _ 64 n hn, Rod.tget_nth _ _ _ _ hn]

/-- An element of no such row stays. -/
theorem Rod.tat_accRows_of_not_mem {k m n : Nat} (hm : m < 16) (hn : n < 64) : ∀ (l : List CRow) (r : Rod), (∀ x ∈ l, x.m < 16) →
    (k = t → ∀ x ∈ l, x.m ≠ m) → (r.accRows t g l).tat k m n = r.tat k m n
  | [], _, _, _ => rfl
  | x :: l, r, hl, hne => by
    have ih := Rod.tat_accRows_of_not_mem hm hn l (r.tset t x.m ((List.range 64).map (fun n => g x n (nth 0 (r.tget t x.m) n))))
      (fun y hy => hl y (List.mem_cons_of_mem _ hy)) (fun hk y hy => hne hk y (List.mem_cons_of_mem _ hy))
    refine ih.trans ?_
    rw [Rod.tat_accRow t g r x (hl x List.mem_cons_self) hm hn,
      if_neg fun hk => hne hk.1 x List.mem_cons_self hk.2.symm]

/-- An element of one of them, where no two rows are the same. -/
theorem Rod.tat_accRows_of_mem {n : Nat} (hn : n < 64) {y : CRow} : ∀ (l : List CRow) (r : Rod), (∀ x ∈ l, x.m < 16) →
    (l.map CRow.m).Nodup → y ∈ l → (r.accRows t g l).tat t y.m n = g y n (r.tat t y.m n)
  | [], _, _, _, hy => absurd hy List.not_mem_nil
  | x :: l, r, hl, hd, hy => by
    have hl' : ∀ z ∈ l, z.m < 16 := fun z hz => hl z (List.mem_cons_of_mem _ hz)
    obtain ⟨hx, hd'⟩ := List.nodup_cons.mp hd
    have hrow := fun m (hm : m < 16) => Rod.tat_accRow t g r x (hl x List.mem_cons_self) (k := t) hm hn
    obtain rfl | hy := List.mem_cons.mp hy
    · have hne : ∀ z ∈ l, z.m ≠ y.m := fun z hz he => hx (List.mem_map.mpr ⟨z, hz, he⟩)
      refine (Rod.tat_accRows_of_not_mem t g (hl y List.mem_cons_self) hn l _ hl' fun _ => hne).trans ?_
      rw [hrow _ (hl y List.mem_cons_self), if_pos ⟨rfl, rfl⟩]
    · have hne : y.m ≠ x.m := fun he => hx (List.mem_map.mpr ⟨y, hy, he⟩)
      refine (Rod.tat_accRows_of_mem hn l _ hl' hd' hy).trans ?_
      rw [hrow _ (hl' y hy), if_neg fun hk => hne hk.2]

/-- A carry function changes the rows of its rod's accumulator one after the other. -/
theorem State.eachRow_accRows (ph : Nat) : ∀ (l : List CRow) (s : State),
    CarryActed s (State.eachRow l (fun x s => s.accRow ph t x.m (g x)) s) ph [] ∧
      (State.eachRow l (fun x s => s.accRow ph t x.m (g x)) s).rod ph = (s.rod ph).accRows t g l
  | [], s => ⟨.refl s ph [], rfl⟩
  | x :: l, s => by
    obtain ⟨hacted, hrod⟩ := State.eachRow_accRows ph l (s.accRow ph t x.m (g x))
    have hfirst : CarryActed s (s.accRow ph t x.m (g x)) ph [] := .of_rod ⟨rfl, rfl, rfl, rfl, rfl, rfl, rfl, rfl, rfl⟩
    refine ⟨hfirst.trans hacted, hrod.trans ?_⟩
    rw [State.accRow, State.onRod, State.rod_setRod]
    rfl

end

/-! ### CARRY.UP and CARRY.ADD -/

/-- The rows of class `act` of accumulator `t`, each element replaced by what `g` makes of it, and counted in word `n` of the status
record. -/
def State.carryAcc (s : State) (c : Ctx) (rows : List CRow) (act : RowClass) (n t : Nat) (g : CRow → Nat → W32 → W32) : State :=
  ((State.eachRow (rows.filter (fun x => x.cls = act)) (fun x s => s.accRow c.ph t x.m (g x)) s).carryCount c rows act n).vdone c []

/-- The rows of one class are different rows of the tile. -/
theorem State.carryRows_filter_nodup (s : State) (ph : Nat) (act : RowClass) :
    (((s.carryRows ph).filter (fun x => x.cls = act)).map CRow.m).Nodup := by
  have hall : (s.carryRows ph).map CRow.m = List.range 16 := by
    rw [State.carryRows_eq, List.map_map]
    exact List.map_id _
  exact (hall ▸ List.nodup_range : ((s.carryRows ph).map CRow.m).Nodup).sublist (List.filter_sublist.map _)

section
variable {s : State} {l : Fin 512} {c : Ctx} {f t a b : Nat} {cnt : Option Nat} (h : s.readyOp l = some c)
  (ho : c.op = .carry f t a b cnt)
include h ho

/-- What it leaves: elements of the rows of the class, and nothing else of the accumulators. -/
theorem carryAcc_done (act : RowClass) {n : Nat} (hn : n < 8) (g : CRow → Nat → W32 → W32) :
    let u := (s.advance c).carryAcc c (s.carryRows c.ph) act n t g
    CarryDone s u c cnt [] ∧ (u.rod c.ph).rowMap = (s.rod c.ph).rowMap ∧
      ∀ k m n, k < 8 → m < 16 → n < 64 → (u.rod c.ph).tat k m n =
        if k = t ∧ (s.carryRow c.ph m).cls = act then g (s.carryRow c.ph m) n ((s.rod c.ph).tat t m n) else (s.rod c.ph).tat k m n := by
  have hrows : ∀ x ∈ (s.carryRows c.ph).filter (fun x => x.cls = act), x = s.carryRow c.ph x.m ∧ x.m < 16 ∧ x.cls = act := fun x hx => by
    obtain ⟨hx, hcls⟩ := List.mem_filter.mp hx
    obtain ⟨heq, hlt⟩ := State.carryRow_of_mem hx
    exact ⟨heq, hlt, of_decide_eq_true hcls⟩
  obtain ⟨hacted, hrod⟩ := State.eachRow_accRows t g c.ph ((s.carryRows c.ph).filter (fun x => x.cls = act)) (s.advance c)
  have hcount := (State.eachRow ((s.carryRows c.ph).filter (fun x => x.cls = act)) (fun x s => s.accRow c.ph t x.m (g x))
    (s.advance c)).carryCount_written c (s.carryRows c.ph) act hn
  obtain ⟨ht, hmap, -, -⟩ := State.vdone_carry (u := (State.eachRow ((s.carryRows c.ph).filter (fun x => x.cls = act))
    (fun x s => s.accRow c.ph t x.m (g x)) (s.advance c)).carryCount c (s.carryRows c.ph) act n) (carry_unit ho) []
  rw [hcount.rod, hrod] at ht hmap
  obtain ⟨T, hT⟩ := Rod.accRows_eq t g ((s.carryRows c.ph).filter (fun x => x.cls = act)) ((s.advance c).rod c.ph)
  refine ⟨(hacted.trans (hcount.acted [])).done h ho, hmap.trans (by rw [hT, adv_rod]), fun k m n _ hm hn => ?_⟩
  refine (congrArg (Sparse.get 0 · (1024 * k + 64 * m + n)) ht).trans ?_
  change (((s.advance c).rod c.ph).accRows t g _).tat k m n = _
  by_cases hk : k = t ∧ (s.carryRow c.ph m).cls = act
  · obtain ⟨rfl, hcls⟩ := hk
    have hmem : s.carryRow c.ph m ∈ (s.carryRows c.ph).filter (fun x => x.cls = act) :=
      List.mem_filter.mpr ⟨List.mem_map.mpr ⟨m, List.mem_range.mpr hm, rfl⟩, decide_eq_true hcls⟩
    rw [if_pos ⟨rfl, hcls⟩, ← adv_tat]
    exact Rod.tat_accRows_of_mem k g hn _ _ (fun x hx => (hrows x hx).2.1) (s.carryRows_filter_nodup c.ph act) hmem
  · rw [if_neg hk, ← adv_tat]
    refine Rod.tat_accRows_of_not_mem t g hm hn _ _ (fun x hx => (hrows x hx).2.1) fun hkt x hx he => hk ⟨hkt, ?_⟩
    obtain ⟨heq, -, hcls⟩ := hrows x hx
    rw [← he, ← heq, hcls]

end

section
variable {s : State} {l : Fin 512} {c : Ctx} {t a b : Nat} {cnt : Option Nat} (h : s.readyOp l = some c)
include h

/-- CARRY.UP: its checks, then the plain rows (R158). -/
theorem carryUp_exec (ho : c.op = .carry 3 t a b cnt) :
    let x := ((s.rod c.ph).sget a).toNat
    let y := ((s.rod c.ph).sget b).toNat
    let w := (s.rod c.ph).rowMap
    let e := s.carryCheck c.ph (carryReads w (s.carryRows c.ph) .plain [(x, 16384)]) []
      (decide (x % 32 ≠ 0) || decide (y % 64 ≠ 0) || (!w.isEmpty && decide (64 * mapOut w ≤ y)))
    exec (.carryUp l) s = .next (if e ≠ 0 then s.unitRaises c e else (s.advance c).carryAcc c (s.carryRows c.ph) .plain 5 t
      (fun r n v => ffma (hdAlpha r.hdr) (s.upVal c.ph w r x (y + n)) v)) := by
  refine (carry_ready h ho).trans (congrArg Host.Outcome.next ?_)
  simp only [State.carryFn, ho, adv_s_, Nat.reduceEqDiff, if_false, if_true, State.carryUp, adv_rowMap, adv_carryRows, adv_carryCheck, State.unitRaise_advance h]
  rfl

/-- CARRY.ADD: its checks, then the basis rows (R158); without a map in force there are none. -/
theorem carryAdd_exec (ho : c.op = .carry 4 t a b cnt) :
    let x := ((s.rod c.ph).sget a).toNat
    let e := s.carryCheck c.ph ([(x, 4096)] ++ ((s.carryRows c.ph).filter (fun r => r.hdr ≠ [])).map (fun r => (r.blk, 32))) []
      (decide (x % 32 ≠ 0))
    exec (.carryAdd l) s = .next (if e ≠ 0 then s.unitRaises c e else (s.advance c).carryAcc c (s.carryRows c.ph) .basis 0 t
      (fun r n v => ffma (hdAlpha r.hdr) (s.bead.read32 (2 ^ 22 * c.ph + (x + 256 * r.m + 4 * n))) v)) := by
  have hbasis : (s.carryRows c.ph).filter (fun r => r.cls = .basis && !(s.rod c.ph).rowMap.isEmpty) =
      (s.carryRows c.ph).filter (fun r => r.cls = .basis) := by
    refine List.filter_congr fun r hr => ?_
    cases hw : (s.rod c.ph).rowMap with
    | nil =>
      have hbare : r.cls = .bare := by
        rw [(State.carryRow_of_mem hr).1]
        exact State.carryRow_bare hw _
      rw [hbare]
      rfl
    | cons => simp
  refine (carry_ready h ho).trans (congrArg Host.Outcome.next ?_)
  simp only [State.carryFn, ho, adv_s_, Nat.reduceEqDiff, if_false, State.carryAddRows, adv_rowMap, adv_carryRows, adv_carryCheck, State.unitRaise_advance h, hbasis]
  rfl

end

/-- Settles O17: both functions change the rows of one class of one accumulator. That CARRY.UP has no column limit without a map in force is
the model's choice (log entry 111), and the points at which its sums round are a deduced reading (log entry 21). -/
theorem carryAccumulators : Obligations.CarryAccumulators := by
  intro s l c f t a b cnt h ho _ x y w rows row
  have hrow : ∀ m, m < 16 → row m = s.carryRow c.ph m := fun m hm => s.carryRows_nth c.ph hm
  refine ⟨?up, ?add⟩
  case up =>
    rintro rfl e
    rw [carryUp_exec h ho]
    refine ⟨fun he => by rw [if_pos he], fun he => ⟨_, by rw [if_neg (not_not.mpr he)], ?_⟩⟩
    obtain ⟨hdone, hmap, htat⟩ := carryAcc_done h ho .plain (n := 5) (by decide)
      (fun r n v => ffma (hdAlpha r.hdr) (s.upVal c.ph w r x (y + n)) v)
    refine ⟨hdone, hmap, fun k m n hk hm hn => ?_⟩
    rw [hrow m hm, htat k m n hk hm hn]
  case add =>
    rintro rfl e
    rw [carryAdd_exec h ho]
    refine ⟨fun he => by rw [if_pos he], fun he => ⟨_, by rw [if_neg (not_not.mpr he)], ?_⟩⟩
    obtain ⟨hdone, hmap, htat⟩ := carryAcc_done h ho .basis (n := 0) (by decide)
      (fun r n v => ffma (hdAlpha r.hdr) (s.bead.read32 (2 ^ 22 * c.ph + (x + 256 * r.m + 4 * n))) v)
    refine ⟨hdone, hmap, fun k m n hk hm hn => ?_⟩
    rw [hrow m hm, htat k m n hk hm hn]
    rfl

end Sys2Proof.Machine
end

section
/-! PROOF. CARRY.DOWN and CARRY.MIX: the runs of bytes that they write to bead memory (07_adapters.md R151 to R153, R158). -/

namespace Sys2Proof.Machine

/-! ### What the carry unit writes -/

theorem Memory.readN_congr {m m' : Memory} : ∀ {n a : Nat}, (∀ i < n, m.read1 (a + i) = m'.read1 (a + i)) → m.readN a n = m'.readN a n
  | 0, _, _ => rfl
  | n + 1, a, h => by
    rw [Memory.readN, Memory.readN, Memory.readN_congr (n := n) (a := a + 1) fun i hi => ?_, show m.read1 a = m'.read1 a from h 0 n.succ_pos]
    have hi := h (i + 1) (Nat.succ_lt_succ hi)
    rwa [Nat.add_comm i 1, ← Nat.add_assoc] at hi

theorem noteWaiting_noClash (w : Nat × Nat) (q : List AEntry) : (noteWaiting w q).map AEntry.noClash = q.map AEntry.noClash := by
  rw [noteWaiting, List.map_map]
  refine List.map_congr_left fun e _ => ?_
  rw [Function.comp_apply]
  split <;> rfl

theorem noteWaiting_writes (w : Nat × Nat) (q : List AEntry) : (noteWaiting w q).flatMap (·.writes) = q.flatMap (·.writes) := by
  rw [noteWaiting, List.flatMap_map]
  refine List.flatMap_congr fun e _ => ?_
  split <;> rfl

/-- The note of a write of the carry unit. -/
theorem Rod.noteWrite_carry (r : Rod) (w : Nat × Nat) : r.CarryKept (r.noteWrite (some .carry) w) ∧
    (r.noteWrite (some .carry) w).openWrites (some .carry) = r.openWrites (some .carry) := by
  refine ⟨⟨rfl, rfl, rfl, rfl, rfl, rfl, noteWaiting_noClash w r.mq, noteWaiting_noClash w r.vq, rfl⟩, ?_⟩
  simp [Rod.openWrites, Rod.noteWrite, noteWaiting_writes]

/-- The runs of bytes written one after the other, each an offset and its bytes. -/
def State.carryWrite (s : State) (c : Ctx) (runs : List (Nat × List Byte)) : State :=
  runs.foldl (fun s r => s.unitWrite c r.1 r.2 (some .carry)) s

/-- The carry unit of rod `ph` has written the runs, and no other byte; each stands where no other unit has an open write that overlaps it
(R123). -/
structure CarryWrote (s t : State) (ph : Nat) (runs : List (Nat × List Byte)) : Prop where
  acted : CarryActed s t ph (runs.map (fun r => (r.1, r.2.length)))
  accumulators : (t.rod ph).t = (s.rod ph).t
  rowMap : (t.rod ph).rowMap = (s.rod ph).rowMap
  opens : (t.rod ph).openWrites (some .carry) = (s.rod ph).openWrites (some .carry)
  outside : ∀ x, (∀ r ∈ runs, x < 2 ^ 22 * ph + r.1 ∨ 2 ^ 22 * ph + r.1 + r.2.length ≤ x) → t.bead.read1 x = s.bead.read1 x
  stands : ∀ r ∈ runs, (∀ o ∈ (s.rod ph).openWrites (some .carry), overlap o.1 o.2 r.1 r.2.length = false) →
    t.bead.readN (2 ^ 22 * ph + r.1) r.2.length = r.2

/-- One run, of an instruction that has met no write in a queue. -/
theorem State.unitWrite_wrote (s : State) {c : Ctx} (hc : c.clash = []) (off : Nat) (bs : List Byte) :
    CarryWrote s (s.unitWrite c off bs (some .carry)) c.ph [(off, bs)] := by
  obtain ⟨regs, flt, free, bs', ht, hlen, hsame, -⟩ := State.unitWrite_spec s c off bs (some .carry)
  rw [hc, List.nil_append] at hsame
  obtain ⟨hkept, hopens⟩ := (s.rod c.ph).noteWrite_carry (off, bs.length)
  have hrod : (s.unitWrite c off bs (some .carry)).rod c.ph = (s.rod c.ph).noteWrite (some .carry) (off, bs.length) := by
    rw [ht]
    exact State.rod_setRod _ _ _
  have hbead : (s.unitWrite c off bs (some .carry)).bead = s.bead.writeN (2 ^ 22 * c.ph + off) bs' := by rw [ht]; rfl
  have hout : ∀ x, (∀ r ∈ [(off, bs)], x < 2 ^ 22 * c.ph + r.1 ∨ 2 ^ 22 * c.ph + r.1 + r.2.length ≤ x) →
      (s.unitWrite c off bs (some .carry)).bead.read1 x = s.bead.read1 x := fun x hx => by
    rw [hbead, Memory.read1_writeN_out _ _ _ _ (hlen ▸ hx _ (List.mem_singleton_self _))]
  refine ⟨⟨by rw [ht]; rfl, fun k hk => by rw [ht]; exact State.rod_onRod_ne _ _ hk, hrod ▸ hkept,
    fun x _ hx => hout x fun r hr => ?_⟩, by rw [hrod]; rfl, by rw [hrod]; rfl, by rw [hrod, hopens], hout, fun r hr hno => ?_⟩
  · exact hx (r.1, r.2.length) (List.mem_map.mpr ⟨r, hr, rfl⟩)
  · obtain rfl := List.mem_singleton.mp hr
    obtain ⟨rfl, -⟩ := hsame (List.any_eq_false.mpr fun o ho => by simp [hno o ho])
    rw [hbead, Memory.readN_writeN]

/-- Runs that lie apart. -/
theorem State.carryWrite_wrote {c : Ctx} (hc : c.clash = []) : ∀ (runs : List (Nat × List Byte)) (s : State),
    runs.Pairwise (fun r q => r.1 + r.2.length ≤ q.1) → CarryWrote s (s.carryWrite c runs) c.ph runs
  | [], s, _ => ⟨.refl s c.ph _, rfl, rfl, rfl, fun _ _ => rfl, nofun⟩
  | r :: runs, s, hp => by
    obtain ⟨hr, hp⟩ := List.pairwise_cons.mp hp
    have h1 := s.unitWrite_wrote hc r.1 r.2
    have h2 := State.carryWrite_wrote hc runs (s.unitWrite c r.1 r.2 (some .carry)) hp
    refine ⟨?_, h2.accumulators.trans h1.accumulators, h2.rowMap.trans h1.rowMap, h2.opens.trans h1.opens, fun x hx => ?_,
      fun q hq hno => ?_⟩
    · exact (h1.acted.mono fun w hw => by simp_all).trans (h2.acted.mono fun w hw => List.mem_cons_of_mem _ hw)
    · exact (h2.outside x fun q hq => hx q (List.mem_cons_of_mem _ hq)).trans
        (h1.outside x fun q hq => hx q (by rw [List.mem_singleton.mp hq]; exact List.mem_cons_self))
    · obtain rfl | hq := List.mem_cons.mp hq
      · refine Eq.trans (Memory.readN_congr fun i hi => h2.outside _ fun z hz => .inl ?_) (h1.stands q (List.mem_singleton_self _) hno)
        have hz := hr z hz
        omega
      · exact h2.stands q hq (h1.opens ▸ hno)

section
variable {s : State} {l : Fin 512} {c : Ctx} {f t a b : Nat} {cnt : Option Nat} (h : s.readyOp l = some c)
  (ho : c.op = .carry f t a b cnt)
include h ho

/-- What a carry function leaves that writes runs of bytes below the system area: the status record does not touch them. -/
theorem carryWrite_done {runs : List (Nat × List Byte)} {outs : List (Nat × Nat)} (hp : runs.Pairwise (fun r q => r.1 + r.2.length ≤ q.1))
    (houts : ∀ r ∈ runs, (r.1, r.2.length) ∈ outs) (hlow : ∀ r ∈ runs, r.1 + r.2.length ≤ 0x3F0000) (rows : List CRow)
    (act : RowClass) {n : Nat} (hn : n < 8) :
    let u := (((s.advance c).carryWrite c runs).carryCount c rows act n).vdone c outs
    CarryDone s u c cnt outs ∧ (u.rod c.ph).t = (s.rod c.ph).t ∧ (u.rod c.ph).rowMap = (s.rod c.ph).rowMap ∧
      ∀ r ∈ runs, (∀ o ∈ (s.rod c.ph).openWrites (some .carry), overlap o.1 o.2 r.1 r.2.length = false) →
        u.bead.readN (2 ^ 22 * c.ph + r.1) r.2.length = r.2 := by
  have hw := State.carryWrite_wrote (State.readyOp_clash h) runs (s.advance c) hp
  have hcount := ((s.advance c).carryWrite c runs).carryCount_written c rows act hn
  obtain ⟨ht, hmap, hbead, -⟩ := State.vdone_carry (u := ((s.advance c).carryWrite c runs).carryCount c rows act n) (carry_unit ho) outs
  have hacted : CarryActed (s.advance c) ((s.advance c).carryWrite c runs) c.ph outs := hw.acted.mono fun r hr => by
    obtain ⟨q, hq, rfl⟩ := List.mem_map.mp hr
    exact houts q hq
  rw [hcount.rod] at ht hmap
  refine ⟨(hacted.trans (hcount.acted outs)).done h ho, ht.trans (hw.accumulators.trans (by rw [adv_rod])),
    hmap.trans (hw.rowMap.trans (adv_rowMap s c)), fun r hr hno => ?_⟩
  rw [hbead]
  refine Eq.trans (Memory.readN_congr fun i hi => hcount.bytes _ (.inl ?_)) (hw.stands r hr (by rwa [adv_openWrites]))
  have hr := hlow r hr
  omega

end

/-! ### CARRY.DOWN -/

/-- The rank of a plain row is at most 256 (Table 7.3). -/
theorem rowClass_plain {w h : List W64} {e : W64} (hc : rowClass w e h = .plain) : hdRank h ≤ 256 := by
  unfold rowClass at hc
  split at hc
  · cases hc
  split at hc
  · cases hc
  split at hc
  next hplain =>
    simp only [Bool.and_eq_true, rankOk, decide_eq_true_eq] at hplain
    obtain ⟨⟨-, -, hrank⟩, -⟩ := hplain
    exact hrank
  · cases hc

/-- The 256 values of one row (R153, R158). -/
def State.downWords (s : State) (ph : Nat) (w : List W64) (xa : Nat) (r : CRow) : List W32 :=
  let v := if r.cls = .plain then s.downRow ph w r xa else []
  v ++ List.replicate (256 - v.length) 0

section
variable (s : State) (ph : Nat) (w : List W64) (xa : Nat) {m : Nat}

theorem State.downRow_length (r : CRow) : (s.downRow ph w r xa).length = hdRank r.hdr := by
  simp [State.downRow]

theorem State.downWords_length : (s.downWords ph w xa (s.carryRow ph m)).length = 256 := by
  have hv : (if (s.carryRow ph m).cls = .plain then s.downRow ph w (s.carryRow ph m) xa else []).length ≤ 256 := by
    split
    next hp => exact (s.downRow_length ph w xa _).trans_le (rowClass_plain hp)
    next => exact Nat.zero_le _
  rw [State.downWords, List.length_append, List.length_replicate]
  omega

theorem State.downWords_nth (r : CRow) {i : Nat} : nth 0 (s.downWords ph w xa r) i =
    if r.cls = .plain ∧ i < hdRank r.hdr then nth 0 (s.downRow ph w r xa) i else 0 := by
  have hpad : ∀ v : List W32, nth 0 (v ++ List.replicate (256 - v.length) 0) i = if i < v.length then nth 0 v i else 0 := fun v => by
    rw [nth_eq_getD, nth_eq_getD]
    split
    next hi => rw [List.getElem?_append_left hi]
    next hi =>
      rw [List.getElem?_append_right (Nat.le_of_not_lt hi), List.getElem?_replicate]
      split <;> rfl
  rw [State.downWords, hpad]
  by_cases hp : r.cls = .plain
  · rw [if_pos hp, State.downRow_length]
    simp only [hp, true_and]
  · rw [if_neg hp, List.length_nil, if_neg (Nat.not_lt_zero _), if_neg fun hk => hp hk.1]

end

section
variable {s : State} {l : Fin 512} {c : Ctx} {t a b : Nat} {cnt : Option Nat} (h : s.readyOp l = some c)
include h

/-- CARRY.DOWN: its checks, then the values of the 16 rows (R158). -/
theorem carryDown_exec (ho : c.op = .carry 2 t a b cnt) :
    let x := ((s.rod c.ph).sget a).toNat
    let y := ((s.rod c.ph).sget b).toNat
    let w := (s.rod c.ph).rowMap
    let spans := ((List.range (2 ^ mapOrder w)).filter (fun q => decide (mapSpan w + q < groupsOf w))).map
      (fun q => (x + 1024 * mapStride w * q, 4224))
    let e := s.carryCheck c.ph (carryReads w (s.carryRows c.ph) .plain ((x, 0) :: spans)) [(y, 16384)]
      (decide (x % 32 ≠ 0) || decide (y % 32 ≠ 0))
    exec (.carryDown l) s = .next (if e ≠ 0 then s.unitRaises c e else
      (((s.advance c).carryWrite c [(y, vbytes ((s.carryRows c.ph).flatMap (s.downWords c.ph w x)))]).carryCount c (s.carryRows c.ph) .plain
        4).vdone c [(y, 16384)]) := by
  refine (carry_ready h ho).trans (congrArg Host.Outcome.next ?_)
  simp only [State.carryFn, ho, adv_s_, Nat.reduceEqDiff, if_false, if_true, State.carryDown, adv_rowMap, adv_carryRows, adv_carryCheck,
    State.unitRaise_advance h, vbytes, List.flatMap_assoc]
  rfl

end

/-! ### CARRY.MIX -/

theorem blocks32_length : ∀ (n : Nat) (l : List W32), (blocks32 n l).length = n
  | 0, _ => rfl
  | n + 1, l => congrArg (· + 1) (blocks32_length n (l.drop 32))

theorem blocks32_block : ∀ (n : Nat) (l : List W32), l.length = 32 * n → ∀ x ∈ blocks32 n l, x.length = 32
  | 0, _, _, x, hx => absurd hx List.not_mem_nil
  | n + 1, l, hl, x, hx => by
    obtain rfl | hx := List.mem_cons.mp hx
    · rw [List.length_take]
      omega
    · exact blocks32_block n (l.drop 32) (by rw [List.length_drop]; omega) x hx

theorem mxBlockCodes_length (t : Elt) (l : List W32) : (mxBlockCodes t l).1.length = l.length := by
  unfold mxBlockCodes
  split <;> simp

/-- The elements and scales of one row of b values (R151 step 4): b and b ÷ 32. -/
def RowImage (b : Nat) (x : List Nat × List Nat) : Prop := x.1.length = b ∧ x.2.length = b / 32

theorem uHat_rowImage (t : Elt) {b : Nat} (hb : b % 32 = 0) {u : List W32} (hu : u.length = b) : RowImage b (uHat t b u) := by
  have hblk := blocks32_block (b / 32) u (by omega)
  refine ⟨?_, by rw [uHat, List.length_map, blocks32_length]⟩
  rw [uHat, length_flatMap_const (n := 32) _ fun x hx => (mxBlockCodes_length t x).trans (hblk x hx), blocks32_length]
  omega

/-- The bank widths of Table 7.4 (R156). -/
theorem mapB_of_mapOk {w : List W64} (h : mapOk w = true) : mapB w ∈ [0, 64, 128, 256, 512] := by
  simp only [mapOk, Bool.and_eq_true, List.contains_iff_mem] at h
  tauto

/-- Of each row an operand takes 256 elements and 8 scales (R152, R158). -/
theorem mixRowOperand_length {b k : Nat} (hb : b ∈ [0, 64, 128, 256, 512]) (hk : k < mixOperands b) {x : List Nat × List Nat}
    (hx : RowImage b x) : (mixRowOperand b k x).1.length = 256 ∧ (mixRowOperand b k x).2.length = 8 := by
  obtain ⟨he, hs⟩ := hx
  simp only [List.mem_cons, List.not_mem_nil, or_false] at hb
  obtain rfl | rfl | rfl | rfl | rfl := hb
  all_goals simp [mixOperands] at hk
  all_goals
    simp [mixRowOperand, he, hs]
    omega

theorem mixOperand_length {b k : Nat} (hb : b ∈ [0, 64, 128, 256, 512]) (hk : k < mixOperands b) {rows : List (List Nat × List Nat)}
    (hr : ∀ x ∈ rows, RowImage b x) : (mixOperand b k rows).length = 264 * rows.length := by
  have hrow : ∀ x ∈ rows.map (mixRowOperand b k), x.1.length = 256 ∧ x.2.length = 8 := fun x hx => by
    obtain ⟨y, hy, rfl⟩ := List.mem_map.mp hx
    exact mixRowOperand_length hb hk (hr y hy)
  rw [mixOperand, List.length_map, List.length_append, length_flatMap_const _ fun x hx => (hrow x hx).1,
    length_flatMap_const _ fun x hx => (hrow x hx).2, List.length_map]
  omega

/-- The row images of the tile: basis rows converted to the element type, zero elements with scale 0 elsewhere (R151, R158). -/
def State.mixImages (s : State) (ph : Nat) (t : Elt) (b xa : Nat) : List (List Nat × List Nat) :=
  (s.carryRows ph).map (fun r => if r.cls = .basis then uHat t b (s.mixRow ph r b (xa + 4 * b * r.m))
    else (List.replicate b 0, List.replicate (b / 32) 0))

theorem State.mixImages_rowImage (s : State) (ph : Nat) (t : Elt) {b : Nat} (hb : b % 32 = 0) (xa : Nat) :
    ∀ x ∈ s.mixImages ph t b xa, RowImage b x := fun x hx => by
  obtain ⟨r, -, rfl⟩ := List.mem_map.mp hx
  split
  · exact uHat_rowImage t hb (by simp [State.mixRow])
  · exact ⟨List.length_replicate, List.length_replicate⟩

/-- The operands of a CARRY.MIX as runs of bytes; an element type without a code gives none. -/
def State.mixRuns (s : State) (ph b ut xa ya : Nat) : List (Nat × List Byte) :=
  match Elt.ofCode ut with
  | none => []
  | some t => (List.range (mixOperands b)).map (fun k => (ya + 0x1400 * k, mixOperand b k (s.mixImages ph t b xa)))

/-- Each run is an operand of 4,224 bytes. -/
theorem State.mixRuns_mem {s : State} {ph b ut xa ya : Nat} (hb : b ∈ [0, 64, 128, 256, 512]) {r : Nat × List Byte}
    (hr : r ∈ s.mixRuns ph b ut xa ya) :
    r.2.length = 4224 ∧ (r.1, r.2.length) ∈ (List.range (mixOperands b)).map (fun k => (ya + 0x1400 * k, 4224)) := by
  have hb32 : b % 32 = 0 := by
    simp only [List.mem_cons, List.not_mem_nil, or_false] at hb
    omega
  unfold State.mixRuns at hr
  split at hr
  · exact absurd hr List.not_mem_nil
  next t _ =>
    obtain ⟨k, hk, rfl⟩ := List.mem_map.mp hr
    have hlen := mixOperand_length hb (List.mem_range.mp hk) (s.mixImages_rowImage ph t hb32 xa)
    have h16 : (s.mixImages ph t b xa).length = 16 := by simp [State.mixImages, State.carryRows_eq]
    rw [h16] at hlen
    exact ⟨hlen, List.mem_map.mpr ⟨k, hk, by rw [hlen]⟩⟩

theorem State.mixRuns_apart {s : State} {ph b ut xa ya : Nat} (hb : b ∈ [0, 64, 128, 256, 512]) :
    (s.mixRuns ph b ut xa ya).Pairwise (fun r q => r.1 + r.2.length ≤ q.1) := by
  have hlen := fun r hr => (State.mixRuns_mem (s := s) (ph := ph) (ut := ut) (xa := xa) (ya := ya) hb (r := r) hr).1
  have hfirst : (s.mixRuns ph b ut xa ya).Pairwise (fun r q => r.1 + 4224 ≤ q.1) := by
    unfold State.mixRuns
    split
    · exact .nil
    · exact List.pairwise_map.mpr (List.pairwise_lt_range.imp fun hk => by dsimp only; omega)
  exact hfirst.imp_of_mem fun hr _ hle => by rwa [hlen _ hr]

section
variable {s : State} {l : Fin 512} {c : Ctx} {t a b : Nat} {cnt : Option Nat} (h : s.readyOp l = some c)
include h

/-- CARRY.MIX: its checks, then the operands (R158). -/
theorem carryMix_exec (ho : c.op = .carry 1 t a b cnt) :
    let x := ((s.rod c.ph).sget a).toNat
    let y := ((s.rod c.ph).sget b).toNat
    let w := (s.rod c.ph).rowMap
    let outs := (List.range (mixOperands (mapB w))).map (fun k => (y + 0x1400 * k, 4224))
    let e := s.carryCheck c.ph (carryReads w (s.carryRows c.ph) .basis [(x, 64 * mapB w)]) ((y, 0) :: outs)
      (decide (x % 32 ≠ 0) || decide (y % 1024 ≠ 0))
    exec (.carryMix l) s = .next (if e ≠ 0 then s.unitRaises c e else
      (((s.advance c).carryWrite c (s.mixRuns c.ph (mapB w) (mapUT w) x y)).carryCount c (s.carryRows c.ph) .basis 3).vdone c outs) := by
  refine (carry_ready h ho).trans (congrArg Host.Outcome.next ?_)
  simp only [State.carryFn, ho, adv_s_, Nat.reduceEqDiff, if_false, if_true, State.carryMix, adv_rowMap, adv_carryRows, adv_carryCheck,
    State.unitRaise_advance h, State.mixRuns]
  cases Elt.ofCode (mapUT (s.rod c.ph).rowMap) with
  | none => rfl
  | some τ =>
    simp only [State.carryWrite, List.foldl_map]
    rfl

end

/-- Settles O18: both functions write runs of bytes below the system area. That a block counts whole in the checks, and that without a map in
force nothing is written, is the model's choice (log entry 111). -/
theorem carryOperandsWritten : Obligations.CarryOperandsWritten := by
  intro s l c f t a b cnt h ho x y w rows row
  have hrow : ∀ m, m < 16 → row m = s.carryRow c.ph m := fun m hm => s.carryRows_nth c.ph hm
  refine ⟨?down, ?mix⟩
  case down =>
    rintro rfl spans e
    rw [carryDown_exec h ho]
    refine ⟨fun he => by rw [if_pos he], fun he => ⟨_, by rw [if_neg (not_not.mpr he)], ?_⟩⟩
    have hblock : ∀ r ∈ rows, (s.downWords c.ph w x r).length = 256 := fun r hr => by
      rw [(State.carryRow_of_mem hr).1]
      exact s.downWords_length c.ph w x
    have hwords : (rows.flatMap (s.downWords c.ph w x)).length = 4096 := by
      rw [length_flatMap_const rows hblock]
      rfl
    have hbytes : (vbytes (rows.flatMap (s.downWords c.ph w x))).length = 16384 := by rw [vbytes_length, hwords]
    have hlow := State.carryCheck_writes he List.mem_cons_self (show 16384 ≠ 0 by decide)
    obtain ⟨hdone, ht, hmap, hstands⟩ := carryWrite_done h ho (runs := [(y, vbytes (rows.flatMap (s.downWords c.ph w x)))])
      (outs := [(y, 16384)]) (List.pairwise_singleton _ _) (fun r hr => by rw [List.mem_singleton.mp hr, hbytes]; exact List.mem_cons_self)
      (fun r hr => by rw [List.mem_singleton.mp hr, hbytes]; exact hlow) rows .plain (n := 4) (by decide)
    refine ⟨hdone, ht, hmap, fun hno m i hm hi => ?_⟩
    have hread := hstands _ (List.mem_singleton_self _) (by rwa [hbytes])
    rw [hrow m hm, ← s.downWords_nth c.ph w x, ← State.carryRows_nth s c.ph hm, ← nth_flatMap _ 0 hi rows m hblock hm,
      ← Memory.read32_of_vbytes hread (by rw [hwords]; omega)]
    congr 1
    omega
  case mix =>
    rintro rfl hw n outs e
    have hb : mapB w ∈ [0, 64, 128, 256, 512] := by
      obtain hw | hw := hw
      · rw [hw]
        exact List.mem_cons_self
      · exact mapB_of_mapOk hw
    rw [carryMix_exec h ho]
    refine ⟨fun he => by rw [if_pos he], fun he => ⟨_, by rw [if_neg (not_not.mpr he)], ?_⟩⟩
    obtain ⟨hdone, ht, hmap, hstands⟩ := carryWrite_done h ho (runs := s.mixRuns c.ph (mapB w) (mapUT w) x y) (outs := outs)
      (State.mixRuns_apart hb) (fun r hr => (State.mixRuns_mem hb hr).2)
      (fun r hr => State.carryCheck_writes he (List.mem_cons_of_mem _ (State.mixRuns_mem hb hr).2)
        (by rw [(State.mixRuns_mem hb hr).1]; exact (by decide : 4224 ≠ 0))) rows .basis (n := 3) (by decide)
    refine ⟨hdone, ht, hmap, fun hno τ hτ k i hk hi => ?_⟩
    have hmem : (y + 0x1400 * k, mixOperand (mapB w) k (s.mixImages c.ph τ (mapB w) x)) ∈ s.mixRuns c.ph (mapB w) (mapUT w) x y := by
      rw [State.mixRuns, hτ]
      exact List.mem_map.mpr ⟨k, List.mem_range.mpr hk, rfl⟩
    obtain ⟨hlen, hout⟩ := State.mixRuns_mem hb hmem
    have hread := hstands _ hmem fun o ho => hno o ho _ hout
    rw [← Memory.readN_nth _ _ _ _ (hlen ▸ hi), hread]
    rfl

end Sys2Proof.Machine
end

section
/-! PROOF. Registers that Penub stages: the fields of a word, one field of a register, a run of registers, and what a write of the
partition range changes (21_registers.md R453, 12_memory_tiers.md R262). -/

namespace Sys2Proof.Machine

/-! ### The fields of a word -/

/-- The bits of a field, counted from its lowest. -/
theorem testBit_bits {w : Nat} (x : BitVec w) (hi lo i : Nat) :
    (bits x hi lo).testBit i = (decide (i < hi + 1 - lo) && x.getLsbD (lo + i)) := by
  rw [bits, Nat.testBit_mod_two_pow, Nat.testBit_div_two_pow, BitVec.testBit_toNat, Nat.add_comm i]

/-- A store of one field: inside the field the stored value, outside it the word as it was. -/
theorem getLsbD_setBits (x : W64) {hi lo : Nat} (v i : Nat) (hhi : hi < 64) (hlo : lo ≤ hi) :
    (setBits x hi lo v).getLsbD i = if lo ≤ i ∧ i ≤ hi then v.testBit (i - lo) else x.getLsbD i := by
  let a := x.toNat / 2 ^ lo
  have hlow : x.toNat % 2 ^ lo < 2 ^ lo := Nat.mod_lt _ (Nat.two_pow_pos lo)
  have hx : x.toNat = 2 ^ lo * a + x.toNat % 2 ^ lo := (Nat.div_add_mod _ _).symm
  have hfield : v % 2 ^ (hi + 1 - lo) < 2 ^ (hi + 1 - lo) := Nat.mod_lt _ (Nat.two_pow_pos _)
  have hsplit : x.toNat - a % 2 ^ (hi + 1 - lo) * 2 ^ lo + v % 2 ^ (hi + 1 - lo) * 2 ^ lo =
      2 ^ lo * (2 ^ (hi + 1 - lo) * (a / 2 ^ (hi + 1 - lo)) + v % 2 ^ (hi + 1 - lo)) + x.toNat % 2 ^ lo := by
    have ha := Nat.div_add_mod a (2 ^ (hi + 1 - lo))
    have h2 : 2 ^ lo * a = 2 ^ lo * (2 ^ (hi + 1 - lo) * (a / 2 ^ (hi + 1 - lo))) + a % 2 ^ (hi + 1 - lo) * 2 ^ lo := by
      conv_lhs => rw [← ha, Nat.mul_add, Nat.mul_comm (2 ^ lo) (a % _)]
    rw [Nat.mul_add, Nat.mul_comm (2 ^ lo) (v % _)]
    omega
  rw [setBits, BitVec.getLsbD_ofNat, hsplit, Nat.testBit_two_pow_mul_add _ hlow]
  by_cases h1 : i < lo
  · rw [if_pos h1, if_neg (by omega), Nat.testBit_mod_two_pow, BitVec.testBit_toNat]
    simp [h1, show i < 64 by omega]
  · rw [if_neg h1, Nat.testBit_two_pow_mul_add _ hfield]
    by_cases h2 : i ≤ hi
    · rw [if_pos (by omega), if_pos ⟨by omega, h2⟩, Nat.testBit_mod_two_pow]
      simp [show i < 64 by omega, show i - lo < hi + 1 - lo by omega]
    · rw [if_neg (by omega), if_neg (by omega), Nat.testBit_div_two_pow, Nat.testBit_div_two_pow, BitVec.testBit_toNat,
        show i - lo - (hi + 1 - lo) + (hi + 1 - lo) + lo = i by omega]
      by_cases h3 : i < 64
      · simp [h3]
      · simp [h3, BitVec.getLsbD_of_ge x i (by omega)]

theorem bits_setBits_same (x : W64) {hi lo : Nat} (v : Nat) (hhi : hi < 64) (hlo : lo ≤ hi) :
    bits (setBits x hi lo v) hi lo = v % 2 ^ (hi + 1 - lo) := by
  refine Nat.eq_of_testBit_eq fun i => ?_
  rw [testBit_bits, getLsbD_setBits x v _ hhi hlo, Nat.testBit_mod_two_pow, Nat.add_sub_cancel_left]
  by_cases h : i < hi + 1 - lo
  · rw [if_pos (by omega)]
  · simp [h]

/-- A field apart from the one that is stored. -/
theorem bits_setBits_disjoint (x : W64) {hi lo hi' lo' : Nat} (v : Nat) (hhi : hi < 64) (hlo : lo ≤ hi) (h : hi' < lo ∨ hi < lo') :
    bits (setBits x hi lo v) hi' lo' = bits x hi' lo' := by
  refine Nat.eq_of_testBit_eq fun i => ?_
  rw [testBit_bits, testBit_bits, getLsbD_setBits x v _ hhi hlo]
  by_cases hi' : i < hi' + 1 - lo'
  · rw [if_neg (by omega)]
  · simp [hi']

/-- APPLY is bit 63: setting it changes no other bit. -/
theorem setBits_apply (x : W64) : setBits x 63 63 1 = x ||| w64 (2 ^ 63) := by
  refine BitVec.eq_of_getLsbD_eq fun i hi => ?_
  rw [getLsbD_setBits x 1 i (by decide) (by decide), BitVec.getLsbD_or, w64, BitVec.getLsbD_ofNat, Nat.testBit_two_pow]
  by_cases h : i = 63
  · simp [h]
  · rw [if_neg (by omega)]
    simp [show ¬ 63 = i from fun e => h e.symm]

/-! ### One field of a register -/

theorem State.rd_setRf_ne (s : State) {o o' : Nat} (hi lo v : Nat) (h : o' ≠ o) : (s.setRf o hi lo v).rd o' = s.rd o' :=
  s.rd_setReg_ne _ h

section
variable (s : State) (o hi lo v : Nat)

@[simp] theorem State.setRf_part (p : Nat) : (s.setRf o hi lo v).part p = s.part p := rfl
@[simp] theorem State.setRf_hbm : (s.setRf o hi lo v).hbm = s.hbm := rfl
@[simp] theorem State.setRf_gth : (s.setRf o hi lo v).gth = s.gth := rfl
@[simp] theorem State.setRf_fab : (s.setRf o hi lo v).fab = s.fab := rfl
@[simp] theorem State.setRf_tbl (t : Nat) : (s.setRf o hi lo v).tbl t = s.tbl t := rfl

end

theorem State.rf_setRf_same (s : State) (o : Nat) {hi lo : Nat} (v : Nat) (hhi : hi < 64) (hlo : lo ≤ hi) :
    (s.setRf o hi lo v).rf o hi lo = v % 2 ^ (hi + 1 - lo) := by
  rw [State.rf, State.setRf, State.rd_setReg, bits_setBits_same _ _ hhi hlo]

theorem State.rf_setRf_disjoint (s : State) (o : Nat) {hi lo hi' lo' : Nat} (v : Nat) (hhi : hi < 64) (hlo : lo ≤ hi)
    (h : hi' < lo ∨ hi < lo') : (s.setRf o hi lo v).rf o hi' lo' = s.rf o hi' lo' := by
  rw [State.rf, State.setRf, State.rd_setReg, bits_setBits_disjoint _ _ hhi hlo h, State.rf]

/-- APPLY of a control register once it is stored. -/
theorem State.apply_setRf (s : State) (o v : Nat) : ((s.setRf o 63 63 v).rd o).getLsbD 63 = v.testBit 0 := by
  rw [State.setRf, State.rd_setReg, getLsbD_setBits _ _ _ (by decide) (by decide), if_pos ⟨le_rfl, le_rfl⟩]

/-! ### A run of registers -/

/-- What every element's action keeps, the run over a list keeps. -/
theorem State.forEach_induct {α : Type} {P : State → Prop} {f : α → State → State} (hf : ∀ a u, P u → P (f a u)) :
    ∀ (l : List α) {s : State}, P s → P (s.forEach l f)
  | [], _, h => h
  | a :: l, s, h => State.forEach_induct hf l (s := f a s) (hf a s h)

/-- Registers in a row, from their base. -/
def State.fillRegs (s : State) (base n : Nat) (v : Nat → W64) : State :=
  s.forEach (List.range n) (fun k s => s.setReg (base + 8 * k) (v k))

section
variable (s : State) (base : Nat) (v : Nat → W64)

theorem State.fillRegs_succ (n : Nat) : s.fillRegs base (n + 1) v = (s.fillRegs base n v).setReg (base + 8 * n) (v n) := by
  rw [State.fillRegs, List.range_succ, State.forEach, List.foldl_append]
  rfl

theorem State.rd_fillRegs : ∀ {n k : Nat}, k < n → (s.fillRegs base n v).rd (base + 8 * k) = v k
  | n + 1, k, h => by
    rw [State.fillRegs_succ]
    by_cases hk : k = n
    · rw [hk, State.rd_setReg]
    · rw [State.rd_setReg_ne _ _ (by omega), State.rd_fillRegs (by omega)]

theorem State.rd_fillRegs_of_le {o : Nat} : ∀ {n : Nat}, base + 8 * n ≤ o → (s.fillRegs base n v).rd o = s.rd o
  | 0, _ => rfl
  | n + 1, h => by rw [State.fillRegs_succ, State.rd_setReg_ne _ _ (by omega), State.rd_fillRegs_of_le (by omega)]

theorem State.fillRegs_frame (n : Nat) : ∃ regs, s.fillRegs base n v = { s with regs := regs } :=
  State.forEach_induct (P := fun u => ∃ regs, u = { s with regs := regs }) (fun _ _ ⟨_, h⟩ => h ▸ ⟨_, rfl⟩) _ ⟨s.regs, rfl⟩

end

/-! ### The staged directory entry -/

section
variable (s : State) (p id : Nat) (img : List W64)

theorem State.stageDir_eq : s.stageDir p id img =
    (s.fillRegs (dirReg p 0) 8 (fun k => nth 0 img k)).setReg (dirReg p 0x40) (w64 (2 ^ 63 + id % 2 ^ 24)) := rfl

@[simp] theorem State.stageDir_control : (s.stageDir p id img).rd (dirReg p 0x40) = w64 (2 ^ 63 + id % 2 ^ 24) := by
  rw [State.stageDir_eq, State.rd_setReg]

@[simp] theorem State.stageDir_word0 : (s.stageDir p id img).rd (dirReg p 0) = nth 0 img 0 := by
  rw [State.stageDir_eq, State.rd_setReg_ne _ _ (by unfold dirReg; omega)]
  exact s.rd_fillRegs (dirReg p 0) _ (by decide : 0 < 8)

theorem State.stageDir_frame : ∃ regs, s.stageDir p id img = { s with regs := regs } := by
  obtain ⟨regs, h⟩ := s.fillRegs_frame (dirReg p 0) (fun k => nth 0 img k) 8
  exact ⟨_, by rw [State.stageDir_eq, h]; rfl⟩

end

/-! ### A write of the partition range -/

/-- What a write of the partition range may change: HBM with its marks, the moves it has met, counters. -/
structure RangeWritten (s u : State) : Prop where
  frame : ∃ hbm hbmPoison flt tier regs,
    u = { s with hbm := hbm, hbmPoison := hbmPoison, flt := flt, tier := tier, regs := regs }

theorem RangeWritten.refl (s : State) : RangeWritten s s := ⟨⟨_, _, _, _, _, rfl⟩⟩

theorem RangeWritten.trans {s t u : State} (h : RangeWritten s t) (k : RangeWritten t u) : RangeWritten s u := by
  obtain ⟨⟨_, _, _, _, _, rfl⟩⟩ := h
  obtain ⟨⟨_, _, _, _, _, rfl⟩⟩ := k
  exact ⟨⟨_, _, _, _, _, rfl⟩⟩

theorem RangeWritten.parts {s u : State} (h : RangeWritten s u) : u.parts = s.parts := by
  obtain ⟨⟨_, _, _, _, _, rfl⟩⟩ := h
  rfl

theorem State.spanWrite_written (s : State) (p a : Nat) (bs : List Byte) : RangeWritten s (s.spanWrite p a bs) := by
  unfold State.spanWrite
  split
  · exact ⟨⟨_, _, _, _, _, rfl⟩⟩
  · exact .refl s

theorem State.spansWrite_written (p : Nat) : ∀ (l : List (Nat × Nat)) (s : State) (bs : List Byte), RangeWritten s (s.spansWrite p l bs)
  | [], s, _ => .refl s
  | sp :: r, s, bs => (s.spanWrite_written p sp.1 (bs.take sp.2)).trans (State.spansWrite_written p r _ _)

theorem State.countBad_written (s : State) (p : Nat) (l : List (Nat × Nat)) : RangeWritten s (s.countBad p l) := by
  obtain ⟨regs, h⟩ := s.bump_spec (cntPart p 40) (b2n (l.any (fun sp => decide (s.xlat p sp.1 = .malformed))))
  exact ⟨⟨_, _, _, _, _, by rw [State.countBad, h]⟩⟩

theorem State.rangeWrite_written (s : State) (p a : Nat) (bs : List Byte) : RangeWritten s (s.rangeWrite p a bs) := by
  unfold State.rangeWrite
  dsimp only
  split
  · exact (State.spansWrite_written p _ s bs).trans ⟨⟨_, _, _, _, _, rfl⟩⟩
  · exact s.countBad_written p _

end Sys2Proof.Machine
end

section
/-! PROOF. The staged images of gather tables, directory entries and profiles, the hot rows and the shard maps (07_adapters.md R164,
08_tables_and_gather.md R173, R191, R192, R195, R320, 11_sampler.md R251, 21_registers.md R453). -/

namespace Sys2Proof.Machine

/-! ### The APPLY rows -/

theorem State.setReg_eq (s : State) (o : Nat) (v : W64) : s.setReg o v = { s with regs := (s.setReg o v).regs } := rfl

/-- Setting APPLY of a control register changes bit 63 of it, and nothing else. -/
theorem State.setApply_spec (s : State) (o : Nat) :
    (s.setRf o 63 63 1).rd o = s.rd o ||| w64 (2 ^ 63) ∧ (∀ o', o' ≠ o → (s.setRf o 63 63 1).rd o' = s.rd o') ∧
      s.setRf o 63 63 1 = { s with regs := (s.setRf o 63 63 1).regs } :=
  ⟨by rw [State.setRf, State.rd_setReg, setBits_apply], fun _ h => s.rd_setRf_ne _ _ _ h, s.setReg_eq _ _⟩

theorem State.apply_set (s : State) (o : Nat) : ((s.setRf o 63 63 1).rd o).getLsbD 63 = true := by
  rw [State.apply_setRf, Nat.testBit_one_zero]

theorem State.apply_cleared (s : State) (o : Nat) : ((s.setRf o 63 63 0).rd o).getLsbD 63 = false := by
  rw [State.apply_setRf, Nat.zero_testBit]

/-- A control register whose staged image has been taken: its RESULT, APPLY clear. -/
def State.applied (s : State) (o result : Nat) : State := (s.setRf o 62 60 result).setRf o 63 63 0

section
variable (s : State) (o result : Nat)

theorem State.applied_result (h : result < 8) : (s.applied o result).rf o 62 60 = result := by
  rw [State.applied, State.rf_setRf_disjoint _ _ _ (by decide) (by decide) (by decide), State.rf_setRf_same _ _ _ (by decide) (by decide)]
  exact Nat.mod_eq_of_lt h

@[simp] theorem State.applied_part (p : Nat) : (s.applied o result).part p = s.part p := by
  rw [State.applied, State.setRf_part, State.setRf_part]

@[simp] theorem State.applied_hbm : (s.applied o result).hbm = s.hbm := by
  rw [State.applied, State.setRf_hbm, State.setRf_hbm]

@[simp] theorem State.applied_tbl (t : Nat) : (s.applied o result).tbl t = s.tbl t := by
  rw [State.applied, State.setRf_tbl, State.setRf_tbl]

theorem State.applied_apply : ((s.applied o result).rd o).getLsbD 63 = false := State.apply_cleared _ _

end

/-! ### TABLE_APPLY -/

/-- The state in which an accepted image is in force; a rejected one changes nothing. -/
def State.tableInForce (s : State) : State :=
  let d := s.tblStaged
  let t := s.rf 0x500280 9 0
  let old := s.tbl t
  if s.tblAccepts d then
    { s with gth := { s.gth with
        tables := Sparse.put [] s.gth.tables t d
        prev := Sparse.put [] s.gth.prev t (if tblSharded old then old else []) } }
  else s

theorem State.applyTable_eq (s : State) (h : (s.rd 0x500280).getLsbD 63 = true) : s.applyTable =
    (s.tableInForce.applied 0x500280 (if s.tblAccepts s.tblStaged then 1 else 2)).setReg 0x500288
      (w64 (s.part (tblPart s.tblStaged)).step) := by
  unfold State.applyTable
  dsimp only
  rw [bit, h]
  rfl

theorem State.tableInForce_tbl (s : State) (k : Nat) : s.tableInForce.tbl k =
    if k = s.rf 0x500280 9 0 ∧ s.tblAccepts s.tblStaged = true then s.tblStaged else s.tbl k := by
  by_cases hok : s.tblAccepts s.tblStaged = true
  · have hput : s.tableInForce.tbl k = Sparse.get [] (Sparse.put [] s.gth.tables (s.rf 0x500280 9 0) s.tblStaged) k := by
      unfold State.tableInForce
      dsimp only
      rw [hok]
      rfl
    by_cases hk : k = s.rf 0x500280 9 0
    · rw [hput, hk, Sparse.get_put_self]
      simp only [hok, and_self, if_true]
    · rw [hput, Sparse.get_put_ne _ _ _ _ hk]
      simp only [hk, false_and, if_false]
      rfl
  · simp only [State.tableInForce, hok, if_false, and_false, Bool.false_eq_true]

/-! ### DIRECTORY_APPLY -/

/-- The number of the first step built with a directory write (R164). -/
def State.dirFirst (s : State) (p : Nat) : Nat := (s.part p).step + (match (s.part p).build with | .idle => 0 | _ => 1)

/-- What applying a staged entry leaves: RESULT 1 with the entry written, or RESULT 2 with nothing written; APPLY clear; the lost adapters
of the partition as they were. -/
structure DirApplied (s : State) (p : Nat) (u : State) : Prop where
  apply : (u.rd (dirReg p 0x40)).getLsbD 63 = false
  result : u.rf (dirReg p 0x40) 62 60 = 1 ∨ u.rf (dirReg p 0x40) 62 60 = 2 ∧ u.hbm = s.hbm
  lost : (u.part p).dirLost = (s.part p).dirLost

/-- The state in which the staged entry is written; none where its place cannot be written or the entry has a reserved field set. -/
def State.dirPut (s : State) (p : Nat) : Option State :=
  let id := s.rf (dirReg p 0x40) 23 0
  let level1 := bit (s.rd (dirReg p 0x40)) 32
  let img := (List.range 8).map (fun k => s.rd (dirReg p (8 * k)))
  match if level1 then some (s.dirFirstAt p id, bytesOf (img.take 1)) else (s.dirAt p id).map (fun a => (a, bytesOf img)) with
  | none => none
  | some (a, b) =>
    if (if level1 then firstClean (nth 0 img 0) else deClean img) && (s.tier1 p a).isSome then
      some (if level1 then s.rangeWrite p a b
        else (s.rangeWrite p a b).supersede p (s.dirFirst p) ((s.dirEntry p id).getD []) img)
    else none

theorem State.applyDir_eq (s : State) (p : Nat) (h : (s.rd (dirReg p 0x40)).getLsbD 63 = true) : s.applyDir p =
    (((s.dirPut p).getD s).applied (dirReg p 0x40) (if (s.dirPut p).isSome then 1 else 2)).setReg (dirReg p 0x48) (w64 (s.dirFirst p)) := by
  unfold State.applyDir
  dsimp only
  rw [bit, h]
  rfl

/-- The write of an entry keeps the partition's lost adapters. -/
theorem State.dirPut_lost {s v : State} {p : Nat} (h : s.dirPut p = some v) : (v.part p).dirLost = (s.part p).dirLost := by
  have hw (a : Nat) (b : List Byte) : (s.rangeWrite p a b).part p = s.part p := by
    rw [State.part, (s.rangeWrite_written p a b).parts, State.part]
  unfold State.dirPut at h
  dsimp only at h
  generalize (if bit (s.rd (dirReg p 0x40)) 32 = true then _ else _ : Option (Nat × List Byte)) = target at h
  match target, h with
  | none, h => exact absurd h nofun
  | some (a, b), h =>
    obtain ⟨_, h⟩ := Option.ite_none_right_eq_some.mp h
    obtain rfl := Option.some.inj h
    split
    · rw [hw]
    · rw [State.supersede, State.onPart, State.part_setPart, hw]

theorem State.applyDir_applied (s : State) (p : Nat) (h : (s.rd (dirReg p 0x40)).getLsbD 63 = true) : DirApplied s p (s.applyDir p) := by
  have hne : dirReg p 0x40 ≠ dirReg p 0x48 := by unfold dirReg; omega
  rw [s.applyDir_eq p h]
  refine ⟨by rw [State.rd_setReg_ne _ _ hne, State.applied_apply], ?_, ?_⟩
  · rw [State.rf, State.rd_setReg_ne _ _ hne, ← State.rf, State.applied_result _ _ _ (by split <;> decide), State.setReg_hbm,
      State.applied_hbm]
    cases hp : s.dirPut p with
    | some v => exact .inl rfl
    | none => exact .inr ⟨rfl, rfl⟩
  · rw [State.setReg_part, State.applied_part]
    cases hp : s.dirPut p with
    | some v => exact State.dirPut_lost hp
    | none => rfl

/-- With the staging registers free the next lost adapter is staged ABSENT; without one nothing changes. -/
theorem State.dirNext_of_free {s : State} {p : Nat} (h : (s.rd (dirReg p 0x40)).getLsbD 63 = false) :
    (∀ id r, (s.part p).dirLost = id :: r → ((s.dirNext p).part p).dirLost = r ∧
      (s.dirNext p).rd (dirReg p 0x40) = w64 (2 ^ 63 + id % 2 ^ 24)) ∧
    ((s.part p).dirLost = [] → s.dirNext p = s) := by
  have hb : s.dirBusy p = false := h
  constructor
  · intro id r hl
    have hn : s.dirNext p = (s.onPart p (fun x => { x with dirLost := r })).stageDir p id (List.replicate 8 0) := by
      simp only [State.dirNext, hl, hb, Bool.false_eq_true, if_false]
    rw [hn]
    refine ⟨?_, State.stageDir_control _ _ _ _⟩
    obtain ⟨regs, hf⟩ := (s.onPart p (fun x => { x with dirLost := r })).stageDir_frame p id (List.replicate 8 0)
    rw [hf]
    exact congrArg Part.dirLost (State.part_setPart s p _)
  · intro hl
    simp only [State.dirNext, hl]

/-! ### HOT_SET_REFRESH -/

/-- The fault unit has no part in a write of HBM. -/
theorem State.spansWrite_of_flt (p : Nat) : ∀ (l : List (Nat × Nat)) (s : State) (f : Faults) (bs : List Byte),
    ∃ f', ({ s with flt := f } : State).spansWrite p l bs = { s.spansWrite p l bs with flt := f' }
  | [], _, f, _ => ⟨f, rfl⟩
  | sp :: r, s, f, bs => by
    have h1 : ∃ f', ({ s with flt := f } : State).spanWrite p sp.1 (bs.take sp.2) =
        { s.spanWrite p sp.1 (bs.take sp.2) with flt := f' } := by
      unfold State.spanWrite
      rw [show ({ s with flt := f } : State).tier1 p sp.1 = s.tier1 p sp.1 from rfl]
      split
      · exact ⟨_, rfl⟩
      · exact ⟨f, rfl⟩
    obtain ⟨f1, h1⟩ := h1
    obtain ⟨f2, h2⟩ := State.spansWrite_of_flt p r (s.spanWrite p sp.1 (bs.take sp.2)) f1 (bs.drop sp.2)
    exact ⟨f2, by rw [State.spansWrite, h1, h2, State.spansWrite]⟩

section
variable (s : State) (kind : Nat) (ws : List W64) (p : Nat)

theorem State.rangeWrite_hbm_of_journal (a : Nat) (bs : List Byte) :
    ((s.journal kind ws).rangeWrite p a bs).hbm = (s.rangeWrite p a bs).hbm := by
  have hr : (s.journal kind ws).rangeResp p true (pageSpans a bs.length) = s.rangeResp p true (pageSpans a bs.length) := rfl
  have hbad (u : State) (l : List (Nat × Nat)) : (u.countBad p l).hbm = u.hbm := by
    obtain ⟨_, h⟩ := u.bump_spec (cntPart p 40) (b2n (l.any (fun sp => decide (u.xlat p sp.1 = .malformed))))
    rw [State.countBad, h]
  simp only [State.rangeWrite, hr]
  split
  · obtain ⟨f, h⟩ := State.spansWrite_of_flt p (pageSpans a bs.length) s (s.journal kind ws).flt bs
    have hbm := congrArg State.hbm h
    exact hbm
  · rw [hbad, hbad]
    rfl

theorem State.rangeRead64_journal (a : Nat) : (s.journal kind ws).rangeRead64 p a = s.rangeRead64 p a := rfl

theorem State.hotPlace_journal (d : List W64) (row : Nat) :
    ∀ n at_, (s.journal kind ws).hotPlace p d row at_ n = s.hotPlace p d row at_ n
  | 0, _ => rfl
  | n + 1, at_ => by
    simp only [State.hotPlace, State.rangeRead64_journal, State.hotPlace_journal d row n]

end

/-- What a change of a hot set leaves: rods, bead memory, and the gather unit but for the times at which slots were freed. -/
structure HotKept (s u : State) : Prop where
  rods : u.rods = s.rods
  bead : u.bead = s.bead
  gth : u.gth = { s.gth with freed := u.gth.freed }

theorem HotKept.trans {s t u : State} (h : HotKept s t) (k : HotKept t u) : HotKept s u :=
  ⟨k.rods.trans h.rods, k.bead.trans h.bead, by rw [k.gth, h.gth]⟩

theorem RangeWritten.hotKept {s u : State} (h : RangeWritten s u) : HotKept s u := by
  obtain ⟨⟨_, _, _, _, _, rfl⟩⟩ := h
  exact ⟨rfl, rfl, rfl⟩

/-- A row evicted: its index entry becomes 0, and its slot's time is set. -/
def State.hotEvict (s : State) (t p a e : Nat) : State :=
  { s.rangeWrite64 p a 0 with gth := { s.gth with freed := Sparse.put 0 s.gth.freed (2 ^ 24 * t + e) (s.time + 1) } }

theorem State.hotEvict_kept (s : State) (t p a e : Nat) : HotKept s (s.hotEvict t p a e) := by
  obtain ⟨hrods, hbead, -⟩ := (s.rangeWrite_written p a (leBytes 8 (0 : W64).toNat)).hotKept
  exact ⟨hrods, hbead, rfl⟩

theorem State.hotChange_evict {s : State} {t row a : Nat} {d : List W64} {e : W64}
    (ha : s.hotPlace (tblPart d) d row (tblHash d row).toNat 8 = some a) (he : s.rangeRead64 (tblPart d) a = some e) (h0 : e ≠ 0) :
    s.hotChange t d (.evict row) = s.hotEvict t (tblPart d) a (bits e 23 0) := by
  simp only [State.hotChange, ha, he, h0, if_false]
  rfl

theorem State.hotChange_kept (s : State) (t : Nat) (d : List W64) (c : HotChange) : HotKept s (s.hotChange t d c) := by
  have hs : HotKept s s := (RangeWritten.refl s).hotKept
  cases c with
  | insert row slot content =>
    simp only [State.hotChange]
    split
    · split
      · exact hs
      · exact ((s.rangeWrite_written _ _ _).trans (State.rangeWrite_written _ _ _ _)).hotKept
    · exact hs
  | evict row =>
    cases ha : s.hotPlace (tblPart d) d row (tblHash d row).toNat 8 with
    | none => simpa only [State.hotChange, ha] using hs
    | some a =>
      cases he : s.rangeRead64 (tblPart d) a with
      | none => simpa only [State.hotChange, ha, he] using hs
      | some e =>
        by_cases h0 : e = 0
        · simpa only [State.hotChange, ha, he, h0, if_true] using hs
        · rw [State.hotChange_evict ha he h0]
          exact s.hotEvict_kept t _ a _

theorem State.hotSet_kept (s : State) (t : Nat) (d : List W64) (l : List HotChange) :
    HotKept s ((s.journal 2 [w64 t]).forEach l (fun c s => s.hotChange t d c)) :=
  State.forEach_induct (P := fun u => HotKept s u) (fun c u h => h.trans (u.hotChange_kept t d c)) l ⟨rfl, rfl, rfl⟩

/-! ### SHARD_MIGRATION -/

/-- The table descriptor of the changed shard map: the next version, the map's new place (R192). -/
def nextShardDesc (d : List W64) (newMap : Nat) : List W64 :=
  setNth (setNth d 0 (setBits (nth 0 d 0) 47 32 ((tblVersion d + 1) % 2 ^ 16))) 5 (w64 newMap)

theorem nextShardDesc_version {d : List W64} (newMap : Nat) (h : tblSharded d = true) :
    bits (nth 0 (nextShardDesc d newMap) 0) 47 32 = (tblVersion d + 1) % 2 ^ 16 := by
  cases d with
  | nil => exact absurd h (by decide)
  | cons w r =>
    have h0 : nth 0 (nextShardDesc (w :: r) newMap) 0 = setBits w 47 32 ((tblVersion (w :: r) + 1) % 2 ^ 16) := rfl
    rw [h0, bits_setBits_same _ _ (by decide) (by decide)]
    exact Nat.mod_mod _ _

/-- What staging the next version of a table leaves: APPLY set, the table named, its version one more; the tables in force as they were. -/
structure BucketStaged (s : State) (t version : Nat) (u : State) : Prop where
  apply : (u.rd 0x500280).getLsbD 63 = true
  table : u.rf 0x500280 9 0 = t
  version : bits (u.rd 0x500200) 47 32 = version
  tables : u.gth.tables = s.gth.tables

section
variable (s : State) (bucket owner offset newMap : Nat) (m : List Byte)

/-- The state whose staging registers hold the changed shard map's descriptor. -/
def State.shardMapStaged (d : List W64) : State :=
  (s.rangeWrite (tblPart d) newMap (m.take (8 * bucket) ++ leBytes 8 (owner * 2 ^ 61 + offset) ++ m.drop (8 * bucket + 8))).fillRegs
    0x500200 16 (fun k => nth 0 (nextShardDesc d newMap) k)

theorem State.stageBucket_eq (t : Nat) (d : List W64) : s.stageBucket t bucket owner offset newMap d m =
    ((s.shardMapStaged bucket owner offset newMap m d).setRf 0x500280 9 0 t).setRf 0x500280 63 63 1 := rfl

theorem State.shardMapStaged_gth (d : List W64) : (s.shardMapStaged bucket owner offset newMap m d).gth = s.gth := by
  unfold State.shardMapStaged
  obtain ⟨regs, h⟩ := State.fillRegs_frame (s.rangeWrite (tblPart d) newMap
    (m.take (8 * bucket) ++ leBytes 8 (owner * 2 ^ 61 + offset) ++ m.drop (8 * bucket + 8))) 0x500200
    (fun k => nth 0 (nextShardDesc d newMap) k) 16
  rw [h]
  obtain ⟨⟨_, _, _, _, _, hw⟩⟩ := s.rangeWrite_written (tblPart d) newMap
    (m.take (8 * bucket) ++ leBytes 8 (owner * 2 ^ 61 + offset) ++ m.drop (8 * bucket + 8))
  rw [hw]

theorem State.stageBucket_staged {t : Nat} {d : List W64} (ht : t < 1024) (hd : tblSharded d = true) :
    BucketStaged s t ((tblVersion d + 1) % 2 ^ 16) (s.stageBucket t bucket owner offset newMap d m) := by
  rw [State.stageBucket_eq]
  refine ⟨State.apply_set _ _, ?_, ?_, ?_⟩
  · rw [State.rf_setRf_disjoint _ _ _ (by decide) (by decide) (by decide), State.rf_setRf_same _ _ _ (by decide) (by decide)]
    exact Nat.mod_eq_of_lt ht
  · rw [State.rd_setRf_ne _ _ _ _ (by decide), State.rd_setRf_ne _ _ _ _ (by decide), ← nextShardDesc_version newMap hd]
    exact congrArg (fun w => bits w 47 32) (State.rd_fillRegs _ 0x500200 _ (by decide : 0 < 16))
  · rw [State.setRf_gth, State.setRf_gth, State.shardMapStaged_gth]

/-- The end of a migration from the place `o`: the copy has reached the new owner. -/
def State.bucketMoved (t : Nat) (o : Nat × Nat) (d : List W64) : State :=
  let s1 := if o.1 = s.fab.pos && owner ≠ s.fab.pos then
    { s with gth := { s.gth with moved := s.gth.moved ++ [(t, bucket, o.2)] } } else s
  (s1.journal 2 [w64 t, w64 bucket, w64 owner]).stageBucket t bucket owner offset newMap d m

theorem State.bucketMoved_staged {t : Nat} {d : List W64} (o : Nat × Nat) (ht : t < 1024) (hd : tblSharded d = true) :
    BucketStaged s t ((tblVersion d + 1) % 2 ^ 16) (s.bucketMoved bucket owner offset newMap m t o d) := by
  unfold State.bucketMoved
  dsimp only
  obtain ⟨ha, ht', hv, hg⟩ := State.stageBucket_staged
    ((if o.1 = s.fab.pos && owner ≠ s.fab.pos then
      ({ s with gth := { s.gth with moved := s.gth.moved ++ [(t, bucket, o.2)] } } : State) else s).journal 2
        [w64 t, w64 bucket, w64 owner]) bucket owner offset newMap m ht hd
  refine ⟨ha, ht', hv, hg.trans ?_⟩
  split <;> rfl

end

theorem BucketStaged.of_gth {s u v : State} {t version : Nat} (h : BucketStaged u t version v) (hu : u.gth = s.gth) :
    BucketStaged s t version v :=
  ⟨h.apply, h.table, h.version, h.tables.trans (congrArg Gather.tables hu)⟩

/-- A copy in which this block has no part, or that stays within it, asks nothing of another block. -/
theorem State.bucketCopy_local (s : State) (t bucket p o off owner offset sz : Nat) (h : o = s.fab.pos ↔ owner = s.fab.pos) :
    (s.bucketCopy t bucket p o off owner offset sz).fab = s.fab ∧ (s.bucketCopy t bucket p o off owner offset sz).gth = s.gth := by
  unfold State.bucketCopy
  by_cases ho : o = s.fab.pos
  · rw [if_pos ho, if_pos (h.mp ho)]
    exact ⟨rfl, rfl⟩
  · rw [if_neg ho, if_neg fun e => ho (h.mpr e)]
    exact ⟨rfl, rfl⟩

/-! ### GTH_TBL_RELEASE -/

/-- Withdrawing the replicas of directory entries changes the fabric unit and the outputs only. -/
theorem State.invalidate_frame (s : State) (e : ReplicaDir) : ∃ F O, s.invalidate e = { s with fab := F, out := O } := by
  unfold State.invalidate
  obtain ⟨F, O, h⟩ := forEach_frame (fun k s => s.replicaSend k 0x10 e.table e.row ((e.epoch + 1) % 2 ^ 32))
    (fun k s => linkSend_frame s _ _) e.mask (s.onDir (fun x => x == e) (fun x => { x with
      epoch := (e.epoch + 1) % 2 ^ 32, await := x.mask.map (fun k => (k, 1)),
      invals := x.mask.foldl (fun m k => Sparse.put 0 m k ((e.epoch + 1) % 2 ^ 32)) x.invals }))
  exact ⟨F, O, h⟩

theorem State.releaseTable_table (s : State) (t : Nat) : (s.releaseTable t).rf 0x500290 9 0 = s.rf 0x500290 9 0 := by
  unfold State.releaseTable
  dsimp only
  rw [State.rf_setRf_disjoint _ _ _ (by decide) (by decide) (by decide)]
  rfl

theorem State.releaseTable_forgets (s : State) (t : Nat) :
    Sparse.get [] (s.releaseTable t).gth.prev t = [] ∧ ((s.releaseTable t).rd 0x500290).getLsbD 63 = false := by
  unfold State.releaseTable
  dsimp only
  refine ⟨?_, State.apply_cleared _ _⟩
  rw [State.setRf_gth]
  have hget := Sparse.get_put_self (α := List W64) [] s.gth.prev t []
  exact hget

theorem State.tryRelease_table (s : State) : s.tryRelease.rf 0x500290 9 0 = s.rf 0x500290 9 0 := by
  unfold State.tryRelease
  dsimp only
  split
  · exact s.releaseTable_table _
  · rfl

/-- A release whose version no directory entry names ends at once. -/
theorem State.tryRelease_of_noDir {s : State} (h : (s.rd 0x500290).getLsbD 63 = true) (hd : s.fab.dir = []) :
    s.tryRelease = s.releaseTable (s.rf 0x500290 9 0) := by
  have hr : ∀ t v, s.replicated t v = false := fun t v => by rw [State.replicated, hd]; rfl
  unfold State.tryRelease
  dsimp only
  rw [bit, h, hr]
  rfl

/-- The state in which the replicas of the version that a release names are being withdrawn. -/
def State.withdrawing (s : State) (t : Nat) : State :=
  let ver := tblVersion (Sparse.get [] s.gth.prev t)
  let s2 := (s.setReg 0x500290 (w64 t)).dropCopies (fun t' _ v => t' == t && v == ver)
  s2.forEach (s2.fab.dir.filter (fun e => e.table == t && e.ver == ver && e.await.isEmpty)) (fun e s => s.invalidate e)

theorem State.withdrawing_rd (s : State) (t : Nat) : (s.withdrawing t).rd 0x500290 = w64 t := by
  unfold State.withdrawing
  dsimp only
  obtain ⟨F, O, h⟩ := forEach_frame (fun e s => State.invalidate s e) (fun e s => s.invalidate_frame e)
    (((s.setReg 0x500290 (w64 t)).dropCopies (fun t' _ v => t' == t && v == tblVersion (Sparse.get [] s.gth.prev t))).fab.dir.filter
      (fun e => e.table == t && e.ver == tblVersion (Sparse.get [] s.gth.prev t) && e.await.isEmpty))
    ((s.setReg 0x500290 (w64 t)).dropCopies (fun t' _ v => t' == t && v == tblVersion (Sparse.get [] s.gth.prev t)))
  rw [h]
  exact State.rd_setReg s 0x500290 (w64 t)

theorem State.withdrawing_dir {s : State} (t : Nat) (h : s.fab.dir = []) : (s.withdrawing t).fab.dir = [] := by
  have hd (sel : Nat → Nat → Nat → Bool) : ((s.setReg 0x500290 (w64 t)).dropCopies sel).fab.dir = [] := by
    show List.map _ s.fab.dir = []
    rw [h]
    rfl
  unfold State.withdrawing
  dsimp only
  rw [hd]
  exact hd _

section
variable {s : State} {v : W64} (h : (s.rd 0x500290).getLsbD 63 = false)
include h

theorem State.writeRelease_plain (hv : v.getLsbD 63 = false) : s.writeRelease v = s.setReg 0x500290 (w64 (bits v 9 0)) := by
  simp only [State.writeRelease, bit, h, hv, Bool.false_eq_true, if_false, Bool.not_false, if_true]

theorem State.writeRelease_withdraw (hv : v.getLsbD 63 = true) :
    s.writeRelease v = ((s.withdrawing (bits v 9 0)).setRf 0x500290 63 63 1).tryRelease := by
  simp only [State.writeRelease, bit, h, hv, Bool.false_eq_true, if_false, Bool.not_true]
  rw [State.withdrawing]

end

theorem bits_w64_same {n w : Nat} (h : n < 2 ^ (w + 1)) (hw : w < 64) : bits (w64 n) w 0 = n := by
  have h64 : n < 2 ^ 64 := lt_of_lt_of_le h (Nat.pow_le_pow_right (by decide) hw)
  rw [bits, w64, BitVec.toNat_ofNat, Nat.mod_eq_of_lt h64, pow_zero, Nat.div_one, Nat.sub_zero, Nat.mod_eq_of_lt h]

/-! ### The rows -/

theorem execProfileApply_of_handling {s : State} (p : Fin 16) (hopen : (s.part p).opened ≠ none) (hend : (s.part p).ended = true) :
    execProfileApply p s = .next s := by
  have hbusy : ((s.part p).opened.isSome && (s.part p).ended) = true := by
    rw [hend, Bool.and_true]
    exact Option.isSome_iff_ne_none.mpr hopen
  rw [execProfileApply, hbusy, Bool.not_true, Bool.and_false, if_neg Bool.false_ne_true]

section
variable {s : State} (hlive : s.live = true)
include hlive

theorem execTableApply_spec (happly : (s.rd 0x500280).getLsbD 63 = true) (hidle : s.idle (tblPart s.tblStaged) = true) :
    ∃ t, execTableApply s = .next t ∧
      t.tbl (s.rf 0x500280 9 0) = (if s.tblAccepts s.tblStaged = true then s.tblStaged else s.tbl (s.rf 0x500280 9 0)) ∧
      (∀ k, k ≠ s.rf 0x500280 9 0 → t.tbl k = s.tbl k) ∧
      t.rf 0x500280 62 60 = (if s.tblAccepts s.tblStaged = true then 1 else 2) ∧ (t.rd 0x500280).getLsbD 63 = false := by
  refine ⟨_, by rw [execTableApply, hlive, hidle, Bool.and_self, if_pos rfl, s.applyTable_eq happly], ?_, fun k hk => ?_, ?_, ?_⟩
  · rw [State.tbl, State.setReg_gth, ← State.tbl, State.applied_tbl, State.tableInForce_tbl]
    simp only [true_and]
  · rw [State.tbl, State.setReg_gth, ← State.tbl, State.applied_tbl, State.tableInForce_tbl, if_neg (fun h => hk h.1)]
  · rw [State.rf, State.rd_setReg_ne _ _ (by decide), ← State.rf, State.applied_result _ _ _ (by split <;> decide)]
  · rw [State.rd_setReg_ne _ _ (by decide), State.applied_apply]

theorem execDirectoryApply_spec (p : Fin 16) (happly : (s.rd (dirReg p 0x40)).getLsbD 63 = true)
    (hst : s.idle p = true ∨ (s.part p).st ≠ .running) :
    ∃ t, execDirectoryApply p s = .next t ∧
      (∀ id r, (s.part p).dirLost = id :: r → (t.part p).dirLost = r ∧ t.rd (dirReg p 0x40) = w64 (2 ^ 63 + id % 2 ^ 24)) ∧
      ((s.part p).dirLost = [] → (t.rd (dirReg p 0x40)).getLsbD 63 = false ∧
        (t.rf (dirReg p 0x40) 62 60 = 1 ∨ t.rf (dirReg p 0x40) 62 60 = 2 ∧ t.hbm = s.hbm)) := by
  obtain ⟨hclear, hres, hlost⟩ := s.applyDir_applied p happly
  obtain ⟨hnext, hsame⟩ := State.dirNext_of_free hclear
  refine ⟨(s.applyDir p).dirNext p, ?_, fun id r hl => hnext id r (hlost.trans hl), fun hl => ?_⟩
  · rw [execDirectoryApply, hlive, if_pos (by simpa using hst)]
  · rw [hsame (hlost.trans hl)]
    exact ⟨hclear, hres⟩

theorem execDirectoryApply_of_building (p : Fin 16) (hidle : s.idle p = false) (hst : (s.part p).st = .running) :
    execDirectoryApply p s = .next s := by
  rw [execDirectoryApply, hlive, hidle, if_neg (by simp [hst])]

theorem execProfileApply_spec (p : Fin 16) (happly : (s.rd (pReg p 0x240)).getLsbD 63 = true)
    (hfree : (s.part p).opened = none ∨ (s.part p).ended = false) :
    ∃ t, execProfileApply p s = .next t ∧ (t.rd (pReg p 0x240)).getLsbD 63 = false ∧
      t.hbm = (s.rangeWrite p ((s.rd (pReg p 0x58)).toNat + 64 * s.rf (pReg p 0x240) 12 0)
        (bytesOf ((List.range 8).map (fun k => s.rd (pReg p (0x200 + 8 * k)))))).hbm := by
  have hbusy : ((s.part p).opened.isSome && (s.part p).ended) = false := by
    rcases hfree with h | h <;> simp [h]
  refine ⟨(s.rangeWrite p ((s.rd (pReg p 0x58)).toNat + 64 * s.rf (pReg p 0x240) 12 0)
    (bytesOf ((List.range 8).map (fun k => s.rd (pReg p (0x200 + 8 * k)))))).setRf (pReg p 0x240) 63 63 0, ?_, ?_, ?_⟩
  · simp only [execProfileApply, hlive, bit, happly, hbusy, Bool.not_false, Bool.and_self, if_true]
  · exact State.apply_cleared _ _
  · exact State.setRf_hbm _ _ _ _ _

theorem execHotSetRefresh_spec (tbl : Fin 1024) (l : List HotChange) (hhot : tblHot (s.tbl tbl) = true) :
    ∃ t, execHotSetRefresh tbl l s = .next t ∧ t.rods = s.rods ∧ t.bead = s.bead ∧ t.gth = { s.gth with freed := t.gth.freed } ∧
      ∀ row a e, l = [.evict row] → s.hotPlace (tblPart (s.tbl tbl)) (s.tbl tbl) row (tblHash (s.tbl tbl) row).toNat 8 = some a →
        s.rangeRead64 (tblPart (s.tbl tbl)) a = some e → e ≠ 0 → t.hbm = (s.rangeWrite64 (tblPart (s.tbl tbl)) a 0).hbm ∧
          Sparse.get 0 t.gth.freed (2 ^ 24 * tbl.val + bits e 23 0) = s.time + 1 := by
  obtain ⟨hrods, hbead, hgth⟩ := s.hotSet_kept tbl (s.tbl tbl) l
  refine ⟨_, by rw [execHotSetRefresh, hlive, hhot, Bool.and_self, if_pos rfl], hrods, hbead, hgth, ?_⟩
  rintro row a e rfl ha he h0
  have hj : (s.journal 2 [w64 tbl]).hotChange tbl (s.tbl tbl) (.evict row) =
      (s.journal 2 [w64 tbl]).hotEvict tbl (tblPart (s.tbl tbl)) a (bits e 23 0) :=
    State.hotChange_evict (by rw [State.hotPlace_journal, ha]) (by rw [State.rangeRead64_journal, he]) h0
  have hone : (s.journal 2 [w64 tbl]).forEach [.evict row] (fun c u => u.hotChange tbl (s.tbl tbl) c) =
      (s.journal 2 [w64 tbl]).hotEvict tbl (tblPart (s.tbl tbl)) a (bits e 23 0) := hj
  rw [hone]
  exact ⟨s.rangeWrite_hbm_of_journal _ _ _ _ _, Sparse.get_put_self _ _ _ _⟩

end

section
variable {s : State} {tbl : Fin 1024} {bucket : Nat} {owner : Fin 8} (off : BitVec 48) (map : BitVec 52) {o : Nat × Nat} {m : List Byte}
  (hlive : s.live = true) (hsh : tblSharded (s.tbl tbl) = true) (ho : s.shardOf (s.tbl tbl) (4096 * bucket) = some o)
  (hm : s.rangeRead (tblPart (s.tbl tbl)) (bits (nth 0 (s.tbl tbl) 5) 51 0) (8 * ceilDiv (tblCount (s.tbl tbl)) 4096) = some m)
  (hb : 8 * bucket < 8 * ceilDiv (tblCount (s.tbl tbl)) 4096) (hfree : (s.rd 0x500280).getLsbD 63 = false)
  (hold : owner.val = s.fab.pos → s.oldPlace off.toNat (tblRow (s.tbl tbl) * 4096) = false)
include hlive hsh ho hm hb hfree hold

/-- The row with its conditions met, by the operations of the bucket's copy. -/
theorem execShardMigration_eq : execShardMigration tbl bucket owner off map s = .next (
    let moved (u : State) : State := u.bucketMoved bucket owner off.toNat map.toNat m tbl o (s.tbl tbl)
    match s.opsOf (.bucket tbl bucket) with
    | [] =>
      let u := s.bucketCopy tbl bucket (tblPart (s.tbl tbl)) o.1 o.2 owner off.toNat (tblRow (s.tbl tbl) * 4096)
      if (u.opsOf (.bucket tbl bucket)).isEmpty then moved u else u
    | x :: _ =>
      match x.resp with
      | none => s
      | some r =>
        if r ≠ 0 then s.dropOps (.bucket tbl bucket)
        else moved (if x.op = 1 then (s.dropOps (.bucket tbl bucket)).hbmWrite off.toNat x.data else s.dropOps (.bucket tbl bucket))) := by
  have hplace : (decide (owner.val = s.fab.pos) && s.oldPlace off.toNat (tblRow (s.tbl tbl) * 4096)) = false := by
    by_cases h : owner.val = s.fab.pos
    · rw [hold h, Bool.and_false]
    · rw [decide_eq_false h, Bool.false_and]
  obtain ⟨o1, o2⟩ := o
  simp only [execShardMigration, ho, hm, bit, hfree, hlive, hsh, hb, hplace, decide_true, Bool.not_true, Bool.not_false, Bool.and_self,
    Bool.or_self, Bool.false_eq_true, if_false, State.bucketMoved] <;> rfl

theorem execShardMigration_waits {x : UnitOp} {l : List UnitOp} (hops : s.opsOf (.bucket tbl bucket) = x :: l) :
    (x.resp = none → execShardMigration tbl bucket owner off map s = .next s) ∧
      ∀ r, x.resp = some r → r ≠ 0 → execShardMigration tbl bucket owner off map s = .next (s.dropOps (.bucket tbl bucket)) := by
  rw [execShardMigration_eq off map hlive hsh ho hm hb hfree hold, hops]
  exact ⟨fun h => by simp only [h], fun r h h0 => by simp only [h, h0, ne_eq, not_false_eq_true, if_true]⟩

theorem execShardMigration_stages (hdone : (s.opsOf (.bucket tbl bucket) = [] ∧ (o.1 = s.fab.pos ↔ owner.val = s.fab.pos)) ∨
    ∃ x l, s.opsOf (.bucket tbl bucket) = x :: l ∧ x.resp = some 0) :
    ∃ t, execShardMigration tbl bucket owner off map s = .next t ∧
      BucketStaged s tbl ((tblVersion (s.tbl tbl) + 1) % 2 ^ 16) t := by
  rw [execShardMigration_eq off map hlive hsh ho hm hb hfree hold]
  have hmoved (u : State) (hu : u.gth = s.gth) :=
    (u.bucketMoved_staged bucket owner off.toNat map.toNat m o tbl.isLt hsh).of_gth hu
  rcases hdone with ⟨hops, hlocal⟩ | ⟨x, l, hops, hresp⟩
  · obtain ⟨hfab, hgth⟩ := s.bucketCopy_local tbl bucket (tblPart (s.tbl tbl)) o.1 o.2 owner off.toNat (tblRow (s.tbl tbl) * 4096) hlocal
    have hnone : (s.bucketCopy tbl bucket (tblPart (s.tbl tbl)) o.1 o.2 owner off.toNat (tblRow (s.tbl tbl) * 4096)).opsOf
        (.bucket tbl bucket) = [] := by rw [← hops, State.opsOf, hfab, State.opsOf]
    exact ⟨_, rfl, by simpa only [hops, hnone, List.isEmpty_nil, if_true] using hmoved _ hgth⟩
  · refine ⟨_, rfl, ?_⟩
    simp only [hops, hresp, ne_eq, not_true_eq_false, if_false]
    refine hmoved _ ?_
    split <;> rfl

end

theorem execGthTblRelease_spec {s : State} (v : W64) (hlive : s.live = true) (hfree : (s.rd 0x500290).getLsbD 63 = false) :
    ∃ t, execGthTblRelease v s = .next t ∧ t.rf 0x500290 9 0 = bits v 9 0 ∧
      (v.getLsbD 63 = false → t.gth = s.gth ∧ t.fab = s.fab) ∧
      (v.getLsbD 63 = true → s.fab.dir = [] → Sparse.get [] t.gth.prev (bits v 9 0) = [] ∧ (t.rd 0x500290).getLsbD 63 = false) := by
  have hn : bits (w64 (bits v 9 0)) 9 0 = bits v 9 0 := bits_w64_same (Nat.mod_lt _ (by decide)) (by decide)
  refine ⟨s.writeRelease v, by rw [execGthTblRelease, hlive, if_pos rfl], ?_⟩
  cases hv : v.getLsbD 63 with
  | false =>
    rw [State.writeRelease_plain hfree hv]
    exact ⟨by rw [State.rf, State.rd_setReg, hn], fun _ => ⟨rfl, rfl⟩, nofun⟩
  | true =>
    have htable : ((s.withdrawing (bits v 9 0)).setRf 0x500290 63 63 1).rf 0x500290 9 0 = bits v 9 0 := by
      rw [State.rf_setRf_disjoint _ _ _ (by decide) (by decide) (by decide), State.rf, State.withdrawing_rd, hn]
    rw [State.writeRelease_withdraw hfree hv]
    refine ⟨by rw [State.tryRelease_table, htable], nofun, fun _ hdir => ?_⟩
    rw [State.tryRelease_of_noDir (State.apply_set _ _) (by rw [State.setRf_fab, State.withdrawing_dir _ hdir]), htable]
    exact State.releaseTable_forgets _ _

/-- Settles O33: the APPLY rows through the fields of a control register, each application through what it leaves in its registers and in
HBM, and the shard map through the version it stages. The conditions under which the three images are taken are the model's choice (log
entry 49). -/
theorem stagedTablesApply : Obligations.StagedTablesApply := by
  refine ⟨fun s hl => ⟨_, ?_, s.setApply_spec 0x500280⟩,
    fun s p hl => ⟨⟨_, ?_, s.setApply_spec (dirReg p 0x40)⟩, ⟨_, ?_, s.setApply_spec (pReg p 0x240)⟩⟩,
    fun s hl ha hi => execTableApply_spec hl ha hi,
    fun s p hl ha => ⟨execDirectoryApply_spec hl p ha, execDirectoryApply_of_building hl p⟩,
    fun s p hl ha => ⟨execProfileApply_spec hl p ha, execProfileApply_of_handling p⟩,
    fun s tbl l hl hh => execHotSetRefresh_spec hl tbl l hh, ?_,
    fun s v hl hf => execGthTblRelease_spec v hl hf⟩
  · show execGthTblStageApply s = _
    rw [execGthTblStageApply, hl, if_pos rfl]
  · show execCarDirStageApply p s = _
    rw [execCarDirStageApply, hl, if_pos rfl]
  · show execSeqProfStageApply p s = _
    rw [execSeqProfStageApply, hl, if_pos rfl]
  · intro s tbl bucket owner off map o m d n u hl hsh ho hm hb hf hold
    refine ⟨fun x l hops => execShardMigration_waits off map hl hsh ho hm hb hf hold hops, fun hdone => ?_⟩
    obtain ⟨t, ht, ⟨happly, htable, hversion, htables⟩⟩ := execShardMigration_stages off map hl hsh ho hm hb hf hold hdone
    exact ⟨t, ht, happly, htable, hversion, htables⟩

end Sys2Proof.Machine
end

section
/-! PROOF. The Weight streamer: what accepting a descriptor, moving an extent and failing one leave (12_memory_tiers.md R277 to R282). -/

namespace Sys2Proof.Machine

/-! ### What leaves the block for a unit -/

/-- What an operation beyond the block may change: the seals, the host channels, the fabric unit, the outputs. -/
structure UnitSent (s u : State) : Prop where
  frame : ∃ sec chans fab out, u = { s with sec := sec, chans := chans, fab := fab, out := out }

theorem UnitSent.refl (s : State) : UnitSent s s := ⟨⟨_, _, _, _, rfl⟩⟩

theorem UnitSent.trans {s t u : State} (h : UnitSent s t) (k : UnitSent t u) : UnitSent s u := by
  obtain ⟨⟨_, _, _, _, rfl⟩⟩ := h
  obtain ⟨⟨_, _, _, _, rfl⟩⟩ := k
  exact ⟨⟨_, _, _, _, rfl⟩⟩

theorem State.sealSectors_sent : ∀ (n : Nat) (s : State) (a : Nat) (bs : List Byte), UnitSent s (s.sealSectors a bs n).2
  | 0, s, _, _ => .refl s
  | n + 1, s, a, bs => by
    unfold State.sealSectors
    exact UnitSent.trans ⟨⟨_, _, _, _, rfl⟩⟩ (State.sealSectors_sent n _ (a + 4096) (bs.drop 4096))

theorem State.hostWrite_sent (s : State) (t off : Nat) (bs : List Byte) : UnitSent s (s.hostWrite t off bs) :=
  State.forEach_induct (P := fun u => UnitSent s u) (fun _ _ h => h.trans ⟨⟨_, _, _, _, rfl⟩⟩) _ (.refl s)

theorem State.linkSends_sent {α : Type} (port : Nat) (f : α → State → Flit) (l : List α) (s : State) :
    UnitSent s (s.forEach l (fun x s => s.linkSend port (f x s))) := by
  obtain ⟨F, O, h⟩ := forEach_frame (fun x (s : State) => s.linkSend port (f x s)) (fun x s => linkSend_frame s port (f x s)) l s
  exact ⟨⟨_, _, F, O, h⟩⟩

theorem State.unitOp_sent (s : State) (use : UnitUse) (p op a len : Nat) (data : List Byte) (sealed : Bool) (width : Nat) (b c : W64) :
    UnitSent s (s.unitOp use p op a len data sealed width b c) := by
  unfold State.unitOp
  extract_lets lo n ps o add t h ch dHost dLink
  have hadd (r : Option Nat) {u : State} (h : UnitSent s u) : UnitSent s (add r u) := h.trans ⟨⟨_, _, _, _, rfl⟩⟩
  have hseal (c : Prop) [Decidable c] : UnitSent s (if c then s.sealSectors lo data (n / 4096) else (data, s)).2 := by
    split
    · exact State.sealSectors_sent _ _ _ _
    · exact .refl s
  have hHost : UnitSent s dHost.2 := hseal _
  have hLink : UnitSent s dLink.2 := hseal _
  clear_value add dHost dLink
  split
  · split
    · exact hadd _ (.refl s)
    · split
      · exact hadd _ ⟨⟨_, _, _, _, rfl⟩⟩
      · exact hadd _ (hHost.trans (State.hostWrite_sent _ _ _ _))
  · split
    · split
      · exact hadd _ (.refl s)
      · exact (hadd none hLink).trans (State.linkSends_sent _ _ ps _)
    · exact hadd _ (.refl s)

theorem State.askFor_sent (s : State) (use : UnitUse) (p : Nat) (l : List (Nat × Nat)) : UnitSent s (s.askFor use p l) := by
  refine State.forEach_induct (P := fun u => UnitSent s u) (fun x u h => ?_) _ (.refl s)
  split
  · exact h
  · exact h.trans (u.unitOp_sent _ _ _ _ _ _ _ _ _ _)

/-! ### STREAM_ACCEPT -/

/-- References of pages change the tier unit only. -/
theorem State.refRange_frame (s : State) (p addr len : Nat) (up : Bool) : ∃ tier, s.refRange p addr len up = { s with tier := tier } :=
  State.forEach_induct (P := fun u => ∃ tier, u = { s with tier := tier }) (fun _ _ ⟨_, h⟩ => h ▸ ⟨_, rfl⟩) _ ⟨s.tier, rfl⟩

/-- What the waits counted as stalled and the page references of a descriptor leave: of a rod, its mark only. -/
structure StallsMarked (s u : State) : Prop where
  frame : ∃ regs rods tier, u = { s with regs := regs, rods := rods, tier := tier }
  rods : ∀ k, ∃ b, u.rod k = { s.rod k with stalled := b }

theorem StallsMarked.refl (s : State) : StallsMarked s s := ⟨⟨_, _, _, rfl⟩, fun k => ⟨(s.rod k).stalled, rfl⟩⟩

theorem StallsMarked.trans {s t u : State} (h : StallsMarked s t) (k : StallsMarked t u) : StallsMarked s u where
  frame := by
    obtain ⟨⟨_, _, _, rfl⟩, -⟩ := h
    obtain ⟨⟨_, _, _, rfl⟩, -⟩ := k
    exact ⟨_, _, _, rfl⟩
  rods j := by
    obtain ⟨b, hb⟩ := h.rods j
    obtain ⟨c, hc⟩ := k.rods j
    exact ⟨c, by rw [hc, hb]⟩

theorem State.bump_stalls (s : State) (o n : Nat) : StallsMarked s (s.bump o n) := by
  obtain ⟨regs, h⟩ := s.bump_spec o n
  rw [h]
  exact ⟨⟨_, _, _, rfl⟩, fun k => ⟨(s.rod k).stalled, rfl⟩⟩

theorem State.markStalled_stalls (s : State) (ph : Nat) : StallsMarked s (s.onRod ph (fun r => { r with stalled := true })) where
  frame := ⟨_, _, _, rfl⟩
  rods k := by
    by_cases hk : k = ph
    · exact ⟨true, by rw [hk, State.onRod, State.rod_setRod]⟩
    · exact ⟨(s.rod k).stalled, State.rod_onRod_ne s _ hk⟩

theorem State.refRange_stalls (s : State) (p addr len : Nat) (up : Bool) : StallsMarked s (s.refRange p addr len up) := by
  obtain ⟨tier, h⟩ := s.refRange_frame p addr len up
  rw [h]
  exact ⟨⟨_, _, _, rfl⟩, fun k => ⟨(s.rod k).stalled, rfl⟩⟩

/-- The stalled waits counted and marked, and a reference on each page of the descriptor's sources. -/
def State.streamMarked (s : State) (p : Nat) (d : Stream) : State :=
  let waits (e : Extent) : Bool := let r := s.rod (s.phys e.rod)
    !r.stalled && (match r.issue with | .waiting _ c _ => c == e.cnt | _ => false)
  let rods := ((d.extents.filter waits).map (·.rod)).eraseDups
  let s0 := (s.bump (cntPart p 49) rods.length).forEach rods (fun l s => s.onRod (s.phys l) (fun r => { r with stalled := true }))
  s0.forEach d.extents (fun e s => s.refRange p e.src e.len true)

theorem State.streamMarked_stalls (s : State) (p : Nat) (d : Stream) : StallsMarked s (s.streamMarked p d) :=
  State.forEach_induct (P := fun u => StallsMarked s u) (fun _ u h => h.trans (u.refRange_stalls _ _ _ _)) _
    (State.forEach_induct (P := fun u => StallsMarked s u) (fun _ u h => h.trans (u.markStalled_stalls _)) _ (s.bump_stalls _ _))

theorem State.acceptStream_eq (s : State) (p ph : Nat) (o : RemOp) (d : Stream) : s.acceptStream p ph o d =
    ((s.streamMarked p d).onPart p (fun x => { x with
      streams := x.streams ++ [{ d with id := (s.part p).nextStream }], nextStream := (s.part p).nextStream + 1 })).onRod ph (fun r =>
        (r.dropRem o.tag).countOpt o.cnt) := rfl

theorem State.acceptStream_spec (s : State) (p ph : Nat) (o : RemOp) (d : Stream) :
    ((s.acceptStream p ph o d).part p).streams = (s.part p).streams ++ [{ d with id := (s.part p).nextStream }] ∧
      ((s.acceptStream p ph o d).part p).nextStream = (s.part p).nextStream + 1 ∧
      ∃ b, (s.acceptStream p ph o d).rod ph = (({ s.rod ph with stalled := b }).dropRem o.tag).countOpt o.cnt := by
  obtain ⟨⟨regs, rods, tier, hframe⟩, hrods⟩ := s.streamMarked_stalls p d
  obtain ⟨b, hb⟩ := hrods ph
  have hpart : (s.streamMarked p d).part p = s.part p := by rw [hframe]; rfl
  have hnew : (s.acceptStream p ph o d).part p = { s.part p with
      streams := (s.part p).streams ++ [{ d with id := (s.part p).nextStream }], nextStream := (s.part p).nextStream + 1 } := by
    rw [State.acceptStream_eq, ← hpart]
    exact State.part_setPart _ _ _
  refine ⟨by rw [hnew], by rw [hnew], b, ?_⟩
  rw [State.acceptStream_eq, State.onRod, State.rod_setRod, ← hb]
  rfl

section
variable {s : State} {l : Fin 512} {tag p : Nat} {o : RemOp} (hlive : s.live = true) (hrun : s.stalled = false)
  (hpart : s.partOf l = some p) (hfind : (s.rod (s.phys l)).rem.find? (fun x => x.tag == tag) = some o) (hkind : o.kind = .stream)
  (hroom : (s.part p).streams.length < 64)
include hlive hrun hpart hfind hkind hroom

theorem execStreamAccept_of_ok {d : Stream} (hd : s.streamCheck p o.addr = .ok d) :
    execStreamAccept l tag s = .next (s.acceptStream p (s.phys l) o d) := by
  simp only [execStreamAccept, hfind, hpart, hlive, hrun, hkind, hd, ge_iff_le, Nat.not_le.mpr hroom, decide_false, ne_eq,
    not_true_eq_false, Bool.not_true, Bool.or_self, Bool.false_eq_true, if_false]

/-- A rejected descriptor: the operation fails at its rod, after at most a counter. -/
theorem execStreamAccept_of_error {r : Nat} (hd : s.streamCheck p o.addr = .error r) :
    ∃ regs, execStreamAccept l tag s = .next (({ s with regs := regs } : State).remFail (s.phys l) o r) := by
  obtain ⟨regs, hbad⟩ := s.bump_spec (cntPart p 40) (b2n ((s.streamSpans p o.addr).any (fun sp => decide (s.xlat p sp.1 = .malformed))))
  have hcount : ∃ regs, (if r = 1 && adClass o.addr = 1 then s.countBad p (s.streamSpans p o.addr) else s) = { s with regs := regs } := by
    split
    · exact ⟨regs, hbad⟩
    · exact ⟨s.regs, rfl⟩
  obtain ⟨regs', hcount⟩ := hcount
  refine ⟨regs', ?_⟩
  rw [← hcount]
  simp only [execStreamAccept, hfind, hpart, hlive, hrun, hkind, hd, ge_iff_le, Nat.not_le.mpr hroom, decide_false, ne_eq,
    not_true_eq_false, Bool.not_true, Bool.or_self, Bool.false_eq_true, if_false]

end

/-! ### EXTENT_COMPLETE -/

/-- Bytes and marks of an extent: bead memory takes the bytes, only marks and counters besides. -/
theorem State.moveExtent_frame (s : State) (p : Nat) (x : Extent) (ops : List UnitOp) : ∃ beadPoison regs, s.moveExtent p x ops =
    { s with bead := s.bead.writeN (2 ^ 22 * s.phys x.rod + x.dst) (s.extentBytes p x ops), beadPoison := beadPoison, regs := regs } := by
  let Moved (u : State) : Prop := ∃ beadPoison regs, u =
    { s with bead := s.bead.writeN (2 ^ 22 * s.phys x.rod + x.dst) (s.extentBytes p x ops), beadPoison := beadPoison, regs := regs }
  have hpoison (g : Nat) (u : State) (h : Moved u) : Moved (u.poisonBead g) := by
    obtain ⟨_, _, rfl⟩ := h
    exact ⟨_, _, rfl⟩
  have hbump (o n : Nat) (u : State) (h : Moved u) : Moved (u.bump o n) := by
    obtain ⟨_, _, rfl⟩ := h
    obtain ⟨_, hb⟩ := State.bump_spec _ o n
    exact ⟨_, _, hb⟩
  exact State.forEach_induct (P := Moved) (fun _ u h => hbump _ _ u h) _
    (hbump _ _ _ (State.forEach_induct (P := Moved) (fun _ _ h => State.forEach_induct (P := Moved) hpoison _ h) _ ⟨_, _, rfl⟩))

section
variable {s : State} {p : Fin 16} {slot e : Nat} {d : Stream} {x : Extent} (hlive : s.live = true) (hx : s.extentOf p slot e = some (d, x))

/-- The state in which an extent is complete. -/
def State.extentDone (s : State) (p : Nat) (d : Stream) (e : Nat) (x : Extent) : State :=
  (((((s.moveExtent p x (s.opsOf (.extent p d.id e))).dropOps (.extent p d.id e)).addCnt (s.phys x.rod) x.cnt 1).refRange p x.src x.len
    false).dropExtent p d e)

theorem State.extentDone_spec (s : State) (p : Nat) (d : Stream) (e : Nat) (x : Extent) :
    (s.extentDone p d e x).bead =
        s.bead.writeN (2 ^ 22 * s.phys x.rod + x.dst) (s.extentBytes p x (s.opsOf (.extent p d.id e))) ∧
      (s.extentDone p d e x).hbm = s.hbm ∧
      (s.extentDone p d e x).rod (s.phys x.rod) = (s.rod (s.phys x.rod)).addCnt x.cnt 1 ∧
      ∀ k, k ≠ s.phys x.rod → (s.extentDone p d e x).rod k = s.rod k := by
  obtain ⟨beadPoison, regs, hmove⟩ := s.moveExtent_frame p x (s.opsOf (.extent p d.id e))
  obtain ⟨tier, href⟩ := (((s.moveExtent p x (s.opsOf (.extent p d.id e))).dropOps (.extent p d.id e)).addCnt (s.phys x.rod) x.cnt
    1).refRange_frame p x.src x.len false
  unfold State.extentDone
  rw [href, hmove]
  exact ⟨rfl, rfl, State.rod_setRod s _ _, fun k hk => State.rod_setRod_ne s _ hk⟩

include hx

theorem execExtentComplete_of_failed (hf : x.failed = true) : execExtentComplete p slot e s = .next s := by
  simp only [execExtentComplete, hx, hf, Bool.or_true, if_true]

include hlive

/-- What lies beyond the block is asked for, or awaited. -/
theorem execExtentComplete_asks (hf : x.failed = false)
    (hasks : (s.extentLower p x).filter (fun y => (fetched (s.opsOf (.extent p d.id e)) y.2.1 y.2.2).isNone) ≠ []) :
    ∃ t, execExtentComplete p slot e s = .next t ∧ UnitSent s t := by
  refine ⟨_, by simp only [execExtentComplete, hx, hlive, hf, Bool.not_true, Bool.or_self, Bool.false_eq_true, if_false]; rfl, ?_⟩
  rw [if_pos (by simpa only [List.isEmpty_eq_false_iff, Bool.not_eq_eq_eq_not, Bool.not_true] using hasks)]
  split
  · exact .refl s
  · exact s.askFor_sent _ _ _

/-- What lies beyond the block has come; a response other than OK and POISONED ends the extent's course there. -/
theorem execExtentComplete_refused (hf : x.failed = false)
    (hasks : (s.extentLower p x).filter (fun y => (fetched (s.opsOf (.extent p d.id e)) y.2.1 y.2.2).isNone) = [])
    (h0 : s.extentResp p x (s.opsOf (.extent p d.id e)) ≠ 0) (h4 : s.extentResp p x (s.opsOf (.extent p d.id e)) ≠ 4) :
    execExtentComplete p slot e s = .next s := by
  simp only [execExtentComplete, hx, hlive, hf, hasks, Bool.not_true, Bool.or_self, Bool.false_eq_true, if_false, List.isEmpty_nil,
    ne_eq, h0, h4, not_false_eq_true, decide_true, Bool.and_self, if_true]

theorem execExtentComplete_done (hf : x.failed = false)
    (hasks : (s.extentLower p x).filter (fun y => (fetched (s.opsOf (.extent p d.id e)) y.2.1 y.2.2).isNone) = [])
    (hr : s.extentResp p x (s.opsOf (.extent p d.id e)) = 0 ∨ s.extentResp p x (s.opsOf (.extent p d.id e)) = 4) :
    execExtentComplete p slot e s = .next (s.extentDone p d e x) := by
  have hgood : (decide (s.extentResp p x (s.opsOf (.extent p d.id e)) ≠ 0) &&
      decide (s.extentResp p x (s.opsOf (.extent p d.id e)) ≠ 4)) = false := by
    rcases hr with h | h <;> rw [h] <;> rfl
  simp only [execExtentComplete, hx, hlive, hf, hasks, hgood, Bool.not_true, Bool.or_self, Bool.false_eq_true, if_false,
    List.isEmpty_nil, State.extentDone]

end

/-! ### EXTENT_FAIL -/

/-- The mark of a failed extent in its descriptor. -/
def Stream.fail (z : Stream) (id e : Nat) : Stream :=
  if z.id = id then { z with extents := z.extents.map (fun w => if w.e = e then { w with failed := true } else w) } else z

/-- The extents of a partition are found in its streams only. -/
theorem State.extentOf_of_streams {s t : State} {p : Nat} (slot e : Nat) (h : (t.part p).streams = (s.part p).streams) :
    t.extentOf p slot e = s.extentOf p slot e := by
  unfold State.extentOf
  rw [h]

theorem State.extentOf_fail {s t : State} {p slot e : Nat} {d : Stream} {x : Extent} (hx : s.extentOf p slot e = some (d, x))
    (h : (t.part p).streams = (s.part p).streams.map (fun z => z.fail d.id e)) :
    (t.extentOf p slot e).map (·.2.failed) = some true := by
  unfold State.extentOf at hx
  split at hx
  · exact absurd hx nofun
  case h_2 d' hslot =>
    obtain ⟨x', hfind, heq⟩ := Option.map_eq_some_iff.mp hx
    obtain ⟨rfl, rfl⟩ := Prod.mk.inj heq
    have hmark : (d'.fail d'.id e).extents = d'.extents.map (fun w => if w.e = e then { w with failed := true } else w) := by
      rw [Stream.fail, if_pos rfl]
    have hkeeps : (fun y : Extent => y.e == e) ∘ (fun w : Extent => if w.e = e then { w with failed := true } else w) =
        fun y => y.e == e := by
      funext w
      by_cases hw : w.e = e <;> simp [hw]
    have he : x'.e = e := by simpa using List.find?_some hfind
    have hslot' : (t.part p).streams[slot]? = some (d'.fail d'.id e) := by rw [h, List.getElem?_map, hslot]; rfl
    unfold State.extentOf
    rw [hslot']
    dsimp only
    rw [hmark, List.find?_map, hkeeps, hfind, Option.map_some, Option.map_some, Option.map_some, if_pos he]

/-- The state in which the failure of an extent is recorded. -/
def State.extentMarked (s : State) (p : Nat) (d : Stream) (e : Nat) (x : Extent) (resp : Nat) : State :=
  (((s.onPart p (fun y => { y with streams := y.streams.map (fun z => z.fail d.id e) })).dropOps (.extent p d.id e)).faultRecord 4 0x07
    resp p (s.phys x.rod) (2 ^ 53 + x.src) (s.openStep p)).bump (cntBlk 3) 1

theorem State.extentMarked_part (s : State) (p : Nat) (d : Stream) (e : Nat) (x : Extent) (resp : Nat) :
    (s.extentMarked p d e x resp).part p = { s.part p with streams := (s.part p).streams.map (fun z => z.fail d.id e) } := by
  have hkept : RodsPartsKept ((s.onPart p (fun y => { y with streams := y.streams.map (fun z => z.fail d.id e) })).dropOps
      (.extent p d.id e)) (s.extentMarked p d e x resp) := (State.faultRecord_rodsPartsKept ..).trans (State.bump_rodsPartsKept _ _ _)
  rw [State.part, hkept.parts]
  exact State.part_setPart s p _

theorem State.holdPart_streams (s : State) (p hold cause resp : Nat) :
    ((s.holdPart p hold cause resp).part p).streams = (s.part p).streams := by
  unfold State.holdPart
  dsimp only
  split
  · rw [State.part_setPart]
  · rfl

section
variable {s : State} {p : Fin 16} {slot e resp : Nat} {d : Stream} {x : Extent} (hlive : s.live = true)
  (hx : s.extentOf p slot e = some (d, x))
include hx

theorem execExtentFail_of_other (h : x.failed = true ∨ (resp ≠ 5 ∧ resp ≠ 6 ∧ resp ≠ 8)) : execExtentFail p slot e resp s = .next s := by
  have hguard : (!s.live || x.failed || !(resp == 5 || resp == 6 || resp == 8)) = true := by
    rcases h with h | ⟨h5, h6, h8⟩
    · rw [h, Bool.or_true, Bool.true_or]
    · rw [beq_false_of_ne h5, beq_false_of_ne h6, beq_false_of_ne h8, Bool.or_self, Bool.or_self, Bool.not_false, Bool.or_true]
  simp only [execExtentFail, hx, hguard, if_true]

include hlive

theorem execExtentFail_eq (hf : x.failed = false) (hr : resp = 5 ∨ resp = 6 ∨ resp = 8) : execExtentFail p slot e resp s =
    .next (((s.extentMarked p d e x resp).holdPart p 4 0x07 resp).awaitPeer p resp (2 ^ 53 + x.src)) := by
  have hresp : (resp == 5 || resp == 6 || resp == 8) = true := by
    rcases hr with rfl | rfl | rfl <;> rfl
  simp only [execExtentFail, hx, hlive, hf, hresp, Bool.not_true, Bool.or_self, Bool.false_eq_true, if_false]
  rfl

theorem execExtentFail_spec (hf : x.failed = false) (hr : resp = 5 ∨ resp = 6 ∨ resp = 8) :
    ∃ t, execExtentFail p slot e resp s = .next t ∧ (t.extentOf p slot e).map (·.2.failed) = some true ∧
      ((s.part p).st = .running → (t.part p).st = .held ∧ (t.part p).hold = 4 ∧ (t.part p).faultCause = 7 ∧
        (t.part p).faultResp = resp) := by
  refine ⟨_, execExtentFail_eq hlive hx hf hr, State.extentOf_fail hx ?_, fun hrun => ?_⟩
  all_goals
    obtain ⟨w, hw⟩ := ((s.extentMarked p d e x resp).holdPart p 4 0x07 resp).awaitPeer_part p resp (2 ^ 53 + x.src)
    have hm := s.extentMarked_part p d e x resp
    rw [hw]
  · exact (State.holdPart_streams _ _ _ _ _).trans (congrArg Part.streams hm)
  · rw [State.holdPart_of_running _ _ _ ((congrArg Part.st hm).trans hrun)]
    exact ⟨rfl, rfl, rfl, rfl⟩

end

end Sys2Proof.Machine
end

section
/-! PROOF. The adapter commands and their images (07_adapters.md R166 to R169, 15_host_attach.md R339, R342), with the entries and
completions of a tenant's queues that they move. -/

namespace Sys2Proof.Machine

/-! ### Entries that end -/

/-- What the end of a queue entry may change: tenants and the journal of the beam; the adapter commands that await images stay. -/
structure QueueServed (s u : State) : Prop where
  frame : ∃ tenants flt, u = { s with tenants := tenants, flt := flt }
  adapters : ∀ t, (u.ten t).adapters = (s.ten t).adapters

theorem QueueServed.refl (s : State) : QueueServed s s := ⟨⟨_, _, rfl⟩, fun _ => rfl⟩

theorem QueueServed.trans {s t u : State} (h : QueueServed s t) (k : QueueServed t u) : QueueServed s u where
  frame := by
    obtain ⟨⟨_, _, rfl⟩, -⟩ := h
    obtain ⟨⟨_, _, rfl⟩, -⟩ := k
    exact ⟨_, _, rfl⟩
  adapters j := (k.adapters j).trans (h.adapters j)

theorem State.onTen_served (s : State) (t : Nat) {f : Tenant → Tenant} (hf : ∀ x, (f x).adapters = x.adapters) :
    QueueServed s (s.onTen t f) where
  frame := ⟨_, _, rfl⟩
  adapters j := by
    by_cases hj : j = t
    · rw [hj, State.onTen, State.ten_setTen, hf]
    · rw [State.onTen, State.ten_setTen_ne _ _ hj]

theorem State.setCq_served (s : State) (t q : Nat) (x : CplQueue) : QueueServed s (s.setCq t q x) := s.onTen_served t fun _ => rfl
theorem State.setSq_served (s : State) (t q : Nat) (x : SubQueue) : QueueServed s (s.setSq t q x) := s.onTen_served t fun _ => rfl
theorem State.journal_served (s : State) (kind : Nat) (ws : List W64) : QueueServed s (s.journal kind ws) :=
  ⟨⟨_, _, rfl⟩, fun _ => rfl⟩

theorem State.commandDone_served (s : State) (t q cmd status : Nat) (req : Option Nat) :
    QueueServed s (s.commandDone t q cmd status req) := by
  unfold State.commandDone State.complete
  split
  · exact s.setCq_served _ _ _
  · exact .refl s

theorem State.settle_served (t q : Nat) : ∀ (n : Nat) (s : State), QueueServed s (s.settle t q n)
  | 0, s => .refl s
  | n + 1, s => by
    unfold State.settle
    dsimp only
    split
    · exact .refl s
    · split
      · exact (s.setSq_served _ _ _).trans (State.settle_served t q n _)
      · split
        · exact .refl s
        · exact ((s.setSq_served _ _ _).trans (State.commandDone_served _ _ _ _ _ _)).trans (State.settle_served t q n _)

theorem State.entryDone_served (s : State) (t q i : Nat) (r : Option Nat) : QueueServed s (s.entryDone t q i r) := by
  unfold State.entryDone
  dsimp only
  split
  · exact .refl s
  · exact ((s.journal_served _ _).trans (State.setSq_served _ _ _ _)).trans (State.settle_served _ _ _ _)

theorem State.entryEnds_served (s : State) (t q : Nat) (e : SubEntry) (status : Nat) : QueueServed s (s.entryEnds t q e status) :=
  (s.commandDone_served _ _ _ _ _).trans (State.entryDone_served _ _ _ _ _)

theorem QueueServed.regs {s u : State} (h : QueueServed s u) : u.regs = s.regs := by
  obtain ⟨⟨_, _, rfl⟩, -⟩ := h
  rfl

theorem QueueServed.rods {s u : State} (h : QueueServed s u) : u.rods = s.rods := by
  obtain ⟨⟨_, _, rfl⟩, -⟩ := h
  rfl

theorem QueueServed.rd {s u : State} (h : QueueServed s u) (o : Nat) : u.rd o = s.rd o := by
  obtain ⟨⟨_, _, rfl⟩, -⟩ := h
  rfl

/-- An adapter command that awaits its image: last among the tenant's, with no register changed. -/
theorem State.addAdapter_spec (s : State) (t q : Nat) (e : SubEntry) :
    ((s.addAdapter t q e).ten t).adapters = (s.ten t).adapters ++ [e.adapterCmd t q] ∧ (s.addAdapter t q e).regs = s.regs ∧
      ∀ o, (s.addAdapter t q e).rd o = s.rd o := by
  have h := (s.onTen t (fun x => { x with adapters := x.adapters ++ [e.adapterCmd t q] })).entryDone_served t q e.index none
  refine ⟨?_, h.regs, h.rd⟩
  rw [State.addAdapter, h.adapters, State.onTen, State.ten_setTen]

@[simp] theorem State.stageDir_ten (s : State) (p id : Nat) (img : List W64) (t : Nat) : (s.stageDir p id img).ten t = s.ten t := by
  obtain ⟨regs, h⟩ := s.stageDir_frame p id img
  rw [h]
  rfl

@[simp] theorem State.stageDir_rods (s : State) (p id : Nat) (img : List W64) : (s.stageDir p id img).rods = s.rods := by
  obtain ⟨regs, h⟩ := s.stageDir_frame p id img
  rw [h]

theorem State.withEntry_of_taken {s : State} {t q i op : Nat} {e : SubEntry} {b : List SubEntry} (f : SubEntry → State → State)
    (h : s.takeEntry t q i op = some (e, b)) : s.withEntry t q i op f = f e s := by
  rw [State.withEntry, h]

/-- An adapter id is stored whole. -/
theorem adapterId_mod (w : W64) : bits w 23 0 % 2 ^ 24 = bits w 23 0 := Nat.mod_mod _ _

/-! ### The command rows -/

section
variable {s : State} {t : Fin 64} {q : Fin 8} {i : Nat} {e : SubEntry} {b : List SubEntry}

/-- The entry that an ADAPTER_INSTALL stages: LOADING, with its id, whether it is shared, its owner (R166). -/
def loadingEntry (id t : Nat) (shared : Bool) : List W64 :=
  [w64 (2 ^ 60), w64 (id * 2 ^ 40 + b2n shared * 2 ^ 39), 0, 0, w64 t, 0, 0, 0]

theorem execAdapterInstall_eq (htake : s.takeEntry t q i 8 = some (e, b)) (hok : s.adapterOk t e false = true)
    (hshared : bit (e.word 1) 24 = true → bit (s.rd (hReg t 8)) 3 = true) (hfree : s.dirBusy (bits (e.word 1) 63 60) = false)
    (hnew : ∀ d, s.dirEntry (bits (e.word 1) 63 60) (bits (e.word 1) 23 0) = some d → deId d = bits (e.word 1) 23 0 →
      deState d ≠ 1 ∧ deState d ≠ 2) :
    execAdapterInstall t q i s = .next ((s.stageDir (bits (e.word 1) 63 60) (bits (e.word 1) 23 0)
      (loadingEntry (bits (e.word 1) 23 0) t (bit (e.word 1) 24))).addAdapter t q e) := by
  have hright : (bit (e.word 1) 24 && !bit (s.rd (hReg t 8)) 3) = false := by
    cases h : bit (e.word 1) 24
    · rfl
    · rw [hshared h]
      rfl
  simp only [execAdapterInstall, State.withEntry_of_taken _ htake, hok, hright, hfree, Bool.not_true, Bool.false_or, Bool.false_eq_true,
    if_false]
  cases hd : s.dirEntry (bits (e.word 1) 63 60) (bits (e.word 1) 23 0) with
  | none => simp only [Bool.false_eq_true, if_false, loadingEntry]
  | some d =>
    have htaken : (deId d == bits (e.word 1) 23 0 && (deState d == 1 || deState d == 2)) = false := by
      by_cases hid : deId d = bits (e.word 1) 23 0
      · obtain ⟨h1, h2⟩ := hnew d hd hid
        rw [beq_false_of_ne h1, beq_false_of_ne h2, Bool.or_self, Bool.and_false]
      · rw [beq_false_of_ne hid, Bool.false_and]
    simp only [htaken, Bool.false_eq_true, if_false, loadingEntry]

theorem execAdapterReplace_eq (htake : s.takeEntry t q i 9 = some (e, b)) (hok : s.adapterOk t e false = true)
    (hown : s.ownsReady (bits (e.word 1) 63 60) (bits (e.word 1) 23 0) t = true) :
    execAdapterReplace t q i s = .next (s.addAdapter t q e) := by
  simp only [execAdapterReplace, State.withEntry_of_taken _ htake, hok, hown, Bool.not_true, Bool.false_eq_true, if_false]

theorem execAdapterRemove_eq (htake : s.takeEntry t q i 10 = some (e, b)) (hok : s.adapterOk t e true = true)
    (hown : s.ownsReady (bits (e.word 1) 63 60) (bits (e.word 1) 23 0) t = true) (hfree : s.dirBusy (bits (e.word 1) 63 60) = false) :
    execAdapterRemove t q i s = .next ((s.stageDir (bits (e.word 1) 63 60) (bits (e.word 1) 23 0) (List.replicate 8 0)).entryEnds t q e
      0) := by
  simp only [execAdapterRemove, State.withEntry_of_taken _ htake, hok, hown, hfree, Bool.not_true, Bool.false_eq_true, if_false]

end

/-! ### The image -/

/-- An adapter command leaves its tenant's list as it ends; registers and rods stay. -/
theorem State.endAdapter_spec (s : State) (t k : Nat) (a : AdapterCmd) (status : Nat) :
    ((s.endAdapter t k a status).ten t).adapters = (s.ten t).adapters.eraseIdx k ∧ (s.endAdapter t k a status).rods = s.rods ∧
      ∀ o, (s.endAdapter t k a status).rd o = s.rd o := by
  have herase : ((s.onTen t (fun x => { x with adapters := x.adapters.eraseIdx k })).ten t).adapters = (s.ten t).adapters.eraseIdx k := by
    rw [State.onTen, State.ten_setTen]
  unfold State.endAdapter
  dsimp only
  split
  · exact ⟨herase, rfl, fun _ => rfl⟩
  · have h := (s.onTen t (fun x => { x with adapters := x.adapters.eraseIdx k })).commandDone_served t a.queue a.cmd status none
    exact ⟨(h.adapters t).trans herase, h.rods, h.rd⟩

/-- What ends an adapter command leaves, beside what it stages. -/
structure AdapterEnded (s : State) (t k : Nat) (u : State) : Prop where
  rods : u.rods = s.rods
  adapters : (u.ten t).adapters = (s.ten t).adapters.eraseIdx k

theorem State.failAdapter_ended (s : State) (t k : Nat) (a : AdapterCmd) (status : Nat) : AdapterEnded s t k (s.failAdapter t k a status) := by
  unfold State.failAdapter
  split
  · obtain ⟨hada, hrods, -⟩ := (s.stageDir a.part a.id (List.replicate 8 0)).endAdapter_spec t k a status
    exact ⟨hrods.trans (s.stageDir_rods _ _ _), by rw [hada, State.stageDir_ten]⟩
  · obtain ⟨hada, hrods, -⟩ := s.endAdapter_spec t k a status
    exact ⟨hrods, hada⟩

/-- What the write of an image may change: HBM, the memory beyond the block, and what leaves the block for it. -/
structure ImageWritten (s u : State) : Prop where
  rods : u.rods = s.rods
  tenants : u.tenants = s.tenants

theorem ImageWritten.trans {s t u : State} (h : ImageWritten s t) (k : ImageWritten t u) : ImageWritten s u :=
  ⟨k.rods.trans h.rods, k.tenants.trans h.tenants⟩

theorem UnitSent.imageWritten {s u : State} (h : UnitSent s u) : ImageWritten s u := by
  obtain ⟨⟨_, _, _, _, rfl⟩⟩ := h
  exact ⟨rfl, rfl⟩

theorem State.imageWrite_written {s u : State} {p addr : Nat} {bs : List Byte} (h : s.imageWrite p addr bs = some u) : ImageWritten s u := by
  unfold State.imageWrite at h
  dsimp only at h
  obtain ⟨_, h⟩ := Option.ite_none_left_eq_some.mp h
  obtain rfl := Option.some.inj h
  refine ImageWritten.trans (State.forEach_induct (P := fun u => ImageWritten s u) (fun sp u hu => ?_) _ ⟨rfl, rfl⟩) ⟨rfl, rfl⟩
  split
  · split
    · exact hu.trans ⟨rfl, rfl⟩
    · have hext (m : Memory) : ImageWritten u { u with ext := m } := ⟨rfl, rfl⟩
      exact hu.trans ((hext _).trans (State.unitOp_sent _ _ _ _ _ _ _ _ _ _ _).imageWritten)
  · exact hu

/-- A verified image is in force once its READY entry, in the words `ws`, is staged and its command has ended. -/
def State.imageStaged (v : State) (t k : Nat) (a : AdapterCmd) (at_ : BitVec 52) (ws : List W64) : State :=
  ((v.journal 2 [w64 a.part, w64 a.id, at_.setWidth 64]).stageDir a.part a.id ws).endAdapter t k a 0

theorem State.imageStaged_ended {s v : State} (hv : ImageWritten s v) (t k : Nat) (a : AdapterCmd) (at_ : BitVec 52) (ws : List W64) :
    AdapterEnded s t k (v.imageStaged t k a at_ ws) := by
  have hten : v.ten t = s.ten t := by rw [State.ten, hv.tenants, State.ten]
  obtain ⟨hada, hrods, -⟩ :=
    ((v.journal 2 [w64 a.part, w64 a.id, at_.setWidth 64]).stageDir a.part a.id ws).endAdapter_spec t k a 0
  refine ⟨(hrods.trans (State.stageDir_rods _ _ _ _)).trans hv.rods, hada.trans ?_⟩
  rw [State.stageDir_ten, ← hten]
  rfl

theorem State.imageStaged_registers (v : State) (t k : Nat) (a : AdapterCmd) (at_ : BitVec 52) (ws : List W64) :
    (v.imageStaged t k a at_ ws).rd (dirReg a.part 0x40) = w64 (2 ^ 63 + a.id % 2 ^ 24) ∧
      (v.imageStaged t k a at_ ws).rd (dirReg a.part 0) = nth 0 ws 0 := by
  obtain ⟨-, -, hrd⟩ := ((v.journal 2 [w64 a.part, w64 a.id, at_.setWidth 64]).stageDir a.part a.id ws).endAdapter_spec t k a 0
  exact ⟨(hrd _).trans (State.stageDir_control _ _ _ _), (hrd _).trans (State.stageDir_word0 _ _ _ _)⟩

/-- The entry of a verified image is READY. -/
theorem readyEntry_state (h : List W64) (id gen owner addr : Nat) (shared : Bool) (time : W64) :
    bits (nth 0 (readyEntry h id gen owner addr shared time) 0) 63 60 = 2 := by
  have hfield (w : W64) (hi lo : Nat) : bits w hi lo < 2 ^ (hi + 1 - lo) := Nat.mod_lt _ (Nat.two_pow_pos _)
  have h1 : aiForm h < 2 ^ 4 := hfield _ 63 60
  have h2 : aiFormat h < 2 ^ 4 := hfield _ 59 56
  have h3 : aiRank h < 2 ^ 16 := hfield _ 47 32
  have h4 : aiBank h < 2 ^ 16 := hfield _ 31 16
  show bits (w64 (2 * 2 ^ 60 + aiForm h * 2 ^ 56 + aiFormat h * 2 ^ 52 + aiRank h * 2 ^ 32 + aiBank h * 2 ^ 16)) 63 60 = 2
  rw [bits, w64, BitVec.toNat_ofNat]
  omega

/-- What ADAPTER_IMAGE_VERIFIED can do: wait, fail the command, or stage the READY entry of the image it has written. -/
inductive ImageOutcome (s : State) (t k : Nat) (a : AdapterCmd) (at_ : BitVec 52) : State → Prop
  | waits : ImageOutcome s t k a at_ s
  | fails (status : Nat) : ImageOutcome s t k a at_ (s.failAdapter t k a status)
  | staged {pt : List Byte} {v : State} (ws : List W64) (h : s.imageWrite a.part at_.toNat pt = some v) :
      ImageOutcome s t k a at_ (v.imageStaged t k a at_ ws)

theorem ImageOutcome.rods {s u : State} {t k : Nat} {a : AdapterCmd} {at_ : BitVec 52} (h : ImageOutcome s t k a at_ u) :
    u.rods = s.rods := by
  cases h with
  | waits => rfl
  | fails n => exact (s.failAdapter_ended t k a n).rods
  | staged ws hv => exact (State.imageStaged_ended (State.imageWrite_written hv) t k a at_ ws).rods

theorem ImageOutcome.ended {s u : State} {t k : Nat} {a : AdapterCmd} {at_ : BitVec 52} (h : ImageOutcome s t k a at_ u) :
    u = s ∨ (u.ten t).adapters = (s.ten t).adapters.eraseIdx k := by
  cases h with
  | waits => exact .inl rfl
  | fails n => exact .inr (s.failAdapter_ended t k a n).adapters
  | staged ws hv => exact .inr (State.imageStaged_ended (State.imageWrite_written hv) t k a at_ ws).adapters

/-- The entry of the image `pt` at its place, after the entry `old`: a replaced image keeps who shares it, in the next generation (R167). -/
def State.imageEntry (s : State) (t : Nat) (a : AdapterCmd) (at_ : BitVec 52) (pt : List Byte) (old : List W64) : List W64 :=
  readyEntry (wordsOf 32 pt) a.id (if a.op = 8 then 0 else (deGen old + 1) % 2 ^ 32) t at_.toNat
    (if a.op = 8 then a.shared else deShared old) s.time

/-- The end of a command whose image has passed every check. -/
def State.imageEnd (s : State) (t k : Nat) (a : AdapterCmd) (at_ : BitVec 52) (pt : List Byte) (old : List W64) : State :=
  if !s.imagePlace a.part at_.toNat pt.length old then s else
  match s.imageWrite a.part at_.toNat pt with
  | none => s.failAdapter t k a 0x0B
  | some v => v.imageStaged t k a at_ (s.imageEntry t a at_ pt old)

section
variable (s : State) (t k : Nat) (a : AdapterCmd) (at_ : BitVec 52) (pt : List Byte) (old : List W64)

theorem State.imageEnd_of_noPlace (h : s.imagePlace a.part at_.toNat pt.length old = false) : s.imageEnd t k a at_ pt old = s := by
  rw [State.imageEnd, h, Bool.not_false, if_pos rfl]

theorem State.imageEnd_of_noPage (h : s.imagePlace a.part at_.toNat pt.length old = true)
    (hw : s.imageWrite a.part at_.toNat pt = none) : s.imageEnd t k a at_ pt old = s.failAdapter t k a 0x0B := by
  rw [State.imageEnd, h, Bool.not_true, if_neg Bool.false_ne_true, hw]

theorem State.imageEnd_of_written (h : s.imagePlace a.part at_.toNat pt.length old = true) {v : State}
    (hw : s.imageWrite a.part at_.toNat pt = some v) :
    s.imageEnd t k a at_ pt old = v.imageStaged t k a at_ (s.imageEntry t a at_ pt old) := by
  rw [State.imageEnd, h, Bool.not_true, if_neg Bool.false_ne_true, hw]

theorem State.imageEnd_outcome : ImageOutcome s t k a at_ (s.imageEnd t k a at_ pt old) := by
  cases h : s.imagePlace a.part at_.toNat pt.length old with
  | false =>
    rw [s.imageEnd_of_noPlace t k a at_ pt old h]
    exact .waits
  | true =>
    cases hw : s.imageWrite a.part at_.toNat pt with
    | none =>
      rw [s.imageEnd_of_noPage t k a at_ pt old h hw]
      exact .fails _
    | some v =>
      rw [s.imageEnd_of_written t k a at_ pt old h hw]
      exact .staged _ hw

end

section
variable {s : State} {t : Fin 64} {k : Nat} {a : AdapterCmd} (at_ : BitVec 52) (hlive : s.live = true)
  (ha : (s.ten t).adapters[k]? = some a) (hfree : s.dirBusy a.part = false)
include hlive ha hfree

theorem execAdapterImageVerified_of_error (n : Nat) :
    execAdapterImageVerified t k at_ (.error n) s = .next (s.failAdapter t k a 0x0B) := by
  simp only [execAdapterImageVerified, ha, hlive, hfree, Bool.not_true, Bool.or_self, Bool.false_eq_true, if_false]

theorem execAdapterImageVerified_of_opens {m : ModelManifest} {hdr : List W64} {c tag pt : List Byte}
    (hm : (s.part a.part).load.model = some m) (hopens : s.imageOpens a m hdr c tag pt) :
    execAdapterImageVerified t k at_ (.bytes hdr c tag) s =
      .next (s.imageEnd t k a at_ pt ((s.dirEntry a.part a.id).getD [])) := by
  obtain ⟨hrec, hid, hshard, hlen, htag, himage, ⟨key, hkey, hopen⟩, hsha⟩ := hopens
  simp only [execAdapterImageVerified, ha, hlive, hfree, hm, hrec, hid, hkey, hshard, hlen, htag, hopen, himage, hsha, Bool.not_true,
    Bool.or_self, Bool.false_eq_true, if_false, ne_eq, not_true_eq_false, decide_false]
  cases s.dirEntry a.part a.id <;> rfl

theorem execAdapterImageVerified_outcome (r : ShardRead) :
    ∃ u, execAdapterImageVerified t k at_ r s = .next u ∧ ImageOutcome s t k a at_ u := by
  refine ⟨_, rfl, ?_⟩
  simp only [ha, hlive, hfree, Bool.not_true, Bool.or_self, Bool.false_eq_true, if_false]
  cases r with
  | error n => exact .fails _
  | bytes hdr c tag =>
    cases (s.part a.part).load.model with
    | none => exact .fails _
    | some m =>
      dsimp only
      split
      · exact .fails _
      split
      · exact .fails _
      split
      · exact .fails _
      split
      · exact .fails _
      split
      · exact .fails _
      split
      · exact .fails _
      split
      · exact .fails _
      cases s.dirEntry a.part a.id with
      | none => exact s.imageEnd_outcome t k a at_ _ []
      | some old => exact s.imageEnd_outcome t k a at_ _ old

end

/-- Settles O31: a descriptor taken or rejected, an extent through the bytes that it moves, a command through what it stages in the
directory and what its entry's end leaves; a lower span answered POISONED counts whole by the model's choice (log entry 61). -/
theorem weightStreamsAndAdapters : Obligations.WeightStreamsAndAdapters := by
  refine ⟨?_, ?_, ?_, ?_, ?_⟩
  · intro s l tag p o hlive hrun hpart hfind hkind hroom
    refine ⟨fun d hd => ?_, fun r hd => ?_⟩
    · exact ⟨_, execStreamAccept_of_ok hlive hrun hpart hfind hkind hroom hd, s.acceptStream_spec p _ o d⟩
    · obtain ⟨regs, h⟩ := execStreamAccept_of_error hlive hrun hpart hfind hkind hroom hd
      exact ⟨_, h, rfl, State.rod_setRod _ _ _⟩
  · intro s p slot e d x hlive hx ops asks r
    refine ⟨fun hf => execExtentComplete_of_failed hx hf, fun hf hasks => ?_, fun hf hasks h0 h4 => ?_, fun hf hasks hr => ?_⟩
    · obtain ⟨t, ht, ⟨_, _, _, _, rfl⟩⟩ := execExtentComplete_asks hlive hx hf hasks
      exact ⟨_, ht, rfl, rfl, rfl⟩
    · exact execExtentComplete_refused hlive hx hf hasks h0 h4
    · exact ⟨_, execExtentComplete_done hlive hx hf hasks hr, s.extentDone_spec p d e x⟩
  · intro s p slot e resp d x hlive hx
    exact ⟨fun hf hr => execExtentFail_spec hlive hx hf hr, fun h => execExtentFail_of_other hx h⟩
  · intro s t q i e b p id staged
    refine ⟨fun htake hok hshared hfree hnew => ?_, fun htake hok hown => ?_, fun htake hok hown hfree => ?_⟩
    · obtain ⟨hada, -, hrd⟩ := (s.stageDir p id (loadingEntry id t (bit (e.word 1) 24))).addAdapter_spec t q e
      refine ⟨_, execAdapterInstall_eq htake hok hshared hfree hnew, ⟨?_, ?_⟩, ?_⟩
      · rw [hrd, State.stageDir_control, adapterId_mod]
      · rw [hrd, State.stageDir_word0]
        exact (by decide : bits (w64 (2 ^ 60)) 63 60 = 1)
      · rw [hada, State.stageDir_ten]
    · obtain ⟨hada, hregs, -⟩ := s.addAdapter_spec t q e
      exact ⟨_, execAdapterReplace_eq htake hok hown, hada, hregs⟩
    · have hend := (s.stageDir p id (List.replicate 8 0)).entryEnds_served t q e 0
      refine ⟨_, execAdapterRemove_eq htake hok hown hfree, ⟨?_, ?_⟩, ?_⟩
      · rw [hend.rd, State.stageDir_control, adapterId_mod]
      · rw [hend.rd, State.stageDir_word0]
        rfl
      · rw [hend.adapters, State.stageDir_ten]
  · intro s t k a at_ r hlive ha hfree
    obtain ⟨u, hu, hout⟩ := execAdapterImageVerified_outcome at_ hlive ha hfree r
    refine ⟨u, hu, hout.rods, hout.ended, ?_, ?_⟩
    · rintro n rfl
      obtain rfl := Host.Outcome.next.inj (hu.symm.trans (execAdapterImageVerified_of_error at_ hlive ha hfree n))
      exact (s.failAdapter_ended t k a _).adapters
    · rintro m hdr c tag pt rfl hm hopens
      obtain rfl := Host.Outcome.next.inj (hu.symm.trans (execAdapterImageVerified_of_opens at_ hlive ha hfree hm hopens))
      refine ⟨fun hp => s.imageEnd_of_noPlace t k a at_ pt _ hp, fun hp => ⟨?_, fun v hv => ?_⟩⟩
      · cases hw : s.imageWrite a.part at_.toNat pt with
        | none =>
          rw [s.imageEnd_of_noPage t k a at_ pt _ hp hw]
          exact (s.failAdapter_ended t k a _).adapters
        | some v =>
          rw [s.imageEnd_of_written t k a at_ pt _ hp hw]
          exact (State.imageStaged_ended (State.imageWrite_written hw) t k a at_ _).adapters
      · obtain ⟨hcontrol, hword⟩ := v.imageStaged_registers t k a at_ (s.imageEntry t a at_ pt ((s.dirEntry a.part a.id).getD []))
        rw [s.imageEnd_of_written t k a at_ pt _ hp hv, hcontrol, hword]
        exact ⟨rfl, readyEntry_state _ _ _ _ _ _ _⟩

end Sys2Proof.Machine
end

section
/-! PROOF. An uncorrectable error in a Slate entry (17_faults_and_recovery.md R373) whose request is CANCELLING (09_slate.md R219): the
request still ends with CANCELLED, so the error marks nothing. -/

namespace Sys2Proof.Machine

theorem State.bump_slate (s : State) (o n : Nat) : (s.bump o n).slate = s.slate := by
  obtain ⟨_, h⟩ := s.bump_spec o n
  rw [h]

theorem State.faultRecord_slate (s : State) (cls cause resp part unit addr step : Nat) :
    (s.faultRecord cls cause resp part unit addr step).slate = s.slate := by
  unfold State.faultRecord
  extract_lets
  split
  · exact s.bump_slate _ _
  · rfl

/-- A CANCELLING request ends with CANCELLED only: no other ending is put on it (Table 9.5). -/
theorem State.endLater_of_cancelling {s : State} {i : Nat} (status : Nat) (h : (s.slot i).state = 6) (k : Nat) :
    (s.endLater i status).slot k = s.slot k := by
  have hsame : s.endLater i status = s.setSlot i (s.slot i) := by
    simp only [State.endLater, State.onSlot, h, ne_eq, not_true_eq_false, decide_false, Bool.and_false, Bool.false_eq_true, if_false]
  rw [hsame]
  by_cases hk : k = i
  · rw [hk, State.slot_setSlot]
  · exact s.slot_setSlot_ne _ hk

theorem execSlateUe_of_cancelling {s : State} {i : Fin 32768} (word : Fin 8) (h : (s.slot i).state = 6) :
    ∃ t, execSlateUe i word s = .next t ∧ ∀ k, t.slot k = s.slot k := by
  have hcounted (o n cls cause resp part unit addr step j : Nat) :
      ((s.faultRecord cls cause resp part unit addr step).bump o n).slot j = s.slot j := by
    rw [State.slot, State.bump_slate, State.faultRecord_slate, State.slot]
  refine ⟨_, rfl, fun k => ?_⟩
  dsimp only
  split
  · rfl
  · split
    · exact hcounted ..
    · rw [State.endLater_of_cancelling _ (by rw [hcounted, h]), hcounted]

/-- A block that serves, with one request, CANCELLING, in Slate entry 4. -/
def State.oneCancelling : State := (State.reset.setReg 0x10008 0).setSlot 4 { Slot.init with w0 := w64 (6 * 2 ^ 60) }

/-- Refutes O29 in its last clause: of the CANCELLING entry 4 an uncorrectable error in word 1 leaves `ended` 0, where the statement asks
for 9. The request is to end with CANCELLED already (R219); the statement's exception, `ended ≠ 0`, does not hold of it. -/
theorem not_slateMaintenance : ¬ Obligations.SlateMaintenance := by
  rintro ⟨-, -, -, -, hue⟩
  have hlive : State.oneCancelling.live = true := by decide
  have hstate : (State.oneCancelling.slot (4 : Fin 32768)).state = 6 := by decide
  have hactive : (State.oneCancelling.slot (4 : Fin 32768)).active = true := by decide
  obtain ⟨t, ht, hmarked, -⟩ := (hue State.oneCancelling 4 1 hlive).2 (by decide) (by decide) hactive
  obtain ⟨u, hu, hsame⟩ := execSlateUe_of_cancelling 1 hstate
  obtain rfl : t = u := Host.Outcome.next.inj (ht.symm.trans hu)
  have hended : 0 = 9 := congrArg Slot.ended ((hsame _).symm.trans hmarked)
  exact absurd hended (by decide)

end Sys2Proof.Machine
end

section
/-! PROOF. The gather engines' rows and bitmap, their replies, and the row writes (08_tables_and_gather.md R179, R180, R187, R194): first
what serving a row leaves alone and what a bitmap's bytes hold, then each row of the table of commands. -/

namespace Sys2Proof.Machine

/-! ### What serving an index leaves alone -/

/-- What the engine's own accounts of a lookup may change: registers, HBM with its marks, the counts of lookups, free values. -/
structure LookupCounted (s u : State) : Prop where
  frame : ∃ regs hbm hbmPoison flt gth free,
    u = { s with regs := regs, hbm := hbm, hbmPoison := hbmPoison, flt := flt, gth := gth, free := free }

theorem LookupCounted.refl (s : State) : LookupCounted s s := ⟨⟨_, _, _, _, _, _, rfl⟩⟩

theorem LookupCounted.trans {s t u : State} (h : LookupCounted s t) (k : LookupCounted t u) : LookupCounted s u := by
  obtain ⟨⟨_, _, _, _, _, _, rfl⟩⟩ := h
  obtain ⟨⟨_, _, _, _, _, _, rfl⟩⟩ := k
  exact ⟨⟨_, _, _, _, _, _, rfl⟩⟩

theorem LookupCounted.rods {s u : State} (h : LookupCounted s u) : u.rods = s.rods := by
  obtain ⟨⟨_, _, _, _, _, _, rfl⟩⟩ := h
  rfl

theorem State.bump_counted (s : State) (o n : Nat) : LookupCounted s (s.bump o n) := by
  obtain ⟨_, h⟩ := s.bump_spec o n
  exact ⟨⟨_, _, _, _, _, _, h⟩⟩

theorem State.countDrop_counted (s : State) (t p tenant reason : Nat) : LookupCounted s (s.countDrop t p tenant reason) :=
  ((s.bump_counted _ _).trans (State.bump_counted _ _ _)).trans (State.bump_counted _ _ _)

theorem State.sample_counted (s : State) (e t row tenant : Nat) : LookupCounted s (s.sample e t row tenant) := by
  unfold State.sample
  dsimp only
  split
  · exact ⟨⟨_, _, _, _, _, _, rfl⟩⟩
  · split
    · exact LookupCounted.trans ⟨⟨_, _, _, _, _, _, rfl⟩⟩ (State.bump_counted _ _ _)
    · exact ⟨⟨_, _, _, _, _, _, rfl⟩⟩

theorem State.serveIndex_counted (s : State) (e t p tenant : Nat) (d : List W64) (g : RowGot) (row : Nat) :
    LookupCounted s (s.serveIndex e t p tenant d g row).2 := by
  unfold State.serveIndex
  extract_lets s1
  have hs1 : LookupCounted s s1 := by
    unfold s1
    split
    · exact LookupCounted.trans ⟨⟨_, _, _, _, _, _, rfl⟩⟩ (State.sample_counted _ _ _ _ _)
    · exact s.sample_counted _ _ _ _
  split
  · exact (hs1.trans (s1.bump_counted _ _)).trans (State.bump_counted _ _ _)
  · exact hs1
  · exact hs1.trans (s1.countDrop_counted _ _ _ _)

theorem State.unorderedWrite_rods (s : State) (p ph off : Nat) (bs : List Byte) (cl : List (Nat × Nat)) :
    (s.unorderedWrite p ph off bs cl).rods = s.rods := by
  obtain ⟨_, _, _, _, h, -⟩ := s.unorderedWrite_spec p ph off bs cl
  rw [h]
  rfl

section
variable (got : Got) (l ph p dest : Nat) (cl : List (Nat × Nat)) (d t : List W64)

/-- Rows that are delivered change no rod. -/
theorem State.gatherRows_rods : ∀ (n j : Nat) (s : State), (s.gatherRows got l ph p dest cl d t j n).2.rods = s.rods
  | 0, _, _ => rfl
  | n + 1, j, s => by
    unfold State.gatherRows
    dsimp only
    rw [State.gatherRows_rods n, State.unorderedWrite_rods, (s.serveIndex_counted _ _ _ _ _ _ _).rods]

/-- One bit for each index of the list. -/
theorem State.gatherRows_length : ∀ (n j : Nat) (s : State), (s.gatherRows got l ph p dest cl d t j n).1.length = n
  | 0, _, _ => rfl
  | n + 1, j, s => by
    unfold State.gatherRows
    rw [List.length_cons, State.gatherRows_length n]

end

/-! ### The bitmap -/

/-- The number whose low bits are `f 0`, `f 1`, … -/
def bitsNat (f : Nat → Bool) (n : Nat) : Nat := (List.range n).foldl (fun a j => a + b2n (f j) * 2 ^ j) 0

section
variable (f : Nat → Bool)

theorem bitsNat_succ (n : Nat) : bitsNat f (n + 1) = 2 ^ n * b2n (f n) + bitsNat f n := by
  rw [bitsNat, List.range_succ, List.foldl_append, List.foldl_cons, List.foldl_nil, ← bitsNat, Nat.add_comm, Nat.mul_comm]

theorem bitsNat_lt : ∀ n, bitsNat f n < 2 ^ n
  | 0 => Nat.one_pos
  | n + 1 => by
    have hlow := bitsNat_lt n
    have hbit : b2n (f n) ≤ 1 := by cases f n <;> decide
    have htop : 2 ^ n * b2n (f n) ≤ 2 ^ n * 1 := Nat.mul_le_mul_left _ hbit
    rw [bitsNat_succ, Nat.pow_succ]
    omega

theorem testBit_bitsNat : ∀ {n j : Nat}, j < n → (bitsNat f n).testBit j = f j
  | n + 1, j, h => by
    rw [bitsNat_succ, Nat.testBit_two_pow_mul_add _ (bitsNat_lt f n)]
    by_cases hj : j < n
    · rw [if_pos hj, testBit_bitsNat hj]
    · obtain rfl : j = n := by omega
      rw [if_neg hj, Nat.sub_self]
      cases f j <;> rfl

end

theorem bitmapBytes_length (n : Nat) (l : List Bool) : (bitmapBytes n l).length = n := by
  rw [bitmapBytes, List.length_map, List.length_range]

/-- Bit j of byte k of a bitmap is the bit of row 8k + j. -/
theorem bitmapBytes_bit {n k j : Nat} (l : List Bool) (hk : k < n) (hj : j < 8) :
    (nth 0 (bitmapBytes n l) k).getLsbD j = nth false l (8 * k + j) := by
  have hbyte : nth 0 (bitmapBytes n l) k = BitVec.ofNat 8 (bitsNat (fun j => nth false l (8 * k + j)) 8) := nth_tab 0 _ n k hk
  rw [hbyte, BitVec.getLsbD_ofNat, testBit_bitsNat _ hj, decide_eq_true hj, Bool.true_and]

/-- A write of a unit with which nothing unordered has clashed: each byte is there. -/
theorem State.unorderedWrite_read1 (s : State) (p ph off : Nat) (bs : List Byte) {i : Nat} (h : i < bs.length) :
    (s.unorderedWrite p ph off bs []).bead.read1 (2 ^ 22 * ph + off + i) = nth 0 bs i := by
  obtain ⟨_, _, _, bs', hw, -, hsame, -⟩ := s.unorderedWrite_spec p ph off bs []
  obtain ⟨rfl, -⟩ := hsame rfl
  rw [hw]
  exact Memory.read1_writeN_in _ _ _ h

/-! ### GATHER_COMPLETE -/

section
variable {s : State} {l : Fin 512} {tag : Nat} {o : RemOp} (hlive : s.live = true)
  (hfind : (s.rod (s.phys l)).rem.find? (fun x => x.tag == tag && x.kind == .gather) = some o)

/-- The words of a gather's descriptor, as the operation carries them. -/
def RemOp.gatherWords (o : RemOp) : List W64 := (List.range 8).map (fun k => w64 (leNat ((o.data.drop (8 * k)).take 8)))

/-- What the gather `o` of rod `l` has still to read beyond the block. -/
def State.gatherOwes (s : State) (l : Nat) (o : RemOp) : List (Nat × Nat) :=
  s.gatherNeeds (some (s.opsOf (.gather (s.phys l) o.ord))) (s.phys l) o.gatherWords (s.tbl (gdTable o.gatherWords))

/-- The bits of the rows of the gather `o`, and the state with its rows in bead memory. -/
def State.gatherServed (s : State) (l : Nat) (o : RemOp) : List Bool × State :=
  s.gatherRows (some (s.opsOf (.gather (s.phys l) o.ord))) l (s.phys l) ((s.partOf l).getD 0) o.bead
    (o.clash ++ (s.rod (s.phys l)).openWrites (some .remote)) o.gatherWords (s.tbl (gdTable o.gatherWords)) 0 (gdCount o.gatherWords)

/-- The gather `o` complete: its bitmap is written after its rows, and it leaves its unit. -/
def State.gatherEnds (s : State) (l tag : Nat) (o : RemOp) : State :=
  (((s.gatherServed l o).2.unorderedWrite ((s.partOf l).getD 0) (s.phys l) (gdBitmap o.gatherWords)
    (bitmapBytes (8 * ceilDiv (gdCount o.gatherWords) 64) (s.gatherServed l o).1)
    (o.clash ++ (s.rod (s.phys l)).openWrites (some .remote))).onRod (s.phys l) (fun r => (r.dropRem tag).countOpt o.cnt)).dropOps
      (.gather (s.phys l) o.ord)

include hlive hfind

theorem execGatherComplete_of_older (h : (s.rod (s.phys l)).olderTouches o = true) : execGatherComplete l tag s = .next s := by
  simp only [execGatherComplete, hfind, hlive, h, Bool.or_true, if_true]

variable (hold : (s.rod (s.phys l)).olderTouches o = false)
include hold

theorem execGatherComplete_of_waiting (h : o.taken = false) :
    execGatherComplete l tag s = .next (s.engineTake (engineOf l)) := by
  simp only [execGatherComplete, hfind, hlive, hold, h, Bool.not_true, Bool.or_self, Bool.false_eq_true, if_false, Bool.not_false, if_true]

variable (htaken : o.taken = true)
include htaken

theorem execGatherComplete_of_answered {resp : Nat} (h : o.done = some resp) :
    execGatherComplete l tag s = .next (s.remFail (s.phys l) o resp) := by
  simp only [execGatherComplete, hfind, hlive, hold, htaken, h, Bool.not_true, Bool.or_self, Bool.false_eq_true, if_false]

variable (hdone : o.done = none)
include hdone

theorem execGatherComplete_of_owing (h : s.gatherOwes l o ≠ []) :
    execGatherComplete l tag s = .next (if (s.opsOf (.gather (s.phys l) o.ord)).any (fun x => x.resp.isNone) then s
      else s.askFor (.gather (s.phys l) o.ord) ((s.partOf l).getD 0) (s.gatherOwes l o)) := by
  have hne : (s.gatherOwes l o).isEmpty = false := List.isEmpty_eq_false_iff.mpr h
  unfold State.gatherOwes RemOp.gatherWords at hne ⊢
  simp only [execGatherComplete, hfind, hlive, hold, htaken, hdone, hne, Bool.not_true, Bool.or_self, Bool.false_eq_true, if_false,
    Bool.not_false, if_true]

theorem execGatherComplete_of_here (h : s.gatherOwes l o = []) :
    execGatherComplete l tag s = .next ((s.gatherEnds l tag o).engineTake (engineOf l)) := by
  have hempty : (s.gatherOwes l o).isEmpty = true := List.isEmpty_iff.mpr h
  unfold State.gatherOwes RemOp.gatherWords at hempty
  simp only [execGatherComplete, hfind, hlive, hold, htaken, hdone, hempty, Bool.not_true, Bool.or_self, Bool.false_eq_true, if_false]
  rfl

end

section
variable (s : State) (l tag : Nat) (o : RemOp)

theorem State.gatherServed_length : (s.gatherServed l o).1.length = gdCount o.gatherWords := State.gatherRows_length ..

/-- The gather has left its unit and its counter has counted; no other rod has changed. -/
theorem State.gatherEnds_rod : (s.gatherEnds l tag o).rod (s.phys l) = ((s.rod (s.phys l)).dropRem tag).countOpt o.cnt ∧
    ∀ k, k ≠ s.phys l → (s.gatherEnds l tag o).rod k = s.rod k := by
  have hserved (bs : List Byte) (cl : List (Nat × Nat)) (p off k : Nat) :
      ((s.gatherServed l o).2.unorderedWrite p (s.phys l) off bs cl).rod k = s.rod k := by
    rw [State.rod, State.unorderedWrite_rods, State.gatherServed, State.gatherRows_rods, State.rod]
  refine ⟨?_, fun k hk => ?_⟩
  · exact (State.rod_setRod _ _ _).trans (by rw [hserved])
  · exact (State.rod_setRod_ne _ _ hk).trans (hserved _ _ _ _ k)

/-- Where nothing unordered has clashed, the bitmap holds the bits of the rows delivered. -/
theorem State.gatherEnds_bitmap (hcl : o.clash ++ (s.rod (s.phys l)).openWrites (some .remote) = []) {k j : Nat}
    (hk : k < 8 * ceilDiv (gdCount o.gatherWords) 64) (hj : j < 8) :
    ((s.gatherEnds l tag o).bead.read1 (2 ^ 22 * s.phys l + gdBitmap o.gatherWords + k)).getLsbD j =
      nth false (s.gatherServed l o).1 (8 * k + j) := by
  have hbead : (s.gatherEnds l tag o).bead = ((s.gatherServed l o).2.unorderedWrite ((s.partOf l).getD 0) (s.phys l)
      (gdBitmap o.gatherWords) (bitmapBytes (8 * ceilDiv (gdCount o.gatherWords) 64) (s.gatherServed l o).1) []).bead := by
    rw [← hcl]
    rfl
  rw [hbead, State.unorderedWrite_read1 _ _ _ _ _ ((bitmapBytes_length _ _).symm ▸ hk), bitmapBytes_bit _ hk hj]

end

/-! ### LOOKUP_REPLY -/

theorem State.settleNotes_sent (s : State) : UnitSent s s.settleNotes := ⟨⟨_, _, _, _, rfl⟩⟩

/-- The reply has left its engine. -/
def State.replySent (s : State) (r : LookupReply) : State := { s with gth := { s.gth with replies := s.gth.replies.erase r } }

/-- Whether a reply names a counter of this block, in rods space (R186). -/
def State.replyCounts (s : State) (r : LookupReply) : Bool :=
  r.counter / 2 ^ 32 = 2 ^ 16 && r.counter / 2 ^ 22 % 2 = 1 && decide (r.counter / 2 ^ 23 % 512 < s.design.rods) &&
    r.counter % 4 = 0 && decide (r.counter % 2 ^ 22 / 4 < 14)

section
variable {s : State} {e : Fin 32} {r : LookupReply} (hlive : s.live = true)
  (hfind : s.gth.replies.find? (fun x => x.engine == e.val) = some r)
include hlive hfind

theorem execLookupReply_of_remote (h : r.pos ≠ s.fab.pos) : ∃ t, execLookupReply e s = .next t ∧ UnitSent (s.replySent r) t := by
  have heq : execLookupReply e s = .next ((s.replySent r).unitOp .note (s.rf (inboxReg e 0x10) 51 48) 7
      (4 * 2 ^ 53 + r.pos * 2 ^ 50 + r.counter) 4 [] false 0 1 0).settleNotes := by
    simp only [execLookupReply, hfind, hlive, h, Bool.not_true, Bool.false_eq_true, if_false]
    rfl
  exact ⟨_, heq, (State.unitOp_sent _ _ _ _ _ _ _ _ _ _ _).trans (State.settleNotes_sent _)⟩

theorem execLookupReply_of_local (h : r.pos = s.fab.pos) :
    execLookupReply e s = .next (if s.replyCounts r then
      (s.replySent r).addCnt (s.phys (r.counter / 2 ^ 23 % 512)) (r.counter % 2 ^ 22 / 4) 1 else s.replySent r) := by
  simp only [execLookupReply, hfind, hlive, h, Bool.not_true, Bool.false_eq_true, if_false, if_true]
  rfl

end

/-- The counter `c` of the logical rod `l`, as a reply names it. -/
theorem State.replyCounts_of_counter {s : State} {r : LookupReply} {l c : Nat} (hl : l < s.design.rods) (hl' : l < 512) (hc : c < 14)
    (h : r.counter = 2 ^ 48 + 2 ^ 23 * l + 2 ^ 22 + 4 * c) :
    s.replyCounts r = true ∧ r.counter / 2 ^ 23 % 512 = l ∧ r.counter % 2 ^ 22 / 4 = c := by
  have hspace : r.counter / 2 ^ 32 = 2 ^ 16 := by omega
  have hset : r.counter / 2 ^ 22 % 2 = 1 := by omega
  have hrod : r.counter / 2 ^ 23 % 512 = l := by omega
  have hword : r.counter % 4 = 0 := by omega
  have hcnt : r.counter % 2 ^ 22 / 4 = c := by omega
  exact ⟨by simp only [State.replyCounts, hspace, hset, hrod, hword, hcnt, hl, hc, decide_true, Bool.and_self], hrod, hcnt⟩

theorem execLookupReply_spec {s : State} {e : Fin 32} {r : LookupReply} (hlive : s.live = true)
    (hfind : s.gth.replies.find? (fun x => x.engine == e.val) = some r) :
    ∃ t, execLookupReply e s = .next t ∧ t.gth.replies = s.gth.replies.erase r ∧ (r.pos ≠ s.fab.pos → t.rods = s.rods) ∧
      ∀ l c, r.pos = s.fab.pos → l < s.design.rods → l < 512 → c < 14 → r.counter = 2 ^ 48 + 2 ^ 23 * l + 2 ^ 22 + 4 * c →
        t.rod (s.phys l) = (s.rod (s.phys l)).addCnt c 1 ∧ ∀ k, k ≠ s.phys l → t.rod k = s.rod k := by
  by_cases hpos : r.pos = s.fab.pos
  · refine ⟨_, execLookupReply_of_local hlive hfind hpos, ?_, fun h => absurd hpos h, fun l c _ hl hl' hc hcounter => ?_⟩
    · split <;> rfl
    · obtain ⟨hcounts, hrod, hcnt⟩ := State.replyCounts_of_counter hl hl' hc hcounter
      rw [if_pos hcounts, hrod, hcnt]
      exact ⟨State.rod_setRod _ _ _, fun k hk => State.rod_setRod_ne _ _ hk⟩
  · obtain ⟨_, ht, ⟨⟨_, _, _, _, rfl⟩⟩⟩ := execLookupReply_of_remote hlive hfind hpos
    exact ⟨_, ht, rfl, fun _ => rfl, fun _ _ h => absurd h hpos⟩

/-! ### GTH_ROWWRITE -/

theorem execGthRowwrite_spec {s : State} (v : W64) (hlive : s.live = true) :
    ∃ t, execGthRowwrite v s = .next t ∧ t.hbm = s.hbm ∧ t.rods = s.rods ∧ t.rf 0x500110 9 0 = bits v 9 0 ∧
      (v.getLsbD 63 = true → s.gth.rowq.length < 64 →
        t.gth.rowq = s.gth.rowq ++ [⟨bits v 9 0, s.rf 0x500108 39 0, s.rf 0x500100 51 0⟩]) ∧
      (v.getLsbD 63 = false ∨ 64 ≤ s.gth.rowq.length → t.gth.rowq = s.gth.rowq) := by
  have htable : (s.setRf 0x500110 9 0 (bits v 9 0)).rf 0x500110 9 0 = bits v 9 0 := by
    rw [State.rf_setRf_same _ _ _ (by decide) (by decide)]
    exact Nat.mod_mod _ _
  by_cases hgo : v.getLsbD 63 = true ∧ s.gth.rowq.length < 64
  · refine ⟨{ s.setRf 0x500110 9 0 (bits v 9 0) with
        gth := { s.gth with rowq := s.gth.rowq ++ [⟨bits v 9 0, s.rf 0x500108 39 0, s.rf 0x500100 51 0⟩] } },
      ?_, rfl, rfl, htable, fun _ _ => rfl, fun h => ?_⟩
    · simp only [execGthRowwrite, hlive, bit, hgo, Bool.not_true, Bool.false_eq_true, if_false, decide_true, Bool.and_self, if_true]
      rfl
    · obtain ⟨hbit, hroom⟩ := hgo
      exact h.elim (fun h => absurd (hbit.symm.trans h) (by decide)) (fun h => absurd hroom (by omega))
  · have hno : (bit v 63 && decide (s.gth.rowq.length < 64)) = false := by simpa [bit] using hgo
    refine ⟨s.setRf 0x500110 9 0 (bits v 9 0), ?_, rfl, rfl, htable, fun hbit hroom => absurd ⟨hbit, hroom⟩ hgo, fun _ => rfl⟩
    simp only [execGthRowwrite, hlive, hno, Bool.not_true, Bool.false_eq_true, if_false]

/-! ### ROW_WRITE_FLIP -/

section
variable (g : Gather) (p : Nat)

/-- The gather unit has no part in a write of the partition range. -/
theorem State.spansWrite_of_gth : ∀ (l : List (Nat × Nat)) (s : State) (bs : List Byte),
    ({ s with gth := g } : State).spansWrite p l bs = { s.spansWrite p l bs with gth := g }
  | [], _, _ => rfl
  | sp :: r, s, bs => by
    have hspan : ({ s with gth := g } : State).spanWrite p sp.1 (bs.take sp.2) = { s.spanWrite p sp.1 (bs.take sp.2) with gth := g } := by
      unfold State.spanWrite
      rw [show ({ s with gth := g } : State).tier1 p sp.1 = s.tier1 p sp.1 from rfl]
      split <;> rfl
    rw [State.spansWrite, hspan, State.spansWrite_of_gth r, State.spansWrite]

theorem State.countBad_of_gth (s : State) (l : List (Nat × Nat)) :
    ({ s with gth := g } : State).countBad p l = { s.countBad p l with gth := g } := by
  unfold State.countBad State.bump
  rw [show b2n (l.any (fun sp => decide (({ s with gth := g } : State).xlat p sp.1 = .malformed))) =
    b2n (l.any (fun sp => decide (s.xlat p sp.1 = .malformed))) from rfl]
  split <;> rfl

theorem State.rangeWrite_of_gth (s : State) (a : Nat) (bs : List Byte) :
    ({ s with gth := g } : State).rangeWrite p a bs = { s.rangeWrite p a bs with gth := g } := by
  have hresp : ({ s with gth := g } : State).rangeResp p true (pageSpans a bs.length) = s.rangeResp p true (pageSpans a bs.length) := rfl
  simp only [State.rangeWrite, hresp]
  split
  · rw [State.spansWrite_of_gth]
    rfl
  · exact s.countBad_of_gth g p _

end

/-- The write of a row: its bytes in the copy that is not live (`b`: whether copy B is), then its bit of the selector flipped
(R193, R194). -/
def State.rowFlipped (s : State) (w : RowWrite) (b : Bool) (bs : List Byte) : State :=
  let d := s.tbl w.table
  (s.rangeWrite (tblPart d) (tblBase d + (if b then w.row else tblCount d + w.row) * tblRow d) bs).rangeWrite (tblPart d)
    (bits (nth 0 d 11) 51 0 + w.row / 8)
    [nth 0 ((s.rangeRead (tblPart d) (bits (nth 0 d 11) 51 0 + w.row / 8) 1).getD [0]) 0 ^^^ BitVec.ofNat 8 (2 ^ (w.row % 8))]

theorem execRowWriteFlip_eq {s : State} {w : RowWrite} {bs : List Byte} {b : Bool} (hlive : s.live = true)
    (hfind : s.gth.rowq.find? (fun x => Sparse.get 0 s.gth.holds (rowKey x.table x.row) == 0) = some w)
    (hread : s.rangeRead (tblPart (s.tbl w.table)) w.src (tblRow (s.tbl w.table)) = some bs)
    (hcopy : s.liveCopy (s.tbl w.table) w.row = some b) (hrep : tblReplaceable (s.tbl w.table) = true)
    (hrow : w.row < tblCount (s.tbl w.table)) :
    execRowWriteFlip s = .next { s.rowFlipped w b bs with gth := { s.gth with
      rowq := s.gth.rowq.erase w, holds := Sparse.put 0 s.gth.holds (rowKey w.table w.row) (s.time + 1) } } := by
  simp only [execRowWriteFlip, hfind, hlive, hread, hcopy, hrep, hrow, Bool.not_true, Bool.false_eq_true, if_false, decide_true,
    Bool.and_self, if_true, State.rangeWrite_of_gth]
  rfl

/-! ### ROW_WRITE_HOLD_EXPIRE -/

section
variable {s : State} {tbl : Fin 1024} {row : Nat}

theorem execRowWriteHoldExpire_of_due (hlive : s.live = true) (h0 : Sparse.get 0 s.gth.holds (rowKey tbl row) ≠ 0)
    (hdue : (Sparse.get 0 s.gth.holds (rowKey tbl row)).toNat + 24999 ≤ s.time.toNat) :
    execRowWriteHoldExpire tbl row s =
      .next { s with gth := { s.gth with holds := Sparse.put 0 s.gth.holds (rowKey tbl row) 0 } } := by
  simp only [execRowWriteHoldExpire, hlive, h0, hdue, ne_eq, not_false_eq_true, decide_true, Bool.and_self, if_true]

theorem execRowWriteHoldExpire_of_early (h : s.time.toNat < (Sparse.get 0 s.gth.holds (rowKey tbl row)).toNat + 24999) :
    execRowWriteHoldExpire tbl row s = .next s := by
  have hnot : ¬ (Sparse.get 0 s.gth.holds (rowKey tbl row)).toNat + 24999 ≤ s.time.toNat := by omega
  simp only [execRowWriteHoldExpire, hnot, decide_false, Bool.and_false, Bool.false_eq_true, if_false]

end

/-- Settles O32: the gather by what it waits for and what it has served, its bitmap through the bits of a byte, and a row write through
the gather unit's having no part in a write of the partition range. That a descriptor is the one taken at issue is the model's choice (log
entry 34). -/
theorem gatherLookupsAndRowWrites : Obligations.GatherLookupsAndRowWrites := by
  refine ⟨?_, fun s e r hlive hfind => execLookupReply_spec hlive hfind, fun s v hlive => execGthRowwrite_spec v hlive, ?_, ?_⟩
  · intro s l tag o hlive hfind old ops ws needs cl
    refine ⟨fun h => execGatherComplete_of_older hlive hfind h, fun hold h => execGatherComplete_of_waiting hlive hfind hold h,
      fun hold htaken resp h => execGatherComplete_of_answered hlive hfind hold htaken h, fun hold htaken hdone h => ?_,
      fun hold htaken hdone h => ?_⟩
    · refine ⟨_, execGatherComplete_of_owing hlive hfind hold htaken hdone h, ?_⟩
      split
      · exact ⟨rfl, rfl⟩
      · obtain ⟨⟨_, _, _, _, ht⟩⟩ := s.askFor_sent (.gather (s.phys l) o.ord) ((s.partOf l).getD 0) (s.gatherOwes l o)
        rw [ht]
        exact ⟨rfl, rfl⟩
    · intro ok
      obtain ⟨hrod, hothers⟩ := s.gatherEnds_rod l tag o
      exact ⟨_, execGatherComplete_of_here hlive hfind hold htaken hdone h, hrod, hothers, s.gatherServed_length l o,
        fun hcl k hk j hj => s.gatherEnds_bitmap l tag o hcl hk hj⟩
  · intro s w bs b hlive hfind d hread hcopy hrep hrow
    exact ⟨_, execRowWriteFlip_eq hlive hfind hread hcopy hrep hrow, rfl, Sparse.get_put_self _ _ _ _, rfl⟩
  · intro s tbl row hlive t0
    exact ⟨fun h0 hdue => ⟨_, execRowWriteHoldExpire_of_due hlive h0 hdue, Sparse.get_put_self 0 s.gth.holds _ 0, rfl, rfl⟩,
      fun h => execRowWriteHoldExpire_of_early h⟩

end Sys2Proof.Machine
end

section
/-! PROOF. SUBMIT and the commands that name a request (09_slate.md R204, R207, R217, R219, R220; 15_host_attach.md R340, R341): each as
the one change of the Slate that it makes, with what surrounds that change leaving the Slate as it is. -/

namespace Sys2Proof.Machine

/-! ### What leaves the Slate as it is -/

/-- The Slate and the board time stay. -/
structure SlateKept (s u : State) : Prop where
  slate : u.slate = s.slate
  time : u.time = s.time

theorem SlateKept.refl (s : State) : SlateKept s s := ⟨rfl, rfl⟩

theorem SlateKept.trans {s t u : State} (h : SlateKept s t) (k : SlateKept t u) : SlateKept s u :=
  ⟨k.slate.trans h.slate, k.time.trans h.time⟩

theorem SlateKept.slot {s u : State} (h : SlateKept s u) (i : Nat) : u.slot i = s.slot i := by
  rw [State.slot, h.slate, State.slot]

theorem QueueServed.slateKept {s u : State} (h : QueueServed s u) : SlateKept s u := by
  obtain ⟨⟨_, _, rfl⟩, -⟩ := h
  exact ⟨rfl, rfl⟩

theorem RangeWritten.slateKept {s u : State} (h : RangeWritten s u) : SlateKept s u := by
  obtain ⟨⟨_, _, _, _, _, rfl⟩⟩ := h
  exact ⟨rfl, rfl⟩

theorem State.bump_slateKept (s : State) (o n : Nat) : SlateKept s (s.bump o n) := by
  obtain ⟨_, h⟩ := s.bump_spec o n
  rw [h]
  exact ⟨rfl, rfl⟩

theorem State.complete_slateKept (s : State) (t q : Nat) (c : Completion) : SlateKept s (s.complete t q c) := by
  unfold State.complete
  split
  · exact ⟨rfl, rfl⟩
  · exact .refl s

/-- An entry that ends with a completion of its own. -/
theorem State.completed_slateKept (s : State) (t q : Nat) (c : Completion) (i : Nat) (r : Option Nat) :
    SlateKept s ((s.complete t q c).entryDone t q i r) :=
  (s.complete_slateKept t q c).trans (State.entryDone_served _ t q i r).slateKept

/-! ### The Tier mover's part (R213, R218, R270) -/

theorem State.drawFrame_slateKept {s u : State} {pool size f : Nat} (h : s.drawFrame pool size = some (f, u)) : SlateKept s u := by
  unfold State.drawFrame at h
  dsimp only at h
  split at h
  · cases h
  · split at h
    · cases h
    · cases h
      exact ⟨rfl, rfl⟩

theorem State.hbmWrite64_slateKept (s : State) (off : Nat) (v : W64) : SlateKept s (s.hbmWrite64 off v) := ⟨rfl, rfl⟩
theorem State.hbmZero_slateKept (s : State) (off len : Nat) : SlateKept s (s.hbmZero off len) := ⟨rfl, rfl⟩
theorem State.setOrigin_slateKept (s : State) (k v : Nat) : SlateKept s (s.setOrigin k v) := ⟨rfl, rfl⟩
theorem State.addT1_slateKept (s : State) (p : Nat) (d : Int) : SlateKept s (s.addT1 p d) := ⟨rfl, rfl⟩

theorem State.newTable_slateKept {s u : State} {lvl a : Nat} (h : s.newTable lvl = some (a, u)) : SlateKept s u := by
  unfold State.newTable at h
  dsimp only at h
  split at h
  · cases h
    exact ⟨rfl, rfl⟩
  · split at h
    · cases h
    · next hdraw =>
      cases h
      exact (State.drawFrame_slateKept hdraw).trans ⟨rfl, rfl⟩

theorem State.ensure_slateKept {u : State} {addr target a : Nat} :
    ∀ (n : Nat) {s : State} {tbl : Nat}, s.ensure addr tbl target n = some (a, u) → SlateKept s u
  | 0, _, _, h => nomatch h
  | lvl + 1, s, tbl, h => by
    unfold State.ensure at h
    dsimp only at h
    split at h
    · cases h
      exact .refl _
    · split at h
      · exact State.ensure_slateKept lvl h
      · split at h
        · split at h
          · cases h
          · next hnew =>
            have hrest := State.ensure_slateKept lvl h
            exact ((State.newTable_slateKept hnew).trans (State.hbmWrite64_slateKept _ _ _)).trans hrest
        · cases h

theorem State.tierMap_slateKept (s : State) (p page : Nat) (large : Bool) (pool : Nat) (pin wr : Bool) :
    SlateKept s (s.tierMap p page large pool pin wr).2 := by
  unfold State.tierMap
  dsimp only
  split
  · exact .refl s
  · split
    · exact .refl s
    · split
      · exact .refl s
      · next hdraw =>
        split
        · exact .refl s
        · next hens =>
          split
          · exact .refl s
          · exact (((((State.drawFrame_slateKept hdraw).trans (State.ensure_slateKept 4 hens)).trans
              (State.hbmZero_slateKept _ _ _)).trans (State.hbmWrite64_slateKept _ _ _)).trans
              (State.setOrigin_slateKept _ _ _)).trans (State.addT1_slateKept _ _ _)

theorem State.mapPlist_slateKept {s u : State} {p i : Nat} (h : s.mapPlist p i = some u) : SlateKept s u := by
  unfold State.mapPlist at h
  split at h
  · cases h
    exact .refl s
  · dsimp only at h
    split at h
    · cases h
    · cases h
      exact (s.tierMap_slateKept _ _ _ _ _ _).trans ⟨rfl, rfl⟩

theorem State.recallBlock_slateKept (s : State) (p a : Nat) : SlateKept s (s.recallBlock p a) := by
  refine State.forEach_induct (P := fun u => SlateKept s u) (fun b u h => ?_) _ (.refl s)
  split
  · dsimp only
    split
    · exact h.trans ⟨rfl, rfl⟩
    · exact h
  · exact h

theorem State.pfxDrop_slateKept (s : State) (p : Nat) (key : W64) (blk : Nat) : SlateKept s (s.pfxDrop p key blk) := by
  unfold State.pfxDrop
  split
  · exact (s.rangeWrite_written _ _ _).slateKept
  · exact .refl s

/-! ### One Slate entry changed -/

/-- Every other Slate entry stays. -/
def OthersKept (i : Nat) (s u : State) : Prop := ∀ n, n ≠ i → u.slot n = s.slot n

theorem OthersKept.trans {i : Nat} {s t u : State} (h : OthersKept i s t) (k : OthersKept i t u) : OthersKept i s u :=
  fun n hn => (k n hn).trans (h n hn)

theorem SlateKept.others {s u : State} (h : SlateKept s u) (i : Nat) : OthersKept i s u := fun n _ => h.slot n

theorem State.setSlot_others (s : State) (i : Nat) (x : Slot) : OthersKept i s (s.setSlot i x) := fun _ hn => s.slot_setSlot_ne x hn

theorem State.slot_onSlot (s : State) (i : Nat) (f : Slot → Slot) : (s.onSlot i f).slot i = f (s.slot i) := s.slot_setSlot i _

theorem State.onSlot_others (s : State) (i : Nat) (f : Slot → Slot) : OthersKept i s (s.onSlot i f) := s.setSlot_others i _

/-- The state lies in word 0. -/
theorem Slot.state_congr {x y : Slot} (h : x.w0 = y.w0) : x.state = y.state := by rw [Slot.state, h, Slot.state]

theorem Slot.setState_state (x : Slot) (n : Nat) : (x.setState n).state = n % 16 := bits_setBits_same x.w0 n (by decide) (by decide)

/-! ### Retirement with a status other than OK (R207, R216) -/

/-- Block `n` of request `i`, as `x` has it, released: a shared one loses a reference, a private one returns to the free list (R216). -/
def State.releaseBlock (s : State) (i : Nat) (x : Slot) (n : Nat) : State :=
  let e := s.blockEntry i n
  if blockShared e then s.pfxDrop x.part (nth 0 (s.slot i).chainKeys n) (blockAddr e)
  else (s.recallBlock x.part (blockAddr e)).freeBlock x.part (blockAddr e)

theorem State.releaseBlock_slateKept (s : State) (i : Nat) (x : Slot) (n : Nat) : SlateKept s (s.releaseBlock i x n) := by
  unfold State.releaseBlock
  dsimp only
  split
  · exact s.pfxDrop_slateKept _ _ _
  · exact (s.recallBlock_slateKept _ _).trans ⟨rfl, rfl⟩

theorem State.kvRelease_eq (s : State) (i : Nat) : s.kvRelease i false =
    (s.forEach (List.range (s.slot i).pages) (fun n u => u.releaseBlock i (s.slot i) n)).onSlot i
      (fun x => { x.setPages 0 with chainKeys := [] }) := rfl

/-- The release of a request's blocks, none of them kept for others. -/
theorem State.kvRelease_others (s : State) (i : Nat) : OthersKept i s (s.kvRelease i false) := by
  have hblock (n : Nat) (u : State) : SlateKept u (u.releaseBlock i (s.slot i) n) := u.releaseBlock_slateKept i _ n
  rw [State.kvRelease_eq]
  exact ((State.forEach_induct (P := fun u => SlateKept s u) (fun n u h => h.trans (hblock n u)) _ (.refl s)).others i).trans
    (State.onSlot_others _ i _)

/-- A retired request, before its completions (Table 9.3). -/
def Slot.ends (x : Slot) (status resp : Nat) : Slot := { x.setState 7 with
  status := status, resp := resp, ctl := [], packing := false, resuming := false, predOk := false, ended := 0, lost := false }

theorem Slot.ends_state (x : Slot) (status resp : Nat) : (x.ends status resp).state = 7 := by
  rw [Slot.state_congr (show (x.ends status resp).w0 = (x.setState 7).w0 from rfl), Slot.setState_state]

/-- One request released and retired; no completion of it has gone yet. -/
def State.retireMark (s : State) (i status resp : Nat) : State :=
  let u := (s.kvRelease i ((s.slot i).keepCache && status == 0)).onSlot i (·.ends status resp)
  { u with gth := { u.gth with packing := u.gth.packing.filter (· != i) } }

theorem State.retireMark_slateKept (s : State) (i status resp : Nat) :
    SlateKept ((s.kvRelease i ((s.slot i).keepCache && status == 0)).onSlot i (·.ends status resp)) (s.retireMark i status resp) := by
  unfold State.retireMark
  generalize State.onSlot _ _ _ = u
  exact ⟨rfl, rfl⟩

/-- The retirement of one request with its completions, its successor's fate left out. -/
def State.retireOne (s : State) (i status resp : Nat) : State :=
  ((s.retireMark i status resp).forEach (s.slot i).ctl (fun c s => s.commandDone c.tenant c.queue c.cmd 0 (some i))).final i status resp

theorem State.retireFrom_of_inactive {s : State} {i : Nat} (h : (s.slot i).active = false) (status resp : Nat) :
    ∀ n, s.retireFrom i status resp n = s
  | 0 => rfl
  | n + 1 => by rw [State.retireFrom, h, Bool.not_false, if_pos rfl]

/-- A status other than OK goes down the chain. -/
theorem State.retireFrom_of_active {s : State} {i status : Nat} (h : (s.slot i).active = true) (h0 : status ≠ 0) (resp n : Nat) :
    s.retireFrom i status resp (n + 1) = if (s.slot i).succ = 0xFFFF then s.retireOne i status resp
      else (s.retireOne i status resp).retireFrom (s.slot i).succ status resp n := by
  rw [State.retireFrom]
  dsimp only
  rw [h, Bool.not_true, if_neg Bool.false_ne_true, if_neg h0]
  rfl

theorem State.final_others (s : State) (i status resp : Nat) : OthersKept i s (s.final i status resp) := by
  unfold State.final
  dsimp only
  split
  · exact (s.complete_slateKept _ _ _).others i
  · exact s.onSlot_others i _

/-- The FINAL completion marks its request posted at most. -/
theorem State.final_slot (s : State) (i status resp : Nat) :
    ((s.final i status resp).slot i).w0 = (s.slot i).w0 ∧ ((s.final i status resp).slot i).status = (s.slot i).status := by
  unfold State.final
  dsimp only
  split
  · rw [(s.complete_slateKept _ _ _).slot]
    exact ⟨rfl, rfl⟩
  · rw [State.slot_onSlot]
    exact ⟨rfl, rfl⟩

theorem State.commandsDone_slateKept (s : State) (l : List CtlCmd) (status : Nat) (req : Option Nat) :
    SlateKept s (s.forEach l (fun c s => s.commandDone c.tenant c.queue c.cmd status req)) :=
  State.forEach_induct (P := fun u => SlateKept s u) (fun _ _ h => h.trans (State.commandDone_served _ _ _ _ _ _).slateKept) _ (.refl s)

theorem State.retireOne_slot (s : State) (i status resp : Nat) :
    ((s.retireOne i status resp).slot i).state = 7 ∧ ((s.retireOne i status resp).slot i).status = status := by
  have hmark : (s.retireMark i status resp).slot i = ((s.kvRelease i ((s.slot i).keepCache && status == 0)).slot i).ends status resp :=
    ((s.retireMark_slateKept i status resp).slot i).trans (State.slot_onSlot _ i _)
  have hdone := (State.commandsDone_slateKept (s.retireMark i status resp) (s.slot i).ctl 0 (some i)).slot i
  obtain ⟨hw0, hstatus⟩ := State.final_slot ((s.retireMark i status resp).forEach (s.slot i).ctl
    (fun c s => s.commandDone c.tenant c.queue c.cmd 0 (some i))) i status resp
  rw [hdone, hmark] at hw0 hstatus
  exact ⟨(Slot.state_congr hw0).trans (Slot.ends_state _ status resp), hstatus⟩

section
variable (s : State) (i : Nat) {status : Nat} (resp : Nat) (h0 : status ≠ 0)
include h0

theorem State.retireMark_others : OthersKept i s (s.retireMark i status resp) := by
  have hkeep : ((s.slot i).keepCache && status == 0) = false := by rw [beq_false_of_ne h0, Bool.and_false]
  have hmark := s.retireMark_slateKept i status resp
  rw [hkeep] at hmark
  exact ((s.kvRelease_others i).trans (State.onSlot_others _ i _)).trans (hmark.others i)

theorem State.retireOne_others : OthersKept i s (s.retireOne i status resp) :=
  ((s.retireMark_others i resp h0).trans ((State.commandsDone_slateKept _ _ _ _).others i)).trans (State.final_others _ i status resp)

/-- A retirement down a chain passes by the requests that are over. -/
theorem State.retireFrom_slot_of_inactive {j : Nat} : ∀ (n : Nat) (s : State) (i : Nat), (s.slot j).active = false →
    (s.retireFrom i status resp n).slot j = s.slot j
  | 0, _, _, _ => rfl
  | n + 1, s, i, hj => by
    cases hi : (s.slot i).active with
    | false => rw [State.retireFrom_of_inactive hi]
    | true =>
      have hne : j ≠ i := fun h => by rw [h, hi] at hj; cases hj
      have hone : (s.retireOne i status resp).slot j = s.slot j := s.retireOne_others i resp h0 j hne
      rw [State.retireFrom_of_active hi h0]
      split
      · exact hone
      · rw [State.retireFrom_slot_of_inactive n _ _ (by rw [hone, hj]), hone]

theorem State.retire_slot (hact : (s.slot i).active = true) :
    ((s.retire i status resp).slot i).state = 7 ∧ ((s.retire i status resp).slot i).status = status := by
  have hone := s.retireOne_slot i status resp
  rw [State.retire, State.retireFrom_of_active hact h0]
  split
  · exact hone
  · have hover : ((s.retireOne i status resp).slot i).active = false := by simp [Slot.active, hone.1]
    rwa [State.retireFrom_slot_of_inactive resp h0 _ _ _ hover]

end

/-! ### SUBMIT -/

/-- A refused SUBMIT admits nothing: at most a successor's WAIT_PRED changes. -/
theorem State.refuseSubmit_state (s : State) (t q : Nat) (b : List SubEntry) (e : SubEntry) (n : Nat) :
    ((s.refuseSubmit t q b e).slot n).state = (s.slot n).state := by
  have hfreed (k : Nat) : ((s.onSlot k (fun x => { x with waitPred := false })).slot n).state = (s.slot n).state := by
    by_cases h : n = k
    · rw [h, State.slot_onSlot]
      rfl
    · rw [s.onSlot_others k _ n h]
  unfold State.refuseSubmit
  dsimp only
  rw [(State.completed_slateKept _ _ _ _ _ _).slot]
  split
  · split
    · split
      · rfl
      · exact hfreed _
    · rfl
  · rfl

theorem State.holdBack_slateKept (s : State) (t q : Nat) (e : SubEntry) : SlateKept s (s.holdBack t q e) := by
  unfold State.holdBack
  dsimp only
  split
  · exact .refl s
  · split
    · exact .refl s
    · exact (State.setSq_served _ _ _ _).slateKept.trans (State.bump_slateKept _ _ _)

/-- An entry marked to end at the next boundary of its partition, or not, as `m` tells. -/
def Slot.marked (x : Slot) (m : Nat) : Slot := { x with ended := m }

theorem Slot.marked_self (x : Slot) : x.marked x.ended = x := rfl

section
variable (s : State) (t q i : Nat) (b : List SubEntry) (e : SubEntry)

theorem State.setBuf_slateKept (buf n : Nat) : SlateKept s (s.setBuf t buf n) := ⟨rfl, rfl⟩

theorem State.endLater_others (status : Nat) : OthersKept i s (s.endLater i status) := s.onSlot_others i _

/-- Whatever marks a request to end marks nothing else of it. -/
theorem State.endLater_slot (status : Nat) : ∃ m, (s.endLater i status).slot i = (s.slot i).marked m := by
  rw [State.endLater, State.slot_onSlot]
  split
  · exact ⟨_, rfl⟩
  · exact ⟨(s.slot i).ended, rfl⟩

/-- What admission leaves of the Slate: the new entry, marked at most to end where its first mask cannot be read (R253). -/
theorem State.takeIn_slots : OthersKept i s (s.takeIn t q i b e) ∧
    ∃ m, (s.takeIn t q i b e).slot i = (s.newSlot t q i b e).marked m := by
  unfold State.takeIn
  extract_lets x buf s1 s2 s3 s4
  have h2 : SlateKept s1 s2 := by
    unfold s2
    split
    · exact s1.setBuf_slateKept _ _ _
    · exact s1.setBuf_slateKept _ _ _
    · exact .refl s1
  have h3 : SlateKept s1 s3 := h2.trans (s2.rangeWrite_written _ _ _).slateKept
  have hend := s4.completed_slateKept t q (s4.mkCompletion 1 0 q e.id (some i) 0 true) e.index (some i)
  have hnew : OthersKept i s s3 := (s.setSlot_others i x).trans (h3.others i)
  have hslot : s3.slot i = x := (h3.slot i).trans (s.slot_setSlot i x)
  by_cases hmask : (s2.firstCtx i).isNone
  · obtain ⟨m, hm⟩ := s3.endLater_slot i 0x0B
    have h4 : s4 = s3.endLater i 0x0B := if_pos hmask
    exact ⟨(hnew.trans (h4 ▸ s3.endLater_others i 0x0B)).trans (hend.others i), m, by rw [hend.slot, h4, hm, hslot]⟩
  · have h4 : s4 = s3 := if_neg hmask
    exact ⟨(h4 ▸ hnew).trans (hend.others i), x.ended, (hend.slot i).trans ((h4 ▸ hslot).trans x.marked_self.symm)⟩

theorem State.newSlot_state : (s.newSlot t q i b e).state = 1 := by
  show bits (setBits (setBits (e.word 1) 63 60 1) 51 46 t) 63 60 = 1
  rw [bits_setBits_disjoint _ _ (by decide) (by decide) (by decide), bits_setBits_same _ _ (by decide) (by decide)]
  rfl

theorem State.newSlot_tenant (ht : t < 64) : (s.newSlot t q i b e).tenant = t := by
  show bits (setBits (setBits (e.word 1) 63 60 1) 51 46 t) 51 46 = t
  rw [bits_setBits_same _ _ (by decide) (by decide)]
  exact Nat.mod_eq_of_lt ht

end

/-- Whether a SUBMIT fails a check of R340 or R341. -/
def State.submitBad (s : State) (t : Nat) (b : List SubEntry) (e : SubEntry) : Bool :=
  chainBad b e (b.length + 1) || !s.admissible t b e || !s.succOk t b e

theorem State.submitBad_iff {s : State} {t : Nat} {b : List SubEntry} {e : SubEntry} : s.submitBad t b e = true ↔
    chainBad b e (b.length + 1) = true ∨ s.admissible t b e = false ∨ s.succOk t b e = false := by
  simp only [State.submitBad, Bool.or_eq_true, Bool.not_eq_true', or_assoc]

section
variable {s : State} {t : Fin 64} {q : Fin 8} {i : Nat} {k : Fin 32768} {e : SubEntry} {b : List SubEntry}
  (htake : s.takeEntry t q i 1 = some (e, b))
include htake

theorem execSubmit_of_bad (h : s.submitBad t b e = true) : execSubmit t q i k s = .next (s.refuseSubmit t q b e) := by
  rw [State.submitBad] at h
  simp only [execSubmit, htake, h, if_true]

theorem execSubmit_of_full (h : s.submitBad t b e = false) (hfull : s.slateFull t = true) :
    execSubmit t q i k s = .next (s.holdBack t q e) := by
  rw [State.submitBad] at h
  simp only [execSubmit, htake, h, hfull, Bool.false_eq_true, if_false, if_true]

theorem execSubmit_of_good (h : s.submitBad t b e = false) (hroom : s.slateFull t = false) (hfree : (s.slot k).state = 0) {s1 : State}
    (hmap : s.mapPlist (bits (e.word 1) 55 52) k = some s1) : execSubmit t q i k s = .next (s1.takeIn t q k b e) := by
  rw [State.submitBad] at h
  simp only [execSubmit, htake, h, hroom, hfree, hmap, ne_eq, not_true_eq_false, Bool.false_eq_true, if_false]

end

/-! ### Pausing, parking, resuming -/

/-- The entry of a request that is parked (Table 9.3): a time to live of 0 keeps the one given before. -/
def Slot.parked (x : Slot) (time : W64) (ttl : Nat) : Slot :=
  { x.setState 5 with w6 := time, w7 := if ttl = 0 then x.w7 else setBits x.w7 31 16 ttl }

theorem Slot.parked_state (x : Slot) (time : W64) (ttl : Nat) : (x.parked time ttl).state = 5 := by
  rw [Slot.state_congr (show (x.parked time ttl).w0 = (x.setState 5).w0 from rfl), Slot.setState_state]

theorem Slot.parked_ttl (x : Slot) (time : W64) {ttl : Nat} (h : ttl ≠ 0) (hlt : ttl < 65536) : (x.parked time ttl).ttl = ttl := by
  show bits (if ttl = 0 then x.w7 else setBits x.w7 31 16 ttl) 31 16 = ttl
  rw [if_neg h, bits_setBits_same _ _ (by decide) (by decide)]
  exact Nat.mod_eq_of_lt hlt

theorem Slot.resumed_state (x : Slot) : x.resumed.state = if x.generated > 0 then 3 else 1 := by
  rw [Slot.state_congr (show x.resumed.w0 = (x.setState (if x.generated > 0 then 3 else 1)).w0 from rfl), Slot.setState_state]
  split <;> rfl

/-- QUEUED, PREFILL or DECODE: the states that a pause reaches. -/
def Slot.running (x : Slot) : Prop := x.state = 1 ∨ x.state = 2 ∨ x.state = 3

section
variable {s : State} {i : Nat} {c : CtlCmd}

theorem State.applyCtl_pause (hop : c.op = 2) (h : (s.slot i).running) :
    SlateKept (s.setSlot i ((s.slot i).setState 4)) (s.applyCtl i c) := by
  unfold Slot.running at h
  simp only [State.applyCtl, hop, h, if_true]
  exact (State.commandDone_served _ _ _ _ _ _).slateKept

/-- Parking changes the Slate by the parked entry alone: the mover only receives its commands. -/
theorem State.applyCtl_park (hop : c.op = 3) (h : (s.slot i).running ∨ (s.slot i).state = 4) :
    SlateKept (s.setSlot i ((s.slot i).parked s.time c.ttl)) (s.applyCtl i c) := by
  unfold Slot.running at h
  simp only [State.applyCtl, hop, h, Nat.reduceEqDiff, if_true, if_false]
  refine SlateKept.trans ?_ (State.commandDone_served _ _ _ _ _ _).slateKept
  refine State.forEach_induct (fun _ _ hu => ?_) _ (.refl _)
  exact hu.trans ⟨rfl, rfl⟩

theorem State.applyCtl_resume (hop : c.op = 4) (h : (s.slot i).state = 4) (hkept : (s.slot i).lost = false) :
    SlateKept (s.setSlot i (s.slot i).resumed) (s.applyCtl i c) := by
  simp only [State.applyCtl, hop, h, hkept, Nat.reduceEqDiff, Bool.false_eq_true, if_true, if_false]
  exact (State.commandDone_served _ _ _ _ _ _).slateKept

/-- The states in which a command acts on its request (Table 9.3), with a time to live where it parks. -/
def Slot.takes (x : Slot) (c : CtlCmd) : Prop :=
  c.op = 2 ∧ x.running ∨ c.op = 3 ∧ (x.running ∨ x.state = 4) ∧ (c.ttl ≠ 0 ∨ x.ttl ≠ 0) ∨ c.op = 4 ∧ x.state = 4

/-- A command that acts does so at once where the partition is idle, and waits with the request otherwise (R217). -/
theorem State.ctlReach_of_takes (h : (s.slot i).takes c) : s.ctlReach i c =
    if s.idle (s.slot i).part then s.applyCtl i c else s.onSlot i (fun x => { x with ctl := x.ctl ++ [c] }) := by
  unfold Slot.takes Slot.running at h
  have hactive : (s.slot i).active = true := by
    simp only [Slot.active, Bool.and_eq_true, decide_eq_true_eq]
    omega
  have h5 : (s.slot i).state ≠ 5 := by omega
  have h6 : (s.slot i).state ≠ 6 := by omega
  obtain ⟨hop, hst⟩ | ⟨hop, -, httl⟩ | ⟨hop, hst⟩ := h
  · have h4 : (s.slot i).state ≠ 4 := by omega
    simp [State.ctlReach, hop, hactive, h4, h5, h6]
  · have hlimit : (decide (c.ttl = 0) && decide ((s.slot i).ttl = 0)) = false := by
      simpa only [Bool.and_eq_false_iff, decide_eq_false_iff_not] using httl
    simp [State.ctlReach, hop, hactive, hlimit, h5, h6]
  · simp [State.ctlReach, hop, hactive, hst]

end

/-! ### The entries that carry a command -/

/-- A command entry in the form of R5 that names a request of its tenant (R204, R339). -/
def State.commandOk (s : State) (t op frm : Nat) (e : SubEntry) : Prop :=
  e.clean frm false = true ∧ bits (e.word 1) 63 15 = 0 ∧ (op = 3 → bits (e.word 3) 63 16 = 0) ∧ s.namesOwn t e = true

/-- Only PARK has a field in word 3. -/
theorem State.commandOk_iff {s : State} {t op frm : Nat} {e : SubEntry} (hop : op ≠ 3) :
    s.commandOk t op frm e ↔ e.clean frm false = true ∧ bits (e.word 1) 63 15 = 0 ∧ s.namesOwn t e = true := by
  simp only [State.commandOk, hop, false_implies, true_and]

theorem State.commandOk_park_iff {s : State} {t frm : Nat} {e : SubEntry} : s.commandOk t 3 frm e ↔
    e.clean frm false = true ∧ bits (e.word 1) 63 15 = 0 ∧ bits (e.word 3) 63 16 = 0 ∧ s.namesOwn t e = true := by
  simp only [State.commandOk, true_implies]

/-- The check of a command entry as the model computes it. -/
def State.commandBad (s : State) (t op frm : Nat) (e : SubEntry) : Bool :=
  !e.clean frm false || bits (e.word 1) 63 15 ≠ 0 || (op = 3 && bits (e.word 3) 63 16 ≠ 0) || !s.namesOwn t e

theorem State.commandBad_eq_false {s : State} {t op frm : Nat} {e : SubEntry} :
    s.commandBad t op frm e = false ↔ s.commandOk t op frm e := by
  simp only [State.commandBad, State.commandOk, Bool.or_eq_false_iff, Bool.and_eq_false_iff, Bool.not_eq_false', decide_eq_false_iff_not,
    not_not, imp_iff_not_or, and_assoc]

/-- The command that an entry carries to its request. -/
def SubEntry.ctl (e : SubEntry) (t q op : Nat) : CtlCmd := ⟨op, if op = 3 then bits (e.word 3) 15 0 else 0, t, q, e.id⟩

section
variable {s : State} {t q i op : Nat} {e : SubEntry} {b : List SubEntry} (frm : Nat) (htake : s.takeEntry t q i op = some (e, b))
include htake

theorem State.ctlEntry_eq : s.ctlEntry t q i op frm = if s.commandBad t op frm e then s.entryEnds t q e 0x0B
    else (s.ctlReach e.names (e.ctl t q op)).entryDone t q e.index none := by
  rw [State.ctlEntry, State.withEntry_of_taken _ htake]
  rfl

theorem State.ctlEntry_of_not_ok (h : ¬ s.commandOk t op frm e) : SlateKept s (s.ctlEntry t q i op frm) := by
  rw [State.ctlEntry_eq frm htake, if_pos (by simpa using mt State.commandBad_eq_false.mp h)]
  exact (s.entryEnds_served _ _ _ _).slateKept

theorem State.ctlEntry_of_ok (h : s.commandOk t op frm e) :
    SlateKept (s.ctlReach e.names (e.ctl t q op)) (s.ctlEntry t q i op frm) := by
  rw [State.ctlEntry_eq frm htake, State.commandBad_eq_false.mpr h, if_neg Bool.false_ne_true]
  exact (State.entryDone_served _ _ _ _ _).slateKept

/-- A command that acts, in an idle partition. -/
theorem State.ctlEntry_of_idle (h : s.commandOk t op frm e) (htakes : (s.slot e.names).takes (e.ctl t q op))
    (hidle : s.idle (s.slot e.names).part = true) : SlateKept (s.applyCtl e.names (e.ctl t q op)) (s.ctlEntry t q i op frm) := by
  have hreach := State.ctlEntry_of_ok frm htake h
  rwa [State.ctlReach_of_takes htakes, hidle, if_pos rfl] at hreach

/-- A command that waits with its request, in a partition that is not idle. -/
theorem State.ctlEntry_of_busy (h : s.commandOk t op frm e) (htakes : (s.slot e.names).takes (e.ctl t q op))
    (hbusy : s.idle (s.slot e.names).part = false) :
    SlateKept (s.onSlot e.names (fun x => { x with ctl := x.ctl ++ [e.ctl t q op] })) (s.ctlEntry t q i op frm) := by
  have hreach := State.ctlEntry_of_ok frm htake h
  rwa [State.ctlReach_of_takes htakes, hbusy, if_neg Bool.false_ne_true] at hreach

end

/-! ### CANCEL -/

section
variable {s : State} {t : Fin 64} {q : Fin 8} {i : Nat} {e : SubEntry} {b : List SubEntry} (htake : s.takeEntry t q i 5 = some (e, b))
include htake

theorem execCancel_eq : execCancel t q i s = .next (if s.commandBad t 5 3 e then s.entryEnds t q e 0x0B
    else ((s.cancel e.names).commandDone t q e.id 0 (some e.names)).entryDone t q e.index none) := by
  have hform : s.commandBad t 5 3 e = (!e.clean 3 false || decide (bits (e.word 1) 63 15 ≠ 0) || !s.namesOwn t e) := by
    simp [State.commandBad]
  rw [execCancel, State.withEntry_of_taken _ htake, hform]

theorem execCancel_of_not_ok (h : ¬ s.commandOk t 5 3 e) : ∃ u, execCancel t q i s = .next u ∧ SlateKept s u := by
  rw [execCancel_eq htake, if_pos (by simpa using mt State.commandBad_eq_false.mp h)]
  exact ⟨_, rfl, (s.entryEnds_served _ _ _ _).slateKept⟩

theorem execCancel_of_ok (h : s.commandOk t 5 3 e) : ∃ u, execCancel t q i s = .next u ∧ SlateKept (s.cancel e.names) u := by
  rw [execCancel_eq htake, State.commandBad_eq_false.mpr h, if_neg Bool.false_ne_true]
  exact ⟨_, rfl, (State.commandDone_served _ _ _ _ _ _).slateKept.trans (State.entryDone_served _ _ _ _ _).slateKept⟩

end

section
variable {s : State} {i : Nat} (hact : (s.slot i).active = true) (h6 : (s.slot i).state ≠ 6)
include hact h6

theorem State.cancel_of_launched (h : s.inLaunched i = true) :
    s.cancel i = s.onSlot i (fun x => { x.setState 6 with ended := 0 }) := by
  simp only [State.cancel, hact, h6, h, Bool.not_true, decide_false, Bool.or_self, Bool.false_eq_true, if_false, if_true]

theorem State.cancel_of_not_launched (h : s.inLaunched i = false) : s.cancel i = s.retire i 1 0 := by
  simp only [State.cancel, hact, h6, h, Bool.not_true, decide_false, Bool.or_self, Bool.false_eq_true, if_false]

end

/-- Settles O28: each row by the one change of the Slate that it makes, a cancelled request through the chain of its successors, whose
retirements pass it by. -/
theorem requestsAdmittedAndControlled : Obligations.RequestsAdmittedAndControlled := by
  refine ⟨?_, ?_, ?_, ?_, ?_⟩
  · intro s t q i k e b htake bad
    have hgood (h : ¬ bad) : s.submitBad t b e = false := by simpa using mt State.submitBad_iff.mp h
    refine ⟨fun h => ⟨_, execSubmit_of_bad htake (State.submitBad_iff.mpr h), s.refuseSubmit_state t q b e⟩,
      fun h hfull => ⟨_, execSubmit_of_full htake (hgood h) hfull, (s.holdBack_slateKept t q e).slate⟩,
      fun h hroom hfree s1 hmap => ?_⟩
    have hkept := State.mapPlist_slateKept hmap
    obtain ⟨hothers, m, hnew⟩ := s1.takeIn_slots t q k b e
    refine ⟨_, execSubmit_of_good htake (hgood h) hroom hfree hmap, ?_⟩
    rw [hnew]
    exact ⟨(Slot.state_congr rfl).trans (s1.newSlot_state t q k b e), s1.newSlot_tenant t q k b e t.isLt, rfl, rfl, rfl, hkept.time,
      fun n hn => (hothers n hn).trans (hkept.slot n)⟩
  · intro s t q i e b htake x good
    have hok : s.commandOk t 2 3 e ↔ good := State.commandOk_iff (by decide)
    refine ⟨fun h => ⟨_, rfl, (State.ctlEntry_of_not_ok 3 htake (mt hok.mp h)).slate⟩, fun h hst => ?_⟩
    have htakes : x.takes (e.ctl t q 2) := .inl ⟨rfl, hst⟩
    refine ⟨fun hidle => ⟨_, rfl, ?_⟩, fun hbusy => ⟨_, rfl, ?_⟩⟩
    · have hkept := State.ctlEntry_of_idle 3 htake (hok.mpr h) htakes hidle
      exact (((State.applyCtl_pause rfl hst).trans hkept).slot _).trans (s.slot_setSlot _ _)
    · have hkept := State.ctlEntry_of_busy 3 htake (hok.mpr h) htakes hbusy
      exact (hkept.slot _).trans (s.slot_onSlot _ _)
  · intro s t q i e b htake x ttl good
    have hok : s.commandOk t 3 4 e ↔ good := State.commandOk_park_iff
    refine ⟨fun h => ⟨_, rfl, (State.ctlEntry_of_not_ok 4 htake (mt hok.mp h)).slate⟩, fun h hst httl hidle => ⟨_, rfl, ?_⟩⟩
    have hfrom : x.running ∨ x.state = 4 := by simpa only [Slot.running, or_assoc] using hst
    have htakes : x.takes (e.ctl t q 3) := .inr (.inl ⟨rfl, hfrom, httl⟩)
    have hkept := State.ctlEntry_of_idle 4 htake (hok.mpr h) htakes hidle
    have hslot := (((State.applyCtl_park rfl hfrom).trans hkept).slot e.names).trans (s.slot_setSlot _ _)
    rw [show (s.ctlEntry t q i 3 4).slot e.names = x.parked s.time ttl from hslot]
    exact ⟨x.parked_state _ _, rfl, fun h0 => x.parked_ttl s.time h0 (Nat.mod_lt _ (by decide))⟩
  · intro s t q i e b htake x good
    have hok : s.commandOk t 4 3 e ↔ good := State.commandOk_iff (by decide)
    refine ⟨fun h => ⟨_, rfl, (State.ctlEntry_of_not_ok 3 htake (mt hok.mp h)).slate⟩, fun h hst hlost hidle => ⟨_, rfl, ?_⟩⟩
    have hkept := State.ctlEntry_of_idle 3 htake (hok.mpr h) (.inr (.inr ⟨rfl, hst⟩)) hidle
    have hslot := (((State.applyCtl_resume rfl hst hlost).trans hkept).slot e.names).trans (s.slot_setSlot _ _)
    rw [hslot]
    exact x.resumed_state
  · intro s t q i e b htake x good
    have hok : s.commandOk t 5 3 e ↔ good := State.commandOk_iff (by decide)
    refine ⟨fun h => ?_, fun h hact h6 => ?_⟩
    · obtain ⟨u, hu, hkept⟩ := execCancel_of_not_ok htake (mt hok.mp h)
      exact ⟨u, hu, hkept.slate⟩
    · obtain ⟨u, hu, hkept⟩ := execCancel_of_ok htake (hok.mpr h)
      refine ⟨fun hin => ⟨u, hu, ?_⟩, fun hout => ⟨u, hu, ?_⟩⟩
      · rw [hkept.slot, State.cancel_of_launched hact h6 hin, State.slot_onSlot]
      · rw [hkept.slot, State.cancel_of_not_launched hact h6 hout]
        exact s.retire_slot e.names 0 (by decide) hact

end Sys2Proof.Machine
end

section
/-! PROOF. What is done for each element of a list, or for each rod of a partition: what holds of every element afterwards. -/

namespace Sys2Proof.Machine

/-- What each element's action brings about and no other's undoes holds of every element of the list afterwards; `I` is what every action
keeps. -/
theorem State.forEach_all {α : Type} {I : State → Prop} {Q : α → State → Prop} {f : α → State → State}
    (hI : ∀ a u, I u → I (f a u)) (hset : ∀ a u, I u → Q a (f a u)) (hkeep : ∀ a b u, I u → Q a u → Q a (f b u)) :
    ∀ (l : List α) {s : State}, I s → ∀ a ∈ l, Q a (s.forEach l f) := by
  intro l
  induction l with
  | nil => exact fun _ a ha => absurd ha List.not_mem_nil
  | cons b l ih =>
    intro s hs a ha
    obtain rfl | ha := List.mem_cons.mp ha
    · have hstep (c : α) (u : State) (h : I u ∧ Q a u) : I (f c u) ∧ Q a (f c u) := ⟨hI c u h.1, hkeep a c u h.1 h.2⟩
      have hrest := State.forEach_induct hstep l (s := f a s) ⟨hI a s hs, hset a s hs⟩
      exact hrest.2
    · exact ih (hI b s hs) a ha

/-- The place of a rod depends on the configuration and the spare map. -/
theorem State.phys_congr {s u : State} (hd : u.design = s.design) (hm : u.flt.spareMap = s.flt.spareMap) (l : Nat) : u.phys l = s.phys l := by
  simp only [State.phys, hd, hm]

/-- One change of each rod of a list: the rods of the list have it, the others are as they were, and nothing else has changed. -/
theorem State.forEach_onRod {g : Rod → Rod} (hg : ∀ r, g (g r) = g r) : ∀ (l : List Nat) (s : State),
    (∃ rods, s.forEach l (fun a u => u.onRod (u.phys a) g) = { s with rods := rods }) ∧
      ∀ k, (s.forEach l (fun a u => u.onRod (u.phys a) g)).rod k = if k ∈ l.map s.phys then g (s.rod k) else s.rod k
  | [], s => ⟨⟨s.rods, rfl⟩, fun _ => rfl⟩
  | a :: l, s => by
    obtain ⟨⟨rods, hf⟩, hr⟩ := State.forEach_onRod hg l (s.onRod (s.phys a) g)
    refine ⟨⟨rods, hf⟩, fun k => (hr k).trans ?_⟩
    have hp : (s.onRod (s.phys a) g).phys = s.phys := rfl
    rw [hp, List.map_cons]
    by_cases hk : k = s.phys a
    · rw [hk, State.onRod, State.rod_setRod, hg, ite_self, if_pos List.mem_cons_self]
    · rw [State.onRod, State.rod_setRod_ne _ _ hk]
      simp only [List.mem_cons, hk, false_or]

end Sys2Proof.Machine
end

section
/-! PROOF. The partition commands (10_sequencer.md R221, R222; 04_isa_encoding.md R70; 03_rods.md R469; 13_weight_loading.md R292): why each
is refused, and what it leaves where it acts. -/

namespace Sys2Proof.Machine

/-! ### CREATE -/

/-- A physical rod as CREATE leaves it: its memories zero, its registers initial, without an image. -/
def State.clearRod (s : State) (ph : Nat) : State :=
  (((s.beadZero ph).imemZero ph).resetRod ph).onRod ph (fun r => { r with imgLen := 0 })

/-- The rods of the partition cleared. -/
def State.clearRods (s : State) (p : Nat) : State := s.forEach (s.rodsOf p) (fun l u => u.clearRod (u.phys l))

theorem State.clearRod_imgLen (s : State) (ph : Nat) : ((s.clearRod ph).rod ph).imgLen = 0 := by
  rw [State.clearRod, State.onRod, State.rod_setRod]

theorem State.clearRod_rod_ne (s : State) {ph k : Nat} (h : k ≠ ph) : (s.clearRod ph).rod k = s.rod k := by
  rw [State.clearRod, State.onRod, State.rod_setRod_ne _ _ h, State.resetRod, State.onRod, State.rod_setRod_ne _ _ h]
  rfl

theorem State.resetRod_frame (s : State) (ph : Nat) : ∃ fab rods, s.resetRod ph = { s with fab := fab, rods := rods } := ⟨_, _, rfl⟩

theorem State.clearRod_frame (s : State) (ph : Nat) : ∃ fab rods, s.clearRod ph =
    { (s.beadZero ph).imemZero ph with fab := fab, rods := rods } := by
  obtain ⟨fab, rods, h⟩ := ((s.beadZero ph).imemZero ph).resetRod_frame ph
  rw [State.clearRod, h]
  generalize (s.beadZero ph).imemZero ph = u
  exact ⟨_, _, rfl⟩

theorem State.clearRod_bead (s : State) (ph : Nat) : (s.clearRod ph).bead = s.bead.zero (2 ^ 22 * ph) (2 ^ 22 * (ph + 1)) := by
  obtain ⟨_, _, h⟩ := s.clearRod_frame ph
  rw [h]
  rfl

theorem State.clearRod_hbm (s : State) (ph : Nat) : (s.clearRod ph).hbm = s.hbm := by
  obtain ⟨_, _, h⟩ := s.clearRod_frame ph
  rw [h]
  rfl

theorem State.clearRod_phys (s : State) (ph l : Nat) : (s.clearRod ph).phys l = s.phys l := by
  obtain ⟨_, _, h⟩ := s.clearRod_frame ph
  rw [h]
  rfl

/-- The bead memory of a physical rod is zero, and it holds no image. -/
def State.RodBlank (s : State) (ph : Nat) : Prop :=
  (s.rod ph).imgLen = 0 ∧ ∀ x, x < 2 ^ 22 → s.bead.read1 (2 ^ 22 * ph + x) = 0

theorem State.clearRod_blank (s : State) (ph : Nat) : (s.clearRod ph).RodBlank ph :=
  ⟨s.clearRod_imgLen ph, fun x hx => by rw [State.clearRod_bead, Memory.read1_zero, if_pos (by omega)]⟩

theorem State.RodBlank.clearRod {s : State} {k : Nat} (h : s.RodBlank k) (ph : Nat) : (s.clearRod ph).RodBlank k := by
  by_cases hk : k = ph
  · rw [hk]
    exact s.clearRod_blank ph
  · obtain ⟨himg, hbead⟩ := h
    refine ⟨by rw [State.clearRod_rod_ne _ hk, himg], fun x hx => ?_⟩
    rw [State.clearRod_bead, Memory.read1_zero, hbead x hx, ite_self]

theorem State.RodBlank.congr {s u : State} {ph : Nat} (h : s.RodBlank ph) (hr : u.rods = s.rods) (hb : u.bead = s.bead) : u.RodBlank ph := by
  rwa [State.RodBlank, State.rod, hr, hb]

theorem State.clearRods_blank (s : State) (p : Nat) : ∀ l ∈ s.rodsOf p, (s.clearRods p).RodBlank (s.phys l) := by
  rw [State.clearRods]
  refine State.forEach_all (I := fun u => ∀ l, u.phys l = s.phys l) (Q := fun l u => u.RodBlank (s.phys l)) (fun a u h l => ?_)
    (fun a u h => ?_) (fun a b u _ hq => hq.clearRod _) _ (fun _ => rfl)
  · rw [State.clearRod_phys, h]
  · rw [h]
    exact u.clearRod_blank _

theorem State.clearRods_hbm (s : State) (p : Nat) : (s.clearRods p).hbm = s.hbm := by
  rw [State.clearRods]
  exact State.forEach_induct (P := fun u => u.hbm = s.hbm) (fun a u h => (u.clearRod_hbm (u.phys a)).trans h) _ rfl

/-- The partition as CREATE leaves it, before it is measured. -/
def State.newPart (s : State) (p : Nat) : Part :=
  { Part.init with
    st := .loading, nonce := s.free, pfxKey0 := Config.freeWord (s.free + 4), pfxKey1 := Config.freeWord (s.free + 5),
    t1 := (s.part p).t1, cycle0 := s.pwr.cycles }

theorem State.loadStatus_frame (s : State) (p st cause shard : Nat) : ∃ regs, s.loadStatus p st cause shard = { s with regs := regs } := by
  unfold State.loadStatus State.setRf State.setReg
  exact ⟨_, rfl⟩

theorem State.measurePart_part (s : State) (p : Nat) : (s.measurePart p).part p = { s.part p with measured := s.partBytes p } :=
  State.part_setPart _ _ _

/-- The partition's fields, counters and load status as CREATE leaves them. -/
def State.enrol (c : State) (p : Nat) (x : Part) : State :=
  (((c.setPart p x).clearPartCounters p).loadStatus p 0 0 0).journal 1 [1, w64 p]

theorem State.enrol_frame (c : State) (p : Nat) (x : Part) :
    ∃ regs flt, c.enrol p x = { c.setPart p x with regs := regs, flt := flt } := by
  obtain ⟨regs, h⟩ := ((c.setPart p x).clearPartCounters p).loadStatus_frame p 0 0 0
  rw [State.enrol, h]
  generalize c.setPart p x = v
  exact ⟨regs, _, rfl⟩

theorem State.enrol_part (c : State) (p : Nat) (x : Part) : (c.enrol p x).part p = x := by
  obtain ⟨regs, flt, h⟩ := c.enrol_frame p x
  rw [h]
  exact c.part_setPart p x

/-- The measurement of a partition that has been created. -/
def State.markCreated (u : State) (p : Nat) : State :=
  let v := u.measurePart p
  { v with fab := { v.fab with created := true } }

theorem State.markCreated_part (u : State) (p : Nat) : (u.markCreated p).part p = { u.part p with measured := u.partBytes p } :=
  u.measurePart_part p

/-- The state after CREATE. -/
def State.created (s : State) (p : Nat) : State := (((s.drawMany 6).2.clearRods p).enrol p (s.newPart p)).markCreated p

theorem State.created_spec (s : State) (p : Nat) : (∃ m, (s.created p).part p = { s.newPart p with measured := m }) ∧
    (s.created p).hbm = s.hbm ∧ ∀ l ∈ s.rodsOf p, (s.created p).RodBlank (s.phys l) := by
  obtain ⟨regs, flt, hf⟩ := ((s.drawMany 6).2.clearRods p).enrol_frame p (s.newPart p)
  have hhbm : ((s.drawMany 6).2.clearRods p).hbm = s.hbm := State.clearRods_hbm _ p
  have hblank : ∀ l ∈ s.rodsOf p, ((s.drawMany 6).2.clearRods p).RodBlank (s.phys l) :=
    (s.drawMany 6).2.clearRods_blank p
  rw [State.created]
  refine ⟨⟨_, (State.markCreated_part _ p).trans (by rw [State.enrol_part])⟩, ?_, fun l hl => ?_⟩
  · rw [hf, ← hhbm]
    generalize (s.drawMany 6).2.clearRods p = c
    rfl
  · rw [hf]
    have hl := hblank l hl
    generalize (s.drawMany 6).2.clearRods p = c at hl ⊢
    exact hl.congr rfl rfl

/-- The frames of a partition meet those of another that is not OFF. -/
def State.frameClash (s : State) (p : Nat) : Prop :=
  ∃ k, k < 16 ∧ k ≠ p ∧ (s.part k).st ≠ .off ∧ s.rd (pReg k 8) &&& s.rd (pReg p 8) ≠ 0

theorem State.frameClash_iff (s : State) (p : Nat) : (List.range 16).any (fun k =>
    k != p && (s.part k).st != .off && (s.rd (pReg k 8) &&& s.rd (pReg p 8)) != 0) = true ↔ s.frameClash p := by
  simp [State.frameClash, and_assoc]

section
variable {s : State} {p : Fin 16}

/-- CREATE's checks in their order. -/
theorem execCreate_eq : execCreate p s = .next (if !s.live then s
    else if (s.part p).st ≠ .off || !s.ready || s.flt.noCreate then s.refuse p 5
    else if (s.rd (pReg p 8)).toNat = 0 || (s.rd (pReg p 8)).toNat > s.frameMask || (List.range 16).any (fun k =>
        k != p.val && (s.part k).st != .off && (s.rd (pReg k 8) &&& s.rd (pReg p 8)) != 0) then s.refuse p 4
    else s.created p) := rfl

variable (hl : s.live = true)
include hl

theorem execCreate_of_not_ready (h : (s.part p).st ≠ .off ∨ s.rf 0x10020 3 0 ≠ 0xC ∨ s.flt.noCreate = true) :
    execCreate p s = .next (s.refused p 5) := by
  rw [execCreate_eq, if_neg (by simp [hl]), if_pos (by simpa [State.ready, or_assoc] using h)]
  rfl

variable (hst : (s.part p).st = .off) (hr : s.rf 0x10020 3 0 = 0xC) (hn : s.flt.noCreate = false)
include hst hr hn

open Classical in
/-- CREATE of a partition that is OFF, with the block READY: the frame mask decides. -/
theorem execCreate_of_ready : execCreate p s = .next (
    if (s.rd (pReg p 8)).toNat = 0 ∨ 2 ^ (s.design.rods / 8) ≤ (s.rd (pReg p 8)).toNat ∨ s.frameClash p then s.refused p 4
    else s.created p) := by
  have hpow := Nat.two_pow_pos (s.design.rods / 8)
  rw [execCreate_eq, if_neg (by simp [hl]), if_neg (by simp [State.ready, hst, hr, hn])]
  refine congrArg Host.Outcome.next (if_congr ?_ rfl rfl)
  rw [Bool.or_eq_true, s.frameClash_iff, Bool.or_eq_true, decide_eq_true_eq, decide_eq_true_eq, or_assoc, State.frameMask]
  refine or_congr_right (or_congr_left ?_)
  omega

end

/-! ### START -/

section
variable {s : State} {p : Fin 16}

/-- START and RELEASE wait while halt is in effect. -/
theorem execStart_of_stalled (h : s.stalled = true) : execStart p s = .next s := by
  simp [execStart, h]

theorem execRelease_of_stalled (h : s.stalled = true) : execRelease p s = .next s := by
  simp [execRelease, h]

theorem execReleaseWithReplay_of_stalled (h : s.stalled = true) : execReleaseWithReplay p s = .next s := by
  simp [execReleaseWithReplay, State.releaseReplay, h]

end

/-- Bytes of the shards that stay in tier 1 (R292). -/
def Load.pinned (x : Load) : Nat := (x.shards.filter (fun e => shClass e.words == 0)).foldl (fun n e => n + shBytes e.words) 0

/-- A frame of the partition cannot be used. -/
def State.deadFrame (s : State) (p : Nat) : Prop := ∃ f ∈ s.flt.noFrames, (s.rd (pReg p 8)).getLsbD f = true

/-- A rod set to run from address 0. -/
def Rod.fromZero (r : Rod) : Rod := { r with pc := 0, issue := .run }

/-- The state after START. -/
def State.started (s : State) (p : Nat) : State :=
  ((s.journal 1 [2, w64 p]).forEach (s.rodsOf p) (fun l u => u.onRod (u.phys l) Rod.fromZero)).onPart p (fun y => { y with
    st := .running, refusal := 0, hold := 0, boundary := s.time })

open Classical in
/-- Penub's checks of START in their order (R292). -/
theorem execStart_eq {s : State} {p : Fin 16} (hl : s.live = true) (hs : s.stalled = false) : execStart p s = .next (
    if (s.part p).st ≠ .loading then s.refused p 5
    else if (s.part p).load.state ≠ .done then s.refused p 1
    else if s.launchOk p = false then s.refused p 2
    else if (s.part p).load.pinned > s.rf (pReg p 0x18) 18 0 * 2 ^ 21 then s.refused p 3
    else if s.deadFrame p then s.refused p 4
    else s.started p) := by
  unfold execStart
  dsimp only
  rw [if_neg (by simp [hl, hs])]
  refine congrArg Host.Outcome.next
    (if_congr Iff.rfl rfl (if_congr Iff.rfl rfl (if_congr (by simp) rfl (if_congr Iff.rfl rfl (if_congr ?_ rfl rfl)))))
  simp [State.deadFrame, bit]

theorem State.started_spec (s : State) (p : Nat) :
    (s.started p).part p = { s.part p with st := .running, refusal := 0, hold := 0, boundary := s.time } ∧
      (∀ l ∈ s.rodsOf p, ((s.started p).rod (s.phys l)).pc = 0 ∧ ((s.started p).rod (s.phys l)).issue = .run) ∧
      (s.started p).bead = s.bead ∧ (s.started p).hbm = s.hbm ∧ (s.started p).regs = s.regs := by
  obtain ⟨⟨rods, hf⟩, hrod⟩ := State.forEach_onRod (g := Rod.fromZero) (fun _ => rfl) (s.rodsOf p) (s.journal 1 [2, w64 p])
  have hrun : ∀ l ∈ s.rodsOf p, (s.started p).rod (s.phys l) = (s.rod (s.phys l)).fromZero := fun l hl =>
    (hrod _).trans (if_pos (List.mem_map_of_mem hl))
  refine ⟨?_, fun l hl => by rw [hrun l hl]; exact ⟨rfl, rfl⟩, ?_⟩
  · rw [State.started, State.onPart, State.part_setPart, hf]
    rfl
  · rw [State.started, hf]
    exact ⟨rfl, rfl, rfl⟩

/-! ### RELEASE -/

/-- A rod whose report has been dealt with. -/
def Rod.unreported (r : Rod) : Rod := { r with raised := [], reported := false }

/-- The state after RELEASE, before the units of the partition's rods start what waits. -/
def State.released (s : State) (p : Nat) : State :=
  ((s.journal 1 [3, w64 p]).unreport p).onPart p (fun y => { y with
    st := .running, refusal := 0, hold := 0, haltHeld := false, faultCause := 0, faultResp := 0 })

/-- RELEASE has nothing to release: the partition is not HELD, or a BREAK holds it in DEBUG (R222, 18 R409). -/
def State.notReleasable (s : State) (p : Nat) : Prop := (s.part p).st ≠ .held ∨ (s.sec.lifecycle = 2 ∧ (s.part p).faultCause = 9)

open Classical in
theorem execRelease_eq {s : State} {p : Fin 16} (hl : s.live = true) (hs : s.stalled = false) : execRelease p s = .next (
    if s.notReleasable p then s.refused p 5 else (s.released p).startPart p) := by
  unfold execRelease
  rw [if_neg (by simp [hl, hs])]
  refine congrArg Host.Outcome.next (if_congr ?_ rfl rfl)
  simp [State.notReleasable, State.breakHeld]

theorem State.released_part (s : State) (p : Nat) : (s.released p).part p =
    { s.part p with st := .running, refusal := 0, hold := 0, haltHeld := false, faultCause := 0, faultResp := 0 } := by
  obtain ⟨⟨rods, hf⟩, -⟩ := State.forEach_onRod (g := Rod.unreported) (fun _ => rfl) (s.rodsOf p) (s.journal 1 [3, w64 p])
  rw [State.released, State.onPart, State.part_setPart, show (s.journal 1 [3, w64 p]).unreport p = _ from hf]
  rfl

theorem State.released_rod (s : State) (p k : Nat) :
    (s.released p).rod k = if k ∈ (s.rodsOf p).map s.phys then (s.rod k).unreported else s.rod k :=
  (State.forEach_onRod (g := Rod.unreported) (fun _ => rfl) (s.rodsOf p) (s.journal 1 [3, w64 p])).2 k

/-! ### PARTITION_RESET, its end, and DELETE -/

/-- A reset clears the two counts of the step's ends and barriers last. -/
theorem State.clearPart_counts (s : State) (p status resp : Nat) :
    (s.clearPart p status resp).rd (pReg p 0x100) = 0 ∧ (s.clearPart p status resp).rd (pReg p 0x108) = 0 := by
  have hne : pReg p 0x100 ≠ pReg p 0x108 := by unfold pReg; omega
  unfold State.clearPart
  dsimp only
  exact ⟨by rw [State.rd_setReg_ne _ _ hne, State.rd_setReg], State.rd_setReg _ _ _⟩

/-- The state after PARTITION_RESET. -/
def State.partReset (s : State) (p : Nat) : State :=
  ((s.journal 1 [5, w64 p]).resetPart p (s.resetStatus p) ((s.part p).faultResp % 16)).onPart p (fun y => { y with refusal := 0 })

theorem State.partReset_part (s : State) (p : Nat) : ((s.partReset p).part p).st = .resetting ∧ ((s.partReset p).part p).refusal = 0 := by
  rw [State.partReset, State.onPart, State.part_setPart, State.resetPart, State.onPart, State.part_setPart]
  exact ⟨rfl, rfl⟩

theorem State.partReset_counts (s : State) (p : Nat) : (s.partReset p).rd (pReg p 0x100) = 0 ∧ (s.partReset p).rd (pReg p 0x108) = 0 := by
  rw [State.partReset, State.onPart, State.setPart_rd, State.setPart_rd, State.resetPart, State.onPart, State.setPart_rd, State.setPart_rd]
  exact State.clearPart_counts _ _ _ _

section
variable {s : State} {p : Fin 16} (hl : s.live = true)
include hl

theorem execPartitionReset_of_idle (hr : (s.part p).st ≠ .running) (hh : (s.part p).st ≠ .held) :
    execPartitionReset p s = .next (s.refused p 5) := by
  unfold execPartitionReset
  dsimp only
  rw [if_neg (by simp [hl]), if_pos (by simp [hr, hh])]
  rfl

theorem execPartitionReset_of_active (h : (s.part p).st = .running ∨ (s.part p).st = .held) :
    execPartitionReset p s = .next (s.partReset p) := by
  unfold execPartitionReset
  dsimp only
  rw [if_neg (by simp [hl]), if_neg (by obtain h | h := h <;> simp [h])]
  rfl

theorem execPartitionResetEnd_of_resetting (h : (s.part p).st = .resetting) (hp : s.flt.pendingRods = []) :
    execPartitionResetEnd p s = .next ((s.setPart p { s.part p with st := .loading }).measurePart p) := by
  have hb : (s.setPart p { s.part p with st := .loading }).boundaryRods p = s.setPart p { s.part p with st := .loading } := by
    simp [State.boundaryRods, hp]
  unfold execPartitionResetEnd
  rw [if_pos (by simp [hl, h])]
  exact congrArg (fun u : State => Host.Outcome.next (u.measurePart p)) hb

theorem execDelete_of_busy (hr : (s.part p).st ≠ .loading) (hh : (s.part p).st ≠ .held) :
    execDelete p s = .next (s.refused p 5) := by
  unfold execDelete
  dsimp only
  rw [if_neg (by simp [hl]), if_pos (by simp [hr, hh])]
  rfl

theorem execDelete_of_quiet (h : (s.part p).st = .loading ∨ (s.part p).st = .held) :
    execDelete p s = .next ((s.journal 1 [6, w64 p]).deletePart p) := by
  unfold execDelete
  dsimp only
  rw [if_neg (by simp [hl]), if_neg (by obtain h | h := h <;> simp [h])]

end

/-- A deleted partition keeps its tier 1 bytes and is measured; its owner's binding is gone. -/
theorem State.deletePart_spec (s : State) (p : Nat) : ∃ n m, (s.deletePart p).part p = { Part.init with t1 := n, measured := m } ∧
    ∀ k, k < 6 → (s.deletePart p).rd (loadReg p + 0x40 + 8 * k) = 0 := by
  unfold State.deletePart
  dsimp only
  generalize State.unmapPages _ p _ = u
  refine ⟨_, _, (State.measurePart_part _ p).trans (by rw [State.part_setPart]), fun k hk => ?_⟩
  have hown : (u.forEach (List.range 6) (fun k s => s.setReg (ownerReg p k) 0)).rd (loadReg p + 0x40 + 8 * k) = 0 :=
    u.rd_fillRegs (loadReg p + 0x40) (fun _ => 0) hk
  rw [State.measurePart, State.onPart, State.setPart_rd, State.setPart_rd, State.loadStatus, State.rd_setRf_ne _ _ _ _ (by omega),
    State.rd_setRf_ne _ _ _ _ (by omega), State.rd_setRf_ne _ _ _ _ (by omega), State.rd_setReg_ne _ _ (by omega), hown]

/-- Settles O24, command by command. -/
theorem partitionCommands : Obligations.PartitionCommands := by
  refine ⟨fun s p hl => ⟨fun h => execCreate_of_not_ready hl h, fun hst hr hn => ?_⟩, fun s p hl hs => ?_, fun s p hl hs => ?_,
    fun s p hl hs => ⟨execStart_of_stalled hs, execRelease_of_stalled hs, execReleaseWithReplay_of_stalled hs⟩, fun s p hl => ?_⟩
  · have hex := execCreate_of_ready hl hst hr hn
    refine ⟨fun h => hex.trans (congrArg _ (if_pos h)), fun h0 hm hc => ?_⟩
    have hok : ¬ ((s.rd (pReg p 8)).toNat = 0 ∨ 2 ^ (s.design.rods / 8) ≤ (s.rd (pReg p 8)).toNat ∨ s.frameClash p) := by
      rintro (h | h | h)
      exacts [h0 h, Nat.not_le.mpr hm h, hc h]
    obtain ⟨⟨m, hpart⟩, hhbm, hblank⟩ := s.created_spec p
    exact ⟨_, hex.trans (congrArg _ (if_neg hok)), by rw [hpart]; rfl, by rw [hpart]; rfl, by rw [hpart]; rfl, hhbm, hblank⟩
  · have hex := execStart_eq (p := p) hl hs
    refine ⟨fun h => hex.trans (by rw [if_pos h]), fun h hd => hex.trans (by rw [if_neg (not_not.mpr h), if_pos hd]),
      fun h hd ho => hex.trans (by rw [if_neg (not_not.mpr h), if_neg (not_not.mpr hd), if_pos ho]), fun h hd ho => ?_⟩
    rw [if_neg (not_not.mpr h), if_neg (not_not.mpr hd), if_neg (by rw [ho]; decide)] at hex
    refine ⟨fun hb => hex.trans (congrArg _ (if_pos hb)), fun hb hf => hex.trans ?_, fun hb hf => ⟨_, hex.trans ?_, s.started_spec p⟩⟩
    · exact congrArg _ ((if_neg (Nat.not_lt.mpr hb)).trans (if_pos hf))
    · exact congrArg _ ((if_neg (Nat.not_lt.mpr hb)).trans (if_neg hf))
  · have hex := execRelease_eq (p := p) hl hs
    refine ⟨fun h => hex.trans (congrArg _ (if_pos h)),
      fun h => ⟨_, hex.trans (congrArg _ (if_neg h)), s.released_part p, fun l hl => ?_, fun k => ?_⟩⟩
    · rw [s.released_rod, if_pos (List.mem_map_of_mem hl)]
      exact ⟨rfl, rfl⟩
    · rw [s.released_rod]
      split
      · exact ⟨_, _, rfl⟩
      · exact ⟨(s.rod k).raised, (s.rod k).reported, rfl⟩
  · refine ⟨execPartitionReset_of_idle hl, fun h => ?_, execPartitionResetEnd_of_resetting hl, execDelete_of_busy hl, fun h => ?_⟩
    · obtain ⟨hst, hrefusal⟩ := s.partReset_part p
      exact ⟨_, execPartitionReset_of_active hl h, hst, hrefusal, s.partReset_counts p⟩
    · obtain ⟨n, m, hpart, hown⟩ := (s.journal 1 [6, w64 p]).deletePart_spec p
      exact ⟨_, n, m, execDelete_of_quiet hl h, hpart, hown⟩

end Sys2Proof.Machine
end

section
/-! PROOF. What the building of a step, and what waits for its boundary, leave alone (09_slate.md R205 to R217, 10_sequencer.md R225 to
R240): the rods, bead memory, the places of the rods, the frames of a partition and the number of its next step. First the shared
operations, then the Slate's. -/

namespace Sys2Proof.Machine

/-! ### The relation -/

/-- The rods with their places and bead memory, board time, every partition's frames, descriptor base and next step number stay. -/
structure StepKept (s u : State) : Prop where
  design : u.design = s.design
  time : u.time = s.time
  rods : u.rods = s.rods
  bead : u.bead = s.bead
  spares : u.flt.spareMap = s.flt.spareMap
  frames : ∀ q, q < 16 → u.rd (pReg q 8) = s.rd (pReg q 8)
  descs : ∀ q, q < 16 → u.rd (pReg q 0x40) = s.rd (pReg q 0x40)
  steps : ∀ q, (u.part q).step = (s.part q).step

theorem StepKept.refl (s : State) : StepKept s s := ⟨rfl, rfl, rfl, rfl, rfl, fun _ _ => rfl, fun _ _ => rfl, fun _ => rfl⟩

/-- A register that holds no partition's frames and no descriptor base. -/
def Elsewhere (o : Nat) : Prop := ∀ q, q < 16 → pReg q 8 ≠ o ∧ pReg q 0x40 ≠ o

theorem elsewhere_of_ge {o : Nat} (h : 0x90000 ≤ o) : Elsewhere o := fun q hq => by
  unfold pReg
  omega

theorem cntTen_elsewhere (t k : Nat) : Elsewhere (cntTen t k) := elsewhere_of_ge (by unfold cntTen; omega)

theorem dirReg_elsewhere (p o : Nat) : Elsewhere (dirReg p o) := elsewhere_of_ge (by unfold dirReg; omega)

/-- Of a partition's counters only those of the numbers 1 and 8 lie as its frames and its descriptor base do within their page. -/
theorem cntPart_elsewhere (p : Nat) {k : Nat} (h : k % 512 ≠ 1 ∧ k % 512 ≠ 8) : Elsewhere (cntPart p k) := fun q _ => by
  unfold pReg cntPart
  omega

section
variable {s0 s : State} (h : StepKept s0 s)
include h

/-! ### Shared operations -/

theorem StepKept.forEach {α : Type} {f : α → State → State} (hf : ∀ a u, StepKept s0 u → StepKept s0 (f a u)) (l : List α) :
    StepKept s0 (s.forEach l f) := State.forEach_induct hf l h

theorem StepKept.setSlot (i : Nat) (x : Slot) : StepKept s0 (s.setSlot i x) := { h with }
theorem StepKept.onSlot (i : Nat) (f : Slot → Slot) : StepKept s0 (s.onSlot i f) := { h with }
theorem StepKept.onTen (t : Nat) (f : Tenant → Tenant) : StepKept s0 (s.onTen t f) := { h with }
theorem StepKept.setGth (g : Gather) : StepKept s0 { s with gth := g } := { h with }
theorem StepKept.setTier (t : Tier) : StepKept s0 { s with tier := t } := { h with }
theorem StepKept.dropOps (u : UnitUse) : StepKept s0 (s.dropOps u) := { h with }

theorem StepKept.setPart {p : Nat} {x : Part} (hx : x.step = (s.part p).step) : StepKept s0 (s.setPart p x) where
  __ := h
  steps q := by
    by_cases hq : q = p
    · rw [hq, State.part_setPart, hx, h.steps]
    · rw [State.part_setPart_ne _ _ hq, h.steps]

theorem StepKept.onPart (p : Nat) {f : Part → Part} (hf : ∀ x, (f x).step = x.step) : StepKept s0 (s.onPart p f) := h.setPart (hf _)

theorem StepKept.setReg {o : Nat} (ho : Elsewhere o) (v : W64) : StepKept s0 (s.setReg o v) where
  __ := h
  frames q hq := by rw [s.rd_setReg_ne v (ho q hq).1, h.frames q hq]
  descs q hq := by rw [s.rd_setReg_ne v (ho q hq).2, h.descs q hq]

theorem StepKept.setRf {o : Nat} (ho : Elsewhere o) (hi lo v : Nat) : StepKept s0 (s.setRf o hi lo v) := h.setReg ho _

theorem StepKept.bump {o : Nat} (ho : Elsewhere o) (n : Nat) : StepKept s0 (s.bump o n) := by
  unfold State.bump
  split
  · exact h
  · exact h.setReg ho _

theorem StepKept.hbmWrite (a : Nat) (bs : List Byte) : StepKept s0 (s.hbmWrite a bs) where
  __ := h
  spares := by
    rw [← h.spares, State.hbmWrite]
    dsimp only
    split <;> rfl

theorem StepKept.spanWrite (p a : Nat) (bs : List Byte) : StepKept s0 (s.spanWrite p a bs) := by
  unfold State.spanWrite
  split
  · exact h.hbmWrite _ _
  · exact h

omit h in
theorem StepKept.spansWrite (p : Nat) : ∀ (l : List (Nat × Nat)) {s : State} (bs : List Byte), StepKept s0 s → StepKept s0 (s.spansWrite p l bs)
  | [], _, _, h => h
  | sp :: r, _, bs, h => StepKept.spansWrite p r _ (h.spanWrite p sp.1 (bs.take sp.2))

theorem StepKept.rangeWrite (p a : Nat) (bs : List Byte) : StepKept s0 (s.rangeWrite p a bs) := by
  unfold State.rangeWrite
  dsimp only
  split
  · exact (StepKept.spansWrite p _ bs h).setTier _
  · exact h.bump (cntPart_elsewhere p (k := 40) (by decide)) _

theorem StepKept.rangeWrite64 (p a : Nat) (v : W64) : StepKept s0 (s.rangeWrite64 p a v) := h.rangeWrite p a _

/-! ### Completions -/

theorem StepKept.complete (t q : Nat) (c : Completion) : StepKept s0 (s.complete t q c) := by
  unfold State.complete
  split
  · exact h.onTen _ _
  · exact h

theorem StepKept.commandDone (t q cmd status : Nat) (req : Option Nat) : StepKept s0 (s.commandDone t q cmd status req) := h.complete _ _ _

theorem StepKept.inform (i status : Nat) : StepKept s0 (s.inform i status) := by
  unfold State.inform
  dsimp only
  split
  · exact h.bump (cntTen_elsewhere _ _) _
  · exact (h.onTen _ _).complete _ _ _

theorem StepKept.final (i status resp : Nat) : StepKept s0 (s.final i status resp) := by
  unfold State.final
  dsimp only
  split
  · exact h.complete _ _ _
  · exact h.onSlot _ _

/-! ### KV blocks and the prefix index (R213 to R216) -/

theorem StepKept.setBlockEntry (i n : Nat) (e : W64) : StepKept s0 (s.setBlockEntry i n e) := h.rangeWrite64 _ _ _
theorem StepKept.pfxSetCount (p a n : Nat) : StepKept s0 (s.pfxSetCount p a n) := h.rangeWrite64 _ _ _
theorem StepKept.moverIssue (i op p page pool : Nat) (large pin unpin : Bool) : StepKept s0 (s.moverIssue i op p page pool large pin unpin) :=
  h.setTier _

theorem StepKept.freeBlock (p a : Nat) : StepKept s0 (s.freeBlock p a) := by
  refine h.onPart p fun x => ?_
  split
  · split <;> rfl
  · rfl

theorem StepKept.pfxEvict (p a : Nat) : StepKept s0 (s.pfxEvict p a) := (h.rangeWrite p _ _).freeBlock p _

theorem StepKept.pfxInsert (p : Nat) (key : W64) (blk : Nat) : StepKept s0 (s.pfxInsert p key blk).2 := by
  unfold State.pfxInsert
  dsimp only
  split
  · exact h
  · split
    · exact h.rangeWrite p _ _
    · split
      · exact (h.pfxEvict p _).rangeWrite p _ _
      · exact h.bump (cntPart_elsewhere p (k := 33) (by decide)) 1

theorem StepKept.pfxDrop (p : Nat) (key : W64) (blk : Nat) : StepKept s0 (s.pfxDrop p key blk) := by
  unfold State.pfxDrop
  split
  · exact h.pfxSetCount _ _ _
  · exact h

omit h in
theorem StepKept.kvEvict (p : Nat) : ∀ (n : Nat) {s : State}, StepKept s0 s → StepKept s0 (s.kvEvict p n)
  | 0, _, h => h
  | n + 1, s, h => by
    have hhand : StepKept s0 (s.onPart p fun x => { x with hand := ((s.part p).hand + 1) % 2 ^ s.rf (pReg p 0x2B0) 4 0 }) :=
      h.onPart p fun _ => rfl
    rw [State.kvEvict]
    dsimp only
    split
    · split
      · exact hhand.pfxEvict p _
      · exact StepKept.kvEvict p n (hhand.pfxEvict p _)
    · exact StepKept.kvEvict p n hhand

theorem StepKept.kvTake {p a : Nat} {u : State} (hu : s.kvTake p = some (a, u)) : StepKept s0 u := by
  unfold State.kvTake at hu
  dsimp only at hu
  generalize hv : (if (s.kvReady p).isNone = true then s.kvEvict p (8 * 2 ^ s.rf (pReg p 0x2B0) 4 0) else s) = v at hu
  have hkept : StepKept s0 v := by
    rw [← hv]
    split
    · exact StepKept.kvEvict p _ h
    · exact h
  split at hu
  · cases hu
  · cases hu
    exact hkept.onPart p fun _ => rfl

omit h in
theorem StepKept.keepBlocks (i : Nat) : ∀ (k : Nat) {s : State} (n : Nat), StepKept s0 s → StepKept s0 (s.keepBlocks i n k)
  | 0, _, _, h => h
  | k + 1, s, n, h => by
    rw [State.keepBlocks]
    extract_lets s1 r
    have hs1 : StepKept s0 s1 := by
      unfold s1
      split
      · exact h
      · exact h.onSlot _ _
    have hr : StepKept s0 r.2 := hs1.pfxInsert _ _ _
    clear_value r s1
    split
    · exact h
    · split
      · exact StepKept.keepBlocks i k _ hs1
      · refine StepKept.keepBlocks i k _ ?_
        split
        · exact hr.setBlockEntry _ _ _
        · exact hr

theorem StepKept.recallBlock (p a : Nat) : StepKept s0 (s.recallBlock p a) := by
  refine h.forEach (fun b u hu => ?_) _
  split
  · dsimp only
    split
    · exact hu.setTier _
    · exact hu
  · exact hu

theorem StepKept.kvRelease (i : Nat) (keep : Bool) : StepKept s0 (s.kvRelease i keep) := by
  unfold State.kvRelease
  extract_lets x s1 s2
  have hs1 : StepKept s0 s1 := by
    unfold s1
    split
    · exact StepKept.keepBlocks i _ _ h
    · exact h
  refine (hs1.forEach (fun n u hu => ?_) _).onSlot _ _
  dsimp only
  split
  · exact hu.pfxDrop _ _ _
  · exact (hu.recallBlock _ _).freeBlock _ _

/-! ### Retirement and what waits for the boundary (R205 to R208, R217) -/

theorem StepKept.endLater (i status : Nat) : StepKept s0 (s.endLater i status) := h.onSlot _ _
theorem StepKept.rePrefill (i : Nat) : StepKept s0 (s.rePrefill i) := (h.kvRelease i false).onSlot _ _

theorem StepKept.predDone (k : Nat) : StepKept s0 (s.predDone k) := by
  unfold State.predDone
  split <;> exact h.onSlot _ _

omit h in
theorem StepKept.retireFrom (status resp : Nat) : ∀ (n : Nat) {s : State} (i : Nat), StepKept s0 s → StepKept s0 (s.retireFrom i status resp n)
  | 0, _, _, h => h
  | n + 1, s, i, h => by
    rw [State.retireFrom]
    extract_lets s1 s2 gth s3 s4 s5
    have hs2 : StepKept s0 s2 := (h.kvRelease i _).onSlot i _
    have hs5 : StepKept s0 s5 := ((hs2.setGth _).forEach (fun c u hu => hu.commandDone _ _ _ _ _) _).final i status resp
    clear_value s5
    split
    · exact h
    · split
      · exact hs5
      · split
        · exact hs5.predDone _
        · exact StepKept.retireFrom status resp n _ hs5

theorem StepKept.retire (i status resp : Nat) : StepKept s0 (s.retire i status resp) := StepKept.retireFrom status resp _ i h

theorem StepKept.startResume (i : Nat) : StepKept s0 (s.startResume i) :=
  (h.onSlot i _).forEach (fun _ _ hu => hu.moverIssue _ _ _ _ _ _ _ _) _

theorem StepKept.applyCtl (i : Nat) (c : CtlCmd) : StepKept s0 (s.applyCtl i c) := by
  unfold State.applyCtl
  dsimp only
  refine StepKept.commandDone ?_ _ _ _ _ _
  split
  · split
    · exact h.setSlot _ _
    · exact h
  · split
    · split
      · exact (h.setSlot _ _).forEach (fun _ _ hu => hu.moverIssue _ _ _ _ _ _ _ _) _
      · exact h
    · split
      · split
        · exact h.rePrefill i
        · exact h.setSlot _ _
      · split
        · exact h.startResume i
        · exact h

theorem StepKept.applyBoundary (p : Nat) : StepKept s0 (s.applyBoundary p) := by
  refine h.forEach (fun i u hu => ?_) _
  extract_lets x u1 u2
  have hu2 : StepKept s0 u2 := (hu.onSlot i _).forEach (fun c v hv => hv.applyCtl i c) _
  split
  · exact hu2
  · split
    · exact hu2.retire _ _ _
    · split
      · exact hu2.rePrefill i
      · exact hu2

end

end Sys2Proof.Machine
end

section
/-! PROOF. BUILD_START and BUILD_END (10_sequencer.md R225 to R235): the staged directory write, read-in and the choice of rows leave alone
what `StepKept` names. -/

namespace Sys2Proof.Machine

section
variable {s0 s : State} (h : StepKept s0 s)
include h

/-! ### The staged directory write, and read-in (R164, R212) -/

theorem StepKept.stageDir (p id : Nat) (img : List W64) : StepKept s0 (s.stageDir p id img) :=
  (h.forEach (fun _ _ hu => hu.setReg (dirReg_elsewhere p _) _) _).setReg (dirReg_elsewhere p _) _

theorem StepKept.supersede (p first : Nat) (old img : List W64) : StepKept s0 (s.supersede p first old img) := by
  unfold State.supersede
  exact h.onPart p fun _ => rfl

theorem StepKept.dirPut {p : Nat} {u : State} (hu : s.dirPut p = some u) : StepKept s0 u := by
  unfold State.dirPut at hu
  dsimp only at hu
  generalize (if bit (s.rd (dirReg p 0x40)) 32 = true then _ else _ : Option (Nat × List Byte)) = target at hu
  match target, hu with
  | some (a, b), hu =>
    obtain ⟨_, hu⟩ := Option.ite_none_right_eq_some.mp hu
    obtain rfl := Option.some.inj hu
    split
    · exact h.rangeWrite p a b
    · exact (h.rangeWrite p a b).supersede p _ _ _

theorem StepKept.applyDir (p : Nat) : StepKept s0 (s.applyDir p) := by
  by_cases hb : (s.rd (dirReg p 0x40)).getLsbD 63 = true
  · have hput : StepKept s0 ((s.dirPut p).getD s) := by
      cases hp : s.dirPut p with
      | none => exact h
      | some u => exact h.dirPut hp
    rw [s.applyDir_eq p hb]
    exact ((hput.setRf (dirReg_elsewhere p _) _ _ _).setRf (dirReg_elsewhere p _) _ _ _).setReg (dirReg_elsewhere p _) _
  · unfold State.applyDir
    rw [if_pos (by simpa [bit] using hb)]
    exact h

theorem StepKept.dirNext (p : Nat) : StepKept s0 (s.dirNext p) := by
  unfold State.dirNext
  split
  · exact h
  · split
    · exact h
    · refine StepKept.stageDir ?_ p _ _
      exact h.onPart p fun _ => rfl

theorem StepKept.histPut (i k : Nat) (w : W32) : StepKept s0 (s.histPut i k w) := (h.hbmWrite _ _).hbmWrite _ _

theorem StepKept.takeTokens (i : Nat) (gs : List Seg) : StepKept s0 (s.takeTokens i gs) := by
  unfold State.takeTokens
  dsimp only
  split
  · exact h.endLater i _
  · have hcount (a b : Nat) : StepKept s0 ((s.bump (cntTen (s.slot i).tenant 8) a).bump (cntTen (s.slot i).tenant 9) b) :=
      (h.bump (cntTen_elsewhere _ _) a).bump (cntTen_elsewhere _ _) b
    split
    · exact h.endLater i _
    · split
      · exact (hcount _ _).endLater i _
      · split
        · exact (hcount _ _).endLater i _
        · exact ((hcount _ _).forEach (fun k u hu => hu.histPut i k _) _).onSlot i _

theorem StepKept.packStart (i : Nat) : StepKept s0 (s.packStart i) := ((h.dropOps _).onSlot i _).setGth _

theorem StepKept.readIn (i : Nat) : StepKept s0 (s.readIn i) := by
  unfold State.readIn
  dsimp only
  split
  · exact h.endLater i _
  · split
    · split
      · exact h.endLater i _
      · exact h.takeTokens i _
    · split
      · exact h.endLater i _
      · split
        · exact h.packStart i
        · exact h.takeTokens i _
    · exact h.endLater i _

/-! ### Adapters, budgets, rings and KV supply -/

theorem StepKept.pick (p i : Nat) (slots : List SlotEnt) : StepKept s0 (s.pick p i slots).1 := by
  unfold State.pick
  dsimp only
  split
  · exact h
  · split
    · exact h.bump (cntPart_elsewhere p (k := 10) (by decide)) 1
    · exact h
  · exact h.bump (cntPart_elsewhere p (k := 11) (by decide)) 1
  · exact h.endLater i _
  · split
    · exact (h.bump (cntTen_elsewhere _ _) 1).endLater i _
    · exact h

theorem StepKept.of_pick {p i : Nat} {slots : List SlotEnt} {u : State} {k : Option Pick} (hp : s.pick p i slots = (u, k)) : StepKept s0 u := by
  have hkept := h.pick p i slots
  rwa [hp] at hkept

theorem StepKept.refill (p g : Nat) : StepKept s0 (s.refill p g) := by
  unfold State.refill
  split
  · exact (h.rangeWrite64 p _ _).rangeWrite64 p _ _
  · exact h

theorem StepKept.meet (p : Nat) (b : Bld) (g : Nat) : StepKept s0 (s.meet p b g).1 := by
  unfold State.meet
  split
  · exact h
  · exact h.refill p g

theorem StepKept.charge (p g : Nat) (cost : Nat → Nat → Nat) : StepKept s0 (s.charge p g cost) := by
  unfold State.charge
  split
  · exact h.rangeWrite64 p _ _
  · exact h

theorem StepKept.defer (p i : Nat) (was : List Nat) : StepKept s0 (s.defer p i was) := by
  have hcount : StepKept s0 ((s.bump (cntPart p 3) 1).onSlot i (fun x => { x with deferred := true })) :=
    (h.bump (cntPart_elsewhere p (k := 3) (by decide)) 1).onSlot i _
  unfold State.defer
  dsimp only
  split
  · exact hcount
  · exact hcount.inform i _

theorem StepKept.chainStep (i : Nat) (k : Pick) : StepKept s0 (s.chainStep i k) := (h.onSlot i _).bump (cntTen_elsewhere _ _) _

theorem StepKept.setRing (t r : Nat) (o : OutRing) : StepKept s0 (s.setRing t r o) := h.onTen _ _

theorem StepKept.reserve (i n : Nat) : StepKept s0 (s.reserve i n) := by
  unfold State.reserve
  exact (h.setRing _ _ _).onSlot i _

omit h in
theorem StepKept.supply (i upto : Nat) : ∀ (n : Nat) {s : State}, StepKept s0 s → StepKept s0 (s.supply i upto n)
  | 0, _, h => h
  | n + 1, s, h => by
    rw [State.supply]
    split
    · exact h
    · split
      · exact h
      · next hu => exact StepKept.supply i upto n (((h.kvTake hu).setBlockEntry i _ _).onSlot i _)

theorem StepKept.setFills (i lo hi : Nat) : StepKept s0 (s.setFills i lo hi) := by
  refine h.forEach (fun n u hu => ?_) _
  dsimp only
  split
  · exact hu
  · exact hu.setBlockEntry i _ _

theorem StepKept.takeHits (i : Nat) (l : List (W64 × Nat)) : StepKept s0 (s.takeHits i l) := by
  have hhit (n : Nat) (u : State) (hu : StepKept s0 u) (a c : Nat) (e t : W64) :
      StepKept s0 (((u.setBlockEntry i n e).pfxSetCount (s.slot i).part a c).rangeWrite64 (s.slot i).part (a + 24) t) :=
    ((hu.setBlockEntry i n e).pfxSetCount _ _ _).rangeWrite64 _ _ _
  exact ((h.forEach (fun n u hu => hhit n u hu _ _ _ _) _).onSlot i _).bump (cntPart_elsewhere _ (k := 32) (by decide)) _

/-! ### Decode rows and prompt rows (R228 to R231) -/

omit h in
theorem StepKept.buildDec (p : Nat) : ∀ (l : List Nat) {s : State} (b : Bld), StepKept s0 s → StepKept s0 (s.buildDec p b l).1
  | [], _, _, h => h
  | i :: r, s, b, h => by
    rw [State.buildDec]
    split
    · exact h.bump (cntPart_elsewhere p (k := 2) (by decide)) (r.length + 1)
    · extract_lets x g out
      have hout {u : State} (b' : Bld) (hu : StepKept s0 u) : StepKept s0 (out u b').1 := StepKept.buildDec p r b' hu
      clear_value out
      split
      · next hp => exact hout _ (h.of_pick hp)
      · next s1 k hp =>
        extract_lets m s2 b' prod q runs B s3 s4 y row tgt
        have hs2 : StepKept s0 s2 := (h.of_pick hp).meet p b _
        have hs4 : StepKept s0 s4 := (((((StepKept.supply i _ _ hs2).setFills i q (q + 1)).chainStep i k).charge p _ _).reserve i 1)
        clear_value s4 s2
        split
        · exact hout _ (hs2.bump (cntTen_elsewhere _ _) 1)
        · split
          · exact hout _ (hs2.defer p i _)
          · split
            · exact hs2.bump (cntPart_elsewhere p (k := 2) (by decide)) (r.length + 1)
            · split
              · exact hout _ (hs2.bump (cntPart_elsewhere p (k := 34) (by decide)) 1)
              · exact StepKept.buildDec p r _ hs4

theorem StepKept.promptOne (p i target first : Nat) (b : Bld) : StepKept s0 (s.promptOne p i target first b).2.1 := by
  rw [State.promptOne]
  split
  · next hp => exact h.of_pick hp
  · next s1 k hp =>
    have hs1 : StepKept s0 s1 := h.of_pick hp
    extract_lets pass fresh hits start rem P row0 cs est fits alone room
    split
    · exact hs1
    · extract_lets s2 m s3 b3 s4
      have hs2 : StepKept s0 s2 := by
        unfold s2
        split
        · exact hs1.bump (cntTen_elsewhere _ _) 1
        · exact hs1
      have hs3 : StepKept s0 s3 := hs2.meet p b _
      have hs4 : StepKept s0 s4 := by
        unfold s4
        split
        · exact (hs3.takeHits i _).onSlot i _
        · exact hs3
      clear_value s4 s3 s2
      split
      · exact hs2
      · split
        · exact hs3.defer p i _
        · extract_lets s5
          have hs5 : StepKept s0 s5 := by
            unfold s5
            split
            · exact hs4
            · exact StepKept.supply i _ _ hs4
          clear_value s5
          split
          · exact hs3.bump (cntPart_elsewhere p (k := 34) (by decide)) 1
          · extract_lets s6 s7 ends s8 y rows
            have hs6 : StepKept s0 s6 := by
              unfold s6
              split
              · exact hs5
              · exact hs5.setFills i _ _
            have hs7 : StepKept s0 s7 := (hs6.chainStep i k).charge p _ _
            clear_value s7
            have hs8 : StepKept s0 s8 := by
              unfold s8
              refine StepKept.onSlot ?_ i _
              split
              · exact hs7.reserve i _
              · exact hs7
            exact hs8

theorem StepKept.of_promptOne {p i target first : Nat} {b b' : Bld} {go : Bool} {u : State}
    (hu : s.promptOne p i target first b = (go, u, b')) : StepKept s0 u := by
  have hkept := h.promptOne p i target first b
  rwa [hu] at hkept

omit h in
theorem StepKept.buildPrompt (p target : Nat) : ∀ (l : List Nat) {s : State} (first : Nat) (b : Bld), StepKept s0 s →
    StepKept s0 (s.buildPrompt p target first b l).1
  | [], _, _, _, h => h
  | i :: r, s, first, b, h => by
    rw [State.buildPrompt]
    split
    · next hu => exact StepKept.buildPrompt p target r _ _ (h.of_promptOne hu)
    · next hu => exact h.of_promptOne hu

/-- The choice of rows: what it leaves alone, and the step that the descriptor is for. -/
theorem StepKept.chooseRows (p : Nat) : StepKept s0 (s.chooseRows p).1 ∧ (s.chooseRows p).2.step = (s.part p).step := by
  unfold State.chooseRows
  extract_lets cands decs b0 s1 d1 max target pros d2 b D rows
  have hs1 : StepKept s0 s1 := h.forEach (fun i u hu => hu.onSlot i _) _
  have hd1 : StepKept s0 d1.1 := StepKept.buildDec p _ _ hs1
  have hd2 : StepKept s0 d2.1 := StepKept.buildPrompt p _ _ _ _ hd1
  exact ⟨hd2, rfl⟩

end

/-! ### BUILD_START -/

/-- BUILD_START in a partition that builds: the state in which the rows are chosen, with the descriptor. -/
def State.build (s : State) (p : Nat) : State × Desc :=
  let s2 := (s.applyDir p).dirNext p
  (s2.forEach ((s2.entriesOf p).filter (fun i =>
    (s2.slot i).state == 1 && (s2.slot i).eligible && !(s2.slot i).read)) (fun i s => s.readIn i)).chooseRows p

theorem State.build_kept (s : State) (p : Nat) : StepKept s (s.build p).1 ∧ (s.build p).2.step = (s.part p).step := by
  have hread (l : List Nat) : StepKept s (((s.applyDir p).dirNext p).forEach l (fun i s => s.readIn i)) :=
    (((StepKept.refl s).applyDir p).dirNext p).forEach (fun i u hu => hu.readIn i) l
  obtain ⟨hkept, hstep⟩ := (hread _).chooseRows p
  exact ⟨hkept, hstep.trans ((hread _).steps p)⟩

section
variable {s : State} {p : Fin 16}

theorem execBuildStart_of_idle (h : (s.part p).st ≠ .running ∨ (s.part p).build ≠ .idle ∨ s.live = false ∨ s.stalled = true) :
    execBuildStart p s = .next s := by
  unfold execBuildStart
  dsimp only
  rw [if_neg]
  obtain h | h | h | h := h <;> simp [h]

theorem execBuildStart_of_running (hr : (s.part p).st = .running) (hb : (s.part p).build = .idle) (hl : s.live = true)
    (hs : s.stalled = false) :
    execBuildStart p s = .next ((s.build p).1.onPart p (fun y => { y with build := .building (s.build p).2 })) := by
  unfold execBuildStart
  dsimp only
  rw [if_pos (by simp [hr, hb, hl, hs])]
  rfl

/-! ### BUILD_END -/

theorem execBuildEnd_of_rows {d : Desc} (hl : s.live = true) (hb : (s.part p).build = .building d) (hd : d.rows ≠ []) :
    execBuildEnd p s = .next ((s.writeDesc p d).onPart p (fun y => { y with build := .built d })) := by
  simp [execBuildEnd, hb, hl, hd]

theorem execBuildEnd_of_no_row {d : Desc} (hl : s.live = true) (hb : (s.part p).build = .building d) (hd : d.rows = []) :
    execBuildEnd p s = .next ((s.setPart p { s.part p with build := .idle }).applyBoundary p) := by
  simp [execBuildEnd, hb, hl, hd, State.onPart]

end

end Sys2Proof.Machine
end

section
/-! PROOF. STEP_SEAL and LAUNCH_STAGGER_END (10_sequencer.md R225, R236, R246; 03_rods.md R63): the launch first, rod by rod, then the
boundary's effects before it, and the statement. -/

namespace Sys2Proof.Machine

/-! ### The launch (R63) -/

/-- What the launch does to one physical rod: the launch record, both status records cleared, its queue, latch and row map, and its c15. -/
def State.armRod (s : State) (ph : Nat) (rec_ : List Byte) (q : List TileEntry) : State :=
  (((s.beadWrite ph 0x3F0000 rec_).beadWrite ph 0x3F0100 (List.replicate 64 0)).beadWrite ph 0x3F0200 (List.replicate 64 0)).onRod ph
    (fun r => { r.addCnt 15 1 with queue := q, latch := none, rowMap := [] })

theorem State.beadWrite_frame (s : State) (ph off : Nat) (bs : List Byte) :
    ∃ bead beadPoison, s.beadWrite ph off bs = { s with bead := bead, beadPoison := beadPoison } := ⟨_, _, rfl⟩

section
variable (s : State) (ph : Nat) (rec_ : List Byte) (q : List TileEntry)

theorem State.armRod_frame :
    ∃ rods bead beadPoison, s.armRod ph rec_ q = { s with rods := rods, bead := bead, beadPoison := beadPoison } := by
  obtain ⟨_, _, h1⟩ := s.beadWrite_frame ph 0x3F0000 rec_
  obtain ⟨_, _, h2⟩ := (s.beadWrite ph 0x3F0000 rec_).beadWrite_frame ph 0x3F0100 (List.replicate 64 0)
  obtain ⟨_, _, h3⟩ := ((s.beadWrite ph 0x3F0000 rec_).beadWrite ph 0x3F0100 (List.replicate 64 0)).beadWrite_frame ph 0x3F0200
    (List.replicate 64 0)
  rw [State.armRod, h3, h2, h1]
  exact ⟨_, _, _, rfl⟩

theorem State.armRod_phys (l : Nat) : (s.armRod ph rec_ q).phys l = s.phys l := by
  obtain ⟨_, _, _, h⟩ := s.armRod_frame ph rec_ q
  rw [h]
  rfl

theorem State.armRod_rod : (s.armRod ph rec_ q).rod ph = { (s.rod ph).addCnt 15 1 with queue := q, latch := none, rowMap := [] } := by
  rw [State.armRod, State.onRod, State.rod_setRod, State.beadWrite_rod, State.beadWrite_rod, State.beadWrite_rod]

theorem State.armRod_rod_ne {k : Nat} (h : k ≠ ph) : (s.armRod ph rec_ q).rod k = s.rod k := by
  rw [State.armRod, State.onRod, State.rod_setRod_ne _ _ h, State.beadWrite_rod, State.beadWrite_rod, State.beadWrite_rod]

theorem State.armRod_bead : (s.armRod ph rec_ q).bead =
    ((s.bead.writeN (2 ^ 22 * ph + 0x3F0000) rec_).writeN (2 ^ 22 * ph + 0x3F0100) (List.replicate 64 0)).writeN
      (2 ^ 22 * ph + 0x3F0200) (List.replicate 64 0) := by
  rw [State.armRod, State.onRod, State.setRod_bead, State.beadWrite_bead, State.beadWrite_bead, State.beadWrite_bead]

end

/-- A run of bytes apart from those written. -/
theorem Memory.readN_writeN_out (m : Memory) {a b n : Nat} (bs : List Byte) (h : b + n ≤ a ∨ a + bs.length ≤ b) :
    (m.writeN a bs).readN b n = m.readN b n :=
  Memory.readN_congr fun i hi => Memory.read1_writeN_out bs m a (b + i) (by omega)

/-- The status records of a rod lie apart from its launch record. -/
theorem State.armRod_readN (s : State) (ph : Nat) {rec_ : List Byte} (hrec : rec_.length = 64) (q : List TileEntry) :
    (s.armRod ph rec_ q).bead.readN (2 ^ 22 * ph + 0x3F0000) 64 = rec_ := by
  rw [State.armRod_bead, Memory.readN_writeN_out _ _ (.inl (by omega)), Memory.readN_writeN_out _ _ (.inl (by omega)), ← hrec,
    Memory.readN_writeN]

theorem State.armRod_readN_ne (s : State) {ph k : Nat} {rec_ : List Byte} (hrec : rec_.length = 64) (q : List TileEntry) (h : k ≠ ph) :
    (s.armRod ph rec_ q).bead.readN (2 ^ 22 * k + 0x3F0000) 64 = s.bead.readN (2 ^ 22 * k + 0x3F0000) 64 := by
  have hzero : (List.replicate 64 (0 : Byte)).length = 64 := List.length_replicate
  rw [State.armRod_bead, Memory.readN_writeN_out _ _ (by omega), Memory.readN_writeN_out _ _ (by omega),
    Memory.readN_writeN_out _ _ (by omega)]

/-- A launch leaves every rod's registers and program address. -/
def State.RunsOn (s u : State) : Prop :=
  (∀ l, u.phys l = s.phys l) ∧ ∀ k, (u.rod k).pc = (s.rod k).pc ∧ (u.rod k).s = (s.rod k).s

theorem State.RunsOn.armRod {s u : State} (h : s.RunsOn u) (ph : Nat) (rec_ : List Byte) (q : List TileEntry) :
    s.RunsOn (u.armRod ph rec_ q) := by
  refine ⟨fun l => (State.armRod_phys _ _ _ _ l).trans (h.1 l), fun k => ?_⟩
  by_cases hk : k = ph
  · rw [hk, State.armRod_rod]
    exact h.2 ph
  · rw [State.armRod_rod_ne _ _ _ _ hk]
    exact h.2 k

/-- A physical rod finds the launch record, and its latch and its row map empty. -/
def State.RodArmed (u : State) (rec_ : List Byte) (ph : Nat) : Prop :=
  (u.rod ph).latch = none ∧ (u.rod ph).rowMap = [] ∧ u.bead.readN (2 ^ 22 * ph + 0x3F0000) 64 = rec_

theorem State.armRod_armed (u : State) (ph : Nat) {rec_ : List Byte} (hrec : rec_.length = 64) (q : List TileEntry) :
    (u.armRod ph rec_ q).RodArmed rec_ ph := by
  rw [State.RodArmed, State.armRod_rod]
  exact ⟨rfl, rfl, u.armRod_readN ph hrec q⟩

theorem State.RodArmed.armRod {u : State} {rec_ : List Byte} {k : Nat} (h : u.RodArmed rec_ k) (hrec : rec_.length = 64) (ph : Nat)
    (q : List TileEntry) : (u.armRod ph rec_ q).RodArmed rec_ k := by
  by_cases hk : k = ph
  · rw [hk]
    exact u.armRod_armed ph hrec q
  · rw [State.RodArmed, State.armRod_rod_ne _ _ _ _ hk, State.armRod_readN_ne _ hrec _ hk]
    exact h

/-- The rods of the partition armed for a step. -/
def State.armRods (s : State) (p : Nat) (d : Desc) : State :=
  s.forEach (s.rodsOf p) (fun l u => u.armRod (u.phys l) (s.launchRecord p d)
    (((s.launchTable p).getD []).flatMap (u.launchShare p d.nDec d.nPrompt l)))

theorem State.launchRecord_length (s : State) (p : Nat) (d : Desc) : (s.launchRecord p d).length = 64 := by
  simp [State.launchRecord, bytesOf, leBytes_length]

theorem State.armRods_frame (s : State) (p : Nat) (d : Desc) :
    ∃ rods bead beadPoison, s.armRods p d = { s with rods := rods, bead := bead, beadPoison := beadPoison } := by
  rw [State.armRods]
  refine State.forEach_induct (P := fun u => ∃ rods bead beadPoison, u = { s with rods := rods, bead := bead, beadPoison := beadPoison })
    (fun a u hu => ?_) _ ⟨_, _, _, rfl⟩
  obtain ⟨rods, bead, beadPoison, hu⟩ := hu
  obtain ⟨rods', bead', beadPoison', ha⟩ := u.armRod_frame (u.phys a) (s.launchRecord p d)
    (((s.launchTable p).getD []).flatMap (u.launchShare p d.nDec d.nPrompt a))
  rw [ha, hu]
  exact ⟨_, _, _, rfl⟩

theorem State.armRods_runsOn (s : State) (p : Nat) (d : Desc) : s.RunsOn (s.armRods p d) := by
  rw [State.armRods]
  exact State.forEach_induct (P := fun u => s.RunsOn u) (fun _ _ hu => hu.armRod _ _ _) _ ⟨fun _ => rfl, fun _ => ⟨rfl, rfl⟩⟩

theorem State.armRods_armed (s : State) (p : Nat) (d : Desc) :
    ∀ l ∈ s.rodsOf p, (s.armRods p d).RodArmed (s.launchRecord p d) (s.phys l) := by
  have hrec := s.launchRecord_length p d
  rw [State.armRods]
  refine State.forEach_all (I := fun u => ∀ l, u.phys l = s.phys l) (Q := fun l u => u.RodArmed (s.launchRecord p d) (s.phys l))
    (fun a u h l => ?_) (fun a u h => ?_) (fun a b u _ hq => hq.armRod hrec _ _) _ (fun _ => rfl)
  · rw [State.armRod_phys, h]
  · rw [h]
    exact u.armRod_armed _ hrec _

/-- The interruption measured at a launch concerns a register and the partition's time of fault. -/
theorem State.measure_spec (s : State) (p : Nat) : (s.measure p).rods = s.rods ∧ (s.measure p).bead = s.bead ∧
    ∃ t, (s.measure p).part p = { s.part p with faultAt := t } := by
  unfold State.measure
  split
  · exact ⟨rfl, rfl, _, rfl⟩
  · exact ⟨rfl, rfl, _, State.part_setPart _ _ _⟩

/-- The partition's own fields after the launch of a step. -/
def Part.launched (x : Part) (d : Desc) (time : W64) (groups : List Nat) : Part :=
  { x with opened := some d, ended := false, recs := [], recEntries := 0, recBytes := 0, boundary := time, wdog := time, groups := groups }

/-- Tiles left over and the stagger of the frame groups are counted; the groups but the first wait. -/
theorem State.launch_eq (s : State) (p : Nat) (d : Desc) : s.launch p d =
    ((((s.armRods p d).bump (cntPart p 0) ((s.rodsOf p).foldl (fun n l => n + (s.rod (s.phys l)).queue.length) 0)).bump (cntPart p 6)
      (15 * (ceilDiv ((s.rodsOf p).length / 8) 8 - 1))).measure p).onPart p (fun x =>
        x.launched d s.time ((List.range (ceilDiv ((s.rodsOf p).length / 8) 8 - 1)).map (· + 1))) := rfl

theorem State.launch_spec (s : State) (p : Nat) (d : Desc) :
    (s.launch p d).rods = (s.armRods p d).rods ∧ (s.launch p d).bead = (s.armRods p d).bead ∧
      ∃ t groups, (s.launch p d).part p = { s.part p with faultAt := t }.launched d s.time groups := by
  have hl := s.launch_eq p d
  generalize List.foldl _ 0 (s.rodsOf p) = k at hl
  generalize 15 * _ = n at hl
  generalize List.map _ _ = groups at hl
  obtain ⟨rods, bead, beadPoison, hf⟩ := s.armRods_frame p d
  obtain ⟨regs, h1⟩ := (s.armRods p d).bump_spec (cntPart p 0) k
  obtain ⟨regs', h2⟩ := ((s.armRods p d).bump (cntPart p 0) k).bump_spec (cntPart p 6) n
  obtain ⟨hrods, hbead, t, hpart⟩ := (((s.armRods p d).bump (cntPart p 0) k).bump (cntPart p 6) n).measure_spec p
  rw [hl]
  refine ⟨hrods.trans ?_, hbead.trans ?_, t, groups, ?_⟩
  · rw [h2, h1]
  · rw [h2, h1]
  · rw [State.onPart, State.part_setPart, hpart, h2, h1, hf]
    rfl

theorem State.miss_frame (s : State) (i : Nat) (first : Bool) : ∃ slate regs, s.miss i first = { s with slate := slate, regs := regs } := by
  unfold State.miss
  dsimp only
  generalize hw : State.onSlot s i _ = w
  have hslate : ∃ slate, w = { s with slate := slate } := ⟨_, hw.symm⟩
  obtain ⟨regs, h1⟩ := w.bump_spec (cntTen (s.slot i).tenant (28 + b2n (!first))) 1
  rw [h1]
  obtain ⟨regs', h2⟩ := State.bump_spec { w with regs := regs } (cntPart (s.slot i).part (4 + b2n (!first))) 1
  rw [h2]
  obtain ⟨slate, rfl⟩ := hslate
  exact ⟨_, _, rfl⟩

/-- The misses counted at a boundary concern the Slate and counters. -/
theorem State.firstMisses_frame (s : State) (p : Nat) : ∃ slate regs, s.firstMisses p = { s with slate := slate, regs := regs } := by
  refine State.forEach_induct (P := fun u => ∃ slate regs, u = { s with slate := slate, regs := regs }) (fun i u hu => ?_) _ ⟨_, _, rfl⟩
  split
  · obtain ⟨slate, regs, hu⟩ := hu
    obtain ⟨slate', regs', hm⟩ := u.miss_frame i true
    rw [hm, hu]
    exact ⟨_, _, rfl⟩
  · exact hu

/-! ### What the seal does before the launch (R225, R236) -/

section
variable {s0 s : State} (h : StepKept s0 s)
include h

theorem StepKept.applyTable : StepKept s0 s.applyTable := by
  by_cases hb : (s.rd 0x500280).getLsbD 63 = true
  · have hforce : StepKept s0 s.tableInForce := by
      unfold State.tableInForce
      dsimp only
      split
      · exact h.setGth _
      · exact h
    rw [s.applyTable_eq hb]
    exact ((hforce.setRf (elsewhere_of_ge (by decide)) _ _ _).setRf (elsewhere_of_ge (by decide)) _ _ _).setReg
      (elsewhere_of_ge (by decide)) _
  · unfold State.applyTable
    dsimp only
    rw [if_pos (by simpa [bit] using hb)]
    exact h

theorem StepKept.refBlocks (p : Nat) (d : Desc) (up : Bool) : StepKept s0 (s.refBlocks p d up) :=
  h.forEach (fun _ _ hu => hu.forEach (fun _ _ hv => hv.setTier _) _) _

theorem StepKept.voidRequest (d : Desc) (i : Nat) : StepKept s0 (s.voidRequest d i).1 := by
  unfold State.voidRequest
  dsimp only
  exact (h.setRing _ _ _).onSlot i _

/-- Rows made void keep the descriptor's step. -/
theorem StepKept.voidLeft (d : Desc) : StepKept s0 (s.voidLeft d).1 ∧ (s.voidLeft d).2.step = d.step := by
  unfold State.voidLeft
  refine List.foldlRecOn (motive := fun a : State × Desc => StepKept s0 a.1 ∧ a.2.step = d.step) _ _ ⟨h, rfl⟩ fun a ha i _ => ?_
  dsimp only
  split
  · exact ha
  · exact ⟨ha.1.voidRequest _ _, ha.2⟩

end

/-- The boundary's effects on the descriptor that was built: it is fixed, written, and its blocks are referenced. -/
def State.fixDesc (s : State) (p : Nat) (d0 : Desc) : State × Desc :=
  let s0 := if tblPart s.tblStaged = p then s.applyTable else s
  let v := (s0.applyBoundary p).voidLeft d0
  let d := { v.2 with check := v.1.jrnlHash (v.2.bytes p), blocks := v.1.blocksOf v.2.requests }
  ((v.1.writeDesc p d).refBlocks p d true, d)

theorem State.fixDesc_kept (s : State) (p : Nat) (d0 : Desc) :
    StepKept s (s.fixDesc p d0).1 ∧ (s.fixDesc p d0).2.step = d0.step := by
  have hs0 : StepKept s (if tblPart s.tblStaged = p then s.applyTable else s) := by
    split
    · exact (StepKept.refl s).applyTable
    · exact .refl s
  obtain ⟨hv, hd⟩ := (hs0.applyBoundary p).voidLeft d0
  exact ⟨(hv.rangeWrite p _ _).refBlocks p _ true, hd⟩

/-- The partition as the seal leaves it to the launch. -/
def Part.sealed (x : Part) (step : Nat) : Part := { x with build := .idle, step := step + 1, tries := 0, record := none }

/-- The step of a fixed descriptor sealed, launched, and the misses counted. -/
def State.launchSealed (u : State) (p : Nat) (d : Desc) : State :=
  ((u.onPart p (fun y => y.sealed d.step)).launch p d).firstMisses p

theorem StepKept.rodsOf {s u : State} (h : StepKept s u) {p : Nat} (hp : p < 16) : u.rodsOf p = s.rodsOf p := by
  simp only [State.rodsOf, h.design, h.frames p hp]

theorem StepKept.launchRecord {s u : State} (h : StepKept s u) {p : Nat} (hp : p < 16) (d : Desc) :
    u.launchRecord p d = s.launchRecord p d := by
  simp only [State.launchRecord, State.descAt, h.descs p hp, h.time]

theorem StepKept.phys {s u : State} (h : StepKept s u) (l : Nat) : u.phys l = s.phys l := State.phys_congr h.design h.spares l

theorem StepKept.rod {s u : State} (h : StepKept s u) (k : Nat) : u.rod k = s.rod k := by
  rw [State.rod, h.rods, State.rod]

/-! ### STEP_SEAL -/

section
variable {s : State} {p : Fin 16} {d0 : Desc} (hb : (s.part p).build = .built d0)
include hb

theorem execStepSeal_of_not_ready (h : s.live = false ∨ s.stalled = true ∨ (s.part p).st ≠ .running ∨ (s.part p).opened ≠ none) :
    execStepSeal p s = .next s := by
  have hc : (!s.live || s.stalled || decide ((s.part p).st ≠ .running) || (s.part p).opened.isSome) = true := by
    obtain h | h | h | h := h
    · simp [h]
    · simp [h]
    · simp [h]
    · simp [Option.isSome_iff_ne_none.mpr h]
  simp only [execStepSeal, hb, hc, if_true]

variable (hl : s.live = true) (hs : s.stalled = false) (hr : (s.part p).st = .running) (ho : (s.part p).opened = none)
include hl hs hr ho

theorem execStepSeal_of_refetch (hf : (s.part p).refetch ≠ none) :
    execStepSeal p s = .next ((s.setPart p { s.part p with st := .held, hold := 6 }).promoteShard p) := by
  simp [execStepSeal, hb, hl, hs, hr, ho, Option.isSome_iff_ne_none.mpr hf, State.holdRefetch, State.onPart]

theorem execStepSeal_of_ready (hf : (s.part p).refetch = none) :
    execStepSeal p s = .next ((s.fixDesc p d0).1.launchSealed p (s.fixDesc p d0).2) := by
  unfold execStepSeal
  dsimp only
  rw [hb]
  dsimp only
  rw [if_neg (by simp [hl, hs, hr, ho]), if_neg (by simp [hf])]
  rfl

end

/-- The partition after its step has been sealed and launched. -/
theorem State.launchSealed_part (u : State) (p : Nat) (d : Desc) :
    ∃ t groups, (u.launchSealed p d).part p = { (u.part p).sealed d.step with faultAt := t }.launched d u.time groups := by
  obtain ⟨-, -, t, groups, hpart⟩ := (u.onPart p (fun y => y.sealed d.step)).launch_spec p d
  obtain ⟨slate, regs, hf⟩ := ((u.onPart p (fun y => y.sealed d.step)).launch p d).firstMisses_frame p
  rw [State.onPart, State.part_setPart] at hpart
  exact ⟨t, groups, (congrArg (fun v : State => v.part p) hf).trans hpart⟩

theorem State.launchSealed_armed (u : State) (p : Nat) (d : Desc) :
    (u.launchSealed p d).rods = ((u.onPart p (fun y => y.sealed d.step)).armRods p d).rods ∧
      (u.launchSealed p d).bead = ((u.onPart p (fun y => y.sealed d.step)).armRods p d).bead := by
  obtain ⟨hrods, hbead, -⟩ := (u.onPart p (fun y => y.sealed d.step)).launch_spec p d
  obtain ⟨slate, regs, hf⟩ := ((u.onPart p (fun y => y.sealed d.step)).launch p d).firstMisses_frame p
  exact ⟨(congrArg State.rods hf).trans hrods, (congrArg State.bead hf).trans hbead⟩

/-- Each rod of the partition after its step has been launched: armed, with its registers and program address as they were. -/
theorem State.launchSealed_rods (u : State) (p : Nat) (d : Desc) : ∀ l ∈ u.rodsOf p,
    (u.launchSealed p d).RodArmed (u.launchRecord p d) (u.phys l) ∧
      ((u.launchSealed p d).rod (u.phys l)).pc = (u.rod (u.phys l)).pc ∧ ((u.launchSealed p d).rod (u.phys l)).s = (u.rod (u.phys l)).s := by
  intro l hl
  obtain ⟨hrods, hbead⟩ := u.launchSealed_armed p d
  have hrod (k : Nat) : (u.launchSealed p d).rod k = ((u.onPart p (fun y => y.sealed d.step)).armRods p d).rod k := by
    rw [State.rod, hrods, State.rod]
  have harmed := (u.onPart p (fun y => y.sealed d.step)).armRods_armed p d l hl
  obtain ⟨-, hruns⟩ := (u.onPart p (fun y => y.sealed d.step)).armRods_runsOn p d
  rw [State.RodArmed, hrod, hbead]
  exact ⟨harmed, hruns (u.phys l)⟩

/-! ### LAUNCH_STAGGER_END -/

section
variable {s : State} {p : Fin 16} {g : Fin 8} (hl : s.live = true) (hs : s.stalled = false)
include hl hs

theorem execLaunchStaggerEnd_of_due (h : (s.part p).boundary.toNat + 15 * g ≤ s.time.toNat) : execLaunchStaggerEnd p g s =
    .next ((s.setPart p { s.part p with groups := (s.part p).groups.filter (fun x => x != g.val) }).startPart p) := by
  unfold execLaunchStaggerEnd
  rw [if_pos (by simp [hl, hs, h])]
  rfl

omit hl hs in
theorem execLaunchStaggerEnd_of_early (h : s.time.toNat < (s.part p).boundary.toNat + 15 * g) : execLaunchStaggerEnd p g s = .next s := by
  unfold execLaunchStaggerEnd
  rw [if_neg (by simp [Nat.not_le.mpr h])]

end

/-- Settles O25, command by command. -/
theorem stepBuildSealAndLaunch : Obligations.StepBuildSealAndLaunch := by
  refine ⟨fun s p => ⟨execBuildStart_of_idle, fun hr hb hl hs => ?_⟩,
    fun s p d hl hb => ⟨fun hd => ⟨_, execBuildEnd_of_rows hl hb hd, rfl⟩, execBuildEnd_of_no_row hl hb⟩,
    fun s p d0 hb => ⟨execStepSeal_of_not_ready hb, fun hl hs hr ho => ⟨execStepSeal_of_refetch hb hl hs hr ho, fun hf => ?_⟩⟩,
    fun s p g hl hs => ⟨execLaunchStaggerEnd_of_due hl hs, execLaunchStaggerEnd_of_early⟩⟩
  · have hex := execBuildStart_of_running hr hb hl hs
    obtain ⟨hkept, hstep⟩ := s.build_kept p
    generalize s.build p = v at hex hkept hstep
    exact ⟨_, _, hex, by rw [State.onPart, State.part_setPart], hstep, hkept.rods, hkept.bead⟩
  · obtain ⟨hkept, hstep⟩ := s.fixDesc_kept p d0
    obtain ⟨at_, groups, hpart⟩ := (s.fixDesc p d0).1.launchSealed_part p (s.fixDesc p d0).2
    refine ⟨_, _, execStepSeal_of_ready hb hl hs hr ho hf, by rw [hpart]; rfl, hstep, by rw [hpart]; rfl,
      by rw [hpart, ← hstep]; rfl, by rw [hpart]; rfl, by rw [hpart, ← hkept.time]; rfl, fun l hl => ?_⟩
    obtain ⟨⟨hlatch, hmap, hrec⟩, hpc, hregs⟩ :=
      (s.fixDesc p d0).1.launchSealed_rods p (s.fixDesc p d0).2 l (by rwa [hkept.rodsOf p.isLt])
    rw [hkept.phys] at hlatch hmap hrec hpc hregs
    rw [hkept.rod] at hpc hregs
    exact ⟨hlatch, hmap, hpc, hregs, by rw [hrec, hkept.launchRecord p.isLt]⟩

end Sys2Proof.Machine
end

section
/-! PROOF. SAMPLE_PUT_COPY and STEP_TIMEOUT (11_sampler.md R247, R249; 17_faults_and_recovery.md Table 17.1). -/

namespace Sys2Proof.Machine

/-! ### SAMPLE_PUT_COPY (R118, R247) -/

section
variable {s : State} {l : Fin 512} {o : RemOp} {p : Nat} {d : Desc} (hl : s.live = true) (hp : s.partOf l = some p)
  (hf : (s.rod (s.phys l)).rem.find? (fun x => x.kind == .sample || x.kind == .sampleEmpty) = some o)
include hp hf

theorem execSamplePutCopy_of_older (h : (s.rod (s.phys l)).olderTouches o = true) : execSamplePutCopy l o.tag s = .next s := by
  simp only [execSamplePutCopy, hf, hp, h, Bool.or_true, if_true]

include hl

/-- Without an open step, or with more records than 4,096, a hand-off fails with response 1. -/
theorem execSamplePutCopy_of_refused (ho : (s.rod (s.phys l)).olderTouches o = false)
    (h : (s.part p).opened = none ∨ (o.kind = .sample ∧ o.b.toNat > 4096)) :
    execSamplePutCopy l o.tag s = .next (s.remFail (s.phys l) o 1) := by
  cases hd : (s.part p).opened with
  | none => simp [execSamplePutCopy, hf, hp, hl, ho, hd]
  | some d =>
    obtain ⟨hk, hn⟩ := h.resolve_left (by rw [hd]; exact Option.some_ne_none d)
    simp [execSamplePutCopy, hf, hp, hl, ho, hd, hk, hn]

theorem execSamplePutCopy_of_empty (ho : (s.rod (s.phys l)).olderTouches o = false) (hd : (s.part p).opened = some d)
    (hk : o.kind = .sampleEmpty) : execSamplePutCopy l o.tag s = .next (s.takeHandoff p (s.phys l) d o []) := by
  simp [execSamplePutCopy, hf, hp, hl, ho, hd, hk]

end

section
variable (s : State) (p ph : Nat) (d : Desc) (o : RemOp)

/-- A word of a rod's status record of the Sampler, counted up. -/
def State.countStatus (s : State) (ph k n : Nat) : State :=
  s.beadWrite ph (0x3F0200 + 8 * k) (leBytes 8 ((s.bead.read64 (2 ^ 22 * ph + 0x3F0200 + 8 * k)).toNat + n))

theorem State.countStatus_read1 (k n : Nat) (hk : k < 3) {x : Nat} (hx : x < 2 ^ 22 * ph + 0x3F0200 ∨ 2 ^ 22 * ph + 0x3F0218 ≤ x) :
    (s.countStatus ph k n).bead.read1 x = s.bead.read1 x :=
  Memory.read1_writeN_out _ _ _ _ (by rw [leBytes_length]; omega)

/-- A hand-off without records: its rod's unit, and the status record, which counts it (R247, R249). -/
theorem State.takeHandoff_nil : s.takeHandoff p ph d o [] =
    ((((s.countStatus ph 0 1).countStatus ph 1 0).countStatus ph 2 0).onPart p (fun x => { x with recs := x.recs ++ [] })).onRod ph
      (fun r => (r.dropRem o.tag).countOpt o.cnt) := rfl

theorem State.takeHandoff_nil_spec :
    (s.takeHandoff p ph d o []).rod ph = ((s.rod ph).dropRem o.tag).countOpt o.cnt ∧
      ((s.takeHandoff p ph d o []).part p).recs = (s.part p).recs ∧
      ∀ x, (x < 2 ^ 22 * ph + 0x3F0200 ∨ 2 ^ 22 * ph + 0x3F0218 ≤ x) → (s.takeHandoff p ph d o []).bead.read1 x = s.bead.read1 x := by
  rw [State.takeHandoff_nil]
  refine ⟨State.rod_setRod _ _ _, ?_, fun x hx => ?_⟩
  · rw [State.onRod, State.setRod_part, State.onPart, State.part_setPart]
    exact List.append_nil _
  · rw [State.onRod, State.setRod_bead, State.onPart, State.setPart_bead, State.countStatus_read1 _ ph 2 0 (by decide) hx,
      State.countStatus_read1 _ ph 1 0 (by decide) hx, State.countStatus_read1 _ ph 0 1 (by decide) hx]

end

/-! ### STEP_TIMEOUT (17_faults_and_recovery.md Table 17.1) -/

/-- A step's time-out before its partition is held: in the fault log, its counter, the wait-for graph latched. -/
def State.logTimeout (s : State) (p : Nat) : State :=
  ((s.faultRecord 0xA 0x21 0 p 0 0 (s.openStep p)).bump (cntBlk 7) 1).latchWfg p

theorem State.latchWfg_rodsPartsKept (s : State) (p : Nat) : RodsPartsKept s (s.latchWfg p) := ⟨rfl, rfl, rfl⟩

theorem State.logTimeout_rodsPartsKept (s : State) (p : Nat) : RodsPartsKept s (s.logTimeout p) :=
  (State.faultRecord_rodsPartsKept ..).trans ((State.bump_rodsPartsKept ..).trans (State.latchWfg_rodsPartsKept ..))

/-- The open step of a partition has not ended within FLT_STEP_WDOG. -/
def State.StepLate (s : State) (p : Nat) : Prop :=
  (s.part p).opened ≠ none ∧ (s.part p).ended = false ∧ (s.part p).wdog.toNat + 1000 * s.rf 0x30028 19 0 ≤ s.time.toNat

section
variable {s : State} {p : Fin 16}

theorem execStepTimeout_of_late (hl : s.live = true) (hs : s.stalled = false) (hr : (s.part p).st = .running) (h : s.StepLate p) :
    execStepTimeout p s = .next ((s.logTimeout p).holdPart p 5 0x21 0) := by
  obtain ⟨ho, he, ht⟩ := h
  simp [execStepTimeout, State.logTimeout, hl, hs, hr, Option.isSome_iff_ne_none.mpr ho, he, ht]

theorem execStepTimeout_of_not_late (h : ¬ s.StepLate p) : execStepTimeout p s = .next s := by
  unfold execStepTimeout
  dsimp only
  rw [if_neg]
  intro hc
  simp only [Bool.and_eq_true, Bool.not_eq_true', decide_eq_true_eq] at hc
  obtain ⟨⟨⟨-, ho⟩, he⟩, ht⟩ := hc
  exact h ⟨Option.isSome_iff_ne_none.mp ho, he, ht⟩

end

/-- The partition held by the time-out; no rod changes. -/
theorem State.timeout_spec {s : State} {p : Nat} (hr : (s.part p).st = .running) :
    ((s.logTimeout p).holdPart p 5 0x21 0).part p = { s.part p with
      st := .held, hold := 5, haltHeld := false, faultCause := 0x21, faultResp := 0, faultAt := some s.time } ∧
      ((s.logTimeout p).holdPart p 5 0x21 0).rods = s.rods := by
  have hkept := s.logTimeout_rodsPartsKept p
  have hpart : (s.logTimeout p).part p = s.part p := by rw [State.part, hkept.parts, State.part]
  obtain ⟨parts, hheld⟩ := (s.logTimeout p).holdPart_frame p 5 0x21 0
  refine ⟨?_, ?_⟩
  · rw [State.holdPart_of_running _ _ _ (hpart ▸ hr), hpart, hkept.time]
  · rw [hheld]
    exact hkept.rods

end Sys2Proof.Machine
end

section
/-! PROOF. SAMPLER_CHOOSE (11_sampler.md R254 to R259, 17_faults_and_recovery.md R374, R376): what the choice of tokens leaves alone, the
requests that its entries name, and the journal's two copies. -/

namespace Sys2Proof.Machine

/-! ### What the choice leaves alone -/

/-- The rods and bead memory stay, the open step of partition `p`, and where its journal lies. -/
structure ChoiceKept (p : Nat) (s u : State) : Prop where
  rods : u.rods = s.rods
  bead : u.bead = s.bead
  opened : (u.part p).opened = (s.part p).opened
  design : u.design = s.design
  tier : u.tier = s.tier
  home : u.rd (0x31000 + 0x40 * p) = s.rd (0x31000 + 0x40 * p)

theorem ChoiceKept.refl (p : Nat) (s : State) : ChoiceKept p s s := ⟨rfl, rfl, rfl, rfl, rfl, rfl⟩

theorem ChoiceKept.jrnlAt {p : Nat} {s u : State} (h : ChoiceKept p s u) (step : Nat) (second : Bool) :
    u.jrnlAt p step second = s.jrnlAt p step second := by
  simp only [State.jrnlAt, State.directBase, State.rf, h.design, h.tier, h.home]

/-- The counters of the block and of its partitions lie beyond FLT_JRNL_PART. -/
theorem ChoiceKept.bump {p : Fin 16} {s0 s : State} (h : ChoiceKept p s0 s) {o : Nat} (ho : 0x48000 ≤ o) (n : Nat) :
    ChoiceKept p s0 (s.bump o n) := by
  have hhome := s.rd_bump_ne n (show 0x31000 + 0x40 * p.val ≠ o by omega)
  obtain ⟨regs, hb⟩ := s.bump_spec o n
  rw [hb] at hhome ⊢
  exact { h with home := hhome.trans h.home }

theorem cntPart_ge (p k : Nat) : 0x48000 ≤ cntPart p k := by
  unfold cntPart
  omega

/-! ### The journal's copies (R374, R376) -/

theorem State.jrnlWrite_part (s : State) (p : Nat) (r : JRecord) : (s.jrnlWrite p r).part p =
    { s.part p with jrnlA := some ⟨s.jrnlAt p r.step false, r⟩, jrnlB := some ⟨s.jrnlAt p r.step true, r⟩ } := by
  unfold State.jrnlWrite
  dsimp only
  generalize s.recordBytes p r = bs
  exact State.part_setPart _ _ _

theorem State.jrnlWrite_frame (s : State) (p : Nat) (r : JRecord) : ∃ hbm hbmPoison flt parts,
    s.jrnlWrite p r = { s with hbm := hbm, hbmPoison := hbmPoison, flt := flt, parts := parts } := by
  unfold State.jrnlWrite
  dsimp only
  generalize s.recordBytes p r = bs
  exact ⟨_, _, _, _, rfl⟩

section
variable {p : Nat} {s0 s : State} (h : ChoiceKept p s0 s)
include h

theorem ChoiceKept.jrnlWrite (r : JRecord) : ChoiceKept p s0 (s.jrnlWrite p r) := by
  have hopened : ((s.jrnlWrite p r).part p).opened = (s.part p).opened := by rw [s.jrnlWrite_part]
  obtain ⟨_, _, _, _, hf⟩ := s.jrnlWrite_frame p r
  rw [hf] at hopened ⊢
  exact { h with opened := hopened.trans h.opened }

theorem ChoiceKept.jrnlOf (step : Nat) : ChoiceKept p s0 (s.jrnlOf p step).2 := by
  unfold State.jrnlOf State.jrnlFind
  dsimp only
  split
  · split
    · exact h
    · exact h.jrnlWrite _
  · exact h.jrnlWrite _
  · exact h.jrnlWrite _
  · exact h

end

/-! ### The choice of a token (R254 to R257) -/

section
variable {p : Fin 16} {s0 : State}

theorem ChoiceKept.candSet (mask : Nat) (allow : Nat → Bool) : ∀ (l : List W64) {s : State} (acc : List Tok), ChoiceKept p s0 s →
    ChoiceKept p s0 (s.candSet p mask allow acc l).2
  | [], _, _, h => h
  | _ :: r, s, _, h => by
    rw [State.candSet]
    dsimp only
    split
    · exact ChoiceKept.candSet mask allow r _ (h.bump (cntPart_ge p 25) 1)
    · split
      · exact ChoiceKept.candSet mask allow r _ h
      · split
        · exact h
        · exact ChoiceKept.candSet mask allow r _ h
        · split
          · exact ChoiceKept.candSet mask allow r _ (h.bump (cntPart_ge p 26) 1)
          · exact ChoiceKept.candSet mask allow r _ h

/-- An entry for request `i`, and counters at most. -/
def EntryChosen (p : Fin 16) (s0 : State) (i : Nat) (x : JEntry × State) : Prop := ChoiceKept p s0 x.2 ∧ x.1.idx = i

theorem ChoiceKept.entry {s : State} (h : ChoiceKept p s0 s) {e : JEntry} {i : Nat} (he : e.idx = i) : EntryChosen p s0 i (e, s) := ⟨h, he⟩

/-- A sampled row of a GENERATE request. -/
theorem ChoiceKept.sampleRow {s : State} (h : ChoiceKept p s0 s) (i : Nat) (es : List W64) : EntryChosen p s0 i (s.sampleRow p i es) := by
  unfold State.sampleRow
  extract_lets x pos ended
  split
  · exact h.entry rfl
  · next w _ =>
    extract_lets ctx
    clear_value ctx
    split
    · exact h.entry rfl
    · next mask =>
      have hset := ChoiceKept.candSet mask (fun t => x.allowCtrl && prAllows w t) es [] h
      split
      · next hc =>
        rw [hc] at hset
        exact hset.entry rfl
      · next s1 hc =>
        rw [hc] at hset
        extract_lets pen s2 left t
        have hs2 : ChoiceKept p s0 s2 := hset.bump (cntPart_ge p 25) _
        clear_value s2
        split
        · exact hs2.entry rfl
        · split
          · exact hs2.entry rfl
          · split
            · exact hs2.entry rfl
            · split
              · exact hs2.entry rfl
              · exact hs2.entry rfl

theorem State.passRow_idx (s : State) (p i : Nat) (rs : List CandRec) : (s.passRow p i rs).idx = i := by
  unfold State.passRow
  split
  · rfl
  · extract_lets cross n vals
    split
    · rfl
    · rfl

/-- Row by row: an entry for every sampled row, in row order (R374). -/
theorem ChoiceKept.sampleRows (rs : List CandRec) : ∀ (l : List Row) {s : State} (k : Nat), ChoiceKept p s0 s →
    ChoiceKept p s0 (s.sampleRows p rs l k).2 ∧
      (s.sampleRows p rs l k).1.map (·.idx) = (l.filter (fun x => x.kind != 2 && x.sample)).map (·.idx)
  | [], _, _, h => ⟨h, rfl⟩
  | r :: l, s, k, h => by
    rw [State.sampleRows]
    split
    · next hr =>
      have hout : (r.kind != 2 && r.sample) = false := by simpa [Decidable.imp_iff_not_or] using hr
      rw [List.filter_cons, hout, if_neg Bool.false_ne_true]
      exact ChoiceKept.sampleRows rs l (k + 1) h
    · next hr =>
      extract_lets x mine e rest
      have hin : (r.kind != 2 && r.sample) = true := by simpa using hr
      have he : EntryChosen p s0 r.idx e := by
        unfold e
        split
        · exact h.entry rfl
        · split
          · exact h.entry rfl
          · split
            · exact h.sampleRow r.idx _
            · exact h.entry (s.passRow_idx p r.idx mine)
      obtain ⟨hkept, hidx⟩ := ChoiceKept.sampleRows rs l (k + 1) he.1
      rw [List.filter_cons, hin, if_pos rfl, List.map_cons, List.map_cons, he.2, ← hidx]
      exact ⟨hkept, rfl⟩

end

/-- An entry that differs from the surviving record's still names its request. -/
theorem compareRecord_idx (old : Option JRecord) (step : Nat) (l : List JEntry) :
    (compareRecord old step l).1.map (·.idx) = l.map (·.idx) := by
  unfold compareRecord
  split
  · rfl
  · split
    · rfl
    · dsimp only
      rw [List.map_map]
      refine List.map_congr_left fun e _ => ?_
      rw [Function.comp_apply]
      split
      · rfl
      · rfl

/-! ### SAMPLER_CHOOSE -/

/-- The record chosen for step `d` of partition `p`, with the state in which it goes to the journal. -/
def State.chosen (s : State) (p : Nat) (d : Desc) : State × JRecord :=
  let c := s.sampleRows p (s.part p).recs d.rows 0
  let o := c.2.jrnlOf p d.step
  let j := compareRecord o.1 d.step c.1
  (o.2.bump (cntBlk 9) j.2, ⟨d.step, d.check, j.1⟩)

theorem State.chosen_spec (s : State) (p : Fin 16) (d : Desc) :
    ChoiceKept p s (s.chosen p d).1 ∧ (s.chosen p d).2.step = d.step ∧ (s.chosen p d).2.check = d.check ∧
      (s.chosen p d).2.entries.map (·.idx) = (d.rows.filter (fun x => x.kind != 2 && x.sample)).map (·.idx) := by
  obtain ⟨hkept, hidx⟩ := ChoiceKept.sampleRows (s.part p).recs d.rows 0 (ChoiceKept.refl p s)
  exact ⟨(hkept.jrnlOf d.step).bump (by unfold cntBlk; omega) _, rfl, rfl, (compareRecord_idx _ _ _).trans hidx⟩

/-- A record chosen and filed. -/
def State.fileRecord (u : State) (p : Nat) (r : JRecord) : State := (u.jrnlWrite p r).onPart p (fun y => { y with record := some r })

theorem State.fileRecord_part (u : State) (p : Nat) (r : JRecord) : (u.fileRecord p r).part p = { u.part p with
    jrnlA := some ⟨u.jrnlAt p r.step false, r⟩, jrnlB := some ⟨u.jrnlAt p r.step true, r⟩, record := some r } := by
  rw [State.fileRecord, State.onPart, State.part_setPart, State.jrnlWrite_part]

theorem State.fileRecord_rodsBead (u : State) (p : Nat) (r : JRecord) :
    (u.fileRecord p r).rods = u.rods ∧ (u.fileRecord p r).bead = u.bead := by
  obtain ⟨_, _, _, _, hf⟩ := u.jrnlWrite_frame p r
  rw [State.fileRecord, hf]
  exact ⟨rfl, rfl⟩

section
variable {s : State} {p : Fin 16} {d : Desc} (ho : (s.part p).opened = some d)
include ho

theorem execSamplerChoose_of_waiting (h : (s.part p).ended = false ∨ (s.part p).record ≠ none) : execSamplerChoose p s = .next s := by
  have hc : (!s.live || s.stalled || decide ((s.part p).st ≠ .running) || !(s.part p).ended || (s.part p).record.isSome) = true := by
    obtain h | h := h
    · simp [h]
    · simp [Option.isSome_iff_ne_none.mpr h]
  simp only [execSamplerChoose, ho, hc, if_true]

theorem execSamplerChoose_of_ended (hl : s.live = true) (hs : s.stalled = false) (hr : (s.part p).st = .running)
    (he : (s.part p).ended = true) (hn : (s.part p).record = none) :
    execSamplerChoose p s = .next ((s.chosen p d).1.fileRecord p (s.chosen p d).2) := by
  unfold execSamplerChoose
  dsimp only
  rw [ho]
  dsimp only
  rw [if_neg (by simp [hl, hs, hr, he, hn])]
  rfl

end

end Sys2Proof.Machine
end

section
/-! PROOF. JOURNAL_COMPLETE (11_sampler.md R259, 17_faults_and_recovery.md R375): what the write-back of a record leaves alone. First the
shared operations and retirement, then the commit's own steps. -/

namespace Sys2Proof.Machine

/-! ### The relation -/

/-- The rods stay, those that wait to be withdrawn, and every partition's copies of its last record. Unlike `StepKept` it lets every
register change. -/
structure CommitKept (s u : State) : Prop where
  rods : u.rods = s.rods
  pending : u.flt.pendingRods = s.flt.pendingRods
  copies : ∀ q, (u.part q).jrnlA = (s.part q).jrnlA ∧ (u.part q).jrnlB = (s.part q).jrnlB

theorem CommitKept.refl (s : State) : CommitKept s s := ⟨rfl, rfl, fun _ => ⟨rfl, rfl⟩⟩

section
variable {s0 s : State} (h : CommitKept s0 s)
include h

/-! ### Shared operations -/

theorem CommitKept.forEach {α : Type} {f : α → State → State} (hf : ∀ a u, CommitKept s0 u → CommitKept s0 (f a u)) (l : List α) :
    CommitKept s0 (s.forEach l f) := State.forEach_induct hf l h

theorem CommitKept.onSlot (i : Nat) (f : Slot → Slot) : CommitKept s0 (s.onSlot i f) := { h with }
theorem CommitKept.onTen (t : Nat) (f : Tenant → Tenant) : CommitKept s0 (s.onTen t f) := { h with }
theorem CommitKept.setGth (g : Gather) : CommitKept s0 { s with gth := g } := { h with }
theorem CommitKept.setTier (t : Tier) : CommitKept s0 { s with tier := t } := { h with }

theorem CommitKept.bump (o n : Nat) : CommitKept s0 (s.bump o n) := by
  obtain ⟨regs, hb⟩ := s.bump_spec o n
  rw [hb]
  exact { h with }

theorem CommitKept.sent {u : State} (hu : UnitSent s u) : CommitKept s0 u := by
  obtain ⟨_, _, _, _, rfl⟩ := hu
  exact { h with }

theorem CommitKept.onPart (p : Nat) {f : Part → Part} (hf : ∀ x, (f x).jrnlA = x.jrnlA ∧ (f x).jrnlB = x.jrnlB) :
    CommitKept s0 (s.onPart p f) where
  __ := h
  copies q := by
    rw [State.onPart]
    by_cases hq : q = p
    · rw [hq, State.part_setPart, (hf _).1, (hf _).2]
      exact h.copies p
    · rw [State.part_setPart_ne _ _ hq]
      exact h.copies q

theorem CommitKept.hbmWrite (a : Nat) (bs : List Byte) : CommitKept s0 (s.hbmWrite a bs) where
  __ := h
  pending := by
    rw [← h.pending, State.hbmWrite]
    dsimp only
    split <;> rfl

theorem CommitKept.spanWrite (p a : Nat) (bs : List Byte) : CommitKept s0 (s.spanWrite p a bs) := by
  unfold State.spanWrite
  split
  · exact h.hbmWrite _ _
  · exact h

omit h in
theorem CommitKept.spansWrite (p : Nat) : ∀ (l : List (Nat × Nat)) {s : State} (bs : List Byte), CommitKept s0 s →
    CommitKept s0 (s.spansWrite p l bs)
  | [], _, _, h => h
  | sp :: r, _, bs, h => CommitKept.spansWrite p r _ (h.spanWrite p sp.1 (bs.take sp.2))

theorem CommitKept.rangeWrite (p a : Nat) (bs : List Byte) : CommitKept s0 (s.rangeWrite p a bs) := by
  unfold State.rangeWrite
  dsimp only
  split
  · exact (CommitKept.spansWrite p _ bs h).setTier _
  · exact h.bump _ _

theorem CommitKept.complete (t q : Nat) (c : Completion) : CommitKept s0 (s.complete t q c) := by
  unfold State.complete
  split
  · exact h.onTen _ _
  · exact h

theorem CommitKept.histEvent (src inst v : Nat) : CommitKept s0 (s.histEvent src inst v) :=
  h.forEach (fun _ _ hu => hu.bump _ _) _

/-! ### KV blocks and their index (09_slate.md R213 to R216) -/

theorem CommitKept.setBlockEntry (i n : Nat) (e : W64) : CommitKept s0 (s.setBlockEntry i n e) := h.rangeWrite _ _ _

theorem CommitKept.freeLater (p : Nat) : CommitKept s0 (s.freeLater p) := h.onPart p fun _ => ⟨rfl, rfl⟩

theorem CommitKept.freeBlock (p a : Nat) : CommitKept s0 (s.freeBlock p a) := by
  refine h.onPart p fun x => ?_
  split
  · split <;> exact ⟨rfl, rfl⟩
  · exact ⟨rfl, rfl⟩

theorem CommitKept.pfxInsert (p : Nat) (key : W64) (blk : Nat) : CommitKept s0 (s.pfxInsert p key blk).2 := by
  unfold State.pfxInsert
  dsimp only
  split
  · exact h
  · split
    · exact h.rangeWrite p _ _
    · split
      · exact ((h.rangeWrite p _ _).freeBlock p _).rangeWrite p _ _
      · exact h.bump (cntPart p 33) 1

theorem CommitKept.pfxDrop (p : Nat) (key : W64) (blk : Nat) : CommitKept s0 (s.pfxDrop p key blk) := by
  unfold State.pfxDrop
  split
  · exact h.rangeWrite _ _ _
  · exact h

omit h in
/-- A block that has entered the index, or has not, and its entry in the page list. -/
theorem CommitKept.shareBlock {r : Bool × State} (h : CommitKept s0 r.2) (i n : Nat) (e : W64) :
    CommitKept s0 (if r.1 then r.2.setBlockEntry i n e else r.2) := by
  split
  · exact h.setBlockEntry i n e
  · exact h

omit h in
theorem CommitKept.keepBlocks (i : Nat) : ∀ (k : Nat) {s : State} (n : Nat), CommitKept s0 s → CommitKept s0 (s.keepBlocks i n k)
  | 0, _, _, h => h
  | k + 1, s, n, h => by
    rw [State.keepBlocks]
    extract_lets s1 r
    have hs1 : CommitKept s0 s1 := by
      unfold s1
      split
      · exact h
      · exact h.onSlot _ _
    have hr : CommitKept s0 r.2 := hs1.pfxInsert _ _ _
    clear_value r s1
    split
    · exact h
    · split
      · exact CommitKept.keepBlocks i k _ hs1
      · exact CommitKept.keepBlocks i k _ (hr.shareBlock _ _ _)

theorem CommitKept.recallBlock (p a : Nat) : CommitKept s0 (s.recallBlock p a) := by
  refine h.forEach (fun b u hu => ?_) _
  split
  · dsimp only
    split
    · exact hu.setTier _
    · exact hu
  · exact hu

theorem CommitKept.kvRelease (i : Nat) (keep : Bool) : CommitKept s0 (s.kvRelease i keep) := by
  unfold State.kvRelease
  extract_lets x s1 s2
  have hs1 : CommitKept s0 s1 := by
    unfold s1
    split
    · exact CommitKept.keepBlocks i _ _ h
    · exact h
  refine (hs1.forEach (fun n u hu => ?_) _).onSlot _ _
  dsimp only
  split
  · exact hu.pfxDrop _ _ _
  · exact (hu.recallBlock _ _).freeBlock _ _

/-! ### Retirement (R205 to R208) -/

theorem CommitKept.final (i status resp : Nat) : CommitKept s0 (s.final i status resp) := by
  unfold State.final
  dsimp only
  split
  · exact h.complete _ _ _
  · exact h.onSlot _ _

theorem CommitKept.predDone (k : Nat) : CommitKept s0 (s.predDone k) := by
  unfold State.predDone
  split <;> exact h.onSlot _ _

/-- One request retired with its completions. -/
theorem CommitKept.retireOne (i status resp : Nat) : CommitKept s0 (s.retireOne i status resp) :=
  ((((h.kvRelease i _).onSlot i _).setGth _).forEach (fun _ _ hu => hu.complete _ _ _) _).final i status resp

omit h in
theorem CommitKept.retireFrom (status resp : Nat) : ∀ (n : Nat) {s : State} (i : Nat), CommitKept s0 s →
    CommitKept s0 (s.retireFrom i status resp n)
  | 0, _, _, h => h
  | n + 1, s, i, h => by
    have hone : CommitKept s0 (s.retireOne i status resp) := h.retireOne i status resp
    rw [State.retireFrom]
    dsimp only
    split
    · exact h
    · split
      · exact hone
      · split
        · exact hone.predDone _
        · exact CommitKept.retireFrom status resp n _ hone

theorem CommitKept.retire (i status resp : Nat) : CommitKept s0 (s.retire i status resp) := CommitKept.retireFrom status resp _ i h

/-! ### Rings (R260, 15_host_attach.md R344) -/

theorem CommitKept.setRing (t r : Nat) (o : OutRing) : CommitKept s0 (s.setRing t r o) := h.onTen _ _

theorem CommitKept.hostWrite (t off : Nat) (bs : List Byte) : CommitKept s0 (s.hostWrite t off bs) := h.sent (s.hostWrite_sent t off bs)

theorem CommitKept.ringPut (t r : Nat) (ws : List W64) : CommitKept s0 (s.ringPut t r ws) := by
  unfold State.ringPut
  dsimp only
  refine CommitKept.setRing ?_ _ _ _
  split
  · exact (h.hostWrite _ _ _).hostWrite _ _ _
  · exact h.hostWrite _ _ _

theorem CommitKept.ringTail (t r : Nat) : CommitKept s0 (s.ringTail t r) := by
  unfold State.ringTail
  dsimp only
  split
  · exact (h.hostWrite _ _ _).onTen _ _
  · exact h.hostWrite _ _ _

theorem CommitKept.giveBack (l : List JEntry) : CommitKept s0 (s.giveBack l) := by
  refine h.forEach (fun e u hu => ?_) _
  dsimp only
  refine CommitKept.onSlot ?_ _ _
  split
  · exact hu
  · exact hu.setRing _ _ _

/-! ### The steps of the write-back (R259) -/

theorem CommitKept.miss (i : Nat) (first : Bool) : CommitKept s0 (s.miss i first) := ((h.onSlot i _).bump _ _).bump _ _

theorem CommitKept.firstMisses (p : Nat) : CommitKept s0 (s.firstMisses p) := by
  obtain ⟨_, _, hf⟩ := s.firstMisses_frame p
  rw [hf]
  exact { h with }

omit h in
theorem CommitKept.insertBlocks (i upto : Nat) : ∀ (n : Nat) {s : State}, CommitKept s0 s → CommitKept s0 (s.insertBlocks i upto n)
  | 0, _, h => h
  | n + 1, s, h => by
    rw [State.insertBlocks]
    extract_lets key a r s1
    have hr : CommitKept s0 r.2 := h.pfxInsert _ _ _
    clear_value r
    split
    · exact h
    · exact CommitKept.insertBlocks i upto n ((hr.shareBlock i _ _).onSlot i _)

theorem CommitKept.writeDesc (p : Nat) (d : Desc) : CommitKept s0 (s.writeDesc p d) := h.rangeWrite p _ _

/-- A change of the next step's descriptor leaves alone what the change itself does. -/
theorem CommitKept.onBuilt (p : Nat) {f : State → Desc → State × Desc} (hf : ∀ d, CommitKept s0 (f s d).1) :
    CommitKept s0 (s.onBuilt p f) := by
  unfold State.onBuilt
  split
  · exact h
  · exact (hf _).onPart p fun _ => ⟨rfl, rfl⟩
  · refine CommitKept.writeDesc ?_ p _
    exact (hf _).onPart p fun _ => ⟨rfl, rfl⟩

theorem CommitKept.stepCtx (i t : Nat) : CommitKept s0 (s.stepCtx i t) := by
  unfold State.stepCtx
  split
  · split
    · exact h
    · split
      · exact h.rangeWrite _ _ _
      · exact h
  · exact h

theorem CommitKept.applyToken (i t : Nat) : CommitKept s0 (s.applyToken i t) := by
  unfold State.applyToken
  extract_lets x again isLate s1 s2 s3
  have hs2 : CommitKept s0 s2 := (((h.hbmWrite _ _).hbmWrite _ _).stepCtx i t).onSlot i _
  have hs3 : CommitKept s0 s3 := by
    unfold s3
    split
    · exact hs2.miss i false
    · exact hs2
  have hseen : CommitKept s0 (if again then s3.histEvent 13 x.part ((s.time.toNat - x.w6.toNat) / 1000) else s3) := by
    split
    · exact hs3.histEvent _ _ _
    · exact hs3
  exact hseen.onBuilt x.part fun _ => hseen

theorem CommitKept.writeScores (i : Nat) (l : List W32) : CommitKept s0 (s.writeScores i l) := by
  unfold State.writeScores
  split
  · exact h
  · exact h.forEach (fun _ _ hu => hu.hbmWrite _ _) _

theorem CommitKept.applyEntry (p : Nat) (e : JEntry) : CommitKept s0 (s.applyEntry p e) := by
  unfold State.applyEntry
  dsimp only
  split
  · exact h
  · split
    · exact h.retire _ _ _
    · split
      · exact h.applyToken _ _
      · exact (h.applyToken _ _).retire _ _ _
      · refine CommitKept.retire ?_ _ _ _
        split
        · exact h.writeScores _ _
        · exact h
      · refine CommitKept.retire ?_ _ _ _
        split
        · exact (h.bump _ _).bump _ _
        · exact h

theorem CommitKept.endCancelled (d : Desc) : CommitKept s0 (s.endCancelled d) := by
  refine h.forEach (fun i u hu => ?_) _
  dsimp only
  split
  · exact hu.retire _ _ _
  · exact hu

theorem CommitKept.voidRequest (d : Desc) (i : Nat) : CommitKept s0 (s.voidRequest d i).1 := by
  unfold State.voidRequest
  dsimp only
  exact (h.setRing _ _ _).onSlot i _

theorem CommitKept.voidLeft (d : Desc) : CommitKept s0 (s.voidLeft d).1 := by
  unfold State.voidLeft
  refine List.foldlRecOn (motive := fun a : State × Desc => CommitKept s0 a.1) _ _ h fun a ha i _ => ?_
  dsimp only
  split
  · exact ha
  · exact ha.voidRequest _ _

theorem CommitKept.refBlocks (p : Nat) (d : Desc) (up : Bool) : CommitKept s0 (s.refBlocks p d up) :=
  h.forEach (fun _ _ hu => hu.forEach (fun _ _ hv => hv.setTier _) _) _

end

/-! ### The commit -/

/-- Nothing of a step is open. -/
structure Part.StepClosed (x : Part) : Prop where
  opened : x.opened = none
  record : x.record = none
  tries : x.tries = 0
  recs : x.recs = []

theorem State.histEvent_frame (s : State) (src inst v : Nat) : ∃ regs, s.histEvent src inst v = { s with regs := regs } := by
  refine State.forEach_induct (P := fun u => ∃ regs, u = { s with regs := regs }) (fun n u hu => ?_) _ ⟨_, rfl⟩
  obtain ⟨regs, hu⟩ := hu
  obtain ⟨regs', hb⟩ := u.bump_spec (0x4B000 + 0x80 * n + 8 * histBucket (u.rd (0x40200 + 8 * n)) v) 1
  rw [State.histAdd, hb, hu]
  exact ⟨_, rfl⟩

theorem State.commit_spec (s : State) (p : Nat) (d : Desc) (r : JRecord) :
    CommitKept s (s.commit p d r) ∧ ((s.commit p d r).part p).StepClosed := by
  unfold State.commit
  extract_lets s0 writes s1 s2 rings s3 s4 s5 s6 wait s7
  have h1 : CommitKept s s1 := ((CommitKept.refl s).firstMisses p).giveBack _
  have h2 : CommitKept s s2 := h1.forEach (fun _ _ hu => hu.ringPut _ _ _) _
  have h3 : CommitKept s s3 := h2.forEach (fun _ _ hu => hu.ringTail _ _) _
  have h4 : CommitKept s s4 := h3.forEach (fun i u hu => by
    dsimp only
    split
    · exact CommitKept.insertBlocks i _ _ hu
    · exact hu) _
  have h5 : CommitKept s s5 := h4.forEach (fun e _ hu => hu.applyEntry p e) _
  have h6 : CommitKept s s6 := (h5.endCancelled d).onBuilt p (h5.endCancelled d).voidLeft
  have h7 : CommitKept s s7 := ((h6.bump _ _).refBlocks p d false).onPart p fun _ => ⟨rfl, rfl⟩
  have hclosed : (s7.part p).StepClosed := by
    unfold s7
    rw [State.onPart, State.part_setPart]
    exact ⟨rfl, rfl, rfl, rfl⟩
  clear_value s7
  obtain ⟨regs, hf⟩ := (s7.freeLater p).histEvent_frame 12 p ((s.time.toNat - (s.part p).boundary.toNat) / 1000)
  refine ⟨(h7.freeLater p).histEvent _ _ _, ?_⟩
  rw [hf]
  show ((s7.freeLater p).part p).StepClosed
  rw [State.freeLater, State.onPart, State.part_setPart]
  exact { hclosed with }

theorem State.boundaryRods_of_none {s : State} (h : s.flt.pendingRods = []) (p : Nat) : s.boundaryRods p = s := by
  rw [State.boundaryRods, h]
  rfl

theorem execJournalComplete_of_record {s : State} {p : Fin 16} {d : Desc} {r : JRecord} (hl : s.live = true) (hs : s.stalled = false)
    (hr : (s.part p).st = .running) (ho : (s.part p).opened = some d) (hrec : (s.part p).record = some r) (hstep : r.step = d.step)
    (hp : s.flt.pendingRods = []) : execJournalComplete p s = .next (s.commit p d r) := by
  obtain ⟨hkept, -⟩ := s.commit_spec p d r
  simp [execJournalComplete, ho, hrec, hl, hs, hr, hstep, State.boundaryRods_of_none (hkept.pending.trans hp)]

/-- Settles O26, command by command. Where the two copies of a record lie in HBM is the model's choice (log entries 51 and 109). -/
theorem stepEndJournalAndTimeout : Obligations.StepEndJournalAndTimeout := by
  refine ⟨fun s l o p d hl hp hf => ⟨execSamplePutCopy_of_older hp hf, execSamplePutCopy_of_refused hl hp hf,
      fun ho hd hk => ⟨_, execSamplePutCopy_of_empty hl hp hf ho hd hk, s.takeHandoff_nil_spec p (s.phys l) d o⟩⟩,
    fun s p d hl hs hr ho => ⟨execSamplerChoose_of_waiting ho, fun he hn => ?_⟩,
    fun s p d r hl hs hr ho hrec hstep hp => ?_,
    fun s p hl hs hr => ⟨fun h => ?_, execStepTimeout_of_not_late⟩⟩
  · obtain ⟨hkept, hstep, hcheck, hidx⟩ := s.chosen_spec p d
    have hex := execSamplerChoose_of_ended ho hl hs hr he hn
    generalize s.chosen p d = v at hkept hstep hcheck hidx hex
    obtain ⟨hrods, hbead⟩ := v.1.fileRecord_rodsBead p v.2
    refine ⟨_, v.2, hex, ?_⟩
    rw [v.1.fileRecord_part p v.2, hstep, hkept.jrnlAt, hkept.jrnlAt]
    exact ⟨rfl, rfl, rfl, hkept.opened.trans ho, rfl, hcheck, hidx, hrods.trans hkept.rods, hbead.trans hkept.bead⟩
  · obtain ⟨hkept, hclosed⟩ := s.commit_spec p d r
    obtain ⟨hA, hB⟩ := hkept.copies p
    exact ⟨_, execJournalComplete_of_record hl hs hr ho hrec hstep hp, hclosed.opened, hclosed.record, hA, hB, hclosed.tries, hclosed.recs,
      hkept.rods⟩
  · obtain ⟨hpart, hrods⟩ := State.timeout_spec hr
    refine ⟨_, execStepTimeout_of_late hl hs hr h, ?_⟩
    rw [hpart]
    exact ⟨rfl, rfl, rfl, rfl, rfl, hrods⟩

end Sys2Proof.Machine
end

section
/-! PROOF. The counters and the state at reset (18_debug_and_counters.md R395, R396; 19_ports_clocks_power_reset.md R422, R430). -/

namespace Sys2Proof.Machine

/-- Refutes O58 in its fourth clause: CX128 lacks the counters of stack 15, and a write to one of them is ignored (R2), so that an overflow
bit that the state holds there stays set. -/
theorem not_counterIncrements : ¬ Obligations.CounterIncrements := by
  rintro ⟨-, -, -, hset, -⟩
  have hkept := hset { State.reset with design := .cx128, regs := [(0x48F80, 0x8000000000000000#64)] } 0x48F80 0 (by decide)
  revert hkept
  decide

/-- Unwritten HBM reads as zero (log entry 2). -/
theorem State.hbmRead_nil {s : State} (h : s.hbm = []) (a n : Nat) : s.hbmRead a n = List.replicate n 0 := by
  unfold State.hbmRead
  rw [h]
  induction n generalizing a with
  | zero => rfl
  | succ n ih => rw [Memory.readN, ih, List.replicate_succ]; rfl

/-- Settles O57: memories and tables are empty, and the registers are at the reset values of chapter 21. What an unlisted byte reads as is the
model's choice (log entry 2). -/
theorem resetState : Obligations.ResetState := by
  have hreg : ∀ t, t < 64 → State.reset.home t = t % 4 ∧ State.reset.rd (tReg t 0x380) = 0xFFFF := by decide
  refine ⟨rfl, by decide, rfl, rfl, rfl, State.hbmRead_nil rfl, fun _ => rfl, fun _ => rfl, fun ph k => ?_, by decide, by decide, by decide,
    by decide, by decide, by decide, by decide, by decide, fun t ht => (hreg t ht).1, fun t ht => (hreg t ht).2⟩
  cases k <;> rfl

end Sys2Proof.Machine
end

section
/-! PROOF. Who reaches a register, and what a write outside its range or under a lock does (21_registers.md R448 to R451,
19_ports_clocks_power_reset.md R432, 20_bringup_and_test.md R447). -/

namespace Sys2Proof.Machine

/-! ### Two registers of the window, and the bits that a configuration lacks -/

theorem regAt_demoteWait : regAt 0x400020 = some ⟨⟨.tierDemoteWait, 0x400020, [], [rwR 9 0 100 1 1000]⟩, []⟩ := by decide
theorem regAt_pwrLimit : regAt 0x10218 = some ⟨⟨.pwrLimit, 0x10218, [], [rwlR 11 0 2300 500 2300]⟩, []⟩ := by decide

/-- A register that describes no unit a configuration may lack has all its bits. -/
theorem State.and_presentBits (s : State) (v : W64) {n : RegName} (h : n ∉ [.seqPartFrames, .fabPrbsCtrl, .fabPrbsLock]) :
    v &&& s.presentBits n = v := by
  rw [show s.presentBits n = BitVec.allOnes 64 by cases n <;> simp_all [State.presentBits]]
  exact BitVec.and_allOnes

theorem State.writeReg_demoteWait (s : State) (v : W64) :
    s.writeReg true 0x400020 v = s.setFields 0x400020 v [rwR 9 0 100 1 1000] := by
  simp [State.writeReg, regAt_demoteWait, State.absentReg, State.alignOf, State.settable, State.and_presentBits, Nat.mod_one]

theorem State.writeReg_pwrLimit (s : State) (v : W64) :
    s.writeReg true 0x10218 v = s.setFields 0x10218 v [rwlR 11 0 2300 500 2300] := by
  simp [State.writeReg, regAt_pwrLimit, State.absentReg, State.alignOf, State.settable, State.and_presentBits, Nat.mod_one]

/-- A register with one field that is kept within a range (R450). -/
theorem State.setFields_one (s : State) (off : Nat) (v : W64) {f : RField} (h : s.takesValue off f = true) :
    s.setFields off v [f] = if bits v f.hi f.lo < f.min ∨ f.max < bits v f.hi f.lo then s
      else s.setReg off (setBits (s.rd off) f.hi f.lo (bits v f.hi f.lo)) := by
  simp [State.setFields, State.fieldsAfter, h]

theorem State.setFields_one_locked (s : State) (off : Nat) (v : W64) {f : RField} (h : f.acc = .rwl) (ht : s.takesValue off f = false) :
    s.setFields off v [f] = s.setReg off (s.rd off) := by
  simp [State.setFields, State.fieldsAfter, h, ht]

/-- A register that is written with its own value reads as before. -/
theorem State.rd_setReg_rd (s : State) (o k : Nat) : (s.setReg o (s.rd o)).rd k = s.rd k := by
  by_cases h : k = o
  · rw [h, State.rd_setReg]
  · exact s.rd_setReg_ne _ h

theorem execRegisterWrite_mgmt (off : BitVec 24) (v : W64) (s : State) (ha : off.toNat % 8 = 0) (hr : s.mgmtReaches off.toNat = true) :
    exec (.registerWrite .mgmt off v) s = .next (s.writeReg true off.toNat v) := by
  simp [exec, execRegisterWrite, ha, hr]

theorem State.mgmtReaches_of_powered {s : State} (h : s.powered = true) (o : Nat) : s.mgmtReaches o = true := by
  simp [State.mgmtReaches, h]

theorem State.takesValue_pwrLimit (s : State) :
    s.takesValue 0x10218 (rwlR 11 0 2300 500 2300) = !(s.rd 0x10208).getLsbD 0 := rfl

theorem regAt_partFrames : ∀ p, p < 16 → regAt (pReg p 8) = some ⟨⟨.seqPartFrames, 0x80008, [(0x1000, 16)], [rwF 63 0 0]⟩, [p]⟩ := by
  decide

theorem State.partFrames_present (s : State) {p f : Nat} (hp : p < 16) (hf : s.design.rods / 8 ≤ f) :
    (s.readReg (pReg p 8)).1.getLsbD f = false := by
  have hbit : (w64 (2 ^ (s.design.rods / 8) - 1)).getLsbD f = false := by
    rw [w64, BitVec.getLsbD_ofNat, Nat.testBit_two_pow_sub_one]
    simp [hf]
  simp [State.readReg, regAt_partFrames p hp, State.absentReg, State.presentBits, hbit]

/-! ### HAP_LOOP_CTRL -/

/-- What the loop over the channels has done to HAP_LOOP_CTRL before channel `n`. -/
structure LoopWritten (s : State) (v : W64) (n : Nat) (u : State) : Prop where
  frame : u = { s with regs := u.regs }
  home : ∀ t, u.home t = s.home t
  done : ∀ c, c < n → ((∀ k, k < 64 → s.home k = c → (s.ten k).st = .detached) → (u.rd 0x700010).getLsbD c = v.getLsbD c) ∧
    ((∃ k, k < 64 ∧ s.home k = c ∧ (s.ten k).st ≠ .detached) → (u.rd 0x700010).getLsbD c = (s.rd 0x700010).getLsbD c)
  rest : ∀ c, n ≤ c → (u.rd 0x700010).getLsbD c = (s.rd 0x700010).getLsbD c

/-- Whether every tenant homed on a channel is DETACHED. -/
def State.loopFree (s : State) (c : Nat) : Bool := (List.range 64).all (fun t => s.home t != c || decide ((s.ten t).st = .detached))

theorem State.loopFree_iff (s : State) (c : Nat) :
    s.loopFree c = true ↔ ∀ k, k < 64 → s.home k = c → (s.ten k).st = .detached := by
  simp only [State.loopFree, List.all_eq_true, List.mem_range, Bool.or_eq_true, bne_iff_ne, decide_eq_true_eq]
  exact forall₂_congr fun k _ => ⟨fun h e => h.resolve_left (not_not_intro e), fun h => (em _).elim (fun e => .inr (h e)) .inl⟩

theorem LoopWritten.step {s u : State} {v : W64} {n : Nat} (hn : n < 4) (h : LoopWritten s v n u) :
    LoopWritten s v (n + 1) (if u.loopFree n then u.setRf 0x700010 n n (b2n (bit v n)) else u) := by
  have hten : u.ten = s.ten := by rw [h.frame]; rfl
  have hfree : u.loopFree n = true ↔ ∀ k, k < 64 → s.home k = n → (s.ten k).st = .detached := by
    rw [State.loopFree_iff, hten]
    simp [h.home]
  split
  · next hf =>
    have hbit (c : Nat) : ((u.setRf 0x700010 n n (b2n (bit v n))).rd 0x700010).getLsbD c =
        if n = c then v.getLsbD n else (u.rd 0x700010).getLsbD c := by
      rw [State.setRf, State.rd_setReg, getLsbD_setBits _ _ _ (by omega) (le_refl n)]
      by_cases hc : n = c
      · subst hc
        cases hv : v.getLsbD n <;> simp [b2n, bit, hv]
      · rw [if_neg (by omega), if_neg hc]
    refine ⟨by rw [h.frame]; rfl, fun t => ?_, fun c hc => ?_, fun c hc => ?_⟩
    · rw [State.home, State.rf, State.rd_setRf_ne _ _ _ _ (by omega)]
      exact h.home t
    · rw [hbit]
      by_cases hcn : n = c
      · subst hcn
        exact ⟨fun _ => if_pos rfl, fun ⟨k, hk, hh, hd⟩ => absurd (hfree.mp hf k hk hh) hd⟩
      · rw [if_neg hcn]
        exact h.done c (by omega)
    · rw [hbit, if_neg (by omega)]
      exact h.rest c (by omega)
  · next hf =>
    refine ⟨h.frame, h.home, fun c hc => ?_, fun c hc => h.rest c (by omega)⟩
    by_cases hcn : c = n
    · subst hcn
      exact ⟨fun hall => absurd (hfree.mpr hall) hf, fun _ => h.rest c le_rfl⟩
    · exact h.done c (by omega)

theorem State.loopCtrl_written (s : State) (v : W64) : LoopWritten s v 4 (s.loopCtrl v) := by
  have h0 : LoopWritten s v 0 s := ⟨rfl, fun _ => rfl, fun _ hc => absurd hc (Nat.not_lt_zero _), fun _ _ => rfl⟩
  exact (((h0.step (by decide)).step (by decide)).step (by decide)).step (by decide)

/-! ### Management requests, and the statement -/

theorem execManagementRequest_reached (wr : Bool) (addr : BitVec 24) (v : W64) (s : State) (ha : addr.toNat % 8 = 0)
    (hr : regAt addr.toNat ≠ none) (hm : s.mgmtReaches addr.toNat = true) :
    exec (.managementRequest wr addr v) s = .next (if wr then (s.writeReg true addr.toNat v).send (.mgmt 0 (s.imgErr addr.toNat v))
      else (s.readReg addr.toNat).2.send (.mgmt (s.readReg addr.toNat).1 false)) := by
  simp [exec, execManagementRequest, ha, hm, Option.isNone_iff_eq_none, hr]

theorem State.imgErr_of_other (s : State) {o : Nat} (v : W64) (h : o ∉ [0x1000, 0x1008, 0x1010]) : s.imgErr o v = false := by
  simp only [List.mem_cons, List.not_mem_nil, or_false, not_or] at h
  obtain ⟨h1, h2, h3⟩ := h
  simp [State.imgErr, h1, h2, h3]

theorem State.writeReg_reserved (s : State) (m : Bool) {o : Nat} (v : W64) (h : regAt o = none) : s.writeReg m o v = s := by
  simp [State.writeReg, h]

/-- Settles O55: a write by its path, offset and reach, then the registers with a range or a lock, the loopback bits channel by channel, and
management requests. That a write out of range is ignored whole and that HAP_LOOP_CTRL holds a bit for each channel are the model's choice
(log entries 68 and 74). -/
theorem registerWindowAccess : Obligations.RegisterWindowAccess := by
  refine ⟨fun s off v t => ?_, fun s p hp f hf _ => s.partFrames_present hp hf, fun s v hpow => ?_, fun s v hl => ?_,
    fun s wr addr v => ⟨fun h => ?_, fun ha hr hm => ⟨execManagementRequest_reached false addr v s ha hr hm,
      execManagementRequest_reached true addr v s ha hr hm, s.imgErr_of_other v⟩⟩⟩
  · refine ⟨fun ho => ⟨?_, fun hu hatt => ?_⟩, fun h => ?_, fun hr => ?_, fun hr => ⟨fun ho => ?_, ?_⟩,
      fun ho hu hatt hr => ?_, execRegisterWrite_mgmt off v s⟩
    · simp [exec, execRegisterWrite, ho]
    · simp [exec, execRegisterWrite, ho, hu, hatt]
    · rcases h with h | h | ⟨h1, h2⟩
      · simp [exec, execRegisterWrite, h]
      · simp [exec, execRegisterWrite, h]
      · simp [exec, execRegisterWrite, h1, h2]
    · simp [exec, execRegisterWrite, hr]
    · simp [exec, execRegisterWrite, ho, s.writeReg_reserved false v hr]
    · simp [exec, execRegisterWrite, s.writeReg_reserved true v hr]
    · simp [exec, execRegisterWrite, ho, hu, hatt, hr]
  · intro d
    have hd : exec (.registerWrite .mgmt 0x400020#24 v) s = .next (s.setFields 0x400020 v [rwR 9 0 100 1 1000]) := by
      rw [execRegisterWrite_mgmt _ v s rfl (s.mgmtReaches_of_powered hpow _)]
      exact congrArg _ (s.writeReg_demoteWait v)
    have hp : exec (.registerWrite .mgmt 0x10218#24 v) s = .next (s.setFields 0x10218 v [rwlR 11 0 2300 500 2300]) := by
      rw [execRegisterWrite_mgmt _ v s rfl (s.mgmtReaches_of_powered hpow _)]
      exact congrArg _ (s.writeReg_pwrLimit v)
    rw [hd, hp, s.setFields_one 0x400020 v rfl]
    refine ⟨fun h1 h2 => congrArg _ (if_neg (not_or.mpr ⟨Nat.not_lt.mpr h1, Nat.not_lt.mpr h2⟩)), fun h => congrArg _ (if_pos ?_), ?_⟩
    · exact h.imp_left fun (h0 : d = 0) => Nat.lt_one_iff.mpr h0
    · intro w
      refine ⟨fun hk h1 h2 => ?_, fun hk h => ?_, fun hk => ⟨_, rfl, ?_⟩⟩
      · rw [s.setFields_one 0x10218 v (by rw [s.takesValue_pwrLimit, hk]; rfl)]
        exact congrArg _ (if_neg (not_or.mpr ⟨Nat.not_lt.mpr h1, Nat.not_lt.mpr h2⟩))
      · rw [s.setFields_one 0x10218 v (by rw [s.takesValue_pwrLimit, hk]; rfl)]
        exact congrArg _ (if_pos h)
      · rw [s.setFields_one_locked 0x10218 v rfl (by rw [s.takesValue_pwrLimit, hk]; rfl)]
        exact ⟨rfl, s.rd_setReg_rd _⟩
  · have h := s.loopCtrl_written v
    exact ⟨_, by simp [exec, execHapLoopCtrl, hl], h.frame, fun c hc => h.done c hc⟩
  · rcases h with h | h | h
    · simp [exec, execManagementRequest, h]
    · simp [exec, execManagementRequest, h]
    · simp [exec, execManagementRequest, h]

end Sys2Proof.Machine
end

section
/-! PROOF. What the local units of a rod leave alone when they start their instructions (03_rods.md R41 to R44): every part of the state but
rods, bead memory with its poison, counters and free values. -/

namespace Sys2Proof.Machine

/-- From `s` to `u` units have acted: rods, bead memory, counters and free values may differ, and nothing else does. -/
structure UnitActed (s u : State) : Prop where
  state : u = { s with
    rods := u.rods, bead := u.bead, beadPoison := u.beadPoison, regs := u.regs, flt := { s.flt with poisonWr := u.flt.poisonWr }, free := u.free }
  regs : ∀ o, o < 0x48000 ∨ 0x60000 ≤ o → u.rd o = s.rd o

theorem UnitActed.refl (s : State) : UnitActed s s := ⟨rfl, fun _ _ => rfl⟩

theorem UnitActed.trans {s t u : State} (h : UnitActed s t) (k : UnitActed t u) : UnitActed s u := by
  refine ⟨?_, fun o ho => (k.regs o ho).trans (h.regs o ho)⟩
  have hu := k.state
  rw [h.state] at hu
  exact hu

theorem UnitActed.of_rods (s : State) (rods : Sparse Rod) : UnitActed s { s with rods := rods } := ⟨rfl, fun _ _ => rfl⟩

theorem State.bump_acted (s : State) {o : Nat} (ho : 0x48000 ≤ o ∧ o < 0x60000) (n : Nat) : UnitActed s (s.bump o n) := by
  refine ⟨?_, fun k hk => s.rd_bump_ne n (by omega)⟩
  obtain ⟨regs, h⟩ := s.bump_spec o n
  rw [h]

theorem UnitActed.of_poisonWr (s : State) (m : Sparse Nat) : UnitActed s { s with flt := { s.flt with poisonWr := m } } := ⟨rfl, fun _ _ => rfl⟩

theorem State.countPoison_acted (s : State) (p k : Nat) : UnitActed s (s.countPoison p k) := by
  have hb : UnitActed s (s.bump (cntBlk 8) 1) := s.bump_acted (by unfold cntBlk; omega) 1
  exact hb.trans (.of_poisonWr _ _)

section
variable {s0 s : State} (h : UnitActed s0 s)
include h

theorem UnitActed.onRod (ph : Nat) (f : Rod → Rod) : UnitActed s0 (s.onRod ph f) := h.trans (.of_rods s _)

theorem UnitActed.bump {o : Nat} (ho : 0x48000 ≤ o ∧ o < 0x60000) (n : Nat) : UnitActed s0 (s.bump o n) := h.trans (s.bump_acted ho n)

theorem UnitActed.beadWrite (ph off : Nat) (bs : List Byte) : UnitActed s0 (s.beadWrite ph off bs) := h.trans ⟨rfl, fun _ _ => rfl⟩

theorem UnitActed.unorderedWrite (p ph off : Nat) (bs : List Byte) (cl : List (Nat × Nat)) :
    UnitActed s0 (s.unorderedWrite p ph off bs cl) := by
  have hmet : UnitActed s0 (if s.beadWriteMeets ph off bs.length then s.countPoison p (1 + ph) else s) := by
    split
    · exact h.trans (s.countPoison_acted p _)
    · exact h
  unfold State.unorderedWrite
  dsimp only
  split
  · exact (hmet.beadWrite ph off _).trans ⟨rfl, fun _ _ => rfl⟩
  · exact hmet.beadWrite ph off bs

theorem UnitActed.unitWrite (c : Ctx) (off : Nat) (bs : List Byte) (u : Option AUnit) : UnitActed s0 (s.unitWrite c off bs u) :=
  (h.unorderedWrite _ _ _ _ _).onRod _ _

theorem UnitActed.unitRaise (c : Ctx) (cause : Nat) : UnitActed s0 (s.unitRaise c cause) := h.onRod _ _

theorem UnitActed.vdone (c : Ctx) (w : List (Nat × Nat)) : UnitActed s0 (s.vdone c w) := by
  unfold State.vdone
  split
  · exact h.onRod _ _
  · exact h

theorem UnitActed.forEach {α : Type} {f : α → State → State} (hf : ∀ a u, UnitActed s0 u → UnitActed s0 (f a u)) (l : List α) :
    UnitActed s0 (s.forEach l f) := State.forEach_induct hf l h

theorem UnitActed.carryAdd (ph n k : Nat) : UnitActed s0 (s.carryAdd ph n k) := by
  unfold State.carryAdd
  split
  · exact h
  · exact h.beadWrite _ _ _

theorem UnitActed.carryCount {c : Ctx} (hp : c.p < 16) (rows : List CRow) (act : RowClass) (n : Nat) : UnitActed s0 (s.carryCount c rows act n) := by
  have hbad (k : Nat) : UnitActed s0 ((s.carryAdd c.ph 0 k).bump (cntPart c.p 9) k) :=
    (h.carryAdd _ _ _).bump (by unfold cntPart; omega) _
  unfold State.carryCount
  dsimp only
  split
  · exact hbad _
  · exact (hbad _).carryAdd _ _ _

theorem UnitActed.eachRow (rows : List CRow) {f : CRow → State → State} (hf : ∀ r u, UnitActed s0 u → UnitActed s0 (f r u)) :
    UnitActed s0 (s.eachRow rows f) := h.forEach hf rows

theorem UnitActed.vcvtToOp (c : Ctx) : UnitActed s0 (s.vcvtToOp c) := by
  unfold State.vcvtToOp
  split
  · split
    · exact (h.onRod _ _).vdone _ _
    · exact h
  · exact h

theorem UnitActed.vcvtScOp (c : Ctx) : UnitActed s0 (s.vcvtScOp c) := by
  unfold State.vcvtScOp
  split
  · split
    · exact (h.onRod _ _).vdone _ _
    · exact h
  · exact h

theorem UnitActed.vcvtFromOp (c : Ctx) : UnitActed s0 (s.vcvtFromOp c) := by
  unfold State.vcvtFromOp
  split
  · split
    · exact (h.onRod _ _).vdone _ _
    · exact h
  · exact h

theorem UnitActed.vecOp (c : Ctx) : UnitActed s0 (s.vecOp c) := by
  unfold State.vecOp
  split
  · exact (h.onRod _ _).vdone _ _
  · exact h

theorem UnitActed.vldOp (c : Ctx) : UnitActed s0 (s.vldOp c) := by
  unfold State.vldOp
  split
  · dsimp only
    split
    · exact h.unitRaise _ _
    · split
      · exact h.unitRaise _ _
      · exact (h.onRod _ _).vdone _ _
  · exact h

theorem UnitActed.vstOp (c : Ctx) : UnitActed s0 (s.vstOp c) := by
  unfold State.vstOp
  split
  · dsimp only
    split
    · exact h.unitRaise _ _
    · exact (h.unitWrite _ _ _ _).vdone _ _
  · exact h

theorem UnitActed.accOp (c : Ctx) : UnitActed s0 (s.accOp c) := by
  unfold State.accOp
  split
  · exact (h.onRod _ _).vdone _ _
  · exact h

theorem UnitActed.mma (c : Ctx) : UnitActed s0 (s.mma c) := by
  unfold State.mma
  split
  · dsimp only
    split
    · exact h.unitRaise _ _
    · exact (h.onRod _ _).vdone _ _
  · exact h

theorem UnitActed.carryMap {c : Ctx} (hp : c.p < 16) (a : Nat) : UnitActed s0 (s.carryMap c a) := by
  unfold State.carryMap
  dsimp only
  split
  · exact h.unitRaise _ _
  · split
    · exact h.unitRaise _ _
    · split
      · exact h.unitRaise _ _
      · split
        · exact (h.onRod _ _).vdone _ _
        · exact ((((h.onRod _ _).carryAdd _ _ _).beadWrite _ _ _).bump (by unfold cntPart; omega) _).vdone _ _

theorem UnitActed.carryMix {c : Ctx} (hp : c.p < 16) (a b : Nat) : UnitActed s0 (s.carryMix c a b) := by
  unfold State.carryMix
  dsimp only
  split
  · exact h.unitRaise _ _
  · split
    · exact (h.carryCount hp _ _ _).vdone _ _
    · exact ((h.forEach (fun _ _ hu => hu.unitWrite _ _ _ _) _).carryCount hp _ _ _).vdone _ _

theorem UnitActed.carryDown {c : Ctx} (hp : c.p < 16) (a b : Nat) : UnitActed s0 (s.carryDown c a b) := by
  unfold State.carryDown
  dsimp only
  split
  · exact h.unitRaise _ _
  · exact ((h.unitWrite _ _ _ _).carryCount hp _ _ _).vdone _ _

theorem UnitActed.carryUp {c : Ctx} (hp : c.p < 16) (t a b : Nat) : UnitActed s0 (s.carryUp c t a b) := by
  unfold State.carryUp
  dsimp only
  split
  · exact h.unitRaise _ _
  · exact ((h.eachRow _ fun _ _ hu => hu.onRod _ _).carryCount hp _ _ _).vdone _ _

theorem UnitActed.carryAddRows {c : Ctx} (hp : c.p < 16) (t a : Nat) : UnitActed s0 (s.carryAddRows c t a) := by
  unfold State.carryAddRows
  dsimp only
  split
  · exact h.unitRaise _ _
  · exact ((h.eachRow _ fun _ _ hu => hu.onRod _ _).carryCount hp _ _ _).vdone _ _

/-- The function code selects one of five. -/
theorem UnitActed.carryFn {c : Ctx} (hp : c.p < 16) : UnitActed s0 (s.carryFn c) := by
  unfold State.carryFn
  split
  · dsimp only
    split_ifs
    · exact h.carryMap hp _
    · exact h.carryMix hp _ _
    · exact h.carryDown hp _ _
    · exact h.carryUp hp _ _ _
    · exact h.carryAddRows hp _ _
  · exact h

theorem UnitActed.runOp {c : Ctx} (hp : c.p < 16) : UnitActed s0 (s.runOp c) := by
  unfold State.runOp
  split
  · split_ifs
    · exact h.vcvtToOp c
    · exact h.vcvtScOp c
    · exact h.vcvtFromOp c
    · exact h.vecOp c
  · exact h.vldOp c
  · exact h.vstOp c
  · exact h.accOp c
  · exact h.mma c
  · exact h.carryFn hp
  · exact h

theorem UnitActed.startHead (l : Nat) (u : AUnit) : UnitActed s0 (s.startHead l u) := by
  unfold State.startHead
  dsimp only
  split
  · next _ _ _ hpart =>
    split
    · exact (h.onRod _ _).runOp (List.mem_range.mp (List.mem_of_find?_eq_some hpart))
    · exact h
  · exact h

theorem UnitActed.startUnits (l : Nat) : UnitActed s0 (s.startUnits l) := ((h.startHead l _).startHead l _).startHead l _

theorem UnitActed.startPart (p : Nat) : UnitActed s0 (s.startPart p) := h.forEach (fun l _ hu => hu.startUnits l) _

end

section
variable {s u : State} (h : UnitActed s u)
include h

theorem UnitActed.parts : u.parts = s.parts := by rw [h.state]
theorem UnitActed.chans : u.chans = s.chans := by rw [h.state]
theorem UnitActed.hbm : u.hbm = s.hbm := by rw [h.state]
theorem UnitActed.time : u.time = s.time := by rw [h.state]
theorem UnitActed.pwr : u.pwr = s.pwr := by rw [h.state]
theorem UnitActed.tier : u.tier = s.tier := by rw [h.state]
theorem UnitActed.out : u.out = s.out := by rw [h.state]
theorem UnitActed.part (p : Nat) : u.part p = s.part p := congrArg (Sparse.get Part.init · p) h.parts
theorem UnitActed.chan (c : Nat) : u.chan c = s.chan c := congrArg (Sparse.get Chan.init · c) h.chans

end

/-- A rod whose three queues are empty has nothing to start. -/
def Rod.unitsEmpty (r : Rod) : Prop := r.mq = [] ∧ r.vq = [] ∧ r.cq = []

theorem Rod.queueOf_of_unitsEmpty {r : Rod} (h : r.unitsEmpty) (u : AUnit) : r.queueOf u = [] := by
  obtain ⟨hm, hv, hc⟩ := h
  cases u
  · exact hm
  · exact hv
  · exact hc
  · rfl

theorem State.startHead_of_empty {s : State} {l : Nat} (h : (s.rod (s.phys l)).unitsEmpty) (u : AUnit) : s.startHead l u = s := by
  simp [State.startHead, Rod.queueOf_of_unitsEmpty h]

theorem State.startUnits_of_empty {s : State} {l : Nat} (h : (s.rod (s.phys l)).unitsEmpty) : s.startUnits l = s := by
  rw [State.startUnits, State.startHead_of_empty h, State.startHead_of_empty h, State.startHead_of_empty h]

/-- A run of acts that each leave a state as it is. -/
theorem State.forEach_id {α : Type} {f : α → State → State} {s : State} (h : ∀ a, f a s = s) : ∀ l : List α, s.forEach l f = s
  | [] => rfl
  | a :: l => (congrArg (State.forEach l f) (h a)).trans (State.forEach_id h l)

theorem State.startPart_of_empty {s : State} (h : ∀ ph, (s.rod ph).unitsEmpty) (p : Nat) : s.startPart p = s :=
  State.forEach_id (fun _ => State.startUnits_of_empty (h _)) _

/-- Every rod that a table lists, and so every rod, has a property that a rod at reset has. -/
theorem Sparse.get_of_forall {α : Type} {P : α → Prop} {d : α} (hd : P d) :
    ∀ {m : Sparse α}, (∀ e ∈ m, P e.2) → ∀ k, P (Sparse.get d m k)
  | [], _, _ => hd
  | (a, v) :: r, h, k => by
    rw [Sparse.get]
    split
    · exact h (a, v) List.mem_cons_self
    · exact Sparse.get_of_forall hd (fun e he => h e (List.mem_cons_of_mem _ he)) k

end Sys2Proof.Machine
end

section
/-! PROOF. Halt, its release and its discrepancy bit, and the pending events (17_faults_and_recovery.md R389, R390;
19_ports_clocks_power_reset.md R433). -/

namespace Sys2Proof.Machine

/-! ### Actions that each concern one element of a list -/

/-- Where the elements differ, each one's action finds what held of it before and brings about its result, and no other's disturbs either. -/
theorem State.forEach_once {α : Type} {I : State → Prop} {P Q : α → State → Prop} {f : α → State → State} (hI : ∀ a u, I u → I (f a u))
    (hset : ∀ a u, I u → P a u → Q a (f a u)) (hP : ∀ a b u, I u → a ≠ b → P a u → P a (f b u))
    (hQ : ∀ a b u, I u → a ≠ b → Q a u → Q a (f b u)) :
    ∀ (l : List α) {s : State}, l.Nodup → I s → (∀ a ∈ l, P a s) → ∀ a ∈ l, Q a (s.forEach l f)
  | [], _, _, _, _ => fun _ ha => absurd ha List.not_mem_nil
  | b :: l, s, hd, hs, hl => by
    obtain ⟨hb, hd⟩ := List.nodup_cons.mp hd
    intro a ha
    rcases List.mem_cons.mp ha with rfl | ha
    · have hrest : ∀ (r : List α) (u : State), a ∉ r → I u ∧ Q a u → Q a (u.forEach r f) := by
        intro r
        induction r with
        | nil => exact fun u _ h => h.2
        | cons c r ih =>
          exact fun u hr h => ih (f c u) (fun e => hr (List.mem_cons_of_mem _ e))
            ⟨hI c u h.1, hQ a c u h.1 (fun e => hr (e ▸ List.mem_cons_self)) h.2⟩
      exact hrest l _ hb ⟨hI a s hs, hset a s hs (hl a List.mem_cons_self)⟩
    · refine State.forEach_once hI hset hP hQ l hd (hI b s hs) (fun c hc => ?_) a ha
      exact hP c b s hs (fun e => hb (e ▸ hc)) (hl c (List.mem_cons_of_mem _ hc))

/-- A bit of a register one field of which is stored. -/
theorem State.getLsbD_setRf (s : State) (o : Nat) {hi lo : Nat} (v i : Nat) (hhi : hi < 64) (hlo : lo ≤ hi) :
    ((s.setRf o hi lo v).rd o).getLsbD i = if lo ≤ i ∧ i ≤ hi then v.testBit (i - lo) else (s.rd o).getLsbD i := by
  rw [State.setRf, State.rd_setReg, getLsbD_setBits _ _ _ hhi hlo]

/-! ### Halt takes effect -/

/-- A partition when a halt takes effect. -/
def Part.halt (x : Part) : Part := if x.st = .running then { x with st := .held, hold := 2, haltHeld := true } else x

theorem State.haltParts_spec (s : State) : (∃ parts, s.haltParts = { s with parts := parts }) ∧
    ∀ p, p < 16 → s.haltParts.part p = (s.part p).halt := by
  refine ⟨?_, fun p hp => ?_⟩
  · refine State.forEach_induct (P := fun u => ∃ parts, u = { s with parts := parts }) (fun a u ⟨parts, hu⟩ => ?_) _ ⟨_, rfl⟩
    split
    · exact ⟨_, by rw [hu]; rfl⟩
    · exact ⟨_, hu⟩
  · refine State.forEach_once (I := fun _ => True) (P := fun p u => u.part p = s.part p) (Q := fun p u => u.part p = (s.part p).halt)
      (fun _ _ h => h) (fun p u _ h => ?_) (fun p q u _ hpq h => ?_) (fun p q u _ hpq h => ?_) _ List.nodup_range trivial (fun _ _ => rfl) p
      (List.mem_range.mpr hp)
    · rw [Part.halt, ← h]
      split
      · exact State.part_setPart _ _ _
      · rfl
    · split
      · exact (State.part_setPart_ne _ _ hpq).trans h
      · exact h
    · split
      · exact (State.part_setPart_ne _ _ hpq).trans h
      · exact h

/-! ### Halt is released -/

/-- What the release does for one partition, `dt` being the time of the halt. -/
def State.resumePart (dt : W64) (p : Nat) (s : State) : State :=
  let x := s.part p
  if !x.haltHeld || s.pwr.thermtrip then s
  else
    let s3 := s.setPart p { x with haltHeld := false, wdog := x.wdog + dt }
    if x.st = .held && x.hold = 2 then ((s3.onPart p (fun y => { y with st := .running, hold := 0 })).holdGroups p).startPart p
    else s3

/-- What the release does for one channel: the answers held back leave. -/
def State.flushAnswers (c : Nat) (s : State) : State :=
  let x := s.chan c
  x.answers.foldl (fun s m => s.send (.host c m.hdr m.data)) (s.setChan c { x with answers := [] })

theorem State.releaseHalt_eq (s : State) : s.releaseHalt =
    State.forEach (List.range 4) State.flushAnswers
      (State.forEach (List.range 16) (State.resumePart (s.time - s.flt.haltSince)) (s.setRf 0x30108 0 0 0)) := rfl

/-- The partitions have changed, and units may have acted. -/
def Resumed (s u : State) : Prop := UnitActed { s with parts := u.parts } u

theorem State.setPart_resumed (s : State) (p : Nat) (x : Part) : Resumed s (s.setPart p x) := .refl _

theorem Resumed.trans {s t u : State} (h : Resumed s t) (k : Resumed t u) : Resumed s u := by
  have ht : UnitActed { s with parts := u.parts } { t with parts := u.parts } :=
    ⟨by rw [h.state], fun o ho => h.regs o ho⟩
  exact ht.trans k

theorem UnitActed.resumed {s u : State} (h : UnitActed s u) : Resumed s u := by
  refine ⟨?_, h.regs⟩
  rw [h.state]

/-- A partition that only halt holds, after the release. -/
def Part.resumed (x y : Part) (dt : W64) : Prop :=
  (x.haltHeld = false → y = x) ∧ (x.haltHeld = true → x.st = .held → x.hold = 2 →
    y.st = .running ∧ y.opened = x.opened ∧ y.wdog = x.wdog + dt)

theorem State.resumePart_resumed (s : State) (dt : W64) (p : Nat) : Resumed s (s.resumePart dt p) := by
  unfold State.resumePart
  dsimp only
  split
  · exact .refl s
  · split
    · refine Resumed.trans ?_ ((UnitActed.refl _).startPart p).resumed
      exact ((s.setPart_resumed p _).trans (State.setPart_resumed _ p _)).trans (State.setPart_resumed _ p _)
    · exact s.setPart_resumed p _

theorem State.resumePart_part (s : State) (dt : W64) (p : Nat) (ht : s.pwr.thermtrip = false) :
    (s.part p).resumed ((s.resumePart dt p).part p) dt := by
  unfold State.resumePart
  dsimp only
  split
  · next hx => exact ⟨fun _ => rfl, fun hh => by simp [hh, ht] at hx⟩
  · next hx =>
    refine ⟨fun hh => by simp [hh] at hx, fun _ hst hhold => ?_⟩
    rw [if_pos (by simp [hst, hhold]), ((UnitActed.refl _).startPart p).part, State.holdGroups, State.onPart, State.part_setPart,
      State.onPart, State.part_setPart, State.part_setPart]
    exact ⟨rfl, rfl, rfl⟩

theorem State.resumePart_part_ne (s : State) (dt : W64) {p q : Nat} (h : q ≠ p) : (s.resumePart dt p).part q = s.part q := by
  unfold State.resumePart
  dsimp only
  split
  · rfl
  · split
    · rw [((UnitActed.refl _).startPart p).part, State.holdGroups, State.onPart, State.part_setPart_ne _ _ h, State.onPart,
        State.part_setPart_ne _ _ h, State.part_setPart_ne _ _ h]
    · exact s.part_setPart_ne _ h

/-- Units that hold nothing have nothing to start. -/
theorem State.resumePart_rods (s : State) (dt : W64) (p : Nat) (h : ∀ ph, (s.rod ph).unitsEmpty) : (s.resumePart dt p).rods = s.rods := by
  unfold State.resumePart
  dsimp only
  split
  · rfl
  · split
    · rw [State.startPart_of_empty (fun ph => by simpa only [State.holdGroups, State.onPart, State.setPart_rod] using h ph)]
      rfl
    · rfl

theorem State.resumeParts_spec (s : State) (dt : W64) (ht : s.pwr.thermtrip = false) :
    ∀ p, p < 16 → (s.part p).resumed ((s.forEach (List.range 16) (State.resumePart dt)).part p) dt := fun p hp => by
  refine State.forEach_once (I := fun u => u.pwr.thermtrip = false) (P := fun p u => u.part p = s.part p)
    (Q := fun p u => (s.part p).resumed (u.part p) dt) (fun q u h => ?_) (fun q u hI h => ?_) (fun q r u _ hqr h => ?_)
    (fun q r u _ hqr h => ?_) _ List.nodup_range ht (fun _ _ => rfl) p (List.mem_range.mpr hp)
  · rw [(u.resumePart_resumed dt q).pwr]
    exact h
  · rw [← h]
    exact u.resumePart_part dt q hI
  · rw [u.resumePart_part_ne dt hqr, h]
  · rw [u.resumePart_part_ne dt hqr]
    exact h

theorem State.resumeParts_resumed (s : State) (dt : W64) : Resumed s (s.forEach (List.range 16) (State.resumePart dt)) :=
  State.forEach_induct (P := Resumed s) (fun p u hu => hu.trans (u.resumePart_resumed dt p)) _ (.refl s)

theorem State.resumeParts_rods (s : State) (dt : W64) (h : ∀ ph, (s.rod ph).unitsEmpty) :
    (s.forEach (List.range 16) (State.resumePart dt)).rods = s.rods := by
  refine State.forEach_induct (P := fun u => u.rods = s.rods) (fun p u hu => ?_) _ rfl
  have hrod (ph : Nat) : u.rod ph = s.rod ph := congrArg (Sparse.get Rod.init · ph) hu
  rw [u.resumePart_rods dt p (fun ph => hrod ph ▸ h ph), hu]

/-- Sending changes what has left the block, and nothing else. -/
theorem State.sendAll_frame {α : Type} (f : α → Output) (l : List α) (s : State) :
    ∃ out, l.foldl (fun s m => s.send (f m)) s = { s with out := out } := by
  induction l generalizing s with
  | nil => exact ⟨_, rfl⟩
  | cons m l ih =>
    obtain ⟨out, h⟩ := ih (s.send (f m))
    exact ⟨out, h⟩

theorem State.flushAnswers_eq (c : Nat) (s : State) : ∃ out, s.flushAnswers c = { s.setChan c { s.chan c with answers := [] } with out := out } :=
  State.sendAll_frame (fun m : OutMsg => Output.host c m.hdr m.data) (s.chan c).answers _

theorem State.flushAnswers_chan (s : State) : ∀ c, c < 4 → ((s.forEach (List.range 4) State.flushAnswers).chan c).answers = [] := fun c hc => by
  refine State.forEach_all (I := fun _ => True) (Q := fun c u => (u.chan c).answers = []) (fun _ _ h => h) (fun c u _ => ?_)
    (fun c d u _ h => ?_) _ trivial c (List.mem_range.mpr hc)
  · obtain ⟨out, hu⟩ := u.flushAnswers_eq c
    rw [hu]
    exact congrArg Chan.answers (u.chan_setChan c _)
  · obtain ⟨out, hu⟩ := u.flushAnswers_eq d
    rw [hu]
    by_cases hcd : c = d
    · subst hcd
      exact congrArg Chan.answers (u.chan_setChan c _)
    · exact (congrArg Chan.answers (u.chan_setChan_ne _ hcd)).trans h

theorem State.flushAnswers_frame (s : State) : ∃ out chans, s.forEach (List.range 4) State.flushAnswers = { s with out := out, chans := chans } := by
  refine State.forEach_induct (P := fun u => ∃ out chans, u = { s with out := out, chans := chans }) (fun c u ⟨out, chans, h⟩ => ?_) _ ⟨_, _, rfl⟩
  obtain ⟨out', hu⟩ := u.flushAnswers_eq c
  rw [hu, h]
  exact ⟨_, _, rfl⟩

theorem State.halted_setRf (s : State) : (s.setRf 0x30108 0 0 0).halted = false := by
  rw [State.halted, bit, State.getLsbD_setRf _ _ _ _ (by decide) (by decide)]
  rfl

/-- The release of a halt: the halt bit clears, partitions resume as `Part.resumed` says, the answers leave. -/
theorem State.releaseHalt_spec (s : State) : s.releaseHalt.halted = false ∧ (∀ o, o < 0x48000 → o ≠ 0x30108 → s.releaseHalt.rd o = s.rd o) ∧
    (∀ i, i ≠ 0 → (s.releaseHalt.rd 0x30108).getLsbD i = (s.rd 0x30108).getLsbD i) ∧
    (∀ c, c < 4 → (s.releaseHalt.chan c).answers = []) ∧
    ((∀ ph, (s.rod ph).unitsEmpty) → s.releaseHalt.rods = s.rods) ∧ s.releaseHalt.hbm = s.hbm ∧
    (s.pwr.thermtrip = false → ∀ p, p < 16 → (s.part p).resumed (s.releaseHalt.part p) (s.time - s.flt.haltSince)) := by
  rw [State.releaseHalt_eq]
  have hr := (s.setRf 0x30108 0 0 0).resumeParts_resumed (s.time - s.flt.haltSince)
  have hrods := (s.setRf 0x30108 0 0 0).resumeParts_rods (s.time - s.flt.haltSince)
  have hparts := (s.setRf 0x30108 0 0 0).resumeParts_spec (s.time - s.flt.haltSince)
  generalize State.forEach (List.range 16) _ _ = u at hr hrods hparts
  have hchan := u.flushAnswers_chan
  obtain ⟨out, chans, hu⟩ := u.flushAnswers_frame
  have hrd (o : Nat) (ho : o < 0x48000) : u.rd o = (s.setRf 0x30108 0 0 0).rd o := hr.regs o (.inl ho)
  rw [hu] at hchan ⊢
  refine ⟨?_, fun o ho hne => ?_, fun i hi => ?_, hchan, fun he => hrods he, hr.hbm, fun ht => hparts ht⟩
  · exact (congrArg (bit · 0) (hrd 0x30108 (by decide))).trans s.halted_setRf
  · exact (hrd o ho).trans (s.rd_setRf_ne _ _ _ hne)
  · refine (congrArg (BitVec.getLsbD · i) (hrd 0x30108 (by decide))).trans ?_
    rw [State.getLsbD_setRf _ _ _ _ (by decide) (by decide), if_neg (by omega)]

theorem State.tryReleaseHalt_of_held {s : State} (h : s.halted = false ∨ (s.rd 0x30108).getLsbD 1 = true ∨ (s.rd 0x30108).getLsbD 2 = true ∨
    (s.rd 0x30108).getLsbD 3 = true) : s.tryReleaseHalt = s := by
  unfold State.tryReleaseHalt
  rcases h with h | h | h | h <;> simp [bit, h]

theorem State.tryReleaseHalt_of_free {s : State} (h : s.halted = true) (h1 : (s.rd 0x30108).getLsbD 1 = false)
    (h2 : (s.rd 0x30108).getLsbD 2 = false) (h3 : (s.rd 0x30108).getLsbD 3 = false) :
    s.tryReleaseHalt = if s.flt.frozen then s.setRf 0x30108 0 0 0 else s.releaseHalt := by
  unfold State.tryReleaseHalt
  simp [bit, h, h1, h2, h3, -BitVec.getLsbD_eq_getElem]

/-! ### The commands -/

section
variable (s : State) (ch : Bool)

theorem State.halted_setRf_of_pos {b : Nat} (hb : 0 < b) (hb' : b < 64) (v : Nat) : (s.setRf 0x30108 b b v).halted = s.halted := by
  rw [State.halted, bit, State.getLsbD_setRf _ _ _ _ hb' le_rfl, if_neg (by omega)]
  rfl

/-- The level bit of the channel that deasserts is clear, the other channel's and the discrepancy bit are as they were. -/
theorem State.deassert_bits :
    ((s.setRf 0x30108 (haltBit ch) (haltBit ch) 0).rd 0x30108).getLsbD (haltBit ch) = false ∧
    ((s.setRf 0x30108 (haltBit ch) (haltBit ch) 0).rd 0x30108).getLsbD (3 - haltBit ch) = (s.rd 0x30108).getLsbD (3 - haltBit ch) ∧
    ((s.setRf 0x30108 (haltBit ch) (haltBit ch) 0).rd 0x30108).getLsbD 3 = (s.rd 0x30108).getLsbD 3 := by
  cases ch <;> simp [haltBit, State.getLsbD_setRf, -BitVec.getLsbD_eq_getElem]

theorem State.halted_deassert : (s.setRf 0x30108 (haltBit ch) (haltBit ch) 0).halted = s.halted := by
  cases ch
  · exact s.halted_setRf_of_pos (by decide) (by decide) 0
  · exact s.halted_setRf_of_pos (by decide) (by decide) 0

theorem execHaltRelease_of_held (h : (s.rd 0x30108).getLsbD (3 - haltBit ch) = true ∨ (s.rd 0x30108).getLsbD 3 = true ∨ s.halted = false) :
    exec (.haltRelease ch) s = .next (s.setRf 0x30108 (haltBit ch) (haltBit ch) 0) := by
  obtain ⟨-, hother, hdisc⟩ := s.deassert_bits ch
  refine congrArg Host.Outcome.next (State.tryReleaseHalt_of_held ?_)
  rw [s.halted_deassert ch, hdisc]
  rcases h with h | h | h
  · rw [← hother] at h
    cases ch
    · exact .inr (.inr (.inl h))
    · exact .inr (.inl h)
  · exact .inr (.inr (.inr h))
  · exact .inl h

theorem execHaltRelease_of_free (h1 : (s.rd 0x30108).getLsbD (3 - haltBit ch) = false) (h3 : (s.rd 0x30108).getLsbD 3 = false)
    (hh : s.halted = true) : exec (.haltRelease ch) s = .next (if s.flt.frozen then (s.setRf 0x30108 (haltBit ch) (haltBit ch) 0).setRf 0x30108 0 0 0
      else (s.setRf 0x30108 (haltBit ch) (haltBit ch) 0).releaseHalt) := by
  obtain ⟨hown, hother, hdisc⟩ := s.deassert_bits ch
  rw [← s.halted_deassert ch] at hh
  refine congrArg Host.Outcome.next ?_
  cases ch
  · exact State.tryReleaseHalt_of_free hh hown (hother.trans h1) (hdisc.trans h3)
  · exact State.tryReleaseHalt_of_free hh (hother.trans h1) hown (hdisc.trans h3)

end

/-- The state in which a first channel has asserted, before the partitions stop. -/
def State.haltNoted (s : State) (ch : Bool) : State :=
  { (s.setRf 0x30108 (haltBit ch) (haltBit ch) 1).setRf 0x30108 0 0 1 with flt := { s.flt with haltSince := s.time } }

theorem State.haltNoted_bits (s : State) (ch : Bool) :
    (s.haltNoted ch).halted = true ∧ ((s.haltNoted ch).rd 0x30108).getLsbD (haltBit ch) = true := by
  have hrd : (s.haltNoted ch).rd 0x30108 = ((s.setRf 0x30108 (haltBit ch) (haltBit ch) 1).setRf 0x30108 0 0 1).rd 0x30108 := rfl
  rw [State.halted, hrd]
  cases ch <;> simp [bit, haltBit, State.getLsbD_setRf, -BitVec.getLsbD_eq_getElem]

theorem execHaltAssert_first {s : State} (ch : Bool) (h : s.halted = false) :
    exec (.haltAssert ch) s = .next (s.haltNoted ch).haltParts := congrArg Host.Outcome.next (if_neg (by simp [h]))

theorem execHaltAssert_again {s : State} (ch : Bool) (h : s.halted = true) :
    exec (.haltAssert ch) s = .next (s.setRf 0x30108 (haltBit ch) (haltBit ch) 1) := congrArg Host.Outcome.next (if_pos h)

/-- Each RUNNING partition is held by halt with its step, the others stay. -/
theorem Part.halt_spec (x : Part) : (x.st = .running → x.halt.st = .held ∧ x.halt.hold = 2 ∧ x.halt.haltHeld = true ∧ x.halt.opened = x.opened) ∧
    (x.st ≠ .running → x.halt = x) :=
  ⟨fun h => by rw [Part.halt, if_pos h]; exact ⟨rfl, rfl, rfl, rfl⟩, fun h => if_neg h⟩

/-! ### The discrepancy bit -/

section
variable (s : State)

theorem State.halted_setRf_disc (v : Nat) : (s.setRf 0x30108 3 3 v).halted = s.halted := s.halted_setRf_of_pos (by decide) (by decide) v

theorem execHaltDiscrepancy_of_ne (h : (s.rd 0x30108).getLsbD 1 ≠ (s.rd 0x30108).getLsbD 2) : exec .haltDiscrepancy s =
    .next ((s.setRf 0x30108 31 16 (max (s.rf 0x30108 31 16) (s.rf 0x30100 15 0))).setRf 0x30108 3 3 1) :=
  congrArg Host.Outcome.next (if_neg (by simpa [bit, -BitVec.getLsbD_eq_getElem] using h))

theorem execHaltDiscrepancy_of_eq (h : (s.rd 0x30108).getLsbD 1 = (s.rd 0x30108).getLsbD 2) : exec .haltDiscrepancy s = .next s :=
  congrArg Host.Outcome.next (if_pos (by simpa [bit, -BitVec.getLsbD_eq_getElem] using h))

/-- A field of a register as a number fits its width. -/
theorem State.rf_lt (o hi lo : Nat) : s.rf o hi lo < 2 ^ (hi + 1 - lo) := Nat.mod_lt _ (Nat.two_pow_pos _)

theorem State.latched_count : s.rf 0x30100 15 0 ≤
    ((s.setRf 0x30108 31 16 (max (s.rf 0x30108 31 16) (s.rf 0x30100 15 0))).setRf 0x30108 3 3 1).rf 0x30108 31 16 := by
  have h1 := s.rf_lt 0x30108 31 16
  have h2 := s.rf_lt 0x30100 15 0
  rw [State.rf_setRf_disjoint _ _ _ (by decide) (by decide) (by decide), State.rf_setRf_same _ _ _ (by decide) (by decide), Nat.mod_eq_of_lt]
  · exact le_max_right _ _
  · exact max_lt h1 h2

theorem execDiscrepancyClear_of_ne (h : (s.rd 0x30108).getLsbD 1 ≠ (s.rd 0x30108).getLsbD 2) : exec .discrepancyClear s = .next s :=
  congrArg Host.Outcome.next (if_neg (by simpa [bit, -BitVec.getLsbD_eq_getElem] using h))

theorem execDiscrepancyClear_of_eq (h : (s.rd 0x30108).getLsbD 1 = (s.rd 0x30108).getLsbD 2) :
    exec .discrepancyClear s = .next (s.setRf 0x30108 3 3 0).tryReleaseHalt :=
  congrArg Host.Outcome.next (if_pos (by simpa [bit, -BitVec.getLsbD_eq_getElem] using h))

/-- Clearing the discrepancy bit leaves the levels of the channels. -/
theorem State.clearDisc_bits : ((s.setRf 0x30108 3 3 0).rd 0x30108).getLsbD 3 = false ∧
    ((s.setRf 0x30108 3 3 0).rd 0x30108).getLsbD 1 = (s.rd 0x30108).getLsbD 1 ∧
    ((s.setRf 0x30108 3 3 0).rd 0x30108).getLsbD 2 = (s.rd 0x30108).getLsbD 2 := by
  simp [State.getLsbD_setRf, -BitVec.getLsbD_eq_getElem]

theorem execDiscrepancyClear_releases (h1 : (s.rd 0x30108).getLsbD 1 = false) (h2 : (s.rd 0x30108).getLsbD 2 = false) (hh : s.halted = true) :
    ∃ t, exec .discrepancyClear s = .next t ∧ t.halted = false ∧ (t.rd 0x30108).getLsbD 3 = false := by
  obtain ⟨b3, b1, b2⟩ := s.clearDisc_bits
  refine ⟨_, execDiscrepancyClear_of_eq s (h1.trans h2.symm), ?_⟩
  rw [State.tryReleaseHalt_of_free ((s.halted_setRf_disc 0).trans hh) (b1.trans h1) (b2.trans h2) b3]
  split
  · refine ⟨State.halted_setRf _, ?_⟩
    rw [State.getLsbD_setRf _ _ _ _ (by decide) (by decide), if_neg (by decide), b3]
  · obtain ⟨hhalt, -, hbits, -⟩ := (s.setRf 0x30108 3 3 0).releaseHalt_spec
    exact ⟨hhalt, (hbits 3 (by decide)).trans b3⟩

end

/-! ### FLT_HALT_N and FLT_EVT_PEND, and the statement -/

section
variable (s : State) (v : W64)

theorem execFltHaltN_of_pos (h : bits v 15 0 ≠ 0) : exec (.fltHaltN v) s =
    .next (if (s.rd 0x30108).getLsbD 1 ≠ (s.rd 0x30108).getLsbD 2 ∧ bits v 15 0 ≤ s.rf 0x30108 31 16 then
      (s.setReg 0x30100 (w64 (bits v 15 0))).setRf 0x30108 3 3 1 else s.setReg 0x30100 (w64 (bits v 15 0))) := by
  simp only [exec, execFltHaltN, State.setHaltN, if_neg h, bit, Bool.and_eq_true, bne_iff_ne, decide_eq_true_eq, State.rf]
  congr

/-- The events are 15 bits. -/
theorem State.clearEvents_bits (k : Nat) : ((s.clearEvents v).rd 0x30118).getLsbD k =
    ((s.rd 0x30118).getLsbD k && !(v.getLsbD k && decide (k < 15))) := by
  have hmask : (0x7FFF#64).getLsbD k = decide (k < 15) := by
    rw [show (0x7FFF#64) = BitVec.ofNat 64 (2 ^ 15 - 1) from rfl, BitVec.getLsbD_ofNat, Nat.testBit_two_pow_sub_one]
    by_cases hk : k < 15
    · simp [hk, show k < 64 by omega]
    · simp [hk]
  rw [State.clearEvents, State.rd_setReg, BitVec.getLsbD_and, BitVec.getLsbD_not, BitVec.getLsbD_and, hmask]
  by_cases hk : k < 64
  · simp [hk]
  · simp [BitVec.getLsbD_of_ge _ k (Nat.le_of_not_lt hk)]

end

/-- Settles O47: assertion, release and the discrepancy bit through the bits of FLT_HALT_STATUS; what a release does for partitions, channels
and units is `releaseHalt_spec`. -/
theorem haltAndEventRegisters : Obligations.HaltAndEventRegisters := by
  refine ⟨fun s ch => ⟨execHaltAssert_again ch, fun h => ?_⟩, fun s ch => ⟨execHaltRelease_of_held s ch, fun h1 h3 hh hf => ?_,
      fun h1 h3 hh ht hf => ?_⟩,
    fun s => ⟨execHaltDiscrepancy_of_eq s, fun h => ?_, execDiscrepancyClear_of_ne s, fun h hw => ?_, execDiscrepancyClear_releases s⟩,
    fun s v => ⟨fun h => congrArg Host.Outcome.next (if_pos h), fun hn h => ?_, fun hn hne hle => ?_, ⟨_, rfl, rfl, s.clearEvents_bits v⟩⟩⟩
  · obtain ⟨⟨parts, hf⟩, hparts⟩ := (s.haltNoted ch).haltParts_spec
    obtain ⟨hhalt, hbit⟩ := s.haltNoted_bits ch
    refine ⟨_, execHaltAssert_first ch h, ?_⟩
    rw [hf] at hparts ⊢
    refine ⟨hhalt, hbit, rfl, rfl, rfl, fun p hp => ?_⟩
    rw [hparts p hp]
    exact (s.part p).halt_spec
  · rw [execHaltRelease_of_free s ch h1 h3 hh, if_pos hf]
    rfl
  · obtain ⟨hhalt, -, -, hchan, hrods, hhbm, hparts⟩ := (s.setRf 0x30108 (haltBit ch) (haltBit ch) 0).releaseHalt_spec
    refine ⟨_, execHaltRelease_of_free s ch h1 h3 hh, ?_⟩
    rw [if_neg (by simp [hf])]
    exact ⟨hhalt, fun he => ⟨hrods (Sparse.get_of_forall ⟨rfl, rfl, rfl⟩ he), hhbm⟩, hchan, fun p hp => (hparts ht p hp).symm⟩
  · exact ⟨_, execHaltDiscrepancy_of_ne s h, by rw [State.getLsbD_setRf _ _ _ _ (by decide) (by decide)]; rfl, rfl, s.latched_count,
      (State.halted_setRf_disc _ _).trans (by
        rw [State.halted, bit, State.getLsbD_setRf _ _ _ _ (by decide) (by decide), if_neg (by decide)]; rfl)⟩
  · obtain ⟨b3, b1, b2⟩ := s.clearDisc_bits
    rw [execDiscrepancyClear_of_eq s h, State.tryReleaseHalt_of_held]
    rw [s.halted_setRf_disc, b1]
    exact hw.symm.imp_right .inl
  · rw [execFltHaltN_of_pos s v hn, if_neg]
    exact fun ⟨h1, h2⟩ => h.elim h1 (fun h => absurd h2 (Nat.not_le.mpr h))
  · refine ⟨_, execFltHaltN_of_pos s v hn, ?_⟩
    rw [if_pos ⟨hne, hle⟩]
    refine ⟨(State.rd_setRf_ne _ _ _ _ (by decide)).trans (s.rd_setReg _ _), ?_⟩
    rw [State.getLsbD_setRf _ _ _ _ (by decide) (by decide)]
    rfl

end Sys2Proof.Machine
end

section
/-! PROOF. Power-on, cold and warm resets (19_ports_clocks_power_reset.md R422, R423, R428 to R430): first the registers that a reset
keeps, then each reset as a whole, then its inputs. -/

namespace Sys2Proof.Machine

/-! ### The registers that a reset keeps -/

/-- A table cut down to the keys that a reset keeps. -/
theorem Sparse.get_filter_key {α : Type} (d : α) (p : Nat → Bool) (k : Nat) :
    ∀ m : Sparse α, Sparse.get d (m.filter (fun e => p e.1)) k = if p k then Sparse.get d m k else d
  | [] => (ite_self d).symm
  | (a, v) :: r => by
    have ih := Sparse.get_filter_key d p k r
    rw [List.filter_cons]
    by_cases hk : k = a
    · subst hk
      cases hp : p k <;> simp [hp, Sparse.get, ih]
    · cases hp : p a <;> simp [Sparse.get, ih, hk]

theorem State.rd_of_filter {s t : State} {p : Nat → Bool} (hd : t.design = s.design) (hr : t.regs = s.regs.filter (fun e => p e.1)) (k : Nat) :
    t.rd k = if p k then s.rd k else regReset s.design k := by
  rw [State.rd, hr, hd]
  exact Sparse.get_filter_key _ p k _

/-! ### The registers that a reset starts with -/

section
variable (s : State) (cause st : Nat)

theorem State.startReset_frame : s.startReset cause st = { s with regs := (s.startReset cause st).regs } := rfl

theorem State.startReset_rd {k : Nat} (h : k ∉ [0x10008, 0x10020, 0x10028]) : (s.startReset cause st).rd k = s.rd k := by
  simp only [List.mem_cons, List.not_mem_nil, or_false, not_or] at h
  obtain ⟨h1, h2, h3⟩ := h
  rw [State.startReset, State.rstStatus, State.rd_setReg_ne _ _ h3, State.rd_setReg_ne _ _ h2, State.rd_setReg_ne _ _ h1]

theorem State.startReset_status : (s.startReset cause st).rd 0x10008 = w64 (cause * 256 + st) := by
  rw [State.startReset, State.rstStatus, State.rd_setReg_ne _ _ (by decide), State.rd_setReg_ne _ _ (by decide), State.rd_setReg]

theorem State.startReset_phase : (s.startReset cause st).rd 0x10020 = 0 := by
  rw [State.startReset, State.rd_setReg_ne _ _ (by decide), State.rd_setReg]

/-- RST_STATUS holds its cause in bits [15:8] and its state in bits [3:0]. -/
theorem State.startReset_fields (hc : cause < 256) (hst : st < 16) :
    (s.startReset cause st).rf 0x10008 15 8 = cause ∧ (s.startReset cause st).rf 0x10008 3 0 = st := by
  rw [State.rf, State.rf, State.startReset_status, bits, bits, w64, BitVec.toNat_ofNat]
  omega

end

/-! ### Cold and warm resets -/

section
variable (s : State)

theorem State.coldClear_rd (k : Nat) :
    (alwaysOn k = false → s.coldClear.rd k = regReset s.design k) ∧
    (alwaysOn k = true → k ∉ [0x10200, 0x10238] → s.coldClear.rd k = s.rd k) := by
  have hclear (h1 : k ≠ 0x10200) (h2 : k ≠ 0x10238) : s.coldClear.rd k = if alwaysOn k then s.rd k else regReset s.design k := by
    rw [State.coldClear, State.rd_setRf_ne _ _ _ _ h1, State.rd_setReg_ne _ _ h2]
    refine State.rd_of_filter (s := s) (p := alwaysOn) ?_ ?_ k <;> rfl
  refine ⟨fun h => ?_, fun h hk => ?_⟩
  · rw [hclear (fun e => ?_) (fun e => ?_), h, if_neg Bool.false_ne_true]
    · exact absurd h (by rw [e]; decide)
    · exact absurd h (by rw [e]; decide)
  · simp only [List.mem_cons, List.not_mem_nil, or_false, not_or] at hk
    rw [hclear hk.1 hk.2, h, if_pos rfl]

/-- The cleared state of a cold reset, whatever the power unit of the state it starts from. -/
theorem State.coldClear_begun (pwr : Power) {cause st : Nat} (hc : cause < 256) (hst : st < 16) :
    ColdBegun s ({ s with pwr := pwr }.coldClear.startReset cause st) cause st := by
  obtain ⟨hcause, hst⟩ := State.startReset_fields { s with pwr := pwr }.coldClear cause st hc hst
  have hphase := State.startReset_phase { s with pwr := pwr }.coldClear cause st
  have hlife : (if s.sec.tstDone then 1 else 0) ≠ 2 := by cases s.sec.tstDone <;> decide
  refine ⟨hcause, hst, hphase, rfl, rfl, rfl, rfl, rfl, rfl, rfl, rfl, rfl, rfl, rfl, rfl, rfl, rfl, rfl, rfl, rfl, rfl,
    rfl, rfl, rfl, hlife, rfl, rfl, fun k => ?_⟩
  obtain ⟨hoff, hon⟩ := State.coldClear_rd { s with pwr := pwr } k
  refine ⟨fun h => ?_, fun h hk => ?_⟩
  · rw [State.startReset_rd, hoff h]
    intro hk
    simp only [List.mem_cons, List.not_mem_nil, or_false] at hk
    rcases hk with rfl | rfl | rfl <;> exact absurd h (by decide)
  · simp only [List.mem_cons, List.not_mem_nil, or_false, not_or] at hk
    obtain ⟨h1, -, h2, h3, h4, h5⟩ := hk
    rw [State.startReset_rd _ _ _ (by simp [h1, h2, h3]), hon h (by simp [h4, h5])]
    rfl

theorem ColdBegun.setPwr {s t : State} {cause st : Nat} (h : ColdBegun s t cause st) {pwr : Power} (hp : pwr.present = false)
    (hw : pwr.warm = false) : ColdBegun s { t with pwr := pwr } cause st := by
  obtain ⟨h1, h2, h3, a1, a2, a3, a4, a5, a6, a7, a8, a9, a10, a11, a12, a13, a14, a15, a16, a17, a18, a19, a20, a21, hlife, -, -, hregs⟩ := h
  exact ⟨h1, h2, h3, a1, a2, a3, a4, a5, a6, a7, a8, a9, a10, a11, a12, a13, a14, a15, a16, a17, a18, a19, a20, a21, hlife, hp, hw, hregs⟩

theorem State.coldReset_begun (pwr : Power) {cause : Nat} (hc : cause < 256) (held : Bool) :
    ColdBegun s (State.coldReset { s with pwr := pwr } cause held) cause (if held then 1 else 2) := by
  have h := s.coldClear_begun pwr (st := if held then 1 else 2) hc (by cases held <;> decide)
  cases held
  · exact h
  · exact h.setPwr rfl rfl

theorem State.warmReset_begun {cause : Nat} (hc : cause < 256) : WarmBegun s (s.warmReset cause false) cause := by
  obtain ⟨hcause, hst⟩ := State.startReset_fields (s.warmClear false) cause 3 hc (by decide)
  have hclear (k : Nat) : (s.warmClear false).rd k = if warmKept k then s.rd k else regReset s.design k :=
    State.rd_of_filter (s := s) (t := s.warmClear false) rfl rfl k
  refine ⟨hcause, hst, State.startReset_phase _ _ _, rfl, rfl, rfl, rfl, rfl, rfl, rfl, rfl, rfl, rfl, rfl, rfl, rfl, rfl, rfl,
    rfl, rfl, rfl, rfl, rfl, rfl, rfl, rfl, rfl, rfl, rfl, rfl, fun k => ⟨fun h => ?_, fun h hk => ?_⟩⟩
  · rw [State.warmReset, State.startReset_rd, hclear, h, if_neg Bool.false_ne_true]
    rintro hk
    simp only [List.mem_cons, List.not_mem_nil, or_false] at hk
    rcases hk with rfl | rfl | rfl <;> exact absurd h (by decide)
  · rw [State.warmReset, State.startReset_rd _ _ _ hk, hclear, h, if_pos rfl]

/-! ### The reset inputs -/

/-- The start-up sequence has begun, in phase CLOCKS. -/
theorem State.startUp_phase : s.startUp.rstState = 4 ∧ s.startUp.phase = 1 := by
  have hrd : s.startUp.rd 0x10008 = (s.setRf 0x10008 3 0 4).rd 0x10008 :=
    (s.setRf 0x10008 3 0 4).rd_setReg_ne (o := 0x10020) 1 (by decide)
  have hst : s.startUp.rf 0x10008 3 0 = (s.setRf 0x10008 3 0 4).rf 0x10008 3 0 := congrArg (bits · 3 0) hrd
  have hph : s.startUp.rd 0x10020 = 1 := (s.setRf 0x10008 3 0 4).rd_setReg 0x10020 1
  refine ⟨hst.trans (s.rf_setRf_same _ _ (by decide) (by decide)), ?_⟩
  rw [State.phase, State.rf, hph]
  rfl

theorem State.rstCtrl_of_reset (m : Bool) (v : W64) (h : s.rstState = 1 ∨ s.rstState = 2 ∨ s.rstState = 3) : s.rstCtrl m v = s := by
  rw [State.rstCtrl, if_pos (by simpa [or_assoc] using h)]

/-- COLD and WARM out of a reset. -/
theorem State.rstCtrl_of_running (h : s.rstState = 0 ∨ s.rstState = 4) :
    s.rstCtrl true 1 = s.coldReset 5 false ∧ s.rstCtrl false 2 = s.warmReset 6 false := by
  have hne : ¬(s.rstState = 1 || s.rstState = 2 || s.rstState = 3) = true := by
    rcases h with h | h <;> rw [h] <;> decide
  rw [State.rstCtrl, if_neg hne, State.rstCtrl, if_neg hne]
  exact ⟨rfl, rfl⟩

theorem execRstNAssert_of_begin (hn : s.pwr.rstN = false) (hr : s.rstState ≠ 1) : exec .rstNAssert s =
    .next ((State.coldReset { s with pwr := { s.pwr with rstN := true, heldSince := s.time } }
      (if (s.rd 0x10238).getLsbD 0 then 4 else 2) true).setReg 0x10010 0) :=
  congrArg Host.Outcome.next ((if_neg (by simp [hn])).trans (if_neg hr))

theorem execPgLost_of_lost {m : BitVec 4} (hm : m ≠ 0) (hr : s.rstState ≠ 1) : exec (.pgLost m) s =
    .next ((State.coldReset { s with pwr := { s.pwr with pg := s.pwr.pg &&& ~~~m } } 3 true).setRf 0x10200 11 8 m.toNat) := by
  have hno : ¬(m = 0 || s.rstState = 1) = true := by
    rw [Bool.or_eq_true, decide_eq_true_eq, decide_eq_true_eq, not_or]
    exact ⟨hm, hr⟩
  exact congrArg Host.Outcome.next (if_neg hno)

theorem execRstNAssert_of_held (hn : s.pwr.rstN = false) (hr : s.rstState = 1) :
    exec .rstNAssert s = .next { s with pwr := { s.pwr with rstN := true, heldSince := s.time } } :=
  congrArg Host.Outcome.next ((if_neg (by simp [hn])).trans (if_pos hr))

/-- RST_HOLD_TIME and the power-good record are not among the registers of which `ColdBegun` speaks. -/
theorem ColdBegun.setReg {s t : State} {cause st o : Nat} (h : ColdBegun s t cause st) (ho : o = 0x10010 ∨ o = 0x10200) (v : W64) :
    ColdBegun s (t.setReg o v) cause st := by
  have hne {k : Nat} (hk : k ≠ o) : (t.setReg o v).rd k = t.rd k := t.rd_setReg_ne v hk
  have hon : alwaysOn o = true := by rcases ho with rfl | rfl <;> decide
  obtain ⟨h1, h2, h3, hrest⟩ := h
  refine ⟨?_, ?_, ?_, ?_⟩
  · rw [State.rf, hne (by omega)]
    exact h1
  · rw [State.rf, hne (by omega)]
    exact h2
  · rw [hne (by omega)]
    exact h3
  · have hk : ∀ k, (alwaysOn k = false → (t.setReg o v).rd k = regReset s.design k) ∧
        (alwaysOn k = true → k ∉ [0x10008, 0x10010, 0x10020, 0x10028, 0x10200, 0x10238] → (t.setReg o v).rd k = s.rd k) := fun k => by
      obtain ⟨-, -, -, -, -, -, -, -, -, -, -, -, -, -, -, -, -, -, -, -, -, -, -, -, hregs⟩ := hrest
      refine ⟨fun hf => ?_, fun hf hmem => ?_⟩
      · rw [hne (fun e => by rw [e, hon] at hf; cases hf), (hregs k).1 hf]
      · rw [hne (fun e => hmem (by rcases ho with rfl | rfl <;> simp [e])), (hregs k).2 hf hmem]
    obtain ⟨a1, a2, a3, a4, a5, a6, a7, a8, a9, a10, a11, a12, a13, a14, a15, a16, a17, a18, a19, a20, a21, a22, a23, a24, -⟩ := hrest
    exact ⟨a1, a2, a3, a4, a5, a6, a7, a8, a9, a10, a11, a12, a13, a14, a15, a16, a17, a18, a19, a20, a21, a22, a23, a24, hk⟩

end

/-- Settles O49: the inputs case by case, the resets by `coldReset_begun` and `warmReset_begun`. That a reset with PWR_TRIP latched has cause 4,
and which maps a warm reset keeps, are the model's readings (log entries 88 and 89). -/
theorem resetsAndWhatTheyKeep : Obligations.ResetsAndWhatTheyKeep := by
  refine ⟨fun s => ⟨_, rfl, rfl, rfl, rfl, rfl, rfl, rfl, rfl, rfl, rfl, rfl, rfl, rfl, rfl, rfl, rfl⟩,
    fun s => ⟨fun h => ?_, fun hn hr => ⟨_, execRstNAssert_of_begin s hn hr, rfl, State.rd_setReg _ _ _, ?_⟩, fun hn hr => ?_, fun h => ?_,
      fun hn hr hp => ?_, fun hn h => ?_, fun hr hn => ?_, fun h => ?_, rfl⟩,
    fun s m => ⟨fun hm hr => ?_, fun h => ?_⟩, fun s => ⟨fun h => ⟨?_, ?_⟩, fun h => ?_⟩⟩
  · simp [exec, execRstNAssert, h]
  · refine ColdBegun.setReg (s.coldReset_begun _ ?_ true) (.inl rfl) 0
    split <;> decide
  · exact ⟨_, execRstNAssert_of_held s hn hr, rfl, rfl, rfl⟩
  · simp [exec, execRstNRelease, h]
  · obtain ⟨hst, hph⟩ := State.startUp_phase { s with pwr := { s.pwr with rstN := false } }
    exact ⟨_, by simp only [exec, execRstNRelease, hn, hr, hp, Bool.not_true, Bool.false_eq_true, if_false, decide_true, Bool.and_self, if_true],
      hst, hph, rfl⟩
  · have hno : ¬(s.rstState = 1 && s.pwr.pg = 0xF) = true := by simpa [or_iff_not_imp_left] using h
    simp only [exec, execRstNRelease, hn, Bool.not_true, Bool.false_eq_true, if_false, if_neg hno]
  · obtain ⟨hst, hph⟩ := State.startUp_phase { s with pwr := { s.pwr with pg := 0xF } }
    exact ⟨_, by simp only [exec, execPowerGoodStable, hr, hn, Bool.not_false, decide_true, Bool.and_self, if_true], hst, hph, rfl⟩
  · have hno : ¬(s.rstState = 1 && !s.pwr.rstN) = true := by simpa [or_iff_not_imp_left] using h
    simp only [exec, execPowerGoodStable, if_neg hno]
  · refine ⟨_, execPgLost_of_lost s hm hr, (s.coldReset_begun _ (by decide) true).setReg (.inr rfl) _, ?_, rfl⟩
    rw [State.rf_setRf_same _ _ _ (by decide) (by decide), Nat.mod_eq_of_lt m.isLt]
  · have hyes : (m = 0 || s.rstState = 1) = true := by simpa using h
    simp only [exec, execPgLost, if_pos hyes]
  · exact congrArg Host.Outcome.next (s.rstCtrl_of_reset true 1 h)
  · exact congrArg Host.Outcome.next (s.rstCtrl_of_reset false 2 h)
  · obtain ⟨hcold, hwarm⟩ := s.rstCtrl_of_running h
    exact ⟨⟨_, congrArg Host.Outcome.next hcold, s.coldReset_begun s.pwr (by decide) false⟩, _, congrArg Host.Outcome.next hwarm,
      s.warmReset_begun (by decide)⟩

end Sys2Proof.Machine
end

section
/-! PROOF. The SPDM mailboxes, the debug unlock, the locks and the owner digests (16_security.md R354, R357, R367, R369; 21_registers.md
R451). -/

namespace Sys2Proof.Machine

/-! ### Mailboxes -/

section
variable (s : State) (w : SpdmWho)

theorem State.spdmWrite_of_range {v : W64} (h : bits v 12 0 = 0 ∨ 4096 < bits v 12 0) : s.spdmWrite w v = s :=
  if_pos (by simpa using h)

/-- A control register write whose length lies in the range. -/
theorem State.spdmWrite_eq {v : W64} (h1 : 1 ≤ bits v 12 0) (h2 : bits v 12 0 ≤ 4096) : s.spdmWrite w v =
    if v.getLsbD 16 && (s.mailbox w).busy then (match w with | .tenant t => s.inErr t | .mgmt => s)
    else if !v.getLsbD 16 then s.setRf (spdmCtl w) 12 0 (bits v 12 0)
    else ((s.setRf (spdmCtl w) 12 0 (bits v 12 0)).setMailbox w
      ⟨true, (s.mailbox w).taken ++ [s.regBytes (spdmData w) (bits v 12 0)]⟩).setRf (spdmCtl w) 17 17 1 :=
  if_neg (by simp; omega)

theorem State.setMailbox_rd (m : Mailbox) (o : Nat) : (s.setMailbox w m).rd o = s.rd o := by
  cases w <;> rfl

theorem State.setRf_mailbox (o hi lo v : Nat) : (s.setRf o hi lo v).mailbox w = s.mailbox w := by
  cases w <;> rfl

theorem State.mailbox_setMailbox (m : Mailbox) : (s.setMailbox w m).mailbox w = m := by
  cases w with
  | tenant t => exact congrArg Tenant.spdm (s.ten_setTen t _)
  | mgmt => rfl

/-- A submitted request: the mailbox is busy with it, and the control register names its length. -/
theorem State.spdmWrite_submits {v : W64} (h1 : 1 ≤ bits v 12 0) (h2 : bits v 12 0 ≤ 4096) (hv : v.getLsbD 16 = true)
    (hb : (s.mailbox w).busy = false) :
    (s.spdmWrite w v).mailbox w = ⟨true, (s.mailbox w).taken ++ [s.regBytes (spdmData w) (bits v 12 0)]⟩ ∧
    ((s.spdmWrite w v).rd (spdmCtl w)).getLsbD 17 = true ∧ (s.spdmWrite w v).rf (spdmCtl w) 12 0 = bits v 12 0 := by
  rw [s.spdmWrite_eq w h1 h2, hv, hb, if_neg (by decide), if_neg (by decide)]
  refine ⟨?_, ?_, ?_⟩
  · rw [State.setRf_mailbox, State.mailbox_setMailbox]
  · rw [State.getLsbD_setRf _ _ _ _ (by decide) (by decide)]
    rfl
  · rw [State.rf_setRf_disjoint _ _ _ (by decide) (by decide) (by decide), State.rf, State.setMailbox_rd]
    exact (s.rf_setRf_same _ _ (by decide) (by decide)).trans (Nat.mod_eq_of_lt (by omega))

theorem State.setRegBytes_frame (o : Nat) (bs : List Byte) : ∃ regs, s.setRegBytes o bs = { s with regs := regs } :=
  State.forEach_induct (P := fun u => ∃ regs, u = { s with regs := regs }) (fun _ _ ⟨_, h⟩ => h ▸ ⟨_, rfl⟩) _ ⟨_, rfl⟩

theorem State.setMailbox_frame (m : Mailbox) : ∃ tenants sec, s.setMailbox w m = { s with tenants := tenants, sec := sec } := by
  cases w <;> exact ⟨_, _, rfl⟩

end

/-- The state in which a response stands in a mailbox. -/
def State.answered (s : State) (who : SpdmWho) (bs : List Byte) : State :=
  (((({ s with free := s.free + 4 } : State).setRegBytes (spdmData who) bs).setMailbox who ⟨false, (s.mailbox who).taken⟩).setRf
    (spdmCtl who) 44 32 bs.length).setRf (spdmCtl who) 17 17 0

theorem State.answered_spec (s : State) (who : SpdmWho) {bs : List Byte} (hlen : bs.length ≤ 4096) :
    (s.answered who bs).mailbox who = ⟨false, (s.mailbox who).taken⟩ ∧ (s.answered who bs).free = s.free + 4 ∧
    ((s.answered who bs).rd (spdmCtl who)).getLsbD 17 = false ∧ (s.answered who bs).rf (spdmCtl who) 44 32 = bs.length ∧
    (s.answered who bs).hbm = s.hbm := by
  unfold State.answered
  obtain ⟨regs, h1⟩ := State.setRegBytes_frame { s with free := s.free + 4 } (spdmData who) bs
  rw [h1]
  obtain ⟨tenants, sec, h2⟩ := State.setMailbox_frame { s with free := s.free + 4, regs := regs } who ⟨false, (s.mailbox who).taken⟩
  refine ⟨?_, ?_, ?_, ?_, ?_⟩
  · rw [State.setRf_mailbox, State.setRf_mailbox, State.mailbox_setMailbox]
  · rw [h2]
    rfl
  · rw [State.getLsbD_setRf _ _ _ _ (by decide) (by decide)]
    rfl
  · rw [State.rf_setRf_disjoint _ _ _ (by decide) (by decide) (by decide), State.rf_setRf_same _ _ _ (by decide) (by decide)]
    exact Nat.mod_eq_of_lt (by omega)
  · rw [h2]
    rfl

theorem execSpdmResponse_of_busy {s : State} {who : SpdmWho} (hl : s.live = true) (hb : (s.mailbox who).busy = true) :
    exec (.spdmResponse who) s = .next (s.answered who
      ((Config.spdmRespond (s.mailbox who).taken s.measurements false (freeBytes s.free 4)).take 4096)) :=
  congrArg Host.Outcome.next (if_neg (by simp [hl, hb]))

/-! ### The debug token -/

theorem nth_setNth_same {α : Type} (d v : α) : ∀ {l : List α} {i : Nat}, i < l.length → nth d (setNth l i v) i = v
  | [], _, h => absurd h (Nat.not_lt_zero _)
  | _ :: _, 0, _ => rfl
  | _ :: l, _ + 1, h => nth_setNth_same d v (l := l) (Nat.lt_of_succ_lt_succ h)

theorem nth_setNth_ne {α : Type} (d v : α) : ∀ {l : List α} {i k : Nat}, k ≠ i → nth d (setNth l i v) k = nth d l k
  | [], _, _, _ => rfl
  | _ :: _, 0, 0, h => absurd rfl h
  | _ :: _, 0, _ + 1, _ => rfl
  | _ :: _, _ + 1, 0, _ => rfl
  | _ :: l, _ + 1, _ + 1, h => nth_setNth_ne d v (l := l) (fun e => h (congrArg (· + 1) e))

/-- Words not written yet read as the default. -/
theorem nth_append_replicate {α : Type} (d : α) (n : Nat) : ∀ (l : List α) (k : Nat), nth d (l ++ List.replicate n d) k = nth d l k
  | [], k => by
    induction n generalizing k with
    | zero => rfl
    | succ n ih => cases k with
      | zero => rfl
      | succ k => exact ih k
  | _ :: _, 0 => rfl
  | _ :: l, k + 1 => nth_append_replicate d n l k

/-- A token word stored while no token is verified. -/
theorem State.tokenWrite_spec {s : State} {w : Nat} (hw : w < 12) (v : W64) (h : s.sec.verifying = false) :
    nth 0 (s.tokenWrite w v).sec.token w = v ∧
    (∀ k, k < 12 → k ≠ w → nth 0 (s.tokenWrite w v).sec.token k = nth 0 s.sec.token k) ∧
    (s.tokenWrite w v).sec.verifying = decide (w = 11) ∧ (w = 11 → (s.tokenWrite w v).rd 0x20040 = 1) := by
  have hsec : (s.tokenWrite w v).sec = { s.sec with
      token := setNth (s.sec.token ++ List.replicate (12 - s.sec.token.length) 0) w v, verifying := s.sec.verifying || w == 11 } := by
    rw [State.tokenWrite, h, if_neg Bool.false_ne_true]
    split <;> rfl
  rw [hsec]
  refine ⟨nth_setNth_same _ _ ?_, fun k _ hk => ?_, ?_, fun he => ?_⟩
  · rw [List.length_append, List.length_replicate]
    omega
  · rw [nth_setNth_ne _ _ hk, nth_append_replicate]
  · rw [h]
    rfl
  · rw [State.tokenWrite, h, if_neg Bool.false_ne_true, if_pos he, State.rd_setReg]

theorem State.tokenOk_of_none {s : State} (h : s.sec.nonce = none ∨ 8 ≤ s.sec.bad) : s.tokenOk = false := by
  unfold State.tokenOk
  rcases h with h | h
  · rw [h]
  · split
    · rfl
    · rw [decide_eq_false (by omega), Bool.false_and]

/-- The unlock is a warm reset of cause 7 that clears the memories and enters DEBUG. -/
theorem State.unlock_spec (s : State) : (s.warmReset 7 true).hbm = [] ∧ (s.warmReset 7 true).bead = [] ∧ (s.warmReset 7 true).imem = [] ∧
    (s.warmReset 7 true).sec.lifecycle = 2 ∧ (s.warmReset 7 true).rods = [] ∧ (s.warmReset 7 true).rf 0x10008 3 0 = 3 ∧
    (s.warmReset 7 true).rf 0x10008 15 8 = 7 := by
  obtain ⟨hcause, hst⟩ := State.startReset_fields (s.warmClear true) 7 3 (by decide) (by decide)
  exact ⟨rfl, rfl, rfl, rfl, rfl, hst, hcause⟩

theorem State.bump_one (s : State) (o : Nat) : s.bump o 1 = s.setReg o (counterAdd (s.rd o) 1) := if_neg Nat.one_ne_zero

/-- An invalid token. -/
def State.tokenRefused (s : State) : State :=
  (({ s with sec := { s.sec with verifying := false, bad := s.sec.bad + 1 } }).bump (cntBlk 22) 1).setReg 0x20040
    (if s.sec.bad + 1 ≥ 8 then 3 else 2)

theorem execDebugTokenVerified_of_verifying {s : State} (hl : s.live = true) (hv : s.sec.verifying = true) :
    exec .debugTokenVerified s = .next (if s.tokenOk then s.warmReset 7 true else s.tokenRefused) :=
  congrArg Host.Outcome.next (if_neg (by simp [hl, hv]))

theorem State.setReg_setReg_eq (s : State) (o a : Nat) (c v : W64) :
    (s.setReg o c).setReg a v = { s with regs := ((s.setReg o c).setReg a v).regs } := rfl

theorem State.setReg_bump_spec (s : State) {o a : Nat} (v : W64) (h : o ≠ a) : ((s.bump o 1).setReg a v).rd o = counterAdd (s.rd o) 1 ∧
    ((s.bump o 1).setReg a v).rd a = v ∧
    (s.bump o 1).setReg a v = { s with regs := ((s.bump o 1).setReg a v).regs } := by
  rw [State.bump_one]
  exact ⟨by rw [State.rd_setReg_ne _ _ h, State.rd_setReg], State.rd_setReg _ _ _, State.setReg_setReg_eq _ _ _ _ _⟩

theorem State.tokenRefused_spec (s : State) : s.tokenRefused.sec = { s.sec with verifying := false, bad := s.sec.bad + 1 } ∧
    s.tokenRefused.rd (cntBlk 22) = counterAdd (s.rd (cntBlk 22)) 1 ∧ s.tokenRefused.rd 0x20040 = (if 7 ≤ s.sec.bad then 3 else 2) ∧
    s.tokenRefused = { s with sec := s.tokenRefused.sec, regs := s.tokenRefused.regs } := by
  obtain ⟨hcnt, hst, heq⟩ := State.setReg_bump_spec { s with sec := { s.sec with verifying := false, bad := s.sec.bad + 1 } }
    (if s.sec.bad + 1 ≥ 8 then 3 else 2) (show cntBlk 22 ≠ 0x20040 by unfold cntBlk; omega)
  refine ⟨congrArg State.sec heq, hcnt, hst.trans (if_congr (by omega) rfl rfl), heq.trans ?_⟩
  rw [State.tokenRefused, heq]

/-! ### Owner digests, and the statement -/

theorem State.presetOwner_of_bound {s : State} {p : Nat} (w : Nat) (v : W64) (h : s.rf (0x24070 + 0x100 * p) 0 0 = 1) : s.presetOwner p w v = s :=
  if_pos h

theorem State.presetOwner_of_unbound {s : State} {p w : Nat} (hw : w < 6) (v : W64) (h : s.rf (0x24070 + 0x100 * p) 0 0 = 0) :
    (s.presetOwner p w v).rd (0x24040 + 0x100 * p + 8 * w) = v ∧
    (s.presetOwner p w v).rd (0x24070 + 0x100 * p) = (if w = 5 then 1 else s.rd (0x24070 + 0x100 * p)) ∧
    s.presetOwner p w v = { s with regs := (s.presetOwner p w v).regs } := by
  have hne : ¬s.rf (0x24070 + 0x100 * p) 0 0 = 1 := by rw [h]; decide
  rw [State.presetOwner, if_neg hne]
  dsimp only
  by_cases h5 : w = 5
  · rw [if_pos h5, if_pos h5]
    exact ⟨by rw [State.rd_setReg_ne _ _ (by omega), State.rd_setReg], State.rd_setReg _ _ _, rfl⟩
  · rw [if_neg h5, if_neg h5]
    exact ⟨State.rd_setReg _ _ _, State.rd_setReg_ne _ _ (by omega), rfl⟩

/-- Settles O48: mailboxes of tenants and of the management port by the one write they share, then challenge, token, locks and owner digests.
That a preset binds with its word 5 and that writes are ignored while a request is unanswered are the model's choice (log entries 58 and
70). -/
theorem securityMailboxesUnlockAndLocks : Obligations.SecurityMailboxesUnlockAndLocks := by
  refine ⟨fun s t v hu ha => ?_, fun s v hl => ?_, fun s who hl => ⟨fun hb => ?_, fun hb => ⟨_, execSpdmResponse_of_busy hl hb, s.answered_spec who (List.length_take_le _ _)⟩⟩,
    fun s hl => ⟨fun hb => ?_, fun hb => ?_⟩, fun s w v hl => ⟨fun hv => ?_, fun hv => ?_⟩,
    fun s hl => ⟨fun hv => ?_, fun _ h => State.tokenOk_of_none h, fun hv => ?_⟩, fun s v => ⟨rfl, fun hl => congrArg Host.Outcome.next (if_pos hl)⟩,
    fun s p w v hl => ?_⟩
  · have hex : exec (.tenSpdmGo t v) s = .next (s.spdmWrite (.tenant t) v) := congrArg Host.Outcome.next (if_pos (by rw [hu, ha]; rfl))
    rw [hex]
    refine ⟨fun h => congrArg _ (s.spdmWrite_of_range _ h), fun h1 h2 hv hb => ?_, fun h1 h2 hv hb => ?_, fun h1 h2 hv => ?_⟩
    · rw [s.spdmWrite_eq _ h1 h2, hv, show (s.mailbox (.tenant t)).busy = true from hb, if_pos (Bool.and_self true)]
      rfl
    · exact ⟨_, rfl, s.spdmWrite_submits (.tenant t) h1 h2 hv hb⟩
    · rw [s.spdmWrite_eq _ h1 h2, hv, if_neg (by simp), if_pos Bool.not_false]
      rfl
  · have hex : exec (.secSpdmGo v) s = .next (s.spdmWrite .mgmt v) := congrArg Host.Outcome.next (if_pos hl)
    rw [hex]
    refine ⟨fun h => ?_, fun h1 h2 hv hb => ⟨_, rfl, s.spdmWrite_submits .mgmt h1 h2 hv hb⟩⟩
    by_cases hr : bits v 12 0 = 0 ∨ 4096 < bits v 12 0
    · rw [s.spdmWrite_of_range _ hr]
    · obtain ⟨hv, hb⟩ := (h.resolve_left (fun h0 => hr (.inl h0))).resolve_left (fun h0 => hr (.inr h0))
      rw [s.spdmWrite_eq _ (by omega) (by omega), hv, show (s.mailbox .mgmt).busy = true from hb, if_pos (Bool.and_self true)]
  · exact congrArg Host.Outcome.next (if_pos (by rw [hb]; simp))
  · have hex : exec .secDbgChal s = .next ((s.readChal 0).2.send (.mgmt (s.readChal 0).1 false)) := congrArg Host.Outcome.next (if_pos hl)
    rw [hex, State.readChal, if_pos hb]
  · have hex : exec .secDbgChal s = .next ((s.readChal 0).2.send (.mgmt (s.readChal 0).1 false)) := congrArg Host.Outcome.next (if_pos hl)
    refine ⟨_, hex, ?_⟩
    rw [State.readChal, if_neg (by omega)]
    exact ⟨rfl, rfl, rfl, rfl⟩
  · exact congrArg Host.Outcome.next ((if_pos hl).trans (if_pos hv))
  · exact ⟨_, congrArg Host.Outcome.next (if_pos hl), State.tokenWrite_spec w.isLt v hv⟩
  · exact congrArg Host.Outcome.next (if_pos (by rw [hv]; simp))
  · have hex := execDebugTokenVerified_of_verifying hl hv
    split
    · next hok => exact ⟨_, hex.trans (congrArg _ (if_pos hok)), s.unlock_spec⟩
    · next hok => exact ⟨_, hex.trans (congrArg _ (if_neg hok)), s.tokenRefused_spec⟩
  · have hex : exec (.secPartOwner p w v) s = .next (s.presetOwner p w v) := congrArg Host.Outcome.next (if_pos hl)
    rw [hex]
    exact ⟨fun h => congrArg _ (State.presetOwner_of_bound _ v h), fun h => ⟨_, rfl, State.presetOwner_of_unbound w.isLt v h⟩⟩

end Sys2Proof.Machine
end

section
/-! PROOF. Sensor readings, throttling, the thermal trip and the slew governor (19_ports_clocks_power_reset.md R424 to R427). -/

namespace Sys2Proof.Machine

/-! ### The hottest sensor -/

theorem hottest_spec : ∀ (l : List Int) (i : Nat) (m : Nat × Int), (∀ x ∈ l, x ≤ (hottest l i m).2) ∧ m.2 ≤ (hottest l i m).2 ∧
    (hottest l i m = m ∨ ∃ k, (hottest l i m).1 = i + k ∧ l[k]? = some (hottest l i m).2)
  | [], _, _ => ⟨fun _ hx => absurd hx List.not_mem_nil, Int.le_refl _, .inl rfl⟩
  | t :: r, i, m => by
    obtain ⟨hall, hle, hfrom⟩ := hottest_spec r (i + 1) (if m.2 < t then (i, t) else m)
    have hnew : t ≤ (if m.2 < t then (i, t) else m).2 ∧ m.2 ≤ (if m.2 < t then (i, t) else m).2 := by
      split
      · next h => exact ⟨Int.le_refl _, Int.le_of_lt h⟩
      · next h => exact ⟨Int.not_lt.mp h, Int.le_refl _⟩
    rw [hottest]
    refine ⟨fun x hx => ?_, hnew.2.trans hle, ?_⟩
    · rcases List.mem_cons.mp hx with rfl | hx
      · exact hnew.1.trans hle
      · exact hall x hx
    · rcases hfrom with h | ⟨k, hk, hval⟩
      · rw [h]
        split
        · exact .inr ⟨0, rfl, rfl⟩
        · exact .inl rfl
      · exact .inr ⟨k + 1, by omega, hval⟩

/-- Of a list with readings it is one of them, and none is higher. -/
theorem hottest_of_ne_nil {l : List Int} (h : l ≠ []) :
    l[(hottest l 0 (0, l.headD 0)).1]? = some (hottest l 0 (0, l.headD 0)).2 ∧ ∀ x ∈ l, x ≤ (hottest l 0 (0, l.headD 0)).2 := by
  obtain ⟨hall, -, hfrom⟩ := hottest_spec l 0 (0, l.headD 0)
  refine ⟨?_, hall⟩
  rcases hfrom with hm | ⟨k, hk, hval⟩
  · rw [hm]
    cases l with
    | nil => exact absurd rfl h
    | cons t r => rfl
  · rw [hk, Nat.zero_add]
    exact hval

/-! ### Steps of the clock -/

/-- From `s` to `u` the rod clock has stepped: the power unit may differ, but for its inputs and cx_vid, and the pending events. -/
structure ClockStepped (s u : State) : Prop where
  state : u = { s with pwr := u.pwr, regs := u.regs }
  regs : ∀ o, o ≠ 0x30118 → u.rd o = s.rd o
  thermAlert : u.pwr.thermAlert = s.pwr.thermAlert
  vrhot : u.pwr.vrhot = s.pwr.vrhot
  coolSince : u.pwr.coolSince = s.pwr.coolSince
  vid : u.pwr.vid = s.pwr.vid
  thermtrip : u.pwr.thermtrip = s.pwr.thermtrip

theorem ClockStepped.refl (s : State) : ClockStepped s s := ⟨rfl, fun _ _ => rfl, rfl, rfl, rfl, rfl, rfl⟩

theorem ClockStepped.rods {s u : State} (h : ClockStepped s u) : u.rods = s.rods := by rw [h.state]
theorem ClockStepped.parts {s u : State} (h : ClockStepped s u) : u.parts = s.parts := by rw [h.state]

/-- From `s` to `u` the power unit may differ, but for the rod clock and the alert inputs. -/
structure RateKept (s u : State) : Prop where
  state : u = { s with pwr := u.pwr }
  freq : u.pwr.freq = s.pwr.freq
  thermAlert : u.pwr.thermAlert = s.pwr.thermAlert
  vrhot : u.pwr.vrhot = s.pwr.vrhot

theorem RateKept.refl (s : State) : RateKept s s := ⟨rfl, rfl, rfl, rfl⟩

theorem RateKept.rd {s u : State} (h : RateKept s u) (o : Nat) : u.rd o = s.rd o := by
  rw [h.state]
  rfl

/-- The power unit as a step down to a rod clock of `f` leaves it. -/
def State.stepped (s : State) (f : Nat) : State :=
  { s with pwr := { s.pwr with freq := f, vidGoal := vidFor f, raising := none, lastStep := some s.time, warned := true } }

section
variable (s : State) (f : Nat)

theorem State.stepDown_of_le {f : Nat} (h : s.pwr.freq ≤ f) : s.stepDown f = s := if_pos h

theorem State.stepDown_of_gt {f : Nat} (h : f < s.pwr.freq) :
    s.stepDown f = if s.pwr.warned then s.stepped f else (s.stepped f).event 2 := if_neg (by omega)

theorem State.event_rd_ne (n : Nat) {o : Nat} (h : o ≠ 0x30118) : (s.event n).rd o = s.rd o := State.rd_setReg_ne _ _ h

theorem State.stepDown_stepped : ClockStepped s (s.stepDown f) := by
  by_cases h : s.pwr.freq ≤ f
  · rw [s.stepDown_of_le h]
    exact .refl s
  · rw [s.stepDown_of_gt (by omega)]
    split
    · exact ⟨rfl, fun _ _ => rfl, rfl, rfl, rfl, rfl, rfl⟩
    · exact ⟨rfl, fun o ho => State.event_rd_ne _ 2 ho, rfl, rfl, rfl, rfl, rfl⟩

/-- What a step down that takes place does. -/
theorem State.stepDown_spec {f : Nat} (h : f < s.pwr.freq) : (s.stepDown f).pwr.freq = f ∧ (s.stepDown f).pwr.vidGoal = vidFor f ∧
    (s.stepDown f).pwr.warned = true ∧ (s.stepDown f).pwr.lastStep = some s.time ∧
    (s.pwr.warned = false → ((s.stepDown f).rd 0x30118).getLsbD 2 = true) := by
  rw [s.stepDown_of_gt h]
  split
  · next hw => exact ⟨rfl, rfl, rfl, rfl, fun h => absurd (hw.symm.trans h) (by decide)⟩
  · refine ⟨rfl, rfl, rfl, rfl, fun _ => ?_⟩
    rw [State.event_pendingBit, show (w64 (2 ^ 2)).getLsbD 2 = true by decide, Bool.or_true]

theorem State.stepDown_freq : (s.stepDown f).pwr.freq = min s.pwr.freq f := by
  by_cases h : s.pwr.freq ≤ f
  · rw [s.stepDown_of_le h, Nat.min_eq_left h]
  · rw [(s.stepDown_spec (by omega)).1, Nat.min_eq_right (by omega)]

theorem State.warnStep_stepped : ClockStepped s s.warnStep :=
  iteInduction (motive := ClockStepped s) (fun _ => s.stepDown_stepped _) (fun _ => .refl s)

theorem State.warnStep_of_first (h : s.pwr.lastStep = none) (hf : 10 < s.pwr.freq) : s.warnStep = s.stepDown (s.pwr.freq - 1) := by
  unfold State.warnStep
  rw [h, decide_eq_true hf]
  rfl

theorem State.warnStep_of_low (hf : s.pwr.freq ≤ 10) : s.warnStep = s := by
  unfold State.warnStep
  exact if_neg (by rw [decide_eq_false (by omega), Bool.and_false]; decide)

/-- A step was just taken. -/
theorem State.warnStep_of_recent (h : s.pwr.lastStep = some s.time) (hw : s.pwr.warned = true) : s.warnStep = s := by
  unfold State.warnStep
  rw [h, hw]
  exact if_neg (by simp)

theorem State.raiseStep_kept : RateKept s s.raiseStep :=
  iteInduction (motive := RateKept s) (fun _ => ⟨rfl, rfl, rfl, rfl⟩) (fun _ => .refl s)

end

/-! ### A thermal sample -/

/-- The record of a thermal sample with the hottest reading `h`. -/
def State.sampled (s : State) (h : Nat × Int) (alert vrhot : Bool) : State :=
  ({ s with pwr := { s.pwr with thermAlert := alert, vrhot := vrhot } }).setReg 0x10230 (w64 (h.1 % 128 * 65536 + (BitVec.ofInt 16 h.2).toNat))

/-- The regulator's limit holds before the readings count. -/
def State.limited (s : State) (vrhot : Bool) : State := if vrhot then s.stepDown 15 else s

/-- Since when the readings are well below the warning. -/
def State.coolNow (s : State) (m : Int) : Option W64 :=
  if m ≤ 10 * (s.rf 0x10220 6 0 : Int) - 30 then (match s.pwr.coolSince with | some t => some t | none => some s.time) else none

/-- Since when it is cool is noted. -/
def State.withCool (s : State) (c : Option W64) : State := { s with pwr := { s.pwr with coolSince := c } }

/-- The sample of readings that are too hot for the clock. -/
def State.sampleHot (s : State) (h : Nat × Int) (alert vrhot : Bool) : State :=
  (((s.sampled h alert vrhot).limited vrhot).withCool none).warnStep

/-- The sample of readings that are not. -/
def State.sampleCool (s : State) (h : Nat × Int) (alert vrhot : Bool) : State :=
  let v := ((s.sampled h alert vrhot).limited vrhot).withCool (s.coolNow h.2)
  match s.coolNow h.2 with
  | some t => if t.toNat + 1000000 ≤ s.time.toNat then v.raiseStep else v
  | none => v

section
variable {s : State} {temps : List Int} {watts : Nat} (alert vrhot : Bool) {h : Nat × Int}

theorem execThermalSample_eq (hp : s.powered = true) (hh : hottest temps 0 (0, temps.headD 0) = h) :
    exec (.thermalSample temps watts alert vrhot) s =
      .next (if h.2 > 10 * (s.rf 0x10220 6 0 : Int) ∨ alert = true ∨ min (s.rf 0x10218 11 0) s.design.maxPower < watts
        then s.sampleHot h alert vrhot else s.sampleCool h alert vrhot) := by
  subst hh
  refine congrArg Host.Outcome.next ((if_neg (by simp [hp])).trans (if_congr ?_ rfl rfl))
  rw [Bool.or_eq_true, Bool.or_eq_true, decide_eq_true_iff, decide_eq_true_iff, or_assoc]

theorem State.limited_stepped (s : State) (v : Bool) : ClockStepped s (s.limited v) :=
  iteInduction (motive := ClockStepped s) (fun _ => s.stepDown_stepped 15) (fun _ => .refl s)

/-- What both kinds of sample leave. -/
structure Sampled (s u : State) (h : Nat × Int) (alert vrhot : Bool) : Prop where
  record : u.rd 0x10230 = w64 (h.1 % 128 * 65536 + (BitVec.ofInt 16 h.2).toNat)
  thermAlert : u.pwr.thermAlert = alert
  vrhot : u.pwr.vrhot = vrhot
  rods : u.rods = s.rods
  parts : u.parts = s.parts

theorem ClockStepped.sampled {t u : State} (k : ClockStepped t u) (hs : Sampled s t h alert vrhot) : Sampled s u h alert vrhot := by
  exact ⟨(k.regs _ (by decide)).trans hs.record, k.thermAlert.trans hs.thermAlert, k.vrhot.trans hs.vrhot, k.rods.trans hs.rods,
    k.parts.trans hs.parts⟩

theorem RateKept.sampled {t u : State} (k : RateKept t u) (hs : Sampled s t h alert vrhot) : Sampled s u h alert vrhot := by
  have hrods : u.rods = t.rods := by rw [k.state]
  have hparts : u.parts = t.parts := by rw [k.state]
  exact ⟨(k.rd _).trans hs.record, k.thermAlert.trans hs.thermAlert, k.vrhot.trans hs.vrhot, hrods.trans hs.rods, hparts.trans hs.parts⟩

/-- The sample's record with the regulator's limit, whatever is noted of the time since when it is cool. -/
theorem State.limited_sampled (s : State) (h : Nat × Int) (alert vrhot : Bool) (c : Option W64) :
    Sampled s (((s.sampled h alert vrhot).limited vrhot).withCool c) h alert vrhot := by
  have h0 : Sampled s (s.sampled h alert vrhot) h alert vrhot := ⟨State.rd_setReg _ _ _, rfl, rfl, rfl, rfl⟩
  obtain ⟨hrec, hal, hvr, hrods, hparts⟩ := ((s.sampled h alert vrhot).limited_stepped vrhot).sampled alert vrhot h0
  exact ⟨hrec, hal, hvr, hrods, hparts⟩

/-- At once the clock comes down to the regulator's limit. -/
theorem State.limited_freq (s : State) (h : Nat × Int) (alert : Bool) (hf : 15 < s.pwr.freq) :
    ((s.sampled h alert true).limited true).pwr.freq = 15 ∧
    ((s.sampled h alert true).limited true).pwr.lastStep = some ((s.sampled h alert true).limited true).time ∧
    ((s.sampled h alert true).limited true).pwr.warned = true := by
  obtain ⟨hfreq, -, hwarn, hlast, -⟩ := (s.sampled h alert true).stepDown_spec (f := 15) hf
  have ht : ((s.sampled h alert true).stepDown 15).time = s.time := by
    rw [((s.sampled h alert true).stepDown_stepped 15).state]
    rfl
  rw [State.limited, if_pos rfl, ht]
  exact ⟨hfreq, hlast, hwarn⟩

theorem State.sampleHot_spec (s : State) (h : Nat × Int) (alert vrhot : Bool) : Sampled s (s.sampleHot h alert vrhot) h alert vrhot ∧
    (s.sampleHot h alert vrhot).pwr.coolSince = none ∧ (vrhot = true → 15 < s.pwr.freq → (s.sampleHot h alert vrhot).pwr.freq = 15) := by
  have hw := State.warnStep_stepped (((s.sampled h alert vrhot).limited vrhot).withCool none)
  refine ⟨hw.sampled alert vrhot (s.limited_sampled h alert vrhot none), hw.coolSince, ?_⟩
  rintro rfl hf
  obtain ⟨hfreq, hlast, hwarn⟩ := s.limited_freq h alert hf
  rw [State.sampleHot, State.warnStep_of_recent (State.withCool _ none) hlast hwarn]
  exact hfreq

/-- The first step of a hot sample. -/
theorem State.sampleHot_first (s : State) (h : Nat × Int) (alert : Bool) (hl : s.pwr.lastStep = none) (hf : 10 < s.pwr.freq) :
    (s.sampleHot h alert false).pwr.freq = s.pwr.freq - 1 ∧ (s.sampleHot h alert false).pwr.warned = true ∧
    (s.sampleHot h alert false).pwr.vidGoal = vidFor (s.pwr.freq - 1) ∧ (s.sampleHot h alert false).pwr.vid = s.pwr.vid ∧
    (s.pwr.warned = false → ((s.sampleHot h alert false).rd 0x30118).getLsbD 2 = true) := by
  let u := ((s.sampled h alert false).limited false).withCool none
  have heq : s.sampleHot h alert false = u.stepDown (s.pwr.freq - 1) := u.warnStep_of_first hl hf
  obtain ⟨hfreq, hgoal, hwarn, -, hev⟩ := u.stepDown_spec (f := s.pwr.freq - 1) (show s.pwr.freq - 1 < s.pwr.freq by omega)
  rw [heq]
  exact ⟨hfreq, hwarn, hgoal, (u.stepDown_stepped _).vid, hev⟩

theorem State.sampleCool_kept (s : State) (h : Nat × Int) (alert vrhot : Bool) :
    RateKept (((s.sampled h alert vrhot).limited vrhot).withCool (s.coolNow h.2)) (s.sampleCool h alert vrhot) := by
  unfold State.sampleCool
  dsimp only
  split
  · exact iteInduction (motive := RateKept _) (fun _ => State.raiseStep_kept _) (fun _ => .refl _)
  · exact .refl _

theorem State.sampleCool_spec (s : State) (h : Nat × Int) (alert vrhot : Bool) : Sampled s (s.sampleCool h alert vrhot) h alert vrhot ∧
    (vrhot = true → 15 < s.pwr.freq → (s.sampleCool h alert vrhot).pwr.freq = 15) ∧
    (vrhot = false → (s.sampleCool h alert vrhot).pwr.freq = s.pwr.freq ∧ (s.sampleCool h alert vrhot).rd 0x30118 = s.rd 0x30118) := by
  have hk := s.sampleCool_kept h alert vrhot
  refine ⟨hk.sampled alert vrhot (s.limited_sampled h alert vrhot _), ?_, ?_⟩
  · rintro rfl hf
    exact hk.freq.trans (s.limited_freq h alert hf).1
  · rintro rfl
    have hrec : (s.sampled h alert false).rd 0x30118 = s.rd 0x30118 := State.rd_setReg_ne _ _ (by decide)
    exact ⟨hk.freq, (hk.rd _).trans hrec⟩

theorem execThermalSample_spec (hp : s.powered = true) (hne : temps ≠ []) :
    ∃ t i m, exec (.thermalSample temps watts alert vrhot) s = .next t ∧ temps[i]? = some m ∧ (∀ x ∈ temps, x ≤ m) ∧
      t.rd 0x10230 = w64 (i % 128 * 65536 + (BitVec.ofInt 16 m).toNat) ∧ t.pwr.thermAlert = alert ∧ t.pwr.vrhot = vrhot ∧
      t.rods = s.rods ∧ t.parts = s.parts ∧
      let hot := m > 10 * (s.rf 0x10220 6 0 : Int) ∨ alert = true ∨ min (s.rf 0x10218 11 0) s.design.maxPower < watts
      (hot → t.pwr.coolSince = none) ∧
      (vrhot = false → hot → s.pwr.lastStep = none → 10 < s.pwr.freq → t.pwr.freq = s.pwr.freq - 1 ∧ t.pwr.warned = true ∧
        t.pwr.vidGoal = vidFor (s.pwr.freq - 1) ∧ t.pwr.vid = s.pwr.vid ∧ (s.pwr.warned = false → (t.rd 0x30118).getLsbD 2 = true)) ∧
      (vrhot = true → 15 < s.pwr.freq → t.pwr.freq = 15) ∧
      (vrhot = false → ¬hot → t.pwr.freq = s.pwr.freq ∧ t.rd 0x30118 = s.rd 0x30118) := by
  obtain ⟨hval, hmax⟩ := hottest_of_ne_nil hne
  have hex := execThermalSample_eq (temps := temps) (watts := watts) alert vrhot hp rfl
  split at hex
  · next hot =>
    obtain ⟨hs, hcool, hfreq⟩ := s.sampleHot_spec (hottest temps 0 (0, temps.headD 0)) alert vrhot
    refine ⟨_, _, _, hex, hval, hmax, hs.record, hs.thermAlert, hs.vrhot, hs.rods, hs.parts, fun _ => hcool, ?_, hfreq,
      fun _ h => absurd hot h⟩
    rintro rfl _ hl hf
    exact s.sampleHot_first _ alert hl hf
  · next hot =>
    obtain ⟨hs, hfreq, hkeep⟩ := s.sampleCool_spec (hottest temps 0 (0, temps.headD 0)) alert vrhot
    exact ⟨_, _, _, hex, hval, hmax, hs.record, hs.thermAlert, hs.vrhot, hs.rods, hs.parts, fun h => absurd h hot,
      fun _ h => absurd h hot, hfreq, fun hv _ => hkeep hv⟩

end

/-! ### The alert inputs, CLOCK_STEP and the thermal trip -/

/-- The partition as the group release begins, with `n` rods. -/
def Part.released (x : Part) (n : Nat) (now : W64) : Part :=
  { x with groups := [], startAt := now, starts := (List.range (ceilDiv (n / 8) 8 - 1)).map (· + 1) }

/-- What unit actions and partitions' changes leave: frames are named by registers that units do not write. -/
theorem Resumed.rodsOf {s u : State} (h : Resumed s u) (p : Nat) : u.rodsOf p = s.rodsOf p := by
  have hd : u.design = s.design := by rw [h.state]
  rw [State.rodsOf, State.rodsOf, hd, h.regs _ (.inr (by unfold pReg; omega))]
  rfl

theorem Resumed.time {s u : State} (h : Resumed s u) : u.time = s.time := by rw [h.state]
theorem Resumed.pwr {s u : State} (h : Resumed s u) : u.pwr = s.pwr := by rw [h.state]

section
variable (s : State) (p : Nat)

theorem State.holdGroups_startPart_resumed : Resumed s ((s.holdGroups p).startPart p) :=
  (s.setPart_resumed p _).trans ((UnitActed.refl _).startPart p).resumed

theorem State.holdGroups_startPart_part :
    ((s.holdGroups p).startPart p).part p = (s.part p).released (s.rodsOf p).length s.time :=
  ((UnitActed.refl _).startPart p |>.part p).trans (State.part_setPart _ _ _)

theorem State.holdGroups_startPart_part_ne {q : Nat} (h : q ≠ p) : ((s.holdGroups p).startPart p).part q = s.part q :=
  ((UnitActed.refl _).startPart p |>.part q).trans (State.part_setPart_ne _ _ h)

theorem State.throttleOver_resumed : Resumed s s.throttleOver :=
  State.forEach_induct (P := Resumed s) (fun p u hu => hu.trans (u.holdGroups_startPart_resumed p)) _ (.refl s)

theorem State.throttleOver_part_of_running (hp : p < 16) (h : (s.part p).st = .running) :
    s.throttleOver.part p = (s.part p).released (s.rodsOf p).length s.time := by
  refine State.forEach_once (I := Resumed s) (P := fun p u => u.part p = s.part p)
    (Q := fun p u => u.part p = (s.part p).released (s.rodsOf p).length s.time) (fun q u hu => hu.trans (u.holdGroups_startPart_resumed q))
    (fun q u hu hq => ?_) (fun q r u _ hqr hq => (u.holdGroups_startPart_part_ne r hqr).trans hq)
    (fun q r u _ hqr hq => (u.holdGroups_startPart_part_ne r hqr).trans hq) _ (List.nodup_range.filter _) (.refl s) (fun _ _ => rfl) p
    (List.mem_filter.mpr ⟨List.mem_range.mpr hp, decide_eq_true h⟩)
  rw [u.holdGroups_startPart_part, hq, hu.rodsOf, hu.time]

end

/-- What every action of a list's elements keeps holds afterwards. -/
theorem State.forEach_mem {α : Type} {P : State → Prop} {f : α → State → State} :
    ∀ {l : List α}, (∀ a ∈ l, ∀ u, P u → P (f a u)) → ∀ {s : State}, P s → P (s.forEach l f)
  | [], _, _, h => h
  | a :: l, hf, s, h => State.forEach_mem (l := l) (fun b hb => hf b (List.mem_cons_of_mem _ hb)) (s := f a s) (hf a List.mem_cons_self s h)

theorem State.throttleOver_part_of_other (s : State) {p : Nat} (h : (s.part p).st ≠ .running) : s.throttleOver.part p = s.part p := by
  refine State.forEach_mem (P := fun u => u.part p = s.part p) (fun q hq u hu => ?_) rfl
  have hne : p ≠ q := fun e => h (of_decide_eq_true (e ▸ (List.mem_filter.mp hq).2))
  exact (u.holdGroups_startPart_part_ne q hne).trans hu

/-- The rod clock follows the code. -/
def State.clockAt (s : State) (f : Nat) : State :=
  { s with pwr := { s.pwr with freq := f, raising := none, lastStep := some s.time, warned := s.pwr.warned && decide (f < 20) } }

section
variable {s : State}

theorem execClockStep_of_due (hp : s.powered = true) {f : Nat} {t0 : W64} (hr : s.pwr.raising = some (f, t0))
    (ht : t0.toNat + 20000 ≤ s.time.toNat) (hv : s.pwr.vid = s.pwr.vidGoal) :
    exec .clockStep s = .next (if s.pwr.warned = true ∧ 20 ≤ f then (s.clockAt f).throttleOver else s.clockAt f) := by
  refine congrArg Host.Outcome.next ?_
  rw [hr]
  refine (if_pos (by simp [hp, hv, ht])).trans (if_congr ?_ rfl rfl)
  rw [Bool.and_eq_true, decide_eq_true_iff]

theorem execClockStep_of_early {f : Nat} {t0 : W64} (hr : s.pwr.raising = some (f, t0))
    (h : s.time.toNat < t0.toNat + 20000 ∨ s.pwr.vid ≠ s.pwr.vidGoal) : exec .clockStep s = .next s := by
  refine congrArg Host.Outcome.next ?_
  rw [hr]
  refine if_neg ?_
  rw [Bool.and_eq_true, Bool.and_eq_true, decide_eq_true_iff, beq_iff_eq]
  rintro ⟨⟨-, hv⟩, ht⟩
  rcases h with h | h
  · omega
  · exact h hv

/-- A step that ends no throttle changes the power unit alone; one that ends a throttle starts the partitions that run under the group
release. -/
theorem execClockStep_spec (hp : s.powered = true) {f : Nat} {t0 : W64} (hr : s.pwr.raising = some (f, t0))
    (ht : t0.toNat + 20000 ≤ s.time.toNat) (hv : s.pwr.vid = s.pwr.vidGoal) : ∃ t, exec .clockStep s = .next t ∧ t.pwr.freq = f ∧
      t.pwr.raising = none ∧ t.pwr.lastStep = some s.time ∧ (¬(s.pwr.warned = true ∧ 20 ≤ f) → t = { s with pwr := t.pwr }) ∧
      (s.pwr.warned = true → 20 ≤ f → ∀ p, p < 16 → ((s.part p).st ≠ .running → t.part p = s.part p) ∧
        ((s.part p).st = .running → t.part p = { s.part p with
          groups := [], startAt := s.time
          starts := (List.range (ceilDiv ((s.rodsOf p).length / 8) 8 - 1)).map (· + 1) })) := by
  have hex := execClockStep_of_due hp hr ht hv
  split at hex
  · next h =>
    have hpwr := (s.clockAt f).throttleOver_resumed.pwr
    exact ⟨_, hex, congrArg Power.freq hpwr, congrArg Power.raising hpwr, congrArg Power.lastStep hpwr, fun hn => absurd h hn,
      fun _ _ p hq => ⟨(s.clockAt f).throttleOver_part_of_other, (s.clockAt f).throttleOver_part_of_running p hq⟩⟩
  · next h => exact ⟨_, hex, rfl, rfl, rfl, fun _ => rfl, fun hw hf => absurd ⟨hw, hf⟩ h⟩

/-- The trip is latched in a power unit that was `x`. -/
def State.latchTrip (s : State) (x : Power) : State := { s with pwr := { x with thermtrip := true } }

/-- PWR_TRIP and the event of a trip. -/
def State.tripNoted (s : State) : State := (s.setReg 0x10238 1).event 3

theorem execThermtrip_of_hot (hp : s.powered = true) (hn : s.pwr.thermtrip = false)
    (h : 10 * (s.rf 0x10228 6 0 : Int) ≤ signedOf 16 (s.rf 0x10230 15 0)) :
    exec .thermtrip s = .next ((s.haltParts.latchTrip s.pwr).stepDown 10).tripNoted :=
  congrArg Host.Outcome.next (if_pos (by rw [hp, hn, decide_eq_true h]; rfl))

theorem State.tripNoted_spec (s : State) : s.tripNoted.pwr = s.pwr ∧ s.tripNoted.rods = s.rods ∧ s.tripNoted.parts = s.parts ∧
    s.tripNoted.rd 0x10238 = 1 ∧ (s.tripNoted.rd 0x30118).getLsbD 3 = true := by
  refine ⟨rfl, rfl, rfl, ?_, ?_⟩
  · rw [State.tripNoted, State.event_rd_ne _ _ (by decide), State.rd_setReg]
  · rw [State.tripNoted, State.event_pendingBit, show (w64 (2 ^ 3)).getLsbD 3 = true by decide, Bool.or_true]

theorem State.latchTrip_stepDown (u : State) (x : Power) : ((u.latchTrip x).stepDown 10).pwr.thermtrip = true ∧
    ((u.latchTrip x).stepDown 10).pwr.freq = min x.freq 10 ∧ ((u.latchTrip x).stepDown 10).rods = u.rods ∧
    ((u.latchTrip x).stepDown 10).parts = u.parts := by
  have hs := (u.latchTrip x).stepDown_stepped 10
  exact ⟨hs.thermtrip, (u.latchTrip x).stepDown_freq 10, hs.rods, hs.parts⟩

/-- A trip holds what runs, as a halt does. -/
theorem execThermtrip_spec (hp : s.powered = true) (hn : s.pwr.thermtrip = false)
    (h : 10 * (s.rf 0x10228 6 0 : Int) ≤ signedOf 16 (s.rf 0x10230 15 0)) : ∃ t, exec .thermtrip s = .next t ∧ t.pwr.thermtrip = true ∧
      t.pwr.freq = min s.pwr.freq 10 ∧ t.rd 0x10238 = 1 ∧ (t.rd 0x30118).getLsbD 3 = true ∧ t.rods = s.rods ∧
      ∀ p, p < 16 → t.part p = (s.part p).halt := by
  obtain ⟨htrip, hfreq, hrods, hparts⟩ := s.haltParts.latchTrip_stepDown s.pwr
  obtain ⟨parts, heq⟩ := s.haltParts_spec.1
  have hheld : s.haltParts.rods = s.rods := by rw [heq]
  obtain ⟨hpwr, hr, hp', hreg, hev⟩ := ((s.haltParts.latchTrip s.pwr).stepDown 10).tripNoted_spec
  refine ⟨_, execThermtrip_of_hot hp hn h, by rw [hpwr, htrip], by rw [hpwr, hfreq], hreg, hev, hr.trans (hrods.trans hheld), fun p hlt => ?_⟩
  exact (congrArg (Sparse.get Part.init · p) (hp'.trans hparts)).trans (s.haltParts_spec.2 p hlt)

theorem State.bump_of_ne_zero (s : State) (o : Nat) {n : Nat} (h : n ≠ 0) : s.bump o n = s.setReg o (counterAdd (s.rd o) n) := if_neg h

theorem State.rd_withPwr (s : State) (x : Power) (o : Nat) : State.rd { s with pwr := x } o = s.rd o := rfl

theorem execGovernorTick_of_powered (b : Bool) (hp : s.powered = true) : exec (.governorTick b) s =
    .next (let u := { s with pwr := { s.pwr with filler := b } }
      if b then u.setReg (cntBlk 32) (counterAdd (s.rd (cntBlk 32)) 10) else u) := by
  have h : exec (.governorTick b) s = .next (if b then ({ s with pwr := { s.pwr with filler := b } } : State).bump (cntBlk 32) 10
    else { s with pwr := { s.pwr with filler := b } }) := congrArg Host.Outcome.next (if_pos hp)
  rw [h, State.bump_of_ne_zero _ _ (by decide), State.rd_withPwr]

end

/-! ### The group release, and the statement -/

section
variable {s : State} {p : Fin 16} {g : Nat} {r : List Nat} (hq : (s.part p).starts = g :: r)
include hq

theorem execGroupRelease_of_due (hl : s.live = true) (hn : s.stalled = false) (ht : (s.part p).startAt.toNat + 1250 ≤ s.time.toNat) :
    exec (.groupRelease p) s =
      .next (((s.onPart p (fun x => { x with starts := r, startAt := x.startAt + 1250 })).bump (cntBlk 34) 1250).startPart p) := by
  refine congrArg Host.Outcome.next ?_
  rw [hq]
  exact if_pos (by rw [hl, hn, decide_eq_true ht]; rfl)

theorem execGroupRelease_of_early (h : s.stalled = true ∨ ¬(s.part p).startAt.toNat + 1250 ≤ s.time.toNat) :
    exec (.groupRelease p) s = .next s := by
  refine congrArg Host.Outcome.next ?_
  rw [hq]
  refine if_neg ?_
  rw [Bool.and_eq_true, Bool.and_eq_true, decide_eq_true_iff]
  rintro ⟨⟨-, hs⟩, ht⟩
  rcases h with h | h
  · rw [h] at hs
    exact absurd hs (by decide)
  · exact h ht

end

theorem State.onPart_spec (s : State) (p : Nat) (f : Part → Part) : (s.onPart p f).part p = f (s.part p) ∧
    (∀ o, (s.onPart p f).rd o = s.rd o) ∧ (s.onPart p f).rods = s.rods := ⟨State.part_setPart _ _ _, fun _ => rfl, rfl⟩

theorem State.setReg_frame (s : State) (o : Nat) (v : W64) : (∀ p, (s.setReg o v).part p = s.part p) ∧ (s.setReg o v).rods = s.rods :=
  ⟨fun _ => rfl, rfl⟩

theorem State.onPart_bump_spec (s : State) (p o : Nat) {n : Nat} (hn : n ≠ 0) (f : Part → Part) :
    ((s.onPart p f).bump o n).part p = f (s.part p) ∧ ((s.onPart p f).bump o n).rd o = counterAdd (s.rd o) n ∧
    ((s.onPart p f).bump o n).rods = s.rods := by
  obtain ⟨hpart, hrd, hrods⟩ := s.onPart_spec p f
  rw [State.bump_of_ne_zero _ _ hn, State.rd_setReg, hrd, (State.setReg_frame _ _ _).1, (State.setReg_frame _ _ _).2]
  exact ⟨hpart, rfl, hrods⟩

/-- Settles O50, from the hottest reading and the clock's steps, the halting of partitions (shared with cx_halt) and the group release
(shared with the units' frame). What a throttle's end starts is the model's choice (log entry 128). -/
theorem thermalLimitsClocksAndGovernor : Obligations.ThermalLimitsClocksAndGovernor := by
  refine ⟨fun s temps watts alert vrhot hne => ⟨fun hp => ?_, fun hp => execThermalSample_spec alert vrhot hp hne⟩, fun s hp =>
    ⟨fun hf => ?_, fun hf => ?_, fun hf hl => ?_, fun hf => ?_, fun f t0 hr => ⟨execClockStep_spec hp hr, execClockStep_of_early hr⟩⟩,
    fun s hp => ⟨fun hot hn => ?_, fun h => ?_⟩, fun s b => ⟨fun hp => ?_, fun hp => ?_⟩, fun s p => ⟨fun hq => ?_, fun g r hq => ?_⟩⟩
  · exact congrArg Host.Outcome.next (if_pos (by rw [hp]; rfl))
  · let u : State := { s with pwr := { s.pwr with vrhot := true } }
    obtain ⟨hfreq, hgoal, -, -, hev⟩ := u.stepDown_spec (f := 15) hf
    have hst := u.stepDown_stepped 15
    exact ⟨u.stepDown 15, congrArg Host.Outcome.next (if_pos hp), hfreq, hgoal, hst.vid, hst.vrhot, hev, hst.rods⟩
  · exact congrArg Host.Outcome.next ((if_pos hp).trans (State.stepDown_of_le _ hf))
  · let u : State := { s with pwr := { s.pwr with thermAlert := true, coolSince := none } }
    have hst := u.stepDown_stepped (s.pwr.freq - 1)
    exact ⟨u.stepDown (s.pwr.freq - 1), congrArg Host.Outcome.next ((if_pos hp).trans (u.warnStep_of_first hl hf)),
      (u.stepDown_spec (f := s.pwr.freq - 1) (show s.pwr.freq - 1 < s.pwr.freq by omega)).1, hst.thermAlert, hst.coolSince⟩
  · exact congrArg Host.Outcome.next ((if_pos hp).trans (State.warnStep_of_low _ hf))
  · obtain ⟨t, hex, h1, h2, h3, h4, h5, hpart⟩ := execThermtrip_spec hp hn hot
    refine ⟨t, hex, h1, h2, h3, h4, h5, fun p hlt => ?_⟩
    rw [hpart p hlt]
    exact ⟨fun h => ⟨((s.part p).halt_spec.1 h).1, ((s.part p).halt_spec.1 h).2.2.1⟩, fun h => if_neg h⟩
  · refine congrArg Host.Outcome.next (if_neg ?_)
    rw [Bool.and_eq_true, Bool.and_eq_true, decide_eq_true_iff]
    rintro ⟨⟨-, ht⟩, hot⟩
    rcases h with h | h
    · exact h hot
    · rw [h] at ht
      exact absurd ht (by decide)
  · exact congrArg Host.Outcome.next (if_neg (by rw [hp]; decide))
  · exact execGovernorTick_of_powered b hp
  · refine congrArg Host.Outcome.next ?_
    rw [hq]
  · exact ⟨fun hl hn ht => ⟨_, execGroupRelease_of_due hq hl hn ht, s.onPart_bump_spec p _ (by decide) _⟩, execGroupRelease_of_early hq⟩

end Sys2Proof.Machine
end

section
/-! PROOF. Rod access in DEBUG and the wait-for graph (18_debug_and_counters.md R409 to R411). -/

namespace Sys2Proof.Machine

/-! ### Rod access -/

/-- DBG_ROD_ACCESS as a write keeps it. -/
def State.rodCmd (s : State) (v : W64) : State := s.setReg 0x40080 (setBits v 63 63 0 &&& 0x7FFF0000003FFFFF#64)

/-- A rod's state is open to software: its partition is HELD, in DEBUG. -/
def State.rodOpen (s : State) (l : Nat) : Bool :=
  match s.partOf l with | some p => decide ((s.part p).st = .held) && s.sec.lifecycle == 2 | none => false

section
variable {s : State} {v : W64}

theorem State.rodAccess_of_closed (h : v.getLsbD 63 = false ∨ s.rodOpen (bits v 61 53) = false ∨ rodIndexOk (bits v 52 48) (bits v 21 0) = false) :
    s.rodAccess v = s.rodCmd v := by
  refine if_pos ?_
  rw [Bool.or_eq_true, Bool.or_eq_true, Bool.not_eq_true', Bool.not_eq_true', Bool.not_eq_true', or_assoc]
  exact h

section
variable (h63 : v.getLsbD 63 = true) (ho : s.rodOpen (bits v 61 53) = true) (hi : rodIndexOk (bits v 52 48) (bits v 21 0) = true)
include h63 ho hi

theorem State.rodAccess_of_open : s.rodAccess v = if v.getLsbD 62 then (s.rodCmd v).rodPoke (bits v 61 53) (bits v 52 48) (bits v 21 0) (s.rd 0x40088)
    else (s.rodCmd v).setReg 0x40088 (s.rodPeek (bits v 61 53) (bits v 52 48) (bits v 21 0)) := by
  refine if_neg ?_
  rw [Bool.or_eq_true, Bool.or_eq_true, Bool.not_eq_true', Bool.not_eq_true', Bool.not_eq_true', or_assoc]
  rintro (h | h | h)
  · exact absurd (h63.symm.trans h) (by decide)
  · exact absurd (ho.symm.trans h) (by decide)
  · exact absurd (hi.symm.trans h) (by decide)

theorem State.rodAccess_reads (h62 : v.getLsbD 62 = false) :
    s.rodAccess v = (s.rodCmd v).setReg 0x40088 (s.rodPeek (bits v 61 53) (bits v 52 48) (bits v 21 0)) := by
  rw [State.rodAccess_of_open h63 ho hi, h62, if_neg Bool.false_ne_true]

theorem State.rodAccess_writes (h62 : v.getLsbD 62 = true) :
    s.rodAccess v = (s.rodCmd v).rodPoke (bits v 61 53) (bits v 52 48) (bits v 21 0) (s.rd 0x40088) := by
  rw [State.rodAccess_of_open h63 ho hi, h62, if_pos rfl]

end

theorem State.rodOpen_of_held {l p : Nat} (hl : s.sec.lifecycle = 2) (hp : s.partOf l = some p) (hh : (s.part p).st = .held) :
    s.rodOpen l = true := by
  rw [State.rodOpen, hp]
  dsimp only
  rw [hl, hh]
  rfl

/-- A register's write keeps rods with their bead memory and places. -/
theorem State.setReg_rods_kept (s : State) (o : Nat) (x : W64) : (s.setReg o x).rods = s.rods ∧ (s.setReg o x).bead = s.bead ∧
    (∀ l, (s.setReg o x).phys l = s.phys l) ∧ ∀ k, (s.setReg o x).rod k = s.rod k := ⟨rfl, rfl, fun _ => rfl, fun _ => rfl⟩

theorem State.rodCmd_spec (s : State) (v : W64) : (s.rodCmd v).rods = s.rods ∧ (s.rodCmd v).bead = s.bead ∧
    (∀ l, (s.rodCmd v).phys l = s.phys l) ∧ (∀ k, (s.rodCmd v).rod k = s.rod k) ∧ (s.rodCmd v).rd 0x40088 = s.rd 0x40088 := by
  unfold State.rodCmd
  obtain ⟨h1, h2, h3, h4⟩ := s.setReg_rods_kept 0x40080 (setBits v 63 63 0 &&& 0x7FFF0000003FFFFF#64)
  exact ⟨h1, h2, h3, h4, State.rd_setReg_ne _ _ (by decide)⟩

/-- What a write of a scalar register leaves. -/
theorem State.rodPoke_scalar (t : State) (l : Nat) {i : Nat} (hi : i < 32) (x : W64) :
    (t.rodPoke l 1 i x).rod (t.phys l) = (t.rod (t.phys l)).sset i x ∧ (∀ k, k ≠ t.phys l → (t.rodPoke l 1 i x).rod k = t.rod k) ∧
    (t.rodPoke l 1 i x).bead = t.bead ∧ ∀ o, (t.rodPoke l 1 i x).rd o = t.rd o := by
  refine ⟨?_, fun k hk => t.rod_onRod_ne _ hk, rfl, fun _ => rfl⟩
  rw [← Nat.mod_eq_of_lt hi]
  exact (State.rod_setRod _ _ _).trans (by rw [Nat.mod_mod])

/-- What a write of bead memory leaves. -/
theorem State.rodPoke_bead (t : State) (l i : Nat) (x : W64) :
    (t.rodPoke l 0 i x).beadRead (t.phys l) i 8 = leBytes 8 x.toNat ∧ (t.rodPoke l 0 i x).rods = t.rods := by
  refine ⟨?_, rfl⟩
  have h := Memory.readN_writeN (leBytes 8 x.toNat) t.bead (2 ^ 22 * t.phys l + i)
  rw [leBytes_length] at h
  exact h

theorem w64_toNat_eq_setWidth (x : W32) : w64 x.toNat = x.setWidth 64 := BitVec.ofNat_toNat 64 x

/-- Registers, predicates and counters by index. -/
theorem State.rodPeek_index {l i : Nat} {x : Nat × W64 × Nat} (hx : x ∈ [(1, (s.rod (s.phys l)).sget i, 32),
      (4, if (s.rod (s.phys l)).pget i then 1 else 0, 8), (5, ((s.rod (s.phys l)).cnt i).setWidth 64, 16)]) (hi : i < x.2.2) :
    s.rodPeek l x.1 i = x.2.1 ∧ rodIndexOk x.1 i = true := by
  simp only [List.mem_cons, List.not_mem_nil, or_false] at hx
  rcases hx with rfl | rfl | rfl
  · exact ⟨congrArg (s.rod (s.phys l)).sget (Nat.mod_eq_of_lt hi), decide_eq_true hi⟩
  · have hval : s.rodPeek l 4 i = w64 (b2n ((s.rod (s.phys l)).pget i)) := by
      rw [State.rodPeek, Nat.mod_eq_of_lt hi]
    refine ⟨hval.trans ?_, decide_eq_true hi⟩
    cases (s.rod (s.phys l)).pget i <;> rfl
  · have hval : s.rodPeek l 5 i = w64 ((s.rod (s.phys l)).cnt i).toNat := by
      rw [State.rodPeek, Nat.mod_eq_of_lt hi]
    exact ⟨hval.trans (w64_toNat_eq_setWidth _), decide_eq_true hi⟩

end

/-! ### The latched graph -/

theorem State.rodDebug_issue_raised {s : State} {p l : Nat} (h : (s.rod (s.phys l)).raised.isEmpty = false ∨ (s.rod (s.phys l)).reported = true) :
    (s.rodDebug p l).issue = 4 := by
  refine if_pos ?_
  rcases h with h | h
  · rw [h]
    rfl
  · rw [h, Bool.or_true]

theorem State.rodDebug_wait {s : State} {p l k n : Nat} {imm : Int} (h : (s.rod (s.phys l)).issue = .waiting k n imm) :
    (s.rodDebug p l).wait = some (k, n, imm, (s.rod (s.phys l)).cnt n) := by
  rw [State.rodDebug]
  dsimp only
  rw [h]

theorem State.wfLatch_rods (s : State) (p : Nat) : (s.wfLatch p).rods.map (·.rod) = s.rodsOf p := by
  refine (List.map_map ..).trans ?_
  exact List.map_id _

theorem State.mem_wfLatch_extents {s : State} {p k : Nat} {y : Stream} {e : Extent} (hy : (s.part p).streams[k]? = some y)
    (he : e ∈ y.extents) : (k, e.rod, e.cnt) ∈ (s.wfLatch p).extents := by
  have hk : k < (s.part p).streams.length := (List.getElem?_eq_some_iff.mp hy).1
  refine List.mem_flatMap.mpr ⟨k, List.mem_range.mpr hk, ?_⟩
  rw [hy]
  exact List.mem_map.mpr ⟨e, he, rfl⟩

/-! ### The records written -/

/-- One record into the ring. -/
def State.wfPut (s : State) (ws : List W64) : State :=
  if (s.rd 0x40068).toNat < 32 then s
  else (s.hbmWrite ((s.rd 0x40060).toNat + (s.rd 0x40070).toNat % (s.rd 0x40068).toNat) (bytesOf ws)).setReg 0x40070 (w64 ((s.rd 0x40070).toNat + 32))

theorem State.wfWrite_cons (s : State) (a b c d : W64) (r : List W64) : s.wfWrite (a :: b :: c :: d :: r) = (s.wfPut [a, b, c, d]).wfWrite r := rfl

/-- What records written to the ring leave, `n` being how many there are. -/
structure RecordsPut (s u : State) (n : Nat) : Prop where
  parts : u.parts = s.parts
  rods : u.rods = s.rods
  capture : u.dbg = s.dbg
  size : u.rd 0x40068 = s.rd 0x40068
  place : u.rd 0x40070 = if (s.rd 0x40068).toNat < 32 then s.rd 0x40070 else s.rd 0x40070 + w64 (32 * n)

theorem State.wfPut_recordsPut (s : State) (ws : List W64) : RecordsPut s (s.wfPut ws) 1 := by
  unfold State.wfPut
  split
  · next h => exact ⟨rfl, rfl, rfl, rfl, by rw [if_pos h]⟩
  · next h =>
    refine ⟨rfl, rfl, rfl, State.rd_setReg_ne _ _ (by decide), ?_⟩
    rw [if_neg h, State.rd_setReg]
    unfold w64
    rw [BitVec.ofNat_add, BitVec.ofNat_toNat, BitVec.setWidth_eq]

theorem RecordsPut.trans {s t u : State} {m n : Nat} (h : RecordsPut s t m) (k : RecordsPut t u n) : RecordsPut s u (m + n) := by
  refine ⟨k.parts.trans h.parts, k.rods.trans h.rods, k.capture.trans h.capture, k.size.trans h.size, ?_⟩
  rw [k.place, h.size, h.place]
  split
  · rfl
  · unfold w64
    rw [BitVec.add_assoc, ← BitVec.ofNat_add, Nat.mul_add]

theorem State.wfWrite_recordsPut : ∀ (n : Nat) (ws : List W64) (s : State), ws.length = 4 * n → RecordsPut s (s.wfWrite ws) n
  | 0, ws, s, h => by
    rw [List.length_eq_zero_iff.mp h]
    refine ⟨rfl, rfl, rfl, rfl, ?_⟩
    rw [show w64 (32 * 0) = 0#64 from rfl, BitVec.add_zero, ite_self]
    rfl
  | n + 1, a :: b :: c :: d :: r, s, h => by
    rw [State.wfWrite_cons, Nat.add_comm n 1]
    exact (s.wfPut_recordsPut _).trans (State.wfWrite_recordsPut n r _ (by simp only [List.length_cons] at h; omega))
  | n + 1, [], _, h | n + 1, [_], _, h | n + 1, [_, _], _, h | n + 1, [_, _, _], _, h => by
    simp only [List.length_cons, List.length_nil] at h
    omega

theorem wfWords_length (c : WfgCapture) (v : Nat) : (wfWords c v).length = 4 * (c.edges.length + 1) := by
  unfold wfWords
  simp only [List.length_append, List.length_flatMap, List.length_cons, List.length_nil, List.map_const', List.sum_replicate, smul_eq_mul]
  omega

/-! ### The second capture, and the statement -/

/-- The first capture ends. -/
def State.captureOver (s : State) : State := { s with dbg := { s.dbg with capture := none }, free := s.free + 1 }

section
variable {s : State} {p : Fin 16} {c : WfgCapture} (hl : s.live = true) (hc : s.dbg.capture = some c)
include hc

theorem execWfgSecondCapture_of_early (h : c.part ≠ p.val ∨ s.time.toNat < c.time.toNat + 10000) : exec (.wfgSecondCapture p) s = .next s := by
  refine congrArg Host.Outcome.next ?_
  rw [hc]
  refine if_pos ?_
  rcases h with h | h
  · simp [h]
  · simp [h]

include hl in
theorem execWfgSecondCapture_of_due (hp : c.part = p.val) (ht : c.time.toNat + 10000 ≤ s.time.toNat) : exec (.wfgSecondCapture p) s =
    .next (let u := s.captureOver.wfWrite (wfWords c (wfVerdict (c.edges.filter (s.wfEdges p).contains)))
      if (s.part p).st = .held ∧ (s.part p).hold = 5 then u.resetPart p 0x0A 0 else u) := by
  refine congrArg Host.Outcome.next ?_
  rw [hc]
  refine (if_neg ?_).trans (if_congr ?_ rfl rfl)
  · simp [hl, hp, ht]
  · rw [Bool.and_eq_true, decide_eq_true_iff, decide_eq_true_iff]

end

/-- Settles O53: access by space and index through the cases of its guard; the capture field by field; the second capture by the number of
records that the graph takes. -/
theorem rodAccessAndWaitForGraph : Obligations.RodAccessAndWaitForGraph := by
  refine ⟨fun s v p hl => ?_, fun s v hl => ⟨fun hv => ?_, fun hv => ?_⟩, fun s p hl => ⟨fun hc => ?_, fun c hc =>
    ⟨execWfgSecondCapture_of_early hc, fun hp ht => ?_⟩⟩⟩
  · have hex : exec (.dbgRodAccess v) s = .next (s.rodAccess v) := congrArg Host.Outcome.next (if_pos hl)
    rw [hex]
    refine ⟨fun h => congrArg _ (State.rodAccess_of_closed ?_), fun h63 hlc hp hh => ?_⟩
    · unfold State.rodOpen
      rcases h with h | h | h | h | ⟨hp, hh⟩
      · exact .inl h
      · refine .inr (.inl ?_)
        split
        · rw [beq_false_of_ne h, Bool.and_false]
        · rfl
      · exact .inr (.inl (by rw [h]))
      · exact .inr (.inr h)
      · exact .inr (.inl (by rw [hp]; dsimp only; rw [decide_eq_false hh, Bool.false_and]))
    · have ho := State.rodOpen_of_held hlc hp hh
      obtain ⟨hrods, hbead, hphys, hrod, hdata⟩ := s.rodCmd_spec v
      refine ⟨fun h62 x hx hsp hi => ?_, fun h62 hsp hi => ?_, fun h62 hsp hi => ?_, fun h62 hsp hi => ?_⟩
      · obtain ⟨hval, hok⟩ := State.rodPeek_index hx hi
        rw [State.rodAccess_reads h63 ho (by rw [hsp]; exact hok) h62, hsp, hval]
        rfl
      · rw [State.rodAccess_reads h63 ho (by rw [hsp]; exact decide_eq_true hi) h62, hsp]
        rfl
      · refine ⟨_, congrArg _ (State.rodAccess_writes h63 ho (by rw [hsp]; exact decide_eq_true hi) h62), ?_⟩
        rw [hsp]
        obtain ⟨h1, h2, h3, h4⟩ := (s.rodCmd v).rodPoke_scalar (bits v 61 53) hi (s.rd 0x40088)
        rw [hphys, hrod] at h1
        rw [hphys] at h2
        simp only [hrod] at h2
        exact ⟨h1, h2, h3.trans hbead, (h4 _).trans hdata⟩
      · refine ⟨_, congrArg _ (State.rodAccess_writes h63 ho (by rw [hsp]; exact decide_eq_true hi) h62), ?_⟩
        rw [hsp]
        obtain ⟨h1, h2⟩ := (s.rodCmd v).rodPoke_bead (bits v 61 53) (bits v 21 0) (s.rd 0x40088)
        rw [hphys] at h1
        exact ⟨h1, h2.trans hrods⟩
  · refine ⟨s.latchWfg (bits v 3 0), congrArg Host.Outcome.next ((if_pos hl).trans (if_pos hv)), rfl, rfl, rfl, _, rfl, rfl, rfl, rfl, rfl, rfl, rfl,
      s.wfLatch_rods _, fun d hd => ?_, fun k e ⟨y, hy, he⟩ => State.mem_wfLatch_extents hy he⟩
    obtain ⟨l, -, rfl⟩ := List.mem_map.mp hd
    exact ⟨rfl, rfl, rfl, State.rodDebug_issue_raised, fun _ _ _ h => State.rodDebug_wait h⟩
  · exact congrArg Host.Outcome.next ((if_pos hl).trans (if_neg (by rw [bit, hv]; decide)))
  · refine congrArg Host.Outcome.next ?_
    rw [hc]
  · have hex := execWfgSecondCapture_of_due hl hc hp ht
    have hput := State.wfWrite_recordsPut _ _ s.captureOver (wfWords_length c (wfVerdict (c.edges.filter (s.wfEdges p).contains)))
    refine ⟨_, hex, fun h => ?_, fun h1 h2 => ?_⟩
    · rw [if_neg (by rintro ⟨h1, h2⟩; exact h.elim (· h1) (· h2))]
      exact ⟨hput.parts, hput.rods, congrArg Debug.capture hput.capture, hput.place⟩
    · rw [if_pos ⟨h1, h2⟩]
      exact congrArg Part.st (State.part_setPart _ _ _)

end Sys2Proof.Machine
end

section
/-! PROOF. Wrapper and TAP instructions, the stacks' pattern engines and the lanes' PRBS runs (20_bringup_and_test.md R443, R445, R446). -/

namespace Sys2Proof.Machine

/-! ### Instructions -/

/-- An instruction register holds a code; the TAP's scan shifts Capture-IR out. -/
def State.selected (s : State) (j : Bool) (code : Nat) : State :=
  if j then ({ s with tst := { s.tst with ir := code } }).send (.tdo true captureIr) else { s with tst := { s.tst with wir := code } }

section
variable (s : State) (j : Bool)

theorem State.instrOpen_of_test (h : s.sec.tstDone = false ∨ s.sec.lifecycle = 2) (code : Nat) : s.instrOpen code = true := by
  rw [State.instrOpen, Bool.or_eq_true, Bool.or_eq_true, Bool.not_eq_true', beq_iff_eq]
  exact .inl h

theorem State.instrOpen_of_listed {code : Nat} (h : [0x00, 0x01, 0x09, 0x0C, 0x0D, 0xFF].contains code = true) : s.instrOpen code = true := by
  rw [State.instrOpen, h, Bool.or_true]

theorem State.instrOpen_of_done (h : s.sec.tstDone = true) (hl : s.sec.lifecycle ≠ 2) {code : Nat}
    (hc : [0x00, 0x01, 0x09, 0x0C, 0x0D, 0xFF].contains code = false) : s.instrOpen code = false := by
  rw [State.instrOpen, h, hc, beq_false_of_ne hl]
  rfl

theorem State.testInstr_of_open {code : Nat} (h : s.instrOpen code = true) (f : State → State) :
    s.testInstr j code f = .next (f (s.selected j code)) := by
  rw [State.testInstr, if_pos h, State.selectInstr, h]
  rfl

theorem State.testInstr_of_closed {code : Nat} (h : s.instrOpen code = false) (f : State → State) :
    s.testInstr j code f = .next (if j then ({ s with tst := { s.tst with ir := 0xFF } }).send (.tdo true captureIr)
      else { s with tst := { s.tst with wir := 0 } }) := by
  rw [State.testInstr, if_neg (by rw [h]; decide), State.selectInstr, h]
  rfl

/-- The boundary instructions' act. -/
def State.boundary (u : State) (j : Bool) (cells : List Bool) : State :=
  ({ u with tst := { u.tst with cells := cells } }).shiftOut j cells.length

/-- The scan's act. -/
def State.scanned (u : State) (j : Bool) (cells : List Bool) : State := ({ u with tst := { u.tst with scan := cells } }).shiftOut j cells.length

section
variable (cells : List Bool) (l : List Nat)

theorem exec_wsBypass : exec (.wsBypass j) s = s.testInstr j 0x00 (fun u => u) := rfl
theorem exec_wsExtest : exec (.wsExtest j cells) s = s.testInstr j 0x01 (fun u => u.boundary j cells) := rfl
theorem exec_wsIntest : exec (.wsIntest j cells) s = s.testInstr j 0x02 (fun u => u.boundary j cells) := rfl
theorem exec_wsScan : exec (.wsScan j cells) s = s.testInstr j 0x04 (fun u => u.scanned j cells) := rfl
theorem exec_wsLbist : exec (.wsLbist j l) s =
    s.testInstr j 0x05 (fun u => u.shiftOut j (l.filter (fun r => decide (r < u.design.physRods))).length) := rfl
theorem exec_wsMbist : exec (.wsMbist j l) s = s.testInstr j 0x06 (fun u => u.shiftOut j l.length) := rfl
theorem exec_wsFuse (w : FuseWrite) : exec (.wsFuse j w) s = s.testInstr j 0x08 (fun u => u.fuseWrite w) := rfl
theorem exec_wsIjtag : exec (.wsIjtag j) s = s.testInstr j 0x0A (fun u => u) := rfl
theorem exec_samplePreload : exec (.samplePreload cells) s = s.testInstr true 0x0D (fun u => u.boundary true cells) := rfl
theorem exec_bypass : exec .bypass s = s.testInstr true 0xFF (fun u => u) := rfl
theorem exec_idcode : exec .idcode s =
    s.testInstr true 0x0C (fun u => u.send (.tdo true ((List.range 32).map (fun k => bit (0x0C512A4F#32) k)))) := rfl

theorem exec_wsHbm_of_present {st : Fin 16} (h : st.val < s.design.stacks) : exec (.wsHbm j st) s = s.testInstr j 0x09 (fun u => u) := if_pos h

theorem exec_wsHbm_of_absent {st : Fin 16} (h : ¬st.val < s.design.stacks) : exec (.wsHbm j st) s = s.testInstr j 0x00 (fun u => u) := if_neg h

end

/-- What entering an instruction leaves. -/
structure Selected (s u : State) (j : Bool) (code : Nat) : Prop where
  state : u = { s with tst := u.tst, out := u.out }
  out : u.out = s.out ++ if j then [.tdo true captureIr] else []
  code : if j then u.tst.ir = code else u.tst.wir = code
  scan : u.tst.scan = s.tst.scan
  fuses : u.tst.fuses = s.tst.fuses

theorem State.selected_spec (code : Nat) : Selected s (s.selected j code) j code := by
  cases j
  · exact ⟨rfl, (List.append_nil _).symm, rfl, rfl, rfl⟩
  · exact ⟨rfl, rfl, rfl, rfl, rfl⟩

/-- Captured bits leave: free values and the output change. -/
theorem State.shiftOut_spec (n : Nat) : ∃ bs, s.shiftOut j n = { s with free := s.free + ceilDiv n 64, out := s.out ++ [.tdo j bs] } ∧ bs.length = n :=
  ⟨freeBits s.free n, rfl, (List.length_map _).trans List.length_range⟩

/-- The boundary instructions: the cells are loaded and as many bits leave. -/
theorem State.boundary_spec (code : Nat) (cells : List Bool) : ∃ bs,
    let t := (s.selected j code).boundary j cells
    t.tst.cells = cells ∧ t.out = s.out ++ (if j then [.tdo true captureIr] else []) ++ [.tdo j bs] ∧ bs.length = cells.length ∧
      t.rods = s.rods ∧ t.regs = s.regs ∧ (if j then t.tst.ir = code else t.tst.wir = code) := by
  obtain ⟨hst, hout, hcode, -, -⟩ := s.selected_spec j code
  obtain ⟨bs, heq, hlen⟩ :=
    State.shiftOut_spec ({ s.selected j code with tst := { (s.selected j code).tst with cells := cells } }) j cells.length
  refine ⟨bs, ?_⟩
  rw [State.boundary, heq, ← hout]
  exact ⟨rfl, rfl, hlen, by rw [hst], by rw [hst], hcode⟩

/-- Scan and self-tests: results leave. -/
theorem State.results_spec {u : State} (code n : Nat) (hu : ∃ sc, u = { s.selected j code with tst := { (s.selected j code).tst with scan := sc } }) :
    ∃ bs, (u.shiftOut j n).tst.scan = u.tst.scan ∧ (u.shiftOut j n).out = s.out ++ (if j then [.tdo true captureIr] else []) ++ [.tdo j bs] ∧
      bs.length = n ∧ (u.shiftOut j n).rods = s.rods ∧ (u.shiftOut j n).hbm = s.hbm ∧ (u.shiftOut j n).bead = s.bead := by
  obtain ⟨hst, hout, -, -, -⟩ := s.selected_spec j code
  obtain ⟨bs, heq, hlen⟩ := u.shiftOut_spec j n
  obtain ⟨sc, rfl⟩ := hu
  refine ⟨bs, ?_⟩
  rw [heq, ← hout]
  exact ⟨rfl, rfl, hlen, by rw [hst], by rw [hst], by rw [hst]⟩

theorem State.fuseWrite_spec (w : FuseWrite) : (s.fuseWrite w).rods = s.rods ∧ (s.fuseWrite w).regs = s.regs ∧
    (w = .tstDone → (s.fuseWrite w).sec.tstDone = true ∧ (s.fuseWrite w).sec.lifecycle ≠ 0) ∧
    (∀ ph, w = .retire ph → ph ∈ (s.fuseWrite w).flt.retired ∧ (s.fuseWrite w).flt.fuseRecs = s.flt.fuseRecs ++ [(1, ph, 0)]) ∧
    (∀ n v, w = .row n v → Sparse.get 0 (s.fuseWrite w).tst.fuses n = Sparse.get 0 s.tst.fuses n ||| v) := by
  cases w with
  | tstDone =>
    refine ⟨rfl, rfl, fun _ => ⟨rfl, ?_⟩, fun _ h => FuseWrite.noConfusion h, fun _ _ h => FuseWrite.noConfusion h⟩
    rw [State.fuseWrite]
    dsimp only
    split
    · decide
    · next h => exact h
  | retire ph =>
    refine ⟨rfl, rfl, fun h => FuseWrite.noConfusion h, fun k h => ?_, fun _ _ h => FuseWrite.noConfusion h⟩
    obtain rfl : ph = k := FuseWrite.retire.inj h
    refine ⟨?_, rfl⟩
    rw [State.fuseWrite]
    dsimp only
    split
    · next h => exact List.contains_iff_mem.mp h
    · exact List.mem_append_right _ List.mem_cons_self
  | row n v =>
    refine ⟨rfl, rfl, fun h => FuseWrite.noConfusion h, fun _ h => FuseWrite.noConfusion h, fun k x h => ?_⟩
    obtain ⟨rfl, rfl⟩ := FuseWrite.row.inj h
    exact Sparse.get_put_self _ _ _ _

end

/-! ### Pattern engines -/

/-- One result of a run is counted. -/
def State.countRun (s : State) (o : Nat) : State := s.draw.2.bump o (s.draw.1.toNat % 2 ^ 48)

theorem State.countRun_spec (s : State) (o : Nat) : ∃ regs, s.countRun o = { s with free := s.free + 1, regs := regs } ∧
    (∃ d, (s.countRun o).rd o = if d = 0 then s.rd o else counterAdd (s.rd o) d) ∧ ∀ k, k ≠ o → (s.countRun o).rd k = s.rd k := by
  obtain ⟨regs, h⟩ := s.draw.2.bump_spec o (s.draw.1.toNat % 2 ^ 48)
  refine ⟨regs, h, ⟨s.draw.1.toNat % 2 ^ 48, ?_⟩, fun k hk => State.rd_bump_ne _ _ hk⟩
  unfold State.countRun State.bump
  split
  · rfl
  · exact State.rd_setReg _ _ _

/-- The three counters of a run. -/
def State.countThree (s : State) (o : Nat → Nat) : State := ((s.countRun (o 1)).countRun (o 2)).countRun (o 3)

theorem State.countThree_spec (s : State) {o : Nat → Nat} (h12 : o 1 ≠ o 2) (h13 : o 1 ≠ o 3) (h23 : o 2 ≠ o 3) :
    (∃ regs, s.countThree o = { s with free := s.free + 3, regs := regs }) ∧
    ∀ k ∈ [1, 2, 3], ∃ d, (s.countThree o).rd (o k) = if d = 0 then s.rd (o k) else counterAdd (s.rd (o k)) d := by
  obtain ⟨r1, e1, ⟨d1, v1⟩, n1⟩ := s.countRun_spec (o 1)
  obtain ⟨r2, e2, ⟨d2, v2⟩, n2⟩ := (s.countRun (o 1)).countRun_spec (o 2)
  obtain ⟨r3, e3, ⟨d3, v3⟩, n3⟩ := ((s.countRun (o 1)).countRun (o 2)).countRun_spec (o 3)
  rw [n1 _ h12.symm] at v2
  rw [n2 _ h23.symm, n1 _ h13.symm] at v3
  refine ⟨⟨r3, ?_⟩, fun k hk => ?_⟩
  · rw [State.countThree, e3, e2, e1]
  · simp only [List.mem_cons, List.not_mem_nil, or_false] at hk
    rcases hk with rfl | rfl | rfl
    · exact ⟨d1, by rw [State.countThree, n3 _ h13, n2 _ h12, v1]⟩
    · exact ⟨d2, by rw [State.countThree, n3 _ h23, v2]⟩
    · exact ⟨d3, v3⟩

theorem State.countStack_spec (s : State) (st : Nat) : (∃ regs, s.countThree (cntStack st) = { s with free := s.free + 3, regs := regs }) ∧
    ∀ k ∈ [1, 2, 3], ∃ d, (s.countThree (cntStack st)).rd (cntStack st k) =
      if d = 0 then s.rd (cntStack st k) else counterAdd (s.rd (cntStack st k)) d :=
  s.countThree_spec (by unfold cntStack; omega) (by unfold cntStack; omega) (by unfold cntStack; omega)

theorem State.chanOn_eq_none {s : State} {st ph : Nat} (h : ∀ c, c < 31 → s.physChan st c ≠ ph) : s.chanOn st ph = none :=
  List.find?_eq_none.mpr fun c hc he => h c (List.mem_range.mp hc) (beq_iff_eq.mp he)

theorem State.chanOn_isSome {s : State} {st ph c : Nat} (hc : c < 31) (h : s.physChan st c = ph) : ∃ k, s.chanOn st ph = some k :=
  Option.isSome_iff_exists.mp (List.find?_isSome.mpr ⟨c, List.mem_range.mpr hc, beq_iff_eq.mpr h⟩)

/-- The run's destruction of a channel's contents reaches only HBM. -/
theorem State.destroyAll_frame (s : State) (l : List Nat) : (s.forEach l (fun g u => u.destroy g)).rods = s.rods ∧
    (s.forEach l (fun g u => u.destroy g)).parts = s.parts ∧ (s.forEach l (fun g u => u.destroy g)).bead = s.bead :=
  State.forEach_induct (P := fun u => u.rods = s.rods ∧ u.parts = s.parts ∧ u.bead = s.bead) (f := fun g u => u.destroy g) (fun _ _ h => h) l ⟨rfl, rfl, rfl⟩

section
variable {s : State} {st : Fin 16} {ph : Fin 32} (pat : HbmPattern) (a n : Nat)

theorem execTstHbmCtrl_of_off (h : s.powered = false ∨ s.design.stacks ≤ st.val) : exec (.tstHbmCtrl st ph pat a n) s = .next s := by
  refine congrArg Host.Outcome.next (if_pos ?_)
  rw [Bool.or_eq_true, Bool.not_eq_true', decide_eq_true_iff]
  exact h

section
variable (hp : s.powered = true) (hs : st.val < s.design.stacks)
include hp hs

theorem execTstHbmCtrl_of_on : exec (.tstHbmCtrl st ph pat a n) s = .next (match s.chanOn st ph with
    | none => if s.flt.copying.any (fun x => x.1 == st.val) then s else s.countThree (cntStack st)
    | some c => if (List.range 16).all (fun p => decide ((s.part p).st = .off)) then
        (s.forEach (s.runGranules st c a n) (fun g u => u.destroy g)).countThree (cntStack st) else s) := by
  refine congrArg Host.Outcome.next (if_neg ?_)
  rw [hp, decide_eq_false (by omega)]
  decide

theorem execTstHbmCtrl_of_spare (hc : ∀ c, c < 31 → s.physChan st c ≠ ph) : exec (.tstHbmCtrl st ph pat a n) s =
    .next (if s.flt.copying.any (fun x => x.1 == st.val) then s else s.countThree (cntStack st)) := by
  rw [execTstHbmCtrl_of_on pat a n hp hs, State.chanOn_eq_none hc]

theorem execTstHbmCtrl_of_used {c : Nat} (hc : c < 31) (he : s.physChan st c = ph) : ∃ k, exec (.tstHbmCtrl st ph pat a n) s =
    .next (if ∀ p ∈ List.range 16, (s.part p).st = .off then
      (s.forEach (s.runGranules st k a n) (fun g u => u.destroy g)).countThree (cntStack st) else s) := by
  obtain ⟨k, hk⟩ := State.chanOn_isSome hc he
  refine ⟨k, ?_⟩
  rw [execTstHbmCtrl_of_on pat a n hp hs, hk]
  refine congrArg Host.Outcome.next (if_congr ?_ rfl rfl)
  simp only [List.all_eq_true, decide_eq_true_iff]

end

end

/-! ### PRBS -/

/-- The bits of FAB_PRBS_CTRL that the configuration has. -/
def State.prbsBits (s : State) (v : W64) : W64 := v &&& w64 (7 * 2 ^ 61 + (2 ^ (32 + s.design.spareLanes) - 1))

/-- A lane is in use by an enabled port. -/
def State.laneInUse (s : State) (p n : Nat) : Prop := (s.rd 0x600010).getLsbD p = true ∧ (n ∈ (s.port p).rxMap ∨ n ∈ (s.port p).txMap)

/-- The lanes that a write names. -/
def State.prbsLanes (s : State) (v : W64) : List Nat := s.portLanes.filter (bit (s.prbsBits v))

/-- A run on the lanes that its command names. -/
def State.prbsRun (s : State) (p : Nat) (v : W64) : State :=
  let d := (s.setReg (0x600310 + 0x20 * p) (s.prbsBits v)).draw
  (d.2.setReg (0x600310 + 0x20 * p + 8) (d.1 &&& s.prbsBits v &&& 0xFFFFFFFFF#64)).forEach (s.prbsLanes v)
    (fun n u => u.countRun (cntPort p (8 + n)))

section
variable {s : State} {p : Nat} {v : W64}

theorem State.mem_prbsLanes {n : Nat} : n ∈ s.prbsLanes v ↔ n < 32 + s.design.spareLanes ∧ (s.prbsBits v).getLsbD n = true :=
  List.mem_filter.trans (and_congr_left fun _ => List.mem_range)

theorem State.prbsAllowed_iff {n : Nat} : s.prbsAllowed p n = true ↔ ¬s.laneInUse p n := by
  simp only [State.prbsAllowed, State.laneInUse, bit, Bool.or_eq_true, Bool.not_eq_true', not_and_or, Bool.not_eq_true, Bool.or_eq_false_iff,
    List.contains_eq_mem, decide_eq_false_iff_not, not_or]

theorem State.prbsLanes_all : (s.prbsLanes v).all (s.prbsAllowed p) = true ↔ ∀ n ∈ s.prbsLanes v, ¬s.laneInUse p n := by
  rw [List.all_eq_true]
  exact forall₂_congr fun _ _ => State.prbsAllowed_iff

theorem State.prbsCtrl_of_used {n : Nat} (hn : n ∈ s.prbsLanes v) (hu : s.laneInUse p n) : s.prbsCtrl p v = s := by
  refine if_pos (show (!(s.prbsLanes v).all (s.prbsAllowed p)) = true from ?_)
  rw [Bool.not_eq_true']
  exact Bool.eq_false_iff.mpr (fun h => State.prbsLanes_all.mp h n hn hu)

theorem State.prbsCtrl_of_free (h : ∀ n ∈ s.prbsLanes v, ¬s.laneInUse p n) : s.prbsCtrl p v =
    if (!(s.prbsBits v).getLsbD 63) = true then (s.setReg (0x600310 + 0x20 * p) (s.prbsBits v)).setReg (0x600310 + 0x20 * p + 8) 0
    else s.prbsRun p v :=
  if_neg (show ¬(!(s.prbsLanes v).all (s.prbsAllowed p)) = true by rw [State.prbsLanes_all.mpr h]; decide)

theorem lane_of_mask (d : Design) : ∀ {k : Nat}, k < 36 → (w64 (7 * 2 ^ 61 + (2 ^ (32 + d.spareLanes) - 1))).getLsbD k = true →
    k < 32 + d.spareLanes := by
  cases d <;> decide

/-- A bit below the lanes' limit, of a word that holds the command's bits, names a lane. -/
theorem State.lane_of_lock {k : Nat} {x : W64} (h : (x &&& s.prbsBits v &&& 0xFFFFFFFFF#64).getLsbD k = true) :
    k < 32 + s.design.spareLanes ∧ (s.prbsBits v).getLsbD k = true := by
  rw [BitVec.getLsbD_and, BitVec.getLsbD_and, Bool.and_eq_true, Bool.and_eq_true] at h
  obtain ⟨⟨-, hv⟩, hk⟩ := h
  have hlt : k < 36 := by
    by_contra hge
    rw [show (0xFFFFFFFFF#64) = BitVec.ofNat 64 (2 ^ 36 - 1) from rfl, BitVec.getLsbD_ofNat, Nat.testBit_two_pow_sub_one] at hk
    simp [hge] at hk
  refine ⟨?_, hv⟩
  rw [State.prbsBits, BitVec.getLsbD_and, Bool.and_eq_true] at hv
  exact lane_of_mask s.design hlt hv.2

/-- What a run leaves. -/
theorem State.prbsRun_spec (s : State) (p : Nat) (v : W64) : (s.prbsRun p v).rd (0x600310 + 0x20 * p) = s.prbsBits v ∧
    (∀ k, ((s.prbsRun p v).rd (0x600310 + 0x20 * p + 8)).getLsbD k = true → k < 32 + s.design.spareLanes ∧ (s.prbsBits v).getLsbD k = true) ∧
    (s.prbsRun p v).fab = s.fab := by
  have key : (s.prbsRun p v).rd (0x600310 + 0x20 * p) = s.prbsBits v ∧
      (s.prbsRun p v).rd (0x600310 + 0x20 * p + 8) = (Config.freeWord s.free &&& s.prbsBits v &&& 0xFFFFFFFFF#64) ∧ (s.prbsRun p v).fab = s.fab := by
    refine State.forEach_mem (P := fun u => u.rd (0x600310 + 0x20 * p) = s.prbsBits v ∧
      u.rd (0x600310 + 0x20 * p + 8) = (Config.freeWord s.free &&& s.prbsBits v &&& 0xFFFFFFFFF#64) ∧ u.fab = s.fab)
      (fun n hn u ⟨h1, h2, h3⟩ => ?_) ?_
    · obtain ⟨regs, he, -, hne⟩ := u.countRun_spec (cntPort p (8 + n))
      have hlt : n < 36 := by
        have := (State.mem_prbsLanes.mp hn).1
        have hsp : s.design.spareLanes ≤ 4 := by cases s.design <;> decide
        omega
      refine ⟨(hne _ ?_).trans h1, (hne _ ?_).trans h2, by rw [he]; exact h3⟩
      · unfold cntPort
        omega
      · unfold cntPort
        omega
    · refine ⟨?_, State.rd_setReg _ _ _, rfl⟩
      rw [State.rd_setReg_ne _ _ (by omega)]
      exact State.rd_setReg s (0x600310 + 0x20 * p) (s.prbsBits v)
  exact ⟨key.1, fun k hk => State.lane_of_lock (key.2.1 ▸ hk), key.2.2⟩

end

/-- Settles O54: each instruction by whether it is open, from what entering it and shifting out leave; the pattern engines by the logical
channel that the physical one carries; PRBS by the lanes that the write names. That an absent stack selects the bypass register, WS_FUSE's
row and TST_HBM_CTRL's operands are the model's choice (log entries 93 and 94). -/
theorem testInstructionsAndPatternEngines : Obligations.TestInstructionsAndPatternEngines := by
  refine ⟨fun s j cells l w st h => ?_, fun s j cells l w st h hl => ⟨fun i hi => ?_, fun hst => ?_, ?_⟩, fun s => ⟨rfl, rfl, ?_⟩,
    fun s st ph pat a n => ⟨execTstHbmCtrl_of_off pat a n, fun hp hs hc => ?_, fun c p hc he hp hoff => ?_, fun c hc hp hs he hoff => ?_⟩,
    fun s p v hl => ?_⟩
  · have hopen (code : Nat) (k : Bool) := s.testInstr_of_open k (s.instrOpen_of_test h code)
    refine ⟨(exec_wsBypass s j).trans (hopen _ j _), (exec_wsIjtag s j).trans (hopen _ j _), ?_, (exec_bypass s).trans (hopen _ true _),
      fun x hx => ?_, fun x hx => ?_, _, (exec_wsFuse s j w).trans (hopen _ j _), ?_⟩
    · by_cases hst : st.val < s.design.stacks
      · rw [if_pos hst]
        exact (exec_wsHbm_of_present s j hst).trans (hopen _ j _)
      · rw [if_neg hst]
        exact (exec_wsHbm_of_absent s j hst).trans (hopen _ j _)
    · simp only [List.mem_cons, List.not_mem_nil, or_false] at hx
      rcases hx with rfl | rfl | rfl
      · obtain ⟨bs, hb⟩ := s.boundary_spec j 0x01 cells
        exact ⟨_, bs, (exec_wsExtest s j cells).trans (hopen _ j _), hb⟩
      · obtain ⟨bs, hb⟩ := s.boundary_spec j 0x02 cells
        exact ⟨_, bs, (exec_wsIntest s j cells).trans (hopen _ j _), hb⟩
      · obtain ⟨bs, hb⟩ := s.boundary_spec true 0x0D cells
        exact ⟨_, bs, (exec_samplePreload s cells).trans (hopen _ true _), hb⟩
    · simp only [List.mem_cons, List.not_mem_nil, or_false] at hx
      rcases hx with rfl | rfl | rfl
      · obtain ⟨bs, hb⟩ := s.results_spec j 0x04 cells.length ⟨cells, rfl⟩
        exact ⟨_, bs, (exec_wsScan s j cells).trans (hopen _ j _), hb⟩
      · have hd : (s.selected j 0x05).design = s.design := by rw [(s.selected_spec j 0x05).state]
        obtain ⟨bs, hscan, hb⟩ := s.results_spec (u := s.selected j 0x05) j 0x05 (l.filter (fun r => decide (r < s.design.physRods))).length ⟨_, rfl⟩
        rw [← hd] at hscan hb
        exact ⟨_, bs, (exec_wsLbist s j l).trans (hopen _ j _), hscan.trans (s.selected_spec j 0x05).scan, hd ▸ hb⟩
      · obtain ⟨bs, hscan, hb⟩ := s.results_spec (u := s.selected j 0x06) j 0x06 l.length ⟨_, rfl⟩
        exact ⟨_, bs, (exec_wsMbist s j l).trans (hopen _ j _), hscan.trans (s.selected_spec j 0x06).scan, hb⟩
    · have hsel := s.selected_spec j 0x08
      obtain ⟨hrods, hregs, hdone, hret, hrow⟩ := (s.selected j 0x08).fuseWrite_spec w
      have hr : (s.selected j 0x08).rods = s.rods := by rw [hsel.state]
      have hg : (s.selected j 0x08).regs = s.regs := by rw [hsel.state]
      have hf : (s.selected j 0x08).flt = s.flt := by rw [hsel.state]
      rw [hf] at hret
      rw [hsel.fuses] at hrow
      exact ⟨hrods.trans hr, hregs.trans hg, hdone, hret, hrow⟩
  · have hclosed {code : Nat} (hc : [0x00, 0x01, 0x09, 0x0C, 0x0D, 0xFF].contains code = false) :=
      s.testInstr_of_closed j (s.instrOpen_of_done h hl hc)
    simp only [List.mem_cons, List.not_mem_nil, or_false] at hi
    rcases hi with rfl | rfl | rfl | rfl | rfl | rfl
    · exact (exec_wsIntest s j cells).trans (hclosed rfl _)
    · exact (exec_wsScan s j cells).trans (hclosed rfl _)
    · exact (exec_wsLbist s j l).trans (hclosed rfl _)
    · exact (exec_wsMbist s j l).trans (hclosed rfl _)
    · exact (exec_wsFuse s j w).trans (hclosed rfl _)
    · exact (exec_wsIjtag s j).trans (hclosed rfl _)
  · exact (exec_wsHbm_of_present s j hst).trans (s.testInstr_of_open j (s.instrOpen_of_listed rfl) _)
  · obtain ⟨bs, h1, h2, h3, -⟩ := s.boundary_spec j 0x01 cells
    exact ⟨_, bs, (exec_wsExtest s j cells).trans (s.testInstr_of_open j (s.instrOpen_of_listed rfl) _), h1, h2, h3⟩
  · exact (exec_idcode s).trans (s.testInstr_of_open true (s.instrOpen_of_listed rfl) _)
  · have hex := execTstHbmCtrl_of_spare pat a n hp hs hc
    refine ⟨fun h => hex.trans (congrArg _ (if_pos h)), fun h => ?_⟩
    obtain ⟨⟨regs, heq⟩, hcnt⟩ := s.countStack_spec st
    exact ⟨_, hex.trans (congrArg _ (if_neg (by rw [h]; decide))), by rw [heq], by rw [heq], by rw [heq], hcnt⟩
  · by_cases hon : s.powered = true ∧ st.val < s.design.stacks
    · obtain ⟨k, hk⟩ := execTstHbmCtrl_of_used pat a n hon.1 hon.2 hc he
      exact hk.trans (congrArg _ (if_neg fun h => hoff (h p (List.mem_range.mpr hp))))
    · refine execTstHbmCtrl_of_off pat a n ?_
      rcases not_and_or.mp hon with h | h
      · exact .inl (Bool.eq_false_iff.mpr h)
      · exact .inr (by omega)
  · obtain ⟨k, hk⟩ := execTstHbmCtrl_of_used pat a n hp hs hc he
    obtain ⟨hrods, hparts, hbead⟩ := s.destroyAll_frame (s.runGranules st k a n)
    obtain ⟨⟨regs, heq⟩, -⟩ := State.countStack_spec (s.forEach (s.runGranules st k a n) (fun g u => u.destroy g)) st
    exact ⟨_, hk.trans (congrArg _ (if_pos fun p hp => hoff p (List.mem_range.mp hp))), by rw [heq]; exact hrods, by rw [heq]; exact hparts, by rw [heq]; exact hbead⟩
  · have hex : exec (.fabPrbsCtrl p v) s = .next (s.prbsCtrl p v) := congrArg Host.Outcome.next (if_pos hl)
    rw [hex]
    refine ⟨fun ⟨n, hn, hu⟩ => congrArg _ (State.prbsCtrl_of_used (State.mem_prbsLanes.mpr hn) hu), fun hn h63 => ?_, fun hn h63 => ?_⟩
    · rw [State.prbsCtrl_of_free fun n h => hn n (State.mem_prbsLanes.mp h), State.prbsBits, h63]
      rfl
    · refine ⟨_, congrArg _ ((State.prbsCtrl_of_free fun n h => hn n (State.mem_prbsLanes.mp h)).trans (if_neg ?_)), s.prbsRun_spec p v⟩
      rw [State.prbsBits, h63]
      decide

end Sys2Proof.Machine
end

section
/-! PROOF. Counters, histograms, the trace, triggers and the debug freeze (18_debug_and_counters.md R395 to R407). -/

namespace Sys2Proof.Machine

/-! ### Counters and snapshots -/

theorem findRow_mem : ∀ {l : List RRow} {o : Nat} {h : RHit}, findRow l o = some h → h.row ∈ l
  | [], _, _, hf => absurd hf (by simp [findRow])
  | r :: rs, o, h, hf => by
    rw [findRow] at hf
    split at hf
    · exact List.mem_cons_of_mem _ (findRow_mem hf)
    · split at hf
      · cases hf
        exact List.mem_cons_self
      · exact List.mem_cons_of_mem _ (findRow_mem hf)

theorem resetOf_counter (o : Nat) : ∀ r ∈ pageRows o, r.name = .counter → resetOf r.fields = 0 := by
  unfold pageRows
  split_ifs <;> decide

/-- A counter resets to zero. -/
theorem regReset_of_isCounter (d : Design) {o : Nat} (h : isCounter o = true) : regReset d o = 0 := by
  unfold isCounter at h
  unfold regReset
  split at h
  · next r hr =>
    have hn : r.row.name = .counter := beq_iff_eq.mp h
    rw [hr]
    dsimp only
    rw [hn]
    dsimp only
    rw [resetOf_counter o r.row (findRow_mem hr) hn]
    rfl
  · exact absurd h Bool.false_ne_true

theorem State.hasCounter_of_not {s : State} {o : Nat} (h : isCounter o = false) : s.hasCounter o = false := by
  unfold isCounter at h
  unfold State.hasCounter
  cases hr : regAt o with
  | none => rfl
  | some r =>
    rw [hr] at h
    dsimp only at h ⊢
    rw [h, Bool.false_and]

theorem regAt_stackCounter : ∀ k, k < 16 → regAt (0x4E000 + 0x100 * k) = some ⟨⟨.counter, 0x4E000, [(0x100, 16), (8, 32)], cntFields⟩, [k, 0]⟩ := by
  decide

theorem State.hasCounter_of_absentStack (s : State) {k : Nat} (hk : k < 16) (hs : s.design.stacks ≤ k) :
    s.hasCounter (0x4E000 + 0x100 * k) = false := by
  have habs : s.absentReg ⟨⟨.counter, 0x4E000, [(0x100, 16), (8, 32)], cntFields⟩, [k, 0]⟩ (0x4E000 + 0x100 * k) = true := by
    unfold State.absentReg
    dsimp only
    rw [if_neg (by simp; omega), if_neg (by simp), if_pos (by simp; omega)]
    exact decide_eq_true hs
  rw [State.hasCounter, regAt_stackCounter k hk]
  dsimp only
  rw [habs]
  rfl

/-- A copy under moved keys, of the entries whose keys `p` picks. -/
theorem Sparse.get_filter_map {α : Type} (d : α) (p : Nat × α → Bool) (f : Nat → Nat) (k : Nat) (hp : ∀ v, p (k, v) = true)
    (hf : ∀ e : Nat × α, p e = true → f e.1 = f k → e.1 = k) :
    ∀ m : Sparse α, Sparse.get d ((m.filter p).map (fun e => (f e.1, e.2))) (f k) = Sparse.get d m k
  | [] => rfl
  | (j, v) :: m => by
    have ih := Sparse.get_filter_map d p f k hp hf m
    by_cases hj : k = j
    · subst hj
      rw [List.filter_cons_of_pos (hp v), List.map_cons, Sparse.get, if_pos rfl, Sparse.get, if_pos rfl]
    · rw [Sparse.get, if_neg hj]
      cases hpj : p (j, v)
      · rw [List.filter_cons_of_neg (by rw [hpj]; decide), ih]
      · rw [List.filter_cons_of_pos hpj, List.map_cons, Sparse.get, if_neg (fun e => hj (hf (j, v) hpj e.symm).symm), ih]

theorem State.get_copyCounters (s : State) {lo hi k : Nat} (hk : lo + k < hi) (hc : isCounter (lo + k) = true) :
    Sparse.get 0 (s.copyCounters lo hi 0) k = s.rd (lo + k) := by
  have h := Sparse.get_filter_map (0 : W64) (fun e => decide (lo ≤ e.1 ∧ e.1 < hi) && isCounter e.1) (fun j => j - lo + 0) (lo + k)
    (fun v => by rw [hc, decide_eq_true ⟨Nat.le_add_right _ _, hk⟩]; rfl)
    (fun e he h => by
      rw [Bool.and_eq_true, decide_eq_true_iff] at he
      obtain ⟨⟨hle, -⟩, -⟩ := he
      omega) s.regs
  rw [State.rd, regReset_of_isCounter _ hc, ← h, Nat.add_sub_cancel_left, Nat.add_zero]
  rfl

/-- The snapshot of a partition's scope is taken. -/
def State.partSnapped (s : State) (p : Nat) : State :=
  ({ s with dbg := { s.dbg with snap := s.copyCounters (cntPart p 0) (cntPart p 0 + 0x1000) 0 } }).setReg 0x40008 1

theorem State.partSnapped_spec (s : State) (p : Nat) : (s.partSnapped p).rd 0x40008 = 1 ∧ (s.partSnapped p).rods = s.rods ∧
    ∀ k, k < 512 → isCounter (cntPart p k) = true → Sparse.get 0 (s.partSnapped p).dbg.snap (8 * k) = s.rd (cntPart p k) := by
  refine ⟨State.rd_setReg _ _ _, (State.setReg_rods_kept _ _ _).1, fun k hk hc => ?_⟩
  have he : cntPart p k = cntPart p 0 + 8 * k := by
    unfold cntPart
    omega
  rw [State.partSnapped, State.setReg_dbg]
  rw [he] at hc ⊢
  exact s.get_copyCounters (by omega) hc

theorem State.snapshot_of_part {s : State} {v : W64} (h : bits v 7 6 = 1) (hp : bits v 5 0 < 16) : s.snapshot v = s.partSnapped (bits v 5 0) := by
  rw [State.snapshot, h]
  exact if_pos hp

theorem State.snapshot_of_reserved {s : State} {v : W64} (h : bits v 7 6 = 3 ∨ (bits v 7 6 = 1 ∧ 16 ≤ bits v 5 0)) : s.snapshot v = s := by
  rcases h with h | ⟨h, hp⟩
  · rw [State.snapshot, h]
    rfl
  · rw [State.snapshot, h]
    exact if_neg (by omega)

/-! ### Histograms -/

/-- A histogram setting with the bits that it has, and whether it is in range. -/
def histBits (v : W64) : W64 := v &&& 0xCF0FFF1FFFFFFFFF#64
def histFits (w : W64) : Prop := bits w 31 0 ≠ 0 ∧ bits w 36 32 ≤ 20 ∧ bits w 59 56 ≤ 13

/-- An engine enabled with its buckets cleared. -/
def State.histOn (s : State) (n : Nat) (w : W64) : State :=
  ({ s with regs := Sparse.clear s.regs (0x4B000 + 0x80 * n) (0x4B080 + 0x80 * n) }).setReg (0x40200 + 8 * n) w

section
variable (s : State) (n : Nat) (v : W64)

theorem State.setHist_of_unfit (h : ¬histFits (histBits v)) : s.setHist n v = s := by
  refine if_pos ?_
  rw [Bool.or_eq_true, Bool.or_eq_true, decide_eq_true_iff, decide_eq_true_iff, decide_eq_true_iff]
  by_contra hn
  obtain ⟨hn, h3⟩ := not_or.mp hn
  obtain ⟨h1, h2⟩ := not_or.mp hn
  exact h ⟨h1, Nat.not_lt.mp h2, Nat.not_lt.mp h3⟩

theorem State.setHist_of_fit (h : histFits (histBits v)) : s.setHist n v =
    if (s.rd (0x40200 + 8 * n)).getLsbD 63 then
      (if histBits v = setBits (s.rd (0x40200 + 8 * n)) 63 63 0 then s.setReg (0x40200 + 8 * n) (histBits v) else s)
    else if (histBits v).getLsbD 63 then s.histOn n (histBits v) else s.setReg (0x40200 + 8 * n) (histBits v) := by
  refine if_neg ?_
  obtain ⟨h1, h2, h3⟩ := h
  rw [Bool.or_eq_true, Bool.or_eq_true, decide_eq_true_iff, decide_eq_true_iff, decide_eq_true_iff]
  rintro ((h | h) | h)
  · exact h1 h
  · exact absurd h2 (Nat.not_le.mpr h)
  · exact absurd h3 (Nat.not_le.mpr h)

theorem isCounter_bucket : ∀ n, n < 8 → ∀ k, k < 16 → isCounter (0x4B000 + 0x80 * n + 8 * k) = true := by decide

theorem State.histOn_spec {n : Nat} (hn : n < 8) (w : W64) : (s.histOn n w).rd (0x40200 + 8 * n) = w ∧
    ∀ k, k < 16 → (s.histOn n w).rd (0x4B000 + 0x80 * n + 8 * k) = 0 := by
  refine ⟨State.rd_setReg _ _ _, fun k hk => ?_⟩
  rw [State.histOn, State.rd_setReg_ne _ _ (by omega)]
  exact (Sparse.get_clear _ _ _ _ _).trans ((if_pos ⟨by omega, by omega⟩).trans (regReset_of_isCounter _ (isCounter_bucket n hn k hk)))

end

/-! ### The trace -/

/-- What the emission of packets leaves of what triggers act on. -/
structure Traced (s u : State) : Prop where
  rods : u.rods = s.rods
  due : u.dbg.due = s.dbg.due

theorem Traced.refl (s : State) : Traced s s := ⟨rfl, rfl⟩

theorem Traced.trans {s t u : State} (h : Traced s t) (k : Traced t u) : Traced s u := ⟨k.rods.trans h.rods, k.due.trans h.due⟩

theorem State.setReg_traced (s : State) (o : Nat) (v : W64) : Traced s (s.setReg o v) := ⟨rfl, rfl⟩

section
variable (s : State) (w : W64)

theorem State.ringPacket_traced : Traced s (s.ringPacket w) :=
  iteInduction (motive := Traced s) (fun _ => s.setReg_traced _ _)
    (fun _ => Traced.trans (t := (s.hbmWrite64 _ _).hbmWrite64 _ _) ⟨rfl, rfl⟩ (State.setReg_traced _ _ _))

theorem State.toRing_traced : Traced s (s.toRing w) :=
  iteInduction (motive := Traced s) (fun _ => s.ringPacket_traced w) (fun _ =>
    ((show Traced s { s with dbg := { s.dbg with lostRing := 0 } } from ⟨rfl, rfl⟩).trans (State.ringPacket_traced _ _)).trans
      (State.ringPacket_traced _ _))

theorem State.toPort_traced : Traced s (s.toPort w) :=
  iteInduction (motive := Traced s) (fun _ => ⟨rfl, rfl⟩) (fun _ => ⟨rfl, rfl⟩)

theorem State.emitOne_traced : Traced s (s.emitOne w) := by
  unfold State.emitOne
  dsimp only
  refine iteInduction (motive := Traced s) (fun _ => .refl s) (fun _ => ?_)
  have h1 : Traced s (if bit (w64 (s.rf 0x40010 5 4)) 0 then s.toRing w else s) :=
    iteInduction (motive := Traced s) (fun _ => s.toRing_traced w) (fun _ => .refl s)
  have h2 : Traced s (if bit (w64 (s.rf 0x40010 5 4)) 1 then (if bit (w64 (s.rf 0x40010 5 4)) 0 then s.toRing w else s).toPort w
      else (if bit (w64 (s.rf 0x40010 5 4)) 0 then s.toRing w else s)) :=
    iteInduction (motive := Traced s) (fun _ => h1.trans (State.toPort_traced _ w)) (fun _ => h1)
  exact ⟨h2.rods, h2.due⟩

theorem State.beamSync_traced (b : Nat) : Traced s (s.beamSync b) :=
  Traced.trans (t := s.draw.2) ⟨rfl, rfl⟩ (State.emitOne_traced _ _)

theorem State.emit_traced : Traced s (s.emit w) :=
  iteInduction (motive := Traced s)
    (fun _ => State.forEach_induct (P := Traced s) (fun b u hu => hu.trans (u.beamSync_traced b)) _ (s.emitOne_traced w))
    (fun _ => s.emitOne_traced w)

end

/-! ### Packets to the trace port -/

/-- The trace goes to the port alone, and runs. -/
structure PortOnly (s : State) : Prop where
  route : s.rf 0x40010 5 4 = 2
  running : s.dbg.stopped = false

/-- What one packet to the port leaves. -/
structure PortPacket (s u : State) (ys : List Output) : Prop where
  state : u = { s with dbg := u.dbg, free := u.free, out := s.out ++ ys }
  due : u.dbg.due = s.dbg.due
  lost : u.dbg.lostPort = 0
  post : s.dbg.post = none → u.dbg.post = none ∧ u.dbg.stopped = s.dbg.stopped

theorem PortPacket.trans {s t u : State} {xs ys : List Output} (h : PortPacket s t xs) (k : PortPacket t u ys) : PortPacket s u (xs ++ ys) := by
  refine ⟨?_, k.due.trans h.due, k.lost, fun hp => ?_⟩
  · have hu := k.state
    rw [h.state] at hu
    rw [← List.append_assoc]
    exact hu
  · obtain ⟨h1, h2⟩ := h.post hp
    obtain ⟨k1, k2⟩ := k.post h1
    exact ⟨k1, k2.trans h2⟩

/-- The route is a register, which packets to the port do not write. -/
theorem PortPacket.portOnly {s u : State} {ys : List Output} (h : PortPacket s u ys) (hs : PortOnly s) (hp : s.dbg.post = none) : PortOnly u := by
  refine ⟨?_, (h.post hp).2.trans hs.running⟩
  have hr : u.rf 0x40010 5 4 = s.rf 0x40010 5 4 := by
    rw [h.state]
    rfl
  exact hr.trans hs.route

/-- The LOSS packet that goes first where packets have been lost. -/
def State.lossOut (s : State) : List Output := if s.dbg.lostPort = 0 then [] else [.trace (lossWord s.dbg.lostPort) s.time]

theorem State.emitOne_of_port {s : State} (hs : PortOnly s) (w : W64) : PortPacket s (s.emitOne w) (s.lossOut ++ [.trace w s.time]) := by
  have heq : s.emitOne w = { s.toPort w with dbg := (s.toPort w).dbg.packet } := by
    rw [State.emitOne, hs.route]
    exact if_neg (by rw [hs.running]; decide)
  rw [heq, State.toPort, State.lossOut]
  split
  · next h => exact ⟨rfl, rfl, h, fun hp => ⟨by rw [Debug.packet]; dsimp only [State.send]; rw [hp], by
      rw [Debug.packet]; dsimp only [State.send]; rw [hp]⟩⟩
  · refine ⟨?_, rfl, rfl, fun hp => ⟨by rw [Debug.packet]; dsimp only [State.send]; rw [hp], by
      rw [Debug.packet]; dsimp only [State.send]; rw [hp]⟩⟩
    rw [← List.append_assoc]
    rfl

theorem State.beamSync_of_port {s : State} (hs : PortOnly s) (hl : s.dbg.lostPort = 0) (b : Nat) :
    ∃ a, a < 2 ^ 48 ∧ PortPacket s (s.beamSync b) [.trace (w64 (2 ^ 60 + b * 2 ^ 58 + a)) s.time] := by
  refine ⟨s.draw.1.toNat % 2 ^ 48, Nat.mod_lt _ (Nat.two_pow_pos _), ?_⟩
  have h : PortPacket s.draw.2 (s.beamSync b) (s.draw.2.lossOut ++ [.trace _ s.time]) := State.emitOne_of_port (s := s.draw.2) ⟨hs.route, hs.running⟩ _
  rw [State.lossOut, if_pos (show s.draw.2.dbg.lostPort = 0 from hl), List.nil_append] at h
  exact ⟨h.state, h.due, h.lost, h.post⟩

/-- The SYNC packets of beam sources. -/
theorem State.beamSyncs_of_port : ∀ (l : List Nat) {s : State}, PortOnly s → s.dbg.post = none → s.dbg.lostPort = 0 →
    ∃ ys, PortPacket s (s.forEach l (fun b u => u.beamSync b)) ys ∧ ys.length = l.length ∧
      ∀ y ∈ ys, ∃ b a, b ∈ l ∧ a < 2 ^ 48 ∧ y = .trace (w64 (2 ^ 60 + b * 2 ^ 58 + a)) s.time
  | [], s, _, hp, hl => ⟨[], ⟨by rw [List.append_nil]; rfl, rfl, hl, fun _ => ⟨hp, rfl⟩⟩, rfl, fun _ h => absurd h List.not_mem_nil⟩
  | b :: l, s, hs, hp, hl => by
    obtain ⟨a, ha, h⟩ := State.beamSync_of_port hs hl b
    obtain ⟨ys, hys, hlen, hmem⟩ := State.beamSyncs_of_port l (h.portOnly hs hp) (h.post hp).1 h.lost
    have ht : (s.beamSync b).time = s.time := by rw [h.state]
    refine ⟨_ :: ys, h.trans hys, congrArg (· + 1) hlen, fun y hy => ?_⟩
    rcases List.mem_cons.mp hy with rfl | hy
    · exact ⟨b, a, List.mem_cons_self, ha, rfl⟩
    · obtain ⟨b', a', hb, ha', he⟩ := hmem y hy
      exact ⟨b', a', List.mem_cons_of_mem _ hb, ha', he.trans (by rw [ht])⟩

theorem State.emit_of_port {s : State} (hs : PortOnly s) (w : W64) (hl : s.dbg.lostPort = 0) : s.emit w = s.emitOne w := by
  refine if_neg ?_
  rw [hs.running, hs.route, hl, show bit (w64 2) 0 = false by decide, Bool.false_and, bne_self_eq_false, Bool.and_false]
  decide

theorem State.emit_of_lossy {s : State} (hs : PortOnly s) (w : W64) (hl : s.dbg.lostPort ≠ 0) :
    s.emit w = (s.emitOne w).forEach ([0, 1].filter (fun b => bit (s.rd 0x40010) b)) (fun b u => u.beamSync b) := by
  refine if_pos ?_
  rw [hs.running, hs.route, bne_iff_ne.mpr hl]
  rw [show bit (w64 2) 1 = true by decide, Bool.true_and, Bool.or_true]
  rfl

/-! ### Markers -/

/-- The word of a marker. -/
def markWord (origin ten value : Nat) : W64 := w64 (8 * 2 ^ 60 + 2 * 2 ^ 58 + origin * 2 ^ 56 + ten * 2 ^ 50 + value)

/-- The trigger's value meets a marker's. -/
def State.markMeets (s : State) (value n : Nat) : Bool :=
  (w64 (value % 2 ^ 32) &&& w64 (s.rf (trigReg n 8) 31 0)) == (w64 (s.rf (trigReg n 8) 63 32) &&& w64 (s.rf (trigReg n 8) 31 0))

section
variable {s : State} {origin ten value : Nat}

theorem State.marker_of_off (h : (s.rd 0x40010).getLsbD (if origin = 2 then 3 else 2) = false) : s.marker origin ten 0 0 value = s :=
  if_pos (by rw [bit, h]; rfl)

theorem State.marker_of_on (h : (s.rd 0x40010).getLsbD (if origin = 2 then 3 else 2) = true) (ht : ten < 64) (hv : value < 2 ^ 32) :
    s.marker origin ten 0 0 value = (s.emit (markWord origin ten value)).trigger 2 (s.markMeets value) := by
  refine (if_neg (by rw [bit, h]; decide)).trans ?_
  have hw : 8 * 2 ^ 60 + 2 * 2 ^ 58 + origin * 2 ^ 56 + ten % 64 * 2 ^ 50 + 0 % 16 * 2 ^ 46 + 0 % 512 * 2 ^ 37 + value % 2 ^ 32 =
      8 * 2 ^ 60 + 2 * 2 ^ 58 + origin * 2 ^ 56 + ten * 2 ^ 50 + value := by omega
  rw [markWord, hw]
  rfl

theorem State.mem_trigger_due (u : State) (kind : Nat) (sel : Nat → Bool) {n : Nat} (hn : n < 4) (h1 : (u.rd (trigReg n 0)).getLsbD 63 = true)
    (h2 : u.rf (trigReg n 0) 62 60 = kind) (h3 : sel n = true) : n ∈ (u.trigger kind sel).dbg.due := by
  refine List.mem_append_right _ (List.mem_filter.mpr ⟨List.mem_range.mpr hn, ?_⟩)
  rw [bit, h1, h2, h3, beq_self_eq_true]
  rfl

theorem State.markMeets_of_eq {n : Nat} (hv : value < 2 ^ 32) (h : s.rf (trigReg n 8) 63 32 = value) : s.markMeets value n = true := by
  rw [State.markMeets, h, Nat.mod_eq_of_lt hv]
  exact beq_self_eq_true _

section
variable (hon : (s.rd 0x40010).getLsbD (if origin = 2 then 3 else 2) = true) (ht : ten < 64) (hv : value < 2 ^ 32) (hs : PortOnly s)
include hon ht hv hs

/-- A marker on a trace without losses. -/
theorem State.marker_spec (hl : s.dbg.lostPort = 0) : let u := s.marker origin ten 0 0 value
    u.hbm = s.hbm ∧ u.regs = s.regs ∧ u.out = s.out ++ [.trace (markWord origin ten value) s.time] ∧
    ∀ n, n < 4 → (s.rd (trigReg n 0)).getLsbD 63 = true → s.rf (trigReg n 0) 62 60 = 2 →
      s.rf (trigReg n 8) 31 0 = 2 ^ 32 - 1 → s.rf (trigReg n 8) 63 32 = value → n ∈ u.dbg.due := by
  have hp := State.emitOne_of_port hs (markWord origin ten value)
  rw [State.lossOut, if_pos hl, List.nil_append, ← State.emit_of_port hs _ hl] at hp
  have hrd (o : Nat) : (s.emit (markWord origin ten value)).rd o = s.rd o := by
    rw [hp.state]
    rfl
  have hframe : (s.emit (markWord origin ten value)).hbm = s.hbm ∧ (s.emit (markWord origin ten value)).regs = s.regs ∧
      (s.emit (markWord origin ten value)).out = s.out ++ [.trace (markWord origin ten value) s.time] := by
    rw [hp.state]
    exact ⟨rfl, rfl, rfl⟩
  rw [State.marker_of_on hon ht hv]
  exact ⟨hframe.1, hframe.2.1, hframe.2.2, fun n hn h1 h2 _ h4 =>
    State.mem_trigger_due _ _ _ hn (by rw [hrd]; exact h1) (by rw [State.rf, hrd]; exact h2) (State.markMeets_of_eq hv h4)⟩

/-- A marker after lost packets: LOSS first, then a SYNC of every traced beam source. -/
theorem State.marker_after_loss (hp : s.dbg.post = none) (hl : s.dbg.lostPort ≠ 0) : ∃ l, let u := s.marker origin ten 0 0 value
    u.dbg.lostPort = 0 ∧ l.length = ([0, 1].filter (fun b => bit (s.rd 0x40010) b)).length ∧
    u.out = s.out ++ [.trace (lossWord s.dbg.lostPort) s.time, .trace (markWord origin ten value) s.time] ++ l ∧
    ∀ y ∈ l, ∃ b a, b < 2 ∧ (s.rd 0x40010).getLsbD b = true ∧ a < 2 ^ 48 ∧ y = .trace (w64 (2 ^ 60 + b * 2 ^ 58 + a)) s.time := by
  have h1 := State.emitOne_of_port hs (markWord origin ten value)
  rw [State.lossOut, if_neg hl] at h1
  obtain ⟨l, h2, hlen, hmem⟩ := State.beamSyncs_of_port ([0, 1].filter (fun b => bit (s.rd 0x40010) b)) (h1.portOnly hs hp) (h1.post hp).1 h1.lost
  rw [← State.emit_of_lossy hs _ hl] at h2
  have ht1 : (s.emitOne (markWord origin ten value)).time = s.time := by rw [h1.state]
  have hout : (s.emit (markWord origin ten value)).out =
      s.out ++ [.trace (lossWord s.dbg.lostPort) s.time, .trace (markWord origin ten value) s.time] ++ l := by
    rw [(h1.trans h2).state, List.append_assoc s.out]
    rfl
  rw [State.marker_of_on hon ht hv]
  refine ⟨l, h2.lost, hlen, hout, fun y hy => ?_⟩
  obtain ⟨b, a, hb, ha, he⟩ := hmem y hy
  obtain ⟨hb, hbit⟩ := List.mem_filter.mp hb
  refine ⟨b, a, ?_, hbit, ha, he.trans (by rw [ht1])⟩
  simp only [List.mem_cons, List.not_mem_nil, or_false] at hb
  omega

end

end

/-! ### Triggers and the freeze -/

/-- What a trigger that fires leaves. -/
theorem State.fire_spec (s : State) (n : Nat) : (s.fire n).rods = s.rods ∧ (s.fire n).dbg.due = s.dbg.due ∧
    ((s.rd (trigReg n 0)).getLsbD 58 = true → ((s.fire n).rd 0x30118).getLsbD 12 = true) := by
  unfold State.fire
  dsimp only
  have h1 := s.emit_traced (w64 (0xF * 2 ^ 60 + 3 * 2 ^ 58 + n))
  generalize s.emit (w64 (0xF * 2 ^ 60 + 3 * 2 ^ 58 + n)) = u at h1 ⊢
  generalize hcfg : s.rd (trigReg n 0) = cfg
  have h2 : Traced s (if bit cfg 57 then { u with dbg := { u.dbg with
      stopped := u.dbg.stopped || decide (bits cfg 47 32 = 0), post := if bits cfg 47 32 = 0 then none else some (bits cfg 47 32) } } else u) :=
    iteInduction (motive := Traced s) (fun _ => ⟨h1.rods, h1.due⟩) (fun _ => h1)
  generalize (if bit cfg 57 then { u with dbg := { u.dbg with
      stopped := u.dbg.stopped || decide (bits cfg 47 32 = 0), post := if bits cfg 47 32 = 0 then none else some (bits cfg 47 32) } } else u) = t
    at h2 ⊢
  have h3 : Traced s (if bit cfg 58 then t.event 12 else t) :=
    iteInduction (motive := Traced s) (fun _ => h2.trans (t.setReg_traced _ _)) (fun _ => h2)
  have hev : cfg.getLsbD 58 = true → ((if bit cfg 58 then t.event 12 else t).rd 0x30118).getLsbD 12 = true := fun h => by
    rw [if_pos (show bit cfg 58 = true from h), State.event_pendingBit, show (w64 (2 ^ 12)).getLsbD 12 = true by decide, Bool.or_true]
  exact iteInduction (motive := fun x : State => x.rods = s.rods ∧ x.dbg.due = s.dbg.due ∧ (cfg.getLsbD 58 = true → (x.rd 0x30118).getLsbD 12 = true))
    (fun _ => ⟨h3.rods, h3.due, hev⟩) (fun _ => ⟨h3.rods, h3.due, hev⟩)

section
variable {s : State} {n : Fin 4} (hl : s.live = true)
include hl

theorem execTriggerFire_of_due (h : n.val ∈ s.dbg.due) (hmin : ∀ k ∈ s.dbg.due, n.val ≤ k) :
    exec (.triggerFire n) s = .next (({ s with dbg := { s.dbg with due := s.dbg.due.erase n } }).fire n) := by
  refine congrArg Host.Outcome.next (if_pos ?_)
  rw [hl, List.contains_iff_mem.mpr h, List.all_eq_true.mpr fun k hk => decide_eq_true (hmin k hk)]
  rfl

theorem execTriggerFreeze_of_due {a : W64} {b : Nat} (hf : s.dbg.freezing.find? (fun x => x.1 == n.val) = some (n.val, a, b))
    (h : b = 0 ∨ a.toNat + 10000 ≤ s.time.toNat) :
    exec (.triggerFreeze n) s = .next (({ s with dbg := { s.dbg with freezing := s.dbg.freezing.erase (n.val, a, b) } }).freeze) := by
  refine congrArg Host.Outcome.next ?_
  rw [hf]
  refine if_pos ?_
  rw [hl, Bool.true_and, Bool.or_eq_true, decide_eq_true_iff, decide_eq_true_iff]
  exact h

omit hl in
theorem execTriggerFreeze_of_early {a : W64} {b : Nat} (hf : s.dbg.freezing.find? (fun x => x.1 == n.val) = some (n.val, a, b))
    (h1 : b ≠ 0) (h2 : s.time.toNat < a.toNat + 10000) : exec (.triggerFreeze n) s = .next s := by
  refine congrArg Host.Outcome.next ?_
  rw [hf]
  refine if_neg ?_
  rw [Bool.and_eq_true, Bool.or_eq_true, decide_eq_true_iff, decide_eq_true_iff]
  rintro ⟨-, h | h⟩
  · exact h1 h
  · exact absurd h (Nat.not_le.mpr h2)

end

theorem State.freeze_spec (s : State) : s.freeze.dbg.freezing = s.dbg.freezing ∧
    (s.freeze.dbg.frozen = true ↔ s.sec.lifecycle = 2 ∨ s.dbg.frozen = true) := by
  unfold State.freeze
  split
  · next h => exact ⟨rfl, fun _ => .inl h, fun _ => rfl⟩
  · next h => exact ⟨rfl, .inr, fun hf => hf.resolve_left h⟩

/-! ### The statement -/

/-- Settles O52, part by part: counters by their place in the register table, histogram settings by range, packets by what each leaves on
the trace port, triggers by what firing leaves. -/
theorem countersHistogramsTraceAndFreeze : Obligations.CountersHistogramsTraceAndFreeze := by
  refine ⟨fun s off v hl => ⟨fun h => ?_, fun h => ?_, State.hasCounter_of_not, fun k => s.hasCounter_of_absentStack⟩,
    fun s v hl => ⟨fun h hp => ?_, fun h => ?_⟩, fun s n v hl => ?_, fun s n hl => ⟨fun h1 h2 => ?_, fun h => ?_⟩,
    fun s p hl => ⟨fun h => ?_, fun h => ?_⟩, fun s t v hl hpr hatt x hx => ?_, fun s n hl => ⟨fun h hmin => ?_, fun h => ?_, fun h1 h2 => ?_,
      fun h => ?_, fun h => ?_, fun a b hf => ⟨fun h => ?_, execTriggerFreeze_of_early hf⟩⟩, fun s v hl => ?_⟩
  · refine congrArg Host.Outcome.next ((if_pos hl).trans ((if_pos h).trans ?_))
    rw [bits, Nat.pow_zero, Nat.div_one]
  · refine congrArg Host.Outcome.next ((if_pos hl).trans (if_neg ?_))
    rw [h]
    decide
  · exact ⟨_, congrArg Host.Outcome.next ((if_pos hl).trans (State.snapshot_of_part h hp)), s.partSnapped_spec _⟩
  · exact congrArg Host.Outcome.next ((if_pos hl).trans (State.snapshot_of_reserved h))
  · have hex : exec (.dbgHist n v) s = .next (s.setHist n v) := congrArg Host.Outcome.next (if_pos hl)
    rw [hex]
    refine ⟨fun h => congrArg _ (s.setHist_of_unfit n v h), fun h h63 => congrArg _ ((s.setHist_of_fit n v h).trans (if_pos h63)),
      fun h h63 hw => ⟨_, congrArg _ ((s.setHist_of_fit n v h).trans ?_), s.histOn_spec n.isLt (histBits v)⟩,
      fun h h63 hw => congrArg _ ((s.setHist_of_fit n v h).trans ?_)⟩
    · exact (if_neg (by rw [h63]; decide)).trans (if_pos hw)
    · exact (if_neg (by rw [h63]; decide)).trans (if_neg (show ¬(histBits v).getLsbD 63 = true by rw [histBits, hw]; decide))
  · refine congrArg Host.Outcome.next ((if_pos ?_).trans (State.bump_one _ _))
    rw [hl, bit, h1, decide_eq_true h2]
    rfl
  · refine congrArg Host.Outcome.next (if_neg ?_)
    rw [Bool.and_eq_true, Bool.and_eq_true, decide_eq_true_iff]
    rintro ⟨⟨-, h63⟩, h2⟩
    rcases h with h | h
    · exact absurd (h63.symm.trans h) (by decide)
    · omega
  · refine congrArg Host.Outcome.next ((if_neg ?_).trans ?_)
    · rw [hl, h.1, bit, h.2]
      decide
    · cases p <;> rfl
  · refine congrArg Host.Outcome.next (if_pos ?_)
    rw [hl, Bool.not_true, Bool.false_or, Bool.not_eq_true', Bool.eq_false_iff]
    intro hn
    rw [Bool.and_eq_true, Bool.not_eq_true'] at hn
    exact h hn
  · have hv : bits v 31 0 < 2 ^ 32 := Nat.mod_lt _ (Nat.two_pow_pos _)
    simp only [List.mem_cons, List.not_mem_nil, or_false] at hx
    rcases hx with rfl | rfl
    · have hex : exec (.dbgMark v) s = .next (s.marker 0 0 0 0 (bits v 31 0)) := congrArg Host.Outcome.next (if_pos hl)
      dsimp only
      rw [hex]
      refine ⟨fun h => congrArg _ (State.marker_of_off h), fun h hr hs hlost => ⟨_, rfl, State.marker_spec h (by decide) hv ⟨hr, hs⟩ hlost⟩,
        fun h hr hs hp hlost => ?_⟩
      obtain ⟨l, hm⟩ := State.marker_after_loss (origin := 0) (ten := 0) h (by decide) hv ⟨hr, hs⟩ hp hlost
      exact ⟨_, l, rfl, hm⟩
    · have hex : exec (.tenMark t v) s = .next (s.marker 2 t 0 0 (bits v 31 0)) :=
        congrArg Host.Outcome.next (if_pos (by rw [State.hapUp, hl, hpr, hatt]; rfl))
      dsimp only
      rw [hex]
      refine ⟨fun h => congrArg _ (State.marker_of_off h), fun h hr hs hlost => ⟨_, rfl, State.marker_spec h t.isLt hv ⟨hr, hs⟩ hlost⟩,
        fun h hr hs hp hlost => ?_⟩
      obtain ⟨l, hm⟩ := State.marker_after_loss (origin := 2) h t.isLt hv ⟨hr, hs⟩ hp hlost
      exact ⟨_, l, rfl, hm⟩
  · obtain ⟨hrods, hdue, hev⟩ := State.fire_spec { s with dbg := { s.dbg with due := s.dbg.due.erase n } } n
    exact ⟨_, execTriggerFire_of_due hl h hmin, hdue, hrods, hev⟩
  · refine congrArg Host.Outcome.next (if_neg ?_)
    rw [Bool.and_eq_true, Bool.and_eq_true, List.contains_iff_mem, List.all_eq_true]
    rintro ⟨⟨-, hmem⟩, hall⟩
    rcases h with h | ⟨k, hk, hlt⟩
    · exact h hmem
    · exact absurd (of_decide_eq_true (hall k hk)) (Nat.not_le.mpr hlt)
  · obtain ⟨hrods, hdue, hev⟩ := s.fire_spec n
    exact ⟨_, congrArg Host.Outcome.next ((if_pos hl).trans (if_pos (by rw [bit, h1, h2]; rfl))), hrods, hdue, hev⟩
  · refine congrArg Host.Outcome.next ((if_pos hl).trans (if_neg ?_))
    rw [Bool.and_eq_true, decide_eq_true_iff]
    rintro ⟨h1, h2⟩
    rcases h with h | h
    · exact absurd (h1.symm.trans h) (by decide)
    · exact h h2
  · refine congrArg Host.Outcome.next ?_
    rw [h]
  · obtain ⟨hfr, hfz⟩ := State.freeze_spec { s with dbg := { s.dbg with freezing := s.dbg.freezing.erase (n.val, a, b) } }
    exact ⟨_, execTriggerFreeze_of_due hl hf h, hfr, hfz⟩
  · refine congrArg Host.Outcome.next ?_
    rw [hl, Bool.true_and, bit, State.freeze]
    split_ifs <;> tauto

end Sys2Proof.Machine
end

section
/-! PROOF. The start-up sequence (20_bringup_and_test.md R435 to R442). -/

namespace Sys2Proof.Machine

/-! ### Phases -/

section
variable (s : State) (k : Nat)

@[simp] theorem State.enter_fab : (s.enter k).fab = s.fab := s.setReg_fab 0x10020 (w64 k)
@[simp] theorem State.enter_flt : (s.enter k).flt = s.flt := s.setReg_flt 0x10020 (w64 k)
@[simp] theorem State.enter_sec : (s.enter k).sec = s.sec := s.setReg_sec 0x10020 (w64 k)
@[simp] theorem State.enter_tier : (s.enter k).tier = s.tier := s.setReg_tier 0x10020 (w64 k)
@[simp] theorem State.enter_free : (s.enter k).free = s.free := s.setReg_free 0x10020 (w64 k)
@[simp] theorem State.enter_rods : (s.enter k).rods = s.rods := s.setReg_rods 0x10020 (w64 k)
@[simp] theorem State.enter_bead : (s.enter k).bead = s.bead := s.setReg_bead 0x10020 (w64 k)
@[simp] theorem State.enter_imem : (s.enter k).imem = s.imem := s.setReg_imem 0x10020 (w64 k)
@[simp] theorem State.enter_slate : (s.enter k).slate = s.slate := s.setReg_slate 0x10020 (w64 k)
@[simp] theorem State.enter_hbm : (s.enter k).hbm = s.hbm := s.setReg_hbm 0x10020 (w64 k)
@[simp] theorem State.enter_out : (s.enter k).out = s.out := s.setReg_out 0x10020 (w64 k)
@[simp] theorem State.enter_pwr : (s.enter k).pwr = { s.pwr with phaseAt := s.time } := rfl

theorem State.enter_rd_ne {o : Nat} (h : o ≠ 0x10020) : (s.enter k).rd o = s.rd o := State.rd_setReg_ne s (w64 k) h

theorem State.rf_setReg_small {o : Nat} (h : k < 16) : (s.setReg o (w64 k)).rf o 3 0 = k := by
  rw [State.rf, State.rd_setReg]
  revert k
  decide

theorem State.enter_phase {k : Nat} (h : k < 16) : (s.enter k).phase = k := s.rf_setReg_small (o := 0x10020) k h

theorem State.enter_rstState : (s.enter k).rstState = s.rstState := congrArg (bits · 3 0) (s.enter_rd_ne k (by decide))

/-- A phase begins that a start-up in progress reaches. -/
theorem State.enter_entered {t : State} {k : Nat} (h : k < 16) (ht : s.time = t.time) (hc : s.rd 0x10028 = 0) (hs : s.rstState = 4) :
    Entered t (s.enter k) k :=
  ⟨s.enter_phase h, by rw [State.enter_pwr, ht], (s.enter_rd_ne k (by decide)).trans hc, (s.enter_rstState k).trans hs⟩

theorem State.bootFail_failed {t : State} (cause : Nat) (h : s.phase = t.phase) : BootFailed t (s.bootFail cause) cause :=
  ⟨State.rd_setReg _ _ _, (congrArg (bits · 3 0) (State.rd_setReg_ne s (w64 cause) (by decide))).trans h⟩

@[simp] theorem State.bootFail_flt : (s.bootFail k).flt = s.flt := s.setReg_flt 0x10028 (w64 k)
@[simp] theorem State.bootFail_rods : (s.bootFail k).rods = s.rods := s.setReg_rods 0x10028 (w64 k)
@[simp] theorem State.bootFail_bead : (s.bootFail k).bead = s.bead := s.setReg_bead 0x10028 (w64 k)
@[simp] theorem State.bootFail_imem : (s.bootFail k).imem = s.imem := s.setReg_imem 0x10028 (w64 k)

theorem State.inPhase_iff : s.inPhase k = true ↔ s.rstState = 4 ∧ s.phase = k ∧ s.rd 0x10028 = 0 := by
  rw [State.inPhase, Bool.and_eq_true, Bool.and_eq_true, beq_iff_eq, beq_iff_eq, beq_iff_eq, and_assoc]

/-- The registers and the time of a phase in progress are as before. -/
structure PhaseKept (s u : State) : Prop where
  regs : ∀ o, o = 0x10008 ∨ o = 0x10020 ∨ o = 0x10028 → u.rd o = s.rd o
  time : u.time = s.time

theorem PhaseKept.refl : PhaseKept s s := ⟨fun _ _ => rfl, rfl⟩

end

theorem PhaseKept.enter {s u : State} {j k : Nat} (h : PhaseKept s u) (hs : s.inPhase j = true) (hk : k < 16) : Entered s (u.enter k) k := by
  obtain ⟨hst, -, hc⟩ := (s.inPhase_iff j).mp hs
  exact u.enter_entered hk h.time ((h.regs _ (.inr (.inr rfl))).trans hc) ((congrArg (bits · 3 0) (h.regs _ (.inl rfl))).trans hst)

theorem PhaseKept.bootFail {s u : State} (h : PhaseKept s u) (cause : Nat) : BootFailed s (u.bootFail cause) cause :=
  u.bootFail_failed cause (congrArg (bits · 3 0) (h.regs _ (.inr (.inl rfl))))

theorem State.not_inPhase {s : State} (h : s.rstState = 0 ∨ s.rstState = 1) (k : Nat) : s.inPhase k = false := by
  rw [Bool.eq_false_iff]
  intro hp
  have := ((s.inPhase_iff k).mp hp).1
  omega

/-! ### Clocks, SRAM, keys, HBM -/

theorem vidFor_range (f : Nat) : 20 ≤ vidFor f ∧ vidFor f ≤ 80 := by
  unfold vidFor
  omega

/-- The voltage code of the nominal clock, and the board position. -/
def State.clocked (s : State) (pos : Fin 8) : State :=
  let s1 := { s with pwr := { s.pwr with vid := vidFor s.pwr.freq, vidGoal := vidFor s.pwr.freq, vidAt := s.time } }
  if s.pwr.warm then s1 else s1.onFab (fun x => { x with pos := pos })

theorem State.clocked_spec (s : State) (pos : Fin 8) : PhaseKept s (s.clocked pos) ∧
    (s.clocked pos).fab.pos = (if s.pwr.warm then s.fab.pos else pos.val) ∧ (s.clocked pos).pwr.vid = vidFor s.pwr.freq ∧
    (s.clocked pos).pwr.vidGoal = vidFor s.pwr.freq := by
  unfold State.clocked
  dsimp only
  split <;> exact ⟨⟨fun _ _ => rfl, rfl⟩, rfl, rfl, rfl⟩

theorem execClocks_of_inPhase {s : State} (h : s.inPhase 1 = true) (pos : Fin 8) : exec (.clocks pos) s = .next ((s.clocked pos).enter 2) := by
  have hst := ((s.inPhase_iff 1).mp h).1
  have hs0 : (if s.rstState = 2 || s.rstState = 3 then s.startUp else s) = s := if_neg (by rw [hst]; decide)
  have hex : exec (.clocks pos) s = .next (let s0 := if s.rstState = 2 || s.rstState = 3 then s.startUp else s
    if s0.inPhase 1 then (let s1 := { s0 with pwr := { s0.pwr with vid := vidFor s0.pwr.freq, vidGoal := vidFor s0.pwr.freq, vidAt := s.time } }
      (if s0.pwr.warm then s1 else s1.onFab (fun x => { x with pos := pos })).enter 2) else s) := rfl
  rw [hex, hs0]
  exact congrArg Host.Outcome.next (if_pos h)

theorem execClocks_of_other {s : State} (h : s.rstState = 0 ∨ s.rstState = 1) (pos : Fin 8) : exec (.clocks pos) s = .next s := by
  have hs0 : (if s.rstState = 2 || s.rstState = 3 then s.startUp else s) = s := if_neg (by rcases h with h | h <;> rw [h] <;> decide)
  have hex : exec (.clocks pos) s = .next (let s0 := if s.rstState = 2 || s.rstState = 3 then s.startUp else s
    if s0.inPhase 1 then (let s1 := { s0 with pwr := { s0.pwr with vid := vidFor s0.pwr.freq, vidGoal := vidFor s0.pwr.freq, vidAt := s.time } }
      (if s0.pwr.warm then s1 else s1.onFab (fun x => { x with pos := pos })).enter 2) else s) := rfl
  rw [hex, hs0]
  exact congrArg Host.Outcome.next (if_neg (by rw [State.not_inPhase h]; decide))

/-- Every SRAM zeroed. -/
def State.sramZeroed (s : State) : State :=
  { s with
    bead := [], beadPoison := [], imem := [], rods := [], slate := []
    flt := { s.flt with repairs := [], kept := [] } }

/-- The seal and journal keys drawn. -/
def State.keysDrawn (s : State) : State :=
  { s with free := s.free + 4 + 2, sec := { s.sec with sealKey := s.free, jrnlKey := s.free + 4 } }

/-- The interleave keys drawn. -/
def State.ilKeysDrawn (s : State) : State := { s with free := s.free + 3, tier := { s.tier with ilKey := s.free } }

theorem execKeys_of_inPhase {s : State} (h : s.inPhase 3 = true) : exec .keys s =
    .next (if s.pwr.warm then s.keysDrawn.enter (if s.pwr.unlock then 5 else 6) else s.keysDrawn.ilKeysDrawn.enter 4) :=
  congrArg Host.Outcome.next (if_neg (by rw [h]; decide))

/-- The channel map of the field fuse bank. -/
def State.chMapLoaded (s : State) : State :=
  let m := recChans s.flt.fuseRecs
  { s with flt := { s.flt with chMap := m, spareUsed := (m.map (fun (x : Nat × Nat) => x.1 / 32)).eraseDups } }

theorem execHbm_of_inPhase {s : State} (h : s.inPhase 4 = true) (l : List Bool) : exec (.hbm l) s =
    .next (match (List.range s.design.stacks).find? (fun k => !nth false l k) with
      | some k => (s.fatal 3 k).bootFail 2
      | none => s.chMapLoaded.enter 5) := congrArg Host.Outcome.next (if_neg (by rw [h]; decide))

theorem State.fatal_kept (s : State) (cause detail : Nat) : PhaseKept s (s.fatal cause detail) := by
  refine ⟨fun o ho => ?_, rfl⟩
  rw [State.fatal, State.event_rd_ne _ _ (by omega), State.rd_setReg_ne _ _ (by omega)]

theorem State.fatal_spec (s : State) (cause detail : Nat) (hc : cause < 256) : ((s.fatal cause detail).rd 0x30118).getLsbD 0 = true ∧
    ((s.fatal cause detail).rd 0x30110).getLsbD 63 = true := by
  refine ⟨?_, ?_⟩
  · rw [State.fatal, State.event_pendingBit, show (w64 (2 ^ 0)).getLsbD 0 = true by decide, Bool.or_true]
  · rw [State.fatal, State.event_rd_ne _ _ (by decide), State.rd_setReg]
    unfold w64
    rw [BitVec.getLsbD_ofNat, show 2 ^ 63 + detail % 256 * 256 + cause = 2 ^ 63 + (detail % 256 * 256 + cause) by omega,
      Nat.testBit_two_pow_add_eq, Nat.testBit_lt_two_pow (by omega)]
    rfl

/-! ### The image -/

section
variable {s : State} (v : W64)

theorem execBeamImg_of_other (h : s.inPhase 5 = false) :
    ∀ i ∈ [Instr.beamImgAddr v, .beamImgData v, .beamImgGo v], exec i s = .next (s.send (.mgmt 0 true)) := by
  have hn : (!s.inPhase 5) = true := by rw [h]; rfl
  intro i hi
  simp only [List.mem_cons, List.not_mem_nil, or_false] at hi
  rcases hi with rfl | rfl | rfl
  · exact congrArg (fun x => Host.Outcome.next (State.mgmtReply x)) (if_pos hn)
  · exact congrArg (fun x => Host.Outcome.next (State.mgmtReply x)) (if_pos (by rw [hn]; rfl))
  · exact congrArg (fun x => Host.Outcome.next (State.mgmtReply x)) (if_pos hn)

theorem execBeamImgData_of_full (h1 : 2 ^ 24 < (s.rd 0x1000).toNat + 8) : exec (.beamImgData v) s = .next (s.send (.mgmt 0 true)) := by
  refine congrArg (fun x => Host.Outcome.next (State.mgmtReply x)) (if_pos ?_)
  rw [Bool.or_eq_true, decide_eq_true_iff]
  exact .inr h1

variable (h : s.inPhase 5 = true)
include h

theorem execBeamImgAddr_of_image (h1 : v.toNat < 2 ^ 24) (h2 : v.toNat % 8 = 0) :
    exec (.beamImgAddr v) s = .next ((s.setReg 0x1000 v).send (.mgmt 0 false)) := by
  refine congrArg (fun x => Host.Outcome.next (State.mgmtReply x)) ((if_neg (by rw [h]; decide)).trans (if_neg ?_))
  rw [Bool.or_eq_true, decide_eq_true_iff, decide_eq_true_iff]
  omega

theorem execBeamImgData_of_room (h1 : (s.rd 0x1000).toNat + 8 ≤ 2 ^ 24) : exec (.beamImgData v) s =
    .next ((({ s with boot := s.boot.write64 (s.rd 0x1000).toNat v } : State).setReg 0x1000 (w64 ((s.rd 0x1000).toNat + 8))).send (.mgmt 0 false)) := by
  refine congrArg (fun x => Host.Outcome.next (State.mgmtReply x)) (if_neg ?_)
  rw [h, Bool.or_eq_true, decide_eq_true_iff]
  simp only [Bool.not_true, Bool.false_eq_true, false_or]
  omega

theorem execBeamImgGo_of_go (hv : v.getLsbD 0 = true) : exec (.beamImgGo v) s = .next ((s.enter 6).send (.mgmt 0 false)) :=
  congrArg (fun x => Host.Outcome.next (State.mgmtReply x)) ((if_neg (by rw [h]; decide)).trans (if_pos hv))

end

/-! ### Advisories and the retirement of rods -/

/-- From `s` to `u` advisories were raised: RETIRE and the pending events may differ, with two counters. -/
structure Advised (s u : State) : Prop where
  state : u = { s with regs := u.regs }
  regs : ∀ o, o ≠ 0x30080 → o ≠ 0x30118 → o ≠ cntBlk 10 → o ≠ cntBlk 41 → u.rd o = s.rd o
  pending : ∀ k, (s.rd 0x30118).getLsbD k = true → (u.rd 0x30118).getLsbD k = true

theorem Advised.refl (s : State) : Advised s s := ⟨rfl, fun _ _ _ _ _ => rfl, fun _ h => h⟩

theorem Advised.trans {s t u : State} (h : Advised s t) (k : Advised t u) : Advised s u := by
  refine ⟨?_, fun o h1 h2 h3 h4 => (k.regs o h1 h2 h3 h4).trans (h.regs o h1 h2 h3 h4), fun n hn => k.pending n (h.pending n hn)⟩
  have hu := k.state
  rw [h.state] at hu
  exact hu

theorem Advised.flt {s u : State} (h : Advised s u) : u.flt = s.flt := by rw [h.state]

section
variable (s : State)

theorem State.setRetire_advised (v : W64) : Advised s (s.setReg 0x30080 v) := by
  rw [State.setReg_eq]
  exact ⟨rfl, fun _ h _ _ _ => s.rd_setReg_ne v h, fun k h => (congrArg (BitVec.getLsbD · k) (s.rd_setReg_ne v (by decide))).trans h⟩

theorem State.bump_advised {o : Nat} (h : o = cntBlk 10 ∨ o = cntBlk 41) (n : Nat) : Advised s (s.bump o n) := by
  have hne : (0x30118 : Nat) ≠ o := by
    rcases h with rfl | rfl <;> decide
  obtain ⟨regs, hb⟩ := s.bump_spec o n
  refine ⟨by rw [hb], fun k _ _ h10 h41 => s.rd_bump_ne n ?_, fun k hk => (congrArg (BitVec.getLsbD · k) (s.rd_bump_ne n hne)).trans hk⟩
  rcases h with rfl | rfl
  · exact h10
  · exact h41

theorem State.event_advised (n : Nat) : Advised s (s.event n) :=
  ⟨s.setReg_eq _ _, fun _ _ h _ _ => s.event_rd_ne n h, fun k hk => by rw [State.event_pendingBit, hk, Bool.true_or]⟩

theorem State.advise_advised (cls : Nat) : Advised s (s.advise cls) :=
  iteInduction (motive := Advised s) (fun _ => .refl s) (fun _ =>
    ((s.setRetire_advised _).trans (State.bump_advised _ (.inl rfl) 1)).trans (State.event_advised _ 1))

theorem getLsbD_w64_two_pow : ∀ k, k < 8 → (w64 (2 ^ k)).getLsbD k = true := by decide

/-- The advisory's bit is set, whether it was raised before or not. -/
theorem State.advise_bit {cls : Nat} (h : cls < 8) : ((s.advise cls).rd 0x30080).getLsbD cls = true := by
  unfold State.advise
  split
  · next hb => exact hb
  · rw [State.event_rd_ne _ _ (by decide), State.rd_bump_ne _ _ (by decide), State.rd_setReg, BitVec.getLsbD_or]
    exact (congrArg _ (getLsbD_w64_two_pow cls h)).trans (Bool.or_true _)

theorem State.adviseRods_advised : Advised s s.adviseRods := by
  unfold State.adviseRods
  have h : Advised s (if (s.spares false).length ≤ s.rf 0x30060 7 0 then s.advise 0 else s) :=
    iteInduction (motive := Advised s) (fun _ => s.advise_advised 0) (fun _ => .refl s)
  exact iteInduction (motive := Advised s) (fun _ => h.trans (State.advise_advised _ 1)) (fun _ => h)

/-- The bank with a record written, or kept until the next reset where it is full. -/
def State.recorded (s : State) (r : Nat × Nat × Nat) : State :=
  if s.flt.fuseRecs.length < 1024 then { s with flt := { s.flt with fuseRecs := s.flt.fuseRecs ++ [r] } }
  else { s with flt := { s.flt with kept := s.flt.kept ++ [r] } }

theorem State.fuseRecord_advised (r : Nat × Nat × Nat) : Advised (s.recorded r) (s.fuseRecord r) := by
  unfold State.fuseRecord State.recorded
  split
  · exact .refl _
  · exact (State.bump_advised _ (.inr rfl) 1).trans (State.advise_advised _ 6)

/-- A record changes the bank alone. -/
theorem State.recorded_frame (r : Nat × Nat × Nat) :
    ∃ f k, s.recorded r = { s with flt := { s.flt with fuseRecs := f, kept := k } } ∧ (s.flt.fuseRecs.length < 1024 → f = s.flt.fuseRecs ++ [r]) := by
  unfold State.recorded
  split
  · exact ⟨_, _, rfl, fun _ => rfl⟩
  · next h => exact ⟨s.flt.fuseRecs, _, rfl, fun hn => absurd hn h⟩

end

/-- From `s` to `u` rods were retired and mapped: only the fault unit's tables and what advisories change differ, and what was retired stays
so. -/
structure Repaired (s u : State) : Prop where
  state : u = { s with flt := u.flt, regs := u.regs }
  regs : ∀ o, o ≠ 0x30080 → o ≠ 0x30118 → o ≠ cntBlk 10 → o ≠ cntBlk 41 → u.rd o = s.rd o
  retired : ∀ n ∈ s.flt.retired, n ∈ u.flt.retired

theorem Repaired.refl (s : State) : Repaired s s := ⟨rfl, fun _ _ _ _ _ => rfl, fun _ h => h⟩

theorem Repaired.trans {s t u : State} (h : Repaired s t) (k : Repaired t u) : Repaired s u := by
  refine ⟨?_, fun o h1 h2 h3 h4 => (k.regs o h1 h2 h3 h4).trans (h.regs o h1 h2 h3 h4), fun n hn => k.retired n (h.retired n hn)⟩
  have hu := k.state
  rw [h.state] at hu
  exact hu

theorem Advised.repaired {s u : State} (h : Advised s u) : Repaired s u := by
  refine ⟨?_, h.regs, fun n hn => by rw [h.flt]; exact hn⟩
  rw [h.flt]
  exact h.state

/-- Tables of the fault unit that keep what is retired. -/
theorem Repaired.of_flt (s : State) {f : Faults} (h : ∀ n ∈ s.flt.retired, n ∈ f.retired) : Repaired s { s with flt := f } :=
  ⟨rfl, fun _ _ _ _ _ => rfl, h⟩

section
variable (s : State)

theorem State.fuseRecord_repaired (r : Nat × Nat × Nat) : Repaired s (s.fuseRecord r) := by
  have h := (s.fuseRecord_advised r).repaired
  obtain ⟨f, k, heq, -⟩ := s.recorded_frame r
  rw [heq] at h
  exact (Repaired.of_flt s (f := { s.flt with fuseRecs := f, kept := k }) (fun _ h => h)).trans h

/-- The rod is retired. -/
theorem State.retireRod_repaired (n : Nat) : Repaired s (s.retireRod n) ∧ n ∈ (s.retireRod n).flt.retired := by
  unfold State.retireRod
  split
  · next h => exact ⟨.refl s, List.contains_iff_mem.mp h⟩
  · have h : Repaired s { s with flt := { s.flt with retired := s.flt.retired ++ [n], untested := s.flt.untested.filter (· != n) } } :=
      .of_flt s fun _ h => List.mem_append_left _ h
    have hr := State.fuseRecord_repaired
      ({ s with flt := { s.flt with retired := s.flt.retired ++ [n], untested := s.flt.untested.filter (· != n) } }) (1, n, 0)
    exact ⟨h.trans hr, hr.retired n (List.mem_append_right _ List.mem_cons_self)⟩

theorem State.mapRod_repaired (l n : Nat) : Repaired s (s.mapRod l n) := .of_flt s fun _ h => h

theorem State.loseFrame_repaired (l : Nat) : Repaired s (s.loseFrame l) :=
  iteInduction (motive := Repaired s) (fun _ => .refl s) (fun _ => .of_flt s fun _ h => h)

theorem Repaired.forEach {α : Type} {f : α → State → State} (hf : ∀ a u, Repaired u (f a u)) (l : List α) : Repaired s (s.forEach l f) :=
  State.forEach_induct (P := Repaired s) (fun a u hu => hu.trans (hf a u)) l (.refl s)

theorem State.buildMap_repaired : Repaired s s.buildMap := by
  unfold State.buildMap
  have h : Repaired s { s with flt := { s.flt with spareMap := [], noFrames := [], untested := [] } } := .of_flt s fun _ h => h
  refine h.trans (Repaired.forEach _ (fun x u => ?_) _)
  split
  · exact iteInduction (motive := Repaired u) (fun _ => .refl u) (fun _ => u.mapRod_repaired _ _)
  · exact (u.mapRod_repaired _ _).trans (State.loseFrame_repaired _ _)

end

theorem Repaired.phaseKept {s u : State} (h : Repaired s u) : PhaseKept s u :=
  ⟨fun o ho => h.regs o (by omega) (by omega) (by unfold cntBlk; omega) (by unfold cntBlk; omega), by rw [h.state]⟩

/-- Failing rods are retired, and the map is built. -/
def State.rodsSorted (s : State) (l : List Nat) : State :=
  (s.forEach (l.filter (· < s.design.physRods)) (fun n s => s.retireRod n)).buildMap.adviseRods

theorem State.rodsSorted_spec (s : State) (l : List Nat) : Repaired s (s.rodsSorted l) ∧
    ∀ n ∈ l, n < s.design.physRods → n ∈ (s.rodsSorted l).flt.retired := by
  unfold State.rodsSorted
  have h1 := Repaired.forEach s (f := fun n u => u.retireRod n) (fun n u => (u.retireRod_repaired n).1) (l.filter (· < s.design.physRods))
  have h2 := (State.buildMap_repaired (s.forEach (l.filter (· < s.design.physRods)) (fun n s => s.retireRod n))).trans
    (State.adviseRods_advised _).repaired
  refine ⟨h1.trans h2, fun n hn hlt => h2.retired n ?_⟩
  exact State.forEach_all (I := fun _ => True) (Q := fun n u => n ∈ u.flt.retired)
    (f := fun n u => u.retireRod n) (fun _ _ h => h) (fun n u _ => (u.retireRod_repaired n).2)
    (fun n m u _ h => (u.retireRod_repaired m).1.retired n h) _ trivial n (List.mem_filter.mpr ⟨hn, decide_eq_true hlt⟩)

/-- Every rod zeroed. -/
def State.rodsZeroed (s : State) : State := { s with rods := [], bead := [], beadPoison := [], imem := [] }

theorem execRods_of_inPhase {s : State} (h : s.inPhase 8 = true) (l : List Nat) : exec (.rods l) s =
    .next (if (List.range (s.design.rods / 8)).all (fun f => (s.rodsSorted l).rodsZeroed.flt.noFrames.contains f)
      then (s.rodsSorted l).rodsZeroed.bootFail 5 else (s.rodsSorted l).rodsZeroed.enter 9) := by
  unfold State.rodsSorted State.rodsZeroed
  exact congrArg Host.Outcome.next (if_neg (by rw [h]; decide))

/-! ### Lighting the ports -/

/-- From `s` to `u` only ports have changed, and messages have been sent. -/
structure PortsOnly (s u : State) : Prop where
  state : u = { s with fab := { s.fab with ports := u.fab.ports }, out := u.out }

theorem PortsOnly.refl (s : State) : PortsOnly s s := ⟨rfl⟩

theorem PortsOnly.trans {s t u : State} (h : PortsOnly s t) (k : PortsOnly t u) : PortsOnly s u := by
  have hu := k.state
  rw [h.state] at hu
  exact ⟨hu⟩

theorem PortsOnly.rd {s u : State} (h : PortsOnly s u) (o : Nat) : u.rd o = s.rd o := by
  rw [h.state]
  rfl

theorem PortsOnly.flt {s u : State} (h : PortsOnly s u) : u.flt = s.flt := by rw [h.state]

theorem PortsOnly.phaseKept {s u : State} (h : PortsOnly s u) : PhaseKept s u := ⟨fun o _ => h.rd o, by rw [h.state]⟩

/-- Sources of one port are commanded: no other port changes, and the port's bring-up stays where it is. -/
structure SourcesAsked (p : Nat) (s u : State) : Prop extends PortsOnly s u where
  other : ∀ q, q ≠ p → u.port q = s.port q
  train : (u.port p).train = (s.port p).train

section
variable (s : State) (p : Nat)

theorem SourcesAsked.refl : SourcesAsked p s s := ⟨.refl s, fun _ _ => rfl, rfl⟩

theorem State.onPort_asked {f : Port → Port} (hf : ∀ x, (f x).train = x.train) : SourcesAsked p s (s.onPort p f) :=
  ⟨⟨rfl⟩, fun _ hq => State.port_setPort_ne _ _ hq, by rw [State.onPort, State.port_setPort, hf]⟩

theorem State.laserAsk_asked (op n v : Nat) : SourcesAsked p s (s.laserAsk p op n v) := by
  have h := (s.send (.laser p (laserCmd op n v))).onPort_asked p (f := fun x => { x with asked := x.asked ++ [(op, n)] }) (fun _ => rfl)
  exact ⟨⟨h.state⟩, h.other, h.train⟩

end

theorem SourcesAsked.trans {p : Nat} {s t u : State} (h : SourcesAsked p s t) (k : SourcesAsked p t u) : SourcesAsked p s u :=
  ⟨h.toPortsOnly.trans k.toPortsOnly, fun q hq => (k.other q hq).trans (h.other q hq), k.train.trans h.train⟩

section
variable (s : State) (p : Nat)

theorem State.darkenLanes_asked (l : List Nat) : SourcesAsked p s (s.darkenLanes p l) := by
  unfold State.darkenLanes
  refine State.forEach_induct (P := SourcesAsked p s) (fun n u hu => ?_) l (.refl s p)
  exact (hu.trans (u.laserAsk_asked p 4 n 0)).trans (State.onPort_asked _ p (fun _ => rfl))

theorem State.lightLanes_asked (v : Nat) (l : List Nat) : SourcesAsked p s (s.lightLanes p v l) := by
  unfold State.lightLanes
  refine State.forEach_induct (P := SourcesAsked p s) (fun n u hu => ?_) l (.refl s p)
  exact ((hu.trans (u.laserAsk_asked p 3 n v)).trans (State.laserAsk_asked _ p 4 n 1)).trans (State.onPort_asked _ p (fun _ => rfl))

/-- A port that begins to probe. -/
theorem State.portProbe_spec : PortsOnly s (s.portProbe p) ∧ (∀ q, q ≠ p → (s.portProbe p).port q = s.port q) ∧
    ((s.portProbe p).port p).train = .probing := by
  let lit := ((s.port p).sources.filter (fun x => x.2 % 2 == 1 && decide (2 ≤ x.1))).map (·.1)
  let t := s.onPort p (fun x => { Port.init with
    train := .probing, lasEn := true, upFails := x.upFails, asked := if x.lasEn then x.asked else [],
    sources := if x.lasEn then x.sources else [] })
  have h := (t.darkenLanes_asked p lit).trans (State.lightLanes_asked _ p (s.rf 0x600018 15 0) [0, 1])
  have ht : PortsOnly s t := ⟨rfl⟩
  refine ⟨ht.trans h.toPortsOnly, fun q hq => (h.other q hq).trans (State.port_setPort_ne _ _ hq), h.train.trans ?_⟩
  rw [show t.port p = _ from State.port_setPort s p _]

/-- One port's turn in phase LINKS. -/
def State.linkPort (p : Nat) (s : State) : State :=
  if s.portEnabled p && (s.port p).train = .dark && (s.port p).darkUntil.isNone then s.portProbe p else s

theorem State.linkPort_only : PortsOnly s (s.linkPort p) ∧ ∀ q, q ≠ p → (s.linkPort p).port q = s.port q :=
  iteInduction (motive := fun u : State => PortsOnly s u ∧ ∀ q, q ≠ p → u.port q = s.port q)
    (fun _ => ⟨(s.portProbe_spec p).1, (s.portProbe_spec p).2.1⟩) (fun _ => ⟨.refl s, fun _ _ => rfl⟩)

theorem PortsOnly.portEnabled {s u : State} (h : PortsOnly s u) (p : Nat) : u.portEnabled p = s.portEnabled p := by
  rw [State.portEnabled, State.portEnabled, h.rd, h.flt]

theorem State.linkPorts_spec : PortsOnly s (s.forEach (List.range 8) State.linkPort) ∧
    ∀ p, p < 8 → s.portEnabled p = true → (s.port p).train = .dark → (s.port p).darkUntil = none →
      ((s.forEach (List.range 8) State.linkPort).port p).train = .probing := by
  refine ⟨State.forEach_induct (P := PortsOnly s) (fun q u hu => hu.trans (u.linkPort_only q).1) _ (.refl s), fun p hp he ht hd => ?_⟩
  refine State.forEach_once (I := PortsOnly s) (P := fun q u => u.port q = s.port q)
    (Q := fun q u => s.portEnabled q = true → (s.port q).train = .dark → (s.port q).darkUntil = none → (u.port q).train = .probing)
    (fun q u hu => hu.trans (u.linkPort_only q).1) (fun q u hu hq he ht hd => ?_) (fun q r u _ hqr hq => ((u.linkPort_only r).2 q hqr).trans hq)
    (fun q r u _ hqr hq he ht hd => (congrArg Port.train ((u.linkPort_only r).2 q hqr)).trans (hq he ht hd)) _ List.nodup_range (.refl s)
    (fun _ _ => rfl) p (List.mem_range.mpr hp) he ht hd
  rw [State.linkPort, if_pos (by rw [hu.portEnabled, he, hq, ht, hd]; rfl)]
  exact (u.portProbe_spec q).2.2

end

theorem execLinks_of_inPhase {s : State} (h : s.inPhase 9 = true) : exec .links s =
    .next (if (List.range 8).all s.portSettled || s.pwr.phaseAt.toNat + s.rf 0x600038 9 0 * 1000000 ≤ s.time.toNat then
      (s.forEach (List.range 8) State.linkPort).enter 0xA else s.forEach (List.range 8) State.linkPort) :=
  congrArg Host.Outcome.next (if_neg (by rw [h]; decide))

/-! ### HOST, and cx_present -/

/-- One channel as cx_present rises. -/
def State.riseChan (c : Nat) (s : State) : State :=
  if bit (s.rd 0x700000) c then s.setChan c { Chan.init with inPosted := 512, inNon := 128 } else s.setChan c Chan.init

/-- From `s` to `u` only channels have changed. -/
def ChansOnly (s u : State) : Prop := u = { s with chans := u.chans }

theorem ChansOnly.trans {s t u : State} (h : ChansOnly s t) (k : ChansOnly t u) : ChansOnly s u := by
  have hu : u = _ := k
  rw [show t = _ from h] at hu
  exact hu

theorem State.riseChan_spec (s : State) (c : Nat) : ChansOnly s (s.riseChan c) ∧
    (s.riseChan c).chan c = (if bit (s.rd 0x700000) c then { Chan.init with inPosted := 512, inNon := 128 } else Chan.init) ∧
    ∀ d, d ≠ c → (s.riseChan c).chan d = s.chan d := by
  unfold State.riseChan
  split
  · exact ⟨rfl, State.chan_setChan _ _ _, fun d hd => State.chan_setChan_ne _ _ hd⟩
  · exact ⟨rfl, State.chan_setChan _ _ _, fun d hd => State.chan_setChan_ne _ _ hd⟩

theorem ChansOnly.rd {s u : State} (h : ChansOnly s u) (o : Nat) : u.rd o = s.rd o := by
  rw [show u = _ from h]
  rfl

theorem State.riseChans_spec (s : State) : ChansOnly s (s.forEach (List.range 4) State.riseChan) ∧ ∀ c, c < 4 →
    (s.forEach (List.range 4) State.riseChan).chan c =
      (if bit (s.rd 0x700000) c then { Chan.init with inPosted := 512, inNon := 128 } else Chan.init) := by
  refine ⟨State.forEach_induct (P := ChansOnly s) (fun c u hu => hu.trans (u.riseChan_spec c).1) _ rfl, fun c hc => ?_⟩
  refine State.forEach_once (I := ChansOnly s) (P := fun _ _ => True)
    (Q := fun c u => u.chan c = (if bit (s.rd 0x700000) c then { Chan.init with inPosted := 512, inNon := 128 } else Chan.init))
    (fun c u hu => hu.trans (u.riseChan_spec c).1) (fun c u hu _ => ?_) (fun _ _ _ _ _ _ => trivial)
    (fun c d u _ hcd h => ((u.riseChan_spec d).2.2 c hcd).trans h) _ List.nodup_range (show ChansOnly s s from rfl) (fun _ _ => trivial) c
    (List.mem_range.mpr hc)
  rw [(u.riseChan_spec c).2.1, hu.rd]

/-- cx_present is high. -/
def State.withPresent (s : State) (b : Bool) : State := { s with pwr := { s.pwr with present := b } }

theorem State.raisePresent_spec (s : State) : PhaseKept s s.raisePresent ∧ s.raisePresent.pwr.present = true ∧
    (s.pwr.present = false → ∀ c, c < 4 →
      s.raisePresent.chan c = (if bit (s.rd 0x700000) c then { Chan.init with inPosted := 512, inNon := 128 } else Chan.init)) := by
  by_cases h : s.pwr.present = true
  · have he : s.raisePresent = s := if_pos h
    rw [he]
    exact ⟨.refl s, h, fun h0 => absurd (h.symm.trans h0) (by decide)⟩
  · have he : s.raisePresent = (s.withPresent true).forEach (List.range 4) State.riseChan := if_neg h
    obtain ⟨hk, hc⟩ := (s.withPresent true).riseChans_spec
    rw [he]
    refine ⟨⟨fun o _ => hk.rd o, ?_⟩, ?_, fun _ => hc⟩
    · rw [show State.forEach _ _ _ = _ from hk]
      rfl
    · rw [show State.forEach _ _ _ = _ from hk]
      rfl

theorem State.clampChans_spec (s : State) : (s.forEach (List.range 4) (fun c s => s.setChan c Chan.init)).pwr = s.pwr ∧
    ∀ c, c < 4 → (s.forEach (List.range 4) (fun c s => s.setChan c Chan.init)).chan c = Chan.init := by
  refine ⟨State.forEach_induct (P := fun u => u.pwr = s.pwr) (f := fun c u => u.setChan c Chan.init) (fun _ _ h => h) _ rfl, fun c hc => ?_⟩
  exact State.forEach_once (I := fun _ => True) (P := fun _ _ => True) (Q := fun c u => u.chan c = Chan.init)
    (f := fun c u => u.setChan c Chan.init) (fun _ _ h => h) (fun _ _ _ _ => State.chan_setChan _ _ _) (fun _ _ _ _ _ _ => trivial)
    (fun c d u _ hcd h => (State.chan_setChan_ne _ _ hcd).trans h) _ List.nodup_range trivial (fun _ _ => trivial) c (List.mem_range.mpr hc)

/-! ### Each phase -/

theorem State.rd_send (s : State) (x : Output) (o : Nat) : (s.send x).rd o = s.rd o := rfl
theorem State.out_send (s : State) (x : Output) : (s.send x).out = s.out ++ [x] := rfl

/-- A message sent leaves a phase's entry as it is. -/
theorem Entered.send {s t : State} {k : Nat} (h : Entered s t k) (x : Output) : Entered s (t.send x) k := h

theorem execBeamImgData_spec {s : State} (v : W64) (h : s.inPhase 5 = true) (hr : (s.rd 0x1000).toNat + 8 ≤ 2 ^ 24) :
    ∃ t, exec (.beamImgData v) s = .next t ∧ t.boot = s.boot.write64 (s.rd 0x1000).toNat v ∧ t.rd 0x1000 = s.rd 0x1000 + 8 ∧
      t.out = s.out ++ [.mgmt 0 false] := by
  refine ⟨_, execBeamImgData_of_room v h hr, ?_, ?_, ?_⟩
  · exact State.setReg_boot { s with boot := s.boot.write64 (s.rd 0x1000).toNat v } 0x1000 (w64 ((s.rd 0x1000).toNat + 8))
  · rw [State.rd_send, State.rd_setReg]
    unfold w64
    rw [BitVec.ofNat_add, BitVec.ofNat_toNat, BitVec.setWidth_eq]
    rfl
  · rw [State.out_send, State.setReg_out]

theorem execBeamImgGo_spec {s : State} (v : W64) (h : s.inPhase 5 = true) (hv : v.getLsbD 0 = true) :
    ∃ t, exec (.beamImgGo v) s = .next t ∧ Entered s t 6 ∧ t.out = s.out ++ [.mgmt 0 false] :=
  ⟨_, execBeamImgGo_of_go v h hv, ((PhaseKept.refl s).enter h (by decide)).send _, by rw [State.out_send, State.enter_out]⟩

section
variable {s : State}

theorem execSram_spec (h : s.inPhase 2 = true) : (∃ t, exec (.sram true) s = .next t ∧ Entered s t (if s.sec.tstDone then 3 else 0xD) ∧ t.bead = [] ∧
    t.imem = [] ∧ t.rods = [] ∧ t.slate = [] ∧ t.hbm = s.hbm) ∧ ∃ t, exec (.sram false) s = .next t ∧ BootFailed s t 1 := by
  refine ⟨⟨s.sramZeroed.enter (if s.sec.tstDone then 3 else 0xD),
    congrArg Host.Outcome.next ((if_neg (by rw [h]; decide)).trans (if_neg (by decide))),
    (show PhaseKept s s.sramZeroed from ⟨fun _ _ => rfl, rfl⟩).enter h (by split <;> decide), ?_⟩,
    _, congrArg Host.Outcome.next ((if_neg (by rw [h]; decide)).trans (if_pos rfl)), (PhaseKept.refl s).bootFail 1⟩
  rw [State.enter_bead, State.enter_imem, State.enter_rods, State.enter_slate, State.enter_hbm]
  exact ⟨rfl, rfl, rfl, rfl, rfl⟩

theorem execKeys_spec (h : s.inPhase 3 = true) : ∃ t, exec .keys s = .next t ∧ t.sec.sealKey = s.free ∧ t.sec.jrnlKey = s.free + 4 ∧
    (s.pwr.warm = false → Entered s t 4 ∧ t.tier.ilKey = s.free + 6 ∧ t.free = s.free + 9) ∧
    (s.pwr.warm = true → Entered s t (if s.pwr.unlock then 5 else 6) ∧ t.tier.ilKey = s.tier.ilKey ∧ t.free = s.free + 6) := by
  have hk : PhaseKept s s.keysDrawn := ⟨fun _ _ => rfl, rfl⟩
  have hk2 : PhaseKept s s.keysDrawn.ilKeysDrawn := ⟨fun _ _ => rfl, rfl⟩
  refine ⟨_, execKeys_of_inPhase h, ?_⟩
  cases hw : s.pwr.warm
  · rw [if_neg Bool.false_ne_true, State.enter_sec, State.enter_tier, State.enter_free]
    exact ⟨rfl, rfl, fun _ => ⟨hk2.enter h (by decide), rfl, rfl⟩, fun h => absurd h (by decide)⟩
  · rw [if_pos rfl, State.enter_sec, State.enter_tier, State.enter_free]
    exact ⟨rfl, rfl, fun h => absurd h (by decide), fun _ => ⟨hk.enter h (by split <;> decide), rfl, rfl⟩⟩

theorem execHbm_of_trained (h : s.inPhase 4 = true) {l : List Bool} (hall : ∀ k, k < s.design.stacks → nth false l k = true) :
    ∃ t, exec (.hbm l) s = .next t ∧ Entered s t 5 ∧ t.flt.chMap = recChans s.flt.fuseRecs := by
  have hf : (List.range s.design.stacks).find? (fun k => !nth false l k) = none :=
    List.find?_eq_none.mpr fun k hk => by rw [hall k (List.mem_range.mp hk)]; decide
  refine ⟨s.chMapLoaded.enter 5, (execHbm_of_inPhase h l).trans (by rw [hf]),
    (show PhaseKept s s.chMapLoaded from ⟨fun _ _ => rfl, rfl⟩).enter h (by decide), ?_⟩
  rw [State.enter_flt]
  rfl

theorem execHbm_of_untrained (h : s.inPhase 4 = true) {l : List Bool} {k : Nat} (hk : k < s.design.stacks) (hn : nth false l k = false) :
    ∃ t, exec (.hbm l) s = .next t ∧ BootFailed s t 2 ∧ (t.rd 0x30118).getLsbD 0 = true ∧ (t.rd 0x30110).getLsbD 63 = true := by
  obtain ⟨j, hj⟩ := Option.isSome_iff_exists.mp (List.find?_isSome (p := fun k => !nth false l k) |>.mpr
    ⟨k, List.mem_range.mpr hk, by rw [hn]; rfl⟩)
  obtain ⟨h1, h2⟩ := s.fatal_spec 3 j (by decide)
  refine ⟨(s.fatal 3 j).bootFail 2, (execHbm_of_inPhase h l).trans (by rw [hj]), (s.fatal_kept 3 j).bootFail 2, ?_, ?_⟩
  · rw [State.bootFail, State.rd_setReg_ne _ _ (by decide), h1]
  · rw [State.bootFail, State.rd_setReg_ne _ _ (by decide), h2]

/-- The image's digest is noted; the first refusal is. -/
def State.authOk (s : State) : State := { s with sec := { s.sec with image := Config.sha384 (s.bootBytes 0 (256 + s.imgLen)) } }
def State.authAgain (s : State) : State := { s with pwr := { s.pwr with authRetried := true } }

theorem execAuth_of_inPhase (h : s.inPhase 6 = true) : exec .auth s =
    .next (if s.imageOk then s.authOk.enter 7 else if s.pwr.authRetried then s.bootFail 3 else s.authAgain.enter 5) :=
  congrArg Host.Outcome.next (if_neg (by rw [h]; decide))

theorem execAuth_spec (h : s.inPhase 6 = true) : ∃ t, exec .auth s = .next t ∧ (s.imageOk = true → Entered s t 7) ∧
    (s.imageOk = false → s.pwr.authRetried = false → Entered s t 5 ∧ t.pwr.authRetried = true) ∧
    (s.imageOk = false → s.pwr.authRetried = true → BootFailed s t 3) := by
  have h1 : PhaseKept s s.authOk := ⟨fun _ _ => rfl, rfl⟩
  have h2 : PhaseKept s s.authAgain := ⟨fun _ _ => rfl, rfl⟩
  refine ⟨_, execAuth_of_inPhase h, fun hok => ?_, fun hok hr => ?_, fun hok hr => ?_⟩
  · rw [if_pos hok]
    exact h1.enter h (by decide)
  · rw [if_neg (by rw [hok]; decide), if_neg (by rw [hr]; decide)]
    exact ⟨h2.enter h (by decide), by rw [State.enter_pwr]; rfl⟩
  · rw [if_neg (by rw [hok]; decide), if_pos hr]
    exact (PhaseKept.refl s).bootFail 3

/-- The pairs that started, with an empty beam journal. -/
def State.beamStarted (s : State) (a b : Bool) : State :=
  { s with flt := { s.flt with
    masterB := !a, standby := a && b, failedOver := false, beam := some []
    stopped := (if a then [] else [false]) ++ (if b then [] else [true]) } }

theorem execBeam_of_inPhase (h : s.inPhase 7 = true) (a b : Bool) : exec (.beam a b) s =
    .next (if !a && !b then s.bootFail 4 else if a && b then (s.beamStarted a b).enter 8 else ((s.beamStarted a b).enter 8).advise 5) :=
  congrArg Host.Outcome.next (if_neg (by rw [h]; decide))

/-- An advisory leaves a phase's entry as it is. -/
theorem Entered.advise {s t : State} {k : Nat} (h : Entered s t k) (cls : Nat) : Entered s (t.advise cls) k := by
  obtain ⟨h1, h2, h3, h4⟩ := h
  have ha := t.advise_advised cls
  have hr := ha.repaired.phaseKept.regs
  refine ⟨(congrArg (bits · 3 0) (hr _ (.inr (.inl rfl)))).trans h1, ?_, (hr _ (.inr (.inr rfl))).trans h3,
    (congrArg (bits · 3 0) (hr _ (.inl rfl))).trans h4⟩
  rw [ha.state]
  exact h2

theorem execBeam_spec (h : s.inPhase 7 = true) (a b : Bool) : ∃ t, exec (.beam a b) s = .next t ∧
    ((a || b) = true → Entered s t 8 ∧ t.flt.masterB = (!a) ∧ t.flt.standby = (a && b) ∧ t.flt.beam = some []) ∧
    ((a || b) = false → BootFailed s t 4) := by
  have hk : PhaseKept s (s.beamStarted a b) := ⟨fun _ _ => rfl, rfl⟩
  have he := hk.enter h (show 8 < 16 by decide)
  refine ⟨_, execBeam_of_inPhase h a b, fun hab => ?_, fun hab => ?_⟩
  · rw [if_neg (by cases a <;> cases b <;> simp_all)]
    have hflt : (if a && b then (s.beamStarted a b).enter 8 else ((s.beamStarted a b).enter 8).advise 5).flt = (s.beamStarted a b).flt := by
      split
      · exact State.enter_flt _ _
      · rw [(State.advise_advised _ _).flt, State.enter_flt]
    rw [hflt]
    exact ⟨iteInduction (motive := fun u => Entered s u 8) (fun _ => he) (fun _ => he.advise 5), rfl, rfl, rfl⟩
  · rw [if_pos (by rw [← Bool.not_or, hab]; rfl)]
    exact (PhaseKept.refl s).bootFail 4

/-- The end of phase RODS, from the frames that are available. -/
theorem PhaseKept.rodsEnd {u : State} (hz : PhaseKept s u) (h : s.inPhase 8 = true) (n : Nat) :
    let t := if (List.range n).all (fun f => u.flt.noFrames.contains f) then u.bootFail 5 else u.enter 9
    t.rods = u.rods ∧ t.bead = u.bead ∧ t.imem = u.imem ∧ t.flt = u.flt ∧ ((∃ f, f < n ∧ f ∉ u.flt.noFrames) → Entered s t 9) ∧
      ((∀ f, f < n → f ∈ u.flt.noFrames) → BootFailed s t 5) := by
  have hall : (List.range n).all (fun f => u.flt.noFrames.contains f) = true ↔ ∀ f, f < n → f ∈ u.flt.noFrames := by
    simp only [List.all_eq_true, List.mem_range, List.contains_iff_mem]
  dsimp only
  split
  · next hc => exact ⟨u.bootFail_rods 5, u.bootFail_bead 5, u.bootFail_imem 5, u.bootFail_flt 5,
      fun ⟨f, hf, hn⟩ => absurd (hall.mp hc f hf) hn, fun _ => hz.bootFail 5⟩
  · next hc => exact ⟨u.enter_rods 9, u.enter_bead 9, u.enter_imem 9, u.enter_flt 9, fun _ => hz.enter h (by decide),
      fun hn => absurd (hall.mpr hn) hc⟩

theorem State.rodsZeroed_spec (s : State) : s.rodsZeroed.rods = [] ∧ s.rodsZeroed.bead = [] ∧ s.rodsZeroed.imem = [] ∧
    s.rodsZeroed.flt = s.flt ∧ PhaseKept s s.rodsZeroed := ⟨rfl, rfl, rfl, rfl, fun _ _ => rfl, rfl⟩

theorem PhaseKept.trans {t u : State} (h : PhaseKept s t) (k : PhaseKept t u) : PhaseKept s u :=
  ⟨fun o ho => (k.regs o ho).trans (h.regs o ho), k.time.trans h.time⟩

theorem execRods_spec (h : s.inPhase 8 = true) (l : List Nat) : ∃ t, exec (.rods l) s = .next t ∧ t.rods = [] ∧ t.bead = [] ∧ t.imem = [] ∧
    (∀ n ∈ l, n < s.design.physRods → n ∈ t.flt.retired) ∧
    ((∃ f, f < s.design.rods / 8 ∧ f ∉ t.flt.noFrames) → Entered s t 9) ∧
    ((∀ f, f < s.design.rods / 8 → f ∈ t.flt.noFrames) → BootFailed s t 5) := by
  obtain ⟨hrep, hret⟩ := s.rodsSorted_spec l
  have hex := execRods_of_inPhase h l
  obtain ⟨hr, hb, hi, hf, hk⟩ := (s.rodsSorted l).rodsZeroed_spec
  rw [← hf] at hret
  generalize (s.rodsSorted l).rodsZeroed = u at hex hr hb hi hret hk
  obtain ⟨h1, h2, h3, h4, h5, h6⟩ := (hrep.phaseKept.trans hk).rodsEnd h (s.design.rods / 8)
  refine ⟨_, hex, h1.trans hr, h2.trans hb, h3.trans hi, ?_⟩
  rw [h4]
  exact ⟨hret, h5, h6⟩

theorem State.enter_port (s : State) (k p : Nat) : (s.enter k).port p = s.port p := congrArg (fun x : Fabric => Sparse.get Port.init x.ports p) (s.enter_fab k)

theorem execLinks_spec (h : s.inPhase 9 = true) : ∃ t, exec .links s = .next t ∧
    (∀ p, p < 8 → s.portEnabled p = true → (s.port p).train = .dark → (s.port p).darkUntil = none → (t.port p).train = .probing) ∧
    ((∀ p, p < 8 → s.portSettled p = true) ∨ s.pwr.phaseAt.toNat + s.rf 0x600038 9 0 * 1000000 ≤ s.time.toNat → t.phase = 0xA) ∧
    ((∃ p, p < 8 ∧ s.portSettled p = false) → s.time.toNat < s.pwr.phaseAt.toNat + s.rf 0x600038 9 0 * 1000000 → t.phase = 9) := by
  obtain ⟨hk, hprobe⟩ := s.linkPorts_spec
  have hall : (List.range 8).all s.portSettled = true ↔ ∀ p, p < 8 → s.portSettled p = true := by
    simp only [List.all_eq_true, List.mem_range]
  have hex := execLinks_of_inPhase h
  have hc : ((List.range 8).all s.portSettled || s.pwr.phaseAt.toNat + s.rf 0x600038 9 0 * 1000000 ≤ s.time.toNat) = true ↔
      (∀ p, p < 8 → s.portSettled p = true) ∨ s.pwr.phaseAt.toNat + s.rf 0x600038 9 0 * 1000000 ≤ s.time.toNat := by
    rw [Bool.or_eq_true, decide_eq_true_iff, hall]
  split at hex
  · next hover =>
    refine ⟨_, hex, fun p hp he ht hd => ?_, fun _ => State.enter_phase _ (by decide), fun ⟨p, hp, hn⟩ hlt => ?_⟩
    · rw [State.enter_port]
      exact hprobe p hp he ht hd
    · rcases hc.mp hover with ha | ha
      · exact absurd ((ha p hp).symm.trans hn) (by decide)
      · exact absurd hlt (Nat.not_lt.mpr ha)
  · next hover =>
    refine ⟨_, hex, hprobe, fun hn => absurd (hc.mpr hn) hover, fun _ _ => ?_⟩
    exact (congrArg (bits · 3 0) (hk.rd 0x10020)).trans ((s.inPhase_iff 9).mp h).2.1

theorem execSync_of_met (h : s.inPhase 0xA = true) (hc : (s.pwr.warm = true ∧ s.fab.synced = true) ∨ s.master = s.fab.pos ∨ 3 ≤ s.pwr.syncs) :
    ∃ t, exec .sync s = .next t ∧ Entered s t 0xB := by
  refine ⟨_, congrArg Host.Outcome.next (if_pos ?_), (PhaseKept.refl s).enter h (by decide)⟩
  rw [h, Bool.true_and, Bool.or_eq_true, Bool.or_eq_true, Bool.and_eq_true, beq_iff_eq, decide_eq_true_iff, or_assoc]
  exact hc

theorem execSync_of_wait (h1 : s.pwr.warm = false ∨ s.fab.synced = false) (h2 : s.master ≠ s.fab.pos) (h3 : s.pwr.syncs < 3) :
    exec .sync s = .next s := by
  refine congrArg Host.Outcome.next (if_neg ?_)
  rw [Bool.and_eq_true, Bool.or_eq_true, Bool.or_eq_true, Bool.and_eq_true, beq_iff_eq, decide_eq_true_iff]
  rintro ⟨-, (⟨hw, hs⟩ | h) | h⟩
  · rcases h1 with h1 | h1
    · exact absurd (hw.symm.trans h1) (by decide)
    · exact absurd (hs.symm.trans h1) (by decide)
  · exact h2 h
  · omega

theorem execHost_spec (h : s.inPhase 0xB = true) : ∃ t u, exec .host s = .next t ∧ Entered s t 0xC ∧ t.pwr.present = true ∧
    exec .presentRise s = .next u ∧ u.pwr.present = true ∧ u.phase = 0xB ∧ (s.pwr.present = false → ∀ c, c < 4 →
      u.chan c = (if bit (s.rd 0x700000) c then { Chan.init with inPosted := 512, inNon := 128 } else Chan.init)) := by
  obtain ⟨hk, hp, hc⟩ := s.raisePresent_spec
  refine ⟨_, _, congrArg Host.Outcome.next (if_pos h), hk.enter h (by decide), ?_, congrArg Host.Outcome.next (if_pos h), hp, ?_, hc⟩
  · rw [State.enter_pwr]
    exact hp
  · exact (congrArg (bits · 3 0) (hk.regs _ (.inr (.inl rfl)))).trans ((s.inPhase_iff 0xB).mp h).2.1

theorem execPresentFall_of_reset (hp : s.pwr.present = true) (hr : s.rstState = 1 ∨ s.rstState = 2 ∨ s.rstState = 3) :
    ∃ t, exec .presentFall s = .next t ∧ t.pwr.present = false ∧ ∀ c, c < 4 → t.chan c = Chan.init := by
  obtain ⟨hpwr, hch⟩ := (s.withPresent false).clampChans_spec
  refine ⟨_, congrArg Host.Outcome.next (if_pos ?_), congrArg Power.present hpwr, hch⟩
  rw [hp]
  rcases hr with hr | hr | hr <;> simp [hr]

theorem execPresentFall_of_live (hl : s.live = true) : exec .presentFall s = .next s := by
  rw [State.live, Bool.and_eq_true, Bool.and_eq_true, decide_eq_true_iff, Bool.not_eq_true', Bool.not_eq_true'] at hl
  obtain ⟨⟨hr, hd⟩, hf⟩ := hl
  refine congrArg Host.Outcome.next (if_neg ?_)
  rw [hd, hf, show s.rstState = 0 from hr]
  simp

theorem State.event_rstState (s : State) (n : Nat) : (s.event n).rstState = s.rstState := by
  rw [State.rstState, State.rf, State.event_rd_ne _ _ (by decide), State.rstState, State.rf]

theorem State.setRf_rstState (s : State) : (s.setRf 0x10008 3 0 0).rstState = 0 := by
  rw [State.rstState, State.rf_setRf_same _ _ _ (by decide) (by decide), Nat.zero_mod]

theorem execReady_spec (h : s.inPhase 0xC = true) : ∃ t, exec .ready s = .next t ∧ t.rstState = 0 ∧ (t.rd 0x30118).getLsbD 11 = true := by
  refine ⟨(s.setRf 0x10008 3 0 0).event 11, congrArg Host.Outcome.next (if_pos h), (State.event_rstState _ _).trans s.setRf_rstState, ?_⟩
  rw [State.event_pendingBit, show (w64 (2 ^ 11)).getLsbD 11 = true by decide, Bool.or_true]

/-- FLT_FATAL and the event of a start-up that failed. -/
def State.bootFatal (s : State) : State := if s.rd 0x10028 = 2 then s.event 0 else s.fatal 4 0

theorem State.bootFatal_spec (s : State) : (s.bootFatal.rd 0x30118).getLsbD 0 = true := by
  unfold State.bootFatal
  split
  · rw [State.event_pendingBit, show (w64 (2 ^ 0)).getLsbD 0 = true by decide, Bool.or_true]
  · exact (s.fatal_spec 4 0 (by decide)).1

theorem execFailed_of_failed (hr : s.rstState = 4) (hc : s.rd 0x10028 ≠ 0) (hp : s.phase ≠ 0xF) :
    exec .failed s = .next (s.bootFatal.setReg 0x10020 0xF) := congrArg Host.Outcome.next (if_pos (by rw [hr, decide_eq_true hc, decide_eq_true hp]; rfl))

theorem execFailed_spec (hr : s.rstState = 4) (hc : s.rd 0x10028 ≠ 0) (hp : s.phase ≠ 0xF) :
    ∃ t, exec .failed s = .next t ∧ t.phase = 0xF ∧ (t.rd 0x30118).getLsbD 0 = true := by
  refine ⟨_, execFailed_of_failed hr hc hp, s.bootFatal.rf_setReg_small (o := 0x10020) 0xF (by decide), ?_⟩
  rw [State.rd_setReg_ne _ _ (by decide)]
  exact s.bootFatal_spec

/-- A phase that is not in progress. -/
theorem exec_of_idle (h : s.rstState = 0 ∨ s.rstState = 1) :
    ∀ i ∈ [Instr.sram true, .sram false, .keys, .auth, .beam true true, .links, .sync, .host, .presentRise, .ready, .failed],
      exec i s = .next s := by
  have hn (k : Nat) : ¬s.inPhase k = true := by rw [State.not_inPhase h]; decide
  have hp (k : Nat) : (!s.inPhase k) = true := by rw [State.not_inPhase h]; rfl
  intro i hi
  simp only [List.mem_cons, List.not_mem_nil, or_false] at hi
  rcases hi with rfl | rfl | rfl | rfl | rfl | rfl | rfl | rfl | rfl | rfl | rfl
  · exact congrArg Host.Outcome.next (if_pos (hp 2))
  · exact congrArg Host.Outcome.next (if_pos (hp 2))
  · exact congrArg Host.Outcome.next (if_pos (hp 3))
  · exact congrArg Host.Outcome.next (if_pos (hp 6))
  · exact congrArg Host.Outcome.next (if_pos (hp 7))
  · exact congrArg Host.Outcome.next (if_pos (hp 9))
  · exact congrArg Host.Outcome.next (if_neg (by rw [State.not_inPhase h, Bool.false_and]; decide))
  · exact congrArg Host.Outcome.next (if_neg (hn 0xB))
  · exact congrArg Host.Outcome.next (if_neg (hn 0xB))
  · exact congrArg Host.Outcome.next (if_neg (hn 0xC))
  · exact congrArg Host.Outcome.next (if_neg (by rcases h with h | h <;> simp [h]))

end

theorem execClocks_spec {s : State} (pos : Fin 8) (h : s.inPhase 1 = true) : ∃ t, exec (.clocks pos) s = .next t ∧ Entered s t 2 ∧
    t.fab.pos = (if s.pwr.warm then s.fab.pos else pos.val) ∧ t.pwr.vid = vidFor s.pwr.freq ∧ t.pwr.vidGoal = t.pwr.vid ∧ 20 ≤ t.pwr.vid ∧
    t.pwr.vid ≤ 80 := by
  obtain ⟨hk, hpos, hvid, hgoal⟩ := s.clocked_spec pos
  refine ⟨_, execClocks_of_inPhase h pos, hk.enter h (by decide), ?_⟩
  rw [State.enter_fab, State.enter_pwr]
  exact ⟨hpos, hvid, hgoal.trans hvid.symm, hvid ▸ (vidFor_range _).1, hvid ▸ (vidFor_range _).2⟩

/-- Settles O51, phase by phase: what the phase does, then the phase it enters or the failure it notes. That CLOCKS raises the voltage code,
that IMAGE keeps nothing of its own and that AUTH rests on standard signatures are the model's choice (log entries 92 and 132). -/
theorem startUpSequence : Obligations.StartUpSequence :=
  ⟨fun _ pos => execClocks_spec pos, fun _ => execSram_spec, fun _ => execKeys_spec,
    fun _ _ h => ⟨execHbm_of_trained h, fun ⟨_, hk, hn⟩ => execHbm_of_untrained h hk hn⟩,
    fun _ v => ⟨rfl, fun h => ⟨execBeamImgAddr_of_image v h, execBeamImgData_spec v h, execBeamImgData_of_full v, execBeamImgGo_spec v h⟩,
      execBeamImg_of_other v⟩,
    fun _ => execAuth_spec, fun _ a b h => execBeam_spec h a b, fun _ l h => execRods_spec h l, fun _ => execLinks_spec,
    fun _ h => ⟨execSync_of_met h, execSync_of_wait⟩, fun _ => execHost_spec,
    fun _ => ⟨execPresentFall_of_reset, execPresentFall_of_live, execReady_spec, execFailed_spec,
      fun hc => congrArg Host.Outcome.next (if_neg (by simp [hc]))⟩, fun _ h => ⟨execClocks_of_other h, exec_of_idle h⟩⟩

end Sys2Proof.Machine
end

section
/-! PROOF. Errors of the hardware and what they leave: the log, poison, MACHINE, channels, fixed functions (17_faults_and_recovery.md R370
to R373, R384 to R386). -/

namespace Sys2Proof.Machine

/-! ### A detection in the log -/

/-- From `s` to `u` the log was written: HBM with its marks, the log's registers and the triggers due may differ, and nothing else does. -/
structure LogFrame (s u : State) : Prop where
  state : u = { s with
    hbm := u.hbm, hbmPoison := u.hbmPoison, flt := { s.flt with hbmClean := u.flt.hbmClean }, regs := u.regs, dbg := u.dbg }
  regs : ∀ o, o ≠ 0x30010 → o ≠ 0x30118 → o ≠ cntBlk 11 → u.rd o = s.rd o

theorem LogFrame.refl (s : State) : LogFrame s s := ⟨rfl, fun _ _ _ _ => rfl⟩

theorem LogFrame.trans {s t u : State} (h : LogFrame s t) (k : LogFrame t u) : LogFrame s u := by
  refine ⟨?_, fun o h1 h2 h3 => (k.regs o h1 h2 h3).trans (h.regs o h1 h2 h3)⟩
  have hu := k.state
  rw [h.state] at hu
  exact hu

section
variable (s : State)

theorem State.setReg_logFrame {o : Nat} (h : o = 0x30010 ∨ o = 0x30118 ∨ o = cntBlk 11) (v : W64) : LogFrame s (s.setReg o v) := by
  refine ⟨?_, fun k h1 h2 h3 => s.rd_setReg_ne v ?_⟩
  · rw [State.setReg_flt, State.setReg_hbm, State.setReg_hbmPoison, State.setReg_dbg]
    exact s.setReg_eq o v
  · rcases h with rfl | rfl | rfl
    · exact h1
    · exact h2
    · exact h3

theorem State.bump_logFrame (n : Nat) : LogFrame s (s.bump (cntBlk 11) n) :=
  iteInduction (motive := LogFrame s) (fun _ => .refl s) (fun _ => s.setReg_logFrame (.inr (.inr rfl)) _)

theorem State.hbmWrite_logFrame (a : Nat) (bs : List Byte) : LogFrame s (s.hbmWrite a bs) := by
  refine ⟨?_, fun _ _ _ _ => rfl⟩
  unfold State.hbmWrite
  dsimp only
  split <;> rfl

theorem State.trigger_logFrame (kind : Nat) (sel : Nat → Bool) : LogFrame s (s.trigger kind sel) := ⟨rfl, fun _ _ _ _ => rfl⟩

section
variable (cls cause resp part unit addr step : Nat)

theorem State.faultRecord_logFrame : LogFrame s (s.faultRecord cls cause resp part unit addr step) :=
  iteInduction (motive := LogFrame s) (fun _ => s.bump_logFrame 1) (fun _ =>
    (((s.hbmWrite_logFrame _ _).trans (State.setReg_logFrame _ (.inl rfl) _)).trans (State.setReg_logFrame _ (.inr (.inl rfl)) _)).trans
      (State.trigger_logFrame _ _ _))

/-- Where the ring is full the record is counted as lost. -/
theorem State.faultRecord_of_full (h : (s.rd 0x30010 - s.rd 0x30018).toNat = 2 ^ s.rf 0x30008 4 0) :
    s.faultRecord cls cause resp part unit addr step = s.bump (cntBlk 11) 1 := if_pos h

theorem State.faultRecord_logged : Logged s (s.faultRecord cls cause resp part unit addr step) := by
  refine ⟨s.faultRecord_of_room cls cause resp part unit addr step, fun h => ?_⟩
  rw [s.faultRecord_of_full cls cause resp part unit addr step h, State.bump_one, State.rd_setReg, State.rd_setReg_ne _ _ (by decide)]
  exact ⟨rfl, rfl⟩

end

end

/-- What was logged stays so while the log's pointer, its loss count and the pending event stay. -/
theorem Logged.keep {s t u : State} (h : Logged s t) (h1 : u.rd 0x30010 = t.rd 0x30010)
    (h2 : (t.rd 0x30118).getLsbD 14 = true → (u.rd 0x30118).getLsbD 14 = true) (h3 : u.rd (cntBlk 11) = t.rd (cntBlk 11)) : Logged s u :=
  ⟨fun hr => ⟨h1.trans (h.1 hr).1, h2 (h.1 hr).2⟩, fun hf => ⟨h1.trans (h.2 hf).1, h3.trans (h.2 hf).2⟩⟩

/-- Registers read from the offsets written and the configuration alone. -/
theorem State.rd_of_regs {s u : State} (hr : u.regs = s.regs) (hd : u.design = s.design) (o : Nat) : u.rd o = s.rd o := by
  rw [State.rd, State.rd, hr, hd]

theorem Logged.regs {s t u : State} (h : Logged s t) (hr : u.regs = t.regs) (hd : u.design = t.design) : Logged s u :=
  h.keep (State.rd_of_regs hr hd _) (fun hb => by rw [State.rd_of_regs hr hd]; exact hb) (State.rd_of_regs hr hd _)

theorem Logged.advised {s t u : State} (h : Logged s t) (k : Advised t u) : Logged s u :=
  h.keep (k.regs _ (by decide) (by decide) (by decide) (by decide)) (k.pending 14) (k.regs _ (by decide) (by decide) (by decide) (by decide))

/-- A record with a count beside the log's. -/
def State.recordCount (s : State) (cls cause resp part unit addr step o : Nat) : State :=
  (s.faultRecord cls cause resp part unit addr step).bump o 1

/-- What a record and a count leave. -/
structure Counted (s u : State) (o : Nat) : Prop where
  logged : Logged s u
  count : u.rd o = counterAdd (s.rd o) 1
  frame : ∃ v, LogFrame s v ∧ u = { v with regs := u.regs }

theorem State.recordCount_counted (s : State) (cls cause resp part unit addr step : Nat) {o : Nat} (h : 0x48000 ≤ o) (hn : o ≠ cntBlk 11) :
    Counted s (s.recordCount cls cause resp part unit addr step o) o := by
  have hf := s.faultRecord_logFrame cls cause resp part unit addr step
  have hl := s.faultRecord_logged cls cause resp part unit addr step
  unfold State.recordCount
  generalize s.faultRecord cls cause resp part unit addr step = v at hf hl ⊢
  rw [State.bump_one]
  refine ⟨hl.keep (v.rd_setReg_ne _ (by omega)) (fun hb => ?_) (v.rd_setReg_ne _ hn.symm), ?_, v, hf, v.setReg_eq o _⟩
  · rw [v.rd_setReg_ne _ (by omega)]
    exact hb
  · rw [State.rd_setReg, hf.regs o (by omega) (by omega) hn]

section
variable {s u : State} {o : Nat} (h : Counted s u o)
include h

theorem Counted.kept : u.bead = s.bead ∧ u.imem = s.imem ∧ u.rods = s.rods ∧ u.parts = s.parts ∧ u.slate = s.slate ∧ u.beadPoison = s.beadPoison := by
  obtain ⟨v, hv, hu⟩ := h.frame
  rw [hu, hv.state]
  exact ⟨rfl, rfl, rfl, rfl, rfl, rfl⟩

theorem Counted.flt : ∃ c, u.flt = { s.flt with hbmClean := c } := by
  obtain ⟨v, hv, hu⟩ := h.frame
  refine ⟨v.flt.hbmClean, ?_⟩
  rw [hu, hv.state]

theorem Counted.part (p : Nat) : u.part p = s.part p := congrArg (Sparse.get Part.init · p) h.kept.2.2.2.1

end

/-! ### Errors at a place -/

theorem State.chanCount_range (s : State) (x : Nat × Nat) : 0x48000 ≤ 0x4E000 + 0x100 * x.1 + 8 * s.physChan x.1 x.2 ∧
    0x4E000 + 0x100 * x.1 + 8 * s.physChan x.1 x.2 ≠ cntBlk 11 := by
  unfold cntBlk
  omega

theorem State.rodCount_range (ph : Nat) : 0x48000 ≤ 0x4C000 + 8 * ph ∧ 0x4C000 + 8 * ph ≠ cntBlk 11 := by
  unfold cntBlk
  omega

theorem cntBlk_four : 0x48000 ≤ cntBlk 4 ∧ cntBlk 4 ≠ cntBlk 11 := by decide

theorem State.detect_counted (s : State) (cls cause : Nat) (loc : ErrLoc) {o : Nat} (h : 0x48000 ≤ o ∧ o ≠ cntBlk 11) :
    Counted s ((s.detect cls cause loc).bump o 1) o := s.recordCount_counted _ _ _ _ _ _ _ h.1 h.2

section
variable {s : State}

theorem execCorrectableError_hbm (hp : s.powered = true) (off : Nat) : exec (.correctableError (.hbm off)) s = .next
    ((s.detect 5 0 (.hbm off)).bump (0x4E000 + 0x100 * (s.hbmPlace off).1 + 8 * s.physChan (s.hbmPlace off).1 (s.hbmPlace off).2) 1) :=
  congrArg Host.Outcome.next (if_neg (by rw [hp]; decide))

theorem execCorrectableError_rod (hp : s.powered = true) (ph : Fin 544) (off : Nat) :
    ∀ loc ∈ [ErrLoc.bead ph off, ErrLoc.imem ph off], exec (.correctableError loc) s = .next ((s.detect 5 0 loc).bump (0x4C000 + 8 * ph) 1) := by
  intro loc hl
  simp only [List.mem_cons, List.not_mem_nil, or_false] at hl
  rcases hl with rfl | rfl <;> exact congrArg Host.Outcome.next (if_neg (by rw [hp]; decide))

theorem State.poisonHbm_self (s : State) (g : Nat) : Sparse.get false (s.poisonHbm g).hbmPoison g = true :=
  Sparse.get_put_self false s.hbmPoison g true

theorem State.poisonBead_self (s : State) (g : Nat) : Sparse.get false (s.poisonBead g).beadPoison g = true :=
  Sparse.get_put_self false s.beadPoison g true

/-- An uncorrectable error of HBM, noted and marked. -/
def State.ueMarked (s : State) (off : Nat) : State := ((s.detect 6 0 (.hbm off)).bump (cntBlk 4) 1).poisonHbm (off / 32)

theorem Counted.poisonHbm {u : State} {o : Nat} (h : Counted s u o) (g : Nat) : Logged s (u.poisonHbm g) ∧
    (u.poisonHbm g).rd o = counterAdd (s.rd o) 1 ∧ Sparse.get false (u.poisonHbm g).hbmPoison g = true ∧ (u.poisonHbm g).parts = s.parts :=
  ⟨h.logged.regs rfl rfl, (State.rd_of_regs rfl rfl _).trans h.count, State.poisonHbm_self _ _, h.kept.2.2.2.1⟩

theorem State.ueMarked_spec (s : State) (off : Nat) : Logged s (s.ueMarked off) ∧ (s.ueMarked off).rd (cntBlk 4) = counterAdd (s.rd (cntBlk 4)) 1 ∧
    Sparse.get false (s.ueMarked off).hbmPoison (off / 32) = true ∧ (s.ueMarked off).parts = s.parts := by
  unfold State.ueMarked
  exact (s.detect_counted 6 0 (.hbm off) cntBlk_four).poisonHbm (off / 32)

theorem execUncorrectableError_hbm (hp : s.powered = true) (off : Nat) : exec (.uncorrectableError (.hbm off)) s =
    .next (((s.ueMarked off).loss (s.hitHbm (fun k => k == off / 32))).histRepair (off / 32)).jrnlRepair := by
  unfold State.ueMarked
  exact congrArg Host.Outcome.next (if_neg (by rw [hp]; decide))

theorem execUncorrectableError_machine (hp : s.powered = true) (ph : Fin 544) (off : Nat) :
    ∀ loc ∈ [ErrLoc.imem ph off, ErrLoc.rodUnit ph], ∃ resp, exec (.uncorrectableError loc) s = .next (s.machineFault ph resp) := by
  intro loc hl
  simp only [List.mem_cons, List.not_mem_nil, or_false] at hl
  rcases hl with rfl | rfl
  · exact ⟨16, congrArg Host.Outcome.next (if_neg (by rw [hp]; decide))⟩
  · exact ⟨0, congrArg Host.Outcome.next (if_neg (by rw [hp]; decide))⟩

/-- A hold for a fault of a partition that runs. -/
theorem State.holdPart_heldWith {p : Nat} (h : (s.part p).st = .running) (hold cause resp : Nat) :
    HeldWith (s.holdPart p hold cause resp) p hold cause := by
  unfold HeldWith
  rw [State.holdPart_of_running hold cause resp h]
  exact ⟨rfl, rfl, rfl, rfl⟩

/-- A granule of bead memory marked poisoned: where a partition runs the rod, the error holds it. -/
def State.beadUe (u : State) (g : Nat) (q : Option Nat) : State :=
  match q with
  | some p => (u.poisonBead g).holdPart p 4 0x08 0
  | none => u.poisonBead g

theorem Counted.beadUe {u : State} {o : Nat} (h : Counted s u o) (g : Nat) (q : Option Nat) : Logged s (u.beadUe g q) ∧
    Sparse.get false (u.beadUe g q).beadPoison g = true ∧ (u.beadUe g q).bead = s.bead ∧
    (∀ p, q = some p → (s.part p).st = .running → HeldWith (u.beadUe g q) p 4 0x08) ∧ (q = none → (u.beadUe g q).parts = s.parts) := by
  obtain ⟨hbead, -, -, hparts, -, -⟩ := h.kept
  have hl : Logged s (u.poisonBead g) := h.logged.regs rfl rfl
  cases q with
  | none => exact ⟨hl, State.poisonBead_self _ _, hbead, fun _ h => absurd h (by simp), fun _ => hparts⟩
  | some p =>
    obtain ⟨parts, hf⟩ := State.holdPart_frame (u.poisonBead g) p 4 0x08 0
    refine ⟨hl.regs (u := (u.poisonBead g).holdPart p 4 0x08 0) (congrArg State.regs hf :) (congrArg State.design hf :),
      (congrArg (fun x => Sparse.get false (State.beadPoison x) g) hf).trans (State.poisonBead_self u g), (congrArg State.bead hf).trans hbead, ?_,
      fun h => absurd h (by simp)⟩
    rintro q hq' hr
    obtain rfl := Option.some.inj hq'
    exact State.holdPart_heldWith (s := u.poisonBead g) ((congrArg Part.st (h.part p)).trans hr) 4 8 0

theorem execUncorrectableError_bead (hp : s.powered = true) (ph : Fin 544) (off : Nat) : exec (.uncorrectableError (.bead ph off)) s =
    .next (((s.detect 6 0 (.bead ph off)).bump (cntBlk 4) 1).beadUe ((2 ^ 22 * ph + off) / 8) (s.partOfPhys ph)) := by
  unfold State.beadUe
  exact congrArg Host.Outcome.next (if_neg (by rw [hp]; decide))

theorem State.machineFault_spec {ph p : Nat} (hq : s.partOfPhys ph = some p) (hr : (s.part p).st = .running) (hn : (s.rod ph).reported = false)
    (resp : Nat) : ∃ r, ((s.machineFault ph resp).rod ph).raised = (s.rod ph).raised ++ [r] ∧ r.cause = 0x0A ∧
      ((s.machineFault ph resp).rod ph).pc = (s.rod ph).pc ∧ ((s.machineFault ph resp).rod ph).s = (s.rod ph).s ∧
      (s.machineFault ph resp).hbm = s.hbm ∧ (s.machineFault ph resp).regs = s.regs := by
  unfold State.machineFault
  rw [hq]
  dsimp only
  rw [if_neg (not_not.mpr hr), State.onRod, State.rod_setRod, Rod.raise, if_neg (by rw [hn]; decide)]
  exact ⟨_, rfl, rfl, rfl, rfl, rfl, rfl⟩

end

/-! ### Channels -/

/-- The map's entry for the moved channel; the stack's spare is used. -/
def State.chanMapped (s : State) (st ch : Nat) : State :=
  { s with flt := { s.flt with
    chMap := s.flt.chMap ++ [(32 * st + ch, 31)], spareUsed := s.flt.spareUsed ++ [st]
    copying := s.flt.copying.filter (fun x => x.1 != st) } }

/-- What the move of a channel onto its stack's spare leaves. -/
theorem State.moveChan_spec (s : State) (st ch : Nat) : ∃ f k, Advised
    { s.chanMapped st ch with flt := { (s.chanMapped st ch).flt with fuseRecs := f, kept := k } } (s.moveChan st ch) := by
  have h := ((s.chanMapped st ch).fuseRecord_advised (2, st, ch)).trans (State.advise_advised _ 2)
  obtain ⟨f, k, heq, -⟩ := (s.chanMapped st ch).recorded_frame (2, st, ch)
  rw [heq] at h
  exact ⟨f, k, h⟩

theorem State.moveChan_kept (s : State) (st ch : Nat) : (s.moveChan st ch).flt.chMap = s.flt.chMap ++ [(32 * st + ch, 31)] ∧
    (s.moveChan st ch).flt.spareUsed = s.flt.spareUsed ++ [st] ∧ (s.moveChan st ch).flt.copying = s.flt.copying.filter (fun x => x.1 != st) ∧
    (s.moveChan st ch).flt.lostCh = s.flt.lostCh ∧ (s.moveChan st ch).hbm = s.hbm ∧ (s.moveChan st ch).hbmPoison = s.hbmPoison ∧
    (s.moveChan st ch).parts = s.parts := by
  obtain ⟨f, k, h⟩ := s.moveChan_spec st ch
  rw [h.state, State.chanMapped]
  exact ⟨rfl, rfl, rfl, rfl, rfl, rfl, rfl⟩

theorem Logged.moveChan {s v : State} (h : Logged s v) (st ch : Nat) : Logged s (v.moveChan st ch) := by
  obtain ⟨f, k, hadv⟩ := v.moveChan_spec st ch
  exact (h.regs (u := { v.chanMapped st ch with flt := { (v.chanMapped st ch).flt with fuseRecs := f, kept := k } }) rfl rfl).advised hadv

theorem State.moveChan_rd (s : State) (st ch : Nat) {o : Nat} (h : 0x48000 ≤ o ∧ o < 0x48050) : (s.moveChan st ch).rd o = s.rd o := by
  obtain ⟨f, k, hadv⟩ := s.moveChan_spec st ch
  exact (hadv.regs o (by omega) (by omega) (by unfold cntBlk; omega) (by unfold cntBlk; omega)).trans (State.rd_of_regs rfl rfl o)

/-- The marks of a lost channel: on the list, none of its granules sound. -/
def State.chanMarked (u s : State) (st ch : Nat) : State :=
  { u with flt := { u.flt with
    lostCh := if u.flt.lostCh.contains (st, ch) then u.flt.lostCh else u.flt.lostCh ++ [(st, ch)]
    hbmClean := u.flt.hbmClean.filter (fun g => s.hbmPlace (32 * g.1) != (st, ch)) } }

/-- A channel's loss: the record, the count, and its granules poisoned. -/
def State.chanLostMarked (s : State) (st ch : Nat) : State :=
  ((s.faultRecord 7 0 0 0 (s.chanUnit (st, ch)) 0 0).bump (cntBlk 5) 1).chanMarked s st ch

theorem Counted.chanMarked {s u : State} {o : Nat} (h : Counted s u o) (st ch : Nat) : Logged s (u.chanMarked s st ch) ∧
    (u.chanMarked s st ch).rd o = counterAdd (s.rd o) 1 ∧ (st, ch) ∈ (u.chanMarked s st ch).flt.lostCh ∧
    (u.chanMarked s st ch).flt.chMap = s.flt.chMap ∧ (u.chanMarked s st ch).parts = s.parts := by
  obtain ⟨c, hf⟩ := h.flt
  refine ⟨h.logged.regs rfl rfl, (State.rd_of_regs rfl rfl _).trans h.count, ?_, (congrArg Faults.chMap hf :), h.kept.2.2.2.1⟩
  unfold State.chanMarked
  dsimp only
  split
  · next h => exact List.contains_iff_mem.mp h
  · exact List.mem_append_right _ List.mem_cons_self

theorem cntBlk_five : 0x48000 ≤ cntBlk 5 ∧ cntBlk 5 ≠ cntBlk 11 := by decide

theorem State.chanLostMarked_spec (s : State) (st ch : Nat) : Logged s (s.chanLostMarked st ch) ∧
    (s.chanLostMarked st ch).rd (cntBlk 5) = counterAdd (s.rd (cntBlk 5)) 1 ∧ (st, ch) ∈ (s.chanLostMarked st ch).flt.lostCh ∧
    (s.chanLostMarked st ch).flt.chMap = s.flt.chMap ∧ (s.chanLostMarked st ch).parts = s.parts := by
  unfold State.chanLostMarked
  exact (s.recordCount_counted 7 0 0 0 (s.chanUnit (st, ch)) 0 0 cntBlk_five.1 cntBlk_five.2).chanMarked st ch

section
variable {s : State} {st : Fin 16} {ch : Fin 31} (hl : s.live = true) (hs : st.val < s.design.stacks)
include hl hs

theorem execChannelFailing_of_free (h1 : st.val ∉ s.flt.spareUsed) (h2 : ∀ c, (st.val, c) ∉ s.flt.copying) (h3 : (st.val, ch.val) ∉ s.flt.lostCh) :
    exec (.channelFailing st ch) s = .next { s with flt := { s.flt with copying := s.flt.copying ++ [(st.val, ch.val)] } } := by
  refine congrArg Host.Outcome.next (if_neg ?_)
  have hc : s.flt.copying.any (fun x => x.1 == st.val) = false :=
    List.any_eq_false.mpr fun x hx he => h2 x.2 (by rw [← beq_iff_eq.mp he]; exact hx)
  rw [hl, decide_eq_false (by omega), List.contains_eq_mem, decide_eq_false h1, hc, List.contains_eq_mem, decide_eq_false h3]
  decide

omit hl hs in
theorem execChannelFailing_of_used (h : st.val ∈ s.flt.spareUsed) : exec (.channelFailing st ch) s = .next s := by
  refine congrArg Host.Outcome.next (if_pos ?_)
  rw [List.contains_iff_mem.mpr h]
  simp

omit hs in
theorem execChannelCopyEnd_of_copying (h : s.flt.copying.find? (fun x => x.1 == st.val) = some (st.val, ch.val)) :
    exec (.channelCopyEnd st) s = .next (s.moveChan st ch) := by
  refine congrArg Host.Outcome.next ?_
  rw [h]
  exact if_pos hl

theorem execChannelLost_eq : exec (.channelLost st ch) s = .next (if s.flt.spareUsed.contains st.val then (s.chanLostMarked st ch).deadStack st
    else ((((s.chanLostMarked st ch).moveChan st ch).loss (s.hitHbm (fun g => s.hbmPlace (32 * g) == (st.val, ch.val)))).forEach
      (s.histLost (fun g => s.hbmPlace (32 * g) == (st.val, ch.val))) (fun g v => v.histRepair g)).jrnlRepair) := by
  unfold State.chanLostMarked State.chanMarked
  exact congrArg Host.Outcome.next (if_neg (by rw [hl, decide_eq_false (by omega)]; decide))

theorem execChannelLost_of_spare (h : st.val ∉ s.flt.spareUsed) : ∃ u : State, Logged s u ∧ u.rd (cntBlk 5) = counterAdd (s.rd (cntBlk 5)) 1 ∧
    (st.val, ch.val) ∈ u.flt.lostCh ∧ u.flt.chMap = s.flt.chMap ++ [(32 * st.val + ch.val, 31)] ∧
    exec (.channelLost st ch) s = .next ((u.loss (s.hitHbm (fun g => s.hbmPlace (32 * g) == (st.val, ch.val)))).forEach
      (s.histLost (fun g => s.hbmPlace (32 * g) == (st.val, ch.val))) (fun g v => v.histRepair g)).jrnlRepair := by
  obtain ⟨hlog, hcnt, hlost, hmap, -⟩ := s.chanLostMarked_spec st ch
  have hex := execChannelLost_eq (ch := ch) hl hs
  rw [if_neg (by rw [List.contains_eq_mem, decide_eq_false h]; decide)] at hex
  generalize s.chanLostMarked st ch = v at hlog hcnt hlost hmap hex
  obtain ⟨hm, -, -, hlc, -, -, -⟩ := v.moveChan_kept st ch
  exact ⟨v.moveChan st ch, hlog.moveChan st ch, (v.moveChan_rd st ch (by decide)).trans hcnt, by rw [hlc]; exact hlost, by rw [hm, hmap], hex⟩

end

/-! ### A stack without a spare -/

theorem State.deadStack_spec (s : State) (st : Nat) : (s.deadStack st).flt.noCreate = true ∧
    ((∀ p, p < 16 → (s.part p).st = .off) → ((s.deadStack st).rd 0x30118).getLsbD 0 = true) := by
  refine ⟨rfl, fun hoff => ?_⟩
  have hf := (s.fatal_spec 2 st (by decide)).1
  have hp (p : Nat) : (s.fatal 2 st).part p = s.part p := rfl
  have hid : (s.fatal 2 st).forEach (List.range 16) (fun p s =>
      if (s.part p).st = .off then s else (s.resetPart p 0x0A 0).deletePart p) = s.fatal 2 st := by
    refine State.forEach_mem (P := fun u => u = s.fatal 2 st) (fun p hm u hu => ?_) rfl
    rw [hu]
    exact if_pos ((congrArg Part.st (hp p)).trans (hoff p (List.mem_range.mp hm)))
  rw [State.deadStack, hid]
  exact hf

theorem Counted.holdPart {s u : State} {o : Nat} (h : Counted s u o) (p : Nat) : Logged s (u.holdPart p 4 0 0) ∧
    (u.holdPart p 4 0 0).rd o = counterAdd (s.rd o) 1 ∧ ((s.part p).st = .running → HeldWith (u.holdPart p 4 0 0) p 4 0) ∧
    (u.holdPart p 4 0 0).rods = s.rods ∧ (u.holdPart p 4 0 0).slate = s.slate := by
  obtain ⟨-, -, hrods, -, hslate, -⟩ := h.kept
  obtain ⟨parts, hf⟩ := State.holdPart_frame u p 4 0 0
  have hregs : (u.holdPart p 4 0 0).regs = u.regs := (congrArg State.regs hf :)
  have hdesign : (u.holdPart p 4 0 0).design = u.design := (congrArg State.design hf :)
  exact ⟨h.logged.regs hregs hdesign, (State.rd_of_regs hregs hdesign o).trans h.count,
    fun hr => State.holdPart_heldWith ((congrArg Part.st (h.part p)).trans hr) 4 0 0, (congrArg State.rods hf).trans hrods,
    (congrArg State.slate hf).trans hslate⟩

theorem execFixedFunctionUe_eq {s : State} (hl : s.live = true) (p : Fin 16) (u : FixedUnit) : exec (.fixedFunctionUe p u) s =
    .next ((s.recordCount 0xB 0 0 p (match u with | .sequencer => 0xC10 | .sampler => 0xC11) 0 (s.openStep p) (cntBlk 4)).holdPart p 4 0 0) := by
  unfold State.recordCount
  exact congrArg Host.Outcome.next (if_neg (by rw [hl]; decide))

/-- Settles O45: each error from what its record and count leave, then what follows it; channels from the move onto the stack's spare. -/
theorem hardwareErrorsAndChannels : Obligations.HardwareErrorsAndChannels := by
  refine ⟨fun s off hp => ?_, fun s ph off hp loc hloc => ?_, fun s off hp => ?_, fun s ph off hp =>
      ⟨_, execUncorrectableError_bead hp ph off, (s.detect_counted 6 0 (.bead ph off) cntBlk_four).beadUe _ _⟩,
    fun s ph off p hp hq hr hn loc hloc => ?_, fun s g => rfl, fun s st ch hl hs => ⟨execChannelFailing_of_free hl hs, execChannelFailing_of_used,
      fun h => ?_, fun h => ?_, execChannelLost_of_spare hl hs, fun h => ?_⟩, fun s p u hl => ?_⟩
  · have hc := s.detect_counted 5 0 (.hbm off) (s.chanCount_range (s.hbmPlace off))
    obtain ⟨h1, h2, h3, h4, -, -⟩ := hc.kept
    exact ⟨_, execCorrectableError_hbm hp off, hc.logged, hc.count, h1, h2, h3, h4⟩
  · have hc := s.detect_counted 5 0 loc (State.rodCount_range ph)
    obtain ⟨h1, h2, h3, -, -, -⟩ := hc.kept
    exact ⟨_, execCorrectableError_rod hp ph off loc hloc, hc.logged, hc.count, h1, h2, h3⟩
  · obtain ⟨h1, h2, h3, h4⟩ := s.ueMarked_spec off
    exact ⟨_, h1, h2, h3, h4, execUncorrectableError_hbm hp off⟩
  · obtain ⟨resp, hex⟩ := execUncorrectableError_machine hp ph off loc hloc
    obtain ⟨r, hr⟩ := State.machineFault_spec hq hr hn resp
    exact ⟨_, hex, r, hr⟩
  · obtain ⟨h1, h2, h3, h4, h5, h6, h7⟩ := s.moveChan_kept st ch
    refine ⟨_, execChannelCopyEnd_of_copying hl h, h1, h2, fun c hc => ?_, h4, h5, h6, h7⟩
    rw [h3, List.mem_filter] at hc
    exact absurd hc.2 (by simp)
  · refine congrArg Host.Outcome.next ?_
    rw [h]
  · obtain ⟨-, -, -, -, hparts⟩ := s.chanLostMarked_spec st ch
    obtain ⟨h1, h2⟩ := (s.chanLostMarked st ch).deadStack_spec st
    refine ⟨_, (execChannelLost_eq hl hs).trans (congrArg _ (if_pos (List.contains_iff_mem.mpr h))), h1, fun hoff => h2 fun p hp => ?_⟩
    exact (congrArg (fun x => (Sparse.get Part.init x p).st) hparts).trans (hoff p hp)
  · have hc := s.recordCount_counted 0xB 0 0 p (match u with | .sequencer => 0xC10 | .sampler => 0xC11) 0 (s.openStep p) (o := cntBlk 4)
      cntBlk_four.1 cntBlk_four.2
    exact ⟨_, execFixedFunctionUe_eq hl p u, hc.holdPart p⟩

end Sys2Proof.Machine
end

section
/-! PROOF. Retirement and substitution of rods, rotation, a lost peer, and beam pairs (17_faults_and_recovery.md R381, R382, R387, R388, R394;
20_bringup_and_test.md R444). -/

namespace Sys2Proof.Machine

/-! ### Places of rods -/

section
variable {s u : State}

theorem State.partOf_congr (hp : u.parts = s.parts) (hr : ∀ p, u.rd (pReg p 8) = s.rd (pReg p 8)) (l : Nat) : u.partOf l = s.partOf l := by
  refine congrArg (List.find? · _) (funext fun p => ?_)
  rw [State.part, hp, hr]
  rfl

theorem State.mapped_congr (hd : u.design = s.design) (hm : u.flt.spareMap = s.flt.spareMap) (n : Nat) : u.mapped n = s.mapped n := by
  simp only [State.mapped, hd, State.phys_congr hd hm]

/-- The usable spares stay when a rod in service is retired. -/
theorem State.spares_retire {ph : Nat} (hd : u.design = s.design) (hm : u.flt.spareMap = s.flt.spareMap)
    (hr : u.flt.retired = s.flt.retired ++ [ph]) (hu : u.flt.untested = s.flt.untested.filter (· != ph)) (hs : s.mapped ph = true) (k : Bool) :
    u.spares k = s.spares k := by
  rw [State.spares, State.spares, hd]
  refine List.filter_congr fun n _ => ?_
  rw [State.mapped_congr hd hm]
  by_cases hn : n = ph
  · rw [hn, hs]
    simp
  · rw [hr, hu]
    simp [hn]

theorem State.mapped_phys {l : Nat} (hl : l < s.design.rods) : s.mapped (s.phys l) = true :=
  List.any_eq_true.mpr ⟨l, List.mem_range.mpr hl, beq_self_eq_true _⟩

theorem State.mapRod_phys (s : State) (l n : Nat) : (s.mapRod l n).phys l = n := by
  unfold State.phys State.mapRod
  rw [Sparse.get_put_self]

end

/-! ### Retirement -/

/-- A rod on the list of retired ones. -/
def Faults.retire (f : Faults) (n : Nat) : Faults := { f with retired := f.retired ++ [n], untested := f.untested.filter (· != n) }

section
variable {s : State} {ph : Nat}

theorem State.retireRod_spec (h : ph ∉ s.flt.retired) :
    ∃ f k, Advised { s with flt := { s.flt.retire ph with fuseRecs := f, kept := k } } (s.retireRod ph) := by
  have hadv := ({ s with flt := s.flt.retire ph } : State).fuseRecord_advised (1, ph, 0)
  obtain ⟨f, k, heq, -⟩ := ({ s with flt := s.flt.retire ph } : State).recorded_frame (1, ph, 0)
  rw [heq] at hadv
  refine ⟨f, k, ?_⟩
  rw [State.retireRod, if_neg (by rw [List.contains_eq_mem, decide_eq_false h]; decide)]
  exact hadv

theorem State.retireRod_retired (h : ph ∉ s.flt.retired) : (s.retireRod ph).flt.retired = s.flt.retired ++ [ph] ∧
    (s.retireRod ph).flt.untested = s.flt.untested.filter (· != ph) ∧ (s.retireRod ph).flt.spareMap = s.flt.spareMap ∧
    (s.retireRod ph).design = s.design ∧ ∀ l, (s.retireRod ph).partOf l = s.partOf l := by
  obtain ⟨f, k, hadv⟩ := State.retireRod_spec h
  have hf := hadv.flt
  refine ⟨congrArg Faults.retired hf, congrArg Faults.untested hf, (congrArg Faults.spareMap hf :), by rw [hadv.state], fun l => ?_⟩
  refine State.partOf_congr (by rw [hadv.state]) (fun p => ?_) l
  exact (hadv.regs _ (by unfold pReg; omega) (by unfold pReg; omega) (by unfold pReg cntBlk; omega) (by unfold pReg cntBlk; omega)).trans
    (State.rd_of_regs rfl rfl _)

theorem State.retireRod_spares (h : ph ∉ s.flt.retired) (hm : s.mapped ph = true) (l : Nat) :
    (s.retireRod ph).spares ((s.retireRod ph).isReckon l) = s.spares (s.isReckon l) := by
  obtain ⟨hr, hu, hmap, hd, -⟩ := State.retireRod_retired h
  rw [State.spares_retire hd hmap hr hu hm, State.isReckon, hd]
  rfl

end

/-! ### Substitution -/

section
variable {s : State}

theorem State.dressRod_raised (s : State) (p n : Nat) : ((s.dressRod p n).rod n).raised = [] := by
  unfold State.dressRod State.loadRod State.onRod
  dsimp only
  rw [State.rod_setRod]
  rfl

theorem State.dressRod_flt (s : State) (p n : Nat) : (s.dressRod p n).flt = s.flt ∧ (s.dressRod p n).design = s.design := by
  unfold State.dressRod State.loadRod
  exact ⟨rfl, rfl⟩

theorem State.adviseRods_rod (s : State) (n : Nat) : s.adviseRods.rod n = s.rod n := by
  rw [s.adviseRods_advised.state]
  rfl

theorem State.substitute_of_spare {l n : Nat} {rest : List Nat} (h : s.spares (s.isReckon l) = n :: rest) : (s.substitute l).phys l = n ∧
    (s.substitute l).flt.retired = s.flt.retired ∧ ∀ p, s.partOf l = some p → ((s.substitute l).rod n).raised = [] := by
  have key (v : State) (hf : v.flt = (s.mapRod l n).flt) (hd : v.design = s.design) :
      v.adviseRods.phys l = n ∧ v.adviseRods.flt.retired = s.flt.retired := by
    have ha := v.adviseRods_advised
    have hflt : v.adviseRods.flt = (s.mapRod l n).flt := ha.flt.trans hf
    refine ⟨?_, (congrArg Faults.retired hflt :)⟩
    exact (State.phys_congr (s := s.mapRod l n) (by rw [ha.state]; exact hd) (congrArg Faults.spareMap hflt) l).trans (s.mapRod_phys l n)
  unfold State.substitute
  rw [h]
  cases hp : s.partOf l with
  | none => exact ⟨(key _ rfl rfl).1, (key _ rfl rfl).2, fun p hq => absurd hq (by simp)⟩
  | some p =>
    obtain ⟨hf, hd⟩ := (s.mapRod l n).dressRod_flt p n
    refine ⟨(key _ hf hd).1, (key _ hf hd).2, fun q _ => ?_⟩
    exact (congrArg Rod.raised (State.adviseRods_rod _ n)).trans ((s.mapRod l n).dressRod_raised p n)

theorem execSpareSubstitution_of_machine {l : Fin 512} {p : Nat} {e : Raised} (hl : s.live = true) (hp : s.partOf l = some p)
    (he : oldestRaised (s.rod (s.phys l)).raised = some e) (hc : e.cause = 0x0A) (hr : e.resp = 0) (hrep : (s.rod (s.phys l)).reported = true)
    (hn : s.phys l ∉ s.flt.retired) :
    exec (.spareSubstitution l) s = .next (((s.retireRod (s.phys l)).substitute l).releaseReplay p) := by
  refine congrArg Host.Outcome.next ?_
  rw [he, hp]
  exact if_pos (by rw [hl, hrep, hc, hr, List.contains_eq_mem, decide_eq_false hn]; decide)

theorem execSpareSubstitution_of_other {l : Fin 512} (h : s.flt.retired.contains (s.phys l) = true ∨ (s.rod (s.phys l)).reported = false) :
    exec (.spareSubstitution l) s = .next s := by
  refine congrArg Host.Outcome.next ?_
  split
  · refine if_neg ?_
    rcases h with h | h
    · simp [List.contains_iff_mem.mp h]
    · simp [h]
  · rfl

/-- A rod in service is retired and the lowest usable spare takes its place. -/
theorem State.retire_substitute {l n : Nat} {rest : List Nat} (hl : l < s.design.rods) (hn : s.phys l ∉ s.flt.retired)
    (h : s.spares (s.isReckon l) = n :: rest) : ((s.retireRod (s.phys l)).substitute l).phys l = n ∧
      ((s.retireRod (s.phys l)).substitute l).flt.retired = s.flt.retired ++ [s.phys l] ∧
      ∀ p, s.partOf l = some p → (((s.retireRod (s.phys l)).substitute l).rod n).raised = [] := by
  obtain ⟨hr, -, -, -, hpart⟩ := State.retireRod_retired hn
  obtain ⟨h1, h2, h3⟩ := State.substitute_of_spare ((State.retireRod_spares hn (State.mapped_phys hl) l).trans h)
  exact ⟨h1, h2.trans hr, fun p hp => h3 p ((hpart l).trans hp)⟩

end

/-! ### Limits of corrected errors -/

section
variable {s : State} {ph : Nat}

theorem State.retireLater_of_open (hr : ph ∉ s.flt.retired) (hp : ph ∉ s.flt.pendingRods) {p : Nat} (h : s.partOfPhys ph = some p)
    (ho : (s.part p).opened ≠ none) : s.retireLater ph = { s with flt := { s.flt with pendingRods := s.flt.pendingRods ++ [ph] } } := by
  have hq : ((List.range s.design.rods).find? (fun l => s.phys l == ph)).bind s.partOf = some p := h
  unfold State.retireLater
  rw [hq]
  dsimp only
  rw [if_neg (by rw [List.contains_eq_mem, decide_eq_false hr, List.contains_eq_mem, decide_eq_false hp]; decide),
    if_pos (Option.isSome_iff_ne_none.mpr ho)]

theorem State.retireLater_of_closed (hr : ph ∉ s.flt.retired) (hp : ph ∉ s.flt.pendingRods)
    (h : ∀ p, s.partOfPhys ph = some p → (s.part p).opened = none) : s.retireLater ph = s.withdraw ph := by
  have hq : ((List.range s.design.rods).find? (fun l => s.phys l == ph)).bind s.partOf = s.partOfPhys ph := rfl
  unfold State.retireLater
  rw [hq]
  dsimp only
  rw [if_neg (by rw [List.contains_eq_mem, decide_eq_false hr, List.contains_eq_mem, decide_eq_false hp]; decide)]
  refine if_neg ?_
  cases hx : s.partOfPhys ph with
  | none => exact Bool.false_ne_true
  | some p =>
    dsimp only
    rw [h p hx]
    decide

theorem State.withdraw_of_mapped {l : Nat} (h : s.logicalOf ph = some l) : s.withdraw ph = (s.retireRod ph).substitute l := by
  have hq : (List.range s.design.rods).find? (fun l => s.phys l == ph) = some l := h
  unfold State.withdraw
  rw [hq]

theorem execRodCeLimit_of_frame {l : Fin 512} (hl : s.live = true) (hr : l.val < s.design.rods) :
    exec (.rodCeLimit l) s = .next (s.retireLater (s.phys l)) := congrArg Host.Outcome.next (if_pos (by rw [hl, decide_eq_true hr]; rfl))

/-- Repair elements of a physical rod that records have used. -/
def State.sramUsed (s : State) (ph : Nat) : Nat := ((s.flt.fuseRecs ++ s.flt.kept).filter (fun r => r.1 == 3 && r.2.1 == ph)).length

theorem State.sramLeft_eq (s : State) (ph : Nat) : s.sramLeft ph = min 24 (max 4 (Config.fuse (4096 + ph)).toNat) - s.sramUsed ph := rfl

theorem State.adviseSram_advised (s : State) (ph : Nat) : Advised s (s.adviseSram ph) :=
  iteInduction (motive := Advised s) (fun _ => s.advise_advised 4) (fun _ => .refl s)

variable {ph : Fin 544} {el : Nat} (hl : s.live = true) (hd : ph.val < s.design.physRods) (hn : (ph.val, el) ∉ s.flt.repairs)
include hl hd hn

theorem execSramCeLimit_eq : exec (.sramCeLimit ph el) s = .next (if s.sramLeft ph = 0 then s.retireLater ph
    else (({ s with flt := { s.flt with repairs := s.flt.repairs ++ [(ph.val, el)] } }).fuseRecord (3, ph.val, el)).adviseSram ph) :=
  congrArg Host.Outcome.next (if_neg (by
    rw [hl, decide_eq_false (by omega), List.contains_eq_mem, decide_eq_false hn]
    decide))

theorem execSramCeLimit_of_left (hu : s.sramUsed ph < 4) (hr : s.flt.fuseRecs.length < 1024) : ∃ t, exec (.sramCeLimit ph el) s = .next t ∧
    t.flt.repairs = s.flt.repairs ++ [(ph.val, el)] ∧ t.flt.fuseRecs = s.flt.fuseRecs ++ [(3, ph.val, el)] ∧ t.flt.retired = s.flt.retired := by
  refine ⟨_, (execSramCeLimit_eq hl hd hn).trans (congrArg _ (if_neg (by rw [State.sramLeft_eq]; omega))), ?_⟩
  have hf := (({ s with flt := { s.flt with repairs := s.flt.repairs ++ [(ph.val, el)] } } : State).fuseRecord (3, ph.val, el)).adviseSram_advised ph
  rw [hf.flt, State.fuseRecord, if_pos hr]
  exact ⟨rfl, rfl, rfl⟩

theorem execSramCeLimit_of_used (hu : 24 ≤ s.sramUsed ph) : exec (.sramCeLimit ph el) s = .next (s.retireLater ph) :=
  (execSramCeLimit_eq hl hd hn).trans (congrArg _ (if_pos (by rw [State.sramLeft_eq]; omega)))

end

/-! ### Rotation -/

section
variable {s : State}

theorem State.copyRod_flt (s : State) (p a b : Nat) : (s.copyRod p a b).flt = s.flt ∧ (s.copyRod p a b).design = s.design ∧
    (s.copyRod p a b).parts = s.parts ∧ (s.copyRod p a b).regs = s.regs ∧ (s.copyRod p a b).tst = s.tst ∧ (s.copyRod p a b).free = s.free := by
  unfold State.copyRod
  exact ⟨rfl, rfl, rfl, rfl, rfl, rfl⟩

theorem State.copyRod_rod (s : State) (p a b : Nat) : ((s.copyRod p a b).rod b).s = (s.rod a).s ∧ ((s.copyRod p a b).rod b).queue = [] := by
  unfold State.copyRod
  dsimp only
  rw [State.rod_setRod]
  exact ⟨rfl, rfl⟩

/-- The turn passes to the other class; the rod goes into test. -/
def State.rotated (s : State) (reckon : Bool) (n : Nat) : State :=
  { s with tst := { s.tst with nextTally := reckon }, flt := { s.flt with untested := s.flt.untested ++ [n] } }

theorem execFieldRotation_of_idle {ph : Fin 544} {l p a b : Nat} {rest : List Nat} (hl : s.live = true) (hs : s.stalled = false)
    (ho : s.oldestRod (!s.tst.nextTally) = some ph.val) (hsp : s.spares (!s.tst.nextTally) = a :: b :: rest) (hlog : s.logicalOf ph = some l)
    (hp : s.partOf l = some p) (hi : s.idle p = true) (hr : (s.part p).st = .running) : exec (.fieldRotation ph) s =
      .next (((((s.copyRod p ph a).mapRod l a).draw.2).rotated (!s.tst.nextTally) ph).bump (cntBlk 40) (s.draw.1.toNat % 25001)) := by
  refine congrArg Host.Outcome.next ((if_neg (by rw [hl, hs, ho]; simp)).trans ?_)
  rw [hsp, hlog]
  dsimp only
  rw [hp]
  exact if_pos (by rw [hi, hr]; rfl)

theorem State.rd_bump_self (s : State) (o n : Nat) : (s.bump o n).rd o = if n = 0 then s.rd o else counterAdd (s.rd o) n := by
  by_cases h : n = 0
  · rw [if_pos h, State.bump, if_pos h]
  · rw [if_neg h, s.bump_of_ne_zero o h, State.rd_setReg]

/-- What a rotation leaves, before its hold is counted. -/
theorem State.rotated_spec (s : State) (p ph l a : Nat) (k : Bool) :
    ∃ u : State, u = (((s.copyRod p ph a).mapRod l a).draw.2).rotated k ph ∧ u.phys l = a ∧ u.flt.untested = s.flt.untested ++ [ph] ∧
      u.tst.nextTally = k ∧ (u.rod a).s = (s.rod ph).s ∧ (u.rod a).queue = [] ∧ u.free = s.free + 1 ∧ u.parts = s.parts ∧ u.regs = s.regs ∧
      u.design = s.design := by
  obtain ⟨hf, hd, hp, hr, -, hfree⟩ := s.copyRod_flt p ph a
  obtain ⟨h1, h2⟩ := s.copyRod_rod p ph a
  generalize s.copyRod p ph a = v at hf hd hp hr hfree h1 h2
  refine ⟨_, rfl, ?_, ?_, rfl, h1, h2, congrArg (· + 1) hfree, hp, hr, hd⟩
  · exact (State.phys_congr (s := v.mapRod l a) rfl rfl l).trans (v.mapRod_phys l a)
  · exact (congrArg (fun f : Faults => f.untested ++ [ph]) hf :)

theorem execFieldRotation_spec {ph : Fin 544} {l p a b : Nat} {rest : List Nat} (hl : s.live = true) (hs : s.stalled = false)
    (ho : s.oldestRod (!s.tst.nextTally) = some ph.val) (hsp : s.spares (!s.tst.nextTally) = a :: b :: rest) (hlog : s.logicalOf ph = some l)
    (hp : s.partOf l = some p) (hi : s.idle p = true) (hr : (s.part p).st = .running) : ∃ t, exec (.fieldRotation ph) s = .next t ∧ t.phys l = a ∧
      t.flt.untested = s.flt.untested ++ [ph.val] ∧ t.tst.nextTally = (!s.tst.nextTally) ∧ (t.rod a).s = (s.rod ph).s ∧
      (t.rod a).queue = [] ∧ t.free = s.free + 1 ∧ (t.part p).st = .running ∧
      ∃ ns, ns ≤ 25000 ∧ t.rd (cntBlk 40) = (if ns = 0 then s.rd (cntBlk 40) else counterAdd (s.rd (cntBlk 40)) ns) := by
  have hex := execFieldRotation_of_idle hl hs ho hsp hlog hp hi hr
  obtain ⟨u, hu, h1, h2, h3, h4, h5, h6, h7, h8, h9⟩ := s.rotated_spec p ph l a (!s.tst.nextTally)
  rw [← hu] at hex
  have hns : s.draw.1.toNat % 25001 ≤ 25000 := by omega
  generalize s.draw.1.toNat % 25001 = ns at hns hex
  obtain ⟨regs, hb⟩ := u.bump_spec (cntBlk 40) ns
  have hrd := u.rd_bump_self (cntBlk 40) ns
  rw [State.rd_of_regs h8 h9] at hrd
  refine ⟨_, hex, ?_, ?_, ?_, ?_, ?_, ?_, ?_, ns, hns, hrd⟩
  · exact (State.phys_congr (by rw [hb]) (by rw [hb]) l).trans h1
  · exact (congrArg (fun v : State => v.flt.untested) hb).trans h2
  · exact (congrArg (fun v : State => v.tst.nextTally) hb).trans h3
  · exact (congrArg (fun v : State => (v.rod a).s) hb).trans h4
  · exact (congrArg (fun v : State => (v.rod a).queue) hb).trans h5
  · exact (congrArg State.free hb).trans h6
  · exact (congrArg (fun v : State => (v.part p).st) hb).trans ((congrArg (fun x => (Sparse.get Part.init x p).st) h7).trans hr)

theorem execRotationTestEnd_pass {ph : Fin 544} (hl : s.live = true) (h : ph.val ∈ s.flt.untested) : exec (.rotationTestEnd ph true) s =
    .next (({ s with flt := { s.flt with untested := s.flt.untested.filter (· != ph.val) } }).setRod ph { Rod.init with lastTest := s.time }) :=
  congrArg Host.Outcome.next ((if_neg (by rw [hl, List.contains_eq_mem, decide_eq_true h]; decide)).trans (if_pos rfl))

theorem execRotationTestEnd_fail {ph : Fin 544} (hl : s.live = true) (h : ph.val ∈ s.flt.untested) (hr : ph.val ∉ s.flt.retired) :
    ∃ t, exec (.rotationTestEnd ph false) s = .next t ∧ t.flt.retired = s.flt.retired ++ [ph.val] ∧ ph.val ∉ t.flt.untested := by
  obtain ⟨h1, h2, -, -, -⟩ := State.retireRod_retired hr
  have ha := (s.retireRod ph).adviseRods_advised.flt
  refine ⟨(s.retireRod ph).adviseRods, congrArg Host.Outcome.next
    ((if_neg (by rw [hl, List.contains_eq_mem, decide_eq_true h]; decide)).trans (if_neg (by decide))), ?_, ?_⟩
  · rw [ha, h1]
  · rw [ha, h2]
    simp

end

/-! ### A lost peer -/

section
variable {s : State}

/-- Whether a partition waits for a peer past its time. -/
def State.waitsLate (s : State) (k p : Nat) : Bool :=
  match (s.part p).peerWait with
  | some (j, t) => j == k && decide (t.toNat + 1000000 * s.rf 0x30038 13 0 ≤ s.time.toNat)
  | none => false

theorem filter_eq_singleton_of_nodup {α : Type} {f : α → Bool} {a : α} : ∀ {l : List α}, l.Nodup → a ∈ l → f a = true → (∀ b ∈ l, b ≠ a → f b = false) →
    l.filter f = [a]
  | b :: l, hd, ha, hf, hn => by
    obtain ⟨hb, hd⟩ := List.nodup_cons.mp hd
    by_cases he : b = a
    · subst he
      rw [List.filter_cons_of_pos hf, List.filter_eq_nil_iff.mpr fun c hc => by rw [hn c (List.mem_cons_of_mem _ hc) (fun e => hb (e ▸ hc))]; decide]
    · rw [List.filter_cons_of_neg (by rw [hn b List.mem_cons_self he]; decide)]
      exact filter_eq_singleton_of_nodup hd ((List.mem_cons.mp ha).resolve_left (Ne.symm he)) hf fun c hc => hn c (List.mem_cons_of_mem _ hc)

/-- The one partition that waits for the peer past its time. -/
theorem State.waitsLate_filter {k p : Nat} {t0 : W64} (hp : p < 16) (hw : (s.part p).peerWait = some (k, t0))
    (ht : t0.toNat + 1000000 * s.rf 0x30038 13 0 ≤ s.time.toNat) (ho : ∀ q, q < 16 → q ≠ p → (s.part q).peerWait = none) :
    (List.range 16).filter (s.waitsLate k) = [p] := by
  refine filter_eq_singleton_of_nodup List.nodup_range (List.mem_range.mpr hp) ?_ fun q hq hn => ?_
  · rw [State.waitsLate, hw]
    simp [ht]
  · rw [State.waitsLate, ho q (List.mem_range.mp hq) hn]

/-- The end of a partition's wait. -/
def State.peerWaitEnd (p : Nat) (s : State) : State :=
  if (s.part p).st ≠ .held then s
  else if s.rf (0x31008 + 0x40 * p) 7 0 ≠ 0 then s.forEach (s.replayGroup p) (fun j s => s.resetPart j 6 5)
  else s.onPart p (fun x => { x with peerWait := none })

theorem execPeerWaitExpire_eq (k : Fin 8) (s : State) : exec (.peerWaitExpire k) s =
    .next (if !s.live || s.present k || ((List.range 16).filter (s.waitsLate k)).isEmpty then s
      else (s.poolLost k).forEach ((List.range 16).filter (s.waitsLate k)) State.peerWaitEnd) := rfl

theorem execPeerWaitExpire_of_late {k : Fin 8} {p : Fin 16} {t0 : W64} (hl : s.live = true) (hk : s.present k = false)
    (hw : (s.part p).peerWait = some (k.val, t0)) (ht : t0.toNat + 1000000 * s.rf 0x30038 13 0 ≤ s.time.toNat)
    (ho : ∀ q, q < 16 → q ≠ p.val → (s.part q).peerWait = none) (hh : ((s.poolLost k).part p).st = .held)
    (hg : (s.poolLost k).rf (0x31008 + 0x40 * p) 7 0 = 0) :
    exec (.peerWaitExpire k) s = .next ((s.poolLost k).onPart p (fun x => { x with peerWait := none })) := by
  have hf := State.waitsLate_filter p.isLt hw ht ho
  rw [execPeerWaitExpire_eq, hf]
  generalize s.poolLost k = v at hh hg ⊢
  have hend : v.forEach [p.val] State.peerWaitEnd = v.onPart p (fun x => { x with peerWait := none }) := by
    change State.peerWaitEnd p v = _
    rw [State.peerWaitEnd, if_neg (not_not.mpr hh), if_neg (not_not.mpr hg)]
  rw [hend, hl, hk]
  rfl

theorem execPeerWaitExpire_of_present {k : Fin 8} (hk : s.present k = true) : exec (.peerWaitExpire k) s = .next s :=
  congrArg Host.Outcome.next (if_pos (by rw [hk]; simp))

end

/-! ### Beam pairs -/

/-- A pair on the list of stopped ones; the master has no standby after the loss of it. -/
def State.stopMark (u : State) (b : Bool) : State :=
  let s2 : State := { u with flt := { u.flt with stopped := u.flt.stopped ++ [b] } }
  if b = u.flt.masterB then s2 else ({ s2 with flt := { s2.flt with standby := false } }).advise 5

section
variable {s : State}

theorem Counted.stopMark {u : State} {o : Nat} (h : Counted s u o) (ho : o ≠ 0x30080 ∧ o ≠ 0x30118 ∧ o ≠ cntBlk 10 ∧ o ≠ cntBlk 41) (b : Bool) :
    Logged s (u.stopMark b) ∧ (u.stopMark b).flt.stopped = s.flt.stopped ++ [b] ∧ (u.stopMark b).rd o = counterAdd (s.rd o) 1 ∧
      (u.stopMark b).flt.masterB = s.flt.masterB ∧ (u.stopMark b).flt.standby = (if b = s.flt.masterB then s.flt.standby else false) ∧
      (u.stopMark b).parts = s.parts := by
  obtain ⟨-, -, -, hparts, -, -⟩ := h.kept
  obtain ⟨c, hf⟩ := h.flt
  have hstop : u.flt.stopped = s.flt.stopped := (congrArg Faults.stopped hf :)
  have hm : u.flt.masterB = s.flt.masterB := (congrArg Faults.masterB hf :)
  have hsb : u.flt.standby = s.flt.standby := (congrArg Faults.standby hf :)
  unfold State.stopMark
  dsimp only
  by_cases hb : b = u.flt.masterB
  · rw [if_pos hb, if_pos (hb.trans hm)]
    exact ⟨h.logged.regs rfl rfl, congrArg (· ++ [b]) hstop, (State.rd_of_regs rfl rfl o).trans h.count, hm, hsb, hparts⟩
  · rw [if_neg hb, if_neg (fun e => hb (e.trans hm.symm))]
    have hl : Logged s ({ u with flt := { u.flt with stopped := u.flt.stopped ++ [b], standby := false } } : State) := h.logged.regs rfl rfl
    have hr : ({ u with flt := { u.flt with stopped := u.flt.stopped ++ [b], standby := false } } : State).rd o = counterAdd (s.rd o) 1 :=
      (State.rd_of_regs rfl rfl o).trans h.count
    have ha := ({ u with flt := { u.flt with stopped := u.flt.stopped ++ [b], standby := false } } : State).advise_advised 5
    refine ⟨hl.advised ha, ?_, (ha.regs o ho.1 ho.2.1 ho.2.2.1 ho.2.2.2).trans hr, ?_, ?_, ?_⟩
    · exact (congrArg Faults.stopped ha.flt).trans (congrArg (· ++ [b]) hstop)
    · exact (congrArg Faults.masterB ha.flt).trans hm
    · exact congrArg Faults.standby ha.flt
    · rw [ha.state]
      exact hparts

theorem State.stopPair_of_stopped {b : Bool} (h : b ∈ s.flt.stopped) (cause : Nat) : s.stopPair b cause = s :=
  if_pos (List.contains_iff_mem.mpr h)

theorem State.stopPair_of_other {b : Bool} (h : b ∉ s.flt.stopped) (cause : Nat) :
    s.stopPair b cause = (s.recordCount 9 cause 0 0 (0xC00 + b2n b) 0 0 (cntBlk 6)).stopMark b := by
  have hm : (s.recordCount 9 cause 0 0 (0xC00 + b2n b) 0 0 (cntBlk 6)).flt.masterB = s.flt.masterB := by
    obtain ⟨c, hf⟩ := (s.recordCount_counted 9 cause 0 0 (0xC00 + b2n b) 0 0 (o := cntBlk 6) (by decide) (by decide)).flt
    exact (congrArg Faults.masterB hf :)
  unfold State.stopMark
  rw [hm]
  exact if_neg (by rw [List.contains_eq_mem, decide_eq_false h]; decide)

theorem State.stopPair_spec {b : Bool} (h : b ∉ s.flt.stopped) (cause : Nat) : Logged s (s.stopPair b cause) ∧
    (s.stopPair b cause).flt.stopped = s.flt.stopped ++ [b] ∧ (s.stopPair b cause).rd (cntBlk 6) = counterAdd (s.rd (cntBlk 6)) 1 ∧
    (s.stopPair b cause).flt.masterB = s.flt.masterB ∧
    (s.stopPair b cause).flt.standby = (if b = s.flt.masterB then s.flt.standby else false) ∧ (s.stopPair b cause).parts = s.parts := by
  rw [State.stopPair_of_other h]
  exact (s.recordCount_counted 9 cause 0 0 (0xC00 + b2n b) 0 0 (o := cntBlk 6) (by decide) (by decide)).stopMark (by decide) b

theorem exec_stopPair (hp : s.powered = true) (b : Bool) : ∀ i ∈ [Instr.lockstepMismatch b, .heartbeatExpire b],
    ∃ cause, exec i s = .next (s.stopPair b cause) := by
  intro i hi
  simp only [List.mem_cons, List.not_mem_nil, or_false] at hi
  rcases hi with rfl | rfl
  · exact ⟨0x22, congrArg Host.Outcome.next (if_pos hp)⟩
  · exact ⟨0x23, congrArg Host.Outcome.next (if_pos hp)⟩

theorem execBeamFailover_spec (hp : s.powered = true) (hm : s.flt.masterB ∈ s.flt.stopped) (hs : s.flt.standby = true) :
    ∃ t, exec .beamFailover s = .next t ∧ t.flt.masterB = (!s.flt.masterB) ∧ t.flt.standby = false ∧ t.parts = s.parts ∧ t.slate = s.slate ∧
      (t.rd 0x30080).getLsbD 5 = true := by
  have ha := ({ s with flt := { s.flt with masterB := !s.flt.masterB, standby := false, failedOver := true } } : State).advise_advised 5
  have hb := ({ s with flt := { s.flt with masterB := !s.flt.masterB, standby := false, failedOver := true } } : State).advise_bit (cls := 5) (by decide)
  refine ⟨_, congrArg Host.Outcome.next (if_pos (by rw [hp, List.contains_iff_mem.mpr hm, hs]; rfl)), ?_, ?_, ?_, ?_, hb⟩
  · exact congrArg Faults.masterB ha.flt
  · exact congrArg Faults.standby ha.flt
  · rw [ha.state]
  · rw [ha.state]

theorem execBeamFailover_of_other (h : s.flt.masterB ∉ s.flt.stopped ∨ s.flt.standby = false) : exec .beamFailover s = .next s := by
  refine congrArg Host.Outcome.next (if_neg ?_)
  rcases h with h | h
  · simp [h]
  · simp [h]

/-! ### Both pairs lost -/

/-- A partition when the Fallback sequencer freezes it. -/
def Part.freeze (x : Part) : Part := if x.st = .running then { x with st := .held, hold := 3 } else x

/-- Every partition that runs is held. -/
def State.freezeParts (s : State) : State := s.forEach (List.range 16) (fun p s =>
  if (s.part p).st = .running then s.onPart p (fun x => { x with st := .held, hold := 3 }) else s)

theorem State.freezePart_part (u : State) (p : Nat) :
    (if (u.part p).st = .running then u.onPart p (fun x => { x with st := .held, hold := 3 }) else u).part p = (u.part p).freeze := by
  unfold Part.freeze
  split
  · rw [State.onPart, State.part_setPart]
  · rfl

theorem State.freezePart_part_ne (u : State) {p q : Nat} (h : p ≠ q) :
    (if (u.part q).st = .running then u.onPart q (fun x => { x with st := .held, hold := 3 }) else u).part p = u.part p := by
  split
  · exact u.part_setPart_ne _ h
  · rfl

theorem State.freezeParts_part (s : State) {p : Nat} (hp : p < 16) : s.freezeParts.part p = (s.part p).freeze := by
  unfold State.freezeParts
  refine State.forEach_once (I := fun _ => True) (P := fun p u => u.part p = s.part p) (Q := fun p u => u.part p = (s.part p).freeze)
    (fun _ _ h => h) (fun p u _ h => by rw [u.freezePart_part, h]) (fun p q u _ hn h => (u.freezePart_part_ne hn).trans h)
    (fun p q u _ hn h => (u.freezePart_part_ne hn).trans h) _ List.nodup_range trivial (fun _ _ => rfl) p (List.mem_range.mpr hp)

theorem State.portDark_only (u : State) (p : Nat) : PortsOnly u (u.portDark p) := ⟨rfl⟩

theorem State.portDark_port (u : State) (p : Nat) : ((u.portDark p).port p).train = .dark ∧ ((u.portDark p).port p).lasEn = false := by
  unfold State.portDark State.onPort
  rw [State.port_setPort]
  exact ⟨rfl, rfl⟩

/-- Every port dark. -/
def State.portsDark (s : State) : State := s.forEach (List.range 8) (fun p s => s.portDark p)

theorem State.portsDark_spec (s : State) : PortsOnly s s.portsDark ∧
    ∀ q, q < 8 → (s.portsDark.port q).train = .dark ∧ (s.portsDark.port q).lasEn = false := by
  unfold State.portsDark
  refine ⟨State.forEach_induct (P := PortsOnly s) (fun p u h => h.trans (u.portDark_only p)) _ (.refl s), fun q hq => ?_⟩
  refine State.forEach_all (I := fun _ => True) (Q := fun q u => (u.port q).train = .dark ∧ (u.port q).lasEn = false)
    (fun _ _ h => h) (fun p u _ => u.portDark_port p) (fun p q u _ h => ?_) _ trivial q (List.mem_range.mpr hq)
  by_cases he : p = q
  · rw [he]
    exact u.portDark_port q
  · rw [State.portDark, State.onPort, State.port_setPort_ne _ _ he]
    exact h

theorem PortsOnly.parts {s u : State} (h : PortsOnly s u) : u.parts = s.parts := by rw [h.state]

/-- The freeze with its code. -/
def State.frozenClamp (s : State) : State :=
  { s with flt := { s.flt with frozen := true }, pwr := { s.pwr with vid := 0, vidGoal := 0, raising := none } }

theorem execFallbackFreeze_of_stopped (hp : s.powered = true) (h1 : true ∈ s.flt.stopped) (h2 : false ∈ s.flt.stopped) :
    exec .fallbackFreeze s = .next (s.freezeParts.portsDark.frozenClamp.fatal 1 0) := by
  unfold State.freezeParts State.portsDark State.frozenClamp
  exact congrArg Host.Outcome.next (if_pos (by rw [hp, List.contains_iff_mem.mpr h1, List.contains_iff_mem.mpr h2]; rfl))

theorem State.fatal_frame (s : State) (cause detail : Nat) : (s.fatal cause detail).flt = s.flt ∧ (s.fatal cause detail).pwr = s.pwr ∧
    (s.fatal cause detail).parts = s.parts ∧ (s.fatal cause detail).fab = s.fab := by
  unfold State.fatal State.event
  exact ⟨rfl, rfl, rfl, rfl⟩

theorem execFallbackFreeze_spec (hp : s.powered = true) (h1 : true ∈ s.flt.stopped) (h2 : false ∈ s.flt.stopped) :
    ∃ t, exec .fallbackFreeze s = .next t ∧ t.flt.frozen = true ∧ (t.rd 0x30118).getLsbD 0 = true ∧
      (∀ p, p < 16 → (s.part p).st = .running → (t.part p).st = .held ∧ (t.part p).hold = 3) ∧ t.pwr.vid = 0 ∧
      (∀ q, q < 8 → (t.port q).train = .dark ∧ (t.port q).lasEn = false) := by
  have hex := execFallbackFreeze_of_stopped hp h1 h2
  have hparts := fun p (hp : p < 16) => s.freezeParts_part hp
  generalize s.freezeParts = u at hex hparts
  obtain ⟨hd, hport⟩ := u.portsDark_spec
  have hpd : ∀ p, u.portsDark.part p = u.part p := fun p => congrArg (Sparse.get Part.init · p) hd.parts
  generalize u.portsDark = v at hex hport hpd
  have hf := (v.frozenClamp.fatal_spec 1 0 (by decide)).1
  obtain ⟨hflt, hpwr, hpart, hfab⟩ := v.frozenClamp.fatal_frame 1 0
  generalize v.frozenClamp.fatal 1 0 = t at hex hf hflt hpwr hpart hfab
  refine ⟨t, hex, congrArg Faults.frozen hflt, hf, fun p hp hrun => ?_, congrArg Power.vid hpwr, fun q hq => ?_⟩
  · have hx : t.part p = (s.part p).freeze :=
      (congrArg (Sparse.get Part.init · p) hpart).trans ((hpd p).trans (hparts p hp))
    rw [hx, Part.freeze, if_pos hrun]
    exact ⟨rfl, rfl⟩
  · have hx : t.port q = v.port q := congrArg (fun x : Fabric => Sparse.get Port.init x.ports q) hfab
    rw [hx]
    exact hport q hq

end

/-- Settles O46: retirement and substitution keep the spares of a rod in service; rotation, the lost peer and the pairs clause by clause. -/
theorem sparesRotationAndBeamPairs : Obligations.SparesRotationAndBeamPairs := by
  refine ⟨fun s l p n rest e hl hr hp he hc hresp hrep hn hsp => ?_, fun s l h => execSpareSubstitution_of_other h,
    fun s l hl hr hn hpend => ⟨fun p hp ho => ?_, fun ho hlog n rest hsp => ?_⟩,
    fun s ph el hl hd hn => ⟨execSramCeLimit_of_left hl hd hn, execSramCeLimit_of_used hl hd hn⟩,
    fun s ph l p a b rest hl hs ho hsp hlog hp hi hr => execFieldRotation_spec hl hs ho hsp hlog hp hi hr,
    fun s ph hl h => ⟨execRotationTestEnd_pass hl h, execRotationTestEnd_fail hl h⟩,
    fun s k p t0 hl hk hw ht ho hh hg => execPeerWaitExpire_of_late hl hk hw ht ho hh hg, fun s k hk => execPeerWaitExpire_of_present hk,
    fun s b hp i hi => ?_,
    fun s hp => ⟨execBeamFailover_spec hp, execBeamFailover_of_other, execFallbackFreeze_spec hp, fun h => ?_⟩⟩
  · obtain ⟨h1, h2, h3⟩ := State.retire_substitute hr hn hsp
    exact ⟨_, h2, h1, h3 p hp, execSpareSubstitution_of_machine hl hp he hc hresp hrep hn⟩
  · rw [execRodCeLimit_of_frame hl hr, State.retireLater_of_open hn hpend hp ho]
  · obtain ⟨h1, h2, -⟩ := State.retire_substitute hr hn hsp
    refine ⟨_, ?_, h2, h1⟩
    rw [execRodCeLimit_of_frame hl hr, State.retireLater_of_closed hn hpend ho, State.withdraw_of_mapped hlog]
  · obtain ⟨cause, hex⟩ := exec_stopPair hp b i hi
    refine ⟨fun h => hex.trans (congrArg _ (State.stopPair_of_stopped h cause)), fun h => ⟨_, hex, State.stopPair_spec h cause⟩⟩
  · refine congrArg Host.Outcome.next (if_neg ?_)
    rw [h]
    simp

end Sys2Proof.Machine
end

section
/-! PROOF. RELEASE_WITH_REPLAY (17_faults_and_recovery.md R377, R379 to R381). -/

namespace Sys2Proof.Machine

/-! ### What a replay keeps -/

/-- From `s` to `u` the partition's step and tries stand, with the configuration, the spare map and the partition's frames. -/
structure ReplayKept (p : Nat) (s u : State) : Prop where
  design : u.design = s.design
  spares : u.flt.spareMap = s.flt.spareMap
  frames : u.rd (pReg p 8) = s.rd (pReg p 8)
  opened : (u.part p).opened = (s.part p).opened
  tries : (u.part p).tries = (s.part p).tries

section
variable {p : Nat}

theorem ReplayKept.refl (s : State) : ReplayKept p s s := ⟨rfl, rfl, rfl, rfl, rfl⟩

theorem ReplayKept.trans {s t u : State} (h : ReplayKept p s t) (k : ReplayKept p t u) : ReplayKept p s u :=
  ⟨k.design.trans h.design, k.spares.trans h.spares, k.frames.trans h.frames, k.opened.trans h.opened, k.tries.trans h.tries⟩

theorem ReplayKept.forEach {α : Type} {f : α → State → State} (hf : ∀ a u, ReplayKept p u (f a u)) (l : List α) (s : State) :
    ReplayKept p s (s.forEach l f) :=
  State.forEach_induct (P := ReplayKept p s) (fun a u hu => hu.trans (hf a u)) l (.refl s)

theorem ReplayKept.of_eq {s u : State} (hd : u.design = s.design) (hm : u.flt.spareMap = s.flt.spareMap) (hr : u.regs = s.regs)
    (hp : u.parts = s.parts) : ReplayKept p s u :=
  have hpart : u.part p = s.part p := congrArg (Sparse.get Part.init · p) hp
  ⟨hd, hm, State.rd_of_regs hr hd _, congrArg Part.opened hpart, congrArg Part.tries hpart⟩

theorem ReplayKept.setReg (s : State) {o : Nat} (v : W64) (h : pReg p 8 ≠ o) : ReplayKept p s (s.setReg o v) :=
  ⟨rfl, rfl, s.rd_setReg_ne v h, rfl, rfl⟩

theorem ReplayKept.onPart (s : State) {f : Part → Part} (hf : ∀ x, (f x).opened = x.opened ∧ (f x).tries = x.tries) :
    ReplayKept p s (s.onPart p f) := by
  refine ⟨rfl, rfl, rfl, ?_, ?_⟩
  · rw [State.onPart, State.part_setPart, (hf _).1]
  · rw [State.onPart, State.part_setPart, (hf _).2]

theorem ReplayKept.rodsOf {s u : State} (h : ReplayKept p s u) : u.rodsOf p = s.rodsOf p := by
  simp only [State.rodsOf, h.design, h.frames]

theorem ReplayKept.phys {s u : State} (h : ReplayKept p s u) (l : Nat) : u.phys l = s.phys l := State.phys_congr h.design h.spares l

end

section
variable (s : State) (p : Nat)

theorem State.hbmWrite_replayKept (a : Nat) (bs : List Byte) : ReplayKept p s (s.hbmWrite a bs) := by
  unfold State.hbmWrite
  dsimp only
  split
  · exact .of_eq rfl rfl rfl rfl
  · exact .of_eq rfl rfl rfl rfl

theorem State.jrnlWrite_replayKept (r : JRecord) : ReplayKept p s (s.jrnlWrite p r) := by
  unfold State.jrnlWrite
  exact ((s.hbmWrite_replayKept p _ _).trans (State.hbmWrite_replayKept _ p _ _)).trans (.onPart _ fun _ => ⟨rfl, rfl⟩)

theorem State.jrnlFind_replayKept : ReplayKept p s (s.jrnlFind p).2 := by
  unfold State.jrnlFind
  dsimp only
  split
  · split
    · exact .refl s
    · exact s.jrnlWrite_replayKept p _
  · exact s.jrnlWrite_replayKept p _
  · exact s.jrnlWrite_replayKept p _
  · exact .refl s

theorem State.loadRod_replayKept (ph : Nat) (prog : List W64) : ReplayKept p s (s.loadRod ph prog) := by
  unfold State.loadRod
  exact .of_eq rfl rfl rfl rfl

theorem State.reloadImages_replayKept : ReplayKept p s (s.reloadImages p) := by
  unfold State.reloadImages
  split
  · exact .refl s
  · exact ReplayKept.forEach (fun l u => iteInduction (motive := ReplayKept p u) (fun _ => u.loadRod_replayKept p _ _) (fun _ => .refl u)) _ s

theorem State.refRange_replayKept (q a n : Nat) (up : Bool) : ReplayKept p s (s.refRange q a n up) := by
  unfold State.refRange
  refine ReplayKept.forEach (fun _ _ => ?_) _ s
  exact .of_eq rfl rfl rfl rfl

theorem State.dropStreams_replayKept : ReplayKept p s (s.dropStreams p) := by
  unfold State.dropStreams
  exact (ReplayKept.forEach (fun _ u => u.refRange_replayKept p _ _ _ _) _ s).trans (.onPart _ fun _ => ⟨rfl, rfl⟩)

end


section
variable (s : State) (k : Nat) (ws : List W64)

theorem State.journal_jrnlRead (c : Option JCopy) : (s.journal k ws).jrnlRead c = s.jrnlRead c := by
  cases c with
  | none => rfl
  | some c =>
    have hbad : (s.journal k ws).hbmRangeBad c.at_ c.record.size = s.hbmRangeBad c.at_ c.record.size := rfl
    have hread : (s.journal k ws).hbmRead c.at_ c.record.size = s.hbmRead c.at_ c.record.size := rfl
    unfold State.jrnlRead
    dsimp only
    rw [hbad, hread]
    rfl

theorem State.jrnlFind_fst (p : Nat) : (s.jrnlFind p).1 = (s.jrnlRead (s.part p).jrnlA).or (s.jrnlRead (s.part p).jrnlB) := by
  unfold State.jrnlFind
  dsimp only
  cases s.jrnlRead (s.part p).jrnlA with
  | none => cases s.jrnlRead (s.part p).jrnlB <;> rfl
  | some a =>
    cases s.jrnlRead (s.part p).jrnlB with
    | none => rfl
    | some b =>
      dsimp only
      split <;> rfl

theorem State.journal_jrnlOf (p step : Nat) : ((s.journal k ws).jrnlOf p step).1 = (s.jrnlOf p step).1 := by
  unfold State.jrnlOf
  dsimp only
  rw [State.jrnlFind_fst, State.jrnlFind_fst, State.journal_jrnlRead, State.journal_jrnlRead]
  rfl

theorem State.journal_rangeRead (p a n : Nat) : (s.journal k ws).rangeRead p a n = s.rangeRead p a n := rfl

/-- The definition is unfolded as a function: with its operands in place the kernel would count the descriptor's bytes. -/
theorem State.journal_descCheck (p : Nat) (d : Desc) : (s.journal k ws).descCheck p d = s.descCheck p d := by
  have hat : (s.journal k ws).descAt p d.step = s.descAt p d.step := by
    unfold State.descAt
    rw [State.rd_of_regs (s := s) (u := s.journal k ws) rfl rfl]
  have hhash : (s.journal k ws).jrnlHash = s.jrnlHash := rfl
  have hdef := Eq.refl @State.descCheck
  conv at hdef =>
    rhs
    delta State.descCheck
  rw [hdef]
  beta_reduce
  rw [State.journal_jrnlOf, State.journal_rangeRead, hat, hhash]

end

/-! ### The rods rearmed -/

/-- A rod that starts the step again. -/
def Rod.Rearmed (r : Rod) : Prop :=
  r.pc = 0 ∧ r.issue = .run ∧ r.raised = [] ∧ r.reported = false ∧ r.mq = [] ∧ r.vq = [] ∧ r.cq = []

/-- A rod's queues emptied, its counters cleared, its program address 0. -/
def Rod.rearm (r : Rod) : Rod :=
  { r with queue := [], c := [], pc := 0, issue := .run, raised := [], reported := false, mq := [], vq := [], cq := [] }

theorem Rod.rearm_rearmed (r : Rod) : r.rearm.Rearmed := ⟨rfl, rfl, rfl, rfl, rfl, rfl, rfl⟩

/-- Every rod of the partition rearmed. -/
def State.rearmRods (s : State) (p : Nat) : State := s.forEach (s.rodsOf p) (fun l u => u.onRod (u.phys l) Rod.rearm)

/-- The partition that runs again. -/
def Part.rearm (x : Part) : Part :=
  { x with
    st := .running, hold := 0, haltHeld := false, faultCause := 0, faultResp := 0, refusal := 0, peerWait := none
    atBarrier := [], atEnd := [], record := none }

/-- The partition's counters cleared, and the partition running again. -/
def State.rearmPart (s : State) (p : Nat) : State := ((s.setReg (pReg p 0x100) 0).setReg (pReg p 0x108) 0).onPart p Part.rearm

section
variable (s : State) (p : Nat)

theorem State.rearm_eq (h : ((s.reloadImages p).dropStreams p).rodsOf p = s.rodsOf p) :
    s.rearm p = (((s.reloadImages p).dropStreams p).rearmRods p).rearmPart p := by
  rw [State.rearmRods, h]
  rfl

theorem State.rearmRods_spec : ReplayKept p s (s.rearmRods p) ∧ (s.rearmRods p).parts = s.parts ∧
    ∀ l ∈ s.rodsOf p, ((s.rearmRods p).rod (s.phys l)).Rearmed := by
  obtain ⟨⟨rods, hf⟩, hrod⟩ := State.forEach_onRod (g := Rod.rearm) (fun _ => rfl) (s.rodsOf p) s
  have hf : s.rearmRods p = { s with rods := rods } := hf
  refine ⟨?_, by rw [hf], fun l hl => ?_⟩
  · rw [hf]
    exact .of_eq rfl rfl rfl rfl
  · have hr := (hrod (s.phys l)).trans (if_pos (List.mem_map_of_mem hl))
    rw [State.rearmRods, hr]
    exact Rod.rearm_rearmed _

theorem State.rearmPart_spec : ReplayKept p s (s.rearmPart p) ∧ (s.rearmPart p).rods = s.rods ∧ (s.rearmPart p).part p = (s.part p).rearm := by
  have hr := (ReplayKept.setReg (p := p) s (o := pReg p 0x100) 0 (by unfold pReg; omega)).trans
    (.setReg _ (o := pReg p 0x108) 0 (by unfold pReg; omega))
  have hrods : ((s.setReg (pReg p 0x100) 0).setReg (pReg p 0x108) 0).rods = s.rods := by rw [State.setReg_rods, State.setReg_rods]
  have hparts : ((s.setReg (pReg p 0x100) 0).setReg (pReg p 0x108) 0).parts = s.parts := by rw [State.setReg_parts, State.setReg_parts]
  unfold State.rearmPart
  generalize (s.setReg (pReg p 0x100) 0).setReg (pReg p 0x108) 0 = u at hr hrods hparts ⊢
  refine ⟨hr.trans (.onPart _ fun _ => ⟨rfl, rfl⟩), hrods, (u.part_setPart p _).trans ?_⟩
  exact congrArg (fun x => (Sparse.get Part.init x p).rearm) hparts

theorem State.rearm_spec : ReplayKept p s (s.rearm p) ∧ ((s.rearm p).part p).st = .running ∧ ((s.rearm p).part p).hold = 0 ∧
    ((s.rearm p).part p).faultCause = 0 ∧ ∀ l ∈ s.rodsOf p, ((s.rearm p).rod (s.phys l)).Rearmed := by
  have hv := (s.reloadImages_replayKept p).trans (State.dropStreams_replayKept _ p)
  rw [s.rearm_eq p hv.rodsOf]
  generalize (s.reloadImages p).dropStreams p = v at hv ⊢
  obtain ⟨hk1, -, hrods⟩ := v.rearmRods_spec p
  obtain ⟨hk2, hr, hpart⟩ := (v.rearmRods p).rearmPart_spec p
  refine ⟨(hv.trans hk1).trans hk2, congrArg Part.st hpart, congrArg Part.hold hpart, congrArg Part.faultCause hpart, fun l hl => ?_⟩
  have hx : ((v.rearmRods p).rearmPart p).rod (s.phys l) = (v.rearmRods p).rod (s.phys l) := congrArg (Sparse.get Rod.init · (s.phys l)) hr
  rw [hx, ← hv.phys]
  exact hrods l (hv.rodsOf ▸ hl)

end

/-! ### The launch of the replayed step -/

theorem Rod.Rearmed.armRod {u : State} {k : Nat} (h : (u.rod k).Rearmed) (ph : Nat) (rec_ : List Byte) (q : List TileEntry) :
    ((u.armRod ph rec_ q).rod k).Rearmed := by
  by_cases hk : k = ph
  · subst hk
    rw [State.armRod_rod]
    exact h
  · rw [State.armRod_rod_ne _ _ _ _ hk]
    exact h

theorem Rod.Rearmed.launch {u : State} {k : Nat} (h : (u.rod k).Rearmed) (p : Nat) (d : Desc) : ((u.launch p d).rod k).Rearmed := by
  have harm : ((u.armRods p d).rod k).Rearmed := by
    rw [State.armRods]
    exact State.forEach_induct (P := fun v => (v.rod k).Rearmed) (fun _ _ hv => hv.armRod _ _ _) _ h
  have hx : (u.launch p d).rod k = (u.armRods p d).rod k := congrArg (Sparse.get Rod.init · k) (u.launch_spec p d).1
  rw [hx]
  exact harm

/-- A replay whose descriptor passes its check with tries left. -/
theorem State.replay_of_passing {s : State} {p : Nat} {d : Desc} (ho : (s.part p).opened = some d) (hc : s.descCheck p d = true)
    (ht : (s.part p).tries < s.rf 0x30030 3 0) : ((s.replay p).part p).st = .running ∧ ((s.replay p).part p).opened = some d ∧
      ((s.replay p).part p).tries = (s.part p).tries + 1 ∧ ((s.replay p).part p).hold = 0 ∧ ((s.replay p).part p).faultCause = 0 ∧
      ∀ l ∈ s.rodsOf p, ((s.replay p).rod (s.phys l)).Rearmed := by
  have hrep : s.replay p = (((s.jrnlFind p).2.rearm p).onPart p (fun y => { y with tries := y.tries + 1 })).launch p d := by
    unfold State.replay
    dsimp only
    rw [ho]
    dsimp only
    exact if_neg (by rw [hc]; simp only [Bool.not_true, Bool.false_or, decide_eq_true_eq]; omega)
  have hj := s.jrnlFind_replayKept p
  rw [hrep]
  generalize (s.jrnlFind p).2 = v at hj ⊢
  obtain ⟨hk, hst, hhold, hfc, hrods⟩ := v.rearm_spec p
  generalize v.rearm p = w at hk hst hhold hfc hrods ⊢
  obtain ⟨-, -, t, groups, hpart⟩ := (w.onPart p (fun y => { y with tries := y.tries + 1 })).launch_spec p d
  rw [hpart, State.onPart, State.part_setPart]
  refine ⟨hst, rfl, congrArg (· + 1) (hk.tries.trans hj.tries), hhold, hfc, fun l hl => ?_⟩
  refine Rod.Rearmed.launch ?_ p d
  rw [← hj.phys]
  exact hrods l (hj.rodsOf ▸ hl)

/-! ### The command -/

section
variable {s : State} {p : Fin 16} (hl : s.live = true) (hs : s.stalled = false)
include hl hs

theorem execReleaseWithReplay_of_refused (h : (s.part p).st ≠ .held ∨ (s.part p).hold = 5 ∨ s.programFault p = true ∨ (s.part p).opened = none) :
    exec (.releaseWithReplay p) s = .next (s.refused p 5) := by
  refine congrArg Host.Outcome.next ((if_neg (by rw [hl, hs]; decide)).trans ?_)
  by_cases hc : ((s.part p).st ≠ .held || decide ((s.part p).hold = 5) || s.programFault p) = true
  · exact if_pos hc
  · refine (if_neg hc).trans ?_
    have ho : (s.part p).opened = none := by
      simp only [Bool.or_eq_true, decide_eq_true_eq, not_or, ne_eq] at hc
      tauto
    rw [ho]
    rfl

variable {d : Desc} (hh : (s.part p).st = .held) (h5 : (s.part p).hold ≠ 5) (hf : s.programFault p = false) (ho : (s.part p).opened = some d)
include hh h5 hf ho

/-- Whether a member of the group has the same step open. -/
def State.sameStep (s : State) (d : Desc) (k : Nat) : Bool := match (s.part k).opened with | some e => e.step == d.step | none => false

omit hl hs hh h5 hf ho in
theorem State.sameStep_iff (k : Nat) : s.sameStep d k = true ↔ ∃ e, (s.part k).opened = some e ∧ e.step = d.step := by
  unfold State.sameStep
  cases (s.part k).opened with
  | none => simp
  | some e => simp

/-- Whether the peer that the partition waits for is back. -/
def State.peerBack (s : State) (p : Nat) : Bool := match (s.part p).peerWait with | some (k, _) => s.present k | none => true

omit hl hs hh h5 hf ho in
theorem State.peerBack_eq_false_iff (p : Nat) : s.peerBack p = false ↔ ∃ k t, (s.part p).peerWait = some (k, t) ∧ s.present k = false := by
  unfold State.peerBack
  cases (s.part p).peerWait with
  | none => simp
  | some x => simp [Prod.ext_iff]

theorem execReleaseWithReplay_eq : exec (.releaseWithReplay p) s =
    .next (if !(s.replayGroup p).all (s.sameStep d) then
        s.forEach (s.replayGroup p) (fun k s => s.resetPart k 0x0A ((s.part k).faultResp % 16))
      else if !(s.peerBack p && (s.part p).refetch.isNone && (s.replayGroup p).all s.drained) then s
      else (s.journal 1 [4, w64 p]).forEach (s.replayGroup p) (fun k s => s.replay k)) := by
  unfold State.sameStep State.peerBack
  refine congrArg Host.Outcome.next ((if_neg (by rw [hl, hs]; decide)).trans ((if_neg ?_).trans ?_))
  · simp [hh, h5, hf]
  · rw [ho] <;> rfl

end

/-- Settles O27: the refusals and the waits are branches of the command; the replay from what the rearming and the launch each leave. -/
theorem partitionReplay : Obligations.PartitionReplay := by
  refine fun s p hl hs => ⟨execReleaseWithReplay_of_refused hl hs, fun d hh h5 hf ho => ?_⟩
  have hex := execReleaseWithReplay_eq hl hs hh h5 hf ho
  have hsame : (s.replayGroup p).all (s.sameStep d) = true ↔ ∀ k ∈ s.replayGroup p, ∃ e, (s.part k).opened = some e ∧ e.step = d.step := by
    simp only [List.all_eq_true, State.sameStep_iff]
  have hwait : (s.peerBack p && (s.part p).refetch.isNone && (s.replayGroup p).all s.drained) = false ↔
      (∃ k t, (s.part p).peerWait = some (k, t) ∧ s.present k = false) ∨ (s.part p).refetch ≠ none ∨ ∃ k ∈ s.replayGroup p, s.drained k = false := by
    rw [Bool.and_eq_false_iff, Bool.and_eq_false_iff, State.peerBack_eq_false_iff, or_assoc]
    simp [Option.isSome_iff_ne_none]
  refine ⟨fun ⟨k, hk, hn⟩ => hex.trans (congrArg _ (if_pos ?_)), fun hall hw => ?_, fun hg hw hc ht => ?_⟩
  · rw [Bool.not_eq_true', ← Bool.not_eq_true, hsame]
    exact fun h => hn (h k hk)
  · rw [hex, hsame.mpr hall, hwait.mpr hw]
    rfl
  · have hall : (s.replayGroup p).all (s.sameStep d) = true := hsame.mpr (by
      rw [hg]
      intro k hk
      rw [List.mem_singleton.mp hk]
      exact ⟨d, ho, rfl⟩)
    have hready := Bool.eq_true_of_not_eq_false (mt hwait.mp hw)
    rw [hall, hready, hg] at hex
    have hrf : (s.journal 1 [4, w64 p]).rf 0x30030 3 0 = s.rf 0x30030 3 0 := congrArg (bits · 3 0) (State.rd_of_regs rfl rfl _)
    obtain ⟨h1, h2, h3, h4, h5, h6⟩ := State.replay_of_passing (s := s.journal 1 [4, w64 p]) (p := p) ho
      ((s.journal_descCheck 1 _ p d).trans hc) (by rw [hrf]; exact ht)
    exact ⟨_, hex, h1, h2, h3, h4, h5, h6⟩

end Sys2Proof.Machine
end

section
/-! PROOF. Inbound posted messages of the host attach port (15_host_attach.md R326, R328, R330, R331; 20_bringup_and_test.md R447). -/

namespace Sys2Proof.Machine

/-! ### Arrival -/

section
variable {s : State} {ch : Fin 4} {m : Msg}

/-- The beats that a channel's credits let a message of its type have. -/
def State.beatCredit (s : State) (ch : Nat) (m : Msg) : Nat :=
  if m.type = 0xC || m.type = 0xD then m.beats else if m.type = 8 then (s.chan ch).inNon else (s.chan ch).inPosted

theorem State.bump_zero (s : State) (o : Nat) : s.bump o 0 = s := if_pos rfl

theorem State.arrived_of_whole (f : State → State) (hup : s.hapUp = true) (hen : bit (s.rd 0x700000) ch = true)
    (hw : 1 + m.data.length / 64 = m.beats) (hc : m.beats ≤ s.beatCredit ch m) : s.arrived ch m f = .next (f s) := by
  unfold State.beatCredit at hc
  unfold State.arrived
  dsimp only
  rw [hw, hen, hup, if_neg (show ¬(!true) = true by decide), if_neg (show ¬(!true) = true by decide), if_neg (not_lt.mpr hc),
    if_neg (lt_irrefl _), Nat.sub_self, State.beatErr, State.bump_zero]

variable {ty : Nat}

theorem Arrives.arrived (h : Arrives s ch m ty) (ht : ty = 1 ∨ ty = 2 ∨ ty = 8 ∨ ty = 0xC ∨ ty = 0xD) (f : State → State) :
    s.arrived ch m f = .next (f s) := by
  obtain ⟨hup, hen, -, hw, -, hty, hpost, hnon⟩ := h
  refine State.arrived_of_whole f hup hen hw ?_
  unfold State.beatCredit
  rw [hty]
  rcases ht with rfl | rfl | rfl | rfl | rfl
  · exact hpost (.inl rfl)
  · exact hpost (.inr rfl)
  · exact hnon rfl
  · exact le_refl _
  · exact le_refl _

theorem Arrives.type (h : Arrives s ch m ty) : m.type = ty := by
  obtain ⟨-, -, -, -, -, hty, -, -⟩ := h
  exact hty

theorem execWriteInbound_of_arrives (h : Arrives s ch m 1) :
    exec (.writeInbound ch m) s = .next (s.checked ch m (fun u => u.performWrite m)) := by
  change execWriteInbound ch m s = _
  rw [execWriteInbound, h.arrived (.inl rfl)]
  refine congrArg Host.Outcome.next ?_
  obtain ⟨-, -, hl, -, hf, hty, -, -⟩ := h
  rw [hl, hf, hty]
  rfl

/-- What a tally message does where its checks pass. -/
def State.performTally (m : Msg) (s : State) : State :=
  match tallyReg m.off with | some r => s.tallyAdd r ((m.word 2).setWidth 32) none | none => s

theorem execTallyInbound_of_arrives (h : Arrives s ch m 2) :
    exec (.tallyInbound ch m) s = .next (s.checked ch m (State.performTally m)) := by
  change execTallyInbound ch m s = _
  rw [execTallyInbound, h.arrived (.inr (.inl rfl))]
  refine congrArg Host.Outcome.next ?_
  obtain ⟨-, -, hl, -, hf, hty, -, -⟩ := h
  rw [hl, hf, hty]
  rfl

end

/-! ### The checks of Table 15.3 -/

/-- The message lies below the end of the tenant's input area. -/
abbrev State.belowInput (s : State) (m : Msg) : Prop := m.off < s.inCount m.tenant * s.inSlot m.tenant

/-- Every check of Table 15.3. -/
structure HostPasses (s : State) (m : Msg) : Prop where
  attached : s.attached m.tenant = true
  reach : m.space = 0 → s.inReach m.tenant m.off = true
  area : m.space = 1 → s.belowInput m
  tally : m.type = 2 → bit (s.rd (hReg m.tenant 0)) 0 = true ∧ m.space = 0 ∧ (tallyReg m.off).isSome = true
  buffer : m.type = 1 → m.space = 1 → s.bufState m.tenant (m.off / s.inSlot m.tenant) < 2
  span : m.off % 4096 + m.len ≤ 4096

section
variable {s : State} {m : Msg}

theorem HostPasses.hostCheck (h : HostPasses s m) : s.hostCheck m = 0 := by
  unfold State.hostCheck
  dsimp only
  rw [if_neg (by simp [h.attached]), if_neg (by simpa using h.reach), if_neg (by simpa using h.area), if_neg, if_neg (by simpa using h.buffer),
    if_neg (not_lt.mpr h.span)]
  intro hc
  simp only [Bool.and_eq_true, Bool.or_eq_true, decide_eq_true_eq] at hc
  obtain ⟨h1, h2, h3⟩ := h.tally hc.1
  simp [h1, h2, Option.isNone_eq_false_iff.mpr h3] at hc

theorem State.hostCheck_ne_zero (h : ¬HostPasses s m) : s.hostCheck m ≠ 0 := by
  unfold State.hostCheck
  dsimp only
  split_ifs with h1 h2 h3 h4 h5 h6 <;> try decide
  refine fun _ => h ⟨by simpa using h1, by simpa using h2, by simpa using h3, fun ht => ?_, by simpa using h5, not_lt.mp h6⟩
  simpa [ht, and_assoc, Option.isSome_iff_ne_none] using h4

theorem State.lateWrite_iff : s.lateWrite m = true ↔ s.attached m.tenant = true ∧ m.type = 1 ∧ m.space = 1 ∧ s.belowInput m ∧
    2 ≤ s.bufState m.tenant (m.off / s.inSlot m.tenant) := by
  simp [State.lateWrite, and_assoc]

variable {ch : Fin 4} {f : State → State}

theorem State.checked_of_passes (h : HostPasses s m) (hh : s.home m.tenant = ch) : s.checked ch m f = f s := by
  have hl : ¬s.lateWrite m = true := fun hl => by
    obtain ⟨-, h1, h2, -, h3⟩ := State.lateWrite_iff.mp hl
    exact absurd (h.buffer h1 h2) (not_lt.mpr h3)
  rw [State.checked, if_neg hl, if_neg (not_not.mpr h.hostCheck), State.posted, if_pos hh]

theorem State.checked_of_fails (h : ¬HostPasses s m) (hl : ¬s.lateWrite m = true) : s.checked ch m f = s.rejectPosted m := by
  rw [State.checked, if_neg hl, if_pos (State.hostCheck_ne_zero h)]

theorem State.checked_of_late (hl : s.lateWrite m = true) : s.checked ch m f = (s.rejectPosted m).bump (cntTen m.tenant 4) 1 := if_pos hl

end

/-! ### Rejection -/

section
variable (s : State) (m : Msg)

/-- The words of a header in the log. -/
def State.headerWords (s : State) (m : Msg) : State := s.forEach (List.range 8) (fun k s => s.setReg (0x700040 + 8 * k) (m.word k))

theorem State.headerWords_spec : (s.headerWords m = { s with regs := (s.headerWords m).regs }) ∧
    (∀ o, (∀ k, k < 8 → o ≠ 0x700040 + 8 * k) → (s.headerWords m).rd o = s.rd o) ∧
    ∀ k, k < 8 → (s.headerWords m).rd (0x700040 + 8 * k) = m.word k := by
  unfold State.headerWords
  refine ⟨?_, fun o ho => ?_, fun k hk => ?_⟩
  · refine State.forEach_induct (P := fun u => u = { s with regs := u.regs }) (fun k u hu => ?_) _ rfl
    have h := u.setReg_eq (0x700040 + 8 * k) (m.word k)
    rw [hu] at h ⊢
    exact h
  · refine State.forEach_mem (P := fun u => u.rd o = s.rd o) (fun k hk u hu => ?_) rfl
    rw [State.rd_setReg_ne _ _ (ho k (List.mem_range.mp hk)), hu]
  · refine State.forEach_all (I := fun _ => True) (Q := fun k u => u.rd (0x700040 + 8 * k) = m.word k) (fun _ _ h => h)
      (fun k u _ => u.rd_setReg _ _) (fun k j u _ h => ?_) _ trivial k (List.mem_range.mpr hk)
    by_cases hj : k = j
    · rw [hj, State.rd_setReg]
    · rw [State.rd_setReg_ne _ _ (by omega), h]

/-- The first rejected header is kept; the log changes no other register. -/
theorem State.logHeader_spec : (s.logHeader m = { s with regs := (s.logHeader m).regs }) ∧
    (∀ o, 0x700080 ≤ o → (s.logHeader m).rd o = s.rd o) ∧
    (bit (s.rd 0x700018) 0 = false → bit ((s.logHeader m).rd 0x700018) 0 = true ∧
      ∀ k, k < 8 → (s.logHeader m).rd (0x700040 + 8 * k) = m.word k) ∧
    (bit (s.rd 0x700018) 0 = true → s.logHeader m = s) := by
  unfold State.logHeader
  cases hb : bit (s.rd 0x700018) 0 with
  | true => exact ⟨rfl, fun _ _ => rfl, fun h => absurd h (by decide), fun _ => rfl⟩
  | false =>
    obtain ⟨h1, h2, h3⟩ := s.headerWords_spec m
    have hx : (if (false : Bool) = true then s else (s.forEach (List.range 8) (fun k s => s.setReg (0x700040 + 8 * k) (m.word k))).setReg 0x700018 1) =
        (s.headerWords m).setReg 0x700018 1 := if_neg (by decide)
    rw [hx]
    generalize s.headerWords m = u at h1 h2 h3
    refine ⟨?_, fun o ho => ?_, fun _ => ⟨?_, fun k hk => ?_⟩, fun h => absurd h (by decide)⟩
    · have h := u.setReg_eq 0x700018 1
      rw [h1] at h ⊢
      exact h
    · rw [State.rd_setReg_ne _ _ (by omega), h2 o (fun k hk => by omega)]
    · rw [State.rd_setReg]
      decide
    · rw [State.rd_setReg_ne _ _ (by omega), h3 k hk]

theorem State.rejectPosted_rejected : Rejected s (s.rejectPosted m) m := by
  obtain ⟨h1, h2, h3, h4⟩ := s.logHeader_spec m
  unfold State.rejectPosted State.inErr
  have hlt : 0x802000 ≤ cntTen m.tenant 0 := by unfold cntTen; omega
  rw [State.bump_one, h2 _ (by omega)]
  refine ⟨?_, State.rd_setReg _ _ _, fun hb => ?_, fun hb k hk => ?_⟩
  · have h := (s.logHeader m).setReg_eq (cntTen m.tenant 0) (counterAdd (s.rd (cntTen m.tenant 0)) 1)
    rw [h1] at h ⊢
    exact h
  · obtain ⟨hv, hw⟩ := h3 hb
    refine ⟨?_, fun k hk => ?_⟩
    · rw [State.rd_setReg_ne _ _ (by omega)]
      exact hv
    · rw [State.rd_setReg_ne _ _ (by omega)]
      exact hw k hk
  · rw [State.rd_setReg_ne _ _ (by omega), h4 hb]

variable {s m}

/-- A further counter of the tenant leaves a rejection one. -/
theorem Rejected.bump {t : State} (h : Rejected s t m) {k : Nat} (hk : 0 < k) (n : Nat) : Rejected s (t.bump (cntTen m.tenant k) n) m := by
  obtain ⟨h1, h2, h3, h4⟩ := h
  have hlt : 0x802000 ≤ cntTen m.tenant k := by unfold cntTen; omega
  have hne : cntTen m.tenant 0 ≠ cntTen m.tenant k := by unfold cntTen; omega
  obtain ⟨regs, hb⟩ := t.bump_spec (cntTen m.tenant k) n
  refine ⟨?_, (t.rd_bump_ne n hne).trans h2, fun hb => ⟨?_, fun j hj => ?_⟩, fun hb j hj => ?_⟩
  · rw [hb, h1]
  · rw [t.rd_bump_ne n (by omega)]
    exact (h3 hb).1
  · rw [t.rd_bump_ne n (by omega)]
    exact (h3 hb).2 j hj
  · rw [t.rd_bump_ne n (by omega)]
    exact h4 hb j hj

end

/-! ### A write of the input area, of registers, and in loopback -/

section
variable {s : State} {m : Msg}

theorem State.attached_iff (s : State) (t : Nat) : s.attached t = true ↔ (s.ten t).st = .attached := decide_eq_true_iff

theorem State.inReach_of_reaches {t off : Nat} (h : s.reaches t off = true) : s.inReach t off = true := by
  rw [State.inReach, h, Bool.or_true]

theorem State.inReach_of_not_reaches {t off : Nat} (h : s.reaches t off = false) (ho : off < 0xC00000) : s.inReach t off = false := by
  rw [State.inReach, h, decide_eq_false (by omega), Bool.or_false]

theorem HostPasses.of_area (ht : m.type = 1) (ha : Admitted s m) (hi : InArea s m) (hb : s.bufState m.tenant (m.off / s.inSlot m.tenant) < 2) :
    HostPasses s m where
  attached := (s.attached_iff _).mpr ha.1
  reach := fun h => absurd (h.symm.trans hi.1) (by decide)
  area := fun _ => hi.2
  tally := fun h => absurd (h.symm.trans ht) (by decide)
  buffer := fun _ _ => hb
  span := ha.2

theorem HostPasses.of_window (ht : m.type ≠ 2) (ha : Admitted s m) (h0 : m.space = 0) (hr : s.reaches m.tenant m.off = true) : HostPasses s m where
  attached := (s.attached_iff _).mpr ha.1
  reach := fun _ => State.inReach_of_reaches hr
  area := fun h => absurd (h.symm.trans h0) (by decide)
  tally := fun h => absurd h ht
  buffer := fun _ h => absurd (h.symm.trans h0) (by decide)
  span := ha.2

theorem HostPasses.of_tally {r : TallyReg} (ht : m.type = 2) (ha : Admitted s m) (h0 : m.space = 0) (hr : s.reaches m.tenant m.off = true)
    (hp : bit (s.rd (hReg m.tenant 0)) 0 = true) (htr : tallyReg m.off = some r) : HostPasses s m where
  attached := (s.attached_iff _).mpr ha.1
  reach := fun _ => State.inReach_of_reaches hr
  area := fun h => absurd (h.symm.trans h0) (by decide)
  tally := fun _ => ⟨hp, h0, by rw [htr]; rfl⟩
  buffer := fun h => absurd (h.symm.trans ht) (by decide)
  span := ha.2

theorem State.performWrite_area (h : m.space = 1) : s.performWrite m =
    (if s.hbmWriteMeets (s.inAddr m) m.len then s.countPoison 16 0 else s).hbmWrite (s.inAddr m) m.bytes := if_pos h

theorem State.performWrite_window (h : m.space = 0) (h1 : m.off % 8 = 0) (h2 : m.len % 8 = 0) :
    s.performWrite m = s.writeRegs m.off (wordsOf (m.len / 8) m.bytes) := by
  unfold State.performWrite
  dsimp only
  rw [if_neg (by rw [h]; decide), if_neg (by rw [h1, h2]; decide)]

variable {ch : Fin 4}

theorem execWriteInbound_rejected (h : Arrives s ch m 1) (hf : ¬HostPasses s m) (hl : ¬s.lateWrite m = true) :
    ∃ t, exec (.writeInbound ch m) s = .next t ∧ Rejected s t m :=
  ⟨_, (execWriteInbound_of_arrives h).trans (congrArg _ (State.checked_of_fails hf hl)), s.rejectPosted_rejected m⟩

theorem execTallyInbound_rejected (h : Arrives s ch m 2) (hf : ¬HostPasses s m) :
    ∃ t, exec (.tallyInbound ch m) s = .next t ∧ Rejected s t m := by
  have hty := h.type
  refine ⟨_, (execTallyInbound_of_arrives h).trans (congrArg _ (State.checked_of_fails hf fun hl => ?_)), s.rejectPosted_rejected m⟩
  exact absurd ((State.lateWrite_iff.mp hl).2.1.symm.trans hty) (by decide)

theorem execWriteInbound_late (h : Arrives s ch m 1) (ha : (s.ten m.tenant).st = .attached) (hi : InArea s m)
    (hb : 2 ≤ s.bufState m.tenant (m.off / s.inSlot m.tenant)) : ∃ t, exec (.writeInbound ch m) s = .next t ∧ Rejected s t m ∧
      t.rd (cntTen m.tenant 4) = counterAdd (s.rd (cntTen m.tenant 4)) 1 := by
  have hty := h.type
  have hl : s.lateWrite m = true := State.lateWrite_iff.mpr ⟨(s.attached_iff _).mpr ha, hty, hi.1, hi.2, hb⟩
  have hr := s.rejectPosted_rejected m
  refine ⟨_, (execWriteInbound_of_arrives h).trans (congrArg _ (State.checked_of_late hl)), hr.bump (by decide) 1, ?_⟩
  have hlog : (s.rejectPosted m).rd (cntTen m.tenant 4) = s.rd (cntTen m.tenant 4) := by
    rw [State.rejectPosted, State.inErr, State.rd_bump_ne _ _ (by unfold cntTen; omega), (s.logHeader_spec m).2.1 _ (by unfold cntTen; omega)]
  rw [State.bump_one, State.rd_setReg, hlog]

theorem execWriteInbound_without_credit (hup : s.hapUp = true) (hty : m.type = 1) (h : bit (s.rd 0x700000) ch = false ∨ (s.chan ch).inPosted = 0) :
    exec (.writeInbound ch m) s = .next (s.bump (cntTen 0 0) (1 + m.data.length / 64)) := by
  change execWriteInbound ch m s = _
  have hc : (if !bit (s.rd 0x700000) ch then 0 else if m.type = 0xC || m.type = 0xD then m.beats else if m.type = 8 then (s.chan ch).inNon
      else (s.chan ch).inPosted) = 0 := by
    rcases h with h | h
    · rw [h]
      rfl
    · rw [h, hty]
      simp
  unfold execWriteInbound State.arrived
  dsimp only
  rw [hc, hup]
  exact congrArg Host.Outcome.next ((if_neg (by decide)).trans (if_pos (by omega)))

theorem State.beatCredit_write (hty : m.type = 1) : s.beatCredit ch m = (s.chan ch).inPosted := by
  rw [State.beatCredit, hty]
  rfl

theorem execWriteInbound_of_looped (hup : s.hapUp = true) (hen : bit (s.rd 0x700000) ch = true) (hw : 1 + m.data.length / 64 = m.beats)
    (hty : m.type = 1) (hc : m.beats ≤ (s.chan ch).inPosted) (hl : s.looped ch = true) :
    exec (.writeInbound ch m) s = .next (s.loopback ch m) := by
  change execWriteInbound ch m s = _
  rw [execWriteInbound, State.arrived_of_whole _ hup hen hw (by rw [State.beatCredit_write hty]; exact hc), if_pos hl]

theorem execLoopbackWrite_of_looped (hup : s.hapUp = true) (hen : bit (s.rd 0x700000) ch = true) (hw : 1 + m.data.length / 64 = m.beats)
    (hty : m.type = 1) (hc : m.beats ≤ (s.chan ch).inPosted) (hl : s.looped ch = true) (hf : m.formed = true) :
    exec (.loopbackWrite ch m) s = .next (s.loopback ch m) := by
  change execLoopbackWrite ch m s = _
  rw [execLoopbackWrite, State.arrived_of_whole _ hup hen hw (by rw [State.beatCredit_write hty]; exact hc), if_pos (by rw [hl, hf]; rfl)]

theorem State.loopback_write (hty : m.type = 1) :
    s.loopback ch m = s.setChan ch { s.chan ch with posted := (s.chan ch).posted ++ [⟨m.hdr, m.data⟩] } := if_pos hty

theorem execWriteInbound_ill_formed (hup : s.hapUp = true) (hen : bit (s.rd 0x700000) ch = true) (hw : 1 + m.data.length / 64 = m.beats)
    (hty : m.type = 1) (hc : m.beats ≤ (s.chan ch).inPosted) (hl : s.looped ch = false) (hf : m.formed = false) :
    exec (.writeInbound ch m) s = .next s := by
  change execWriteInbound ch m s = _
  rw [execWriteInbound, State.arrived_of_whole _ hup hen hw (by rw [State.beatCredit_write hty]; exact hc), if_neg (by rw [hl]; decide),
    if_pos (by rw [hf]; rfl)]

end

/-- Settles O38: a message that arrives whole meets the checks of Table 15.3; what passes acts, what fails is rejected. -/
theorem inboundPostedMessages : Obligations.InboundPostedMessages := by
  refine ⟨fun s ch m h ha hh hi hb => ?_, fun s ch m h ha hh h0 _ hr h1 h2 => ?_, fun s ch m r h ha hh h0 _ hr hp htr => ?_, fun s ch m h hf => ?_,
    fun s ch m h hf => execTallyInbound_rejected h fun hp => ?_, fun s ch m h ha hi hb => execWriteInbound_late h ha hi hb,
    fun s ch m hup hty h => ?_, fun s ch m hup hen hw hty hc =>
      ⟨execWriteInbound_ill_formed hup hen hw hty hc, fun hl hf => ?_⟩⟩
  · rw [execWriteInbound_of_arrives h, State.checked_of_passes (.of_area h.type ha hi hb) hh, State.performWrite_area hi.1]
  · have ht : m.type ≠ 2 := by
      rw [h.type]
      decide
    rw [execWriteInbound_of_arrives h, State.checked_of_passes (.of_window ht ha h0 hr) hh, State.performWrite_window h0 h1 h2]
  · rw [execTallyInbound_of_arrives h, State.checked_of_passes (.of_tally h.type ha h0 hr hp htr) hh, State.performTally, htr]
    rfl
  · refine execWriteInbound_rejected h (fun hp => ?_) (fun hl => ?_)
    · rcases hf with hf | ⟨h1, hf⟩ | ⟨h0, ho, hr⟩ | ⟨ho, h0⟩
      · exact hf ((s.attached_iff _).mp hp.attached)
      · exact hf ⟨h1, hp.area h1⟩
      · exact absurd (hp.reach h0) (by rw [State.inReach_of_not_reaches hr ho]; decide)
      · exact absurd hp.span (not_le.mpr ho)
    · obtain ⟨ha, -, h1, hb, -⟩ := State.lateWrite_iff.mp hl
      rcases hf with hf | ⟨_, hf⟩ | ⟨h0, _⟩ | ⟨_, h0⟩
      · exact hf ((s.attached_iff _).mp ha)
      · exact hf ⟨h1, hb⟩
      · exact absurd (h0.symm.trans h1) (by decide)
      · exact absurd (h0.symm.trans h1) (by decide)
  · obtain ⟨h1, h2, h3⟩ := hp.tally h.type
    rcases hf with hf | hf | hf | hf
    · exact hf ((s.attached_iff _).mp hp.attached)
    · exact absurd (h1.symm.trans hf) (by decide)
    · exact absurd (h2.symm.trans hf) (by decide)
    · rw [hf] at h3
      exact absurd h3 (by decide)
  · refine ⟨_, execWriteInbound_without_credit hup hty h, ?_, fun _ => ?_⟩
    · obtain ⟨regs, hb⟩ := s.bump_spec (cntTen 0 0) (1 + m.data.length / 64)
      rw [hb]
    · rw [State.bump_of_ne_zero _ _ (by omega), State.rd_setReg]
  · rw [← State.loopback_write hty]
    exact ⟨execWriteInbound_of_looped hup hen hw hty hc hl, execLoopbackWrite_of_looped hup hen hw hty hc hl hf⟩

end Sys2Proof.Machine
end

section
/-! PROOF. Inbound READs and completions of the host attach port (15_host_attach.md R327, R330, R332, R338). -/

namespace Sys2Proof.Machine

/-! ### The queues of a tenant -/

section
variable (s : State) (t q : Nat)

@[simp] theorem State.sq_setSq (x : SubQueue) : (s.setSq t q x).sq t q = x := by
  rw [State.sq, State.setSq, State.onTen, State.ten_setTen, Sparse.get_put_self]

@[simp] theorem State.cq_setCq (x : CplQueue) : (s.setCq t q x).cq t q = x := by
  rw [State.cq, State.setCq, State.onTen, State.ten_setTen, Sparse.get_put_self]

theorem State.sq_setSq_ne {k : Nat} (x : SubQueue) (h : k ≠ q) : (s.setSq t q x).sq t k = s.sq t k := by
  rw [State.sq, State.setSq, State.onTen, State.ten_setTen, Sparse.get_put_ne _ _ _ _ h, State.sq]

theorem State.cq_setCq_ne {k : Nat} (x : CplQueue) (h : k ≠ q) : (s.setCq t q x).cq t k = s.cq t k := by
  rw [State.cq, State.setCq, State.onTen, State.ten_setTen, Sparse.get_put_ne _ _ _ _ h, State.cq]

theorem State.sq_onTen {f : Tenant → Tenant} (h : ∀ x, (f x).sq = x.sq) (k : Nat) : (s.onTen t f).sq t k = s.sq t k := by
  rw [State.sq, State.onTen, State.ten_setTen, h, State.sq]

theorem State.cq_onTen {f : Tenant → Tenant} (h : ∀ x, (f x).cq = x.cq) (k : Nat) : (s.onTen t f).cq t k = s.cq t k := by
  rw [State.cq, State.onTen, State.ten_setTen, h, State.cq]

@[simp] theorem State.sq_setCq (x : CplQueue) (k : Nat) : (s.setCq t q x).sq t k = s.sq t k := by
  unfold State.setCq
  refine s.sq_onTen t ?_ k
  exact fun _ => rfl

@[simp] theorem State.cq_setSq (x : SubQueue) (k : Nat) : (s.setSq t q x).cq t k = s.cq t k := by
  unfold State.setSq
  refine s.cq_onTen t ?_ k
  exact fun _ => rfl

theorem State.commandDone_sq (cmd status : Nat) (req : Option Nat) (k : Nat) : (s.commandDone t q cmd status req).sq t k = s.sq t k := by
  unfold State.commandDone State.complete
  split
  · exact s.sq_setCq t _ _ k
  · rfl

end

/-- The batches that leave a queue's front concern no READ. -/
theorem State.settle_reading (t q : Nat) : ∀ (n : Nat) (s : State), ((s.settle t q n).sq t q).reading = (s.sq t q).reading
  | 0, _ => rfl
  | n + 1, s => by
    unfold State.settle
    dsimp only
    split
    · rfl
    · split
      · rw [State.settle_reading t q n, State.sq_setSq]
      · split
        · rfl
        · rw [State.settle_reading t q n, State.commandDone_sq, State.sq_setSq]

section
variable (s : State) (t q : Nat)

theorem State.closeBatch_spec : QueueServed s (s.closeBatch t q) ∧ ((s.closeBatch t q).sq t q).reading = (s.sq t q).reading := by
  unfold State.closeBatch
  dsimp only
  split
  · exact ⟨.refl s, rfl⟩
  · refine ⟨(s.setSq_served _ _ _).trans (State.settle_served _ _ _ _), ?_⟩
    rw [State.settleQ, State.settle_reading, State.sq_setSq]

theorem State.setSqError_error : (s.setSqError t q).sqError t q = true := by
  unfold State.sqError State.setSqError bit
  rw [State.getLsbD_setRf _ _ _ _ (by decide) (by decide), if_pos (by decide)]
  rfl

theorem State.setRf_frame (o hi lo v : Nat) : (s.setRf o hi lo v).tenants = s.tenants ∧ (s.setRf o hi lo v).reads = s.reads ∧
    (s.setRf o hi lo v).hbm = s.hbm ∧ (s.setRf o hi lo v).rods = s.rods := ⟨rfl, rfl, rfl, rfl⟩

theorem State.sq_of_tenants {s u : State} (h : u.tenants = s.tenants) (t q : Nat) : u.sq t q = s.sq t q := by
  rw [State.sq, State.ten, h, State.sq, State.ten]

theorem QueueServed.frame_eq {s u : State} (h : QueueServed s u) : u.reads = s.reads ∧ u.hbm = s.hbm ∧ u.chans = s.chans ∧ u.slate = s.slate := by
  obtain ⟨⟨_, _, rfl⟩, -⟩ := h
  exact ⟨rfl, rfl, rfl, rfl⟩

/-- A queue that goes into ERROR. -/
theorem State.sqFail_spec : (s.sqFail t q).sqError t q = true ∧ ((s.sqFail t q).sq t q).reading = (s.sq t q).reading ∧
    (s.sqFail t q).reads = s.reads ∧ (s.sqFail t q).hbm = s.hbm ∧ (s.sqFail t q).rods = s.rods := by
  have herr := s.setSqError_error t q
  obtain ⟨hten, hreads, hhbm, hrods⟩ := s.setRf_frame (sqReg t q 0x18) 16 16 1
  unfold State.sqFail
  unfold State.setSqError at herr ⊢
  dsimp only
  generalize s.setRf (sqReg t q 0x18) 16 16 1 = u at herr hten hreads hhbm hrods ⊢
  have hsq := State.sq_of_tenants hten t q
  split
  · exact ⟨herr, congrArg SubQueue.reading hsq, hreads, hhbm, hrods⟩
  · obtain ⟨hs, hr⟩ := u.closeBatch_spec t q
    obtain ⟨h1, h2, -, -⟩ := hs.frame_eq
    refine ⟨?_, hr.trans (congrArg SubQueue.reading hsq), h1.trans hreads, h2.trans hhbm, hs.rods.trans hrods⟩
    rw [State.sqError, hs.rd]
    exact herr

end

/-- A fetch that failed leaves its queue in ERROR, with nothing outstanding. -/
theorem State.fetchFailed_spec {s : State} {r : OutRead} (he : (s.sq r.tenant r.q).epoch = r.epoch) :
    (s.fetchFailed r).reads = s.reads ∧ (s.fetchFailed r).sqError r.tenant r.q = true ∧
    ((s.fetchFailed r).sq r.tenant r.q).reading = false ∧ (s.fetchFailed r).hbm = s.hbm ∧ (s.fetchFailed r).rods = s.rods := by
  unfold State.fetchFailed
  rw [if_neg (not_not.mpr he)]
  obtain ⟨h1, h2, h3, h4, h5⟩ := ((s.unplace r.tenant (s.cqOf r.tenant r.q) r.count).setSq r.tenant r.q
    { s.sq r.tenant r.q with reading := false }).sqFail_spec r.tenant r.q
  refine ⟨h3, h1, ?_, h4, h5⟩
  rw [h2, State.sq_setSq]

/-! ### Completions -/

section
variable {s : State} {ch : Fin 4} {m : Msg} {r : OutRead}

theorem State.readFailed_of_fetch (hu : r.unit = none) (resp : Nat) : s.readFailed r resp = (s.dropRead r).fetchFailed r := by
  rw [State.readFailed, hu]

theorem State.readFailed_of_unit {u : Nat} (hu : r.unit = some u) (resp : Nat) :
    s.readFailed r resp = (({ s with reads := s.reads.erase r }).unitRead u r.off resp []).settleOps := by
  rw [State.readFailed, hu]
  rfl

/-- A fetch whose READ fails. -/
theorem State.readFailed_spec (hu : r.unit = none) (he : (s.sq r.tenant r.q).epoch = r.epoch) (resp : Nat) :
    (s.readFailed r resp).reads = s.reads.erase r ∧ (s.readFailed r resp).sqError r.tenant r.q = true ∧
    ((s.readFailed r resp).sq r.tenant r.q).reading = false ∧ (s.readFailed r resp).hbm = s.hbm ∧ (s.readFailed r resp).rods = s.rods := by
  rw [State.readFailed_of_fetch hu]
  exact State.fetchFailed_spec (s := s.dropRead r) he

theorem State.completion_of_none (h : s.readOf ch m.tag m.tenant = none) (hl : s.looped ch = false) (ty : Nat) (f : OutRead → State → State) :
    s.completion ch m ty f = s := by
  unfold State.completion
  rw [hl, h]
  exact ite_self _

theorem State.completion_of_some (h : s.readOf ch m.tag m.tenant = some r) (hl : s.looped ch = false) (hf : m.formed = true) (f : OutRead → State → State) :
    s.completion ch m m.type f = f r s := by
  unfold State.completion
  rw [hl, h, if_neg (by decide), if_neg (by simp)]
  exact if_pos hf

/-- What a CPL does to the READ it names. -/
def State.cplEnds (m : Msg) (r : OutRead) (s : State) : State :=
  let s1 := s.readFailed r (if m.status = 0 then 1 else m.status)
  if m.status = 0 then s1.inErr m.tenant else s1

/-- What a CPL_DATA does to the READ it names. -/
def State.cplData (m : Msg) (r : OutRead) (s : State) : State :=
  let r1 : OutRead := { r with got := r.got ++ m.bytes }
  if m.status ≠ 0 || m.off ≠ r.off + r.got.length || decide (r.len < r1.got.length) then s.readFailed r 1
  else if r1.got.length = r.len then (s.dropRead r).readDone r1
  else { s with reads := s.reads.map (fun x => if x = r then r1 else x) }

theorem execCplInbound_of_arrives (h : Arrives s ch m 0xC) : exec (.cplInbound ch m) s = .next (s.completion ch m 0xC (State.cplEnds m)) := by
  change execCplInbound ch m s = _
  rw [execCplInbound, h.arrived (by decide)]
  rfl

theorem execCplDataInbound_of_arrives (h : Arrives s ch m 0xD) :
    exec (.cplDataInbound ch m) s = .next (s.completion ch m 0xD (State.cplData m)) := by
  change execCplDataInbound ch m s = _
  rw [execCplDataInbound, h.arrived (by decide)]
  rfl

theorem Arrives.notLooped {ty : Nat} (h : Arrives s ch m ty) : s.looped ch = false := by
  obtain ⟨-, -, hl, -, -, -, -, -⟩ := h
  exact hl

theorem Arrives.formed {ty : Nat} (h : Arrives s ch m ty) : m.formed = true := by
  obtain ⟨-, -, -, -, hf, -, -, -⟩ := h
  exact hf

theorem execCplInbound_of_read (h : Arrives s ch m 0xC) (hr : s.readOf ch m.tag m.tenant = some r) :
    exec (.cplInbound ch m) s = .next (State.cplEnds m r s) := by
  rw [execCplInbound_of_arrives h, ← h.type, State.completion_of_some hr h.notLooped h.formed]

theorem execCplDataInbound_of_read (h : Arrives s ch m 0xD) (hr : s.readOf ch m.tag m.tenant = some r) :
    exec (.cplDataInbound ch m) s = .next (State.cplData m r s) := by
  rw [execCplDataInbound_of_arrives h, ← h.type, State.completion_of_some hr h.notLooped h.formed]

/-- A CPL ends its READ, counted where its status is OK. -/
theorem State.cplEnds_spec (hu : r.unit = none) (he : (s.sq r.tenant r.q).epoch = r.epoch) : (State.cplEnds m r s).reads = s.reads.erase r ∧
    (State.cplEnds m r s).sqError r.tenant r.q = true ∧ ((State.cplEnds m r s).sq r.tenant r.q).reading = false ∧
    (State.cplEnds m r s).hbm = s.hbm ∧ (State.cplEnds m r s).rods = s.rods := by
  have h := State.readFailed_spec hu he (if m.status = 0 then 1 else m.status)
  unfold State.cplEnds
  dsimp only
  generalize s.readFailed r (if m.status = 0 then 1 else m.status) = u at h ⊢
  split
  · obtain ⟨h1, h2, h3, h4, h5⟩ := h
    obtain ⟨regs, hb⟩ := u.bump_spec (cntTen m.tenant 0) 1
    refine ⟨?_, ?_, ?_, ?_, ?_⟩
    · rw [State.inErr, hb]
      exact h1
    · rw [State.sqError, State.inErr, State.rd_bump_ne _ _ (by unfold sqReg tReg cntTen; omega)]
      exact h2
    · rw [State.inErr, hb]
      exact h3
    · rw [State.inErr, hb]
      exact h4
    · rw [State.inErr, hb]
      exact h5
  · exact h

theorem State.cplData_of_fail (h : m.status ≠ 0 ∨ m.off ≠ r.off + r.got.length ∨ r.len < r.got.length + m.bytes.length) :
    State.cplData m r s = s.readFailed r 1 := by
  refine if_pos ?_
  rw [List.length_append]
  simpa [or_assoc] using h

theorem State.cplData_of_part (h0 : m.status = 0) (ho : m.off = r.off + r.got.length) (hl : r.got.length + m.bytes.length < r.len) :
    State.cplData m r s = { s with reads := s.reads.map (fun x => if x = r then { r with got := r.got ++ m.bytes } else x) } := by
  unfold State.cplData
  dsimp only
  rw [List.length_append, if_neg (by simp [h0, ho]; omega), if_neg (by omega)]

theorem State.cplData_of_last (h0 : m.status = 0) (ho : m.off = r.off + r.got.length) (hl : r.got.length + m.bytes.length = r.len) :
    State.cplData m r s = (s.dropRead r).readDone { r with got := r.got ++ m.bytes } := by
  unfold State.cplData
  dsimp only
  rw [List.length_append, if_neg (by simp [h0, ho]; omega), if_pos hl]

theorem State.readDone_of_fetch (hu : r.unit = none) : s.readDone r = s.fetched r := by
  rw [State.readDone, hu]

theorem State.readDone_of_unit {u : Nat} (hu : r.unit = some u) : s.readDone r = (s.unitRead u r.off 0 r.got).settleOps := by
  rw [State.readDone, hu]

variable {tag : BitVec 16}

theorem execHapTimeoutExpire_of_read (h : s.reads.find? (fun x => x.ch == ch.val && x.tag == tag.toNat) = some r) :
    exec (.hapTimeoutExpire ch tag) s = .next (if s.hapUp && !s.halted then s.readFailed r 6 else s) := by
  refine congrArg Host.Outcome.next ?_
  rw [h]

end

/-! ### READs -/

/-- An answer of the block: now, or behind a halt. -/
def State.hostAnswer (ch : Fin 4) (m : Msg) (u : State) (ty st len sp off : Nat) (data : List Byte) (halted : Bool) : State :=
  if halted then u.setChan ch { u.chan ch with answers := (u.chan ch).answers ++ [⟨mkHdr ty m.tenant m.tag len st sp off 0, data⟩] }
  else u.send (.host ch (mkHdr ty m.tenant m.tag len st sp off 0) data)

section
variable {s : State} {ch : Fin 4} {m : Msg}

theorem State.respondErr_eq (s : State) (ch : Fin 4) (m : Msg) (code : Nat) :
    s.respondErr ch m code = State.hostAnswer ch m s 0xC code 0 0 0 [] s.halted := rfl

theorem State.respondData_eq (s : State) (ch : Fin 4) (m : Msg) (bs : List Byte) :
    s.respondData ch m bs = State.hostAnswer ch m s 0xD 0 (m.len - 1) m.space m.off (beatsOf m.off bs) s.halted := rfl

/-- What a READ draws that arrives. -/
def State.readAnswer (ch : Fin 4) (m : Msg) (s : State) : State :=
  if s.hostCheck m ≠ 0 then s.respondErr ch m (s.hostCheck m)
  else if m.space = 0 then s.readWindow ch m
  else if s.hbmRangeBad (s.inAddr m) m.len then s.respondErr ch m 4 else s.respondData ch m (s.hbmRead (s.inAddr m) m.len)

theorem execReadInbound_of_arrives (h : Arrives s ch m 8) : exec (.readInbound ch m) s = .next (State.readAnswer ch m s) := by
  change execReadInbound ch m s = _
  rw [execReadInbound, h.arrived (by decide)]
  refine congrArg Host.Outcome.next ?_
  rw [if_neg (by rw [h.notLooped]; decide), if_neg (by rw [h.formed, h.type]; decide)]
  rfl

theorem State.readAnswer_of_check {code : Nat} (h : s.hostCheck m = code) (hc : code ≠ 0) :
    State.readAnswer ch m s = State.hostAnswer ch m s 0xC code 0 0 0 [] s.halted := by
  rw [State.readAnswer, h, if_pos hc, State.respondErr_eq]

theorem State.hostCheck_of_detached (h : (s.ten m.tenant).st ≠ .attached) : s.hostCheck m = 2 :=
  if_pos (by rw [Bool.not_eq_true', ← Bool.not_eq_true, s.attached_iff]; exact h)

theorem State.hostCheck_beyond (h : (s.ten m.tenant).st = .attached) (h1 : m.space = 1) (hi : ¬InArea s m) : s.hostCheck m = 1 := by
  have hb : m.space = 1 ∧ s.inCount m.tenant * s.inSlot m.tenant ≤ m.off := ⟨h1, not_lt.mp fun hlt => hi ⟨h1, hlt⟩⟩
  unfold State.hostCheck
  dsimp only
  rw [if_neg (by rw [(s.attached_iff _).mpr h]; decide), if_neg (by simp [h1]), if_pos (by simpa using hb)]

theorem State.hostCheck_crossing (h : (s.ten m.tenant).st = .attached) (ht : m.type = 8) (hi : InArea s m) (ho : 4096 < m.off % 4096 + m.len) :
    s.hostCheck m = 1 := by
  have hb : ¬(s.inCount m.tenant * s.inSlot m.tenant ≤ m.off) := not_le.mpr hi.2
  unfold State.hostCheck
  dsimp only
  rw [if_neg (by rw [(s.attached_iff _).mpr h]; decide), if_neg (by simp [hi.1]), if_neg (by simp [hb]), if_neg (by simp [ht]),
    if_neg (by simp [ht]), if_pos ho]

theorem HostPasses.of_read (ht : m.type = 8) (ha : Admitted s m) (hr : m.space = 0 → s.inReach m.tenant m.off = true)
    (hi : m.space = 1 → s.belowInput m) : HostPasses s m where
  attached := (s.attached_iff _).mpr ha.1
  reach := hr
  area := hi
  tally := fun h => absurd (h.symm.trans ht) (by decide)
  buffer := fun h => absurd (h.symm.trans ht) (by decide)
  span := ha.2

theorem State.readAnswer_area (ht : m.type = 8) (ha : Admitted s m) (hi : InArea s m) : State.readAnswer ch m s =
    if s.hbmRangeBad (s.inAddr m) m.len then State.hostAnswer ch m s 0xC 4 0 0 0 [] s.halted
    else State.hostAnswer ch m s 0xD 0 (m.len - 1) 1 m.off (beatsOf m.off (s.hbmRead (s.inAddr m) m.len)) s.halted := by
  have hp : HostPasses s m := .of_read ht ha (fun h => absurd (h.symm.trans hi.1) (by decide)) fun _ => hi.2
  rw [State.readAnswer, if_neg (not_not.mpr hp.hostCheck), if_neg (by rw [hi.1]; decide), State.respondErr_eq, State.respondData_eq, hi.1]

theorem State.readAnswer_window (ht : m.type = 8) (ha : Admitted s m) (h0 : m.space = 0) (hr : s.reaches m.tenant m.off = true) :
    State.readAnswer ch m s = s.readWindow ch m := by
  have hp : HostPasses s m := .of_read ht ha (fun _ => State.inReach_of_reaches hr) fun h => absurd (h.symm.trans h0) (by decide)
  rw [State.readAnswer, if_neg (not_not.mpr hp.hostCheck), if_pos h0]

theorem State.readWindow_register (h0 : m.space = 0) (h8 : m.off % 8 = 0) (hl : m.len = 8) (hh : (s.readReg m.off).2.halted = s.halted) :
    s.readWindow ch m = State.hostAnswer ch m (s.readReg m.off).2 0xD 0 7 0 m.off (beatsOf m.off (leBytes 8 (s.readReg m.off).1.toNat)) s.halted := by
  have hx : s.readRegs m.off (m.len / 8) = (leBytes 8 (s.readReg m.off).1.toNat, (s.readReg m.off).2) := by
    rw [hl]
    exact Prod.ext (List.append_nil _) rfl
  rw [State.readWindow, if_pos (by rw [h8, hl]; decide), hx, State.respondData_eq, hl, h0, hh]

theorem State.readWindow_misaligned (h4 : m.off % 4 ≠ 0) :
    s.readWindow ch m = (State.hostAnswer ch m s 0xC 1 0 0 0 [] s.halted).inErr m.tenant := by
  have h8 : m.off % 8 ≠ 0 := by omega
  rw [State.readWindow, if_neg (by simp [h8]), if_neg (by simp [h4]), State.respondErr_eq]

end

/-- Settles O39: a READ from the checks of Table 15.3, a completion from what it does to the READ it names. -/
theorem inboundReadsAndCompletions : Obligations.InboundReadsAndCompletions := by
  refine ⟨fun s ch m h => ?_, fun s ch m hn => ⟨fun h => ?_, fun h => ?_⟩, fun s ch m r hr he hu => ⟨fun h => ?_, fun h h0 ho => ⟨?_, ?_, ?_⟩, ?_⟩,
    fun s ch m r u hr hu => ⟨fun h h0 => ?_, fun h h0 ho hl => ?_, fun hup hh hf => ?_⟩, fun s ch tag r hf he hu hup => ⟨fun hh => ?_, fun hh => ?_⟩⟩
  · have hex := execReadInbound_of_arrives h
    refine ⟨fun hd => ?_, fun ha h1 hi => ?_, fun ha hi ho => ?_, fun ha hi hb => ?_, fun ha hi hb => ?_, fun ha h0 _ hr h8 hl hh => ?_,
      fun ha h0 _ hr h4 => ?_⟩
    · exact hex.trans (congrArg _ (State.readAnswer_of_check (State.hostCheck_of_detached hd) (by decide)))
    · exact hex.trans (congrArg _ (State.readAnswer_of_check (State.hostCheck_beyond ha h1 hi) (by decide)))
    · exact hex.trans (congrArg _ (State.readAnswer_of_check (State.hostCheck_crossing ha h.type hi ho) (by decide)))
    · exact hex.trans (congrArg _ ((State.readAnswer_area h.type ha hi).trans (if_pos hb)))
    · exact hex.trans (congrArg _ ((State.readAnswer_area h.type ha hi).trans (if_neg (Bool.not_eq_true _ ▸ hb))))
    · exact hex.trans (congrArg _ ((State.readAnswer_window h.type ha h0 hr).trans (State.readWindow_register h0 h8 hl hh)))
    · exact hex.trans (congrArg _ ((State.readAnswer_window h.type ha h0 hr).trans (State.readWindow_misaligned h4)))
  · rw [execCplInbound_of_arrives h, State.completion_of_none hn h.notLooped]
  · rw [execCplDataInbound_of_arrives h, State.completion_of_none hn h.notLooped]
  · exact ⟨_, execCplInbound_of_read h hr, State.cplEnds_spec hu he⟩
  · intro hl
    rw [execCplDataInbound_of_read h hr, State.cplData_of_part h0 ho hl]
  · intro hl
    rw [execCplDataInbound_of_read h hr, State.cplData_of_last h0 ho hl, State.readDone_of_fetch (by exact hu)]
    rfl
  · intro hl
    obtain ⟨h1, h2, -, -, -⟩ := State.readFailed_spec hu he 1
    exact ⟨_, (execCplDataInbound_of_read h hr).trans (congrArg _ (State.cplData_of_fail (.inr (.inr hl)))), h1, h2⟩
  · intro h ho
    obtain ⟨h1, h2, -, -, -⟩ := State.readFailed_spec hu he 1
    exact ⟨_, (execCplDataInbound_of_read h hr).trans (congrArg _ (State.cplData_of_fail (.inr (.inl ho)))), h1, h2⟩
  · rw [execCplInbound_of_read h hr, State.cplEnds]
    rw [if_neg h0, if_neg h0, State.readFailed_of_unit hu]
  · rw [execCplDataInbound_of_read h hr, State.cplData_of_last h0 ho hl, State.readDone_of_unit (by exact hu)]
    rfl
  · have hm : (BitVec.ofNat 16 m.tag).toNat = m.tag := by
      rw [BitVec.toNat_ofNat]
      exact Nat.mod_eq_of_lt (Nat.mod_lt _ (by decide))
    rw [execHapTimeoutExpire_of_read (by rw [hm]; exact hf), hup, hh, ← State.readFailed_of_unit hu]
    rfl
  · rw [execHapTimeoutExpire_of_read hf, hh]
    exact congrArg _ (if_neg (by simp))
  · obtain ⟨h1, h2, -, -, -⟩ := State.readFailed_spec hu he 6
    exact ⟨_, (execHapTimeoutExpire_of_read hf).trans (congrArg _ (if_pos (by rw [hup, hh]; rfl))), h1, h2⟩

end Sys2Proof.Machine
end

section
/-! PROOF. What the retirement of requests leaves of a tenant in reset (15_host_attach.md R347). -/

namespace Sys2Proof.Machine

/-- From `s` to `u` the tenant in reset keeps its context but for its rings, and no register of the tenant pages has changed. -/
structure ResetKept (t : Nat) (s u : State) : Prop where
  resetting : (s.ten t).st = .resetting
  ten : ∃ rings, u.ten t = { s.ten t with rings := rings }
  regs : ∀ o, 0x800000 ≤ o → u.rd o = s.rd o

theorem ResetKept.refl {t : Nat} {s : State} (h : (s.ten t).st = .resetting) : ResetKept t s s := ⟨h, ⟨_, rfl⟩, fun _ _ => rfl⟩

section
variable {t : Nat} {s0 s : State} (h : ResetKept t s0 s)
include h

theorem ResetKept.st : (s.ten t).st = .resetting := by
  obtain ⟨rings, hr⟩ := h.ten
  rw [hr]
  exact h.resetting

theorem ResetKept.of_eq {u : State} (ht : u.tenants = s.tenants) (hr : u.regs = s.regs) (hd : u.design = s.design) : ResetKept t s0 u where
  resetting := h.resetting
  ten := by
    rw [State.ten, ht]
    exact h.ten
  regs o ho := (State.rd_of_regs hr hd o).trans (h.regs o ho)

theorem ResetKept.forEach {α : Type} {f : α → State → State} (hf : ∀ a u, ResetKept t s0 u → ResetKept t s0 (f a u)) (l : List α) :
    ResetKept t s0 (s.forEach l f) := State.forEach_induct hf l h

theorem ResetKept.onSlot (i : Nat) (f : Slot → Slot) : ResetKept t s0 (s.onSlot i f) := h.of_eq rfl rfl rfl
theorem ResetKept.setGth (g : Gather) : ResetKept t s0 { s with gth := g } := h.of_eq rfl rfl rfl
theorem ResetKept.setTier (x : Tier) : ResetKept t s0 { s with tier := x } := h.of_eq rfl rfl rfl
theorem ResetKept.onPart (p : Nat) (f : Part → Part) : ResetKept t s0 (s.onPart p f) := h.of_eq rfl rfl rfl

theorem ResetKept.freeBlock (p a : Nat) : ResetKept t s0 (s.freeBlock p a) := h.onPart p _

theorem ResetKept.bump {o : Nat} (ho : o < 0x800000) (n : Nat) : ResetKept t s0 (s.bump o n) where
  resetting := h.resetting
  ten := by
    obtain ⟨regs, hb⟩ := s.bump_spec o n
    rw [hb]
    exact h.ten
  regs k hk := (s.rd_bump_ne n (by omega)).trans (h.regs k hk)

theorem ResetKept.onTen_rings (k : Nat) {f : Tenant → Tenant} (hf : ∀ x, ∃ rings, f x = { x with rings := rings }) : ResetKept t s0 (s.onTen k f) where
  resetting := h.resetting
  ten := by
    obtain ⟨rings, hr⟩ := h.ten
    by_cases hk : t = k
    · obtain ⟨rings', hf'⟩ := hf (s.ten k)
      rw [← hk, State.onTen, State.ten_setTen, hk, hf', ← hk, hr]
      exact ⟨_, rfl⟩
    · rw [State.onTen, State.ten_setTen_ne _ _ hk]
      exact h.ten
  regs := h.regs

theorem ResetKept.complete (k q : Nat) (c : Completion) : ResetKept t s0 (s.complete k q c) := by
  unfold State.complete
  split
  · next ha =>
    have hk : t ≠ k := fun e => by
      subst e
      rw [h.st] at ha
      exact absurd ha (by decide)
    refine ⟨h.resetting, ?_, h.regs⟩
    rw [State.setCq, State.onTen, State.ten_setTen_ne _ _ hk]
    exact h.ten
  · exact h

theorem ResetKept.hbmWrite (a : Nat) (bs : List Byte) : ResetKept t s0 (s.hbmWrite a bs) := h.of_eq rfl rfl rfl

theorem ResetKept.spanWrite (p a : Nat) (bs : List Byte) : ResetKept t s0 (s.spanWrite p a bs) := by
  unfold State.spanWrite
  split
  · exact h.hbmWrite _ _
  · exact h

omit h in
theorem ResetKept.spansWrite (p : Nat) : ∀ (l : List (Nat × Nat)) {s : State} (bs : List Byte), ResetKept t s0 s →
    ResetKept t s0 (s.spansWrite p l bs)
  | [], _, _, h => h
  | sp :: r, _, bs, h => ResetKept.spansWrite p r _ (h.spanWrite p sp.1 (bs.take sp.2))

variable {p : Nat} (hp : p < 16)
include hp

theorem ResetKept.bumpPart (k n : Nat) (hk : k < 0x200) : ResetKept t s0 (s.bump (cntPart p k) n) := h.bump (by unfold cntPart; omega) n

theorem ResetKept.rangeWrite (a : Nat) (bs : List Byte) : ResetKept t s0 (s.rangeWrite p a bs) := by
  unfold State.rangeWrite
  dsimp only
  split
  · exact (ResetKept.spansWrite p _ bs h).setTier _
  · exact h.bumpPart hp 40 _ (by decide)

/-! ### KV blocks and their index (09_slate.md R213 to R216) -/

theorem ResetKept.pfxInsert (key : W64) (blk : Nat) : ResetKept t s0 (s.pfxInsert p key blk).2 := by
  unfold State.pfxInsert
  dsimp only
  split
  · exact h
  · split
    · exact h.rangeWrite hp _ _
    · split
      · exact ((h.rangeWrite hp _ _).freeBlock p _).rangeWrite hp _ _
      · exact h.bumpPart hp 33 1 (by decide)

theorem ResetKept.pfxDrop (key : W64) (blk : Nat) : ResetKept t s0 (s.pfxDrop p key blk) := by
  unfold State.pfxDrop
  split
  · exact h.rangeWrite hp _ _
  · exact h

end

theorem Slot.part_lt (x : Slot) : x.part < 16 := Nat.mod_lt _ (by decide)

section
variable {t : Nat} {s0 s : State} (h : ResetKept t s0 s)
include h

theorem ResetKept.setBlockEntry (i n : Nat) (e : W64) : ResetKept t s0 (s.setBlockEntry i n e) := h.rangeWrite (Slot.part_lt _) _ _

omit h in
/-- A block that has entered the index, or has not, and its entry in the page list. -/
theorem ResetKept.shareBlock {r : Bool × State} (h : ResetKept t s0 r.2) (i n : Nat) (e : W64) :
    ResetKept t s0 (if r.1 then r.2.setBlockEntry i n e else r.2) :=
  iteInduction (motive := ResetKept t s0) (fun _ => h.setBlockEntry i n e) (fun _ => h)

omit h in
theorem ResetKept.keepBlocks (i : Nat) : ∀ (k : Nat) {s : State} (n : Nat), ResetKept t s0 s → ResetKept t s0 (s.keepBlocks i n k)
  | 0, _, _, h => h
  | k + 1, s, n, h => by
    rw [State.keepBlocks]
    extract_lets s1 r
    have hs1 : ResetKept t s0 s1 := iteInduction (motive := ResetKept t s0) (fun _ => h) (fun _ => h.onSlot _ _)
    have hr : ResetKept t s0 r.2 := hs1.pfxInsert (Slot.part_lt _) _ _
    clear_value r s1
    split
    · exact h
    · split
      · exact ResetKept.keepBlocks i k _ hs1
      · exact ResetKept.keepBlocks i k _ (hr.shareBlock _ _ _)

theorem ResetKept.recallBlock (p a : Nat) : ResetKept t s0 (s.recallBlock p a) := by
  refine h.forEach (fun b u hu => ?_) _
  split
  · exact iteInduction (motive := ResetKept t s0) (fun _ => hu.setTier _) (fun _ => hu)
  · exact hu

theorem ResetKept.kvRelease (i : Nat) (keep : Bool) : ResetKept t s0 (s.kvRelease i keep) := by
  unfold State.kvRelease
  extract_lets x s1 s2
  have hs1 : ResetKept t s0 s1 := iteInduction (motive := ResetKept t s0) (fun _ => ResetKept.keepBlocks i _ _ h) (fun _ => h)
  refine (hs1.forEach (fun n u hu => ?_) _).onSlot _ _
  dsimp only
  split
  · exact hu.pfxDrop (Slot.part_lt _) _ _
  · exact (hu.recallBlock _ _).freeBlock _ _

/-! ### Retirement (R205 to R208) -/

theorem ResetKept.final (i status resp : Nat) : ResetKept t s0 (s.final i status resp) := by
  unfold State.final
  dsimp only
  split
  · exact h.complete _ _ _
  · exact h.onSlot _ _

theorem ResetKept.predDone (k : Nat) : ResetKept t s0 (s.predDone k) := by
  unfold State.predDone
  split <;> exact h.onSlot _ _

/-- One request retired with its completions. -/
theorem ResetKept.retireOne (i status resp : Nat) : ResetKept t s0 (s.retireOne i status resp) :=
  ((((h.kvRelease i _).onSlot i _).setGth _).forEach (fun _ _ hu => hu.complete _ _ _) _).final i status resp

omit h in
theorem ResetKept.retireFrom (status resp : Nat) : ∀ (n : Nat) {s : State} (i : Nat), ResetKept t s0 s →
    ResetKept t s0 (s.retireFrom i status resp n)
  | 0, _, _, h => h
  | n + 1, s, i, h => by
    have hone : ResetKept t s0 (s.retireOne i status resp) := h.retireOne i status resp
    rw [State.retireFrom]
    dsimp only
    split
    · exact h
    · split
      · exact hone
      · split
        · exact hone.predDone _
        · exact ResetKept.retireFrom status resp n _ hone

theorem ResetKept.retire (i status resp : Nat) : ResetKept t s0 (s.retire i status resp) := ResetKept.retireFrom status resp _ i h

theorem ResetKept.unreserve (i : Nat) : ResetKept t s0 (s.unreserve i) := by
  unfold State.unreserve State.setRing
  exact (h.onTen_rings _ fun _ => ⟨_, rfl⟩).onSlot i _

end

end Sys2Proof.Machine
end

section
/-! PROOF. The start of a tenant reset, events, credits and outbound messages (15_host_attach.md R328, R329, R331, R333, R347). -/

namespace Sys2Proof.Machine

/-! ### The start of a tenant reset -/

section
variable (s : State) (t q : Nat)

/-- A queue whose entries are abandoned starts afresh; no other queue of the tenant has changed. -/
theorem State.abandonSq_sq : (s.abandonSq t q).sq t q = { SubQueue.init with epoch := (s.sq t q).epoch + 1 } ∧
    ∀ k, k ≠ q → (s.abandonSq t q).sq t k = s.sq t k := by
  unfold State.abandonSq
  extract_lets x l mine wait s1 s2 c y s3
  have h1 : s1.tenants = s.tenants := by
    refine State.forEach_induct (P := fun u => u.tenants = s.tenants) (fun b u hu => ?_) _ rfl
    refine State.forEach_induct (P := fun u => u.tenants = s.tenants) (fun e v hv => ?_) _ hu
    split
    · split
      · exact hv
      · exact hv
    · exact hv
  have h3 (k : Nat) : s3.sq t k = s.sq t k :=
    (State.sq_setCq s1 t _ _ k).trans (State.sq_of_tenants h1 t k)
  clear_value s3
  exact ⟨s3.sq_setSq t q _, fun k hk => (s3.sq_setSq_ne t q _ hk).trans (h3 k)⟩

/-- Every queue of the tenant abandoned. -/
def State.queuesAbandoned : State := s.forEach (List.range 8) (fun q s => s.abandonSq t q)

theorem State.queuesAbandoned_sq {q : Nat} (hq : q < 8) : ((s.queuesAbandoned t).sq t q).batches = [] ∧ ((s.queuesAbandoned t).sq t q).ends = [] := by
  refine State.forEach_all (I := fun _ => True) (Q := fun q u => (u.sq t q).batches = [] ∧ (u.sq t q).ends = []) (fun _ _ h => h)
    (fun k u _ => ?_) (fun k j u _ h => ?_) _ trivial q (List.mem_range.mpr hq)
  · rw [(u.abandonSq_sq t k).1]
    exact ⟨rfl, rfl⟩
  · by_cases hj : k = j
    · rw [hj, (u.abandonSq_sq t j).1]
      exact ⟨rfl, rfl⟩
    · rw [(u.abandonSq_sq t j).2 k hj]
      exact h

/-- No completion of the tenant waits. -/
def State.cqsCleared : State := s.forEach (List.range 8) (fun q s => s.setCq t q { s.cq t q with waiting := [], reserved := 0 })

theorem State.cqsCleared_spec : (∀ k, (s.cqsCleared t).sq t k = s.sq t k) ∧ ∀ q, q < 8 → ((s.cqsCleared t).cq t q).waiting = [] := by
  refine ⟨fun k => ?_, fun q hq => ?_⟩
  · exact State.forEach_induct (P := fun u => u.sq t k = s.sq t k) (fun j u hu => (u.sq_setCq t j _ k).trans hu) _ rfl
  · refine State.forEach_all (I := fun _ => True) (Q := fun q u => (u.cq t q).waiting = []) (fun _ _ h => h)
      (fun k u _ => by rw [State.cq_setCq]) (fun k j u _ h => ?_) _ trivial q (List.mem_range.mpr hq)
    by_cases hj : k = j
    · rw [hj, State.cq_setCq]
    · rw [u.cq_setCq_ne t j _ hj]
      exact h

/-- A tenant whose reset starts. -/
def Tenant.resetStarts (x : Tenant) (byDetach : Bool) : Tenant :=
  { x with
    st := .resetting, endDetached := byDetach, attachAfter := false, byDetach := byDetach,
    adapters := x.adapters.map (fun a => { a with silent := true }) }

/-- The tenant marked. -/
def State.resetMarked (byDetach : Bool) : State :=
  (((s.queuesAbandoned t).cqsCleared t).onTen t (Tenant.resetStarts · byDetach)).setReg (tReg t 0x10) 1

/-- What becomes of a request of the tenant. -/
def State.resetEntry (i : Nat) (s : State) : State :=
  if (s.slot i).state = 7 then s.onSlot i (fun x => { x with posted := true })
  else if s.inLaunched i then s.onSlot i (fun x => { x.setState 6 with ended := 10 })
  else (s.unreserve i).retire i 9 0

theorem State.tenResetStart_eq (byDetach : Bool) : s.tenResetStart t byDetach =
    (s.resetMarked t byDetach).forEach ((s.resetMarked t byDetach).entriesOfTenant t) State.resetEntry := rfl

theorem ResetKept.resetEntry {t : Nat} {s0 s : State} (h : ResetKept t s0 s) (i : Nat) : ResetKept t s0 (State.resetEntry i s) := by
  unfold State.resetEntry
  split
  · exact h.onSlot _ _
  · split
    · exact h.onSlot _ _
    · exact (h.unreserve i).retire i 9 0

/-- What a tenant's reset starts with. -/
structure ResetBegun (t : Nat) (u : State) (byDetach : Bool) : Prop where
  st : (u.ten t).st = .resetting
  ended : (u.ten t).endDetached = byDetach
  origin : (u.ten t).byDetach = byDetach
  queues : ∀ q, q < 8 → (u.cq t q).waiting = [] ∧ (u.sq t q).batches = [] ∧ (u.sq t q).ends = []
  status : u.rd (tReg t 0x10) = 1

theorem State.resetMarked_begun (byDetach : Bool) : ResetBegun t (s.resetMarked t byDetach) byDetach := by
  obtain ⟨hsq, hcq⟩ := (s.queuesAbandoned t).cqsCleared_spec t
  have hq := fun q (h : q < 8) => s.queuesAbandoned_sq t h
  unfold State.resetMarked
  generalize (s.queuesAbandoned t).cqsCleared t = v at hsq hcq ⊢
  have hten : (((v.onTen t (Tenant.resetStarts · byDetach)).setReg (tReg t 0x10) 1).ten t) = (v.ten t).resetStarts byDetach := by
    rw [State.setReg_ten, State.onTen, State.ten_setTen]
  refine ⟨by rw [hten]; rfl, by rw [hten]; rfl, by rw [hten]; rfl, fun q hlt => ?_, State.rd_setReg _ _ _⟩
  have h1 : ((v.onTen t (Tenant.resetStarts · byDetach)).setReg (tReg t 0x10) 1).cq t q = v.cq t q := by
    rw [State.cq, hten]
    rfl
  have h2 : ((v.onTen t (Tenant.resetStarts · byDetach)).setReg (tReg t 0x10) 1).sq t q = v.sq t q := by
    rw [State.sq, hten]
    rfl
  rw [h1, h2, hsq]
  exact ⟨hcq q hlt, hq q hlt⟩

theorem ResetBegun.kept {t : Nat} {s u : State} {byDetach : Bool} (h : ResetBegun t s byDetach) (k : ResetKept t s u) : ResetBegun t u byDetach := by
  obtain ⟨rings, hr⟩ := k.ten
  refine ⟨by rw [hr]; exact h.st, by rw [hr]; exact h.ended, by rw [hr]; exact h.origin, fun q hq => ?_, ?_⟩
  · rw [State.cq, State.sq, hr]
    exact h.queues q hq
  · rw [k.regs _ (by unfold tReg; omega)]
    exact h.status

theorem State.tenResetStart_begun (byDetach : Bool) : ResetBegun t (s.tenResetStart t byDetach) byDetach := by
  have h := s.resetMarked_begun t byDetach
  rw [State.tenResetStart_eq]
  exact h.kept ((ResetKept.refl h.st).forEach (fun i _ hu => hu.resetEntry i) _)

end

/-! ### Events -/

section
variable {s : State} {ch : Fin 4} {t : Fin 64}

theorem State.setRf_ten (s : State) (o hi lo v k : Nat) : (s.setRf o hi lo v).ten k = s.ten k := s.setReg_ten o _ k

theorem State.attachTen_of_detached (h : (s.ten t).st = .detached) : s.attachTen t = s.setTen t { s.ten t with st := .attached } := by
  rw [State.attachTen, h]
  rfl

theorem State.attachTen_of_attached (h : (s.ten t).st = .attached) :
    s.attachTen t = ((s.tenResetStart t false).bump (cntTen t 5) 1).event 10 := by
  rw [State.attachTen, h]

theorem State.attachTen_of_resetting (h : (s.ten t).st = .resetting) : s.attachTen t = s.setTen t { s.ten t with attachAfter := true } := by
  rw [State.attachTen, h]
  rfl

theorem State.detachTen_of_detached (h : (s.ten t).st = .detached) : s.detachTen t = s := by rw [State.detachTen, h]

theorem State.detachTen_of_attached (h : (s.ten t).st = .attached) : s.detachTen t = s.tenResetStart t true := by rw [State.detachTen, h]

theorem State.detachTen_of_resetting (h : (s.ten t).st = .resetting) : s.detachTen t = s.setTen t { s.ten t with endDetached := true } := by
  rw [State.detachTen, h]
  rfl

theorem State.resetTen_of_attached (h : (s.ten t).st = .attached) : s.resetTen t = s.tenResetStart t false := if_pos ((s.attached_iff t).mpr h)

theorem State.resetTen_of_other (h : (s.ten t).st ≠ .attached) : s.resetTen t = s := if_neg (fun e => h ((s.attached_iff t).mp e))

variable (hup : s.hapUp = true) (hen : bit (s.rd 0x700000) ch = true) (hc : (s.chan ch).inPosted ≠ 0) (hh : s.home t = ch)
include hup hen hc hh

theorem State.eventIn_of_home (f : State → State) : s.eventIn ch t f = .next (f (s.setRf 0x700010 ch ch 0)) := by
  have hhome : (s.setRf 0x700010 ch ch 0).home t = ch := by
    rw [State.home, State.rf, State.setRf, State.rd_setReg_ne _ _ (by omega)]
    exact hh
  unfold State.eventIn
  dsimp only
  rw [if_neg (by rw [hup]; decide), if_neg (by rw [hen]; simpa using hc), hhome, if_pos rfl]

theorem exec_events : exec (.attach ch t) s = .next ((s.setRf 0x700010 ch ch 0).attachTen t) ∧
    exec (.detach ch t) s = .next ((s.setRf 0x700010 ch ch 0).detachTen t) ∧
    exec (.reset ch t) s = .next ((s.setRf 0x700010 ch ch 0).resetTen t) := by
  change execAttach ch t s = _ ∧ execDetach ch t s = _ ∧ execReset ch t s = _
  rw [execAttach, execDetach, execReset]
  exact ⟨State.eventIn_of_home hup hen hc hh _, State.eventIn_of_home hup hen hc hh _, State.eventIn_of_home hup hen hc hh _⟩

end

/-- An ATTACH counted and pending leaves the reset begun. -/
theorem ResetBegun.attached {t : Nat} {u : State} {b : Bool} (h : ResetBegun t u b) : ResetBegun t ((u.bump (cntTen t 5) 1).event 10) b := by
  have hten : ((u.bump (cntTen t 5) 1).event 10).tenants = u.tenants := by
    obtain ⟨regs, hb⟩ := u.bump_spec (cntTen t 5) 1
    rw [hb]
    exact State.setReg_tenants _ 0x30118 _
  have hst : ((u.bump (cntTen t 5) 1).event 10).ten t = u.ten t := congrArg (Sparse.get Tenant.init · t) hten
  refine ⟨by rw [hst]; exact h.st, by rw [hst]; exact h.ended, by rw [hst]; exact h.origin, fun q hq => ?_, ?_⟩
  · rw [State.cq, State.sq, hst]
    exact h.queues q hq
  · rw [State.event_rd_ne _ _ (by unfold tReg; omega), State.rd_bump_ne _ _ (by unfold tReg cntTen; omega)]
    exact h.status

theorem State.event_pending (s : State) {n : Nat} (h : n < 64) : ((s.event n).rd 0x30118).getLsbD n = true := by
  rw [State.event_pendingBit, w64, BitVec.getLsbD_ofNat, Nat.testBit_two_pow_self]
  simp [h]

/-! ### Credits and outbound messages -/

section
variable {s : State} {ch : Fin 4}

theorem exec_credits (hup : s.hapUp = true) :
    exec (.creditReturn ch .posted) s = .next (s.setChan ch { s.chan ch with outPosted := (s.chan ch).outPosted + 1 }) ∧
    exec (.creditReturn ch .nonposted) s = .next (s.setChan ch { s.chan ch with outNon := (s.chan ch).outNon + 1 }) :=
  ⟨congrArg Host.Outcome.next (if_neg (by rw [hup]; decide)), congrArg Host.Outcome.next (if_neg (by rw [hup]; decide))⟩

theorem exec_badBeats (hup : s.hapUp = true) (n : Nat) : exec (.badBeat ch .dataWithoutHeader) s = .next (s.beatErr 1) ∧
    exec (.badBeat ch .headerWhileOwed) s = .next (s.beatErr 1) ∧ exec (.badBeat ch (.withoutCredit n)) s = .next (s.beatErr n) :=
  ⟨congrArg Host.Outcome.next (if_neg (by rw [hup]; decide)), congrArg Host.Outcome.next (if_neg (by rw [hup]; decide)),
    congrArg Host.Outcome.next (if_neg (by rw [hup]; decide))⟩

theorem State.sends_iff (s : State) (c : Nat) : s.sends c = true ↔ s.hapUp = true ∧ bit (s.rd 0x700000) c = true ∧ s.halted = false := by
  simp [State.sends, and_assoc]

theorem execWriteOutbound_eq {m : OutMsg} {rest : List OutMsg} (h : (s.chan ch).posted = m :: rest) : exec (.writeOutbound ch) s =
    .next (if s.sends ch && decide (1 + m.data.length / 64 ≤ (s.chan ch).outPosted) then
        (s.setChan ch { s.chan ch with posted := rest, outPosted := (s.chan ch).outPosted - (1 + m.data.length / 64) }).send
          (.host ch m.hdr m.data)
      else s) := by
  refine congrArg Host.Outcome.next ?_
  rw [h] <;> rfl

/-- Whether a posted message of the READ's tenant waits before it. -/
def State.readHeld (s : State) (ch : Fin 4) (r : OutRead) : Bool := (s.chan ch).posted.any (fun m => bits (nth 0 m.hdr 0) 59 54 == r.tenant)

theorem State.readHeld_iff {r : OutRead} : s.readHeld ch r = true ↔ ∃ m ∈ (s.chan ch).posted, bits (nth 0 m.hdr 0) 59 54 = r.tenant := by
  simp [State.readHeld]

/-- The state in which the oldest READ of a channel has left. -/
def State.readLeft (s : State) (ch : Fin 4) (r : OutRead) (rest : List OutRead) : State :=
  let x := s.chan ch
  let r1 : OutRead := { r with tag := x.nextTag % 65536, ch := ch }
  let s1 := s.setChan ch { x with reads := rest, outNon := x.outNon - 1, nextTag := (x.nextTag + 1) % 65536 }
  ({ s1 with reads := s1.reads ++ [r1] }).send (.host ch (mkHdr 8 r.tenant r1.tag (r.len - 1) 0 0 r.off 0) [])

theorem execReadOutbound_eq {r : OutRead} {rest : List OutRead} (h : (s.chan ch).reads = r :: rest) : exec (.readOutbound ch) s =
    .next (if s.sends ch && decide (1 ≤ (s.chan ch).outNon) && !s.readHeld ch r &&
        decide ((s.reads.filter (fun y => y.ch == ch.val)).length < 256) then s.readLeft ch r rest else s) := by
  refine congrArg Host.Outcome.next ?_
  rw [h] <;> rfl

theorem State.readLeft_spec (s : State) (ch : Fin 4) (r : OutRead) (rest : List OutRead) : ((s.readLeft ch r rest).chan ch).reads = rest ∧
    ((s.readLeft ch r rest).chan ch).outNon = (s.chan ch).outNon - 1 ∧
    (s.readLeft ch r rest).reads = s.reads ++ [{ r with tag := (s.chan ch).nextTag % 65536, ch := ch }] ∧
    (s.readLeft ch r rest).out = s.out ++ [.host ch (mkHdr 8 r.tenant ((s.chan ch).nextTag % 65536) (r.len - 1) 0 0 r.off 0) []] := by
  have hch : (s.readLeft ch r rest).chan ch =
      { s.chan ch with reads := rest, outNon := (s.chan ch).outNon - 1, nextTag := ((s.chan ch).nextTag + 1) % 65536 } :=
    s.chan_setChan ch _
  rw [hch]
  exact ⟨rfl, rfl, rfl, rfl⟩

end

/-- Settles O40: events from the three states of a tenant, the reset they start, and what leaves a channel under credits. -/
theorem hostEventsCreditsAndOutboundMessages : Obligations.HostEventsCreditsAndOutboundMessages := by
  refine ⟨fun s ch t hup hen hc hh => ?_, fun s ch hup => ⟨(exec_credits hup).1, (exec_credits hup).2, fun n hn => ?_⟩,
    fun s ch m rest h => ⟨fun hup hen hha hcr => ?_, fun hno => ?_⟩, fun s ch r rest h => ⟨fun hup hen hha hcr hn hb => ?_, fun hno => ?_⟩⟩
  · obtain ⟨ha, hd, hr⟩ := exec_events hup hen hc hh
    have hten := s.setRf_ten 0x700010 ch ch 0 t
    generalize s.setRf 0x700010 ch ch 0 = u at ha hd hr hten ⊢
    refine ⟨fun hst => ⟨?_, ?_, ?_⟩, fun hst => ⟨?_, ?_, ?_⟩, fun hst => ⟨?_, ?_, ?_⟩⟩
    all_goals rw [← hten] at hst
    · rw [ha, State.attachTen_of_detached hst, hten]
    · rw [hd, State.detachTen_of_detached hst]
    · rw [hr, State.resetTen_of_other (by rw [hst]; decide)]
    · obtain h := (u.tenResetStart_begun t false).attached
      exact ⟨_, ha.trans (congrArg _ (State.attachTen_of_attached hst)), h.st, h.ended, State.event_pending _ (by decide), h.status⟩
    · have h := u.tenResetStart_begun t true
      exact ⟨_, hd.trans (congrArg _ (State.detachTen_of_attached hst)), h.st, h.ended, h.origin, h.queues⟩
    · have h := u.tenResetStart_begun t false
      exact ⟨_, hr.trans (congrArg _ (State.resetTen_of_attached hst)), h.st, h.ended, h.origin⟩
    · rw [ha, State.attachTen_of_resetting hst, hten]
    · rw [hd, State.detachTen_of_resetting hst, hten]
    · rw [hr, State.resetTen_of_other (by rw [hst]; decide)]
  · obtain ⟨h1, h2, h3⟩ := exec_badBeats (ch := ch) hup n
    refine ⟨h1.trans ?_, h2.trans ?_, h3.trans ?_⟩
    · rw [State.beatErr, State.bump_one]
    · rw [State.beatErr, State.bump_one]
    · rw [State.beatErr, State.bump_of_ne_zero _ _ (by omega)]
  · rw [execWriteOutbound_eq h, if_pos (by rw [(s.sends_iff ch).mpr ⟨hup, hen, hha⟩, decide_eq_true hcr]; rfl)]
  · rw [execWriteOutbound_eq h, if_neg]
    rw [Bool.and_eq_true, s.sends_iff, decide_eq_true_eq]
    rintro ⟨⟨-, hen, hha⟩, hcr⟩
    rcases hno with hno | hno | hno
    · exact absurd (hno.symm.trans hha) (by decide)
    · exact absurd (hno.symm.trans hen) (by decide)
    · omega
  · rw [execReadOutbound_eq h, if_pos]
    · exact ⟨_, rfl, s.readLeft_spec ch r rest⟩
    · rw [(s.sends_iff ch).mpr ⟨hup, hen, hha⟩, decide_eq_true (show 1 ≤ (s.chan ch).outNon from hcr), decide_eq_true hn,
        Bool.eq_false_iff.mpr (fun e => hb (State.readHeld_iff.mp e))]
      rfl
  · rw [execReadOutbound_eq h, if_neg]
    rw [Bool.and_eq_true, Bool.and_eq_true, Bool.and_eq_true, s.sends_iff, decide_eq_true_eq, decide_eq_true_eq, Bool.not_eq_true']
    rintro ⟨⟨⟨⟨-, -, hha⟩, hcr⟩, hb⟩, hn⟩
    rcases hno with hno | hno | hno | hno
    · exact absurd (hno.symm.trans hha) (by decide)
    · omega
    · omega
    · exact absurd (State.readHeld_iff.mpr hno) (by rw [hb]; decide)

end Sys2Proof.Machine
end

section
/-! PROOF. A tenant's submission and completion queues (15_host_attach.md R337, R338, R342, R343). -/

namespace Sys2Proof.Machine

/-! ### The queues' own laws -/

section
variable (s : State) (t q : Nat)

@[simp] theorem State.setReg_sq (o : Nat) (v : W64) (k j : Nat) : (s.setReg o v).sq k j = s.sq k j := rfl
@[simp] theorem State.setReg_cq (o : Nat) (v : W64) (k j : Nat) : (s.setReg o v).cq k j = s.cq k j := rfl
@[simp] theorem State.rd_setSq (x : SubQueue) (o : Nat) : (s.setSq t q x).rd o = s.rd o := State.rd_of_regs rfl rfl o
@[simp] theorem State.rd_setCq (x : CplQueue) (o : Nat) : (s.setCq t q x).rd o = s.rd o := State.rd_of_regs rfl rfl o

theorem State.vec_onTen {f : Tenant → Tenant} (h : ∀ x, (f x).vecs = x.vecs) (k : Nat) : (s.onTen t f).vec t k = s.vec t k := by
  rw [State.vec, State.onTen, State.ten_setTen, h, State.vec]

@[simp] theorem State.vec_setCq (x : CplQueue) (k : Nat) : (s.setCq t q x).vec t k = s.vec t k := by
  unfold State.setCq
  refine s.vec_onTen t ?_ k
  exact fun _ => rfl

theorem State.vecEvent_pending (v : Nat) : ((s.vecEvent t v).vec t v).pending = (s.vec t v).pending + 1 := by
  rw [State.vec, State.vecEvent, State.onTen, State.ten_setTen, Sparse.get_put_self, State.vec]

theorem State.cq_vecEvent (v k : Nat) : (s.vecEvent t v).cq t k = s.cq t k := by
  unfold State.vecEvent
  refine s.cq_onTen t ?_ k
  exact fun _ => rfl

theorem State.bufferWrite_eq (f : State → State) (hup : s.hapUp = true) (ha : s.attached t = true) : s.tenWrite t f = .next (f s) :=
  congrArg Host.Outcome.next (if_pos (by rw [hup, ha]; rfl))

end

/-! ### Doorbells -/

section
variable {s : State} {t : Fin 64} {q : Fin 8} {v : W64} (hup : s.hapUp = true) (ha : s.attached t = true)

section
include hup ha

theorem execTenSqTail_eq : exec (.tenSqTail t q v) s = .next (s.ringDoorbell t q (bits v 15 0)) := by
  change execTenSqTail t q v s = _
  rw [execTenSqTail, s.bufferWrite_eq t _ hup ha]

theorem execTenCqHead_eq : exec (.tenCqHead t q v) s = .next (s.returnCq t q (bits v 15 0)) := by
  change execTenCqHead t q v s = _
  rw [execTenCqHead, s.bufferWrite_eq t _ hup ha]

theorem execTenSqCfg_eq : exec (.tenSqCfg t q v) s = .next (s.cfgSq t q v) := by
  change execTenSqCfg t q v s = _
  rw [execTenSqCfg, s.bufferWrite_eq t _ hup ha]

theorem execTenCqCfg_eq : exec (.tenCqCfg t q v) s = .next (s.cfgCq t q v) := by
  change execTenCqCfg t q v s = _
  rw [execTenCqCfg, s.bufferWrite_eq t _ hup ha]

end

end

section
variable (s : State) (t q : Nat)

/-- How far a doorbell moves the tail. -/
def State.doorbellStep (n : Nat) : Nat := (n + s.sqSize t q - (s.sq t q).tail % s.sqSize t q) % s.sqSize t q

/-- The queue after a doorbell that is taken. -/
def State.doorbellTaken (n : Nat) : State :=
  (s.setSq t q { s.sq t q with
    tail := (s.sq t q).tail + s.doorbellStep t q n, ends := (s.sq t q).ends ++ [(s.sq t q).tail + s.doorbellStep t q n] }).setReg
    (sqReg t q 0x10) (w64 n)

variable {s t q}

theorem State.ringDoorbell_of_error (h : s.sqError t q = true) (n : Nat) : s.ringDoorbell t q n = s := if_pos h

section
variable (he : s.sqError t q = false) (hon : s.sqOn t q = true) {n : Nat}
include he hon

theorem State.ringDoorbell_of_taken (hn : n < s.sqSize t q) (hd : s.doorbellStep t q n ≠ 0)
    (hf : (s.sq t q).tail - s.sqHead t q + s.doorbellStep t q n < s.sqSize t q) : s.ringDoorbell t q n = s.doorbellTaken t q n := by
  refine (if_neg (by rw [he]; decide)).trans ((if_neg (by rw [hon]; decide)).trans ((if_neg (Nat.not_le.mpr hn)).trans
    ((if_neg hd).trans (if_neg (Nat.not_le.mpr hf)))))

theorem State.ringDoorbell_of_bad (h : s.sqSize t q ≤ n ∨ (s.doorbellStep t q n ≠ 0 ∧
    s.sqSize t q ≤ (s.sq t q).tail - s.sqHead t q + s.doorbellStep t q n)) : s.ringDoorbell t q n = s.sqFail t q := by
  refine (if_neg (by rw [he]; decide)).trans ((if_neg (by rw [hon]; decide)).trans ?_)
  by_cases hn : s.sqSize t q ≤ n
  · exact if_pos hn
  · obtain ⟨hd, hf⟩ := h.resolve_left hn
    exact (if_neg hn).trans ((if_neg hd).trans (if_pos hf))

end

theorem State.sqFail_of_reading (h : (s.sq t q).reading = true) : s.sqFail t q = s.setRf (sqReg t q 0x18) 16 16 1 := by
  have hten := (s.setRf_frame (sqReg t q 0x18) 16 16 1).1
  unfold State.sqFail State.setSqError
  dsimp only
  rw [if_pos (by rw [State.sq_of_tenants hten, h])]

theorem State.doorbellTaken_spec (n : Nat) : ((s.doorbellTaken t q n).sq t q).tail = (s.sq t q).tail + s.doorbellStep t q n ∧
    ((s.doorbellTaken t q n).sq t q).ends = (s.sq t q).ends ++ [(s.sq t q).tail + s.doorbellStep t q n] ∧
    ((s.doorbellTaken t q n).sq t q).batches = (s.sq t q).batches ∧ (s.doorbellTaken t q n).rd (sqReg t q 0x10) = w64 n ∧
    (s.doorbellTaken t q n).sqError t q = s.sqError t q ∧ (s.doorbellTaken t q n).rods = s.rods ∧ (s.doorbellTaken t q n).hbm = s.hbm := by
  unfold State.doorbellTaken
  refine ⟨?_, ?_, ?_, State.rd_setReg _ _ _, ?_, rfl, rfl⟩
  · rw [State.setReg_sq, State.sq_setSq]
  · rw [State.setReg_sq, State.sq_setSq]
  · rw [State.setReg_sq, State.sq_setSq]
  · rw [State.sqError, State.rd_setReg_ne _ _ (by unfold sqReg tReg; omega), State.rd_setSq, State.sqError]

end

/-! ### Fetches -/

section
variable (s : State) (t : Fin 64) (q : Fin 8)

/-- The queue after a READ of its next entries has been queued. -/
def State.fetching (n : Nat) : State :=
  let x := s.sq t q
  let cq := s.cqOf t q
  let h := s.home t
  let s2 := (s.setCq t cq { s.cq t cq with reserved := (s.cq t cq).reserved + n }).setSq t q { x with reading := true, rd := x.rd + n }
  s2.setChan h { s2.chan h with
    reads := (s2.chan h).reads ++
      [⟨0, h, t, (s.rd (sqReg t q 0)).toNat + 64 * (x.rd % s.sqSize t q), 64 * n, [], q, x.rd, n, x.epoch, none⟩] }

variable {s t q}

theorem State.fetchCount_eq {e : Nat} {rest : List Nat} (h : (s.sq t q).ends = e :: rest) : s.fetchCount t q =
    min (min (e - (s.sq t q).rd) (64 - (s.sq t q).rd % 64))
      (min (s.sqSize t q - (s.sq t q).rd % s.sqSize t q) (s.cqFree t (s.cqOf t q))) := by
  rw [State.fetchCount, h] <;> rfl

theorem execSqFetch_of_room (hup : s.hapUp = true) (hha : s.halted = false) (ha : s.attached t = true) (hon : s.sqOn t q = true)
    (he : s.sqError t q = false) (hr : (s.sq t q).reading = false) {e : Nat} {rest : List Nat} (hends : (s.sq t q).ends = e :: rest)
    (hn : s.fetchCount t q ≠ 0) : exec (.sqFetch t q) s = .next (s.fetching t q (s.fetchCount t q)) := by
  refine congrArg Host.Outcome.next ((if_neg ?_).trans (if_neg hn))
  rw [hup, hha, ha, hon, he, hr, hends]
  simp

theorem execSqFetch_of_none (h : s.sqOn t q = false ∨ s.sqError t q = true ∨ (s.sq t q).reading = true ∨ (s.sq t q).ends = [] ∨
    s.halted = true) : exec (.sqFetch t q) s = .next s := by
  refine congrArg Host.Outcome.next (if_pos ?_)
  rcases h with h | h | h | h | h <;> simp [h]

theorem State.fetching_spec (n : Nat) : ((s.fetching t q n).sq t q).reading = true ∧ ((s.fetching t q n).sq t q).rd = (s.sq t q).rd + n ∧
    ((s.fetching t q n).sq t q).ends = (s.sq t q).ends ∧
    ((s.fetching t q n).cq t (s.cqOf t q)).reserved = (s.cq t (s.cqOf t q)).reserved + n ∧
    ((s.fetching t q n).chan (s.home t)).reads = (s.chan (s.home t)).reads ++
      [⟨0, s.home t, t, (s.rd (sqReg t q 0)).toNat + 64 * ((s.sq t q).rd % s.sqSize t q), 64 * n, [], q, (s.sq t q).rd, n,
        (s.sq t q).epoch, none⟩] ∧
    (s.fetching t q n).out = s.out ∧ (s.fetching t q n).slate = s.slate := by
  have hsq : (s.fetching t q n).sq t q = { s.sq t q with reading := true, rd := (s.sq t q).rd + n } :=
    (s.setCq t (s.cqOf t q) { s.cq t (s.cqOf t q) with reserved := (s.cq t (s.cqOf t q)).reserved + n }).sq_setSq t q _
  have hcq : (s.fetching t q n).cq t (s.cqOf t q) = { s.cq t (s.cqOf t q) with reserved := (s.cq t (s.cqOf t q)).reserved + n } :=
    ((s.setCq t (s.cqOf t q) { s.cq t (s.cqOf t q) with reserved := (s.cq t (s.cqOf t q)).reserved + n }).cq_setSq t q _ _).trans
      (s.cq_setCq t (s.cqOf t q) _)
  rw [hsq, hcq]
  refine ⟨rfl, rfl, rfl, rfl, ?_, rfl, rfl⟩
  unfold State.fetching
  rw [State.chan_setChan]
  rfl

end

/-! ### Completions -/

section
variable (s : State) (t : Fin 64) (q : Fin 8)

/-- A completion queue after an entry has been written. -/
def State.posting (c : Completion) : State :=
  let x := s.cq t q
  let size := s.cqSize t q
  let s1 := s.hostWrite t ((s.rd (cqReg t q 0)).toNat + 32 * (x.wr % size)) (bytesOf (c.words (x.wr / size % 2 == 0) s.time))
  let s2 := s1.setCq t q { x with
    wr := x.wr + 1, waiting := x.waiting.erase c, reserved := if c.resv then x.reserved - 1 else x.reserved }
  if bit (s.rd (cqReg t q 8)) 20 then s2.vecEvent t (s.rf (cqReg t q 8) 19 16) else s2

variable {s t q}

theorem execCqPost_of_none (hw : ∀ c ∈ (s.cq t q).waiting, c.resv = false) (hf : s.cqFree t q = 0) : exec (.cqPost t q) s = .next s := by
  have h : s.postable t q = none := by
    rw [State.postable, List.find?_eq_none]
    intro c hc
    rw [hw c hc, hf]
    decide
  refine congrArg Host.Outcome.next ?_
  rw [h] <;> rfl

theorem execCqPost_of_some {c : Completion} (hp : s.postable t q = some c) (hup : s.hapUp = true) (ha : s.attached t = true)
    (hon : s.cqOn t q = true) (hk : c.kind ≠ 0) : exec (.cqPost t q) s = .next (s.posting t q c) := by
  refine congrArg Host.Outcome.next ?_
  rw [hp]
  refine (if_neg (by rw [hup, ha, hon]; decide)).trans (if_neg ?_)
  simp [hk]

theorem State.posting_spec (c : Completion) : ((s.posting t q c).cq t q).wr = (s.cq t q).wr + 1 ∧
    ((s.posting t q c).cq t q).waiting = (s.cq t q).waiting.erase c ∧ ((s.posting t q c).cq t q).head = (s.cq t q).head ∧
    (s.posting t q c).slate = s.slate ∧
    (s.posting t q c).chans = (s.hostWrite t ((s.rd (cqReg t q 0)).toNat + 32 * ((s.cq t q).wr % s.cqSize t q))
      (bytesOf (c.words ((s.cq t q).wr / s.cqSize t q % 2 == 0) s.time))).chans ∧
    (bit (s.rd (cqReg t q 8)) 20 = true → ((s.posting t q c).vec t (s.rf (cqReg t q 8) 19 16)).pending =
      (s.vec t (s.rf (cqReg t q 8) 19 16)).pending + 1) ∧
    (bit (s.rd (cqReg t q 8)) 20 = false → ((s.posting t q c).ten t).vecs = (s.ten t).vecs) := by
  unfold State.posting
  dsimp only
  obtain ⟨sec, chans, fab, out, hu⟩ := (s.hostWrite_sent t ((s.rd (cqReg t q 0)).toNat + 32 * ((s.cq t q).wr % s.cqSize t q))
    (bytesOf (c.words ((s.cq t q).wr / s.cqSize t q % 2 == 0) s.time))).frame
  rw [hu]
  split
  case isTrue hb =>
    rw [State.cq_vecEvent, State.cq_setCq]
    refine ⟨rfl, rfl, rfl, rfl, rfl, fun _ => ?_, fun h => absurd (hb.symm.trans h) (by decide)⟩
    rw [State.vecEvent_pending, State.vec_setCq]
    rfl
  case isFalse hb =>
    rw [State.cq_setCq]
    refine ⟨rfl, rfl, rfl, rfl, rfl, fun h => absurd h hb, fun _ => ?_⟩
    rw [State.setCq, State.onTen, State.ten_setTen]
    rfl

end

section
variable {s : State} {t q : Nat}

theorem State.returnCq_of_written {n : Nat} (hon : s.cqOn t q = true) (hn : n < s.cqSize t q)
    (hd : (s.cq t q).head + (n + s.cqSize t q - (s.cq t q).head % s.cqSize t q) % s.cqSize t q ≤ (s.cq t q).wr) : s.returnCq t q n =
    (s.setCq t q { s.cq t q with
      head := (s.cq t q).head + (n + s.cqSize t q - (s.cq t q).head % s.cqSize t q) % s.cqSize t q }).setReg (cqReg t q 0x10) (w64 n) := by
  refine if_neg ?_
  simp only [hon, Bool.not_true, Bool.false_or, Bool.or_eq_true, decide_eq_true_eq]
  omega

theorem State.returnCq_of_bad {n : Nat} (h : s.cqSize t q ≤ n ∨
    (s.cq t q).wr < (s.cq t q).head + (n + s.cqSize t q - (s.cq t q).head % s.cqSize t q) % s.cqSize t q) : s.returnCq t q n = s := by
  refine if_pos ?_
  rcases h with h | h <;> simp [h]

/-! ### Settings -/

/-- A submission queue's settings as they are stored. -/
def sqCfgBits (v : W64) : W64 := v &&& 0x71F01#64
/-- A completion queue's or an output ring's settings as they are stored. -/
def cqCfgBits (v : W64) : W64 := v &&& 0x1F1F01#64

/-- A submission queue enabled. -/
def State.sqStarted (s : State) (t q : Nat) (w : W64) : State :=
  ((s.setSq t q { SubQueue.init with epoch := (s.sq t q).epoch + 1 }).setReg (sqReg t q 0x10) 0).setReg (sqReg t q 8) w

/-- A completion queue enabled. -/
def State.cqStarted (s : State) (t q : Nat) (w : W64) : State :=
  ((s.setCq t q { s.cq t q with wr := 0, head := 0 }).setReg (cqReg t q 0x10) 0).setReg (cqReg t q 8) w

section
variable {v : W64}

theorem State.cfgSq_of_on (h : s.sqOn t q = true) : s.cfgSq t q v =
    if sqCfgBits v = setBits (s.rd (sqReg t q 8)) 0 0 0 then (s.abandonSq t q).setReg (sqReg t q 8) (sqCfgBits v) else s.inErr t := if_pos h

theorem State.cfgSq_of_off (h : s.sqOn t q = false) (h4 : 4 ≤ bits (sqCfgBits v) 12 8) (h16 : bits (sqCfgBits v) 12 8 ≤ 16)
    (hb : bit (sqCfgBits v) 0 = true) : s.cfgSq t q v =
    if s.cqOn t (bits (sqCfgBits v) 18 16) then s.sqStarted t q (sqCfgBits v) else s.inErr t := by
  refine (if_neg (by rw [h]; decide)).trans ((if_neg ?_).trans ?_)
  · change ¬(decide (bits (sqCfgBits v) 12 8 < 4) || decide (bits (sqCfgBits v) 12 8 > 16)) = true
    simp only [Bool.or_eq_true, decide_eq_true_eq]
    omega
  · by_cases hc : s.cqOn t (bits (sqCfgBits v) 18 16) = true
    · rw [if_pos hc]
      exact (if_neg (by change ¬(bit (sqCfgBits v) 0 && !s.cqOn t (bits (sqCfgBits v) 18 16)) = true; rw [hb, hc]; decide)).trans (if_pos hb)
    · rw [if_neg hc]
      exact if_pos (by change (bit (sqCfgBits v) 0 && !s.cqOn t (bits (sqCfgBits v) 18 16)) = true; rw [hb, Bool.eq_false_iff.mpr hc]; rfl)

theorem State.cfgCq_of_on (h : s.cqOn t q = true) : s.cfgCq t q v =
    if cqCfgBits v = setBits (s.rd (cqReg t q 8)) 0 0 0 ∧ s.cqNeeded t q = false then s.setReg (cqReg t q 8) (cqCfgBits v) else s.inErr t := by
  refine (if_pos h).trans ?_
  refine if_congr ?_ rfl rfl
  change (decide (cqCfgBits v = setBits (s.rd (cqReg t q 8)) 0 0 0) && !s.cqNeeded t q) = true ↔ _
  simp

theorem State.cfgCq_of_off (h : s.cqOn t q = false) (h4 : 4 ≤ bits (cqCfgBits v) 12 8) (h16 : bits (cqCfgBits v) 12 8 ≤ 16)
    (hb : bit (cqCfgBits v) 0 = true) : s.cfgCq t q v = s.cqStarted t q (cqCfgBits v) := by
  refine (if_neg (by rw [h]; decide)).trans ((if_neg ?_).trans (if_pos hb))
  change ¬(decide (bits (cqCfgBits v) 12 8 < 4) || decide (bits (cqCfgBits v) 12 8 > 16)) = true
  simp only [Bool.or_eq_true, decide_eq_true_eq]
  omega

end

theorem State.abandonSq_emptied (w : W64) : (((s.abandonSq t q).setReg (sqReg t q 8) w).sq t q).batches = [] ∧
    (((s.abandonSq t q).setReg (sqReg t q 8) w).sq t q).ends = [] ∧ (((s.abandonSq t q).setReg (sqReg t q 8) w).sq t q).cur = [] := by
  rw [State.setReg_sq, (s.abandonSq_sq t q).1]
  exact ⟨rfl, rfl, rfl⟩

theorem State.sqStarted_spec (w : W64) : (s.sqStarted t q w).rd (sqReg t q 8) = w ∧ (s.sqStarted t q w).rd (sqReg t q 0x10) = 0 ∧
    ((s.sqStarted t q w).sq t q).tail = 0 ∧ (s.sqStarted t q w).rd (sqReg t q 0x18) = s.rd (sqReg t q 0x18) := by
  unfold State.sqStarted
  refine ⟨State.rd_setReg _ _ _, ?_, ?_, ?_⟩
  · rw [State.rd_setReg_ne _ _ (by unfold sqReg tReg; omega), State.rd_setReg]
  · rw [State.setReg_sq, State.setReg_sq, State.sq_setSq]
    rfl
  · rw [State.rd_setReg_ne _ _ (by unfold sqReg tReg; omega), State.rd_setReg_ne _ _ (by unfold sqReg tReg; omega), State.rd_setSq]

theorem State.cqStarted_spec (w : W64) : (s.cqStarted t q w).rd (cqReg t q 8) = w ∧ (s.cqStarted t q w).rd (cqReg t q 0x10) = 0 ∧
    ((s.cqStarted t q w).cq t q).wr = 0 ∧ ((s.cqStarted t q w).cq t q).head = 0 := by
  unfold State.cqStarted
  rw [State.setReg_cq, State.setReg_cq, State.cq_setCq]
  refine ⟨State.rd_setReg _ _ _, ?_, rfl, rfl⟩
  rw [State.rd_setReg_ne _ _ (by unfold cqReg tReg; omega), State.rd_setReg]

end

/-- Settles O41: each clause is the case of the doorbell, the fetch, the post, the head or the settings write that its conditions choose. -/
theorem submissionAndCompletionQueues : Obligations.SubmissionAndCompletionQueues := by
  refine ⟨fun s t q v hup ha => ⟨fun he => ?_, fun he hon => ⟨fun hn hd hf => ?_, fun h hr => ?_⟩⟩,
    fun s t q hup hha ha hon he hr e rest hends => fun hn => ?_, fun s t q h => execSqFetch_of_none h,
    fun s t q hw hf => execCqPost_of_none hw hf, fun s t q c hp hup ha hon hk => ⟨_, execCqPost_of_some hp hup ha hon hk, State.posting_spec c⟩,
    fun s t q v hup ha => ⟨fun hon hn hd => ?_, fun h => ?_⟩, fun s t q v hup ha => ?_⟩
  · rw [execTenSqTail_eq hup ha, State.ringDoorbell_of_error he]
  · obtain ⟨h1, h2, h3, h4, h5, h6, h7⟩ := State.doorbellTaken_spec (s := s) (t := t) (q := q) (bits v 15 0)
    exact ⟨_, (execTenSqTail_eq hup ha).trans (congrArg _ (State.ringDoorbell_of_taken he hon hn hd hf)), h1, h2, h3, h4, h5.trans he, h6, h7⟩
  · rw [execTenSqTail_eq hup ha, State.ringDoorbell_of_bad he hon h, State.sqFail_of_reading hr]
  · have hc := State.fetchCount_eq (s := s) (t := t) (q := q) hends
    refine ⟨_, execSqFetch_of_room hup hha ha hon he hr hends (by rw [hc]; exact hn), ?_⟩
    rw [hc]
    exact State.fetching_spec _
  · refine ⟨_, (execTenCqHead_eq hup ha).trans (congrArg _ (State.returnCq_of_written hon hn hd)), ?_, ?_, ?_, State.rd_setReg _ _ _⟩
    all_goals rw [State.setReg_cq, State.cq_setCq]
  · rw [execTenCqHead_eq hup ha, State.returnCq_of_bad h]
  · have herr : s.inErr t = s.bump (cntTen t 0) 1 := rfl
    have hsq := execTenSqCfg_eq (q := q) (v := v) hup ha
    have hcq := execTenCqCfg_eq (q := q) (v := v) hup ha
    refine ⟨fun hon hw => ?_, fun hon hw => ?_, fun hoff h4 h16 hb hc => ?_, fun hoff h4 h16 hb hc => ?_, fun hon hz hn => ?_,
      fun hon h => ?_, fun hoff h4 h16 hb => ?_⟩
    · rw [hsq, State.cfgSq_of_on hon, if_neg (by exact hw), herr]
    · exact ⟨_, hsq.trans (congrArg _ ((State.cfgSq_of_on hon).trans (if_pos hw))), State.rd_setReg _ _ _, State.abandonSq_emptied _⟩
    · rw [hsq, State.cfgSq_of_off hoff h4 h16 hb, if_neg (by exact fun h => absurd (hc.symm.trans h) (by decide)), herr]
    · exact ⟨_, hsq.trans (congrArg _ ((State.cfgSq_of_off hoff h4 h16 hb).trans (if_pos hc))), State.sqStarted_spec _⟩
    · rw [hcq, State.cfgCq_of_on hon, if_pos ⟨hz, hn⟩]
      rfl
    · rw [hcq, State.cfgCq_of_on hon, if_neg, herr]
      rintro ⟨hz, hn⟩
      rcases h with h | h
      · exact h hz
      · exact absurd (hn.symm.trans h) (by decide)
    · exact ⟨_, hcq.trans (congrArg _ (State.cfgCq_of_off hoff h4 h16 hb)), State.cqStarted_spec _⟩

end Sys2Proof.Machine
end

section
/-! PROOF. A tenant's output rings, input buffers and vectors, and the end of its reset (15_host_attach.md R336, R344 to R348). -/

namespace Sys2Proof.Machine

/-! ### The writes of a tenant's page -/

section
variable {s : State} {t : Fin 64} {r : Fin 1024} {v : W64} (hup : s.hapUp = true) (ha : s.attached t = true)
include hup ha

theorem execTenOringCfg_eq : exec (.tenOringCfg t r v) s = .next (s.cfgRing t r v) := by
  change execTenOringCfg t r v s = _
  rw [execTenOringCfg, s.bufferWrite_eq t _ hup ha]

theorem execTenOringHead_eq : exec (.tenOringHead t r v) s = .next (s.returnRing t r v) := by
  change execTenOringHead t r v s = _
  rw [execTenOringHead, s.bufferWrite_eq t _ hup ha]

theorem execTenInDone_eq : exec (.tenInDone t v) s = .next (s.bufDone t (bits v 15 0)) := by
  change execTenInDone t v s = _
  rw [execTenInDone, s.bufferWrite_eq t _ hup ha]

theorem execTenInFree_eq : exec (.tenInFree t v) s = .next (s.bufFree t (bits v 15 0)) := by
  change execTenInFree t v s = _
  rw [execTenInFree, s.bufferWrite_eq t _ hup ha]

theorem execTenVecMask_eq : exec (.tenVecMask t v) s = .next (s.setReg (tReg t 0x380) (v &&& 0xFFFF)) := by
  change execTenVecMask t v s = _
  rw [execTenVecMask, s.bufferWrite_eq t _ hup ha, State.maskVecs]

theorem execTenReset_eq : exec (.tenReset t v) s = .next (if bit v 0 then s.tenResetStart t false else s) := by
  change execTenReset t v s = _
  rw [execTenReset, s.bufferWrite_eq t _ hup ha, State.tenResetWrite, ha, Bool.and_true]

end

/-! ### Output rings -/

section
variable {s : State} {t r : Nat} {v : W64}

/-- A ring enabled. -/
def State.ringStarted (s : State) (t r : Nat) (w : W64) : State :=
  ((s.setRing t r OutRing.init).setReg (ringReg t r 0x18) 0).setReg (ringReg t r 8) w

theorem State.cfgRing_of_on (h : s.ringOn t r = true) : s.cfgRing t r v =
    if cqCfgBits v = setBits (s.rd (ringReg t r 8)) 0 0 0 ∧ ¬∃ i ∈ s.entriesOfTenant t, (s.slot i).ring = r then
      s.setReg (ringReg t r 8) (cqCfgBits v)
    else s.inErr t := by
  refine (if_pos h).trans (if_congr ?_ rfl rfl)
  change (decide (cqCfgBits v = setBits (s.rd (ringReg t r 8)) 0 0 0) &&
    !(s.entriesOfTenant t).any (fun i => (s.slot i).ring == r)) = true ↔ _
  simp

theorem State.cfgRing_of_off (h : s.ringOn t r = false) (h8 : 8 ≤ bits (cqCfgBits v) 12 8) (h20 : bits (cqCfgBits v) 12 8 ≤ 20)
    (hb : bit (cqCfgBits v) 0 = true) : s.cfgRing t r v = s.ringStarted t r (cqCfgBits v) := by
  refine (if_neg (by rw [h]; decide)).trans ((if_neg ?_).trans (if_pos hb))
  change ¬(decide (bits (cqCfgBits v) 12 8 < 8) || decide (bits (cqCfgBits v) 12 8 > 20)) = true
  simp only [Bool.or_eq_true, decide_eq_true_eq]
  omega

theorem State.ringStarted_spec (w : W64) : ((s.ringStarted t r w).ring t r).tail = 0 ∧ (s.ringStarted t r w).rd (ringReg t r 0x18) = 0 ∧
    (s.ringStarted t r w).rd (ringReg t r 8) = w := by
  refine ⟨?_, ?_, State.rd_setReg _ _ _⟩
  · rw [State.ring, State.ringStarted, State.setReg_ten, State.setReg_ten, State.setRing, State.onTen, State.ten_setTen, Sparse.get_put_self]
    rfl
  · rw [State.ringStarted, State.rd_setReg_ne _ _ (by unfold ringReg tReg; omega), State.rd_setReg]

theorem State.returnRing_eq : s.returnRing t r v =
    if v.toNat ≤ (s.ring t r).tail.toNat ∧ (s.ring t r).tail.toNat - v.toNat ≤ s.ringSize t r then s.setReg (ringReg t r 0x18) v else s.inErr t := by
  refine if_congr ?_ rfl rfl
  rw [Bool.and_eq_true, decide_eq_true_eq, decide_eq_true_eq]

end

/-! ### Input buffers -/

section
variable (s : State) (t b : Nat)

theorem State.bufState_setBuf (n : Nat) : (s.setBuf t b n).bufState t b = n := by
  rw [State.bufState, State.setBuf, State.onTen, State.ten_setTen, Sparse.get_put_self]

/-- INPUT_OPEN of the entries cleared. -/
def State.inputsClosed (l : List Nat) : State := s.forEach l (fun i s => s.onSlot i (fun x => { x with inputOpen := false }))

theorem State.inputsClosed_spec (l : List Nat) : (s.inputsClosed l).tenants = s.tenants ∧ (s.inputsClosed l).regs = s.regs ∧
    (∀ i ∈ l, ((s.inputsClosed l).slot i).inputOpen = false) ∧ ∀ i, i ∉ l → (s.inputsClosed l).slot i = s.slot i := by
  unfold State.inputsClosed
  refine ⟨?_, ?_, ?_, fun i hi => ?_⟩
  · refine State.forEach_induct (P := fun u => u.tenants = s.tenants) ?_ l rfl
    exact fun i u hu => hu
  · refine State.forEach_induct (P := fun u => u.regs = s.regs) ?_ l rfl
    exact fun i u hu => hu
  · refine State.forEach_all (I := fun _ => True) (Q := fun i u => (u.slot i).inputOpen = false) (fun _ _ h => h)
      (fun i u _ => by rw [State.slot_onSlot]) (fun i j u _ h => ?_) l trivial
    by_cases hj : i = j
    · rw [hj, State.slot_onSlot]
    · rw [State.onSlot, State.slot_setSlot_ne _ _ hj]
      exact h
  · refine State.forEach_mem (P := fun u => u.slot i = s.slot i) (fun j hj u hu => ?_) rfl
    rw [State.onSlot, State.slot_setSlot_ne _ _ (fun e => hi (by rw [e]; exact hj)), hu]

variable {s t b}

theorem State.bufDone_of_free (h : s.bufState t b = 0) (hb : b < s.rf (hReg t 0x20) 16 0) : s.bufDone t b = s.setBuf t b 2 :=
  if_pos (by rw [decide_eq_true h, decide_eq_true hb]; rfl)

theorem State.bufDone_of_open (h : s.bufState t b = 1) : s.bufDone t b = (s.setBuf t b 3).inputsClosed (s.namersOf t b) :=
  (if_neg (by simp [h])).trans (if_pos h)

theorem State.bufDone_of_other (h : 2 ≤ s.bufState t b) : s.bufDone t b = s.inErr t :=
  (if_neg (by rw [Bool.and_eq_true, decide_eq_true_eq]; omega)).trans (if_neg (by omega))

theorem State.bufDone_open_spec : let u := (s.setBuf t b 3).inputsClosed (s.namersOf t b)
    u.bufState t b = 3 ∧ u.regs = s.regs ∧ (∀ i ∈ s.namersOf t b, (u.slot i).inputOpen = false) ∧ ∀ i, i ∉ s.namersOf t b → u.slot i = s.slot i := by
  obtain ⟨hten, hregs, hin, hout⟩ := (s.setBuf t b 3).inputsClosed_spec (s.namersOf t b)
  refine ⟨?_, hregs, hin, hout⟩
  rw [State.bufState, State.ten, hten]
  exact s.bufState_setBuf t b 3

end

/-! ### Vectors -/

section
variable {s : State} {t : Fin 64} {k : Fin 16}

/-- A vector that has fired. -/
def State.vectorFired (s : State) (t : Fin 64) (k : Fin 16) : State :=
  (s.postMsg t ⟨mkHdr 3 t 0 0 0 0 k 0, []⟩).onTen t (fun x => { x with vecs := Sparse.put Vec.init x.vecs k Vec.init })

theorem execVectorFire_eq : exec (.vectorFire t k) s = .next (if s.hapUp = true ∧ s.attached t = true ∧ 0 < (s.vec t k).pending ∧
    (bits (s.rd (tReg t (0x300 + 8 * k))) 7 0 ≤ (s.vec t k).pending ∨
      (s.vec t k).oldest.toNat + 1000 * bits (s.rd (tReg t (0x300 + 8 * k))) 31 16 ≤ s.time.toNat) ∧
    bit (s.rd (tReg t 0x380)) k = false then s.vectorFired t k else s) := by
  refine congrArg Host.Outcome.next (if_congr ?_ rfl rfl)
  simp only [Bool.and_eq_true, Bool.or_eq_true, decide_eq_true_eq, Bool.not_eq_true', and_assoc, ge_iff_le]

theorem State.vectorFired_spec : ((s.vectorFired t k).vec t k).pending = 0 ∧
    ((s.vectorFired t k).chan (s.home t)).posted = (s.chan (s.home t)).posted ++ [⟨mkHdr 3 t 0 0 0 0 k 0, []⟩] ∧
    (s.vectorFired t k).regs = s.regs ∧ (s.vectorFired t k).out = s.out := by
  refine ⟨?_, ?_, rfl, rfl⟩
  · rw [State.vec, State.vectorFired, State.onTen, State.ten_setTen, Sparse.get_put_self]
    rfl
  · exact congrArg Chan.posted (s.chan_setChan (s.home t) _)

end

/-! ### The end of a tenant reset -/

theorem isCounter_inboundErrors : ∀ t : Fin 64, isCounter (cntTen t 0) = true := by decide

theorem regAt_sqStatus : ∀ t : Fin 64, regAt (sqReg t 0 0x18) =
    some ⟨⟨.tenSqStatus, 0x800118, [(0x10000, 64), (0x20, 8)], [⟨16, 16, .ro, 0, 0, 1⟩, ⟨15, 0, .ro, 0, 0, 65535⟩]⟩, [t, 0]⟩ := by decide

theorem regReset_sqStatus (d : Design) (t : Fin 64) : regReset d (sqReg t 0 0x18) = 0 := by
  rw [regReset, regAt_sqStatus t] <;> rfl

section
variable {s : State} {t : Fin 64}

/-- The tenant once its reset has ended, where no attachment waits behind it. -/
def State.resetEnded (s : State) (t : Fin 64) : State :=
  ((s.clearPage t).setTen t { Tenant.init with
    st := if (s.ten t).endDetached then .detached else .attached, adapters := (s.ten t).adapters }).setReg (tReg t 0x10) 2

theorem State.tenResetFinish_of_plain (ha : (s.ten t).attachAfter = false) (hd : (s.ten t).byDetach = false)
    (hp : ∀ p, p < 16 → ¬((s.part p).load.state = .loading ∧ (s.part p).load.tenant = t)) : s.tenResetFinish t = s.resetEnded t := by
  have hl : s.forEach (List.range 16) (fun p s =>
      if (s.part p).load.state = .loading && (s.part p).load.tenant = t then s.loadFail p 9 6 0 else s) = s := by
    refine State.forEach_mem (P := fun u => u = s) (fun p hmem u hu => ?_) rfl
    subst hu
    exact if_neg (by simpa using hp p (List.mem_range.mp hmem))
  unfold State.tenResetFinish State.resetEnded
  rw [hl]
  dsimp only
  rw [hd, ha]
  rfl

theorem execTenantResetEnd_eq : exec (.tenantResetEnd t) s =
    .next (if s.live = true ∧ (s.ten t).st = .resetting ∧ s.tenDrained t = true then s.tenResetFinish t else s) := by
  refine congrArg Host.Outcome.next (if_congr ?_ rfl rfl)
  simp only [Bool.and_eq_true, decide_eq_true_eq, and_assoc]

/-- A register of the page after the page has been cleared. -/
theorem State.rd_clearPage {o : Nat} (h : o ≠ cntTen t 5) : (s.clearPage t).rd o =
    if tReg t 0 ≤ o ∧ o < tReg t 0x10000 then regReset s.design o else s.rd o := by
  unfold State.clearPage
  dsimp only
  rw [State.rd_setReg_ne _ _ h]
  exact Sparse.get_clear _ _ _ _ _

theorem State.rd_resetEnded {o : Nat} (h : o ≠ tReg t 0x10) : (s.resetEnded t).rd o = (s.clearPage t).rd o := by
  unfold State.resetEnded
  rw [State.rd_setReg_ne _ _ h]
  exact State.rd_of_regs rfl rfl o

theorem State.resetEnded_ten : (s.resetEnded t).ten t =
    { Tenant.init with st := if (s.ten t).endDetached then .detached else .attached, adapters := (s.ten t).adapters } := by
  rw [State.resetEnded, State.setReg_ten, State.ten_setTen]

theorem State.resetEnded_rd : (s.resetEnded t).rd (tReg t 0x10) = 2 ∧ (s.resetEnded t).rd (cntTen t 5) = s.rd (cntTen t 5) ∧
    (s.resetEnded t).rd (cntTen t 0) = 0 ∧ (s.resetEnded t).rd (sqReg t 0 0x18) = 0 ∧
    (s.resetEnded t).rd (hReg t 0x10) = s.rd (hReg t 0x10) := by
  refine ⟨State.rd_setReg _ _ _, ?_, ?_, ?_, ?_⟩
  · rw [State.rd_resetEnded (by unfold cntTen tReg; omega), State.clearPage, State.rd_setReg]
  · rw [State.rd_resetEnded (by unfold cntTen tReg; omega), State.rd_clearPage (by unfold cntTen; omega),
      if_pos (by unfold cntTen tReg; omega), regReset_of_isCounter _ (isCounter_inboundErrors t)]
  · rw [State.rd_resetEnded (by unfold sqReg tReg; omega), State.rd_clearPage (by unfold sqReg cntTen tReg; omega),
      if_pos (by unfold sqReg tReg; omega), regReset_sqStatus]
  · rw [State.rd_resetEnded (by unfold hReg tReg; omega), State.rd_clearPage (by unfold hReg cntTen; omega),
      if_neg (by unfold hReg tReg; omega)]

end

/-- Settles O42: the rows of the tenant's page by their cases, and the end of a reset through the page cleared. -/
theorem ringsBuffersVectorsAndTenantReset : Obligations.RingsBuffersVectorsAndTenantReset := by
  refine ⟨fun s t r v hup ha => ?_, fun s t v hup ha => ?_, fun s t k hup ha => ⟨fun hp hd hm => ?_, fun h => ?_⟩,
    fun s t hl hst => ⟨fun hd => ?_, fun hd hat hby hp => ?_⟩⟩
  · have herr : s.inErr t = s.bump (cntTen t 0) 1 := rfl
    have hhead := execTenOringHead_eq (r := r) (v := v) hup ha
    have hcfg := execTenOringCfg_eq (r := r) (v := v) hup ha
    refine ⟨fun h1 h2 => ?_, fun h => ?_, fun hon hw hn => ?_, fun hon h => ?_, fun hoff h8 h20 hb => ?_⟩
    · rw [hhead, State.returnRing_eq, if_pos ⟨h1, h2⟩]
    · rw [hhead, State.returnRing_eq, if_neg (by omega), herr]
    · rw [hcfg, State.cfgRing_of_on hon, if_pos ⟨hw, hn⟩]
      rfl
    · rw [hcfg, State.cfgRing_of_on hon, if_neg, herr]
      rintro ⟨hw, hn⟩
      exact h.elim (fun h => h hw) hn
    · exact ⟨_, hcfg.trans (congrArg _ (State.cfgRing_of_off hoff h8 h20 hb)), State.ringStarted_spec _⟩
  · have herr : s.inErr t = s.bump (cntTen t 0) 1 := rfl
    have hdone := execTenInDone_eq (v := v) hup ha
    have hfree := execTenInFree_eq (v := v) hup ha
    refine ⟨fun h hb => ?_, fun h => ?_, fun h => ?_, fun h => ?_, fun h => ?_, execTenVecMask_eq hup ha, fun h => ?_, fun h => ?_⟩
    · exact ⟨_, hdone.trans (congrArg _ (State.bufDone_of_free h hb)), s.bufState_setBuf t _ 2, rfl, rfl⟩
    · exact ⟨_, hdone.trans (congrArg _ (State.bufDone_of_open h)), State.bufDone_open_spec⟩
    · rw [hdone, State.bufDone_of_other h, herr]
    · exact ⟨_, hfree.trans (congrArg _ (if_pos h)), s.bufState_setBuf t _ 0, rfl⟩
    · rw [hfree, State.bufFree, if_neg h, herr]
    · rw [execTenReset_eq hup ha, if_neg (by rw [h]; decide)]
    · have hb := s.tenResetStart_begun t false
      exact ⟨_, (execTenReset_eq hup ha).trans (congrArg _ (if_pos h)), hb.st, hb.ended, hb.status⟩
  · exact ⟨_, execVectorFire_eq.trans (congrArg _ (if_pos ⟨hup, ha, hp, hd, hm⟩)), State.vectorFired_spec⟩
  · rw [execVectorFire_eq, if_neg]
    rintro ⟨-, -, hp, hd, hm⟩
    rcases h with h | h | h
    · omega
    · exact h hd
    · exact absurd (hm.symm.trans h) (by decide)
  · rw [execTenantResetEnd_eq, if_neg]
    rintro ⟨-, -, h⟩
    exact absurd (hd.symm.trans h) (by decide)
  · refine ⟨_, execTenantResetEnd_eq.trans (congrArg _ ((if_pos ⟨hl, hst, hd⟩).trans (State.tenResetFinish_of_plain hat hby hp))), ?_⟩
    obtain ⟨h1, h2, h3, h4, h5⟩ := State.resetEnded_rd (s := s) (t := t)
    rw [State.resetEnded_ten]
    refine ⟨rfl, fun b => ?_, rfl, h1, h2, h3, h4, h5, rfl⟩
    rw [State.bufState, State.resetEnded_ten]
    rfl

end Sys2Proof.Machine
end

section
/-! PROOF. Lanes and lasers (14_exfe_optical_fabric.md R303, R312 to R314): a port table that lists a port at its reset value. -/

namespace Sys2Proof.Machine

/-- A block in service whose port table lists port 0 with the contents that an unlisted port reads as. -/
def listedPort : State := { State.reset with regs := [(0x10008, 0)], fab := { Fabric.init with ports := [(0, Port.init)] } }

theorem listedPort_fabUp : listedPort.fabUp = true := by decide

/-- With no source lit, a fault edge sends nothing and leaves the block as it is. -/
theorem exec_laserFaultEdge_listedPort : exec (.laserFaultEdge 0) listedPort = .next listedPort :=
  congrArg Host.Outcome.next (if_neg (by rw [listedPort_fabUp]; decide))

/-- Storing a port's reset value takes it off the table. -/
theorem setPort_listedPort : (listedPort.setPort 0 Port.init).fab.ports = [] := by decide

/-- Refutes O37: at a fault edge with no source lit nothing changes, while the statement has the port stored again; where the port table lists
the port at its reset value, storing it takes it off the table. -/
theorem not_lanesAndLasers : ¬ Obligations.LanesAndLasers := by
  intro h
  obtain ⟨-, -, -, -, -, hlaser⟩ := h
  obtain ⟨-, -, -, -, -, -, hedge⟩ := hlaser listedPort 0 0 0 false ⟨1, 0, 0⟩ listedPort_fabUp
  obtain ⟨t, ht, -, hfab⟩ := hedge
  have hs : listedPort = t := Host.Outcome.next.inj (exec_laserFaultEdge_listedPort.symm.trans ht)
  rw [← hs] at hfab
  have hports : [(0, Port.init)] = (listedPort.setPort 0 Port.init).fab.ports := congrArg Fabric.ports hfab
  rw [setPort_listedPort] at hports
  exact absurd hports (List.cons_ne_nil _ _)

end Sys2Proof.Machine
end

section
/-! PROOF. What a send over a link changes, and what the answers of operations beyond the block leave as they were
(14_exfe_optical_fabric.md R305 to R310, 06 R129, R143, 12 R271). -/

namespace Sys2Proof.Machine

/-! ### The sending side of a port -/

/-- From `x` to `y` only the sending side of a port has changed; the session moves on only at a key switch that was named. -/
structure SendSide (x y : Port) : Prop where
  fields : ∃ session switchAt txSeq txCount credReq credRsp credCtrl sent waiting owed, y = { x with
    session := session, switchAt := switchAt, txSeq := txSeq, txCount := txCount, credReq := credReq, credRsp := credRsp, credCtrl := credCtrl
    sent := sent, waiting := waiting, owed := owed }
  session : x.switchAt = none → y.switchAt = none ∧ y.session = x.session

theorem SendSide.refl (x : Port) : SendSide x x := ⟨⟨_, _, _, _, _, _, _, _, _, _, rfl⟩, fun h => ⟨h, rfl⟩⟩

theorem SendSide.trans {x y z : Port} (h : SendSide x y) (k : SendSide y z) : SendSide x z := by
  refine ⟨?_, fun hx => ?_⟩
  · obtain ⟨⟨_, _, _, _, _, _, _, _, _, _, rfl⟩, -⟩ := h
    obtain ⟨⟨_, _, _, _, _, _, _, _, _, _, rfl⟩, -⟩ := k
    exact ⟨_, _, _, _, _, _, _, _, _, _, rfl⟩
  · obtain ⟨hy, hs⟩ := h.session hx
    obtain ⟨hz, ht⟩ := k.session hy
    exact ⟨hz, ht.trans hs⟩

theorem SendSide.of_same {x y : Port} (h : ∃ txSeq txCount credReq credRsp credCtrl sent waiting owed, y = { x with
    txSeq := txSeq, txCount := txCount, credReq := credReq, credRsp := credRsp, credCtrl := credCtrl, sent := sent, waiting := waiting
    owed := owed }) : SendSide x y := by
  obtain ⟨_, _, _, _, _, _, _, _, rfl⟩ := h
  exact ⟨⟨_, _, _, _, _, _, _, _, _, _, rfl⟩, fun h => ⟨h, rfl⟩⟩

theorem Port.spend_side (x : Port) (c : LChan) (n : Nat) : SendSide x (x.spend c n) := by
  cases c <;> exact .of_same ⟨_, _, _, _, _, _, _, _, rfl⟩

theorem Port.owe_side (x : Port) (f : Flit) : SendSide x (x.owe f) := by
  unfold Port.owe
  split
  · exact .of_same ⟨_, _, _, _, _, _, _, _, rfl⟩
  · exact .of_same ⟨_, _, _, _, _, _, _, _, rfl⟩
  · split
    · exact .refl x
    · exact .of_same ⟨_, _, _, _, _, _, _, _, rfl⟩
  · exact .refl x

/-- From `s` to `u` messages have been sent over port `p`. -/
structure LinkSent (p : Nat) (s u : State) : Prop extends PortsOnly s u where
  other : ∀ q, q ≠ p → u.port q = s.port q
  side : SendSide (s.port p) (u.port p)

theorem LinkSent.refl (p : Nat) (s : State) : LinkSent p s s := ⟨.refl s, fun _ _ => rfl, .refl _⟩

theorem LinkSent.trans {p : Nat} {s t u : State} (h : LinkSent p s t) (k : LinkSent p t u) : LinkSent p s u :=
  ⟨h.toPortsOnly.trans k.toPortsOnly, fun q hq => (k.other q hq).trans (h.other q hq), h.side.trans k.side⟩

theorem LinkSent.port {p : Nat} {s u : State} (h : LinkSent p s u) (q : Nat) : SendSide (s.port q) (u.port q) := by
  by_cases hq : q = p
  · rw [hq]
    exact h.side
  · rw [h.other q hq]
    exact .refl _

theorem PortsOnly.fab {s u : State} (h : PortsOnly s u) : u.fab = { s.fab with ports := u.fab.ports } := by
  rw [h.state]

theorem PortsOnly.send (s : State) (o : Output) : PortsOnly s (s.send o) := ⟨rfl⟩

section
variable (s : State) (p : Nat)

theorem LinkSent.setPort {x : Port} (h : SendSide (s.port p) x) : LinkSent p s (s.setPort p x) :=
  ⟨⟨rfl⟩, fun _ hq => s.port_setPort_ne x hq, by rw [State.port_setPort]; exact h⟩

theorem LinkSent.send (o : Output) : LinkSent p s (s.send o) := ⟨⟨rfl⟩, fun _ _ => rfl, .refl _⟩

theorem State.sendSlots_sent (l : List LSlot) : LinkSent p s (s.sendSlots p l) := by
  unfold State.sendSlots
  extract_lets x sw x1 c g x2
  refine (LinkSent.setPort s p ?_).trans (.send _ p _)
  have h1 : SendSide x x1 := by
    unfold x1
    split
    · next hsw =>
      refine ⟨⟨_, _, _, _, _, _, _, _, _, _, rfl⟩, fun h => ?_⟩
      unfold sw at hsw
      rw [h] at hsw
      exact absurd hsw Bool.false_ne_true
    · exact .refl x
  exact h1.trans (.of_same ⟨_, _, _, _, _, _, _, _, rfl⟩)

theorem State.sendGroup_sent (f : Flit) : LinkSent p s (s.sendGroup p f) :=
  State.forEach_induct (P := LinkSent p s) (fun l u h => h.trans (u.sendSlots_sent p l)) _
    (LinkSent.setPort s p ((s.port p).spend_side _ _))

theorem State.linkSend_sent (f : Flit) : LinkSent p s (s.linkSend p f) := by
  unfold State.linkSend
  dsimp only
  split
  · exact .refl p s
  · split
    · exact .setPort s p (.of_same ⟨_, _, _, _, _, _, _, _, rfl⟩)
    · exact s.sendGroup_sent p f

theorem State.ctrlSend_sent (what arg : Nat) : LinkSent p s (s.ctrlSend p what arg) := (s.linkSend_sent p _).trans (.send _ p _)

theorem State.idleGroup_sent : LinkSent p s (s.idleGroup p) := by
  unfold State.idleGroup
  dsimp only
  split
  · exact .refl p s
  · exact s.sendSlots_sent p []

end

theorem State.drain_sent (p : Nat) : ∀ (l : List Flit) (s : State), LinkSent p s (s.drain p l)
  | [], s => .refl p s
  | f :: r, s => by
    unfold State.drain
    dsimp only
    split
    · exact (LinkSent.setPort s p (.of_same ⟨_, _, _, _, _, _, _, _, rfl⟩)).trans (State.drain_sent p r _)
    · exact (s.sendGroup_sent p f).trans (State.drain_sent p r _)

theorem State.drainWaiting_sent (s : State) (p : Nat) : LinkSent p s (s.drainWaiting p) :=
  (LinkSent.setPort s p (.of_same ⟨_, _, _, _, _, _, _, _, rfl⟩)).trans (State.drain_sent p _ _)

theorem State.replicaSend_only (s : State) (k op t row epoch : Nat) : PortsOnly s (s.replicaSend k op t row epoch) :=
  (s.linkSend_sent _ _).toPortsOnly

/-! ### What answers leave -/

/-- From `s` to `u`: board time, the peer table, the receiving side of every port, the freeze and the registers of the fabric and beyond are
as they were. -/
structure LinkKept (s u : State) : Prop where
  time : u.time = s.time
  peers : u.fab.peers = s.fab.peers
  port : ∀ q, SendSide (s.port q) (u.port q)
  frozen : u.flt.frozen = s.flt.frozen
  regs : ∀ o, 0x60000 ≤ o → u.rd o = s.rd o

theorem LinkKept.refl (s : State) : LinkKept s s := ⟨rfl, rfl, fun _ => .refl _, rfl, fun _ _ => rfl⟩

theorem LinkKept.trans {s t u : State} (h : LinkKept s t) (k : LinkKept t u) : LinkKept s u :=
  ⟨k.time.trans h.time, k.peers.trans h.peers, fun q => (h.port q).trans (k.port q), k.frozen.trans h.frozen,
    fun o ho => (k.regs o ho).trans (h.regs o ho)⟩

theorem LinkKept.of_eq {s u : State} (ht : u.time = s.time) (hp : u.fab.peers = s.fab.peers) (hx : u.fab.ports = s.fab.ports)
    (hf : u.flt.frozen = s.flt.frozen) (hr : u.regs = s.regs) (hd : u.design = s.design) : LinkKept s u :=
  ⟨ht, hp, fun q => by rw [State.port, State.port, hx]; exact .refl _, hf, fun o _ => State.rd_of_regs hr hd o⟩

theorem LinkSent.kept {p : Nat} {s u : State} (h : LinkSent p s u) : LinkKept s u :=
  ⟨by rw [h.state], by rw [h.fab], h.port, by rw [h.flt], fun o _ => h.rd o⟩

section
variable (s : State)

theorem LinkKept.setReg {o : Nat} (h : o < 0x60000) (v : W64) : LinkKept s (s.setReg o v) :=
  ⟨s.setReg_time o v, congrArg Fabric.peers (s.setReg_fab o v), fun q => by rw [State.port, State.port, s.setReg_fab o v]; exact .refl _,
    congrArg Faults.frozen (s.setReg_flt o v), fun o' ho => State.rd_setReg_ne s v (by omega)⟩

theorem LinkKept.bump {o : Nat} (h : o < 0x60000) (n : Nat) : LinkKept s (s.bump o n) := by
  unfold State.bump
  split
  · exact .refl s
  · exact .setReg s h _

theorem LinkKept.event (n : Nat) : LinkKept s (s.event n) := .setReg s (by omega) _

theorem LinkKept.forEach {α : Type} {f : α → State → State} (hf : ∀ a u, LinkKept u (f a u)) (l : List α) : LinkKept s (s.forEach l f) :=
  State.forEach_induct (P := LinkKept s) (fun a u h => h.trans (hf a u)) l (.refl s)

theorem State.onOps_kept (f : List UnitOp → List UnitOp) : LinkKept s (s.onOps f) := .of_eq rfl rfl rfl rfl rfl rfl

/-! ### Operations beyond the block -/

theorem State.hostWrite_kept (t off : Nat) (bs : List Byte) : LinkKept s (s.hostWrite t off bs) := by
  refine .forEach s (fun x u => ?_) _
  exact .of_eq rfl rfl rfl rfl rfl rfl

end

theorem State.sealSectors_kept : ∀ (n : Nat) (s : State) (a : Nat) (bs : List Byte), LinkKept s (s.sealSectors a bs n).2
  | 0, s, _, _ => .refl s
  | n + 1, s, a, bs => by
    unfold State.sealSectors
    refine LinkKept.trans ?_ (State.sealSectors_kept n _ (a + 4096) (bs.drop 4096))
    exact .of_eq rfl rfl rfl rfl rfl rfl

section
variable (s : State)

theorem State.unitOp_kept (use : UnitUse) (p op a len : Nat) (data : List Byte) (sealed : Bool) (width : Nat) (b c : W64) :
    LinkKept s (s.unitOp use p op a len data sealed width b c) := by
  unfold State.unitOp
  extract_lets lo n ps o add t h ch dHost dLink
  have hadd (r : Option Nat) {u : State} (h : LinkKept s u) : LinkKept s (add r u) := h.trans (.of_eq rfl rfl rfl rfl rfl rfl)
  have hseal (c : Prop) [Decidable c] : LinkKept s (if c then s.sealSectors lo data (n / 4096) else (data, s)).2 := by
    split
    · exact State.sealSectors_kept _ _ _ _
    · exact .refl s
  have hHost : LinkKept s dHost.2 := hseal _
  have hLink : LinkKept s dLink.2 := hseal _
  clear_value add dHost dLink
  split
  · split
    · exact hadd _ (.refl s)
    · split
      · exact hadd _ (.of_eq rfl rfl rfl rfl rfl rfl)
      · exact hadd _ (hHost.trans (State.hostWrite_kept _ _ _ _))
  · split
    · split
      · exact hadd _ (.refl s)
      · exact (hadd none hLink).trans (.forEach _ (fun x u => (u.linkSend_sent _ _).kept) ps)
    · exact hadd _ (.refl s)

theorem State.settleNotes_kept : LinkKept s s.settleNotes := s.onOps_kept _

/-! ### Replies of the Tier mover -/

theorem State.spansWrite_kept (p : Nat) : ∀ (l : List (Nat × Nat)) (s : State) (bs : List Byte), LinkKept s (s.spansWrite p l bs)
  | [], s, _ => .refl s
  | sp :: r, s, bs => by
    have h : LinkKept s (s.spanWrite p sp.1 (bs.take sp.2)) := by
      unfold State.spanWrite
      split
      · unfold State.hbmWrite
        refine ⟨rfl, rfl, fun _ => .refl _, ?_, fun _ _ => State.rd_of_regs rfl rfl _⟩
        dsimp only
        split <;> rfl
      · exact .refl s
    exact h.trans (State.spansWrite_kept p r _ _)

theorem State.hbmWrite_kept (a : Nat) (bs : List Byte) : LinkKept s (s.hbmWrite a bs) := by
  unfold State.hbmWrite
  refine ⟨rfl, rfl, fun _ => .refl _, ?_, fun _ _ => State.rd_of_regs rfl rfl _⟩
  dsimp only
  split <;> rfl

theorem State.rangeWrite_kept {p : Nat} (hp : p < 16) (a : Nat) (bs : List Byte) : LinkKept s (s.rangeWrite p a bs) := by
  unfold State.rangeWrite
  dsimp only
  split
  · exact (State.spansWrite_kept p _ s bs).trans (.of_eq rfl rfl rfl rfl rfl rfl)
  · exact .bump s (by unfold cntPart; omega) _

theorem State.unitPut8_kept {p : Nat} (hp : p < 16) (a : Nat) (v : W64) : LinkKept s (s.unitPut8 p a v) := by
  have hremote : LinkKept s ((s.unitOp .note p 2 a 8 (leBytes 8 v.toNat) false 0 0 0).settleNotes) :=
    (s.unitOp_kept _ _ _ _ _ _ _ _ _ _).trans (State.settleNotes_kept _)
  unfold State.unitPut8
  extract_lets bs
  split
  · split
    · exact .of_eq rfl rfl rfl rfl rfl rfl
    · exact .refl s
  · split
    · exact s.rangeWrite_kept hp _ _
    · split
      · exact s.hbmWrite_kept _ _
      · exact .refl s
  · exact hremote
  · exact hremote
  · exact hremote
  · exact .refl s

theorem State.demoteLost_kept (c : TierCmd) (status : Nat) : LinkKept s (s.demoteLost c status) := by
  unfold State.demoteLost
  dsimp only
  split
  · exact .of_eq rfl rfl rfl rfl rfl rfl
  · exact .refl s

theorem TierCmd.part_lt (c : TierCmd) : c.part < 16 := Nat.mod_lt _ (by decide)

theorem State.tierReply_kept (c : TierCmd) (status : Nat) : LinkKept s (s.tierReply c status) := by
  unfold State.tierReply
  extract_lets s1
  have h1 : LinkKept s s1 := by
    unfold s1
    split
    · exact .refl s
    · exact s.unitPut8_kept c.part_lt _ _
  clear_value s1
  split
  · split
    · exact h1.trans (.of_eq rfl rfl rfl rfl rfl rfl)
    · exact h1
  · split
    · exact h1.trans (s1.demoteLost_kept c status)
    · exact h1

/-! ### Settling -/

end

theorem State.drawFrame_kept {s u : State} {pool size f : Nat} (h : s.drawFrame pool size = some (f, u)) : LinkKept s u := by
  unfold State.drawFrame at h
  dsimp only at h
  split at h
  · cases h
  · split at h
    · cases h
    · cases h
      exact .of_eq rfl rfl rfl rfl rfl rfl

theorem State.hbmZero_kept (s : State) (a n : Nat) : LinkKept s (s.hbmZero a n) := .of_eq rfl rfl rfl rfl rfl rfl

theorem State.newTable_kept {s u : State} {lvl a : Nat} (h : s.newTable lvl = some (a, u)) : LinkKept s u := by
  unfold State.newTable at h
  dsimp only at h
  split at h
  · cases h
    exact .of_eq rfl rfl rfl rfl rfl rfl
  · split at h
    · cases h
    · next hdraw =>
      cases h
      exact (State.drawFrame_kept hdraw).trans (.of_eq rfl rfl rfl rfl rfl rfl)

theorem State.ensure_kept {u : State} {addr target a : Nat} :
    ∀ (n : Nat) {s : State} {tbl : Nat}, s.ensure addr tbl target n = some (a, u) → LinkKept s u
  | 0, _, _, h => nomatch h
  | lvl + 1, s, tbl, h => by
    unfold State.ensure at h
    dsimp only at h
    split at h
    · cases h
      exact .refl _
    · split at h
      · exact State.ensure_kept lvl h
      · split at h
        · split at h
          · cases h
          · next hnew =>
            have hrest := State.ensure_kept lvl h
            exact ((State.newTable_kept hnew).trans (State.hbmWrite_kept _ _ _)).trans hrest
        · cases h

section
variable (s : State)

theorem State.hbmWrite64_kept (a : Nat) (v : W64) : LinkKept s (s.hbmWrite64 a v) := s.hbmWrite_kept a _

theorem State.filled_kept (m : Memory) (k v : Nat) : LinkKept s ({ s with ext := m }.setOrigin k v) := .of_eq rfl rfl rfl rfl rfl rfl

theorem State.fillDone_kept (c : TierCmd) (f resp : Nat) : LinkKept s (s.fillDone c f resp) := by
  have hret : LinkKept s ((s.returnFrame c.pool f).tierReply c 3) := by
    refine LinkKept.trans ?_ (State.tierReply_kept _ _ _)
    exact .of_eq rfl rfl rfl rfl rfl rfl
  unfold State.fillDone
  split
  · exact hret
  · split
    · exact hret
    · next a u hens =>
      have hw := u.hbmWrite64_kept a (s.poolEntry c.pool f c.large c.pin c.writable)
      exact (((State.ensure_kept 4 hens).trans hw).trans (State.filled_kept _ _ _ _)).trans (State.tierReply_kept _ _ _)

theorem State.settleRods_kept : LinkKept s s.settleRods := by
  refine .forEach s (fun x u => ?_) _
  dsimp only
  split
  · exact .of_eq rfl rfl rfl rfl rfl rfl
  · exact .refl u

theorem State.settleFills_kept : LinkKept s s.settleFills := by
  refine .forEach s (fun x u => ?_) _
  split
  · exact (u.onOps_kept _).trans (State.fillDone_kept _ _ _ _)
  · exact .refl u

theorem State.settleReplies_kept : LinkKept s s.settleReplies := by
  refine .forEach s (fun x u => ?_) _
  split
  · dsimp only
    split
    · exact .of_eq rfl rfl rfl rfl rfl rfl
    · exact u.onOps_kept _
  · exact .refl u

theorem State.settleCopies_kept : LinkKept s s.settleCopies := by
  refine .forEach s (fun x u => ?_) _
  split
  · dsimp only
    split
    · exact u.onOps_kept _
    · exact .of_eq rfl rfl rfl rfl rfl rfl
  · exact .refl u

theorem State.settleOps_kept : LinkKept s s.settleOps :=
  ((((s.settleRods_kept).trans (State.settleFills_kept _)).trans (State.settleReplies_kept _)).trans (State.settleCopies_kept _)).trans
    (State.settleNotes_kept _)

theorem State.endOp_kept (o : UnitOp) : LinkKept s (s.endOp o) := by
  unfold State.endOp
  extract_lets put
  have hput (x : UnitOp) (u : State) : LinkKept u (put x u) := u.onOps_kept _
  clear_value put
  split
  · exact hput _ _
  · split
    · split
      · exact hput _ _
      · exact ((hput _ _).trans (.bump _ (by unfold cntBlk; omega) _)).trans (.event _ _)
    · exact hput _ _

theorem State.takeResponse_kept (src : Nat) (f : Flit) : LinkKept s (s.takeResponse src f) := by
  unfold State.takeResponse State.unitResponse
  split
  · exact .of_eq rfl rfl rfl rfl rfl rfl
  · refine LinkKept.trans ?_ (State.settleOps_kept _)
    split
    · exact .refl s
    · exact s.endOp_kept _

end

end Sys2Proof.Machine
end

section
/-! PROOF. The step and the tick of the board clock (14_exfe_optical_fabric.md R323, 19_ports_clocks_power_reset.md R421, log entry 11). -/

namespace Sys2Proof.Machine

/-! ### Board time -/

/-- Rate and slew together stay within the limits of R323. -/
theorem Fabric.gain_bounds (x : Fabric) : -500 ≤ x.gain ∧ x.gain ≤ 500 := by
  unfold Fabric.gain
  omega

theorem Fabric.gain_of_still {x : Fabric} (hs : x.slewing = 0) (hr : x.rate = 0) : x.gain = 0 := by
  unfold Fabric.gain
  rw [hs, hr]
  decide

/-- What steering has gained amounts to at most one nanosecond in a tick. -/
theorem gained_nanoseconds {a : Int} (h1 : -200000 < a) (h2 : a < 200000) : a.tdiv 100000 = -1 ∨ a.tdiv 100000 = 0 ∨ a.tdiv 100000 = 1 := by
  rcases Int.le_total 0 a with h | h
  · rw [Int.tdiv_eq_ediv_of_nonneg h]
    omega
  · have e : a.tdiv 100000 = -((-a) / 100000) := by
      rw [← Int.tdiv_eq_ediv_of_nonneg (by omega : 0 ≤ -a), Int.neg_tdiv, Int.neg_neg]
    omega

/-! ### The counters of time -/

/-- From `s` to `u` registers and the power unit have changed, RST_STATE not among them. -/
structure ClockCounted (s u : State) : Prop where
  state : u = { s with regs := u.regs, pwr := u.pwr }
  rst : u.rd 0x10008 = s.rd 0x10008

theorem ClockCounted.refl (s : State) : ClockCounted s s := ⟨rfl, rfl⟩

theorem ClockCounted.trans {s t u : State} (h : ClockCounted s t) (k : ClockCounted t u) : ClockCounted s u := by
  refine ⟨?_, k.rst.trans h.rst⟩
  have hu := k.state
  rw [h.state] at hu
  exact hu

theorem ClockCounted.forEach {α : Type} {f : α → State → State} (hf : ∀ a u, ClockCounted u (f a u)) (l : List α) (s : State) :
    ClockCounted s (s.forEach l f) :=
  State.forEach_induct (P := ClockCounted s) (fun a u h => h.trans (hf a u)) l (.refl s)

theorem ClockCounted.foldl {α : Type} {f : State → α → State} (hf : ∀ u a, ClockCounted u (f u a)) (l : List α) (s : State) :
    ClockCounted s (l.foldl f s) := .forEach (fun a u => hf u a) l s

section
variable (s : State)

theorem ClockCounted.setReg {o : Nat} (h : o ≠ 0x10008) (v : W64) : ClockCounted s (s.setReg o v) :=
  ⟨State.setReg_eq s o v, State.rd_setReg_ne s v h.symm⟩

theorem ClockCounted.setRf {o : Nat} (h : o ≠ 0x10008) (hi lo v : Nat) : ClockCounted s (s.setRf o hi lo v) := .setReg s h _

theorem ClockCounted.bump {o : Nat} (h : o ≠ 0x10008) (n : Nat) : ClockCounted s (s.bump o n) := by
  unfold State.bump
  split
  · exact .refl s
  · exact .setReg s h _

theorem State.occTick_counted {o : Nat} (h : 0x10008 < o) (src inst cycles : Nat) : ClockCounted s (s.occTick o src inst cycles) := by
  unfold State.occTick
  dsimp only
  split
  · exact .refl s
  · split
    · exact .bump s (by omega) _
    · exact (ClockCounted.bump s (by omega) _).trans (.setReg _ (by omega) _)

theorem State.partOccTick_counted (p : Nat) : ClockCounted s (s.partOccTick p) :=
  .forEach (fun x u => u.occTick_counted (by unfold cntPart; omega) _ _ _) _ s

theorem State.stallTick_counted (p : Nat) : ClockCounted s (s.stallTick p) := by
  unfold State.stallTick
  extract_lets on es tier
  split
  · exact .refl s
  · exact .bump s (by unfold cntPart; omega) _

/-- A turn of a port, of a partition and of a tenant in the counting of a tick. -/
theorem State.portTick_counted (p : Nat) : ClockCounted s (if (s.port p).locked then
    (s.bump (cntPort p 5) (s.time.toNat * 7 / 4 - (s.time.toNat - 10) * 7 / 4)).occTick (cntPort p 6) 9 p 17 else s) := by
  split
  · exact (ClockCounted.bump s (by unfold cntPort; omega) _).trans (State.occTick_counted _ (by unfold cntPort; omega) _ _ _)
  · exact .refl s

theorem State.discrepancyTick_counted : ClockCounted s s.discrepancyTick := by
  unfold State.discrepancyTick
  dsimp only
  split
  · exact .setRf s (by decide) _ _ _
  · split
    · exact (ClockCounted.setRf s (by decide) _ _ _).trans (.setRf _ (by decide) _ _ _)
    · exact .setRf s (by decide) _ _ _

theorem State.holdTick_counted : ClockCounted s s.holdTick := by
  unfold State.holdTick
  split
  · exact .setReg s (by decide) _
  · exact .refl s

theorem ClockCounted.vidStep (x : Power) : ClockCounted s { s with pwr := x } := ⟨rfl, State.rd_of_regs rfl rfl _⟩

theorem State.clockTick_counted : ClockCounted s s.clockTick := by
  unfold State.clockTick
  extract_lets run s1 x s2 s3 s4 s5 s6 s7 s8 s9 s10
  have h1 : ClockCounted s s1 := by
    unfold s1
    split
    · exact (ClockCounted.bump s (by unfold cntBlk; omega) _).trans (.bump _ (by unfold cntBlk; omega) _)
    · exact .refl s
  have h2 : ClockCounted s s2 :=
    ((h1.trans (.vidStep s1 _)).trans (.bump _ (by unfold cntBlk; omega) _)).trans (.bump _ (by unfold cntBlk; omega) _)
  have h3 : ClockCounted s s3 := by
    unfold s3
    split
    · exact h2.trans (.bump _ (by unfold cntBlk; omega) _)
    · exact h2
  have h4 : ClockCounted s s4 := h3.trans (.forEach (fun k u => .bump u (by unfold cntStack; omega) _) _ s3)
  have h5 : ClockCounted s s5 := h4.trans (.forEach (fun p u => u.portTick_counted p) _ s4)
  have h6 : ClockCounted s s6 :=
    h5.trans (.foldl (fun u p => (u.partOccTick_counted p).trans (State.stallTick_counted _ p)) _ _)
  have h7 : ClockCounted s s7 :=
    h6.trans (.foldl (fun u t => u.occTick_counted (by unfold cntTen; omega) _ _ _) _ _)
  have h8 : ClockCounted s s8 := h7.trans (.forEach (fun c u => u.occTick_counted (by omega) _ _ _) _ s7)
  have h9 : ClockCounted s s9 := by
    unfold s9
    split
    · exact h8
    · exact h8.trans (.forEach (fun c u => u.occTick_counted (by omega) _ _ _) _ s8)
  have h10 : ClockCounted s s10 := by
    unfold s10
    split
    · exact h9
    · exact h9.trans (.forEach (fun c u => u.occTick_counted (by omega) _ _ _) _ s9)
  clear_value s1 s10
  split
  · exact h1
  · exact h10.trans (State.occTick_counted _ (by unfold cntBlk; omega) _ _ _)

theorem ClockCounted.time {s u : State} (h : ClockCounted s u) : u.time = s.time := by rw [h.state]

theorem ClockCounted.fabUp {s u : State} (h : ClockCounted s u) : u.fabUp = s.fabUp := by
  have hd : u.dbg = s.dbg := by rw [h.state]
  have hf : u.flt = s.flt := by rw [h.state]
  rw [State.fabUp, State.rf, h.rst, hd, hf]
  rfl

theorem ClockCounted.live {s u : State} (h : ClockCounted s u) : u.live = s.live := by
  have hd : u.dbg = s.dbg := by rw [h.state]
  have hf : u.flt = s.flt := by rw [h.state]
  rw [State.live, State.rf, h.rst, hd, hf]
  rfl

end

/-! ### What the units and the links do leaves board time as it is -/

section
variable (s : State)

theorem State.spdmBegin_time (p : Nat) : (s.spdmBegin p).time = s.time := by
  unfold State.spdmBegin
  split
  · split
    · unfold State.spdmSend
      extract_lets k d l bs x s1
      have h1 : s1.time = s.time := rfl
      clear_value s1
      split
      · exact h1
      · exact ((s1.linkSend_sent p _).kept.time).trans h1
    · rfl
  · rfl

theorem State.linkTick_time : s.linkTick.time = s.time := by
  unfold State.linkTick
  split
  · exact State.forEach_induct (P := fun u => u.time = s.time)
      (fun p u hu => (((u.spdmBegin p).idleGroup_sent p).kept.time.trans (u.spdmBegin_time p)).trans hu) _ rfl
  · rfl

theorem State.setEntry_time (p page : Nat) (f : W64 → W64) : (s.setEntry p page f).time = s.time := by
  unfold State.setEntry
  split
  · rfl
  · rfl

theorem State.abortDemote_time (m : Move) (status : Nat) : (s.abortDemote m status).time = s.time := by
  unfold State.abortDemote
  extract_lets s1
  have h1 : s1.time = s.time := State.setEntry_time _ _ _ _
  clear_value s1
  exact ((State.tierReply_kept _ _ _).time.trans (State.bump_slateKept _ _ _).time).trans h1

theorem State.settleDemotes_time : s.settleDemotes.time = s.time :=
  State.forEach_induct (P := fun u => u.time = s.time) (fun m u hu => (u.abortDemote_time m 1).trans hu) _ rfl

theorem State.tierUnmap_time (c : TierCmd) : (s.tierUnmap c).time = s.time := by
  unfold State.tierUnmap
  split
  · exact (s.tierReply_kept c _).time
  · exact (s.tierReply_kept c _).time
  · split
    · exact (s.tierReply_kept c _).time
    · split
      · exact (s.tierReply_kept c _).time
      · refine (State.tierReply_kept _ c 0).time.trans ?_
        unfold State.releaseFrame
        dsimp only
        split <;> split <;> rfl

theorem State.unmapPages_time (p : Nat) (l : List Nat) : (s.unmapPages p l).time = s.time := by
  refine State.forEach_induct (P := fun u => u.time = s.time) (fun b u hu => ?_) _ rfl
  split
  · dsimp only
    split
    · exact hu
    · exact (u.tierUnmap_time _).trans hu
  · exact hu

theorem State.loadStatus_time (p st cause shard : Nat) : (s.loadStatus p st cause shard).time = s.time := by
  unfold State.loadStatus State.setRf
  rw [State.setReg_time, State.setReg_time, State.setReg_time]

theorem State.loadFail_time (p status cause shard : Nat) : (s.loadFail p status cause shard).time = s.time := by
  unfold State.loadFail
  extract_lets x s1 s2
  rw [State.commandDone, (State.complete_slateKept _ _ _ _).time, State.loadStatus_time]
  exact s.unmapPages_time p _

end

theorem State.mapShard_time (p : Nat) (e : List W64) : ∀ (l : List Nat) (s : State), (s.mapShard p e l).2.time = s.time
  | [], _ => rfl
  | a :: r, s => by
    have hmap := (s.tierMap_slateKept p a (shLarge e) 0 (shClass e == 0) false).time
    unfold State.mapShard
    split
    · exact State.mapShard_time p e r s
    · split
      · next heq =>
        rw [heq] at hmap
        exact (State.mapShard_time p e r _).trans hmap
      · next heq =>
        rw [heq] at hmap
        exact hmap

theorem State.startShards_time (p : Nat) : ∀ (n : Nat) (s : State), (s.startShards p n).time = s.time
  | 0, _ => rfl
  | n + 1, s => by
    unfold State.startShards
    split
    · rfl
    · next k x _ =>
      have hmap := State.mapShard_time p x.words (shPages x.words) s
      split
      · rfl
      · split
        · next heq =>
          rw [heq] at hmap
          exact (State.startShards_time p n _).trans hmap
        · next heq =>
          rw [heq] at hmap
          exact (State.loadFail_time _ _ _ _ _).trans hmap

section
variable (s : State)

theorem State.loadStep_time (p : Nat) : (s.loadStep p).time = s.time := by
  unfold State.loadStep
  split
  · rfl
  · split
    · exact s.loadFail_time _ _ _ _
    · exact State.startShards_time p _ s

theorem State.stageDir_time (p id : Nat) (img : List W64) : (s.stageDir p id img).time = s.time := by
  unfold State.stageDir
  dsimp only
  rw [State.setReg_time]
  refine State.forEach_induct (P := fun u => u.time = s.time) (fun k u hu => ?_) _ rfl
  rw [State.setReg_time, hu]

theorem State.dirNext_time (p : Nat) : (s.dirNext p).time = s.time := by
  unfold State.dirNext
  split
  · rfl
  · split
    · rfl
    · exact State.stageDir_time _ p _ _

theorem State.opsExpire_time : s.opsExpire.time = s.time := by
  unfold State.opsExpire
  split
  · rfl
  · rfl

theorem State.unitTick_time : s.unitTick.time = s.time := by
  unfold State.unitTick
  split
  · refine State.forEach_induct (P := fun u => u.time = s.time) (fun p u hu => ?_) _ ?_
    · exact ((State.dirNext_time _ p).trans (u.loadStep_time p)).trans hu
    · exact ((State.settleDemotes_time _).trans (State.settleOps_kept _).time).trans s.opsExpire_time
  · rfl

/-! ### The tick -/

/-- The state in which the counters of a tick have counted. -/
def State.ticked : State := ({ s with time := s.time + 10 }).slewTick.discrepancyTick.holdTick.clockTick

theorem State.tick_eq : s.tick = s.ticked.linkTick.unitTick := rfl

theorem State.ticked_counted : ClockCounted ({ s with time := s.time + 10 } : State).slewTick s.ticked :=
  ((State.discrepancyTick_counted _).trans (State.holdTick_counted _)).trans (State.clockTick_counted _)

theorem State.tick_time : s.tick.time = s.time + 10 + w64i ((s.fab.frac + s.fab.gain).tdiv 100000) := by
  rw [State.tick_eq, State.unitTick_time, State.linkTick_time, s.ticked_counted.time]
  rfl

theorem State.slewTick_still : ({ s with time := s.time + 10 } : State).slewTick.fabUp = s.fabUp ∧
    ({ s with time := s.time + 10 } : State).slewTick.live = s.live := by
  have hr : ({ s with time := s.time + 10 } : State).slewTick.rd 0x10008 = s.rd 0x10008 := State.rd_of_regs rfl rfl _
  rw [State.fabUp, State.live, State.rf, hr]
  exact ⟨rfl, rfl⟩

/-- With neither the links nor the block at work a tick only counts. -/
theorem State.tick_of_idle (hf : s.fabUp = false) (hl : s.live = false) : s.tick = s.ticked := by
  have hf' : s.ticked.fabUp = false := (s.ticked_counted.fabUp.trans s.slewTick_still.1).trans hf
  have hl' : s.ticked.live = false := (s.ticked_counted.live.trans s.slewTick_still.2).trans hl
  have hlink : s.ticked.linkTick = s.ticked := if_neg (by rw [hf']; decide)
  rw [State.tick_eq, hlink]
  exact if_neg (by rw [hl']; decide)

end

/-- Settles O56: the step is its definition; board time gains what the slew gives, since nothing after it in a tick moves it. -/
theorem stepRunsTheFrontCommand : Obligations.StepRunsTheFrontCommand := by
  refine ⟨fun c rest s => rfl, fun s h => ?_, fun s hs hr hf => ?_, fun s h1 h2 _ _ => ?_, fun s => ?_⟩
  · rw [step, h]
  · rw [State.tick_time, Fabric.gain_of_still hs hr, hf]
    exact BitVec.add_zero _
  · obtain ⟨g1, g2⟩ := s.fab.gain_bounds
    rw [State.tick_time]
    rcases gained_nanoseconds (a := s.fab.frac + s.fab.gain) (by omega) (by omega) with h | h | h <;> rw [h]
    · left
      rw [BitVec.add_assoc]
      rfl
    · right; left
      rw [BitVec.add_assoc]
      rfl
    · right; right
      rw [BitVec.add_assoc]
      rfl
  · have hk := State.tick_keeps (Keeps.refl s)
    refine ⟨hk.pending, hk.design, hk.out, fun hf hl => ?_⟩
    rw [s.tick_of_idle hf hl, s.ticked_counted.state]
    exact ⟨rfl, rfl, rfl, rfl⟩

end Sys2Proof.Machine
end

section
/-! PROOF. Replicas: copy, grant, invalidate, retry and evict (14_exfe_optical_fabric.md R319 to R321). -/

namespace Sys2Proof.Machine

/-! ### Operations of the block's units -/

/-- An operation of a unit has been queued; one to a reachable peer has no answer yet. -/
structure OpQueued (use : UnitUse) (op a len : Nat) (s u : State) : Prop where
  fab : ∃ o ports, u.fab = { s.fab with ops := s.fab.ops ++ [o], nextOp := s.fab.nextOp + 1, ports := ports } ∧
    o.use = use ∧ o.op = op ∧ o.addr = a ∧ o.len = len ∧ (adClass a = 4 → s.unitPort a ≠ none → o.resp = none)

theorem State.sealSectors_fab : ∀ (n : Nat) (s : State) (a : Nat) (bs : List Byte), (s.sealSectors a bs n).2.fab = s.fab
  | 0, _, _, _ => rfl
  | n + 1, s, a, bs => by
    unfold State.sealSectors
    exact State.sealSectors_fab n _ (a + 4096) (bs.drop 4096)

theorem State.hostWrite_fab (s : State) (t off : Nat) (bs : List Byte) : (s.hostWrite t off bs).fab = s.fab := by
  refine State.forEach_induct (P := fun u => u.fab = s.fab) (fun x u hu => ?_) _ rfl
  exact hu

theorem PortsOnly.forEach {α : Type} {f : α → State → State} (hf : ∀ a u, PortsOnly u (f a u)) (l : List α) (s : State) :
    PortsOnly s (s.forEach l f) :=
  State.forEach_induct (P := PortsOnly s) (fun a u h => h.trans (hf a u)) l (.refl s)

theorem OpQueued.only {use : UnitUse} {op a len : Nat} {s t u : State} (h : OpQueued use op a len s t) (k : PortsOnly t u) :
    OpQueued use op a len s u := by
  obtain ⟨o, ports, hf, hrest⟩ := h.fab
  exact ⟨⟨o, u.fab.ports, by rw [k.fab, hf], hrest⟩⟩

section
variable (s : State)

theorem State.unitOp_queued (use : UnitUse) (p op a len : Nat) (data : List Byte) (sealed : Bool) (width : Nat) (b c : W64) :
    OpQueued use op a len s (s.unitOp use p op a len data sealed width b c) := by
  unfold State.unitOp
  extract_lets lo n ps o add t h ch dHost dLink
  have hadd (r : Option Nat) {u : State} (hu : u.fab = s.fab) (hr : adClass a = 4 → s.unitPort a ≠ none → r = none) :
      OpQueued use op a len s (add r u) :=
    ⟨⟨{ o with resp := r }, s.fab.ports, by rw [← hu], rfl, rfl, rfl, rfl, hr⟩⟩
  have hseal (c : Prop) [Decidable c] : (if c then s.sealSectors lo data (n / 4096) else (data, s)).2.fab = s.fab := by
    split
    · exact State.sealSectors_fab _ _ _ _
    · rfl
  have hHost : dHost.2.fab = s.fab := hseal _
  have hLink : dLink.2.fab = s.fab := hseal _
  clear_value add dHost dLink
  split
  · next h3 =>
    have hc (r : Option Nat) : adClass a = 4 → s.unitPort a ≠ none → r = none := fun h4 => absurd (h3.symm.trans h4) (by decide)
    split
    · exact hadd _ rfl (hc _)
    · split
      · exact hadd _ rfl (hc _)
      · exact hadd _ ((State.hostWrite_fab _ _ _ _).trans hHost) (hc _)
  · split
    · split
      · next hnone => exact hadd _ rfl fun _ h => absurd hnone h
      · exact (hadd none hLink fun _ _ => rfl).only (PortsOnly.forEach (fun x u => (u.linkSend_sent _ _).toPortsOnly) ps _)
    · next h => exact hadd _ rfl fun h4 => absurd h4 fun h4 => h (by rw [h4]; rfl)

/-- Where no operation has an answer, none is settled. -/
theorem State.settleOps_of_pending {s : State} (h : ∀ o ∈ s.fab.ops, o.resp = none) : s.settleOps = s := by
  have hrods : s.settleRods = s := by
    have hnil : s.fab.ops.filter (fun o => o.resp.isSome) = [] := by
      rw [List.filter_eq_nil_iff]
      intro o ho
      rw [h o ho]
      decide
    rw [State.settleRods, hnil]
    rfl
  have hfills : s.settleFills = s := by
    refine State.forEach_mem (P := fun u => u = s) (fun o ho u hu => ?_) rfl
    rw [h o ho]
    split
    · contradiction
    · exact hu
  have hreplies : s.settleReplies = s := by
    refine State.forEach_mem (P := fun u => u = s) (fun o ho u hu => ?_) rfl
    rw [h o ho]
    split
    · contradiction
    · exact hu
  have hcopies : s.settleCopies = s := by
    refine State.forEach_mem (P := fun u => u = s) (fun o ho u hu => ?_) rfl
    rw [h o ho]
    split
    · contradiction
    · exact hu
  have hnotes : s.settleNotes = s := by
    have hall : s.fab.ops.filter (fun o => o.use != .note || o.resp.isNone) = s.fab.ops := by
      rw [List.filter_eq_self]
      intro o ho
      rw [h o ho, Option.isNone_none, Bool.or_true]
    rw [State.settleNotes, State.onOps, hall]
  rw [State.settleOps, hrods, hfills, hreplies, hcopies, hnotes]

/-! ### The directory -/

theorem PortsOnly.dir {s u : State} (h : PortsOnly s u) : u.fab.dir = s.fab.dir := by rw [h.fab]
theorem PortsOnly.replicas {s u : State} (h : PortsOnly s u) : u.fab.replicas = s.fab.replicas := by rw [h.fab]

/-- A directory entry whose invalidate round begins. -/
def ReplicaDir.invalidated (x : ReplicaDir) (ep : Nat) : ReplicaDir :=
  { x with epoch := ep, await := x.mask.map (fun k => (k, 1)), invals := x.mask.foldl (fun m k => Sparse.put 0 m k ep) x.invals }

theorem State.invalidate_dir (e : ReplicaDir) :
    (s.invalidate e).fab.dir = s.fab.dir.map (fun x => if x == e then x.invalidated ((e.epoch + 1) % 2 ^ 32) else x) := by
  unfold State.invalidate
  exact (PortsOnly.forEach (fun k u => u.replicaSend_only k 0x10 e.table e.row ((e.epoch + 1) % 2 ^ 32)) e.mask _).dir

theorem State.dropCopies_dir (sel : Nat → Nat → Nat → Bool) :
    (s.dropCopies sel).fab.dir = s.fab.dir.map (fun e => if sel e.table e.row e.ver then { e with puts := [] } else e) := rfl

/-- A sharer is out of a directory entry. -/
def ReplicaDir.without (e : ReplicaDir) (k : Nat) : ReplicaDir :=
  { e with mask := e.mask.filter (· != k), await := e.await.filter (fun a => a.1 != k), puts := e.puts.filter (· != k) }

theorem State.clearSharer_dir (sel : ReplicaDir → Bool) (k : Nat) (h : (s.rd 0x500290).getLsbD 63 = false) :
    (s.clearSharer sel k).fab.dir = s.fab.dir.map (fun e => if sel e then e.without k else e) := by
  have hr : bit ((s.onDir sel (fun e => e.without k)).rd 0x500290) 63 = false := by
    have hreg : (s.onDir sel (fun e => e.without k)).rd 0x500290 = s.rd 0x500290 := State.rd_of_regs rfl rfl _
    rw [hreg]
    exact h
  have ht : (s.onDir sel (fun e => e.without k)).tryRelease = s.onDir sel (fun e => e.without k) := by
    unfold State.tryRelease
    dsimp only
    rw [hr]
    rfl
  exact congrArg (fun u : State => u.fab.dir) ht

/-! ### Requests taken from a port -/

theorem State.takeRequest_only {s u : State} {p : Nat} {sel : Nat → Bool} {r : PeerReq} (h : s.takeRequest p sel = some (r, u)) :
    PortsOnly s u := by
  unfold State.takeRequest at h
  split at h
  · split at h
    · cases h
      exact ⟨rfl⟩
    · cases h
  · cases h

theorem State.takeInbox_only {s u : State} {p : Nat} {sel : Nat → Bool} {r : PeerReq} (h : s.takeInbox p sel = some (r, u)) :
    PortsOnly s u := by
  unfold State.takeInbox at h
  obtain ⟨x, -, hx⟩ := Option.map_eq_some_iff.mp h
  cases hx
  exact ⟨rfl⟩

end

/-! ### The commands at the home -/

section
variable {s : State} {tbl : Fin 1024} {row : BitVec 32} {k : Fin 8}

theorem adClass_peerHbm {k : Nat} (hk : k < 8) (off : Nat) : adClass (peerHbm k off) = 4 := by
  unfold adClass peerHbm
  omega

theorem adPeer_peerHbm {k : Nat} (hk : k < 8) (off : Nat) : adPeer (peerHbm k off) = k := by
  unfold adPeer peerHbm
  omega

/-- The state in which a copy has its directory entry. -/
def State.copyEntered (s : State) (t r ver k : Nat) : State :=
  (s.journal 2 [w64 t, w64 r, w64 k]).onFab (fun x => { x with dir := [⟨t, r, ver, 0, [], [], [], [], []⟩] })

/-- A first copy of a row, on its way to a sharer. -/
def State.copySent (s : State) (t r k off : Nat) : State :=
  let d := s.tbl t
  (s.copyEntered t r (tblVersion d) k).unitOp (.copy t r (tblVersion d) k) (tblPart d) 2 (peerHbm k (Config.replicaPlace k t r).toNat) (tblRow d)
    (s.hbmRead (off + r % 4096 * tblRow d) (tblRow d)) false 0 0 0

theorem execReplicateRow_of_first {off : Nat} (hl : s.live = true) (hs : s.shardOf (s.tbl tbl) row.toNat = some (s.fab.pos, off))
    (hsh : tblSharded (s.tbl tbl) = true) (hr : row.toNat < tblCount (s.tbl tbl)) (hk : k.val ≠ s.fab.pos) (hp : s.present k = true)
    (hsf : (s.peer k).shelf = false) (hd : s.fab.dir = []) (ho : s.fab.ops = []) :
    exec (.replicateRow tbl row k) s = .next (s.copySent tbl row.toNat k off).settleOps := by
  change execReplicateRow tbl row k s = _
  have hops : s.opsOf (.copy tbl row.toNat (tblVersion (s.tbl tbl)) k) = [] := by rw [State.opsOf, ho]; rfl
  unfold execReplicateRow
  dsimp only
  rw [hs]
  dsimp only
  rw [if_neg]
  · unfold State.copySent State.copyEntered State.onFab
    dsimp only
    rw [hd]
    unfold State.journal
    dsimp only
    rw [hd]
    rfl
  · rw [hl, hsh, hp, hsf, hd, hops]
    simpa [Nat.not_le.mpr hr] using hk

theorem State.copySent_spec {t r off : Nat} (hp : s.present k = true) (hsf : (s.peer k).shelf = false) (ho : s.fab.ops = []) :
    (s.copySent t r k off).settleOps = s.copySent t r k off ∧
    (s.copySent t r k off).fab.dir = [⟨t, r, tblVersion (s.tbl t), 0, [], [], [], [], []⟩] ∧
    (s.copySent t r k off).fab.ops.map (fun o => (o.use, o.op, o.addr, o.len, o.resp)) = [(UnitUse.copy t r (tblVersion (s.tbl t)) k, 2,
      peerHbm k (Config.replicaPlace k t r).toNat, tblRow (s.tbl t), none)] ∧
    (s.copySent t r k off).hbm = s.hbm ∧ (s.copySent t r k off).rods = s.rods := by
  obtain ⟨sec, chans, fab, out, hsent⟩ := ((s.copyEntered t r (tblVersion (s.tbl t)) k).unitOp_sent (.copy t r (tblVersion (s.tbl t)) k)
    (tblPart (s.tbl t)) 2 (peerHbm k (Config.replicaPlace k t r).toNat) (tblRow (s.tbl t))
    (s.hbmRead (off + r % 4096 * tblRow (s.tbl t)) (tblRow (s.tbl t))) false 0 0 0).frame
  obtain ⟨o, ports, hfab, huse, hop, haddr, hlen, hresp⟩ := ((s.copyEntered t r (tblVersion (s.tbl t)) k).unitOp_queued
    (.copy t r (tblVersion (s.tbl t)) k) (tblPart (s.tbl t)) 2 (peerHbm k (Config.replicaPlace k t r).toNat) (tblRow (s.tbl t))
    (s.hbmRead (off + r % 4096 * tblRow (s.tbl t)) (tblRow (s.tbl t))) false 0 0 0).fab
  have hport : (s.copyEntered t r (tblVersion (s.tbl t)) k).unitPort (peerHbm k (Config.replicaPlace k t r).toNat) = some (s.peer k).port := by
    have hpres : (s.copyEntered t r (tblVersion (s.tbl t)) k).present k = true := hp
    have hpeer : (s.copyEntered t r (tblVersion (s.tbl t)) k).peer k = s.peer k := rfl
    rw [State.unitPort, if_pos (adClass_peerHbm k.isLt _), adPeer_peerHbm k.isLt, hpres, hpeer, hsf]
    rfl
  have hnone : o.resp = none := hresp (adClass_peerHbm k.isLt _) (by rw [hport]; exact Option.some_ne_none _)
  have hops : (s.copySent t r k off).fab.ops = [o] := by
    refine (congrArg Fabric.ops hfab).trans ?_
    change s.fab.ops ++ [o] = [o]
    rw [ho]
    rfl
  refine ⟨State.settleOps_of_pending fun x hx => ?_, congrArg Fabric.dir hfab, ?_, (congrArg State.hbm hsent :), (congrArg State.rods hsent :)⟩
  · rw [hops] at hx
    rw [List.mem_singleton.mp hx, hnone]
  · rw [hops, ← huse, ← hop, ← haddr, ← hlen, ← hnone]
    rfl

/-- A directory entry whose copy to a sharer is granted. -/
def ReplicaDir.granted (x : ReplicaDir) (k : Nat) : ReplicaDir :=
  { x with
    epoch := (x.epoch + 1) % 2 ^ 32, mask := x.mask ++ [k], puts := x.puts.filter (· != k),
    grants := Sparse.put 0 x.grants k ((x.epoch + 1) % 2 ^ 32) }

theorem execReplicaGrant_of_found {e : ReplicaDir} (hl : s.live = true)
    (hf : s.fab.dir.find? (fun x => x.table == tbl.val && x.row == row.toNat && x.puts.contains k.val) = some e) :
    exec (.replicaGrant tbl row k) s = .next ((s.onDir (fun x => x == e) (fun x => x.granted k)).replicaSend k 0x14 tbl row.toNat
      ((e.epoch + 1) % 2 ^ 32)) := by
  change execReplicaGrant tbl row k s = _
  unfold execReplicaGrant
  dsimp only
  rw [hf]
  exact congrArg Host.Outcome.next (if_neg (by rw [hl]; decide))

/-- The state in which the copies of a row are given up. -/
def State.copiesDropped (s : State) (tbl : Fin 1024) (row : BitVec 32) : State :=
  (s.journal 2 [w64 tbl, row.setWidth 64]).dropCopies (fun t r _ => t == tbl.val && r == row.toNat)

theorem execReplicaInvalidate_of_live (hl : s.live = true) : exec (.replicaInvalidate tbl row) s = .next
    ((s.copiesDropped tbl row).forEach ((s.copiesDropped tbl row).fab.dir.filter (fun e =>
      e.table == tbl.val && e.row == row.toNat && e.await.isEmpty && !e.mask.isEmpty)) (fun e s => s.invalidate e)) :=
  congrArg Host.Outcome.next (if_neg (by rw [hl]; decide))

/-- What giving up the copies leaves of a directory entry. -/
def ReplicaDir.dropped (e : ReplicaDir) (t r : Nat) : ReplicaDir := if e.table = t ∧ e.row = r then { e with puts := [] } else e

theorem State.copiesDropped_dir {e : ReplicaDir} (hd : s.fab.dir = [e]) : (s.copiesDropped tbl row).fab.dir = [e.dropped tbl row.toNat] := by
  rw [State.copiesDropped, State.dropCopies_dir]
  change s.fab.dir.map _ = _
  rw [hd]
  refine congrArg (fun x => [x]) (if_congr ?_ rfl rfl)
  rw [Bool.and_eq_true, beq_iff_eq, beq_iff_eq]

theorem execReplicaInvalidate_of_idle {e : ReplicaDir} (hl : s.live = true) (hd : s.fab.dir = [e]) (ht : e.table = tbl.val)
    (hr : e.row = row.toNat) (ha : e.await = []) (hm : e.mask ≠ []) : ∃ t d, exec (.replicaInvalidate tbl row) s = .next t ∧
    t.fab.dir = [d] ∧ d.epoch = (e.epoch + 1) % 2 ^ 32 ∧ d.puts = [] ∧ d.await = e.mask.map (fun k => (k, 1)) ∧ d.mask = e.mask := by
  have hdrop : (s.copiesDropped tbl row).fab.dir = [{ e with puts := [] }] := by
    rw [State.copiesDropped_dir hd, ReplicaDir.dropped, if_pos ⟨ht, hr⟩]
  have hl1 : (s.copiesDropped tbl row).fab.dir.filter (fun e => e.table == tbl.val && e.row == row.toNat && e.await.isEmpty && !e.mask.isEmpty) =
      [{ e with puts := [] }] := by
    rw [hdrop, List.filter_cons_of_pos (by simp [ht, hr, ha, hm])]
    rfl
  refine ⟨_, ReplicaDir.invalidated { e with puts := [] } ((e.epoch + 1) % 2 ^ 32), execReplicaInvalidate_of_live hl, ?_, rfl, rfl, rfl, rfl⟩
  rw [hl1]
  refine (State.invalidate_dir _ _).trans ?_
  rw [hdrop, List.map_singleton, if_pos (beq_self_eq_true _)]

theorem execReplicaInvalidate_of_other {e : ReplicaDir} (hl : s.live = true) (hd : s.fab.dir = [e])
    (h : e.table ≠ tbl.val ∨ e.row ≠ row.toNat ∨ e.await ≠ [] ∨ e.mask = []) : ∃ t, exec (.replicaInvalidate tbl row) s = .next t ∧
    t.fab.dir = [if e.table = tbl.val ∧ e.row = row.toNat then { e with puts := [] } else e] := by
  have hdrop : (s.copiesDropped tbl row).fab.dir = [e.dropped tbl row.toNat] := State.copiesDropped_dir hd
  have hsame : (e.dropped tbl row.toNat).table = e.table ∧ (e.dropped tbl row.toNat).row = e.row ∧
      (e.dropped tbl row.toNat).await = e.await ∧ (e.dropped tbl row.toNat).mask = e.mask := by
    unfold ReplicaDir.dropped
    split <;> exact ⟨rfl, rfl, rfl, rfl⟩
  obtain ⟨h1, h2, h3, h4⟩ := hsame
  have hl1 : (s.copiesDropped tbl row).fab.dir.filter (fun e => e.table == tbl.val && e.row == row.toNat && e.await.isEmpty && !e.mask.isEmpty) =
      [] := by
    rw [hdrop, List.filter_cons_of_neg]
    · rfl
    rw [h1, h2, h3, h4]
    simp only [Bool.and_eq_true, beq_iff_eq, List.isEmpty_iff, Bool.not_eq_true', List.isEmpty_eq_false_iff]
    rintro ⟨⟨⟨ht, hr⟩, ha⟩, hm⟩
    rcases h with h | h | h | h
    · exact h ht
    · exact h hr
    · exact h ha
    · exact hm h
  refine ⟨_, execReplicaInvalidate_of_live hl, ?_⟩
  rw [hl1]
  exact hdrop

theorem execInvalRetry_of_found {e : ReplicaDir} {n : Nat} (hl : s.live = true)
    (hf : s.fab.dir.find? (fun x => x.table == tbl.val && x.row == row.toNat && x.await.any (fun a => a.1 == k.val)) = some e)
    (hn : e.await.find? (fun a => a.1 == k.val) = some (k.val, n)) : exec (.invalRetry tbl row k) s = .next (if n ≤ 3 then
      (s.onDir (fun x => x == e) (fun x => { x with await := x.await.map (fun a => if a.1 = k.val then (k.val, n + 1) else a) })).replicaSend k
        0x10 tbl row.toNat e.epoch
      else s.linkDown (s.peer k).port) := by
  change execInvalRetry tbl row k s = _
  unfold execInvalRetry
  dsimp only
  rw [hf]
  dsimp only
  rw [hn]
  exact congrArg Host.Outcome.next (if_neg (by rw [hl]; decide))

/-! ### The messages -/

variable {port : Fin 8} {r : PeerReq} {s1 : State}

theorem execInvalReceive_of_taken (hl : s.live = true) (h : s.takeRequest port (fun o => o == 0x10) = some (r, s1)) :
    ∃ t, exec (.invalReceive port) s = .next t ∧
      t.fab.replicas = s.fab.replicas.filter (fun x => !(x.home == r.src && x.table == repTable r.flit && x.row == repRow r.flit)) := by
  change ∃ t, execInvalReceive port s = _ ∧ _
  unfold execInvalReceive
  rw [h]
  refine ⟨_, congrArg Host.Outcome.next (if_neg (by rw [hl]; decide)), ?_⟩
  refine (State.replicaSend_only _ _ _ _ _ _).replicas.trans ?_
  exact congrArg (List.filter _) (State.takeRequest_only h).replicas

theorem execInvalReplyReceive_of_taken (hl : s.live = true) (h : s.takeInbox port (fun o => o == 0x11 || o == 0x12) = some (r, s1))
    (hb : (s.rd 0x500290).getLsbD 63 = false) : ∃ t, exec (.invalReplyReceive port) s = .next t ∧
    t.fab.dir = s.fab.dir.map (fun e => if e.table = repTable r.flit ∧ e.row = repRow r.flit ∧ (∃ a ∈ e.await, a.1 = r.src) then
      { e with mask := e.mask.filter (fun a => a != r.src), await := e.await.filter (fun a => a.1 != r.src), puts := e.puts.filter (fun a => a != r.src) } else e) := by
  have hs := State.takeInbox_only h
  change ∃ t, execInvalReplyReceive port s = _ ∧ _
  unfold execInvalReplyReceive
  rw [h]
  refine ⟨_, congrArg Host.Outcome.next (if_neg (by rw [hl]; decide)), ?_⟩
  rw [State.clearSharer_dir _ _ _ (by rw [hs.rd]; exact hb), hs.dir]
  refine List.map_congr_left fun e _ => if_congr ?_ rfl rfl
  simp only [Bool.and_eq_true, beq_iff_eq, List.any_eq_true, and_assoc]

theorem execGrantReceive_of_taken (hl : s.live = true) (h : s.takeRequest port (fun o => o == 0x14) = some (r, s1)) :
    ∃ t, exec (.grantReceive port) s = .next t ∧
      (⟨r.src, repTable r.flit, repRow r.flit, tblVersion (s.tbl (repTable r.flit)), r.flit.w2.toNat⟩ : Replica) ∈ t.fab.replicas := by
  change ∃ t, execGrantReceive port s = _ ∧ _
  unfold execGrantReceive
  rw [h]
  refine ⟨_, congrArg Host.Outcome.next (if_neg (by rw [hl]; decide)), ?_⟩
  exact List.mem_append_right _ (List.mem_singleton.mpr rfl)

theorem execEvict_of_found {home : Fin 8} {x : Replica} (hl : s.live = true)
    (hf : s.fab.replicas.find? (fun y => y.home == home.val && y.table == tbl.val && y.row == row.toNat) = some x) :
    ∃ t, exec (.evict home tbl row) s = .next t ∧ t.fab.replicas = s.fab.replicas.erase x ∧ t.fab.dir = s.fab.dir := by
  change ∃ t, execEvict home tbl row s = _ ∧ _
  unfold execEvict
  rw [hf]
  refine ⟨_, congrArg Host.Outcome.next (if_neg (by rw [hl]; decide)), ?_, ?_⟩
  · exact (State.replicaSend_only _ _ _ _ _ _).replicas
  · exact (State.replicaSend_only _ _ _ _ _ _).dir

/-- A directory entry that an eviction concerns: its sharer's grant has the epoch named, and no later invalidate. -/
def ReplicaDir.evictable (r : PeerReq) (e : ReplicaDir) : Bool :=
  e.table == repTable r.flit && e.row == repRow r.flit && e.mask.contains r.src && Sparse.get 0 e.grants r.src == r.flit.w2.toNat &&
    decide (Sparse.get 0 e.invals r.src < r.flit.w2.toNat)

theorem ReplicaDir.evictable_iff {e : ReplicaDir} : e.evictable r = true ↔ e.table = repTable r.flit ∧ e.row = repRow r.flit ∧ r.src ∈ e.mask ∧
    Sparse.get 0 e.grants r.src = r.flit.w2.toNat ∧ Sparse.get 0 e.invals r.src < r.flit.w2.toNat := by
  simp [ReplicaDir.evictable, and_assoc]

theorem ReplicaDir.not_evictable_without (e : ReplicaDir) : (e.without r.src).evictable r = false := by
  simp [ReplicaDir.evictable, ReplicaDir.without]

theorem execEvictReceive_of_taken (hl : s.live = true) (h : s.takeRequest port (fun o => o == 0x13) = some (r, s1)) :
    exec (.evictReceive port) s = .next (if s.fab.dir.any (ReplicaDir.evictable r) then s1.clearSharer (ReplicaDir.evictable r) r.src
      else s1.bump (cntPort port 4) 1) := by
  change execEvictReceive port s = _
  unfold execEvictReceive
  rw [h]
  exact congrArg Host.Outcome.next (if_neg (by rw [hl]; decide))

end

/-- Settles O34: the directory and the replicas after each command, sends changing neither. -/
theorem replicaProtocol : Obligations.ReplicaProtocol := by
  refine ⟨fun s tbl row k off hl hs hsh hr hk hp hsf hd ho => ?_, fun s tbl row k e hl hf => ?_, fun s tbl row e hl hd =>
    ⟨execReplicaInvalidate_of_idle hl hd, execReplicaInvalidate_of_other hl hd⟩, fun s tbl row k e n hl hf hn => ⟨fun h3 => ?_, fun h3 => ?_⟩,
    fun s s1 port r => execInvalReceive_of_taken, fun s s1 port r => execInvalReplyReceive_of_taken,
    fun s s1 port r => execGrantReceive_of_taken, fun s home tbl row x => execEvict_of_found, fun s s1 port r hl h hb => ?_⟩
  · obtain ⟨hset, hdir, hops, hhbm, hrods⟩ := State.copySent_spec (t := tbl) (r := row.toNat) (off := off) hp hsf ho
    exact ⟨_, (execReplicateRow_of_first hl hs hsh hr hk hp hsf hd ho).trans (congrArg _ hset), hdir, hops, hhbm, hrods⟩
  · refine ⟨_, execReplicaGrant_of_found hl hf, (State.replicaSend_only _ _ _ _ _ _).dir.trans ?_⟩
    refine List.map_congr_left fun x _ => if_congr ?_ rfl rfl
    exact beq_iff_eq
  · refine ⟨_, (execInvalRetry_of_found hl hf hn).trans (congrArg _ (if_pos h3)), (State.replicaSend_only _ _ _ _ _ _).dir.trans ?_⟩
    refine List.map_congr_left fun x _ => if_congr ?_ rfl rfl
    exact beq_iff_eq
  · exact (execInvalRetry_of_found hl hf hn).trans (congrArg _ (if_neg (by omega)))
  · have hs := State.takeRequest_only h
    refine ⟨_, execEvictReceive_of_taken hl h, fun ⟨e, he, hg⟩ => ?_, fun hno => ?_⟩
    · rw [if_pos (List.any_eq_true.mpr ⟨e, he, ReplicaDir.evictable_iff.mpr hg⟩), State.clearSharer_dir _ _ _ (by rw [hs.rd]; exact hb)]
      intro x hx hgx
      obtain ⟨y, -, rfl⟩ := List.mem_map.mp hx
      have hgood := ReplicaDir.evictable_iff.mpr hgx
      split at hgood
      · rw [ReplicaDir.not_evictable_without] at hgood
        exact Bool.false_ne_true hgood
      · next hy => exact hy hgood
    · have hany : ¬s.fab.dir.any (ReplicaDir.evictable r) = true := fun hany => by
        obtain ⟨e, he, hg⟩ := List.any_eq_true.mp hany
        exact hno e he (ReplicaDir.evictable_iff.mp hg)
      rw [if_neg hany]
      refine ⟨?_, ?_⟩
      · obtain ⟨regs, hbump⟩ := s1.bump_spec (cntPort port 4) 1
        rw [hbump]
        exact hs.dir
      · rw [State.rd_bump_self, if_neg (by decide), hs.rd]

end Sys2Proof.Machine
end

section
/-! PROOF. What a lost link leaves, and the state in which a port starts its bring-up again (14_exfe_optical_fabric.md R304, R315 to R317). -/

namespace Sys2Proof.Machine

/-! ### Lanes commanded -/

/-- From `s` to `u` sources of one port have been commanded: only what is asked of them, and whether they are lit, has changed. -/
structure LanesAsked (p : Nat) (s u : State) : Prop extends PortsOnly s u where
  other : ∀ q, q ≠ p → u.port q = s.port q
  port : ∃ asked sources, u.port p = { s.port p with asked := asked, sources := sources }

theorem LanesAsked.refl (p : Nat) (s : State) : LanesAsked p s s := ⟨.refl s, fun _ _ => rfl, ⟨_, _, rfl⟩⟩

theorem LanesAsked.trans {p : Nat} {s t u : State} (h : LanesAsked p s t) (k : LanesAsked p t u) : LanesAsked p s u := by
  obtain ⟨_, _, ht⟩ := h.port
  obtain ⟨asked, sources, hu⟩ := k.port
  refine ⟨h.toPortsOnly.trans k.toPortsOnly, fun q hq => (k.other q hq).trans (h.other q hq), asked, sources, ?_⟩
  rw [hu, ht]

section
variable (s : State) (p : Nat)

theorem LanesAsked.setPort {x : Port} (h : ∃ asked sources, x = { s.port p with asked := asked, sources := sources }) :
    LanesAsked p s (s.setPort p x) :=
  ⟨⟨rfl⟩, fun _ hq => s.port_setPort_ne x hq, by rw [State.port_setPort]; exact h⟩

theorem State.laserAsk_lanes (op n v : Nat) : LanesAsked p s (s.laserAsk p op n v) := by
  have h := LanesAsked.setPort s p (x := { s.port p with asked := (s.port p).asked ++ [(op, n)] }) ⟨_, _, rfl⟩
  exact ⟨⟨rfl⟩, h.other, h.port⟩

/-- One source lit at a power, and one darkened. -/
def State.lightLane (s : State) (p value n : Nat) : State :=
  ((s.laserAsk p 3 n value).laserAsk p 4 n 1).onPort p (fun x =>
    { x with sources := Sparse.put 0 x.sources n (Sparse.get 0 x.sources n / 2 * 2 + 1) })
def State.darkenLane (s : State) (p n : Nat) : State :=
  (s.laserAsk p 4 n 0).onPort p (fun x => { x with sources := Sparse.put 0 x.sources n (Sparse.get 0 x.sources n / 2 * 2) })

theorem State.lightLane_lanes (v n : Nat) : LanesAsked p s (s.lightLane p v n) :=
  ((s.laserAsk_lanes p 3 n v).trans (State.laserAsk_lanes _ p 4 n 1)).trans (.setPort _ p ⟨_, _, rfl⟩)

theorem State.darkenLane_lanes (n : Nat) : LanesAsked p s (s.darkenLane p n) := (s.laserAsk_lanes p 4 n 0).trans (.setPort _ p ⟨_, _, rfl⟩)

theorem State.lightLanes_lanes (v : Nat) (l : List Nat) : LanesAsked p s (s.lightLanes p v l) :=
  State.forEach_induct (P := LanesAsked p s) (fun n u h => h.trans (u.lightLane_lanes p v n)) l (.refl p s)

theorem State.darkenLanes_lanes (l : List Nat) : LanesAsked p s (s.darkenLanes p l) :=
  State.forEach_induct (P := LanesAsked p s) (fun n u h => h.trans (u.darkenLane_lanes p n)) l (.refl p s)

theorem State.laserAsk_sources (op n v : Nat) : ((s.laserAsk p op n v).port p).sources = (s.port p).sources := by
  rw [State.laserAsk, State.onPort, State.port_setPort]
  rfl

theorem State.lightLane_sources (v n : Nat) : ((s.lightLane p v n).port p).sources =
    Sparse.put 0 (s.port p).sources n (Sparse.get 0 (s.port p).sources n / 2 * 2 + 1) := by
  rw [State.lightLane, State.onPort, State.port_setPort, State.laserAsk_sources, State.laserAsk_sources]

/-- Every lane of the list is lit. -/
theorem State.lightLanes_lit (v : Nat) (l : List Nat) : ∀ n ∈ l, Sparse.get 0 ((s.lightLanes p v l).port p).sources n % 2 = 1 := by
  refine State.forEach_all (I := fun _ => True) (Q := fun n u => Sparse.get 0 (u.port p).sources n % 2 = 1) (fun _ _ h => h)
    (fun n u _ => ?_) (fun n m u _ h => ?_) l trivial
  · change Sparse.get 0 ((u.lightLane p v n).port p).sources n % 2 = 1
    rw [State.lightLane_sources, Sparse.get_put_self]
    omega
  · change Sparse.get 0 ((u.lightLane p v m).port p).sources n % 2 = 1
    rw [State.lightLane_sources]
    by_cases hn : n = m
    · rw [hn, Sparse.get_put_self]
      omega
    · rw [Sparse.get_put_ne _ _ _ _ hn, h]

/-- What the probing port is. -/
theorem State.portProbe_port : ∃ upFails asked sources, (s.portProbe p).port p = { Port.init with
    train := .probing, lasEn := true, upFails := upFails, asked := asked, sources := sources } := by
  unfold State.portProbe
  extract_lets y lit
  obtain ⟨_, _, h⟩ := ((State.darkenLanes_lanes _ p lit).trans (State.lightLanes_lanes _ p (s.rf 0x600018 15 0) [0, 1])).port
  exact ⟨_, _, _, by rw [h, State.onPort, State.port_setPort]⟩

/-! ### A port that starts again -/

/-- A port whose bring-up starts again: dark, or probing, without a partner and a session. -/
structure Restarted (x : Port) : Prop where
  train : x.train = .dark ∨ x.train = .probing
  partner : x.partner = none
  session : x.session = 0

theorem State.portProbe_restarted : Restarted ((s.portProbe p).port p) := by
  obtain ⟨_, _, _, h⟩ := s.portProbe_port p
  rw [h]
  exact ⟨.inr rfl, rfl, rfl⟩

theorem State.portDark_restarted : Restarted ((s.portDark p).port p) := by
  rw [State.portDark, State.onPort, State.port_setPort]
  exact ⟨.inl rfl, rfl, rfl⟩

/-- One port starts again, and no other changes. -/
structure PortRestarted (p : Nat) (s u : State) : Prop extends PortsOnly s u where
  other : ∀ q, q ≠ p → u.port q = s.port q
  port : Restarted (u.port p)

theorem PortRestarted.after {p : Nat} {s t u : State} (h : PortRestarted p t u) (k : PortsOnly s t) (hq : ∀ q, q ≠ p → t.port q = s.port q) :
    PortRestarted p s u :=
  ⟨k.trans h.toPortsOnly, fun q hne => (h.other q hne).trans (hq q hne), h.port⟩

theorem State.portProbe_again : PortRestarted p s (s.portProbe p) :=
  ⟨(s.portProbe_spec p).1, (s.portProbe_spec p).2.1, s.portProbe_restarted p⟩

theorem State.portDark_again : PortRestarted p s (s.portDark p) :=
  ⟨⟨rfl⟩, fun _ hq => s.port_setPort_ne _ hq, s.portDark_restarted p⟩

theorem State.portRestart_again : PortRestarted p s (s.portRestart p) := by
  unfold State.portRestart
  extract_lets x failed fails
  split
  · exact s.portDark_again p
  · split
    · refine ⟨⟨rfl⟩, fun q hq => ?_, ?_⟩
      · exact (State.port_setPort_ne _ _ hq).trans (s.port_setPort_ne _ hq)
      · rw [State.onPort, State.port_setPort]
        obtain ⟨h1, h2, h3⟩ := s.portDark_restarted p
        exact ⟨h1, h2, h3⟩
    · exact (State.portProbe_again _ p).after ⟨rfl⟩ (fun q hq => s.port_setPort_ne _ hq)

theorem State.portRestart_dark (h : s.portEnabled p = false) : ((s.portRestart p).port p).train = .dark := by
  have he : s.portRestart p = s.portDark p := if_pos (by rw [h]; rfl)
  rw [he]
  exact (s.portDark_port p).1

end

/-! ### A peer that is gone -/

/-- An operation in flight to a position takes its response. -/
def RemOp.absent (k : Nat) (o : RemOp) : RemOp := if adClass o.addr = 4 ∧ adPeer o.addr = k ∧ o.done = none then { o with done := some 5 } else o

theorem RemOp.absent_absent (k : Nat) (o : RemOp) : (o.absent k).absent k = o.absent k := by
  by_cases h : adClass o.addr = 4 ∧ adPeer o.addr = k ∧ o.done = none
  · have e : o.absent k = { o with done := some 5 } := if_pos h
    rw [e]
    exact if_neg fun h => absurd h.2.2 (Option.some_ne_none _)
  · have e : o.absent k = o := if_neg h
    rw [e, e]

theorem State.forEach_onRod_rod {g : Rod → Rod} (hg : ∀ r, g (g r) = g r) (k : Nat) : ∀ (l : List Nat) (s : State),
    (s.forEach l (fun a u => u.onRod a g)).rod k = if k ∈ l then g (s.rod k) else s.rod k
  | [], _ => rfl
  | a :: l, s => by
    refine (State.forEach_onRod_rod hg k l (s.onRod a g)).trans ?_
    by_cases ha : k = a
    · subst ha
      rw [State.onRod, State.rod_setRod, hg, if_pos List.mem_cons_self, ite_self]
    · rw [State.rod_onRod_ne s g ha]
      exact if_congr (by simp [ha]) rfl rfl

section
variable (s : State) (k : Nat)

/-- The rods' operations in flight to a position answered. -/
def State.rodsAbsent : State := s.forEach (s.rods.map (·.1)) (fun ph s => s.onRod ph (fun r => { r with rem := r.rem.map (RemOp.absent k) }))

theorem State.rodsAbsent_rod : ∀ e ∈ s.rods, ((s.rodsAbsent k).rod e.1).rem = (s.rod e.1).rem.map (RemOp.absent k) := by
  intro e he
  unfold State.rodsAbsent
  rw [State.forEach_onRod_rod, if_pos (List.mem_map_of_mem he)]
  intro r
  simp only [List.map_map]
  refine congrArg (fun l => { r with rem := l }) (List.map_congr_left fun o _ => RemOp.absent_absent k o)

theorem State.failOps_eq : s.failOps k 5 = ((s.rodsAbsent k).opsFail
    (fun o => (adClass o.addr == 4 && adPeer o.addr == k) || ((s.peer k).shelf && adClass o.addr == 5)) 5).settleOps := by
  have hf : (fun o : RemOp => if adClass o.addr == 4 && adPeer o.addr == k && o.done.isNone then { o with done := some 5 } else o) =
      RemOp.absent k := by
    funext o
    refine if_congr ?_ rfl rfl
    simp [and_assoc]
  rw [State.rodsAbsent, ← hf]
  rfl

theorem State.rodsAbsent_only : s.rodsAbsent k = { s with rods := (s.rodsAbsent k).rods } := by
  unfold State.rodsAbsent
  refine State.forEach_induct (P := fun u => u = { s with rods := u.rods }) (fun ph u hu => ?_) _ rfl
  rw [hu]
  rfl

theorem State.rodsAbsent_kept : LinkKept s (s.rodsAbsent k) := by
  rw [s.rodsAbsent_only k]
  exact .of_eq rfl rfl rfl rfl rfl rfl

theorem State.failOps_kept : LinkKept s (s.failOps k 5) := by
  rw [State.failOps_eq]
  exact ((s.rodsAbsent_kept k).trans (State.onOps_kept _ _)).trans (State.settleOps_kept _)

theorem State.failOps_rods (h : s.fab.ops = []) : (s.failOps k 5).rods = (s.rodsAbsent k).rods := by
  have hops : ((s.rodsAbsent k).opsFail
      (fun o => (adClass o.addr == 4 && adPeer o.addr == k) || ((s.peer k).shelf && adClass o.addr == 5)) 5).fab.ops = [] := by
    change (s.rodsAbsent k).fab.ops.map _ = []
    rw [s.rodsAbsent_only k]
    change s.fab.ops.map _ = []
    rw [h]
    rfl
  rw [State.failOps_eq, State.settleOps_of_pending]
  · rfl
  · rw [hops]
    exact fun o ho => absurd ho List.not_mem_nil

/-- From `s` to `u` replicas may have been released. -/
structure Withdrawn (s u : State) : Prop where
  rods : u.rods = s.rods
  peers : u.fab.peers = s.fab.peers
  ports : u.fab.ports = s.fab.ports
  flt : u.flt = s.flt
  regs : ∀ o, o ≠ 0x500290 → u.rd o = s.rd o

theorem State.releaseTable_withdrawn (t : Nat) : Withdrawn s (s.releaseTable t) := by
  unfold State.releaseTable State.setRf
  dsimp only
  refine ⟨State.setReg_rods _ _ _, ?_, ?_, State.setReg_flt _ _ _, fun o ho => (State.rd_setReg_ne _ _ ho).trans (State.rd_of_regs rfl rfl o)⟩
  · rw [State.setReg_fab]
    dsimp only
    split <;> rfl
  · rw [State.setReg_fab]
    dsimp only
    split <;> rfl

theorem State.clearSharer_withdrawn (sel : ReplicaDir → Bool) : Withdrawn s (s.clearSharer sel k) := by
  have htry (u : State) : Withdrawn u u.tryRelease := by
    unfold State.tryRelease
    dsimp only
    split
    · exact u.releaseTable_withdrawn _
    · exact ⟨rfl, rfl, rfl, rfl, fun _ _ => rfl⟩
  obtain ⟨h1, h2, h3, h4, h5⟩ := htry (s.onDir sel (fun e => e.without k))
  exact ⟨h1, h2, h3, h4, fun o ho => (h5 o ho).trans (State.rd_of_regs rfl rfl o)⟩

/-- A position whose entry has become ABSENT. -/
structure PeerGone (k : Nat) (s u : State) : Prop where
  st : (u.peer k).st = 0
  pending : (u.rd 0x30118).getLsbD 7 = true
  port : ∀ q, SendSide (s.port q) (u.port q)
  enabled : ∀ q, u.portEnabled q = s.portEnabled q
  rods : s.fab.ops = [] → ∀ e ∈ s.rods, (u.rod e.1).rem = (s.rod e.1).rem.map (RemOp.absent k)

/-- The replicas from a home dropped. -/
def State.dropHome : State := s.onFab (fun x => { x with replicas := x.replicas.filter (fun r => r.home != k) })

theorem State.dropHome_kept : LinkKept s (s.dropHome k) := .of_eq rfl rfl rfl rfl rfl rfl

theorem State.rd_setPeer (x : Peer) (o : Nat) : (s.setPeer k x).rd o = s.rd o := State.rd_of_regs rfl rfl o

/-- The entry ABSENT, with the operations in flight to it answered. -/
def State.entryAbsent : State := s.setPeer k { s.peer k with st := 0 }
def State.opsAbsent : State := ((s.entryAbsent k).failOps k 5).dropHome k

theorem State.opsAbsent_kept : LinkKept (s.entryAbsent k) (s.opsAbsent k) := (State.failOps_kept _ k).trans (State.dropHome_kept _ k)

theorem State.opsAbsent_rods (h : s.fab.ops = []) : (s.opsAbsent k).rods = ((s.entryAbsent k).rodsAbsent k).rods :=
by
  have h' : (s.entryAbsent k).fab.ops = [] := h
  have hr := (s.entryAbsent k).failOps_rods k h'
  unfold State.opsAbsent
  generalize (s.entryAbsent k).failOps k 5 = u at hr ⊢
  exact hr

theorem State.peerGone_eq : s.peerGone k = ((s.opsAbsent k).clearSharer (fun _ => true) k).event 7 := rfl

theorem State.event_frame (n : Nat) : (s.event n).fab = s.fab ∧ (s.event n).flt = s.flt ∧ (s.event n).rods = s.rods :=
  ⟨State.setReg_fab _ _ _, State.setReg_flt _ _ _, State.setReg_rods _ _ _⟩

/-- A release and the event that follow the answers. -/
theorem LinkKept.gone {s t u : State} (h : LinkKept (s.entryAbsent k) t) (w : Withdrawn t u)
    (hr : s.fab.ops = [] → t.rods = ((s.entryAbsent k).rodsAbsent k).rods) : PeerGone k s (u.event 7) := by
  obtain ⟨hfab, hflt, hrods⟩ := u.event_frame 7
  refine ⟨?_, State.event_pending _ (by decide), fun q => ?_, fun q => ?_, fun hops e he => ?_⟩
  · rw [State.peer, hfab, w.peers, h.peers]
    exact congrArg Peer.st (s.peer_setPeer k _)
  · have hp : (u.event 7).port q = t.port q := by rw [State.port, hfab, w.ports, State.port]
    rw [hp]
    exact h.port q
  · rw [State.portEnabled, State.portEnabled, State.event_rd_ne _ _ (by decide), w.regs _ (by decide), h.regs _ (by decide), hflt, w.flt,
      h.frozen, State.entryAbsent, State.rd_setPeer]
    rfl
  · rw [State.rod, hrods, w.rods, hr hops]
    exact (s.entryAbsent k).rodsAbsent_rod k e he

theorem State.peerGone_gone : PeerGone k s (s.peerGone k) := by
  rw [State.peerGone_eq]
  exact LinkKept.gone k (s.opsAbsent_kept k) (State.clearSharer_withdrawn _ k _) (s.opsAbsent_rods k)

end

/-! ### A link that goes down -/

section
variable {s : State} {p k : Nat}

/-- The state in which the position is gone and its port starts again. -/
def State.goneRestarted (s : State) (p k : Nat) : State := (s.peerGone k).portRestart p

theorem State.goneRestarted_again : PortRestarted p (s.peerGone k) (s.goneRestarted p k) := State.portRestart_again _ p

theorem State.linkDown_of_pos (h : s.posOf p = some k) : s.linkDown p = s.goneRestarted p k ∨ ∃ q, q ≠ p ∧ (s.port q).train = .held ∧
    s.linkDown p = ((s.goneRestarted p k).setPeer k { (s.goneRestarted p k).peer k with st := 4, port := q }).portRestart q := by
  have e : s.linkDown p = match (s.goneRestarted p k).heldPorts k with
      | [] => s.goneRestarted p k
      | q :: _ => ((s.goneRestarted p k).setPeer k { (s.goneRestarted p k).peer k with st := 4, port := q }).portRestart q := by
    rw [State.linkDown, h] <;> rfl
  cases hq : (s.goneRestarted p k).heldPorts k with
  | nil =>
    left
    rw [e, hq]
  | cons q l =>
    right
    have hmem : q ∈ (s.goneRestarted p k).heldPorts k := by rw [hq]; exact List.mem_cons_self
    unfold State.heldPorts at hmem
    have hheld : ((s.goneRestarted p k).port q).train = .held := by
      have h2 := (List.mem_filter.mp hmem).2
      rw [Bool.and_eq_true, decide_eq_true_eq] at h2
      exact h2.1
    have hag := State.goneRestarted_again (s := s) (p := p) (k := k)
    have hne : q ≠ p := fun e => by
      rw [e] at hheld
      rcases hag.port.train with h | h <;> rw [h] at hheld <;> exact absurd hheld (by decide)
    refine ⟨q, hne, ?_, by rw [e, hq]⟩
    obtain ⟨⟨_, _, _, _, _, _, _, _, _, _, hx⟩, -⟩ := (s.peerGone_gone k).port q
    rw [hag.other q hne, hx] at hheld
    exact hheld

theorem PortsOnly.peer {s u : State} (h : PortsOnly s u) (k : Nat) : u.peer k = s.peer k := by rw [State.peer, h.fab, State.peer]
theorem PortsOnly.rods {s u : State} (h : PortsOnly s u) : u.rods = s.rods := by rw [h.state]

theorem PeerGone.left {t u : State} (h : PeerGone k s t) (hst : (u.peer k).st = 0 ∨ (u.peer k).st = 4 ∧ ∃ q, (s.port q).train = .held)
    (hr : u.rd 0x30118 = t.rd 0x30118) (hrods : u.rods = t.rods) : PeerLeft s u k := by
  refine ⟨hst, by rw [hr]; exact h.pending, fun hops e he => ?_⟩
  rw [State.rod, hrods]
  exact h.rods hops e he

/-- A link that reached a position goes down. -/
theorem State.linkDown_left (h : s.posOf p = some k) : PeerLeft s (s.linkDown p) k := by
  have hg := s.peerGone_gone k
  have hag := (State.goneRestarted_again (s := s) (p := p) (k := k)).toPortsOnly
  rcases State.linkDown_of_pos h with hd | ⟨q, -, hq, hd⟩
  · rw [hd]
    exact hg.left (.inl (by rw [hag.peer]; exact hg.st)) (hag.rd _) hag.rods
  · rw [hd]
    have hag2 := (State.portRestart_again ((s.goneRestarted p k).setPeer k { (s.goneRestarted p k).peer k with st := 4, port := q }) q).toPortsOnly
    refine hg.left (.inr ⟨?_, q, hq⟩) ?_ (hag2.rods.trans hag.rods)
    · rw [hag2.peer, State.peer_setPeer]
    · rw [hag2.rd]
      exact (State.rd_of_regs rfl rfl _).trans (hag.rd _)

theorem State.linkDown_dark (h : s.posOf p = some k) (he : s.portEnabled p = false) : ((s.linkDown p).port p).train = .dark := by
  have hdark : ((s.goneRestarted p k).port p).train = .dark :=
    State.portRestart_dark _ p (((s.peerGone_gone k).enabled p).trans he)
  rcases State.linkDown_of_pos h with hd | ⟨q, hne, -, hd⟩
  · rw [hd, hdark]
  · rw [hd, (State.portRestart_again _ q).other p hne.symm]
    exact hdark

end

end Sys2Proof.Machine
end

section
/-! PROOF. Bring-up of a port, the refusal of a partner and the leaving of a peer (14_exfe_optical_fabric.md R304, R315 to R317). -/

namespace Sys2Proof.Machine

section
variable {s : State} {p : Fin 8} (hup : s.fabUp = true)

/-! ### Light and frames -/

theorem State.port_onPort (s : State) (q : Nat) (f : Port → Port) : (s.onPort q f).port q = f (s.port q) := by
  rw [State.onPort, State.port_setPort]

section
include hup

/-- The port at full power, every lane lit. -/
def State.fullPower (s : State) (p : Nat) : State :=
  (s.onPort p (fun x => { x with train := .full })).lightLanes p (s.rf 0x600020 15 0) s.portLanes

theorem execProbeLightSeen_eq : exec (.probeLightSeen p) s = .next (if (s.port p).train = .probing then s.fullPower p else s) := by
  refine congrArg Host.Outcome.next (if_congr ?_ rfl rfl)
  rw [hup, Bool.true_and, decide_eq_true_eq]

theorem execLightLost_eq : exec (.lightLost p) s = .next (match (s.port p).train with
    | .dark => s
    | .probing => s
    | .full => s.portProbe p
    | _ => s.linkDown p) :=
  congrArg Host.Outcome.next (if_neg (by rw [hup]; decide))

/-- The identity exchange of a port that has locked. -/
def State.identitySent (s : State) (p : Nat) : State :=
  ((s.onPort p (fun x => { x with train := .locked })).linkSend p
    (mkFlit 0x20 s.fab.pos 0 0 1 0 0 (s.fab.pos * 2) (w64 5) ((s.onPort p (fun x => { x with train := .locked })).rd 0x600008) [])).send
    (.ctrl p 5 ((s.onPort p (fun x => { x with train := .locked })).rd 0x600008).toNat)

theorem execFrameLock_eq : exec (.frameLock p) s = .next (if (s.port p).train = .full then s.identitySent p else s) := by
  refine congrArg Host.Outcome.next (if_congr ?_ ?_ rfl)
  · rw [hup, Bool.true_and, decide_eq_true_eq]
  · rfl

end

theorem State.fullPower_spec (s : State) (p : Nat) : ((s.fullPower p).port p).train = .full ∧
    ∀ n, n < 32 + s.design.spareLanes → Sparse.get 0 ((s.fullPower p).port p).sources n % 2 = 1 := by
  unfold State.fullPower
  refine ⟨?_, fun n hn => State.lightLanes_lit _ p _ _ n (List.mem_range.mpr hn)⟩
  obtain ⟨_, _, h⟩ := (State.lightLanes_lanes (s.onPort p (fun x => { x with train := .full })) p (s.rf 0x600020 15 0) s.portLanes).port
  rw [h, State.onPort, State.port_setPort]

theorem State.identitySent_train (s : State) (p : Nat) : ((s.identitySent p).port p).train = .locked := by
  unfold State.identitySent
  obtain ⟨⟨_, _, _, _, _, _, _, _, _, _, h⟩, -⟩ := (State.linkSend_sent (s.onPort p (fun x => { x with train := .locked })) p
    (mkFlit 0x20 s.fab.pos 0 0 1 0 0 (s.fab.pos * 2) (w64 5) ((s.onPort p (fun x => { x with train := .locked })).rd 0x600008) [])).side
  refine (congrArg Port.train h).trans ?_
  rw [State.onPort, State.port_setPort]

/-! ### Partners -/

/-- A refused partner's port starts again, and FAB_REFUSED is pending. -/
theorem State.refusePartner_spec (s : State) (p k cause : Nat) : ((s.refusePartner p k cause).rd 0x30118).getLsbD 8 = true ∧
    Restarted ((s.refusePartner p k cause).port p) := by
  unfold State.refusePartner
  extract_lets s1 x s2
  have h := (((s2.onFab (fun x => { x with refused := Sparse.put 0 x.refused p cause })).event 8).portRestart_again p)
  exact ⟨by rw [h.rd]; exact State.event_pending _ (by decide), h.port⟩

section
variable {id : PartnerId}

/-- The port identified, its partner's entry TRAINING. -/
def State.partnerEntered (s : State) (p : Nat) (id : PartnerId) : State :=
  (s.onPort p (fun x => { x with train := .identified, partner := some id })).setPeer (s.entryOf id)
    { s.peer (s.entryOf id) with st := 1, port := p, shelf := id.shelf, epoch := id.epoch.toNat }

theorem State.refusal_of_good (hb : id.boardId = s.rd 0x600008) (hs : id.shelf = false) (hne : id.pos.val ≠ s.fab.pos) : s.refusal p id = 0 := by
  unfold State.refusal
  rw [if_neg (not_not.mpr hb), hs]
  simp [hne]

theorem execIdentityReceive_of_good (hup : s.fabUp = true) (ht : (s.port p).train = .locked) (hb : id.boardId = s.rd 0x600008)
    (hs : id.shelf = false) (hne : id.pos.val ≠ s.fab.pos) (hp : s.present id.pos = false) :
    exec (.identityReceive p id) s = .next (s.partnerEntered p id) := by
  have he : s.entryOf id = id.pos := by rw [State.entryOf, hs]; rfl
  change execIdentityReceive p id s = _
  unfold execIdentityReceive
  dsimp only
  rw [if_neg (by rw [hup, ht]; decide), if_neg (by rw [State.refusal_of_good hb hs hne]; decide), if_neg (by rw [he, hp]; exact Bool.false_ne_true),
    hs]
  unfold State.partnerEntered
  rw [hs]
  rfl

theorem execIdentityReceive_of_other (hup : s.fabUp = true) (ht : (s.port p).train = .locked) (hb : id.boardId ≠ s.rd 0x600008) :
    exec (.identityReceive p id) s = .next (s.refusePartner p (s.entryOf id) 1) := by
  have hr : s.refusal p id = 1 := if_pos hb
  change execIdentityReceive p id s = _
  unfold execIdentityReceive
  dsimp only
  rw [if_neg (by rw [hup, ht]; decide), hr]
  rfl

theorem State.partnerEntered_spec (hs : id.shelf = false) : ((s.partnerEntered p id).port p).train = .identified ∧
    ((s.partnerEntered p id).port p).partner = some id ∧ ((s.partnerEntered p id).peer id.pos).st = 1 ∧
    ((s.partnerEntered p id).peer id.pos).port = p ∧ ((s.partnerEntered p id).peer id.pos).epoch = id.epoch.toNat ∧
    ((s.partnerEntered p id).peer id.pos).shelf = false := by
  have he : s.entryOf id = id.pos := by rw [State.entryOf, hs]; rfl
  have hport : (s.partnerEntered p id).port p = { s.port p with train := .identified, partner := some id } := by
    rw [State.partnerEntered, State.setPeer_port, State.port_onPort]
  have hpeer : (s.partnerEntered p id).peer id.pos =
      { s.peer (s.entryOf id) with st := 1, port := p, shelf := id.shelf, epoch := id.epoch.toNat } := by
    rw [State.partnerEntered, he, State.peer_setPeer]
  rw [hport, hpeer]
  exact ⟨rfl, rfl, rfl, rfl, rfl, hs⟩

/-- The keys switched and the partner's identity kept. -/
def State.keysSwitched (s : State) (p : Nat) (id : PartnerId) (who : List Byte) : State :=
  (s.onPort p (fun x => { x with train := .authed, session := 1, rxSession := 1, txCount := 0, rxCount := 0 })).setPeer (s.entryOf id)
    { s.peer (s.entryOf id) with identity := who }

theorem execSpdmSessionComplete_of_identified (hup : s.fabUp = true) (hid : (s.port p).partner = some id) (ht : (s.port p).train = .identified)
    (ok : Bool) (who : List Byte) : exec (.spdmSessionComplete p ok who) s = .next (if ok then s.keysSwitched p id who
      else s.refusePartner p (s.entryOf id) 4) := by
  change execSpdmSessionComplete p ok who s = _
  unfold execSpdmSessionComplete
  dsimp only
  rw [hid]
  dsimp only
  rw [if_neg (by rw [hup, ht]; decide)]
  cases ok <;> rfl

theorem State.keysSwitched_spec (who : List Byte) : ((s.keysSwitched p id who).port p).train = .authed ∧ ((s.keysSwitched p id who).port p).session = 1 ∧
    ((s.keysSwitched p id who).port p).rxSession = 1 ∧ ((s.keysSwitched p id who).port p).txCount = 0 ∧
    ((s.keysSwitched p id who).port p).rxCount = 0 ∧ ((s.keysSwitched p id who).peer (s.entryOf id)).identity = who := by
  have hport : (s.keysSwitched p id who).port p =
      { s.port p with train := .authed, session := 1, rxSession := 1, txCount := 0, rxCount := 0 } := by
    rw [State.keysSwitched, State.setPeer_port, State.port_onPort]
  rw [hport, State.keysSwitched, State.peer_setPeer]
  exact ⟨rfl, rfl, rfl, rfl, rfl, rfl⟩

theorem State.adviseLanes_advised (s : State) (p : Nat) : Advised s (s.adviseLanes p) :=
  iteInduction (motive := Advised s) (fun _ => s.advise_advised 3) (fun _ => .refl s)

theorem State.peer_onFab_setPeer (u : State) (k : Nat) (x : Peer) {f : Fabric → Fabric} (hf : (f (u.setPeer k x).fab).peers = (u.setPeer k x).fab.peers) :
    ((u.setPeer k x).onFab f).peer k = x := by
  rw [State.peer, State.onFab, hf]
  exact u.peer_setPeer k x

/-- The partner's entry PRESENT. -/
def State.peerEntered (s : State) (p : Nat) (id : PartnerId) : State :=
  let s0 := (s.onPort p (fun x => { x with train := .up })).adviseLanes p
  (s0.setPeer (s.entryOf id) { s0.peer (s.entryOf id) with
      st := 3, epoch := id.epoch.toNat, incarnation := ((s0.peer (s.entryOf id)).incarnation + 1) % 65536 }).onFab (fun x => { x with
    lastEpochs := Sparse.put 0 x.lastEpochs (s.entryOf id) id.epoch.toNat
    seen := if x.seen.contains (s.entryOf id) then x.seen else x.seen ++ [s.entryOf id] })

theorem execPeerPresent_of_new (hup : s.fabUp = true) (hid : (s.port p).partner = some id) (ht : (s.port p).train = .authed)
    (hn : s.fab.seen.contains (s.entryOf id) = false) : exec (.peerPresent p) s = .next (s.peerEntered p id) := by
  change execPeerPresent p s = _
  unfold execPeerPresent
  dsimp only
  rw [hid]
  dsimp only
  rw [if_neg (by rw [hup, ht]; decide), if_neg (by rw [hn]; exact Bool.false_ne_true)]
  rfl

theorem State.peerEntered_spec (hn : s.fab.seen.contains (s.entryOf id) = false) : ((s.peerEntered p id).port p).train = .up ∧
    ((s.peerEntered p id).peer (s.entryOf id)).st = 3 ∧
    ((s.peerEntered p id).peer (s.entryOf id)).incarnation = ((s.peer (s.entryOf id)).incarnation + 1) % 65536 ∧
    (s.peerEntered p id).fab.seen = s.fab.seen ++ [s.entryOf id] := by
  have ha := (State.adviseLanes_advised (s.onPort p (fun x => { x with train := .up })) p).state
  unfold State.peerEntered
  generalize (s.onPort p (fun x => { x with train := .up })).adviseLanes p = u at ha ⊢
  have hfab : u.fab = (s.onPort p (fun x => { x with train := .up })).fab := by rw [ha]
  have hpeer : u.peer (s.entryOf id) = s.peer (s.entryOf id) := by
    rw [State.peer, hfab]
    rfl
  refine ⟨?_, ?_, ?_, ?_⟩
  · change (Sparse.get Port.init u.fab.ports p).train = .up
    rw [hfab]
    exact congrArg Port.train (s.port_onPort p _)
  · dsimp only
    rw [State.peer_onFab_setPeer _ _ _ rfl]
  · rw [← hpeer]
    dsimp only
    rw [State.peer_onFab_setPeer _ _ _ rfl]
  · change (if u.fab.seen.contains (s.entryOf id) then u.fab.seen else u.fab.seen ++ [s.entryOf id]) = _
    rw [hfab]
    exact if_neg (by change ¬s.fab.seen.contains (s.entryOf id) = true; rw [hn]; exact Bool.false_ne_true)

end

/-! ### Leaving, and the end of darkness -/

theorem exec_linkDown_eq (hup : s.fabUp = true) (hl : (s.port p).locked = true) : exec (.linkDown p) s = .next (s.linkDown p) ∧
    exec (.verifiedGroupSilence p) s = .next (s.linkDown p) ∧ exec (.ctrlLeaveReceive p) s = .next (s.linkDown p) := by
  have h : s.downIf p = s.linkDown p := if_pos (by rw [hup, hl]; rfl)
  rw [← h]
  exact ⟨rfl, rfl, rfl⟩

theorem execPortHoldDarkEnd_eq (hup : s.fabUp = true) {t0 : W64} (hd : (s.port p).darkUntil = some t0) (he : s.portEnabled p = true) :
    exec (.portHoldDarkEnd p) s = .next (if t0.toNat ≤ s.time.toNat then s.portProbe p else s) := by
  change execPortHoldDarkEnd p s = _
  unfold execPortHoldDarkEnd
  rw [hd]
  refine congrArg Host.Outcome.next (if_congr ?_ rfl rfl)
  rw [hup, he, Bool.true_and, Bool.true_and, decide_eq_true_eq]

end

/-- Settles O36: each command of the bring-up by the state of the port, and a link that goes down through `State.linkDown_left`. -/
theorem portBringUpAndLeaving : Obligations.PortBringUpAndLeaving := by
  refine ⟨fun s p hup => ⟨fun h => ?_, fun h => ?_, fun h => ?_, fun h => ?_, fun h => ?_, fun h => ?_⟩,
    fun s p id hup ht => ⟨fun hb hs hne hp => ?_, fun hb => ?_⟩, fun s p id who hup hid ht => ⟨?_, ?_⟩, fun s p id hup hid ht hn => ?_,
    fun s p k hup hl hk => ?_, fun s p t0 hup hd he => ⟨fun h => ?_, fun h => ?_⟩⟩
  · exact ⟨_, (execProbeLightSeen_eq hup).trans (congrArg _ (if_pos h)), s.fullPower_spec p⟩
  · rw [execProbeLightSeen_eq hup, if_neg h]
  · obtain ⟨_, _, _, hport⟩ := s.portProbe_port p
    refine ⟨s.portProbe p, ?_, by rw [hport]⟩
    rw [execLightLost_eq hup, h]
  · rw [execLightLost_eq hup]
    rcases h with h | h <;> rw [h]
  · exact ⟨_, (execFrameLock_eq hup).trans (congrArg _ (if_pos h)), s.identitySent_train p⟩
  · rw [execFrameLock_eq hup, if_neg h]
  · exact ⟨_, execIdentityReceive_of_good hup ht hb hs hne hp, State.partnerEntered_spec hs⟩
  · obtain ⟨h8, hr⟩ := s.refusePartner_spec p (s.entryOf id) 1
    exact ⟨_, execIdentityReceive_of_other hup ht hb, h8, hr.partner⟩
  · exact ⟨_, execSpdmSessionComplete_of_identified hup hid ht true who, State.keysSwitched_spec who⟩
  · obtain ⟨h8, hr⟩ := s.refusePartner_spec p (s.entryOf id) 4
    exact ⟨_, execSpdmSessionComplete_of_identified hup hid ht false who, h8, hr.session⟩
  · exact ⟨_, execPeerPresent_of_new hup hid ht hn, State.peerEntered_spec hn⟩
  · obtain ⟨h1, h2, h3⟩ := exec_linkDown_eq hup hl
    exact ⟨_, h1, h2, h3, State.linkDown_left hk, State.linkDown_dark hk⟩
  · obtain ⟨_, _, _, hport⟩ := s.portProbe_port p
    exact ⟨_, (execPortHoldDarkEnd_eq hup hd he).trans (congrArg _ (if_pos h)), by rw [hport], by rw [hport]; rfl⟩
  · rw [execPortHoldDarkEnd_eq hup hd he, if_neg (by omega)]

end Sys2Proof.Machine
end

section
/-! PROOF. Groups, NAKs, key switches and board time on a link (14_exfe_optical_fabric.md R306, R310, R322, R323; 16 R361). -/

namespace Sys2Proof.Machine

/-! ### The flits of a verified group -/

/-- Delivery of flits on port `p` keeps the receiver's sequence state of the port, and, where no unit has an operation beyond the block, the
memories. -/
structure Delivered (p : Nat) (s u : State) : Prop where
  expect : (u.port p).rxExpect = (s.port p).rxExpect
  gap : (u.port p).gap = (s.port p).gap
  failRun : (u.port p).failRun = (s.port p).failRun
  tagFail : (u.port p).tagFail = (s.port p).tagFail
  mem : s.fab.ops = [] → u.fab.ops = [] ∧ u.hbm = s.hbm ∧ u.bead = s.bead

section
variable {p : Nat} {s t u : State}

theorem Delivered.refl (p : Nat) (s : State) : Delivered p s s := ⟨rfl, rfl, rfl, rfl, fun h => ⟨h, rfl, rfl⟩⟩

theorem Delivered.trans (h : Delivered p s t) (k : Delivered p t u) : Delivered p s u := by
  refine ⟨k.expect.trans h.expect, k.gap.trans h.gap, k.failRun.trans h.failRun, k.tagFail.trans h.tagFail, fun h0 => ?_⟩
  obtain ⟨ht, hb, hd⟩ := h.mem h0
  obtain ⟨hu, hb', hd'⟩ := k.mem ht
  exact ⟨hu, hb'.trans hb, hd'.trans hd⟩

/-- A port's receiver has the same sequence state in both. -/
abbrev Port.SameSeq (x y : Port) : Prop := y.rxExpect = x.rxExpect ∧ y.gap = x.gap ∧ y.failRun = x.failRun ∧ y.tagFail = x.tagFail

theorem SendSide.sameSeq {x y : Port} (h : SendSide x y) : x.SameSeq y := by
  obtain ⟨⟨_, _, _, _, _, _, _, _, _, _, rfl⟩, -⟩ := h
  exact ⟨rfl, rfl, rfl, rfl⟩

theorem Delivered.of_port (h : (s.port p).SameSeq (u.port p)) (ho : u.fab.ops = s.fab.ops) (hh : u.hbm = s.hbm) (hb : u.bead = s.bead) :
    Delivered p s u := by
  obtain ⟨h1, h2, h3, h4⟩ := h
  exact ⟨h1, h2, h3, h4, fun h0 => ⟨ho.trans h0, hh, hb⟩⟩

theorem LinkSent.delivered (h : LinkSent p s u) : Delivered p s u :=
  .of_port h.side.sameSeq (by rw [h.fab]) (by rw [h.state]) (by rw [h.state])

theorem Delivered.onPort (s : State) (p : Nat) {f : Port → Port} (h : (s.port p).SameSeq (f (s.port p))) : Delivered p s (s.onPort p f) :=
  .of_port (by rw [State.port_onPort]; exact h) rfl rfl rfl

theorem State.bump_frame (s : State) (o n : Nat) : s.bump o n = { s with regs := (s.bump o n).regs } := by
  obtain ⟨_, h⟩ := s.bump_spec o n
  rw [h]

theorem Delivered.bump (s : State) (p o n : Nat) : Delivered p s (s.bump o n) := by
  have hf := s.bump_frame o n
  exact .of_port (by rw [State.port, hf]; exact ⟨rfl, rfl, rfl, rfl⟩) (by rw [hf]) (by rw [hf]) (by rw [hf])

theorem Advised.delivered (h : Advised s u) (p : Nat) : Delivered p s u := by
  have hs := h.state
  exact .of_port (by rw [State.port, hs]; exact ⟨rfl, rfl, rfl, rfl⟩) (by rw [hs]) (by rw [hs]) (by rw [hs])

theorem State.takeResponse_delivered (s : State) (p src : Nat) (f : Flit) : Delivered p s (s.takeResponse src f) := by
  obtain ⟨h1, h2, h3, h4⟩ := ((s.takeResponse_kept src f).port p).sameSeq
  refine ⟨h1, h2, h3, h4, fun h0 => ?_⟩
  unfold State.takeResponse
  split
  · exact ⟨h0, rfl, rfl⟩
  · have hu : s.unitResponse src f = s := by
      rw [State.unitResponse, h0]
      rfl
    rw [hu, State.settleOps_of_pending (by rw [h0]; exact fun _ h => absurd h List.not_mem_nil)]
    exact ⟨h0, rfl, rfl⟩

theorem State.swapConfirmed_delivered (s : State) (p lane spare : Nat) : Delivered p s (s.swapConfirmed p lane spare) := by
  unfold State.swapConfirmed
  dsimp only
  split
  · exact .refl p s
  · refine (Delivered.trans ?_ (Delivered.bump _ p _ _)).trans ((State.adviseLanes_advised _ p).delivered p)
    exact Delivered.onPort s p (f := fun x => { x with
      mirror := none, txMap := setNth x.txMap lane spare, txBad := x.txBad ++ [nth 0 x.txMap lane] }) ⟨rfl, rfl, rfl, rfl⟩

theorem State.spdmSend_delivered (s : State) (p : Nat) (id : PartnerId) (resp : Bool) : Delivered p s (s.spdmSend p id resp) := by
  unfold State.spdmSend
  extract_lets k d l bs x s1
  have h1 : Delivered p s s1 := .of_port ⟨rfl, rfl, rfl, rfl⟩ rfl rfl rfl
  split
  · exact h1
  · exact h1.trans (State.linkSend_sent _ p _).delivered

theorem State.spdmTake_delivered (s : State) (p : Nat) (bs : List Byte) : Delivered p s (s.spdmTake p bs) := by
  unfold State.spdmTake
  split
  · exact (Delivered.onPort s p ⟨rfl, rfl, rfl, rfl⟩).trans (State.spdmSend_delivered _ p _ _)
  · exact .refl p s

theorem State.takeFlit_delivered (s : State) (p n : Nat) (f : Flit) : Delivered p s (s.takeFlit p n f) := by
  unfold State.takeFlit
  extract_lets src owe held
  have howe : Delivered p s (owe s) := .onPort s p ((s.port p).owe_side f).sameSeq
  clear_value owe
  have hinbox (u : State) : Delivered p u (u.onPort p (fun x => { x with inbox := x.inbox ++ [⟨f, src, s.time, n⟩] })) :=
    .onPort u p ⟨rfl, rfl, rfl, rfl⟩
  split
  · exact howe.trans (.bump _ p _ _)
  split
  · exact .refl p s
  split
  · exact howe.trans (State.takeResponse_delivered _ p src f)
  split
  · split
    · exact howe.trans (State.swapConfirmed_delivered _ p _ _)
    · exact howe
  split
  · exact howe.trans (State.spdmTake_delivered _ p _)
  split
  · exact .refl p s
  split
  · split
    · exact .refl p s
    · exact hinbox s
  · exact howe.trans (hinbox (owe s))

end

section
variable {s : State} {p : Fin 8} {g : Group} (hup : s.fabUp = true) (hl : (s.port p).locked = true)

/-! ### Groups -/

/-- A verified group: accepted, its flits delivered, and what waited for credits sent. -/
def State.groupAccepted (s : State) (p : Nat) (g : Group) : State :=
  ((s.setPort p { (s.port p).accept g with rx := (groupFlits g (s.port p).rx).2 }).forEach (groupFlits g (s.port p).rx).1
    (fun f s => s.takeFlit p f.2 f.1)).drainWaiting p

theorem State.groupAccepted_spec (s : State) (p : Nat) (g : Group) :
    ((s.groupAccepted p g).port p).rxExpect = ((s.port p).rxExpect + 1) % 2 ^ 20 ∧ ((s.groupAccepted p g).port p).gap = false ∧
    ((s.groupAccepted p g).port p).failRun = 0 ∧ ((s.groupAccepted p g).port p).tagFail = none ∧
    (s.fab.ops = [] → (s.groupAccepted p g).hbm = s.hbm ∧ (s.groupAccepted p g).bead = s.bead) := by
  have hd : Delivered p (s.setPort p { (s.port p).accept g with rx := (groupFlits g (s.port p).rx).2 }) (s.groupAccepted p g) :=
    (State.forEach_induct (P := Delivered p _) (fun f u h => h.trans (u.takeFlit_delivered p f.2 f.1)) _ (.refl p _)).trans
      (State.drainWaiting_sent _ p).delivered
  have hp := s.port_setPort p { (s.port p).accept g with rx := (groupFlits g (s.port p).rx).2 }
  obtain ⟨h1, h2, h3, h4, hmem⟩ := hd
  rw [hp] at h1 h2 h3 h4
  exact ⟨h1, h2, h3, h4, fun h0 => (hmem h0).2⟩

section
include hup hl

theorem execGroupReceive_of_verified (hn : g.nak = false) (hs : g.seq.toNat = (s.port p).rxExpect) (hf : g.fecOk = true) (hc : g.crcOk = true)
    (ht : (s.port p).session = 0 ∨ g.tagOk = true) : exec (.groupReceive p g) s = .next (s.groupAccepted p g) := by
  change execGroupReceive p g s = _
  unfold execGroupReceive
  dsimp only
  rw [if_neg (by rw [hup, hl]; decide), if_neg (by rw [hn]; decide), if_neg (not_not.mpr hs), if_neg (by rw [hf, hc]; decide), if_neg ?_]
  · rfl
  · rcases ht with ht | ht <;> simp [ht]

theorem execGroupReceive_of_other (hn : g.nak = false) (hs : g.seq.toNat ≠ (s.port p).rxExpect) :
    exec (.groupReceive p g) s = .next (s.discardGroup p false) := by
  change execGroupReceive p g s = _
  unfold execGroupReceive
  dsimp only
  rw [if_neg (by rw [hup, hl]; decide), if_neg (by rw [hn]; decide), if_pos hs]

theorem execGroupReceive_of_failed (hn : g.nak = false) (hs : g.seq.toNat = (s.port p).rxExpect) (hf : g.fecOk = false ∨ g.crcOk = false) :
    exec (.groupReceive p g) s = .next (s.failGroup p) := by
  change execGroupReceive p g s = _
  unfold execGroupReceive
  dsimp only
  rw [if_neg (by rw [hup, hl]; decide), if_neg (by rw [hn]; decide), if_neg (not_not.mpr hs), if_pos ?_]
  rcases hf with hf | hf <;> simp [hf]

end

/-- A group discarded within a gap: counted. -/
def State.counted (s : State) (p : Nat) : State :=
  (s.bump (cntPort p 1) 1).setPort p { s.port p with spoiled := (s.port p).spoiled || (s.port p).lastTreq.isSome }

/-- The first group discarded of a gap: counted, and answered with a NAK. -/
def State.nakked (s : State) (p : Nat) : State :=
  ((s.bump (cntPort p 1) 1).setPort p { s.port p with spoiled := (s.port p).spoiled || (s.port p).lastTreq.isSome, gap := true }).send
    (.nak p (((s.port p).rxExpect + 2 ^ 20 - 1) % 2 ^ 20))

theorem State.discardGroup_eq (s : State) (p : Nat) (again : Bool) :
    s.discardGroup p again = if (s.port p).gap && !again then s.counted p else s.nakked p := rfl

theorem State.bump_rods_out (s : State) (o n : Nat) : (s.bump o n).rods = s.rods ∧ (s.bump o n).out = s.out := by
  rw [s.bump_frame o n]
  exact ⟨rfl, rfl⟩

theorem State.rd_discarded (s : State) (p : Nat) : (s.bump (cntPort p 1) 1).rd (cntPort p 1) = counterAdd (s.rd (cntPort p 1)) 1 := by
  rw [State.rd_bump_self, if_neg Nat.one_ne_zero]

theorem State.counted_spec (s : State) (p : Nat) : (s.counted p).rd (cntPort p 1) = counterAdd (s.rd (cntPort p 1)) 1 ∧
    ((s.counted p).port p).rxExpect = (s.port p).rxExpect ∧ (s.counted p).rods = s.rods ∧ (s.counted p).out = s.out := by
  obtain ⟨hrods, hout⟩ := s.bump_rods_out (cntPort p 1) 1
  unfold State.counted
  rw [State.port_setPort, State.setPort_rd, State.setPort_rods, State.setPort_out]
  exact ⟨s.rd_discarded p, rfl, hrods, hout⟩

theorem State.nakked_spec (s : State) (p : Nat) : (s.nakked p).rd (cntPort p 1) = counterAdd (s.rd (cntPort p 1)) 1 ∧
    (s.nakked p).port p = { s.port p with spoiled := (s.port p).spoiled || (s.port p).lastTreq.isSome, gap := true } ∧
    (s.nakked p).rods = s.rods ∧ (s.nakked p).out = s.out ++ [.nak p (((s.port p).rxExpect + 2 ^ 20 - 1) % 2 ^ 20)] := by
  obtain ⟨hrods, hout⟩ := s.bump_rods_out (cntPort p 1) 1
  unfold State.nakked
  rw [State.send_port, State.port_setPort, State.send_rd, State.setPort_rd, State.send_rods, State.setPort_rods]
  exact ⟨s.rd_discarded p, rfl, hrods, by rw [State.send, State.setPort_out, hout]⟩

/-- The run of failures of the expected group after one more. -/
def Port.nextRun (x : Port) : Nat := if x.failSeq = x.rxExpect then x.failRun + 1 else 1

/-- The port with one more failure of the expected group. -/
def Port.failed (x : Port) : Port := { x with failSeq := x.rxExpect, failRun := x.nextRun }

theorem State.failGroup_of_lt {p : Nat} (h : (s.port p).nextRun < 16) :
    s.failGroup p = (s.setPort p (s.port p).failed).discardGroup p true :=
  if_neg (by change ¬(s.port p).nextRun ≥ 16; omega)

theorem State.failGroup_of_ge {p : Nat} (h : 16 ≤ (s.port p).nextRun) :
    s.failGroup p = ((s.setPort p (s.port p).failed).bump (cntPort p 1) 1).linkDown p :=
  if_pos h

theorem PeerLeft.of_same {u t : State} {k : Nat} (h : PeerLeft u t k) (ht : ∀ q, (u.port q).train = (s.port q).train)
    (ho : u.fab.ops = s.fab.ops) (hr : u.rods = s.rods) : PeerLeft s t k := by
  obtain ⟨hst, hev, hrem⟩ := h
  refine ⟨?_, hev, fun h0 e he => ?_⟩
  · rcases hst with hst | ⟨hst, q, hq⟩
    · exact .inl hst
    · exact .inr ⟨hst, q, (ht q).symm.trans hq⟩
  · have := hrem (ho.trans h0) e (by rw [hr]; exact he)
    rw [this]
    rw [State.rod, State.rod, hr]

theorem State.failGroup_left {p k : Nat} (h : 16 ≤ (s.port p).nextRun) (hk : s.posOf p = some k) : PeerLeft s (s.failGroup p) k := by
  rw [State.failGroup_of_ge h]
  have hr := s.setPort_rods p (s.port p).failed
  have hport (q : Nat) : ((s.setPort p (s.port p).failed).port q).train = (s.port q).train := by
    by_cases hq : q = p
    · rw [hq, State.port_setPort]
      rfl
    · rw [State.port_setPort_ne s _ hq]
  have hpeers : (s.setPort p (s.port p).failed).fab.peers = s.fab.peers := rfl
  have ho : (s.setPort p (s.port p).failed).fab.ops = s.fab.ops := rfl
  generalize s.setPort p (s.port p).failed = u at hr ho hport hpeers
  have hfab : (u.bump (cntPort p 1) 1).fab = u.fab := by rw [u.bump_frame]
  obtain ⟨hrods, -⟩ := u.bump_rods_out (cntPort p 1) 1
  refine PeerLeft.of_same (State.linkDown_left ?_) (fun q => ?_) ((congrArg Fabric.ops hfab).trans ho) (hrods.trans hr)
  · rw [← hk]
    unfold State.posOf State.peer
    rw [hfab, hpeers]
  · rw [State.port, hfab]
    exact hport q

/-! ### Replays -/

theorem State.forEach_send {α : Type} {f : State → α → Output} (hf : ∀ (s : State) (out : List Output) a, f { s with out := out } a = f s a) :
    ∀ (l : List α) (s : State), s.forEach l (fun a s => s.send (f s a)) = { s with out := s.out ++ l.map (f s) }
  | [], s => by rw [List.map_nil, List.append_nil]; rfl
  | a :: l, s => by
    refine (State.forEach_send hf l (s.send (f s a))).trans ?_
    have hm : l.map (f (s.send (f s a))) = l.map (f s) := List.map_congr_left fun b _ => hf s _ b
    rw [hm, List.map_cons]
    change ({ s with out := s.out ++ [f s a] ++ l.map (f s) } : State) = _
    rw [List.append_assoc]
    rfl

theorem State.replayGroups_eq (s : State) (p ack : Nat) :
    s.replayGroups p ack = { s.onPort p (fun x => { x with spoiled := x.spoiled || x.lastTreq.isSome }) with
      out := s.out ++ ((s.port p).sent.dropWhile (fun g => g.seq != (ack + 1) % 2 ^ 20)).map (fun g => Output.group p (s.frames p g)) } :=
  State.forEach_send (f := fun s g => Output.group p (s.frames p g)) (fun _ _ _ => rfl) _ _

theorem State.port_withOut (s : State) (p : Nat) (out : List Output) : State.port { s with out := out } p = s.port p := rfl

theorem execNakReceive_eq (hup : s.fabUp = true) (hl : (s.port p).locked = true) (ack : BitVec 20) :
    exec (.nakReceive p ack) s = .next (s.replayGroups p ack.toNat) :=
  congrArg Host.Outcome.next (if_pos (by rw [hup, hl]; rfl))

/-! ### Keys -/

section
include hup

/-- The next group boundary is named, and the switch awaits it. -/
def State.switchNamed (s : State) (p : Nat) : State :=
  (s.ctrlSend p 3 (((s.port p).txSeq + 1) % 2 ^ 20)).onPort p (fun x => { x with switchAt := some (((s.port p).txSeq + 1) % 2 ^ 20) })

theorem execKeyUpdate_of_session (hs : (s.port p).session ≠ 0) :
    exec (.keyUpdate p) s = .next (if (s.port p).switchAt = none then s.switchNamed p else s) := by
  refine congrArg Host.Outcome.next (if_congr ?_ rfl rfl)
  rw [hup, decide_eq_true hs, Bool.true_and, Bool.true_and, Option.isNone_iff_eq_none]

theorem execKeySwitchReceive_of_session (hs : (s.port p).session ≠ 0) (b : BitVec 20) :
    exec (.keySwitchReceive p b) s = .next (s.setPort p { s.port p with rxSwitch := some b.toNat }) :=
  congrArg Host.Outcome.next (if_pos (by rw [hup, decide_eq_true hs]; rfl))

/-! ### Board time -/

theorem execSyncTimer_of_master (hm : s.master = s.fab.pos) : exec .syncTimer s = .next s :=
  congrArg Host.Outcome.next (if_pos (by rw [hup, hm]; simp))

/-- SYNC_REQ is on its way over port `p`, its send time noted. -/
def State.syncAsked (s : State) (p : Nat) : State :=
  (s.onPort p (fun x => { x with lastTreq := some (s.stampTx p), spoiled := false })).linkSend p
    (mkFlit 0x18 s.fab.pos 0 0 1 0 0 0 (s.stampTx p) 0 [])

theorem execSyncTimer_of_other (hm : s.master ≠ s.fab.pos) : exec .syncTimer s = .next (s.syncAsked (s.peer s.master).port) :=
  congrArg Host.Outcome.next (if_neg (by rw [hup]; simp [hm]))

theorem execSyncReq_of_taken {s1 : State} {r : PeerReq} (hr : s.takeInbox p (fun o => o == 0x18) = some (r, s1)) :
    exec (.syncReq p) s = .next (s1.linkSend p (mkFlit 0x19 s.fab.pos 0 r.flit.tag 1 0 0 0 (s.stampRx p r) (s.stampTx p) [])) := by
  change execSyncReq p s = _
  unfold execSyncReq
  rw [hr]
  exact congrArg Host.Outcome.next (if_neg (by rw [hup]; decide))

theorem execSyncRsp_of_taken {s1 : State} {r : PeerReq} {t1 : W64} (hr : s.takeInbox p (fun o => o == 0x19) = some (r, s1))
    (ht : (s.port p).lastTreq = some t1) (hsp : (s.port p).spoiled = false) :
    exec (.syncRsp p) s = .next ((s1.onPort p (fun x => { x with lastTreq := none, spoiled := false })).applyOffset
      (((r.flit.w2 - t1).toInt - (s.stampRx p r - r.flit.w3).toInt) / 2)) := by
  change execSyncRsp p s = _
  unfold execSyncRsp
  rw [hr]
  dsimp only
  rw [if_neg (by rw [hup]; decide), ht]
  exact congrArg Host.Outcome.next (if_neg (by rw [hsp]; exact Bool.false_ne_true))

end

theorem State.syncAsked_spec (s : State) (p : Nat) : ((s.syncAsked p).port p).lastTreq = some (s.stampTx p) ∧
    ((s.syncAsked p).port p).spoiled = false ∧ (s.syncAsked p).time = s.time := by
  have h := (s.onPort p (fun x => { x with lastTreq := some (s.stampTx p), spoiled := false })).linkSend_sent p
    (mkFlit 0x18 s.fab.pos 0 0 1 0 0 0 (s.stampTx p) 0 [])
  obtain ⟨_, _, _, _, _, _, _, _, _, _, hx⟩ := h.side.fields
  rw [State.port_onPort] at hx
  unfold State.syncAsked
  exact ⟨congrArg Port.lastTreq hx, congrArg Port.spoiled hx, h.kept.time⟩

theorem State.switchNamed_spec (s : State) (p : Nat) (h : (s.port p).switchAt = none) :
    ((s.switchNamed p).port p).switchAt = some (((s.port p).txSeq + 1) % 2 ^ 20) ∧ ((s.switchNamed p).port p).session = (s.port p).session := by
  rw [State.switchNamed, State.port_onPort]
  exact ⟨rfl, ((s.ctrlSend_sent p _ _).side.session h).2⟩

/-- The registers of an exchange: SYNC_STAT's offset and its done bit. -/
def State.offsetNoted (s : State) (off : Int) : State :=
  (({ s with pwr := { s.pwr with syncs := s.pwr.syncs + 1 } }).setRf 0x600040 63 32 ((BitVec.ofInt 32 off).toNat)).setRf 0x600040 0 0 1

theorem State.offsetNoted_keeps (s : State) (off : Int) : (s.offsetNoted off).fab = s.fab ∧ (s.offsetNoted off).time = s.time ∧
    (s.offsetNoted off).rd 0x30118 = s.rd 0x30118 := by
  refine ⟨?_, ?_, ?_⟩
  · exact (State.setReg_fab _ _ _).trans (State.setReg_fab _ _ _)
  · exact (State.setReg_time _ _ _).trans (State.setReg_time _ _ _)
  · have h1 := State.rd_setReg_ne ({ s with pwr := { s.pwr with syncs := s.pwr.syncs + 1 } })
      (setBits (({ s with pwr := { s.pwr with syncs := s.pwr.syncs + 1 } } : State).rd 0x600040) 63 32 ((BitVec.ofInt 32 off).toNat))
      (show (0x30118 : Nat) ≠ 0x600040 by decide)
    exact ((State.rd_setReg_ne _ _ (by decide)).trans h1).trans (State.rd_of_regs rfl rfl _)

/-- A synchronised block's clock slews by the offset of an exchange. -/
def State.slewed (s : State) (off : Int) : State := ((s.offsetNoted off).onFab (fun x => { x with slewing := 100000 * off })).steer

theorem State.applyOffset_of_synced (off : Int) (h : s.fab.synced = true) :
    s.applyOffset off = if off > 1000 || off < -1000 then (s.slewed off).event 9 else s.slewed off :=
  if_pos h

theorem State.applyOffset_of_first (off : Int) (h : s.fab.synced = false) (hc : s.fab.created = false) :
    s.applyOffset off = { s.offsetNoted off with
      time := (s.offsetNoted off).time + w64i off, fab := { (s.offsetNoted off).fab with synced := true } } :=
  (if_neg (by rw [h]; exact Bool.false_ne_true)).trans (if_neg (by rw [hc]; exact Bool.false_ne_true))

theorem State.steer_frame (s : State) : s.steer.fab.synced = s.fab.synced ∧ s.steer.fab.slewing = s.fab.slewing ∧ s.steer.time = s.time ∧
    ∀ o, s.steer.rd o = s.rd o :=
  ⟨rfl, rfl, rfl, fun _ => State.rd_of_regs rfl rfl _⟩

theorem State.rd_onFab (s : State) (f : Fabric → Fabric) (o : Nat) : (s.onFab f).rd o = s.rd o := State.rd_of_regs rfl rfl o

theorem State.onFab_time (s : State) (f : Fabric → Fabric) : (s.onFab f).time = s.time := rfl

theorem State.slewed_spec (s : State) (off : Int) (h : s.fab.synced = true) : (s.slewed off).fab.synced = true ∧
    (s.slewed off).fab.slewing = 100000 * off ∧ (s.slewed off).time = s.time ∧ (s.slewed off).rd 0x30118 = s.rd 0x30118 := by
  obtain ⟨hfab, htime, hrd⟩ := s.offsetNoted_keeps off
  unfold State.slewed
  obtain ⟨h1, h2, h3, h4⟩ := State.steer_frame ((s.offsetNoted off).onFab (fun x => { x with slewing := 100000 * off }))
  rw [h1, h2, h3, h4, State.rd_onFab, State.onFab_time]
  refine ⟨?_, rfl, htime, hrd⟩
  rw [State.onFab, hfab]
  exact h

theorem State.applyOffset_synced (s : State) (off : Int) : (s.applyOffset off).fab.synced = true := by
  cases h : s.fab.synced with
  | true =>
    rw [State.applyOffset_of_synced off h]
    have hs := (s.slewed_spec off h).1
    split
    · rw [((s.slewed off).event_frame 9).1]
      exact hs
    · exact hs
  | false =>
    rw [State.applyOffset, h]
    dsimp only
    rw [if_neg Bool.false_ne_true]
    split <;> rfl

theorem State.applyOffset_slews (s : State) (off : Int) (h : s.fab.synced = true) : (s.applyOffset off).fab.slewing = 100000 * off ∧
    (s.applyOffset off).time = s.time ∧ (off > 1000 ∨ off < -1000 → ((s.applyOffset off).rd 0x30118).getLsbD 9 = true) ∧
    (off ≤ 1000 → -1000 ≤ off → (s.applyOffset off).rd 0x30118 = s.rd 0x30118) := by
  obtain ⟨-, hslew, htime, hrd⟩ := s.slewed_spec off h
  rw [State.applyOffset_of_synced off h]
  have hev := (s.slewed off).event_pending (n := 9) (by decide)
  have hfab := ((s.slewed off).event_frame 9).1
  have het : ((s.slewed off).event 9).time = (s.slewed off).time := State.setReg_time _ _ _
  split
  · next hc =>
    have hc' : off > 1000 ∨ off < -1000 := by simpa using hc
    exact ⟨by rw [hfab, hslew], by rw [het, htime], fun _ => hev, fun h1 h2 => by omega⟩
  · next hc =>
    have hc' : ¬(off > 1000 ∨ off < -1000) := by simpa using hc
    exact ⟨hslew, htime, fun h1 => absurd h1 hc', fun _ _ => hrd⟩

end

/-- Settles O35: a group by its sequence number and checks, then the replay, the key switch and the time exchange by their equations. -/
theorem linkGroupsKeysAndTime : Obligations.LinkGroupsKeysAndTime := by
  refine ⟨fun s p g hup hl hn => ⟨fun hs hf hc ht => ?_, fun hs => ?_, fun hs hf => ⟨fun hr => ?_, fun hr k hk => ?_⟩⟩, fun s p ack hup hl => ?_,
    fun s p hup hs => ⟨fun hn => ?_, fun hn => ?_, fun b => execKeySwitchReceive_of_session hup hs b⟩,
    fun s hup => ⟨execSyncTimer_of_master hup, fun hm => ?_⟩, fun s s1 p r hup hr => execSyncReq_of_taken hup hr,
    fun s s1 p r t1 hup hr ht hsp => ?_⟩
  · exact ⟨_, execGroupReceive_of_verified hup hl hn hs hf hc ht, s.groupAccepted_spec p g⟩
  · refine ⟨_, execGroupReceive_of_other hup hl hn hs, ?_⟩
    rw [State.discardGroup_eq]
    cases hg : (s.port p).gap with
    | false =>
      obtain ⟨hcnt, hport, hrods, hout⟩ := s.nakked_spec p
      rw [Bool.false_and, if_neg Bool.false_ne_true, hport]
      exact ⟨hcnt, rfl, hrods, fun _ => ⟨rfl, hout⟩, fun h => absurd h Bool.false_ne_true⟩
    | true =>
      obtain ⟨hcnt, hexp, hrods, hout⟩ := s.counted_spec p
      exact ⟨hcnt, hexp, hrods, fun h => absurd h.symm Bool.false_ne_true, fun _ => hout⟩
  · obtain ⟨-, hport, hrods, -⟩ := (s.setPort p (s.port p).failed).nakked_spec p
    refine ⟨_, execGroupReceive_of_failed hup hl hn hs hf, ?_⟩
    rw [State.failGroup_of_lt hr, State.discardGroup_eq, Bool.not_true, Bool.and_false, if_neg Bool.false_ne_true, hport]
    exact ⟨congrArg Port.failRun (s.port_setPort p _), rfl, hrods⟩
  · exact ⟨_, execGroupReceive_of_failed hup hl hn hs hf, State.failGroup_left hr hk⟩
  · refine ⟨_, execNakReceive_eq hup hl ack, ?_⟩
    rw [State.replayGroups_eq]
    refine ⟨rfl, ?_, rfl⟩
    rw [State.port_withOut, State.port_onPort]
  · exact ⟨_, (execKeyUpdate_of_session hup hs).trans (congrArg _ (if_pos hn)), s.switchNamed_spec p hn⟩
  · rw [execKeyUpdate_of_session hup hs, if_neg hn]
  · exact ⟨_, execSyncTimer_of_other hup hm, s.syncAsked_spec _⟩
  · have h1 := State.takeInbox_only hr
    refine ⟨_, execSyncRsp_of_taken hup hr ht hsp, State.applyOffset_synced _ _, fun hsy => ?_, fun hsy hc => ?_⟩
    · obtain ⟨hslew, htime, hev, hrd⟩ := State.applyOffset_slews
        (s1.onPort p (fun x => { x with lastTreq := none, spoiled := false })) (((r.flit.w2 - t1).toInt - (s.stampRx p r - r.flit.w3).toInt) / 2)
        (by change s1.fab.synced = true; rw [h1.fab]; exact hsy)
      refine ⟨hslew, htime.trans ?_, hev, fun ha hb => (hrd ha hb).trans ((State.rd_of_regs rfl rfl _).trans (h1.rd _))⟩
      change s1.time = _
      rw [h1.state]
    · rw [State.applyOffset_of_first _ (by change s1.fab.synced = false; rw [h1.fab]; exact hsy)
        (by change s1.fab.created = false; rw [h1.fab]; exact hc)]
      change (State.offsetNoted _ _).time + _ = _
      rw [(State.offsetNoted_keeps _ _).2.1]
      change s1.time + _ = _
      rw [h1.state]
      rfl

end Sys2Proof.Machine
end

section
/-! PROOF. Moves of the Tier mover, frames on their way back, and the imbalance monitor (12_memory_tiers.md R264, R272, R275, R276, R286). -/

namespace Sys2Proof.Machine

/-! ### Words of HBM and page table walks -/

section
variable {s u : State}

theorem State.hbmWord_of_hbm (h : u.hbm = s.hbm) (a : Nat) : u.hbmWord a = s.hbmWord a := by rw [State.hbmWord, h, State.hbmWord]

@[simp] theorem State.hbmWrite64_hbmWord (s : State) (a : Nat) (v : W64) : (s.hbmWrite64 a v).hbmWord a = v := by
  have hr := Memory.readN_writeN (leBytes 8 v.toNat) s.hbm a
  rw [leBytes_length] at hr
  rw [State.hbmWord, State.hbmWrite64, State.hbmWrite_hbm, Memory.read64, hr, leNat_leBytes,
    Nat.mod_eq_of_lt (lt_of_lt_of_eq v.isLt (by norm_num)), BitVec.ofNat_toNat, BitVec.setWidth_eq]

theorem State.hbmWrite64_hbm (s : State) (a : Nat) (v : W64) : (s.hbmWrite64 a v).hbm = s.hbm.writeN a (leBytes 8 v.toNat) := rfl

theorem State.hbmWrite64_rd (s : State) (a : Nat) (v : W64) (o : Nat) : (s.hbmWrite64 a v).rd o = s.rd o := State.hbmWrite_rd s a _ o

theorem State.hbmWrite64_hbm_congr (h : u.hbm = s.hbm) (a : Nat) (v : W64) : (u.hbmWrite64 a v).hbm = (s.hbmWrite64 a v).hbm := by
  rw [State.hbmWrite64_hbm, State.hbmWrite64_hbm, h]

theorem State.walk_congr (hh : u.hbm = s.hbm) (hd : u.design = s.design) (hp : u.fab.pos = s.fab.pos) (hr : u.regs = s.regs) (addr : Nat) :
    ∀ n tbl, u.walk addr tbl n = s.walk addr tbl n
  | 0, _ => rfl
  | n + 1, tbl => by
    have hok : u.pageOk = s.pageOk := by
      funext e large
      rw [State.pageOk, State.pageOk, hd, hp, State.rd_of_regs hr hd]
    rw [State.walk, State.walk]
    simp only [State.walk_congr hh hd hp hr addr n, State.hbmWord_of_hbm hh, hok, hd]

theorem State.xlat_congr (hh : u.hbm = s.hbm) (hd : u.design = s.design) (hp : u.fab.pos = s.fab.pos) (hr : u.regs = s.regs) (p a : Nat) :
    u.xlat p a = s.xlat p a := by
  rw [State.xlat, State.xlat, State.walk_congr hh hd hp hr, State.rd_of_regs hr hd]

end

/-! ### Frames -/

section
variable (s : State)

theorem State.setPool_poolFrames (n : Nat) (l : List Nat) : (s.setPool n l).poolFrames n = l := Sparse.get_put_self _ _ _ _

theorem State.setPool_poolFrames_ne {n q : Nat} (l : List Nat) (h : q ≠ n) : (s.setPool n l).poolFrames q = s.poolFrames q :=
  Sparse.get_put_ne _ _ _ _ h

theorem State.releaseFrame_eq (e : W64) : s.releaseFrame e = { s with
    tier := { s.tier with origin := (s.releaseFrame e).tier.origin, releasing := (s.releaseFrame e).tier.releasing } } := by
  unfold State.releaseFrame
  dsimp only
  split <;> rfl

theorem State.addT1_eq (p : Nat) (d : Int) : s.addT1 p d = s.setPart p { s.part p with t1 := ((s.part p).t1 + d).toNat } := rfl

theorem State.addT1_t1 (p : Nat) (d : Int) : ((s.addT1 p d).part p).t1 = ((s.part p).t1 + d).toNat := by rw [State.addT1_eq, State.part_setPart]

@[simp] theorem State.bump_hbm (o n : Nat) : (s.bump o n).hbm = s.hbm := by rw [State.bump_frame]
@[simp] theorem State.bump_tier (o n : Nat) : (s.bump o n).tier = s.tier := by rw [State.bump_frame]
@[simp] theorem State.bump_ext (o n : Nat) : (s.bump o n).ext = s.ext := by rw [State.bump_frame]
@[simp] theorem State.bump_part (o n q : Nat) : (s.bump o n).part q = s.part q := by rw [State.part, State.bump_frame, State.part]

end

/-! ### Frames on their way back -/

section
variable {s : State}

theorem execFrameRelease_of_due {k : Nat} {r : Releasing} (hl : s.live = true) (hk : s.tier.releasing[k]? = some r)
    (ht : r.since.toNat + 25000 ≤ s.time.toNat) : exec (.frameRelease k) s =
    .next (State.returnFrame { s with tier := { s.tier with releasing := s.tier.releasing.eraseIdx k } } r.pool r.frame) := by
  change execFrameRelease k s = _
  unfold execFrameRelease
  rw [hk]
  exact congrArg Host.Outcome.next (if_pos (by rw [hl, decide_eq_true ht]; rfl))

theorem execFrameRelease_of_early {k : Nat} {r : Releasing} (hk : s.tier.releasing[k]? = some r)
    (ht : s.time.toNat < r.since.toNat + 25000) : exec (.frameRelease k) s = .next s := by
  change execFrameRelease k s = _
  unfold execFrameRelease
  rw [hk]
  exact congrArg Host.Outcome.next (if_neg (by rw [decide_eq_false (by omega), Bool.and_false]; exact Bool.false_ne_true))

end

/-! ### The imbalance monitor -/

section
variable (s : State) (bytes : List Nat)

/-- The bytes that all stacks served in a window. -/
def State.served : Nat := (bytes.take s.design.stacks).foldl (· + ·) 0

/-- The run of windows of a stack after a window. -/
def State.stackRun (k : Nat) : Nat :=
  if s.served bytes < s.rf 0x400040 15 0 * 10 ^ 6 then 0
  else if decide (2 * s.design.stacks * nth 0 bytes k > 3 * s.served bytes) then Sparse.get 0 s.tier.runs k + 1 else 0

/-- The window noted, with the runs of the stacks. -/
def State.windowEnded : State :=
  State.setRf { s with tier := { s.tier with
      runs := (List.range s.design.stacks).foldl (fun m k => Sparse.put 0 m k (s.stackRun bytes k)) s.tier.runs, window := s.time } }
    0x400048 63 32 ((List.range s.design.stacks).foldl (fun m k => max m (s.stackRun bytes k)) 0)

/-- A stack's imbalance noted, counted and pending. -/
def State.imbalanced (k : Nat) : State := (((s.setRf 0x400048 3 0 k).setRf 0x400048 4 4 1).bump (cntStack k 0) 1).event 4

theorem execImbalanceWindow_eq : exec (.imbalanceWindow bytes) s =
    .next (if !s.live || decide (s.time.toNat < s.tier.window.toNat + 10 ^ 6) then s else
      (s.windowEnded bytes).forEach ((List.range s.design.stacks).filter (fun k => s.stackRun bytes k == 1001)) (fun k s => s.imbalanced k)) := rfl

theorem State.setReg_regsOnly (o : Nat) (v : W64) : ∃ regs, s.setReg o v = { s with regs := regs } := ⟨_, s.setReg_eq o v⟩

theorem State.imbalanced_frame (k : Nat) : ∃ regs, s.imbalanced k = { s with regs := regs } := by
  unfold State.imbalanced State.event State.setRf
  obtain ⟨_, h1⟩ := s.setReg_regsOnly 0x400048 (setBits (s.rd 0x400048) 3 0 k)
  rw [h1]
  generalize setBits _ 4 4 1 = v
  obtain ⟨_, h2⟩ := State.setReg_regsOnly _ 0x400048 v
  rw [h2]
  obtain ⟨_, h3⟩ := State.bump_spec _ (cntStack k 0) 1
  rw [h3]
  generalize State.rd _ 0x30118 ||| _ = w
  exact State.setReg_regsOnly _ _ w

theorem State.imbalanced_pending (k : Nat) : ((s.imbalanced k).rd 0x30118).getLsbD 4 = true := by
  unfold State.imbalanced
  exact State.event_pending _ (by decide)

theorem State.forEach_nil {α : Type} (f : α → State → State) : s.forEach [] f = s := rfl

theorem State.forEach_cons {α : Type} (a : α) (l : List α) (f : α → State → State) : s.forEach (a :: l) f = (f a s).forEach l f := rfl

theorem State.forEach_imbalanced (l : List Nat) : (∃ regs, s.forEach l (fun k s => s.imbalanced k) = { s with regs := regs }) ∧
    (l ≠ [] → ((s.forEach l (fun k s => s.imbalanced k)).rd 0x30118).getLsbD 4 = true) := by
  induction l generalizing s with
  | nil => exact ⟨⟨s.regs, rfl⟩, fun h => absurd rfl h⟩
  | cons k l ih =>
    obtain ⟨⟨r1, h1⟩, h2⟩ := ih (s.imbalanced k)
    rw [State.forEach_cons]
    refine ⟨?_, fun _ => ?_⟩
    · obtain ⟨r2, h2⟩ := s.imbalanced_frame k
      rw [h1, h2]
      exact ⟨r1, rfl⟩
    · by_cases hl : l = []
      · rw [hl, State.forEach_nil]
        exact s.imbalanced_pending k
      · exact h2 hl

theorem Sparse.get_foldl_put {α : Type} [DecidableEq α] (d : α) (f : Nat → α) (k : Nat) : ∀ (l : List Nat) (m : Sparse α),
    (k ∈ l → Sparse.get d (l.foldl (fun m k => Sparse.put d m k (f k)) m) k = f k) ∧
    (k ∉ l → Sparse.get d (l.foldl (fun m k => Sparse.put d m k (f k)) m) k = Sparse.get d m k)
  | [], m => ⟨fun h => absurd h List.not_mem_nil, fun _ => rfl⟩
  | j :: l, m => by
    obtain ⟨hin, hout⟩ := Sparse.get_foldl_put d f k l (Sparse.put d m j (f j))
    rw [List.foldl_cons]
    refine ⟨fun h => ?_, fun h => ?_⟩
    · by_cases hk : k ∈ l
      · exact hin hk
      · have hj : k = j := (List.mem_cons.mp h).resolve_right hk
        rw [hout hk, hj, Sparse.get_put_self]
    · obtain ⟨hj, hk⟩ := not_or.mp (fun h' => h (List.mem_cons.mpr h'))
      rw [hout hk, Sparse.get_put_ne _ _ _ _ hj]

theorem State.windowEnded_spec : (s.windowEnded bytes).hbm = s.hbm ∧ (s.windowEnded bytes).rods = s.rods ∧
    (s.windowEnded bytes).tier.window = s.time ∧
    (∀ k, k < s.design.stacks → Sparse.get 0 (s.windowEnded bytes).tier.runs k = s.stackRun bytes k) ∧
    (s.windowEnded bytes).rd 0x30118 = s.rd 0x30118 := by
  unfold State.windowEnded
  generalize hr : (List.range s.design.stacks).foldl (fun m k => Sparse.put 0 m k (s.stackRun bytes k)) s.tier.runs = runs
  generalize (List.range s.design.stacks).foldl (fun m k => max m (s.stackRun bytes k)) 0 = top
  have hrd : State.rd { s with tier := { s.tier with runs := runs, window := s.time } } 0x30118 = s.rd 0x30118 := State.rd_of_regs rfl rfl _
  rw [State.rd_setRf_ne _ _ _ _ (by decide), hrd, State.setRf, State.setReg_hbm, State.setReg_rods, State.setReg_tier]
  refine ⟨rfl, rfl, rfl, fun k hk => ?_, rfl⟩
  rw [← hr]
  exact (Sparse.get_foldl_put 0 (s.stackRun bytes) k (List.range s.design.stacks) s.tier.runs).1 (List.mem_range.mpr hk)

/-- What a window leaves: its time and runs, and IMBALANCE where a run has reached 1,001 windows. -/
theorem State.windowEnded_imbalanced {t : State} (ht : t = (s.windowEnded bytes).forEach
    ((List.range s.design.stacks).filter (fun k => s.stackRun bytes k == 1001)) (fun k s => s.imbalanced k)) :
    t.hbm = s.hbm ∧ t.rods = s.rods ∧ t.tier.window = s.time ∧
    (∀ k, k < s.design.stacks → Sparse.get 0 t.tier.runs k = s.stackRun bytes k) ∧
    (∀ k, k < s.design.stacks → s.stackRun bytes k = 1001 → (t.rd 0x30118).getLsbD 4 = true) ∧
    ((∀ k, k < s.design.stacks → s.stackRun bytes k ≠ 1001) → t.rd 0x30118 = s.rd 0x30118) := by
  obtain ⟨h1, h2, h3, h4, h5⟩ := s.windowEnded_spec bytes
  obtain ⟨⟨regs, hf⟩, hp⟩ := (s.windowEnded bytes).forEach_imbalanced
    ((List.range s.design.stacks).filter (fun k => s.stackRun bytes k == 1001))
  rw [← ht] at hf hp
  refine ⟨?_, ?_, ?_, ?_, fun k hk hr => hp ?_, fun hn => ?_⟩
  · rw [hf, ← h1]
  · rw [hf, ← h2]
  · rw [hf, ← h3]
  · rw [hf]
    exact h4
  · exact List.ne_nil_of_mem (List.mem_filter.mpr ⟨List.mem_range.mpr hk, by rw [hr]; rfl⟩)
  · have hnil : (List.range s.design.stacks).filter (fun k => s.stackRun bytes k == 1001) = [] := by
      rw [List.filter_eq_nil_iff]
      intro k hk
      rw [beq_iff_eq]
      exact hn k (List.mem_range.mp hk)
    rw [ht, hnil, ← h5]
    rfl

theorem State.stackRun_of_over {k : Nat} (he : s.rf 0x400040 15 0 * 10 ^ 6 ≤ s.served bytes)
    (ho : overShare s.design.stacks (s.served bytes) bytes k) : s.stackRun bytes k = Sparse.get 0 s.tier.runs k + 1 :=
  (if_neg (by omega)).trans (if_pos (decide_eq_true ho))

theorem State.stackRun_of_not {k : Nat} (h : ¬s.rf 0x400040 15 0 * 10 ^ 6 ≤ s.served bytes ∨ ¬overShare s.design.stacks (s.served bytes) bytes k) :
    s.stackRun bytes k = 0 := by
  unfold State.stackRun
  split
  · rfl
  · next hs =>
    exact if_neg (by rw [decide_eq_true_eq]; exact h.resolve_left (not_not.mpr (by omega)))

end


/-! ### Promotions -/

section
variable {s : State} {p : Fin 16} {page : BitVec 52} {m : Move} {e : W64} {a b n : Nat}

/-- The entry of a promoted page. -/
def Move.promotedEntry (m : Move) (e : W64) : W64 :=
  pageEntry 1 (b2n (entryPinned e || m.cmd.pin)) (b2n m.large) (b2n (entryWritable e)) 0 0 m.frame

/-- The move and its operation gone. -/
def State.moveEnded (s : State) (m : Move) (p page : Nat) : State := (s.dropMove m).dropOps (.move p page)

/-- The page's bytes and its entry of tier 1 written, the lower frame on its way back. -/
def State.promoted (s : State) (m : Move) (p page : Nat) (e : W64) (a : Nat) (bs : List Byte) : State :=
  ((((((s.moveEnded m p page).hbmWrite m.frame bs).hbmWrite64 a (m.promotedEntry e)).releaseFrame e).setOrigin m.frame 1).bump (cntPart p 41) 1).bump
    (cntPart p 44) (pageSize m.large)

/-- The drawn frame returned. -/
def State.promoteFailed (s : State) (m : Move) (p page : Nat) : State :=
  ((s.moveEnded m p page).returnFrame 0 m.frame).addT1 p (-(pageSize m.large : Int))

theorem execPromoteComplete_of_pending (hm : s.moveAt p page.toNat false = some m) (hr : s.moveResp p page.toNat = none) :
    exec (.promoteComplete p page) s = .next s := by
  change execPromoteComplete p page s = _
  unfold execPromoteComplete
  rw [hm, hr]

theorem execPromoteComplete_of_answered (hl : s.live = true) (hm : s.moveAt p page.toNat false = some m) (hx : s.xlat p m.page = .page e a b n)
    {r : Nat} {bs : List Byte} (hr : s.moveResp p page.toNat = some (r, bs)) : exec (.promoteComplete p page) s = .next
      (if r ≠ 0 then (s.promoteFailed m p page.toNat).tierReply m.cmd 7 else (s.promoted m p page.toNat e a bs).tierReply m.cmd 0) := by
  change execPromoteComplete p page s = _
  unfold execPromoteComplete
  rw [hm, hr]
  dsimp only
  rw [if_neg (by rw [hl]; decide), hx]
  rfl

theorem pageSize_ne_zero (large : Bool) : pageSize large ≠ 0 := by
  unfold pageSize
  split <;> norm_num

/-- The old frame on its way back and the counts of a promotion up. -/
theorem State.promotedCounts_spec (u : State) (p : Fin 16) (e : W64) (f : Nat) {sz : Nat} (hsz : sz ≠ 0) {t : State}
    (ht : t = (((u.releaseFrame e).setOrigin f 1).bump (cntPart p 41) 1).bump (cntPart p 44) sz) : t.hbm = u.hbm ∧ t.tier.moves = u.tier.moves ∧
    t.rd (cntPart p 41) = counterAdd (u.rd (cntPart p 41)) 1 ∧ t.rd (cntPart p 44) = counterAdd (u.rd (cntPart p 44)) sz := by
  have hne : cntPart p 41 ≠ cntPart p 44 := by
    unfold cntPart
    omega
  have hr (o : Nat) : ((u.releaseFrame e).setOrigin f 1).rd o = u.rd o := by
    rw [u.releaseFrame_eq e]
    exact State.rd_of_regs rfl rfl o
  rw [ht]
  refine ⟨?_, ?_, ?_, ?_⟩
  · rw [State.bump_hbm, State.bump_hbm, State.setOrigin, u.releaseFrame_eq e]
  · rw [State.bump_tier, State.bump_tier, State.setOrigin, u.releaseFrame_eq e]
  · rw [State.rd_bump_ne _ _ hne, State.rd_bump_self, if_neg Nat.one_ne_zero, hr]
  · rw [State.rd_bump_self, if_neg hsz, State.rd_bump_ne _ _ hne.symm, hr]

/-- What the end of a promotion writes and counts. -/
theorem State.promoted_spec (s : State) (m : Move) (p : Fin 16) (page : Nat) (e : W64) (a : Nat) (bs : List Byte) :
    (s.promoted m p page e a bs).hbm = ((s.hbmWrite m.frame bs).hbmWrite64 a (m.promotedEntry e)).hbm ∧
    (s.promoted m p page e a bs).tier.moves = s.tier.moves.erase m ∧
    (s.promoted m p page e a bs).rd (cntPart p 41) = counterAdd (s.rd (cntPart p 41)) 1 ∧
    (s.promoted m p page e a bs).rd (cntPart p 44) = counterAdd (s.rd (cntPart p 44)) (pageSize m.large) := by
  have h0 : (((s.moveEnded m p page).hbmWrite m.frame bs).hbmWrite64 a (m.promotedEntry e)).hbm =
      ((s.hbmWrite m.frame bs).hbmWrite64 a (m.promotedEntry e)).hbm :=
    State.hbmWrite64_hbm_congr (by rw [State.hbmWrite_hbm, State.hbmWrite_hbm]; rfl) _ _
  have h1 : (((s.moveEnded m p page).hbmWrite m.frame bs).hbmWrite64 a (m.promotedEntry e)).tier.moves = s.tier.moves.erase m := rfl
  have h2 (o : Nat) : (((s.moveEnded m p page).hbmWrite m.frame bs).hbmWrite64 a (m.promotedEntry e)).rd o = s.rd o := by
    rw [State.hbmWrite64_rd, State.hbmWrite_rd]
    exact State.rd_of_regs rfl rfl o
  obtain ⟨k1, k2, k3, k4⟩ := State.promotedCounts_spec _ p e m.frame (pageSize_ne_zero m.large) (Eq.refl (s.promoted m p page e a bs))
  exact ⟨k1.trans h0, k2.trans h1, by rw [k3, h2], by rw [k4, h2]⟩

theorem State.promoteFailed_spec (s : State) (m : Move) (p page : Nat) : (s.promoteFailed m p page).hbm = s.hbm ∧
    (s.promoteFailed m p page).poolFrames 0 = s.poolFrames 0 ++ [m.frame] ∧ (s.promoteFailed m p page).tier.moves = s.tier.moves.erase m ∧
    ((s.promoteFailed m p page).part p).t1 = (s.part p).t1 - pageSize m.large := by
  unfold State.promoteFailed
  have hpool := (s.moveEnded m p page).setPool_poolFrames 0 ((s.moveEnded m p page).poolFrames 0 ++ [m.frame])
  refine ⟨?_, ?_, ?_, ?_⟩
  · rw [State.addT1_eq, State.setPart_hbm]
    rfl
  · rw [State.addT1_eq, State.poolFrames, State.setPart_tier]
    exact hpool
  · rw [State.addT1_eq, State.setPart_tier]
    rfl
  · rw [State.addT1_t1]
    change ((s.part p).t1 + -(pageSize m.large : Int)).toNat = _
    omega

/-! ### Demotions -/

theorem State.moveAt_spec {q k : Nat} {d : Bool} (hm : s.moveAt q k d = some m) : m.part = q ∧ m.page = k ∧ m.demote = d := by
  have h := List.find?_some hm
  simpa [and_assoc] using h

/-- Moving clear, the lower frame back in its pool, the cancellation counted. -/
def State.aborted (s : State) (m : Move) (a : Nat) (v : W64) (st : Nat) : State :=
  ((((s.moveEnded m m.part m.page).hbmWrite64 a v).returnFrame m.pool m.frame).bump (cntPart m.part 43) (b2n (st == 1)))

theorem State.setEntry_of_page {q k : Nat} (hx : s.xlat q k = .page e a b n) (f : W64 → W64) : s.setEntry q k f = s.hbmWrite64 a (f e) := by
  rw [State.setEntry, hx]

theorem State.abortDemote_of_page (hx : s.xlat m.part m.page = .page e a b n) (st : Nat) :
    s.abortDemote m st = (s.aborted m a (setBits e 56 56 0) st).tierReply m.cmd st := by
  have hx' : (s.moveEnded m m.part m.page).xlat m.part m.page = .page e a b n := (State.xlat_congr rfl rfl rfl rfl _ _).trans hx
  rw [State.abortDemote, State.aborted, ← State.setEntry_of_page hx' (fun e => setBits e 56 56 0)]
  rfl

theorem State.aborted_spec (s : State) (m : Move) (a : Nat) (v : W64) (st : Nat) : (s.aborted m a v st).hbmWord a = v ∧
    (s.aborted m a v st).tier.moves = s.tier.moves.erase m ∧ (s.aborted m a v st).poolFrames m.pool = s.poolFrames m.pool ++ [m.frame] ∧
    (s.aborted m a v st).ext = s.ext := by
  unfold State.aborted
  refine ⟨?_, ?_, ?_, ?_⟩
  · rw [State.hbmWord_of_hbm (State.bump_hbm _ _ _)]
    exact State.hbmWrite64_hbmWord _ a v
  · rw [State.bump_tier]
    rfl
  · rw [State.poolFrames, State.bump_tier]
    exact State.setPool_poolFrames _ _ _
  · rw [State.bump_ext]
    rfl

/-- The entry of a demoted page. -/
def State.demotedEntry (s : State) (m : Move) (e : W64) : W64 :=
  pageEntry (poolTier (s.poolKind m.pool)) (b2n (entryPinned e && !m.cmd.unpin)) (b2n m.large) (b2n (entryWritable e)) 0 (s.poolTarget m.pool) m.frame

/-- The move and its operation gone, the page's bytes in the lower frame. -/
def State.lowered (u : State) (p page : Nat) (ext : Memory) : State :=
  { u.dropOps (.move p page) with
    tier := { u.tier with moves := u.tier.moves.filter (fun x => !(x.demote && x.part == p && x.page == page)) }
    ext := ext }

/-- The lower entry written and the old frame on its way back, counted. -/
def State.lowerMapped (u : State) (p : Nat) (e v : W64) (a o sz : Nat) : State :=
  ((((u.hbmWrite64 a v).releaseFrame e).setOrigin (frameKey v) o).addT1 p (-(sz : Int))).bump (cntPart p 42) 1

/-- The page's bytes in the lower frame, its entry written, the old frame on its way back. -/
def State.demoted (s : State) (m : Move) (p page : Nat) (e : W64) (a : Nat) : State :=
  ((s.demoteCopied m).lowered p page (s.ext.writeN (extAddr (s.demotedEntry m e) 0) (s.hbmRead (entryFrame e) (pageSize m.large)))).lowerMapped p e
    (s.demotedEntry m e) a (m.pool + 1) (pageSize m.large)

section
variable (hl : s.live = true) (hm : s.moveAt p page.toNat true = some m)
include hl hm

theorem execDemoteComplete_of_hit (hh : m.hit = true) : exec (.demoteComplete p page) s = .next (s.abortDemote m 1) := by
  change execDemoteComplete p page s = _
  unfold execDemoteComplete
  rw [hm]
  dsimp only
  rw [if_neg (by rw [hl]; decide), if_pos hh]

theorem execDemoteComplete_of_noOp (hh : m.hit = false) (ho : s.opsOf (.move p page.toNat) = []) :
    exec (.demoteComplete p page) s = .next (s.abortDemote m 7) := by
  change execDemoteComplete p page s = _
  unfold execDemoteComplete
  rw [hm]
  dsimp only
  rw [if_neg (by rw [hl]; decide), if_neg (by rw [hh]; exact Bool.false_ne_true), if_pos (by rw [ho]; rfl)]

section
variable (hh : m.hit = false) (ho : s.opsOf (.move p page.toNat) ≠ [])
include hh ho

theorem execDemoteComplete_of_pending (hr : s.moveResp p page.toNat = none) : exec (.demoteComplete p page) s = .next s := by
  change execDemoteComplete p page s = _
  unfold execDemoteComplete
  rw [hm]
  dsimp only
  rw [if_neg (by rw [hl]; decide), if_neg (by rw [hh]; exact Bool.false_ne_true), if_neg (by rw [List.isEmpty_iff]; exact ho), hr]
  split
  · contradiction
  · rfl

theorem execDemoteComplete_of_answered (hx : s.xlat p m.page = .page e a b n) {r : Nat} {bs : List Byte}
    (hr : s.moveResp p page.toNat = some (r, bs)) : exec (.demoteComplete p page) s = .next
      (if r ≠ 0 then s.abortDemote m 7 else if s.refOf p b ≠ 0 then s.demoteCopied m
        else (s.demoted m p page.toNat e a).tierReply m.cmd 0) := by
  change execDemoteComplete p page s = _
  unfold execDemoteComplete
  rw [hm]
  dsimp only
  rw [if_neg (by rw [hl]; decide), if_neg (by rw [hh]; exact Bool.false_ne_true), if_neg (by rw [List.isEmpty_iff]; exact ho), hx, hr]
  rfl

end

theorem execDemoteWaitExpire_of_copied {t0 : W64} (hc : m.copied = some t0) : exec (.demoteWaitExpire p page) s = .next
    (if t0.toNat + 1000 * s.rf 0x400020 9 0 ≤ s.time.toNat then s.abortDemote m (if m.hit then 1 else 2) else s) := by
  change execDemoteWaitExpire p page s = _
  unfold execDemoteWaitExpire
  rw [hm]
  dsimp only
  rw [hc]
  refine congrArg Host.Outcome.next (if_congr ?_ rfl rfl)
  rw [hl, Bool.true_and, decide_eq_true_eq]

omit hl in
theorem execDemoteWaitExpire_of_copying (hc : m.copied = none) : exec (.demoteWaitExpire p page) s = .next s := by
  change execDemoteWaitExpire p page s = _
  unfold execDemoteWaitExpire
  rw [hm]
  dsimp only
  rw [hc]

end

theorem State.opsOf_ne_nil_of_resp {q k : Nat} {x : Nat × List Byte} (h : s.moveResp q k = some x) : s.opsOf (.move q k) ≠ [] := by
  intro h0
  rw [State.moveResp, h0] at h
  cases h

theorem State.demoteCopied_of_some (h : m.copied ≠ none) : s.demoteCopied m = s := if_pos (Option.isSome_iff_ne_none.mpr h)

/-- The move with the time at which its copy ended. -/
def Move.ended (m : Move) (t : W64) : Move := { m with copied := some t }

theorem State.demoteCopied_of_none (h : m.copied = none) : s.demoteCopied m =
    State.bump { s with tier := { s.tier with moves := s.tier.moves.map (fun x => if x = m then m.ended s.time else x) } }
      (cntPart m.part (43 + poolTier (s.poolKind m.pool))) (pageSize m.large) := by
  refine (if_neg (by rw [h]; exact Bool.false_ne_true)).trans ?_
  have hmap : s.tier.moves.map (fun x => if x = m then { x with copied := some s.time } else x) =
      s.tier.moves.map (fun x => if x = m then m.ended s.time else x) := by
    refine List.map_congr_left fun x _ => ?_
    split
    · next hx => rw [hx, Move.ended]
    · rfl
  rw [hmap]

/-- The copy of a demotion noted: its move marked, its bytes counted. -/
theorem State.demoteCopied_spec (h : m.copied = none) (hp : m.part = p) :
    (s.demoteCopied m = { s with tier := (s.demoteCopied m).tier, regs := (s.demoteCopied m).regs }) ∧
    (s.demoteCopied m).tier.moves = s.tier.moves.map (fun x => if x = m then m.ended s.time else x) ∧
    (s.demoteCopied m).rd (cntPart p (43 + poolTier (s.poolKind m.pool))) =
      counterAdd (s.rd (cntPart p (43 + poolTier (s.poolKind m.pool)))) (pageSize m.large) := by
  rw [State.demoteCopied_of_none h, hp]
  generalize s.tier.moves.map (fun x => if x = m then m.ended s.time else x) = moves
  refine ⟨?_, by rw [State.bump_tier], ?_⟩
  · rw [State.bump_frame]
  · rw [State.rd_bump_self, if_neg (pageSize_ne_zero m.large)]
    exact congrArg (counterAdd · _) (State.rd_of_regs rfl rfl _)

/-- A copy that has ended leaves the memories, the partitions, the other moves and the count of demotions. -/
theorem State.demoteCopied_rest (s : State) (m : Move) (p : Fin 16) (hp : m.part = p) : (s.demoteCopied m).hbm = s.hbm ∧
    (∀ q, (s.demoteCopied m).part q = s.part q) ∧ (s.demoteCopied m).rd (cntPart p 42) = s.rd (cntPart p 42) ∧
    ∀ P : Move → Bool, P m = false → P (m.ended s.time) = false → (s.demoteCopied m).tier.moves.filter P = s.tier.moves.filter P := by
  by_cases h : m.copied = none
  · rw [State.demoteCopied_of_none h, hp]
    refine ⟨by rw [State.bump_hbm], fun q => by rw [State.bump_part]; rfl, ?_, fun P hm he => ?_⟩
    · rw [State.rd_bump_ne _ _ (by unfold cntPart; omega)]
      exact State.rd_of_regs rfl rfl _
    · rw [State.bump_tier, List.filter_map]
      have hP : s.tier.moves.filter (P ∘ fun x => if x = m then m.ended s.time else x) = s.tier.moves.filter P := by
        refine List.filter_congr fun x _ => ?_
        rw [Function.comp_apply]
        split
        · next hx => rw [he, hx, hm]
        · rfl
      rw [hP]
      refine (List.map_congr_left fun x hx => if_neg fun hxm => ?_).trans (List.map_id' _)
      rw [hxm] at hx
      exact absurd ((List.mem_filter.mp hx).2.symm.trans hm) (by decide)
  · rw [State.demoteCopied_of_some h]
    exact ⟨rfl, fun _ => rfl, rfl, fun _ _ _ => rfl⟩

theorem State.lowerMapped_spec (u : State) (p : Fin 16) (e v : W64) (a o sz : Nat) : (u.lowerMapped p e v a o sz).hbmWord a = v ∧
    (u.lowerMapped p e v a o sz).ext = u.ext ∧ (u.lowerMapped p e v a o sz).tier.moves = u.tier.moves ∧
    ((u.lowerMapped p e v a o sz).part p).t1 = (u.part p).t1 - sz ∧
    (u.lowerMapped p e v a o sz).rd (cntPart p 42) = counterAdd (u.rd (cntPart p 42)) 1 := by
  have hw := u.hbmWrite64_hbmWord a v
  have hwr : (u.hbmWrite64 a v).rd (cntPart p 42) = u.rd (cntPart p 42) := u.hbmWrite64_rd a v _
  have hwm : (u.hbmWrite64 a v).tier.moves = u.tier.moves := rfl
  have hwe : (u.hbmWrite64 a v).ext = u.ext := rfl
  have hwp : (u.hbmWrite64 a v).part p = u.part p := rfl
  unfold State.lowerMapped
  generalize u.hbmWrite64 a v = w at hw hwr hwm hwe hwp
  have hor (k : Nat) : ((w.releaseFrame e).setOrigin k o).hbm = w.hbm ∧ ((w.releaseFrame e).setOrigin k o).tier.moves = w.tier.moves ∧
      ((w.releaseFrame e).setOrigin k o).ext = w.ext ∧ (∀ q, ((w.releaseFrame e).setOrigin k o).part q = w.part q) ∧
      ∀ x, ((w.releaseFrame e).setOrigin k o).rd x = w.rd x := by
    rw [w.releaseFrame_eq e]
    exact ⟨rfl, rfl, rfl, fun _ => rfl, fun _ => State.rd_of_regs rfl rfl _⟩
  obtain ⟨k1, k2, k3, k4, k5⟩ := hor (frameKey v)
  generalize (w.releaseFrame e).setOrigin (frameKey v) o = z at k1 k2 k3 k4 k5
  refine ⟨?_, ?_, ?_, ?_, ?_⟩
  · rw [State.hbmWord_of_hbm (State.bump_hbm _ _ _), State.addT1_eq, State.hbmWord_of_hbm (State.setPart_hbm _ _ _), State.hbmWord_of_hbm k1, hw]
  · rw [State.bump_ext, State.addT1_eq, State.setPart_ext, k3, hwe]
  · rw [State.bump_tier, State.addT1_eq, State.setPart_tier, k2, hwm]
  · rw [State.bump_part, State.addT1_t1, k4, hwp]
    omega
  · rw [State.rd_bump_self, if_neg Nat.one_ne_zero, State.addT1_eq, State.setPart_rd, k5, hwr]

theorem State.lowered_spec (u : State) (p page : Nat) (ext : Memory) : (u.lowered p page ext).ext = ext ∧
    (u.lowered p page ext).tier.moves = u.tier.moves.filter (fun x => !(x.demote && x.part == p && x.page == page)) ∧
    (∀ q, (u.lowered p page ext).part q = u.part q) ∧ ∀ o, (u.lowered p page ext).rd o = u.rd o :=
  ⟨rfl, rfl, fun _ => rfl, fun _ => State.rd_of_regs rfl rfl _⟩

theorem State.demoted_spec (hp : m.part = p) (hpg : m.page = page.toNat) (hd : m.demote = true) (e : W64) (a : Nat) :
    (s.demoted m p page.toNat e a).hbmWord a = s.demotedEntry m e ∧
    (s.demoted m p page.toNat e a).ext = s.ext.writeN (extAddr (s.demotedEntry m e) 0) (s.hbmRead (entryFrame e) (pageSize m.large)) ∧
    (s.demoted m p page.toNat e a).tier.moves = s.tier.moves.filter (fun x => !(x.demote && x.part == p.val && x.page == page.toNat)) ∧
    ((s.demoted m p page.toNat e a).part p).t1 = (s.part p).t1 - pageSize m.large ∧
    (s.demoted m p page.toNat e a).rd (cntPart p 42) = counterAdd (s.rd (cntPart p 42)) 1 := by
  obtain ⟨-, hpart, hrd, hmoves⟩ := s.demoteCopied_rest m p hp
  have hmv := hmoves (fun x => !(x.demote && x.part == p.val && x.page == page.toNat)) (by rw [hp, hpg, hd]; simp)
    (by rw [Move.ended, hp, hpg, hd]; simp)
  unfold State.demoted
  generalize s.demotedEntry m e = v
  generalize s.ext.writeN (extAddr v 0) (s.hbmRead (entryFrame e) (pageSize m.large)) = ext
  obtain ⟨l1, l2, l3, l4⟩ := (s.demoteCopied m).lowered_spec p page.toNat ext
  obtain ⟨k1, k2, k3, k4, k5⟩ := ((s.demoteCopied m).lowered p page.toNat ext).lowerMapped_spec p e v a (m.pool + 1) (pageSize m.large)
  exact ⟨k1, k2.trans l1, (k3.trans l2).trans hmv, by rw [k4, l3, hpart], by rw [k5, l4, hrd]⟩

/-- An entry written without Moving has none. -/
theorem entryMoving_pageEntry (tier target frame : Nat) (pinned large writable : Bool) :
    entryMoving (pageEntry tier (b2n pinned) (b2n large) (b2n writable) 0 target frame) = false := by
  have hb (x : Bool) : b2n x ≤ 1 := by cases x <;> decide
  have h (p l w : Nat) (hp : p ≤ 1) (hl : l ≤ 1) (hw : w ≤ 1) : (2 * 2 ^ 62 + tier % 4 * 2 ^ 60 + p * 2 ^ 59 + l * 2 ^ 58 + w * 2 ^ 57 + 0 * 2 ^ 56 +
      target % 64 * 2 ^ 50 + frame % 2 ^ 50) / 2 ^ 56 % 2 ≠ 1 := by omega
  rw [entryMoving, bit, pageEntry, w64, BitVec.getLsbD_ofNat, Nat.testBit_eq_decide_div_mod_eq,
    decide_eq_false (h _ _ _ (hb pinned) (hb large) (hb writable)), Bool.and_false]

end

/-- Settles O44: each completion by the answer of its copy, then the return of frames and the imbalance monitor. -/
theorem tierMovesCompleteAndFramesReturn : Obligations.TierMovesCompleteAndFramesReturn := by
  refine ⟨fun s p page m e a b n hl hm hx => ⟨fun hr => ?_, fun bs hr => ?_, fun r bs hr hr0 => ?_⟩,
    fun s p page m e a b n hl hm hx => ?_, fun s k r hl hk => ⟨fun ht => ?_, fun ht => ?_⟩, fun s bytes hl => ⟨fun ht => ?_, fun ht => ?_⟩⟩
  · exact execPromoteComplete_of_pending hm hr
  · exact ⟨_, (execPromoteComplete_of_answered hl hm hx hr).trans (congrArg _ (if_neg (not_not.mpr rfl))), s.promoted_spec m p _ e a bs⟩
  · exact ⟨_, (execPromoteComplete_of_answered hl hm hx hr).trans (congrArg _ (if_pos hr0)), s.promoteFailed_spec m p _⟩
  · obtain ⟨hp, hpg, hd⟩ := State.moveAt_spec hm
    have hx' : s.xlat p m.page = .page e a b n := by rw [← hp]; exact hx
    have hab (st : Nat) : s.abortDemote m st = (s.aborted m a (setBits e 56 56 0) st).tierReply m.cmd st := State.abortDemote_of_page hx st
    refine ⟨fun hh ho hr => execDemoteComplete_of_pending hl hm hh ho hr, fun bs hh hr href hc => ?_, fun bs hh hr href => ?_,
      fun st i hi => ⟨s.aborted m a (setBits e 56 56 0) st, ?_, s.aborted_spec m a _ st⟩, fun t0 hc ht => ?_,
      fun hc => execDemoteWaitExpire_of_copying hm hc⟩
    · refine ⟨_, (execDemoteComplete_of_answered hl hm hh (State.opsOf_ne_nil_of_resp hr) hx' hr).trans ?_, State.demoteCopied_spec hc hp⟩
      rw [if_neg (not_not.mpr rfl), if_pos href]
    · obtain ⟨h1, h2, h3, h4, h5⟩ := State.demoted_spec (s := s) hp hpg hd e a
      refine ⟨s.demoted m p page.toNat e a, ?_, h1, entryMoving_pageEntry _ _ _ _ _ _, h2, h3, h4, h5⟩
      rw [execDemoteComplete_of_answered hl hm hh (State.opsOf_ne_nil_of_resp hr) hx' hr, if_neg (not_not.mpr rfl), if_neg (not_not.mpr href)]
    · rw [← hab]
      rcases hi with ⟨rfl, rfl, hh⟩ | ⟨rfl, rfl, hh, ho | ⟨r, bs, hr, hr0⟩⟩ | ⟨rfl, rfl, t0, hc, ht⟩
      · exact execDemoteComplete_of_hit hl hm hh
      · exact execDemoteComplete_of_noOp hl hm hh ho
      · rw [execDemoteComplete_of_answered hl hm hh (State.opsOf_ne_nil_of_resp hr) hx' hr, if_pos hr0]
      · rw [execDemoteWaitExpire_of_copied hl hm hc, if_pos ht]
    · rw [execDemoteWaitExpire_of_copied hl hm hc, if_neg (by omega)]
  · refine ⟨_, execFrameRelease_of_due hl hk ht, rfl, State.setPool_poolFrames _ _ _, rfl, fun q hq => State.setPool_poolFrames_ne _ _ hq⟩
  · exact execFrameRelease_of_early hk ht
  · rw [execImbalanceWindow_eq, if_pos (by rw [decide_eq_true ht, Bool.or_true])]
  · refine ⟨_, (execImbalanceWindow_eq s bytes).trans (congrArg _ (if_neg (by rw [hl, decide_eq_false (by omega)]; decide))), ?_⟩
    obtain ⟨h1, h2, h3, hruns, hpend, hkeep⟩ := s.windowEnded_imbalanced bytes rfl
    refine ⟨h1, h2, h3, fun k hk => ⟨fun he ho => ?_, fun h => ?_, fun he ho hr => hpend k hk ?_⟩, fun hlt => hkeep fun k hk => ?_⟩
    · rw [hruns k hk, State.stackRun_of_over s bytes he ho]
    · rw [hruns k hk, State.stackRun_of_not s bytes h]
    · rw [State.stackRun_of_over s bytes he ho, hr]
    · have := hlt k hk
      unfold State.stackRun
      split
      · decide
      · split
        · omega
        · decide

end Sys2Proof.Machine
end

section
/-! PROOF. The Tier mover's commands (12_memory_tiers.md R270 to R275). -/

namespace Sys2Proof.Machine

section
variable {s : State} {k : Nat} {c : TierCmd} {e : W64} {a b n : Nat}

/-! ### Commands taken from the queue -/

theorem State.takeCmd_of_ready {op : Nat} (h : TierReady s k op c) : s.takeCmd op k = some (c, s.tierTaken k) := by
  obtain ⟨hl, hq, hop, -, hlane⟩ := h
  unfold State.takeCmd
  rw [hq]
  dsimp only
  refine if_neg fun hc => ?_
  rw [hl, hop, Bool.not_true, Bool.false_or] at hc
  simp only [ne_eq, not_true_eq_false, decide_false, Bool.false_or, Bool.and_eq_true, decide_eq_true_eq] at hc
  obtain ⟨h5, hc⟩ := hc
  obtain ⟨hqueue, hmoves, hops⟩ := hlane h5
  have holder : (s.tier.queue.take k).any (fun d => d.meets c.part c.page (pageSize c.large)) = false := by
    rw [List.any_eq_false]
    exact fun d hd => by rw [hqueue d hd]; exact Bool.false_ne_true
  have hmove : s.moveOf c.part c.page (pageSize c.large) = none := by
    rw [State.moveOf, List.find?_eq_none]
    exact fun m hm => by rw [hmoves m hm]; exact Bool.false_ne_true
  rw [holder, hmove, Bool.false_or, Bool.false_or] at hc
  obtain ⟨o, ho, hm⟩ := List.any_eq_true.mp hc
  split at hm
  · next d f hu =>
    rw [hops o ho d f hu] at hm
    exact Bool.false_ne_true hm
  · exact Bool.false_ne_true hm

theorem State.cmdRow_of_ready {op : Nat} (h : TierReady s k op c) (f : TierCmd → State → State) : s.cmdRow op k f = f c (s.tierTaken k) := by
  rw [State.cmdRow, State.takeCmd_of_ready h]
  obtain ⟨-, -, -, hf, -⟩ := h
  exact if_pos hf

theorem State.cmdRow_of_none (h : s.tier.queue[k]? = none) (op : Nat) (f : TierCmd → State → State) : s.cmdRow op k f = s := by
  rw [State.cmdRow, State.takeCmd, h]

theorem TierReady.moveOf {op : Nat} (h : TierReady s k op c) (h5 : op < 5) : s.moveOf c.part c.page (pageSize c.large) = none := by
  obtain ⟨-, -, -, -, hlane⟩ := h
  obtain ⟨-, hmoves, -⟩ := hlane h5
  rw [State.moveOf, List.find?_eq_none]
  exact fun m hm => by rw [hmoves m hm]; exact Bool.false_ne_true

theorem State.tierTaken_xlat (s : State) (k p page : Nat) : (s.tierTaken k).xlat p page = s.xlat p page := State.xlat_congr rfl rfl rfl rfl p page

theorem State.pageOk_large {l : Bool} (h : s.pageOk e l = true) : entryLarge e = l := by
  unfold State.pageOk at h
  simp only [Bool.and_eq_true, decide_eq_true_eq] at h
  obtain ⟨⟨⟨-, hb⟩, -⟩, -⟩ := h
  have hbit : entryLarge e = decide (bits e 58 58 = 1) := by
    rw [entryLarge, bit, ← BitVec.testBit_toNat, Nat.testBit_eq_decide_div_mod_eq]
    rfl
  rw [hbit, hb]
  cases l <;> rfl

/-- A mapped page's size is the one its entry gives. -/
theorem State.walk_size {addr : Nat} : ∀ {lvl tbl : Nat}, s.walk addr tbl lvl = .page e a b n → n = pageSize (entryLarge e)
  | 0, _, h => nomatch h
  | lvl + 1, tbl, h => by
    rw [State.walk] at h
    dsimp only at h
    split at h
    · cases h
    split at h
    · split at h
      · cases h
      · split at h
        · cases h
        · exact State.walk_size h
    have hpage {l : Bool} {ba : Nat} {sz : Nat} (hsz : sz = pageSize l)
        (h : (if s.pageOk (s.hbmWord (tbl + 8 * levelIndex lvl addr)) l = true then
          Xlat.page (s.hbmWord (tbl + 8 * levelIndex lvl addr)) (tbl + 8 * levelIndex lvl addr) ba sz else .malformed) = .page e a b n) :
        n = pageSize (entryLarge e) := by
      split at h
      · next hok =>
        injection h with he _ _ hn
        rw [← hn, ← he, State.pageOk_large hok, hsz]
      · cases h
    split at h
    · split at h
      · exact hpage (if_pos rfl).symm h
      · split at h
        · exact hpage (if_neg Bool.false_ne_true).symm h
        · cases h
    · cases h

theorem State.xlat_size {p page : Nat} (h : s.xlat p page = .page e a b n) : n = pageSize (entryLarge e) := State.walk_size h

end


/-! ### Drawing frames -/

section
variable {s : State} {pool size f : Nat}

theorem State.poolKind_zero_ne (s : State) : s.poolKind 0 ≠ 0 := by
  rw [State.poolKind, if_pos rfl]
  decide

theorem State.drawFrame_of_off (h : s.poolKind pool = 0) : s.drawFrame pool size = none := if_pos h

theorem State.drawFrame_of_none (h : ∀ f ∈ s.poolFrames pool, f % size ≠ 0) : s.drawFrame pool size = none := by
  have hf : (s.poolFrames pool).find? (fun f => decide (f % size = 0)) = none := by
    rw [List.find?_eq_none]
    exact fun f hm => by rw [decide_eq_true_eq]; exact h f hm
  unfold State.drawFrame
  dsimp only
  rw [hf, ite_self]

theorem State.drawFrame_of_find (hk : s.poolKind pool ≠ 0) (hf : (s.poolFrames pool).find? (fun f => decide (f % size = 0)) = some f) :
    s.drawFrame pool size = some (f, s.setPool pool ((s.poolFrames pool).erase f)) := by
  unfold State.drawFrame
  dsimp only
  rw [if_neg hk, hf]

end

/-! ### MAP -/

section
variable {s s1 s2 : State} {c : TierCmd} {e : W64} {a b n f : Nat}

/-- The entry that MAP writes. -/
abbrev State.mapEntry (s : State) (c : TierCmd) (f : Nat) : W64 := s.poolEntry c.pool f c.large c.pin c.writable

/-- A frame zeroed and mapped, counted in the partition's tier 1. -/
def State.frameMapped (s2 : State) (c : TierCmd) (v : W64) (a f : Nat) : State :=
  (((s2.hbmZero f (pageSize c.large)).hbmWrite64 a v).setOrigin f (c.pool + 1)).addT1 c.part (pageSize c.large)

/-- MAP of a command in local HBM. -/
def State.mapReplied (s : State) (c : TierCmd) : State :=
  (s.tierMap c.part c.page c.large c.pool c.pin c.writable).2.tierReply c (s.tierMap c.part c.page c.large c.pool c.pin c.writable).1

theorem State.mapReplied_of_page (hx : s.xlat c.part c.page = .page e a b n) : s.mapReplied c = s.tierReply c 6 := by
  have h : s.tierMap c.part c.page c.large c.pool c.pin c.writable = (6, s) := by
    unfold State.tierMap
    rw [hx]
  rw [State.mapReplied, h]

theorem State.mapReplied_of_full (hx : s.xlat c.part c.page = .unmapped)
    (h : s.t1Room c.part (pageSize c.large) = false ∨ s.drawFrame c.pool (pageSize c.large) = none) : s.mapReplied c = s.tierReply c 3 := by
  have hm : s.tierMap c.part c.page c.large c.pool c.pin c.writable = (3, s) := by
    unfold State.tierMap
    rw [hx]
    dsimp only
    rcases h with h | h
    · exact if_pos (by rw [h]; rfl)
    · rw [h]
      dsimp only
      rw [ite_self]
  rw [State.mapReplied, hm]

theorem State.mapReplied_of_drawn (hx : s.xlat c.part c.page = .unmapped) (hr : s.t1Room c.part (pageSize c.large) = true)
    (hd : s.drawFrame c.pool (pageSize c.large) = some (f, s1)) (he : s1.ensure c.page (s1.ptRoot c.part) (b2n c.large) 4 = some (a, s2))
    (h0 : s2.hbmWord a = 0) : s.mapReplied c = (s2.frameMapped c (s.mapEntry c f) a f).tierReply c 0 := by
  have h : s.tierMap c.part c.page c.large c.pool c.pin c.writable = (0, s2.frameMapped c (s.mapEntry c f) a f) := by
    unfold State.tierMap
    rw [hx]
    dsimp only
    rw [if_neg (by rw [hr]; decide), hd]
    dsimp only
    rw [he]
    exact if_neg (not_not.mpr h0)
  rw [State.mapReplied, h]

theorem State.frameMapped_spec (s2 : State) (c : TierCmd) (v : W64) (a f : Nat) :
    (s2.frameMapped c v a f).hbm = ((s2.hbmZero f (pageSize c.large)).hbmWrite64 a v).hbm ∧ (s2.frameMapped c v a f).hbmWord a = v ∧
    ((s2.frameMapped c v a f).part c.part).t1 = (s2.part c.part).t1 + pageSize c.large ∧
    (s2.frameMapped c v a f).poolFrames c.pool = s2.poolFrames c.pool := by
  have hw := (s2.hbmZero f (pageSize c.large)).hbmWrite64_hbmWord a v
  have hp : ((s2.hbmZero f (pageSize c.large)).hbmWrite64 a v).part c.part = s2.part c.part := rfl
  have ht : ((s2.hbmZero f (pageSize c.large)).hbmWrite64 a v).tier = s2.tier := rfl
  unfold State.frameMapped
  generalize (s2.hbmZero f (pageSize c.large)).hbmWrite64 a v = w at hw hp ht
  have hu : (w.setOrigin f (c.pool + 1)).hbm = w.hbm := rfl
  have hup : (w.setOrigin f (c.pool + 1)).part c.part = w.part c.part := rfl
  have hut : (w.setOrigin f (c.pool + 1)).tier.pools = w.tier.pools := rfl
  generalize w.setOrigin f (c.pool + 1) = z at hu hup hut
  have hh : (z.addT1 c.part (pageSize c.large)).hbm = w.hbm := by rw [State.addT1_eq, State.setPart_hbm, hu]
  refine ⟨hh, by rw [State.hbmWord_of_hbm hh, hw], ?_, ?_⟩
  · rw [State.addT1_t1, hup, hp]
    omega
  · rw [State.addT1_eq, State.poolFrames, State.setPart_tier, hut, ht, State.poolFrames]

theorem State.tierMapLower_of_noFrame (hx : s.xlat c.part c.page = .unmapped) (hd : s.drawFrame c.pool (pageSize c.large) = some (f, s1))
    (h : s.lowerResp (s.mapEntry c f) ≠ 0) : s.tierMapLower c = s.tierReply c 3 := by
  unfold State.tierMapLower
  dsimp only
  rw [hx, hd]
  exact if_pos h

theorem State.tierMapLower_of_drawn (hx : s.xlat c.part c.page = .unmapped) (hd : s.drawFrame c.pool (pageSize c.large) = some (f, s1))
    (h : s.lowerResp (s.mapEntry c f) = 0) (he : s1.ensure c.page (s1.ptRoot c.part) (b2n c.large) 4 = some (a, s2)) (h0 : s2.hbmWord a = 0) :
    s.tierMapLower c = s2.unitOp (.fill c f) c.part 2 (extAddr (s.mapEntry c f) 0) (pageSize c.large) (List.replicate (pageSize c.large) 0)
      (sealedAt (extAddr (s.mapEntry c f) 0)) 0 0 0 := by
  unfold State.tierMapLower
  dsimp only
  rw [hx, hd]
  dsimp only
  rw [if_neg (not_not.mpr h), he]
  exact if_neg (not_not.mpr h0)

/-! ### Pages that are not mapped, or of the other size -/

theorem State.not_upper {c : TierCmd} (h : c.pool ≠ 0 ∧ s.poolKind c.pool ≠ 1) : ¬(decide (c.pool = 0) || s.poolKind c.pool == 1) = true := by
  simp [h]

theorem State.tierUnmap_of_unmapped (hx : s.xlat c.part c.page = .unmapped) : s.tierUnmap c = s.tierReply c 5 := by
  rw [State.tierUnmap, hx]

theorem State.tierPromote_of_unmapped (hp : c.pool = 0) (hx : s.xlat c.part c.page = .unmapped) : s.tierPromote c = s.tierReply c 5 := by
  rw [State.tierPromote, if_neg (not_not.mpr hp), hx]

theorem State.tierDemote_of_unmapped (hp : c.pool ≠ 0 ∧ s.poolKind c.pool ≠ 1) (hx : s.xlat c.part c.page = .unmapped) :
    s.tierDemote c = s.tierReply c 5 := by
  rw [State.tierDemote, if_neg (State.not_upper hp), hx]

theorem State.tierRef_of_unmapped (hx : s.xlat c.part c.page = .unmapped) (up : Bool) : s.tierRef c up = s.tierReply c 5 := by
  rw [State.tierRef, hx]

section
variable (hx : s.xlat c.part c.page = .page e a b n)
include hx

section
variable (hne : entryLarge e ≠ c.large)
include hne

theorem State.tierUnmap_of_other : s.tierUnmap c = s.tierReply c 8 := by
  rw [State.tierUnmap, hx]
  exact if_pos (bne_iff_ne.mpr hne)

theorem State.tierPromote_of_other (hp : c.pool = 0) : s.tierPromote c = s.tierReply c 8 := by
  rw [State.tierPromote, if_neg (not_not.mpr hp), hx]
  exact if_pos (bne_iff_ne.mpr hne)

theorem State.tierDemote_of_other (hp : c.pool ≠ 0 ∧ s.poolKind c.pool ≠ 1) : s.tierDemote c = s.tierReply c 8 := by
  rw [State.tierDemote, if_neg (State.not_upper hp), hx]
  exact if_pos (bne_iff_ne.mpr hne)

theorem State.tierRef_of_other (up : Bool) : s.tierRef c up = s.tierReply c 8 := by
  rw [State.tierRef, hx]
  exact if_pos (bne_iff_ne.mpr hne)

end

section
variable (hl : entryLarge e = c.large)
include hl

omit hx in
theorem not_otherSize : ¬(entryLarge e != c.large) = true := by
  rw [hl, bne_self_eq_false]
  exact Bool.false_ne_true

/-! ### UNMAP -/

omit hx hl in
/-- The entry cleared and the frame on its way back. -/
def State.entryCleared (s : State) (c : TierCmd) (e : W64) (a n : Nat) : State :=
  if entryTier e = 1 then ((s.hbmWrite64 a 0).releaseFrame e).addT1 c.part (-(n : Int)) else (s.hbmWrite64 a 0).releaseFrame e

theorem State.tierUnmap_of_page : s.tierUnmap c = if s.refOf c.part b ≠ 0 then s.tierReply c 2 else (s.entryCleared c e a n).tierReply c 0 := by
  rw [State.tierUnmap, hx]
  exact if_neg (not_otherSize hl)

omit hx hl in
theorem State.releaseFrame_releasing (s : State) (e : W64) : (s.releaseFrame e).tier.releasing =
    if Sparse.get 0 s.tier.origin (frameKey e) = 0 then s.tier.releasing else
      s.tier.releasing ++ [⟨Sparse.get 0 s.tier.origin (frameKey e) - 1, entryFrame e, s.time⟩] := by
  unfold State.releaseFrame
  dsimp only
  split <;> rfl

omit hx hl in
theorem State.entryCleared_spec (s : State) (c : TierCmd) (e : W64) (a n : Nat) : (s.entryCleared c e a n).hbmWord a = 0 ∧
    (s.entryCleared c e a n).hbm = (s.hbmWrite64 a 0).hbm ∧
    (entryTier e = 1 → ((s.entryCleared c e a n).part c.part).t1 = (s.part c.part).t1 - n) ∧
    (s.entryCleared c e a n).tier.releasing = (if Sparse.get 0 s.tier.origin (frameKey e) = 0 then s.tier.releasing else
      s.tier.releasing ++ [⟨Sparse.get 0 s.tier.origin (frameKey e) - 1, entryFrame e, s.time⟩]) := by
  have hr := (s.hbmWrite64 a 0).releaseFrame_releasing e
  have hf := (s.hbmWrite64 a 0).releaseFrame_eq e
  have hh : ((s.hbmWrite64 a 0).releaseFrame e).hbm = (s.hbmWrite64 a 0).hbm := by rw [hf]
  have hp : ((s.hbmWrite64 a 0).releaseFrame e).part c.part = s.part c.part := by
    rw [hf]
    rfl
  have hc : (s.entryCleared c e a n).hbm = (s.hbmWrite64 a 0).hbm := by
    unfold State.entryCleared
    split
    · rw [State.addT1_eq, State.setPart_hbm, hh]
    · exact hh
  refine ⟨by rw [State.hbmWord_of_hbm hc, State.hbmWrite64_hbmWord], hc, fun h1 => ?_, ?_⟩
  · rw [State.entryCleared, if_pos h1, State.addT1_t1, hp]
    omega
  · unfold State.entryCleared
    split
    · rw [State.addT1_eq, State.setPart_tier, hr]
      rfl
    · exact hr

/-! ### PROMOTE -/

theorem State.tierPromote_of_upper (hp : c.pool = 0) (hm : s.moveOf c.part c.page n = none) (h1 : entryTier e = 1) :
    s.tierPromote c = (if c.pin then s.hbmWrite64 a (setBits e 59 59 1) else s).tierReply c 0 := by
  rw [State.tierPromote, if_neg (not_not.mpr hp), hx]
  dsimp only
  rw [if_neg (not_otherSize hl), if_pos h1, hm]
  dsimp only
  rw [State.setEntry_of_page hx]

theorem State.tierPromote_of_full (hp : c.pool = 0) (h1 : entryTier e ≠ 1) (hf : s.t1Room c.part n = false ∨ s.drawFrame 0 n = none) :
    s.tierPromote c = s.tierReply c 3 := by
  rw [State.tierPromote, if_neg (not_not.mpr hp), hx]
  dsimp only
  rw [if_neg (not_otherSize hl), if_neg h1]
  rcases hf with hf | hf
  · exact if_pos (by rw [hf]; rfl)
  · rw [hf]
    dsimp only
    rw [ite_self]

omit hx hl in
/-- The move of a page that begins with a drawn frame. -/
def TierCmd.move (c : TierCmd) (demote : Bool) (pool f : Nat) : Move := ⟨c, demote, c.part, c.page, c.large, pool, f, none, false⟩

omit hx hl in
/-- A promotion entered: its frame drawn and counted. -/
def State.promoteEntered (s : State) (c : TierCmd) (n f : Nat) : State :=
  { (s.setPool 0 ((s.poolFrames 0).erase f)).addT1 c.part n with
    tier := { ((s.setPool 0 ((s.poolFrames 0).erase f)).addT1 c.part n).tier with
      moves := ((s.setPool 0 ((s.poolFrames 0).erase f)).addT1 c.part n).tier.moves ++ [c.move false 0 f] } }

omit hx hl in
/-- A promotion begun: the read of the lower frame on its way. -/
def State.promoteBegun (s : State) (c : TierCmd) (e : W64) (n f : Nat) : State :=
  (s.promoteEntered c n f).unitOp (.move c.part c.page) c.part 1 (extAddr e 0) n [] (sealedAt (extAddr e 0)) 0 0 0

theorem State.tierPromote_of_drawn (hp : c.pool = 0) (h1 : entryTier e ≠ 1) (hr : s.t1Room c.part n = true)
    (hf : (s.poolFrames 0).find? (fun f => decide (f % n = 0)) = some f) : s.tierPromote c = s.promoteBegun c e n f := by
  rw [State.tierPromote, if_neg (not_not.mpr hp), hx]
  dsimp only
  rw [if_neg (not_otherSize hl), if_neg h1, if_neg (by rw [hr]; decide), State.drawFrame_of_find s.poolKind_zero_ne hf]
  rfl

omit hx hl in
/-- A queued operation adds one to those outstanding, and leaves memory, the Tier mover and the partitions. -/
theorem State.unitOp_begun (s : State) (use : UnitUse) (p op a len : Nat) (data : List Byte) (sealed : Bool) (w : Nat) (x y : W64) {t : State}
    (ht : t = s.unitOp use p op a len data sealed w x y) : t.hbm = s.hbm ∧ t.tier = s.tier ∧ (∀ q, t.part q = s.part q) ∧
    t.fab.ops.map (·.use) = s.fab.ops.map (·.use) ++ [use] := by
  obtain ⟨_, _, _, _, hu⟩ := (s.unitOp_sent use p op a len data sealed w x y).frame
  obtain ⟨o, _, hfab, huse, -, -, -, -⟩ := (s.unitOp_queued use p op a len data sealed w x y).fab
  rw [← ht] at hu hfab
  refine ⟨by rw [hu], by rw [hu], fun q => by rw [State.part, hu, State.part], ?_⟩
  rw [hfab, List.map_append, List.map_singleton, huse]

omit hx hl in
theorem State.promoteEntered_spec (s : State) (c : TierCmd) (n f : Nat) :
    (s.promoteEntered c n f).tier.moves = s.tier.moves ++ [c.move false 0 f] ∧ (s.promoteEntered c n f).hbm = s.hbm ∧
    (s.promoteEntered c n f).fab = s.fab ∧ (s.promoteEntered c n f).poolFrames 0 = (s.poolFrames 0).erase f ∧
    ((s.promoteEntered c n f).part c.part).t1 = (s.part c.part).t1 + n := by
  have ht : ((s.setPool 0 ((s.poolFrames 0).erase f)).addT1 c.part n).tier = (s.setPool 0 ((s.poolFrames 0).erase f)).tier := by
    rw [State.addT1_eq, State.setPart_tier]
  have hp := s.setPool_poolFrames 0 ((s.poolFrames 0).erase f)
  have ht1 := (s.setPool 0 ((s.poolFrames 0).erase f)).addT1_t1 c.part n
  have hh : ((s.setPool 0 ((s.poolFrames 0).erase f)).addT1 c.part n).hbm = s.hbm := by
    rw [State.addT1_eq, State.setPart_hbm]
    rfl
  have hfab : ((s.setPool 0 ((s.poolFrames 0).erase f)).addT1 c.part n).fab = s.fab := by
    rw [State.addT1_eq, State.setPart_fab]
    rfl
  have hpart : (s.setPool 0 ((s.poolFrames 0).erase f)).part c.part = s.part c.part := rfl
  have hmv : (s.setPool 0 ((s.poolFrames 0).erase f)).tier.moves = s.tier.moves := rfl
  unfold State.promoteEntered
  generalize (s.setPool 0 ((s.poolFrames 0).erase f)).addT1 c.part n = w at ht ht1 hh hfab
  refine ⟨?_, hh, hfab, ?_, ?_⟩
  · rw [← hmv, ← ht]
  · change Sparse.get [] w.tier.pools 0 = _
    rw [ht]
    exact hp
  · refine (show _ = (w.part c.part).t1 from rfl).trans ?_
    rw [ht1, hpart]
    omega

omit hx hl in
theorem State.promoteBegun_spec (s : State) (c : TierCmd) (e : W64) (n f : Nat) :
    (s.promoteBegun c e n f).tier.moves = s.tier.moves ++ [c.move false 0 f] ∧ (s.promoteBegun c e n f).hbm = s.hbm ∧
    (s.promoteBegun c e n f).fab.ops.map (·.use) = s.fab.ops.map (·.use) ++ [UnitUse.move c.part c.page] ∧
    (s.promoteBegun c e n f).poolFrames 0 = (s.poolFrames 0).erase f ∧
    ((s.promoteBegun c e n f).part c.part).t1 = (s.part c.part).t1 + n := by
  obtain ⟨k1, k2, k3, k4⟩ := State.unitOp_begun (s.promoteEntered c n f) _ _ _ _ _ _ _ _ _ _ (Eq.refl (s.promoteBegun c e n f))
  obtain ⟨h1, h2, h3, h4, h5⟩ := s.promoteEntered_spec c n f
  exact ⟨by rw [k2, h1], by rw [k1, h2], by rw [k4, h3], by rw [State.poolFrames, k2]; exact h4, by rw [k3, h5]⟩

/-! ### DEMOTE -/

section
variable (hp : c.pool ≠ 0 ∧ s.poolKind c.pool ≠ 1)
include hp

theorem State.tierDemote_of_low (h1 : entryTier e ≠ 1) : s.tierDemote c = s.tierReply c 0 := by
  rw [State.tierDemote, if_neg (State.not_upper hp), hx]
  dsimp only
  rw [if_neg (not_otherSize hl), if_pos h1]

theorem State.tierDemote_of_pinned (h1 : entryTier e = 1) (hpin : entryPinned e = true) (hu : c.unpin = false) :
    s.tierDemote c = s.tierReply c 4 := by
  rw [State.tierDemote, if_neg (State.not_upper hp), hx]
  dsimp only
  rw [if_neg (not_otherSize hl), if_neg (not_not.mpr h1), if_pos (by rw [hpin, hu]; rfl)]

omit hx hl hp in
/-- A demotion entered: Moving set, its frame drawn. -/
def State.demoteEntered (s : State) (c : TierCmd) (e : W64) (a f : Nat) : State :=
  { (s.setPool c.pool ((s.poolFrames c.pool).erase f)).hbmWrite64 a (setBits e 56 56 1) with
    tier := { (s.setPool c.pool ((s.poolFrames c.pool).erase f)).tier with
      moves := (s.setPool c.pool ((s.poolFrames c.pool).erase f)).tier.moves ++ [c.move true c.pool f] } }

omit hx hl hp in
/-- The lower frame that a demotion writes, as its entry will name it. -/
abbrev State.lowEntry (s : State) (c : TierCmd) (f : Nat) : W64 := s.poolEntry c.pool f c.large false false

omit hx hl hp in
/-- A demotion begun: the write of the lower frame on its way, unless the page is poisoned. -/
def State.demoteBegun (s : State) (c : TierCmd) (e : W64) (a n f : Nat) : State :=
  if s.hbmRangeBad (entryFrame e) n then s.demoteEntered c e a f
  else (s.demoteEntered c e a f).unitOp (.move c.part c.page) c.part 2 (extAddr (s.lowEntry c f) 0) n (s.hbmRead (entryFrame e) n)
    (sealedAt (extAddr (s.lowEntry c f) 0)) 0 0 0

theorem State.tierDemote_of_drawn (h1 : entryTier e = 1) (hpin : entryPinned e = false ∨ c.unpin = true) (hk : s.poolKind c.pool ≠ 0)
    (hf : (s.poolFrames c.pool).find? (fun f => decide (f % n = 0)) = some f) :
    s.tierDemote c = if s.lowerResp (s.lowEntry c f) ≠ 0 then s.tierReply c 3 else s.demoteBegun c e a n f := by
  have hpin' : ¬(entryPinned e && !c.unpin) = true := by
    rcases hpin with h | h <;> simp [h]
  have hx' : (s.setPool c.pool ((s.poolFrames c.pool).erase f)).xlat c.part c.page = .page e a b n :=
    (State.xlat_congr rfl rfl rfl rfl _ _).trans hx
  rw [State.tierDemote, if_neg (State.not_upper hp), hx]
  dsimp only
  rw [if_neg (not_otherSize hl), if_neg (not_not.mpr h1), if_neg hpin', State.drawFrame_of_find hk hf]
  dsimp only
  rw [State.setEntry_of_page hx']
  rfl

omit hx hl hp in
theorem State.withMoves_spec (z w : State) (moves : List Move) {t : State} (ht : t = { w with tier := { z.tier with moves := moves } }) :
    t.tier.moves = moves ∧ t.hbm = w.hbm ∧ (∀ q, t.poolFrames q = z.poolFrames q) ∧ t.fab = w.fab := by
  rw [ht]
  exact ⟨rfl, rfl, fun _ => rfl, rfl⟩

omit hx hl hp in
theorem State.demoteEntered_spec (s : State) (c : TierCmd) (e : W64) (a f : Nat) :
    (s.demoteEntered c e a f).tier.moves = s.tier.moves ++ [c.move true c.pool f] ∧ (s.demoteEntered c e a f).hbmWord a = setBits e 56 56 1 ∧
    (s.demoteEntered c e a f).poolFrames c.pool = (s.poolFrames c.pool).erase f ∧ (s.demoteEntered c e a f).fab = s.fab := by
  obtain ⟨h1, h2, h3, h4⟩ := State.withMoves_spec _ _ _ (Eq.refl (s.demoteEntered c e a f))
  refine ⟨h1, ?_, (h3 _).trans (s.setPool_poolFrames _ _), h4.trans (State.hbmWrite_fab _ _ _)⟩
  rw [State.hbmWord_of_hbm h2, State.hbmWrite64_hbmWord]

omit hx hl hp in
theorem State.demoteBegun_spec (s : State) (c : TierCmd) (e : W64) (a n f : Nat) :
    (s.demoteBegun c e a n f).tier.moves = s.tier.moves ++ [c.move true c.pool f] ∧ (s.demoteBegun c e a n f).hbmWord a = setBits e 56 56 1 ∧
    (s.demoteBegun c e a n f).poolFrames c.pool = (s.poolFrames c.pool).erase f ∧ (s.hbmRangeBad (entryFrame e) n = false →
      (s.demoteBegun c e a n f).fab.ops.map (·.use) = s.fab.ops.map (·.use) ++ [UnitUse.move c.part c.page]) := by
  obtain ⟨h1, h2, h3, h4⟩ := s.demoteEntered_spec c e a f
  unfold State.demoteBegun
  split
  · next hb => exact ⟨h1, h2, h3, fun h => absurd (h.symm.trans hb) Bool.false_ne_true⟩
  · generalize hu : (s.demoteEntered c e a f).unitOp _ _ _ _ _ _ _ _ _ _ = u
    obtain ⟨k1, k2, -, k4⟩ := State.unitOp_begun _ _ _ _ _ _ _ _ _ _ _ hu.symm
    exact ⟨by rw [k2, h1], by rw [State.hbmWord_of_hbm k1, h2], by rw [State.poolFrames, k2]; exact h3, fun _ => by rw [k4, h4]⟩

end

omit hx hl in
theorem State.tierDemote_of_upper (hp : c.pool = 0) : s.tierDemote c = s.tierReply c 8 := by
  rw [State.tierDemote]
  exact if_pos (by rw [decide_eq_true hp]; rfl)

/-! ### REF and UNREF -/

theorem State.tierRef_of_page (up : Bool) : s.tierRef c up =
    if up then (if s.refOf c.part b = 2 ^ 32 - 1 then s.tierReply c 2 else (s.setRef c.part b (s.refOf c.part b + 1)).tierReply c 0)
    else (if s.refOf c.part b = 0 then s.tierReply c 8 else (s.setRef c.part b (s.refOf c.part b - 1)).tierReply c 0) := by
  rw [State.tierRef, hx]
  exact if_neg (not_otherSize hl)

end

end

end


/-! ### The command ring -/

section
variable {s : State} {c : TierCmd}

theorem State.spansWrite_tier (p : Nat) : ∀ (l : List (Nat × Nat)) (s : State) (bs : List Byte), (s.spansWrite p l bs).tier = s.tier
  | [], _, _ => rfl
  | sp :: r, s, bs => by
    have h : (s.spanWrite p sp.1 (bs.take sp.2)).tier = s.tier := by
      unfold State.spanWrite
      split
      · rw [State.hbmWrite_tier]
      · rfl
    exact (State.spansWrite_tier p r _ _).trans h

theorem State.rangeWrite_queue (s : State) (p a : Nat) (bs : List Byte) : (s.rangeWrite p a bs).tier.queue = s.tier.queue := by
  unfold State.rangeWrite
  dsimp only
  split
  · exact (congrArg Tier.queue (s.spansWrite_tier p (pageSpans a bs.length) bs) :)
  · rw [State.countBad, State.bump_tier]

theorem State.unitPut8_queue (s : State) (p a : Nat) (v : W64) : (s.unitPut8 p a v).tier.queue = s.tier.queue := by
  have hremote : ((s.unitOp .note p 2 a 8 (leBytes 8 v.toNat) false 0 0 0).settleNotes).tier.queue = s.tier.queue := by
    obtain ⟨_, ht, _, _⟩ := s.unitOp_begun .note p 2 a 8 (leBytes 8 v.toNat) false 0 0 0 rfl
    exact congrArg Tier.queue ht
  unfold State.unitPut8
  extract_lets bs
  split
  · split
    · rw [State.beadWrite_tier]
    · rfl
  · split
    · exact s.rangeWrite_queue p _ bs
    · split
      · rw [State.hbmWrite_tier]
      · rfl
  · exact hremote
  · exact hremote
  · exact hremote
  · rfl

/-- A reply to a command of the ring that is no DEMOTE leaves the queue. -/
theorem State.tierReply_queue (hc : c.slate = none) (h4 : c.op ≠ 4) (status : Nat) : (s.tierReply c status).tier.queue = s.tier.queue := by
  unfold State.tierReply
  rw [hc]
  dsimp only
  rw [if_neg (by rw [decide_eq_false h4, Bool.false_and]; exact Bool.false_ne_true)]
  split
  · rfl
  · exact s.unitPut8_queue _ _ _

/-- The command of the ring at a running count. -/
def State.ringCmd (s : State) (i : Nat) : TierCmd :=
  ⟨s.hbmWord ((s.rd 0x400000).toNat + 32 * (i % 2 ^ s.rf 0x400008 4 0)), s.hbmWord ((s.rd 0x400000).toNat + 32 * (i % 2 ^ s.rf 0x400008 4 0) + 8),
    s.hbmWord ((s.rd 0x400000).toNat + 32 * (i % 2 ^ s.rf 0x400008 4 0) + 16),
    s.hbmWord ((s.rd 0x400000).toNat + 32 * (i % 2 ^ s.rf 0x400008 4 0) + 24), none⟩

/-- What the ring has after its tail is written: how many commands. -/
def State.ringCount (s : State) : Nat :=
  min ((s.rf 0x400010 31 0 + 2 ^ 32 - s.rf 0x400018 31 0) % 2 ^ 32) (2 ^ s.rf 0x400008 4 0)

theorem State.takeRing_eq (s : State) : s.takeRing = (s.fetchCmds (s.rf 0x400018 31 0) s.ringCount).setReg 0x400018 (w64 (s.rf 0x400010 31 0)) := rfl

/-- A command joins the queue. -/
def State.queuedCmd (s : State) (c : TierCmd) : State := { s with tier := { s.tier with queue := s.tier.queue ++ [c] } }

theorem State.fetchCmds_one (s : State) (i : Nat) : s.fetchCmds i 1 =
    if 1 ≤ (s.ringCmd i).op ∧ (s.ringCmd i).op ≤ 6 then s.queuedCmd (s.ringCmd i) else s.tierReply (s.ringCmd i) 8 := rfl

theorem State.queuedCmd_spec (s : State) (c : TierCmd) : (s.queuedCmd c).tier.queue = s.tier.queue ++ [c] ∧ (s.queuedCmd c).hbm = s.hbm ∧
    ∀ o, (s.queuedCmd c).rd o = s.rd o :=
  ⟨rfl, rfl, fun _ => State.rd_of_regs rfl rfl _⟩

theorem State.ringCmd_setReg (s : State) (v : W64) (i : Nat) : (s.setReg 0x400010 v).ringCmd i = s.ringCmd i := by
  have h0 : (s.setReg 0x400010 v).rd 0x400000 = s.rd 0x400000 := s.rd_setReg_ne v (by decide)
  have h8 : (s.setReg 0x400010 v).rf 0x400008 4 0 = s.rf 0x400008 4 0 := by
    rw [State.rf, s.rd_setReg_ne v (by decide), State.rf]
  unfold State.ringCmd
  rw [h0, h8]
  rfl

theorem State.ringCount_setReg (s : State) (v : W64) : (s.setReg 0x400010 v).ringCount =
    min ((bits v 31 0 + 2 ^ 32 - s.rf 0x400018 31 0) % 2 ^ 32) (2 ^ s.rf 0x400008 4 0) := by
  have h1 : (s.setReg 0x400010 v).rf 0x400010 31 0 = bits v 31 0 := by rw [State.rf, State.rd_setReg]
  have h2 : (s.setReg 0x400010 v).rf 0x400018 31 0 = s.rf 0x400018 31 0 := by rw [State.rf, s.rd_setReg_ne v (by decide), State.rf]
  have h3 : (s.setReg 0x400010 v).rf 0x400008 4 0 = s.rf 0x400008 4 0 := by rw [State.rf, s.rd_setReg_ne v (by decide), State.rf]
  rw [State.ringCount, h1, h2, h3]

/-- A tail write within 32 bits. -/
theorem execTierCmdTail_of_live (hl : s.live = true) (v : W64) : exec (.tierCmdTail v) s =
    .next (((s.setReg 0x400010 (v &&& 0xFFFFFFFF)).fetchCmds (s.rf 0x400018 31 0)
      (min (((v &&& 0xFFFFFFFF).toNat + 2 ^ 32 - s.rf 0x400018 31 0) % 2 ^ 32) (2 ^ s.rf 0x400008 4 0))).setReg 0x400018 (v &&& 0xFFFFFFFF)) := by
  have hlt : (v &&& 0xFFFFFFFF).toNat < 2 ^ 32 := by
    rw [BitVec.toNat_and]
    exact lt_of_le_of_lt Nat.and_le_right (by decide)
  generalize ht : v &&& 0xFFFFFFFF = t at hlt
  have hb : bits t 31 0 = t.toNat := by
    rw [bits, Nat.pow_zero, Nat.div_one]
    exact Nat.mod_eq_of_lt hlt
  have hw : w64 t.toNat = t := by rw [w64, BitVec.ofNat_toNat, BitVec.setWidth_eq]
  have h1 : (s.setReg 0x400010 t).rf 0x400010 31 0 = t.toNat := by rw [State.rf, State.rd_setReg, hb]
  have h2 : (s.setReg 0x400010 t).rf 0x400018 31 0 = s.rf 0x400018 31 0 := by rw [State.rf, s.rd_setReg_ne t (by decide), State.rf]
  have he : exec (.tierCmdTail v) s = .next (s.setReg 0x400010 (v &&& 0xFFFFFFFF)).takeRing := congrArg Host.Outcome.next (if_pos hl)
  rw [he, ht, State.takeRing_eq, State.ringCount_setReg, h1, h2, hb, hw]

section
variable (hl : s.live = true) (v : W64)
include hl

theorem execTierCmdTail_of_none (h : (v &&& 0xFFFFFFFF).toNat = s.rf 0x400018 31 0) :
    exec (.tierCmdTail v) s = .next ((s.setReg 0x400010 (v &&& 0xFFFFFFFF)).setReg 0x400018 (v &&& 0xFFFFFFFF)) := by
  rw [execTierCmdTail_of_live hl, h, Nat.add_sub_cancel_left, Nat.mod_self, Nat.zero_min]
  rfl

/-- One command more in the ring. -/
theorem execTierCmdTail_of_one (h : (v &&& 0xFFFFFFFF).toNat = (s.rf 0x400018 31 0 + 1) % 2 ^ 32) : exec (.tierCmdTail v) s =
    .next ((if 1 ≤ (s.ringCmd (s.rf 0x400018 31 0)).op ∧ (s.ringCmd (s.rf 0x400018 31 0)).op ≤ 6
      then (s.setReg 0x400010 (v &&& 0xFFFFFFFF)).queuedCmd (s.ringCmd (s.rf 0x400018 31 0))
      else (s.setReg 0x400010 (v &&& 0xFFFFFFFF)).tierReply (s.ringCmd (s.rf 0x400018 31 0)) 8).setReg 0x400018 (v &&& 0xFFFFFFFF)) := by
  have hlt : s.rf 0x400018 31 0 < 2 ^ 32 := Nat.mod_lt _ (by decide)
  have hone : min (((s.rf 0x400018 31 0 + 1) % 2 ^ 32 + 2 ^ 32 - s.rf 0x400018 31 0) % 2 ^ 32) (2 ^ s.rf 0x400008 4 0) = 1 := by
    have h1 : ((s.rf 0x400018 31 0 + 1) % 2 ^ 32 + 2 ^ 32 - s.rf 0x400018 31 0) % 2 ^ 32 = 1 := by omega
    rw [h1]
    exact Nat.min_eq_left Nat.one_le_two_pow
  rw [execTierCmdTail_of_live hl, h, hone, State.fetchCmds_one, State.ringCmd_setReg]

end

/-- The ring's head reaches its tail after one command has joined the queue. -/
theorem State.queuedCmd_tail_spec (s : State) (c : TierCmd) (w : W64) :
    (((s.setReg 0x400010 w).queuedCmd c).setReg 0x400018 w).tier.queue = s.tier.queue ++ [c] ∧
    (((s.setReg 0x400010 w).queuedCmd c).setReg 0x400018 w).rd 0x400018 = w ∧
    (((s.setReg 0x400010 w).queuedCmd c).setReg 0x400018 w).rd 0x400010 = w ∧
    (((s.setReg 0x400010 w).queuedCmd c).setReg 0x400018 w).hbm = s.hbm := by
  obtain ⟨h1, h2, h3⟩ := (s.setReg 0x400010 w).queuedCmd_spec c
  refine ⟨?_, State.rd_setReg _ _ _, ?_, ?_⟩
  · rw [State.setReg_tier, h1, State.setReg_tier]
  · rw [State.rd_setReg_ne _ _ (by decide), h3, State.rd_setReg]
  · rw [State.setReg_hbm, h2, State.setReg_hbm]

theorem State.reservedReply_spec (s : State) (w : W64) (hc : c.slate = none) (h4 : c.op ≠ 4) :
    (((s.setReg 0x400010 w).tierReply c 8).setReg 0x400018 w).tier.queue = s.tier.queue ∧
    (((s.setReg 0x400010 w).tierReply c 8).setReg 0x400018 w).hbm = ((s.setReg 0x400010 w).tierReply c 8).hbm :=
  ⟨by rw [State.setReg_tier, State.tierReply_queue hc h4, State.setReg_tier], State.setReg_hbm _ _ _⟩

end

section
variable {s : State} {k : Nat} {c : TierCmd}

theorem execMap_of_ready (h : TierReady s k 1 c) : exec (.map k) s = .next
    (if 2 ≤ s.poolKind c.pool then ((s.tierTaken k).tierMapLower c).settleFills else (s.tierTaken k).mapReplied c) :=
  congrArg Host.Outcome.next (State.cmdRow_of_ready h _)

theorem execUnmap_of_ready (h : TierReady s k 2 c) : exec (.unmap k) s = .next ((s.tierTaken k).tierUnmap c) :=
  congrArg Host.Outcome.next (State.cmdRow_of_ready h _)

theorem execPromote_of_ready (h : TierReady s k 3 c) : exec (.promote k) s = .next ((s.tierTaken k).tierPromote c) :=
  congrArg Host.Outcome.next (State.cmdRow_of_ready h _)

theorem execDemote_of_ready (h : TierReady s k 4 c) : exec (.demote k) s = .next ((s.tierTaken k).tierDemote c) :=
  congrArg Host.Outcome.next (State.cmdRow_of_ready h _)

theorem execRef_of_ready (h : TierReady s k 5 c) : exec (.ref k) s = .next ((s.tierTaken k).tierRef c true) :=
  congrArg Host.Outcome.next (State.cmdRow_of_ready h _)

theorem execUnref_of_ready (h : TierReady s k 6 c) : exec (.unref k) s = .next ((s.tierTaken k).tierRef c false) :=
  congrArg Host.Outcome.next (State.cmdRow_of_ready h _)

theorem exec_of_unmapped {op : Nat} {i : Instr} (hi : (op, i) ∈ [(2, .unmap k), (3, .promote k), (4, .demote k), (5, .ref k), (6, .unref k)])
    (h : TierReady s k op c) (hp3 : op = 3 → c.pool = 0) (hp4 : op = 4 → c.pool ≠ 0 ∧ s.poolKind c.pool ≠ 1)
    (hx : s.xlat c.part c.page = .unmapped) : exec i s = .next ((s.tierTaken k).tierReply c 5) := by
  have hx' := (s.tierTaken_xlat k c.part c.page).trans hx
  simp only [List.mem_cons, Prod.mk.injEq, List.not_mem_nil, or_false] at hi
  rcases hi with ⟨rfl, rfl⟩ | ⟨rfl, rfl⟩ | ⟨rfl, rfl⟩ | ⟨rfl, rfl⟩ | ⟨rfl, rfl⟩
  · rw [execUnmap_of_ready h, State.tierUnmap_of_unmapped hx']
  · rw [execPromote_of_ready h, State.tierPromote_of_unmapped (hp3 rfl) hx']
  · rw [execDemote_of_ready h, State.tierDemote_of_unmapped (s := s.tierTaken k) (hp4 rfl) hx']
  · rw [execRef_of_ready h, State.tierRef_of_unmapped hx']
  · rw [execUnref_of_ready h, State.tierRef_of_unmapped hx']

theorem exec_of_otherSize {op : Nat} {i : Instr} (hi : (op, i) ∈ [(2, .unmap k), (3, .promote k), (4, .demote k), (5, .ref k), (6, .unref k)])
    (h : TierReady s k op c) (hp3 : op = 3 → c.pool = 0) (hp4 : op = 4 → c.pool ≠ 0 ∧ s.poolKind c.pool ≠ 1) {e : W64} {a b n : Nat}
    (hx : s.xlat c.part c.page = .page e a b n) (hne : entryLarge e ≠ c.large) : exec i s = .next ((s.tierTaken k).tierReply c 8) := by
  have hx' := (s.tierTaken_xlat k c.part c.page).trans hx
  simp only [List.mem_cons, Prod.mk.injEq, List.not_mem_nil, or_false] at hi
  rcases hi with ⟨rfl, rfl⟩ | ⟨rfl, rfl⟩ | ⟨rfl, rfl⟩ | ⟨rfl, rfl⟩ | ⟨rfl, rfl⟩
  · rw [execUnmap_of_ready h, State.tierUnmap_of_other hx' hne]
  · rw [execPromote_of_ready h, State.tierPromote_of_other hx' hne (hp3 rfl)]
  · rw [execDemote_of_ready h, State.tierDemote_of_other (s := s.tierTaken k) hx' hne (hp4 rfl)]
  · rw [execRef_of_ready h, State.tierRef_of_other hx' hne]
  · rw [execUnref_of_ready h, State.tierRef_of_other hx' hne]

end

/-- Settles O43: MAP by what it finds, then the other commands by the page's entry, and the ring's tail. -/
theorem tierMoverCommands : Obligations.TierMoverCommands := by
  refine ⟨fun s k c h => ⟨fun e a b n hk hx => ?_, fun hx => ⟨fun hk hr => ?_, fun hk => ?_, fun hk hr f s1 a s2 hd he h0 => ?_,
      fun hk f s1 hd => ⟨fun hlow => ?_, fun a s2 hlow he h0 => ?_⟩⟩⟩,
    fun s k c op i hi h hp3 hp4 => ⟨fun hx => exec_of_unmapped hi h hp3 hp4 hx, fun e a b n hx hne => exec_of_otherSize hi h hp3 hp4 hx hne⟩,
    fun s k c e a b n hx hl => ?_, fun s k hq i hi => ?_,
    fun s v hl => ⟨fun ht => execTierCmdTail_of_none hl v ht, fun ht h1 h6 => ?_, fun ht hop => ?_⟩⟩
  · have hx' := (s.tierTaken_xlat k c.part c.page).trans hx
    rw [execMap_of_ready h, if_neg (by omega), State.mapReplied_of_page hx']
  · have hx' := (s.tierTaken_xlat k c.part c.page).trans hx
    rw [execMap_of_ready h, if_neg (by omega), State.mapReplied_of_full hx' (.inl hr)]
  · have hx' := (s.tierTaken_xlat k c.part c.page).trans hx
    have hd : (s.tierTaken k).drawFrame c.pool (pageSize c.large) = none := by
      rcases hk with hk | ⟨-, hf⟩
      · exact State.drawFrame_of_off hk
      · exact State.drawFrame_of_none hf
    rw [execMap_of_ready h, if_neg (by omega), State.mapReplied_of_full hx' (.inr hd)]
  · have hx' := (s.tierTaken_xlat k c.part c.page).trans hx
    refine ⟨s2.frameMapped c (s.mapEntry c f) a f, ?_, s2.frameMapped_spec c _ a f⟩
    rw [execMap_of_ready h, if_neg (by omega), State.mapReplied_of_drawn hx' hr hd he h0]
    rfl
  · have hx' := (s.tierTaken_xlat k c.part c.page).trans hx
    rw [execMap_of_ready h, if_pos hk, State.tierMapLower_of_noFrame hx' hd hlow]
  · have hx' := (s.tierTaken_xlat k c.part c.page).trans hx
    rw [execMap_of_ready h, if_pos hk, State.tierMapLower_of_drawn hx' hd hlow he h0]
    rfl
  · have hx' := (s.tierTaken_xlat k c.part c.page).trans hx
    have hn : n = pageSize c.large := (State.xlat_size hx).trans (congrArg pageSize hl)
    refine ⟨fun h hr => ?_, fun h hr => ?_, fun h hp h1 => ?_, fun h hp h1 => ⟨fun hf => ?_, fun hr f hf => ?_⟩,
      fun h hp hk => ⟨fun h1 => ?_, fun h1 hpin hu => ?_, fun h1 hpin hk0 f hf => ?_⟩, fun h hp => ?_, fun h => ?_, fun h => ?_⟩
    · rw [execUnmap_of_ready h, State.tierUnmap_of_page hx' hl]
      exact congrArg Host.Outcome.next (if_pos hr)
    · refine ⟨(s.tierTaken k).entryCleared c e a n, ?_, (s.tierTaken k).entryCleared_spec c e a n⟩
      rw [execUnmap_of_ready h, State.tierUnmap_of_page hx' hl]
      exact congrArg Host.Outcome.next (if_neg (not_not.mpr hr))
    · rw [execPromote_of_ready h, State.tierPromote_of_upper hx' hl hp (by rw [hn]; exact h.moveOf (by decide)) h1]
    · have hf' : (s.tierTaken k).t1Room c.part n = false ∨ (s.tierTaken k).drawFrame 0 n = none := hf.imp id fun hf => State.drawFrame_of_none hf
      rw [execPromote_of_ready h, State.tierPromote_of_full hx' hl hp h1 hf']
    · exact ⟨_, (execPromote_of_ready h).trans (congrArg _ (State.tierPromote_of_drawn hx' hl hp h1 hr hf)),
        (s.tierTaken k).promoteBegun_spec c e n f⟩
    · rw [execDemote_of_ready h, State.tierDemote_of_low hx' hl ⟨hp, hk⟩ h1]
    · rw [execDemote_of_ready h, State.tierDemote_of_pinned hx' hl ⟨hp, hk⟩ h1 hpin hu]
    · have hd := State.tierDemote_of_drawn hx' hl ⟨hp, hk⟩ h1 hpin hk0 hf
      refine ⟨fun hlow => ?_, fun hlow => ⟨(s.tierTaken k).demoteBegun c e a n f, ?_, (s.tierTaken k).demoteBegun_spec c e a n f⟩⟩
      · rw [execDemote_of_ready h, hd]
        exact congrArg Host.Outcome.next (if_pos hlow)
      · rw [execDemote_of_ready h, hd]
        exact congrArg Host.Outcome.next (if_neg (not_not.mpr hlow))
    · rw [execDemote_of_ready h, State.tierDemote_of_upper hp]
    · rw [execRef_of_ready h, State.tierRef_of_page hx' hl]
      rfl
    · rw [execUnref_of_ready h, State.tierRef_of_page hx' hl]
      rfl
  · simp only [List.mem_cons, List.not_mem_nil, or_false] at hi
    rcases hi with rfl | rfl | rfl | rfl | rfl | rfl <;> exact congrArg Host.Outcome.next (State.cmdRow_of_none hq _ _)
  · exact ⟨_, (execTierCmdTail_of_one hl v ht).trans (congrArg (fun x : State => Host.Outcome.next (x.setReg 0x400018 (v &&& 0xFFFFFFFF)))
      (if_pos ⟨h1, h6⟩)), s.queuedCmd_tail_spec _ _⟩
  · have hn (x : Nat) (h : x = 0 ∨ 6 < x) : ¬(1 ≤ x ∧ x ≤ 6) ∧ x ≠ 4 := by omega
    obtain ⟨h16, h4⟩ := hn _ hop
    exact ⟨_, (execTierCmdTail_of_one hl v ht).trans (congrArg (fun x : State => Host.Outcome.next (x.setReg 0x400018 (v &&& 0xFFFFFFFF)))
      (if_neg h16)), s.reservedReply_spec _ rfl h4⟩

end Sys2Proof.Machine
end

section
/-! PROOF. What a partition's load keeps while pages are mapped and unmapped, and the open step through a reset
(13_weight_loading.md R293, R295, R299; 06 R222). -/

namespace Sys2Proof.Machine

/-! ### The open step -/

/-- From `s` to `u` the open steps of the partitions stay. -/
def OpenKept (s u : State) : Prop := ∀ q, (u.part q).opened = (s.part q).opened

theorem OpenKept.refl (s : State) : OpenKept s s := fun _ => rfl

theorem OpenKept.trans {s t u : State} (h : OpenKept s t) (k : OpenKept t u) : OpenKept s u := fun q => (k q).trans (h q)

theorem OpenKept.of_parts {s u : State} (h : u.parts = s.parts) : OpenKept s u := fun q => by rw [State.part, h, State.part]

theorem QueueServed.parts {s u : State} (h : QueueServed s u) : u.parts = s.parts := by
  obtain ⟨⟨_, _, rfl⟩, -⟩ := h
  rfl

section
variable (s : State)

theorem OpenKept.forEach {α : Type} {f : α → State → State} (hf : ∀ a u, OpenKept u (f a u)) (l : List α) : OpenKept s (s.forEach l f) :=
  State.forEach_induct (P := OpenKept s) (fun a u h => h.trans (hf a u)) l (.refl s)

theorem State.onPart_openKept (p : Nat) {f : Part → Part} (hf : ∀ x, (f x).opened = x.opened) : OpenKept s (s.onPart p f) := by
  intro q
  by_cases h : q = p
  · rw [h, State.onPart, State.part_setPart, hf]
  · rw [State.onPart, State.part_setPart_ne _ _ h]

theorem State.freeBlock_openKept (p a : Nat) : OpenKept s (s.freeBlock p a) := by
  refine s.onPart_openKept p fun x => ?_
  split
  · split <;> rfl
  · rfl

theorem State.recallBlock_openKept (p a : Nat) : OpenKept s (s.recallBlock p a) := by
  refine .forEach s (fun b u => ?_) _
  split
  · dsimp only
    split
    · exact .of_parts rfl
    · exact .refl u
  · exact .refl u

theorem State.pfxDrop_openKept (p : Nat) (key : W64) (blk : Nat) : OpenKept s (s.pfxDrop p key blk) := by
  unfold State.pfxDrop
  split
  · exact .of_parts (s.rangeWrite_written _ _ _).parts
  · exact .refl s

theorem State.releaseBlock_openKept (i : Nat) (x : Slot) (n : Nat) : OpenKept s (s.releaseBlock i x n) := by
  unfold State.releaseBlock
  dsimp only
  split
  · exact s.pfxDrop_openKept _ _ _
  · exact (s.recallBlock_openKept _ _).trans (State.freeBlock_openKept _ _ _)

theorem State.onSlot_openKept (i : Nat) (f : Slot → Slot) : OpenKept s (s.onSlot i f) := .of_parts rfl

theorem State.kvRelease_openKept (i : Nat) : OpenKept s (s.kvRelease i false) := by
  rw [State.kvRelease_eq]
  exact (OpenKept.forEach s (fun n u => u.releaseBlock_openKept i (s.slot i) n) _).trans (State.onSlot_openKept _ i _)

theorem State.commandDone_openKept (t q cmd status : Nat) (req : Option Nat) : OpenKept s (s.commandDone t q cmd status req) :=
  .of_parts (s.commandDone_served t q cmd status req).parts

theorem State.final_openKept (i status resp : Nat) : OpenKept s (s.final i status resp) := by
  unfold State.final State.complete
  dsimp only
  split
  · exact .of_parts rfl
  · exact s.onSlot_openKept i _

theorem State.retireOne_openKept (i : Nat) {status : Nat} (h0 : status ≠ 0) (resp : Nat) : OpenKept s (s.retireOne i status resp) := by
  have hkeep : ((s.slot i).keepCache && status == 0) = false := by rw [beq_false_of_ne h0, Bool.and_false]
  have hmark : OpenKept s (s.retireMark i status resp) := by
    unfold State.retireMark
    rw [hkeep]
    have h := (s.kvRelease_openKept i).trans (State.onSlot_openKept _ i (fun x => x.ends status resp))
    generalize (s.kvRelease i false).onSlot i (fun x => x.ends status resp) = u at h
    exact h.trans (.of_parts rfl)
  exact (hmark.trans (OpenKept.forEach _ (fun c u => u.commandDone_openKept _ _ _ _ _) _)).trans (State.final_openKept _ i status resp)

end

theorem State.retireFrom_openKept {status : Nat} (h0 : status ≠ 0) (resp : Nat) : ∀ (n i : Nat) (s : State), OpenKept s (s.retireFrom i status resp n)
  | 0, _, s => .refl s
  | n + 1, i, s => by
    cases hi : (s.slot i).active with
    | false =>
      rw [State.retireFrom_of_inactive hi]
      exact .refl s
    | true =>
      rw [State.retireFrom_of_active hi h0]
      split
      · exact s.retireOne_openKept i h0 resp
      · exact (s.retireOne_openKept i h0 resp).trans (State.retireFrom_openKept h0 resp n _ _)

section
variable (s : State)

theorem State.unreserve_openKept (i : Nat) : OpenKept s (s.unreserve i) := .of_parts rfl

theorem State.endAdapters_openKept (p : Nat) : OpenKept s (s.endAdapters p) := by
  refine .forEach s (fun t u => ?_) _
  extract_lets l s1
  have h1 : OpenKept u s1 := .forEach u (fun a v => v.commandDone_openKept _ _ _ _ _) _
  split
  · exact h1
  · exact h1.trans (.of_parts rfl)

theorem State.resetRod_openKept (ph : Nat) : OpenKept s (s.resetRod ph) := .of_parts rfl

/-- A reset closes the open step. -/
theorem State.clearPart_opened (p : Nat) {status : Nat} (h0 : status ≠ 0) (resp : Nat) : ((s.clearPart p status resp).part p).opened = none := by
  unfold State.clearPart
  extract_lets x s1 s2 s3 s4 s5 s6
  have h3 : (s3.part p).opened = none := by
    unfold s3
    rw [State.onPart, State.part_setPart]
  have h4 : OpenKept s3 s4 := .forEach s3 (fun i u => (u.unreserve_openKept i).trans (State.retireFrom_openKept h0 resp _ i _)) _
  have h5 : OpenKept s4 s5 :=
    (s4.onPart_openKept p (f := fun x => { x with kvFree := x.kvFree ++ x.kvLater, kvLater := [] }) fun _ => rfl).trans (State.endAdapters_openKept _ p)
  have h6 : OpenKept s5 s6 := .forEach s5 (fun l u => u.resetRod_openKept _) _
  have h7 : ((s6.setReg (pReg p 0x100) 0).setReg (pReg p 0x108) 0).part p = s6.part p := by
    rw [State.part, State.setReg_parts, State.setReg_parts, State.part]
  rw [h7, h6, h5, h4, h3]

end

/-! ### The load of a partition -/

/-- From `s` to `u` the partitions keep all but their tier 1 bytes, the pages staged for their loads and the demotion that failed. -/
structure LoadKept (s u : State) : Prop where
  part : ∀ q, ∃ t1 staged bad, u.part q = { s.part q with t1 := t1, load := { (s.part q).load with staged := staged, bad := bad } }

theorem LoadKept.of_parts {s u : State} (h : u.parts = s.parts) : LoadKept s u :=
  ⟨fun q => ⟨_, _, _, by rw [State.part, h, State.part]⟩⟩

theorem LoadKept.refl (s : State) : LoadKept s s := .of_parts rfl

theorem LoadKept.trans {s t u : State} (h : LoadKept s t) (k : LoadKept t u) : LoadKept s u := by
  refine ⟨fun q => ?_⟩
  obtain ⟨_, _, _, h⟩ := h.part q
  obtain ⟨_, _, _, k⟩ := k.part q
  rw [h] at k
  exact ⟨_, _, _, k⟩

section
variable (s : State)

theorem LoadKept.forEach {α : Type} {f : α → State → State} (hf : ∀ a u, LoadKept u (f a u)) (l : List α) : LoadKept s (s.forEach l f) :=
  State.forEach_induct (P := LoadKept s) (fun a u h => h.trans (hf a u)) l (.refl s)

theorem State.onPart_loadKept (p : Nat) {f : Part → Part}
    (hf : ∀ x, ∃ t1 staged bad, f x = { x with t1 := t1, load := { x.load with staged := staged, bad := bad } }) : LoadKept s (s.onPart p f) := by
  refine ⟨fun q => ?_⟩
  by_cases h : q = p
  · rw [h, State.onPart, State.part_setPart]
    exact hf _
  · rw [State.onPart, State.part_setPart_ne _ _ h]
    exact ⟨_, _, _, rfl⟩

theorem State.addT1_loadKept (p : Nat) (d : Int) : LoadKept s (s.addT1 p d) := s.onPart_loadKept p fun _ => ⟨_, _, _, rfl⟩

end

theorem State.drawFrame_parts {s u : State} {pool size f : Nat} (h : s.drawFrame pool size = some (f, u)) : u.parts = s.parts := by
  unfold State.drawFrame at h
  dsimp only at h
  split at h
  · cases h
  · split at h
    · cases h
    · cases h
      rfl

theorem State.newTable_parts {s u : State} {lvl a : Nat} (h : s.newTable lvl = some (a, u)) : u.parts = s.parts := by
  unfold State.newTable at h
  dsimp only at h
  split at h
  · cases h
    rfl
  · split at h
    · cases h
    · next hdraw =>
      cases h
      exact (State.drawFrame_parts hdraw :)

theorem State.ensure_parts {u : State} {addr target a : Nat} :
    ∀ (n : Nat) {s : State} {tbl : Nat}, s.ensure addr tbl target n = some (a, u) → u.parts = s.parts
  | 0, _, _, h => nomatch h
  | lvl + 1, s, tbl, h => by
    unfold State.ensure at h
    dsimp only at h
    split at h
    · cases h
      rfl
    · split at h
      · exact State.ensure_parts lvl h
      · split at h
        · split at h
          · cases h
          · next hnew =>
            have hrest := State.ensure_parts lvl h
            exact hrest.trans (State.newTable_parts hnew :)
        · cases h

theorem State.framePlaced_parts (s : State) (f sz a : Nat) (v : W64) (o : Nat) :
    (((s.hbmZero f sz).hbmWrite64 a v).setOrigin f o).parts = s.parts := rfl

theorem State.tierMap_loadKept (s : State) (p page : Nat) (large : Bool) (pool : Nat) (pin wr : Bool) :
    LoadKept s (s.tierMap p page large pool pin wr).2 := by
  unfold State.tierMap
  dsimp only
  split
  · exact .refl s
  · split
    · exact .refl s
    · split
      · exact .refl s
      · next hdraw =>
        split
        · exact .refl s
        · next hens =>
          split
          · exact .refl s
          · dsimp only
            refine LoadKept.trans ?_ (State.addT1_loadKept _ _ _)
            exact .of_parts ((State.framePlaced_parts _ _ _ _ _ _).trans ((State.ensure_parts 4 hens).trans (State.drawFrame_parts hdraw)))

theorem State.mapShard_loadKept (p : Nat) (e : List W64) : ∀ (l : List Nat) (s : State), LoadKept s (s.mapShard p e l).2
  | [], s => .refl s
  | a :: r, s => by
    unfold State.mapShard
    have hm := s.tierMap_loadKept p a (shLarge e) 0 (shClass e == 0) false
    split
    · exact State.mapShard_loadKept p e r s
    · split
      · next s1 h =>
        rw [h] at hm
        exact (hm.trans (s1.onPart_loadKept p fun _ => ⟨_, _, _, rfl⟩)).trans (State.mapShard_loadKept p e r _)
      · next st s1 _ h =>
        rw [h] at hm
        exact hm

/-- A reply without a place to write it changes at most the demotion that a load has lost. -/
theorem State.tierReply_loadKept (s : State) {c : TierCmd} (h2 : c.w2 = 0) (hs : c.slate = none) (status : Nat) :
    LoadKept s (s.tierReply c status) := by
  unfold State.tierReply
  rw [h2, hs, if_pos (show bits (0 : W64) 55 0 = 0 by decide)]
  dsimp only
  split
  · unfold State.demoteLost
    dsimp only
    split
    · exact s.onPart_loadKept _ fun _ => ⟨_, _, _, rfl⟩
    · exact .refl s
  · exact .refl s

theorem State.tierUnmap_loadKept (s : State) {c : TierCmd} (h2 : c.w2 = 0) (hs : c.slate = none) : LoadKept s (s.tierUnmap c) := by
  unfold State.tierUnmap
  split
  · exact s.tierReply_loadKept h2 hs _
  · exact s.tierReply_loadKept h2 hs _
  · next e a b n _ =>
    split
    · exact s.tierReply_loadKept h2 hs _
    · split
      · exact s.tierReply_loadKept h2 hs _
      · refine LoadKept.trans ?_ (State.tierReply_loadKept _ h2 hs _)
        have hr : ((s.hbmWrite64 a 0).releaseFrame e).parts = s.parts := by
          rw [State.releaseFrame_eq]
          rfl
        split
        · exact (LoadKept.of_parts hr).trans (State.addT1_loadKept _ _ _)
        · exact .of_parts hr

theorem State.unmapPages_loadKept (s : State) (p : Nat) (l : List Nat) : LoadKept s (s.unmapPages p l) := by
  refine .forEach s (fun b u => ?_) l
  split
  · dsimp only
    split
    · exact .of_parts rfl
    · exact u.tierUnmap_loadKept rfl rfl
  · exact .refl u

end Sys2Proof.Machine
end

section
/-! PROOF. A load that fails, and the window of shards in flight (13_weight_loading.md R293, R295). -/

namespace Sys2Proof.Machine

/-! ### A failed load -/

theorem State.loadStatus_status (s : State) (p st shard : Nat) {cause : Nat} (hst : st < 4) (hc : cause < 16) :
    bits ((s.loadStatus p st cause shard).rd (loadReg p)) 1 0 = st ∧ bits ((s.loadStatus p st cause shard).rd (loadReg p)) 11 8 = cause := by
  have h8 : loadReg p ≠ loadReg p + 8 := by omega
  unfold State.loadStatus
  rw [State.rd_setRf_ne _ _ _ _ h8, State.setRf, State.rd_setReg, State.setRf, State.rd_setReg]
  refine ⟨?_, ?_⟩
  · rw [bits_setBits_disjoint _ _ (by decide) (by decide) (by decide), bits_setBits_same _ _ (by decide) (by decide)]
    omega
  · rw [bits_setBits_same _ _ (by decide) (by decide)]
    omega

theorem State.loadStatus_part (s : State) (p st cause shard q : Nat) : (s.loadStatus p st cause shard).part q = s.part q := by
  obtain ⟨_, h⟩ := s.loadStatus_frame p st cause shard
  rw [h]
  rfl

/-- A partition whose load has failed. -/
def Part.loadLost (x : Part) : Part := { x with load := { Load.init with state := .failed }, refetch := none, refetchNext := [] }

/-- A load that fails (R295). -/
theorem State.loadFail_spec (s : State) (p status shard : Nat) {cause : Nat} (hc : cause < 16) :
    (s.loadFail p status cause shard).loadFailed p cause ∧ ((s.loadFail p status cause shard).part p).st = (s.part p).st ∧
    ((s.loadFail p status cause shard).part p).refetch = none := by
  have h : s.loadFail p status cause shard = ((((s.unmapPages p (s.part p).load.staged).onPart p Part.loadLost).loadStatus p 3 cause shard).commandDone
      (s.part p).load.tenant (s.part p).load.queue (s.part p).load.cmd status none) := rfl
  have hd := (((s.unmapPages p (s.part p).load.staged).onPart p Part.loadLost).loadStatus p 3 cause shard).commandDone_served
    (s.part p).load.tenant (s.part p).load.queue (s.part p).load.cmd status none
  rw [← h] at hd
  obtain ⟨hst, hcause⟩ := ((s.unmapPages p (s.part p).load.staged).onPart p Part.loadLost).loadStatus_status p 3 shard (by decide) hc
  have hpart : (s.loadFail p status cause shard).part p = ((s.unmapPages p (s.part p).load.staged).part p).loadLost := by
    rw [State.part, hd.parts]
    refine (State.loadStatus_part _ p 3 cause shard p).trans ?_
    rw [State.onPart, State.part_setPart]
  obtain ⟨_, _, _, hk⟩ := (s.unmapPages_loadKept p (s.part p).load.staged).part p
  rw [State.loadFailed, hpart, hd.rd, hk]
  exact ⟨⟨rfl, rfl, hst, hcause⟩, rfl, rfl⟩

/-! ### Lists with an element replaced -/

section
variable {α : Type}

theorem getElem?_setNth_self (v : α) : ∀ {l : List α} {k : Nat}, k < l.length → (setNth l k v)[k]? = some v
  | _ :: _, 0, _ => rfl
  | _ :: l, k + 1, h => getElem?_setNth_self v (l := l) (by simpa using h)

theorem forall₂_setNth {R : α → α → Prop} (hr : ∀ x, R x x) {v : α} : ∀ {l : List α} {k : Nat} {x : α}, l[k]? = some x → R x v →
    List.Forall₂ R l (setNth l k v)
  | a :: l, 0, x, h, hv => by
    cases h
    exact .cons hv (List.forall₂_same.mpr fun x _ => hr x)
  | a :: l, k + 1, x, h, hv => .cons (hr a) (forall₂_setNth hr (l := l) h hv)

theorem getElem?_of_forall₂ {R : α → α → Prop} {l l' : List α} (h : List.Forall₂ R l l') : ∀ {k : Nat} {x : α}, l[k]? = some x →
    ∃ y, l'[k]? = some y ∧ R x y := by
  induction h with
  | nil => exact fun h => nomatch h
  | @cons a b l l' hr _ ih =>
    intro k x hx
    cases k with
    | zero =>
      cases hx
      exact ⟨b, rfl, hr⟩
    | succ k => exact ih hx

theorem forall₂_trans {R : α → α → Prop} (hr : ∀ x y z, R x y → R y z → R x z) {l m : List α} (h : List.Forall₂ R l m) :
    ∀ {n : List α}, List.Forall₂ R m n → List.Forall₂ R l n := by
  induction h with
  | nil => exact fun k => k
  | cons hab _ ih =>
    intro n k
    cases k with
    | cons hbc k => exact .cons (hr _ _ _ hab hbc) (ih k)

theorem length_filter_setNth_le (P : α → Bool) (v : α) : ∀ (l : List α) (k : Nat), ((setNth l k v).filter P).length ≤ (l.filter P).length + 1
  | [], _ => Nat.zero_le _
  | a :: l, 0 => by
    have h (b : α) : (l.filter P).length ≤ ((b :: l).filter P).length ∧ ((b :: l).filter P).length ≤ (l.filter P).length + 1 := by
      rw [List.filter_cons]
      split
      · exact ⟨Nat.le_succ _, le_refl _⟩
      · exact ⟨le_refl _, Nat.le_succ _⟩
    exact (h v).2.trans (Nat.succ_le_succ (h a).1)
  | a :: l, k + 1 => by
    have h := length_filter_setNth_le P v l k
    rw [setNth, List.filter_cons, List.filter_cons]
    split
    · rw [List.length_cons, List.length_cons]
      omega
    · exact h

end

/-! ### The window -/

/-- A shard as it is, or one that has begun. -/
def Shard.Moved (x y : Shard) : Prop := y = x ∨ x.begun = false ∧ y = { x with begun := true }

theorem Shard.Moved.trans {x y z : Shard} (h : x.Moved y) (k : y.Moved z) : x.Moved z := by
  rcases h with rfl | ⟨h, rfl⟩
  · exact k
  · rcases k with rfl | ⟨k, -⟩
    · exact .inr ⟨h, rfl⟩
    · cases k

/-- How many shards of a load are in flight. -/
def Load.inFlight (l : Load) : Nat := (l.shards.filter (fun y => y.begun && !y.ok)).length

/-- From `s` to `u` the load of partition `p` has at most begun shards, up to four in flight. -/
structure WindowMoved (p : Nat) (s u : State) : Prop where
  part : ∃ t1 staged bad shards, u.part p = { s.part p with
    t1 := t1, load := { (s.part p).load with staged := staged, bad := bad, shards := shards } }
  shards : List.Forall₂ Shard.Moved (s.part p).load.shards (u.part p).load.shards
  inFlight : (u.part p).load.inFlight ≤ max (s.part p).load.inFlight 4

theorem WindowMoved.refl (p : Nat) (s : State) : WindowMoved p s s :=
  ⟨⟨_, _, _, _, rfl⟩, List.forall₂_same.mpr fun _ _ => .inl rfl, Nat.le_max_left _ _⟩

theorem WindowMoved.trans {p : Nat} {s t u : State} (h : WindowMoved p s t) (k : WindowMoved p t u) : WindowMoved p s u := by
  refine ⟨?_, ?_, ?_⟩
  · obtain ⟨_, _, _, _, hp⟩ := h.part
    obtain ⟨_, _, _, _, kp⟩ := k.part
    rw [hp] at kp
    exact ⟨_, _, _, _, kp⟩
  · exact forall₂_trans (R := Shard.Moved) (fun _ _ _ => Shard.Moved.trans) h.shards k.shards
  · have h1 := h.inFlight
    have h2 := k.inFlight
    omega

/-- The next shard is one of the load's, not begun. -/
theorem Load.nextShard_spec {l : Load} {k : Nat} {x : Shard} (h : l.nextShard = some (k, x)) : l.shards[k]? = some x ∧ x.begun = false := by
  have hall : ∀ r, l.nextShard = some r → l.shards[r.1]? = some r.2 ∧ r.2.begun = false := by
    unfold Load.nextShard
    refine List.foldlRecOn (motive := fun m => ∀ r : Nat × Shard, m = some r → l.shards[r.1]? = some r.2 ∧ r.2.begun = false) _ _
      (fun _ h => nomatch h) (fun m hm k _ r hr => ?_)
    split at hr
    · exact hm r hr
    · next x hx =>
      split at hr
      · exact hm r hr
      · next hb =>
        have hnew : l.shards[k]? = some x ∧ x.begun = false := ⟨hx, Bool.eq_false_iff.mpr hb⟩
        split at hr
        · split at hr
          · cases hr
            exact hnew
          · exact hm r hr
        · cases hr
          exact hnew
  exact hall (k, x) h

theorem LoadKept.moved {s u : State} (h : LoadKept s u) (p : Nat) : WindowMoved p s u := by
  obtain ⟨_, _, _, hp⟩ := h.part p
  refine ⟨⟨_, _, _, _, hp⟩, ?_, ?_⟩
  · rw [hp]
    exact List.forall₂_same.mpr fun _ _ => .inl rfl
  · rw [hp]
    exact Nat.le_max_left _ _

/-- One more shard begun. -/
theorem WindowMoved.begin {s : State} {p k : Nat} {x : Shard} (hx : (s.part p).load.shards[k]? = some x) (hb : x.begun = false)
    (h4 : (s.part p).load.inFlight < 4) :
    WindowMoved p s (s.onPart p (fun y => { y with load := y.load.setShard k { x with begun := true } })) := by
  have hp : (s.onPart p (fun y => { y with load := y.load.setShard k { x with begun := true } })).part p =
      { s.part p with load := (s.part p).load.setShard k { x with begun := true } } := by rw [State.onPart, State.part_setPart]
  refine ⟨⟨_, _, _, _, hp⟩, ?_, ?_⟩
  · rw [hp]
    exact forall₂_setNth (fun _ => .inl rfl) hx (.inr ⟨hb, rfl⟩)
  · rw [hp]
    have h := length_filter_setNth_le (fun y : Shard => y.begun && !y.ok) { x with begun := true } (s.part p).load.shards k
    exact (h.trans (Nat.succ_le_of_lt h4)).trans (Nat.le_max_right _ _)

/-- The shards that the window takes begin, or the load has found no room. -/
theorem State.startShards_moved (p : Nat) : ∀ (n : Nat) (s : State), WindowMoved p s (s.startShards p n) ∨
    (s.startShards p n).loadFailed p 5 ∧ ((s.startShards p n).part p).st = (s.part p).st
  | 0, s => .inl (.refl p s)
  | n + 1, s => by
    unfold State.startShards
    split
    · exact .inl (.refl p s)
    · next k x hn =>
      obtain ⟨hx, hb⟩ := Load.nextShard_spec hn
      split
      · exact .inl (.refl p s)
      · next hc =>
        have hkept := State.mapShard_loadKept p x.words (shPages x.words) s
        split
        · next s1 hm =>
          rw [hm] at hkept
          have h4 : (s.part p).load.inFlight < 4 := by
            have hmay : s.mayBegin p x = true := by
              cases h : s.mayBegin p x with
              | true => rfl
              | false => exact absurd (by rw [h]; simp) hc
            unfold State.mayBegin at hmay
            simp only [Bool.and_eq_true, decide_eq_true_eq] at hmay
            exact hmay.1.1
          obtain ⟨_, _, _, hp⟩ := hkept.part p
          have h1 := (hkept.moved p).trans (WindowMoved.begin (s := s1) (k := k) (x := x) (by rw [hp]; exact hx) hb (by rw [hp]; exact h4))
          rcases State.startShards_moved p n (s1.onPart p (fun y => { y with load := y.load.setShard k { x with begun := true } })) with h2 | ⟨h2, h3⟩
          · exact .inl (h1.trans h2)
          · refine .inr ⟨h2, h3.trans ?_⟩
            obtain ⟨_, _, _, _, h1p⟩ := h1.part
            rw [h1p]
        · next st s1 _ hm =>
          rw [hm] at hkept
          obtain ⟨hf, hst, -⟩ := s1.loadFail_spec p 0x0B (shId x.words) (cause := 5) (by decide)
          obtain ⟨_, _, _, hp⟩ := hkept.part p
          exact .inr ⟨hf, hst.trans (by rw [hp])⟩

theorem WindowMoved.shard {p k : Nat} {s u : State} (h : WindowMoved p s u) {x : Shard} (hx : (s.part p).load.shards[k]? = some x)
    (hb : x.begun = true) : (u.part p).load.shards[k]? = some x := by
  obtain ⟨y, hy, hm⟩ := getElem?_of_forall₂ h.shards hx
  rcases hm with rfl | ⟨hn, -⟩
  · exact hy
  · exact absurd (hb.symm.trans hn) (by decide)

end Sys2Proof.Machine
end

section
/-! PROOF. LOAD, the verification of shards, LOAD_COMPLETE, scrubbing and re-fetches (13_weight_loading.md R289 to R299, 16 R357). -/

namespace Sys2Proof.Machine

/-! ### LOAD -/

section
variable {s : State} {p : Nat} {t q : Nat} {e : SubEntry} {m : ModelManifest} {l : List W64}

/-- The entries of a manifest that this block owns. -/
def State.ownEntries (s : State) (f : Manifest) : List (List W64) := f.entries.filter (fun x => shBlock x == s.fab.pos)

/-- The load that an accepted manifest begins. -/
def State.newLoad (s : State) (t q : Nat) (e : SubEntry) (m : ModelManifest) (f : Manifest) (ks : List (Nat × List Byte)) : Load :=
  ⟨.loading, t, q, e.id, some m, bits (nth 0 f.header 3) 63 32, 0, (s.ownEntries f).map (fun x => ⟨x, 0, false, false, 0⟩), ks, [], t, none⟩

/-- A load begun, before its first shards. -/
def State.loadBegun (s : State) (p t q : Nat) (e : SubEntry) (m : ModelManifest) (f : Manifest) (ks : List (Nat × List Byte)) : State :=
  ((((((s.bindOwner p (Config.sha384 (bytesOf (f.sig.take 12)))).onPart p (fun x => { x with load := s.newLoad t q e m f ks })).loadStatus p 1 0 0).setRf
    (loadReg p) 63 32 (bits (nth 0 f.header 3) 63 32)).setRf (loadReg p + 8) 20 0 0).entryDone t q e.index none)

theorem State.recordOk_of_unwrapAll {id0 id1 : W64} : ∀ {l : List (List W64)} {ks : List (Nat × List Byte)},
    s.unwrapAll p id0 id1 l = some ks → ∀ r ∈ l, recordOk r = true
  | [], _, _, r, hr => absurd hr List.not_mem_nil
  | a :: l, ks, h, r, hr => by
    rw [State.unwrapAll] at h
    split at h
    · next k ks' hk hks =>
      rcases List.mem_cons.mp hr with rfl | hr
      · unfold State.unwrap at hk
        split at hk
        · cases hk
        · next hok => simpa using hok
      · exact State.recordOk_of_unwrapAll hks r hr
    · cases h

/-- The keys of a manifest are unwrapped: their ids repeat none, and every entry names one, or the load is refused. -/
def State.startKeyed (s : State) (p t q : Nat) (e : SubEntry) (m : ModelManifest) (f : Manifest) (ks : List (Nat × List Byte)) : State :=
  if (f.keys.map recordId).eraseDups.length ≠ (f.keys.map recordId).length then s.loadRefuse p t q e 0x07 9
  else if !f.entries.all (fun x => ks.any (fun k => k.1 == shKey x)) then s.loadRefuse p t q e 0x0B 9
  else (s.loadBegun p t q e m f ks).startShards p (s.ownEntries f).length

/-- The signature, the digest and the owner of a manifest pass. -/
def State.signed (s : State) (p : Nat) (f : Manifest) : Prop :=
  Config.sha384 (bytesOf f.entries.flatten) = bytesOf ((f.header.drop 5).take 6) ∧
  Config.ecdsaVerify (bytesOf (f.sig.take 12)) (bytesOf f.header ++ bytesOf f.entries.flatten) (bytesOf (f.sig.drop 12)) = true ∧
  s.ownerOk p (Config.sha384 (bytesOf (f.sig.take 12))) = true

/-- The header and the entries of a manifest keep Tables 13.1 and 13.2. -/
def State.entriesOk (s : State) (m : ModelManifest) (f : Manifest) : Bool :=
  headerOk f.header m.modelId0 m.modelId1 && f.entries.all shOk && entriesDistinct f.entries &&
    (s.ownEntries f).all (fun x => bit (nth 0 f.header 3) (24 + shBlock x))

/-- The key records of a manifest are too few, too many, or out of their format. -/
def State.keysBad (s : State) (f : Manifest) : Bool :=
  f.keys.isEmpty || decide (f.keys.length > 4096) ||
    decide ((List.range 16).foldl (fun n k => n + (s.part k).load.keys.length) 0 + f.keys.length > 16384) || !f.keys.all recordOk

theorem State.startLoad_eq (s : State) (p t q : Nat) (e : SubEntry) (m : ModelManifest) (l : List W64) : s.startLoad p t q e m l =
    if !manifestOk m then s.loadRefuse p t q e 0x0B 8 else
    match parseManifest l with
    | none => s.loadRefuse p t q e 0x0B 8
    | some f =>
      if Config.sha384 (bytesOf f.entries.flatten) ≠ bytesOf ((f.header.drop 5).take 6) ||
          !Config.ecdsaVerify (bytesOf (f.sig.take 12)) (bytesOf f.header ++ bytesOf f.entries.flatten) (bytesOf (f.sig.drop 12)) then
        s.loadRefuse p t q e 0x07 8
      else if !s.ownerOk p (Config.sha384 (bytesOf (f.sig.take 12))) then s.loadRefuse p t q e 0x07 9
      else if !s.entriesOk m f then s.loadRefuse p t q e 0x0B 8
      else if s.keysBad f then s.loadRefuse p t q e 0x0B 9
      else match s.unwrapAll p m.modelId0 m.modelId1 f.keys with
        | none => s.loadRefuse p t q e 0x07 9
        | some ks => s.startKeyed p t q e m f ks := rfl

theorem State.entriesOk_iff (s : State) (m : ModelManifest) (f : Manifest) : s.entriesOk m f = true ↔
    headerOk f.header m.modelId0 m.modelId1 = true ∧ (∀ e ∈ f.entries, shOk e = true) ∧ entriesDistinct f.entries = true ∧
      ∀ e ∈ f.entries, shBlock e = s.fab.pos → (nth 0 f.header 3).getLsbD (24 + shBlock e) = true := by
  simp only [State.entriesOk, State.ownEntries, Bool.and_eq_true, List.all_eq_true, List.mem_filter, beq_iff_eq, and_imp, and_assoc, bit]

theorem State.keysBad_iff (s : State) (f : Manifest) : s.keysBad f = false ↔ f.keys ≠ [] ∧ f.keys.length ≤ 4096 ∧
    (List.range 16).foldl (fun n k => n + (s.part k).load.keys.length) 0 + f.keys.length ≤ 16384 ∧ ∀ r ∈ f.keys, recordOk r = true := by
  simp only [State.keysBad, Bool.or_eq_false_iff, decide_eq_false_iff_not, not_lt, List.isEmpty_eq_false_iff, Bool.not_eq_false',
    List.all_eq_true, and_assoc, ne_eq, gt_iff_lt]

theorem namedBy_iff (f : Manifest) (ks : List (Nat × List Byte)) :
    f.entries.all (fun x => ks.any (fun k => k.1 == shKey x)) = true ↔ ∀ e ∈ f.entries, ∃ k ∈ ks, k.1 = shKey e := by
  simp only [List.all_eq_true, List.any_eq_true, beq_iff_eq]

/-- What `manifestAccepted` asks of the parsed parts. -/
theorem State.manifestAccepted_iff (s : State) (p : Nat) (m : ModelManifest) (l : List W64) : s.manifestAccepted p m l ↔
    manifestOk m = true ∧ ∃ f, parseManifest l = some f ∧ s.signed p f ∧ s.entriesOk m f = true ∧ s.keysBad f = false ∧
      ∃ ks, s.unwrapAll p m.modelId0 m.modelId1 f.keys = some ks ∧ (f.keys.map recordId).eraseDups.length = (f.keys.map recordId).length ∧
        f.entries.all (fun x => ks.any (fun k => k.1 == shKey x)) = true := by
  refine and_congr_right fun _ => exists_congr fun f => and_congr_right fun _ => ?_
  rw [State.entriesOk_iff, State.keysBad_iff]
  constructor
  · rintro ⟨hh, hd, hv, ho, hs, hdist, hmine, hk0, hk1, hk2, ks, hids, hks, hall⟩
    exact ⟨⟨hd, hv, ho⟩, ⟨hh, hs, hdist, hmine⟩, ⟨hk0, hk1, hk2, State.recordOk_of_unwrapAll hks⟩, ks, hks,
      hids.trans (List.length_map _).symm, (namedBy_iff f ks).mpr hall⟩
  · rintro ⟨⟨hd, hv, ho⟩, ⟨hh, hs, hdist, hmine⟩, ⟨hk0, hk1, hk2, -⟩, ks, hks, hids, hall⟩
    exact ⟨hh, hd, hv, ho, hs, hdist, hmine, hk0, hk1, hk2, ks, hids.trans (List.length_map _), hks, (namedBy_iff f ks).mp hall⟩

/-- Keys that are unwrapped begin the load where they are distinct and every entry names one. -/
theorem State.startKeyed_cases (s : State) (p t q : Nat) (e : SubEntry) (m : ModelManifest) (f : Manifest) (ks : List (Nat × List Byte)) :
    ((f.keys.map recordId).eraseDups.length = (f.keys.map recordId).length ∧ f.entries.all (fun x => ks.any (fun k => k.1 == shKey x)) = true ∧
      s.startKeyed p t q e m f ks = (s.loadBegun p t q e m f ks).startShards p (s.ownEntries f).length) ∨
    (¬((f.keys.map recordId).eraseDups.length = (f.keys.map recordId).length ∧ f.entries.all (fun x => ks.any (fun k => k.1 == shKey x)) = true) ∧
      ∃ status cause, s.startKeyed p t q e m f ks = s.loadRefuse p t q e status cause) := by
  unfold State.startKeyed
  generalize f.entries.all _ = named
  split
  · next h => exact .inr ⟨fun hk => h hk.1, _, _, rfl⟩
  · next h =>
    cases named with
    | false => exact .inr ⟨fun hk => Bool.false_ne_true hk.2, _, _, rfl⟩
    | true => exact .inl ⟨not_not.mp h, rfl, rfl⟩

/-- Every check of a LOAD passes and the load begins, or one fails and it is refused (R289, R290, R357 to R359). -/
theorem State.startLoad_cases (s : State) (p t q : Nat) (e : SubEntry) (m : ModelManifest) (l : List W64) :
    s.manifestAccepted p m l ∧ (∃ f ks, s.startLoad p t q e m l = (s.loadBegun p t q e m f ks).startShards p (s.ownEntries f).length) ∨
    ¬s.manifestAccepted p m l ∧ ∃ status cause, s.startLoad p t q e m l = s.loadRefuse p t q e status cause := by
  rw [State.manifestAccepted_iff, State.startLoad_eq]
  cases hm : manifestOk m with
  | false => exact .inr ⟨fun h => Bool.false_ne_true h.1, _, _, rfl⟩
  | true =>
  rw [Bool.not_true, if_neg Bool.false_ne_true]
  cases hf : parseManifest l with
  | none => exact .inr ⟨fun ⟨_, f, h, _⟩ => (nomatch h), _, _, rfl⟩
  | some f =>
  have hrefused {P : Manifest → Prop} (hP : ¬P f) {u : State} (hu : ∃ status cause, u = s.loadRefuse p t q e status cause) (R : Prop) :
      R ∨ ¬(true = true ∧ ∃ f', some f = some f' ∧ P f') ∧ ∃ status cause, u = s.loadRefuse p t q e status cause :=
    .inr ⟨fun ⟨_, f', h, hp⟩ => hP (Option.some.inj h ▸ hp), hu⟩
  dsimp only
  split
  · next h => exact hrefused (fun ⟨⟨hd, hv, _⟩, _⟩ => by simp [hd, hv] at h) ⟨_, _, rfl⟩ _
  next hsig =>
  split
  · next h => exact hrefused (fun ⟨⟨_, _, ho⟩, _⟩ => by simp [ho] at h) ⟨_, _, rfl⟩ _
  next hown =>
  split
  · next h => exact hrefused (fun ⟨_, he, _⟩ => by simp [he] at h) ⟨_, _, rfl⟩ _
  next hent =>
  split
  · next h => exact hrefused (fun ⟨_, _, hk, _⟩ => by simp [hk] at h) ⟨_, _, rfl⟩ _
  next hkeys =>
  split
  · next h => exact hrefused (fun ⟨_, _, _, ks, hks, _⟩ => by rw [h] at hks; cases hks) ⟨_, _, rfl⟩ _
  next ks hks =>
  rcases s.startKeyed_cases p t q e m f ks with ⟨hids, hnamed, h⟩ | ⟨hn, hr⟩
  · have hsd : s.signed p f := by
      rw [Bool.or_eq_true, not_or] at hsig
      exact ⟨by simpa using hsig.1, by simpa using hsig.2, by simpa using hown⟩
    exact .inl ⟨⟨rfl, f, rfl, hsd, by simpa using hent, by simpa using hkeys, ks, hks, hids, hnamed⟩, f, ks, h⟩
  · refine hrefused (fun ⟨_, _, _, ks', hks', hids, hnamed⟩ => ?_) hr _
    obtain rfl := Option.some.inj (hks'.symm.trans hks)
    exact hn ⟨hids, hnamed⟩

theorem State.loadRefuse_state (s : State) (p t q : Nat) (e : SubEntry) (status cause : Nat) :
    ((s.loadRefuse p t q e status cause).part p).load.state = .failed ∧ ((s.loadRefuse p t q e status cause).part p).st = (s.part p).st := by
  have hq := ((s.onPart p (fun x => { x with load := { Load.init with state := .failed } })).loadStatus p 3 cause 0).entryEnds_served t q e status
  have hp : (s.loadRefuse p t q e status cause).part p = { s.part p with load := { Load.init with state := .failed } } := by
    rw [State.loadRefuse, State.part, hq.parts]
    refine (State.loadStatus_part _ p 3 cause 0 p).trans ?_
    rw [State.onPart, State.part_setPart]
  rw [hp]
  exact ⟨rfl, rfl⟩

theorem State.bindOwner_parts (s : State) (p : Nat) (d : List Byte) : (s.bindOwner p d).parts = s.parts := by
  rw [State.bindOwner, State.setReg_parts]
  refine State.forEach_induct (P := fun u => u.parts = s.parts) (fun k u h => ?_) _ rfl
  rw [State.setReg_parts, h]

theorem State.loadBegun_part (s : State) (p t q : Nat) (e : SubEntry) (m : ModelManifest) (f : Manifest) (ks : List (Nat × List Byte)) :
    (s.loadBegun p t q e m f ks).part p = { s.part p with load := s.newLoad t q e m f ks } := by
  unfold State.loadBegun
  rw [State.part, (State.entryDone_served _ t q e.index none).parts, State.setRf, State.setReg_parts, State.setRf, State.setReg_parts]
  refine (State.loadStatus_part _ p 1 0 0 p).trans ?_
  rw [State.onPart, State.part_setPart, State.part, State.bindOwner_parts, State.part]

/-- A LOAD that Penub may act on. -/
theorem execLoad_of_ready {t : Fin 64} {q : Fin 8} {i : Nat} {b : List SubEntry} (ht : s.takeEntry t q i 0x0C = some (e, b)) (hc : e.clean 5 false = true)
    (h1 : bits (e.word 1) 59 0 = 0) (h2 : bits (e.word 2) 63 47 = 0) (h3 : bits (e.word 3) 63 47 = 0) (hp : (s.rd (hReg t 8)).getLsbD 2 = true)
    (hst : (s.part (bits (e.word 1) 63 60)).st = .loading)
    (hld : (s.part (bits (e.word 1) 63 60)).load.state = .idle ∨ (s.part (bits (e.word 1) 63 60)).load.state = .failed) :
    exec (.load t q i m l) s = .next (s.startLoad (bits (e.word 1) 63 60) t q e m l) := by
  have hbit : bit (s.rd (hReg t 8)) 2 = true := hp
  refine congrArg Host.Outcome.next ((State.withEntry_of_taken _ ht).trans (if_neg ?_))
  rcases hld with hld | hld <;> simp [hc, h1, h2, h3, hbit, hst, hld]

theorem mem_of_forall₂ {α : Type} {R : α → α → Prop} {l l' : List α} (h : List.Forall₂ R l l') : ∀ y ∈ l', ∃ x ∈ l, R x y := by
  induction h with
  | nil => exact fun _ h => absurd h List.not_mem_nil
  | @cons a b l l' hr _ ih =>
    intro y hy
    rcases List.mem_cons.mp hy with rfl | hy
    · exact ⟨a, List.mem_cons_self, hr⟩
    · obtain ⟨x, hx, hr⟩ := ih y hy
      exact ⟨x, List.mem_cons_of_mem _ hx, hr⟩

/-- What an accepted manifest leaves: a load in progress with at most four shards in flight, or one that found no room. -/
theorem State.loadBegun_started (s : State) (p t q : Nat) (e : SubEntry) (m : ModelManifest) (f : Manifest) (ks : List (Nat × List Byte)) (n : Nat)
    {u : State} (hu : u = (s.loadBegun p t q e m f ks).startShards p n) : (u.part p).st = (s.part p).st ∧ (u.loadFailed p 5 ∨
      (u.part p).load.state = .loading ∧ (u.part p).load.model = some m ∧
      (∀ x ∈ (u.part p).load.shards, x.ok = false ∧ shBlock x.words = s.fab.pos) ∧ ((u.part p).load.shards.filter (·.begun)).length ≤ 4) := by
  have hb := s.loadBegun_part p t q e m f ks
  rcases State.startShards_moved p n (s.loadBegun p t q e m f ks) with h | ⟨h, hst⟩
  · rw [← hu] at h
    obtain ⟨hpart, hshards, hfl⟩ := h
    have hnew : ∀ y ∈ (s.newLoad t q e m f ks).shards, y.ok = false ∧ y.begun = false ∧ shBlock y.words = s.fab.pos := by
      intro y hy
      obtain ⟨w, hw, rfl⟩ := List.mem_map.mp hy
      exact ⟨rfl, rfl, beq_iff_eq.mp (List.mem_filter.mp hw).2⟩
    rw [hb] at hshards hfl
    have hall : ∀ x ∈ (u.part p).load.shards, x.ok = false ∧ shBlock x.words = s.fab.pos := by
      intro x hx
      obtain ⟨y, hy, hm⟩ := mem_of_forall₂ hshards x hx
      obtain ⟨hok, -, hpos⟩ := hnew y hy
      rcases hm with rfl | ⟨-, rfl⟩
      · exact ⟨hok, hpos⟩
      · exact ⟨hok, hpos⟩
    have h0 : (s.newLoad t q e m f ks).inFlight = 0 := by
      rw [Load.inFlight, List.length_eq_zero_iff, List.filter_eq_nil_iff]
      intro y hy
      rw [(hnew y hy).2.1]
      exact Bool.false_ne_true
    have hcount : (u.part p).load.shards.filter (·.begun) = (u.part p).load.shards.filter (fun y => y.begun && !y.ok) :=
      List.filter_congr fun x hx => by rw [(hall x hx).1, Bool.not_false, Bool.and_true]
    refine ⟨?_, .inr ⟨?_, ?_, hall, ?_⟩⟩
    · obtain ⟨_, _, _, _, h⟩ := hpart
      rw [h, hb]
    · obtain ⟨_, _, _, _, h⟩ := hpart
      rw [h, hb]
      rfl
    · obtain ⟨_, _, _, _, h⟩ := hpart
      rw [h, hb]
      rfl
    · rw [hcount]
      refine le_trans hfl ?_
      change max (s.newLoad t q e m f ks).inFlight 4 ≤ 4
      rw [h0]
      decide
  · rw [← hu] at h hst
    exact ⟨hst.trans (by rw [hb]), .inl h⟩

end

/-! ### Shards -/

section
variable {s v : State} {p k : Nat} {x : Shard}

/-- What the check of a shard's bytes leaves: the shard placed, or the load failed with the cause. -/
def State.shardChecked (v : State) (p k : Nat) (x : Shard) : Except Nat (List Byte) → State
  | .error 3 => v.loadFail p 0x0B 3 (shId x.words)
  | .error n => (v.bump (cntBlk 20) 1).loadFail p 0x07 n (shId x.words)
  | .ok pt => v.placeShard p k x pt

theorem openShard_error_lt {key h c tag aad d : List _} {id len n : Nat} (hn : openShard key h c tag aad d id len = .error n) : n < 16 := by
  unfold openShard at hn
  split at hn
  · cases hn
    decide
  · split at hn
    · cases hn
      decide
    · split at hn
      · cases hn
      · cases hn
        decide

theorem State.shardChecked_of_error {n : Nat} (hn : n < 16) : (v.shardChecked p k x (.error n)).loadFailed p n := by
  unfold State.shardChecked
  split
  · next h =>
    cases h
    exact (v.loadFail_spec p 0x0B (shId x.words) (by decide)).1
  · next h =>
    cases h
    exact (State.loadFail_spec _ p 0x07 (shId x.words) hn).1
  · next h => cases h

theorem State.penubTier_parts (s : State) (op p page pool : Nat) (large pin unpin : Bool) :
    (s.penubTier op p page pool large pin unpin).parts = s.parts := rfl

theorem State.ingress_parts (s : State) (p : Nat) (e : List W64) (pt : List Byte) : (s.ingress p e pt).parts = s.parts := by
  refine State.forEach_induct (P := fun u => u.parts = s.parts) (fun k u h => ?_) _ rfl
  split
  · exact h
  · exact h

theorem State.demoteShard_parts {e : List W64} {u : State} (h : s.demoteShard p e = some u) : u.parts = s.parts := by
  unfold State.demoteShard at h
  split at h
  · cases h
    rfl
  · obtain ⟨pool, -, rfl⟩ := Option.map_eq_some_iff.mp h
    refine State.forEach_induct (P := fun u => u.parts = s.parts) (fun a u h => ?_) _ rfl
    exact h

theorem State.ingress_time (s : State) (p : Nat) (e : List W64) (pt : List Byte) : (s.ingress p e pt).time = s.time := by
  refine State.forEach_induct (P := fun u => u.time = s.time) (fun k u h => ?_) _ rfl
  split
  · exact h
  · exact h

theorem State.demoteShard_time {e : List W64} {u : State} (h : s.demoteShard p e = some u) : u.time = s.time := by
  unfold State.demoteShard at h
  split at h
  · cases h
    rfl
  · obtain ⟨pool, -, rfl⟩ := Option.map_eq_some_iff.mp h
    refine State.forEach_induct (P := fun u => u.time = s.time) (fun a u h => ?_) _ rfl
    exact h

theorem lt_length_of_getElem? {α : Type} {l : List α} {k : Nat} {x : α} (h : l[k]? = some x) : k < l.length :=
  (List.getElem?_eq_some_iff.mp h).1

/-- A verified shard is marked, unless the load then finds no room. -/
theorem State.placeShard_spec (hx : (v.part p).load.shards[k]? = some x) (hb : x.begun = true) (pt : List Byte) :
    (v.placeShard p k x pt).loadFailed p 5 ∨
    ((v.placeShard p k x pt).part p).load.shards[k]? = some { x with ok := true, lastCheck := v.time } ∧
      ((v.placeShard p k x pt).part p).load.state = (v.part p).load.state := by
  unfold State.placeShard
  extract_lets e s1 s2
  have h1 : s1.part p = { v.part p with load := (v.part p).load.setShard k { x with ok := true, lastCheck := v.time } } := by
    unfold s1
    rw [State.onPart, State.part_setPart, State.part, v.ingress_parts p e pt, State.part]
  have h2 : s2.part p = s1.part p := by
    unfold s2
    rw [State.part, State.setRf, State.setReg_parts, State.part]
  split
  · exact .inl (s2.loadFail_spec p 0x0B (shId e) (by decide)).1
  · next s3 h3 =>
    have h3p : s3.part p = { v.part p with load := (v.part p).load.setShard k { x with ok := true, lastCheck := v.time } } := by
      rw [State.part, State.demoteShard_parts h3]
      exact h2.trans h1
    rcases State.startShards_moved p (v.part p).load.shards.length s3 with h | ⟨h, -⟩
    · refine .inr ⟨h.shard ?_ hb, ?_⟩
      · rw [h3p]
        exact getElem?_setNth_self _ (lt_length_of_getElem? hx)
      · obtain ⟨_, _, _, _, hp⟩ := h.part
        rw [hp, h3p]
        rfl
    · exact .inl h

end

section
variable {s : State} {p : Fin 16} {k : Nat} {m : ModelManifest} {x : Shard}

section
variable (hl : s.live = true) (hst : ((s.loadStep p).part p).load.state = .loading) (hm : ((s.loadStep p).part p).load.model = some m)
  (hx : ((s.loadStep p).part p).load.shards[k]? = some x) (hb : x.begun = true) (hok : x.ok = false)
include hl hst hm hx hb hok

theorem execShardVerify_of_bytes (h : List W64) (c tag : List Byte) : exec (.shardVerify p k (.bytes h c tag)) s =
    .next ((s.loadStep p).shardChecked p k x (shardCheck ((s.loadStep p).part p).load m x.words h c tag)) := by
  change execShardVerify p k (.bytes h c tag) s = _
  unfold execShardVerify
  rw [if_neg (by rw [hl]; decide)]
  dsimp only
  rw [hm, hx]
  dsimp only
  rw [if_neg (by rw [hst, hb, hok]; decide)]
  rfl

theorem execShardVerify_of_error (n : Nat) : exec (.shardVerify p k (.error n)) s = .next
    (if x.tries + 1 > (s.loadStep p).rf 0x20058 3 0 then (s.loadStep p).loadFail p 0x0B 4 (shId x.words)
      else (s.loadStep p).onPart p (fun y => { y with load := y.load.setShard k { x with tries := x.tries + 1 } })) := by
  change execShardVerify p k (.error n) s = _
  unfold execShardVerify
  rw [if_neg (by rw [hl]; decide)]
  dsimp only
  rw [hm, hx]
  dsimp only
  rw [if_neg (by rw [hst, hb, hok]; decide)]

end

/-! ### LOAD_COMPLETE -/

/-- A partition whose load is done, with its KV blocks free. -/
def Part.loaded (m : ModelManifest) (x : Part) : Part :=
  { x with
    load := { x.load with state := .done }
    kvFree := (List.range m.kvCount).map (fun k => m.kvBase.toNat + k * m.kvBytes)
    kvAll := m.kvCount }

/-- A load done: the program in every rod, the KV blocks free, the measurement and the command complete. -/
def State.loadDone (v : State) (p : Nat) (m : ModelManifest) : State :=
  (((((v.forEach (v.rodsOf p) (fun l s => s.loadRod (s.phys l) m.program)).onPart p (Part.loaded m)).loadStatus p 2 0 0).measurePart p).commandDone
    (v.part p).load.tenant (v.part p).load.queue (v.part p).load.cmd 0 none)

section
variable (hl : s.live = true) (hm : ((s.loadStep p).part p).load.model = some m) (hst : ((s.loadStep p).part p).load.state = .loading)
include hl hm hst

omit hst in
theorem execLoadComplete_of_unverified (h : ∃ x ∈ ((s.loadStep p).part p).load.shards, x.ok = false) :
    exec (.loadComplete p) s = .next (s.loadStep p) := by
  obtain ⟨x, hx, hok⟩ := h
  have hall : ((s.loadStep p).part p).load.shards.all (·.ok) = false := by
    rw [List.all_eq_false]
    exact ⟨x, hx, by rw [hok]; exact Bool.false_ne_true⟩
  change execLoadComplete p s = _
  unfold execLoadComplete
  rw [if_neg (by rw [hl]; decide)]
  dsimp only
  rw [hm]
  dsimp only
  rw [if_pos (by rw [hall, Bool.not_false, Bool.or_true])]

theorem execLoadComplete_of_placed (h : ∀ x ∈ ((s.loadStep p).part p).load.shards, x.ok = true ∧ (s.loadStep p).placed p x.words = true) :
    exec (.loadComplete p) s = .next ((s.loadStep p).loadDone p m) := by
  have hall : ((s.loadStep p).part p).load.shards.all (·.ok) = true := List.all_eq_true.mpr fun x hx => (h x hx).1
  have hfind : ((s.loadStep p).part p).load.shards.find? (fun x => !(s.loadStep p).placed p x.words) = none := by
    rw [List.find?_eq_none]
    intro x hx
    rw [(h x hx).2]
    decide
  change execLoadComplete p s = _
  unfold execLoadComplete
  rw [if_neg (by rw [hl]; decide)]
  dsimp only
  rw [hm]
  dsimp only
  rw [if_neg (by rw [hall, hst]; decide), hfind]
  rfl

end

theorem State.loadRod_rod (s : State) (ph k : Nat) (prog : List W64) :
    ((s.loadRod ph prog).rod k).imgLen = if k = ph then prog.length else (s.rod k).imgLen := by
  unfold State.loadRod
  extract_lets s1 s2
  by_cases h : k = ph
  · rw [h, if_pos rfl, State.onRod, State.rod_setRod]
  · rw [if_neg h, State.onRod, State.rod_setRod_ne _ _ h]
    rfl

theorem State.loadRods_imgLen (v : State) (p : Nat) (prog : List W64) : ∀ l ∈ v.rodsOf p,
    ((v.forEach (v.rodsOf p) (fun l s => s.loadRod (s.phys l) prog)).rod (v.phys l)).imgLen = prog.length := by
  refine State.forEach_all (I := fun u => ∀ l, u.phys l = v.phys l) (Q := fun l u => (u.rod (v.phys l)).imgLen = prog.length) (fun a u h l => ?_)
    (fun a u h => ?_) (fun a b u _ hq => ?_) _ (fun _ => rfl)
  · rw [(u.loadRod_replayKept p (u.phys a) prog).phys, h]
  · rw [State.loadRod_rod, h, if_pos rfl]
  · rw [State.loadRod_rod]
    split
    · rfl
    · exact hq

theorem State.loadStatus_rods (s : State) (p st cause shard : Nat) : (s.loadStatus p st cause shard).rods = s.rods := by
  obtain ⟨_, h⟩ := s.loadStatus_frame p st cause shard
  rw [h]

theorem State.loadDone_spec (v : State) (p : Nat) (m : ModelManifest) : ((v.loadDone p m).part p).load.state = .done ∧
    ((v.loadDone p m).part p).kvAll = m.kvCount ∧
    ((v.loadDone p m).part p).kvFree = (List.range m.kvCount).map (fun n => m.kvBase.toNat + n * m.kvBytes) ∧
    ∀ l ∈ v.rodsOf p, ((v.loadDone p m).rod (v.phys l)).imgLen = m.program.length := by
  have hrods := v.loadRods_imgLen p m.program
  unfold State.loadDone
  generalize v.forEach (v.rodsOf p) (fun l s => s.loadRod (s.phys l) m.program) = w at hrods
  have hq := (((w.onPart p (Part.loaded m)).loadStatus p 2 0 0).measurePart p).commandDone_served (v.part p).load.tenant (v.part p).load.queue
    (v.part p).load.cmd 0 none
  have hpart : ((((w.onPart p (Part.loaded m)).loadStatus p 2 0 0).measurePart p).commandDone (v.part p).load.tenant (v.part p).load.queue
      (v.part p).load.cmd 0 none).part p = { (w.part p).loaded m with measured := ((w.onPart p (Part.loaded m)).loadStatus p 2 0 0).partBytes p } := by
    rw [State.part, hq.parts]
    refine (State.measurePart_part _ p).trans ?_
    rw [State.loadStatus_part, State.onPart, State.part_setPart]
  refine ⟨congrArg (·.load.state) hpart, congrArg Part.kvAll hpart, congrArg Part.kvFree hpart, fun l hl => ?_⟩
  have hrod : ((((w.onPart p (Part.loaded m)).loadStatus p 2 0 0).measurePart p).commandDone (v.part p).load.tenant (v.part p).load.queue
      (v.part p).load.cmd 0 none).rods = w.rods := by
    rw [hq.rods, State.measurePart, State.onPart, State.setPart_rods, State.loadStatus_rods, State.onPart, State.setPart_rods]
  rw [← hrods l hl, State.rod, hrod, State.rod]

end

end Sys2Proof.Machine
end

section
/-! PROOF. Scrubbing and re-fetches, and the settlement of O30 (13_weight_loading.md R297 to R299). -/

namespace Sys2Proof.Machine

/-! ### Scrub turns -/

section
variable (s : State) (p k : Nat)

theorem State.promoteShard_parts : (s.promoteShard p).parts = s.parts := by
  unfold State.promoteShard
  split
  · rfl
  · split
    · rfl
    · refine State.forEach_induct (P := fun u => u.parts = s.parts) (fun a u h => ?_) _ rfl
      split
      · exact h
      · exact (u.penubTier_parts _ _ _ _ _ _ _).trans h

theorem State.promoteShard_part (q : Nat) : (s.promoteShard p).part q = s.part q := by
  rw [State.part, s.promoteShard_parts, State.part]

theorem State.holdRefetch_part : (s.holdRefetch p).part p =
    if (s.part p).st = .running then { s.part p with st := .held, hold := 6 } else s.part p := by
  rw [State.holdRefetch, State.promoteShard_part]
  split
  · rw [State.onPart, State.part_setPart]
  · rfl

/-- A mismatch of a partition without a re-fetch starts one, and holds the partition where it is idle. -/
theorem State.startRefetch_of_none (h : (s.part p).refetch = none) : ((s.startRefetch p k).part p).refetch = some (k, s.time) ∧
    (s.idle p = true → (s.part p).st = .running → ((s.startRefetch p k).part p).st = .held ∧ ((s.startRefetch p k).part p).hold = 6) := by
  unfold State.startRefetch
  split
  · next h' => rw [h] at h'; cases h'
  extract_lets s1
  have h1 : s1.part p = { s.part p with refetch := some (k, s.time), refetchTries := 0 } := by
    unfold s1
    rw [State.onPart, State.part_setPart]
  have hidle : s1.idle p = s.idle p := by
    unfold State.idle
    rw [h1]
  rw [hidle]
  split
  · rw [State.holdRefetch_part, h1]
    refine ⟨?_, fun _ hr => ?_⟩
    · split
      · rfl
      · rfl
    · rw [if_pos hr]
      exact ⟨rfl, rfl⟩
  · next hn =>
    rw [h1]
    exact ⟨rfl, fun hi => absurd (by rw [hi, Bool.true_or]) hn⟩

/-- A mismatch met during a re-fetch waits behind it. -/
theorem State.startRefetch_of_some {j : Nat} {t0 : W64} (h : (s.part p).refetch = some (j, t0)) :
    ((s.startRefetch p k).part p).refetch = some (j, t0) ∧ (j ≠ k → k ∈ ((s.startRefetch p k).part p).refetchNext) := by
  unfold State.startRefetch
  rw [h]
  dsimp only
  split
  · next hn =>
    refine ⟨h, fun hj => ?_⟩
    simpa [hj] using hn
  · rw [State.onPart, State.part_setPart]
    exact ⟨h, fun _ => List.mem_append_right _ (List.mem_singleton_self k)⟩

/-- The counts of a check, and the time it was made. -/
theorem State.scrubCount_spec (x : Shard) :
    (s.scrubCount p k x).part p = { s.part p with load := (s.part p).load.setShard k { x with lastCheck := s.time } } ∧
    (s.scrubCount p k x).time = s.time := by
  unfold State.scrubCount
  extract_lets late
  rw [State.onPart, State.part_setPart, State.bump_part, State.bump_part, State.bump_part, State.setPart_time]
  exact ⟨rfl, by rw [State.bump_frame, State.bump_frame, State.bump_frame]⟩

end

section
variable {s : State} {p : Fin 16} {k : Nat} {x : Shard} {d : List Byte} (hl : s.live = true)
include hl

section
variable (hx : (s.part p).load.shards[k]? = some x) (ht : s.scrubTurn p x = true) (hd : s.shardDigest p x.words = some d)
include hx ht hd

theorem execScrubCheck_of_turn : exec (.scrubCheck p k) s = .next (if d = shDigest x.words then s.scrubCount p k x else s) := by
  change execScrubCheck p k s = _
  unfold execScrubCheck
  rw [hx]
  dsimp only
  rw [hl, ht, hd]
  exact congrArg Host.Outcome.next (if_congr (by simp) rfl rfl)

/-- What a mismatch leaves: counts, the shard named, and a re-fetch. -/
def State.scrubbed (s : State) (p k : Nat) (x : Shard) : State :=
  (((s.scrubCount p k x).bump (cntBlk 19) 1).setReg 0x20078 (w64 (shId x.words * 2 ^ 32 + 256 + p)))

theorem execScrubMismatch_of_turn : exec (.scrubMismatch p k) s =
    .next (if d = shDigest x.words then s else (s.scrubbed p k x).startRefetch p k) := by
  change execScrubMismatch p k s = _
  unfold execScrubMismatch
  rw [hx]
  dsimp only
  rw [hd]
  dsimp only
  rw [hl, ht, ← ite_not]
  exact congrArg Host.Outcome.next (if_congr (by simp) rfl rfl)

omit hl hx ht hd in
theorem State.scrubbed_spec (s : State) (p k : Nat) (x : Shard) :
    (s.scrubbed p k x).part p = { s.part p with load := (s.part p).load.setShard k { x with lastCheck := s.time } } ∧
    (s.scrubbed p k x).time = s.time := by
  obtain ⟨hp, ht⟩ := s.scrubCount_spec p k x
  unfold State.scrubbed
  rw [State.setReg_part, State.bump_part, State.setReg_time, State.bump_frame]
  exact ⟨hp, ht⟩

/-- A scrub turn (R297, R298). -/
theorem scrubTurn_spec : ∃ u v, exec (.scrubCheck p k) s = .next u ∧ exec (.scrubMismatch p k) s = .next v ∧
    (d = shDigest x.words → (u.part p).load.shards[k]? = some { x with lastCheck := s.time } ∧ v = s) ∧
    (d ≠ shDigest x.words → u = s ∧
      ((s.part p).refetch = none → (v.part p).refetch = some (k, s.time) ∧
        (s.idle p = true → (s.part p).st = .running → (v.part p).st = .held ∧ (v.part p).hold = 6)) ∧
      (∀ j t0, (s.part p).refetch = some (j, t0) → (v.part p).refetch = some (j, t0) ∧ (j ≠ k → k ∈ (v.part p).refetchNext))) := by
  refine ⟨_, _, execScrubCheck_of_turn hl hx ht hd, execScrubMismatch_of_turn hl hx ht hd, fun h => ?_, fun h => ?_⟩
  · rw [if_pos h, if_pos h, (s.scrubCount_spec p k x).1]
    exact ⟨getElem?_setNth_self _ (lt_length_of_getElem? hx), rfl⟩
  · rw [if_neg h, if_neg h]
    obtain ⟨hp, ht⟩ := s.scrubbed_spec p k x
    refine ⟨rfl, fun hr => ?_, fun j t0 hr => State.startRefetch_of_some _ p k (by rw [hp]; exact hr)⟩
    obtain ⟨href, hheld⟩ := (s.scrubbed p k x).startRefetch_of_none p k (by rw [hp]; exact hr)
    have hidle : (s.scrubbed p k x).idle p = s.idle p := by
      unfold State.idle
      rw [hp]
    rw [ht] at href
    rw [hidle, hp] at hheld
    exact ⟨href, hheld⟩

end

/-! ### Re-fetches -/

section
variable {t0 : W64} {m : ModelManifest} {sh : Shard} {h : List W64} {c tag : List Byte} (hr : (s.part p).refetch = some (k, t0))
include hr

/-- The pages of a shard under re-fetch lie in tier 1, none of them on its way elsewhere. -/
def State.shardHere (s : State) (p : Nat) (sh : Shard) : Bool :=
  (shPages sh.words).all (fun a => (s.tier1 p a).isSome && (s.moveOf p a (pageSize (shLarge sh.words))).isNone)

omit hl hr in
theorem State.shardHere_iff (s : State) (p : Nat) (sh : Shard) : s.shardHere p sh = true ↔
    ∀ a ∈ shPages sh.words, (s.tier1 p a).isSome = true ∧ s.moveOf p a (pageSize (shLarge sh.words)) = none := by
  simp only [State.shardHere, List.all_eq_true, Bool.and_eq_true, Option.isNone_iff_eq_none]

/-- A shard fetched again is written, with the time of its check. -/
def State.rewritten (s : State) (p k : Nat) (sh : Shard) (pt : List Byte) : State :=
  (s.ingress p sh.words pt).onPart p (fun y => { y with load := y.load.setShard k { sh with lastCheck := s.time } })

/-- What the bytes of a shard fetched again leave. -/
def State.refetched (s : State) (p k : Nat) (sh : Shard) : Except Nat (List Byte) → State
  | .error n => (s.bump (cntBlk 20) (b2n (n != 3))).onPart p (fun y => { y with refetchTries := y.refetchTries + 1 })
  | .ok pt => (((s.rewritten p k sh pt).demoteShard p sh.words).getD (s.rewritten p k sh pt)).refetchNextShard p

theorem execRefetchComplete_of_ready (hm : (s.part p).load.model = some m) (hx : (s.part p).load.shards[k]? = some sh)
    (hst : (s.part p).st = .held ∨ (s.part p).st = .loading) (hten : (s.ten (s.part p).load.tenant).st = .attached) :
    exec (.refetchComplete p (.bytes h c tag)) s =
      .next (if s.shardHere p sh = true then s.refetched p k sh (shardCheck (s.part p).load m sh.words h c tag) else s) := by
  change execRefetchComplete p (.bytes h c tag) s = _
  unfold execRefetchComplete
  dsimp only
  rw [hr, hm]
  dsimp only
  rw [hx]
  dsimp only
  have hstb : (decide ((s.part p).st = .held) || decide ((s.part p).st = .loading)) = true := by
    rcases hst with hst | hst <;> rw [hst] <;> decide
  rw [← ite_not, hl, hstb, hten]
  refine congrArg Host.Outcome.next (if_congr ?_ rfl rfl)
  simp [State.shardHere]

omit hl in
theorem State.refetched_of_error (n : Nat) : ((s.refetched p k sh (.error n)).part p).refetch = some (k, t0) ∧
    ((s.refetched p k sh (.error n)).part p).refetchTries = (s.part p).refetchTries + 1 ∧ (s.refetched p k sh (.error n)).hbm = s.hbm := by
  unfold State.refetched
  dsimp only
  rw [State.onPart, State.part_setPart, State.bump_part, State.setPart_hbm, State.bump_hbm]
  exact ⟨hr, rfl, rfl⟩

end

omit hl in
/-- The next re-fetch begins, or a partition held for the last one runs. -/
theorem State.refetchNextShard_spec (s : State) (p : Nat) :
    ((s.part p).refetchNext = [] → ((s.refetchNextShard p).part p).refetch = none ∧
      ((s.refetchNextShard p).part p).st = if (s.part p).hold = 6 then .running else (s.part p).st) ∧
    (∀ j r, (s.part p).refetchNext = j :: r → ((s.refetchNextShard p).part p).refetch = some (j, s.time) ∧
      ((s.refetchNextShard p).part p).refetchNext = r ∧ ((s.refetchNextShard p).part p).st = (s.part p).st) := by
  unfold State.refetchNextShard
  refine ⟨fun h => ?_, fun j r h => ?_⟩
  · rw [h]
    dsimp only
    rw [State.onPart, State.part_setPart]
    exact ⟨rfl, rfl⟩
  · rw [h]
    dsimp only
    rw [State.promoteShard_part, State.onPart, State.part_setPart]
    exact ⟨rfl, rfl, rfl⟩

omit hl in
/-- A shard that verifies is written and marked, and the re-fetch ends. -/
theorem State.refetched_of_ok (sh : Shard) (pt : List Byte) :
    ((s.part p).refetchNext = [] → ((s.refetched p k sh (.ok pt)).part p).refetch = none ∧
      ((s.refetched p k sh (.ok pt)).part p).st = if (s.part p).hold = 6 then .running else (s.part p).st) ∧
    (∀ j r, (s.part p).refetchNext = j :: r → ((s.refetched p k sh (.ok pt)).part p).refetch = some (j, s.time) ∧
      ((s.refetched p k sh (.ok pt)).part p).refetchNext = r ∧ ((s.refetched p k sh (.ok pt)).part p).st = (s.part p).st) := by
  unfold State.refetched
  dsimp only
  have hp1 : (s.rewritten p k sh pt).part p = { s.part p with load := (s.part p).load.setShard k { sh with lastCheck := s.time } } := by
    rw [State.rewritten, State.onPart, State.part_setPart, State.part, s.ingress_parts p sh.words pt, State.part]
  have ht1 : (s.rewritten p k sh pt).time = s.time := by
    rw [State.rewritten, State.onPart, State.setPart_time, s.ingress_time]
  generalize s.rewritten p k sh pt = s1 at hp1 ht1
  have h2 : ((s1.demoteShard p sh.words).getD s1).parts = s1.parts ∧ ((s1.demoteShard p sh.words).getD s1).time = s1.time := by
    cases hd : s1.demoteShard p sh.words with
    | none => exact ⟨rfl, rfl⟩
    | some u => exact ⟨State.demoteShard_parts hd, State.demoteShard_time hd⟩
  generalize (s1.demoteShard p sh.words).getD s1 = s2 at h2
  have hp2 : s2.part p = s1.part p := by rw [State.part, h2.1, State.part]
  have h := s2.refetchNextShard_spec p
  rw [hp2, hp1, h2.2, ht1] at h
  exact h

/-! ### The limit of a re-fetch -/

omit hl in
/-- A re-fetch that fails takes a load in progress with it, and unloads the partition otherwise (R299). -/
theorem State.refetchFail_spec (s : State) (p k : Nat) : ((s.refetchFail p k).part p).refetch = none ∧
    ((s.part p).load.state = .loading → (s.refetchFail p k).loadFailed p 2) ∧
    ((s.part p).load.state ≠ .loading → ((s.refetchFail p k).part p).st = .loading ∧ ((s.refetchFail p k).part p).load = Load.init ∧
      ((s.refetchFail p k).part p).opened = none) := by
  unfold State.refetchFail
  by_cases h : (s.part p).load.state = .loading
  · rw [if_pos h]
    obtain ⟨hf, -, href⟩ := s.loadFail_spec p 0x07 (match (s.part p).load.shards[k]? with | some x => shId x.words | none => 0)
      (cause := 2) (by decide)
    exact ⟨href, fun _ => hf, fun hn => absurd h hn⟩
  · rw [if_neg h]
    have hop : (((s.clearPart p 0x07 0).unmapPages p (s.part p).load.staged).part p).opened = none := by
      have hc : ((s.clearPart p 0x07 0).part p).opened = none := State.clearPart_opened s p (by decide) 0
      generalize s.clearPart p 0x07 0 = w at hc ⊢
      obtain ⟨_, _, _, hk⟩ := (w.unmapPages_loadKept p (s.part p).load.staged).part p
      rw [hk]
      exact hc
    dsimp only
    generalize (s.clearPart p 0x07 0).unmapPages p (s.part p).load.staged = w at hop ⊢
    rw [State.measurePart_part, State.loadStatus_part, State.onPart, State.part_setPart]
    exact ⟨rfl, fun hl => absurd hl h, fun _ => ⟨rfl, rfl, hop⟩⟩

section
variable {t0 : W64} (hr : (s.part p).refetch = some (k, t0))
include hr

theorem execRefetchLimitExpire_of_late (h : t0.toNat + s.rf 0x20070 9 0 * 10 ^ 9 ≤ s.time.toNat) :
    exec (.refetchLimitExpire p) s = .next (s.refetchFail p k) := by
  change execRefetchLimitExpire p s = _
  unfold execRefetchLimitExpire
  rw [hr]
  dsimp only
  rw [if_pos (by rw [hl, decide_eq_true h]; rfl)]

omit hl in
theorem execRefetchLimitExpire_of_early (h : s.time.toNat < t0.toNat + s.rf 0x20070 9 0 * 10 ^ 9)
    (hten : (s.ten (s.part p).load.tenant).st = .attached) : exec (.refetchLimitExpire p) s = .next s := by
  change execRefetchLimitExpire p s = _
  unfold execRefetchLimitExpire
  rw [hr]
  dsimp only
  rw [if_neg (by rw [decide_eq_false (not_le.mpr h), hten]; simp)]

end

end

/-! ### The obligation -/

section
variable (s : State) (p : Fin 16) (k : Nat)

theorem load_spec (t : Fin 64) (q : Fin 8) (i : Nat) (m : ModelManifest) (l : List W64) (e : SubEntry) (b : List SubEntry)
    (ht : s.takeEntry t q i 0x0C = some (e, b)) (hc : e.clean 5 false = true) (h1 : bits (e.word 1) 59 0 = 0)
    (h2 : bits (e.word 2) 63 47 = 0) (h3 : bits (e.word 3) 63 47 = 0) (hp : (s.rd (hReg t 8)).getLsbD 2 = true)
    (hst : (s.part (bits (e.word 1) 63 60)).st = .loading)
    (hld : (s.part (bits (e.word 1) 63 60)).load.state = .idle ∨ (s.part (bits (e.word 1) 63 60)).load.state = .failed) :
    ∃ u, exec (.load t q i m l) s = .next u ∧ (u.part (bits (e.word 1) 63 60)).st = .loading ∧
      (s.manifestAccepted (bits (e.word 1) 63 60) m l → u.loadFailed (bits (e.word 1) 63 60) 5 ∨
        (u.part (bits (e.word 1) 63 60)).load.state = .loading ∧ (u.part (bits (e.word 1) 63 60)).load.model = some m ∧
        (∀ x ∈ (u.part (bits (e.word 1) 63 60)).load.shards, x.ok = false ∧ shBlock x.words = s.fab.pos) ∧
        ((u.part (bits (e.word 1) 63 60)).load.shards.filter (·.begun)).length ≤ 4) ∧
      (¬s.manifestAccepted (bits (e.word 1) 63 60) m l → (u.part (bits (e.word 1) 63 60)).load.state = .failed) := by
  refine ⟨_, execLoad_of_ready ht hc h1 h2 h3 hp hst hld, ?_⟩
  rcases s.startLoad_cases (bits (e.word 1) 63 60) t q e m l with ⟨hacc, f, ks, h⟩ | ⟨hrej, status, cause, h⟩
  · obtain ⟨hst', hb⟩ := s.loadBegun_started (bits (e.word 1) 63 60) t q e m f ks _ h
    exact ⟨hst'.trans hst, fun _ => hb, fun hn => absurd hacc hn⟩
  · obtain ⟨hf, hst'⟩ := s.loadRefuse_state (bits (e.word 1) 63 60) t q e status cause
    rw [h]
    exact ⟨hst'.trans hst, fun ha => absurd ha hrej, fun _ => hf⟩

variable {s p k} (hl : s.live = true)
include hl

theorem shardVerify_spec {m : ModelManifest} {x : Shard} (hst : ((s.loadStep p).part p).load.state = .loading)
    (hm : ((s.loadStep p).part p).load.model = some m) (hx : ((s.loadStep p).part p).load.shards[k]? = some x) (hb : x.begun = true)
    (hok : x.ok = false) :
    (∀ (h : List W64) (c tag : List Byte), ∃ u, exec (.shardVerify p k (.bytes h c tag)) s = .next u ∧
      (∀ pt, shardCheck ((s.loadStep p).part p).load m x.words h c tag = .ok pt → u.loadFailed p 5 ∨
        (u.part p).load.shards[k]? = some { x with ok := true, lastCheck := s.time } ∧ (u.part p).load.state = .loading) ∧
      (∀ n, shardCheck ((s.loadStep p).part p).load m x.words h c tag = .error n → u.loadFailed p n)) ∧
    (∀ n, ∃ u, exec (.shardVerify p k (.error n)) s = .next u ∧
      (if x.tries + 1 > (s.loadStep p).rf 0x20058 3 0 then u.loadFailed p 4
       else (u.part p).load.shards[k]? = some { x with tries := x.tries + 1 })) := by
  refine ⟨fun h c tag => ⟨_, execShardVerify_of_bytes hl hst hm hx hb hok h c tag, fun pt hpt => ?_, fun n hn => ?_⟩,
    fun n => ⟨_, execShardVerify_of_error hl hst hm hx hb hok n, ?_⟩⟩
  · rw [hpt]
    have hp := State.placeShard_spec hx hb pt
    rw [State.loadStep_time, hst] at hp
    exact hp
  · rw [hn]
    exact State.shardChecked_of_error (openShard_error_lt hn)
  · split
    · exact (State.loadFail_spec _ p 0x0B _ (by decide)).1
    · rw [State.onPart, State.part_setPart]
      exact getElem?_setNth_self _ (lt_length_of_getElem? hx)

theorem refetchComplete_spec {t0 : W64} {m : ModelManifest} {x : Shard} {h : List W64} {c tag : List Byte}
    (hr : (s.part p).refetch = some (k, t0)) (hm : (s.part p).load.model = some m) (hx : (s.part p).load.shards[k]? = some x)
    (hst : (s.part p).st = .held ∨ (s.part p).st = .loading) (hten : (s.ten (s.part p).load.tenant).st = .attached) :
    (s.shardHere p x ≠ true → exec (.refetchComplete p (.bytes h c tag)) s = .next s) ∧
    (s.shardHere p x = true → ∃ u, exec (.refetchComplete p (.bytes h c tag)) s = .next u ∧
      (∀ n, shardCheck (s.part p).load m x.words h c tag = .error n →
        (u.part p).refetch = some (k, t0) ∧ (u.part p).refetchTries = (s.part p).refetchTries + 1 ∧ u.hbm = s.hbm) ∧
      (∀ pt, shardCheck (s.part p).load m x.words h c tag = .ok pt →
        ((s.part p).refetchNext = [] → (u.part p).refetch = none ∧
          (u.part p).st = (if (s.part p).hold = 6 then .running else (s.part p).st)) ∧
        (∀ j r, (s.part p).refetchNext = j :: r → (u.part p).refetch = some (j, s.time) ∧ (u.part p).refetchNext = r ∧
          (u.part p).st = (s.part p).st))) := by
  have hexec := execRefetchComplete_of_ready (h := h) (c := c) (tag := tag) hl hr hm hx hst hten
  refine ⟨fun hn => hexec.trans (congrArg Host.Outcome.next (if_neg hn)),
    fun hy => ⟨_, hexec.trans (congrArg Host.Outcome.next (if_pos hy)), fun n hn => ?_, fun pt hpt => ?_⟩⟩
  · rw [hn]
    exact State.refetched_of_error hr n
  · rw [hpt]
    exact State.refetched_of_ok x pt

end

/-- Settles O30, clause by clause: the checks of a LOAD, one shard's verification, the end of a load, a scrub turn, a re-fetch and its limit. -/
theorem modelLoadsAndScrubbing : Obligations.ModelLoadsAndScrubbing := by
  unfold Obligations.ModelLoadsAndScrubbing
  refine ⟨fun s t q i m l e b ht hc h1 h2 h3 hp => load_spec s t q i m l e b ht hc h1 h2 h3 hp,
    fun s p k m x hl hst hm hx hb hok => shardVerify_spec hl hst hm hx hb hok, fun s p m hl => ?_,
    fun s p k x d hl hx ht hd => scrubTurn_spec hl hx ht hd, fun s p k t0 m x h c tag hl hr hm hx hst hten => ?_, fun s p k t0 hl hr => ?_⟩
  · intro v hm hst
    exact ⟨execLoadComplete_of_unverified hl hm, fun h => ⟨_, execLoadComplete_of_placed hl hm hst h, v.loadDone_spec p m⟩⟩
  · intro here
    have hiff : s.shardHere p x = true ↔ here := s.shardHere_iff p x
    rw [← hiff]
    exact refetchComplete_spec hl hr hm hx hst hten
  · obtain ⟨href, hload, hclear⟩ := s.refetchFail_spec p k
    exact ⟨fun h => ⟨_, execRefetchLimitExpire_of_late hl hr h, href, hload, hclear⟩,
      fun h hten => execRefetchLimitExpire_of_early hr h hten⟩

end Sys2Proof.Machine
end
